-- ==== Sys2Proof/Word.lean ====
section
/-! DEFINITION. The plain word types of the model and the exact numbers that its arithmetic works with. -/

namespace Sys2Proof

/-- One byte (00 R10: byte 0 of a field holds bits [7:0]). -/
abbrev Byte := BitVec 8

/-- A 32-bit word: a scalar register, an FP32 pattern, a lane. -/
abbrev W32 := BitVec 32

/-- A 64-bit word: a shape register, a set-up register, a command register. -/
abbrev W64 := BitVec 64

/-- A 64-byte record, line, unit, bundle or ring entry; byte 0 in bits [7:0]. -/
abbrev Line := BitVec 512

/-- An exact extended number: what an element pattern stands for (04 R101), or an exact sum or product of such.
`fin neg m e` is (-1)^neg * m * 2^e; a zero keeps its sign (04 R103, R105). -/
inductive Ex where
  | nan
  | inf (neg : Bool)
  | fin (neg : Bool) (m : Nat) (e : Int)
deriving DecidableEq, Repr

/-- The element formats of 03 R62 (codes 0 to 9) and UE4M3 of 04 R101, used for fine scales only. -/
inductive Fmt where
  | bf16 | fp16 | e4m3 | e5m2 | e3m2 | e2m3 | e2m1 | int8 | int4 | fp32 | ue4m3
deriving DecidableEq, Repr

end Sys2Proof
end

