-- ==== Sys2Proof/Syntax.lean ====
section
/-! DEFINITION. The commands of the block: one constructor for each row of spec/opcode_table.json, in the table's order.
A command names the unit it concerns and carries what comes from outside the module (host memory read, peer packets,
pins, sensor readings, sampled outputs). -/

namespace Sys2Proof

/-- A physical cluster: 320 × quarter + physical index (02 R27). -/
abbrev ClusterId := Fin 1280
/-- A stack S00 to S15. -/
abbrev StackId := Fin 16
/-- A bank engine: 256 × stack + 8 × channel + 4 × pseudo-channel + bank group (05 R131). -/
abbrev EngineId := Fin 4096
/-- A pseudo-channel: 64 × stack + 2 × channel + pseudo-channel. -/
abbrev PcId := Fin 1024
/-- A bank: 4 × engine + bank, the top bits of a PLN (05 R133). -/
abbrev BankId := Fin 16384
/-- A channel of the module: 32 × stack + channel. -/
abbrev ChannelId := Fin 512
/-- A function: 0 the physical function, 1 to 8 the virtual functions (11 R303). -/
abbrev FnId := Fin 9
/-- A partition slot. -/
abbrev PartId := Fin 8
/-- A ring slot of a function. -/
abbrev RingId := Fin 16
/-- A Motra port. -/
abbrev PortId := Fin 16
/-- A physical lane of a port. -/
abbrev LaneId := Fin 5
/-- A control core. -/
abbrev CoreId := Fin 16
/-- A sensor site. -/
abbrev SiteId := Fin 136
/-- A regulator rail in the bit order of PWR_STATUS oc (17 R431). -/
abbrev RailId := Fin 14

/-- The pipes of a cluster in which operations are in progress (03 R71, R74). -/
inductive Pipe where
  | lane | trans | array | drain | matrixMarker | load | store
deriving DecidableEq, Repr

/-- The source that a quarter memory controller stamps into a command packet (05 R149). -/
inductive PacketSource where
  | firmware
  | partition (p : PartId)
deriving DecidableEq, Repr

/-- A command packet as its source writes it: words 0 and 1 and the payload (05 R149). -/
structure Packet where
  w0 : W64
  w1 : W64
  payload : List W64
deriving DecidableEq, Repr

/-- The queue a copy descriptor comes from (10 R290). -/
inductive CopyQueue where
  | ring (fn : FnId) (r : RingId)
  | program (p : PartId)
deriving DecidableEq, Repr

/-- What one item of a route sheet brought forth, as the program wrote it at output_off (08 R239, R242). -/
structure ItemOutput where
  /-- accepted draft tokens -/
  accepted : Nat
  /-- tokens sampled, first position first -/
  tokens : List W32
deriving DecidableEq, Repr

/-- A frame header of Motra, 24 bytes (15 R380), and its decrypted payload lines. -/
structure Frame where
  header : BitVec 192
  payload : List Line
  /-- whether the GCM tag verifies under the session of the sender -/
  tagOk : Bool
deriving DecidableEq, Repr

/-- A cause that abandons a step (08 R245). -/
inductive AbandonCause where
  | failedSeal (ledger : Nat)
  | poisoned (pln : Nat)
  | circularBusError (ledger : Nat)
deriving DecidableEq, Repr

/-- What NONCE meets: its argument block, none where the host could not deliver it, and the nonce that is drawn (16 R402). -/
structure NonceInput where
  block : Option Line
  drawn : BitVec 256
deriving DecidableEq, Repr

/-- How the row copies of a die's replacement end: the stack, and whether every line could be read from the spare die (20 R472, R475). -/
structure RowsDone where
  stack : StackId
  spareOk : Bool
deriving DecidableEq, Repr

/-- What boot self-test and the flash gave, for BOOT (16 R397, 18 R446, 20 R466). -/
structure BootResult where
  identityOk : Bool
  protectedOk : Bool
  /-- self-test of the quarter buffers, fabrics and bridges -/
  fabricOk : Bool
  failedClusters : List Nat
  failedCores : List Nat
  /-- 17 × stack + die, die 16 the spare -/
  failedDies : List Nat
  failedLanes : List Nat
  /-- sensors that failed their test: 2 × site + sensor -/
  failedSensors : List Nat
  bootId : BitVec 64
  /-- GA[2:0] as sampled -/
  ga : BitVec 3
deriving DecidableEq, Repr

/-- The commands. -/
inductive Instr where
  | bundleFetch (c : ClusterId)
  | bundleIssue (c : ClusterId)
  | scalarLoadReturn (c : ClusterId)
  | clusterHaltComplete (c : ClusterId)
  | fenceComplete (c : ClusterId)
  | marker (c : ClusterId) (p : Pipe)
  | vLd (c : ClusterId)
  | vSt (c : ClusterId)
  | vBcast (c : ClusterId)
  | vAdd (c : ClusterId)
  | vMul (c : ClusterId)
  | vMax (c : ClusterId)
  | vExp2 (c : ClusterId)
  | vRcp (c : ClusterId)
  | vRsqrt (c : ClusterId)
  | tAdd (c : ClusterId)
  | tMulv (c : ClusterId)
  | tCvt (c : ClusterId)
  | tExp2 (c : ClusterId)
  | tCmax (c : ClusterId)
  | tCsum (c : ClusterId)
  | tCsq (c : ClusterId)
  | tSilu (c : ClusterId)
  | tZero (c : ClusterId)
  | mmaBf16 (c : ClusterId)
  | mmaF16 (c : ClusterId)
  | mmaF8 (c : ClusterId)
  | mmaF6 (c : ClusterId)
  | mmaF4 (c : ClusterId)
  | mmaI8 (c : ClusterId)
  | mmaI4 (c : ClusterId)
  | mmaMix (c : ClusterId)
  | mmd (c : ClusterId)
  | ldT (c : ClusterId)
  | stT (c : ClusterId)
  | ldQ (c : ClusterId)
  | stQ (c : ClusterId)
  | stC (c : ClusterId)
  | remoteSignal (c : ClusterId)
  | longOpComplete (c : ClusterId) (p : Pipe)
  | preemptRequest (p : PartId) (job : Nat)
  | jobSave (p : PartId) (job : Nat)
  | jobSaveComplete (p : PartId) (job : Nat)
  | jobRestore (p : PartId) (job : Nat)
  | yieldTimeout (c : ClusterId)
  | create (fn : FnId) (index : BitVec 8)
  | regionRelease (fn : FnId) (index : BitVec 8)
  | convert (fn : FnId) (index : BitVec 8)
  | lock (fn : FnId) (index : BitVec 8)
  | setShare (fn : FnId) (index : BitVec 8)
  | regionCommandComplete
  | writeCr (st : StackId) (src : PacketSource) (pk : Packet)
  | start (st : StackId) (src : PacketSource) (pk : Packet)
  | suspend (st : StackId) (src : PacketSource) (pk : Packet)
  | resume (st : StackId) (src : PacketSource) (pk : Packet)
  | abort (st : StackId) (src : PacketSource) (pk : Packet)
  | status (st : StackId) (src : PacketSource) (pk : Packet)
  | mergeOpen (st : StackId) (src : PacketSource) (pk : Packet)
  | blank (st : StackId) (src : PacketSource) (pk : Packet) (first : BitVec 30) (lines : BitVec 31)
  | sieve (st : StackId) (src : PacketSource) (pk : Packet) (first : BitVec 30) (lines : BitVec 31)
  | level (st : StackId) (src : PacketSource) (pk : Packet)
  | pattern (st : StackId) (src : PacketSource) (pk : Packet) (channel : Fin 32) (failing : List Nat)
  | diemap (st : StackId) (src : PacketSource) (pk : Packet)
  | preloadComplete (e : EngineId)
  | permitGrant (pc : PcId)
  | refreshDue (b : BankId)
  | refresh (b : BankId)
  | forcedSuspension (e : EngineId)
  | mergeFold (st : StackId) (slot : Fin 512)
  | darvyNop (e : EngineId) (dt : Nat)
  | movi (e : EngineId) (dt : Nat)
  | movh (e : EngineId) (dt : Nat)
  | getc (e : EngineId) (dt : Nat)
  | darvyAdd (e : EngineId) (dt : Nat)
  | darvySub (e : EngineId) (dt : Nat)
  | darvyShl (e : EngineId) (dt : Nat)
  | darvyShr (e : EngineId) (dt : Nat)
  | loop (e : EngineId) (dt : Nat)
  | bz (e : EngineId) (dt : Nat)
  | darvyBr (e : EngineId) (dt : Nat)
  | yield (e : EngineId) (dt : Nat)
  | yieldAct (e : EngineId) (dt : Nat)
  | end_ (e : EngineId) (dt : Nat)
  | runEnd (e : EngineId) (dt : Nat)
  | darvyFmul (e : EngineId) (dt : Nat)
  | frsq (e : EngineId) (dt : Nat)
  | qset (e : EngineId) (dt : Nat)
  | scan (e : EngineId) (dt : Nat)
  | dot (e : EngineId) (dt : Nat)
  | expm (e : EngineId) (dt : Nat)
  | accv (e : EngineId) (dt : Nat)
  | ladd (e : EngineId) (dt : Nat)
  | lmul (e : EngineId) (dt : Nat)
  | lssq (e : EngineId) (dt : Nat)
  | lcvt (e : EngineId) (dt : Nat)
  | rope (e : EngineId) (dt : Nat)
  | append (e : EngineId) (dt : Nat)
  | fetch (e : EngineId) (dt : Nat)
  | stl (e : EngineId) (dt : Nat)
  | wrl (e : EngineId) (dt : Nat)
  | emit (e : EngineId) (dt : Nat)
  | sliceTimeout (e : EngineId)
  | bankEngineFault (e : EngineId)
  | libraryLoad (image : List Byte)
  | routeSheetBuild (p : PartId)
  | layerPacketsSend (p : PartId) (layer : Nat) (st : StackId)
  | relief (p : PartId) (st : StackId)
  | parcelAllocationResume (p : PartId)
  | spillComplete (p : PartId) (ledger : Nat)
  | posteRestanteFetch (p : PartId) (seq : Nat)
  | fetchBackComplete (p : PartId) (ledger : Nat) (cipher : Option (List Byte × Line))
  | submit (fn : FnId) (r : RingId)
  | promptFetchComplete (p : PartId) (request : W32) (tokens : Option (List W32))
  | cancel (fn : FnId) (r : RingId)
  | prefixSetList (fn : FnId) (r : RingId)
  | prefixEvict (fn : FnId) (r : RingId)
  | hint (fn : FnId) (r : RingId)
  | budgetRefill (p : PartId)
  | bestEffortCredit (p : PartId) (spare : Nat)
  | commit (p : PartId) (outputs : List ItemOutput) (probe : List Byte)
  | stepAbandon (p : PartId) (cause : AbandonCause)
  | reissuedSheetRelease (p : PartId)
  | copy (q : CopyQueue) (host : Option (List Byte))
  | gather (q : CopyQueue) (host : Option (List Byte)) (list : Option (List Byte))
  | scatter (q : CopyQueue) (host : Option (List Byte)) (list : Option (List Byte))
  | collective (q : CopyQueue)
  | copyComplete (id : Nat) (delivered : Bool)
  | collectiveJoinTimeout (id : Nat)
  | programCopyQueuePoll (p : PartId)
  | tensorCreate (fn : FnId) (r : RingId) (desc : Option Line)
  | tensorDestroy (fn : FnId) (r : RingId)
  | tensorDestroyComplete (p : PartId) (index : Fin 4096)
  | digestOpen (fn : FnId) (r : RingId)
  | digestClose (fn : FnId) (r : RingId)
  | digestCloseComplete (p : PartId) (stream : Fin 16)
  | pcieLinkTrained (width : Nat) (gts : Nat) (flit : Bool)
  | bar0BadWrite
  | letterboxPoll (fn : FnId)
  | letterboxReadComplete (fn : FnId) (data : Option Line)
  | descriptorFetchComplete (fn : FnId) (r : RingId) (data : Option (List Line))
  | ringEntryWriteFailed (fn : FnId) (r : RingId) (lost : Option W32)
  | ringEnable (fn : FnId) (mask : BitVec 16)
  | ringDisable (fn : FnId) (mask : BitVec 16)
  | ringDrainComplete (fn : FnId) (r : RingId)
  | ringStatusClear (fn : FnId) (mask : BitVec 16)
  | job (fn : FnId) (r : RingId)
  | jobStart (p : PartId) (job : Nat) (image : Option (List Byte)) (header : Option Line)
  | summaryWrite (fn : FnId)
  | eventTokenRefill
  | evtMaskWrite (fn : FnId) (value : W64)
  | evtRateWrite (fn : FnId) (block : Fin 16) (value : W64)
  | clearPulses (fn : FnId) (value : W64)
  | msixUnmask (fn : FnId)
  | fastInterrupt (core : CoreId)
  | normalInterrupt (core : CoreId)
  | evtIcClaim (core : CoreId)
  | fastHandlerOverrun (core : CoreId)
  | throttleNEdge (high : Bool)
  | throttleNAccept
  | throttleFastEnd
  | throttleNStuck
  | throttleStuckClear
  | timePulseEdge
  | moduleTimeTick
  | setup (fn : FnId) (p : PartId)
  | reconfigure (fn : FnId) (p : PartId)
  | partitionRelease (fn : FnId) (p : PartId)
  | partitionCommandComplete (failing : List Nat)
  | timeSliceBoundary (p : PartId)
  | jobFault (p : PartId) (job : Nat) (code : BitVec 8)
  | moduleWideLoss (cause : Fin 8)
  | moduleRestartComplete (fabricOk : Bool) (failedCores : List Nat)
  | ceBucketDecay
  | repairPeerAnswer (pln : BitVec 34) (data : Option Line)
  | repairPeerTimeout (pln : BitVec 34)
  | repairHostReadComplete (pln : BitVec 34) (data : Option Line)
  | errorRecordAck (source : Fin 42)
  | sieveDescriptor (fn : FnId) (r : RingId)
  | modSieveGo (fn : FnId)
  | sieveStackDone (st : StackId)
  | patrolPass
  | portTrain (fn : FnId) (port : PortId)
  | trainingComplete (port : PortId) (passing : BitVec 5) (peer : Option (BitVec 9))
  | trainingTimeout (port : PortId)
  | laneMark (port : PortId) (lane : LaneId)
  | laneRetrainDue (port : PortId)
  | portDisable (fn : FnId) (port : PortId)
  | idLock (fn : FnId) (id : BitVec 9)
  | portWaitTimeout (copy : Nat)
  | write (port : PortId) (fr : Frame)
  | read (port : PortId) (fr : Frame)
  | data (port : PortId) (fr : Frame)
  | atomic (port : PortId) (fr : Frame)
  | ack (port : PortId) (fr : Frame)
  | nak (port : PortId) (fr : Frame)
  | repair (port : PortId) (fr : Frame)
  | coll (port : PortId) (fr : Frame)
  | event (port : PortId) (fr : Frame)
  | session (port : PortId) (fr : Frame) (valid : Bool)
  | packetTimeout (tag : BitVec 16)
  | sessionRetry (peer : BitVec 9)
  | sessionPortsDownTimeout (peer : BitVec 9)
  | nonce (fn : FnId) (fresh : NonceInput)
  | update (fn : FnId) (arg : Option Line)
  | commitFloor (fn : FnId) (arg : Option Line)
  | enrol (fn : FnId) (arg : Option Line)
  | revoke (fn : FnId) (arg : Option Line)
  | unlock (fn : FnId) (arg : Option Line)
  | getMeasurements (index : BitVec 8) (reqNonce : BitVec 256)
  | getCertificate (slot : Nat)
  | challenge (request : List Byte)
  | keyExchange (request : List Byte)
  | ideKeyProgram (fn : FnId) (request : List Byte)
  | getDeviceInterfaceReport (fn : FnId) (reqNonce : BitVec 256)
  | tdiLock (fn : FnId)
  | tdiRun (fn : FnId)
  | tdiError (fn : FnId)
  | bypass
  | idcode
  | powerUp (millivolts : Nat)
  | powerGoodTimeout
  | powerDown (millivolts : Nat)
  | inputOvervoltage (millivolts : Nat)
  | inputBandChange (millivolts : Nat)
  | rationRecompute (energy : List (W32 × W32)) (unrationed input : W32) (amps : BitVec 16)
  | overCurrentAlert (rail : RailId)
  | overCurrentHoldRelease (rail : RailId)
  | sensorSample (site : SiteId) (a b : Option Int)
  | tripComparator (site : SiteId)
  | phaseFailure (rail : RailId) (phase : Nat)
  | pllLockLoss (domain : Fin 25)
  | ptmRequest
  | ptmSample (reference : W64)
  | holdoverTimeout
  | pulseLost
  | perstNAssert (microseconds : Nat)
  | modResetCold (fn : FnId) (value : W64)
  | modResetWarm (fn : FnId) (value : W64)
  | hotReset
  | vfFunctionLevelReset (fn : FnId)
  | boot (r : BootResult)
  | firmwareReady
  | partStepRead (fn : FnId) (p : PartId)
  | repairMapWrite
  | wearLogRead (fn : FnId) (value : W64)
  | wearLogReadComplete (written : Bool)
  | clusterRetest (failing : List Nat)
  | clusterMark (fn : FnId) (value : W64)
  | rowRemap (b : BankId) (row : BitVec 16)
  | dieCopy (fn : FnId) (value : W64)
  /-- `spareOk` clear: a line was uncorrectable in the spare die (20 R475) -/
  | dieCopyRowsDone (st : RowsDone)
  | tstPatCmd (fn : FnId) (value : W64)
  | patternRunComplete (failing : List (BitVec 34 × Bool))
  | tstPortTest (fn : FnId) (port : PortId) (value : W64)
  | moduleInsert
  | moduleRemove
  | smbStatus
  | smbInput
  | smbPower
  | hottest
  | smbTime
  | identity
  | site (n : SiteId)
  | alertResponse
  | smbRefusedTransfer (code : BitVec 8)
  | registerWrite (fn : FnId) (offset : BitVec 24) (wide : Bool) (value : W64)
  | perstNDeassert
  | inputFallsBelow70V (millivolts : Nat)
  | overCurrentAlertDeassert (rail : RailId)
  | sliceOverrun (e : EngineId)
  | engineRestEnd (e : EngineId)
  | configurationWrite (numVfs : Fin 9) (vfEnable ptmEnable : Bool)
  | terminationComplete (p : PartId)
  | secOperationComplete (body : Option (List Byte)) (sig : Option (List Byte)) (flashOk : Bool)
  | checkerLock (port : PortId) (lane : LaneId) (errors : BitVec 12)
  | dbgInstruction (trst : Bool) (offset : BitVec 23) (value : Option W64)
deriving DecidableEq, Repr

end Sys2Proof
end

