-- ==== Sys2Proof/Machine/Tab.lean ====
section
/-! DEFINITION. The one form of every memory, register file and table of the state: a list of (key, value) pairs in ONE
canonical form (keys strictly rising, no entry equal to what an unlisted key reads as), so that equal contents are
equal data. The unlisted value is a function `d` of the key. -/

namespace Sys2Proof.Machine

/-- Contents by key. `Tab Byte` is a list of `Host.Cell`. -/
abbrev Tab (α : Type) := List (Nat × α)

/-- A byte memory. -/
abbrev Mem := List Host.Cell

namespace Tab

variable {α : Type}

/-- What key `k` reads as. -/
def get (d : Nat → α) : Tab α → Nat → α
  | [], k => d k
  | (j, w) :: t, k => if k = j then w else get d t k

/-- Drop every entry of key `k`. -/
def drop (k : Nat) (t : Tab α) : Tab α := t.filter (fun e => e.1 != k)

/-- Write `v` at key `k`, keeping the canonical form. -/
def set [DecidableEq α] (d : Nat → α) : Tab α → Nat → α → Tab α
  | [], k, v => if v = d k then [] else [(k, v)]
  | (j, w) :: t, k, v =>
    if k < j then (if v = d k then (j, w) :: drop k t else (k, v) :: (j, w) :: t)
    else if k = j then (if v = d k then drop k t else (k, v) :: t)
    else (j, w) :: set d t k v

/-- The canonical form from a key on: keys at or above `lo`, strictly rising, no unlisted value listed. -/
def wfFrom [DecidableEq α] (d : Nat → α) : Nat → Tab α → Bool
  | _, [] => true
  | lo, (k, v) :: t => decide (lo ≤ k) && !decide (v = d k) && wfFrom d (k + 1) t

/-- The canonical form. -/
def wf [DecidableEq α] (d : Nat → α) (t : Tab α) : Bool := wfFrom d 0 t

/-- Write consecutive values from key `k` on. -/
def setList [DecidableEq α] (d : Nat → α) (t : Tab α) (k : Nat) : List α → Tab α
  | [] => t
  | v :: vs => setList d (set d t k v) (k + 1) vs

/-- Read `n` consecutive values from key `k` on. -/
def getList (d : Nat → α) (t : Tab α) (k : Nat) : Nat → List α
  | 0 => []
  | n + 1 => get d t k :: getList d t (k + 1) n

/-- Drop every entry whose key fails `p`: those keys read as unlisted again. -/
def keep (p : Nat → Bool) (t : Tab α) : Tab α := t.filter (fun e => p e.1)

/-- Change every listed value, keeping the canonical form. -/
def mapVals [DecidableEq α] (d : Nat → α) (f : α → α) (t : Tab α) : Tab α :=
  t.foldr (fun e acc => if f e.2 = d e.1 then drop e.1 acc else (e.1, f e.2) :: acc) []

/-- Change the value at a key. -/
def modify [DecidableEq α] (d : Nat → α) (t : Tab α) (k : Nat) (f : α → α) : Tab α :=
  set d t k (f (get d t k))

end Tab

/-- Canonical form of a byte memory whose unlisted bytes read as `d`. -/
abbrev Memory.wf (d : Nat → Byte) (m : Mem) : Bool := Tab.wf d m

end Sys2Proof.Machine
end

