-- ==== Sys2Proof/Machine/Bits.lean ====
section
/-! DEFINITION. Bit fields, byte order and saturating counts (00 R10). -/

namespace Sys2Proof.Machine

/-- Bits [lo + len - 1 : lo] of a number. -/
def bitsOf (x lo len : Nat) : Nat := (x / 2 ^ lo) % 2 ^ len

/-- Field [hi:lo] of a word, written as the spec writes it. -/
def fld {n : Nat} (x : BitVec n) (hi lo : Nat) : Nat := bitsOf x.toNat lo (hi + 1 - lo)

/-- One bit of a word. -/
def bitAt {n : Nat} (x : BitVec n) (i : Nat) : Bool := x.getLsbD i

/-- The word with field [hi:lo] replaced by `v`. -/
def setFld {n : Nat} (x : BitVec n) (hi lo v : Nat) : BitVec n :=
  let m : BitVec n := BitVec.ofNat n ((2 ^ (hi + 1 - lo) - 1) * 2 ^ lo)
  (x &&& ~~~m) ||| (BitVec.ofNat n (v * 2 ^ lo) &&& m)

/-- A number placed at bit `lo`, for building words from fields. -/
def at_ (lo v : Nat) : Nat := v * 2 ^ lo

/-- A number from a flag. -/
def b2n (b : Bool) : Nat := if b then 1 else 0

/-- The bytes of a number, byte 0 first (00 R10). -/
def toBytes : Nat → Nat → List Byte
  | 0, _ => []
  | n + 1, x => BitVec.ofNat 8 x :: toBytes n (x / 256)

/-- The number that bytes spell, byte 0 first (00 R10). -/
def ofBytes : List Byte → Nat
  | [] => 0
  | b :: bs => b.toNat + 256 * ofBytes bs

/-- Byte `i` of a 64-byte line. -/
def lineByte (l : Line) (i : Nat) : Byte := BitVec.ofNat 8 (l.toNat / 2 ^ (8 * i))

/-- The 64 bytes of a line. -/
def lineBytes (l : Line) : List Byte := toBytes 64 l.toNat

/-- A line from bytes (missing bytes are zero). -/
def lineOf (bs : List Byte) : Line := BitVec.ofNat 512 (ofBytes bs)

/-- Bytes [first : first + n) of a line, as a number. -/
def lineNat (l : Line) (first n : Nat) : Nat := (l.toNat / 2 ^ (8 * first)) % 2 ^ (8 * n)

/-- A line with the bytes from `first` on replaced by the `n` bytes of `v`. -/
def setLine (l : Line) (first n v : Nat) : Line := setFld l (8 * (first + n) - 1) (8 * first) v

/-- The signed value of an `n`-bit field. -/
def signed (n x : Nat) : Int := if 2 ^ n ≤ 2 * x then (x : Int) - 2 ^ n else x

/-- An integer taken modulo 2^32. -/
def wrap32 (x : Int) : W32 := BitVec.ofInt 32 x

/-- A count that stops at its greatest value. -/
def satAdd (max x n : Nat) : Nat := min max (x + n)

/-- Whether every byte is zero. -/
def allZero (bs : List Byte) : Bool := bs.all (fun b => b == 0)

/-- Rounded-up quotient. -/
def ceilDiv (a b : Nat) : Nat := (a + b - 1) / b

/-- The number of set bits among the low `n`. -/
def popcount : Nat → Nat → Nat
  | 0, _ => 0
  | n + 1, x => x % 2 + popcount n (x / 2)

/-- The positions of the set bits among the low `n`, ascending. -/
def setBits (n x : Nat) : List Nat := (List.range n).filter (fun i => x.testBit i)

/-- ASCII text as bytes. -/
def ascii (s : String) : List Byte := s.toList.map (fun c => BitVec.ofNat 8 c.toNat)

/-- Pad with zero bytes to a length. -/
def padTo (n : Nat) (bs : List Byte) : List Byte := bs ++ List.replicate (n - bs.length) 0

/-- Elements split into groups of `k` (fuel bounds the number of groups). -/
def chunks {α : Type} (k : Nat) : Nat → List α → List (List α)
  | 0, _ => []
  | f + 1, l => if l.isEmpty then [] else l.take k :: chunks k f (l.drop k)

/-- The least index at or above `i` (below `i + fuel`) that satisfies `p`. -/
def firstFrom (p : Nat → Bool) : Nat → Nat → Option Nat
  | 0, _ => none
  | f + 1, i => if p i then some i else firstFrom p f (i + 1)

/-- Insertion by a comparison: stable for equal keys. -/
def insertBy {α : Type} (le : α → α → Bool) (x : α) : List α → List α
  | [] => [x]
  | y :: ys => if le x y then x :: y :: ys else y :: insertBy le x ys

/-- A stable sort by a comparison. -/
def sortBy {α : Type} (le : α → α → Bool) : List α → List α
  | [] => []
  | x :: xs => insertBy le x (sortBy le xs)

/-- The list with element `i` replaced. -/
def listSet {α : Type} (l : List α) (i : Nat) (x : α) : List α := l.set i x

end Sys2Proof.Machine
end

