-- ==== Sys2Proof/Machine/Codes.lean ====
section
/-! DEFINITION. The codes of a stored line (05 R135 to R138, 14 R351): the shortened Reed-Solomon code of a protected
line, the seal of a compute line, the blank code and the poison code. A stored line is its 72 bytes: 64 of data, then
8 of side-band. -/

namespace Sys2Proof.Machine

/-- Multiplication by α = 0x02 in GF(2^8) with the field polynomial x^8 + x^4 + x^3 + x^2 + 1 (05 R135). -/
def gfTwo (a : Nat) : Nat := if a < 128 then 2 * a else (2 * a) ^^^ 0x11D

/-- Product in GF(2^8); the fuel is the number of bits of the second factor. -/
def gfMulF : Nat → Nat → Nat → Nat
  | 0, _, _ => 0
  | k + 1, a, b => (if b % 2 = 1 then a else 0) ^^^ gfMulF k (gfTwo a) (b / 2)

/-- Product in GF(2^8). -/
def gfMul (a b : Nat) : Nat := gfMulF 8 a b

/-- α^n. -/
def gfPow : Nat → Nat
  | 0 => 1
  | n + 1 => gfTwo (gfPow n)

/-- Evaluate a polynomial, highest coefficient first, at a point. -/
def gfEval (x : Nat) (cs : List Nat) : Nat := cs.foldl (fun acc c => gfMul acc x ^^^ c) 0

/-- The generator polynomial g(x) = Π (x - α^i), i = 0 to n - 1, highest coefficient first, without its leading 1. -/
def rsGenerator : Nat → List Nat
  | 0 => []
  | n + 1 =>
    let g := 1 :: rsGenerator n
    let shifted : List Nat := g ++ [0]
    let scaled : List Nat := 0 :: g.map (fun c => gfMul c (gfPow n))
    (List.zipWith (· ^^^ ·) shifted scaled).drop 1

/-- One step of the division by g: the remainder register takes in the next data symbol. -/
def rsStep (g reg : List Nat) (d : Nat) : List Nat :=
  let f := d ^^^ reg.headD 0
  List.zipWith (fun r c => r ^^^ gfMul f c) (reg.drop 1 ++ [0]) g

/-- The 8 check bytes of 64 data bytes (05 R135). -/
def rsCheck (data : List Byte) : List Byte :=
  let g := rsGenerator 8
  ((data.map BitVec.toNat).foldl (rsStep g) (List.replicate 8 0)).map (BitVec.ofNat 8)

/-- The eight syndromes of a 72-byte word. -/
def rsSyndromes (w : List Byte) : List Nat :=
  (List.range 8).map (fun j => gfEval (gfPow j) (w.map BitVec.toNat))

/-- What the decoder makes of a word that is not the blank code (05 R135, R138). -/
inductive Decoded where
  | clean (data : List Byte)
  | corrected (stored : List Byte)
  | bad
deriving DecidableEq, Repr

/-- Whether the syndromes are those of the error value `v` at byte `i` alone. -/
def rsMatches (syn : List Nat) (v i : Nat) : Bool :=
  syn == (List.range 8).map (fun j => gfMul v (gfPow (j * (71 - i))))

/-- The decoder of 05 R135: a codeword, one symbol from a codeword, or uncorrectable. -/
def rsDecode (w : List Byte) : Decoded :=
  let syn := rsSyndromes w
  if syn.all (· == 0) then .clean (w.take 64)
  else
    let v := syn.headD 0
    match (List.range 72).filter (rsMatches syn v) with
    | [i] => if v = 0 then .bad else .corrected (w.set i (w.getD i 0 ^^^ BitVec.ofNat 8 v))
    | _ => .bad

/-- One byte of the reflected CRC-32C. -/
def crcByte (crc : Nat) (b : Byte) : Nat :=
  (List.range 8).foldl (fun c _ => if c % 2 = 1 then (c / 2) ^^^ 0x82F63B78 else c / 2) (crc ^^^ b.toNat)

/-- CRC-32C: reflected polynomial 0x1EDC6F41, initial value and final XOR 0xFFFFFFFF (05 R136). -/
def crc32c (bs : List Byte) : Nat := (bs.foldl crcByte 0xFFFFFFFF) ^^^ 0xFFFFFFFF

/-- The seal of a compute line: CRC-32C of the 64 data bytes and the PLN as 8 bytes (05 R136). -/
def sealOf (data : List Byte) (pln : Nat) : Nat := crc32c (data ++ toBytes 8 pln)

/-- The side-band of a compute line: seal in bytes 0 to 3, zero in bytes 4 to 7 (05 R136). -/
def sealSide (data : List Byte) (pln : Nat) : List Byte := toBytes 4 (sealOf data pln) ++ List.replicate 4 0

/-- The blank code (05 R137). -/
def blankLine : List Byte := List.replicate 64 0 ++ List.replicate 8 0xFF

/-- The poison code (14 R351). -/
def poisonLine : List Byte := List.replicate 68 0 ++ List.replicate 4 0xFF

/-- A stored compute line whose seal matches and whose side-band bytes 4 to 7 are zero (05 R138). -/
def sealOk (w : List Byte) (pln : Nat) : Bool := w.drop 64 == sealSide (w.take 64) pln

end Sys2Proof.Machine
end

