-- ==== Sys2Proof/Config.lean ====
section
/-! DEFINITION. What the spec leaves to an implementation or does not state, as constants without a body: nothing can
evaluate them, and a claim about them holds whatever they are. Also the keys, and the functions of published standards, whose values
the spec does not fix (00 R7; log 7). -/

namespace Sys2Proof.Config

/-- A fresh unstated value, chosen by the model's counter (log 3). -/
opaque freeValue : Nat → BitVec 64

/-- The exact sum of terms among which there are infinities of both signs: 04 states no result (log 3). -/
opaque openSum : List Ex → W32

/-- The product of a zero and an infinity: 04 states no result (log 3). -/
opaque openProduct : Ex → Ex → W32

/-- A quotient of two zeros or two infinities, or a quotient by zero: 04 states no result (log 3). -/
opaque openQuotient : Ex → Ex → W32

/-- Which of two zeros of unlike sign a maximum or a minimum gives: true takes the second (log 3). -/
opaque pickSecondZero : W32 → W32 → Bool

/-- A correctly rounded transcendental whose enclosure did not decide the rounding at the precision used
(02 R35 fixes the result; the enclosure is far finer than any FP32 case needs) (log 12). -/
opaque unresolvedRounding : Nat → W32 → W32

/-- A memory encryption pair and a poste restante key, by the number that the security core made it under: random keys that never
leave the chip (16 R393; log 7). -/
opaque memoryKey : Nat → BitVec 512
opaque posteKey : Nat → BitVec 256

/-- ML-DSA-44 verification of a signature over a message under a public key (00 R7). -/
opaque verify : List Byte → List Byte → List Byte → Bool

/-- ML-DSA-44 signature by one of the module's own keys, named by a number (16 R393). -/
opaque sign : Nat → List Byte → List Byte

/-- Varper's firmware key, debug key and library key, whose digests are in ROM (16 R397, R410). -/
opaque varperKey : Nat → List Byte

/-- The device identity public key, derived from the identity seed (16 R394). -/
opaque identityKey : List Byte

/-- The certificate chain of 16 R395 for a boot identifier and slots 0 to 2. -/
opaque certificateChain : BitVec 64 → List (BitVec 256) → List Byte

/-- The body of an SPDM, IDE or TDISP answer whose wire form the published standard gives (00 R7), for a request. -/
opaque protocolAnswer : Nat → List Byte → List Byte

/-- The IDCODE of the debug port (00 R7; the spec states no value). -/
opaque idcode : W32

/-- The key a session derives from its transcript (15 R383). -/
opaque sessionKey : List Byte → Nat

/-- The calibration scales of the model program for a partition, model, layer and head: K, then V (07 R195; log 3). -/
opaque kCalibration : Nat → Bool → Nat → Nat → W32
opaque vCalibration : Nat → Bool → Nat → Nat → W32

/-- Offsets within a route sheet and its step areas, which the round builder chooses: by kind and position (08 R238 to
R240; log 11). -/
opaque sheetOffset : Nat → Nat → BitVec 32

/-- The words that the builder gives a RAPP run's registers, by the run and the register (08 R240; log 34). -/
opaque rappWord : List Nat → Nat → BitVec 64

/-- The scales that the program computes for a parcel that one prefill chunk fills, where it does (07 R195; log 3): by a free number and the
ledger index. -/
opaque chunkScale : Nat → Nat → Option (W32 × W32)

/-- The scale of an item's rotated queries, which the model program chooses (07 R195; log 11). -/
opaque queryScale : Nat → W32

/-- How a program lays an item's acceptance count and sampled tokens at its output_off (08 R239; log 11). -/
opaque outputBytes : Nat → List W32 → List Byte

/-- The image that the factory put into a bank of the flash, key 2 × target + bank, and the library that flash names (6) and
Varper's own (7) (16 R397; log 8). -/
opaque factoryImage : Nat → List Byte

/-- The bytes of the flash configuration that stage one measures into slot 5 for a repair map: the map, the trims and the helper
data (16 R397; log 11). -/
opaque flashConfig : List (Nat × Nat) → List Byte

/-- A line of a firmware-owned region of the module as flash gives it: code, or the micro-program library (14 R356; log 69). -/
opaque flashLine : Nat → Line

/-- A wear log record that was never written, as flash holds it (20 R464). -/
opaque blankRecord : Nat → BitVec 256

/-- How firmware rounds a quantity into a register field of a number of bits (17 R431; log 3). -/
opaque fieldOf : Nat → W32 → Nat

/-- The quarter whose control cores FEAT_QUARTER counts when it is read through BAR0, modulo 4 (02 R55; log 3). -/
opaque barQuarter : Nat

end Sys2Proof.Config
end

