-- ==== Sys2Proof/Machine/Crypto.lean ====
section
/-! DEFINITION. The functions that 00 R7 takes from published standards and that those standards fix: SHA3-256 (FIPS 202),
AES-256-XTS (SP 800-38E) and AES-256-GCM (SP 800-38D) (log 7). -/

namespace Sys2Proof.Machine

/-! ### SHA3-256 (FIPS 202) -/

/-- A lane of the sponge's state: lane x + 5 y. -/
def lane (a : List (BitVec 64)) (x y : Nat) : BitVec 64 := a.getD (x % 5 + 5 * (y % 5)) 0

/-- A state from its lanes. -/
def lanesOf (f : Nat → Nat → BitVec 64) : List (BitVec 64) := (List.range 25).map (fun i => f (i % 5) (i / 5))

/-- The rotation of each lane. -/
def rho : List Nat := [0, 1, 62, 28, 27, 36, 44, 6, 55, 20, 3, 10, 43, 25, 39, 41, 45, 15, 21, 8, 18, 2, 61, 56, 14]

/-- The bit that the step constants' shift register gives after n steps. -/
def lfsr (n : Nat) : Nat := (List.range n).foldl (fun r _ => if r < 128 then 2 * r else (2 * r) % 256 ^^^ 0x71) 1

/-- The step constant of a round. -/
def iota (round : Nat) : BitVec 64 :=
  BitVec.ofNat 64 ((List.range 7).map (fun j => at_ (2 ^ j - 1) (lfsr (7 * round + j) % 2))).sum

/-- One round: theta, rho and pi, chi, iota. -/
def keccakRound (a : List (BitVec 64)) (round : Nat) : List (BitVec 64) :=
  let c := (List.range 5).map (fun x => lane a x 0 ^^^ lane a x 1 ^^^ lane a x 2 ^^^ lane a x 3 ^^^ lane a x 4)
  let d := (List.range 5).map (fun x => c.getD ((x + 4) % 5) 0 ^^^ (c.getD ((x + 1) % 5) 0).rotateLeft 1)
  let t := lanesOf (fun x y => (lane a x y ^^^ d.getD x 0).rotateLeft (rho.getD (x + 5 * y) 0))
  let b := lanesOf (fun x y => lane t (x + 3 * y) x)
  (lanesOf (fun x y => lane b x y ^^^ (~~~(lane b (x + 1) y) &&& lane b (x + 2) y))).zipIdx.map
    (fun w => if w.2 = 0 then w.1 ^^^ iota round else w.1)

/-- The permutation. -/
def keccak (a : List (BitVec 64)) : List (BitVec 64) := (List.range 24).foldl keccakRound a

/-- SHA3-256: 136-byte blocks, the message closed by 06H and 80H. -/
def sha3 (m : List Byte) : BitVec 256 :=
  let blocks := m.length / 136 + 1
  let body := padTo (136 * blocks - 1) (m ++ [0x06])
  let whole := if m.length % 136 = 135 then m ++ [0x86] else body ++ [0x80]
  let absorb (a : List (BitVec 64)) (block : List Byte) : List (BitVec 64) :=
    keccak (a.zipIdx.map (fun w => w.1 ^^^ BitVec.ofNat 64 (ofBytes ((block.drop (8 * w.2)).take 8))))
  let a := (chunks 136 blocks whole).foldl absorb (List.replicate 25 0)
  BitVec.ofNat 256 (ofBytes ((a.take 4).flatMap (fun w => toBytes 8 w.toNat)))

/-! ### AES-256 (the block cipher of SP 800-38D and 38E) -/

/-- Twice an element of the field of 256 elements. -/
def xtime (b : Nat) : Nat := if b < 128 then 2 * b else (2 * b) % 256 ^^^ 0x1B

/-- A product in the field of 256 elements. -/
def fieldMul (a b : Nat) : Nat :=
  ((List.range 8).foldl (fun (z : Nat × Nat) i => (if b.testBit i then z.1 ^^^ z.2 else z.1, xtime z.2)) (0, a)).1

/-- The substitution of a byte: its inverse in the field (0 for 0), then the affine map. -/
def subByte (b : Nat) : Nat :=
  let sq (x : Nat) : Nat := fieldMul x x
  let x2 := sq b
  let x3 := fieldMul x2 b
  let x6 := sq x3
  let x12 := sq x6
  let x15 := fieldMul x12 x3
  let x240 := sq (sq (sq (sq x15)))
  let inv := fieldMul (fieldMul x240 x12) x2
  (List.range 5).foldl (fun z i => z ^^^ ((inv * 2 ^ i) % 256 + inv * 2 ^ i / 256)) 0x63

/-- The substitution table and its inverse. -/
def sbox : List Nat := (List.range 256).map subByte
def sboxInv : List Nat := (List.range 256).map (fun b => sbox.idxOf b)

/-- Substitute each byte through a table. -/
def subAll (t : List Nat) (a : List Nat) : List Nat := a.map (fun b => t.getD b 0)

/-- The words of the key schedule, four bytes each: 60 of them. -/
def keySchedule (key : BitVec 256) : List (List Nat) :=
  (List.range 52).foldl (fun (w : List (List Nat)) k =>
    let i := k + 8
    let last := w.getD (i - 1) []
    let t :=
      if i % 8 = 0 then
        ((subAll sbox (last.drop 1 ++ last.take 1)).zipIdx).map
          (fun b => if b.2 = 0 then b.1 ^^^ ((List.range (i / 8 - 1)).foldl (fun x _ => xtime x) 1) else b.1)
      else if i % 8 = 4 then subAll sbox last
      else last
    w ++ [List.zipWith (· ^^^ ·) (w.getD (i - 8) []) t])
    ((List.range 8).map (fun i => (toBytes 4 (key.toNat / 2 ^ (32 * i))).map (·.toNat)))

/-- The sixteen bytes of a round's key. -/
def roundKey (w : List (List Nat)) (round : Nat) : List Nat := ((w.drop (4 * round)).take 4).flatten

/-- Row r of the state moves by r columns: to the left for k = 1, back for k = 3. -/
def shiftRows (k : Nat) (a : List Nat) : List Nat := (List.range 16).map (fun i => a.getD ((i + 4 * k * (i % 4)) % 16) 0)

/-- Each column times a circulant of the field. -/
def mixColumns (c : List Nat) (a : List Nat) : List Nat :=
  (List.range 16).map (fun i =>
    (List.range 4).foldl (fun z j => z ^^^ fieldMul (c.getD ((j + 4 - i % 4) % 4) 0) (a.getD (4 * (i / 4) + j) 0)) 0)

/-- Add a round's key. -/
def addKey (w : List (List Nat)) (a : List Nat) (round : Nat) : List Nat := List.zipWith (· ^^^ ·) a (roundKey w round)

/-- The cipher on one block of sixteen bytes, with a key schedule. -/
def aesBlock (w : List (List Nat)) (a : List Nat) : List Nat :=
  let mid := (List.range 13).foldl (fun z i => addKey w (mixColumns [2, 3, 1, 1] (shiftRows 1 (subAll sbox z))) (i + 1)) (addKey w a 0)
  addKey w (shiftRows 1 (subAll sbox mid)) 14

/-- The inverse cipher on one block. -/
def aesUnblock (w : List (List Nat)) (a : List Nat) : List Nat :=
  let last := subAll sboxInv (shiftRows 3 (addKey w a 14))
  let mid := (List.range 13).foldl (fun z i =>
    subAll sboxInv (shiftRows 3 (mixColumns [14, 11, 13, 9] (addKey w z (13 - i))))) last
  addKey w mid 0

/-! ### AES-256-XTS (SP 800-38E; 05 R140) -/

/-- The tweak of a block of a data unit: the encrypted unit number times the field element of the block. -/
def xtsTweak (w : List (List Nat)) (pln block : Nat) : List Nat :=
  (List.range block).foldl (fun t _ =>
    let x := t.foldr (fun b z => b + 256 * z) 0
    let y := if x < 2 ^ 127 then 2 * x else (2 * x) % 2 ^ 128 ^^^ 0x87
    (toBytes 16 y).map (·.toNat)) (aesBlock w ((toBytes 16 pln).map (·.toNat)))

/-- A line through a block function with its tweaks: key bits [255:0] are the data key, bits [511:256] the tweak key. -/
def xtsLine (cipher : List (List Nat) → List Nat → List Nat) (key : BitVec 512) (pln : Nat) (l : Line) : Line :=
  let w := keySchedule (BitVec.ofNat 256 key.toNat)
  let v := keySchedule (BitVec.ofNat 256 (key.toNat / 2 ^ 256))
  lineOf ((List.range 4).flatMap (fun i =>
    let t := xtsTweak v pln i
    let x := (toBytes 16 (lineNat l (16 * i) 16)).map (·.toNat)
    (List.zipWith (· ^^^ ·) (cipher w (List.zipWith (· ^^^ ·) x t)) t).map (fun b => BitVec.ofNat 8 b)))

/-- Encrypt a line; the data unit is the line and the tweak its PLN. -/
def xtsEncrypt (key : BitVec 512) (pln : Nat) (l : Line) : Line := xtsLine aesBlock key pln l

/-- Decrypt a line. -/
def xtsDecrypt (key : BitVec 512) (pln : Nat) (l : Line) : Line := xtsLine aesUnblock key pln l

/-! ### AES-256-GCM (SP 800-38D; 07 R218) -/

/-- A product in the field of 2^128 elements, a block's first bit its coefficient of 1: numbers whose bit 127 is that bit. -/
def ghashMul (x y : Nat) : Nat :=
  ((List.range 128).foldl (fun (z : Nat × Nat) i =>
    (if x.testBit (127 - i) then z.1 ^^^ z.2 else z.1, if z.2 % 2 = 1 then z.2 / 2 ^^^ (0xE1 * 2 ^ 120) else z.2 / 2)) (0, y)).1

/-- A number whose first byte is its greatest. -/
def bigOf (bs : List Byte) : Nat := bs.foldl (fun z b => 256 * z + b.toNat) 0

/-- The sixteen bytes of a number, the greatest first. -/
def bigBytes (x : Nat) : List Byte := (toBytes 16 x).reverse

/-- The hash of blocks under a key. -/
def ghash (h : Nat) (blocks : List (List Byte)) : Nat := blocks.foldl (fun y b => ghashMul (y ^^^ bigOf (padTo 16 b)) h) 0

/-- The keystream block of a counter. -/
def gcmBlock (w : List (List Nat)) (iv : List Byte) (n : Nat) : List Byte :=
  (aesBlock w ((iv ++ (toBytes 4 n).reverse).map (·.toNat))).map (fun b => BitVec.ofNat 8 b)

/-- A text under the keystream from counter 2 on. -/
def gcmText (w : List (List Nat)) (iv bs : List Byte) : List Byte :=
  ((chunks 16 (bs.length / 16 + 1) bs).zipIdx).flatMap (fun b => List.zipWith (· ^^^ ·) b.1 (gcmBlock w iv (b.2 + 2)))

/-- The tag over additional data and a ciphertext, under a 12-byte IV; byte 0 in bits [7:0]. -/
def gcmTag (w : List (List Nat)) (iv aad cipher : List Byte) : BitVec 128 :=
  let h := bigOf ((aesBlock w (List.replicate 16 0)).map (fun b => BitVec.ofNat 8 b))
  let y := ghash h (chunks 16 (aad.length / 16 + 1) aad ++ chunks 16 (cipher.length / 16 + 1) cipher ++
    [bigBytes (8 * aad.length * 2 ^ 64 + 8 * cipher.length)])
  BitVec.ofNat 128 (ofBytes (List.zipWith (· ^^^ ·) (bigBytes y) (gcmBlock w iv 1)))

/-- Ciphertext and tag. -/
def gcmSeal (key : BitVec 256) (iv aad bs : List Byte) : List Byte × BitVec 128 :=
  let w := keySchedule key
  let c := gcmText w iv bs
  (c, gcmTag w iv aad c)

/-- The plaintext; none when the tag fails. -/
def gcmOpen (key : BitVec 256) (iv aad cipher : List Byte) (tag : BitVec 128) : Option (List Byte) :=
  let w := keySchedule key
  if gcmTag w iv aad cipher = tag then some (gcmText w iv cipher) else none

end Sys2Proof.Machine
end

