-- ==== Sys2Proof/Machine/StHost.lean ====
section
/-! DEFINITION. The host side: functions, rings, mailboxes, the interrupt controller and what leaves the module
(11, 12). -/

namespace Sys2Proof.Machine

/-- What leaves the module, in order (log 6). -/
inductive Output where
  /-- a posted write of data into host memory under a function; it may carry Relaxed Ordering (09 R272) -/
  | hostWrite (fn addr : Nat) (data : List Byte)
  /-- a posted write of a record or of a head block, with Relaxed Ordering and ID-Based Ordering both clear (09 R272) -/
  | hostRecord (fn addr : Nat) (data : List Byte)
  /-- a read of host memory under a function -/
  | hostRead (fn addr len : Nat)
  /-- a function's MSI-X message, with both ordering attributes clear (09 R272) -/
  | msix (fn : Nat)
  /-- a status packet of a stack sequencer: firmware or partition, tag, code, words (05 R151, 06 R166) -/
  | status (stack : Nat) (src : PacketSource) (tag code : Nat) (words : List W64)
  /-- a command packet sent by a round builder (08 R240) -/
  | packet (stack : Nat) (pk : Packet)
  /-- a frame on a Motra port: header and payload (15 R380) -/
  | frame (port : Nat) (header : BitVec 192) (payload : List Line)
  /-- an answer on the DOE mailbox (16) -/
  | doe (data : List Byte)
  /-- an answer on SMBus (21) -/
  | smbus (data : List Byte)
  /-- the debug port's data register (16 R411) -/
  | jtag (value : W64)
  /-- a value a read command returns (PART_STEP_READ, EVT_IC_CLAIM) -/
  | value (v : W64)
  /-- a PTM request (18 R437) -/
  | ptm
deriving DecidableEq, Repr

/-- One ring slot of a function (11 R304 to R318). -/
structure Ring where
  stopped : Bool
  /-- the ring's bit of RING_STATUS stopped, which software may clear while the ring stays stopped -/
  stoppedBit : Bool
  draining : Bool
  moduleIndex : W32
  /-- the driver index of the last good poll -/
  driverIndex : W32
  error : Byte
  /-- entries of a module-written ring reserved and not yet written (R309) -/
  reserved : Nat
  /-- descriptors asked for and not arrived -/
  fetching : Nat
  /-- sizes of the fetches that were out when the ring was disabled: what they bring is dropped (R317) -/
  stale : List Nat
  /-- entries that wait for space, oldest first: none is dropped (R309) -/
  backlog : List (List Byte)
  /-- fetched descriptors waiting to be acted on -/
  fetched : List Line
  /-- mailbox index of the last batch record, while it is unreleased (12 R327) -/
  batch : Option W32
deriving DecidableEq, Repr

/-- A ring that was never enabled. -/
def Ring.reset : Ring :=
  { stopped := false, stoppedBit := false, draining := false, moduleIndex := 0, driverIndex := 0, error := 0, reserved := 0, fetching := 0,
    stale := [], backlog := [], fetched := [], batch := none }

/-- A count of records held back (12 R326). -/
structure Held where
  source : Nat
  /-- sources counted under 0xFFFF -/
  sources : List Nat
  code : Nat
  count : Nat
  /-- how many of the records counted are fatal -/
  fatal : Nat
  first : W64
  last : W64
  full : Bool
  rate : Bool
  /-- module time was unlocked at the first record -/
  unlocked : Bool
deriving DecidableEq, Repr

/-- One function's rings, mailbox and events (11, 12). -/
structure Fn where
  rings : Tab Ring
  enable : BitVec 16
  unreachable : Bool
  pollOut : Bool
  /-- module time at which the next poll is due (11 R312) -/
  pollAt : W64
  pollFails : Nat
  nextSeq : W32
  lost : W32
  masked : W32
  armed : Bool
  msgPending : Bool
  vectorMasked : Bool
  held : List Held
  /-- bus master: the selective IDE stream's keys are programmed (16) -/
  ide : Bool
deriving DecidableEq, Repr

/-- A function after reset: the vector masked as PCI Express leaves it (log 10). -/
def Fn.reset : Fn :=
  { rings := [], enable := 0, unreachable := false, pollOut := false, pollAt := 0, pollFails := 0, nextSeq := 0, lost := 0, masked := 0,
    armed := false, msgPending := false, vectorMasked := true, held := [], ide := false }

/-- The leaky bucket of every event source (12 R325). -/
structure Buckets where
  /-- level of a block's sources that no record has drawn on -/
  base : Tab Nat
  /-- how far a source's bucket lies below its block's base -/
  used : Tab Nat
deriving DecidableEq, Repr

/-- Every bucket full. -/
def Buckets.reset : Buckets := { base := [], used := [] }

/-- One line of the control-core interrupt controller (12 R330). -/
structure IcLine where
  masked : Bool
  fast : Bool
  core : BitVec 4
  pending : Bool
  active : Bool
deriving DecidableEq, Repr

/-- EVT_IC_ROUTE before boot. -/
def IcLine.reset : IcLine := { masked := true, fast := false, core := 0, pending := false, active := false }

/-- One control core as the interrupt controller sees it (12 R331): its registers, its fast bank and what normal delivery saves. -/
structure Core where
  /-- general registers 0 to 15; no row runs an instruction of a control core, so none changes one -/
  r : Tab W32
  /-- the fast bank, fb0 to fb15 -/
  fb : Tab W32
  inFast : Bool
  inNormal : Bool
  /-- module time at which the running fast handler began (R332) -/
  fastSince : W64
  fastLine : Nat
  normalLine : Nat
  pc : W32
  status : W32
  savedPc : W32
  savedStatus : W32
deriving DecidableEq, Repr

/-- A control core with no handler running. -/
def Core.reset : Core :=
  { r := [], fb := [], inFast := false, inNormal := false, fastSince := 0, fastLine := 0, normalLine := 0, pc := 0, status := 0,
    savedPc := 0, savedStatus := 0 }

/-- The interrupt controller and the external inputs (12 R328 to R334). -/
structure Intr where
  lines : Tab IcLine
  cores : Tab Core
  throttle : Bool
  throttleFast : Bool
  throttleStuck : Bool
  extraPulses : Nat
  /-- level at the pin, low meaning asserted, and when it changed -/
  pinLow : Bool
  pinSince : W64
  /-- level last accepted, and the last accepted assertion edge -/
  accepted : Bool
  lastAssert : Option W64
  lastEdge : W64
  /-- when the filtered input last became asserted or deasserted -/
  since : W64
  edges : Nat
  /-- last record of code 0x03 -/
  pulseRecord : Option W64
deriving DecidableEq, Repr

/-- The interrupt controller after reset. -/
def Intr.reset : Intr :=
  { lines := [], cores := [], throttle := false, throttleFast := false, throttleStuck := false, extraPulses := 0,
    pinLow := false, pinSince := 0, accepted := false, lastAssert := none, lastEdge := 0, since := 0, edges := 0, pulseRecord := none }

end Sys2Proof.Machine
end

