-- ==== Sys2Proof/Machine/StKloxa.lean ====
section
/-! DEFINITION. The state of one Kloxa cluster (03) and of one quarter (02). -/

namespace Sys2Proof.Machine

/-- The pieces of a started operation's result that it writes at its completion (R67). -/
inductive Write where
  /-- a vector register -/
  | vec (r : Nat) (lanes : List W32)
  /-- scratchpad bytes of the cluster itself, from a byte address -/
  | scratch (addr : Nat) (bs : List Byte)
  /-- an accumulator tile, 4,096 patterns in row order -/
  | acc (tile : Nat) (els : List W32)
  /-- saturated elements to count (R85) -/
  | sat (n : Nat)
  /-- bytes of a quarter buffer, from a byte address of the buffer -/
  | qbuf (quarter addr : Nat) (bs : List Byte)
  /-- bits [pos + len - 1 : pos] of the line of a region, through its controller -/
  | dev (region pln pos len v : Nat)
  /-- scratchpad bytes of another cluster (st.c, R90) -/
  | remote (cluster addr : Nat) (bs : List Byte)
  /-- a remote signal to a cluster (R70) -/
  | remoteSignal (cluster : Nat) (sig : BitVec 16)
deriving DecidableEq, Repr

/-- A queue entry: the slot's bits and the registers captured at issue (R73). -/
structure QEntry where
  /-- unit address of its bundle, for the fault record -/
  pc : Nat
  bits : BitVec 96
  /-- captured scalar operands in the order of the slot's fields -/
  ops : List W32
  /-- captured shape registers in the order of the slot's fields -/
  shapes : List W64
deriving DecidableEq, Repr

/-- An operation or a marker in progress (R74). -/
structure Running where
  pipe : Pipe
  /-- slot number: 1 vector, 2 matrix, 3 load, 4 store -/
  slot : Nat
  pc : Nat
  sig : BitVec 16
  /-- accumulator tile of a matrix operation, 2 for none (R86) -/
  tile : Nat
  isMarker : Bool
  writes : List Write
  /-- PLN of a bus error met while its data was read (R99) -/
  err : Option Nat
  /-- tensor handle that an ld.t or st.t uses (10 R287) -/
  handle : Option W32
deriving DecidableEq, Repr

/-- A scalar device access that holds issue (R78). -/
structure SLoad where
  op : Nat
  d : Nat
  /-- address in the partition's device address space, a multiple of 4 -/
  addr : Nat
  b : W32
  /-- s[d], which atom.cas compares -/
  cmp : W32
  /-- scope of an atomic: 0 cluster, 1 module, 2 system (R76, 09 R266) -/
  scope : Nat
  pc : Nat
deriving DecidableEq, Repr

/-- A fence that holds the issue of later bundles until it is complete (R92). -/
structure Fence where
  /-- 1 cluster, 2 module, 3 system -/
  scope : Nat
  mode : Nat
  /-- the signal field it applies when complete -/
  field : BitVec 16
  pc : Nat
deriving DecidableEq, Repr

/-- The record a cluster fault sends to module firmware (R99). Slot 0 scalar, 1 vector, 2 matrix, 3 load, 4 store,
5 sync, 6 the header. -/
structure FaultRec where
  code : Nat
  unit : Nat
  slot : Nat
  pln : Option Nat
deriving DecidableEq, Repr

/-- What a save holds of a cluster (R59, R95). -/
structure Arch where
  s : Tab W32
  /-- keys 64 × register + lane -/
  v : Tab W32
  h : Tab W64
  f : BitVec 32
  k : Tab (BitVec 16)
  sat : W32
  /-- keys 4,096 × tile + 64 × row + column -/
  acc : Tab W32
  pc : BitVec 14
  /-- the program has run past unit 16,383: the next fetch is a fetch fault (R97, log 47) -/
  past : Bool
  sp : Mem
  vq : List QEntry
  mq : List QEntry
  lq : List QEntry
  sq : List QEntry
deriving DecidableEq, Repr

/-- The program state with every register at zero (R59 gives it at a job's start; at reset see log 5). -/
def Arch.reset : Arch :=
  { s := [], v := [], h := [], f := 0, k := [], sat := 0, acc := [], pc := 0, past := false, sp := [], vq := [], mq := [], lq := [],
    sq := [] }

/-- What a save holds of one cluster of a job (R95). -/
structure Saved where
  cluster : Nat
  arch : Arch
  /-- a fence that was not complete when the cluster stopped -/
  fence : Option Fence
  /-- halt has issued, and operations of the cluster have still to complete (R97) -/
  halting : Bool
  halted : Bool
deriving DecidableEq, Repr

/-- One cluster. -/
structure Cluster where
  arch : Arch
  /-- scalar read cache: (line number, data), most recently used first (R50) -/
  cache : List (Nat × Line)
  /-- bundles fetched and not issued; the head is the bundle at the program counter (R75) -/
  fetchQ : List Line
  running : List Running
  /-- the scalar device access that holds issue (R78) -/
  load : Option SLoad
  /-- the fence that holds issue (R92) -/
  fence : Option Fence
  /-- halt has issued (R97) -/
  halting : Bool
  /-- module time of a pending preemption request (R94, R96) -/
  preempt : Option W64
  /-- stopped at a preemption point (R94) -/
  stopped : Bool
  /-- the records of its faults, oldest first; the first stops issue (R99) -/
  faults : List FaultRec
  /-- remote signals whose transfer has been written and that apply next (R70) -/
  inbox : List (BitVec 16)
  /-- partition and job the cluster runs -/
  job : Option (Nat × Nat)
  halted : Bool
  failed : Bool
  marked : Bool
  retired : Bool
deriving DecidableEq, Repr

/-- A cluster with no job. -/
def Cluster.reset : Cluster :=
  { arch := Arch.reset, cache := [], fetchQ := [], running := [], load := none, fence := none, halting := false, preempt := none, stopped := false,
    faults := [], inbox := [], job := none, halted := false, failed := false, marked := false, retired := false }

/-- The record of the fault that stopped the cluster (R99). -/
def Cluster.faultRec (x : Cluster) : Option FaultRec := x.faults.head?

/-- One quarter (02, 17 R420). -/
structure Quarter where
  /-- clusters in service, N of R29 -/
  inService : Nat
  qbuf : Mem
  /-- control cores that passed self-test: bits 0 to 3 (20 R468) -/
  cores : BitVec 4
  /-- pattern step n of the quarter's rests (R420) -/
  restStep : Nat
deriving DecidableEq, Repr

/-- A quarter before boot. -/
def Quarter.reset : Quarter := { inService := 0, qbuf := [], cores := 0, restStep := 0 }

end Sys2Proof.Machine
end

