-- ==== Sys2Proof/Machine/StLink.lean ====
section
/-! DEFINITION. The state of the Motra links (15). -/

namespace Sys2Proof.Machine

/-- State of a port (15 R390). -/
inductive PortMode where
  | down | training | up | half | disabled
deriving DecidableEq, Repr

/-- What a lane's receiver and transmitter do at the pins (21 R481). -/
inductive LaneState where
  /-- receiver and transmitter high-Z -/
  | highZ
  /-- the receiver is terminated, the transmitter drives nothing -/
  | terminated
  /-- terminated, and the transmitter drives the equalisation pattern of 15 R374 -/
  | equalising
  /-- terminated, and the transmitter sends idle symbols -/
  | idle
  /-- terminated and driven -/
  | driven
deriving DecidableEq, Repr

/-- One port (15 R373 to R391, 20 R478). -/
structure Port where
  mode : PortMode
  lanes : BitVec 5
  marked : BitVec 5
  reason : Nat
  peer : Nat
  trainings : Nat
  corrected : Nat
  uncorrectable : Nat
  discarded : Nat
  timeouts : Nat
  /-- module time at which training began, and failures in a row -/
  since : W64
  failures : Nat
  /-- lanes whose mark came at these times and whose training is still due -/
  markDue : Option W64
  /-- a started test (TST_PORT_n_TEST) and its results by lane -/
  test : Option W64
  results : Tab (BitVec 12)
  testLocked : BitVec 5
deriving DecidableEq, Repr

/-- A port before training. -/
def Port.reset : Port :=
  { mode := .down, lanes := 0, marked := 0, reason := 0, peer := 0, trainings := 0, corrected := 0, uncorrectable := 0,
    discarded := 0, timeouts := 0, since := 0, failures := 0, markDue := none, test := none, results := [],
    testLocked := 0 }

/-- A session with a peer (15 R383 to R385). -/
structure Session where
  /-- keys exist -/
  up : Bool
  /-- a handshake is under way: messages sent -/
  stage : Nat
  sendCounter : Nat
  /-- highest counter received plus one, and counters seen in the window -/
  recvTop : Nat
  seen : List Nat
  /-- retry due after a failure (R383) -/
  retryAt : Option W64
  /-- when the last port to the peer went down (R385) -/
  portsDown : Option W64
  /-- tags of the last 4,096 performed ATOMICs with their results (R382) -/
  atomics : List (BitVec 16 × W32)
  key : Nat
deriving DecidableEq, Repr

/-- No session. -/
def Session.reset : Session :=
  { up := false, stage := 0, sendCounter := 0, recvTop := 0, seen := [], retryAt := none, portsDown := none, atomics := [],
    key := 0 }

/-- A packet sent and not answered, or waiting for a port (15 R376, R382). -/
structure Sent where
  tag : BitVec 16
  dest : Nat
  partition : Nat
  /-- copy it belongs to; none for a repair or an atomic of its own -/
  copy : Option Nat
  /-- PLN of the line under repair (R359) -/
  repair : Option Nat
  typ : Nat
  header : BitVec 192
  payload : List Line
  /-- port it left on; none while it waits -/
  port : Option Nat
  since : W64
  tries : Nat
deriving DecidableEq, Repr

/-- LNK_MODULE, sessions and packets. -/
structure Links where
  moduleId : BitVec 9
  idLock : Bool
  ports : Tab Port
  sessions : Tab Session
  sent : List Sent
  nextTag : BitVec 16
  /-- COLL packets received: partition, sending module, payload, and when (R387) -/
  colls : List (Nat × Nat × Line × W64)
deriving DecidableEq, Repr

/-- The links after cold reset. -/
def Links.reset : Links := { moduleId := 0, idLock := false, ports := [], sessions := [], sent := [], nextTag := 0, colls := [] }

end Sys2Proof.Machine
end

