-- ==== Sys2Proof/Machine/StMemory.lean ====
section
/-! DEFINITION. Device memory, its regions and its error state (05, 14). Device memory itself is the byte memory `mem` of
State: byte i of the 72 stored bytes of line PLN has key 72 × PLN + i, and an unlisted line holds the blank code. -/

namespace Sys2Proof.Machine

/-- What byte `k` of device memory reads as when nothing is listed: the blank code (05 R137, 18 R446 step 6). -/
def blankByte (k : Nat) : Byte := if k % 72 < 64 then 0 else 0xFF

/-- A region entry: words 0 and 1 of R142 and RGN_REPAIR of R358. -/
structure Region where
  w0 : W64
  w1 : W64
deriving DecidableEq, Repr

/-- A free entry. -/
def Region.reset : Region := { w0 := 0, w1 := 0 }

/-- What a running region command still has to do (05 R144): `step` 1 blanking before ready or free, 2 blanking before the
re-creation of CONVERT, 3 waiting for completion (LOCK, SET_SHARE). -/
structure RegionCmd where
  index : Nat
  op : Nat
  /-- entry words that CONVERT and CREATE leave -/
  w0 : W64
  w1 : W64
deriving DecidableEq, Repr

/-- RGN_CMD_STATUS and the command in progress (05 R143). -/
structure RegionCtl where
  busy : Bool
  status : Byte
  index : Byte
  cmd : Option RegionCmd
deriving DecidableEq, Repr

/-- MOD_CE_n (14 R354). -/
structure Ce where
  bucket : Nat
  above : Bool
  corrected : Nat
  uncorrectable : Nat
deriving DecidableEq, Repr

/-- A channel without corrections. -/
def Ce.reset : Ce := { bucket := 0, above := false, corrected := 0, uncorrectable := 0 }

/-- A held error record (14 R362). -/
structure ErrRec where
  severity : Nat
  code : Nat
  further : Nat
  pln : Nat
  /-- partition of the requester, 0xFF for firmware, sieve or patrol -/
  partition : Nat
  time : W64
deriving DecidableEq, Repr

/-- Where a repair stands (14 R359). -/
inductive RepairStage where
  | peer (since : W64)
  | host
  /-- no source is left: a module-wide loss follows (R361) -/
  | lost
deriving DecidableEq, Repr

/-- A line in the repair queue. -/
structure Repair where
  pln : Nat
  region : Nat
  stage : RepairStage
  /-- RGN_REPAIR of the region when the repair started (R358) -/
  sources : W64
  /-- partition whose read queued the line, 0xFF for firmware, sieve or patrol -/
  finder : Nat
  /-- an abandonment has been counted for the line (R360) -/
  known : Bool
deriving DecidableEq, Repr

/-- One stack's summary of a sieve (14 R368). -/
structure SieveSum where
  checked : Nat
  corrected : Nat
  uncorrectable : Nat
  poisoned : Nat
  blank : Nat
  failedSeals : Nat
  bad : List Nat
  sealPlns : List Nat
  cut : Bool
deriving DecidableEq, Repr

/-- A summary with nothing checked. -/
def SieveSum.zero : SieveSum :=
  { checked := 0, corrected := 0, uncorrectable := 0, poisoned := 0, blank := 0, failedSeals := 0, bad := [], sealPlns := [],
    cut := false }

/-- A sieve that firmware serves (14 R365, R366). -/
structure SieveJob where
  id : Nat
  /-- 0 to 8; with ring none the descriptor came from MOD_SIEVE_CMD -/
  fn : Nat
  ring : Option Nat
  /-- region index of a kind-0 descriptor -/
  region : Option Nat
  start : Nat
  lines : Nat
  summary : Nat
  startedAt : W64
  /-- stacks still to check, ascending, and the summaries of those done -/
  stackList : List Nat
  summaries : List (Nat × SieveSum)
  /-- its region was released or converted: the lines left are skipped (14 R371) -/
  cut : Bool
deriving DecidableEq, Repr

/-- MOD_SIEVE_STATUS, the sieves in order of arrival, and the patrol (14 R366, R370). -/
structure SieveCtl where
  busy : Bool
  status : Byte
  lastId : BitVec 16
  queue : List SieveJob
  patrolAt : W64
  passes : Nat
  found : Nat
deriving DecidableEq, Repr

/-- All of it but the bytes. -/
structure Memory where
  regions : Tab Region
  ctl : RegionCtl
  ce : Tab Ce
  /-- held records: 0 to 15 controllers, 16 to 31 sequencers, 32 to 37 bridges, 38 to 41 fabrics -/
  errs : Tab (Option ErrRec)
  repairs : List Repair
  /-- regions that firmware sieves once the repair queue has emptied (14 R360) -/
  resieve : List Nat
  sieve : SieveCtl
  /-- a line of a firmware-owned region of the module that flash does not hold was found bad: a module-wide loss with cause 4
  follows (R356) -/
  fwLost : Bool
deriving DecidableEq, Repr

/-- Memory control after reset. -/
def Memory.reset : Memory :=
  { regions := [], ctl := { busy := false, status := 0, index := 0, cmd := none }, ce := [], errs := [], repairs := [],
    resieve := [], sieve := { busy := false, status := 0, lastId := 0, queue := [], patrolAt := 0, passes := 0, found := 0 },
    fwLost := false }

end Sys2Proof.Machine
end

