-- ==== Sys2Proof/Machine/StRound.lean ====
section
/-! DEFINITION. The round of a partition: sequences, ledger, prefixes, budgets, the step model and the route sheet
(07, 08). These lie in firmware-owned regions whose places the spec does not fix (log 14), so they are held as data. -/

namespace Sys2Proof.Machine

/-- The model header that a serving job binds (08 R225). -/
structure Model where
  layers : Nat
  heads : Nat
  group : Nat
  headDim : Nat
  form : Nat
  draft : Bool
  vocab : Nat
  draftLayers : Nat
  draftHeads : Nat
  draftGroup : Nat
deriving DecidableEq, Repr

/-- One-bit marks of a round entry (08 R232). -/
structure SeqFlags where
  be : Bool
  promoted : Bool
  late : Bool
  /-- a CANCEL has been fetched; it takes effect at a commit (R251, R252) -/
  asked : Bool
  cancelled : Bool
  latePolicy : Bool
  recompute : Bool
  probing : Bool
  speculative : Bool
  /-- promoted at some time, as the completion record says (R231) -/
  everPromoted : Bool
deriving DecidableEq, Repr

/-- The draft-length window (08 R253). -/
structure Draft where
  k : Nat
  kReq : Nat
  drafted : Nat
  accepted : Nat
  window : Nat
  countdown : Nat
deriving DecidableEq, Repr

/-- A sequence's firmware record (07 R198, 08 R231, R232). -/
structure SeqRec where
  fn : Nat
  /-- request ring that carried its SUBMIT -/
  ring : Nat
  /-- ledger index of the set of each span, main and draft model -/
  map : List Nat
  draftMap : List Nat
  /-- token log: prompt and generated tokens -/
  tokens : List W32
  stop : List W32
  computed : Nat
  reused : Nat
  delivered : Nat
  cancelledTokens : Nat
  recomputed : Nat
  promotedTokens : Nat
  admittedAt : W64
  /-- prefix field of the completion record -/
  prefixNote : Nat
  /-- the sequence builds this prefix entry (R252) -/
  builds : Option Nat
  /-- position from which the recomputation of its returned spans goes on; 0 while none is under way (07 R220) -/
  redo : Nat
deriving DecidableEq, Repr

/-- State of a round entry (08 R232). -/
inductive SeqState where
  | prefill | decode | paused | waiting
deriving DecidableEq, Repr

/-- A live sequence (08 R232). -/
structure RoundEntry where
  state : SeqState
  flags : SeqFlags
  draft : Draft
  log : SeqRec
  tenant : Nat
  requestId : Nat
  length : Nat
  promptLen : Nat
  limit : Nat
  prefilled : Nat
  prefixEntry : Option Nat
  pigeonhole : Nat
  promoLeft : Nat
  profile : Nat
  tokenRing : Nat
  complRing : Nat
  seed : W64
  deadline : W64
  waitSince : W64
  lastStep : W32
  generated : Nat
deriving DecidableEq, Repr

/-- State of a ledger entry (07 R197). -/
inductive ParcelState where
  | free | tail | full | spilling | spilled | fetching | returned
deriving DecidableEq, Repr

/-- A ledger entry (07 R196). -/
structure Parcel where
  state : ParcelState
  isShared : Bool
  pair : Bool
  draft : Bool
  layer : Nat
  head : Nat
  number : Nat
  filled : Nat
  /-- committed slots that a returned parcel held, to be computed again (R220) -/
  lost : Nat
  holder : Nat
  column : Nat
  sharers : Nat
  lastUse : W32
  pln : Nat
  kScale : W32
  vScale : W32
  check : Option W32
  prSlot : Option Nat
  spillCounter : W64
deriving DecidableEq, Repr

/-- A free ledger entry. -/
def Parcel.reset : Parcel :=
  { state := .free, isShared := false, pair := false, draft := false, layer := 0, head := 0, number := 0, filled := 0, lost := 0,
    holder := 0, column := 0, sharers := 0, lastUse := 0, pln := 0, kScale := 0, vScale := 0, check := none,
    prSlot := none, spillCounter := 0 }

/-- A prefix entry (07 R213). -/
structure Prefix where
  digest : BitVec 256
  handle : W32
  owner : Nat
  refs : Nat
  spans : Nat
  ready : Bool
  map : List Nat
  draftMap : List Nat
  /-- spans already there (extends a base entry) -/
  base : Nat
  tokens : List W32
  lastUse : W32
  /-- tenants of its sharing list; none: owner only -/
  share : Option (List Nat)
  /-- position from which the recomputation of its returned spans goes on; 0 while none is under way (R222) -/
  redo : Nat
deriving DecidableEq, Repr

/-- Kind of a route-sheet item (08 R239). -/
inductive ItemKind where
  | decode | verify | prefill | recompute | draft
deriving DecidableEq, Repr

/-- A route-sheet item (08 R239). -/
structure Item where
  kind : ItemKind
  be : Bool
  promoted : Bool
  samples : Bool
  tokens : Nat
  index : Nat
  pigeonhole : Nat
  k : Nat
  position : Nat
  circFirst : Nat
  circCount : Nat
  /-- budget entry that reserves its charge (R234), and the charge -/
  charge : Option (Nat × Nat)
  /-- token ring in which an entry is reserved (11 R309) -/
  ring : Option Nat
deriving DecidableEq, Repr

/-- A circular entry (08 R240). -/
structure Circ where
  set : Nat
  span : Nat
  queries : Nat
  readers : List Nat
  stackMask : BitVec 16
  draft : Bool
deriving DecidableEq, Repr

/-- A built route sheet (08 R238) and what abandonment must undo (R245). -/
structure Sheet where
  step : W64
  reissue : Nat
  threshold : Nat
  levels : BitVec 48
  repro : Bool
  builtAt : W64
  predicted : Nat
  items : List Item
  circs : List Circ
  /-- ledger indices of the parcels allocated for the step -/
  allocated : List Nat
  /-- returned parcels that were given slots again (R220) -/
  realloced : List Nat
  /-- stacks and layers whose RAPP packets have been sent (R240) -/
  rapp : List (Nat × Nat)
  /-- stacks and layers whose packets have all been sent -/
  sent : List (Nat × Nat)
  /-- the program has seen it (a reissued sheet is held until its release, R278, R360) -/
  released : Bool
deriving DecidableEq, Repr

/-- The step model (08 R230): coefficients as numerators over one denominator, in ns. -/
structure StepModel where
  /-- commits measured -/
  count : Nat
  /-- (τ, σ, duration in ns), newest first, at most 256 -/
  samples : List (Nat × Nat × Nat)
  d0 : Int
  dTok : Int
  dSpan : Int
  den : Nat
deriving DecidableEq, Repr

/-- A SUBMIT whose prompt is being fetched (08 R229). -/
structure Admission where
  fn : Nat
  ring : Nat
  desc : Line
  admittedAt : W64
deriving DecidableEq, Repr

/-- Poste restante of a partition (07 R217, R218). -/
structure PosteRestante where
  keyMade : Bool
  /-- the number the key was made under (16 R393; log 7) -/
  key : Nat
  counter : W64
  /-- slots in use -/
  used : List Nat
deriving DecidableEq, Repr

/-- One partition's round (08). -/
structure Round where
  model : Option Model
  entries : Tab (Option RoundEntry)
  ledger : Tab Parcel
  prefixes : Tab (Option Prefix)
  /-- PART_BUDGET_n and PART_BE_WEIGHTS as the last built sheet took them (R233) -/
  budgets : Tab W64
  beWeights : W64
  /-- budget buckets, tokens (R234) -/
  buckets : Tab Int
  /-- best-effort credit in ns: serving, tuning, embedding (R235) -/
  credit : Tab Int
  stepModel : StepModel
  sheet : Option Sheet
  /-- causes of abandonment pending (R245) -/
  causes : List AbandonCause
  /-- times this step was abandoned, and those of them that count toward sixteen (R246, 14 R360) -/
  reissue : Nat
  strikes : Nat
  /-- sequences left off the reissued sheet (R221) -/
  excluded : List Nat
  /-- an abandonment is under way: its engines, clusters and copies are not yet still (R278) -/
  abandoning : Bool
  /-- parcels allocated per home stack in each of the last 64 steps, newest first (R216) -/
  history : List (List Nat)
  admitting : List Admission
  /-- the request ring that is served next, if it holds a descriptor (R229) -/
  ringTurn : Nat
  /-- packets sent to each stack that it has not yet received (R240) -/
  owed : Tab Nat
  pr : PosteRestante
  recomputeAccount : Nat
  /-- latency-critical items of the last built sheet (R230) -/
  lastLc : List Item
  /-- a build waits for relief in this home stack (R201) -/
  allocWait : Option Nat
  /-- sequences firmware has chosen to fetch back (R219) -/
  fetchBack : List Nat
  /-- sequences that a HINT names (R219) -/
  hinted : List Nat
  /-- parcels that the sieve found failing, returned at the next commit (R221) -/
  toReturn : List Nat
  /-- PART_STEP -/
  step : W64
deriving DecidableEq, Repr

/-- An empty round. -/
def Round.reset : Round :=
  { model := none, entries := [], ledger := [], prefixes := [], budgets := [], beWeights := 0, buckets := [], credit := [],
    stepModel := { count := 0, samples := [], d0 := 0, dTok := 0, dSpan := 0, den := 1 }, sheet := none, causes := [],
    reissue := 0, strikes := 0, excluded := [], abandoning := false, history := [], admitting := [], ringTurn := 0, owed := [],
    pr := { keyMade := false, key := 0, counter := 0, used := [] }, recomputeAccount := 0, lastLc := [],
    allocWait := none, fetchBack := [], hinted := [], toReturn := [], step := 0 }

end Sys2Proof.Machine
end

