-- ==== Sys2Proof/Machine/StPart.lean ====
section
/-! DEFINITION. The state of a partition slot: what SETUP applied, jobs, tensors, digests, the program copy queue, the
journal and the TDI (10, 13, 16, 19). -/

namespace Sys2Proof.Machine

/-- What the last SETUP or RECONFIGURE applied (13 R335, R338). -/
structure Applied where
  shares : BitVec 48
  groups : BitVec 128
  ports : BitVec 16
  repro : Bool
  /-- PART_ROUND_CFG -/
  roundCfg : W64
  /-- SPILL rather than DROP, after the choice by size -/
  spill : Bool
  confidential : Bool
  /-- PART_PARCEL_POOL -/
  pool : W64
  /-- PART_ROUND_SIZE -/
  roundEntries : Nat
  maxJobs : Nat
deriving DecidableEq, Repr

/-- State of a job (13 R339 to R344). -/
inductive JobState where
  | waiting | running | stopping | saving | saved
deriving DecidableEq, Repr

/-- A live job. -/
structure Job where
  /-- the model's own number for the job -/
  num : Nat
  jobId : Nat
  queue : Nat
  fn : Nat
  ring : Nat
  desc : Line
  state : JobState
  /-- cluster shares it was given at its start, and their physical clusters by partition index -/
  shares : List Nat
  clusters : List Nat
  startedAt : W64
  /-- save area, which the job keeps from its start to its end (R344) -/
  slot : Nat
  /-- what the area holds: the record of each cluster (R343) -/
  area : List Saved
deriving DecidableEq, Repr

/-- A valid tensor descriptor and the group value it captured (10 R282, R288). -/
structure Tensor where
  desc : Line
  group : W64
  /-- a TENSOR_DESTROY waits for the copies that name the handle (R287): function and ring to answer, and when it began -/
  destroying : Option (Nat × Nat × W64)
deriving DecidableEq, Repr

/-- An entry of the descriptor table (10 R285). -/
structure TensorEntry where
  generation : Nat
  tensor : Option Tensor
deriving DecidableEq, Repr

/-- An entry that was never created: generation 0 (log 9). -/
def TensorEntry.reset : TensorEntry := { generation := 0, tensor := none }

/-- A digest stream (10 R299). -/
structure Digest where
  kind : Nat
  label : W32
  /-- bytes added so far, in order -/
  data : List Byte
  failed : Bool
  /-- regions and lines that the stream's copies wrote (16 R405) -/
  regions : List Nat
  /-- DIGEST_CLOSE waits for the stream's copies: function, ring, start time -/
  closing : Option (Nat × Nat × W64)
deriving DecidableEq, Repr

/-- An entry of the partition's digest list (16 R405). -/
structure LoadDigest where
  kind : Nat
  label : W32
  stream : Nat
  closedAt : W64
  value : BitVec 256
  regions : List Nat
deriving DecidableEq, Repr

/-- Journal and replay of a partition (19). -/
structure Journal where
  recording : Bool
  seq : Nat
  /-- PART_REPLAY_STATUS state and reason -/
  replay : Nat
  reason : Nat
  mismatched : Bool
  /-- stop_on_mismatch of PART_REPLAY as the serving job's start found it -/
  stop : Bool
  /-- PART_REPLAY_AT -/
  stepAt : W64
deriving DecidableEq, Repr

/-- State of the partition (13 R335). -/
inductive PartMode where
  | empty | settingUp | ready | releasing | lost
deriving DecidableEq, Repr

/-- State of a TDI (16 R407). -/
inductive TdiMode where
  | unlocked | locked | running | error
deriving DecidableEq, Repr

/-- What a place in the fetch order of a digest stream stands for (10 R299): a copy, a DIGEST_CLOSE that has not acted, or one that
waits for the stream's copies. -/
inductive TurnKind where
  | copy | close | closing
deriving DecidableEq, Repr

/-- A descriptor of a digest stream that has been fetched, in the order of fetching (10 R299). -/
structure StreamTurn where
  queue : CopyQueue
  stream : Nat
  kind : TurnKind
deriving DecidableEq, Repr

/-- One partition slot. -/
structure Part where
  mode : PartMode
  /-- FEAT_PART_CLUSTERS as the last SETUP or RECONFIGURE left it (02 R54) -/
  feat : W64
  cause : Nat
  jobFaults : Nat
  applied : Applied
  jobs : List Job
  nextJob : Nat
  /-- module time of the last slice boundary (13 R340) -/
  sliceAt : W64
  slice : Nat
  /-- a boundary that fell inside a step (R341) -/
  sliceDue : Bool
  round : Round
  tensors : Tab TensorEntry
  digests : Tab (Option Digest)
  digestList : List LoadDigest
  /-- the program copy queue is served; captured PART_COPYQ (10 R290) -/
  copyq : Option W64
  tdi : TdiMode
  journal : Journal
  /-- jobs that hold shares in the running slice, with their shares (13 R340) -/
  turn : List (Nat × List Nat)
  /-- the job of each best-effort queue that was given a slice last -/
  lastJob : Tab Nat
  /-- a cause of a job fault that no cluster's record carries has reached firmware (13 R345) -/
  faultDue : Bool
  /-- entries fetched from the program copy queue and not started (10 R290) -/
  progQ : List Line
  /-- descriptors of digest streams that have been fetched and not started, in order (10 R299) -/
  turns : List StreamTurn
deriving DecidableEq, Repr

/-- An empty slot. -/
def Part.reset : Part :=
  { mode := .empty, feat := 0, cause := 0, jobFaults := 0,
    applied := { shares := 0, groups := 0, ports := 0, repro := false, roundCfg := 0, spill := false, confidential := false, pool := 0,
                 roundEntries := 0, maxJobs := 0 },
    jobs := [], nextJob := 0, sliceAt := 0, slice := 40, sliceDue := false, round := Round.reset, tensors := [],
    digests := [], digestList := [], copyq := none, tdi := .unlocked,
    journal := { recording := false, seq := 0, replay := 0, reason := 0, mismatched := false, stop := false, stepAt := 0 },
    turn := [], lastJob := [], faultDue := false, progQ := [], turns := [] }

/-- Where a 64-byte line that a copy reads or writes lies (10 R282, R292). -/
inductive Spot where
  /-- a line of the module's own device memory: region and PLN -/
  | dev (region pln : Nat)
  /-- a unit of a cluster's scratchpad: byte address -/
  | sp (cluster addr : Nat)
  /-- a line of a quarter buffer: byte address -/
  | qb (quarter addr : Nat)
  /-- a line of host memory -/
  | host (addr : Nat)
  /-- a line of another module's device memory, in its partition's address space -/
  | peer (module addr : Nat)
deriving DecidableEq, Repr

/-- A piece of what a copy writes (10 R293). -/
inductive Piece where
  /-- bits [pos + len - 1 : pos] of a line -/
  | put (spot : Spot) (pos len v : Nat)
  /-- element codes added to those of a line from element `first` on -/
  | add (spot : Spot) (fmt : Fmt) (first : Nat) (codes : List Nat)
  /-- a wafer added to the wafer that lines hold -/
  | addWafer (spots : List Spot) (rate v : Nat)
deriving DecidableEq, Repr

/-- A collective in progress (15 R387, R388). -/
structure Coll where
  /-- when the first member joined -/
  first : W64
  started : Bool
  /-- pieces with sums that wait for more members: contributions added, and the sum's codes -/
  sums : Tab (Nat × List Nat)
  /-- pieces whose final value the output holds -/
  final : List Nat
deriving DecidableEq, Repr

/-- A copy in flight (10 R290 to R298). -/
structure CopyJob where
  id : Nat
  queue : CopyQueue
  partition : Nat
  desc : Line
  /-- status it ends with -/
  status : Nat
  startedAt : W64
  /-- coordinates of each box at the side that a list gives; one entry for a COPY -/
  boxes : List (Nat × Nat × Nat)
  /-- lines of host memory and of peers that it has read -/
  ext : List (Spot × Line)
  /-- 0 reads of peers are outstanding; 1 its source is read and its writes are under way; 2 its atomics are under way; 3 its writes
  to host memory are out, and the read behind them is not complete (09 R263) -/
  stage : Nat
  /-- what it writes in this module and in host memory when it completes -/
  pieces : List Piece
  /-- frames sent to peers and not yet answered: tags -/
  waiting : List (BitVec 16)
  /-- handles it names (R287) -/
  handles : List W32
  /-- PLN of its bus error -/
  err : Option Nat
  /-- digest stream and the bytes it adds -/
  digest : Option (Nat × List Byte)
  /-- other modules that receive a piece of a sharded destination (R297) -/
  members : List Nat
  coll : Option Coll
deriving DecidableEq, Repr

/-- PART_CMD_STATUS and the command in progress (13 R336). -/
structure PartCtl where
  busy : Bool
  status : Byte
  partition : Nat
  op : Nat
  /-- the registers read in the cycle busy became 1 (22 R496): PART_SHARES, GROUPS, CFG, POOL, ROUND_SIZE, ROUND_CFG -/
  shares : W64
  groups0 : W64
  groups1 : W64
  cfg : W64
  pool : W64
  size : W64
  round : W64
deriving DecidableEq, Repr

/-- No command. -/
def PartCtl.reset : PartCtl :=
  { busy := false, status := 0, partition := 0, op := 0, shares := 0, groups0 := 0, groups1 := 0, cfg := 0,
    pool := 0, size := 0, round := 0 }

end Sys2Proof.Machine
end

