-- ==== Sys2Proof/Machine/StPower.lean ====
section
/-! DEFINITION. The state of power, heat, clocks, module time, reset and bring-up (17, 18, 20, 21). -/

namespace Sys2Proof.Machine

/-- A sensor: its last reading in 0.1 °C (none before its first conversion), its failure, and its run of unchanged conversions (17 R425). -/
structure Sensor where
  reading : Option Int
  failed : Bool
  /-- the fault with which it failed (R425) -/
  fault : Nat
  /-- conversions since its output last changed, and its partner's reading then -/
  same : Nat
  partnerThen : Int
  /-- sample intervals without a conversion -/
  missing : Nat
deriving DecidableEq, Repr

/-- A sensor before its first sample. -/
def Sensor.reset : Sensor := { reading := none, failed := false, fault := 0, same := 0, partnerThen := 0, missing := 0 }

/-- A sensor site (17 R423, R431). -/
structure SensorSite where
  a : Sensor
  b : Sensor
  /-- firmware has brought in the partner (R425): sensor A or B is read alone -/
  aOut : Bool
  bOut : Bool
  fault : Nat
  interval : Nat
  throttling : Bool
  /-- the throttle-point record has been posted and is not due again (R426) -/
  posted : Bool
  /-- module time of the last sample (R424) -/
  sampledAt : Option W64
deriving DecidableEq, Repr

/-- A site before its first sample. -/
def SensorSite.reset : SensorSite :=
  { a := Sensor.reset, b := Sensor.reset, aOut := false, bOut := false, fault := 0, interval := 0, throttling := false,
    posted := false, sampledAt := none }

/-- A rationed consumer: 0 to 3 quarters, 4 to 19 stacks (17 R416). Rations and demands are FP32
patterns. -/
structure Consumer where
  ration : W32
  demand : W32
  /-- thermal factor t in twentieths (R426) -/
  factor : Nat
  /-- windows left for which its maximum counts as 90 % (R422) -/
  cut : Nat
  /-- rest after each slice as a fraction of the slice, FP32 (stacks, R421) -/
  rest : W32
deriving DecidableEq, Repr

/-- A consumer at reset: t is 1 (R426). -/
def Consumer.reset : Consumer := { ration := 0, demand := 0, factor := 20, cut := 0, rest := 0 }

/-- A regulator rail (17 R414, R422, 20 R469). -/
structure Rail where
  alert : Bool
  /-- asserted in the last window -/
  inWindow : Bool
  /-- the hold of R422: none, while the alert stands, or since its deassertion -/
  hold : Bool
  since : W64
  spares : Nat
  lost : Nat
deriving DecidableEq, Repr

/-- A rail with its two spare phases. -/
def Rail.reset : Rail := { alert := false, inWindow := false, hold := false, since := 0, spares := 2, lost := 0 }

/-- Power and heat (17). -/
structure Power where
  profile : Nat
  envelope : Nat
  /-- average input of the last window in W, FP32 -/
  input : W32
  allowance : Nat
  /-- windows in a row at or below 3,600 W (R418) -/
  calm : Nat
  floor : Bool
  inputLow : Bool
  inputHigh : Bool
  /-- PWR_STATUS oc as the last recompute left it -/
  oc : BitVec 14
  ocEvents : Nat
  millivolts : Nat
  amps : BitVec 16
  consumers : Tab Consumer
  rails : Tab Rail
  sites : Tab SensorSite
  /-- module time of the last ration recompute (R416) -/
  windowAt : Option W64
  /-- the status words as the last recompute left them, by the management bus's codes; 0x100 and 0x110 on: quarters and stacks
  (R431; 21 R488) -/
  smb : Tab W64
deriving DecidableEq, Repr

/-- Power before the first ration. -/
def Power.reset : Power :=
  { profile := 0, envelope := 0, input := 0, allowance := 10, calm := 0, floor := false, inputLow := false,
    inputHigh := false, oc := 0, ocEvents := 0, millivolts := 0, amps := 0, consumers := [], rails := [], sites := [], windowAt := none, smb := [] }

/-- State of module time (18 R436). -/
inductive TimeMode where
  | unknown | locked | holdover
deriving DecidableEq, Repr

/-- The time base (18 R436 to R441). -/
structure TimeBase where
  now : W64
  /-- the time base runs (R436) -/
  running : Bool
  mode : TimeMode
  pulseUsed : Bool
  pulseLost : Bool
  offset : Int
  adjust : Int
  locks : Nat
  /-- samples in a row within 1 µs -/
  inRow : Nat
  lastSample : W64
  lastPulse : Option W64
  /-- a PTM request is outstanding, and when the last one was issued -/
  ptmOut : Bool
  ptmAt : Option W64
  /-- reference time minus module time of the last PTM sample, for the seconds count of TIME_PULSE -/
  ptmOffset : Int
  /-- module time ms and 10 ms marks already served (budget refill, bucket decay and the like) -/
  marks : Tab W64
deriving DecidableEq, Repr

/-- The time base before it starts. -/
def TimeBase.reset : TimeBase :=
  { now := 0, running := false, mode := .unknown, pulseUsed := false, pulseLost := false, offset := 0, adjust := 0, locks := 0, inRow := 0,
    lastSample := 0, lastPulse := none, ptmOut := false, ptmAt := none, ptmOffset := 0, marks := [] }

/-- Electrical state (21 R479, R480). -/
inductive Electrical where
  | absent | unpowered | inReset | running
deriving DecidableEq, Repr

/-- MOD_STATUS, pins and the host link (11 R301, 18 R447, 21). -/
structure Module where
  electrical : Electrical
  stage : Nat
  stop : Nat
  linkDegraded : Bool
  pllLost : Nat
  lastReset : Nat
  badWrites : Nat
  /-- level of PERST_N: asserted -/
  perst : Bool
  ga : BitVec 3
  /-- converters latched off until the input falls below 54 V and rises (R415, R428), or below 70 V (R413) -/
  latched : Bool
  overVolt : Bool
  numVfs : Nat
  vfEnable : Bool
  ptmEnable : Bool
  /-- SMB_ALERT_N asserted (21 R489) -/
  alert : Bool
  lossCause : Nat
  /-- a boot has ended its self-test and FIRMWARE_READY may come -/
  booted : Bool
  /-- clock of the hourly idle-cluster test (20 R467) -/
  testedAt : W64
deriving DecidableEq, Repr

/-- The module at cold reset: powered, in reset, its boot not yet run. -/
def Module.reset : Module :=
  { electrical := .inReset, stage := 0, stop := 0, linkDegraded := false, pllLost := 0, lastReset := 0, badWrites := 0,
    perst := false, ga := 0, latched := false, overVolt := false, numVfs := 0, vfEnable := false,
    ptmEnable := false, alert := false, lossCause := 0, booted := false, testedAt := 0 }

/-- Spares and their test registers (20). -/
structure Spares where
  /-- repair map changes not yet in flash: kind and part (R463) -/
  changes : List (Nat × Nat)
  wearBusy : Bool
  wearStatus : Byte
  wearAddr : W64
  patBusy : Bool
  patStatus : Byte
  patFail : BitVec 32
  patSpareFail : BitVec 2
  patErrors : Nat
  patErrs : List W64
  patCmd : W64
  /-- correction records and remaps by channel within 24 h (R470, R471): a
  channel's records (its number), a row's corrections (2^30 + PLN / 16), a die's remapped rows (2^31 + 16 × stack + die), and times -/
  recent : List (Nat × W64)
  /-- cores that caused a loss and are tested at restart -/
  retestCore : Option Nat
deriving DecidableEq, Repr

/-- No test run. -/
def Spares.reset : Spares :=
  { changes := [], wearBusy := false, wearStatus := 0, wearAddr := 0, patBusy := false, patStatus := 0, patFail := 0,
    patSpareFail := 0, patErrors := 0, patErrs := [], patCmd := 0, recent := [], retestCore := none }

end Sys2Proof.Machine
end

