-- ==== Sys2Proof/Machine/StStack.lean ====
section
/-! DEFINITION. The state of the stacks: sequencers, merge units and bank engines (05, 06, 20). -/

namespace Sys2Proof.Machine

/-- A merge slot (05 R157 to R161). -/
structure Slot where
  /-- the partition whose window it writes, the source and the tag of its MERGE_OPEN -/
  partition : Nat
  src : PacketSource
  tag : Nat
  expected : Nat
  /-- engine of each partial that has arrived and is not folded, and its 8 rows of 130 FP32 patterns, oldest first -/
  arrived : List (Nat × List (List W32))
  folded : Nat
  acc : List (List W32)
  out : Nat
  count : Nat
deriving DecidableEq, Repr

/-- A request of a stream: lines left of a SCAN (06 R175). -/
structure Stream where
  reg : Nat
  line : Nat
  left : Nat
deriving DecidableEq, Repr

/-- What an engine drains for: an acting YIELD or an END (06 R165, R182). -/
inductive Drain where
  | none | yielding | ending
deriving DecidableEq, Repr

/-- State of a bank engine (06 R166). -/
inductive EngineMode where
  | idle | queued | running | suspended | faulted
deriving DecidableEq, Repr

/-- One bank engine (06). -/
structure Engine where
  mode : EngineMode
  fault : Nat
  pc : Nat
  index : Nat
  forced : Nat
  overruns : Nat
  x : Tab W32
  c : Tab W64
  /-- local buffer, 32 KiB -/
  buf : Mem
  /-- scores, then probabilities: 4,096 × half + 32 × token + query as FP32 patterns -/
  score : Tab W32
  /-- factors: 32 × half + query -/
  factor : Tab W32
  /-- an EXPM result of the half that no ACCV has consumed (R180) -/
  fresh : BitVec 2
  /-- number of tokens of the half's last DOT, its first position and its end position -/
  block : Tab (Nat × W32 × W32)
  /-- running maxima, sums and accumulators: 130 × query + (0 maximum, 1 sum, 2 + d) -/
  acc : Tab W32
  /-- the valid query table entries that QSET loaded, and its unit -/
  table : List W32
  tableUnit : Nat
  streams : List Stream
  /-- queues of the stream (0), exponent (1) and transfer (2) units, the running instruction first: cycles that each has still to run,
  and the x register it has still to write, 0 for none (R173) -/
  units : Tab (List (Nat × Nat))
  tag : Nat
  src : PacketSource
  permit : Bool
  preloaded : Bool
  /-- the engine resumes in place (RESUME) rather than starts -/
  resume : Bool
  /-- a SUSPEND waits for the next YIELD -/
  pendSuspend : Bool
  /-- a fault found, its code and first failing line, whose end BANK_ENGINE_FAULT brings (R187) -/
  failing : Option (Nat × Option Nat)
  slice : Nat
  /-- overrun already counted in this slice -/
  overCounted : Bool
  drain : Drain
  /-- stopped by a rest (17 R421) -/
  rest : Bool
deriving DecidableEq, Repr

/-- An idle engine with every register at zero (log 5). -/
def Engine.reset : Engine :=
  { mode := .idle, fault := 0, pc := 0, index := 0, forced := 0, overruns := 0, x := [], c := [], buf := [], score := [],
    factor := [], fresh := 0, block := [], acc := [], table := [], tableUnit := 0, streams := [], units := [], tag := 0, src := .firmware,
    permit := false, preloaded := false, resume := false, pendSuspend := false, failing := none, slice := 0,
    overCounted := false, drain := .none, rest := false }

/-- The micro-program library (06 R188, R189). -/
structure Library where
  signer : Nat
  version : W32
  entries : List (W64 × W64)
  code : List W64
deriving DecidableEq, Repr

/-- A spare die's use (20 R472, R474). -/
structure Spare where
  state : Nat
  replaced : Nat
  progress : Nat
  rows : Nat
  lost : BitVec 8
  /-- every row is copied: the controllers hold new packets to the die's engines (R472 step 4) -/
  holding : Bool
deriving DecidableEq, Repr

/-- One stack: its sequencer, merge slots, dies and banks (05; 20 R470 to R474). -/
structure Stack where
  /-- physical die of die position d -/
  dieMap : Tab Nat
  spare : Spare
  level : Nat
  /-- a ration of level 0 waits for the in-stack items of a built sheet (01 R25) -/
  zeroDue : Bool
  /-- long interval 3.9 µs or short 1.95 µs (05 R155) -/
  shortRefresh : Bool
  slots : Tab (Option Slot)
  /-- start queues by 2 × channel + pseudo-channel: engines as 4 × … + bank group -/
  starts : Tab (List Nat)
  /-- refresh debt of each bank of the stack -/
  debt : Tab Nat
  /-- packets that the controllers hold for a library change or a die copy (06 R191, 20 R472) -/
  heldPackets : List (PacketSource × Packet)
  /-- banks whose remapped row was written (20 R470): row of the bank -/
  remaps : Tab (List Nat)
deriving DecidableEq, Repr

/-- A stack before boot. -/
def Stack.reset : Stack :=
  { dieMap := [], spare := { state := 0, replaced := 0, progress := 0, rows := 0, lost := 0, holding := false }, level := 4, zeroDue := false,
    shortRefresh := false, slots := [], starts := [], debt := [], heldPackets := [], remaps := [] }

end Sys2Proof.Machine
end

