-- ==== Sys2Proof/Machine/StSec.lean ====
section
/-! DEFINITION. The state of the security core, the flash and the debug port (16, 20). -/

namespace Sys2Proof.Machine

/-- A firmware image in a bank of the flash: its bytes; an incomplete bank holds bytes that fail the check (16 R396). -/
abbrev Image := List Byte

/-- An owner key slot (16 R401). -/
structure OwnerKey where
  key : List Byte
  rights : Byte
deriving DecidableEq, Repr

/-- A wear log record: 32 bytes (20 R464). -/
abbrev WearRec := BitVec 256

/-- The signed configuration flash (16 R397 to R399, 20 R462 to R465). -/
structure Flash where
  /-- banks A and B of targets 0 to 2: key 2 × target + bank; none is the factory's content -/
  banks : Tab (Option Image)
  /-- floors: targets 0 to 2, then library signers 0 to 4 -/
  floors : Tab W32
  /-- the library that flash names; none is the factory's content -/
  library : Option Image
  owners : Tab (Option OwnerKey)
  /-- the repair map as written: (kind, part) in the kinds of the wear log, oldest first. The part is a cluster (1), a control
  core (3), 5 × port + lane (4), 65,536 × bank + row (5), 16 × stack + die (6 spare decided, 8 no spare left), 2 × site + sensor
  (9 failed, 10 returned), 16 × rail + phase (11) -/
  map : List (Nat × Nat)
  /-- wear log: last 65,536 records oldest first, and the number ever written -/
  wear : List WearRec
  wearTotal : Nat
deriving DecidableEq, Repr

/-- The flash as the factory left it, so far as the spec gives it: no owner keys, floors zero (log 8). -/
def Flash.reset : Flash :=
  { banks := [], floors := [], library := none, owners := [], map := [],
    wear := [], wearTotal := 0 }

/-- The operation of the security core in progress (16 R402). -/
structure SecOp where
  op : Nat
  arg : Line
  /-- the nonce that was current when it began (R410: every UNLOCK consumes it) -/
  nonce : Option (BitVec 256)
deriving DecidableEq, Repr

/-- The security core. -/
structure Sec where
  slots : Tab (BitVec 256)
  bootId : W64
  nonce : Option (BitVec 256)
  debugOpen : Bool
  failedUnlocks : Nat
  bootedBank : BitVec 3
  /-- security versions of the running images, by target -/
  versions : Tab W32
  busy : Bool
  status : Byte
  op : Option SecOp
  /-- op of an operation whose argument block the host could not deliver; 0 for none -/
  lost : Nat
  /-- identity and alias keys exist -/
  identity : Bool
  alias_ : Bool
  /-- memory encryption pairs, by partition -/
  memKeys : BitVec 8
  /-- the number each partition's pair was made under (16 R393; log 7) -/
  memPair : Tab Nat
  /-- an opening of the debug port waits for the end of these terminations (R411) -/
  opening : Bool
  /-- SPDM session established by KEY_EXCHANGE -/
  spdm : Bool
  /-- confidential partitions being terminated: slot and cause (R408) -/
  terminating : List (Nat × Nat)
  flash : Flash
  /-- library as the engines hold it, and one that waits to be loaded (06 R191) -/
  library : Option Library
  loading : Bool
  /-- debug TAP: instruction, bypass bit (R7) -/
  tapInstr : Nat
  bypassBit : Bool
  dbg : Tab W64
  /-- a request for measurements waits for the end of an UNLOCK (R412): index and nonce -/
  waitingReports : List (Nat × BitVec 256)
deriving DecidableEq, Repr

/-- The security core at power-up. -/
def Sec.reset : Sec :=
  { slots := [], bootId := 0, nonce := none, debugOpen := false, failedUnlocks := 0, bootedBank := 0, versions := [], busy := false,
    status := 0, op := none, lost := 0, identity := false, alias_ := false, memKeys := 0, memPair := [], opening := false, spdm := false,
    terminating := [], flash := Flash.reset, library := none, loading := false, tapInstr := 0, bypassBit := false,
    dbg := [], waitingReports := [] }

end Sys2Proof.Machine
end

