-- ==== Sys2Proof/Machine/State.lean ====
section
/-! DEFINITION. The state of the module, the reasons a step can stop, and the state after reset. -/

namespace Sys2Proof.Machine

/-- Why a step can stop with a fault. No command of the model raises one: the spec describes the effect of every fault of
the hardware, so each is a next state (log 1). -/
inductive Fault where
  /-- raised by no command; kept so that the type has a name for a stop. Safe. -/
  | none
deriving DecidableEq, Repr

/-- Why a step can be refused. -/
inductive Refusal where
  /-- the command named has no meaning yet; raised by the dispatcher alone. Safe: the model stops. -/
  | notModelled (mnemonic : String)
deriving DecidableEq, Repr

/-- The state. -/
structure State where
  /-- commands waiting, first in first out (the model's own, log 1) -/
  pending : List Instr
  /-- selects the next free value (the model's own, log 3) -/
  free : Nat
  /-- what has left the module, oldest first (the model's own, log 6) -/
  out : List Output
  /-- what waits for the host link to train to its full form, oldest first (11 R301) -/
  unsent : List Output
  clusters : Tab Cluster
  quarters : Tab Quarter
  stackTab : Tab Stack
  engines : Tab Engine
  /-- device memory: key 72 × PLN + byte -/
  mem : Mem
  memory : Memory
  parts : Tab Part
  partCtl : PartCtl
  copies : List CopyJob
  nextCopy : Nat
  fns : Tab Fn
  buckets : Buckets
  intr : Intr
  /-- set-up registers that software writes and reads back: key 2^24 × function + BAR0 offset (log 15) -/
  regs : Tab W64
  links : Links
  sec : Sec
  power : Power
  time : TimeBase
  module : Module
  spares : Spares
deriving DecidableEq, Repr

/-- The module right after reset: no register written, no partition, no job, every line blank, the boot not yet run. -/
def State.reset : State :=
  { pending := [], free := 0, out := [], unsent := [], clusters := [], quarters := [], stackTab := [], engines := [], mem := [],
    memory := Memory.reset, parts := [], partCtl := PartCtl.reset, copies := [], nextCopy := 0, fns := [], buckets := Buckets.reset,
    intr := Intr.reset, regs := [], links := Links.reset, sec := Sec.reset, power := Power.reset,
    time := TimeBase.reset, module := Module.reset, spares := Spares.reset }

end Sys2Proof.Machine
end

