-- ==== Sys2Proof/Machine/Ops.lean ====
section
/-! DEFINITION. The named operations over the state: units by number, registers, module time, free values, output. -/

namespace Sys2Proof.Machine

/-! ### Units -/

/-- Cluster `c` (320 × quarter + physical index). -/
def State.cluster (s : State) (c : Nat) : Cluster := Tab.get (fun _ => Cluster.reset) s.clusters c

/-- Change cluster `c`. -/
def State.modCluster (s : State) (c : Nat) (f : Cluster → Cluster) : State :=
  { s with clusters := Tab.modify (fun _ => Cluster.reset) s.clusters c f }

/-- Quarter `q`. -/
def State.quarter (s : State) (q : Nat) : Quarter := Tab.get (fun _ => Quarter.reset) s.quarters q

/-- Change quarter `q`. -/
def State.modQuarter (s : State) (q : Nat) (f : Quarter → Quarter) : State :=
  { s with quarters := Tab.modify (fun _ => Quarter.reset) s.quarters q f }

/-- Stack `k`. -/
def State.stack (s : State) (k : Nat) : Stack := Tab.get (fun _ => Stack.reset) s.stackTab k

/-- Change stack `k`. -/
def State.modStack (s : State) (k : Nat) (f : Stack → Stack) : State :=
  { s with stackTab := Tab.modify (fun _ => Stack.reset) s.stackTab k f }

/-- Bank engine `e`. -/
def State.engine (s : State) (e : Nat) : Engine := Tab.get (fun _ => Engine.reset) s.engines e

/-- Change bank engine `e`. -/
def State.modEngine (s : State) (e : Nat) (f : Engine → Engine) : State :=
  { s with engines := Tab.modify (fun _ => Engine.reset) s.engines e f }

/-- Partition slot `p`. -/
def State.part (s : State) (p : Nat) : Part := Tab.get (fun _ => Part.reset) s.parts p

/-- Change partition slot `p`. -/
def State.modPart (s : State) (p : Nat) (f : Part → Part) : State :=
  { s with parts := Tab.modify (fun _ => Part.reset) s.parts p f }

/-- The round of partition `p`. -/
def State.round (s : State) (p : Nat) : Round := (s.part p).round

/-- Change the round of partition `p`. -/
def State.modRound (s : State) (p : Nat) (f : Round → Round) : State :=
  s.modPart p (fun x => { x with round := f x.round })

/-- Function `n`. -/
def State.fn (s : State) (n : Nat) : Fn := Tab.get (fun _ => Fn.reset) s.fns n

/-- Change function `n`. -/
def State.modFn (s : State) (n : Nat) (f : Fn → Fn) : State :=
  { s with fns := Tab.modify (fun _ => Fn.reset) s.fns n f }

/-- Ring `r` of function `n`. -/
def State.ring (s : State) (n r : Nat) : Ring := Tab.get (fun _ => Ring.reset) (s.fn n).rings r

/-- Change ring `r` of function `n`. -/
def State.modRing (s : State) (n r : Nat) (f : Ring → Ring) : State :=
  s.modFn n (fun x => { x with rings := Tab.modify (fun _ => Ring.reset) x.rings r f })

/-- Region table entry `n`. -/
def State.region (s : State) (n : Nat) : Region := Tab.get (fun _ => Region.reset) s.memory.regions n

/-- Change region table entry `n`. -/
def State.modRegion (s : State) (n : Nat) (f : Region → Region) : State :=
  { s with memory := { s.memory with regions := Tab.modify (fun _ => Region.reset) s.memory.regions n f } }

/-- Motra port `n`. -/
def State.port (s : State) (n : Nat) : Port := Tab.get (fun _ => Port.reset) s.links.ports n

/-- Change Motra port `n`. -/
def State.modPort (s : State) (n : Nat) (f : Port → Port) : State :=
  { s with links := { s.links with ports := Tab.modify (fun _ => Port.reset) s.links.ports n f } }

/-- The session with peer `d`. -/
def State.session (s : State) (d : Nat) : Session := Tab.get (fun _ => Session.reset) s.links.sessions d

/-- Change the session with peer `d`. -/
def State.modSession (s : State) (d : Nat) (f : Session → Session) : State :=
  { s with links := { s.links with sessions := Tab.modify (fun _ => Session.reset) s.links.sessions d f } }

/-- Control core `n`. -/
def State.core (s : State) (n : Nat) : Core := Tab.get (fun _ => Core.reset) s.intr.cores n

/-- Change control core `n`. -/
def State.modCore (s : State) (n : Nat) (f : Core → Core) : State :=
  { s with intr := { s.intr with cores := Tab.modify (fun _ => Core.reset) s.intr.cores n f } }

/-- Interrupt line `n`. -/
def State.icLine (s : State) (n : Nat) : IcLine := Tab.get (fun _ => IcLine.reset) s.intr.lines n

/-- Change interrupt line `n`. -/
def State.modIcLine (s : State) (n : Nat) (f : IcLine → IcLine) : State :=
  { s with intr := { s.intr with lines := Tab.modify (fun _ => IcLine.reset) s.intr.lines n f } }

/-- An edge of line `n`'s source latches its pending bit (12 R329). -/
def State.latch (s : State) (n : Nat) : State := s.modIcLine n (fun l => { l with pending := true })

/-- Sensor site `n`. -/
def State.site (s : State) (n : Nat) : SensorSite := Tab.get (fun _ => SensorSite.reset) s.power.sites n

/-- Change sensor site `n`. -/
def State.modSite (s : State) (n : Nat) (f : SensorSite → SensorSite) : State :=
  { s with power := { s.power with sites := Tab.modify (fun _ => SensorSite.reset) s.power.sites n f } }

/-- Rail `n`. -/
def State.rail (s : State) (n : Nat) : Rail := Tab.get (fun _ => Rail.reset) s.power.rails n

/-- Change rail `n`. -/
def State.modRail (s : State) (n : Nat) (f : Rail → Rail) : State :=
  { s with power := { s.power with rails := Tab.modify (fun _ => Rail.reset) s.power.rails n f } }

/-- Rationed consumer `n`. -/
def State.consumer (s : State) (n : Nat) : Consumer := Tab.get (fun _ => Consumer.reset) s.power.consumers n

/-- Change rationed consumer `n`. -/
def State.modConsumer (s : State) (n : Nat) (f : Consumer → Consumer) : State :=
  { s with power := { s.power with consumers := Tab.modify (fun _ => Consumer.reset) s.power.consumers n f } }

/-! ### Time, free values, output -/

/-- Module time in ns, as a number. -/
def State.nowNat (s : State) : Nat := s.time.now.toNat

/-- Whether module time is locked (18 R436). -/
def State.isLocked (s : State) : Bool := decide (s.time.mode = .locked)

/-- The next free value (log 3). -/
def State.freeVal (s : State) : W64 := Config.freeValue s.free

/-- The state with the next free value used up. -/
def State.useFree (s : State) : State := { s with free := s.free + 1 }

/-- A partition that is replaying: no poll, fetch, time read or Motra packet reaches it (19 R460). -/
def State.replaying (s : State) (p : Nat) : Bool := (s.part p).journal.replay == 1

/-- Something leaves the module. -/
def State.emit (s : State) (o : Output) : State := { s with out := s.out ++ [o] }

/-- Several things leave the module, in order. -/
def State.emitAll (s : State) (os : List Output) : State := { s with out := s.out ++ os }

/-- Function-level work is performed: the link has trained to x8 at 128 GT/s in FLIT mode (11 R301). -/
def State.linkGood (s : State) : Bool := !s.module.linkDegraded

/-- The partition is ready and its function-level work is performed (11 R301). -/
def State.works (s : State) (p : Nat) : Bool := decide ((s.part p).mode = .ready) && s.linkGood

/-- Things go out on the host link, in order; on a degraded link they wait for the next training (11 R301; log 72). -/
def State.toHost (s : State) (os : List Output) : State :=
  if s.linkGood then { s with out := s.out ++ os } else { s with unsent := s.unsent ++ os }

/-- Writes of at most 64 bytes that never cross a 64-byte boundary (11 R302) of a byte string into host memory; `w` makes one. -/
def hostChunks (w : Nat → List Byte → Output) : Nat → Nat → List Byte → List Output
  | 0, _, _ => []
  | f + 1, addr, bs =>
    if bs.isEmpty then []
    else
      let n := 64 - addr % 64
      w addr (bs.take n) :: hostChunks w f (addr + n) (bs.drop n)

/-- Write data into host memory. -/
def State.hostWrite (s : State) (fn addr : Nat) (bs : List Byte) : State :=
  s.toHost (hostChunks (.hostWrite fn) (bs.length + 1) addr bs)

/-- Write a record or a head block into host memory, with both ordering attributes clear (09 R272). -/
def State.hostRecord (s : State) (fn addr : Nat) (bs : List Byte) : State :=
  s.toHost (hostChunks (.hostRecord fn) (bs.length + 1) addr bs)

/-- The largest read of at most 512 bytes that is aligned to its size at an address and lies in the `len` bytes wanted
(11 R302; log 72). -/
def readSize (addr len : Nat) : Nat :=
  ([512, 256, 128, 64, 32, 16, 8, 4, 2].find? (fun n => addr % n == 0 && decide (n ≤ len))).getD 1

/-- The reads of a stretch of host memory. -/
def hostReads (fn : Nat) : Nat → Nat → Nat → List Output
  | 0, _, _ => []
  | f + 1, addr, len =>
    if len = 0 then []
    else .hostRead fn addr (readSize addr len) :: hostReads fn f (addr + readSize addr len) (len - readSize addr len)

/-- Read a stretch of host memory. -/
def State.hostRead (s : State) (fn addr len : Nat) : State := s.toHost (hostReads fn len addr len)

/-! ### Set-up registers -/

/-- Key of a register: the function only for the RING_, EVT_ and MSI-X blocks, which each function has (log 15). -/
def regKey (fn off : Nat) : Nat := fn * 2 ^ 24 + off

/-- Reset value of a partition register by its offset in the slot's block (22 R493). -/
def partRegReset (off : Nat) : Nat :=
  match off with
  | 0x018 => 0x82800000
  | 0x028 => 0x20
  | 0x048 => 0x0002000107D0C350
  | 0x058 => 0x00020204
  | 0x068 => 0x400
  | 0x070 => 0x2
  | _ => 0

/-- Reset value of a register by its key (22 R492, R493). -/
def regReset (key : Nat) : W64 :=
  let off := key % 2 ^ 24
  if 0x60000 ≤ off ∧ off < 0x68000 then BitVec.ofNat 64 (partRegReset (off % 0x1000))
  else if off = 0x20 then 0xA#64
  else if off = 0x28 then 0x118#64
  else if off = 0x20020 then 0x14#64
  else if 0x20100 ≤ off ∧ off < 0x20300 ∧ off % 0x20 = 8 then 0x20#64
  else if 0x30100 ≤ off ∧ off < 0x30180 ∧ off % 8 = 0 then 0x2000A#64
  else if 0x72000 ≤ off ∧ off < 0x72200 ∧ off % 0x20 = 0 then 1#64
  else 0#64

/-- The stored value of a register. -/
def State.reg (s : State) (fn off : Nat) : W64 := Tab.get regReset s.regs (regKey fn off)

/-- Store a register value. -/
def State.setReg (s : State) (fn off : Nat) (v : W64) : State :=
  { s with regs := Tab.set regReset s.regs (regKey fn off) v }

/-- The stored value of a partition register of slot p. -/
def State.partReg (s : State) (p off : Nat) : W64 := s.reg 0 (0x60000 + 0x1000 * p + off)

/-- PART_CFG of a slot. -/
def State.partCfg (s : State) (p : Nat) : W64 := s.partReg p 0x18

/-- Functions that are present: 0 and the virtual functions up to NumVFs (11 R303). -/
def State.present (s : State) (fn : Nat) : Bool := fn == 0 || (s.module.vfEnable && decide (fn ≤ s.module.numVfs))

/-- Module firmware runs and does function-level work (11 R301; 18 R446). -/
def State.firmwareUp (s : State) : Bool :=
  decide (s.module.electrical = .running) && s.module.stage == 4 && !s.module.linkDegraded

/-- A write of a function's BAR0 reaches the set-up registers outside the MOD_ block (11 R301, R303). -/
def State.bar0 (s : State) (fn : Nat) : Bool :=
  decide (s.module.electrical = .running) && !s.module.linkDegraded && s.present fn

/-! ### Clusters, shares and partitions (02 R28 to R30) -/

/-- Working: passed self-test and not retired (R29). -/
def State.working (s : State) (c : Nat) : Bool := !(s.cluster c).failed && !(s.cluster c).retired

/-- Physical clusters of quarter q that are in service, in ascending physical index: their positions are the quarter
indices (R28). -/
def State.serving (s : State) (q : Nat) : List Nat :=
  (((List.range 320).map (fun i => 320 * q + i)).filter s.working).take (s.quarter q).inService

/-- Clusters of share `sh` (R28). -/
def State.shareClusters (s : State) (sh : Nat) : List Nat := ((s.serving (sh / 12)).drop (25 * (sh % 12))).take 25

/-- Shares of a mask in quarter q, ascending. -/
def sharesIn (m : BitVec 48) (q : Nat) : List Nat := (List.range 12).filterMap (fun i => if bitAt m (12 * q + i) then some (12 * q + i) else none)

/-- The partition's clusters in quarter q, ascending quarter index. -/
def State.partClustersIn (s : State) (p q : Nat) : List Nat := (sharesIn (s.part p).applied.shares q).flatMap s.shareClusters

/-- The partition's clusters; position is the partition index (R30). -/
def State.partClusters (s : State) (p : Nat) : List Nat := (List.range 4).flatMap (s.partClustersIn p)

/-- A partition that holds resources (its set-up stands). -/
def State.holds (s : State) (p : Nat) : Bool := decide ((s.part p).mode ≠ .empty)

/-- The partition whose shares hold cluster c, if any. -/
def State.partOf (s : State) (c : Nat) : Option Nat :=
  (List.range 8).find? (fun p => s.holds p && (s.partClustersIn p (c / 320)).contains c)

/-- The size of the partition's quarter-buffer window in a quarter (R40). -/
def State.window (s : State) (p q : Nat) : Nat := (sharesIn (s.part p).applied.shares q).length * 5242880

/-- Byte address in the quarter buffer of offset `o` of the partition's window: its m-th share's 5 MiB window
(R40; firmware's placement is share by share, log 17). -/
def State.windowAddr (s : State) (p q o : Nat) : Nat :=
  5242880 * ((sharesIn (s.part p).applied.shares q).getD (o / 5242880) 0 % 12) + o % 5242880

/-- Whether the partition holds channel group g (05 R131). -/
def State.holdsGroup (s : State) (p g : Nat) : Bool := s.holds p && bitAt (s.part p).applied.groups g

/-- The partition that holds channel group g, if any. -/
def State.groupOwner (s : State) (g : Nat) : Option Nat := (List.range 8).find? (fun p => s.holdsGroup p g)

/-- The partition that holds Motra port n, if any. -/
def State.portOwner (s : State) (n : Nat) : Option Nat :=
  (List.range 8).find? (fun p => s.holds p && bitAt (s.part p).applied.ports n)

end Sys2Proof.Machine
end

