-- ==== Sys2Proof/Machine/Post.lean ====
section
/-! DEFINITION. Rings as the module writes them, mailboxes and event records (11 R306, R308; 12 R320 to R327). -/

namespace Sys2Proof.Machine

/-! ### Rings -/

/-- RING_r_CFG of a function's ring. -/
def State.ringCfg (s : State) (fn r : Nat) : W64 := s.reg fn (0x20108 + 0x20 * r)

/-- Type code of a ring (11 R304). -/
def State.ringType (s : State) (fn r : Nat) : Nat := fld (s.ringCfg fn r) 2 0

/-- Entries of a ring. -/
def State.ringEntries (s : State) (fn r : Nat) : Nat := 2 ^ fld (s.ringCfg fn r) 7 3

/-- Host address of entry 0. -/
def State.ringBase (s : State) (fn r : Nat) : Nat := 4096 * fld (s.reg fn (0x20100 + 0x20 * r)) 63 12

/-- Whether ring `r` is enabled. -/
def State.ringOn (s : State) (fn r : Nat) : Bool := bitAt (s.fn fn).enable r

/-- A ring that the module still writes: enabled or draining, and not stopped. -/
def State.ringWritable (s : State) (fn r : Nat) : Bool :=
  (s.ringOn fn r || (s.ring fn r).draining) && !(s.ring fn r).stopped

/-- Entries of a module-written ring that the driver has not released. -/
def State.unreleased (s : State) (fn r : Nat) : Nat := ((s.ring fn r).moduleIndex - (s.ring fn r).driverIndex).toNat

/-- Entries of a module-written ring that are neither unreleased nor reserved. -/
def State.ringFree (s : State) (fn r : Nat) : Nat :=
  s.ringEntries fn r - (s.unreleased fn r + (s.ring fn r).reserved)

/-- The head block: word r is the module index of ring r (R308). -/
def State.headBlock (s : State) (fn : Nat) : List Byte :=
  (List.range 16).flatMap (fun r => toBytes 4 (s.ring fn r).moduleIndex.toNat)

/-- Write the head block of a function (R308). -/
def State.writeHeads (s : State) (fn : Nat) : State :=
  s.hostRecord fn (64 * fld (s.reg fn 0x20008) 63 6) (s.headBlock fn)

/-- Write one entry of a module-written ring at its module index, which then adds 1 (R306). -/
def State.putEntry (s : State) (fn r size : Nat) (bs : List Byte) : State :=
  let i := (s.ring fn r).moduleIndex
  let t := s.hostRecord fn (s.ringBase fn r + (i.toNat % s.ringEntries fn r) * size) bs
  t.modRing fn r (fun x => { x with moduleIndex := i + 1, reserved := x.reserved - 1 })

/-! ### Mailboxes -/

/-- The mailbox ring of a function, when one is enabled. -/
def State.mailbox (s : State) (fn : Nat) : Option Nat :=
  (List.range 16).find? (fun r => s.ringOn fn r && s.ringType fn r == 6)

/-- The mailbox of a function when records can be written to it (R322: not disabled, stopped or draining). -/
def State.openMailbox (s : State) (fn : Nat) : Option Nat :=
  match s.mailbox fn with
  | some r => if (s.ring fn r).stopped then none else some r
  | none => none

/-- Send the function's message, or hold it while the vector is masked (R323). -/
def State.sendMsix (s : State) (fn : Nat) : State :=
  if (s.fn fn).vectorMasked then s.modFn fn (fun x => { x with msgPending := true }) else s.toHost [.msix fn]

/-- Announce written records: the head block, then the message when the vector is armed, which disarms (R323). -/
def State.announce (s : State) (fn : Nat) : State :=
  let t := s.writeHeads fn
  if (t.fn fn).armed then (t.modFn fn (fun x => { x with armed := false })).sendMsix fn else t

/-- The 32 bytes of an event record (R320). -/
def recordBytes (kind code source flags seq count : Nat) (time arg : Nat) : List Byte :=
  toBytes 1 kind ++ toBytes 1 code ++ toBytes 2 source ++ toBytes 1 flags ++ toBytes 3 0 ++ toBytes 4 seq ++
    toBytes 4 count ++ toBytes 8 time ++ toBytes 8 arg

/-- Write a record into mailbox ring r of a function; its seq adds 1 (R321). -/
def State.putRecord (s : State) (fn r : Nat) (kind code source flags count time arg : Nat) : State :=
  let t := s.putEntry fn r 32 (recordBytes kind code source flags (s.fn fn).nextSeq.toNat count time arg)
  let t := t.modFn fn (fun x => { x with nextSeq := x.nextSeq + 1 })
  -- mailbox entries are not reserved (11 R309)
  t.announce fn

/-- EVT_RATE of a block (R328). -/
def State.evtRate (s : State) (b : Nat) : W64 := s.reg 0 (0x30100 + 8 * b)

/-- Level of a source's bucket (R325). -/
def State.bucket (s : State) (source : Nat) : Nat :=
  Tab.get (fun _ => 32) s.buckets.base (source / 4096) - Tab.get (fun _ => 0) s.buckets.used source

/-- Take a token of a source. -/
def State.takeToken (s : State) (source : Nat) : State :=
  { s with buckets := { s.buckets with used := Tab.modify (fun _ => 0) s.buckets.used source (· + 1) } }

/-- Whether the mailbox is full to a non-fatal record: 4 or fewer entries free (R325). -/
def State.mailboxFull (s : State) (fn r : Nat) : Bool := decide (s.ringEntries fn r ≤ s.unreleased fn r + 4)

/-- A count that takes in the records of a source: its own, or the one of 0xFFFF under which the source is counted (R326). -/
def Held.covers (h : Held) (source : Nat) : Bool := h.source == source || h.sources.contains source

/-- Count a record held back (R326). `rate` and `full` are the reasons, `fatal` is 1 for a fatal record. -/
def State.hold (s : State) (fn source code fatal : Nat) (rate full : Bool) : State :=
  s.modFn fn (fun x =>
    let bump (h : Held) : Held :=
      { h with
        count := satAdd 0xFFFFFFFF h.count 1, fatal := satAdd 0xFFFFFFFF h.fatal fatal, last := s.time.now,
        full := h.full || full, rate := h.rate || rate,
        sources := if h.covers source then h.sources else h.sources ++ [source] }
    let fresh (src : Nat) : Held :=
      { source := src, sources := if src = source then [] else [source], code := code, count := 1, fatal := fatal,
        first := s.time.now, last := s.time.now, full := full, rate := rate, unlocked := !s.isLocked }
    if x.held.any (fun h => h.covers source) then
      { x with held := x.held.map (fun h => if h.covers source then bump h else h) }
    else if (x.held.filter (fun h => h.source != 0xFFFF)).length < 256 then { x with held := x.held ++ [fresh source] }
    else if x.held.any (fun h => h.source == 0xFFFF) then
      { x with held := x.held.map (fun h => if h.source = 0xFFFF then bump h else h) }
    else { x with held := x.held ++ [fresh 0xFFFF] })

/-- Whether a record is counted with a held count of its source (R326). -/
def State.isHeld (s : State) (fn source : Nat) : Bool := (s.fn fn).held.any (fun h => h.covers source)

/-- Write the summaries of a list of counts, first counted record first: each takes a token of its source, and none is written
while the mailbox is full (R326). -/
def State.writeSummaries (s : State) (fn r : Nat) : List Held → State
  | [] => s
  | h :: hs =>
    if s.mailboxFull fn r then s
    else if s.bucket h.source = 0 then s.writeSummaries fn r hs
    else
      let t := s.takeToken h.source
      let t := t.modFn fn (fun x => { x with held := x.held.filter (fun k => k.source != h.source) })
      (t.putRecord fn r 2 h.code h.source (2 * b2n h.unlocked + 4 * b2n h.full + 8 * b2n h.rate) h.count h.first.toNat
        h.last.toNat).writeSummaries fn r hs

/-- Write the summaries that are due in mailbox ring r of a function. -/
def State.summaries (s : State) (fn r : Nat) : State := s.writeSummaries fn r (s.fn fn).held

/-- Flag [1] of R320: module time was unlocked. -/
def State.unlockedFlag (s : State) : Nat := if s.isLocked then 0 else 2

/-- Post a fatal record to one function: it ignores EVT_MASK and takes no token, goes to physical function 0 when the
function's mailbox cannot take it, and is held back only when no entry is free (R322, R324, R325). -/
def State.postFatal (s : State) (fn block code inst arg : Nat) : State :=
  let src := 4096 * block + inst
  let lose (t : State) (n : Nat) : State := t.modFn n (fun x => { x with lost := BitVec.ofNat 32 (satAdd 0xFFFFFFFF x.lost.toNat 1) })
  let put (t : State) (n r : Nat) : State :=
    let t := t.summaries n r
    if t.ringEntries n r ≤ t.unreleased n r then t.hold n src code 1 false true
    else t.putRecord n r 1 code src (1 + t.unlockedFlag) 1 t.nowNat arg
  match s.openMailbox fn with
  | some r => put s fn r
  | none =>
    let t := lose s fn
    if fn = 0 then t
    else match t.openMailbox 0 with
      | some r => put t 0 r
      | none => lose t 0

/-- Post a record that is not fatal to one function, behind the summaries that are due (R322 to R326). -/
def State.post (s : State) (fn block code inst arg : Nat) : State :=
  let src := 4096 * block + inst
  if bitAt (s.reg fn 0x30000) block then
    s.modFn fn (fun x => { x with masked := BitVec.ofNat 32 (satAdd 0xFFFFFFFF x.masked.toNat 1) })
  else match s.openMailbox fn with
    | none => s.modFn fn (fun x => { x with lost := BitVec.ofNat 32 (satAdd 0xFFFFFFFF x.lost.toNat 1) })
    | some r =>
      let s := s.summaries fn r
      if s.bucket src = 0 then s.hold fn src code 0 true false
      else
        let t := s.takeToken src
        if t.mailboxFull fn r then t.hold fn src code 0 false true
        else if t.isHeld fn src then t.hold fn src code 0 false false
        else t.putRecord fn r 1 code src t.unlockedFlag 1 t.nowNat arg

/-- Post to several functions in order. -/
def State.postTo (s : State) (fns : List Nat) (block code inst arg : Nat) : State :=
  fns.foldl (fun t n => t.post n block code inst arg) s

/-- Every present function. -/
def State.allFns (s : State) : List Nat := (List.range 9).filter s.present

/-- Post to every present function's mailbox. -/
def State.postAll (s : State) (block code inst arg : Nat) : State := s.postTo s.allFns block code inst arg

/-- Post a fatal record to every present function's mailbox. -/
def State.postFatalAll (s : State) (block code inst arg : Nat) : State :=
  s.allFns.foldl (fun t n => t.postFatal n block code inst arg) s

/-- Post the batch-written record of a ring with notify set, unless an earlier one lies unreleased (R327). -/
def State.notifyBatch (s : State) (fn r : Nat) : State :=
  if !bitAt (s.ringCfg fn r) 12 then s
  else match (s.ring fn r).batch with
    | some _ => s
    | none =>
      let before := (s.fn fn).nextSeq
      let t := s.post fn 1 2 (16 * fn + r) (s.ring fn r).moduleIndex.toNat
      if (t.fn fn).nextSeq = before then t
      else match t.mailbox fn with
        | some m => t.modRing fn r (fun x => { x with batch := some ((t.ring fn m).moduleIndex - 1) })
        | none => t

/-- Write a 64-byte entry of a completion, token or journal ring, then its head block and the notify record (R308). An entry never
overwrites one that is not released: it waits for space (R309). One due in a stopped ring is lost (R307; log 73). -/
def State.putRing (s : State) (fn r : Nat) (bs : List Byte) : State :=
  if !s.ringWritable fn r then s.modRing fn r (fun x => { x with reserved := x.reserved - 1 })
  else if !(s.ring fn r).backlog.isEmpty ∨ s.ringEntries fn r ≤ s.unreleased fn r then
    s.modRing fn r (fun x => { x with backlog := x.backlog ++ [bs] })
  else ((s.putEntry fn r 64 bs).writeHeads fn).notifyBatch fn r

/-- Entries that waited go into the space that is free now, as one batch (R308, R309). -/
def State.flushRing (s : State) (fn r : Nat) : State :=
  let n := if s.ringWritable fn r then s.ringEntries fn r - s.unreleased fn r else 0
  match (s.ring fn r).backlog.take n with
  | [] => s
  | es =>
    let t := s.modRing fn r (fun x => { x with backlog := x.backlog.drop n })
    ((es.foldl (fun (u : State) e => u.putEntry fn r 64 e) t).writeHeads fn).notifyBatch fn r

/-- Stop a ring with an error code (11 R318): its stopped bit and one record, to physical function 0 when the mailbox
itself stops. -/
def State.stopRing (s : State) (fn r code : Nat) : State :=
  let wasMailbox := s.mailbox fn == some r
  let t := s.modRing fn r (fun x => { x with stopped := true, stoppedBit := true, error := BitVec.ofNat 8 code })
  t.post (if wasMailbox then 0 else fn) 1 1 (16 * fn + r) code

end Sys2Proof.Machine
end

