-- ==== Sys2Proof/Machine/LinkOps.lean ====
section
/-! DEFINITION. Sending packets over Motra (15 R376 to R384). -/

namespace Sys2Proof.Machine

/-- LNK_ROUTE_d. -/
def State.route (s : State) (d : Nat) : BitVec 16 :=
  if d = s.links.moduleId.toNat then 0 else BitVec.ofNat 16 (s.reg 0 (0x71000 + 8 * d)).toNat

/-- A port that is up. -/
def Port.isUp (p : Port) : Bool := decide (p.mode = .up) || decide (p.mode = .half)

/-- Ports of the route to d that partition p holds, ascending (R378). -/
def State.routedPorts (s : State) (p d : Nat) : List Nat :=
  (List.range 16).filter (fun n => bitAt (s.route d) n && s.holds p && bitAt (s.part p).applied.ports n)

/-- Whether a destination is reachable for partition p (R378). -/
def State.reachable (s : State) (p d : Nat) : Bool := decide (d < 512) && !(s.routedPorts p d).isEmpty

/-- Routed ports that are up. -/
def State.upPorts (s : State) (p d : Nat) : List Nat := (s.routedPorts p d).filter (fun n => (s.port n).isUp)

/-- The port a packet leaves on: by its destination address in 256-byte granules modulo the number of qualifying ports
(R378). -/
def State.choosePort (s : State) (p d addr : Nat) : Option Nat :=
  let ps := s.upPorts p d
  if ps.isEmpty then none else ps[(addr / 256) % ps.length]?

/-- A frame header (R380). -/
def frameHeader (typ lc lines src dst tag addr counter : Nat) : BitVec 192 :=
  BitVec.ofNat 192 (typ + at_ 4 lc + at_ 8 lines + at_ 16 src + at_ 32 dst + at_ 48 tag + at_ 64 addr + at_ 128 counter)

/-- A session that may send: its keys exist and its counter has not reached 2^40 (R384). -/
def Session.ready (x : Session) : Bool := x.up && decide (x.sendCounter < 2 ^ 40)

/-- Send a frame of a class on a port under the session with d: its counter adds 1, and at 2^40 a new session is due (R384). -/
def State.sendFrame (s : State) (port d typ lc lines tag addr : Nat) (payload : List Line) : State :=
  let c := (s.session d).sendCounter
  let t := s.modSession d (fun x =>
    { x with sendCounter := c + 1, retryAt := if c + 1 = 2 ^ 40 then some s.time.now else x.retryAt })
  t.emit (.frame port (frameHeader typ lc lines s.links.moduleId.toNat d tag addr c) payload)

/-- The class a packet travels in: that of its copy's descriptor (10 R291), latency-critical for firmware's own (02 R45). -/
def State.packetClass (s : State) (copy : Option Nat) : Nat :=
  match copy.bind (fun id => s.copies.find? (fun c => c.id == id)) with
  | some c => b2n (bitAt c.desc 8)
  | none => 1

/-- Packets of the copies of a partition that replays are not sent (19 R460). -/
def State.mute (s : State) (p : Nat) (copy : Option Nat) : Bool := copy.isSome && s.replaying p

/-- Send a packet of partition p to module d and remember it until its answer (R378, R382); with no port up or no session
it waits (R376, R385), and in a replay too (log 23). -/
def State.sendPacket (s : State) (p d typ lines addr : Nat) (payload : List Line) (copy repair : Option Nat) : State :=
  let tag := s.links.nextTag
  let lc := s.packetClass copy
  let rec0 : Sent :=
    { tag := tag, dest := d, partition := p, copy := copy, repair := repair, typ := typ,
      header := frameHeader typ lc lines s.links.moduleId.toNat d tag.toNat addr 0, payload := payload, port := none,
      since := s.time.now, tries := 1 }
  let t := { s with links := { s.links with nextTag := tag + 1 } }
  match (if s.mute p copy then none else t.choosePort p d (addr % 2 ^ 40)) with
  | some n =>
    if (t.session d).ready then
      let t := t.sendFrame n d typ lc lines tag.toNat addr payload
      { t with links := { t.links with sent := t.links.sent ++ [{ rec0 with port := some n }] } }
    else { t with links := { t.links with sent := t.links.sent ++ [rec0] } }
  | none => { t with links := { t.links with sent := t.links.sent ++ [rec0] } }

/-- Send a COLL packet, which nothing answers (R381, R387); with no port up or no session it waits. -/
def State.sendColl (s : State) (p d : Nat) (payload : Line) (copy : Nat) : State :=
  let tag := s.links.nextTag
  let t := s.sendPacket p d 8 1 0 [payload] (some copy) none
  { t with links := { t.links with sent := t.links.sent.filter (fun x => x.tag != tag || x.port.isNone) } }

/-- Send the packets that wait for a port or a session and can now leave (R376). -/
def State.flushWaiting (s : State) (d : Nat) : State :=
  s.links.sent.foldl (fun t w =>
    if w.dest = d ∧ w.port = none ∧ (t.session d).ready ∧ !t.mute w.partition w.copy then
      match t.choosePort w.partition d (fld w.header 103 64) with
      | some n =>
        let t := t.sendFrame n d w.typ (fld w.header 4 4) (fld w.header 10 8) w.tag.toNat (fld w.header 127 64) w.payload
        { t with links := { t.links with
            sent := if w.typ = 8 then t.links.sent.filter (fun x => x.tag != w.tag)
              else t.links.sent.map (fun x => if x.tag = w.tag then { x with port := some n, since := t.time.now } else x) } }
      | none => t
    else t) s

/-- End a session: its keys are destroyed; EVENT 1 goes on each port to the peer that is up (R385). -/
def State.endSession (s : State) (d : Nat) : State :=
  let ports := (List.range 16).filter (fun n => (s.port n).isUp && (s.port n).peer == d)
  let t := if (s.session d).up then ports.foldl (fun t n => t.sendFrame n d 9 1 0 0 1 []) s else s
  t.modSession d (fun _ => Session.reset)

/-- End every session (module-wide loss, opening of the debug port). -/
def State.endSessions (s : State) : State := (List.range 512).foldl (fun t d => if (t.session d).up then t.endSession d else t) s

/-- A port goes down with a reason and posts block 0x7 code 0x02 (R391). -/
def State.portDown (s : State) (n reason : Nat) : State :=
  let t := s.modPort n (fun x => { x with mode := .down, reason := reason, lanes := 0 })
  let d := (s.port n).peer
  let t := t.latch (28 + n)
  let fns := 0 :: (match t.portOwner n with | some p => [p + 1] | none => [])
  let t := t.postTo fns 7 2 n reason
  -- when every port to the peer is down, the session's second begins (R385)
  if (List.range 16).any (fun k => (t.port k).isUp && (t.port k).peer == d) then t
  else t.modSession d (fun x => { x with portsDown := some t.time.now })

end Sys2Proof.Machine
end

