-- ==== Sys2Proof/Machine/DevMem.lean ====
section
/-! DEFINITION. Device memory as the controllers, the sequencers and the engines reach it: the region table and the
interleave (05 R141 to R146), reads and writes of lines (05 R138 to R140), corrections, poison, bus errors and repair
(14 R351 to R363). -/

namespace Sys2Proof.Machine

/-! ### Region entries (05 R142) -/

def Region.valid (r : Region) : Bool := bitAt r.w0 0
def Region.st (r : Region) : Nat := fld r.w0 2 1
def Region.compute (r : Region) : Bool := bitAt r.w0 3
def Region.sharedImm (r : Region) : Bool := bitAt r.w0 4
def Region.locked (r : Region) : Bool := bitAt r.w0 5
def Region.encrypted (r : Region) : Bool := bitAt r.w0 6
def Region.fwOwned (r : Region) : Bool := bitAt r.w0 7
def Region.il (r : Region) : Nat := fld r.w0 9 8
def Region.span (r : Region) : Nat := fld r.w0 11 10
def Region.owner (r : Region) : Nat := fld r.w0 14 12
def Region.shareMask (r : Region) : Nat := fld r.w0 23 16
def Region.addrBase (r : Region) : Nat := fld r.w0 37 24
def Region.size (r : Region) : Nat := fld r.w0 52 38
def Region.stackField (r : Region) : Nat := fld r.w1 3 0
def Region.groupMask (r : Region) : Nat := fld r.w1 11 4
def Region.rowBase (r : Region) : Nat := fld r.w1 27 12

/-- Whether partition p may read the region: it owns it or shares it. -/
def Region.readable (r : Region) (p : Nat) : Bool := r.owner == p || r.shareMask.testBit p

/-- The span's stacks, ascending. -/
def Region.stackList (r : Region) : List Nat :=
  match r.span with
  | 0 => [r.stackField]
  | 1 => (List.range 4).map (fun k => 4 * (r.stackField % 4) + k)
  | _ => List.range 16

/-- The region's channels of each stack, ascending. -/
def Region.channelList (r : Region) : List Nat :=
  (List.range 32).filter (fun c => r.groupMask.testBit (c / 4))

/-- n of R142. -/
def Region.n (r : Region) : Nat := 4 * popcount 8 r.groupMask

/-- m of R142. -/
def Region.m (r : Region) : Nat := match r.span with | 0 => 1 | 1 => 4 | _ => 16

/-- Rows of each bank (R142). -/
def Region.rows (r : Region) : Nat := r.size * 2048 / (r.n * r.m)

/-- A PLN from its fields (R133). -/
def plnOf (stack channel pc bg bank row line : Nat) : Nat :=
  at_ 30 stack + at_ 25 channel + at_ 24 pc + at_ 22 bg + at_ 20 bank + at_ 4 row + line

def plnStack (p : Nat) : Nat := bitsOf p 30 4
def plnChannel (p : Nat) : Nat := bitsOf p 25 5
def plnPc (p : Nat) : Nat := bitsOf p 24 1
def plnBg (p : Nat) : Nat := bitsOf p 22 2
def plnBank (p : Nat) : Nat := bitsOf p 20 2
def plnRow (p : Nat) : Nat := bitsOf p 4 16

/-- The line that byte offset o of a region lies in (R146). -/
def Region.place (r : Region) (o : Nat) : Nat :=
  let g := o / 1024
  let line := (o % 1024) / 64
  if r.il = 0 then
    let c := g / (32 * r.rows)
    let q := g % (32 * r.rows)
    let b := q / r.rows
    plnOf (r.stackList.getD 0 0) (r.channelList.getD c 0) (b / 16) ((b / 4) % 4) (b % 4) (r.rowBase + q % r.rows) line
  else
    let si := g % r.m
    let h := g / r.m
    let c := h % r.n
    let j := h / r.n
    let si := if r.il = 3 then si ^^^ (h % r.m) else si
    let c := if r.il = 3 then c ^^^ (j % r.n) else c
    plnOf (r.stackList.getD si 0) (r.channelList.getD c 0) (j % 2) ((j / 2) % 4) ((j / 8) % 4) (r.rowBase + j / 32) line

/-- Position of an element in a list. -/
def posOf (l : List Nat) (x : Nat) : Nat := l.findIdx (· == x)

/-- Byte offset of line `pln` within its region: the inverse of `place` (14 R359). -/
def Region.offsetOf (r : Region) (pln : Nat) : Nat :=
  let row := plnRow pln - r.rowBase
  let line := pln % 16
  let ci := posOf r.channelList (plnChannel pln)
  let si := posOf r.stackList (plnStack pln)
  if r.il = 0 then
    let b := 16 * plnPc pln + 4 * plnBg pln + plnBank pln
    1024 * (ci * (32 * r.rows) + b * r.rows + row) + 64 * line
  else
    let j := plnPc pln + 2 * plnBg pln + 8 * plnBank pln + 32 * row
    let c := if r.il = 3 then ci ^^^ (j % r.n) else ci
    let h := j * r.n + c
    let si := if r.il = 3 then si ^^^ (h % r.m) else si
    1024 * (h * r.m + si) + 64 * line

/-- Whether a region's placement holds a line. -/
def Region.hasLine (r : Region) (pln : Nat) : Bool :=
  r.valid && r.stackList.contains (plnStack pln) && r.groupMask.testBit (plnChannel pln / 4) &&
    decide (r.rowBase ≤ plnRow pln) && decide (plnRow pln < r.rowBase + r.rows)

/-- The entry whose placement holds a line. -/
def State.regionOf (s : State) (pln : Nat) : Option Nat :=
  (s.memory.regions.find? (fun e => e.2.hasLine pln)).map (·.1)

/-- An encrypted region is reachable only while its owner's keys exist (16 R408). -/
def State.keyed (s : State) (r : Region) : Bool := !r.encrypted || bitAt s.sec.memKeys r.owner

/-- The ready region and the line that a device address of partition p names (R141, R144); none outside its regions. -/
def State.translate (s : State) (p addr : Nat) : Option (Nat × Nat) :=
  let unit := addr / 67108864
  match s.memory.regions.find? (fun e =>
      e.2.valid && e.2.st == 2 && !e.2.fwOwned && e.2.readable p && s.keyed e.2 &&
        decide (e.2.addrBase ≤ unit) && decide (unit < e.2.addrBase + e.2.size)) with
  | some (i, r) => some (i, r.place (addr - 67108864 * r.addrBase))
  | none => none

/-- The 72 stored bytes of a line. -/
def State.stored (s : State) (pln : Nat) : List Byte := Tab.getList blankByte s.mem (72 * pln) 72

/-- Replace the 72 stored bytes of a line. -/
def State.setStored (s : State) (pln : Nat) (bs : List Byte) : State :=
  { s with mem := Tab.setList blankByte s.mem (72 * pln) bs }

/-- Channel number 32 × stack + channel of a line. -/
def channelOf (pln : Nat) : Nat := 32 * plnStack pln + plnChannel pln

/-- MOD_CE of a channel. -/
def State.ce (s : State) (c : Nat) : Ce := Tab.get (fun _ => Ce.reset) s.memory.ce c

/-- Change MOD_CE of a channel. -/
def State.modCe (s : State) (c : Nat) (f : Ce → Ce) : State :=
  { s with memory := { s.memory with ce := Tab.modify (fun _ => Ce.reset) s.memory.ce c f } }

/-- Append a wear log record (20 R464): kind, unit, detail and line. -/
def State.logWear (s : State) (kind unit detail pln : Nat) : State :=
  let t : Nat := if s.time.mode = .unknown then 0 else s.nowNat
  let r : WearRec := BitVec.ofNat 256 (kind + at_ 16 unit + at_ 32 detail + at_ 64 t + at_ 128 s.sec.bootId.toNat + at_ 192 pln)
  let w := s.sec.flash.wear ++ [r]
  { s with sec := { s.sec with flash := { s.sec.flash with
      wear := w.drop (w.length - 65536), wearTotal := s.sec.flash.wearTotal + 1 } } }

/-- A repair map change that firmware has still to write to flash (20 R463). -/
def State.mapChange (s : State) (kind unit : Nat) : State :=
  { s with spares := { s.spares with changes := s.spares.changes ++ [(kind, unit)] } }

/-- Note an event that a 24 h count of 20 R470 and R471 covers; older ones are dropped. -/
def State.noteRecent (s : State) (key : Nat) : State :=
  let young := s.spares.recent.filter (fun e => decide (s.nowNat < e.2.toNat + 86400000000000))
  { s with spares := { s.spares with recent := young ++ [(key, s.time.now)] } }

/-- Events of a key within the last 24 h. -/
def State.recentCount (s : State) (key : Nat) : Nat :=
  (s.spares.recent.filter (fun e => e.1 == key && decide (s.nowNat < e.2.toNat + 86400000000000))).length

/-- A die trigger (20 R471 to R473, R475): the copy to the spare die starts, or, with the spare in use or failed, the trigger is
recorded once. -/
def State.dieTrigger (s : State) (k die : Nat) : State :=
  if (s.stack k).spare.state = 0 then
    ((s.modStack k (fun x => { x with spare := { x.spare with state := 1, replaced := die, progress := 0, holding := false } })).mapChange 6
      (16 * k + die)).logWear 6 k die 0
  else if s.spares.changes.contains (8, 16 * k + die) || s.sec.flash.map.contains (8, 16 * k + die) then s
  else (s.mapChange 8 (16 * k + die)).logWear 8 k die 0

/-- Count a correction of a line (14 R353, R354): the bucket stops at 1,023; its step from 64 to 65 posts one record. The row's
corrections are counted for 20 R470. -/
def State.corrected (s : State) (pln : Nat) : State :=
  let c := channelOf pln
  let s := s.noteRecent (2 ^ 30 + pln / 16)
  let old := s.ce c
  let t := s.modCe c (fun x => { x with bucket := satAdd 1023 x.bucket 1, corrected := satAdd 0xFFFFFFFF x.corrected 1 })
  if old.bucket = 64 ∧ !old.above then
    let t := t.modCe c (fun x => { x with above := true })
    let t := t.noteRecent c
    let t := (t.post 0 5 1 c pln).logWear 13 c 0 pln
    -- five such records of a channel within 24 h (20 R471)
    if t.recentCount c = 5 then t.dieTrigger (c / 32) (c % 32 / 2) else t
  else t

/-- A firmware-owned region serves the partition that owns it; one of a slot that holds nothing serves the module (14 R356). -/
def State.moduleOwned (s : State) (r : Region) : Bool := r.fwOwned && !s.holds r.owner

/-- Severity of an error by its region (14 R362). -/
def State.severityOf (s : State) (r : Option Region) (sealBad : Bool) : Nat :=
  if sealBad then 1
  else match r with
    | some r => if s.moduleOwned r then 5 else if r.fwOwned then 3 else if r.locked && r.sharedImm then 4 else 2
    | none => 2

/-- Take or count an error at its source (14 R362, R363). -/
def State.recordError (s : State) (source severity code pln partition : Nat) : State :=
  let fresh (further : Nat) : ErrRec :=
    { severity := severity, code := code, further := further, pln := pln, partition := partition, time := s.time.now }
  let upd (o : Option ErrRec) : Option ErrRec :=
    match o with
    | none => some (fresh 0)
    | some r =>
      if r.severity < severity then some (fresh (satAdd 0xFFFFFFFF r.further 1))
      else some { r with further := satAdd 0xFFFFFFFF r.further 1 }
  { s with memory := { s.memory with errs := Tab.modify (fun _ => none) s.memory.errs source upd } }

/-- RGN_REPAIR of a region entry (14 R358). -/
def State.repairReg (s : State) (n : Nat) : W64 := s.reg 0 (0x42000 + 8 * n)

/-- Whether the owner partition is confidential: its host image is then no source (16 R406). -/
def State.confidential (s : State) (p : Nat) : Bool := s.holds p && (s.part p).applied.confidential

/-- Ask the host for a line under repair, or find that no source is left (14 R359 step 3, R361). `c` is the value of RGN_REPAIR
when the repair started (R358). -/
def State.repairHost (s : State) (pln n : Nat) (c : W64) : State :=
  let r := s.region n
  let set (t : State) (st : RepairStage) : State :=
    { t with memory := { t.memory with
        repairs := t.memory.repairs.map (fun x => if x.pln = pln then { x with stage := st } else x) } }
  if bitAt c 18 && !s.confidential r.owner then
    (set s .host).hostRead (r.owner + 1) (4096 * fld c 63 20 + r.offsetOf pln) 64
  else set s .lost

/-- Queue a poisoned line of a locked shared-immutable region, found by partition p, for repair (14 R359 steps 1 and 2, R360). -/
def State.queueRepair (s : State) (pln n p : Nat) : State :=
  let r := s.region n
  if s.memory.repairs.any (fun x => x.pln == pln) then s
  else if 256 ≤ s.memory.repairs.length then
    { s with memory := { s.memory with
        resieve := if s.memory.resieve.contains n then s.memory.resieve else s.memory.resieve ++ [n] } }
  else
    let c := s.repairReg n
    let e : Repair := { pln := pln, region := n, stage := .peer s.time.now, sources := c, finder := p, known := false }
    let t := { s with memory := { s.memory with repairs := s.memory.repairs ++ [e] } }
    if bitAt c 0 && t.reachable r.owner (fld c 9 1) then
      t.sendPacket r.owner (fld c 9 1) 7 0 (fld c 17 10 + at_ 8 (r.offsetOf pln / 64)) [] none (some pln)
    else t.repairHost pln n c

/-- Functions that hear of a poisoned line: physical function 0 and every partition that reads the region (12 R322). -/
def State.readersOf (s : State) (r : Option Region) : List Nat :=
  0 :: (match r with
    | some r => (List.range 8).filterMap (fun p => if r.readable p && s.holds p && !r.fwOwned then some (p + 1) else none)
    | none => [])

/-- A line of a firmware-owned region is bad (14 R356): a job fault of the partition that the region serves; in a region of the module
it is repaired from flash or is a module-wide loss, and which of the two its line is is a free choice (log 69). -/
def State.badFirmwareLine (s : State) (r : Region) (pln : Nat) : State :=
  if !s.moduleOwned r then s.modPart r.owner (fun x => { x with faultDue := true })
  else if bitAt s.freeVal 0 then s.useFree.setStored pln (lineBytes (Config.flashLine pln) ++ rsCheck (lineBytes (Config.flashLine pln)))
  else { s.useFree with memory := { s.memory with fwLost := true } }

/-- A read found a line uncorrectable, poisoned or failing its seal (14 R354 to R356, R359, R362): the channel's count,
the held record of the source, the poison code over a protected line, the repair of a locked shared-immutable one, and what
follows for a line of a firmware-owned region. A line of no ready region has no such consequence (R367). -/
def State.badLine (s : State) (source pln partition : Nat) (sealBad merge : Bool) : State :=
  let n := (s.regionOf pln).filter (fun i => (s.region i).st == 2)
  let r := n.map s.region
  let isPoison := s.stored pln == poisonLine
  let t := s.modCe (channelOf pln) (fun x => { x with uncorrectable := satAdd 0xFFFF x.uncorrectable 1 })
  let t := t.recordError source (s.severityOf r sealBad) (if merge then 4 else if sealBad then 1 else if isPoison then 3 else 2) pln partition
  let t := t.latch (if source < 16 then 16 + source / 4 else source - 16)
  if sealBad then t
  else
    let t := if isPoison then t else (t.setStored pln poisonLine).postTo (s.readersOf r) 5 2 (channelOf pln) pln
    match n with
    | some i =>
      if (s.region i).fwOwned then t.badFirmwareLine (s.region i) pln
      else if (s.region i).locked && (s.region i).sharedImm then t.queueRepair pln i partition else t
    | none => t

/-- The memory encryption pair of a partition (05 R140; 16 R393; log 7). -/
def State.memoryKey (s : State) (p : Nat) : BitVec 512 := Config.memoryKey (Tab.get (fun _ => 0) s.sec.memPair p)

/-- Read a line (05 R138): its 64 bytes, or none with a bus error. `source` is the error source (0 to 15 the controller,
16 to 31 the sequencer), `partition` the requester (0xFF firmware), `merge` that the read serves a partial write. -/
def State.readLineFor (s : State) (source pln partition : Nat) (merge : Bool) : State × Option Line :=
  let w := s.stored pln
  let r := (s.regionOf pln).map s.region
  let comp := match r with | some r => r.compute | none => false
  let plain (bs : List Byte) : Line :=
    match r with
    | some r => if r.encrypted then xtsDecrypt (s.memoryKey r.owner) pln (lineOf bs) else lineOf bs
    | none => lineOf bs
  if w = blankLine then (s, some 0)
  else if comp then
    if sealOk w pln then (s, some (lineOf (w.take 64))) else (s.badLine source pln partition true merge, none)
  else match rsDecode w with
    | .clean bs => (s, some (plain bs))
    | .corrected w' => ((s.setStored pln w').corrected pln, some (plain (w'.take 64)))
    | .bad => (s.badLine source pln partition false merge, none)

/-- Read a line for a requester (05 R138). -/
def State.readLine (s : State) (source pln partition : Nat) : State × Option Line := s.readLineFor source pln partition false

/-- Write a whole line (05 R139, R140). -/
def State.writeLine (s : State) (pln : Nat) (l : Line) : State :=
  match (s.regionOf pln).map s.region with
  | some r =>
    if r.compute then s.setStored pln (lineBytes l ++ sealSide (lineBytes l) pln)
    else
      let bs := lineBytes (if r.encrypted then xtsEncrypt (s.memoryKey r.owner) pln l else l)
      s.setStored pln (bs ++ rsCheck bs)
  | none => s.setStored pln (lineBytes l ++ rsCheck (lineBytes l))

/-- Write bits [pos + len - 1 : pos] of a line: whole lines are written, less than a line is merged after a checked read
(05 R139). The flag says that the write was refused with a bus error. -/
def State.mergeLine (s : State) (source pln partition pos len v : Nat) : State × Bool :=
  if pos = 0 ∧ len = 512 then (s.writeLine pln (BitVec.ofNat 512 v), false)
  else
    match s.readLineFor source pln partition true with
    | (t, some l) => (t.writeLine pln (setFld l (pos + len - 1) pos v), false)
    | (t, none) => (t, true)

/-- Controller of a line, as an error source. -/
def ctlOf (pln : Nat) : Nat := plnStack pln

/-- Sequencer of a line, as an error source. -/
def sequencerOf (pln : Nat) : Nat := 16 + plnStack pln

/-- Blank a line (05 R145). -/
def State.blankOne (s : State) (pln : Nat) : State := s.setStored pln blankLine

/-- Blank every line that a predicate of PLNs names: those lines read as unlisted again (05 R137, R144). -/
def State.blankWhere (s : State) (p : Nat → Bool) : State :=
  { s with mem := Tab.keep (fun k => !p (k / 72)) s.mem }

/-- Blank a placement. -/
def State.blankRegion (s : State) (r : Region) : State := s.blankWhere (fun pln => { r with w0 := r.w0 ||| 1 }.hasLine pln)

end Sys2Proof.Machine
end

