-- ==== Sys2Proof/Machine/Num.lean ====
section
/-! DEFINITION. Number formats, exact arithmetic and rounding (04 R101 to R108, R120 to R123): every narrowing is one
rounding of an exact value, to nearest with ties away from zero (00 R8). -/

namespace Sys2Proof.Ex

/-- Positive zero. -/
def zero : Ex := .fin false 0 0

/-- One. -/
def one : Ex := .fin false 1 0

/-- Whether the number is a NaN. -/
def isNan : Ex → Bool
  | .nan => true | _ => false

/-- Whether the number is a zero of either sign. -/
def isZero : Ex → Bool
  | .fin _ 0 _ => true | _ => false

/-- The sign. -/
def sign : Ex → Bool
  | .nan => false | .inf s => s | .fin s _ _ => s

/-- The magnitude. -/
def abs : Ex → Ex
  | .nan => .nan | .inf _ => .inf false | .fin _ m e => .fin false m e

/-- The negation. -/
def neg : Ex → Ex
  | .nan => .nan | .inf s => .inf (!s) | .fin s m e => .fin (!s) m e

/-- An integer. -/
def ofInt (x : Int) : Ex := .fin (decide (x < 0)) x.natAbs 0

/-- Multiplication by a power of two. -/
def scale2 (k : Int) : Ex → Ex
  | .fin s m e => .fin s m (e + k) | x => x

end Sys2Proof.Ex

namespace Sys2Proof.Machine

/-- The format of a code of 03 R62; codes 10 to 15 are reserved. -/
def fmtOf : Nat → Option Fmt
  | 0 => some .bf16 | 1 => some .fp16 | 2 => some .e4m3 | 3 => some .e5m2 | 4 => some .e3m2 | 5 => some .e2m3
  | 6 => some .e2m1 | 7 => some .int8 | 8 => some .int4 | 9 => some .fp32 | _ => none

/-- Bits of one element. -/
def fmtBits : Fmt → Nat
  | .fp32 => 32 | .bf16 => 16 | .fp16 => 16 | .e4m3 => 8 | .e5m2 => 8 | .int8 => 8 | .ue4m3 => 8
  | .e3m2 => 6 | .e2m3 => 6 | .e2m1 => 4 | .int4 => 4

/-- Elements of one 64-byte unit (04 R102, 10 R282): FP6 holds 64. -/
def fmtEpu : Fmt → Nat
  | .fp32 => 16 | .bf16 => 32 | .fp16 => 32 | .e4m3 => 64 | .e5m2 => 64 | .int8 => 64 | .ue4m3 => 64
  | .e3m2 => 64 | .e2m3 => 64 | .e2m1 => 128 | .int4 => 128

/-- Whether a format is an integer format. -/
def fmtInt : Fmt → Bool
  | .int8 => true | .int4 => true | _ => false

/-- Exponent bits of a floating-point format (04 R101). -/
def expBits : Fmt → Nat
  | .fp32 => 8 | .bf16 => 8 | .fp16 => 5 | .e4m3 => 4 | .e5m2 => 5 | .e3m2 => 3 | .e2m3 => 2 | .e2m1 => 2
  | .ue4m3 => 4 | .int8 => 0 | .int4 => 0

/-- Mantissa bits of a floating-point format (04 R101). -/
def manBits : Fmt → Nat
  | .fp32 => 23 | .bf16 => 7 | .fp16 => 10 | .e4m3 => 3 | .e5m2 => 2 | .e3m2 => 2 | .e2m3 => 3 | .e2m1 => 1
  | .ue4m3 => 3 | .int8 => 0 | .int4 => 0

/-- Exponent bias (04 R101). -/
def bias : Fmt → Nat
  | .fp32 => 127 | .bf16 => 127 | .fp16 => 15 | .e4m3 => 7 | .e5m2 => 15 | .e3m2 => 3 | .e2m3 => 1 | .e2m1 => 1
  | .ue4m3 => 7 | .int8 => 0 | .int4 => 0

/-- The magnitude code of the largest finite value (04 R101). -/
def maxCode : Fmt → Nat
  | .fp32 => 0x7F7FFFFF | .bf16 => 0x7F7F | .fp16 => 0x7BFF | .e4m3 => 0x7E | .e5m2 => 0x7B | .e3m2 => 0x1F
  | .e2m3 => 0x1F | .e2m1 => 0x7 | .ue4m3 => 0x7E | .int8 => 127 | .int4 => 7

/-- Whether the format has an infinity (04 R101). -/
def hasInf : Fmt → Bool
  | .fp32 => true | .bf16 => true | .fp16 => true | .e5m2 => true | _ => false

/-- The canonical NaN code of a format (04 R104); a NaN narrowed to a format without one is +0. -/
def nanCode : Fmt → Nat
  | .fp32 => 0x7FC00000 | .bf16 => 0x7FC0 | .fp16 => 0x7E00 | .e4m3 => 0x7F | .e5m2 => 0x7E | .ue4m3 => 0x7F
  | _ => 0

/-- The infinity code of a format that has one. -/
def infCode (f : Fmt) : Nat := (2 ^ expBits f - 1) * 2 ^ manBits f

/-- The sign bit of a format. UE4M3 has none. -/
def signBit (f : Fmt) (neg : Bool) : Nat :=
  match f with
  | .ue4m3 => 0
  | f => if neg then 2 ^ (fmtBits f - 1) else 0


/-- The value of a floating-point code (04 R101, R103). E4M3's S.1111.111 is its only NaN; UE4M3's 0x7F is a NaN and its
bit 7 is ignored (04 R112). -/
def decodeFp (f : Fmt) (code : Nat) : Ex :=
  let mb := manBits f
  let eb := expBits f
  let man := code % 2 ^ mb
  let ex := (code / 2 ^ mb) % 2 ^ eb
  let s := match f with
    | .ue4m3 => false
    | _ => code.testBit (fmtBits f - 1)
  let special := ex = 2 ^ eb - 1
  if hasInf f && special then (if man = 0 then .inf s else .nan)
  else if (f = .e4m3 ∨ f = .ue4m3) ∧ special ∧ man = 7 then .nan
  else if ex = 0 then .fin s man (1 - (bias f : Int) - mb)
  else .fin s (man + 2 ^ mb) ((ex : Int) - bias f - mb)

/-- The value of an element code. -/
def decodeEl (f : Fmt) (code : Nat) : Ex :=
  match f with
  | .int8 => Ex.ofInt (signed 8 (code % 256))
  | .int4 => Ex.ofInt (signed 4 (code % 16))
  | f => decodeFp f code

/-- A 32-bit pattern as an exact number. -/
def ex32 (w : W32) : Ex := decodeFp .fp32 w.toNat

/-- Exact product. A zero times an infinity has no stated result (log 3). -/
def mulEx (a b : Ex) : Ex :=
  match a, b with
  | .nan, _ => .nan
  | _, .nan => .nan
  | .inf s, .inf t => .inf (xor s t)
  | .inf s, .fin t m e => if m = 0 then ex32 (Config.openProduct (.inf s) (.fin t m e)) else .inf (xor s t)
  | .fin s m e, .inf t => if m = 0 then ex32 (Config.openProduct (.fin s m e) (.inf t)) else .inf (xor s t)
  | .fin s m e, .fin t n g => .fin (xor s t) (m * n) (e + g)

/-- The least exponent among finite terms. -/
def minExp : List Ex → Int → Int
  | [], acc => acc
  | .fin _ _ e :: t, acc => minExp t (min acc e)
  | _ :: t, acc => minExp t acc

/-- The sum of the finite terms in units of 2^e0. -/
def sumAt (e0 : Int) : List Ex → Int
  | [] => 0
  | .fin s m e :: t =>
    let v : Int := (m : Int) * 2 ^ (e - e0).toNat
    (if s then -v else v) + sumAt e0 t
  | _ :: t => sumAt e0 t

/-- The exact sum of several terms, with the sign of a zero sum by 04 R105: +0 unless every term is -0. Infinities of
both signs have no stated sum (log 3). -/
def sumEx (ts : List Ex) : Ex :=
  if ts.any Ex.isNan then .nan
  else if ts.any (fun t => t == .inf false) && ts.any (fun t => t == .inf true) then ex32 (Config.openSum ts)
  else if ts.any (fun t => t == .inf false) then .inf false
  else if ts.any (fun t => t == .inf true) then .inf true
  else
    let e0 := minExp ts 0
    let v := sumAt e0 ts
    if v = 0 then .fin (!ts.isEmpty && ts.all (fun t => t.isZero && t.sign)) 0 0
    else .fin (decide (v < 0)) v.natAbs e0

/-- The exact sum of two numbers. -/
def addEx (a b : Ex) : Ex := sumEx [a, b]

/-- A rational n/d rounded to an integer, ties away from zero. -/
def roundDiv (n d : Nat) : Nat := (2 * n + d) / (2 * d)

/-- The floor of the base-2 logarithm of n/d, for n and d positive. -/
def log2Div (n d : Nat) : Int :=
  let g : Int := (Nat.log2 n : Int) - Nat.log2 d
  -- n/d lies between 2^(g-1) and 2^(g+1)
  let below := if 0 ≤ g then n < d * 2 ^ g.toNat else n * 2 ^ (-g).toNat < d
  if below then g - 1 else g

/-- The magnitude code nearest to the positive rational n/d in a floating-point format, ties away from zero, before any
range limit: a code above the largest finite one lies beyond the range (04 R105). -/
def roundCode (f : Fmt) (n d : Nat) : Nat :=
  if n = 0 then 0
  else
    let emin : Int := 1 - bias f
    let e := max emin (log2Div n d)
    let q := e - manBits f
    let k := if 0 ≤ q then roundDiv n (d * 2 ^ q.toNat) else roundDiv (n * 2 ^ (-q).toNat) d
    (e + bias f - 1).toNat * 2 ^ manBits f + k

/-- A signed integer limit: rounds to nearest, ties away, then saturates (04 R105). The result is the two's complement
code. -/
def roundInt (f : Fmt) (neg : Bool) (n d : Nat) : Nat :=
  let k := roundDiv n d
  let lim := maxCode f
  if neg then (if lim + 1 ≤ k then lim + 1 else (2 ^ fmtBits f - k) % 2 ^ fmtBits f)
  else min k lim

/-- Narrow a signed rational (04 R105, second row of R106): beyond the range, infinity in a format that has one, else the
largest finite value with its sign. -/
def narrowQ (f : Fmt) (neg : Bool) (n d : Nat) : Nat :=
  if fmtInt f then roundInt f neg n d
  else if f = .ue4m3 ∧ neg then 0
  else
    let c := roundCode f n d
    let c := if c ≤ maxCode f then c else if hasInf f then infCode f else maxCode f
    signBit f neg + c

/-- Numerator and denominator of a finite magnitude. -/
def asQ (m : Nat) (e : Int) : Nat × Nat :=
  if 0 ≤ e then (m * 2 ^ e.toNat, 1) else (m, 2 ^ (-e).toNat)

/-- Narrow an exact number to a format (04 R103 to R106, every narrowing but the mmd drain). A negative number has no
place in UE4M3 and becomes +0 there (log 13). -/
def narrow (f : Fmt) (x : Ex) : Nat :=
  match x with
  | .nan => nanCode f
  | .inf s =>
    if fmtInt f then roundInt f s (2 ^ 64) 1
    else if f = .ue4m3 ∧ s then 0
    else signBit f s + (if hasInf f then infCode f else maxCode f)
  | .fin s m e => narrowQ f s (asQ m e).1 (asQ m e).2

/-- Narrow as an mmd drains (03 R85, 04 R106): the product judged exactly against the greatest finite value; the flag says
that the element counts as saturated. A NaN drained to INT8 becomes 0 and is counted. -/
def drainEl (f : Fmt) (x : Ex) : Nat × Bool :=
  match x with
  | .nan => (nanCode f, fmtInt f)
  | .inf s => (if fmtInt f then (if s then maxCode f + 1 else maxCode f) else signBit f s + maxCode f, true)
  | .fin s m e =>
    let q := asQ m e
    if fmtInt f then
      let lim := if s then maxCode f + 1 else maxCode f
      if lim * q.2 < q.1 then (lim, true) else (roundInt f s q.1 q.2, false)
    else
      let top := decodeFp f (maxCode f)
      let big : Bool := match top with
        | .fin _ tm te => decide ((asQ tm te).1 * q.2 < q.1 * (asQ tm te).2)
        | _ => false
      if big then (signBit f s + maxCode f, true) else (narrowQ f s q.1 q.2, false)

/-- Round an exact number once to FP32 (04 R105). -/
def round32 (x : Ex) : W32 := BitVec.ofNat 32 (narrow .fp32 x)

/-- The FP32 value of an exact number, rounded once. -/
def r32 (x : Ex) : Ex := ex32 (round32 x)

/-- FP32 addition with one rounding. -/
def fadd (a b : W32) : W32 := round32 (addEx (ex32 a) (ex32 b))

/-- FP32 subtraction with one rounding. -/
def fsub (a b : W32) : W32 := round32 (addEx (ex32 a) (ex32 b).neg)

/-- FP32 multiplication with one rounding. -/
def fmul (a b : W32) : W32 := round32 (mulEx (ex32 a) (ex32 b))

/-- Sign of the difference of two finite numbers: whether a < b, for numbers that are no NaN. -/
def ltEx (a b : Ex) : Bool :=
  match a, b with
  | .nan, _ => false
  | _, .nan => false
  | .inf s, .inf t => s && !t
  | .inf s, _ => s
  | _, .inf t => !t
  | .fin s m e, .fin t n g =>
    let e0 := min e g
    let v : Int := (if s then -1 else 1) * (m : Int) * 2 ^ (e - e0).toNat
    let w : Int := (if t then -1 else 1) * (n : Int) * 2 ^ (g - e0).toNat
    decide (v < w)

/-- The larger of two FP32 values where a NaN makes the result NaN (04 R104). Of two zeros of unlike sign the spec names
neither (log 3). -/
def fmaxN (a b : W32) : W32 :=
  if (ex32 a).isNan || (ex32 b).isNan then 0x7FC00000#32
  else if (ex32 a).isZero && (ex32 b).isZero && a != b then (if Config.pickSecondZero a b then b else a)
  else if ltEx (ex32 a) (ex32 b) then b else a

/-- The larger of two exact numbers by `fmaxN`'s rule. -/
def maxEx (a b : Ex) : Ex :=
  if a.isNan || b.isNan then .nan
  else if a.isZero && b.isZero && (a.sign != b.sign) then
    (if Config.pickSecondZero (round32 a) (round32 b) then b else a)
  else if ltEx a b then b else a

/-- Scalar fmax and fmin of 03 R77: a NaN operand gives the other operand; of two NaNs the result is canonical. -/
def fmax2 (a b : W32) : W32 :=
  if (ex32 a).isNan && (ex32 b).isNan then 0x7FC00000#32
  else if (ex32 a).isNan then b else if (ex32 b).isNan then a else fmaxN a b

/-- Scalar fmin of 03 R77. -/
def fmin2 (a b : W32) : W32 :=
  if (ex32 a).isNan && (ex32 b).isNan then 0x7FC00000#32
  else if (ex32 a).isNan then b else if (ex32 b).isNan then a
  else if (ex32 a).isZero && (ex32 b).isZero && a != b then (if Config.pickSecondZero a b then b else a)
  else if ltEx (ex32 b) (ex32 a) then b else a

/-- The exact quotient of two numbers narrowed once to a format. Quotients by zero and of two infinities have no stated
value (log 3). -/
def divNarrow (f : Fmt) (a b : Ex) : Nat :=
  match a, b with
  | .nan, _ => nanCode f
  | _, .nan => nanCode f
  | .inf s, .inf t => narrow f (ex32 (Config.openQuotient (.inf s) (.inf t)))
  | .inf s, .fin t m e => if m = 0 then narrow f (ex32 (Config.openQuotient (.inf s) (.fin t m e))) else narrow f (.inf (xor s t))
  | .fin s _ _, .inf t => narrow f (.fin (xor s t) 0 0)
  | .fin s m e, .fin t n g =>
    if n = 0 then narrow f (ex32 (Config.openQuotient (.fin s m e) (.fin t n g)))
    else
      let qa := asQ m e
      let qb := asQ n g
      if m = 0 then narrow f (.fin (xor s t) 0 0) else narrowQ f (xor s t) (qa.1 * qb.2) (qa.2 * qb.1)

/-- FP32 quotient with one rounding. -/
def fdiv (a b : W32) : W32 := BitVec.ofNat 32 (divNarrow .fp32 (ex32 a) (ex32 b))

/-- FP32 of a signed integer (03 R77 fcvt.fi). -/
def fcvtFi (a : W32) : W32 := round32 (Ex.ofInt a.toInt)

/-- Signed integer of an FP32 value (03 R77 fcvt.if): rounded, saturated, NaN gives 0. -/
def fcvtIf (a : W32) : W32 :=
  match ex32 a with
  | .nan => 0
  | .inf s => if s then 0x80000000#32 else 0x7FFFFFFF#32
  | .fin s m e =>
    let k := roundDiv (asQ m e).1 (asQ m e).2
    if s then (if 2 ^ 31 ≤ k then 0x80000000#32 else BitVec.ofInt 32 (-(k : Int)))
    else (if 2 ^ 31 ≤ k then 0x7FFFFFFF#32 else BitVec.ofNat 32 k)

/-- Whether an FP32 comparison a < b holds; 0 if either is NaN (03 R77 flt). -/
def flt (a b : W32) : Bool := ltEx (ex32 a) (ex32 b)

/-! ### Wafers (04 R120 to R123) -/

/-- Code width w of a wafer rate. -/
def waferW : Nat → Nat
  | 1 => 7 | 2 => 5 | _ => 3

/-- Units of one wafer at a rate (04 R120). -/
def waferUnits : Nat → Nat
  | 1 => 4 | 2 => 3 | _ => 2

/-- The 256 elements that a wafer's bytes decode to (04 R122); `bits` is the wafer as a number. -/
def waferDecode (rate bits : Nat) : List Ex :=
  let w := waferW rate
  (List.range 256).map fun i =>
    let e := bitsOf bits (8 * (i / 8)) 8
    let code := bitsOf bits (256 + w * i) w
    let m := code % 2 ^ (w - 1)
    if e = 0 then Ex.zero
    else if e = 0xFF then .nan
    else .fin (code.testBit (w - 1)) m ((e : Int) - 127 - (w - 2 : Nat))

/-- The exponent byte and the codes of one group of 8 BF16 codes (04 R123). -/
def waferGroup (rate : Nat) (els : List Nat) : Nat × List Nat :=
  let w := waferW rate
  if els.any (fun c => (c / 128) % 256 = 255) then (0xFF, els.map (fun _ => 0))
  else if els.all (fun c => c % 0x8000 = 0) then (0, els.map (fun _ => 0))
  else
    let e := max 1 ((els.map (fun c => (c / 128) % 256)).foldl max 0)
    (e, els.map fun c =>
      match decodeFp .bf16 c with
      | .fin s m x =>
        let q := asQ m (x - ((e : Int) - 127 - (w - 2 : Nat)))
        let k := min (roundDiv q.1 q.2) (2 ^ (w - 1) - 1)
        k + (if s && k != 0 then 2 ^ (w - 1) else 0)
      | _ => 0)

/-- The wafer of 256 BF16 codes, as a number (04 R121, R123). -/
def waferEncode (rate : Nat) (els : List Nat) : Nat :=
  let w := waferW rate
  let gs := (chunks 8 32 els).map (waferGroup rate)
  let exps := (gs.map (·.1)).zipIdx.foldl (fun acc p => acc + p.1 * 2 ^ (8 * p.2)) 0
  let codes := (gs.flatMap (·.2)).zipIdx.foldl (fun acc p => acc + p.1 * 2 ^ (256 + w * p.2)) 0
  exps + codes

end Sys2Proof.Machine
end

