-- ==== Sys2Proof/Machine/Operands.lean ====
section
/-! DEFINITION. Operand forms: the bundle's slots (03 R56, R57, R76, R79, R82, R87, R91), shape registers (03 R61 to R63,
04 R109 to R111), elements of tiles (04 R102, R110 to R113, R122), and the checks made at issue (03 R98). -/

namespace Sys2Proof.Machine

/-! ### Slots of a bundle -/

def vecBits (b : Line) : BitVec 96 := BitVec.ofNat 96 (fld b 191 96)
def matBits (b : Line) : BitVec 96 := BitVec.ofNat 96 (fld b 287 192)
def loadBits (b : Line) : BitVec 96 := BitVec.ofNat 96 (fld b 383 288)
def storeBits (b : Line) : BitVec 96 := BitVec.ofNat 96 (fld b 479 384)
def scalarBits (b : Line) : W64 := BitVec.ofNat 64 (fld b 95 32)
def syncBits (b : Line) : W32 := BitVec.ofNat 32 (fld b 511 480)
def headBits (b : Line) : W32 := BitVec.ofNat 32 (fld b 31 0)

/-- Opcode of a long-running slot. -/
def slotOp (e : BitVec 96) : Nat := fld e 5 0
/-- Wait field of a long-running slot. -/
def slotWait (e : BitVec 96) : BitVec 16 := BitVec.ofNat 16 (fld e 21 6)
/-- Signal field of a long-running slot. -/
def slotSig (e : BitVec 96) : BitVec 16 := BitVec.ofNat 16 (fld e 37 22)
/-- Whether a long-running slot holds an operation or a marker (R71). -/
def slotUsed (e : BitVec 96) : Bool := slotOp e != 0 || slotWait e != 0 || slotSig e != 0

/-- Header fields (R57). -/
def hVersion (b : Line) : Nat := fld (headBits b) 3 0
def hYield (b : Line) : Bool := bitAt (headBits b) 4
def hPred (b : Line) : Bool := bitAt (headBits b) 5
def hNeg (b : Line) : Bool := bitAt (headBits b) 6
def hReg (b : Line) : Nat := fld (headBits b) 11 7

/-- Scalar slot fields (R76). -/
def sOp (e : W64) : Nat := fld e 7 0
def sD (e : W64) : Nat := fld e 12 8
def sA (e : W64) : Nat := fld e 17 13
def sB (e : W64) : Nat := fld e 22 18
def sUse (e : W64) : Bool := bitAt e 23
def sImm (e : W64) : W32 := BitVec.ofNat 32 (fld e 55 24)
def sScope (e : W64) : Nat := fld e 57 56

/-- Sync slot fields (R91). -/
def yOp (e : W32) : Nat := fld e 5 0
def yField (e : W32) : BitVec 16 := BitVec.ofNat 16 (fld e 21 6)
def yReg (e : W32) : Nat := fld e 26 22
def yMode (e : W32) : Nat := fld e 28 27

/-! ### Encoding checks -/

/-- A wait field that R64 allows. -/
def waitOk (w : BitVec 16) : Bool :=
  let i := fld w 7 3
  let n := fld w 15 8
  match fld w 2 0 with
  | 0 => i == 0 && n == 0
  | 1 => n == 0
  | 2 => n == 0
  | 3 => n == 0
  | 4 => decide (i < 16) && n != 0
  | 5 => decide (i < 16) && n != 0
  | 6 => decide (i < 16) && n == 0
  | _ => false

/-- A signal field that R65 allows. -/
def sigOk (w : BitVec 16) : Bool :=
  let i := fld w 7 3
  let n := fld w 15 8
  match fld w 2 0 with
  | 0 => i == 0 && n == 0
  | 1 => n == 0
  | 2 => n == 0
  | 3 => decide (i < 16) && n != 0
  | 4 => decide (i < 16) && n != 0
  | _ => false

/-- Which operand fields a vector opcode uses: x, y, va, vd, s_reg (R80); none for a reserved opcode. -/
def vecUses (op : Nat) : Option (Bool × Bool × Bool × Bool × Bool) :=
  match op with
  | 0x00 => some (false, false, false, false, false)
  | 0x01 => some (true, false, false, true, true)
  | 0x02 => some (false, true, true, false, true)
  | 0x03 => some (false, false, false, true, true)
  | 0x04 => some (false, false, true, true, false)
  | 0x05 => some (false, false, true, true, false)
  | 0x06 => some (false, false, true, true, false)
  | 0x07 => some (false, false, true, true, false)
  | 0x08 => some (false, false, true, true, false)
  | 0x09 => some (false, false, true, true, false)
  | 0x10 => some (true, true, false, false, false)
  | 0x11 => some (true, true, true, false, false)
  | 0x12 => some (true, true, false, false, false)
  | 0x13 => some (true, true, true, true, true)
  | 0x14 => some (true, false, false, true, false)
  | 0x15 => some (true, false, false, true, false)
  | 0x16 => some (true, false, false, true, false)
  | 0x17 => some (true, true, false, false, false)
  | 0x18 => some (false, true, false, false, false)
  | _ => none

/-- Vector slot fields (R79). -/
def vX (e : BitVec 96) : Nat := fld e 51 38
def vXs (e : BitVec 96) : Nat := fld e 55 52
def vY (e : BitVec 96) : Nat := fld e 69 56
def vYs (e : BitVec 96) : Nat := fld e 73 70
def vVa (e : BitVec 96) : Nat := fld e 77 74
def vVd (e : BitVec 96) : Nat := fld e 81 78
def vS (e : BitVec 96) : Nat := fld e 86 82

/-- The vector slot's encoding is legal. -/
def vecLegal (e : BitVec 96) : Bool :=
  match vecUses (slotOp e) with
  | none => false
  | some (x, y, va, vd, sr) =>
    waitOk (slotWait e) && sigOk (slotSig e) && fld e 95 87 == 0 &&
    (x || (vX e == 0 && vXs e == 0)) && (y || (vY e == 0 && vYs e == 0)) && (va || vVa e == 0) && (vd || vVd e == 0) &&
    (sr || vS e == 0)

/-- Matrix slot fields (R82). -/
def mA (e : BitVec 96) : Nat := fld e 51 38
def mAs (e : BitVec 96) : Nat := fld e 55 52
def mB (e : BitVec 96) : Nat := fld e 69 56
def mBs (e : BitVec 96) : Nat := fld e 73 70
def mTile (e : BitVec 96) : Nat := fld e 74 74
def mZero (e : BitVec 96) : Bool := bitAt e 75
def mReg (e : BitVec 96) : Nat := fld e 80 76
def mCmax (e : BitVec 96) : Bool := bitAt e 81

/-- The matrix slot's encoding is legal. -/
def matLegal (e : BitVec 96) : Bool :=
  waitOk (slotWait e) && sigOk (slotSig e) && fld e 95 82 == 0 &&
  (let op := slotOp e
   if op = 0 then fld e 95 38 == 0
   else if 1 ≤ op ∧ op ≤ 8 then mReg e == 0 && !mCmax e
   else if op = 0x10 then mBs e == 0 && (mCmax e || (mB e == 0 && !mZero e))
   else false)

/-- Load and store slot fields (R87). -/
def lSp (e : BitVec 96) : Nat := fld e 51 38
def lShape (e : BitVec 96) : Nat := fld e 55 52
def lSa (e : BitVec 96) : Nat := fld e 60 56
def lSb (e : BitVec 96) : Nat := fld e 65 61
def lSc (e : BitVec 96) : Nat := fld e 70 66
def lSd (e : BitVec 96) : Nat := fld e 75 71
def lLc (e : BitVec 96) : Bool := bitAt e 76

/-- The load or store slot's encoding is legal. -/
def ldstLegal (store : Bool) (e : BitVec 96) : Bool :=
  waitOk (slotWait e) && sigOk (slotSig e) && fld e 95 77 == 0 &&
  (match slotOp e with
   | 0 => fld e 95 38 == 0
   | 1 => true
   | 2 => lSc e == 0 && lSd e == 0
   | 3 => store
   | _ => false)

/-- Registers the scalar slot writes: none or s[d]. -/
def scalarDest (e : W64) : Option Nat :=
  let op := sOp e
  if (0x01 ≤ op ∧ op ≤ 0x16) ∨ op = 0x22 ∨ op = 0x23 ∨ op = 0x25 ∨ op = 0x26 ∨ op = 0x28 ∨ (0x30 ≤ op ∧ op ≤ 0x33) ∨ op = 0x3B
  then some (sD e) else none

/-- The scalar slot's encoding is legal (R76, R77). -/
def scalarLegal (e : W64) : Bool :=
  let op := sOp e
  let d0 := sD e == 0
  let a0 := sA e == 0
  let b0 := sB e == 0
  let i := (sImm e).toNat
  let i0 := i == 0
  let sc0 := sScope e == 0
  let u := sUse e
  let even := sA e % 2 == 0
  fld e 63 58 == 0 &&
  (if op = 0x00 then d0 && a0 && b0 && i0 && sc0 && !u
   else if (0x01 ≤ op ∧ op ≤ 0x0E) ∨ (0x10 ≤ op ∧ op ≤ 0x14) then sc0 && (if u then b0 else i0)
   else if op = 0x15 ∨ op = 0x16 then b0 && i0 && sc0 && !u
   else if op = 0x20 then decide (sD e < 16) && i0 && sc0 && !u
   else if op = 0x21 then decide (sD e < 16) && a0 && b0 && decide (i < 2 ^ 17) && sc0 && !u
   else if op = 0x22 then a0 && b0 && decide (i < 2 ^ 9) && decide (i % 256 ≤ 9) && sc0 && !u
   else if op = 0x23 then b0 && sc0 && !u
   else if op = 0x24 then d0 && sc0 && !u
   else if op = 0x25 then a0 && b0 && decide (i < 32) && sc0 && !u
   else if op = 0x26 then a0 && b0 && decide (i < 16) && sc0 && !u
   else if op = 0x28 then b0 && sc0 && !u && even
   else if op = 0x29 then d0 && sc0 && !u && even
   else if 0x30 ≤ op ∧ op ≤ 0x33 then decide (sScope e ≤ 2) && !u && even
   else if op = 0x38 then d0 && a0 && b0 && sc0 && !u
   else if op = 0x39 ∨ op = 0x3A then d0 && b0 && sc0 && !u
   else if op = 0x3B then a0 && b0 && sc0 && !u
   else if op = 0x3C then d0 && b0 && i0 && sc0 && !u
   else if op = 0x3F then d0 && a0 && b0 && i0 && sc0 && !u
   else false)

/-- The sync slot's encoding is legal (R91). -/
def syncLegal (e : W32) : Bool :=
  let f := yField e
  fld e 31 29 == 0 &&
  (match yOp e with
   | 0 => f == 0 && yReg e == 0 && yMode e == 0
   | 1 => waitOk f && yReg e == 0 && yMode e == 0
   | 2 => sigOk f && yReg e == 0 && yMode e == 0
   | 3 => sigOk f && yReg e == 0 && yMode e != 0
   | 4 => sigOk f && yReg e == 0 && yMode e != 0
   | 5 => sigOk f && yReg e == 0 && yMode e != 0
   | 6 => f == 0 && yMode e == 0
   | 7 => f == 0 && yReg e == 0 && yMode e == 0
   | 8 => sigOk f && yMode e == 0
   | _ => false)

/-- The scalar and sync slots write the same scalar register other than s0 (R98). -/
def sameDest (b : Line) : Bool :=
  yOp (syncBits b) == 6 && yReg (syncBits b) != 0 && scalarDest (scalarBits b) == some (yReg (syncBits b))

/-- The header is legal: version 1, reserved bits zero. -/
def headLegal (b : Line) : Bool := hVersion b == 1 && fld (headBits b) 31 12 == 0

/-! ### Registers of a cluster -/

/-- s[r]; s0 reads as zero (R60). -/
def Arch.sreg (a : Arch) (r : Nat) : W32 := if r = 0 then 0 else Tab.get (fun _ => 0) a.s r

/-- Write s[r]; a write to s0 has no effect (R60). -/
def Arch.setS (a : Arch) (r : Nat) (v : W32) : Arch :=
  if r = 0 then a else { a with s := Tab.set (fun _ => 0) a.s r v }

/-- h[r]. -/
def Arch.hreg (a : Arch) (r : Nat) : W64 := Tab.get (fun _ => 0) a.h r

/-- Write h[r]; bits [63:55] are read-only zero (R61). -/
def Arch.setH (a : Arch) (r : Nat) (v : W64) : Arch :=
  { a with h := Tab.set (fun _ => 0) a.h r (v &&& 0x7FFFFFFFFFFFFF#64) }

/-- v[r], lane 0 first. -/
def Arch.vreg (a : Arch) (r : Nat) : List W32 := Tab.getList (fun _ => 0) a.v (64 * r) 64

/-- Write v[r]. -/
def Arch.setV (a : Arch) (r : Nat) (l : List W32) : Arch := { a with v := Tab.setList (fun _ => 0) a.v (64 * r) l }

/-- k[r]. -/
def Arch.kreg (a : Arch) (r : Nat) : Nat := (Tab.get (fun _ => 0) a.k r).toNat

/-- Write k[r]. -/
def Arch.setK (a : Arch) (r v : Nat) : Arch := { a with k := Tab.set (fun _ => 0) a.k r (BitVec.ofNat 16 v) }

/-- Scratchpad bytes. -/
def Arch.spBytes (a : Arch) (addr n : Nat) : List Byte := Tab.getList (fun _ => 0) a.sp addr n

/-- Write scratchpad bytes. -/
def Arch.setSp (a : Arch) (addr : Nat) (bs : List Byte) : Arch := { a with sp := Tab.setList (fun _ => 0) a.sp addr bs }

/-- Consecutive scratchpad units as one number. -/
def Arch.units (a : Arch) (u n : Nat) : Nat := ofBytes (a.spBytes (64 * u) (64 * n))

/-- Accumulator element. -/
def Arch.accEl (a : Arch) (tile m n : Nat) : W32 := Tab.get (fun _ => 0) a.acc (4096 * tile + 64 * m + n)

/-! ### Shapes (R61 to R63) -/

def shRows (h : W64) : Nat := fld h 11 0
def shStride (h : W64) : Nat := fld h 25 12
def shUnits (h : W64) : Nat := fld h 33 26
def shFmt (h : W64) : Nat := fld h 37 34
def shWafer (h : W64) : Nat := fld h 39 38
def shScale (h : W64) : Nat := fld h 53 40
def shScaled (h : W64) : Bool := bitAt h 54

/-- The element format; FP32 stands in for a reserved code, which every use refuses first. -/
def shFormat (h : W64) : Fmt := (fmtOf (shFmt h)).getD .fp32

/-- Formats that may carry scales (04 R109). -/
def scalable (f : Fmt) : Bool :=
  match f with
  | .e4m3 => true | .e5m2 => true | .e3m2 => true | .e2m3 => true | .e2m1 => true | .int8 => true | .int4 => true
  | _ => false

/-- No format fault of the shape itself: no reserved code, a wafer only of BF16 (R62), scales only where R109 and R127
allow them. -/
def shapeFmtOk (h : W64) : Bool :=
  (fmtOf (shFmt h)).isSome && (shWafer h == 0 || shFmt h == 0) && (!shScaled h || scalable (shFormat h))

/-- k-steps of one row of a scaled or matrix operand (R84, R110). -/
def stepsPerRow (f : Fmt) : Nat := match f with | .e2m1 => 2 | .int4 => 2 | _ => 1

/-- k-blocks of a scaled tile. -/
def scaleBlocks (h : W64) : Nat := ceilDiv (stepsPerRow (shFormat h) * shRows h) 32

/-- No shape fault of an operand at a: valid rows and units, every unit and every unit of its scale area at or below
16,383 (R63), one unit per row when scaled (R109). -/
def shapeOk (h : W64) (a : Nat) : Bool :=
  shRows h != 0 && shUnits h != 0 && decide (a + (shRows h - 1) * shStride h + shUnits h ≤ 16384) &&
  (!shScaled h || (shUnits h == 1 && decide (shScale h + 1 + scaleBlocks h ≤ 16384)))

/-- Elements of one row (R81); a wafer row holds 256 (R128). -/
def shEls (h : W64) : Nat := if shWafer h = 0 then shUnits h * fmtEpu (shFormat h) else 256

/-- Unit address of row r. -/
def rowUnit (h : W64) (a r : Nat) : Nat := a + r * shStride h

/-- Code of element j of a row given as a number (04 R102). -/
def elCode (f : Fmt) (row j : Nat) : Nat :=
  match f with
  | .e3m2 => bitsOf row (512 * (j / 64) + 6 * (j % 64)) 6
  | .e2m3 => bitsOf row (512 * (j / 64) + 6 * (j % 64)) 6
  | f => bitsOf row (fmtBits f * j) (fmtBits f)

/-- A row from its element codes, element 0 first (04 R102): FP6 packs 64 into each unit and zeros its last 16 bytes. -/
def packRow (f : Fmt) (codes : List Nat) : Nat :=
  let pos (j : Nat) : Nat := match f with
    | .e3m2 => 512 * (j / 64) + 6 * (j % 64)
    | .e2m3 => 512 * (j / 64) + 6 * (j % 64)
    | f => fmtBits f * j
  codes.zipIdx.foldl (fun acc p => acc + p.1 * 2 ^ pos p.2) 0

/-- Fine scale of a lane and k-block (04 R111, R112). -/
def Arch.fine (a : Arch) (h : W64) (b lane : Nat) : Nat :=
  ofBytes (a.spBytes (64 * (shScale h + 1 + b) + lane) 1)

/-- Coarse scale of a scale tile (04 R111). -/
def Arch.coarse (a : Arch) (h : W64) (t : Nat) : W32 := BitVec.ofNat 32 (ofBytes (a.spBytes (64 * shScale h + 4 * t) 4))

/-- An element times its fine scale, exact (04 R112): 0x00 makes it zero, 0x7F NaN. -/
def fineMul (x : Ex) (fine : Nat) : Ex :=
  let c := fine % 128
  if c = 0 then .fin x.sign 0 0
  else if c = 0x7F then .nan
  else mulEx x (decodeFp .ue4m3 c)

/-- The k-step and lane of element j of row r (04 R110). -/
def kStep (f : Fmt) (r j : Nat) : Nat := stepsPerRow f * r + j / 64

/-- Row r of a tile as exact FP32 values, the vector slot's sources (R81, 04 R113, R122): scales applied and rounded once. -/
def Arch.rowValues (a : Arch) (addr : Nat) (h : W64) (r : Nat) : List Ex :=
  let f := shFormat h
  let row := a.units (rowUnit h addr r) (shUnits h)
  if shWafer h ≠ 0 then waferDecode (shWafer h) row
  else (List.range (shEls h)).map fun j =>
    let x := decodeEl f (elCode f row j)
    if shScaled h then
      let b := kStep f r j / 32
      r32 (mulEx (fineMul x (a.fine h b (j % 64))) (ex32 (a.coarse h (b / 64))))
    else x

/-- Bytes of a row of a tile that element codes fill. -/
def rowBytes (h : W64) (codes : List Nat) : List Byte := toBytes (64 * shUnits h) (packRow (shFormat h) codes)

end Sys2Proof.Machine
end

