-- ==== Sys2Proof/Machine/Flags.lean ====
section
/-! DEFINITION. Flags, counters and saturation: wait and signal fields (03 R64 to R69). -/

namespace Sys2Proof.Machine

/-- f[i]. -/
def Arch.flag (a : Arch) (i : Nat) : Bool := bitAt a.f i

/-- f[i] set or cleared. -/
def Arch.setFlag (a : Arch) (i : Nat) (v : Bool) : Arch := { a with f := setFld a.f i i (b2n v) }

/-- Whether a wait field holds (R64). -/
def Arch.waitHolds (a : Arch) (w : BitVec 16) : Bool :=
  let i := fld w 7 3
  let n := fld w 15 8
  match fld w 2 0 with
  | 1 => a.flag i
  | 2 => a.flag i
  | 3 => !a.flag i
  | 4 => decide (n ≤ a.kreg i)
  | 5 => decide (n ≤ a.kreg i)
  | 6 => a.kreg i == 0
  | _ => true

/-- Perform the take of a wait field that holds (R64, R66). -/
def Arch.take (a : Arch) (w : BitVec 16) : Arch :=
  let i := fld w 7 3
  match fld w 2 0 with
  | 2 => a.setFlag i false
  | 5 => a.setK i (a.kreg i - fld w 15 8)
  | _ => a

/-- Apply a signal field (R65); none is a sync fault, and the counter keeps its value (R69). -/
def Arch.signal (a : Arch) (w : BitVec 16) : Option Arch :=
  let i := fld w 7 3
  let n := fld w 15 8
  match fld w 2 0 with
  | 1 => some (a.setFlag i true)
  | 2 => some (a.setFlag i false)
  | 3 => if a.kreg i + n ≤ 65535 then some (a.setK i (a.kreg i + n)) else none
  | 4 => if n ≤ a.kreg i then some (a.setK i (a.kreg i - n)) else none
  | _ => some a

/-- What the signals of one cycle add to counter i, when their act is `act` (R65, R68). -/
def counted (act i : Nat) (sigs : List (BitVec 16)) : Nat :=
  ((sigs.filter (fun w => fld w 2 0 == act && fld w 7 3 == i)).map (fun w => fld w 15 8)).sum

/-- Counter i after the signals of one cycle, whose adds and subtracts are summed; none out of range (R68, R69). -/
def Arch.counterAfter (a : Arch) (sigs : List (BitVec 16)) (i : Nat) : Option Nat :=
  let up := a.kreg i + counted 3 i sigs
  if counted 4 i sigs ≤ up ∧ up - counted 4 i sigs ≤ 65535 then some (up - counted 4 i sigs) else none

/-- Whether a signal names a counter that the signals of its cycle would carry out of range (R69). -/
def Arch.signalFails (a : Arch) (sigs : List (BitVec 16)) (w : BitVec 16) : Bool :=
  (fld w 2 0 == 3 || fld w 2 0 == 4) && (a.counterAfter sigs (fld w 7 3)).isNone

/-- The signals of one cycle (R68): clears, then sets, so that a flag that receives any set ends set; each counter by its sum, or
unchanged where the sum is out of range (R69). -/
def Arch.signals (a : Arch) (sigs : List (BitVec 16)) : Arch :=
  let flags (act : Nat) (v : Bool) (a : Arch) : Arch :=
    sigs.foldl (fun b w => if fld w 2 0 = act then b.setFlag (fld w 7 3) v else b) a
  let a := flags 1 true (flags 2 false a)
  let base := a
  sigs.foldl (fun b w =>
    if fld w 2 0 = 3 ∨ fld w 2 0 = 4 then
      match base.counterAfter sigs (fld w 7 3) with
      | some v => b.setK (fld w 7 3) v
      | none => b
    else b) a

/-- Count saturated elements (R85): the count stops at 0xFFFF_FFFF. -/
def Arch.addSat (a : Arch) (n : Nat) : Arch := { a with sat := BitVec.ofNat 32 (satAdd 0xFFFFFFFF a.sat.toNat n) }

end Sys2Proof.Machine
end

