-- ==== Sys2Proof/Machine/KloxaOps.lean ====
section
/-! DEFINITION. What every Kloxa operation shares: faults, feature registers, the queues and pipes, the start and the
completion of a long-running operation (02 R53 to R55; 03 R66, R67, R70, R71, R74, R86, R98 to R100). -/

namespace Sys2Proof.Machine

/-! ### Faults -/

/-- A cluster fault: it makes a record, no further bundle issues, queued entries are discarded, and module firmware hears of it
on the quarter's line (R99, 12 R329). -/
def State.clusterFault (s : State) (c code slot unit : Nat) (pln : Option Nat) : State :=
  (s.modCluster c (fun x =>
    { x with
      faults := x.faults ++ [{ code := code, unit := unit, slot := slot, pln := pln }],
      fetchQ := [],
      arch := { x.arch with vq := [], mq := [], lq := [], sq := [] } })).latch (16 + c / 320)

/-- Apply a signal field in a cluster; out of range it is a sync fault of the slot (R65, R69, R98). -/
def State.applySignal (s : State) (c : Nat) (sig : BitVec 16) (slot unit : Nat) : State :=
  match (s.cluster c).arch.signal sig with
  | some a => s.modCluster c (fun x => { x with arch := a })
  | none => s.clusterFault c 0x04 slot unit none

/-- Apply the signal fields of one cycle, each with the slot and the unit it comes from; of several sync faults the record names
the one in the earliest slot (R68, R69, R100). -/
def State.applySignals (s : State) (c : Nat) (l : List (BitVec 16 × Nat × Nat)) : State :=
  let a := (s.cluster c).arch
  let sigs := l.map (·.1)
  let t := s.modCluster c (fun x => { x with arch := a.signals sigs })
  match (List.range 6).findSome? (fun k => l.find? (fun g => g.2.1 == k && a.signalFails sigs g.1)) with
  | some g => t.clusterFault c 0x04 g.2.1 g.2.2 none
  | none => t

/-! ### Feature registers -/

/-- FEAT_CLUSTERS (02 R55). -/
def State.featClusters (s : State) : W64 :=
  let n (q : Nat) : Nat := (s.quarter q).inService
  let idle (q : Nat) : Nat := (((List.range 320).map (fun i => 320 * q + i)).filter s.working).length - n q
  BitVec.ofNat 64 (n 0 + n 1 + n 2 + n 3 + at_ 16 (n 0) + at_ 25 (n 1) + at_ 34 (n 2) + at_ 43 (n 3) +
    at_ 52 (idle 0 + idle 1 + idle 2 + idle 3))

/-- FEAT_PART_CLUSTERS of a partition as its set-up leaves it (02 R54, R55). -/
def State.featPartNow (s : State) (p : Nat) : W64 :=
  let n (q : Nat) : Nat := (s.partClustersIn p q).length
  BitVec.ofNat 64 (n 0 + n 1 + n 2 + n 3 + at_ 11 (n 0) + at_ 20 (n 1) + at_ 29 (n 2) + at_ 38 (n 3) +
    at_ 47 (popcount 48 (s.part p).applied.shares.toNat))

/-- FEAT_PART_CLUSTERS of a partition: it changes only with the partition's own set-up (02 R54). -/
def State.featPart (s : State) (p : Nat) : W64 := (s.part p).feat

/-- FEAT_SELF of a cluster (02 R55). -/
def State.featSelf (s : State) (p c : Nat) : W64 :=
  BitVec.ofNat 64 (posOf (s.partClusters p) c + at_ 11 (c / 320) + at_ 13 (posOf (s.serving (c / 320)) c))

/-- Control cores in service in a quarter: at most three of the working ones (02, 20 R468). -/
def State.coresIn (s : State) (q : Nat) : Nat := min 3 (popcount 4 (s.quarter q).cores.toNat)

/-- Channel groups out of service in the module (20 R473). -/
def State.lostGroups (s : State) : Nat := ((List.range 16).map (fun k => popcount 8 (s.stack k).spare.lost.toNat)).sum

/-- The feature register of an index, as a cluster of partition p reads it (02 R53, R55). -/
def State.feat (s : State) (p c index : Nat) : W64 :=
  match index with
  | 0 => s.featClusters
  | 1 => s.featPart p
  | 2 => s.featSelf p c
  | 3 => 0x0000000201FF4040#64
  | 4 => 0x2000100010000800#64
  | 5 => 0x1010204040200400#64
  | 6 => 0x0000000040101020#64
  | 7 => 0x0000031004050040#64 ||| BitVec.ofNat 64 (at_ 48 (s.coresIn (c / 320)))
  | 8 => BitVec.ofNat 64 (4096 - 32 * s.lostGroups + at_ 16 (2048 - 16 * s.lostGroups)) ||| 0x2002040020000000#64
  | 9 => 0x4007140D40030100#64
  | _ => 0

/-! ### Queues and pipes (R74) -/

/-- The pipe of a vector opcode: T operations run in the transcendental pipe, the others and markers in the lane pipe
(R71, R80). -/
def vecPipe (op : Nat) : Pipe :=
  if op = 0x07 ∨ op = 0x08 ∨ op = 0x09 ∨ op = 0x13 ∨ op = 0x17 then .trans else .lane

/-- The pipe of a matrix opcode; a marker belongs to neither (R71). -/
def matPipe (op : Nat) : Pipe := if op = 0 then .matrixMarker else if op = 0x10 then .drain else .array

/-- The slot a pipe belongs to: 1 vector, 2 matrix, 3 load, 4 store. -/
def pipeSlot : Pipe → Nat
  | .lane => 1 | .trans => 1 | .array => 2 | .drain => 2 | .matrixMarker => 2 | .load => 3 | .store => 4

/-- The pipe of a queue entry of a slot. -/
def entryPipe (slot op : Nat) : Pipe :=
  match slot with
  | 1 => vecPipe op | 2 => matPipe op | 3 => .load | _ => .store

/-- A slot's queue, oldest first. -/
def Arch.queue (a : Arch) (slot : Nat) : List QEntry :=
  match slot with
  | 1 => a.vq | 2 => a.mq | 3 => a.lq | _ => a.sq

/-- Replace a slot's queue. -/
def Arch.setQueue (a : Arch) (slot : Nat) (q : List QEntry) : Arch :=
  match slot with
  | 1 => { a with vq := q } | 2 => { a with mq := q } | 3 => { a with lq := q } | _ => { a with sq := q }

/-- Entries of a slot's queue (R74). -/
def queueCap (slot : Nat) : Nat := if slot ≤ 2 then 4 else 8

/-- Whether an operation in progress is a matrix operation other than the drain or array `pipe` on a tile. -/
def otherOnTile (pipe : Pipe) (tile : Nat) (p : Pipe) (t : Nat) : Bool :=
  decide (p ≠ pipe) && (decide (p = .array) || decide (p = .drain)) && t == tile

/-- Position of the queue entry that may start next in a pipe: the first entry of that pipe, unless an earlier matrix
marker has not started (R71), an earlier operation of the other matrix pipe on its tile is not complete (R86), or its unit
is not free (R66, R74). -/
def Cluster.startPos (x : Cluster) (pipe : Pipe) : Option Nat :=
  let slot := pipeSlot pipe
  let q := x.arch.queue slot
  match q.findIdx? (fun e => decide (entryPipe slot (slotOp e.bits) = pipe)) with
  | none => none
  | some i =>
    match q[i]? with
    | none => none
    | some e =>
      let marker := slotOp e.bits == 0
      let busy := x.running.filter (fun r => decide (r.pipe = pipe) && !r.isMarker)
      let unitFree := marker || (if slot ≤ 2 then busy.isEmpty else decide (busy.length < 8))
      let before := q.take i
      let order :=
        if slot = 2 then
          if marker then before.isEmpty
          else before.all (fun b => slotOp b.bits != 0 &&
              !otherOnTile pipe (mTile e.bits) (entryPipe 2 (slotOp b.bits)) (mTile b.bits)) &&
            x.running.all (fun r => !otherOnTile pipe (mTile e.bits) r.pipe r.tile)
        else true
      if unitFree && order then some i else none

/-- Whether queued entries of a cluster may start at all: it runs a job, has not stopped at a preemption point (R94) and
has not faulted (R99). -/
def Cluster.live (x : Cluster) : Bool := x.job.isSome && !x.stopped && x.faultRec.isNone

/-- The entry that can start in a pipe now, its wait holding, and the queue without it (R66). -/
def Cluster.startable (x : Cluster) (pipe : Pipe) : Option (QEntry × List QEntry) :=
  if x.live then
    match x.startPos pipe with
    | none => none
    | some i =>
      let q := x.arch.queue (pipeSlot pipe)
      match q[i]? with
      | none => none
      | some e => if x.arch.waitHolds (slotWait e.bits) then some (e, q.eraseIdx i) else none
  else none

/-- What the start of an operation found: a fault at start, or its pending writes and the bus error it met. -/
inductive Begun where
  | fault (code : Nat)
  /-- complete in the cycle it starts, with nothing written (R90) -/
  | finished
  | run (writes : List Write) (err : Option Nat)
deriving DecidableEq, Repr

/-- Start the operation at the head of a pipe when it has opcode `op`: its wait's take is performed, its entry leaves the
queue, and its result waits for its completion; a fault at start leaves it without effect (R66, R74, R99). -/
def State.startOp (s : State) (c : Nat) (pipe : Pipe) (op : Nat) (f : State → QEntry → State × Begun) : State :=
  let x := s.cluster c
  match x.startable pipe with
  | none => s
  | some (e, q) =>
    if slotOp e.bits = op then
      match f s e with
      | (t, .fault code) =>
        (t.modCluster c (fun y => { y with arch := y.arch.setQueue (pipeSlot pipe) q })).clusterFault c code (pipeSlot pipe)
          e.pc none
      | (t, .finished) =>
        (t.modCluster c (fun y => { y with arch := (y.arch.setQueue (pipeSlot pipe) q).take (slotWait e.bits) })).applySignal c
          (slotSig e.bits) (pipeSlot pipe) e.pc
      | (t, .run ws err) =>
        let r : Running :=
          { pipe := pipe, slot := pipeSlot pipe, pc := e.pc, sig := slotSig e.bits,
            tile := if pipeSlot pipe = 2 then mTile e.bits else 2, isMarker := false, writes := ws, err := err,
            handle := if 3 ≤ pipeSlot pipe ∧ op = 1 then some (e.ops.getD 0 0) else none }
        t.modCluster c (fun y =>
          { y with arch := (y.arch.setQueue (pipeSlot pipe) q).take (slotWait e.bits), running := y.running ++ [r] })
    else s

/-! ### Completion -/

/-- The pipes whose earlier operations a marker follows (R71). -/
def follows (marker other : Pipe) : Bool :=
  match marker with
  | .matrixMarker => decide (other = .array) || decide (other = .drain) || decide (other = .matrixMarker)
  | p => decide (other = p)

/-- The position of a marker in progress that follows nothing still in progress. -/
def readyMarker (rs : List Running) : Option Nat :=
  (List.range rs.length).find? (fun i =>
    match rs[i]? with
    | some m => m.isMarker && (rs.take i).all (fun r => !follows m.pipe r.pipe)
    | none => false)

/-- The markers that follow nothing in progress, in order, and what stays in progress (R71). -/
def freeMarkers : Nat → List Running → List Running × List Running
  | 0, rs => ([], rs)
  | n + 1, rs =>
    match readyMarker rs with
    | none => ([], rs)
    | some i =>
      match rs[i]? with
      | none => ([], rs)
      | some m =>
        let r := freeMarkers n (rs.eraseIdx i)
        (m :: r.1, r.2)

/-- The signal of an operation or marker, with its slot and unit. -/
def Running.signalOf (r : Running) : BitVec 16 × Nat × Nat := (r.sig, r.slot, r.pc)

/-- A cycle in which operations complete with the signals `sigs`: the markers they held up complete with them, and all their
signals apply together (R68, R71). -/
def State.completeCycle (s : State) (c : Nat) (sigs : List (BitVec 16 × Nat × Nat)) : State :=
  let rs := (s.cluster c).running
  let m := freeMarkers rs.length rs
  (s.modCluster c (fun x => { x with running := m.2 })).applySignals c (sigs ++ m.1.map Running.signalOf)

/-- Write one piece of a result. The second component is the PLN of a write refused with a bus error (05 R139). -/
def State.applyWrite (s : State) (c : Nat) (w : Write) : State × Option Nat :=
  match w with
  | .vec r l => (s.modCluster c (fun x => { x with arch := x.arch.setV r l }), none)
  | .scratch a bs => (s.modCluster c (fun x => { x with arch := x.arch.setSp a bs }), none)
  | .acc t l =>
    (s.modCluster c (fun x => { x with arch := { x.arch with acc := Tab.setList (fun _ => 0) x.arch.acc (4096 * t) l } }), none)
  | .sat n => (s.modCluster c (fun x => { x with arch := x.arch.addSat n }), none)
  | .qbuf q a bs =>
    (s.modQuarter q (fun x => { x with qbuf := Tab.setList (fun _ => 0) x.qbuf a bs }), none)
  | .dev _ pln pos len v =>
    let p := (s.partOf c).getD 0xFF
    match s.mergeLine (ctlOf pln) pln p pos len v with
    | (t, true) => (t, some pln)
    | (t, false) => (t, none)
  | .remote k a bs => (s.modCluster k (fun x => { x with arch := x.arch.setSp a bs }), none)
  | .remoteSignal k sig => (s.modCluster k (fun x => { x with inbox := x.inbox ++ [sig] }), none)

/-- Write a whole result; the PLN of the first refused write. -/
def State.applyWrites (s : State) (c : Nat) (ws : List Write) : State × Option Nat :=
  ws.foldl (fun a w =>
    let b := a.1.applyWrite c w
    (b.1, if a.2.isSome then a.2 else b.2)) (s, none)

/-- After a bus error an operation may have written part of its data (R99): each piece by a free choice (log 3). -/
def State.applySome (s : State) (c : Nat) (ws : List Write) : State :=
  ws.foldl (fun t w => if bitAt t.freeVal 0 then (t.useFree.applyWrite c w).1 else t.useFree) s

/-- The oldest operation in progress in a pipe completes: what it writes is in place, then its signal applies, or its bus
error is raised without one (R67, R99); the markers it held up complete with it (R71). -/
def State.completeOp (s : State) (c : Nat) (pipe : Pipe) : State :=
  let x := s.cluster c
  match x.running.findIdx? (fun r => decide (r.pipe = pipe) && !r.isMarker) with
  | none => s
  | some i =>
    match x.running[i]? with
    | none => s
    | some r =>
      let t := s.modCluster c (fun y => { y with running := x.running.eraseIdx i })
      match r.err with
      | some pln => ((t.applySome c r.writes).clusterFault c 0x0C r.slot r.pc (some pln)).completeCycle c []
      | none =>
        match t.applyWrites c r.writes with
        | (u, some pln) => (u.clusterFault c 0x0C r.slot r.pc (some pln)).completeCycle c []
        | (u, none) => u.completeCycle c [r.signalOf]

/-- Start the marker at the head of a pipe: its take is performed; it completes at once when it follows nothing in progress
(R71). -/
def State.startMarker (s : State) (c : Nat) (pipe : Pipe) : State :=
  let x := s.cluster c
  match x.startable pipe with
  | none => s
  | some (e, q) =>
    if slotOp e.bits = 0 then
      let r : Running :=
        { pipe := pipe, slot := pipeSlot pipe, pc := e.pc, sig := slotSig e.bits, tile := 2, isMarker := true, writes := [],
          err := none, handle := none }
      (s.modCluster c (fun y =>
        { y with arch := (y.arch.setQueue (pipeSlot pipe) q).take (slotWait e.bits), running := y.running ++ [r] })).completeCycle c []
    else s

end Sys2Proof.Machine
end

