-- ==== Sys2Proof/Machine/RoundOps.lean ====
section
/-! DEFINITION. What the round's commands share: records of a partition, its ledger, placement and allocation, the journal,
and how a request ends (07 R192 to R221, 08 R231, R243, 19 R453 to R457). -/

namespace Sys2Proof.Machine

/-! ### Access -/

/-- Round entry i of partition p. -/
def State.seqAt (s : State) (p i : Nat) : Option RoundEntry := Tab.get (fun _ => none) (s.round p).entries i

/-- Replace round entry i. -/
def State.setSeq (s : State) (p i : Nat) (e : Option RoundEntry) : State :=
  s.modRound p (fun r => { r with entries := Tab.set (fun _ => none) r.entries i e })

/-- Change round entry i if it is live. -/
def State.modSeq (s : State) (p i : Nat) (f : RoundEntry → RoundEntry) : State :=
  match s.seqAt p i with
  | some e => s.setSeq p i (some (f e))
  | none => s

/-- The live sequences of a partition, in ascending round index. -/
def State.seqs (s : State) (p : Nat) : List (Nat × RoundEntry) :=
  (s.round p).entries.filterMap (fun e => e.2.map (fun x => (e.1, x)))

/-- Ledger entry i. -/
def State.parcel (s : State) (p i : Nat) : Parcel := Tab.get (fun _ => Parcel.reset) (s.round p).ledger i

/-- Change ledger entry i. -/
def State.modParcel (s : State) (p i : Nat) (f : Parcel → Parcel) : State :=
  s.modRound p (fun r => { r with ledger := Tab.modify (fun _ => Parcel.reset) r.ledger i f })

/-- Prefix entry i. -/
def State.prefixAt (s : State) (p i : Nat) : Option Prefix := Tab.get (fun _ => none) (s.round p).prefixes i

/-- Replace prefix entry i. -/
def State.setPrefix (s : State) (p i : Nat) (e : Option Prefix) : State :=
  s.modRound p (fun r => { r with prefixes := Tab.set (fun _ => none) r.prefixes i e })

/-- Change prefix entry i if it is in use. -/
def State.modPrefix (s : State) (p i : Nat) (f : Prefix → Prefix) : State :=
  match s.prefixAt p i with
  | some e => s.setPrefix p i (some (f e))
  | none => s

/-- The sequence of a request ID. -/
def State.seqOf (s : State) (p req : Nat) : Option (Nat × RoundEntry) := (s.seqs p).find? (fun e => e.2.requestId == req)

/-! ### The model's sets (R194, R196, R200) -/

/-- Columns of a head's parcels: two above dimension 128 (R194). -/
def Model.cols (m : Model) : Nat := if 128 < m.headDim then 2 else 1

/-- Heads or pairs of a model (R193). -/
def Model.heads' (m : Model) (draft : Bool) : Nat :=
  let h := if draft then m.draftHeads else m.heads
  if m.headDim ≤ 64 then h / 2 else h

/-- Layers of the main or the draft model. -/
def Model.layers' (m : Model) (draft : Bool) : Nat := if draft then m.draftLayers else m.layers

/-- Query heads per key/value head. -/
def Model.group' (m : Model) (draft : Bool) : Nat := if draft then m.draftGroup else m.group

/-- Ledger entries of one set. -/
def Model.setSize (m : Model) (draft : Bool) : Nat := m.layers' draft * m.heads' draft * m.cols

/-- Whether the model's attention runs in the stacks (R24, R225). -/
def Model.inStack (m : Model) : Bool := m.headDim == 64 || m.headDim == 128

/-- Home stack of head h in layer l among n heads (R200). -/
def homeStack (n h l : Nat) : Nat := 4 * (4 * h / n) + (h + l) % 4

/-- Layer, head and column of position o of a set. -/
def Model.place (m : Model) (draft : Bool) (o : Nat) : Nat × Nat × Nat :=
  let h := m.heads' draft
  (o / (m.cols * h), (o / m.cols) % h, o % m.cols)

/-- Home stack of position o of a set. -/
def Model.home (m : Model) (draft : Bool) (o : Nat) : Nat :=
  let q := m.place draft o
  homeStack (m.heads' draft) q.2.1 q.1

/-! ### Slots (R199, R201) -/

/-- The pool region of partition p in a stack. -/
def State.poolRegion (s : State) (p stack : Nat) : Option Region :=
  let c := (s.part p).applied.pool
  let ids := (List.range (fld c 12 8)).map (fun i => fld c 7 0 + i)
  (ids.map s.region).find? (fun r => r.valid && r.stackList == [stack])

/-- First rows of the parcel slots of a bank of a pool region. -/
def Region.slotRows (r : Region) : List Nat :=
  ((List.range (r.rows / 64 + 1)).map (fun i => 64 * (ceilDiv r.rowBase 64 + i))).filter (fun row =>
    decide (row + 64 ≤ r.rowBase + r.rows))

/-- States in which a parcel occupies its slot. -/
def ParcelState.resident : ParcelState → Bool
  | .tail => true | .full => true | .spilling => true | .fetching => true | _ => false

/-- First lines of the slots in use. -/
def State.usedSlots (s : State) (p : Nat) : List Nat :=
  (s.round p).ledger.filterMap (fun e => if e.2.state.resident then some e.2.pln else none)

/-- Slots of a partition's pool in a stack. -/
def State.poolSlots (s : State) (p stack : Nat) : Nat :=
  match s.poolRegion p stack with
  | some r => r.n * 32 * r.slotRows.length
  | none => 0

/-- Free slots of a home stack. -/
def State.freeSlots (s : State) (p stack : Nat) : Nat :=
  s.poolSlots p stack - ((s.usedSlots p).filter (fun l => plnStack l == stack)).length

/-- The lowest free slot of a bank. -/
def freeRow (r : Region) (used : List Nat) (stack channel pc bg bank : Nat) : Option Nat :=
  (r.slotRows.map (fun row => plnOf stack channel pc bg bank row 0)).find? (fun l => !used.contains l)

/-- The slot of R201 for parcel j of a sequence (or prefix entry) with stripe offset sigma: the preferred bank, then the
other banks, bank groups, pseudo-channel and channels, each ascending with wrap-around from the preferred one (log 20). -/
def placeSlot (r : Region) (used : List Nat) (stack j sigma : Nat) : Option Nat :=
  let cl := r.channelList
  let nc := cl.length
  if nc = 0 then none
  else
    let k := j / 4 + sigma
    ((List.range (nc * 32))).findSome? (fun i =>
      let c := i / 32
      let pc := (i / 16) % 2
      let g := (i / 4) % 4
      let b := i % 4
      freeRow r used stack (cl.getD ((k + c) % nc) 0) ((k / nc + pc) % 2) ((k / (2 * nc) + g) % 4) ((j + b) % 4))

/-- Stripe offset of a holder (R201). -/
def stripeOffset (nc : Nat) (isPrefix : Bool) (i : Nat) : Nat :=
  if nc = 0 then 0 else if isPrefix then 8 * nc - 1 - i % (8 * nc) else i % (8 * nc)

/-- A fresh slot for a parcel in its home stack; none while that stack has no free one (R201). -/
def State.freshSlot (s : State) (p stack j : Nat) (isPrefix : Bool) (holder : Nat) : Option Nat :=
  match s.poolRegion p stack with
  | none => none
  | some r => placeSlot r (s.usedSlots p) stack j (stripeOffset r.channelList.length isPrefix holder)

/-- The lowest ledger index from which n consecutive entries are free (log 19). -/
def freeBase (used : List Nat) (n : Nat) : Nat :=
  ((0 :: used.map (· + 1)).filter (fun b => used.all (fun k => decide (k < b) || decide (b + n ≤ k)))).foldl
    (fun m b => min m b) (used.foldl max 0 + 1)

/-- Ledger indices in use. -/
def State.usedEntries (s : State) (p : Nat) : List Nat := (s.round p).ledger.map (·.1)

/-- Allocate the parcels of one set from position o on (R201, R208): the home stack that has no free slot, or the state. -/
def State.allocFrom (s : State) (p : Nat) (m : Model) (draft isPrefix : Bool) (holder j base : Nat) : Nat → State ⊕ Nat
  | 0 => .inl s
  | k + 1 =>
    let o := m.setSize draft - (k + 1)
    let q := m.place draft o
    let st := m.home draft o
    match s.freshSlot p st j isPrefix holder with
    | none => .inr st
    | some pln =>
      (s.modParcel p (base + o) (fun _ =>
        { Parcel.reset with
          state := .tail, isShared := isPrefix, pair := decide (m.headDim ≤ 64), draft := draft, layer := q.1,
          head := q.2.1, number := j, holder := holder, column := q.2.2, sharers := 1, pln := pln,
          kScale := Config.kCalibration p draft q.1 q.2.1, vScale := Config.vCalibration p draft q.1 q.2.1 })).allocFrom
        p m draft isPrefix holder j base k

/-- Allocate the set of span j of a holder; its base, or the stack that is full. -/
def State.allocSet (s : State) (p : Nat) (m : Model) (draft isPrefix : Bool) (holder j : Nat) : (State × Nat) ⊕ Nat :=
  let base := freeBase (s.usedEntries p) (m.setSize draft)
  match s.allocFrom p m draft isPrefix holder j base (m.setSize draft) with
  | .inl t => .inl (t, base)
  | .inr st => .inr st

/-- Give the returned parcels of a set fresh slots (R220). -/
def State.realloc (s : State) (p : Nat) (isPrefix : Bool) (holder j : Nat) : List Nat → State ⊕ Nat
  | [] => .inl s
  | i :: is =>
    let q := s.parcel p i
    if q.state ≠ .returned then s.realloc p isPrefix holder j is
    else
      match (s.round p).model with
      | none => .inl s
      | some m =>
        let st := homeStack (m.heads' q.draft) q.head q.layer
        match s.freshSlot p st j isPrefix holder with
        | none => .inr st
        | some pln =>
          (s.modParcel p i (fun x => { x with state := .tail, filled := 0, pln := pln, check := none })).realloc p isPrefix
            holder j is

/-- Ledger indices of a set. -/
def State.setOf (s : State) (p : Nat) (draft : Bool) (base : Nat) : List Nat :=
  match (s.round p).model with
  | some m => (List.range (m.setSize draft)).map (base + ·)
  | none => []

/-- Free ledger entries: a poste restante slot that one holds is free with it (R197, R219). -/
def State.freeParcels (s : State) (p : Nat) (is : List Nat) : State :=
  is.foldl (fun t i =>
    let q := t.parcel p i
    let t := t.modRound p (fun r =>
      match q.prSlot with
      | some k => { r with pr := { r.pr with used := r.pr.used.filter (· != k) } }
      | none => r)
    t.modParcel p i (fun _ => Parcel.reset)) s

/-- Return a parcel: its slot is free, as is a poste restante slot, and no valid copy exists (R220). -/
def State.returnParcel (s : State) (p i : Nat) : State :=
  let t := s.modRound p (fun r =>
    match (s.parcel p i).prSlot with
    | some k => { r with pr := { r.pr with used := r.pr.used.filter (· != k) } }
    | none => r)
  t.modParcel p i (fun x =>
    { x with state := .returned, pln := 0, check := none, prSlot := none, lost := x.lost + x.filled, filled := 0 })

/-- Subtract 1 from the sharers of a prefix entry's parcels; those that reach 0 become free (R215). -/
def State.unshare (s : State) (p : Nat) (is : List Nat) : State :=
  is.foldl (fun t i =>
    if (t.parcel p i).sharers ≤ 1 then t.freeParcels p [i]
    else t.modParcel p i (fun x => { x with sharers := x.sharers - 1 })) s

/-- Every ledger index of a prefix entry. -/
def State.prefixParcels (s : State) (p : Nat) (e : Prefix) : List Nat :=
  e.map.flatMap (s.setOf p false) ++ e.draftMap.flatMap (s.setOf p true)

/-! ### Budgets (08 R233, R234) -/

/-- PART_BUDGET_n as the last built sheet took it. -/
def Round.budget (r : Round) (n : Nat) : W64 := Tab.get (fun _ => 0) r.budgets n

/-- Tokens in a bucket. -/
def Round.bucket (r : Round) (n : Nat) : Int := Tab.get (fun _ => 0) r.buckets n

/-- Depth of a bucket. -/
def Round.depth (r : Round) (n : Nat) : Int := fld (r.budget n) 63 40

/-- Add tokens to a bucket, which stays between -depth and depth. -/
def Round.give (r : Round) (n : Nat) (c : Int) : Round :=
  { r with buckets := Tab.set (fun _ => 0) r.buckets n (max (-r.depth n) (min (r.depth n) (r.bucket n + c))) }

/-- Reserve the charges of items, or with `sign` 1 return them (R234). -/
def Round.reserve (r : Round) (sign : Int) (its : List Item) : Round :=
  its.foldl (fun q it => match it.charge with
    | some (n, c) => q.give n (sign * (c : Int))
    | none => q) r

/-- The charges that the standing sheet reserved return to their buckets. -/
def Round.refund (r : Round) : Round :=
  match r.sheet with
  | some z => r.reserve 1 z.items
  | none => r

/-- The budgets and weights that the registers hold apply from now on (R233). -/
def State.takeBudgets (s : State) (p : Nat) : State :=
  s.modRound p (fun r => { r with
    budgets := (List.range 64).foldl (fun m n => Tab.set (fun _ => 0) m n (s.partReg p (0x100 + 8 * n))) [],
    beWeights := s.partReg p 0x58 })

/-- The lowest valid budget entry of a tenant (R233). -/
def budgetFor (get : Nat → W64) (tenant : Nat) : Option Nat :=
  (List.range 64).find? (fun n => bitAt (get n) 16 && fld (get n) 15 0 == tenant)

/-- The budget entry of a tenant. -/
def State.budgetOf (s : State) (p tenant : Nat) : Option Nat := budgetFor (s.round p).budget tenant

/-! ### Sequences -/

/-- Token positions whose keys and values are committed: the prompt tokens prefilled, then every generated token but the
last (R209, R210, log 21). -/
def RoundEntry.kv (e : RoundEntry) : Nat := e.prefilled + (e.generated - 1)

/-- The private sets of a sequence: what its map holds beyond its prefix entry's spans. -/
def State.privateSets (s : State) (p i : Nat) (draft : Bool) : List Nat :=
  match s.seqAt p i with
  | none => []
  | some e => (if draft then e.log.draftMap else e.log.map).filter (fun b => !(s.parcel p b).isShared)

/-- Every private ledger index of a sequence. -/
def State.privateParcels (s : State) (p i : Nat) : List Nat :=
  (s.privateSets p i false).flatMap (s.setOf p false) ++ (s.privateSets p i true).flatMap (s.setOf p true)

/-- Whether some parcel of a sequence's map is in a state. -/
def State.hasParcel (s : State) (p : Nat) (e : RoundEntry) (f : ParcelState → Bool) : Bool :=
  (e.log.map.flatMap (s.setOf p false) ++ e.log.draftMap.flatMap (s.setOf p true)).any (fun i => f (s.parcel p i).state)

/-- The state a sequence resumes in. -/
def RoundEntry.activeState (e : RoundEntry) : SeqState := if e.prefilled < e.promptLen then .prefill else .decode

/-! ### The journal (19 R453 to R456) -/

/-- The journal ring of partition p's function. -/
def State.journalRing (s : State) (p : Nat) : Option Nat :=
  (List.range 16).find? (fun r => s.ringOn (p + 1) r && s.ringType (p + 1) r == 7)

/-- Entries that a SUBMIT's PROMPT record takes in journal ring j, or all of them (19 R454, R455; 11 R309). -/
def State.promptRoom (s : State) (fn j : Nat) (d : Line) : Nat :=
  min (ceilDiv (64 + 4 * lineNat d 16 4) 64) (s.ringEntries fn j)

/-- Journal entries reserved for inputs that are being read: a poll, descriptors, prompts (11 R309). -/
def State.journalHeld (s : State) (p j : Nat) : Nat :=
  2 * b2n (s.fn (p + 1)).pollOut + ((List.range 16).map (fun r => 2 * (s.ring (p + 1) r).fetching)).sum +
    ((s.round p).admitting.map (fun a => s.promptRoom (p + 1) j a.desc)).sum

/-- Whether the journal has room for n entries beside those reserved, or nothing is recorded (11 R309). -/
def State.journalRoom (s : State) (p n : Nat) : Bool :=
  !(s.part p).journal.recording ||
    (match s.journalRing p with
     | some r => (s.ring (p + 1) r).backlog.isEmpty && decide (n + s.journalHeld p r ≤ s.ringFree (p + 1) r)
     | none => true)

/-- Entries of the journal that a SUBMIT's prompt needs. -/
def State.promptEntries (s : State) (fn : Nat) (d : Line) : Nat :=
  match s.journalRing (fn - 1) with
  | some j => s.promptRoom fn j d
  | none => 0

/-- Write a journal record: its 24-byte header and its body in consecutive entries (R454). -/
def State.journal (s : State) (p typ : Nat) (body : List Byte) : State :=
  if !(s.part p).journal.recording then s
  else match s.journalRing p with
    | none => s
    | some r =>
      let n := ceilDiv (24 + body.length) 64
      let head := toBytes 1 typ ++ toBytes 3 n ++ toBytes 4 (s.part p).journal.seq ++ toBytes 8 (s.round p).step.toNat ++
        toBytes 8 s.nowNat
      let bytes := padTo (64 * n) (head ++ body)
      let t := s.modPart p (fun x => { x with journal := { x.journal with seq := x.journal.seq + 1 } })
      (chunks 64 n bytes).foldl (fun t e => t.putRing (p + 1) r e) t

/-- Module time as the round of partition p reads it: a replay takes it from its TIME record, a free value (R456, R460;
log 23). -/
def State.roundNow (s : State) (p : Nat) : W64 := if s.replaying p then s.freeVal else s.time.now

/-- The read of module time that `roundNow` gave, in a TIME record (R455, R456). -/
def State.journalTime (s : State) (p purpose : Nat) : State :=
  let t := s.journal p 0x06 (toBytes 1 purpose ++ toBytes 7 0 ++ toBytes 8 (s.roundNow p).toNat)
  if s.replaying p then t.useFree else t

/-- A mark of module time already served. -/
def State.mark (s : State) (k : Nat) : Nat := (Tab.get (fun _ => 0) s.time.marks k).toNat

/-- Set a mark. -/
def State.setMark (s : State) (k n : Nat) : State :=
  { s with time := { s.time with marks := Tab.set (fun _ => 0) s.time.marks k (BitVec.ofNat 64 n) } }

/-- The partition records or replays: module time is read for its round through TIME records alone (R456). -/
def State.journaled (s : State) (p : Nat) : Bool := (s.part p).journal.recording || s.replaying p

/-- Each bucket gains rate tokens for every whole ms since the last refill, up to depth (08 R234; R456). -/
def State.refillBudgets (s : State) (p : Nat) : State :=
  let ms := (s.roundNow p).toNat / 1000000
  let old := s.mark (100 + p)
  if ms ≤ old then s
  else
    (List.range 64).foldl (fun t n =>
      t.modRound p (fun r =>
        let gain : Int := (fld (r.budget n) 39 20 * (ms - old) : Nat)
        { r with buckets := Tab.set (fun _ => 0) r.buckets n (min (r.depth n) (r.bucket n + gain)) })) (s.setMark (100 + p) ms)

/-- A replay stops with a reason at the present step, or keeps the step of its first mismatch (R459). -/
def State.failReplay (s : State) (p reason : Nat) : State :=
  s.modPart p (fun x =>
    let j := x.journal
    if j.replay = 1 then
      { x with journal := { j with replay := 3, reason := reason, stepAt := if j.mismatched then j.stepAt else x.round.step } }
    else x)

/-- A HAPPENING record (R455). A return or an abandonment in a replay is one that the recorded journal holds, or stops the
replay with reason 7: a free choice (R459, R461; log 23). -/
def State.journalHappening (s : State) (p what cause : Nat) : State :=
  let t := s.journal p 0x0A (toBytes 1 what ++ toBytes 3 0 ++ toBytes 4 cause)
  if !s.replaying p || decide (2 < what) then t
  else if bitAt s.freeVal 0 then t.useFree.failReplay p 7
  else t.useFree

/-! ### Completion records of request class (R231) -/

/-- The 64 bytes of a completion record. -/
def requestRecord (typ status tenant req computed reused delivered cancelled recomputed promoted admitted ended pfx flags
    step : Nat) : List Byte :=
  toBytes 1 typ ++ toBytes 1 status ++ toBytes 2 tenant ++ toBytes 4 req ++ toBytes 4 computed ++ toBytes 4 reused ++
    toBytes 4 delivered ++ toBytes 4 cancelled ++ toBytes 4 recomputed ++ toBytes 4 promoted ++ toBytes 8 admitted ++
    toBytes 8 ended ++ toBytes 1 pfx ++ toBytes 1 flags ++ toBytes 6 0 ++ toBytes 8 step

/-- The record of a refused request or of a CANCEL, PREFIX or HINT. -/
def State.answer (s : State) (p fn ring typ status tenant req : Nat) (admitted : Nat) : State :=
  (s.journalTime p 4).putRing fn ring
    (requestRecord typ status tenant req 0 0 0 0 0 0 admitted (s.roundNow p).toNat 0 0 (s.round p).step.toNat)

/-- Return the token entry of an item that writes none. -/
def State.returnToken (s : State) (p : Nat) (it : Item) : State :=
  match it.ring with
  | some r => s.modRing (p + 1) r (fun x => { x with reserved := x.reserved - 1 })
  | none => s

/-- A sequence leaves the round: its private parcels are free, its prefix entry loses a holder, its entry is free
(R215, R219, R243). -/
def State.dropSeq (s : State) (p i : Nat) : State :=
  match s.seqAt p i with
  | none => s
  | some e =>
    let t := s.freeParcels p (s.privateParcels p i)
    let t := match e.prefixEntry with
      | some k => t.modPrefix p k (fun x => { x with refs := x.refs - 1 })
      | none => t
    let t := t.modRound p (fun r => { r with fetchBack := r.fetchBack.filter (· != i), hinted := r.hinted.filter (· != i) })
    t.setSeq p i none

/-- A request ends: its completion record, then its entry and parcels are free (R231, R243). -/
def State.endSeq (s : State) (p i status : Nat) : State :=
  match s.seqAt p i with
  | none => s
  | some e =>
    let l := e.log
    let flags := b2n e.flags.late + 2 * b2n e.flags.everPromoted + 4 * b2n e.flags.cancelled
    ((s.journalTime p 4).putRing (p + 1) e.complRing
      (requestRecord 0x01 status e.tenant e.requestId l.computed l.reused l.delivered l.cancelledTokens l.recomputed
        l.promotedTokens l.admittedAt.toNat (s.roundNow p).toNat l.prefixNote flags (s.round p).step.toNat)).dropSeq p i

/-- Every live request of a partition ends with a status, in ascending round index, and its admissions too (R346). -/
def State.endRequests (s : State) (p status : Nat) : State :=
  let t := (s.seqs p).foldl (fun t e => t.endSeq p e.1 status) s
  let t := (s.round p).admitting.foldl (fun t a =>
    t.answer p a.fn (fld a.desc 431 428) 0x01 status (fld a.desc 31 16) (fld a.desc 63 32) a.admittedAt.toNat) t
  t.modRound p (fun r => { r with admitting := [] })

/-- The round, the ledger and the prefix table are emptied; PART_STEP and the model stand, poste restante slots are free
(R346), and so are the charges that the lost step reserved (08 R234). -/
def State.emptyRound (s : State) (p : Nat) : State :=
  s.modRound p (fun r =>
    { r.refund with
      entries := [], ledger := [], prefixes := [], sheet := none, causes := [], reissue := 0, strikes := 0, excluded := [],
      abandoning := false, admitting := [], owed := [], pr := { r.pr with used := [] }, lastLc := [], allocWait := none,
      fetchBack := [], hinted := [], toReturn := [] })

/-- Set the reissue state of a circular or stack read that met a bad parcel: a cause of abandonment (R221, R245). -/
def State.addCause (s : State) (p : Nat) (c : AbandonCause) : State :=
  s.modRound p (fun r => { r with causes := if r.causes.contains c then r.causes else r.causes ++ [c] })

end Sys2Proof.Machine
end

