-- ==== Sys2Proof/Machine/Trans.lean ====
section
/-! DEFINITION. The transcendental results of 02 R35 and 06 R162: each is the exact value of the function at its FP32
input, rounded once by 04 R105. Reciprocal and reciprocal square root are rounded from exact integers; 2^x, sine and
cosine from an enclosure fine enough to decide the rounding (log 12). -/

namespace Sys2Proof.Machine

/-- Integer square root by digits: the greatest r with r * r ≤ n, for n below 4^k. -/
def isqrt : Nat → Nat → Nat
  | 0, _ => 0
  | k + 1, n =>
    let r := 2 * isqrt k (n / 4)
    if (r + 1) * (r + 1) ≤ n then r + 1 else r

/-- 1 ÷ x (v.rcp): the reciprocal of ±0 is ±infinity and of ±infinity ±0 (02 R35). -/
def rcp32 (w : W32) : W32 :=
  match ex32 w with
  | .nan => 0x7FC00000#32
  | .inf s => round32 (.fin s 0 0)
  | .fin s 0 _ => round32 (.inf s)
  | .fin s m e => BitVec.ofNat 32 (narrowQ .fp32 s (asQ m e).2 (asQ m e).1)

/-- 1 ÷ √x (v.rsqrt, FRSQ). The scaled root is taken with a sticky half unit when it is not exact, which rounds as the
true value does. -/
def rsqrt32 (w : W32) : W32 :=
  match ex32 w with
  | .nan => 0x7FC00000#32
  | .inf s => if s then 0x7FC00000#32 else 0
  | .fin s 0 _ => round32 (.inf s)
  | .fin true _ _ => 0x7FC00000#32
  | .fin false m e =>
    let q := asQ m e
    let n := q.2 * 2 ^ 512 / q.1
    let exactQ := n * q.1 == q.2 * 2 ^ 512
    let r := isqrt 400 n
    if exactQ && r * r == n then BitVec.ofNat 32 (narrowQ .fp32 false r (2 ^ 256))
    else BitVec.ofNat 32 (narrowQ .fp32 false (2 * r + 1) (2 ^ 257))

/-- Enclosures of 2^f for a binary fraction f: `lo` and `hi` are in units of 2^-P; each step takes one more bit of f and
the square root of the current root of two. -/
def exp2Frac (P : Nat) : Nat → Nat → Nat → Nat → Nat → Nat × Nat
  -- fuel bits left, remaining bits of f (as a number of that many bits), enclosure of the root, and nothing else
  | 0, _, _, _, _ => (2 ^ P, 2 ^ P)
  | k + 1, f, rlo, rhi, _ =>
    let rest := exp2Frac P k (f % 2 ^ k) (isqrt (P + 2) (rlo * 2 ^ P)) (isqrt (P + 2) (rhi * 2 ^ P) + 1) 0
    if f / 2 ^ k % 2 = 1 then (rest.1 * rlo / 2 ^ P, rest.2 * rhi / 2 ^ P + 1) else rest

/-- 2^x (v.exp2, EXPM): 2^+infinity is +infinity, 2^-infinity is +0 (02 R35). -/
def exp2_32 (w : W32) : W32 :=
  match ex32 w with
  | .nan => 0x7FC00000#32
  | .inf s => if s then 0 else 0x7F800000#32
  | .fin s m e =>
    if ltEx (.fin s m e) (.fin true 160 0) then 0
    else if ltEx (.fin false 130 0) (.fin s m e) then 0x7F800000#32
    else
      let t := (-e).toNat
      let v : Int := (if s then -1 else 1) * (if 0 ≤ e then (m : Int) * 2 ^ e.toNat else m)
      let n : Int := v.fdiv (2 ^ t)
      let f : Nat := (v - n * 2 ^ t).toNat
      let out (a : Nat) (P : Nat) : Nat :=
        if 0 ≤ n then narrowQ .fp32 false (a * 2 ^ n.toNat) (2 ^ P) else narrowQ .fp32 false a (2 ^ (P + (-n).toNat))
      if f = 0 then BitVec.ofNat 32 (out 1 0)
      else
        let P := 256
        let root := isqrt (P + 2) (2 * 2 ^ P * 2 ^ P)
        let r := exp2Frac P t f root (root + 1) 0
        if out r.1 P = out r.2 P then BitVec.ofNat 32 (out r.1 P) else Config.unresolvedRounding 0 w

/-- Partial sums of arctan(1/k) in units of 2^-P. -/
def atanInv (P k : Nat) : Nat → Nat → Int → Int
  | 0, _, _ => 0
  | n + 1, i, p => p / (2 * i + 1) - atanInv P k n (i + 1) (p / (k * k))

/-- π in units of 2^-P, from Machin's identity. -/
def piFix (P : Nat) : Int :=
  4 * (4 * atanInv P 5 (P / 4 + 8) 0 ((2 ^ P : Nat) / 5) - atanInv P 239 (P / 14 + 8) 0 ((2 ^ P : Nat) / 239))

/-- The alternating series Σ (-1)^i r^(2i+b) / (2i+b)! from a first term, in units of 2^-P; r2 is r squared. -/
def trigSeries (P : Nat) (r2 : Int) : Nat → Nat → Int → Int
  | 0, _, _ => 0
  | n + 1, i, t => t - trigSeries P r2 n (i + 2) (t * r2 / 2 ^ P / ((i + 1) * (i + 2)))

/-- Sine (cos = false) or cosine of an FP32 angle in radians, reduced exactly (02 R35). -/
def trig32 (cos : Bool) (w : W32) : W32 :=
  match ex32 w with
  | .nan => 0x7FC00000#32
  | .inf _ => 0x7FC00000#32
  | .fin s 0 e => if cos then 0x3F800000#32 else round32 (.fin s 0 e)
  | .fin s m e =>
    let P := 640
    let x : Int := (if s then -1 else 1) * (if 0 ≤ e then (m : Int) * 2 ^ e.toNat * 2 ^ P else (m : Int) * 2 ^ P / 2 ^ (-e).toNat)
    let half := piFix (P + 160)
    -- the quadrant count, from the finer π, then the rest of the angle
    let k : Int := (x * 2 ^ 161 + half / 2).fdiv half
    let r : Int := (x * 2 ^ 161 - k * half).fdiv (2 ^ 161)
    let r2 := r * r / 2 ^ P
    let q := (k + (if cos then 1 else 0)) % 4
    let val := if q % 2 = 0 then trigSeries P r2 120 1 r else trigSeries P r2 120 0 (2 ^ P)
    let val := if q = 2 ∨ q = 3 then -val else val
    let tol : Int := 2 ^ 120
    let out (a : Int) : Nat := narrowQ .fp32 (decide (a < 0)) a.natAbs (2 ^ P)
    if out (val - tol) = out (val + tol) then BitVec.ofNat 32 (out val)
    else Config.unresolvedRounding (if cos then 1 else 2) w

/-- Sine of the exponent lanes (02 R35, 06 R162). -/
def sin32 (w : W32) : W32 := trig32 false w

/-- Cosine of the exponent lanes (02 R35, 06 R162). -/
def cos32 (w : W32) : W32 := trig32 true w

end Sys2Proof.Machine
end

