-- ==== Sys2Proof/Machine/Sequencer.lean ====
section
/-! DEFINITION. The stack sequencer: command packets, start queues and permits, refresh, merge slots (05 R149 to R161,
06 R164, R166 to R170, R183 to R187). -/

namespace Sys2Proof.Machine

/-- The engine of a bank group: its number is bits [33:22] of its lines' PLNs (R133). -/
def engineOf (st channel pc bg : Nat) : Nat := 256 * st + 8 * channel + 4 * pc + bg

end Sys2Proof.Machine

namespace Sys2Proof

open Machine


/-! ### Packets (R149) -/

def Packet.typ (pk : Packet) : Nat := fld pk.w0 5 0
def Packet.tag (pk : Packet) : Nat := fld pk.w0 15 8
def Packet.pc (pk : Packet) : Nat := fld pk.w0 16 16
def Packet.bg (pk : Packet) : Nat := fld pk.w0 18 17
def Packet.index (pk : Packet) : Nat := fld pk.w0 27 19
def Packet.firstReg (pk : Packet) : Nat := fld pk.w0 31 28
def Packet.channels (pk : Packet) : List Nat := setBits 32 (fld pk.w0 63 32)
def Packet.count (pk : Packet) : Nat := fld pk.w1 4 0

/-- The engines a packet addresses, in ascending channel. -/
def Packet.engines (pk : Packet) (st : Nat) : List Nat := pk.channels.map (fun c => engineOf st c pk.pc pk.bg)

/-- Reserved bits are zero and the count is that of the payload and in the type's range (R149, R151 code 0x01). -/
def Packet.formOk (pk : Packet) (lo hi : Nat) : Bool :=
  fld pk.w0 7 6 == 0 && fld pk.w1 7 5 == 0 && fld pk.w1 63 13 == 0 && pk.count == pk.payload.length &&
    decide (lo ≤ pk.count) && decide (pk.count ≤ hi)

/-- The partition a source counts as in error records: 0xFF for firmware (14 R362). -/
def PacketSource.part : PacketSource → Nat
  | .firmware => 0xFF
  | .partition p => p.val

end Sys2Proof

namespace Sys2Proof.Machine

/-- A status packet (R151); the sequencer's line latches (12 R329). -/
def State.answerPacket (s : State) (st : Nat) (src : PacketSource) (tag code : Nat) (words : List W64) : State :=
  (s.emit (.status st src tag code words)).latch st

/-- An addressed channel lies outside the channel groups of the source partition (R151 code 0x02). -/
def State.foreign (s : State) (st : Nat) (src : PacketSource) (pk : Packet) : Bool :=
  match src with
  | .firmware => false
  | .partition p => pk.channels.any (fun c => !s.holdsGroup p.val (8 * st + c / 4))

/-- Running, queued or suspended (R151 code 0x05). -/
def Engine.busy (e : Engine) : Bool :=
  decide (e.mode = .running) || decide (e.mode = .queued) || decide (e.mode = .suspended)

/-- Command register r. -/
def Engine.creg (e : Engine) (r : Nat) : W64 := Tab.get (fun _ => 0) e.c r

/-- Command registers with a payload written from a register on. -/
def writeRegs (c : Tab W64) (first : Nat) (ws : List W64) : Tab W64 := Tab.setList (fun _ => 0) c first ws

/-! ### The library and the guard (06 R167 to R170, R189) -/

/-- Entry of the loaded library by index. -/
def State.libEntry (s : State) (index : Nat) : Option (W64 × W64) :=
  match s.sec.library with
  | some l => l.entries[index]?
  | none => none

def leEntry (e : W64 × W64) : Nat := fld e.1 8 0
def leLength (e : W64 × W64) : Nat := fld e.1 18 9
def leAddr (e : W64 × W64) (r : Nat) : Bool := bitAt e.1 (19 + r)
def leWrite (e : W64 × W64) (r : Nat) : Bool := bitAt e.1 (35 + r)
def lePreReg (e : W64 × W64) : Nat := fld e.1 54 51
def lePreLines (e : W64 × W64) : Nat := fld e.1 63 55

/-- Lines of an address word (R167). -/
def awLines (w : W64) : Nat := if fld w 39 30 = 0 then 1024 else fld w 39 30

/-- A line lies in a ready compute region that a run of the source may read, or write (R168, R170): the compute map. -/
def State.computeLine (s : State) (src : PacketSource) (write : Bool) (pln : Nat) : Bool :=
  match (s.regionOf pln).map s.region with
  | none => false
  | some r =>
    r.compute && r.st == 2 &&
      (match src with
       | .firmware => r.fwOwned
       | .partition p => !r.fwOwned && (r.owner == p.val || (!write && r.shareMask.testBit p.val)))

/-- Every line of an address register's range passes R168. -/
def State.rangeOk (s : State) (src : PacketSource) (st : Nat) (write : Bool) (w : W64) : Bool :=
  decide (fld w 29 0 + awLines w ≤ 2 ^ 30) &&
    (List.range (awLines w)).all (fun k => s.computeLine src write (2 ^ 30 * st + fld w 29 0 + k))

/-- Every address register of an entry passes R168. -/
def State.addressesOk (s : State) (src : PacketSource) (st : Nat) (le : W64 × W64) (c : Tab W64) : Bool :=
  (List.range 16).all (fun r => !leAddr le r || s.rangeOk src st (leWrite le r) (Tab.get (fun _ => 0) c r))

/-! ### Start queues and permits (R152, R153) -/

/-- Start queue of a pseudo-channel (2 × channel + pc) of a stack. -/
def State.startQ (s : State) (st k : Nat) : List Nat := Tab.get (fun _ => []) (s.stack st).starts k

/-- Replace a start queue. -/
def State.setStartQ (s : State) (st k : Nat) (q : List Nat) : State :=
  s.modStack st (fun x => { x with starts := Tab.set (fun _ => []) x.starts k q })

/-- Pseudo-channel of an engine within its stack. -/
def pcOfEngine (e : Nat) : Nat := (e / 4) % 64

/-- Put an engine at the tail, or at the head, of its start queue. -/
def State.enqueueStart (s : State) (e : Nat) (head : Bool) : State :=
  let q := s.startQ (e / 256) (pcOfEngine e)
  s.setStartQ (e / 256) (pcOfEngine e) (if head then e :: q else q ++ [e])

/-- Take an engine out of its start queue. -/
def State.unqueue (s : State) (e : Nat) : State :=
  s.setStartQ (e / 256) (pcOfEngine e) ((s.startQ (e / 256) (pcOfEngine e)).filter (· != e))

/-- Permits of a pseudo-channel at a compute level (R153). -/
def permitsAt (level pc : Nat) : Nat :=
  match level, pc with
  | 0, _ => 0 | 1, 0 => 1 | 1, _ => 0 | 2, _ => 1 | 3, 0 => 2 | 3, _ => 1 | _, _ => 2

/-- Engines of a pseudo-channel that hold a permit. -/
def State.permitsHeld (s : State) (e : Nat) : Nat :=
  ((List.range 4).filter (fun g => (s.engine (4 * (e / 4) + g)).permit)).length

/-- Permits of the pseudo-channel of an engine. -/
def State.permitsOf (s : State) (e : Nat) : Nat := permitsAt (s.stack (e / 256)).level ((e / 4) % 2)

/-- The pseudo-channel holds more permits than its level allows (R154). -/
def State.surplus (s : State) (e : Nat) : Bool := decide (s.permitsOf e < s.permitsHeld e)

/-! ### Refresh debt (R156) -/

/-- Refresh debt of a bank (4 × engine + bank). -/
def State.debtOf (s : State) (b : Nat) : Nat := Tab.get (fun _ => 0) (s.stack (b / 1024)).debt (b % 1024)

/-- Set the refresh debt of a bank. -/
def State.setDebt (s : State) (b n : Nat) : State :=
  s.modStack (b / 1024) (fun x => { x with debt := Tab.set (fun _ => 0) x.debt (b % 1024) n })

/-- Pay the debt of all four banks of an engine's group. -/
def State.payDebt (s : State) (e : Nat) : State := (List.range 4).foldl (fun t k => t.setDebt (4 * e + k) 0) s

/-- Some bank of an engine's group has reached debt 8. -/
def State.debtFull (s : State) (e : Nat) : Bool := (List.range 4).any (fun k => decide (8 ≤ s.debtOf (4 * e + k)))

/-! ### Engine state -/

/-- A fault is found: the engine issues nothing further (06 R187). -/
def State.engineFail (s : State) (e code : Nat) (line : Option Nat) : State :=
  s.modEngine e (fun x => { x with failing := some (code, line) })

/-- A slice ends; one that has passed 1,200 cycles counts as an overrun once (06 R183). -/
def Engine.endSlice (x : Engine) : Engine :=
  { x with overruns := satAdd 65535 x.overruns (b2n (decide (1200 < x.slice) && !x.overCounted)), overCounted := true }

/-- A forced suspension in an END's drain leaves the drain to be gone on with (06 R165, R185). -/
def Drain.kept : Drain → Drain
  | .ending => .ending
  | _ => .none

/-- The engine is idle without a run (ABORT, END). -/
def Engine.toIdle (x : Engine) : Engine :=
  { x.endSlice with
    mode := .idle, permit := false, streams := [], units := [], pendSuspend := false, failing := none, drain := .none, rest := false,
    resume := false, preloaded := false }

/-- A suspended engine: its control state is saved in place and its permit released (06 R163). -/
def Engine.toSuspended (x : Engine) : Engine :=
  { x.endSlice with mode := .suspended, permit := false, pendSuspend := false, drain := x.drain.kept, rest := false }

/-- A withdrawn engine waits with its state at the head of its start queue (R154). -/
def State.withdraw (s : State) (e : Nat) : State :=
  (s.modEngine e (fun x =>
    { x.endSlice with
      mode := .queued, permit := false, drain := x.drain.kept, rest := false, resume := true, preloaded := true })).enqueueStart e true

/-- The state word of an engine (06 R166). -/
def Engine.word (x : Engine) : W64 :=
  let m : Nat := match x.mode with
    | .idle => 0 | .queued => 1 | .running => 2 | .suspended => 3 | .faulted => 4
  BitVec.ofNat 64 (m + at_ 3 x.fault + at_ 11 (x.pc % 512) + at_ 20 x.index + at_ 29 x.forced + at_ 45 x.overruns)

/-! ### Packets that act -/

/-- New WRITE_CR and START packets are held: a library change is under way (06 R191), or the packet addresses an engine of a die
whose copy is about to end (20 R472 step 4). -/
def State.holdsPackets (s : State) (st : Nat) (pk : Packet) : Bool :=
  s.sec.loading ||
    (let x := (s.stack st).spare
     x.holding && pk.channels.any (fun c => c / 2 == x.replaced))

/-- Act on a WRITE_CR (R150, R151). -/
def State.doWriteCr (s : State) (st : Nat) (src : PacketSource) (pk : Packet) : State :=
  if !pk.formOk 0 16 || decide (16 < pk.firstReg + pk.count) then s.answerPacket st src pk.tag 1 []
  else if s.foreign st src pk then s.answerPacket st src pk.tag 2 []
  else if (pk.engines st).any (fun e => (s.engine e).busy) then s.answerPacket st src pk.tag 5 []
  else
    ((pk.engines st).foldl (fun t e =>
      t.modEngine e (fun x => { x with c := writeRegs x.c pk.firstReg pk.payload })) s).answerPacket st src pk.tag 0 []

/-- The refusal code of a START, none when it is accepted (R151, 06 R168). -/
def State.startRefusal (s : State) (st : Nat) (src : PacketSource) (pk : Packet) : Option Nat :=
  if !pk.formOk 0 16 || decide (16 < pk.firstReg + pk.count) then some 1
  else if s.foreign st src pk then some 2
  else match s.libEntry pk.index with
    | none => some 4
    | some le =>
      if (pk.engines st).any (fun e => (s.engine e).busy) then some 5
      else if (pk.engines st).any (fun e =>
          !s.addressesOk src st le (writeRegs (s.engine e).c pk.firstReg pk.payload)) then some 6
      else if pk.channels.any (fun c => decide (8 ≤ (s.startQ st (2 * c + pk.pc)).length)) then some 7
      else none

/-- A packet of a partition's round builder has arrived (08 R240). -/
def State.received (s : State) (st : Nat) (src : PacketSource) : State :=
  match src with
  | .firmware => s
  | .partition p =>
    let n := Tab.get (fun _ => 0) (s.round p.val).owed st
    if n = 0 then s else s.modRound p.val (fun r => { r with owed := Tab.set (fun _ => 0) r.owed st (n - 1) })

/-- Act on a START: the registers, the start queue, the preload (06 R164 stages 1 to 4). -/
def State.doStart (s : State) (st : Nat) (src : PacketSource) (pk : Packet) : State :=
  let s := s.received st src
  match s.startRefusal st src pk with
  | some code => s.answerPacket st src pk.tag code []
  | none =>
    let pre := match s.libEntry pk.index with
      | some le => lePreLines le
      | none => 0
    ((pk.engines st).foldl (fun t e =>
      (t.modEngine e (fun x =>
        { x with
          mode := .queued, fault := 0, index := pk.index, tag := pk.tag, src := src, permit := false, resume := false,
          preloaded := decide (pre = 0), pendSuspend := false, failing := none, drain := .none, rest := false, streams := [], units := [],
          c := writeRegs x.c pk.firstReg pk.payload })).enqueueStart e false) s).answerPacket st src pk.tag 0 []

/-- The types of R150. -/
def packetTypes : List Nat := [0x01, 0x02, 0x03, 0x04, 0x05, 0x06, 0x07, 0x10, 0x11, 0x12, 0x13, 0x14]

/-- A packet of the row's type, held or acted on (R149; 06 R191). A packet of a reserved type is refused (R151 code 0x01); one of
another row's type is that row's. -/
def State.packet (s : State) (st : Nat) (src : PacketSource) (pk : Packet) (typ : Nat) (hold : Bool) (f : State → State) :
    State :=
  if !packetTypes.contains pk.typ then s.answerPacket st src pk.tag 1 []
  else if pk.typ ≠ typ then s
  else if hold && s.holdsPackets st pk then s.modStack st (fun x => { x with heldPackets := x.heldPackets ++ [(src, pk)] })
  else f s

/-- WRITE_CR (05 R150). -/
def execWriteCr (st : StackId) (src : PacketSource) (pk : Packet) (s : State) : Host.Outcome State Fault Refusal :=
  .next (s.packet st.val src pk 0x01 true (fun t => t.doWriteCr st.val src pk))

/-- START (05 R150, 06 R164). -/
def execStart (st : StackId) (src : PacketSource) (pk : Packet) (s : State) : Host.Outcome State Fault Refusal :=
  .next (s.packet st.val src pk 0x02 true (fun t => t.doStart st.val src pk))

/-- Act on the held packets of a stack, in order, but for those that something still holds (06 R191 step 4; 20 R472 step 6). -/
def State.releaseHeld (s : State) (st : Nat) : State :=
  let ps := (s.stack st).heldPackets
  ps.foldl (fun t x =>
    if t.holdsPackets st x.2 then t.modStack st (fun y => { y with heldPackets := y.heldPackets ++ [x] })
    else if x.2.typ = 2 then t.doStart st x.1 x.2 else t.doWriteCr st x.1 x.2)
    (s.modStack st (fun x => { x with heldPackets := [] }))

/-- A packet that addresses engines and carries no payload (SUSPEND, RESUME, ABORT, STATUS): refused by R151, or accepted
with an act on each engine. -/
def State.plainPacket (s : State) (st : Nat) (src : PacketSource) (pk : Packet) (more : Option Nat) (f : State → Nat → State)
    (words : State → List W64) : State :=
  if !pk.formOk 0 0 then s.answerPacket st src pk.tag 1 []
  else if s.foreign st src pk then s.answerPacket st src pk.tag 2 []
  else match more with
    | some code => s.answerPacket st src pk.tag code []
    | none => ((pk.engines st).foldl f s).answerPacket st src pk.tag 0 (words s)

/-- A SUSPEND reaches one engine: it stops at its next YIELD; an engine without a run has nothing to stop. -/
def State.suspendOne (s : State) (e : Nat) : State :=
  s.modEngine e (fun x =>
    if x.mode = .running ∨ x.mode = .queued then { x with pendSuspend := true } else x)

/-- SUSPEND (05 R150). -/
def execSuspend (st : StackId) (src : PacketSource) (pk : Packet) (s : State) : Host.Outcome State Fault Refusal :=
  .next (s.packet st.val src pk 0x03 false (fun t =>
    t.plainPacket st.val src pk none State.suspendOne (fun _ => [])))

/-- A RESUME reaches one engine: a suspended one is validated and queued, or takes a guard fault (06 R168). -/
def State.resumeOne (src : PacketSource) (s : State) (e : Nat) : State :=
  let x := s.engine e
  if x.mode = .suspended ∧ x.failing = none then
    match s.libEntry x.index with
    | none => s.engineFail e 2 none
    | some le =>
      if s.addressesOk src (e / 256) le x.c then
        (s.modEngine e (fun y => { y with mode := .queued, resume := true, preloaded := true })).enqueueStart e false
      else s.engineFail e 2 none
  else s

/-- An engine suspends; while the library changes, or the copy of its die is about to end, it is resumed, so that its run ends (06 R191
step 2; 20 R472 step 4). -/
def State.suspendNow (s : State) (e : Nat) : State :=
  let t := s.modEngine e Engine.toSuspended
  let z := (s.stack (e / 256)).spare
  if s.sec.loading || (z.holding && e % 256 / 16 == z.replaced) then State.resumeOne (s.engine e).src t e else t

/-- RESUME (05 R150, 06 R168). -/
def execResume (st : StackId) (src : PacketSource) (pk : Packet) (s : State) : Host.Outcome State Fault Refusal :=
  .next (s.packet st.val src pk 0x04 false (fun t =>
    t.plainPacket st.val src pk
      (if pk.channels.any (fun c =>
          decide ((t.engine (engineOf st.val c pk.pc pk.bg)).mode = .suspended) &&
            decide (8 ≤ (t.startQ st.val (2 * c + pk.pc)).length)) then some 7 else none)
      (State.resumeOne src) (fun _ => [])))

/-- An ABORT reaches one engine: between two micro-instructions it is at a boundary, so its run ends at once, its state is
discarded and lines already written stay; the debt that an acting YIELD was to pay is paid (R150, 06 R185). -/
def State.abortOne (s : State) (e : Nat) : State :=
  let x := s.engine e
  if x.busy then
    let t := (s.unqueue e).modEngine e Engine.toIdle
    if x.drain = .yielding then t.payDebt e else t
  else s

/-- ABORT (05 R150). -/
def execAbort (st : StackId) (src : PacketSource) (pk : Packet) (s : State) : Host.Outcome State Fault Refusal :=
  .next (s.packet st.val src pk 0x05 false (fun t => t.plainPacket st.val src pk none State.abortOne (fun _ => [])))

/-- STATUS (05 R150, 06 R166). -/
def execStatus (st : StackId) (src : PacketSource) (pk : Packet) (s : State) : Host.Outcome State Fault Refusal :=
  .next (s.packet st.val src pk 0x06 false (fun t =>
    t.plainPacket st.val src pk none (fun u _ => u) (fun u => (pk.engines st.val).map (fun e => (u.engine e).word))))

/-! ### Merge slots (R157 to R161) -/

/-- Merge slot n of a stack. -/
def State.slot (s : State) (st n : Nat) : Option Slot := Tab.get (fun _ => none) (s.stack st).slots n

/-- Replace merge slot n. -/
def State.setSlot (s : State) (st n : Nat) (x : Option Slot) : State :=
  s.modStack st (fun y => { y with slots := Tab.set (fun _ => none) y.slots n x })

/-- Whether a source holds a slot: it goes with channel group n / 64 of the stack (R161). -/
def State.holdsSlot (s : State) (src : PacketSource) (st n : Nat) : Bool :=
  match src with
  | .firmware => true
  | .partition p => s.holdsGroup p.val (8 * st + n / 64)

/-- The refusal code of a MERGE_OPEN (R151, R158, R161). -/
def State.openRefusal (s : State) (st : Nat) (src : PacketSource) (pk : Packet) : Option Nat :=
  let w0 := pk.payload.getD 0 0
  let w1 := pk.payload.getD 1 0
  let n := fld w0 8 0
  let expected := fld w0 15 9
  let out := fld w1 31 0
  let cnt := fld w1 63 32
  if !pk.formOk 3 3 || fld w0 63 16 != 0 || pk.payload.getD 2 0 != 0 || expected == 0 || decide (64 < expected) ||
      out % 64 != 0 || cnt % 4 != 0 then some 1
  else if !s.holdsSlot src st n || (s.slot st n).isSome then some 8
  else match src with
    | .firmware => none
    | .partition p =>
      if s.window p.val (st / 4) < out + 4160 ∨ s.window p.val (st / 4) < cnt + 4 then some 8 else none

/-- Act on a MERGE_OPEN (R158). Firmware's slot writes the window of the partition that word 1 names. -/
def State.doMergeOpen (s : State) (st : Nat) (src : PacketSource) (pk : Packet) : State :=
  let s := s.received st src
  match s.openRefusal st src pk with
  | some code => s.answerPacket st src pk.tag code []
  | none =>
    let w0 := pk.payload.getD 0 0
    let w1 := pk.payload.getD 1 0
    let x : Slot :=
      { partition := (match src with | .firmware => fld pk.w1 10 8 | .partition p => p.val), src := src, tag := pk.tag,
        expected := fld w0 15 9, arrived := [], folded := 0, acc := [], out := fld w1 31 0, count := fld w1 63 32 }
    (s.setSlot st (fld w0 8 0) (some x)).answerPacket st src pk.tag 0 []

/-- MERGE_OPEN (05 R158). -/
def execMergeOpen (st : StackId) (src : PacketSource) (pk : Packet) (s : State) : Host.Outcome State Fault Refusal :=
  .next (s.packet st.val src pk 0x07 false (fun t => t.doMergeOpen st.val src pk))

/-- Write bytes into a partition's window of a quarter, unit by unit (02 R40, R42). -/
def State.windowPut (s : State) (p q off : Nat) (bs : List Byte) : State :=
  (chunks 64 (bs.length + 1) bs).zipIdx.foldl (fun t w =>
    t.modQuarter q (fun x => { x with qbuf := Tab.setList (fun _ => 0) x.qbuf (t.windowAddr p q (off + 64 * w.2)) w.1 })) s

/-- Fold two partial rows of one query row: maximum, sum, 128 accumulators (07 R204). -/
def foldRow (a b : List W32) : List W32 :=
  let ma := a.getD 0 0
  let mb := b.getD 0 0
  let m := fmaxN ma mb
  if m = 0xFF800000#32 then a
  else
    let fa := exp2_32 (fsub ma m)
    let fb := exp2_32 (fsub mb m)
    m :: List.zipWith (fun x y => fadd (fmul x fa) (fmul y fb)) (a.drop 1) (b.drop 1)

/-- Fold two partials row by row. -/
def foldPartial (a b : List (List W32)) : List (List W32) := if a.isEmpty then b else List.zipWith foldRow a b

/-- The bytes of a partial (06 R180). -/
def partialBytes (rows : List (List W32)) : List Byte := (rows.flatMap id).flatMap (fun w => toBytes 4 w.toNat)

/-- The position of the partial that folds next: in REPRODUCIBLE mode the least engine, once all have arrived (R159). -/
def Slot.next (x : Slot) (repro : Bool) : Option Nat :=
  if repro then
    if x.folded + x.arrived.length < x.expected then none
    else
      let es := x.arrived.map (·.1)
      some (posOf es (es.foldl min (es.headD 0)))
  else if x.arrived.isEmpty then none else some 0

/-- Deliver a folded slot: the result, then the completion count, and the slot closes (R160). -/
def State.deliver (s : State) (st n : Nat) (x : Slot) : State :=
  let q := st / 4
  let t := s.windowPut x.partition q x.out (partialBytes x.acc)
  let a := t.windowAddr x.partition q x.count
  let old := ofBytes (Tab.getList (fun _ => 0) (t.quarter q).qbuf a 4)
  (t.modQuarter q (fun y => { y with qbuf := Tab.setList (fun _ => 0) y.qbuf a (toBytes 4 (old + 1)) })).setSlot st n none

/-- MERGE_FOLD (05 R159, R160): one arrived partial is folded; the last one delivers the result. -/
def execMergeFold (st : StackId) (slot : Fin 512) (s : State) : Host.Outcome State Fault Refusal :=
  .next (match s.slot st.val slot.val with
    | none => s
    | some x =>
      match x.next (s.part x.partition).applied.repro with
      | none => s
      | some i =>
        match x.arrived[i]? with
        | none => s
        | some a =>
          let y := { x with arrived := x.arrived.eraseIdx i, folded := x.folded + 1, acc := foldPartial x.acc a.2 }
          if y.folded < y.expected then s.setSlot st.val slot.val (some y) else s.deliver st.val slot.val y)

/-! ### Firmware packets -/

/-- A packet of a type marked F: refused from a partition (R151 code 0x03). -/
def State.firmwarePacket (s : State) (st : Nat) (src : PacketSource) (pk : Packet) (ok : Bool) (f : State → State) : State :=
  if !ok then s.answerPacket st src pk.tag 1 []
  else match src with
    | .partition _ => s.answerPacket st src pk.tag 3 []
    | .firmware => (f s).answerPacket st src pk.tag 0 []

/-- Whether a line lies in a range of a stack. -/
def inRange (st first lines pln : Nat) : Bool :=
  decide (2 ^ 30 * st + first ≤ pln) && decide (pln < 2 ^ 30 * st + min (2 ^ 30) (first + lines))

/-- BLANK (05 R144, R150): every line of the placement holds the blank code. -/
def execBlank (st : StackId) (src : PacketSource) (pk : Packet) (first : BitVec 30) (lines : BitVec 31) (s : State) :
    Host.Outcome State Fault Refusal :=
  .next (s.packet st.val src pk 0x10 false (fun t =>
    t.firmwarePacket st.val src pk (pk.formOk 0 16) (fun u => u.blankWhere (inRange st.val first.toNat lines.toNat))))

/-- LEVEL (05 R150, R153, R154): new permits follow the level at once; a surplus is withdrawn at a YIELD. -/
def execLevel (st : StackId) (src : PacketSource) (pk : Packet) (s : State) : Host.Outcome State Fault Refusal :=
  .next (s.packet st.val src pk 0x12 false (fun t =>
    t.firmwarePacket st.val src pk (pk.formOk 1 1 && decide ((pk.payload.getD 0 0).toNat ≤ 4)) (fun u =>
      u.modStack st.val (fun x => { x with level := (pk.payload.getD 0 0).toNat }))))

/-! ### Preload, permits, refresh -/

/-- Write bytes into the local buffer from a unit on. -/
def Engine.setBuf (x : Engine) (unit : Nat) (bs : List Byte) : Engine :=
  { x with buf := Tab.setList (fun _ => 0) x.buf (128 * unit) bs }

/-- Read lines of a preload in order: the sequencer refuses one outside the source's compute regions (R141; fault 0x02), and the first
that fails its seal or is otherwise bad ends the read (06 R186 code 0x05). -/
def State.readLines (s : State) (e : Nat) : List Nat → State × List Byte × Option (Nat × Nat)
  | [] => (s, [], none)
  | pln :: rest =>
    if !s.computeLine (s.engine e).src false pln then (s, [], some (2, pln))
    else match s.readLine (sequencerOf pln) pln (s.engine e).src.part with
    | (t, none) => (t, [], some (5, pln))
    | (t, some l) =>
      match t.readLines e rest with
      | (u, bs, f) => (u, lineBytes l ++ bs, f)

/-- PRELOAD_COMPLETE (06 R164 stage 4): the declared lines are in the buffer from u0, or the START fails with fault 0x02 or 0x05. -/
def execPreloadComplete (e : EngineId) (s : State) : Host.Outcome State Fault Refusal :=
  .next (
    let x := s.engine e.val
    if x.mode = .queued ∧ !x.preloaded ∧ x.failing = none then
      match s.libEntry x.index with
      | none => s
      | some le =>
        let first := fld (x.creg (lePreReg le)) 29 0
        match s.readLines e.val ((List.range (lePreLines le)).map (fun k => 2 ^ 30 * (e.val / 256) + (first + k) % 2 ^ 30)) with
        | (t, bs, none) => t.modEngine e.val (fun y => { y.setBuf 0 bs with preloaded := true })
        | (t, _, some f) => t.engineFail e.val f.1 (some f.2)
    else s)

/-- PERMIT_GRANT (05 R152; 06 R164 stages 5 and 6, R183): the head of the start queue begins or continues. -/
def execPermitGrant (pc : PcId) (s : State) : Host.Outcome State Fault Refusal :=
  .next (
    let st := pc.val / 64
    match s.startQ st (pc.val % 64) with
    | [] => s
    | e :: q =>
      let x := s.engine e
      if x.preloaded ∧ x.failing = none ∧ s.permitsHeld e < s.permitsOf e then
        match s.libEntry x.index with
        | none => s
        | some le =>
          (s.setStartQ st (pc.val % 64) q).modEngine e (fun y =>
            if y.resume then { y with mode := .running, permit := true, resume := false, slice := 0, overCounted := false }
            else
              { y with mode := .running, permit := true, slice := 0, overCounted := false, pc := leEntry le, x := [],
                       streams := [] })
      else s)

/-- REFRESH_DUE (05 R156): the debt rises by one interval, to at most 8. -/
def execRefreshDue (b : BankId) (s : State) : Host.Outcome State Fault Refusal :=
  .next (s.setDebt b.val (satAdd 8 (s.debtOf b.val) 1))

/-- REFRESH (05 R155, R156): a due bank whose group does not compute is refreshed. -/
def execRefresh (b : BankId) (s : State) : Host.Outcome State Fault Refusal :=
  .next (if (s.engine (b.val / 4)).mode = .running then s else s.setDebt b.val (s.debtOf b.val - 1))

/-- FORCED_SUSPENSION (05 R156; 06 R184, R185): the debt of the group is paid and one forced yield counted; then a pending
SUSPEND or a withdrawal takes the engine, or it goes on with its permit; queued instructions are kept with the context. -/
def execForcedSuspension (e : EngineId) (s : State) : Host.Outcome State Fault Refusal :=
  .next (
    let x := s.engine e.val
    if x.mode = .running ∧ s.debtFull e.val ∧ x.failing = none then
      let t := (s.payDebt e.val).modEngine e.val (fun y => { y with forced := satAdd 65535 y.forced 1 })
      if x.pendSuspend then t.suspendNow e.val
      else if t.surplus e.val then t.withdraw e.val
      else t
    else s)

end Sys2Proof.Machine
end

