-- ==== Sys2Proof/Machine/Levels.lean ====
section
/-! DEFINITION. The in-stack work of a built route sheet, the numbers of its layers, and the compute level of a stack that it holds
(01 R25; 05 R154; 08 R237, R240; 17 R421). -/

namespace Sys2Proof.Machine

/-! ### Runs -/

/-- Engines that hold or await a run of partition p. -/
def State.runsOf (s : State) (p : Nat) : List Nat :=
  s.engines.filterMap (fun e => if e.2.busy && e.2.src.part == p then some e.1 else none)

/-- Runs of a partition that a stack holds or awaits. -/
def State.runsIn (s : State) (p st : Nat) : List Nat := (s.runsOf p).filter (fun e => e / 256 == st)

/-! ### The layers of a sheet

The layers of the main model have the numbers 0 to layers - 1. Layer l of the draft model in its pass j has the number
layers + j × draft_layers + l, and the passes come before the main model (R237; log 34). -/

/-- Draft-model passes that an item needs: one for each token it drafts, and one where a chunk fills the draft model's parcels. -/
def State.itemPasses (s : State) (p : Nat) (it : Item) : Nat :=
  match it.kind, s.seqAt p it.index with
  | .draft, _ => it.k
  | .prefill, some e => b2n e.flags.speculative
  | .recompute, some e => b2n e.flags.speculative
  | _, _ => 0

/-- Layer numbers of a sheet in the order in which they are sent. -/
def State.layerOrder (s : State) (p : Nat) (m : Model) (its : List Item) : List Nat :=
  let passes := if m.draft then (its.map (s.itemPasses p)).foldl max 0 else 0
  (List.range (passes * m.draftLayers)).map (m.layers + ·) ++ List.range m.layers

/-- Whether a layer number is of the draft model. -/
def Model.isDraft (m : Model) (n : Nat) : Bool := decide (m.layers ≤ n)

/-- The layer of its model that a number names, and the pass. -/
def Model.layerOf (m : Model) (n : Nat) : Nat := if m.isDraft n then (n - m.layers) % m.draftLayers else n
def Model.passOf (m : Model) (n : Nat) : Nat := (n - m.layers) / m.draftLayers

/-- Heads whose home stack in the layer of a number is `st`. -/
def Model.headsAt (m : Model) (n st : Nat) : List Nat :=
  let h := m.heads' (m.isDraft n)
  (List.range h).filter (fun k => homeStack h k (m.layerOf n) == st)

/-- Packets sent to a stack that it has not received. -/
def Round.owes (r : Round) (st : Nat) : Nat := Tab.get (fun _ => 0) r.owed st

/-- In-stack items of partition p's built sheet remain on a stack (01 R25): packets of its layers are still to be sent or to arrive, or
runs of the partition are still there. -/
def State.itemsRemain (s : State) (p st : Nat) : Bool :=
  match (s.round p).sheet, (s.round p).model with
  | some sh, some m =>
    m.inStack && !sh.items.isEmpty &&
      ((s.layerOrder p m sh.items).any (fun n => !(m.headsAt n st).isEmpty && !sh.sent.contains (st, n)) ||
        decide (0 < (s.round p).owes st) || !(s.runsIn p st).isEmpty)
  | _, _ => false

/-- In-stack items of a built route sheet remain on a stack. -/
def State.inStackWork (s : State) (st : Nat) : Bool :=
  (List.range 8).any (fun p => (List.range 8).any (fun g => s.holdsGroup p (8 * st + g)) && s.itemsRemain p st)

/-! ### The level -/

/-- The level reaches a stack as a LEVEL packet, whose answer latches the sequencer's line (05 R154; 12 R329). -/
def State.levelTo (s : State) (k l : Nat) : State :=
  if (s.stack k).level = l then s else (s.modStack k (fun x => { x with level := l })).latch k

/-- A ration of level 0 that waited is applied once the last in-stack item of a built sheet has completed (01 R25). -/
def State.levelOff (s : State) (k : Nat) : State :=
  if (s.stack k).zeroDue && !s.inStackWork k then (s.modStack k (fun x => { x with zeroDue := false })).levelTo k 0 else s

/-- Every stack's level after a step has gone. -/
def State.settleLevels (s : State) : State := (List.range 16).foldl State.levelOff s

end Sys2Proof.Machine
end

