-- ==== Sys2Proof/Machine/TensorOps.lean ====
section
/-! DEFINITION. Tensor descriptors: fields, addresses, handles, and the rows of a tensor in device memory (10 R282 to
R289, R296; 04 R124, R125). -/

namespace Sys2Proof.Machine

/-! ### Fields of a descriptor (R282) -/

def tBase (d : Line) : Nat := lineNat d 0 8
def tSpace (d : Line) : Nat := fld d 65 64
def tRank (d : Line) : Nat := fld d 68 66
def tFmtCode (d : Line) : Nat := fld d 75 72
def tWafer (d : Line) : Nat := fld d 77 76
def tScaled (d : Line) : Bool := bitAt d 78
def tPeer (d : Line) : Nat := fld d 88 80
def tShard (d : Line) (i : Nat) : Nat := fld d (97 + 2 * i) (96 + 2 * i)
def tGroup (d : Line) : Nat := fld d 115 112
def tSharded (d : Line) : Bool := bitAt d 116
def tGranule (d : Line) : Nat := fld d 124 120
def tSize (d : Line) (i : Nat) : Nat := lineNat d (16 + 4 * i) 4
def tStride (d : Line) (i : Nat) : Nat := lineNat d (36 + 4 * i) 4
def tScaleOff (d : Line) : Nat := lineNat d 60 4

/-- The element format. -/
def tFmt (d : Line) : Fmt := (fmtOf (tFmtCode d)).getD .fp32

/-- Elements per unit (R282). -/
def tEpu (d : Line) : Nat := fmtEpu (tFmt d)

/-! ### Module groups and sharding (R288, R289) -/

def gFirst (g : W64) : Nat := fld g 8 0
def gCount (g : W64) : Nat := fld g 18 9
def gStride (g : W64) : Nat := fld g 27 19

/-- A valid group: 1 to 512 members, a step of 1 to 511, every member below 512 (R288). -/
def gValid (g : W64) : Bool :=
  bitAt g 28 && decide (1 ≤ gCount g) && decide (gCount g ≤ 512) && decide (1 ≤ gStride g) &&
    decide (gFirst g + (gCount g - 1) * gStride g < 512)

/-- Module ID of member r. -/
def gMember (g : W64) (r : Nat) : Nat := gFirst g + r * gStride g

/-- The member that a module ID is. -/
def gIndex (g : W64) (id : Nat) : Option Nat := (List.range (gCount g)).find? (fun r => gMember g r == id)

/-- Local size of dimension i on member r (R289). -/
def Tensor.sizeOn (t : Tensor) (r i : Nat) : Nat :=
  let n := tSize t.desc i
  let g := gCount t.group
  if !tSharded t.desc then n
  else match tShard t.desc i with
    | 1 => let b := ceilDiv n g; min b (n - r * b)
    | 2 =>
      let c := 2 ^ tGranule t.desc
      n / (c * g) * c + min c (n % (c * g) - r * c)
    | _ => n

/-- The member that owns global index x along dimension i, and its local index (R289); member 0 for a whole dimension. -/
def Tensor.owner (t : Tensor) (i x : Nat) : Nat × Nat :=
  let g := gCount t.group
  if !tSharded t.desc then (0, x)
  else match tShard t.desc i with
    | 1 => let b := ceilDiv (tSize t.desc i) g; (x / b, x % b)
    | 2 => let c := 2 ^ tGranule t.desc; ((x / c) % g, (x / (c * g)) * c + x % c)
    | _ => (0, x)

/-- The member this module is. -/
def State.memberOf (s : State) (t : Tensor) : Nat :=
  if tSharded t.desc then (gIndex t.group s.links.moduleId.toNat).getD 0 else 0

/-! ### Addresses (R283) -/

/-- x2 to x5 of an outer index, dimension 2 varying fastest. -/
def Tensor.outer (t : Tensor) (r o : Nat) : List Nat :=
  let a := t.sizeOn r 2
  let b := t.sizeOn r 3
  let c := t.sizeOn r 4
  [o % a, (o / a) % b, (o / (a * b)) % c, o / (a * b * c)]

/-- O: the number of outer indices on member r. -/
def Tensor.outerCount (t : Tensor) (r : Nat) : Nat := t.sizeOn r 2 * t.sizeOn r 3 * t.sizeOn r 4 * t.sizeOn r 5

/-- Units of the outer coordinates. -/
def Tensor.outerUnits (t : Tensor) (r o : Nat) : Nat :=
  ((t.outer r o).zipIdx.map (fun p => p.1 * tStride t.desc (p.2 + 2))).sum

/-- Byte address of the unit that holds element (x0, x1, o), on member r. -/
def Tensor.unitAddr (t : Tensor) (r x0 x1 o : Nat) : Nat :=
  tBase t.desc + 64 * (x1 * tStride t.desc 1 + t.outerUnits r o + x0 / tEpu t.desc)

/-- Byte address of the place of wafer (a, c). -/
def Tensor.placeAddr (t : Tensor) (r a c o : Nat) : Nat :=
  tBase t.desc + 512 * a + 64 * (c * tStride t.desc 1 + t.outerUnits r o)

/-- Lane blocks and k-blocks of a scaled tensor. -/
def Tensor.lb (t : Tensor) (r : Nat) : Nat := ceilDiv (t.sizeOn r 0) (64 * stepsPerRow (tFmt t.desc))
def Tensor.kb (t : Tensor) (r : Nat) : Nat := ceilDiv (stepsPerRow (tFmt t.desc) * t.sizeOn r 1) 32

/-- Address of the fine line of lane block l and k-block b. -/
def Tensor.fineAddr (t : Tensor) (r l b o : Nat) : Nat :=
  tBase t.desc + 64 * (tScaleOff t.desc + (o * t.kb r + b) * t.lb r + l)

/-- Address of the coarse word of lane block l and k-block b. -/
def Tensor.coarseAddr (t : Tensor) (r l b o : Nat) : Nat :=
  tBase t.desc + 64 * (tScaleOff t.desc + t.outerCount r * t.kb r * t.lb r) +
    4 * ((o * ceilDiv (t.kb r) 64 + b / 64) * t.lb r + l)

/-- Units from the base to the end of the data on member r; a wafer keeps its whole place (R282, R283; 04 R124, R125). -/
def Tensor.dataUnits (t : Tensor) (r : Nat) : Nat :=
  let d := t.desc
  let n (i : Nat) : Nat := t.sizeOn r i
  let outer := ((List.range 4).map (fun k => (n (k + 2) - 1) * tStride d (k + 2))).sum
  if (List.range 6).any (fun i => n i == 0) then 0
  else if tWafer d = 0 then ceilDiv (n 0) (tEpu d) + (n 1 - 1) * tStride d 1 + outer
  else if tRank d = 1 then 8 * ceilDiv (n 0) 256
  else 8 * ceilDiv (n 0) 64 + (ceilDiv (n 1) 4 - 1) * tStride d 1 + outer

/-- Bytes from the base to the end of the coarse scales (R283). -/
def Tensor.scaleEnd (t : Tensor) (r : Nat) : Nat :=
  64 * (tScaleOff t.desc + t.outerCount r * t.kb r * t.lb r) + 4 * (t.outerCount r * ceilDiv (t.kb r) 64 * t.lb r)

/-- Whether a space-0 tensor's data or scale range lies in a region's part of the address space. -/
def Tensor.inRegion (t : Tensor) (rg : Region) : Bool :=
  let lo := 67108864 * rg.addrBase
  let hi := 67108864 * (rg.addrBase + rg.size)
  let b := tBase t.desc
  let inside (a : Nat) : Bool := decide (lo ≤ a) && decide (a < hi)
  tSpace t.desc == 0 && (inside b || (tScaled t.desc && inside (b + 64 * tScaleOff t.desc)))

/-! ### Handles (R285) -/

/-- Entry i of partition p's descriptor table. -/
def State.tensorEntry (s : State) (p i : Nat) : TensorEntry := Tab.get (fun _ => TensorEntry.reset) (s.part p).tensors i

/-- Change entry i of partition p's descriptor table. -/
def State.modTensor (s : State) (p i : Nat) (f : TensorEntry → TensorEntry) : State :=
  s.modPart p (fun x => { x with tensors := Tab.modify (fun _ => TensorEntry.reset) x.tensors i f })

/-- A handle from its parts. -/
def handleOf (p i generation : Nat) : W32 := BitVec.ofNat 32 (i + at_ 12 generation + at_ 24 p)

/-- The tensor that a handle of partition p names; none for a stale or foreign handle (R285, R287). -/
def State.tensorAt (s : State) (p : Nat) (h : W32) : Option Tensor :=
  let e := s.tensorEntry p (fld h 11 0)
  if fld h 31 24 = p ∧ fld h 23 12 = e.generation then
    match e.tensor with
    | some t => if t.destroying.isNone then some t else none
    | none => none
  else none

/-- Invalidate a partition's descriptors whose ranges lie in a region: each entry becomes free, its generation adds 1, and
the partition hears of it (R285, R287). -/
def State.invalidate (s : State) (rg : Region) (p : Nat) : State :=
  (s.part p).tensors.foldl (fun t e =>
    match e.2.tensor with
    | some x =>
      if x.inRegion rg && x.destroying.isNone then
        (t.modTensor p e.1 (fun y => { generation := (y.generation + 1) % 4096, tensor := none })).post (p + 1) 2 2 p
          (handleOf p e.1 e.2.generation).toNat
      else t
    | none => t) s

/-! ### Rows in device memory -/

/-- Lines read in order from line addresses of partition p; the PLN of the first bus error and what was read before it.
An address outside the partition's regions reads as an error at no line. -/
def State.readAddrs (s : State) (p : Nat) : List Nat → State × List Line × Option Nat
  | [] => (s, [], none)
  | a :: as =>
    match s.translate p a with
    | none => (s, [], some 0)
    | some (_, pln) =>
      match s.readLine (ctlOf pln) pln p with
      | (t, none) => (t, [], some pln)
      | (t, some l) =>
        match t.readAddrs p as with
        | (u, ls, e) => (u, l :: ls, e)

/-- Line addresses that hold elements x0 to x0 + e - 1 of row x1. -/
def Tensor.rowAddrs (t : Tensor) (r x0 e x1 o : Nat) : List Nat :=
  let u0 := x0 / tEpu t.desc
  (List.range ((x0 + e - 1) / tEpu t.desc + 1 - u0)).map (fun k => t.unitAddr r ((u0 + k) * tEpu t.desc) x1 o)

/-- The codes of e elements from element x0 on, out of the lines that hold them. -/
def rowCodes (f : Fmt) (x0 e : Nat) (ls : List Line) : List Nat :=
  (List.range e).map (fun j =>
    let q := x0 % fmtEpu f + j
    elCode f (ls.getD (q / fmtEpu f) 0).toNat (q % fmtEpu f))

/-- Line addresses of wafer (a, c). -/
def Tensor.waferAddrs (t : Tensor) (r a c o : Nat) : List Nat :=
  (List.range (waferUnits (tWafer t.desc))).map (fun k => t.placeAddr r a c o + 64 * k)

/-- A write of bits [pos + len - 1 : pos] of the line at a device address of partition p. -/
def State.devWrite (s : State) (p addr pos len v : Nat) : List Write :=
  match s.translate p addr with
  | some (i, pln) => [.dev i pln pos len v]
  | none => []

/-- Bits 384 and above of a unit of an FP6 format hold no element and are written as zero (04 R102). -/
def fp6Tail (f : Fmt) : Nat := if fmtBits f = 6 then 128 else 0

/-- Writes that put element codes into row x1 from element x0 on, a line each: a whole unit is written whole, less of one
is merged (05 R139). -/
def State.rowWrites (s : State) (p : Nat) (t : Tensor) (r x0 x1 o : Nat) (codes : List Nat) : List Write :=
  let f := tFmt t.desc
  let epu := tEpu t.desc
  let w := fmtBits f
  let e := codes.length
  let u0 := x0 / epu
  (List.range ((x0 + e - 1) / epu + 1 - u0)).flatMap (fun k =>
    let lo := max x0 ((u0 + k) * epu)
    let hi := min (x0 + e) ((u0 + k + 1) * epu)
    let part := (codes.drop (lo - x0)).take (hi - lo)
    let v := packRow f part
    let addr := t.unitAddr r ((u0 + k) * epu) x1 o
    if hi - lo = epu then s.devWrite p addr 0 512 v
    else s.devWrite p addr (w * (lo - (u0 + k) * epu)) (w * (hi - lo)) v ++ (if fp6Tail f = 0 then [] else s.devWrite p addr 384 128 0))

/-- Writes of a wafer's compressed bytes (04 R125). -/
def State.waferWrites (s : State) (p : Nat) (t : Tensor) (r a c o v : Nat) : List Write :=
  (t.waferAddrs r a c o).zipIdx.flatMap (fun q => s.devWrite p q.1 0 512 (bitsOf v (512 * q.2) 512))

/-- Whether partition p may write the regions that some addresses lie in (R286). -/
def State.mayWrite (s : State) (p : Nat) (addrs : List Nat) : Bool :=
  addrs.all (fun a => match s.translate p a with
    | some (i, _) => (s.region i).owner == p && !(s.region i).locked
    | none => false)

/-- Whether every address lies in a ready region that the partition reads. -/
def State.mayRead (s : State) (p : Nat) (addrs : List Nat) : Bool := addrs.all (fun a => (s.translate p a).isSome)

end Sys2Proof.Machine
end

