-- ==== Sys2Proof/Machine/JobOps.lean ====
section
/-! DEFINITION. Jobs: descriptors and records (11 R310, R311), their start (03 R59; 08 R225; 10 R290; 13 R339), time slices
and preemption (03 R94 to R97; 13 R340 to R344), and what a job fault loses (13 R345, R346). -/

namespace Sys2Proof.Machine

/-! ### Fields of a job descriptor (11 R310) -/

def jQueue (d : Line) : Nat := lineNat d 1 1
def jId (d : Line) : Nat := lineNat d 2 2
def jProgram (d : Line) : W32 := BitVec.ofNat 32 (lineNat d 4 4)
def jEntry (d : Line) : Nat := lineNat d 8 2
def jShares (d : Line) : Nat := lineNat d 10 2
def jArg (d : Line) (i : Nat) : W32 := BitVec.ofNat 32 (lineNat d (16 + 4 * i) 4)

/-! ### Records (R311) -/

/-- A completion record of program or copy class. -/
def jobRecord (typ status id ring fault detail detail2 started ended : Nat) (digest : List Byte) : List Byte :=
  toBytes 1 typ ++ toBytes 1 status ++ toBytes 2 id ++ toBytes 1 ring ++ toBytes 1 fault ++ toBytes 2 0 ++
    toBytes 4 detail ++ toBytes 4 detail2 ++ toBytes 8 started ++ toBytes 8 ended ++ padTo 32 digest

/-- The completion ring that a driver-written ring names (11 R305). -/
def State.complRing (s : State) (fn r : Nat) : Nat := fld (s.ringCfg fn r) 11 8

/-- Write the record of a job descriptor of a ring. -/
def State.jobAnswer (s : State) (fn r : Nat) (d : Line) (status fault detail detail2 : Nat) (started : Nat) : State :=
  s.putRing fn (s.complRing fn r) (jobRecord 0x10 status (jId d) r fault detail detail2 started s.nowNat [])

/-- The fetched descriptor at the head of a ring leaves it. -/
def State.popFetched (s : State) (fn r : Nat) : State := s.modRing fn r (fun x => { x with fetched := x.fetched.drop 1 })

/-! ### Live jobs -/

/-- Job number `n` of partition p. -/
def State.job (s : State) (p n : Nat) : Option Job := (s.part p).jobs.find? (fun j => j.num == n)

/-- Change job n of partition p. -/
def State.modJob (s : State) (p n : Nat) (f : Job → Job) : State :=
  s.modPart p (fun x => { x with jobs := x.jobs.map (fun j => if j.num = n then f j else j) })

/-- A job that has started and not ended (R335 live_jobs). -/
def Job.live (j : Job) : Bool := decide (j.state ≠ .waiting)

/-- Live jobs of a partition. -/
def State.liveJobs (s : State) (p : Nat) : List Job := (s.part p).jobs.filter Job.live

/-- The started serving job: queue 0 (R339). -/
def State.servingJob (s : State) (p : Nat) : Option Job := (s.liveJobs p).find? (fun j => j.queue == 0)

/-- Shares that running, stopping or saving jobs hold. -/
def State.heldShares (s : State) (p : Nat) : List Nat :=
  (s.part p).jobs.flatMap (fun j => if j.live && decide (j.state ≠ .saved) then j.shares else [])

/-- Shares of a partition, ascending. -/
def State.sharesOf (s : State) (p : Nat) : List Nat := setBits 48 (s.part p).applied.shares.toNat

/-- Shares a descriptor asks for: 0 means all. -/
def State.sharesWanted (s : State) (p : Nat) (d : Line) : Nat :=
  if jShares d = 0 then (s.sharesOf p).length else jShares d

/-- A cluster leaves its job: nothing more issues; operations already started run on. -/
def Cluster.release (x : Cluster) : Cluster :=
  { x with job := none, fetchQ := [], fence := none, halting := false, halted := false, preempt := none, stopped := false,
           arch := { x.arch with vq := [], mq := [], lq := [], sq := [] } }

/-- Stop issue on a cluster without a save: queued entries are discarded, started operations complete (R346 step 1). -/
def Cluster.stopIssue (x : Cluster) : Cluster :=
  { x with fetchQ := [], fence := none, stopped := true, arch := { x.arch with vq := [], mq := [], lq := [], sq := [] } }

/-- Clusters in a list of which f changes each. -/
def State.modClusters (s : State) (cs : List Nat) (f : Cluster → Cluster) : State := cs.foldl (fun t c => t.modCluster c f) s

/-- A job ends with its record; its area is free and its clusters hold no job (R311, R344). -/
def State.endJob (s : State) (p n status fault detail detail2 : Nat) : State :=
  match s.job p n with
  | none => s
  | some j =>
    let t := s.modClusters j.clusters (fun x => if x.job = some (p, n) then x.release else x)
    let t := t.modPart p (fun x => { x with jobs := x.jobs.filter (fun k => k.num != n), turn := x.turn.filter (fun e => e.1 != n) })
    t.jobAnswer j.fn j.ring j.desc status fault detail detail2 j.startedAt.toNat

/-! ### What a job fault discards (R346) -/

/-- Device line of a byte offset of a region. -/
def State.regionLine (s : State) (n o : Nat) : Nat := (s.region n).place (64 * (o / 64))

/-- A 4-byte word of a region as the copy engines read it; none with a bus error. -/
def State.regionWord (s : State) (n o p : Nat) : State × Option Nat :=
  match s.readLine (ctlOf (s.regionLine n o)) (s.regionLine n o) p with
  | (t, some l) => (t, some (lineNat l (o % 64) 4))
  | (t, none) => (t, none)

/-- A bus error has reached firmware at a line of partition p (14 R355, R356): a job fault of it is due. -/
def State.firmwareError (s : State) (p : Nat) : State := s.modPart p (fun x => { x with faultDue := true })

/-- Replace `len` bytes of a region at an offset. -/
def State.regionPut (s : State) (n o p len v : Nat) : State :=
  match s.mergeLine (ctlOf (s.regionLine n o)) (s.regionLine n o) p (8 * (o % 64)) (8 * len) v with
  | (t, false) => t
  | (t, true) => t.firmwareError p

/-- Entries of the program copy queue. -/
def copyqEntries (cfg : W64) : Nat := 2 ^ fld cfg 12 8

/-- The unstarted copies of the program copy queue are discarded: type 0 in every entry from the head up to the reservation
word, and the head word takes its value (10 R290). -/
def State.discardCopies (s : State) (p : Nat) : State :=
  match (s.part p).copyq with
  | none => s
  | some cfg =>
    let n := fld cfg 7 0
    match s.regionWord n 0 p with
    | (t, none) => t.firmwareError p
    | (t, some res) =>
      match t.regionWord n 4 p with
      | (t, none) => t.firmwareError p
      | (t, some head) =>
        let k := min (copyqEntries cfg) ((res + 2 ^ 32 - head) % 2 ^ 32)
        let t := (List.range k).foldl (fun u i => u.regionPut n (64 + 64 * ((head + i) % copyqEntries cfg)) p 1 0) t
        t.regionPut n 4 p 4 res

/-- ABORT reaches every run of the partition (R346 step 2). -/
def State.abortRuns (s : State) (p : Nat) : State := (s.runsOf p).foldl State.abortOne s

/-- The place that a fetched descriptor takes in the order of its digest stream (10 R299). -/
def turnOf (q : CopyQueue) (d : Line) : List StreamTurn :=
  let ty := lineNat d 0 1
  if 1 ≤ ty ∧ ty ≤ 3 ∧ bitAt d 10 then [{ queue := q, stream := fld d 45 42, kind := .copy }]
  else if ty = 0x23 && (match q with | .ring _ _ => true | .program _ => false) then
    [{ queue := q, stream := lineNat d 2 1, kind := .close }]
  else []

/-- The copy queue that ring r of function fn is. -/
def ringQueue (fn r : Nat) : CopyQueue := .ring ⟨fn % 9, Nat.mod_lt _ (by decide)⟩ ⟨r % 16, Nat.mod_lt _ (by decide)⟩

/-- A fetched descriptor takes its place. -/
def State.takeTurn (s : State) (p : Nat) (q : CopyQueue) (d : Line) : State :=
  s.modPart p (fun x => { x with turns := x.turns ++ turnOf q d })

/-- The oldest place of a queue's descriptors, but for one that waits in a close, goes when that descriptor acts. -/
def dropTurn (q : CopyQueue) : List StreamTurn → List StreamTurn
  | [] => []
  | t :: ts => if t.queue = q ∧ t.kind ≠ .closing then ts else t :: dropTurn q ts

/-- The copies of the program copy queue lose their places. -/
def dropProgram (p : Nat) (l : List StreamTurn) : List StreamTurn :=
  l.filter (fun t => match t.queue with | .program k => k.val != p | .ring _ _ => true)

/-- Steps 1 to 3 of R346: issue stops, runs are aborted, unstarted copies are discarded. -/
def State.stopPartition (s : State) (p : Nat) : State :=
  let t := s.modClusters (s.partClusters p) (fun x => if x.job.isSome then x.stopIssue else x)
  let t := t.abortRuns p
  (t.discardCopies p).modPart p (fun x => { x with progQ := [], copyq := none, turns := dropProgram p x.turns })

/-- Job fault of partition p (R346): the faulting job ends with 0x42, every other live one with 0x43, every request with
0x19, and the round is emptied; one record and one count. -/
def State.jobFault (s : State) (p : Nat) (n : Option Nat) (fault detail detail2 : Nat) : State :=
  let jobId := match n.bind (s.job p) with
    | some j => j.jobId
    | none => 0
  let t := s.journalHappening p 5 fault
  let t := t.stopPartition p
  let t := match n with
    | some k => t.endJob p k 0x42 fault detail detail2
    | none => t
  let t := (t.liveJobs p).foldl (fun u j => u.endJob p j.num 0x43 0 0 0) t
  let t := ((t.endRequests p 0x19).emptyRound p).settleLevels
  let t := t.modPart p (fun x => { x with jobFaults := satAdd 65535 x.jobFaults 1, faultDue := false, sliceDue := false })
  t.postTo [0, p + 1] 3 1 p (fault + at_ 16 jobId)

/-! ### Best-effort time (08 R235; 13 R340) -/

/-- Credit of queue k in ns. -/
def Round.creditOf (r : Round) (k : Nat) : Int := Tab.get (fun _ => 0) r.credit k

/-- Hold a credit between -64 ms and +64 ms (R235). -/
def clampCredit (x : Int) : Int := max (-64000000) (min 64000000 x)

/-- Add to the credit of queue k. -/
def State.addCredit (s : State) (p k : Nat) (d : Int) : State :=
  s.modRound p (fun r => { r with credit := Tab.set (fun _ => 0) r.credit k (clampCredit (r.creditOf k + d)) })

/-- The round holds a latency-critical sequence that is not paused, or has admitted a latency-critical request (R340, R342). -/
def State.lcWork (s : State) (p : Nat) : Bool :=
  (s.seqs p).any (fun e => !e.2.flags.be && decide (e.2.state ≠ .paused)) ||
    (s.round p).admitting.any (fun a => !bitAt a.desc 8)

/-- The serving queue has best-effort work: a best-effort sequence that is not paused, or a serving job yet to start. -/
def State.beWork (s : State) (p : Nat) : Bool :=
  (s.seqs p).any (fun e => e.2.flags.be && (decide (e.2.state = .prefill) || decide (e.2.state = .decode))) ||
    (s.part p).jobs.any (fun j => j.queue == 0 && !j.live)

/-- Whether queue k of R235 has waiting work. -/
def State.queueWork (s : State) (p k : Nat) : Bool :=
  if k = 0 then s.beWork p else (s.part p).jobs.any (fun j => j.queue == k)

/-- The serving job of a partition, started or not. -/
def State.servingAny (s : State) (p : Nat) : Option Job := (s.part p).jobs.find? (fun j => j.queue == 0)

/-- Jobs of queue k in round-robin order: those after the one that had a slice last, then the others (R340). -/
def State.queueOrder (s : State) (p k : Nat) : List Job :=
  let js := (s.part p).jobs.filter (fun j => j.queue == k)
  let last := Tab.get (fun _ => 0) (s.part p).lastJob k
  js.filter (fun j => decide (last < j.num)) ++ js.filter (fun j => decide (j.num ≤ last))

/-- Give shares to jobs in order: a started job needs its own, another any free ones (R339, R340). -/
def giveShares (all : List Nat) (want : Job → Nat) : List Job → List (Nat × List Nat) → List (Nat × List Nat)
  | [], acc => acc
  | j :: js, acc =>
    let taken := acc.flatMap (·.2)
    if j.live then
      if j.shares.any taken.contains then giveShares all want js acc
      else giveShares all want js (acc ++ [(j.num, j.shares)])
    else
      let free := all.filter (fun x => !taken.contains x)
      if want j = 0 ∨ free.length < want j then giveShares all want js acc
      else giveShares all want js (acc ++ [(j.num, free.take (want j))])

/-- The decision of R340: which jobs hold which shares in the next slice. -/
def State.nextTurn (s : State) (p : Nat) : List (Nat × List Nat) :=
  let c (k : Nat) : Int := (s.round p).creditOf k
  let ready (k : Nat) : Bool := s.queueWork p k && decide (0 < c k)
  let servingWins := s.queueWork p 0 && decide (0 < c 0) && (!ready 1 || decide (c 1 ≤ c 0)) && (!ready 2 || decide (c 2 ≤ c 0))
  let order : List Nat := (if c 1 < c 2 then [2, 1] else [1, 2]).filter ready
  let others := giveShares (s.sharesOf p) (fun j => s.sharesWanted p j.desc) (order.flatMap (s.queueOrder p)) []
  match s.servingAny p with
  | some j => if s.lcWork p || servingWins || others.isEmpty then [(j.num, s.sharesOf p)] else others
  | none => others

/-- Whether a job may hold its shares now: a latency-critical sequence gives them to the serving job at once (R342). -/
def State.mayHold (s : State) (p : Nat) (j : Job) : Bool :=
  match s.servingAny p with
  | some v => if s.lcWork p then j.num == v.num else (s.part p).turn.any (fun e => e.1 == j.num)
  | none => (s.part p).turn.any (fun e => e.1 == j.num)

/-- Latency-critical work gives the serving job every share until the next boundary (R340, R342). -/
def State.lcTurn (s : State) (p : Nat) : State :=
  match s.servingAny p with
  | some v => if s.lcWork p then s.modPart p (fun x => { x with turn := [(v.num, s.sharesOf p)] }) else s
  | none => s

/-- A step of the serving job stands between its build, or its abandonment, and its commit (R341). -/
def State.inStep (s : State) (p : Nat) : Bool := (s.round p).sheet.isSome || (s.round p).abandoning

/-- What the jobs that held shares spend for the slice that ends: its time by the part of the shares they held (R235). -/
def State.spendSlice (s : State) (p : Nat) : State :=
  let all := (s.sharesOf p).length
  (s.part p).jobs.foldl (fun t j =>
    if j.queue ≠ 0 ∧ j.live ∧ j.state ≠ .saved ∧ 0 < all then
      t.addCredit p j.queue (-((100000 * (s.part p).slice * j.shares.length / all : Nat) : Int))
    else t) s

/-- A slice boundary takes effect (R340, R341). -/
def State.boundary (s : State) (p : Nat) : State :=
  let t := s.spendSlice p
  let turn := t.nextTurn p
  t.modPart p (fun x =>
    { x with sliceDue := false, turn := turn,
             lastJob := turn.foldl (fun m e =>
               match x.jobs.find? (fun j => j.num == e.1) with
               | some j => Tab.set (fun _ => 0) m j.queue j.num
               | none => m) x.lastJob })

/-! ### Start (03 R59, 08 R225, 10 R290, 13 R339) -/

/-- The program image in a cluster's scratchpad, from unit 0 on, and the state of R59; the cluster changes to this job, so its
scalar read cache is empty (02 R51). -/
def Cluster.begin (x : Cluster) (p n : Nat) (d : Line) (image : Option (List Byte)) : Cluster :=
  let a : Arch := { Arch.reset with
    sp := x.arch.sp, pc := BitVec.ofNat 14 (jEntry d),
    s := (List.range 8).foldl (fun m i => Tab.set (fun _ => 0) m (i + 1) (jArg d i)) [] }
  let a := match image with
    | some bs => a.setSp 0 bs
    | none => a
  { x with arch := a, cache := [], fetchQ := [], load := none, fence := none, halting := false, preempt := none,
           stopped := false, faults := [], inbox := [], job := some (p, n), halted := false }

/-- The model header (R225). -/
def modelOf (h : Line) : Model :=
  { layers := lineNat h 0 2, heads := lineNat h 2 1, group := lineNat h 3 1, headDim := lineNat h 4 2, form := lineNat h 6 1,
    draft := lineNat h 7 1 == 1, vocab := lineNat h 8 4, draftLayers := lineNat h 12 2, draftHeads := lineNat h 14 1,
    draftGroup := lineNat h 15 1 }

/-- A number of key/value heads that R225 accepts. -/
def headsOk (n : Nat) : Bool := n % 4 == 0 && decide (4 ≤ n) && decide (n ≤ 64)

/-- Byte offset of the first field of a model header that breaks R225; none when it is good. -/
def headerFault (h : Line) : Option Nat :=
  let m := modelOf h
  let d := lineNat h 7 1 == 1
  if !(decide (1 ≤ m.layers) && decide (m.layers ≤ 128)) then some 0
  else if !headsOk m.heads then some 2
  else if !(decide (1 ≤ m.group) && decide (m.group ≤ 32)) then some 3
  else if !(decide (32 ≤ m.headDim) && decide (m.headDim ≤ 256)) then some 4
  else if 1 < m.form then some 6
  else if 1 < lineNat h 7 1 then some 7
  else if !(decide (256 ≤ m.vocab) && decide (m.vocab ≤ 1048576)) then some 8
  else if !(if d then decide (1 ≤ m.draftLayers) && decide (m.draftLayers ≤ 128) else m.draftLayers == 0) then some 12
  else if !(if d then headsOk m.draftHeads else m.draftHeads == 0) then some 14
  else if !(if d then decide (1 ≤ m.draftGroup) && decide (m.draftGroup ≤ 32) else m.draftGroup == 0) then some 15
  else if lineNat h 20 44 ≠ 0 then some 20
  else none

/-- The program copy queue that a start checks (10 R290): false when it may not be served. -/
def State.copyqOk (s : State) (p : Nat) (cfg : W64) : Bool :=
  let r := s.region (fld cfg 7 0)
  r.valid && r.st == 2 && !r.fwOwned && !r.compute && r.owner == p && decide (4 ≤ fld cfg 12 8) && decide (fld cfg 12 8 ≤ 16) &&
    decide (64 + 64 * copyqEntries cfg ≤ 67108864 * r.size)

/-- The bytes of a rank-1 INT8 tensor in device memory; none when a line of it cannot be read. -/
def State.tensorBytes (s : State) (p : Nat) (t : Tensor) : State × Option (List Byte) :=
  let n := tSize t.desc 0
  match s.readAddrs p ((List.range (ceilDiv n 64)).map (fun k => tBase t.desc + 64 * k)) with
  | (u, ls, none) => (u, some ((ls.flatMap lineBytes).take n))
  | (u, _, some _) => (u, none)

/-- A tensor that can hold a program image: rank 1, INT8, of at most 1 MiB. -/
def Tensor.isImage (t : Tensor) : Bool :=
  tRank t.desc == 1 && decide (tFmt t.desc = .int8) && decide (tSize t.desc 0 ≤ 1048576)

/-- A digest entry as reports and the replay configuration digest hold it (16 R404). -/
def State.digestEntry (s : State) (d : LoadDigest) (shared : Bool) : List Byte :=
  let locked := d.regions.all (fun n => (s.region n).locked)
  toBytes 1 d.kind ++ toBytes 1 (b2n locked + 2 * b2n shared) ++ toBytes 1 d.stream ++ toBytes 1 0 ++
    toBytes 4 d.label.toNat ++ toBytes 8 d.closedAt.toNat ++ toBytes 32 d.value.toNat

/-- The replay configuration digest (19 R458). -/
def State.replayConfig (s : State) (p : Nat) : BitVec 256 :=
  let slots := [1, 2, 3].flatMap (fun k => toBytes 32 (Tab.get (fun _ => 0) s.sec.slots k).toNat)
  let digests := (s.part p).digestList.flatMap (fun d => s.digestEntry d false)
  let cfg := s.partCfg p
  let regs := ([0x28, 0x48, 0x50, 0x58] ++ (List.range 64).map (fun n => 0x100 + 8 * n)).flatMap (fun o =>
    toBytes 8 (s.partReg p o).toNat)
  let pools := (List.range 16).flatMap (fun st =>
    match s.poolRegion p st with
    | some r => toBytes 2 r.n ++ toBytes 2 r.slotRows.length
    | none => toBytes 4 0)
  sha3 (slots ++ digests ++ toBytes 1 (fld cfg 16 16) ++ toBytes 1 (fld cfg 18 17) ++ regs ++ pools)

/-- Recording or replaying begins with the serving job (19 R453, R455, R459): a replay stops at once when its journal holds
nothing, or when the START digest differs, a free choice (log 23). -/
def State.startJournal (s : State) (p : Nat) : State :=
  let replay := bitAt (s.partReg p 0x70) 0
  let empty := fld (s.partReg p 0x80) 39 0 == 0
  let differs := replay && !empty && bitAt s.freeVal 0
  let t := if replay && !empty then s.useFree else s
  let t := t.modPart p (fun x =>
    { x with journal :=
        { recording := (s.journalRing p).isSome, seq := 0,
          replay := if !replay then 0 else if empty || differs then 3 else 1,
          reason := if !replay then 0 else if empty then 1 else if differs then 2 else 0, mismatched := false,
          stop := bitAt (s.partReg p 0x70) 1,
          stepAt := if replay && (empty || differs) then x.round.step else 0 } })
  t.journal p 0x01 (toBytes 32 (t.replayConfig p).toNat ++ toBytes 8 t.sec.bootId.toNat)

/-- A replay stops: issue stops and runs are aborted as in steps 1 and 2 of R346, live requests end with 0x19, and the sheet
goes with them (19 R460; log 23). -/
def State.haltReplay (s : State) (p : Nat) : State :=
  let t := s.modClusters (s.partClusters p) (fun x => if x.job.isSome then x.stopIssue else x)
  let t := (t.abortRuns p).endRequests p 0x19
  let its := match (t.round p).sheet with
    | some z => z.items
    | none => []
  ((its.foldl (fun u it => u.returnToken p it) t).modRound p (fun r => { r.refund with sheet := none, allocWait := none })).settleLevels

/-- What follows a command's effect t on s: a replay that it stopped halts the partition (19 R460). -/
def State.replayGuard (s t : State) (p : Nat) : State :=
  if s.replaying p && (t.part p).journal.replay == 3 then t.haltReplay p else t

end Sys2Proof.Machine
end

