-- ==== Sys2Proof/Machine/KloxaIssue.lean ====
section
/-! DEFINITION. Fetch and issue of Kloxa bundles, the scalar and sync slots, fences, scalar device accesses, markers,
remote signals and completions (03 R56 to R78, R91 to R94, R97 to R100; 02 R50 to R52; 09 R265). -/

namespace Sys2Proof.Machine

/-! ### The scalar slot (R77) -/

/-- Results of the arithmetic opcodes 0x01 to 0x16 (R77). -/
def scalarAlu (op : Nat) (a b : W32) : W32 :=
  match op with
  | 0x01 => a + b
  | 0x02 => a - b
  | 0x03 => a * b
  | 0x04 => a &&& b
  | 0x05 => a ||| b
  | 0x06 => a ^^^ b
  | 0x07 => a <<< (b.toNat % 32)
  | 0x08 => a >>> (b.toNat % 32)
  | 0x09 => a.sshiftRight (b.toNat % 32)
  | 0x0A => if a.toInt ≤ b.toInt then a else b
  | 0x0B => if a.toInt ≤ b.toInt then b else a
  | 0x0C => BitVec.ofNat 32 (b2n (decide (a.toInt < b.toInt)))
  | 0x0D => BitVec.ofNat 32 (b2n (decide (a.toNat < b.toNat)))
  | 0x0E => BitVec.ofNat 32 (b2n (a == b))
  | 0x10 => fadd a b
  | 0x11 => fmul a b
  | 0x12 => fmin2 a b
  | 0x13 => fmax2 a b
  | 0x14 => BitVec.ofNat 32 (b2n (flt a b))
  | 0x15 => fcvtFi a
  | 0x16 => fcvtIf a
  | _ => 0

/-- The second operand: s[b], or the immediate (R76). -/
def Arch.opB (a : Arch) (e : W64) : W32 := if sUse e then sImm e else a.sreg (sB e)

/-- Scratchpad byte address of ld.sp and st.sp: s[a] + imm modulo 2^32 (R77). -/
def Arch.spAddr (a : Arch) (e : W64) : Nat := (a.sreg (sA e) + sImm e).toNat

/-- Device address of ld.s, st.s and the atomics: {s[a+1], s[a]} + imm, sign-extended, modulo 2^64 (R77). -/
def Arch.devAddr (a : Arch) (e : W64) : Nat :=
  (BitVec.ofNat 64 ((a.sreg (sA e)).toNat + at_ 32 (a.sreg (sA e + 1)).toNat) + (sImm e).signExtend 64).toNat

/-- The shape fault that the scalar slot can raise at issue (R77). -/
def scalarIssue (a : Arch) (e : W64) : Option Nat :=
  if (sOp e = 0x23 ∨ sOp e = 0x24) ∧ (a.spAddr e % 4 ≠ 0 ∨ 2 ^ 20 ≤ a.spAddr e) then some 0x02 else none

/-- The scalar slot's effect on its own cluster's registers and scratchpad (R77). Reads are of `o`, the state before the
bundle (R73). `feat` is the feature register it names. -/
def scalarEffect (o a : Arch) (feat : Nat → W64) (e : W64) : Arch :=
  let op := sOp e
  let imm := (sImm e).toNat
  if 0x01 ≤ op ∧ op ≤ 0x16 then a.setS (sD e) (scalarAlu op (o.sreg (sA e)) (o.opB e))
  else match op with
    | 0x20 => a.setH (sD e) (BitVec.ofNat 64 ((o.sreg (sA e)).toNat + at_ 32 (o.sreg (sB e)).toNat))
    | 0x21 => a.setH (sD e) (BitVec.ofNat 64 (ofBytes (o.spBytes (64 * bitsOf imm 0 14 + 8 * bitsOf imm 14 3) 8)))
    | 0x22 => a.setS (sD e) (BitVec.ofNat 32 (bitsOf (feat (imm % 256)).toNat (32 * bitsOf imm 8 1) 32))
    | 0x23 => a.setS (sD e) (BitVec.ofNat 32 (ofBytes (o.spBytes (o.spAddr e) 4)))
    | 0x24 => a.setSp (o.spAddr e) (toBytes 4 (o.sreg (sB e)).toNat)
    | 0x25 => a.setS (sD e) (BitVec.ofNat 32 (b2n (o.flag (imm % 32))))
    | 0x26 => a.setS (sD e) (BitVec.ofNat 32 (o.kreg (imm % 16)))
    | 0x3B => a.setS (sD e) (BitVec.ofNat 32 (o.pc.toNat + 1))
    | _ => a

/-- The bundle that a bundle goes on at (R77, R75): a unit number, which a target outside units 0 to 16,383 exceeds (log 47), and
whether a branch is taken. -/
def scalarNext (o : Arch) (e : W64) : Nat × Bool :=
  let there := (BitVec.ofNat 32 o.pc.toNat + sImm e).toNat
  let next := o.pc.toNat + 1
  match sOp e with
  | 0x38 => (there, true)
  | 0x39 => if o.sreg (sA e) = 0 then (there, true) else (next, false)
  | 0x3A => if o.sreg (sA e) ≠ 0 then (there, true) else (next, false)
  | 0x3B => (there, true)
  | 0x3C => ((o.sreg (sA e)).toNat, true)
  | _ => (next, false)

/-- Go on at a unit: the program counter holds 14 bits (R56, R59), and a unit past 16,383 is never fetched (R97). -/
def Arch.goTo (a : Arch) (unit : Nat) : Arch := { a with pc := BitVec.ofNat 14 unit, past := decide (16384 ≤ unit) }

/-! ### Checks of the long-running slots at issue (R98) -/

/-- Format and shape of a vector tile operand; wafers only for t.cvt (R81, R127, R128). -/
def vecOperand (cvt : Bool) (h : W64) (addr : Nat) : Option Nat :=
  if !shapeFmtOk h || (shWafer h != 0 && (!cvt || shScaled h)) then some 0x03
  else if !shapeOk h addr || (shWafer h != 0 && shUnits h != waferUnits (shWafer h)) then some 0x02
  else none

/-- A plain side that a wafer may face in t.cvt: BF16 or FP32 (R128). -/
def plainSide (h : W64) : Bool := decide (shFormat h = .bf16) || decide (shFormat h = .fp32)

/-- Faults of the vector slot at issue (R81, R98, R109, R128). -/
def vecIssue (a : Arch) (e : BitVec 96) : Option Nat :=
  match vecUses (slotOp e) with
  | none => none
  | some (ux, uy, _, _, _) =>
    let op := slotOp e
    let cvt := op == 0x12
    let hx := a.hreg (vXs e)
    let hy := a.hreg (vYs e)
    let fx := if ux then vecOperand cvt hx (vX e) else none
    let fy :=
      if uy then (if !cvt && (shScaled hy || shWafer hy != 0) then some 0x03 else vecOperand cvt hy (vY e)) else none
    let mixed := cvt && (shWafer hx != 0) != (shWafer hy != 0) && !plainSide (if shWafer hx != 0 then hy else hx)
    let row := (a.sreg (vS e)).toNat
    let idx := (op == 0x01 && decide (shRows hx ≤ row)) || (op == 0x02 && decide (shRows hy ≤ row))
    if fx = some 0x03 ∨ fy = some 0x03 ∨ mixed then some 0x03
    else if fx.isSome || fy.isSome || idx then some 0x02
    else none

/-- Whether an mma opcode accepts the two formats (R83). -/
def mmaFormats (op : Nat) (x y : Fmt) : Bool :=
  let side (l : List Fmt) : Bool := l.contains x && l.contains y
  match op with
  | 0x01 => side [.bf16]
  | 0x02 => side [.fp16]
  | 0x03 => side [.e4m3, .e5m2]
  | 0x04 => side [.e3m2, .e2m3]
  | 0x05 => side [.e2m1]
  | 0x06 => side [.int8]
  | 0x07 => side [.int4]
  | 0x08 => side [.bf16, .e4m3, .e5m2, .e3m2, .e2m3, .e2m1] || side [.int8, .int4]
  | _ => false

/-- row_units of a matrix operand (R84, R126). -/
def mmaUnits (h : W64) : Nat :=
  if shWafer h ≠ 0 then waferUnits (shWafer h)
  else match shFormat h with | .bf16 => 2 | .fp16 => 2 | _ => 1

/-- Total k of a matrix operand (R84, R127). -/
def mmaK (h : W64) : Nat := if shWafer h ≠ 0 then 4 * shRows h else stepsPerRow (shFormat h) * shRows h

/-- row_units of a drain's destination (R85); 0 for a format that mmd does not drain to. -/
def drainUnits (f : Fmt) : Nat :=
  match f with
  | .fp32 => 4 | .bf16 => 2 | .fp16 => 2 | .e4m3 => 1 | .e5m2 => 1 | .int8 => 1 | _ => 0

/-- Faults of the matrix slot at issue (R83 to R85, R98). -/
def matIssue (a : Arch) (e : BitVec 96) : Option Nat :=
  let op := slotOp e
  let ha := a.hreg (mAs e)
  let hb := a.hreg (mBs e)
  if op = 0 then none
  else if op = 0x10 then
    if (fmtOf (shFmt ha)).isNone || shWafer ha != 0 || shScaled ha || drainUnits (shFormat ha) == 0 then some 0x03
    else if !shapeOk ha (mA e) || shRows ha != 64 || shUnits ha != drainUnits (shFormat ha) ||
        (mCmax e && decide (16384 < mB e + 4)) then some 0x02
    else none
  else
    if !shapeFmtOk ha || !shapeFmtOk hb || !mmaFormats op (shFormat ha) (shFormat hb) then some 0x03
    else if !shapeOk ha (mA e) || !shapeOk hb (mB e) || shUnits ha != mmaUnits ha || shUnits hb != mmaUnits hb ||
        mmaK ha != mmaK hb then some 0x02
    else none

/-- Faults of the load and store slots at issue; the format faults of ld.t and st.t come at their start (R98). A wafer tile has
the row_units of 04 R126. -/
def ldstIssue (a : Arch) (e : BitVec 96) : Option Nat :=
  let h := a.hreg (lShape e)
  if slotOp e = 0 then none
  else if slotOp e ≠ 1 ∧ !shapeFmtOk h then some 0x03
  else if !shapeOk h (lSp e) || (shWafer h != 0 && shUnits h != waferUnits (shWafer h)) then some 0x02
  else none

/-! ### Issue -/

/-- Slots of a bundle whose encoding is illegal: 0 scalar, 1 vector, 2 matrix, 3 load, 4 store, 5 sync, 6 header (R98). -/
def illegalSlot (b : Line) : Nat → Bool
  | 0 => !scalarLegal (scalarBits b) || sameDest b
  | 1 => !vecLegal (vecBits b)
  | 2 => !matLegal (matBits b)
  | 3 => !ldstLegal false (loadBits b)
  | 4 => !ldstLegal true (storeBits b)
  | 5 => !syncLegal (syncBits b)
  | _ => !headLegal b

/-- The fault of a slot at issue that depends on its registers. -/
def slotIssue (a : Arch) (b : Line) : Nat → Option Nat
  | 0 => scalarIssue a (scalarBits b)
  | 1 => vecIssue a (vecBits b)
  | 2 => matIssue a (matBits b)
  | 3 => ldstIssue a (loadBits b)
  | 4 => ldstIssue a (storeBits b)
  | _ => none

/-- Whether the bundle's condition lets its slots act (R58). -/
def Arch.predicate (a : Arch) (b : Line) : Bool := !hPred b || ((a.sreg (hReg b) != 0) != hNeg b)

/-- The first faulting slot and its code, in the order of R100; the slots of a bundle whose condition fails are checked
for their encoding alone (R58). -/
def Arch.issueFault (a : Arch) (b : Line) : Option (Nat × Nat) :=
  (List.range 7).findSome? (fun k =>
    if illegalSlot b k then some (k, 0x01)
    else if a.predicate b then (slotIssue a b k).map (fun code => (k, code)) else none)

/-- Queue entries that the long-running slots of a bundle make, with the registers they capture (R71, R73). -/
def Arch.entries (a : Arch) (b : Line) : Nat → List QEntry
  | 1 =>
    let e := vecBits b
    if slotUsed e then
      [{ pc := a.pc.toNat, bits := e, ops := [a.sreg (vS e)], shapes := [a.hreg (vXs e), a.hreg (vYs e)] }] else []
  | 2 =>
    let e := matBits b
    if slotUsed e then
      [{ pc := a.pc.toNat, bits := e, ops := [a.sreg (mReg e)], shapes := [a.hreg (mAs e), a.hreg (mBs e)] }] else []
  | k =>
    let e := if k = 3 then loadBits b else storeBits b
    if slotUsed e then
      [{ pc := a.pc.toNat, bits := e, ops := [a.sreg (lSa e), a.sreg (lSb e), a.sreg (lSc e), a.sreg (lSd e)],
         shapes := [a.hreg (lShape e)] }] else []

/-- Whether every queue has room for the bundle's entries (R72). -/
def Arch.room (a : Arch) (b : Line) : Bool :=
  [1, 2, 3, 4].all (fun k => decide ((a.queue k).length + (a.entries b k).length ≤ queueCap k))

/-- The queues with the bundle's entries (R72). -/
def Arch.enqueue (a o : Arch) (b : Line) : Arch :=
  { a with vq := a.vq ++ o.entries b 1, mq := a.mq ++ o.entries b 2, lq := a.lq ++ o.entries b 3,
           sq := a.sq ++ o.entries b 4 }

/-- Line number of a device address in the scalar read cache's terms (02 R50). -/
def lineNo (addr : Nat) : Nat := addr / 64

/-- Update a line of the cache if it is present (02 R50). -/
def cacheUpdate (cache : List (Nat × Line)) (addr : Nat) (v : W32) : List (Nat × Line) :=
  cache.map (fun e => if e.1 = lineNo addr then (e.1, setLine e.2 (addr % 64) 4 v.toNat) else e)

/-- A line enters the cache as the most recently used of its set of four (02 R50). -/
def cacheFill (cache : List (Nat × Line)) (addr : Nat) (l : Line) : List (Nat × Line) :=
  let rest := cache.filter (fun e => e.1 != lineNo addr)
  let sameSet := rest.filter (fun e => e.1 % 64 == lineNo addr % 64)
  let out := (sameSet.drop 3).map (·.1)
  (lineNo addr, l) :: rest.filter (fun e => !out.contains e.1)

/-- What st.s does: a fault code and PLN, or the new state (R77, R98, 05 R139). -/
def State.storeWord (s : State) (c p addr : Nat) (v : W32) : State × Option (Nat × Option Nat) :=
  if addr % 4 ≠ 0 then (s, some (0x08, none))
  else match s.translate p addr with
    | none => (s, some (0x08, none))
    | some (i, pln) =>
      let r := s.region i
      if r.locked ∨ r.owner ≠ p then (s, some (0x09, none))
      else match s.mergeLine (ctlOf pln) pln p (8 * (addr % 64)) 32 v.toNat with
        | (t, true) => (t, some (0x0C, some pln))
        | (t, false) => (t.modCluster c (fun x => { x with cache := cacheUpdate x.cache addr v }), none)

/-- The sync slot's own effect on the cluster at issue, but for its signals and fences (R91, R93). -/
def syncEffect (o a : Arch) (e : W32) : Arch :=
  match yOp e with
  | 1 => a.take (yField e)
  | 6 => a.setS (yReg e) o.sat
  | 7 => { a with sat := 0 }
  | _ => a

/-- The signal that the sync slot applies at issue: sig, and sat.cmp above its threshold (R91). -/
def syncSignal (o : Arch) (e : W32) : BitVec 16 :=
  if yOp e = 2 ∨ (yOp e = 8 ∧ (o.sreg (yReg e)).toNat < o.sat.toNat) then yField e else 0

/-- A fence's scope: 1 cluster, 2 module, 3 system; 0 when the sync slot holds no fence (R91). -/
def fenceScope (e : W32) : Nat := if 3 ≤ yOp e ∧ yOp e ≤ 5 then yOp e - 2 else 0

/-- A bundle with the yield bit stops issue when a preemption request is pending (R94). -/
def State.yieldStop (s : State) (c : Nat) (b : Line) : State :=
  s.modCluster c (fun x =>
    if hYield b && x.preempt.isSome then { x with stopped := true } else x)

/-- The bundle at the program counter issues with every slot acting (R72, R73, R78, R91, R92). -/
def State.issueActing (s : State) (c p : Nat) (b : Line) (rest : List Line) : State :=
  let o := (s.cluster c).arch
  let e := scalarBits b
  let y := syncBits b
  let next := scalarNext o e
  let scope := fenceScope y
  let load : Bool := sOp e == 0x28 || (decide (0x30 ≤ sOp e) && decide (sOp e ≤ 0x33))
  let l : SLoad :=
    { op := sOp e, d := sD e, addr := o.devAddr e, b := o.sreg (sB e), cmp := o.sreg (sD e), scope := sScope e, pc := o.pc.toNat }
  let a := syncEffect o (scalarEffect o o (s.feat p c) e) y
  let a := (a.enqueue o b).goTo next.1
  let t := s.modCluster c (fun x =>
    { x with arch := a, fetchQ := if next.2 || scope != 0 then [] else rest,
             load := if load then some l else none, halting := sOp e == 0x3F })
  -- the scalar store, whose slot is the earlier one of two that fault in this cycle (R100)
  let t :=
    if sOp e = 0x29 then
      match t.storeWord c p (o.devAddr e) (o.sreg (sB e)) with
      | (u, some (code, pln)) =>
        (u.modCluster c (fun x => { x with arch := x.arch.signals [syncSignal o y] })).clusterFault c code 0 o.pc.toNat pln
      | (u, none) => u.applySignal c (syncSignal o y) 5 o.pc.toNat
    else t.applySignal c (syncSignal o y) 5 o.pc.toNat
  if scope = 0 then t
  else if yMode y = 1 then
    -- an acquire alone is complete in its issue cycle (R92)
    (t.modCluster c (fun x => { x with cache := if scope = 1 then x.cache else [] })).applySignal c (yField y) 5 o.pc.toNat
  else t.modCluster c (fun x =>
    { x with fence := some { scope := scope, mode := yMode y, field := yField y, pc := o.pc.toNat } })

/-- Whether a cluster can issue: a bundle waits, nothing holds issue, it has not stopped, halted or faulted. -/
def Cluster.canIssue (x : Cluster) : Bool :=
  x.live && x.load.isNone && x.fence.isNone && !x.halting && !x.halted

/-- The bundle at the program counter meets its issue conditions or its faults (R58, R72, R94, R98, R99). -/
def State.issue (s : State) (c : Nat) : State :=
  let x := s.cluster c
  match x.job, x.fetchQ with
  | some (p, _), b :: rest =>
    if !x.canIssue then s
    else
      let o := x.arch
      let y := syncBits b
      let fault (f : Option (Nat × Nat)) (ok : State) : State :=
        match f with
        | some (slot, code) => s.clusterFault c code slot o.pc.toNat none
        | none => ok
      if (List.range 7).any (illegalSlot b) then fault (o.issueFault b) s
      else if !o.predicate b then
        -- as a bundle with every opcode nop (R58)
        (s.modCluster c (fun x => { x with arch := x.arch.goTo (o.pc.toNat + 1), fetchQ := rest })).yieldStop c b
      else if yOp y = 1 ∧ !o.waitHolds (yField y) then s.yieldStop c b
      else if !o.room b then s
      else fault (o.issueFault b) ((s.issueActing c p b rest).yieldStop c b)
  | _, _ => s

/-- BUNDLE_FETCH (R75, R97): the next unit enters the fetch queue of 8; a unit past 16,383 is a fetch fault, whose record names
that unit, or unit 16,384 when the program counter has run past the end (log 47). -/
def execBundleFetch (c : ClusterId) (s : State) : Host.Outcome State Fault Refusal :=
  let x := s.cluster c
  let unit := if x.arch.past then 16384 else x.arch.pc.toNat + x.fetchQ.length
  .next (
    if !x.live || x.halting || x.halted || decide (8 ≤ x.fetchQ.length) then s
    else if 16384 ≤ unit then s.clusterFault c 0x05 6 unit none
    else s.modCluster c (fun x => { x with fetchQ := x.fetchQ ++ [BitVec.ofNat 512 (x.arch.units unit 1)] }))

/-- BUNDLE_ISSUE (R72). -/
def execBundleIssue (c : ClusterId) (s : State) : Host.Outcome State Fault Refusal := .next (s.issue c)

/-! ### Scalar device accesses -/

/-- The value an atomic leaves, none when it writes nothing (R77). -/
def atomicNew (op : Nat) (old b cmp : W32) : Option W32 :=
  match op with
  | 0x30 => some (old + b)
  | 0x31 => some (if old.toNat ≤ b.toNat then b else old)
  | 0x32 => some b
  | _ => if old = cmp then some b else none

/-- The scalar access ends: its register is written and issue goes on (R78). -/
def State.endLoad (s : State) (c : Nat) (d : Nat) (v : W32) : State :=
  s.modCluster c (fun x => { x with load := none, arch := x.arch.setS d v })

/-- The scalar access ends in a fault (R98, R99). -/
def State.failLoad (s : State) (c : Nat) (l : SLoad) (code : Nat) (pln : Option Nat) : State :=
  (s.modCluster c (fun x => { x with load := none })).clusterFault c code 0 l.pc pln

/-- A write of the line `pln` is under way in the cluster, or a scalar access to it is pending. -/
def State.clusterOn (s : State) (k pln : Nat) : Bool :=
  (s.cluster k).running.any (fun r => r.writes.any (fun w =>
    match w with
    | .dev _ l _ _ _ => l == pln
    | _ => false)) ||
    (match (s.cluster k).load, s.partOf k with
     | some l, some p => (s.translate p l.addr).any (fun t => t.2 == pln)
     | _, _ => false)

/-- A copy in flight writes the line `pln`. -/
def CopyJob.writesLine (k : CopyJob) (pln : Nat) : Bool :=
  k.pieces.any (fun w =>
    match w with
    | .put (.dev _ l) _ _ _ => l == pln
    | .add (.dev _ l) _ _ _ => l == pln
    | .addWafer spots _ _ => spots.any (fun q => match q with | .dev _ l => l == pln | _ => false)
    | _ => false)

/-- While an atomic of cluster c is in flight an agent outside its scope has an access of its line under way: another cluster,
or a program's copy, for cluster scope; a host-initiated copy, for any scope but .sys (09 R266, log 67). -/
def State.tooNarrow (s : State) (c pln scope : Nat) : Bool :=
  (scope == 0 && s.clusters.any (fun e => e.1 != c && s.clusterOn e.1 pln)) ||
    s.copies.any (fun k => k.writesLine pln &&
      (match k.queue with
       | .program _ => scope == 0
       | .ring _ _ => decide (scope < 2)))

/-- An ld.s or an atomic returns (R77, R78; 02 R50, R52; 09 R265). The old value of an atomic of too narrow a scope and the value
it leaves are free (09 R266). -/
def State.loadReturn (s : State) (c p : Nat) (l : SLoad) : State :=
  if l.addr % 4 ≠ 0 then s.failLoad c l 0x08 none
  else match s.translate p l.addr with
    | none => s.failLoad c l 0x08 none
    | some (i, pln) =>
      let word (line : Line) : W32 := BitVec.ofNat 32 (lineNat line (l.addr % 64) 4)
      if l.op = 0x28 then
        match (s.cluster c).cache.find? (fun e => e.1 == lineNo l.addr) with
        | some e =>
          (s.modCluster c (fun x => { x with cache := cacheFill x.cache l.addr e.2 })).endLoad c l.d (word e.2)
        | none =>
          match s.readLine (ctlOf pln) pln p with
          | (t, some line) =>
            (t.modCluster c (fun x => { x with cache := cacheFill x.cache l.addr line })).endLoad c l.d (word line)
          | (t, none) => t.failLoad c l 0x0C (some pln)
      else
        let r := s.region i
        if r.locked ∨ r.owner ≠ p then s.failLoad c l 0x09 none
        else
          let s := s.modCluster c (fun x => { x with cache := x.cache.filter (fun e => e.1 != lineNo l.addr) })
          match s.readLine (ctlOf pln) pln p with
          | (t, none) => t.failLoad c l 0x0C (some pln)
          | (t, some line) =>
            if t.tooNarrow c pln l.scope then
              (t.useFree.useFree.writeLine pln (setLine line (l.addr % 64) 4 (fld t.useFree.freeVal 31 0))).endLoad c l.d
                (BitVec.ofNat 32 (fld t.freeVal 31 0))
            else match atomicNew l.op (word line) l.b l.cmp with
            | some v => (t.writeLine pln (setLine line (l.addr % 64) 4 v.toNat)).endLoad c l.d (word line)
            | none => t.endLoad c l.d (word line)

/-- SCALAR_LOAD_RETURN (R78). -/
def execScalarLoadReturn (c : ClusterId) (s : State) : Host.Outcome State Fault Refusal :=
  .next (match (s.cluster c).load, s.partOf c.val with
    | some l, some p => s.loadReturn c p l
    | _, _ => s)

/-- FENCE_COMPLETE (R92): every earlier operation has completed; an acquire of module or system scope empties the scalar
read cache (02 R51); the fence applies its field and releases issue. -/
def execFenceComplete (c : ClusterId) (s : State) : Host.Outcome State Fault Refusal :=
  let x := s.cluster c
  .next (match x.fence with
    | some f =>
      if x.running.isEmpty && x.load.isNone && [1, 2, 3, 4].all (fun k => (x.arch.queue k).isEmpty) then
        (s.modCluster c (fun x =>
          { x with fence := none, cache := if f.mode % 2 = 1 ∧ 2 ≤ f.scope then [] else x.cache })).applySignal c f.field 5 f.pc
      else s
    | none => s)

/-- MARKER (R71). -/
def execMarker (c : ClusterId) (p : Pipe) (s : State) : Host.Outcome State Fault Refusal := .next (s.startMarker c p)

/-- REMOTE_SIGNAL (R70): the oldest signal from outside applies. -/
def execRemoteSignal (c : ClusterId) (s : State) : Host.Outcome State Fault Refusal :=
  .next (match (s.cluster c).inbox with
    | sig :: rest =>
      (s.modCluster c (fun x => { x with inbox := rest })).applySignal c sig 5 (s.cluster c).arch.pc.toNat
    | [] => s)

/-- LONG_OP_COMPLETE (R67). -/
def execLongOpComplete (c : ClusterId) (p : Pipe) (s : State) : Host.Outcome State Fault Refusal := .next (s.completeOp c p)

end Sys2Proof.Machine
end

