-- ==== Sys2Proof/Machine/KloxaLdSt.lean ====
section
/-! DEFINITION. The load and store slots' operations (03 R87 to R90; 10 R286, R289, R296). -/

namespace Sys2Proof.Machine

/-- Unit data of row r of the scratchpad tile, as a number. -/
def Arch.rowNat (a : Arch) (h : W64) (addr r : Nat) : Nat := a.units (rowUnit h addr r) (shUnits h)

/-- A scratchpad write of one row. -/
def putRow (h : W64) (addr r v : Nat) : Write := .scratch (64 * rowUnit h addr r) (toBytes (64 * shUnits h) v)

/-- A fine line as it is written: bit 7 of every byte zero (04 R112). -/
def fineLine (l : Line) : Line := l &&& lineOf (List.replicate 64 0x7F#8)

/-! ### ld.q and st.q (R88) -/

/-- Whether a tile's rows lie in the partition's window at aligned offsets (R41, R88). -/
def State.inWindow (s : State) (p q : Nat) (h : W64) (off pitch : Nat) : Bool :=
  off % 64 == 0 && pitch % 64 == 0 && decide (off + (shRows h - 1) * pitch + 64 * shUnits h ≤ s.window p q)

/-- Bytes of a partition's window, which may lie in several shares' windows (02 R40). -/
def State.windowBytes (s : State) (p q off n : Nat) : List Byte :=
  (List.range n).map (fun i => Tab.get (fun _ => 0) (s.quarter q).qbuf (s.windowAddr p q (off + i)))

/-- Writes of whole lines into a partition's window (02 R42). -/
def State.windowWrites (s : State) (p q off : Nat) (bs : List Byte) : List Write :=
  (chunks 64 (bs.length + 1) bs).zipIdx.map (fun w => .qbuf q (s.windowAddr p q (off + 64 * w.2)) w.1)

/-- ld.q (R88). -/
def ldqStart (s : State) (c p : Nat) (e : QEntry) : State × Begun :=
  let h := e.shapes.getD 0 0
  let off := (e.ops.getD 0 0).toNat
  let pitch := (e.ops.getD 1 0).toNat
  let q := c / 320
  if s.inWindow p q h off pitch then
    (s, .run ((List.range (shRows h)).map (fun r =>
      putRow h (lSp e.bits) r (ofBytes (s.windowBytes p q (off + r * pitch) (64 * shUnits h))))) none)
  else (s, .fault 0x0A)

/-- st.q (R88). -/
def stqStart (s : State) (c p : Nat) (e : QEntry) : State × Begun :=
  let h := e.shapes.getD 0 0
  let off := (e.ops.getD 0 0).toNat
  let pitch := (e.ops.getD 1 0).toNat
  let q := c / 320
  if s.inWindow p q h off pitch then
    (s, .run ((List.range (shRows h)).flatMap (fun r =>
      s.windowWrites p q (off + r * pitch) (toBytes (64 * shUnits h) ((s.cluster c).arch.rowNat h (lSp e.bits) r)))) none)
  else (s, .fault 0x0A)

/-! ### ld.t and st.t (R89) -/

/-- Whether the tile lies within the tensor's local sizes: wafers by wafer coordinates (R89, 04 R124, log 18). -/
def Tensor.tileIn (t : Tensor) (r : Nat) (h : W64) (x0 x1 o : Nat) : Bool :=
  decide (o < t.outerCount r) &&
    (if shWafer h ≠ 0 then
      (if tRank t.desc = 1 then decide (x0 < t.sizeOn r 0 / 256) && decide (x1 + shRows h ≤ 1)
       else decide (x0 < t.sizeOn r 0 / 64) && decide (x1 + shRows h ≤ t.sizeOn r 1 / 4))
     else decide (x0 + shEls h ≤ t.sizeOn r 0) && decide (x1 + shRows h ≤ t.sizeOn r 1))

/-- The k-blocks of a scaled tile, and whether its scales line up with the tensor's (10 R296). -/
def scalesLineUp (h : W64) (x0 x1 : Nat) : Bool :=
  let s := stepsPerRow (shFormat h)
  let b0 := s * x1 / 32
  let nb := scaleBlocks h
  x0 % (64 * s) == 0 && s * x1 % 32 == 0 &&
    (List.range (ceilDiv nb 64)).all (fun t => (b0 + 64 * t) / 64 == (b0 + min nb (64 * t + 64) - 1) / 64)

/-- Fine lines of a scaled tile: unit and device address (R89, 10 R283). -/
def Tensor.finePairs (t : Tensor) (r : Nat) (h : W64) (x0 x1 o : Nat) : List (Nat × Nat) :=
  let s := stepsPerRow (shFormat h)
  (List.range (scaleBlocks h)).map (fun b =>
    (shScale h + 1 + b, t.fineAddr r (x0 / (64 * s)) (s * x1 / 32 + b) o))

/-- Device addresses of the coarse words of a scaled tile's scale tiles (R89). -/
def Tensor.coarseAddrs (t : Tensor) (r : Nat) (h : W64) (x0 x1 o : Nat) : List Nat :=
  let s := stepsPerRow (shFormat h)
  (List.range (ceilDiv (scaleBlocks h) 64)).map (fun k => t.coarseAddr r (x0 / (64 * s)) (s * x1 / 32 + 64 * k) o)

/-- Line addresses of one row of the tile. -/
def Tensor.tileRow (t : Tensor) (r : Nat) (h : W64) (x0 x1 o row : Nat) : List Nat :=
  if shWafer h ≠ 0 then t.waferAddrs r x0 (x1 + row) o else t.rowAddrs r x0 (shEls h) (x1 + row) o

/-- Line addresses of a tile: of its rows, and of its scales when it carries them. -/
def Tensor.tileLines (t : Tensor) (r : Nat) (h : W64) (x0 x1 o : Nat) : List Nat :=
  (List.range (shRows h)).flatMap (t.tileRow r h x0 x1 o) ++
    (if shScaled h then
      (t.finePairs r h x0 x1 o).map (·.2) ++ (t.coarseAddrs r h x0 x1 o).map (fun a => a - a % 64)
    else [])

/-- The start checks of ld.t and st.t: the tensor, or a fault (R89, R98). -/
def State.tileCheck (s : State) (p : Nat) (e : QEntry) : Tensor ⊕ Nat :=
  let h := e.shapes.getD 0 0
  let x0 := (e.ops.getD 1 0).toNat
  let x1 := (e.ops.getD 2 0).toNat
  let o := (e.ops.getD 3 0).toNat
  match s.tensorAt p (e.ops.getD 0 0) with
  | none => .inr 0x06
  | some t =>
    let r := s.memberOf t
    if tSpace t.desc ≠ 0 then .inr 0x06
    else if !shapeFmtOk h || shFmt h != tFmtCode t.desc || shWafer h != tWafer t.desc || shScaled h != tScaled t.desc then
      .inr 0x03
    else if !t.tileIn r h x0 x1 o || (shScaled h && !scalesLineUp h x0 x1) then .inr 0x07
    else if !s.mayRead p (t.tileLines r h x0 x1 o) then .inr 0x06
    else .inl t

/-- Rows of an ld.t, read in order; none after a bus error (R89, R99). -/
def State.ldRows (s : State) (p : Nat) (t : Tensor) (r : Nat) (h : W64) (addr x0 x1 o : Nat) :
    List Nat → State × List Write × Option Nat
  | [] => (s, [], none)
  | row :: rest =>
    match s.readAddrs p (t.tileRow r h x0 x1 o row) with
    | (u, _, some pln) => (u, [], some pln)
    | (u, ls, none) =>
      let v := if shWafer h ≠ 0 then ofBytes (ls.flatMap lineBytes)
        else packRow (shFormat h) (rowCodes (shFormat h) x0 (shEls h) ls)
      match u.ldRows p t r h addr x0 x1 o rest with
      | (w, ws, err) => (w, putRow h addr row v :: ws, err)

/-- ld.t (R89). -/
def ldtStart (s : State) (_c p : Nat) (e : QEntry) : State × Begun :=
  match s.tileCheck p e with
  | .inr code => (s, .fault code)
  | .inl t =>
    let h := e.shapes.getD 0 0
    let x0 := (e.ops.getD 1 0).toNat
    let x1 := (e.ops.getD 2 0).toNat
    let o := (e.ops.getD 3 0).toNat
    let r := s.memberOf t
    match s.ldRows p t r h (lSp e.bits) x0 x1 o (List.range (shRows h)) with
    | (u, ws, some pln) => (u, .run ws (some pln))
    | (u, ws, none) =>
      if !shScaled h then (u, .run ws none)
      else
        let fine := t.finePairs r h x0 x1 o
        match u.readAddrs p (fine.map (·.2)) with
        | (v, ls, err) =>
          let fw : List Write := (fine.zip ls).map (fun q => .scratch (64 * q.1.1) (lineBytes (fineLine q.2)))
          match err with
          | some pln => (v, .run (ws ++ fw) (some pln))
          | none =>
            let ca := t.coarseAddrs r h x0 x1 o
            match v.readAddrs p (ca.map (fun a => a - a % 64)) with
            | (z, _, some pln) => (z, .run (ws ++ fw) (some pln))
            | (z, cl, none) =>
              let words := (ca.zip cl).flatMap (fun q => toBytes 4 (lineNat q.2 (q.1 % 64) 4))
              (z, .run (ws ++ fw ++ [.scratch (64 * shScale h) (padTo 64 words)]) none)

/-- st.t (R89, 10 R286). -/
def sttStart (s : State) (c p : Nat) (e : QEntry) : State × Begun :=
  match s.tileCheck p e with
  | .inr code => (s, .fault code)
  | .inl t =>
    let h := e.shapes.getD 0 0
    let x0 := (e.ops.getD 1 0).toNat
    let x1 := (e.ops.getD 2 0).toNat
    let o := (e.ops.getD 3 0).toNat
    let r := s.memberOf t
    let a := (s.cluster c).arch
    if !s.mayWrite p (t.tileLines r h x0 x1 o) then (s, .fault 0x09)
    else
      let rows := (List.range (shRows h)).flatMap (fun row =>
        let v := a.rowNat h (lSp e.bits) row
        if shWafer h ≠ 0 then s.waferWrites p t r x0 (x1 + row) o v
        else s.rowWrites p t r x0 (x1 + row) o ((List.range (shEls h)).map (elCode (shFormat h) v)))
      let scales :=
        if shScaled h then
          (t.finePairs r h x0 x1 o).flatMap (fun q => s.devWrite p q.2 0 512 (fineLine (BitVec.ofNat 512 (a.units q.1 1))).toNat) ++
            (t.coarseAddrs r h x0 x1 o).zipIdx.flatMap (fun q =>
              s.devWrite p (q.1 - q.1 % 64) (8 * (q.1 % 64)) 32 (a.coarse h q.2).toNat)
        else []
      (s, .run (rows ++ scales) none)

/-! ### st.c (R90) -/

/-- Whether a cluster runs a job of the partition. -/
def State.runsJob (s : State) (c : Nat) (j : Nat × Nat) : Bool := (s.cluster c).job == some j

/-- Destination clusters of partition indices first to first + n - 1, when every one runs the sender's job in the sender's
quarter (R90). -/
def State.multicast (s : State) (c : Nat) (j : Nat × Nat) (first n : Nat) : Option (List Nat) :=
  let all := s.partClusters j.1
  let ds := (all.drop first).take n
  if ds.length = n ∧ ds.all (fun d => d / 320 == c / 320 && s.runsJob d j) then some ds else none

/-- Writes of the tile to the same shape at a destination unit of each cluster, then each cluster's remote signal
(R70, R90). -/
def multicastWrites (a : Arch) (h : W64) (src dst : Nat) (sig : BitVec 16) (ds : List Nat) : List Write :=
  ds.flatMap (fun d =>
    (List.range (shRows h)).map (fun r =>
      (Write.remote d (64 * rowUnit h dst r) (toBytes (64 * shUnits h) (a.rowNat h src r)))) ++
    (if sig = 0 then [] else [Write.remoteSignal d sig]))

/-- st.c (R90). -/
def stcStart (s : State) (c : Nat) (j : Nat × Nat) (e : QEntry) : State × Begun :=
  let h := e.shapes.getD 0 0
  let first := (e.ops.getD 0 0).toNat
  let dst := (e.ops.getD 1 0).toNat
  let n := (e.ops.getD 2 0).toNat
  let sd := e.ops.getD 3 0
  let sig : BitVec 16 := BitVec.ofNat 16 (fld sd 15 0)
  if n = 0 then (s, .finished)
  else if 16384 ≤ dst ∨ 16384 < dst + (shRows h - 1) * shStride h + shUnits h then (s, .fault 0x02)
  else if fld sd 31 16 ≠ 0 ∨ !sigOk sig then (s, .fault 0x04)
  else match (if n ≤ 300 ∧ first < 1200 then s.multicast c j first n else none) with
    | some ds => (s, .run (multicastWrites (s.cluster c).arch h (lSp e.bits) dst sig ds) none)
    | none => (s, .fault 0x0B)

/-! ### The commands -/

/-- The partition of a cluster's job. -/
def State.jobPart (s : State) (c : Nat) : Nat := match (s.cluster c).job with | some j => j.1 | none => 0

/-- LD_T (R89). -/
def execLdT (c : ClusterId) (s : State) : Host.Outcome State Fault Refusal :=
  .next (s.startOp c .load 0x01 (fun t e => ldtStart t c (t.jobPart c) e))

/-- ST_T (R89). -/
def execStT (c : ClusterId) (s : State) : Host.Outcome State Fault Refusal :=
  .next (s.startOp c .store 0x01 (fun t e => sttStart t c (t.jobPart c) e))

/-- LD_Q (R88). -/
def execLdQ (c : ClusterId) (s : State) : Host.Outcome State Fault Refusal :=
  .next (s.startOp c .load 0x02 (fun t e => ldqStart t c (t.jobPart c) e))

/-- ST_Q (R88). -/
def execStQ (c : ClusterId) (s : State) : Host.Outcome State Fault Refusal :=
  .next (s.startOp c .store 0x02 (fun t e => stqStart t c (t.jobPart c) e))

/-- ST_C (R90): with count 0 it completes in the cycle it starts. -/
def execStC (c : ClusterId) (s : State) : Host.Outcome State Fault Refusal :=
  .next (s.startOp c .store 0x03 (fun t e =>
    match (t.cluster c).job with
    | some j => stcStart t c j e
    | none => (t, .fault 0x0B)))

end Sys2Proof.Machine
end

