-- ==== Sys2Proof/Machine/CopyOps.lean ====
section
/-! DEFINITION. Copies: descriptors and sides (10 R291, R292), the places of boxes (R283, R289, R293, R295, R296), the
checks at start (R298), and the pieces that a copy writes (R293, R294). -/

namespace Sys2Proof.Machine

/-! ### Fields of a copy descriptor (R291) -/

def cType (d : Line) : Nat := lineNat d 0 1
def cTranspose (d : Line) : Bool := bitAt d 9
def cDigest (d : Line) : Bool := bitAt d 10
def cSignal (d : Line) : Bool := bitAt d 11
def cAtomic (d : Line) : Bool := bitAt d 12
def cRecord (d : Line) : Bool := bitAt d 13
def cBarrier (d : Line) : Bool := bitAt d 14
def cId (d : Line) : Nat := lineNat d 2 2
def cReduce (d : Line) : Nat := fld d 41 40
def cStream (d : Line) : Nat := fld d 45 42
def cListLen (d : Line) : Nat := lineNat d 6 2
def cCount0 (d : Line) : Nat := lineNat d 8 4
def cCount1 (d : Line) : Nat := lineNat d 12 4
/-- The kind of the source (false) or the destination (true). -/
def cKind (d : Line) (dst : Bool) : Nat := if dst then fld d 39 36 else fld d 35 32
/-- Word i of a side. -/
def cSide (d : Line) (dst : Bool) (i : Nat) : Nat := lineNat d ((if dst then 32 else 16) + 4 * i) 4
/-- The signal field of the notify. -/
def cSig (d : Line) : BitVec 16 := BitVec.ofNat 16 (lineNat d 48 2)
def cSigCluster (d : Line) : Nat := fld d 410 400
def cWordHandle (d : Line) : W32 := BitVec.ofNat 32 (lineNat d 48 4)
def cWordByte (d : Line) : Nat := lineNat d 52 4
def cListHandle (d : Line) : W32 := BitVec.ofNat 32 (lineNat d 56 4)
def cListFirst (d : Line) : Nat := lineNat d 60 4

/-! ### Sides (R292) -/

/-- One side of a copy: a tensor, or an on-chip tile. -/
structure Side where
  kind : Nat
  t : Tensor
  x0 : Nat
  x1 : Nat
  o : Nat
  fmt : Nat
  wafer : Nat
  scaled : Bool
  clusters : List Nat
  quarter : Nat
  /-- unit address and stride in units, or byte offset and pitch in bytes -/
  base : Nat
  pitch : Nat
  scale : Nat
  /-- first on-chip row of the box -/
  row0 : Nat
deriving DecidableEq, Repr

/-- The element format of a side. -/
def Side.f (x : Side) : Fmt := (fmtOf x.fmt).getD .fp32

/-- The tensor that a handle of partition p names, also while its destruction waits for copies (R287). -/
def State.tensorLive (s : State) (p : Nat) (h : W32) : Option Tensor :=
  let e := s.tensorEntry p (fld h 11 0)
  if fld h 31 24 = p ∧ fld h 23 12 = e.generation then e.tensor else none

/-- A side, or the status that refuses it (R285, R292, R298). -/
def State.side (s : State) (look : W32 → Option Tensor) (p : Nat) (d : Line) (dst : Bool) : Side ⊕ Nat :=
  let w (i : Nat) : Nat := cSide d dst i
  let kind := cKind d dst
  if kind = 0 then
    match look (BitVec.ofNat 32 (w 0)) with
    | none => .inr 0x30
    | some t =>
      .inl { kind := 0, t := t, x0 := w 1, x1 := w 2, o := w 3, fmt := tFmtCode t.desc, wafer := tWafer t.desc,
             scaled := tScaled t.desc, clusters := [], quarter := 0, base := 0, pitch := 0, scale := 0, row0 := 0 }
  else
    let fmt := bitsOf (w 2) 0 4
    let wafer := bitsOf (w 2) 4 2
    let scaled := (w 2).testBit 6
    let legal := (fmtOf fmt).isSome && (wafer == 0 || fmt == 0) && (!scaled || scalable ((fmtOf fmt).getD .fp32)) &&
      decide (w 2 < 128)
    let none_ : Tensor := { desc := 0, group := 0, destroying := none }
    if kind = 1 then
      let first := bitsOf (w 0) 0 16
      let n := bitsOf (w 1) 16 16
      let cs := ((s.partClusters p).drop first).take n
      if !legal || w 3 ≥ 2 ^ 14 || n == 0 || decide (300 < n) then .inr 0x28
      else if cs.length ≠ n ∨ !cs.all (fun c => c / 320 == cs.headD 0 / 320) then .inr 0x38
      else
        .inl { kind := 1, t := none_, x0 := 0, x1 := 0, o := 0, fmt := fmt, wafer := wafer, scaled := scaled, clusters := cs,
               quarter := cs.headD 0 / 320, base := bitsOf (w 0) 16 16, pitch := bitsOf (w 1) 0 16, scale := w 3, row0 := 0 }
    else if !legal || w 0 % 64 != 0 || w 1 % 64 != 0 || w 3 % 64 != 0 then .inr 0x28
    else
      .inl { kind := 2, t := none_, x0 := 0, x1 := 0, o := 0, fmt := fmt, wafer := wafer, scaled := scaled, clusters := [],
             quarter := ((List.range 4).find? (fun q => 0 < s.window p q)).getD 0, base := w 0, pitch := w 1, scale := w 3,
             row0 := 0 }

/-- A quarter-buffer side lies in the quarter of the other side's clusters, if it has any (log 36). -/
def Side.beside (x y : Side) : Side := if x.kind = 2 ∧ y.kind = 1 then { x with quarter := y.quarter } else x

/-- On-chip rows of a box of r rows of n. -/
def Side.rowsOf (x : Side) (n r : Nat) : Nat := if x.wafer = 0 then r else n * r

/-- The side at box i, which a list does not place: its rows follow those of the boxes before (R295). -/
def Side.nth (x : Side) (n r i : Nat) : Side :=
  if x.kind = 0 then { x with x1 := x.x1 + i * r } else { x with row0 := i * x.rowsOf n r }

/-- Size of dimension i that the coordinates of a copy count in: global for a tensor of device memory (R289). -/
def State.limit (s : State) (t : Tensor) (i : Nat) : Nat :=
  if tSpace t.desc = 0 then tSize t.desc i else t.sizeOn (s.memberOf t) i

/-- Units of one on-chip row of n elements, or of a wafer. -/
def Side.rowUnits (x : Side) (n : Nat) : Nat := if x.wafer = 0 then ceilDiv n (fmtEpu x.f) else waferUnits x.wafer

/-- k-blocks of a scaled box of r rows. -/
def Side.blocks (x : Side) (r : Nat) : Nat := ceilDiv (stepsPerRow x.f * r) 32

/-- Lane blocks of a scaled box of n elements a row. -/
def Side.lanes (x : Side) (n : Nat) : Nat := ceilDiv n (64 * stepsPerRow x.f)

/-- First k-block of the box. -/
def Side.block0 (x : Side) : Nat := stepsPerRow x.f * (if x.kind = 0 then x.x1 else x.row0) / 32

/-- The scales of a box start at whole blocks (R296). -/
def Side.aligned (x : Side) : Bool :=
  let q := stepsPerRow x.f
  !x.scaled || ((x.kind != 0 || x.x0 % (64 * q) == 0) && q * (if x.kind = 0 then x.x1 else x.row0) % 32 == 0)

/-- The box of r rows of n lies inside its tensor (R293). -/
def State.insideTensor (s : State) (x : Side) (n r : Nat) : Bool :=
  let lim := s.limit x.t
  let in01 :=
    if x.wafer = 0 then decide (x.x0 + n ≤ lim 0) && decide (x.x1 + r ≤ lim 1)
    else if tRank x.t.desc = 1 then decide (x.x0 + n ≤ lim 0 / 256) && decide (x.x1 + r ≤ 1)
    else decide (x.x0 + n ≤ lim 0 / 64) && decide (x.x1 + r ≤ lim 1 / 4)
  in01 && decide (x.o < lim 2 * lim 3 * lim 4 * lim 5)

/-- The status of the box that a list entry places: 0x37 where it leaves its tensor, else 0x31 where its scales do not line up
(R295, R296). -/
def State.judgeEntry (s : State) (x : Side) (n r : Nat) (b : Nat × Nat × Nat) : Nat :=
  let y := { x with x0 := b.1, x1 := b.2.1, o := b.2.2 }
  if !s.insideTensor y n r then 0x37 else if !y.aligned then 0x31 else 0

/-- The box of r rows of n lies inside the side and its scales start at whole blocks: 0, or the status (R293, R296, R298). -/
def State.fits (s : State) (p : Nat) (x : Side) (n r : Nat) : Nat :=
  if x.kind = 0 then
    if s.insideTensor x n r && x.aligned then 0 else 0x31
  else if !x.aligned || (x.scaled && decide (1 < x.lanes n)) then 0x31
  else
    let last := x.row0 + x.rowsOf n r - 1
    let nb := x.block0 + x.blocks r
    if x.kind = 1 then
      if x.base + last * x.pitch + x.rowUnits n ≤ 16384 ∧ (!x.scaled || decide (x.scale + 1 + nb ≤ 16384)) then 0 else 0x38
    else if x.base + last * x.pitch + 64 * x.rowUnits n ≤ s.window p x.quarter ∧
        (!x.scaled || decide (x.scale + 64 * (1 + nb) ≤ s.window p x.quarter)) then 0
    else 0x38

/-! ### Places (R283, R289) -/

/-- The dimension that a sharded tensor splits, if any. -/
def Tensor.split (t : Tensor) : Option Nat :=
  if tSharded t.desc then (List.range 6).find? (fun i => tShard t.desc i != 0) else none

/-- Global coordinates 2 to 5 of an outer index. -/
def Tensor.outerGlobal (t : Tensor) (o : Nat) : List Nat :=
  let n (i : Nat) : Nat := tSize t.desc i
  [o % n 2, (o / n 2) % n 3, (o / (n 2 * n 3)) % n 4, o / (n 2 * n 3 * n 4)]

/-- Members that hold element (x0, x1, o), with its coordinates there (R289): a replicated tensor of device memory is read
here and written on every member. -/
def State.homes (s : State) (t : Tensor) (write : Bool) (x0 x1 o : Nat) : List (Nat × Nat × Nat × Nat) :=
  let self := s.memberOf t
  if !tSharded t.desc || tSpace t.desc != 0 then [(self, x0, x1, o)]
  else match t.split with
    | none => if write then (List.range (gCount t.group)).map (fun r => (r, x0, x1, o)) else [(self, x0, x1, o)]
    | some 0 => let h := t.owner 0 x0; [(h.1, h.2, x1, o)]
    | some 1 => let h := t.owner 1 x1; [(h.1, x0, h.2, o)]
    | some i =>
      let xs := t.outerGlobal o
      let h := t.owner i (xs.getD (i - 2) 0)
      let ys := xs.set (i - 2) h.2
      let n (k : Nat) : Nat := t.sizeOn h.1 k
      let lo := ys.getD 0 0 + n 2 * (ys.getD 1 0 + n 3 * (ys.getD 2 0 + n 4 * ys.getD 3 0))
      [(h.1, x0, x1, lo)]

/-- The line at an address of a tensor on member r; none where the partition's address space has none. -/
def State.spotAt (s : State) (p : Nat) (t : Tensor) (r addr : Nat) : Option Spot :=
  match tSpace t.desc with
  | 0 =>
    if tSharded t.desc ∧ r ≠ s.memberOf t then some (.peer (gMember t.group r) addr)
    else (s.translate p addr).map (fun q => .dev q.1 q.2)
  | 1 => some (.host addr)
  | _ => some (.peer (tPeer t.desc) addr)

/-- A stretch of a row: elements [off : off + len) of the row lie from element `first` on in consecutive lines. In a wafer
side a row is one wafer. -/
structure Seg where
  off : Nat
  len : Nat
  first : Nat
  spots : List Spot
deriving DecidableEq, Repr

/-- Stretches of consecutive elements of a row on one member: member, first local index, offset in the row, length. -/
def ownerRuns (t : Tensor) (x0 : Nat) : Nat → List (Nat × Nat × Nat × Nat)
  | 0 => []
  | n + 1 =>
    let done_ := ownerRuns t x0 n
    let h := t.owner 0 (x0 + n)
    match done_.getLast? with
    | some (m, l, off, len) =>
      if m = h.1 ∧ l + len = h.2 then done_.dropLast ++ [(m, l, off, len + 1)] else done_ ++ [(h.1, h.2, n, 1)]
    | none => [(h.1, h.2, n, 1)]

/-- Where row j of a box of n elements a row lies (wafers: wafer j of n a row); none where a line does not exist. -/
def State.segs (s : State) (p : Nat) (x : Side) (write : Bool) (n j : Nat) : Option (List Seg) :=
  if x.kind = 0 then
    let t := x.t
    if x.wafer = 0 then
      let homes : List (Nat × Nat × Nat × Nat × Nat × Nat) :=
        if t.split = some 0 ∧ tSpace t.desc = 0 then
          (ownerRuns t x.x0 n).map (fun h => (h.1, h.2.1, x.x1 + j, x.o, h.2.2.1, h.2.2.2))
        else (s.homes t write x.x0 (x.x1 + j) x.o).map (fun h => (h.1, h.2.1, h.2.2.1, h.2.2.2, 0, n))
      if n = 0 then some []
      else
        homes.mapM (fun h =>
          let spots := (t.rowAddrs h.1 h.2.1 h.2.2.2.2.2 h.2.2.1 h.2.2.2.1).mapM (s.spotAt p t h.1)
          spots.map (fun l => { off := h.2.2.2.2.1, len := h.2.2.2.2.2, first := h.2.1 % tEpu t.desc, spots := l }))
    else
      let e := if tRank t.desc = 1 then 256 else 64
      let a := x.x0 + j % n
      let c := x.x1 + j / n
      (s.homes t write (e * a) (4 * c) x.o).mapM (fun h =>
        let spots := (t.waferAddrs h.1 (h.2.1 / e) (h.2.2.1 / 4) h.2.2.2).mapM (s.spotAt p t h.1)
        spots.map (fun l => { off := 0, len := 1, first := 0, spots := l }))
  else
    let u := x.rowUnits n
    let len := if x.wafer = 0 then n else 1
    if x.kind = 1 then
      some ((if write then x.clusters else x.clusters.take 1).map (fun c =>
        { off := 0, len := len, first := 0,
          spots := (List.range u).map (fun k => .sp c (64 * (x.base + (x.row0 + j) * x.pitch + k))) }))
    else
      some [{ off := 0, len := len, first := 0,
              spots := (List.range u).map (fun k =>
                .qb x.quarter (s.windowAddr p x.quarter (x.base + (x.row0 + j) * x.pitch + 64 * k))) }]

/-- Where on-chip unit u of a side's scale area lies. -/
def State.scaleUnit (s : State) (p : Nat) (x : Side) (write : Bool) (u : Nat) : List Spot :=
  if x.kind = 1 then (if write then x.clusters else x.clusters.take 1).map (fun c => .sp c (64 * (x.scale + u)))
  else [.qb x.quarter (s.windowAddr p x.quarter (x.scale + 64 * u))]

/-- Where the fine scale of element e of row i of a box lies, with its bit position in the fine line (R283, R289, R296;
04 R111). -/
def State.fineSpots (s : State) (p : Nat) (x : Side) (write : Bool) (e i : Nat) : Option (List (Spot × Nat)) :=
  let q := stepsPerRow x.f
  if x.kind = 0 then
    (s.homes x.t write (x.x0 + e) (x.x1 + i) x.o).mapM (fun h =>
      (s.spotAt p x.t h.1 (x.t.fineAddr h.1 (h.2.1 / (64 * q)) (q * h.2.2.1 / 32) h.2.2.2)).map (fun sp => (sp, 8 * (h.2.1 % 64))))
  else some ((s.scaleUnit p x write (1 + q * (x.row0 + i) / 32)).map (fun sp => (sp, 8 * (e % 64))))

/-- Where the coarse scale of element e of row i of a box lies, with its bit position in the line. -/
def State.coarseSpots (s : State) (p : Nat) (x : Side) (write : Bool) (e i : Nat) : Option (List (Spot × Nat)) :=
  let q := stepsPerRow x.f
  if x.kind = 0 then
    (s.homes x.t write (x.x0 + e) (x.x1 + i) x.o).mapM (fun h =>
      let addr := x.t.coarseAddr h.1 (h.2.1 / (64 * q)) (q * h.2.2.1 / 32) h.2.2.2
      (s.spotAt p x.t h.1 (addr - addr % 64)).map (fun sp => (sp, 8 * (addr % 64))))
  else some ((s.scaleUnit p x write 0).map (fun sp => (sp, 32 * (q * (x.row0 + i) / 32 / 64))))

/-- Whether lane block l of a box lies whole, and at the start of a lane block, on one member (R289). -/
def Side.laneWhole (x : Side) (l : Nat) : Bool :=
  let w := 64 * stepsPerRow x.f
  if x.kind = 0 ∧ tSpace x.t.desc = 0 ∧ x.t.split = some 0 then
    match ownerRuns x.t (x.x0 + w * l) w with
    | [h] => h.2.1 % w == 0
    | _ => false
  else true

/-- Whether the rows of a box may lie on several members. -/
def Side.rowsSplit (x : Side) : Bool := decide (x.kind = 0) && decide (tSpace x.t.desc = 0) && decide (x.t.split = some 1)

/-- The elements of lane block l and k-block j of a box of r rows whose scales a copy moves: one for the block, or one for each of
its lanes or rows where a sharded tensor divides the block (R289). -/
def scaleSamples (x y : Side) (r l j : Nat) : List (Nat × Nat) :=
  let q := stepsPerRow x.f
  let es := if x.laneWhole l && y.laneWhole l then [0] else List.range (64 * q)
  let rows := if x.rowsSplit || y.rowsSplit then (List.range (32 / q)).filter (fun i => decide (32 * j / q + i < r)) else [0]
  es.flatMap (fun e => rows.map (fun i => (64 * q * l + e, 32 * j / q + i)))

/-- A move of scale bits: from bit `pos` of a line to the same number of bits of others. -/
structure ScaleMove where
  src : Spot
  srcPos : Nat
  dst : List (Spot × Nat)
  len : Nat
deriving DecidableEq, Repr

/-- Drop repeats, keeping the first of each. -/
def dedup {α : Type} [DecidableEq α] : List α → List α
  | [] => []
  | x :: xs => x :: (dedup xs).filter (fun y => y ≠ x)

/-- Two moves that meet: one place would take two scales, or, out of an on-chip scale area (`tile`), one scale would go to two
places of a tensor (R296). -/
def ScaleMove.clash (tile : Bool) (a b : ScaleMove) : Bool :=
  (a.dst.any b.dst.contains && (a.src != b.src || a.srcPos != b.srcPos)) ||
    (tile && a.len == 32 && b.len == 32 && a.src == b.src && a.srcPos == b.srcPos && a.dst != b.dst)

/-- Whether some moves meet. -/
def clashing (tile : Bool) (c : List ScaleMove) : Bool := c.any (fun a => c.any (ScaleMove.clash tile a))

/-- The scale lines and words that a scaled box moves; none where a scale tile of a tile lies in two of the tensor (R296), where
the lanes or rows of a block that a sharded tensor divides would share a scale they do not have in common (R289), or where a line
does not exist. -/
def State.scaleMoves (s : State) (p : Nat) (x y : Side) (n r : Nat) : Option (List ScaleMove) :=
  if !x.scaled then some []
  else
    let blocks := (List.range (x.lanes n)).flatMap (fun l => (List.range (x.blocks r)).map (fun j => (l, j)))
    let ls := blocks.flatMap (fun b => scaleSamples x y r b.1 b.2)
    let fineLen (e : Nat) : Nat :=
      let l := e / (64 * stepsPerRow x.f)
      if x.laneWhole l && y.laneWhole l then 512 else 8
    let fine := ls.mapM (fun q =>
      match s.fineSpots p x false q.1 q.2, s.fineSpots p y true q.1 q.2 with
      | some (a :: _), some ds => some ({ src := a.1, srcPos := a.2, dst := ds, len := fineLen q.1 } : ScaleMove)
      | _, _ => none)
    let coarse := ls.mapM (fun q =>
      match s.coarseSpots p x false q.1 q.2, s.coarseSpots p y true q.1 q.2 with
      | some (a :: _), some ds => some ({ src := a.1, srcPos := a.2, dst := ds, len := 32 } : ScaleMove)
      | _, _ => none)
    match fine, coarse with
    | some f, some c =>
      let f := dedup f
      let c := dedup c
      if clashing (x.kind != 0) c || clashing false f then none else some (f ++ c)
    | _, _ => none

/-! ### The plan of a copy -/

/-- What a copy moves. -/
structure CopyPlan where
  src : Side
  dst : Side
  /-- coordinates at the side that a list gives; one entry for a COPY -/
  boxes : List (Nat × Nat × Nat)
  /-- 0, or the status of the list entry after these boxes: 0x37 where it leaves its tensor, 0x31 where its scales do not line
  up -/
  bad : Nat
deriving DecidableEq, Repr

/-- Rows and elements a row of a box at its destination (R294). -/
def dstDims (d : Line) : Nat × Nat := if cTranspose d then (cCount0 d, cCount1 d) else (cCount1 d, cCount0 d)

/-- The sides at box i with coordinates b (R295). -/
def CopyPlan.sides (c : CopyPlan) (d : Line) (i : Nat) (b : Nat × Nat × Nat) : Side × Side :=
  let put (x : Side) : Side := { x with x0 := b.1, x1 := b.2.1, o := b.2.2 }
  match cType d with
  | 2 => (put c.src, c.dst.nth (dstDims d).2 (dstDims d).1 i)
  | 3 => (c.src.nth (cCount0 d) (cCount1 d) i, put c.dst)
  | _ => (c.src, c.dst)

/-- Reserved bits, reserved encodings and fields that a type does not allow (R290, R291, R298). -/
def badCopy (program : Bool) (d : Line) : Bool :=
  let ty := cType d
  bitAt d 15 || decide (2 < cKind d false) || decide (2 < cKind d true) || fld d 47 46 != 0 || (cSignal d && cAtomic d) ||
    (cSignal d && !sigOk (cSig d)) || (cAtomic d && cWordByte d % 4 != 0) || (program && cRecord d) ||
    ((ty == 1) != (cListLen d == 0)) || (ty == 2 && cKind d false != 0) || (ty == 3 && cKind d true != 0)

/-- Sides that R293, R294 and the reduce op allow to meet. -/
def formatsOk (d : Line) (x y : Side) : Bool :=
  let bits := fmtBits x.f
  x.fmt == y.fmt && x.wafer == y.wafer && x.scaled == y.scaled &&
    (!cTranspose d || ((bits == 8 || bits == 16 || bits == 32) && !x.scaled && x.wafer == 0)) &&
    (match cReduce d with
     | 1 => x.fmt == 9 && x.wafer == 0
     | 2 => x.fmt == 0 && x.wafer == 0
     | 3 => x.wafer != 0
     | _ => true)

/-- The bytes of list entry i, out of the bytes of the list. -/
def listEntry (bs : List Byte) (first i : Nat) : Option (Nat × Nat × Nat) :=
  let e := (bs.drop (16 * (first + i))).take 16
  if e.length = 16 ∧ allZero (e.drop 12) then some (ofBytes (e.take 4), ofBytes ((e.drop 4).take 4), ofBytes ((e.drop 8).take 4))
  else none

/-- The entries of a list up to the first that is bad, with its status: 0x37 where it leaves the tensor (R295), 0x31 where its
scales do not line up (R296); 0 when none is. -/
def takeBoxes (judge : Nat × Nat × Nat → Nat) (bs : List Byte) (first : Nat) : Nat → Nat → List (Nat × Nat × Nat) × Nat
  | 0, _ => ([], 0)
  | n + 1, i =>
    match listEntry bs first i with
    | none => ([], 0x37)
    | some b =>
      match judge b with
      | 0 => let r := takeBoxes judge bs first n (i + 1); (b :: r.1, r.2)
      | e + 1 => ([], e + 1)

/-- Modules that a copy's lines lie on. -/
def peersOf (l : List Spot) : List Nat := dedup (l.filterMap (fun x => match x with | .peer m _ => some m | _ => none))

/-- Every line of a box, source first; none where one does not exist. -/
def State.boxSpots (s : State) (p : Nat) (d : Line) (x y : Side) : Option (List (List Seg) × List (List Seg) × List ScaleMove) :=
  let dd := dstDims d
  let src := (List.range (x.rowsOf (cCount0 d) (cCount1 d))).mapM (s.segs p x false (cCount0 d))
  let dst := (List.range (y.rowsOf dd.2 dd.1)).mapM (s.segs p y true dd.2)
  match src, dst, s.scaleMoves p x y (cCount0 d) (cCount1 d) with
  | some a, some b, some c => some (a, b, c)
  | _, _, _ => none

/-- Lines named by stretches. -/
def segSpots (l : List (List Seg)) : List Spot := l.flatMap (fun r => r.flatMap (·.spots))

/-- Lines of a destination stretch that need the old line to be written: a part of a peer's line, and in host memory a part
that is not whole bytes, or any line under a reduce (log 36). -/
def mergeSpots (f : Fmt) (wafer : Bool) (reduce : Nat) (g : Seg) : List Spot :=
  let epu := fmtEpu f
  g.spots.zipIdx.filterMap (fun q =>
    let lo := max g.first (q.2 * epu)
    let hi := min (g.first + g.len) ((q.2 + 1) * epu)
    match q.1 with
    | .peer m a => if !wafer && reduce == 0 && decide (hi - lo < epu) then some (.peer m a) else none
    | .host a =>
      if reduce != 0 || (!wafer && (fmtBits f * lo % 8 != 0 || fmtBits f * (hi - lo) % 8 != 0)) then some (.host a) else none
    | _ => none)

/-- Lines of the host and of peers that a box needs read. -/
def boxNeeds (d : Line) (y : Side) (b : List (List Seg) × List (List Seg) × List ScaleMove) : List Spot :=
  let far (x : Spot) : Bool := match x with | .host _ => true | .peer _ _ => true | _ => false
  let merges := b.2.1.flatMap (fun r => r.flatMap (mergeSpots y.f (y.wafer != 0) (cReduce d)))
  let words := b.2.2.flatMap (fun m => if m.len = 512 then [] else m.dst.filterMap (fun q => match q.1 with
    | .peer k a => some (.peer k a)
    | _ => none))
  (segSpots b.1 ++ b.2.2.map (fun (m : ScaleMove) => m.src) ++ merges ++ words).filter far

/-- The line that a copy has read from the host or a peer. -/
def extLine (ext : List (Spot × Line)) (x : Spot) : Line :=
  match ext.find? (fun e => e.1 == x) with
  | some e => e.2
  | none => 0

/-! ### Reading -/

/-- Read a line: none with the PLN of a bus error. -/
def State.readSpot (s : State) (p : Nat) (ext : List (Spot × Line)) (x : Spot) : State × (Line ⊕ Nat) :=
  match x with
  | .dev _ pln =>
    match s.readLine (ctlOf pln) pln p with
    | (t, some l) => (t, .inl l)
    | (t, none) => (t, .inr pln)
  | .sp c a => (s, .inl (lineOf ((s.cluster c).arch.spBytes a 64)))
  | .qb q a => (s, .inl (lineOf (Tab.getList (fun _ => 0) (s.quarter q).qbuf a 64)))
  | x => (s, .inl (extLine ext x))

/-- Read lines in order up to the first bus error. -/
def State.readSpots (s : State) (p : Nat) (ext : List (Spot × Line)) : List Spot → State × List Line × Option Nat
  | [] => (s, [], none)
  | x :: xs =>
    match s.readSpot p ext x with
    | (t, .inr pln) => (t, [], some pln)
    | (t, .inl l) =>
      match t.readSpots p ext xs with
      | (u, ls, e) => (u, l :: ls, e)

/-- The codes of a row out of its stretches' lines; a wafer row is the one number of its bytes. -/
def segCodes (f : Fmt) (wafer : Bool) (g : Seg) (ls : List Line) : List Nat :=
  if wafer then [ofBytes (ls.flatMap lineBytes)] else rowCodes f g.first g.len ls

/-- Read a row. -/
def State.readRow (s : State) (p : Nat) (ext : List (Spot × Line)) (f : Fmt) (wafer : Bool) :
    List Seg → State × List Nat × Option Nat
  | [] => (s, [], none)
  | g :: gs =>
    match s.readSpots p ext g.spots with
    | (t, _, some pln) => (t, [], some pln)
    | (t, ls, none) =>
      match t.readRow p ext f wafer gs with
      | (u, cs, e) => (u, segCodes f wafer g ls ++ cs, e)

/-- Read the rows of a box. -/
def State.readRows (s : State) (p : Nat) (ext : List (Spot × Line)) (f : Fmt) (wafer : Bool) :
    List (List Seg) → State × List (List Nat) × Option Nat
  | [] => (s, [], none)
  | r :: rs =>
    match s.readRow p ext f wafer r with
    | (t, _, some pln) => (t, [], some pln)
    | (t, cs, none) =>
      match t.readRows p ext f wafer rs with
      | (u, rows, e) => (u, cs :: rows, e)

/-- The bytes that a row adds to a digest (R299): its element bits packed densely, or a wafer's bytes. -/
def digestRow (f : Fmt) (wafer : Nat) (codes : List Nat) : List Byte :=
  if wafer ≠ 0 then codes.flatMap (toBytes (64 * waferUnits wafer))
  else
    let w := fmtBits f
    toBytes (ceilDiv (w * codes.length) 8) (codes.zipIdx.foldl (fun a c => a + c.1 * 2 ^ (w * c.2)) 0)

/-- Column i of each row becomes row i (R294). -/
def transposeRows (n : Nat) (rows : List (List Nat)) : List (List Nat) :=
  (List.range n).map (fun i => rows.map (fun r => r.getD i 0))

/-! ### Pieces -/

/-- The old line with a part replaced. -/
def mergedLine (ext : List (Spot × Line)) (x : Spot) (pos len v : Nat) : Nat :=
  (setFld (extLine ext x) (pos + len - 1) pos v).toNat

/-- The code that adding leaves every element as it is: -0, or 0 in an integer format. -/
def neutral (f : Fmt) : Nat := if fmtInt f then 0 else signBit f true

/-- Sum of two element codes (R293): decoded exactly, added in FP32, narrowed to the format. -/
def addCode (f : Fmt) (a b : Nat) : Nat := narrow f (r32 (addEx (decodeEl f a) (decodeEl f b)))

/-- Sum of two wafers (04 R129). -/
def addWaferBits (rate a b : Nat) : Nat :=
  waferEncode rate (List.zipWith (fun x y => narrow .bf16 (r32 (addEx x y))) (waferDecode rate a) (waferDecode rate b))

/-- A line with codes added to its elements from `first` on. -/
def addToLine (f : Fmt) (first : Nat) (codes : List Nat) (l : Nat) : Nat :=
  let epu := fmtEpu f
  packRow f ((List.range epu).map (fun j =>
    let old := elCode f l j
    if first ≤ j ∧ j < first + codes.length then addCode f old (codes.getD (j - first) 0) else old))

/-- The pieces that write a row's codes into a stretch (R293). -/
def segPieces (f : Fmt) (rate reduce : Nat) (ext : List (Spot × Line)) (g : Seg) (row : List Nat) : List Piece :=
  if rate ≠ 0 then
    let v := row.headD 0
    if reduce = 0 then g.spots.zipIdx.map (fun q => .put q.1 0 512 (bitsOf v (512 * q.2) 512))
    else match g.spots with
      | .host _ :: _ =>
        let old := ofBytes (g.spots.flatMap (fun x => lineBytes (extLine ext x)))
        g.spots.zipIdx.map (fun q => .put q.1 0 512 (bitsOf (addWaferBits rate old v) (512 * q.2) 512))
      | _ => [.addWafer g.spots rate v]
  else
    let epu := fmtEpu f
    let w := fmtBits f
    let codes := (row.drop g.off).take g.len
    g.spots.zipIdx.flatMap (fun q =>
      let lo := max g.first (q.2 * epu)
      let hi := min (g.first + g.len) ((q.2 + 1) * epu)
      let part := (codes.drop (lo - g.first)).take (hi - lo)
      let at0 := lo - q.2 * epu
      let tail : List Piece := if fp6Tail f = 0 then [] else [.put q.1 384 128 0]
      if reduce ≠ 0 then
        match q.1 with
        | .host a => [.put (.host a) 0 512 (addToLine f at0 part (extLine ext (.host a)).toNat)]
        | x => [.add x f at0 part]
      else if hi - lo = epu then [.put q.1 0 512 (packRow f part)]
      else if (mergeSpots f false 0 g).contains q.1 then
        [.put q.1 0 512 (bitsOf (mergedLine ext q.1 (w * at0) (w * (hi - lo)) (packRow f part)) 0 (512 - fp6Tail f))]
      else .put q.1 (w * at0) (w * (hi - lo)) (packRow f part) :: tail)

/-- The pieces of a scale move: bit 7 of a fine scale is written as zero (04 R112), and an on-chip coarse unit's bytes 16 to 63 are
written as zero (04 R111). -/
def scalePieces (ext : List (Spot × Line)) (m : ScaleMove) (l : Line) : List Piece :=
  let v := bitsOf (if m.len = 32 then l else fineLine l).toNat m.srcPos m.len
  m.dst.flatMap (fun q =>
    let tail : List Piece := if m.len ≠ 32 then [] else match q.1 with
      | .sp c a => [.put (.sp c a) 128 384 0]
      | .qb k a => [.put (.qb k a) 128 384 0]
      | _ => []
    match q.1 with
    | .peer k a =>
      if m.len = 512 then [.put (.peer k a) 0 512 v] else [.put (.peer k a) 0 512 (mergedLine ext (.peer k a) q.2 m.len v)]
    | x => tail ++ [.put x q.2 m.len v])

/-- The outside lines that merges start from, once a piece is on its way: a later piece of the copy that meets a line finds what
the earlier ones left there (R293, R295). -/
def noteLine (acc : List (Spot × Line)) (x : Piece) : List (Spot × Line) :=
  match x with
  | .put y pos len v => acc.map (fun e => if e.1 = y then (e.1, setFld e.2 (pos + len - 1) pos v) else e)
  | _ => acc

/-- Pieces made one after another, each merged with what those before it leave. -/
def chainPieces {α : Type} (make : List (Spot × Line) → α → List Piece) :
    List (Spot × Line) → List α → List Piece × List (Spot × Line)
  | acc, [] => ([], acc)
  | acc, x :: xs =>
    let n := make acc x
    let r := chainPieces make (n.foldl noteLine acc) xs
    (n ++ r.1, r.2)

/-- Read one box and form its pieces and its digest bytes; the PLN of a bus error. `acc` holds the outside lines as the boxes
before leave them. -/
def State.boxPieces (s : State) (p : Nat) (d : Line) (ext acc : List (Spot × Line)) (x y : Side)
    (b : List (List Seg) × List (List Seg) × List ScaleMove) :
    State × List Piece × List (Spot × Line) × List Byte × Option Nat :=
  match s.readRows p ext x.f (x.wafer != 0) b.1 with
  | (t, _, some pln) => (t, [], acc, [], some pln)
  | (t, rows, none) =>
    match t.readSpots p ext (b.2.2.map (fun (m : ScaleMove) => m.src)) with
    | (u, _, some pln) => (u, [], acc, [], some pln)
    | (u, ls, none) =>
      let out := if cTranspose d then transposeRows (cCount0 d) rows else rows
      let ps := chainPieces (fun a q => segPieces y.f y.wafer (cReduce d) a q.1 q.2) acc
        ((b.2.1.zip out).flatMap (fun q => q.1.map (fun g => (g, q.2))))
      let sc := chainPieces (fun a q => scalePieces a q.1 q.2) ps.2 (b.2.2.zip ls)
      (u, ps.1 ++ sc.1, sc.2, rows.flatMap (digestRow x.f x.wafer), none)

/-! ### Writing -/

/-- Write a whole line at a place in the module. -/
def State.writeSpot (s : State) (x : Spot) (v : Nat) : State :=
  match x with
  | .dev _ pln => s.writeLine pln (BitVec.ofNat 512 v)
  | .sp c a => s.modCluster c (fun k => { k with arch := k.arch.setSp a (toBytes 64 v) })
  | .qb q a => s.modQuarter q (fun k => { k with qbuf := Tab.setList (fun _ => 0) k.qbuf a (toBytes 64 v) })
  | _ => s

/-- Whether a line still lies where a descriptor's region placed it (R287). -/
def State.spotThere (s : State) (x : Spot) : Bool :=
  match x with
  | .dev i pln => (s.region i).hasLine pln && (s.region i).st == 2
  | _ => true

/-- Whether partition p may write a line now (R286). -/
def State.spotWritable (s : State) (p : Nat) (x : Spot) : Bool :=
  match x with
  | .dev i _ => s.spotThere x && (s.region i).owner == p && !(s.region i).locked
  | _ => true

/-- The places of a piece. -/
def Piece.spots : Piece → List Spot
  | .put x _ _ _ => [x]
  | .add x _ _ _ => [x]
  | .addWafer l _ _ => l

/-- Write one piece; a failure gives the status and the PLN (R286, R287, R293, R298). -/
def State.applyPiece (s : State) (p : Nat) (x : Piece) : State × Option (Nat × Option Nat) :=
  if !x.spots.all s.spotThere then (s, some (0x30, none))
  else if !x.spots.all (s.spotWritable p) then (s, some (0x33, none))
  else match x with
    | .put (.dev _ pln) pos len v =>
      match s.mergeLine (ctlOf pln) pln p pos len v with
      | (t, true) => (t, some (0x34, some pln))
      | (t, false) => (t, none)
    | .put (.host a) pos len v => (s.hostWrite (p + 1) (a + pos / 8) (toBytes (len / 8) v), none)
    | .put y pos len v =>
      match s.readSpot p [] y with
      | (t, .inl l) => (t.writeSpot y (setFld l (pos + len - 1) pos v).toNat, none)
      | (t, .inr pln) => (t, some (0x34, some pln))
    | .add y f first codes =>
      match s.readSpot p [] y with
      | (t, .inl l) => (t.writeSpot y (addToLine f first codes l.toNat), none)
      | (t, .inr pln) => (t, some (0x34, some pln))
    | .addWafer ys rate v =>
      match s.readSpots p [] ys with
      | (t, _, some pln) => (t, some (0x34, some pln))
      | (t, ls, none) =>
        let w := addWaferBits rate (ofBytes (ls.flatMap lineBytes)) v
        (ys.zipIdx.foldl (fun u q => u.writeSpot q.1 (bitsOf w (512 * q.2) 512)) t, none)

/-- Write the pieces in order; after the first that fails each of the others is written or not by a free choice (R298,
log 37). -/
def State.applyPieces (s : State) (p : Nat) (xs : List Piece) : State × Option (Nat × Option Nat) :=
  xs.foldl (fun a x =>
    match a.2 with
    | none => a.1.applyPiece p x
    | some e =>
      let t := a.1.useFree
      (if bitAt a.1.freeVal 0 then (t.applyPiece p x).1 else t, some e)) (s, none)

/-- Pieces of a copy that failed: each is written or not by a free choice (R298, log 37). -/
def State.applyAny (s : State) (p : Nat) (xs : List Piece) : State :=
  xs.foldl (fun t x =>
    let u := t.useFree
    if bitAt t.freeVal 0 then (u.applyPiece p x).1 else u) s

/-! ### Copies in flight -/

/-- Copy number `id`. -/
def State.copyAt (s : State) (id : Nat) : Option CopyJob := s.copies.find? (fun c => c.id == id)

/-- Change a copy. -/
def State.modCopy (s : State) (id : Nat) (f : CopyJob → CopyJob) : State :=
  { s with copies := s.copies.map (fun c => if c.id = id then f c else c) }

/-- Send a packet of a copy and wait for its answer. -/
def State.sendFor (s : State) (id p d typ lines addr : Nat) (payload : List Line) : State :=
  let tag := s.links.nextTag
  (s.sendPacket p d typ lines addr payload (some id) none).modCopy id (fun c => { c with waiting := c.waiting ++ [tag] })

/-- The WRITE packet of a piece that a peer holds (15 R381): the reduce op in addr[47:40], an element outside the piece carried
as its neutral code. -/
def State.sendPiece (s : State) (id p reduce : Nat) (x : Piece) : State :=
  match x with
  | .put (.peer m a) _ _ v => s.sendFor id p m 1 1 a [BitVec.ofNat 512 v]
  | .add (.peer m a) f first codes =>
    let l := packRow f ((List.range (fmtEpu f)).map (fun j =>
      if first ≤ j ∧ j < first + codes.length then codes.getD (j - first) 0 else neutral f))
    s.sendFor id p m 1 1 (a + at_ 40 reduce) [BitVec.ofNat 512 l]
  | .addWafer (.peer m a :: ys) _ v =>
    s.sendFor id p m 1 (ys.length + 1) (a + at_ 40 reduce)
      ((List.range (ys.length + 1)).map (fun k => BitVec.ofNat 512 (bitsOf v (512 * k) 512)))
  | _ => s

/-- Whether a piece goes to a peer. -/
def Piece.isFar (x : Piece) : Bool := x.spots.any (fun y => match y with | .peer _ _ => true | _ => false)

/-- Form the pieces of the boxes in order, up to a bus error. -/
def State.allPieces (s : State) (p : Nat) (d : Line) (ext : List (Spot × Line)) (acc : List (Spot × Line))
    (plan : CopyPlan) :
    List ((Nat × Nat × Nat) × Nat) → State × List Piece × List Byte × Option (Nat × Option Nat)
  | [] => (s, [], [], none)
  | b :: bs =>
    let xy := plan.sides d b.2 b.1
    match s.boxSpots p d xy.1 xy.2 with
    | none => (s, [], [], some (0x30, none))
    | some spots =>
      match s.boxPieces p d ext acc xy.1 xy.2 spots with
      | (t, _, _, _, some pln) => (t, [], [], some (0x34, some pln))
      | (t, ps, acc, dg, none) =>
        match t.allPieces p d ext acc plan bs with
        | (u, qs, eg, e) => (u, ps ++ qs, dg ++ eg, e)

/-- A copy whose outside lines are all there reads its source, sends what peers hold, and keeps the rest for its completion
(R293). -/
def State.moveCopy (s : State) (id : Nat) : State :=
  match s.copyAt id with
  | none => s
  | some c =>
    let p := c.partition
    match s.side (s.tensorLive p) p c.desc false, s.side (s.tensorLive p) p c.desc true with
    | .inl x, .inl y =>
      let plan : CopyPlan := { src := x.beside y, dst := y.beside x, boxes := c.boxes, bad := 0 }
      match s.allPieces p c.desc c.ext c.ext plan c.boxes.zipIdx with
      | (t, ps, dg, e) =>
        let status := match e with
          | some q => if c.status = 0 ∨ c.status = 0x37 then q.1 else c.status
          | none => c.status
        let t := t.modCopy id (fun k =>
          { k with stage := 1, pieces := ps.filter (fun z => !z.isFar), status := status,
                   err := match e with | some q => q.2 | none => none,
                   digest := k.digest.map (fun g => (g.1, dg)), ext := [],
                   members := if y.kind = 0 ∧ tSharded y.t.desc ∧ tSpace y.t.desc = 0 then peersOf (ps.flatMap Piece.spots) else [] })
        (ps.filter Piece.isFar).foldl (fun u z => u.sendPiece id p (cReduce c.desc) z) t
    | _, _ => s.modCopy id (fun k => { k with stage := 1, status := 0x30, ext := [] })

end Sys2Proof.Machine
end

