-- ==== Sys2Proof/Machine/CollOps.lean ====
section
/-! DEFINITION. Collectives as one member performs them (15 R386 to R389): the pieces of the payload, what a member sends when
all have joined, and what it does with each piece that arrives. -/

namespace Sys2Proof.Machine

/-! ### Fields (R386) -/

def kOp (d : Line) : Nat := fld d 33 32
def kReduce (d : Line) : Nat := fld d 35 34
def kDirect (d : Line) : Bool := bitAt d 36
def kRoot (d : Line) : Nat := lineNat d 6 2
def kSrc (d : Line) : W32 := BitVec.ofNat 32 (lineNat d 8 4)
def kSeq (d : Line) : Nat := lineNat d 12 4
def kDst (d : Line) : W32 := BitVec.ofNat 32 (lineNat d 16 4)

/-- Reserved bits and encodings (R386). -/
def badColl (program : Bool) (d : Line) : Bool :=
  fld d 10 9 != 0 || bitAt d 15 || fld d 39 37 != 0 || fld d 47 40 != 0 || lineNat d 20 28 != 0 || lineNat d 56 8 != 0 ||
    (cSignal d && cAtomic d) || (cSignal d && !sigOk (cSig d)) || (cAtomic d && cWordByte d % 4 != 0) ||
    (program && cRecord d) || ((kReduce d != 0) != decide (kOp d ≤ 1)) || (kRoot d != 0 && kOp d != 3)

/-- Whether a tensor is replicated on its group. -/
def Tensor.replicated (t : Tensor) : Bool := tSharded t.desc && t.split.isNone

/-- Whether a tensor is blocked on its last dimension. -/
def Tensor.blockedLast (t : Tensor) : Bool :=
  match t.split with
  | some i => tShard t.desc i == 1 && i + 1 == tRank t.desc
  | none => false

/-- Tensors that a collective accepts (R386): one group, equal formats and global sizes, the shards of its op; a reduce of the
payload's format (log 38). -/
def collTensorsOk (d : Line) (x y : Tensor) : Bool :=
  tSpace x.desc == 0 && tSpace y.desc == 0 && x.group == y.group && tFmtCode x.desc == tFmtCode y.desc &&
    tWafer x.desc == tWafer y.desc && !tScaled x.desc && !tScaled y.desc &&
    (List.range 6).all (fun i => tSize x.desc i == tSize y.desc i) &&
    (match kOp d with
     | 0 => x.replicated && y.replicated
     | 1 => x.replicated && y.blockedLast
     | 2 => x.blockedLast && y.replicated
     | _ => x.replicated && y.replicated) &&
    (match kReduce d with
     | 1 => tFmtCode x.desc == 9 && tWafer x.desc == 0
     | 2 => tFmtCode x.desc == 0 && tWafer x.desc == 0
     | 3 => tWafer x.desc != 0
     | _ => true)

/-- What members compare (R387): op, root, seq, formats and global sizes. -/
def collLine (d : Line) (x y : Tensor) : Line :=
  lineOf (toBytes 1 (kOp d) ++ toBytes 2 (kRoot d) ++ toBytes 4 (kSeq d) ++ toBytes 1 (tFmtCode x.desc + 16 * tWafer x.desc) ++
    (List.range 6).flatMap (fun i => toBytes 4 (tSize x.desc i)) ++ (List.range 6).flatMap (fun i => toBytes 4 (tSize y.desc i)))

/-- Collective number in a member's line. -/
def collLineSeq (l : Line) : Nat := lineNat l 3 4

/-! ### Pieces of the payload (R388) -/

/-- A piece: elements of one line, or a wafer, of one chunk, with its place in the input and in the output. -/
structure CPiece where
  chunk : Nat
  len : Nat
  srcAddr : Nat
  srcFirst : Nat
  dstAddr : Nat
  dstFirst : Nat
deriving DecidableEq, Repr

/-- Address of the line of an element on the members that hold it, with the element's index in the line. -/
def State.elementAt (s : State) (t : Tensor) (x0 x1 o : Nat) : Nat × Nat :=
  match s.homes t false x0 x1 o with
  | h :: _ => (t.unitAddr h.1 h.2.1 h.2.2.1 h.2.2.2, h.2.1 % tEpu t.desc)
  | [] => (0, 0)

/-- The chunk of an element or wafer: blocks in storage order, or the member that owns it (R386, R388). -/
def State.chunkOf (s : State) (d : Line) (x y : Tensor) (total index x0 x1 o : Nat) : Nat :=
  let ownerIn (t : Tensor) : Nat := match s.homes t false x0 x1 o with | h :: _ => h.1 | [] => 0
  match kOp d with
  | 1 => ownerIn y
  | 2 => ownerIn x
  | _ => index / ceilDiv total (gCount x.group)

/-- Join an element to the last piece of a list when chunk and lines agree. -/
def addElement (ps : List CPiece) (e : CPiece) : List CPiece :=
  match ps with
  | p :: rest =>
    if p.chunk = e.chunk ∧ p.srcAddr = e.srcAddr ∧ p.dstAddr = e.dstAddr ∧ p.srcFirst + p.len = e.srcFirst ∧
        p.dstFirst + p.len = e.dstFirst then { p with len := p.len + 1 } :: rest
    else e :: p :: rest
  | [] => [e]

/-- The pieces of a collective in storage order. -/
def State.collPieces (s : State) (d : Line) (x y : Tensor) : List CPiece :=
  let n (i : Nat) : Nat := tSize x.desc i
  let outer := n 2 * n 3 * n 4 * n 5
  if tWafer x.desc = 0 then
    let total := n 0 * n 1 * outer
    ((List.range total).foldl (fun ps e =>
      let x0 := e % n 0
      let x1 := e / n 0 % n 1
      let o := e / (n 0 * n 1)
      let a := s.elementAt x x0 x1 o
      let b := s.elementAt y x0 x1 o
      addElement ps { chunk := s.chunkOf d x y total e x0 x1 o, len := 1, srcAddr := a.1, srcFirst := a.2, dstAddr := b.1,
                      dstFirst := b.2 }) []).reverse
  else
    let e := if tRank x.desc = 1 then 256 else 64
    let na := n 0 / e
    let nc := if tRank x.desc = 1 then 1 else n 1 / 4
    let total := na * nc * outer
    (List.range total).map (fun w =>
      let a := w % na
      let c := w / na % nc
      let o := w / (na * nc)
      let place (t : Tensor) : Nat := match s.homes t false (e * a) (4 * c) o with
        | h :: _ => t.placeAddr h.1 (h.2.1 / e) (h.2.2.1 / 4) h.2.2.2
        | [] => 0
      { chunk := s.chunkOf d x y total w (e * a) (4 * c) o, len := 1, srcAddr := place x, srcFirst := 0, dstAddr := place y,
        dstFirst := 0 })

/-- The place of a piece in bytes: the address that its packets carry. -/
def cAddr (f : Fmt) (line first : Nat) : Nat := line + fmtBits f * first / 8

/-- Codes of a piece out of the payload of a packet or the lines of memory. -/
def pieceCodes (f : Fmt) (wafer first len : Nat) (ls : List Line) : List Nat :=
  if wafer ≠ 0 then [ofBytes (ls.flatMap lineBytes)] else rowCodes f first len ls

/-- The payload that carries codes at their place in a line. -/
def pieceLines (f : Fmt) (wafer first : Nat) (codes : List Nat) : List Line :=
  if wafer ≠ 0 then (List.range (waferUnits wafer)).map (fun k => BitVec.ofNat 512 (bitsOf (codes.headD 0) (512 * k) 512))
  else [BitVec.ofNat 512 (packRow f (List.replicate first 0 ++ codes))]

/-- Sums of codes element by element, or of wafers (R293; 04 R129). -/
def sumCodes (f : Fmt) (wafer : Nat) (a b : List Nat) : List Nat :=
  if wafer ≠ 0 then List.zipWith (addWaferBits wafer) a b else List.zipWith (addCode f) a b

/-! ### A member's part -/

/-- A collective's member: its copy, tensors and place in the group. -/
structure Member where
  c : CopyJob
  x : Tensor
  y : Tensor
  f : Fmt
  wafer : Nat
  g : Nat
  m : Nat
  direct : Bool
deriving DecidableEq, Repr

/-- The member's view of collective `id`. -/
def State.member (s : State) (id : Nat) : Option Member :=
  match s.copyAt id with
  | none => none
  | some c =>
    match s.tensorLive c.partition (kSrc c.desc), s.tensorLive c.partition (kDst c.desc) with
    | some x, some y =>
      some { c := c, x := x, y := y, f := tFmt x.desc, wafer := tWafer x.desc, g := gCount x.group, m := s.memberOf x,
             direct := kDirect c.desc && !(s.part c.partition).applied.repro }
    | _, _ => none

/-- Send codes of a piece to member r: under the reduce op to its place in the input, or plain to its place in the output. -/
def State.sendChunk (s : State) (k : Member) (r : Nat) (q : CPiece) (codes : List Nat) (reduce : Bool) : State :=
  let p := k.c.partition
  let d := gMember k.x.group r
  let first := if reduce then q.srcFirst else q.dstFirst
  let ls := pieceLines k.f k.wafer first codes
  let addr := cAddr k.f (if reduce then q.srcAddr else q.dstAddr) first + (if reduce then at_ 40 (kReduce k.c.desc) else 0)
  s.sendFor k.c.id p d 1 ls.length addr ls

/-- Send codes of a piece to every other member. -/
def State.sendAll (s : State) (k : Member) (q : CPiece) (codes : List Nat) : State :=
  ((List.range k.g).filter (fun r => r != k.m)).foldl (fun t r => t.sendChunk k r q codes false) s

/-- A piece's value is in the output, or the member has no further part in it. -/
def State.markFinal (s : State) (id i : Nat) : State :=
  s.modCopy id (fun c => { c with coll := c.coll.map (fun a => { a with final := if a.final.contains i then a.final else a.final ++ [i] }) })

/-- The collective ends with a status. -/
def State.failColl (s : State) (id status : Nat) (err : Option Nat) : State :=
  s.modCopy id (fun c => { c with status := if c.status = 0 then status else c.status, err := if c.err.isSome then c.err else err })

/-- Write a final value of piece i into the output. -/
def State.putFinal (s : State) (k : Member) (i : Nat) (q : CPiece) (codes : List Nat) : State :=
  let p := k.c.partition
  let w := fmtBits k.f
  let lines := if k.wafer ≠ 0 then waferUnits k.wafer else 1
  match ((List.range lines).mapM (fun j => s.spotAt p k.y k.m (q.dstAddr + 64 * j))) with
  | none => s.failColl k.c.id 0x30 none
  | some spots =>
    let ps : List Piece := spots.zipIdx.map (fun z =>
      if k.wafer ≠ 0 then .put z.1 0 512 (bitsOf (codes.headD 0) (512 * z.2) 512)
      else .put z.1 (w * q.dstFirst) (w * q.len) (packRow k.f codes))
    let ps := ps ++ (if k.wafer ≠ 0 ∨ fp6Tail k.f = 0 then [] else spots.map (fun z => .put z 384 128 0))
    match s.applyPieces p ps with
    | (t, some e) => t.failColl k.c.id e.1 e.2
    | (t, none) => t.markFinal k.c.id i

/-- The member's own contribution to a piece; none on a bus error. -/
def State.ownCodes (s : State) (k : Member) (q : CPiece) : State × Option (List Nat) :=
  let p := k.c.partition
  let lines := if k.wafer ≠ 0 then waferUnits k.wafer else 1
  match (List.range lines).mapM (fun j => s.spotAt p k.x k.m (q.srcAddr + 64 * j)) with
  | none => (s.failColl k.c.id 0x30 none, none)
  | some spots =>
    match s.readSpots p [] spots with
    | (t, _, some pln) => (t.failColl k.c.id 0x34 (some pln), none)
    | (t, ls, none) => (t, some (pieceCodes k.f k.wafer q.srcFirst q.len ls))

/-- What the member sends of piece i when the data begins to move (R388). -/
def State.sendFirst (s : State) (k : Member) (i : Nat) (q : CPiece) : State :=
  let act (go : Bool) (f : State → List Nat → State) : State :=
    if go then (match s.ownCodes k q with
      | (t, some cs) => f t cs
      | (t, none) => t) else s
  match kOp k.c.desc with
  | 2 => act (q.chunk == k.m) (fun t cs =>
      let t := t.putFinal k i q cs
      if k.g = 1 then t else if k.direct then t.sendAll k q cs else t.sendChunk k ((k.m + 1) % k.g) q cs false)
  | 3 => act (k.m == kRoot k.c.desc) (fun t cs => (t.putFinal k i q cs).sendAll k q cs)
  | op =>
    if k.g = 1 then act true (fun t cs => t.putFinal k i q cs)
    else if k.direct then
      act (q.chunk != k.m) (fun t cs =>
        let t := t.sendChunk k q.chunk q cs true
        if op = 1 then t.markFinal k.c.id i else t)
    else act (q.chunk == (k.m + k.g - 1) % k.g) (fun t cs =>
      let t := t.sendChunk k ((k.m + 1) % k.g) q cs true
      if op = 1 then t.markFinal k.c.id i else t)

/-- All members have joined with one descriptor: the data begins to move. -/
def State.beginColl (s : State) (id : Nat) : State :=
  match s.member id with
  | none => s.failColl id 0x30 none
  | some k =>
    let t := s.modCopy id (fun c => { c with stage := 1, coll := c.coll.map (fun a => { a with started := true }) })
    (t.collPieces k.c.desc k.x k.y).zipIdx.foldl (fun u q => u.sendFirst k q.2 q.1) t

/-- A partial sum of piece i arrives: the member adds its own contribution and passes it on, or holds the whole sum (R388). -/
def State.sumArrives (s : State) (k : Member) (i : Nat) (q : CPiece) (codes : List Nat) : State :=
  let whole (t : State) (cs : List Nat) : State :=
    let t := t.putFinal k i q cs
    if kOp k.c.desc = 0 then
      (if k.direct then t.sendAll k q cs else t.sendChunk k ((k.m + 1) % k.g) q cs false)
    else t
  match s.ownCodes k q with
  | (t, none) => t
  | (t, some own) =>
    if k.direct then
      let sums := match k.c.coll with | some a => a.sums | none => []
      let old := Tab.get (fun _ => (1, own)) sums i
      let sum := sumCodes k.f k.wafer old.2 codes
      let t := t.modCopy k.c.id (fun c => { c with coll := c.coll.map (fun a => { a with
        sums := Tab.set (fun _ => (0, [])) a.sums i (old.1 + 1, sum) }) })
      if old.1 + 1 = k.g then whole t sum else t
    else
      let sum := sumCodes k.f k.wafer codes own
      if q.chunk = k.m then whole t sum
      else
        let t := t.sendChunk k ((k.m + 1) % k.g) q sum true
        if kOp k.c.desc = 1 then t.markFinal k.c.id i else t

/-- A final value of piece i arrives: the member stores it and, in a ring, passes it on (R388). -/
def State.finalArrives (s : State) (k : Member) (i : Nat) (q : CPiece) (codes : List Nat) : State :=
  let t := s.putFinal k i q codes
  if kOp k.c.desc = 3 ∨ k.direct ∨ (k.m + 1) % k.g = q.chunk then t else t.sendChunk k ((k.m + 1) % k.g) q codes false

/-- A WRITE that belongs to a collective of partition p: the state after it, or none when it belongs to none. -/
def State.collWrite (s : State) (p reduce addr : Nat) (ls : List Line) : Option State :=
  let hit := (s.copies.filter (fun c => c.partition == p && c.coll.isSome && c.status == 0)).findSome? (fun c =>
    match s.member c.id with
    | none => none
    | some k =>
      let ps := (s.collPieces k.c.desc k.x k.y).zipIdx
      let found := ps.find? (fun q =>
        if reduce ≠ 0 then reduce == kReduce c.desc && decide (kOp c.desc ≤ 1) && cAddr k.f q.1.srcAddr q.1.srcFirst == addr
        else (if kOp c.desc = 3 then k.m != kRoot c.desc else kOp c.desc != 1 && q.1.chunk != k.m) && cAddr k.f q.1.dstAddr q.1.dstFirst == addr)
      found.map (fun q => (k, q.2, q.1)))
  match hit with
  | none => none
  | some (k, i, q) =>
    let codes := pieceCodes k.f k.wafer (if reduce ≠ 0 then q.srcFirst else q.dstFirst) q.len ls
    some (if reduce ≠ 0 then s.sumArrives k i q codes else s.finalArrives k i q codes)

/-- COLL lines of collective `seq` of partition p, by sending module. -/
def State.collSeen (s : State) (p seq : Nat) : List (Nat × Line) :=
  s.links.colls.filterMap (fun e => if e.1 = p ∧ collLineSeq e.2.2.1 = seq then some (e.2.1, e.2.2.1) else none)

/-- When every member has joined, the descriptors are compared: status 0x3E, or the data begins to move (R387). -/
def State.collTry (s : State) (id : Nat) : State :=
  match s.member id with
  | none => s
  | some k =>
    let p := k.c.partition
    let seen := s.collSeen p (kSeq k.c.desc)
    let others := (List.range k.g).filter (fun r => r != k.m)
    let started := match k.c.coll with | some a => a.started | none => true
    if started || k.c.status != 0 || !others.all (fun r => seen.any (fun e => e.1 == gMember k.x.group r)) then s
    else
      let own := collLine k.c.desc k.x k.y
      let t := { s with links := { s.links with
        colls := s.links.colls.filter (fun e => !(e.1 == p && collLineSeq e.2.2.1 == kSeq k.c.desc)) } }
      if seen.all (fun e => e.2 == own) then t.beginColl id else t.failColl id 0x3E none

/-- Every piece has its final value, or the member has passed it on, and every packet is answered. -/
def State.collDone (s : State) (c : CopyJob) : Bool :=
  match c.coll, s.member c.id with
  | some a, some k => a.started && (List.range (s.collPieces c.desc k.x k.y).length).all a.final.contains
  | _, _ => true

end Sys2Proof.Machine
end

