-- ==== Sys2Proof/Machine/SieveOps.lean ====
section
/-! DEFINITION. How a stack's sequencer checks lines (14 R367, R371), which the sieve, the patrol and the repair queue share. -/

namespace Sys2Proof.Machine

/-- Whether a line lies in the parcel of a ledger entry. -/
def State.inParcel (s : State) (p i pln : Nat) : Bool :=
  let q := s.parcel p i
  q.state.resident && decide (q.pln ≤ pln) && decide (pln < q.pln + 1024)

/-- The ledger entry whose parcel holds a line. -/
def State.parcelOf (s : State) (p pln : Nat) : Option Nat := ((s.round p).ledger.map (·.1)).find? (fun i => s.inParcel p i pln)

/-! ### Checking lines (R367) -/

/-- The lines of device memory that hold anything but the blank code, ascending: every other line is blank. -/
def State.writtenLines (s : State) : List Nat :=
  s.mem.foldr (fun e l => match l with
    | k :: _ => if e.1 / 72 = k then l else e.1 / 72 :: l
    | [] => [e.1 / 72]) []

/-- The partition whose pool holds a line, and the ledger entry of its parcel. -/
def State.parcelOwner (s : State) (pln : Nat) : Option (Nat × Nat) :=
  (List.range 8).findSome? (fun p => (s.parcelOf p pln).map (fun i => (p, i)))

/-- Check one line as its stack's sequencer does (R367): classified, corrected, poisoned, queued for repair, or, for a parcel,
returned at the next commit (07 R221). -/
def State.sieveLine (s : State) (z : SieveSum) (pln : Nat) : State × SieveSum :=
  let w := s.stored pln
  let r := match s.regionOf pln with
    | some n => if (s.region n).st = 2 then some (s.region n) else none
    | none => none
  let comp := match r with | some x => x.compute | none => false
  if w = blankLine then (s, { z with blank := z.blank + 1 })
  else if comp then
    if sealOk w pln then (s, z)
    else
      let t := s.badLine (sequencerOf pln) pln 0xFF true false
      let t := match t.parcelOwner pln with
        | some q => t.modRound q.1 (fun x => { x with toReturn := if x.toReturn.contains q.2 then x.toReturn else x.toReturn ++ [q.2] })
        | none => t
      (t, { z with failedSeals := z.failedSeals + 1, sealPlns := (z.sealPlns ++ [pln]).take 8 })
  else match rsDecode w with
    | .clean _ => (s, z)
    | .corrected w' => ((s.setStored pln w').corrected pln, { z with corrected := z.corrected + 1 })
    | .bad =>
      (s.badLine (sequencerOf pln) pln 0xFF false false,
        { z with uncorrectable := z.uncorrectable + 1, poisoned := z.poisoned + b2n (w == poisonLine),
                 bad := (z.bad ++ [pln]).take 16 })

/-- Check lines in order. -/
def State.sieveLines (s : State) (z : SieveSum) (ls : List Nat) : State × SieveSum :=
  ls.foldl (fun a l => a.1.sieveLine a.2 l) (s, z)

/-- Regions whose sieve waited for the repair queue to empty are sieved (R360, R371). -/
def State.resieveNow (s : State) : State :=
  if !s.memory.repairs.isEmpty || s.memory.resieve.isEmpty then s
  else
    let t := { s with memory := { s.memory with resieve := [] } }
    (t.sieveLines SieveSum.zero (t.writtenLines.filter (fun l => s.memory.resieve.any (fun n => (s.region n).hasLine l)))).1

end Sys2Proof.Machine
end

