-- ==== Sys2Proof/Machine/Regions.lean ====
section
/-! DEFINITION. Region commands (05 R142 to R145). -/

namespace Sys2Proof.Machine

/-- A region entry as an argument pair describes it, with a state. -/
def regionFrom (w0 w1 : W64) (st : Nat) : Region := { w0 := setFld (setFld w0 0 0 1) 2 1 st, w1 := w1 }

/-- The TDI of a confidential partition is locked or running (16 R407). -/
def State.tdiHeld (s : State) (p : Nat) : Bool :=
  s.confidential p && (decide ((s.part p).tdi = .locked) || decide ((s.part p).tdi = .running))

/-- Reserved bits or a reserved encoding in the arguments of CREATE (R143 status 0x09). -/
def regionReserved (w0 w1 : W64) : Bool :=
  let r : Region := { w0 := w0, w1 := w1 }
  bitAt w0 15 || fld w0 63 53 != 0 || fld w1 63 28 != 0 || r.span == 3 || (r.span == 2 && r.stackField != 0) ||
    (r.span == 1 && decide (4 ≤ r.stackField))

/-- An invalid placement (R143 status 0x03). -/
def Region.badPlace (r : Region) : Bool :=
  r.size == 0 || (decide (r.il ≤ 1) && r.span != 0) || (r.il == 2 && r.span == 0) ||
    !([1, 2, 4, 8].contains (popcount 8 r.groupMask)) || r.rowBase % 64 != 0 || decide (65536 < r.rowBase + r.rows) ||
    decide (16384 < r.addrBase + r.size)

/-- A channel group of the placement is not held by the owner (status 0x04). -/
def State.groupsMissing (s : State) (r : Region) : Bool :=
  r.stackList.any (fun st => (List.range 8).any (fun k => r.groupMask.testBit k && !s.holdsGroup r.owner (8 * st + k)))

/-- Two regions share a row of a channel of a stack (status 0x05). -/
def Region.overlaps (a b : Region) : Bool :=
  a.stackList.any b.stackList.contains && (a.groupMask &&& b.groupMask) != 0 &&
    decide (a.rowBase < b.rowBase + b.rows) && decide (b.rowBase < a.rowBase + a.rows)

/-- Whether a region lies in the address space of a partition. -/
def Region.inSpace (r : Region) (p : Nat) : Bool := !r.fwOwned && (r.owner == p || r.shareMask.testBit p)

/-- Two regions share an address in the space of a partition that both lie in (status 0x06). -/
def Region.addrClash (a b : Region) : Bool :=
  (List.range 8).any (fun p => a.inSpace p && b.inSpace p) && decide (a.addrBase < b.addrBase + b.size) &&
    decide (b.addrBase < a.addrBase + a.size)

/-- The other valid entries. -/
def State.otherRegions (s : State) (n : Nat) : List Region :=
  s.memory.regions.filterMap (fun e => if e.1 ≠ n && e.2.valid then some e.2 else none)

/-- A share mask that breaks 16 R406. -/
def State.badShare (s : State) (r : Region) : Bool :=
  (List.range 8).any (fun p => r.shareMask.testBit p && p != r.owner && (s.confidential r.owner || s.confidential p))

/-- Invalid flags (R143 status 0x07, 16 R406). -/
def State.badFlags (s : State) (r : Region) : Bool :=
  r.fwOwned || (r.compute && (r.encrypted || r.sharedImm || r.locked)) || (r.encrypted && !s.confidential r.owner) ||
    r.il == 3 || s.badShare r || (!r.compute && !r.encrypted && s.confidential r.owner)

/-- A partition that owns or reads the region has its TDI held (16 R407 status 0x0A). -/
def State.tdiBlocks (s : State) (r : Region) : Bool := (List.range 8).any (fun p => r.readable p && s.tdiHeld p)

/-- The entry that CONVERT leaves: the kind and flags of the argument, everything else kept (R143, R144). -/
def Region.converted (r : Region) (a : W64) : Region :=
  let w := setFld (setFld (setFld (setFld (setFld r.w0 3 3 (fld a 3 3)) 4 4 (fld a 4 4)) 5 5 (fld a 5 5)) 6 6 (fld a 6 6)) 7 7
    (fld a 7 7)
  { r with w0 := w }

/-- The status of a region command; 0 accepts it (R143, checks in its order). -/
def State.regionStatus (s : State) (n op : Nat) (w0 w1 : W64) : Nat :=
  let r := s.region n
  if op = 1 then
    let a := regionFrom w0 w1 1
    if r.valid || r.st != 0 || r.fwOwned then 2
    else if regionReserved w0 w1 then 9
    else if a.badPlace then 3
    else if s.groupsMissing a then 4
    else if (s.otherRegions n).any a.overlaps then 5
    else if (s.otherRegions n).any { a with w0 := setFld a.w0 7 7 0 }.addrClash then 6
    else if s.badFlags a then 7
    else if s.tdiBlocks a then 10
    else 0
  else if !r.valid || r.st != 2 || r.fwOwned then 2
  else match op with
    | 2 => if s.tdiBlocks r then 10 else 0
    | 3 => if s.badFlags (r.converted w0) then 7 else if s.tdiBlocks r then 10 else 0
    | 4 => if !r.sharedImm then 8 else if s.tdiBlocks r then 10 else 0
    | _ =>
      let a : Region := { r with w0 := setFld r.w0 23 16 (fld w0 23 16) }
      if (s.otherRegions n).any a.addrClash then 6
      else if s.badShare a then 7
      else if !r.locked then 8
      else if s.tdiBlocks r || s.tdiBlocks a then 10
      else 0

/-- A region command ends: busy clears, the status and the entry stand, and physical function 0 hears of it (R144). -/
def State.endRegionCmd (s : State) (n op status : Nat) : State :=
  { s with memory := { s.memory with ctl :=
      { busy := false, status := BitVec.ofNat 8 status, index := BitVec.ofNat 8 n, cmd := none } } }.post 0 2 1 n (op + 256 * status)

/-- What stops reading a region: descriptors in it are invalidated (10 R287), load digests written there leave the list
(16 R405), its lines leave the repair queue, which sieves the regions that waited once it is empty (14 R360), and a sieve of it is
cut short (14 R371). -/
def State.leaveRegion (s : State) (n : Nat) : State :=
  let r := s.region n
  let t := (List.range 8).foldl (fun t p => if r.readable p then t.invalidate r p else t) s
  let t := (List.range 8).foldl (fun t p =>
    t.modPart p (fun x => { x with digestList := x.digestList.filter (fun d => !d.regions.contains n) })) t
  let m := t.memory
  let q := m.sieve.queue.map (fun j => if j.region = some n then { j with cut := true } else j)
  State.resieveNow { t with memory :=
    { m with repairs := m.repairs.filter (fun x => x.region != n), resieve := m.resieve.filter (· != n),
             sieve := { m.sieve with queue := q } } }

/-- Start a region command (R143, R144): ignored while one runs; a refused one ends with its status and changes nothing
else. -/
def State.regionCommand (s : State) (fn n op : Nat) (f : State → State) : State :=
  if fn ≠ 0 ∨ s.memory.ctl.busy ∨ !s.firmwareUp then s
  else
    let w0 := s.reg 0 0x41000
    let w1 := s.reg 0 0x41008
    match s.regionStatus n op w0 w1 with
    | 0 =>
      let t := f s
      { t with memory := { t.memory with ctl :=
          { t.memory.ctl with busy := true, index := BitVec.ofNat 8 n,
                              cmd := some { index := n, op := op, w0 := w0, w1 := w1 } } } }
    | st => s.endRegionCmd n op st

/-- Set the state field of an entry. -/
def State.setRegionState (s : State) (n st : Nat) : State := s.modRegion n (fun r => { r with w0 := setFld r.w0 2 1 st })

/-- The descriptors of the partitions that `mask` takes out of the share_mask of region n are invalidated (R144; 10 R287). -/
def State.dropShares (s : State) (n mask : Nat) : State :=
  let r := s.region n
  (List.range 8).foldl (fun u p =>
    if r.shareMask.testBit p && !mask.testBit p && p != r.owner then u.invalidate r p else u) s

/-- What a region command does when it is accepted (R144): CREATE writes the entry with state 1; RELEASE and CONVERT refuse every new
access; LOCK sets locked; SET_SHARE invalidates the descriptors of removed partitions. -/
def State.regionAct (s : State) (n op : Nat) : State :=
  match op with
  | 1 => s.modRegion n (fun _ => regionFrom (s.reg 0 0x41000) (s.reg 0 0x41008) 1)
  | 2 => (s.leaveRegion n).setRegionState n 3
  | 3 => (s.leaveRegion n).setRegionState n 3
  | 4 => s.modRegion n (fun r => { r with w0 := setFld r.w0 5 5 1 })
  | _ => s.dropShares n (fld (s.reg 0 0x41000) 23 16)

/-- A region command of function fn: op 1 CREATE, 2 RELEASE, 3 CONVERT, 4 LOCK, 5 SET_SHARE (R143, R144). -/
def State.regionOp (s : State) (fn n op : Nat) : State := s.regionCommand fn n op (fun t => t.regionAct n op)

/-- CREATE (05 R144): the entry is written with state 1 and its placement is blanked. -/
def execCreate (fn : FnId) (index : BitVec 8) (s : State) : Host.Outcome State Fault Refusal :=
  .next (s.regionOp fn.val index.toNat 1)

/-- RELEASE (05 R144): every new access is refused. -/
def execRegionRelease (fn : FnId) (index : BitVec 8) (s : State) : Host.Outcome State Fault Refusal :=
  .next (s.regionOp fn.val index.toNat 2)

/-- CONVERT (05 R144): the region is released, then created again in its placement. -/
def execConvert (fn : FnId) (index : BitVec 8) (s : State) : Host.Outcome State Fault Refusal :=
  .next (s.regionOp fn.val index.toNat 3)

/-- LOCK (05 R144): locked is set, and the writes accepted before it complete before the command does. -/
def execLock (fn : FnId) (index : BitVec 8) (s : State) : Host.Outcome State Fault Refusal :=
  .next (s.regionOp fn.val index.toNat 4)

/-- SET_SHARE (05 R144): the descriptors of removed partitions are invalidated. -/
def execSetShare (fn : FnId) (index : BitVec 8) (s : State) : Host.Outcome State Fault Refusal :=
  .next (s.regionOp fn.val index.toNat 5)

/-- A write into region n was accepted and has not completed. -/
def State.writesPending (s : State) (n : Nat) : Bool :=
  let into (w : Write) : Bool := match w with
    | .dev i _ _ _ _ => i == n
    | _ => false
  s.clusters.any (fun c => c.2.running.any (fun r => r.writes.any into)) || s.copies.any (fun c => c.pieces.any (fun x => match x with
    | .put (.dev i _) _ _ _ => i == n
    | .add (.dev i _) _ _ _ => i == n
    | .addWafer sp _ _ => sp.any (fun y => match y with
      | .dev i _ => i == n
      | _ => false)
    | _ => false))

/-- REGION_COMMAND_COMPLETE (05 R144): the blanking, the waits or the invalidations have ended; descriptors that a removed partition
created meanwhile are invalidated too. -/
def execRegionCommandComplete (s : State) : Host.Outcome State Fault Refusal :=
  .next (match s.memory.ctl.cmd with
    | none => s
    | some c =>
      let n := c.index
      if s.writesPending n then s
      else if !(s.region n).valid then s.endRegionCmd n c.op 2
      else
        let r := s.region n
        let t :=
          match c.op with
          | 1 => (s.blankRegion r).setRegionState n 2
          | 2 => (s.blankRegion r).modRegion n (fun _ => Region.reset)
          | 3 => (s.blankRegion r).modRegion n (fun x => { x.converted c.w0 with w0 := setFld (x.converted c.w0).w0 2 1 2 })
          | 4 => s
          | _ => (s.dropShares n (fld c.w0 23 16)).modRegion n (fun x => { x with w0 := setFld x.w0 23 16 (fld c.w0 23 16) })
        t.endRegionCmd n c.op 0)

end Sys2Proof.Machine
end

