-- ==== Sys2Proof/Machine/FwRegions.lean ====
section
/-! DEFINITION. The firmware-owned regions of a partition: where they lie, and the save areas in them (05 R143, R147; 13 R337, R338,
R343, R344; 14 R356; log 70). -/

namespace Sys2Proof.Machine

/-! ### Layout (05 R142, R147) -/

/-- The placements over which firmware spreads a partition's tables and save areas, as (span, stack field, group mask): one region
over every channel group where a region can hold them all, else one for each stack, or for each group of a stack whose groups no
mask allows. -/
def fwLayout (groups : BitVec 128) : List (Nat × Nat × Nat) :=
  let mask (st : Nat) : Nat := bitsOf groups.toNat (8 * st) 8
  let ok (m : Nat) : Bool := [1, 2, 4, 8].contains (popcount 8 m)
  let sts := (List.range 16).filter (fun st => mask st != 0)
  let m0 := mask (sts.headD 0)
  let alike := ok m0 && sts.all (fun st => mask st == m0)
  let quad := sts.headD 0 / 4
  if alike && sts.length == 16 then [(2, 0, m0)]
  else if alike && sts == (List.range 4).map (fun k => 4 * quad + k) then [(1, quad, m0)]
  else sts.flatMap (fun st => if ok (mask st) then [(0, st, mask st)] else (setBits 8 (mask st)).map (fun k => (0, st, 2 ^ k)))

/-- Channel groups of a region. -/
def Region.groupCount (r : Region) : Nat := popcount 8 r.groupMask * r.m

/-- Lines that one record of 1,088 KiB takes in a region of n of the partition's g groups (R343). -/
def recordLines (n g : Nat) : Nat := ceilDiv (17408 * n) g

/-- A firmware-owned region of partition p in state creating: 64 MiB a group for the tables, whose sizes nothing states, then its
part of max_jobs × P save records (R344). -/
def fwRegion (p : Nat) (a : Applied) (records : Nat) (x : Nat × Nat × Nat) : Region :=
  let n := popcount 8 x.2.2 * (match x.1 with | 0 => 1 | 1 => 4 | _ => 16)
  let units := n + ceilDiv (64 * (records * recordLines n (popcount 128 a.groups.toNat))) 67108864
  { w0 := BitVec.ofNat 64 (1 + at_ 1 1 + at_ 6 (b2n a.confidential) + at_ 7 1 + at_ 8 3 + at_ 10 x.1 + at_ 12 p + at_ 38 units),
    w1 := BitVec.ofNat 64 (x.2.1 + at_ 4 x.2.2) }

/-- The highest free rows that a region can take beside others. -/
def Region.highest (r : Region) (others : List Region) : Option Region :=
  if 65536 < r.rows then none
  else
    let top := (65536 - r.rows) / 64
    (firstFrom (fun i => decide (i ≤ top) && !others.any ({ r with w1 := setFld r.w1 27 12 (64 * (top - i)) } : Region).overlaps) 1024 0).map
      (fun i => { r with w1 := setFld r.w1 27 12 (64 * (top - i)) })

/-- Place regions one after another beside others, each in the highest free entry. -/
def placeAll : List Region → List Region → List Nat → Option (List (Nat × Region))
  | [], _, _ => some []
  | _ :: _, _, [] => none
  | r :: rs, others, n :: ns =>
    match r.highest others with
    | none => none
    | some x => (placeAll rs (x :: others) ns).map ((n, x) :: ·)

/-- Entries of the firmware-owned regions of partition p. -/
def State.fwRegions (s : State) (p : Nat) : List Nat :=
  s.memory.regions.filterMap (fun e => if e.2.valid && e.2.fwOwned && e.2.owner == p then some e.1 else none)

/-- Save records that a partition's areas hold: max_jobs × P (R344). -/
def Applied.records (a : Applied) : Nat := a.maxJobs * (25 * popcount 48 a.shares.toNat)

/-- The firmware-owned regions that what a command reads asks for; none where they do not fit outside the partition's own regions
(R337 status 0x0A). -/
def State.fwPlan (s : State) (p : Nat) (a : Applied) : Option (List (Nat × Region)) :=
  let mine := s.fwRegions p
  let kept := s.memory.regions.filter (fun e => e.2.valid && !mine.contains e.1)
  let entries := ((List.range 256).reverse).filter (fun n => !kept.any (fun e => e.1 == n))
  placeAll ((fwLayout a.groups).map (fwRegion p a a.records)) (kept.map (·.2)) entries

/-- Whether the regions that stand are those that a command asks for, but for their rows. -/
def State.fwStands (s : State) (p : Nat) (a : Applied) : Bool :=
  let form (r : Region) : W64 × W64 := (setFld r.w0 2 1 0, setFld r.w1 27 12 0)
  let want := (fwLayout a.groups).map (fun x => form (fwRegion p a a.records x))
  let have_ := (s.fwRegions p).map (fun n => form (s.region n))
  want.all have_.contains && have_.all want.contains

/-- The firmware-owned regions of partition p go, their lines blank. -/
def State.dropFw (s : State) (p : Nat) : State :=
  (s.fwRegions p).foldl (fun t n => (t.blankRegion (t.region n)).modRegion n (fun _ => Region.reset)) s

/-- SETUP, and RECONFIGURE of a lost slot or where they change, create the regions anew, in state creating (R338). -/
def State.createFw (s : State) (p : Nat) (a : Applied) : State :=
  match s.fwPlan p a with
  | none => s
  | some rs =>
    if (s.part p).mode = .ready ∧ s.fwStands p a then s
    else rs.foldl (fun t e => t.modRegion e.1 (fun _ => e.2)) (s.dropFw p)

/-- The regions in state creating are blank and ready (05 R144). -/
def State.readyFw (s : State) (p : Nat) : State :=
  ((s.fwRegions p).filter (fun n => (s.region n).st == 1)).foldl (fun t n => (t.blankRegion (t.region n)).setRegionState n 2) s

/-- The lines of the regions are blanked where they stand (R348). -/
def State.blankFw (s : State) (p : Nat) : State := (s.fwRegions p).foldl (fun t n => t.blankRegion (t.region n)) s

/-! ### What firmware reads in them (14 R356) -/

/-- A protected line that no read can give. -/
def State.lineBad (s : State) (pln : Nat) : Bool :=
  s.stored pln != blankLine && (match rsDecode (s.stored pln) with | .bad => true | _ => false)

/-- The first bad line of firmware's tables of partition p that f names. -/
def State.fwBad (s : State) (p : Nat) (f : Region → Nat → Bool) : Option Nat :=
  s.writtenLines.find? (fun l => (s.fwRegions p).any (fun n => (s.region n).hasLine l && f (s.region n) l) && s.lineBad l)

/-- Firmware reads tables of partition p: with a bad line among them, whether a read meets it is a free choice, since nothing says
where a table lies; one that does is a job fault (log 70). The flag says that it did. -/
def State.fwRead (s : State) (p : Nat) : State × Bool :=
  match s.fwBad p (fun _ _ => true) with
  | none => (s, false)
  | some l =>
    if bitAt s.freeVal 0 then (s.useFree.badLine (ctlOf l) l 0xFF false false, true) else (s.useFree, false)

/-! ### Save areas (R343, R344) -/

/-- Whether line `pln` of firmware-owned region r holds part of a record of a job in the partition's k-th area. -/
def State.inArea (s : State) (p k : Nat) (r : Region) (pln : Nat) : Bool :=
  let a := (s.part p).applied
  let per := recordLines r.groupCount (popcount 128 a.groups.toNat)
  let own := 25 * popcount 48 a.shares.toNat
  let first := 1048576 * r.groupCount + per * own * k
  decide (first ≤ r.offsetOf pln / 64) && decide (r.offsetOf pln / 64 < first + per * own)

/-- The records of a job are written into its area: what the lines held before is gone (log 70). -/
def State.writeArea (s : State) (p k : Nat) : State :=
  (s.fwRegions p).foldl (fun t n => t.blankWhere (fun l => (s.region n).hasLine l && s.inArea p k (s.region n) l)) s

end Sys2Proof.Machine
end

