-- ==== Sys2Proof/Machine/Jobs.lean ====
section
/-! DEFINITION. The commands that start, preempt, save, restore and end jobs (03 R94 to R97; 11 R310; 13 R339 to R346). -/

namespace Sys2Proof.Machine

/-- A malformed job descriptor (11 R310; 13 R339). -/
def State.badJob (s : State) (p : Nat) (d : Line) : Bool :=
  lineNat d 0 1 != 0x10 || decide (2 < jQueue d) || decide (16384 ≤ jEntry d) || lineNat d 12 4 != 0 || lineNat d 48 16 != 0 ||
    (jQueue d == 0 && jShares d != 0) || decide ((s.sharesOf p).length < jShares d)

/-- JOB (11 R310; 13 R339): the descriptor at the head of a program ring is refused, or waits for its start; one that waits
holds every descriptor behind it on its ring. -/
def execJob (fn : FnId) (r : RingId) (s : State) : Host.Outcome State Fault Refusal :=
  .next (
    let p := fn.val - 1
    match (s.ring fn.val r.val).fetched with
    | [] => s
    | d :: _ =>
      if fn.val = 0 ∨ s.ringType fn.val r.val ≠ 2 ∨ !s.works p ∨
          (s.part p).jobs.any (fun j => !j.live && j.fn == fn.val && j.ring == r.val) then s
      else if s.badJob p d then (s.popFetched fn.val r.val).jobAnswer fn.val r.val d 0x40 0 0 0 0
      else
        (s.popFetched fn.val r.val).modPart p (fun x =>
          { x with
            jobs := x.jobs ++ [{ num := x.nextJob, jobId := jId d, queue := jQueue d, fn := fn.val, ring := r.val, desc := d,
                                 state := .waiting, shares := [], clusters := [], startedAt := 0, slot := 0, area := [] }],
            nextJob := x.nextJob + 1 }))

/-- A waiting job is refused at its start. -/
def State.refuseStart (s : State) (p : Nat) (j : Job) (status detail : Nat) : State :=
  (s.modPart p (fun x => { x with jobs := x.jobs.filter (fun k => k.num != j.num), turn := x.turn.filter (fun e => e.1 != j.num) })).jobAnswer
    j.fn j.ring j.desc status 0 detail 0 0

/-- The program image a descriptor's handle names: a tensor of device memory is read, one of the host or a peer gives the bytes
that the command brings. -/
def State.imageOf (s : State) (p : Nat) (t : Tensor) (brought : Option (List Byte)) : State × Option (List Byte) :=
  if tSpace t.desc = 0 then s.tensorBytes p t
  else (s, brought.map (fun bs => bs.take (tSize t.desc 0)))

/-- The clusters of a list of shares. -/
def State.clustersOf (s : State) (shares : List Nat) : List Nat := shares.flatMap s.shareClusters

/-- A cluster that holds no job and has nothing in progress. -/
def Cluster.still (x : Cluster) : Bool := x.job.isNone && x.running.isEmpty && x.load.isNone

/-- The lowest save area that no live job keeps (13 R344). -/
def State.freeSlot (s : State) (p : Nat) : Nat :=
  ((List.range 8).find? (fun k => (s.liveJobs p).all (fun j => j.slot != k))).getD 0

/-- A job begins on its clusters and takes its save area (03 R59; 10 R290; 13 R339, R344). -/
def State.beginJob (s : State) (p : Nat) (j : Job) (shares : List Nat) (image : List Byte) : State :=
  let cfg := s.partReg p 0x68
  let cs := s.clustersOf shares
  let s := s.lcTurn p
  let t := s.modClusters cs (fun x => x.begin p j.num j.desc (some image))
  let t := t.modJob p j.num (fun k => { k with state := .running, shares := shares, clusters := cs, startedAt := s.time.now, slot := s.freeSlot p })
  t.modPart p (fun x => { x with copyq := if bitAt cfg 13 then some cfg else none })

/-- JOB_START (13 R339, R340; 08 R225; 10 R290; 19 R453, R459). -/
def execJobStart (p : PartId) (job : Nat) (image : Option (List Byte)) (header : Option Line) (s : State) :
    Host.Outcome State Fault Refusal :=
  .next (match s.job p.val job with
    | none => s
    | some j =>
      let q := s.part p.val
      let shares := match q.turn.find? (fun e => e.1 == job) with
        | some e => e.2
        | none => if j.queue = 0 then s.sharesOf p.val else []
      if j.live || !s.works p.val || decide (q.applied.maxJobs ≤ (s.liveJobs p.val).length) ||
          !s.mayHold p.val j || shares.isEmpty || shares.any (s.heldShares p.val).contains ||
          !(s.clustersOf shares).all (fun c => (s.cluster c).still) then s
      else
        let bad := if j.queue = 0 then (match header with | some h => headerFault h | none => some 0) else none
        let bad := if bad.isNone && j.queue == 0 && !(s.round p.val).entries.isEmpty then some 64 else bad
        match bad with
        | some f => s.refuseStart p.val j 0x40 f
        | none =>
          match s.tensorAt p.val (jProgram j.desc) with
          | none => s.refuseStart p.val j 0x41 0
          | some t =>
            if !t.isImage then s.refuseStart p.val j 0x41 0
            else if bitAt (s.partReg p.val 0x68) 13 && !s.copyqOk p.val (s.partReg p.val 0x68) then
              s.refuseStart p.val j 0x44 0
            else match s.imageOf p.val t image with
              | (u, none) => u.refuseStart p.val j 0x41 0
              | (u, some bs) =>
                let u := if j.queue = 0 then
                    (u.modRound p.val (fun r => { r with model := header.map modelOf })).startJournal p.val else u
                let u := u.beginJob p.val j shares bs
                if j.queue == 0 && (u.part p.val).journal.replay == 3 then u.haltReplay p.val else u)

/-- CLUSTER_HALT_COMPLETE (03 R97): every operation of the halting cluster has completed; the job ends with its last cluster. -/
def execClusterHaltComplete (c : ClusterId) (s : State) : Host.Outcome State Fault Refusal :=
  .next (
    let x := s.cluster c
    match x.job with
    | none => s
    | some (p, n) =>
      if x.halting && x.running.isEmpty && x.load.isNone && x.fence.isNone && x.faultRec.isNone &&
          [1, 2, 3, 4].all (fun k => (x.arch.queue k).isEmpty) then
        let t := s.modCluster c (fun y => { y with halting := false, halted := true })
        match t.job p n with
        | none => t
        | some j => if j.clusters.all (fun k => (t.cluster k).halted) then t.endJob p n 0 0 0 0 else t
      else s)

/-- TIME_SLICE_BOUNDARY (13 R335, R340, R341): slices are counted from SETUP; a boundary inside a step of the serving job waits
for its commit. -/
def execTimeSliceBoundary (p : PartId) (s : State) : Host.Outcome State Fault Refusal :=
  .next (
    let q := s.part p.val
    let due := q.sliceAt.toNat + 100000 * q.slice
    if q.mode = .ready ∧ due ≤ s.nowNat then
      let inStep := s.inStep p.val &&
        (match s.servingJob p.val with | some j => decide (j.state = .running) | none => false)
      let t := if inStep then s.modPart p.val (fun x => { x with sliceDue := true }) else s.boundary p.val
      t.modPart p.val (fun x => { x with sliceAt := BitVec.ofNat 64 due, slice := fld (s.partCfg p.val) 29 20 })
    else s)

/-- PREEMPT_REQUEST (03 R94; 13 R340 to R342): a running job that may no longer hold its shares is asked to stop; the serving
job only after a commit. -/
def execPreemptRequest (p : PartId) (job : Nat) (s : State) : Host.Outcome State Fault Refusal :=
  .next (match s.job p.val job with
    | none => s
    | some j =>
      if j.state = .running ∧ !s.mayHold p.val j ∧ (j.queue ≠ 0 ∨ !s.inStep p.val) then
        ((s.lcTurn p.val).modClusters j.clusters (fun x => if x.halted then x else { x with preempt := some s.time.now })).modJob p.val job
          (fun k => { k with state := .stopping })
      else s)

/-- A cluster of a stopping job has stopped or halted, and nothing that it started is in progress (03 R95). -/
def Cluster.saveable (x : Cluster) : Bool :=
  (x.stopped || x.halted) && x.running.isEmpty && x.load.isNone && x.inbox.isEmpty && x.faultRec.isNone

/-- JOB_SAVE (03 R95; 13 R343): every cluster has stopped, and runs and copies of the partition have completed. -/
def execJobSave (p : PartId) (job : Nat) (s : State) : Host.Outcome State Fault Refusal :=
  .next (match s.job p.val job with
    | none => s
    | some j =>
      if j.state = .stopping ∧ j.clusters.all (fun c => (s.cluster c).saveable) ∧ (s.runsOf p.val).isEmpty ∧
          s.copies.all (fun k => decide (k.queue ≠ .program p)) then
        s.modJob p.val job (fun k =>
          { k with state := .saving,
                   area := j.clusters.map (fun c =>
                     { cluster := c, arch := (s.cluster c).arch, fence := (s.cluster c).fence, halting := (s.cluster c).halting,
                       halted := (s.cluster c).halted }) })
      else s)

/-- JOB_SAVE_COMPLETE (13 R343): the records are in the save area, in the lines of the firmware-owned regions that it takes, and the
shares are free. -/
def execJobSaveComplete (p : PartId) (job : Nat) (s : State) : Host.Outcome State Fault Refusal :=
  .next (match s.job p.val job with
    | none => s
    | some j =>
      if j.state = .saving then
        ((s.writeArea p.val j.slot).modClusters j.clusters Cluster.release).modJob p.val job (fun k => { k with state := .saved })
      else s)

/-- Read back a cluster's record (03 R95); the cluster changes to this job (02 R51). -/
def Cluster.restore (x : Cluster) (p n : Nat) (a : Saved) : Cluster :=
  { x with arch := a.arch, fence := a.fence, halted := a.halted, cache := [], fetchQ := [], load := none, halting := a.halting,
           preempt := none, stopped := false, faults := [], inbox := [], job := some (p, n) }

/-- JOB_RESTORE (03 R95; 13 R340, R343; 14 R356): a saved job that may hold its shares again is read back before issue resumes; a
bad line of its records is a job fault, and the restore stops. -/
def execJobRestore (p : PartId) (job : Nat) (s : State) : Host.Outcome State Fault Refusal :=
  .next (match s.job p.val job with
    | none => s
    | some j =>
      if j.state = .saved ∧ s.mayHold p.val j ∧ j.clusters.all (fun c => (s.cluster c).still) then
        match s.fwBad p.val (s.inArea p.val j.slot) with
        | some l => s.badLine (ctlOf l) l 0xFF false false
        | none =>
          (j.area.foldl (fun t a => t.modCluster a.cluster (fun x => x.restore p.val job a)) (s.lcTurn p.val)).modJob p.val job
            (fun k => { k with state := .running })
      else s)

/-- YIELD_TIMEOUT (03 R96): 1 ms after its preemption request a cluster has not stopped. -/
def execYieldTimeout (c : ClusterId) (s : State) : Host.Outcome State Fault Refusal :=
  .next (
    let x := s.cluster c
    match x.preempt with
    | none => s
    | some t =>
      if x.job.isSome ∧ !x.stopped ∧ !x.halted ∧ x.faultRec.isNone ∧ t.toNat + 1000000 ≤ s.nowNat then
        s.clusterFault c 0x0D 6 x.arch.pc.toNat none
      else s)

/-- A line of a locked shared-immutable region (14 R356). -/
def State.sharedLine (s : State) (pln : Nat) : Bool :=
  match s.regionOf pln with
  | some n => (s.region n).locked && (s.region n).sharedImm
  | none => false

/-- A line of a partition's parcel pool. -/
def State.poolLine (s : State) (p pln : Nat) : Bool :=
  match s.poolRegion p (plnStack pln) with
  | some r => r.hasLine pln
  | none => false

/-- What a record of a cluster of job j loses (14 R356): 0 the step alone, which is abandoned; 1 the job, for shared weights that
another queue's job met; 2 all the partition's work. -/
def State.reachOf (s : State) (p : Nat) (j : Job) (f : FaultRec) : Nat :=
  match f.pln with
  | some l =>
    if f.code = 0x0C ∧ s.sharedLine l then (if j.queue = 0 then 0 else 1)
    else if f.code = 0x0C ∧ s.poolLine p l ∧ j.queue = 0 then 0
    else 2
  | none => 2

/-- The records of a code in the clusters of a job, with their clusters (03 R99). -/
def State.recordsOf (s : State) (j : Job) (code : Nat) : List (Nat × FaultRec) :=
  j.clusters.flatMap (fun c => ((s.cluster c).faults.filter (fun f => f.code == code)).map (fun f => (c, f)))

/-- JOB_FAULT (13 R345, R346; 14 R356): a cluster of the job holds the record of this fault, or another cause of the partition
has reached firmware (code 0). A bus error on shared weights ends a job of another queue alone, and a serving step that met
shared weights or a parcel is abandoned instead. -/
def execJobFault (p : PartId) (job : Nat) (code : BitVec 8) (s : State) : Host.Outcome State Fault Refusal :=
  .next (
    if (s.part p.val).mode ≠ .ready then s
    else if (s.liveJobs p.val).isEmpty then
      (if code = 0 ∧ (s.part p.val).faultDue then s.jobFault p.val none 0 0 0 else s)
    else match s.job p.val job with
    | none => s
    | some j =>
      if !j.live then s
      else
        let recs := s.recordsOf j code.toNat
        match recs.find? (fun e => s.reachOf p.val j e.2 == 2) with
        | some e => s.jobFault p.val (some job) code.toNat e.2.unit (posOf (s.partClusters p.val) e.1)
        | none =>
          match recs.find? (fun e => s.reachOf p.val j e.2 == 1) with
          | some e => s.endJob p.val job 0x42 code.toNat e.2.unit (posOf (s.partClusters p.val) e.1)
          | none =>
            if code = 0 ∧ (s.part p.val).faultDue then s.jobFault p.val (some job) 0 0 0 else s)

end Sys2Proof.Machine
end

