-- ==== Sys2Proof/Machine/RoundBuild.lean ====
section
/-! DEFINITION. Building a route sheet (01 R21 to R24; 07 R201, R208, R211, R220, R222; 08 R234 to R240, R247 to R249, R253). -/

namespace Sys2Proof.Machine

/-! ### What the partition's registers say -/

/-- Threshold T (01 R23). -/
def State.threshold (s : State) (p : Nat) : Nat := fld (s.partReg p 0x28) 8 0

/-- T_eff of a stack (01 R22), from the mode, the threshold and the levels that the sheet was built with (01 R23, R25). -/
def State.tEff (s : State) (p st : Nat) : Nat :=
  match (s.round p).sheet with
  | some z => if z.repro then z.threshold else min z.threshold (8 * fld z.levels (3 * st + 2) (3 * st))
  | none => if (s.part p).applied.repro then s.threshold p else min (s.threshold p) (8 * (s.stack st).level)

/-- lc_step_limit in ns (R233). -/
def State.lcLimit (s : State) (p : Nat) : Nat := 1000 * fld (s.part p).applied.roundCfg 15 0

/-- promo_age in ns. -/
def State.promoAge (s : State) (p : Nat) : Nat := 1000000 * fld (s.part p).applied.roundCfg 27 16

/-- max_step_tokens. -/
def State.maxTokens (s : State) (p : Nat) : Nat := fld (s.part p).applied.roundCfg 51 36

/-- Charge of prefill tokens: prefill_weight / 16 each, rounded up per item (R234). -/
def State.prefillCharge (s : State) (p t : Nat) : Nat := ceilDiv (t * fld (s.part p).applied.roundCfg 35 28) 16

/-- The model's prediction of a sheet in ns: D = d0 + d_tok τ + d_span σ (R230). -/
def StepModel.predict (m : StepModel) (tau sigma : Nat) : Nat :=
  ((m.d0 + m.dTok * (tau : Int) + m.dSpan * (sigma : Int)) / (m.den : Int)).toNat

/-! ### Sequences a sheet may carry (R236) -/

/-- Spans of n tokens. -/
def spansOf (n : Nat) : Nat := ceilDiv n 256

/-- Some parcel of a list of sets is in a state that f names. -/
def State.setsAny (s : State) (p : Nat) (draft : Bool) (sets : List Nat) (f : ParcelState → Bool) : Bool :=
  sets.any (fun b => (s.setOf p draft b).any (fun i => f (s.parcel p i).state))

/-- States of a parcel that keep its sequence off a sheet. -/
def ParcelState.away : ParcelState → Bool
  | .spilling => true | .spilled => true | .fetching => true | _ => false

/-- Whether a parcel is returned. -/
def ParcelState.isReturned : ParcelState → Bool
  | .returned => true | _ => false

/-- Span numbers whose sets, of the main or the draft model, hold a returned parcel. -/
def State.returnedSpans (s : State) (p : Nat) (map draftMap : List Nat) : List Nat :=
  (List.range (max map.length draftMap.length)).filter (fun j =>
    s.setsAny p false map[j]?.toList ParcelState.isReturned || s.setsAny p true draftMap[j]?.toList ParcelState.isReturned)

/-- The sequence that carries the rebuilding of a prefix entry: the holder with the lowest round index (07 R222). -/
def State.carrier (s : State) (p k : Nat) : Option Nat :=
  match s.prefixAt p k with
  | none => none
  | some e =>
    if !e.ready && !(s.returnedSpans p e.map e.draftMap).isEmpty then
      ((s.seqs p).find? (fun q => q.2.prefixEntry == some k)).map (·.1)
    else none

/-- Whether a sequence carries a prefix entry's rebuilding. -/
def State.carries (s : State) (p i : Nat) (e : RoundEntry) : Bool :=
  match e.prefixEntry with
  | some k => s.carrier p k == some i
  | none => false

/-- A ring slot of the partition's function is draining (11 R317). -/
def State.ringDraining (s : State) (p r : Nat) : Bool := (s.ring (p + 1) r).draining

/-- Whether a sequence may have an item at all (R236; 07 R221 leaves the excluded ones off a reissued sheet). -/
def State.eligible (s : State) (p i : Nat) (e : RoundEntry) : Bool :=
  let active := decide (e.state = .prefill) || decide (e.state = .decode)
  (active || s.carries p i e) && !(s.round p).excluded.contains i &&
    !s.setsAny p false e.log.map ParcelState.away && !s.setsAny p true e.log.draftMap ParcelState.away &&
    !s.ringDraining p e.tokenRing && !s.ringDraining p e.complRing

/-- Tokens of keys and values that the draft model has for a sequence: what its sets hold (07 R210). -/
def State.draftKv (s : State) (p : Nat) (e : RoundEntry) : Nat :=
  (e.log.draftMap.map (fun b => (s.parcel p b).filled + (s.parcel p b).lost)).sum

/-- An item without its places in the lists. -/
def plainItem (kind : ItemKind) (i : Nat) (e : RoundEntry) (samples : Bool) (t k pos : Nat) : Item :=
  { kind := kind, be := false, promoted := e.flags.promoted, samples := samples, tokens := t, index := i, pigeonhole := 0,
    k := k, position := pos, circFirst := 0, circCount := 0, charge := none, ring := none }

/-- Recompute item over a map's spans: from the lowest returned one, or where the last chunk ended, up to 2,048 tokens, ending with
the last returned one (07 R220). -/
def State.recomputeItem (s : State) (p i : Nat) (e : RoundEntry) (map draftMap : List Nat) (redo last : Nat) : Option Item :=
  match (s.returnedSpans p map draftMap).head?, (s.returnedSpans p map draftMap).getLast? with
  | some a, some b =>
    let start := if redo ≠ 0 ∧ redo ≤ 256 * a then redo else 256 * a
    let stop := min last (256 * (b + 1))
    if stop ≤ start then none else some (plainItem .recompute i e false (min 2048 (stop - start)) 0 start)
  | _, _ => none

/-- The items a sequence would have on a sheet (R236, R237, R253; 07 R220, R222). -/
def State.itemsOf (s : State) (p i : Nat) (e : RoundEntry) : List Item :=
  if s.carries p i e then
    (match e.prefixEntry.bind (s.prefixAt p) with
     | some x => (s.recomputeItem p i e x.map x.draftMap x.redo (256 * x.spans)).toList
     | none => [])
  else if !(s.returnedSpans p e.log.map e.log.draftMap).isEmpty then 
    (s.recomputeItem p i e e.log.map e.log.draftMap e.log.redo e.kv).toList
  else if e.prefilled < e.promptLen then
    let t := min 2048 (e.promptLen - e.prefilled)
    [plainItem .prefill i e (e.prefilled + t == e.promptLen) t 0 e.prefilled]
  else
    let k := if e.flags.speculative then min e.draft.k (e.limit - e.length - 1) else 0
    if k = 0 then [plainItem .decode i e true 1 0 e.kv]
    else [plainItem .draft i e false k k (s.draftKv p e), plainItem .verify i e true (k + 1) k e.kv]

/-- Draft-model tokens whose slots an item reserves: a draft item those of its verify, a prefill of a speculative sequence its
own (07 R208, R210). -/
def Item.draftTokens (it : Item) (speculative : Bool) : Nat :=
  match it.kind with
  | .draft => it.k + 1
  | .prefill => if speculative then it.tokens else 0
  | _ => 0

/-- Whether an item belongs to the main model. -/
def Item.main (it : Item) : Bool := decide (it.kind ≠ .draft)

/-- Spans of the main map that an item reads once its tokens are appended. -/
def Item.spanCount (it : Item) : Nat := spansOf (it.position + it.tokens)

/-- The maps that a recompute item runs over: the sequence's own, or those of the prefix entry it carries. -/
def State.recomputeMaps (s : State) (p : Nat) (e : RoundEntry) : List Nat × List Nat :=
  match e.prefixEntry.bind (s.prefixAt p) with
  | some x => if e.state = .waiting then (x.map, x.draftMap) else (e.log.map, e.log.draftMap)
  | none => (e.log.map, e.log.draftMap)

/-- The map of the main or the draft model that an item runs over. -/
def State.itemMap (s : State) (p : Nat) (e : RoundEntry) (it : Item) (draft : Bool) : List Nat :=
  let maps := if it.kind = .recompute then s.recomputeMaps p e else (e.log.map, e.log.draftMap)
  if draft then maps.2 else maps.1

/-- How many spans of the main and of the draft model an item needs once its tokens are appended: a draft item those of the draft model, a
prefill of a speculative sequence and a recomputation those of both (01 R21, R24; 07 R210, R220). -/
def State.itemReads (s : State) (p : Nat) (e : RoundEntry) (it : Item) : List (Bool × Nat) :=
  match it.kind with
  | .draft => [(true, it.spanCount)]
  | .recompute => [(false, min it.spanCount (s.itemMap p e it false).length), (true, min it.spanCount (s.itemMap p e it true).length)]
  | .prefill =>
    (false, it.spanCount) :: (if e.flags.speculative then [(true, spansOf (s.draftKv p e + it.tokens))] else [])
  | _ => [(false, it.spanCount)]

/-- Sets that an item reads: those of its maps, and a mark for each that the step allocates. -/
def State.itemSets (s : State) (p : Nat) (e : RoundEntry) (it : Item) : List (Nat × Nat) :=
  (s.itemReads p e it).flatMap (fun x =>
    (List.range x.2).map (fun j =>
      match (s.itemMap p e it x.1)[j]? with
      | some b => (2 * b, 0)
      | none => (2 * j + 1, 2 * it.index + b2n x.1 + 1)))

/-! ### Composition (R234, R236) -/

/-- What the builder has put together. -/
structure Comp where
  items : List Item
  tau : Nat
  /-- sets read, with marks for those to allocate -/
  sets : List (Nat × Nat)
  /-- charges reserved, by budget entry -/
  reserved : Tab Nat
  /-- token entries reserved, by ring -/
  rings : Tab Nat
  /-- latency-critical sequences whose charge the bucket did not hold -/
  carry : List (Nat × RoundEntry)
  full : Bool
deriving DecidableEq, Repr

/-- Nothing composed. -/
def Comp.empty : Comp := { items := [], tau := 0, sets := [], reserved := [], rings := [], carry := [], full := false }

/-- Add elements that a list does not hold. -/
def unite (a b : List (Nat × Nat)) : List (Nat × Nat) := b.foldl (fun l x => if l.contains x then l else l ++ [x]) a

/-- Charge of a latency-critical sequence's items (R234). -/
def State.chargeOf (s : State) (p : Nat) (its : List Item) : Nat :=
  (its.map (fun it =>
    match it.kind with
    | .decode => 1
    | .verify => it.k + 1
    | .prefill => s.prefillCharge p it.tokens + b2n it.samples
    | _ => 0)).sum

/-- The composition with a sequence's items added. -/
def State.adding (s : State) (p : Nat) (c : Comp) (e : RoundEntry) (its : List Item) : Comp :=
  { c with items := c.items ++ its, tau := c.tau + (its.map (·.tokens)).sum,
           sets := unite c.sets (its.flatMap (s.itemSets p e)) }

/-- Add a sequence (R236). `be` that its items run in the best-effort part, `charged` that they reserve a charge, `limit` that D
must stay at or below lc_step_limit. -/
def State.addSeq (s : State) (p : Nat) (be charged limit : Bool) (c : Comp) (q : Nat × RoundEntry) : Comp :=
  let e := q.2
  if c.full || !s.eligible p q.1 e || c.items.any (fun it => it.index == q.1) then c
  else
    let its := (s.itemsOf p q.1 e).map (fun it => { it with be := be })
    if its.isEmpty then c
    else
      let ring := e.tokenRing
      let delivers := its.any (·.samples) && !e.flags.cancelled
      let used := Tab.get (fun _ => 0) c.rings ring
      let closed := (s.ring (p + 1) ring).stopped || !s.ringOn (p + 1) ring
      if delivers && !closed && decide (s.ringFree (p + 1) ring ≤ used) then c
      else
        let charge := s.chargeOf p its
        let entry := s.budgetOf p e.tenant
        let room : Int := match entry with
          | some n => (s.round p).bucket n - (Tab.get (fun _ => 0) c.reserved n : Nat)
          | none => 0
        if charged && charge != 0 && decide (room < (charge : Int)) then { c with carry := c.carry ++ [q] }
        else
          let hold := delivers && !closed
          let mark (it : Item) : Item :=
            { it with charge := if charged && it.main then entry.map (fun n => (n, charge)) else none,
                      ring := if hold && it.samples then some ring else none }
          let d := s.adding p c e (its.map mark)
          if decide (s.maxTokens p < d.tau) || decide (16384 < d.items.length) then { c with full := true }
          else if limit && decide (s.lcLimit p < (s.round p).stepModel.predict d.tau d.sets.length) then { c with full := true }
          else
            { d with
              rings := if hold then Tab.set (fun _ => 0) d.rings ring (used + 1) else d.rings,
              reserved := match charged, entry with
                | true, some n => Tab.modify (fun _ => 0) d.reserved n (· + charge)
                | _, _ => d.reserved }

/-- Ascending wait_since, then round index. -/
def byWait (l : List (Nat × RoundEntry)) : List (Nat × RoundEntry) :=
  sortBy (fun a b => decide (a.2.waitSince.toNat ≤ b.2.waitSince.toNat)) l

/-- Prefilling sequences follow those in decode. -/
def inPrefill (q : Nat × RoundEntry) : Bool := decide (q.2.prefilled < q.2.promptLen)

/-- Steps 1 to 3 of R236. -/
def State.composeLc (s : State) (p : Nat) : Comp :=
  let qs := s.seqs p
  let lc := qs.filter (fun q => !q.2.flags.be && !q.2.flags.promoted)
  let c := (qs.filter (fun q => q.2.flags.promoted)).foldl (s.addSeq p false false false) Comp.empty
  let c := (lc.filter (fun q => !inPrefill q)).foldl (s.addSeq p false true false) c
  (byWait (lc.filter inPrefill)).foldl (s.addSeq p false true false) c

/-- Step 4 of R236: the budget carry-overs, then best-effort sequences, while the serving queue's credit is above zero. -/
def State.composeBe (s : State) (p : Nat) (c : Comp) : Comp :=
  if (s.round p).creditOf 0 ≤ 0 then c
  else
    let be := (s.seqs p).filter (fun q => q.2.flags.be && !q.2.flags.promoted)
    let c := c.carry.foldl (s.addSeq p true false true) c
    let c := (be.filter (fun q => !inPrefill q)).foldl (s.addSeq p true false true) c
    (byWait (be.filter inPrefill)).foldl (s.addSeq p true false true) c

/-! ### Promotion, pause, resume (R247 to R249) -/

/-- The state in which a sequence runs on, and its parcels that must be fetched first (R248, R254). -/
def State.wake (s : State) (p i : Nat) : State :=
  match s.seqAt p i with
  | none => s
  | some e =>
    let t := s.setSeq p i (some { e with state := e.activeState })
    if s.hasParcel p e (fun q => decide (q = .spilled) || decide (q = .spilling)) then
      t.modRound p (fun r => { r with fetchBack := if r.fetchBack.contains i then r.fetchBack else r.fetchBack ++ [i] })
    else t

/-- Promote the best-effort sequences that have waited longer than promo_age (R249, R254). -/
def State.promote (s : State) (p : Nat) : State :=
  (s.seqs p).foldl (fun t q =>
    let e := q.2
    if e.flags.be && !e.flags.cancelled && !e.flags.promoted && decide (s.promoAge p < (s.roundNow p).toNat - e.waitSince.toNat) then
      let t := t.modSeq p q.1 (fun x => { x with promoLeft := 16, flags := { x.flags with promoted := true, everPromoted := true } })
      if e.state = .paused then t.wake p q.1 else t
    else t) s

/-- Pause best-effort sequences when the latency-critical sheet is predicted too long; else resume paused ones in ascending
wait_since while D with them added stays at or below the limit (R247, R248). -/
def State.pauseResume (s : State) (p : Nat) : State :=
  let c := s.composeLc p
  let m := (s.round p).stepModel
  if s.lcLimit p < m.predict c.tau c.sets.length then
    (s.seqs p).foldl (fun t q =>
      if q.2.flags.be && !q.2.flags.promoted && (decide (q.2.state = .prefill) || decide (q.2.state = .decode)) then
        t.modSeq p q.1 (fun x => { x with state := .paused })
      else t) s
  else
    let r := (byWait ((s.seqs p).filter (fun q => decide (q.2.state = .paused)))).foldl (fun (a : State × Comp × Bool) q =>
      if a.2.2 then a
      else
        let e := { q.2 with state := q.2.activeState }
        let d := s.adding p a.2.1 e (s.itemsOf p q.1 e)
        if m.predict d.tau d.sets.length ≤ s.lcLimit p then (a.1.wake p q.1, d, false) else (a.1, a.2.1, true)) (s, c, false)
    r.1

/-! ### Allocation (07 R201, R208, R220) -/

/-- Extend a sequence's map to n spans: spans of a prefix entry that it builds belong to the entry. -/
def State.growMap (s : State) (p : Nat) (m : Model) (draft : Bool) (i n : Nat) : Nat → State ⊕ Nat
  | 0 => .inl s
  | f + 1 =>
    match s.seqAt p i with
    | none => .inl s
    | some e =>
      let map := if draft then e.log.draftMap else e.log.map
      let j := map.length
      if n ≤ j then .inl s
      else
        let own := match e.log.builds with
          | some k => (match s.prefixAt p k with | some x => if j < x.spans then some k else none | none => none)
          | none => none
        match s.allocSet p m draft own.isSome (own.getD i) j with
        | .inr st => .inr st
        | .inl (t, base) =>
          let t := t.modSeq p i (fun x => { x with log :=
            if draft then { x.log with draftMap := x.log.draftMap ++ [base] } else { x.log with map := x.log.map ++ [base] } })
          let t := match own with
            | some k => t.modPrefix p k (fun x =>
                if draft then { x with draftMap := x.draftMap ++ [base] } else { x with map := x.map ++ [base] })
            | none => t
          let t := t.modRound p (fun r => { r with sheet := r.sheet.map (fun z => { z with allocated := z.allocated ++ t.setOf p draft base }) })
          t.growMap p m draft i n f

/-- Give the returned parcels of one set fresh slots. -/
def State.reallocSet (s : State) (p : Nat) (draft : Bool) (j b : Nat) : State ⊕ Nat :=
  let is := (s.setOf p draft b).filter (fun i => (s.parcel p i).state.isReturned)
  match s.realloc p (s.parcel p b).isShared (s.parcel p b).holder j is with
  | .inr st => .inr st
  | .inl u => .inl (u.modRound p (fun r => { r with sheet := r.sheet.map (fun z => { z with realloced := z.realloced ++ is }) }))

/-- Give a recompute item's returned parcels fresh slots (07 R220). -/
def State.reallocSpans (s : State) (p : Nat) (e : RoundEntry) (it : Item) : State ⊕ Nat :=
  let first := it.position / 256
  let maps := s.recomputeMaps p e
  (List.range (spansOf it.tokens)).foldl (fun (a : State ⊕ Nat) d =>
    match a with
    | .inr st => .inr st
    | .inl t =>
      let main : State ⊕ Nat := match maps.1[first + d]? with
        | some b => t.reallocSet p false (first + d) b
        | none => .inl t
      match main, maps.2[first + d]? with
      | .inl u, some b => u.reallocSet p true (first + d) b
      | r, _ => r)
    (.inl s)

/-- Allocate for one item. -/
def State.allocItem (s : State) (p : Nat) (m : Model) (it : Item) : State ⊕ Nat :=
  match s.seqAt p it.index with
  | none => .inl s
  | some e =>
    let draftTo := spansOf (s.draftKv p e + it.draftTokens e.flags.speculative)
    match it.kind with
    | .recompute => s.reallocSpans p e it
    | .draft => s.growMap p m true it.index draftTo (draftTo + 1)
    | _ =>
      match s.growMap p m false it.index it.spanCount (it.spanCount + 1) with
      | .inr st => .inr st
      | .inl t => if m.draft && it.draftTokens e.flags.speculative != 0 then t.growMap p m true it.index draftTo (draftTo + 1) else .inl t

/-- Allocate for every item in order; the stack that is full, or the state. -/
def State.allocItems (s : State) (p : Nat) (m : Model) : List Item → State ⊕ Nat
  | [] => .inl s
  | it :: its =>
    match s.allocItem p m it with
    | .inr st => .inr st
    | .inl t => t.allocItems p m its

/-! ### Paths and order (01 R21, R22, R24; 07 R211; 08 R240) -/

/-- Home stacks of a model's sets. -/
def Model.homes (m : Model) (draft : Bool) : List Nat :=
  ((List.range (min 4 (m.layers' draft))).flatMap (fun l =>
    (List.range (m.heads' draft)).map (fun h => homeStack (m.heads' draft) h l))).eraseDups

/-- The sets that an item reads, with their span numbers and whether they are of the draft model. -/
def State.itemBases (s : State) (p : Nat) (it : Item) : List (Nat × Nat × Bool) :=
  match s.seqAt p it.index with
  | none => []
  | some e =>
    (s.itemReads p e it).flatMap (fun x =>
      let map := s.itemMap p e it x.1
      (List.range (min x.2 map.length)).map (fun j => (map.getD j 0, j, x.1)))

/-- Σ t of the items that read a set (01 R21). -/
def State.setTokens (s : State) (p : Nat) (its : List Item) (base : Nat) : Nat :=
  (its.map (fun it => if (s.itemBases p it).any (fun b => b.1 == base) then it.tokens else 0)).sum

/-- Whether a prefill or recompute item reads a set (01 R24). -/
def State.setPrefilled (s : State) (p : Nat) (its : List Item) (base : Nat) : Bool :=
  its.any (fun it => (decide (it.kind = .prefill) || decide (it.kind = .recompute)) &&
    (s.itemBases p it).any (fun b => b.1 == base))

/-- Whether a set's parcels in a home stack stay there (01 R22, R24). -/
def State.staysIn (s : State) (p : Nat) (m : Model) (its : List Item) (base : Nat) (draft : Bool) (st : Nat) : Bool :=
  m.inStack && !s.setPrefilled p its base &&
    decide (m.group' draft * s.setTokens p its base ≤ s.tEff p st)

/-- The stack mask of a set: the home stacks whose parcels go to the quarters (R240). -/
def State.stackMask (s : State) (p : Nat) (m : Model) (its : List Item) (base : Nat) (draft : Bool) : BitVec 16 :=
  (m.homes draft).foldl (fun v st => if s.staysIn p m its base draft st then v else v ||| BitVec.ofNat 16 (2 ^ st)) 0

/-- ceil(log2 n), 0 for 0 and 1. -/
def ceilLog2 (n : Nat) : Nat := if n ≤ 1 then 0 else Nat.log2 (n - 1) + 1

/-- The pigeonhole of a main item: over every span of its map, or over those that keep a parcel in the home stack of layer 0, head 0
(07 R211). -/
def State.pigeonhole (s : State) (p : Nat) (m : Model) (its : List Item) (it : Item) : Nat :=
  let all := match s.seqAt p it.index with
    | some e => (s.itemMap p e it false).length
    | none => 0
  let bs := (s.itemBases p it).filter (fun b => !b.2.2)
  ceilLog2 (if (s.part p).applied.repro then all
    else (bs.filter (fun b => s.staysIn p m its b.1 false (homeStack (m.heads' false) 0 0))).length)

/-- Pigeonholes of a sequence's items are those of its main item. -/
def State.withPigeonholes (s : State) (p : Nat) (m : Model) (its : List Item) : List Item :=
  its.map (fun it =>
    match its.find? (fun x => x.index == it.index && x.main) with
    | some x => { it with pigeonhole := s.pigeonhole p m its x }
    | none => it)

/-- Order of items on the sheet: descending pigeonhole, then ascending round index (07 R211). -/
def orderItems (its : List Item) : List Item :=
  sortBy (fun a b => decide (b.pigeonhole < a.pigeonhole) || (a.pigeonhole == b.pigeonhole && decide (a.index ≤ b.index))) its

/-- The circular list, ordered by first reader and span (R240). -/
def State.circulars (s : State) (p : Nat) (m : Model) (its : List Item) : List Circ :=
  let sets := its.foldl (fun (l : List (Nat × Nat × Bool)) it =>
    (s.itemBases p it).foldl (fun l b => if l.any (fun x => x.1 == b.1) then l else l ++ [b]) l) []
  sets.filterMap (fun b =>
    let mask := s.stackMask p m its b.1 b.2.2
    if mask = 0 then none
    else
      let readers := (its.zipIdx.filter (fun x => (s.itemBases p x.1).any (fun y => y.1 == b.1))).map (·.2)
      some { set := b.1, span := b.2.1, queries := s.setTokens p its b.1, readers := readers, stackMask := mask, draft := b.2.2 })

/-- Items with their circular entries (R239). -/
def withCircs (its : List Item) (cs : List Circ) : List Item :=
  its.zipIdx.map (fun x =>
    let mine := (cs.zipIdx.filter (fun c => c.1.readers.contains x.2)).map (·.2)
    { x.1 with circFirst := mine.headD 0, circCount := mine.length })

/-- 3 bits per stack, S00 in bits [2:0] (R238). -/
def State.levels (s : State) : BitVec 48 :=
  (List.range 16).foldl (fun v k => v ||| BitVec.ofNat 48 (at_ (3 * k) ((s.stack k).level))) 0

/-! ### The build -/

/-- Add 1 to the step word, whose device address the serving job's third and fourth argument words give (09 R275 step 2,
log 27). A line that cannot be read is a bus error of the round builder: the sheet is not released (14 R355, R356). -/
def State.bumpStep (s : State) (p : Nat) : State :=
  match s.servingJob p with
  | none => s
  | some j =>
    let addr := (jArg j.desc 2).toNat + at_ 32 (jArg j.desc 3).toNat
    match s.translate p addr with
    | none => s
    | some (_, pln) =>
      if addr % 4 ≠ 0 then s
      else match s.readLineFor (ctlOf pln) pln p true with
        | (t, none) =>
          (t.firmwareError p).modRound p (fun r => { r with sheet := r.sheet.map (fun z => { z with released := false }) })
        | (t, some l) => (t.mergeLine (ctlOf pln) pln p (8 * (addr % 64)) 32 ((lineNat l (addr % 64) 4 + 1) % 2 ^ 32)).1

/-- Reserve the token entries of a sheet (11 R309). -/
def State.reserveTokens (s : State) (p : Nat) (its : List Item) : State :=
  its.foldl (fun t it => match it.ring with
    | some r => t.modRing (p + 1) r (fun x => { x with reserved := x.reserved + 1 })
    | none => t) s

/-- The sheet under construction. -/
def State.blankSheet (s : State) (p : Nat) : Sheet :=
  { step := (s.round p).step, reissue := (s.round p).reissue, threshold := s.threshold p, levels := s.levels,
    repro := (s.part p).applied.repro, builtAt := s.roundNow p, predicted := 0, items := [], circs := [], allocated := [],
    realloced := [], rapp := [], sent := [], released := !(s.round p).abandoning }

/-- Build the sheet from a composition: allocate, classify, order, write (R236 to R240). -/
def State.writeSheet (s : State) (p : Nat) (m : Model) (c : Comp) : State ⊕ Nat :=
  match (s.modRound p (fun r => { r with sheet := some (s.blankSheet p) })).allocItems p m c.items with
  | .inr st => .inr st
  | .inl t =>
    let its := orderItems (t.withPigeonholes p m c.items)
    let cs := t.circulars p m its
    let its := withCircs its cs
    let t := its.foldl (fun u it => u.modSeq p it.index (fun e => { e with pigeonhole := it.pigeonhole })) t
    let t := t.modRound p (fun r =>
      { r with
        sheet := r.sheet.map (fun z =>
          { z with items := its, circs := cs, predicted := r.stepModel.predict c.tau c.sets.length }),
        buckets := (r.reserve (-1) its).buckets,
        allocWait := none,
        lastLc := its.filter (fun it => !it.be) })
    let t := (t.reserveTokens p its).journalTime p 1
    let t := t.journal p 0x09 (toBytes 4 (t.round p).reissue ++
      toBytes 4 (wrap32 ((t.round p).creditOf 0 / 1000)).toNat ++ toBytes 4 its.length ++ toBytes 4 cs.length)
    let t := t.latch (44 + p)
    .inl (if (t.round p).abandoning then t else t.bumpStep p)

/-- Compose and write the next sheet with the budgets and weights that the registers hold (R233, R236); in a journaled
partition the buckets fill first (19 R456). With nothing left for a reissued
sheet the sequences it leaves off come back. -/
def State.composeSheet (s : State) (p : Nat) : State :=
  let s := if s.journaled p then s.refillBudgets p else s
  match (s.round p).model with
  | none => s
  | some m =>
    let t := ((s.takeBudgets p).promote p).pauseResume p
    let c := t.composeBe p (t.composeLc p)
    let (t, c) :=
      if c.items.isEmpty && !(t.round p).excluded.isEmpty then
        let t := t.modRound p (fun r => { r with excluded := [] })
        (t, t.composeBe p (t.composeLc p))
      else (t, c)
    if c.items.isEmpty then
      t.modRound p (fun r => { r with budgets := (s.round p).budgets, beWeights := (s.round p).beWeights })
    else match t.writeSheet p m c with
      | .inl u => u
      | .inr st => s.modRound p (fun r => { r with allocWait := some st })

/-- A build (R236). In a replay the credit of the serving queue comes from the BUILD record, and the counts of what was built are
checked against it: free values (19 R455, R456; log 23). -/
def State.buildSheet (s : State) (p : Nat) : State :=
  if !s.replaying p then s.composeSheet p
  else
    let fed : Int := 1000 * (s.freeVal.truncate 32).toInt
    let t := (s.useFree.modRound p (fun r =>
      { r with credit := Tab.set (fun _ => 0) r.credit 0 (clampCredit fed) })).composeSheet p
    if (t.round p).sheet.isNone then t
    else if bitAt t.freeVal 0 then t.useFree.failReplay p 5
    else t.useFree

/-- A build reads firmware's tables of the partition: a bad line among them is a job fault instead (14 R355, R356). -/
def State.checkedBuild (s : State) (p : Nat) : State :=
  match s.fwRead p with
  | (t, true) => t
  | (t, false) => t.buildSheet p

/-- A build may begin: the partition works and serves, no sheet stands, no slice boundary comes first but in a step that is being
abandoned (R245; 13 R341), and the journal has room (11 R309). -/
def State.mayBuild (s : State) (p : Nat) : Bool :=
  let r := s.round p
  s.works p && r.sheet.isNone && s.journalRoom p 3 && (!(s.part p).sliceDue || r.abandoning) &&
    (match s.servingJob p with | some j => decide (j.state = .running) | none => false)

/-- ROUTE_SHEET_BUILD (08 R236 to R240). -/
def execRouteSheetBuild (p : PartId) (s : State) : Host.Outcome State Fault Refusal :=
  .next (if s.mayBuild p.val && (s.round p.val).allocWait.isNone then s.replayGuard (s.checkedBuild p.val) p.val else s)

/-- PARCEL_ALLOCATION_RESUME (07 R201): the home stack that was full has a free slot again. -/
def execParcelAllocationResume (p : PartId) (s : State) : Host.Outcome State Fault Refusal :=
  .next (match (s.round p.val).allocWait with
    | none => s
    | some st =>
      if s.mayBuild p.val && decide (0 < s.freeSlots p.val st) then
        s.replayGuard ((s.modRound p.val (fun r => { r with allocWait := none })).checkedBuild p.val) p.val
      else s)

end Sys2Proof.Machine
end

