-- ==== Sys2Proof/Machine/RoundCommit.lean ====
section
/-! DEFINITION. The commit of a step (07 R209, R213, R220 to R222; 08 R230, R234, R235, R241 to R244, R249 to R253; 19 R455 to
R457). -/

namespace Sys2Proof.Machine

/-! ### What an item commits -/

/-- Stop tokens in use. -/
def SeqRec.isStop (l : SeqRec) (t : W32) : Bool := t != 0xFFFFFFFF#32 && l.stop.contains t

/-- Tokens up to and including the first stop token (R243). -/
def cutAtStop (l : SeqRec) : List W32 → List W32
  | [] => []
  | t :: ts => if l.isStop t then [t] else t :: cutAtStop l ts

/-- Draft tokens that a verify accepted: no more than it offered (R242). -/
def Item.acceptedOf (it : Item) (o : ItemOutput) : Nat := if it.kind = .verify then min it.k o.accepted else 0

/-- The tokens an item commits: those sampled, cut by the request's limit, by 1,048,576 tokens, by promo_left and by a stop token
(R242, R243, R249). -/
def committed (e : RoundEntry) (it : Item) (o : ItemOutput) : List W32 :=
  if !it.samples then []
  else
    let n := it.acceptedOf o + 1
    let n := min n (min (e.limit - (if it.kind = .prefill then e.promptLen else e.length)) (1048576 - e.length))
    let n := if it.promoted then min n e.promoLeft else n
    cutAtStop e.log ((List.range n).map (fun j => o.tokens.getD j 0))

/-- The draft-length window after a commit (R253). -/
def Draft.next (d : Draft) (it : Item) (a : Nat) (probing : Bool) : Draft × Bool :=
  if it.kind = .verify then
    let w := { d with window := d.window + 1, drafted := d.drafted + it.k, accepted := d.accepted + a }
    if w.window < 8 then (w, probing)
    else
      let good := decide (w.drafted ≤ 5 * w.accepted)
      let c := { w with window := 0, drafted := 0, accepted := 0 }
      if probing then
        (if good then ({ c with k := d.kReq }, false) else ({ c with k := 0, countdown := 64 }, false))
      else if good then (c, false)
      else ({ c with k := 0, countdown := 64 }, false)
  else if d.k = 0 ∧ 0 < d.countdown then
    let n := d.countdown - 1
    if n = 0 then ({ d with countdown := 0, k := 1, window := 0, drafted := 0, accepted := 0 }, true)
    else ({ d with countdown := n }, probing)
  else (d, probing)

/-! ### The ledger (07 R209) -/

/-- A parcel with n committed slots. -/
def Parcel.fill (x : Parcel) (n : Nat) : Parcel := { x with filled := n, state := if n = 256 then .full else .tail }

/-- Bring the sets of a map to `kv` committed positions from span `from` on: a set that stays empty is free (R209). -/
def State.settle (s : State) (p i : Nat) (draft : Bool) (start kv : Nat) : State :=
  match s.seqAt p i with
  | none => s
  | some e =>
    let map := if draft then e.log.draftMap else e.log.map
    let t := (List.range map.length).foldl (fun t j =>
      if j < start then t
      else
        let is := t.setOf p draft (map.getD j 0)
        if kv ≤ 256 * j then t.freeParcels p is
        else is.foldl (fun u k => u.modParcel p k (fun x => if x.state.resident then x.fill (min 256 (kv - 256 * j)) else x)) t) s
    let keep := max start (spansOf kv)
    t.modSeq p i (fun x => { x with log :=
      if draft then { x.log with draftMap := x.log.draftMap.take keep } else { x.log with map := x.log.map.take keep } })

/-- Every ledger index that a sheet names. -/
def State.namedParcels (s : State) (p : Nat) (its : List Item) : List Nat :=
  (its.flatMap (fun it => (s.itemBases p it).flatMap (fun b => s.setOf p b.2.2 b.1))).eraseDups

/-- last_use of every parcel the sheet named (R209). -/
def State.touch (s : State) (p : Nat) (is : List Nat) : State :=
  let n : W32 := BitVec.ofNat 32 (s.round p).step.toNat
  is.foldl (fun t i => t.modParcel p i (fun x => { x with lastUse := n })) s

/-- A parcel whose 256 slots one prefill chunk wrote may take the scales that the program computed for it (07 R195). -/
def State.chunkScales (s : State) (p : Nat) (is : List Nat) : State :=
  if is.isEmpty then s
  else is.foldl (fun t i => match Config.chunkScale s.free i with
    | some c => t.modParcel p i (fun x => { x with kScale := c.1, vScale := c.2 })
    | none => t) s.useFree

/-- The parcels of a sequence that a chunk of tokens from a position on fills whole. -/
def State.filledBy (s : State) (p i : Nat) (draft : Bool) (start n : Nat) : List Nat :=
  match s.seqAt p i with
  | none => []
  | some e =>
    let map := if draft then e.log.draftMap else e.log.map
    ((List.range map.length).filter (fun j => decide (start ≤ 256 * j) && decide (256 * (j + 1) ≤ start + n))).flatMap (fun j =>
      s.setOf p draft (map.getD j 0))

/-- The spans that a recompute item covered hold their tokens again, and the next chunk goes on behind it while a later one is returned
(07 R220, R222). -/
def State.settleRecompute (s : State) (p : Nat) (e : RoundEntry) (it : Item) (back : List Nat) : State :=
  let stop := it.position + it.tokens
  let maps := s.recomputeMaps p e
  let mine := maps.1.flatMap (s.setOf p false) ++ maps.2.flatMap (s.setOf p true)
  let t := back.foldl (fun t i =>
    let x := t.parcel p i
    if 256 * x.number < it.position ∨ stop ≤ 256 * x.number ∨ !mine.contains i then t
    else t.modParcel p i (fun y => { y.fill y.lost with lost := 0 })) s
  let own := decide (e.state ≠ .waiting)
  let t := t.modRound p (fun r => { r with recomputeAccount := r.recomputeAccount + it.tokens })
  let redo := if (t.returnedSpans p maps.1 maps.2).isEmpty then 0 else stop
  let t := match e.prefixEntry with
    | some k => if own then t else t.modPrefix p k (fun x => { x with redo := redo })
    | none => t
  t.modSeq p it.index (fun x =>
    { x with
      log := if own then { x.log with recomputed := x.log.recomputed + it.tokens, redo := redo } else x.log,
      flags := { x.flags with recompute := !(t.returnedSpans p x.log.map x.log.draftMap).isEmpty } })

/-! ### Prefix entries (07 R213, R214, R222; 08 R252) -/

/-- An entry that has become ready: its holders that waited go on behind its spans, their spilled parcels to be fetched first (R219). -/
def State.prefixReady (s : State) (p k : Nat) : State :=
  match s.prefixAt p k with
  | none => s
  | some x =>
    let t := s.setPrefix p k (some { x with ready := true })
    (t.seqs p).foldl (fun u q =>
      let e := q.2
      if e.prefixEntry = some k then
        let u := u.setSeq p q.1 (some
          { e with log := { e.log with builds := if e.log.builds = some k then none else e.log.builds,
                                       map := x.map ++ e.log.map.drop x.map.length,
                                       draftMap := x.draftMap ++ e.log.draftMap.drop x.draftMap.length } })
        if e.state = .waiting then u.wake p q.1 else u
      else u) t

/-- The sequence that still builds an entry goes on once what was returned of it is there again (R222). -/
def State.wakeBuilder (s : State) (p k : Nat) : State :=
  (s.seqs p).foldl (fun u q =>
    if q.2.log.builds = some k ∧ q.2.state = .waiting then u.wake p q.1 else u) s

/-- Entries whose parcels are all there become ready. -/
def State.finishPrefixes (s : State) (p : Nat) : State :=
  (s.round p).prefixes.foldl (fun t q =>
    match t.prefixAt p q.1 with
    | none => t
    | some x =>
      let whole := decide (x.map.length = x.spans) && x.map.all (fun b => decide ((t.parcel p b).filled = 256))
      if x.ready || !(t.returnedSpans p x.map x.draftMap).isEmpty then t
      else if whole then t.prefixReady p q.1
      else t.wakeBuilder p q.1) s

/-- A returned parcel's consequences (07 R220, R222): the holder recomputes, or the prefix entry builds again and its holders
wait. -/
def State.returned (s : State) (p i : Nat) : State :=
  let x := s.parcel p i
  if !x.state.resident && decide (x.state ≠ .spilled) then s
  else
    let t := (s.journalHappening p 1 i).returnParcel p i
    if x.isShared then
      (t.round p).prefixes.foldl (fun u q =>
        match u.prefixAt p q.1 with
        | none => u
        | some e =>
          if (u.prefixParcels p e).contains i then
            let u := u.setPrefix p q.1 (some { e with ready := false })
            (u.seqs p).foldl (fun v w =>
              if w.2.prefixEntry = some q.1 then v.setSeq p w.1 (some { w.2 with state := .waiting }) else v) u
          else u) t
    else t.modSeq p x.holder (fun e => { e with flags := { e.flags with recompute := true } })

/-! ### Charges (R234, R235) -/

/-- The bucket that an item's tokens are charged to: the one that reserved its charge, or a promoted one's; none for a cancelled
sequence (R234, R251). -/
def State.payer (s : State) (p : Nat) (e : RoundEntry) (it : Item) : Option Nat :=
  if e.flags.cancelled then none
  else match it.charge with
    | some (n, _) => some n
    | none => if it.promoted && it.main then s.budgetOf p e.tenant else none

/-- The final charge of an item takes the place of what was reserved for it (R234, log 25). -/
def State.chargeItem (s : State) (p : Nat) (e : RoundEntry) (it : Item) (c : Nat) : State :=
  let cost : Int := match s.payer p e it with
    | some _ => (c + (if it.kind = .prefill then s.prefillCharge p it.tokens else 0) : Nat)
    | none => 0
  match it.charge with
  | some (n, held) => s.modRound p (fun r => r.give n ((held : Int) - cost))
  | none => match s.payer p e it with
    | some n => s.modRound p (fun r => r.give n (-cost))
    | none => s

/-! ### Records (R231, R244) -/

/-- A token descriptor. -/
def tokenRecord (e : RoundEntry) (toks : List W32) (late last promoted : Bool) (step now position : Nat) : List Byte :=
  toBytes 1 1 ++ toBytes 1 toks.length ++ toBytes 1 (b2n late + 2 * b2n last + 4 * b2n promoted) ++ toBytes 1 0 ++
    toBytes 4 e.requestId ++ toBytes 8 step ++ toBytes 8 now ++
    (List.range 8).flatMap (fun j => toBytes 4 (match toks[j]? with | some t => t.toNat | none => 0xFFFFFFFF)) ++
    toBytes 4 position ++ toBytes 2 e.tenant ++ toBytes 2 0

/-! ### Items and sequences (R243 steps 3 to 5) -/

/-- What one item did, for the records of step 7. -/
structure Yield where
  index : Nat
  item : Item
  toks : List W32
  /-- length before the commit -/
  position : Nat
deriving DecidableEq, Repr

/-- Whether a CANCEL that has been fetched takes effect at this commit: at once, but of a sequence that builds a prefix entry at the
commit that makes the entry ready (R251, R252). -/
def State.cancelNow (s : State) (p : Nat) (its : List Item) (q : Nat × RoundEntry) : RoundEntry :=
  let e := q.2
  let done := match e.log.builds with
    | none => true
    | some k =>
      (match s.prefixAt p k, its.find? (fun it => it.index == q.1 && decide (it.kind = .prefill)) with
       | some x, some it =>
         decide (256 * x.spans ≤ e.prefilled + it.tokens) && (s.returnedSpans p x.map x.draftMap).isEmpty &&
           (s.round p).toReturn.all (fun i => !(s.prefixParcels p x).contains i)
       | some _, none => false
       | none, _ => true)
  if e.flags.asked && done then { e with flags := { e.flags with cancelled := true } } else e

/-- A cancelled sequence is best-effort from its first commit on, unless it builds a prefix entry (R251, R252). -/
def RoundEntry.classNow (e : RoundEntry) : RoundEntry :=
  if e.flags.asked && e.log.builds.isNone then
    { e with flags := { e.flags with cancelled := true, be := true, promoted := false }, promoLeft := 0 }
  else e

/-- An item's sequence advances (R243 step 4, R249, R253). -/
def RoundEntry.advance (e : RoundEntry) (it : Item) (o : ItemOutput) (toks : List W32) (charged : Bool) (now : W64) (step : W64) : RoundEntry :=
  let c := toks.length
  let pre := if it.kind = .prefill then it.tokens else 0
  let d := if e.flags.speculative then e.draft.next it (it.acceptedOf o) e.flags.probing else (e.draft, e.flags.probing)
  let left := if it.promoted then e.promoLeft - c else e.promoLeft
  let cancelled := e.flags.cancelled
  { e with
    prefilled := e.prefilled + pre, generated := e.generated + c, length := e.length + pre + c,
    state := if e.state = .prefill ∧ e.prefilled + pre = e.promptLen then .decode else e.state,
    waitSince := now, lastStep := BitVec.ofNat 32 step.toNat, draft := d.1, promoLeft := left,
    flags := { e.flags with probing := d.2, promoted := e.flags.promoted && !(it.promoted && left == 0) },
    log := { e.log with
      tokens := e.log.tokens ++ toks, computed := e.log.computed + (if charged then pre else 0),
      delivered := e.log.delivered + (if cancelled then 0 else c),
      cancelledTokens := e.log.cancelledTokens + (if cancelled then c else 0),
      promotedTokens := e.log.promotedTokens + (if it.promoted then c else 0) } }

/-- Commit one item. -/
def State.commitItem (s : State) (p : Nat) (sh : Sheet) (now : W64) (a : Item × ItemOutput) : State × Option Yield :=
  let it := a.1
  match s.seqAt p it.index with
  | none => (s, none)
  | some e =>
    match it.kind with
    | .draft => (s, none)
    | .recompute =>
      let t := s.settleRecompute p e it sh.realloced
      let d := if e.flags.speculative then e.draft.next it 0 e.flags.probing else (e.draft, e.flags.probing)
      (t.modSeq p it.index (fun x => { x with
        waitSince := now, lastStep := BitVec.ofNat 32 sh.step.toNat, draft := d.1, flags := { x.flags with probing := d.2 } }),
       some { index := it.index, item := it, toks := [], position := e.length })
    | _ =>
      let toks := committed e it a.2
      let e' := e.advance it a.2 toks (s.payer p e it).isSome now sh.step
      let t := s.setSeq p it.index (some e')
      let t := t.settle p it.index false (e.kv / 256) (if e'.generated = 0 then e'.prefilled else e'.kv)
      let dkv := s.draftKv p e
      let more := match it.kind with
        | .verify => toks.length
        | .prefill => if e.flags.speculative then it.tokens else 0
        | _ => 0
      let t := t.settle p it.index true (dkv / 256) (dkv + more)
      let t := if it.kind = .prefill then
          t.chunkScales p (t.filledBy p it.index false e.prefilled it.tokens ++ t.filledBy p it.index true dkv more) else t
      let t := t.chargeItem p e it toks.length
      (t, some { index := it.index, item := it, toks := toks, position := if it.kind = .prefill then e.promptLen else e.length })

/-- Commit every item, in item order. -/
def State.commitItems (s : State) (p : Nat) (sh : Sheet) (now : W64) : List (Item × ItemOutput) → State × List Yield
  | [] => (s, [])
  | a :: as =>
    match s.commitItem p sh now a with
    | (t, y) =>
      match t.commitItems p sh now as with
      | (u, ys) => (u, y.toList ++ ys)

/-! ### Deadlines and endings (R243 step 6, R250 to R252) -/

/-- Mark late sequences, each once, with a record (R250). -/
def State.markLate (s : State) (p : Nat) (now : W64) : State :=
  (s.seqs p).foldl (fun t q =>
    let e := q.2
    if e.deadline ≠ 0 ∧ e.deadline.toNat < now.toNat ∧ !e.flags.late ∧ !e.flags.cancelled then
      (t.setSeq p q.1 (some { e with flags := { e.flags with late := true } })).post (p + 1) 4 1 p
        (e.requestId + at_ 32 (min 0xFFFFFFFF ((now.toNat - e.deadline.toNat) / 1000)))
    else t) s

/-- The status with which a sequence ends at this commit, if it does (R243, R250, R251; log 22). -/
def RoundEntry.endStatus (e : RoundEntry) (y : Option Yield) : Option Nat :=
  let stopped := match y with
    | some v => (match v.toks.getLast? with | some t => e.log.isStop t | none => false)
    | none => false
  let full := decide (e.limit ≤ e.length) && decide (0 < e.generated)
  let top := decide (1048576 ≤ e.length)
  if stopped || full || top then
    some (if e.flags.cancelled then 0x04 else if stopped then 0x01 else if full then 0x00 else 0x02)
  else if e.flags.late && e.flags.latePolicy && !e.flags.cancelled then some 0x03
  else none

/-- A sequence that builds a prefix entry ends when the entry is ready (R252). -/
def RoundEntry.mayEnd (e : RoundEntry) : Bool := e.log.builds.isNone

/-- Step 7 for one item: its token descriptor, then its completion record if it ends (R243, R244). -/
def State.record (s : State) (p : Nat) (now : W64) (y : Yield) : State :=
  match s.seqAt p y.index with
  | none => s
  | some e =>
    let ends := if e.mayEnd then e.endStatus (some y) else none
    let t :=
      if y.toks.isEmpty || e.flags.cancelled then s.returnToken p y.item
      else
        s.putRing (p + 1) e.tokenRing
          (tokenRecord e y.toks e.flags.late ends.isSome y.item.promoted (s.round p).step.toNat now.toNat y.position)
    match ends with
    | some st => t.endSeq p y.index st
    | none => t

/-- Sequences off the sheet that end at this commit (R250). -/
def State.endOthers (s : State) (p : Nat) : State :=
  (s.seqs p).foldl (fun t q =>
    match if q.2.mayEnd then q.2.endStatus none else none with
    | some st => t.endSeq p q.1 st
    | none => t) s

/-! ### The step model (R230) -/

/-- 3 × 3 determinant. -/
def det3 (a b c d e f g h i : Int) : Int := a * (e * i - f * h) - b * (d * i - f * g) + c * (d * h - e * g)

/-- Least squares over the samples, exactly; none when the samples do not determine the three coefficients. -/
def StepModel.fit (m : StepModel) : Option StepModel :=
  let z (f : Nat × Nat × Nat → Int) : Int := (m.samples.map f).sum
  let n := z (fun _ => 1)
  let x := z (fun q => (q.1 : Int))
  let y := z (fun q => (q.2.1 : Int))
  let xx := z (fun q => (q.1 * q.1 : Nat))
  let xy := z (fun q => (q.1 * q.2.1 : Nat))
  let yy := z (fun q => (q.2.1 * q.2.1 : Nat))
  let d := z (fun q => (q.2.2 : Int))
  let dx := z (fun q => (q.2.2 * q.1 : Nat))
  let dy := z (fun q => (q.2.2 * q.2.1 : Nat))
  let det := det3 n x y x xx xy y xy yy
  if det ≤ 0 then none
  else some { m with d0 := det3 d x y dx xx xy dy xy yy, dTok := det3 n d y x dx xy y dy yy, dSpan := det3 n x d x xx dx y xy dy,
                     den := det.toNat }

/-- Enter a measured duration; every 64 commits the model is fitted again over the last 256. Samples that determine no fit give
coefficients the spec does not state (log 3). -/
def State.measure (s : State) (p tau sigma dur : Nat) : State :=
  let m := (s.round p).stepModel
  let m := { m with count := m.count + 1, samples := ((tau, sigma, dur) :: m.samples).take 256 }
  if m.count % 64 = 0 then
    match m.fit with
    | some f => s.modRound p (fun r => { r with stepModel := f })
    | none =>
      let a := s.freeVal
      let b := s.useFree.freeVal
      let c := s.useFree.useFree.freeVal
      s.useFree.useFree.useFree.modRound p (fun r =>
        { r with stepModel := { m with d0 := a.toInt, dTok := b.toInt, dSpan := c.toInt, den := 1 } })
  else s.modRound p (fun r => { r with stepModel := m })

/-- Distinct sets that items read. -/
def State.sigmaOf (s : State) (p : Nat) (its : List Item) : Nat :=
  ((its.flatMap (fun it => (s.itemBases p it).map (·.1))).eraseDups).length

/-! ### The step digest (19 R457) -/

/-- Number of an item kind (R239). -/
def ItemKind.code : ItemKind → Nat
  | .decode => 1 | .verify => 2 | .prefill => 3 | .recompute => 4 | .draft => 5

/-- The header with built_at, predicted, reissue and levels zero (R238, 19 R457). -/
def Sheet.headBytes (sh : Sheet) : List Byte :=
  toBytes 8 sh.step.toNat ++ toBytes 4 sh.items.length ++ toBytes 4 sh.circs.length ++ toBytes 2 sh.threshold ++
    toBytes 1 (b2n sh.repro) ++ toBytes 13 0 ++ toBytes 4 (Config.sheetOffset 0 0).toNat ++
    toBytes 4 (Config.sheetOffset 1 0).toNat ++ toBytes 24 0

/-- One item of the item list (R239). -/
def Item.bytes (it : Item) (n : Nat) : List Byte :=
  toBytes 1 it.kind.code ++ toBytes 1 (b2n it.be + 2 * b2n it.promoted + 4 * b2n it.samples) ++ toBytes 2 it.tokens ++
    toBytes 2 it.index ++ toBytes 1 it.pigeonhole ++ toBytes 1 it.k ++ toBytes 4 it.position ++
    toBytes 4 (Config.sheetOffset 2 n).toNat ++ toBytes 4 (Config.sheetOffset 3 n).toNat ++
    toBytes 4 (Config.sheetOffset 4 n).toNat ++ toBytes 4 it.circFirst ++ toBytes 2 it.circCount ++ toBytes 2 0

/-- One entry of the circular list (R240). -/
def Circ.bytes (c : Circ) (n : Nat) : List Byte :=
  toBytes 4 c.set ++ toBytes 2 c.span ++ toBytes 2 c.queries ++ toBytes 4 (Config.sheetOffset 5 n).toNat ++
    toBytes 2 c.readers.length ++ toBytes 2 c.stackMask.toNat

/-- The bytes a step digest covers. -/
def Sheet.digestBytes (sh : Sheet) (outputs : List ItemOutput) (probe : List Byte) : List Byte :=
  sh.headBytes ++ sh.items.zipIdx.flatMap (fun x => x.1.bytes x.2) ++ sh.circs.zipIdx.flatMap (fun x => x.1.bytes x.2) ++
    sh.circs.flatMap (fun c => c.readers.flatMap (fun r => toBytes 2 r)) ++
    outputs.flatMap (fun o => Config.outputBytes o.accepted o.tokens) ++ probe

/-! ### The commit -/

/-- Parcels that a step allocated in each stack (07 R216). -/
def State.allocatedIn (s : State) (p : Nat) (sh : Sheet) : List Nat :=
  let sts := (sh.allocated ++ sh.realloced).map (fun i => plnStack (s.parcel p i).pln)
  (List.range 16).map (fun st => (sts.filter (· == st)).length)

/-- A replay checks its STEP record, a free choice: one that differs is noted and, when PART_REPLAY asks for it, stops the replay
with reason 4; else the replay goes on, or its journal completes, is exhausted or holds a malformed record
(19 R455, R459; log 23). -/
def State.checkStep (s : State) (p : Nat) : State :=
  if !s.replaying p then s
  else
    let v := s.freeVal
    let t := if bitAt v 0 then s.useFree.modPart p (fun x => { x with journal := { x.journal with
        mismatched := true, stepAt := if x.journal.mismatched then x.journal.stepAt else x.round.step } }) else s.useFree
    if bitAt v 0 && (s.part p).journal.stop then t.failReplay p 4
    else match fld v 2 1 with
      | 0 => t
      | 1 => t.modPart p (fun x => { x with journal := { x.journal with replay := 2 } })
      | 2 => t.failReplay p 1
      | _ => t.failReplay p 6

/-- Steps 3 to 8 of R243. -/
def State.commitStep (s : State) (p : Nat) (sh : Sheet) (outputs : List ItemOutput) (probe : List Byte) : State :=
  let now := s.roundNow p
  let tau := (sh.items.map (·.tokens)).sum
  let sigma := s.sigmaOf p sh.items
  let be := sh.items.filter (fun it => it.be)
  let beTau := (be.map (·.tokens)).sum
  let beSigma := s.sigmaOf p be
  let named := s.namedParcels p sh.items
  let history := s.allocatedIn p sh
  let t := s.journalTime p 2
  -- 3: the ledger's own marks, and parcels that the sieve returned
  let t := t.touch p named
  -- a cancellation takes effect
  let t := (t.seqs p).foldl (fun u q => u.setSeq p q.1 (some (t.cancelNow p sh.items q))) t
  -- 3 to 5
  let r := t.commitItems p sh now (sh.items.zip outputs)
  let t := r.1
  let t := ((t.round p).toReturn).foldl (fun u i => u.returned p i) t
  let t := t.modRound p (fun x => { x with toReturn := [] })
  let t := t.finishPrefixes p
  let t := (t.seqs p).foldl (fun u q => u.setSeq p q.1 (some q.2.classNow)) t
  -- 6
  let t := t.markLate p now
  -- 7
  let t := r.2.foldl (fun u y => u.record p now y) t
  let t := t.endOthers p
  let t := (t.journal p 0x0B (toBytes 32 (sha3 (sh.digestBytes outputs probe)).toNat)).checkStep p
  let m := (t.round p).stepModel
  let spent := ((m.dTok * (beTau : Int) + m.dSpan * (beSigma : Int)) / (m.den : Int))
  let t := if be.isEmpty then t else t.addCredit p 0 (-spent)
  let t := t.measure p tau sigma (now.toNat - sh.builtAt.toNat)
  -- 8
  let t := t.modRound p (fun x =>
    { x with step := x.step + 1, sheet := none, reissue := 0, strikes := 0, excluded := [],
             history := (history :: x.history).take 64 })
  (if (t.part p).sliceDue then t.boundary p else t).settleLevels

/-- The serving job's clusters. -/
def State.servingClusters (s : State) (p : Nat) : List Nat :=
  match s.servingJob p with
  | some j => j.clusters
  | none => []

/-- A serving cluster holds the record of a bus error at a line that f names. -/
def State.servingError (s : State) (p : Nat) (f : Nat → Bool) : Bool :=
  (s.servingClusters p).any (fun c =>
    (s.cluster c).faults.any (fun r => r.code == 0x0C && (match r.pln with | some l => f l | none => false)))

/-- A cause of abandonment has reached firmware: it is pending, or a serving cluster met it (R245; 14 R356). -/
def State.causeStands (s : State) (p : Nat) (c : AbandonCause) : Bool :=
  (s.round p).causes.contains c ||
    (match c with
     | .poisoned pln => s.sharedLine pln && s.servingError p (· == pln)
     | .failedSeal i => s.servingError p (s.inParcel p i)
     | .circularBusError i => s.servingError p (s.inParcel p i))

/-- Some cause of abandonment is pending (R243 step 1; 09 R276). -/
def State.causePending (s : State) (p : Nat) : Bool :=
  !(s.round p).causes.isEmpty || s.servingError p (fun l => s.sharedLine l || (s.parcelOf p l).isSome)

/-- COMMIT (08 R243, 09 R276; 19 R457, R460): a released sheet with no cause of abandonment pending. The commit reads firmware's tables: a
bad line among them is a job fault instead (14 R355, R356). -/
def execCommit (p : PartId) (outputs : List ItemOutput) (probe : List Byte) (s : State) : Host.Outcome State Fault Refusal :=
  .next (match (s.round p.val).sheet with
    | none => s
    | some sh =>
      if s.works p.val ∧ sh.released ∧ !s.causePending p.val ∧ !(s.round p.val).abandoning ∧
          outputs.length = sh.items.length ∧ s.journalRoom p.val (4 + 2 * sh.items.length) then
        match s.fwRead p.val with
        | (t, true) => t
        | (t, false) => s.replayGuard (t.commitStep p.val sh outputs (if bitAt (s.partReg p.val 0x88) 32 then probe else [])) p.val
      else s)

end Sys2Proof.Machine
end

