-- ==== Sys2Proof/Machine/RoundAbandon.lean ====
section
/-! DEFINITION. Abandoning a step and releasing its reissued sheet (07 R221, R222; 08 R245, R246; 09 R276, R278; 14 R356, R357,
R360). -/

namespace Sys2Proof.Machine

/-- The sequences that hold a parcel: its private holder, or those that hold a prefix entry with it (07 R221). -/
def State.holdersOf (s : State) (p i : Nat) : List Nat :=
  if (s.parcel p i).isShared then
    ((s.seqs p).filter (fun q => match q.2.prefixEntry.bind (s.prefixAt p) with
      | some x => (s.prefixParcels p x).contains i
      | none => false)).map (·.1)
  else [(s.parcel p i).holder]

/-- What a sheet allocated is free again, what it gave slots to recompute is returned again, and the charges that it reserved are back in
their buckets (R245 step 3). -/
def State.undoSheet (s : State) (p : Nat) (sh : Sheet) : State :=
  let t := s.modRound p (fun r => { r.reserve 1 sh.items with
    entries := r.entries.map (fun e => (e.1, e.2.map (fun x => { x with log :=
      { x.log with map := x.log.map.filter (fun b => !sh.allocated.contains b),
                   draftMap := x.log.draftMap.filter (fun b => !sh.allocated.contains b) } }))),
    prefixes := r.prefixes.map (fun e => (e.1, e.2.map (fun x =>
      { x with map := x.map.filter (fun b => !sh.allocated.contains b),
               draftMap := x.draftMap.filter (fun b => !sh.allocated.contains b) }))) })
  let t := t.freeParcels p sh.allocated
  let t := sh.realloced.foldl (fun u i => u.returnParcel p i) t
  sh.items.foldl (fun u it => u.returnToken p it) t

/-- Number by which a HAPPENING names a cause (19 R455). -/
def causeNumber : AbandonCause → Nat
  | .failedSeal i => i
  | .poisoned pln => pln
  | .circularBusError i => i

/-- Step 4 of R245 for one cause: a bad parcel is returned, and the sequences that hold it are left off the reissued sheet (07 R221,
R222). -/
def State.causeEffect (s : State) (p : Nat) (c : AbandonCause) : State :=
  match c with
  | .poisoned _ => s
  | .failedSeal i | .circularBusError i =>
    let hs := s.holdersOf p i
    (s.returned p i).modRound p (fun r => { r with excluded := r.excluded ++ hs.filter (fun h => !r.excluded.contains h) })

/-- Whether an abandonment of partition p counts toward the sixteen (R246; 14 R360: a line that was in the queue already, put there by
another reader or by an earlier abandonment, does not count). -/
def State.counts (s : State) (p : Nat) (c : AbandonCause) : Bool :=
  match c with
  | .poisoned pln => s.memory.repairs.all (fun x => x.pln != pln || (!x.known && x.finder == p))
  | _ => true

/-- An abandonment has been counted for a line under repair. -/
def State.markKnown (s : State) (c : AbandonCause) : State :=
  match c with
  | .poisoned pln => { s with memory := { s.memory with
      repairs := s.memory.repairs.map (fun x => if x.pln = pln then { x with known := true } else x) } }
  | _ => s

/-- Abandon the step (R245), or fold a new cause into the abandonment under way (R246). -/
def State.abandon (s : State) (p : Nat) (c : AbandonCause) : State :=
  let r := s.round p
  let fold := r.abandoning
  let count := !fold && s.counts p c
  let strikes := r.strikes + b2n count
  let t := s.markKnown c
  let t := t.abortRuns p
  let t := t.modClusters (t.servingClusters p) Cluster.stopIssue
  let t := match r.sheet with
    | some sh => t.undoSheet p sh
    | none => t
  let t := t.modRound p (fun x =>
    { x with sheet := none, abandoning := true, allocWait := none, causes := x.causes.filter (· != c),
             reissue := if fold then x.reissue else min 15 (x.reissue + 1), strikes := strikes })
  let t := (t.causeEffect p c).settleLevels
  if 16 ≤ strikes then t.jobFault p ((t.servingJob p).map (·.num)) 0 0 0
  else if fold then t
  else
    (t.journalHappening p 2 (causeNumber c)).postTo [p + 1] 4 3 p (r.step.toNat % 2 ^ 32 + at_ 32 ((t.round p).reissue))

/-- STEP_ABANDON (08 R245, R246; 09 R276): a built step that has not reached its commit point; in a
replay the command is also the HAPPENING fed (19 R455; log 23). -/
def execStepAbandon (p : PartId) (cause : AbandonCause) (s : State) : Host.Outcome State Fault Refusal :=
  .next (
    if (s.part p.val).mode = .ready ∧ ((s.round p.val).sheet.isSome ∨ (s.round p.val).abandoning) ∧
        (s.causeStands p.val cause ∨ s.replaying p.val) then
      s.replayGuard (s.abandon p.val cause) p.val
    else s)

/-- A merge slot of the partition has all the partials that it awaits, and is to deliver. -/
def State.delivering (s : State) (p : Nat) : Bool :=
  s.stackTab.any (fun k => k.2.slots.any (fun e => match e.2 with
    | some x => x.partition == p && decide (x.expected ≤ x.folded + x.arrived.length)
    | none => false))

/-- The abandoned step is still: no packet, no run, no merge, no cluster operation and no program copy of it is under way (09 R278). -/
def State.stepStill (s : State) (p : Nat) : Bool :=
  (s.runsOf p).isEmpty && (s.round p).owed.isEmpty && !s.delivering p &&
    (s.servingClusters p).all (fun c => (s.cluster c).running.isEmpty && (s.cluster c).load.isNone) &&
    s.copies.all (fun k => match k.queue with | .program q => q.val != p | .ring _ _ => true)

/-- A line waits for repair in a region that the partition reads (14 R360). -/
def State.repairHolds (s : State) (p : Nat) : Bool :=
  s.memory.repairs.any (fun x => (s.region x.region).readable p && !(s.region x.region).fwOwned)

/-- REISSUED_SHEET_RELEASE (09 R278; 14 R357, R360): the serving job starts again on all its clusters, and the sheet is
released. -/
def execReissuedSheetRelease (p : PartId) (s : State) : Host.Outcome State Fault Refusal :=
  .next (match (s.round p.val).sheet, s.servingJob p.val with
    | some sh, some j =>
      if (s.round p.val).abandoning ∧ !sh.released ∧ s.stepStill p.val ∧ !s.repairHolds p.val then
        let t := s.modClusters j.clusters (fun x => x.begin p.val j.num j.desc none)
        let t := t.modRound p.val (fun r =>
          { r with abandoning := false, sheet := some { sh with released := true } })
        t.bumpStep p.val
      else s
    | _, _ => s)

end Sys2Proof.Machine
end

