-- ==== Sys2Proof/Machine/Copies.lean ====
section
/-! DEFINITION. The commands of the copy engines (10 R290 to R299; 15 R386 to R389). -/

namespace Sys2Proof.Machine

/-! ### Queues (R290, R293) -/

/-- The partition that a copy queue serves. -/
def queuePart : CopyQueue → Nat
  | .ring fn _ => fn.val - 1
  | .program p => p.val

/-- The descriptor at the head of a copy queue; none when its partition cannot start one. -/
def State.queueHead (s : State) (q : CopyQueue) : Option Line :=
  if !s.works (queuePart q) then none
  else match q with
    | .ring fn r =>
      if fn.val = 0 ∨ s.ringType fn.val r.val ≠ 3 then none else (s.ring fn.val r.val).fetched.head?
    | .program p => (s.part p.val).progQ.head?

/-- The head of a copy queue leaves it. -/
def State.popQueue (s : State) (q : CopyQueue) : State :=
  match q with
  | .ring fn r => s.popFetched fn.val r.val
  | .program p => s.modPart p.val (fun x => { x with progQ := x.progQ.drop 1 })

/-- Whether a descriptor is a copy of a digest stream. -/
def isDigest (d : Line) : Bool := cDigest d && decide (1 ≤ cType d) && decide (cType d ≤ 3)

/-- The places of a digest stream's descriptors. -/
def State.turnsOf (s : State) (p n : Nat) : List StreamTurn := (s.part p).turns.filter (fun t => t.stream == n)

/-- Whether the head may start now: a barrier waits for every earlier copy of its queue (R293), and the copies of a digest
stream run one at a time, in the order they were fetched (R299). -/
def State.mayStart (s : State) (q : CopyQueue) (d : Line) : Bool :=
  (!cBarrier d || s.copies.all (fun c => decide (c.queue ≠ q))) &&
    (!isDigest d ||
      (s.copies.all (fun c => c.partition != queuePart q || (match c.digest with
        | some g => g.1 != cStream d
        | none => true)) &&
       (match (s.turnsOf (queuePart q) (cStream d)).find? (fun t => decide (t.kind = .copy)) with
        | some t => decide (t.queue = q)
        | none => true)))

/-- Whether a stream takes the copy that starts next: it is open, or the copy was fetched before the close that waits (R299). -/
def State.streamTakes (s : State) (p n : Nat) : Bool :=
  match Tab.get (fun _ => none) (s.part p).digests n with
  | some g => g.closing.isNone || (match (s.turnsOf p n).find? (fun t => decide (t.kind ≠ .close)) with
      | some t => decide (t.kind = .copy)
      | none => false)
  | none => false

/-- Whether a queue is a program copy queue. -/
def isProgram : CopyQueue → Bool
  | .program _ => true
  | .ring _ _ => false

/-! ### Records (R297, R298; 11 R311) -/

/-- A descriptor that produces no record gives back the entry reserved for it (11 R309). -/
def State.unreserve (s : State) (fn r : Nat) : State :=
  s.modRing fn (s.complRing fn r) (fun x => { x with reserved := x.reserved - 1 })

/-- A record of copy class on the completion ring of a copy ring. -/
def State.copyAnswer (s : State) (fn r typ status id detail detail2 started : Nat) (digest : List Byte) : State :=
  s.putRing fn (s.complRing fn r) (jobRecord typ status id r 0 detail detail2 started s.nowNat digest)

/-- A cause of a job fault has reached firmware. -/
def State.faultDue (s : State) (p : Nat) : State := s.modPart p (fun x => { x with faultDue := true })

/-- What a bus error met by a program copy leads to (R298; 14 R356): in a serving step the step is abandoned for a line of
shared weights or of a parcel; else shared weights end the copy's job alone, which is a free choice among the live ones (log 35),
and any other line is a job fault. -/
def State.programError (s : State) (p pln : Nat) : State :=
  let serving := match (s.round p).sheet with
    | some sh => sh.released && (s.servingJob p).isSome
    | none => false
  if s.sharedLine pln then
    (if serving then s.addCause p (.poisoned pln)
     else match s.liveJobs p with
       | [] => s.faultDue p
       | [j] => s.endJob p j.num 0x42 0x0C 0 0
       | js =>
         match js[s.freeVal.toNat % js.length]? with
         | some j => s.useFree.endJob p j.num 0x42 0x0C 0 0
         | none => s.faultDue p)
  else match (if serving then s.parcelOf p pln else none) with
    | some i => s.addCause p (.circularBusError i)
    | none => s.faultDue p

/-- The quarter on whose line a partition's copies complete: the lowest in which it holds shares (12 R329; log 35). -/
def State.homeQuarter (s : State) (p : Nat) : Nat :=
  ((List.range 4).find? (fun q => !(sharesIn (s.part p).applied.shares q).isEmpty)).getD 0

/-- A copy leaves the engines with its record or its consequences (R297, R298). -/
def State.endCopy (s : State) (c : CopyJob) (status : Nat) (err : Option Nat) : State :=
  let t := { s with copies := s.copies.filter (fun k => k.id != c.id) }
  let t := t.latch (20 + t.homeQuarter c.partition)
  let t := match c.digest with
    | some g =>
      t.modPart c.partition (fun x => { x with digests := Tab.modify (fun _ => none) x.digests g.1 (Option.map (fun (y : Digest) =>
        if status ≠ 0 then { y with failed := true }
        else { y with data := y.data ++ g.2,
                      regions := dedup (y.regions ++ c.pieces.flatMap (fun z => z.spots.filterMap (fun w => match w with
                        | .dev i _ => some i
                        | _ => none))) })) })
    | none => t
  match c.queue with
  | .ring fn r =>
    if status ≠ 0 ∨ cRecord c.desc then
      t.copyAnswer fn.val r.val (cType c.desc) status (cId c.desc) 0 0 c.startedAt.toNat []
    else t.unreserve fn.val r.val
  | .program p =>
    if status = 0 then t
    else match (if status = 0x34 then err else none) with
      | some pln => t.programError p.val pln
      | none => t.faultDue p.val

/-! ### Starting (R291 to R296) -/

/-- A new copy. -/
def State.addCopy (s : State) (q : CopyQueue) (d : Line) (status : Nat) (err : Option Nat) (boxes : List (Nat × Nat × Nat))
    (ext : List (Spot × Line)) (handles : List W32) (coll : Option Coll) : State :=
  let c : CopyJob :=
    { id := s.nextCopy, queue := q, partition := queuePart q, desc := d, status := status, startedAt := s.time.now, boxes := boxes,
      ext := ext, stage := 0, pieces := [], waiting := [], handles := handles, err := err,
      digest := if isDigest d ∧ status ≠ 0x39 then some (cStream d, []) else none,
      members := [], coll := coll }
  let t := { s with copies := s.copies ++ [c], nextCopy := s.nextCopy + 1 }
  if isDigest d then t.modPart (queuePart q) (fun x => { x with turns := dropTurn q x.turns }) else t

/-- The notify of a descriptor names what exists (R291, R297): 0, or the status (log 36). -/
def State.notifyStatus (s : State) (p : Nat) (d : Line) (clusters : List Nat) : Nat :=
  if cSignal d then
    (if clusters.isEmpty && decide ((s.partClusters p).length ≤ cSigCluster d) then 0x38 else 0)
  else if cAtomic d then
    match s.tensorAt p (cWordHandle d) with
    | none => 0x30
    | some t =>
      if tSpace t.desc = 1 then 0x30
      else if tRank t.desc ≠ 1 ∨ tFmt t.desc ≠ .int8 ∨ tSize t.desc 0 < cWordByte d + 4 then 0x31
      else if tSpace t.desc = 2 ∧ !s.reachable p (tPeer t.desc) then 0x36
      else 0
  else 0

/-- Handles that a copy descriptor names (R287). -/
def copyHandles (d : Line) : List W32 :=
  (if cKind d false = 0 then [BitVec.ofNat 32 (cSide d false 0)] else []) ++
    (if cKind d true = 0 then [BitVec.ofNat 32 (cSide d true 0)] else []) ++
    (if cType d = 2 ∨ cType d = 3 then [cListHandle d] else []) ++ (if cAtomic d then [cWordHandle d] else [])

/-- The bytes of the list of a GATHER or SCATTER: read in device memory, or brought by the command (R295). A failure gives a
status and a PLN. -/
def State.listBytes (s : State) (p : Nat) (d : Line) (brought : Option (List Byte)) : State × (List Byte ⊕ (Nat × Option Nat)) :=
  if cType d = 1 then (s, .inl [])
  else match s.tensorAt p (cListHandle d) with
    | none => (s, .inr (0x30, none))
    | some t =>
      if tRank t.desc ≠ 1 ∨ tFmt t.desc ≠ .int8 then (s, .inr (0x30, none))
      else
        let n := tSize t.desc 0
        if tSpace t.desc ≠ 0 then
          match brought with
          | some bs => (s, .inl (bs.take n))
          | none => (s, .inr (if tSpace t.desc = 1 then 0x35 else 0x36, none))
        else
          let lo := 16 * cListFirst d / 64
          let hi := min (ceilDiv n 64) (ceilDiv (16 * (cListFirst d + cListLen d)) 64)
          match s.readAddrs p ((List.range (hi - lo)).map (fun k => tBase t.desc + 64 * (lo + k))) with
          | (u, _, some pln) => (u, .inr (0x34, some pln))
          | (u, ls, none) => (u, .inl ((List.replicate (64 * lo) 0 ++ ls.flatMap lineBytes).take n))

/-- The plan of a copy, or the status that ends it, and the PLN of a bus error in its list (R285, R291 to R298). -/
def State.planCopy (s : State) (q : CopyQueue) (d : Line) (list : Option (List Byte)) :
    State × (CopyPlan ⊕ (Nat × Option Nat)) :=
  let p := queuePart q
  if badCopy (isProgram q) d then (s, .inr (0x28, none))
  else match s.side (s.tensorAt p) p d false, s.side (s.tensorAt p) p d true with
    | .inr e, _ => (s, .inr (e, none))
    | _, .inr e => (s, .inr (e, none))
    | .inl a, .inl b =>
      let x := a.beside b
      let y := b.beside x
      let x := x.beside y
      let n := cCount0 d
      let r := cCount1 d
      let dd := dstDims d
      if !formatsOk d x y then (s, .inr (0x32, none))
      else match s.notifyStatus p d (if y.kind = 1 then y.clusters else []) with
        | e + 1 => (s, .inr (e + 1, none))
        | 0 =>
          if cDigest d ∧ !s.streamTakes p (cStream d) then (s, .inr (0x39, none))
          else match s.listBytes p d list with
            | (t, .inr e) => (t, .inr e)
            | (t, .inl bs) =>
              let taken : List (Nat × Nat × Nat) × Nat :=
                match cType d with
                | 2 => takeBoxes (t.judgeEntry x n r) bs (cListFirst d) (cListLen d) 0
                | 3 => takeBoxes (t.judgeEntry y dd.2 dd.1) bs (cListFirst d) (cListLen d) 0
                | _ => ([(0, 0, 0)], 0)
              let all := List.range (max 1 (cListLen d))
              let stX := if cType d = 2 then 0 else (all.map (fun i => t.fits p (x.nth n r i) n r)).find? (· != 0) |>.getD 0
              let stY := if cType d = 3 then 0 else (all.map (fun i => t.fits p (y.nth dd.2 dd.1 i) dd.2 dd.1)).find? (· != 0) |>.getD 0
              if stX ≠ 0 then (t, .inr (stX, none))
              else if stY ≠ 0 then (t, .inr (stY, none))
              else (t, .inl { src := x, dst := y, boxes := taken.1, bad := taken.2 })

/-- Every outside line that a plan needs; none where a line does not exist or scales do not line up, of one box or of boxes that
share a scale tile of an on-chip side (R296). -/
def State.planNeeds (s : State) (p : Nat) (d : Line) (plan : CopyPlan) : Option (List Spot) :=
  match plan.boxes.zipIdx.mapM (fun b =>
      let xy := plan.sides d b.2 b.1
      (s.boxSpots p d xy.1 xy.2).map (fun q => (boxNeeds d xy.2 q, q.2.2))) with
  | none => none
  | some l =>
    let coarse := dedup ((l.flatMap (·.2)).filter (fun (m : ScaleMove) => m.len == 32))
    let onChip := plan.src.kind != 0 || plan.dst.kind != 0
    if onChip && clashing (plan.src.kind != 0) coarse then none else some (dedup (l.flatMap (·.1)))

/-- Every peer that a plan touches. -/
def State.planPeers (s : State) (p : Nat) (d : Line) (plan : CopyPlan) : List Nat :=
  dedup (plan.boxes.zipIdx.flatMap (fun b =>
    let xy := plan.sides d b.2 b.1
    match s.boxSpots p d xy.1 xy.2 with
    | some q => peersOf (segSpots q.1 ++ segSpots q.2.1)
    | none => []))

/-- A replay checks its HOST_READ record: a digest that differs, a free choice, stops it with reason 3 (19 R455; log 23). -/
def State.checkHostRead (s : State) (p : Nat) : State :=
  if !s.replaying p then s
  else if bitAt s.freeVal 0 then s.useFree.failReplay p 3
  else s.useFree

/-- Start a copy (R293 to R298): it is refused, or asks the host and the peers for what it needs, and reads its source when all
of it is there. -/
def State.startCopy (s : State) (q : CopyQueue) (d : Line) (host list : Option (List Byte)) : State :=
  let p := queuePart q
  let s := s.popQueue q
  let hs := copyHandles d
  match s.planCopy q d list with
  | (t, .inr e) => t.addCopy q d e.1 e.2 [] [] hs none
  | (t, .inl plan) =>
    match t.planNeeds p d plan with
    | none => t.addCopy q d 0x31 none [] [] hs none
    | some needs =>
      if !(t.planPeers p d plan).all (t.reachable p) then t.addCopy q d 0x36 none [] [] hs none
      else
        let fromHost := needs.filterMap (fun x => match x with | .host a => some a | _ => none)
        let fromPeers := needs.filterMap (fun x => match x with | .peer m a => some (m, a) | _ => none)
        let t := t.toHost (fromHost.map (fun a => .hostRead (p + 1) a 64))
        match (if fromHost.isEmpty then some [] else host) with
        | none => ((t.journal p 0x08 (toBytes 1 2 ++ toBytes 7 0)).failReplay p 3).addCopy q d 0x35 none [] [] hs none
        | some bs =>
          let ext := fromHost.zipIdx.map (fun a => (Spot.host a.1, lineOf ((bs.drop (64 * a.2)).take 64)))
          let t := if fromHost.isEmpty then t
            else t.journal p 0x05 (toBytes 8 (64 * fromHost.length) ++
              toBytes 32 (sha3 (padTo (64 * fromHost.length) (bs.take (64 * fromHost.length)))).toNat)
          let t := if fromHost.isEmpty then t else t.checkHostRead p
          let id := t.nextCopy
          let t := t.addCopy q d plan.bad none plan.boxes ext hs none
          let t := fromPeers.foldl (fun u a => u.sendFor id p a.1 2 0 a.2 []) t
          if fromPeers.isEmpty then t.moveCopy id else t

/-- Start a copy; a replay that its host read stops halts the partition (19 R460). -/
def State.beginCopy (s : State) (q : CopyQueue) (d : Line) (host list : Option (List Byte)) : State :=
  s.replayGuard (s.startCopy q d host list) (queuePart q)

/-- COPY (R291 to R294): it also takes a descriptor of a type that its queue does not accept, which is malformed (R298). -/
def execCopy (q : CopyQueue) (host : Option (List Byte)) (s : State) : Host.Outcome State Fault Refusal :=
  .next (match s.queueHead q with
    | none => s
    | some d =>
      let ty := cType d
      let known := (1 ≤ ty ∧ ty ≤ 4) ∨ (!isProgram q ∧ 0x20 ≤ ty ∧ ty ≤ 0x24)
      if ty = 1 then (if s.mayStart q d then s.beginCopy q d host none else s)
      else if known then s
      else if s.mayStart q d then (s.popQueue q).addCopy q d 0x28 none [] [] [] none
      else s)

/-- GATHER (R295). -/
def execGather (q : CopyQueue) (host list : Option (List Byte)) (s : State) : Host.Outcome State Fault Refusal :=
  .next (match s.queueHead q with
    | some d => if cType d = 2 ∧ s.mayStart q d then s.beginCopy q d host list else s
    | none => s)

/-- SCATTER (R295). -/
def execScatter (q : CopyQueue) (host list : Option (List Byte)) (s : State) : Host.Outcome State Fault Refusal :=
  .next (match s.queueHead q with
    | some d => if cType d = 3 ∧ s.mayStart q d then s.beginCopy q d host list else s
    | none => s)

/-- What refuses a COLLECTIVE at its start: 0, or a status (15 R386; 10 R298). -/
def State.collStatus (s : State) (q : CopyQueue) (d : Line) : Nat :=
  let p := queuePart q
  if badColl (isProgram q) d then 0x28
  else match s.tensorAt p (kSrc d), s.tensorAt p (kDst d) with
    | some x, some y =>
      if !collTensorsOk d x y then 0x32
      else if gCount x.group ≤ kRoot d then 0x28
      else match s.notifyStatus p d [] with
        | e + 1 => e + 1
        | 0 =>
          let self := s.memberOf x
          if ((List.range (gCount x.group)).filter (· != self)).all (fun r => s.reachable p (gMember x.group r)) then 0 else 0x36
    | _, _ => 0x30

/-- COLLECTIVE (15 R386, R387): the member joins, and the data begins to move when every member has joined. -/
def execCollective (q : CopyQueue) (s : State) : Host.Outcome State Fault Refusal :=
  .next (match s.queueHead q with
    | none => s
    | some d =>
      if cType d ≠ 4 ∨ !s.mayStart q d then s
      else
        let p := queuePart q
        let hs := [kSrc d, kDst d] ++ (if cAtomic d then [cWordHandle d] else [])
        let t := s.popQueue q
        match t.collStatus q d with
        | e + 1 => t.addCopy q d (e + 1) none [] [] hs none
        | 0 =>
          let since := t.links.colls.foldl (fun (m : W64) e =>
            if e.1 = p ∧ collLineSeq e.2.2.1 = kSeq d ∧ e.2.2.2.toNat < m.toNat then e.2.2.2 else m) t.time.now
          let id := t.nextCopy
          let t := t.addCopy q d 0 none [] [] hs (some { first := since, started := false, sums := [], final := [] })
          match t.member id with
          | none => t
          | some k =>
            let own := collLine d k.x k.y
            let t := ((List.range k.g).filter (· != k.m)).foldl (fun u r => u.sendColl p (gMember k.x.group r) own id) t
            t.collTry id)

/-! ### Completion (R297, R298) -/

/-- Destination clusters of a copy's signal: those of a scratchpad side, else the named one (R297). -/
def State.signalTargets (s : State) (c : CopyJob) : List Nat :=
  let p := c.partition
  match (if cType c.desc ≤ 3 then s.side (s.tensorLive p) p c.desc true else .inr 0) with
  | .inl y => if y.kind = 1 then y.clusters else ((s.partClusters p)[cSigCluster c.desc]?).toList
  | .inr _ => ((s.partClusters p)[cSigCluster c.desc]?).toList

/-- Apply the signal of a completed copy (03 R70). -/
def State.copySignal (s : State) (c : CopyJob) : State :=
  if cSignal c.desc then s.modClusters (s.signalTargets c) (fun x => { x with inbox := x.inbox ++ [cSig c.desc] }) else s

/-- The payload of an atomic add of 1 (15 R381). -/
def addOne : Line := BitVec.ofNat 512 (at_ 32 1)

/-- The atomic of a completed copy: add 1 to the named word here, and send it to the other members that hold it (R297; 09 R274).
A failure gives the status and the PLN. -/
def State.copyAtomic (s : State) (c : CopyJob) : State × Option (Nat × Option Nat) :=
  let p := c.partition
  if !cAtomic c.desc then (s, none)
  else match s.tensorLive p (cWordHandle c.desc) with
    | none => (s, some (0x30, none))
    | some t =>
      let addr := tBase t.desc + cWordByte c.desc
      if tSpace t.desc = 2 then (s.sendFor c.id p (tPeer t.desc) 4 1 addr [addOne], none)
      else
        let far := fun (u : State) => c.members.foldl (fun (v : State) m => v.sendFor c.id p m 4 1 addr [addOne]) u
        if !c.members.isEmpty && c.pieces.isEmpty then (far s, none)
        else match s.translate p addr with
          | none => (s, some (0x30, none))
          | some (i, pln) =>
            if !s.spotWritable p (.dev i pln) then (s, some (0x33, none))
            else match s.readLine (ctlOf pln) pln p with
              | (u, none) => (u, some (0x34, some pln))
              | (u, some l) =>
                let old := lineNat l (addr % 64) 4
                (far (u.writeLine pln (setLine l (addr % 64) 4 ((old + 1) % 2 ^ 32))), none)

/-- A copy's bytes are all written: its signal and its atomics follow, and it ends when these are performed (R297). -/
def State.notifyCopy (s : State) (c : CopyJob) : State :=
  match (s.copySignal c).copyAtomic c with
  | (v, some e) => v.endCopy c e.1 e.2
  | (v, none) =>
    match v.copyAt c.id with
    | some k => if k.waiting.isEmpty then v.endCopy c 0 none else v.modCopy c.id (fun x => { x with stage := 2 })
    | none => v

/-- Lines of host memory that a copy writes. -/
def CopyJob.hostLines (c : CopyJob) : List Nat :=
  c.pieces.flatMap (fun x => x.spots.filterMap (fun y => match y with | .host a => some a | _ => none))

/-- A handle that the copy names has been invalidated (R287). -/
def State.staleHandle (s : State) (c : CopyJob) : Bool := c.handles.any (fun h => (s.tensorLive c.partition h).isNone)

/-- COPY_COMPLETE (09 R263; R287, R297, R298): what the copy still has to write is written, its notify follows, and it ends with its
record. Writes to host memory are followed by a read of the host interface (log 68), and the copy completes with a second command,
when that read has completed; `delivered` says whether it did. A failed copy writes by a free choice (log 37), except that the boxes
before a bad list entry are written (R295). -/
def execCopyComplete (id : Nat) (delivered : Bool) (s : State) : Host.Outcome State Fault Refusal :=
  .next (match s.copyAt id with
    | none => s
    | some c =>
      let p := c.partition
      if c.stage = 2 then (if c.waiting.isEmpty then s.endCopy c c.status c.err else s)
      else if c.stage = 3 then
        if !delivered then (s.journal p 0x08 (toBytes 1 3 ++ toBytes 7 0)).endCopy c 0x35 none
        else if s.staleHandle c then s.endCopy c 0x30 none
        else if c.status ≠ 0 then s.endCopy c c.status c.err
        else s.notifyCopy c
      else if (c.status = 0 ∨ c.status = 0x37) ∧
          ((c.stage = 0 ∧ c.status = 0) ∨ !c.waiting.isEmpty ∨ (c.coll.isSome ∧ !s.collDone c)) then s
      else if c.status ≠ 0 ∧ c.status ≠ 0x37 then (s.applyAny p c.pieces).endCopy c c.status c.err
      else if s.staleHandle c then
        (if (s.side (s.tensorLive p) p c.desc true).isLeft then s.applyAny p c.pieces else s).endCopy c 0x30 none
      else match s.applyPieces p c.pieces with
        | (u, some e) => u.endCopy c e.1 e.2
        | (u, none) =>
          match c.hostLines.getLast? with
          | some a => (u.hostRead (p + 1) a 64).modCopy id (fun x => { x with stage := 3 })
          | none => if c.status ≠ 0 then u.endCopy c c.status c.err else u.notifyCopy c)

/-- COLLECTIVE_JOIN_TIMEOUT (15 R387): a member has not joined within 1 s of the first. -/
def execCollectiveJoinTimeout (id : Nat) (s : State) : Host.Outcome State Fault Refusal :=
  .next (match s.copyAt id with
    | none => s
    | some c =>
      match c.coll with
      | none => s
      | some a =>
        if !a.started ∧ c.status = 0 ∧ a.first.toNat + 1000000000 ≤ s.nowNat then
          let t := { s with links := { s.links with
            colls := s.links.colls.filter (fun e => !(e.1 == c.partition && collLineSeq e.2.2.1 == kSeq c.desc)),
            sent := s.links.sent.filter (fun x => x.copy != some id) } }
          t.endCopy c 0x3F none
        else s)

/-! ### The program copy queue (R290) -/

/-- PROGRAM_COPY_QUEUE_POLL (R290): an entry whose type is not zero is fetched, its type cleared and the head advanced; a line
that cannot be read is a bus error met by a program copy. -/
def execProgramCopyQueuePoll (p : PartId) (s : State) : Host.Outcome State Fault Refusal :=
  .next (match (s.part p.val).copyq with
    | none => s
    | some cfg =>
      let n := fld cfg 7 0
      if (s.part p.val).mode ≠ .ready ∨ !s.copyqOk p.val cfg then s
      else match s.readLine (ctlOf (s.regionLine n 0)) (s.regionLine n 0) p.val with
        | (t, none) => t.programError p.val (s.regionLine n 0)
        | (t, some l) =>
          let head := lineNat l 4 4
          let o := 64 + 64 * (head % copyqEntries cfg)
          match t.readLine (ctlOf (s.regionLine n o)) (s.regionLine n o) p.val with
          | (u, none) => u.programError p.val (s.regionLine n o)
          | (u, some e) =>
            if lineNat e 0 1 = 0 then u
            else
              let u := (u.regionPut n o p.val 1 0).regionPut n 4 p.val 4 ((head + 1) % 2 ^ 32)
              (u.modPart p.val (fun x => { x with progQ := x.progQ ++ [e] })).takeTurn p.val (.program p) e)

end Sys2Proof.Machine
end

