-- ==== Sys2Proof/Machine/Darvy.lean ====
section
/-! DEFINITION. Darvy: the bank engines' micro-instructions, each whole and in program order (06 R171 to R187; R174 keeps
every dependence, log 2). -/

namespace Sys2Proof.Machine

/-! ### Encoding (R171, R172) -/

def dOp (i : W64) : Nat := fld i 5 0
def dD (i : W64) : Nat := fld i 9 6
def dA (i : W64) : Nat := fld i 13 10
def dB (i : W64) : Nat := fld i 17 14
def dC (i : W64) : Nat := fld i 21 18
def dCx (i : W64) : Bool := bitAt i 22
def dE (i : W64) : Nat := fld i 26 23
def dU (i : W64) : Nat := fld i 34 27
def dImm (i : W64) : Nat := fld i 50 35

/-- Sign-extended immediate as a 32-bit number. -/
def dSext (i : W64) : W32 := wrap32 (signed 16 (dImm i))

/-- The fields an opcode uses: d, a, b, c, u, and the mask of its immediate; none for a reserved opcode. -/
def darvyUses (op : Nat) : Option (Bool × Bool × Bool × Bool × Bool × Nat) :=
  match op with
  | 0x00 => some (false, false, false, false, false, 0)
  | 0x01 => some (true, false, false, false, false, 0xFFFF)
  | 0x02 => some (true, false, false, false, false, 0xFFFF)
  | 0x03 => some (true, false, false, true, false, 0x07FF)
  | 0x04 => some (true, true, true, false, false, 0xFFFF)
  | 0x05 => some (true, true, true, false, false, 0xFFFF)
  | 0x06 => some (true, true, false, false, false, 0x001F)
  | 0x07 => some (true, true, false, false, false, 0x001F)
  | 0x08 => some (false, true, false, false, false, 0xFFFF)
  | 0x09 => some (false, true, false, false, false, 0xFFFF)
  | 0x0A => some (false, false, false, false, false, 0xFFFF)
  | 0x0B => some (false, true, false, false, false, 0)
  | 0x0C => some (false, false, false, false, false, 0)
  | 0x0D => some (true, true, true, false, false, 0)
  | 0x0E => some (true, true, false, false, false, 0)
  | 0x10 => some (true, false, false, false, true, 0)
  | 0x11 => some (false, true, false, true, false, 0xFFFF)
  | 0x12 => some (false, true, true, false, false, 0x00FF)
  | 0x13 => some (false, true, false, false, false, 0x0080)
  | 0x14 => some (false, true, false, false, false, 0x00FF)
  | 0x15 => some (false, false, true, false, true, 0x01FF)
  | 0x16 => some (false, true, true, false, true, 0x01FF)
  | 0x17 => some (true, false, true, false, true, 0)
  | 0x18 => some (false, false, true, false, true, 0x00FF)
  | 0x19 => some (false, true, true, false, true, 0x01FF)
  | 0x1A => some (false, true, true, true, true, 0x0001)
  | 0x1C => some (false, true, false, true, true, 0xFFFF)
  | 0x1D => some (false, true, false, true, true, 0xFFFF)
  | 0x1E => some (false, true, false, true, true, 0xFFFF)
  | 0x1F => some (false, true, false, true, false, 0)
  | _ => none

/-- Ranges of the immediate that R172 gives. -/
def darvyImmOk (i : W64) : Bool :=
  let n := dImm i
  match dOp i with
  | 0x03 => decide (bitsOf n 0 6 + bitsOf n 6 5 + 1 ≤ 64)
  | 0x11 => n % 2 == 0 && decide (2 ≤ n) && decide (n ≤ 1024)
  | 0x12 => decide (1 ≤ n % 128) && decide (n % 128 ≤ 64)
  | 0x14 => decide (1 ≤ n % 128) && decide (n % 128 ≤ 64)
  | 0x1C => n % 2 == 0 && decide (2 ≤ n) && decide (n ≤ 512)
  | _ => true

/-- A legal encoding (R171, R186 code 0x01). -/
def darvyLegal (i : W64) : Bool :=
  match darvyUses (dOp i) with
  | none => false
  | some (d, a, b, c, u, mask) =>
    (d || dD i == 0) && (a || dA i == 0) && (b || dB i == 0) && (c || (dC i == 0 && !dCx i)) && (dCx i || dE i == 0) &&
      (u || dU i == 0) && (dImm i &&& mask) == dImm i && fld i 63 51 == 0 && darvyImmOk i

/-! ### Registers and storage -/

/-- x[r]; x0 reads as zero (R162). -/
def Engine.xreg (x : Engine) (r : Nat) : W32 := if r = 0 then 0 else Tab.get (fun _ => 0) x.x r

/-- Write x[r]; x0 ignores writes (R162). -/
def Engine.setX (x : Engine) (r : Nat) (v : W32) : Engine :=
  if r = 0 then x else { x with x := Tab.set (fun _ => 0) x.x r v }

/-- The command register in use; none above 15 (R171). -/
def Engine.cr (x : Engine) (i : W64) : Option Nat :=
  let n := dC i + (if dCx i then (x.xreg (dE i)).toNat else 0)
  if n ≤ 15 then some n else none

/-- Bytes of the local buffer from a unit on. -/
def Engine.bufBytes (x : Engine) (unit n : Nat) : List Byte := Tab.getList (fun _ => 0) x.buf (128 * unit) n

/-- FP32 elements of the local buffer from a unit on. -/
def Engine.bufF32 (x : Engine) (unit n : Nat) : List W32 :=
  (chunks 4 n (x.bufBytes unit (4 * n))).map (fun b => BitVec.ofNat 32 (ofBytes b))

/-- Elements of a second operand: BF16 when the flag is set, else FP32 (LADD, LMUL). -/
def Engine.bufV (x : Engine) (bf : Bool) (unit n : Nat) : List Ex :=
  if bf then (chunks 2 n (x.bufBytes unit (2 * n))).map (fun b => decodeFp .bf16 (ofBytes b))
  else (x.bufF32 unit n).map ex32

/-- Write FP32 elements to the local buffer. -/
def Engine.setF32 (x : Engine) (unit : Nat) (l : List W32) : Engine := x.setBuf unit (l.flatMap (fun w => toBytes 4 w.toNat))

/-- Units that n bytes fill. -/
def bufUnits (bytes : Nat) : Nat := ceilDiv bytes 128

/-- A unit range stays within u0 to u255 (R186 code 0x03). -/
def bufFits (unit bytes : Nat) : Bool := decide (unit + bufUnits bytes ≤ 256)

/-- An entry of the score file. -/
def Engine.scoreAt (x : Engine) (half token query : Nat) : W32 := Tab.get (fun _ => 0) x.score (4096 * half + 32 * token + query)

/-- An entry of the accumulator file: 0 maximum, 1 sum, 2 + d accumulator d. -/
def Engine.accAt (x : Engine) (i k : Nat) : W32 := Tab.get (fun _ => 0) x.acc (130 * i + k)

/-- A half's factor for a query row. -/
def Engine.factorAt (x : Engine) (half i : Nat) : W32 := Tab.get (fun _ => 0x3F800000#32) x.factor (32 * half + i)

/-- Query count n. -/
def Engine.n (x : Engine) : Nat := x.table.length

/-! ### The units' queues (R173) -/

/-- The unit whose queue an opcode enters: 0 stream, 1 exponent, 2 transfer. -/
def unitOf (op : Nat) : Option Nat :=
  if op = 0x0E ∨ op = 0x13 ∨ op = 0x19 then some 1
  else if op = 0x10 ∨ op = 0x12 ∨ (0x14 ≤ op ∧ op ≤ 0x1A) then some 0
  else if 0x1C ≤ op ∧ op ≤ 0x1F then some 2
  else none

/-- Cycles of an instruction from its start (R172). -/
def Engine.cycles (x : Engine) (i : W64) : Nat :=
  let count := (x.xreg (dB i)).toNat
  match dOp i with
  | 0x0E => 4
  | 0x10 => 2
  | 0x12 => ceilDiv x.n 8 * (dImm i % 128)
  | 0x13 => ceilDiv ((Tab.get (fun _ => (0, 0, 0)) x.block (bitsOf (dImm i) 7 1)).1 * x.n) 64 + 4
  | 0x14 => ceilDiv x.n 8 * (dImm i % 128)
  | 0x19 => ceilDiv (count / 2) 16
  | 0x1A => 8
  | 0x1C => dImm i / 2 + 40
  | 0x1D => dImm i / 2 + 40
  | 0x1E => dImm i / 2 + 8
  | 0x1F => 33 * popcount 4 (x.xreg (dA i)).toNat
  | _ => ceilDiv count 32

/-- A unit's queue. -/
def Engine.queue (x : Engine) (u : Nat) : List (Nat × Nat) := Tab.get (fun _ => []) x.units u

/-- Replace a unit's queue. -/
def Engine.setQueue (x : Engine) (u : Nat) (q : List (Nat × Nat)) : Engine := { x with units := Tab.set (fun _ => []) x.units u q }

/-- What is left of a queue after some cycles: its instructions run in order, one at a time. -/
def passQueue : Nat → List (Nat × Nat) → List (Nat × Nat)
  | _, [] => []
  | dt, (c, d) :: q => if dt < c then (c - dt, d) :: q else passQueue (dt - c) q

/-- Counted cycles pass: the slice counter counts them (R183), and the units work (log 71). -/
def Engine.spend (x : Engine) (dt : Nat) : Engine :=
  (List.range 3).foldl (fun (y : Engine) u => y.setQueue u (passQueue dt (y.queue u))) { x with slice := x.slice + dt }

/-- The x registers that an instruction reads. -/
def dReads (i : W64) : List Nat :=
  (match darvyUses (dOp i) with
   | some (_, a, b, _, _, _) => (if a then [dA i] else []) ++ (if b then [dB i] else [])
   | none => []) ++ (if dCx i then [dE i] else []) ++ (if dOp i = 0x02 then [dD i] else [])

/-- Issue stalls: the queue that the instruction is to enter is full, four waiting behind the one that runs, or it reads an x register
that a queued or running instruction has still to write (R173). -/
def Engine.stalls (x : Engine) (i : W64) : Bool :=
  (match unitOf (dOp i) with
   | some u => decide (5 ≤ (x.queue u).length)
   | none => dOp i == 0x11 && decide (5 ≤ x.streams.length)) ||
    (dReads i).any (fun r => r != 0 && (List.range 3).any (fun u => (x.queue u).any (fun q => q.2 == r)))

/-- The instruction enters the queue of its unit; QSET, FRSQ and LSSQ have an x register to write. -/
def Engine.enter (x : Engine) (i : W64) : Engine :=
  match unitOf (dOp i) with
  | some u => x.setQueue u (x.queue u ++ [(x.cycles i, if dOp i = 0x0E ∨ dOp i = 0x10 ∨ dOp i = 0x17 then dD i else 0)])
  | none => x

/-- The last instruction leaves a queue again. -/
def Engine.leave (x : Engine) (u : Nat) : Engine := x.setQueue u (x.queue u).dropLast

/-- Every started and queued instruction has completed. -/
def Engine.drained (x : Engine) : Bool := (List.range 3).all (fun u => (x.queue u).isEmpty)

/-! ### Issue (R173, R186) -/

/-- Code word at a store address. -/
def State.codeWord (s : State) (pc : Nat) : Option W64 :=
  match s.sec.library with
  | some l => l.code[pc]?
  | none => none

/-- Whether the engine can issue: it runs with its permit, no fault, drain or rest stands, no bank of its group has reached
debt 8 (R184) and its slice has not run out (R183). -/
def State.canIssue (s : State) (e : Nat) : Bool :=
  let x := s.engine e
  decide (x.mode = .running) && x.permit && x.failing.isNone && decide (x.drain = .none) && !x.rest && !s.debtFull e &&
    decide (x.slice < 65536)

/-- What a fetch at the engine's program counter gives: the instruction, or a fault code (R186 codes 0x01 and 0x06). -/
def State.fetchAt (s : State) (e : Nat) : W64 ⊕ Nat :=
  let x := s.engine e
  match s.libEntry x.index with
  | none => .inr 6
  | some le =>
    if leEntry le ≤ x.pc ∧ x.pc < leEntry le + leLength le then
      match s.codeWord x.pc with
      | none => .inr 6
      | some i => if darvyLegal i then .inl i else .inr 1
    else .inr 6

/-- An over-current hold on the rail of the engine's stack pair stalls the operations that consume beats, DOT and ACCV (17 R422
step 2). -/
def State.streamHeld (s : State) (e op : Nat) : Bool := (op == 0x12 || op == 0x14) && (s.rail (4 + e / 512)).hold

/-- Issue the instruction at the program counter when its opcode is `op`: dt counted cycles pass (R183); then it acts and enters its
unit's queue, or issue stalls (R173). -/
def State.darvy (s : State) (e op dt : Nat) (f : State → W64 → State) : State :=
  if s.canIssue e then
    match s.fetchAt e with
    | .inl i =>
      if dOp i = op then
        let t := s.modEngine e (fun x => x.spend dt)
        if (t.engine e).stalls i || s.streamHeld e op || decide (65536 ≤ (t.engine e).slice) then t
        else f (t.modEngine e (fun x => x.enter i)) i
      else s
    | .inr _ => s
  else s

/-- The program counter moves by a displacement. -/
def Engine.jump (x : Engine) (d : Int) : Engine := { x with pc := (((x.pc : Int) + d) % 65536).toNat }

/-- An instruction that changes its engine alone: the effect, then the next instruction. -/
def State.darvyEng (s : State) (e op dt : Nat) (f : Engine → W64 → Engine) : State :=
  s.darvy e op dt (fun t i => t.modEngine e (fun x => (f x i).jump 1))

/-- The next instruction of an engine. -/
def State.advance (s : State) (e : Nat) : State := s.modEngine e (fun x => x.jump 1)

/-! ### Control instructions -/

/-- NOP (R172). -/
def execDarvyNop (e : EngineId) (dt : Nat) (s : State) : Host.Outcome State Fault Refusal :=
  .next (s.darvyEng e.val 0x00 dt (fun x _ => x))

/-- MOVI: x[d] ← imm, zero-extended (R172). -/
def execMovi (e : EngineId) (dt : Nat) (s : State) : Host.Outcome State Fault Refusal :=
  .next (s.darvyEng e.val 0x01 dt (fun x i => x.setX (dD i) (BitVec.ofNat 32 (dImm i))))

/-- MOVH: x[d] ← (imm << 16) + x[d][15:0] (R172). -/
def execMovh (e : EngineId) (dt : Nat) (s : State) : Host.Outcome State Fault Refusal :=
  .next (s.darvyEng e.val 0x02 dt (fun x i =>
    x.setX (dD i) (BitVec.ofNat 32 (65536 * dImm i + fld (x.xreg (dD i)) 15 0))))

/-- GETC: a bit field of a command register (R172); a register above 15 is a guard fault (R171). -/
def execGetc (e : EngineId) (dt : Nat) (s : State) : Host.Outcome State Fault Refusal :=
  .next (s.darvy e.val 0x03 dt (fun t i =>
    match (t.engine e.val).cr i with
    | none => t.engineFail e.val 2 none
    | some r => t.modEngine e.val (fun x =>
        (x.setX (dD i) (BitVec.ofNat 32 (bitsOf (x.creg r).toNat (bitsOf (dImm i) 0 6) (bitsOf (dImm i) 6 5 + 1)))).jump 1)))

/-- ADD: x[d] ← x[a] + x[b] + sext(imm) (R172). -/
def execDarvyAdd (e : EngineId) (dt : Nat) (s : State) : Host.Outcome State Fault Refusal :=
  .next (s.darvyEng e.val 0x04 dt (fun x i => x.setX (dD i) (x.xreg (dA i) + x.xreg (dB i) + dSext i)))

/-- SUB: x[d] ← x[a] − x[b] + sext(imm) (R172). -/
def execDarvySub (e : EngineId) (dt : Nat) (s : State) : Host.Outcome State Fault Refusal :=
  .next (s.darvyEng e.val 0x05 dt (fun x i => x.setX (dD i) (x.xreg (dA i) - x.xreg (dB i) + dSext i)))

/-- SHL (R172). -/
def execDarvyShl (e : EngineId) (dt : Nat) (s : State) : Host.Outcome State Fault Refusal :=
  .next (s.darvyEng e.val 0x06 dt (fun x i => x.setX (dD i) (x.xreg (dA i) <<< (dImm i % 32))))

/-- SHR (R172). -/
def execDarvyShr (e : EngineId) (dt : Nat) (s : State) : Host.Outcome State Fault Refusal :=
  .next (s.darvyEng e.val 0x07 dt (fun x i => x.setX (dD i) (x.xreg (dA i) >>> (dImm i % 32))))

/-- LOOP: x[a] ← x[a] − 1; a branch while it is not zero (R172). -/
def execLoop (e : EngineId) (dt : Nat) (s : State) : Host.Outcome State Fault Refusal :=
  .next (s.darvy e.val 0x08 dt (fun t i => t.modEngine e.val (fun x =>
    let y := x.setX (dA i) (x.xreg (dA i) - 1)
    y.jump (if y.xreg (dA i) ≠ 0 then signed 16 (dImm i) else 1))))

/-- BZ (R172). -/
def execBz (e : EngineId) (dt : Nat) (s : State) : Host.Outcome State Fault Refusal :=
  .next (s.darvy e.val 0x09 dt (fun t i => t.modEngine e.val (fun x =>
    x.jump (if x.xreg (dA i) = 0 then signed 16 (dImm i) else 1))))

/-- BR (R172). -/
def execDarvyBr (e : EngineId) (dt : Nat) (s : State) : Host.Outcome State Fault Refusal :=
  .next (s.darvy e.val 0x0A dt (fun t i => t.modEngine e.val (fun x => x.jump (signed 16 (dImm i)))))

/-- FMUL: x[d] ← x[a] × x[b], FP32 (R172). -/
def execDarvyFmul (e : EngineId) (dt : Nat) (s : State) : Host.Outcome State Fault Refusal :=
  .next (s.darvyEng e.val 0x0D dt (fun x i => x.setX (dD i) (fmul (x.xreg (dA i)) (x.xreg (dB i)))))

/-- FRSQ: x[d] ← 1 ÷ √x[a], FP32 (R172). -/
def execFrsq (e : EngineId) (dt : Nat) (s : State) : Host.Outcome State Fault Refusal :=
  .next (s.darvyEng e.val 0x0E dt (fun x i => x.setX (dD i) (rsqrt32 (x.xreg (dA i)))))

/-! ### Slices (R182, R183, R185) -/

/-- A YIELD acts when x[a] is 0, the slice counter has reached x[a], or a SUSPEND or a withdrawal is pending (R182). -/
def State.yieldActs (s : State) (e : Nat) (i : W64) : Bool :=
  let x := s.engine e
  let a := (x.xreg (dA i)).toNat
  decide (a ≤ x.slice) || x.pendSuspend || s.surplus e

/-- YIELD (R182): one that does not act is a NOP; beats left unconsumed at one that acts are a stream fault (R175). -/
def execYield (e : EngineId) (dt : Nat) (s : State) : Host.Outcome State Fault Refusal :=
  .next (s.darvy e.val 0x0B dt (fun t i =>
    if t.yieldActs e.val i then
      if (t.engine e.val).streams.isEmpty then t.modEngine e.val (fun x => { x.jump 1 with drain := .yielding })
      else t.engineFail e.val 4 none
    else t.advance e.val))

/-- The stack's engines rest after each acting YIELD (17 R421). -/
def State.stackRests (s : State) (st : Nat) : Bool := decide ((s.consumer (4 + st)).rest ≠ 0)

/-- YIELD_ACT (R182): dt counted cycles of the drain pass (R183), and once every instruction has completed the drain ends; the group's debt is paid, then a pending SUSPEND or withdrawal is honoured, or the
slice counter starts again, after a rest where the ration asks for one (17 R421). -/
def execYieldAct (e : EngineId) (dt : Nat) (s : State) : Host.Outcome State Fault Refusal :=
  .next (
    let x := s.engine e.val
    if x.mode = .running ∧ x.drain = .yielding ∧ x.failing = none ∧ x.slice < 65536 then
      let u := s.modEngine e.val (fun y => y.spend dt)
      if 65536 ≤ (u.engine e.val).slice ∨ !(u.engine e.val).drained then u
      else
        let t := u.payDebt e.val
        if x.pendSuspend then t.suspendNow e.val
        else if s.surplus e.val then t.withdraw e.val
        else t.modEngine e.val (fun y =>
          { y.endSlice with drain := .none, slice := 0, overCounted := false, rest := s.stackRests (e.val / 256) })
    else s)

/-- ENGINE_REST_END (17 R421): issue goes on after the rest. -/
def execEngineRestEnd (e : EngineId) (s : State) : Host.Outcome State Fault Refusal :=
  .next (if (s.engine e.val).rest then s.modEngine e.val (fun x => { x with rest := false }) else s)

/-- END (R165): the run drains; beats left unconsumed are a stream fault (R175). -/
def execEnd_ (e : EngineId) (dt : Nat) (s : State) : Host.Outcome State Fault Refusal :=
  .next (s.darvy e.val 0x0C dt (fun t _ =>
    if (t.engine e.val).streams.isEmpty then t.modEngine e.val (fun x => { x.jump 1 with drain := .ending })
    else t.engineFail e.val 4 none))

/-- RUN_END (R165): dt counted cycles of the drain pass (R183), and once every instruction has completed the permit is released, the status packet with the START's tag returned, the group's debt paid; a level 0 that waited for the run applies (01 R25). -/
def execRunEnd (e : EngineId) (dt : Nat) (s : State) : Host.Outcome State Fault Refusal :=
  .next (
    let x := s.engine e.val
    if x.mode = .running ∧ x.drain = .ending ∧ x.failing = none ∧ x.slice < 65536 then
      let u := s.modEngine e.val (fun y => y.spend dt)
      if 65536 ≤ (u.engine e.val).slice ∨ !(u.engine e.val).drained then u
      else (((u.modEngine e.val Engine.toIdle).answerPacket (e.val / 256) x.src x.tag 0 []).payDebt e.val).levelOff (e.val / 256)
    else s)

/-- SLICE_OVERRUN (R183): a slice past 1,200 cycles counts once. -/
def execSliceOverrun (e : EngineId) (s : State) : Host.Outcome State Fault Refusal :=
  .next (
    let x := s.engine e.val
    if x.mode = .running ∧ 1200 < x.slice ∧ !x.overCounted then
      s.modEngine e.val (fun y => { y with overruns := satAdd 65535 y.overruns 1, overCounted := true })
    else s)

/-- SLICE_TIMEOUT (R183): a slice of 65,536 counted cycles is fault 0x08. -/
def execSliceTimeout (e : EngineId) (s : State) : Host.Outcome State Fault Refusal :=
  .next (
    let x := s.engine e.val
    if x.mode = .running ∧ 65536 ≤ x.slice ∧ x.failing = none then s.engineFail e.val 8 none else s)

/-! ### Line accesses (R169) -/

/-- The line at an offset of an address register's range that the guard lets the engine reach. -/
def State.guard (s : State) (e r off : Nat) (write near : Bool) : Option Nat :=
  let x := s.engine e
  match s.libEntry x.index with
  | none => none
  | some le =>
    let w := x.creg r
    let pln := 2 ^ 30 * (e / 256) + fld w 29 0 + off
    if leAddr le r && decide (off < awLines w) && decide (fld w 29 0 + off < 2 ^ 30) && (!write || leWrite le r) &&
        (!near || pln / 2 ^ 22 == e) && s.computeLine x.src false pln then some pln
    else none

/-- The line that an access refused by the guard names; none through a register that is no address (R169, R187). -/
def State.refusedLine (s : State) (e r off : Nat) : Option Nat :=
  let x := s.engine e
  match s.libEntry x.index with
  | none => none
  | some le => if leAddr le r then some (2 ^ 30 * (e / 256) + (fld (x.creg r) 29 0 + off) % 2 ^ 30) else none

/-- Read n lines of a register's range from an offset: the bytes, or a fault with its line. -/
def State.fetchLines (s : State) (e r off : Nat) (near : Bool) : Nat → State × (List Byte ⊕ (Nat × Option Nat))
  | 0 => (s, .inl [])
  | n + 1 =>
    match s.guard e r off false near with
    | none => (s, .inr (2, s.refusedLine e r off))
    | some pln =>
      match s.readLine (sequencerOf pln) pln (s.engine e).src.part with
      | (t, none) => (t, .inr (5, some pln))
      | (t, some l) =>
        match t.fetchLines e r (off + 1) near n with
        | (u, .inl bs) => (u, .inl (lineBytes l ++ bs))
        | (u, .inr f) => (u, .inr f)

/-- Write lines to a register's range from an offset: done, or a guard fault with its line; lines before a refused one stay written. -/
def State.storeLines (s : State) (e r off : Nat) (near : Bool) : List (List Byte) → State × Option (Nat × Option Nat)
  | [] => (s, none)
  | l :: rest =>
    match s.guard e r off true near with
    | none => (s, some (2, s.refusedLine e r off))
    | some pln => (s.writeLine pln (lineOf l)).storeLines e r (off + 1) near rest

/-- SCAN (R172, R175): queues a stream of lines. -/
def execScan (e : EngineId) (dt : Nat) (s : State) : Host.Outcome State Fault Refusal :=
  .next (s.darvy e.val 0x11 dt (fun t i =>
    match (t.engine e.val).cr i with
    | none => t.engineFail e.val 2 none
    | some r => t.modEngine e.val (fun x =>
        { x.jump 1 with
          streams := x.streams ++ [{ reg := r, line := (x.xreg (dA i)).toNat, left := dImm i }] })))

/-- Take beats of 128 bytes from the streams in order (R175): no stream left is a stream fault. -/
def State.beats (s : State) (e : Nat) : Nat → State × (List (List Byte) ⊕ (Nat × Option Nat))
  | 0 => (s, .inl [])
  | n + 1 =>
    match (s.engine e).streams with
    | [] => (s, .inr (4, none))
    | q :: qs =>
      match s.fetchLines e q.reg q.line true 2 with
      | (t, .inr f) => (t, .inr f)
      | (t, .inl bs) =>
        let rest := if q.left ≤ 2 then qs else { q with line := q.line + 2, left := q.left - 2 } :: qs
        match (t.modEngine e (fun x => { x with streams := rest })).beats e n with
        | (u, .inl l) => (u, .inl (bs :: l))
        | (u, .inr f) => (u, .inr f)

/-- FETCH (R172, R176): far lines into the local buffer. -/
def execFetch (e : EngineId) (dt : Nat) (s : State) : Host.Outcome State Fault Refusal :=
  .next (s.darvy e.val 0x1C dt (fun t i =>
    let x := t.engine e.val
    if !bufFits (dU i) (64 * dImm i) then t.engineFail e.val 3 none
    else match x.cr i with
      | none => t.engineFail e.val 2 none
      | some r =>
        match t.fetchLines e.val r (x.xreg (dA i)).toNat false (dImm i) with
        | (u, .inl bs) => u.modEngine e.val (fun y => (y.setBuf (dU i) bs).jump 1)
        | (u, .inr f) => u.engineFail e.val f.1 f.2))

/-- STL and WRL: buffer lines to a register's range (R172). -/
def State.storeFrom (s : State) (e op dt : Nat) (near : Bool) : State :=
  s.darvy e op dt (fun t i =>
    let x := t.engine e
    if !bufFits (dU i) (64 * dImm i) then t.engineFail e 3 none
    else match x.cr i with
      | none => t.engineFail e 2 none
      | some r =>
        match t.storeLines e r (x.xreg (dA i)).toNat near (chunks 64 (dImm i) (x.bufBytes (dU i) (64 * dImm i))) with
        | (u, none) => u.advance e
        | (u, some f) => u.engineFail e f.1 f.2)

/-- STL (R172, R176). -/
def execStl (e : EngineId) (dt : Nat) (s : State) : Host.Outcome State Fault Refusal :=
  .next (s.storeFrom e.val 0x1D dt false)

/-- WRL (R172). -/
def execWrl (e : EngineId) (dt : Nat) (s : State) : Host.Outcome State Fault Refusal :=
  .next (s.storeFrom e.val 0x1E dt true)

/-- APPEND (R172; 07 R195): 128 FP32 times x[b], narrowed to E4M3, into token slot x[a] of the K half or the V half. -/
def execAppend (e : EngineId) (dt : Nat) (s : State) : Host.Outcome State Fault Refusal :=
  .next (s.darvy e.val 0x1A dt (fun t i =>
    let x := t.engine e.val
    if !bufFits (dU i) 512 then t.engineFail e.val 3 none
    else match x.cr i with
      | none => t.engineFail e.val 2 none
      | some r =>
        let m := ex32 (x.xreg (dB i))
        let bs : List Byte := (x.bufF32 (dU i) 128).map (fun w => BitVec.ofNat 8 (narrow .e4m3 (mulEx (ex32 w) m)))
        match t.storeLines e.val r ((if dImm i = 0 then 0 else 512) + 2 * (x.xreg (dA i)).toNat) true (chunks 64 2 bs) with
        | (u, none) => u.advance e.val
        | (u, some f) => u.engineFail e.val f.1 f.2))

/-! ### Attention (R177 to R180) -/

/-- Position, partial and row of a query table entry. -/
def qPos (w : W32) : Nat := fld w 19 0
def qPartial (w : W32) : Nat := fld w 21 20
def qRow (w : W32) : Nat := fld w 24 22

/-- The valid entries of a query table when it passes R177. -/
def queryTable (ws : List W32) : Option (List W32) :=
  let n := (ws.takeWhile (fun w => bitAt w 31)).length
  let l := ws.take n
  if 1 ≤ n ∧ (ws.drop n).all (fun w => !bitAt w 31) ∧ l.all (fun w => fld w 30 25 == 0) ∧
      (l.map (fun w => fld w 24 20)).Nodup then some l
  else none

/-- The accumulator file as QSET leaves it: maxima −∞, sums and accumulators 0 (R177). -/
def accReset : Tab W32 := (List.range 32).map (fun i => (130 * i, 0xFF800000#32))

/-- QSET (R177). -/
def execQset (e : EngineId) (dt : Nat) (s : State) : Host.Outcome State Fault Refusal :=
  .next (s.darvy e.val 0x10 dt (fun t i =>
    match queryTable ((t.engine e.val).bufF32 (dU i) 32) with
    | none => t.engineFail e.val 3 none
    | some l =>
      if 256 < dU i + 1 + l.length then t.engineFail e.val 3 none
      else t.modEngine e.val (fun x =>
        ({ x with table := l, tableUnit := dU i, acc := accReset, factor := [] }.setX (dD i)
          (BitVec.ofNat 32 l.length)).jump 1)))

/-- E4M3 values of a 128-byte beat or query vector. -/
def e4m3s (bs : List Byte) : List Ex := bs.map (fun b => decodeFp .e4m3 b.toNat)

/-- Score of a query against a token: the exact sum of 128 products, rounded once (R178). -/
def score (q k : List Ex) : W32 := round32 (sumEx (List.zipWith mulEx q k))

/-- Half, beats of an immediate. -/
def dHalf (i : W64) : Nat := bitsOf (dImm i) 7 1
def dBeats (i : W64) : Nat := bitsOf (dImm i) 0 7

/-- Write one row of scores or probabilities of a token. -/
def Engine.setScores (x : Engine) (half token : Nat) (l : List W32) : Engine :=
  { x with score := Tab.setList (fun _ => 0) x.score (4096 * half + 32 * token) l }

/-- DOT (R178): scores of the half for each beat's token. -/
def execDot (e : EngineId) (dt : Nat) (s : State) : Host.Outcome State Fault Refusal :=
  .next (s.darvy e.val 0x12 dt (fun t i =>
    let x := t.engine e.val
    let qs := (List.range x.n).map (fun k => e4m3s (x.bufBytes (x.tableUnit + 1 + k) 128))
    match t.beats e.val (dBeats i) with
    | (u, .inr f) => u.engineFail e.val f.1 f.2
    | (u, .inl ks) => u.modEngine e.val (fun y =>
        let y := ks.zipIdx.foldl (fun z k => z.setScores (dHalf i) k.2 (qs.map (fun q => score q (e4m3s k.1)))) y
        { y.jump 1 with
          block := Tab.set (fun _ => (0, 0, 0)) y.block (dHalf i) (dBeats i, x.xreg (dA i), x.xreg (dB i)) })))

/-- What EXPM makes of one query row: maximum, sum, factor and the probabilities of its tokens (R178). -/
def expmRow (m l mult : W32) (pos : Nat) (first last : W32) (scores : List W32) : W32 × W32 × W32 × List W32 :=
  let z := scores.zipIdx.map (fun c =>
    let at' := first.toNat + c.2
    if last.toNat ≤ at' ∨ pos < at' then 0xFF800000#32 else fmul c.1 mult)
  let mn := z.foldl fmaxN m
  let f : W32 := if mn = 0xFF800000#32 then 0x3F800000#32 else exp2_32 (fsub m mn)
  let p : List W32 :=
    if mn = 0xFF800000#32 then z.map (fun _ => 0)
    else z.map (fun v => round32 (decodeFp .e4m3 (narrow .e4m3 (ex32 (exp2_32 (fsub v mn))))))
  (mn, round32 (sumEx (ex32 (fmul l f) :: p.map ex32)), f, p)

/-- EXPM on one engine (R178). -/
def Engine.expm (x : Engine) (half : Nat) (mult : W32) : Engine :=
  let b := Tab.get (fun _ => (0, 0, 0)) x.block half
  let y := x.table.zipIdx.foldl (fun y q =>
    let r := expmRow (x.accAt q.2 0) (x.accAt q.2 1) mult (qPos q.1) b.2.1 b.2.2
      ((List.range b.1).map (fun j => x.scoreAt half j q.2))
    { y with
      acc := Tab.setList (fun _ => 0) y.acc (130 * q.2) [r.1, r.2.1],
      factor := Tab.set (fun _ => 0x3F800000#32) y.factor (32 * half + q.2) r.2.2.1,
      score := r.2.2.2.zipIdx.foldl (fun sc v => Tab.set (fun _ => 0) sc (4096 * half + 32 * v.2 + q.2) v.1) y.score }) x
  { y with fresh := setFld y.fresh half half 1 }

/-- EXPM (R178). -/
def execExpm (e : EngineId) (dt : Nat) (s : State) : Host.Outcome State Fault Refusal :=
  .next (s.darvyEng e.val 0x13 dt (fun x i => x.expm (dHalf i) (x.xreg (dA i))))

/-- ACCV on one engine: acc ← round(round(acc × f) + round(x × S)), S the exact sum over the beats; the half's factors
return to 1 (R179). -/
def Engine.accv (x : Engine) (half : Nat) (mult : W32) (vs : List (List Ex)) : Engine :=
  let y := (List.range x.n).foldl (fun y i =>
    let ps := (List.range vs.length).map (fun j => ex32 (x.scoreAt half j i))
    let f := x.factorAt half i
    let row := (List.range 128).map (fun d =>
      let sum := sumEx (List.zipWith (fun p v => mulEx p (v.getD d Ex.zero)) ps vs)
      fadd (fmul (x.accAt i (2 + d)) f) (round32 (mulEx (ex32 mult) sum)))
    { y with acc := Tab.setList (fun _ => 0) y.acc (130 * i + 2) row,
             factor := Tab.set (fun _ => 0x3F800000#32) y.factor (32 * half + i) 0x3F800000#32 }) x
  { y with fresh := setFld y.fresh half half 0 }

/-- ACCV (R179). -/
def execAccv (e : EngineId) (dt : Nat) (s : State) : Host.Outcome State Fault Refusal :=
  .next (s.darvy e.val 0x14 dt (fun t i =>
    match t.beats e.val (dBeats i) with
    | (u, .inr f) => u.engineFail e.val f.1 f.2
    | (u, .inl vs) => u.modEngine e.val (fun x => (x.accv (dHalf i) (x.xreg (dA i)) (vs.map e4m3s)).jump 1)))

/-- A row that no query names (R180). -/
def emptyRow : List W32 := 0xFF800000#32 :: List.replicate 129 0

/-- Partial p of an engine: 8 rows of maximum, sum and 128 accumulators (R180). -/
def Engine.partialRows (x : Engine) (p : Nat) : List (List W32) :=
  (List.range 8).map (fun r =>
    match x.table.findIdx? (fun w => qPartial w == p && qRow w == r) with
    | some i => (List.range 130).map (fun k => x.accAt i k)
    | none => emptyRow)

/-- What the merge unit does with one partial. -/
inductive Taken where
  | taken (s : State)
  | stalls
  | fault (s : State)

/-- A partial goes to a slot (05 R157, R158, R161; R186 code 0x07). For a slot that is not open R157 lets the engine stall
and R186 raises a merge fault: a free choice (log 24). -/
def State.emitOne (s : State) (e p n : Nat) : Taken :=
  let st := e / 256
  let x := s.engine e
  if !s.holdsSlot x.src st n then .fault s
  else match s.slot st n with
    | none => if bitAt s.freeVal 0 then .fault s.useFree else .stalls
    | some k =>
      if k.folded + k.arrived.length < k.expected then
        .taken (s.setSlot st n (some { k with arrived := k.arrived ++ [(e, x.partialRows p)] }))
      else
        -- one partial too many: a sequencer refusal, whose code is free (log 3), to the source of the slot, which closes without delivery
        .fault (((s.setSlot st n none).useFree).answerPacket st k.src k.tag (1 + s.freeVal.toNat % 255) [])

/-- Send the partials named, in ascending order. -/
def State.emitAllOf (s : State) (e : Nat) (w : W64) : List Nat → Taken
  | [] => .taken s
  | p :: ps =>
    match s.emitOne e p (fld w (9 * p + 8) (9 * p)) with
    | .taken t => t.emitAllOf e w ps
    | r => r

/-- EMIT (R180): a half whose EXPM result no ACCV has consumed is a stream fault; an engine that stalls waits. -/
def execEmit (e : EngineId) (dt : Nat) (s : State) : Host.Outcome State Fault Refusal :=
  .next (s.darvy e.val 0x1F dt (fun t i =>
    let x := t.engine e.val
    if x.fresh ≠ 0 then t.engineFail e.val 4 none
    else match x.cr i with
      | none => t.engineFail e.val 2 none
      | some r =>
        match t.emitAllOf e.val (x.creg r) (setBits 4 (x.xreg (dA i)).toNat) with
        | .taken u => u.advance e.val
        | .stalls => (t.modEngine e.val (fun y => y.leave 2)).useFree
        | .fault u => u.engineFail e.val 7 none))

/-! ### Lane operations (R181) -/

/-- Elements of x[b]. -/
def Engine.count (x : Engine) (i : W64) : Nat := (x.xreg (dB i)).toNat

/-- Second unit and format flag of an immediate. -/
def dV (i : W64) : Nat := dImm i % 256
def dFlag (i : W64) : Bool := bitAt (BitVec.ofNat 16 (dImm i)) 8

/-- An element operation on the buffer at u with the second operand at v: a unit range beyond u255 is a buffer fault. -/
def State.laneOp (s : State) (e op dt : Nat) (vBytes : Engine → W64 → Nat) (f : Engine → W64 → Engine) : State :=
  s.darvy e op dt (fun t i =>
    let x := t.engine e
    if bufFits (dU i) (4 * x.count i) && bufFits (dV i) (vBytes x i) then t.modEngine e (fun y => (f y i).jump 1)
    else t.engineFail e 3 none)

/-- Bytes of the second operand of LADD and LMUL. -/
def laneV (x : Engine) (i : W64) : Nat := (if dFlag i then 2 else 4) * x.count i

/-- LADD (R172, R181). -/
def execLadd (e : EngineId) (dt : Nat) (s : State) : Host.Outcome State Fault Refusal :=
  .next (s.laneOp e.val 0x15 dt laneV (fun x i =>
    x.setF32 (dU i) (List.zipWith (fun a b => round32 (addEx (ex32 a) b)) (x.bufF32 (dU i) (x.count i))
      (x.bufV (dFlag i) (dV i) (x.count i)))))

/-- LMUL (R172, R181): u × v × x[a], rounded once. -/
def execLmul (e : EngineId) (dt : Nat) (s : State) : Host.Outcome State Fault Refusal :=
  .next (s.laneOp e.val 0x16 dt laneV (fun x i =>
    x.setF32 (dU i) (List.zipWith (fun a b => round32 (mulEx (mulEx (ex32 a) b) (ex32 (x.xreg (dA i)))))
      (x.bufF32 (dU i) (x.count i)) (x.bufV (dFlag i) (dV i) (x.count i)))))

/-- LSSQ (R172, R181): squares added in ascending order, each addition rounded. -/
def execLssq (e : EngineId) (dt : Nat) (s : State) : Host.Outcome State Fault Refusal :=
  .next (s.laneOp e.val 0x17 dt (fun _ _ => 0) (fun x i =>
    x.setX (dD i) ((x.bufF32 (dU i) (x.count i)).foldl (fun a b => round32 (addEx (ex32 a) (mulEx (ex32 b) (ex32 b)))) 0)))

/-- LCVT (R172, R181): FP32 at u narrowed to BF16, packed at v. -/
def execLcvt (e : EngineId) (dt : Nat) (s : State) : Host.Outcome State Fault Refusal :=
  .next (s.laneOp e.val 0x18 dt (fun x i => 2 * x.count i) (fun x i =>
    x.setBuf (dV i) ((x.bufF32 (dU i) (x.count i)).flatMap (fun w => toBytes 2 (narrow .bf16 (ex32 w))))))

/-- The rotated elements of ROPE (R172, R181): the angle is the position times the inverse frequency, rounded once; each
output is the exact sum of two exact products, rounded once. -/
def ropeOut (els freqs : List W32) (pos : W32) (split : Bool) : List W32 :=
  let n := els.length
  let h := n / 2
  (List.range n).map (fun k =>
    let pair := if split then k % h else k / 2
    let firstOf := if split then k < h else k % 2 = 0
    let a := ex32 (els.getD (if split then pair else 2 * pair) 0)
    let b := ex32 (els.getD (if split then pair + h else 2 * pair + 1) 0)
    let ang := round32 (mulEx (Ex.ofInt pos.toNat) (ex32 (freqs.getD pair 0)))
    let c := ex32 (cos32 ang)
    let d := ex32 (sin32 ang)
    if 2 * h ≤ k then els.getD k 0
    else if firstOf then round32 (addEx (mulEx a c) (mulEx b d).neg)
    else round32 (addEx (mulEx a d) (mulEx b c)))

/-- ROPE (R172, R181). -/
def execRope (e : EngineId) (dt : Nat) (s : State) : Host.Outcome State Fault Refusal :=
  .next (s.laneOp e.val 0x19 dt (fun x i => 4 * (x.count i / 2)) (fun x i =>
    x.setF32 (dU i) (ropeOut (x.bufF32 (dU i) (x.count i)) (x.bufF32 (dV i) (x.count i / 2)) (x.xreg (dA i)) (dFlag i))))

/-! ### Faults (R186, R187) -/

/-- The fault that stands against an engine: one found, or that of its next fetch. -/
def State.standingFault (s : State) (e : Nat) : Option (Nat × Option Nat) :=
  match (s.engine e).failing with
  | some f => some f
  | none =>
    if s.canIssue e then
      match s.fetchAt e with
      | .inr code => some (code, none)
      | .inl _ => none
    else none

/-- The ledger entry of a partition whose parcel holds a line. -/
def State.parcelAt (s : State) (p pln : Nat) : Option Nat :=
  ((s.round p).ledger.find? (fun q => q.2.state.resident && decide (q.2.pln ≤ pln) && decide (pln < q.2.pln + 1024))).map (·.1)

/-- BANK_ENGINE_FAULT (R187): the permit is released, the engine takes state 4 and its debt is paid while it is idle (R185);
a status packet goes to the START's source and firmware hears of it. A failed seal in a parcel is a cause of abandonment
(14 R356); any other fault of a partition's run is one of its jobs' (13 R345). -/
def execBankEngineFault (e : EngineId) (s : State) : Host.Outcome State Fault Refusal :=
  .next (match s.standingFault e.val with
    | none => s
    | some (code, line) =>
      let x := s.engine e.val
      let t := (s.unqueue e.val).modEngine e.val (fun y => { y.toIdle with mode := .faulted, fault := code })
      let t := ((t.payDebt e.val).answerPacket (e.val / 256) x.src x.tag code
        [BitVec.ofNat 64 x.pc, BitVec.ofNat 64 (line.getD 0)]).levelOff (e.val / 256)
      match code, line, x.src with
      | 5, some pln, .partition p =>
        match t.parcelAt p.val pln with
        | some i => t.addCause p.val (.failedSeal i)
        | none => t.modPart p.val (fun y => { y with faultDue := true })
      | _, _, .partition p => t.modPart p.val (fun y => { y with faultDue := true })
      | _, _, .firmware => t)

end Sys2Proof.Machine
end

