-- ==== Sys2Proof/Machine/LossOps.lean ====
section
/-! DEFINITION. What the end of a partition and a module-wide loss share (02 R43; 13 R346 to R350; 16 R408; 20 R467). -/

namespace Sys2Proof.Machine

/-! ### Zeroing (02 R43) -/

/-- The 5 MiB window of a share reads as zero. -/
def State.zeroShareWindow (s : State) (sh : Nat) : State :=
  let lo := 5242880 * (sh % 12)
  s.modQuarter (sh / 12) (fun x => { x with qbuf := Tab.keep (fun k => decide (k < lo) || decide (lo + 5242880 ≤ k)) x.qbuf })

/-- The scratchpads of a list of clusters read as zero. -/
def State.zeroScratch (s : State) (cs : List Nat) : State :=
  s.modClusters cs (fun x => { x with arch := { x.arch with sp := [] } })

/-- The windows and the scratchpads of a list of shares read as zero. -/
def State.zeroShares (s : State) (shares : List Nat) : State :=
  shares.foldl (fun t sh => (t.zeroShareWindow sh).zeroScratch (t.shareClusters sh)) s

/-- Quarters in which two masks of shares differ. -/
def changedQuarters (a b : BitVec 48) : List Nat := (List.range 4).filter (fun q => sharesIn a q != sharesIn b q)

/-- What a SETUP or RECONFIGURE zeroes: the whole window in each quarter where the shares changed, and the scratchpads of the
shares gained (R43). -/
def State.zeroChanged (s : State) (old new : BitVec 48) : State :=
  let t := ((changedQuarters old new).flatMap (sharesIn new)).foldl State.zeroShareWindow s
  ((setBits 48 new.toNat).filter (fun sh => !bitAt old sh)).foldl (fun u sh => u.zeroScratch (u.shareClusters sh)) t

/-! ### Regions and copies of a partition -/

/-- Entries that partition p owns. -/
def State.ownedRegions (s : State) (p : Nat) : List Nat :=
  s.memory.regions.filterMap (fun e => if e.2.valid && e.2.owner == p then some e.1 else none)

/-- A region is released at once: nothing reads it, its lines are blank, its entry is free (05 R144). -/
def State.dropRegion (s : State) (n : Nat) : State :=
  ((s.leaveRegion n).blankRegion (s.region n)).modRegion n (fun _ => Region.reset)

/-- Partition p leaves the share_mask of every region that another partition owns (13 R338; 16 R406). -/
def State.leaveShares (s : State) (p : Nat) : State :=
  s.memory.regions.foldl (fun t e =>
    if e.2.valid && e.2.owner != p && e.2.shareMask.testBit p then
      (t.invalidate e.2 p).modRegion e.1 (fun r => { r with w0 := setFld r.w0 (16 + p) (16 + p) 0 })
    else t) s

/-- Every line of the channel groups of partition p is blanked (13 R338; 16 R406). -/
def State.blankGroups (s : State) (p : Nat) : State :=
  let g := (s.part p).applied.groups
  s.blankWhere (fun pln => bitAt g (8 * plnStack pln + plnChannel pln / 4))

/-- Every descriptor of partition p is invalid: its entry is free and its generation adds 1 (10 R285, R287). -/
def State.dropTensors (s : State) (p : Nat) : State :=
  s.modPart p (fun x => { x with tensors := Tab.mapVals (fun _ => TensorEntry.reset) (fun (e : TensorEntry) =>
    if e.tensor.isSome then { generation := (e.generation + 1) % 4096, tensor := none } else e) x.tensors })

/-- The copies of partition p stop where they stand: which of their lines were written is a free choice (10 R298; 13 R347). -/
def State.stopCopies (s : State) (p : Nat) : State :=
  let mine := s.copies.filter (fun c => c.partition == p)
  let t := mine.foldl (fun u c => u.applyAny p c.pieces) s
  { t with copies := t.copies.filter (fun c => c.partition != p),
           links := { t.links with sent := t.links.sent.filter (fun x => x.partition != p || x.copy.isNone),
                                   colls := t.links.colls.filter (fun x => x.1 != p) } }

/-- The copies of partition p end with a status (16 R412). -/
def State.failCopies (s : State) (p status : Nat) : State :=
  let mine := s.copies.filter (fun c => c.partition == p)
  (mine.foldl (fun u c => (u.applyAny p c.pieces).endCopy c status none) s).stopCopies p

/-- Nothing of the partition moves any more: its clusters hold nothing in progress and its copies have ended. -/
def State.quiet (s : State) (p : Nat) : Bool :=
  (s.partClusters p).all (fun c => (s.cluster c).running.isEmpty && (s.cluster c).load.isNone) &&
    s.copies.all (fun c => c.partition != p) &&
    !(s.memory.ctl.busy && (s.ownedRegions p).contains s.memory.ctl.index.toNat)

/-! ### The end of a partition (R338, R346; 16 R408) -/

/-- Live jobs end with 0x43 and live requests with 0x19; the round is empty (R338). -/
def State.endWork (s : State) (p : Nat) : State :=
  let t := s.stopPartition p
  let t := (t.liveJobs p).foldl (fun u j => u.endJob p j.num 0x43 0 0 0) t
  (t.endRequests p 0x19).emptyRound p

/-- The TDI of a partition leaves CONFIG_LOCKED and RUN for ERROR (16 R407). -/
def State.tdiFails (s : State) (p : Nat) : State :=
  s.modPart p (fun x => { x with tdi := if x.tdi = .locked ∨ x.tdi = .running then .error else x.tdi })

/-- The journal and the replay of a partition stop (19 R455, R461; log 82). -/
def State.stopJournal (s : State) (p : Nat) : State :=
  s.modPart p (fun x =>
    let j := x.journal
    { x with journal :=
        if j.replay = 1 then
          { j with recording := false, replay := 3, reason := 1, stepAt := if j.mismatched then j.stepAt else x.round.step }
        else { j with recording := false } })

/-- The keys of a partition are destroyed: memory encryption and poste restante (16 R393). -/
def State.destroyKeys (s : State) (p : Nat) : State :=
  let t := s.modRound p (fun r => { r with pr := { r.pr with keyMade := false, used := [] } })
  { t with sec := { t.sec with memKeys := setFld t.sec.memKeys p p 0 } }

/-- The security core makes a memory encryption pair for a partition (16 R393; log 7): no number is used twice. -/
def State.newPair (s : State) (p : Nat) : State :=
  { s.useFree with sec := { s.sec with memKeys := setFld s.sec.memKeys p p 1, memPair := Tab.set (fun _ => 0) s.sec.memPair p s.free } }

/-- The security core makes a poste restante key for a partition, and its spill counter starts at 0 (07 R218; 16 R393; log 7). -/
def State.newPoste (s : State) (p : Nat) : State :=
  s.useFree.modRound p (fun r => { r with pr := { keyMade := true, key := s.free, counter := 0, used := [] } })

/-- RELEASE begins (R338): the state is releasing, the work ends, every region is refused, the keys are destroyed. -/
def State.beginRelease (s : State) (p : Nat) : State :=
  let t := s.endWork p
  let t := t.journal p 0x0C (toBytes 1 2 ++ toBytes 7 0)
  let t := ((t.stopJournal p).tdiFails p).modPart p (fun x => { x with mode := .releasing })
  let t := (t.ownedRegions p).foldl (fun u n => if (u.region n).st = 2 then (u.leaveRegion n).setRegionState n 3 else u) t
  ((t.leaveShares p).dropTensors p).destroyKeys p

/-- The slot is empty: what it held is free (R338). Descriptors that wait on its rings stay there, and the cause and the count of
job faults stand until the next SETUP (R335). -/
def State.emptyPart (s : State) (p : Nat) : State :=
  s.modPart p (fun x =>
    { Part.reset with
      cause := x.cause, jobFaults := x.jobFaults, jobs := x.jobs.filter (fun j => !j.live), nextJob := x.nextJob,
      tensors := x.tensors, tdi := x.tdi, journal := { x.journal with recording := false } })

/-- RELEASE and a termination end (R338; 16 R408): the regions are released and, for a confidential partition, its groups are
blanked and its windows and scratchpads zeroed. -/
def State.finishRelease (s : State) (p : Nat) : State :=
  let secret := (s.part p).applied.confidential
  let t := ((s.ownedRegions p).foldl State.dropRegion s).leaveShares p
  let t := if secret then (t.blankGroups p).zeroShares (t.sharesOf p) else t
  (t.dropTensors p).emptyPart p

/-- A confidential partition is terminated (16 R408, R412): keys, then jobs and requests, then regions; its copies end with
0x35. Its record and its empty state come with TERMINATION_COMPLETE. -/
def State.terminate (s : State) (p cause : Nat) : State :=
  if !s.confidential p || s.sec.terminating.any (fun e => e.1 == p) then s
  else
    let t := s.destroyKeys p
    let t := ((t.endWork p).failCopies p 0x35).stopJournal p
    let t := (t.tdiFails p).modPart p (fun x => { x with mode := .releasing, digests := [], digestList := [] })
    let t := (t.ownedRegions p).foldl (fun u n => if (u.region n).st = 2 then (u.leaveRegion n).setRegionState n 3 else u) t
    let t := t.dropTensors p
    { t with sec := { t.sec with terminating := t.sec.terminating ++ [(p, cause)] } }

/-! ### Module-wide loss (R347, R348) -/

/-- Every ring of a virtual function is disabled without draining (R347; 18 R443). -/
def State.cutRings (s : State) (fn : Nat) : State :=
  s.modFn fn (fun x =>
    { x with enable := 0, pollOut := false,
             rings := Tab.mapVals (fun _ => Ring.reset) (fun (k : Ring) =>
               { k with
                 draining := false, reserved := 0, fetching := 0, fetched := [], batch := none, backlog := [],
                 stale := if k.fetching = 0 then k.stale else k.stale ++ [k.fetching] }) x.rings })

/-- A partition loses its work without a record: jobs, requests, the round, descriptors and open digest streams (R347, R348;
18 R443). -/
def State.loseWork (s : State) (p : Nat) : State :=
  let t := s.modClusters (s.partClusters p) (fun x => if x.job.isSome then x.release else x)
  let t := (t.abortRuns p).stopCopies p
  let t := (t.emptyRound p).modRound p (fun r => { r with pr := { r.pr with used := [] } })
  (t.stopJournal p).modPart p (fun x =>
    { x with jobs := [], turn := [], progQ := [], turns := [], copyq := none, faultDue := false, sliceDue := false, digests := [] })

/-- What a partition that is not empty keeps of a module-wide loss, and its state lost with the cause (R348). -/
def State.losePart (s : State) (p cause : Nat) : State :=
  if !s.holds p then s
  else
    let t := ((s.loseWork p).dropTensors p).blankFw p
    let t := t.modPart p (fun x =>
      { x with cause := cause,
               mode := if x.mode = .releasing then .releasing else .lost,
               round := { Round.reset with step := x.round.step, pr := { x.round.pr with keyMade := false, used := [] } },
               digestList := x.digestList.filter (fun d => d.regions.all (fun n => (t.region n).valid && (t.region n).locked)) })
    if t.confidential p && (t.part p).mode == .lost then
      let u := ((t.tdiFails p).destroyKeys p).modPart p (fun x => { x with mode := .releasing, digestList := [] })
      if u.sec.terminating.any (fun e => e.1 == p) then u
      else { u with sec := { u.sec with terminating := u.sec.terminating ++ [(p, 3)] } }
    else t

/-- A region whose poisoned line has no repair source is released (R348; 14 R361). -/
def State.dropUnrepairable (s : State) : State :=
  (s.memory.repairs.filterMap (fun r => if r.stage = .lost then some r.region else none)).foldl State.dropRegion s

/-- What stops in the whole module (R347; 18 R445): clusters, runs, copies, sessions, the rings of virtual functions. Packets
that a controller held go with their runs, and open merge slots close (log 40). -/
def State.stopModule (s : State) : State :=
  let t := { s with clusters := Tab.mapVals (fun _ => Cluster.reset) (fun (c : Cluster) =>
    if c.job.isSome then c.release else c) s.clusters }
  let t := (t.engines.map (·.1)).foldl State.abortOne t
  let t := { t with stackTab := Tab.mapVals (fun _ => Stack.reset) (fun (k : Stack) =>
    { k with slots := [], heldPackets := [] }) t.stackTab }
  let t := (List.range 8).foldl State.stopCopies t
  let t := t.endSessions
  let t := { t with links := { t.links with sent := [], colls := [] } }
  (List.range 8).foldl (fun u k => u.cutRings (k + 1)) t

/-- A partition command in progress is interrupted: status 0x0E (R350). -/
def State.interruptCommand (s : State) : State :=
  if s.partCtl.busy then { s with partCtl := { s.partCtl with busy := false, status := 0x0E } } else s

/-- Sieves in progress end unserved; nothing states the status that MOD_SIEVE_STATUS then shows (log 3). -/
def State.dropSieves (s : State) : State :=
  let c := s.memory.sieve
  if c.queue.isEmpty && !c.busy then s
  else { s.useFree with memory := { s.memory with sieve :=
      { c with queue := [], busy := false, status := if c.busy then BitVec.ofNat 8 s.freeVal.toNat else c.status } } }

/-- Control cores restart: no handler runs and no line is active. -/
def State.restartCores (s : State) : State :=
  let ls := Tab.mapVals (fun _ => IcLine.reset) (fun (l : IcLine) => { l with active := false }) s.intr.lines
  { s with intr := { s.intr with cores := [], lines := ls } }

/-- Locked shared-immutable regions, which the restarted firmware sieves (14 R371). -/
def State.lockedShared (s : State) : List Nat :=
  s.memory.regions.filterMap (fun e => if e.2.valid && e.2.locked && e.2.sharedImm && e.2.st == 2 then some e.1 else none)

/-- A module-wide loss with its cause (R345, R347, R348, R350; 14 R371; 21 R489). It begins the restart again when it comes
during one, and a warm reset runs on through it (18 R449). -/
def State.wideLoss (s : State) (cause : Nat) : State :=
  if s.module.electrical ≠ .running ∨ !([4, 6].contains s.module.stage) then s
  else
    let t := s.stopModule
    let t := ({ t with memory := { t.memory with resieve := [] } } : State).dropUnrepairable.interruptCommand
    let t := (List.range 8).foldl (fun u p => u.losePart p cause) t
    let t := t.dropSieves.restartCores
    { t with memory := { t.memory with repairs := [], resieve := t.lockedShared, fwLost := false },
             module := { t.module with stage := 6, lossCause := cause, alert := true } }

end Sys2Proof.Machine
end

