-- ==== Sys2Proof/Machine/Events.lean ====
section
/-! DEFINITION. Held-back records, event registers, the interrupt controller and THROTTLE_N (12 R323 to R333). -/

namespace Sys2Proof.Machine

/-! ### Summaries and buckets (R325, R326, R328) -/

/-- SUMMARY_WRITE (R326). -/
def execSummaryWrite (fn : FnId) (s : State) : Host.Outcome State Fault Refusal :=
  .next (match s.openMailbox fn.val with
    | none => s
    | some r => s.summaries fn.val r)

/-- rate and depth of a block (R328). -/
def State.evRate (s : State) (b : Nat) : Nat := fld (s.evtRate b) 11 0
def State.evDepth (s : State) (b : Nat) : Nat := fld (s.evtRate b) 19 12

/-- A bucket level after `k` refills: it gains rate tokens each, up to the depth. -/
def State.refilled (s : State) (b level k : Nat) : Nat := min (s.evDepth b) (level + s.evRate b * k)

/-- Refill every bucket (R325). -/
def State.refillBuckets (s : State) (k : Nat) : State :=
  let base (b : Nat) : Nat := Tab.get (fun _ => 32) s.buckets.base b
  { s with buckets :=
    { base := (List.range 16).foldl (fun m b => Tab.set (fun _ => 32) m b (s.refilled b (base b) k)) s.buckets.base,
      used := s.buckets.used.foldl (fun m e =>
        let b := e.1 / 4096
        Tab.set (fun _ => 0) m e.1 (s.refilled b (base b) k - s.refilled b (base b - e.2) k)) [] } }

/-- EVENT_TOKEN_REFILL (R325): the whole ms of module time since the last refill. -/
def execEventTokenRefill (s : State) : Host.Outcome State Fault Refusal :=
  .next (
    let ms := s.nowNat / 1000000
    let k := ms - (Tab.get (fun _ => 0) s.time.marks 1).toNat
    if k = 0 then s
    else
      let t := s.refillBuckets k
      { t with time := { t.time with marks := Tab.set (fun _ => 0) t.time.marks 1 (BitVec.ofNat 64 ms) } })

/-! ### Registers (R324, R328) -/

/-- What a mask discards of a count: the records that are not fatal (R324). -/
def Held.discard (h : Held) : Option Held :=
  if h.fatal = 0 then none else some { h with count := h.fatal }

/-- EVT_MASK is written (R324, R328): records of the blocks that it masks which are held back are discarded too, so that no summary
reports them later, and counted in EVT_LOST. -/
def State.setEvtMask (s : State) (fn : Nat) (value : W64) : State :=
  let hit (h : Held) : Bool := bitAt value (h.source / 4096)
  (s.setReg fn 0x30000 (value &&& 0xFFFF)).modFn fn (fun x =>
    { x with
      masked := BitVec.ofNat 32 (satAdd 0xFFFFFFFF x.masked.toNat ((x.held.filter hit).map (fun h => h.count - h.fatal)).sum),
      held := x.held.filterMap (fun h => if hit h then h.discard else some h) })

/-- A field that a write of 0 leaves unchanged. -/
def keepZero (old new : W64) (hi lo : Nat) : W64 := if fld new hi lo = 0 then old else setFld old hi lo (fld new hi lo)

/-- EVT_RATE_b is written (R328). -/
def State.setEvtRate (s : State) (b : Nat) (value : W64) : State :=
  s.setReg 0 (0x30100 + 8 * b) (keepZero (keepZero (s.evtRate b) value 11 0) value 19 12)

/-- EVT_INPUTS_CLR is written (R328). -/
def State.clearPulses (s : State) (value : W64) : State :=
  if bitAt value 0 then { s with intr := { s.intr with extraPulses := 0 } } else s

/-- EVT_MASK_WRITE (R324): the blocks are masked. A record inside the 2 µs window after the write is not shown (log 2). -/
def execEvtMaskWrite (fn : FnId) (value : W64) (s : State) : Host.Outcome State Fault Refusal :=
  .next (if s.bar0 fn.val then s.setEvtMask fn.val value else s)

/-- EVT_RATE_WRITE (R328): it applies from the next refill. -/
def execEvtRateWrite (fn : FnId) (block : Fin 16) (value : W64) (s : State) : Host.Outcome State Fault Refusal :=
  .next (
    if fn.val ≠ 0 ∨ !s.bar0 0 then s else s.setEvtRate block.val value)

/-- CLEAR_PULSES: EVT_INPUTS_CLR (R328). -/
def execClearPulses (fn : FnId) (value : W64) (s : State) : Host.Outcome State Fault Refusal :=
  .next (if fn.val = 0 ∧ s.bar0 0 then s.clearPulses value else s)

/-- A function's vector is unmasked: a held message is sent (R323). -/
def State.unmask (s : State) (fn : Nat) : State :=
  let t := s.modFn fn (fun x => { x with vectorMasked := false, msgPending := false })
  if (s.fn fn).msgPending then t.toHost [.msix fn] else t

/-- MSIX_UNMASK (R323). -/
def execMsixUnmask (fn : FnId) (s : State) : Host.Outcome State Fault Refusal :=
  .next (if s.bar0 fn.val then s.unmask fn.val else s)

/-! ### The interrupt controller (R329 to R332) -/

/-- Control cores in service: three working ones of each quarter at most (20 R468). -/
def State.coreInService (s : State) (c : Nat) : Bool :=
  ((List.range 4).filter (fun i => bitAt (s.quarter (c / 4)).cores i)).take 3 |>.contains (c % 4)

/-- The core that a line is delivered to: its target, or the lowest core in service of the same quarter (R330). -/
def State.lineCore (s : State) (n : Nat) : Option Nat :=
  let c := (s.icLine n).core.toNat
  if s.coreInService c then some c
  else ((List.range 4).map (fun i => 4 * (c / 4) + i)).find? s.coreInService

/-- The lowest-numbered pending line of a class that is delivered to a core (R330, R331). -/
def State.nextLine (s : State) (fast : Bool) (c : Nat) : Option Nat :=
  (List.range 76).find? (fun n =>
    let l := s.icLine n
    l.pending && !l.masked && l.fast == fast && s.lineCore n == some c)

/-- The fast handler of a core has returned (log 39). -/
def State.fastReturns (s : State) (c : Nat) : State :=
  if (s.core c).inFast then
    (s.modIcLine (s.core c).fastLine (fun l => { l with active := false })).modCore c (fun x => { x with inFast := false })
  else s

/-- The normal handler of a core has returned: its program counter and status are those it saved (log 39). -/
def State.normalReturns (s : State) (c : Nat) : State :=
  if (s.core c).inNormal then
    (s.modIcLine (s.core c).normalLine (fun l => { l with active := false })).modCore c
      (fun x => { x with inNormal := false, pc := x.savedPc, status := x.savedStatus })
  else s

/-- FAST_INTERRUPT (R331): the lowest pending fast line enters the fast bank; fb0 receives its number and nothing is saved. -/
def execFastInterrupt (core : CoreId) (s : State) : Host.Outcome State Fault Refusal :=
  .next (match s.nextLine true core.val with
    | none => s
    | some n =>
      let t := s.fastReturns core.val
      (t.modIcLine n (fun l => { l with pending := false, active := true })).modCore core.val
        (fun x => { x with inFast := true, fb := Tab.set (fun _ => 0) x.fb 0 (BitVec.ofNat 32 n), fastLine := n, fastSince := s.time.now }))

/-- NORMAL_INTERRUPT (R331): a pending normal line interrupts normal code; program counter and status are saved. Where the
handler lies is not stated (log 3). -/
def execNormalInterrupt (core : CoreId) (s : State) : Host.Outcome State Fault Refusal :=
  .next (match s.nextLine false core.val with
    | none => s
    | some n =>
      let t := (s.fastReturns core.val).normalReturns core.val
      (t.useFree.modIcLine n (fun l => { l with active := true })).modCore core.val (fun x =>
        { x with inNormal := true, normalLine := n, savedPc := x.pc, savedStatus := x.status,
                 pc := BitVec.ofNat 32 t.freeVal.toNat }))

/-- EVT_IC_CLAIM (R331): the lowest pending normal line of the core is returned and taken; with none, what a read returns is not
stated (log 3). -/
def execEvtIcClaim (core : CoreId) (s : State) : Host.Outcome State Fault Refusal :=
  .next (match s.nextLine false core.val with
    | none => s.useFree.emit (.value s.freeVal)
    | some n =>
      let x := s.core core.val
      let t := if x.inNormal then s.modIcLine x.normalLine (fun l => { l with active := false }) else s
      ((t.modIcLine n (fun l => { l with pending := false, active := true })).modCore core.val
        (fun k => { k with normalLine := n })).emit (.value (BitVec.ofNat 64 n)))

/-- FAST_HANDLER_OVERRUN (R332): a handler that has run longer than 2 µs is a firmware fault, a module-wide loss of cause 1; its
core is tested at the restart (20 R468). -/
def execFastHandlerOverrun (core : CoreId) (s : State) : Host.Outcome State Fault Refusal :=
  .next (
    let x := s.core core.val
    if x.inFast ∧ x.fastSince.toNat + 2000 < s.nowNat then
      ({ s with spares := { s.spares with retestCore := some core.val } }).wideLoss 1
    else s)

/-! ### THROTTLE_N (R333) -/

/-- The filtered input: a change marks its time and latches line 56 (R329, R333). -/
def State.setThrottle (s : State) (v : Bool) : State :=
  if s.intr.throttle = v then s
  else ({ s with intr := { s.intr with throttle := v, since := s.time.now } }).latch 56

/-- THROTTLE_N_EDGE: the level at the pin changes and its filter starts. -/
def execThrottleNEdge (high : Bool) (s : State) : Host.Outcome State Fault Refusal :=
  .next (
    if s.intr.pinLow = !high then s
    else { s with intr := { s.intr with pinLow := !high, pinSince := s.time.now } })

/-- THROTTLE_N_ACCEPT: a level held for 1 µs is accepted; two accepted assertion edges less than 1 ms apart begin a fast-toggle
episode, during which the filtered input stays asserted. -/
def execThrottleNAccept (s : State) : Host.Outcome State Fault Refusal :=
  .next (
    let i := s.intr
    if i.pinLow = i.accepted ∨ s.nowNat < i.pinSince.toNat + 1000 then s
    else
      let again := i.pinLow && (match i.lastAssert with
        | some a => decide (s.nowNat < a.toNat + 1000000)
        | none => false)
      let fast := i.throttleFast || again
      let t := { s with intr := { i with
        accepted := i.pinLow, lastEdge := s.time.now, lastAssert := if i.pinLow then some s.time.now else i.lastAssert,
        throttleFast := fast, edges := if i.throttleFast then i.edges + 1 else if again then 3 else 0 } }
      t.setThrottle (i.pinLow || fast))

/-- THROTTLE_FAST_END: 1 ms with no edge ends the episode, which posts its one record (log 41). -/
def execThrottleFastEnd (s : State) : Host.Outcome State Fault Refusal :=
  .next (
    let i := s.intr
    if !i.throttleFast ∨ s.nowNat < i.lastEdge.toNat + 1000000 then s
    else
      let t := { s with intr := { i with throttleFast := false, edges := 0 } }
      (t.setThrottle i.accepted).post 0 9 2 0 i.edges)

/-- THROTTLE_N_STUCK: asserted for 10 s without a break; SMB_ALERT_N asserts (21 R489). -/
def execThrottleNStuck (s : State) : Host.Outcome State Fault Refusal :=
  .next (
    let i := s.intr
    if !i.throttle ∨ i.throttleStuck ∨ s.nowNat < i.since.toNat + 10000000000 then s
    else
      let t := { s with intr := { i with throttleStuck := true }, module := { s.module with alert := true } }
      t.post 0 9 1 0 ((s.nowNat - i.since.toNat) / 1000000000))

/-- THROTTLE_STUCK_CLEAR: deasserted for 1 s. -/
def execThrottleStuckClear (s : State) : Host.Outcome State Fault Refusal :=
  .next (
    let i := s.intr
    if !i.throttleStuck ∨ i.throttle ∨ s.nowNat < i.since.toNat + 1000000000 then s
    else { s with intr := { i with throttleStuck := false } })

end Sys2Proof.Machine
end

