-- ==== Sys2Proof/Machine/RoundRelief.lean ====
section
/-! DEFINITION. When parcel memory runs short: relief, spilling to poste restante and fetching back (07 R216 to R222). -/

namespace Sys2Proof.Machine

/-! ### Relief (R216) -/

/-- The reserve of free slots of a home stack: the larger of 64 and twice the most parcels that one of the last 64 steps allocated
there. -/
def State.reserve (s : State) (p st : Nat) : Nat :=
  max 64 (2 * ((s.round p).history.map (fun h => h.getD st 0)).foldl max 0)

/-- Slots of a stack that are free, or will be when the spills under way complete. -/
def State.comingSlots (s : State) (p st : Nat) : Nat :=
  s.freeSlots p st +
    ((s.round p).ledger.filter (fun e => decide (e.2.state = .spilling) && plnStack e.2.pln == st)).length

/-- Whether a stack is below its reserve, or a build waits for a slot in it. -/
def State.short (s : State) (p st : Nat) : Bool :=
  decide (s.comingSlots p st < s.reserve p st) || ((s.round p).allocWait == some st && s.comingSlots p st == 0)

/-- Evict a prefix entry: it is free at once, and its parcels lose a holder (R215). -/
def State.evict (s : State) (p k : Nat) : State :=
  match s.prefixAt p k with
  | none => s
  | some e => (s.unshare p (s.prefixParcels p e)).setPrefix p k none

/-- Prefix entries that relief may evict: ready with refs 0, least recent last_use first (R215, R216). -/
def State.evictable (s : State) (p : Nat) : List Nat :=
  (sortBy (fun (a b : Nat × Prefix) => decide (a.2.lastUse.toNat ≤ b.2.lastUse.toNat))
    ((s.round p).prefixes.filterMap (fun e => match e.2 with
      | some x => if x.ready && x.refs == 0 then some (e.1, x) else none
      | none => none))).map (·.1)

/-- Whether a sequence stands on the built sheet. -/
def State.onSheet (s : State) (p i : Nat) : Bool :=
  match (s.round p).sheet with
  | some sh => sh.items.any (fun it => it.index == i)
  | none => false

/-- Idle: not carried by the last committed step. -/
def State.idle (s : State) (p : Nat) (e : RoundEntry) : Bool :=
  decide (e.state = .paused) || decide (e.state = .waiting) ||
    decide (e.lastStep.toNat + 1 < (s.round p).step.toNat % 2 ^ 32)

/-- Sequences that relief may take: cancelled ones first, then by last use (R216, R251). -/
def State.victims (s : State) (p : Nat) : List Nat :=
  let vs := (s.seqs p).filter (fun q => s.idle p q.2 && !s.onSheet p q.1)
  (sortBy (fun (a b : Nat × RoundEntry) =>
    (a.2.flags.cancelled && !b.2.flags.cancelled) ||
      (a.2.flags.cancelled == b.2.flags.cancelled && decide (a.2.lastStep.toNat ≤ b.2.lastStep.toNat))) vs).map (·.1)

/-- Slots of the poste restante window (R217). -/
def State.prSlots (s : State) (p : Nat) : Nat := fld (s.partReg p 0x40) 23 0

/-- The lowest free poste restante slots. -/
def State.freePrSlots (s : State) (p n : Nat) : List Nat :=
  ((List.range (min (s.prSlots p) ((s.round p).pr.used.length + n))).filter (fun k => !(s.round p).pr.used.contains k)).take n

/-- Take one span: it is spilled where poste restante has the slots, else returned (R216). -/
def State.takeSpan (s : State) (p : Nat) (is : List Nat) : State :=
  let slots := s.freePrSlots p is.length
  if (s.part p).applied.spill ∧ slots.length = is.length then
    (is.zip slots).foldl (fun t x =>
      (t.modParcel p x.1 (fun y => { y with state := .spilling, prSlot := some x.2 })).modRound p (fun r =>
        { r with pr := { r.pr with used := r.pr.used ++ [x.2] } })) s
  else is.foldl (fun t i => t.returned p i) s

/-- The private spans of a sequence that relief may take, highest first: ledger indices of each, both models. -/
def State.takable (s : State) (p i : Nat) : List (List Nat) :=
  match s.seqAt p i with
  | none => []
  | some e =>
    let n := max e.log.map.length e.log.draftMap.length
    ((List.range n).reverse.map (fun j =>
      ((e.log.map[j]?.toList.filter (fun b => !(s.parcel p b).isShared)).flatMap (s.setOf p false) ++
        (e.log.draftMap[j]?.toList.filter (fun b => !(s.parcel p b).isShared)).flatMap (s.setOf p true)))).filter (fun is =>
      !is.isEmpty && is.all (fun k => decide ((s.parcel p k).state = .tail) || decide ((s.parcel p k).state = .full)))

/-- Take a sequence's private spans while the stack is short; a sequence that loses spans is paused. -/
def State.takeSeq (s : State) (p st i : Nat) : State :=
  (s.takable p i).foldl (fun t is =>
    if t.short p st then
      (t.takeSpan p is).modSeq p i (fun e => if e.state = .waiting then e else { e with state := .paused })
    else t) s

/-- The best-effort sequence that is paused next: highest pigeonhole, then highest round index (R247). -/
def State.nextPause (s : State) (p : Nat) : Option Nat :=
  ((sortBy (fun (a b : Nat × RoundEntry) =>
    decide (b.2.pigeonhole < a.2.pigeonhole) || (a.2.pigeonhole == b.2.pigeonhole && decide (b.1 ≤ a.1)))
    ((s.seqs p).filter (fun q =>
      q.2.flags.be && !q.2.flags.promoted && (decide (q.2.state = .prefill) || decide (q.2.state = .decode)) &&
        !s.onSheet p q.1))).head?).map (·.1)

/-- Restore the reserve of a stack: eviction, then spans of victims, then a pause (R216). -/
def State.relieve (s : State) (p st : Nat) : State :=
  let t := (s.evictable p).foldl (fun t k => if t.short p st then t.evict p k else t) s
  let t := (t.victims p).foldl (fun t i => if t.short p st then t.takeSeq p st i else t) t
  if t.short p st then
    match t.nextPause p with
    | some i => t.modSeq p i (fun e => { e with state := .paused })
    | none => t
  else t

/-- RELIEF (07 R216). -/
def execRelief (p : PartId) (st : StackId) (s : State) : Host.Outcome State Fault Refusal :=
  .next (
    if (s.part p.val).mode ≠ .ready ∨ !s.short p.val st.val then s
    else s.replayGuard (s.relieve p.val st.val) p.val)

/-! ### Spilling (R217, R218) -/

/-- Word 0 of a ledger entry with state 0 (R196, R218). -/
def Parcel.word0 (x : Parcel) (p : Nat) : Nat :=
  at_ 3 p + at_ 6 (b2n x.isShared) + at_ 7 (b2n x.pair) + at_ 8 (b2n x.draft) + at_ 9 x.layer + at_ 16 x.head +
    at_ 22 x.number + at_ 34 x.filled + at_ 43 x.holder + at_ 57 x.column

/-- The additional authenticated data of a spilled parcel (R218). -/
def Parcel.aad (x : Parcel) (p check counter : Nat) : List Byte :=
  toBytes 8 (x.word0 p) ++ toBytes 8 (x.kScale.toNat + at_ 32 x.vScale.toNat) ++ toBytes 8 (check + at_ 32 1) ++
    toBytes 8 counter

/-- Initialisation vector: the spill counter, then the ledger index (R218). -/
def spillIv (counter i : Nat) : List Byte := toBytes 8 counter ++ toBytes 4 i

/-- Host address of a poste restante slot's data and of its tag record (R217). -/
def State.prData (s : State) (p k : Nat) : Nat := 65536 * fld (s.partReg p 0x38) 63 16 + 65536 * k
def State.prTag (s : State) (p k : Nat) : Nat := 65536 * fld (s.partReg p 0x38) 63 16 + 65536 * s.prSlots p + 64 * k

/-- Read the 1,024 lines of a parcel through its controller; none when one fails. -/
def State.readParcel (s : State) (p pln : Nat) : Nat → State × Option (List Byte)
  | 0 => (s, some [])
  | n + 1 =>
    match s.readLine (ctlOf pln) pln p with
    | (t, none) => (t, none)
    | (t, some l) =>
      match t.readParcel p (pln + 1) n with
      | (u, some bs) => (u, some (lineBytes l ++ bs))
      | (u, none) => (u, none)

/-- SPILL_COMPLETE (07 R218, R221): the sealed parcel and its tag record are in host memory and the slot is free; a parcel with a
failing line is returned instead. -/
def execSpillComplete (p : PartId) (ledger : Nat) (s : State) : Host.Outcome State Fault Refusal :=
  .next (
    let x := s.parcel p.val ledger
    match x.state, x.prSlot with
    | .spilling, some k =>
      match s.readParcel p.val x.pln 1024 with
      | (t, none) => s.replayGuard (t.returned p.val ledger) p.val
      | (t, some bs) =>
        let c := (t.round p.val).pr.counter
        let check := crc32c bs
        let r := gcmSeal (Config.posteKey (t.round p.val).pr.key) (spillIv c.toNat ledger) (x.aad p.val check c.toNat) bs
        let t := t.hostWrite (p.val + 1) (t.prData p.val k) r.1
        let t := t.hostWrite (p.val + 1) (t.prTag p.val k)
          (toBytes 16 r.2.toNat ++ toBytes 8 c.toNat ++ toBytes 4 ledger ++ toBytes 36 0)
        let t := t.modRound p.val (fun r => { r with pr := { r.pr with counter := c + 1 } })
        (t.modParcel p.val ledger (fun y =>
          { y with state := .spilled, pln := 0, check := some (BitVec.ofNat 32 check), spillCounter := c })).journalHappening p.val 3
            ledger
    | _, _ => s)

/-! ### Fetching back (R219) -/

/-- Ledger indices of a sequence's spilled parcels, in ascending span. -/
def State.spilledOf (s : State) (p i : Nat) : List Nat :=
  match s.seqAt p i with
  | none => []
  | some e =>
    (sortBy (fun (a b : Nat) => decide ((s.parcel p a).number ≤ (s.parcel p b).number))
      (e.log.map.flatMap (s.setOf p false) ++ e.log.draftMap.flatMap (s.setOf p true))).filter (fun k =>
      decide ((s.parcel p k).state = .spilled))

/-- Start fetching one parcel into a fresh slot of its home stack, a hinted one only into slots above the reserve (R201, R219). -/
def State.fetchParcel (s : State) (p i k : Nat) (hint : Bool) : State :=
  match (s.round p).model, (s.parcel p k).prSlot with
  | some m, some slot =>
    let x := s.parcel p k
    let st := homeStack (m.heads' x.draft) x.head x.layer
    if hint && decide (s.freeSlots p st ≤ s.reserve p st) then s
    else match s.freshSlot p st x.number false i with
      | none => s
      | some pln =>
        ((s.modParcel p k (fun y => { y with state := .fetching, pln := pln })).hostRead (p + 1) (s.prData p slot) 65536).hostRead
          (p + 1) (s.prTag p slot) 64
  | _, _ => s

/-- The round has chosen a sequence to resume, or to carry the rebuilding of its prefix entry (R219, R222). -/
def State.chosen (s : State) (p i : Nat) : Bool :=
  (s.round p).fetchBack.contains i || (match s.seqAt p i with | some e => s.carries p i e | none => false)

/-- POSTE_RESTANTE_FETCH (07 R219): a sequence that the round has chosen to resume, or that a hint names. -/
def execPosteRestanteFetch (p : PartId) (seq : Nat) (s : State) : Host.Outcome State Fault Refusal :=
  .next (
    if s.chosen p.val seq || (s.round p.val).hinted.contains seq then
      (s.spilledOf p.val seq).foldl (fun t k => t.fetchParcel p.val seq k (!s.chosen p.val seq)) s
    else s)

/-- Write a parcel's bytes into its slot. -/
def State.writeParcel (s : State) (pln : Nat) (bs : List Byte) : State :=
  (chunks 64 1024 bs).zipIdx.foldl (fun t w => t.writeLine (pln + w.2) (lineOf w.1)) s

/-- The plaintext of a fetched parcel when its tag, its ledger index, its counter and its content check agree (R219). -/
def openParcel (x : Parcel) (key p ledger : Nat) (cipher : List Byte) (tag : Line) : Option (List Byte) :=
  match x.check with
  | none => none
  | some c =>
    if cipher.length ≠ 65536 ∨ lineNat tag 16 8 ≠ x.spillCounter.toNat ∨ lineNat tag 24 4 ≠ ledger then none
    else match gcmOpen (Config.posteKey key) (spillIv x.spillCounter.toNat ledger) (x.aad p c.toNat x.spillCounter.toNat) cipher
        (BitVec.ofNat 128 (lineNat tag 0 16)) with
      | some bs => if crc32c bs = c.toNat ∧ bs.length = 65536 then some bs else none
      | none => none

/-- Sequences whose parcels are all back leave the lists of those to fetch. -/
def State.fetchedBack (s : State) (p : Nat) : State :=
  let away (i : Nat) : Bool := match s.seqAt p i with
    | some e => s.hasParcel p e ParcelState.away
    | none => false
  s.modRound p (fun r => { r with fetchBack := r.fetchBack.filter away, hinted := r.hinted.filter away })

/-- FETCH_BACK_COMPLETE (07 R219, R221): the parcel is full or tail and its poste restante slot free, or it is returned with a
record. -/
def execFetchBackComplete (p : PartId) (ledger : Nat) (cipher : Option (List Byte × Line)) (s : State) :
    Host.Outcome State Fault Refusal :=
  .next (
    let x := s.parcel p.val ledger
    if x.state ≠ .fetching then s
    else
      match cipher.bind (fun c => openParcel x (s.round p.val).pr.key p.val ledger c.1 c.2) with
      | some bs =>
        let t := s.writeParcel x.pln bs
        let t := t.modRound p.val (fun r =>
          { r with pr := { r.pr with used := r.pr.used.filter (fun k => x.prSlot != some k) } })
        let t := t.modParcel p.val ledger (fun y =>
          { y with state := if y.filled = 256 then .full else .tail, check := none, prSlot := none })
        (t.journalHappening p.val 4 ledger).fetchedBack p.val
      | none =>
        let req := match s.seqAt p.val x.holder with | some e => e.requestId | none => 0
        (s.replayGuard ((s.returned p.val ledger).fetchedBack p.val) p.val).post (p.val + 1) 4 2 p.val (req + at_ 32 ledger))

end Sys2Proof.Machine
end

