-- ==== Sys2Proof/Machine/RoundHost.lean ====
section
/-! DEFINITION. What the host asks of the round: SUBMIT, CANCEL, PREFIX, HINT (08 R226 to R231, R251; 07 R212 to R215, R219),
and the refills of each millisecond (08 R234, R235). -/

namespace Sys2Proof.Machine

/-! ### Fields of a SUBMIT (R227) -/

def qFlags (d : Line) : Nat := lineNat d 1 1
def qTenant (d : Line) : Nat := lineNat d 2 2
def qRequest (d : Line) : Nat := lineNat d 4 4
def qAddr (d : Line) : Nat := lineNat d 8 8
def qLen (d : Line) : Nat := lineNat d 16 4
def qMax (d : Line) : Nat := lineNat d 20 4
def qDeadline (d : Line) : W64 := BitVec.ofNat 64 (lineNat d 24 8)
def qPrefix (d : Line) : W32 := BitVec.ofNat 32 (lineNat d 32 4)
def qBase (d : Line) : W32 := BitVec.ofNat 32 (lineNat d 36 4)
def qPrefixLen (d : Line) : Nat := lineNat d 40 4
def qSeed (d : Line) : W64 := BitVec.ofNat 64 (lineNat d 44 8)
def qKreq (d : Line) : Nat := fld d 418 416
def qTokenRing (d : Line) : Nat := fld d 427 424
def qComplRing (d : Line) : Nat := fld d 431 428
def qProfile (d : Line) : Nat := fld d 435 432
def qStop (d : Line) : List W32 := [BitVec.ofNat 32 (lineNat d 56 4), BitVec.ofNat 32 (lineNat d 60 4)]
def qBe (d : Line) : Bool := bitAt d 8
def qLate (d : Line) : Bool := bitAt d 9
def qHasDeadline (d : Line) : Bool := bitAt d 10
def qHasPrefix (d : Line) : Bool := bitAt d 11
def qHasBase (d : Line) : Bool := bitAt d 12
def qSpec (d : Line) : Bool := bitAt d 13

/-- A completion ring of request class (11 R305): enabled, and named by an enabled request ring. -/
def State.requestClass (s : State) (fn r : Nat) : Bool :=
  s.ringOn fn r && s.ringType fn r == 4 &&
    (List.range 16).any (fun k => s.ringOn fn k && s.ringType fn k == 1 && s.complRing fn k == r)

/-- A SUBMIT that is not well formed (R226, R227; 11 R305; 00 R11, R12). -/
def State.badSubmit (s : State) (fn : Nat) (d : Line) : Bool :=
  let p := fn - 1
  let draft := match (s.round p).model with | some m => m.draft | none => false
  decide (64 ≤ qFlags d) || decide (0xFFFD < qTenant d) || qAddr d % 4 != 0 || qLen d == 0 || decide (1048575 < qLen d) ||
    qMax d == 0 || decide (1048576 < qLen d + qMax d) || (!qHasDeadline d && qDeadline d != 0) ||
    (!qHasPrefix d && qPrefix d != 0) || (!qHasBase d && qBase d != 0) || (qSpec d && !draft) || fld d 423 419 != 0 ||
    fld d 439 436 != 0 || lineNat d 55 1 != 0 || !s.requestClass fn (qComplRing d) ||
    !(s.ringOn fn (qTokenRing d) && s.ringType fn (qTokenRing d) == 5) || (s.seqOf p (qRequest d)).isSome ||
    (s.round p).admitting.any (fun a => lineNat a.desc 4 4 == qRequest d)

/-! ### Admission (R229, R230) -/

/-- The prefix spans that a request would share: those of an entry its handle names and its tenant may use (R212, R214). -/
def Prefix.permits (e : Prefix) (tenant : Nat) : Bool :=
  e.owner == tenant ||
    (match e.share with
     | some l => l.headD 0xFFFF == 0xFFFE || l.contains tenant
     | none => false)

/-- The prefix entry of a handle. -/
def State.prefixOf (s : State) (p : Nat) (h : W32) : Option (Nat × Prefix) :=
  (s.round p).prefixes.findSome? (fun e => match e.2 with
    | some x => if x.handle = h then some (e.1, x) else none
    | none => none)

/-- Shared length of a request in spans (R212). -/
def sharedSpans (d : Line) : Nat := if qHasPrefix d then min (qPrefixLen d) (qLen d - 1) / 256 else 0

/-- The entry a request is expected to hit, before its digest is known. -/
def State.expectedHit (s : State) (p : Nat) (d : Line) : Option Prefix :=
  if sharedSpans d = 0 then none
  else match s.prefixOf p (qPrefix d) with
    | some (_, e) => if e.permits (qTenant d) && e.spans == sharedSpans d then some e else none
    | none => none

/-- Private spans of a request once its prompt and one token are appended (R230). -/
def State.privateSpans (s : State) (p : Nat) (d : Line) : Nat :=
  spansOf (qLen d + 1) - (match s.expectedHit p d with | some e => e.spans | none => 0)

/-- Resident parcels of best-effort private spans in a stack: what relief could free (R230). -/
def State.relievable (s : State) (p st : Nat) : Nat :=
  (((s.seqs p).filter (fun q => q.2.flags.be)).flatMap (fun q => s.privateParcels p q.1)).countP (fun i =>
    (s.parcel p i).state.resident && plnStack (s.parcel p i).pln == st)

/-- The memory test fails (R230). -/
def State.memoryShort (s : State) (p : Nat) (d : Line) : Bool :=
  match (s.round p).model with
  | none => true
  | some m =>
    let need := ceilDiv (s.privateSpans p d * m.setSize false) 16
    (m.homes false).any (fun st => decide (s.freeSlots p st - s.reserve p st + s.relievable p st < need))

/-- τ and σ of the last built sheet's latency-critical items, the spans that they now have recounted, with the request added as one decode
item (R230). -/
def State.trialSheet (s : State) (p : Nat) (d : Line) : Nat × Nat :=
  let live := (s.round p).lastLc.filterMap (fun it => (s.seqAt p it.index).map (fun e => (e, it)))
  let hit := match s.expectedHit p d with | some e => e.map | none => []
  let sets := (live.flatMap (fun q => (s.itemReads p q.1 q.2).flatMap (fun x => s.itemMap p q.1 q.2 x.1)) ++ hit).eraseDups
  ((live.map (·.2.tokens)).sum + 1, sets.length + s.privateSpans p d)

/-- Live latency-critical sequences. -/
def State.lcCount (s : State) (p : Nat) : Nat := ((s.seqs p).filter (fun q => !q.2.flags.be)).length

/-- The first check of R229 that fails. -/
def State.submitRefusal (s : State) (fn : Nat) (d : Line) : Option Nat :=
  let p := fn - 1
  let r := s.round p
  let t := s.trialSheet p d
  let step := r.stepModel.predict t.1 t.2
  let young := decide (r.stepModel.count < 64)
  if s.badSubmit fn d then some 0x15
  else if qHasDeadline d && !s.isLocked then some 0x13
  else if !qBe d && (budgetFor (fun n => s.partReg p (0x100 + 8 * n)) (qTenant d)).isNone then some 0x14
  else if (s.part p).applied.roundEntries ≤ (s.seqs p).length then some 0x17
  else if s.memoryShort p d then some 0x10
  else if (if young then decide (64 ≤ s.lcCount p) else decide (s.lcLimit p < step)) then some 0x11
  else if qHasDeadline d &&
      (if young then decide (64 ≤ s.lcCount p)
       else decide ((qDeadline d).toNat < (s.roundNow p).toNat + (ceilDiv (qLen d) 2048 + qMax d) * step)) then some 0x12
  else none

/-- The request ring of a function that is served next: round robin over those that hold a descriptor (R229). -/
def State.servedRing (s : State) (fn : Nat) : Option Nat :=
  ((List.range 16).map (fun k => ((s.round (fn - 1)).ringTurn + k) % 16)).find? (fun r =>
    s.ringType fn r == 1 && !(s.ring fn r).fetched.isEmpty)

/-- A request ring of a ready partition, in its turn, whose head descriptor has one of some types. -/
def State.requestHead (s : State) (fn r : Nat) (types : Nat → Bool) : Option Line :=
  if fn = 0 ∨ s.servedRing fn ≠ some r ∨ !s.works (fn - 1) then none
  else match (s.ring fn r).fetched with
    | d :: _ => if types (lineNat d 0 1) then some d else none
    | [] => none

/-- The head of a request ring has been served: the turn passes to the next ring (R229). -/
def State.popRequest (s : State) (fn r : Nat) : State :=
  (s.popFetched fn r).modRound (fn - 1) (fun x => { x with ringTurn := (r + 1) % 16 })

/-- SUBMIT (08 R229): the checks in their order; an admitted request's prompt is fetched once the journal has room for it (11 R309),
and in a replay fed (19 R455). A
descriptor of no known type is malformed. -/
def execSubmit (fn : FnId) (r : RingId) (s : State) : Host.Outcome State Fault Refusal :=
  .next (match s.requestHead fn.val r.val (fun t => t == 1 || t == 0 || decide (4 < t)) with
    | none => s
    | some d =>
      let p := fn.val - 1
      let t := (s.popRequest fn.val r.val).journalTime p 3
      match if lineNat d 0 1 = 1 then s.submitRefusal fn.val d else some 0x15 with
      | some st =>
        let ring := if s.requestClass fn.val (qComplRing d) && lineNat d 0 1 == 1 then qComplRing d else s.complRing fn.val r.val
        t.answer p fn.val ring (lineNat d 0 1) st (qTenant d) (qRequest d) (s.roundNow p).toNat
      | none =>
        if !s.journalRoom p (s.promptEntries fn.val d) then s else
        let t := t.modRound p (fun x => { x with admitting := x.admitting ++
          [{ fn := fn.val, ring := r.val, desc := d, admittedAt := s.roundNow p }] })
        if s.replaying p then t else t.hostRead fn.val (qAddr d) (4 * qLen d))

/-! ### The prompt arrives (R229; 07 R212 to R214) -/

/-- Load digest of the partition's main weight image (16 R405; zero while there is none, log 11). -/
def State.weightDigest (s : State) (p : Nat) : BitVec 256 :=
  match ((s.part p).digestList.filter (fun d => d.kind == 1)).getLast? with
  | some d => d.value
  | none => 0

/-- Prefix digest (R212). -/
def State.prefixDigest (s : State) (p : Nat) (toks : List W32) : BitVec 256 :=
  sha3 (toBytes 32 (s.weightDigest p).toNat ++ toks.flatMap (fun t => toBytes 4 t.toNat))

/-- A live sequence as a SUBMIT makes it. -/
def newEntry (a : Admission) (toks : List W32) : RoundEntry :=
  let d := a.desc
  let k := if qSpec d then qKreq d else 0
  { state := .prefill,
    flags := { be := qBe d, promoted := false, late := false, asked := false, cancelled := false, latePolicy := qLate d, recompute := false,
               probing := false, speculative := qSpec d, everPromoted := false },
    draft := { k := k, kReq := k, drafted := 0, accepted := 0, window := 0, countdown := 0 },
    log := { fn := a.fn, ring := a.ring, map := [], draftMap := [], tokens := toks, stop := qStop d, computed := 0, reused := 0, delivered := 0,
             cancelledTokens := 0, recomputed := 0, promotedTokens := 0, admittedAt := a.admittedAt, prefixNote := 0,
             builds := none, redo := 0 },
    tenant := qTenant d, requestId := qRequest d, length := 0, promptLen := qLen d, limit := qLen d + qMax d, prefilled := 0,
    prefixEntry := none, pigeonhole := 0, promoLeft := 0, profile := qProfile d, tokenRing := qTokenRing d,
    complRing := qComplRing d, seed := qSeed d, deadline := if qHasDeadline d then qDeadline d else 0,
    waitSince := a.admittedAt, lastStep := 0, generated := 0 }

/-- A sequence behind an entry's spans: shared tokens are there, uncharged (R214). -/
def RoundEntry.attach (e : RoundEntry) (k : Nat) (x : Prefix) (note : Nat) : RoundEntry :=
  { e with prefixEntry := some k, prefilled := 256 * x.spans, length := 256 * x.spans,
           log := { e.log with map := x.map, draftMap := x.draftMap, reused := 256 * x.spans, prefixNote := note } }

/-- A base entry that a new entry may be built on (R214). -/
def State.baseFor (s : State) (p : Nat) (d : Line) (toks : List W32) (spans : Nat) : Option Prefix :=
  if !qHasBase d then none
  else match s.prefixOf p (qBase d) with
    | some (_, b) =>
      if b.ready && decide (b.spans < spans) &&
          b.digest == s.prefixDigest p (toks.take (256 * b.spans)) &&
          (s.prefixParcels p b).all (fun i => decide ((s.parcel p i).sharers < 255)) then some b else none
    | none => none

/-- Look up the request's prefix and place the sequence at a round index (R214). -/
def State.enterRound (s : State) (p i : Nat) (d : Line) (toks : List W32) (e : RoundEntry) : State :=
  let n := sharedSpans d
  if n = 0 then s.setSeq p i (some e)
  else
    let dig := s.prefixDigest p (toks.take (256 * n))
    let note (k : Nat) : RoundEntry := { e with log := { e.log with prefixNote := k } }
    match s.prefixOf p (qPrefix d) with
    | some (k, x) =>
      if x.digest ≠ dig then s.setSeq p i (some (note 6))
      else if !x.permits (qTenant d) then s.setSeq p i (some (note 5))
      else
        let t := s.modPrefix p k (fun y => { y with refs := y.refs + 1, lastUse := BitVec.ofNat 32 (s.round p).step.toNat })
        if x.ready then t.setSeq p i (some (e.attach k x 1))
        else t.setSeq p i (some { e.attach k { x with map := [], draftMap := [] } 2 with state := .waiting })
    | none =>
      match (List.range 4096).find? (fun k => (s.prefixAt p k).isNone) with
      | none => s.setSeq p i (some (note 4))
      | some k =>
        let base := s.baseFor p d toks n
        let x : Prefix :=
          { digest := dig, handle := qPrefix d, owner := qTenant d, refs := 1, spans := n, ready := false,
            map := match base with | some b => b.map | none => [],
            draftMap := match base with | some b => b.draftMap | none => [],
            base := match base with | some b => b.spans | none => 0, tokens := toks.take (256 * n),
            lastUse := BitVec.ofNat 32 (s.round p).step.toNat, share := none, redo := 0 }
        let t := s.setPrefix p k (some x)
        let t := match base with
          | some b => (s.prefixParcels p b).foldl (fun (u : State) j => u.modParcel p j (fun y => { y with sharers := y.sharers + 1 })) t
          | none => t
        let there := 256 * x.base
        t.setSeq p i (some
          { e with prefixEntry := some k, prefilled := there, length := there,
                   log := { e.log with map := x.map, draftMap := x.draftMap, reused := there, prefixNote := 3, builds := some k } })

/-- PROMPT_FETCH_COMPLETE (08 R229). -/
def execPromptFetchComplete (p : PartId) (request : W32) (tokens : Option (List W32)) (s : State) :
    Host.Outcome State Fault Refusal :=
  .next (match (s.round p.val).admitting.find? (fun a => lineNat a.desc 4 4 == request.toNat) with
    | none => s
    | some a =>
      let d := a.desc
      let t := s.modRound p.val (fun r => { r with admitting := r.admitting.filter (fun b => lineNat b.desc 4 4 != request.toNat) })
      let refuse (u : State) (st : Nat) : State :=
        u.answer p.val a.fn (qComplRing d) 1 st (qTenant d) (qRequest d) a.admittedAt.toNat
      let vocab := match (s.round p.val).model with | some m => m.vocab | none => 0
      match tokens with
      | none => refuse (t.journal p.val 0x08 (toBytes 4 2 ++ toBytes 4 a.ring)) 0x18
      | some toks =>
        if toks.length ≠ qLen d then refuse t 0x18
        else
          let t := t.journal p.val 0x04
            (toBytes 4 request.toNat ++ toBytes 4 (qLen d) ++ toBytes 32 0 ++ toks.flatMap (fun x => toBytes 4 x.toNat))
          if toks.any (fun x => decide (vocab ≤ x.toNat)) then refuse t 0x16
          else match (List.range (s.part p.val).applied.roundEntries).find? (fun i => (s.seqAt p.val i).isNone) with
            | none => refuse t 0x17
            | some i => t.enterRound p.val i d toks (newEntry a toks))

/-! ### CANCEL, PREFIX, HINT (R228, R251; 07 R215, R219) -/

/-- Answer a CANCEL, PREFIX or HINT on its request ring's completion ring. -/
def State.acted (s : State) (fn r : Nat) (d : Line) (st : Nat) : State :=
  (s.popRequest fn r).answer (fn - 1) fn (s.complRing fn r) (lineNat d 0 1) st (qTenant d) (qRequest d) 0

/-- CANCEL (08 R251): it takes effect at the next commit. -/
def execCancel (fn : FnId) (r : RingId) (s : State) : Host.Outcome State Fault Refusal :=
  .next (match s.requestHead fn.val r.val (· == 2) with
    | none => s
    | some d =>
      if lineNat d 1 1 ≠ 0 ∨ lineNat d 8 56 ≠ 0 then s.acted fn.val r.val d 0x15
      else match s.seqOf (fn.val - 1) (qRequest d) with
        | some (i, e) =>
          if e.flags.asked then s.acted fn.val r.val d 0x06
          else
            (s.setSeq (fn.val - 1) i (some { e with flags := { e.flags with asked := true } })).acted fn.val r.val d 0x05
        | none => s.acted fn.val r.val d 0x06)

/-- A PREFIX descriptor's status before it acts, and the entry it names (R228, R231). -/
def State.prefixCheck (s : State) (fn : Nat) (d : Line) : Nat ⊕ (Nat × Prefix) :=
  let op := lineNat d 12 1
  if lineNat d 1 1 ≠ 0 ∨ lineNat d 13 3 ≠ 0 ∨ lineNat d 48 16 ≠ 0 ∨ (op ≠ 1 ∧ op ≠ 2) ∨ (op = 2 ∧ lineNat d 16 32 ≠ 0) then .inl 0x15
  else match s.prefixOf (fn - 1) (BitVec.ofNat 32 (lineNat d 8 4)) with
    | some (k, e) => if e.owner = qTenant d then .inr (k, e) else .inl 0x06
    | none => .inl 0x06

/-- PREFIX op 1 (R228; 07 R213): the sharing list of an entry; a reserved op is malformed. -/
def execPrefixSetList (fn : FnId) (r : RingId) (s : State) : Host.Outcome State Fault Refusal :=
  .next (match s.requestHead fn.val r.val (· == 3) with
    | none => s
    | some d =>
      if lineNat d 12 1 = 2 then s
      else match s.prefixCheck fn.val d with
        | .inl st => s.acted fn.val r.val d st
        | .inr (k, _) =>
          let l := (List.range 16).map (fun j => lineNat d (16 + 2 * j) 2)
          (s.modPrefix (fn.val - 1) k (fun e => { e with share := some l })).acted fn.val r.val d 0x05)

/-- PREFIX op 2 (R228; 07 R215): eviction, refused while the entry is held or building. -/
def execPrefixEvict (fn : FnId) (r : RingId) (s : State) : Host.Outcome State Fault Refusal :=
  .next (match s.requestHead fn.val r.val (· == 3) with
    | none => s
    | some d =>
      if lineNat d 12 1 ≠ 2 then s
      else match s.prefixCheck fn.val d with
        | .inl st => s.acted fn.val r.val d st
        | .inr (k, e) =>
          if e.refs ≠ 0 ∨ !e.ready then s.acted fn.val r.val d 0x07
          else (s.evict (fn.val - 1) k).acted fn.val r.val d 0x05)

/-- HINT (07 R219; 08 R254): a spilled sequence off the sheet is to be fetched; for another it is ignored. -/
def execHint (fn : FnId) (r : RingId) (s : State) : Host.Outcome State Fault Refusal :=
  .next (match s.requestHead fn.val r.val (· == 4) with
    | none => s
    | some d =>
      let p := fn.val - 1
      if lineNat d 1 1 ≠ 0 ∨ lineNat d 8 56 ≠ 0 then s.acted fn.val r.val d 0x15
      else match s.seqOf p (qRequest d) with
        | some (i, e) =>
          let t := if !s.onSheet p i && s.hasParcel p e (fun x => decide (x = .spilled)) && !(s.round p).hinted.contains i then
              s.modRound p (fun x => { x with hinted := x.hinted ++ [i] }) else s
          t.acted fn.val r.val d 0x05
        | none => s.acted fn.val r.val d 0x06)

/-! ### Each millisecond (R234, R235) -/

/-- BUDGET_REFILL (08 R234; 19 R456): every ms each bucket gains rate tokens, up to depth; in a partition that is journaled the builds
do it, at the module time that their TIME records hold. -/
def execBudgetRefill (p : PartId) (s : State) : Host.Outcome State Fault Refusal :=
  .next (if s.journaled p.val then s else s.refillBudgets p.val)

/-- Weight of queue k in PART_BE_WEIGHTS as the last built sheet took it (R233). -/
def State.beWeight (s : State) (p k : Nat) : Nat := fld (s.round p).beWeights (8 * k + 7) (8 * k)

/-- BEST_EFFORT_CREDIT (08 R235): one ms's share of the cluster time not spent on latency-critical items. -/
def execBestEffortCredit (p : PartId) (spare : Nat) (s : State) : Host.Outcome State Fault Refusal :=
  .next (
    let old := s.mark (200 + p.val)
    if s.nowNat / 1000000 ≤ old then s
    else
      let qs := (List.range 3).filter (s.queueWork p.val)
      let w := (qs.map (s.beWeight p.val)).sum
      qs.foldl (fun t k =>
        if w = 0 then t else t.addCredit p.val k ((min spare 1000000 * s.beWeight p.val k / w : Nat) : Int))
        (s.setMark (200 + p.val) (old + 1)))

end Sys2Proof.Machine
end

