-- ==== Sys2Proof/Machine/Rings.lean ====
section
/-! DEFINITION. The host link, the letterbox and the rings (11 R301 to R318). -/

namespace Sys2Proof.Machine

/-! ### When firmware serves a function -/

/-- A partition's rings are served from its set-up onward (11 R319), for a confidential partition while its TDI is in RUN and
over its selective IDE stream (16 R407), and not while it replays (19 R460). -/
def State.served (s : State) (fn : Nat) : Bool :=
  s.firmwareUp && s.present fn &&
    (fn == 0 ||
      (let x := s.part (fn - 1)
       decide (x.mode = .ready) && (!x.applied.confidential || (decide (x.tdi = .running) && (s.fn fn).ide)) &&
         !s.replaying (fn - 1)))

/-- Host address of a function's letterbox (R315). -/
def State.letterbox (s : State) (fn : Nat) : Nat := 64 * fld (s.reg fn 0x20000) 63 6

/-- Rings the driver writes: types 1 to 3 (R304). -/
def State.driverWritten (s : State) (fn r : Nat) : Bool := decide (1 ≤ s.ringType fn r) && decide (s.ringType fn r ≤ 3)

/-- Bytes of one entry of a ring (R304). -/
def State.entrySize (s : State) (fn r : Nat) : Nat := if s.ringType fn r = 6 then 32 else 64

/-! ### The link (R301, R302) -/

/-- What waited for the link goes out, in order. -/
def State.flushHost (s : State) : State :=
  if s.linkGood then { s with out := s.out ++ s.unsent, unsent := [] } else s

/-- The keys of every IDE stream end with the link (16 R393; log 80). -/
def State.dropIde (s : State) : State :=
  { s with fns := Tab.mapVals (fun _ => Fn.reset) (fun (x : Fn) => { x with ide := false }) s.fns }

/-- PCIE_LINK_TRAINED (R301; line 59, 12 R329): the link was down until then, and work that waited for the full link goes on (log 72). -/
def execPcieLinkTrained (width gts : Nat) (flit : Bool) (s : State) : Host.Outcome State Fault Refusal :=
  .next (({ s.dropIde with module := { s.module with linkDegraded := !(width == 8 && gts == 128 && flit) } } : State).flushHost.latch 59)

/-- BAR0_BAD_WRITE (R302): discarded and counted. -/
def execBar0BadWrite (s : State) : Host.Outcome State Fault Refusal :=
  .next { s with module := { s.module with badWrites := satAdd 65535 s.module.badWrites 1 } }

/-! ### The letterbox (R307, R312, R313) -/

/-- Poll interval of a function in ns: RING_POLL, or 100 µs while its host is unreachable (R313, R315). -/
def State.pollInterval (s : State) (fn : Nat) : Nat :=
  if (s.fn fn).unreachable then 100000 else 100 * fld (s.reg 0 0x20020) 9 0

/-- The next moment after now at which a function's poll is due: function n's place in each interval of module time is its n-th ninth
(R312; log 74). -/
def State.nextPoll (s : State) (fn : Nat) : W64 :=
  let i := s.pollInterval fn
  let place := fn * i / 9
  BitVec.ofNat 64 (if s.nowNat < place then place else place + i * ((s.nowNat - place) / i + 1))

/-- Set a function's poll timer. -/
def State.setPoll (s : State) (fn : Nat) : State := s.modFn fn (fun x => { x with pollAt := s.nextPoll fn })

/-- Issue a poll that is due: one read of a polled function, at the poll timer of line 53 (12 R329); the partition's journal must have
room for what it brings (R309). -/
def State.poll (s : State) (fn : Nat) : State :=
  let f := s.fn fn
  if f.enable = 0 ∨ f.pollOut ∨ s.nowNat < f.pollAt.toNat ∨ !s.served fn ∨ (fn ≠ 0 ∧ !s.journalRoom (fn - 1) 2) then s
  else (((s.latch 53).setPoll fn).modFn fn (fun x => { x with pollOut := true })).hostRead fn (s.letterbox fn) 64

/-- LETTERBOX_POLL (R312). -/
def execLetterboxPoll (fn : FnId) (s : State) : Host.Outcome State Fault Refusal := .next (s.poll fn.val)

/-- The error of a driver index: out of range 1, backward 2, none 0 (R306, R307). -/
def indexError (driverWrites : Bool) (old new moduleIndex : W32) (entries : Nat) : Nat :=
  if driverWrites then
    (if entries < (new - moduleIndex).toNat then 1 else if (new - moduleIndex).toNat < (old - moduleIndex).toNat then 2 else 0)
  else
    (if entries < (moduleIndex - new).toNat then 1 else if (moduleIndex - old).toNat < (moduleIndex - new).toNat then 2 else 0)

/-- Take one ring's word of a good poll: a bad index stops the ring, a good one is its driver index (R307). -/
def State.takeWord (s : State) (fn r : Nat) (w : W32) : State :=
  if !s.ringOn fn r || (s.ring fn r).stopped then s
  else match indexError (s.driverWritten fn r) (s.ring fn r).driverIndex w (s.ring fn r).moduleIndex (s.ringEntries fn r) with
    | 0 => s.modRing fn r (fun x => { x with driverIndex := w })
    | e => s.stopRing fn r e

/-- Batch records that the driver has released are forgotten (12 R327). -/
def State.releaseBatches (s : State) (fn m : Nat) : State :=
  let tail := (s.ring fn m).driverIndex
  let head := (s.ring fn m).moduleIndex
  let keep (i : W32) : Bool := decide ((head - i).toNat ≤ (head - tail).toNat)
  (List.range 16).foldl (fun t r => t.modRing fn r (fun k => { k with batch := k.batch.filter keep })) s

/-- The release tail of the mailbox moved: the vector arms, and the message goes at once while records lie unreleased
(12 R323). -/
def State.armVector (s : State) (fn m : Nat) (old : W32) : State :=
  if (s.ring fn m).driverIndex = old then s
  else
    let t := s.releaseBatches fn m
    if (t.ring fn m).driverIndex ≠ (t.ring fn m).moduleIndex then
      (t.modFn fn (fun x => { x with armed := false })).sendMsix fn
    else t.modFn fn (fun x => { x with armed := true })

/-- A completion ring takes a reservation (R309, R317). -/
def State.reservable (s : State) (fn c : Nat) : Bool := s.ringOn fn c && !(s.ring fn c).stopped && s.ringFree fn c != 0

/-- Polls and descriptor reads that are outstanding, of every function (R302; log 72). -/
def State.readsOut (s : State) : Nat :=
  ((List.range 9).map (fun n => b2n (s.fn n).pollOut +
    ((List.range 16).map (fun r => (s.ring n r).fetching + (s.ring n r).stale.sum)).sum)).sum

/-- Descriptors of a driver-written ring that may be fetched now: none while a fetch is out, the completion ring takes no
reservation, the journal lacks room, or 1,024 reads are outstanding (R302, R309, R317). -/
def State.fetchCount (s : State) (fn r : Nat) : Nat :=
  let x := s.ring fn r
  if !s.linkGood || !s.ringOn fn r || x.stopped || !s.driverWritten fn r || x.fetching != 0 || !s.reservable fn (s.complRing fn r) then 0
  else
    let n := min (x.driverIndex - x.moduleIndex).toNat (1024 - s.readsOut)
    if s.journalRoom (fn - 1) (2 * n) then n else if s.journalRoom (fn - 1) 2 then 1 else 0

/-- Issue the descriptor fetch of one ring (11 R307; 09 R273): a 64-byte read for each entry; in a replay the descriptors are
fed instead (19 R460). -/
def State.issueFetch (s : State) (fn r : Nat) : State :=
  let n := s.fetchCount fn r
  if n = 0 then s
  else
    let base := s.ringBase fn r
    let e := s.ringEntries fn r
    let i := (s.ring fn r).moduleIndex.toNat
    let t := s.modRing fn r (fun x => { x with fetching := n })
    if fn != 0 && s.replaying (fn - 1) then t
    else t.toHost ((List.range n).map (fun k => .hostRead fn (base + 64 * ((i + k) % e)) 64))

/-- LETTERBOX_READ_COMPLETE (R307, R312, R313; 12 R323; 19 R455): a poll that fell due meanwhile is issued, one that failed is retried at
the next interval. To a partition that replays, the record fed (19 R460; log 23). -/
def execLetterboxReadComplete (fn : FnId) (data : Option Line) (s : State) : Host.Outcome State Fault Refusal :=
  .next (
    let f := s.fn fn.val
    if !f.pollOut && !(fn.val != 0 && s.replaying (fn.val - 1)) then s
    else
      let t := s.modFn fn.val (fun x => { x with pollOut := false })
      match data with
      | none =>
        let n := f.pollFails + 1
        let t := t.modFn fn.val (fun x => { x with pollFails := n, unreachable := x.unreachable || decide (16 ≤ n) })
        let t := t.setPoll fn.val
        let t := if fn.val = 0 then t else t.journal (fn.val - 1) 0x08 (toBytes 1 1 ++ toBytes 7 0)
        if n = 16 then t.post 0 1 3 fn.val n else t
      | some l =>
        let t := t.modFn fn.val (fun x => { x with pollFails := 0, unreachable := false })
        let t := if f.unreachable then t.setPoll fn.val else t
        let word (r : Nat) : W32 := BitVec.ofNat 32 (lineNat l (4 * r) 4)
        let changed := (List.range 16).any (fun r => s.ringOn fn.val r && word r != (s.ring fn.val r).driverIndex)
        let t := if fn.val ≠ 0 ∧ changed then t.journal (fn.val - 1) 0x02 (lineBytes l) else t
        let old := match s.mailbox fn.val with
          | some m => (s.ring fn.val m).driverIndex
          | none => 0
        let t := (List.range 16).foldl (fun u r => u.takeWord fn.val r (word r)) t
        let t := match s.mailbox fn.val with
          | some m => t.armVector fn.val m old
          | none => t
        let t := (List.range 16).foldl (fun u r => u.flushRing fn.val r) t
        ((List.range 16).foldl (fun u r => u.issueFetch fn.val r) t).poll fn.val)

/-! ### Descriptors (R308, R309) -/

/-- The completion ring that a descriptor's record will enter (R305). -/
def State.recordRing (s : State) (fn r : Nat) (d : Line) : Nat :=
  if s.ringType fn r = 1 ∧ lineNat d 0 1 = 0x01 ∧ s.requestClass fn (qComplRing d) then qComplRing d else s.complRing fn r

/-- Take fetched descriptors in order while their completion rings have room (R309). -/
def State.takeDescriptors (s : State) (fn r : Nat) : List Line → State
  | [] => s
  | d :: ds =>
    let c := s.recordRing fn r d
    if !s.reservable fn c then s
    else
      let i := (s.ring fn r).moduleIndex
      let t := s.modRing fn c (fun x => { x with reserved := x.reserved + 1 })
      let t := t.modRing fn r (fun x => { x with fetched := x.fetched ++ [d], moduleIndex := i + 1 })
      let t := t.journal (fn - 1) 0x03 (toBytes 1 r ++ toBytes 3 0 ++ toBytes 4 (s.ring fn r).driverIndex.toNat ++ List.replicate 32 0 ++ lineBytes d)
      let t := if s.ringType fn r = 3 then t.takeTurn (fn - 1) (ringQueue fn r) d else t
      t.takeDescriptors fn r ds

/-- DESCRIPTOR_FETCH_COMPLETE (R308, R309, R317, R318): what a fetch brings that was out when the ring was disabled is dropped. -/
def execDescriptorFetchComplete (fn : FnId) (r : RingId) (data : Option (List Line)) (s : State) :
    Host.Outcome State Fault Refusal :=
  .next (
    let n := (s.ring fn.val r.val).fetching
    if !(s.ring fn.val r.val).stale.isEmpty then s.modRing fn.val r.val (fun x => { x with stale := x.stale.drop 1 })
    else if n = 0 then s
    else
      let t := s.modRing fn.val r.val (fun x => { x with fetching := 0 })
      if !s.ringOn fn.val r.val || (s.ring fn.val r.val).stopped then t
      else match data with
        | none => t.stopRing fn.val r.val 3
        | some ls => (t.takeDescriptors fn.val r.val (ls.take n)).writeHeads fn.val)

/-- RING_ENTRY_WRITE_FAILED (R318): the ring whose entry, or whose head-block write, failed stops; the entry lost, when an entry it is, is
reported once (12 R322). Of a driver-written ring only the head block is written. -/
def execRingEntryWriteFailed (fn : FnId) (r : RingId) (lost : Option W32) (s : State) : Host.Outcome State Fault Refusal :=
  .next (
    if !s.ringWritable fn.val r.val || (s.driverWritten fn.val r.val && lost.isSome) then s
    else
      let t := s.stopRing fn.val r.val 4
      let t := if fn.val = 0 then t else t.journal (fn.val - 1) 0x08 (toBytes 1 3 ++ toBytes 3 0 ++ toBytes 4 r.val)
      match lost with
      | some id => if s.ringType fn.val r.val = 4 ∨ s.ringType fn.val r.val = 5 then t.post fn.val 1 4 (16 * fn.val + r.val) id.toNat else t
      | none => t)

/-! ### Enabling and disabling (R316, R317) -/

/-- Rings of a type that a function may have (R304). -/
def typeLimit (fn typ : Nat) : Nat :=
  if fn = 0 then (if typ = 6 then 1 else 0)
  else match typ with
    | 1 => 4 | 2 => 2 | 3 => 4 | 4 => 8 | 5 => 8 | 6 => 1 | 7 => 1 | _ => 0

/-- A completion ring that a request in the round, or one being admitted, will be answered on (R305). -/
def State.answersOn (s : State) (fn c : Nat) : Bool :=
  fn != 0 && ((s.seqs (fn - 1)).any (fun q => q.2.complRing == c) ||
    (s.round (fn - 1)).admitting.any (fun a => qComplRing a.desc == c))

/-- Whether ring r of a function may be enabled (R304, R305, R314, R316). -/
def State.mayEnable (s : State) (fn r : Nat) : Bool :=
  let typ := s.ringType fn r
  let c := s.complRing fn r
  decide (typ ≠ 0) && (fn != 0 || r == 0) &&
    decide (((List.range 16).filter (fun k => s.ringOn fn k && s.ringType fn k == typ)).length < typeLimit fn typ) &&
    s.reg fn 0x20000 != 0 && s.reg fn 0x20008 != 0 &&
    (!s.driverWritten fn r ||
      (s.ringOn fn c && s.ringType fn c == 4 && !(typ != 1 && s.answersOn fn c) &&
        (List.range 16).all (fun k =>
          !((s.ringOn fn k || (s.ring fn k).draining) && s.driverWritten fn k && s.ringType fn k != typ && s.complRing fn k == c))))

/-- A mailbox that is enabled begins with seq 0, an armed vector and no batch record in it; what is held back stays counted (12 R321,
R323, R326, R327). -/
def Fn.freshMailbox (x : Fn) : Fn :=
  { x with
    nextSeq := 0, armed := true, rings := Tab.mapVals (fun _ => Ring.reset) (fun (k : Ring) => { k with batch := none }) x.rings }

/-- Enable one ring, or record error 0x05 (R316). -/
def State.enableRing (s : State) (fn r : Nat) : State :=
  if s.ringOn fn r then s
  else if !s.mayEnable fn r then s.modRing fn r (fun x => { x with error := 5 })
  else
    let t := s.modRing fn r (fun x =>
      { x with stopped := false, stoppedBit := false, draining := false, error := 0, moduleIndex := 0, driverIndex := 0,
               batch := none })
    let t := if (t.fn fn).enable = 0 then t.setPoll fn else t
    let t := t.modFn fn (fun x => { x with enable := setFld x.enable r r 1 })
    if s.ringType fn r = 6 then t.modFn fn Fn.freshMailbox else t

/-- Enable the rings of a mask: completion rings first, so that rings of one write may name them (R316). -/
def State.enableRings (s : State) (fn : Nat) (mask : BitVec 16) : State :=
  let rs := (List.range 16).filter (fun r => bitAt mask r)
  let t := (rs.filter (fun r => !s.driverWritten fn r)).foldl (fun u r => u.enableRing fn r) s
  (rs.filter (fun r => s.driverWritten fn r)).foldl (fun u r => u.enableRing fn r) t

/-- Work that a driver-written ring has in flight: descriptors fetched, and the requests, jobs, copies, commands and sieves that came from
it and have not ended (R315, R317). -/
def State.ringBusy (s : State) (fn r : Nat) : Bool :=
  let x := s.part (fn - 1)
  !(s.ring fn r).fetched.isEmpty || (s.seqs (fn - 1)).any (fun q => q.2.log.ring == r) ||
    x.round.admitting.any (fun a => a.ring == r) || x.jobs.any (fun j => j.fn == fn && j.ring == r) ||
    s.copies.any (fun c => c.queue == ringQueue fn r) || s.memory.sieve.queue.any (fun j => j.fn == fn && j.ring == some r) ||
    x.tensors.any (fun e => e.2.tensor.any (fun k => k.destroying.any (fun w => w.1 == fn && w.2.1 == r))) ||
    x.digests.any (fun e => e.2.any (fun k => k.closing.any (fun w => w.1 == fn && w.2.1 == r)))

/-- Disable one ring: fetching stops, and the ring drains while work is in flight, or what is reserved in it; the end of a journal ring is
journaled before (R317; 19 R455). -/
def State.disableRing (s : State) (fn r : Nat) : State :=
  if !s.ringOn fn r then s
  else
    let t := if s.ringType fn r = 7 then s.journal (fn - 1) 0x0C (toBytes 1 1 ++ toBytes 7 0) else s
    let t := if s.ringType fn r = 7 then t.modPart (fn - 1) (fun x => { x with journal := { x.journal with recording := false } }) else t
    let t := t.modFn fn (fun x => { x with enable := setFld x.enable r r 0 })
    if s.driverWritten fn r then
      t.modRing fn r (fun x =>
        { x with draining := s.ringBusy fn r, fetching := 0, stale := if x.fetching = 0 then x.stale else x.stale ++ [x.fetching] })
    else t.modRing fn r (fun x => { x with draining := decide (x.reserved ≠ 0) || !x.backlog.isEmpty })

/-- Disable the rings of a mask. -/
def State.disableRings (s : State) (fn : Nat) (mask : BitVec 16) : State :=
  ((List.range 16).filter (fun r => bitAt mask r)).foldl (fun u r => u.disableRing fn r) s

/-- RING_ENABLE: bits of a write that are set (R316). -/
def execRingEnable (fn : FnId) (mask : BitVec 16) (s : State) : Host.Outcome State Fault Refusal :=
  .next (if s.bar0 fn.val then s.enableRings fn.val mask else s)

/-- RING_DISABLE: bits of a write that are cleared (R317). -/
def execRingDisable (fn : FnId) (mask : BitVec 16) (s : State) : Host.Outcome State Fault Refusal :=
  .next (if s.bar0 fn.val then s.disableRings fn.val mask else s)

/-- RING_DRAIN_COMPLETE (R317): the last reserved entry has been written, or the last work of the ring has ended. -/
def execRingDrainComplete (fn : FnId) (r : RingId) (s : State) : Host.Outcome State Fault Refusal :=
  .next (
    let x := s.ring fn.val r.val
    let rest := if s.driverWritten fn.val r.val then s.ringBusy fn.val r.val else decide (x.reserved ≠ 0) || !x.backlog.isEmpty
    if x.draining ∧ !rest then s.modRing fn.val r.val (fun k => { k with draining := false }) else s)

/-- RING_STATUS is written: W1C of the stopped bits; the rings stay stopped (R315). -/
def State.clearStopped (s : State) (fn : Nat) (mask : BitVec 16) : State :=
  (List.range 16).foldl (fun (t : State) r =>
    if bitAt mask r then t.modRing fn r (fun x => { x with stoppedBit := false }) else t) s

/-- RING_STATUS_CLEAR (R315). -/
def execRingStatusClear (fn : FnId) (mask : BitVec 16) (s : State) : Host.Outcome State Fault Refusal :=
  .next (if s.bar0 fn.val then s.clearStopped fn.val mask else s)

end Sys2Proof.Machine
end

