-- ==== Sys2Proof/Machine/Sieve.lean ====
section
/-! DEFINITION. Correction buckets, repair of shared weights, held error records, the sieve and the patrol (14 R353 to R371). -/

namespace Sys2Proof.Machine

/-! ### Corrections and held records (R353, R363) -/

/-- CE_BUCKET_DECAY (R353): each bucket loses 1 for every 10 ms of module time; above clears at 0. -/
def execCeBucketDecay (s : State) : Host.Outcome State Fault Refusal :=
  .next (
    let n := s.nowNat / 10000000
    let k := n - (Tab.get (fun _ => 0) s.time.marks 2).toNat
    if k = 0 then s
    else
      let ce := Tab.mapVals (fun _ => Ce.reset) (fun (x : Ce) =>
        { x with bucket := x.bucket - k, above := x.above && decide (k < x.bucket) }) s.memory.ce
      { s with memory := { s.memory with ce := ce },
               time := { s.time with marks := Tab.set (fun _ => 0) s.time.marks 2 (BitVec.ofNat 64 n) } })

/-- ERROR_RECORD_ACK (R363): the source's record is free. -/
def execErrorRecordAck (source : Fin 42) (s : State) : Host.Outcome State Fault Refusal :=
  .next { s with memory := { s.memory with errs := Tab.set (fun _ => none) s.memory.errs source.val none } }

/-! ### Repair (R359 to R361) -/

/-- The repair of a line, while it waits for its peer (`host` false) or the host. -/
def State.repairAt (s : State) (pln : Nat) (host : Bool) : Option Repair :=
  s.memory.repairs.find? (fun r => r.pln == pln && (match r.stage with
    | .peer _ => !host
    | .host => host
    | .lost => false))

/-- The request to the peer is over. -/
def State.endRepairRequest (s : State) (pln : Nat) : State :=
  { s with links := { s.links with sent := s.links.sent.filter (fun x => x.repair != some pln) } }

/-- The line is written whole, the record is posted and the entry leaves the queue (R359 step 4). -/
def State.repaired (s : State) (pln : Nat) (l : Line) : State :=
  let t := (s.writeLine pln l).post 0 5 3 (channelOf pln) pln
  { t with memory := { t.memory with repairs := t.memory.repairs.filter (fun r => r.pln != pln) } }.resieveNow

/-- The peer's answer to a weight-repair request, or its refusal. -/
def State.peerAnswers (s : State) (pln : Nat) (data : Option Line) : State :=
  match s.repairAt pln false with
  | none => s
  | some r =>
    let t := s.endRepairRequest pln
    match data with
    | some l => t.repaired pln l
    | none => t.repairHost pln r.region r.sources

/-- REPAIR_PEER_ANSWER (R359 steps 2 to 4). -/
def execRepairPeerAnswer (pln : BitVec 34) (data : Option Line) (s : State) : Host.Outcome State Fault Refusal :=
  .next (s.peerAnswers pln.toNat data)

/-- REPAIR_PEER_TIMEOUT (R359 step 3): no answer within 100 µs. -/
def execRepairPeerTimeout (pln : BitVec 34) (s : State) : Host.Outcome State Fault Refusal :=
  .next (match s.repairAt pln.toNat false with
    | none => s
    | some r =>
      match r.stage with
      | .peer t0 =>
        if s.nowNat < t0.toNat + 100000 then s else (s.endRepairRequest pln.toNat).repairHost pln.toNat r.region r.sources
      | _ => s)

/-- REPAIR_HOST_READ_COMPLETE (R359 steps 3 and 4, R361): when the host fails too, no source is left. -/
def execRepairHostReadComplete (pln : BitVec 34) (data : Option Line) (s : State) : Host.Outcome State Fault Refusal :=
  .next (match s.repairAt pln.toNat true with
    | none => s
    | some _ =>
      match data with
      | some l => s.repaired pln.toNat l
      | none =>
        { s with memory := { s.memory with repairs := s.memory.repairs.map (fun x =>
            if x.pln = pln.toNat then { x with stage := .lost } else x) } })

/-! ### Sieve requests (R365, R366, R368) -/

/-- Lines below `n`, of a region of m stacks in granules of 16, that fall to stack position i. -/
def linesBelow (m i n : Nat) : Nat := n / (16 * m) * 16 + min 16 (n % (16 * m) - 16 * i)

/-- Lines of a range of a region that lie in a stack. -/
def Region.linesIn (r : Region) (st first lines : Nat) : Nat :=
  if !r.stackList.contains st then 0
  else
    let i := posOf r.stackList st
    let m := if r.il = 2 then r.m else 1
    let i := if r.il = 2 then i else 0
    linesBelow m i (first + lines) - linesBelow m i first

/-- Lines of a PLN range [a, b) of one stack that lie in a region: the same rows of every bank of its channels. -/
def Region.plnsIn (r : Region) (st a b : Nat) : Nat :=
  ((List.range 1024).map (fun k =>
    let base := 2 ^ 30 * st + 2 ^ 20 * k
    if r.groupMask.testBit (k / 128) && r.stackList.contains st then
      min b (base + 16 * (r.rowBase + r.rows)) - max a (base + 16 * r.rowBase) else 0)).sum

/-- The descriptor's fields (R365). -/
def vKind (d : Line) : Nat := lineNat d 4 1
def vRegion (d : Line) : Nat := lineNat d 5 1
def vId (d : Line) : Nat := lineNat d 2 2
def vStart (d : Line) : Nat := lineNat d 8 8
def vLines (d : Line) : Nat := lineNat d 16 8
def vSummary (d : Line) : Nat := lineNat d 24 8

/-- Reserved bits or a reserved encoding (R366 status 0x3D). -/
def badSieve (kind : Nat) (d : Line) : Bool :=
  lineNat d 0 1 != 0x24 || lineNat d 1 1 != 0 || vKind d != kind || lineNat d 6 2 != 0 || lineNat d 32 32 != 0 ||
    vLines d == 0 || decide (2 ^ 34 < vLines d) || vSummary d % 256 != 0 ||
    (if kind = 0 then vStart d % 64 != 0 else vRegion d != 0 || decide (2 ^ 34 ≤ vStart d))

/-- The status that refuses a sieve of a region by partition p, or 0. -/
def State.regionSieveStatus (s : State) (p : Nat) (d : Line) : Nat :=
  let r := s.region (vRegion d)
  if badSieve 0 d then 0x3D
  else if !(r.valid && r.st == 2 && !r.fwOwned && r.readable p) then 0x3B
  else if 67108864 * r.size < vStart d + 64 * vLines d then 0x3C
  else 0

/-- A sieve enters the queue. -/
def State.addSieve (s : State) (fn : Nat) (ring region : Option Nat) (d : Line) (stackList : List Nat) : State :=
  let j : SieveJob :=
    { id := vId d, fn := fn, ring := ring, region := region, start := vStart d, lines := vLines d, summary := vSummary d,
      startedAt := s.time.now, stackList := stackList, summaries := [], cut := false }
  { s with memory := { s.memory with sieve := { s.memory.sieve with queue := s.memory.sieve.queue ++ [j] } } }

/-- SIEVE_DESCRIPTOR (R366): a kind-0 descriptor at the head of a copy ring. -/
def execSieveDescriptor (fn : FnId) (r : RingId) (s : State) : Host.Outcome State Fault Refusal :=
  .next (
    let p := fn.val - 1
    match (s.ring fn.val r.val).fetched with
    | [] => s
    | d :: _ =>
      if fn.val = 0 ∨ s.ringType fn.val r.val ≠ 3 ∨ lineNat d 0 1 ≠ 0x24 ∨ !s.works p then s
      else
        let t := s.popFetched fn.val r.val
        match s.regionSieveStatus p d with
        | 0 =>
          let g := s.region (vRegion d)
          t.addSieve fn.val (some r.val) (some (vRegion d)) d
            (g.stackList.filter (fun st => decide (0 < g.linesIn st (vStart d / 64) (vLines d))))
        | st => t.copyAnswer fn.val r.val 0x24 st (vId d) 0 0 s.nowNat [])

/-- The descriptor that MOD_SIEVE_DESC_0 to 7 hold. -/
def State.sieveDesc (s : State) : Line :=
  lineOf ((List.range 8).flatMap (fun w => toBytes 8 (s.reg 0 (0x40 + 8 * w)).toNat))

/-- MOD_SIEVE_CMD with go (R366): ignored while busy; a refused descriptor ends with its status. -/
def State.sieveGo (s : State) : State :=
  let c := s.memory.sieve
  let d := s.sieveDesc
  if c.busy then s
  else
    let st := if badSieve 1 d then 0x3D else if 2 ^ 34 < vStart d + vLines d then 0x3C else 0
    let t := { s with memory := { s.memory with sieve :=
      { c with busy := decide (st = 0), status := BitVec.ofNat 8 st, lastId := BitVec.ofNat 16 (vId d) } } }
    if st = 0 then
      t.addSieve 0 none none d ((List.range 16).filter (fun k =>
        decide (2 ^ 30 * k < vStart d + vLines d) && decide (vStart d < 2 ^ 30 * (k + 1))))
    else t

/-- MOD_SIEVE_GO (R366). -/
def execModSieveGo (fn : FnId) (s : State) : Host.Outcome State Fault Refusal :=
  .next (if fn.val = 0 ∧ s.firmwareUp then s.sieveGo else s)

/-- The lines of one stack that a sieve checks: how many, which of them hold anything, and whether it is cut short by a region
under release (R367, R371). -/
def State.sieveSpan (s : State) (j : SieveJob) (st : Nat) : Nat × List Nat × Bool :=
  let mine := s.writtenLines.filter (fun l => plnStack l == st)
  match j.region with
  | some n =>
    if j.cut then (0, [], true)
    else
      let r := s.region n
      (r.linesIn st (j.start / 64) j.lines,
        mine.filter (fun l => r.hasLine l && decide (j.start ≤ r.offsetOf l) && decide (r.offsetOf l < j.start + 64 * j.lines)), false)
  | none =>
    let a := max j.start (2 ^ 30 * st)
    let b := min (j.start + j.lines) (2 ^ 30 * (st + 1))
    let gone := s.memory.regions.filterMap (fun e => if e.2.valid && e.2.st == 3 then some e.2 else none)
    let skip := (gone.map (fun r => r.plnsIn st a b)).sum
    (b - a - skip, mine.filter (fun l => decide (a ≤ l) && decide (l < b) && !gone.any (fun r => r.hasLine l)), decide (0 < skip))

/-- A summary's 256 bytes (R368). -/
def sumBytes (id st : Nat) (z : SieveSum) (ended : Nat) : List Byte :=
  let list (n : Nat) (l : List Nat) : List Byte := (List.range n).flatMap (fun i => toBytes 8 (l.getD i 0xFFFFFFFFFFFFFFFF))
  toBytes 1 1 ++ toBytes 1 st ++ toBytes 2 id ++ toBytes 1 (b2n z.cut) ++ toBytes 3 0 ++ toBytes 8 z.checked ++
    toBytes 8 z.corrected ++ toBytes 8 z.uncorrectable ++ toBytes 8 z.poisoned ++ toBytes 8 z.blank ++ toBytes 8 z.failedSeals ++
    toBytes 8 ended ++ list 16 z.bad ++ list 8 z.sealPlns

/-- A sieve ends (R366): its completion record, or busy clears with status 0x00. -/
def State.endSieve (s : State) (j : SieveJob) : State :=
  let t := { s with memory := { s.memory with sieve := { s.memory.sieve with queue := s.memory.sieve.queue.drop 1 } } }
  match j.ring with
  | some r => t.copyAnswer j.fn r 0x24 0 j.id 0 0 j.startedAt.toNat []
  | none => { t with memory := { t.memory with sieve := { t.memory.sieve with busy := false, status := 0 } } }

/-- SIEVE_STACK_DONE (R366 to R368): the oldest sieve's next stack, in ascending order. -/
def execSieveStackDone (st : StackId) (s : State) : Host.Outcome State Fault Refusal :=
  .next (match s.memory.sieve.queue with
    | [] => s
    | j :: _ =>
      if j.stackList.head? ≠ some st.val ∨ !s.firmwareUp then s
      else
        let span := s.sieveSpan j st.val
        let got := s.sieveLines { SieveSum.zero with checked := span.1, cut := span.2.2 } span.2.1
        let z := { got.2 with blank := got.2.blank + (span.1 - span.2.1.length) }
        let t := got.1.hostWrite j.fn (j.summary + 256 * st.val) (sumBytes j.id st.val z s.nowNat)
        let t := t.post j.fn 5 4 st.val j.id
        let k := { j with stackList := j.stackList.drop 1, summaries := j.summaries ++ [(st.val, z)] }
        let t := { t with memory := { t.memory with sieve := { t.memory.sieve with queue := k :: t.memory.sieve.queue.drop 1 } } }
        if k.stackList.isEmpty then t.endSieve k else t)

/-- SIEVE (05 R150; 14 R367): a firmware packet that has a stack check a range of its lines. -/
def execSieve (st : StackId) (src : PacketSource) (pk : Packet) (first : BitVec 30) (lines : BitVec 31) (s : State) :
    Host.Outcome State Fault Refusal :=
  .next (s.packet st.val src pk 0x11 false (fun t =>
    t.firmwarePacket st.val src pk (pk.formOk 0 16) (fun u =>
      (u.sieveLines SieveSum.zero (u.writtenLines.filter (inRange st.val first.toNat lines.toNat))).1)))

/-- PATROL_PASS (R370): every line of every ready region, once every period, while the patrol runs. -/
def execPatrolPass (s : State) : Host.Outcome State Fault Refusal :=
  .next (
    let c := s.memory.sieve
    let v := s.reg 0 0x28
    if !bitAt v 8 ∨ !s.firmwareUp ∨ s.nowNat < c.patrolAt.toNat + fld v 7 0 * 3600000000000 then s
    else
      let ls := s.writtenLines.filter (fun l => match s.regionOf l with
        | some n => (s.region n).st == 2
        | none => false)
      let got := s.sieveLines SieveSum.zero ls
      let k := got.1.memory.sieve
      { got.1 with memory := { got.1.memory with sieve :=
          { k with patrolAt := s.time.now, passes := satAdd 65535 k.passes 1, found := satAdd 65535 k.found got.2.uncorrectable } } })

end Sys2Proof.Machine
end

