-- ==== Sys2Proof/Machine/PortOps.lean ====
section
/-! DEFINITION. Motra ports, training and sessions (15 R374 to R378, R383 to R385, R390, R391). -/

namespace Sys2Proof.Machine

/-! ### Ports (R374 to R377, R390, R391) -/

/-- LNK_PORT_n_CTL enable. -/
def State.portEnabled (s : State) (n : Nat) : Bool := bitAt (s.reg 0 (0x72000 + 0x20 * n)) 0

/-- A port that is not up, because its training is not over or has failed, trains again (R374; log 79). -/
def Port.trainingDue (x : Port) : Bool :=
  x.trainings != 0 && decide (x.failures < 3) && (decide (x.mode = .training) || x.reason == 1 || x.reason == 3)

/-- The state of lane Li of port Pn at the connector (21 R481; log 79). -/
def State.lane (s : State) (n i : Nat) : LaneState :=
  let x := s.port n
  if s.module.electrical ≠ .running then .highZ
  else match x.test with
    | some w => if fld w 1 0 ≠ 2 ∧ bitAt w (4 + i) then .driven else .terminated
    | none =>
      match x.mode with
      | .training => .driven
      | .up | .half => if bitAt x.lanes i then .driven else .idle
      | .down | .disabled =>
        if x.mode = .disabled ∨ !s.portEnabled n ∨ !s.links.idLock then .highZ
        else if x.trainingDue then .equalising
        else .terminated

/-- Interrupt line of a port (12 R329). -/
def State.portLine (s : State) (n : Nat) : State := s.latch (28 + n)

/-- Training begins at step 1 of R374: no port leaves the down state while id_lock is 0 (R377), nor while disabled. -/
def State.startTraining (s : State) (n : Nat) : State :=
  if !s.links.idLock || !s.portEnabled n then s
  else (s.modPort n (fun x =>
    { x with mode := .training, since := s.time.now, trainings := satAdd 65535 x.trainings 1, lanes := 0, markDue := none })).portLine n

/-- The lane map: the lowest four passing lanes, or two, or none (R374 step 3). -/
def laneMap (passing : BitVec 5) : BitVec 5 :=
  let ls := setBits 5 passing.toNat
  let use := if 4 ≤ ls.length then ls.take 4 else if 2 ≤ ls.length then ls.take 2 else []
  use.foldl (fun m i => setFld m i i 1) 0

/-- A lane's substitution is recorded in the repair map. -/
def State.laneNoted (s : State) (n i : Nat) : Bool :=
  s.sec.flash.map.contains (4, 5 * n + i) || s.spares.changes.contains (4, 5 * n + i)

/-- L4 takes the place of a lane: the record, the repair map and the wear log (R375; 20 R463, R464). -/
def State.noteLanes (s : State) (n : Nat) (map : BitVec 5) : State :=
  if !bitAt map 4 then s
  else (List.range 4).foldl (fun t i =>
    if bitAt map i || t.laneNoted n i then t
    else ((t.post 0 7 3 n i).mapChange 4 (5 * n + i)).logWear 4 n i 0) s

/-! ### Sessions (R383 to R385) -/

/-- The message of a step of the handshake, in one frame of four lines (00 R7; log 42). -/
def State.sessionMessage (s : State) (d step : Nat) : List Line :=
  let bs := Config.protocolAnswer (0x40 + step) (toBytes 2 s.links.moduleId.toNat ++ toBytes 2 d)
  (List.range 4).map (fun i => lineOf ((bs.drop (64 * i)).take 64))

/-- Send a SESSION frame: no session protects it, and its counter is 0. -/
def State.sendSession (s : State) (port d step : Nat) : State :=
  s.emit (.frame port (frameHeader 0xA 1 4 s.links.moduleId.toNat d 0 0 0) (s.sessionMessage d step))

/-- Begin the handshake over a port (R383 step 1). -/
def State.startSession (s : State) (port d : Nat) : State :=
  (s.modSession d (fun x => { x with stage := 1, retryAt := none })).sendSession port d 1

/-- The lowest port to a peer that is up. -/
def State.portTo (s : State) (d : Nat) : Option Nat := (List.range 16).find? (fun n => (s.port n).isUp && (s.port n).peer == d)

/-- An attempt fails: reason 4, and it is retried 1 s later (R383). -/
def State.sessionFails (s : State) (port d : Nat) : State :=
  let t := s.modSession d (fun x => { Session.reset with retryAt := some (s.time.now + 1000000000#64), portsDown := x.portsDown })
  t.portDown port 4

/-- The session is made (R383 step 4): the keys exist, the counters start at 0, and what waited for it leaves (R376, R385). -/
def State.sessionMade (s : State) (d : Nat) (payload : List Line) : State :=
  (s.modSession d (fun _ =>
    { Session.reset with up := true, key := Config.sessionKey (payload.flatMap lineBytes) })).flushWaiting d

/-- A handshake message arrives on a port (R383): in stage 1 the peer's chain and signature, then the encapsulation key (at the
higher ID) or the ciphertext (at the lower). A first message that finds no attempt begins one. -/
def State.sessionMessageIn (s : State) (port d : Nat) (payload : List Line) (valid : Bool) : State :=
  if !valid then s.sessionFails port d
  else
    let x := s.session d
    let lower := decide (s.links.moduleId.toNat < d)
    let first (t : State) : State :=
      let t := t.modSession d (fun y => { y with stage := 2 })
      if lower then t.sendSession port d 2 else t
    match x.stage with
    | 0 => first ((s.modSession d (fun _ => Session.reset)).startSession port d)
    | 1 => first s
    | _ => if lower then s.sessionMade d payload else (s.sendSession port d 3).sessionMade d payload

end Sys2Proof.Machine
end

