-- ==== Sys2Proof/Machine/Ports.lean ====
section
/-! DEFINITION. The commands of the Motra ports (15 R374 to R377, R382 to R385, R390, R391). -/

namespace Sys2Proof.Machine

/-- PORT_TRAIN: LNK_PORT_n_CTL train (R374, R390). -/
def State.portTrain (s : State) (n : Nat) : State :=
  if (s.port n).mode = .disabled then s else (s.modPort n (fun x => { x with failures := 0 })).startTraining n

/-- PORT_TRAIN (R374). -/
def execPortTrain (fn : FnId) (port : PortId) (s : State) : Host.Outcome State Fault Refusal :=
  .next (if fn.val = 0 ∧ s.bar0 0 then s.portTrain port.val else s)

/-- TRAINING_COMPLETE (R374 steps 2 to 6, R391): a marked lane fails; the port comes up on four or two lanes and its session is
begun when none exists, or it goes down with reason 3 or 1. -/
def execTrainingComplete (port : PortId) (passing : BitVec 5) (peer : Option (BitVec 9)) (s : State) :
    Host.Outcome State Fault Refusal :=
  .next (
    let n := port.val
    let x := s.port n
    if x.mode ≠ .training ∨ x.test.isSome then s
    else match peer with
      | none => s.portDown n 3
      | some d =>
        let map := laneMap (passing &&& ~~~x.marked)
        if map = 0 then s.portDown n 1
        else
          let m : PortMode := if popcount 5 map.toNat = 4 then .up else .half
          let t := s.modPort n (fun y => { y with mode := m, lanes := map, peer := d.toNat, failures := 0 })
          let t := (t.noteLanes n map).portLine n
          let t := t.modSession d.toNat (fun y => { y with portsDown := none })
          let t := if (t.session d.toNat).up ∨ (t.session d.toNat).stage ≠ 0 then t else t.startSession n d.toNat
          (t.post 0 7 1 n d.toNat).flushWaiting d.toNat)

/-- TRAINING_TIMEOUT (R374): not up 50 ms after training began; after three failures in a row the port stays down with
reason 2. -/
def execTrainingTimeout (port : PortId) (s : State) : Host.Outcome State Fault Refusal :=
  .next (
    let n := port.val
    let x := s.port n
    if x.isUp ∨ x.mode = .disabled ∨ !x.trainingDue ∨ x.test.isSome ∨ s.nowNat < x.since.toNat + 50000000 then s
    else
      let t := s.modPort n (fun y => { y with failures := y.failures + 1 })
      if x.failures = 2 then t.portDown n 2 else t.startTraining n)

/-- LANE_MARK (R375): a lane in service is marked failing. How far the codeword counts have gone then is not stated (log 3). -/
def execLaneMark (port : PortId) (lane : LaneId) (s : State) : Host.Outcome State Fault Refusal :=
  .next (
    let x := s.port port.val
    if !x.isUp ∨ !bitAt x.lanes lane.val ∨ bitAt x.marked lane.val then s
    else
      let v := s.freeVal
      s.useFree.modPort port.val (fun y =>
        { y with marked := setFld y.marked lane.val lane.val 1, markDue := some s.time.now,
                 corrected := satAdd 0xFFFFFF y.corrected (fld v 23 0), uncorrectable := satAdd 0xFFFF y.uncorrectable (fld v 39 24) }))

/-- LANE_RETRAIN_DUE (R375): no latency-critical packet is in flight on the port, or 100 ms have passed since the mark. -/
def execLaneRetrainDue (port : PortId) (s : State) : Host.Outcome State Fault Refusal :=
  .next (match (s.port port.val).markDue with
    | none => s
    | some t0 =>
      if s.links.sent.any (fun w => w.port == some port.val && bitAt w.header 4) ∧ s.nowNat < t0.toNat + 100000000 then s
      else s.startTraining port.val)

/-- LNK_PORT_n_CTL enable 0 (R390, R391): the peer hears EVENT 2, and the port is down with reason 6. -/
def State.disablePort (s : State) (n : Nat) : State :=
  if (s.port n).mode = .disabled then s
  else
    let d := (s.port n).peer
    let t := if (s.port n).isUp && (s.session d).ready then s.sendFrame n d 9 1 0 0 2 [] else s
    let t := t.setReg 0 (0x72000 + 0x20 * n) 0
    let t := if (s.port n).mode = .down then (t.modPort n (fun x => { x with reason := 6 })).latch (28 + n) else t.portDown n 6
    t.modPort n (fun x => { x with mode := .disabled, markDue := none })

/-- PORT_DISABLE (R390). -/
def execPortDisable (fn : FnId) (port : PortId) (s : State) : Host.Outcome State Fault Refusal :=
  .next (if fn.val = 0 ∧ s.bar0 0 then s.disablePort port.val else s)

/-- LNK_MODULE with id_lock (R377; 00 R14): the ID takes its value, then the lock applies, and the training of cold reset
begins. -/
def State.lockId (s : State) (id : BitVec 9) : State :=
  if s.links.idLock then s
  else
    let t := { s with links := { s.links with moduleId := id, idLock := true } }
    (List.range 16).foldl (fun u n => if (u.port n).mode = .down then u.startTraining n else u) t

/-- ID_LOCK (R377). -/
def execIdLock (fn : FnId) (id : BitVec 9) (s : State) : Host.Outcome State Fault Refusal :=
  .next (if fn.val = 0 ∧ s.bar0 0 then s.lockId id else s)

/-! ### Packets without an answer (R376, R382) -/

/-- A copy fails (R298): its status, unless it has one; boxes before a bad list entry fail before it (10 R295). -/
def State.failCopy (s : State) (id status : Nat) : State :=
  s.modCopy id (fun c => { c with status := if c.status = 0 ∨ c.status = 0x37 then status else c.status })

/-- A packet's answer is no longer awaited. -/
def State.dropSent (s : State) (tag : BitVec 16) (d : Nat) : State :=
  match s.links.sent.find? (fun w => w.tag == tag && w.dest == d) with
  | none => s
  | some w =>
    let t := { s with links := { s.links with sent := s.links.sent.filter (fun x => !(x.tag == tag && x.dest == d)) } }
    match w.copy with
    | some id => t.modCopy id (fun c => { c with waiting := c.waiting.filter (· != tag) })
    | none => t

/-- PORT_WAIT_TIMEOUT (R376, R392): packets of a copy that waited 50 ms for a port or a session fail. -/
def execPortWaitTimeout (copy : Nat) (s : State) : Host.Outcome State Fault Refusal :=
  .next (
    let late := s.links.sent.filter (fun w => w.copy == some copy && w.port.isNone && decide (w.since.toNat + 50000000 ≤ s.nowNat))
    if late.isEmpty then s else (late.foldl (fun t w => t.dropSent w.tag w.dest) s).failCopy copy 0x36)

/-- The qualifying port after the one a packet left on, in ascending order with wrap-around (R382). -/
def State.nextPort (s : State) (w : Sent) (last : Nat) : Option Nat :=
  let ps := s.upPorts w.partition w.dest
  match ps.find? (fun n => decide (last < n)) with
  | some n => some n
  | none => ps.head?

/-- PACKET_TIMEOUT (R382, R390): a WRITE, READ or ATOMIC unanswered for 100 µs is sent once more on the next qualifying port, then
its copy fails. -/
def execPacketTimeout (tag : BitVec 16) (s : State) : Host.Outcome State Fault Refusal :=
  .next (match s.links.sent.find? (fun w => w.tag == tag && w.port.isSome) with
    | none => s
    | some w =>
      let last := w.port.getD 0
      if w.typ = 7 ∨ s.nowNat < w.since.toNat + 100000 then s
      else
        let t := s.modPort last (fun x => { x with timeouts := satAdd 4095 x.timeouts 1 })
        if 2 ≤ w.tries then
          let t := t.journal w.partition 0x08 (toBytes 1 4 ++ toBytes 3 0 ++ toBytes 4 tag.toNat)
          let t := t.dropSent tag w.dest
          match w.copy with
          | some id => t.failCopy id 0x36
          | none => t
        else
          let port := if (t.session w.dest).ready && !t.mute w.partition w.copy then t.nextPort w last else none
          let t := match port with
            | some n => t.sendFrame n w.dest w.typ (fld w.header 4 4) (fld w.header 10 8) tag.toNat (fld w.header 127 64) w.payload
            | none => t
          { t with links := { t.links with sent := t.links.sent.map (fun x =>
              if x.tag = tag ∧ x.dest = w.dest then { x with port := port, since := s.time.now, tries := 2 } else x) } })

/-! ### Sessions (R383, R385) -/

/-- SESSION_RETRY (R383, R384): 1 s after a failure, over a port to the peer, which trains first when none is up. -/
def execSessionRetry (peer : BitVec 9) (s : State) : Host.Outcome State Fault Refusal :=
  .next (
    let d := peer.toNat
    match (s.session d).retryAt with
    | none => s
    | some t0 =>
      if s.nowNat < t0.toNat then s
      else
        let t := s.modSession d (fun x => { x with retryAt := none })
        match t.portTo d with
        | some n => (t.modSession d (fun _ => Session.reset)).startSession n d
        | none =>
          (List.range 16).foldl (fun u n =>
            if (u.port n).mode = .down ∧ (u.port n).reason = 4 ∧ (u.port n).peer = d then u.startTraining n else u) t)

/-- SESSION_PORTS_DOWN_TIMEOUT (R385): every port to the peer has been down for 1 s. -/
def execSessionPortsDownTimeout (peer : BitVec 9) (s : State) : Host.Outcome State Fault Refusal :=
  .next (match (s.session peer.toNat).portsDown with
    | none => s
    | some t0 =>
      if (s.portTo peer.toNat).isSome ∨ s.nowNat < t0.toNat + 1000000000 then s else s.endSession peer.toNat)

end Sys2Proof.Machine
end

