-- ==== Sys2Proof/Machine/Frames.lean ====
section
/-! DEFINITION. Frames received on a Motra port (15 R379 to R387; 14 R359; 19 R455, R460). -/

namespace Sys2Proof

open Sys2Proof.Machine

/-! ### Fields of a header (R380) -/

def Frame.typ (f : Frame) : Nat := fld f.header 3 0
def Frame.lc (f : Frame) : Nat := fld f.header 4 4
def Frame.src (f : Frame) : Nat := fld f.header 24 16
def Frame.tag (f : Frame) : BitVec 16 := BitVec.ofNat 16 (fld f.header 63 48)
def Frame.addr (f : Frame) : Nat := fld f.header 127 64
def Frame.counter (f : Frame) : Nat := fld f.header 191 128

/-- Device address of a frame: addr[39:0]. -/
def Frame.dev (f : Frame) : Nat := fld f.header 103 64

end Sys2Proof

namespace Sys2Proof.Machine

/-- Payload lines that a type allows. -/
def linesOk (typ n : Nat) : Bool :=
  match typ with
  | 1 | 3 => decide (1 ≤ n) && decide (n ≤ 4)
  | 4 | 8 => n == 1
  | 5 => decide (n ≤ 1)
  | 10 => decide (n ≤ 4)
  | _ => n == 0

/-- addr of a type: its reserved bits are zero and its encodings are listed (R381). -/
def addrOk (typ a : Nat) : Bool :=
  match typ with
  | 1 => decide (a < 2 ^ 42)
  | 2 => decide (a < 2 ^ 42)
  | 4 => decide (a < 2 ^ 40)
  | 6 => decide (a < 256)
  | 7 => decide (a < 2 ^ 42)
  | 9 => a == 1 || a == 2
  | _ => decide (a < 2 ^ 40)

/-- A header that keeps 00 R11 and R12 for a frame of a type to this module. -/
def State.headerOk (s : State) (f : Frame) (typ : Nat) : Bool :=
  f.typ == typ && fld f.header 7 5 == 0 && fld f.header 15 11 == 0 && fld f.header 10 8 == f.payload.length &&
    linesOk typ f.payload.length && fld f.header 31 25 == 0 && fld f.header 47 41 == 0 &&
    fld f.header 40 32 == s.links.moduleId.toNat && addrOk typ f.addr

/-- A frame is discarded and counted (R380, R384). -/
def State.discardFrame (s : State) (n : Nat) : State := s.modPort n (fun x => { x with discarded := satAdd 4095 x.discarded 1 })

/-- A counter that lies in the window of 65,536 and is new (R384). -/
def Session.fresh (x : Session) (c : Nat) : Bool := decide (x.recvTop ≤ c + 65536) && !x.seen.contains c

/-- The window after a counter. -/
def Session.take (x : Session) (c : Nat) : Session :=
  let top := max x.recvTop (c + 1)
  { x with recvTop := top, seen := (c :: x.seen).filter (fun k => decide (top ≤ k + 65536)) }

/-- Receive a frame of a type on port n (R380, R384): discarded and counted when its header is bad, no session protects it, its
tag fails or its counter is old; else its effect f. -/
def State.receive (s : State) (n : Nat) (fr : Frame) (typ : Nat) (f : State → State) : State :=
  if !(s.port n).isUp then s
  else if !s.headerOk fr typ then s.discardFrame n
  else if !(s.session fr.src).up || !fr.tagOk || !(s.session fr.src).fresh fr.counter then s.discardFrame n
  else f (s.modSession fr.src (fun x => x.take fr.counter))

/-- A frame that enters a partition (R379): one that replays accepts none (19 R460), and one that journals takes it once the
journal has room, in a MOTRA_IN record (11 R309; 19 R455). `refuse` is the effect on a port that no partition holds. -/
def State.enter (s : State) (n : Nat) (fr : Frame) (typ : Nat) (refuse : State → State) (f : State → Nat → State) : State :=
  match s.portOwner n with
  | none => s.receive n fr typ refuse
  | some p =>
    if s.replaying p || !s.journalRoom p (1 + fr.payload.length) then s
    else s.receive n fr typ (fun t =>
      f (t.journal p 0x07 (padTo 40 (toBytes 24 fr.header.toNat) ++ fr.payload.flatMap lineBytes)) p)

/-- Answer a frame on the port it came from, in its class. -/
def State.reply (s : State) (n : Nat) (fr : Frame) (typ addr : Nat) (payload : List Line) : State :=
  s.sendFrame n fr.src typ fr.lc payload.length fr.tag.toNat addr payload

/-- NAK with a reason whose codes nothing states (log 3). -/
def State.nak (s : State) (n : Nat) (fr : Frame) : State := s.useFree.reply n fr 6 (s.freeVal.toNat % 256) []

/-- The lines that a frame addresses in a partition, 64 bytes apart; none when one lies outside its regions. -/
def State.frameLines (s : State) (p addr k : Nat) : Option (List (Nat × Nat)) :=
  if addr % 64 ≠ 0 then none else (List.range k).mapM (fun i => s.translate p (addr + 64 * i))

/-! ### Requests -/

/-- What a WRITE frame writes: whole lines, or a sum by its reduce op (10 R293; R381). -/
def writePieces (reduce : Nat) (at_ : List (Nat × Nat)) (ls : List Line) : Option (List Piece) :=
  let spots := at_.map (fun e => Spot.dev e.1 e.2)
  let sum (f : Fmt) : List Piece := (spots.zip ls).map (fun e =>
    .add e.1 f 0 ((List.range (fmtEpu f)).map (fun j => elCode f e.2.toNat j)))
  match reduce with
  | 0 => some ((spots.zip ls).map (fun e => .put e.1 0 512 e.2.toNat))
  | 1 => some (sum .fp32)
  | 2 => some (sum .bf16)
  | _ =>
    ([1, 2, 3].find? (fun r => waferUnits r == ls.length)).map (fun r => [.addWafer spots r (ofBytes (ls.flatMap lineBytes))])

/-- WRITE (R379, R381): performed and answered by ACK, or refused; a WRITE of a collective goes to it (R388). -/
def execWrite (port : PortId) (fr : Frame) (s : State) : Host.Outcome State Fault Refusal :=
  .next (s.enter port.val fr 1 (fun t => t.nak port.val fr) (fun t p =>
    let reduce := fr.addr / 2 ^ 40
    match t.collWrite p reduce fr.dev fr.payload with
    | some u => u.reply port.val fr 5 0 []
    | none =>
      match (t.frameLines p fr.dev fr.payload.length).bind (fun l => writePieces reduce l fr.payload) with
      | none => t.nak port.val fr
      | some ps =>
        if !ps.all (fun x => x.spots.all (t.spotWritable p)) then t.nak port.val fr
        else match t.applyPieces p ps with
          | (u, none) => u.reply port.val fr 5 0 []
          | (u, some _) => u.nak port.val fr))

/-- Read lines for a partition; none with a bus error. -/
def State.readPlns (s : State) (p : Nat) : List Nat → State × Option (List Line)
  | [] => (s, some [])
  | l :: ls =>
    match s.readLine (ctlOf l) l p with
    | (t, none) => (t, none)
    | (t, some x) =>
      match t.readPlns p ls with
      | (u, r) => (u, r.map (x :: ·))

/-- READ (R379, R381): answered by DATA or NAK. -/
def execRead (port : PortId) (fr : Frame) (s : State) : Host.Outcome State Fault Refusal :=
  .next (s.enter port.val fr 2 (fun t => t.nak port.val fr) (fun t p =>
    match t.frameLines p fr.dev (fr.addr / 2 ^ 40 + 1) with
    | none => t.nak port.val fr
    | some l =>
      match t.readPlns p (l.map (·.2)) with
      | (u, some ls) => u.reply port.val fr 3 0 ls
      | (u, none) => u.nak port.val fr))

/-- The line that carries an old value: bytes 0 to 3 (log 42). -/
def oldLine (v : W32) : Line := BitVec.ofNat 512 v.toNat

/-- Perform an atomic at the controller (R382; 03 R77; log 42): op in bits [3:0] as 0 add, 1 max, 2 xchg, 3 cas; operand in bytes 4 to
7, the value compared in bytes 8 to 11. -/
def State.doAtomic (s : State) (p addr : Nat) (l : Line) : State × Option W32 :=
  let op := fld l 3 0
  if addr % 4 ≠ 0 ∨ 3 < op then (s, none)
  else match s.translate p addr with
    | none => (s, none)
    | some (i, pln) =>
      if !s.spotWritable p (.dev i pln) then (s, none)
      else match s.readLine (ctlOf pln) pln p with
        | (t, none) => (t, none)
        | (t, some w) =>
          let old : W32 := BitVec.ofNat 32 (lineNat w (addr % 64) 4)
          match atomicNew (0x30 + op) old (BitVec.ofNat 32 (lineNat l 4 4)) (BitVec.ofNat 32 (lineNat l 8 4)) with
          | some v => (t.writeLine pln (setLine w (addr % 64) 4 v.toNat), some old)
          | none => (t, some old)

/-- ATOMIC (R382): performed once per tag of the session; a repeated one returns the result held. -/
def execAtomic (port : PortId) (fr : Frame) (s : State) : Host.Outcome State Fault Refusal :=
  .next (s.enter port.val fr 4 (fun t => t.nak port.val fr) (fun t p =>
    match (t.session fr.src).atomics.find? (fun e => e.1 == fr.tag) with
    | some e => t.reply port.val fr 5 0 [oldLine e.2]
    | none =>
      match t.doAtomic p fr.dev (fr.payload.headD 0) with
      | (u, none) => u.nak port.val fr
      | (u, some old) =>
        (u.modSession fr.src (fun x => { x with atomics := ((fr.tag, old) :: x.atomics).take 4096 })).reply port.val fr 5 0
          [oldLine old]))

/-- REPAIR (R381; 14 R359): answered only from a locked shared-immutable region, by a line that reads without error, on a port whose
partition reads it. -/
def execRepair (port : PortId) (fr : Frame) (s : State) : Host.Outcome State Fault Refusal :=
  .next (s.receive port.val fr 7 (fun t =>
    let r := t.region (fr.addr % 256)
    let o := 64 * (fr.addr / 256)
    match t.portOwner port.val with
    | none => t.nak port.val fr
    | some p =>
      if !(r.valid && r.st == 2 && r.locked && r.sharedImm && r.readable p && t.keyed r) || decide (67108864 * r.size ≤ o) then
        t.nak port.val fr
      else match t.readLine (ctlOf (r.place o)) (r.place o) 0xFF with
        | (u, some l) => u.reply port.val fr 3 0 [l]
        | (u, none) => u.nak port.val fr))

/-! ### Answers -/

/-- The packet that an answer of a type belongs to. -/
def State.asked (s : State) (fr : Frame) (types : List Nat) : Option Sent :=
  s.links.sent.find? (fun w => w.tag == fr.tag && w.dest == fr.src && types.contains w.typ)

/-- An answer is to a packet that was sent twice (19 R455). -/
def State.retryAnswered (s : State) (p : Nat) (w : Sent) : State :=
  if w.tries = 2 then s.journal p 0x08 (toBytes 1 5 ++ toBytes 3 0 ++ toBytes 4 w.tag.toNat) else s

/-- The lines of a read of a copy have arrived: when none is outstanding the copy moves (R381; 10 R293). -/
def State.copyData (s : State) (id : Nat) (w : Sent) (ls : List Line) : State :=
  let a := fld w.header 103 64
  let t := s.modCopy id (fun c => { c with ext := c.ext ++ ls.zipIdx.map (fun e => (Spot.peer w.dest (a + 64 * e.2), e.1)) })
  let t := t.dropSent w.tag w.dest
  match t.copyAt id with
  | some c => if c.stage = 0 ∧ c.waiting.isEmpty ∧ (c.status = 0 ∨ c.status = 0x37) then t.moveCopy id else t
  | none => t

/-- DATA (R381; 14 R359): it completes a READ of a copy, or a repair. -/
def execData (port : PortId) (fr : Frame) (s : State) : Host.Outcome State Fault Refusal :=
  .next (match s.asked fr [7] with
    | some w => s.receive port.val fr 3 (fun t => t.peerAnswers (w.repair.getD 0) fr.payload.head?)
    | none =>
      s.enter port.val fr 3 id (fun t p =>
        match t.asked fr [2] with
        | none => t
        | some w =>
          match w.copy with
          | some k => (t.retryAnswered p w).copyData k w fr.payload
          | none => t.dropSent w.tag w.dest))

/-- ACK (R381): it completes a WRITE or an ATOMIC. -/
def execAck (port : PortId) (fr : Frame) (s : State) : Host.Outcome State Fault Refusal :=
  .next (s.enter port.val fr 5 id (fun t p =>
    match t.asked fr [1, 4] with
    | none => t
    | some w => (t.retryAnswered p w).dropSent w.tag w.dest))

/-- NAK (R382): its copy fails with status 0x36; the peer of a repair refuses (14 R359). -/
def execNak (port : PortId) (fr : Frame) (s : State) : Host.Outcome State Fault Refusal :=
  .next (match s.asked fr [7] with
    | some w => s.receive port.val fr 6 (fun t => t.peerAnswers (w.repair.getD 0) none)
    | none =>
      s.enter port.val fr 6 id (fun t p =>
        match t.asked fr [1, 2, 4] with
        | none => t
        | some w =>
          let u := (t.retryAnswered p w).dropSent w.tag w.dest
          match w.copy with
          | some k => u.failCopy k 0x36
          | none => u))

/-! ### Control -/

/-- COLL (R387): a member's descriptor; with all of them the members compare (log 38). -/
def execColl (port : PortId) (fr : Frame) (s : State) : Host.Outcome State Fault Refusal :=
  .next (s.enter port.val fr 8 id (fun t p =>
    let u := { t with links := { t.links with colls := t.links.colls ++ [(p, fr.src, fr.payload.headD 0, t.time.now)] } }
    (u.copies.filter (fun c => c.partition == p && c.coll.isSome)).foldl (fun v c => v.collTry c.id) u))

/-- EVENT (R381, R385, R391): 1 ends the session, and the port goes down with reason 5 and trains again; 2 says that the peer
disables the port, which then goes down with a reason that nothing states (log 42) and trains again (R374). -/
def execEvent (port : PortId) (fr : Frame) (s : State) : Host.Outcome State Fault Refusal :=
  .next (s.receive port.val fr 9 (fun t =>
    if fr.addr = 1 then
      ((t.modSession fr.src (fun _ => Session.reset)).portDown port.val 5).startTraining port.val
    else (t.useFree.portDown port.val (t.freeVal.toNat % 8)).startTraining port.val))

/-- SESSION (R383): a key-exchange message; `valid` says that what it proves checks against the device root, the nonces and the
module IDs. It is protected by no session. -/
def execSession (port : PortId) (fr : Frame) (valid : Bool) (s : State) : Host.Outcome State Fault Refusal :=
  .next (
    if !(s.port port.val).isUp then s
    else if !s.headerOk fr 10 then s.discardFrame port.val
    else s.sessionMessageIn port.val fr.src fr.payload valid)

end Sys2Proof.Machine
end

