-- ==== Sys2Proof/Machine/KloxaMatrix.lean ====
section
/-! DEFINITION. The matrix slot's operations (03 R82 to R86; 04 R106 to R108, R127). -/

namespace Sys2Proof.Machine

/-- The element of an operand at k-step k and index i, with its fine scale, exact (03 R84, 04 R107, R110, R127). -/
def Arch.operand (a : Arch) (h : W64) (addr k i : Nat) : Ex :=
  let f := shFormat h
  if shWafer h ≠ 0 then
    (waferDecode (shWafer h) (a.units (rowUnit h addr (k / 4)) (shUnits h))).getD (64 * (k % 4) + i) .zero
  else
    let n := stepsPerRow f
    let x := decodeEl f (elCode f (a.units (rowUnit h addr (k / n)) (shUnits h)) (64 * (k % n) + i))
    if shScaled h then fineMul x (a.fine h (k / 32) i) else x

/-- The coarse scale of an operand for k-block b; 1 without scales (04 R107, R110). -/
def Arch.coarseOf (a : Arch) (h : W64) (b : Nat) : Ex := if shScaled h then ex32 (a.coarse h (b / 64)) else Ex.one

/-- The FP32 value that k-block b adds to element (m, n) (04 R107 steps 1 to 3). -/
def Arch.blockSum (a : Arch) (e : QEntry) (ha hb : W64) (b m n : Nat) : W32 :=
  let k := mmaK ha
  let terms := (List.range (min 32 (k - 32 * b))).map (fun i =>
    mulEx (a.operand ha (mA e.bits) (32 * b + i) m) (a.operand hb (mB e.bits) (32 * b + i) n))
  round32 (mulEx (mulEx (sumEx terms) (a.coarseOf ha b)) (a.coarseOf hb b))

/-- The accumulator element that an mma leaves (03 R84, 04 R107). -/
def Arch.mmaEl (a : Arch) (e : QEntry) (ha hb : W64) (m n : Nat) : W32 :=
  let start := if mZero e.bits then 0#32 else a.accEl (mTile e.bits) m n
  (List.range (ceilDiv (mmaK ha) 32)).foldl (fun acc b => fadd acc (a.blockSum e ha hb b m n)) start

/-- An mma of any opcode: its checks were made at issue (R84). -/
def mmaStart (s : State) (c : Nat) (e : QEntry) : State × Begun :=
  let a := (s.cluster c).arch
  let ha := e.shapes.getD 0 0
  let hb := e.shapes.getD 1 0
  (s, .run [.acc (mTile e.bits) ((List.range 4096).map (fun i => a.mmaEl e ha hb (i / 64) (i % 64)))] none)

/-- The multiplier of an mmd: s[m_reg], 1 with m_reg s0 (R85). -/
def mmdScale (e : QEntry) : Ex := if mReg e.bits = 0 then Ex.one else ex32 (e.ops.getD 0 0)

/-- The exact product that an mmd drains for element (m, n) (R85). -/
def Arch.drained (a : Arch) (e : QEntry) (m n : Nat) : Ex := mulEx (ex32 (a.accEl (mTile e.bits) m n)) (mmdScale e)

/-- The column maximum of the exact products, rounded once to FP32 (R85). -/
def Arch.columnMax (a : Arch) (e : QEntry) (n : Nat) : W32 :=
  round32 ((List.range 63).foldl (fun mx m => maxEx mx (a.drained e (m + 1) n)) (a.drained e 0 n))

/-- The column maxima that an mmd with cmax writes (R85). -/
def Arch.columnMaxima (a : Arch) (e : QEntry) : List W32 :=
  (List.range 64).map (fun n =>
    let v := a.columnMax e n
    if mZero e.bits then fmaxN (BitVec.ofNat 32 (ofBytes (a.spBytes (64 * mB e.bits + 4 * n) 4))) v else v)

/-- An mmd: the narrowed rows, the saturated elements, and the column maxima (R85). -/
def mmdStart (s : State) (c : Nat) (e : QEntry) : State × Begun :=
  let a := (s.cluster c).arch
  let h := e.shapes.getD 0 0
  let rows := (List.range 64).map (fun m => (List.range 64).map (fun n => drainEl (shFormat h) (a.drained e m n)))
  let ws : List Write := rows.zipIdx.map (fun p => .scratch (64 * rowUnit h (mA e.bits) p.2) (rowBytes h (p.1.map (·.1))))
  let count := (rows.map (fun r => (r.filter (·.2)).length)).sum
  let maxima : List Write :=
    if mCmax e.bits then [.scratch (64 * mB e.bits) ((a.columnMaxima e).flatMap (fun w => toBytes 4 w.toNat))] else []
  (s, .run (ws ++ maxima ++ [.sat count]) none)

/-- MMA_BF16 (R83, R84). -/
def execMmaBf16 (c : ClusterId) (s : State) : Host.Outcome State Fault Refusal :=
  .next (s.startOp c .array 0x01 (fun t e => mmaStart t c e))

/-- MMA_F16 (R83, R84). -/
def execMmaF16 (c : ClusterId) (s : State) : Host.Outcome State Fault Refusal :=
  .next (s.startOp c .array 0x02 (fun t e => mmaStart t c e))

/-- MMA_F8 (R83, R84). -/
def execMmaF8 (c : ClusterId) (s : State) : Host.Outcome State Fault Refusal :=
  .next (s.startOp c .array 0x03 (fun t e => mmaStart t c e))

/-- MMA_F6 (R83, R84). -/
def execMmaF6 (c : ClusterId) (s : State) : Host.Outcome State Fault Refusal :=
  .next (s.startOp c .array 0x04 (fun t e => mmaStart t c e))

/-- MMA_F4 (R83, R84). -/
def execMmaF4 (c : ClusterId) (s : State) : Host.Outcome State Fault Refusal :=
  .next (s.startOp c .array 0x05 (fun t e => mmaStart t c e))

/-- MMA_I8 (R83, R84). -/
def execMmaI8 (c : ClusterId) (s : State) : Host.Outcome State Fault Refusal :=
  .next (s.startOp c .array 0x06 (fun t e => mmaStart t c e))

/-- MMA_I4 (R83, R84). -/
def execMmaI4 (c : ClusterId) (s : State) : Host.Outcome State Fault Refusal :=
  .next (s.startOp c .array 0x07 (fun t e => mmaStart t c e))

/-- MMA_MIX (R83, R84): widening carries every value exactly (04 R108). -/
def execMmaMix (c : ClusterId) (s : State) : Host.Outcome State Fault Refusal :=
  .next (s.startOp c .array 0x08 (fun t e => mmaStart t c e))

/-- MMD (R85). -/
def execMmd (c : ClusterId) (s : State) : Host.Outcome State Fault Refusal :=
  .next (s.startOp c .drain 0x10 (fun t e => mmdStart t c e))

end Sys2Proof.Machine
end

