-- ==== Sys2Proof/Machine/KloxaVector.lean ====
section
/-! DEFINITION. The vector slot's operations (03 R79 to R81; 04 R101 to R114, R128). -/

namespace Sys2Proof.Machine

/-! ### Register operations -/

/-- A vector register operation: the new vd from vd and va, read at start (R80). -/
def vecLanes (f : W32 → W32 → W32) (s : State) (c : Nat) (e : QEntry) : State × Begun :=
  let a := (s.cluster c).arch
  (s, .run [.vec (vVd e.bits) (List.zipWith f (a.vreg (vVd e.bits)) (a.vreg (vVa e.bits)))] none)

/-- The x and y shapes that an entry captured. -/
def QEntry.hx (e : QEntry) : W64 := e.shapes.getD 0 0
def QEntry.hy (e : QEntry) : W64 := e.shapes.getD 1 0

/-- The captured scalar operand. -/
def QEntry.s0 (e : QEntry) : W32 := e.ops.getD 0 0

/-- v.ld: lanes 0 to min(e, 64) - 1 of the row, the others 0 (R81). -/
def vldStart (s : State) (c : Nat) (e : QEntry) : State × Begun :=
  let row := ((s.cluster c).arch.rowValues (vX e.bits) e.hx e.s0.toNat).take 64
  (s, .run [.vec (vVd e.bits) (row.map round32 ++ List.replicate (64 - row.length) 0)] none)

/-- The leading bytes of a row that its first `n` elements fill: a whole unit in FP6, whose tail is zero (04 R102). -/
def leadBytes (h : W64) (n : Nat) : Nat :=
  match shFormat h with
  | .e3m2 => 64
  | .e2m3 => 64
  | f => n * fmtBits f / 8

/-- v.st: the first min(e, 64) elements of the row (R81). -/
def vstStart (s : State) (c : Nat) (e : QEntry) : State × Begun :=
  let n := min (shEls e.hy) 64
  let codes := (((s.cluster c).arch.vreg (vVa e.bits)).take n).map (fun w => narrow (shFormat e.hy) (ex32 w))
  (s, .run [.scratch (64 * rowUnit e.hy (vY e.bits) e.s0.toNat)
        ((rowBytes e.hy codes).take (leadBytes e.hy n))] none)

/-- v.bcast (R80). -/
def vbcastStart (s : State) (_c : Nat) (e : QEntry) : State × Begun :=
  (s, .run [.vec (vVd e.bits) (List.replicate 64 e.s0)] none)

/-! ### Tile operations -/

/-- Rows of a tile as exact values. -/
def Arch.tile (a : Arch) (addr : Nat) (h : W64) : List (List Ex) := (List.range (shRows h)).map (a.rowValues addr h)

/-- Writes of a tile's rows from their element codes. -/
def tileWrites (h : W64) (addr : Nat) (rows : List (List Nat)) : List Write :=
  rows.zipIdx.map (fun p => .scratch (64 * rowUnit h addr p.2) (rowBytes h p.1))

/-- x and y have equal rows and equal e (R81). -/
def sameTile (hx hy : W64) : Bool := shRows hx == shRows hy && shEls hx == shEls hy

/-- A tile operation that forms each element of y from the values of y and x and its lane (R80, R81). -/
def tileMap (f : W32 → Ex → Ex → Ex) (s : State) (c : Nat) (e : QEntry) : State × Begun :=
  if !sameTile e.hx e.hy then (s, .fault 0x02)
  else
    let a := (s.cluster c).arch
    let va := a.vreg (vVa e.bits)
    let rows := List.zipWith (fun ry rx =>
      (List.zipWith (fun y x => (y, x)) ry rx).zipIdx.map (fun p =>
        narrow (shFormat e.hy) (f (va.getD (p.2 % 64) 0) p.1.1 p.1.2)))
      (a.tile (vY e.bits) e.hy) (a.tile (vX e.bits) e.hx)
    (s, .run (tileWrites e.hy (vY e.bits) rows) none)

/-- t.silu's result for y and x (R81). -/
def siluEl (y x : Ex) : Ex :=
  let p := r32 (mulEx x (ex32 0x3FB8AA3B#32))
  let g := ex32 (exp2_32 (round32 p.neg))
  let q := r32 (addEx Ex.one g)
  let r := ex32 (BitVec.ofNat 32 (divNarrow .fp32 x q))
  r32 (mulEx y r)

/-- t.exp2's result before its narrowing to y (R81). -/
def texp2El (sv va : W32) (x : Ex) : Ex :=
  let u := r32 (addEx (r32 (mulEx x (ex32 sv))) (ex32 va).neg)
  ex32 (exp2_32 (round32 u))

/-- Elements of a row that belong to a lane (R81). -/
def laneOf (row : List Ex) (lane : Nat) : List Ex := (row.zipIdx.filter (fun p => p.2 % 64 == lane)).map (·.1)

/-- One row's step of a lane sum: the exact sum of the row's elements in the lane, added with one rounding (R81). -/
def laneSum (v : W32) (els : List Ex) : W32 := if els.isEmpty then v else round32 (addEx (ex32 v) (sumEx els))

/-- One row's step of a column maximum (R81). -/
def laneMax (v : W32) (els : List Ex) : W32 := els.foldl (fun m x => fmaxN m (round32 x)) v

/-- Fold rows into a vector register, in ascending row order (R81). -/
def foldRows (step : W32 → List Ex → W32) (v : List W32) (rows : List (List Ex)) : List W32 :=
  rows.foldl (fun v row => v.zipIdx.map (fun p => step p.1 (laneOf row p.2))) v

/-- A reduction of x into vd (R80, R81). -/
def tileFold (step : W32 → List Ex → W32) (s : State) (c : Nat) (e : QEntry) : State × Begun :=
  let a := (s.cluster c).arch
  (s, .run [.vec (vVd e.bits) (foldRows step (a.vreg (vVd e.bits)) (a.tile (vX e.bits) e.hx))] none)

/-- t.exp2: the narrowed tile and the sums of what it narrowed to (R80, R81). -/
def texp2Start (s : State) (c : Nat) (e : QEntry) : State × Begun :=
  if !sameTile e.hx e.hy then (s, .fault 0x02)
  else
    let a := (s.cluster c).arch
    let va := a.vreg (vVa e.bits)
    let f := shFormat e.hy
    let rows := (a.tile (vX e.bits) e.hx).map (fun row =>
      row.zipIdx.map (fun p => narrow f (texp2El e.s0 (va.getD (p.2 % 64) 0) p.1)))
    let sums := foldRows laneSum (a.vreg (vVd e.bits)) (rows.map (fun row => row.map (decodeEl f)))
    (s, .run (tileWrites e.hy (vY e.bits) rows ++ [.vec (vVd e.bits) sums]) none)

/-! ### t.cvt (04 R114, R128) -/

/-- Largest finite magnitude of a scalable format, emax of R114. -/
def emax (f : Fmt) : Ex := if fmtInt f then .fin false (maxCode f) 0 else decodeFp f (maxCode f)

/-- An element under its scales, saturating (R114). -/
def scaledEl (f : Fmt) (x d : Ex) : Nat :=
  match x with
  | .inf s => if fmtInt f then roundInt f s (2 ^ 64) 1 else signBit f s + maxCode f
  | x =>
    let code := divNarrow f x d
    if hasInf f && code % 2 ^ (fmtBits f - 1) == infCode f then signBit f x.sign + maxCode f else code

/-- Whether a coarse scale is usable: positive and finite (R114). -/
def coarseOk (c : W32) : Bool :=
  match ex32 c with
  | .fin false m _ => m != 0
  | _ => false

/-- The fine scale and element codes of one lane of one k-block (R114). -/
def cvtBlock (f : Fmt) (coarse : W32) (xs : List Ex) : Nat × List Nat :=
  if !coarseOk coarse then (0x7F, xs.map (fun _ => 0))
  else
    let a := xs.foldl (fun m x => maxEx m x.abs) Ex.zero
    let fine := divNarrow .ue4m3 a (mulEx (emax f) (ex32 coarse))
    if fine = 0 ∨ fine = 0x7F then (fine, xs.map (fun _ => 0))
    else (fine, xs.map (fun x => scaledEl f x (mulEx (decodeFp .ue4m3 fine) (ex32 coarse))))

/-- The element at k-step k and lane l of a scaled tile's rows (R110). -/
def atStep {α : Type} (f : Fmt) (d : α) (rows : List (List α)) (k l : Nat) : α :=
  (rows.getD (k / stepsPerRow f) []).getD (64 * (k % stepsPerRow f) + l) d

/-- t.cvt into a scaled tile: its elements and fine scales (R114). -/
def cvtScaled (a : Arch) (h : W64) (addr : Nat) (xs : List (List Ex)) : List Write :=
  let f := shFormat h
  let k := stepsPerRow f * shRows h
  let blocks := (List.range (ceilDiv k 32)).map (fun b =>
    (List.range 64).map (fun l =>
      cvtBlock f (a.coarse h (b / 64)) ((List.range (min 32 (k - 32 * b))).map (fun i => atStep f .zero xs (32 * b + i) l))))
  let code (step l : Nat) : Nat := (((blocks.getD (step / 32) []).getD l (0, [])).2).getD (step % 32) 0
  let rows := (List.range (shRows h)).map (fun r =>
    (List.range (64 * stepsPerRow f)).map (fun j => code (stepsPerRow f * r + j / 64) (j % 64)))
  tileWrites h addr rows ++
    blocks.zipIdx.map (fun p => .scratch (64 * (shScale h + 1 + p.2)) (p.1.map (fun q => BitVec.ofNat 8 q.1)))

/-- t.cvt into wafers: one wafer per row (R128). -/
def cvtWafer (h : W64) (addr : Nat) (xs : List (List Ex)) : List Write :=
  xs.zipIdx.map (fun p =>
    .scratch (64 * rowUnit h addr p.2) (toBytes (64 * shUnits h) (waferEncode (shWafer h) (p.1.map (narrow .bf16)))))

/-- t.cvt (R80, 04 R114, R128). -/
def tcvtStart (s : State) (c : Nat) (e : QEntry) : State × Begun :=
  if !sameTile e.hx e.hy then (s, .fault 0x02)
  else
    let a := (s.cluster c).arch
    let xs := a.tile (vX e.bits) e.hx
    let ws :=
      if shWafer e.hy ≠ 0 then cvtWafer e.hy (vY e.bits) xs
      else if shScaled e.hy then cvtScaled a e.hy (vY e.bits) xs
      else tileWrites e.hy (vY e.bits) (xs.map (fun row => row.map (narrow (shFormat e.hy))))
    (s, .run ws none)

/-- t.zero: every element of y becomes 0 (R80). -/
def tzeroStart (s : State) (_c : Nat) (e : QEntry) : State × Begun :=
  (s, .run (tileWrites e.hy (vY e.bits) (List.replicate (shRows e.hy) [])) none)

/-! ### The commands -/

/-- V_LD (R80). -/
def execVLd (c : ClusterId) (s : State) : Host.Outcome State Fault Refusal :=
  .next (s.startOp c .lane 0x01 (fun t e => vldStart t c e))

/-- V_ST (R80). -/
def execVSt (c : ClusterId) (s : State) : Host.Outcome State Fault Refusal :=
  .next (s.startOp c .lane 0x02 (fun t e => vstStart t c e))

/-- V_BCAST (R80). -/
def execVBcast (c : ClusterId) (s : State) : Host.Outcome State Fault Refusal :=
  .next (s.startOp c .lane 0x03 (fun t e => vbcastStart t c e))

/-- V_ADD (R80). -/
def execVAdd (c : ClusterId) (s : State) : Host.Outcome State Fault Refusal :=
  .next (s.startOp c .lane 0x04 (fun t e => vecLanes fadd t c e))

/-- V_MUL (R80). -/
def execVMul (c : ClusterId) (s : State) : Host.Outcome State Fault Refusal :=
  .next (s.startOp c .lane 0x05 (fun t e => vecLanes fmul t c e))

/-- V_MAX (R80). -/
def execVMax (c : ClusterId) (s : State) : Host.Outcome State Fault Refusal :=
  .next (s.startOp c .lane 0x06 (fun t e => vecLanes fmaxN t c e))

/-- V_EXP2 (R80, 02 R35). -/
def execVExp2 (c : ClusterId) (s : State) : Host.Outcome State Fault Refusal :=
  .next (s.startOp c .trans 0x07 (fun t e => vecLanes (fun _ a => exp2_32 a) t c e))

/-- V_RCP (R80, 02 R35). -/
def execVRcp (c : ClusterId) (s : State) : Host.Outcome State Fault Refusal :=
  .next (s.startOp c .trans 0x08 (fun t e => vecLanes (fun _ a => rcp32 a) t c e))

/-- V_RSQRT (R80, 02 R35). -/
def execVRsqrt (c : ClusterId) (s : State) : Host.Outcome State Fault Refusal :=
  .next (s.startOp c .trans 0x09 (fun t e => vecLanes (fun _ a => rsqrt32 a) t c e))

/-- T_ADD (R80, R81). -/
def execTAdd (c : ClusterId) (s : State) : Host.Outcome State Fault Refusal :=
  .next (s.startOp c .lane 0x10 (fun t e => tileMap (fun _ y x => r32 (addEx y x)) t c e))

/-- T_MULV (R80, R81). -/
def execTMulv (c : ClusterId) (s : State) : Host.Outcome State Fault Refusal :=
  .next (s.startOp c .lane 0x11 (fun t e => tileMap (fun va _ x => r32 (mulEx x (ex32 va))) t c e))

/-- T_CVT (R80, 04 R114). -/
def execTCvt (c : ClusterId) (s : State) : Host.Outcome State Fault Refusal :=
  .next (s.startOp c .lane 0x12 (fun t e => tcvtStart t c e))

/-- T_EXP2 (R80, R81). -/
def execTExp2 (c : ClusterId) (s : State) : Host.Outcome State Fault Refusal :=
  .next (s.startOp c .trans 0x13 (fun t e => texp2Start t c e))

/-- T_CMAX (R80, R81). -/
def execTCmax (c : ClusterId) (s : State) : Host.Outcome State Fault Refusal :=
  .next (s.startOp c .lane 0x14 (fun t e => tileFold laneMax t c e))

/-- T_CSUM (R80, R81). -/
def execTCsum (c : ClusterId) (s : State) : Host.Outcome State Fault Refusal :=
  .next (s.startOp c .lane 0x15 (fun t e => tileFold laneSum t c e))

/-- T_CSQ (R80, R81). -/
def execTCsq (c : ClusterId) (s : State) : Host.Outcome State Fault Refusal :=
  .next (s.startOp c .lane 0x16 (fun t e => tileFold (fun v els => laneSum v (els.map (fun x => mulEx x x))) t c e))

/-- T_SILU (R80, R81). -/
def execTSilu (c : ClusterId) (s : State) : Host.Outcome State Fault Refusal :=
  .next (s.startOp c .trans 0x17 (fun t e => tileMap (fun _ y x => siluEl y x) t c e))

/-- T_ZERO (R80). -/
def execTZero (c : ClusterId) (s : State) : Host.Outcome State Fault Refusal :=
  .next (s.startOp c .lane 0x18 (fun t e => tzeroStart t c e))

end Sys2Proof.Machine
end

