-- ==== Sys2Proof/Machine/SecOps.lean ====
section
/-! DEFINITION. Images, libraries, measurement slots, owner keys and reports (06 R188 to R190; 16 R396 to R405). -/

namespace Sys2Proof.Machine

/-! ### Images (16 R396, R397, R399) -/

/-- Bytes of an image. -/
def bytesAt (img : List Byte) (first n : Nat) : List Byte := (img.drop first).take n

/-- Number that bytes of an image spell, little-endian (00 R10). -/
def natAt (img : List Byte) (first n : Nat) : Nat := ofBytes (bytesAt img first n)

/-- What a signature covers, and the signature: the last 2,420 bytes. -/
def signedPart (img : List Byte) : List Byte := img.take (img.length - 2420)
def signaturePart (img : List Byte) : List Byte := img.drop (img.length - 2420)

/-- Security version of an image of targets 0 to 2 (R396). -/
def imageVersion (img : List Byte) : Nat := natAt img 8 4

/-- The layout of R396 for a target. -/
def imageLayout (target : Nat) (img : List Byte) : Bool :=
  decide (2484 ≤ img.length) && bytesAt img 0 4 == ascii "CNFW" && natAt img 4 1 == target && allZero (bytesAt img 5 3) &&
    natAt img 12 4 + 2484 == img.length && allZero (bytesAt img 16 48)

/-- The signature of a firmware image holds (R397). -/
def imageSigned (img : List Byte) : Bool := Config.verify (Config.varperKey 0) (signedPart img) (signaturePart img)

/-- Content of a bank of the flash: target and bank 0 A or 1 B (R397; log 8). -/
def Flash.bank (f : Flash) (target b : Nat) : Image :=
  (Tab.get (fun _ => none) f.banks (2 * target + b)).getD (Config.factoryImage (2 * target + b))

/-- The library that flash names. -/
def Flash.lib (f : Flash) : Image := f.library.getD (Config.factoryImage 6)

/-- Floor of a target, or of a library signer from 3 on (R399). -/
def Flash.floor (f : Flash) (k : Nat) : Nat := (Tab.get (fun _ => 0) f.floors k).toNat

/-- An image passes its check (R397): signature, layout and floor. -/
def Flash.passes (f : Flash) (target : Nat) (img : Image) : Bool :=
  imageLayout target img && imageSigned img && decide (f.floor target ≤ imageVersion img)

/-- The bank that boots (R397): the higher version that passes, else the other; equal versions leave the choice open. -/
def Flash.pick (f : Flash) (target : Nat) (tie : Bool) : Option Nat :=
  let va := imageVersion (f.bank target 0)
  let vb := imageVersion (f.bank target 1)
  let first := if va = vb then b2n tie else b2n (decide (va < vb))
  if f.passes target (f.bank target first) then some first
  else if f.passes target (f.bank target (1 - first)) then some (1 - first)
  else none

/-! ### Owner keys (R401) -/

/-- Owner slot 1 to 4. -/
def Flash.owner (f : Flash) (k : Nat) : Option OwnerKey := Tab.get (fun _ => none) f.owners k

/-- Filled owner slots. -/
def Flash.filled (f : Flash) : List Nat := [1, 2, 3, 4].filter (fun k => (f.owner k).isSome)

/-- An owner slot holds a right. -/
def Flash.hasRight (f : Flash) (k bit : Nat) : Bool :=
  match f.owner k with
  | some o => bitAt o.rights bit
  | none => false

/-- The owner key set as slot 4 measures it (R398). -/
def Flash.ownerSet (f : Flash) : List Byte :=
  [1, 2, 3, 4].flatMap (fun k => match f.owner k with
    | some o => padTo 1312 o.key ++ [o.rights]
    | none => padTo 1313 [])

/-! ### Libraries (06 R188 to R190) -/

/-- The key that a library's signer names: none where the slot is empty or lacks the right (R190; 16 R401). -/
def Flash.libraryKey (f : Flash) (signer : Nat) : Option (List Byte) :=
  if signer = 0 then some (Config.varperKey 2)
  else if f.hasRight signer 0 then (f.owner signer).map (·.key) else none

/-- An entry lies inside the code and keeps R189 and R190. -/
def entryOk (code : Nat) (e : W64 × W64) : Bool :=
  decide (1 ≤ leLength e) && decide (leEntry e + leLength e ≤ code) &&
    (List.range 16).all (fun r => !leWrite e r || leAddr e r) && leAddr e (lePreReg e) &&
    decide (lePreLines e ≤ 510) && lePreLines e % 2 == 0 &&
    decide (1 ≤ fld e.2 10 0) && decide (fld e.2 10 0 ≤ 1200) && fld e.2 31 11 == 0 &&
    [32, 40, 48, 56].all (fun i => !bitAt e.2 (i + 7))

/-- The library that an image holds, when its layout and every entry and instruction keep R188 to R190. -/
def parseLibrary (img : List Byte) : Option Library :=
  let n := natAt img 8 2
  let k := natAt img 10 2
  let word (i : Nat) : W64 := BitVec.ofNat 64 (natAt img i 8)
  let entries := (List.range n).map (fun i => (word (64 + 16 * i), word (72 + 16 * i)))
  let code := (List.range k).map (fun i => word (64 + 16 * n + 8 * i))
  if bytesAt img 0 4 == ascii "DRVL" && natAt img 4 2 == 1 && decide (natAt img 6 1 ≤ 4) && natAt img 7 1 == 0 &&
      decide (1 ≤ n) && decide (n ≤ 512) && decide (1 ≤ k) && decide (k ≤ 512) && allZero (bytesAt img 16 48) &&
      img.length == 64 + 16 * n + 8 * k + 2420 && entries.all (entryOk k) && code.all darvyLegal then
    some { signer := natAt img 6 1, version := BitVec.ofNat 32 (natAt img 12 4), entries := entries, code := code }
  else none

/-- Why a library image is refused (06 R190; 16 R400, R402), or the library. -/
def Flash.checkLibrary (f : Flash) (img : List Byte) : Library ⊕ Nat :=
  match parseLibrary img with
  | none => .inr 0x01
  | some l =>
    match f.libraryKey l.signer with
    | none => .inr 0x03
    | some key =>
      if !Config.verify key (signedPart img) (signaturePart img) then .inr 0x03
      else if l.version.toNat < f.floor (3 + l.signer) then .inr 0x04
      else .inl l

/-! ### Measurement slots (16 R398) -/

/-- A measurement slot. -/
def State.slotValue (s : State) (k : Nat) : BitVec 256 := Tab.get (fun _ => 0) s.sec.slots k

/-- Extend a slot with a digest. -/
def State.extend (s : State) (k : Nat) (d : BitVec 256) : State :=
  let v := sha3 (toBytes 32 (s.slotValue k).toNat ++ toBytes 32 d.toNat)
  { s with sec := { s.sec with slots := Tab.set (fun _ => 0) s.sec.slots k v } }

/-! ### Reports (16 R403 to R405) -/

/-- PART_STATE (13 R335). -/
def State.partState (s : State) (p : Nat) : W64 :=
  let x := s.part p
  let m : Nat := match x.mode with
    | .empty => 0 | .settingUp => 1 | .ready => 2 | .releasing => 3 | .lost => 4
  BitVec.ofNat 64 (m + at_ 8 x.cause + at_ 16 (s.liveJobs p).length + at_ 20 x.jobFaults)

/-- Digest entries of a partition's report, each with when its stream was closed: its own, then those of other partitions' locked
shared-immutable regions that it reads (R404, R405). -/
def State.reportEntries (s : State) (p : Nat) : List (Nat × List Byte) :=
  let own := (s.part p).digestList.map (fun d => (d.closedAt.toNat, s.digestEntry d false))
  let shared := ((List.range 8).filter (· != p)).flatMap (fun r =>
    ((s.part r).digestList.filter (fun d => d.regions.any (fun n =>
      let g := s.region n
      g.valid && g.locked && g.sharedImm && g.shareMask.testBit p))).map (fun d => (d.closedAt.toNat, s.digestEntry d true)))
  sortBy (fun a b => decide (a.1 ≤ b.1)) (own ++ shared)

/-- The attestation report of a slot, or of the module (R404). -/
def State.report (s : State) (p : Option Nat) (reqNonce : BitVec 256) : List Byte :=
  let part := match p with
    | some k => s.part k
    | none => Part.reset
  let entries := match p with
    | some k => s.reportEntries k
    | none => []
  let flags := b2n s.sec.debugOpen + at_ 1 (b2n part.applied.confidential) + at_ 2 (b2n (decide (part.tdi = .running))) +
    at_ 3 (b2n s.isLocked) + at_ 4 (b2n (decide (part.mode = .lost)))
  let config := match p with
    | some k => ([0, 8, 0x10, 0x18, 0x28, 0x48, 0x30].map (s.partReg k) ++ [s.partState k]).flatMap (fun v => toBytes 8 v.toNat)
    | none => padTo 64 []
  ascii "CNAR" ++ toBytes 2 1 ++ toBytes 1 (p.getD 0xFF) ++ toBytes 1 flags ++ toBytes 8 s.sec.bootId.toNat ++ toBytes 8 s.nowNat ++
    toBytes 2 (if s.links.idLock then s.links.moduleId.toNat else 0xFFFF) ++ toBytes 2 entries.length ++
    toBytes 4 (384 + 48 * entries.length) ++ toBytes 32 reqNonce.toNat ++
    (List.range 8).flatMap (fun k => toBytes 32 (s.slotValue k).toNat) ++ config ++ entries.flatMap (·.2)

/-! ### What waits for the end of an UNLOCK (16 R411, R412) -/

/-- A report leaves on the DOE mailbox, signed by the alias key (R403; log 11). -/
def State.sendReport (s : State) (p : Option Nat) (reqNonce : BitVec 256) : State :=
  let r := s.report p reqNonce
  s.emit (.doe (r ++ Config.sign 1 r))

/-- The slot that a measurement index names: p + 1 for slot p, 0x10 for the module; none for another index (R403). -/
def reportOf (index : Nat) : Option (Option Nat) :=
  if index = 0x10 then some none else if 1 ≤ index ∧ index ≤ 8 then some (some (index - 1)) else none

/-- Requests for measurements that waited are answered (R412). -/
def State.answerWaiting (s : State) : State :=
  s.sec.waitingReports.foldl (fun (u : State) w => match reportOf w.1 with
    | some p => u.sendReport p w.2
    | none => u) { s with sec := { s.sec with waitingReports := [] } }

/-- The debug port opens once no termination of the UNLOCK is left (R411 step 4): the record goes to every mailbox. -/
def State.openPort (s : State) : State :=
  if s.sec.opening && s.sec.terminating.isEmpty then
    (({ s with sec := { s.sec with opening := false, debugOpen := true } }).postFatalAll 8 1 0 0).answerWaiting
  else s

end Sys2Proof.Machine
end

