-- ==== Sys2Proof/Machine/Partitions.lean ====
section
/-! DEFINITION. Partition commands (13 R335 to R338), module-wide loss and its recovery (13 R347 to R350), and the end of a
termination (16 R408, R411). -/

namespace Sys2Proof.Machine

/-! ### Clusters in service and retirement (02 R29; 20 R467, R468) -/

/-- Working clusters of a quarter, in ascending physical index. -/
def State.workingIn (s : State) (q : Nat) : List Nat := ((List.range 320).map (fun i => 320 * q + i)).filter s.working

/-- N for a number of working clusters (R29); 0 in a quarter with no working control core (R468). -/
def State.nFor (s : State) (q w : Nat) : Nat := if (s.quarter q).cores = 0 then 0 else 25 * (min w 300 / 25)

/-- Marked clusters of a quarter that are not yet retired. -/
def State.markedIn (s : State) (q : Nat) : List Nat := (s.workingIn q).filter (fun c => (s.cluster c).marked)

/-- Whether the retirement in quarter q waits: another ready partition holds a share that it would renumber (R467 step 1). -/
def State.retireWaits (s : State) (p q : Nat) : Bool :=
  match s.markedIn q with
  | [] => true
  | c :: _ =>
    let first := posOf (s.workingIn q) c / 25
    (List.range 8).any (fun r => r != p &&
      (decide ((s.part r).mode = .ready) || decide ((s.part r).mode = .settingUp)) &&
      (sharesIn (s.part r).applied.shares q).any (fun sh => decide (first ≤ sh % 12)))

/-- Quarters whose marked clusters a command of partition p retires. -/
def State.retireQuarters (s : State) (p : Nat) : List Nat := (List.range 4).filter (fun q => !s.retireWaits p q)

/-- N of a quarter once its marked clusters are retired. -/
def State.nAfter (s : State) (q : Nat) : Nat := s.nFor q ((s.workingIn q).length - (s.markedIn q).length)

/-- Retire the marked clusters of a quarter (R467 step 3): N takes its new value, each is logged, and every cluster whose
quarter index changes or that enters service has its scratchpad zeroed. -/
def State.retire (s : State) (q : Nat) : State :=
  let before := s.serving q
  let gone := s.markedIn q
  let n := s.nAfter q
  let t := s.modClusters gone (fun x => { x with retired := true })
  let t := t.modQuarter q (fun x => { x with inService := n })
  let moved := (t.serving q).filter (fun c => posOf (t.serving q) c != posOf before c)
  gone.foldl (fun u c => u.logWear 2 c 0 0) (t.zeroScratch moved)

/-- Mark a cluster for retirement, once (R463, R464, R467). -/
def State.markCluster (s : State) (c : Nat) : State :=
  if (s.cluster c).marked || !s.working c then s
  else ((s.modCluster c (fun x => { x with marked := true })).mapChange 1 c).logWear 1 c 0 0

/-! ### Checks (R337) -/

/-- What the slot's registers ask for, read in the cycle busy becomes 1 (22 R496). -/
def PartCtl.want (c : PartCtl) : Applied :=
  let shares := BitVec.ofNat 48 c.shares.toNat
  let groups := BitVec.ofNat 128 (c.groups0.toNat + at_ 64 c.groups1.toNat)
  let small := decide (popcount 48 shares.toNat ≤ 12) && decide (popcount 128 groups.toNat ≤ 32)
  let spill := fld c.cfg 18 17
  { shares := shares, groups := groups, ports := BitVec.ofNat 16 c.cfg.toNat, repro := bitAt c.cfg 16, roundCfg := c.round,
    spill := spill == 1 || (spill == 0 && small), confidential := bitAt c.cfg 19, pool := c.pool,
    roundEntries := fld c.size 14 0, maxJobs := fld c.cfg 33 30 }

/-- The registers of slot p as a command reads them. -/
def State.readSlot (s : State) (p op : Nat) : PartCtl :=
  { busy := true, status := 0, partition := p, op := op, shares := s.partReg p 0,
    groups0 := s.partReg p 8, groups1 := s.partReg p 0x10, cfg := s.partReg p 0x18, pool := s.partReg p 0x30,
    size := s.partReg p 0x50, round := s.partReg p 0x48 }

/-- Other partitions that hold resources. -/
def State.others (s : State) (p : Nat) : List Nat := (List.range 8).filter (fun r => r != p && s.holds r)

/-- A share that belongs to another partition, is out of service, or would go out of service (0x03). -/
def State.badShares (s : State) (p : Nat) (a : Applied) : Bool :=
  (setBits 48 a.shares.toNat).any (fun sh =>
    let q := sh / 12
    let n := if (s.retireQuarters p).contains q then min (s.quarter q).inService (s.nAfter q) else (s.quarter q).inService
    (s.others p).any (fun r => bitAt (s.part r).applied.shares sh) || decide (n < 25 * (sh % 12 + 1)))

/-- A group that belongs to another partition or is out of service (20 R473), or one removed that holds a region (0x04). -/
def State.badGroups (s : State) (p op : Nat) (a : Applied) : Bool :=
  (setBits 128 a.groups.toNat).any (fun g =>
    (s.others p).any (fun r => bitAt (s.part r).applied.groups g) || bitAt (s.stack (g / 8)).spare.lost (g % 8)) ||
    (op == 2 && (s.ownedRegions p).any (fun n => !(s.region n).fwOwned &&
      (s.region n).stackList.any (fun st => (List.range 8).any (fun k =>
        (s.region n).groupMask.testBit k && !bitAt a.groups (8 * st + k)))))

/-- No share or no group, or a quarter with shares whose quadrant has no group (0x05). -/
def Applied.lacks (a : Applied) : Bool :=
  a.shares == 0 || a.groups == 0 ||
    (List.range 4).any (fun q => !(sharesIn a.shares q).isEmpty && (List.range 32).all (fun k => !bitAt a.groups (32 * q + k)))

/-- PART_PARCEL_POOL names regions that break 07 R199 (0x08). -/
def State.badPool (s : State) (p : Nat) (a : Applied) : Bool :=
  let n := fld a.pool 12 8
  let ids := (List.range n).map (fun i => fld a.pool 7 0 + i)
  decide (16 < n) ||
    ids.any (fun i =>
      let r := s.region i
      !(decide (i < 256) && r.valid && r.compute && r.st == 2 && r.owner == p && !r.fwOwned && r.il == 0 && r.span == 0) ||
        ids.any (fun j => i != j && (s.region j).stackField == r.stackField))

/-- The status of SETUP (op 1), RECONFIGURE (2) or RELEASE (3), by the checks of R337 in order; `fits` says that firmware's tables fit
in the regions planned for them, since nothing states their sizes (log 70). -/
def State.partStatus (s : State) (p op : Nat) (a : Applied) (fits : Bool) : Nat :=
  let x := s.part p
  if op = 1 ∧ x.mode ≠ .empty ∨ op = 2 ∧ x.mode ≠ .ready ∧ x.mode ≠ .lost ∨ op = 3 ∧ x.mode = .empty then 0x01
  else if op = 3 then
    (if (s.ownedRegions p).any (fun n => (s.region n).sharedImm && decide ((s.region n).shareMask &&& (0xFF ^^^ 2 ^ p) ≠ 0)) then
      0x0C else 0)
  else if !s.present (p + 1) then 0x02
  else if s.badShares p a then 0x03
  else if s.badGroups p op a then 0x04
  else if a.lacks then 0x05
  else if (s.others p).any (fun r => ((s.part r).applied.ports &&& a.ports) != 0) then 0x06
  else if 16384 < a.roundEntries + ((s.others p).map (fun r => (s.part r).applied.roundEntries)).sum then 0x07
  else if s.badPool p a then 0x08
  else if (a.confidential && s.sec.debugOpen) || (op == 2 && (a.confidential != x.applied.confidential || s.tdiHeld p)) then 0x09
  else if (s.fwPlan p a).isNone || !fits then 0x0A
  else if op = 2 ∧ (!(s.liveJobs p).isEmpty ∨ !(s.seqs p).isEmpty) then 0x0B
  else if op = 2 ∧ x.mode = .lost ∧ (List.range 136).any (fun n => (s.site n).throttling) then 0x0D
  else 0

/-! ### The commands (R336, R338) -/

/-- Start a partition command: ignored while one runs; a refused one ends with its status and changes nothing else. -/
def State.partCommand (s : State) (fn p op : Nat) (f : State → Applied → State) : State :=
  if fn ≠ 0 ∨ s.partCtl.busy ∨ !s.firmwareUp then s
  else
    let c := s.readSlot p op
    let fits := bitAt s.freeVal 0
    match s.partStatus p op c.want fits with
    | 0 => { (f (if op = 3 then s else s.useFree) c.want) with partCtl := c }
    | st => { (if st = 1 then s else s.useFree) with partCtl := { c with busy := false, status := BitVec.ofNat 8 st } }

/-- The registers apply: marked clusters are retired where R467 allows, the slot holds what they name, firmware's regions are placed, windows and scratchpads
are zeroed before anything of the partition can reach them (02 R43), the clusters' scalar read caches are empty (02 R51), and
FEAT_PART_CLUSTERS takes its value (02 R54). -/
def State.applyPart (s : State) (p : Nat) (a : Applied) : State :=
  let old := (s.part p).applied.shares
  let t := ((s.retireQuarters p).foldl State.retire s).modPart p (fun x => { x with applied := a })
  let t := t.zeroChanged old a.shares
  let t := t.modClusters (t.partClusters p) (fun x => { x with cache := [] })
  let t := t.createFw p a
  t.modPart p (fun x => { x with feat := t.featPartNow p })

/-- What a partition command does when it is accepted (R338): SETUP assigns the resources and the state is setting up; RECONFIGURE
applies every register of the slot again; RELEASE begins. -/
def State.partAct (s : State) (p op : Nat) (a : Applied) : State :=
  match op with
  | 1 => (s.applyPart p a).modPart p (fun x => { x with mode := .settingUp })
  | 2 => s.applyPart p a
  | _ => s.beginRelease p

/-- A partition command of function fn: op 1 SETUP, 2 RECONFIGURE, 3 RELEASE (R336, R338). -/
def State.partOp (s : State) (fn p op : Nat) : State := s.partCommand fn p op (fun t a => t.partAct p op a)

/-- SETUP (R338): the state is setting up and the resources are assigned. -/
def execSetup (fn : FnId) (p : PartId) (s : State) : Host.Outcome State Fault Refusal := .next (s.partOp fn.val p.val 1)

/-- RECONFIGURE (R338): every register of the slot is applied again. -/
def execReconfigure (fn : FnId) (p : PartId) (s : State) : Host.Outcome State Fault Refusal := .next (s.partOp fn.val p.val 2)

/-- RELEASE (R338). -/
def execPartitionRelease (fn : FnId) (p : PartId) (s : State) : Host.Outcome State Fault Refusal := .next (s.partOp fn.val p.val 3)

/-- Marks of module time from which budgets and credit of a partition are served (08 R234, R235). -/
def State.startMarks (s : State) (p : Nat) : State :=
  let ms := BitVec.ofNat 64 (s.nowNat / 1000000)
  let m := Tab.set (fun _ => 0) s.time.marks (100 + p) ms
  { s with time := { s.time with marks := Tab.set (fun _ => 0) m (200 + p) ms } }

/-- SETUP ends (R338; 16 R393, R406): keys are made, and the state is ready at step 0. -/
def State.finishSetup (s : State) (p : Nat) : State :=
  let c := s.partCtl
  let secret := (s.part p).applied.confidential
  let t := if secret then (s.blankGroups p).leaveShares p else s
  let t := (if secret then t.newPair p else t).readyFw p
  let t := t.modPart p (fun x =>
    { Part.reset with
      mode := .ready, feat := x.feat, cause := x.cause, applied := x.applied, jobs := x.jobs, nextJob := x.nextJob, sliceAt := s.time.now,
      slice := fld c.cfg 29 20, tensors := x.tensors })
  ((t.newPoste p).startMarks p).takeBudgets p

/-- RECONFIGURE ends (R338): a lost slot's tables are rebuilt and its poste restante key is made again. -/
def State.finishReconfigure (s : State) (p : Nat) : State :=
  let t := s.readyFw p
  if (t.part p).mode = .lost then
    ((t.modPart p (fun x => { x with mode := .ready })).newPoste p).startMarks p
  else t

/-- PARTITION_COMMAND_COMPLETE (R336, R338; 20 R467): clusters that fail the test of a SETUP or RECONFIGURE are marked; a
RELEASE waits until nothing of the partition moves, and for a termination of it (16 R412). -/
def execPartitionCommandComplete (failing : List Nat) (s : State) : Host.Outcome State Fault Refusal :=
  .next (
    let c := s.partCtl
    let p := c.partition
    if !c.busy ∨ (c.op = 3 ∧ (!s.quiet p ∨ s.sec.terminating.any (fun e => e.1 == p))) then s
    else
      let t := if c.op = 3 then s
        else (failing.filter (s.partClusters p).contains).foldl State.markCluster s
      let t := match c.op with
        | 1 => t.finishSetup p
        | 2 => t.finishReconfigure p
        | _ => t.finishRelease p
      { t with partCtl := { t.partCtl with busy := false, status := 0 } })

/-! ### Module-wide loss (R347 to R350) -/

/-- The held record and the interrupt line of a parity error: which bridge or fabric met it is a free choice (12 R329;
14 R362; log 3). -/
def State.parityError (s : State) : State :=
  let v := s.freeVal.toNat
  let source := 32 + v % 10
  let quarter := if source < 38 then (v / 16) % 4 else source - 38
  (s.useFree.recordError source 5 5 0 0xFF).latch (24 + quarter)

/-- MODULE_WIDE_LOSS (R345, R347, R348, R350): causes 1 to 5 of 12 R322; cause 4 needs a line under repair for which no source
is left (14 R361), or a bad line of a firmware-owned region of the module (14 R356). -/
def execModuleWideLoss (cause : Fin 8) (s : State) : Host.Outcome State Fault Refusal :=
  .next (
    if cause.val = 0 ∨ 5 < cause.val ∨ (cause.val = 4 ∧ !s.memory.fwLost ∧ !s.memory.repairs.any (fun r => decide (r.stage = .lost))) then s
    else (if cause.val = 3 then s.parityError else s).wideLoss cause.val)

/-- The core that caused the loss failed its retest: its quarter's spare takes its place, or, with no working core left, the
quarter has N 0 (20 R468). -/
def State.dropCore (s : State) (c : Nat) : State :=
  let t := (s.modQuarter (c / 4) (fun x => { x with cores := setFld x.cores (c % 4) (c % 4) 0 })).mapChange 3 c
  let t := t.logWear 3 c 0 0
  if (t.quarter (c / 4)).cores = 0 then t.modQuarter (c / 4) (fun x => { x with inService := 0 }) else t

/-- MODULE_RESTART_COMPLETE (R347, R348; 12 R322; 20 R468, R475): the bridges and the fabric passed, firmware is ready again, and
the loss is reported to every mailbox and for each partition. An interrupted release and a die copy go on,
and locked shared-immutable regions are sieved (14 R371). -/
def execModuleRestartComplete (fabricOk : Bool) (failedCores : List Nat) (s : State) : Host.Outcome State Fault Refusal :=
  .next (
    if s.module.stage ≠ 6 ∨ !fabricOk then s
    else
      let cause := s.module.lossCause
      let t := { s with module := { s.module with stage := 4 } }
      let t := match t.spares.retestCore with
        | some c => if failedCores.contains c then t.dropCore c else t
        | none => t
      let t := { t with spares := { t.spares with retestCore := none },
                        stackTab := Tab.mapVals (fun _ => Stack.reset) (fun (k : Stack) =>
                          if k.spare.state = 1 then { k with spare := { k.spare with progress := 0, holding := false } } else k) t.stackTab }
      let t := t.postFatalAll 0 2 0 cause
      let t := (List.range 8).foldl (fun u p =>
        if u.holds p then (u.postFatal 0 3 2 p cause).postFatal (p + 1) 3 2 p cause else u) t
      let t := (List.range 8).foldl (fun u p =>
        if (u.part p).mode == .releasing && !u.sec.terminating.any (fun e => e.1 == p) then u.finishRelease p else u) t
      t.resieveNow)

/-! ### The end of a termination (16 R408, R411, R412) -/

/-- TERMINATION_COMPLETE (16 R408): regions released, groups blanked, windows and scratchpads zeroed, the state empty and one
record with the cause. A RELEASE of the partition in progress ends with it (16 R412). -/
def execTerminationComplete (p : PartId) (s : State) : Host.Outcome State Fault Refusal :=
  .next (match s.sec.terminating.find? (fun e => e.1 == p.val) with
    | none => s
    | some e =>
      if !s.quiet p.val || s.module.stage != 4 then s
      else
        let t := s.finishRelease p.val
        let t := { t with sec := { t.sec with terminating := t.sec.terminating.filter (fun x => x.1 != p.val) } }
        let t := if t.partCtl.busy && t.partCtl.op == 3 && t.partCtl.partition == p.val then
            { t with partCtl := { t.partCtl with busy := false, status := 0 } } else t
        ((t.postFatal 0 8 2 p.val e.2).postFatal (p.val + 1) 8 2 p.val e.2).openPort)

end Sys2Proof.Machine
end

