-- ==== Sys2Proof/Machine/RoundPackets.lean ====
section
/-! DEFINITION. The packets that the round builder sends to a stack for one layer (05 R149, R158, R161; 06 R191, the A128 registers; 07
R195, R202, R203, R211; 08 R224, R237, R240; log 34). -/

namespace Sys2Proof.Machine

/-- A query set: item number, token, key/value head of the model, the head within a pair, and the eight query rows of a partial (07 R193,
R202, R203). -/
structure QuerySet where
  item : Nat
  token : Nat
  head : Nat
  sub : Nat
  part : Nat
deriving DecidableEq, Repr

/-- A run: its parcels (ledger indices, ascending parcel number), and its partials (07 R202). -/
structure Run where
  parcels : List Nat
  partials : List QuerySet
  head : Nat
  lc : Bool
  /-- stripe of its parcels (07 R201, R211) -/
  stripe : Nat
deriving DecidableEq, Repr

/-- Partials of one token of an item on a head: its G rows, 8 to a partial (07 R202). -/
def Model.partialsAt (m : Model) (draft : Bool) (n head t : Nat) : List QuerySet :=
  (List.range (if m.headDim ≤ 64 then 2 else 1)).flatMap (fun b =>
    (List.range (ceilDiv (m.group' draft) 8)).map (fun k => { item := n, token := t, head := head, sub := b, part := k }))

/-- Tokens that an item scores in the layer of a number: all its own in the main model, one in each pass of the draft model (R237). -/
def Item.scored (it : Item) (m : Model) (layer : Nat) : List Nat :=
  if m.isDraft layer then (if it.kind = .draft ∧ m.passOf layer < it.k then [m.passOf layer] else [])
  else if it.main then List.range it.tokens
  else []

/-- Position after the last token that an item scores in the layer of a number. -/
def Item.endAt (it : Item) (m : Model) (layer : Nat) : Nat :=
  it.position + (if m.isDraft layer then m.passOf layer + 1 else it.tokens)

/-- Ledger index of the parcel of the layer of a number and a head in a set. -/
def Model.parcelIn (m : Model) (base layer head : Nat) : Nat :=
  base + (m.layerOf layer * m.heads' (m.isDraft layer) + head) * m.cols

/-- Parcels that one run covers, with their stripe: those of one engine in one stripe, which are at most four, in ascending number (07 R201,
R202). -/
def State.runGroups (s : State) (p : Nat) (is : List Nat) : List (Nat × List Nat) :=
  let key (i : Nat) : Nat × Nat := ((s.parcel p i).number / 4, (s.parcel p i).pln / 2 ^ 22)
  ((is.map key).eraseDups).flatMap (fun k =>
    (chunks 4 is.length (is.filter (fun i => key i == k))).map (fun g => (k.1, g)))

/-- The runs that score parcels of a head for partials: at most four of each (07 R202). -/
def State.mkRuns (s : State) (p : Nat) (m : Model) (layer head : Nat) (lc : Bool) (bases : List Nat) (ps : List QuerySet) : List Run :=
  (s.runGroups p (bases.map (fun b => m.parcelIn b layer head))).flatMap (fun g =>
    (chunks 4 ps.length ps).map (fun q => { parcels := g.2, partials := q, head := head, lc := lc, stripe := g.1 }))

/-- Runs of an item on a head: its private parcels that stay in the stack, and the shared ones of which it is the first reader, the
latter with every sharer's partials in ascending round index (07 R202). -/
def State.runsFor (s : State) (p : Nat) (m : Model) (its : List Item) (layer st n : Nat) (it : Item) (head : Nat) : List Run :=
  let draft := m.isDraft layer
  let reads (x : Item) (b : Nat) : Bool :=
    !(x.scored m layer).isEmpty && (s.itemBases p x).any (fun y => y.1 == b && y.2.2 == draft)
  let bases := ((s.itemBases p it).filter (fun b => b.2.2 == draft && s.staysIn p m its b.1 draft st)).map (·.1)
  let readers (b : Nat) : List Nat := (its.zipIdx.filter (fun x => reads x.1 b)).map (·.2)
  let partials (k : Nat) : List QuerySet := match its[k]? with
    | some x => (x.scored m layer).flatMap (m.partialsAt draft k head)
    | none => []
  let byIndex (l : List Nat) : List Nat :=
    sortBy (fun a b => decide (((its[a]?).map (·.index)).getD 0 ≤ ((its[b]?).map (·.index)).getD 0)) l
  let first := bases.filter (fun b => (s.parcel p b).isShared && (readers b).headD n == n)
  ((first.map readers).eraseDups).flatMap (fun rs =>
      s.mkRuns p m layer head (!it.be) (first.filter (fun b => readers b == rs)) ((byIndex rs).flatMap partials)) ++
    s.mkRuns p m layer head (!it.be) (bases.filter (fun b => !(s.parcel p b).isShared)) (partials n)

/-- The runs of a layer in a stack, in the order of 07 R211: items as they stand on the sheet, and within one in ascending stripe. -/
def State.layerRuns (s : State) (p : Nat) (m : Model) (its : List Item) (layer st : Nat) : List Run :=
  its.zipIdx.flatMap (fun x =>
    if (x.1.scored m layer).isEmpty then []
    else sortBy (fun (a b : Run) => decide (a.stripe ≤ b.stripe))
      ((m.headsAt layer st).flatMap (s.runsFor p m its layer st x.2 x.1)))

/-- Query sets that runs name, each with the number of its runs, in order of their first run. -/
def querySets (rs : List Run) : List (QuerySet × Nat) :=
  ((rs.flatMap (·.partials)).eraseDups).map (fun q => (q, (rs.filter (fun r => r.partials.contains q)).length))

/-- Merge slots of a partition in a stack that are not open, ascending (05 R161). -/
def State.freeMergeSlots (s : State) (p st : Nat) : List Nat :=
  (List.range 512).filter (fun n => s.holdsGroup p (8 * st + n / 64) && (s.slot st n).isNone)

/-- Slots given to query sets: one for each 64 runs (07 R203). -/
def giveSlots : List (QuerySet × Nat) → List Nat → List (QuerySet × List Nat)
  | [], _ => []
  | (q, n) :: qs, free =>
    let k := ceilDiv n 64
    (q, free.take k) :: giveSlots qs (free.drop k)

/-- A command packet. -/
def mkPacket (typ tag pc bg index mask : Nat) (lc : Bool) (payload : List W64) : Packet :=
  { w0 := BitVec.ofNat 64 (typ + at_ 8 tag + at_ 16 pc + at_ 17 bg + at_ 19 index + at_ 32 mask),
    w1 := BitVec.ofNat 64 (payload.length + at_ 12 (b2n lc)), payload := payload }

/-- A MERGE_OPEN: slot, partials expected, output and count offsets, which the builder chooses (05 R158, log 11). -/
def openPacket (slot expected n : Nat) : Packet :=
  mkPacket 7 (slot % 256) 0 0 0 0 true
    [BitVec.ofNat 64 (slot + at_ 9 expected),
     BitVec.ofNat 64 (64 * ((Config.sheetOffset 7 n).toNat % 2 ^ 26) + at_ 32 (4 * ((Config.sheetOffset 8 n).toNat % 2 ^ 30))), 0]

/-- 1 / √D as FP32 and log2 e (07 R195). -/
def invSqrtDim (d : Nat) : W32 := if d = 64 then 0x3E000000#32 else 0x3DB504F3#32
def log2e : W32 := 0x3FB8AA3B#32

/-- Score multiplier of a parcel (07 R195). -/
def Parcel.score (x : Parcel) (m : Model) (item : Nat) : W32 :=
  fmul (fmul (fmul x.kScale (Config.queryScale item)) (invSqrtDim m.headDim)) log2e

/-- A run's START with the registers of A128 or A064 (06). `number` is the run's place in the layer, `slots` the slot of each of
its partials. -/
def State.runPacket (s : State) (p : Nat) (m : Model) (its : List Item) (layer : Nat) (r : Run) (number : Nat) (slots : List Nat) : Packet :=
  let xs := r.parcels.map (s.parcel p)
  let pln := (xs.head?.map (·.pln)).getD 0
  let item := (r.partials.head?.map (·.item)).getD 0
  let stop := match its[item]? with | some it => it.endAt m layer | none => 0
  let c1 := (slots.zipIdx.map (fun x => at_ (9 * x.2) x.1)).sum + at_ 36 (2 ^ slots.length - 1) + at_ 40 xs.length
  let word (j : Nat) : W64 := match xs[j]? with
    | some x =>
      let valid := if x.isShared then 256 else min 256 (stop - 256 * x.number)
      BitVec.ofNat 64 (x.pln % 2 ^ 30 + at_ 40 x.number + at_ 52 (valid - 1))
    | none => 0
  let mult (j : Nat) : W64 := match xs[j]? with
    | some x => BitVec.ofNat 64 ((x.score m item).toNat + at_ 32 x.vScale.toNat)
    | none => 0
  mkPacket 2 (number % 256) (plnPc pln) (plnBg pln) (if m.headDim = 64 then 2 else 1) (2 ^ plnChannel pln) r.lc
    ([BitVec.ofNat 64 ((Config.sheetOffset 6 number).toNat % 2 ^ 30), BitVec.ofNat 64 c1, 0, 0] ++
      (List.range 4).map word ++ (List.range 4).map mult)

/-- The slot that a query set's run names: the one of its 64 runs (07 R203). -/
def slotOfRun (given : List (QuerySet × List Nat)) (before : List Run) (q : QuerySet) : Nat :=
  match given.find? (fun g => g.1 == q) with
  | some g => g.2.getD ((before.filter (fun r => r.partials.contains q)).length / 64) 0
  | none => 0

/-- The MERGE_OPENs that go before a run: those of its query sets that no earlier run names. -/
def opensFor (given : List (QuerySet × List Nat)) (qs : List (QuerySet × Nat)) (layer : Nat) (before : List Run) (r : Run) : List Packet :=
  (r.partials.filter (fun q => !before.any (fun x => x.partials.contains q))).flatMap (fun q =>
    match given.find? (fun g => g.1 == q), qs.find? (fun x => x.1 == q) with
    | some g, some n => g.2.zipIdx.map (fun x => openPacket x.1 (min 64 (n.2 - 64 * x.2)) (512 * layer + x.1))
    | _, _ => [])

/-- The attention packets of a layer in a stack: the runs in order, before each the MERGE_OPENs of the query sets it is the first to name;
none while the slots do not suffice. -/
def State.layerPackets (s : State) (p : Nat) (m : Model) (its : List Item) (layer st : Nat) : Option (List Packet) :=
  let rs := s.layerRuns p m its layer st
  let qs := querySets rs
  let free := s.freeMergeSlots p st
  if free.length < (qs.map (fun q => ceilDiv q.2 64)).sum then none
  else
    let given := giveSlots qs free
    some (rs.zipIdx.flatMap (fun x =>
      opensFor given qs layer (rs.take x.2) x.1 ++
        [s.runPacket p m its layer x.1 x.2 (x.1.partials.map (slotOfRun given (rs.take x.2)))]))

/-! ### RAPP (07 R208; 08 R240) -/

/-- First position and number of the tokens whose keys and values an item appends in the layer of a number. -/
def State.appended (s : State) (p : Nat) (m : Model) (layer : Nat) (it : Item) : Nat × Nat :=
  if m.isDraft layer then
    match it.kind, s.seqAt p it.index with
    | .draft, _ => (it.position + m.passOf layer, b2n (decide (m.passOf layer < it.k)))
    | .prefill, some e => (s.draftKv p e, if e.flags.speculative && m.passOf layer == 0 then it.tokens else 0)
    | .recompute, some e => (it.position, if e.flags.speculative && m.passOf layer == 0 then it.tokens else 0)
    | _, _ => (0, 0)
  else (it.position, if it.main then it.tokens else 0)

/-- The parcels of a head into which an item appends: of a recomputation the ones given slots again, and with none of those its first
(07 R208, R220). -/
def State.appendParcels (s : State) (p : Nat) (m : Model) (sh : Sheet) (layer : Nat) (it : Item) (head : Nat) : List Nat :=
  match s.seqAt p it.index with
  | none => []
  | some e =>
    let w := s.appended p m layer it
    let map := s.itemMap p e it (m.isDraft layer)
    let first := w.1 / 256
    let is := if w.2 = 0 then []
      else ((map.drop first).take (spansOf (w.1 + w.2) - first)).map (fun b => m.parcelIn b layer head)
    if it.kind = .recompute then
      let back := is.filter sh.realloced.contains
      if back.isEmpty then is.take 1 else back
    else is

/-- The START of a RAPP run on one parcel: rotary on the item's queries and keys, and the append of K and V. What its registers hold the
spec does not give. -/
def State.rappPacket (s : State) (p : Nat) (sh : Sheet) (layer n : Nat) (it : Item) (i : Nat) : Packet :=
  let x := s.parcel p i
  mkPacket 2 (i % 256) (plnPc x.pln) (plnBg x.pln) 0 (2 ^ plnChannel x.pln) (!it.be)
    ((List.range 16).map (Config.rappWord [p, sh.step.toNat, sh.reissue, layer, n, i]))

/-- The RAPP packets of a layer in a stack, in the order of the sheet. -/
def State.rappPackets (s : State) (p : Nat) (m : Model) (sh : Sheet) (layer st : Nat) : List Packet :=
  sh.items.zipIdx.flatMap (fun x => (m.headsAt layer st).flatMap (fun h =>
    (s.appendParcels p m sh layer x.1 h).map (s.rappPacket p sh layer x.2 x.1)))

/-- Packets leave for a stack, which has yet to receive them. -/
def State.sendPackets (s : State) (p st : Nat) (ps : List Packet) : State :=
  (s.modRound p (fun r => { r with owed := Tab.set (fun _ => 0) r.owed st (r.owes st + ps.length) })).emitAll (ps.map (fun k => .packet st k))

/-- A layer's turn in a stack: every earlier layer of the sheet has gone there, all that was sent has arrived, and its runs have
completed (R240). -/
def State.layerTurn (s : State) (p : Nat) (m : Model) (sh : Sheet) (layer st : Nat) : Bool :=
  let order := s.layerOrder p m sh.items
  m.inStack && order.contains layer && !sh.sent.contains (st, layer) &&
    (order.take (posOf order layer)).all (fun n => sh.sent.contains (st, n)) &&
    (s.round p).owes st == 0 && (s.runsIn p st).isEmpty

/-- LAYER_PACKETS_SEND (08 R224, R240): for a layer and stack of a released sheet, the RAPP packets, and once their runs have completed the
MERGE_OPEN and attention packets. -/
def execLayerPacketsSend (p : PartId) (layer : Nat) (st : StackId) (s : State) : Host.Outcome State Fault Refusal :=
  .next (match (s.round p.val).sheet, (s.round p.val).model with
    | some sh, some m =>
      if sh.released ∧ s.layerTurn p.val m sh layer st.val ∧ (s.round p.val).causes.isEmpty then
        let first := s.rappPackets p.val m sh layer st.val
        if !sh.rapp.contains (st.val, layer) && !first.isEmpty then
          (s.modRound p.val (fun r => { r with sheet := some { sh with rapp := sh.rapp ++ [(st.val, layer)] } })).sendPackets p.val st.val first
        else match s.layerPackets p.val m sh.items layer st.val with
        | none => s
        | some ps =>
          ((s.modRound p.val (fun r => { r with sheet := some { sh with sent := sh.sent ++ [(st.val, layer)] } })).sendPackets
            p.val st.val ps).levelOff st.val
      else s
    | _, _ => s)

end Sys2Proof.Machine
end

