-- ==== Sys2Proof/Machine/Status.lean ====
section
/-! DEFINITION. The read-only words that module firmware keeps for its readers: MOD_STATUS (18 R447), MOD_TIME_STATUS (18 R441),
the PWR_ registers and THM_SITE_n (17 R431). -/

namespace Sys2Proof.Machine

/-! ### Sensor sites (17 R423 to R425) -/

/-- Throttle point of a site in 0.1 °C (R423). -/
def throttlePoint (n : Nat) : Int := if n < 64 then 1000 else if n < 128 then 900 else if n < 132 then 1100 else 950

/-- Trip point of a site in 0.1 °C (R423). -/
def tripPoint (n : Nat) : Int := if n < 64 then 1100 else if n < 128 then 1000 else if n < 132 then 1250 else 1050

/-- What a site reads in 0.1 °C: the higher of two healthy sensors; its throttle point plus 1 °C while a failed sensor's partner
is not yet brought in and when both have failed; else the partner alone. None before the first conversion (R423, R425, R432). -/
def SensorSite.value (x : SensorSite) (n : Nat) : Option Int :=
  if (x.a.failed && !x.aOut) || (x.b.failed && !x.bOut) || (x.a.failed && x.b.failed) then some (throttlePoint n + 10)
  else if x.a.failed then x.b.reading
  else if x.b.failed then x.a.reading
  else match x.a.reading, x.b.reading with
    | some a, some b => some (max a b)
    | some a, none => some a
    | none, r => r

/-- What site n reads. -/
def State.siteValue (s : State) (n : Nat) : Option Int := (s.site n).value n

/-! ### The words -/

/-- MOD_STATUS (18 R447). -/
def State.modStatus (s : State) : W64 :=
  let m := s.module
  BitVec.ofNat 64 (m.stage + at_ 3 m.stop + at_ 7 (b2n m.linkDegraded) + at_ 8 m.pllLost + at_ 13 m.lastReset + at_ 16 m.badWrites)

/-- State codes of module time (18 R441). -/
def TimeMode.code : TimeMode → Nat
  | .unknown => 0 | .locked => 1 | .holdover => 2

/-- A signed 32-bit value, saturating. -/
def sat32 (x : Int) : Int := max (-2147483648) (min 2147483647 x)

/-- MOD_TIME_STATUS (18 R441). -/
def State.timeStatus (s : State) : W64 :=
  let t := s.time
  BitVec.ofNat 64 (t.mode.code + at_ 2 (b2n t.pulseUsed) + at_ 3 (b2n t.pulseLost) + at_ 4 (BitVec.ofInt 32 (sat32 t.offset)).toNat +
    at_ 36 (BitVec.ofInt 12 t.adjust).toNat + at_ 48 t.locks)

/-- PWR_STATUS (17 R431). -/
def State.pwrStatus (s : State) : W64 :=
  let p := s.power
  BitVec.ofNat 64 (p.envelope + at_ 13 (Config.fieldOf 13 p.input % 8192) + at_ 26 p.allowance + at_ 30 (b2n p.floor) +
    at_ 31 (b2n p.inputLow) + at_ 32 (b2n p.inputHigh) + at_ 33 p.oc.toNat + at_ 47 p.ocEvents)

/-- PWR_INPUT (17 R431): units of 10 mV and 10 mA. -/
def State.pwrInput (s : State) : W64 := BitVec.ofNat 64 (s.power.millivolts / 10 % 65536 + at_ 16 s.power.amps.toNat)

/-- PWR_QUARTER_q (17 R431). -/
def State.pwrQuarter (s : State) (q : Nat) : W64 :=
  let c := s.consumer q
  BitVec.ofNat 64 (Config.fieldOf 10 c.ration % 1024 + at_ 10 (Config.fieldOf 10 c.demand % 1024) + at_ 20 (s.quarter q).restStep +
    at_ 26 (b2n (decide (c.factor < 20))))

/-- PWR_STACK_s (17 R431). -/
def State.pwrStack (s : State) (k : Nat) : W64 :=
  let c := s.consumer (4 + k)
  BitVec.ofNat 64 (Config.fieldOf 7 c.ration % 128 + at_ 7 (Config.fieldOf 7 c.demand % 128) + at_ 14 (s.stack k).level +
    at_ 17 (Config.fieldOf 6 c.rest % 64) + at_ 23 (b2n (decide (c.factor < 20))) + at_ 24 (b2n (s.stack k).shortRefresh))

/-- THM_SITE_n (17 R431): readings below 0 °C read 0. -/
def State.thmSite (s : State) (n : Nat) : W64 :=
  let x := s.site n
  BitVec.ofNat 64 (min 4095 ((s.siteValue n).getD 0).toNat + at_ 12 (b2n x.a.failed) + at_ 13 (b2n x.b.failed) + at_ 14 x.fault +
    at_ 16 x.interval + at_ 18 (b2n x.throttling))

end Sys2Proof.Machine
end

