-- ==== Sys2Proof/Machine/PowerOps.lean ====
section
/-! DEFINITION. The ration: demands, envelope, allocation, rests and levels (17 R416 to R421, R426). -/

namespace Sys2Proof.Machine

/-! ### Numbers (R416, R419): watts as FP32 -/

/-- A count as FP32. -/
def natW (n : Nat) : W32 := round32 (Ex.ofInt (n : Int))

/-- 0.9 as FP32. -/
def ninety : W32 := BitVec.ofNat 32 (narrowQ .fp32 false 9 10)

/-- 22.5 W, the power of one compute level. -/
def levelW : W32 := BitVec.ofNat 32 (narrowQ .fp32 false 45 2)

/-- A sum, one rounding for each addition in the order of the list. -/
def fsum (l : List W32) : W32 := l.foldl fadd 0

/-- The least integer at or above an FP32 value, held to 0 to `top`. -/
def ceilTo (top : Nat) (w : W32) : Nat :=
  match ex32 w with
  | .fin true _ _ => 0
  | .fin false m e => min top (if 0 ≤ e then m * 2 ^ e.toNat else ceilDiv m (2 ^ (-e).toNat))
  | .inf true => 0
  | .inf false => top
  | .nan => 0

/-! ### Consumers: 0 to 3 quarters, 4 to 19 stacks (R416) -/

/-- Some partition that holds a channel group of a stack is REPRODUCIBLE. -/
def State.stackRepro (s : State) (k : Nat) : Bool :=
  (List.range 8).any (fun p => (s.part p).applied.repro && (List.range 8).any (fun g => s.holdsGroup p (8 * k + g)))

/-- The rail that feeds a consumer. -/
def railOf (c : Nat) : Nat := if c < 4 then c else 4 + (c - 4) / 2

/-- Phases in service of a rail (R414). -/
def railPhases (r : Nat) : Nat := if r < 4 then 16 else if r < 13 then 6 else 2

/-- Maximum of a consumer: 90 % for ten windows after an over-current alert, and less by lost phases (R416, R422, 20 R469). -/
def State.maxW (s : State) (c : Nat) : W32 :=
  let base := if c < 4 then 600 else 90
  let n := railPhases (railOf c)
  let cut := if 0 < (s.consumer c).cut then 9 else 10
  BitVec.ofNat 32 (narrowQ .fp32 false (base * cut * (n - (s.rail (railOf c)).lost)) (10 * n))

/-- Floor of a consumer (R416). -/
def State.floorW (s : State) (c : Nat) : W32 :=
  if c < 4 then natW 150 else if s.stackRepro (c - 4) then levelW else 0

/-- Consumers that a site acts on (R423): a stack's site acts on its quarter once the stack is at its floor. -/
def State.actsOn (s : State) (n : Nat) : List Nat :=
  if n < 64 then [n / 16]
  else if n < 128 then
    let k := (n - 64) / 4
    if (s.consumer (4 + k)).ration = s.floorW (4 + k) then [4 + k, k / 4] else [4 + k]
  else List.range 20

/-! ### Allocation (R417, R419) -/

/-- The consumers of a group are served from what is left: rations, then what is left. -/
def serveGroup (d f : List W32) (a : List W32 × W32) (g : List Nat) : List W32 × W32 :=
  let gap (i : Nat) : W32 := fsub (d.getD i 0) (f.getD i 0)
  let need := fsum (g.map gap)
  if flt a.2 need then
    (a.1.zipIdx.map (fun x => if g.contains x.2 then fadd x.1 (fdiv (fmul (gap x.2) a.2) need) else x.1), 0)
  else (a.1.zipIdx.map (fun x => if g.contains x.2 then d.getD x.2 0 else x.1), fsub a.2 need)

/-- The rations of a window: budget, demands, floors, maxima and the groups in service order (R419). -/
def rations (b : W32) (d f m : List W32) (groups : List (List Nat)) : List W32 :=
  let left := fsub b (fsum f)
  if flt left 0 then f
  else
    let a := groups.foldl (serveGroup d f) (f, left)
    let room := List.zipWith (fun x w => fsub x w) m a.1
    let total := fsum room
    if flt 0 a.2 && flt 0 total then List.zipWith (fun w r => fadd w (fdiv (fmul a.2 r) total)) a.1 room else a.1

/-- Service order of a profile (R417). -/
def serviceOrder (floor : Bool) (profile : Nat) : List (List Nat) :=
  let quarters := List.range 4
  let stacks' := (List.range 16).map (· + 4)
  if floor then [quarters ++ stacks']
  else match profile with
    | 1 => [quarters, stacks']
    | 2 => [stacks', quarters]
    | _ => [quarters ++ stacks']

/-- The thermal factor scales a ration, which never falls below its floor (R426). -/
def scaled (w f : W32) (factor : Nat) : W32 :=
  if factor = 20 then fmax2 f w
  else fmax2 f (BitVec.ofNat 32 (divNarrow .fp32 (mulEx (ex32 w) (Ex.ofInt (factor : Int))) (Ex.ofInt 20)))

/-! ### Envelope and allowance (R417, R418) -/

/-- Units and calm windows after a window with an average input. -/
def nextAllowance (units calm : Nat) (input : W32) : Nat × Nat :=
  if flt (natW 3600) input then (units - 1, 0)
  else if 99 ≤ calm then (min 10 (units + 1), 0)
  else (units, calm + 1)

/-- The window that ended is counted, then a new profile applies: the allowance is BALANCED's alone (R418, R430). -/
def State.takeProfile (s : State) (input : W32) : State :=
  let p := s.power
  let new := fld (s.reg 0 0x80000) 1 0
  let a := if p.profile = 0 then nextAllowance p.allowance p.calm input else (0, 0)
  let a := if new = p.profile then a else if new = 0 then (10, 0) else (0, 0)
  { s with power := { p with profile := new, allowance := a.1, calm := a.2, input := input } }

/-- E of the next window (R417, R418). -/
def Power.nextEnvelope (p : Power) : Nat :=
  if p.floor then 1500
  else match p.profile with
    | 0 => if 0 < p.allowance then 4200 else 3600
    | 3 => 2400
    | _ => 3600

/-! ### Rests and levels (R420, R421) -/

/-- Rest cycles of every 64 of a quarter (R420). -/
def restCycles (w d : W32) : Nat := ceilTo 63 (fmul (natW 64) (fmax2 0 (fsub (natW 1) (fdiv w d))))

/-- 4φ of a stack (R421). -/
def fourPhi (w d : W32) : W32 := fmul (natW 4) (if (ex32 d).isZero then fdiv w (natW 90) else fdiv w d)

/-- Compute level of a stack: the least level that 01 R25 permits raises it (R421). -/
def State.levelFor (s : State) (k : Nat) (w d : W32) : Nat :=
  let l := ceilTo 4 (fourPhi w d)
  if s.stackRepro k || s.inStackWork k then max 1 l else l

/-- Rest after each slice, as a fraction of the slice (R421). -/
def restFraction (l : Nat) (w d : W32) : W32 :=
  let x := fdiv (fourPhi w d) (natW l)
  if l = 0 ∨ !flt x (natW 1) then 0 else fdiv (fsub (natW 1) x) x

/-! ### The steps of a recompute -/

/-- What PWR_STATUS oc shows of the window, and the ten windows of R422 step 5. -/
def State.closeOverCurrent (s : State) : State :=
  let p := s.power
  let oc := (List.range 14).foldl (fun m r => setFld m r r (b2n (s.rail r).inWindow)) (0 : BitVec 14)
  let t := (List.range 20).foldl (fun (u : State) c =>
    u.modConsumer c (fun x => { x with cut := if (s.rail (railOf c)).inWindow then 10 else x.cut - 1 })) { s with power := { p with oc := oc } }
  (List.range 14).foldl (fun (u : State) r => u.modRail r (fun x => { x with inWindow := x.alert })) t

/-- t rises by 0.05 for each consumer whose sites all read below their throttle points minus 1 °C (R426). -/
def State.recoverFactors (s : State) : State :=
  (List.range 20).foldl (fun (u : State) c =>
    if (List.range 136).any (fun n => (s.actsOn n).contains c && (match s.siteValue n with
        | some v => decide (throttlePoint n - 10 ≤ v)
        | none => false)) then u
    else u.modConsumer c (fun x => { x with factor := min 20 (x.factor + 1) })) s

/-- Partners of failed sensors are brought in, with one record each (R425). -/
def State.bringPartners (s : State) : State :=
  (List.range 136).foldl (fun (u : State) n =>
    let x := u.site n
    let u := if x.a.failed && !x.aOut then (u.modSite n (fun y => { y with aOut := true })).post 0 6 2 n x.a.fault else u
    if x.b.failed && !x.bOut then (u.modSite n (fun y => { y with bOut := true })).post 0 6 2 n x.b.fault else u) s

/-- Give each consumer its ration and demand, and the rests and the level that follow (R420, R421). -/
def State.applyRations (s : State) (w d : List W32) : State :=
  (List.range 20).foldl (fun (u : State) c =>
    let wc := scaled (w.getD c 0) (s.floorW c) (u.consumer c).factor
    let dc := d.getD c 0
    let u := u.modConsumer c (fun x => { x with ration := wc, demand := dc })
    if c < 4 then u.modQuarter c (fun x => { x with restStep := restCycles wc dc })
    else
      let l := u.levelFor (c - 4) wc dc
      let wait := ceilTo 4 (fourPhi wc dc) == 0 && !u.stackRepro (c - 4) && u.inStackWork (c - 4)
      let u := u.modStack (c - 4) (fun x => { x with zeroDue := wait })
      (u.levelTo (c - 4) l).modConsumer c (fun x => { x with rest := restFraction l wc dc })) s

/-- Site closest to, or furthest past, its throttle point: the lowest of several (21 R488). -/
def State.hottestSite (s : State) : Nat :=
  let gap (n : Nat) : Int := (s.siteValue n).getD 0 - throttlePoint n
  (List.range 136).foldl (fun b n => if gap b < gap n then n else b) 0

/-- The words that readers find until the next recompute: those of the management bus (21 R488) under its codes, and
PWR_QUARTER_q and PWR_STACK_s under 0x100 + q and 0x110 + s (R431). -/
def State.snapshot (s : State) : State :=
  let h := s.hottestSite
  let put (m : Tab W64) (e : Nat × W64) : Tab W64 := Tab.set (fun _ => 0) m e.1 e.2
  let m := [(1, s.modStatus), (2, s.pwrInput), (3, s.pwrStatus),
    (4, BitVec.ofNat 64 (h + at_ 16 (min 65535 ((s.siteValue h).getD 0).toNat))), (5, s.timeStatus)].foldl put []
  let m := (List.range 4).foldl (fun t q => put t (0x100 + q, s.pwrQuarter q)) m
  let m := (List.range 16).foldl (fun t k => put t (0x110 + k, s.pwrStack k)) m
  { s with power := { s.power with smb := (List.range 136).foldl (fun t n => put t (0x10 + n, s.thmSite n)) m } }

end Sys2Proof.Machine
end

