-- ==== Sys2Proof/Machine/Power.lean ====
section
/-! DEFINITION. The commands of power and heat (17 R413 to R432; 20 R469). -/

namespace Sys2Proof.Machine

/-! ### Power states (R413, R415; 21 R479, R484) -/

/-- The converters are on. -/
def State.powered (s : State) : Bool := decide (s.module.electrical = .inReset) || decide (s.module.electrical = .running)

/-- Flash as a power-down or a reset in the midst of an UPDATE may leave it: the bank or the library that was being written is
incomplete, or the write had not begun (16 R400; log 3). -/
def State.cutFlash (s : State) : Flash :=
  let f := s.sec.flash
  match s.sec.op with
  | some o =>
    let target := lineNat o.arg 0 1
    if o.op ≠ 2 ∨ !bitAt s.freeVal 0 ∨ 3 < target then f
    else if target = 3 then { f with library := some [] }
    else { f with banks := Tab.set (fun _ => none) f.banks (2 * target + (1 - fld s.sec.bootedBank target target)) (some []) }
  | none => f

/-- The module with nothing kept but flash: what a power-down and a power-up leave (R415; 18 R443). The levels at its pins stay,
and the queue, the free values and what has left are the model's own. -/
def State.bare (s : State) (e : Electrical) (latched high : Bool) (millivolts : Nat) : State :=
  { State.reset with
    pending := s.pending, free := s.free + b2n s.sec.op.isSome, out := s.out, sec := { Sec.reset with flash := s.cutFlash },
    module := { Module.reset with electrical := e, perst := s.module.perst, latched := latched, overVolt := high },
    power := { Power.reset with millivolts := millivolts }, intr := { Intr.reset with pinLow := s.intr.pinLow } }

/-- The rails come up in order and the security core's reset is released (R415). -/
def State.railsUp (s : State) (millivolts : Nat) : State :=
  let t := s.bare .inReset false false millivolts
  { t with power := { t.power with inputLow := decide (millivolts < 58000), inputHigh := decide (68000 < millivolts) } }

/-- POWER_UP (R413, R415): the input passes 57 V; a latched module stays off. -/
def execPowerUp (millivolts : Nat) (s : State) : Host.Outcome State Fault Refusal :=
  .next (
    let m := s.module
    if m.electrical ≠ .unpowered ∨ m.latched ∨ m.overVolt ∨ millivolts < 57000 ∨ 72000 < millivolts then s
    else s.railsUp millivolts)

/-- POWER_GOOD_TIMEOUT (R415): the sequence stops, every rail turns off, and the module stays unpowered until the input falls
below 54 V and rises again. It strikes before the boot that the sequence leads to. -/
def execPowerGoodTimeout (s : State) : Host.Outcome State Fault Refusal :=
  .next (
    let m := s.module
    if m.electrical = .inReset ∧ m.stage = 0 ∧ m.lastReset = 0 then s.bare .unpowered true false s.power.millivolts else s)

/-- POWER_DOWN (R413, R415, R432): the input falls below 54 V; nothing is kept, and the latch of R415 and R428 ends. -/
def execPowerDown (millivolts : Nat) (s : State) : Host.Outcome State Fault Refusal :=
  .next (
    if s.module.electrical = .absent ∨ 54000 ≤ millivolts then s
    else if s.powered then s.bare .unpowered false false millivolts
    else { s with module := { s.module with latched := false, overVolt := false }, power := { s.power with millivolts := millivolts } })

/-- INPUT_OVERVOLTAGE (R413): above 72 V the converters are off. -/
def execInputOvervoltage (millivolts : Nat) (s : State) : Host.Outcome State Fault Refusal :=
  .next (
    if s.module.electrical = .absent ∨ millivolts ≤ 72000 then s
    else s.bare .unpowered s.module.latched true millivolts)

/-- INPUT_FALLS_BELOW_70_V (R413): the power-up sequence runs again. -/
def execInputFallsBelow70V (millivolts : Nat) (s : State) : Host.Outcome State Fault Refusal :=
  .next (
    let m := s.module
    if m.electrical ≠ .unpowered ∨ !m.overVolt ∨ 70000 ≤ millivolts ∨ millivolts < 54000 then s
    else if m.latched then { s with module := { m with overVolt := false }, power := { s.power with millivolts := millivolts } }
    else s.railsUp millivolts)

/-- INPUT_BAND_CHANGE (R413): input_low and input_high of PWR_STATUS. -/
def execInputBandChange (millivolts : Nat) (s : State) : Host.Outcome State Fault Refusal :=
  .next (
    if !s.powered ∨ millivolts < 54000 ∨ 72000 < millivolts then s
    else { s with power := { s.power with
      millivolts := millivolts, inputLow := decide (millivolts < 58000), inputHigh := decide (68000 < millivolts) } })

/-- TRIP_COMPARATOR (R428): the converters turn off at once, no record, until the input falls below 54 V and rises again. -/
def execTripComparator (_ : SiteId) (s : State) : Host.Outcome State Fault Refusal :=
  .next (if s.powered then s.bare .unpowered true s.module.overVolt s.power.millivolts else s)

/-! ### The ration (R416 to R421) -/

/-- Firmware serves power and heat: from the loading stage on, but for a stopped boot (18 R446). -/
def State.rationing (s : State) : Bool := s.powered && decide (3 ≤ s.module.stage) && s.module.stage != 5

/-- RATION_RECOMPUTE (R416 to R421, R425, R426): every ms. Energies are millijoules of the window with the fraction of it in which
the consumer did not rest, so that a demand in watts is one over the other. -/
def execRationRecompute (energy : List (W32 × W32)) (unrationed input : W32) (amps : BitVec 16) (s : State) :
    Host.Outcome State Fault Refusal :=
  .next (
    let due := match s.power.windowAt with
      | none => true
      | some t0 => decide (t0.toNat + 1000000 ≤ s.nowNat)
    if !s.rationing ∨ !due then s
    else
      let t := (s.bringPartners.closeOverCurrent.recoverFactors).takeProfile input
      let t := { t with power := { t.power with floor := t.intr.throttle || t.power.inputLow, amps := amps, windowAt := some t.time.now } }
      let t := { t with power := { t.power with envelope := t.power.nextEnvelope } }
      let cs := List.range 20
      let m := cs.map t.maxW
      let f := cs.map t.floorW
      let d := cs.map (fun c => let x := energy.getD c (0, natW 1); fmin2 (fdiv x.1 x.2) (m.getD c 0))
      let w := rations (fsub (fmul ninety (natW t.power.envelope)) unrationed) d f m (serviceOrder t.power.floor t.power.profile)
      (t.applyRations w d).snapshot)

/-! ### Over-current (R422) -/

/-- OVER_CURRENT_ALERT (R422): counted; a quarter or a stack pair is held and fast line 55 rises. VDD_LNK and VDD_CTL are
counted only. -/
def execOverCurrentAlert (rail : RailId) (s : State) : Host.Outcome State Fault Refusal :=
  .next (
    if !s.powered ∨ (s.rail rail.val).alert then s
    else
      let t := s.modRail rail.val (fun x => { x with alert := true, inWindow := true, hold := decide (rail.val < 12) })
      let t := { t with power := { t.power with ocEvents := satAdd 65535 t.power.ocEvents 1 } }
      if rail.val < 12 then t.latch 55 else t)

/-- OVER_CURRENT_ALERT_DEASSERT (R422 step 4): the 20 µs of the hold begin. -/
def execOverCurrentAlertDeassert (rail : RailId) (s : State) : Host.Outcome State Fault Refusal :=
  .next (
    if !(s.rail rail.val).alert then s
    else s.modRail rail.val (fun x => { x with alert := false, since := s.time.now }))

/-- OVER_CURRENT_HOLD_RELEASE (R422 step 4). -/
def execOverCurrentHoldRelease (rail : RailId) (s : State) : Host.Outcome State Fault Refusal :=
  .next (
    let x := s.rail rail.val
    if !x.hold ∨ x.alert ∨ s.nowNat < x.since.toNat + 20000 then s
    else s.modRail rail.val (fun y => { y with hold := false }))

/-- PHASE_FAILURE (R414, R432; 20 R463, R464, R469): a spare takes the phase's place, or the rail is derated. A hold runs on. -/
def execPhaseFailure (rail : RailId) (phase : Nat) (s : State) : Host.Outcome State Fault Refusal :=
  .next (
    if !s.powered then s
    else if 0 < (s.rail rail.val).spares then
      ((s.modRail rail.val (fun x => { x with spares := x.spares - 1 })).mapChange 11 (16 * rail.val + phase)).logWear 11 rail.val phase 0
    else s.modRail rail.val (fun x => { x with lost := min (railPhases rail.val) (x.lost + 1) }))

/-! ### Sensors (R423 to R429) -/

/-- A conversion of a sensor, or none, beside its partner's reading. -/
def Sensor.convert (x : Sensor) (v partner : Option Int) : Sensor :=
  match v with
  | none => { x with missing := x.missing + 1 }
  | some r =>
    if x.reading = some r then { x with same := x.same + 1, missing := 0 }
    else { x with reading := some r, same := 0, missing := 0, partnerThen := partner.getD 0 }

/-- The fault that a sensor shows, 0 for none (R425). -/
def Sensor.faultOf (x : Sensor) (partner : Option Int) : Nat :=
  match x.reading with
  | some r =>
    if r < -200 ∨ 1500 < r then 1
    else if 2000 ≤ x.same ∧ 20 ≤ (partner.getD x.partnerThen - x.partnerThen).natAbs then 2
    else if 3 ≤ x.missing then 3 else 0
  | none => if 3 ≤ x.missing then 3 else 0

/-- Sample interval of a site by its reading, in codes of THM_SITE (R424): nearness to a point includes what lies beyond it. -/
def intervalOf (n : Nat) (v : Option Int) : Nat :=
  match v with
  | none => 0
  | some r => if throttlePoint n - 30 ≤ r then 2 else if throttlePoint n - 80 ≤ r then 1 else 0

/-- Length of a sample interval in ns (R424). -/
def intervalNs : Nat → Nat
  | 0 => 1000000 | 1 => 100000 | _ => 20000

/-- One sensor of a site fails: wear log and repair map (R425; 20 R463, R464). -/
def State.sensorFails (s : State) (n i code : Nat) : State :=
  ((s.modSite n (fun x =>
    if i = 0 then { x with fault := code, a := { x.a with failed := true, fault := code } }
    else { x with fault := code, b := { x.b with failed := true, fault := code } })).mapChange 9 (2 * n + i)).logWear 9 n i 0

/-- The refresh interval of a stack follows its four sites (05 R155; R429). -/
def State.judgeRefresh (s : State) (k : Nat) : State :=
  let vs := (List.range 4).filterMap (fun i => s.siteValue (64 + 4 * k + i))
  if vs.any (fun v => decide (850 < v)) then s.modStack k (fun x => { x with shortRefresh := true })
  else if vs.all (fun v => decide (v ≤ 830)) then s.modStack k (fun x => { x with shortRefresh := false })
  else s

/-- What a site's reading does: interval, line 54, factors, the throttle record, the refresh interval, the trip (R424, R426, R427,
R429; 21 R489). -/
def State.judgeSite (s : State) (n : Nat) : State :=
  match s.siteValue n with
  | none => s
  | some v =>
    let hot := decide (throttlePoint n ≤ v)
    let t := s.modSite n (fun x =>
      { x with interval := intervalOf n (some v), throttling := hot, posted := x.posted && decide (throttlePoint n - 30 ≤ v) })
    let t := if throttlePoint n - 30 ≤ v then t.latch 54 else t
    let t := if hot then (t.actsOn n).foldl (fun (u : State) c => u.modConsumer c (fun x => { x with factor := x.factor - 1 })) t else t
    let t := if hot && !(t.site n).posted then
        { (t.modSite n (fun x => { x with posted := true })).post 0 6 1 n v.toNat with module := { t.module with alert := true } }
      else t
    let t := if 64 ≤ n ∧ n < 128 then t.judgeRefresh ((n - 64) / 4) else t
    if tripPoint n ≤ v then t.wideLoss 5 else t

/-- SENSOR_SAMPLE (R424 to R429, R432): each sensor's conversion in 0.1 °C, none where it completes none. -/
def execSensorSample (site : SiteId) (a b : Option Int) (s : State) : Host.Outcome State Fault Refusal :=
  .next (
    let n := site.val
    let x := s.site n
    let due := match x.sampledAt with
      | none => true
      | some t0 => decide (t0.toNat + intervalNs x.interval ≤ s.nowNat)
    if !s.rationing ∨ !due then s
    else
      let pa := if a.isSome then a else x.a.reading
      let pb := if b.isSome then b else x.b.reading
      let xa := x.a.convert a pb
      let xb := x.b.convert b pa
      let fa := if x.a.failed then 0 else xa.faultOf pb
      let fb := if x.b.failed then 0 else xb.faultOf pa
      let t := s.modSite n (fun y => { y with a := xa, b := xb, sampledAt := some s.time.now })
      let t := if fa = 0 then t else t.sensorFails n 0 fa
      let t := if fb = 0 then t else t.sensorFails n 1 fb
      t.judgeSite n)

/-! ### Clocks (18 R434) -/

/-- PLL_LOCK_LOSS (18 R434): the domain stops, the crossings into it fail their parity, and the module suffers the loss of cause 3.
The time base's own domain takes module time with it. -/
def execPllLockLoss (domain : Fin 25) (s : State) : Host.Outcome State Fault Refusal :=
  .next (
    if s.module.electrical ≠ .running ∨ !([4, 6, 7].contains s.module.stage) then s
    else
      let t := { s with module := { s.module with pllLost := domain.val + 1 },
                        time := { s.time with running := s.time.running && domain.val != 23 } }
      t.parityError.wideLoss 3)

end Sys2Proof.Machine
end

