-- ==== Sys2Proof/Machine/TimeBase.lean ====
section
/-! DEFINITION. Module time (18 R436 to R441; 12 R329, R334). -/

namespace Sys2Proof.Machine

/-! ### Timers at first lock (R440) -/

/-- A moment that a timer counts from, moved by the step that module time takes. -/
def moved (d : W64) (t : Option W64) : Option W64 := t.map (· + d)

/-- Timers of the links. -/
def Links.moveTimers (l : Links) (d : W64) : Links :=
  { l with
    ports := Tab.mapVals (fun _ => Port.reset) (fun (x : Port) => if x.trainings = 0 then x else { x with since := x.since + d, markDue := moved d x.markDue }) l.ports,
    sessions := Tab.mapVals (fun _ => Session.reset) (fun (x : Session) =>
      { x with retryAt := moved d x.retryAt, portsDown := moved d x.portsDown }) l.sessions,
    sent := l.sent.map (fun w => { w with since := w.since + d }),
    colls := l.colls.map (fun c => (c.1, c.2.1, c.2.2.1, c.2.2.2 + d)) }

/-- Timers of memory control. -/
def Memory.moveTimers (m : Memory) (d : W64) : Memory :=
  { m with
    repairs := m.repairs.map (fun r => match r.stage with
      | .peer t => { r with stage := .peer (t + d) }
      | _ => r),
    sieve := { m.sieve with patrolAt := m.sieve.patrolAt + d } }

/-- Timers of the interrupt controller and the filtered input. -/
def Intr.moveTimers (i : Intr) (d : W64) : Intr :=
  { i with
    cores := Tab.mapVals (fun _ => Core.reset) (fun (c : Core) => if c.inFast then { c with fastSince := c.fastSince + d } else c) i.cores,
    pinSince := i.pinSince + d, lastAssert := moved d i.lastAssert, lastEdge := i.lastEdge + d, since := i.since + d,
    pulseRecord := moved d i.pulseRecord }

/-- Timers of power and heat. -/
def Power.moveTimers (p : Power) (d : W64) : Power :=
  { p with
    rails := Tab.mapVals (fun _ => Rail.reset) (fun (r : Rail) => if r.hold then { r with since := r.since + d } else r) p.rails,
    sites := Tab.mapVals (fun _ => SensorSite.reset) (fun (x : SensorSite) => { x with sampledAt := moved d x.sampledAt }) p.sites,
    windowAt := moved d p.windowAt }

/-- Timers of a partition: its slice, what waits in its round, the sheet. -/
def Part.moveTimers (x : Part) (d : W64) : Part :=
  if x.mode = .empty then x
  else
    let r := x.round
    { x with
      sliceAt := x.sliceAt + d,
      round := { r with
        entries := Tab.mapVals (fun _ => none) (fun (e : Option RoundEntry) => e.map (fun k => { k with waitSince := k.waitSince + d })) r.entries,
        sheet := r.sheet.map (fun k => { k with builtAt := k.builtAt + d }) } }

/-- The poll timer of a function that is polled (11 R312). -/
def Fn.moveTimers (x : Fn) (d : W64) : Fn := if x.enable = 0 then x else { x with pollAt := x.pollAt + d }

/-- Marks of timers that fall due at whole ms, or whole 10 ms (key 2), of module time: what is owed stays. -/
def moveMarks (old new : Nat) (m : Tab W64) : Tab W64 :=
  let keys := [1, 2] ++ (List.range 8).map (· + 100) ++ (List.range 8).map (· + 200)
  keys.foldl (fun t k =>
    let u := if k = 2 then 10000000 else 1000000
    Tab.set (fun _ => 0) t k (Tab.get (fun _ => 0) m k + BitVec.ofNat 64 (new / u - old / u))) m

/-- The one step of module time (R439): every pending timer keeps its remaining duration, recorded times stay (R440). -/
def State.stepTime (s : State) (new : W64) : State :=
  let d := new - s.time.now
  { s with
    time := { s.time with now := new, lastPulse := moved d s.time.lastPulse, ptmAt := moved d s.time.ptmAt, lastSample := new,
                          marks := moveMarks s.time.now.toNat new.toNat s.time.marks },
    links := s.links.moveTimers d, memory := s.memory.moveTimers d, intr := s.intr.moveTimers d, power := s.power.moveTimers d,
    fns := Tab.mapVals (fun _ => Fn.reset) (fun (x : Fn) => x.moveTimers d) s.fns,
    parts := Tab.mapVals (fun _ => Part.reset) (fun (x : Part) => x.moveTimers d) s.parts,
    clusters := Tab.mapVals (fun _ => Cluster.reset) (fun (c : Cluster) => { c with preempt := moved d c.preempt }) s.clusters,
    copies := s.copies.map (fun c => { c with coll := c.coll.map (fun a => { a with first := a.first + d }) }),
    module := { s.module with testedAt := s.module.testedAt + d },
    spares := { s.spares with recent := s.spares.recent.map (fun e => (e.1, e.2 + d)) } }

/-! ### Samples (R436 to R439) -/

/-- MOD_TIME_CFG (R441). -/
def State.ptmInterval (s : State) : Nat := fld (s.reg 0 0x20) 9 0
def State.pulseEn (s : State) : Bool := bitAt (s.reg 0 0x20) 10

/-- A change of state posts its record to every mailbox (R439; 12 R322). -/
def State.setLock (s : State) (m : TimeMode) : State :=
  let t := { s with time := { s.time with mode := m, inRow := 0, locks := if m = TimeMode.locked then satAdd 65535 s.time.locks 1 else s.time.locks } }
  t.postAll 0 3 0 (if m = TimeMode.locked then 1 else 0)

/-- A valid sample after first lock: its offset, the rate adjustment, which nothing states within ±100 ppm (log 3) and which the sample
that ends the lock leaves as it is (R439), and the state. -/
def State.takeSample (s : State) (offset : Int) (pulse : Bool) : State :=
  let a : Int := (s.freeVal.toNat % 2001 : Nat) - 1000
  let near := decide (offset.natAbs ≤ 1000)
  let t := { s.useFree with time := { s.time with
    offset := sat32 offset, adjust := if s.time.mode = .locked ∧ 100000 < offset.natAbs then s.time.adjust else a, pulseUsed := pulse, lastSample := s.time.now,
    inRow := if near then s.time.inRow + 1 else 0 } }
  match s.time.mode with
  | .locked => if 100000 < offset.natAbs then t.setLock .holdover else t
  | .holdover => if near ∧ 2 ≤ s.time.inRow then t.setLock .locked else t
  | .unknown => t

/-- A pulse has been accepted within the last 1.5 s, so that its samples are the ones in use (R437). -/
def State.pulseInUse (s : State) : Bool :=
  s.pulseEn && (match s.time.lastPulse with
    | some t => decide (s.nowNat ≤ t.toNat + 1500000000)
    | none => false)

/-- PTM_REQUEST (R437): once enabled in configuration space, every ptm_interval. -/
def execPtmRequest (s : State) : Host.Outcome State Fault Refusal :=
  .next (
    let due := match s.time.ptmAt with
      | none => true
      | some t => decide (t.toNat + 1000000 * s.ptmInterval ≤ s.nowNat)
    if !s.time.running ∨ !s.module.ptmEnable ∨ !due then s
    else ({ s with time := { s.time with ptmOut := true, ptmAt := some s.time.now } }).emit .ptm)

/-- PTM_SAMPLE (R437, R439): the first sets module time and locks it; a later one gives an offset, which is used unless pulses
are. -/
def execPtmSample (reference : W64) (s : State) : Host.Outcome State Fault Refusal :=
  .next (
    if !s.time.running ∨ !s.time.ptmOut then s
    else
      let o : Int := (reference.toNat : Int) - s.nowNat
      let t := { s with time := { s.time with ptmOut := false, ptmOffset := o } }
      if s.time.mode = .unknown then
        let u := t.stepTime reference
        ({ u with time := { u.time with offset := sat32 o, ptmOffset := 0, pulseUsed := false } }).setLock .locked
      else if s.pulseInUse then { t with time := { t.time with lastSample := s.time.now } }
      else t.takeSample o false)

/-- HOLDOVER_TIMEOUT (R439): no valid sample for the longer of 1 s and 3 × ptm_interval. -/
def execHoldoverTimeout (s : State) : Host.Outcome State Fault Refusal :=
  .next (
    if s.time.mode ≠ .locked ∨ s.nowNat < s.time.lastSample.toNat + max 1000000000 (3000000 * s.ptmInterval) then s
    else s.setLock .holdover)

/-- PULSE_LOST (R437): pulse_en is 1 and no edge has been accepted for 3 s. -/
def execPulseLost (s : State) : Host.Outcome State Fault Refusal :=
  .next (
    let last := match s.time.lastPulse with | some t => t.toNat | none => 0
    if !s.pulseEn ∨ !s.time.running ∨ s.nowNat < last + 3000000000 then s
    else { s with time := { s.time with pulseLost := true } })

/-- An edge that is ignored and counted, with a record at most once per second (12 R334). -/
def State.extraPulse (s : State) : State :=
  let i := s.intr
  let n := satAdd 65535 i.extraPulses 1
  let due := match i.pulseRecord with
    | none => true
    | some t => decide (t.toNat + 1000000000 ≤ s.nowNat)
  let t := { s with intr := { i with extraPulses := n, pulseRecord := if due then some s.time.now else i.pulseRecord } }
  if due then t.post 0 9 3 0 n else t

/-- TIME_PULSE_EDGE (R437, R438): sampled while pulse_en is 1; an accepted edge marks a whole second, whose count comes from the
latest PTM sample. -/
def execTimePulseEdge (s : State) : Host.Outcome State Fault Refusal :=
  .next (
    if !s.pulseEn ∨ !s.time.running ∨ s.module.electrical ≠ .running then s
    else
      let sec := 1000000000
      let past := s.nowNat % sec
      let close := decide (past ≤ 100000) || decide (sec - past ≤ 100000)
      let apart := match s.time.lastPulse with
        | none => true
        | some t => decide (t.toNat + 1000000 < s.nowNat)
      if s.time.mode = .unknown ∨ !close ∨ !apart then s.extraPulse
      else
        let est : Int := s.nowNat + s.time.ptmOffset
        let ref : Int := (est + 500000000) / 1000000000 * 1000000000
        let t := { s with time := { s.time with lastPulse := some s.time.now, pulseLost := false } }
        (t.latch 57).takeSample (ref - s.nowNat) true)

/-- MODULE_TIME_TICK (R436, R440; 12 R329): module time has counted another µs; line 52 rises. -/
def execModuleTimeTick (s : State) : Host.Outcome State Fault Refusal :=
  .next (
    if !s.time.running then s
    else ({ s with time := { s.time with now := s.time.now + 1000 } }).latch 52)

end Sys2Proof.Machine
end

