-- ==== Sys2Proof/Machine/ResetOps.lean ====
section
/-! DEFINITION. What the resets keep and clear, and the steps of a boot (18 R442 to R449; 16 R397; 20 R463 to R474). -/

namespace Sys2Proof.Machine

/-! ### Resets (18 R443) -/

/-- A cold reset (R443, R446): its boot is still to run. What only a power-up clears stays: debug_open, failed_unlocks, the nonce
and slot 6; and flash, the phases that a rail has lost, and the input. -/
def State.coldReset (s : State) (kind : Nat) (perst : Bool) : State :=
  let t := s.bare .inReset false false s.power.millivolts
  { t with
    sec := { t.sec with debugOpen := s.sec.debugOpen, failedUnlocks := s.sec.failedUnlocks, nonce := s.sec.nonce,
                        slots := Tab.set (fun _ => 0) [] 6 (s.slotValue 6) },
    module := { t.module with lastReset := kind, perst := perst },
    power := { t.power with
      inputLow := s.power.inputLow, inputHigh := s.power.inputHigh,
      rails := Tab.mapVals (fun _ => Rail.reset) (fun (r : Rail) => { Rail.reset with spares := r.spares, lost := r.lost }) s.power.rails } }

/-- The die map takes a spare that is decided and not yet copied (20 R474). -/
def Stack.applySpare (x : Stack) : Stack :=
  if x.spare.state = 1 then
    { x with dieMap := Tab.set (fun d => d) x.dieMap x.spare.replaced 16, spare := { x.spare with state := 2, progress := 0, holding := false } }
  else x

/-- A port across a warm reset: it is enabled again and no test is set; one whose test ends so trains (00 R13; 15 R390; 20 R478). -/
def Port.afterReset (x : Port) (idLock : Bool) (now : W64) : Port :=
  let y := { x with mode := if x.mode = PortMode.disabled then .down else x.mode, test := none, testLocked := 0, results := [] }
  if x.test.isSome && idLock then
    { y with mode := .training, since := now, trainings := satAdd 65535 x.trainings 1, lanes := 0, markDue := none }
  else y

/-- A warm reset (R443, R445): the module stops as for a module-wide loss, every region is released and every line blanked, and RW
fields take their reset values, those of EVT_IC_ROUTE and TST_PORT_n_TEST too (00 R13). `host` says that the host link itself was reset, which resets configuration space. -/
def State.warmReset (s : State) (kind : Nat) (host : Bool) : State :=
  let t := s.stopModule.restartCores
  let n := if host then 0 else t.module.numVfs
  let m := { t.module with stage := 7, lastReset := kind, numVfs := n, vfEnable := t.module.vfEnable && !host, ptmEnable := t.module.ptmEnable && !host }
  let t := { t with
    parts := [], partCtl := PartCtl.reset, mem := [], fns := [], buckets := Buckets.reset, unsent := [], regs := [],
    memory := { t.memory with regions := [], ctl := Memory.reset.ctl, repairs := [], resieve := [], sieve := Memory.reset.sieve },
    stackTab := Tab.mapVals (fun _ => Stack.reset) Stack.applySpare t.stackTab,
    links := { t.links with ports := Tab.mapVals (fun _ => Port.reset) (fun (x : Port) =>
      (x.afterReset t.links.idLock t.time.now)) t.links.ports },
    intr := { t.intr with lines := Tab.mapVals (fun _ => IcLine.reset) (fun (l : IcLine) => { IcLine.reset with pending := l.pending }) t.intr.lines },
    time := { t.time with pulseLost := false },
    sec := { t.sec with memKeys := 0, spdm := false, terminating := [], dbg := [], waitingReports := [] },
    module := m }
  t.openPort

/-- A function leaves: its rings are disabled without draining and its RING_ and EVT_ registers take their reset values (R443). -/
def State.resetFn (s : State) (fn : Nat) : State :=
  let t := s.cutRings fn
  { t with regs := Tab.keep (fun k => !(k / 2 ^ 24 == fn && decide (0x20000 ≤ k % 2 ^ 24) && decide (k % 2 ^ 24 < 0x40000))) t.regs,
           fns := Tab.set (fun _ => Fn.reset) t.fns fn Fn.reset }

/-! ### The repair map (20 R463) -/

/-- Parts that the repair map in flash records under a kind. -/
def Flash.mapped (f : Flash) (kind : Nat) : List Nat := (f.map.filter (fun e => e.1 == kind)).map (·.2)

/-- A sensor that the repair map records as failed: its last entry of kinds 9 and 10 is 9. -/
def Flash.sensorFailed (f : Flash) (k : Nat) : Bool :=
  match (f.map.filter (fun e => (e.1 == 9 || e.1 == 10) && e.2 == k)).getLast? with
  | some e => e.1 == 9
  | none => false

/-! ### Boot self-test (18 R446 steps 5 to 7; 20 R466) -/

/-- Clusters: a failing one and a marked one are out of service; what is newly so enters the repair map and the wear log. One that
failed an earlier boot, was never marked and passes this one counts in W again (02 R29). -/
def State.bootClusters (s : State) (failing : List Nat) : State :=
  let marked := s.sec.flash.mapped 1
  let known := marked ++ s.sec.flash.mapped 2
  let t := failing.foldl (fun (u : State) c =>
    let u := u.modCluster c (fun x => { x with failed := true })
    if known.contains c then u else (u.mapChange 2 c).logWear 2 c 0 0) s
  (marked.filter (fun c => decide (c < 1280))).foldl (fun (u : State) c =>
    let new := !u.sec.flash.wear.any (fun r => fld r 7 0 == 2 && fld r 31 16 == c)
    let u := u.modCluster c (fun x => { x with retired := true })
    if new then u.logWear 2 c 0 0 else u) t

/-- Control cores of a quarter that passed and that the map has in service; N by 02 R29. -/
def State.bootQuarter (s : State) (failing : List Nat) (q : Nat) : State :=
  let gone := s.sec.flash.mapped 3
  let bad := (List.range 4).filter (fun i => failing.contains (4 * q + i) || gone.contains (4 * q + i))
  let t := bad.foldl (fun (u : State) i =>
    if gone.contains (4 * q + i) then u else (u.mapChange 3 (4 * q + i)).logWear 3 (4 * q + i) 0 0) s
  let cores := bad.foldl (fun (m : BitVec 4) i => setFld m i i 0) 0xF
  let t := t.modQuarter q (fun x => { x with cores := cores })
  let n := t.nFor q (t.workingIn q).length
  t.modQuarter q (fun x => { x with inService := n })

/-- Sensors: a failing one leaves its partner alone; one that the map records as failed and that passes returns (R466). -/
def State.bootSensors (s : State) (failing : List Nat) : State :=
  (List.range 272).foldl (fun (u : State) k =>
    let old := s.sec.flash.sensorFailed k
    let out (u : State) : State := u.modSite (k / 2) (fun x =>
      if k % 2 = 0 then { x with a := { x.a with failed := true }, aOut := true } else { x with b := { x.b with failed := true }, bOut := true })
    if failing.contains k then (if old then out u else ((out u).mapChange 9 k).logWear 9 (k / 2) (k % 2) 0)
    else if old then (u.mapChange 10 k).logWear 10 (k / 2) (k % 2) 0
    else u) s

/-- The die map of one stack: the spare takes the die that the map names, else the first that failed; a further one puts its channel
group out of service (R466, R473, R474). `failing` holds dies 0 to 16 of the stack. -/
def State.bootStack (s : State) (failing : List Nat) (k : Nat) : State :=
  let f := s.sec.flash
  let mine (kind : Nat) : List Nat := (f.mapped kind).filterMap (fun d => if d / 16 = k then some (d % 16) else none)
  let dies := failing.filter (fun d => decide (d < 16))
  let decided := (mine 6).head?
  let spareOk := !failing.contains 16 && !(match decided with
    | some d => (mine 8).contains d
    | none => false)
  let use := if !spareOk then none else match decided with
    | some d => some d
    | none => dies.head?
  let lost := (((match decided with
    | some d => d :: dies
    | none => dies) ++ mine 8).eraseDups).filter (fun d => use != some d)
  let lostMask := lost.foldl (fun (m : BitVec 8) d => setFld m (d / 2) (d / 2) 1) 0
  let t := match use with
    | some d => if decided.isSome then s else (s.mapChange 6 (16 * k + d)).logWear 7 k d 0
    | none => s
  let t := lost.foldl (fun (u : State) d =>
    if (mine 8).contains d then u else (u.mapChange 8 (16 * k + d)).logWear 8 k d 0) t
  let rows := (f.mapped 5).filterMap (fun r => if r / 67108864 = k then some (r / 65536 % 1024, r % 65536) else none)
  t.modStack k (fun x =>
    { x with
      dieMap := (match use with
        | some d => Tab.set (fun d => d) [] d 16
        | none => []),
      remaps := rows.foldl (fun m r => Tab.set (fun _ => []) m r.1 (Tab.get (fun _ => []) m r.1 ++ [r.2])) [],
      spare := { state := if !spareOk then 3 else if use.isSome then 2 else 0, replaced := use.getD 0, progress := 0,
                 rows := rows.length, lost := lostMask, holding := false } })

/-- Lanes that fail their test are left out of the lane map at training. -/
def State.bootLanes (s : State) (failing : List Nat) : State :=
  failing.foldl (fun (u : State) k =>
    if k < 80 then u.modPort (k / 5) (fun x => { x with marked := setFld x.marked (k % 5) (k % 5) 1 }) else u) s

/-- Phases that the repair map records as substituted stay out of service. -/
def State.bootRails (s : State) : State :=
  (List.range 14).foldl (fun (u : State) r =>
    let n := ((s.sec.flash.mapped 11).filter (fun k => k / 16 == r)).length
    u.modRail r (fun x => { x with spares := min x.spares (2 - n) })) s

/-! ### The boot chain (16 R394, R397) -/

/-- The boot stops (18 R447): stage 5 and its stop code; SMB_ALERT_N asserts (21 R489). -/
def State.stopBoot (s : State) (code : Nat) : State :=
  { s with module := { s.module with stage := 5, stop := code, alert := true } }

/-- Check and measure one target into its slot: the bank that boots and its version stand, or none passes (R397). -/
def State.bootTarget (s : State) (target : Nat) : Option State :=
  let f := s.sec.flash
  match f.pick target (bitAt s.freeVal 0) with
  | none => none
  | some b =>
    let img := f.bank target b
    let t := if imageVersion (f.bank target 0) = imageVersion (f.bank target 1) then s.useFree else s
    let t := t.extend target (sha3 img)
    some { t with sec := { t.sec with bootedBank := setFld t.sec.bootedBank target target b,
                                      versions := Tab.set (fun _ => 0) t.sec.versions target (BitVec.ofNat 32 (imageVersion img)) } }

/-- The library that boots: flash's, or Varper's where that one fails its check; it is measured into slot 3 (R397). -/
def State.bootLibrary (s : State) : State :=
  let f := s.sec.flash
  let img := match f.checkLibrary f.lib with
    | .inl _ => f.lib
    | .inr _ => Config.factoryImage 7
  let t := s.extend 3 (sha3 img)
  { t with sec := { t.sec with library := parseLibrary img } }

/-- Step 3 of R446: the other PLLs lock, the time base starts at 0, GA is sampled (21 R480), and the module is running unless
PERST_N holds it in reset (21 R479). -/
def State.startTime (s : State) (ga : BitVec 3) : State :=
  { s with time := { TimeBase.reset with running := true },
           module := { s.module with ga := ga, electrical := if s.module.perst then .inReset else .running } }

/-- Steps 5 to 8 of R446 after the images are measured: self-test, the die map, every line blanked, the sequencers and the library
loaded; the stage is loading. -/
def State.selfTest (s : State) (r : BootResult) : State :=
  if !r.fabricOk then s.stopBoot 6
  else
    let t := s.bootClusters (r.failedClusters.filter (fun c => decide (c < 1280)))
    let t := (List.range 4).foldl (fun (u : State) q => u.bootQuarter r.failedCores q) t
    let t := t.bootSensors r.failedSensors
    let t := (List.range 16).foldl (fun (u : State) k =>
      u.bootStack (r.failedDies.filterMap (fun d => if d / 17 = k then some (d % 17) else none)) k) t
    let t := (t.bootLanes r.failedLanes).bootRails
    let t := t.logWear 12 0 0 0
    { t with mem := [], module := { t.module with stage := 3, booted := true } }

/-- Stage one's part of the boot (R397 steps 3 and 4), after the time base has started. -/
def State.stageOne (s : State) (r : BootResult) : State :=
  match s.bootTarget 1 with
  | none => s.stopBoot 3
  | some t =>
    match t.bootTarget 2 with
    | none => t.stopBoot 4
    | some t =>
      let t := (t.extend 5 (sha3 (Config.flashConfig t.sec.flash.map))).extend 4 (sha3 t.sec.flash.ownerSet)
      let t := t.bootLibrary
      ({ t with sec := { t.sec with bootId := r.bootId, identity := true, alias_ := true } }).selfTest r

/-- The boot (R446; 16 R394, R397, R399). -/
def State.boot (s : State) (r : BootResult) : State :=
  if !r.identityOk then s.stopBoot 1
  else if !r.protectedOk then s.stopBoot 5
  else match s.bootTarget 0 with
    | none => s.stopBoot 2
    | some t => (t.startTime r.ga).stageOne r

end Sys2Proof.Machine
end

