-- ==== Sys2Proof/Machine/Resets.lean ====
section
/-! DEFINITION. The commands of insertion, reset and boot (18 R442 to R449; 21 R479, R483, R484; 11 R302, R303). -/

namespace Sys2Proof.Machine

/-! ### Insertion (21 R484) -/

/-- MODULE_INSERT (R484): mated, converters off; power-up follows when the input passes 57 V. -/
def execModuleInsert (s : State) : Host.Outcome State Fault Refusal :=
  .next (if s.module.electrical = .absent then s.bare .unpowered false false 0 else s)

/-- MODULE_REMOVE (R484): the module loses power; nothing is kept but flash. -/
def execModuleRemove (s : State) : Host.Outcome State Fault Refusal := .next (s.bare .absent false false 0)

/-! ### Cold resets (18 R442 to R444, R449; 21 R483) -/

/-- PERST_N_ASSERT (21 R483): 100 µs or more is a cold reset; a shorter assertion may be missed (log 3). -/
def execPerstNAssert (microseconds : Nat) (s : State) : Host.Outcome State Fault Refusal :=
  .next (
    let missed := decide (microseconds < 100) && bitAt s.freeVal 0
    let t := if microseconds < 100 then s.useFree else s
    if missed then t
    else if s.powered then t.coldReset 1 true
    else { t with module := { t.module with perst := true } })

/-- PERST_N_DEASSERT (21 R479): the module is running once the time base has started (18 R446 step 3). -/
def execPerstNDeassert (s : State) : Host.Outcome State Fault Refusal :=
  .next (
    if !s.module.perst then s
    else
      let e := if s.module.electrical = .inReset ∧ s.time.running then Electrical.running else s.module.electrical
      { s with module := { s.module with perst := false, electrical := e } })

/-- A write of MOD_RESET acts (R444): physical function 0, the key, not before firmware-ready. -/
def State.resetWrite (s : State) (fn : Nat) (value : W64) : Bool :=
  fn == 0 && fld value 31 16 == 0x5A5A && decide (s.module.electrical = .running) && [4, 6].contains s.module.stage

/-- MOD_RESET_COLD (R444). -/
def execModResetCold (fn : FnId) (value : W64) (s : State) : Host.Outcome State Fault Refusal :=
  .next (if s.resetWrite fn.val value && bitAt value 0 then s.coldReset 2 false else s)

/-! ### Warm resets (18 R442, R443, R445) -/

/-- MOD_RESET_WARM (R444, R445): when cold is set too, the reset is cold. -/
def execModResetWarm (fn : FnId) (value : W64) (s : State) : Host.Outcome State Fault Refusal :=
  .next (
    if !s.resetWrite fn.val value then s
    else if bitAt value 0 then s.coldReset 2 false
    else if bitAt value 1 then s.warmReset 3 false else s)

/-- HOT_RESET (R442, R449): a hot reset, DL_Down or a function-level reset of physical function 0; ignored during a cold reset. -/
def execHotReset (s : State) : Host.Outcome State Fault Refusal :=
  .next (
    if s.module.electrical = .running ∧ [4, 6, 7].contains s.module.stage then s.warmReset 4 true else s)

/-- VF_FUNCTION_LEVEL_RESET (R443): rings disabled without draining, no completion record, jobs and requests lost; the TDI enters
ERROR, and a confidential partition is terminated (16 R408). -/
def execVfFunctionLevelReset (fn : FnId) (s : State) : Host.Outcome State Fault Refusal :=
  .next (
    if fn.val = 0 ∨ !s.present fn.val then s
    else
      let p := fn.val - 1
      let t := s.resetFn fn.val
      let t := if (t.part p).mode = .ready then t.loseWork p else t
      (t.tdiFails p).terminate p 2)

/-! ### Boot (18 R446; 16 R397) -/

/-- BOOT (R446): after a power-up or a cold reset, once. -/
def execBoot (r : BootResult) (s : State) : Host.Outcome State Fault Refusal :=
  .next (if s.powered && s.module.stage == 0 && !s.module.booted then s.boot r else s)

/-- Default class of an interrupt line (12 R329). -/
def fastLine (n : Nat) : Bool :=
  (decide (16 ≤ n) && decide (n < 20)) || (decide (24 ≤ n) && decide (n < 28)) || n == 52 || [54, 55, 56, 57].contains n

/-- Firmware routes the lines: default classes, and target cores that nothing states (log 3). -/
def State.routeLines (s : State) : State :=
  let ls := (List.range 76).foldl (fun (m : Tab IcLine) n =>
    Tab.modify (fun _ => IcLine.reset) m n (fun l =>
      { l with masked := false, fast := fastLine n, core := BitVec.ofNat 4 (Config.freeValue (s.free + n)).toNat })) s.intr.lines
  { s with free := s.free + 76, intr := { s.intr with lines := ls } }

/-- FIRMWARE_READY (R445, R446 step 9): stage 4, and one record to every present function with the firmware version. -/
def execFirmwareReady (s : State) : Host.Outcome State Fault Refusal :=
  .next (
    if !s.powered ∨ !(s.module.stage == 7 || (s.module.stage == 3 && s.module.booted)) then s
    else
      let t := s.routeLines
      let t := { t with module := { t.module with stage := 4 } }
      t.postAll 0 1 0 (Tab.get (fun _ => 0) s.sec.versions 1).toNat)

/-! ### Configuration space (11 R302, R303; 18 R437) -/

/-- CONFIGURATION_WRITE: virtual functions beyond NumVFs, or with VF enable clear, are absent, and one that leaves is reset; PTM
enable lets requests begin. -/
def execConfigurationWrite (numVfs : Fin 9) (vfEnable ptmEnable : Bool) (s : State) : Host.Outcome State Fault Refusal :=
  .next (
    let t := { s with module := { s.module with numVfs := numVfs.val, vfEnable := vfEnable, ptmEnable := ptmEnable } }
    ((List.range 8).map (· + 1)).foldl (fun (u : State) k => if s.present k && !t.present k then u.resetFn k else u) t)

end Sys2Proof.Machine
end

