-- ==== Sys2Proof/Machine/Spares.lean ====
section
/-! DEFINITION. The commands of spares, wear and bring-up (20 R463 to R478). -/

namespace Sys2Proof.Machine

/-! ### The repair map and the wear log (R463 to R465) -/

/-- REPAIR_MAP_WRITE (R463): the changes enter flash. -/
def execRepairMapWrite (s : State) : Host.Outcome State Fault Refusal :=
  .next (
    if !s.rationing then s
    else
      let f := { s.sec.flash with map := s.sec.flash.map ++ s.spares.changes }
      { s with sec := { s.sec with flash := f }, spares := { s.spares with changes := [] } })

/-- TST_WEAR_READ (R465): ignored while a copy runs. -/
def State.wearRead (s : State) (value : W64) : State :=
  if s.spares.wearBusy then s
  else { s with spares := { s.spares with wearBusy := true, wearAddr := BitVec.ofNat 64 (at_ 6 (fld value 63 6)) } }

/-- WEAR_LOG_READ (R465). -/
def execWearLogRead (fn : FnId) (value : W64) (s : State) : Host.Outcome State Fault Refusal :=
  .next (if fn.val = 0 ∧ s.bar0 0 then s.wearRead value else s)

/-- Record i of the ring: a record never written is as flash holds it (log 3). -/
def Flash.wearAt (f : Flash) (i : Nat) : WearRec :=
  if f.wearTotal ≤ 65536 then f.wear.getD i (Config.blankRecord i)
  else f.wear.getD ((i + 65536 - f.wearTotal % 65536) % 65536) (Config.blankRecord i)

/-- Ring index of the oldest record. -/
def Flash.wearOldest (f : Flash) : Nat := if f.wearTotal ≤ 65536 then 0 else f.wearTotal % 65536

/-- The header of the copy (R465): the total ever written and the index of the oldest record. -/
def Flash.wearHeader (f : Flash) : List Byte := toBytes 8 f.wearTotal ++ toBytes 4 f.wearOldest ++ toBytes 52 0

/-- WEAR_LOG_READ_COMPLETE (R465): the header and the records reach the host, or the write failed. -/
def execWearLogReadComplete (written : Bool) (s : State) : Host.Outcome State Fault Refusal :=
  .next (
    if !s.spares.wearBusy then s
    else
      let f := s.sec.flash
      let bs := f.wearHeader ++ (List.range 65536).flatMap (fun i => toBytes 32 (f.wearAt i).toNat)
      let t := if written then s.hostWrite 0 s.spares.wearAddr.toNat bs else s
      { t with spares := { t.spares with wearBusy := false, wearStatus := if written then 0 else 1 } })

/-! ### Clusters (R467) -/

/-- Working clusters that are not in service, the idle working ones of FEAT_CLUSTERS. -/
def State.idleWorking (s : State) (c : Nat) : Bool := decide (c < 1280) && s.working c && !(s.serving (c / 320)).contains c

/-- CLUSTER_RETEST (R467): once every hour of module time; failures are marked. -/
def execClusterRetest (failing : List Nat) (s : State) : Host.Outcome State Fault Refusal :=
  .next (
    if !s.firmwareUp ∨ s.nowNat < s.module.testedAt.toNat + 3600000000000 then s
    else
      let t := { s with module := { s.module with testedAt := s.time.now } }
      (failing.filter t.idleWorking).foldl State.markCluster t)

/-- TST_CLUSTER_MARK (R467): an index above 319 is ignored. -/
def State.clusterMarkWrite (s : State) (value : W64) : State :=
  if 319 < fld value 10 2 then s else s.markCluster (320 * fld value 1 0 + fld value 10 2)

/-- CLUSTER_MARK (R467). -/
def execClusterMark (fn : FnId) (value : W64) (s : State) : Host.Outcome State Fault Refusal :=
  .next (if fn.val = 0 ∧ s.bar0 0 then s.clusterMarkWrite value else s)

/-! ### Rows (R470) -/

/-- The region of a line is a compute region. -/
def State.inCompute (s : State) (pln : Nat) : Bool :=
  match (s.regionOf pln).map s.region with
  | some r => r.compute
  | none => false

/-- A line that fails where it lies: uncorrectable or poisoned, or a failed seal. -/
def State.lineFails (s : State) (pln : Nat) : Bool :=
  let w := s.stored pln
  if w = blankLine then false
  else if s.inCompute pln then !sealOk w pln
  else match rsDecode w with
    | .bad => true
    | _ => false

/-- One line as a copy within a stack moves it (R470, R472): corrected as it is read; an uncorrectable protected line becomes the
poison code; a compute line moves byte for byte. -/
def State.copyLine (s : State) (pln : Nat) : State :=
  let w := s.stored pln
  if w = blankLine ∨ s.inCompute pln then s
  else match rsDecode w with
    | .clean _ => s
    | .corrected w' => (s.setStored pln w').corrected pln
    | .bad => s.badLine (sequencerOf pln) pln 0xFF false false

/-- ROW_REMAP (R470, R471): the row moves to a free spare row; with none free, or at the die's eighth row within 24 h, its die is
replaced. -/
def execRowRemap (b : BankId) (row : BitVec 16) (s : State) : Host.Outcome State Fault Refusal :=
  .next (
    let k := b.val / 1024
    let base := 1048576 * b.val + 16 * row.toNat
    let lines := (List.range 16).map (base + ·)
    let die := b.val / 32 % 32 / 2
    match lines.find? s.lineFails with
    | none =>
      if s.recentCount (1073741824 + base / 16) < 4 then s else remap k base lines die base
    | some bad => remap k base lines die bad)
where
  /-- The indivisible copy and the redirection. -/
  remap (k base : Nat) (lines : List Nat) (die pln : Nat) : State :=
    if 32 ≤ (Tab.get (fun _ => []) (s.stack k).remaps (b.val % 1024)).length then s.dieTrigger k die
    else
      let t := lines.foldl State.copyLine s
      let t := t.modStack k (fun x =>
        { x with remaps := Tab.modify (fun _ => []) x.remaps (b.val % 1024) (· ++ [base / 16 % 65536]),
                 spare := { x.spare with rows := satAdd 65535 x.spare.rows 1 } })
      let t := ((t.mapChange 5 (65536 * b.val + row.toNat)).logWear 5 (b.val / 32) (b.val % 32) pln).noteRecent (2147483648 + 16 * k + die)
      if t.recentCount (2147483648 + 16 * k + die) = 8 then t.dieTrigger k die else t

/-! ### Dies (R471 to R475) -/

/-- TST_DIE_CMD: ignored while the stack's spare is not 0. -/
def State.dieCmd (s : State) (value : W64) : State :=
  let k := fld value 3 0
  if !bitAt value 8 || (s.stack k).spare.state != 0 then s else s.dieTrigger k (fld value 7 4)

/-- DIE_COPY (R471, R472). -/
def execDieCopy (fn : FnId) (value : W64) (s : State) : Host.Outcome State Fault Refusal :=
  .next (if fn.val = 0 ∧ s.bar0 0 then s.dieCmd value else s)

/-- Engines of a die of a stack. -/
def dieEngines (k die : Nat) : List Nat := (List.range 16).map (fun i => 256 * k + 16 * die + i)

/-- The copy stops with the spare die failed: the old die stays in service until the next boot (R473, R475). -/
def State.spareFails (s : State) (k : Nat) : State :=
  (s.modStack k (fun y => { y with spare := { y.spare with state := 3, progress := 0 } })).dieTrigger k (s.stack k).spare.replaced

/-- DIE_COPY_ROWS_DONE (R472 steps 2 to 4): the die's lines are copied, new packets to its engines are held, and its suspended
engines resume; or a line was uncorrectable in the spare die (R475). -/
def execDieCopyRowsDone (st : RowsDone) (s : State) : Host.Outcome State Fault Refusal :=
  .next (
    let k := st.stack.val
    let x := (s.stack k).spare
    if x.state ≠ 1 ∨ x.holding then s
    else if !st.spareOk then s.spareFails k
    else
      let t := (s.writtenLines.filter (fun l => plnStack l == k && plnChannel l / 2 == x.replaced)).foldl State.copyLine s
      let t := t.modStack k (fun y => { y with spare := { y.spare with holding := true, progress := 1023 } })
      (dieEngines k x.replaced).foldl (fun (u : State) e => State.resumeOne (u.engine e).src u e) t)

/-- DIEMAP (05 R150; R472 steps 5 and 6): once no run of the die's engines is left, its channels move to the spare die, and the held
packets are released. -/
def execDiemap (st : StackId) (src : PacketSource) (pk : Packet) (s : State) : Host.Outcome State Fault Refusal :=
  .next (s.packet st.val src pk 0x14 false (fun t =>
    t.firmwarePacket st.val src pk (pk.formOk 0 16) (fun u =>
      let k := st.val
      let x := (u.stack k).spare
      if x.state ≠ 1 ∨ !x.holding ∨ (dieEngines k x.replaced).any (fun e => (u.engine e).busy) then u
      else
        let u := u.modStack k (fun y =>
          { y with dieMap := Tab.set (fun d => d) y.dieMap x.replaced 16, spare := { y.spare with state := 2, holding := false } })
        ((u.mapChange 7 (16 * k + x.replaced)).logWear 7 k x.replaced 0).releaseHeld k)))

/-! ### Pattern engines (R476, R477) -/

/-- Failing lines enter the results: the channel's bit, the count, and the first sixteen lines. -/
def State.patFailures (s : State) (failing : List (Nat × Bool)) : State :=
  let z := s.spares
  let one (m : Spares) (e : Nat × Bool) : Spares :=
    let c := plnChannel e.1
    { m with
      patFail := if e.2 then m.patFail else setFld m.patFail c c 1,
      patSpareFail := if e.2 then setFld m.patSpareFail (c % 2) (c % 2) 1 else m.patSpareFail,
      patErrors := satAdd 16383 m.patErrors 1,
      patErrs := if 16 ≤ m.patErrs.length then m.patErrs else m.patErrs ++ [BitVec.ofNat 64 (e.1 % 2 ^ 34 + at_ 34 (b2n e.2) + at_ 35 1)] }
  { s with spares := failing.foldl one z }

/-- PATTERN (05 R150; R476): every line of the channel is blanked at the end of the run; failing lines count in the results of a run
that TST_PAT_CMD began. -/
def execPattern (st : StackId) (src : PacketSource) (pk : Packet) (channel : Fin 32) (failing : List Nat) (s : State) :
    Host.Outcome State Fault Refusal :=
  .next (s.packet st.val src pk 0x13 false (fun t =>
    t.firmwarePacket st.val src pk (pk.formOk 0 16) (fun u =>
      let mine (l : Nat) : Bool := plnStack l == st.val && plnChannel l == channel.val
      let u := u.blankWhere mine
      if u.spares.patBusy then u.patFailures ((failing.filter mine).map (fun l => (l, false))) else u)))

/-- Some channel group of a mask is held by a partition or covered by a region. -/
def State.groupsTaken (s : State) (k mask : Nat) : Bool :=
  (List.range 8).any (fun g => mask.testBit g &&
    ((s.groupOwner (8 * k + g)).isSome ||
      s.memory.regions.any (fun e => e.2.valid && e.2.stackList.contains k && e.2.groupMask.testBit g)))

/-- TST_PAT_CMD (R475, R477): ignored while a run is in progress. -/
def State.patCommand (s : State) (value : W64) : State :=
  if s.spares.patBusy then s
  else
    let k := fld value 3 0
    let x := (s.stack k).spare
    let st := if s.groupsTaken k (fld value 11 4) then 1
      else if (bitAt value 12 && x.state != 0) || x.state == 1 then 2 else 0
    if st = 0 then
      { s with spares := { s.spares with patBusy := true, patStatus := 0, patFail := 0, patSpareFail := 0, patErrors := 0, patErrs := [],
                                         patCmd := value } }
    else { s with spares := { s.spares with patStatus := BitVec.ofNat 8 st } }

/-- TST_PAT_CMD (R477). -/
def execTstPatCmd (fn : FnId) (value : W64) (s : State) : Host.Outcome State Fault Refusal :=
  .next (if fn.val = 0 ∧ s.bar0 0 then s.patCommand value else s)

/-- PATTERN_RUN_COMPLETE (R476, R477): every line of the groups under test is blanked, and the failing lines that no PATTERN packet
has reported are. -/
def execPatternRunComplete (failing : List (BitVec 34 × Bool)) (s : State) : Host.Outcome State Fault Refusal :=
  .next (
    if !s.spares.patBusy then s
    else
      let v := s.spares.patCmd
      let k := fld v 3 0
      let mine (l : Nat) : Bool := plnStack l == k && bitAt v (4 + plnChannel l / 4)
      let t := if fld v 17 13 = 0 then s else s.blankWhere mine
      let t := t.patFailures ((failing.map (fun e => (e.1.toNat, e.2))).filter (fun e => if e.2 then bitAt v 12 else mine e.1))
      { t with spares := { t.spares with patBusy := false, patStatus := 0 } })

/-! ### Link tests (R478) -/

/-- A test of a mode is accepted on a port; while a test runs, the port's state reads training. -/
def State.testAllowed (s : State) (n mode : Nat) : Bool :=
  (s.portOwner n).isNone &&
    (match mode with
     | 0 => true
     | 2 => !(s.port n).isUp
     | _ => s.portEnabled n && decide ((s.port n).mode = .down) && (s.port n).test.isNone)

/-- TST_PORT_n_TEST is written: a test starts with its results cleared, or mode 0 ends it and an enabled port trains. A reserved
pattern leaves that field as it was (00 R12). -/
def State.portTest (s : State) (n : Nat) (value : W64) : State :=
  let off := 0xA0200 + 0x10 * n
  let mode := fld value 1 0
  if !s.testAllowed n mode then s
  else
    let pat := if fld value 3 2 = 3 then fld (s.reg 0 off) 3 2 else fld value 3 2
    let v : W64 := BitVec.ofNat 64 (mode + at_ 2 pat + at_ 4 (fld value 8 4))
    let t := s.setReg 0 off v
    if mode = 0 then
      let u := t.modPort n (fun x => { x with test := none })
      if (s.port n).test.isSome then u.startTraining n else u
    else t.modPort n (fun x => { x with test := some v, results := [], testLocked := 0 })

/-- TST_PORT_TEST (R478). -/
def execTstPortTest (fn : FnId) (port : PortId) (value : W64) (s : State) : Host.Outcome State Fault Refusal :=
  .next (if fn.val = 0 ∧ s.bar0 0 then s.portTest port.val value else s)

/-- CHECKER_LOCK (R478): a selected lane's checker has locked, with the symbol errors it has counted since; a far loopback checks
nothing. -/
def execCheckerLock (port : PortId) (lane : LaneId) (errors : BitVec 12) (s : State) : Host.Outcome State Fault Refusal :=
  .next (match (s.port port.val).test with
    | none => s
    | some v =>
      if fld v 1 0 = 3 ∨ !bitAt v (4 + lane.val) then s
      else s.modPort port.val (fun x =>
        { x with testLocked := setFld x.testLocked lane.val lane.val 1, results := Tab.set (fun _ => 0) x.results lane.val errors }))

end Sys2Proof.Machine
end

