-- ==== Sys2Proof/Machine/Security.lean ====
section
/-! DEFINITION. The commands of the security core, of SPDM and TDISP, and of the debug port (16; 06 R191; 00 R7). -/

namespace Sys2Proof.Machine

/-! ### SEC_CMD (R402) -/

/-- The security core serves commands. -/
def State.secServes (s : State) : Bool := s.powered && s.sec.alias_

/-- Bytes first to last - 1 of an argument block are zero. -/
def zeroBytes (l : Line) (first last : Nat) : Bool := lineNat l first (last - first) == 0

/-- Start an operation: ignored while busy; an argument block that the host cannot deliver ends it at its completion. UNLOCK, ENROL
and REVOKE use up the current nonce (R402, R410). -/
def State.secStart (s : State) (fn op : Nat) (arg : Option Line) : State :=
  if fn ≠ 0 ∨ s.sec.busy ∨ !s.secServes ∨ !s.bar0 0 then s
  else
    let n := s.sec.nonce
    { s with sec := { s.sec with
      busy := true, op := arg.map (fun l => { op := op, arg := l, nonce := n }), lost := if arg.isNone then op else 0,
      nonce := if 4 ≤ op then none else n } }

/-- NONCE (R402): the fresh nonce is written to bytes 0 to 31 of the argument block and becomes current. A block whose other bytes
are not zero, or that the host cannot deliver, gives no nonce (00 R11). -/
def execNonce (fn : FnId) (fresh : NonceInput) (s : State) : Host.Outcome State Fault Refusal :=
  let t := s.secStart fn.val 1 fresh.block
  .next (
    if fn.val ≠ 0 ∨ s.sec.busy ∨ !s.secServes ∨ !s.bar0 0 ∨ !(fresh.block.any (fun l => zeroBytes l 32 64)) then t
    else
      ({ t with sec := { t.sec with nonce := some fresh.drawn } }).hostWrite 0 (64 * fld (s.reg 0 0x90000) 63 6) (toBytes 32 fresh.drawn.toNat))

/-- UPDATE (R400). -/
def execUpdate (fn : FnId) (arg : Option Line) (s : State) : Host.Outcome State Fault Refusal := .next (s.secStart fn.val 2 arg)

/-- COMMIT (R399, R400). -/
def execCommitFloor (fn : FnId) (arg : Option Line) (s : State) : Host.Outcome State Fault Refusal := .next (s.secStart fn.val 3 arg)

/-- ENROL (R401). -/
def execEnrol (fn : FnId) (arg : Option Line) (s : State) : Host.Outcome State Fault Refusal := .next (s.secStart fn.val 4 arg)

/-- REVOKE (R401). -/
def execRevoke (fn : FnId) (arg : Option Line) (s : State) : Host.Outcome State Fault Refusal := .next (s.secStart fn.val 5 arg)

/-- UNLOCK (R410, R411). -/
def execUnlock (fn : FnId) (arg : Option Line) (s : State) : Host.Outcome State Fault Refusal := .next (s.secStart fn.val 6 arg)

/-! ### What an operation does (R399 to R401, R410, R411) -/

/-- Replace what flash holds. -/
def State.setFlash (s : State) (f : Flash) : State := { s with sec := { s.sec with flash := f } }

/-- Any TDI of a confidential partition is in CONFIG_LOCKED or RUN (R407). -/
def State.anyTdiHeld (s : State) : Bool := (List.range 8).any s.tdiHeld

/-- UPDATE of a target 0 to 2: the image enters the bank that did not boot. -/
def State.updateImage (s : State) (target : Nat) (img : Image) (flashOk : Bool) : State × Nat :=
  let f := s.sec.flash
  let b := 1 - fld s.sec.bootedBank target target
  let put (i : Image) : State := s.setFlash { f with banks := Tab.set (fun _ => none) f.banks (2 * target + b) (some i) }
  if !imageLayout target img then (s, 0x01)
  else if !imageSigned img then (s, 0x03)
  else if imageVersion img < f.floor target then (s, 0x04)
  else if !flashOk then (put [], 0x09)
  else (put img, 0)

/-- UPDATE of the library: written to flash; its load begins, which holds new packets and resumes suspended engines (06 R191). -/
def State.updateLibrary (s : State) (img : Image) (flashOk : Bool) : State × Nat :=
  let f := s.sec.flash
  match f.checkLibrary img with
  | .inr st => (s, st)
  | .inl _ =>
    if !flashOk then (s.setFlash { f with library := some [] }, 0x09)
    else
      let t := s.setFlash { f with library := some img }
      let t := { t with sec := { t.sec with loading := true } }
      ((t.engines.map (·.1)).foldl (fun (u : State) e => State.resumeOne (u.engine e).src u e) t, 0)

/-- UPDATE. -/
def State.doUpdate (s : State) (a : Line) (body : Option (List Byte)) (flashOk : Bool) : State × Nat :=
  let target := lineNat a 0 1
  let n := lineNat a 4 4
  if 3 < target ∨ !zeroBytes a 1 4 ∨ !zeroBytes a 16 64 then (s, 0x01)
  else if target = 3 ∧ s.anyTdiHeld then (s, 0x0A)
  else match body with
    | none => (s, 0x02)
    | some bs =>
      if bs.length < n then (s, 0x02)
      else if target = 3 then s.updateLibrary (bs.take n) flashOk
      else s.updateImage target (bs.take n) flashOk

/-- Version of the image that runs for a target, or of the loaded library for its signer. -/
def State.runningVersion (s : State) (k : Nat) : Option Nat :=
  if k < 3 then some (Tab.get (fun _ => 0) s.sec.versions k).toNat
  else match s.sec.library with
    | some l => if l.signer = k - 3 then some l.version.toNat else none
    | none => none

/-- COMMIT: a floor rises to the running version and never falls. With no library of the signer running nothing states the status
(log 3). -/
def State.doCommit (s : State) (a : Line) (flashOk : Bool) : State × Nat :=
  let k := lineNat a 0 1
  if 7 < k ∨ !zeroBytes a 1 64 then (s, 0x01)
  else match s.runningVersion k with
    | none => (s.useFree, s.freeVal.toNat % 256)
    | some v =>
      if !flashOk then (s, 0x09)
      else
        let f := s.sec.flash
        (s.setFlash { f with floors := Tab.set (fun _ => 0) f.floors k (BitVec.ofNat 32 (max v (f.floor k))) }, 0)

/-- ENROL or REVOKE of a slot is refused with status 0x07 (R401). -/
def State.slotRefused (s : State) (op slot : Nat) : Bool :=
  let f := s.sec.flash
  if op = 4 then (f.owner slot).isSome
  else (f.owner slot).isNone ||
    (match s.sec.library with
     | some l => l.signer == slot
     | none => false) ||
    (f.hasRight slot 0 && (f.filled.filter (fun k => f.hasRight k 0)).length == 1 && decide (1 < f.filled.length))

/-- What the signature of an ENROL or REVOKE covers (R401). -/
def ownerMessage (op slot rights : Nat) (key : Option (List Byte)) (nonce : BitVec 256) : List Byte :=
  ascii "CNOK" ++ toBytes 1 op ++ toBytes 1 slot ++ toBytes 1 rights ++
    toBytes 32 (match key with | some k => (sha3 k).toNat | none => 0) ++ toBytes 32 nonce.toNat

/-- The owner slot takes its new content, and slot 4 is extended (R398). -/
def State.setOwner (s : State) (slot : Nat) (o : Option OwnerKey) : State :=
  let f := s.sec.flash
  let t := s.setFlash { f with owners := Tab.set (fun _ => none) f.owners slot o }
  t.extend 4 (sha3 t.sec.flash.ownerSet)

/-- ENROL (op 4) and REVOKE (op 5). -/
def State.doOwner (s : State) (o : SecOp) (body sig : Option (List Byte)) (flashOk : Bool) : State × Nat :=
  let f := s.sec.flash
  let slot := lineNat o.arg 0 1
  let rights := lineNat o.arg 1 1
  let auth := lineNat o.arg 2 1
  let key : Option (List Byte) := if o.op = 4 then body.map (·.take 1312) else none
  let new : Option OwnerKey := key.map (fun k => { key := k, rights := BitVec.ofNat 8 rights })
  let done' : State × Nat := if flashOk then (s.setOwner slot new, 0) else (s, 0x09)
  if slot = 0 ∨ 4 < slot ∨ 3 < rights ∨ 4 < auth ∨ !zeroBytes o.arg 3 8 ∨ !zeroBytes o.arg 24 64 then (s, 0x01)
  else if s.slotRefused o.op slot then (s, 0x07)
  else if o.op = 4 ∧ (body.getD []).length < 1312 then (s, 0x02)
  else if f.filled.isEmpty then done'
  else match o.nonce, sig with
    | _, none => (s, 0x02)
    | none, some _ => (s, 0x05)
    | some n, some g =>
      match f.owner auth with
      | none => (s, 0x03)
      | some k =>
        if !bitAt k.rights 0 || !Config.verify k.key (ownerMessage o.op slot rights key n) g then (s, 0x03) else done'

/-- The status of an UNLOCK's token (R410, R402), 0 where it is valid. -/
def State.tokenStatus (s : State) (o : SecOp) (body : Option (List Byte)) : Nat :=
  match body with
  | none => 0x02
  | some t =>
    let signer := natAt t 6 1
    let key := if signer = 0 then some (Config.varperKey 1)
      else if s.sec.flash.hasRight signer 1 then (s.sec.flash.owner signer).map (·.key) else none
    if !zeroBytes o.arg 0 8 ∨ !zeroBytes o.arg 16 64 ∨ t.length ≠ 2548 ∨ bytesAt t 0 4 ≠ ascii "CNDT" ∨ natAt t 4 2 ≠ 1 ∨ 4 < signer ∨
        natAt t 7 1 ≠ 0 ∨ !allZero (bytesAt t 72 56) then 0x01
    else match key with
      | none => 0x03
      | some k =>
        if !Config.verify k (t.take 128) (t.drop 128) then 0x03
        else if natAt t 8 32 ≠ (sha3 Config.identityKey).toNat then 0x06
        else if o.nonce ≠ some (BitVec.ofNat 256 (natAt t 40 32)) then 0x05
        else 0

/-- Every key of R411 step 1 is destroyed: memory encryption, poste restante, Motra and IDE. -/
def State.dropKeys (s : State) : State :=
  let t := (List.range 8).foldl (fun (u : State) p => if u.holds p then u.destroyKeys p else u) s.endSessions
  { t.dropIde with sec := { t.sec with spdm := false } }

/-- Spilled parcels of a partition are returned, and its poste restante key is made again (R411 step 3; 07 R220). -/
def State.renewPoste (s : State) (p : Nat) : State :=
  let is := (s.round p).ledger.filterMap (fun e => if e.2.state = .spilled then some e.1 else none)
  (s.replayGuard (is.foldl (fun (u : State) i => u.returned p i) s) p).newPoste p

/-- UNLOCK with a valid token (R411); the port opens when no termination is left. -/
def State.doUnlock (s : State) (token : List Byte) : State :=
  let t := s.dropKeys.extend 6 (sha3 token)
  let t := (List.range 8).foldl (fun (u : State) p => u.terminate p 1) t
  let t := (List.range 8).foldl (fun (u : State) p =>
    if u.holds p && !u.confidential p && !(u.part p).applied.confidential then u.renewPoste p else u) t
  ({ t with sec := { t.sec with opening := true } }).openPort

/-- UNLOCK ends: after sixteen refusals every further one is refused (R410). -/
def State.endUnlock (s : State) (o : SecOp) (body : Option (List Byte)) : State × Nat :=
  let st := if 16 ≤ s.sec.failedUnlocks then 0x08 else s.tokenStatus o body
  if st = 0 then (s.doUnlock (body.getD []), 0)
  else ({ s with sec := { s.sec with failedUnlocks := satAdd 255 s.sec.failedUnlocks 1 } }, st)

/-- What an operation leaves, and its status. -/
def State.secResult (s : State) (body sig : Option (List Byte)) (flashOk : Bool) : State × Nat :=
  match s.sec.op with
  | none =>
    if s.sec.lost = 6 then
      ({ s with sec := { s.sec with failedUnlocks := satAdd 255 s.sec.failedUnlocks 1 } }, if 16 ≤ s.sec.failedUnlocks then 0x08 else 0x02)
    else (s, 0x02)
  | some o =>
    match o.op with
    | 2 => s.doUpdate o.arg body flashOk
    | 3 => s.doCommit o.arg flashOk
    | 4 => s.doOwner o body sig flashOk
    | 5 => s.doOwner o body sig flashOk
    | 6 => s.endUnlock o body
    | _ => (s, if zeroBytes o.arg 32 64 then 0 else 0x01)

/-- SEC_OPERATION_COMPLETE (R402): the status stands, busy clears, line 58 rises (12 R329), and requests for measurements that an
UNLOCK kept waiting are answered unless its terminations still run (R412). -/
def execSecOperationComplete (body : Option (List Byte)) (sig : Option (List Byte)) (flashOk : Bool) (s : State) :
    Host.Outcome State Fault Refusal :=
  .next (
    if !s.sec.busy then s
    else
      let r := s.secResult body sig flashOk
      let t := { r.1 with sec := { r.1.sec with busy := false, op := none, lost := 0, status := BitVec.ofNat 8 r.2 } }
      let t := t.latch 58
      if t.sec.opening then t else t.answerWaiting)

/-- LIBRARY_LOAD (06 R191): once every run has ended, the library that flash names is written into every store and the entry table
into every sequencer, slot 3 is extended (R398, R400), and the held packets are released. A refused image leaves the loaded library. -/
def execLibraryLoad (image : List Byte) (s : State) : Host.Outcome State Fault Refusal :=
  .next (
    if !s.sec.loading ∨ s.engines.any (fun e => e.2.busy) ∨ image ≠ s.sec.flash.lib then s
    else
      let t := match s.sec.flash.checkLibrary image with
        | .inr _ => s
        | .inl l => ({ s with sec := { s.sec with library := some l } }).extend 3 (sha3 image)
      let t := { t with sec := { t.sec with loading := false } }
      (List.range 16).foldl State.releaseHeld t)

/-! ### SPDM, IDE and TDISP (R393, R395, R403, R407; 00 R7) -/

/-- A message has come in through the DOE mailbox: line 59 (12 R329). -/
def State.doeHeard (s : State) : State := if s.module.electrical = .running then s.latch 59 else s

/-- An answer whose wire form the published standard gives (log 7). -/
def State.answerDoe (s : State) (kind : Nat) (request : List Byte) : State := s.emit (.doe (Config.protocolAnswer kind request))

/-- GET_MEASUREMENTS (R403, R412): a signed report; during an UNLOCK it waits. -/
def execGetMeasurements (index : BitVec 8) (reqNonce : BitVec 256) (s : State) : Host.Outcome State Fault Refusal :=
  .next (
    let s := s.doeHeard
    if !s.secServes then s
    else match reportOf index.toNat with
      | none => s.answerDoe 0x7F (toBytes 1 index.toNat)
      | some p =>
        let unlocking := s.sec.opening || (match s.sec.op with
          | some o => o.op == 6
          | none => false)
        if unlocking then { s with sec := { s.sec with waitingReports := s.sec.waitingReports ++ [(index.toNat, reqNonce)] } }
        else s.sendReport p reqNonce)

/-- GET_CERTIFICATE (R395): slot 0 returns the chain from the device CA down to the alias certificate. -/
def execGetCertificate (slot : Nat) (s : State) : Host.Outcome State Fault Refusal :=
  .next (
    let s := s.doeHeard
    if !s.secServes then s
    else if slot = 0 then s.emit (.doe (Config.certificateChain s.sec.bootId [s.slotValue 0, s.slotValue 1, s.slotValue 2]))
    else s.answerDoe 0x7F (toBytes 1 slot))

/-- CHALLENGE: answered under the alias key. -/
def execChallenge (request : List Byte) (s : State) : Host.Outcome State Fault Refusal :=
  .next (
    let s := s.doeHeard
    if s.secServes then s.emit (.doe (Config.protocolAnswer 0x03 request ++ Config.sign 1 request)) else s)

/-- KEY_EXCHANGE (R393): the session over which IDE keys and TDISP messages travel. -/
def execKeyExchange (request : List Byte) (s : State) : Host.Outcome State Fault Refusal :=
  .next (
    let s := s.doeHeard
    if s.secServes then ({ s with sec := { s.sec with spdm := true } }).answerDoe 0x64 request else s)

/-- IDE_KEY_PROGRAM (R393, R407): the stream keys of a function. -/
def execIdeKeyProgram (fn : FnId) (request : List Byte) (s : State) : Host.Outcome State Fault Refusal :=
  .next (
    let s := s.doeHeard
    if s.secServes && s.sec.spdm then (s.modFn fn.val (fun x => { x with ide := true })).answerDoe 0x00 request else s)

/-- GET_DEVICE_INTERFACE_REPORT (R403): the report of the virtual function's slot. -/
def execGetDeviceInterfaceReport (fn : FnId) (reqNonce : BitVec 256) (s : State) : Host.Outcome State Fault Refusal :=
  .next (
    let s := s.doeHeard
    if s.secServes && fn.val != 0 then s.emit (.doe (s.report (some (fn.val - 1)) reqNonce)) else s)

/-- Change the TDI of a virtual function's slot. -/
def State.setTdi (s : State) (fn : Nat) (m : TdiMode) : State := s.modPart (fn - 1) (fun x => { x with tdi := m })

/-- TDISP messages reach a virtual function's TDI (R393: over the SPDM session). -/
def State.tdisp (s : State) (fn : Nat) : Bool := s.secServes && s.sec.spdm && fn != 0 && s.present fn

/-- TDI_LOCK (R407): CONFIG_UNLOCKED to CONFIG_LOCKED. -/
def execTdiLock (fn : FnId) (s : State) : Host.Outcome State Fault Refusal :=
  .next (
    let s := s.doeHeard
    if s.tdisp fn.val ∧ (s.part (fn.val - 1)).tdi = .unlocked then s.setTdi fn.val .locked else s)

/-- TDI_RUN (R407): CONFIG_LOCKED to RUN. -/
def execTdiRun (fn : FnId) (s : State) : Host.Outcome State Fault Refusal :=
  .next (
    let s := s.doeHeard
    if s.tdisp fn.val ∧ (s.part (fn.val - 1)).tdi = .locked then s.setTdi fn.val .running else s)

/-- TDI_ERROR (R408): a confidential partition is terminated with cause 2. -/
def execTdiError (fn : FnId) (s : State) : Host.Outcome State Fault Refusal :=
  .next (
    let p := fn.val - 1
    if fn.val ≠ 0 ∧ ((s.part p).tdi = .locked ∨ (s.part p).tdi = .running) then (s.setTdi fn.val .error).terminate p 2 else s)

/-! ### The debug port (R411; 00 R7; 21 R480) -/

/-- The test access port answers: the port is open and the module is running. -/
def State.tapOpen (s : State) : Bool := s.sec.debugOpen && decide (s.module.electrical = .running)

/-- BYPASS: the one-bit register is selected, which capture loads with 0. -/
def execBypass (s : State) : Host.Outcome State Fault Refusal :=
  .next (if s.tapOpen then { s with sec := { s.sec with tapInstr := 0, bypassBit := false } } else s)

/-- IDCODE: the identification register is shifted out. -/
def execIdcode (s : State) : Host.Outcome State Fault Refusal :=
  .next (
    if s.tapOpen then ({ s with sec := { s.sec with tapInstr := 1 } }).emit (.jtag (BitVec.ofNat 64 Config.idcode.toNat)) else s)

/-- DBG_INSTRUCTION: TRST selects IDCODE; else one register of the DBG_ block is written, or read and shifted out. Nothing describes
the block's registers, which are held as plain storage with the reset value 0 (22 R492; log 44). -/
def execDbgInstruction (trst : Bool) (offset : BitVec 23) (value : Option W64) (s : State) : Host.Outcome State Fault Refusal :=
  .next (
    if !s.tapOpen then s
    else if trst then { s with sec := { s.sec with tapInstr := 1 } }
    else
      let t := { s with sec := { s.sec with tapInstr := 2 } }
      match value with
      | some v => { t with sec := { t.sec with dbg := Tab.set (fun _ => 0) t.sec.dbg offset.toNat v } }
      | none => t.emit (.jtag (Tab.get (fun _ => 0) s.sec.dbg offset.toNat)))

end Sys2Proof.Machine
end

