-- ==== Sys2Proof/Machine/Registers.lean ====
section
/-! DEFINITION. BAR0: what a read of a set-up register returns, and what a write to one does (22 R492 to R496; 00 R11 to R15). -/

namespace Sys2Proof.Machine

/-! ### Reads -/

/-- Fields marked BOOT are valid: MOD_STATUS has reported firmware-ready (00 R15). -/
def State.bootFields (s : State) : Bool := [4, 6].contains s.module.stage

/-- The fields of a word that are not marked BOOT, given the word's BOOT bits, before firmware-ready. -/
def State.boot0 (s : State) (mask v : W64) : W64 := if s.bootFields then v else v &&& ~~~mask

/-- A mask of bits [hi:lo]. -/
def bitsMask (hi lo : Nat) : W64 := BitVec.ofNat 64 ((2 ^ (hi + 1 - lo) - 1) * 2 ^ lo)

/-- MOD_PATROL (14 R370). -/
def State.patrolReg (s : State) : W64 :=
  s.reg 0 0x28 ||| BitVec.ofNat 64 (at_ 32 s.memory.sieve.passes + at_ 48 s.memory.sieve.found)

/-- MOD_SIEVE_STATUS (14 R366). -/
def State.sieveStatus (s : State) : W64 :=
  let c := s.memory.sieve
  BitVec.ofNat 64 (b2n c.busy + at_ 8 c.status.toNat + at_ 16 c.lastId.toNat)

/-- MOD_CE_n (14 R354). -/
def State.ceReg (s : State) (n : Nat) : W64 :=
  let c := s.ce n
  BitVec.ofNat 64 (c.bucket + at_ 10 (b2n c.above) + at_ 16 c.corrected + at_ 48 c.uncorrectable)

/-- A register of the MOD_ block. -/
def State.readMod (s : State) (fn off : Nat) : W64 :=
  if off = 0x10 then s.time.now
  else if off = 0x18 then s.timeStatus
  else if fn ≠ 0 then 0
  else if off = 0 then s.modStatus
  else if off = 0x20 then s.reg 0 0x20
  else if off = 0x28 then s.patrolReg
  else if off = 0x38 then s.sieveStatus
  else if 0x40 ≤ off ∧ off < 0x80 then s.reg 0 off
  else if 0x1000 ≤ off ∧ off < 0x2000 then s.ceReg ((off - 0x1000) / 8)
  else 0

/-- A feature register through BAR0 (02 R53, R55). -/
def State.readFeat (s : State) (fn k : Nat) : W64 :=
  let v := s.feat (fn - 1) (320 * (Config.barQuarter % 4)) k
  match k with
  | 0 => s.boot0 (bitsMask 63 0) v
  | 1 => if fn = 0 then 0 else v
  | 2 => 0
  | 7 => s.boot0 (bitsMask 55 48) v
  | 8 => s.boot0 (bitsMask 27 0) v
  | _ => v

/-- Bits of a function's sixteen rings. -/
def ringBits (f : Nat → Bool) : Nat := ((List.range 16).map (fun r => at_ r (b2n (f r)))).sum

/-- A register of the RING_ block (11 R314, R315): physical function 0 has ring 0 alone. -/
def State.readRing (s : State) (fn off : Nat) : W64 :=
  if off = 0 ∨ off = 8 then s.reg fn (0x20000 + off)
  else if off = 0x10 then BitVec.ofNat 64 (s.fn fn).enable.toNat
  else if off = 0x18 then
    BitVec.ofNat 64 (ringBits (fun r => (s.ring fn r).stoppedBit) + at_ 16 (ringBits (fun r => (s.ring fn r).draining)) +
      at_ 32 (b2n (s.fn fn).unreachable))
  else if off = 0x20 then (if fn = 0 then s.reg 0 0x20020 else 0)
  else if off < 0x100 ∨ 0x300 ≤ off ∨ (fn = 0 ∧ 0x120 ≤ off) then 0
  else
    let r := (off - 0x100) / 0x20
    match off % 0x20 with
    | 0 | 8 => s.reg fn (0x20000 + off)
    | 0x10 => BitVec.ofNat 64 ((s.ring fn r).moduleIndex.toNat + at_ 32 (s.ring fn r).error.toNat)
    | _ => 0

/-- EVT_INPUTS (12 R328). -/
def State.evtInputs (s : State) : W64 :=
  let i := s.intr
  BitVec.ofNat 64 (b2n i.throttle + at_ 1 (b2n i.throttleFast) + at_ 2 (b2n i.throttleStuck) + at_ 16 i.extraPulses)

/-- A register of the EVT_ block (12 R328). -/
def State.readEvt (s : State) (fn off : Nat) : W64 :=
  let x := s.fn fn
  if off = 0 then s.reg fn 0x30000
  else if off = 8 then BitVec.ofNat 64 (x.nextSeq.toNat + at_ 32 (b2n (!x.held.isEmpty)))
  else if off = 0x10 then BitVec.ofNat 64 (x.lost.toNat + at_ 32 x.masked.toNat)
  else if fn ≠ 0 then 0
  else if 0x100 ≤ off ∧ off < 0x180 then s.evtRate ((off - 0x100) / 8)
  else if off = 0x200 then s.evtInputs
  else 0

/-- Whether a function reads a region entry (05 R142). -/
def State.seesRegion (s : State) (fn n : Nat) : Bool :=
  fn == 0 || ((s.region n).valid && !(s.region n).fwOwned && (s.region n).readable (fn - 1))

/-- Whether a function reaches RGN_REPAIR_n (14 R358). -/
def State.ownsRegion (s : State) (fn n : Nat) : Bool :=
  fn == 0 || ((s.region n).valid && !(s.region n).fwOwned && (s.region n).owner == fn - 1)

/-- A register of the RGN_ block (05 R142, R143; 14 R358). The reserved bits of RGN_CMD_ARG0 and RGN_CMD_ARG1 read zero (00 R11); what
was written there is kept for the command's own check of them. -/
def State.readRgn (s : State) (fn off : Nat) : W64 :=
  let c := s.memory.ctl
  if off < 0x1000 then
    (if s.seesRegion fn (off / 16) then (if off % 16 = 0 then (s.region (off / 16)).w0 else (s.region (off / 16)).w1) else 0)
  else if 0x2000 ≤ off ∧ off < 0x2800 then (if s.ownsRegion fn ((off - 0x2000) / 8) then s.reg 0 (0x40000 + off) else 0)
  else if fn ≠ 0 then 0
  else if off = 0x1000 then s.reg 0 0x41000 &&& (bitsMask 52 16 ||| bitsMask 14 0)
  else if off = 0x1008 then s.reg 0 0x41008 &&& bitsMask 27 0
  else if off = 0x1018 then BitVec.ofNat 64 (b2n c.busy + at_ 8 c.status.toNat + at_ 16 c.index.toNat)
  else 0

/-- PART_CMD_STATUS (13 R336). -/
def State.partCmdStatus (s : State) : W64 :=
  let c := s.partCtl
  BitVec.ofNat 64 (b2n c.busy + at_ 8 c.status.toNat + at_ 16 c.partition)

/-- PART_PR_CFG busy: a slot of the window holds a parcel, or a copy to or from it is in flight (07 R217). -/
def State.prBusy (s : State) (p : Nat) : Bool :=
  let r := (s.part p).round
  !r.pr.used.isEmpty || r.ledger.any (fun e => decide (e.2.state = .spilling) || decide (e.2.state = .fetching))

/-- PART_REPLAY_STATUS (19 R459). -/
def State.replayStatus (s : State) (p : Nat) : W64 :=
  let j := (s.part p).journal
  BitVec.ofNat 64 (j.replay + at_ 2 j.reason + at_ 8 (b2n j.mismatched))

/-- A register of slot p (22 R493). -/
def State.readSlotReg (s : State) (p off : Nat) : W64 :=
  if off = 0x20 then s.partState p
  else if off = 0x40 then s.partReg p 0x40 ||| BitVec.ofNat 64 (at_ 24 (b2n (s.prBusy p)))
  else if off = 0x60 then (s.part p).round.step
  else if off = 0x90 then s.replayStatus p
  else if off = 0x98 then (s.part p).journal.stepAt
  else if off < 0x90 ∨ (0x100 ≤ off ∧ off < 0x380) then s.partReg p off
  else 0

/-- LNK_MODULE (15 R377). -/
def State.lnkModule (s : State) : W64 := BitVec.ofNat 64 (s.links.moduleId.toNat + at_ 16 (b2n s.links.idLock))

/-- State code of a port (15 R390). -/
def PortMode.code : PortMode → Nat
  | .down => 0 | .training => 1 | .up => 2 | .half => 3 | .disabled => 4

/-- LNK_PORT_n_STATUS (15 R390): training while a test runs (20 R478). -/
def State.portStatus (s : State) (n : Nat) : W64 :=
  let x := s.port n
  BitVec.ofNat 64 ((if x.test.isSome then 1 else x.mode.code) + at_ 3 x.lanes.toNat + at_ 8 x.marked.toNat + at_ 13 x.reason +
    at_ 16 (if x.isUp then x.peer else 0) + at_ 25 (b2n (x.isUp && (s.session x.peer).up)) + at_ 32 x.trainings)

/-- LNK_PORT_n_ERR (15 R390). -/
def State.portErr (s : State) (n : Nat) : W64 :=
  let x := s.port n
  BitVec.ofNat 64 (x.corrected + at_ 24 x.uncorrectable + at_ 40 x.discarded + at_ 52 x.timeouts)

/-- A register of the LNK_ block. -/
def State.readLnk (s : State) (fn off : Nat) : W64 :=
  if 0x2000 ≤ off ∧ off < 0x2200 then
    let n := (off - 0x2000) / 0x20
    match off % 0x20 with
    | 0 => if fn = 0 then s.reg 0 (0x70000 + off) else 0
    | 8 => if fn = 0 ∨ s.portOwner n = some (fn - 1) then s.portStatus n else 0
    | 0x10 => if fn = 0 then s.portErr n else 0
    | _ => 0
  else if fn ≠ 0 then 0
  else if off = 0 then s.lnkModule
  else if 0x1000 ≤ off ∧ off < 0x2000 then s.reg 0 (0x70000 + off)
  else 0

/-- A status word as the last recompute left it (17 R431). -/
def State.statusWord (s : State) (code : Nat) : W64 := Tab.get (fun _ => 0) s.power.smb code

/-- A register of the PWR_ and THM_ block (17 R430, R431): firmware updates what it reads at each recompute; before the first, a stack's
level reads 4. -/
def State.readPwr (s : State) (fn off : Nat) : W64 :=
  if off = 8 then s.boot0 (bitsMask 30 0) (s.statusWord 3)
  else if 0x40 ≤ off ∧ off < 0x60 then
    let q := (off - 0x40) / 8
    if fn = 0 ∨ (s.holds (fn - 1) ∧ sharesIn (s.part (fn - 1)).applied.shares q ≠ []) then s.boot0 (bitsMask 19 0) (s.statusWord (0x100 + q))
    else 0
  else if 0x80 ≤ off ∧ off < 0x100 then
    let k := (off - 0x80) / 8
    if fn = 0 ∨ (List.range 8).any (fun g => s.holdsGroup (fn - 1) (8 * k + g)) then s.boot0 (bitsMask 13 0) (if s.power.windowAt.isNone then BitVec.ofNat 64 (at_ 14 4) else s.statusWord (0x110 + k)) else 0
  else if fn ≠ 0 then 0
  else if off = 0 then s.reg 0 0x80000
  else if off = 0x10 then s.boot0 (bitsMask 31 0) (s.statusWord 2)
  else if 0x1000 ≤ off ∧ off < 0x1440 then s.boot0 (bitsMask 11 0) (s.statusWord (0x10 + (off - 0x1000) / 8))
  else 0

/-- SEC_STATE (16 R402). -/
def State.secState (s : State) : W64 :=
  let filled (i : Nat) : Bool := (Tab.get (fun _ => none) s.sec.flash.owners (i + 1)).isSome
  BitVec.ofNat 64 (b2n s.sec.debugOpen + ((List.range 4).map (fun i => at_ (1 + i) (b2n (filled i)))).sum +
    at_ 5 s.sec.bootedBank.toNat + at_ 8 s.sec.failedUnlocks)

/-- A register of the SEC_ block (16 R402). -/
def State.readSec (s : State) (off : Nat) : W64 :=
  if off = 0 then s.reg 0 0x90000
  else if off = 0x10 then BitVec.ofNat 64 (b2n s.sec.busy + at_ 8 s.sec.status.toNat)
  else if off = 0x18 then s.boot0 (bitsMask 7 0) s.secState
  else 0

/-- TST_PAT_STATUS (20 R477). -/
def State.patStatusReg (s : State) : W64 :=
  let z := s.spares
  BitVec.ofNat 64 (b2n z.patBusy + at_ 8 z.patStatus.toNat + at_ 16 z.patFail.toNat + at_ 48 z.patSpareFail.toNat + at_ 50 z.patErrors)

/-- TST_DIE_s (20 R472). -/
def State.dieReg (s : State) (k : Nat) : W64 :=
  let x := (s.stack k).spare
  BitVec.ofNat 64 (x.state + at_ 2 x.replaced + at_ 6 x.progress + at_ 16 x.rows + at_ 32 (popcount 8 x.lost.toNat))

/-- TST_PORT_n_RESULT (20 R478): a checker that has not locked reads 4,095. -/
def State.portResult (s : State) (n : Nat) : W64 :=
  let x := s.port n
  BitVec.ofNat 64 ((List.range 5).map (fun i =>
    at_ (12 * i) (if bitAt x.testLocked i then (Tab.get (fun _ => 0) x.results i).toNat else 4095))).sum

/-- A register of the TST_ block. -/
def State.readTst (s : State) (off : Nat) : W64 :=
  if off = 8 then BitVec.ofNat 64 (b2n s.spares.wearBusy + at_ 8 s.spares.wearStatus.toNat)
  else if off = 0x28 then s.patStatusReg
  else if 0x40 ≤ off ∧ off < 0xC0 then s.spares.patErrs.getD ((off - 0x40) / 8) 0
  else if 0x100 ≤ off ∧ off < 0x180 then s.boot0 (bitsMask 35 16 ||| bitsMask 5 0) (s.dieReg ((off - 0x100) / 8))
  else if 0x200 ≤ off ∧ off < 0x300 then
    (if off % 0x10 = 0 then s.reg 0 (0xA0000 + off)
     else if (s.port ((off - 0x200) / 0x10)).test.isSome then s.portResult ((off - 0x200) / 0x10) else 0)
  else 0

/-- The MSI-X table entry and the pending bit of a function (12 R323). -/
def State.readMsix (s : State) (fn off : Nat) : W64 :=
  if off = 0 then s.reg fn 0xF0000
  else if off = 8 then s.reg fn 0xF0008 ||| BitVec.ofNat 64 (at_ 32 (b2n (s.fn fn).vectorMasked))
  else if off = 0x800 then BitVec.ofNat 64 (b2n (s.fn fn).msgPending)
  else 0

/-- The 64-bit register at an offset, a multiple of 8, of a function's BAR0: zero where no register lies or the function is not given
it (22 R492, R494). -/
def State.readReg (s : State) (fn off : Nat) : W64 :=
  if s.module.electrical ≠ .running ∨ !s.present fn then 0
  else if off < 0x10000 then s.readMod fn off
  else if s.module.linkDegraded then 0
  else if off < 0x20000 then (if off < 0x10050 then s.readFeat fn ((off - 0x10000) / 8) else 0)
  else if off < 0x30000 then s.readRing fn (off - 0x20000)
  else if off < 0x40000 then s.readEvt fn (off - 0x30000)
  else if off < 0x50000 then s.readRgn fn (off - 0x40000)
  else if off < 0x60000 then (if fn = 0 ∧ off = 0x50008 then s.partCmdStatus else 0)
  else if off < 0x70000 then
    let p := (off - 0x60000) / 0x1000
    if fn = 0 then (if p < 8 then s.readSlotReg p (off % 0x1000) else 0)
    else if p = 0 then s.readSlotReg (fn - 1) (off % 0x1000)
    else 0
  else if off < 0x80000 then s.readLnk fn (off - 0x70000)
  else if off < 0x90000 then s.readPwr fn (off - 0x80000)
  else if off < 0xA0000 then (if fn = 0 then s.readSec (off - 0x90000) else 0)
  else if off < 0xB0000 then (if fn = 0 then s.readTst (off - 0xA0000) else 0)
  else if 0xF0000 ≤ off ∧ off < 0x100000 then s.readMsix fn (off - 0xF0000)
  else if 0x800000 ≤ off ∧ off < 0x1000000 ∧ fn = 0 ∧ s.sec.debugOpen then Tab.get (fun _ => 0) s.sec.dbg (off - 0x800000)
  else 0

/-- PART_STEP_READ (09 R277): the records of every step below the value returned are issued. -/
def execPartStepRead (fn : FnId) (p : PartId) (s : State) : Host.Outcome State Fault Refusal :=
  .next (
    if !s.bar0 fn.val then s
    else if fn.val = 0 ∨ fn.val = p.val + 1 then s.emit (.value (s.part p.val).round.step)
    else s.emit (.value 0))

/-! ### Writes -/

/-- Field [hi:lo] takes the written value when the table lists it; else those bits stay (00 R11, R12). -/
def takeIf (old new : W64) (hi lo : Nat) (ok : Nat → Bool) : W64 :=
  if ok (fld new hi lo) then setFld old hi lo (fld new hi lo) else old

/-- Field [hi:lo] takes the written value. -/
def take (old new : W64) (hi lo : Nat) : W64 := setFld old hi lo (fld new hi lo)

/-- The value that a write leaves in a register of a partition slot; none where it has no field to write (01 R23; 07 R199, R217;
08 R233; 10 R288, R290; 13 R335; 19 R459). -/
def slotReg (off : Nat) (old v : W64) : Option W64 :=
  if off = 0 then some (take old v 47 0)
  else if off = 0x08 ∨ off = 0x10 then some v
  else if off = 0x18 then
    let w := takeIf (take old v 16 0) v 18 17 (fun x => decide (x ≠ 3))
    some (takeIf (takeIf (take w v 19 19) v 29 20 (fun x => decide (5 ≤ x) && decide (x ≤ 640))) v 33 30
      (fun x => decide (1 ≤ x) && decide (x ≤ 8)))
  else if off = 0x28 then some (takeIf old v 8 0 (fun x => decide (x ≤ 256)))
  else if off = 0x30 then some (takeIf (take old v 7 0) v 12 8 (fun x => decide (x ≤ 16)))
  else if off = 0x38 then some (take old v 63 16)
  else if off = 0x40 then some (take old v 23 0)
  else if off = 0x48 then
    let w := takeIf (takeIf old v 15 0 (fun x => decide (1 ≤ x))) v 27 16 (fun x => decide (1 ≤ x))
    some (takeIf (take w v 35 28) v 51 36 (fun x => decide (256 ≤ x)))
  else if off = 0x50 then some (takeIf old v 14 0 (fun x => decide (x ≤ 16384)))
  else if off = 0x58 then some (take old v 23 0)
  else if off = 0x68 then some (take (takeIf (take old v 7 0) v 12 8 (fun x => decide (4 ≤ x) && decide (x ≤ 16))) v 13 13)
  else if off = 0x70 then some (take old v 1 0)
  else if off = 0x78 then some (take old v 63 6)
  else if off = 0x80 then some (take old v 39 0)
  else if off = 0x88 then some (take old v 32 0)
  else if 0x100 ≤ off ∧ off < 0x300 then some (take (take old v 16 0) v 63 20)
  else if 0x300 ≤ off ∧ off < 0x380 then
    let w := takeIf (take old v 8 0) v 18 9 (fun x => decide (1 ≤ x) && decide (x ≤ 512))
    some (take (takeIf w v 27 19 (fun x => decide (1 ≤ x))) v 28 28)
  else none

/-- A write to a register of slot p: a virtual function writes only the registers R496 names; those of a locked TDI are kept from
physical function 0 (16 R407), and the window's registers while it is busy (07 R217). -/
def State.writeSlot (s : State) (fn p off : Nat) (v : W64) : State :=
  if fn ≠ 0 ∧ !([0x38, 0x40, 0x68, 0x70, 0x78, 0x80, 0x88].contains off) then s
  else if fn = 0 ∧ s.tdiHeld p then s
  else if (off = 0x38 ∨ off = 0x40) ∧ s.prBusy p then s
  else match slotReg off (s.partReg p off) v with
    | some w => s.setReg 0 (0x60000 + 0x1000 * p + off) w
    | none => s

/-- A write to a register of the MOD_ block. -/
def State.writeMod (s : State) (off : Nat) (v : W64) : State :=
  if off = 0x08 then
    (if !s.resetWrite 0 v then s
     else if bitAt v 0 then s.coldReset 2 false
     else if bitAt v 1 then s.warmReset 3 false
     else s)
  else if off = 0x20 then
    let w := take (takeIf (s.reg 0 0x20) v 9 0 (fun x => decide (1 ≤ x) && decide (x ≤ 1000))) v 10 10
    let t := s.setReg 0 0x20 w
    if bitAt w 10 then t else { t with time := { t.time with pulseLost := false } }
  else if off = 0x28 then s.setReg 0 0x28 (take (keepZero (s.reg 0 0x28) v 7 0) v 8 8)
  else if off = 0x30 then (if bitAt v 0 && s.firmwareUp then s.sieveGo else s)
  else if 0x40 ≤ off ∧ off < 0x80 then s.setReg 0 off v
  else s

/-- A write to a register of the RING_ block (11 R315 to R317). -/
def State.writeRing (s : State) (fn off : Nat) (v : W64) : State :=
  if off = 0 ∨ off = 8 then (if (s.fn fn).enable = 0 ∧ (List.range 16).all (fun r => !(s.ring fn r).draining) then s.setReg fn (0x20000 + off) (take 0 v 63 6) else s)
  else if off = 0x10 then
    let old := (s.fn fn).enable
    let new := BitVec.ofNat 16 (fld v 15 0)
    (s.disableRings fn (old &&& ~~~new)).enableRings fn (new &&& ~~~old)
  else if off = 0x18 then s.clearStopped fn (BitVec.ofNat 16 (fld v 15 0))
  else if off = 0x20 then
    (if fn = 0 then s.setReg 0 0x20020 (takeIf (s.reg 0 0x20020) v 9 0 (fun x => decide (5 ≤ x) && decide (x ≤ 1000))) else s)
  else if off < 0x100 ∨ 0x300 ≤ off ∨ (fn = 0 ∧ 0x120 ≤ off) then s
  else
    let r := (off - 0x100) / 0x20
    if s.ringOn fn r || (s.ring fn r).draining then s
    else match off % 0x20 with
      | 0 => s.setReg fn (0x20000 + off) (take 0 v 63 12)
      | 8 =>
        let w := takeIf (take (s.ringCfg fn r) v 2 0) v 7 3 (fun x => decide (4 ≤ x) && decide (x ≤ 16))
        s.setReg fn (0x20000 + off) (take w v 12 8)
      | _ => s

/-- A write to a register of the EVT_ block (12 R328). -/
def State.writeEvt (s : State) (fn off : Nat) (v : W64) : State :=
  if off = 0 then s.setEvtMask fn v
  else if fn ≠ 0 then s
  else if 0x100 ≤ off ∧ off < 0x180 then s.setEvtRate ((off - 0x100) / 8) v
  else if off = 0x208 then s.clearPulses v
  else s

/-- A write to a register of the RGN_ block: RGN_CMD runs the command of its op, and a reserved op ends at once (05 R143). -/
def State.writeRgn (s : State) (fn off : Nat) (v : W64) : State :=
  if 0x2000 ≤ off ∧ off < 0x2800 then
    let n := (off - 0x2000) / 8
    let r := s.region n
    if !s.ownsRegion fn n ∨ (fn = 0 ∧ r.valid ∧ s.tdiHeld r.owner) then s
    else s.setReg 0 (0x40000 + off) (setFld v 19 19 0)
  else if fn ≠ 0 then s
  else if off = 0x1000 ∨ off = 0x1008 then s.setReg 0 (0x40000 + off) v
  else if off = 0x1010 then
    if [0, 6, 7].contains (fld v 10 8) then
      (if !s.memory.ctl.busy ∧ s.firmwareUp then s.endRegionCmd (fld v 7 0) (fld v 10 8) 9 else s)
    else s.regionOp fn (fld v 7 0) (fld v 10 8)
  else s

/-- A write to PART_CMD runs the command of its op; a reserved op ends at once (13 R336, R337). -/
def State.writePart (s : State) (v : W64) : State :=
  if [1, 2, 3].contains (fld v 5 3) then s.partOp 0 (fld v 2 0) (fld v 5 3)
  else if s.partCtl.busy ∨ !s.firmwareUp then s
  else { s with partCtl := { s.partCtl with status := 0x0F, partition := fld v 2 0 } }

/-- A write to a register of the LNK_ block (15 R377, R378, R390). -/
def State.writeLnk (s : State) (off : Nat) (v : W64) : State :=
  if off = 0 then
    (if bitAt v 16 then s.lockId (BitVec.ofNat 9 (fld v 8 0))
     else if s.links.idLock then s
     else { s with links := { s.links with moduleId := BitVec.ofNat 9 (fld v 8 0) } })
  else if 0x1000 ≤ off ∧ off < 0x2000 then s.setReg 0 (0x70000 + off) (take 0 v 15 0)
  else if 0x2000 ≤ off ∧ off < 0x2200 ∧ off % 0x20 = 0 then
    let n := (off - 0x2000) / 0x20
    if !bitAt v 0 then s.disablePort n
    else
      let t := s.setReg 0 (0x70000 + off) 1
      let off := decide ((s.port n).mode = .disabled)
      let t := if off then t.modPort n (fun x => { x with mode := .down }) else t
      if bitAt v 1 then t.portTrain n else if off then t.startTraining n else t
  else s

/-- A write to a register of the SEC_ block: a reserved op ends at once (16 R402); a listed op is a command of its own. -/
def State.writeSec (s : State) (off : Nat) (v : W64) : State :=
  if off = 0 then s.setReg 0 0x90000 (take 0 v 63 6)
  else if off = 8 ∧ !([1, 2, 3, 4, 5, 6].contains (fld v 3 0)) ∧ !s.sec.busy ∧ s.secServes then
    { s with sec := { s.sec with status := 0x01 } }
  else s

/-- A write to a register of the TST_ block (20 R465 to R478). -/
def State.writeTst (s : State) (off : Nat) (v : W64) : State :=
  if off = 0 then s.wearRead v
  else if off = 0x10 then s.clusterMarkWrite v
  else if off = 0x18 then s.dieCmd v
  else if off = 0x20 then s.patCommand v
  else if 0x200 ≤ off ∧ off < 0x300 ∧ off % 0x10 = 0 then s.portTest ((off - 0x200) / 0x10) v
  else s

/-- A write to the MSI-X table entry: its vector control bit masks and unmasks (12 R323). -/
def State.writeMsix (s : State) (fn off : Nat) (v : W64) : State :=
  if off = 0 then s.setReg fn 0xF0000 (take 0 v 63 2)
  else if off = 8 then
    let t := s.setReg fn 0xF0008 (take 0 v 31 0)
    if bitAt v 32 then t.modFn fn (fun x => { x with vectorMasked := true }) else t.unmask fn
  else s

/-- A write of a 64-bit register of BAR0; an offset that no register occupies, or that the function is not given, ignores it (R494). -/
def State.writeReg (s : State) (fn off : Nat) (v : W64) : State :=
  if off < 0x10000 then (if fn = 0 then s.writeMod off v else s)
  else if s.module.linkDegraded then s
  else if off < 0x20000 then s
  else if off < 0x30000 then s.writeRing fn (off - 0x20000) v
  else if off < 0x40000 then s.writeEvt fn (off - 0x30000) v
  else if off < 0x50000 then s.writeRgn fn (off - 0x40000) v
  else if off < 0x60000 then (if fn = 0 ∧ off = 0x50000 then s.writePart v else s)
  else if off < 0x70000 then
    let p := (off - 0x60000) / 0x1000
    if fn = 0 then (if p < 8 then s.writeSlot 0 p (off % 0x1000) v else s)
    else if p = 0 then s.writeSlot fn (fn - 1) (off % 0x1000) v
    else s
  else if off < 0x80000 then (if fn = 0 then s.writeLnk (off - 0x70000) v else s)
  else if off < 0x90000 then (if fn = 0 ∧ off = 0x80000 then s.setReg 0 0x80000 (take 0 v 1 0) else s)
  else if off < 0xA0000 then (if fn = 0 then s.writeSec (off - 0x90000) v else s)
  else if off < 0xB0000 then (if fn = 0 then s.writeTst (off - 0xA0000) v else s)
  else if 0xF0000 ≤ off ∧ off < 0x100000 then s.writeMsix fn (off - 0xF0000) v
  else if 0x800000 ≤ off ∧ off < 0x1000000 ∧ fn = 0 ∧ s.sec.debugOpen then
    { s with sec := { s.sec with dbg := Tab.set (fun _ => 0) s.sec.dbg (off - 0x800000) v } }
  else s

/-- What the half that a 4-byte write does not address contributes: its stored fields, and zero for WO and W1C fields (R495). -/
def State.otherHalf (s : State) (fn off : Nat) : W64 :=
  if off = 0x20018 then 0
  else if fn = 0 ∧ (off = 0x41000 ∨ off = 0x41008) then s.reg 0 off
  else s.readReg fn off

/-- The 64-bit value of a write: all of it, or one half beside what stands in the other (R495). -/
def State.written (s : State) (fn off : Nat) (wide : Bool) (v : W64) : W64 :=
  if wide then v
  else
    let old := s.otherHalf fn (off - off % 8)
    if off % 8 = 0 then setFld old 31 0 (fld v 31 0) else setFld old 63 32 (fld v 31 0)

/-- A 4-byte write to the half of TST_PORT_n_TEST that has no field changes nothing; the mode is not written (R495). -/
def emptyHalf (off : Nat) (wide : Bool) : Bool := !wide && off % 8 == 4 && decide (0xA0200 ≤ off) && decide (off < 0xA0300)

/-- REGISTER_WRITE (22 R492 to R496; 11 R302): an unaligned write is discarded and counted; a virtual function's BAR0 is 1 MiB. -/
def execRegisterWrite (fn : FnId) (offset : BitVec 24) (wide : Bool) (value : W64) (s : State) : Host.Outcome State Fault Refusal :=
  .next (
    let off := offset.toNat
    if s.module.electrical ≠ .running ∨ !s.present fn.val ∨ (fn.val ≠ 0 ∧ 0x100000 ≤ off) then s
    else if off % (if wide then 8 else 4) ≠ 0 then
      { s with module := { s.module with badWrites := satAdd 65535 s.module.badWrites 1 } }
    else if emptyHalf off wide then s
    else s.writeReg fn.val (off - off % 8) (s.written fn.val off wide value))

end Sys2Proof.Machine
end

