-- ==== Sys2Proof/Machine/Smbus.lean ====
section
/-! DEFINITION. The commands of the management bus (21 R487 to R489). -/

namespace Sys2Proof.Machine

/-- The packet error code of SMBus 3.2 (00 R7): CRC-8 with polynomial 0x07, initial value 0, over the bytes of the transfer. -/
def pec (bs : List Byte) : Byte :=
  bs.foldl (fun (c : Byte) b =>
    (List.range 8).foldl (fun (x : Byte) _ => if bitAt x 7 then (x <<< 1) ^^^ 0x07#8 else x <<< 1) (c ^^^ b)) 0

/-- The target's 7-bit address (R487). -/
def State.smbAddress (s : State) : Nat := 0x58 + s.module.ga.toNat

/-- A block read is answered: the byte count, the bytes and the PEC, which covers both address bytes and the command (R487). -/
def State.blockRead (s : State) (code : Nat) (bs : List Byte) : State :=
  let a := s.smbAddress
  let body := toBytes 1 bs.length ++ bs
  s.emit (.smbus (body ++ [pec (toBytes 1 (2 * a) ++ toBytes 1 code ++ toBytes 1 (2 * a + 1) ++ body)]))

/-- Whether the target answers a command: not while unpowered or in reset; before firmware-ready STATUS alone (R487). -/
def State.smbAnswers (s : State) (code : Nat) : Bool :=
  decide (s.module.electrical = .running) && (code == 1 || [4, 6].contains s.module.stage)

/-- The value that a command returns: the one current at the last ration recompute; MOD_STATUS itself before there was one (R488). -/
def State.smbValue (s : State) (code : Nat) : W64 :=
  if s.power.windowAt.isSome then Tab.get (fun _ => 0) s.power.smb code
  else if code = 1 then s.modStatus
  else 0

/-- A block read of a command's value in `n` bytes. -/
def State.smbRead (s : State) (code n : Nat) : State :=
  if s.smbAnswers code then s.blockRead code (toBytes n (s.smbValue code).toNat) else s

/-- STATUS, code 0x01 (R488). -/
def execSmbStatus (s : State) : Host.Outcome State Fault Refusal := .next (s.smbRead 0x01 8)

/-- INPUT, code 0x02 (R488). -/
def execSmbInput (s : State) : Host.Outcome State Fault Refusal := .next (s.smbRead 0x02 8)

/-- POWER, code 0x03 (R488). -/
def execSmbPower (s : State) : Host.Outcome State Fault Refusal := .next (s.smbRead 0x03 8)

/-- HOTTEST, code 0x04 (R488). -/
def execHottest (s : State) : Host.Outcome State Fault Refusal := .next (s.smbRead 0x04 4)

/-- TIME, code 0x05 (R488). -/
def execSmbTime (s : State) : Host.Outcome State Fault Refusal := .next (s.smbRead 0x05 8)

/-- IDENTITY, code 0x06 (R488): SHA3-256 of the device identity public key. -/
def execIdentity (s : State) : Host.Outcome State Fault Refusal :=
  .next (if s.smbAnswers 0x06 then s.blockRead 0x06 (toBytes 32 (sha3 Config.identityKey).toNat) else s)

/-- SITE, codes 0x10 to 0x97 (R488). -/
def execSite (n : SiteId) (s : State) : Host.Outcome State Fault Refusal := .next (s.smbRead (0x10 + n.val) 8)

/-- ALERT_RESPONSE (R489): while SMB_ALERT_N is asserted, a read of 0x0C returns the module's own address, and the pin releases. -/
def execAlertResponse (s : State) : Host.Outcome State Fault Refusal :=
  .next (
    if s.module.alert ∧ s.module.electrical = .running then
      let t := { s with module := { s.module with alert := false } }
      t.emit (.smbus (toBytes 1 (2 * s.smbAddress)))
    else s)

/-- SMB_REFUSED_TRANSFER (R487): a written byte or an unlisted command is not acknowledged; the bus writes nothing in the module. -/
def execSmbRefusedTransfer (_code : BitVec 8) (s : State) : Host.Outcome State Fault Refusal := .next s

end Sys2Proof.Machine
end

