-- ==== Sys2Proof/Machine/Tensors.lean ====
section
/-! DEFINITION. Tensor commands and load digests (10 R284 to R287, R299, R300; 16 R405). -/

namespace Sys2Proof.Machine

/-! ### Checks of a descriptor (R286) -/

/-- Whether the group of a sharded descriptor can be used: valid, this module a member (R288). -/
def State.groupOk (s : State) (t : Tensor) : Bool := gValid t.group && (gIndex t.group s.links.moduleId.toNat).isSome

/-- Status 0x20: reserved bits and encodings, and fields that must be zero. -/
def badFields (d : Line) : Bool :=
  tSpace d == 3 || fld d 71 69 != 0 || (fmtOf (tFmtCode d)).isNone || bitAt d 79 || fld d 95 89 != 0 ||
    (List.range 6).any (fun i => tShard d i == 3) || fld d 111 108 != 0 || fld d 119 117 != 0 || fld d 127 125 != 0 ||
    decide (20 < tGranule d) || (tSpace d != 2 && tPeer d != 0) || (!tScaled d && tScaleOff d != 0) ||
    (!tSharded d && fld d 107 96 != 0)

/-- Status 0x21: rank, sizes, strides and base. -/
def State.badShape (s : State) (t : Tensor) : Bool :=
  let d := t.desc
  let rank := tRank d
  let n := t.sizeOn (s.memberOf t)
  let wafer := tWafer d != 0
  -- the quotients of a wafer tensor are exact
  let short1 := if wafer then decide (8 * tStride d 1 < n 0) else decide (tStride d 1 < ceilDiv (n 0) (tEpu d))
  let short (i : Nat) : Bool :=
    if i = 2 && wafer then decide (4 * tStride d 2 < tStride d 1 * n 1) else decide (tStride d i < tStride d (i - 1) * n (i - 1))
  rank == 0 || decide (6 < rank) || (List.range 6).any (fun i => if i < rank then tSize d i == 0 else tSize d i != 1) ||
    [1, 2, 3, 4, 5].any (fun i => decide (rank ≤ i) && tStride d i != 0) || tBase d % (if wafer then 512 else 64) != 0 ||
    (decide (2 ≤ rank) && short1) || [2, 3, 4, 5].any (fun i => decide (i < rank) && short i)

/-- End of the data, in bytes from the base. -/
def State.dataEnd (s : State) (t : Tensor) : Nat := 64 * t.dataUnits (s.memberOf t)

/-- The byte range [lo, hi) of the partition's address space is not empty and leaves one ready region that the partition owns or
shares. -/
def State.rangeOut (s : State) (p lo hi : Nat) : Bool :=
  decide (lo < hi) &&
    (match s.translate p lo with
     | some (i, _) => decide (67108864 * ((s.region i).addrBase + (s.region i).size) < hi)
     | none => true)

/-- Status 0x22: the data range or the scale range of a device tensor leaves one region. -/
def State.badRange (s : State) (p : Nat) (t : Tensor) : Bool :=
  let b := tBase t.desc
  tSpace t.desc == 0 &&
    (s.rangeOut p b (b + s.dataEnd t) ||
      (tScaled t.desc && s.rangeOut p (b + 64 * tScaleOff t.desc) (b + t.scaleEnd (s.memberOf t))))

/-- Status 0x23: wafer and scale rules (04 R109, R124). -/
def State.badLayout (s : State) (t : Tensor) : Bool :=
  let d := t.desc
  let n := t.sizeOn (s.memberOf t)
  let q := stepsPerRow (tFmt d)
  (tWafer d != 0 && (tFmtCode d != 0 || tScaled d ||
      (if tRank d = 1 then n 0 % 256 != 0 else n 0 % 64 != 0 || n 1 % 4 != 0))) ||
    (tScaled d && (!scalable (tFmt d) || tRank d == 1 || n 0 % (64 * q) != 0 ||
      decide (64 * tScaleOff d < s.dataEnd t)))

/-- Status 0x25: a host range that is not empty and wraps, or a peer that the partition does not reach. -/
def State.badFar (s : State) (p : Nat) (t : Tensor) : Bool :=
  let wraps (lo hi : Nat) : Bool := decide (lo < hi) && decide (2 ^ 64 < tBase t.desc + hi)
  (tSpace t.desc == 1 && (wraps 0 (s.dataEnd t) ||
      (tScaled t.desc && wraps (64 * tScaleOff t.desc) (t.scaleEnd (s.memberOf t))))) ||
    (tSpace t.desc == 2 && !s.reachable p (tPeer t.desc))

/-- Status 0x26: a sharded tensor whose group or shards break R288 and R289. -/
def State.badShards (s : State) (t : Tensor) : Bool :=
  tSharded t.desc &&
    (!s.groupOk t || decide (1 < ((List.range 6).filter (fun i => tShard t.desc i != 0)).length) ||
      (List.range 6).any (fun i => decide (tRank t.desc ≤ i) && tShard t.desc i != 0))

/-- The descriptor whose extent the checks before 0x26 judge: the slice of this member, or the whole tensor where the shards
break R288 or R289 (log 66). -/
def State.checkedSlice (s : State) (t : Tensor) : Tensor := if s.badShards t then { t with desc := setFld t.desc 116 116 0 } else t

/-- The status of a descriptor: 0, or that of the first check that fails (R286). -/
def State.tensorStatus (s : State) (p : Nat) (t : Tensor) : Nat :=
  let x := s.checkedSlice t
  if badFields t.desc then 0x20
  else if s.badShape x then 0x21
  else if s.badRange p x then 0x22
  else if s.badLayout x then 0x23
  else if s.badFar p x then 0x25
  else if s.badShards t then 0x26
  else 0

/-! ### Commands (R284) -/

/-- The tensor command of a type at the head of a copy ring of a ready partition. -/
def State.tensorHead (s : State) (fn : FnId) (r : RingId) (typ : Nat) : Option Line :=
  match s.queueHead (.ring fn r) with
  | some d => if cType d = typ then some d else none
  | none => none

/-- Answer a tensor command at once. -/
def State.tensorAnswer (s : State) (fn : FnId) (r : RingId) (typ status id detail : Nat) : State :=
  s.copyAnswer fn.val r.val typ status id detail 0 s.nowNat []

/-- TENSOR_CREATE (R285, R286): the command's own fields, then the host read, then the descriptor. -/
def execTensorCreate (fn : FnId) (r : RingId) (desc : Option Line) (s : State) : Host.Outcome State Fault Refusal :=
  .next (match s.tensorHead fn r 0x20 with
    | none => s
    | some d =>
      let p := fn.val - 1
      let i := lineNat d 2 2
      let addr := lineNat d 8 8
      let t := s.popFetched fn.val r.val
      if 4096 ≤ i ∨ lineNat d 1 1 ≠ 0 ∨ lineNat d 4 4 ≠ 0 ∨ lineNat d 16 48 ≠ 0 ∨ addr % 64 ≠ 0 ∨ (t.tensorEntry p i).tensor.isSome then
        t.tensorAnswer fn r 0x20 0x20 i 0
      else
        let t := t.hostRead fn.val addr 64
        match desc with
        | none => (t.journal p 0x08 (toBytes 1 2 ++ toBytes 7 0)).tensorAnswer fn r 0x20 0x35 i 0
        | some l =>
          let x : Tensor := { desc := l, group := t.partReg p (0x300 + 8 * tGroup l), destroying := none }
          match t.tensorStatus p x with
          | e + 1 => t.tensorAnswer fn r 0x20 (e + 1) i 0
          | 0 =>
            let t := t.modTensor p i (fun y => { y with tensor := some x })
            t.tensorAnswer fn r 0x20 0 i (handleOf p i (t.tensorEntry p i).generation).toNat)

/-- TENSOR_DESTROY (R287): uses that start afterwards meet a stale handle. -/
def execTensorDestroy (fn : FnId) (r : RingId) (s : State) : Host.Outcome State Fault Refusal :=
  .next (match s.tensorHead fn r 0x21 with
    | none => s
    | some d =>
      let p := fn.val - 1
      let i := lineNat d 2 2
      let t := s.popFetched fn.val r.val
      if 4096 ≤ i ∨ lineNat d 1 1 ≠ 0 ∨ lineNat d 4 60 ≠ 0 then t.tensorAnswer fn r 0x21 0x20 i 0
      else match (t.tensorEntry p i).tensor with
        | none => t.tensorAnswer fn r 0x21 0x30 i 0
        | some x =>
          if x.destroying.isSome then t.tensorAnswer fn r 0x21 0x30 i 0
          else t.modTensor p i (fun y => { y with tensor := some { x with destroying := some (fn.val, r.val, t.time.now) } }))

/-- A copy, an ld.t or an st.t in progress names a handle (R287). -/
def State.handleInUse (s : State) (h : W32) : Bool :=
  s.copies.any (fun c => c.handles.contains h) || s.clusters.any (fun c => c.2.running.any (fun x => x.handle == some h))

/-- TENSOR_DESTROY_COMPLETE (R285, R287). -/
def execTensorDestroyComplete (p : PartId) (index : Fin 4096) (s : State) : Host.Outcome State Fault Refusal :=
  .next (
    let e := s.tensorEntry p.val index.val
    match e.tensor with
    | none => s
    | some x =>
      match x.destroying with
      | none => s
      | some (fn, r, since) =>
        if s.handleInUse (handleOf p.val index.val e.generation) then s
        else
          (s.modTensor p.val index.val (fun y => { generation := (y.generation + 1) % 4096, tensor := none })).copyAnswer fn r 0x21 0
            index.val 0 0 since.toNat [])

/-! ### Load digests (R299, R300) -/

/-- Stream n of partition p. -/
def State.stream (s : State) (p n : Nat) : Option Digest := Tab.get (fun _ => none) (s.part p).digests n

/-- Set stream n of partition p. -/
def State.setStream (s : State) (p n : Nat) (d : Option Digest) : State :=
  s.modPart p (fun x => { x with digests := Tab.set (fun _ => none) x.digests n d })

/-- A copy of the stream is in flight, or was fetched before the close that waits and has not started. -/
def State.streamBusy (s : State) (p n : Nat) : Bool :=
  s.copies.any (fun c => c.partition == p && (match c.digest with | some g => g.1 == n | none => false)) ||
    (match Tab.get (fun _ => none) (s.part p).digests n with
     | some g => g.closing.isSome && s.streamTakes p n
     | none => false)

/-- The place of a close that acts: it waits where it stands, or goes. -/
def closeTurn (q : CopyQueue) (waits : Bool) : List StreamTurn → List StreamTurn
  | [] => []
  | t :: ts =>
    if t.queue = q ∧ t.kind = .close then (if waits then { t with kind := .closing } :: ts else ts) else t :: closeTurn q waits ts

/-- DIGEST_OPEN (R299): it waits for a close of its stream that is under way. -/
def execDigestOpen (fn : FnId) (r : RingId) (s : State) : Host.Outcome State Fault Refusal :=
  .next (match s.tensorHead fn r 0x22 with
    | none => s
    | some d =>
      let p := fn.val - 1
      let n := lineNat d 2 1
      let kind := lineNat d 3 1
      let t := s.popFetched fn.val r.val
      if 15 < n ∨ 4 < kind ∨ lineNat d 1 1 ≠ 0 ∨ lineNat d 4 4 ≠ 0 ∨ lineNat d 12 52 ≠ 0 then t.tensorAnswer fn r 0x22 0x20 n 0
      else if s.streamBusy p n || (match s.stream p n with | some g => g.closing.isSome | none => false) then s
      else
        (t.setStream p n (some { kind := kind, label := BitVec.ofNat 32 (lineNat d 8 4), data := [], failed := false, regions := [],
                                 closing := none })).tensorAnswer fn r 0x22 0 n 0)

/-- DIGEST_CLOSE (R299): the close waits for the stream's copies. -/
def execDigestClose (fn : FnId) (r : RingId) (s : State) : Host.Outcome State Fault Refusal :=
  .next (match s.tensorHead fn r 0x23 with
    | none => s
    | some d =>
      let p := fn.val - 1
      let n := lineNat d 2 1
      let t := s.popFetched fn.val r.val
      let turn (waits : Bool) (u : State) : State :=
        u.modPart p (fun x => { x with turns := closeTurn (.ring fn r) waits x.turns })
      if 15 < n ∨ lineNat d 1 1 ≠ 0 ∨ lineNat d 3 61 ≠ 0 then (turn false t).tensorAnswer fn r 0x23 0x20 n 0
      else match t.stream p n with
        | none => (turn false t).tensorAnswer fn r 0x23 0x39 n 0
        | some g =>
          if g.closing.isSome then (turn false t).tensorAnswer fn r 0x23 0x39 n 0
          else (turn true t).setStream p n (some { g with closing := some (fn.val, r.val, t.time.now) }))

/-- DIGEST_CLOSE_COMPLETE (R299, R300; 16 R405): the digest enters the partition's list, unless a copy failed or the list is
full. -/
def execDigestCloseComplete (p : PartId) (stream : Fin 16) (s : State) : Host.Outcome State Fault Refusal :=
  .next (match s.stream p.val stream.val with
    | none => s
    | some g =>
      match g.closing with
      | none => s
      | some (fn, r, since) =>
        if s.streamBusy p.val stream.val then s
        else
          let t := (s.modPart p.val (fun x =>
            { x with turns := x.turns.filter (fun e => !(e.stream == stream.val && decide (e.kind = .closing))) })).setStream p.val stream.val none
          if g.failed then t.copyAnswer fn r 0x23 0x3A stream.val 0 g.label.toNat since.toNat []
          else if 128 ≤ (t.part p.val).digestList.length then
            t.copyAnswer fn r 0x23 0x27 stream.val 0 g.label.toNat since.toNat []
          else
            let v := sha3 g.data
            let e : LoadDigest :=
              { kind := g.kind, label := g.label, stream := stream.val, closedAt := t.time.now, value := v, regions := g.regions }
            (t.modPart p.val (fun x => { x with digestList := x.digestList ++ [e] })).copyAnswer fn r 0x23 0 stream.val 0
              g.label.toNat since.toNat (toBytes 32 v.toNat))

end Sys2Proof.Machine
end

