-- ==== Sys2Proof/Machine/Dispatch.lean ====
section
/-! DEFINITION. The dispatcher: one arm per command, in the order of spec/opcode_table.json. -/

namespace Sys2Proof.Machine

def exec (i : Instr) (s : State) : Host.Outcome State Fault Refusal :=
  match i with
  | .bundleFetch c => Sys2Proof.Machine.execBundleFetch c s
  | .bundleIssue c => Sys2Proof.Machine.execBundleIssue c s
  | .scalarLoadReturn c => Sys2Proof.Machine.execScalarLoadReturn c s
  | .clusterHaltComplete c => Sys2Proof.Machine.execClusterHaltComplete c s
  | .fenceComplete c => Sys2Proof.Machine.execFenceComplete c s
  | .marker c p => Sys2Proof.Machine.execMarker c p s
  | .vLd c => Sys2Proof.Machine.execVLd c s
  | .vSt c => Sys2Proof.Machine.execVSt c s
  | .vBcast c => Sys2Proof.Machine.execVBcast c s
  | .vAdd c => Sys2Proof.Machine.execVAdd c s
  | .vMul c => Sys2Proof.Machine.execVMul c s
  | .vMax c => Sys2Proof.Machine.execVMax c s
  | .vExp2 c => Sys2Proof.Machine.execVExp2 c s
  | .vRcp c => Sys2Proof.Machine.execVRcp c s
  | .vRsqrt c => Sys2Proof.Machine.execVRsqrt c s
  | .tAdd c => Sys2Proof.Machine.execTAdd c s
  | .tMulv c => Sys2Proof.Machine.execTMulv c s
  | .tCvt c => Sys2Proof.Machine.execTCvt c s
  | .tExp2 c => Sys2Proof.Machine.execTExp2 c s
  | .tCmax c => Sys2Proof.Machine.execTCmax c s
  | .tCsum c => Sys2Proof.Machine.execTCsum c s
  | .tCsq c => Sys2Proof.Machine.execTCsq c s
  | .tSilu c => Sys2Proof.Machine.execTSilu c s
  | .tZero c => Sys2Proof.Machine.execTZero c s
  | .mmaBf16 c => Sys2Proof.Machine.execMmaBf16 c s
  | .mmaF16 c => Sys2Proof.Machine.execMmaF16 c s
  | .mmaF8 c => Sys2Proof.Machine.execMmaF8 c s
  | .mmaF6 c => Sys2Proof.Machine.execMmaF6 c s
  | .mmaF4 c => Sys2Proof.Machine.execMmaF4 c s
  | .mmaI8 c => Sys2Proof.Machine.execMmaI8 c s
  | .mmaI4 c => Sys2Proof.Machine.execMmaI4 c s
  | .mmaMix c => Sys2Proof.Machine.execMmaMix c s
  | .mmd c => Sys2Proof.Machine.execMmd c s
  | .ldT c => Sys2Proof.Machine.execLdT c s
  | .stT c => Sys2Proof.Machine.execStT c s
  | .ldQ c => Sys2Proof.Machine.execLdQ c s
  | .stQ c => Sys2Proof.Machine.execStQ c s
  | .stC c => Sys2Proof.Machine.execStC c s
  | .remoteSignal c => Sys2Proof.Machine.execRemoteSignal c s
  | .longOpComplete c p => Sys2Proof.Machine.execLongOpComplete c p s
  | .preemptRequest p job => Sys2Proof.Machine.execPreemptRequest p job s
  | .jobSave p job => Sys2Proof.Machine.execJobSave p job s
  | .jobSaveComplete p job => Sys2Proof.Machine.execJobSaveComplete p job s
  | .jobRestore p job => Sys2Proof.Machine.execJobRestore p job s
  | .yieldTimeout c => Sys2Proof.Machine.execYieldTimeout c s
  | .create fn index => Sys2Proof.Machine.execCreate fn index s
  | .regionRelease fn index => Sys2Proof.Machine.execRegionRelease fn index s
  | .convert fn index => Sys2Proof.Machine.execConvert fn index s
  | .lock fn index => Sys2Proof.Machine.execLock fn index s
  | .setShare fn index => Sys2Proof.Machine.execSetShare fn index s
  | .regionCommandComplete => Sys2Proof.Machine.execRegionCommandComplete s
  | .writeCr st src pk => Sys2Proof.Machine.execWriteCr st src pk s
  | .start st src pk => Sys2Proof.Machine.execStart st src pk s
  | .suspend st src pk => Sys2Proof.Machine.execSuspend st src pk s
  | .resume st src pk => Sys2Proof.Machine.execResume st src pk s
  | .abort st src pk => Sys2Proof.Machine.execAbort st src pk s
  | .status st src pk => Sys2Proof.Machine.execStatus st src pk s
  | .mergeOpen st src pk => Sys2Proof.Machine.execMergeOpen st src pk s
  | .blank st src pk first lines => Sys2Proof.Machine.execBlank st src pk first lines s
  | .sieve st src pk first lines => Sys2Proof.Machine.execSieve st src pk first lines s
  | .level st src pk => Sys2Proof.Machine.execLevel st src pk s
  | .pattern st src pk channel failing => Sys2Proof.Machine.execPattern st src pk channel failing s
  | .diemap st src pk => Sys2Proof.Machine.execDiemap st src pk s
  | .preloadComplete e => Sys2Proof.Machine.execPreloadComplete e s
  | .permitGrant pc => Sys2Proof.Machine.execPermitGrant pc s
  | .refreshDue b => Sys2Proof.Machine.execRefreshDue b s
  | .refresh b => Sys2Proof.Machine.execRefresh b s
  | .forcedSuspension e => Sys2Proof.Machine.execForcedSuspension e s
  | .mergeFold st slot => Sys2Proof.Machine.execMergeFold st slot s
  | .darvyNop e dt => Sys2Proof.Machine.execDarvyNop e dt s
  | .movi e dt => Sys2Proof.Machine.execMovi e dt s
  | .movh e dt => Sys2Proof.Machine.execMovh e dt s
  | .getc e dt => Sys2Proof.Machine.execGetc e dt s
  | .darvyAdd e dt => Sys2Proof.Machine.execDarvyAdd e dt s
  | .darvySub e dt => Sys2Proof.Machine.execDarvySub e dt s
  | .darvyShl e dt => Sys2Proof.Machine.execDarvyShl e dt s
  | .darvyShr e dt => Sys2Proof.Machine.execDarvyShr e dt s
  | .loop e dt => Sys2Proof.Machine.execLoop e dt s
  | .bz e dt => Sys2Proof.Machine.execBz e dt s
  | .darvyBr e dt => Sys2Proof.Machine.execDarvyBr e dt s
  | .yield e dt => Sys2Proof.Machine.execYield e dt s
  | .yieldAct e dt => Sys2Proof.Machine.execYieldAct e dt s
  | .end_ e dt => Sys2Proof.Machine.execEnd_ e dt s
  | .runEnd e dt => Sys2Proof.Machine.execRunEnd e dt s
  | .darvyFmul e dt => Sys2Proof.Machine.execDarvyFmul e dt s
  | .frsq e dt => Sys2Proof.Machine.execFrsq e dt s
  | .qset e dt => Sys2Proof.Machine.execQset e dt s
  | .scan e dt => Sys2Proof.Machine.execScan e dt s
  | .dot e dt => Sys2Proof.Machine.execDot e dt s
  | .expm e dt => Sys2Proof.Machine.execExpm e dt s
  | .accv e dt => Sys2Proof.Machine.execAccv e dt s
  | .ladd e dt => Sys2Proof.Machine.execLadd e dt s
  | .lmul e dt => Sys2Proof.Machine.execLmul e dt s
  | .lssq e dt => Sys2Proof.Machine.execLssq e dt s
  | .lcvt e dt => Sys2Proof.Machine.execLcvt e dt s
  | .rope e dt => Sys2Proof.Machine.execRope e dt s
  | .append e dt => Sys2Proof.Machine.execAppend e dt s
  | .fetch e dt => Sys2Proof.Machine.execFetch e dt s
  | .stl e dt => Sys2Proof.Machine.execStl e dt s
  | .wrl e dt => Sys2Proof.Machine.execWrl e dt s
  | .emit e dt => Sys2Proof.Machine.execEmit e dt s
  | .sliceTimeout e => Sys2Proof.Machine.execSliceTimeout e s
  | .bankEngineFault e => Sys2Proof.Machine.execBankEngineFault e s
  | .libraryLoad image => Sys2Proof.Machine.execLibraryLoad image s
  | .routeSheetBuild p => Sys2Proof.Machine.execRouteSheetBuild p s
  | .layerPacketsSend p layer st => Sys2Proof.Machine.execLayerPacketsSend p layer st s
  | .relief p st => Sys2Proof.Machine.execRelief p st s
  | .parcelAllocationResume p => Sys2Proof.Machine.execParcelAllocationResume p s
  | .spillComplete p ledger => Sys2Proof.Machine.execSpillComplete p ledger s
  | .posteRestanteFetch p seq => Sys2Proof.Machine.execPosteRestanteFetch p seq s
  | .fetchBackComplete p ledger cipher => Sys2Proof.Machine.execFetchBackComplete p ledger cipher s
  | .submit fn r => Sys2Proof.Machine.execSubmit fn r s
  | .promptFetchComplete p request tokens => Sys2Proof.Machine.execPromptFetchComplete p request tokens s
  | .cancel fn r => Sys2Proof.Machine.execCancel fn r s
  | .prefixSetList fn r => Sys2Proof.Machine.execPrefixSetList fn r s
  | .prefixEvict fn r => Sys2Proof.Machine.execPrefixEvict fn r s
  | .hint fn r => Sys2Proof.Machine.execHint fn r s
  | .budgetRefill p => Sys2Proof.Machine.execBudgetRefill p s
  | .bestEffortCredit p spare => Sys2Proof.Machine.execBestEffortCredit p spare s
  | .commit p outputs probe => Sys2Proof.Machine.execCommit p outputs probe s
  | .stepAbandon p cause => Sys2Proof.Machine.execStepAbandon p cause s
  | .reissuedSheetRelease p => Sys2Proof.Machine.execReissuedSheetRelease p s
  | .copy q host => Sys2Proof.Machine.execCopy q host s
  | .gather q host list => Sys2Proof.Machine.execGather q host list s
  | .scatter q host list => Sys2Proof.Machine.execScatter q host list s
  | .collective q => Sys2Proof.Machine.execCollective q s
  | .copyComplete id delivered => Sys2Proof.Machine.execCopyComplete id delivered s
  | .collectiveJoinTimeout id => Sys2Proof.Machine.execCollectiveJoinTimeout id s
  | .programCopyQueuePoll p => Sys2Proof.Machine.execProgramCopyQueuePoll p s
  | .tensorCreate fn r desc => Sys2Proof.Machine.execTensorCreate fn r desc s
  | .tensorDestroy fn r => Sys2Proof.Machine.execTensorDestroy fn r s
  | .tensorDestroyComplete p index => Sys2Proof.Machine.execTensorDestroyComplete p index s
  | .digestOpen fn r => Sys2Proof.Machine.execDigestOpen fn r s
  | .digestClose fn r => Sys2Proof.Machine.execDigestClose fn r s
  | .digestCloseComplete p stream => Sys2Proof.Machine.execDigestCloseComplete p stream s
  | .pcieLinkTrained width gts flit => Sys2Proof.Machine.execPcieLinkTrained width gts flit s
  | .bar0BadWrite => Sys2Proof.Machine.execBar0BadWrite s
  | .letterboxPoll fn => Sys2Proof.Machine.execLetterboxPoll fn s
  | .letterboxReadComplete fn data => Sys2Proof.Machine.execLetterboxReadComplete fn data s
  | .descriptorFetchComplete fn r data => Sys2Proof.Machine.execDescriptorFetchComplete fn r data s
  | .ringEntryWriteFailed fn r lost => Sys2Proof.Machine.execRingEntryWriteFailed fn r lost s
  | .ringEnable fn mask => Sys2Proof.Machine.execRingEnable fn mask s
  | .ringDisable fn mask => Sys2Proof.Machine.execRingDisable fn mask s
  | .ringDrainComplete fn r => Sys2Proof.Machine.execRingDrainComplete fn r s
  | .ringStatusClear fn mask => Sys2Proof.Machine.execRingStatusClear fn mask s
  | .job fn r => Sys2Proof.Machine.execJob fn r s
  | .jobStart p job image header => Sys2Proof.Machine.execJobStart p job image header s
  | .summaryWrite fn => Sys2Proof.Machine.execSummaryWrite fn s
  | .eventTokenRefill => Sys2Proof.Machine.execEventTokenRefill s
  | .evtMaskWrite fn value => Sys2Proof.Machine.execEvtMaskWrite fn value s
  | .evtRateWrite fn block value => Sys2Proof.Machine.execEvtRateWrite fn block value s
  | .clearPulses fn value => Sys2Proof.Machine.execClearPulses fn value s
  | .msixUnmask fn => Sys2Proof.Machine.execMsixUnmask fn s
  | .fastInterrupt core => Sys2Proof.Machine.execFastInterrupt core s
  | .normalInterrupt core => Sys2Proof.Machine.execNormalInterrupt core s
  | .evtIcClaim core => Sys2Proof.Machine.execEvtIcClaim core s
  | .fastHandlerOverrun core => Sys2Proof.Machine.execFastHandlerOverrun core s
  | .throttleNEdge high => Sys2Proof.Machine.execThrottleNEdge high s
  | .throttleNAccept => Sys2Proof.Machine.execThrottleNAccept s
  | .throttleFastEnd => Sys2Proof.Machine.execThrottleFastEnd s
  | .throttleNStuck => Sys2Proof.Machine.execThrottleNStuck s
  | .throttleStuckClear => Sys2Proof.Machine.execThrottleStuckClear s
  | .timePulseEdge => Sys2Proof.Machine.execTimePulseEdge s
  | .moduleTimeTick => Sys2Proof.Machine.execModuleTimeTick s
  | .setup fn p => Sys2Proof.Machine.execSetup fn p s
  | .reconfigure fn p => Sys2Proof.Machine.execReconfigure fn p s
  | .partitionRelease fn p => Sys2Proof.Machine.execPartitionRelease fn p s
  | .partitionCommandComplete failing => Sys2Proof.Machine.execPartitionCommandComplete failing s
  | .timeSliceBoundary p => Sys2Proof.Machine.execTimeSliceBoundary p s
  | .jobFault p job code => Sys2Proof.Machine.execJobFault p job code s
  | .moduleWideLoss cause => Sys2Proof.Machine.execModuleWideLoss cause s
  | .moduleRestartComplete fabricOk failedCores => Sys2Proof.Machine.execModuleRestartComplete fabricOk failedCores s
  | .ceBucketDecay => Sys2Proof.Machine.execCeBucketDecay s
  | .repairPeerAnswer pln data => Sys2Proof.Machine.execRepairPeerAnswer pln data s
  | .repairPeerTimeout pln => Sys2Proof.Machine.execRepairPeerTimeout pln s
  | .repairHostReadComplete pln data => Sys2Proof.Machine.execRepairHostReadComplete pln data s
  | .errorRecordAck source => Sys2Proof.Machine.execErrorRecordAck source s
  | .sieveDescriptor fn r => Sys2Proof.Machine.execSieveDescriptor fn r s
  | .modSieveGo fn => Sys2Proof.Machine.execModSieveGo fn s
  | .sieveStackDone st => Sys2Proof.Machine.execSieveStackDone st s
  | .patrolPass => Sys2Proof.Machine.execPatrolPass s
  | .portTrain fn port => Sys2Proof.Machine.execPortTrain fn port s
  | .trainingComplete port passing peer => Sys2Proof.Machine.execTrainingComplete port passing peer s
  | .trainingTimeout port => Sys2Proof.Machine.execTrainingTimeout port s
  | .laneMark port lane => Sys2Proof.Machine.execLaneMark port lane s
  | .laneRetrainDue port => Sys2Proof.Machine.execLaneRetrainDue port s
  | .portDisable fn port => Sys2Proof.Machine.execPortDisable fn port s
  | .idLock fn id => Sys2Proof.Machine.execIdLock fn id s
  | .portWaitTimeout copy => Sys2Proof.Machine.execPortWaitTimeout copy s
  | .write port fr => Sys2Proof.Machine.execWrite port fr s
  | .read port fr => Sys2Proof.Machine.execRead port fr s
  | .data port fr => Sys2Proof.Machine.execData port fr s
  | .atomic port fr => Sys2Proof.Machine.execAtomic port fr s
  | .ack port fr => Sys2Proof.Machine.execAck port fr s
  | .nak port fr => Sys2Proof.Machine.execNak port fr s
  | .repair port fr => Sys2Proof.Machine.execRepair port fr s
  | .coll port fr => Sys2Proof.Machine.execColl port fr s
  | .event port fr => Sys2Proof.Machine.execEvent port fr s
  | .session port fr valid => Sys2Proof.Machine.execSession port fr valid s
  | .packetTimeout tag => Sys2Proof.Machine.execPacketTimeout tag s
  | .sessionRetry peer => Sys2Proof.Machine.execSessionRetry peer s
  | .sessionPortsDownTimeout peer => Sys2Proof.Machine.execSessionPortsDownTimeout peer s
  | .nonce fn fresh => Sys2Proof.Machine.execNonce fn fresh s
  | .update fn arg => Sys2Proof.Machine.execUpdate fn arg s
  | .commitFloor fn arg => Sys2Proof.Machine.execCommitFloor fn arg s
  | .enrol fn arg => Sys2Proof.Machine.execEnrol fn arg s
  | .revoke fn arg => Sys2Proof.Machine.execRevoke fn arg s
  | .unlock fn arg => Sys2Proof.Machine.execUnlock fn arg s
  | .getMeasurements index reqNonce => Sys2Proof.Machine.execGetMeasurements index reqNonce s
  | .getCertificate slot => Sys2Proof.Machine.execGetCertificate slot s
  | .challenge request => Sys2Proof.Machine.execChallenge request s
  | .keyExchange request => Sys2Proof.Machine.execKeyExchange request s
  | .ideKeyProgram fn request => Sys2Proof.Machine.execIdeKeyProgram fn request s
  | .getDeviceInterfaceReport fn reqNonce => Sys2Proof.Machine.execGetDeviceInterfaceReport fn reqNonce s
  | .tdiLock fn => Sys2Proof.Machine.execTdiLock fn s
  | .tdiRun fn => Sys2Proof.Machine.execTdiRun fn s
  | .tdiError fn => Sys2Proof.Machine.execTdiError fn s
  | .bypass => Sys2Proof.Machine.execBypass s
  | .idcode => Sys2Proof.Machine.execIdcode s
  | .powerUp millivolts => Sys2Proof.Machine.execPowerUp millivolts s
  | .powerGoodTimeout => Sys2Proof.Machine.execPowerGoodTimeout s
  | .powerDown millivolts => Sys2Proof.Machine.execPowerDown millivolts s
  | .inputOvervoltage millivolts => Sys2Proof.Machine.execInputOvervoltage millivolts s
  | .inputBandChange millivolts => Sys2Proof.Machine.execInputBandChange millivolts s
  | .rationRecompute energy unrationed input amps => Sys2Proof.Machine.execRationRecompute energy unrationed input amps s
  | .overCurrentAlert rail => Sys2Proof.Machine.execOverCurrentAlert rail s
  | .overCurrentHoldRelease rail => Sys2Proof.Machine.execOverCurrentHoldRelease rail s
  | .sensorSample site a b => Sys2Proof.Machine.execSensorSample site a b s
  | .tripComparator site => Sys2Proof.Machine.execTripComparator site s
  | .phaseFailure rail phase => Sys2Proof.Machine.execPhaseFailure rail phase s
  | .pllLockLoss domain => Sys2Proof.Machine.execPllLockLoss domain s
  | .ptmRequest => Sys2Proof.Machine.execPtmRequest s
  | .ptmSample reference => Sys2Proof.Machine.execPtmSample reference s
  | .holdoverTimeout => Sys2Proof.Machine.execHoldoverTimeout s
  | .pulseLost => Sys2Proof.Machine.execPulseLost s
  | .perstNAssert microseconds => Sys2Proof.Machine.execPerstNAssert microseconds s
  | .modResetCold fn value => Sys2Proof.Machine.execModResetCold fn value s
  | .modResetWarm fn value => Sys2Proof.Machine.execModResetWarm fn value s
  | .hotReset => Sys2Proof.Machine.execHotReset s
  | .vfFunctionLevelReset fn => Sys2Proof.Machine.execVfFunctionLevelReset fn s
  | .boot r => Sys2Proof.Machine.execBoot r s
  | .firmwareReady => Sys2Proof.Machine.execFirmwareReady s
  | .partStepRead fn p => Sys2Proof.Machine.execPartStepRead fn p s
  | .repairMapWrite => Sys2Proof.Machine.execRepairMapWrite s
  | .wearLogRead fn value => Sys2Proof.Machine.execWearLogRead fn value s
  | .wearLogReadComplete written => Sys2Proof.Machine.execWearLogReadComplete written s
  | .clusterRetest failing => Sys2Proof.Machine.execClusterRetest failing s
  | .clusterMark fn value => Sys2Proof.Machine.execClusterMark fn value s
  | .rowRemap b row => Sys2Proof.Machine.execRowRemap b row s
  | .dieCopy fn value => Sys2Proof.Machine.execDieCopy fn value s
  | .dieCopyRowsDone st => Sys2Proof.Machine.execDieCopyRowsDone st s
  | .tstPatCmd fn value => Sys2Proof.Machine.execTstPatCmd fn value s
  | .patternRunComplete failing => Sys2Proof.Machine.execPatternRunComplete failing s
  | .tstPortTest fn port value => Sys2Proof.Machine.execTstPortTest fn port value s
  | .moduleInsert => Sys2Proof.Machine.execModuleInsert s
  | .moduleRemove => Sys2Proof.Machine.execModuleRemove s
  | .smbStatus => Sys2Proof.Machine.execSmbStatus s
  | .smbInput => Sys2Proof.Machine.execSmbInput s
  | .smbPower => Sys2Proof.Machine.execSmbPower s
  | .hottest => Sys2Proof.Machine.execHottest s
  | .smbTime => Sys2Proof.Machine.execSmbTime s
  | .identity => Sys2Proof.Machine.execIdentity s
  | .site n => Sys2Proof.Machine.execSite n s
  | .alertResponse => Sys2Proof.Machine.execAlertResponse s
  | .smbRefusedTransfer code => Sys2Proof.Machine.execSmbRefusedTransfer code s
  | .registerWrite fn offset wide value => Sys2Proof.Machine.execRegisterWrite fn offset wide value s
  | .perstNDeassert => Sys2Proof.Machine.execPerstNDeassert s
  | .inputFallsBelow70V millivolts => Sys2Proof.Machine.execInputFallsBelow70V millivolts s
  | .overCurrentAlertDeassert rail => Sys2Proof.Machine.execOverCurrentAlertDeassert rail s
  | .sliceOverrun e => Sys2Proof.Machine.execSliceOverrun e s
  | .engineRestEnd e => Sys2Proof.Machine.execEngineRestEnd e s
  | .configurationWrite numVfs vfEnable ptmEnable => Sys2Proof.Machine.execConfigurationWrite numVfs vfEnable ptmEnable s
  | .terminationComplete p => Sys2Proof.Machine.execTerminationComplete p s
  | .secOperationComplete body sig flashOk => Sys2Proof.Machine.execSecOperationComplete body sig flashOk s
  | .checkerLock port lane errors => Sys2Proof.Machine.execCheckerLock port lane errors s
  | .dbgInstruction trst offset value => Sys2Proof.Machine.execDbgInstruction trst offset value s

end Sys2Proof.Machine
end

