-- ==== Sys2Proof/Safety.lean ====
section
/-! DEFINITION. The terms in which statements speak: a command that completes, and what it leaves as it was. -/

namespace Sys2Proof

/-- The step answered a next state. -/
def Safe (o : Host.Outcome Machine.State Machine.Fault Machine.Refusal) : Prop := ∃ s, o = .next s

namespace Machine

/-- The command answers a next state, of which P holds. -/
def Completes (i : Instr) (s : State) (P : State → Prop) : Prop := ∃ t, exec i s = .next t ∧ P t

/-- Nothing differs but cluster c. -/
def OnlyCluster (c : Nat) (s t : State) : Prop :=
  t = { s with clusters := t.clusters } ∧ ∀ k, k ≠ c → t.cluster k = s.cluster k

/-- Cluster c faulted (03 R97, R99): one more record, its fetch queue and its operation queues are empty, and its quarter's line is
latched; its registers, its scratchpad, what is in progress, and everything outside it stay. -/
def Faulted (c slot unit code : Nat) (pln : Option Nat) (s t : State) : Prop :=
  t = { s with clusters := t.clusters, intr := t.intr } ∧ (∀ k, k ≠ c → t.cluster k = s.cluster k) ∧
    t.cluster c = { s.cluster c with
      faults := (s.cluster c).faults ++ [⟨code, unit, slot, pln⟩], fetchQ := [],
      arch := { (s.cluster c).arch with vq := [], mq := [], lq := [], sq := [] } } ∧
    (t.icLine (16 + c / 320)).pending = true

/-- A long-running operation began (03 R66, R73): of cluster c alone, the entry left its queue, its wait's take was performed, and one
operation is in progress in the pipe, with the entry's signal and unit address, no bus error, and pending writes of which P holds. -/
def Began (c : Nat) (pipe : Pipe) (e : QEntry) (q : List QEntry) (s t : State) (P : List Write → Prop) : Prop :=
  OnlyCluster c s t ∧ ∃ r, (t.cluster c).running = (s.cluster c).running ++ [r] ∧ r.pipe = pipe ∧ r.slot = pipeSlot pipe ∧
    r.pc = e.pc ∧ r.sig = slotSig e.bits ∧ r.isMarker = false ∧ r.err = none ∧ P r.writes ∧
    (t.cluster c).arch = ((s.cluster c).arch.setQueue (pipeSlot pipe) q).take (slotWait e.bits)

/-- Nothing differs but engine e. -/
def OnlyEngine (e : Nat) (s t : State) : Prop :=
  t = { s with engines := t.engines } ∧ ∀ k, k ≠ e → t.engine k = s.engine k

/-- Engine e once dt counted cycles have passed and the instruction w has entered its unit's queue (06 R172, R173, R183). -/
def Engine.issuing (x : Engine) (dt : Nat) (w : W64) : Engine := (x.spend dt).enter w

/-- The state in which an issued instruction acts. -/
def State.issuing (s : State) (e dt : Nat) (w : W64) : State :=
  (s.modEngine e (fun x => x.spend dt)).modEngine e (fun x => x.enter w)

/-- The instruction w at engine e's program counter issues after dt counted cycles: the engine can issue, its fetch gives w, no queue and
no register stalls it, no over-current hold stands against it, and the slice has not run out (06 R173, R183, R184; 17 R422). -/
abbrev Issues (s : State) (e dt : Nat) (w : W64) : Prop :=
  s.canIssue e = true ∧ s.fetchAt e = .inl w ∧ ((s.engine e).spend dt).stalls w = false ∧ s.streamHeld e (dOp w) = false ∧
  (s.engine e).slice + dt < 65536

/-- The engine takes a fault, its code and line, and nothing else of it or of the module changes but the cycles counted and its queues
(06 R187). -/
def Fails (e dt : Nat) (w : W64) (code : Nat) (line : Option Nat) (s t : State) : Prop :=
  OnlyEngine e s t ∧ t.engine e = { (s.engine e).issuing dt w with failing := some (code, line) }

/-- Nothing differs but partition slot p. -/
def OnlyPart (p : Nat) (s t : State) : Prop := t = { s with parts := t.parts } ∧ ∀ k, k ≠ p → t.part k = s.part k

/-- Every byte of device memory reads as before. -/
def SameMemory (s t : State) : Prop := ∀ a, Tab.get blankByte t.mem a = Tab.get blankByte s.mem a

/-- A protected frame of a type that a port takes (15 R380, R384). -/
def Accepted (s : State) (n : Nat) (fr : Frame) (typ : Nat) : Prop :=
  (s.port n).isUp = true ∧ s.headerOk fr typ = true ∧ (s.session fr.src).up = true ∧ fr.tagOk = true ∧
    (s.session fr.src).fresh fr.counter = true

/-- A partition holds the port, replays nothing and has room in its journal for the frame (15 R379; 19 R455, R460). -/
def Enters (s : State) (n : Nat) (fr : Frame) (p : Nat) : Prop :=
  s.portOwner n = some p ∧ s.replaying p = false ∧ s.journalRoom p (1 + fr.payload.length) = true

/-- The state once a frame's counter is in its session's window (R384). -/
def State.counted (s : State) (fr : Frame) : State := s.modSession fr.src (fun x => x.take fr.counter)

/-- The state once a frame has entered partition p: counted, and in the journal of one that journals (11 R309). -/
def State.taken (s : State) (fr : Frame) (p : Nat) : State :=
  (s.counted fr).journal p 0x07 (padTo 40 (toBytes 24 fr.header.toNat) ++ fr.payload.flatMap lineBytes)

/-- An answer left on a port: one more frame of a type, in the request's class and with its tag and these lines (R380, R381). -/
def Answered (s t : State) (n : Nat) (fr : Frame) (typ : Nat) (ls : List Line) : Prop :=
  ∃ h, t.out = s.out ++ [.frame n h ls] ∧ fld h 3 0 = typ ∧ fld h 4 4 = fr.lc ∧ fld h 63 48 = fr.tag.toNat ∧ fld h 40 32 = fr.src

/-- No set-up register holds a reserved code (00 R12; 07 R199; 08 R233; 10 R284; 13 R335; 18 R441). -/
def RegistersLegal (s : State) : Prop :=
  (∀ p, p < 8 → fld (s.partReg p 0x18) 18 17 ≠ 3 ∧ 5 ≤ fld (s.partReg p 0x18) 29 20 ∧ fld (s.partReg p 0x18) 29 20 ≤ 640 ∧
    1 ≤ fld (s.partReg p 0x18) 33 30 ∧ fld (s.partReg p 0x18) 33 30 ≤ 8 ∧ fld (s.partReg p 0x28) 8 0 ≤ 256 ∧
    fld (s.partReg p 0x30) 12 8 ≤ 16 ∧ fld (s.partReg p 0x50) 14 0 ≤ 16384 ∧ fld (s.partReg p 0x68) 12 8 ≤ 16) ∧
  1 ≤ fld (s.reg 0 0x20) 9 0 ∧ fld (s.reg 0 0x20) 9 0 ≤ 1000

end Machine

end Sys2Proof
end

