-- ==== Sys2Proof/Certificates/Slice0/Obligations.lean ====
section
/-! DEFINITION. The statements for the provers, family by family. Values and behaviours that the model chose are named with their log
entry. -/

open Sys2Proof Sys2Proof.Machine

/-! ### Kloxa clusters (02, 03, 04) -/

/-- BUNDLE_FETCH (03 R75, R97): a live cluster that is not halting and whose fetch queue holds fewer than 8 units receives the next
unit of its program; a unit past 16,383, or one behind a program counter that has run past the end, is a fetch fault: code 0x05 of the
header, by which the cluster stops, its queues are emptied and its quarter's line is latched (R99). -/
def Obligations.BundleFetchBringsTheNextUnit : Prop :=
  ∀ (c : ClusterId) (s : State), (s.cluster c).live = true → (s.cluster c).halting = false → (s.cluster c).halted = false →
    (s.cluster c).fetchQ.length < 8 →
    ((s.cluster c).arch.past = false → (s.cluster c).arch.pc.toNat + (s.cluster c).fetchQ.length < 16384 →
      Completes (.bundleFetch c) s (fun t => OnlyCluster c s t ∧
        t.cluster c = { s.cluster c with
          fetchQ := (s.cluster c).fetchQ ++
            [BitVec.ofNat 512 ((s.cluster c).arch.units ((s.cluster c).arch.pc.toNat + (s.cluster c).fetchQ.length) 1)] })) ∧
    ((s.cluster c).arch.past = true ∨ 16384 ≤ (s.cluster c).arch.pc.toNat + (s.cluster c).fetchQ.length →
      Completes (.bundleFetch c) s (fun t => Faulted c 6 (if (s.cluster c).arch.past then 16384
        else (s.cluster c).arch.pc.toNat + (s.cluster c).fetchQ.length) 0x05 none s t))

/-- BUNDLE_ISSUE (03 R58, R72, R73, R76, R77, R91, R92, R94, R98): a bundle with an illegal slot, and one that would issue and whose slots break a
rule of their registers, is a fault of the first such slot. A legal one whose condition fails goes by as if it held nops; one whose wait
does not hold, or that finds a queue full, stays. With the yield bit and a preemption request the cluster stops in each case but the last.
One that issues: an arithmetic scalar opcode leaves its result in s[d], and s0 stays zero (R60); the program counter advances by one unit,
past unit 16,383 it has run past the end (R97); the long-running slots enter their queues with the registers they captured; the other
registers, the flags, the accumulators and the scratchpad stay. A branch or jump goes on at its target and empties the fetch queue when it
is taken; jal leaves the next unit in s[d]; a halt halts; a scalar load or atomic holds issue with its address; a wait takes its flag or
count; a fence that is no plain acquire holds issue, with the fetch queue empty. Nothing outside the cluster changes. -/
def Obligations.BundleIssueRunsTheScalarSlotAndQueuesTheOthers : Prop :=
  ∀ (c : ClusterId) (s : State) (x : Cluster) (p n : Nat) (b : Line) (rest : List Line),
    s.cluster c = x → x.job = some (p, n) → x.fetchQ = b :: rest → x.canIssue = true →
    let e := scalarBits b
    let y := syncBits b
    let o := x.arch
    let legal := ((List.range 7).any (illegalSlot b)) = false
    let waits := yOp y = 1 ∧ o.waitHolds (yField y) = false
    let becomes (t : State) (z : Cluster) := OnlyCluster c s t ∧
      t.cluster c = { z with stopped := z.stopped || (hYield b && x.preempt.isSome) }
    let queued (t : State) := (t.cluster c).arch.vq = o.vq ++ o.entries b 1 ∧ (t.cluster c).arch.mq = o.mq ++ o.entries b 2 ∧
      (t.cluster c).arch.lq = o.lq ++ o.entries b 3 ∧ (t.cluster c).arch.sq = o.sq ++ o.entries b 4
    let kept (t : State) := OnlyCluster c s t ∧ queued t ∧ (t.cluster c).arch.sat = o.sat ∧ (t.cluster c).arch.v = o.v ∧
      (t.cluster c).arch.acc = o.acc ∧ (t.cluster c).arch.sp = o.sp ∧ (t.cluster c).arch.h = o.h
    let same (t : State) := (t.cluster c).arch.f = o.f ∧ (t.cluster c).arch.k = o.k
    let access : SLoad :=
      { op := sOp e, d := sD e, addr := o.devAddr e, b := o.sreg (sB e), cmp := o.sreg (sD e), scope := sScope e, pc := o.pc.toNat }
    let onward (t : State) := (t.cluster c).arch.pc = o.pc + 1 ∧ (t.cluster c).arch.past = decide (16384 ≤ o.pc.toNat + 1)
    (∀ slot code, o.issueFault b = some (slot, code) → ¬ legal ∨ (o.predicate b = true ∧ ¬ waits ∧ o.room b = true) →
      Completes (.bundleIssue c) s (Faulted c slot o.pc.toNat code none s)) ∧
    (legal → o.predicate b = false → Completes (.bundleIssue c) s (fun t =>
      becomes t { x with arch := o.goTo (o.pc.toNat + 1), fetchQ := rest })) ∧
    (legal → o.predicate b = true →
      (waits → Completes (.bundleIssue c) s (fun t => becomes t x)) ∧
      (¬ waits → o.room b = false → Completes (.bundleIssue c) s (fun t => t = s)) ∧
      (¬ waits → o.room b = true → o.issueFault b = none →
        (y = 0 → 1 ≤ sOp e → sOp e ≤ 0x16 → Completes (.bundleIssue c) s (fun t => kept t ∧ same t ∧ onward t ∧
          (t.cluster c).fetchQ = rest ∧ (∀ r, r ≠ sD e → (t.cluster c).arch.sreg r = o.sreg r) ∧
          (t.cluster c).arch.sreg (sD e) = (if sD e = 0 then 0 else scalarAlu (sOp e) (o.sreg (sA e)) (o.opB e)))) ∧
        (y = 0 → 0x38 ≤ sOp e → sOp e ≤ 0x3C → Completes (.bundleIssue c) s (fun t => kept t ∧ same t ∧
          (t.cluster c).arch.pc = BitVec.ofNat 14 (scalarNext o e).1 ∧
          (t.cluster c).arch.past = decide (16384 ≤ (scalarNext o e).1) ∧
          (t.cluster c).fetchQ = (if (scalarNext o e).2 then [] else rest) ∧
          ∀ r, (t.cluster c).arch.sreg r =
            (if sOp e = 0x3B ∧ r = sD e ∧ r ≠ 0 then BitVec.ofNat 32 (o.pc.toNat + 1) else o.sreg r))) ∧
        (y = 0 → sOp e = 0x3F → Completes (.bundleIssue c) s (fun t => kept t ∧ same t ∧ onward t ∧ (t.cluster c).halting = true ∧
          (t.cluster c).arch.s = o.s)) ∧
        (y = 0 → sOp e = 0x28 ∨ (0x30 ≤ sOp e ∧ sOp e ≤ 0x33) → Completes (.bundleIssue c) s (fun t => kept t ∧ same t ∧ onward t ∧
          (t.cluster c).arch.s = o.s ∧ (t.cluster c).load = some access)) ∧
        (yOp y = 1 → sOp e = 0 → Completes (.bundleIssue c) s (fun t => kept t ∧ onward t ∧ (t.cluster c).fetchQ = rest ∧
          (t.cluster c).arch.s = o.s ∧ (t.cluster c).arch.f = (o.take (yField y)).f ∧
          (t.cluster c).arch.k = (o.take (yField y)).k)) ∧
        (3 ≤ yOp y → yOp y ≤ 5 → yMode y ≠ 1 → sOp e = 0 → Completes (.bundleIssue c) s (fun t => kept t ∧ same t ∧ onward t ∧
          (t.cluster c).fetchQ = [] ∧ (t.cluster c).arch.s = o.s ∧
          (t.cluster c).fence = some { scope := yOp y - 2, mode := yMode y, field := yField y, pc := o.pc.toNat }))))

/-- SCALAR_LOAD_RETURN (03 R77, R78; 02 R50): an aligned ld.s of an address that the partition reads writes the word to s[d] and
lets issue go on: from the scalar read cache when the line is in it, else from the line that the controller reads, which enters the
cache; an atomic that no agent outside its scope meets gives s[d] the old word of a line of the partition's own and stores the new one; one of too
narrow a scope (09 R266; log 67) gives and stores values that nothing fixes. An unaligned or unreadable address is a fault 0x08, an atomic
on a line that is locked or another's 0x09, a line that cannot be read 0x0C.
FENCE_COMPLETE (03 R92, 02 R51): once nothing of the cluster is in progress or queued, an acquire of module or system scope empties the
cache, the fence applies its signal and releases issue. REMOTE_SIGNAL (03 R70): the oldest signal from outside applies. -/
def Obligations.ScalarLoadsFencesAndRemoteSignalsComplete : Prop :=
  (∀ (c : ClusterId) (s : State) (l : SLoad) (p i pln : Nat),
    (s.cluster c).load = some l → s.partOf c = some p → l.addr % 4 = 0 → s.translate p l.addr = some (i, pln) →
    (∀ k : Nat × Line, l.op = 0x28 → (s.cluster c).cache.find? (fun e => e.1 == lineNo l.addr) = some k →
      Completes (.scalarLoadReturn c) s (fun t => OnlyCluster c s t ∧ (t.cluster c).load = none ∧
        (t.cluster c).cache = cacheFill (s.cluster c).cache l.addr k.2 ∧
        (t.cluster c).arch = (s.cluster c).arch.setS l.d (BitVec.ofNat 32 (lineNat k.2 (l.addr % 64) 4)))) ∧
    (∀ (u : State) (x : Line), l.op = 0x28 → (s.cluster c).cache.find? (fun e => e.1 == lineNo l.addr) = none →
      s.readLine (ctlOf pln) pln p = (u, some x) →
      Completes (.scalarLoadReturn c) s (fun t => OnlyCluster c u t ∧ (t.cluster c).load = none ∧
        (t.cluster c).cache = cacheFill (u.cluster c).cache l.addr x ∧
        (t.cluster c).arch = (u.cluster c).arch.setS l.d (BitVec.ofNat 32 (lineNat x (l.addr % 64) 4)))) ∧
    (∀ (u : State) (x : Line), l.op ≠ 0x28 → (s.region i).locked = false → (s.region i).owner = p →
      (s.modCluster c (fun x => { x with cache := x.cache.filter (fun e => e.1 != lineNo l.addr) })).readLine (ctlOf pln) pln p =
        (u, some x) → u.tooNarrow c pln l.scope = false →
      Completes (.scalarLoadReturn c) s (fun t => (t.cluster c).load = none ∧
        (t.cluster c).arch = (u.cluster c).arch.setS l.d (BitVec.ofNat 32 (lineNat x (l.addr % 64) 4)) ∧
        (∀ k, k ≠ c.val → t.cluster k = u.cluster k) ∧ t.regs = u.regs ∧ t.out = u.out ∧
        t.mem = (match atomicNew l.op (BitVec.ofNat 32 (lineNat x (l.addr % 64) 4)) l.b l.cmp with
          | some v => (u.writeLine pln (setLine x (l.addr % 64) 4 v.toNat)).mem
          | none => u.mem)))) ∧
  (∀ (c : ClusterId) (s : State) (l : SLoad) (p : Nat), (s.cluster c).load = some l → s.partOf c = some p →
    let freed := s.modCluster c (fun x => { x with load := none })
    (l.addr % 4 ≠ 0 ∨ s.translate p l.addr = none →
      Completes (.scalarLoadReturn c) s (Faulted c 0 l.pc 0x08 none freed)) ∧
    (∀ i pln, l.addr % 4 = 0 → s.translate p l.addr = some (i, pln) →
      (l.op ≠ 0x28 → (s.region i).locked = true ∨ (s.region i).owner ≠ p →
        Completes (.scalarLoadReturn c) s (Faulted c 0 l.pc 0x09 none freed)) ∧
      (∀ u, l.op = 0x28 → (s.cluster c).cache.find? (fun e => e.1 == lineNo l.addr) = none → s.readLine (ctlOf pln) pln p = (u, none) →
        Completes (.scalarLoadReturn c) s (Faulted c 0 l.pc 0x0C (some pln) (u.modCluster c (fun x => { x with load := none })))) ∧
      (∀ u x, l.op ≠ 0x28 → (s.region i).locked = false → (s.region i).owner = p →
        (s.modCluster c (fun x => { x with cache := x.cache.filter (fun e => e.1 != lineNo l.addr) })).readLine (ctlOf pln) pln p =
          (u, some x) → u.tooNarrow c pln l.scope = true →
        Completes (.scalarLoadReturn c) s (fun t => ∃ old left : W32, (t.cluster c).load = none ∧
          (t.cluster c).arch = (u.cluster c).arch.setS l.d old ∧
          t.mem = (u.writeLine pln (setLine x (l.addr % 64) 4 left.toNat)).mem)))) ∧
  (∀ (c : ClusterId) (s : State) (f : Fence) (a : Arch),
    (s.cluster c).fence = some f → (s.cluster c).running = [] → (s.cluster c).load = none →
    (∀ k, k ∈ [1, 2, 3, 4] → (s.cluster c).arch.queue k = []) → (s.cluster c).arch.signal f.field = some a →
    Completes (.fenceComplete c) s (fun t => OnlyCluster c s t ∧
      t.cluster c = { s.cluster c with
        fence := none, arch := a, cache := if f.mode % 2 = 1 ∧ 2 ≤ f.scope then [] else (s.cluster c).cache })) ∧
  (∀ (c : ClusterId) (s : State) (g : BitVec 16) (rest : List (BitVec 16)) (a : Arch),
    (s.cluster c).inbox = g :: rest → (s.cluster c).arch.signal g = some a →
    Completes (.remoteSignal c) s (fun t => OnlyCluster c s t ∧ t.cluster c = { s.cluster c with inbox := rest, arch := a }))

/-- MARKER (03 R71): a marker that may start in a pipe with nothing in progress performs its take, leaves its queue and applies its
signal at once; behind an operation of its own pipe it is in progress, and completes with that operation, both signals applying together
(R68). LONG_OP_COMPLETE (03 R67): an operation that met no bus error writes its result (a vector register, scratchpad bytes, an accumulator
tile, the saturation count, quarter buffer bytes, or another cluster's scratchpad and then its signal), leaves the pipe, and applies its
signal after the write; one that met a bus error and had nothing to write is a fault 0x0C of its slot and unit, and its signal does not
apply (R99). -/
def Obligations.MarkersAndLongOperationsComplete : Prop :=
  (∀ (c : ClusterId) (s : State) (pipe : Pipe) (e : QEntry) (q : List QEntry),
    (s.cluster c).startable pipe = some (e, q) → slotOp e.bits = 0 →
    (∀ a, (s.cluster c).running = [] →
      (((s.cluster c).arch.setQueue (pipeSlot pipe) q).take (slotWait e.bits)).signal (slotSig e.bits) = some a →
      Completes (.marker c pipe) s (fun t => OnlyCluster c s t ∧ t.cluster c = { s.cluster c with arch := a })) ∧
    (∀ r, (s.cluster c).running = [r] → r.isMarker = false → r.pipe = pipe →
      Completes (.marker c pipe) s (fun t => OnlyCluster c s t ∧
        (∃ m, (t.cluster c).running = [r, m] ∧ m.isMarker = true ∧ m.pipe = pipe ∧ m.sig = slotSig e.bits ∧ m.pc = e.pc) ∧
        (t.cluster c).arch = ((s.cluster c).arch.setQueue (pipeSlot pipe) q).take (slotWait e.bits)))) ∧
  (∀ (c : ClusterId) (s : State) (r : Running),
    (s.cluster c).running = [r] → r.isMarker = false →
    let x := s.cluster c
    let leaves (ws : List Write) (a : Arch) : Prop :=
      r.writes = ws → ∀ b, a.signal r.sig = some b →
        Completes (.longOpComplete c r.pipe) s (fun t => OnlyCluster c s t ∧ t.cluster c = { x with running := [], arch := b })
    (r.err = none →
      (∀ vd lanes, leaves [.vec vd lanes] (x.arch.setV vd lanes)) ∧
      (∀ adr bs, leaves [.scratch adr bs] (x.arch.setSp adr bs)) ∧
      (∀ k l, leaves [.acc k l] { x.arch with acc := Tab.setList (fun _ => 0) x.arch.acc (4096 * k) l }) ∧
      (∀ k, leaves [.sat k] { x.arch with sat := BitVec.ofNat 32 (min 0xFFFFFFFF (x.arch.sat.toNat + k)) }) ∧
      (∀ d adr bs b, r.writes = [.qbuf d adr bs] → x.arch.signal r.sig = some b →
        Completes (.longOpComplete c r.pipe) s (fun t => t.cluster c = { x with running := [], arch := b } ∧
          (t.quarter d).qbuf = Tab.setList (fun _ => 0) (s.quarter d).qbuf adr bs ∧
          (∀ k, k ≠ d → t.quarter k = s.quarter k) ∧ (∀ k, k ≠ c.val → t.cluster k = s.cluster k) ∧ t.mem = s.mem)) ∧
      (∀ d adr bs sig b, d ≠ c.val → r.writes = [.remote d adr bs, .remoteSignal d sig] → x.arch.signal r.sig = some b →
        Completes (.longOpComplete c r.pipe) s (fun t => t.cluster c = { x with running := [], arch := b } ∧
          t.cluster d = { s.cluster d with arch := (s.cluster d).arch.setSp adr bs, inbox := (s.cluster d).inbox ++ [sig] } ∧
          (∀ k, k ≠ c.val → k ≠ d → t.cluster k = s.cluster k) ∧ t.mem = s.mem))) ∧
    (∀ pln, r.err = some pln → r.writes = [] →
      Completes (.longOpComplete c r.pipe) s
        (Faulted c r.slot r.pc 0x0C (some pln) (s.modCluster c (fun y => { y with running := [] }))))) ∧
  (∀ (c : ClusterId) (s : State) (r m : Running) (vd : Nat) (lanes : List W32),
    (s.cluster c).running = [r, m] → r.isMarker = false → m.isMarker = true → m.pipe = r.pipe → r.err = none → r.writes = [.vec vd lanes] →
    ((s.cluster c).arch.setV vd lanes).signalFails [r.sig, m.sig] r.sig = false →
    ((s.cluster c).arch.setV vd lanes).signalFails [r.sig, m.sig] m.sig = false →
    Completes (.longOpComplete c r.pipe) s (fun t => OnlyCluster c s t ∧
      t.cluster c = { s.cluster c with running := [], arch := ((s.cluster c).arch.setV vd lanes).signals [r.sig, m.sig] }))

/-- V_ADD, V_MUL, V_MAX, V_EXP2, V_RCP, V_RSQRT, V_BCAST and V_LD (03 R66, R80, R81): at the start of the entry its wait's take is
performed, the entry leaves the queue, and what is in progress will write v[vd] alone, lane by lane, from v[vd] and v[va] as they stood
at the start; V_BCAST gives every lane s[s_reg], and V_LD the row's first 64 elements with zero above them. -/
def Obligations.VectorRegisterOperationsFormTheirLanes : Prop :=
  ∀ (c : ClusterId) (s : State) (e : QEntry) (q : List QEntry),
    let lane (r i : Nat) : W32 := Tab.get (fun _ => 0) (s.cluster c).arch.v (64 * r + i)
    let forms (i : Instr) (pipe : Pipe) (op : Nat) (f : Nat → W32) : Prop :=
      (s.cluster c).startable pipe = some (e, q) → slotOp e.bits = op →
      Completes i s (fun t => Began c pipe e q s t (fun ws => ∃ l, ws = [.vec (vVd e.bits) l] ∧ l.length = 64 ∧
        ∀ k, k < 64 → l[k]? = some (f k)))
    forms (.vAdd c) .lane 0x04 (fun k => fadd (lane (vVd e.bits) k) (lane (vVa e.bits) k)) ∧
    forms (.vMul c) .lane 0x05 (fun k => fmul (lane (vVd e.bits) k) (lane (vVa e.bits) k)) ∧
    forms (.vMax c) .lane 0x06 (fun k => fmaxN (lane (vVd e.bits) k) (lane (vVa e.bits) k)) ∧
    forms (.vExp2 c) .trans 0x07 (fun k => exp2_32 (lane (vVa e.bits) k)) ∧
    forms (.vRcp c) .trans 0x08 (fun k => rcp32 (lane (vVa e.bits) k)) ∧
    forms (.vRsqrt c) .trans 0x09 (fun k => rsqrt32 (lane (vVa e.bits) k)) ∧
    forms (.vBcast c) .lane 0x03 (fun _ => e.s0) ∧
    forms (.vLd c) .lane 0x01 (fun k =>
      match ((s.cluster c).arch.rowValues (vX e.bits) e.hx e.s0.toNat)[k]? with
      | some x => round32 x
      | none => 0)

/-- V_ST, T_ZERO, T_ADD, T_MULV and T_SILU (03 R66, R80, R81; 04 R102, R113): V_ST writes the leading elements of one row from v[va],
narrowed; T_ZERO writes every row with zeros; the other three write, for every row and element of y, the operation's result on the
values of y and x, narrowed to y's format. Unequal tiles are a shape fault at start, by which nothing is written. -/
def Obligations.TileStoresAndMapsFormTheirElements : Prop :=
  ∀ (c : ClusterId) (s : State) (e : QEntry) (q : List QEntry),
    let a := (s.cluster c).arch
    let lane (r i : Nat) : W32 := Tab.get (fun _ => 0) a.v (64 * r + i)
    let tileOf (ws : List Write) (rows : Nat → List Nat) : Prop :=
      ws.length = shRows e.hy ∧ ∀ r, r < shRows e.hy →
        ws[r]? = some (.scratch (64 * rowUnit e.hy (vY e.bits) r) (rowBytes e.hy (rows r)))
    let maps (i : Instr) (pipe : Pipe) (op : Nat) (f : W32 → Ex → Ex → Ex) : Prop :=
      (s.cluster c).startable pipe = some (e, q) → slotOp e.bits = op → sameTile e.hx e.hy = true →
      Completes i s (fun t => Began c pipe e q s t (fun ws => ∃ rows, tileOf ws rows ∧
        ∀ r j y x, r < shRows e.hy → (a.rowValues (vY e.bits) e.hy r)[j]? = some y → (a.rowValues (vX e.bits) e.hx r)[j]? = some x →
          (rows r)[j]? = some (narrow (shFormat e.hy) (f (lane (vVa e.bits) (j % 64)) y x))))
    ((s.cluster c).startable .lane = some (e, q) → slotOp e.bits = 0x02 →
      Completes (.vSt c) s (fun t => Began c .lane e q s t (fun ws => ∃ codes,
        ws = [.scratch (64 * rowUnit e.hy (vY e.bits) e.s0.toNat) ((rowBytes e.hy codes).take (leadBytes e.hy (min (shEls e.hy) 64)))] ∧
        codes.length = min (shEls e.hy) 64 ∧
        ∀ k, k < min (shEls e.hy) 64 → codes[k]? = some (narrow (shFormat e.hy) (ex32 (lane (vVa e.bits) k)))))) ∧
    ((s.cluster c).startable .lane = some (e, q) → slotOp e.bits = 0x18 →
      Completes (.tZero c) s (fun t => Began c .lane e q s t (fun ws => tileOf ws (fun _ => [])))) ∧
    maps (.tAdd c) .lane 0x10 (fun _ y x => r32 (addEx y x)) ∧
    maps (.tMulv c) .lane 0x11 (fun v _ x => r32 (mulEx x (ex32 v))) ∧
    maps (.tSilu c) .trans 0x17 (fun _ y x => siluEl y x) ∧
    ((s.cluster c).startable .lane = some (e, q) → slotOp e.bits = 0x10 → sameTile e.hx e.hy = false →
      Completes (.tAdd c) s (fun t => Faulted c 1 e.pc 0x02 none s t))

/-- T_CMAX, T_CSUM, T_CSQ, T_EXP2 and T_CVT (03 R80, R81; 04 R114, R128): the three reductions fold the rows of x in ascending order
into each lane of v[vd]; T_EXP2 writes the narrowed tile and folds what it narrowed to into v[vd] in the same order; T_CVT narrows
every element of x to a plain y's format, encodes each row as a wafer of y's rate, or divides each lane of each k-block by the fine
scale that it writes for it. Unequal tiles are a shape fault at start, by which nothing is written. -/
def Obligations.TileReductionsAndConversionsFormTheirResults : Prop :=
  ∀ (c : ClusterId) (s : State) (e : QEntry) (q : List QEntry),
    let a := (s.cluster c).arch
    let lane (r i : Nat) : W32 := Tab.get (fun _ => 0) a.v (64 * r + i)
    let row (r : Nat) : List Ex := a.rowValues (vX e.bits) e.hx r
    let texp (r : Nat) : List Nat :=
      (row r).zipIdx.map (fun z => narrow (shFormat e.hy) (texp2El e.s0 (lane (vVa e.bits) (z.2 % 64)) z.1))
    let steps := stepsPerRow (shFormat e.hy) * shRows e.hy
    let cvt (b l : Nat) : Nat × List Nat := cvtBlock (shFormat e.hy) (a.coarse e.hy (b / 64))
      ((List.range (min 32 (steps - 32 * b))).map (fun i =>
        atStep (shFormat e.hy) .zero ((List.range (shRows e.hx)).map row) (32 * b + i) l))
    let folds (i : Instr) (op : Nat) (step : W32 → List Ex → W32) : Prop :=
      (s.cluster c).startable .lane = some (e, q) → slotOp e.bits = op →
      Completes i s (fun t => Began c .lane e q s t (fun ws => ∃ l, ws = [.vec (vVd e.bits) l] ∧ l.length = 64 ∧
        ∀ k, k < 64 → l[k]? = some ((List.range (shRows e.hx)).foldl (fun v r => step v (laneOf (row r) k)) (lane (vVd e.bits) k))))
    folds (.tCmax c) 0x14 laneMax ∧ folds (.tCsum c) 0x15 laneSum ∧
    folds (.tCsq c) 0x16 (fun v els => laneSum v (els.map (fun x => mulEx x x))) ∧
    ((s.cluster c).startable .trans = some (e, q) → slotOp e.bits = 0x13 → sameTile e.hx e.hy = true →
      Completes (.tExp2 c) s (fun t => Began c .trans e q s t (fun ws => ∃ l, ws.length = shRows e.hx + 1 ∧
        ws[shRows e.hx]? = some (.vec (vVd e.bits) l) ∧ l.length = 64 ∧
        (∀ k, k < 64 → l[k]? = some ((List.range (shRows e.hx)).foldl
          (fun v r => laneSum v (laneOf ((texp r).map (decodeEl (shFormat e.hy))) k)) (lane (vVd e.bits) k))) ∧
        ∀ r, r < shRows e.hx → ws[r]? = some (.scratch (64 * rowUnit e.hy (vY e.bits) r) (rowBytes e.hy (texp r)))))) ∧
    ((s.cluster c).startable .lane = some (e, q) → slotOp e.bits = 0x12 → sameTile e.hx e.hy = true →
      (shWafer e.hy = 0 → shScaled e.hy = false →
        Completes (.tCvt c) s (fun t => Began c .lane e q s t (fun ws => ws.length = shRows e.hx ∧
          ∀ r, r < shRows e.hx → ws[r]? = some (.scratch (64 * rowUnit e.hy (vY e.bits) r) (rowBytes e.hy
            ((row r).map (narrow (shFormat e.hy)))))))) ∧
      (shWafer e.hy ≠ 0 →
        Completes (.tCvt c) s (fun t => Began c .lane e q s t (fun ws => ws.length = shRows e.hx ∧
          ∀ r, r < shRows e.hx → ws[r]? = some (.scratch (64 * rowUnit e.hy (vY e.bits) r) (toBytes (64 * shUnits e.hy)
            (waferEncode (shWafer e.hy) ((row r).map (narrow .bf16)))))))) ∧
      (shWafer e.hy = 0 → shScaled e.hy = true →
        Completes (.tCvt c) s (fun t => Began c .lane e q s t (fun ws => ∃ rows : Nat → List Nat,
          ws.length = shRows e.hx + ceilDiv steps 32 ∧
          (∀ r, r < shRows e.hx → ws[r]? = some (.scratch (64 * rowUnit e.hy (vY e.bits) r) (rowBytes e.hy (rows r))) ∧
            ∀ j, j < 64 * stepsPerRow (shFormat e.hy) → (rows r)[j]? = some
              ((cvt ((stepsPerRow (shFormat e.hy) * r + j / 64) / 32) (j % 64)).2.getD
                ((stepsPerRow (shFormat e.hy) * r + j / 64) % 32) 0)) ∧
          ∀ b, b < ceilDiv steps 32 → ws[shRows e.hx + b]? = some (.scratch (64 * (shScale e.hy + 1 + b))
            ((List.range 64).map (fun l => BitVec.ofNat 8 (cvt b l).1))))))) ∧
    (sameTile e.hx e.hy = false →
      ((s.cluster c).startable .trans = some (e, q) → slotOp e.bits = 0x13 →
        Completes (.tExp2 c) s (fun t => Faulted c 1 e.pc 0x02 none s t)) ∧
      ((s.cluster c).startable .lane = some (e, q) → slotOp e.bits = 0x12 →
        Completes (.tCvt c) s (fun t => Faulted c 1 e.pc 0x02 none s t)))

/-- MMA_BF16, MMA_F16, MMA_F8, MMA_F6, MMA_F4, MMA_I8, MMA_I4 and MMA_MIX (03 R83, R84; 04 R107): element (m, n) of the tile takes, in
ascending block order, the sums of 32-element k-blocks, from zero with the zero bit. MMD (03 R85): each element times its multiplier is
narrowed to the destination's format, row by row; with cmax the 64 column maxima of the exact products are written, merged with what
stands there with the zero bit; and the saturated elements are counted. -/
def Obligations.MatrixOperationsAccumulateAndDrain : Prop :=
  ∀ (c : ClusterId) (s : State) (e : QEntry) (q : List QEntry),
    let a := (s.cluster c).arch
    let h := e.shapes.getD 0 0
    let mma (i : Instr) (op : Nat) : Prop :=
      (s.cluster c).startable .array = some (e, q) → slotOp e.bits = op →
      Completes i s (fun t => Began c .array e q s t (fun ws => ∃ l, ws = [.acc (mTile e.bits) l] ∧ l.length = 4096 ∧
        ∀ m n, m < 64 → n < 64 → l[64 * m + n]? = some ((List.range (ceilDiv (mmaK h) 32)).foldl
          (fun v b => fadd v (a.blockSum e h (e.shapes.getD 1 0) b m n))
          (if mZero e.bits then 0 else a.accEl (mTile e.bits) m n))))
    let product (m n : Nat) : Ex := mulEx (ex32 (a.accEl (mTile e.bits) m n)) (mmdScale e)
    let drain (m n : Nat) : Nat × Bool := drainEl (shFormat h) (product m n)
    let column (n : Nat) : W32 := round32 ((List.range 63).foldl (fun mx m => maxEx mx (product (m + 1) n)) (product 0 n))
    mma (.mmaBf16 c) 0x01 ∧ mma (.mmaF16 c) 0x02 ∧ mma (.mmaF8 c) 0x03 ∧ mma (.mmaF6 c) 0x04 ∧ mma (.mmaF4 c) 0x05 ∧
    mma (.mmaI8 c) 0x06 ∧ mma (.mmaI4 c) 0x07 ∧ mma (.mmaMix c) 0x08 ∧
    ((s.cluster c).startable .drain = some (e, q) → slotOp e.bits = 0x10 →
      Completes (.mmd c) s (fun t => Began c .drain e q s t (fun ws => ∃ rows maxima count, ws = rows ++ maxima ++ [.sat count] ∧
        rows.length = 64 ∧
        (∀ m, m < 64 → rows[m]? = some (.scratch (64 * rowUnit h (mA e.bits) m) (rowBytes h
          ((List.range 64).map (fun n => (drain m n).1))))) ∧
        (mCmax e.bits = false → maxima = []) ∧
        (mCmax e.bits = true → maxima = [.scratch (64 * mB e.bits) ((List.range 64).flatMap (fun n => toBytes 4
          (if mZero e.bits then fmaxN (BitVec.ofNat 32 (ofBytes (a.spBytes (64 * mB e.bits + 4 * n) 4))) (column n)
            else column n).toNat))]) ∧
        count = ((List.range 64).map (fun m => ((List.range 64).filter (fun n => (drain m n).2)).length)).sum)))

/-- LD_Q and ST_Q (03 R88; 02 R40): a tile inside the partition's window at aligned offsets is read from, or written to, the quarter
buffer, row by row; a tile outside it is a fault 0x0A at start. ST_C (03 R90): with count 0 it completes in the cycle it starts and
writes nothing; otherwise every row goes to the same rows of every destination, and then the remote signal; a destination tile outside
the scratchpad is a fault 0x02, a bad signal 0x04, a destination that does not run the job 0x0B. LD_T and ST_T (03 R89; 10 R286): a
handle that names no valid descriptor is a fault 0x06, a store that the partition may not make 0x09; a tile whose tensor answers every
check runs: what is in progress holds the handle and the rows, wafers and scales it will write, or the line whose read failed. -/
def Obligations.ClusterLoadsAndStoresMoveTiles : Prop :=
  ∀ (c : ClusterId) (s : State) (e : QEntry) (q : List QEntry),
    let a := (s.cluster c).arch
    let h := e.shapes.getD 0 0
    let off := (e.ops.getD 0 0).toNat
    let pitch := (e.ops.getD 1 0).toNat
    let x0 := (e.ops.getD 1 0).toNat
    let x1 := (e.ops.getD 2 0).toNat
    let o := (e.ops.getD 3 0).toNat
    let p := s.jobPart c
    let reads (u t : State) (ws : List Write) (err : Option Nat) : Prop :=
      OnlyCluster c u t ∧ ∃ r, (t.cluster c).running = (u.cluster c).running ++ [r] ∧ r.writes = ws ∧ r.err = err ∧
        r.handle = some (e.ops.getD 0 0) ∧ r.pipe = .load ∧ r.pc = e.pc ∧ r.sig = slotSig e.bits ∧ r.isMarker = false ∧
        (t.cluster c).arch = ((u.cluster c).arch.setQueue 3 q).take (slotWait e.bits)
    ((s.cluster c).startable .load = some (e, q) → slotOp e.bits = 0x02 →
      (s.inWindow p (c.val / 320) h off pitch = true →
        Completes (.ldQ c) s (fun t => Began c .load e q s t (fun ws => ws.length = shRows h ∧ ∀ r, r < shRows h →
          ws[r]? = some (.scratch (64 * rowUnit h (lSp e.bits) r) (toBytes (64 * shUnits h)
            (ofBytes (s.windowBytes p (c.val / 320) (off + r * pitch) (64 * shUnits h)))))))) ∧
      (s.inWindow p (c.val / 320) h off pitch = false → Completes (.ldQ c) s (fun t => Faulted c 3 e.pc 0x0A none s t))) ∧
    ((s.cluster c).startable .store = some (e, q) → slotOp e.bits = 0x02 →
      (s.inWindow p (c.val / 320) h off pitch = true →
        Completes (.stQ c) s (fun t => Began c .store e q s t (fun ws => ws = (List.range (shRows h)).flatMap (fun r =>
          s.windowWrites p (c.val / 320) (off + r * pitch) (toBytes (64 * shUnits h) (a.rowNat h (lSp e.bits) r)))))) ∧
      (s.inWindow p (c.val / 320) h off pitch = false → Completes (.stQ c) s (fun t => Faulted c 4 e.pc 0x0A none s t))) ∧
    ((s.cluster c).startable .store = some (e, q) → slotOp e.bits = 0x03 → ∀ j, (s.cluster c).job = some j →
      (∀ x, e.ops.getD 2 0 = 0 → ((a.setQueue 4 q).take (slotWait e.bits)).signal (slotSig e.bits) = some x →
        Completes (.stC c) s (fun t => OnlyCluster c s t ∧ t.cluster c = { s.cluster c with arch := x })) ∧
      (e.ops.getD 2 0 ≠ 0 →
        (16384 ≤ (e.ops.getD 1 0).toNat ∨ 16384 < (e.ops.getD 1 0).toNat + (shRows h - 1) * shStride h + shUnits h →
          Completes (.stC c) s (fun t => Faulted c 4 e.pc 0x02 none s t)) ∧
        ((e.ops.getD 1 0).toNat + (shRows h - 1) * shStride h + shUnits h ≤ 16384 → (e.ops.getD 1 0).toNat < 16384 →
          (fld (e.ops.getD 3 0) 31 16 ≠ 0 ∨ sigOk (BitVec.ofNat 16 (fld (e.ops.getD 3 0) 15 0)) = false →
            Completes (.stC c) s (fun t => Faulted c 4 e.pc 0x04 none s t)) ∧
          (fld (e.ops.getD 3 0) 31 16 = 0 → sigOk (BitVec.ofNat 16 (fld (e.ops.getD 3 0) 15 0)) = true →
            (300 < (e.ops.getD 2 0).toNat ∨ 1200 ≤ (e.ops.getD 0 0).toNat ∨
                s.multicast c j (e.ops.getD 0 0).toNat (e.ops.getD 2 0).toNat = none →
              Completes (.stC c) s (fun t => Faulted c 4 e.pc 0x0B none s t)) ∧
            (∀ ds, (e.ops.getD 2 0).toNat ≤ 300 → (e.ops.getD 0 0).toNat < 1200 →
              s.multicast c j (e.ops.getD 0 0).toNat (e.ops.getD 2 0).toNat = some ds →
              Completes (.stC c) s (fun t => Began c .store e q s t (fun ws => ws = ds.flatMap (fun d =>
                (List.range (shRows h)).map (fun r => Write.remote d (64 * rowUnit h (e.ops.getD 1 0).toNat r)
                  (toBytes (64 * shUnits h) (a.rowNat h (lSp e.bits) r))) ++
                (if BitVec.ofNat 16 (fld (e.ops.getD 3 0) 15 0) = 0 then []
                  else [Write.remoteSignal d (BitVec.ofNat 16 (fld (e.ops.getD 3 0) 15 0))]))))))))) ∧
    ((s.cluster c).startable .load = some (e, q) → slotOp e.bits = 0x01 →
      (s.tensorAt p (e.ops.getD 0 0) = none → Completes (.ldT c) s (fun t => Faulted c 3 e.pc 0x06 none s t)) ∧
      (∀ code, s.tileCheck p e = .inr code → Completes (.ldT c) s (fun t => Faulted c 3 e.pc code none s t)) ∧
      (∀ x u ws, s.tileCheck p e = .inl x →
        let fine := x.finePairs (s.memberOf x) h x0 x1 o
        let coarse := x.coarseAddrs (s.memberOf x) h x0 x1 o
        let fineWrites (ls : List Line) : List Write :=
          (fine.zip ls).map (fun y => .scratch (64 * y.1.1) (lineBytes (y.2 &&& lineOf (List.replicate 64 0x7F#8))))
        (∀ pln, s.ldRows p x (s.memberOf x) h (lSp e.bits) x0 x1 o (List.range (shRows h)) = (u, ws, some pln) →
          Completes (.ldT c) s (fun t => reads u t ws (some pln))) ∧
        (s.ldRows p x (s.memberOf x) h (lSp e.bits) x0 x1 o (List.range (shRows h)) = (u, ws, none) →
          (shScaled h = false → Completes (.ldT c) s (fun t => reads u t ws none)) ∧
          (shScaled h = true → ∀ v ls z cl,
            (∀ pln, u.readAddrs p (fine.map (·.2)) = (v, ls, some pln) →
              Completes (.ldT c) s (fun t => reads v t (ws ++ fineWrites ls) (some pln))) ∧
            (∀ err, u.readAddrs p (fine.map (·.2)) = (v, ls, none) → v.readAddrs p (coarse.map (fun w => w - w % 64)) = (z, cl, err) →
              Completes (.ldT c) s (fun t => reads z t (ws ++ fineWrites ls ++
                (if err.isSome then [] else [.scratch (64 * shScale h)
                  (padTo 64 ((coarse.zip cl).flatMap (fun y => toBytes 4 (lineNat y.2 (y.1 % 64) 4))))])) err)))))) ∧
    ((s.cluster c).startable .store = some (e, q) → slotOp e.bits = 0x01 →
      (∀ code, s.tileCheck p e = .inr code → Completes (.stT c) s (fun t => Faulted c 4 e.pc code none s t)) ∧
      (∀ x, s.tileCheck p e = .inl x →
        (s.mayWrite p (x.tileLines (s.memberOf x) h x0 x1 o) = false → Completes (.stT c) s (fun t => Faulted c 4 e.pc 0x09 none s t)) ∧
        (s.mayWrite p (x.tileLines (s.memberOf x) h x0 x1 o) = true →
          Completes (.stT c) s (fun t => Began c .store e q s t (fun ws => ∃ rows scales, ws = rows ++ scales ∧
            (shWafer h = 0 → rows = (List.range (shRows h)).flatMap (fun row =>
              s.rowWrites p x (s.memberOf x) x0 (x1 + row) o
                ((List.range (shEls h)).map (elCode (shFormat h) (a.rowNat h (lSp e.bits) row))))) ∧
            (shWafer h ≠ 0 → rows = (List.range (shRows h)).flatMap (fun row =>
              s.waferWrites p x (s.memberOf x) x0 (x1 + row) o (a.rowNat h (lSp e.bits) row))) ∧
            (shScaled h = false → scales = []) ∧
            (shScaled h = true → scales =
              (x.finePairs (s.memberOf x) h x0 x1 o).flatMap (fun y => s.devWrite p y.2 0 512
                (BitVec.ofNat 512 (a.units y.1 1) &&& lineOf (List.replicate 64 0x7F#8)).toNat) ++
              (x.coarseAddrs (s.memberOf x) h x0 x1 o).zipIdx.flatMap (fun y =>
                s.devWrite p (y.1 - y.1 % 64) (8 * (y.1 % 64)) 32 (a.coarse h y.2).toNat)))))))

/-! ### Jobs (03 R94 to R97, 11 R310, 13 R339 to R346) -/

/-- JOB (11 R310, 13 R339): of a program ring's fetched descriptors the first leaves the ring; a good one becomes a waiting job of the
partition, in arrival order, and a malformed one is answered with status 0x40 in the completion ring and starts nothing. The partition
is ready and the host link trained to its full form (R301). -/
def Obligations.JobDescriptorsWaitForTheirStart : Prop :=
  ∀ (fn : FnId) (r : RingId) (s : State) (d : Line) (rest : List Line),
    let p := fn.val - 1
    (s.ring fn r).fetched = d :: rest → fn.val ≠ 0 → s.ringType fn r = 2 → s.works p = true →
    (∀ j, j ∈ (s.part p).jobs → j.fn = fn.val → j.ring = r.val → j.live = true) →
    (s.badJob p d = false → Completes (.job fn r) s (fun t => (t.ring fn r).fetched = rest ∧
      (∃ j, (t.part p).jobs = (s.part p).jobs ++ [j] ∧ j.state = .waiting ∧ j.desc = d ∧ j.jobId = jId d ∧ j.queue = jQueue d ∧
        j.fn = fn.val ∧ j.ring = r.val ∧ j.num = (s.part p).nextJob ∧ j.clusters = []) ∧
      (t.part p).round = (s.part p).round ∧ (∀ k, k ≠ p → t.part k = s.part k) ∧ t.clusters = s.clusters ∧ t.engines = s.engines ∧
      t.mem = s.mem ∧ t.regs = s.regs ∧ t.out = s.out)) ∧
    (s.badJob p d = true → Completes (.job fn r) s (fun t =>
      t = (s.popFetched fn r).putRing fn (s.complRing fn r) (jobRecord 0x10 0x40 (jId d) r 0 0 0 0 s.nowNat []) ∧
        t.parts = s.parts ∧ t.clusters = s.clusters ∧ t.engines = s.engines ∧ t.mem = s.mem ∧ t.regs = s.regs))

/-- JOB_START (03 R59, 08 R225, 10 R290, 13 R339, R344): a waiting job whose shares are free and whose image can be read begins on every
cluster of its shares, in the state of R59: the image from unit 0, s1 to s8 the arguments, the program counter at the entry unit; it
takes the lowest free save area, and the program copy queue of PART_COPYQ is served. A serving job whose header is missing or breaks
R225 is refused with 0x40, a handle that names no tensor, no image or one that cannot be read with 0x41, and a bad PART_COPYQ with 0x44.
With PART_REPLAY set the journal is replayed, or the replay has stopped: exhausted when it has no entry, and otherwise by a mismatch
(19 R459; which of the two a START entry brings is open, log 23). -/
def Obligations.JobsBeginOnTheirClusters : Prop :=
  ∀ (p : PartId) (n : Nat) (image : Option (List Byte)) (header : Option Line) (s : State) (j : Job) (shares : List Nat),
    let serves := j.queue = 0
    let copyq := bitAt (s.partReg p 0x68) 13
    s.job p n = some j → j.state = .waiting → s.works p = true → (s.liveJobs p).length < (s.part p).applied.maxJobs →
    s.mayHold p j = true →
    (match (s.part p).turn.find? (fun e => e.1 == n) with
      | some e => e.2
      | none => if j.queue = 0 then s.sharesOf p else []) = shares →
    shares ≠ [] → (∀ x, x ∈ shares → x ∉ s.heldShares p) → (∀ c, c ∈ s.clustersOf shares → (s.cluster c).still = true) →
    ((serves → (∃ h, header = some h ∧ headerFault h = none) ∧ (s.round p).entries = []) →
      (s.tensorAt p (jProgram j.desc) = none →
        Completes (.jobStart p n image header) s (fun t => t = s.refuseStart p j 0x41 0)) ∧
      (∀ tn, s.tensorAt p (jProgram j.desc) = some tn →
        (tn.isImage = false → Completes (.jobStart p n image header) s (fun t => t = s.refuseStart p j 0x41 0)) ∧
        (tn.isImage = true → copyq = true → s.copyqOk p (s.partReg p 0x68) = false →
          Completes (.jobStart p n image header) s (fun t => t = s.refuseStart p j 0x44 0)) ∧
        (tn.isImage = true → (copyq = true → s.copyqOk p (s.partReg p 0x68) = true) →
          (∀ u, s.imageOf p tn image = (u, none) →
            Completes (.jobStart p n image header) s (fun t => t = u.refuseStart p j 0x41 0)) ∧
          (∀ bs, s.imageOf p tn image = (s, some bs) →
            ((serves → bitAt (s.partReg p 0x70) 0 = false) → Completes (.jobStart p n image header) s (fun t =>
              (∀ c, c ∈ s.clustersOf shares → ∃ x : Cluster, t.cluster c = x.begin p j.num j.desc (some bs)) ∧
              (∀ c, c ∉ s.clustersOf shares → t.cluster c = s.cluster c) ∧
              (∃ k, t.job p n = some k ∧ k.state = .running ∧ k.shares = shares ∧ k.clusters = s.clustersOf shares ∧
                k.startedAt = s.time.now ∧ k.slot = s.freeSlot p) ∧
              (t.part p).copyq = (if copyq then some (s.partReg p 0x68) else none) ∧
              (serves → (t.round p).model = header.map modelOf) ∧ t.mem = s.mem ∧ t.engines = s.engines ∧ t.regs = s.regs)) ∧
            (serves → bitAt (s.partReg p 0x70) 0 = true →
              (fld (s.partReg p 0x80) 39 0 = 0 → Completes (.jobStart p n image header) s (fun t =>
                (t.part p).journal.replay = 3 ∧ (t.part p).journal.reason = 1 ∧ (t.part p).journal.stepAt = (s.round p).step)) ∧
              (fld (s.partReg p 0x80) 39 0 ≠ 0 → Completes (.jobStart p n image header) s (fun t =>
                ((t.part p).journal.replay = 1 ∧ (t.part p).journal.reason = 0) ∨
                  ((t.part p).journal.replay = 3 ∧ (t.part p).journal.reason = 2)))))))) ∧
    (serves →
      (header = none → Completes (.jobStart p n image header) s (fun t => t = s.refuseStart p j 0x40 0)) ∧
      (∀ h f, header = some h → headerFault h = some f →
        Completes (.jobStart p n image header) s (fun t => t = s.refuseStart p j 0x40 f)))

/-- CLUSTER_HALT_COMPLETE (03 R97): a halting cluster with nothing queued and nothing in progress has halted; when it is the last of its
job, the job ends and its clusters hold no job; its record has status 0 (11 R311). YIELD_TIMEOUT (03 R96): a cluster that has not stopped 1 ms after its
preemption request faults with code 0x0D. -/
def Obligations.ClustersHaltOrTimeOut : Prop :=
  (∀ (c : ClusterId) (s : State) (p n : Nat) (j : Job), (s.cluster c).job = some (p, n) → s.job p n = some j →
    (s.cluster c).halting = true → (s.cluster c).running = [] → (s.cluster c).load = none → (s.cluster c).fence = none →
    (s.cluster c).faultRec = none → (∀ k, k ∈ [1, 2, 3, 4] → (s.cluster c).arch.queue k = []) →
    ((∃ k, k ∈ j.clusters ∧ k ≠ c.val ∧ (s.cluster k).halted = false) →
      Completes (.clusterHaltComplete c) s (fun t => OnlyCluster c s t ∧
        t.cluster c = { s.cluster c with halting := false, halted := true })) ∧
    ((∀ k, k ∈ j.clusters → k ≠ c.val → (s.cluster k).halted = true) →
      Completes (.clusterHaltComplete c) s (fun t => t.job p n = none ∧
        (∃ u : State, t = u.jobAnswer j.fn j.ring j.desc 0 0 0 0 j.startedAt.toNat ∧ u.out = s.out ∧ u.fns = s.fns ∧ u.time = s.time) ∧
        (∀ k, k ∈ j.clusters → (t.cluster k).job ≠ some (p, n)) ∧ (∀ k, k ∉ j.clusters → k ≠ c.val → t.cluster k = s.cluster k) ∧
        t.mem = s.mem ∧ t.engines = s.engines ∧ t.regs = s.regs))) ∧
  (∀ (c : ClusterId) (s : State) (at' : W64), (s.cluster c).preempt = some at' → (s.cluster c).job.isSome = true →
    (s.cluster c).stopped = false → (s.cluster c).halted = false → (s.cluster c).faultRec = none →
    at'.toNat + 1000000 ≤ s.nowNat →
    Completes (.yieldTimeout c) s (fun t => Faulted c 6 (s.cluster c).arch.pc.toNat 0x0D none s t))

/-- PREEMPT_REQUEST (03 R94, 13 R340 to R342): a running job that may no longer hold its shares, and the serving job only outside a
step, is asked to stop on every cluster that has not halted. JOB_SAVE (03 R95, 13 R343): once every cluster has stopped, the records hold
each cluster's program state; it changes no cluster. JOB_SAVE_COMPLETE: the clusters hold no job, and the lines of the job's save area are
written (that they read as blank is the model's choice, log 70); every other line stays. JOB_RESTORE (R343; 14 R356): each cluster takes
its record back, with an empty scalar read cache; a bad line among the records stops it, and is met as a bad line of firmware's.
TIME_SLICE_BOUNDARY (13 R340, R341): slices are counted from SETUP in units of 100 µs; a boundary moves the count to itself, takes the
slice length for the next one, and is held until the commit while a running serving job is inside a step. JOB_FAULT (13 R345, R346): a
record of its clusters whose reach is the partition, or with no live job the cause of code 0 that reached firmware, is counted once,
saturating, is due no longer, and leaves no live job. -/
def Obligations.JobsGiveUpTheirSharesAndSlicesAreCounted : Prop :=
  (
  ∀ (p : PartId) (n : Nat) (s : State) (j : Job), s.job p n = some j →
    (j.state = .running → s.mayHold p j = false → (j.queue ≠ 0 ∨ s.inStep p = false) →
      Completes (.preemptRequest p n) s (fun t =>
        (∀ c, c ∈ j.clusters → t.cluster c =
          (if (s.cluster c).halted then s.cluster c else { s.cluster c with preempt := some s.time.now })) ∧
        (∀ c, c ∉ j.clusters → t.cluster c = s.cluster c) ∧ t.job p n = some { j with state := .stopping } ∧
        (∀ k, k ≠ p.val → t.part k = s.part k) ∧ t.mem = s.mem ∧ t.engines = s.engines ∧ t.regs = s.regs)) ∧
    (j.state = .stopping → (∀ c, c ∈ j.clusters → (s.cluster c).saveable = true) → s.runsOf p = [] →
      (∀ k, k ∈ s.copies → k.queue ≠ .program p) →
      Completes (.jobSave p n) s (fun t => OnlyPart p s t ∧ ∃ k, t.job p n = some k ∧ k.state = .saving ∧
        k.area.map (·.cluster) = j.clusters ∧
        ∀ a, a ∈ k.area → a.arch = (s.cluster a.cluster).arch ∧ a.fence = (s.cluster a.cluster).fence ∧
          a.halting = (s.cluster a.cluster).halting ∧ a.halted = (s.cluster a.cluster).halted)) ∧
    (j.state = .saving →
      Completes (.jobSaveComplete p n) s (fun t => t.job p n = some { j with state := .saved } ∧
        (∀ c, c ∈ j.clusters → (t.cluster c).job = none ∧ (t.cluster c).running = (s.cluster c).running) ∧
        (∀ c, c ∉ j.clusters → t.cluster c = s.cluster c) ∧
        (∀ l, (∀ r, r ∈ s.fwRegions p → ((s.region r).hasLine l && s.inArea p j.slot (s.region r) l) = false) →
          t.stored l = s.stored l) ∧ t.engines = s.engines ∧ t.regs = s.regs)) ∧
    (j.state = .saved → s.mayHold p j = true → (∀ c, c ∈ j.clusters → (s.cluster c).still = true) →
      (s.fwBad p (s.inArea p j.slot) = none → (j.area.map (·.cluster)).Nodup →
        Completes (.jobRestore p n) s (fun t => t.job p n = some { j with state := .running } ∧
          (∀ a, a ∈ j.area → (t.cluster a.cluster).arch = a.arch ∧ (t.cluster a.cluster).fence = a.fence ∧
            (t.cluster a.cluster).halting = a.halting ∧ (t.cluster a.cluster).halted = a.halted ∧ (t.cluster a.cluster).cache = [] ∧
            (t.cluster a.cluster).job = some (p.val, n)) ∧
          (∀ c, c ∉ j.area.map (·.cluster) → t.cluster c = s.cluster c) ∧ t.mem = s.mem ∧ t.engines = s.engines ∧ t.regs = s.regs)) ∧
      (∀ l, s.fwBad p (s.inArea p j.slot) = some l →
        Completes (.jobRestore p n) s (fun t => t = s.badLine (ctlOf l) l 0xFF false false)))) ∧
  (
  ∀ (p : PartId) (s : State), (s.part p).mode = .ready →
    ((s.part p).sliceAt.toNat + 100000 * (s.part p).slice ≤ s.nowNat →
      Completes (.timeSliceBoundary p) s (fun t =>
        (t.part p).sliceAt = BitVec.ofNat 64 ((s.part p).sliceAt.toNat + 100000 * (s.part p).slice) ∧
        (t.part p).slice = fld (s.partCfg p) 29 20 ∧
        (∀ j, s.servingJob p = some j → j.state = .running → s.inStep p = true →
          (t.part p).sliceDue = true ∧ (t.part p).turn = (s.part p).turn) ∧
        (s.inStep p = false → (t.part p).sliceDue = false ∧ (t.part p).turn = (s.spendSlice p).nextTurn p) ∧
        (∀ k, k ≠ p.val → t.part k = s.part k) ∧ t.clusters = s.clusters ∧ t.mem = s.mem ∧ t.regs = s.regs)) ∧
    (s.liveJobs p = [] → (s.part p).faultDue = true → ∀ n, Completes (.jobFault p n 0) s (fun t =>
      (t.part p).faultDue = false ∧ (t.part p).jobFaults = satAdd 65535 (s.part p).jobFaults 1 ∧ t.liveJobs p = [])) ∧
    (∀ n j code e, s.job p n = some j → j.live = true →
      (s.recordsOf j code.toNat).find? (fun e => s.reachOf p j e.2 == 2) = some e → Completes (.jobFault p n code) s (fun t =>
        (t.part p).faultDue = false ∧ (t.part p).jobFaults = satAdd 65535 (s.part p).jobFaults 1 ∧ t.liveJobs p = [])))

/-! ### Regions (05 R142 to R145) -/

/-- CREATE, RELEASE, CONVERT, LOCK and SET_SHARE (05 R143, R144) from physical function 0 while no command runs. An accepted one makes
RGN_CMD_STATUS busy and touches no line: CREATE writes the entry with state 1; RELEASE and CONVERT give it state 3, and descriptors,
digests and repairs of the region go; LOCK sets locked; SET_SHARE invalidates the removed partitions' descriptors and leaves the entry
until its completion. A refused one ends at once with its status, and no entry and no line changes.
REGION_COMMAND_COMPLETE (05 R144, R145): once no accepted write is pending, the command in progress ends with status 0 and busy
clears. CREATE leaves the entry ready and every line of its placement blank; RELEASE blanks the placement and frees the entry; CONVERT
blanks it and makes the converted entry ready; LOCK changes no more; SET_SHARE writes the share mask, and invalidates what removed partitions
created meanwhile. No other line changes. -/
def Obligations.RegionCommandsRunFromCheckToEffect : Prop :=
  (
  ∀ (fn : FnId) (i : BitVec 8) (s : State), fn.val = 0 → s.memory.ctl.busy = false → s.firmwareUp = true →
    let w0 := s.reg 0 0x41000
    let w1 := s.reg 0 0x41008
    let n := i.toNat
    let begins (c : Instr) (op : Nat) (r : Region) (u : State) : Prop :=
      (s.regionStatus n op w0 w1 = 0 → Completes c s (fun t => t.region n = r ∧ (∀ k, k ≠ n → t.region k = s.region k) ∧
        t.memory.ctl.busy = true ∧ t.memory.ctl.index = i ∧ t.memory.repairs = u.memory.repairs ∧ t.parts = u.parts ∧ t.mem = s.mem ∧ t.regs = s.regs ∧ t.clusters = s.clusters ∧
        t.engines = s.engines)) ∧
      (s.regionStatus n op w0 w1 ≠ 0 → Completes c s (fun t => t.memory.regions = s.memory.regions ∧ t.memory.ctl.busy = false ∧
        t.memory.ctl.status = BitVec.ofNat 8 (s.regionStatus n op w0 w1) ∧ t.memory.ctl.index = i ∧ t.mem = s.mem ∧ t.regs = s.regs ∧
        t.parts = s.parts ∧ t.clusters = s.clusters ∧ t.engines = s.engines))
    begins (.create fn i) 1 (regionFrom w0 w1 1) s ∧
    begins (.regionRelease fn i) 2 { s.region n with w0 := setFld (s.region n).w0 2 1 3 } (s.leaveRegion n) ∧
    begins (.convert fn i) 3 { s.region n with w0 := setFld (s.region n).w0 2 1 3 } (s.leaveRegion n) ∧
    begins (.lock fn i) 4 { s.region n with w0 := setFld (s.region n).w0 5 5 1 } s ∧
    begins (.setShare fn i) 5 (s.region n) (s.dropShares n (fld w0 23 16))) ∧
  (
  ∀ (s : State) (c : RegionCmd), s.memory.ctl.cmd = some c → s.writesPending c.index = false → (s.region c.index).valid = true →
    let r := s.region c.index
    let leaves (x : Region) : Prop :=
      Completes .regionCommandComplete s (fun t => t.region c.index = x ∧ (∀ k, k ≠ c.index → t.region k = s.region k) ∧
        t.memory.ctl.busy = false ∧ t.memory.ctl.status = 0 ∧ t.memory.ctl.cmd = none ∧ t.regs = s.regs ∧
        t.parts = (if c.op = 5 then (s.dropShares c.index (fld c.w0 23 16)).parts else s.parts) ∧
        (∀ a, Tab.get blankByte t.mem a =
          (if c.op ∈ [1, 2, 3] ∧ r.hasLine (a / 72) = true then blankByte a else Tab.get blankByte s.mem a)))
    (c.op = 1 → leaves { r with w0 := setFld r.w0 2 1 2 }) ∧
    (c.op = 2 → leaves Region.reset) ∧
    (c.op = 3 → leaves { r.converted c.w0 with w0 := setFld (r.converted c.w0).w0 2 1 2 }) ∧
    (c.op = 4 → leaves r) ∧
    (c.op = 5 → leaves { r with w0 := setFld r.w0 23 16 (fld c.w0 23 16) }))

/-! ### Command packets of the stack sequencers (05 R149 to R161; 06 R164 to R170) -/

/-- WRITE_CR and START (05 R150, R151; 06 R164): an accepted packet writes the payload into the command registers of every engine it
addresses; a START also queues each engine at the tail of its pseudo-channel's start queue, with the library index and the tag. One
status packet with code 0 answers the source. While a library change is under way, or a die copy is about to end, both are held in order
and nothing else happens (06 R191; 20 R472). A refused one changes no engine, no queue and no line, and is answered with its code, and
one of a reserved type with 0x01.
SUSPEND, RESUME, ABORT and STATUS (05 R150, R151; 06 R166, R168, R185) of a good form within the source's groups: each answers code
0 to its source. SUSPEND marks every running or queued engine to stop at its next YIELD; RESUME validates each suspended engine and
queues it with its state in place, or gives it a guard fault; ABORT makes an engine with a run idle and takes it out of its start queue, with the debt of an acting YIELD paid;
STATUS returns one state word for each engine and changes none. A bad form is refused with code 0x01, a channel outside the groups with
0x02 and a RESUME into a full start queue with 0x07, and no engine changes. -/
def Obligations.PacketsActOnEngines : Prop :=
  (
  ∀ (st : StackId) (src : PacketSource) (pk : Packet) (s : State),
    let written (x : Engine) : Tab W64 := writeRegs x.c pk.firstReg pk.payload
    let good := pk.formOk 0 16 = true ∧ pk.firstReg + pk.count ≤ 16
    let refused (i : Instr) (code : Nat) : Prop :=
      Completes i s (fun t => t.engines = s.engines ∧ t.stackTab = s.stackTab ∧ t.mem = s.mem ∧ t.regs = s.regs ∧
        t.out = s.out ++ [.status st src pk.tag code []] ∧ (t.icLine st).pending = true)
    (pk.typ = 1 → s.holdsPackets st pk = false →
      (good → s.foreign st src pk = false → (∀ e, e ∈ pk.engines st → (s.engine e).busy = false) →
        Completes (.writeCr st src pk) s (fun t =>
          (∀ e, e ∈ pk.engines st → t.engine e = { s.engine e with c := written (s.engine e) }) ∧
          (∀ e, e ∉ pk.engines st → t.engine e = s.engine e) ∧ t.out = s.out ++ [.status st src pk.tag 0 []] ∧
          (t.icLine st).pending = true ∧ t.stackTab = s.stackTab ∧ t.mem = s.mem ∧ t.regs = s.regs ∧ t.parts = s.parts ∧
          t.clusters = s.clusters)) ∧
      (¬ good → refused (.writeCr st src pk) 1) ∧
      (good → s.foreign st src pk = true → refused (.writeCr st src pk) 2) ∧
      (good → s.foreign st src pk = false → (∃ e, e ∈ pk.engines st ∧ (s.engine e).busy = true) → refused (.writeCr st src pk) 5)) ∧
    (pk.typ = 2 → s.holdsPackets st pk = false →
      (s.startRefusal st src pk = none →
        Completes (.start st src pk) s (fun t =>
          (∀ e, e ∈ pk.engines st → (t.engine e).mode = .queued ∧ (t.engine e).fault = 0 ∧ (t.engine e).index = pk.index ∧
            (t.engine e).tag = pk.tag ∧ (t.engine e).src = src ∧ (t.engine e).permit = false ∧ (t.engine e).c = written (s.engine e) ∧
            (t.engine e).buf = (s.engine e).buf ∧ (t.engine e).acc = (s.engine e).acc) ∧
          (∀ e, e ∉ pk.engines st → t.engine e = s.engine e) ∧
          (∀ c, c ∈ pk.channels → t.startQ st (2 * c + pk.pc) = s.startQ st (2 * c + pk.pc) ++ [engineOf st c pk.pc pk.bg]) ∧
          t.out = s.out ++ [.status st src pk.tag 0 []] ∧ (t.icLine st).pending = true ∧ t.mem = s.mem ∧ t.regs = s.regs ∧
          t.clusters = s.clusters)) ∧
      (∀ code, s.startRefusal st src pk = some code → refused (.start st src pk) code)) ∧
    ((pk.typ = 1 ∨ pk.typ = 2) → s.holdsPackets st pk = true →
      Completes (if pk.typ = 1 then .writeCr st src pk else .start st src pk) s (fun t => t.engines = s.engines ∧ t.out = s.out ∧
        (t.stack st).heldPackets = (s.stack st).heldPackets ++ [(src, pk)] ∧ t.mem = s.mem)) ∧
    (packetTypes.contains pk.typ = false → refused (.writeCr st src pk) 1 ∧ refused (.start st src pk) 1)) ∧
  (
  ∀ (st : StackId) (src : PacketSource) (pk : Packet) (s : State),
    let plain : List (Nat × Instr) := [(3, .suspend st src pk), (4, .resume st src pk), (5, .abort st src pk), (6, .status st src pk)]
    let refused (i : Instr) (code : Nat) : Prop :=
      Completes i s (fun t => t.engines = s.engines ∧ t.stackTab = s.stackTab ∧ t.mem = s.mem ∧ t.regs = s.regs ∧
        t.out = s.out ++ [.status st src pk.tag code []] ∧ (t.icLine st).pending = true)
    let room := ∀ c, c ∈ pk.channels → (s.engine (engineOf st c pk.pc pk.bg)).mode = .suspended →
      (s.startQ st (2 * c + pk.pc)).length < 8
    (pk.formOk 0 0 = false → ∀ x, x ∈ plain → pk.typ = x.1 → refused x.2 1) ∧
    (pk.formOk 0 0 = true → s.foreign st src pk = true → ∀ x, x ∈ plain → pk.typ = x.1 → refused x.2 2) ∧
    (pk.formOk 0 0 = true → s.foreign st src pk = false →
      let acts (i : Instr) (ws : List W64) (f : State → Nat → Prop) : Prop :=
        Completes i s (fun t => (∀ e, e ∈ pk.engines st → f t e) ∧ (∀ e, e ∉ pk.engines st → t.engine e = s.engine e) ∧
          t.out = s.out ++ [.status st src pk.tag 0 ws] ∧ (t.icLine st).pending = true ∧ t.mem = s.mem ∧ t.regs = s.regs ∧
          t.parts = s.parts ∧ t.clusters = s.clusters)
      (pk.typ = 3 → acts (.suspend st src pk) [] (fun t e => t.engine e =
        (if (s.engine e).mode = .running ∨ (s.engine e).mode = .queued then { s.engine e with pendSuspend := true } else s.engine e))) ∧
      (pk.typ = 4 → room → acts (.resume st src pk) [] (fun t e =>
        ((s.engine e).mode ≠ .suspended ∨ (s.engine e).failing ≠ none → t.engine e = s.engine e) ∧
        ((s.engine e).mode = .suspended → (s.engine e).failing = none →
          (∀ le, s.libEntry (s.engine e).index = some le → s.addressesOk src st le (s.engine e).c = true →
            t.engine e = { s.engine e with mode := .queued, resume := true, preloaded := true } ∧ e ∈ t.startQ st (pcOfEngine e)) ∧
          ((∀ le, s.libEntry (s.engine e).index = some le → s.addressesOk src st le (s.engine e).c = false) →
            t.engine e = { s.engine e with failing := some (2, none) })))) ∧
      (pk.typ = 4 → ¬ room → refused (.resume st src pk) 7) ∧
      (pk.typ = 5 → acts (.abort st src pk) [] (fun t e => t.engine e =
        (if (s.engine e).busy = true then (s.engine e).toIdle else s.engine e) ∧
          ((s.engine e).busy = true → e ∉ t.startQ (e / 256) (pcOfEngine e)) ∧
          ((s.engine e).busy = true → (s.engine e).drain = .yielding → ∀ k, k < 4 → t.debtOf (4 * e + k) = 0))) ∧
      (pk.typ = 6 → acts (.status st src pk) ((pk.engines st).map (fun e => (s.engine e).word)) (fun t e => t.engine e = s.engine e))))

/-- MERGE_OPEN (05 R158, R161): an accepted packet opens the slot it names, empty, for as many partials as word 0 says; a slot that the
source does not hold or that is open is refused with code 0x08. MERGE_FOLD (05 R159, R160): with more partials to come, one arrived
partial enters the fold; the last writes the folded rows into the window at the output, closes the slot and adds 1 to its completion
count, 32 bits wide, in the window; no other byte changes. -/
def Obligations.MergeSlotsOpenFoldAndDeliver : Prop :=
  (∀ (st : StackId) (src : PacketSource) (pk : Packet) (s : State), pk.typ = 7 →
    (s.openRefusal st src pk = none → Completes (.mergeOpen st src pk) s (fun t =>
      (∃ x, t.slot st (fld (pk.payload.getD 0 0) 8 0) = some x ∧ x.src = src ∧ x.tag = pk.tag ∧
        x.expected = fld (pk.payload.getD 0 0) 15 9 ∧ x.folded = 0 ∧ x.arrived = [] ∧ x.acc = [] ∧ x.out = fld (pk.payload.getD 1 0) 31 0 ∧
        x.count = fld (pk.payload.getD 1 0) 63 32) ∧
      (∀ k, k ≠ fld (pk.payload.getD 0 0) 8 0 → t.slot st k = s.slot st k) ∧ t.out = s.out ++ [.status st src pk.tag 0 []] ∧
      t.quarters = s.quarters ∧ t.engines = s.engines ∧ t.mem = s.mem)) ∧
    (∀ code, s.openRefusal st src pk = some code → Completes (.mergeOpen st src pk) s (fun t =>
      t.stackTab = s.stackTab ∧ t.out = s.out ++ [.status st src pk.tag code []] ∧ t.quarters = s.quarters ∧ t.mem = s.mem))) ∧
  (∀ (st : StackId) (n : Fin 512) (s : State) (x : Slot) (i : Nat) (a : Nat × List (List W32)), s.slot st n = some x →
    x.next (s.part x.partition).applied.repro = some i → x.arrived[i]? = some a →
    (x.folded + 1 < x.expected → Completes (.mergeFold st n) s (fun t =>
      t.slot st n = some { x with arrived := x.arrived.eraseIdx i, folded := x.folded + 1, acc := foldPartial x.acc a.2 } ∧
      t.quarters = s.quarters ∧ t.engines = s.engines ∧ t.mem = s.mem)) ∧
    (x.expected ≤ x.folded + 1 → Completes (.mergeFold st n) s (fun t => t.slot st n = none ∧
      (∃ u : State, u = s.windowPut x.partition (st.val / 4) x.out (partialBytes (foldPartial x.acc a.2)) ∧
        (∀ k, k < 4 → Tab.get (fun _ => 0) (t.quarter (st.val / 4)).qbuf (u.windowAddr x.partition (st.val / 4) x.count + k) =
          (toBytes 4 (ofBytes (Tab.getList (fun _ => 0) (u.quarter (st.val / 4)).qbuf
            (u.windowAddr x.partition (st.val / 4) x.count) 4) + 1)).getD k 0) ∧
        (∀ k, k < u.windowAddr x.partition (st.val / 4) x.count ∨ u.windowAddr x.partition (st.val / 4) x.count + 4 ≤ k →
          Tab.get (fun _ => 0) (t.quarter (st.val / 4)).qbuf k = Tab.get (fun _ => 0) (u.quarter (st.val / 4)).qbuf k)) ∧
      (∀ k, k ≠ st.val / 4 → t.quarter k = s.quarter k) ∧ (∀ k, k ≠ n.val → t.slot st k = s.slot st k) ∧
      t.engines = s.engines ∧ t.mem = s.mem)))

/-- BLANK, SIEVE, LEVEL, PATTERN and DIEMAP (05 R144, R150, R151; 14 R367; 20 R472, R476) are firmware's: from a partition each is
refused with code 0x03 and changes nothing else. From firmware, BLANK leaves every line of its range blank and no other line changed;
LEVEL sets the stack's level (a level above 4 is refused with 0x01); PATTERN leaves every line of its channel blank; SIEVE checks every line of its range that holds anything
but the blank code; DIEMAP, once every row is copied and no run of the die is left, moves the die's channels to the spare die and acts on the packets held. -/
def Obligations.FirmwarePacketsAreFirmwares : Prop :=
  ∀ (st : StackId) (pk : Packet) (s : State) (first : BitVec 30) (lines : BitVec 31) (ch : Fin 32) (failing : List Nat),
    (pk.typ = 0x10 → pk.formOk 0 16 = true →
      (∀ p : PartId, Completes (.blank st (.partition p) pk first lines) s (fun t =>
        t.out = s.out ++ [.status st (.partition p) pk.tag 3 []] ∧ t.mem = s.mem ∧ t.stackTab = s.stackTab ∧ t.memory = s.memory)) ∧
      Completes (.blank st .firmware pk first lines) s (fun t => t.out = s.out ++ [.status st .firmware pk.tag 0 []] ∧
        (∀ a, Tab.get blankByte t.mem a =
          (if inRange st first.toNat lines.toNat (a / 72) = true then blankByte a else Tab.get blankByte s.mem a)) ∧
        t.stackTab = s.stackTab ∧ t.engines = s.engines ∧ t.memory = s.memory)) ∧
    (pk.typ = 0x11 → pk.formOk 0 16 = true →
      (∀ p : PartId, Completes (.sieve st (.partition p) pk first lines) s (fun t =>
        t.out = s.out ++ [.status st (.partition p) pk.tag 3 []] ∧ t.mem = s.mem ∧ t.memory = s.memory)) ∧
      Completes (.sieve st .firmware pk first lines) s (fun t =>
        t = ((s.sieveLines SieveSum.zero (s.writtenLines.filter (inRange st first.toNat lines.toNat))).1).answerPacket st .firmware
          pk.tag 0 [])) ∧
    (pk.typ = 0x12 → pk.formOk 1 1 = true → (pk.payload.getD 0 0).toNat ≤ 4 →
      (∀ p : PartId, Completes (.level st (.partition p) pk) s (fun t =>
        t.out = s.out ++ [.status st (.partition p) pk.tag 3 []] ∧ t.mem = s.mem ∧ t.stackTab = s.stackTab)) ∧
      Completes (.level st .firmware pk) s (fun t => t.out = s.out ++ [.status st .firmware pk.tag 0 []] ∧
        t.stack st = { s.stack st with level := (pk.payload.getD 0 0).toNat } ∧ (∀ k, k ≠ st.val → t.stack k = s.stack k) ∧
        t.mem = s.mem ∧ t.engines = s.engines)) ∧
    (pk.typ = 0x12 → pk.formOk 1 1 = true → 4 < (pk.payload.getD 0 0).toNat → ∀ src : PacketSource,
      Completes (.level st src pk) s (fun t => t.out = s.out ++ [.status st src pk.tag 1 []] ∧ t.stackTab = s.stackTab ∧ t.mem = s.mem)) ∧
    (pk.typ = 0x13 → pk.formOk 0 16 = true →
      (∀ p : PartId, Completes (.pattern st (.partition p) pk ch failing) s (fun t =>
        t.out = s.out ++ [.status st (.partition p) pk.tag 3 []] ∧ t.mem = s.mem ∧ t.spares = s.spares)) ∧
      Completes (.pattern st .firmware pk ch failing) s (fun t => t.out = s.out ++ [.status st .firmware pk.tag 0 []] ∧
        (∀ a, Tab.get blankByte t.mem a =
          (if plnStack (a / 72) = st.val ∧ plnChannel (a / 72) = ch.val then blankByte a else Tab.get blankByte s.mem a)) ∧
        t.engines = s.engines ∧ t.memory = s.memory)) ∧
    (pk.typ = 0x14 → pk.formOk 0 16 = true →
      (∀ p : PartId, Completes (.diemap st (.partition p) pk) s (fun t =>
        t.out = s.out ++ [.status st (.partition p) pk.tag 3 []] ∧ t.mem = s.mem ∧ t.stackTab = s.stackTab)) ∧
      ((s.stack st).spare.state = 1 → (s.stack st).spare.holding = true →
        (∀ e, e ∈ dieEngines st (s.stack st).spare.replaced → (s.engine e).busy = false) →
        Completes (.diemap st .firmware pk) s (fun t => ∃ u : State, t = (u.releaseHeld st).answerPacket st .firmware pk.tag 0 [] ∧
          Tab.get (fun d => d) (u.stack st).dieMap (s.stack st).spare.replaced = 16 ∧ (u.stack st).spare.state = 2 ∧
          (u.stack st).spare.holding = false ∧ (u.stack st).heldPackets = (s.stack st).heldPackets ∧
          (∀ k, k ≠ st.val → u.stack k = s.stack k) ∧ u.mem = s.mem ∧ u.engines = s.engines ∧ u.out = s.out)) ∧
      ((s.stack st).spare.state = 1 → (s.stack st).spare.holding = true → (s.stack st).heldPackets = [] →
        (∀ e, e ∈ dieEngines st (s.stack st).spare.replaced → (s.engine e).busy = false) →
        Completes (.diemap st .firmware pk) s (fun t => t.out = s.out ++ [.status st .firmware pk.tag 0 []] ∧
          Tab.get (fun d => d) (t.stack st).dieMap (s.stack st).spare.replaced = 16 ∧ (t.stack st).spare.state = 2 ∧
          (t.stack st).spare.holding = false ∧ (∀ k, k ≠ st.val → t.stack k = s.stack k) ∧ t.mem = s.mem ∧ t.engines = s.engines)))

/-! ### Bank engines (05 R152 to R156; 06 R162 to R187) -/

/-- PRELOAD_COMPLETE (06 R164 stage 4): the declared lines fill the buffer from u0, or the START fails with the line's fault, 0x02 or
0x05. PERMIT_GRANT (05 R152; 06 R164, R183): with a permit free, the head of the start queue leaves it and runs, with the slice counter
at 0; one that starts begins at its entry's first instruction with x1 to x15 zero and no stream, one that resumes keeps its state. -/
def Obligations.EnginesPreloadAndTakeTheirPermits : Prop :=
  (∀ (e : EngineId) (s u : State) (le : W64 × W64) (bs : List Byte) (bad : Option (Nat × Nat)), (s.engine e).mode = .queued →
    (s.engine e).preloaded = false → (s.engine e).failing = none → s.libEntry (s.engine e).index = some le →
    s.readLines e ((List.range (lePreLines le)).map (fun k =>
      2 ^ 30 * (e.val / 256) + (fld ((s.engine e).creg (lePreReg le)) 29 0 + k) % 2 ^ 30)) = (u, bs, bad) →
    Completes (.preloadComplete e) s (fun t => t.mem = u.mem ∧ t.memory = u.memory ∧ (∀ k, k ≠ e.val → t.engine k = u.engine k) ∧
      (bad = none → t.engine e = { (u.engine e).setBuf 0 bs with preloaded := true }) ∧
      (∀ code pln, bad = some (code, pln) → t.engine e = { u.engine e with failing := some (code, some pln) }))) ∧
  (∀ (pc : PcId) (s : State) (e : Nat) (q : List Nat) (le : W64 × W64), s.startQ (pc.val / 64) (pc.val % 64) = e :: q →
    (s.engine e).preloaded = true → (s.engine e).failing = none → s.permitsHeld e < s.permitsOf e →
    s.libEntry (s.engine e).index = some le →
    Completes (.permitGrant pc) s (fun t => t.startQ (pc.val / 64) (pc.val % 64) = q ∧ (t.engine e).mode = .running ∧
      (t.engine e).permit = true ∧ (t.engine e).slice = 0 ∧ (t.engine e).c = (s.engine e).c ∧ (t.engine e).buf = (s.engine e).buf ∧
      ((s.engine e).resume = false → (t.engine e).pc = leEntry le ∧ (∀ r, (t.engine e).xreg r = 0) ∧ (t.engine e).streams = []) ∧
      ((s.engine e).resume = true → (t.engine e).pc = (s.engine e).pc ∧ (t.engine e).x = (s.engine e).x ∧
        (t.engine e).streams = (s.engine e).streams ∧ (t.engine e).units = (s.engine e).units ∧
        (t.engine e).drain = (s.engine e).drain) ∧
      (∀ k, k ≠ e → t.engine k = s.engine k) ∧ t.mem = s.mem ∧ t.out = s.out))

/-- REFRESH_DUE and REFRESH (05 R155, R156): the debt of a bank rises by 1 to at most 8, and falls by 1 when a bank whose engine does not
run is refreshed; of a running engine it stays. FORCED_SUSPENSION (05 R156; 06 R184, R185): at debt 8 an engine pays the debt of its four
banks and counts one forced yield; with a SUSPEND pending it is suspended, or goes on as a RESUME makes it while the library changes or
its die is about to move (06 R191; 20 R472); with a surplus of permits it waits at the head of its start queue, and otherwise it goes on.
A drain for an END is kept. -/
def Obligations.RefreshDebtIsCountedAndPaid : Prop :=
  (∀ (b : BankId) (s : State),
    Completes (.refreshDue b) s (fun t => t.debtOf b = min 8 (s.debtOf b + 1) ∧ (∀ k, k ≠ b.val → t.debtOf k = s.debtOf k) ∧
      t.engines = s.engines ∧ t.mem = s.mem) ∧
    ((s.engine (b.val / 4)).mode ≠ .running →
      Completes (.refresh b) s (fun t => t.debtOf b = s.debtOf b - 1 ∧ (∀ k, k ≠ b.val → t.debtOf k = s.debtOf k) ∧
        t.engines = s.engines ∧ t.mem = s.mem)) ∧
    ((s.engine (b.val / 4)).mode = .running → Completes (.refresh b) s (fun t => t = s))) ∧
  (∀ (e : EngineId) (s : State), (s.engine e).mode = .running → s.debtFull e = true → (s.engine e).failing = none →
    let held := s.sec.loading = true ∨
      ((s.stack (e.val / 256)).spare.holding = true ∧ e.val % 256 / 16 = (s.stack (e.val / 256)).spare.replaced)
    let counted : Engine := { s.engine e with forced := min 65535 ((s.engine e).forced + 1) }
    Completes (.forcedSuspension e) s (fun t => (∀ k, k < 4 → t.debtOf (4 * e + k) = 0) ∧
      (∀ k, k / 4 ≠ e.val → t.debtOf k = s.debtOf k) ∧
      (t.engine e).forced = min 65535 ((s.engine e).forced + 1) ∧
      ((s.engine e).pendSuspend = true → ¬ held → t.engine e = counted.toSuspended) ∧
      ((s.engine e).pendSuspend = true → held → ∃ u : State, (∀ k, k ≠ e.val → u.engine k = s.engine k) ∧ u.sec = s.sec ∧
        u.memory = s.memory ∧ u.engine e = counted.toSuspended ∧ t = State.resumeOne (s.engine e).src u e) ∧
      ((s.engine e).pendSuspend = false → s.surplus e = false → t.engine e = counted) ∧
      ((s.engine e).pendSuspend = false → s.surplus e = true → (t.engine e).mode = .queued ∧ (t.engine e).permit = false ∧
        (t.engine e).resume = true ∧ (t.engine e).drain = (s.engine e).drain.kept ∧
        t.startQ (e.val / 256) (pcOfEngine e) = e.val :: s.startQ (e.val / 256) (pcOfEngine e)) ∧
      (t.engine e).pc = (s.engine e).pc ∧ (t.engine e).x = (s.engine e).x ∧ (t.engine e).acc = (s.engine e).acc ∧
      (t.engine e).units = (s.engine e).units ∧ (∀ k, k ≠ e.val → t.engine k = s.engine k) ∧ t.mem = s.mem))

/-- NOP, MOVI, MOVH, GETC, ADD, SUB, SHL, SHR, LOOP, BZ, BR, FMUL and FRSQ (06 R162, R172, R183): a legal instruction at the program
counter of an engine that can issue changes its x[d] alone, x0 stays zero, the program counter goes to the next instruction or by the
branch's displacement, modulo 65,536, and the slice counter gains the counted cycles; every other engine and every line are unchanged. A
GETC of a command register above 15 is a guard fault, code 0x02 (R171). Any of the thirty micro-instructions that stalls, for a full
queue, a register still to be written or an over-current hold, or whose slice runs out, leaves everything but the counted cycles and the
units' progress as it was (R173, R183). -/
def Obligations.EngineScalarInstructions : Prop :=
  ∀ (e : EngineId) (dt : Nat) (s : State) (w : W64),
    let x := s.engine e
    let leaves (i : Instr) (d : Nat) (v : W32) (by' : Int) : Prop :=
      Completes i s (fun t => OnlyEngine e s t ∧ t.mem = s.mem ∧ (t.engine e).xreg d = (if d = 0 then 0 else v) ∧
        (∀ r, r ≠ d → (t.engine e).xreg r = x.xreg r) ∧ (t.engine e).pc = (((x.pc : Int) + by') % 65536).toNat ∧
        (t.engine e).slice = x.slice + dt ∧ (t.engine e).mode = x.mode ∧ (t.engine e).c = x.c ∧ (t.engine e).buf = x.buf ∧
        (t.engine e).score = x.score ∧ (t.engine e).acc = x.acc ∧ (t.engine e).streams = x.streams ∧ (t.engine e).drain = x.drain ∧
        (t.engine e).failing = x.failing ∧ (t.engine e).permit = x.permit ∧ (t.engine e).units = (x.issuing dt w).units)
    (Issues s e dt w →
      (dOp w = 0x00 → leaves (.darvyNop e dt) 0 0 1) ∧
      (dOp w = 0x01 → leaves (.movi e dt) (dD w) (BitVec.ofNat 32 (dImm w)) 1) ∧
      (dOp w = 0x02 → leaves (.movh e dt) (dD w) (BitVec.ofNat 32 (65536 * dImm w + fld (x.xreg (dD w)) 15 0)) 1) ∧
      (dOp w = 0x03 → ∀ r, x.cr w = some r → leaves (.getc e dt) (dD w)
        (BitVec.ofNat 32 (bitsOf (x.creg r).toNat (bitsOf (dImm w) 0 6) (bitsOf (dImm w) 6 5 + 1))) 1) ∧
      (dOp w = 0x03 → x.cr w = none → Completes (.getc e dt) s (Fails e dt w 2 none s)) ∧
      (dOp w = 0x04 → leaves (.darvyAdd e dt) (dD w) (x.xreg (dA w) + x.xreg (dB w) + dSext w) 1) ∧
      (dOp w = 0x05 → leaves (.darvySub e dt) (dD w) (x.xreg (dA w) - x.xreg (dB w) + dSext w) 1) ∧
      (dOp w = 0x06 → leaves (.darvyShl e dt) (dD w) (x.xreg (dA w) <<< (dImm w % 32)) 1) ∧
      (dOp w = 0x07 → leaves (.darvyShr e dt) (dD w) (x.xreg (dA w) >>> (dImm w % 32)) 1) ∧
      (dOp w = 0x08 → dA w ≠ 0 → leaves (.loop e dt) (dA w) (x.xreg (dA w) - 1)
        (if x.xreg (dA w) - 1 ≠ 0 then signed 16 (dImm w) else 1)) ∧
      (dOp w = 0x08 → dA w = 0 → leaves (.loop e dt) 0 0 1) ∧
      (dOp w = 0x09 → leaves (.bz e dt) 0 0 (if x.xreg (dA w) = 0 then signed 16 (dImm w) else 1)) ∧
      (dOp w = 0x0A → leaves (.darvyBr e dt) 0 0 (signed 16 (dImm w))) ∧
      (dOp w = 0x0D → leaves (.darvyFmul e dt) (dD w) (fmul (x.xreg (dA w)) (x.xreg (dB w))) 1) ∧
      (dOp w = 0x0E → leaves (.frsq e dt) (dD w) (rsqrt32 (x.xreg (dA w))) 1)) ∧
    (s.canIssue e = true → s.fetchAt e = .inl w →
      (x.spend dt).stalls w = true ∨ s.streamHeld e (dOp w) = true ∨ 65536 ≤ x.slice + dt →
      ∀ i : Nat × Instr, i ∈ ([(0x00, .darvyNop e dt), (0x01, .movi e dt), (0x02, .movh e dt), (0x03, .getc e dt), (0x04, .darvyAdd e dt),
        (0x05, .darvySub e dt), (0x06, .darvyShl e dt), (0x07, .darvyShr e dt), (0x08, .loop e dt), (0x09, .bz e dt),
        (0x0A, .darvyBr e dt), (0x0B, .yield e dt), (0x0C, .end_ e dt), (0x0D, .darvyFmul e dt), (0x0E, .frsq e dt), (0x10, .qset e dt),
        (0x11, .scan e dt), (0x12, .dot e dt), (0x13, .expm e dt), (0x14, .accv e dt), (0x15, .ladd e dt), (0x16, .lmul e dt),
        (0x17, .lssq e dt), (0x18, .lcvt e dt), (0x19, .rope e dt), (0x1A, .append e dt), (0x1C, .fetch e dt), (0x1D, .stl e dt),
        (0x1E, .wrl e dt), (0x1F, .emit e dt)] : List (Nat × Instr)) → dOp w = i.1 →
        Completes i.2 s (fun t => OnlyEngine e s t ∧
          t.engine e = { x with slice := x.slice + dt, units := (x.spend dt).units }))

/-- YIELD and END (06 R165, R182): a YIELD that does not act is a NOP; one that acts, and an END, drain once no beat is left unconsumed,
and are a stream fault, code 0x04, otherwise. YIELD_ACT: once every queued instruction has completed, the four banks' debt is paid, a
pending SUSPEND suspends the engine with its state in place (or it goes on as a RESUME makes it while the library changes or its die is
about to move), a surplus of permits withdraws it to the head of its start queue, and otherwise a new slice begins. RUN_END: the engine is
idle, the permit released, and the status packet with the START's tag goes to its source. While an instruction is queued, or once the
slice has run out, cycles pass and nothing else happens.
SLICE_OVERRUN (06 R183): a slice past 1,200 counted cycles is counted once, saturating. SLICE_TIMEOUT: a slice of 65,536 is fault
0x08. ENGINE_REST_END (17 R421): the rest ends. BANK_ENGINE_FAULT (06 R187): the permit is released, the engine takes state 4 with the
fault code, the START's source gets a status packet with the code, the program counter and the failing line, and the four banks' debt is
paid; a failed seal in a parcel stands as a cause of abandonment, and any other fault of a partition's run waits for JOB_FAULT. The fault
is the one found, or code 0x01 or 0x06 of the next fetch (R186). -/
def Obligations.EnginesYieldEndOverrunAndFault : Prop :=
  (
  ∀ (e : EngineId) (dt : Nat) (s : State) (w : W64),
    let x := s.engine e
    let next : Nat := (((x.pc : Int) + 1) % 65536).toNat
    let z := x.spend dt
    let acts := (x.xreg (dA w)).toNat ≤ x.slice + dt ∨ x.pendSuspend = true ∨ s.surplus e = true
    (Issues s e dt w →
      (dOp w = 0x0B → ¬ acts → Completes (.yield e dt) s (fun t => OnlyEngine e s t ∧ t.engine e = { z with pc := next })) ∧
      (dOp w = 0x0B → acts → x.streams = [] →
        Completes (.yield e dt) s (fun t => OnlyEngine e s t ∧ t.engine e = { z with pc := next, drain := .yielding })) ∧
      (dOp w = 0x0B → acts → x.streams ≠ [] → Completes (.yield e dt) s (Fails e dt w 4 none s)) ∧
      (dOp w = 0x0C → x.streams = [] →
        Completes (.end_ e dt) s (fun t => OnlyEngine e s t ∧ t.engine e = { z with pc := next, drain := .ending })) ∧
      (dOp w = 0x0C → x.streams ≠ [] → Completes (.end_ e dt) s (Fails e dt w 4 none s))) ∧
    (x.mode = .running → x.failing = none → x.slice < 65536 → x.slice + dt < 65536 → z.drained = true →
      (x.drain = .yielding →
        let held := s.sec.loading = true ∨
          ((s.stack (e.val / 256)).spare.holding = true ∧ e.val % 256 / 16 = (s.stack (e.val / 256)).spare.replaced)
        Completes (.yieldAct e dt) s (fun t => (∀ k, k < 4 → t.debtOf (4 * e + k) = 0) ∧
          (x.pendSuspend = true → ¬ held → t.engine e = z.toSuspended) ∧
          (x.pendSuspend = true → held → ∃ u : State, (∀ k, k ≠ e.val → u.engine k = s.engine k) ∧ u.sec = s.sec ∧
            u.memory = s.memory ∧ u.engine e = z.toSuspended ∧ t = State.resumeOne x.src u e) ∧
          (x.pendSuspend = false → s.surplus e = true → (t.engine e).mode = .queued ∧ (t.engine e).permit = false ∧
            (t.engine e).resume = true ∧ (t.engine e).pc = x.pc ∧ (t.engine e).x = x.x ∧
            t.startQ (e.val / 256) (pcOfEngine e) = e.val :: s.startQ (e.val / 256) (pcOfEngine e)) ∧
          (x.pendSuspend = false → s.surplus e = false → t.engine e =
            { z.endSlice with drain := .none, slice := 0, overCounted := false, rest := s.stackRests (e.val / 256) }) ∧
          (∀ k, k ≠ e.val → t.engine k = s.engine k) ∧ t.mem = s.mem ∧ t.out = s.out)) ∧
      (x.drain = .ending →
        Completes (.runEnd e dt) s (fun t => t.engine e = z.toIdle ∧ (t.engine e).permit = false ∧ (t.engine e).mode = .idle ∧
          t.out = s.out ++ [.status (e.val / 256) x.src x.tag 0 []] ∧ (t.icLine (e.val / 256)).pending = true ∧
          (∀ k, k < 4 → t.debtOf (4 * e + k) = 0) ∧ (∀ k, k ≠ e.val → t.engine k = s.engine k) ∧ t.mem = s.mem))) ∧
    (x.mode = .running → x.failing = none → x.slice < 65536 → 65536 ≤ x.slice + dt ∨ z.drained = false →
      ∀ i : Drain × Instr, i ∈ [(Drain.yielding, Instr.yieldAct e dt), (Drain.ending, Instr.runEnd e dt)] → x.drain = i.1 →
        Completes i.2 s (fun t => OnlyEngine e s t ∧ t.engine e = z))) ∧
  (
  ∀ (e : EngineId) (s : State),
    let x := s.engine e
    (x.mode = .running → 1200 < x.slice → x.overCounted = false →
      Completes (.sliceOverrun e) s (fun t => OnlyEngine e s t ∧
        t.engine e = { x with overruns := min 65535 (x.overruns + 1), overCounted := true })) ∧
    (x.mode = .running → 65536 ≤ x.slice → x.failing = none →
      Completes (.sliceTimeout e) s (fun t => OnlyEngine e s t ∧ t.engine e = { x with failing := some (8, none) })) ∧
    (x.rest = true → Completes (.engineRestEnd e) s (fun t => OnlyEngine e s t ∧ t.engine e = { x with rest := false })) ∧
    (∀ code line, x.failing = some (code, line) ∨
        (x.failing = none ∧ s.canIssue e = true ∧ s.fetchAt e = .inr code ∧ line = none) →
      Completes (.bankEngineFault e) s (fun t => (t.engine e).mode = .faulted ∧ (t.engine e).fault = code ∧
        (t.engine e).permit = false ∧ (t.engine e).pc = x.pc ∧
        t.out = s.out ++ [.status (e.val / 256) x.src x.tag code [BitVec.ofNat 64 x.pc, BitVec.ofNat 64 (line.getD 0)]] ∧
        (∀ k, k < 4 → t.debtOf (4 * e + k) = 0) ∧ (∀ k, k ≠ e.val → t.engine k = s.engine k) ∧ t.mem = s.mem ∧
        (∀ p, x.src = .partition p → code ≠ 5 → (t.part p).faultDue = true) ∧
        (∀ p pln, x.src = .partition p → code = 5 → line = some pln →
          (∀ i, s.parcelAt p pln = some i → .failedSeal i ∈ (t.round p).causes) ∧
          (s.parcelAt p pln = none → (t.part p).faultDue = true)))))

/-- QSET, SCAN, DOT, EXPM, ACCV and EMIT (06 R175 to R180). QSET loads a query table that passes R177: the count goes to x[d], maxima to
minus infinity, sums and accumulators to 0 and factors to 1; another table is a buffer fault, code 0x03. SCAN queues its stream. DOT and
ACCV consume their beats in order, or take the fault that they meet; DOT writes the scores of its half, EXPM turns them into
probabilities, and ACCV adds the values into the accumulators. EMIT sends the named partials of an engine with no unconsumed EXPM result;
their slots hold them and nothing of the engine's attention state changes. With an unconsumed result it is a stream fault, code 0x04; a
partial that its slot does not take is a merge fault, code 0x07, or, for a slot that is not open, may stall (log 24).
LADD, LMUL, LSSQ, LCVT and ROPE (06 R172, R181) on unit ranges that stay within the buffer: elements at u (and v) form the result in
the buffer at u, at v for LCVT, or in x[d] for LSSQ; a range beyond u255 is a buffer fault, code 0x03, with nothing written. APPEND,
FETCH, STL and WRL (06 R168, R172, R176): lines of a command register's range enter the buffer, or buffer lines are written to it. A
buffer range beyond u255 is a buffer fault, a register above 15 a guard fault, code 0x02, and a refused or bad line ends the instruction
with that line's fault. -/
def Obligations.EngineVectorInstructions : Prop :=
  (
  ∀ (e : EngineId) (dt : Nat) (s : State) (w : W64), Issues s e dt w →
    let z := (s.engine e).issuing dt w
    let s1 := s.issuing e dt w
    let next : Nat := (((z.pc : Int) + 1) % 65536).toNat
    let fails (i : Instr) (code : Nat) : Prop := Completes i s (Fails e dt w code none s)
    let meets (i : Instr) (u : State) (f : Nat × Option Nat) : Prop := Completes i s (fun t => t.mem = u.mem ∧ t.memory = u.memory ∧
      (∀ k, k ≠ e.val → t.engine k = u.engine k) ∧ t.engine e = { u.engine e with failing := some f })
    (dOp w = 0x10 → ∀ l, queryTable (z.bufF32 (dU w) 32) = some l → dU w + 1 + l.length ≤ 256 →
      Completes (.qset e dt) s (fun t => OnlyEngine e s t ∧ t.mem = s.mem ∧ (t.engine e).table = l ∧ (t.engine e).tableUnit = dU w ∧
        l.length ≤ 32 ∧ (t.engine e).xreg (dD w) = (if dD w = 0 then 0 else BitVec.ofNat 32 l.length) ∧
        (∀ r, r ≠ dD w → (t.engine e).xreg r = z.xreg r) ∧
        (∀ i, i < 32 → (t.engine e).accAt i 0 = 0xFF800000#32 ∧ ∀ k, 1 ≤ k → k < 130 → (t.engine e).accAt i k = 0) ∧
        (∀ h i, (t.engine e).factorAt h i = 0x3F800000#32) ∧ (t.engine e).buf = z.buf ∧ (t.engine e).c = z.c ∧
        (t.engine e).score = z.score ∧ (t.engine e).streams = z.streams ∧ (t.engine e).units = z.units ∧
        (t.engine e).slice = z.slice ∧ (t.engine e).pc = next)) ∧
    (dOp w = 0x10 → (∀ l, queryTable (z.bufF32 (dU w) 32) = some l → 256 < dU w + 1 + l.length) → fails (.qset e dt) 3) ∧
    (dOp w = 0x11 → ∀ r, z.cr w = some r →
      Completes (.scan e dt) s (fun t => OnlyEngine e s t ∧ t.mem = s.mem ∧
        t.engine e = { z with pc := next, streams := z.streams ++ [{ reg := r, line := (z.xreg (dA w)).toNat, left := dImm w }] })) ∧
    (dOp w = 0x11 → z.cr w = none → fails (.scan e dt) 2) ∧
    (dOp w = 0x12 → (∀ u ks, s1.beats e (dBeats w) = (u, .inl ks) →
        Completes (.dot e dt) s (fun t => t.mem = u.mem ∧ t.memory = u.memory ∧ (∀ k, k ≠ e.val → t.engine k = u.engine k) ∧
          let y := ks.zipIdx.foldl (fun y k => y.setScores (dHalf w) k.2 ((List.range z.n).map (fun i =>
            score (e4m3s (z.bufBytes (z.tableUnit + 1 + i) 128)) (e4m3s k.1)))) (u.engine e)
          t.engine e = { y with
            pc := (((y.pc : Int) + 1) % 65536).toNat,
            block := Tab.set (fun _ => (0, 0, 0)) y.block (dHalf w) (dBeats w, z.xreg (dA w), z.xreg (dB w)) })) ∧
      (∀ u f, s1.beats e (dBeats w) = (u, .inr f) → meets (.dot e dt) u f)) ∧
    (dOp w = 0x13 →
      Completes (.expm e dt) s (fun t => OnlyEngine e s t ∧ t.mem = s.mem ∧
        t.engine e = { z.expm (dHalf w) (z.xreg (dA w)) with pc := next })) ∧
    (dOp w = 0x14 → (∀ u vs, s1.beats e (dBeats w) = (u, .inl vs) →
        Completes (.accv e dt) s (fun t => t.mem = u.mem ∧ t.memory = u.memory ∧ (∀ k, k ≠ e.val → t.engine k = u.engine k) ∧
          t.engine e = ((u.engine e).accv (dHalf w) ((u.engine e).xreg (dA w)) (vs.map e4m3s)).jump 1)) ∧
      (∀ u f, s1.beats e (dBeats w) = (u, .inr f) → meets (.accv e dt) u f)) ∧
    (dOp w = 0x1F → z.fresh ≠ 0 → fails (.emit e dt) 4) ∧
    (dOp w = 0x1F → z.fresh = 0 → z.cr w = none → fails (.emit e dt) 2) ∧
    (dOp w = 0x1F → z.fresh = 0 → ∀ r, z.cr w = some r →
      (∀ u, s1.emitAllOf e (z.creg r) (setBits 4 (z.xreg (dA w)).toNat) = .taken u →
        Completes (.emit e dt) s (fun t => t.stackTab = u.stackTab ∧ t.mem = s.mem ∧ t.engine e = { z with pc := next } ∧
          ∀ k, k ≠ e.val → t.engine k = s.engine k)) ∧
      (∀ u, s1.emitAllOf e (z.creg r) (setBits 4 (z.xreg (dA w)).toNat) = .fault u →
        Completes (.emit e dt) s (fun t => t.stackTab = u.stackTab ∧ t.out = u.out ∧ t.mem = s.mem ∧
          t.engine e = { z with failing := some (7, none) } ∧ ∀ k, k ≠ e.val → t.engine k = s.engine k)) ∧
      (s1.emitAllOf e (z.creg r) (setBits 4 (z.xreg (dA w)).toNat) = .stalls →
        Completes (.emit e dt) s (fun t => t.stackTab = s.stackTab ∧ t.mem = s.mem ∧ t.engine e = z.leave 2 ∧
          ∀ k, k ≠ e.val → t.engine k = s.engine k)))) ∧
  (
  ∀ (e : EngineId) (dt : Nat) (s : State) (w : W64), Issues s e dt w →
    let z := (s.engine e).issuing dt w
    let n := (z.xreg (dB w)).toNat
    let s1 := s.issuing e dt w
    let next : Nat := (((z.pc : Int) + 1) % 65536).toNat
    let lane (i : Instr) (op v : Nat) (y : Engine) : Prop :=
      dOp w = op →
      (dU w + bufUnits (4 * n) ≤ 256 → dImm w % 256 + bufUnits v ≤ 256 →
        Completes i s (fun t => OnlyEngine e s t ∧ t.mem = s.mem ∧ t.engine e = { y with pc := next })) ∧
      (256 < dU w + bufUnits (4 * n) ∨ 256 < dImm w % 256 + bufUnits v → Completes i s (Fails e dt w 3 none s))
    let line (i : Instr) (op units : Nat) (acts : Nat → Prop) : Prop :=
      dOp w = op →
      (256 < dU w + units → Completes i s (Fails e dt w 3 none s)) ∧
      (dU w + units ≤ 256 → z.cr w = none → Completes i s (Fails e dt w 2 none s)) ∧
      (dU w + units ≤ 256 → ∀ r, z.cr w = some r → acts r)
    let stores (i : Instr) (r off : Nat) (near : Bool) (ls : List (List Byte)) : Prop :=
      ∀ u f, s1.storeLines e r off near ls = (u, f) →
        Completes i s (fun t => t.mem = u.mem ∧ (∀ k, k ≠ e.val → t.engine k = s.engine k) ∧
          (f = none → t.engine e = { z with pc := next }) ∧ (∀ c, f = some c → t.engine e = { z with failing := some c }))
    lane (.ladd e dt) 0x15 ((if dFlag w then 2 else 4) * n) (z.setF32 (dU w)
      (List.zipWith (fun a b => round32 (addEx (ex32 a) b)) (z.bufF32 (dU w) n) (z.bufV (dFlag w) (dV w) n))) ∧
    lane (.lmul e dt) 0x16 ((if dFlag w then 2 else 4) * n) (z.setF32 (dU w)
      (List.zipWith (fun a b => round32 (mulEx (mulEx (ex32 a) b) (ex32 (z.xreg (dA w))))) (z.bufF32 (dU w) n)
        (z.bufV (dFlag w) (dV w) n))) ∧
    lane (.lssq e dt) 0x17 0 (z.setX (dD w)
      ((z.bufF32 (dU w) n).foldl (fun a b => round32 (addEx (ex32 a) (mulEx (ex32 b) (ex32 b)))) 0)) ∧
    lane (.lcvt e dt) 0x18 (2 * n) (z.setBuf (dV w) ((z.bufF32 (dU w) n).flatMap (fun v => toBytes 2 (narrow .bf16 (ex32 v))))) ∧
    lane (.rope e dt) 0x19 (4 * (n / 2)) (z.setF32 (dU w)
      (ropeOut (z.bufF32 (dU w) n) (z.bufF32 (dV w) (n / 2)) (z.xreg (dA w)) (dFlag w))) ∧
    line (.append e dt) 0x1A 4 (fun r => stores (.append e dt) r ((if dImm w = 0 then 0 else 512) + 2 * (z.xreg (dA w)).toNat) true
      (chunks 64 2 ((z.bufF32 (dU w) 128).map (fun v => BitVec.ofNat 8 (narrow .e4m3 (mulEx (ex32 v) (ex32 (z.xreg (dB w))))))))) ∧
    line (.fetch e dt) 0x1C (bufUnits (64 * dImm w)) (fun r =>
      (∀ u bs, s1.fetchLines e r (z.xreg (dA w)).toNat false (dImm w) = (u, .inl bs) →
        Completes (.fetch e dt) s (fun t => t.mem = u.mem ∧ t.engine e = ((u.engine e).setBuf (dU w) bs).jump 1 ∧
          (∀ k, k ≠ e.val → t.engine k = u.engine k))) ∧
      (∀ u f, s1.fetchLines e r (z.xreg (dA w)).toNat false (dImm w) = (u, .inr f) →
        Completes (.fetch e dt) s (fun t => t.mem = u.mem ∧ t.engine e = { u.engine e with failing := some f } ∧
          (∀ k, k ≠ e.val → t.engine k = u.engine k)))) ∧
    line (.stl e dt) 0x1D (bufUnits (64 * dImm w)) (fun r => stores (.stl e dt) r (z.xreg (dA w)).toNat false
      (chunks 64 (dImm w) (z.bufBytes (dU w) (64 * dImm w)))) ∧
    line (.wrl e dt) 0x1E (bufUnits (64 * dImm w)) (fun r => stores (.wrl e dt) r (z.xreg (dA w)).toNat true
      (chunks 64 (dImm w) (z.bufBytes (dU w) (64 * dImm w)))))

/-! ### The round (07, 08, 09, 19) -/

/-- ROUTE_SHEET_BUILD (07 R201, 08 R233, R236): with the budgets and weights of the registers taken, when the composed items find their
parcels the next sheet is the one written from them; when a home stack is full, no sheet is written and the build waits for that stack
alone; with no item, nothing is built and the budgets stand as they were. PARCEL_ALLOCATION_RESUME (07 R201): once the stack has a free
slot, the build runs as if it had not waited. Both outside a replay, whose credit is fed (log 23); and where a line of firmware's tables is
bad, the read of it may take the build's place (log 70). LAYER_PACKETS_SEND (08 R240): in its turn, the RAPP packets of a layer and
stack leave, and once they have left, or where there are none, the layer's other packets, in order, once. -/
def Obligations.SheetsAreBuiltAndTheirPacketsSent : Prop :=
  ∀ (p : PartId) (s : State),
    (s.mayBuild p = true → s.replaying p = false → (s.round p).allocWait = none →
      (∀ u, s.fwRead p = (u, true) → Completes (.routeSheetBuild p) s (fun t => t = u)) ∧
      (∀ u, s.fwRead p = (u, false) → ∀ m, (s.round p).model = some m →
        let v := if s.journaled p then u.refillBudgets p else u
        let t0 := ((v.takeBudgets p).promote p).pauseResume p
        let c := t0.composeBe p (t0.composeLc p)
        (c.items ≠ [] → ∀ w, t0.writeSheet p m c = .inl w → Completes (.routeSheetBuild p) s (fun t => t = w)) ∧
        (c.items ≠ [] → ∀ st, t0.writeSheet p m c = .inr st → Completes (.routeSheetBuild p) s (fun t =>
          t.round p = { v.round p with allocWait := some st } ∧ OnlyPart p v t)) ∧
        (c.items = [] → (t0.round p).excluded = [] → Completes (.routeSheetBuild p) s (fun t =>
          (t.round p).sheet = none ∧ (t.round p).budgets = (s.round p).budgets ∧ (t.round p).beWeights = (s.round p).beWeights ∧
          t.engines = s.engines ∧ t.mem = s.mem)))) ∧
    (s.mayBuild p = true → s.replaying p = false → ∀ st, (s.round p).allocWait = some st → 0 < s.freeSlots p st →
      let s0 := s.modRound p (fun r => { r with allocWait := none })
      (∀ u, s0.fwRead p = (u, true) → Completes (.parcelAllocationResume p) s (fun t => t = u)) ∧
      (∀ u, s0.fwRead p = (u, false) → Completes (.parcelAllocationResume p) s (fun t => t = u.composeSheet p))) ∧
    (∀ (layer : Nat) (st : StackId) sh m, (s.round p).sheet = some sh → (s.round p).model = some m → sh.released = true →
      s.layerTurn p m sh layer st = true → (s.round p).causes = [] →
      let first := s.rappPackets p m sh layer st
      (first ≠ [] → (st.val, layer) ∉ sh.rapp → Completes (.layerPacketsSend p layer st) s (fun t =>
        t.out = s.out ++ first.map (fun k => .packet st.val k) ∧ (t.round p).owes st = (s.round p).owes st + first.length ∧
        (t.round p).sheet = some { sh with rapp := sh.rapp ++ [(st.val, layer)] } ∧ t.engines = s.engines ∧ t.mem = s.mem ∧
        t.stackTab = s.stackTab ∧ ∀ k, k ≠ p.val → t.part k = s.part k)) ∧
      (first = [] ∨ (st.val, layer) ∈ sh.rapp →
        (∀ ps, s.layerPackets p m sh.items layer st = some ps → Completes (.layerPacketsSend p layer st) s (fun t =>
          t.out = s.out ++ ps.map (fun k => .packet st.val k) ∧ (t.round p).owes st = (s.round p).owes st + ps.length ∧
          (t.round p).sheet = some { sh with sent := sh.sent ++ [(st.val, layer)] } ∧ t.engines = s.engines ∧ t.mem = s.mem ∧
          (∀ k, k ≠ st.val → t.stack k = s.stack k) ∧ ∀ k, k ≠ p.val → t.part k = s.part k)) ∧
        (s.layerPackets p m sh.items layer st = none → Completes (.layerPacketsSend p layer st) s (fun t => t = s))))

/-- SUBMIT (08 R229; 11 R302, R309): in its ring's turn, a descriptor that passes every check is admitted and, unless a replay feeds it
(log 23), its prompt asked for in reads of at most 512 bytes; while the journal has no room for it, it waits; one that fails is answered
with the status of the first failing check and admits nothing; one of no known type is answered with 0x15. PROMPT_FETCH_COMPLETE (08
R229): a prompt of the right length whose tokens lie in the vocabulary enters the round at the lowest free index; with none free it is
answered with 0x17, with another token with 0x16, and a failed or short read with 0x18. -/
def Obligations.RequestsAreAdmittedAndEnterTheRound : Prop :=
  (∀ (fn : FnId) (r : RingId) (s : State) (d : Line),
    s.requestHead fn r (fun t => t == 1 || t == 0 || decide (4 < t)) = some d →
    let p := fn.val - 1
    let s1 := (s.popRequest fn r).journalTime p 3
    (lineNat d 0 1 = 1 → s.submitRefusal fn d = none → s.journalRoom p (s.promptEntries fn d) = true →
      Completes (.submit fn r) s (fun t =>
        (t.round p).admitting = (s.round p).admitting ++ [{ fn := fn, ring := r, desc := d, admittedAt := s.roundNow p }] ∧
        t.out = s1.out ++ (if s.replaying p then [] else hostReads fn (4 * qLen d) (qAddr d) (4 * qLen d)) ∧
        (t.round p).ringTurn = (r.val + 1) % 16 ∧ (t.round p).entries = (s.round p).entries ∧ t.mem = s.mem ∧ t.regs = s.regs)) ∧
    (lineNat d 0 1 = 1 → s.submitRefusal fn d = none → s.journalRoom p (s.promptEntries fn d) = false →
      Completes (.submit fn r) s (fun t => t = s)) ∧
    (∀ st, lineNat d 0 1 = 1 → s.submitRefusal fn d = some st → Completes (.submit fn r) s (fun t =>
      (t.round p).admitting = (s.round p).admitting ∧ (t.round p).entries = (s.round p).entries ∧
      t = s1.answer p fn (if s.requestClass fn (qComplRing d) then qComplRing d else s.complRing fn r)
        1 st (qTenant d) (qRequest d) (s.roundNow p).toNat)) ∧
    (lineNat d 0 1 ≠ 1 → Completes (.submit fn r) s (fun t =>
      (t.round p).admitting = (s.round p).admitting ∧ (t.round p).entries = (s.round p).entries ∧
      t = s1.answer p fn (s.complRing fn r) (lineNat d 0 1) 0x15 (qTenant d) (qRequest d) (s.roundNow p).toNat))) ∧
  (∀ (p : PartId) (req : W32) (s : State) (a : Admission),
    (s.round p).admitting.find? (fun a => lineNat a.desc 4 4 == req.toNat) = some a →
    let s1 := s.modRound p (fun r => { r with admitting := r.admitting.filter (fun b => lineNat b.desc 4 4 != req.toNat) })
    let refused (tokens : Option (List W32)) (st : Nat) : Prop := Completes (.promptFetchComplete p req tokens) s (fun t =>
      (t.round p).entries = (s.round p).entries ∧ (∀ b, b ∈ (t.round p).admitting → lineNat b.desc 4 4 ≠ req.toNat) ∧ t.mem = s.mem ∧
      ∃ u : State, (u.round p).entries = (s.round p).entries ∧
        t = u.answer p a.fn (qComplRing a.desc) 1 st (qTenant a.desc) (qRequest a.desc) a.admittedAt.toNat)
    (∀ m toks, (s.round p).model = some m → toks.length = qLen a.desc →
      ((∀ x, x ∈ toks → x.toNat < m.vocab) →
        (∀ i, (List.range (s.part p).applied.roundEntries).find? (fun i => (s.seqAt p i).isNone) = some i →
          Completes (.promptFetchComplete p req (some toks)) s (fun t => (∃ e, t.seqAt p i = some e ∧ e.requestId = qRequest a.desc ∧
            e.tenant = qTenant a.desc ∧ e.promptLen = qLen a.desc ∧ e.limit = qLen a.desc + qMax a.desc ∧ e.log.tokens = toks ∧
            e.flags.be = qBe a.desc ∧ e.generated = 0) ∧ (∀ k, k ≠ i → t.seqAt p k = s.seqAt p k) ∧
            (t.round p).admitting = (s1.round p).admitting ∧ t.mem = s.mem)) ∧
        ((List.range (s.part p).applied.roundEntries).find? (fun i => (s.seqAt p i).isNone) = none → refused (some toks) 0x17)) ∧
      ((∃ x, x ∈ toks ∧ m.vocab ≤ x.toNat) → refused (some toks) 0x16)) ∧
    (∀ toks : List W32, toks.length ≠ qLen a.desc → refused (some toks) 0x18) ∧
    refused none 0x18)

/-- CANCEL (08 R251), PREFIX and HINT (08 R228, 07 R213, R215, R219) take their descriptor from the request ring whose turn it is and
answer it. CANCEL marks the live request, once; PREFIX op 1 sets the sharing list of an entry of the tenant; op 2 evicts a ready entry that
nothing holds, and is answered 0x07 for another; a HINT adds a spilled sequence that is off the sheet to those to fetch, and is ignored
for another. A request or an entry that is not there is answered 0x06, and a bad form 0x15. None of them changes memory. -/
def Obligations.RequestsAreCancelledAndPrefixesManaged : Prop :=
  ∀ (fn : FnId) (r : RingId) (s : State) (d : Line),
    let p := fn.val - 1
    let keeps (t : State) : Prop := t.mem = s.mem ∧ t.regs = s.regs ∧ t.clusters = s.clusters ∧ t.engines = s.engines ∧
      (∀ k, k ≠ p → t.part k = s.part k)
    let answers (i : Instr) (st : Nat) : Prop := Completes i s (fun t => t = s.acted fn r d st ∧ keeps t)
    let plain := lineNat d 1 1 = 0 ∧ lineNat d 8 56 = 0
    (s.requestHead fn r (· == 2) = some d →
      (plain → ∀ i e, s.seqOf p (qRequest d) = some (i, e) →
        (e.flags.asked = false → Completes (.cancel fn r) s (fun t =>
          t.seqAt p i = some { e with flags := { e.flags with asked := true } } ∧ (∀ k, k ≠ i → t.seqAt p k = s.seqAt p k) ∧
          (t.round p).ledger = (s.round p).ledger ∧ keeps t ∧
          t = (s.setSeq p i (some { e with flags := { e.flags with asked := true } })).acted fn r d 0x05)) ∧
        (e.flags.asked = true → answers (.cancel fn r) 0x06)) ∧
      (plain → s.seqOf p (qRequest d) = none → answers (.cancel fn r) 0x06) ∧
      (¬ plain → answers (.cancel fn r) 0x15)) ∧
    (s.requestHead fn r (· == 3) = some d →
      (∀ st, s.prefixCheck fn d = .inl st →
        (lineNat d 12 1 ≠ 2 → answers (.prefixSetList fn r) st) ∧ (lineNat d 12 1 = 2 → answers (.prefixEvict fn r) st)) ∧
      (∀ k e, s.prefixCheck fn d = .inr (k, e) → s.prefixAt p k = some e →
        (lineNat d 12 1 ≠ 2 → Completes (.prefixSetList fn r) s (fun t =>
          let e' : Prefix := { e with share := some ((List.range 16).map (fun j => lineNat d (16 + 2 * j) 2)) }
          t.prefixAt p k = some e' ∧ (∀ j, j ≠ k → t.prefixAt p j = s.prefixAt p j) ∧
          (t.round p).ledger = (s.round p).ledger ∧ keeps t ∧
          ∃ u : State, t = u.acted fn r d 0x05 ∧ u.prefixAt p k = some e')) ∧
        (lineNat d 12 1 = 2 → e.refs = 0 → e.ready = true → Completes (.prefixEvict fn r) s (fun t => t.prefixAt p k = none ∧
          (∀ j, j ≠ k → t.prefixAt p j = s.prefixAt p j) ∧ (t.round p).entries = (s.round p).entries ∧ keeps t ∧
          ∃ u : State, t = u.acted fn r d 0x05 ∧ u.prefixAt p k = none)) ∧
        (lineNat d 12 1 = 2 → e.refs ≠ 0 ∨ e.ready = false → answers (.prefixEvict fn r) 0x07))) ∧
    (s.requestHead fn r (· == 4) = some d →
      (plain → ∀ i e, s.seqOf p (qRequest d) = some (i, e) →
        (s.onSheet p i = false → s.hasParcel p e (fun x => decide (x = .spilled)) = true → i ∉ (s.round p).hinted →
          Completes (.hint fn r) s (fun t => (t.round p).hinted = (s.round p).hinted ++ [i] ∧ (t.round p).entries = (s.round p).entries ∧
            (t.round p).ledger = (s.round p).ledger ∧ keeps t ∧
            ∃ u : State, t = u.acted fn r d 0x05 ∧ (u.round p).hinted = (s.round p).hinted ++ [i])) ∧
        (s.onSheet p i = true ∨ s.hasParcel p e (fun x => decide (x = .spilled)) = false ∨ i ∈ (s.round p).hinted →
          answers (.hint fn r) 0x05)) ∧
      (plain → s.seqOf p (qRequest d) = none → answers (.hint fn r) 0x06) ∧
      (¬ plain → answers (.hint fn r) 0x15))

/-- BUDGET_REFILL (08 R233, R234): for every millisecond since the last refill each of the 64 buckets gains its rate, up to its depth, as
the last built sheet took both from the registers. In a partition that is journaled or replays, builds refill instead (19 R456), and
the command changes nothing.
BEST_EFFORT_CREDIT (08 R235): for one millisecond each best-effort queue with waiting work gains its weight's share of the cluster time
left, held between -64 ms and 64 ms; the other queues gain nothing. -/
def Obligations.BudgetsAndCreditsRefillEachMillisecond : Prop :=
  ∀ (p : PartId) (s : State),
    (s.journaled p = false → s.mark (100 + p.val) < s.nowNat / 1000000 →
      Completes (.budgetRefill p) s (fun t => t.mark (100 + p.val) = s.nowNat / 1000000 ∧
        (∀ n, n < 64 → (t.round p).bucket n = min (fld ((s.round p).budget n) 63 40 : Int)
          ((s.round p).bucket n + (fld ((s.round p).budget n) 39 20 * (s.nowNat / 1000000 - s.mark (100 + p.val)) : Nat))) ∧
        (t.round p).entries = (s.round p).entries ∧ (t.round p).credit = (s.round p).credit ∧
        (∀ k, k ≠ p.val → t.part k = s.part k) ∧ t.mem = s.mem ∧ t.regs = s.regs)) ∧
    (s.journaled p = true → Completes (.budgetRefill p) s (fun t => t = s)) ∧
    (s.mark (200 + p.val) < s.nowNat / 1000000 → ∀ spare,
      Completes (.bestEffortCredit p spare) s (fun t => t.mark (200 + p.val) = s.mark (200 + p.val) + 1 ∧
        (∀ k, k < 3 → s.queueWork p k = true →
          let w := (((List.range 3).filter (s.queueWork p)).map (s.beWeight p)).sum
          w ≠ 0 → (t.round p).creditOf k =
            max (-64000000) (min 64000000 ((s.round p).creditOf k + (min spare 1000000 * s.beWeight p k / w : Nat)))) ∧
        (∀ k, s.queueWork p k = false ∨ 3 ≤ k → (t.round p).creditOf k = (s.round p).creditOf k) ∧
        (t.round p).buckets = (s.round p).buckets ∧ (∀ k, k ≠ p.val → t.part k = s.part k) ∧ t.mem = s.mem ∧ t.regs = s.regs))

/-- RELIEF (07 R215, R216), outside a replay: a home stack that is short first evicts the prefix entry that relief may evict and that was
used least recently; with none, and no idle sequence to take, it pauses one best-effort sequence. POSTE_RESTANTE_FETCH (07 R219): the
spilled parcels of a sequence that the round resumes, or that a hint names, are fetched in ascending span: each takes a fresh slot, for a
hint only above the reserve, and its data and its tag are asked for.
SPILL_COMPLETE (07 R218, R221): a spilling parcel whose 1,024 lines can be read is spilled under the next spill counter, with its
content check, and its slot is free; one with a failing line is returned, outside a replay. FETCH_BACK_COMPLETE (07 R219, R221): a fetched
parcel whose tag, index, counter and check agree under the partition's poste restante key is written to its slot, line by line, and is full
or tail again; one that was not read, or whose tag, index, counter or check differs, is returned. -/
def Obligations.ReliefSpillsAndFetchesBack : Prop :=
  (
  (∀ (p : PartId) (st : StackId) (s : State), (s.part p).mode = .ready → s.short p st = true →
    s.replaying p = false →
    (∀ k rest, s.evictable p = k :: rest → Completes (.relief p st) s (fun t => t.prefixAt p k = none ∧ t.mem = s.mem ∧
      t.regs = s.regs ∧ t.clusters = s.clusters ∧ t.engines = s.engines)) ∧
    (∀ i e, s.evictable p = [] → s.victims p = [] → s.nextPause p = some i → s.seqAt p i = some e →
      Completes (.relief p st) s (fun t => t.seqAt p i = some { e with state := .paused } ∧
        (∀ k, k ≠ i → t.seqAt p k = s.seqAt p k) ∧ OnlyPart p s t ∧ (t.round p).ledger = (s.round p).ledger))) ∧
  (∀ (p : PartId) (seq : Nat) (s : State), s.chosen p seq = true ∨ seq ∈ (s.round p).hinted →
    Completes (.posteRestanteFetch p seq) s (fun t =>
      t = (s.spilledOf p seq).foldl (fun t k => t.fetchParcel p seq k (!s.chosen p seq)) s)) ∧
  (∀ (p : PartId) (seq k slot pln : Nat) (hint : Bool) (s : State) (m : Model), (s.round p).model = some m →
    (s.parcel p k).prSlot = some slot → s.linkGood = true →
    let st := homeStack (m.heads' (s.parcel p k).draft) (s.parcel p k).head (s.parcel p k).layer
    (hint = true → s.reserve p st < s.freeSlots p st) → s.freshSlot p st (s.parcel p k).number false seq = some pln →
    let t := s.fetchParcel p seq k hint
    t.parcel p k = { s.parcel p k with state := .fetching, pln := pln } ∧ (∀ j, j ≠ k → t.parcel p j = s.parcel p j) ∧
    t.out = s.out ++ hostReads (p.val + 1) 65536 (s.prData p slot) 65536 ++ hostReads (p.val + 1) 64 (s.prTag p slot) 64 ∧
    t.mem = s.mem)) ∧
  (
  (∀ (p : PartId) (i k : Nat) (s u : State), (s.parcel p i).state = .spilling → (s.parcel p i).prSlot = some k →
    (∀ bs, s.readParcel p (s.parcel p i).pln 1024 = (u, some bs) →
      Completes (.spillComplete p i) s (fun t => t.mem = u.mem ∧
        t.parcel p i = { u.parcel p i with state := .spilled, pln := 0, check := some (BitVec.ofNat 32 (crc32c bs)),
                                           spillCounter := (u.round p).pr.counter } ∧
        (t.round p).pr.counter = (u.round p).pr.counter + 1 ∧ (∀ j, j ≠ i → t.parcel p j = u.parcel p j) ∧
        (t.round p).entries = (u.round p).entries)) ∧
    (s.replaying p = false → s.readParcel p (s.parcel p i).pln 1024 = (u, none) → Completes (.spillComplete p i) s (fun t => t = u.returned p i))) ∧
  (∀ (p : PartId) (i : Nat) (s : State), (s.parcel p i).state = .fetching →
    (∀ cipher tag bs, openParcel (s.parcel p i) (s.round p).pr.key p i cipher tag = some bs →
      Completes (.fetchBackComplete p i (some (cipher, tag))) s (fun t => t.mem = (s.writeParcel (s.parcel p i).pln bs).mem ∧
        t.parcel p i = { s.parcel p i with
          state := if (s.parcel p i).filled = 256 then .full else .tail, check := none, prSlot := none } ∧
        (∀ j, j ≠ i → t.parcel p j = s.parcel p j) ∧ (t.round p).entries = (s.round p).entries)) ∧
    (s.replaying p = false → ∀ c : Option (List Byte × Line),
      (∀ x, c = some x → openParcel (s.parcel p i) (s.round p).pr.key p i x.1 x.2 = none) →
      Completes (.fetchBackComplete p i c) s (fun t => t.mem = s.mem ∧ (t.parcel p i).state = .returned ∧
        (t.parcel p i).filled = 0 ∧ (t.parcel p i).check = none))))

/-- COMMIT (08 R243, 09 R276): a released sheet with no cause of abandonment pending commits: the step number rises by 1, the sheet is
gone, the counts of reissues and strikes are 0, nothing is left off the next sheet, and no line, no cluster and no engine changes; with a
cause pending, or room for its records missing from the journal, nothing happens. Where a line of firmware's tables is bad, the read of
it may take the commit's place (log 70). A replay (19 R459, R460; log 23) commits too, and goes on, completes or stops; if it stops,
every cluster of the partition has stopped.
STEP_ABANDON (08 R245, R246; 14 R360), outside a replay: a standing cause removes the sheet, marks the step as being abandoned and
counts the reissue, to at most 15; a further cause of a step that is being abandoned counts none; the step number stands. The sixteenth
counted abandonment of one step is a job fault. REISSUED_SHEET_RELEASE (09 R278): once the abandoned step is still and no repair holds
the partition, the serving job begins again on all its clusters, the sheet is released, and the step word rises. -/
def Obligations.CommitEndsTheStepOrItIsAbandoned : Prop :=
  (
  ∀ (p : PartId) (outputs : List ItemOutput) (probe : List Byte) (s : State) (sh : Sheet), (s.round p).sheet = some sh →
    (s.causePending p = true ∨ s.journalRoom p (4 + 2 * sh.items.length) = false → Completes (.commit p outputs probe) s (fun t => t = s)) ∧
    (s.works p = true → sh.released = true → s.causePending p = false → (s.round p).abandoning = false →
      outputs.length = sh.items.length → s.journalRoom p (4 + 2 * sh.items.length) = true →
      (∀ u, s.fwRead p = (u, true) → Completes (.commit p outputs probe) s (fun t => t = u)) ∧
      (∀ u, s.fwRead p = (u, false) → s.replaying p = true →
        Completes (.commit p outputs probe) s (fun t => (t.round p).step = (s.round p).step + 1 ∧
          (t.round p).sheet = none ∧ (t.part p).journal.replay ∈ [1, 2, 3] ∧
          ((t.part p).journal.replay = 3 →
            ∀ c, c ∈ s.partClusters p → (t.cluster c).job.isSome = true → (t.cluster c).stopped = true))) ∧
      (∀ u, s.fwRead p = (u, false) → s.replaying p = false →
        Completes (.commit p outputs probe) s (fun t => (t.round p).step = (s.round p).step + 1 ∧ (t.round p).sheet = none ∧
          (t.round p).reissue = 0 ∧ (t.round p).strikes = 0 ∧ (t.round p).excluded = [] ∧ t.mem = s.mem ∧ t.regs = s.regs ∧
          t.clusters = s.clusters ∧ t.engines = s.engines ∧ (∀ k, k ≠ p.val → t.part k = s.part k))))) ∧
  (
  (∀ (p : PartId) (c : AbandonCause) (s : State), (s.part p).mode = .ready → s.replaying p = false → s.causeStands p c = true →
    (∀ sh : Sheet, (s.round p).sheet = some sh → (s.round p).abandoning = false →
      ((s.round p).strikes + b2n (s.counts p c) < 16 →
        Completes (.stepAbandon p c) s (fun t => (t.round p).sheet = none ∧ (t.round p).abandoning = true ∧
          (t.round p).reissue = min 15 ((s.round p).reissue + 1) ∧ (t.round p).step = (s.round p).step ∧
          (t.round p).strikes = (s.round p).strikes + b2n (s.counts p c) ∧ c ∉ (t.round p).causes ∧
          t.mem = s.mem ∧ t.regs = s.regs)) ∧
      (16 ≤ (s.round p).strikes + b2n (s.counts p c) →
        Completes (.stepAbandon p c) s (fun t => (t.round p).sheet = none ∧ t.regs = s.regs ∧
          (t.part p).jobFaults = min 65535 ((s.part p).jobFaults + 1)))) ∧
    ((s.round p).abandoning = true → (s.round p).strikes < 16 →
      Completes (.stepAbandon p c) s (fun t => (t.round p).sheet = none ∧ (t.round p).abandoning = true ∧
        (t.round p).reissue = (s.round p).reissue ∧ (t.round p).strikes = (s.round p).strikes ∧
        (t.round p).step = (s.round p).step ∧ c ∉ (t.round p).causes ∧ t.mem = s.mem ∧ t.regs = s.regs))) ∧
  (∀ (p : PartId) (s : State) (sh : Sheet) (j : Job), (s.round p).sheet = some sh → s.servingJob p = some j →
    (s.round p).abandoning = true → sh.released = false → s.stepStill p = true → s.repairHolds p = false →
    Completes (.reissuedSheetRelease p) s (fun t => ∃ u : State, t = u.bumpStep p ∧ (u.round p).sheet = some { sh with released := true } ∧
      (u.round p).abandoning = false ∧ (∀ c, c ∈ j.clusters → ∃ x : Cluster, u.cluster c = x.begin p j.num j.desc none) ∧
      (∀ c, c ∉ j.clusters → u.cluster c = s.cluster c) ∧ u.mem = s.mem ∧ u.engines = s.engines)))

/-! ### Copies, tensors and digests (10; 15 R386, R387) -/

/-- COPY, GATHER, SCATTER and COLLECTIVE (10 R290 to R298; 15 R386, R387), outside a replay: a descriptor of the command's type that may
start becomes one copy in flight with the next number, naming its handles (R287). One that breaks R291 begins with status 0x28, with no
line read or written and nothing sent; so does a descriptor of no type that its queue takes (R298). One that its plan refuses begins with
the plan's status, one whose lines or scales do not match with 0x31, and one with a peer out of reach with 0x36; else the host lines that
it needs are asked for, and a copy with nothing to fetch from the host or a peer reads its source at once. -/
def Obligations.CopiesBegin : Prop :=
  ∀ (q : CopyQueue) (host list : Option (List Byte)) (s : State) (d : Line), s.queueHead q = some d → s.mayStart q d = true →
    s.replaying (queuePart q) = false →
    let s1 := s.popQueue q
    let p := queuePart q
    let begins (t : State) (hs : List W32) (bad : Bool) : Prop :=
      t.nextCopy = s.nextCopy + 1 ∧ (∃ c, c ∈ t.copies ∧ c.id = s.nextCopy ∧ c.desc = d ∧ c.queue = q ∧ c.partition = p ∧
        c.handles = hs ∧ (bad = true → c.status = 0x28)) ∧ (bad = true → t.mem = s.mem ∧ t.out = s.out ∧ t.links = s.links)
    let reads (t : State) (l : Option (List Byte)) : Prop :=
      (∀ u e, s1.planCopy q d l = (u, .inr e) → t = u.addCopy q d e.1 e.2 [] [] (copyHandles d) none) ∧
      (∀ u plan, s1.planCopy q d l = (u, .inl plan) →
        (u.planNeeds p d plan = none → t = u.addCopy q d 0x31 none [] [] (copyHandles d) none) ∧
        (∀ needs, u.planNeeds p d plan = some needs →
          ((u.planPeers p d plan).all (u.reachable p) = false → t = u.addCopy q d 0x36 none [] [] (copyHandles d) none) ∧
          ((u.planPeers p d plan).all (u.reachable p) = true →
            (∀ a, .host a ∈ needs → .hostRead (p + 1) a 64 ∈ t.out) ∧
            (needs = [] → t = (u.addCopy q d plan.bad none plan.boxes [] (copyHandles d) none).moveCopy u.nextCopy))))
    (cType d = 1 → Completes (.copy q host) s (fun t => begins t (copyHandles d) (badCopy (isProgram q) d) ∧ reads t none)) ∧
    (cType d = 2 → Completes (.gather q host list) s (fun t => begins t (copyHandles d) (badCopy (isProgram q) d) ∧ reads t list)) ∧
    (cType d = 3 → Completes (.scatter q host list) s (fun t => begins t (copyHandles d) (badCopy (isProgram q) d) ∧ reads t list)) ∧
    (cType d = 4 → let hs := [kSrc d, kDst d] ++ (if cAtomic d then [cWordHandle d] else [])
      Completes (.collective q) s (fun t => begins t hs (badColl (isProgram q) d) ∧
        ∀ e, s1.collStatus q d = e + 1 → t = s1.addCopy q d (e + 1) none [] [] hs none)) ∧
    (¬ (1 ≤ cType d ∧ cType d ≤ 4) → ¬ (isProgram q = false ∧ 0x20 ≤ cType d ∧ cType d ≤ 0x24) →
      Completes (.copy q host) s (fun t => begins t [] true))

/-- COPY_COMPLETE (09 R263; 10 R287, R297, R298): a copy whose source is read writes its pieces. One with lines of host memory among them
then reads behind the last of these, and has a second command (log 68); else its notify follows, and without one it leaves the engines with
its record. A stale handle ends it with 0x30, a piece that cannot be written with its status, and a copy that ended with a status leaves
with that. COLLECTIVE_JOIN_TIMEOUT (15 R387): a collective that has not begun 1 s after its first member joined leaves them too, with
nothing written. PROGRAM_COPY_QUEUE_POLL (10 R290): an entry whose type is not zero joins the partition's fetched entries, its type is
cleared and the head moves on; one whose type is zero is not there yet; a line that cannot be read is a bus error of a program copy. -/
def Obligations.CopiesCompleteAndEntriesAreFetched : Prop :=
  (∀ (id : Nat) (s : State) (c : CopyJob), s.copyAt id = some c →
    (c.stage = 1 → c.status = 0 → c.waiting = [] → c.coll = none → s.staleHandle c = false →
      ∀ u f, s.applyPieces c.partition c.pieces = (u, f) →
      (f = none → c.hostLines = [] → Completes (.copyComplete id true) s (fun t => t = u.notifyCopy c ∧
        (cSignal c.desc = false → cAtomic c.desc = false → t = u.endCopy c 0 none ∧ (∀ k, k ∈ t.copies → k.id ≠ id) ∧ t.mem = u.mem ∧
          t.quarters = u.quarters ∧ t.clusters = u.clusters))) ∧
      (f = none → ∀ a, c.hostLines.getLast? = some a → Completes (.copyComplete id true) s (fun t =>
        t = (u.hostRead (c.partition + 1) a 64).modCopy id (fun x => { x with stage := 3 }))) ∧
      (∀ e, f = some e → Completes (.copyComplete id true) s (fun t => t = u.endCopy c e.1 e.2 ∧ ∀ k, k ∈ t.copies → k.id ≠ id))) ∧
    (c.stage = 3 → c.status = 0 → s.staleHandle c = false → Completes (.copyComplete id true) s (fun t => t = s.notifyCopy c)) ∧
    (c.stage = 3 → Completes (.copyComplete id false) s (fun t => (∀ k, k ∈ t.copies → k.id ≠ id) ∧ t.mem = s.mem ∧
      ∃ u : State, t = u.endCopy c 0x35 none)) ∧
    (c.stage ≠ 2 → c.stage ≠ 3 → c.status ≠ 0 → c.status ≠ 0x37 →
      Completes (.copyComplete id true) s (fun t => t = (s.applyAny c.partition c.pieces).endCopy c c.status c.err ∧
        ∀ k, k ∈ t.copies → k.id ≠ id)) ∧
    (∀ a, c.coll = some a → a.started = false → c.status = 0 → a.first.toNat + 1000000000 ≤ s.nowNat →
      Completes (.collectiveJoinTimeout id) s (fun t => (∀ k, k ∈ t.copies → k.id ≠ id) ∧ t.mem = s.mem ∧ t.quarters = s.quarters ∧
        t.clusters = s.clusters))) ∧
  (∀ (p : PartId) (s u : State) (cfg : W64), (s.part p).copyq = some cfg → (s.part p).mode = .ready →
    s.copyqOk p cfg = true →
    let n := fld cfg 7 0
    (s.readLine (ctlOf (s.regionLine n 0)) (s.regionLine n 0) p = (u, none) →
      Completes (.programCopyQueuePoll p) s (fun t => t = u.programError p (s.regionLine n 0))) ∧
    (∀ l, s.readLine (ctlOf (s.regionLine n 0)) (s.regionLine n 0) p = (u, some l) →
      let o := 64 + 64 * (lineNat l 4 4 % copyqEntries cfg)
      ∀ v e, u.readLine (ctlOf (s.regionLine n o)) (s.regionLine n o) p = (v, e) →
      (e = none → Completes (.programCopyQueuePoll p) s (fun t => t = v.programError p (s.regionLine n o))) ∧
      (∀ x, e = some x → lineNat x 0 1 = 0 → Completes (.programCopyQueuePoll p) s (fun t => t = v)) ∧
      (∀ x, e = some x → lineNat x 0 1 ≠ 0 → Completes (.programCopyQueuePoll p) s (fun t =>
        (t.part p).progQ = (v.part p).progQ ++ [x] ∧
        t.mem = ((v.regionPut n o p 1 0).regionPut n 4 p 4 ((lineNat l 4 4 + 1) % 2 ^ 32)).mem))))

/-- TENSOR_CREATE (10 R284 to R286): a descriptor that passes every check fills its entry, with the generation it had; one that fails is
answered with the status of the first failing check, and the table stands; one that could not be read with 0x35, and a command of a bad
form or for an entry in use with 0x20. TENSOR_DESTROY and its completion (R285, R287): the entry's
uses meet a stale handle at once, and an entry without a tensor, or one that is being destroyed, is answered with 0x30; once no copy and no cluster operation holds the handle the entry is free and its generation adds 1,
modulo 4,096.
DIGEST_OPEN, DIGEST_CLOSE and its completion (10 R299, R300; 16 R405): an open stream holds no byte; a close waits for the stream's
copies, and one of no open stream is answered with 0x39; an open or close of a bad form is answered with 0x20; then the stream is gone, and the digest of the bytes, in order, enters the partition's digest list, unless a copy of the stream
failed or the list holds 128 entries. -/
def Obligations.TensorsAndDigestStreams : Prop :=
  (
  (∀ (fn : FnId) (r : RingId) (s : State) (d l : Line), s.tensorHead fn r 0x20 = some d →
    let p := fn.val - 1
    let i := lineNat d 2 2
    let read := (s.popFetched fn r).hostRead fn (lineNat d 8 8) 64
    let good := i < 4096 ∧ lineNat d 1 1 = 0 ∧ lineNat d 4 4 = 0 ∧ lineNat d 16 48 = 0 ∧ lineNat d 8 8 % 64 = 0 ∧
      (s.tensorEntry p i).tensor = none
    let x : Tensor := { desc := l, group := s.partReg p (0x300 + 8 * tGroup l), destroying := none }
    (good → s.tensorStatus p x = 0 → Completes (.tensorCreate fn r (some l)) s (fun t =>
      t.tensorEntry p i = { s.tensorEntry p i with tensor := some x } ∧ (∀ k, k ≠ i → t.tensorEntry p k = s.tensorEntry p k) ∧
      (∀ k, k ≠ p → t.part k = s.part k) ∧ t.mem = s.mem ∧ t.regs = s.regs)) ∧
    (good → s.tensorStatus p x ≠ 0 → Completes (.tensorCreate fn r (some l)) s (fun t => t.parts = s.parts ∧
      t = read.tensorAnswer fn r 0x20 (s.tensorStatus p x) i 0)) ∧
    (good → Completes (.tensorCreate fn r none) s (fun t => (t.part p).tensors = (s.part p).tensors ∧
      ∃ u : State, t = u.tensorAnswer fn r 0x20 0x35 i 0)) ∧
    (¬ good → Completes (.tensorCreate fn r (some l)) s (fun t => t.parts = s.parts ∧
      t = (s.popFetched fn r).tensorAnswer fn r 0x20 0x20 i 0))) ∧
  (∀ (fn : FnId) (r : RingId) (s : State) (d : Line), s.tensorHead fn r 0x21 = some d →
    let p := fn.val - 1
    let i := lineNat d 2 2
    let good := i < 4096 ∧ lineNat d 1 1 = 0 ∧ lineNat d 4 60 = 0
    (good → ∀ x : Tensor, (s.tensorEntry p i).tensor = some x → x.destroying = none →
      Completes (.tensorDestroy fn r) s (fun t =>
        (∀ h, fld h 11 0 = i → t.tensorAt p h = none) ∧ (t.tensorEntry p i).generation = (s.tensorEntry p i).generation ∧
        (∀ k, k ≠ i → t.tensorEntry p k = s.tensorEntry p k) ∧ t.mem = s.mem ∧ t.regs = s.regs)) ∧
    (good → (∀ x : Tensor, (s.tensorEntry p i).tensor = some x → x.destroying.isSome = true) →
      Completes (.tensorDestroy fn r) s (fun t => t.parts = s.parts ∧ t = (s.popFetched fn r).tensorAnswer fn r 0x21 0x30 i 0)) ∧
    (¬ good → Completes (.tensorDestroy fn r) s (fun t => t.parts = s.parts ∧
      t = (s.popFetched fn r).tensorAnswer fn r 0x21 0x20 i 0))) ∧
  (∀ (p : PartId) (i : Fin 4096) (s : State) (x : Tensor) (w : Nat × Nat × W64), (s.tensorEntry p i).tensor = some x →
    x.destroying = some w → s.handleInUse (handleOf p i (s.tensorEntry p i).generation) = false →
    Completes (.tensorDestroyComplete p i) s (fun t =>
      t.tensorEntry p i = { generation := ((s.tensorEntry p i).generation + 1) % 4096, tensor := none } ∧
      (∀ k, k ≠ i.val → t.tensorEntry p k = s.tensorEntry p k) ∧ t.mem = s.mem ∧ t.regs = s.regs))) ∧
  (
  (∀ (fn : FnId) (r : RingId) (s : State) (d : Line), s.tensorHead fn r 0x22 = some d →
    let p := fn.val - 1
    let n := lineNat d 2 1
    let good := n ≤ 15 ∧ lineNat d 3 1 ≤ 4 ∧ lineNat d 1 1 = 0 ∧ lineNat d 4 4 = 0 ∧ lineNat d 12 52 = 0
    (¬ good → Completes (.digestOpen fn r) s (fun t => t.parts = s.parts ∧
      t = (s.popFetched fn r).tensorAnswer fn r 0x22 0x20 n 0)) ∧
    (good → s.streamBusy p n = false → (∀ g, s.stream p n = some g → g.closing = none) →
    Completes (.digestOpen fn r) s (fun t => t.stream p n = some
        { kind := lineNat d 3 1, label := BitVec.ofNat 32 (lineNat d 8 4), data := [], failed := false, regions := [], closing := none } ∧
      (∀ k, k ≠ n → t.stream p k = s.stream p k) ∧ (t.part p).digestList = (s.part p).digestList ∧ t.mem = s.mem))) ∧
  (∀ (fn : FnId) (r : RingId) (s : State) (d : Line), s.tensorHead fn r 0x23 = some d →
    let p := fn.val - 1
    let n := lineNat d 2 1
    let good := n ≤ 15 ∧ lineNat d 1 1 = 0 ∧ lineNat d 3 61 = 0
    let refused (st : Nat) : Prop := Completes (.digestClose fn r) s (fun t => (∀ k, t.stream p k = s.stream p k) ∧
      (t.part p).digestList = (s.part p).digestList ∧ ∃ u : State, t = u.tensorAnswer fn r 0x23 st n 0)
    (¬ good → refused 0x20) ∧
    (good → (∀ g, s.stream p n = some g → g.closing.isSome = true) → refused 0x39) ∧
    (good → ∀ g, s.stream p n = some g → g.closing = none → Completes (.digestClose fn r) s (fun t => t.stream p n = some { g with closing := some (fn.val, r.val, s.time.now) } ∧
      (∀ k, k ≠ n → t.stream p k = s.stream p k) ∧ (t.part p).digestList = (s.part p).digestList ∧ t.mem = s.mem))) ∧
  (∀ (p : PartId) (n : Fin 16) (s : State) (g : Digest) (w : Nat × Nat × W64), s.stream p n = some g → g.closing = some w →
    s.streamBusy p n = false →
    (g.failed = false → (s.part p).digestList.length < 128 →
      Completes (.digestCloseComplete p n) s (fun t => t.stream p n = none ∧ (∀ k, k ≠ n.val → t.stream p k = s.stream p k) ∧
        (t.part p).digestList = (s.part p).digestList ++ 
          [{ kind := g.kind, label := g.label, stream := n, closedAt := s.time.now, value := sha3 g.data, regions := g.regions }] ∧ t.mem = s.mem)) ∧
    (g.failed = true ∨ 128 ≤ (s.part p).digestList.length →
      Completes (.digestCloseComplete p n) s (fun t => t.stream p n = none ∧ (t.part p).digestList = (s.part p).digestList ∧
        t.mem = s.mem))))

/-! ### The host link and the rings (11) -/

/-- PCIE_LINK_TRAINED (11 R301; 12 R329; 16 R393): the link is degraded unless it trains at eight lanes, 128 GT/s and Flit mode; line 59
is latched, and the keys of every IDE stream are gone (log 80); on a full link what waited for it goes out (log 72). BAR0_BAD_WRITE (R302):
a bad write is discarded and counted, saturating. LETTERBOX_POLL (R312): at its moment a served function's letterbox is read once, with no
second read out, and the next moment is set; before it, or with a read out, nothing happens.
LETTERBOX_READ_COMPLETE (11 R307, R312, R313), for a read that is out or, in a replay, a record fed (log 23): a failed poll is
counted, retried at the next moment, and the sixteenth in a row makes the host unreachable; a good poll ends both, every enabled ring that
is not stopped takes its word as driver index when no index is bad (the journal not recording), and a poll that fell due meanwhile is
issued. DESCRIPTOR_FETCH_COMPLETE (R308, R309, R317, R318): descriptors join those of their ring in order, each adding 1 to its module
index, for as long as an entry can be reserved for their record (the journal not recording); a failed fetch stops the ring with error 3; what a fetch brings
that was out when its ring was disabled is dropped. -/
def Obligations.LinkPollsAndFetchesArrive : Prop :=
  (
  ∀ (s : State),
    (∀ width gts flit, Completes (.pcieLinkTrained width gts flit) s (fun t =>
      t = { s with module := t.module, fns := t.fns, out := t.out, unsent := t.unsent, intr := t.intr } ∧
      t.module = { s.module with linkDegraded := t.module.linkDegraded } ∧
      (t.module.linkDegraded = false ↔ width = 8 ∧ gts = 128 ∧ flit = true) ∧ (∀ k, t.fn k = { s.fn k with ide := false }) ∧
      (t.icLine 59).pending = true ∧ (∀ k, k ≠ 59 → t.icLine k = s.icLine k) ∧
      t.out = s.out ++ (if t.module.linkDegraded then [] else s.unsent) ∧
      t.unsent = (if t.module.linkDegraded then s.unsent else []))) ∧
    Completes .bar0BadWrite s (fun t => t = { s with module := { s.module with badWrites := min 65535 (s.module.badWrites + 1) } }) ∧
    (∀ fn : FnId, (s.fn fn).enable ≠ 0 → (s.fn fn).pollOut = false → (s.fn fn).pollAt.toNat ≤ s.nowNat → s.served fn = true →
      (fn.val ≠ 0 → s.journalRoom (fn.val - 1) 2 = true) →
      Completes (.letterboxPoll fn) s (fun t => t.out = s.out ++ [.hostRead fn (s.letterbox fn) 64] ∧
        t.fn fn = { s.fn fn with pollOut := true, pollAt := s.nextPoll fn } ∧ (∀ k, k ≠ fn.val → t.fn k = s.fn k) ∧
        (t.icLine 53).pending = true ∧ t.mem = s.mem ∧ t.parts = s.parts ∧ t.regs = s.regs)) ∧
    (∀ fn : FnId, (s.fn fn).pollOut = true ∨ s.nowNat < (s.fn fn).pollAt.toNat → Completes (.letterboxPoll fn) s (fun t => t = s))) ∧
  (
  (∀ (fn : FnId) (s : State), (s.fn fn).pollOut = true ∨ (fn.val ≠ 0 ∧ s.replaying (fn.val - 1) = true) →
    Completes (.letterboxReadComplete fn none) s (fun t => (t.fn fn).pollOut = false ∧ (t.fn fn).pollFails = (s.fn fn).pollFails + 1 ∧
      ((t.fn fn).unreachable = true ↔ (s.fn fn).unreachable = true ∨ 15 ≤ (s.fn fn).pollFails) ∧
      ((t.fn fn).unreachable = (s.fn fn).unreachable → (t.fn fn).pollAt = s.nextPoll fn) ∧ t.mem = s.mem ∧ t.regs = s.regs) ∧
    (∀ l : Line, (s.part (fn.val - 1)).journal.recording = false →
      (∀ r, r < 16 → s.ringOn fn r = true → (s.ring fn r).stopped = false →
        indexError (s.driverWritten fn r) (s.ring fn r).driverIndex (BitVec.ofNat 32 (lineNat l (4 * r) 4)) (s.ring fn r).moduleIndex
          (s.ringEntries fn r) = 0) →
      Completes (.letterboxReadComplete fn (some l)) s (fun t => (t.fn fn).pollFails = 0 ∧ (t.fn fn).unreachable = false ∧
        ((s.fn fn).unreachable = false → s.nowNat < (s.fn fn).pollAt.toNat → (t.fn fn).pollOut = false) ∧
        ((s.fn fn).unreachable = false → (s.fn fn).pollAt.toNat ≤ s.nowNat → (s.fn fn).enable ≠ 0 → s.served fn = true →
          (t.fn fn).pollOut = true) ∧
        (∀ r, r < 16 → s.ringOn fn r = true → (s.ring fn r).stopped = false →
          (t.ring fn r).driverIndex = BitVec.ofNat 32 (lineNat l (4 * r) 4) ∧ (t.ring fn r).stopped = false) ∧ t.mem = s.mem))) ∧
  (∀ (fn : FnId) (r : RingId) (s : State),
    (∀ n ns data, (s.ring fn r).stale = n :: ns → Completes (.descriptorFetchComplete fn r data) s (fun t =>
      t.ring fn r = { s.ring fn r with stale := ns } ∧ (∀ k, k ≠ r.val → t.ring fn k = s.ring fn k) ∧ t.mem = s.mem ∧
      t.parts = s.parts)) ∧
    ((s.ring fn r).stale = [] → 0 < (s.ring fn r).fetching → s.ringOn fn r = true → (s.ring fn r).stopped = false →
      (∀ ls : List Line, (s.part (fn.val - 1)).journal.recording = false →
        Completes (.descriptorFetchComplete fn r (some ls)) s (fun t => ∃ k, k ≤ (ls.take (s.ring fn r).fetching).length ∧
          (t.ring fn r).fetched = (s.ring fn r).fetched ++ ls.take k ∧
          (t.ring fn r).moduleIndex = (s.ring fn r).moduleIndex + BitVec.ofNat 32 k ∧ (t.ring fn r).fetching = 0 ∧
          (∀ d ds, ls = d :: ds → s.reservable fn (s.recordRing fn r d) = true → 0 < k) ∧
          (∀ d, ls = [d] → s.reservable fn (s.recordRing fn r d) = true →
            (t.ring fn (s.recordRing fn r d)).reserved = (s.ring fn (s.recordRing fn r d)).reserved + 1) ∧
          (∀ d ds, ls = d :: ds → s.reservable fn (s.recordRing fn r d) = false → k = 0) ∧ t.mem = s.mem ∧
          (s.ringType fn r ≠ 3 → t.parts = s.parts))) ∧
      Completes (.descriptorFetchComplete fn r none) s (fun t => (t.ring fn r).stopped = true ∧ (t.ring fn r).error = 3 ∧
        (t.ring fn r).fetching = 0 ∧ t.mem = s.mem ∧ t.parts = s.parts))))

/-- RING_ENABLE (11 R316): rings that are on stay on, and those of no named bit stay as they are; a single ring whose configuration may be
enabled goes on and begins with both indices zero, not stopped and without error, and one that may not is left off with error 5; a mailbox
begins with seq 0 and an armed vector (12 R321, R323). RING_DISABLE (R317): every named ring that is on goes off; a driver-written one drains
while its work is in flight and a module-written one while entries of it are reserved or wait, and a journal ring ends the recording.
RING_DRAIN_COMPLETE: a ring with nothing left drains no longer. RING_STATUS_CLEAR (R315): stopped bits that are written 1 clear, and the
rings stay stopped. RING_ENTRY_WRITE_FAILED (R318): the ring stops with error 4. -/
def Obligations.RingsAreEnabledDisabledAndStopped : Prop :=
  ∀ (fn : FnId) (r : RingId) (mask : BitVec 16) (s : State),
    (s.bar0 fn = true → Completes (.ringEnable fn mask) s (fun t => t.mem = s.mem ∧ t.regs = s.regs ∧
      (∀ k, k ≠ fn.val → t.fn k = s.fn k) ∧ (∀ k, k < 16 → bitAt mask k = false → t.ringOn fn k = s.ringOn fn k) ∧
      (∀ k, k < 16 → s.ringOn fn k = true → t.ringOn fn k = true) ∧
      (s.ringOn fn r = false → mask = BitVec.ofNat 16 (2 ^ r.val) →
        (s.ringType fn r ≠ 6 → ∀ k, k ≠ r.val → t.ring fn k = s.ring fn k) ∧
        (s.mayEnable fn r = true → t.ringOn fn r = true ∧ (t.ring fn r).moduleIndex = 0 ∧ (t.ring fn r).driverIndex = 0 ∧
          (t.ring fn r).stopped = false ∧ (t.ring fn r).draining = false ∧ (t.ring fn r).error = 0 ∧
          (s.ringType fn r = 6 → (t.fn fn).nextSeq = 0 ∧ (t.fn fn).armed = true ∧ (t.fn fn).held = (s.fn fn).held)) ∧
        (s.mayEnable fn r = false → t.ringOn fn r = false ∧ (t.ring fn r).error = 5)))) ∧
    (s.bar0 fn = true → Completes (.ringDisable fn mask) s (fun t => t.mem = s.mem ∧ t.regs = s.regs ∧
      (∀ k, k ≠ fn.val → t.fn k = s.fn k) ∧ (∀ k, k < 16 → t.ringOn fn k = (s.ringOn fn k && !bitAt mask k)) ∧
      (∀ k, k < 16 → bitAt mask k = true → s.ringOn fn k = true → s.ringType fn k = 7 →
        (t.part (fn.val - 1)).journal.recording = false) ∧
      ((∀ k, k < 16 → bitAt mask k = true → s.ringType fn k ≠ 7) → ∀ k, k < 16 → bitAt mask k = true → s.ringOn fn k = true →
        (t.ring fn k).draining = (if s.driverWritten fn k = true then s.ringBusy fn k
          else decide ((s.ring fn k).reserved ≠ 0) || !(s.ring fn k).backlog.isEmpty) ∧
        (s.driverWritten fn k = true → (t.ring fn k).fetching = 0)))) ∧
    ((s.ring fn r).draining = true → (s.driverWritten fn r = true → s.ringBusy fn r = false) →
      (s.driverWritten fn r = false → (s.ring fn r).reserved = 0 ∧ (s.ring fn r).backlog = []) →
      Completes (.ringDrainComplete fn r) s (fun t => t.ring fn r = { s.ring fn r with draining := false } ∧
        (∀ k, k ≠ r.val → t.ring fn k = s.ring fn k) ∧ (∀ k, k ≠ fn.val → t.fn k = s.fn k) ∧ t.mem = s.mem)) ∧
    (s.bar0 fn = true →
      Completes (.ringStatusClear fn mask) s (fun t => (∀ k, k < 16 →
        (t.ring fn k).stoppedBit = ((s.ring fn k).stoppedBit && !bitAt mask k) ∧ (t.ring fn k).stopped = (s.ring fn k).stopped ∧
        (t.ring fn k).error = (s.ring fn k).error) ∧ (∀ k, k ≠ fn.val → t.fn k = s.fn k) ∧ t.mem = s.mem ∧ t.regs = s.regs)) ∧
    (∀ lost, s.ringWritable fn r = true → (s.driverWritten fn r = true → lost = none) →
      Completes (.ringEntryWriteFailed fn r lost) s (fun t => (t.ring fn r).stopped = true ∧ (t.ring fn r).stoppedBit = true ∧
        (t.ring fn r).error = 4 ∧ t.mem = s.mem ∧ t.regs = s.regs))

/-! ### Events and the interrupt controller (12) -/

/-- SUMMARY_WRITE (12 R326): the summary of a count held back is written, takes a token of its source, and the count is gone, while the
mailbox has room and the source a token; without a token, or with the mailbox full, it stays. EVENT_TOKEN_REFILL (R325): the bucket of
every source gains its block's rate for each millisecond since the last refill, up to the depth. -/
def Obligations.SummariesAreWrittenAndBucketsRefilled : Prop :=
  (∀ (fn : FnId) (s : State) (r : Nat) (h : Held), s.openMailbox fn = some r → (s.fn fn).held = [h] →
    (s.mailboxFull fn r = false → s.bucket h.source ≠ 0 →
      Completes (.summaryWrite fn) s (fun t => (t.fn fn).held = [] ∧ t.bucket h.source = s.bucket h.source - 1 ∧
        (∀ k, k ≠ h.source → t.bucket k = s.bucket k) ∧
        (t.ring fn r).moduleIndex = (s.ring fn r).moduleIndex + 1 ∧ (t.fn fn).nextSeq = (s.fn fn).nextSeq + 1 ∧
        (∀ k, k ≠ fn.val → t.fn k = s.fn k) ∧ t.mem = s.mem ∧ t.parts = s.parts ∧ t.regs = s.regs)) ∧
    (s.mailboxFull fn r = true ∨ s.bucket h.source = 0 → Completes (.summaryWrite fn) s (fun t => t = s))) ∧
  (∀ (s : State) (k : Nat), s.mark 1 + k = s.nowNat / 1000000 → 0 < k → (s.buckets.used.map (·.1)).Nodup →
    Completes .eventTokenRefill s (fun t => s.mark 1 + k = t.mark 1 ∧
      (∀ src, src < 65536 → t.bucket src = min (s.evDepth (src / 4096)) (s.bucket src + s.evRate (src / 4096) * k)) ∧
      t.fns = s.fns ∧ t.mem = s.mem ∧ t.regs = s.regs))

/-- EVT_MASK_WRITE (12 R324, R326, R328) stores its 16 block bits, and the counts held back of the blocks that it masks are discarded into
EVT_LOST but for fatal records; EVT_RATE_WRITE changes the rate and the depth that it names, a field of 0 leaving its own as it was;
CLEAR_PULSES of bit 0 clears the count of extra pulses; MSIX_UNMASK (R323) sends a message that was held.
THROTTLE_N (12 R333): an edge at the pin starts its filter; a level held for 1 µs is accepted, and a second accepted assertion edge
within 1 ms begins a fast-toggle episode, which 1 ms without an edge ends; asserted for 10 s it is stuck, and SMB_ALERT_N asserts (21
R489); deasserted for 1 s it is stuck no longer. -/
def Obligations.EventRegistersAndThrottleInput : Prop :=
  (
  ∀ (fn : FnId) (b : Fin 16) (v : W64) (s : State), s.bar0 fn = true →
    Completes (.evtMaskWrite fn v) s (fun t => t = { s with regs := t.regs, fns := t.fns } ∧ t.reg fn 0x30000 = v &&& 0xFFFF ∧
      (∀ f o, regKey f o ≠ regKey fn 0x30000 → t.reg f o = s.reg f o) ∧ (∀ k, k ≠ fn.val → t.fn k = s.fn k) ∧
      (t.fn fn).held.filter (fun h => !bitAt v (h.source / 4096)) = (s.fn fn).held.filter (fun h => !bitAt v (h.source / 4096)) ∧
      (∀ h, h ∈ (t.fn fn).held → bitAt v (h.source / 4096) = true → h.fatal ≠ 0 ∧ h.count = h.fatal) ∧
      (t.fn fn).masked.toNat = min 0xFFFFFFFF ((s.fn fn).masked.toNat +
        (((s.fn fn).held.filter (fun h => bitAt v (h.source / 4096))).map (fun h => h.count - h.fatal)).sum)) ∧
    (fn.val = 0 → Completes (.evtRateWrite fn b v) s (fun t => t = { s with regs := t.regs } ∧
      t.reg 0 (0x30100 + 8 * b) = keepZero (keepZero (s.evtRate b) v 11 0) v 19 12 ∧
      ∀ f o, regKey f o ≠ regKey 0 (0x30100 + 8 * b) → t.reg f o = s.reg f o)) ∧
    (fn.val = 0 → Completes (.clearPulses fn v) s (fun t => t = { s with intr := t.intr } ∧
      t.intr = { s.intr with extraPulses := if bitAt v 0 then 0 else s.intr.extraPulses })) ∧
    Completes (.msixUnmask fn) s (fun t => t.fn fn = { s.fn fn with vectorMasked := false, msgPending := false } ∧
      t.out = s.out ++ (if (s.fn fn).msgPending then [.msix fn] else []) ∧ (∀ k, k ≠ fn.val → t.fn k = s.fn k) ∧ t.mem = s.mem)) ∧
  (
  ∀ (s : State),
    (∀ high : Bool, s.intr.pinLow = high → Completes (.throttleNEdge high) s (fun t =>
      t = { s with intr := { s.intr with pinLow := !high, pinSince := s.time.now } })) ∧
    (s.intr.pinLow ≠ s.intr.accepted → s.intr.pinSince.toNat + 1000 ≤ s.nowNat →
      Completes .throttleNAccept s (fun t => t.intr.accepted = s.intr.pinLow ∧ t.intr.lastEdge = s.time.now ∧
        (s.intr.throttleFast = false → (∀ a, s.intr.lastAssert = some a → a.toNat + 1000000 ≤ s.nowNat) →
          t.intr.throttle = s.intr.pinLow ∧ t.intr.throttleFast = false) ∧
        (∀ a, s.intr.lastAssert = some a → s.nowNat < a.toNat + 1000000 → s.intr.pinLow = true →
          t.intr.throttleFast = true ∧ t.intr.throttle = true) ∧ t = { s with intr := t.intr })) ∧
    (s.intr.throttleFast = true → s.intr.lastEdge.toNat + 1000000 ≤ s.nowNat →
      Completes .throttleFastEnd s (fun t => t.intr.throttleFast = false ∧ t.intr.throttle = s.intr.accepted ∧ t.mem = s.mem ∧
        t.parts = s.parts)) ∧
    (s.intr.throttle = true → s.intr.throttleStuck = false → s.intr.since.toNat + 10000000000 ≤ s.nowNat →
      Completes .throttleNStuck s (fun t => t.intr = { s.intr with throttleStuck := true } ∧ t.module.alert = true ∧ t.mem = s.mem ∧
        t.parts = s.parts)) ∧
    (s.intr.throttleStuck = true → s.intr.throttle = false → s.intr.since.toNat + 1000000000 ≤ s.nowNat →
      Completes .throttleStuckClear s (fun t => t = { s with intr := { s.intr with throttleStuck := false } })))

/-- FAST_INTERRUPT (12 R331): the lowest pending fast line of a core enters its fast bank: fb0 holds its number and nothing is saved.
NORMAL_INTERRUPT: normal code is interrupted, its program counter and status are saved, and the line is active and stays pending until its
claim (the handler's address is a free value, log 3; a handler under way has returned first, log 39). EVT_IC_CLAIM returns the lowest
pending normal line, which becomes active and is pending no more; with none, it returns a free value (log 3). FAST_HANDLER_OVERRUN (R332): a
handler that has run for more than 2 µs is a module-wide loss of cause 1. -/
def Obligations.InterruptsAreDeliveredAndClaimed : Prop :=
  ∀ (c : CoreId) (s : State),
    (∀ n, s.nextLine true c = some n →
      Completes (.fastInterrupt c) s (fun t => Tab.get (fun _ => 0) (t.core c).fb 0 = BitVec.ofNat 32 n ∧
        (∀ k, k ≠ 0 → Tab.get (fun _ => 0) (t.core c).fb k = Tab.get (fun _ => 0) (s.core c).fb k) ∧ (t.core c).inFast = true ∧
        (t.core c).fastSince = s.time.now ∧ (t.core c).pc = (s.core c).pc ∧ (t.core c).status = (s.core c).status ∧
        (t.core c).savedPc = (s.core c).savedPc ∧ (t.icLine n).pending = false ∧ (t.icLine n).active = true ∧
        (∀ k, k ≠ n → k ≠ (s.core c).fastLine → t.icLine k = s.icLine k) ∧ (∀ k, k ≠ c.val → t.core k = s.core k) ∧
        t = { s with intr := t.intr })) ∧
    (∀ n, s.nextLine false c = some n →
      Completes (.normalInterrupt c) s (fun t =>
        (t.core c).savedPc = (if (s.core c).inNormal then (s.core c).savedPc else (s.core c).pc) ∧
        (t.core c).savedStatus = (if (s.core c).inNormal then (s.core c).savedStatus else (s.core c).status) ∧
        (t.core c).inNormal = true ∧ (t.core c).inFast = false ∧ (t.core c).normalLine = n ∧
        (t.core c).pc = BitVec.ofNat 32 s.freeVal.toNat ∧ t.icLine n = { s.icLine n with active := true } ∧
        (∀ k, k ≠ n → k ≠ (s.core c).fastLine → k ≠ (s.core c).normalLine → t.icLine k = s.icLine k) ∧
        (∀ k, k ≠ c.val → t.core k = s.core k) ∧ t.mem = s.mem ∧ t.regs = s.regs)) ∧
    (∀ n, s.nextLine false c = some n →
      Completes (.evtIcClaim c) s (fun t => t.out = s.out ++ [.value (BitVec.ofNat 64 n)] ∧ (t.icLine n).pending = false ∧
        (t.icLine n).active = true ∧ (∀ k, k ≠ n → k ≠ (s.core c).normalLine → t.icLine k = s.icLine k) ∧
        ((s.core c).inNormal = true → (s.core c).normalLine ≠ n → (t.icLine (s.core c).normalLine).active = false) ∧ t.mem = s.mem ∧
        t.regs = s.regs)) ∧
    (s.nextLine false c = none → Completes (.evtIcClaim c) s (fun t => t.out = s.out ++ [.value s.freeVal] ∧ t.intr = s.intr ∧
      t.mem = s.mem)) ∧
    ((s.core c).inFast = true → (s.core c).fastSince.toNat + 2000 < s.nowNat →
      Completes (.fastHandlerOverrun c) s (fun t =>
        t = ({ s with spares := { s.spares with retestCore := some c.val } } : State).wideLoss 1))

/-! ### Partitions, losses and errors (13, 14) -/

/-- SETUP, RECONFIGURE and RELEASE (13 R336 to R338) from physical function 0 while no command runs: one that a check refuses ends with
that status, and no partition, cluster, register or line changes. An accepted one makes the command busy with what the slot's registers
held; SETUP assigns the resources, in the state setting up, and creates the firmware-owned regions where they were planned; RECONFIGURE assigns
the resources anew in the state the slot has; both leave the clusters' caches empty (02 R51), zero the scratchpads of the shares that the slot gains
(02 R43), and give the slot its count of clusters (02 R54); RELEASE makes the slot releasing, with no live job, no request and no memory key
left. Whether firmware's tables fit in the regions planned for them is a free bit, since no rule gives their size (log 70): with every other check
passed, SETUP and RECONFIGURE begin when it is set and end with status 0x0A when it is not.
PARTITION_COMMAND_COMPLETE (13 R336, R338): busy clears with status 0. A SETUP leaves the slot ready at step 0 with its resources, an
empty round and the firmware-owned regions that were being created ready; a RECONFIGURE leaves a ready slot as it was, and makes a lost one
ready; a RELEASE, once nothing of the partition moves, leaves the slot empty, and waits until then. With no command under way nothing happens.
TERMINATION_COMPLETE (16 R408) leaves the slot empty and the termination ended. -/
def Obligations.PartitionCommandsRunFromCheckToEnd : Prop :=
  (
  ∀ (fn : FnId) (p : PartId) (s : State), fn.val = 0 → s.partCtl.busy = false → s.firmwareUp = true →
    let fits := bitAt s.freeVal 0
    let st (op : Nat) (b : Bool) : Nat := s.partStatus p op (s.readSlot p op).want b
    let ended (t : State) (code : Nat) : Prop := t.partCtl.busy = false ∧ t.partCtl.status = BitVec.ofNat 8 code ∧ t.parts = s.parts ∧
      t.clusters = s.clusters ∧ t.regs = s.regs ∧ t.mem = s.mem ∧ t.memory = s.memory ∧ t.out = s.out
    let lies (n a : Nat) : Bool := ({ s.region n with w0 := (s.region n).w0 ||| 1 } : Region).hasLine (a / 72)
    let refused (i : Instr) (op : Nat) : Prop := st op true ≠ 0 → Completes i s (fun t => ended t (st op fits))
    let assigned (t : State) (op : Nat) : Prop := t.partCtl = s.readSlot p op ∧ (t.part p).applied = (s.readSlot p op).want ∧
      (∀ c, c ∈ t.partClusters p → (t.cluster c).cache = []) ∧ (t.part p).feat = t.featPartNow p ∧
      (∀ sh, sh < 48 → bitAt (s.readSlot p op).want.shares sh = true → bitAt (s.part p).applied.shares sh = false →
        ∀ c, c ∈ t.shareClusters sh → (t.cluster c).arch.sp = []) ∧
      (∀ k, k ≠ p.val → t.part k = s.part k) ∧ t.regs = s.regs ∧ t.engines = s.engines ∧
      (∀ a, (∀ n, n ∈ s.fwRegions p → lies n a = false) → Tab.get blankByte t.mem a = Tab.get blankByte s.mem a)
    refused (.setup fn p) 1 ∧ refused (.reconfigure fn p) 2 ∧ refused (.partitionRelease fn p) 3 ∧
    (st 1 true = 0 → Completes (.setup fn p) s (fun t => (fits = false → ended t 0x0A) ∧
      (fits = true → assigned t 1 ∧ (t.part p).mode = .settingUp ∧
        (∀ rs, s.fwPlan p (s.readSlot p 1).want = some rs → ∀ e, e ∈ rs → t.region e.1 = e.2)))) ∧
    (st 2 true = 0 → Completes (.reconfigure fn p) s (fun t => (fits = false → ended t 0x0A) ∧
      (fits = true → assigned t 2 ∧ (t.part p).mode = (s.part p).mode))) ∧
    (st 3 true = 0 → Completes (.partitionRelease fn p) s (fun t => t.partCtl = s.readSlot p 3 ∧ (t.part p).mode = .releasing ∧
      t.liveJobs p = [] ∧ t.seqs p = [] ∧ bitAt t.sec.memKeys p = false ∧ t.regs = s.regs))) ∧
  (
  (∀ (s : State) (failing : List Nat),
    (s.partCtl.busy = false ∨ (s.partCtl.op = 3 ∧ s.quiet s.partCtl.partition = false) →
      Completes (.partitionCommandComplete failing) s (fun t => t = s)) ∧
    (s.partCtl.busy = true →
    let p := s.partCtl.partition
    let ends (t : State) : Prop := t.partCtl.busy = false ∧ t.partCtl.status = 0 ∧ t.regs = s.regs
    let lies (n a : Nat) : Bool := ({ s.region n with w0 := (s.region n).w0 ||| 1 } : Region).hasLine (a / 72)
    let regions (t : State) : Prop := (∀ n, n ∈ s.fwRegions p → (s.region n).st = 1 → (t.region n).st = 2) ∧
      (∀ n, n ∉ s.fwRegions p → (t.region n).st = (s.region n).st)
    let kept (t : State) : Prop := ∀ a, (∀ n, n ∈ s.fwRegions p → (s.region n).st = 1 → lies n a = false) →
      Tab.get blankByte t.mem a = Tab.get blankByte s.mem a
    (s.partCtl.op = 1 → Completes (.partitionCommandComplete failing) s (fun t => ends t ∧ regions t ∧ (t.part p).mode = .ready ∧
      (t.part p).applied = (s.part p).applied ∧ (t.round p).entries = [] ∧ (t.round p).ledger = [] ∧ (t.round p).prefixes = [] ∧
      (t.round p).step = 0 ∧ (t.part p).sliceAt = s.time.now ∧ (t.round p).pr.keyMade = true)) ∧
    (s.partCtl.op = 2 → (s.part p).mode ≠ .lost → Completes (.partitionCommandComplete failing) s (fun t => ends t ∧ regions t ∧ kept t ∧
      t.part p = s.part p)) ∧
    (s.partCtl.op = 2 → (s.part p).mode = .lost → Completes (.partitionCommandComplete failing) s (fun t => ends t ∧ regions t ∧ kept t ∧
      (t.part p).mode = .ready ∧ (t.part p).applied = (s.part p).applied ∧ (t.round p).step = (s.round p).step ∧
      (t.round p).pr.keyMade = true)) ∧
    (s.partCtl.op = 3 → s.quiet p = true → (∀ e, e ∈ s.sec.terminating → e.1 ≠ p) →
      Completes (.partitionCommandComplete failing) s (fun t => ends t ∧ (t.part p).mode = .empty ∧ t.liveJobs p = [] ∧
        (t.round p).entries = [])))) ∧
  (∀ (p : PartId) (s : State) (cause : Nat), s.sec.terminating.find? (fun e => e.1 == p.val) = some (p.val, cause) →
    s.quiet p = true → s.module.stage = 4 →
    Completes (.terminationComplete p) s (fun t => (t.part p).mode = .empty ∧ t.liveJobs p = [] ∧ (t.round p).entries = [] ∧
      (∀ e, e ∈ t.sec.terminating → e.1 ≠ p.val) ∧ t.regs = s.regs)))

/-- MODULE_WIDE_LOSS (13 R347, R348): in a running module whose firmware is up or restarting, a loss restarts it with its cause and an
alert: no cluster holds a job, no engine holds a run, no packet awaits its answer, no line awaits repair, and no partition is ready. The
set-up registers stand. MODULE_RESTART_COMPLETE (13 R348, R350): firmware is up again once the fabric has passed, and a RELEASE that the loss
interrupted has ended; without the fabric nothing changes. -/
def Obligations.LossesStopTheModuleAndItRestarts : Prop :=
  (∀ (c : Fin 8) (s : State), 1 ≤ c.val → c.val ≤ 5 →
    (c.val = 4 → s.memory.fwLost = true ∨ ∃ r, r ∈ s.memory.repairs ∧ r.stage = .lost) →
    s.module.electrical = .running → s.module.stage = 4 ∨ s.module.stage = 6 →
    Completes (.moduleWideLoss c) s (fun t => t.module = { s.module with stage := 6, lossCause := c.val, alert := true } ∧
      (∀ k, (t.cluster k).job = none) ∧ (∀ e, (t.engine e).busy = false) ∧ t.links.sent = [] ∧ t.memory.repairs = [] ∧
      (∀ p, p < 8 → (t.part p).mode ≠ .ready ∧ (t.part p).mode ≠ .settingUp) ∧ t.regs = s.regs ∧
      (s.partCtl.busy = true → t.partCtl.busy = false ∧ t.partCtl.status = 0x0E))) ∧
  (∀ (s : State) (failed : List Nat), s.module.stage = 6 →
    Completes (.moduleRestartComplete true failed) s (fun t => t.module.stage = 4 ∧ t.spares.retestCore = none ∧
      t.module.lossCause = s.module.lossCause ∧ t.regs = s.regs ∧
      (∀ p, p < 8 → (s.part p).mode = .releasing → (∀ e, e ∈ s.sec.terminating → e.1 ≠ p) → (t.part p).mode = .empty)) ∧
    Completes (.moduleRestartComplete false failed) s (fun t => t = s))

/-- CE_BUCKET_DECAY (14 R353): every channel's correction bucket loses 1 for each 10 ms of module time, not below 0, and above clears at
0; the counts stand. ERROR_RECORD_ACK (14 R363): the source's held record is free, and the other sources keep theirs. PATROL_PASS (14
R370): once the period has passed, a pass is counted, saturating, and the next period begins.
REPAIR_PEER_ANSWER, REPAIR_PEER_TIMEOUT and REPAIR_HOST_READ_COMPLETE (14 R358 to R361), with no region waiting to be sieved: an
answer with the line writes it whole and the line leaves the repair queue. Without one, after the peer's refusal or 100 µs, the host is
asked where the value that the region's RGN_REPAIR had when the repair started allows it and the owner is not confidential; else, and when the
host fails too, no source is left. A peer that has 100 µs not yet passed is waited for. -/
def Obligations.ErrorStateAndLineRepair : Prop :=
  (
  ∀ (s : State),
    (∀ k, s.mark 2 + k = s.nowNat / 10000000 → 0 < k →
      Completes .ceBucketDecay s (fun t => t.mark 2 = s.mark 2 + k ∧ (∀ c, (t.ce c).bucket = (s.ce c).bucket - k ∧
        (t.ce c).above = ((s.ce c).above && decide (k < (s.ce c).bucket)) ∧ (t.ce c).corrected = (s.ce c).corrected ∧
        (t.ce c).uncorrectable = (s.ce c).uncorrectable) ∧ t.memory.errs = s.memory.errs ∧ t.mem = s.mem ∧ t.regs = s.regs)) ∧
    (∀ source : Fin 42, Completes (.errorRecordAck source) s (fun t => Tab.get (fun _ => none) t.memory.errs source = none ∧
      (∀ k, k ≠ source.val → Tab.get (fun _ => none) t.memory.errs k = Tab.get (fun _ => none) s.memory.errs k) ∧
      t.memory.ce = s.memory.ce ∧ t.mem = s.mem ∧ t.regs = s.regs)) ∧
    (bitAt (s.reg 0 0x28) 8 = true → s.firmwareUp = true →
      s.memory.sieve.patrolAt.toNat + fld (s.reg 0 0x28) 7 0 * 3600000000000 ≤ s.nowNat →
      Completes .patrolPass s (fun t => t.memory.sieve.patrolAt = s.time.now ∧
        t.memory.sieve.passes = min 65535 (s.memory.sieve.passes + 1) ∧ t.memory.sieve.queue = s.memory.sieve.queue ∧ t.regs = s.regs))) ∧
  (
  ∀ (pln : BitVec 34) (s : State) (r : Repair),
    let at' (t : State) (st : RepairStage) : Prop := (∀ x, x ∈ t.memory.repairs → x.pln = pln.toNat → x.stage = st) ∧ t.mem = s.mem
    let host (t : State) : Prop :=
      (bitAt r.sources 18 = true → s.confidential (s.region r.region).owner = false → at' t .host ∧
        (s.linkGood = true → t.out = s.out ++ hostReads ((s.region r.region).owner + 1) 64
          (4096 * fld r.sources 63 20 + (s.region r.region).offsetOf pln.toNat) 64)) ∧
      (bitAt r.sources 18 = false ∨ s.confidential (s.region r.region).owner = true → at' t .lost ∧ t.out = s.out)
    (s.repairAt pln.toNat false = some r →
      (s.memory.resieve = [] → ∀ l, Completes (.repairPeerAnswer pln (some l)) s (fun t => t.mem = (s.writeLine pln.toNat l).mem ∧
        ∀ x, x ∈ t.memory.repairs → x.pln ≠ pln.toNat)) ∧
      Completes (.repairPeerAnswer pln none) s host ∧
      (∀ since, r.stage = .peer since → since.toNat + 100000 ≤ s.nowNat → Completes (.repairPeerTimeout pln) s host) ∧
      (∀ since, r.stage = .peer since → s.nowNat < since.toNat + 100000 → Completes (.repairPeerTimeout pln) s (fun t => t = s))) ∧
    (s.repairAt pln.toNat true = some r →
      (s.memory.resieve = [] → ∀ l, Completes (.repairHostReadComplete pln (some l)) s (fun t =>
        t.mem = (s.writeLine pln.toNat l).mem ∧ ∀ x, x ∈ t.memory.repairs → x.pln ≠ pln.toNat)) ∧
      Completes (.repairHostReadComplete pln none) s (fun t => at' t .lost ∧ t.out = s.out ∧ t.links = s.links)))

/-- SIEVE_DESCRIPTOR and MOD_SIEVE_GO (14 R365, R366): a good request joins the sieves in order of arrival, for the stacks that hold lines
of it in ascending order; a refused one is answered with its status and joins nothing. SIEVE_STACK_DONE (14 R366 to R368): the oldest
sieve's next stack is summed up, its summary is written to its 256 bytes in host memory with the lines it checked, and with its last stack the sieve
leaves the queue. -/
def Obligations.SievesAreQueuedAndServedStackByStack : Prop :=
  (∀ (fn : FnId) (r : RingId) (s : State) (d : Line) (rest : List Line), (s.ring fn r).fetched = d :: rest → fn.val ≠ 0 →
    s.ringType fn r = 3 → lineNat d 0 1 = 0x24 → s.works (fn.val - 1) = true →
    let st := s.regionSieveStatus (fn.val - 1) d
    (st = 0 → Completes (.sieveDescriptor fn r) s (fun t => (∃ j, t.memory.sieve.queue = s.memory.sieve.queue ++ [j] ∧ j.id = vId d ∧
      j.fn = fn.val ∧ j.region = some (vRegion d) ∧ j.start = vStart d ∧ j.lines = vLines d ∧ j.summaries = [] ∧
      j.stackList = (s.region (vRegion d)).stackList.filter (fun k => decide (0 < (s.region (vRegion d)).linesIn k (vStart d / 64) (vLines d)))) ∧
      (t.ring fn r).fetched = rest ∧ t.mem = s.mem)) ∧
    (st ≠ 0 → Completes (.sieveDescriptor fn r) s (fun t => t.memory = s.memory ∧ t.mem = s.mem ∧
      t = (s.popFetched fn r).copyAnswer fn r 0x24 st (vId d) 0 0 s.nowNat []))) ∧
  (∀ (fn : FnId) (s : State), fn.val = 0 → s.firmwareUp = true →
    (s.memory.sieve.busy = true → Completes (.modSieveGo fn) s (fun t => t = s)) ∧
    (s.memory.sieve.busy = false → badSieve 1 s.sieveDesc = false → vStart s.sieveDesc + vLines s.sieveDesc ≤ 2 ^ 34 →
      Completes (.modSieveGo fn) s (fun t => t.memory.sieve.busy = true ∧ t.memory.sieve.status = 0 ∧
        (∃ j, t.memory.sieve.queue = s.memory.sieve.queue ++ [j] ∧ j.id = vId s.sieveDesc ∧ j.region = none ∧
          j.start = vStart s.sieveDesc ∧ j.lines = vLines s.sieveDesc) ∧ t.mem = s.mem)) ∧
    (s.memory.sieve.busy = false → badSieve 1 s.sieveDesc = true ∨ 2 ^ 34 < vStart s.sieveDesc + vLines s.sieveDesc →
      Completes (.modSieveGo fn) s (fun t => t.memory.sieve.busy = false ∧
        t.memory.sieve.status = (if badSieve 1 s.sieveDesc then 0x3D else 0x3C) ∧ t.memory.sieve.queue = s.memory.sieve.queue ∧
        t.mem = s.mem))) ∧
  (∀ (st : StackId) (s : State) (j : SieveJob) (rest : List SieveJob), s.memory.sieve.queue = j :: rest →
    j.stackList.head? = some st.val → s.firmwareUp = true →
    Completes (.sieveStackDone st) s (fun t => ∃ z : SieveSum, z.checked = (s.sieveSpan j st).1 ∧ z.cut = (s.sieveSpan j st).2.2 ∧
      (∃ a b, t.out = a ++ hostChunks (.hostWrite j.fn) ((sumBytes j.id st z s.nowNat).length + 1) (j.summary + 256 * st.val)
        (sumBytes j.id st z s.nowNat) ++ b) ∧
      (j.stackList.drop 1 ≠ [] → t.memory.sieve.queue =
        { j with stackList := j.stackList.drop 1, summaries := j.summaries ++ [(st.val, z)] } :: rest) ∧
      (j.stackList.drop 1 = [] → t.memory.sieve.queue = rest) ∧ t.regs = s.regs))

/-! ### Motra (15) -/

/-- PORT_TRAIN, TRAINING_COMPLETE, TRAINING_TIMEOUT, LANE_MARK, LANE_RETRAIN_DUE, PORT_DISABLE and ID_LOCK (15 R374 to R377, R390, R391;
12 R329; 21 R481). Training begins while id_lock is 1 and the port is enabled, and never otherwise; it ends with the port up on the lowest
four, or two, passing unmarked lanes and a session begun where none is, or with the port down and reason 1 or 3; a third timeout leaves it down
with reason 2. A marked lane stays in service until its training falls due. A disabled port is down with reason 6, its peer told by EVENT
2 where a session can carry it. The locked ID stands, and every enabled port that is down trains. The port's line is latched, and no other
port changes. In a running module with no test on the port, its lanes are driven while it trains, driven where they are in service and idle
where they are not once it is up, terminated after the third failure, and high-Z when it is disabled. -/
def Obligations.PortsTrainAndGoDown : Prop :=
  (∀ (p : PortId) (s : State),
    let n := p.val
    let x := s.port n
    let frame (t : State) : Prop := t.mem = s.mem ∧ t.clusters = s.clusters ∧ t.links.sent.length ≤ s.links.sent.length ∧
      ∀ k, k ≠ n → t.port k = s.port k
    let live : Prop := s.module.electrical = .running ∧ x.test = none
    let lanes (t : State) (f : Nat → LaneState) : Prop := live → ∀ i, i < 5 → t.lane n i = f i
    let latched (t : State) : Prop := (t.icLine (28 + n)).pending = true
    let trains (t : State) : Prop := (t.port n).mode = .training ∧ (t.port n).since = s.time.now ∧
      (t.port n).trainings = satAdd 65535 x.trainings 1 ∧ (t.port n).lanes = 0 ∧ latched t ∧ lanes t (fun _ => .driven)
    let down (t : State) (reason : Nat) : Prop := (t.port n).mode = .down ∧ (t.port n).reason = reason ∧ latched t
    let able : Prop := s.links.idLock = true ∧ s.portEnabled n = true
    (∀ fn : FnId, fn.val = 0 → s.bar0 0 = true → x.mode ≠ .disabled →
      (able → Completes (.portTrain fn p) s (fun t => trains t ∧ frame t ∧ t.regs = s.regs)) ∧
      (¬able → Completes (.portTrain fn p) s (fun t => (t.port n).mode = x.mode ∧ frame t ∧ t.regs = s.regs))) ∧
    (∀ passing : BitVec 5, x.mode = .training → x.test = none →
      let map := laneMap (passing &&& ~~~x.marked)
      Completes (.trainingComplete p passing none) s (fun t => down t 3 ∧ frame t ∧ t.regs = s.regs) ∧
      (∀ d : BitVec 9, (map = 0 → Completes (.trainingComplete p passing (some d)) s (fun t => down t 1 ∧ frame t ∧ t.regs = s.regs)) ∧
        (map ≠ 0 → Completes (.trainingComplete p passing (some d)) s (fun t =>
          t.port n = { x with mode := if popcount 5 map.toNat = 4 then .up else .half, lanes := map, peer := d.toNat, failures := 0 } ∧
          (t.session d.toNat).portsDown = none ∧ (t.session d.toNat).up = (s.session d.toNat).up ∧
          ((s.session d.toNat).up = false → (s.session d.toNat).stage = 0 → (t.session d.toNat).stage = 1) ∧ latched t ∧
          lanes t (fun i => if bitAt map i then .driven else .idle) ∧ frame t ∧ t.regs = s.regs)))) ∧
    (x.isUp = false → x.mode ≠ .disabled → x.trainingDue = true → x.test = none →
      (x.since.toNat + 50000000 ≤ s.nowNat →
        (x.failures < 2 → able →
          Completes (.trainingTimeout p) s (fun t => trains t ∧ (t.port n).failures = x.failures + 1 ∧ frame t ∧ t.regs = s.regs)) ∧
        (x.failures = 2 → Completes (.trainingTimeout p) s (fun t => down t 2 ∧ (t.port n).failures = 3 ∧
          (able → lanes t (fun _ => .terminated)) ∧ frame t ∧ t.regs = s.regs))) ∧
      (s.nowNat < x.since.toNat + 50000000 → Completes (.trainingTimeout p) s (fun t => t = s))) ∧
    (∀ l : LaneId, x.isUp = true → bitAt x.lanes l.val = true → bitAt x.marked l.val = false →
      Completes (.laneMark p l) s (fun t => bitAt (t.port n).marked l.val = true ∧
        (∀ k, k < 5 → k ≠ l.val → bitAt (t.port n).marked k = bitAt x.marked k) ∧ (t.port n).lanes = x.lanes ∧
        (t.port n).mode = x.mode ∧ (t.port n).markDue = some s.time.now ∧ frame t ∧ t.regs = s.regs)) ∧
    (∀ t0, x.markDue = some t0 → able → s.links.sent.any (fun w => w.port == some n && bitAt w.header 4) = false ∨
        t0.toNat + 100000000 ≤ s.nowNat →
      Completes (.laneRetrainDue p) s (fun t => trains t ∧ (t.port n).markDue = none ∧ frame t ∧ t.regs = s.regs)) ∧
    (∀ fn : FnId, fn.val = 0 → s.bar0 0 = true → x.mode ≠ .disabled →
      Completes (.portDisable fn p) s (fun t => (t.port n).mode = .disabled ∧ (t.port n).reason = 6 ∧ latched t ∧
        lanes t (fun _ => .highZ) ∧ t.reg 0 (0x72000 + 0x20 * n) = 0 ∧ frame t ∧
        (x.isUp = true → x.peer < 512 → (s.session x.peer).ready = true →
          ∃ h, Output.frame n h [] ∈ t.out ∧ fld h 3 0 = 9 ∧ fld h 127 64 = 2)))) ∧
  (∀ (fn : FnId) (id : BitVec 9) (s : State), fn.val = 0 → s.bar0 0 = true →
    (s.links.idLock = true → Completes (.idLock fn id) s (fun t => t = s)) ∧
    (s.links.idLock = false → Completes (.idLock fn id) s (fun t => t.links.moduleId = id ∧ t.links.idLock = true ∧
      (∀ k, k < 16 → (s.port k).mode = .down → s.portEnabled k = true → (t.port k).mode = .training) ∧
      (∀ k, (s.port k).mode ≠ .down → t.port k = s.port k) ∧ t.mem = s.mem ∧ t.regs = s.regs)))

/-- PACKET_TIMEOUT, PORT_WAIT_TIMEOUT, SESSION_RETRY and SESSION_PORTS_DOWN_TIMEOUT (15 R376, R382, R383, R385): a packet unanswered for
100 µs is sent once more, then it is given up and its copy fails with 0x36; so are the packets of a copy that have waited 50 ms for a port
or a session. A session that failed is tried again over a port to the peer, or its ports train; one whose ports have all been down for
1 s is destroyed. Before its time none of these happens. -/
def Obligations.PacketsAndSessionsTimeOut : Prop :=
  let failed (id : Nat) (s t : State) : Prop := t.copies.map (fun c => (c.id, c.status)) =
    s.copies.map (fun c => (c.id, if c.id = id ∧ (c.status = 0 ∨ c.status = 0x37) then 0x36 else c.status))
  (∀ (tag : BitVec 16) (s : State) (w : Sent), s.links.sent.find? (fun w => w.tag == tag && w.port.isSome) = some w → w.typ ≠ 7 →
    (s.nowNat < w.since.toNat + 100000 → Completes (.packetTimeout tag) s (fun t => t = s)) ∧
    (w.since.toNat + 100000 ≤ s.nowNat →
    let late (t : State) : Prop := (t.port (w.port.getD 0)).timeouts = satAdd 4095 (s.port (w.port.getD 0)).timeouts 1 ∧ t.mem = s.mem ∧
      t.regs = s.regs ∧ t.clusters = s.clusters
    (w.tries < 2 → Completes (.packetTimeout tag) s (fun t => late t ∧ t.copies = s.copies ∧
      t.links.sent.length = s.links.sent.length ∧
      ∀ x, x ∈ t.links.sent → x.tag = tag → x.dest = w.dest → x.tries = 2 ∧ x.since = s.time.now)) ∧
    (2 ≤ w.tries → Completes (.packetTimeout tag) s (fun t => late t ∧
      (∀ x, x ∈ t.links.sent → ¬(x.tag = tag ∧ x.dest = w.dest)) ∧
      ∀ id, w.copy = some id → failed id s t)))) ∧
  (∀ (id : Nat) (s : State) (w : Sent), w ∈ s.links.sent → w.copy = some id → w.port = none → w.since.toNat + 50000000 ≤ s.nowNat →
    Completes (.portWaitTimeout id) s (fun t => (∀ x, x ∈ t.links.sent → x ∈ s.links.sent ∧ ¬(x.tag = w.tag ∧ x.dest = w.dest)) ∧
      failed id s t ∧ t.mem = s.mem ∧ t.regs = s.regs ∧ t.out = s.out)) ∧
  (∀ (d : BitVec 9) (s : State) (t0 : W64), (s.session d.toNat).retryAt = some t0 →
    (s.nowNat < t0.toNat → Completes (.sessionRetry d) s (fun t => t = s)) ∧
    (t0.toNat ≤ s.nowNat → ∀ n, s.portTo d.toNat = some n → Completes (.sessionRetry d) s (fun t =>
      t.session d.toNat = { Session.reset with stage := 1 } ∧
      t.out = s.out ++ [.frame n (frameHeader 0xA 1 4 s.links.moduleId.toNat d.toNat 0 0 0) (s.sessionMessage d.toNat 1)] ∧
      t.links.ports = s.links.ports ∧ t.mem = s.mem ∧ t.regs = s.regs)) ∧
    (t0.toNat ≤ s.nowNat → s.portTo d.toNat = none → s.links.idLock = true → Completes (.sessionRetry d) s (fun t => (t.session d.toNat).retryAt = none ∧
      (∀ n, n < 16 → (s.port n).mode = .down → (s.port n).reason = 4 → (s.port n).peer = d.toNat → s.portEnabled n = true →
        (t.port n).mode = .training) ∧ t.mem = s.mem ∧ t.regs = s.regs ∧ t.out = s.out))) ∧
  (∀ (d : BitVec 9) (s : State) (t0 : W64), (s.session d.toNat).portsDown = some t0 → s.portTo d.toNat = none →
    (s.nowNat < t0.toNat + 1000000000 → Completes (.sessionPortsDownTimeout d) s (fun t => t = s)) ∧
    (t0.toNat + 1000000000 ≤ s.nowNat → Completes (.sessionPortsDownTimeout d) s (fun t => t.session d.toNat = Session.reset ∧
      (∀ e, e ≠ d.toNat → t.session e = s.session e) ∧ t.links.ports = s.links.ports ∧ t.links.sent = s.links.sent ∧ t.mem = s.mem ∧
      t.regs = s.regs ∧ t.out = s.out)))

/-- Frames (15 R379 to R387; 14 R359; 19 R460): one whose header breaks a rule, and a protected one with no session, a bad tag or an old counter, is
discarded and counted and changes nothing else; one for a partition that replays, or whose journal lacks room, is not taken; a request on a port
that no partition holds is answered by NAK. Of one that a port takes: a WRITE with reduce op 0 writes its lines and is answered by ACK; a READ by DATA, or by NAK where a line is no line of the
partition or fails; an ATOMIC is performed at the controller once per tag and answered with the old value; an ACK or a NAK ends its
packet, a NAK failing its copy with 0x36; DATA and NAK to a REPAIR answer the line under repair; a REPAIR is answered by the line of a
locked shared-immutable region; a COLL adds its member; EVENT 1 ends the session and trains the port again, and EVENT 2 trains it again. A SESSION message that proves
nothing fails the attempt; the last one makes the session. (Codes inside an ATOMIC: log 42.) -/
def Obligations.FramesAreTakenAndAnswered : Prop :=
  ∀ (port : PortId) (fr : Frame) (s : State),
    let n := port.val
    let u := s.counted fr
    let frames : List (Instr × Nat) := [(.write port fr, 1), (.read port fr, 2), (.data port fr, 3), (.atomic port fr, 4), (.ack port fr, 5),
      (.nak port fr, 6), (.repair port fr, 7), (.coll port fr, 8), (.event port fr, 9), (.session port fr true, 10),
      (.session port fr false, 10)]
    (∀ i typ, (i, typ) ∈ frames → (s.port n).isUp = true → s.headerOk fr typ = false →
      (∀ q, s.portOwner n = some q → Enters s n fr q) →
      Completes i s (fun t => t = s.modPort n (fun x => { x with discarded := satAdd 4095 x.discarded 1 }))) ∧
    (∀ i typ, (i, typ) ∈ frames → typ ≠ 10 → (s.port n).isUp = true → s.headerOk fr typ = true →
      (s.session fr.src).up = false ∨ fr.tagOk = false ∨ (s.session fr.src).fresh fr.counter = false →
      (∀ q, s.portOwner n = some q → Enters s n fr q) →
      Completes i s (fun t => t = s.modPort n (fun x => { x with discarded := satAdd 4095 x.discarded 1 }))) ∧
    (∀ i typ p, (i, typ) ∈ frames → typ ∈ [1, 2, 4, 5, 8] → s.portOwner n = some p →
      s.replaying p = true ∨ s.journalRoom p (1 + fr.payload.length) = false → Completes i s (fun t => t = s)) ∧
    (∀ i typ, (i, typ) ∈ frames → typ ∈ [1, 2, 4, 7] → Accepted s n fr typ → s.portOwner n = none →
      Completes i s (fun t => t = u.nak n fr ∧ t.mem = s.mem)) ∧
    (∀ p, Enters s n fr p →
      let v := s.taken fr p
      (Accepted s n fr 1 → fr.addr / 2 ^ 40 = 0 → v.collWrite p 0 fr.dev fr.payload = none →
        (∀ ls, v.frameLines p fr.dev fr.payload.length = some ls → (∀ e, e ∈ ls → v.spotWritable p (.dev e.1 e.2) = true) →
          Completes (.write port fr) s (fun t => Answered v t n fr 5 [] ∧ t.regs = s.regs ∧ t.memory.regions = s.memory.regions ∧
            t.mem = ((ls.zip fr.payload).foldl (fun (a : State) e => a.writeLine e.1.2 e.2) v).mem)) ∧
        (v.frameLines p fr.dev fr.payload.length = none → Completes (.write port fr) s (fun t => t = v.nak n fr ∧ t.mem = s.mem)) ∧
        (∀ ls e, v.frameLines p fr.dev fr.payload.length = some ls → e ∈ ls → v.spotWritable p (.dev e.1 e.2) = false →
          Completes (.write port fr) s (fun t => t = v.nak n fr ∧ t.mem = s.mem))) ∧
      (Accepted s n fr 2 → (v.frameLines p fr.dev (fr.addr / 2 ^ 40 + 1) = none →
          Completes (.read port fr) s (fun t => t = v.nak n fr ∧ t.mem = s.mem)) ∧
        (∀ ls a r, v.frameLines p fr.dev (fr.addr / 2 ^ 40 + 1) = some ls → v.readPlns p (ls.map (·.2)) = (a, r) →
          (∀ l, r = some l → Completes (.read port fr) s (fun t => Answered a t n fr 3 l ∧ t.mem = a.mem)) ∧
          (r = none → Completes (.read port fr) s (fun t => t = a.nak n fr)))) ∧
      (Accepted s n fr 4 →
        (∀ e, (v.session fr.src).atomics.find? (fun e => e.1 == fr.tag) = some e →
          Completes (.atomic port fr) s (fun t => Answered v t n fr 5 [oldLine e.2] ∧ t.mem = s.mem)) ∧
        ((v.session fr.src).atomics.find? (fun e => e.1 == fr.tag) = none →
          fr.dev % 4 ≠ 0 ∨ 3 < fld (fr.payload.headD 0) 3 0 ∨ v.translate p fr.dev = none →
          Completes (.atomic port fr) s (fun t => t = v.nak n fr ∧ t.mem = s.mem)) ∧
        (∀ i pln a w, (v.session fr.src).atomics.find? (fun e => e.1 == fr.tag) = none → v.translate p fr.dev = some (i, pln) →
          fr.dev % 4 = 0 → fld (fr.payload.headD 0) 3 0 ≤ 3 → v.spotWritable p (.dev i pln) = true →
          v.readLine (ctlOf pln) pln p = (a, some w) →
          let old : W32 := BitVec.ofNat 32 (lineNat w (fr.dev % 64) 4)
          let l := fr.payload.headD 0
          let new := atomicNew (0x30 + fld l 3 0) old (BitVec.ofNat 32 (lineNat l 4 4)) (BitVec.ofNat 32 (lineNat l 8 4))
          Completes (.atomic port fr) s (fun t => Answered a t n fr 5 [oldLine old] ∧
            (t.session fr.src).atomics = ((fr.tag, old) :: (v.session fr.src).atomics).take 4096 ∧
            (∀ x, new = some x → t.mem = (a.writeLine pln (setLine w (fr.dev % 64) 4 x.toNat)).mem) ∧ (new = none → t.mem = a.mem)))) ∧
      (Accepted s n fr 5 → Completes (.ack port fr) s (fun t => t.mem = s.mem ∧ t.regs = s.regs ∧
        (v.asked fr [1, 4] = none → t = v) ∧
        (v.asked fr [1, 4] ≠ none → ∀ x, x ∈ t.links.sent → ¬(x.tag = fr.tag ∧ x.dest = fr.src)))) ∧
      (Accepted s n fr 6 → s.asked fr [7] = none → Completes (.nak port fr) s (fun t => t.mem = s.mem ∧ t.regs = s.regs ∧
        (v.asked fr [1, 2, 4] = none → t = v) ∧
        (∀ w, v.asked fr [1, 2, 4] = some w → (∀ x, x ∈ t.links.sent → ¬(x.tag = fr.tag ∧ x.dest = fr.src)) ∧
          (∀ id, w.copy = some id → t.copies.map (fun c => (c.id, c.status)) =
            s.copies.map (fun c => (c.id, if c.id = id ∧ (c.status = 0 ∨ c.status = 0x37) then 0x36 else c.status)))))) ∧
      (Accepted s n fr 3 → s.asked fr [7] = none →
        (v.asked fr [2] = none → Completes (.data port fr) s (fun t => t = v)) ∧
        (∀ w id, v.asked fr [2] = some w → w.copy = some id →
          Completes (.data port fr) s (fun t => t = (v.retryAnswered p w).copyData id w fr.payload)) ∧
        (∀ w, v.asked fr [2] = some w → w.copy = none → Completes (.data port fr) s (fun t => t = v.dropSent w.tag w.dest))) ∧
      (Accepted s n fr 8 →
        let c := { v with links := { v.links with colls := v.links.colls ++ [(p, fr.src, fr.payload.headD 0, v.time.now)] } }
        let joins := s.copies.filter (fun c => c.partition == p && c.coll.isSome)
        Completes (.coll port fr) s (fun t => t = joins.foldl (fun a k => a.collTry k.id) c))) ∧
    (Accepted s n fr 3 → ∀ w, s.asked fr [7] = some w →
      Completes (.data port fr) s (fun t => t = u.peerAnswers (w.repair.getD 0) fr.payload.head?)) ∧
    (Accepted s n fr 6 → ∀ w, s.asked fr [7] = some w →
      Completes (.nak port fr) s (fun t => t = u.peerAnswers (w.repair.getD 0) none)) ∧
    (Accepted s n fr 7 → ∀ p, s.portOwner n = some p →
      let r := s.region (fr.addr % 256)
      let o := 64 * (fr.addr / 256)
      (r.valid = true → r.st = 2 → r.locked = true → r.sharedImm = true → r.readable p = true → s.keyed r = true →
        o < 67108864 * r.size → ∀ a l, u.readLine (ctlOf (r.place o)) (r.place o) 0xFF = (a, some l) →
        Completes (.repair port fr) s (fun t => Answered a t n fr 3 [l] ∧ t.mem = a.mem)) ∧
      ((r.valid && r.st == 2 && r.locked && r.sharedImm && r.readable p && s.keyed r) = false ∨ 67108864 * r.size ≤ o →
        Completes (.repair port fr) s (fun t => t = u.nak n fr ∧ t.mem = s.mem))) ∧
    (Accepted s n fr 9 →
      (fr.addr = 1 → s.links.idLock = true → s.portEnabled n = true →
        Completes (.event port fr) s (fun t => (t.session fr.src).up = false ∧ (t.port n).mode = .training ∧ (t.port n).reason = 5 ∧
          t.mem = s.mem ∧ ∀ k, k ≠ n → t.port k = s.port k)) ∧
      (fr.addr = 2 → Completes (.event port fr) s (fun t => t.mem = s.mem ∧ (∀ k, k ≠ n → t.port k = s.port k) ∧
        (s.links.idLock = true → s.portEnabled n = true → (t.port n).mode = .training) ∧
        (s.links.idLock = false ∨ s.portEnabled n = false → (t.port n).mode = .down)))) ∧
    ((s.port n).isUp = true → s.headerOk fr 10 = true →
      Completes (.session port fr false) s (fun t => (t.session fr.src).up = false ∧
        (t.session fr.src).retryAt = some (s.time.now + 1000000000#64) ∧ (t.port n).mode = .down ∧ (t.port n).reason = 4 ∧ t.mem = s.mem) ∧
      ((s.session fr.src).stage = 0 → Completes (.session port fr true) s (fun t => (t.session fr.src).stage = 2 ∧
        t.links.ports = s.links.ports ∧ t.mem = s.mem)) ∧
      ((s.session fr.src).stage = 1 → Completes (.session port fr true) s (fun t => (t.session fr.src).stage = 2 ∧
        t.links.ports = s.links.ports ∧ t.mem = s.mem ∧
        t.out = s.out ++ (if s.links.moduleId.toNat < fr.src then
          [.frame n (frameHeader 0xA 1 4 s.links.moduleId.toNat fr.src 0 0 0) (s.sessionMessage fr.src 2)] else []))) ∧
      (2 ≤ (s.session fr.src).stage → Completes (.session port fr true) s (fun t => (t.session fr.src).up = true ∧
        (t.session fr.src).key = Config.sessionKey (fr.payload.flatMap lineBytes) ∧ (t.session fr.src).atomics = [] ∧
        t.links.ports = s.links.ports ∧ t.mem = s.mem)))

/-! ### Security (16; 06 R188 to R191) -/

/-- NONCE, UPDATE, COMMIT, ENROL, REVOKE and UNLOCK begin (16 R402, R410): one operation at a time, from physical function 0; NONCE writes
the fresh nonce to the argument block and makes it current where the block's other bytes are zero (00 R11), and the last three use up the current
nonce; while busy each is ignored. SEC_OPERATION_COMPLETE ends them: one whose argument block did not come ends with 0x02, and a NONCE with 0x00
or, of a bad block, 0x01; UPDATE puts a good image into the bank that did not boot, or the library into flash with its load
begun, and refuses a bad one by its status (R400), with 0x09 where flash fails; COMMIT raises a floor to the running version, never lowering it (R399); an authorised
ENROL or REVOKE changes its slot alone and extends slot 4 (R398, R401); a bad UNLOCK counts, and a good one measures its token and opens
the debug port once no confidential partition is left (R410, R411). LIBRARY_LOAD (06 R191): once every run has ended the library that
flash names is loaded, if it passes its check. -/
def Obligations.SecurityOperationsBeginAndEnd : Prop :=
  (∀ (fn : FnId) (s : State) (arg : Option Line) (fresh : BitVec 256), fn.val = 0 → s.secServes = true → s.bar0 0 = true →
    let ops : List (Instr × Nat) := [(.update fn arg, 2), (.commitFloor fn arg, 3), (.enrol fn arg, 4), (.revoke fn arg, 5),
      (.unlock fn arg, 6)]
    let begun (op : Nat) (n : Option (BitVec 256)) : State := { s with sec := { s.sec with
      busy := true, op := arg.map (fun l => { op := op, arg := l, nonce := s.sec.nonce }), lost := if arg.isNone then op else 0, nonce := n } }
    let good : Bool := arg.any (fun l => zeroBytes l 32 64)
    (s.sec.busy = false → (∀ i op, (i, op) ∈ ops → Completes i s (fun t => t = begun op (if 4 ≤ op then none else s.sec.nonce))) ∧
      (good = true → Completes (.nonce fn ⟨arg, fresh⟩) s (fun t =>
        t = (begun 1 (some fresh)).hostWrite 0 (64 * fld (s.reg 0 0x90000) 63 6) (toBytes 32 fresh.toNat))) ∧
      (good = false → Completes (.nonce fn ⟨arg, fresh⟩) s (fun t => t = begun 1 s.sec.nonce))) ∧
    (s.sec.busy = true → (∀ i op, (i, op) ∈ ops → Completes i s (fun t => t = s)) ∧
      Completes (.nonce fn ⟨arg, fresh⟩) s (fun t => t = s))) ∧
  (∀ (s : State) (body sig : Option (List Byte)) (flashOk : Bool),
    (s.sec.busy = false → Completes (.secOperationComplete body sig flashOk) s (fun t => t = s)) ∧
    (s.sec.busy = true → s.sec.op = none → Completes (.secOperationComplete body sig flashOk) s (fun t =>
      t.sec.busy = false ∧ t.sec.status = (if s.sec.lost = 6 ∧ 16 ≤ s.sec.failedUnlocks then 8 else 2) ∧ t.sec.flash = s.sec.flash ∧
      t.sec.nonce = s.sec.nonce ∧ t.sec.failedUnlocks = (if s.sec.lost = 6 then satAdd 255 s.sec.failedUnlocks 1 else s.sec.failedUnlocks) ∧
      t.sec.slots = s.sec.slots ∧ t.mem = s.mem ∧ t.regs = s.regs)) ∧
    (∀ o, s.sec.busy = true → s.sec.op = some o → o.op = 1 → Completes (.secOperationComplete body sig flashOk) s (fun t =>
      t.sec.busy = false ∧ t.sec.status = (if zeroBytes o.arg 32 64 then 0 else 1) ∧ t.sec.flash = s.sec.flash ∧
      t.sec.nonce = s.sec.nonce ∧ t.sec.slots = s.sec.slots ∧ t.mem = s.mem ∧ t.regs = s.regs))) ∧
  (∀ (s : State) (o : SecOp) (body sig : Option (List Byte)), s.sec.busy = true → s.sec.op = some o →
    let f := s.sec.flash
    let ends (t : State) (st : Nat) : Prop := t.sec.busy = false ∧ t.sec.op = none ∧ t.sec.status = BitVec.ofNat 8 st ∧
      t.mem = s.mem ∧ t.regs = s.regs
    let secs (st : Nat) (flashOk : Bool) (P : State → Prop) : Prop :=
      Completes (.secOperationComplete body sig flashOk) s (fun t => ends t st ∧ P t)
    (∀ bs, o.op = 2 → body = some bs →
      let g := lineNat o.arg 0 1
      let img := bs.take (lineNat o.arg 4 4)
      lineNat o.arg 4 4 ≤ bs.length → zeroBytes o.arg 1 4 = true → zeroBytes o.arg 16 64 = true →
      (g ≤ 2 → (imageLayout g img = false → secs 1 true (fun t => t.sec.flash = f)) ∧
        (imageLayout g img = true → imageSigned img = false → secs 3 true (fun t => t.sec.flash = f)) ∧
        (imageLayout g img = true → imageSigned img = true → imageVersion img < f.floor g → secs 4 true (fun t => t.sec.flash = f)) ∧
        (imageLayout g img = true → imageSigned img = true → f.floor g ≤ imageVersion img → secs 9 false (fun t =>
          t.sec.flash.bank g (1 - fld s.sec.bootedBank g g) = [] ∧ t.sec.flash.floors = f.floors)) ∧
        (imageLayout g img = true → imageSigned img = true → f.floor g ≤ imageVersion img → secs 0 true (fun t =>
          t.sec.flash.bank g (1 - fld s.sec.bootedBank g g) = img ∧ t.sec.flash.floors = f.floors ∧ t.sec.flash.library = f.library ∧
          (∀ k, k ≠ 2 * g + (1 - fld s.sec.bootedBank g g) →
            Tab.get (fun _ => none) t.sec.flash.banks k = Tab.get (fun _ => none) f.banks k)))) ∧
      (g = 3 → s.anyTdiHeld = true → secs 0x0A true (fun t => t.sec.flash = f)) ∧
      (g = 3 → s.anyTdiHeld = false → ∀ st, f.checkLibrary img = .inr st → secs st true (fun t => t.sec.flash = f)) ∧
      (g = 3 → s.anyTdiHeld = false → ∀ x, f.checkLibrary img = .inl x → secs 0 true (fun t => t.sec.flash.library = some img ∧
        t.sec.loading = true ∧ t.sec.library = s.sec.library ∧ t.sec.flash.banks = f.banks ∧ t.sec.flash.floors = f.floors))) ∧
    (∀ v, o.op = 3 → lineNat o.arg 0 1 ≤ 7 → zeroBytes o.arg 1 64 = true →
      s.runningVersion (lineNat o.arg 0 1) = some v → secs 0 true (fun t => t.sec.flash.floor (lineNat o.arg 0 1) =
        max v (f.floor (lineNat o.arg 0 1)) ∧ (∀ k, k ≠ lineNat o.arg 0 1 → t.sec.flash.floor k = f.floor k) ∧
        t.sec.flash.banks = f.banks) ∧ secs 9 false (fun t => t.sec.flash = f)) ∧
    (o.op = 4 ∨ o.op = 5 →
      let slot := lineNat o.arg 0 1
      let auth := lineNat o.arg 2 1
      let key : Option (List Byte) := if o.op = 4 then body.map (·.take 1312) else none
      let made : Option OwnerKey := key.map (fun k => { key := k, rights := BitVec.ofNat 8 (lineNat o.arg 1 1) })
      1 ≤ slot → slot ≤ 4 → lineNat o.arg 1 1 ≤ 3 → auth ≤ 4 → zeroBytes o.arg 3 8 = true → zeroBytes o.arg 24 64 = true →
      (s.slotRefused o.op slot = true → secs 7 true (fun t => t.sec.flash = f)) ∧
      (s.slotRefused o.op slot = false → (o.op = 4 → ∃ b, body = some b ∧ 1312 ≤ b.length) →
        (f.filled = [] ∨ (∃ n g k, o.nonce = some n ∧ sig = some g ∧ f.owner auth = some k ∧ bitAt k.rights 0 = true ∧
          Config.verify k.key (ownerMessage o.op slot (lineNat o.arg 1 1) key n) g = true) →
          secs 0 true (fun t => t.sec.flash.owner slot = made ∧ (∀ k, k ≠ slot → t.sec.flash.owner k = f.owner k) ∧
            t.slotValue 4 = sha3 (toBytes 32 (s.slotValue 4).toNat ++ toBytes 32 (sha3 t.sec.flash.ownerSet).toNat) ∧
            (∀ k, k ≠ 4 → t.slotValue k = s.slotValue k) ∧ t.sec.flash.banks = f.banks)) ∧
        (∀ n g k, f.filled ≠ [] → o.nonce = some n → sig = some g → f.owner auth = some k →
          bitAt k.rights 0 = false ∨ Config.verify k.key (ownerMessage o.op slot (lineNat o.arg 1 1) key n) g = false →
          secs 3 true (fun t => t.sec.flash = f)))) ∧
    (o.op = 6 → s.tokenStatus o body ≠ 0 ∨ 16 ≤ s.sec.failedUnlocks →
      secs (if 16 ≤ s.sec.failedUnlocks then 8 else s.tokenStatus o body) true (fun t =>
        t.sec.failedUnlocks = satAdd 255 s.sec.failedUnlocks 1 ∧ t.sec.debugOpen = s.sec.debugOpen ∧ t.sec.flash = f)) ∧
    (o.op = 6 → s.tokenStatus o body = 0 → s.sec.failedUnlocks < 16 → Completes (.secOperationComplete body sig true) s (fun t =>
      t.sec.busy = false ∧ t.sec.status = 0 ∧ t.sec.failedUnlocks = s.sec.failedUnlocks ∧ t.sec.flash.banks = f.banks ∧
      t.slotValue 6 = sha3 (toBytes 32 (s.slotValue 6).toNat ++ toBytes 32 (sha3 (body.getD [])).toNat) ∧
      (s.sec.terminating = [] → (∀ p, p < 8 → s.confidential p = false) → t.sec.debugOpen = true ∧ t.sec.opening = false) ∧
      (∀ p, p < 8 → s.confidential p = true → t.sec.debugOpen = s.sec.debugOpen ∧ t.sec.opening = true)))) ∧
  (∀ (s : State) (image : List Byte), s.sec.loading = false ∨ s.engines.any (fun e => e.2.busy) = true →
    Completes (.libraryLoad image) s (fun t => t = s)) ∧
  (∀ (s : State), s.sec.loading = true → s.engines.any (fun e => e.2.busy) = false →
    Completes (.libraryLoad s.sec.flash.lib) s (fun t => t.sec.loading = false ∧ t.regs = s.regs ∧
      (∀ l, s.sec.flash.checkLibrary s.sec.flash.lib = .inl l → t.sec.library = some l ∧ t.slotValue 3 =
        sha3 (toBytes 32 (s.slotValue 3).toNat ++ toBytes 32 (sha3 s.sec.flash.lib).toNat)) ∧
      (∀ st, s.sec.flash.checkLibrary s.sec.flash.lib = .inr st → t.sec.library = s.sec.library ∧ t.sec.slots = s.sec.slots)))

/-- The identity and attestation messages, the TDI states and the debug port (16 R393, R395, R403, R407, R408, R411, R412; 12 R329; 00 R7):
a message that arrives latches line 59; a served one leaves its answer on the mailbox and changes nothing else, but that KEY_EXCHANGE makes the
session, IDE_KEY_PROGRAM the function's stream keys, and a request for measurements during an UNLOCK waits; one that is not served has no
answer. TDI_LOCK and TDI_RUN move a TDI one state on, and from any other state nowhere; TDI_ERROR moves it to ERROR and terminates a confidential
partition with cause 2. An open debug port selects its register, shifts it out, or writes it; a closed one does nothing. (Wire forms of the
published standards: log 7.) -/
def Obligations.IdentityInterfacesAndDebugPortAnswer : Prop :=
  (∀ (s : State) (nonce : BitVec 256) (bs : List Byte),
    let h := s.doeHeard
    (s.module.electrical = .running → (h.icLine 59).pending = true) ∧
    (s.secServes = true →
      (∀ index : BitVec 8, (reportOf index.toNat = none →
          Completes (.getMeasurements index nonce) s (fun t => t = h.answerDoe 0x7F (toBytes 1 index.toNat))) ∧
        (∀ p, reportOf index.toNat = some p →
          (s.sec.opening = false → (∀ o, s.sec.op = some o → o.op ≠ 6) → Completes (.getMeasurements index nonce) s (fun t =>
            t = { h with out := h.out ++ [.doe (h.report p nonce ++ Config.sign 1 (h.report p nonce))] })) ∧
          (s.sec.opening = true ∨ (∃ o, s.sec.op = some o ∧ o.op = 6) → Completes (.getMeasurements index nonce) s (fun t =>
            t = { h with sec := { h.sec with waitingReports := h.sec.waitingReports ++ [(index.toNat, nonce)] } })))) ∧
      Completes (.getCertificate 0) s (fun t => t = { h with
        out := h.out ++ [.doe (Config.certificateChain s.sec.bootId [s.slotValue 0, s.slotValue 1, s.slotValue 2])] }) ∧
      (∀ k, k ≠ 0 → Completes (.getCertificate k) s (fun t => t = h.answerDoe 0x7F (toBytes 1 k))) ∧
      Completes (.challenge bs) s (fun t => t = { h with
        out := h.out ++ [.doe (Config.protocolAnswer 0x03 bs ++ Config.sign 1 bs)] }) ∧
      Completes (.keyExchange bs) s (fun t => t = { h with
        sec := { h.sec with spdm := true }, out := h.out ++ [.doe (Config.protocolAnswer 0x64 bs)] }) ∧
      (∀ fn : FnId, s.sec.spdm = true → Completes (.ideKeyProgram fn bs) s (fun t => t.fn fn = { s.fn fn with ide := true } ∧
        (∀ k, k ≠ fn.val → t.fn k = s.fn k) ∧ t = { h with fns := t.fns, out := h.out ++ [.doe (Config.protocolAnswer 0x00 bs)] })) ∧
      (∀ fn : FnId, fn.val ≠ 0 → Completes (.getDeviceInterfaceReport fn nonce) s (fun t => t = { h with
        out := h.out ++ [.doe (h.report (some (fn.val - 1)) nonce)] }))) ∧
    (s.secServes = false → ∀ i, i ∈ [Instr.getMeasurements 1 nonce, .getCertificate 0, .challenge bs, .keyExchange bs, .ideKeyProgram 1 bs,
      .getDeviceInterfaceReport 1 nonce] → Completes i s (fun t => t = h))) ∧
  (∀ (fn : FnId) (s : State),
    let p := fn.val - 1
    let h := s.doeHeard
    (s.tdisp fn.val = true → (s.part p).tdi = .unlocked → Completes (.tdiLock fn) s (fun t => OnlyPart p h t ∧
      t.part p = { s.part p with tdi := .locked })) ∧
    (s.tdisp fn.val = false ∨ (s.part p).tdi ≠ .unlocked → Completes (.tdiLock fn) s (fun t => t = h)) ∧
    (s.tdisp fn.val = true → (s.part p).tdi = .locked → Completes (.tdiRun fn) s (fun t => OnlyPart p h t ∧
      t.part p = { s.part p with tdi := .running })) ∧
    (s.tdisp fn.val = false ∨ (s.part p).tdi ≠ .locked → Completes (.tdiRun fn) s (fun t => t = h)) ∧
    (fn.val ≠ 0 → (s.part p).tdi = .locked ∨ (s.part p).tdi = .running →
      (s.confidential p = false → Completes (.tdiError fn) s (fun t => OnlyPart p s t ∧ t.part p = { s.part p with tdi := .error })) ∧
      (s.confidential p = true → (∀ e, e ∈ s.sec.terminating → e.1 ≠ p) → Completes (.tdiError fn) s (fun t =>
        (t.part p).tdi = .error ∧ (t.part p).mode = .releasing ∧ t.sec.terminating = s.sec.terminating ++ [(p, 2)] ∧
        bitAt t.sec.memKeys p = false ∧ t.liveJobs p = [] ∧ t.regs = s.regs))) ∧
    ((s.part p).tdi ≠ .locked → (s.part p).tdi ≠ .running → Completes (.tdiError fn) s (fun t => t = s))) ∧
  (∀ (s : State) (off : BitVec 23) (v : W64), (s.tapOpen = true →
    Completes .bypass s (fun t => t = { s with sec := { s.sec with tapInstr := 0, bypassBit := false } }) ∧
    Completes .idcode s (fun t => t = { s with
      sec := { s.sec with tapInstr := 1 }, out := s.out ++ [.jtag (BitVec.ofNat 64 Config.idcode.toNat)] }) ∧
    (∀ value : Option W64, Completes (.dbgInstruction true off value) s (fun t => t = { s with sec := { s.sec with tapInstr := 1 } })) ∧
    Completes (.dbgInstruction false off (some v)) s (fun t => t = { s with sec := { s.sec with tapInstr := 2, dbg := t.sec.dbg } } ∧
      Tab.get (fun _ => 0) t.sec.dbg off.toNat = v ∧
      (∀ k, k ≠ off.toNat → Tab.get (fun _ => 0) t.sec.dbg k = Tab.get (fun _ => 0) s.sec.dbg k)) ∧
    Completes (.dbgInstruction false off none) s (fun t => t = { s with
      sec := { s.sec with tapInstr := 2 }, out := s.out ++ [.jtag (Tab.get (fun _ => 0) s.sec.dbg off.toNat)] })) ∧
    (s.tapOpen = false → ∀ i, i ∈ [Instr.bypass, .idcode, .dbgInstruction true off none, .dbgInstruction false off (some v),
      .dbgInstruction false off none] → Completes i s (fun t => t = s)))

/-! ### Power, heat and clocks (17; 18 R434; 20 R469; 21 R484) -/

/-- The input and insertion (17 R413, R415, R428; 21 R484): POWER_UP from 57 V brings the rails up with nothing kept but flash, and a
latched module stays off; a failed sequence and a trip turn the converters off until the input falls below 54 V; below 54 V and above 72 V
nothing is kept but flash, and below 70 V the sequence runs again; a band change moves input_low and input_high alone. MODULE_INSERT and
MODULE_REMOVE mate and unmate it. In every other state, and at every other level, each changes nothing. (What an interrupted UPDATE leaves in flash is open, log 3.) -/
def Obligations.PowerFollowsTheInput : Prop :=
  ∀ (mv : Nat) (s : State),
    let m := s.module
    let bare (t : State) (e : Electrical) : Prop := t.module.electrical = e ∧ t.module.stage = 0 ∧ t.module.booted = false ∧ t.mem = [] ∧
      t.parts = [] ∧ t.clusters = [] ∧ t.quarters = [] ∧ t.stackTab = [] ∧ t.engines = [] ∧ t.copies = [] ∧ t.fns = [] ∧ t.regs = [] ∧
      t.memory = Memory.reset ∧ t.links = Links.reset ∧ t.time = TimeBase.reset ∧ t.spares = Spares.reset ∧ t.sec.slots = [] ∧
      t.unsent = [] ∧ t.sec.nonce = none ∧ t.sec.debugOpen = false ∧ t.sec.library = none ∧ (s.sec.op = none → t.sec.flash = s.sec.flash)
    (m.electrical = .unpowered → m.latched = false → m.overVolt = false → 57000 ≤ mv → mv ≤ 72000 →
      Completes (.powerUp mv) s (fun t => bare t .inReset ∧ t.module.lastReset = 0 ∧ t.power.inputLow = decide (mv < 58000) ∧
        t.power.inputHigh = decide (68000 < mv))) ∧
    (m.electrical ≠ .unpowered ∨ m.latched = true ∨ m.overVolt = true ∨ mv < 57000 ∨ 72000 < mv →
      Completes (.powerUp mv) s (fun t => t = s)) ∧
    (m.electrical = .inReset → m.stage = 0 → m.lastReset = 0 →
      Completes .powerGoodTimeout s (fun t => bare t .unpowered ∧ t.module.latched = true)) ∧
    (m.electrical ≠ .inReset ∨ m.stage ≠ 0 ∨ m.lastReset ≠ 0 → Completes .powerGoodTimeout s (fun t => t = s)) ∧
    (54000 ≤ mv ∨ m.electrical = .absent → Completes (.powerDown mv) s (fun t => t = s)) ∧
    (mv < 54000 → m.electrical ≠ .absent →
      (s.powered = true → Completes (.powerDown mv) s (fun t => bare t .unpowered ∧ t.module.latched = false)) ∧
      (s.powered = false → Completes (.powerDown mv) s (fun t => t = { s with
        module := { m with latched := false, overVolt := false }, power := { s.power with millivolts := mv } }))) ∧
    (72000 < mv → m.electrical ≠ .absent →
      Completes (.inputOvervoltage mv) s (fun t => bare t .unpowered ∧ t.module.overVolt = true ∧ t.module.latched = m.latched)) ∧
    (mv ≤ 72000 ∨ m.electrical = .absent → Completes (.inputOvervoltage mv) s (fun t => t = s)) ∧
    (m.electrical ≠ .unpowered ∨ m.overVolt = false ∨ mv < 54000 ∨ 70000 ≤ mv →
      Completes (.inputFallsBelow70V mv) s (fun t => t = s)) ∧
    (s.powered = false ∨ mv < 54000 ∨ 72000 < mv → Completes (.inputBandChange mv) s (fun t => t = s)) ∧
    (∀ site : SiteId, s.powered = false → Completes (.tripComparator site) s (fun t => t = s)) ∧
    (m.electrical ≠ .absent → Completes .moduleInsert s (fun t => t = s)) ∧
    (m.electrical = .unpowered → m.overVolt = true → 54000 ≤ mv → mv < 70000 →
      (m.latched = false → Completes (.inputFallsBelow70V mv) s (fun t => bare t .inReset ∧ t.module.overVolt = false)) ∧
      (m.latched = true → Completes (.inputFallsBelow70V mv) s (fun t => t = { s with
        module := { m with overVolt := false }, power := { s.power with millivolts := mv } }))) ∧
    (s.powered = true → 54000 ≤ mv → mv ≤ 72000 → Completes (.inputBandChange mv) s (fun t => t = { s with
      power := { s.power with millivolts := mv, inputLow := decide (mv < 58000), inputHigh := decide (68000 < mv) } })) ∧
    (∀ site : SiteId, s.powered = true →
      Completes (.tripComparator site) s (fun t => bare t .unpowered ∧ t.module.latched = true ∧ t.out = s.out)) ∧
    (m.electrical = .absent → Completes .moduleInsert s (fun t => bare t .unpowered ∧ t.module.latched = false)) ∧
    Completes .moduleRemove s (fun t => bare t .absent)

/-- RATION_RECOMPUTE (17 R416 to R418, R426), once a window has passed: the profile of PWR_CTL applies, the floor profile stands while
THROTTLE_N or input_low does, and the envelope is 1,500 W at the floor, 4,200 W in BALANCED with allowance left, 2,400 W in the profile 3
and else 3,600 W; a BALANCED window above 3,600 W costs one unit of allowance, and
leaving BALANCED forfeits what is left; no consumer's ration falls below its floor. Before its time nothing changes. A budget below the floors gives every consumer its floor
(R419). Over-current (R422): an alert counts once, holds a quarter's or stack pair's rail and raises line 55; its hold ends 20 µs after the
alert does. PHASE_FAILURE (20 R469): a spare takes the place, or the rail is derated. -/
def Obligations.RationsAndRailsKeepTheirLimits : Prop :=
  (∀ (energy : List (W32 × W32)) (unrationed input : W32) (amps : BitVec 16) (s : State), s.rationing = true →
    (∀ t0, s.power.windowAt = some t0 → t0.toNat + 1000000 ≤ s.nowNat) →
    let profile := fld (s.reg 0 0x80000) 1 0
    Completes (.rationRecompute energy unrationed input amps) s (fun t => t.power.windowAt = some s.time.now ∧ t.power.amps = amps ∧
      t.power.input = input ∧ t.power.profile = profile ∧ t.power.floor = (s.intr.throttle || s.power.inputLow) ∧
      (t.power.floor = true → t.power.envelope = 1500) ∧
      (t.power.floor = false → t.power.envelope = if profile = 0 then (if 0 < t.power.allowance then 4200 else 3600)
        else if profile = 3 then 2400 else 3600) ∧
      (s.power.profile = 0 → profile = 0 → flt (natW 3600) input = true → t.power.allowance = s.power.allowance - 1) ∧
      (s.power.profile = 0 → profile = 0 → flt (natW 3600) input = false → s.power.calm < 99 → t.power.allowance = s.power.allowance) ∧
      (s.power.profile = 0 → profile = 0 → flt (natW 3600) input = false → 99 ≤ s.power.calm →
        t.power.allowance = min 10 (s.power.allowance + 1)) ∧
      (s.power.profile ≠ 0 → profile = 0 → t.power.allowance = 10) ∧ (∀ c, c < 20 → flt (t.consumer c).ration (s.floorW c) = false) ∧
      (s.power.profile = 0 → profile ≠ 0 → t.power.allowance = 0) ∧ t.mem = s.mem ∧ t.parts = s.parts ∧ t.regs = s.regs)) ∧
  (∀ (energy : List (W32 × W32)) (unrationed input : W32) (amps : BitVec 16) (s : State),
    s.rationing = false ∨ (∃ t0, s.power.windowAt = some t0 ∧ s.nowNat < t0.toNat + 1000000) →
    Completes (.rationRecompute energy unrationed input amps) s (fun t => t = s)) ∧
  (∀ (b : W32) (d f m : List W32) (g : List (List Nat)), flt (fsub b (fsum f)) 0 = true → rations b d f m g = f) ∧
  (∀ (r : RailId) (s : State),
    let frame (t : State) : Prop := (∀ k, k ≠ r.val → t.rail k = s.rail k) ∧ t.mem = s.mem ∧ t.parts = s.parts ∧ t.regs = s.regs ∧
      t.power.sites = s.power.sites ∧ t.power.consumers = s.power.consumers
    (s.powered = true → (s.rail r).alert = false → Completes (.overCurrentAlert r) s (fun t => frame t ∧
      t.rail r = { s.rail r with alert := true, inWindow := true, hold := decide (r.val < 12) } ∧
      t.power.ocEvents = satAdd 65535 s.power.ocEvents 1 ∧ (r.val < 12 → (t.icLine 55).pending = true) ∧
      (12 ≤ r.val → t.intr = s.intr))) ∧
    (s.powered = false ∨ (s.rail r).alert = true → Completes (.overCurrentAlert r) s (fun t => t = s)) ∧
    ((s.rail r).hold = false ∨ (s.rail r).alert = true ∨ s.nowNat < (s.rail r).since.toNat + 20000 →
      Completes (.overCurrentHoldRelease r) s (fun t => t = s)) ∧
    ((s.rail r).alert = true → Completes (.overCurrentAlertDeassert r) s (fun t => frame t ∧
      t.rail r = { s.rail r with alert := false, since := s.time.now })) ∧
    ((s.rail r).hold = true → (s.rail r).alert = false → (s.rail r).since.toNat + 20000 ≤ s.nowNat →
      Completes (.overCurrentHoldRelease r) s (fun t => frame t ∧ t.rail r = { s.rail r with hold := false })) ∧
    (∀ phase, s.powered = true → Completes (.phaseFailure r phase) s (fun t => frame t ∧
      (0 < (s.rail r).spares → t.rail r = { s.rail r with spares := (s.rail r).spares - 1 }) ∧
      ((s.rail r).spares = 0 → t.rail r = { s.rail r with lost := min (railPhases r) ((s.rail r).lost + 1) })))) 

/-- SENSOR_SAMPLE (17 R423 to R428; 21 R489) of a site with two healthy sensors: the site reads the higher, throttles from its throttle
point on, is sampled every 20 µs within 3 °C of it, every 100 µs within 8 °C, else every ms, raises line 54 from 3 °C below it, and asserts
SMB_ALERT_N when its record is due; from the trip point on the module suffers the loss of cause 5. A sensor out of range fails with fault
1. Before the site's interval has passed nothing is sampled. PLL_LOCK_LOSS (18 R434): the module suffers the loss of cause 3, and MOD_STATUS names the domain. -/
def Obligations.SensorsThrottleAndTrip : Prop :=
  (∀ (site : SiteId) (a b : Int) (s : State),
    let n := site.val
    let x := s.site n
    let v := max a b
    s.rationing = true → (∀ t0, x.sampledAt = some t0 → t0.toNat + intervalNs x.interval ≤ s.nowNat) →
    x.a.failed = false → x.b.failed = false → x.a.reading ≠ some a → x.b.reading ≠ some b →
    (-200 ≤ a → a ≤ 1500 → -200 ≤ b → b ≤ 1500 →
      Completes (.sensorSample site (some a) (some b)) s (fun t => t.siteValue n = some v ∧ (t.site n).sampledAt = some s.time.now ∧
        (t.site n).throttling = decide (throttlePoint n ≤ v) ∧ (t.site n).fault = x.fault ∧
        (t.site n).interval = (if throttlePoint n - 30 ≤ v then 2 else if throttlePoint n - 80 ≤ v then 1 else 0) ∧
        (throttlePoint n - 30 ≤ v → (t.icLine 54).pending = true) ∧
        (throttlePoint n ≤ v → x.posted = false → t.module.alert = true ∧ (t.site n).posted = true) ∧
        (∀ k, k ≠ n → t.site k = s.site k) ∧ t.regs = s.regs ∧
        (v < tripPoint n → t.mem = s.mem ∧ t.parts = s.parts ∧ t.module.stage = s.module.stage) ∧
        (tripPoint n ≤ v → s.module.electrical = .running → s.module.stage = 4 → t.module.stage = 6 ∧ t.module.lossCause = 5))) ∧
    (a < -200 ∨ 1500 < a → -200 ≤ b → b ≤ 1500 → x.aOut = false →
      Completes (.sensorSample site (some a) (some b)) s (fun t => (t.site n).a.failed = true ∧ (t.site n).fault = 1 ∧
        (t.site n).b.failed = false ∧ t.siteValue n = some (throttlePoint n + 10) ∧ (∀ k, k ≠ n → t.site k = s.site k) ∧
        t.mem = s.mem ∧ t.parts = s.parts ∧ t.regs = s.regs))) ∧
  (∀ (site : SiteId) (a b : Option Int) (s : State),
    s.rationing = false ∨ (∃ t0, (s.site site).sampledAt = some t0 ∧ s.nowNat < t0.toNat + intervalNs (s.site site).interval) →
    Completes (.sensorSample site a b) s (fun t => t = s)) ∧
  (∀ (d : Fin 25) (s : State), s.module.electrical = .running → s.module.stage = 4 →
    Completes (.pllLockLoss d) s (fun t => t.module.pllLost = d.val + 1 ∧ t.module.stage = 6 ∧ t.module.lossCause = 3 ∧
      t.time.running = (s.time.running && d.val != 23) ∧ t.regs = s.regs))

/-! ### Module time (18 R436 to R441) -/

/-- PTM_REQUEST, PTM_SAMPLE, HOLDOVER_TIMEOUT, PULSE_LOST, TIME_PULSE_EDGE and MODULE_TIME_TICK (18 R436 to R440; 12 R334): the first
sample sets module time and locks it, and a partition's time slice keeps what is left of it (R440); a later one in use gives an offset and never a step, and beyond 100 µs leads to holdover, from which
the third in a row within 1 µs returns; while pulses are in use a PTM sample gives no offset. Without a sample for the longer of 1 s and
three intervals the state is holdover. An edge is accepted in locked or holdover, within 100 µs of a whole second and more than 1 ms after the last accepted one; any
other is counted and changes no time, and none is seen while pulse_en is 0. Its offset is from the whole second that the latest PTM sample
gives. The sample that ends the lock leaves the rate as it was. A tick adds 1 µs
and raises line 52. Before its time none of these happens. (How the rate follows an offset is open within ±100 ppm, log 3.) -/
def Obligations.ModuleTimeFollowsItsReferences : Prop :=
  ∀ (s : State),
    let x := s.time
    let rate (o : Int) (t : State) : Prop := (x.mode = .locked → 100000 < o.natAbs → t.time.adjust = x.adjust) ∧
      (x.mode ≠ .locked ∨ o.natAbs ≤ 100000 → -1000 ≤ t.time.adjust ∧ t.time.adjust ≤ 1000)
    let frame (t : State) : Prop := t.mem = s.mem ∧ t.parts = s.parts ∧ t.regs = s.regs ∧ t.clusters = s.clusters ∧ t.links = s.links
    (x.running = true → s.module.ptmEnable = true → (∀ t0, x.ptmAt = some t0 → t0.toNat + 1000000 * s.ptmInterval ≤ s.nowNat) →
      Completes .ptmRequest s (fun t => t = { s with
        time := { x with ptmOut := true, ptmAt := some x.now }, out := s.out ++ [.ptm] })) ∧
    (x.running = false ∨ s.module.ptmEnable = false ∨ (∃ t0, x.ptmAt = some t0 ∧ s.nowNat < t0.toNat + 1000000 * s.ptmInterval) →
      Completes .ptmRequest s (fun t => t = s)) ∧
    (∀ reference : W64, x.running = false ∨ x.ptmOut = false → Completes (.ptmSample reference) s (fun t => t = s)) ∧
    (∀ reference : W64, x.running = true → x.ptmOut = true →
      let o : Int := (reference.toNat : Int) - s.nowNat
      (x.mode = .unknown → Completes (.ptmSample reference) s (fun t => t.time.now = reference ∧ t.time.mode = .locked ∧
        t.time.locks = satAdd 65535 x.locks 1 ∧ t.time.offset = sat32 o ∧ t.time.ptmOut = false ∧ t.mem = s.mem ∧ t.regs = s.regs ∧
        (∀ p, (s.part p).mode ≠ .empty → (t.part p).sliceAt - t.time.now = (s.part p).sliceAt - x.now))) ∧
      (x.mode ≠ .unknown → s.pulseInUse = true → Completes (.ptmSample reference) s (fun t => t = { s with
        time := { x with ptmOut := false, ptmOffset := o, lastSample := x.now } })) ∧
      (x.mode ≠ .unknown → s.pulseInUse = false → Completes (.ptmSample reference) s (fun t => frame t ∧ t.time.now = x.now ∧
        t.time.offset = sat32 o ∧ rate o t ∧ t.time.pulseUsed = false ∧ t.time.ptmOut = false ∧
        t.time.lastSample = x.now ∧
        (x.mode = .locked → t.time.mode = if 100000 < o.natAbs then .holdover else .locked) ∧
        (x.mode = .holdover → t.time.mode = if o.natAbs ≤ 1000 ∧ 2 ≤ x.inRow then .locked else .holdover)))) ∧
    (x.mode = .locked → x.lastSample.toNat + max 1000000000 (3000000 * s.ptmInterval) ≤ s.nowNat →
      Completes .holdoverTimeout s (fun t => frame t ∧ t.time.mode = .holdover ∧ t.time.now = x.now ∧ t.time.locks = x.locks)) ∧
    (x.mode ≠ .locked ∨ s.nowNat < x.lastSample.toNat + max 1000000000 (3000000 * s.ptmInterval) →
      Completes .holdoverTimeout s (fun t => t = s)) ∧
    (s.pulseEn = true → x.running = true → (∀ t0, x.lastPulse = some t0 → t0.toNat + 3000000000 ≤ s.nowNat) → 3000000000 ≤ s.nowNat →
      Completes .pulseLost s (fun t => t = { s with time := { x with pulseLost := true } })) ∧
    (s.pulseEn = false ∨ x.running = false ∨ s.nowNat < (x.lastPulse.getD 0).toNat + 3000000000 →
      Completes .pulseLost s (fun t => t = s)) ∧
    (s.pulseEn = true → x.running = true → s.module.electrical = .running →
      let past := s.nowNat % 1000000000
      let near : Prop := past ≤ 100000 ∨ 1000000000 - past ≤ 100000
      (x.mode ≠ .unknown → near → (∀ t0, x.lastPulse = some t0 → t0.toNat + 1000000 < s.nowNat) →
        Completes .timePulseEdge s (fun t => frame t ∧ t.time.lastPulse = some x.now ∧ t.time.pulseLost = false ∧
          t.time.pulseUsed = true ∧ t.time.now = x.now ∧
          t.time.offset = sat32 (((s.nowNat : Int) + x.ptmOffset + 500000000) / 1000000000 * 1000000000 - s.nowNat) ∧ (t.icLine 57).pending = true ∧ t.intr.extraPulses = s.intr.extraPulses)) ∧
      (x.mode = .unknown ∨ ¬near ∨ (∃ t0, x.lastPulse = some t0 ∧ s.nowNat ≤ t0.toNat + 1000000) →
        Completes .timePulseEdge s (fun t => frame t ∧ t.time = x ∧ t.intr.extraPulses = satAdd 65535 s.intr.extraPulses 1))) ∧
    (s.pulseEn = false ∨ x.running = false ∨ s.module.electrical ≠ .running → Completes .timePulseEdge s (fun t => t = s)) ∧
    (x.running = false → Completes .moduleTimeTick s (fun t => t = s)) ∧
    (x.running = true → Completes .moduleTimeTick s (fun t => t.time = { x with now := x.now + 1000 } ∧ (t.icLine 52).pending = true ∧
      t = { s with time := t.time, intr := t.intr }))

/-! ### Resets and boot (18 R442 to R449; 21 R479, R483; 11 R303) -/

/-- PERST_N_ASSERT and MOD_RESET_COLD (18 R442 to R444; 21 R483): a cold reset keeps flash, and what only a power-up clears: debug_open,
failed_unlocks, the nonce and slot 6; its boot is still to run. MOD_RESET_WARM and HOT_RESET (R443, R445): a warm reset releases every
region and partition, blanks every line and resets the RW registers, those of the interrupt lines' routes and of the ports' tests too (00 R13);
the security core, module time and the module ID stand, and an opening of the debug port goes on to its end. A write of
MOD_RESET acts only from physical function 0, with its key, and after firmware-ready, and is cold when both bits are set. VF_FUNCTION_LEVEL_RESET
(R443; 16 R408): the function's rings are off and its RING_ and EVT_ registers at their reset values, its jobs are lost, its TDI leaves for ERROR,
and a confidential partition is terminated. (Whether a shorter assertion of PERST_N is missed is open, log 3.) -/
def Obligations.ResetsKeepAndClear : Prop :=
  (∀ (s : State),
    let cold (t : State) (kind : Nat) (perst : Bool) : Prop := t.module.electrical = .inReset ∧ t.module.stage = 0 ∧
      t.module.booted = false ∧ t.module.lastReset = kind ∧ t.module.perst = perst ∧ t.mem = [] ∧ t.parts = [] ∧ t.clusters = [] ∧
      t.engines = [] ∧ t.regs = [] ∧ t.fns = [] ∧ t.copies = [] ∧ t.memory = Memory.reset ∧ t.links = Links.reset ∧
      t.time = TimeBase.reset ∧ t.sec.debugOpen = s.sec.debugOpen ∧ t.sec.failedUnlocks = s.sec.failedUnlocks ∧
      t.sec.nonce = s.sec.nonce ∧ t.slotValue 6 = s.slotValue 6 ∧ (∀ k, k ≠ 6 → t.slotValue k = 0) ∧ t.sec.busy = false ∧
      (s.sec.op = none → t.sec.flash = s.sec.flash)
    let warm (t : State) (kind : Nat) : Prop := t.module.electrical = s.module.electrical ∧ t.module.stage = 7 ∧
      t.module.lastReset = kind ∧ t.mem = [] ∧ t.parts = [] ∧ t.regs = [] ∧ t.memory.regions = [] ∧ t.unsent = [] ∧
      (∀ n, (t.port n).test = none ∧ (t.port n).mode ≠ .disabled) ∧ (∀ n, t.icLine n = { IcLine.reset with pending := (t.icLine n).pending }) ∧
      (s.sec.opening = false → t.fns = [] ∧ t.sec.debugOpen = s.sec.debugOpen) ∧
      (s.sec.opening = true → t.sec.opening = false ∧ t.sec.debugOpen = true) ∧
      (∀ k, (t.cluster k).job = none) ∧ (∀ e, (t.engine e).busy = false) ∧ t.links.sent = [] ∧
      t.links.moduleId = s.links.moduleId ∧ t.links.idLock = s.links.idLock ∧ t.time.now = s.time.now ∧ t.time.mode = s.time.mode ∧
      t.power = s.power ∧ t.sec.slots = s.sec.slots ∧ t.sec.memKeys = 0 ∧
      t.sec.flash.banks = s.sec.flash.banks ∧ t.sec.flash.floors = s.sec.flash.floors ∧ t.sec.flash.owners = s.sec.flash.owners
    (∀ us, 100 ≤ us → s.powered = true → Completes (.perstNAssert us) s (fun t => cold t 1 true)) ∧
    (∀ us, 100 ≤ us → s.powered = false →
      Completes (.perstNAssert us) s (fun t => t = { s with module := { s.module with perst := true } })) ∧
    (∀ us, us < 100 → s.powered = true → Completes (.perstNAssert us) s (fun t => (bitAt s.freeVal 0 = true → t = s.useFree) ∧
      (bitAt s.freeVal 0 = false → cold t 1 true))) ∧
    (∀ (fn : FnId) (v : W64), fn.val ≠ 0 ∨ (s.module.stage ≠ 4 ∧ s.module.stage ≠ 6) →
      Completes (.modResetCold fn v) s (fun t => t = s) ∧ Completes (.modResetWarm fn v) s (fun t => t = s)) ∧
    (∀ (fn : FnId) (v : W64), fn.val = 0 → s.module.electrical = .running → s.module.stage = 4 ∨ s.module.stage = 6 →
      (fld v 31 16 = 0x5A5A →
        (bitAt v 0 = true → Completes (.modResetCold fn v) s (fun t => cold t 2 false) ∧
          Completes (.modResetWarm fn v) s (fun t => cold t 2 false)) ∧
        (bitAt v 0 = false → bitAt v 1 = true →
          Completes (.modResetWarm fn v) s (fun t => warm t 3 ∧ t.module.numVfs = s.module.numVfs))) ∧
      (fld v 31 16 ≠ 0x5A5A → Completes (.modResetCold fn v) s (fun t => t = s) ∧ Completes (.modResetWarm fn v) s (fun t => t = s))) ∧
    (s.module.electrical = .running → s.module.stage = 4 ∨ s.module.stage = 6 ∨ s.module.stage = 7 →
      Completes .hotReset s (fun t => warm t 4 ∧ t.module.numVfs = 0 ∧ t.module.vfEnable = false ∧ t.module.ptmEnable = false))) ∧
  (∀ (fn : FnId) (s : State), fn.val = 0 ∨ s.present fn.val = false → Completes (.vfFunctionLevelReset fn) s (fun t => t = s)) ∧
  (∀ (fn : FnId) (s : State), fn.val ≠ 0 → s.present fn.val = true →
    let p := fn.val - 1
    (s.confidential p = true → (∀ e, e ∈ s.sec.terminating → e.1 ≠ p) → Completes (.vfFunctionLevelReset fn) s (fun t =>
      (t.fn fn.val).enable = 0 ∧ (t.part p).mode = .releasing ∧ t.liveJobs p = [] ∧ bitAt t.sec.memKeys p = false ∧
      t.sec.terminating = s.sec.terminating ++ [(p, 2)] ∧
      (t.part p).tdi = (if (s.part p).tdi = .locked ∨ (s.part p).tdi = .running then .error else (s.part p).tdi))) ∧
    (s.confidential p = false → Completes (.vfFunctionLevelReset fn) s (fun t => (t.fn fn.val).enable = 0 ∧
      (∀ off, 0x20000 ≤ off → off < 0x40000 → t.reg fn.val off = regReset (regKey fn.val off)) ∧
      (∀ f off, f < 16 → off < 2 ^ 24 → f ≠ fn.val ∨ off < 0x20000 ∨ 0x40000 ≤ off → t.reg f off = s.reg f off) ∧
      ((s.part p).mode = .ready → (t.part p).jobs = [] ∧ (t.round p).entries = []) ∧
      (t.part p).tdi = (if (s.part p).tdi = .locked ∨ (s.part p).tdi = .running then .error else (s.part p).tdi) ∧
      (∀ k, k ≠ p → t.part k = s.part k) ∧ (∀ f, f ≠ fn.val → (t.fn f).enable = (s.fn f).enable) ∧
      t.module.stage = s.module.stage)))

/-- BOOT (18 R446, R447; 16 R397): the boot stops with the code of the first thing that fails; else the chosen banks and their versions
stand, each image is measured into its slot, module time starts at 0, every line is blank, and the stage is loading. FIRMWARE_READY
(R446 step 9; 12 R329): firmware is up, and its lines are routed in their default classes. PERST_N_DEASSERT (21 R479): the module runs
once the time base does. Each does nothing in any other stage. CONFIGURATION_WRITE (11 R303): the virtual functions present follow NumVFs and VF enable, and one that leaves has
its rings off. (Two banks of one version leave the choice open, log 3.) -/
def Obligations.BootEndsOrStops : Prop :=
  (∀ (r : BootResult) (s : State), s.powered = true → s.module.stage = 0 → s.module.booted = false →
    let f := s.sec.flash
    let equal (k : Nat) : Bool := imageVersion (f.bank k 0) == imageVersion (f.bank k 1)
    let s1 := if equal 0 then s.useFree else s
    let s2 := if equal 1 then s1.useFree else s1
    let pick (k : Nat) : Option Nat := f.pick k (bitAt (if k = 0 then s else if k = 1 then s1 else s2).freeVal 0)
    let stops (code : Nat) : Prop := Completes (.boot r) s (fun t => t.module.stage = 5 ∧ t.module.stop = code ∧
      t.module.alert = true ∧ t.module.booted = false ∧ t.sec.flash.banks = f.banks)
    (r.identityOk = false → stops 1) ∧
    (r.identityOk = true → r.protectedOk = false → stops 5) ∧
    (r.identityOk = true → r.protectedOk = true →
      (pick 0 = none → stops 2) ∧
      (∀ a, pick 0 = some a → (pick 1 = none → stops 3) ∧
        (∀ b, pick 1 = some b → (pick 2 = none → stops 4) ∧
          (∀ c, pick 2 = some c → (r.fabricOk = false → stops 6) ∧
            (r.fabricOk = true → Completes (.boot r) s (fun t => t.module.stage = 3 ∧ t.module.booted = true ∧ t.mem = [] ∧
              t.time.now = 0 ∧ t.time.running = true ∧ t.time.mode = .unknown ∧
              t.module.electrical = (if s.module.perst then .inReset else .running) ∧ t.module.ga = r.ga ∧
              fld t.sec.bootedBank 0 0 = a ∧ fld t.sec.bootedBank 1 1 = b ∧ fld t.sec.bootedBank 2 2 = c ∧
              (∀ k x, (k, x) ∈ [(0, a), (1, b), (2, c)] →
                Tab.get (fun _ => 0) t.sec.versions k = BitVec.ofNat 32 (imageVersion (f.bank k x)) ∧
                t.slotValue k = sha3 (toBytes 32 (s.slotValue k).toNat ++ toBytes 32 (sha3 (f.bank k x)).toNat)) ∧
              t.slotValue 6 = s.slotValue 6 ∧ t.sec.bootId = r.bootId ∧ t.sec.identity = true ∧ t.sec.alias_ = true ∧
              t.sec.flash.banks = f.banks ∧ t.sec.flash.floors = f.floors ∧ t.parts = s.parts ∧ t.regs = s.regs))))))) ∧
  (∀ (r : BootResult) (s : State), s.powered = false ∨ s.module.stage ≠ 0 ∨ s.module.booted = true → Completes (.boot r) s (fun t => t = s)) ∧
  (∀ (s : State), s.powered = false ∨ (s.module.stage ≠ 7 ∧ (s.module.stage ≠ 3 ∨ s.module.booted = false)) →
    Completes .firmwareReady s (fun t => t = s)) ∧
  (∀ (s : State), s.module.perst = false → Completes .perstNDeassert s (fun t => t = s)) ∧
  (∀ (s : State), s.powered = true → s.module.stage = 7 ∨ (s.module.stage = 3 ∧ s.module.booted = true) →
    Completes .firmwareReady s (fun t => t.module = { s.module with stage := 4 } ∧
      (∀ n, n < 76 → (t.icLine n).masked = false ∧ (t.icLine n).fast = fastLine n ∧ (t.icLine n).pending = (s.icLine n).pending) ∧
      t.mem = s.mem ∧ t.parts = s.parts ∧ t.regs = s.regs)) ∧
  (∀ (s : State), s.module.perst = true → Completes .perstNDeassert s (fun t => t = { s with
    module := { s.module with
      perst := false,
      electrical := if s.module.electrical = .inReset ∧ s.time.running = true then .running else s.module.electrical } })) ∧
  (∀ (n : Fin 9) (vfs ptm : Bool) (s : State), Completes (.configurationWrite n vfs ptm) s (fun t =>
    t.module = { s.module with numVfs := n.val, vfEnable := vfs, ptmEnable := ptm } ∧
    (∀ k, 1 ≤ k → k ≤ 8 → t.present k = (vfs && decide (k ≤ n.val))) ∧
    (∀ k, 1 ≤ k → k ≤ 8 → s.present k = true → t.present k = false → t.fn k = Fn.reset) ∧
    (∀ k, s.present k = false ∨ t.present k = true → t.fn k = s.fn k) ∧ t.mem = s.mem ∧ t.parts = s.parts))

/-! ### Spares, wear and tests (20) -/

/-- REPAIR_MAP_WRITE, WEAR_LOG_READ and its completion (20 R463, R465): the recorded changes enter flash, in order; the copy's header and
records reach the host, or its status says that the write failed; a read asked for while one runs is ignored. CLUSTER_RETEST and
CLUSTER_MARK (R467): an idle working cluster that fails its hourly test, or that software names, is marked for retirement; an index
above 319 is ignored. ROW_REMAP (R470): a row that is due, by four corrections or by a line that fails, moves to a spare row of its bank; with no
spare row left its die is replaced. DIE_COPY and DIE_COPY_ROWS_DONE (R471, R472, R475): the stack's free spare takes the named die, and once its rows
are copied new packets to the die's engines are held; an uncorrectable line of the spare die ends the copy with the spare failed. -/
def Obligations.SparesTakeTheirPlaces : Prop :=
  (∀ (s : State), s.rationing = true → Completes .repairMapWrite s (fun t => t = { s with
    sec := { s.sec with flash := { s.sec.flash with map := s.sec.flash.map ++ s.spares.changes } },
    spares := { s.spares with changes := [] } })) ∧
  (∀ (fn : FnId) (v : W64) (s : State), fn.val = 0 → s.bar0 0 = true →
    (s.spares.wearBusy = false → Completes (.wearLogRead fn v) s (fun t => t = { s with
      spares := { s.spares with wearBusy := true, wearAddr := BitVec.ofNat 64 (64 * fld v 63 6) } })) ∧
    (s.spares.wearBusy = true → Completes (.wearLogRead fn v) s (fun t => t = s)) ∧
    (319 < fld v 10 2 → Completes (.clusterMark fn v) s (fun t => t = s)) ∧
    (let c := 320 * fld v 1 0 + fld v 10 2
     fld v 10 2 ≤ 319 → (s.working c = false ∨ (s.cluster c).marked = true → Completes (.clusterMark fn v) s (fun t => t = s)) ∧
     (s.working c = true → (s.cluster c).marked = false → Completes (.clusterMark fn v) s (fun t =>
       t.cluster c = { s.cluster c with marked := true } ∧ (∀ k, k ≠ c → t.cluster k = s.cluster k) ∧
       t.spares.changes = s.spares.changes ++ [(1, c)] ∧ t.mem = s.mem ∧ t.parts = s.parts ∧ t.regs = s.regs))) ∧
    (bitAt v 8 = false → Completes (.dieCopy fn v) s (fun t => t = s)) ∧
    (let k := fld v 3 0
     bitAt v 8 = true →
      ((s.stack k).spare.state = 0 → Completes (.dieCopy fn v) s (fun t => (t.stack k).spare.state = 1 ∧
        (t.stack k).spare.replaced = fld v 7 4 ∧ (t.stack k).spare.progress = 0 ∧ (∀ j, j ≠ k → t.stack j = s.stack j) ∧
        t.mem = s.mem ∧ t.engines = s.engines ∧ t.regs = s.regs)) ∧
      ((s.stack k).spare.state ≠ 0 → Completes (.dieCopy fn v) s (fun t => t = s)))) ∧
  (∀ (s : State) (b : Bool), s.spares.wearBusy = false → Completes (.wearLogReadComplete b) s (fun t => t = s)) ∧
  (∀ (s : State), s.spares.wearBusy = true →
    let f := s.sec.flash
    let log := toBytes 8 f.wearTotal ++ toBytes 4 f.wearOldest ++ toBytes 52 0 ++
      (List.range 65536).flatMap (fun i => toBytes 32 (f.wearAt i).toNat)
    Completes (.wearLogReadComplete true) s (fun t => t = { s.hostWrite 0 s.spares.wearAddr.toNat log with
      spares := { s.spares with wearBusy := false, wearStatus := 0 } }) ∧
    Completes (.wearLogReadComplete false) s (fun t => t = { s with spares := { s.spares with wearBusy := false, wearStatus := 1 } })) ∧
  (∀ (failing : List Nat) (s : State), s.firmwareUp = true → s.module.testedAt.toNat + 3600000000000 ≤ s.nowNat →
    Completes (.clusterRetest failing) s (fun t => t.module.testedAt = s.time.now ∧
      (∀ c, c ∈ failing → s.idleWorking c = true → (t.cluster c).marked = true) ∧
      (∀ c, c ∉ failing ∨ s.idleWorking c = false → t.cluster c = s.cluster c) ∧ t.mem = s.mem ∧ t.parts = s.parts ∧ t.regs = s.regs)) ∧
  (∀ (failing : List Nat) (s : State), s.firmwareUp = false ∨ s.nowNat < s.module.testedAt.toNat + 3600000000000 →
    Completes (.clusterRetest failing) s (fun t => t = s)) ∧
  (∀ (b : BankId) (row : BitVec 16) (s : State),
    let k := b.val / 1024
    let base := 1048576 * b.val + 16 * row.toNat
    let used := Tab.get (fun _ => []) (s.stack k).remaps (b.val % 1024)
    let sound : Prop := ∀ i, i < 16 → s.lineFails (base + i) = false
    (sound → s.recentCount (1073741824 + base / 16) < 4 → Completes (.rowRemap b row) s (fun t => t = s)) ∧
    (¬sound ∨ 4 ≤ s.recentCount (1073741824 + base / 16) → 32 ≤ used.length →
      Completes (.rowRemap b row) s (fun t => t = s.dieTrigger k (b.val / 32 % 32 / 2))) ∧
    (¬sound ∨ 4 ≤ s.recentCount (1073741824 + base / 16) → used.length < 32 → Completes (.rowRemap b row) s (fun t =>
      Tab.get (fun _ => []) (t.stack k).remaps (b.val % 1024) = used ++ [row.toNat] ∧
      (∀ j, j ≠ b.val % 1024 → Tab.get (fun _ => []) (t.stack k).remaps j = Tab.get (fun _ => []) (s.stack k).remaps j) ∧
      (t.stack k).spare.rows = satAdd 65535 (s.stack k).spare.rows 1 ∧ (∀ j, j ≠ k → t.stack j = s.stack j) ∧
      (∀ l, l < base ∨ base + 16 ≤ l → t.stored l = s.stored l) ∧ t.regs = s.regs))) ∧
  (∀ (st : StackId) (ok : Bool) (s : State), (s.stack st).spare.state ≠ 1 ∨ (s.stack st).spare.holding = true →
    Completes (.dieCopyRowsDone ⟨st, ok⟩) s (fun t => t = s)) ∧
  (∀ (st : StackId) (s : State), (s.stack st).spare.state = 1 → (s.stack st).spare.holding = false →
    Completes (.dieCopyRowsDone ⟨st, false⟩) s (fun t => (t.stack st).spare.state = 3 ∧ (t.stack st).spare.holding = false ∧
      (∀ j, j ≠ st.val → t.stack j = s.stack j) ∧ t.mem = s.mem ∧ t.engines = s.engines ∧ t.regs = s.regs) ∧
    Completes (.dieCopyRowsDone ⟨st, true⟩) s (fun t => (t.stack st).spare.holding = true ∧ (t.stack st).spare.progress = 1023 ∧
      (t.stack st).spare.replaced = (s.stack st).spare.replaced ∧ t.regs = s.regs))

/-- TST_PAT_CMD and PATTERN_RUN_COMPLETE (20 R476, R477): a command is refused with status 1 while a group under test is in use, with
status 2 while the spare die is, and ignored while a run is in progress; a run that ends leaves its groups blank and the rest of memory as
it was. TST_PORT_TEST and CHECKER_LOCK (R478): a test is accepted on a port that no partition holds, in a mode that the port's state
allows; mode 0 ends it and the port trains; a reserved pattern leaves that field as it was (00 R12); a locked lane of the test shows its errors. -/
def Obligations.TestsRunOnIdleParts : Prop :=
  (∀ (fn : FnId) (v : W64) (s : State), fn.val = 0 → s.bar0 0 = true →
    let k := fld v 3 0
    let taken := s.groupsTaken k (fld v 11 4)
    let spare := (bitAt v 12 && (s.stack k).spare.state != 0) || (s.stack k).spare.state == 1
    (s.spares.patBusy = true → Completes (.tstPatCmd fn v) s (fun t => t = s)) ∧
    (s.spares.patBusy = false →
      (taken = true → Completes (.tstPatCmd fn v) s (fun t => t = { s with spares := { s.spares with patStatus := 1 } })) ∧
      (taken = false → spare = true → Completes (.tstPatCmd fn v) s (fun t => t = { s with spares := { s.spares with patStatus := 2 } })) ∧
      (taken = false → spare = false → Completes (.tstPatCmd fn v) s (fun t => t.spares.patBusy = true ∧ t.spares.patStatus = 0 ∧
        t.spares.patErrors = 0 ∧ t.spares.patErrs = [] ∧ t.spares.patFail = 0 ∧ t = { s with spares := t.spares })))) ∧
  (∀ (failing : List (BitVec 34 × Bool)) (s : State), s.spares.patBusy = false →
    Completes (.patternRunComplete failing) s (fun t => t = s)) ∧
  (∀ (failing : List (BitVec 34 × Bool)) (s : State), s.spares.patBusy = true →
    let v := s.spares.patCmd
    let mine (l : Nat) : Bool := plnStack l == fld v 3 0 && bitAt v (4 + plnChannel l / 4)
    Completes (.patternRunComplete failing) s (fun t => t.spares.patBusy = false ∧ t.spares.patStatus = 0 ∧
      (fld v 17 13 ≠ 0 → (∀ l, mine l = true → t.stored l = blankLine) ∧ ∀ l, mine l = false → t.stored l = s.stored l) ∧
      (fld v 17 13 = 0 → t.mem = s.mem) ∧
      (failing = [] → t.spares.patErrors = s.spares.patErrors ∧ t.spares.patErrs = s.spares.patErrs) ∧ t.regs = s.regs ∧
      t.parts = s.parts)) ∧
  (∀ (fn : FnId) (p : PortId) (v : W64) (s : State), fn.val = 0 → s.bar0 0 = true →
    let mode := fld v 1 0
    (s.testAllowed p mode = false → Completes (.tstPortTest fn p v) s (fun t => t = s)) ∧
    let pattern := if fld v 3 2 = 3 then fld (s.reg 0 (0xA0200 + 0x10 * p)) 3 2 else fld v 3 2
    let w : W64 := BitVec.ofNat 64 (mode + at_ 2 pattern + at_ 4 (fld v 8 4))
    (s.testAllowed p mode = true → mode ≠ 0 → Completes (.tstPortTest fn p v) s (fun t =>
      t.reg 0 (0xA0200 + 0x10 * p) = w ∧ (t.port p).test = some w ∧
      (t.port p).results = [] ∧ (t.port p).testLocked = 0 ∧ (∀ k, k ≠ p.val → t.port k = s.port k) ∧ t.mem = s.mem)) ∧
    (s.testAllowed p mode = true → mode = 0 → Completes (.tstPortTest fn p v) s (fun t => (t.port p).test = none ∧ t.reg 0 (0xA0200 + 0x10 * p) = w ∧
      ((s.port p).test.isSome = true → s.links.idLock = true → s.portEnabled p = true → (t.port p).mode = .training) ∧
      (∀ k, k ≠ p.val → t.port k = s.port k) ∧ t.mem = s.mem))) ∧
  (∀ (p : PortId) (l : LaneId) (errors : BitVec 12) (s : State),
    (∀ v, (s.port p).test = some v → fld v 1 0 = 3 ∨ bitAt v (4 + l.val) = false) →
    Completes (.checkerLock p l errors) s (fun t => t = s)) ∧
  (∀ (p : PortId) (l : LaneId) (errors : BitVec 12) (s : State) (v : W64), (s.port p).test = some v → fld v 1 0 ≠ 3 →
    bitAt v (4 + l.val) = true → Completes (.checkerLock p l errors) s (fun t => bitAt (t.port p).testLocked l = true ∧
      Tab.get (fun _ => 0) (t.port p).results l = errors ∧ (∀ k, k ≠ l.val → Tab.get (fun _ => 0) (t.port p).results k =
        Tab.get (fun _ => 0) (s.port p).results k) ∧ (∀ k, k ≠ p.val → t.port k = s.port k) ∧ t.mem = s.mem ∧ t.regs = s.regs))

/-! ### The management bus and BAR0 (21 R487 to R489; 22 R492 to R496) -/

/-- The commands of the management bus (21 R487 to R489): one that the target answers returns its byte count, its value of the last
recompute and the packet error code, and changes nothing else; before firmware-ready only STATUS is answered, and in reset none. An alert
response returns the module's address and releases the pin. A refused transfer changes nothing. -/
def Obligations.ManagementBusAnswers : Prop :=
  ∀ (s : State),
    let answer (code : Nat) (bs : List Byte) : State := { s with
      out := s.out ++ [.smbus (toBytes 1 bs.length ++ bs ++ [pec (toBytes 1 (2 * s.smbAddress) ++ toBytes 1 code ++
        toBytes 1 (2 * s.smbAddress + 1) ++ (toBytes 1 bs.length ++ bs))])] }
    let reads : List (Instr × Nat × Nat) := [(.smbStatus, 1, 8), (.smbInput, 2, 8), (.smbPower, 3, 8), (.hottest, 4, 4), (.smbTime, 5, 8)]
    (∀ i code n, (i, code, n) ∈ reads →
      (s.smbAnswers code = true → Completes i s (fun t => t = answer code (toBytes n (s.smbValue code).toNat))) ∧
      (s.smbAnswers code = false → Completes i s (fun t => t = s))) ∧
    (∀ n : SiteId, (s.smbAnswers (0x10 + n) = true →
        Completes (.site n) s (fun t => t = answer (0x10 + n) (toBytes 8 (s.smbValue (0x10 + n)).toNat))) ∧
      (s.smbAnswers (0x10 + n) = false → Completes (.site n) s (fun t => t = s))) ∧
    (s.smbAnswers 6 = false → Completes .identity s (fun t => t = s)) ∧
    (∀ code, s.power.windowAt.isSome = true → s.smbValue code = Tab.get (fun _ => 0) s.power.smb code) ∧
    (s.smbAnswers 6 = true → Completes .identity s (fun t => t = answer 6 (toBytes 32 (sha3 Config.identityKey).toNat))) ∧
    (∀ code, s.module.electrical = .running → (s.smbAnswers code = true ↔ code = 1 ∨ s.module.stage = 4 ∨ s.module.stage = 6)) ∧
    (∀ code, s.module.electrical ≠ .running → s.smbAnswers code = false) ∧
    (s.module.electrical = .running → s.module.alert = true → Completes .alertResponse s (fun t => t = { s with
      module := { s.module with alert := false }, out := s.out ++ [.smbus (toBytes 1 (2 * s.smbAddress))] })) ∧
    (s.module.alert = false ∨ s.module.electrical ≠ .running → Completes .alertResponse s (fun t => t = s)) ∧
    (∀ code, Completes (.smbRefusedTransfer code) s (fun t => t = s))

/-- REGISTER_WRITE (22 R492 to R496; 00 R11, R12; 11 R301): an unaligned write is discarded and counted; a read-only block ignores writes, and on a
degraded link every block but MOD_ does; a register of a partition slot takes the fields its table gives it, a reserved code leaving its field as it was, and no other register
changes; a 4-byte write of a register leaves the other half; the words of the sieve descriptor read back what was written; the route
of a module keeps 16 bits; a virtual function writes no register of the LNK_, SEC_ and TST_ blocks; a write of PART_CMD or RGN_CMD runs the
command of its op, and one of a reserved op ends with its status. PART_STEP_READ (09 R277): the step
of a slot, to physical function 0 and the slot's own function. -/
def Obligations.RegisterWritesTakeTheirFields : Prop :=
  (∀ (fn : FnId) (off : BitVec 24) (wide : Bool) (v : W64) (s : State),
    let o := off.toNat
    (s.module.electrical ≠ .running ∨ s.present fn = false ∨ (fn.val ≠ 0 ∧ 0x100000 ≤ o) → Completes (.registerWrite fn off wide v) s (fun t => t = s)) ∧
    (s.module.electrical = .running → s.present fn = true → fn.val = 0 ∨ o < 0x100000 →
      (o % (if wide then 8 else 4) ≠ 0 → Completes (.registerWrite fn off wide v) s (fun t => t = { s with
        module := { s.module with badWrites := satAdd 65535 s.module.badWrites 1 } })) ∧
      (o % (if wide then 8 else 4) = 0 → 0x10000 ≤ o → o < 0x20000 → Completes (.registerWrite fn off wide v) s (fun t => t = s)) ∧
      (o % (if wide then 8 else 4) = 0 → 0x10000 ≤ o → s.module.linkDegraded = true →
        Completes (.registerWrite fn off wide v) s (fun t => t = s)) ∧
      (o % (if wide then 8 else 4) = 0 → fn.val ≠ 0 → 0x70000 ≤ o → o < 0xB0000 →
        Completes (.registerWrite fn off wide v) s (fun t => t = s)))) ∧
  (∀ (fn : FnId) (v : W64) (s : State), fn.val = 0 → s.bar0 0 = true →
    let only (t : State) (k : Nat) : Prop := t = { s with regs := t.regs } ∧
      ∀ f x, f < 16 → x < 2 ^ 24 → f ≠ 0 ∨ x ≠ k → t.reg f x = s.reg f x
    let wr (o : Nat) (wide : Bool) (P : State → Prop) : Prop := Completes (.registerWrite fn (BitVec.ofNat 24 o) wide v) s P
    (∀ o, 0x40 ≤ o → o < 0x80 → o % 8 = 0 → wr o true (fun t => only t o ∧ t.readReg 0 o = v)) ∧
    (∀ p o, p < 8 → o < 0x1000 → o % 8 = 0 → s.tdiHeld p = false → s.prBusy p = false →
      let k := 0x60000 + 0x1000 * p + o
      (∀ w, slotReg o (s.partReg p o) v = some w → wr k true (fun t => only t k ∧ t.reg 0 k = w)) ∧
      (slotReg o (s.partReg p o) v = none → wr k true (fun t => t = s))) ∧
    (∀ p, p < 8 → s.tdiHeld p = false →
      let k := 0x60000 + 0x1000 * p
      wr (k + 8) false (fun t => only t (k + 8) ∧ t.reg 0 (k + 8) = setFld (s.reg 0 (k + 8)) 31 0 (fld v 31 0)) ∧
      wr (k + 12) false (fun t => only t (k + 8) ∧ t.reg 0 (k + 8) = setFld (s.reg 0 (k + 8)) 63 32 (fld v 31 0)) ∧
      (fld v 14 0 ≤ 16384 → wr (k + 0x50) true (fun t => fld (t.reg 0 (k + 0x50)) 14 0 = fld v 14 0)) ∧
      (16384 < fld v 14 0 → wr (k + 0x50) true (fun t => t.reg 0 (k + 0x50) = s.reg 0 (k + 0x50)))) ∧
    (∀ p o, p < 8 → o < 0x1000 → o % 8 = 0 → s.tdiHeld p = true → wr (0x60000 + 0x1000 * p + o) true (fun t => t = s)) ∧
    (∀ d, d < 512 → wr (0x71000 + 8 * d) true (fun t => only t (0x71000 + 8 * d) ∧
      t.reg 0 (0x71000 + 8 * d) = BitVec.ofNat 64 (fld v 15 0))) ∧
    (let op := fld v 5 3
     (1 ≤ op → op ≤ 3 → wr 0x50000 true (fun t => t = s.partOp 0 (fld v 2 0) op)) ∧
     (op = 0 ∨ 3 < op → s.partCtl.busy = false → s.firmwareUp = true → wr 0x50000 true (fun t =>
       t = { s with partCtl := { s.partCtl with status := 0x0F, partition := fld v 2 0 } }))) ∧
    (let op := fld v 10 8
     (1 ≤ op → op ≤ 5 → wr 0x41010 true (fun t => t = s.regionOp fn (fld v 7 0) op)) ∧
     (op = 0 ∨ 5 < op → s.memory.ctl.busy = false → s.firmwareUp = true → wr 0x41010 true (fun t =>
       t = s.endRegionCmd (fld v 7 0) op 9))) ∧
    wr 0x80000 true (fun t => only t 0x80000 ∧ fld (t.reg 0 0x80000) 1 0 = fld v 1 0)) ∧
  (∀ (fn : FnId) (p : PartId) (s : State), s.bar0 fn = false → Completes (.partStepRead fn p) s (fun t => t = s)) ∧
  (∀ (fn : FnId) (p : PartId) (s : State), s.bar0 fn = true →
    (fn.val = 0 ∨ fn.val = p.val + 1 → Completes (.partStepRead fn p) s (fun t => t = { s with
      out := s.out ++ [.value (s.part p).round.step] })) ∧
    (fn.val ≠ 0 → fn.val ≠ p.val + 1 → Completes (.partStepRead fn p) s (fun t => t = { s with out := s.out ++ [.value 0] })))

/-! ### The whole machine -/

/-- A step runs the command at the front of the queue on the state with the queue's rest, whatever they are; on an empty queue the block
idles (log 1). -/
def Obligations.StepRunsTheFrontCommand : Prop :=
  (∀ (c : Instr) (rest : List Instr) (s : State), step { s with pending := c :: rest } = exec c { s with pending := rest }) ∧
  (∀ s : State, s.pending = [] → step s = .next s)

/-- Every command, in every state, answers a next state (log 1), and none touches the queue of the commands that wait. -/
def Obligations.CommandsLeaveTheQueueAlone : Prop :=
  ∀ (i : Instr) (s : State), Completes i s (fun t => t.pending = s.pending)

/-- Whatever command runs, device memory keeps its canonical form: addresses strictly rising, and no byte listed that reads as an
unwritten one. -/
def Obligations.StepKeepsMemoryCanonical : Prop :=
  ∀ (s t : State), Memory.wf blankByte s.mem = true → step s = .next t → Memory.wf blankByte t.mem = true

/-- Whatever command runs, the set-up registers hold no reserved code (00 R12): the spill field of every PART_CFG is none but 0 to 2, its
time slice 5 to 640 (13 R335), its round of at most 16,384 entries (07 R199), its pool and key fields in their ranges (08 R233; 10 R284),
and the PTM interval is 1 to 1,000 ms (18 R441). -/
def Obligations.StepKeepsSetUpRegistersLegal : Prop :=
  ∀ (s t : State), RegistersLegal s → step s = .next t → RegistersLegal t

/-- At reset: no command waits, memory is canonical and every line reads blank, the set-up registers hold no reserved code, no partition
exists, no cluster has a job, no engine a run, no port is up, and the boot has not run. -/
def Obligations.ResetMeetsTheInvariants : Prop :=
  State.reset.pending = [] ∧ Memory.wf blankByte State.reset.mem = true ∧ RegistersLegal State.reset ∧
    (∀ l, State.reset.stored l = blankLine) ∧ (∀ p, (State.reset.part p).mode = .empty) ∧
    (∀ c, (State.reset.cluster c).job = none) ∧ (∀ e, (State.reset.engine e).busy = false) ∧
    (∀ n, (State.reset.port n).isUp = false) ∧ State.reset.module.stage = 0 ∧ State.reset.module.booted = false ∧
    State.reset.sec.debugOpen = false ∧ State.reset.time.running = false
end

