-- ==== Sys2Proof/Laws/Tab.lean ====
section
/-! SUPPORT. What the canonical tables do: read after write, other keys kept, the form kept by every operation. -/

namespace Sys2Proof.Laws

open Sys2Proof.Machine

variable {α : Type} [DecidableEq α]

omit [DecidableEq α] in
@[simp] theorem tab_get_nil (d : Nat → α) (k : Nat) : Tab.get d [] k = d k := rfl

omit [DecidableEq α] in
/-- A dropped key reads as unlisted. -/
@[simp] theorem tab_get_drop_same (d : Nat → α) (t : Tab α) (k : Nat) : Tab.get d (Tab.drop k t) k = d k := by
  induction t with
  | nil => rfl
  | cons e t ih =>
    obtain ⟨j, w⟩ := e
    by_cases h : j = k
    · simpa [Tab.drop, List.filter_cons, h] using ih
    · have : k ≠ j := fun q => h q.symm
      simpa [Tab.drop, List.filter_cons, h, Tab.get, this] using ih

omit [DecidableEq α] in
/-- Other keys read as before a drop. -/
@[simp] theorem tab_get_drop_ne (d : Nat → α) (t : Tab α) (k i : Nat) (h : i ≠ k) :
    Tab.get d (Tab.drop k t) i = Tab.get d t i := by
  induction t with
  | nil => rfl
  | cons e t ih =>
    obtain ⟨j, w⟩ := e
    by_cases hj : j = k
    · have : i ≠ j := by omega
      simpa [Tab.drop, List.filter_cons, hj, Tab.get, h, this] using ih
    · by_cases hi : i = j
      · subst hi; simp [Tab.drop, List.filter_cons, h, Tab.get]
      · simpa [Tab.drop, List.filter_cons, hj, Tab.get, hi] using ih

/-- Read after write, same key. -/
@[simp] theorem tab_get_set_same (d : Nat → α) (t : Tab α) (k : Nat) (v : α) : Tab.get d (Tab.set d t k v) k = v := by
  induction t with
  | nil => simp only [Tab.set]; split <;> simp_all [Tab.get]
  | cons e t ih =>
    obtain ⟨j, w⟩ := e
    simp only [Tab.set]
    split
    · rename_i hlt
      split
      · rename_i hv
        have hne : k ≠ j := by omega
        simp [Tab.get, hne, hv]
      · simp [Tab.get]
    · split
      · split
        · rename_i hv; simp [hv]
        · simp [Tab.get]
      · rename_i _ hne
        simp only [Tab.get, hne, if_false]
        exact ih

/-- Read after write, another key. -/
@[simp] theorem tab_get_set_ne (d : Nat → α) (t : Tab α) (k i : Nat) (v : α) (h : i ≠ k) :
    Tab.get d (Tab.set d t k v) i = Tab.get d t i := by
  induction t with
  | nil => simp only [Tab.set]; split <;> simp [Tab.get, h]
  | cons e t ih =>
    obtain ⟨j, w⟩ := e
    simp only [Tab.set]
    split
    · split
      · by_cases hi : i = j
        · simp [Tab.get, hi]
        · simp [Tab.get, hi, h]
      · simp [Tab.get, h]
    · split
      · rename_i _ heq
        subst heq
        split <;> simp [Tab.get, h]
      · simp only [Tab.get]; split
        · rfl
        · exact ih

/-- Read after write at any key. -/
theorem tab_get_set (d : Nat → α) (t : Tab α) (k i : Nat) (v : α) :
    Tab.get d (Tab.set d t k v) i = if i = k then v else Tab.get d t i := by
  by_cases hi : i = k
  · subst hi; simp
  · simp [hi]

/-- Read after a change, same key. -/
@[simp] theorem tab_get_modify_same (d : Nat → α) (t : Tab α) (k : Nat) (f : α → α) :
    Tab.get d (Tab.modify d t k f) k = f (Tab.get d t k) := by simp [Tab.modify]

/-- Read after a change, another key. -/
@[simp] theorem tab_get_modify_ne (d : Nat → α) (t : Tab α) (k i : Nat) (f : α → α) (h : i ≠ k) :
    Tab.get d (Tab.modify d t k f) i = Tab.get d t i := by simp [Tab.modify, h]

theorem tab_wfFrom_mono (d : Nat → α) (t : Tab α) (lo lo' : Nat) (h : Tab.wfFrom d lo t = true) (hle : lo' ≤ lo) :
    Tab.wfFrom d lo' t = true := by
  cases t with
  | nil => rfl
  | cons e t =>
    simp only [Tab.wfFrom, Bool.and_eq_true, decide_eq_true_eq] at h ⊢
    exact ⟨⟨by omega, h.1.2⟩, h.2⟩

theorem tab_drop_wfFrom (d : Nat → α) (t : Tab α) (lo k : Nat) (h : Tab.wfFrom d lo t = true) :
    Tab.wfFrom d lo (Tab.drop k t) = true := by
  induction t generalizing lo with
  | nil => rfl
  | cons e t ih =>
    obtain ⟨j, w⟩ := e
    simp only [Tab.wfFrom, Bool.and_eq_true, decide_eq_true_eq] at h
    simp only [Tab.drop, List.filter]
    split
    · simp only [Tab.wfFrom, Bool.and_eq_true, decide_eq_true_eq]
      exact ⟨h.1, ih (j + 1) h.2⟩
    · exact tab_wfFrom_mono d _ (j + 1) lo (ih (j + 1) h.2) (by omega)

theorem tab_set_wfFrom (d : Nat → α) (t : Tab α) (lo k : Nat) (v : α) (h : Tab.wfFrom d lo t = true) (hk : lo ≤ k) :
    Tab.wfFrom d lo (Tab.set d t k v) = true := by
  induction t generalizing lo with
  | nil => simp only [Tab.set]; split <;> simp_all [Tab.wfFrom]
  | cons e t ih =>
    obtain ⟨j, w⟩ := e
    simp only [Tab.wfFrom, Bool.and_eq_true, decide_eq_true_eq] at h
    simp only [Tab.set]
    split
    · rename_i hlt
      split
      · simp only [Tab.wfFrom, Bool.and_eq_true, decide_eq_true_eq]
        exact ⟨h.1, tab_drop_wfFrom d t (j + 1) k h.2⟩
      · rename_i hv
        simp only [Tab.wfFrom, Bool.and_eq_true, decide_eq_true_eq]
        exact ⟨⟨hk, by simp [hv]⟩, ⟨by omega, h.1.2⟩, h.2⟩
    · split
      · rename_i _ heq
        split
        · exact tab_wfFrom_mono d _ (j + 1) lo (tab_drop_wfFrom d t (j + 1) k h.2) (by omega)
        · rename_i hv
          simp only [Tab.wfFrom, Bool.and_eq_true, decide_eq_true_eq]
          exact ⟨⟨hk, by simp [hv]⟩, by rw [heq]; exact h.2⟩
      · simp only [Tab.wfFrom, Bool.and_eq_true, decide_eq_true_eq]
        exact ⟨h.1, ih (j + 1) h.2 (by omega)⟩

/-- A write keeps the canonical form. -/
theorem tab_set_wf (d : Nat → α) (t : Tab α) (k : Nat) (v : α) (h : Tab.wf d t = true) :
    Tab.wf d (Tab.set d t k v) = true :=
  tab_set_wfFrom d t 0 k v h (Nat.zero_le k)

/-- A change at a key keeps the canonical form. -/
theorem tab_modify_wf (d : Nat → α) (t : Tab α) (k : Nat) (f : α → α) (h : Tab.wf d t = true) :
    Tab.wf d (Tab.modify d t k f) = true :=
  tab_set_wf d t k _ h

/-- A block write keeps the canonical form. -/
theorem tab_setList_wf (d : Nat → α) (vs : List α) (t : Tab α) (k : Nat) (h : Tab.wf d t = true) :
    Tab.wf d (Tab.setList d t k vs) = true := by
  induction vs generalizing t k with
  | nil => exact h
  | cons v vs ih => exact ih _ _ (tab_set_wf d t k v h)

theorem tab_keep_wfFrom (d : Nat → α) (p : Nat → Bool) (t : Tab α) (lo : Nat) (h : Tab.wfFrom d lo t = true) :
    Tab.wfFrom d lo (Tab.keep p t) = true := by
  induction t generalizing lo with
  | nil => rfl
  | cons e t ih =>
    obtain ⟨j, w⟩ := e
    simp only [Tab.wfFrom, Bool.and_eq_true, decide_eq_true_eq] at h
    simp only [Tab.keep, List.filter]
    split
    · simp only [Tab.wfFrom, Bool.and_eq_true, decide_eq_true_eq]
      exact ⟨h.1, ih (j + 1) h.2⟩
    · exact tab_wfFrom_mono d _ (j + 1) lo (ih (j + 1) h.2) (by omega)

/-- Dropping keys keeps the canonical form. -/
theorem tab_keep_wf (d : Nat → α) (p : Nat → Bool) (t : Tab α) (h : Tab.wf d t = true) :
    Tab.wf d (Tab.keep p t) = true :=
  tab_keep_wfFrom d p t 0 h

/-- A block write leaves every key outside the block. -/
theorem tab_get_setList_outside (d : Nat → α) (vs : List α) (t : Tab α) (k i : Nat)
    (h : i < k ∨ k + vs.length ≤ i) : Tab.get d (Tab.setList d t k vs) i = Tab.get d t i := by
  induction vs generalizing t k with
  | nil => rfl
  | cons v vs ih =>
    simp only [Tab.setList, List.length_cons] at *
    rw [ih _ (k + 1) (by omega), tab_get_set_ne _ _ _ _ _ (by omega)]

omit [DecidableEq α] in
/-- Keeping the keys that a predicate names: those read as before, the others as unlisted. -/
theorem tab_get_keep (d : Nat → α) (p : Nat → Bool) (t : Tab α) (k : Nat) :
    Tab.get d (Tab.keep p t) k = if p k then Tab.get d t k else d k := by
  induction t with
  | nil => simp [Tab.keep, Tab.get]
  | cons e t ih =>
    obtain ⟨j, w⟩ := e
    simp only [Tab.keep, List.filter] at ih ⊢
    by_cases hj : p j
    · simp only [hj, Tab.get]
      by_cases hk : k = j
      · subst hk; simp [hj]
      · simp [hk, ih]
    · simp only [hj, Tab.get]
      by_cases hk : k = j
      · subst hk; simp [hj, ih]
      · simp [hk, ih]

/-- Changing every listed value: each key reads as the changed value, where the function leaves the unlisted ones. -/
theorem tab_get_mapVals (d : Nat → α) (f : α → α) (t : Tab α) (k : Nat) (h : f (d k) = d k) :
    Tab.get d (Tab.mapVals d f t) k = f (Tab.get d t k) := by
  induction t with
  | nil => simp [Tab.mapVals, Tab.get, h]
  | cons e t ih =>
    obtain ⟨j, w⟩ := e
    simp only [Tab.mapVals, List.foldr] at ih ⊢
    by_cases hj : f w = d j
    · simp only [hj, if_true, Tab.get]
      by_cases hk : k = j
      · subst hk; simp [hj]
      · simp [hk, tab_get_drop_ne, ih]
    · simp only [hj, if_false, Tab.get]
      by_cases hk : k = j
      · subst hk; simp
      · simp [hk, ih]

theorem tab_mapVals_wfFrom (d : Nat → α) (f : α → α) (t : Tab α) (lo : Nat) (h : Tab.wfFrom d lo t = true) :
    Tab.wfFrom d lo (Tab.mapVals d f t) = true := by
  induction t generalizing lo with
  | nil => simp [Tab.mapVals, Tab.wfFrom]
  | cons e t ih =>
    obtain ⟨j, w⟩ := e
    simp only [Tab.wfFrom, Bool.and_eq_true, decide_eq_true_eq] at h
    have ih' := ih (j + 1) h.2
    simp only [Tab.mapVals, List.foldr] at ih' ⊢
    split
    · exact tab_wfFrom_mono d _ (j + 1) lo (tab_drop_wfFrom d _ (j + 1) j ih') (by omega)
    · rename_i hne
      simp only [Tab.wfFrom, Bool.and_eq_true, decide_eq_true_eq]
      exact ⟨⟨h.1.1, by simp [hne]⟩, ih'⟩

/-- Changing every listed value keeps the canonical form. -/
theorem tab_mapVals_wf (d : Nat → α) (f : α → α) (t : Tab α) (h : Tab.wf d t = true) : Tab.wf d (Tab.mapVals d f t) = true :=
  tab_mapVals_wfFrom d f t 0 h

end Sys2Proof.Laws
end

