-- ==== Sys2Proof/Laws/State.lean ====
section
/-! SUPPORT. One lemma per field per update of the state: what each update leaves, by computation, and what it changes. -/

namespace Sys2Proof.Laws

open Sys2Proof.Machine

variable (s : State)

/-! ### modCluster -/

@[simp] theorem modCluster_pending (n : Nat) (f : Cluster → Cluster) : (s.modCluster n f).pending = s.pending := rfl
@[simp] theorem modCluster_free (n : Nat) (f : Cluster → Cluster) : (s.modCluster n f).free = s.free := rfl
@[simp] theorem modCluster_out (n : Nat) (f : Cluster → Cluster) : (s.modCluster n f).out = s.out := rfl
@[simp] theorem modCluster_unsent (n : Nat) (f : Cluster → Cluster) : (s.modCluster n f).unsent = s.unsent := rfl
@[simp] theorem modCluster_buckets (n : Nat) (f : Cluster → Cluster) : (s.modCluster n f).buckets = s.buckets := rfl
@[simp] theorem modCluster_quarters (n : Nat) (f : Cluster → Cluster) : (s.modCluster n f).quarters = s.quarters := rfl
@[simp] theorem modCluster_stackTab (n : Nat) (f : Cluster → Cluster) : (s.modCluster n f).stackTab = s.stackTab := rfl
@[simp] theorem modCluster_engines (n : Nat) (f : Cluster → Cluster) : (s.modCluster n f).engines = s.engines := rfl
@[simp] theorem modCluster_mem (n : Nat) (f : Cluster → Cluster) : (s.modCluster n f).mem = s.mem := rfl
@[simp] theorem modCluster_memory (n : Nat) (f : Cluster → Cluster) : (s.modCluster n f).memory = s.memory := rfl
@[simp] theorem modCluster_parts (n : Nat) (f : Cluster → Cluster) : (s.modCluster n f).parts = s.parts := rfl
@[simp] theorem modCluster_partCtl (n : Nat) (f : Cluster → Cluster) : (s.modCluster n f).partCtl = s.partCtl := rfl
@[simp] theorem modCluster_copies (n : Nat) (f : Cluster → Cluster) : (s.modCluster n f).copies = s.copies := rfl
@[simp] theorem modCluster_nextCopy (n : Nat) (f : Cluster → Cluster) : (s.modCluster n f).nextCopy = s.nextCopy := rfl
@[simp] theorem modCluster_fns (n : Nat) (f : Cluster → Cluster) : (s.modCluster n f).fns = s.fns := rfl
@[simp] theorem modCluster_intr (n : Nat) (f : Cluster → Cluster) : (s.modCluster n f).intr = s.intr := rfl
@[simp] theorem modCluster_regs (n : Nat) (f : Cluster → Cluster) : (s.modCluster n f).regs = s.regs := rfl
@[simp] theorem modCluster_links (n : Nat) (f : Cluster → Cluster) : (s.modCluster n f).links = s.links := rfl
@[simp] theorem modCluster_sec (n : Nat) (f : Cluster → Cluster) : (s.modCluster n f).sec = s.sec := rfl
@[simp] theorem modCluster_power (n : Nat) (f : Cluster → Cluster) : (s.modCluster n f).power = s.power := rfl
@[simp] theorem modCluster_time (n : Nat) (f : Cluster → Cluster) : (s.modCluster n f).time = s.time := rfl
@[simp] theorem modCluster_module (n : Nat) (f : Cluster → Cluster) : (s.modCluster n f).module = s.module := rfl
@[simp] theorem modCluster_spares (n : Nat) (f : Cluster → Cluster) : (s.modCluster n f).spares = s.spares := rfl
@[simp] theorem modCluster_quarter (n : Nat) (f : Cluster → Cluster) (i : Nat) : (s.modCluster n f).quarter i = s.quarter i := rfl
@[simp] theorem modCluster_stack (n : Nat) (f : Cluster → Cluster) (i : Nat) : (s.modCluster n f).stack i = s.stack i := rfl
@[simp] theorem modCluster_engine (n : Nat) (f : Cluster → Cluster) (i : Nat) : (s.modCluster n f).engine i = s.engine i := rfl
@[simp] theorem modCluster_part (n : Nat) (f : Cluster → Cluster) (i : Nat) : (s.modCluster n f).part i = s.part i := rfl
@[simp] theorem modCluster_round (n : Nat) (f : Cluster → Cluster) (i : Nat) : (s.modCluster n f).round i = s.round i := rfl
@[simp] theorem modCluster_fn (n : Nat) (f : Cluster → Cluster) (i : Nat) : (s.modCluster n f).fn i = s.fn i := rfl
@[simp] theorem modCluster_region (n : Nat) (f : Cluster → Cluster) (i : Nat) : (s.modCluster n f).region i = s.region i := rfl
@[simp] theorem modCluster_port (n : Nat) (f : Cluster → Cluster) (i : Nat) : (s.modCluster n f).port i = s.port i := rfl
@[simp] theorem modCluster_session (n : Nat) (f : Cluster → Cluster) (i : Nat) : (s.modCluster n f).session i = s.session i := rfl
@[simp] theorem modCluster_core (n : Nat) (f : Cluster → Cluster) (i : Nat) : (s.modCluster n f).core i = s.core i := rfl
@[simp] theorem modCluster_icLine (n : Nat) (f : Cluster → Cluster) (i : Nat) : (s.modCluster n f).icLine i = s.icLine i := rfl
@[simp] theorem modCluster_site (n : Nat) (f : Cluster → Cluster) (i : Nat) : (s.modCluster n f).site i = s.site i := rfl
@[simp] theorem modCluster_rail (n : Nat) (f : Cluster → Cluster) (i : Nat) : (s.modCluster n f).rail i = s.rail i := rfl
@[simp] theorem modCluster_consumer (n : Nat) (f : Cluster → Cluster) (i : Nat) : (s.modCluster n f).consumer i = s.consumer i := rfl
@[simp] theorem modCluster_cluster_same (n : Nat) (f : Cluster → Cluster) : (s.modCluster n f).cluster n = f (s.cluster n) := by simp [State.modCluster, State.cluster]
@[simp] theorem modCluster_cluster_ne (n : Nat) (f : Cluster → Cluster) (i : Nat) (h : i ≠ n) : (s.modCluster n f).cluster i = s.cluster i := by simp [State.modCluster, State.cluster, h]

/-! ### modQuarter -/

@[simp] theorem modQuarter_pending (n : Nat) (f : Quarter → Quarter) : (s.modQuarter n f).pending = s.pending := rfl
@[simp] theorem modQuarter_free (n : Nat) (f : Quarter → Quarter) : (s.modQuarter n f).free = s.free := rfl
@[simp] theorem modQuarter_out (n : Nat) (f : Quarter → Quarter) : (s.modQuarter n f).out = s.out := rfl
@[simp] theorem modQuarter_unsent (n : Nat) (f : Quarter → Quarter) : (s.modQuarter n f).unsent = s.unsent := rfl
@[simp] theorem modQuarter_buckets (n : Nat) (f : Quarter → Quarter) : (s.modQuarter n f).buckets = s.buckets := rfl
@[simp] theorem modQuarter_clusters (n : Nat) (f : Quarter → Quarter) : (s.modQuarter n f).clusters = s.clusters := rfl
@[simp] theorem modQuarter_stackTab (n : Nat) (f : Quarter → Quarter) : (s.modQuarter n f).stackTab = s.stackTab := rfl
@[simp] theorem modQuarter_engines (n : Nat) (f : Quarter → Quarter) : (s.modQuarter n f).engines = s.engines := rfl
@[simp] theorem modQuarter_mem (n : Nat) (f : Quarter → Quarter) : (s.modQuarter n f).mem = s.mem := rfl
@[simp] theorem modQuarter_memory (n : Nat) (f : Quarter → Quarter) : (s.modQuarter n f).memory = s.memory := rfl
@[simp] theorem modQuarter_parts (n : Nat) (f : Quarter → Quarter) : (s.modQuarter n f).parts = s.parts := rfl
@[simp] theorem modQuarter_partCtl (n : Nat) (f : Quarter → Quarter) : (s.modQuarter n f).partCtl = s.partCtl := rfl
@[simp] theorem modQuarter_copies (n : Nat) (f : Quarter → Quarter) : (s.modQuarter n f).copies = s.copies := rfl
@[simp] theorem modQuarter_nextCopy (n : Nat) (f : Quarter → Quarter) : (s.modQuarter n f).nextCopy = s.nextCopy := rfl
@[simp] theorem modQuarter_fns (n : Nat) (f : Quarter → Quarter) : (s.modQuarter n f).fns = s.fns := rfl
@[simp] theorem modQuarter_intr (n : Nat) (f : Quarter → Quarter) : (s.modQuarter n f).intr = s.intr := rfl
@[simp] theorem modQuarter_regs (n : Nat) (f : Quarter → Quarter) : (s.modQuarter n f).regs = s.regs := rfl
@[simp] theorem modQuarter_links (n : Nat) (f : Quarter → Quarter) : (s.modQuarter n f).links = s.links := rfl
@[simp] theorem modQuarter_sec (n : Nat) (f : Quarter → Quarter) : (s.modQuarter n f).sec = s.sec := rfl
@[simp] theorem modQuarter_power (n : Nat) (f : Quarter → Quarter) : (s.modQuarter n f).power = s.power := rfl
@[simp] theorem modQuarter_time (n : Nat) (f : Quarter → Quarter) : (s.modQuarter n f).time = s.time := rfl
@[simp] theorem modQuarter_module (n : Nat) (f : Quarter → Quarter) : (s.modQuarter n f).module = s.module := rfl
@[simp] theorem modQuarter_spares (n : Nat) (f : Quarter → Quarter) : (s.modQuarter n f).spares = s.spares := rfl
@[simp] theorem modQuarter_cluster (n : Nat) (f : Quarter → Quarter) (i : Nat) : (s.modQuarter n f).cluster i = s.cluster i := rfl
@[simp] theorem modQuarter_stack (n : Nat) (f : Quarter → Quarter) (i : Nat) : (s.modQuarter n f).stack i = s.stack i := rfl
@[simp] theorem modQuarter_engine (n : Nat) (f : Quarter → Quarter) (i : Nat) : (s.modQuarter n f).engine i = s.engine i := rfl
@[simp] theorem modQuarter_part (n : Nat) (f : Quarter → Quarter) (i : Nat) : (s.modQuarter n f).part i = s.part i := rfl
@[simp] theorem modQuarter_round (n : Nat) (f : Quarter → Quarter) (i : Nat) : (s.modQuarter n f).round i = s.round i := rfl
@[simp] theorem modQuarter_fn (n : Nat) (f : Quarter → Quarter) (i : Nat) : (s.modQuarter n f).fn i = s.fn i := rfl
@[simp] theorem modQuarter_region (n : Nat) (f : Quarter → Quarter) (i : Nat) : (s.modQuarter n f).region i = s.region i := rfl
@[simp] theorem modQuarter_port (n : Nat) (f : Quarter → Quarter) (i : Nat) : (s.modQuarter n f).port i = s.port i := rfl
@[simp] theorem modQuarter_session (n : Nat) (f : Quarter → Quarter) (i : Nat) : (s.modQuarter n f).session i = s.session i := rfl
@[simp] theorem modQuarter_core (n : Nat) (f : Quarter → Quarter) (i : Nat) : (s.modQuarter n f).core i = s.core i := rfl
@[simp] theorem modQuarter_icLine (n : Nat) (f : Quarter → Quarter) (i : Nat) : (s.modQuarter n f).icLine i = s.icLine i := rfl
@[simp] theorem modQuarter_site (n : Nat) (f : Quarter → Quarter) (i : Nat) : (s.modQuarter n f).site i = s.site i := rfl
@[simp] theorem modQuarter_rail (n : Nat) (f : Quarter → Quarter) (i : Nat) : (s.modQuarter n f).rail i = s.rail i := rfl
@[simp] theorem modQuarter_consumer (n : Nat) (f : Quarter → Quarter) (i : Nat) : (s.modQuarter n f).consumer i = s.consumer i := rfl
@[simp] theorem modQuarter_quarter_same (n : Nat) (f : Quarter → Quarter) : (s.modQuarter n f).quarter n = f (s.quarter n) := by simp [State.modQuarter, State.quarter]
@[simp] theorem modQuarter_quarter_ne (n : Nat) (f : Quarter → Quarter) (i : Nat) (h : i ≠ n) : (s.modQuarter n f).quarter i = s.quarter i := by simp [State.modQuarter, State.quarter, h]

/-! ### modStack -/

@[simp] theorem modStack_pending (n : Nat) (f : Stack → Stack) : (s.modStack n f).pending = s.pending := rfl
@[simp] theorem modStack_free (n : Nat) (f : Stack → Stack) : (s.modStack n f).free = s.free := rfl
@[simp] theorem modStack_out (n : Nat) (f : Stack → Stack) : (s.modStack n f).out = s.out := rfl
@[simp] theorem modStack_unsent (n : Nat) (f : Stack → Stack) : (s.modStack n f).unsent = s.unsent := rfl
@[simp] theorem modStack_buckets (n : Nat) (f : Stack → Stack) : (s.modStack n f).buckets = s.buckets := rfl
@[simp] theorem modStack_clusters (n : Nat) (f : Stack → Stack) : (s.modStack n f).clusters = s.clusters := rfl
@[simp] theorem modStack_quarters (n : Nat) (f : Stack → Stack) : (s.modStack n f).quarters = s.quarters := rfl
@[simp] theorem modStack_engines (n : Nat) (f : Stack → Stack) : (s.modStack n f).engines = s.engines := rfl
@[simp] theorem modStack_mem (n : Nat) (f : Stack → Stack) : (s.modStack n f).mem = s.mem := rfl
@[simp] theorem modStack_memory (n : Nat) (f : Stack → Stack) : (s.modStack n f).memory = s.memory := rfl
@[simp] theorem modStack_parts (n : Nat) (f : Stack → Stack) : (s.modStack n f).parts = s.parts := rfl
@[simp] theorem modStack_partCtl (n : Nat) (f : Stack → Stack) : (s.modStack n f).partCtl = s.partCtl := rfl
@[simp] theorem modStack_copies (n : Nat) (f : Stack → Stack) : (s.modStack n f).copies = s.copies := rfl
@[simp] theorem modStack_nextCopy (n : Nat) (f : Stack → Stack) : (s.modStack n f).nextCopy = s.nextCopy := rfl
@[simp] theorem modStack_fns (n : Nat) (f : Stack → Stack) : (s.modStack n f).fns = s.fns := rfl
@[simp] theorem modStack_intr (n : Nat) (f : Stack → Stack) : (s.modStack n f).intr = s.intr := rfl
@[simp] theorem modStack_regs (n : Nat) (f : Stack → Stack) : (s.modStack n f).regs = s.regs := rfl
@[simp] theorem modStack_links (n : Nat) (f : Stack → Stack) : (s.modStack n f).links = s.links := rfl
@[simp] theorem modStack_sec (n : Nat) (f : Stack → Stack) : (s.modStack n f).sec = s.sec := rfl
@[simp] theorem modStack_power (n : Nat) (f : Stack → Stack) : (s.modStack n f).power = s.power := rfl
@[simp] theorem modStack_time (n : Nat) (f : Stack → Stack) : (s.modStack n f).time = s.time := rfl
@[simp] theorem modStack_module (n : Nat) (f : Stack → Stack) : (s.modStack n f).module = s.module := rfl
@[simp] theorem modStack_spares (n : Nat) (f : Stack → Stack) : (s.modStack n f).spares = s.spares := rfl
@[simp] theorem modStack_cluster (n : Nat) (f : Stack → Stack) (i : Nat) : (s.modStack n f).cluster i = s.cluster i := rfl
@[simp] theorem modStack_quarter (n : Nat) (f : Stack → Stack) (i : Nat) : (s.modStack n f).quarter i = s.quarter i := rfl
@[simp] theorem modStack_engine (n : Nat) (f : Stack → Stack) (i : Nat) : (s.modStack n f).engine i = s.engine i := rfl
@[simp] theorem modStack_part (n : Nat) (f : Stack → Stack) (i : Nat) : (s.modStack n f).part i = s.part i := rfl
@[simp] theorem modStack_round (n : Nat) (f : Stack → Stack) (i : Nat) : (s.modStack n f).round i = s.round i := rfl
@[simp] theorem modStack_fn (n : Nat) (f : Stack → Stack) (i : Nat) : (s.modStack n f).fn i = s.fn i := rfl
@[simp] theorem modStack_region (n : Nat) (f : Stack → Stack) (i : Nat) : (s.modStack n f).region i = s.region i := rfl
@[simp] theorem modStack_port (n : Nat) (f : Stack → Stack) (i : Nat) : (s.modStack n f).port i = s.port i := rfl
@[simp] theorem modStack_session (n : Nat) (f : Stack → Stack) (i : Nat) : (s.modStack n f).session i = s.session i := rfl
@[simp] theorem modStack_core (n : Nat) (f : Stack → Stack) (i : Nat) : (s.modStack n f).core i = s.core i := rfl
@[simp] theorem modStack_icLine (n : Nat) (f : Stack → Stack) (i : Nat) : (s.modStack n f).icLine i = s.icLine i := rfl
@[simp] theorem modStack_site (n : Nat) (f : Stack → Stack) (i : Nat) : (s.modStack n f).site i = s.site i := rfl
@[simp] theorem modStack_rail (n : Nat) (f : Stack → Stack) (i : Nat) : (s.modStack n f).rail i = s.rail i := rfl
@[simp] theorem modStack_consumer (n : Nat) (f : Stack → Stack) (i : Nat) : (s.modStack n f).consumer i = s.consumer i := rfl
@[simp] theorem modStack_stack_same (n : Nat) (f : Stack → Stack) : (s.modStack n f).stack n = f (s.stack n) := by simp [State.modStack, State.stack]
@[simp] theorem modStack_stack_ne (n : Nat) (f : Stack → Stack) (i : Nat) (h : i ≠ n) : (s.modStack n f).stack i = s.stack i := by simp [State.modStack, State.stack, h]

/-! ### modEngine -/

@[simp] theorem modEngine_pending (n : Nat) (f : Engine → Engine) : (s.modEngine n f).pending = s.pending := rfl
@[simp] theorem modEngine_free (n : Nat) (f : Engine → Engine) : (s.modEngine n f).free = s.free := rfl
@[simp] theorem modEngine_out (n : Nat) (f : Engine → Engine) : (s.modEngine n f).out = s.out := rfl
@[simp] theorem modEngine_unsent (n : Nat) (f : Engine → Engine) : (s.modEngine n f).unsent = s.unsent := rfl
@[simp] theorem modEngine_buckets (n : Nat) (f : Engine → Engine) : (s.modEngine n f).buckets = s.buckets := rfl
@[simp] theorem modEngine_clusters (n : Nat) (f : Engine → Engine) : (s.modEngine n f).clusters = s.clusters := rfl
@[simp] theorem modEngine_quarters (n : Nat) (f : Engine → Engine) : (s.modEngine n f).quarters = s.quarters := rfl
@[simp] theorem modEngine_stackTab (n : Nat) (f : Engine → Engine) : (s.modEngine n f).stackTab = s.stackTab := rfl
@[simp] theorem modEngine_mem (n : Nat) (f : Engine → Engine) : (s.modEngine n f).mem = s.mem := rfl
@[simp] theorem modEngine_memory (n : Nat) (f : Engine → Engine) : (s.modEngine n f).memory = s.memory := rfl
@[simp] theorem modEngine_parts (n : Nat) (f : Engine → Engine) : (s.modEngine n f).parts = s.parts := rfl
@[simp] theorem modEngine_partCtl (n : Nat) (f : Engine → Engine) : (s.modEngine n f).partCtl = s.partCtl := rfl
@[simp] theorem modEngine_copies (n : Nat) (f : Engine → Engine) : (s.modEngine n f).copies = s.copies := rfl
@[simp] theorem modEngine_nextCopy (n : Nat) (f : Engine → Engine) : (s.modEngine n f).nextCopy = s.nextCopy := rfl
@[simp] theorem modEngine_fns (n : Nat) (f : Engine → Engine) : (s.modEngine n f).fns = s.fns := rfl
@[simp] theorem modEngine_intr (n : Nat) (f : Engine → Engine) : (s.modEngine n f).intr = s.intr := rfl
@[simp] theorem modEngine_regs (n : Nat) (f : Engine → Engine) : (s.modEngine n f).regs = s.regs := rfl
@[simp] theorem modEngine_links (n : Nat) (f : Engine → Engine) : (s.modEngine n f).links = s.links := rfl
@[simp] theorem modEngine_sec (n : Nat) (f : Engine → Engine) : (s.modEngine n f).sec = s.sec := rfl
@[simp] theorem modEngine_power (n : Nat) (f : Engine → Engine) : (s.modEngine n f).power = s.power := rfl
@[simp] theorem modEngine_time (n : Nat) (f : Engine → Engine) : (s.modEngine n f).time = s.time := rfl
@[simp] theorem modEngine_module (n : Nat) (f : Engine → Engine) : (s.modEngine n f).module = s.module := rfl
@[simp] theorem modEngine_spares (n : Nat) (f : Engine → Engine) : (s.modEngine n f).spares = s.spares := rfl
@[simp] theorem modEngine_cluster (n : Nat) (f : Engine → Engine) (i : Nat) : (s.modEngine n f).cluster i = s.cluster i := rfl
@[simp] theorem modEngine_quarter (n : Nat) (f : Engine → Engine) (i : Nat) : (s.modEngine n f).quarter i = s.quarter i := rfl
@[simp] theorem modEngine_stack (n : Nat) (f : Engine → Engine) (i : Nat) : (s.modEngine n f).stack i = s.stack i := rfl
@[simp] theorem modEngine_part (n : Nat) (f : Engine → Engine) (i : Nat) : (s.modEngine n f).part i = s.part i := rfl
@[simp] theorem modEngine_round (n : Nat) (f : Engine → Engine) (i : Nat) : (s.modEngine n f).round i = s.round i := rfl
@[simp] theorem modEngine_fn (n : Nat) (f : Engine → Engine) (i : Nat) : (s.modEngine n f).fn i = s.fn i := rfl
@[simp] theorem modEngine_region (n : Nat) (f : Engine → Engine) (i : Nat) : (s.modEngine n f).region i = s.region i := rfl
@[simp] theorem modEngine_port (n : Nat) (f : Engine → Engine) (i : Nat) : (s.modEngine n f).port i = s.port i := rfl
@[simp] theorem modEngine_session (n : Nat) (f : Engine → Engine) (i : Nat) : (s.modEngine n f).session i = s.session i := rfl
@[simp] theorem modEngine_core (n : Nat) (f : Engine → Engine) (i : Nat) : (s.modEngine n f).core i = s.core i := rfl
@[simp] theorem modEngine_icLine (n : Nat) (f : Engine → Engine) (i : Nat) : (s.modEngine n f).icLine i = s.icLine i := rfl
@[simp] theorem modEngine_site (n : Nat) (f : Engine → Engine) (i : Nat) : (s.modEngine n f).site i = s.site i := rfl
@[simp] theorem modEngine_rail (n : Nat) (f : Engine → Engine) (i : Nat) : (s.modEngine n f).rail i = s.rail i := rfl
@[simp] theorem modEngine_consumer (n : Nat) (f : Engine → Engine) (i : Nat) : (s.modEngine n f).consumer i = s.consumer i := rfl
@[simp] theorem modEngine_engine_same (n : Nat) (f : Engine → Engine) : (s.modEngine n f).engine n = f (s.engine n) := by simp [State.modEngine, State.engine]
@[simp] theorem modEngine_engine_ne (n : Nat) (f : Engine → Engine) (i : Nat) (h : i ≠ n) : (s.modEngine n f).engine i = s.engine i := by simp [State.modEngine, State.engine, h]

/-! ### modPart -/

@[simp] theorem modPart_pending (n : Nat) (f : Part → Part) : (s.modPart n f).pending = s.pending := rfl
@[simp] theorem modPart_free (n : Nat) (f : Part → Part) : (s.modPart n f).free = s.free := rfl
@[simp] theorem modPart_out (n : Nat) (f : Part → Part) : (s.modPart n f).out = s.out := rfl
@[simp] theorem modPart_unsent (n : Nat) (f : Part → Part) : (s.modPart n f).unsent = s.unsent := rfl
@[simp] theorem modPart_buckets (n : Nat) (f : Part → Part) : (s.modPart n f).buckets = s.buckets := rfl
@[simp] theorem modPart_clusters (n : Nat) (f : Part → Part) : (s.modPart n f).clusters = s.clusters := rfl
@[simp] theorem modPart_quarters (n : Nat) (f : Part → Part) : (s.modPart n f).quarters = s.quarters := rfl
@[simp] theorem modPart_stackTab (n : Nat) (f : Part → Part) : (s.modPart n f).stackTab = s.stackTab := rfl
@[simp] theorem modPart_engines (n : Nat) (f : Part → Part) : (s.modPart n f).engines = s.engines := rfl
@[simp] theorem modPart_mem (n : Nat) (f : Part → Part) : (s.modPart n f).mem = s.mem := rfl
@[simp] theorem modPart_memory (n : Nat) (f : Part → Part) : (s.modPart n f).memory = s.memory := rfl
@[simp] theorem modPart_partCtl (n : Nat) (f : Part → Part) : (s.modPart n f).partCtl = s.partCtl := rfl
@[simp] theorem modPart_copies (n : Nat) (f : Part → Part) : (s.modPart n f).copies = s.copies := rfl
@[simp] theorem modPart_nextCopy (n : Nat) (f : Part → Part) : (s.modPart n f).nextCopy = s.nextCopy := rfl
@[simp] theorem modPart_fns (n : Nat) (f : Part → Part) : (s.modPart n f).fns = s.fns := rfl
@[simp] theorem modPart_intr (n : Nat) (f : Part → Part) : (s.modPart n f).intr = s.intr := rfl
@[simp] theorem modPart_regs (n : Nat) (f : Part → Part) : (s.modPart n f).regs = s.regs := rfl
@[simp] theorem modPart_links (n : Nat) (f : Part → Part) : (s.modPart n f).links = s.links := rfl
@[simp] theorem modPart_sec (n : Nat) (f : Part → Part) : (s.modPart n f).sec = s.sec := rfl
@[simp] theorem modPart_power (n : Nat) (f : Part → Part) : (s.modPart n f).power = s.power := rfl
@[simp] theorem modPart_time (n : Nat) (f : Part → Part) : (s.modPart n f).time = s.time := rfl
@[simp] theorem modPart_module (n : Nat) (f : Part → Part) : (s.modPart n f).module = s.module := rfl
@[simp] theorem modPart_spares (n : Nat) (f : Part → Part) : (s.modPart n f).spares = s.spares := rfl
@[simp] theorem modPart_cluster (n : Nat) (f : Part → Part) (i : Nat) : (s.modPart n f).cluster i = s.cluster i := rfl
@[simp] theorem modPart_quarter (n : Nat) (f : Part → Part) (i : Nat) : (s.modPart n f).quarter i = s.quarter i := rfl
@[simp] theorem modPart_stack (n : Nat) (f : Part → Part) (i : Nat) : (s.modPart n f).stack i = s.stack i := rfl
@[simp] theorem modPart_engine (n : Nat) (f : Part → Part) (i : Nat) : (s.modPart n f).engine i = s.engine i := rfl
@[simp] theorem modPart_fn (n : Nat) (f : Part → Part) (i : Nat) : (s.modPart n f).fn i = s.fn i := rfl
@[simp] theorem modPart_region (n : Nat) (f : Part → Part) (i : Nat) : (s.modPart n f).region i = s.region i := rfl
@[simp] theorem modPart_port (n : Nat) (f : Part → Part) (i : Nat) : (s.modPart n f).port i = s.port i := rfl
@[simp] theorem modPart_session (n : Nat) (f : Part → Part) (i : Nat) : (s.modPart n f).session i = s.session i := rfl
@[simp] theorem modPart_core (n : Nat) (f : Part → Part) (i : Nat) : (s.modPart n f).core i = s.core i := rfl
@[simp] theorem modPart_icLine (n : Nat) (f : Part → Part) (i : Nat) : (s.modPart n f).icLine i = s.icLine i := rfl
@[simp] theorem modPart_site (n : Nat) (f : Part → Part) (i : Nat) : (s.modPart n f).site i = s.site i := rfl
@[simp] theorem modPart_rail (n : Nat) (f : Part → Part) (i : Nat) : (s.modPart n f).rail i = s.rail i := rfl
@[simp] theorem modPart_consumer (n : Nat) (f : Part → Part) (i : Nat) : (s.modPart n f).consumer i = s.consumer i := rfl
@[simp] theorem modPart_part_same (n : Nat) (f : Part → Part) : (s.modPart n f).part n = f (s.part n) := by simp [State.modPart, State.part]
@[simp] theorem modPart_part_ne (n : Nat) (f : Part → Part) (i : Nat) (h : i ≠ n) : (s.modPart n f).part i = s.part i := by simp [State.modPart, State.part, h]

/-! ### modRound -/

@[simp] theorem modRound_pending (n : Nat) (f : Round → Round) : (s.modRound n f).pending = s.pending := rfl
@[simp] theorem modRound_free (n : Nat) (f : Round → Round) : (s.modRound n f).free = s.free := rfl
@[simp] theorem modRound_out (n : Nat) (f : Round → Round) : (s.modRound n f).out = s.out := rfl
@[simp] theorem modRound_unsent (n : Nat) (f : Round → Round) : (s.modRound n f).unsent = s.unsent := rfl
@[simp] theorem modRound_buckets (n : Nat) (f : Round → Round) : (s.modRound n f).buckets = s.buckets := rfl
@[simp] theorem modRound_clusters (n : Nat) (f : Round → Round) : (s.modRound n f).clusters = s.clusters := rfl
@[simp] theorem modRound_quarters (n : Nat) (f : Round → Round) : (s.modRound n f).quarters = s.quarters := rfl
@[simp] theorem modRound_stackTab (n : Nat) (f : Round → Round) : (s.modRound n f).stackTab = s.stackTab := rfl
@[simp] theorem modRound_engines (n : Nat) (f : Round → Round) : (s.modRound n f).engines = s.engines := rfl
@[simp] theorem modRound_mem (n : Nat) (f : Round → Round) : (s.modRound n f).mem = s.mem := rfl
@[simp] theorem modRound_memory (n : Nat) (f : Round → Round) : (s.modRound n f).memory = s.memory := rfl
@[simp] theorem modRound_partCtl (n : Nat) (f : Round → Round) : (s.modRound n f).partCtl = s.partCtl := rfl
@[simp] theorem modRound_copies (n : Nat) (f : Round → Round) : (s.modRound n f).copies = s.copies := rfl
@[simp] theorem modRound_nextCopy (n : Nat) (f : Round → Round) : (s.modRound n f).nextCopy = s.nextCopy := rfl
@[simp] theorem modRound_fns (n : Nat) (f : Round → Round) : (s.modRound n f).fns = s.fns := rfl
@[simp] theorem modRound_intr (n : Nat) (f : Round → Round) : (s.modRound n f).intr = s.intr := rfl
@[simp] theorem modRound_regs (n : Nat) (f : Round → Round) : (s.modRound n f).regs = s.regs := rfl
@[simp] theorem modRound_links (n : Nat) (f : Round → Round) : (s.modRound n f).links = s.links := rfl
@[simp] theorem modRound_sec (n : Nat) (f : Round → Round) : (s.modRound n f).sec = s.sec := rfl
@[simp] theorem modRound_power (n : Nat) (f : Round → Round) : (s.modRound n f).power = s.power := rfl
@[simp] theorem modRound_time (n : Nat) (f : Round → Round) : (s.modRound n f).time = s.time := rfl
@[simp] theorem modRound_module (n : Nat) (f : Round → Round) : (s.modRound n f).module = s.module := rfl
@[simp] theorem modRound_spares (n : Nat) (f : Round → Round) : (s.modRound n f).spares = s.spares := rfl
@[simp] theorem modRound_cluster (n : Nat) (f : Round → Round) (i : Nat) : (s.modRound n f).cluster i = s.cluster i := rfl
@[simp] theorem modRound_quarter (n : Nat) (f : Round → Round) (i : Nat) : (s.modRound n f).quarter i = s.quarter i := rfl
@[simp] theorem modRound_stack (n : Nat) (f : Round → Round) (i : Nat) : (s.modRound n f).stack i = s.stack i := rfl
@[simp] theorem modRound_engine (n : Nat) (f : Round → Round) (i : Nat) : (s.modRound n f).engine i = s.engine i := rfl
@[simp] theorem modRound_fn (n : Nat) (f : Round → Round) (i : Nat) : (s.modRound n f).fn i = s.fn i := rfl
@[simp] theorem modRound_region (n : Nat) (f : Round → Round) (i : Nat) : (s.modRound n f).region i = s.region i := rfl
@[simp] theorem modRound_port (n : Nat) (f : Round → Round) (i : Nat) : (s.modRound n f).port i = s.port i := rfl
@[simp] theorem modRound_session (n : Nat) (f : Round → Round) (i : Nat) : (s.modRound n f).session i = s.session i := rfl
@[simp] theorem modRound_core (n : Nat) (f : Round → Round) (i : Nat) : (s.modRound n f).core i = s.core i := rfl
@[simp] theorem modRound_icLine (n : Nat) (f : Round → Round) (i : Nat) : (s.modRound n f).icLine i = s.icLine i := rfl
@[simp] theorem modRound_site (n : Nat) (f : Round → Round) (i : Nat) : (s.modRound n f).site i = s.site i := rfl
@[simp] theorem modRound_rail (n : Nat) (f : Round → Round) (i : Nat) : (s.modRound n f).rail i = s.rail i := rfl
@[simp] theorem modRound_consumer (n : Nat) (f : Round → Round) (i : Nat) : (s.modRound n f).consumer i = s.consumer i := rfl

/-! ### modFn -/

@[simp] theorem modFn_pending (n : Nat) (f : Fn → Fn) : (s.modFn n f).pending = s.pending := rfl
@[simp] theorem modFn_free (n : Nat) (f : Fn → Fn) : (s.modFn n f).free = s.free := rfl
@[simp] theorem modFn_out (n : Nat) (f : Fn → Fn) : (s.modFn n f).out = s.out := rfl
@[simp] theorem modFn_unsent (n : Nat) (f : Fn → Fn) : (s.modFn n f).unsent = s.unsent := rfl
@[simp] theorem modFn_buckets (n : Nat) (f : Fn → Fn) : (s.modFn n f).buckets = s.buckets := rfl
@[simp] theorem modFn_clusters (n : Nat) (f : Fn → Fn) : (s.modFn n f).clusters = s.clusters := rfl
@[simp] theorem modFn_quarters (n : Nat) (f : Fn → Fn) : (s.modFn n f).quarters = s.quarters := rfl
@[simp] theorem modFn_stackTab (n : Nat) (f : Fn → Fn) : (s.modFn n f).stackTab = s.stackTab := rfl
@[simp] theorem modFn_engines (n : Nat) (f : Fn → Fn) : (s.modFn n f).engines = s.engines := rfl
@[simp] theorem modFn_mem (n : Nat) (f : Fn → Fn) : (s.modFn n f).mem = s.mem := rfl
@[simp] theorem modFn_memory (n : Nat) (f : Fn → Fn) : (s.modFn n f).memory = s.memory := rfl
@[simp] theorem modFn_parts (n : Nat) (f : Fn → Fn) : (s.modFn n f).parts = s.parts := rfl
@[simp] theorem modFn_partCtl (n : Nat) (f : Fn → Fn) : (s.modFn n f).partCtl = s.partCtl := rfl
@[simp] theorem modFn_copies (n : Nat) (f : Fn → Fn) : (s.modFn n f).copies = s.copies := rfl
@[simp] theorem modFn_nextCopy (n : Nat) (f : Fn → Fn) : (s.modFn n f).nextCopy = s.nextCopy := rfl
@[simp] theorem modFn_intr (n : Nat) (f : Fn → Fn) : (s.modFn n f).intr = s.intr := rfl
@[simp] theorem modFn_regs (n : Nat) (f : Fn → Fn) : (s.modFn n f).regs = s.regs := rfl
@[simp] theorem modFn_links (n : Nat) (f : Fn → Fn) : (s.modFn n f).links = s.links := rfl
@[simp] theorem modFn_sec (n : Nat) (f : Fn → Fn) : (s.modFn n f).sec = s.sec := rfl
@[simp] theorem modFn_power (n : Nat) (f : Fn → Fn) : (s.modFn n f).power = s.power := rfl
@[simp] theorem modFn_time (n : Nat) (f : Fn → Fn) : (s.modFn n f).time = s.time := rfl
@[simp] theorem modFn_module (n : Nat) (f : Fn → Fn) : (s.modFn n f).module = s.module := rfl
@[simp] theorem modFn_spares (n : Nat) (f : Fn → Fn) : (s.modFn n f).spares = s.spares := rfl
@[simp] theorem modFn_cluster (n : Nat) (f : Fn → Fn) (i : Nat) : (s.modFn n f).cluster i = s.cluster i := rfl
@[simp] theorem modFn_quarter (n : Nat) (f : Fn → Fn) (i : Nat) : (s.modFn n f).quarter i = s.quarter i := rfl
@[simp] theorem modFn_stack (n : Nat) (f : Fn → Fn) (i : Nat) : (s.modFn n f).stack i = s.stack i := rfl
@[simp] theorem modFn_engine (n : Nat) (f : Fn → Fn) (i : Nat) : (s.modFn n f).engine i = s.engine i := rfl
@[simp] theorem modFn_part (n : Nat) (f : Fn → Fn) (i : Nat) : (s.modFn n f).part i = s.part i := rfl
@[simp] theorem modFn_round (n : Nat) (f : Fn → Fn) (i : Nat) : (s.modFn n f).round i = s.round i := rfl
@[simp] theorem modFn_region (n : Nat) (f : Fn → Fn) (i : Nat) : (s.modFn n f).region i = s.region i := rfl
@[simp] theorem modFn_port (n : Nat) (f : Fn → Fn) (i : Nat) : (s.modFn n f).port i = s.port i := rfl
@[simp] theorem modFn_session (n : Nat) (f : Fn → Fn) (i : Nat) : (s.modFn n f).session i = s.session i := rfl
@[simp] theorem modFn_core (n : Nat) (f : Fn → Fn) (i : Nat) : (s.modFn n f).core i = s.core i := rfl
@[simp] theorem modFn_icLine (n : Nat) (f : Fn → Fn) (i : Nat) : (s.modFn n f).icLine i = s.icLine i := rfl
@[simp] theorem modFn_site (n : Nat) (f : Fn → Fn) (i : Nat) : (s.modFn n f).site i = s.site i := rfl
@[simp] theorem modFn_rail (n : Nat) (f : Fn → Fn) (i : Nat) : (s.modFn n f).rail i = s.rail i := rfl
@[simp] theorem modFn_consumer (n : Nat) (f : Fn → Fn) (i : Nat) : (s.modFn n f).consumer i = s.consumer i := rfl
@[simp] theorem modFn_fn_same (n : Nat) (f : Fn → Fn) : (s.modFn n f).fn n = f (s.fn n) := by simp [State.modFn, State.fn]
@[simp] theorem modFn_fn_ne (n : Nat) (f : Fn → Fn) (i : Nat) (h : i ≠ n) : (s.modFn n f).fn i = s.fn i := by simp [State.modFn, State.fn, h]

/-! ### modRing -/

@[simp] theorem modRing_pending (n r : Nat) (f : Ring → Ring) : (s.modRing n r f).pending = s.pending := rfl
@[simp] theorem modRing_free (n r : Nat) (f : Ring → Ring) : (s.modRing n r f).free = s.free := rfl
@[simp] theorem modRing_out (n r : Nat) (f : Ring → Ring) : (s.modRing n r f).out = s.out := rfl
@[simp] theorem modRing_unsent (n r : Nat) (f : Ring → Ring) : (s.modRing n r f).unsent = s.unsent := rfl
@[simp] theorem modRing_buckets (n r : Nat) (f : Ring → Ring) : (s.modRing n r f).buckets = s.buckets := rfl
@[simp] theorem modRing_clusters (n r : Nat) (f : Ring → Ring) : (s.modRing n r f).clusters = s.clusters := rfl
@[simp] theorem modRing_quarters (n r : Nat) (f : Ring → Ring) : (s.modRing n r f).quarters = s.quarters := rfl
@[simp] theorem modRing_stackTab (n r : Nat) (f : Ring → Ring) : (s.modRing n r f).stackTab = s.stackTab := rfl
@[simp] theorem modRing_engines (n r : Nat) (f : Ring → Ring) : (s.modRing n r f).engines = s.engines := rfl
@[simp] theorem modRing_mem (n r : Nat) (f : Ring → Ring) : (s.modRing n r f).mem = s.mem := rfl
@[simp] theorem modRing_memory (n r : Nat) (f : Ring → Ring) : (s.modRing n r f).memory = s.memory := rfl
@[simp] theorem modRing_parts (n r : Nat) (f : Ring → Ring) : (s.modRing n r f).parts = s.parts := rfl
@[simp] theorem modRing_partCtl (n r : Nat) (f : Ring → Ring) : (s.modRing n r f).partCtl = s.partCtl := rfl
@[simp] theorem modRing_copies (n r : Nat) (f : Ring → Ring) : (s.modRing n r f).copies = s.copies := rfl
@[simp] theorem modRing_nextCopy (n r : Nat) (f : Ring → Ring) : (s.modRing n r f).nextCopy = s.nextCopy := rfl
@[simp] theorem modRing_intr (n r : Nat) (f : Ring → Ring) : (s.modRing n r f).intr = s.intr := rfl
@[simp] theorem modRing_regs (n r : Nat) (f : Ring → Ring) : (s.modRing n r f).regs = s.regs := rfl
@[simp] theorem modRing_links (n r : Nat) (f : Ring → Ring) : (s.modRing n r f).links = s.links := rfl
@[simp] theorem modRing_sec (n r : Nat) (f : Ring → Ring) : (s.modRing n r f).sec = s.sec := rfl
@[simp] theorem modRing_power (n r : Nat) (f : Ring → Ring) : (s.modRing n r f).power = s.power := rfl
@[simp] theorem modRing_time (n r : Nat) (f : Ring → Ring) : (s.modRing n r f).time = s.time := rfl
@[simp] theorem modRing_module (n r : Nat) (f : Ring → Ring) : (s.modRing n r f).module = s.module := rfl
@[simp] theorem modRing_spares (n r : Nat) (f : Ring → Ring) : (s.modRing n r f).spares = s.spares := rfl
@[simp] theorem modRing_cluster (n r : Nat) (f : Ring → Ring) (i : Nat) : (s.modRing n r f).cluster i = s.cluster i := rfl
@[simp] theorem modRing_quarter (n r : Nat) (f : Ring → Ring) (i : Nat) : (s.modRing n r f).quarter i = s.quarter i := rfl
@[simp] theorem modRing_stack (n r : Nat) (f : Ring → Ring) (i : Nat) : (s.modRing n r f).stack i = s.stack i := rfl
@[simp] theorem modRing_engine (n r : Nat) (f : Ring → Ring) (i : Nat) : (s.modRing n r f).engine i = s.engine i := rfl
@[simp] theorem modRing_part (n r : Nat) (f : Ring → Ring) (i : Nat) : (s.modRing n r f).part i = s.part i := rfl
@[simp] theorem modRing_round (n r : Nat) (f : Ring → Ring) (i : Nat) : (s.modRing n r f).round i = s.round i := rfl
@[simp] theorem modRing_region (n r : Nat) (f : Ring → Ring) (i : Nat) : (s.modRing n r f).region i = s.region i := rfl
@[simp] theorem modRing_port (n r : Nat) (f : Ring → Ring) (i : Nat) : (s.modRing n r f).port i = s.port i := rfl
@[simp] theorem modRing_session (n r : Nat) (f : Ring → Ring) (i : Nat) : (s.modRing n r f).session i = s.session i := rfl
@[simp] theorem modRing_core (n r : Nat) (f : Ring → Ring) (i : Nat) : (s.modRing n r f).core i = s.core i := rfl
@[simp] theorem modRing_icLine (n r : Nat) (f : Ring → Ring) (i : Nat) : (s.modRing n r f).icLine i = s.icLine i := rfl
@[simp] theorem modRing_site (n r : Nat) (f : Ring → Ring) (i : Nat) : (s.modRing n r f).site i = s.site i := rfl
@[simp] theorem modRing_rail (n r : Nat) (f : Ring → Ring) (i : Nat) : (s.modRing n r f).rail i = s.rail i := rfl
@[simp] theorem modRing_consumer (n r : Nat) (f : Ring → Ring) (i : Nat) : (s.modRing n r f).consumer i = s.consumer i := rfl

/-! ### modRegion -/

@[simp] theorem modRegion_pending (n : Nat) (f : Region → Region) : (s.modRegion n f).pending = s.pending := rfl
@[simp] theorem modRegion_free (n : Nat) (f : Region → Region) : (s.modRegion n f).free = s.free := rfl
@[simp] theorem modRegion_out (n : Nat) (f : Region → Region) : (s.modRegion n f).out = s.out := rfl
@[simp] theorem modRegion_unsent (n : Nat) (f : Region → Region) : (s.modRegion n f).unsent = s.unsent := rfl
@[simp] theorem modRegion_buckets (n : Nat) (f : Region → Region) : (s.modRegion n f).buckets = s.buckets := rfl
@[simp] theorem modRegion_clusters (n : Nat) (f : Region → Region) : (s.modRegion n f).clusters = s.clusters := rfl
@[simp] theorem modRegion_quarters (n : Nat) (f : Region → Region) : (s.modRegion n f).quarters = s.quarters := rfl
@[simp] theorem modRegion_stackTab (n : Nat) (f : Region → Region) : (s.modRegion n f).stackTab = s.stackTab := rfl
@[simp] theorem modRegion_engines (n : Nat) (f : Region → Region) : (s.modRegion n f).engines = s.engines := rfl
@[simp] theorem modRegion_mem (n : Nat) (f : Region → Region) : (s.modRegion n f).mem = s.mem := rfl
@[simp] theorem modRegion_parts (n : Nat) (f : Region → Region) : (s.modRegion n f).parts = s.parts := rfl
@[simp] theorem modRegion_partCtl (n : Nat) (f : Region → Region) : (s.modRegion n f).partCtl = s.partCtl := rfl
@[simp] theorem modRegion_copies (n : Nat) (f : Region → Region) : (s.modRegion n f).copies = s.copies := rfl
@[simp] theorem modRegion_nextCopy (n : Nat) (f : Region → Region) : (s.modRegion n f).nextCopy = s.nextCopy := rfl
@[simp] theorem modRegion_fns (n : Nat) (f : Region → Region) : (s.modRegion n f).fns = s.fns := rfl
@[simp] theorem modRegion_intr (n : Nat) (f : Region → Region) : (s.modRegion n f).intr = s.intr := rfl
@[simp] theorem modRegion_regs (n : Nat) (f : Region → Region) : (s.modRegion n f).regs = s.regs := rfl
@[simp] theorem modRegion_links (n : Nat) (f : Region → Region) : (s.modRegion n f).links = s.links := rfl
@[simp] theorem modRegion_sec (n : Nat) (f : Region → Region) : (s.modRegion n f).sec = s.sec := rfl
@[simp] theorem modRegion_power (n : Nat) (f : Region → Region) : (s.modRegion n f).power = s.power := rfl
@[simp] theorem modRegion_time (n : Nat) (f : Region → Region) : (s.modRegion n f).time = s.time := rfl
@[simp] theorem modRegion_module (n : Nat) (f : Region → Region) : (s.modRegion n f).module = s.module := rfl
@[simp] theorem modRegion_spares (n : Nat) (f : Region → Region) : (s.modRegion n f).spares = s.spares := rfl
@[simp] theorem modRegion_memory_ctl (n : Nat) (f : Region → Region) : (s.modRegion n f).memory.ctl = s.memory.ctl := rfl
@[simp] theorem modRegion_memory_ce (n : Nat) (f : Region → Region) : (s.modRegion n f).memory.ce = s.memory.ce := rfl
@[simp] theorem modRegion_memory_errs (n : Nat) (f : Region → Region) : (s.modRegion n f).memory.errs = s.memory.errs := rfl
@[simp] theorem modRegion_memory_repairs (n : Nat) (f : Region → Region) : (s.modRegion n f).memory.repairs = s.memory.repairs := rfl
@[simp] theorem modRegion_memory_resieve (n : Nat) (f : Region → Region) : (s.modRegion n f).memory.resieve = s.memory.resieve := rfl
@[simp] theorem modRegion_memory_sieve (n : Nat) (f : Region → Region) : (s.modRegion n f).memory.sieve = s.memory.sieve := rfl
@[simp] theorem modRegion_memory_fwLost (n : Nat) (f : Region → Region) : (s.modRegion n f).memory.fwLost = s.memory.fwLost := rfl
@[simp] theorem modRegion_cluster (n : Nat) (f : Region → Region) (i : Nat) : (s.modRegion n f).cluster i = s.cluster i := rfl
@[simp] theorem modRegion_quarter (n : Nat) (f : Region → Region) (i : Nat) : (s.modRegion n f).quarter i = s.quarter i := rfl
@[simp] theorem modRegion_stack (n : Nat) (f : Region → Region) (i : Nat) : (s.modRegion n f).stack i = s.stack i := rfl
@[simp] theorem modRegion_engine (n : Nat) (f : Region → Region) (i : Nat) : (s.modRegion n f).engine i = s.engine i := rfl
@[simp] theorem modRegion_part (n : Nat) (f : Region → Region) (i : Nat) : (s.modRegion n f).part i = s.part i := rfl
@[simp] theorem modRegion_round (n : Nat) (f : Region → Region) (i : Nat) : (s.modRegion n f).round i = s.round i := rfl
@[simp] theorem modRegion_fn (n : Nat) (f : Region → Region) (i : Nat) : (s.modRegion n f).fn i = s.fn i := rfl
@[simp] theorem modRegion_port (n : Nat) (f : Region → Region) (i : Nat) : (s.modRegion n f).port i = s.port i := rfl
@[simp] theorem modRegion_session (n : Nat) (f : Region → Region) (i : Nat) : (s.modRegion n f).session i = s.session i := rfl
@[simp] theorem modRegion_core (n : Nat) (f : Region → Region) (i : Nat) : (s.modRegion n f).core i = s.core i := rfl
@[simp] theorem modRegion_icLine (n : Nat) (f : Region → Region) (i : Nat) : (s.modRegion n f).icLine i = s.icLine i := rfl
@[simp] theorem modRegion_site (n : Nat) (f : Region → Region) (i : Nat) : (s.modRegion n f).site i = s.site i := rfl
@[simp] theorem modRegion_rail (n : Nat) (f : Region → Region) (i : Nat) : (s.modRegion n f).rail i = s.rail i := rfl
@[simp] theorem modRegion_consumer (n : Nat) (f : Region → Region) (i : Nat) : (s.modRegion n f).consumer i = s.consumer i := rfl
@[simp] theorem modRegion_region_same (n : Nat) (f : Region → Region) : (s.modRegion n f).region n = f (s.region n) := by simp [State.modRegion, State.region]
@[simp] theorem modRegion_region_ne (n : Nat) (f : Region → Region) (i : Nat) (h : i ≠ n) : (s.modRegion n f).region i = s.region i := by simp [State.modRegion, State.region, h]

/-! ### modPort -/

@[simp] theorem modPort_pending (n : Nat) (f : Port → Port) : (s.modPort n f).pending = s.pending := rfl
@[simp] theorem modPort_free (n : Nat) (f : Port → Port) : (s.modPort n f).free = s.free := rfl
@[simp] theorem modPort_out (n : Nat) (f : Port → Port) : (s.modPort n f).out = s.out := rfl
@[simp] theorem modPort_unsent (n : Nat) (f : Port → Port) : (s.modPort n f).unsent = s.unsent := rfl
@[simp] theorem modPort_buckets (n : Nat) (f : Port → Port) : (s.modPort n f).buckets = s.buckets := rfl
@[simp] theorem modPort_clusters (n : Nat) (f : Port → Port) : (s.modPort n f).clusters = s.clusters := rfl
@[simp] theorem modPort_quarters (n : Nat) (f : Port → Port) : (s.modPort n f).quarters = s.quarters := rfl
@[simp] theorem modPort_stackTab (n : Nat) (f : Port → Port) : (s.modPort n f).stackTab = s.stackTab := rfl
@[simp] theorem modPort_engines (n : Nat) (f : Port → Port) : (s.modPort n f).engines = s.engines := rfl
@[simp] theorem modPort_mem (n : Nat) (f : Port → Port) : (s.modPort n f).mem = s.mem := rfl
@[simp] theorem modPort_memory (n : Nat) (f : Port → Port) : (s.modPort n f).memory = s.memory := rfl
@[simp] theorem modPort_parts (n : Nat) (f : Port → Port) : (s.modPort n f).parts = s.parts := rfl
@[simp] theorem modPort_partCtl (n : Nat) (f : Port → Port) : (s.modPort n f).partCtl = s.partCtl := rfl
@[simp] theorem modPort_copies (n : Nat) (f : Port → Port) : (s.modPort n f).copies = s.copies := rfl
@[simp] theorem modPort_nextCopy (n : Nat) (f : Port → Port) : (s.modPort n f).nextCopy = s.nextCopy := rfl
@[simp] theorem modPort_fns (n : Nat) (f : Port → Port) : (s.modPort n f).fns = s.fns := rfl
@[simp] theorem modPort_intr (n : Nat) (f : Port → Port) : (s.modPort n f).intr = s.intr := rfl
@[simp] theorem modPort_regs (n : Nat) (f : Port → Port) : (s.modPort n f).regs = s.regs := rfl
@[simp] theorem modPort_sec (n : Nat) (f : Port → Port) : (s.modPort n f).sec = s.sec := rfl
@[simp] theorem modPort_power (n : Nat) (f : Port → Port) : (s.modPort n f).power = s.power := rfl
@[simp] theorem modPort_time (n : Nat) (f : Port → Port) : (s.modPort n f).time = s.time := rfl
@[simp] theorem modPort_module (n : Nat) (f : Port → Port) : (s.modPort n f).module = s.module := rfl
@[simp] theorem modPort_spares (n : Nat) (f : Port → Port) : (s.modPort n f).spares = s.spares := rfl
@[simp] theorem modPort_links_moduleId (n : Nat) (f : Port → Port) : (s.modPort n f).links.moduleId = s.links.moduleId := rfl
@[simp] theorem modPort_links_idLock (n : Nat) (f : Port → Port) : (s.modPort n f).links.idLock = s.links.idLock := rfl
@[simp] theorem modPort_links_sessions (n : Nat) (f : Port → Port) : (s.modPort n f).links.sessions = s.links.sessions := rfl
@[simp] theorem modPort_links_sent (n : Nat) (f : Port → Port) : (s.modPort n f).links.sent = s.links.sent := rfl
@[simp] theorem modPort_links_nextTag (n : Nat) (f : Port → Port) : (s.modPort n f).links.nextTag = s.links.nextTag := rfl
@[simp] theorem modPort_links_colls (n : Nat) (f : Port → Port) : (s.modPort n f).links.colls = s.links.colls := rfl
@[simp] theorem modPort_cluster (n : Nat) (f : Port → Port) (i : Nat) : (s.modPort n f).cluster i = s.cluster i := rfl
@[simp] theorem modPort_quarter (n : Nat) (f : Port → Port) (i : Nat) : (s.modPort n f).quarter i = s.quarter i := rfl
@[simp] theorem modPort_stack (n : Nat) (f : Port → Port) (i : Nat) : (s.modPort n f).stack i = s.stack i := rfl
@[simp] theorem modPort_engine (n : Nat) (f : Port → Port) (i : Nat) : (s.modPort n f).engine i = s.engine i := rfl
@[simp] theorem modPort_part (n : Nat) (f : Port → Port) (i : Nat) : (s.modPort n f).part i = s.part i := rfl
@[simp] theorem modPort_round (n : Nat) (f : Port → Port) (i : Nat) : (s.modPort n f).round i = s.round i := rfl
@[simp] theorem modPort_fn (n : Nat) (f : Port → Port) (i : Nat) : (s.modPort n f).fn i = s.fn i := rfl
@[simp] theorem modPort_region (n : Nat) (f : Port → Port) (i : Nat) : (s.modPort n f).region i = s.region i := rfl
@[simp] theorem modPort_session (n : Nat) (f : Port → Port) (i : Nat) : (s.modPort n f).session i = s.session i := rfl
@[simp] theorem modPort_core (n : Nat) (f : Port → Port) (i : Nat) : (s.modPort n f).core i = s.core i := rfl
@[simp] theorem modPort_icLine (n : Nat) (f : Port → Port) (i : Nat) : (s.modPort n f).icLine i = s.icLine i := rfl
@[simp] theorem modPort_site (n : Nat) (f : Port → Port) (i : Nat) : (s.modPort n f).site i = s.site i := rfl
@[simp] theorem modPort_rail (n : Nat) (f : Port → Port) (i : Nat) : (s.modPort n f).rail i = s.rail i := rfl
@[simp] theorem modPort_consumer (n : Nat) (f : Port → Port) (i : Nat) : (s.modPort n f).consumer i = s.consumer i := rfl
@[simp] theorem modPort_port_same (n : Nat) (f : Port → Port) : (s.modPort n f).port n = f (s.port n) := by simp [State.modPort, State.port]
@[simp] theorem modPort_port_ne (n : Nat) (f : Port → Port) (i : Nat) (h : i ≠ n) : (s.modPort n f).port i = s.port i := by simp [State.modPort, State.port, h]

/-! ### modSession -/

@[simp] theorem modSession_pending (n : Nat) (f : Session → Session) : (s.modSession n f).pending = s.pending := rfl
@[simp] theorem modSession_free (n : Nat) (f : Session → Session) : (s.modSession n f).free = s.free := rfl
@[simp] theorem modSession_out (n : Nat) (f : Session → Session) : (s.modSession n f).out = s.out := rfl
@[simp] theorem modSession_unsent (n : Nat) (f : Session → Session) : (s.modSession n f).unsent = s.unsent := rfl
@[simp] theorem modSession_buckets (n : Nat) (f : Session → Session) : (s.modSession n f).buckets = s.buckets := rfl
@[simp] theorem modSession_clusters (n : Nat) (f : Session → Session) : (s.modSession n f).clusters = s.clusters := rfl
@[simp] theorem modSession_quarters (n : Nat) (f : Session → Session) : (s.modSession n f).quarters = s.quarters := rfl
@[simp] theorem modSession_stackTab (n : Nat) (f : Session → Session) : (s.modSession n f).stackTab = s.stackTab := rfl
@[simp] theorem modSession_engines (n : Nat) (f : Session → Session) : (s.modSession n f).engines = s.engines := rfl
@[simp] theorem modSession_mem (n : Nat) (f : Session → Session) : (s.modSession n f).mem = s.mem := rfl
@[simp] theorem modSession_memory (n : Nat) (f : Session → Session) : (s.modSession n f).memory = s.memory := rfl
@[simp] theorem modSession_parts (n : Nat) (f : Session → Session) : (s.modSession n f).parts = s.parts := rfl
@[simp] theorem modSession_partCtl (n : Nat) (f : Session → Session) : (s.modSession n f).partCtl = s.partCtl := rfl
@[simp] theorem modSession_copies (n : Nat) (f : Session → Session) : (s.modSession n f).copies = s.copies := rfl
@[simp] theorem modSession_nextCopy (n : Nat) (f : Session → Session) : (s.modSession n f).nextCopy = s.nextCopy := rfl
@[simp] theorem modSession_fns (n : Nat) (f : Session → Session) : (s.modSession n f).fns = s.fns := rfl
@[simp] theorem modSession_intr (n : Nat) (f : Session → Session) : (s.modSession n f).intr = s.intr := rfl
@[simp] theorem modSession_regs (n : Nat) (f : Session → Session) : (s.modSession n f).regs = s.regs := rfl
@[simp] theorem modSession_sec (n : Nat) (f : Session → Session) : (s.modSession n f).sec = s.sec := rfl
@[simp] theorem modSession_power (n : Nat) (f : Session → Session) : (s.modSession n f).power = s.power := rfl
@[simp] theorem modSession_time (n : Nat) (f : Session → Session) : (s.modSession n f).time = s.time := rfl
@[simp] theorem modSession_module (n : Nat) (f : Session → Session) : (s.modSession n f).module = s.module := rfl
@[simp] theorem modSession_spares (n : Nat) (f : Session → Session) : (s.modSession n f).spares = s.spares := rfl
@[simp] theorem modSession_links_moduleId (n : Nat) (f : Session → Session) : (s.modSession n f).links.moduleId = s.links.moduleId := rfl
@[simp] theorem modSession_links_idLock (n : Nat) (f : Session → Session) : (s.modSession n f).links.idLock = s.links.idLock := rfl
@[simp] theorem modSession_links_ports (n : Nat) (f : Session → Session) : (s.modSession n f).links.ports = s.links.ports := rfl
@[simp] theorem modSession_links_sent (n : Nat) (f : Session → Session) : (s.modSession n f).links.sent = s.links.sent := rfl
@[simp] theorem modSession_links_nextTag (n : Nat) (f : Session → Session) : (s.modSession n f).links.nextTag = s.links.nextTag := rfl
@[simp] theorem modSession_links_colls (n : Nat) (f : Session → Session) : (s.modSession n f).links.colls = s.links.colls := rfl
@[simp] theorem modSession_cluster (n : Nat) (f : Session → Session) (i : Nat) : (s.modSession n f).cluster i = s.cluster i := rfl
@[simp] theorem modSession_quarter (n : Nat) (f : Session → Session) (i : Nat) : (s.modSession n f).quarter i = s.quarter i := rfl
@[simp] theorem modSession_stack (n : Nat) (f : Session → Session) (i : Nat) : (s.modSession n f).stack i = s.stack i := rfl
@[simp] theorem modSession_engine (n : Nat) (f : Session → Session) (i : Nat) : (s.modSession n f).engine i = s.engine i := rfl
@[simp] theorem modSession_part (n : Nat) (f : Session → Session) (i : Nat) : (s.modSession n f).part i = s.part i := rfl
@[simp] theorem modSession_round (n : Nat) (f : Session → Session) (i : Nat) : (s.modSession n f).round i = s.round i := rfl
@[simp] theorem modSession_fn (n : Nat) (f : Session → Session) (i : Nat) : (s.modSession n f).fn i = s.fn i := rfl
@[simp] theorem modSession_region (n : Nat) (f : Session → Session) (i : Nat) : (s.modSession n f).region i = s.region i := rfl
@[simp] theorem modSession_port (n : Nat) (f : Session → Session) (i : Nat) : (s.modSession n f).port i = s.port i := rfl
@[simp] theorem modSession_core (n : Nat) (f : Session → Session) (i : Nat) : (s.modSession n f).core i = s.core i := rfl
@[simp] theorem modSession_icLine (n : Nat) (f : Session → Session) (i : Nat) : (s.modSession n f).icLine i = s.icLine i := rfl
@[simp] theorem modSession_site (n : Nat) (f : Session → Session) (i : Nat) : (s.modSession n f).site i = s.site i := rfl
@[simp] theorem modSession_rail (n : Nat) (f : Session → Session) (i : Nat) : (s.modSession n f).rail i = s.rail i := rfl
@[simp] theorem modSession_consumer (n : Nat) (f : Session → Session) (i : Nat) : (s.modSession n f).consumer i = s.consumer i := rfl
@[simp] theorem modSession_session_same (n : Nat) (f : Session → Session) : (s.modSession n f).session n = f (s.session n) := by simp [State.modSession, State.session]
@[simp] theorem modSession_session_ne (n : Nat) (f : Session → Session) (i : Nat) (h : i ≠ n) : (s.modSession n f).session i = s.session i := by simp [State.modSession, State.session, h]

/-! ### modCore -/

@[simp] theorem modCore_pending (n : Nat) (f : Core → Core) : (s.modCore n f).pending = s.pending := rfl
@[simp] theorem modCore_free (n : Nat) (f : Core → Core) : (s.modCore n f).free = s.free := rfl
@[simp] theorem modCore_out (n : Nat) (f : Core → Core) : (s.modCore n f).out = s.out := rfl
@[simp] theorem modCore_unsent (n : Nat) (f : Core → Core) : (s.modCore n f).unsent = s.unsent := rfl
@[simp] theorem modCore_buckets (n : Nat) (f : Core → Core) : (s.modCore n f).buckets = s.buckets := rfl
@[simp] theorem modCore_clusters (n : Nat) (f : Core → Core) : (s.modCore n f).clusters = s.clusters := rfl
@[simp] theorem modCore_quarters (n : Nat) (f : Core → Core) : (s.modCore n f).quarters = s.quarters := rfl
@[simp] theorem modCore_stackTab (n : Nat) (f : Core → Core) : (s.modCore n f).stackTab = s.stackTab := rfl
@[simp] theorem modCore_engines (n : Nat) (f : Core → Core) : (s.modCore n f).engines = s.engines := rfl
@[simp] theorem modCore_mem (n : Nat) (f : Core → Core) : (s.modCore n f).mem = s.mem := rfl
@[simp] theorem modCore_memory (n : Nat) (f : Core → Core) : (s.modCore n f).memory = s.memory := rfl
@[simp] theorem modCore_parts (n : Nat) (f : Core → Core) : (s.modCore n f).parts = s.parts := rfl
@[simp] theorem modCore_partCtl (n : Nat) (f : Core → Core) : (s.modCore n f).partCtl = s.partCtl := rfl
@[simp] theorem modCore_copies (n : Nat) (f : Core → Core) : (s.modCore n f).copies = s.copies := rfl
@[simp] theorem modCore_nextCopy (n : Nat) (f : Core → Core) : (s.modCore n f).nextCopy = s.nextCopy := rfl
@[simp] theorem modCore_fns (n : Nat) (f : Core → Core) : (s.modCore n f).fns = s.fns := rfl
@[simp] theorem modCore_regs (n : Nat) (f : Core → Core) : (s.modCore n f).regs = s.regs := rfl
@[simp] theorem modCore_links (n : Nat) (f : Core → Core) : (s.modCore n f).links = s.links := rfl
@[simp] theorem modCore_sec (n : Nat) (f : Core → Core) : (s.modCore n f).sec = s.sec := rfl
@[simp] theorem modCore_power (n : Nat) (f : Core → Core) : (s.modCore n f).power = s.power := rfl
@[simp] theorem modCore_time (n : Nat) (f : Core → Core) : (s.modCore n f).time = s.time := rfl
@[simp] theorem modCore_module (n : Nat) (f : Core → Core) : (s.modCore n f).module = s.module := rfl
@[simp] theorem modCore_spares (n : Nat) (f : Core → Core) : (s.modCore n f).spares = s.spares := rfl
@[simp] theorem modCore_intr_lines (n : Nat) (f : Core → Core) : (s.modCore n f).intr.lines = s.intr.lines := rfl
@[simp] theorem modCore_intr_throttle (n : Nat) (f : Core → Core) : (s.modCore n f).intr.throttle = s.intr.throttle := rfl
@[simp] theorem modCore_intr_throttleFast (n : Nat) (f : Core → Core) : (s.modCore n f).intr.throttleFast = s.intr.throttleFast := rfl
@[simp] theorem modCore_intr_throttleStuck (n : Nat) (f : Core → Core) : (s.modCore n f).intr.throttleStuck = s.intr.throttleStuck := rfl
@[simp] theorem modCore_intr_extraPulses (n : Nat) (f : Core → Core) : (s.modCore n f).intr.extraPulses = s.intr.extraPulses := rfl
@[simp] theorem modCore_intr_pinLow (n : Nat) (f : Core → Core) : (s.modCore n f).intr.pinLow = s.intr.pinLow := rfl
@[simp] theorem modCore_intr_pinSince (n : Nat) (f : Core → Core) : (s.modCore n f).intr.pinSince = s.intr.pinSince := rfl
@[simp] theorem modCore_intr_accepted (n : Nat) (f : Core → Core) : (s.modCore n f).intr.accepted = s.intr.accepted := rfl
@[simp] theorem modCore_intr_lastAssert (n : Nat) (f : Core → Core) : (s.modCore n f).intr.lastAssert = s.intr.lastAssert := rfl
@[simp] theorem modCore_intr_lastEdge (n : Nat) (f : Core → Core) : (s.modCore n f).intr.lastEdge = s.intr.lastEdge := rfl
@[simp] theorem modCore_intr_since (n : Nat) (f : Core → Core) : (s.modCore n f).intr.since = s.intr.since := rfl
@[simp] theorem modCore_intr_edges (n : Nat) (f : Core → Core) : (s.modCore n f).intr.edges = s.intr.edges := rfl
@[simp] theorem modCore_intr_pulseRecord (n : Nat) (f : Core → Core) : (s.modCore n f).intr.pulseRecord = s.intr.pulseRecord := rfl
@[simp] theorem modCore_cluster (n : Nat) (f : Core → Core) (i : Nat) : (s.modCore n f).cluster i = s.cluster i := rfl
@[simp] theorem modCore_quarter (n : Nat) (f : Core → Core) (i : Nat) : (s.modCore n f).quarter i = s.quarter i := rfl
@[simp] theorem modCore_stack (n : Nat) (f : Core → Core) (i : Nat) : (s.modCore n f).stack i = s.stack i := rfl
@[simp] theorem modCore_engine (n : Nat) (f : Core → Core) (i : Nat) : (s.modCore n f).engine i = s.engine i := rfl
@[simp] theorem modCore_part (n : Nat) (f : Core → Core) (i : Nat) : (s.modCore n f).part i = s.part i := rfl
@[simp] theorem modCore_round (n : Nat) (f : Core → Core) (i : Nat) : (s.modCore n f).round i = s.round i := rfl
@[simp] theorem modCore_fn (n : Nat) (f : Core → Core) (i : Nat) : (s.modCore n f).fn i = s.fn i := rfl
@[simp] theorem modCore_region (n : Nat) (f : Core → Core) (i : Nat) : (s.modCore n f).region i = s.region i := rfl
@[simp] theorem modCore_port (n : Nat) (f : Core → Core) (i : Nat) : (s.modCore n f).port i = s.port i := rfl
@[simp] theorem modCore_session (n : Nat) (f : Core → Core) (i : Nat) : (s.modCore n f).session i = s.session i := rfl
@[simp] theorem modCore_icLine (n : Nat) (f : Core → Core) (i : Nat) : (s.modCore n f).icLine i = s.icLine i := rfl
@[simp] theorem modCore_site (n : Nat) (f : Core → Core) (i : Nat) : (s.modCore n f).site i = s.site i := rfl
@[simp] theorem modCore_rail (n : Nat) (f : Core → Core) (i : Nat) : (s.modCore n f).rail i = s.rail i := rfl
@[simp] theorem modCore_consumer (n : Nat) (f : Core → Core) (i : Nat) : (s.modCore n f).consumer i = s.consumer i := rfl
@[simp] theorem modCore_core_same (n : Nat) (f : Core → Core) : (s.modCore n f).core n = f (s.core n) := by simp [State.modCore, State.core]
@[simp] theorem modCore_core_ne (n : Nat) (f : Core → Core) (i : Nat) (h : i ≠ n) : (s.modCore n f).core i = s.core i := by simp [State.modCore, State.core, h]

/-! ### modIcLine -/

@[simp] theorem modIcLine_pending (n : Nat) (f : IcLine → IcLine) : (s.modIcLine n f).pending = s.pending := rfl
@[simp] theorem modIcLine_free (n : Nat) (f : IcLine → IcLine) : (s.modIcLine n f).free = s.free := rfl
@[simp] theorem modIcLine_out (n : Nat) (f : IcLine → IcLine) : (s.modIcLine n f).out = s.out := rfl
@[simp] theorem modIcLine_unsent (n : Nat) (f : IcLine → IcLine) : (s.modIcLine n f).unsent = s.unsent := rfl
@[simp] theorem modIcLine_buckets (n : Nat) (f : IcLine → IcLine) : (s.modIcLine n f).buckets = s.buckets := rfl
@[simp] theorem modIcLine_clusters (n : Nat) (f : IcLine → IcLine) : (s.modIcLine n f).clusters = s.clusters := rfl
@[simp] theorem modIcLine_quarters (n : Nat) (f : IcLine → IcLine) : (s.modIcLine n f).quarters = s.quarters := rfl
@[simp] theorem modIcLine_stackTab (n : Nat) (f : IcLine → IcLine) : (s.modIcLine n f).stackTab = s.stackTab := rfl
@[simp] theorem modIcLine_engines (n : Nat) (f : IcLine → IcLine) : (s.modIcLine n f).engines = s.engines := rfl
@[simp] theorem modIcLine_mem (n : Nat) (f : IcLine → IcLine) : (s.modIcLine n f).mem = s.mem := rfl
@[simp] theorem modIcLine_memory (n : Nat) (f : IcLine → IcLine) : (s.modIcLine n f).memory = s.memory := rfl
@[simp] theorem modIcLine_parts (n : Nat) (f : IcLine → IcLine) : (s.modIcLine n f).parts = s.parts := rfl
@[simp] theorem modIcLine_partCtl (n : Nat) (f : IcLine → IcLine) : (s.modIcLine n f).partCtl = s.partCtl := rfl
@[simp] theorem modIcLine_copies (n : Nat) (f : IcLine → IcLine) : (s.modIcLine n f).copies = s.copies := rfl
@[simp] theorem modIcLine_nextCopy (n : Nat) (f : IcLine → IcLine) : (s.modIcLine n f).nextCopy = s.nextCopy := rfl
@[simp] theorem modIcLine_fns (n : Nat) (f : IcLine → IcLine) : (s.modIcLine n f).fns = s.fns := rfl
@[simp] theorem modIcLine_regs (n : Nat) (f : IcLine → IcLine) : (s.modIcLine n f).regs = s.regs := rfl
@[simp] theorem modIcLine_links (n : Nat) (f : IcLine → IcLine) : (s.modIcLine n f).links = s.links := rfl
@[simp] theorem modIcLine_sec (n : Nat) (f : IcLine → IcLine) : (s.modIcLine n f).sec = s.sec := rfl
@[simp] theorem modIcLine_power (n : Nat) (f : IcLine → IcLine) : (s.modIcLine n f).power = s.power := rfl
@[simp] theorem modIcLine_time (n : Nat) (f : IcLine → IcLine) : (s.modIcLine n f).time = s.time := rfl
@[simp] theorem modIcLine_module (n : Nat) (f : IcLine → IcLine) : (s.modIcLine n f).module = s.module := rfl
@[simp] theorem modIcLine_spares (n : Nat) (f : IcLine → IcLine) : (s.modIcLine n f).spares = s.spares := rfl
@[simp] theorem modIcLine_intr_cores (n : Nat) (f : IcLine → IcLine) : (s.modIcLine n f).intr.cores = s.intr.cores := rfl
@[simp] theorem modIcLine_intr_throttle (n : Nat) (f : IcLine → IcLine) : (s.modIcLine n f).intr.throttle = s.intr.throttle := rfl
@[simp] theorem modIcLine_intr_throttleFast (n : Nat) (f : IcLine → IcLine) : (s.modIcLine n f).intr.throttleFast = s.intr.throttleFast := rfl
@[simp] theorem modIcLine_intr_throttleStuck (n : Nat) (f : IcLine → IcLine) : (s.modIcLine n f).intr.throttleStuck = s.intr.throttleStuck := rfl
@[simp] theorem modIcLine_intr_extraPulses (n : Nat) (f : IcLine → IcLine) : (s.modIcLine n f).intr.extraPulses = s.intr.extraPulses := rfl
@[simp] theorem modIcLine_intr_pinLow (n : Nat) (f : IcLine → IcLine) : (s.modIcLine n f).intr.pinLow = s.intr.pinLow := rfl
@[simp] theorem modIcLine_intr_pinSince (n : Nat) (f : IcLine → IcLine) : (s.modIcLine n f).intr.pinSince = s.intr.pinSince := rfl
@[simp] theorem modIcLine_intr_accepted (n : Nat) (f : IcLine → IcLine) : (s.modIcLine n f).intr.accepted = s.intr.accepted := rfl
@[simp] theorem modIcLine_intr_lastAssert (n : Nat) (f : IcLine → IcLine) : (s.modIcLine n f).intr.lastAssert = s.intr.lastAssert := rfl
@[simp] theorem modIcLine_intr_lastEdge (n : Nat) (f : IcLine → IcLine) : (s.modIcLine n f).intr.lastEdge = s.intr.lastEdge := rfl
@[simp] theorem modIcLine_intr_since (n : Nat) (f : IcLine → IcLine) : (s.modIcLine n f).intr.since = s.intr.since := rfl
@[simp] theorem modIcLine_intr_edges (n : Nat) (f : IcLine → IcLine) : (s.modIcLine n f).intr.edges = s.intr.edges := rfl
@[simp] theorem modIcLine_intr_pulseRecord (n : Nat) (f : IcLine → IcLine) : (s.modIcLine n f).intr.pulseRecord = s.intr.pulseRecord := rfl
@[simp] theorem modIcLine_cluster (n : Nat) (f : IcLine → IcLine) (i : Nat) : (s.modIcLine n f).cluster i = s.cluster i := rfl
@[simp] theorem modIcLine_quarter (n : Nat) (f : IcLine → IcLine) (i : Nat) : (s.modIcLine n f).quarter i = s.quarter i := rfl
@[simp] theorem modIcLine_stack (n : Nat) (f : IcLine → IcLine) (i : Nat) : (s.modIcLine n f).stack i = s.stack i := rfl
@[simp] theorem modIcLine_engine (n : Nat) (f : IcLine → IcLine) (i : Nat) : (s.modIcLine n f).engine i = s.engine i := rfl
@[simp] theorem modIcLine_part (n : Nat) (f : IcLine → IcLine) (i : Nat) : (s.modIcLine n f).part i = s.part i := rfl
@[simp] theorem modIcLine_round (n : Nat) (f : IcLine → IcLine) (i : Nat) : (s.modIcLine n f).round i = s.round i := rfl
@[simp] theorem modIcLine_fn (n : Nat) (f : IcLine → IcLine) (i : Nat) : (s.modIcLine n f).fn i = s.fn i := rfl
@[simp] theorem modIcLine_region (n : Nat) (f : IcLine → IcLine) (i : Nat) : (s.modIcLine n f).region i = s.region i := rfl
@[simp] theorem modIcLine_port (n : Nat) (f : IcLine → IcLine) (i : Nat) : (s.modIcLine n f).port i = s.port i := rfl
@[simp] theorem modIcLine_session (n : Nat) (f : IcLine → IcLine) (i : Nat) : (s.modIcLine n f).session i = s.session i := rfl
@[simp] theorem modIcLine_core (n : Nat) (f : IcLine → IcLine) (i : Nat) : (s.modIcLine n f).core i = s.core i := rfl
@[simp] theorem modIcLine_site (n : Nat) (f : IcLine → IcLine) (i : Nat) : (s.modIcLine n f).site i = s.site i := rfl
@[simp] theorem modIcLine_rail (n : Nat) (f : IcLine → IcLine) (i : Nat) : (s.modIcLine n f).rail i = s.rail i := rfl
@[simp] theorem modIcLine_consumer (n : Nat) (f : IcLine → IcLine) (i : Nat) : (s.modIcLine n f).consumer i = s.consumer i := rfl
@[simp] theorem modIcLine_icLine_same (n : Nat) (f : IcLine → IcLine) : (s.modIcLine n f).icLine n = f (s.icLine n) := by simp [State.modIcLine, State.icLine]
@[simp] theorem modIcLine_icLine_ne (n : Nat) (f : IcLine → IcLine) (i : Nat) (h : i ≠ n) : (s.modIcLine n f).icLine i = s.icLine i := by simp [State.modIcLine, State.icLine, h]

/-! ### latch -/

@[simp] theorem latch_pending (n : Nat) : (s.latch n).pending = s.pending := rfl
@[simp] theorem latch_free (n : Nat) : (s.latch n).free = s.free := rfl
@[simp] theorem latch_out (n : Nat) : (s.latch n).out = s.out := rfl
@[simp] theorem latch_unsent (n : Nat) : (s.latch n).unsent = s.unsent := rfl
@[simp] theorem latch_buckets (n : Nat) : (s.latch n).buckets = s.buckets := rfl
@[simp] theorem latch_clusters (n : Nat) : (s.latch n).clusters = s.clusters := rfl
@[simp] theorem latch_quarters (n : Nat) : (s.latch n).quarters = s.quarters := rfl
@[simp] theorem latch_stackTab (n : Nat) : (s.latch n).stackTab = s.stackTab := rfl
@[simp] theorem latch_engines (n : Nat) : (s.latch n).engines = s.engines := rfl
@[simp] theorem latch_mem (n : Nat) : (s.latch n).mem = s.mem := rfl
@[simp] theorem latch_memory (n : Nat) : (s.latch n).memory = s.memory := rfl
@[simp] theorem latch_parts (n : Nat) : (s.latch n).parts = s.parts := rfl
@[simp] theorem latch_partCtl (n : Nat) : (s.latch n).partCtl = s.partCtl := rfl
@[simp] theorem latch_copies (n : Nat) : (s.latch n).copies = s.copies := rfl
@[simp] theorem latch_nextCopy (n : Nat) : (s.latch n).nextCopy = s.nextCopy := rfl
@[simp] theorem latch_fns (n : Nat) : (s.latch n).fns = s.fns := rfl
@[simp] theorem latch_regs (n : Nat) : (s.latch n).regs = s.regs := rfl
@[simp] theorem latch_links (n : Nat) : (s.latch n).links = s.links := rfl
@[simp] theorem latch_sec (n : Nat) : (s.latch n).sec = s.sec := rfl
@[simp] theorem latch_power (n : Nat) : (s.latch n).power = s.power := rfl
@[simp] theorem latch_time (n : Nat) : (s.latch n).time = s.time := rfl
@[simp] theorem latch_module (n : Nat) : (s.latch n).module = s.module := rfl
@[simp] theorem latch_spares (n : Nat) : (s.latch n).spares = s.spares := rfl
@[simp] theorem latch_intr_cores (n : Nat) : (s.latch n).intr.cores = s.intr.cores := rfl
@[simp] theorem latch_intr_throttle (n : Nat) : (s.latch n).intr.throttle = s.intr.throttle := rfl
@[simp] theorem latch_intr_throttleFast (n : Nat) : (s.latch n).intr.throttleFast = s.intr.throttleFast := rfl
@[simp] theorem latch_intr_throttleStuck (n : Nat) : (s.latch n).intr.throttleStuck = s.intr.throttleStuck := rfl
@[simp] theorem latch_intr_extraPulses (n : Nat) : (s.latch n).intr.extraPulses = s.intr.extraPulses := rfl
@[simp] theorem latch_intr_pinLow (n : Nat) : (s.latch n).intr.pinLow = s.intr.pinLow := rfl
@[simp] theorem latch_intr_pinSince (n : Nat) : (s.latch n).intr.pinSince = s.intr.pinSince := rfl
@[simp] theorem latch_intr_accepted (n : Nat) : (s.latch n).intr.accepted = s.intr.accepted := rfl
@[simp] theorem latch_intr_lastAssert (n : Nat) : (s.latch n).intr.lastAssert = s.intr.lastAssert := rfl
@[simp] theorem latch_intr_lastEdge (n : Nat) : (s.latch n).intr.lastEdge = s.intr.lastEdge := rfl
@[simp] theorem latch_intr_since (n : Nat) : (s.latch n).intr.since = s.intr.since := rfl
@[simp] theorem latch_intr_edges (n : Nat) : (s.latch n).intr.edges = s.intr.edges := rfl
@[simp] theorem latch_intr_pulseRecord (n : Nat) : (s.latch n).intr.pulseRecord = s.intr.pulseRecord := rfl
@[simp] theorem latch_cluster (n : Nat) (i : Nat) : (s.latch n).cluster i = s.cluster i := rfl
@[simp] theorem latch_quarter (n : Nat) (i : Nat) : (s.latch n).quarter i = s.quarter i := rfl
@[simp] theorem latch_stack (n : Nat) (i : Nat) : (s.latch n).stack i = s.stack i := rfl
@[simp] theorem latch_engine (n : Nat) (i : Nat) : (s.latch n).engine i = s.engine i := rfl
@[simp] theorem latch_part (n : Nat) (i : Nat) : (s.latch n).part i = s.part i := rfl
@[simp] theorem latch_round (n : Nat) (i : Nat) : (s.latch n).round i = s.round i := rfl
@[simp] theorem latch_fn (n : Nat) (i : Nat) : (s.latch n).fn i = s.fn i := rfl
@[simp] theorem latch_region (n : Nat) (i : Nat) : (s.latch n).region i = s.region i := rfl
@[simp] theorem latch_port (n : Nat) (i : Nat) : (s.latch n).port i = s.port i := rfl
@[simp] theorem latch_session (n : Nat) (i : Nat) : (s.latch n).session i = s.session i := rfl
@[simp] theorem latch_core (n : Nat) (i : Nat) : (s.latch n).core i = s.core i := rfl
@[simp] theorem latch_site (n : Nat) (i : Nat) : (s.latch n).site i = s.site i := rfl
@[simp] theorem latch_rail (n : Nat) (i : Nat) : (s.latch n).rail i = s.rail i := rfl
@[simp] theorem latch_consumer (n : Nat) (i : Nat) : (s.latch n).consumer i = s.consumer i := rfl

/-! ### modSite -/

@[simp] theorem modSite_pending (n : Nat) (f : SensorSite → SensorSite) : (s.modSite n f).pending = s.pending := rfl
@[simp] theorem modSite_free (n : Nat) (f : SensorSite → SensorSite) : (s.modSite n f).free = s.free := rfl
@[simp] theorem modSite_out (n : Nat) (f : SensorSite → SensorSite) : (s.modSite n f).out = s.out := rfl
@[simp] theorem modSite_unsent (n : Nat) (f : SensorSite → SensorSite) : (s.modSite n f).unsent = s.unsent := rfl
@[simp] theorem modSite_buckets (n : Nat) (f : SensorSite → SensorSite) : (s.modSite n f).buckets = s.buckets := rfl
@[simp] theorem modSite_clusters (n : Nat) (f : SensorSite → SensorSite) : (s.modSite n f).clusters = s.clusters := rfl
@[simp] theorem modSite_quarters (n : Nat) (f : SensorSite → SensorSite) : (s.modSite n f).quarters = s.quarters := rfl
@[simp] theorem modSite_stackTab (n : Nat) (f : SensorSite → SensorSite) : (s.modSite n f).stackTab = s.stackTab := rfl
@[simp] theorem modSite_engines (n : Nat) (f : SensorSite → SensorSite) : (s.modSite n f).engines = s.engines := rfl
@[simp] theorem modSite_mem (n : Nat) (f : SensorSite → SensorSite) : (s.modSite n f).mem = s.mem := rfl
@[simp] theorem modSite_memory (n : Nat) (f : SensorSite → SensorSite) : (s.modSite n f).memory = s.memory := rfl
@[simp] theorem modSite_parts (n : Nat) (f : SensorSite → SensorSite) : (s.modSite n f).parts = s.parts := rfl
@[simp] theorem modSite_partCtl (n : Nat) (f : SensorSite → SensorSite) : (s.modSite n f).partCtl = s.partCtl := rfl
@[simp] theorem modSite_copies (n : Nat) (f : SensorSite → SensorSite) : (s.modSite n f).copies = s.copies := rfl
@[simp] theorem modSite_nextCopy (n : Nat) (f : SensorSite → SensorSite) : (s.modSite n f).nextCopy = s.nextCopy := rfl
@[simp] theorem modSite_fns (n : Nat) (f : SensorSite → SensorSite) : (s.modSite n f).fns = s.fns := rfl
@[simp] theorem modSite_intr (n : Nat) (f : SensorSite → SensorSite) : (s.modSite n f).intr = s.intr := rfl
@[simp] theorem modSite_regs (n : Nat) (f : SensorSite → SensorSite) : (s.modSite n f).regs = s.regs := rfl
@[simp] theorem modSite_links (n : Nat) (f : SensorSite → SensorSite) : (s.modSite n f).links = s.links := rfl
@[simp] theorem modSite_sec (n : Nat) (f : SensorSite → SensorSite) : (s.modSite n f).sec = s.sec := rfl
@[simp] theorem modSite_time (n : Nat) (f : SensorSite → SensorSite) : (s.modSite n f).time = s.time := rfl
@[simp] theorem modSite_module (n : Nat) (f : SensorSite → SensorSite) : (s.modSite n f).module = s.module := rfl
@[simp] theorem modSite_spares (n : Nat) (f : SensorSite → SensorSite) : (s.modSite n f).spares = s.spares := rfl
@[simp] theorem modSite_power_profile (n : Nat) (f : SensorSite → SensorSite) : (s.modSite n f).power.profile = s.power.profile := rfl
@[simp] theorem modSite_power_envelope (n : Nat) (f : SensorSite → SensorSite) : (s.modSite n f).power.envelope = s.power.envelope := rfl
@[simp] theorem modSite_power_input (n : Nat) (f : SensorSite → SensorSite) : (s.modSite n f).power.input = s.power.input := rfl
@[simp] theorem modSite_power_allowance (n : Nat) (f : SensorSite → SensorSite) : (s.modSite n f).power.allowance = s.power.allowance := rfl
@[simp] theorem modSite_power_calm (n : Nat) (f : SensorSite → SensorSite) : (s.modSite n f).power.calm = s.power.calm := rfl
@[simp] theorem modSite_power_floor (n : Nat) (f : SensorSite → SensorSite) : (s.modSite n f).power.floor = s.power.floor := rfl
@[simp] theorem modSite_power_inputLow (n : Nat) (f : SensorSite → SensorSite) : (s.modSite n f).power.inputLow = s.power.inputLow := rfl
@[simp] theorem modSite_power_inputHigh (n : Nat) (f : SensorSite → SensorSite) : (s.modSite n f).power.inputHigh = s.power.inputHigh := rfl
@[simp] theorem modSite_power_oc (n : Nat) (f : SensorSite → SensorSite) : (s.modSite n f).power.oc = s.power.oc := rfl
@[simp] theorem modSite_power_ocEvents (n : Nat) (f : SensorSite → SensorSite) : (s.modSite n f).power.ocEvents = s.power.ocEvents := rfl
@[simp] theorem modSite_power_millivolts (n : Nat) (f : SensorSite → SensorSite) : (s.modSite n f).power.millivolts = s.power.millivolts := rfl
@[simp] theorem modSite_power_amps (n : Nat) (f : SensorSite → SensorSite) : (s.modSite n f).power.amps = s.power.amps := rfl
@[simp] theorem modSite_power_consumers (n : Nat) (f : SensorSite → SensorSite) : (s.modSite n f).power.consumers = s.power.consumers := rfl
@[simp] theorem modSite_power_rails (n : Nat) (f : SensorSite → SensorSite) : (s.modSite n f).power.rails = s.power.rails := rfl
@[simp] theorem modSite_power_windowAt (n : Nat) (f : SensorSite → SensorSite) : (s.modSite n f).power.windowAt = s.power.windowAt := rfl
@[simp] theorem modSite_power_smb (n : Nat) (f : SensorSite → SensorSite) : (s.modSite n f).power.smb = s.power.smb := rfl
@[simp] theorem modSite_cluster (n : Nat) (f : SensorSite → SensorSite) (i : Nat) : (s.modSite n f).cluster i = s.cluster i := rfl
@[simp] theorem modSite_quarter (n : Nat) (f : SensorSite → SensorSite) (i : Nat) : (s.modSite n f).quarter i = s.quarter i := rfl
@[simp] theorem modSite_stack (n : Nat) (f : SensorSite → SensorSite) (i : Nat) : (s.modSite n f).stack i = s.stack i := rfl
@[simp] theorem modSite_engine (n : Nat) (f : SensorSite → SensorSite) (i : Nat) : (s.modSite n f).engine i = s.engine i := rfl
@[simp] theorem modSite_part (n : Nat) (f : SensorSite → SensorSite) (i : Nat) : (s.modSite n f).part i = s.part i := rfl
@[simp] theorem modSite_round (n : Nat) (f : SensorSite → SensorSite) (i : Nat) : (s.modSite n f).round i = s.round i := rfl
@[simp] theorem modSite_fn (n : Nat) (f : SensorSite → SensorSite) (i : Nat) : (s.modSite n f).fn i = s.fn i := rfl
@[simp] theorem modSite_region (n : Nat) (f : SensorSite → SensorSite) (i : Nat) : (s.modSite n f).region i = s.region i := rfl
@[simp] theorem modSite_port (n : Nat) (f : SensorSite → SensorSite) (i : Nat) : (s.modSite n f).port i = s.port i := rfl
@[simp] theorem modSite_session (n : Nat) (f : SensorSite → SensorSite) (i : Nat) : (s.modSite n f).session i = s.session i := rfl
@[simp] theorem modSite_core (n : Nat) (f : SensorSite → SensorSite) (i : Nat) : (s.modSite n f).core i = s.core i := rfl
@[simp] theorem modSite_icLine (n : Nat) (f : SensorSite → SensorSite) (i : Nat) : (s.modSite n f).icLine i = s.icLine i := rfl
@[simp] theorem modSite_rail (n : Nat) (f : SensorSite → SensorSite) (i : Nat) : (s.modSite n f).rail i = s.rail i := rfl
@[simp] theorem modSite_consumer (n : Nat) (f : SensorSite → SensorSite) (i : Nat) : (s.modSite n f).consumer i = s.consumer i := rfl
@[simp] theorem modSite_site_same (n : Nat) (f : SensorSite → SensorSite) : (s.modSite n f).site n = f (s.site n) := by simp [State.modSite, State.site]
@[simp] theorem modSite_site_ne (n : Nat) (f : SensorSite → SensorSite) (i : Nat) (h : i ≠ n) : (s.modSite n f).site i = s.site i := by simp [State.modSite, State.site, h]

/-! ### modRail -/

@[simp] theorem modRail_pending (n : Nat) (f : Rail → Rail) : (s.modRail n f).pending = s.pending := rfl
@[simp] theorem modRail_free (n : Nat) (f : Rail → Rail) : (s.modRail n f).free = s.free := rfl
@[simp] theorem modRail_out (n : Nat) (f : Rail → Rail) : (s.modRail n f).out = s.out := rfl
@[simp] theorem modRail_unsent (n : Nat) (f : Rail → Rail) : (s.modRail n f).unsent = s.unsent := rfl
@[simp] theorem modRail_buckets (n : Nat) (f : Rail → Rail) : (s.modRail n f).buckets = s.buckets := rfl
@[simp] theorem modRail_clusters (n : Nat) (f : Rail → Rail) : (s.modRail n f).clusters = s.clusters := rfl
@[simp] theorem modRail_quarters (n : Nat) (f : Rail → Rail) : (s.modRail n f).quarters = s.quarters := rfl
@[simp] theorem modRail_stackTab (n : Nat) (f : Rail → Rail) : (s.modRail n f).stackTab = s.stackTab := rfl
@[simp] theorem modRail_engines (n : Nat) (f : Rail → Rail) : (s.modRail n f).engines = s.engines := rfl
@[simp] theorem modRail_mem (n : Nat) (f : Rail → Rail) : (s.modRail n f).mem = s.mem := rfl
@[simp] theorem modRail_memory (n : Nat) (f : Rail → Rail) : (s.modRail n f).memory = s.memory := rfl
@[simp] theorem modRail_parts (n : Nat) (f : Rail → Rail) : (s.modRail n f).parts = s.parts := rfl
@[simp] theorem modRail_partCtl (n : Nat) (f : Rail → Rail) : (s.modRail n f).partCtl = s.partCtl := rfl
@[simp] theorem modRail_copies (n : Nat) (f : Rail → Rail) : (s.modRail n f).copies = s.copies := rfl
@[simp] theorem modRail_nextCopy (n : Nat) (f : Rail → Rail) : (s.modRail n f).nextCopy = s.nextCopy := rfl
@[simp] theorem modRail_fns (n : Nat) (f : Rail → Rail) : (s.modRail n f).fns = s.fns := rfl
@[simp] theorem modRail_intr (n : Nat) (f : Rail → Rail) : (s.modRail n f).intr = s.intr := rfl
@[simp] theorem modRail_regs (n : Nat) (f : Rail → Rail) : (s.modRail n f).regs = s.regs := rfl
@[simp] theorem modRail_links (n : Nat) (f : Rail → Rail) : (s.modRail n f).links = s.links := rfl
@[simp] theorem modRail_sec (n : Nat) (f : Rail → Rail) : (s.modRail n f).sec = s.sec := rfl
@[simp] theorem modRail_time (n : Nat) (f : Rail → Rail) : (s.modRail n f).time = s.time := rfl
@[simp] theorem modRail_module (n : Nat) (f : Rail → Rail) : (s.modRail n f).module = s.module := rfl
@[simp] theorem modRail_spares (n : Nat) (f : Rail → Rail) : (s.modRail n f).spares = s.spares := rfl
@[simp] theorem modRail_power_profile (n : Nat) (f : Rail → Rail) : (s.modRail n f).power.profile = s.power.profile := rfl
@[simp] theorem modRail_power_envelope (n : Nat) (f : Rail → Rail) : (s.modRail n f).power.envelope = s.power.envelope := rfl
@[simp] theorem modRail_power_input (n : Nat) (f : Rail → Rail) : (s.modRail n f).power.input = s.power.input := rfl
@[simp] theorem modRail_power_allowance (n : Nat) (f : Rail → Rail) : (s.modRail n f).power.allowance = s.power.allowance := rfl
@[simp] theorem modRail_power_calm (n : Nat) (f : Rail → Rail) : (s.modRail n f).power.calm = s.power.calm := rfl
@[simp] theorem modRail_power_floor (n : Nat) (f : Rail → Rail) : (s.modRail n f).power.floor = s.power.floor := rfl
@[simp] theorem modRail_power_inputLow (n : Nat) (f : Rail → Rail) : (s.modRail n f).power.inputLow = s.power.inputLow := rfl
@[simp] theorem modRail_power_inputHigh (n : Nat) (f : Rail → Rail) : (s.modRail n f).power.inputHigh = s.power.inputHigh := rfl
@[simp] theorem modRail_power_oc (n : Nat) (f : Rail → Rail) : (s.modRail n f).power.oc = s.power.oc := rfl
@[simp] theorem modRail_power_ocEvents (n : Nat) (f : Rail → Rail) : (s.modRail n f).power.ocEvents = s.power.ocEvents := rfl
@[simp] theorem modRail_power_millivolts (n : Nat) (f : Rail → Rail) : (s.modRail n f).power.millivolts = s.power.millivolts := rfl
@[simp] theorem modRail_power_amps (n : Nat) (f : Rail → Rail) : (s.modRail n f).power.amps = s.power.amps := rfl
@[simp] theorem modRail_power_consumers (n : Nat) (f : Rail → Rail) : (s.modRail n f).power.consumers = s.power.consumers := rfl
@[simp] theorem modRail_power_sites (n : Nat) (f : Rail → Rail) : (s.modRail n f).power.sites = s.power.sites := rfl
@[simp] theorem modRail_power_windowAt (n : Nat) (f : Rail → Rail) : (s.modRail n f).power.windowAt = s.power.windowAt := rfl
@[simp] theorem modRail_power_smb (n : Nat) (f : Rail → Rail) : (s.modRail n f).power.smb = s.power.smb := rfl
@[simp] theorem modRail_cluster (n : Nat) (f : Rail → Rail) (i : Nat) : (s.modRail n f).cluster i = s.cluster i := rfl
@[simp] theorem modRail_quarter (n : Nat) (f : Rail → Rail) (i : Nat) : (s.modRail n f).quarter i = s.quarter i := rfl
@[simp] theorem modRail_stack (n : Nat) (f : Rail → Rail) (i : Nat) : (s.modRail n f).stack i = s.stack i := rfl
@[simp] theorem modRail_engine (n : Nat) (f : Rail → Rail) (i : Nat) : (s.modRail n f).engine i = s.engine i := rfl
@[simp] theorem modRail_part (n : Nat) (f : Rail → Rail) (i : Nat) : (s.modRail n f).part i = s.part i := rfl
@[simp] theorem modRail_round (n : Nat) (f : Rail → Rail) (i : Nat) : (s.modRail n f).round i = s.round i := rfl
@[simp] theorem modRail_fn (n : Nat) (f : Rail → Rail) (i : Nat) : (s.modRail n f).fn i = s.fn i := rfl
@[simp] theorem modRail_region (n : Nat) (f : Rail → Rail) (i : Nat) : (s.modRail n f).region i = s.region i := rfl
@[simp] theorem modRail_port (n : Nat) (f : Rail → Rail) (i : Nat) : (s.modRail n f).port i = s.port i := rfl
@[simp] theorem modRail_session (n : Nat) (f : Rail → Rail) (i : Nat) : (s.modRail n f).session i = s.session i := rfl
@[simp] theorem modRail_core (n : Nat) (f : Rail → Rail) (i : Nat) : (s.modRail n f).core i = s.core i := rfl
@[simp] theorem modRail_icLine (n : Nat) (f : Rail → Rail) (i : Nat) : (s.modRail n f).icLine i = s.icLine i := rfl
@[simp] theorem modRail_site (n : Nat) (f : Rail → Rail) (i : Nat) : (s.modRail n f).site i = s.site i := rfl
@[simp] theorem modRail_consumer (n : Nat) (f : Rail → Rail) (i : Nat) : (s.modRail n f).consumer i = s.consumer i := rfl
@[simp] theorem modRail_rail_same (n : Nat) (f : Rail → Rail) : (s.modRail n f).rail n = f (s.rail n) := by simp [State.modRail, State.rail]
@[simp] theorem modRail_rail_ne (n : Nat) (f : Rail → Rail) (i : Nat) (h : i ≠ n) : (s.modRail n f).rail i = s.rail i := by simp [State.modRail, State.rail, h]

/-! ### modConsumer -/

@[simp] theorem modConsumer_pending (n : Nat) (f : Consumer → Consumer) : (s.modConsumer n f).pending = s.pending := rfl
@[simp] theorem modConsumer_free (n : Nat) (f : Consumer → Consumer) : (s.modConsumer n f).free = s.free := rfl
@[simp] theorem modConsumer_out (n : Nat) (f : Consumer → Consumer) : (s.modConsumer n f).out = s.out := rfl
@[simp] theorem modConsumer_unsent (n : Nat) (f : Consumer → Consumer) : (s.modConsumer n f).unsent = s.unsent := rfl
@[simp] theorem modConsumer_buckets (n : Nat) (f : Consumer → Consumer) : (s.modConsumer n f).buckets = s.buckets := rfl
@[simp] theorem modConsumer_clusters (n : Nat) (f : Consumer → Consumer) : (s.modConsumer n f).clusters = s.clusters := rfl
@[simp] theorem modConsumer_quarters (n : Nat) (f : Consumer → Consumer) : (s.modConsumer n f).quarters = s.quarters := rfl
@[simp] theorem modConsumer_stackTab (n : Nat) (f : Consumer → Consumer) : (s.modConsumer n f).stackTab = s.stackTab := rfl
@[simp] theorem modConsumer_engines (n : Nat) (f : Consumer → Consumer) : (s.modConsumer n f).engines = s.engines := rfl
@[simp] theorem modConsumer_mem (n : Nat) (f : Consumer → Consumer) : (s.modConsumer n f).mem = s.mem := rfl
@[simp] theorem modConsumer_memory (n : Nat) (f : Consumer → Consumer) : (s.modConsumer n f).memory = s.memory := rfl
@[simp] theorem modConsumer_parts (n : Nat) (f : Consumer → Consumer) : (s.modConsumer n f).parts = s.parts := rfl
@[simp] theorem modConsumer_partCtl (n : Nat) (f : Consumer → Consumer) : (s.modConsumer n f).partCtl = s.partCtl := rfl
@[simp] theorem modConsumer_copies (n : Nat) (f : Consumer → Consumer) : (s.modConsumer n f).copies = s.copies := rfl
@[simp] theorem modConsumer_nextCopy (n : Nat) (f : Consumer → Consumer) : (s.modConsumer n f).nextCopy = s.nextCopy := rfl
@[simp] theorem modConsumer_fns (n : Nat) (f : Consumer → Consumer) : (s.modConsumer n f).fns = s.fns := rfl
@[simp] theorem modConsumer_intr (n : Nat) (f : Consumer → Consumer) : (s.modConsumer n f).intr = s.intr := rfl
@[simp] theorem modConsumer_regs (n : Nat) (f : Consumer → Consumer) : (s.modConsumer n f).regs = s.regs := rfl
@[simp] theorem modConsumer_links (n : Nat) (f : Consumer → Consumer) : (s.modConsumer n f).links = s.links := rfl
@[simp] theorem modConsumer_sec (n : Nat) (f : Consumer → Consumer) : (s.modConsumer n f).sec = s.sec := rfl
@[simp] theorem modConsumer_time (n : Nat) (f : Consumer → Consumer) : (s.modConsumer n f).time = s.time := rfl
@[simp] theorem modConsumer_module (n : Nat) (f : Consumer → Consumer) : (s.modConsumer n f).module = s.module := rfl
@[simp] theorem modConsumer_spares (n : Nat) (f : Consumer → Consumer) : (s.modConsumer n f).spares = s.spares := rfl
@[simp] theorem modConsumer_power_profile (n : Nat) (f : Consumer → Consumer) : (s.modConsumer n f).power.profile = s.power.profile := rfl
@[simp] theorem modConsumer_power_envelope (n : Nat) (f : Consumer → Consumer) : (s.modConsumer n f).power.envelope = s.power.envelope := rfl
@[simp] theorem modConsumer_power_input (n : Nat) (f : Consumer → Consumer) : (s.modConsumer n f).power.input = s.power.input := rfl
@[simp] theorem modConsumer_power_allowance (n : Nat) (f : Consumer → Consumer) : (s.modConsumer n f).power.allowance = s.power.allowance := rfl
@[simp] theorem modConsumer_power_calm (n : Nat) (f : Consumer → Consumer) : (s.modConsumer n f).power.calm = s.power.calm := rfl
@[simp] theorem modConsumer_power_floor (n : Nat) (f : Consumer → Consumer) : (s.modConsumer n f).power.floor = s.power.floor := rfl
@[simp] theorem modConsumer_power_inputLow (n : Nat) (f : Consumer → Consumer) : (s.modConsumer n f).power.inputLow = s.power.inputLow := rfl
@[simp] theorem modConsumer_power_inputHigh (n : Nat) (f : Consumer → Consumer) : (s.modConsumer n f).power.inputHigh = s.power.inputHigh := rfl
@[simp] theorem modConsumer_power_oc (n : Nat) (f : Consumer → Consumer) : (s.modConsumer n f).power.oc = s.power.oc := rfl
@[simp] theorem modConsumer_power_ocEvents (n : Nat) (f : Consumer → Consumer) : (s.modConsumer n f).power.ocEvents = s.power.ocEvents := rfl
@[simp] theorem modConsumer_power_millivolts (n : Nat) (f : Consumer → Consumer) : (s.modConsumer n f).power.millivolts = s.power.millivolts := rfl
@[simp] theorem modConsumer_power_amps (n : Nat) (f : Consumer → Consumer) : (s.modConsumer n f).power.amps = s.power.amps := rfl
@[simp] theorem modConsumer_power_rails (n : Nat) (f : Consumer → Consumer) : (s.modConsumer n f).power.rails = s.power.rails := rfl
@[simp] theorem modConsumer_power_sites (n : Nat) (f : Consumer → Consumer) : (s.modConsumer n f).power.sites = s.power.sites := rfl
@[simp] theorem modConsumer_power_windowAt (n : Nat) (f : Consumer → Consumer) : (s.modConsumer n f).power.windowAt = s.power.windowAt := rfl
@[simp] theorem modConsumer_power_smb (n : Nat) (f : Consumer → Consumer) : (s.modConsumer n f).power.smb = s.power.smb := rfl
@[simp] theorem modConsumer_cluster (n : Nat) (f : Consumer → Consumer) (i : Nat) : (s.modConsumer n f).cluster i = s.cluster i := rfl
@[simp] theorem modConsumer_quarter (n : Nat) (f : Consumer → Consumer) (i : Nat) : (s.modConsumer n f).quarter i = s.quarter i := rfl
@[simp] theorem modConsumer_stack (n : Nat) (f : Consumer → Consumer) (i : Nat) : (s.modConsumer n f).stack i = s.stack i := rfl
@[simp] theorem modConsumer_engine (n : Nat) (f : Consumer → Consumer) (i : Nat) : (s.modConsumer n f).engine i = s.engine i := rfl
@[simp] theorem modConsumer_part (n : Nat) (f : Consumer → Consumer) (i : Nat) : (s.modConsumer n f).part i = s.part i := rfl
@[simp] theorem modConsumer_round (n : Nat) (f : Consumer → Consumer) (i : Nat) : (s.modConsumer n f).round i = s.round i := rfl
@[simp] theorem modConsumer_fn (n : Nat) (f : Consumer → Consumer) (i : Nat) : (s.modConsumer n f).fn i = s.fn i := rfl
@[simp] theorem modConsumer_region (n : Nat) (f : Consumer → Consumer) (i : Nat) : (s.modConsumer n f).region i = s.region i := rfl
@[simp] theorem modConsumer_port (n : Nat) (f : Consumer → Consumer) (i : Nat) : (s.modConsumer n f).port i = s.port i := rfl
@[simp] theorem modConsumer_session (n : Nat) (f : Consumer → Consumer) (i : Nat) : (s.modConsumer n f).session i = s.session i := rfl
@[simp] theorem modConsumer_core (n : Nat) (f : Consumer → Consumer) (i : Nat) : (s.modConsumer n f).core i = s.core i := rfl
@[simp] theorem modConsumer_icLine (n : Nat) (f : Consumer → Consumer) (i : Nat) : (s.modConsumer n f).icLine i = s.icLine i := rfl
@[simp] theorem modConsumer_site (n : Nat) (f : Consumer → Consumer) (i : Nat) : (s.modConsumer n f).site i = s.site i := rfl
@[simp] theorem modConsumer_rail (n : Nat) (f : Consumer → Consumer) (i : Nat) : (s.modConsumer n f).rail i = s.rail i := rfl
@[simp] theorem modConsumer_consumer_same (n : Nat) (f : Consumer → Consumer) : (s.modConsumer n f).consumer n = f (s.consumer n) := by simp [State.modConsumer, State.consumer]
@[simp] theorem modConsumer_consumer_ne (n : Nat) (f : Consumer → Consumer) (i : Nat) (h : i ≠ n) : (s.modConsumer n f).consumer i = s.consumer i := by simp [State.modConsumer, State.consumer, h]

/-! ### useFree -/

@[simp] theorem useFree_pending  : (s.useFree ).pending = s.pending := rfl
@[simp] theorem useFree_out  : (s.useFree ).out = s.out := rfl
@[simp] theorem useFree_unsent  : (s.useFree ).unsent = s.unsent := rfl
@[simp] theorem useFree_buckets  : (s.useFree ).buckets = s.buckets := rfl
@[simp] theorem useFree_clusters  : (s.useFree ).clusters = s.clusters := rfl
@[simp] theorem useFree_quarters  : (s.useFree ).quarters = s.quarters := rfl
@[simp] theorem useFree_stackTab  : (s.useFree ).stackTab = s.stackTab := rfl
@[simp] theorem useFree_engines  : (s.useFree ).engines = s.engines := rfl
@[simp] theorem useFree_mem  : (s.useFree ).mem = s.mem := rfl
@[simp] theorem useFree_memory  : (s.useFree ).memory = s.memory := rfl
@[simp] theorem useFree_parts  : (s.useFree ).parts = s.parts := rfl
@[simp] theorem useFree_partCtl  : (s.useFree ).partCtl = s.partCtl := rfl
@[simp] theorem useFree_copies  : (s.useFree ).copies = s.copies := rfl
@[simp] theorem useFree_nextCopy  : (s.useFree ).nextCopy = s.nextCopy := rfl
@[simp] theorem useFree_fns  : (s.useFree ).fns = s.fns := rfl
@[simp] theorem useFree_intr  : (s.useFree ).intr = s.intr := rfl
@[simp] theorem useFree_regs  : (s.useFree ).regs = s.regs := rfl
@[simp] theorem useFree_links  : (s.useFree ).links = s.links := rfl
@[simp] theorem useFree_sec  : (s.useFree ).sec = s.sec := rfl
@[simp] theorem useFree_power  : (s.useFree ).power = s.power := rfl
@[simp] theorem useFree_time  : (s.useFree ).time = s.time := rfl
@[simp] theorem useFree_module  : (s.useFree ).module = s.module := rfl
@[simp] theorem useFree_spares  : (s.useFree ).spares = s.spares := rfl
@[simp] theorem useFree_cluster  (i : Nat) : (s.useFree ).cluster i = s.cluster i := rfl
@[simp] theorem useFree_quarter  (i : Nat) : (s.useFree ).quarter i = s.quarter i := rfl
@[simp] theorem useFree_stack  (i : Nat) : (s.useFree ).stack i = s.stack i := rfl
@[simp] theorem useFree_engine  (i : Nat) : (s.useFree ).engine i = s.engine i := rfl
@[simp] theorem useFree_part  (i : Nat) : (s.useFree ).part i = s.part i := rfl
@[simp] theorem useFree_round  (i : Nat) : (s.useFree ).round i = s.round i := rfl
@[simp] theorem useFree_fn  (i : Nat) : (s.useFree ).fn i = s.fn i := rfl
@[simp] theorem useFree_region  (i : Nat) : (s.useFree ).region i = s.region i := rfl
@[simp] theorem useFree_port  (i : Nat) : (s.useFree ).port i = s.port i := rfl
@[simp] theorem useFree_session  (i : Nat) : (s.useFree ).session i = s.session i := rfl
@[simp] theorem useFree_core  (i : Nat) : (s.useFree ).core i = s.core i := rfl
@[simp] theorem useFree_icLine  (i : Nat) : (s.useFree ).icLine i = s.icLine i := rfl
@[simp] theorem useFree_site  (i : Nat) : (s.useFree ).site i = s.site i := rfl
@[simp] theorem useFree_rail  (i : Nat) : (s.useFree ).rail i = s.rail i := rfl
@[simp] theorem useFree_consumer  (i : Nat) : (s.useFree ).consumer i = s.consumer i := rfl

/-! ### emit -/

@[simp] theorem emit_pending (o : Output) : (s.emit o).pending = s.pending := rfl
@[simp] theorem emit_free (o : Output) : (s.emit o).free = s.free := rfl
@[simp] theorem emit_unsent (o : Output) : (s.emit o).unsent = s.unsent := rfl
@[simp] theorem emit_buckets (o : Output) : (s.emit o).buckets = s.buckets := rfl
@[simp] theorem emit_clusters (o : Output) : (s.emit o).clusters = s.clusters := rfl
@[simp] theorem emit_quarters (o : Output) : (s.emit o).quarters = s.quarters := rfl
@[simp] theorem emit_stackTab (o : Output) : (s.emit o).stackTab = s.stackTab := rfl
@[simp] theorem emit_engines (o : Output) : (s.emit o).engines = s.engines := rfl
@[simp] theorem emit_mem (o : Output) : (s.emit o).mem = s.mem := rfl
@[simp] theorem emit_memory (o : Output) : (s.emit o).memory = s.memory := rfl
@[simp] theorem emit_parts (o : Output) : (s.emit o).parts = s.parts := rfl
@[simp] theorem emit_partCtl (o : Output) : (s.emit o).partCtl = s.partCtl := rfl
@[simp] theorem emit_copies (o : Output) : (s.emit o).copies = s.copies := rfl
@[simp] theorem emit_nextCopy (o : Output) : (s.emit o).nextCopy = s.nextCopy := rfl
@[simp] theorem emit_fns (o : Output) : (s.emit o).fns = s.fns := rfl
@[simp] theorem emit_intr (o : Output) : (s.emit o).intr = s.intr := rfl
@[simp] theorem emit_regs (o : Output) : (s.emit o).regs = s.regs := rfl
@[simp] theorem emit_links (o : Output) : (s.emit o).links = s.links := rfl
@[simp] theorem emit_sec (o : Output) : (s.emit o).sec = s.sec := rfl
@[simp] theorem emit_power (o : Output) : (s.emit o).power = s.power := rfl
@[simp] theorem emit_time (o : Output) : (s.emit o).time = s.time := rfl
@[simp] theorem emit_module (o : Output) : (s.emit o).module = s.module := rfl
@[simp] theorem emit_spares (o : Output) : (s.emit o).spares = s.spares := rfl
@[simp] theorem emit_cluster (o : Output) (i : Nat) : (s.emit o).cluster i = s.cluster i := rfl
@[simp] theorem emit_quarter (o : Output) (i : Nat) : (s.emit o).quarter i = s.quarter i := rfl
@[simp] theorem emit_stack (o : Output) (i : Nat) : (s.emit o).stack i = s.stack i := rfl
@[simp] theorem emit_engine (o : Output) (i : Nat) : (s.emit o).engine i = s.engine i := rfl
@[simp] theorem emit_part (o : Output) (i : Nat) : (s.emit o).part i = s.part i := rfl
@[simp] theorem emit_round (o : Output) (i : Nat) : (s.emit o).round i = s.round i := rfl
@[simp] theorem emit_fn (o : Output) (i : Nat) : (s.emit o).fn i = s.fn i := rfl
@[simp] theorem emit_region (o : Output) (i : Nat) : (s.emit o).region i = s.region i := rfl
@[simp] theorem emit_port (o : Output) (i : Nat) : (s.emit o).port i = s.port i := rfl
@[simp] theorem emit_session (o : Output) (i : Nat) : (s.emit o).session i = s.session i := rfl
@[simp] theorem emit_core (o : Output) (i : Nat) : (s.emit o).core i = s.core i := rfl
@[simp] theorem emit_icLine (o : Output) (i : Nat) : (s.emit o).icLine i = s.icLine i := rfl
@[simp] theorem emit_site (o : Output) (i : Nat) : (s.emit o).site i = s.site i := rfl
@[simp] theorem emit_rail (o : Output) (i : Nat) : (s.emit o).rail i = s.rail i := rfl
@[simp] theorem emit_consumer (o : Output) (i : Nat) : (s.emit o).consumer i = s.consumer i := rfl

/-! ### emitAll -/

@[simp] theorem emitAll_pending (os : List Output) : (s.emitAll os).pending = s.pending := rfl
@[simp] theorem emitAll_free (os : List Output) : (s.emitAll os).free = s.free := rfl
@[simp] theorem emitAll_unsent (os : List Output) : (s.emitAll os).unsent = s.unsent := rfl
@[simp] theorem emitAll_buckets (os : List Output) : (s.emitAll os).buckets = s.buckets := rfl
@[simp] theorem emitAll_clusters (os : List Output) : (s.emitAll os).clusters = s.clusters := rfl
@[simp] theorem emitAll_quarters (os : List Output) : (s.emitAll os).quarters = s.quarters := rfl
@[simp] theorem emitAll_stackTab (os : List Output) : (s.emitAll os).stackTab = s.stackTab := rfl
@[simp] theorem emitAll_engines (os : List Output) : (s.emitAll os).engines = s.engines := rfl
@[simp] theorem emitAll_mem (os : List Output) : (s.emitAll os).mem = s.mem := rfl
@[simp] theorem emitAll_memory (os : List Output) : (s.emitAll os).memory = s.memory := rfl
@[simp] theorem emitAll_parts (os : List Output) : (s.emitAll os).parts = s.parts := rfl
@[simp] theorem emitAll_partCtl (os : List Output) : (s.emitAll os).partCtl = s.partCtl := rfl
@[simp] theorem emitAll_copies (os : List Output) : (s.emitAll os).copies = s.copies := rfl
@[simp] theorem emitAll_nextCopy (os : List Output) : (s.emitAll os).nextCopy = s.nextCopy := rfl
@[simp] theorem emitAll_fns (os : List Output) : (s.emitAll os).fns = s.fns := rfl
@[simp] theorem emitAll_intr (os : List Output) : (s.emitAll os).intr = s.intr := rfl
@[simp] theorem emitAll_regs (os : List Output) : (s.emitAll os).regs = s.regs := rfl
@[simp] theorem emitAll_links (os : List Output) : (s.emitAll os).links = s.links := rfl
@[simp] theorem emitAll_sec (os : List Output) : (s.emitAll os).sec = s.sec := rfl
@[simp] theorem emitAll_power (os : List Output) : (s.emitAll os).power = s.power := rfl
@[simp] theorem emitAll_time (os : List Output) : (s.emitAll os).time = s.time := rfl
@[simp] theorem emitAll_module (os : List Output) : (s.emitAll os).module = s.module := rfl
@[simp] theorem emitAll_spares (os : List Output) : (s.emitAll os).spares = s.spares := rfl
@[simp] theorem emitAll_cluster (os : List Output) (i : Nat) : (s.emitAll os).cluster i = s.cluster i := rfl
@[simp] theorem emitAll_quarter (os : List Output) (i : Nat) : (s.emitAll os).quarter i = s.quarter i := rfl
@[simp] theorem emitAll_stack (os : List Output) (i : Nat) : (s.emitAll os).stack i = s.stack i := rfl
@[simp] theorem emitAll_engine (os : List Output) (i : Nat) : (s.emitAll os).engine i = s.engine i := rfl
@[simp] theorem emitAll_part (os : List Output) (i : Nat) : (s.emitAll os).part i = s.part i := rfl
@[simp] theorem emitAll_round (os : List Output) (i : Nat) : (s.emitAll os).round i = s.round i := rfl
@[simp] theorem emitAll_fn (os : List Output) (i : Nat) : (s.emitAll os).fn i = s.fn i := rfl
@[simp] theorem emitAll_region (os : List Output) (i : Nat) : (s.emitAll os).region i = s.region i := rfl
@[simp] theorem emitAll_port (os : List Output) (i : Nat) : (s.emitAll os).port i = s.port i := rfl
@[simp] theorem emitAll_session (os : List Output) (i : Nat) : (s.emitAll os).session i = s.session i := rfl
@[simp] theorem emitAll_core (os : List Output) (i : Nat) : (s.emitAll os).core i = s.core i := rfl
@[simp] theorem emitAll_icLine (os : List Output) (i : Nat) : (s.emitAll os).icLine i = s.icLine i := rfl
@[simp] theorem emitAll_site (os : List Output) (i : Nat) : (s.emitAll os).site i = s.site i := rfl
@[simp] theorem emitAll_rail (os : List Output) (i : Nat) : (s.emitAll os).rail i = s.rail i := rfl
@[simp] theorem emitAll_consumer (os : List Output) (i : Nat) : (s.emitAll os).consumer i = s.consumer i := rfl

/-! ### toHost -/

@[simp] theorem toHost_pending (os : List Output) : (s.toHost os).pending = s.pending := by
  unfold State.toHost
  split <;> rfl
@[simp] theorem toHost_free (os : List Output) : (s.toHost os).free = s.free := by
  unfold State.toHost
  split <;> rfl
@[simp] theorem toHost_buckets (os : List Output) : (s.toHost os).buckets = s.buckets := by
  unfold State.toHost
  split <;> rfl
@[simp] theorem toHost_clusters (os : List Output) : (s.toHost os).clusters = s.clusters := by
  unfold State.toHost
  split <;> rfl
@[simp] theorem toHost_quarters (os : List Output) : (s.toHost os).quarters = s.quarters := by
  unfold State.toHost
  split <;> rfl
@[simp] theorem toHost_stackTab (os : List Output) : (s.toHost os).stackTab = s.stackTab := by
  unfold State.toHost
  split <;> rfl
@[simp] theorem toHost_engines (os : List Output) : (s.toHost os).engines = s.engines := by
  unfold State.toHost
  split <;> rfl
@[simp] theorem toHost_mem (os : List Output) : (s.toHost os).mem = s.mem := by
  unfold State.toHost
  split <;> rfl
@[simp] theorem toHost_memory (os : List Output) : (s.toHost os).memory = s.memory := by
  unfold State.toHost
  split <;> rfl
@[simp] theorem toHost_parts (os : List Output) : (s.toHost os).parts = s.parts := by
  unfold State.toHost
  split <;> rfl
@[simp] theorem toHost_partCtl (os : List Output) : (s.toHost os).partCtl = s.partCtl := by
  unfold State.toHost
  split <;> rfl
@[simp] theorem toHost_copies (os : List Output) : (s.toHost os).copies = s.copies := by
  unfold State.toHost
  split <;> rfl
@[simp] theorem toHost_nextCopy (os : List Output) : (s.toHost os).nextCopy = s.nextCopy := by
  unfold State.toHost
  split <;> rfl
@[simp] theorem toHost_fns (os : List Output) : (s.toHost os).fns = s.fns := by
  unfold State.toHost
  split <;> rfl
@[simp] theorem toHost_intr (os : List Output) : (s.toHost os).intr = s.intr := by
  unfold State.toHost
  split <;> rfl
@[simp] theorem toHost_regs (os : List Output) : (s.toHost os).regs = s.regs := by
  unfold State.toHost
  split <;> rfl
@[simp] theorem toHost_links (os : List Output) : (s.toHost os).links = s.links := by
  unfold State.toHost
  split <;> rfl
@[simp] theorem toHost_sec (os : List Output) : (s.toHost os).sec = s.sec := by
  unfold State.toHost
  split <;> rfl
@[simp] theorem toHost_power (os : List Output) : (s.toHost os).power = s.power := by
  unfold State.toHost
  split <;> rfl
@[simp] theorem toHost_time (os : List Output) : (s.toHost os).time = s.time := by
  unfold State.toHost
  split <;> rfl
@[simp] theorem toHost_module (os : List Output) : (s.toHost os).module = s.module := by
  unfold State.toHost
  split <;> rfl
@[simp] theorem toHost_spares (os : List Output) : (s.toHost os).spares = s.spares := by
  unfold State.toHost
  split <;> rfl
@[simp] theorem toHost_cluster (os : List Output) (i : Nat) : (s.toHost os).cluster i = s.cluster i := by simp [State.cluster]
@[simp] theorem toHost_quarter (os : List Output) (i : Nat) : (s.toHost os).quarter i = s.quarter i := by simp [State.quarter]
@[simp] theorem toHost_stack (os : List Output) (i : Nat) : (s.toHost os).stack i = s.stack i := by simp [State.stack]
@[simp] theorem toHost_engine (os : List Output) (i : Nat) : (s.toHost os).engine i = s.engine i := by simp [State.engine]
@[simp] theorem toHost_part (os : List Output) (i : Nat) : (s.toHost os).part i = s.part i := by simp [State.part]
@[simp] theorem toHost_round (os : List Output) (i : Nat) : (s.toHost os).round i = s.round i := by simp [State.round]
@[simp] theorem toHost_fn (os : List Output) (i : Nat) : (s.toHost os).fn i = s.fn i := by simp [State.fn]
@[simp] theorem toHost_region (os : List Output) (i : Nat) : (s.toHost os).region i = s.region i := by simp [State.region]
@[simp] theorem toHost_port (os : List Output) (i : Nat) : (s.toHost os).port i = s.port i := by simp [State.port]
@[simp] theorem toHost_session (os : List Output) (i : Nat) : (s.toHost os).session i = s.session i := by simp [State.session]
@[simp] theorem toHost_core (os : List Output) (i : Nat) : (s.toHost os).core i = s.core i := by simp [State.core]
@[simp] theorem toHost_icLine (os : List Output) (i : Nat) : (s.toHost os).icLine i = s.icLine i := by simp [State.icLine]
@[simp] theorem toHost_site (os : List Output) (i : Nat) : (s.toHost os).site i = s.site i := by simp [State.site]
@[simp] theorem toHost_rail (os : List Output) (i : Nat) : (s.toHost os).rail i = s.rail i := by simp [State.rail]
@[simp] theorem toHost_consumer (os : List Output) (i : Nat) : (s.toHost os).consumer i = s.consumer i := by simp [State.consumer]

/-! ### hostWrite -/

@[simp] theorem hostWrite_pending (fn addr : Nat) (bs : List Byte) : (s.hostWrite fn addr bs).pending = s.pending := toHost_pending s _
@[simp] theorem hostWrite_free (fn addr : Nat) (bs : List Byte) : (s.hostWrite fn addr bs).free = s.free := toHost_free s _
@[simp] theorem hostWrite_buckets (fn addr : Nat) (bs : List Byte) : (s.hostWrite fn addr bs).buckets = s.buckets := toHost_buckets s _
@[simp] theorem hostWrite_clusters (fn addr : Nat) (bs : List Byte) : (s.hostWrite fn addr bs).clusters = s.clusters := toHost_clusters s _
@[simp] theorem hostWrite_quarters (fn addr : Nat) (bs : List Byte) : (s.hostWrite fn addr bs).quarters = s.quarters := toHost_quarters s _
@[simp] theorem hostWrite_stackTab (fn addr : Nat) (bs : List Byte) : (s.hostWrite fn addr bs).stackTab = s.stackTab := toHost_stackTab s _
@[simp] theorem hostWrite_engines (fn addr : Nat) (bs : List Byte) : (s.hostWrite fn addr bs).engines = s.engines := toHost_engines s _
@[simp] theorem hostWrite_mem (fn addr : Nat) (bs : List Byte) : (s.hostWrite fn addr bs).mem = s.mem := toHost_mem s _
@[simp] theorem hostWrite_memory (fn addr : Nat) (bs : List Byte) : (s.hostWrite fn addr bs).memory = s.memory := toHost_memory s _
@[simp] theorem hostWrite_parts (fn addr : Nat) (bs : List Byte) : (s.hostWrite fn addr bs).parts = s.parts := toHost_parts s _
@[simp] theorem hostWrite_partCtl (fn addr : Nat) (bs : List Byte) : (s.hostWrite fn addr bs).partCtl = s.partCtl := toHost_partCtl s _
@[simp] theorem hostWrite_copies (fn addr : Nat) (bs : List Byte) : (s.hostWrite fn addr bs).copies = s.copies := toHost_copies s _
@[simp] theorem hostWrite_nextCopy (fn addr : Nat) (bs : List Byte) : (s.hostWrite fn addr bs).nextCopy = s.nextCopy := toHost_nextCopy s _
@[simp] theorem hostWrite_fns (fn addr : Nat) (bs : List Byte) : (s.hostWrite fn addr bs).fns = s.fns := toHost_fns s _
@[simp] theorem hostWrite_intr (fn addr : Nat) (bs : List Byte) : (s.hostWrite fn addr bs).intr = s.intr := toHost_intr s _
@[simp] theorem hostWrite_regs (fn addr : Nat) (bs : List Byte) : (s.hostWrite fn addr bs).regs = s.regs := toHost_regs s _
@[simp] theorem hostWrite_links (fn addr : Nat) (bs : List Byte) : (s.hostWrite fn addr bs).links = s.links := toHost_links s _
@[simp] theorem hostWrite_sec (fn addr : Nat) (bs : List Byte) : (s.hostWrite fn addr bs).sec = s.sec := toHost_sec s _
@[simp] theorem hostWrite_power (fn addr : Nat) (bs : List Byte) : (s.hostWrite fn addr bs).power = s.power := toHost_power s _
@[simp] theorem hostWrite_time (fn addr : Nat) (bs : List Byte) : (s.hostWrite fn addr bs).time = s.time := toHost_time s _
@[simp] theorem hostWrite_module (fn addr : Nat) (bs : List Byte) : (s.hostWrite fn addr bs).module = s.module := toHost_module s _
@[simp] theorem hostWrite_spares (fn addr : Nat) (bs : List Byte) : (s.hostWrite fn addr bs).spares = s.spares := toHost_spares s _
@[simp] theorem hostWrite_cluster (fn addr : Nat) (bs : List Byte) (i : Nat) : (s.hostWrite fn addr bs).cluster i = s.cluster i := by simp [State.cluster]
@[simp] theorem hostWrite_quarter (fn addr : Nat) (bs : List Byte) (i : Nat) : (s.hostWrite fn addr bs).quarter i = s.quarter i := by simp [State.quarter]
@[simp] theorem hostWrite_stack (fn addr : Nat) (bs : List Byte) (i : Nat) : (s.hostWrite fn addr bs).stack i = s.stack i := by simp [State.stack]
@[simp] theorem hostWrite_engine (fn addr : Nat) (bs : List Byte) (i : Nat) : (s.hostWrite fn addr bs).engine i = s.engine i := by simp [State.engine]
@[simp] theorem hostWrite_part (fn addr : Nat) (bs : List Byte) (i : Nat) : (s.hostWrite fn addr bs).part i = s.part i := by simp [State.part]
@[simp] theorem hostWrite_round (fn addr : Nat) (bs : List Byte) (i : Nat) : (s.hostWrite fn addr bs).round i = s.round i := by simp [State.round]
@[simp] theorem hostWrite_fn (fn addr : Nat) (bs : List Byte) (i : Nat) : (s.hostWrite fn addr bs).fn i = s.fn i := by simp [State.fn]
@[simp] theorem hostWrite_region (fn addr : Nat) (bs : List Byte) (i : Nat) : (s.hostWrite fn addr bs).region i = s.region i := by simp [State.region]
@[simp] theorem hostWrite_port (fn addr : Nat) (bs : List Byte) (i : Nat) : (s.hostWrite fn addr bs).port i = s.port i := by simp [State.port]
@[simp] theorem hostWrite_session (fn addr : Nat) (bs : List Byte) (i : Nat) : (s.hostWrite fn addr bs).session i = s.session i := by simp [State.session]
@[simp] theorem hostWrite_core (fn addr : Nat) (bs : List Byte) (i : Nat) : (s.hostWrite fn addr bs).core i = s.core i := by simp [State.core]
@[simp] theorem hostWrite_icLine (fn addr : Nat) (bs : List Byte) (i : Nat) : (s.hostWrite fn addr bs).icLine i = s.icLine i := by simp [State.icLine]
@[simp] theorem hostWrite_site (fn addr : Nat) (bs : List Byte) (i : Nat) : (s.hostWrite fn addr bs).site i = s.site i := by simp [State.site]
@[simp] theorem hostWrite_rail (fn addr : Nat) (bs : List Byte) (i : Nat) : (s.hostWrite fn addr bs).rail i = s.rail i := by simp [State.rail]
@[simp] theorem hostWrite_consumer (fn addr : Nat) (bs : List Byte) (i : Nat) : (s.hostWrite fn addr bs).consumer i = s.consumer i := by simp [State.consumer]

/-! ### hostRecord -/

@[simp] theorem hostRecord_pending (fn addr : Nat) (bs : List Byte) : (s.hostRecord fn addr bs).pending = s.pending := toHost_pending s _
@[simp] theorem hostRecord_free (fn addr : Nat) (bs : List Byte) : (s.hostRecord fn addr bs).free = s.free := toHost_free s _
@[simp] theorem hostRecord_buckets (fn addr : Nat) (bs : List Byte) : (s.hostRecord fn addr bs).buckets = s.buckets := toHost_buckets s _
@[simp] theorem hostRecord_clusters (fn addr : Nat) (bs : List Byte) : (s.hostRecord fn addr bs).clusters = s.clusters := toHost_clusters s _
@[simp] theorem hostRecord_quarters (fn addr : Nat) (bs : List Byte) : (s.hostRecord fn addr bs).quarters = s.quarters := toHost_quarters s _
@[simp] theorem hostRecord_stackTab (fn addr : Nat) (bs : List Byte) : (s.hostRecord fn addr bs).stackTab = s.stackTab := toHost_stackTab s _
@[simp] theorem hostRecord_engines (fn addr : Nat) (bs : List Byte) : (s.hostRecord fn addr bs).engines = s.engines := toHost_engines s _
@[simp] theorem hostRecord_mem (fn addr : Nat) (bs : List Byte) : (s.hostRecord fn addr bs).mem = s.mem := toHost_mem s _
@[simp] theorem hostRecord_memory (fn addr : Nat) (bs : List Byte) : (s.hostRecord fn addr bs).memory = s.memory := toHost_memory s _
@[simp] theorem hostRecord_parts (fn addr : Nat) (bs : List Byte) : (s.hostRecord fn addr bs).parts = s.parts := toHost_parts s _
@[simp] theorem hostRecord_partCtl (fn addr : Nat) (bs : List Byte) : (s.hostRecord fn addr bs).partCtl = s.partCtl := toHost_partCtl s _
@[simp] theorem hostRecord_copies (fn addr : Nat) (bs : List Byte) : (s.hostRecord fn addr bs).copies = s.copies := toHost_copies s _
@[simp] theorem hostRecord_nextCopy (fn addr : Nat) (bs : List Byte) : (s.hostRecord fn addr bs).nextCopy = s.nextCopy := toHost_nextCopy s _
@[simp] theorem hostRecord_fns (fn addr : Nat) (bs : List Byte) : (s.hostRecord fn addr bs).fns = s.fns := toHost_fns s _
@[simp] theorem hostRecord_intr (fn addr : Nat) (bs : List Byte) : (s.hostRecord fn addr bs).intr = s.intr := toHost_intr s _
@[simp] theorem hostRecord_regs (fn addr : Nat) (bs : List Byte) : (s.hostRecord fn addr bs).regs = s.regs := toHost_regs s _
@[simp] theorem hostRecord_links (fn addr : Nat) (bs : List Byte) : (s.hostRecord fn addr bs).links = s.links := toHost_links s _
@[simp] theorem hostRecord_sec (fn addr : Nat) (bs : List Byte) : (s.hostRecord fn addr bs).sec = s.sec := toHost_sec s _
@[simp] theorem hostRecord_power (fn addr : Nat) (bs : List Byte) : (s.hostRecord fn addr bs).power = s.power := toHost_power s _
@[simp] theorem hostRecord_time (fn addr : Nat) (bs : List Byte) : (s.hostRecord fn addr bs).time = s.time := toHost_time s _
@[simp] theorem hostRecord_module (fn addr : Nat) (bs : List Byte) : (s.hostRecord fn addr bs).module = s.module := toHost_module s _
@[simp] theorem hostRecord_spares (fn addr : Nat) (bs : List Byte) : (s.hostRecord fn addr bs).spares = s.spares := toHost_spares s _
@[simp] theorem hostRecord_cluster (fn addr : Nat) (bs : List Byte) (i : Nat) : (s.hostRecord fn addr bs).cluster i = s.cluster i := by simp [State.cluster]
@[simp] theorem hostRecord_quarter (fn addr : Nat) (bs : List Byte) (i : Nat) : (s.hostRecord fn addr bs).quarter i = s.quarter i := by simp [State.quarter]
@[simp] theorem hostRecord_stack (fn addr : Nat) (bs : List Byte) (i : Nat) : (s.hostRecord fn addr bs).stack i = s.stack i := by simp [State.stack]
@[simp] theorem hostRecord_engine (fn addr : Nat) (bs : List Byte) (i : Nat) : (s.hostRecord fn addr bs).engine i = s.engine i := by simp [State.engine]
@[simp] theorem hostRecord_part (fn addr : Nat) (bs : List Byte) (i : Nat) : (s.hostRecord fn addr bs).part i = s.part i := by simp [State.part]
@[simp] theorem hostRecord_round (fn addr : Nat) (bs : List Byte) (i : Nat) : (s.hostRecord fn addr bs).round i = s.round i := by simp [State.round]
@[simp] theorem hostRecord_fn (fn addr : Nat) (bs : List Byte) (i : Nat) : (s.hostRecord fn addr bs).fn i = s.fn i := by simp [State.fn]
@[simp] theorem hostRecord_region (fn addr : Nat) (bs : List Byte) (i : Nat) : (s.hostRecord fn addr bs).region i = s.region i := by simp [State.region]
@[simp] theorem hostRecord_port (fn addr : Nat) (bs : List Byte) (i : Nat) : (s.hostRecord fn addr bs).port i = s.port i := by simp [State.port]
@[simp] theorem hostRecord_session (fn addr : Nat) (bs : List Byte) (i : Nat) : (s.hostRecord fn addr bs).session i = s.session i := by simp [State.session]
@[simp] theorem hostRecord_core (fn addr : Nat) (bs : List Byte) (i : Nat) : (s.hostRecord fn addr bs).core i = s.core i := by simp [State.core]
@[simp] theorem hostRecord_icLine (fn addr : Nat) (bs : List Byte) (i : Nat) : (s.hostRecord fn addr bs).icLine i = s.icLine i := by simp [State.icLine]
@[simp] theorem hostRecord_site (fn addr : Nat) (bs : List Byte) (i : Nat) : (s.hostRecord fn addr bs).site i = s.site i := by simp [State.site]
@[simp] theorem hostRecord_rail (fn addr : Nat) (bs : List Byte) (i : Nat) : (s.hostRecord fn addr bs).rail i = s.rail i := by simp [State.rail]
@[simp] theorem hostRecord_consumer (fn addr : Nat) (bs : List Byte) (i : Nat) : (s.hostRecord fn addr bs).consumer i = s.consumer i := by simp [State.consumer]

/-! ### hostRead -/

@[simp] theorem hostRead_pending (fn addr len : Nat) : (s.hostRead fn addr len).pending = s.pending := toHost_pending s _
@[simp] theorem hostRead_free (fn addr len : Nat) : (s.hostRead fn addr len).free = s.free := toHost_free s _
@[simp] theorem hostRead_buckets (fn addr len : Nat) : (s.hostRead fn addr len).buckets = s.buckets := toHost_buckets s _
@[simp] theorem hostRead_clusters (fn addr len : Nat) : (s.hostRead fn addr len).clusters = s.clusters := toHost_clusters s _
@[simp] theorem hostRead_quarters (fn addr len : Nat) : (s.hostRead fn addr len).quarters = s.quarters := toHost_quarters s _
@[simp] theorem hostRead_stackTab (fn addr len : Nat) : (s.hostRead fn addr len).stackTab = s.stackTab := toHost_stackTab s _
@[simp] theorem hostRead_engines (fn addr len : Nat) : (s.hostRead fn addr len).engines = s.engines := toHost_engines s _
@[simp] theorem hostRead_mem (fn addr len : Nat) : (s.hostRead fn addr len).mem = s.mem := toHost_mem s _
@[simp] theorem hostRead_memory (fn addr len : Nat) : (s.hostRead fn addr len).memory = s.memory := toHost_memory s _
@[simp] theorem hostRead_parts (fn addr len : Nat) : (s.hostRead fn addr len).parts = s.parts := toHost_parts s _
@[simp] theorem hostRead_partCtl (fn addr len : Nat) : (s.hostRead fn addr len).partCtl = s.partCtl := toHost_partCtl s _
@[simp] theorem hostRead_copies (fn addr len : Nat) : (s.hostRead fn addr len).copies = s.copies := toHost_copies s _
@[simp] theorem hostRead_nextCopy (fn addr len : Nat) : (s.hostRead fn addr len).nextCopy = s.nextCopy := toHost_nextCopy s _
@[simp] theorem hostRead_fns (fn addr len : Nat) : (s.hostRead fn addr len).fns = s.fns := toHost_fns s _
@[simp] theorem hostRead_intr (fn addr len : Nat) : (s.hostRead fn addr len).intr = s.intr := toHost_intr s _
@[simp] theorem hostRead_regs (fn addr len : Nat) : (s.hostRead fn addr len).regs = s.regs := toHost_regs s _
@[simp] theorem hostRead_links (fn addr len : Nat) : (s.hostRead fn addr len).links = s.links := toHost_links s _
@[simp] theorem hostRead_sec (fn addr len : Nat) : (s.hostRead fn addr len).sec = s.sec := toHost_sec s _
@[simp] theorem hostRead_power (fn addr len : Nat) : (s.hostRead fn addr len).power = s.power := toHost_power s _
@[simp] theorem hostRead_time (fn addr len : Nat) : (s.hostRead fn addr len).time = s.time := toHost_time s _
@[simp] theorem hostRead_module (fn addr len : Nat) : (s.hostRead fn addr len).module = s.module := toHost_module s _
@[simp] theorem hostRead_spares (fn addr len : Nat) : (s.hostRead fn addr len).spares = s.spares := toHost_spares s _
@[simp] theorem hostRead_cluster (fn addr len : Nat) (i : Nat) : (s.hostRead fn addr len).cluster i = s.cluster i := by simp [State.cluster]
@[simp] theorem hostRead_quarter (fn addr len : Nat) (i : Nat) : (s.hostRead fn addr len).quarter i = s.quarter i := by simp [State.quarter]
@[simp] theorem hostRead_stack (fn addr len : Nat) (i : Nat) : (s.hostRead fn addr len).stack i = s.stack i := by simp [State.stack]
@[simp] theorem hostRead_engine (fn addr len : Nat) (i : Nat) : (s.hostRead fn addr len).engine i = s.engine i := by simp [State.engine]
@[simp] theorem hostRead_part (fn addr len : Nat) (i : Nat) : (s.hostRead fn addr len).part i = s.part i := by simp [State.part]
@[simp] theorem hostRead_round (fn addr len : Nat) (i : Nat) : (s.hostRead fn addr len).round i = s.round i := by simp [State.round]
@[simp] theorem hostRead_fn (fn addr len : Nat) (i : Nat) : (s.hostRead fn addr len).fn i = s.fn i := by simp [State.fn]
@[simp] theorem hostRead_region (fn addr len : Nat) (i : Nat) : (s.hostRead fn addr len).region i = s.region i := by simp [State.region]
@[simp] theorem hostRead_port (fn addr len : Nat) (i : Nat) : (s.hostRead fn addr len).port i = s.port i := by simp [State.port]
@[simp] theorem hostRead_session (fn addr len : Nat) (i : Nat) : (s.hostRead fn addr len).session i = s.session i := by simp [State.session]
@[simp] theorem hostRead_core (fn addr len : Nat) (i : Nat) : (s.hostRead fn addr len).core i = s.core i := by simp [State.core]
@[simp] theorem hostRead_icLine (fn addr len : Nat) (i : Nat) : (s.hostRead fn addr len).icLine i = s.icLine i := by simp [State.icLine]
@[simp] theorem hostRead_site (fn addr len : Nat) (i : Nat) : (s.hostRead fn addr len).site i = s.site i := by simp [State.site]
@[simp] theorem hostRead_rail (fn addr len : Nat) (i : Nat) : (s.hostRead fn addr len).rail i = s.rail i := by simp [State.rail]
@[simp] theorem hostRead_consumer (fn addr len : Nat) (i : Nat) : (s.hostRead fn addr len).consumer i = s.consumer i := by simp [State.consumer]

/-! ### setReg -/

@[simp] theorem setReg_pending (fn off : Nat) (v : W64) : (s.setReg fn off v).pending = s.pending := rfl
@[simp] theorem setReg_free (fn off : Nat) (v : W64) : (s.setReg fn off v).free = s.free := rfl
@[simp] theorem setReg_out (fn off : Nat) (v : W64) : (s.setReg fn off v).out = s.out := rfl
@[simp] theorem setReg_unsent (fn off : Nat) (v : W64) : (s.setReg fn off v).unsent = s.unsent := rfl
@[simp] theorem setReg_buckets (fn off : Nat) (v : W64) : (s.setReg fn off v).buckets = s.buckets := rfl
@[simp] theorem setReg_clusters (fn off : Nat) (v : W64) : (s.setReg fn off v).clusters = s.clusters := rfl
@[simp] theorem setReg_quarters (fn off : Nat) (v : W64) : (s.setReg fn off v).quarters = s.quarters := rfl
@[simp] theorem setReg_stackTab (fn off : Nat) (v : W64) : (s.setReg fn off v).stackTab = s.stackTab := rfl
@[simp] theorem setReg_engines (fn off : Nat) (v : W64) : (s.setReg fn off v).engines = s.engines := rfl
@[simp] theorem setReg_mem (fn off : Nat) (v : W64) : (s.setReg fn off v).mem = s.mem := rfl
@[simp] theorem setReg_memory (fn off : Nat) (v : W64) : (s.setReg fn off v).memory = s.memory := rfl
@[simp] theorem setReg_parts (fn off : Nat) (v : W64) : (s.setReg fn off v).parts = s.parts := rfl
@[simp] theorem setReg_partCtl (fn off : Nat) (v : W64) : (s.setReg fn off v).partCtl = s.partCtl := rfl
@[simp] theorem setReg_copies (fn off : Nat) (v : W64) : (s.setReg fn off v).copies = s.copies := rfl
@[simp] theorem setReg_nextCopy (fn off : Nat) (v : W64) : (s.setReg fn off v).nextCopy = s.nextCopy := rfl
@[simp] theorem setReg_fns (fn off : Nat) (v : W64) : (s.setReg fn off v).fns = s.fns := rfl
@[simp] theorem setReg_intr (fn off : Nat) (v : W64) : (s.setReg fn off v).intr = s.intr := rfl
@[simp] theorem setReg_links (fn off : Nat) (v : W64) : (s.setReg fn off v).links = s.links := rfl
@[simp] theorem setReg_sec (fn off : Nat) (v : W64) : (s.setReg fn off v).sec = s.sec := rfl
@[simp] theorem setReg_power (fn off : Nat) (v : W64) : (s.setReg fn off v).power = s.power := rfl
@[simp] theorem setReg_time (fn off : Nat) (v : W64) : (s.setReg fn off v).time = s.time := rfl
@[simp] theorem setReg_module (fn off : Nat) (v : W64) : (s.setReg fn off v).module = s.module := rfl
@[simp] theorem setReg_spares (fn off : Nat) (v : W64) : (s.setReg fn off v).spares = s.spares := rfl
@[simp] theorem setReg_cluster (fn off : Nat) (v : W64) (i : Nat) : (s.setReg fn off v).cluster i = s.cluster i := rfl
@[simp] theorem setReg_quarter (fn off : Nat) (v : W64) (i : Nat) : (s.setReg fn off v).quarter i = s.quarter i := rfl
@[simp] theorem setReg_stack (fn off : Nat) (v : W64) (i : Nat) : (s.setReg fn off v).stack i = s.stack i := rfl
@[simp] theorem setReg_engine (fn off : Nat) (v : W64) (i : Nat) : (s.setReg fn off v).engine i = s.engine i := rfl
@[simp] theorem setReg_part (fn off : Nat) (v : W64) (i : Nat) : (s.setReg fn off v).part i = s.part i := rfl
@[simp] theorem setReg_round (fn off : Nat) (v : W64) (i : Nat) : (s.setReg fn off v).round i = s.round i := rfl
@[simp] theorem setReg_fn (fn off : Nat) (v : W64) (i : Nat) : (s.setReg fn off v).fn i = s.fn i := rfl
@[simp] theorem setReg_region (fn off : Nat) (v : W64) (i : Nat) : (s.setReg fn off v).region i = s.region i := rfl
@[simp] theorem setReg_port (fn off : Nat) (v : W64) (i : Nat) : (s.setReg fn off v).port i = s.port i := rfl
@[simp] theorem setReg_session (fn off : Nat) (v : W64) (i : Nat) : (s.setReg fn off v).session i = s.session i := rfl
@[simp] theorem setReg_core (fn off : Nat) (v : W64) (i : Nat) : (s.setReg fn off v).core i = s.core i := rfl
@[simp] theorem setReg_icLine (fn off : Nat) (v : W64) (i : Nat) : (s.setReg fn off v).icLine i = s.icLine i := rfl
@[simp] theorem setReg_site (fn off : Nat) (v : W64) (i : Nat) : (s.setReg fn off v).site i = s.site i := rfl
@[simp] theorem setReg_rail (fn off : Nat) (v : W64) (i : Nat) : (s.setReg fn off v).rail i = s.rail i := rfl
@[simp] theorem setReg_consumer (fn off : Nat) (v : W64) (i : Nat) : (s.setReg fn off v).consumer i = s.consumer i := rfl

/-! ### Parts and rounds -/

@[simp] theorem modRound_part_same (n : Nat) (f : Round → Round) :
    (s.modRound n f).part n = { s.part n with round := f (s.part n).round } := by simp [State.modRound]
@[simp] theorem modRound_part_ne (n : Nat) (f : Round → Round) (i : Nat) (h : i ≠ n) : (s.modRound n f).part i = s.part i := by
  simp [State.modRound, h]
@[simp] theorem modRound_round_same (n : Nat) (f : Round → Round) : (s.modRound n f).round n = f (s.round n) := by
  simp [State.round]
@[simp] theorem modRound_round_ne (n : Nat) (f : Round → Round) (i : Nat) (h : i ≠ n) : (s.modRound n f).round i = s.round i := by
  simp [State.round, h]
@[simp] theorem modPart_round_same (n : Nat) (f : Part → Part) : (s.modPart n f).round n = (f (s.part n)).round := by
  simp [State.round]
@[simp] theorem modPart_round_ne (n : Nat) (f : Part → Part) (i : Nat) (h : i ≠ n) : (s.modPart n f).round i = s.round i := by
  simp [State.round, h]
@[simp] theorem modFn_ring_ne (n : Nat) (f : Fn → Fn) (i r : Nat) (h : i ≠ n) : (s.modFn n f).ring i r = s.ring i r := by
  simp [State.ring, h]
@[simp] theorem modFn_ring_same (n : Nat) (f : Fn → Fn) (r : Nat) :
    (s.modFn n f).ring n r = Tab.get (fun _ => Ring.reset) (f (s.fn n)).rings r := by simp [State.ring]
@[simp] theorem modRing_ring_same (n r : Nat) (f : Ring → Ring) : (s.modRing n r f).ring n r = f (s.ring n r) := by
  simp [State.modRing, State.ring]
@[simp] theorem modRing_ring_ne (n r : Nat) (f : Ring → Ring) (i k : Nat) (h : i ≠ n ∨ k ≠ r) :
    (s.modRing n r f).ring i k = s.ring i k := by
  by_cases hi : i = n
  · subst hi
    have hk : k ≠ r := by simpa using h
    simp [State.modRing, State.ring, hk]
  · simp [State.modRing, hi]

/-! ### Registers, time, output -/

@[simp] theorem setReg_reg_same (fn off : Nat) (v : W64) : (s.setReg fn off v).reg fn off = v := by simp [State.setReg, State.reg]
@[simp] theorem setReg_reg_ne (fn off : Nat) (v : W64) (g o : Nat) (h : regKey g o ≠ regKey fn off) :
    (s.setReg fn off v).reg g o = s.reg g o := by simp [State.setReg, State.reg, h]
@[simp] theorem emit_out (o : Output) : (s.emit o).out = s.out ++ [o] := rfl
@[simp] theorem emitAll_out (os : List Output) : (s.emitAll os).out = s.out ++ os := rfl
@[simp] theorem toHost_out (os : List Output) (h : s.linkGood = true) : (s.toHost os).out = s.out ++ os := by simp [State.toHost, h]
@[simp] theorem toHost_unsent (os : List Output) (h : s.linkGood = false) : (s.toHost os).unsent = s.unsent ++ os := by
  simp [State.toHost, h]
@[simp] theorem useFree_free : (s.useFree).free = s.free + 1 := rfl

end Sys2Proof.Laws
end

