-- ==== Sys2Proof/Laws/Host.lean ====
section
/-! SUPPORT. What posting records and writing rings can change: the functions, the sources' buckets and what leaves the module, and
nothing else. -/

namespace Sys2Proof.Laws

open Sys2Proof.Machine

/-- Only the functions' state, the buckets and what leaves or waits to leave may differ. -/
def OnlyHost (s t : State) : Prop := ∃ f o u b, t = { s with fns := f, out := o, unsent := u, buckets := b }

theorem onlyHost_refl (s : State) : OnlyHost s s := ⟨s.fns, s.out, s.unsent, s.buckets, rfl⟩

theorem onlyHost_trans {s t u : State} (h : OnlyHost s t) (k : OnlyHost t u) : OnlyHost s u := by
  obtain ⟨_, _, _, _, rfl⟩ := h
  obtain ⟨_, _, _, _, rfl⟩ := k
  exact ⟨_, _, _, _, rfl⟩

theorem onlyHost_modFn (s : State) (n : Nat) (f : Fn → Fn) : OnlyHost s (s.modFn n f) := ⟨_, s.out, s.unsent, s.buckets, rfl⟩

theorem onlyHost_modRing (s : State) (n r : Nat) (f : Ring → Ring) : OnlyHost s (s.modRing n r f) := ⟨_, s.out, s.unsent, s.buckets, rfl⟩

theorem onlyHost_emit (s : State) (x : Output) : OnlyHost s (s.emit x) := ⟨s.fns, _, s.unsent, s.buckets, rfl⟩

theorem onlyHost_toHost (s : State) (os : List Output) : OnlyHost s (s.toHost os) := by
  unfold State.toHost
  split <;> exact ⟨_, _, _, _, rfl⟩

theorem onlyHost_hostWrite (s : State) (fn addr : Nat) (bs : List Byte) : OnlyHost s (s.hostWrite fn addr bs) := onlyHost_toHost s _

theorem onlyHost_hostRecord (s : State) (fn addr : Nat) (bs : List Byte) : OnlyHost s (s.hostRecord fn addr bs) := onlyHost_toHost s _

theorem onlyHost_hostRead (s : State) (fn addr len : Nat) : OnlyHost s (s.hostRead fn addr len) := onlyHost_toHost s _

/-- What OnlyHost leaves of the rest of the state. -/
theorem onlyHost_rest {s t : State} (h : OnlyHost s t) : t.pending = s.pending ∧ t.mem = s.mem ∧ t.regs = s.regs ∧ t.parts = s.parts ∧
    t.clusters = s.clusters ∧ t.engines = s.engines ∧ t.memory = s.memory ∧ t.time = s.time ∧ t.sec = s.sec ∧ t.module = s.module := by
  obtain ⟨_, _, _, _, rfl⟩ := h
  exact ⟨rfl, rfl, rfl, rfl, rfl, rfl, rfl, rfl, rfl, rfl⟩

theorem onlyHost_fold {α : Type} (f : State → α → State) (h : ∀ s a, OnlyHost s (f s a)) (l : List α) (s : State) :
    OnlyHost s (l.foldl f s) := by
  induction l generalizing s with
  | nil => exact onlyHost_refl s
  | cons a l ih => exact onlyHost_trans (h s a) (ih (f s a))

theorem onlyHost_sendMsix (s : State) (fn : Nat) : OnlyHost s (s.sendMsix fn) := by
  unfold State.sendMsix
  split
  · exact onlyHost_modFn s fn _
  · exact onlyHost_toHost s _

theorem onlyHost_writeHeads (s : State) (fn : Nat) : OnlyHost s (s.writeHeads fn) := onlyHost_hostRecord s _ _ _

theorem onlyHost_announce (s : State) (fn : Nat) : OnlyHost s (s.announce fn) := by
  have w := onlyHost_writeHeads s fn
  unfold State.announce
  dsimp only
  split
  · exact onlyHost_trans w (onlyHost_trans (onlyHost_modFn _ fn _) (onlyHost_sendMsix _ fn))
  · exact w

theorem onlyHost_putEntry (s : State) (fn r size : Nat) (bs : List Byte) : OnlyHost s (s.putEntry fn r size bs) := by
  unfold State.putEntry
  exact onlyHost_trans (onlyHost_hostRecord s _ _ _) (onlyHost_modRing _ _ _ _)

theorem onlyHost_putRecord (s : State) (fn r kind code source flags count time arg : Nat) :
    OnlyHost s (s.putRecord fn r kind code source flags count time arg) :=
  onlyHost_trans (onlyHost_putEntry s _ _ _ _) (onlyHost_trans (onlyHost_modFn _ fn _) (onlyHost_announce _ fn))

theorem onlyHost_takeToken (s : State) (source : Nat) : OnlyHost s (s.takeToken source) := ⟨s.fns, s.out, s.unsent, _, rfl⟩

theorem onlyHost_hold (s : State) (fn source code fatal : Nat) (rate full : Bool) : OnlyHost s (s.hold fn source code fatal rate full) :=
  onlyHost_modFn s fn _

theorem onlyHost_writeSummaries (l : List Held) (s : State) (fn r : Nat) : OnlyHost s (s.writeSummaries fn r l) := by
  induction l generalizing s with
  | nil => exact onlyHost_refl s
  | cons h l ih =>
    unfold State.writeSummaries
    dsimp only
    split
    · exact onlyHost_refl s
    · split
      · exact ih s
      · exact onlyHost_trans (onlyHost_takeToken s _) (onlyHost_trans (onlyHost_modFn _ _ _)
          (onlyHost_trans (onlyHost_putRecord _ _ _ _ _ _ _ _ _ _) (ih _)))

/-- The summaries that are due touch the functions, the buckets and the output alone (12 R326). -/
theorem onlyHost_summaries (s : State) (fn r : Nat) : OnlyHost s (s.summaries fn r) := onlyHost_writeSummaries _ s fn r

/-- A record that is not fatal touches the functions, the buckets and the output alone (12 R322 to R326). -/
theorem onlyHost_post (s : State) (fn block code inst arg : Nat) : OnlyHost s (s.post fn block code inst arg) := by
  unfold State.post
  dsimp only
  split
  · exact onlyHost_modFn s fn _
  · split
    · exact onlyHost_modFn s fn _
    · rename_i r _
      have k := onlyHost_summaries s fn r
      split
      · exact onlyHost_trans k (onlyHost_hold _ _ _ _ _ _ _)
      · have k := onlyHost_trans k (onlyHost_takeToken _ (4096 * block + inst))
        split
        · exact onlyHost_trans k (onlyHost_hold _ _ _ _ _ _ _)
        · split
          · exact onlyHost_trans k (onlyHost_hold _ _ _ _ _ _ _)
          · exact onlyHost_trans k (onlyHost_putRecord _ _ _ _ _ _ _ _ _ _)

theorem onlyHost_postTo (s : State) (l : List Nat) (block code inst arg : Nat) : OnlyHost s (s.postTo l block code inst arg) :=
  onlyHost_fold _ (fun t n => onlyHost_post t n block code inst arg) l s

theorem onlyHost_postAll (s : State) (block code inst arg : Nat) : OnlyHost s (s.postAll block code inst arg) :=
  onlyHost_postTo s _ block code inst arg

/-- A fatal record touches the functions, the buckets and the output alone (12 R324, R325). -/
theorem onlyHost_postFatal (s : State) (fn block code inst arg : Nat) : OnlyHost s (s.postFatal fn block code inst arg) := by
  have put (t : State) (n r src flags : Nat) (now : Nat) : OnlyHost t
      (if (t.summaries n r).ringEntries n r ≤ (t.summaries n r).unreleased n r then (t.summaries n r).hold n src code 1 false true
      else (t.summaries n r).putRecord n r 1 code src flags 1 now arg) := by
    split
    · exact onlyHost_trans (onlyHost_summaries t n r) (onlyHost_hold _ _ _ _ _ _ _)
    · exact onlyHost_trans (onlyHost_summaries t n r) (onlyHost_putRecord _ _ _ _ _ _ _ _ _ _)
  unfold State.postFatal
  dsimp only
  split
  · exact put s _ _ _ _ _
  · split
    · exact onlyHost_modFn s fn _
    · split
      · exact onlyHost_trans (onlyHost_modFn s fn _) (put _ _ _ _ _ _)
      · exact onlyHost_trans (onlyHost_modFn s fn _) (onlyHost_modFn _ 0 _)

theorem onlyHost_postFatalAll (s : State) (block code inst arg : Nat) : OnlyHost s (s.postFatalAll block code inst arg) :=
  onlyHost_fold _ (fun t n => onlyHost_postFatal t n block code inst arg) _ s

theorem onlyHost_notifyBatch (s : State) (fn r : Nat) : OnlyHost s (s.notifyBatch fn r) := by
  unfold State.notifyBatch
  split
  · exact onlyHost_refl s
  · split
    · exact onlyHost_refl s
    · dsimp only
      have k := onlyHost_post s fn 1 2 (16 * fn + r) (s.ring fn r).moduleIndex.toNat
      split
      · exact k
      · split
        · exact onlyHost_trans k (onlyHost_modRing _ _ _ _)
        · exact k

/-- An entry of a completion, token or journal ring touches the functions, the buckets and the output alone (11 R308, R309). -/
theorem onlyHost_putRing (s : State) (fn r : Nat) (bs : List Byte) : OnlyHost s (s.putRing fn r bs) := by
  unfold State.putRing
  split
  · exact onlyHost_modRing s _ _ _
  · split
    · exact onlyHost_modRing s _ _ _
    · exact onlyHost_trans (onlyHost_putEntry s _ _ _ _) (onlyHost_trans (onlyHost_writeHeads _ _) (onlyHost_notifyBatch _ _ _))

/-- The entries that waited touch the same (11 R309). -/
theorem onlyHost_flushRing (s : State) (fn r : Nat) : OnlyHost s (s.flushRing fn r) := by
  unfold State.flushRing
  dsimp only
  split
  · exact onlyHost_refl s
  · exact onlyHost_trans (onlyHost_modRing s fn r _) (onlyHost_trans (onlyHost_fold _ (fun u e => onlyHost_putEntry u fn r 64 e) _ _)
      (onlyHost_trans (onlyHost_writeHeads _ _) (onlyHost_notifyBatch _ _ _)))

/-- A ring that stops touches the functions and the output alone (11 R318). -/
theorem onlyHost_stopRing (s : State) (fn r code : Nat) : OnlyHost s (s.stopRing fn r code) :=
  onlyHost_trans (onlyHost_modRing s fn r _) (onlyHost_post _ _ _ _ _ _)

end Sys2Proof.Laws
end

