-- ==== Sys2Proof/Laws/Memory.lean ====
section
/-! SUPPORT. What the operations on device memory do: the canonical form they keep, the line they write, the lines they leave. -/

namespace Sys2Proof.Laws

open Sys2Proof.Machine

/-! ### Reading back -/

theorem getList_setList_outside (d : Nat → Byte) (t : Tab Byte) (k j n : Nat) (vs : List Byte) (h : j + n ≤ k ∨ k + vs.length ≤ j) :
    Tab.getList d (Tab.setList d t k vs) j n = Tab.getList d t j n := by
  induction n generalizing j with
  | zero => rfl
  | succ n ih =>
    simp only [Tab.getList]
    rw [tab_get_setList_outside d vs t k j (by omega), ih (j + 1) (by omega)]

theorem getList_setList_same (d : Nat → Byte) (vs : List Byte) (t : Tab Byte) (k : Nat) :
    Tab.getList d (Tab.setList d t k vs) k vs.length = vs := by
  induction vs generalizing t k with
  | nil => rfl
  | cons v vs ih =>
    simp only [Tab.setList, List.length_cons, Tab.getList]
    rw [tab_get_setList_outside d vs _ (k + 1) k (by omega), tab_get_set_same, ih]

theorem getList_keep (d : Nat → Byte) (p : Nat → Bool) (t : Tab Byte) (k n : Nat) :
    Tab.getList d (Tab.keep p t) k n = (List.range n).map (fun i => if p (k + i) then Tab.get d t (k + i) else d (k + i)) := by
  induction n generalizing k with
  | zero => rfl
  | succ n ih =>
    rw [Tab.getList, ih, tab_get_keep, List.range_succ_eq_map, List.map_cons, List.map_map]
    simp [Function.comp_def, Nat.add_comm, Nat.add_left_comm]

/-- A written line reads back. -/
theorem stored_setStored_same (s : State) (pln : Nat) (bs : List Byte) (h : bs.length = 72) : (s.setStored pln bs).stored pln = bs := by
  have k := getList_setList_same blankByte bs s.mem (72 * pln)
  rw [h] at k
  exact k

/-- Every other line stays. -/
theorem stored_setStored_ne (s : State) (pln k : Nat) (bs : List Byte) (h : bs.length = 72) (hk : k ≠ pln) :
    (s.setStored pln bs).stored k = s.stored k := by
  unfold State.stored State.setStored
  exact getList_setList_outside _ s.mem (72 * pln) (72 * k) 72 bs (by omega)

/-! ### The canonical form -/

theorem setStored_wf (s : State) (pln : Nat) (bs : List Byte) (h : Memory.wf blankByte s.mem = true) :
    Memory.wf blankByte (s.setStored pln bs).mem = true := tab_setList_wf _ bs s.mem _ h

theorem blankOne_wf (s : State) (pln : Nat) (h : Memory.wf blankByte s.mem = true) : Memory.wf blankByte (s.blankOne pln).mem = true :=
  setStored_wf s pln _ h

theorem blankWhere_wf (s : State) (p : Nat → Bool) (h : Memory.wf blankByte s.mem = true) :
    Memory.wf blankByte (s.blankWhere p).mem = true := tab_keep_wf blankByte (fun k => !p (k / 72)) s.mem h

theorem blankRegion_wf (s : State) (r : Region) (h : Memory.wf blankByte s.mem = true) :
    Memory.wf blankByte (s.blankRegion r).mem = true := blankWhere_wf s _ h

theorem writeLine_wf (s : State) (pln : Nat) (l : Line) (h : Memory.wf blankByte s.mem = true) :
    Memory.wf blankByte (s.writeLine pln l).mem = true := by
  unfold State.writeLine
  split
  · dsimp only
    split
    · exact setStored_wf s pln _ h
    · exact setStored_wf s pln _ h
  · exact setStored_wf s pln _ h

/-! ### What else they change -/

/-- Storing a line changes device memory alone. -/
theorem setStored_only (s : State) (pln : Nat) (bs : List Byte) : s.setStored pln bs = { s with mem := (s.setStored pln bs).mem } := rfl

/-- Blanking changes device memory alone. -/
theorem blankWhere_only (s : State) (p : Nat → Bool) : s.blankWhere p = { s with mem := (s.blankWhere p).mem } := rfl

/-- Writing a line changes device memory alone. -/
theorem writeLine_only (s : State) (pln : Nat) (l : Line) : ∃ m, s.writeLine pln l = { s with mem := m } := by
  unfold State.writeLine
  split
  · dsimp only
    split
    · exact ⟨_, rfl⟩
    · exact ⟨_, rfl⟩
  · exact ⟨_, rfl⟩

/-- The records of 20 R463 and R464 touch flash, and what is still to be written to it. -/
theorem logWear_only (s : State) (kind unit detail pln : Nat) :
    s.logWear kind unit detail pln = { s with sec := (s.logWear kind unit detail pln).sec } := rfl

theorem mapChange_only (s : State) (kind unit : Nat) : s.mapChange kind unit = { s with spares := (s.mapChange kind unit).spares } := rfl

theorem noteRecent_only (s : State) (key : Nat) : s.noteRecent key = { s with spares := (s.noteRecent key).spares } := rfl

theorem recordError_only (s : State) (source severity code pln partition : Nat) :
    s.recordError source severity code pln partition = { s with memory := (s.recordError source severity code pln partition).memory } := rfl

/-- Only what counting a correction can touch may differ: the channel's counts, the stack's spare, what is still to be written to
flash, the wear log, and the functions, the buckets and the output. -/
def OnlyCounts (s t : State) : Prop :=
  ∃ m a b c f o u k, t = { s with memory := m, stackTab := a, spares := b, sec := c, fns := f, out := o, unsent := u, buckets := k }

theorem onlyCounts_refl (s : State) : OnlyCounts s s :=
  ⟨s.memory, s.stackTab, s.spares, s.sec, s.fns, s.out, s.unsent, s.buckets, rfl⟩

theorem onlyCounts_trans {s t u : State} (h : OnlyCounts s t) (k : OnlyCounts t u) : OnlyCounts s u := by
  obtain ⟨_, _, _, _, _, _, _, _, rfl⟩ := h
  obtain ⟨_, _, _, _, _, _, _, _, rfl⟩ := k
  exact ⟨_, _, _, _, _, _, _, _, rfl⟩

theorem onlyCounts_mem {s t : State} (h : OnlyCounts s t) : t.mem = s.mem := by
  obtain ⟨_, _, _, _, _, _, _, _, rfl⟩ := h
  rfl

theorem onlyCounts_host {s t : State} (h : OnlyHost s t) : OnlyCounts s t := by
  obtain ⟨f, o, u, b, rfl⟩ := h
  exact ⟨s.memory, s.stackTab, s.spares, s.sec, f, o, u, b, rfl⟩

theorem onlyCounts_logWear (s : State) (kind unit detail pln : Nat) : OnlyCounts s (s.logWear kind unit detail pln) :=
  ⟨s.memory, s.stackTab, s.spares, _, s.fns, s.out, s.unsent, s.buckets, rfl⟩

theorem onlyCounts_mapChange (s : State) (kind unit : Nat) : OnlyCounts s (s.mapChange kind unit) :=
  ⟨s.memory, s.stackTab, _, s.sec, s.fns, s.out, s.unsent, s.buckets, rfl⟩

theorem onlyCounts_noteRecent (s : State) (key : Nat) : OnlyCounts s (s.noteRecent key) :=
  ⟨s.memory, s.stackTab, _, s.sec, s.fns, s.out, s.unsent, s.buckets, rfl⟩

theorem onlyCounts_modCe (s : State) (c : Nat) (f : Ce → Ce) : OnlyCounts s (s.modCe c f) :=
  ⟨_, s.stackTab, s.spares, s.sec, s.fns, s.out, s.unsent, s.buckets, rfl⟩

theorem onlyCounts_modStack (s : State) (k : Nat) (f : Stack → Stack) : OnlyCounts s (s.modStack k f) :=
  ⟨s.memory, _, s.spares, s.sec, s.fns, s.out, s.unsent, s.buckets, rfl⟩

/-- A die trigger (20 R471). -/
theorem onlyCounts_dieTrigger (s : State) (k die : Nat) : OnlyCounts s (s.dieTrigger k die) := by
  unfold State.dieTrigger
  split
  · exact onlyCounts_trans (onlyCounts_modStack s k _) (onlyCounts_trans (onlyCounts_mapChange _ _ _) (onlyCounts_logWear _ _ _ _ _))
  · split
    · exact onlyCounts_refl s
    · exact onlyCounts_trans (onlyCounts_mapChange s _ _) (onlyCounts_logWear _ _ _ _ _)

/-- A counted correction (14 R353, R354) changes no line. -/
theorem onlyCounts_corrected (s : State) (pln : Nat) : OnlyCounts s (s.corrected pln) := by
  have first := onlyCounts_trans (onlyCounts_noteRecent s (2 ^ 30 + pln / 16)) (onlyCounts_modCe _ (channelOf pln)
    (fun x => { x with bucket := satAdd 1023 x.bucket 1, corrected := satAdd 0xFFFFFFFF x.corrected 1 }))
  unfold State.corrected
  dsimp only
  split
  · have second := onlyCounts_trans first (onlyCounts_trans (onlyCounts_modCe _ (channelOf pln) (fun x => { x with above := true }))
      (onlyCounts_trans (onlyCounts_noteRecent _ (channelOf pln)) (onlyCounts_trans (onlyCounts_host (onlyHost_post _ 0 5 1 (channelOf pln) pln))
        (onlyCounts_logWear _ 13 (channelOf pln) 0 pln))))
    split
    · exact onlyCounts_trans second (onlyCounts_dieTrigger _ _ _)
    · exact second
  · exact first

theorem corrected_mem (s : State) (pln : Nat) : (s.corrected pln).mem = s.mem := onlyCounts_mem (onlyCounts_corrected s pln)

/-! ### A read of a line, and what a bad one sets off -/

/-- What a checked read may touch: the line itself (its form kept), the error records, the counts and repairs, the records, the
packets that ask for a line, a line's interrupt, and for a line of a firmware-owned region the job fault that is due and a free
choice; never a register, a cluster, an engine or the queue. -/
def OnlyRead (s t : State) : Prop :=
  (Memory.wf blankByte s.mem = true → Memory.wf blankByte t.mem = true) ∧
    ∃ d m a b c f o u k l i p n, t =
      { s with mem := d, memory := m, stackTab := a, spares := b, sec := c, fns := f, out := o, unsent := u, buckets := k, links := l, intr := i,
               parts := p, free := n }

theorem onlyRead_trans {s t u : State} (h : OnlyRead s t) (k : OnlyRead t u) : OnlyRead s u := by
  obtain ⟨hw, _, _, _, _, _, _, _, _, _, _, _, _, _, rfl⟩ := h
  obtain ⟨kw, _, _, _, _, _, _, _, _, _, _, _, _, _, rfl⟩ := k
  exact ⟨fun w => kw (hw w), _, _, _, _, _, _, _, _, _, _, _, _, _, rfl⟩

theorem onlyRead_counts {s t : State} (h : OnlyCounts s t) : OnlyRead s t := by
  obtain ⟨m, a, b, c, f, o, u, k, rfl⟩ := h
  exact ⟨id, s.mem, m, a, b, c, f, o, u, k, s.links, s.intr, s.parts, s.free, rfl⟩

theorem onlyRead_refl (s : State) : OnlyRead s s := onlyRead_counts (onlyCounts_refl s)

theorem onlyRead_host {s t : State} (h : OnlyHost s t) : OnlyRead s t := onlyRead_counts (onlyCounts_host h)

theorem onlyRead_setStored (s : State) (pln : Nat) (bs : List Byte) : OnlyRead s (s.setStored pln bs) :=
  ⟨setStored_wf s pln bs, _, s.memory, s.stackTab, s.spares, s.sec, s.fns, s.out, s.unsent, s.buckets, s.links, s.intr, s.parts, s.free,
    rfl⟩

theorem onlyRead_writeLine (s : State) (pln : Nat) (x : Line) : OnlyRead s (s.writeLine pln x) := by
  have w := writeLine_wf s pln x
  obtain ⟨m, h⟩ := writeLine_only s pln x
  rw [h] at w ⊢
  exact ⟨w, m, s.memory, s.stackTab, s.spares, s.sec, s.fns, s.out, s.unsent, s.buckets, s.links, s.intr, s.parts, s.free,
    rfl⟩

theorem onlyRead_memory (s : State) (m : Machine.Memory) : OnlyRead s { s with memory := m } :=
  ⟨id, s.mem, m, s.stackTab, s.spares, s.sec, s.fns, s.out, s.unsent, s.buckets, s.links, s.intr, s.parts, s.free, rfl⟩

theorem onlyRead_links (s : State) (l : Links) : OnlyRead s { s with links := l } :=
  ⟨id, s.mem, s.memory, s.stackTab, s.spares, s.sec, s.fns, s.out, s.unsent, s.buckets, l, s.intr, s.parts, s.free, rfl⟩

theorem onlyRead_latch (s : State) (n : Nat) : OnlyRead s (s.latch n) :=
  ⟨id, s.mem, s.memory, s.stackTab, s.spares, s.sec, s.fns, s.out, s.unsent, s.buckets, s.links, _, s.parts, s.free, rfl⟩

theorem onlyRead_useFree (s : State) : OnlyRead s s.useFree :=
  ⟨id, s.mem, s.memory, s.stackTab, s.spares, s.sec, s.fns, s.out, s.unsent, s.buckets, s.links, s.intr, s.parts, _, rfl⟩

theorem onlyRead_modPart (s : State) (n : Nat) (f : Part → Part) : OnlyRead s (s.modPart n f) :=
  ⟨id, s.mem, s.memory, s.stackTab, s.spares, s.sec, s.fns, s.out, s.unsent, s.buckets, s.links, s.intr, _, s.free, rfl⟩

/-- A frame that leaves touches its session and the output (15 R384). -/
theorem onlyRead_sendFrame (s : State) (port d typ lc lines tag addr : Nat) (payload : List Line) :
    OnlyRead s (s.sendFrame port d typ lc lines tag addr payload) :=
  ⟨id, s.mem, s.memory, s.stackTab, s.spares, s.sec, s.fns, _, s.unsent, s.buckets, _, s.intr, s.parts, s.free, rfl⟩

/-- A packet that is sent, or waits, touches the links and the output (15 R378, R382). -/
theorem onlyRead_sendPacket (s : State) (p d typ lines addr : Nat) (payload : List Line) (copy repair : Option Nat) :
    OnlyRead s (s.sendPacket p d typ lines addr payload copy repair) := by
  have first (n : BitVec 16) := onlyRead_links s { s.links with nextTag := n }
  unfold State.sendPacket
  dsimp only
  split
  · split
    · exact onlyRead_trans (first _) (onlyRead_trans (onlyRead_sendFrame _ _ _ _ _ _ _ _ _) (onlyRead_links _ _))
    · exact onlyRead_trans (first _) (onlyRead_links _ _)
  · exact onlyRead_trans (first _) (onlyRead_links _ _)

theorem onlyRead_repairHost (s : State) (pln n : Nat) (c : W64) : OnlyRead s (s.repairHost pln n c) := by
  unfold State.repairHost
  dsimp only
  split
  · exact onlyRead_trans (onlyRead_memory s _) (onlyRead_host (onlyHost_hostRead _ _ _ _))
  · exact onlyRead_memory s _

/-- A line queued for repair asks its peer or the host (14 R359, R360). -/
theorem onlyRead_queueRepair (s : State) (pln n p : Nat) : OnlyRead s (s.queueRepair pln n p) := by
  unfold State.queueRepair
  dsimp only
  split
  · exact onlyRead_refl s
  · split
    · exact onlyRead_memory s _
    · split
      · exact onlyRead_trans (onlyRead_memory s _) (onlyRead_sendPacket _ _ _ _ _ _ _ _ _)
      · exact onlyRead_trans (onlyRead_memory s _) (onlyRead_repairHost _ _ _ _)

/-- What follows for a bad line of a firmware-owned region (14 R356). -/
theorem onlyRead_badFirmwareLine (s : State) (r : Region) (pln : Nat) : OnlyRead s (s.badFirmwareLine r pln) := by
  unfold State.badFirmwareLine
  split
  · exact onlyRead_modPart s _ _
  · split
    · exact onlyRead_trans (onlyRead_useFree s) (onlyRead_setStored _ _ _)
    · exact onlyRead_trans (onlyRead_useFree s) (onlyRead_memory _ _)

/-- A line found bad (14 R354 to R356, R359, R362). -/
theorem onlyRead_badLine (s : State) (source pln partition : Nat) (sealBad merge : Bool) :
    OnlyRead s (s.badLine source pln partition sealBad merge) := by
  have first (u : Ce → Ce) (v c n : Nat) := onlyRead_trans (onlyRead_counts (onlyCounts_modCe s (channelOf pln) u))
    (onlyRead_trans (onlyRead_memory _ ((s.modCe (channelOf pln) u).recordError source v c pln partition).memory) (onlyRead_latch _ n))
  have second (u : State) (isPoison : Bool) (l : List Nat) (h : OnlyRead s u) :
      OnlyRead s (if isPoison then u else (u.setStored pln poisonLine).postTo l 5 2 (channelOf pln) pln) := by
    cases isPoison
    · exact onlyRead_trans h (onlyRead_trans (onlyRead_setStored _ _ _) (onlyRead_host (onlyHost_postTo _ _ _ _ _ _)))
    · exact h
  unfold State.badLine
  dsimp only
  split
  · exact first _ _ _ _
  · split
    · split
      · exact onlyRead_trans (second _ _ _ (first _ _ _ _)) (onlyRead_badFirmwareLine _ _ _)
      · split
        · exact onlyRead_trans (second _ _ _ (first _ _ _ _)) (onlyRead_queueRepair _ _ _ _)
        · exact second _ _ _ (first _ _ _ _)
    · exact second _ _ _ (first _ _ _ _)

/-- A checked read (05 R138) keeps the canonical form and touches no unit. -/
theorem onlyRead_readLineFor (s : State) (source pln partition : Nat) (merge : Bool) :
    OnlyRead s (s.readLineFor source pln partition merge).1 := by
  unfold State.readLineFor
  dsimp only
  repeat' split
  all_goals first
    | exact onlyRead_refl s
    | exact onlyRead_badLine _ _ _ _ _ _
    | exact onlyRead_trans (onlyRead_setStored s pln _) (onlyRead_counts (onlyCounts_corrected _ _))

theorem onlyRead_readLine (s : State) (source pln partition : Nat) : OnlyRead s (s.readLine source pln partition).1 :=
  onlyRead_readLineFor s source pln partition false

/-- A merged write (05 R139) keeps the canonical form and touches no unit. -/
theorem onlyRead_mergeLine (s : State) (source pln partition pos len v : Nat) : OnlyRead s (s.mergeLine source pln partition pos len v).1 := by
  have r := onlyRead_readLineFor s source pln partition true
  unfold State.mergeLine
  split
  · exact onlyRead_writeLine _ _ _
  · split
    · rename_i t l h
      rw [h] at r
      exact onlyRead_trans r (onlyRead_writeLine _ _ _)
    · rename_i t h
      rw [h] at r
      exact r

end Sys2Proof.Laws
end

