-- ==== Sys2Proof/Laws/Replay.lean ====
section
/-! SUPPORT. What the shared operations of the round do in a partition that does not replay (19 R460): a statement with that
premise cites these and unfolds nothing of the replay. -/

namespace Sys2Proof.Laws

open Sys2Proof.Machine

theorem replayGuard_live (s t : State) (p : Nat) (h : s.replaying p = false) : s.replayGuard t p = t := by
  simp [State.replayGuard, h]

theorem replayGuard_going (s t : State) (p : Nat) (h : (t.part p).journal.replay ≠ 3) : s.replayGuard t p = t := by
  simp [State.replayGuard, h]

theorem roundNow_live (s : State) (p : Nat) (h : s.replaying p = false) : s.roundNow p = s.time.now := by
  simp [State.roundNow, h]

theorem journalTime_live (s : State) (p purpose : Nat) (h : s.replaying p = false) :
    s.journalTime p purpose = s.journal p 0x06 (toBytes 1 purpose ++ toBytes 7 0 ++ toBytes 8 s.nowNat) := by
  simp [State.journalTime, State.roundNow, State.nowNat, h]

theorem journalHappening_live (s : State) (p what cause : Nat) (h : s.replaying p = false) :
    s.journalHappening p what cause = s.journal p 0x0A (toBytes 1 what ++ toBytes 3 0 ++ toBytes 4 cause) := by
  simp [State.journalHappening, h]

theorem checkStep_live (s : State) (p : Nat) (h : s.replaying p = false) : s.checkStep p = s := by
  simp [State.checkStep, h]

theorem buildSheet_live (s : State) (p : Nat) (h : s.replaying p = false) : s.buildSheet p = s.composeSheet p := by
  simp [State.buildSheet, h]

end Sys2Proof.Laws
end

