-- ==== Sys2Proof/WellFormed.lean ====
section
/-! DEFINITION. Well-formed commands: the ranges of the operands that the types do not already bound. The command's
effect is defined on every operand; the checks name what a sender of the spec can send. -/

namespace Sys2Proof

/-- A byte string of at most n bytes. -/
def shortBytes (n : Nat) (l : Option (List Byte)) : Bool :=
  match l with
  | none => true
  | some b => decide (b.length ≤ n)

/-- A physical cluster index list within one module. -/
def clustersBelow (l : List Nat) : Bool := l.all (fun c => decide (c < 1280))

/-- A command packet of 2 to 18 words (05 R149). -/
def Packet.wf (pk : Packet) : Bool := decide (pk.payload.length ≤ 16)

/-- A frame of at most four payload lines (15 R380). -/
def Frame.wf (fr : Frame) : Bool := decide (fr.payload.length ≤ 4)

/-- The well-formedness of a command. -/
def Instr.wf : Instr → Bool
  | .jobStart _ _ image _ => shortBytes 1048576 image
  | .writeCr _ _ pk => pk.wf
  | .start _ _ pk => pk.wf
  | .suspend _ _ pk => pk.wf
  | .resume _ _ pk => pk.wf
  | .abort _ _ pk => pk.wf
  | .status _ _ pk => pk.wf
  | .mergeOpen _ _ pk => pk.wf
  | .blank _ _ pk _ _ => pk.wf
  | .sieve _ _ pk _ _ => pk.wf
  | .level _ _ pk => pk.wf
  | .pattern _ _ pk _ failing => pk.wf && failing.all (fun p => decide (p < 2 ^ 34))
  | .diemap _ _ pk => pk.wf
  | .write _ fr => fr.wf
  | .read _ fr => fr.wf
  | .data _ fr => fr.wf
  | .atomic _ fr => fr.wf
  | .ack _ fr => fr.wf
  | .nak _ fr => fr.wf
  | .repair _ fr => fr.wf
  | .coll _ fr => fr.wf
  | .event _ fr => fr.wf
  | .session _ fr _ => fr.wf
  | .promptFetchComplete _ _ toks =>
    match toks with
    | none => true
    | some t => decide (t.length ≤ 1048575)
  | .descriptorFetchComplete _ _ got =>
    match got with
    | none => true
    | some l => decide (l.length ≤ 65536)
  | .commit _ outs _ => decide (outs.length ≤ 16384) && outs.all (fun o => decide (o.accepted ≤ 7))
  | .partitionCommandComplete failing => clustersBelow failing
  | .clusterRetest failing => clustersBelow failing
  | .boot r => clustersBelow r.failedClusters && r.failedSensors.all (fun n => decide (n < 272))
  | .getCertificate slot => decide (slot < 8)
  | .layerPacketsSend _ layer _ => decide (layer < 256)
  | _ => true

end Sys2Proof
end

