-- ==== Sys2Proof/Tests/Slice0.lean ====
section
/-! SUPPORT. Tests: decoders of fields beside the spec's tables, single steps, refused ill-formed commands, and for every statement a
concrete state and operands that meet its premises. -/

namespace Sys2Proof.Tests

open Sys2Proof Sys2Proof.Machine

set_option maxRecDepth 20000

/-! ### Helpers -/

/-- A running module whose firmware is up, 5,000 s after its time base started, with eight virtual functions. -/
def tOn : State :=
  { State.reset with
    module := { Module.reset with electrical := .running, stage := 4, numVfs := 8, vfEnable := true },
    time := { TimeBase.reset with running := true, mode := .locked, now := 5000000000000#64 } }

/-- The partition of the tests: ready, share 0, channel groups 0 to 7 of stack 0, port 0, two jobs, eight sequences. -/
def tPart : Part :=
  { Part.reset with
    mode := .ready,
    applied := { shares := 1, groups := 0xFF, ports := 1, repro := false, roundCfg := 0, spill := true, confidential := false, pool := 0,
                 roundEntries := 8, maxJobs := 2 } }

/-- The running module with partition 0 and 312 clusters in service in quarter 0. -/
def tReady (x : Part) : State :=
  { tOn with parts := [(0, x)], quarters := [(0, { inService := 312, qbuf := [], cores := 0xF, restStep := 0 })] }

/-- The module with partition 0 ready and a state of cluster 0. -/
def tCl (x : Cluster) : State := { tReady tPart with clusters := [(0, x)] }

/-- A cluster that runs job 1 of partition 0. -/
def tJobCl : Cluster := { Cluster.reset with job := some (0, 1) }

/-- A queue entry of an opcode. -/
def tE (op : Nat) (ops : List W32) (shapes : List W64) : QEntry := { pc := 7, bits := BitVec.ofNat 96 op, ops := ops, shapes := shapes }

/-- A shape of one row and one unit in BF16 (03 R63: rows 1, stride 1, units 1, format 5). -/
def tShape : W64 := BitVec.ofNat 64 (1 + 1 * 2 ^ 12 + 1 * 2 ^ 26)

/-- Cluster 0 with one entry in the vector, matrix, load or store queue. -/
def tVec (op : Nat) : State := tCl { tJobCl with arch := { Arch.reset with vq := [tE op [0] [tShape, tShape]] } }
def tMat (op : Nat) : State := tCl { tJobCl with arch := { Arch.reset with mq := [tE op [0] [tShape, tShape]] } }
def tLd (op : Nat) (ops : List W32) : State := tCl { tJobCl with arch := { Arch.reset with lq := [tE op ops [tShape]] } }
def tSt (op : Nat) (ops : List W32) : State := tCl { tJobCl with arch := { Arch.reset with sq := [tE op ops [tShape]] } }

/-- A protected region of 64 MiB at address 0, of partition 0, in channel group 0 of stack 0, ready (05 R142). -/
def tReg : Region := { w0 := BitVec.ofNat 64 (1 + 2 * 2 ^ 1 + 2 ^ 38), w1 := BitVec.ofNat 64 (2 ^ 4) }

/-- A state with that region as entry 1. -/
def tMem (s : State) : State := { s with memory := { s.memory with regions := [(1, tReg)] } }

/-- A BF16 tensor of 32 elements at address 0 (10 R282), rank 1. -/
def tDesc : Line :=
  BitVec.ofNat 512 (1 * 2 ^ 66 + 32 * 2 ^ 128 + ((List.range 5).map (fun i => 2 ^ (160 + 32 * i))).sum)

def tTensor : Tensor := { desc := tDesc, group := 0, destroying := none }

/-- The ready partition with that tensor as entry 0. -/
def tPartT : Part := { tPart with tensors := [(0, { generation := 0, tensor := some tTensor })] }

/-- The ready partition with a program tensor: rank 1, INT8, 64 bytes at address 0, in device memory. -/
def tImage : Tensor := { desc := BitVec.ofNat 512 (2 ^ 66 + 7 * 2 ^ 72 + 64 * 2 ^ 128), group := 0, destroying := none }

/-- Function 1 with ring 0 of a type on, sixteen entries, and one fetched descriptor. -/
def tRing (s : State) (typ : Nat) (d : Line) : State :=
  { s with
    regs := [(0x1020108, BitVec.ofNat 64 (typ + 8 * 4))],
    fns := [(1, { Fn.reset with enable := 1, rings := [(0, { Ring.reset with fetched := [d] })] })] }

/-- A job of partition 0. -/
def tJob (st : JobState) (queue : Nat) (cs : List Nat) : Job :=
  { num := 1, jobId := 9, queue := queue, fn := 1, ring := 0, desc := BitVec.ofNat 512 0x10, state := st,
    shares := if st = .waiting then [] else [0], clusters := cs, startedAt := 0, area := [], slot := 0 }

/-! ### Kloxa -/

theorem wit_bundleFetch : ((tCl tJobCl).cluster 0).live = true ∧ ((tCl tJobCl).cluster 0).halting = false ∧
    ((tCl tJobCl).cluster 0).halted = false ∧ ((tCl tJobCl).cluster 0).fetchQ.length < 8 ∧
    ((tCl tJobCl).cluster 0).arch.pc.toNat + 0 < 16384 ∧
    ((tCl tJobCl).cluster 0).arch.past = false ∧
    (let s := tCl { tJobCl with fetchQ := [0], arch := { Arch.reset with pc := 16383 } }
     (s.cluster 0).live = true ∧ 16384 ≤ (s.cluster 0).arch.pc.toNat + (s.cluster 0).fetchQ.length) ∧
    (let s := tCl { tJobCl with arch := { Arch.reset with past := true } }
     (s.cluster 0).live = true ∧ (s.cluster 0).arch.past = true) := by decide

/-- A bundle of version 1 (03 R72) whose scalar slot is s3 := s1 + 5 (03 R77: opcode 0x01 with an immediate). -/
def tBundle : Line := BitVec.ofNat 512 (1 + (0x01 + 3 * 2 ^ 8 + 1 * 2 ^ 13 + 2 ^ 23 + 5 * 2 ^ 24) * 2 ^ 32)

def tIssue : State := tCl { tJobCl with fetchQ := [tBundle], arch := { Arch.reset with s := [(1, 9)] } }

theorem wit_bundleIssue : (tIssue.cluster 0).job = some (0, 1) ∧ (tIssue.cluster 0).fetchQ = [tBundle] ∧
    (tIssue.cluster 0).canIssue = true ∧ (List.range 7).any (illegalSlot tBundle) = false ∧
    (tIssue.cluster 0).arch.predicate tBundle = true ∧ syncBits tBundle = 0 ∧ (tIssue.cluster 0).arch.room tBundle = true ∧
    (tIssue.cluster 0).arch.issueFault tBundle = none ∧ 1 ≤ sOp (scalarBits tBundle) ∧ sOp (scalarBits tBundle) ≤ 0x16 := by decide

theorem test_bundleIssue_adds : ∃ t, exec (.bundleIssue 0) tIssue = .next t ∧
    ((t.cluster 0).arch.sreg 3 = 14 ∧ (t.cluster 0).arch.pc = 1) := ⟨_, rfl, by decide⟩

/-- A bundle of version 1 with a header's other bits, a scalar slot, a vector slot and a sync slot (03 R57, R76, R91). -/
def tB (head scalar vec sync : Nat) : Line := BitVec.ofNat 512 (1 + head + scalar * 2 ^ 32 + vec * 2 ^ 96 + sync * 2 ^ 480)

/-- Cluster 0 with a bundle to issue and a preemption request. -/
def tIs (b : Line) (a : Arch) : State := tCl { tJobCl with fetchQ := [b, 0], arch := a, preempt := some 0 }

/-- The conditions of an issue, in the order in which they are met: legal, condition, wait, room, no fault of a register. -/
def tConds (s : State) (b : Line) : List Bool :=
  let o := (s.cluster 0).arch
  [!(List.range 7).any (illegalSlot b), o.predicate b, o.waitHolds (yField (syncBits b)), o.room b, (o.issueFault b).isNone]

def tTake : Nat := 1 + 2 * 2 ^ 6
def tFullQ : Arch := { Arch.reset with vq := List.replicate 4 (tE 0 [] []) }

theorem wit_bundleIssue_stays :
    tConds (tIs (tB 0 0xFF 0 0) Arch.reset) (tB 0 0xFF 0 0) = [false, true, true, true, false] ∧
    tConds (tIs (tB 0 (0x23 + 2 ^ 24) 0 0) Arch.reset) (tB 0 (0x23 + 2 ^ 24) 0 0) = [true, true, true, true, false] ∧
    tConds (tIs (tB 0x20 0 0 0) Arch.reset) (tB 0x20 0 0 0) = [true, false, true, true, true] ∧
    tConds (tIs (tB 0 0 0 tTake) Arch.reset) (tB 0 0 0 tTake) = [true, true, false, true, true] ∧
    tConds (tIs (tB 0 0 (2 * 2 ^ 6) 0) tFullQ) (tB 0 0 (2 * 2 ^ 6) 0) = [true, true, true, false, true] := by decide

theorem wit_bundleIssue_forms :
    [(tB 0 (0x38 + 3 * 2 ^ 24) 0 0), (tB 0 0x3F 0 0), (tB 0 (0x28 + 4 * 2 ^ 8 + 2 * 2 ^ 13) 0 0), (tB 0 (0x30 + 2 ^ 56) 0 0),
      (tB 0 0 0 (4 + 2 ^ 27 * 2))].all (fun b => tConds (tIs b Arch.reset) b == [true, true, true, true, true]) = true ∧
    tConds (tIs (tB 0 0 0 tTake) { Arch.reset with f := 1 }) (tB 0 0 0 tTake) = [true, true, true, true, true] := by decide

theorem test_bundleIssue_jumps : ∃ t, exec (.bundleIssue 0) (tIs (tB 0x10 (0x3C + 2 * 2 ^ 13) 0 0) { Arch.reset with s := [(2, 16385)] }) = .next t ∧
    ((t.cluster 0).arch.pc = 1 ∧ (t.cluster 0).arch.past = true ∧ (t.cluster 0).fetchQ = [] ∧ (t.cluster 0).stopped = true) :=
  ⟨_, rfl, by decide⟩

theorem test_bundleIssue_fence : ∃ t, exec (.bundleIssue 0) (tIs (tB 0 0 0 (4 + 2 ^ 27 * 2)) Arch.reset) = .next t ∧
    ((t.cluster 0).fence = some { scope := 2, mode := 2, field := 0, pc := 0 } ∧ (t.cluster 0).fetchQ = []) := ⟨_, rfl, by decide⟩

def tLoad : State :=
  tMem (tCl { tJobCl with load := some { op := 0x28, d := 4, addr := 8, b := 0, cmp := 0, scope := 1, pc := 7 },
                          cache := [(0, BitVec.ofNat 512 (0xAB * 2 ^ 64))] })

theorem wit_scalarLoadReturn : (tLoad.cluster 0).load = some { op := 0x28, d := 4, addr := 8, b := 0, cmp := 0, scope := 1, pc := 7 } ∧
    tLoad.partOf 0 = some 0 ∧ tLoad.translate 0 8 = some (1, 0) ∧
    (tLoad.cluster 0).cache.find? (fun e => e.1 == lineNo 8) = some (0, BitVec.ofNat 512 (0xAB * 2 ^ 64)) := by decide

/-- The same access with nothing in the cache, and an atomic add of 3 to the word. -/
def tMiss (op : Nat) : State :=
  tMem (tCl { tJobCl with load := some { op := op, d := 4, addr := 8, b := 3, cmp := 0, scope := 1, pc := 7 } })

theorem wit_scalarLoad_miss : ∀ op, op ∈ [0x28, 0x30] → (tMiss op).partOf 0 = some 0 ∧ (tMiss op).translate 0 8 = some (1, 0) ∧
    ((tMiss op).cluster 0).cache.find? (fun e => e.1 == lineNo 8) = none ∧ ((tMiss op).readLine (ctlOf 0) 0 0).2 = some 0 ∧
    ((tMiss op).region 1).locked = false ∧ ((tMiss op).region 1).owner = 0 ∧ (tMiss op).tooNarrow 0 0 1 = false := by decide

theorem test_atomic_adds : ∃ t, exec (.scalarLoadReturn 0) (tMiss 0x30) = .next t ∧
    ((t.cluster 0).arch.sreg 4 = 0 ∧ (t.readLine (ctlOf 0) 0 0).2 = some (3 * 2 ^ 64)) := ⟨_, rfl, by decide⟩

theorem test_scalarLoad_word : ∃ t, exec (.scalarLoadReturn 0) tLoad = .next t ∧ (t.cluster 0).arch.sreg 4 = 0xAB :=
  ⟨_, rfl, by decide⟩

def tFence : State := tCl { tJobCl with fence := some { scope := 2, mode := 1, field := 0, pc := 7 }, cache := [(0, 1)], inbox := [0] }

theorem wit_fenceComplete_remoteSignal : (tFence.cluster 0).fence = some { scope := 2, mode := 1, field := 0, pc := 7 } ∧
    (tFence.cluster 0).running = [] ∧ (tFence.cluster 0).load = none ∧
    (∀ k, k ∈ [1, 2, 3, 4] → (tFence.cluster 0).arch.queue k = []) ∧
    ((tFence.cluster 0).arch.signal 0).isSome = true ∧ (tFence.cluster 0).inbox = [0] := by decide

/-- Scalar accesses that end in a fault, and an atomic of cluster scope whose line another cluster loads. -/
def tAcc (op addr : Nat) : State := tMem (tCl { tJobCl with load := some { op := op, d := 4, addr := addr, b := 3, cmp := 0, scope := 0, pc := 7 } })
def tRace : State :=
  (tAcc 0x30 8).modCluster 1 (fun _ => { tJobCl with load := some { op := 0x28, d := 4, addr := 12, b := 0, cmp := 0, scope := 0, pc := 7 } })

theorem wit_scalarLoad_faults : (tAcc 0x28 9).partOf 0 = some 0 ∧ (tAcc 0x28 (2 ^ 39)).translate 0 (2 ^ 39) = none ∧
    (tAcc 0x30 8).translate 0 8 = some (1, 0) ∧
    (((tAcc 0x30 8).modRegion 1 (fun r => { r with w0 := setFld r.w0 14 12 3 })).region 1).owner = 3 ∧
    (tRace.readLine (ctlOf 0) 0 0).2 = some 0 ∧ (tRace.region 1).owner = 0 ∧ tRace.tooNarrow 0 0 0 = true ∧
    (((tAcc 0x28 8).setStored 0 poisonLine).readLine (ctlOf 0) 0 0).2 = none := by decide

theorem test_scalarLoad_unaligned : ∃ t, exec (.scalarLoadReturn 0) (tAcc 0x28 9) = .next t ∧
    ((t.cluster 0).faults = [⟨0x08, 7, 0, none⟩] ∧ (t.cluster 0).load = none) := ⟨_, rfl, by decide⟩

theorem wit_marker_longOp : ((tVec 0).cluster 0).startable .lane = some (tE 0 [0] [tShape, tShape], []) ∧
    ((tVec 0).cluster 0).running = [] ∧
    (((((tVec 0).cluster 0).arch.setQueue 1 []).take (slotWait (tE 0 [0] [tShape, tShape]).bits)).signal
      (slotSig (tE 0 [0] [tShape, tShape]).bits)).isSome = true := by decide

def tRun : Running :=
  { pipe := .lane, slot := 1, pc := 7, sig := 0, tile := 2, isMarker := false, writes := [.vec 3 (List.replicate 64 5)], err := none,
    handle := none }

theorem wit_longOpComplete : (let s := tCl { tJobCl with running := [tRun] }
    (s.cluster 0).running = [tRun] ∧ (List.replicate 64 (5 : W32)).length = 64 ∧
      (((s.cluster 0).arch.setV 3 (List.replicate 64 5)).signal 0).isSome = true) := by decide

/-- A load in progress that sets flag 0, and a marker behind it that clears it (03 R65, R71). -/
def tRunLd : Running := { tRun with pipe := .load, slot := 3, sig := 1 }
def tMark : Running := { tRun with pipe := .load, slot := 3, sig := 2, isMarker := true, writes := [] }

theorem wit_markerBehind : (let s := tCl { tJobCl with running := [tRunLd], arch := { Arch.reset with lq := [tE 0 [] []] } }
    (s.cluster 0).startable .load = some (tE 0 [] [], []) ∧ slotOp (tE 0 [] []).bits = 0) ∧
    (let a := Arch.reset.setV 3 (List.replicate 64 5)
     a.signalFails [1, 2] 1 = false ∧ a.signalFails [1, 2] 2 = false) := by decide

theorem test_markerBehind_setWins : ∃ t, exec (.longOpComplete 0 .load) (tCl { tJobCl with running := [tRunLd, tMark] }) = .next t ∧
    ((t.cluster 0).arch.f = 1 ∧ (t.cluster 0).running = []) := ⟨_, rfl, by decide⟩

theorem wit_longOp_forms : (Arch.reset.setSp 64 [7]).signal 0 = some (Arch.reset.setSp 64 [7]) ∧ Arch.reset.signal 0 = some Arch.reset ∧
    ((tCl { tJobCl with running := [{ tRunLd with writes := [], err := some 5 }] }).cluster 0).running =
      [{ tRunLd with writes := [], err := some 5 }] := by decide

theorem test_longOp_error : ∃ t, exec (.longOpComplete 0 .load) (tCl { tJobCl with running := [{ tRunLd with writes := [], err := some 5 }] }) =
    .next t ∧ ((t.cluster 0).faults = [⟨0x0C, 7, 3, some 5⟩] ∧ (t.cluster 0).arch.f = 0) := ⟨_, rfl, by decide⟩

theorem wit_vectorOps : ∀ o, o ∈ [(0x04, Pipe.lane), (0x05, .lane), (0x06, .lane), (0x07, .trans), (0x08, .trans), (0x09, .trans), (0x03, .lane),
      (0x01, .lane), (0x02, .lane), (0x18, .lane), (0x10, .lane), (0x11, .lane), (0x17, .trans), (0x14, .lane), (0x15, .lane), (0x16, .lane),
      (0x13, .trans), (0x12, .lane)] →
    ((tVec o.1).cluster 0).startable o.2 = some (tE o.1 [0] [tShape, tShape], []) ∧ slotOp (tE o.1 [0] [tShape, tShape]).bits = o.1 := by
  decide

/-- A scaled shape in E4M3 with its scale area at unit 8, and a wafer shape of the first rate (03 R61 to R63). -/
def tScaled : W64 := setFld (setFld (setFld tShape 37 34 3) 53 40 8) 54 54 1
def tWafer : W64 := setFld tShape 39 38 1

theorem wit_shapes : shWafer tScaled = 0 ∧ shScaled tScaled = true ∧ sameTile tScaled tScaled = true ∧ shWafer tWafer ≠ 0 ∧
    shScaled tWafer = false ∧ sameTile tWafer tWafer = true := by decide

theorem wit_tiles : sameTile tShape tShape = true ∧ sameTile tShape (setFld tShape 11 0 2) = false ∧ shWafer tShape = 0 ∧
    shScaled tShape = false := by decide

theorem wit_matrixOps : ∀ op, op ∈ [1, 2, 3, 4, 5, 6, 7, 8] →
    ((tMat op).cluster 0).startable .array = some (tE op [0] [tShape, tShape], []) ∧ slotOp (tE op [0] [tShape, tShape]).bits = op := by
  decide

theorem wit_mmd : ((tMat 0x10).cluster 0).startable .drain = some (tE 0x10 [0] [tShape, tShape], []) := by decide

theorem wit_ldQ_stQ : ((tLd 2 [0, 64]).cluster 0).startable .load = some (tE 2 [0, 64] [tShape], []) ∧
    (tLd 2 [0, 64]).inWindow 0 0 tShape 0 64 = true ∧ (tLd 2 [1, 64]).inWindow 0 0 tShape 1 64 = false ∧
    (tLd 2 [5242816, 64]).inWindow 0 0 tShape 5242816 64 = true ∧ (tLd 2 [5242880, 64]).inWindow 0 0 tShape 5242880 64 = false ∧
    ((tSt 2 [0, 64]).cluster 0).startable .store = some (tE 2 [0, 64] [tShape], []) ∧
    (tSt 2 [0, 64]).inWindow 0 0 tShape 0 64 = true ∧ (tLd 2 [0, 64]).jobPart 0 = 0 := by decide

/-- st.c of one row to the partition's first cluster. -/
def tStC : State := tSt 3 [0, 0, 1, 0]

theorem wit_stC : (tStC.cluster 0).startable .store = some (tE 3 [0, 0, 1, 0] [tShape], []) ∧ (tStC.cluster 0).job = some (0, 1) ∧
    sigOk (BitVec.ofNat 16 (fld (0 : W32) 15 0)) = true ∧ 16383 + (shRows tShape - 1) * shStride tShape + shUnits tShape ≤ 16384 ∧
    tStC.multicast 0 (0, 1) 0 1 = some [0] ∧ tStC.multicast 0 (0, 1) 0 2 = none ∧
    16384 < 16384 + (shRows tShape - 1) * shStride tShape + shUnits tShape ∧ fld (0x10000 : W32) 31 16 ≠ 0 ∧
    ((((tStC.cluster 0).arch.setQueue 4 []).take (slotWait (tE 3 [0, 0, 0, 0] [tShape]).bits)).signal
      (slotSig (tE 3 [0, 0, 0, 0] [tShape]).bits)).isSome = true := by decide

/-- Cluster 0 with an ld.t and an st.t of a shape from handle 0 of a partition. -/
def tTile (x : Part) (h : W64) : State :=
  { tMem (tReady x) with
    clusters := [(0, { tJobCl with arch := { Arch.reset with lq := [tE 1 [0, 0, 0, 0] [h]], sq := [tE 1 [0, 0, 0, 0] [h]] } })] }

/-- A scaled E4M3 tensor of 64 elements, its scales from unit 16 (10 R282, R283), and a wafer tensor of 256. -/
def tScaledTensor : Tensor :=
  { desc := tDesc + BitVec.ofNat 512 (3 * 2 ^ 72 + 2 ^ 78 + 32 * 2 ^ 128 + 16 * 2 ^ 480), group := 0, destroying := none }
def tWaferTensor : Tensor := { desc := tDesc + BitVec.ofNat 512 (2 ^ 76 + 224 * 2 ^ 128), group := 0, destroying := none }
def tPartOf (x : Tensor) : Part := { tPart with tensors := [(0, { generation := 0, tensor := some x })] }
def tWaferTile : W64 := setFld tWafer 33 26 4

theorem wit_ldT : ((tTile tPartT tShape).cluster 0).startable .load = some (tE 1 [0, 0, 0, 0] [tShape], []) ∧
    (tTile tPartT tShape).tensorAt 0 1 = none ∧ (tTile tPartT tShape).tileCheck 0 (tE 1 [0, 0, 0, 0] [tShape]) = .inl tTensor ∧
    ((tTile tPartT tShape).ldRows 0 tTensor 0 tShape 0 0 0 0 (List.range (shRows tShape))).2.2 = none ∧
    (tTile tPartT tShape).tileCheck 0 (tE 1 [0, 0, 1, 0] [tShape]) = .inr 0x07 := by decide

theorem wit_ldT_scaled : (let s := tTile (tPartOf tScaledTensor) tScaled
     s.tileCheck 0 (tE 1 [0, 0, 0, 0] [tScaled]) = .inl tScaledTensor ∧
     (s.ldRows 0 tScaledTensor 0 tScaled 0 0 0 0 (List.range (shRows tScaled))).2.2 = none ∧
     (s.readAddrs 0 ((tScaledTensor.finePairs 0 tScaled 0 0 0).map (·.2))).2.2 = none ∧
     (s.readAddrs 0 ((tScaledTensor.coarseAddrs 0 tScaled 0 0 0).map (fun w => w - w % 64))).2.2 = none ∧
     s.mayWrite 0 (tScaledTensor.tileLines 0 tScaled 0 0 0) = true) := by decide

/-- The same with the first line poisoned: the read of the tile meets it. -/
theorem wit_ldT_poison : (let s := (tTile tPartT tShape).setStored 0 poisonLine
     (s.ldRows 0 tTensor 0 tShape 0 0 0 0 (List.range (shRows tShape))).2.2 = some 0) := by decide

theorem wit_stT : ((tTile tPartT tShape).cluster 0).startable .store = some (tE 1 [0, 0, 0, 0] [tShape], []) ∧
    (tTile tPartT tShape).mayWrite 0 (tTensor.tileLines 0 tShape 0 0 0) = true ∧
    (let s := (tTile tPartT tShape).modRegion 1 (fun r => { r with w0 := r.w0 + 32 })
     s.tileCheck 0 (tE 1 [0, 0, 0, 0] [tShape]) = .inl tTensor ∧ s.mayWrite 0 (tTensor.tileLines 0 tShape 0 0 0) = false) ∧
    (let s := tTile (tPartOf tWaferTensor) tWaferTile
     s.tileCheck 0 (tE 1 [0, 0, 0, 0] [tWaferTile]) = .inl tWaferTensor ∧
     s.mayWrite 0 (tWaferTensor.tileLines 0 tWaferTile 0 0 0) = true) := by decide

/-! ### Jobs and regions -/

theorem wit_job : (let s := tRing (tReady tPart) 2 (BitVec.ofNat 512 0x10)
    (s.ring 1 0).fetched = [BitVec.ofNat 512 0x10] ∧ s.ringType 1 0 = 2 ∧ (s.part 0).mode = .ready ∧ (s.part 0).jobs = [] ∧
      s.badJob 0 (BitVec.ofNat 512 0x10) = false ∧ s.badJob 0 (BitVec.ofNat 512 0x310) = true) := by decide

/-- A model header of one layer, four heads (08 R225): the fields that start a serving job. -/
def tHeader : Line :=
  BitVec.ofNat 512 (1 + 4 * 2 ^ 16 + 1 * 2 ^ 24 + 64 * 2 ^ 32 + 256 * 2 ^ 64)

def tWaiting (queue : Nat) : State :=
  tMem (tReady { tPart with
    jobs := [tJob .waiting queue []], turn := if queue = 0 then [] else [(1, [0])], tensors := [(0, { generation := 0, tensor := some { tImage with desc := setFld tImage.desc 65 64 1 } })] })

/-- Refused starts: a tensor that is no image, and a bad program copy queue. -/
theorem wit_jobStart_refused : tTensor.isImage = false ∧ (tWaiting 1).works 0 = true ∧
    (let s := { tWaiting 1 with regs := [(0x60068, 0x2400)] }
     bitAt (s.partReg 0 0x68) 13 = true ∧ s.copyqOk 0 (s.partReg 0 0x68) = false) ∧
    ((tWaiting 1).imageOf 0 { tImage with desc := setFld tImage.desc 65 64 1 } none).2 = none := by decide

theorem wit_jobStart : ∀ q, q ∈ [0, 1] →
    (let s := tWaiting q
     s.job 0 1 = some (tJob .waiting q []) ∧ (s.liveJobs 0).length < (s.part 0).applied.maxJobs ∧
      (q = 1 → s.mayHold 0 (tJob .waiting q []) = true) ∧ s.sharesOf 0 = [0] ∧ s.heldShares 0 = [] ∧
      (∀ c, c ∈ s.clustersOf [0] → (s.cluster c).still = true) ∧ (s.clustersOf [0]).length = 25 ∧
      s.tensorAt 0 (jProgram (tJob .waiting q []).desc) = some { tImage with desc := setFld tImage.desc 65 64 1 } ∧
      ({ tImage with desc := setFld tImage.desc 65 64 1 } : Tensor).isImage = true ∧ bitAt (s.partReg 0 0x68) 13 = false ∧
      bitAt (s.partReg 0 0x70) 0 = false ∧ s.tensorAt 0 1 = none) := by decide

theorem wit_jobStart_serving : (let s := tWaiting 0
    let t := { s with parts := [(0, { s.part 0 with turn := [(1, [0])] })] }
    t.mayHold 0 (tJob .waiting 0 []) = true ∧ headerFault tHeader = none ∧ headerFault 0 = some 0 ∧
      (t.imageOf 0 { tImage with desc := setFld tImage.desc 65 64 1 } (some [])).2 = some []) := by decide

/-- PART_REPLAY is set and the recorded journal has no entry. -/
theorem wit_jobStart_replay : (let s := { tWaiting 0 with regs := [(0x60070, 3)] }
    let t := { s with parts := [(0, { s.part 0 with turn := [(1, [0])] })] }
    t.mayHold 0 (tJob .waiting 0 []) = true ∧ (t.round 0).entries = [] ∧ bitAt (t.partReg 0 0x70) 0 = true ∧
      fld (t.partReg 0 0x80) 39 0 = 0 ∧ bitAt (t.partReg 0 0x68) 13 = false) := by decide

def tHalt : State :=
  { tReady { tPart with jobs := [tJob .running 1 [0, 1]] } with
    clusters := [(0, { tJobCl with halting := true }), (1, { tJobCl with halted := true })] }

theorem wit_clusterHalt : (tHalt.cluster 0).job = some (0, 1) ∧ tHalt.job 0 1 = some (tJob .running 1 [0, 1]) ∧
    (tHalt.cluster 0).halting = true ∧ (tHalt.cluster 0).running = [] ∧ (tHalt.cluster 0).faultRec = none ∧
    (∀ k, k ∈ [1, 2, 3, 4] → (tHalt.cluster 0).arch.queue k = []) ∧
    (∀ k, k ∈ (tJob .running 1 [0, 1]).clusters → k ≠ 0 → (tHalt.cluster k).halted = true) ∧
    (let s := { tHalt with clusters := [(0, { tJobCl with halting := true })] }
     ∃ k, k ∈ (tJob .running 1 [0, 1]).clusters ∧ k ≠ 0 ∧ (s.cluster k).halted = false) := by
  refine ⟨by decide, by decide, by decide, by decide, by decide, by decide, by decide, 1, by decide, by decide, by decide⟩

theorem test_last_cluster_halts_the_job : ∃ t, exec (.clusterHaltComplete 0) tHalt = .next t ∧ t.job 0 1 = none ∧
    (t.cluster 0).job = none := ⟨_, rfl, by decide⟩

theorem wit_yieldTimeout : (let s := tCl { tJobCl with preempt := some 4999999000000#64 }
    (s.cluster 0).preempt = some 4999999000000#64 ∧ (s.cluster 0).stopped = false ∧ 4999999000000 + 1000000 ≤ s.nowNat) := by decide

/-- A serving job with latency-critical work shuts out job 1, which runs. -/
def tStopping (st : JobState) (q : Nat) (cl : Cluster) : State :=
  { tReady { tPart with jobs := [tJob st q [0]] } with clusters := [(0, cl)] }

theorem wit_preempt_save_restore :
    (tStopping .running 1 tJobCl).mayHold 0 (tJob .running 1 [0]) = false ∧
    (tStopping .running 1 tJobCl).job 0 1 = some (tJob .running 1 [0]) ∧
    ((tStopping .stopping 1 { tJobCl with stopped := true }).cluster 0).saveable = true ∧
    (tStopping .stopping 1 { tJobCl with stopped := true }).runsOf 0 = [] ∧
    (tStopping .saving 1 { tJobCl with stopped := true }).job 0 1 = some (tJob .saving 1 [0]) ∧
    (let j := { tJob .saved 1 [0] with area := [{ cluster := 0, arch := Arch.reset, fence := none, halting := false, halted := false }] }
     let s := tReady { tPart with jobs := [j], turn := [(1, [0])] }
     s.job 0 1 = some j ∧ s.mayHold 0 j = true ∧ (∀ c, c ∈ j.clusters → (s.cluster c).still = true) ∧
       (j.area.map (·.cluster)).Nodup ∧ s.fwBad 0 (s.inArea 0 0) = none) := by decide

theorem wit_slice : (let s := tReady { tPart with faultDue := true }
    (s.part 0).mode = .ready ∧ (s.part 0).sliceAt.toNat + 100000 * (s.part 0).slice ≤ s.nowNat ∧ s.liveJobs 0 = [] ∧
      (s.part 0).faultDue = true ∧ s.inStep 0 = false) := by decide

/-- A job whose cluster holds the record of an illegal bundle. -/
theorem wit_jobFault : (let s := tStopping .running 1 { tJobCl with faults := [⟨0x01, 7, 0, none⟩] }
    s.job 0 1 = some (tJob .running 1 [0]) ∧ (tJob .running 1 [0]).live = true ∧
      (s.recordsOf (tJob .running 1 [0]) 1).find? (fun e => s.reachOf 0 (tJob .running 1 [0]) e.2 == 2) = some (0, ⟨0x01, 7, 0, none⟩)) := by
  decide

/-- The running module with RGN_CMD arguments of a region in group 0 of stack 0. -/
def tRgn (w0 : Nat) (r : Region) : State :=
  { tReady tPart with
    regs := [(0x41000, BitVec.ofNat 64 w0), (0x41008, BitVec.ofNat 64 (2 ^ 4))],
    memory := { Memory.reset with regions := [(1, r)] } }

theorem wit_regionCommands : (tRgn (2 ^ 38) Region.reset).firmwareUp = true ∧
    (tRgn (2 ^ 38) Region.reset).regionStatus 1 1 (BitVec.ofNat 64 (2 ^ 38)) 16 = 0 ∧
    (tRgn 0 Region.reset).regionStatus 1 1 0 16 = 3 ∧
    (∀ op, op ∈ [2, 3] → (tRgn 0 tReg).regionStatus 1 op 0 16 = 0) ∧
    (∀ op, op ∈ [2, 3, 4, 5] → (tRgn 0 Region.reset).regionStatus 1 op 0 16 = 2) ∧
    (let r : Region := { tReg with w0 := setFld (setFld tReg.w0 4 4 1) 5 5 1 }
     (tRgn 0 r).regionStatus 1 4 0 16 = 0 ∧ (tRgn 0 r).regionStatus 1 5 0 16 = 0) := by decide

theorem wit_regionCommandComplete : ∀ op, op ∈ [1, 2, 3, 4, 5] →
    (let c : RegionCmd := { index := 1, op := op, w0 := 0, w1 := 0 }
     let s := { tMem (tReady tPart) with memory := { Memory.reset with
       regions := [(1, tReg)], ctl := { busy := true, status := 0, index := 1, cmd := some c } } }
     s.memory.ctl.cmd = some c ∧ s.writesPending 1 = false ∧ (s.region 1).valid = true) := by decide


/-! ### Packets, merge slots, firmware packets -/

/-- A packet of a type, tag 5, for engine 0 (channel 0, pseudo-channel 0, bank group 0), library index 0. -/
def tPk (typ : Nat) (payload : List W64) : Packet :=
  { w0 := BitVec.ofNat 64 (typ + 5 * 2 ^ 8 + 2 ^ 32), w1 := BitVec.ofNat 64 payload.length, payload := payload }

/-- A library of one micro-program: two words from address 0, no address registers, the given code. -/
def tLib (code : List W64) : Library := { signer := 1, version := 1, entries := [(BitVec.ofNat 64 (2 * 2 ^ 9), 0)], code := code }

/-- The ready module with that library. -/
def tDarvy (code : List W64) (x : Engine) : State :=
  { tReady tPart with sec := { (tReady tPart).sec with library := some (tLib code) }, engines := [(0, x)] }

theorem wit_writeCr_start : (tPk 1 [7, 8]).typ = 1 ∧ (tDarvy [] Engine.reset).holdsPackets 0 (tPk 1 [7, 8]) = false ∧
    (tPk 1 [7, 8]).formOk 0 16 = true ∧ (tPk 1 [7, 8]).firstReg + (tPk 1 [7, 8]).count ≤ 16 ∧
    (tDarvy [] Engine.reset).foreign 0 (.partition 0) (tPk 1 [7, 8]) = false ∧
    (∀ e, e ∈ (tPk 1 [7, 8]).engines 0 → ((tDarvy [] Engine.reset).engine e).busy = false) ∧
    (tPk 2 [7]).typ = 2 ∧ (tDarvy [] Engine.reset).startRefusal 0 (.partition 0) (tPk 2 [7]) = none ∧
    (let s := tDarvy [] Engine.reset
     { s with sec := { s.sec with loading := true } }.holdsPackets 0 (tPk 1 []) = true) ∧
    (tDarvy [] Engine.reset).foreign 0 (.partition 1) (tPk 1 [7, 8]) = true := by decide

theorem test_start_queues_the_engine : ∃ t, exec (.start 0 (.partition 0) (tPk 2 [7])) (tDarvy [] Engine.reset) = .next t ∧
    (t.engine 0).mode = .queued ∧ (t.engine 0).creg 0 = 7 ∧ t.startQ 0 0 = [0] := ⟨_, rfl, by decide⟩

theorem test_start_of_a_running_engine_is_refused : ∃ t,
    exec (.start 0 (.partition 0) (tPk 2 [7])) (tDarvy [] { Engine.reset with mode := .running }) = .next t ∧
    (t.engine 0).creg 0 = 0 ∧ t.out = [.status 0 (.partition 0) 5 5 []] := ⟨_, rfl, by decide⟩

theorem wit_plainPackets : (∀ typ, typ ∈ [3, 4, 5, 6] → (tPk typ []).typ = typ ∧ (tPk typ []).formOk 0 0 = true) ∧
    (let s := tDarvy [] { Engine.reset with mode := .suspended }
     s.foreign 0 (.partition 0) (tPk 4 []) = false ∧
      (∀ c, c ∈ (tPk 4 []).channels → (s.engine (engineOf 0 c (tPk 4 []).pc (tPk 4 []).bg)).mode = .suspended →
        (s.startQ 0 (2 * c + (tPk 4 []).pc)).length < 8) ∧
      s.libEntry 0 = some (BitVec.ofNat 64 (2 * 2 ^ 9), 0) ∧
      s.addressesOk (.partition 0) 0 (BitVec.ofNat 64 (2 * 2 ^ 9), 0) (s.engine 0).c = true) := by decide

/-- MERGE_OPEN of slot 0 for one partial, result at 0 and count at 4160 (05 R158). -/
def tMerge : Packet := tPk 7 [BitVec.ofNat 64 (2 ^ 9), BitVec.ofNat 64 (4160 * 2 ^ 32), 0]

def tSlot : Slot :=
  { partition := 0, src := .partition 0, tag := 5, expected := 1, arrived := [(3, [[0, 0]])], folded := 0, acc := [], out := 0, count := 4160 }

theorem wit_merge : tMerge.typ = 7 ∧ (tReady tPart).openRefusal 0 (.partition 0) tMerge = none ∧
    (tReady tPart).openRefusal 0 (.partition 1) tMerge = some 8 ∧
    (let s := { tReady tPart with stackTab := [(0, { Stack.reset with slots := [(0, some tSlot)] })] }
     s.slot 0 0 = some tSlot ∧ tSlot.next (s.part 0).applied.repro = some 0 ∧ tSlot.arrived[0]? = some (3, [[0, 0]])) ∧
    tSlot.expected ≤ tSlot.folded + 1 ∧ ({ tSlot with expected := 64 } : Slot).folded + 1 < 64 := by decide

/-- Two partials of one row fold by the maximum (07 R204): with equal maxima the sums add. -/
theorem test_fold_adds_at_equal_maxima : foldPartial [[0x3F800000#32, 0x3F800000#32]] [[0x3F800000#32, 0x40000000#32]] =
    [[0x3F800000#32, 0x40400000#32]] := by decide

theorem wit_firmwarePackets : (∀ typ, typ ∈ [0x10, 0x11, 0x13, 0x14] → (tPk typ []).typ = typ ∧ (tPk typ []).formOk 0 16 = true) ∧
    (tPk 0x12 [4]).typ = 0x12 ∧ (tPk 0x12 [4]).formOk 1 1 = true ∧ ((tPk 0x12 [4]).payload.getD 0 0).toNat ≤ 4 ∧
    (let x : Spare := { Stack.reset.spare with state := 1, holding := true, replaced := 3 }
     let s := { tReady tPart with stackTab := [(0, { Stack.reset with spare := x })] }
     (s.stack 0).spare.state = 1 ∧ (s.stack 0).heldPackets = [] ∧
      (∀ e, e ∈ dieEngines 0 (s.stack 0).spare.replaced → (s.engine e).busy = false)) := by decide

/-- The refused forms: a WRITE_CR of 17 words, one of a busy engine, and a START that names a library entry that does not exist; a plain
packet with a payload, one of another partition, and a RESUME into a full start queue (05 R151). -/
theorem wit_refusedPackets : ((tPk 1 [7]).typ = 1 ∧ ¬ ((tPk 1 (List.replicate 17 0)).formOk 0 16 = true) ∧
    (∃ e, e ∈ (tPk 1 [7]).engines 0 ∧ ((tDarvy [] { Engine.reset with mode := .running }).engine e).busy = true) ∧
    (tReady tPart).startRefusal 0 (.partition 0) (tPk 2 [7]) = some 4) ∧
    (tPk 3 [1]).formOk 0 0 = false ∧ (tReady tPart).foreign 0 (.partition 1) (tPk 3 []) = true ∧
    packetTypes.contains (tPk 9 []).typ = false ∧
    (let s := { tDarvy [] { Engine.reset with mode := .suspended } with
                stackTab := [(0, { Stack.reset with starts := [(0, [1, 2, 3, 4, 5, 6, 7, 8])] })] }
     (s.engine 0).mode = .suspended ∧ ¬ (∀ c, c ∈ (tPk 4 []).channels →
       (s.engine (engineOf 0 c (tPk 4 []).pc (tPk 4 []).bg)).mode = .suspended →
       (s.startQ 0 (2 * c + (tPk 4 []).pc)).length < 8)) ∧
    (tPk 0x12 [5]).formOk 1 1 = true ∧ 4 < ((tPk 0x12 [5]).payload.getD 0 0).toNat ∧
    (tReady tPart).libEntry 0 = none := by decide

/-! ### Bank engines -/

/-- An instruction word by its fields (06 R171). -/
def dw (op d a b c u imm : Nat) : W64 :=
  BitVec.ofNat 64 (op + d * 2 ^ 6 + a * 2 ^ 10 + b * 2 ^ 14 + c * 2 ^ 18 + u * 2 ^ 27 + imm * 2 ^ 35)

/-- An engine that runs with its permit: x1 is 3, x2 is 2, x3 is 1. -/
def tRunning : Engine := { Engine.reset with mode := .running, permit := true, src := .partition 0, x := [(1, 3), (2, 2), (3, 1)] }

/-- The module whose engine 0 runs a library of one micro-program, in which command register 0 is an address register that may be written,
over a compute region of partition 0 (05 R142). -/
def tEng (w : W64) (x : Engine) : State :=
  { tDarvy [w, 0] x with
    sec := { (tReady tPart).sec with library := some { tLib [w, 0] with entries := [(BitVec.ofNat 64 (2 * 2 ^ 9 + 2 ^ 19 + 2 ^ 35), 0)] } },
    memory := { Memory.reset with regions := [(1, { tReg with w0 := setFld tReg.w0 3 3 1 })] } }

theorem wit_preload_permit : (let s := tEng 0 { Engine.reset with mode := .queued }
    (s.engine 0).preloaded = false ∧ (s.engine 0).failing = none ∧ s.libEntry (s.engine 0).index = some (BitVec.ofNat 64 (2 * 2 ^ 9 + 2 ^ 19 + 2 ^ 35), 0)) ∧
    (let s := { tEng 0 { Engine.reset with mode := .queued, preloaded := true } with stackTab := [(0, { Stack.reset with starts := [(0, [0])] })] }
     s.startQ 0 0 = [0] ∧ (s.engine 0).preloaded = true ∧ (s.engine 0).failing = none ∧ s.permitsHeld 0 < s.permitsOf 0) := by decide

theorem wit_refresh : ((tEng 0 Engine.reset).engine 0).mode ≠ .running ∧
    (let s := { tEng 0 tRunning with stackTab := [(0, { Stack.reset with debt := [(3, 8)], level := 2 })] }
     (s.engine 0).mode = .running ∧ s.debtFull 0 = true ∧ (s.engine 0).failing = none ∧ s.surplus 0 = false) ∧
    (let s := { tEng 0 tRunning with stackTab := [(0, { Stack.reset with debt := [(3, 8)], level := 0 })] }
     s.debtFull 0 = true ∧ s.surplus 0 = true) := by decide

theorem test_refresh_debt_stays_at_8 : ∃ t, exec (.refreshDue 3)
    { tEng 0 tRunning with stackTab := [(0, { Stack.reset with debt := [(3, 8)] })] } = .next t ∧ t.debtOf 3 = 8 := ⟨_, rfl, by decide⟩

/-- Words of the scalar instructions, each with its opcode (06 R172). -/
def scalarWords : List (Nat × W64) :=
  [(0x00, dw 0x00 0 0 0 0 0 0), (0x01, dw 0x01 4 0 0 0 0 0xFFFF), (0x02, dw 0x02 4 0 0 0 0 1), (0x03, dw 0x03 4 0 0 0 0 0x07C0),
   (0x04, dw 0x04 4 1 2 0 0 0xFFFF), (0x05, dw 0x05 4 1 2 0 0 1), (0x06, dw 0x06 4 1 0 0 0 31), (0x07, dw 0x07 4 1 0 0 0 31),
   (0x08, dw 0x08 0 3 0 0 0 0xFFFF), (0x08, dw 0x08 0 0 0 0 0 5), (0x09, dw 0x09 0 0 0 0 0 2), (0x0A, dw 0x0A 0 0 0 0 0 0xFFFF),
   (0x0D, dw 0x0D 4 1 2 0 0 0), (0x0E, dw 0x0E 4 1 0 0 0 0)]

theorem wit_engineScalars : ∀ o, o ∈ scalarWords →
    Issues (tEng o.2 tRunning) 0 9 o.2 ∧ dOp o.2 = o.1 ∧ ((tEng o.2 tRunning).engine 0).cr o.2 = some 0 := by decide

/-- The other clauses: GETC of command register 15 + 3; a slice that runs out, a full queue, and an over-current hold (06 R171, R173). -/
theorem wit_engineStalls : (let w := BitVec.ofNat 64 (0x03 + 4 * 2 ^ 6 + 15 * 2 ^ 18 + 2 ^ 22 + 1 * 2 ^ 23)
    Issues (tEng w tRunning) 0 1 w ∧ dOp w = 0x03 ∧ tRunning.cr w = none) ∧
    (let w := dw 0x0E 4 1 0 0 0 0
     (tEng w tRunning).canIssue 0 = true ∧ (tEng w tRunning).fetchAt 0 = .inl w ∧ 65536 ≤ tRunning.slice + 65536 ∧
      (let x := { tRunning with units := [(1, [(9, 4), (4, 5), (4, 6), (4, 7), (4, 8)])] }
       (tEng w x).canIssue 0 = true ∧ (tEng w x).fetchAt 0 = .inl w ∧ (x.spend 8).stalls w = true ∧ (x.spend 9).stalls w = false)) ∧
    (let w := dw 0x04 9 4 0 0 0 0
     let x := { tRunning with units := [(1, [(4, 4)])] }
     (x.spend 3).stalls w = true ∧ (x.spend 4).stalls w = false) := by decide

theorem test_add_subtracts_the_sign_extended_immediate : ∃ t, exec (.darvyAdd 0 1) (tEng (dw 0x04 4 1 2 0 0 0xFFFF) tRunning) = .next t ∧
    (t.engine 0).xreg 4 = 4 ∧ (t.engine 0).pc = 1 ∧ (t.engine 0).slice = 1 := ⟨_, rfl, by decide⟩

theorem test_loop_leaves_at_zero : ∃ t, exec (.loop 0 1) (tEng (dw 0x08 0 3 0 0 0 0xFFFF) tRunning) = .next t ∧
    (t.engine 0).xreg 3 = 0 ∧ (t.engine 0).pc = 1 := ⟨_, rfl, by decide⟩

theorem test_branch_goes_back : ∃ t, exec (.darvyBr 0 1) (tEng (dw 0x0A 0 0 0 0 0 0xFFFF) tRunning) = .next t ∧
    (t.engine 0).pc = 65535 := ⟨_, rfl, by decide⟩

theorem wit_yield : (let w := dw 0x0B 0 1 0 0 0 0
    let s := tEng w tRunning
    Issues s 0 2 w ∧ Issues s 0 3 w ∧ dOp w = 0x0B ∧ ¬ ((tRunning.xreg (dA w)).toNat ≤ tRunning.slice + 2) ∧
      (tRunning.xreg (dA w)).toNat ≤ tRunning.slice + 3 ∧ tRunning.pendSuspend = false ∧ s.surplus 0 = false ∧ tRunning.streams = []) := by
  decide

/-- A running engine with a beat that nothing has consumed. -/
def tBeat : Engine := { tRunning with streams := [{ reg := 0, line := 0, left := 2 }] }

theorem wit_yield_end : ∀ o, o ∈ [(0x0B, dw 0x0B 0 0 0 0 0 0), (0x0C, dw 0x0C 0 0 0 0 0 0)] →
    Issues (tEng o.2 tBeat) 0 0 o.2 ∧ Issues (tEng o.2 tRunning) 0 0 o.2 ∧ dOp o.2 = o.1 ∧ tBeat.streams ≠ [] := by decide

/-- A drain with one instruction in the transfer unit. -/
def tDrain : Engine := { tRunning with drain := .yielding, pendSuspend := true, units := [(2, [(4, 0)])] }

theorem wit_drain : tDrain.mode = .running ∧ tDrain.failing = none ∧ tDrain.slice + 5 < 65536 ∧ (tDrain.spend 5).drained = true ∧
    (tDrain.spend 3).drained = false ∧ tDrain.drain = .yielding ∧ ({ tDrain with drain := .ending } : Engine).drain = .ending ∧
    65536 ≤ ({ tRunning with drain := .ending, slice := 1 } : Engine).slice + 65535 ∧
    (let s := { tEng 0 tDrain with stackTab := [(0, { Stack.reset with level := 0 })] }
     s.surplus 0 = true) ∧
    (let s := tEng 0 tDrain
     { s with sec := { s.sec with loading := true } }.sec.loading = true) := by decide

/-- A query table of one valid entry at unit 0 (06 R177). -/
def tTable : Mem := Tab.setList (fun _ => 0) [] 0 (toBytes 4 (2 ^ 31 + 5))

theorem wit_qset_scan : (let w := dw 0x10 4 0 0 0 0 0
    let s := tEng w { tRunning with buf := tTable }
    Issues s 0 1 w ∧ dOp w = 0x10 ∧
      queryTable ((s.engine 0).bufF32 (dU w) 32) = some [BitVec.ofNat 32 (2 ^ 31 + 5)] ∧ dU w + 1 + 1 ≤ 256) ∧
    (let w := dw 0x11 0 0 0 0 0 2
     Issues (tEng w tRunning) 0 1 w ∧ dOp w = 0x11 ∧ tRunning.cr w = some 0) := by decide

theorem wit_beats : ∀ o, o ∈ [(0x12, dw 0x12 0 0 0 0 0 1), (0x14, dw 0x14 0 0 0 0 0 1)] →
    Issues (tEng o.2 tBeat) 0 1 o.2 ∧ Issues (tEng o.2 tRunning) 0 1 o.2 ∧ dOp o.2 = o.1 := by decide

theorem wit_beats_taken : (let w := dw 0x12 0 0 0 0 0 1
    ∃ u, ((tEng w tBeat).issuing 0 1 w).beats 0 1 = (u, .inl [List.replicate 128 0])) ∧
    (let w := dw 0x14 0 0 0 0 0 1
     ∃ u, ((tEng w tBeat).issuing 0 1 w).beats 0 1 = (u, .inl [List.replicate 128 0])) ∧
    (let w := dw 0x14 0 0 0 0 0 1
     ∃ u, ((tEng w tRunning).issuing 0 1 w).beats 0 1 = (u, .inr (4, none))) := ⟨⟨_, rfl⟩, ⟨_, rfl⟩, ⟨_, rfl⟩⟩

theorem wit_expm_emit : (let w := dw 0x13 0 1 0 0 0 0x80
    Issues (tEng w tRunning) 0 1 w ∧ dOp w = 0x13) ∧
    (let w := dw 0x1F 0 3 0 0 0 0
     Issues (tEng w tRunning) 0 1 w ∧ dOp w = 0x1F ∧ tRunning.fresh = 0 ∧ tRunning.cr w = some 0 ∧
      setBits 4 (tRunning.xreg (dA w)).toNat = [0] ∧ ({ tRunning with fresh := 2 } : Engine).fresh ≠ 0) := by decide

theorem wit_attention_faults : (let w := dw 0x10 4 0 0 0 0 0
    Issues (tEng w tRunning) 0 1 w ∧ queryTable (tRunning.bufF32 (dU w) 32) = none) ∧
    (∀ op, op ∈ [0x11, 0x1F] →
      (let w := BitVec.ofNat 64 (op + 3 * 2 ^ 10 + 15 * 2 ^ 18 + 2 ^ 22 + 2 ^ 23 + (if op = 0x11 then 2 ^ 36 else 0))
       Issues (tEng w tRunning) 0 1 w ∧ dOp w = op ∧ tRunning.cr w = none)) := by decide

theorem wit_emit_taken : (let w := dw 0x1F 0 3 0 0 0 0
    let s := { tEng w tRunning with stackTab := [(0, { Stack.reset with slots := [(0, some { tSlot with arrived := [] })] })] }
    ∃ u, (s.issuing 0 1 w).emitAllOf 0 (tRunning.creg 0) [0] = .taken u) := ⟨_, rfl⟩

/-- A partial for a slot that another partition holds (06 R186 code 0x07). -/
theorem wit_emit_fault : (let w := dw 0x1F 0 3 0 0 0 0
    let s := { tEng w tRunning with
               stackTab := [(0, { Stack.reset with slots := [(0, some { tSlot with arrived := [], expected := 0 })] })] }
    ∃ u, (s.issuing 0 1 w).emitAllOf 0 (tRunning.creg 0) [0] = .fault u) := ⟨_, rfl⟩

theorem wit_lanes : (∀ o, o ∈ [(0x15, dw 0x15 0 0 2 0 0 1), (0x16, dw 0x16 0 1 2 0 255 255), (0x17, dw 0x17 4 0 2 0 0 0), (0x18, dw 0x18 0 0 2 0 0 1), (0x19, dw 0x19 0 1 2 0 0 1)] →
      Issues (tEng o.2 tRunning) 0 1 o.2 ∧ dOp o.2 = o.1 ∧
        dU o.2 + bufUnits (4 * (tRunning.xreg (dB o.2)).toNat) ≤ 256 ∧ dImm o.2 % 256 + bufUnits (4 * 2) ≤ 256) ∧
    (let w := dw 0x15 0 0 1 0 255 0
     let x := { tRunning with x := [(1, 33)] }
     Issues (tEng w x) 0 1 w ∧ 256 < dU w + bufUnits (4 * (x.xreg (dB w)).toNat)) := by decide

theorem wit_lines : (∀ o, o ∈ [(0x1A, dw 0x1A 0 1 2 0 252 1), (0x1C, dw 0x1C 0 1 0 0 0 2), (0x1D, dw 0x1D 0 1 0 0 0 2), (0x1E, dw 0x1E 0 1 0 0 0 2)] →
      Issues (tEng o.2 tRunning) 0 1 o.2 ∧ dOp o.2 = o.1 ∧ tRunning.cr o.2 = some 0 ∧ dU o.2 + 4 ≤ 256) ∧
    (∀ o, o ∈ [(0x1A, dw 0x1A 0 1 2 0 253 1), (0x1C, dw 0x1C 0 1 0 0 255 4), (0x1D, dw 0x1D 0 1 0 0 255 3), (0x1E, dw 0x1E 0 1 0 0 255 3)] →
      Issues (tEng o.2 tRunning) 0 1 o.2 ∧ dOp o.2 = o.1 ∧ 256 < dU o.2 + 4) ∧
    (tEng 0 tRunning).guard 0 0 3 false false = some 3 ∧ (tEng 0 tRunning).guard 0 0 3 true true = some 3 ∧
    (tEng 0 tRunning).guard 0 0 1023 true true = some 1023 ∧ (tEng 0 tRunning).guard 0 0 1024 true true = none ∧
    (let w := dw 0x1C 0 1 0 0 0 2
     (((tEng w tRunning).issuing 0 1 w).fetchLines 0 0 3 false 2).2 = .inl (List.replicate 128 0) ∧
      (((tEng w tRunning).issuing 0 1 w).fetchLines 0 0 1023 false 2).2 = .inr (2, some 1024)) := by decide

theorem wit_engineEnds : (let x := { tRunning with slice := 1201 }
    x.mode = .running ∧ 1200 < x.slice ∧ x.overCounted = false) ∧
    (let x := { tRunning with slice := 65536 }
     65536 ≤ x.slice ∧ x.failing = none) ∧
    (tEng 0x3F tRunning).canIssue 0 = true ∧ (tEng 0x3F tRunning).fetchAt 0 = .inr 1 ∧ tRunning.failing = none ∧
    (tEng 0 { tRunning with pc := 2 }).fetchAt 0 = .inr 6 := by decide

theorem wit_stores_taken : (let s := (tEng (dw 0x1E 0 1 0 0 0 2) tRunning).issuing 0 1 (dw 0x1E 0 1 0 0 0 2)
    ∃ u, s.storeLines 0 0 3 true [[], []] = (u, none)) ∧ (let s := (tEng (dw 0x1D 0 1 0 0 0 2) tRunning).issuing 0 1 (dw 0x1D 0 1 0 0 0 2)
    ∃ u, s.storeLines 0 0 1023 false [[], []] = (u, some (2, some 1024))) := ⟨⟨_, rfl⟩, ⟨_, rfl⟩⟩

/-! ### The round -/

/-- One layer, four key/value heads of dimension 64: two pairs, whose home stacks are S00 and S09 (07 R193, R200). -/
def tModel : Model :=
  { layers := 1, heads := 4, group := 1, headDim := 64, form := 0, draft := false, vocab := 256, draftLayers := 0, draftHeads := 0, draftGroup := 0 }

def tLog : SeqRec :=
  { fn := 1, ring := 0, map := [0], draftMap := [], tokens := [1, 2, 3], stop := [], computed := 2, reused := 0, delivered := 1, cancelledTokens := 0,
    recomputed := 0, promotedTokens := 0, admittedAt := 0, prefixNote := 0, builds := none, redo := 0 }

/-- A promoted best-effort sequence in decode: two prompt tokens and one generated token. -/
def tSeq : RoundEntry :=
  { state := .decode,
    flags := { be := true, promoted := true, late := false, asked := false, cancelled := false, latePolicy := false, recompute := false, probing := false,
               speculative := false, everPromoted := true },
    draft := { k := 0, kReq := 0, drafted := 0, accepted := 0, window := 0, countdown := 0 }, log := tLog, tenant := 7, requestId := 9,
    length := 3, promptLen := 2, limit := 10, prefilled := 2, prefixEntry := none, pigeonhole := 0, promoLeft := 16, profile := 0,
    tokenRing := 5, complRing := 4, seed := 0, deadline := 0, waitSince := 0, lastStep := 0, generated := 1 }

def tParcel (st : ParcelState) (head pln : Nat) : Parcel :=
  { Parcel.reset with state := st, pair := true, head := head, filled := 2, pln := pln, sharers := 1 }

/-- The round with the sequence and the two parcels of its set, in its home stacks. -/
def tRound : Round :=
  { Round.reset with
    model := some tModel, entries := [(0, some tSeq)], ledger := [(0, tParcel .tail 0 1024), (1, tParcel .tail 1 (9 * 2 ^ 30 + 1024))] }

/-- Partition 0 serves with that round: up to 16 tokens in a step, its pool the regions 1 in S00 and 2 in S09. -/
def tServe (r : Round) : State :=
  { tReady { tPart with
      applied := { tPart.applied with roundCfg := BitVec.ofNat 64 (16 * 2 ^ 36), pool := BitVec.ofNat 64 (1 + 2 * 2 ^ 8) }, round := r,
      jobs := [tJob .running 0 [0]] } with
    memory := { Memory.reset with regions := [(1, tReg), (2, { tReg with w1 := BitVec.ofNat 64 (9 + 2 ^ 4) })] } }

/-- The round with the budgets and weights taken and its resumptions made. -/
def tTaken (s : State) : State := ((s.takeBudgets 0).promote 0).pauseResume 0

theorem wit_routeSheetBuild : (tServe tRound).mayBuild 0 = true ∧ (tServe tRound).replaying 0 = false ∧ ((tServe tRound).round 0).allocWait = none ∧
    ((tServe tRound).round 0).model = some tModel ∧ (tServe tRound).journaled 0 = false ∧
    ((tTaken (tServe tRound)).composeBe 0 ((tTaken (tServe tRound)).composeLc 0)).items.map (·.tokens) = [1] := by decide

theorem wit_fwRead : (tServe tRound).fwRead 0 = (tServe tRound, false) := rfl

theorem wit_routeSheetBuild_written :
    ∃ u, (tTaken (tServe tRound)).writeSheet 0 tModel ((tTaken (tServe tRound)).composeBe 0 ((tTaken (tServe tRound)).composeLc 0)) = .inl u :=
  ⟨_, rfl⟩

theorem wit_routeSheetBuild_nothing : (let s := tServe { tRound with entries := [] }
    s.mayBuild 0 = true ∧ ((tTaken s).composeBe 0 ((tTaken s).composeLc 0)).items = [] ∧ ((tTaken s).round 0).excluded = []) := by decide

/-- The sequence has no set, and no stack holds a pool. -/
def tFull : State :=
  { tServe { tRound with entries := [(0, some { tSeq with log := { tLog with map := [] } })], ledger := [] } with memory := Memory.reset }

theorem wit_routeSheetBuild_waits : tFull.mayBuild 0 = true ∧ tFull.replaying 0 = false ∧ (let t0 := tTaken tFull
    (t0.composeBe 0 (t0.composeLc 0)).items ≠ [] ∧ t0.writeSheet 0 tModel (t0.composeBe 0 (t0.composeLc 0)) = .inr 0) := by decide

theorem wit_parcelAllocationResume : (let s := tServe { tRound with allocWait := some 9 }
    s.mayBuild 0 = true ∧ s.replaying 0 = false ∧ (s.round 0).allocWait = some 9 ∧ 0 < s.freeSlots 0 9) := by decide

/-- A released sheet with one decode item. -/
def tItem : Item :=
  { kind := .decode, be := true, promoted := true, samples := true, tokens := 1, index := 0, pigeonhole := 0, k := 0, position := 2,
    circFirst := 0, circCount := 0, charge := none, ring := none }

def tSheet : Sheet :=
  { step := 0, reissue := 0, threshold := 32, levels := 4, repro := false, builtAt := 0, predicted := 0, items := [tItem], circs := [],
    allocated := [], realloced := [], rapp := [], sent := [], released := true }

def tOut : State := tServe { tRound with sheet := some tSheet }

theorem wit_layerPackets : (tOut.round 0).sheet = some tSheet ∧ tOut.layerTurn 0 tModel tSheet 0 0 = true ∧ (tOut.round 0).causes = [] ∧
    (tOut.rappPackets 0 tModel tSheet 0 0).length = 1 ∧ ((0, 0) : Nat × Nat) ∉ tSheet.rapp ∧
    (tOut.layerPackets 0 tModel tSheet.items 0 0).map List.length = some 3 := by decide

/-- A SUBMIT of three tokens at 0x1000 with at most five to come, best effort, tenant 7, request 9, rings 5 and 4 (08 R227). -/
def tSubmit : Line :=
  BitVec.ofNat 512 (1 + 1 * 2 ^ 8 + 7 * 2 ^ 16 + 9 * 2 ^ 32 + 0x1000 * 2 ^ 64 + 3 * 2 ^ 128 + 5 * 2 ^ 160 + 5 * 2 ^ 424 + 4 * 2 ^ 428)

/-- Function 1 with a request ring 0, a completion ring 4 and a token ring 5, and a descriptor fetched. -/
def tAsk (s : State) (d : Line) : State :=
  { s with
    regs := [(0x1020108, 1 + 8 * 4 + 4 * 256), (0x1020188, 4 + 8 * 4), (0x10201A8, 5 + 8 * 4)],
    fns := [(1, { Fn.reset with enable := 0x31, rings := [(0, { Ring.reset with fetched := [d] })] })] }

theorem wit_submit : (let s := tAsk (tServe { tRound with entries := [], ledger := [] }) tSubmit
    s.requestHead 1 0 (fun t => t == 1 || t == 0 || decide (4 < t)) = some tSubmit ∧ lineNat tSubmit 0 1 = 1 ∧
      s.submitRefusal 1 tSubmit = none ∧ s.journalRoom 0 (s.promptEntries 1 tSubmit) = true ∧ s.submitRefusal 1 (setFld tSubmit 159 128 0) = some 0x15) := by
  decide +kernel

theorem wit_submit_unknown : (tAsk (tServe tRound) 5).requestHead 1 0 (fun t => t == 1 || t == 0 || decide (4 < t)) = some 5 ∧
    lineNat 5 0 1 ≠ 1 := by decide

theorem wit_promptFetchComplete : (let a : Admission := { fn := 1, ring := 0, desc := tSubmit, admittedAt := 0 }
    let s := tAsk (tServe { tRound with admitting := [a] }) tSubmit
    (s.round 0).admitting.find? (fun a => lineNat a.desc 4 4 == (9 : W32).toNat) = some a ∧
      [(1 : W32), 2, 3].length = qLen a.desc ∧ (∀ x, x ∈ [(1 : W32), 2, 255] → x.toNat < tModel.vocab) ∧
      (List.range (s.part 0).applied.roundEntries).find? (fun i => (s.seqAt 0 i).isNone) = some 1) :=
  ⟨by decide, by decide, by simp [tModel], by decide⟩

theorem wit_promptFetchComplete_refused : (let s := tServe { tRound with entries := (List.range 8).map (fun i => (i, some tSeq)) }
    (List.range (s.part 0).applied.roundEntries).find? (fun i => (s.seqAt 0 i).isNone) = none) ∧ tModel.vocab ≤ (256 : W32).toNat ∧
    ([] : List W32).length ≠ qLen tSubmit := by decide

/-- A prefix entry of one span, ready, held by none. -/
def tPrefix : Prefix :=
  { digest := 0, handle := 0x55, owner := 7, refs := 0, spans := 1, ready := true, map := [], draftMap := [], base := 0, tokens := [],
    lastUse := 0, share := none, redo := 0 }

theorem wit_cancel :
    (let d : Line := BitVec.ofNat 512 (2 + 7 * 2 ^ 16 + 9 * 2 ^ 32)
     let s := tAsk (tServe tRound) d
     s.requestHead 1 0 (· == 2) = some d ∧ lineNat d 1 1 = 0 ∧ lineNat d 8 56 = 0 ∧ s.seqOf 0 (qRequest d) = some (0, tSeq) ∧
      tSeq.flags.asked = false ∧ ({ tSeq.flags with asked := true } : SeqFlags).asked = true ∧
      (tAsk (tServe { tRound with entries := [] }) d).seqOf 0 (qRequest d) = none) ∧
    (let d : Line := BitVec.ofNat 512 (2 + 2 ^ 8)
     (tAsk (tServe tRound) d).requestHead 1 0 (· == 2) = some d ∧ lineNat d 1 1 ≠ 0) := by decide

theorem wit_prefix : (∀ op, op ∈ [1, 2] →
      (let d : Line := BitVec.ofNat 512 (3 + 7 * 2 ^ 16 + 9 * 2 ^ 32 + 0x55 * 2 ^ 64 + op * 2 ^ 96)
       let s := tAsk (tServe { tRound with prefixes := [(3, some tPrefix)] }) d
       s.requestHead 1 0 (· == 3) = some d ∧ lineNat d 12 1 = op ∧ s.prefixCheck 1 d = .inr (3, tPrefix) ∧ s.prefixAt 0 3 = some tPrefix ∧
        (tAsk (tServe tRound) d).prefixCheck 1 d = .inl 6)) ∧
    ({ tPrefix with refs := 1 } : Prefix).refs ≠ 0 := by decide

theorem wit_hint :
    (let d : Line := BitVec.ofNat 512 (4 + 7 * 2 ^ 16 + 9 * 2 ^ 32)
     let s := tAsk (tServe { tRound with ledger := [(0, tParcel .spilled 0 0)] }) d
     s.requestHead 1 0 (· == 4) = some d ∧ s.seqOf 0 (qRequest d) = some (0, tSeq) ∧ s.onSheet 0 0 = false ∧
      s.hasParcel 0 tSeq (fun x => decide (x = .spilled)) = true ∧ 0 ∉ (s.round 0).hinted ∧
      (tAsk (tServe { tRound with entries := [] }) d).seqOf 0 (qRequest d) = none ∧
      (tAsk (tServe tRound) d).hasParcel 0 tSeq (fun x => decide (x = .spilled)) = false) ∧
    (let d : Line := BitVec.ofNat 512 (4 + 2 ^ 64)
     (tAsk (tServe tRound) d).requestHead 1 0 (· == 4) = some d ∧ lineNat d 8 56 ≠ 0) := by decide

theorem wit_refills : (tServe tRound).journaled 0 = false ∧ (tServe tRound).mark 100 < (tServe tRound).nowNat / 1000000 ∧
    ((tServe tRound).modPart 0 (fun x => { x with journal := { x.journal with recording := true } })).journaled 0 = true ∧ (tServe tRound).mark 200 < (tServe tRound).nowNat / 1000000 ∧
    (tServe tRound).queueWork 0 0 = true ∧ (tServe tRound).queueWork 0 1 = false := by decide

theorem wit_relief : (let s := { tServe { tRound with prefixes := [(3, some tPrefix)] } with memory := Memory.reset }
    (s.part 0).mode = .ready ∧ s.replaying 0 = false ∧ s.short 0 0 = true ∧ s.evictable 0 = [3]) ∧
    (let s := { tServe { tRound with entries := [(0, some { tSeq with flags := { tSeq.flags with promoted := false } })] } with memory := Memory.reset }
     s.replaying 0 = false ∧ s.short 0 0 = true ∧ s.evictable 0 = [] ∧ s.victims 0 = [] ∧ s.nextPause 0 = some 0) := by decide

theorem wit_posteRestante : (let x := { tParcel .spilled 0 0 with prSlot := some 4 }
    let s := tServe { tRound with fetchBack := [0], ledger := [(0, x), (1, tParcel .tail 1 (9 * 2 ^ 30 + 1024))] }
    s.chosen 0 0 = true ∧ s.spilledOf 0 0 = [0] ∧ (s.round 0).model = some tModel ∧ (s.parcel 0 0).prSlot = some 4 ∧ s.linkGood = true ∧ (s.freshSlot 0 0 0 false 0).isSome = true) := by
  decide

theorem wit_spill_fetch : (let s := tServe { tRound with ledger := [(0, { tParcel .spilling 0 1024 with prSlot := some 4 })] }
    s.replaying 0 = false ∧ (s.parcel 0 0).state = .spilling ∧ (s.parcel 0 0).prSlot = some 4) ∧
    (let x := { tParcel .fetching 0 1024 with check := some 0 }
     let s := tServe { tRound with ledger := [(0, x)] }
     s.replaying 0 = false ∧ (s.parcel 0 0).state = .fetching ∧ openParcel x 0 0 0 [] 0 = none) := by decide

theorem wit_commit : (tOut.round 0).sheet = some tSheet ∧ tOut.works 0 = true ∧ tOut.causePending 0 = false ∧ (tOut.round 0).abandoning = false ∧
    [({ accepted := 0, tokens := [4] } : ItemOutput)].length = tSheet.items.length ∧ tOut.journalRoom 0 6 = true ∧ tOut.replaying 0 = false := by decide

/-- The same in a replay. -/
def tReplay : State :=
  tOut.modPart 0 (fun x => { x with journal := { x.journal with replay := 1, stop := true } })

theorem wit_commit_replay : (tReplay.round 0).sheet = some tSheet ∧ tReplay.works 0 = true ∧ tReplay.causePending 0 = false ∧
    tReplay.journalRoom 0 6 = true ∧ tReplay.replaying 0 = true ∧ (tServe { tRound with sheet := some tSheet, causes := [.failedSeal 0] }).causePending 0 = true := by decide

theorem test_commit_delivers_and_advances : ∃ t, exec (.commit 0 [{ accepted := 0, tokens := [4] }] []) tOut = .next t ∧
    (t.round 0).step = 1 ∧ (t.seqAt 0 0).map (·.length) = some 4 ∧ (t.parcel 0 0).filled = 3 := ⟨_, rfl, by decide⟩

theorem wit_abandon : (let s := tServe { tRound with sheet := some tSheet, causes := [.failedSeal 0] }
    (s.part 0).mode = .ready ∧ (s.round 0).sheet = some tSheet ∧ s.replaying 0 = false ∧ (s.round 0).abandoning = false ∧ s.causeStands 0 (.failedSeal 0) = true ∧
      (s.round 0).strikes + b2n (s.counts 0 (.failedSeal 0)) < 16 ∧ 16 ≤ 15 + b2n (s.counts 0 (.failedSeal 0))) ∧
    (let sh := { tSheet with released := false }
     let s := tServe { tRound with sheet := some sh, abandoning := true }
     (s.round 0).sheet = some sh ∧ s.servingJob 0 = some (tJob .running 0 [0]) ∧ (s.round 0).abandoning = true ∧ sh.released = false ∧
      s.stepStill 0 = true ∧ s.repairHolds 0 = false) := by decide

/-! ### Copies, tensors and digests -/

/-- A COPY of one row of 32 BF16 elements from tensor 0 onto itself (10 R291): type 1, both sides tensors, counts 32 and 1. -/
def tCopy (typ : Nat) : Line := BitVec.ofNat 512 (typ + 32 * 2 ^ 64 + 1 * 2 ^ 96)

/-- The program queue of the partition holds a copy descriptor. -/
def tQueue (d : Line) : State := tMem (tReady { tPartT with progQ := [d] })

theorem wit_copies : (∀ ty, ty ∈ [1, 2, 3, 4] → (tQueue (tCopy ty)).queueHead (.program 0) = some (tCopy ty) ∧ (tQueue (tCopy ty)).mayStart (.program 0) (tCopy ty) = true ∧ cType (tCopy ty) = ty ∧ (tQueue (tCopy ty)).replaying 0 = false) ∧
    badCopy true (tCopy 1) = false ∧ badCopy true (setFld (tCopy 1) 15 15 1) = true := by decide

theorem wit_copy_reads_at_once : (let s := (tQueue (tCopy 1)).popQueue (.program 0)
    ∃ u plan, s.planCopy (.program 0) (tCopy 1) none = (u, .inl plan) ∧ u.planNeeds 0 (tCopy 1) plan = some [] ∧
      u.planPeers 0 (tCopy 1) plan = []) := ⟨_, _, rfl, rfl, rfl⟩

/-- A copy in flight whose source is read, with nothing to write. -/
def tFlight (status : Nat) (c : Option Coll) : CopyJob :=
  { id := 3, queue := .program 0, partition := 0, desc := tCopy 1, status := status, startedAt := 0, boxes := [], ext := [], stage := 1,
    pieces := [], waiting := [], handles := [], err := none, digest := none, members := [], coll := c }

theorem wit_copyComplete : (let s := { tQueue 0 with copies := [tFlight 0 none] }
    s.copyAt 3 = some (tFlight 0 none) ∧ cSignal (tCopy 1) = false ∧ cAtomic (tCopy 1) = false) ∧
    (let s := { tQueue 0 with copies := [tFlight 0x34 none] }
     s.copyAt 3 = some (tFlight 0x34 none) ∧ (0x34 : Nat) ≠ 0 ∧ (0x34 : Nat) ≠ 0x37) ∧
    (let a : Coll := { first := 0, started := false, sums := [], final := [] }
     let s := { tQueue 0 with copies := [tFlight 0 (some a)] }
     s.copyAt 3 = some (tFlight 0 (some a)) ∧ a.first.toNat + 1000000000 ≤ s.nowNat) := by decide

theorem wit_copyComplete_pieces : ∃ u, ({ tQueue 0 with copies := [tFlight 0 none] } : State).applyPieces 0 [] = (u, none) := ⟨_, rfl⟩

/-- The program copy queue in region 1, sixteen entries. -/
def tPoll : State := tMem (tReady { tPart with copyq := some (BitVec.ofNat 64 (1 + 4 * 2 ^ 8)) })

theorem wit_programCopyQueuePoll : (tPoll.part 0).copyq = some (BitVec.ofNat 64 (1 + 4 * 2 ^ 8)) ∧
    tPoll.copyqOk 0 (BitVec.ofNat 64 (1 + 4 * 2 ^ 8)) = true ∧ lineNat 0 0 1 = 0 := by decide

theorem wit_programCopyQueuePoll_reads :
    ∃ u v l e, tPoll.readLine (ctlOf (tPoll.regionLine 1 0)) (tPoll.regionLine 1 0) 0 = (u, some l) ∧
      u.readLine (ctlOf (tPoll.regionLine 1 64)) (tPoll.regionLine 1 64) 0 = (v, some e) := ⟨_, _, _, _, rfl, rfl⟩

/-- Function 1 with a copy ring 0 and a fetched descriptor. -/
def tHost (x : Part) (d : Line) : State := tRing (tMem (tReady x)) 3 d

theorem wit_tensors :
    (let d : Line := BitVec.ofNat 512 (0x20 + 4095 * 2 ^ 16 + 0x40 * 2 ^ 64)
     let s := tHost tPart d
     let x : Tensor := { desc := tDesc, group := 0, destroying := none }
     s.tensorHead 1 0 0x20 = some d ∧ lineNat d 2 2 < 4096 ∧ lineNat d 1 1 = 0 ∧ lineNat d 4 4 = 0 ∧ lineNat d 16 48 = 0 ∧
      lineNat d 8 8 % 64 = 0 ∧ (s.tensorEntry 0 4095).tensor = none ∧ s.tensorStatus 0 x = 0 ∧
      s.tensorStatus 0 { x with desc := 0 } ≠ 0) ∧
    (let d : Line := BitVec.ofNat 512 0x21
     let s := tHost tPartT d
     s.tensorHead 1 0 0x21 = some d ∧ lineNat d 1 1 = 0 ∧ lineNat d 4 60 = 0 ∧ (s.tensorEntry 0 0).tensor = some tTensor ∧
      tTensor.destroying = none) ∧
    (let x : Tensor := { tTensor with destroying := some (1, 0, 0) }
     let s := tHost { tPart with tensors := [(0, { generation := 4095, tensor := some x })] } 0
     (s.tensorEntry 0 0).tensor = some x ∧ s.handleInUse (handleOf 0 0 4095) = false) := by decide

theorem test_destroyed_generation_wraps : ∃ t, exec (.tensorDestroyComplete 0 0)
    (tHost { tPart with tensors := [(0, { generation := 4095, tensor := some { tTensor with destroying := some (1, 0, 0) } })] } 0) = .next t ∧
    t.tensorEntry 0 0 = TensorEntry.reset := ⟨_, rfl, by decide⟩

def tDigest (closing : Option (Nat × Nat × W64)) : Digest :=
  { kind := 1, label := 0, data := [1, 2], failed := false, regions := [], closing := closing }

theorem wit_digests :
    (let d : Line := BitVec.ofNat 512 (0x22 + 15 * 2 ^ 16 + 4 * 2 ^ 24)
     let s := tHost tPart d
     s.tensorHead 1 0 0x22 = some d ∧ lineNat d 2 1 ≤ 15 ∧ lineNat d 3 1 ≤ 4 ∧ lineNat d 1 1 = 0 ∧ lineNat d 4 4 = 0 ∧ lineNat d 12 52 = 0 ∧
      s.streamBusy 0 15 = false ∧ s.stream 0 15 = none) ∧
    (let d : Line := BitVec.ofNat 512 0x23
     let s := tHost { tPart with digests := [(0, some (tDigest none))] } d
     s.tensorHead 1 0 0x23 = some d ∧ lineNat d 3 61 = 0 ∧ s.stream 0 0 = some (tDigest none) ∧ (tDigest none).closing = none) ∧
    (let s := tHost { tPart with digests := [(0, some (tDigest (some (1, 0, 0))))] } 0
     s.stream 0 0 = some (tDigest (some (1, 0, 0))) ∧ s.streamBusy 0 0 = false ∧ (tDigest none).failed = false ∧
      (s.part 0).digestList.length < 128) := by decide

/-- A write to a line of host memory, and one to a line of no region. -/
def tPieces (y : Spot) : CopyJob := { tFlight 0 none with pieces := [.put y 0 512 7] }

theorem wit_copyComplete_host : (let s := { tQueue 0 with copies := [tPieces (.host 0x1000)] }
    s.copyAt 3 = some (tPieces (.host 0x1000)) ∧ s.staleHandle (tPieces (.host 0x1000)) = false) ∧
    (tPieces (.host 0x1000)).hostLines.getLast? = some 0x1000 ∧ ({ tFlight 0 none with stage := 3 } : CopyJob).stage = 3 := by decide

theorem wit_copyComplete_host_written :
    ∃ u, ({ tQueue 0 with copies := [tPieces (.host 0x1000)] } : State).applyPieces 0 (tPieces (.host 0x1000)).pieces = (u, none) := ⟨_, rfl⟩

theorem wit_copyComplete_refused :
    ∃ u, ({ tQueue 0 with copies := [tPieces (.dev 9 0)] } : State).applyPieces 0 (tPieces (.dev 9 0)).pieces = (u, some (0x30, none)) := ⟨_, rfl⟩

theorem wit_copy_unknown : (tQueue 9).queueHead (.program 0) = some 9 ∧ (tQueue 9).mayStart (.program 0) 9 = true ∧
    ¬ (1 ≤ cType 9 ∧ cType 9 ≤ 4) ∧ isProgram (.program 0) = true := by decide

/-- A descriptor that breaks R291, one whose scales or lines do not match, and a list that names no tensor. -/
theorem wit_copy_refused : (let d := setFld (tCopy 1) 15 15 1
    ∃ u, (tQueue d).planCopy (.program 0) d none = (u, .inr (0x28, none))) := ⟨_, rfl⟩

theorem wit_poll_bad : (let s := { tPoll with mem := Tab.setList blankByte [] 0 poisonLine }
    ∃ u, s.readLine (ctlOf (s.regionLine 1 0)) (s.regionLine 1 0) 0 = (u, none)) := ⟨_, rfl⟩

theorem wit_tensors_refused : (let d : Line := BitVec.ofNat 512 (0x20 + 4096 * 2 ^ 16)
    (tHost tPart d).tensorHead 1 0 0x20 = some d ∧ ¬ (lineNat d 2 2 < 4096)) ∧
    (let d : Line := BitVec.ofNat 512 (0x21 + 2 ^ 8)
     (tHost tPart d).tensorHead 1 0 0x21 = some d ∧ lineNat d 1 1 ≠ 0 ∧ ((tHost tPart d).tensorEntry 0 0).tensor = none) ∧
    (let d : Line := BitVec.ofNat 512 (0x22 + 16 * 2 ^ 16)
     (tHost tPart d).tensorHead 1 0 0x22 = some d ∧ ¬ (lineNat d 2 1 ≤ 15)) ∧
    (let d : Line := BitVec.ofNat 512 (0x23 + 2 ^ 24)
     (tHost tPart d).tensorHead 1 0 0x23 = some d ∧ lineNat d 3 61 ≠ 0 ∧ (tHost tPart d).stream 0 0 = none) := by decide

/-! ### The host link, rings, events and interrupts -/

theorem wit_letterboxPoll : (let s := { tReady tPart with fns := [(1, { Fn.reset with enable := 1 })] }
    (s.fn 1).enable ≠ 0 ∧ (s.fn 1).pollOut = false ∧ (s.fn 1).pollAt.toNat ≤ s.nowNat ∧ s.served 1 = true ∧ s.journalRoom 0 2 = true) ∧
    (let s := { tReady tPart with fns := [(1, { Fn.reset with enable := 1, pollAt := 5000000000001#64 })] }
     s.nowNat < (s.fn 1).pollAt.toNat) ∧
    (({ tReady tPart with fns := [(1, { Fn.reset with enable := 1, pollOut := true })] } : State).fn 1).pollOut = true := by decide

/-- A link of eight lanes at 128 GT/s in Flit mode sends what waited; one of four lanes is degraded. -/
theorem test_link_trains : (∃ t, exec (.pcieLinkTrained 8 128 true) { tOn with unsent := [.msix 1] } = .next t ∧ t.out = [.msix 1] ∧
    t.module.linkDegraded = false) ∧
    ∃ t, exec (.pcieLinkTrained 4 128 true) { tOn with unsent := [.msix 1] } = .next t ∧ t.out = [] ∧ t.module.linkDegraded = true :=
  ⟨⟨_, rfl, by decide⟩, ⟨_, rfl, by decide⟩⟩

/-- Function 1 with a copy ring 0 and its completion ring 4 on. -/
def tRings (x : Fn) : State :=
  { tReady tPart with regs := [(0x1020108, 3 + 8 * 4 + 4 * 256), (0x1020188, 4 + 8 * 4)], fns := [(1, x)] }

theorem wit_letterboxRead : (let s := tRings { Fn.reset with enable := 0x11, pollOut := true }
    (s.fn 1).pollOut = true ∧ (s.part 0).journal.recording = false ∧
      (∀ r, r < 16 → s.ringOn 1 r = true → (s.ring 1 r).stopped = false →
        indexError (s.driverWritten 1 r) (s.ring 1 r).driverIndex (BitVec.ofNat 32 (lineNat (BitVec.ofNat 512 16) (4 * r) 4))
          (s.ring 1 r).moduleIndex (s.ringEntries 1 r) = 0)) := by decide

/-- A replaying partition's function, with no read out. -/
theorem wit_letterboxRead_replay : (let s := (tRings Fn.reset).modPart 0 (fun x => { x with journal := { x.journal with replay := 1 } })
    (1 : FnId).val ≠ 0 ∧ s.replaying 0 = true ∧ (s.fn 1).pollOut = false ∧ (s.part 0).journal.recording = false) := by decide

/-- A poll that fell due while the read was out is issued behind it. -/
theorem wit_letterboxRead_due : (let s := tRings { Fn.reset with enable := 0x11, pollOut := true }
    (s.fn 1).unreachable = false ∧ (s.fn 1).pollAt.toNat ≤ s.nowNat ∧ (s.fn 1).enable ≠ 0 ∧ s.served 1 = true) ∧
    (let s := tRings { Fn.reset with enable := 0x11, pollOut := true, pollAt := 5000000000001#64 }
     (s.fn 1).unreachable = false ∧ s.nowNat < (s.fn 1).pollAt.toNat) := by decide

theorem wit_descriptorFetch : (let s := tRings { Fn.reset with enable := 0x11, rings := [(0, { Ring.reset with fetching := 1 })] }
    (s.ring 1 0).stale = [] ∧ 0 < (s.ring 1 0).fetching ∧ s.ringOn 1 0 = true ∧ (s.ring 1 0).stopped = false ∧
      (s.part 0).journal.recording = false ∧ s.reservable 1 (s.recordRing 1 0 0) = true ∧ s.ringType 1 0 ≠ 1) ∧
    (let s := tRings { Fn.reset with enable := 0x11, rings := [(0, { Ring.reset with fetching := 1 }), (4, { Ring.reset with stopped := true })] }
     s.reservable 1 (s.recordRing 1 0 0) = false) ∧
    (let s := tRings { Fn.reset with enable := 0x11, rings := [(0, { Ring.reset with stale := [2] })] }
     (s.ring 1 0).stale = [2]) := by decide

theorem wit_ringEnable : (let s := tRings { Fn.reset with enable := 0x10 }
    let t := { s with regs := [(0x1020000, 64), (0x1020008, 64), (0x1020108, 3 + 8 * 4 + 4 * 256), (0x1020188, 4 + 8 * 4)] }
    s.bar0 1 = true ∧ s.ringOn 1 0 = false ∧ (1 : BitVec 16) = BitVec.ofNat 16 (2 ^ (0 : RingId).val) ∧ s.mayEnable 1 0 = false ∧
      s.ringType 1 0 ≠ 6 ∧ t.mayEnable 1 0 = true ∧ s.ringOn 1 4 = true ∧ s.driverWritten 1 4 = false ∧ s.ringWritable 1 4 = true ∧
      (∀ k, k < 16 → bitAt (0x10 : BitVec 16) k = true → s.ringType 1 k ≠ 7)) ∧
    (let s := { tRings { Fn.reset with enable := 0 } with regs := [(0x1020000, 64), (0x1020008, 64), (0x10201C8, 6 + 8 * 4)] }
     s.mayEnable 1 6 = true ∧ s.ringType 1 6 = 6 ∧ s.ringOn 1 6 = false) ∧
    (let s := { tRings { Fn.reset with enable := 0x80 } with regs := [(0x10201E8, 7 + 8 * 4)] }
     s.ringOn 1 7 = true ∧ s.ringType 1 7 = 7 ∧ bitAt (0x80 : BitVec 16) 7 = true) := by decide

theorem wit_ringDrain : (let s := tRings { Fn.reset with rings := [(0, { Ring.reset with draining := true }), (4, { Ring.reset with draining := true })] }
    (s.ring 1 4).draining = true ∧ s.driverWritten 1 4 = false ∧ (s.ring 1 4).reserved = 0 ∧ (s.ring 1 4).backlog = [] ∧
      (s.ring 1 0).draining = true ∧ s.driverWritten 1 0 = true ∧ s.ringBusy 1 0 = false ∧ s.ringWritable 1 0 = true) ∧
    (let s := tRings { Fn.reset with enable := 1, rings := [(0, { Ring.reset with fetched := [0] })] }
     s.ringOn 1 0 = true ∧ s.driverWritten 1 0 = true ∧ s.ringBusy 1 0 = true) := by decide

/-- Function 1 with a mailbox, ring 6, and one count held back of source 0x1001. -/
def tHeld : State :=
  { tReady tPart with
    regs := [(0x10201C8, 6 + 8 * 4)],
    fns := [(1, { Fn.reset with enable := 0x40, held := [{ source := 0x1001, code := 2, count := 3, first := 0, last := 0, full := false, rate := true, unlocked := false, sources := [], fatal := 0 }] })] }

theorem wit_summaries : tHeld.openMailbox 1 = some 6 ∧ (tHeld.fn 1).held.length = 1 ∧ tHeld.mailboxFull 1 6 = false ∧ tHeld.bucket 0x1001 ≠ 0 ∧
    tHeld.mark 1 + 5000000 = tHeld.nowNat / 1000000 ∧ (tHeld.buckets.used.map (·.1)).Nodup ∧
    (let s := tHeld.modRing 1 6 (fun x => { x with moduleIndex := 16 })
     s.openMailbox 1 = some 6 ∧ s.mailboxFull 1 6 = true) ∧
    (let s := { tHeld with buckets := { tHeld.buckets with used := [(0x1001, tHeld.bucket 0x1001)] } }
     s.openMailbox 1 = some 6 ∧ s.mailboxFull 1 6 = false ∧ s.bucket 0x1001 = 0) := by decide

/-- Masking block 1 discards the three records held back of it, which are counted. -/
theorem test_mask_discards_held : ∃ t, exec (.evtMaskWrite 1 2) tHeld = .next t ∧ (t.fn 1).held = [] ∧ (t.fn 1).masked = 3 :=
  ⟨_, rfl, by decide⟩

theorem wit_eventRegisters : tHeld.bar0 0 = true ∧ tHeld.bar0 1 = true := by decide

/-- Line 3 pending on core 0, fast or not. -/
def tLine (fast : Bool) : State :=
  { tReady tPart with intr := { Intr.reset with lines := [(3, { IcLine.reset with masked := false, fast := fast, pending := true })] } }

theorem wit_interrupts : (tLine true).nextLine true 0 = some 3 ∧ (tLine false).nextLine false 0 = some 3 ∧
    (tLine true).nextLine false 0 = none ∧
    (let s := { tLine false with intr := { (tLine false).intr with cores := [(0, { Core.reset with inNormal := true, normalLine := 4 })] } }
     s.nextLine false 0 = some 3 ∧ (s.core 0).inNormal = true ∧ (s.core 0).normalLine ≠ 3) ∧
    (let s := { tReady tPart with intr := { Intr.reset with cores := [(0, { Core.reset with inFast := true })] } }
     (s.core 0).inFast = true ∧ (s.core 0).fastSince.toNat + 2000 < s.nowNat) := by decide

theorem test_claim_returns_the_line : ∃ t, exec (.evtIcClaim 0) (tLine false) = .next t ∧ t.out = [.value 3] ∧ (t.icLine 3).active = true :=
  ⟨_, rfl, by decide⟩

def tThrottle (x : Intr) : State := { tReady tPart with intr := x }

theorem wit_throttle : (tThrottle Intr.reset).intr.pinLow = false ∧
    (let s := tThrottle { Intr.reset with pinLow := true }
     s.intr.pinLow ≠ s.intr.accepted ∧ s.intr.pinSince.toNat + 1000 ≤ s.nowNat ∧ s.intr.throttleFast = false ∧ s.intr.lastAssert = none) ∧
    (let s := tThrottle { Intr.reset with pinLow := true, lastAssert := some 4999999500000#64 }
     s.intr.lastAssert = some 4999999500000#64 ∧ s.nowNat < (4999999500000#64 : W64).toNat + 1000000) ∧
    (let s := tThrottle { Intr.reset with throttleFast := true }
     s.intr.throttleFast = true ∧ s.intr.lastEdge.toNat + 1000000 ≤ s.nowNat) ∧
    (let s := tThrottle { Intr.reset with throttle := true }
     s.intr.throttle = true ∧ s.intr.throttleStuck = false ∧ s.intr.since.toNat + 10000000000 ≤ s.nowNat) ∧
    (let s := tThrottle { Intr.reset with throttleStuck := true }
     s.intr.throttle = false ∧ s.intr.since.toNat + 1000000000 ≤ s.nowNat) := by decide

/-! ### Partitions, losses, errors, repairs, sieves -/

/-- Slots 0 and 1 with the registers of a partition: one share and one channel group each (13 R335). -/
def tSlots : State :=
  { tReady tPart with regs := [(0x60000, 1), (0x60008, 0xFF), (0x61000, 2), (0x61008, 0x100)] }

theorem wit_partitionCommands : tSlots.partCtl.busy = false ∧ tSlots.firmwareUp = true ∧
    tSlots.partStatus 1 1 (tSlots.readSlot 1 1).want true = 0 ∧ tSlots.partStatus 0 1 (tSlots.readSlot 0 1).want true = 1 ∧
    tSlots.partStatus 0 2 (tSlots.readSlot 0 2).want true = 0 ∧ tSlots.partStatus 1 2 (tSlots.readSlot 1 2).want true = 1 ∧
    tSlots.partStatus 0 3 (tSlots.readSlot 0 3).want true = 0 ∧ tSlots.partStatus 1 3 (tSlots.readSlot 1 3).want true = 1 := by
  decide +kernel

/-- A partition command of slot 0 is under way. -/
def tCommand (op : Nat) (m : PartMode) : State :=
  { tReady { tPart with mode := m } with partCtl := { PartCtl.reset with busy := true, op := op } }

theorem wit_partitionCommandComplete : (tCommand 1 .settingUp).partCtl.busy = true ∧ (tCommand 1 .settingUp).partCtl.op = 1 ∧
    (tCommand 2 .ready).partCtl.op = 2 ∧ ((tCommand 2 .ready).part 0).mode ≠ .lost ∧ ((tCommand 2 .lost).part 0).mode = .lost ∧
    (tCommand 3 .releasing).partCtl.op = 3 ∧ (tCommand 3 .releasing).sec.terminating = [] := by decide

theorem wit_quiet : (tCommand 3 .releasing).quiet 0 = true ∧
    (let s := { tReady tPart with sec := { (tReady tPart).sec with terminating := [(0, 5)] } }
     s.sec.terminating.find? (fun e => e.1 == 0) = some (0, 5) ∧ s.quiet 0 = true ∧ s.module.stage = 4) := by decide +kernel

theorem wit_wideLoss : (tReady tPart).module.electrical = .running ∧ (tReady tPart).module.stage = 4 ∧
    (let r : Repair := { pln := 3, region := 1, stage := .lost, sources := 0, finder := 0, known := false }
     let s := { tReady tPart with memory := { Memory.reset with repairs := [r] } }
     r ∈ s.memory.repairs ∧ r.stage = .lost) ∧
    (let s := { tReady tPart with module := { (tReady tPart).module with stage := 6 } }
     s.module.stage = 6) := by decide

theorem wit_ceDecay : (tReady tPart).mark 2 + 500000 = (tReady tPart).nowNat / 10000000 := by decide

theorem wit_patrol : (let s := { tReady tPart with regs := [(0x28, 0x101)] }
    bitAt (s.reg 0 0x28) 8 = true ∧ s.firmwareUp = true ∧
      s.memory.sieve.patrolAt.toNat + fld (s.reg 0 0x28) 7 0 * 3600000000000 ≤ s.nowNat) := by decide

/-- Line 3 of region 1 waits for repair. -/
def tLost (st : RepairStage) (cfg : W64) : Repair := { pln := 3, region := 1, stage := st, sources := cfg, finder := 0, known := false }

def tRepair (st : RepairStage) (cfg : W64) : State :=
  { tReady tPart with memory := { Memory.reset with regions := [(1, tReg)], repairs := [tLost st cfg] } }

theorem wit_repairs : (tRepair (.peer 0) 0).repairAt 3 false = some (tLost (.peer 0) 0) ∧
    (tRepair (.peer 0) 0).memory.resieve = [] ∧ (0 : W64).toNat + 100000 ≤ (tRepair (.peer 0) 0).nowNat ∧
    (tRepair (.peer 5000000000000) 0).nowNat < (5000000000000 : W64).toNat + 100000 ∧
    (tRepair .host 0).repairAt 3 true = some (tLost .host 0) ∧ bitAt (tLost (.peer 0) 0).sources 18 = false ∧
    bitAt (tLost (.peer 0) 0x40000).sources 18 = true ∧ (tRepair (.peer 0) 0).confidential ((tRepair (.peer 0) 0).region 1).owner = false := by
  decide

/-- A SIEVE descriptor of region 1: one line from its start (14 R366). -/
def tSieve (lines : Nat) : Line := BitVec.ofNat 512 (0x24 + 7 * 2 ^ 16 + 1 * 2 ^ 40 + lines * 2 ^ 128)

theorem wit_sieveDescriptor : (let s := tHost tPart (tSieve 1)
    (s.ring 1 0).fetched = [tSieve 1] ∧ s.ringType 1 0 = 3 ∧ lineNat (tSieve 1) 0 1 = 0x24 ∧ s.works 0 = true ∧
      s.regionSieveStatus 0 (tSieve 1) = 0 ∧ s.regionSieveStatus 0 (tSieve 1048576) = 0 ∧ s.regionSieveStatus 0 (tSieve 1048577) = 0x3C ∧
      s.regionSieveStatus 0 (tSieve 0) = 0x3D) := by decide

theorem wit_modSieveGo : (let s := { tReady tPart with regs := [(0x40, BitVec.ofNat 64 (0x24 + 7 * 2 ^ 16 + 2 ^ 32)), (0x50, 1)] }
    s.firmwareUp = true ∧ s.memory.sieve.busy = false ∧ badSieve 1 s.sieveDesc = false ∧ vStart s.sieveDesc + vLines s.sieveDesc ≤ 2 ^ 34) ∧
    badSieve 1 (tReady tPart).sieveDesc = true := by decide

theorem wit_sieveStackDone : (let j : SieveJob :=
      { id := 7, fn := 0, ring := none, region := none, start := 0, lines := 1, summary := 0, startedAt := 0, stackList := [0, 1],
        summaries := [], cut := false }
    let s := { tReady tPart with memory := { Memory.reset with sieve := { Memory.reset.sieve with queue := [j] } } }
    s.memory.sieve.queue = [j] ∧ j.stackList.head? = some 0 ∧ s.firmwareUp = true ∧ j.stackList.drop 1 ≠ []) := by decide

theorem wit_partitionCommand_waits : (tReady tPart).partCtl.busy = false ∧
    (let s := { tCommand 3 .releasing with
        quarters := [(0, { inService := 312, qbuf := [], cores := 0xF, restStep := 0 })],
        clusters := [(0, { tJobCl with load := some { op := 0, d := 0, addr := 0, b := 0, cmp := 0, scope := 0, pc := 0 } })] }
     s.partCtl.op = 3 ∧ s.quiet s.partCtl.partition = false) := by decide +kernel

theorem wit_wideLoss_more : (let s := { tReady tPart with memory := { Memory.reset with fwLost := true } }
    s.memory.fwLost = true) ∧
    (let s := { tCommand 3 .releasing with module := { (tReady tPart).module with stage := 6 } }
     s.module.stage = 6 ∧ (s.part 0).mode = .releasing ∧ s.sec.terminating = [] ∧ s.partCtl.busy = true) := by decide

theorem wit_modSieveGo_more : (let s := { tReady tPart with memory := { Memory.reset with sieve := { Memory.reset.sieve with busy := true } } }
    s.firmwareUp = true ∧ s.memory.sieve.busy = true) ∧
    (let s := { tReady tPart with regs := [(0x40, BitVec.ofNat 64 (0x24 + 7 * 2 ^ 16 + 2 ^ 32)), (0x48, 1), (0x50, BitVec.ofNat 64 (2 ^ 34))] }
     badSieve 1 s.sieveDesc = false ∧ 2 ^ 34 < vStart s.sieveDesc + vLines s.sieveDesc) := by decide

/-! ### Motra -/

/-- This module is 5, locked; port 0 is enabled, up on four lanes to module 6, with a session; partition 0 holds it. -/
def tPort (x : Port) (y : Session) : State :=
  { tMem (tReady tPart) with
    regs := [(0x71030, 1), (0x72000, 1)],
    links := { Links.reset with moduleId := 5, idLock := true, ports := [(0, x)], sessions := [(6, y)] } }

def tUp : Port := { Port.reset with mode := .up, lanes := 0xF, peer := 6, trainings := 1 }

def tSession : Session := { Session.reset with up := true }

theorem wit_ports : (tPort Port.reset Session.reset).bar0 0 = true ∧ ((tPort Port.reset Session.reset).port 0).mode ≠ .disabled ∧
    (tPort Port.reset Session.reset).links.idLock = true ∧ (tPort Port.reset Session.reset).portEnabled 0 = true ∧
    (tReady tPart).links.idLock = false ∧
    (let x := { Port.reset with mode := .training, trainings := 1 }
     let s := tPort x Session.reset
     (s.port 0).mode = .training ∧ (s.port 0).test = none ∧ laneMap ((1 : BitVec 5) &&& ~~~x.marked) = 0 ∧
      laneMap ((0x1D : BitVec 5) &&& ~~~x.marked) = 0x1D ∧ laneMap (3 : BitVec 5) ≠ 0 ∧ (s.port 0).isUp = false ∧
      (s.port 0).trainingDue = true ∧ s.module.electrical = .running ∧ (s.port 0).since.toNat + 50000000 ≤ s.nowNat ∧ (s.port 0).failures < 2) ∧
    (let s := tPort { Port.reset with mode := .training, trainings := 3, failures := 2 } Session.reset
     (s.port 0).trainingDue = true ∧ (s.port 0).failures = 2) ∧
    (let s := tPort { Port.reset with mode := .training, trainings := 1, since := 5000000000000#64 } Session.reset
     (s.port 0).trainingDue = true ∧ s.nowNat < (s.port 0).since.toNat + 50000000) ∧
    (let s := tPort tUp tSession
     (s.port 0).isUp = true ∧ bitAt (s.port 0).lanes 3 = true ∧ bitAt (s.port 0).marked 3 = false ∧ (s.port 0).peer < 512 ∧
      (s.session (s.port 0).peer).ready = true) ∧
    (let s := tPort { tUp with markDue := some 0 } tSession
     (s.port 0).markDue = some 0 ∧ s.links.sent.any (fun w => w.port == some 0 && bitAt w.header 4) = false) := by decide

/-- A WRITE of module 5 to module 6 for copy 3, on a port or waiting for one. -/
def tSent (port : Option Nat) (tries : Nat) : Sent :=
  { tag := 9, dest := 6, partition := 0, copy := some 3, repair := none, typ := 1, header := frameHeader 1 0 1 5 6 9 0 0, payload := [0],
    port := port, since := 0, tries := tries }

def tWait (w : Sent) : State := { tPort tUp tSession with links := { (tPort tUp tSession).links with sent := [w] } }

theorem wit_packetTimeouts : (∀ tries, tries ∈ [1, 2] →
      (tWait (tSent (some 0) tries)).links.sent.find? (fun w => w.tag == 9 && w.port.isSome) = some (tSent (some 0) tries) ∧
      (tSent (some 0) tries).typ ≠ 7 ∧ (tSent (some 0) tries).since.toNat + 100000 ≤ (tWait (tSent (some 0) tries)).nowNat) ∧
    tSent none 1 ∈ (tWait (tSent none 1)).links.sent ∧ (tSent none 1).copy = some 3 ∧ (tSent none 1).port = none ∧
    (tSent none 1).since.toNat + 50000000 ≤ (tWait (tSent none 1)).nowNat := by decide

theorem wit_sessions : (let s := tPort tUp { Session.reset with retryAt := some 0 }
    (s.session 6).retryAt = some 0 ∧ (0 : W64).toNat ≤ s.nowNat ∧ s.portTo 6 = some 0) ∧
    (let s := tPort { Port.reset with reason := 4, peer := 6 } { Session.reset with retryAt := some 0, portsDown := some 0 }
     s.portTo 6 = none ∧ s.links.idLock = true ∧ (s.session 6).portsDown = some 0 ∧ (0 : W64).toNat + 1000000000 ≤ s.nowNat) := by decide

/-- A protected frame from module 6. -/
def tFrame (typ addr : Nat) (payload : List Line) : Frame :=
  { header := frameHeader typ 0 payload.length 6 5 9 addr 0, payload := payload, tagOk := true }

theorem wit_frames_accepted : ∀ f, f ∈ [(1, tFrame 1 64 [7]), (2, tFrame 2 64 []), (3, tFrame 3 0 [7]), (4, tFrame 4 64 [1]),
      (5, tFrame 5 0 []), (6, tFrame 6 0 []), (7, tFrame 7 1 []), (8, tFrame 8 0 [0]), (9, tFrame 9 1 []), (9, tFrame 9 2 [])] →
    (let s := tPort tUp tSession
     (s.port 0).isUp = true ∧ s.headerOk f.2 f.1 = true ∧ (s.session f.2.src).up = true ∧ f.2.tagOk = true ∧
      (s.session f.2.src).fresh f.2.counter = true ∧ s.portOwner 0 = some 0 ∧ s.replaying 0 = false ∧
      s.journalRoom 0 (1 + f.2.payload.length) = true ∧ s.headerOk f.2 (f.1 + 1) = false) := by decide

theorem wit_frames_write_read_atomic : (let s := (tPort tUp tSession).taken (tFrame 1 64 [7]) 0
    (tFrame 1 64 [7]).addr / 2 ^ 40 = 0 ∧ s.frameLines 0 64 1 = some [(1, s.region 1 |>.place 64)] ∧
      s.spotWritable 0 (.dev 1 (s.region 1 |>.place 64)) = true ∧ s.frameLines 0 67108864 1 = none ∧ s.frameLines 0 (67108864 - 64) 2 = none ∧
      (s.session 6).atomics = [] ∧ s.translate 0 64 = some (1, s.region 1 |>.place 64) ∧ (64 : Nat) % 4 = 0 ∧ fld (3 : Line) 3 0 ≤ 3) := by
  decide

theorem wit_frames_collWrite : (tPort tUp tSession).collWrite 0 0 64 [7] = none := rfl

theorem wit_frames_read : ∃ a, ((tPort tUp tSession).taken (tFrame 2 64 []) 0).readPlns 0 [1] = (a, some [0]) := ⟨_, rfl⟩

/-- Answers that belong to a packet: a WRITE for 5, a READ for 3, a REPAIR for 3 and 6. -/
def tAsked (typ : Nat) : State := tWait { tSent (some 0) 1 with typ := typ, repair := if typ = 7 then some 3 else none }

theorem wit_frames_answers : (tAsked 1).asked (tFrame 5 0 []) [1, 4] ≠ none ∧ (tAsked 2).asked (tFrame 5 0 []) [1, 4] = none ∧
    (tAsked 2).asked (tFrame 3 0 [7]) [7] = none ∧ ((tAsked 2).asked (tFrame 3 0 [7]) [2]).isSome = true ∧
    ((tAsked 7).asked (tFrame 3 0 [7]) [7]).isSome = true ∧ ((tAsked 7).asked (tFrame 6 0 []) [7]).isSome = true ∧
    ((tAsked 2).asked (tFrame 6 0 []) [1, 2, 4]).isSome = true := by decide

theorem wit_frames_repair : (let r := { tReg with w0 := setFld (setFld tReg.w0 4 4 1) 5 5 1 }
    let s := { tPort tUp tSession with memory := { Memory.reset with regions := [(1, r)] } }
    (s.region 1).valid = true ∧ (s.region 1).st = 2 ∧ (s.region 1).locked = true ∧ (s.region 1).sharedImm = true ∧
      (s.region 1).readable 0 = true ∧ s.keyed (s.region 1) = true ∧ 64 * ((tFrame 7 1 []).addr / 256) < 67108864 * (s.region 1).size ∧
      (tFrame 7 1 []).addr % 256 = 1) ∧ tReg.locked = false := by decide

theorem wit_frames_session : (let s := tPort tUp { Session.reset with stage := 1 }
    (s.port 0).isUp = true ∧ s.headerOk (tFrame 10 0 [1]) 10 = true ∧ (s.session (tFrame 10 0 [1]).src).stage = 1) ∧
    2 ≤ ({ Session.reset with stage := 2 } : Session).stage := by decide

theorem test_bad_header_is_discarded : ∃ t, exec (.write 0 (tFrame 2 64 [])) (tPort tUp tSession) = .next t ∧
    (t.port 0).discarded = 1 ∧ t.out = [] := ⟨_, rfl, by decide⟩

/-- Packets, sessions and waits whose time has not come. -/
theorem wit_not_due : (let w := { tSent (some 0) 1 with since := 5000000000000#64 }
    (tWait w).links.sent.find? (fun w => w.tag == 9 && w.port.isSome) = some w ∧ (tWait w).nowNat < w.since.toNat + 100000) ∧
    (let s := tPort { Port.reset with reason := 4, peer := 6 } { Session.reset with retryAt := some 5000000000001#64, portsDown := some 5000000000000#64 }
     s.nowNat < (5000000000001 : W64).toNat ∧ (s.session 6).retryAt = some 5000000000001#64 ∧ (s.session 6).portsDown = some 5000000000000#64 ∧
      s.portTo 6 = none ∧ s.nowNat < (5000000000000 : W64).toNat + 1000000000) := by decide

/-- A frame with no session, one on a port that no partition holds, and one for a partition that replays. -/
theorem wit_frames_refused : (let s := tPort tUp Session.reset
    (s.port 0).isUp = true ∧ s.headerOk (tFrame 1 64 [7]) 1 = true ∧ (s.session 6).up = false ∧ Enters s 0 (tFrame 1 64 [7]) 0) ∧
    (let s := { tPort tUp tSession with parts := [] }
     s.portOwner 0 = none ∧ s.headerOk (tFrame 2 64 []) 2 = true ∧ (s.session 6).fresh 0 = true) ∧
    (let s := (tPort tUp tSession).modPart 0 (fun x => { x with journal := { x.journal with replay := 1 } })
     s.portOwner 0 = some 0 ∧ s.replaying 0 = true) ∧
    (let s := { tPort tUp tSession with memory := { Memory.reset with regions := [(1, { tReg with w0 := setFld tReg.w0 5 5 1 })] } }
     s.frameLines 0 64 1 = some [(1, s.region 1 |>.place 64)] ∧ s.spotWritable 0 (.dev 1 (s.region 1 |>.place 64)) = false) ∧
    fld (4 : Line) 3 0 = 4 ∧ (tPort tUp tSession).translate 0 67108864 = none := by
  refine ⟨⟨by decide, by decide, by decide, ?_⟩, by decide, by decide, by decide, by decide, by decide⟩
  unfold Enters; decide

/-- EVENT 1 has the port trained again, which drives its lanes. -/
theorem test_event_1_trains : ∃ t, exec (.event 0 (tFrame 9 1 [])) (tPort tUp tSession) = .next t ∧ (t.port 0).mode = .training ∧
    t.lane 0 4 = .driven := ⟨_, rfl, by decide, by decide⟩

theorem test_lanes : (tPort tUp tSession).lane 0 3 = .driven ∧ (tPort tUp tSession).lane 0 4 = .idle ∧
    (tPort Port.reset tSession).lane 0 0 = .terminated ∧ (tReady tPart).lane 0 0 = .highZ := by decide

/-! ### Security. What the published algorithms decide (a signature, a digest) is opaque, so witnesses of those clauses take it as a
premise on a concrete image. -/

/-- The ready module with a security core that serves. -/
def tSec (x : Part) (f : Sec → Sec) : State :=
  let s := { tReady x with parts := [(0, x)] }
  { s with sec := f { s.sec with alias_ := true } }

/-- An operation under way. -/
def tOp (op arg : Nat) : State :=
  tSec tPart (fun x => { x with busy := true, op := some { op := op, arg := BitVec.ofNat 512 arg, nonce := none } })

theorem wit_secBegins : (tSec tPart id).secServes = true ∧ (tSec tPart id).bar0 0 = true ∧ (tSec tPart id).sec.busy = false ∧
    (tOp 2 0).secServes = true ∧ (tOp 2 0).bar0 0 = true ∧ (tOp 2 0).sec.busy = true := by decide

/-- A firmware image of target 0, version 1, with no bytes after its header. -/
def tFirmware : List Byte := ascii "CNFW" ++ toBytes 1 0 ++ toBytes 3 0 ++ toBytes 4 1 ++ List.replicate 2472 0

theorem wit_update : (let s := tOp 2 (2484 * 2 ^ 32)
    ∃ o, s.sec.op = some o ∧ o.op = 2 ∧ s.sec.opening = false ∧ s.sec.waitingReports = [] ∧ lineNat o.arg 4 4 ≤ tFirmware.length ∧
      zeroBytes o.arg 1 4 = true ∧ zeroBytes o.arg 16 64 = true ∧ lineNat o.arg 0 1 ≤ 2 ∧
      imageLayout 0 (tFirmware.take (lineNat o.arg 4 4)) = true ∧ imageLayout 1 (tFirmware.take (lineNat o.arg 4 4)) = false ∧
      s.sec.flash.floor 0 ≤ imageVersion (tFirmware.take (lineNat o.arg 4 4))) :=
  ⟨_, rfl, by decide +kernel⟩

theorem wit_update_library : (let s := tOp 2 (3 + 2484 * 2 ^ 32)
    ∃ o, s.sec.op = some o ∧ o.op = 2 ∧ lineNat o.arg 4 4 ≤ tFirmware.length ∧ zeroBytes o.arg 1 4 = true ∧
      zeroBytes o.arg 16 64 = true ∧ lineNat o.arg 0 1 = 3 ∧ s.anyTdiHeld = false) ∧
    (tSec { tPart with tdi := .locked, applied := { tPart.applied with confidential := true } } id).anyTdiHeld = true :=
  ⟨⟨_, rfl, by decide +kernel⟩, by decide⟩

theorem wit_commitFloor : ∃ o, (tOp 3 2).sec.op = some o ∧ o.op = 3 ∧ lineNat o.arg 0 1 ≤ 7 ∧ zeroBytes o.arg 1 64 = true ∧
    (tOp 3 2).runningVersion (lineNat o.arg 0 1) = some 0 := ⟨_, rfl, by decide⟩

theorem test_commit_takes_the_highest_floor : ∃ t, exec (.secOperationComplete none none true)
    (let s := tOp 3 2
     { s with sec := { s.sec with versions := [(2, 7)], flash := { s.sec.flash with floors := [(2, 9)] } } }) = .next t ∧
    t.sec.flash.floor 2 = 9 ∧ t.sec.busy = false ∧ t.sec.status = 0 := ⟨_, rfl, by decide⟩

/-- An ENROL of slot 1 with both rights, authorised by slot 2 where slots are filled. -/
def tEnrol (op : Nat) (fill : List (Nat × Option OwnerKey)) : State :=
  let s := tSec tPart (fun x => { x with
    busy := true, op := some { op := op, arg := BitVec.ofNat 512 (1 + 3 * 2 ^ 8 + 2 * 2 ^ 16), nonce := some 5 } })
  { s with sec := { s.sec with flash := { s.sec.flash with owners := fill } } }

theorem wit_owner : (let s := tEnrol 4 []
    ∃ o, s.sec.op = some o ∧ o.op = 4 ∧ 1 ≤ lineNat o.arg 0 1 ∧ lineNat o.arg 0 1 ≤ 4 ∧ lineNat o.arg 1 1 ≤ 3 ∧ lineNat o.arg 2 1 ≤ 4 ∧
      zeroBytes o.arg 3 8 = true ∧ zeroBytes o.arg 24 64 = true ∧ s.slotRefused 4 1 = false ∧ s.sec.flash.filled = [] ∧
      1312 ≤ (List.replicate 1312 (0 : Byte)).length) ∧
    (let s := tEnrol 4 [(2, some { key := [1], rights := 0 })]
     s.sec.flash.filled ≠ [] ∧ s.slotRefused 4 1 = false ∧ s.slotRefused 4 2 = true ∧ s.sec.flash.owner 2 = some { key := [1], rights := 0 } ∧
       bitAt (0 : Byte) 0 = false) ∧
    (let s := tEnrol 5 [(1, some { key := [1], rights := 0 }), (2, some { key := [1], rights := 1 })]
     s.slotRefused 5 1 = false ∧ s.slotRefused 5 2 = true ∧ s.slotRefused 5 3 = true ∧ s.sec.flash.owner 2 = some { key := [1], rights := 1 } ∧
       bitAt (1 : Byte) 0 = true) :=
  ⟨⟨_, rfl, by decide⟩, by decide, by decide⟩

theorem wit_unlock : ∃ o, (tOp 6 0).sec.op = some o ∧ o.op = 6 ∧ (tOp 6 0).sec.opening = false ∧ (tOp 6 0).sec.waitingReports = [] ∧
    (tOp 6 0).tokenStatus o none ≠ 0 ∧ (tOp 6 0).sec.failedUnlocks < 16 ∧ (tOp 6 0).sec.terminating = [] ∧
    (∀ p, p < 8 → (tOp 6 0).confidential p = false) ∧
    (tSec { tPart with applied := { tPart.applied with confidential := true } } id).confidential 0 = true := ⟨_, rfl, by decide⟩

theorem test_seventeenth_unlock_is_refused : ∃ t, exec (.secOperationComplete none none true)
    (let s := tOp 6 0
     { s with sec := { s.sec with failedUnlocks := 16 } }) = .next t ∧ t.sec.status = 8 ∧ t.sec.failedUnlocks = 17 := ⟨_, rfl, by decide⟩

theorem wit_libraryLoad : (let s := tSec tPart (fun x => { x with loading := true })
    s.sec.loading = true ∧ s.engines.any (fun e => e.2.busy) = false) := by decide

theorem wit_messages : (tSec tPart id).secServes = true ∧ reportOf 0 = none ∧ reportOf 0x10 = some none ∧ reportOf 8 = some (some 7) ∧
    (tSec tPart id).sec.opening = false ∧ (tSec tPart id).sec.op = none ∧ (tSec tPart (fun x => { x with opening := true })).sec.opening = true ∧
    (tSec tPart (fun x => { x with spdm := true })).sec.spdm = true := by decide

theorem wit_tdi : (∀ m, m ∈ [TdiMode.unlocked, .locked] → (let s := tSec { tPart with tdi := m } (fun x => { x with spdm := true })
      s.tdisp 1 = true ∧ (s.part 0).tdi = m)) ∧
    (tSec { tPart with tdi := .running } id).confidential 0 = false ∧
    (let s := tSec { tPart with tdi := .running, applied := { tPart.applied with confidential := true } } id
     (s.part 0).tdi = .running ∧ s.confidential 0 = true ∧ s.sec.terminating = []) := by decide

theorem wit_debugPort : (tSec tPart (fun x => { x with debugOpen := true })).tapOpen = true := by decide

/-- A NONCE whose block's other bytes are zero, one whose are not, and one whose block the host could not deliver. -/
theorem wit_nonce : (some (7 : Line)).any (fun l => zeroBytes l 32 64) = true ∧
    (some (BitVec.ofNat 512 (2 ^ 256) : Line)).any (fun l => zeroBytes l 32 64) = false ∧ (none : Option Line).any (fun l => zeroBytes l 32 64) = false ∧
    (let s := tSec tPart (fun x => { x with busy := true, lost := 6 })
     s.sec.busy = true ∧ s.sec.op = none) ∧
    (∃ o, (tOp 1 0).sec.op = some o ∧ o.op = 1) := ⟨by decide, by decide, by decide, by decide, _, rfl, rfl⟩

theorem test_bad_nonce_block : ∃ t, exec (.nonce 0 ⟨some (BitVec.ofNat 512 (2 ^ 256)), 9⟩) (tSec tPart id) = .next t ∧ t.sec.nonce = none ∧
    t.sec.busy = true ∧ t.out = [] := ⟨_, rfl, by decide⟩

theorem wit_library_refused : ∃ st, (tOp 2 0).sec.flash.checkLibrary [] = .inr st := ⟨1, by decide +kernel⟩

theorem wit_notServed : (tReady tPart).secServes = false ∧ (tReady tPart).tapOpen = false ∧ (tReady tPart).tdisp 1 = false ∧
    ((tReady tPart).part 0).tdi = .unlocked ∧
    (let s := tSec tPart (fun x => { x with loading := false })
     s.sec.loading = false) := by decide

/-! ### Power, heat and clocks -/

/-- The module in another electrical state. -/
def tModule (f : Module → Module) : State := { tReady tPart with module := f (tReady tPart).module }

theorem wit_power : (tModule (fun m => { m with electrical := .unpowered })).module.latched = false ∧
    (tModule (fun m => { m with electrical := .unpowered })).module.overVolt = false ∧
    (tModule (fun m => { m with electrical := .unpowered })).powered = false ∧
    (tModule (fun m => { m with electrical := .unpowered, latched := true })).module.latched = true ∧
    (tModule (fun m => { m with electrical := .unpowered, overVolt := true })).module.overVolt = true ∧
    (tModule (fun m => { m with electrical := .absent })).module.electrical = .absent ∧ (tReady tPart).powered = true ∧
    (tReady tPart).sec.op = none ∧ State.reset.module.electrical = .inReset ∧ State.reset.module.stage = 0 ∧
    State.reset.module.lastReset = 0 := by decide

theorem test_power_up_at_57_volts : (∃ t, exec (.powerUp 57000) (tModule (fun m => { m with electrical := .unpowered })) = .next t ∧
    t.module.electrical = .inReset ∧ t.power.inputLow = true) ∧
    (∃ t, exec (.powerUp 56999) (tModule (fun m => { m with electrical := .unpowered })) = .next t ∧ t.module.electrical = .unpowered) :=
  ⟨⟨_, rfl, by decide⟩, ⟨_, rfl, by decide⟩⟩

theorem wit_rations : (tReady tPart).rationing = true ∧ (tReady tPart).power.windowAt = none ∧ (tReady tPart).power.profile = 0 ∧
    fld ((tReady tPart).reg 0 0x80000) 1 0 = 0 ∧ flt (natW 3600) (natW 3601) = true ∧ flt (natW 3600) (natW 3600) = false ∧
    (tReady tPart).power.calm < 99 ∧ (let s := { tReady tPart with power := { Power.reset with profile := 1 } }
      s.power.profile ≠ 0) ∧ (let s := { tReady tPart with power := { Power.reset with windowAt := some 0 } }
      (0 : W64).toNat + 1000000 ≤ s.nowNat) := by decide +kernel

theorem wit_budget_below_floors : flt (fsub (natW 100) (fsum [natW 150])) 0 = true := by decide +kernel

/-- Rail 0 with an alert or a hold. -/
def tRail (r : Rail) : State := { tReady tPart with power := { Power.reset with rails := [(0, r)] } }

theorem wit_rails : (tReady tPart).powered = true ∧ ((tReady tPart).rail 0).alert = false ∧ 0 < ((tReady tPart).rail 0).spares ∧
    ((tRail { Rail.reset with alert := true, hold := true }).rail 0).alert = true ∧
    (let s := tRail { Rail.reset with hold := true, spares := 0 }
     (s.rail 0).hold = true ∧ (s.rail 0).alert = false ∧ (s.rail 0).since.toNat + 20000 ≤ s.nowNat ∧ (s.rail 0).spares = 0) := by decide

theorem wit_sensors : (tReady tPart).rationing = true ∧ ((tReady tPart).site 0).sampledAt = none ∧ ((tReady tPart).site 0).a.failed = false ∧
    ((tReady tPart).site 0).b.failed = false ∧ ((tReady tPart).site 0).a.reading ≠ some 1100 ∧
    ((tReady tPart).site 0).b.reading ≠ some (-200) ∧ throttlePoint 0 - 30 ≤ 1100 ∧ tripPoint 0 ≤ 1100 ∧ (970 : Int) < tripPoint 0 ∧
    ((tReady tPart).site 0).posted = false ∧ (tReady tPart).module.electrical = .running ∧ (tReady tPart).module.stage = 4 ∧
    ((tReady tPart).site 0).aOut = false := by decide

theorem test_sensor_out_of_range : ∃ t, exec (.sensorSample 0 (some 1501) (some 1500)) (tReady tPart) = .next t ∧
    (t.site 0).fault = 1 ∧ (t.site 0).b.failed = false := ⟨_, rfl, by decide +kernel⟩

theorem wit_power_otherwise : (tReady tPart).module.electrical ≠ .unpowered ∧ (tReady tPart).module.electrical ≠ .inReset ∧
    (tReady tPart).module.electrical ≠ .absent ∧ (tModule (fun m => { m with electrical := .unpowered })).powered = false ∧
    (tModule (fun m => { m with electrical := .absent })).module.electrical = .absent := by decide

theorem wit_not_due_power : (let s := { tReady tPart with power := { Power.reset with windowAt := some 5000000000000#64, calm := 99, sites := [(0, { SensorSite.reset with sampledAt := some 5000000000000#64 })] } }
    s.power.windowAt = some 5000000000000#64 ∧ s.nowNat < (5000000000000#64 : W64).toNat + 1000000 ∧ 99 ≤ s.power.calm ∧
      (s.site 0).sampledAt = some 5000000000000#64 ∧ s.nowNat < (5000000000000#64 : W64).toNat + intervalNs (s.site 0).interval) ∧
    (let s := tRail { Rail.reset with alert := true, hold := false }
     (s.rail 0).alert = true ∧ (s.rail 0).hold = false) := by decide

/-! ### Module time -/

/-- The running module with another time base. -/
def tTime (f : TimeBase → TimeBase) : State :=
  { tReady tPart with
    regs := [(0x20, BitVec.ofNat 64 (10 + 2 ^ 10))], module := { (tReady tPart).module with ptmEnable := true }, time := f (tReady tPart).time }

theorem wit_time : (tTime id).time.running = true ∧ (tTime id).module.ptmEnable = true ∧ (tTime id).time.ptmAt = none ∧
    (tTime id).time.mode = .locked ∧ (tTime id).pulseInUse = false ∧
    (tTime id).time.lastSample.toNat + max 1000000000 (3000000 * (tTime id).ptmInterval) ≤ (tTime id).nowNat ∧
    (tTime (fun x => { x with ptmOut := true, mode := .unknown })).time.ptmOut = true ∧
    (tTime (fun x => { x with ptmOut := true, mode := .holdover, inRow := 2 })).time.mode = .holdover ∧
    (tTime (fun x => { x with ptmOut := true, lastPulse := some x.now })).pulseInUse = true ∧ (tTime id).pulseEn = true ∧
    (tTime (fun x => { x with lastPulse := some 0 })).time.lastPulse = some 0 ∧ (0 : W64).toNat + 3000000000 ≤ (tTime id).nowNat ∧
    (tTime id).nowNat % 1000000000 ≤ 100000 ∧ (tTime id).time.lastPulse = none ∧
    (tTime (fun x => { x with now := 500000000 })).nowNat % 1000000000 = 500000000 := by decide

theorem test_first_sample_sets_the_time : ∃ t, exec (.ptmSample 77) (tTime (fun x => { x with ptmOut := true, mode := .unknown })) = .next t ∧
    t.time.now = 77 ∧ t.time.mode = .locked := ⟨_, rfl, by decide⟩

theorem test_pulse_far_from_a_second_is_counted : ∃ t, exec .timePulseEdge (tTime (fun x => { x with now := 500000000 })) = .next t ∧
    t.intr.extraPulses = 1 ∧ t.time.lastPulse = none := ⟨_, rfl, by decide⟩

theorem wit_time_otherwise : (tTime (fun x => { x with running := false })).time.running = false ∧
    (tTime (fun x => { x with ptmAt := some x.now })).nowNat < (5000000000000#64 : W64).toNat + 1000000 * (tTime id).ptmInterval ∧
    (tTime (fun x => { x with lastSample := x.now })).nowNat < (5000000000000#64 : W64).toNat + max 1000000000 (3000000 * (tTime id).ptmInterval) ∧
    (tTime (fun x => { x with lastPulse := some x.now })).nowNat < (((tTime (fun x => { x with lastPulse := some x.now })).time.lastPulse).getD 0).toNat + 3000000000 ∧
    ((tTime id).part 0).mode ≠ .empty ∧ (tReady tPart).pulseEn = false := by decide

/-! ### Resets and boot -/

theorem wit_resets : (tReady tPart).powered = true ∧ (tReady tPart).sec.op = none ∧ (tReady tPart).sec.opening = false ∧
    (tReady tPart).module.electrical = .running ∧ (tReady tPart).module.stage = 4 ∧ fld (0x5A5A0001 : W64) 31 16 = 0x5A5A ∧
    bitAt (0x5A5A0001 : W64) 0 = true ∧ bitAt (0x5A5A0002 : W64) 0 = false ∧ bitAt (0x5A5A0002 : W64) 1 = true ∧
    fld (0x5A5B0001 : W64) 31 16 ≠ 0x5A5A ∧ (tModule (fun m => { m with electrical := .unpowered })).powered = false ∧
    (tReady tPart).present 1 = true ∧ (tReady tPart).confidential 0 = false ∧ ((tReady tPart).part 0).mode = .ready ∧
    ((tReady { tPart with tdi := .locked }).part 0).tdi = .locked := by decide

theorem test_mod_reset_needs_its_key : ∃ t, exec (.modResetCold 0 0x5A5B0001) (tReady tPart) = .next t ∧ t.module.stage = 4 :=
  ⟨_, rfl, by decide⟩

/-- A module that waits for its boot; bank B of each target names version 1 and bank A version 0. -/
def tBoot (img : Nat → List Byte) : State :=
  { State.reset with sec := { State.reset.sec with flash := { Flash.reset with
      banks := [(0, some []), (1, some (img 0)), (2, some []), (3, some (img 1)), (4, some []), (5, some (img 2))] } } }

/-- A boot whose self-tests pass. -/
def tGood : BootResult :=
  { identityOk := true, protectedOk := true, fabricOk := true, failedClusters := [], failedCores := [], failedDies := [], failedLanes := [],
    failedSensors := [], bootId := 1, ga := 0 }

theorem wit_boot_stops : (let s := tBoot (fun _ => List.replicate 8 0 ++ [1])
    s.powered = true ∧ s.module.stage = 0 ∧ s.module.booted = false ∧
      (∀ k, k < 3 → imageVersion (s.sec.flash.bank k 0) ≠ imageVersion (s.sec.flash.bank k 1)) ∧ (∀ tie, s.sec.flash.pick 0 tie = none) ∧
      tGood.identityOk = true ∧ tGood.protectedOk = true) := by decide +kernel

/-- An image of a target, version 1, with no bytes after its header. -/
def tImageOf (target : Nat) : List Byte := ascii "CNFW" ++ toBytes 1 target ++ toBytes 3 0 ++ toBytes 4 1 ++ List.replicate 2472 0

theorem bank_of_boot (img : Nat → List Byte) (k : Nat) (h : k < 3) :
    (tBoot img).sec.flash.bank k 0 = [] ∧ (tBoot img).sec.flash.bank k 1 = img k ∧ (tBoot img).sec.flash.floor k = 0 := by
  have : k = 0 ∨ k = 1 ∨ k = 2 := by omega
  rcases this with rfl | rfl | rfl <;> exact ⟨rfl, rfl, rfl⟩

theorem layout_of_image (k : Nat) (h : k < 3) : imageLayout k (tImageOf k) = true ∧ imageVersion (tImageOf k) = 1 ∧ imageVersion [] = 0 := by
  have : k = 0 ∨ k = 1 ∨ k = 2 := by omega
  rcases this with rfl | rfl | rfl <;> decide +kernel

/-- Where the three signatures hold, bank B of each target boots. -/
theorem wit_boot_runs (k : Nat) (h : k < 3) (tie : Bool) (sig : imageSigned (tImageOf k) = true) :
    (tBoot tImageOf).sec.flash.pick k tie = some 1 := by
  obtain ⟨a, b, f⟩ := bank_of_boot tImageOf k h
  obtain ⟨l, v, z⟩ := layout_of_image k h
  have first : (if imageVersion [] = imageVersion (tImageOf k) then b2n tie else b2n (decide (imageVersion [] < imageVersion (tImageOf k)))) = 1 := by
    rw [v, z]; cases tie <;> decide
  simp only [Flash.pick, a, b, first]
  simp [Flash.passes, f, l, sig]

theorem wit_firmwareReady : (tModule (fun m => { m with stage := 7 })).powered = true ∧
    (let s := tModule (fun m => { m with stage := 3, booted := true })
     s.module.stage = 3 ∧ s.module.booted = true) ∧ (tModule (fun m => { m with perst := true, electrical := .inReset })).module.perst = true := by
  decide

theorem wit_configurationWrite : (tReady tPart).present 3 = true ∧
    (let s := tModule (fun m => { m with vfEnable := false })
     s.present 3 = false) := by decide

theorem wit_resets_more : (let s := tReady tPart
    { s with sec := { s.sec with opening := true } }.sec.opening = true) ∧
    (tReady { tPart with applied := { tPart.applied with confidential := true } }).confidential 0 = true ∧
    (tReady tPart).sec.terminating = [] ∧ tOn.present 9 = false ∧ (tReady tPart).module.perst = false ∧
    ({ tBoot (fun _ => []) with module := { Module.reset with booted := true } } : State).module.booted = true := by decide

/-- A warm reset ends a test and enables a port again. -/
theorem test_warm_reset_ends_tests : ∃ t, exec (.modResetWarm 0 0x5A5A0002) (tPort { Port.reset with mode := .disabled, test := some 1 } Session.reset) = .next t ∧
    (t.port 0).test = none ∧ (t.port 0).mode = .training := ⟨_, rfl, by decide +kernel⟩

/-! ### Spares and tests -/

theorem wit_spares : (tReady tPart).rationing = true ∧ (tReady tPart).bar0 0 = true ∧ (tReady tPart).spares.wearBusy = false ∧
    (let s := { tReady tPart with spares := { Spares.reset with wearBusy := true } }
     s.spares.wearBusy = true) ∧
    fld (319 * 4 : W64) 10 2 ≤ 319 ∧ 319 < fld (320 * 4 : W64) 10 2 ∧ (tReady tPart).working 319 = true ∧
    ((tReady tPart).cluster 319).marked = false ∧ bitAt (0x100 : W64) 8 = true ∧ ((tReady tPart).stack 0).spare.state = 0 ∧
    (tReady tPart).firmwareUp = true ∧ (tReady tPart).module.testedAt.toNat + 3600000000000 ≤ (tReady tPart).nowNat ∧
    (tReady tPart).idleWorking 319 = true ∧ (tReady tPart).idleWorking 0 = false := by decide +kernel

/-- Stack 0 copies a die to its spare. -/
def tSpare (st : Nat) : State :=
  { tReady tPart with stackTab := [(0, { Stack.reset with spare := { Stack.reset.spare with state := st } })] }

theorem wit_dieCopy : ((tSpare 1).stack 0).spare.state = 1 ∧ ((tSpare 1).stack 0).spare.holding = false ∧ ((tSpare 2).stack 0).spare.state ≠ 0 := by
  decide

/-- Row 0 of bank 0 with four corrections of the day. -/
def tRow : State :=
  { tReady tPart with spares := { Spares.reset with recent := (List.range 4).map (fun _ => (1073741824, (tReady tPart).time.now)) } }

theorem wit_rowRemap : (∀ i, i < 16 → tRow.lineFails i = false) ∧ 4 ≤ tRow.recentCount 1073741824 ∧
    (Tab.get (fun _ => []) (tRow.stack 0).remaps 0).length < 32 ∧ (tReady tPart).recentCount 1073741824 < 4 := by decide

/-- A pattern run of channel groups 0 and 1 of stack 2. -/
def tPattern (busy : Bool) : State :=
  { tReady tPart with spares := { Spares.reset with patBusy := busy, patCmd := BitVec.ofNat 64 (2 + 3 * 16) } }

theorem wit_pattern : (tPattern true).spares.patBusy = true ∧ fld (tPattern true).spares.patCmd 17 13 = 0 ∧
    (tPattern false).groupsTaken 0 1 = true ∧ (tPattern false).groupsTaken 2 3 = false ∧ ((tPattern false).stack 2).spare.state = 0 ∧
    ((tSpare 1).stack 0).spare.state = 1 ∧ (tSpare 1).groupsTaken 0 0 = false ∧ bitAt (2 + 3 * 16 : W64) 12 = false := by decide

/-- Port 1, which no partition holds. -/
def tTested (m : PortMode) (test : Option W64) : State :=
  { tReady tPart with
    regs := [(0x72020, 1)],
    links := { Links.reset with moduleId := 5, idLock := true, ports := [(1, { Port.reset with mode := m, test := test })] } }

theorem wit_portTest : (tTested .down none).testAllowed 1 2 = true ∧ (tTested .down none).testAllowed 1 0 = true ∧
    (tTested .up none).testAllowed 1 2 = false ∧ (tTested .down none).testAllowed 0 2 = false ∧
    ((tTested .down (some 0x1F2)).port 1).test = some 0x1F2 ∧ fld (0x1F2 : W64) 1 0 ≠ 3 ∧ bitAt (0x1F2 : W64) 4 = true := by decide

theorem wit_spares_otherwise : ({ tReady tPart with clusters := [(7, { Cluster.reset with failed := true })] } : State).working 7 = false ∧ bitAt (0 : W64) 8 = false ∧
    (let s := { tReady tPart with module := { (tReady tPart).module with testedAt := 5000000000000#64 } }
     s.nowNat < s.module.testedAt.toNat + 3600000000000) ∧
    (let s := { tReady tPart with stackTab := [(0, { Stack.reset with remaps := [(0, List.range 32)] })] }
     32 ≤ (Tab.get (fun _ => []) (s.stack 0).remaps 0).length) ∧
    (let s := { tReady tPart with mem := Tab.setList blankByte [] 0 poisonLine }
     s.lineFails 0 = true) ∧
    ((tTested .down none).port 1).test = none ∧
    fld (0xE : W64) 3 2 = 3 := by
  refine ⟨by decide, by decide, by decide, by decide, by decide +kernel, by decide, by decide⟩

theorem test_spare_fails : ∃ t, exec (.dieCopyRowsDone ⟨0, false⟩) (tSpare 1) = .next t ∧ (t.stack 0).spare.state = 3 ∧ t.spares.changes = [(8, 0)] :=
  ⟨_, rfl, by decide⟩

/-! ### The management bus and BAR0 -/

theorem wit_smbus : (tReady tPart).smbAnswers 1 = true ∧ (tReady tPart).smbAnswers 0x10 = true ∧
    (tModule (fun m => { m with stage := 3 })).smbAnswers 2 = false ∧ (tModule (fun m => { m with stage := 3 })).smbAnswers 1 = true ∧
    (tModule (fun m => { m with alert := true })).module.alert = true ∧ (tReady tPart).module.alert = false := by decide

theorem wit_registerWrite : (tReady tPart).module.electrical = .running ∧ (tReady tPart).present 0 = true ∧ (tReady tPart).present 3 = true ∧
    (tReady tPart).bar0 0 = true ∧ (tReady tPart).tdiHeld 0 = false ∧ (tReady tPart).prBusy 0 = false ∧
    slotReg 0x08 0 7 = some 7 ∧ slotReg 0x20 0 7 = none ∧ fld (16384 : W64) 14 0 ≤ 16384 ∧ 16384 < fld (16385 : W64) 14 0 ∧
    (tSec { tPart with tdi := .locked, applied := { tPart.applied with confidential := true } } id).tdiHeld 0 = true := by decide

theorem test_descriptor_word_is_read_back : ∃ t, exec (.registerWrite 0 0x40 true 0x123456789) (tReady tPart) = .next t ∧
    t.readReg 0 0x40 = 0x123456789 := ⟨_, rfl, by decide⟩

theorem test_reserved_spill_code_is_left : slotReg 0x18 0 (BitVec.ofNat 64 (3 * 2 ^ 17)) = some 0 := by decide

theorem wit_registerWrite_more : fld (0x41 : W64) 5 3 = 0 ∧ fld (0x08 : W64) 5 3 = 1 ∧ fld (0x20 : W64) 5 3 = 4 ∧ fld (0x100 : W64) 10 8 = 1 ∧
    fld (0x600 : W64) 10 8 = 6 ∧ (tReady tPart).partCtl.busy = false ∧ (tReady tPart).memory.ctl.busy = false ∧ (tReady tPart).firmwareUp = true ∧
    (tModule (fun m => { m with linkDegraded := true })).module.linkDegraded = true ∧
    (tModule (fun m => { m with linkDegraded := true })).bar0 0 = false ∧ (tModule (fun m => { m with electrical := .inReset })).smbAnswers 6 = false := by
  decide

/-- A write of PART_CMD with op 1 begins a SETUP. -/
theorem test_part_cmd_register : ∃ t, exec (.registerWrite 0 0x50000 true 0x09) tSlots = .next t ∧
    t = tSlots.partOp 0 1 1 := ⟨_, rfl, rfl⟩

/-! ### The whole machine -/

theorem wit_step : (let s : State := { tReady tPart with pending := [.idcode] }
    s.pending = .idcode :: [] ∧ (tReady tPart).pending = []) := by decide

theorem wit_invariants : Memory.wf blankByte (tReady tPart).mem = true ∧ Memory.wf blankByte [(5, 1), (9, 2)] = true ∧
    Memory.wf blankByte [(9, 1), (5, 2)] = false ∧ Memory.wf blankByte [(5, blankByte 5)] = false := by decide

theorem test_idle_step : step (tReady tPart) = .next (tReady tPart) := rfl

theorem test_decodeTableWord_spells_none : decodeTableWord 32 0 = none := rfl

/-! ### Well-formed commands: each check refuses an ill-formed one -/

/-- A packet with too many payload words, a good one, and a frame with too many lines. -/
def tLong : Packet := { w0 := 0, w1 := 0, payload := List.replicate 17 0 }
def tShort : Packet := { w0 := 0, w1 := 0, payload := List.replicate 16 0 }
def tLongFrame : Frame := { header := 0, payload := List.replicate 5 0, tagOk := true }

theorem wf_packets : [tLong, tShort].map (fun pk => [Instr.writeCr 0 .firmware pk, .start 0 .firmware pk, .suspend 0 .firmware pk,
      .resume 0 .firmware pk, .abort 0 .firmware pk, .status 0 .firmware pk, .mergeOpen 0 .firmware pk, .blank 0 .firmware pk 0 0,
      .sieve 0 .firmware pk 0 0, .level 0 .firmware pk, .pattern 0 .firmware pk 0 [], .diemap 0 .firmware pk].map Instr.wf) =
        [List.replicate 12 false, List.replicate 12 true] ∧ (Instr.pattern 0 .firmware tShort 0 [2 ^ 34]).wf = false := by decide

theorem wf_frames : [Instr.write 0 tLongFrame, .read 0 tLongFrame, .data 0 tLongFrame, .atomic 0 tLongFrame, .ack 0 tLongFrame,
    .nak 0 tLongFrame, .repair 0 tLongFrame, .coll 0 tLongFrame, .event 0 tLongFrame, .session 0 tLongFrame true].map Instr.wf =
      List.replicate 10 false := by decide

theorem wf_image (l : List Byte) (h : 1048576 < l.length) : (Instr.jobStart 0 0 (some l) none).wf = false :=
  decide_eq_false (Nat.not_le.mpr h)
theorem wf_prompt (l : List W32) (h : 1048575 < l.length) : (Instr.promptFetchComplete 0 0 (some l)).wf = false :=
  decide_eq_false (Nat.not_le.mpr h)
theorem wf_fetched (l : List Line) (h : 65536 < l.length) : (Instr.descriptorFetchComplete 0 0 (some l)).wf = false :=
  decide_eq_false (Nat.not_le.mpr h)
theorem wf_outputs (l : List ItemOutput) (h : 16384 < l.length) : (Instr.commit 0 l []).wf = false := by
  show (decide (l.length ≤ 16384) && _) = false
  rw [decide_eq_false (Nat.not_le.mpr h), Bool.false_and]
theorem wf_output : (Instr.commit 0 [{ accepted := 8, tokens := [] }] []).wf = false := by decide

theorem wf_ranges : (Instr.getCertificate 8).wf = false ∧ (Instr.getCertificate 7).wf = true ∧ (Instr.layerPacketsSend 0 256 0).wf = false ∧
    (Instr.partitionCommandComplete [1280]).wf = false ∧ (Instr.clusterRetest [1280]).wf = false ∧
    (Instr.boot { tGood with failedSensors := [272] }).wf = false ∧ (Instr.boot { tGood with failedClusters := [1280] }).wf = false ∧
    (Instr.boot tGood).wf = true := by decide

end Sys2Proof.Tests
end

section
/-! PROOF of the ration and the rails (17 R416 to R422, R426; 20 R469). A recompute is a chain of steps that touch the consumers, the
rails, the sites and their records, with one step between them that takes the new profile and sets the envelope. -/

namespace Sys2Proof.Proofs

open Sys2Proof Sys2Proof.Machine Sys2Proof.Laws

/-! ### FP32 order -/

/-- No number is below itself. -/
theorem ltEx_irrefl (a : Ex) : ltEx a a = false := by
  cases a <;> simp [ltEx]

/-- Of two numbers at most one is below the other. -/
theorem ltEx_asymm {a b : Ex} (h : ltEx a b = true) : ltEx b a = false := by
  cases a with
  | nan => simp [ltEx] at h
  | inf s => cases b <;> simp_all [ltEx]
  | fin s m e =>
    cases b with
    | nan => simp [ltEx] at h
    | inf t => simpa [ltEx] using h
    | fin t n g =>
      simp only [ltEx, decide_eq_true_eq, decide_eq_false_iff_not, min_comm g e] at h ⊢
      exact not_lt_of_gt h

/-- No zero is below another, whatever their signs. -/
theorem ltEx_zeros {a b : Ex} (ha : a.isZero = true) (hb : b.isZero = true) : ltEx a b = false := by
  unfold Ex.isZero at ha hb
  split at ha
  · split at hb
    · simp [ltEx]
    · cases hb
  · cases ha

theorem ltEx_nan_right {a b : Ex} (hb : b.isNan = true) : ltEx a b = false := by
  unfold Ex.isNan at hb
  split at hb
  · cases a <;> rfl
  · cases hb

/-- The larger of two values is not below the first. -/
theorem flt_fmax2_left (a b : W32) : flt (fmax2 a b) a = false := by
  unfold flt
  cases ha : (ex32 a).isNan with
  | true => exact ltEx_nan_right ha
  | false =>
    cases hb : (ex32 b).isNan with
    | true => simpa [fmax2, ha, hb] using ltEx_irrefl (ex32 a)
    | false =>
      simp only [fmax2, fmaxN, ha, hb, Bool.and_self, Bool.or_self, Bool.false_eq_true, if_false]
      split
      next hz =>
        simp only [Bool.and_eq_true] at hz
        obtain ⟨⟨za, zb⟩, -⟩ := hz
        split
        · exact ltEx_zeros zb za
        · exact ltEx_irrefl _
      next =>
        split
        next h => exact ltEx_asymm h
        next => exact ltEx_irrefl _

/-- A ration that a thermal factor has scaled is not below its floor (17 R426). -/
theorem scaled_not_below_floor (w f : W32) (factor : Nat) : flt (scaled w f factor) f = false := by
  unfold scaled
  split <;> exact flt_fmax2_left f _

/-! ### Folds -/

/-- What every step of a fold leaves, the fold leaves. -/
theorem foldl_keeps {σ α β : Type} (v : σ → β) (f : σ → α → σ) (keeps : ∀ u a, v (f u a) = v u) (l : List α) (s : σ) :
    v (l.foldl f s) = v s := by
  induction l generalizing s with
  | nil => rfl
  | cons a l ih => rw [List.foldl_cons, ih, keeps]

/-- What the step of an element makes true of it, and no other step ends, holds of every element after the fold. -/
theorem foldl_makes {σ α : Type} (P : α → σ → Prop) (f : σ → α → σ) (makes : ∀ u a, P a (f u a))
    (keeps : ∀ u a b, P b u → P b (f u a)) (l : List α) (s : σ) (a : α) (ha : a ∈ l) : P a (l.foldl f s) := by
  induction l using List.reverseRecOn with
  | nil => cases ha
  | append_singleton l b ih =>
    rw [List.foldl_append, List.foldl_cons, List.foldl_nil]
    rcases List.mem_append.mp ha with h | h
    · exact keeps _ _ _ (ih h)
    · rw [List.mem_singleton.mp h]
      exact makes _ _

/-! ### What the steps of a recompute leave -/

/-- A state of which only what a recompute's other steps leave is kept: memory, partitions, registers, time, the throttle input, and of
power all but the consumers, the rails, the sites and the words made of them. -/
def steady (s : State) : State :=
  { State.reset with
    mem := s.mem, parts := s.parts, regs := s.regs, time := s.time, intr := { Intr.reset with throttle := s.intr.throttle },
    power := { s.power with consumers := [], rails := [], sites := [], oc := 0, smb := [] } }

section

variable (s : State)

@[simp] theorem steady_modConsumer (c : Nat) (f : Consumer → Consumer) : steady (s.modConsumer c f) = steady s := rfl
@[simp] theorem steady_modRail (r : Nat) (f : Rail → Rail) : steady (s.modRail r f) = steady s := rfl
@[simp] theorem steady_modSite (n : Nat) (f : SensorSite → SensorSite) : steady (s.modSite n f) = steady s := rfl
@[simp] theorem steady_modQuarter (q : Nat) (f : Quarter → Quarter) : steady (s.modQuarter q f) = steady s := rfl
@[simp] theorem steady_modStack (k : Nat) (f : Stack → Stack) : steady (s.modStack k f) = steady s := rfl
theorem steady_smb (m : Tab W64) : steady { s with power := { s.power with smb := m } } = steady s := rfl

@[simp] theorem steady_post (fn block code inst arg : Nat) : steady (s.post fn block code inst arg) = steady s := by
  obtain ⟨f, o, u, b, h⟩ := onlyHost_post s fn block code inst arg
  rw [h]
  rfl

@[simp] theorem steady_levelTo (k l : Nat) : steady (s.levelTo k l) = steady s := by
  unfold State.levelTo
  split <;> rfl

theorem steady_snapshot : steady s.snapshot = steady s := by
  unfold State.snapshot
  exact steady_smb s _

theorem steady_bringPartners : steady s.bringPartners = steady s :=
  foldl_keeps steady _ (fun u n => by dsimp only; split_ifs <;> simp) _ s

theorem steady_closeOverCurrent : steady s.closeOverCurrent = steady s := by
  unfold State.closeOverCurrent
  dsimp only
  rw [foldl_keeps steady _ (fun u r => steady_modRail u r _), foldl_keeps steady _ (fun u c => steady_modConsumer u c _)]
  rfl

theorem steady_recoverFactors : steady s.recoverFactors = steady s :=
  foldl_keeps steady _ (fun u c => by split_ifs <;> simp) _ s

/-- The window that ended is closed: partners, over-current and thermal factors. -/
theorem steady_windowClosed : steady s.bringPartners.closeOverCurrent.recoverFactors = steady s := by
  rw [steady_recoverFactors, steady_closeOverCurrent, steady_bringPartners]

end

/-- What two states of one steady part have in common. -/
theorem steady_fields {s t : State} (h : steady t = steady s) :
    (t.mem = s.mem ∧ t.parts = s.parts ∧ t.regs = s.regs) ∧ t.power.windowAt = s.power.windowAt ∧ t.power.amps = s.power.amps ∧
      t.power.input = s.power.input ∧ t.power.profile = s.power.profile ∧ t.power.floor = s.power.floor ∧
      t.power.envelope = s.power.envelope ∧ t.power.allowance = s.power.allowance :=
  ⟨⟨congrArg (fun x => x.mem) h, congrArg (fun x => x.parts) h, congrArg (fun x => x.regs) h⟩, congrArg (fun x => x.power.windowAt) h,
    congrArg (fun x => x.power.amps) h, congrArg (fun x => x.power.input) h, congrArg (fun x => x.power.profile) h,
    congrArg (fun x => x.power.floor) h, congrArg (fun x => x.power.envelope) h, congrArg (fun x => x.power.allowance) h⟩

/-! ### Rations given -/

@[simp] theorem levelTo_consumer (s : State) (k l c : Nat) : (s.levelTo k l).consumer c = s.consumer c := by
  unfold State.levelTo
  split <;> rfl

theorem smb_consumer (s : State) (c : Nat) (m : Tab W64) :
    State.consumer { s with power := { s.power with smb := m } } c = s.consumer c := rfl

@[simp] theorem snapshot_consumer (s : State) (c : Nat) : s.snapshot.consumer c = s.consumer c := by
  unfold State.snapshot
  exact smb_consumer s c _

/-- One consumer's step of the allocation of a state's rations. -/
def giveRation (s : State) (w d : List W32) (u : State) (c : Nat) : State :=
  let wc := scaled (w.getD c 0) (s.floorW c) (u.consumer c).factor
  let dc := d.getD c 0
  let u := u.modConsumer c (fun x => { x with ration := wc, demand := dc })
  if c < 4 then u.modQuarter c (fun x => { x with restStep := restCycles wc dc })
  else
    let l := u.levelFor (c - 4) wc dc
    let wait := ceilTo 4 (fourPhi wc dc) == 0 && !u.stackRepro (c - 4) && u.inStackWork (c - 4)
    let u := u.modStack (c - 4) (fun x => { x with zeroDue := wait })
    (u.levelTo (c - 4) l).modConsumer c (fun x => { x with rest := restFraction l wc dc })

theorem steady_giveRation (s : State) (w d : List W32) (u : State) (c : Nat) : steady (giveRation s w d u c) = steady u := by
  unfold giveRation
  dsimp only
  split <;> simp

theorem giveRation_same (s : State) (w d : List W32) (u : State) (c : Nat) :
    ((giveRation s w d u c).consumer c).ration = scaled (w.getD c 0) (s.floorW c) (u.consumer c).factor := by
  unfold giveRation
  dsimp only
  split <;> simp

theorem giveRation_ne (s : State) (w d : List W32) (u : State) {c k : Nat} (h : k ≠ c) :
    (giveRation s w d u c).consumer k = u.consumer k := by
  unfold giveRation
  dsimp only
  split <;> simp [h]

theorem steady_applyRations (s : State) (w d : List W32) : steady (s.applyRations w d) = steady s :=
  foldl_keeps steady _ (steady_giveRation s w d) _ s

/-- The consumer's ration is not below the floor that it has in state s. -/
def NotBelowFloor (s : State) (c : Nat) (u : State) : Prop := flt (u.consumer c).ration (s.floorW c) = false

theorem giveRation_makes (s : State) (w d : List W32) (u : State) (c : Nat) : NotBelowFloor s c (giveRation s w d u c) := by
  unfold NotBelowFloor
  rw [giveRation_same]
  exact scaled_not_below_floor _ _ _

theorem giveRation_keeps (s : State) (w d : List W32) (u : State) (c k : Nat) (h : NotBelowFloor s k u) :
    NotBelowFloor s k (giveRation s w d u c) := by
  by_cases hk : k = c
  · rw [hk]
    exact giveRation_makes s w d u c
  · unfold NotBelowFloor
    rw [giveRation_ne s w d u hk]
    exact h

/-- No consumer's ration is below its floor once the rations are given (17 R419, R426). -/
theorem applyRations_not_below_floor (s : State) (w d : List W32) (c : Nat) (hc : c < 20) :
    NotBelowFloor s c (s.applyRations w d) :=
  foldl_makes (NotBelowFloor s) (giveRation s w d) (giveRation_makes s w d) (giveRation_keeps s w d) (List.range 20) s c
    (List.mem_range.mpr hc)

/-- A floor follows from the partitions alone (17 R416). -/
theorem floorW_of_parts {s t : State} (h : t.parts = s.parts) (c : Nat) : t.floorW c = s.floorW c := by
  simp only [State.floorW, State.stackRepro, State.holdsGroup, State.holds, State.part, h]
  rfl

/-! ### The profile and the envelope -/

/-- The profile that PWR_CTL names (17 R430). -/
abbrev profileSet (s : State) : Nat := fld (s.reg 0 0x80000) 1 0

/-- A BALANCED window that BALANCED follows counts toward the allowance (17 R418). -/
theorem takeProfile_allowance_stay (s : State) (input : W32) (h : s.power.profile = 0) (hn : profileSet s = 0) :
    (s.takeProfile input).power.allowance = (nextAllowance s.power.allowance s.power.calm input).1 := by
  simp [State.takeProfile, h, hn]

/-- BALANCED starts with ten units (17 R418). -/
theorem takeProfile_allowance_enter (s : State) (input : W32) (h : s.power.profile ≠ 0) (hn : profileSet s = 0) :
    (s.takeProfile input).power.allowance = 10 := by
  simp [State.takeProfile, h.symm, hn]

/-- Leaving BALANCED forfeits the units that are left (00 R6; 17 R418). -/
theorem takeProfile_allowance_leave (s : State) (input : W32) (h : s.power.profile = 0) (hn : profileSet s ≠ 0) :
    (s.takeProfile input).power.allowance = 0 := by
  simp [State.takeProfile, h, hn]

theorem nextAllowance_peak {units calm : Nat} {input : W32} (h : flt (natW 3600) input = true) :
    (nextAllowance units calm input).1 = units - 1 := by
  simp [nextAllowance, h]

theorem nextAllowance_calm {units calm : Nat} {input : W32} (h : flt (natW 3600) input = false) (hc : calm < 99) :
    (nextAllowance units calm input).1 = units := by
  simp [nextAllowance, h, Nat.not_le.mpr hc]

theorem nextAllowance_restored {units calm : Nat} {input : W32} (h : flt (natW 3600) input = false) (hc : 99 ≤ calm) :
    (nextAllowance units calm input).1 = min 10 (units + 1) := by
  simp [nextAllowance, h, hc]

theorem nextEnvelope_floor {p : Power} (h : p.floor = true) : p.nextEnvelope = 1500 := by
  simp [Power.nextEnvelope, h]

theorem nextEnvelope_profile {p : Power} (h : p.floor = false) : p.nextEnvelope =
    if p.profile = 0 then (if 0 < p.allowance then 4200 else 3600) else if p.profile = 3 then 2400 else 3600 := by
  unfold Power.nextEnvelope
  rw [h]
  simp only [Bool.false_eq_true, if_false]
  split <;> simp_all

/-! ### The recompute -/

/-- The next window opens: its profile, its floor and its envelope (17 R417, R418). -/
def openWindow (input : W32) (amps : BitVec 16) (s : State) : State :=
  let t := s.takeProfile input
  let t := { t with power := { t.power with floor := t.intr.throttle || t.power.inputLow, amps := amps, windowAt := some t.time.now } }
  { t with power := { t.power with envelope := t.power.nextEnvelope } }

/-- The state of a recompute once the window that ended is closed and the next one is open. -/
def windowOpened (input : W32) (amps : BitVec 16) (s : State) : State :=
  openWindow input amps s.bringPartners.closeOverCurrent.recoverFactors

/-- How a window opens follows from the steady part of the state. -/
theorem steady_openWindow (input : W32) (amps : BitVec 16) (s : State) :
    steady (openWindow input amps s) = openWindow input amps (steady s) := rfl

theorem steady_windowOpened (input : W32) (amps : BitVec 16) (s : State) :
    steady (windowOpened input amps s) = steady (openWindow input amps s) := by
  rw [windowOpened, steady_openWindow, steady_windowClosed, steady_openWindow]

/-- A window has passed since the last recompute, or there was none. -/
def WindowPassed (s : State) : Prop := ∀ t0, s.power.windowAt = some t0 → t0.toNat + 1000000 ≤ s.nowNat

/-- Demands of a window, each at most its consumer's maximum (17 R419). -/
def demands (energy : List (W32 × W32)) (m : List W32) : List W32 :=
  (List.range 20).map (fun c => let x := energy.getD c (0, natW 1); fmin2 (fdiv x.1 x.2) (m.getD c 0))

/-- Rations of the window that a state has opened (17 R419). -/
def windowRations (t : State) (unrationed : W32) (d : List W32) : List W32 :=
  rations (fsub (fmul ninety (natW t.power.envelope)) unrationed) d ((List.range 20).map t.floorW) ((List.range 20).map t.maxW)
    (serviceOrder t.power.floor t.power.profile)

/-- A recompute that is due opens the window and gives the rations. -/
theorem exec_rationRecompute_due (energy : List (W32 × W32)) (unrationed input : W32) (amps : BitVec 16) {s : State}
    (hr : s.rationing = true) (hw : WindowPassed s) :
    let t := windowOpened input amps s
    let d := demands energy ((List.range 20).map t.maxW)
    exec (.rationRecompute energy unrationed input amps) s = .next (t.applyRations (windowRations t unrationed d) d).snapshot := by
  show execRationRecompute energy unrationed input amps s = _
  refine congrArg Host.Outcome.next (if_neg ?_)
  rw [hr]
  split
  next => simp
  next t0 h => simpa using hw t0 h

theorem exec_rationRecompute_early (energy : List (W32 × W32)) (unrationed input : W32) (amps : BitVec 16) {s : State}
    (h : s.rationing = false ∨ ∃ t0, s.power.windowAt = some t0 ∧ s.nowNat < t0.toNat + 1000000) :
    exec (.rationRecompute energy unrationed input amps) s = .next s := by
  show execRationRecompute energy unrationed input amps s = _
  unfold execRationRecompute
  rcases h with h | ⟨t0, h, ht⟩
  · simp [h]
  · simp [h, Nat.not_le.mpr ht]

/-- A recompute leaves the window that opened, the memory, the partitions and the registers, and no ration below its floor. -/
theorem rationRecompute_completes (energy : List (W32 × W32)) (unrationed input : W32) (amps : BitVec 16) {s : State}
    (hr : s.rationing = true) (hw : WindowPassed s) :
    Completes (.rationRecompute energy unrationed input amps) s (fun t => steady t = steady (openWindow input amps s) ∧
      ∀ c, c < 20 → flt (t.consumer c).ration (s.floorW c) = false) := by
  refine ⟨_, exec_rationRecompute_due energy unrationed input amps hr hw, ?_, fun c hc => ?_⟩
  · rw [steady_snapshot, steady_applyRations, steady_windowOpened]
  · obtain ⟨⟨-, parts, -⟩, -⟩ := steady_fields (steady_windowOpened input amps s)
    rw [snapshot_consumer, ← floorW_of_parts (s := s) parts c]
    exact applyRations_not_below_floor _ _ _ c hc

/-! ### The rails -/

/-- No other rail, memory, partition, register, site or consumer differs: the frame of the rails' commands (17 R422; 20 R469). -/
def OnlyRail (r : Nat) (s t : State) : Prop :=
  (∀ k, k ≠ r → t.rail k = s.rail k) ∧ t.mem = s.mem ∧ t.parts = s.parts ∧ t.regs = s.regs ∧ t.power.sites = s.power.sites ∧
    t.power.consumers = s.power.consumers

theorem onlyRail_modRail (s : State) (r : Nat) (f : Rail → Rail) : OnlyRail r s (s.modRail r f) :=
  ⟨fun k hk => modRail_rail_ne s r f k hk, rfl, rfl, rfl, rfl, rfl⟩

/-- A wear record is the security core's. -/
theorem logWear_sec (s : State) (kind unit detail pln : Nat) : ∃ x, s.logWear kind unit detail pln = { s with sec := x } :=
  ⟨_, logWear_only s kind unit detail pln⟩

theorem onlyRail_logWear {r : Nat} {s t : State} (h : OnlyRail r s t) (kind unit detail pln : Nat) :
    OnlyRail r s (t.logWear kind unit detail pln) := by
  obtain ⟨x, hx⟩ := logWear_sec t kind unit detail pln
  rw [hx]
  exact h

@[simp] theorem logWear_rail (s : State) (kind unit detail pln r : Nat) : (s.logWear kind unit detail pln).rail r = s.rail r := by
  obtain ⟨x, hx⟩ := logWear_sec s kind unit detail pln
  rw [hx]
  rfl

@[simp] theorem mapChange_rail (s : State) (kind unit r : Nat) : (s.mapChange kind unit).rail r = s.rail r := rfl

/-- The rail of an alert that has just risen. -/
def alerted (r : RailId) (x : Rail) : Rail := { x with alert := true, inWindow := true, hold := decide (r.val < 12) }

/-- An alert that rises is counted. -/
def alertCounted (r : RailId) (s : State) : State :=
  let t := s.modRail r (alerted r)
  { t with power := { t.power with ocEvents := satAdd 65535 t.power.ocEvents 1 } }

theorem exec_overCurrentAlert_rises (r : RailId) {s : State} (hp : s.powered = true) (ha : (s.rail r).alert = false) :
    exec (.overCurrentAlert r) s = .next (if r.val < 12 then (alertCounted r s).latch 55 else alertCounted r s) := by
  show execOverCurrentAlert r s = _
  exact congrArg Host.Outcome.next (if_neg (by simp [hp, ha]))

theorem exec_overCurrentAlert_stands (r : RailId) {s : State} (h : s.powered = false ∨ (s.rail r).alert = true) :
    exec (.overCurrentAlert r) s = .next s := by
  show execOverCurrentAlert r s = _
  exact congrArg Host.Outcome.next (if_pos (by simpa using h))

theorem exec_overCurrentAlertDeassert_ends (r : RailId) {s : State} (h : (s.rail r).alert = true) :
    exec (.overCurrentAlertDeassert r) s = .next (s.modRail r (fun x => { x with alert := false, since := s.time.now })) := by
  show execOverCurrentAlertDeassert r s = _
  exact congrArg Host.Outcome.next (if_neg (by simp [h]))

theorem exec_overCurrentHoldRelease_early (r : RailId) {s : State}
    (h : (s.rail r).hold = false ∨ (s.rail r).alert = true ∨ s.nowNat < (s.rail r).since.toNat + 20000) :
    exec (.overCurrentHoldRelease r) s = .next s := by
  show execOverCurrentHoldRelease r s = _
  exact congrArg Host.Outcome.next (if_pos (by simpa using h))

theorem exec_overCurrentHoldRelease_due (r : RailId) {s : State} (hh : (s.rail r).hold = true) (ha : (s.rail r).alert = false)
    (ht : (s.rail r).since.toNat + 20000 ≤ s.nowNat) :
    exec (.overCurrentHoldRelease r) s = .next (s.modRail r (fun x => { x with hold := false })) := by
  show execOverCurrentHoldRelease r s = _
  exact congrArg Host.Outcome.next (if_neg (by simp [hh, ha, ht]))

theorem exec_phaseFailure_spare (r : RailId) (phase : Nat) {s : State} (hp : s.powered = true) (h : 0 < (s.rail r).spares) :
    exec (.phaseFailure r phase) s = .next
      (((s.modRail r (fun x => { x with spares := x.spares - 1 })).mapChange 11 (16 * r.val + phase)).logWear 11 r phase 0) := by
  show execPhaseFailure r phase s = _
  exact congrArg Host.Outcome.next ((if_neg (by simp [hp])).trans (if_pos h))

theorem exec_phaseFailure_derates (r : RailId) (phase : Nat) {s : State} (hp : s.powered = true) (h : (s.rail r).spares = 0) :
    exec (.phaseFailure r phase) s = .next (s.modRail r (fun x => { x with lost := min (railPhases r) (x.lost + 1) })) := by
  show execPhaseFailure r phase s = _
  exact congrArg Host.Outcome.next ((if_neg (by simp [hp])).trans (if_neg (by simp [h])))

/-- An alert that rises holds its rail, counts once, and raises line 55 for a quarter's or a stack pair's rail (17 R422). -/
theorem overCurrentAlert_completes (r : RailId) {s : State} (hp : s.powered = true) (ha : (s.rail r).alert = false) :
    Completes (.overCurrentAlert r) s (fun t => OnlyRail r s t ∧ t.rail r = alerted r (s.rail r) ∧
      t.power.ocEvents = satAdd 65535 s.power.ocEvents 1 ∧ (r.val < 12 → (t.icLine 55).pending = true) ∧
      (12 ≤ r.val → t.intr = s.intr)) := by
  have counted : OnlyRail r s (alertCounted r s) := onlyRail_modRail s r (alerted r)
  have rail : (alertCounted r s).rail r = alerted r (s.rail r) := modRail_rail_same s r (alerted r)
  refine ⟨_, exec_overCurrentAlert_rises r hp ha, ?_⟩
  by_cases hr : r.val < 12
  · rw [if_pos hr]
    exact ⟨counted, rail, rfl, fun _ => by simp [State.latch], fun h => absurd hr (Nat.not_lt.mpr h)⟩
  · rw [if_neg hr]
    exact ⟨counted, rail, rfl, fun h => absurd h hr, fun _ => rfl⟩

/-- A change of the rail alone. -/
theorem modRail_completes {i : Instr} {r : RailId} {s : State} {f : Rail → Rail} (h : exec i s = .next (s.modRail r f)) :
    Completes i s (fun t => OnlyRail r s t ∧ t.rail r = f (s.rail r)) :=
  ⟨_, h, onlyRail_modRail s r f, modRail_rail_same s r f⟩

/-- A phase that fails is replaced by a spare while there is one, and derates the rail after that (20 R469). -/
theorem phaseFailure_completes (r : RailId) (phase : Nat) {s : State} (hp : s.powered = true) :
    Completes (.phaseFailure r phase) s (fun t => OnlyRail r s t ∧
      (0 < (s.rail r).spares → t.rail r = { s.rail r with spares := (s.rail r).spares - 1 }) ∧
      ((s.rail r).spares = 0 → t.rail r = { s.rail r with lost := min (railPhases r) ((s.rail r).lost + 1) })) := by
  rcases Nat.eq_zero_or_pos (s.rail r).spares with h | h
  · exact ⟨_, exec_phaseFailure_derates r phase hp h, onlyRail_modRail s r _, fun k => absurd h k.ne',
      fun _ => modRail_rail_same s r _⟩
  · exact ⟨_, exec_phaseFailure_spare r phase hp h,
      onlyRail_logWear (t := (s.modRail r _).mapChange _ _) (onlyRail_modRail s r _) _ _ _ _, fun _ => by simp,
      fun k => absurd k h.ne'⟩

/-! ### The statement -/

/-- Settles O47: a recompute opens the window that PWR_CTL and the inputs name, whatever its other steps did, and every ration is the
larger of its floor and the scaled allocation; each command of a rail changes that rail alone. -/
theorem rationsAndRailsKeepTheirLimits : Obligations.RationsAndRailsKeepTheirLimits := by
  unfold Obligations.RationsAndRailsKeepTheirLimits
  refine ⟨fun energy unrationed input amps s hr hw => ?_, fun energy unrationed input amps s h =>
    ⟨s, exec_rationRecompute_early energy unrationed input amps h, rfl⟩, fun b d f m g h => if_pos h, fun r s => ?_⟩
  · obtain ⟨t, step, same, floors⟩ := rationRecompute_completes energy unrationed input amps hr hw
    obtain ⟨⟨mem, parts, regs⟩, windowAt, ampsEq, inputEq, profile, floor, envelope, allowance⟩ := steady_fields same
    have stay (h : s.power.profile = 0) (hn : profileSet s = 0) := allowance.trans (takeProfile_allowance_stay s input h hn)
    refine ⟨t, step, windowAt, ampsEq, inputEq, profile, floor, fun h => ?_, fun h => ?_, fun h hn peak => ?_, fun h hn calm hc => ?_,
      fun h hn calm hc => ?_, fun h hn => ?_, floors, fun h hn => ?_, mem, parts, regs⟩
    · exact envelope.trans (nextEnvelope_floor (floor.symm.trans h))
    · rw [envelope, allowance]
      exact nextEnvelope_profile (floor.symm.trans h)
    · exact (stay h hn).trans (nextAllowance_peak peak)
    · exact (stay h hn).trans (nextAllowance_calm calm hc)
    · exact (stay h hn).trans (nextAllowance_restored calm hc)
    · exact allowance.trans (takeProfile_allowance_enter s input h hn)
    · exact allowance.trans (takeProfile_allowance_leave s input h hn)
  · exact ⟨overCurrentAlert_completes r, fun h => ⟨s, exec_overCurrentAlert_stands r h, rfl⟩,
      fun h => ⟨s, exec_overCurrentHoldRelease_early r h, rfl⟩, fun h => modRail_completes (exec_overCurrentAlertDeassert_ends r h),
      fun hh ha ht => modRail_completes (exec_overCurrentHoldRelease_due r hh ha ht), fun phase => phaseFailure_completes r phase⟩

end Sys2Proof.Proofs
end

section
/-! PROOF of module time (18 R436 to R440; 12 R334). A change of lock touches the time base and posts records; a sample in use is a change
of the time base and then, when it ends or restores the lock, such a change of lock. -/

namespace Sys2Proof.Proofs

open Sys2Proof Sys2Proof.Machine Sys2Proof.Laws

/-! ### A change of lock -/

/-- The time base once its lock has changed (18 R439). -/
def lockedTo (x : TimeBase) (m : TimeMode) : TimeBase :=
  { x with mode := m, inRow := 0, locks := if m = .locked then satAdd 65535 x.locks 1 else x.locks }

/-- A change of lock changes the time base and posts records, and nothing else. -/
theorem setLock_only (s : State) (m : TimeMode) : OnlyHost { s with time := lockedTo s.time m } (s.setLock m) :=
  onlyHost_postAll _ 0 3 0 _

/-- Nothing that module time measures differs: the frame of its commands. -/
def TimeFrame (s t : State) : Prop :=
  t.mem = s.mem ∧ t.parts = s.parts ∧ t.regs = s.regs ∧ t.clusters = s.clusters ∧ t.links = s.links

/-- Posting records leaves the frame, the time base and the interrupt controller. -/
theorem timeFrame_host {s t : State} (h : OnlyHost s t) : TimeFrame s t ∧ t.time = s.time ∧ t.intr = s.intr := by
  obtain ⟨_, _, _, _, rfl⟩ := h
  exact ⟨⟨rfl, rfl, rfl, rfl, rfl⟩, rfl, rfl⟩

theorem timeFrame_setLock (s : State) (m : TimeMode) :
    TimeFrame s (s.setLock m) ∧ (s.setLock m).time = lockedTo s.time m ∧ (s.setLock m).intr = s.intr :=
  timeFrame_host (setLock_only s m)

/-! ### A sample in use -/

/-- The time base with a sample's offset and rate (18 R438, R439). -/
def sampleTaken (x : TimeBase) (rate offset : Int) (pulse : Bool) : TimeBase :=
  { x with
    offset := sat32 offset, adjust := if x.mode = .locked ∧ 100000 < offset.natAbs then x.adjust else rate, pulseUsed := pulse,
    lastSample := x.now, inRow := if offset.natAbs ≤ 1000 then x.inRow + 1 else 0 }

/-- The state of module time that a sample leads to (18 R439). -/
def modeAfter (x : TimeBase) (offset : Int) : TimeMode :=
  match x.mode with
  | .locked => if 100000 < offset.natAbs then .holdover else .locked
  | .holdover => if offset.natAbs ≤ 1000 ∧ 2 ≤ x.inRow then .locked else .holdover
  | .unknown => .unknown

/-- The rate that a sample leaves: its own, within 100 ppm, or the one before when it ends the lock (18 R438, R439). -/
def RateKept (x : TimeBase) (offset rate : Int) : Prop :=
  (x.mode = .locked → 100000 < offset.natAbs → rate = x.adjust) ∧
    (x.mode ≠ .locked ∨ offset.natAbs ≤ 100000 → -1000 ≤ rate ∧ rate ≤ 1000)

/-- What nothing states about the rate lies within 100 ppm (log 3). -/
theorem freeRate_bounds (s : State) :
    -1000 ≤ ((s.freeVal.toNat % 2001 : Nat) : Int) - 1000 ∧ ((s.freeVal.toNat % 2001 : Nat) : Int) - 1000 ≤ 1000 := by
  omega

theorem rateKept_sampleTaken (x : TimeBase) (offset : Int) (pulse : Bool) {rate : Int} (h : -1000 ≤ rate ∧ rate ≤ 1000) :
    RateKept x offset (sampleTaken x rate offset pulse).adjust := by
  refine ⟨fun locked far => if_pos ⟨locked, far⟩, fun other => ?_⟩
  have not_ended : ¬(x.mode = .locked ∧ 100000 < offset.natAbs) := by
    rintro ⟨locked, far⟩
    rcases other with h | h
    · exact h locked
    · omega
  rwa [sampleTaken, if_neg not_ended]

/-- A sample in use is taken, and then its change of lock, if there is one. -/
theorem takeSample_cases (s : State) (offset : Int) (pulse : Bool) :
    ∃ rate : Int, (-1000 ≤ rate ∧ rate ≤ 1000) ∧
      (let t : State := { s.useFree with time := sampleTaken s.time rate offset pulse }
       s.takeSample offset pulse =
        if modeAfter s.time offset = s.time.mode then t else t.setLock (modeAfter s.time offset)) := by
  refine ⟨_, freeRate_bounds s, ?_⟩
  unfold State.takeSample modeAfter
  cases h : s.time.mode with
  | unknown => simp [sampleTaken, h]
  | locked => by_cases far : 100000 < offset.natAbs <;> simp [sampleTaken, h, far]
  | holdover => by_cases near : offset.natAbs ≤ 1000 ∧ 2 ≤ s.time.inRow <;> simp [sampleTaken, h, near]

/-- What a sample in use leaves of the time base, whatever became of the lock. -/
theorem takeSample_completes (s : State) (offset : Int) (pulse : Bool) :
    let t := s.takeSample offset pulse
    TimeFrame s t ∧ t.intr = s.intr ∧ t.time.now = s.time.now ∧ t.time.offset = sat32 offset ∧ RateKept s.time offset t.time.adjust ∧
      t.time.pulseUsed = pulse ∧ t.time.ptmOut = s.time.ptmOut ∧ t.time.lastSample = s.time.now ∧
      t.time.lastPulse = s.time.lastPulse ∧ t.time.pulseLost = s.time.pulseLost ∧ t.time.mode = modeAfter s.time offset := by
  obtain ⟨rate, bounds, taken⟩ := takeSample_cases s offset pulse
  have kept := rateKept_sampleTaken s.time offset pulse bounds
  dsimp only at taken ⊢
  rw [taken]
  split
  next same => exact ⟨⟨rfl, rfl, rfl, rfl, rfl⟩, rfl, rfl, rfl, kept, rfl, rfl, rfl, rfl, rfl, same.symm⟩
  next =>
    obtain ⟨frame, time, intr⟩ := timeFrame_setLock
      { s.useFree with time := sampleTaken s.time rate offset pulse } (modeAfter s.time offset)
    rw [time]
    exact ⟨frame, intr, rfl, rfl, kept, rfl, rfl, rfl, rfl, rfl, rfl⟩

/-! ### The step at first lock -/

theorem part_moveTimers_reset (d : W64) : Part.reset.moveTimers d = Part.reset := if_pos rfl

theorem moveTimers_sliceAt {x : Part} (d : W64) (h : x.mode ≠ .empty) : (x.moveTimers d).sliceAt = x.sliceAt + d := by
  rw [Part.moveTimers, if_neg h]

theorem stepTime_part (s : State) (new : W64) (p : Nat) : (s.stepTime new).part p = (s.part p).moveTimers (new - s.time.now) :=
  tab_get_mapVals (fun _ => Part.reset) (fun x => x.moveTimers (new - s.time.now)) s.parts p (part_moveTimers_reset _)

/-- A partition's slice keeps what is left of it (18 R440). -/
theorem stepTime_slice (s : State) (new : W64) {p : Nat} (h : (s.part p).mode ≠ .empty) :
    ((s.stepTime new).part p).sliceAt - new = (s.part p).sliceAt - s.time.now := by
  rw [stepTime_part, moveTimers_sliceAt _ h]
  bv_omega

/-! ### The commands -/

theorem exec_ptmRequest_due {s : State} (hr : s.time.running = true) (he : s.module.ptmEnable = true)
    (hd : ∀ t0, s.time.ptmAt = some t0 → t0.toNat + 1000000 * s.ptmInterval ≤ s.nowNat) :
    exec .ptmRequest s =
      .next { s with time := { s.time with ptmOut := true, ptmAt := some s.time.now }, out := s.out ++ [.ptm] } := by
  show execPtmRequest s = _
  refine congrArg Host.Outcome.next (if_neg ?_)
  rw [hr, he]
  split
  next => simp
  next t0 h => simpa using hd t0 h

theorem exec_ptmRequest_not_due {s : State} (h : s.time.running = false ∨ s.module.ptmEnable = false ∨
    ∃ t0, s.time.ptmAt = some t0 ∧ s.nowNat < t0.toNat + 1000000 * s.ptmInterval) : exec .ptmRequest s = .next s := by
  show execPtmRequest s = _
  refine congrArg Host.Outcome.next (if_pos ?_)
  rcases h with h | h | ⟨t0, h, early⟩
  · simp [h]
  · simp [h]
  · simp [h, Nat.not_le.mpr early]

/-- The state once the answer to a PTM request has given its offset. -/
def ptmAnswered (s : State) (offset : Int) : State := { s with time := { s.time with ptmOut := false, ptmOffset := offset } }

/-- Reference time minus module time. -/
abbrev ptmOffsetOf (s : State) (reference : W64) : Int := (reference.toNat : Int) - s.nowNat

theorem exec_ptmSample_unasked (reference : W64) {s : State} (h : s.time.running = false ∨ s.time.ptmOut = false) :
    exec (.ptmSample reference) s = .next s := by
  show execPtmSample reference s = _
  exact congrArg Host.Outcome.next (if_pos (by simpa using h))

section

variable (reference : W64) {s : State} (hr : s.time.running = true) (ho : s.time.ptmOut = true)
include hr ho

theorem exec_ptmSample_first (hm : s.time.mode = .unknown) :
    exec (.ptmSample reference) s = .next
      (let u := (ptmAnswered s (ptmOffsetOf s reference)).stepTime reference
       State.setLock { u with time := { u.time with
         offset := sat32 (ptmOffsetOf s reference), ptmOffset := 0, pulseUsed := false } } .locked) := by
  show execPtmSample reference s = _
  exact congrArg Host.Outcome.next ((if_neg (by simp [hr, ho])).trans (if_pos hm))

theorem exec_ptmSample_unused (hm : s.time.mode ≠ .unknown) (hp : s.pulseInUse = true) :
    exec (.ptmSample reference) s = .next { s with
      time := { s.time with ptmOut := false, ptmOffset := ptmOffsetOf s reference, lastSample := s.time.now } } := by
  show execPtmSample reference s = _
  exact congrArg Host.Outcome.next ((if_neg (by simp [hr, ho])).trans ((if_neg hm).trans (if_pos hp)))

theorem exec_ptmSample_used (hm : s.time.mode ≠ .unknown) (hp : s.pulseInUse = false) :
    exec (.ptmSample reference) s = .next
      ((ptmAnswered s (ptmOffsetOf s reference)).takeSample (ptmOffsetOf s reference) false) := by
  show execPtmSample reference s = _
  exact congrArg Host.Outcome.next ((if_neg (by simp [hr, ho])).trans ((if_neg hm).trans (if_neg (by simp [hp]))))

/-- The first sample sets module time, which is locked from then on, and moves what the partitions' slices count from (18 R439, R440). -/
theorem ptmSample_first_completes (hm : s.time.mode = .unknown) :
    Completes (.ptmSample reference) s (fun t => t.time.now = reference ∧ t.time.mode = .locked ∧
      t.time.locks = satAdd 65535 s.time.locks 1 ∧ t.time.offset = sat32 (ptmOffsetOf s reference) ∧ t.time.ptmOut = false ∧
      t.mem = s.mem ∧ t.regs = s.regs ∧
      (∀ p, (s.part p).mode ≠ .empty → (t.part p).sliceAt - t.time.now = (s.part p).sliceAt - s.time.now)) := by
  refine ⟨_, exec_ptmSample_first reference hr ho hm, ?_⟩
  obtain ⟨⟨mem, parts, regs, -, -⟩, time, -⟩ := timeFrame_setLock
    (let u := (ptmAnswered s (ptmOffsetOf s reference)).stepTime reference
     { u with time := { u.time with offset := sat32 (ptmOffsetOf s reference), ptmOffset := 0, pulseUsed := false } }) .locked
  dsimp only
  rw [time]
  refine ⟨rfl, rfl, rfl, rfl, rfl, mem, regs, fun p hp => ?_⟩
  simp only [State.part, parts]
  exact stepTime_slice (ptmAnswered s (ptmOffsetOf s reference)) reference hp

/-- A later sample in use gives an offset and never a step (18 R439). -/
theorem ptmSample_used_completes (hm : s.time.mode ≠ .unknown) (hp : s.pulseInUse = false) :
    Completes (.ptmSample reference) s (fun t => TimeFrame s t ∧ t.time.now = s.time.now ∧
      t.time.offset = sat32 (ptmOffsetOf s reference) ∧ RateKept s.time (ptmOffsetOf s reference) t.time.adjust ∧
      t.time.pulseUsed = false ∧ t.time.ptmOut = false ∧ t.time.lastSample = s.time.now ∧
      t.time.mode = modeAfter s.time (ptmOffsetOf s reference)) := by
  refine ⟨_, exec_ptmSample_used reference hr ho hm hp, ?_⟩
  obtain ⟨frame, -, now, offset, rate, used, out, last, -, -, mode⟩ :=
    takeSample_completes (ptmAnswered s (ptmOffsetOf s reference)) (ptmOffsetOf s reference) false
  exact ⟨frame, now, offset, rate, used, out, last, mode⟩

end

theorem modeAfter_locked {x : TimeBase} (offset : Int) (h : x.mode = .locked) :
    modeAfter x offset = if 100000 < offset.natAbs then .holdover else .locked := by
  simp [modeAfter, h]

theorem modeAfter_holdover {x : TimeBase} (offset : Int) (h : x.mode = .holdover) :
    modeAfter x offset = if offset.natAbs ≤ 1000 ∧ 2 ≤ x.inRow then .locked else .holdover := by
  simp [modeAfter, h]

theorem holdoverTimeout_due {s : State} (hm : s.time.mode = .locked)
    (hd : s.time.lastSample.toNat + max 1000000000 (3000000 * s.ptmInterval) ≤ s.nowNat) :
    Completes .holdoverTimeout s (fun t =>
      TimeFrame s t ∧ t.time.mode = .holdover ∧ t.time.now = s.time.now ∧ t.time.locks = s.time.locks) := by
  refine ⟨s.setLock .holdover, congrArg Host.Outcome.next (if_neg (by simp [hm]; omega)), ?_⟩
  obtain ⟨frame, time, -⟩ := timeFrame_setLock s .holdover
  rw [time]
  exact ⟨frame, rfl, rfl, rfl⟩

theorem exec_holdoverTimeout_not_due {s : State}
    (h : s.time.mode ≠ .locked ∨ s.nowNat < s.time.lastSample.toNat + max 1000000000 (3000000 * s.ptmInterval)) :
    exec .holdoverTimeout s = .next s := by
  show execHoldoverTimeout s = _
  exact congrArg Host.Outcome.next (if_pos h)

theorem exec_pulseLost_due {s : State} (he : s.pulseEn = true) (hr : s.time.running = true)
    (hd : ∀ t0, s.time.lastPulse = some t0 → t0.toNat + 3000000000 ≤ s.nowNat) (hn : 3000000000 ≤ s.nowNat) :
    exec .pulseLost s = .next { s with time := { s.time with pulseLost := true } } := by
  show execPulseLost s = _
  refine congrArg Host.Outcome.next (if_neg ?_)
  rw [he, hr]
  split
  next t0 h => simpa using hd t0 h
  next => simpa using hn

theorem exec_pulseLost_not_due {s : State}
    (h : s.pulseEn = false ∨ s.time.running = false ∨ s.nowNat < (s.time.lastPulse.getD 0).toNat + 3000000000) :
    exec .pulseLost s = .next s := by
  show execPulseLost s = _
  refine congrArg Host.Outcome.next (if_pos ?_)
  rcases h with h | h | h
  · simp [h]
  · simp [h]
  · right
    right
    split
    next t0 ht => simpa [ht] using h
    next ht => simpa [ht] using h

/-! ### The edge -/

/-- Module time lies within 100 µs of a whole second (18 R438). -/
def NearSecond (s : State) : Prop := s.nowNat % 1000000000 ≤ 100000 ∨ 1000000000 - s.nowNat % 1000000000 ≤ 100000

theorem onlyHost_postIf (s : State) (due : Bool) (n : Nat) : OnlyHost s (if due then s.post 0 9 3 0 n else s) := by
  split
  · exact onlyHost_post s 0 9 3 0 n
  · exact onlyHost_refl s

/-- An edge that is ignored is counted, and its record is due or not (12 R334). -/
theorem extraPulse_only (s : State) : ∃ r, OnlyHost
    { s with intr := { s.intr with extraPulses := satAdd 65535 s.intr.extraPulses 1, pulseRecord := r } } s.extraPulse :=
  ⟨_, onlyHost_postIf _ _ _⟩

theorem extraPulse_completes (s : State) :
    TimeFrame s s.extraPulse ∧ s.extraPulse.time = s.time ∧ s.extraPulse.intr.extraPulses = satAdd 65535 s.intr.extraPulses 1 := by
  obtain ⟨r, only⟩ := extraPulse_only s
  obtain ⟨frame, time, intr⟩ := timeFrame_host only
  exact ⟨frame, time, congrArg (fun i => i.extraPulses) intr⟩

/-- The state once an accepted edge has marked its second (12 R329; 18 R438). -/
def edgeTaken (s : State) : State :=
  State.latch { s with time := { s.time with lastPulse := some s.time.now, pulseLost := false } } 57

/-- How far the whole second that the latest PTM sample gives lies from module time (18 R438). -/
abbrev edgeOffset (s : State) : Int := ((s.nowNat : Int) + s.time.ptmOffset + 500000000) / 1000000000 * 1000000000 - s.nowNat

theorem exec_timePulseEdge_unseen {s : State}
    (h : s.pulseEn = false ∨ s.time.running = false ∨ s.module.electrical ≠ .running) : exec .timePulseEdge s = .next s := by
  show execTimePulseEdge s = _
  exact congrArg Host.Outcome.next (if_pos (by simpa using h))

section

variable {s : State} (he : s.pulseEn = true) (hr : s.time.running = true) (hx : s.module.electrical = .running)
include he hr hx

theorem exec_timePulseEdge_accepted (hm : s.time.mode ≠ .unknown) (hn : NearSecond s)
    (ha : ∀ t0, s.time.lastPulse = some t0 → t0.toNat + 1000000 < s.nowNat) :
    exec .timePulseEdge s = .next ((edgeTaken s).takeSample (edgeOffset s) true) := by
  show execTimePulseEdge s = _
  refine congrArg Host.Outcome.next ((if_neg (by simp [he, hr, hx])).trans (if_neg ?_))
  rintro (h | h | h)
  · exact hm h
  · rcases hn with k | k <;> simp [k] at h
  · split at h
    next => simp at h
    next t0 ht => simp [ha t0 ht] at h

theorem exec_timePulseEdge_ignored
    (h : s.time.mode = .unknown ∨ ¬NearSecond s ∨ ∃ t0, s.time.lastPulse = some t0 ∧ s.nowNat ≤ t0.toNat + 1000000) :
    exec .timePulseEdge s = .next s.extraPulse := by
  show execTimePulseEdge s = _
  refine congrArg Host.Outcome.next ((if_neg (by simp [he, hr, hx])).trans (if_pos ?_))
  rcases h with h | h | ⟨t0, ht, h⟩
  · exact .inl h
  · exact .inr (.inl (by simpa [NearSecond] using h))
  · exact .inr (.inr (by simp [ht, Nat.not_lt.mpr h]))

/-- An accepted edge marks its second, raises line 57 and gives an offset (18 R438). -/
theorem timePulseEdge_accepted_completes (hm : s.time.mode ≠ .unknown) (hn : NearSecond s)
    (ha : ∀ t0, s.time.lastPulse = some t0 → t0.toNat + 1000000 < s.nowNat) :
    Completes .timePulseEdge s (fun t => TimeFrame s t ∧ t.time.lastPulse = some s.time.now ∧ t.time.pulseLost = false ∧
      t.time.pulseUsed = true ∧ t.time.now = s.time.now ∧ t.time.offset = sat32 (edgeOffset s) ∧ (t.icLine 57).pending = true ∧
      t.intr.extraPulses = s.intr.extraPulses) := by
  refine ⟨_, exec_timePulseEdge_accepted he hr hx hm hn ha, ?_⟩
  obtain ⟨frame, intr, now, offset, -, used, -, -, pulse, lost, -⟩ := takeSample_completes (edgeTaken s) (edgeOffset s) true
  have line : ((edgeTaken s).icLine 57).pending = true := by simp [edgeTaken, State.latch]
  exact ⟨frame, pulse, lost, used, now, offset, by rwa [State.icLine, intr], congrArg (fun i => i.extraPulses) intr⟩

end

theorem exec_moduleTimeTick_stopped {s : State} (h : s.time.running = false) : exec .moduleTimeTick s = .next s := by
  show execModuleTimeTick s = _
  exact congrArg Host.Outcome.next (if_pos (by simp [h]))

theorem exec_moduleTimeTick_runs {s : State} (h : s.time.running = true) :
    exec .moduleTimeTick s = .next (State.latch { s with time := { s.time with now := s.time.now + 1000 } } 52) := by
  show execModuleTimeTick s = _
  exact congrArg Host.Outcome.next (if_neg (by simp [h]))

/-! ### The statement -/

/-- Settles O49: a sample in use changes the time base alone, then the lock by its distance; the first one moves every timer with
module time; each other command acts once its time has come and leaves the state before that. -/
theorem moduleTimeFollowsItsReferences : Obligations.ModuleTimeFollowsItsReferences := by
  unfold Obligations.ModuleTimeFollowsItsReferences
  intro s
  refine ⟨fun hr he hd => ⟨_, exec_ptmRequest_due hr he hd, rfl⟩, fun h => ⟨s, exec_ptmRequest_not_due h, rfl⟩,
    fun reference h => ⟨s, exec_ptmSample_unasked reference h, rfl⟩, fun reference hr ho => ⟨ptmSample_first_completes reference hr ho,
      fun hm hp => ⟨_, exec_ptmSample_unused reference hr ho hm hp, rfl⟩, fun hm hp => ?_⟩,
    holdoverTimeout_due, fun h => ⟨s, exec_holdoverTimeout_not_due h, rfl⟩,
    fun he hr hd hn => ⟨_, exec_pulseLost_due he hr hd hn, rfl⟩, fun h => ⟨s, exec_pulseLost_not_due h, rfl⟩,
    fun he hr hx => ⟨timePulseEdge_accepted_completes he hr hx, fun h =>
      ⟨_, exec_timePulseEdge_ignored he hr hx h, extraPulse_completes s⟩⟩,
    fun h => ⟨s, exec_timePulseEdge_unseen h, rfl⟩, fun h => ⟨s, exec_moduleTimeTick_stopped h, rfl⟩,
    fun h => ⟨_, exec_moduleTimeTick_runs h, rfl, by simp [State.latch], rfl⟩⟩
  obtain ⟨t, step, frame, now, offset, rate, used, out, last, mode⟩ := ptmSample_used_completes reference hr ho hm hp
  exact ⟨t, step, frame, now, offset, rate, used, out, last, fun h => mode.trans (modeAfter_locked _ h),
    fun h => mode.trans (modeAfter_holdover _ h)⟩

end Sys2Proof.Proofs
end

section
/-! PROOF of what the work that an end or a reset sets off leaves: posting records, reading and writing lines, journaling, ending requests
and copies touch neither the module's own words nor the mode, the TDI and the jobs of a partition (12 R322 to R326; 13 R346; 14 R354 to
R363). -/

namespace Sys2Proof.Proofs

open Sys2Proof Sys2Proof.Machine Sys2Proof.Laws

/-- What that work leaves: the module's own state, the security core but for the wear log, the module's identity on the links, which rings
are enabled, the jobs of the clusters and the bank engines, and of partition p its mode, its TDI, its set-up and its jobs. -/
structure Outline where
  module : Module
  time : TimeBase
  power : Power
  regs : Tab W64
  sec : Sec
  ids : BitVec 9 × Bool
  enable : Nat → BitVec 16
  clusterJob : Nat → Option (Nat × Nat)
  engines : Tab Engine
  mode : PartMode
  tdi : TdiMode
  applied : Applied
  jobs : List Job

/-- The security core without its wear log, which any correction may extend (20 R464). -/
def wearless (x : Sec) : Sec := { x with flash := { x.flash with wear := [], wearTotal := 0 } }

/-- The outline of a state, as partition p sees it. -/
def outline (p : Nat) (s : State) : Outline :=
  { module := s.module, time := s.time, power := s.power, regs := s.regs, sec := wearless s.sec,
    ids := (s.links.moduleId, s.links.idLock), enable := fun n => (s.fn n).enable, clusterJob := fun k => (s.cluster k).job,
    engines := s.engines, mode := (s.part p).mode, tdi := (s.part p).tdi, applied := (s.part p).applied, jobs := (s.part p).jobs }

section

variable (p : Nat) (s : State)

/-! ### Records and rings -/

/-- A change of a function that leaves its enabled rings. -/
theorem outline_modFn (n : Nat) {f : Fn → Fn} (h : ∀ x, (f x).enable = x.enable) : outline p (s.modFn n f) = outline p s := by
  have enable : (fun k => ((s.modFn n f).fn k).enable) = fun k => (s.fn k).enable := by
    funext k
    by_cases hk : k = n
    · rw [hk, modFn_fn_same, h]
    · rw [modFn_fn_ne s n f k hk]
  exact congrArg (fun e => { outline p s with enable := e }) enable

theorem outline_modRing (n r : Nat) (f : Ring → Ring) : outline p (s.modRing n r f) = outline p s := outline_modFn p s n (fun _ => rfl)

@[simp] theorem outline_toHost (os : List Output) : outline p (s.toHost os) = outline p s := by
  unfold State.toHost
  split <;> rfl

theorem outline_hostRecord (fn addr : Nat) (bs : List Byte) : outline p (s.hostRecord fn addr bs) = outline p s := outline_toHost p s _

theorem outline_sendMsix (fn : Nat) : outline p (s.sendMsix fn) = outline p s := by
  unfold State.sendMsix
  split
  · exact outline_modFn p s fn (fun _ => rfl)
  · exact outline_toHost p s _

theorem outline_writeHeads (fn : Nat) : outline p (s.writeHeads fn) = outline p s := outline_hostRecord p s _ _ _

theorem outline_announce (fn : Nat) : outline p (s.announce fn) = outline p s := by
  unfold State.announce
  dsimp only
  split
  · rw [outline_sendMsix, outline_modFn p _ fn (by exact fun _ => rfl), outline_writeHeads]
  · exact outline_writeHeads p s fn

theorem outline_putEntry (fn r size : Nat) (bs : List Byte) : outline p (s.putEntry fn r size bs) = outline p s := by
  unfold State.putEntry
  dsimp only
  rw [outline_modRing, outline_hostRecord]

theorem outline_putRecord (fn r kind code source flags count time arg : Nat) :
    outline p (s.putRecord fn r kind code source flags count time arg) = outline p s := by
  unfold State.putRecord
  dsimp only
  rw [outline_announce, outline_modFn p _ fn (by exact fun _ => rfl), outline_putEntry]

theorem outline_hold (fn source code fatal : Nat) (rate full : Bool) : outline p (s.hold fn source code fatal rate full) = outline p s :=
  outline_modFn p s fn (fun x => by dsimp only; split_ifs <;> rfl)

theorem outline_takeToken (source : Nat) : outline p (s.takeToken source) = outline p s := rfl

end

theorem outline_writeSummaries (p : Nat) (l : List Held) (s : State) (fn r : Nat) :
    outline p (s.writeSummaries fn r l) = outline p s := by
  induction l generalizing s with
  | nil => rfl
  | cons h l ih =>
    unfold State.writeSummaries
    dsimp only
    split_ifs
    · rfl
    · exact ih s
    · rw [ih, outline_putRecord, outline_modFn p _ fn (by exact fun _ => rfl), outline_takeToken]

section

variable (p : Nat) (s : State)

theorem outline_summaries (fn r : Nat) : outline p (s.summaries fn r) = outline p s := outline_writeSummaries p _ s fn r

@[simp] theorem outline_post (fn block code inst arg : Nat) : outline p (s.post fn block code inst arg) = outline p s := by
  unfold State.post
  dsimp only
  split
  · exact outline_modFn p s fn (fun _ => rfl)
  · split
    · exact outline_modFn p s fn (fun _ => rfl)
    · split_ifs <;> simp only [outline_hold, outline_putRecord, outline_takeToken, outline_summaries]

@[simp] theorem outline_postTo (l : List Nat) (block code inst arg : Nat) : outline p (s.postTo l block code inst arg) = outline p s :=
  foldl_keeps (outline p) _ (fun u n => outline_post p u n block code inst arg) l s

theorem outline_notifyBatch (fn r : Nat) : outline p (s.notifyBatch fn r) = outline p s := by
  unfold State.notifyBatch
  split
  · rfl
  · split
    · rfl
    · dsimp only
      split
      · exact outline_post p s _ _ _ _ _
      · split
        · rw [outline_modRing, outline_post]
        · exact outline_post p s _ _ _ _ _

theorem outline_putRing (fn r : Nat) (bs : List Byte) : outline p (s.putRing fn r bs) = outline p s := by
  unfold State.putRing
  split
  · exact outline_modRing p s fn r _
  · split
    · exact outline_modRing p s fn r _
    · rw [outline_notifyBatch, outline_writeHeads, outline_putEntry]

/-! ### Lines -/

/-- A change of a partition that leaves its mode, its TDI, its set-up and its jobs. -/
theorem outline_modPart (n : Nat) {f : Part → Part}
    (h : ∀ x, (f x).mode = x.mode ∧ (f x).tdi = x.tdi ∧ (f x).applied = x.applied ∧ (f x).jobs = x.jobs) :
    outline p (s.modPart n f) = outline p s := by
  by_cases hp : p = n
  · obtain ⟨mode, tdi, applied, jobs⟩ := h (s.part n)
    subst hp
    simp only [outline, modPart_part_same, mode, tdi, applied, jobs]
    rfl
  · simp only [outline, modPart_part_ne s n f p hp]
    rfl

theorem outline_modRound (n : Nat) (f : Round → Round) : outline p (s.modRound n f) = outline p s :=
  outline_modPart p s n (fun _ => ⟨rfl, rfl, rfl, rfl⟩)

theorem outline_writeLine (pln : Nat) (x : Line) : outline p (s.writeLine pln x) = outline p s := by
  obtain ⟨m, h⟩ := writeLine_only s pln x
  rw [h]
  rfl

theorem outline_modCe (c : Nat) (f : Ce → Ce) : outline p (s.modCe c f) = outline p s := rfl
theorem outline_noteRecent (key : Nat) : outline p (s.noteRecent key) = outline p s := rfl
theorem outline_wear (l : List WearRec) (n : Nat) : outline p
    { s with sec := { s.sec with flash := { s.sec.flash with wear := l, wearTotal := n } } } = outline p s := rfl

theorem outline_logWear (kind unit detail pln : Nat) : outline p (s.logWear kind unit detail pln) = outline p s :=
  outline_wear p s _ _
theorem outline_recordError (source severity code pln partition : Nat) :
    outline p (s.recordError source severity code pln partition) = outline p s := rfl
theorem outline_latch (n : Nat) : outline p (s.latch n) = outline p s := rfl
theorem outline_setStored (pln : Nat) (bs : List Byte) : outline p (s.setStored pln bs) = outline p s := rfl

theorem outline_mapChange (kind unit : Nat) : outline p (s.mapChange kind unit) = outline p s := rfl
theorem outline_modStack (k : Nat) (f : Stack → Stack) : outline p (s.modStack k f) = outline p s := rfl

theorem outline_dieTrigger (k die : Nat) : outline p (s.dieTrigger k die) = outline p s := by
  unfold State.dieTrigger
  split_ifs <;> simp only [outline_logWear, outline_mapChange, outline_modStack]

theorem outline_corrected (pln : Nat) : outline p (s.corrected pln) = outline p s := by
  unfold State.corrected
  dsimp only
  split_ifs <;> simp only [outline_dieTrigger, outline_logWear, outline_post, outline_noteRecent, outline_modCe]

theorem outline_repairHost (pln n : Nat) (c : W64) : outline p (s.repairHost pln n c) = outline p s := by
  unfold State.repairHost
  dsimp only
  split
  · exact outline_toHost p _ _
  · rfl

theorem outline_sendPacket (q d typ lines addr : Nat) (payload : List Line) (copy repair : Option Nat) :
    outline p (s.sendPacket q d typ lines addr payload copy repair) = outline p s := by
  unfold State.sendPacket
  dsimp only
  split
  · split <;> rfl
  · rfl

theorem outline_queueRepair (pln n q : Nat) : outline p (s.queueRepair pln n q) = outline p s := by
  unfold State.queueRepair
  dsimp only
  split
  · rfl
  · split
    · rfl
    · split
      · exact outline_sendPacket p _ _ _ _ _ _ _ _ _
      · exact outline_repairHost p _ _ _ _

theorem outline_badFirmwareLine (r : Region) (pln : Nat) : outline p (s.badFirmwareLine r pln) = outline p s := by
  unfold State.badFirmwareLine
  split_ifs
  · exact outline_modPart p s _ (fun _ => ⟨rfl, rfl, rfl, rfl⟩)
  · rfl
  · rfl

theorem outline_badLine (source pln partition : Nat) (sealBad merge : Bool) :
    outline p (s.badLine source pln partition sealBad merge) = outline p s := by
  have poisoned (u : State) (old : Bool) (l : List Nat) :
      outline p (if old then u else (u.setStored pln poisonLine).postTo l 5 2 (channelOf pln) pln) = outline p u := by
    cases old
    · exact (outline_postTo p _ _ _ _ _ _).trans (outline_setStored p u _ _)
    · rfl
  unfold State.badLine
  dsimp only
  split
  · rw [outline_latch, outline_recordError, outline_modCe]
  · split
    · split_ifs <;>
        simp only [outline_badFirmwareLine, outline_queueRepair, outline_postTo, outline_setStored, outline_latch, outline_recordError,
          outline_modCe]
    · rw [poisoned, outline_latch, outline_recordError, outline_modCe]

theorem outline_readLineFor (source pln partition : Nat) (merge : Bool) :
    outline p (s.readLineFor source pln partition merge).1 = outline p s := by
  unfold State.readLineFor
  dsimp only
  split_ifs
  · rfl
  · rfl
  · exact outline_badLine p s _ _ _ _ _
  · split
    · rfl
    · rw [outline_corrected, outline_setStored]
    · exact outline_badLine p s _ _ _ _ _

variable {s} in
/-- What a read with a result leaves, of the state in the result. -/
theorem outline_of_fst {α : Type} {r : State × α} {t : State} {a : α} (h : r = (t, a)) (hr : outline p r.1 = outline p s) :
    outline p t = outline p s := by
  rwa [h] at hr

theorem outline_readLine (source pln partition : Nat) : outline p (s.readLine source pln partition).1 = outline p s :=
  outline_readLineFor p s source pln partition false

theorem outline_mergeLine (source pln partition pos len v : Nat) :
    outline p (s.mergeLine source pln partition pos len v).1 = outline p s := by
  unfold State.mergeLine
  split
  · exact outline_writeLine p s _ _
  · split
    next h => exact (outline_writeLine p _ _ _).trans (outline_of_fst p h (outline_readLineFor p s _ _ _ _))
    next h => exact outline_of_fst p h (outline_readLineFor p s _ _ _ _)

/-! ### Pieces of copies -/

/-- A change of a cluster that leaves its job. -/
theorem outline_modCluster (n : Nat) {f : Cluster → Cluster} (h : ∀ x, (f x).job = x.job) :
    outline p (s.modCluster n f) = outline p s := by
  have job : (fun k => ((s.modCluster n f).cluster k).job) = fun k => (s.cluster k).job := by
    funext k
    by_cases hk : k = n
    · rw [hk, modCluster_cluster_same, h]
    · rw [modCluster_cluster_ne s n f k hk]
  exact congrArg (fun e => { outline p s with clusterJob := e }) job

theorem outline_writeSpot (x : Spot) (v : Nat) : outline p (s.writeSpot x v) = outline p s := by
  unfold State.writeSpot
  split
  · exact outline_writeLine p s _ _
  · exact outline_modCluster p s _ (fun _ => rfl)
  · rfl
  · rfl

theorem outline_readSpot (q : Nat) (ext : List (Spot × Line)) (x : Spot) : outline p (s.readSpot q ext x).1 = outline p s := by
  unfold State.readSpot
  split
  · split
    next h => exact outline_of_fst p h (outline_readLine p s _ _ _)
    next h => exact outline_of_fst p h (outline_readLine p s _ _ _)
  all_goals rfl

end

theorem outline_readSpots (p q : Nat) (ext : List (Spot × Line)) (l : List Spot) (s : State) :
    outline p (s.readSpots q ext l).1 = outline p s := by
  induction l generalizing s with
  | nil => rfl
  | cons x l ih =>
    unfold State.readSpots
    split
    next h => exact outline_of_fst p h (outline_readSpot p s _ _ _)
    next h => exact (ih _).trans (outline_of_fst p h (outline_readSpot p s _ _ _))

section

variable (p : Nat) (s : State)

theorem outline_applyPiece (q : Nat) (x : Piece) : outline p (s.applyPiece q x).1 = outline p s := by
  unfold State.applyPiece
  split
  · rfl
  · split
    · rfl
    · split
      · split
        next h => exact outline_of_fst p h (outline_mergeLine p s _ _ _ _ _ _)
        next h => exact outline_of_fst p h (outline_mergeLine p s _ _ _ _ _ _)
      · exact outline_toHost p s _
      · split
        next h => exact (outline_writeSpot p _ _ _).trans (outline_of_fst p h (outline_readSpot p s _ _ _))
        next h => exact outline_of_fst p h (outline_readSpot p s _ _ _)
      · split
        next h => exact (outline_writeSpot p _ _ _).trans (outline_of_fst p h (outline_readSpot p s _ _ _))
        next h => exact outline_of_fst p h (outline_readSpot p s _ _ _)
      · split
        next h => exact outline_of_fst p h (outline_readSpots p _ _ _ s)
        next h =>
          exact (foldl_keeps (outline p) _ (fun u y => outline_writeSpot p u _ _) _ _).trans
            (outline_of_fst p h (outline_readSpots p _ _ _ s))

theorem outline_applyAny (q : Nat) (xs : List Piece) : outline p (s.applyAny q xs) = outline p s :=
  foldl_keeps (outline p) _ (fun u x => by
    dsimp only
    split
    · exact outline_applyPiece p u.useFree q x
    · rfl) xs s

theorem outline_stopCopies (q : Nat) : outline p (s.stopCopies q) = outline p s :=
  foldl_keeps (outline p) _ (fun u (c : CopyJob) => outline_applyAny p u q c.pieces) _ s

end

end Sys2Proof.Proofs
end

section
/-! PROOF of the module's own resets (18 R442 to R445; 21 R483). A cold reset leaves a state that is written out; a warm one stops the
units and then leaves what nothing of that stopping touches. -/

namespace Sys2Proof.Proofs

open Sys2Proof Sys2Proof.Machine Sys2Proof.Laws

/-! ### Cold resets -/

/-- What a cold reset keeps and clears (18 R443, R446). -/
def ColdAfter (s : State) (kind : Nat) (perst : Bool) (t : State) : Prop :=
  t.module.electrical = .inReset ∧ t.module.stage = 0 ∧ t.module.booted = false ∧ t.module.lastReset = kind ∧ t.module.perst = perst ∧
    t.mem = [] ∧ t.parts = [] ∧ t.clusters = [] ∧ t.engines = [] ∧ t.regs = [] ∧ t.fns = [] ∧ t.copies = [] ∧ t.memory = Memory.reset ∧
    t.links = Links.reset ∧ t.time = TimeBase.reset ∧ t.sec.debugOpen = s.sec.debugOpen ∧ t.sec.failedUnlocks = s.sec.failedUnlocks ∧
    t.sec.nonce = s.sec.nonce ∧ t.slotValue 6 = s.slotValue 6 ∧ (∀ k, k ≠ 6 → t.slotValue k = 0) ∧ t.sec.busy = false ∧
    (s.sec.op = none → t.sec.flash = s.sec.flash)

theorem cutFlash_idle {s : State} (h : s.sec.op = none) : s.cutFlash = s.sec.flash := by
  simp [State.cutFlash, h]

theorem coldAfter_coldReset (s : State) (kind : Nat) (perst : Bool) : ColdAfter s kind perst (s.coldReset kind perst) :=
  ⟨rfl, rfl, rfl, rfl, rfl, rfl, rfl, rfl, rfl, rfl, rfl, rfl, rfl, rfl, rfl, rfl, rfl, rfl, tab_get_set_same _ [] 6 _,
    fun k hk => tab_get_set_ne _ [] 6 k _ hk, rfl, cutFlash_idle⟩

theorem exec_perstNAssert_long {us : Nat} {s : State} (h : 100 ≤ us) :
    exec (.perstNAssert us) s =
      .next (if s.powered then s.coldReset 1 true else { s with module := { s.module with perst := true } }) := by
  show execPerstNAssert us s = _
  simp [execPerstNAssert, Nat.not_lt.mpr h]

theorem exec_perstNAssert_short {us : Nat} {s : State} (h : us < 100) (hp : s.powered = true) :
    exec (.perstNAssert us) s = .next (if bitAt s.freeVal 0 then s.useFree else s.useFree.coldReset 1 true) := by
  show execPerstNAssert us s = _
  simp [execPerstNAssert, h, hp]

/-! ### The write of MOD_RESET -/

/-- A write of MOD_RESET acts from physical function 0, with its key, on a running module that has been ready (18 R444). -/
theorem resetWrite_iff (s : State) (fn : Nat) (v : W64) : s.resetWrite fn v = true ↔
    fn = 0 ∧ fld v 31 16 = 0x5A5A ∧ s.module.electrical = .running ∧ (s.module.stage = 4 ∨ s.module.stage = 6) := by
  simp [State.resetWrite, and_assoc]

theorem exec_modReset_ignored {s : State} (fn : FnId) {v : W64} (h : s.resetWrite fn.val v = false) :
    exec (.modResetCold fn v) s = .next s ∧ exec (.modResetWarm fn v) s = .next s := by
  constructor
  · exact congrArg Host.Outcome.next (if_neg (by simp [h]))
  · exact congrArg Host.Outcome.next (if_pos (by simp [h]))

theorem exec_modReset_cold {s : State} (fn : FnId) {v : W64} (h : s.resetWrite fn.val v = true) (hc : bitAt v 0 = true) :
    exec (.modResetCold fn v) s = .next (s.coldReset 2 false) ∧ exec (.modResetWarm fn v) s = .next (s.coldReset 2 false) := by
  constructor
  · exact congrArg Host.Outcome.next (if_pos (by simp [h, hc]))
  · exact congrArg Host.Outcome.next ((if_neg (by simp [h])).trans (if_pos hc))

theorem exec_modReset_warm {s : State} (fn : FnId) {v : W64} (h : s.resetWrite fn.val v = true) (hc : bitAt v 0 = false)
    (hw : bitAt v 1 = true) : exec (.modResetWarm fn v) s = .next (s.warmReset 3 false) :=
  congrArg Host.Outcome.next ((if_neg (by simp [h])).trans ((if_neg (by simp [hc])).trans (if_pos hw)))

theorem exec_hotReset {s : State} (hr : s.module.electrical = .running)
    (h : s.module.stage = 4 ∨ s.module.stage = 6 ∨ s.module.stage = 7) : exec .hotReset s = .next (s.warmReset 4 true) :=
  congrArg Host.Outcome.next (if_pos ⟨hr, by simpa using h⟩)

/-! ### The units stop -/

/-- An unlisted key reads as unlisted. -/
theorem tab_get_unlisted {α : Type} (d : Nat → α) {t : Tab α} {k : Nat} (h : k ∉ t.map (·.1)) : Tab.get d t k = d k := by
  induction t with
  | nil => rfl
  | cons e t ih =>
    simp only [List.map_cons, List.mem_cons, not_or] at h
    obtain ⟨hk, ht⟩ := h
    rw [Tab.get, if_neg hk, ih ht]

theorem payDebt_only (s : State) (e : Nat) : ∃ x, s.payDebt e = { s with stackTab := x } := ⟨_, rfl⟩

/-- An ABORT of an engine touches the engine and its stack (05 R150). -/
theorem abortOne_only (s : State) (e : Nat) : ∃ x y, s.abortOne e = { s with engines := x, stackTab := y } := by
  unfold State.abortOne
  dsimp only
  split_ifs
  · obtain ⟨y, h⟩ := payDebt_only ((s.unqueue e).modEngine e Engine.toIdle) e
    exact ⟨_, y, h⟩
  · exact ⟨_, _, rfl⟩
  · exact ⟨s.engines, s.stackTab, rfl⟩

/-- An aborted engine has no run. -/
theorem abortOne_engine_same (s : State) (e : Nat) : ((s.abortOne e).engine e).busy = false := by
  have idle : (((s.unqueue e).modEngine e Engine.toIdle).engine e).busy = false := by
    rw [modEngine_engine_same]
    rfl
  unfold State.abortOne
  dsimp only
  split_ifs with busy
  · exact idle
  · exact idle
  · simpa using busy

theorem abortOne_engine_ne (s : State) {e k : Nat} (h : k ≠ e) : (s.abortOne e).engine k = s.engine k := by
  have other : ((s.unqueue e).modEngine e Engine.toIdle).engine k = s.engine k := modEngine_engine_ne _ e _ k h
  unfold State.abortOne
  dsimp only
  split_ifs
  · exact other
  · exact other
  · rfl

theorem abortOne_keeps_idle (u : State) (a e : Nat) (h : (u.engine e).busy = false) : ((u.abortOne a).engine e).busy = false := by
  by_cases ha : e = a
  · rw [ha]
    exact abortOne_engine_same u a
  · rwa [abortOne_engine_ne u ha]

/-- Every listed engine is aborted, and one that is not listed has no run. -/
theorem abortAll_idle (s : State) (e : Nat) : (((s.engines.map (·.1)).foldl State.abortOne s).engine e).busy = false := by
  by_cases he : e ∈ s.engines.map (·.1)
  · exact foldl_makes (fun e u => (u.engine e).busy = false) State.abortOne abortOne_engine_same abortOne_keeps_idle _ s e he
  · refine List.foldlRecOn _ State.abortOne (motive := fun u => (u.engine e).busy = false) ?_
      (fun u h a _ => abortOne_keeps_idle u a e h)
    rw [State.engine, tab_get_unlisted _ he]
    rfl

/-- A cluster leaves its job, if it has one. -/
def leaveJob (c : Cluster) : Cluster := if c.job.isSome then c.release else c

theorem leaveJob_job (c : Cluster) : (leaveJob c).job = none := by
  unfold leaveJob
  split
  · rfl
  next none => simpa using none

/-- The clusters' part of a stop. -/
def clustersStopped (s : State) : State := { s with clusters := Tab.mapVals (fun _ => Cluster.reset) leaveJob s.clusters }

/-- The first part of a stop: clusters leave their jobs, runs end, and the stacks hold no packets (13 R347). -/
def unitsStopped (s : State) : State :=
  let t := (s.engines.map (·.1)).foldl State.abortOne (clustersStopped s)
  { t with stackTab := Tab.mapVals (fun _ => Stack.reset) (fun (k : Stack) => { k with slots := [], heldPackets := [] }) t.stackTab }

theorem abortAll_only (l : List Nat) (s : State) : ∃ x y, l.foldl State.abortOne s = { s with engines := x, stackTab := y } := by
  induction l generalizing s with
  | nil => exact ⟨_, _, rfl⟩
  | cons e l ih =>
    obtain ⟨x, y, h⟩ := abortOne_only s e
    obtain ⟨x', y', h'⟩ := ih (s.abortOne e)
    exact ⟨x', y', by rw [List.foldl_cons, h', h]⟩

theorem unitsStopped_only (s : State) : ∃ x y, unitsStopped s = { clustersStopped s with engines := x, stackTab := y } := by
  obtain ⟨x, y, h⟩ := abortAll_only (s.engines.map (·.1)) (clustersStopped s)
  unfold unitsStopped
  rw [h]
  exact ⟨_, _, rfl⟩

theorem unitsStopped_job (s : State) (k : Nat) : ((unitsStopped s).cluster k).job = none := by
  obtain ⟨x, y, h⟩ := unitsStopped_only s
  have cluster : (clustersStopped s).cluster k = leaveJob (s.cluster k) :=
    tab_get_mapVals (fun _ => Cluster.reset) leaveJob s.clusters k rfl
  rw [h]
  exact (congrArg (fun c : Cluster => c.job) cluster).trans (leaveJob_job _)

theorem unitsStopped_engine (s : State) (e : Nat) : ((unitsStopped s).engine e).busy = false :=
  abortAll_idle (clustersStopped s) e

/-! ### The rest of the stop -/

/-- The outline of a state but for which rings are enabled. -/
def settled (s : State) : Outline := { outline 0 s with enable := fun _ => 0 }

theorem settled_of_outline {s t : State} (h : outline 0 t = outline 0 s) : settled t = settled s :=
  congrArg (fun o : Outline => { o with enable := fun _ => 0 }) h

theorem outline_endSession (p d : Nat) (s : State) : outline p (s.endSession d) = outline p s := by
  unfold State.endSession
  dsimp only
  split
  · exact foldl_keeps (outline p) _ (fun u n => by rfl) _ s
  · rfl

theorem outline_endSessions (p : Nat) (s : State) : outline p s.endSessions = outline p s :=
  foldl_keeps (outline p) _ (fun u d => by
    split
    · exact outline_endSession p d u
    · rfl) _ s

theorem settled_cutRings (s : State) (n : Nat) : settled (s.cutRings n) = settled s := rfl

/-- The links' part of a stop: copies and sessions end, and nothing that was sent waits for an answer. -/
def sessionsStopped (s : State) : State :=
  let t := ((List.range 8).foldl State.stopCopies s).endSessions
  { t with links := { t.links with sent := [], colls := [] } }

/-- The rings' part of a stop. -/
def ringsStopped (s : State) : State := (List.range 8).foldl (fun u k => u.cutRings (k + 1)) s

theorem stopModule_eq (s : State) : s.stopModule = ringsStopped (sessionsStopped (unitsStopped s)) := by
  unfold State.stopModule
  extract_lets t1 t2 t3 t4 t5 t6
  have units : t3 = unitsStopped s := rfl
  have sessions : t5 = ((List.range 8).foldl State.stopCopies t3).endSessions := rfl
  rw [← units, sessionsStopped, ← sessions, ringsStopped]

theorem outline_clearSent (p : Nat) (s : State) :
    outline p { s with links := { s.links with sent := [], colls := [] } } = outline p s := rfl

theorem outline_sessionsStopped (p : Nat) (s : State) : outline p (sessionsStopped s) = outline p s := by
  rw [sessionsStopped, outline_clearSent, outline_endSessions]
  exact foldl_keeps (outline p) _ (outline_stopCopies p) _ s

theorem settled_ringsStopped (s : State) : settled (ringsStopped s) = settled s :=
  foldl_keeps settled _ (fun u k => settled_cutRings u (k + 1)) _ s

theorem ringsStopped_links (s : State) : (ringsStopped s).links = s.links :=
  foldl_keeps (fun u => u.links) (fun u k => u.cutRings (k + 1)) (fun _ _ => rfl) _ s

/-- A stop of the module leaves what its units' stop leaves (13 R347). -/
theorem stopModule_settled (s : State) : settled s.stopModule = settled (unitsStopped s) := by
  rw [stopModule_eq, settled_ringsStopped]
  exact settled_of_outline (outline_sessionsStopped 0 _)

theorem stopModule_sent (s : State) : s.stopModule.links.sent = [] := by
  rw [stopModule_eq, ringsStopped_links, sessionsStopped]

/-! ### Warm resets -/

/-- What a warm reset makes of a state whose units have stopped, before an opening of the debug port ends (18 R443, R445). -/
def warmState (t : State) (kind : Nat) (host : Bool) : State :=
  { t with
    parts := [], partCtl := PartCtl.reset, mem := [], fns := [], buckets := Buckets.reset, unsent := [], regs := [],
    memory := { t.memory with regions := [], ctl := Memory.reset.ctl, repairs := [], resieve := [], sieve := Memory.reset.sieve },
    stackTab := Tab.mapVals (fun _ => Stack.reset) Stack.applySpare t.stackTab,
    links := { t.links with ports := Tab.mapVals (fun _ => Port.reset) (fun x => x.afterReset t.links.idLock t.time.now) t.links.ports },
    intr := { t.intr with lines := Tab.mapVals (fun _ => IcLine.reset) (fun l => { IcLine.reset with pending := l.pending }) t.intr.lines },
    time := { t.time with pulseLost := false },
    sec := { t.sec with memKeys := 0, spdm := false, terminating := [], dbg := [], waitingReports := [] },
    module := { t.module with
      stage := 7, lastReset := kind, numVfs := if host then 0 else t.module.numVfs, vfEnable := t.module.vfEnable && !host,
      ptmEnable := t.module.ptmEnable && !host } }

theorem warmReset_eq (s : State) (kind : Nat) (host : Bool) :
    s.warmReset kind host = (warmState s.stopModule.restartCores kind host).openPort := by
  unfold State.warmReset
  extract_lets t n m t'
  have stopped : t = s.stopModule.restartCores := rfl
  rw [← stopped]
  clear_value t
  rfl

/-- A port after a reset is enabled and under no test (00 R13; 15 R390; 20 R478). -/
theorem afterReset_port (x : Port) (idLock : Bool) (now : W64) :
    (x.afterReset idLock now).test = none ∧ (x.afterReset idLock now).mode ≠ .disabled := by
  unfold Port.afterReset
  dsimp only
  split_ifs <;> simp_all

/-- What a warm reset keeps and clears, but for the functions and the debug port (18 R443, R445). -/
def WarmRest (s : State) (kind : Nat) (t : State) : Prop :=
  t.module.electrical = s.module.electrical ∧ t.module.stage = 7 ∧ t.module.lastReset = kind ∧ t.mem = [] ∧ t.parts = [] ∧
    t.regs = [] ∧ t.memory.regions = [] ∧ t.unsent = [] ∧ (∀ n, (t.port n).test = none ∧ (t.port n).mode ≠ .disabled) ∧
    (∀ n, t.icLine n = { IcLine.reset with pending := (t.icLine n).pending }) ∧ (∀ k, (t.cluster k).job = none) ∧
    (∀ e, (t.engine e).busy = false) ∧ t.links.sent = [] ∧ t.links.moduleId = s.links.moduleId ∧ t.links.idLock = s.links.idLock ∧
    t.time.now = s.time.now ∧ t.time.mode = s.time.mode ∧ t.power = s.power ∧ t.sec.slots = s.sec.slots ∧ t.sec.memKeys = 0 ∧
    t.sec.flash.banks = s.sec.flash.banks ∧ t.sec.flash.floors = s.sec.flash.floors ∧ t.sec.flash.owners = s.sec.flash.owners

/-- What a stop of the module leaves of a state, in the words of a warm reset. -/
def Halted (s t : State) : Prop :=
  t.module = s.module ∧ t.time = s.time ∧ t.power = s.power ∧ wearless t.sec = wearless s.sec ∧ t.links.moduleId = s.links.moduleId ∧
    t.links.idLock = s.links.idLock ∧ t.links.sent = [] ∧ (∀ k, (t.cluster k).job = none) ∧ (∀ e, (t.engine e).busy = false)

theorem settled_fields {s t : State} (h : settled t = settled s) :
    t.module = s.module ∧ t.time = s.time ∧ t.power = s.power ∧ wearless t.sec = wearless s.sec ∧ t.links.moduleId = s.links.moduleId ∧
      t.links.idLock = s.links.idLock ∧ (∀ k, (t.cluster k).job = (s.cluster k).job) ∧ t.engines = s.engines :=
  ⟨congrArg Outline.module h, congrArg Outline.time h, congrArg Outline.power h, congrArg Outline.sec h,
    congrArg (fun o : Outline => o.ids.1) h, congrArg (fun o : Outline => o.ids.2) h, congrFun (congrArg Outline.clusterJob h),
    congrArg Outline.engines h⟩

theorem halted_stopModule (s : State) : Halted s s.stopModule := by
  obtain ⟨module, time, power, sec, moduleId, idLock, job, engines⟩ := settled_fields (stopModule_settled s)
  obtain ⟨x, y, units⟩ := unitsStopped_only s
  refine ⟨module.trans ?_, time.trans ?_, power.trans ?_, sec.trans ?_, moduleId.trans ?_, idLock.trans ?_, stopModule_sent s, fun k => ?_,
    fun e => ?_⟩
  iterate 6
    rw [units]
    rfl
  · rw [job]
    exact unitsStopped_job s k
  · rw [State.engine, engines]
    exact unitsStopped_engine s e

theorem halted_restartCores {s t : State} (h : Halted s t) : Halted s t.restartCores := h

theorem warmState_port (t : State) (kind : Nat) (host : Bool) (n : Nat) :
    (warmState t kind host).port n = (t.port n).afterReset t.links.idLock t.time.now :=
  tab_get_mapVals (fun _ => Port.reset) (fun x => x.afterReset t.links.idLock t.time.now) t.links.ports n rfl

theorem warmState_icLine (t : State) (kind : Nat) (host : Bool) (n : Nat) :
    (warmState t kind host).icLine n = { IcLine.reset with pending := (t.icLine n).pending } :=
  tab_get_mapVals (fun _ => IcLine.reset) (fun l : IcLine => { IcLine.reset with pending := l.pending }) t.intr.lines n rfl

/-- The words of the security core that a stop leaves. -/
theorem halted_sec {a b : Sec} (h : wearless a = wearless b) :
    a.slots = b.slots ∧ a.opening = b.opening ∧ a.debugOpen = b.debugOpen ∧ a.flash.banks = b.flash.banks ∧
      a.flash.floors = b.flash.floors ∧ a.flash.owners = b.flash.owners := by
  simp only [wearless, Sec.mk.injEq, Flash.mk.injEq] at h
  simp only [h, and_self]

theorem warmRest_warmState {s t : State} (h : Halted s t) (kind : Nat) (host : Bool) : WarmRest s kind (warmState t kind host) := by
  obtain ⟨module, time, power, sec, moduleId, idLock, sent, job, engine⟩ := h
  obtain ⟨slots, -, -, flash⟩ := halted_sec sec
  have electrical : t.module.electrical = s.module.electrical := by rw [module]
  have now : t.time.now = s.time.now ∧ t.time.mode = s.time.mode := by rw [time]; exact ⟨rfl, rfl⟩
  have port (n : Nat) : ((warmState t kind host).port n).test = none ∧ ((warmState t kind host).port n).mode ≠ .disabled := by
    rw [warmState_port]
    exact afterReset_port _ _ _
  have line (n : Nat) : (warmState t kind host).icLine n = { IcLine.reset with pending := ((warmState t kind host).icLine n).pending } := by
    rw [warmState_icLine]
  exact ⟨electrical, rfl, rfl, rfl, rfl, rfl, rfl, rfl, port, line, job, engine, sent, moduleId, idLock, now.1, now.2, power, slots, rfl,
    flash⟩

/-! ### The debug port opens -/

/-- A state with other functions, of which no ring is enabled. -/
def OnlyIdleFns (s t : State) : Prop := (∃ f, t = { s with fns := f }) ∧ ∀ n, (t.fn n).enable = 0

theorem onlyIdleFns_modFn {s t : State} (h : OnlyIdleFns s t) (n : Nat) {f : Fn → Fn} (hf : ∀ x, (f x).enable = x.enable) :
    OnlyIdleFns s (t.modFn n f) := by
  obtain ⟨⟨g, rfl⟩, idle⟩ := h
  refine ⟨⟨_, rfl⟩, fun k => ?_⟩
  exact (congrFun (congrArg Outline.enable (outline_modFn 0 _ n hf)) k).trans (idle k)

theorem openMailbox_idle {s : State} {n : Nat} (h : (s.fn n).enable = 0) : s.openMailbox n = none := by
  have off : s.mailbox n = none := by
    simp [State.mailbox, State.ringOn, bitAt, h]
  rw [State.openMailbox, off]

/-- A fatal record to a function without rings is counted as lost (12 R322, R324). -/
theorem onlyIdleFns_postFatal {s t : State} (h : OnlyIdleFns s t) (fn block code inst arg : Nat) :
    OnlyIdleFns s (t.postFatal fn block code inst arg) := by
  have lost (u : State) (hu : OnlyIdleFns s u) (n : Nat) := onlyIdleFns_modFn hu n
    (f := fun x => { x with lost := BitVec.ofNat 32 (satAdd 0xFFFFFFFF x.lost.toNat 1) }) (fun _ => rfl)
  unfold State.postFatal
  dsimp only
  rw [openMailbox_idle (h.2 fn)]
  dsimp only
  split
  · exact lost t h fn
  · rw [openMailbox_idle ((lost t h fn).2 0)]
    exact lost _ (lost t h fn) 0

/-- An opening that waits for nothing more ends: the port is open, and the functions have lost its record (16 R411). -/
theorem openPort_opens {s : State} (ho : s.sec.opening = true) (ht : s.sec.terminating = []) (hw : s.sec.waitingReports = [])
    (hf : ∀ n, (s.fn n).enable = 0) :
    ∃ f, s.openPort = { s with sec := { s.sec with opening := false, debugOpen := true }, fns := f } := by
  have posted : OnlyIdleFns { s with sec := { s.sec with opening := false, debugOpen := true } }
      (State.postFatalAll { s with sec := { s.sec with opening := false, debugOpen := true } } 8 1 0 0) :=
    List.foldlRecOn _ _ (motive := OnlyIdleFns _) ⟨⟨s.fns, rfl⟩, hf⟩ (fun u h n _ => onlyIdleFns_postFatal h n 8 1 0 0)
  obtain ⟨⟨f, posted⟩, -⟩ := posted
  refine ⟨f, ?_⟩
  rw [State.openPort, if_pos (by simp [ho, ht]), posted, State.answerWaiting, hw]
  exact congrArg (fun w => ({ s with sec := { s.sec with opening := false, debugOpen := true, waitingReports := w }, fns := f } : State)) hw.symm

/-- What a warm reset keeps and clears (18 R443, R445): an opening of the debug port goes on to its end. -/
def WarmAfter (s : State) (kind : Nat) (t : State) : Prop :=
  t.module.electrical = s.module.electrical ∧ t.module.stage = 7 ∧ t.module.lastReset = kind ∧ t.mem = [] ∧ t.parts = [] ∧
    t.regs = [] ∧ t.memory.regions = [] ∧ t.unsent = [] ∧ (∀ n, (t.port n).test = none ∧ (t.port n).mode ≠ .disabled) ∧
    (∀ n, t.icLine n = { IcLine.reset with pending := (t.icLine n).pending }) ∧
    (s.sec.opening = false → t.fns = [] ∧ t.sec.debugOpen = s.sec.debugOpen) ∧
    (s.sec.opening = true → t.sec.opening = false ∧ t.sec.debugOpen = true) ∧ (∀ k, (t.cluster k).job = none) ∧
    (∀ e, (t.engine e).busy = false) ∧ t.links.sent = [] ∧ t.links.moduleId = s.links.moduleId ∧ t.links.idLock = s.links.idLock ∧
    t.time.now = s.time.now ∧ t.time.mode = s.time.mode ∧ t.power = s.power ∧ t.sec.slots = s.sec.slots ∧ t.sec.memKeys = 0 ∧
    t.sec.flash.banks = s.sec.flash.banks ∧ t.sec.flash.floors = s.sec.flash.floors ∧ t.sec.flash.owners = s.sec.flash.owners

theorem warmAfter_of_rest {s t : State} {kind : Nat} (h : WarmRest s kind t)
    (closed : s.sec.opening = false → t.fns = [] ∧ t.sec.debugOpen = s.sec.debugOpen)
    (opens : s.sec.opening = true → t.sec.opening = false ∧ t.sec.debugOpen = true) : WarmAfter s kind t := by
  obtain ⟨h1, h2, h3, h4, h5, h6, h7, h8, h9, h10, rest⟩ := h
  exact ⟨h1, h2, h3, h4, h5, h6, h7, h8, h9, h10, closed, opens, rest⟩

theorem openPort_closed {s : State} (h : s.sec.opening = false) : s.openPort = s := by
  rw [State.openPort, if_neg (by simp [h])]

/-- A warm reset of a halted module. -/
theorem warmAfter_openPort {s t : State} (h : Halted s t) (kind : Nat) (host : Bool) :
    let u := (warmState t kind host).openPort
    WarmAfter s kind u ∧ u.module.numVfs = (if host then 0 else s.module.numVfs) ∧
      u.module.vfEnable = (s.module.vfEnable && !host) ∧ u.module.ptmEnable = (s.module.ptmEnable && !host) := by
  have rest := warmRest_warmState h kind host
  obtain ⟨module, -, -, sec, -⟩ := h
  obtain ⟨-, opening, debugOpen, -⟩ := halted_sec sec
  rw [← module]
  cases ho : s.sec.opening with
  | false =>
    have closed : (warmState t kind host).openPort = warmState t kind host := openPort_closed (opening.trans ho)
    rw [closed]
    exact ⟨warmAfter_of_rest rest (fun _ => ⟨rfl, debugOpen⟩) (fun k => by simp [ho] at k), rfl, rfl, rfl⟩
  | true =>
    obtain ⟨f, opened⟩ := openPort_opens (s := warmState t kind host) (opening.trans ho) rfl rfl (fun _ => rfl)
    rw [opened]
    exact ⟨warmAfter_of_rest rest (fun k => by simp [ho] at k) (fun _ => ⟨rfl, rfl⟩), rfl, rfl, rfl⟩

/-- A warm reset (18 R443, R445), and what it keeps of configuration space. -/
theorem warmAfter_warmReset (s : State) (kind : Nat) (host : Bool) :
    let t := s.warmReset kind host
    WarmAfter s kind t ∧ t.module.numVfs = (if host then 0 else s.module.numVfs) ∧
      t.module.vfEnable = (s.module.vfEnable && !host) ∧ t.module.ptmEnable = (s.module.ptmEnable && !host) := by
  rw [warmReset_eq]
  exact warmAfter_openPort (halted_restartCores (halted_stopModule s)) kind host

end Sys2Proof.Proofs
end

section
/-! PROOF of what the end of a function's work leaves (13 R346; 16 R408; 18 R443): jobs, requests, copies and regions end one after
another, and of the outline of their partition only its jobs, its TDI, its mode and its keys differ. -/

namespace Sys2Proof.Proofs

open Sys2Proof Sys2Proof.Machine Sys2Proof.Laws

section

variable (p : Nat) (s : State)

/-! ### Requests and the journal -/

theorem outline_journal (q typ : Nat) (body : List Byte) : outline p (s.journal q typ body) = outline p s := by
  unfold State.journal
  split
  · rfl
  · split
    · rfl
    · exact (foldl_keeps (outline p) _ (fun u e => outline_putRing p u _ _ e) _ _).trans
        (outline_modPart p s q (fun _ => ⟨rfl, rfl, rfl, rfl⟩))

theorem outline_journalTime (q purpose : Nat) : outline p (s.journalTime q purpose) = outline p s := by
  unfold State.journalTime
  dsimp only
  split <;> exact outline_journal p s _ _ _

theorem outline_freeParcels (q : Nat) (is : List Nat) : outline p (s.freeParcels q is) = outline p s :=
  foldl_keeps (outline p) _ (fun u _ => (outline_modRound p _ q _).trans (outline_modRound p u q _)) _ s

theorem outline_modPrefix (q i : Nat) (f : Prefix → Prefix) : outline p (s.modPrefix q i f) = outline p s := by
  unfold State.modPrefix
  split
  · exact outline_modRound p s q _
  · rfl

theorem outline_dropSeq (q i : Nat) : outline p (s.dropSeq q i) = outline p s := by
  unfold State.dropSeq
  split
  · rfl
  · refine (outline_modRound p _ q _).trans ((outline_modRound p _ q _).trans ?_)
    split
    · rw [outline_modPrefix, outline_freeParcels]
    · exact outline_freeParcels p s q _

theorem outline_endSeq (q i status : Nat) : outline p (s.endSeq q i status) = outline p s := by
  unfold State.endSeq
  split
  · rfl
  · rw [outline_dropSeq, outline_putRing, outline_journalTime]

theorem outline_answer (q fn ring typ status tenant req admitted : Nat) :
    outline p (s.answer q fn ring typ status tenant req admitted) = outline p s := by
  rw [State.answer, outline_putRing, outline_journalTime]

theorem outline_endRequests (q status : Nat) : outline p (s.endRequests q status) = outline p s :=
  (outline_modRound p _ q _).trans
    ((foldl_keeps (outline p) _ (fun u (_ : Admission) => outline_answer p u q _ _ _ _ _ _ _) _ _).trans
      (foldl_keeps (outline p) _ (fun u (e : Nat × RoundEntry) => outline_endSeq p u q e.1 status) _ s))

theorem outline_emptyRound (q : Nat) : outline p (s.emptyRound q) = outline p s := outline_modRound p s q _

theorem outline_stopJournal (q : Nat) : outline p (s.stopJournal q) = outline p s :=
  outline_modPart p s q (fun _ => ⟨rfl, rfl, rfl, rfl⟩)

/-! ### Copies -/

theorem outline_firmwareError (q : Nat) : outline p (s.firmwareError q) = outline p s :=
  outline_modPart p s q (fun _ => ⟨rfl, rfl, rfl, rfl⟩)

theorem outline_regionWord (n o q : Nat) : outline p (s.regionWord n o q).1 = outline p s := by
  unfold State.regionWord
  split
  next h => exact outline_of_fst p h (outline_readLine p s _ _ _)
  next h => exact outline_of_fst p h (outline_readLine p s _ _ _)

theorem outline_regionPut (n o q len v : Nat) : outline p (s.regionPut n o q len v) = outline p s := by
  unfold State.regionPut
  split
  next h => exact outline_of_fst p h (outline_mergeLine p s _ _ _ _ _ _)
  next h => exact (outline_firmwareError p _ q).trans (outline_of_fst p h (outline_mergeLine p s _ _ _ _ _ _))

theorem outline_discardCopies (q : Nat) : outline p (s.discardCopies q) = outline p s := by
  unfold State.discardCopies
  split
  · rfl
  · dsimp only
    split
    next h => exact (outline_firmwareError p _ q).trans (outline_of_fst p h (outline_regionWord p s _ _ _))
    next h =>
      have first := outline_of_fst p h (outline_regionWord p s _ _ _)
      split
      next k => exact (outline_firmwareError p _ q).trans ((outline_of_fst p k (outline_regionWord p _ _ _ _)).trans first)
      next k =>
        refine (outline_regionPut p _ _ _ _ _ _).trans ((foldl_keeps (outline p) _ (fun u i => outline_regionPut p u _ _ _ _ _) _ _).trans ?_)
        exact (outline_of_fst p k (outline_regionWord p _ _ _ _)).trans first

theorem outline_faultDue (q : Nat) : outline p (s.faultDue q) = outline p s :=
  outline_modPart p s q (fun _ => ⟨rfl, rfl, rfl, rfl⟩)

/-- A copy that ends without a bus error leaves its record, or a job fault that is due (10 R297, R298). -/
theorem outline_endCopy (c : CopyJob) {status : Nat} (h : status ≠ 0x34) (err : Option Nat) :
    outline p (s.endCopy c status err) = outline p s := by
  have digested (u : State) (o : Option (Nat × List Byte)) (g : Nat × List Byte → Part → Tab (Option Digest)) :
      outline p (match o with | some x => u.modPart c.partition (fun y => { y with digests := g x y }) | none => u) = outline p u := by
    cases o with
    | none => rfl
    | some x => exact outline_modPart p u _ (fun _ => ⟨rfl, rfl, rfl, rfl⟩)
  unfold State.endCopy
  dsimp only
  split
  · split
    · exact (outline_putRing p _ _ _ _).trans (digested _ _ _)
    · exact (outline_modRing p _ _ _ _).trans (digested _ _ _)
  · rw [if_neg h]
    split
    · exact digested _ _ _
    · exact (outline_faultDue p _ _).trans (digested _ _ _)

theorem outline_failCopies (q : Nat) : outline p (s.failCopies q 0x35) = outline p s :=
  (outline_stopCopies p _ q).trans (foldl_keeps (outline p) _ (fun u (c : CopyJob) =>
    (outline_endCopy p _ c (by decide) none).trans (outline_applyAny p u q c.pieces)) _ s)

/-! ### Regions -/

theorem outline_invalidate (r : Region) (q : Nat) : outline p (s.invalidate r q) = outline p s :=
  foldl_keeps (outline p) _ (fun u (e : Nat × TensorEntry) => by
    split
    · split
      · exact (outline_post p _ _ _ _ _ _).trans (outline_modPart p u q (fun _ => ⟨rfl, rfl, rfl, rfl⟩))
      · rfl
    · rfl) _ s

theorem outline_sieveLine (z : SieveSum) (pln : Nat) : outline p (s.sieveLine z pln).1 = outline p s := by
  unfold State.sieveLine
  dsimp only
  split_ifs
  · rfl
  · rfl
  · have bad := outline_badLine p s (sequencerOf pln) pln 0xFF true false
    generalize s.badLine (sequencerOf pln) pln 0xFF true false = t at bad ⊢
    split
    · exact (outline_modRound p t _ _).trans bad
    · exact bad
  · split
    · rfl
    · rw [outline_corrected, outline_setStored]
    · exact outline_badLine p s _ _ _ _ _

theorem outline_sieveLines (z : SieveSum) (ls : List Nat) : outline p (s.sieveLines z ls).1 = outline p s :=
  foldl_keeps (fun a : State × SieveSum => outline p a.1) _ (fun a l => outline_sieveLine p a.1 a.2 l) ls (s, z)

theorem outline_resieveNow : outline p s.resieveNow = outline p s := by
  unfold State.resieveNow
  split
  · rfl
  · exact outline_sieveLines p _ _ _

theorem outline_memory (m : Machine.Memory) : outline p { s with memory := m } = outline p s := rfl

/-- No load digest lists a region that leaves (16 R405). -/
def unlisted (n : Nat) (x : Part) : Part := { x with digestList := x.digestList.filter (fun d => !d.regions.contains n) }

theorem outline_unlisted (n q : Nat) : outline p (s.modPart q (unlisted n)) = outline p s :=
  outline_modPart p s q (fun _ => ⟨rfl, rfl, rfl, rfl⟩)

theorem outline_leaveRegion (n : Nat) : outline p (s.leaveRegion n) = outline p s := by
  have lists (u : State) : outline p ((List.range 8).foldl (fun t q => t.modPart q (unlisted n)) u) = outline p u :=
    foldl_keeps (outline p) (fun t q => t.modPart q (unlisted n)) (fun t q => outline_unlisted p t n q) _ u
  have handles (u : State) (r : Region) :
      outline p ((List.range 8).foldl (fun t q => if r.readable q then t.invalidate r q else t) u) = outline p u :=
    foldl_keeps (outline p) (fun t q => if r.readable q then t.invalidate r q else t) (fun t q => by
      split
      · exact outline_invalidate p t r q
      · rfl) _ u
  unfold State.leaveRegion
  extract_lets r t1 t2 m q
  rw [outline_resieveNow, outline_memory]
  exact (lists t1).trans (handles s r)

theorem outline_dropTensors (q : Nat) : outline p (s.dropTensors q) = outline p s :=
  outline_modPart p s q (fun _ => ⟨rfl, rfl, rfl, rfl⟩)

end

/-! ### Clusters, runs and jobs -/

/-- The outline of a state but for the units that its partitions' work occupies. -/
def ending (p : Nat) (s : State) : Outline := { outline p s with clusterJob := fun _ => none, engines := [] }

section

variable {p : Nat} {s t : State}

theorem ending_of_outline (h : outline p t = outline p s) : ending p t = ending p s :=
  congrArg (fun o : Outline => { o with clusterJob := fun _ => none, engines := [] }) h

theorem ending_modClusters (cs : List Nat) (f : Cluster → Cluster) : ending p (s.modClusters cs f) = ending p s :=
  foldl_keeps (ending p) (fun u c => u.modCluster c f) (fun _ _ => rfl) cs s

theorem ending_abortRuns (q : Nat) : ending p (s.abortRuns q) = ending p s := by
  obtain ⟨x, y, h⟩ := abortAll_only (s.runsOf q) s
  rw [State.abortRuns, h]
  rfl

theorem ending_stopPartition (q : Nat) : ending p (s.stopPartition q) = ending p s := by
  unfold State.stopPartition
  extract_lets t1 t2
  have clusters : ending p t1 = ending p s := ending_modClusters _ _
  have runs : ending p t2 = ending p t1 := ending_abortRuns q
  have copies : ending p (t2.discardCopies q) = ending p t2 := ending_of_outline (outline_discardCopies p t2 q)
  refine (ending_of_outline (outline_modPart p _ q ?_)).trans (copies.trans (runs.trans clusters))
  exact fun _ => ⟨rfl, rfl, rfl, rfl⟩

/-- A change of partition p's own jobs, and of nothing else that the outline shows. -/
theorem ending_modPart_jobs (f : Part → Part)
    (h : ∀ x, (f x).mode = x.mode ∧ (f x).tdi = x.tdi ∧ (f x).applied = x.applied) :
    ending p (s.modPart p f) = { ending p s with jobs := (f (s.part p)).jobs } := by
  obtain ⟨mode, tdi, applied⟩ := h (s.part p)
  simp only [ending, outline, modPart_part_same, mode, tdi, applied]
  rfl

/-- A job that ends leaves the list of jobs (13 R346). -/
theorem ending_endJob (n status fault detail detail2 : Nat) : ending p (s.endJob p n status fault detail detail2) =
    { ending p s with jobs := (ending p s).jobs.filter (fun k => k.num != n) } := by
  unfold State.endJob
  split
  next none =>
    have others : (s.part p).jobs.filter (fun k => k.num != n) = (s.part p).jobs := by
      simpa [State.job] using none
    exact (congrArg (fun l => { ending p s with jobs := l }) others).symm
  next j _ =>
    have released := ending_modClusters (p := p) (s := s) j.clusters (fun x => if x.job = some (p, n) then x.release else x)
    refine (ending_of_outline (outline_putRing p _ _ _ _)).trans ((ending_modPart_jobs _ ?_).trans ?_)
    · exact fun _ => ⟨rfl, rfl, rfl⟩
    · exact congrArg (fun o : Outline => { o with jobs := o.jobs.filter (fun k => k.num != n) }) released

theorem ending_endJobs (l : List Job) (s : State) : ending p (l.foldl (fun u j => u.endJob p j.num 0x43 0 0 0) s) =
    { ending p s with jobs := (ending p s).jobs.filter (fun k => l.all (fun j => k.num != j.num)) } := by
  induction l generalizing s with
  | nil => simp
  | cons j l ih =>
    rw [List.foldl_cons, ih, ending_endJob]
    simp only [List.filter_filter, List.all_cons, Bool.and_comm]

/-- Once its live jobs have ended a partition has none. -/
theorem live_endJobs (l : List Job) :
    (l.filter (fun k => (l.filter Job.live).all (fun j => k.num != j.num))).filter Job.live = [] := by
  rw [List.filter_filter, List.filter_eq_nil_iff]
  intro j hj h
  simp only [Bool.and_eq_true, List.all_eq_true, List.mem_filter] at h
  obtain ⟨live, other⟩ := h
  simpa using other j ⟨hj, live⟩

/-- The end of a partition's work ends its live jobs (13 R338). -/
theorem ending_endWork : ∃ l, l.filter Job.live = [] ∧ ending p (s.endWork p) = { ending p s with jobs := l } := by
  refine ⟨_, live_endJobs (s.stopPartition p |>.part p).jobs, ?_⟩
  refine (ending_of_outline ((outline_emptyRound p _ p).trans (outline_endRequests p _ p _))).trans ((ending_endJobs _ _).trans ?_)
  have stopped := ending_stopPartition (p := p) (s := s) p
  rw [stopped, ← congrArg Outline.jobs stopped]
  rfl

/-! ### A partition without its work -/

theorem ending_loseWork : ending p (s.loseWork p) = { ending p s with jobs := [] } := by
  unfold State.loseWork
  extract_lets t1 t2 t3
  have clusters : ending p t1 = ending p s := ending_modClusters _ _
  have runs : ending p (t1.abortRuns p) = ending p t1 := ending_abortRuns p
  have copies : ending p t2 = ending p (t1.abortRuns p) := ending_of_outline (outline_stopCopies p _ p)
  have round : ending p t3 = ending p t2 :=
    ending_of_outline ((outline_modRound p (t2.emptyRound p) p _).trans (outline_emptyRound p t2 p))
  have journal : ending p (t3.stopJournal p) = ending p t3 := ending_of_outline (outline_stopJournal p t3 p)
  refine (ending_modPart_jobs _ ?_).trans ?_
  · exact fun _ => ⟨rfl, rfl, rfl⟩
  · exact congrArg (fun o : Outline => { o with jobs := [] }) (journal.trans (round.trans (copies.trans (runs.trans clusters))))

theorem loseWork_entries : ((s.loseWork p).round p).entries = [] := by
  simp [State.loseWork, State.stopJournal, State.emptyRound, State.round]

/-- Of the other partitions only what its copies still write may differ. -/
theorem loseWork_part_ne {k : Nat} (h : k ≠ p) : (s.loseWork p).part k =
    (((s.modClusters (s.partClusters p) (fun x => if x.job.isSome then x.release else x)).abortRuns p).stopCopies p).part k := by
  simp [State.loseWork, State.stopJournal, State.emptyRound, h]

/-! ### A termination -/

/-- The TDI once its partition's work is lost (16 R407). -/
def failedTdi (x : TdiMode) : TdiMode := if x = .locked ∨ x = .running then .error else x

theorem failedTdi_twice (x : TdiMode) : failedTdi (failedTdi x) = failedTdi x := by
  cases x <;> rfl

theorem ending_tdiFails : ending p (s.tdiFails p) = { ending p s with tdi := failedTdi (ending p s).tdi } := by
  simp only [State.tdiFails, ending, outline, modPart_part_same, failedTdi]
  rfl

theorem ending_destroyKeys : ending p (s.destroyKeys p) =
    { ending p s with sec := { (ending p s).sec with memKeys := setFld (ending p s).sec.memKeys p p 0 } } := by
  have round (f : Round → Round) : ending p (s.modRound p f) = ending p s := ending_of_outline (outline_modRound p s p f)
  unfold State.destroyKeys
  exact congrArg (fun o : Outline => { o with sec := { o.sec with memKeys := setFld o.sec.memKeys p p 0 } }) (round _)

theorem ending_setRegionState (n st : Nat) : ending p (s.setRegionState n st) = ending p s := rfl

theorem ending_regionsRefused (l : List Nat) (s : State) : ending p
    (l.foldl (fun u n => if (u.region n).st = 2 then (u.leaveRegion n).setRegionState n 3 else u) s) = ending p s :=
  foldl_keeps (ending p) _ (fun u n => by
    split
    · exact (ending_setRegionState n 3).trans (ending_of_outline (outline_leaveRegion p u n))
    · rfl) l s

end

end Sys2Proof.Proofs
end

section
/-! PROOF of where O50 stands (18 R442 to R445; 16 R408; 21 R483). Every clause of it holds of every state but one: that the reset of an
ordinary virtual function leaves the other partitions. The copies that it stops write their pieces or not by a free choice (13 R347;
log 37), and a piece that does not fill its line reads it first: where the region table lets a firmware-owned region of another partition
lie over the line, a bad line there makes a job fault of that partition due (14 R356). So O50 says exactly that no free choice lets a piece
be written, and the free values are opaque (log 3). -/

namespace Sys2Proof.Proofs

open Sys2Proof Sys2Proof.Machine Sys2Proof.Laws

section

variable {p : Nat} {s : State}

theorem terminate_ordinary (h : s.confidential p = false) (cause : Nat) : s.terminate p cause = s := by
  simp [State.terminate, h]

theorem ending_releasing (s : State) :
    ending p (s.modPart p (fun x => { x with mode := .releasing, digests := [], digestList := [] })) =
      { ending p s with mode := .releasing } := by
  simp only [ending, outline, modPart_part_same]
  rfl

theorem ending_terminating (s : State) (l : List (Nat × Nat)) :
    ending p { s with sec := { s.sec with terminating := s.sec.terminating ++ l } } =
      { ending p s with sec := { (ending p s).sec with terminating := (ending p s).sec.terminating ++ l } } := rfl

/-- A termination empties a confidential partition of its work and destroys its keys (16 R408). -/
theorem ending_terminate (hc : s.confidential p = true) (ht : ∀ e, e ∈ s.sec.terminating → e.1 ≠ p) (cause : Nat) :
    ∃ l, l.filter Job.live = [] ∧ ending p (s.terminate p cause) =
      { ending p s with
        mode := .releasing, tdi := failedTdi (ending p s).tdi, jobs := l,
        sec := { (ending p s).sec with
          memKeys := setFld (ending p s).sec.memKeys p p 0, terminating := (ending p s).sec.terminating ++ [(p, cause)] } } := by
  have free : s.sec.terminating.any (fun e => e.1 == p) = false := by simpa using ht
  unfold State.terminate
  rw [if_neg (by simp [hc, free])]
  extract_lets t1 t2 t3 t4 t5
  obtain ⟨l, dead, work⟩ := ending_endWork (p := p) (s := t1)
  refine ⟨l, dead, ?_⟩
  have keys : ending p t1 = _ := ending_destroyKeys
  have copies : ending p t2 = ending p (t1.endWork p) :=
    ending_of_outline ((outline_stopJournal p _ p).trans (outline_failCopies p _ p))
  have releasing : ending p t3 = _ := ending_releasing (t2.tdiFails p)
  have regions : ending p t5 = ending p t3 :=
    (ending_of_outline (outline_dropTensors p t4 p)).trans (ending_regionsRefused _ t3)
  rw [ending_terminating, regions, releasing, ending_tdiFails, copies, work, keys]

end

/-! ### A function leaves -/

section

variable (s : State) (n : Nat)

theorem resetFn_fn_same : (s.resetFn n).fn n = Fn.reset := tab_get_set_same _ _ n _

theorem resetFn_fn_ne {k : Nat} (h : k ≠ n) : (s.resetFn n).fn k = s.fn k :=
  (tab_get_set_ne _ _ n k _ h).trans (modFn_fn_ne s n _ k h)

/-- The RING_ and EVT_ registers of the function read as after a reset, the others as before (18 R443). -/
theorem resetFn_reg {f off : Nat} (h : off < 2 ^ 24) : (s.resetFn n).reg f off =
    if f = n ∧ 0x20000 ≤ off ∧ off < 0x40000 then regReset (regKey f off) else s.reg f off := by
  have fnOf : regKey f off / 2 ^ 24 = f := by unfold regKey; omega
  have offOf : regKey f off % 2 ^ 24 = off := by unfold regKey; omega
  refine (tab_get_keep regReset (fun k => !(k / 2 ^ 24 == n && decide (0x20000 ≤ k % 2 ^ 24) && decide (k % 2 ^ 24 < 0x40000))) s.regs
    (regKey f off)).trans ?_
  rw [fnOf, offOf]
  by_cases h : f = n ∧ 0x20000 ≤ off ∧ off < 0x40000
  · simp [h]
  · rw [if_neg h, if_pos]
    · rfl
    · simp only [Bool.not_eq_true', Bool.and_eq_false_iff, beq_eq_false_iff_ne, decide_eq_false_iff_not]
      omega

/-- A function whose work is lost, before a confidential partition's termination (18 R443; 16 R407). -/
def functionLost : State :=
  let t := s.resetFn n
  (if (t.part (n - 1)).mode = .ready then t.loseWork (n - 1) else t).tdiFails (n - 1)

theorem exec_vfFunctionLevelReset {fn : FnId} (h : fn.val ≠ 0) (hp : s.present fn.val = true) :
    exec (.vfFunctionLevelReset fn) s = .next ((functionLost s fn.val).terminate (fn.val - 1) 2) :=
  congrArg Host.Outcome.next (if_neg (by simp [h, hp]))

theorem exec_vfFunctionLevelReset_absent {fn : FnId} (h : fn.val = 0 ∨ s.present fn.val = false) :
    exec (.vfFunctionLevelReset fn) s = .next s :=
  congrArg Host.Outcome.next (if_pos (by simpa using h))

theorem ending_functionLost : ending (n - 1) (functionLost s n) = { ending (n - 1) (s.resetFn n) with
    tdi := failedTdi (s.part (n - 1)).tdi,
    jobs := if (s.part (n - 1)).mode = .ready then [] else (s.part (n - 1)).jobs } := by
  have part : (s.resetFn n).part (n - 1) = s.part (n - 1) := rfl
  unfold functionLost
  dsimp only
  rw [ending_tdiFails, part]
  split_ifs
  · rw [ending_loseWork]
    rfl
  · rfl

end

section

variable {p : Nat} {s t : State}

/-- What two states of one ending have in common. -/
theorem ending_fields {o : Outline} (h : ending p t = o) :
    t.module = o.module ∧ t.regs = o.regs ∧ wearless t.sec = o.sec ∧ (∀ k, (t.fn k).enable = o.enable k) ∧ (t.part p).mode = o.mode ∧
      (t.part p).tdi = o.tdi ∧ (t.part p).applied = o.applied ∧ (t.part p).jobs = o.jobs := by
  subst h
  exact ⟨rfl, rfl, rfl, fun _ => rfl, rfl, rfl, rfl, rfl⟩

/-- The terminations and the keys are seen without the wear log. -/
theorem wearless_fields {a x : Sec} (h : wearless a = x) : a.terminating = x.terminating ∧ a.memKeys = x.memKeys := by
  subst h
  exact ⟨rfl, rfl⟩

theorem wearless_keeps {a b : Sec} (h : wearless a = wearless b) : a.terminating = b.terminating ∧ a.memKeys = b.memKeys :=
  wearless_fields (x := wearless b) h

theorem confidential_of_part (hm : (t.part p).mode = (s.part p).mode) (ha : (t.part p).applied = (s.part p).applied) :
    t.confidential p = s.confidential p := by
  simp only [State.confidential, State.holds, hm, ha]

theorem functionLost_confidential (s : State) (n : Nat) : (functionLost s n).confidential (n - 1) = s.confidential (n - 1) := by
  obtain ⟨-, -, -, -, mode, -, applied, -⟩ := ending_fields (ending_functionLost s n)
  exact confidential_of_part mode applied

theorem functionLost_enable (s : State) (n : Nat) :
    ((functionLost s n).fn n).enable = 0 ∧ ∀ k, k ≠ n → ((functionLost s n).fn k).enable = (s.fn k).enable := by
  obtain ⟨-, -, -, enable, -⟩ := ending_fields (ending_functionLost s n)
  refine ⟨(enable n).trans (congrArg (fun f : Fn => f.enable) (resetFn_fn_same s n)), fun k hk => ?_⟩
  exact (enable k).trans (congrArg (fun f : Fn => f.enable) (resetFn_fn_ne s n hk))

/-- A key that is destroyed is not there (16 R393). -/
theorem bitAt_setFld_clear (m : BitVec 8) {i : Nat} (h : i < 8) : bitAt (setFld m i i 0) i = false := by
  have cases : i = 0 ∨ i = 1 ∨ i = 2 ∨ i = 3 ∨ i = 4 ∨ i = 5 ∨ i = 6 ∨ i = 7 := by omega
  rcases cases with rfl | rfl | rfl | rfl | rfl | rfl | rfl | rfl <;> simp [bitAt, setFld]

end

/-! ### The clauses -/

/-- The reset of a confidential partition's function terminates the partition (16 R408). -/
theorem vfFunctionLevelReset_confidential {fn : FnId} {s : State} (hf : fn.val ≠ 0) (hp : s.present fn.val = true)
    (hc : s.confidential (fn.val - 1) = true) (ht : ∀ e, e ∈ s.sec.terminating → e.1 ≠ fn.val - 1) :
    Completes (.vfFunctionLevelReset fn) s (fun t => (t.fn fn.val).enable = 0 ∧ (t.part (fn.val - 1)).mode = .releasing ∧
      t.liveJobs (fn.val - 1) = [] ∧ bitAt t.sec.memKeys (fn.val - 1) = false ∧
      t.sec.terminating = s.sec.terminating ++ [(fn.val - 1, 2)] ∧
      (t.part (fn.val - 1)).tdi = failedTdi (s.part (fn.val - 1)).tdi) := by
  have lost := ending_functionLost s fn.val
  obtain ⟨-, -, sec, -, -, tdi, -⟩ := ending_fields lost
  have waits : (functionLost s fn.val).sec.terminating = s.sec.terminating := (wearless_keeps sec).1
  obtain ⟨l, dead, terminated⟩ := ending_terminate (p := fn.val - 1) (s := functionLost s fn.val)
    ((functionLost_confidential s fn.val).trans hc) (by rwa [waits]) 2
  obtain ⟨-, -, sec', enable, mode, tdi', -, jobs⟩ := ending_fields terminated
  refine ⟨_, exec_vfFunctionLevelReset s hf hp, (enable _).trans (functionLost_enable s fn.val).1, mode, ?_, ?_, ?_, ?_⟩
  · rw [State.liveJobs, jobs, dead]
  · rw [(wearless_fields sec').2]
    exact bitAt_setFld_clear _ (by have := fn.isLt; omega)
  · rw [(wearless_fields sec').1]
    exact congrArg (· ++ [(fn.val - 1, 2)]) waits
  · rw [tdi', ending, outline, tdi, failedTdi_twice]

/-- The reset of an ordinary partition's function: the function's rings and registers, the partition's work and its TDI (18 R443). -/
theorem vfFunctionLevelReset_ordinary {fn : FnId} {s : State} (hf : fn.val ≠ 0) (hp : s.present fn.val = true)
    (hc : s.confidential (fn.val - 1) = false) :
    exec (.vfFunctionLevelReset fn) s = .next (functionLost s fn.val) := by
  rw [exec_vfFunctionLevelReset s hf hp, terminate_ordinary ((functionLost_confidential s fn.val).trans hc)]

/-- A register is read through the table of registers alone. -/
theorem reg_of_regs {s t : State} (h : t.regs = s.regs) (f off : Nat) : t.reg f off = s.reg f off := by
  simp only [State.reg, h]

theorem functionLost_regs (s : State) (n : Nat) : (functionLost s n).regs = (s.resetFn n).regs := by
  have regs : (ending (n - 1) (functionLost s n)).regs = (ending (n - 1) (s.resetFn n)).regs := by rw [ending_functionLost]
  exact regs

theorem functionLost_reg (s : State) (n : Nat) {f off : Nat} (h : off < 2 ^ 24) : (functionLost s n).reg f off =
    if f = n ∧ 0x20000 ≤ off ∧ off < 0x40000 then regReset (regKey f off) else s.reg f off :=
  (reg_of_regs (functionLost_regs s n) f off).trans (resetFn_reg s n h)

theorem tdiFails_entries (s : State) (q : Nat) : ((s.tdiFails q).round q).entries = (s.round q).entries := by
  simp only [State.tdiFails, State.round, modPart_part_same]

theorem functionLost_work (s : State) (n : Nat) (h : (s.part (n - 1)).mode = .ready) :
    ((functionLost s n).part (n - 1)).jobs = [] ∧ ((functionLost s n).round (n - 1)).entries = [] := by
  obtain ⟨-, -, -, -, -, -, -, jobs⟩ := ending_fields (ending_functionLost s n)
  have ready : ((s.resetFn n).part (n - 1)).mode = .ready := h
  refine ⟨jobs.trans (if_pos h), ?_⟩
  rw [functionLost, if_pos ready, tdiFails_entries]
  exact loseWork_entries

theorem functionLost_tdi (s : State) (n : Nat) :
    ((functionLost s n).part (n - 1)).tdi = failedTdi (s.part (n - 1)).tdi ∧ (functionLost s n).module.stage = s.module.stage := by
  obtain ⟨module, -, -, -, -, tdi, -⟩ := ending_fields (ending_functionLost s n)
  exact ⟨tdi, congrArg (fun m : Module => m.stage) module⟩

end Sys2Proof.Proofs
end

section
/-! PROOF of what the reset of a function leaves where no piece of a stopped copy is written (10 R298; 13 R347): the other partitions. -/

namespace Sys2Proof.Proofs

open Sys2Proof Sys2Proof.Machine Sys2Proof.Laws

/-! ### Where no piece of a stopped copy is written -/

/-- No free choice is taken: with this, no piece of a stopped copy is written (10 R298; log 37). -/
def NoChoiceTaken : Prop := ∀ n, bitAt (Config.freeValue n) 0 = false

section

variable (free : NoChoiceTaken)
include free

theorem applyAny_parts (s : State) (q : Nat) (xs : List Piece) : (s.applyAny q xs).parts = s.parts :=
  foldl_keeps (fun u => u.parts) _ (fun u x => by
    have kept : bitAt u.freeVal 0 = false := free u.free
    simp only [kept, Bool.false_eq_true, if_false]
    rfl) xs s

theorem stopCopies_parts (s : State) (q : Nat) : (s.stopCopies q).parts = s.parts :=
  foldl_keeps (fun u => u.parts) _ (fun u (c : CopyJob) => applyAny_parts free u q c.pieces) _ s

theorem loseWork_others (s : State) {q k : Nat} (h : k ≠ q) : (s.loseWork q).part k = s.part k := by
  rw [loseWork_part_ne h]
  obtain ⟨x, y, runs⟩ := abortAll_only ((s.modClusters (s.partClusters q) (fun x => if x.job.isSome then x.release else x)).runsOf q)
    (s.modClusters (s.partClusters q) (fun x => if x.job.isSome then x.release else x))
  have clusters : (s.modClusters (s.partClusters q) (fun x => if x.job.isSome then x.release else x)).parts = s.parts :=
    foldl_keeps (fun u => u.parts) (fun u c => u.modCluster c (fun x => if x.job.isSome then x.release else x)) (fun _ _ => rfl) _ s
  rw [State.part, stopCopies_parts free, State.abortRuns, runs, clusters]
  rfl

theorem functionLost_others (s : State) (n : Nat) {k : Nat} (h : k ≠ n - 1) : (functionLost s n).part k = s.part k := by
  have fails (t : State) : (t.tdiFails (n - 1)).part k = t.part k := modPart_part_ne t _ _ k h
  rw [functionLost]
  split_ifs
  · rw [fails, loseWork_others free _ h]
    rfl
  · rw [fails]
    rfl

end
end Sys2Proof.Proofs
end

section
/-! PROOF of O50's clauses (18 R442 to R445; 16 R408; 21 R483), and of all of O50 where no free choice is taken. -/

namespace Sys2Proof.Proofs

open Sys2Proof Sys2Proof.Machine Sys2Proof.Laws

/-! ### The clauses of the module's own resets -/

theorem perstNAssert_long {us : Nat} {s : State} (h : 100 ≤ us) (hp : s.powered = true) :
    Completes (.perstNAssert us) s (ColdAfter s 1 true) :=
  ⟨_, exec_perstNAssert_long h, by rw [if_pos hp]; exact coldAfter_coldReset s 1 true⟩

theorem perstNAssert_unpowered {us : Nat} {s : State} (h : 100 ≤ us) (hp : s.powered = false) :
    Completes (.perstNAssert us) s (fun t => t = { s with module := { s.module with perst := true } }) :=
  ⟨_, exec_perstNAssert_long h, if_neg (by simp [hp])⟩

/-- A short assertion is missed or not by a free choice (log 3). -/
theorem perstNAssert_short {us : Nat} {s : State} (h : us < 100) (hp : s.powered = true) :
    Completes (.perstNAssert us) s (fun t => (bitAt s.freeVal 0 = true → t = s.useFree) ∧
      (bitAt s.freeVal 0 = false → ColdAfter s 1 true t)) := by
  refine ⟨_, exec_perstNAssert_short h hp, fun missed => if_pos missed, fun seen => ?_⟩
  rw [if_neg (by simp [seen])]
  exact coldAfter_coldReset s.useFree 1 true

/-- A write from another function, before firmware-ready or without the key does nothing (18 R444). -/
theorem modReset_ignored {s : State} {fn : FnId} {v : W64}
    (h : fn.val ≠ 0 ∨ (s.module.stage ≠ 4 ∧ s.module.stage ≠ 6) ∨ fld v 31 16 ≠ 0x5A5A) :
    Completes (.modResetCold fn v) s (fun t => t = s) ∧ Completes (.modResetWarm fn v) s (fun t => t = s) := by
  have refused : s.resetWrite fn.val v = false := by
    rw [Bool.eq_false_iff, ne_eq, resetWrite_iff]
    omega
  obtain ⟨cold, warm⟩ := exec_modReset_ignored fn refused
  exact ⟨⟨s, cold, rfl⟩, ⟨s, warm, rfl⟩⟩

theorem modReset_keyed {s : State} {fn : FnId} {v : W64} (hfn : fn.val = 0) (hr : s.module.electrical = .running)
    (hs : s.module.stage = 4 ∨ s.module.stage = 6) (hk : fld v 31 16 = 0x5A5A) :
    (bitAt v 0 = true → Completes (.modResetCold fn v) s (ColdAfter s 2 false) ∧ Completes (.modResetWarm fn v) s (ColdAfter s 2 false)) ∧
      (bitAt v 0 = false → bitAt v 1 = true →
        Completes (.modResetWarm fn v) s (fun t => WarmAfter s 3 t ∧ t.module.numVfs = s.module.numVfs)) := by
  have acts : s.resetWrite fn.val v = true := (resetWrite_iff s fn.val v).mpr ⟨hfn, hk, hr, hs⟩
  constructor
  · intro hc
    obtain ⟨cold, warm⟩ := exec_modReset_cold fn acts hc
    exact ⟨⟨_, cold, coldAfter_coldReset s 2 false⟩, ⟨_, warm, coldAfter_coldReset s 2 false⟩⟩
  · intro hc hw
    obtain ⟨after, numVfs, -⟩ := warmAfter_warmReset s 3 false
    exact ⟨_, exec_modReset_warm fn acts hc hw, after, numVfs⟩

theorem hotReset_warm {s : State} (hr : s.module.electrical = .running)
    (h : s.module.stage = 4 ∨ s.module.stage = 6 ∨ s.module.stage = 7) :
    Completes .hotReset s (fun t => WarmAfter s 4 t ∧ t.module.numVfs = 0 ∧ t.module.vfEnable = false ∧ t.module.ptmEnable = false) := by
  obtain ⟨after, numVfs, vfEnable, ptmEnable⟩ := warmAfter_warmReset s 4 true
  exact ⟨_, exec_hotReset hr h, after, numVfs, vfEnable.trans (Bool.and_false _), ptmEnable.trans (Bool.and_false _)⟩

/-- The reset of an ordinary partition's function (18 R443), but for what it leaves of the other partitions. -/
def OrdinaryLost (s : State) (n : Nat) (t : State) : Prop :=
  (t.fn n).enable = 0 ∧ (∀ off, 0x20000 ≤ off → off < 0x40000 → t.reg n off = regReset (regKey n off)) ∧
    (∀ f off, f < 16 → off < 2 ^ 24 → f ≠ n ∨ off < 0x20000 ∨ 0x40000 ≤ off → t.reg f off = s.reg f off) ∧
    ((s.part (n - 1)).mode = .ready → (t.part (n - 1)).jobs = [] ∧ (t.round (n - 1)).entries = []) ∧
    (t.part (n - 1)).tdi = failedTdi (s.part (n - 1)).tdi ∧ (∀ f, f ≠ n → (t.fn f).enable = (s.fn f).enable) ∧
    t.module.stage = s.module.stage

theorem ordinaryLost_functionLost (s : State) (n : Nat) : OrdinaryLost s n (functionLost s n) := by
  obtain ⟨enable, enables⟩ := functionLost_enable s n
  obtain ⟨tdi, stage⟩ := functionLost_tdi s n
  refine ⟨enable, fun off lo hi => ?_, fun f off _ ho other => ?_, functionLost_work s n, tdi, enables, stage⟩
  · rw [functionLost_reg s n (by omega), if_pos ⟨rfl, lo, hi⟩]
  · rw [functionLost_reg s n ho, if_neg (by omega)]

theorem resetsKeepAndClear_of_noChoiceTaken (free : NoChoiceTaken) : Obligations.ResetsKeepAndClear := by
  refine ⟨fun s => ⟨fun us => perstNAssert_long, fun us => perstNAssert_unpowered, fun us => perstNAssert_short,
    fun fn v h => modReset_ignored (h.imp_right Or.inl), fun fn v hfn hr hs => ⟨modReset_keyed hfn hr hs,
      fun hk => modReset_ignored (.inr (.inr hk))⟩, hotReset_warm⟩, fun fn s h => ⟨s, exec_vfFunctionLevelReset_absent s h, rfl⟩,
    fun fn s hf hp => ⟨vfFunctionLevelReset_confidential hf hp, fun hc => ?_⟩⟩
  obtain ⟨enable, own, kept, work, tdi, enables, stage⟩ := ordinaryLost_functionLost s fn.val
  exact ⟨_, vfFunctionLevelReset_ordinary hf hp hc, enable, own, kept, work, tdi, fun k => functionLost_others free s fn.val, enables, stage⟩

end Sys2Proof.Proofs
end

section
/-! PROOF that O50 fails where a free choice is taken (log 3, log 37): a function's reset then makes a job fault of another partition due,
in a state whose region table lets two partitions' regions overlap. -/

namespace Sys2Proof.Proofs

open Sys2Proof Sys2Proof.Machine Sys2Proof.Laws

/-! ### Where a piece of a stopped copy is written -/

/-- A region that partition 1's firmware owns, ready, at the first line of stack 0. -/
def strayRegion : Region := ⟨0x4000001085, 0x10⟩

/-- A region of partition 0 at the same place, after the other in the table. -/
def targetRegion : Region := ⟨0x4000000005, 0x10⟩

/-- A piece of a copy of partition 0: one byte of the line, which its write reads first. -/
def strayPiece : Piece := .put (.dev 1 0) 0 8 0

def strayCopy : CopyJob :=
  { id := 0, queue := .program 0, partition := 0, desc := 0, status := 0, startedAt := 0, boxes := [], ext := [], stage := 1,
    pieces := [strayPiece], waiting := [], handles := [], err := none, digest := none, members := [], coll := none }

/-- Two ordinary partitions whose regions overlap, the line poisoned, and a copy of partition 0 in flight to it; `n` is the number of the
next free choice. -/
def strayState (n : Nat) : State :=
  { State.reset with
    free := n, mem := [(64, 0), (65, 0), (66, 0), (67, 0)],
    memory := { Memory.reset with regions := [(0, strayRegion), (1, targetRegion)] },
    parts := [(0, { Part.reset with mode := .ready }), (1, { Part.reset with mode := .ready })],
    copies := [strayCopy], module := { Module.reset with vfEnable := true, numVfs := 1 } }

/-- What of that state decides how its copy's piece is written. -/
def Stray (n : Nat) (s : State) : Prop :=
  s.parts = (strayState n).parts ∧ s.memory = (strayState n).memory ∧ s.mem = (strayState n).mem ∧ s.copies = [strayCopy] ∧ s.free = n

theorem strayRegion_fields : strayRegion.owner = 1 ∧ strayRegion.st = 2 ∧ strayRegion.fwOwned = true ∧ strayRegion.compute = false := by
  decide

theorem rsDecode_poisonLine : rsDecode poisonLine = .bad := by decide +kernel

/-- What that state says of the line and of the piece. -/
theorem stray_line {n : Nat} {s : State} (h : Stray n s) : s.regionOf 0 = some 0 ∧ s.stored 0 = poisonLine ∧ s.region 0 = strayRegion ∧
    s.holds 1 = true ∧ strayPiece.spots.all s.spotThere = true ∧ strayPiece.spots.all (s.spotWritable 0) = true := by
  obtain ⟨parts, memory, mem, -⟩ := h
  have region : s.region = (strayState 0).region := by
    funext k
    rw [State.region, memory]
    rfl
  have part : s.part 1 = { Part.reset with mode := .ready } := by
    rw [State.part, parts]
    rfl
  have there : s.spotThere = (strayState 0).spotThere := by
    funext x
    simp only [State.spotThere, region]
  have writable : s.spotWritable 0 = (strayState 0).spotWritable 0 := by
    funext x
    simp only [State.spotWritable, there, region]
  refine ⟨?_, ?_, congrFun region 0, ?_, ?_, ?_⟩
  · rw [State.regionOf, memory]
    rfl
  · rw [State.stored, mem]
    rfl
  · rw [State.holds, part]
    decide
  · rw [there]
    decide
  · rw [writable]
    decide

/-- A poisoned line of a firmware-owned region makes a job fault of its owner due (14 R356). -/
theorem badLine_firmware {s : State} {pln i : Nat} (hr : s.regionOf pln = some i) (hst : (s.region i).st = 2)
    (hp : s.stored pln = poisonLine) (hf : (s.region i).fwOwned = true) (hm : s.moduleOwned (s.region i) = false)
    (source partition : Nat) (merge : Bool) :
    ((s.badLine source pln partition false merge).part (s.region i).owner).faultDue = true := by
  have faulted (u : State) (hu : u.moduleOwned (s.region i) = false) :
      ((u.badFirmwareLine (s.region i) pln).part (s.region i).owner).faultDue = true := by
    simp [State.badFirmwareLine, hu]
  unfold State.badLine
  simp only [hr, hst, hp, hf, Option.filter_some, beq_self_eq_true, Bool.false_eq_true, if_true, if_false]
  exact faulted _ hm

theorem readLineFor_bad {s : State} {pln i : Nat} (hr : s.regionOf pln = some i) (hc : (s.region i).compute = false)
    (hp : s.stored pln = poisonLine) (source partition : Nat) (merge : Bool) :
    s.readLineFor source pln partition merge = (s.badLine source pln partition false merge, none) := by
  have blank : poisonLine ≠ blankLine := by decide
  unfold State.readLineFor
  simp only [hr, hc, hp, Option.map_some, if_neg blank, Bool.false_eq_true, if_false, rsDecode_poisonLine]

theorem mergeLine_partial_bad {s : State} {source pln q pos len v : Nat} {t : State} (hl : ¬(pos = 0 ∧ len = 512))
    (h : s.readLineFor source pln q true = (t, none)) : s.mergeLine source pln q pos len v = (t, true) := by
  unfold State.mergeLine
  rw [h]
  simp [hl]

/-- The write of the piece makes a job fault of partition 1 due. -/
theorem stray_faults {n : Nat} {s : State} (h : Stray n s) : ((s.applyPiece 0 strayPiece).1.part 1).faultDue = true := by
  obtain ⟨owner, st, firmware, compute⟩ := strayRegion_fields
  obtain ⟨placed, poisoned, region, held, there, writable⟩ := stray_line h
  have served : s.moduleOwned (s.region 0) = false := by
    rw [region, State.moduleOwned, owner, held]
    exact Bool.and_false _
  rw [← region] at owner st firmware compute
  have bad := badLine_firmware placed st poisoned firmware served (ctlOf 0) 0 true
  have merged := mergeLine_partial_bad (pos := 0) (len := 8) (v := 0) (by decide)
    (readLineFor_bad placed compute poisoned (ctlOf 0) 0 true)
  rw [owner] at bad
  unfold State.applyPiece
  rw [there, writable]
  simp only [strayPiece, merged]
  exact bad

theorem stopCopies_part (s : State) (q k : Nat) : (s.stopCopies q).part k =
    ((s.copies.filter (fun c => c.partition == q)).foldl (fun u c => u.applyAny q c.pieces) s).part k := rfl

/-- A copy of one piece, where the free choice is taken (10 R298; log 37). -/
theorem applyAny_written {s : State} (h : bitAt s.freeVal 0 = true) (q : Nat) (x : Piece) :
    s.applyAny q [x] = (s.useFree.applyPiece q x).1 := by
  simp only [State.applyAny, List.foldl_cons, List.foldl_nil, h, if_true]

/-- The stop of partition 0's copies writes the piece when the free choice is taken (13 R347; log 37). -/
theorem stray_stopCopies {n : Nat} {s : State} (h : Stray n s) (taken : bitAt (Config.freeValue n) 0 = true) :
    ((s.stopCopies 0).part 1).faultDue = true := by
  obtain ⟨parts, memory, mem, copies, free⟩ := h
  have choice : bitAt s.freeVal 0 = true := by rw [State.freeVal, free, taken]
  have used : Stray (n + 1) s.useFree := ⟨parts, memory, mem, copies, congrArg (· + 1) free⟩
  have mine : s.copies.filter (fun c => c.partition == 0) = [strayCopy] := by rw [copies]; rfl
  have written : s.applyAny 0 strayCopy.pieces = (s.useFree.applyPiece 0 strayPiece).1 := applyAny_written choice 0 strayPiece
  rw [stopCopies_part, mine, List.foldl_cons, List.foldl_nil, written]
  exact stray_faults used

theorem stray_resetFn (n : Nat) : Stray n ((strayState n).resetFn 1) := ⟨rfl, rfl, rfl, rfl, rfl⟩

theorem stray_modCluster {n : Nat} {s : State} (h : Stray n s) (c : Nat) (f : Cluster → Cluster) : Stray n (s.modCluster c f) := h

theorem stray_modClusters {n : Nat} {s : State} (h : Stray n s) (cs : List Nat) (f : Cluster → Cluster) : Stray n (s.modClusters cs f) :=
  List.foldlRecOn cs _ (motive := Stray n) h (fun _ hu c _ => stray_modCluster hu c f)

theorem stray_abortRuns {n : Nat} {s : State} (h : Stray n s) (q : Nat) : Stray n (s.abortRuns q) := by
  obtain ⟨x, y, runs⟩ := abortAll_only (s.runsOf q) s
  rw [State.abortRuns, runs]
  exact h

/-- So the reset of partition 0's function makes a job fault of partition 1 due. -/
theorem stray_functionLost {n : Nat} (taken : bitAt (Config.freeValue n) 0 = true) :
    ((functionLost (strayState n) 1).part 1).faultDue = true := by
  have fails (t : State) : (t.tdiFails (1 - 1)).part 1 = t.part 1 := modPart_part_ne t _ _ 1 (by decide)
  have ready : (((strayState n).resetFn 1).part (1 - 1)).mode = .ready := rfl
  rw [functionLost, if_pos ready, fails, loseWork_part_ne (by decide)]
  exact stray_stopCopies (stray_abortRuns (stray_modClusters (stray_resetFn n) _ _) 0) taken

theorem noChoiceTaken_of_resetsKeepAndClear (h : Obligations.ResetsKeepAndClear) : NoChoiceTaken := by
  intro n
  by_contra taken
  obtain ⟨-, -, resets⟩ := h
  have present : (strayState n).present 1 = true := rfl
  have ordinary : (strayState n).confidential 0 = false := Bool.and_false _
  obtain ⟨-, leaves⟩ := resets ⟨1, by decide⟩ (strayState n) (by decide) present
  obtain ⟨t, run, -, -, -, -, -, others, -⟩ := leaves ordinary
  have lost : t = functionLost (strayState n) 1 :=
    Host.Outcome.next.inj (run.symm.trans (vfFunctionLevelReset_ordinary (fn := ⟨1, by decide⟩) (by decide) present ordinary))
  have due := stray_functionLost (by simpa using taken)
  rw [← lost, others 1 (by decide)] at due
  exact Bool.false_ne_true due

/-- Where O50 stands: it holds just when no free choice is taken, and the free values are opaque. -/
theorem resetsKeepAndClear_iff : Obligations.ResetsKeepAndClear ↔ NoChoiceTaken :=
  ⟨noChoiceTaken_of_resetsKeepAndClear, resetsKeepAndClear_of_noChoiceTaken⟩

end Sys2Proof.Proofs
end

section
/-! PROOF of the issue of bundles (03 R58, R72 to R78, R91 to R98): what each outcome leaves of the one cluster it is about. -/

namespace Sys2Proof.Proofs
open Sys2Proof Sys2Proof.Machine Sys2Proof.Laws

/-! ### A command's effect on one cluster -/

theorem completes_next {i : Instr} {s t : State} {P : State → Prop} (run : exec i s = .next t) (h : P t) : Completes i s P := ⟨t, run, h⟩

/-- Nothing differs but cluster c, which is x afterwards. -/
def Turns (c : Nat) (s t : State) (x : Cluster) : Prop := OnlyCluster c s t ∧ t.cluster c = x

theorem onlyCluster_refl (c : Nat) (s : State) : OnlyCluster c s s := ⟨rfl, fun _ _ => rfl⟩

theorem onlyCluster_mod {c : Nat} {s t : State} (h : OnlyCluster c s t) (f : Cluster → Cluster) : OnlyCluster c s (t.modCluster c f) := by
  obtain ⟨eq, others⟩ := h
  refine ⟨?_, fun k hk => (modCluster_cluster_ne t c f k hk).trans (others k hk)⟩
  rw [eq]
  rfl

theorem turns_refl (c : Nat) (s : State) : Turns c s s (s.cluster c) := ⟨onlyCluster_refl c s, rfl⟩

theorem turns_mod {c : Nat} {s t : State} {x : Cluster} (h : Turns c s t x) (f : Cluster → Cluster) :
    Turns c s (t.modCluster c f) (f x) :=
  ⟨onlyCluster_mod h.1 f, (modCluster_cluster_same t c f).trans (congrArg f h.2)⟩

/-- A change of the cluster alone. -/
theorem turns_modCluster (c : Nat) (s : State) (f : Cluster → Cluster) : Turns c s (s.modCluster c f) (f (s.cluster c)) :=
  turns_mod (turns_refl c s) f

/-- A signal that is no sync fault (03 R65). -/
theorem turns_applySignal {c slot unit : Nat} {s t : State} {x : Cluster} {sig : BitVec 16} {a : Arch} (h : Turns c s t x)
    (applies : x.arch.signal sig = some a) : Turns c s (t.applySignal c sig slot unit) { x with arch := a } := by
  unfold State.applySignal
  rw [h.2, applies]
  exact turns_mod h _

/-- The yield bit with a preemption request (03 R94). -/
theorem turns_yieldStop {c : Nat} {s t : State} {x : Cluster} (h : Turns c s t x) (b : Line) :
    Turns c s (t.yieldStop c b) { x with stopped := x.stopped || (hYield b && x.preempt.isSome) } := by
  have k := turns_mod h (fun x => if hYield b && x.preempt.isSome then { x with stopped := true } else x)
  unfold State.yieldStop
  cases stops : hYield b && x.preempt.isSome
  · simpa only [stops, Bool.or_false, if_false, Bool.false_eq_true] using k
  · simpa only [stops, Bool.or_true, if_true] using k

theorem faulted_clusterFault (s : State) (c code slot unit : Nat) (pln : Option Nat) :
    Faulted c slot unit code pln s (s.clusterFault c code slot unit pln) := by
  refine ⟨rfl, fun k hk => ?_, ?_, ?_⟩
  · simp [State.clusterFault, State.latch, hk]
  · simp [State.clusterFault, State.latch]
  · simp [State.clusterFault, State.latch]

/-! ### Fetch (03 R75, R97) -/

/-- The guard of a fetch that goes on (03 R75). -/
theorem fetch_goes_on {x : Cluster} (live : x.live = true) (halting : x.halting = false) (halted : x.halted = false)
    (room : x.fetchQ.length < 8) : (!x.live || x.halting || x.halted || decide (8 ≤ x.fetchQ.length)) = false := by
  simp [live, halting, halted, room]

/-- Settles O1: a fetch that its guard lets go on either brings the unit or is the fetch fault. -/
theorem bundleFetchBringsTheNextUnit : Obligations.BundleFetchBringsTheNextUnit := by
  unfold Obligations.BundleFetchBringsTheNextUnit
  intro c s live halting halted room
  have guard := fetch_goes_on live halting halted room
  refine ⟨fun past below => ?_, fun beyond => ?_⟩
  · have run : execBundleFetch c s = .next (s.modCluster c (fun x => { x with
        fetchQ := x.fetchQ ++ [BitVec.ofNat 512 (x.arch.units ((s.cluster c).arch.pc.toNat + (s.cluster c).fetchQ.length) 1)] })) := by
      simp only [execBundleFetch, guard, past, not_le.mpr below, Bool.false_eq_true, if_false]
    exact completes_next run (turns_modCluster c s _)
  · have unit : 16384 ≤ if (s.cluster c).arch.past then 16384 else (s.cluster c).arch.pc.toNat + (s.cluster c).fetchQ.length := by
      split
      · exact le_rfl
      · exact beyond.resolve_left ‹_›
    have run : execBundleFetch c s = .next (s.clusterFault c 0x05 6
        (if (s.cluster c).arch.past then 16384 else (s.cluster c).arch.pc.toNat + (s.cluster c).fetchQ.length) none) := by
      simp only [execBundleFetch, guard, unit, Bool.false_eq_true, if_false, if_true]
    exact completes_next run (faulted_clusterFault s c _ _ _ _)

/-! ### Issue (03 R58, R72 to R78, R91 to R98) -/

@[simp] theorem sreg_setS (a : Arch) (d r : Nat) (v : W32) : (a.setS d v).sreg r = if r = d ∧ r ≠ 0 then v else a.sreg r := by
  unfold Arch.setS Arch.sreg
  by_cases hr : r = 0
  · simp [hr]
  · by_cases hd : d = 0
    · have : r ≠ d := hd ▸ hr
      simp [hd, hr]
    · by_cases e : r = d
      · simp [e, hd]
      · simp [e, hd, hr]

/-- A write of a scalar register changes the scalar registers alone (03 R60). -/
theorem setS_only (a : Arch) (d : Nat) (v : W32) : a.setS d v = { a with s := (a.setS d v).s } := by
  unfold Arch.setS
  split <;> rfl

/-- A scalar register reads from the scalar registers alone. -/
theorem sreg_congr {a b : Arch} (h : a.s = b.s) (r : Nat) : a.sreg r = b.sreg r := by
  unfold Arch.sreg
  rw [h]

theorem signal_zero (a : Arch) : a.signal 0 = some a := rfl

/-- Without a signal of its own the sync slot signals nothing (03 R91). -/
theorem syncSignal_none (o : Arch) {y : W32} (h2 : yOp y ≠ 2) (h8 : yOp y ≠ 8) : syncSignal o y = 0 := by
  simp [syncSignal, h2, h8]

theorem scalarEffect_alu {o a : Arch} {feat : Nat → W64} {e : W64} (lo : 1 ≤ sOp e) (hi : sOp e ≤ 0x16) :
    scalarEffect o a feat e = a.setS (sD e) (scalarAlu (sOp e) (o.sreg (sA e)) (o.opB e)) := by
  simp [scalarEffect, lo, hi]

/-- jal leaves the next unit in s[d]; no other branch writes a register (03 R77). -/
theorem scalarEffect_branch {o a : Arch} {feat : Nat → W64} {e : W64} (lo : 0x38 ≤ sOp e) (hi : sOp e ≤ 0x3C) :
    scalarEffect o a feat e = if sOp e = 0x3B then a.setS (sD e) (BitVec.ofNat 32 (o.pc.toNat + 1)) else a := by
  have : sOp e = 0x38 ∨ sOp e = 0x39 ∨ sOp e = 0x3A ∨ sOp e = 0x3B ∨ sOp e = 0x3C := by omega
  rcases this with h | h | h | h | h <;> simp [scalarEffect, h]

/-- The opcodes that leave the registers to a later moment, or have no result (03 R77, R78, R97). -/
theorem scalarEffect_none {o a : Arch} {feat : Nat → W64} {e : W64}
    (h : sOp e = 0 ∨ sOp e = 0x28 ∨ (0x30 ≤ sOp e ∧ sOp e ≤ 0x33) ∨ sOp e = 0x3F) : scalarEffect o a feat e = a := by
  have : sOp e = 0 ∨ sOp e = 0x28 ∨ sOp e = 0x30 ∨ sOp e = 0x31 ∨ sOp e = 0x32 ∨ sOp e = 0x33 ∨ sOp e = 0x3F := by omega
  rcases this with h | h | h | h | h | h | h <;> simp [scalarEffect, h]

/-- What is no branch goes on at the next unit (03 R77). -/
theorem scalarNext_onward {o : Arch} {e : W64} (h : sOp e < 0x38 ∨ 0x3C < sOp e) : scalarNext o e = (o.pc.toNat + 1, false) := by
  unfold scalarNext
  split <;> first | omega | rfl

/-- The program state that an issuing bundle leaves, before its signals (03 R72, R73, R77, R91). -/
def issued (o : Arch) (feat : Nat → W64) (b : Line) : Arch :=
  ((syncEffect o (scalarEffect o o feat (scalarBits b)) (syncBits b)).enqueue o b).goTo (scalarNext o (scalarBits b)).1

/-- A scalar opcode that accesses a device (03 R78). -/
def holdsIssue (e : W64) : Bool := sOp e == 0x28 || (decide (0x30 ≤ sOp e) && decide (sOp e ≤ 0x33))

/-- The access that holds issue (03 R77, R78). -/
def access (o : Arch) (e : W64) : SLoad :=
  { op := sOp e, d := sD e, addr := o.devAddr e, b := o.sreg (sB e), cmp := o.sreg (sD e), scope := sScope e, pc := o.pc.toNat }

/-- A bundle with neither a scalar store nor a signal at issue. -/
structure Quiet (b : Line) : Prop where
  store : sOp (scalarBits b) ≠ 0x29
  sig : yOp (syncBits b) ≠ 2
  cmp : yOp (syncBits b) ≠ 8

/-- The cluster once such a bundle's slots have acted, but for a fence. -/
def acted (x : Cluster) (feat : Nat → W64) (b : Line) (rest : List Line) : Cluster :=
  { x with
    arch := issued x.arch feat b
    fetchQ := if (scalarNext x.arch (scalarBits b)).2 || fenceScope (syncBits b) != 0 then [] else rest
    load := if holdsIssue (scalarBits b) then some (access x.arch (scalarBits b)) else none
    halting := sOp (scalarBits b) == 0x3F }

theorem turns_issueActing_plain {s : State} {c p : Nat} {b : Line} {rest : List Line} (quiet : Quiet b)
    (scope : fenceScope (syncBits b) = 0) :
    Turns c s (s.issueActing c p b rest) (acted (s.cluster c) (s.feat p c) b rest) := by
  unfold State.issueActing
  simp only [scope, if_true, quiet.store, if_false, syncSignal_none _ quiet.sig quiet.cmp]
  have first := turns_modCluster c s (fun x => { x with
    arch := issued (s.cluster c).arch (s.feat p c) b
    fetchQ := if (scalarNext (s.cluster c).arch (scalarBits b)).2 || (0 != 0) then [] else rest
    load := if holdsIssue (scalarBits b) then some (access (s.cluster c).arch (scalarBits b)) else none
    halting := sOp (scalarBits b) == 0x3F })
  have second := turns_applySignal (slot := 5) (unit := (s.cluster c).arch.pc.toNat) first (signal_zero _)
  rw [acted, scope]
  exact second

theorem turns_issueActing_fence {s : State} {c p : Nat} {b : Line} {rest : List Line} (quiet : Quiet b)
    (scope : fenceScope (syncBits b) ≠ 0) (mode : yMode (syncBits b) ≠ 1) :
    Turns c s (s.issueActing c p b rest) { acted (s.cluster c) (s.feat p c) b rest with
      fence := some { scope := fenceScope (syncBits b), mode := yMode (syncBits b), field := yField (syncBits b),
                      pc := (s.cluster c).arch.pc.toNat } } := by
  unfold State.issueActing
  simp only [scope, mode, quiet.store, if_false, syncSignal_none _ quiet.sig quiet.cmp]
  have first := turns_modCluster c s (fun x => { x with
    arch := issued (s.cluster c).arch (s.feat p c) b
    fetchQ := if (scalarNext (s.cluster c).arch (scalarBits b)).2 || fenceScope (syncBits b) != 0 then [] else rest
    load := if holdsIssue (scalarBits b) then some (access (s.cluster c).arch (scalarBits b)) else none
    halting := sOp (scalarBits b) == 0x3F })
  have second := turns_applySignal (slot := 5) (unit := (s.cluster c).arch.pc.toNat) first (signal_zero _)
  exact turns_mod second (fun x => { x with fence := _ })


section Issue

variable {s : State} {c p n : Nat} {b : Line} {rest : List Line}

/-- A cluster that can issue, with its next bundle (03 R72). -/
structure Ready (s : State) (c p n : Nat) (b : Line) (rest : List Line) : Prop where
  job : (s.cluster c).job = some (p, n)
  queue : (s.cluster c).fetchQ = b :: rest
  can : (s.cluster c).canIssue = true

/-- The bundle's sync slot waits for what does not hold (03 R64, R91). -/
abbrev Waits (o : Arch) (b : Line) : Prop := yOp (syncBits b) = 1 ∧ o.waitHolds (yField (syncBits b)) = false

theorem issue_faults (r : Ready s c p n b rest) {slot code : Nat} (fault : (s.cluster c).arch.issueFault b = some (slot, code))
    (h : ¬ (List.range 7).any (illegalSlot b) = false ∨ ((s.cluster c).arch.predicate b = true ∧ ¬ Waits (s.cluster c).arch b ∧
      (s.cluster c).arch.room b = true)) :
    s.issue c = s.clusterFault c code slot (s.cluster c).arch.pc.toNat none := by
  unfold State.issue
  simp only [r.job, r.queue, r.can, Bool.not_true, Bool.false_eq_true, if_false, fault]
  by_cases legal : (List.range 7).any (illegalSlot b) = true
  · simp only [legal, if_true]
  · obtain ⟨acts, goes, room⟩ := h.resolve_left (by simpa using legal)
    simp only [Waits] at goes
    simp only [legal, acts, room, Bool.not_true, Bool.false_eq_true, if_false, Bool.not_eq_true', goes]

theorem issue_skips (r : Ready s c p n b rest) (legal : (List.range 7).any (illegalSlot b) = false)
    (skips : (s.cluster c).arch.predicate b = false) :
    s.issue c = (s.modCluster c (fun x => { x with arch := x.arch.goTo ((s.cluster c).arch.pc.toNat + 1), fetchQ := rest })).yieldStop c b := by
  unfold State.issue
  simp only [r.job, r.queue, r.can, legal, skips, Bool.not_true, Bool.not_false, Bool.false_eq_true, if_false, if_true]

theorem issue_waits (r : Ready s c p n b rest) (legal : (List.range 7).any (illegalSlot b) = false)
    (acts : (s.cluster c).arch.predicate b = true) (waits : Waits (s.cluster c).arch b) : s.issue c = s.yieldStop c b := by
  unfold State.issue
  simp only [r.job, r.queue, r.can, legal, acts, waits.1, waits.2, Bool.not_true, Bool.not_false, Bool.false_eq_true, if_false, if_true,
    and_self]

theorem issue_stays (r : Ready s c p n b rest) (legal : (List.range 7).any (illegalSlot b) = false)
    (acts : (s.cluster c).arch.predicate b = true) (goes : ¬ Waits (s.cluster c).arch b) (full : (s.cluster c).arch.room b = false) :
    s.issue c = s := by
  unfold State.issue
  simp only [Waits] at goes
  simp only [r.job, r.queue, r.can, legal, acts, full, Bool.not_true, Bool.not_false, Bool.false_eq_true, if_false, if_true,
    Bool.not_eq_true', goes]

theorem issue_acts (r : Ready s c p n b rest) (legal : (List.range 7).any (illegalSlot b) = false)
    (acts : (s.cluster c).arch.predicate b = true) (goes : ¬ Waits (s.cluster c).arch b) (room : (s.cluster c).arch.room b = true)
    (sound : (s.cluster c).arch.issueFault b = none) : s.issue c = (s.issueActing c p b rest).yieldStop c b := by
  unfold State.issue
  simp only [Waits] at goes
  simp only [r.job, r.queue, r.can, legal, acts, room, sound, Bool.not_true, Bool.false_eq_true, if_false, Bool.not_eq_true', goes]

end Issue

/-- A cluster that can issue has not stopped (03 R94). -/
theorem canIssue_stopped {x : Cluster} (h : x.canIssue = true) : x.stopped = false := by
  simp only [Cluster.canIssue, Cluster.live, Bool.and_eq_true, Bool.not_eq_true'] at h
  exact h.1.1.1.1.1.2

/-- What a bundle leaves, when its slots write scalar registers, flags and counters alone (03 R72, R73). -/
theorem issued_eq (o : Arch) (feat : Nat → W64) (b : Line) {v : Tab W32} {f : BitVec 32} {k : Tab (BitVec 16)}
    (h : syncEffect o (scalarEffect o o feat (scalarBits b)) (syncBits b) = { o with s := v, f := f, k := k }) :
    issued o feat b = { o with
      s := v, f := f, k := k, vq := o.vq ++ o.entries b 1, mq := o.mq ++ o.entries b 2, lq := o.lq ++ o.entries b 3,
      sq := o.sq ++ o.entries b 4, pc := BitVec.ofNat 14 (scalarNext o (scalarBits b)).1,
      past := decide (16384 ≤ (scalarNext o (scalarBits b)).1) } := by
  unfold issued
  rw [h]
  rfl

/-- A nop sync slot adds nothing (03 R91). -/
theorem syncEffect_zero (o a : Arch) : syncEffect o a 0 = a := rfl

/-- A take changes flags and counters alone (03 R64). -/
theorem take_only (a : Arch) (w : BitVec 16) : a.take w = { a with f := (a.take w).f, k := (a.take w).k } := by
  unfold Arch.take
  dsimp only
  split <;> rfl

theorem ofNat_next (x : BitVec 14) : BitVec.ofNat 14 (x.toNat + 1) = x + 1 := by
  apply BitVec.eq_of_toNat_eq
  simp [BitVec.toNat_add]

theorem quiet_nop {b : Line} (h : syncBits b = 0) (store : sOp (scalarBits b) ≠ 0x29) : Quiet b :=
  ⟨store, by rw [h]; decide, by rw [h]; decide⟩

/-- A sync slot that is no fence (03 R91). -/
theorem fenceScope_zero {y : W32} (h : yOp y < 3) : fenceScope y = 0 := by
  unfold fenceScope
  split <;> omega

/-- The cluster that a bundle of a quiet sync and scalar slot leaves (03 R72, R73, R77). -/
def left (x : Cluster) (b : Line) (rest : List Line) (v : Tab W32) (f : BitVec 32) (k : Tab (BitVec 16)) (g : Bool) : Cluster :=
  { x with
    arch := { x.arch with
      s := v, f := f, k := k, vq := x.arch.vq ++ x.arch.entries b 1, mq := x.arch.mq ++ x.arch.entries b 2,
      lq := x.arch.lq ++ x.arch.entries b 3, sq := x.arch.sq ++ x.arch.entries b 4,
      pc := BitVec.ofNat 14 (scalarNext x.arch (scalarBits b)).1, past := decide (16384 ≤ (scalarNext x.arch (scalarBits b)).1) }
    fetchQ := if (scalarNext x.arch (scalarBits b)).2 || fenceScope (syncBits b) != 0 then [] else rest
    load := if holdsIssue (scalarBits b) then some (access x.arch (scalarBits b)) else none
    halting := sOp (scalarBits b) == 0x3F
    stopped := g }

theorem left_fetchQ {x : Cluster} {b : Line} {rest : List Line} {v : Tab W32} {f : BitVec 32} {k : Tab (BitVec 16)} {g : Bool}
    (scope : fenceScope (syncBits b) = 0) :
    (left x b rest v f k g).fetchQ = if (scalarNext x.arch (scalarBits b)).2 then [] else rest := by
  simp [left, scope]

theorem acted_left {x : Cluster} {feat : Nat → W64} {b : Line} {rest : List Line} {v : Tab W32} {f : BitVec 32} {k : Tab (BitVec 16)}
    (writes : syncEffect x.arch (scalarEffect x.arch x.arch feat (scalarBits b)) (syncBits b) = { x.arch with s := v, f := f, k := k }) :
    acted x feat b rest = left x b rest v f k x.stopped := by
  unfold acted
  rw [issued_eq _ _ _ writes]
  rfl

/-- Settles O2: each outcome of an issue, and for a bundle that acts the cluster it leaves. -/
theorem bundleIssueRunsTheScalarSlotAndQueuesTheOthers : Obligations.BundleIssueRunsTheScalarSlotAndQueuesTheOthers := by
  unfold Obligations.BundleIssueRunsTheScalarSlotAndQueuesTheOthers
  intro c s x p n b rest hx job queue can e y o legal waits becomes queued kept same access onward
  subst hx
  have r : Ready s c p n b rest := ⟨job, queue, can⟩
  have run : exec (.bundleIssue c) s = .next (s.issue c) := rfl
  refine ⟨fun slot code fault h => ?_, fun hl skips => ?_, fun hl acts => ⟨fun hw => ?_, fun goes full => ?_, fun goes room sound => ?_⟩⟩
  · exact completes_next run (issue_faults r fault h ▸ faulted_clusterFault s c code slot _ none)
  · exact completes_next run (issue_skips r hl skips ▸ turns_yieldStop (turns_modCluster c s _) b)
  · exact completes_next run (issue_waits r hl acts hw ▸ turns_yieldStop (turns_refl c s) b)
  · exact completes_next run (issue_stays r hl acts goes full)
  -- the slots of each case write s, f and k alone, so that the cluster left is known
  have leaves (quiet : Quiet b) {v : Tab W32} {f : BitVec 32} {k : Tab (BitVec 16)}
      (writes : syncEffect o (scalarEffect o o (s.feat p c) e) y = { o with s := v, f := f, k := k }) (scope : fenceScope y = 0) :
      ∃ g, Turns c s (s.issue c) (left (s.cluster c) b rest v f k g) := by
    have acting := turns_issueActing_plain (s := s) (c := c) (p := p) (rest := rest) quiet scope
    rw [acted_left writes] at acting
    rw [issue_acts r hl acts goes room sound]
    exact ⟨_, turns_yieldStop acting b⟩
  have keeps {v : Tab W32} {f : BitVec 32} {k : Tab (BitVec 16)} {g : Bool}
      (turned : Turns c s (s.issue c) (left (s.cluster c) b rest v f k g)) : kept (s.issue c) := by
    obtain ⟨only, turned⟩ := turned
    refine ⟨only, ?_⟩
    simp only [queued, turned, left, o, and_self]
  have onwards {v : Tab W32} {f : BitVec 32} {k : Tab (BitVec 16)} {g : Bool} (h : sOp e < 0x38 ∨ 0x3C < sOp e)
      (turned : Turns c s (s.issue c) (left (s.cluster c) b rest v f k g)) : onward (s.issue c) := by
    simp only [onward, turned.2, left, o, scalarNext_onward h, e, ofNat_next, and_self]
  have stands {v : Tab W32} {g : Bool} (turned : Turns c s (s.issue c) (left (s.cluster c) b rest v o.f o.k g)) : same (s.issue c) := by
    simp only [same, turned.2, left, o, and_self]
  have silent {v : Tab W32} (hy : y = 0) (writes : scalarEffect o o (s.feat p c) e = { o with s := v }) :
      syncEffect o (scalarEffect o o (s.feat p c) e) y = { o with s := v } := by
    rw [hy, writes, syncEffect_zero]
  refine ⟨fun hy lo hi => ?_, fun hy lo hi => ?_, fun hy halt => ?_, fun hy load => ?_, fun hy nop => ?_, fun lo hi mode nop => ?_⟩
  · have next : sOp e < 0x38 ∨ 0x3C < sOp e := Or.inl (by omega)
    have scope : fenceScope (syncBits b) = 0 := by rw [show syncBits b = 0 from hy]; rfl
    obtain ⟨g, turned⟩ := leaves (quiet_nop hy (by show sOp e ≠ 0x29; omega))
      (silent hy ((scalarEffect_alu lo hi).trans (setS_only _ _ _))) scope
    have reads (q : Nat) : ((s.issue c).cluster c).arch.sreg q =
        (o.setS (sD e) (scalarAlu (sOp e) (o.sreg (sA e)) (o.opB e))).sreg q := sreg_congr (by rw [turned.2, left]) q
    refine completes_next run ⟨keeps turned, stands turned, onwards next turned, ?_, fun q hq => ?_, ?_⟩
    · rw [turned.2, left_fetchQ scope, scalarNext_onward next]
      rfl
    · rw [reads, sreg_setS, if_neg (fun h => hq h.1)]
    · rw [reads, sreg_setS]
      by_cases zero : sD e = 0
      · simp [zero, Arch.sreg]
      · simp [zero]
  · have writes : ∃ v, scalarEffect o o (s.feat p c) e = { o with s := v } ∧ ∀ q, ({ o with s := v } : Arch).sreg q =
        if sOp e = 0x3B ∧ q = sD e ∧ q ≠ 0 then BitVec.ofNat 32 (o.pc.toNat + 1) else o.sreg q := by
      rw [scalarEffect_branch lo hi]
      by_cases link : sOp e = 0x3B
      · refine ⟨_, (if_pos link).trans (setS_only _ _ _), fun q => ?_⟩
        rw [← setS_only, sreg_setS]
        simp only [link, true_and]
      · refine ⟨o.s, if_neg link, fun q => ?_⟩
        simp only [link, false_and, if_false]
    obtain ⟨v, writes, reads⟩ := writes
    have scope : fenceScope (syncBits b) = 0 := by rw [show syncBits b = 0 from hy]; rfl
    obtain ⟨g, turned⟩ := leaves (quiet_nop hy (by show sOp e ≠ 0x29; omega)) (silent hy writes) scope
    refine completes_next run ⟨keeps turned, stands turned, ?_, ?_, ?_, fun q => ?_⟩
    · rw [turned.2, left]
    · rw [turned.2, left]
    · rw [turned.2, left_fetchQ scope]
    · rw [← reads q]
      exact sreg_congr (by rw [turned.2, left]) q
  · have next : sOp e < 0x38 ∨ 0x3C < sOp e := Or.inr (by omega)
    obtain ⟨g, turned⟩ := leaves (quiet_nop hy (by show sOp e ≠ 0x29; omega))
      (silent hy (scalarEffect_none (Or.inr (Or.inr (Or.inr halt))))) (by rw [hy]; rfl)
    refine completes_next run ⟨keeps turned, stands turned, onwards next turned, ?_, ?_⟩
    · rw [turned.2, left, show sOp (scalarBits b) = 0x3F from halt]
      rfl
    · rw [turned.2, left]
  · have next : sOp e < 0x38 ∨ 0x3C < sOp e := Or.inl (by omega)
    obtain ⟨g, turned⟩ := leaves (quiet_nop hy (by show sOp e ≠ 0x29; omega))
      (silent hy (scalarEffect_none (Or.inr (load.imp_right Or.inl)))) (by rw [hy]; rfl)
    refine completes_next run ⟨keeps turned, stands turned, onwards next turned, ?_, ?_⟩
    · rw [turned.2, left]
    · have holds : holdsIssue (scalarBits b) = true := by simpa [holdsIssue] using load
      rw [turned.2, left, holds]
      rfl
  · have next : sOp e < 0x38 ∨ 0x3C < sOp e := Or.inl (by omega)
    have hy : yOp (syncBits b) = 1 := hy
    have quiet : Quiet b := ⟨by show sOp e ≠ 0x29; omega, by omega, by omega⟩
    obtain ⟨g, turned⟩ := leaves quiet (v := o.s) (f := (o.take (yField y)).f) (k := (o.take (yField y)).k) (by
      rw [scalarEffect_none (Or.inl nop)]
      simp only [syncEffect, y, hy]
      exact take_only _ _) (fenceScope_zero (by omega))
    refine completes_next run ⟨keeps turned, onwards next turned, ?_, ?_, ?_, ?_⟩
    · rw [turned.2, left_fetchQ (fenceScope_zero (by omega)), scalarNext_onward next]
      rfl
    all_goals rw [turned.2, left]
  · have next : sOp e < 0x38 ∨ 0x3C < sOp e := Or.inl (by omega)
    have lo : 3 ≤ yOp (syncBits b) := lo
    have hi : yOp (syncBits b) ≤ 5 := hi
    have quiet : Quiet b := ⟨by show sOp e ≠ 0x29; omega, by omega, by omega⟩
    have scope : fenceScope (syncBits b) = yOp (syncBits b) - 2 := if_pos ⟨lo, hi⟩
    have fenced := turns_issueActing_fence (s := s) (c := c) (p := p) (rest := rest) quiet (by omega) mode
    have writes : syncEffect o (scalarEffect o o (s.feat p c) e) y = { o with s := o.s, f := o.f, k := o.k } := by
      rw [scalarEffect_none (Or.inl nop)]
      unfold syncEffect
      split <;> first | omega | rfl
    rw [acted_left writes] at fenced
    have turned := turns_yieldStop fenced b
    rw [← issue_acts r hl acts goes room sound] at turned
    obtain ⟨only, turned⟩ := turned
    refine completes_next run ⟨⟨only, ?_⟩, ?_⟩
    · simp only [queued, turned, left, o, and_self]
    · simp only [same, onward, turned, left, scope, scalarNext_onward next, e, y, o, ofNat_next, and_self, true_and]
      have fences : (yOp (syncBits b) - 2 != 0) = true := by
        simp only [bne_iff_ne, ne_eq]
        omega
      simp [fences]
end Sys2Proof.Proofs
end

section
/-! PROOF of the scalar accesses, the fences and the signals from outside (03 R70, R77, R78, R92; 02 R50). -/

namespace Sys2Proof.Proofs
open Sys2Proof Sys2Proof.Machine Sys2Proof.Laws

/-! ### Scalar accesses (03 R77, R78; 02 R50) -/

/-- The word of a line at an access's address (03 R77). -/
def wordAt (l : SLoad) (x : Line) : W32 := BitVec.ofNat 32 (lineNat x (l.addr % 64) 4)

section ScalarLoad

variable {s u : State} {c p i pln : Nat} {l : SLoad}

theorem exec_scalarLoadReturn {c : ClusterId} (load : (s.cluster c).load = some l) (part : s.partOf c = some p) :
    exec (.scalarLoadReturn c) s = .next (s.loadReturn c p l) := by
  show execScalarLoadReturn c s = _
  simp only [execScalarLoadReturn, load, part]

/-- A load or an atomic at an address that is unaligned or not the partition's (03 R98). -/
theorem loadReturn_unreadable (h : l.addr % 4 ≠ 0 ∨ s.translate p l.addr = none) : s.loadReturn c p l = s.failLoad c l 0x08 none := by
  unfold State.loadReturn
  by_cases aligned : l.addr % 4 = 0
  · simp only [aligned, ne_eq, not_true_eq_false, if_false, h.resolve_left (not_not_intro aligned)]
  · simp only [ne_eq, aligned, not_false_eq_true, if_true]

variable (aligned : l.addr % 4 = 0) (readable : s.translate p l.addr = some (i, pln))
include aligned readable

theorem loadReturn_cached {k : Nat × Line} (op : l.op = 0x28)
    (cached : (s.cluster c).cache.find? (fun e => e.1 == lineNo l.addr) = some k) :
    s.loadReturn c p l = (s.modCluster c (fun x => { x with cache := cacheFill x.cache l.addr k.2 })).endLoad c l.d (wordAt l k.2) := by
  simp only [State.loadReturn, aligned, readable, op, cached, ne_eq, not_true_eq_false, if_false, if_true]
  rfl

theorem loadReturn_read {x : Line} (op : l.op = 0x28) (uncached : (s.cluster c).cache.find? (fun e => e.1 == lineNo l.addr) = none)
    (read : s.readLine (ctlOf pln) pln p = (u, some x)) :
    s.loadReturn c p l = (u.modCluster c (fun y => { y with cache := cacheFill y.cache l.addr x })).endLoad c l.d (wordAt l x) := by
  simp only [State.loadReturn, aligned, readable, op, uncached, read, ne_eq, not_true_eq_false, if_false, if_true]
  rfl

theorem loadReturn_bad (op : l.op = 0x28) (uncached : (s.cluster c).cache.find? (fun e => e.1 == lineNo l.addr) = none)
    (read : s.readLine (ctlOf pln) pln p = (u, none)) : s.loadReturn c p l = u.failLoad c l 0x0C (some pln) := by
  simp only [State.loadReturn, aligned, readable, op, uncached, read, ne_eq, not_true_eq_false, if_false, if_true]

theorem loadReturn_refused (op : l.op ≠ 0x28) (h : (s.region i).locked = true ∨ (s.region i).owner ≠ p) :
    s.loadReturn c p l = s.failLoad c l 0x09 none := by
  simp only [State.loadReturn, aligned, readable, op, h, ne_eq, not_true_eq_false, if_false, if_true]

/-- An atomic drops its line from the cache, reads it and leaves the new word (03 R77; 02 R52). -/
theorem loadReturn_atomic {x : Line} (op : l.op ≠ 0x28) (unlocked : (s.region i).locked = false) (own : (s.region i).owner = p)
    (read : (s.modCluster c (fun x => { x with cache := x.cache.filter (fun e => e.1 != lineNo l.addr) })).readLine (ctlOf pln) pln p =
      (u, some x)) :
    s.loadReturn c p l =
      if u.tooNarrow c pln l.scope then
        (u.useFree.useFree.writeLine pln (setLine x (l.addr % 64) 4 (fld u.useFree.freeVal 31 0))).endLoad c l.d
          (BitVec.ofNat 32 (fld u.freeVal 31 0))
      else match atomicNew l.op (wordAt l x) l.b l.cmp with
        | some v => (u.writeLine pln (setLine x (l.addr % 64) 4 v.toNat)).endLoad c l.d (wordAt l x)
        | none => u.endLoad c l.d (wordAt l x) := by
  simp only [State.loadReturn, aligned, readable, op, unlocked, own, read, ne_eq, not_true_eq_false, or_self, if_false,
    Bool.false_eq_true]
  rfl

end ScalarLoad

/-- The end of an access (03 R78). -/
theorem endLoad_cluster (s : State) (c d : Nat) (v : W32) :
    (s.endLoad c d v).cluster c = { s.cluster c with load := none, arch := (s.cluster c).arch.setS d v } := modCluster_cluster_same s c _

/-- An access ends after its line has entered the cache (02 R50). -/
theorem turns_cacheFill_endLoad (c : Nat) (s : State) (l : SLoad) (x : Line) (v : W32) :
    Turns c s ((s.modCluster c (fun y => { y with cache := cacheFill y.cache l.addr x })).endLoad c l.d v)
      { s.cluster c with
        cache := cacheFill (s.cluster c).cache l.addr x, load := none, arch := (s.cluster c).arch.setS l.d v } :=
  turns_mod (turns_modCluster c s _) _

theorem endLoad_cluster_ne (s : State) {c k : Nat} (d : Nat) (v : W32) (h : k ≠ c) : (s.endLoad c d v).cluster k = s.cluster k :=
  modCluster_cluster_ne s c _ k h

/-- A line's write is no cluster's business. -/
theorem writeLine_cluster (s : State) (pln : Nat) (x : Line) (k : Nat) : (s.writeLine pln x).cluster k = s.cluster k := by
  obtain ⟨m, h⟩ := writeLine_only s pln x
  rw [h]
  rfl

theorem writeLine_regs_out (s : State) (pln : Nat) (x : Line) : (s.writeLine pln x).regs = s.regs ∧ (s.writeLine pln x).out = s.out := by
  obtain ⟨m, h⟩ := writeLine_only s pln x
  rw [h]
  exact ⟨rfl, rfl⟩

theorem setStored_useFree (s : State) (pln : Nat) (bs : List Byte) : s.useFree.setStored pln bs = (s.setStored pln bs).useFree := rfl

theorem memoryKey_useFree (s : State) (p : Nat) : s.useFree.memoryKey p = s.memoryKey p := rfl

/-- The free choices select no byte of a line (log 3). -/
theorem writeLine_useFree (s : State) (pln : Nat) (x : Line) : s.useFree.writeLine pln x = (s.writeLine pln x).useFree := by
  cases held : (s.regionOf pln).map s.region with
  | none =>
    have free : (s.useFree.regionOf pln).map s.useFree.region = none := held
    simp only [State.writeLine, held, free, setStored_useFree]
  | some r =>
    have free : (s.useFree.regionOf pln).map s.useFree.region = some r := held
    simp only [State.writeLine, held, free, setStored_useFree, memoryKey_useFree]
    exact (apply_ite State.useFree _ _ _).symm

/-- A field of a word fits in its width. -/
theorem fld_lt {n : Nat} (x : BitVec n) (hi lo : Nat) : fld x hi lo < 2 ^ (hi + 1 - lo) := Nat.mod_lt _ (Nat.two_pow_pos _)

/-- A fence of a cluster that has come to rest (03 R92). -/
theorem exec_fenceComplete {c : ClusterId} {s : State} {f : Fence} (fence : (s.cluster c).fence = some f)
    (still : (s.cluster c).running = []) (free : (s.cluster c).load = none)
    (queues : ∀ k, k ∈ [1, 2, 3, 4] → (s.cluster c).arch.queue k = []) :
    exec (.fenceComplete c) s = .next ((s.modCluster c (fun x =>
      { x with fence := none, cache := if f.mode % 2 = 1 ∧ 2 ≤ f.scope then [] else x.cache })).applySignal c f.field 5 f.pc) := by
  have empty : [1, 2, 3, 4].all (fun k => ((s.cluster c).arch.queue k).isEmpty) = true := by
    rw [List.all_eq_true]
    intro k hk
    rw [queues k hk]
    rfl
  show execFenceComplete c s = _
  simp only [execFenceComplete, fence, still, free, empty, List.isEmpty_nil, Option.isNone_none, Bool.and_self, if_true]

/-- Settles O3: what each scalar access, fence and remote signal leaves. -/
theorem scalarLoadsFencesAndRemoteSignalsComplete : Obligations.ScalarLoadsFencesAndRemoteSignalsComplete := by
  unfold Obligations.ScalarLoadsFencesAndRemoteSignalsComplete
  refine ⟨fun c s l p i pln load part aligned readable => ⟨fun k op cached => ?_, fun u x op uncached read => ?_,
    fun u x op unlocked own read wide => ?_⟩, fun c s l p load part => ?_, fun c s f a fence still free queues applies => ?_,
    fun c s g rest a inbox applies => ?_⟩
  · have run := exec_scalarLoadReturn (c := c) load part
    rw [loadReturn_cached aligned readable op cached] at run
    have filled := turns_cacheFill_endLoad c s l k.2 (wordAt l k.2)
    exact completes_next run ⟨filled.1, by rw [filled.2]; exact ⟨rfl, rfl, rfl⟩⟩
  · have run := exec_scalarLoadReturn (c := c) load part
    rw [loadReturn_read aligned readable op uncached read] at run
    have filled := turns_cacheFill_endLoad c u l x (wordAt l x)
    exact completes_next run ⟨filled.1, by rw [filled.2]; exact ⟨rfl, rfl, rfl⟩⟩
  · have run := exec_scalarLoadReturn (c := c) load part
    rw [loadReturn_atomic aligned readable op unlocked own read, if_neg (by simp [wide])] at run
    refine completes_next run ?_
    show _ ∧ _ = Arch.setS _ _ (wordAt l x) ∧ _ ∧ _ ∧ _ ∧ _ = match atomicNew l.op (wordAt l x) l.b l.cmp with | some v => _ | none => _
    cases atomicNew l.op (wordAt l x) l.b l.cmp with
    | none => exact ⟨by rw [endLoad_cluster], by rw [endLoad_cluster], fun k hk => endLoad_cluster_ne u _ _ hk, rfl, rfl, rfl⟩
    | some v =>
      dsimp only
      obtain ⟨regs, out⟩ := writeLine_regs_out u pln (setLine x (l.addr % 64) 4 v.toNat)
      refine ⟨by rw [endLoad_cluster], by rw [endLoad_cluster, writeLine_cluster], fun k hk => ?_, regs, out, rfl⟩
      rw [endLoad_cluster_ne _ _ _ hk, writeLine_cluster]
  · have run := exec_scalarLoadReturn (c := c) load part
    refine ⟨fun h => ?_, fun i pln aligned readable => ⟨fun op h => ?_, fun u op uncached read => ?_,
      fun u x op unlocked own read narrow => ?_⟩⟩
    · rw [loadReturn_unreadable h] at run
      exact completes_next run (faulted_clusterFault _ c 0x08 0 l.pc none)
    · rw [loadReturn_refused aligned readable op h] at run
      exact completes_next run (faulted_clusterFault _ c 0x09 0 l.pc none)
    · rw [loadReturn_bad aligned readable op uncached read] at run
      exact completes_next run (faulted_clusterFault _ c 0x0C 0 l.pc (some pln))
    · rw [loadReturn_atomic aligned readable op unlocked own read, if_pos narrow] at run
      refine completes_next run ⟨BitVec.ofNat 32 (fld u.freeVal 31 0), BitVec.ofNat 32 (fld u.useFree.freeVal 31 0), ?_, ?_, ?_⟩
      · rw [endLoad_cluster]
      · rw [endLoad_cluster, writeLine_cluster]
        rfl
      · rw [writeLine_useFree, writeLine_useFree]
        have width : (BitVec.ofNat 32 (fld u.useFree.freeVal 31 0)).toNat = fld u.useFree.freeVal 31 0 :=
          Nat.mod_eq_of_lt (fld_lt _ 31 0)
        rw [width]
        rfl
  · refine completes_next (exec_fenceComplete fence still free queues) ?_
    have freed := turns_modCluster c s (fun x =>
      { x with fence := none, cache := if f.mode % 2 = 1 ∧ 2 ≤ f.scope then [] else x.cache })
    exact turns_applySignal freed applies
  · have run : execRemoteSignal c s = .next
        ((s.modCluster c (fun x => { x with inbox := rest })).applySignal c g 5 (s.cluster c).arch.pc.toNat) := by
      simp only [execRemoteSignal, inbox]
    exact completes_next run (turns_applySignal (turns_modCluster c s _) applies)

end Sys2Proof.Proofs
end

section
/-! PROOF of markers and completions (03 R65 to R71, R99): a cycle's signals, the markers that come free, the writes of a result. -/

namespace Sys2Proof.Proofs
open Sys2Proof Sys2Proof.Machine Sys2Proof.Laws

/-! ### Signals of a cycle and completions (03 R65 to R71) -/

/-- One signal alone: the cycle's rule is the signal's own (03 R65, R68). -/
theorem signals_one {a b : Arch} {w : BitVec 16} (h : a.signal w = some b) : a.signals [w] = b ∧ a.signalFails [w] w = false := by
  unfold Arch.signal at h
  dsimp only at h
  unfold Arch.signals Arch.signalFails Arch.counterAfter counted
  split at h
  · rename_i act
    simpa [act] using h
  · rename_i act
    simpa [act] using h
  · rename_i act
    split at h
    · rename_i fits
      simpa [act, fits] using h
    · cases h
  · rename_i act
    split at h
    · rename_i fits
      have low : a.kreg (fld w 7 3) ≤ 65535 + fld w 15 8 :=
        (Nat.le_of_lt_succ (BitVec.isLt _)).trans (Nat.le_add_right _ _)
      simpa [act, fits, low] using h
    · cases h
  · rename_i n1 n2 n3 n4
    have n1 : fld w 2 0 ≠ 1 := n1
    have n2 : fld w 2 0 ≠ 2 := n2
    have n3 : fld w 2 0 ≠ 3 := n3
    have n4 : fld w 2 0 ≠ 4 := n4
    simpa [n1, n2, n3, n4] using h

/-- The signals of a cycle without a sync fault (03 R68, R69). -/
theorem turns_applySignals {c : Nat} {s t : State} {x : Cluster} {l : List (BitVec 16 × Nat × Nat)} (h : Turns c s t x)
    (sound : ∀ g, g ∈ l → x.arch.signalFails (l.map (·.1)) g.1 = false) :
    Turns c s (t.applySignals c l) { x with arch := x.arch.signals (l.map (·.1)) } := by
  have none : (List.range 6).findSome? (fun k => l.find? (fun g => g.2.1 == k && x.arch.signalFails (l.map (·.1)) g.1)) = none := by
    simp only [List.findSome?_eq_none_iff, List.find?_eq_none]
    intro k _ g hg
    simp [sound g hg]
  unfold State.applySignals
  simp only [h.2, none]
  exact turns_mod h _

/-- A cycle in which the markers `ms` complete with the signals `sigs` (03 R68, R71). -/
theorem turns_completeCycle {c : Nat} {s t : State} {x : Cluster} {sigs : List (BitVec 16 × Nat × Nat)} {ms rest : List Running}
    (h : Turns c s t x) (free : freeMarkers x.running.length x.running = (ms, rest))
    (sound : ∀ g, g ∈ sigs ++ ms.map Running.signalOf → x.arch.signalFails ((sigs ++ ms.map Running.signalOf).map (·.1)) g.1 = false) :
    Turns c s (t.completeCycle c sigs) { x with
      running := rest, arch := x.arch.signals ((sigs ++ ms.map Running.signalOf).map (·.1)) } := by
  unfold State.completeCycle
  simp only [h.2, free]
  exact turns_applySignals (turns_mod h _) sound

/-- Nothing completes and nothing is left: the cycle changes nothing (03 R68). -/
theorem turns_completeCycle_idle {c : Nat} {s t : State} {x : Cluster} (h : Turns c s t x) (idle : x.running = []) :
    Turns c s (t.completeCycle c []) x := by
  have k := turns_completeCycle (sigs := []) (ms := []) (rest := []) h (by rw [idle]; rfl) (by simp)
  have same : ({ x with running := [], arch := x.arch } : Cluster) = x := by rw [← idle]
  exact same ▸ k

/-- A marker with nothing before it is free (03 R71). -/
theorem freeMarkers_one {m : Running} (h : m.isMarker = true) : freeMarkers 1 [m] = ([m], []) := by
  simp [freeMarkers, readyMarker, h]

/-- A marker behind an operation of its pipe waits (03 R71). -/
theorem freeMarkers_behind {r m : Running} (hr : r.isMarker = false) (follow : follows m.pipe r.pipe = true) :
    freeMarkers 2 [r, m] = ([], [r, m]) := by
  have none : readyMarker [r, m] = none := by
    simp [readyMarker, List.range_succ, hr, follow]
  simp [freeMarkers, none]

theorem follows_same (p : Pipe) : follows p p = true := by cases p <;> rfl

/-- A marker that starts (03 R66, R71). -/
def markerOf (pipe : Pipe) (e : QEntry) : Running :=
  { pipe := pipe, slot := pipeSlot pipe, pc := e.pc, sig := slotSig e.bits, tile := 2, isMarker := true, writes := [],
    err := none, handle := none }

theorem startMarker_eq {s : State} {c : Nat} {pipe : Pipe} {e : QEntry} {q : List QEntry}
    (start : (s.cluster c).startable pipe = some (e, q)) (op : slotOp e.bits = 0) :
    s.startMarker c pipe = (s.modCluster c (fun y =>
        { y with arch := (y.arch.setQueue (pipeSlot pipe) q).take (slotWait e.bits),
                 running := y.running ++ [markerOf pipe e] })).completeCycle c [] := by
  unfold State.startMarker
  simp only [start, op, if_true]
  rfl

theorem onlyCluster_trans {c : Nat} {s t u : State} (h : OnlyCluster c s t) (k : OnlyCluster c t u) : OnlyCluster c s u := by
  refine ⟨?_, fun i hi => (k.2 i hi).trans (h.2 i hi)⟩
  rw [k.1, h.1]

section Completion

variable {s u : State} {c : Nat} {r : Running} {rest : List Running}

/-- The operation at the head of what is in progress completes (03 R67). -/
theorem completeOp_eq (first : (s.cluster c).running = r :: rest) (op : r.isMarker = false) (sound : r.err = none)
    (writes : (s.modCluster c (fun y => { y with running := rest })).applyWrites c r.writes = (u, none)) :
    s.completeOp c r.pipe = u.completeCycle c [r.signalOf] := by
  unfold State.completeOp
  simp [first, List.findIdx?_cons, op, sound, writes]

/-- One that met a bus error before it had anything to write (03 R99). -/
theorem completeOp_bad {pln : Nat} (first : (s.cluster c).running = r :: rest) (op : r.isMarker = false) (bad : r.err = some pln)
    (writes : r.writes = []) :
    s.completeOp c r.pipe = ((s.modCluster c (fun y => { y with running := rest })).clusterFault c 0x0C r.slot r.pc (some pln)).completeCycle c [] := by
  unfold State.completeOp
  simp [first, List.findIdx?_cons, op, bad, writes, State.applySome]

/-- The last operation in progress completes: its signal applies to what its writes left (03 R67). -/
theorem turns_completeOp {b : Arch} (first : (s.cluster c).running = [r]) (op : r.isMarker = false) (sound : r.err = none)
    (writes : (s.modCluster c (fun y => { y with running := [] })).applyWrites c r.writes = (u, none))
    (idle : (u.cluster c).running = []) (applies : (u.cluster c).arch.signal r.sig = some b) :
    Turns c u (s.completeOp c r.pipe) { u.cluster c with running := [], arch := b } := by
  rw [completeOp_eq first op sound writes]
  obtain ⟨same, passes⟩ := signals_one applies
  have k := turns_completeCycle (sigs := [r.signalOf]) (ms := []) (rest := []) (turns_refl c u) (by rw [idle]; rfl)
    (by simpa [Running.signalOf] using passes)
  simpa [Running.signalOf, same] using k

/-- The cluster with nothing in progress, its program state changed by a result (03 R67). -/
abbrev written (s : State) (c : Nat) (f : Arch → Arch) : State :=
  (s.modCluster c (fun y => { y with running := [] })).modCluster c (fun y => { y with arch := f y.arch })

/-- A result that goes to the cluster's own registers or scratchpad (03 R67). -/
theorem turns_completeOp_own {b : Arch} {f : Arch → Arch} (first : (s.cluster c).running = [r]) (op : r.isMarker = false)
    (sound : r.err = none)
    (writes : (s.modCluster c (fun y => { y with running := [] })).applyWrites c r.writes = (written s c f, none))
    (applies : (f (s.cluster c).arch).signal r.sig = some b) :
    Turns c s (s.completeOp c r.pipe) { s.cluster c with running := [], arch := b } := by
  obtain ⟨only, mine⟩ : Turns c s (written s c f) { s.cluster c with running := [], arch := f (s.cluster c).arch } :=
    turns_mod (turns_modCluster c s _) _
  have k := turns_completeOp first op sound writes (by rw [mine]) (by rw [mine]; exact applies)
  rw [mine] at k
  exact ⟨onlyCluster_trans only k.1, k.2⟩

end Completion

/-- What only a cluster's own operations change. -/
theorem turns_rest {c : Nat} {u t : State} {x : Cluster} (h : Turns c u t x) :
    t.mem = u.mem ∧ (∀ k, t.quarter k = u.quarter k) ∧ ∀ k, k ≠ c → t.cluster k = u.cluster k := by
  obtain ⟨⟨eq, others⟩, -⟩ := h
  rw [eq]
  exact ⟨rfl, fun _ => rfl, fun k hk => (by rw [← eq]; exact others k hk)⟩

theorem faulted_turns {c slot unit code : Nat} {pln : Option Nat} {s t v : State} (h : Faulted c slot unit code pln s t)
    (k : Turns c t v (t.cluster c)) : Faulted c slot unit code pln s v := by
  obtain ⟨eq, others, mine, line⟩ := h
  obtain ⟨⟨veq, vothers⟩, vmine⟩ := k
  refine ⟨?_, fun i hi => (vothers i hi).trans (others i hi), vmine.trans mine, ?_⟩
  · rw [veq, eq]
  · rw [veq]
    exact line

/-- Settles O4: markers by what they follow, completions by what they write. -/
theorem markersAndLongOperationsComplete : Obligations.MarkersAndLongOperationsComplete := by
  unfold Obligations.MarkersAndLongOperationsComplete
  refine ⟨fun c s pipe e q start op => ⟨fun a still applies => ?_, fun r one isOp same => ?_⟩, fun c s r one isOp => ?_,
    fun c s r m vd lanes two isOp isMarker same sound writes rOk mOk => ?_⟩
  · refine completes_next (congrArg Host.Outcome.next (startMarker_eq start op)) ?_
    have started := turns_modCluster c s (fun y => { y with
      arch := (y.arch.setQueue (pipeSlot pipe) q).take (slotWait e.bits), running := y.running ++ [markerOf pipe e] })
    obtain ⟨same, passes⟩ := signals_one applies
    have k := turns_completeCycle (sigs := []) (ms := [markerOf pipe e]) (rest := []) started (by rw [still]; exact freeMarkers_one rfl)
      (by simpa [Running.signalOf, markerOf] using passes)
    simp only [List.nil_append, List.map_cons, List.map_nil, Running.signalOf, markerOf, same] at k
    have eta : ({ s.cluster c with running := [], arch := a } : Cluster) = { s.cluster c with arch := a } := by rw [← still]
    exact eta ▸ k
  · refine completes_next (congrArg Host.Outcome.next (startMarker_eq start op)) ?_
    have started := turns_modCluster c s (fun y => { y with
      arch := (y.arch.setQueue (pipeSlot pipe) q).take (slotWait e.bits), running := y.running ++ [markerOf pipe e] })
    have waits : freeMarkers 2 [r, markerOf pipe e] = ([], [r, markerOf pipe e]) := freeMarkers_behind isOp (same ▸ follows_same _)
    have k := turns_completeCycle (sigs := []) (ms := []) (rest := [r, markerOf pipe e]) started (by rw [one]; exact waits) (by simp)
    exact ⟨k.1, by rw [k.2]; exact ⟨⟨_, rfl, rfl, rfl, rfl, rfl⟩, rfl⟩⟩
  · dsimp only
    have run : exec (.longOpComplete c r.pipe) s = .next (s.completeOp c r.pipe) := rfl
    refine ⟨fun sound => ⟨?_, ?_, ?_, ?_, ?_, ?_⟩, fun pln bad writes => ?_⟩
    · intro vd lanes writes b applies
      exact completes_next run (turns_completeOp_own (f := fun a => a.setV vd lanes) one isOp sound (by rw [writes]; rfl) applies)
    · intro adr bs writes b applies
      exact completes_next run (turns_completeOp_own (f := fun a => a.setSp adr bs) one isOp sound (by rw [writes]; rfl) applies)
    · intro k l writes b applies
      exact completes_next run (turns_completeOp_own (f := fun a => { a with acc := Tab.setList (fun _ => 0) a.acc (4096 * k) l })
        one isOp sound (by rw [writes]; rfl) applies)
    · intro k writes b applies
      exact completes_next run (turns_completeOp_own (f := fun a => a.addSat k) one isOp sound (by rw [writes]; rfl) applies)
    · intro d adr bs b writes applies
      obtain ⟨only, mine⟩ := turns_modCluster c s (fun y => { y with running := [] })
      have k := turns_completeOp (u := (s.modCluster c (fun y => { y with running := [] })).modQuarter d
          (fun x => { x with qbuf := Tab.setList (fun _ => 0) x.qbuf adr bs })) one isOp sound (by rw [writes]; rfl)
        (by rw [modQuarter_cluster, mine]) (by rw [modQuarter_cluster, mine]; exact applies)
      rw [modQuarter_cluster, mine] at k
      obtain ⟨mem, quarters, others⟩ := turns_rest k
      refine completes_next run ⟨k.2, ?_, fun i hi => ?_, fun i hi => ?_, mem⟩
      · simp [quarters]
      · simp [quarters, hi]
      · rw [others i hi, modQuarter_cluster, only.2 i hi]
    · intro d adr bs sig b apart writes applies
      have clear := turns_modCluster c s (fun y => { y with running := [] })
      have k := turns_completeOp (u := ((s.modCluster c (fun y => { y with running := [] })).modCluster d
          (fun x => { x with arch := x.arch.setSp adr bs })).modCluster d (fun x => { x with inbox := x.inbox ++ [sig] })) one isOp sound
        (by rw [writes]; rfl) (by simp [Ne.symm apart]) (by simpa [Ne.symm apart] using applies)
      obtain ⟨mem, -, others⟩ := turns_rest k
      refine completes_next run ⟨?_, ?_, fun i hi hd => ?_, mem⟩
      · rw [k.2]
        simp [Ne.symm apart]
      · rw [others d apart]
        simp [apart]
      · rw [others i hi]
        simp [hi, hd]
    · rw [completeOp_bad one isOp bad writes] at run
      have fault := faulted_clusterFault (s.modCluster c (fun y => { y with running := [] })) c 0x0C r.slot r.pc (some pln)
      have idle : (((s.modCluster c (fun y => { y with running := [] })).clusterFault c 0x0C r.slot r.pc (some pln)).cluster c).running = [] := by
        rw [fault.2.2.1]
        simp
      exact completes_next run (faulted_turns fault (turns_completeCycle_idle (turns_refl _ _) idle))
  · have run : exec (.longOpComplete c r.pipe) s = .next (s.completeOp c r.pipe) := rfl
    rw [completeOp_eq (u := (s.modCluster c (fun y => { y with running := [m] })).modCluster c
      (fun y => { y with arch := y.arch.setV vd lanes })) two isOp sound (by rw [writes]; rfl)] at run
    have changed := turns_mod (turns_modCluster c s (fun y => { y with running := [m] })) (fun y => { y with arch := y.arch.setV vd lanes })
    exact completes_next run (turns_completeCycle (sigs := [r.signalOf]) changed (freeMarkers_one isMarker)
      (by simpa [Running.signalOf] using ⟨rOk, mOk⟩))
end Sys2Proof.Proofs
end

section
/-! PROOF of the start of long-running operations, the vector register operations, the tile stores and maps (03 R66, R80, R81; 04 R102, R113). -/

namespace Sys2Proof.Proofs
open Sys2Proof Sys2Proof.Machine Sys2Proof.Laws

/-! ### The start of a long-running operation (03 R66, R73, R99) -/

section Start

variable {s : State} {c op : Nat} {pipe : Pipe} {e : QEntry} {q : List QEntry} {f : State → QEntry → State × Begun}

/-- The queues of a faulted cluster are empty, whichever entry had left them. -/
theorem setQueue_emptied (a : Arch) (k : Nat) (q : List QEntry) :
    { a.setQueue k q with vq := [], mq := [], lq := [], sq := [] } = { a with vq := [], mq := [], lq := [], sq := [] } := by
  unfold Arch.setQueue
  split <;> rfl

variable (start : (s.cluster c).startable pipe = some (e, q)) (is : slotOp e.bits = op)
include start is

/-- An operation that runs (03 R66). -/
theorem began_startOp {ws : List Write} {P : List Write → Prop} (runs : f s e = (s, .run ws none)) (h : P ws) :
    Began c pipe e q s (s.startOp c pipe op f) P := by
  unfold State.startOp
  simp only [start, is, if_true, runs]
  obtain ⟨only, mine⟩ := turns_modCluster c s (fun y => { y with
    arch := (y.arch.setQueue (pipeSlot pipe) q).take (slotWait e.bits), running := y.running ++
      [{ pipe := pipe, slot := pipeSlot pipe, pc := e.pc, sig := slotSig e.bits,
         tile := if pipeSlot pipe = 2 then mTile e.bits else 2, isMarker := false, writes := ws, err := none,
         handle := if 3 ≤ pipeSlot pipe ∧ op = 1 then some (e.ops.getD 0 0) else none }] })
  exact ⟨only, _, by rw [mine], rfl, rfl, rfl, rfl, rfl, rfl, h, by rw [mine]⟩

/-- A fault at start (03 R99). -/
theorem faulted_startOp {code : Nat} (fails : f s e = (s, .fault code)) :
    Faulted c (pipeSlot pipe) e.pc code none s (s.startOp c pipe op f) := by
  unfold State.startOp
  simp only [start, is, if_true, fails]
  obtain ⟨only, mine⟩ := turns_modCluster c s (fun y => { y with arch := y.arch.setQueue (pipeSlot pipe) q })
  obtain ⟨eq, others, cluster, line⟩ := faulted_clusterFault (s.modCluster c (fun y =>
    { y with arch := y.arch.setQueue (pipeSlot pipe) q })) c code (pipeSlot pipe) e.pc none
  refine ⟨eq.trans (by rw [only.1]), fun k hk => (others k hk).trans (only.2 k hk), ?_, line⟩
  rw [cluster, mine]
  exact congrArg (fun a => ({ s.cluster c with
    faults := (s.cluster c).faults ++ [⟨code, e.pc, pipeSlot pipe, none⟩], fetchQ := [], arch := a } : Cluster)) (setQueue_emptied _ _ _)

end Start

/-! ### Reading registers and rows -/

/-- Element i of consecutive values. -/
theorem getList_getElem? {α : Type} (d : Nat → α) (t : Tab α) (k n i : Nat) (h : i < n) :
    (Tab.getList d t k n)[i]? = some (Tab.get d t (k + i)) := by
  induction n generalizing k i with
  | zero => omega
  | succ n ih =>
    cases i with
    | zero => rfl
    | succ i =>
      rw [Tab.getList, List.getElem?_cons_succ, ih (k + 1) i (by omega)]
      congr 2
      omega

theorem getList_length {α : Type} (d : Nat → α) (t : Tab α) (k n : Nat) : (Tab.getList d t k n).length = n := by
  induction n generalizing k with
  | zero => rfl
  | succ n ih => simp [Tab.getList, ih]

/-- Lane i of a vector register (03 R60). -/
abbrev laneAt (a : Arch) (r i : Nat) : W32 := Tab.get (fun _ => 0) a.v (64 * r + i)

theorem vreg_getElem? (a : Arch) (r : Nat) {i : Nat} (h : i < 64) : (a.vreg r)[i]? = some (laneAt a r i) := getList_getElem? _ _ _ _ _ h

theorem vreg_length (a : Arch) (r : Nat) : (a.vreg r).length = 64 := getList_length _ _ _ _

theorem vreg_getD (a : Arch) (r : Nat) {i : Nat} (h : i < 64) : (a.vreg r).getD i 0 = laneAt a r i := by
  rw [List.getD_eq_getElem?_getD, vreg_getElem? a r h]
  rfl

/-! ### Vector register operations (03 R80, R81) -/

section Lanes

variable {c : ClusterId} {s : State} {e : QEntry} {q : List QEntry} {pipe : Pipe} {op : Nat}

/-- What is in progress writes one vector register lane by lane. -/
def Lanes (e : QEntry) (g : Nat → W32) (ws : List Write) : Prop :=
  ∃ l, ws = [.vec (vVd e.bits) l] ∧ l.length = 64 ∧ ∀ k, k < 64 → l[k]? = some (g k)

/-- An operation on vd and va, lane by lane (03 R80). -/
theorem began_vecLanes (f : W32 → W32 → W32) (start : (s.cluster c).startable pipe = some (e, q)) (is : slotOp e.bits = op) :
    Began c pipe e q s (s.startOp c pipe op (fun t e => vecLanes f t c e))
      (Lanes e (fun k => f (laneAt (s.cluster c).arch (vVd e.bits) k) (laneAt (s.cluster c).arch (vVa e.bits) k))) := by
  refine began_startOp start is rfl ⟨_, rfl, ?_, fun k hk => ?_⟩
  · rw [List.length_zipWith, vreg_length, vreg_length]
    rfl
  · rw [List.getElem?_zipWith, vreg_getElem? _ _ hk, vreg_getElem? _ _ hk]

/-- The captured scalar in every lane (03 R80). -/
theorem began_vbcast (start : (s.cluster c).startable pipe = some (e, q)) (is : slotOp e.bits = op) :
    Began c pipe e q s (s.startOp c pipe op (fun t e => vbcastStart t c e)) (Lanes e (fun _ => e.s0)) := by
  refine began_startOp start is rfl ⟨_, rfl, List.length_replicate, fun k hk => ?_⟩
  rw [List.getElem?_replicate, if_pos hk]

/-- Element k of a row's first 64, with zeros above them. -/
theorem padded_getElem? (row : List Ex) {k : Nat} (h : k < 64) :
    ((row.take 64).map round32 ++ List.replicate (64 - (row.take 64).length) 0)[k]? =
      some (match row[k]? with | some x => round32 x | none => 0) := by
  rw [List.getElem?_append]
  by_cases short : k < row.length
  · simp [short, h]
  · have outside : ¬ k < min 64 row.length := by omega
    have room : k - min 64 row.length < 64 - min 64 row.length := by omega
    simp [short, outside, room]

/-- The leading elements of a row (03 R81). -/
theorem began_vld (start : (s.cluster c).startable pipe = some (e, q)) (is : slotOp e.bits = op) :
    Began c pipe e q s (s.startOp c pipe op (fun t e => vldStart t c e)) (Lanes e (fun k =>
      match ((s.cluster c).arch.rowValues (vX e.bits) e.hx e.s0.toNat)[k]? with | some x => round32 x | none => 0)) := by
  refine began_startOp start is rfl ⟨_, rfl, ?_, fun k hk => padded_getElem? _ hk⟩
  simp

end Lanes

/-- Settles O5: each operation forms its lanes from the registers at its start. -/
theorem vectorRegisterOperationsFormTheirLanes : Obligations.VectorRegisterOperationsFormTheirLanes := by
  unfold Obligations.VectorRegisterOperationsFormTheirLanes
  intro c s e q lane forms
  exact ⟨fun start is => ⟨_, rfl, began_vecLanes fadd start is⟩, fun start is => ⟨_, rfl, began_vecLanes fmul start is⟩,
    fun start is => ⟨_, rfl, began_vecLanes fmaxN start is⟩, fun start is => ⟨_, rfl, began_vecLanes (fun _ a => exp2_32 a) start is⟩,
    fun start is => ⟨_, rfl, began_vecLanes (fun _ a => rcp32 a) start is⟩,
    fun start is => ⟨_, rfl, began_vecLanes (fun _ a => rsqrt32 a) start is⟩, fun start is => ⟨_, rfl, began_vbcast start is⟩,
    fun start is => ⟨_, rfl, began_vld start is⟩⟩

/-! ### Tile stores and maps (03 R80, R81) -/

/-- The writes of rows that are given by their number. -/
theorem tileWrites_range (h : W64) (addr n : Nat) (g : Nat → List Nat) :
    (tileWrites h addr ((List.range n).map g)).length = n ∧
      ∀ r, r < n → (tileWrites h addr ((List.range n).map g))[r]? = some (.scratch (64 * rowUnit h addr r) (rowBytes h (g r))) := by
  refine ⟨by simp [tileWrites], fun r hr => ?_⟩
  simp [tileWrites, hr]

/-- Equal tiles have equally many rows (03 R81). -/
theorem sameTile_rows {hx hy : W64} (h : sameTile hx hy = true) : shRows hx = shRows hy := by
  simp only [sameTile, Bool.and_eq_true, beq_iff_eq] at h
  exact h.1

theorem zipWith_range {α β γ : Type} (f : α → β → γ) (g : Nat → α) (h : Nat → β) (n : Nat) :
    List.zipWith f ((List.range n).map g) ((List.range n).map h) = (List.range n).map (fun r => f (g r) (h r)) := by
  rw [List.zipWith_map, List.zipWith_self]

/-- Unequal tiles are a shape fault at start (03 R81). -/
theorem tileMap_unequal (f : W32 → Ex → Ex → Ex) (s : State) (c : Nat) {e : QEntry} (h : sameTile e.hx e.hy = false) :
    tileMap f s c e = (s, .fault 0x02) := by
  simp [tileMap, h]

/-- Row r of a mapped tile (03 R80, R81). -/
def mapRow (f : W32 → Ex → Ex → Ex) (a : Arch) (e : QEntry) (r : Nat) : List Nat :=
  (List.zipWith (fun y x => (y, x)) (a.rowValues (vY e.bits) e.hy r) (a.rowValues (vX e.bits) e.hx r)).zipIdx.map (fun p =>
    narrow (shFormat e.hy) (f ((a.vreg (vVa e.bits)).getD (p.2 % 64) 0) p.1.1 p.1.2))

theorem tileMap_equal (f : W32 → Ex → Ex → Ex) (s : State) (c : Nat) {e : QEntry} (h : sameTile e.hx e.hy = true) :
    tileMap f s c e = (s, .run (tileWrites e.hy (vY e.bits) ((List.range (shRows e.hy)).map (mapRow f (s.cluster c).arch e))) none) := by
  unfold tileMap Arch.tile
  simp only [h, sameTile_rows h, Bool.not_true, Bool.false_eq_true, if_false, zipWith_range]
  rfl

theorem mapRow_getElem? {f : W32 → Ex → Ex → Ex} {a : Arch} {e : QEntry} {r j : Nat} {x y : Ex}
    (hy : (a.rowValues (vY e.bits) e.hy r)[j]? = some y) (hx : (a.rowValues (vX e.bits) e.hx r)[j]? = some x) :
    (mapRow f a e r)[j]? = some (narrow (shFormat e.hy) (f (laneAt a (vVa e.bits) (j % 64)) y x)) := by
  rw [← vreg_getD a (vVa e.bits) (Nat.mod_lt j (by decide))]
  simp [mapRow, List.getElem?_zipIdx, List.getElem?_zipWith, hx, hy]

/-- Settles O6: the rows that are in progress, element by element. -/
theorem tileStoresAndMapsFormTheirElements : Obligations.TileStoresAndMapsFormTheirElements := by
  unfold Obligations.TileStoresAndMapsFormTheirElements
  intro c s e q a lane tileOf maps
  have map (f : W32 → Ex → Ex → Ex) {pipe : Pipe} {op : Nat} (start : (s.cluster c).startable pipe = some (e, q))
      (is : slotOp e.bits = op) (equal : sameTile e.hx e.hy = true) :
      Began c pipe e q s (s.startOp c pipe op (fun t e => tileMap f t c e)) (fun ws => ∃ rows, tileOf ws rows ∧
        ∀ r j y x, r < shRows e.hy → (a.rowValues (vY e.bits) e.hy r)[j]? = some y → (a.rowValues (vX e.bits) e.hx r)[j]? = some x →
          (rows r)[j]? = some (narrow (shFormat e.hy) (f (lane (vVa e.bits) (j % 64)) y x))) :=
    began_startOp start is (tileMap_equal f s c equal)
      ⟨mapRow f a e, tileWrites_range _ _ _ _, fun r j y x _ hy hx => mapRow_getElem? hy hx⟩
  refine ⟨fun start is => ⟨_, rfl, began_startOp start is rfl ⟨_, rfl, ?_, fun k hk => ?_⟩⟩,
    fun start is => ⟨_, rfl, began_startOp start is rfl ?_⟩,
    fun start is equal => ⟨_, rfl, map _ start is equal⟩, fun start is equal => ⟨_, rfl, map _ start is equal⟩,
    fun start is equal => ⟨_, rfl, map _ start is equal⟩,
    fun start is unequal => ⟨_, rfl, faulted_startOp start is (tileMap_unequal _ s c unequal)⟩⟩
  · simp [vreg_length]
  · have low : k < 64 := by omega
    rw [List.getElem?_map, List.getElem?_take, if_pos hk, vreg_getElem? _ _ low]
    rfl
  · have zeros := tileWrites_range e.hy (vY e.bits) (shRows e.hy) (fun _ => [])
    rw [List.map_const', List.length_range] at zeros
    exact zeros

end Sys2Proof.Proofs
end

section
/-! PROOF of the tile reductions and conversions, the matrix multiplies and the drain (03 R80 to R85; 04 R107, R114, R128). -/

namespace Sys2Proof.Proofs
open Sys2Proof Sys2Proof.Machine Sys2Proof.Laws

/-! ### Tile reductions (03 R81) -/

/-- The lanes of a fold over rows, each on its own (03 R81). -/
theorem foldRows_lanes (step : W32 → List Ex → W32) (rows : List (List Ex)) (v : List W32) (g : Nat → W32) (len : v.length = 64)
    (lanes : ∀ k, k < 64 → v[k]? = some (g k)) :
    (foldRows step v rows).length = 64 ∧
      ∀ k, k < 64 → (foldRows step v rows)[k]? = some (rows.foldl (fun w row => step w (laneOf row k)) (g k)) := by
  induction rows generalizing v g with
  | nil => exact ⟨len, lanes⟩
  | cons row rows ih =>
    refine ih (v.zipIdx.map (fun p => step p.1 (laneOf row p.2))) (fun k => step (g k) (laneOf row k)) (by simpa using len) ?_
    intro k hk
    simp [List.getElem?_zipIdx, lanes k hk]

/-- A fold of rows given by their number, into a vector register (03 R81). -/
theorem foldRows_vreg (step : W32 → List Ex → W32) (a : Arch) (r n : Nat) (row : Nat → List Ex) :
    (foldRows step (a.vreg r) ((List.range n).map row)).length = 64 ∧
      ∀ k, k < 64 → (foldRows step (a.vreg r) ((List.range n).map row))[k]? =
        some ((List.range n).foldl (fun w i => step w (laneOf (row i) k)) (laneAt a r k)) := by
  have folded := foldRows_lanes step ((List.range n).map row) (a.vreg r) (laneAt a r) (vreg_length a r) (fun k hk => vreg_getElem? a r hk)
  simpa only [List.foldl_map] using folded

/-! ### t.exp2 and t.cvt (03 R80, R81; 04 R114, R128) -/

/-- Row r of t.exp2's tile, narrowed (03 R81). -/
def texpRow (a : Arch) (e : QEntry) (r : Nat) : List Nat :=
  (a.rowValues (vX e.bits) e.hx r).zipIdx.map (fun z =>
    narrow (shFormat e.hy) (texp2El e.s0 (laneAt a (vVa e.bits) (z.2 % 64)) z.1))

theorem texp2Start_unequal (s : State) (c : Nat) {e : QEntry} (h : sameTile e.hx e.hy = false) : texp2Start s c e = (s, .fault 0x02) := by
  simp [texp2Start, h]

theorem texp2Start_equal (s : State) (c : Nat) {e : QEntry} (h : sameTile e.hx e.hy = true) :
    texp2Start s c e = (s, .run (tileWrites e.hy (vY e.bits) ((List.range (shRows e.hx)).map (texpRow (s.cluster c).arch e)) ++
      [.vec (vVd e.bits) (foldRows laneSum ((s.cluster c).arch.vreg (vVd e.bits)) ((List.range (shRows e.hx)).map (fun r =>
        (texpRow (s.cluster c).arch e r).map (decodeEl (shFormat e.hy)))))]) none) := by
  have lane (j : Nat) := vreg_getD (s.cluster c).arch (vVa e.bits) (Nat.mod_lt j (by decide : 0 < 64))
  unfold texp2Start Arch.tile
  simp only [h, Bool.not_true, Bool.false_eq_true, if_false, lane, List.map_map]
  rfl

theorem tcvtStart_unequal (s : State) (c : Nat) {e : QEntry} (h : sameTile e.hx e.hy = false) : tcvtStart s c e = (s, .fault 0x02) := by
  simp [tcvtStart, h]

theorem tcvtStart_equal (s : State) (c : Nat) {e : QEntry} (h : sameTile e.hx e.hy = true) :
    tcvtStart s c e = (s, .run (
      if shWafer e.hy ≠ 0 then cvtWafer e.hy (vY e.bits) ((s.cluster c).arch.tile (vX e.bits) e.hx)
      else if shScaled e.hy then cvtScaled (s.cluster c).arch e.hy (vY e.bits) ((s.cluster c).arch.tile (vX e.bits) e.hx)
      else tileWrites e.hy (vY e.bits) (((s.cluster c).arch.tile (vX e.bits) e.hx).map (fun row => row.map (narrow (shFormat e.hy))))) none) := by
  simp [tcvtStart, h]

/-- One wafer per row (04 R128). -/
theorem cvtWafer_rows (a : Arch) (h hx : W64) (addr x : Nat) :
    (cvtWafer h addr (a.tile x hx)).length = shRows hx ∧ ∀ r, r < shRows hx → (cvtWafer h addr (a.tile x hx))[r]? =
      some (.scratch (64 * rowUnit h addr r) (toBytes (64 * shUnits h) (waferEncode (shWafer h) ((a.rowValues x hx r).map (narrow .bf16))))) := by
  refine ⟨by simp [cvtWafer, Arch.tile], fun r hr => ?_⟩
  simp [cvtWafer, Arch.tile, hr]

section Scaled

variable (a : Arch) (h : W64) (addr : Nat) (xs : List (List Ex))

/-- k-steps of a scaled tile (04 R110). -/
abbrev kSteps (h : W64) : Nat := stepsPerRow (shFormat h) * shRows h

/-- The fine scale and the codes of lane l of k-block b (04 R114). -/
def cvtCell (b l : Nat) : Nat × List Nat :=
  cvtBlock (shFormat h) (a.coarse h (b / 64)) ((List.range (min 32 (kSteps h - 32 * b))).map (fun i =>
    atStep (shFormat h) .zero xs (32 * b + i) l))

/-- Element codes of row r of the scaled tile (04 R110, R114). -/
def cvtRow (r : Nat) : List Nat :=
  (List.range (64 * stepsPerRow (shFormat h))).map (fun j =>
    ((((((List.range (ceilDiv (kSteps h) 32)).map (fun b => (List.range 64).map (cvtCell a h xs b))).getD
      ((stepsPerRow (shFormat h) * r + j / 64) / 32) []).getD (j % 64) (0, [])).2).getD ((stepsPerRow (shFormat h) * r + j / 64) % 32) 0))

theorem cvtScaled_eq : cvtScaled a h addr xs = tileWrites h addr ((List.range (shRows h)).map (cvtRow a h xs)) ++
    ((List.range (ceilDiv (kSteps h) 32)).map (fun b => (List.range 64).map (cvtCell a h xs b))).zipIdx.map (fun p =>
      .scratch (64 * (shScale h + 1 + p.2)) (p.1.map (fun q => BitVec.ofNat 8 q.1))) := rfl

/-- A k-step of a row lies in one of the tile's blocks (04 R110). -/
theorem block_lt {n rows r j : Nat} (hr : r < rows) (hj : j < 64 * n) : (n * r + j / 64) / 32 < ceilDiv (n * rows) 32 := by
  have step : j / 64 < n := by omega
  have last : n * (r + 1) ≤ n * rows := Nat.mul_le_mul_left n hr
  rw [Nat.mul_succ] at last
  unfold ceilDiv
  omega

variable {r j : Nat} (hr : r < shRows h) (hj : j < 64 * stepsPerRow (shFormat h))
include hr hj

theorem cvtRow_getElem? : (cvtRow a h xs r)[j]? = some
    ((cvtCell a h xs ((stepsPerRow (shFormat h) * r + j / 64) / 32) (j % 64)).2.getD ((stepsPerRow (shFormat h) * r + j / 64) % 32) 0) := by
  have block := block_lt hr hj
  have lane : j % 64 < 64 := Nat.mod_lt j (by decide)
  unfold cvtRow
  rw [List.getElem?_map, List.getElem?_range hj]
  simp [List.getD_eq_getElem?_getD, List.getElem?_map, List.getElem?_range block, List.getElem?_range lane]

end Scaled

/-- The scales behind the rows (04 R111, R114). -/
theorem cvtScaled_scales (a : Arch) (h : W64) (addr : Nat) (xs : List (List Ex)) :
    (cvtScaled a h addr xs).length = shRows h + ceilDiv (kSteps h) 32 ∧
      (∀ r, r < shRows h → (cvtScaled a h addr xs)[r]? = some (.scratch (64 * rowUnit h addr r) (rowBytes h (cvtRow a h xs r)))) ∧
      ∀ b, b < ceilDiv (kSteps h) 32 → (cvtScaled a h addr xs)[shRows h + b]? =
        some (.scratch (64 * (shScale h + 1 + b)) ((List.range 64).map (fun l => BitVec.ofNat 8 (cvtCell a h xs b l).1))) := by
  obtain ⟨len, rows⟩ := tileWrites_range h addr (shRows h) (cvtRow a h xs)
  rw [cvtScaled_eq]
  refine ⟨by simp [len], fun r hr => ?_, fun b hb => ?_⟩
  · rw [List.getElem?_append_left (by rw [len]; exact hr), rows r hr]
  · rw [List.getElem?_append_right (by rw [len]; exact Nat.le_add_right _ _), len]
    simp [hb]

/-- Settles O7: folds lane by lane, and the rows and scales of the two tile conversions. -/
theorem tileReductionsAndConversionsFormTheirResults : Obligations.TileReductionsAndConversionsFormTheirResults := by
  unfold Obligations.TileReductionsAndConversionsFormTheirResults
  intro c s e q a lane row texp steps cvt folds
  have fold (step : W32 → List Ex → W32) {op : Nat} (start : (s.cluster c).startable .lane = some (e, q)) (is : slotOp e.bits = op) :
      Began c .lane e q s (s.startOp c .lane op (fun t e => tileFold step t c e)) (fun ws => ∃ l, ws = [.vec (vVd e.bits) l] ∧
        l.length = 64 ∧ ∀ k, k < 64 →
          l[k]? = some ((List.range (shRows e.hx)).foldl (fun v r => step v (laneOf (row r) k)) (lane (vVd e.bits) k))) := by
    obtain ⟨len, lanes⟩ := foldRows_vreg step a (vVd e.bits) (shRows e.hx) row
    exact began_startOp start is rfl ⟨_, rfl, len, lanes⟩
  refine ⟨fun start is => ⟨_, rfl, fold _ start is⟩, fun start is => ⟨_, rfl, fold _ start is⟩,
    fun start is => ⟨_, rfl, fold _ start is⟩, fun start is equal => ⟨_, rfl, began_startOp start is (texp2Start_equal s c equal) ?_⟩,
    fun start is equal => ?_, fun unequal => ⟨fun start is => ⟨_, rfl, faulted_startOp start is (texp2Start_unequal s c unequal)⟩,
      fun start is => ⟨_, rfl, faulted_startOp start is (tcvtStart_unequal s c unequal)⟩⟩⟩
  · obtain ⟨len, rows⟩ := tileWrites_range e.hy (vY e.bits) (shRows e.hx) (texpRow a e)
    obtain ⟨width, lanes⟩ := foldRows_vreg laneSum a (vVd e.bits) (shRows e.hx) (fun r => (texpRow a e r).map (decodeEl (shFormat e.hy)))
    refine ⟨_, ?_, ?_, width, lanes, fun r hr => ?_⟩
    · rw [List.length_append]
      exact congrArg (· + 1) len
    · rw [List.getElem?_append_right len.le]
      exact congrArg (fun n => [Write.vec _ _][n]?) (Nat.sub_eq_zero_of_le len.ge)
    · rw [List.getElem?_append_left (hr.trans_eq len.symm)]
      exact rows r hr
  · have run := tcvtStart_equal s c equal
    have same := sameTile_rows equal
    refine ⟨fun plain unscaled => ?_, fun wafer => ?_, fun plain scaled => ?_⟩
    · rw [if_neg (not_not_intro plain), unscaled, if_neg Bool.false_ne_true, Arch.tile, List.map_map] at run
      exact ⟨_, rfl, began_startOp start is run (tileWrites_range _ _ _ _)⟩
    · rw [if_pos wafer] at run
      exact ⟨_, rfl, began_startOp start is run (cvtWafer_rows _ _ _ _ _)⟩
    · rw [if_neg (not_not_intro plain), if_pos scaled] at run
      obtain ⟨len, rows, scales⟩ := cvtScaled_scales a e.hy (vY e.bits) (a.tile (vX e.bits) e.hx)
      rw [← same] at len rows scales
      exact ⟨_, rfl, began_startOp start is run ⟨cvtRow a e.hy (a.tile (vX e.bits) e.hx), len, fun r hr => ⟨rows r hr, fun j hj =>
        cvtRow_getElem? a e.hy (a.tile (vX e.bits) e.hx) (hr.trans_eq same) hj⟩, scales⟩⟩

/-! ### Matrix operations (03 R83 to R85; 04 R107) -/

theorem mmaStart_eq (s : State) (c : Nat) (e : QEntry) : mmaStart s c e = (s, .run [.acc (mTile e.bits) ((List.range 4096).map (fun i =>
    (s.cluster c).arch.mmaEl e (e.shapes.getD 0 0) (e.shapes.getD 1 0) (i / 64) (i % 64)))] none) := rfl

/-- Row m, column n of a tile in row order. -/
theorem tile_getElem? {α : Type} (f : Nat → Nat → α) {m n : Nat} (hm : m < 64) (hn : n < 64) :
    ((List.range 4096).map (fun i => f (i / 64) (i % 64)))[64 * m + n]? = some (f m n) := by
  have row : (64 * m + n) / 64 = m := by omega
  have column : (64 * m + n) % 64 = n := by omega
  rw [List.getElem?_map, List.getElem?_range (by omega), Option.map_some, row, column]

/-- The rows that a drain writes (03 R85). -/
def drainRows (a : Arch) (e : QEntry) (h : W64) : List Write :=
  ((List.range 64).map (fun m => (List.range 64).map (fun n => drainEl (shFormat h) (a.drained e m n)))).zipIdx.map (fun p =>
    .scratch (64 * rowUnit h (mA e.bits) p.2) (rowBytes h (p.1.map (·.1))))

/-- The column maxima that a drain writes (03 R85). -/
def drainMaxima (a : Arch) (e : QEntry) : List Write :=
  if mCmax e.bits then [.scratch (64 * mB e.bits) ((a.columnMaxima e).flatMap (fun w => toBytes 4 w.toNat))] else []

theorem drainRows_rows (a : Arch) (e : QEntry) (h : W64) : (drainRows a e h).length = 64 ∧ ∀ m, m < 64 → (drainRows a e h)[m]? =
    some (.scratch (64 * rowUnit h (mA e.bits) m) (rowBytes h ((List.range 64).map (fun n => (drainEl (shFormat h) (a.drained e m n)).1)))) := by
  refine ⟨by simp [drainRows], fun m hm => ?_⟩
  simp [drainRows, hm, Function.comp_def]

/-- The saturated elements of a drain (03 R85). -/
theorem drain_count (f : Nat → Nat → Nat × Bool) :
    (((List.range 64).map (fun m => (List.range 64).map (f m))).map (fun r => (r.filter (·.2)).length)).sum =
      ((List.range 64).map (fun m => ((List.range 64).filter (fun n => (f m n).2)).length)).sum := by
  rw [List.map_map]
  congr 2
  funext m
  rw [Function.comp_apply, List.filter_map, List.length_map]
  rfl

/-- Settles O8: the accumulated blocks of each element, and what a drain writes. -/
theorem matrixOperationsAccumulateAndDrain : Obligations.MatrixOperationsAccumulateAndDrain := by
  unfold Obligations.MatrixOperationsAccumulateAndDrain
  intro c s e q a h mma product drain column
  have accumulate {op : Nat} (start : (s.cluster c).startable .array = some (e, q)) (is : slotOp e.bits = op) :
      Began c .array e q s (s.startOp c .array op (fun t e => mmaStart t c e)) (fun ws => ∃ l, ws = [.acc (mTile e.bits) l] ∧
        l.length = 4096 ∧ ∀ m n, m < 64 → n < 64 → l[64 * m + n]? = some (a.mmaEl e h (e.shapes.getD 1 0) m n)) :=
    began_startOp start is (mmaStart_eq s c e) ⟨_, rfl, by rw [List.length_map, List.length_range], fun m n hm hn =>
      tile_getElem? (fun m n => a.mmaEl e h (e.shapes.getD 1 0) m n) hm hn⟩
  refine ⟨fun start is => ⟨_, rfl, accumulate start is⟩, fun start is => ⟨_, rfl, accumulate start is⟩,
    fun start is => ⟨_, rfl, accumulate start is⟩, fun start is => ⟨_, rfl, accumulate start is⟩,
    fun start is => ⟨_, rfl, accumulate start is⟩, fun start is => ⟨_, rfl, accumulate start is⟩,
    fun start is => ⟨_, rfl, accumulate start is⟩, fun start is => ⟨_, rfl, accumulate start is⟩,
    fun start is => ⟨_, rfl, began_startOp start is rfl ?_⟩⟩
  obtain ⟨len, rows⟩ := drainRows_rows a e h
  refine ⟨drainRows a e h, drainMaxima a e, _, rfl, len, rows, fun off => if_neg (by simp [off]), fun on => ?_, drain_count drain⟩
  rw [drainMaxima, if_pos on, Arch.columnMaxima, List.flatMap_map]
  rfl

end Sys2Proof.Proofs
end

section
/-! PROOF of the cluster loads and stores (03 R88 to R90; 02 R40; 10 R286): each start's checks, and what is then in progress. -/

namespace Sys2Proof.Proofs
open Sys2Proof Sys2Proof.Machine Sys2Proof.Laws

/-! ### Loads and stores at their start (03 R66, R88 to R90) -/

section Moves

variable {s u : State} {c : ClusterId} {e : QEntry} {q : List QEntry}

/-- An operation that completes in the cycle it starts (03 R90). -/
theorem turns_startOp_finished {pipe : Pipe} {op : Nat} {f : State → QEntry → State × Begun} {a : Arch}
    (start : (s.cluster c).startable pipe = some (e, q)) (is : slotOp e.bits = op) (done : f s e = (s, .finished))
    (applies : (((s.cluster c).arch.setQueue (pipeSlot pipe) q).take (slotWait e.bits)).signal (slotSig e.bits) = some a) :
    Turns c s (s.startOp c pipe op f) { s.cluster c with arch := a } := by
  unfold State.startOp
  simp only [start, is, if_true, done]
  have left := turns_modCluster c s (fun y => { y with arch := (y.arch.setQueue (pipeSlot pipe) q).take (slotWait e.bits) })
  have signalled := turns_applySignal (slot := pipeSlot pipe) (unit := e.pc) left applies
  exact signalled

/-- A tensor load in progress: it holds its handle, what it will write, and the line whose read failed (03 R89). -/
def Loads (c : ClusterId) (e : QEntry) (q : List QEntry) (u t : State) (ws : List Write) (err : Option Nat) : Prop :=
  OnlyCluster c u t ∧ ∃ r, (t.cluster c).running = (u.cluster c).running ++ [r] ∧ r.writes = ws ∧ r.err = err ∧
    r.handle = some (e.ops.getD 0 0) ∧ r.pipe = .load ∧ r.pc = e.pc ∧ r.sig = slotSig e.bits ∧ r.isMarker = false ∧
    (t.cluster c).arch = ((u.cluster c).arch.setQueue 3 q).take (slotWait e.bits)

theorem loads_startOp {f : State → QEntry → State × Begun} {ws : List Write} {err : Option Nat}
    (start : (s.cluster c).startable .load = some (e, q)) (is : slotOp e.bits = 1) (runs : f s e = (u, .run ws err)) :
    Loads c e q u (s.startOp c .load 1 f) ws err := by
  unfold State.startOp
  simp only [start, is, if_true, runs]
  obtain ⟨only, mine⟩ := turns_modCluster c u (fun y => { y with
    arch := (y.arch.setQueue 3 q).take (slotWait e.bits), running := y.running ++
      [{ pipe := .load, slot := 3, pc := e.pc, sig := slotSig e.bits, tile := 2, isMarker := false, writes := ws, err := err,
         handle := some (e.ops.getD 0 0) }] })
  exact ⟨only, _, congrArg Cluster.running mine, rfl, rfl, rfl, rfl, rfl, rfl, rfl, congrArg Cluster.arch mine⟩

end Moves

section Tensors

variable {s u : State} {c p : Nat} {e : QEntry} {x : Tensor}

/-- A handle of no valid descriptor (03 R89, R98). -/
theorem tileCheck_none (h : s.tensorAt p (e.ops.getD 0 0) = none) : s.tileCheck p e = .inr 0x06 := by
  simp only [State.tileCheck, h]

theorem ldtStart_fault {code : Nat} (h : s.tileCheck p e = .inr code) : ldtStart s c p e = (s, .fault code) := by
  simp only [ldtStart, h]

theorem sttStart_fault {code : Nat} (h : s.tileCheck p e = .inr code) : sttStart s c p e = (s, .fault code) := by
  simp only [sttStart, h]

/-- The coordinates of an entry's tile (03 R89). -/
abbrev tx0 (e : QEntry) : Nat := (e.ops.getD 1 0).toNat
abbrev tx1 (e : QEntry) : Nat := (e.ops.getD 2 0).toNat
abbrev touter (e : QEntry) : Nat := (e.ops.getD 3 0).toNat
abbrev tshape (e : QEntry) : W64 := e.shapes.getD 0 0

/-- The rows of an ld.t (03 R89). -/
abbrev rowsOf (s : State) (p : Nat) (x : Tensor) (e : QEntry) : State × List Write × Option Nat :=
  s.ldRows p x (s.memberOf x) (tshape e) (lSp e.bits) (tx0 e) (tx1 e) (touter e) (List.range (shRows (tshape e)))

abbrev fineOf (s : State) (x : Tensor) (e : QEntry) : List (Nat × Nat) :=
  x.finePairs (s.memberOf x) (tshape e) (tx0 e) (tx1 e) (touter e)

abbrev coarseOf (s : State) (x : Tensor) (e : QEntry) : List Nat :=
  x.coarseAddrs (s.memberOf x) (tshape e) (tx0 e) (tx1 e) (touter e)

/-- The fine lines of a scaled tile as they are written (03 R89; 04 R112). -/
abbrev fineWritesOf (fine : List (Nat × Nat)) (ls : List Line) : List Write :=
  (fine.zip ls).map (fun y => .scratch (64 * y.1.1) (lineBytes (y.2 &&& lineOf (List.replicate 64 0x7F#8))))

variable (sound : s.tileCheck p e = .inl x)
include sound

theorem ldtStart_badRow {ws : List Write} {pln : Nat} (rows : rowsOf s p x e = (u, ws, some pln)) :
    ldtStart s c p e = (u, .run ws (some pln)) := by
  simp only [ldtStart, sound, rows]

theorem ldtStart_unscaled {ws : List Write} (rows : rowsOf s p x e = (u, ws, none)) (plain : shScaled (tshape e) = false) :
    ldtStart s c p e = (u, .run ws none) := by
  simp only [ldtStart, sound, rows, plain, Bool.not_false, if_true]

variable {v : State} {ws : List Write} {ls : List Line} (rows : rowsOf s p x e = (u, ws, none)) (scaled : shScaled (tshape e) = true)
include rows scaled

theorem ldtStart_badFine {pln : Nat} (fine : u.readAddrs p ((fineOf s x e).map (·.2)) = (v, ls, some pln)) :
    ldtStart s c p e = (v, .run (ws ++ fineWritesOf (fineOf s x e) ls) (some pln)) := by
  simp only [ldtStart, sound, rows, scaled, fine, Bool.not_true, Bool.false_eq_true, if_false]
  rfl

theorem ldtStart_scaled {z : State} {cl : List Line} {err : Option Nat}
    (fine : u.readAddrs p ((fineOf s x e).map (·.2)) = (v, ls, none))
    (coarse : v.readAddrs p ((coarseOf s x e).map (fun w => w - w % 64)) = (z, cl, err)) :
    ldtStart s c p e = (z, .run (ws ++ fineWritesOf (fineOf s x e) ls ++ (if err.isSome then [] else [.scratch (64 * shScale (tshape e))
      (padTo 64 (((coarseOf s x e).zip cl).flatMap (fun y => toBytes 4 (lineNat y.2 (y.1 % 64) 4))))])) err) := by
  cases err with
  | none =>
    simp only [ldtStart, sound, rows, scaled, fine, coarse, Bool.not_true, Bool.false_eq_true, if_false, Option.isSome_none]
    rfl
  | some pln =>
    simp only [ldtStart, sound, rows, scaled, fine, coarse, Bool.not_true, Bool.false_eq_true, if_false, Option.isSome_some, if_true,
      List.append_nil]
    rfl

end Tensors

section Multicast

variable {s : State} {c : Nat} {j : Nat × Nat} {e : QEntry}

/-- The remote signal of an st.c (03 R70, R90). -/
abbrev remoteSig (e : QEntry) : BitVec 16 := BitVec.ofNat 16 (fld (e.ops.getD 3 0) 15 0)

theorem stcStart_none (zero : e.ops.getD 2 0 = 0) : stcStart s c j e = (s, .finished) := by
  rw [stcStart, if_pos (by rw [zero]; rfl)]

variable (count : (e.ops.getD 2 0).toNat ≠ 0)
include count

theorem stcStart_beyond (beyond : 16384 ≤ (e.ops.getD 1 0).toNat ∨
    16384 < (e.ops.getD 1 0).toNat + (shRows (tshape e) - 1) * shStride (tshape e) + shUnits (tshape e)) :
    stcStart s c j e = (s, .fault 0x02) := by
  simp only [stcStart, count, beyond, if_false, if_true]

variable (fits : ¬ (16384 ≤ (e.ops.getD 1 0).toNat ∨
    16384 < (e.ops.getD 1 0).toNat + (shRows (tshape e) - 1) * shStride (tshape e) + shUnits (tshape e)))
include fits

theorem stcStart_badSignal (bad : fld (e.ops.getD 3 0) 31 16 ≠ 0 ∨ sigOk (remoteSig e) = false) :
    stcStart s c j e = (s, .fault 0x04) := by
  have bad : fld (e.ops.getD 3 0) 31 16 ≠ 0 ∨ (!sigOk (remoteSig e)) = true := bad.imp_right (by simp)
  simp only [stcStart, count, fits, bad, if_false, if_true]

variable (high : fld (e.ops.getD 3 0) 31 16 = 0) (good : sigOk (remoteSig e) = true)
include high good

theorem stcStart_goodSignal : stcStart s c j e =
    match (if (e.ops.getD 2 0).toNat ≤ 300 ∧ (e.ops.getD 0 0).toNat < 1200 then
      s.multicast c j (e.ops.getD 0 0).toNat (e.ops.getD 2 0).toNat else none) with
    | some ds => (s, .run (multicastWrites (s.cluster c).arch (tshape e) (lSp e.bits) (e.ops.getD 1 0).toNat (remoteSig e) ds) none)
    | none => (s, .fault 0x0B) := by
  have passes : ¬ (fld (e.ops.getD 3 0) 31 16 ≠ 0 ∨ (!sigOk (remoteSig e)) = true) := by
    rw [high, good]
    simp
  simp only [stcStart, count, fits, passes, if_false] <;> rfl

theorem stcStart_missing (missing : 300 < (e.ops.getD 2 0).toNat ∨ 1200 ≤ (e.ops.getD 0 0).toNat ∨
    s.multicast c j (e.ops.getD 0 0).toNat (e.ops.getD 2 0).toNat = none) : stcStart s c j e = (s, .fault 0x0B) := by
  have none : (if (e.ops.getD 2 0).toNat ≤ 300 ∧ (e.ops.getD 0 0).toNat < 1200 then
      s.multicast c j (e.ops.getD 0 0).toNat (e.ops.getD 2 0).toNat else none) = none := by
    split
    · rename_i near
      exact (missing.resolve_left (by omega)).resolve_left (by omega)
    · rfl
  rw [stcStart_goodSignal count fits high good, none]

theorem stcStart_found {ds : List Nat} (few : (e.ops.getD 2 0).toNat ≤ 300) (near : (e.ops.getD 0 0).toNat < 1200)
    (found : s.multicast c j (e.ops.getD 0 0).toNat (e.ops.getD 2 0).toNat = some ds) :
    stcStart s c j e =
      (s, .run (multicastWrites (s.cluster c).arch (tshape e) (lSp e.bits) (e.ops.getD 1 0).toNat (remoteSig e) ds) none) := by
  rw [stcStart_goodSignal count fits high good, if_pos ⟨few, near⟩, found]

end Multicast

section TensorStore

variable {s : State} {c p : Nat} {e : QEntry} {x : Tensor} (sound : s.tileCheck p e = .inl x)
include sound

theorem sttStart_forbidden (h : s.mayWrite p (x.tileLines (s.memberOf x) (tshape e) (tx0 e) (tx1 e) (touter e)) = false) :
    sttStart s c p e = (s, .fault 0x09) := by
  simp only [sttStart, sound, h, Bool.not_false, if_true]

/-- The data rows of an st.t: wafers as they stand, plain rows element by element (03 R89). -/
def storeRows (s : State) (c p : Nat) (e : QEntry) (x : Tensor) : List Write :=
  (List.range (shRows (tshape e))).flatMap (fun row =>
    if shWafer (tshape e) ≠ 0 then
      s.waferWrites p x (s.memberOf x) (tx0 e) (tx1 e + row) (touter e) ((s.cluster c).arch.rowNat (tshape e) (lSp e.bits) row)
    else s.rowWrites p x (s.memberOf x) (tx0 e) (tx1 e + row) (touter e)
      ((List.range (shEls (tshape e))).map (elCode (shFormat (tshape e)) ((s.cluster c).arch.rowNat (tshape e) (lSp e.bits) row))))

/-- The scales of an st.t (03 R89; 04 R112). -/
def storeScales (s : State) (c p : Nat) (e : QEntry) (x : Tensor) : List Write :=
  if shScaled (tshape e) then
    (fineOf s x e).flatMap (fun y => s.devWrite p y.2 0 512
      (BitVec.ofNat 512 ((s.cluster c).arch.units y.1 1) &&& lineOf (List.replicate 64 0x7F#8)).toNat) ++
    (coarseOf s x e).zipIdx.flatMap (fun y =>
      s.devWrite p (y.1 - y.1 % 64) (8 * (y.1 % 64)) 32 ((s.cluster c).arch.coarse (tshape e) y.2).toNat)
  else []

theorem sttStart_allowed (h : s.mayWrite p (x.tileLines (s.memberOf x) (tshape e) (tx0 e) (tx1 e) (touter e)) = true) :
    sttStart s c p e = (s, .run (storeRows s c p e x ++ storeScales s c p e x) none) := by
  simp only [sttStart, sound, h, Bool.not_true, Bool.false_eq_true, if_false]
  rfl

end TensorStore

/-- A count that is not zero (03 R90). -/
theorem toNat_ne_zero {n : Nat} {x : BitVec n} (h : x ≠ 0) : x.toNat ≠ 0 := fun zero => h (BitVec.eq_of_toNat_eq zero)

/-- Settles O9: each start's checks in their order, and what is in progress when they pass. -/
theorem clusterLoadsAndStoresMoveTiles : Obligations.ClusterLoadsAndStoresMoveTiles := by
  unfold Obligations.ClusterLoadsAndStoresMoveTiles
  intro c s e q a h off pitch x0 x1 o p reads
  refine ⟨fun start is => ⟨fun fits => ?_, fun outside => ?_⟩, fun start is => ⟨fun fits => ?_, fun outside => ?_⟩,
    fun start is j job => ⟨fun x zero applies => ?_, fun count => ⟨fun beyond => ?_, fun fits low => ⟨fun bad => ?_, fun high good =>
      ⟨fun missing => ?_, fun ds few near found => ?_⟩⟩⟩⟩, fun start is => ⟨fun gone => ?_, fun code check => ?_, fun x u ws check => ?_⟩,
    fun start is => ⟨fun code check => ?_, fun x check => ⟨fun forbidden => ?_, fun allowed => ?_⟩⟩⟩
  · refine ⟨_, rfl, began_startOp start is (if_pos fits) ⟨by simp [h], fun r hr => ?_⟩⟩
    rw [List.getElem?_map, List.getElem?_range hr]
    rfl
  · exact ⟨_, rfl, faulted_startOp start is (if_neg (by rw [outside]; exact Bool.false_ne_true))⟩
  · exact ⟨_, rfl, began_startOp start is (if_pos fits) rfl⟩
  · exact ⟨_, rfl, faulted_startOp start is (if_neg (by rw [outside]; exact Bool.false_ne_true))⟩
  · refine ⟨_, rfl, turns_startOp_finished start is ?_ applies⟩
    simp only [job, stcStart_none zero]
  · have count := toNat_ne_zero count
    refine ⟨_, rfl, faulted_startOp start is ?_⟩
    simp only [job, stcStart_beyond count beyond]
  · have count := toNat_ne_zero count
    refine ⟨_, rfl, faulted_startOp start is ?_⟩
    simp only [job, stcStart_badSignal count (not_or.mpr ⟨not_le.mpr low, not_lt.mpr fits⟩) bad]
  · have count := toNat_ne_zero count
    refine ⟨_, rfl, faulted_startOp start is ?_⟩
    simp only [job, stcStart_missing count (not_or.mpr ⟨not_le.mpr low, not_lt.mpr fits⟩) high good missing]
  · have count := toNat_ne_zero count
    refine ⟨_, rfl, began_startOp (P := fun ws => ws = _) start is ?_ rfl⟩
    simp only [job, stcStart_found count (not_or.mpr ⟨not_le.mpr low, not_lt.mpr fits⟩) high good few near found]
    rfl
  · exact ⟨_, rfl, faulted_startOp start is (ldtStart_fault (tileCheck_none gone))⟩
  · exact ⟨_, rfl, faulted_startOp start is (ldtStart_fault check)⟩
  · exact ⟨fun pln rows => ⟨_, rfl, loads_startOp start is (ldtStart_badRow check rows)⟩, fun rows =>
      ⟨fun plain => ⟨_, rfl, loads_startOp start is (ldtStart_unscaled check rows plain)⟩, fun scaled v ls z cl =>
        ⟨fun pln fine => ⟨_, rfl, loads_startOp start is (ldtStart_badFine check rows scaled fine)⟩,
          fun err fine coarse => ⟨_, rfl, loads_startOp start is (ldtStart_scaled check rows scaled fine coarse)⟩⟩⟩⟩
  · exact ⟨_, rfl, faulted_startOp start is (sttStart_fault check)⟩
  · exact ⟨_, rfl, faulted_startOp start is (sttStart_forbidden check forbidden)⟩
  · refine ⟨_, rfl, began_startOp start is (sttStart_allowed check allowed) ⟨_, _, rfl, fun plain => ?_, fun wafer => ?_,
      fun plain => if_neg (by rw [plain]; exact Bool.false_ne_true), fun scaled => if_pos scaled⟩⟩
    · exact congrArg (List.flatMap · _) (funext fun row => if_neg (not_not_intro plain))
    · exact congrArg (List.flatMap · _) (funext fun row => if_pos wafer)

end Sys2Proof.Proofs
end

section
/-! PROOF of what an operation changes: the parts of the state, and the relation that nothing differs but the listed ones. -/

namespace Sys2Proof.Proofs
open Sys2Proof Sys2Proof.Machine Sys2Proof.Laws

/-- The parts of the state that a command may change; the queue of commands is none of them. -/
inductive Fld where
  | free | out | unsent | clusters | quarters | stackTab | engines | mem | memory | parts | partCtl | copies | nextCopy | fns
  | buckets | intr | regs | links | sec | power | time | module | spares
deriving DecidableEq

/-- A part of the state stands. -/
def SameFld (s t : State) : Fld → Prop
  | .free => t.free = s.free
  | .out => t.out = s.out
  | .unsent => t.unsent = s.unsent
  | .clusters => t.clusters = s.clusters
  | .quarters => t.quarters = s.quarters
  | .stackTab => t.stackTab = s.stackTab
  | .engines => t.engines = s.engines
  | .mem => t.mem = s.mem
  | .memory => t.memory = s.memory
  | .parts => t.parts = s.parts
  | .partCtl => t.partCtl = s.partCtl
  | .copies => t.copies = s.copies
  | .nextCopy => t.nextCopy = s.nextCopy
  | .fns => t.fns = s.fns
  | .buckets => t.buckets = s.buckets
  | .intr => t.intr = s.intr
  | .regs => t.regs = s.regs
  | .links => t.links = s.links
  | .sec => t.sec = s.sec
  | .power => t.power = s.power
  | .time => t.time = s.time
  | .module => t.module = s.module
  | .spares => t.spares = s.spares

/-- The parts of one list are all in another. -/
@[irreducible] def Within (K L : List Fld) : Prop := ∀ f ∈ K, f ∈ L

theorem within_mem {K L : List Fld} {f : Fld} (hL : Within K L) (h : f ∈ K) : f ∈ L := by
  unfold Within at hL
  exact hL f h

theorem within_sub {K M L : List Fld} (h : M.all (K.contains ·) = true) (hL : Within K L) : Within M L := by
  unfold Within
  intro f hf
  have := List.all_eq_true.mp h f hf
  exact within_mem hL (by simpa using this)

theorem within_refl (L : List Fld) : Within L L := by
  unfold Within
  exact fun _ h => h

/-- From s to t nothing differs but the parts in L, the queue of commands least of all; memory stays canonical and the set-up registers
legal. -/
structure Only (L : List Fld) (s t : State) : Prop where
  pending : t.pending = s.pending
  wf : Memory.wf blankByte s.mem = true → Memory.wf blankByte t.mem = true
  legal : RegistersLegal s → RegistersLegal t
  same : ∀ f, f ∉ L → SameFld s t f

variable {L : List Fld} {r s t : State}

theorem sameFld_trans {f : Fld} (h : SameFld r s f) (h' : SameFld s t f) : SameFld r t f := by
  cases f <;> exact Eq.trans h' h

theorem only_refl (L : List Fld) (s : State) : Only L s s :=
  ⟨rfl, id, id, fun f _ => by cases f <;> rfl⟩

theorem only_trans (h : Only L r s) (h' : Only L s t) : Only L r t :=
  ⟨h'.pending.trans h.pending, h'.wf ∘ h.wf, h'.legal ∘ h.legal, fun f hf => sameFld_trans (h.same f hf) (h'.same f hf)⟩

/-- An update of the record's fields that touches neither the queue, nor memory, nor the registers: each field stands or is listed. -/
theorem only_mk {x_free x_out x_unsent x_clusters x_quarters x_stackTab x_engines x_memory x_parts x_partCtl x_copies x_nextCopy x_fns x_buckets x_intr x_links
    x_sec x_power x_time x_module x_spares} (h : Only L r s)
    (h_free : x_free = s.free ∨ .free ∈ L)
    (h_out : x_out = s.out ∨ .out ∈ L)
    (h_unsent : x_unsent = s.unsent ∨ .unsent ∈ L)
    (h_clusters : x_clusters = s.clusters ∨ .clusters ∈ L)
    (h_quarters : x_quarters = s.quarters ∨ .quarters ∈ L)
    (h_stackTab : x_stackTab = s.stackTab ∨ .stackTab ∈ L)
    (h_engines : x_engines = s.engines ∨ .engines ∈ L)
    (h_memory : x_memory = s.memory ∨ .memory ∈ L)
    (h_parts : x_parts = s.parts ∨ .parts ∈ L)
    (h_partCtl : x_partCtl = s.partCtl ∨ .partCtl ∈ L)
    (h_copies : x_copies = s.copies ∨ .copies ∈ L)
    (h_nextCopy : x_nextCopy = s.nextCopy ∨ .nextCopy ∈ L)
    (h_fns : x_fns = s.fns ∨ .fns ∈ L)
    (h_buckets : x_buckets = s.buckets ∨ .buckets ∈ L)
    (h_intr : x_intr = s.intr ∨ .intr ∈ L)
    (h_links : x_links = s.links ∨ .links ∈ L)
    (h_sec : x_sec = s.sec ∨ .sec ∈ L)
    (h_power : x_power = s.power ∨ .power ∈ L)
    (h_time : x_time = s.time ∨ .time ∈ L)
    (h_module : x_module = s.module ∨ .module ∈ L)
    (h_spares : x_spares = s.spares ∨ .spares ∈ L) :
    Only L r (State.mk s.pending x_free x_out x_unsent x_clusters x_quarters x_stackTab x_engines s.mem x_memory x_parts x_partCtl x_copies x_nextCopy x_fns
        x_buckets x_intr s.regs x_links x_sec x_power x_time x_module x_spares) := by
  refine only_trans h ⟨rfl, id, id, fun f hf => ?_⟩
  cases f
  case free => exact h_free.resolve_right hf
  case out => exact h_out.resolve_right hf
  case unsent => exact h_unsent.resolve_right hf
  case clusters => exact h_clusters.resolve_right hf
  case quarters => exact h_quarters.resolve_right hf
  case stackTab => exact h_stackTab.resolve_right hf
  case engines => exact h_engines.resolve_right hf
  case mem => exact rfl
  case memory => exact h_memory.resolve_right hf
  case parts => exact h_parts.resolve_right hf
  case partCtl => exact h_partCtl.resolve_right hf
  case copies => exact h_copies.resolve_right hf
  case nextCopy => exact h_nextCopy.resolve_right hf
  case fns => exact h_fns.resolve_right hf
  case buckets => exact h_buckets.resolve_right hf
  case intr => exact h_intr.resolve_right hf
  case regs => exact rfl
  case links => exact h_links.resolve_right hf
  case sec => exact h_sec.resolve_right hf
  case power => exact h_power.resolve_right hf
  case time => exact h_time.resolve_right hf
  case module => exact h_module.resolve_right hf
  case spares => exact h_spares.resolve_right hf

/-- An update of one field. -/
theorem only_set {f : Fld} (h : Only L r s) (hp : t.pending = s.pending) (hm : t.mem = s.mem) (hr : t.regs = s.regs)
    (hL : Within [f] L) (hf : ∀ g, g ≠ f → SameFld s t g) : Only L r t := by
  refine only_trans h ⟨hp, fun hw => hm ▸ hw, fun hl => ?_, fun g hg => hf g fun e => hg (within_mem hL (by simp [e]))⟩
  unfold RegistersLegal State.partReg State.reg at hl ⊢
  rw [hr]
  exact hl

theorem only_set_free (hL : Within [.free] L) (v) (h : Only L r s) : Only L r { s with free := v } :=
  only_set h rfl rfl rfl (f := .free) hL (fun f hf => by cases f <;> first | rfl | exact absurd rfl hf)

theorem only_set_out (hL : Within [.out] L) (v) (h : Only L r s) : Only L r { s with out := v } :=
  only_set h rfl rfl rfl (f := .out) hL (fun f hf => by cases f <;> first | rfl | exact absurd rfl hf)

theorem only_set_unsent (hL : Within [.unsent] L) (v) (h : Only L r s) : Only L r { s with unsent := v } :=
  only_set h rfl rfl rfl (f := .unsent) hL (fun f hf => by cases f <;> first | rfl | exact absurd rfl hf)

theorem only_set_clusters (hL : Within [.clusters] L) (v) (h : Only L r s) : Only L r { s with clusters := v } :=
  only_set h rfl rfl rfl (f := .clusters) hL (fun f hf => by cases f <;> first | rfl | exact absurd rfl hf)

theorem only_set_quarters (hL : Within [.quarters] L) (v) (h : Only L r s) : Only L r { s with quarters := v } :=
  only_set h rfl rfl rfl (f := .quarters) hL (fun f hf => by cases f <;> first | rfl | exact absurd rfl hf)

theorem only_set_stackTab (hL : Within [.stackTab] L) (v) (h : Only L r s) : Only L r { s with stackTab := v } :=
  only_set h rfl rfl rfl (f := .stackTab) hL (fun f hf => by cases f <;> first | rfl | exact absurd rfl hf)

theorem only_set_engines (hL : Within [.engines] L) (v) (h : Only L r s) : Only L r { s with engines := v } :=
  only_set h rfl rfl rfl (f := .engines) hL (fun f hf => by cases f <;> first | rfl | exact absurd rfl hf)

theorem only_set_memory (hL : Within [.memory] L) (v) (h : Only L r s) : Only L r { s with memory := v } :=
  only_set h rfl rfl rfl (f := .memory) hL (fun f hf => by cases f <;> first | rfl | exact absurd rfl hf)

theorem only_set_parts (hL : Within [.parts] L) (v) (h : Only L r s) : Only L r { s with parts := v } :=
  only_set h rfl rfl rfl (f := .parts) hL (fun f hf => by cases f <;> first | rfl | exact absurd rfl hf)

theorem only_set_partCtl (hL : Within [.partCtl] L) (v) (h : Only L r s) : Only L r { s with partCtl := v } :=
  only_set h rfl rfl rfl (f := .partCtl) hL (fun f hf => by cases f <;> first | rfl | exact absurd rfl hf)

theorem only_set_copies (hL : Within [.copies] L) (v) (h : Only L r s) : Only L r { s with copies := v } :=
  only_set h rfl rfl rfl (f := .copies) hL (fun f hf => by cases f <;> first | rfl | exact absurd rfl hf)

theorem only_set_nextCopy (hL : Within [.nextCopy] L) (v) (h : Only L r s) : Only L r { s with nextCopy := v } :=
  only_set h rfl rfl rfl (f := .nextCopy) hL (fun f hf => by cases f <;> first | rfl | exact absurd rfl hf)

theorem only_set_fns (hL : Within [.fns] L) (v) (h : Only L r s) : Only L r { s with fns := v } :=
  only_set h rfl rfl rfl (f := .fns) hL (fun f hf => by cases f <;> first | rfl | exact absurd rfl hf)

theorem only_set_buckets (hL : Within [.buckets] L) (v) (h : Only L r s) : Only L r { s with buckets := v } :=
  only_set h rfl rfl rfl (f := .buckets) hL (fun f hf => by cases f <;> first | rfl | exact absurd rfl hf)

theorem only_set_intr (hL : Within [.intr] L) (v) (h : Only L r s) : Only L r { s with intr := v } :=
  only_set h rfl rfl rfl (f := .intr) hL (fun f hf => by cases f <;> first | rfl | exact absurd rfl hf)

theorem only_set_links (hL : Within [.links] L) (v) (h : Only L r s) : Only L r { s with links := v } :=
  only_set h rfl rfl rfl (f := .links) hL (fun f hf => by cases f <;> first | rfl | exact absurd rfl hf)

theorem only_set_sec (hL : Within [.sec] L) (v) (h : Only L r s) : Only L r { s with sec := v } :=
  only_set h rfl rfl rfl (f := .sec) hL (fun f hf => by cases f <;> first | rfl | exact absurd rfl hf)

theorem only_set_power (hL : Within [.power] L) (v) (h : Only L r s) : Only L r { s with power := v } :=
  only_set h rfl rfl rfl (f := .power) hL (fun f hf => by cases f <;> first | rfl | exact absurd rfl hf)

theorem only_set_time (hL : Within [.time] L) (v) (h : Only L r s) : Only L r { s with time := v } :=
  only_set h rfl rfl rfl (f := .time) hL (fun f hf => by cases f <;> first | rfl | exact absurd rfl hf)

theorem only_set_module (hL : Within [.module] L) (v) (h : Only L r s) : Only L r { s with module := v } :=
  only_set h rfl rfl rfl (f := .module) hL (fun f hf => by cases f <;> first | rfl | exact absurd rfl hf)

theorem only_set_spares (hL : Within [.spares] L) (v) (h : Only L r s) : Only L r { s with spares := v } :=
  only_set h rfl rfl rfl (f := .spares) hL (fun f hf => by cases f <;> first | rfl | exact absurd rfl hf)

theorem only_id (h : Only L r s) : Only L r (id s) := h

theorem only_foldl {α : Type} {f : State → α → State} (l : List α) (h : Only L r s)
    (hf : ∀ t a, Only L r t → Only L r (f t a)) : Only L r (l.foldl f s) := by
  induction l generalizing s with
  | nil => exact h
  | cons a l ih => exact ih (hf s a h)

theorem only_foldl_fst {α β : Type} {f : State × β → α → State × β} (l : List α) {p : State × β} (h : Only L r p.1)
    (hf : ∀ q a, Only L r q.1 → Only L r (f q a).1) : Only L r (l.foldl f p).1 := by
  induction l generalizing p with
  | nil => exact h
  | cons a l ih => exact ih (hf p a h)

theorem only_fst {α : Type} {x : State × α} {o : α} (hx : x = (t, o)) (h : Only L r x.1) : Only L r t := by
  rw [hx] at h
  exact h

/-- A state that an operation gives, if it gives one. -/
@[irreducible] def OnlyL {α : Type} (L : List Fld) (s : State) (x : State ⊕ α) : Prop := ∀ t, x = .inl t → Only L s t

theorem onlyL_inl {α : Type} (h : Only L s t) : OnlyL L s (.inl t : State ⊕ α) := by
  unfold OnlyL
  exact fun _ e => Sum.inl.inj e ▸ h

theorem onlyL_inr {α : Type} (c : α) : OnlyL L s (.inr c) := by
  unfold OnlyL
  exact fun _ e => nomatch e

theorem only_inl {α : Type} {x : State ⊕ α} (hx : x = .inl t) (h : OnlyL L r x) : Only L r t := by
  unfold OnlyL at h
  exact h t hx

/-- A state that an operation gives, if it gives one. -/
@[irreducible] def OnlyO (L : List Fld) (s : State) (x : Option State) : Prop := ∀ t, x = some t → Only L s t

theorem onlyO_some (h : Only L s t) : OnlyO L s (some t) := by
  unfold OnlyO
  exact fun _ e => Option.some.inj e ▸ h

theorem onlyO_none : OnlyO L s none := by
  unfold OnlyO
  exact fun _ e => nomatch e

theorem only_some {x : Option State} (hx : x = some t) (h : OnlyO L r x) : Only L r t := by
  unfold OnlyO at h
  exact h t hx

/-- The command answers a next state, from s to which nothing differs but the parts in L. -/
def Ends (L : List Fld) (s : State) (o : Host.Outcome State Fault Refusal) : Prop := ∃ t, o = .next t ∧ Only L s t

theorem ends_next (h : Only L s t) : Ends L s (.next t) := ⟨t, rfl, h⟩

/-! ### Memory and the set-up registers -/

theorem only_setStored (hL : Within [.mem] L) (pln : Nat) (bs : List Byte) (h : Only L r s) : Only L r (State.setStored s pln bs) :=
  only_trans h ⟨rfl, setStored_wf s pln bs, id, fun f hf => by
    cases f <;> first | rfl | exact absurd (within_mem hL (by simp)) hf⟩

theorem only_blankWhere (hL : Within [.mem] L) (p : Nat → Bool) (h : Only L r s) : Only L r (State.blankWhere s p) :=
  only_trans h ⟨rfl, blankWhere_wf s p, id, fun f hf => by
    cases f <;> first | rfl | exact absurd (within_mem hL (by simp)) hf⟩

end Sys2Proof.Proofs
end

section
/-! PROOF of the fields of a word, and the set-up registers that have reserved codes (00 R12; 22 R492). -/

namespace Sys2Proof.Proofs
open Sys2Proof Sys2Proof.Machine Sys2Proof.Laws

/-! ### Fields of a word -/

theorem testBit_bitsOf (x lo n i : Nat) : (bitsOf x lo n).testBit i = (decide (i < n) && x.testBit (lo + i)) := by
  unfold bitsOf
  rw [Nat.testBit_mod_two_pow, Nat.testBit_div_two_pow, Nat.add_comm]

theorem testBit_fld {n : Nat} (x : BitVec n) (hi lo i : Nat) : (fld x hi lo).testBit i = (decide (i < hi + 1 - lo) && x.getLsbD (lo + i)) :=
  testBit_bitsOf _ _ _ _

theorem getLsbD_setFld {n : Nat} (x : BitVec n) (hi lo v i : Nat) (h : hi < n) :
    (setFld x hi lo v).getLsbD i = if lo ≤ i ∧ i ≤ hi then v.testBit (i - lo) else x.getLsbD i := by
  have hm : ((2 ^ (hi + 1 - lo) - 1) * 2 ^ lo).testBit i = (decide (lo ≤ i) && decide (i - lo < hi + 1 - lo)) := by
    rw [Nat.testBit_mul_two_pow, Nat.testBit_two_pow_sub_one]
  have hv : (v * 2 ^ lo).testBit i = (decide (lo ≤ i) && v.testBit (i - lo)) := by rw [Nat.testBit_mul_two_pow]
  simp only [setFld, BitVec.getLsbD_or, BitVec.getLsbD_and, BitVec.getLsbD_not, BitVec.getLsbD_ofNat, hm, hv]
  by_cases hn : i < n
  · by_cases hc : lo ≤ i ∧ i ≤ hi
    · have : i - lo < hi + 1 - lo := by omega
      simp [hn, hc, this]
    · have hc' : ¬ (lo ≤ i ∧ i - lo < hi + 1 - lo) := by omega
      simp only [hn, hc, decide_true, Bool.true_and, if_false]
      rw [show (decide (lo ≤ i) && decide (i - lo < hi + 1 - lo)) = false by simpa using hc']
      simp
  · have : ¬ (lo ≤ i ∧ i ≤ hi) := by omega
    simp [hn, this, BitVec.getLsbD_of_ge x i (by omega)]

theorem fld_setFld_same {n : Nat} (x : BitVec n) {hi lo : Nat} (v : Nat) (h : hi < n) :
    fld (setFld x hi lo v) hi lo = v % 2 ^ (hi + 1 - lo) := by
  apply Nat.eq_of_testBit_eq
  intro i
  rw [testBit_fld, getLsbD_setFld _ _ _ _ _ h, Nat.testBit_mod_two_pow]
  by_cases hi' : i < hi + 1 - lo
  · simp [hi', show lo + i ≤ hi by omega]
  · simp [hi']

theorem fld_setFld_ne {n : Nat} (x : BitVec n) {hi lo hi' lo' : Nat} (v : Nat) (h : hi < n) (hd : hi' < lo ∨ hi < lo') :
    fld (setFld x hi lo v) hi' lo' = fld x hi' lo' := by
  apply Nat.eq_of_testBit_eq
  intro i
  rw [testBit_fld, testBit_fld, getLsbD_setFld _ _ _ _ _ h]
  by_cases hi' : i < hi' + 1 - lo'
  · rw [if_neg (by omega)]
  · simp [hi']

theorem fld_take_ne (x y : W64) {hi lo hi' lo' : Nat} (h : hi < 64) (hd : hi' < lo ∨ hi < lo') :
    fld (Machine.take x y hi lo) hi' lo' = fld x hi' lo' := fld_setFld_ne x _ h hd

theorem fld_takeIf_ne (x y : W64) {hi lo hi' lo' : Nat} (ok : Nat → Bool) (h : hi < 64) (hd : hi' < lo ∨ hi < lo') :
    fld (takeIf x y hi lo ok) hi' lo' = fld x hi' lo' := by
  unfold takeIf
  split
  · exact fld_setFld_ne x _ h hd
  · rfl

/-- A field that takes only listed values holds one if it held one. -/
theorem fld_takeIf_same (x y : W64) {hi lo : Nat} (ok : Nat → Bool) (h : hi < 64) (P : Nat → Prop) (hx : P (fld x hi lo))
    (hok : ∀ n, ok n = true → P n) : P (fld (takeIf x y hi lo ok) hi lo) := by
  unfold takeIf
  split
  next hy =>
    rw [fld_setFld_same _ _ h, Nat.mod_eq_of_lt (fld_lt y hi lo)]
    exact hok _ hy
  next => exact hx

/-! ### The set-up registers -/

variable {L : List Fld} {s₀ s : State}

/-- The key of a register none of whose fields has a reserved code. -/
def FreeKey (k : Nat) : Prop := (0x20 < k ∧ k < 0x60000) ∨ 0x68000 ≤ k

/-- The registers of a slot, by their offsets, hold no reserved code. -/
def SlotLegal (f : Nat → W64) : Prop :=
  fld (f 0x18) 18 17 ≠ 3 ∧ 5 ≤ fld (f 0x18) 29 20 ∧ fld (f 0x18) 29 20 ≤ 640 ∧
    1 ≤ fld (f 0x18) 33 30 ∧ fld (f 0x18) 33 30 ≤ 8 ∧ fld (f 0x28) 8 0 ≤ 256 ∧
    fld (f 0x30) 12 8 ≤ 16 ∧ fld (f 0x50) 14 0 ≤ 16384 ∧ fld (f 0x68) 12 8 ≤ 16

theorem registersLegal_iff (s : State) : RegistersLegal s ↔ (∀ p, p < 8 → SlotLegal (s.partReg p)) ∧
    1 ≤ fld (s.reg 0 0x20) 9 0 ∧ fld (s.reg 0 0x20) 9 0 ≤ 1000 := Iff.rfl

theorem reg_setReg_ne {fn off fn' off' : Nat} (v : W64) (h : regKey fn off ≠ regKey fn' off') :
    (s.setReg fn off v).reg fn' off' = s.reg fn' off' := tab_get_set_ne _ _ _ _ _ h.symm

theorem slotLegal_congr {f g : Nat → W64} (h : ∀ o, o < 0x1000 → g o = f o) (hf : SlotLegal f) : SlotLegal g := by
  unfold SlotLegal at *
  rw [h 0x18 (by decide), h 0x28 (by decide), h 0x30 (by decide), h 0x50 (by decide), h 0x68 (by decide)]
  exact hf

theorem legal_congr {t : State} (h : ∀ k, ¬ FreeKey k → Tab.get regReset t.regs k = Tab.get regReset s.regs k) (hs : RegistersLegal s) :
    RegistersLegal t := by
  obtain ⟨hslot, hptm⟩ := (registersLegal_iff s).mp hs
  have h0 : t.reg 0 0x20 = s.reg 0 0x20 := h _ (by unfold FreeKey regKey; omega)
  refine (registersLegal_iff t).mpr ⟨fun p hp => slotLegal_congr (fun o ho => ?_) (hslot p hp), h0 ▸ hptm⟩
  exact h _ (by unfold FreeKey regKey; omega)

theorem only_regs {regs : Tab W64} (hL : Within [.regs] L) (h : Only L s₀ s)
    (hl : RegistersLegal s → RegistersLegal { s with regs := regs }) : Only L s₀ { s with regs := regs } :=
  only_trans h ⟨rfl, id, hl, fun f hf => by cases f <;> first | rfl | exact absurd (within_mem hL (by simp)) hf⟩

theorem only_setReg (hL : Within [.regs] L) {fn off : Nat} (v : W64) (hk : FreeKey (regKey fn off)) (h : Only L s₀ s) :
    Only L s₀ (State.setReg s fn off v) :=
  only_regs hL h (legal_congr fun _ hn => tab_get_set_ne _ _ _ _ _ (fun e => hn (e ▸ hk)))

theorem resetRegs_legal : RegistersLegal State.reset := by
  refine (registersLegal_iff _).mpr ⟨fun p hp => ?_, by decide⟩
  unfold SlotLegal
  interval_cases p <;> decide

theorem legal_of_regs_nil (h : s.regs = []) : RegistersLegal s :=
  legal_congr (fun k _ => by rw [h]; rfl) resetRegs_legal

theorem setReg_slot {p q off o : Nat} (ho : o < 0x1000) (hoff : off < 0x1000) (w : W64) :
    (s.setReg 0 (0x60000 + 0x1000 * p + off) w).partReg q o =
      if q = p then Function.update (s.partReg p) off w o else s.partReg q o := by
  unfold State.setReg State.partReg State.reg
  dsimp only
  rw [tab_get_set]
  unfold regKey
  by_cases hq : q = p
  · subst hq
    by_cases he : o = off
    · simp [he]
    · rw [if_neg (by omega), if_pos rfl, Function.update_of_ne he]
  · rw [if_neg (by omega), if_neg hq]

theorem slotReg_legal {f : Nat → W64} {off : Nat} {v w : W64} (hf : SlotLegal f) (hw : slotReg off (f off) v = some w) :
    SlotLegal (Function.update f off w) := by
  obtain ⟨h1, h2, h3, h4, h5, h6, h7, h8, h9⟩ := hf
  have other : ∀ o, o ≠ off → Function.update f off w o = f o := fun o h => Function.update_of_ne h w f
  by_cases h18 : off = 0x18
  · subst h18
    have hw : w = takeIf (takeIf (Machine.take (takeIf (Machine.take (f 0x18) v 16 0) v 18 17 (fun x => decide (x ≠ 3))) v 19 19) v 29 20
      (fun x => decide (5 ≤ x) && decide (x ≤ 640))) v 33 30 (fun x => decide (1 ≤ x) && decide (x ≤ 8)) := (Option.some.inj hw).symm
    have e1 : fld w 18 17 ≠ 3 := by
      rw [hw, fld_takeIf_ne _ _ _ (by decide) (by decide), fld_takeIf_ne _ _ _ (by decide) (by decide), fld_take_ne _ _ (by decide) (by decide)]
      refine fld_takeIf_same _ _ _ (by decide) (· ≠ 3) ?_ (by simp)
      rwa [fld_take_ne _ _ (by decide) (by decide)]
    have e2 : 5 ≤ fld w 29 20 ∧ fld w 29 20 ≤ 640 := by
      rw [hw, fld_takeIf_ne _ _ _ (by decide) (by decide)]
      refine fld_takeIf_same _ _ _ (by decide) (fun n => 5 ≤ n ∧ n ≤ 640) ?_ (by simp)
      rw [fld_take_ne _ _ (by decide) (by decide), fld_takeIf_ne _ _ _ (by decide) (by decide), fld_take_ne _ _ (by decide) (by decide)]
      exact ⟨h2, h3⟩
    have e3 : 1 ≤ fld w 33 30 ∧ fld w 33 30 ≤ 8 := by
      rw [hw]
      refine fld_takeIf_same _ _ _ (by decide) (fun n => 1 ≤ n ∧ n ≤ 8) ?_ (by simp)
      rw [fld_takeIf_ne _ _ _ (by decide) (by decide), fld_take_ne _ _ (by decide) (by decide), fld_takeIf_ne _ _ _ (by decide) (by decide),
        fld_take_ne _ _ (by decide) (by decide)]
      exact ⟨h4, h5⟩
    simpa [SlotLegal] using ⟨e1, e2.1, e2.2, e3.1, e3.2, h6, h7, h8, h9⟩
  by_cases h28 : off = 0x28
  · subst h28
    have e : fld w 8 0 ≤ 256 := by
      rw [← Option.some.inj hw]
      exact fld_takeIf_same _ _ _ (by decide) (· ≤ 256) h6 (by simp)
    simpa [SlotLegal] using ⟨h1, h2, h3, h4, h5, e, h7, h8, h9⟩
  by_cases h30 : off = 0x30
  · subst h30
    have e : fld w 12 8 ≤ 16 := by
      rw [← Option.some.inj hw]
      refine fld_takeIf_same _ _ _ (by decide) (· ≤ 16) ?_ (by simp)
      rwa [fld_take_ne _ _ (by decide) (by decide)]
    simpa [SlotLegal] using ⟨h1, h2, h3, h4, h5, h6, e, h8, h9⟩
  by_cases h50 : off = 0x50
  · subst h50
    have e : fld w 14 0 ≤ 16384 := by
      rw [← Option.some.inj hw]
      exact fld_takeIf_same _ _ _ (by decide) (· ≤ 16384) h8 (by simp)
    simpa [SlotLegal] using ⟨h1, h2, h3, h4, h5, h6, h7, e, h9⟩
  by_cases h68 : off = 0x68
  · subst h68
    have e : fld w 12 8 ≤ 16 := by
      rw [← Option.some.inj hw, fld_take_ne _ _ (by decide) (by decide)]
      refine fld_takeIf_same _ _ _ (by decide) (· ≤ 16) ?_ (by simp)
      rwa [fld_take_ne _ _ (by decide) (by decide)]
    simpa [SlotLegal] using ⟨h1, h2, h3, h4, h5, h6, h7, h8, e⟩
  unfold SlotLegal
  rw [other _ (Ne.symm h18), other _ (Ne.symm h28), other _ (Ne.symm h30), other _ (Ne.symm h50), other _ (Ne.symm h68)]
  exact ⟨h1, h2, h3, h4, h5, h6, h7, h8, h9⟩

/-- A write of a slot's register keeps the registers legal (00 R12). -/
theorem legal_writeSlot {p off : Nat} {v w : W64} (hoff : off < 0x1000) (hw : slotReg off (s.partReg p off) v = some w)
    (h : RegistersLegal s) : RegistersLegal (s.setReg 0 (0x60000 + 0x1000 * p + off) w) := by
  obtain ⟨hslot, hptm⟩ := (registersLegal_iff s).mp h
  refine (registersLegal_iff _).mpr ⟨fun q hq => ?_, ?_⟩
  · by_cases hqp : q = p
    · subst hqp
      refine slotLegal_congr (fun o ho => ?_) (slotReg_legal (hslot q hq) hw)
      rw [setReg_slot ho hoff, if_pos rfl]
    · refine slotLegal_congr (fun o ho => ?_) (hslot q hq)
      rw [setReg_slot ho hoff, if_neg hqp]
  · rw [reg_setReg_ne _ (by unfold regKey; omega)]
    exact hptm

/-- The PTM interval stays within 1 to 1,000 ms (18 R441). -/
theorem legal_setPtm {v w : W64} (hw : fld w 9 0 = fld (takeIf (s.reg 0 0x20) v 9 0 (fun x => decide (1 ≤ x) && decide (x ≤ 1000))) 9 0)
    (h : RegistersLegal s) : RegistersLegal (s.setReg 0 0x20 w) := by
  obtain ⟨hslot, hptm⟩ := (registersLegal_iff s).mp h
  refine (registersLegal_iff _).mpr ⟨fun q hq => slotLegal_congr (fun o ho => ?_) (hslot q hq), ?_⟩
  · exact reg_setReg_ne _ (by unfold regKey; omega)
  · rw [show (s.setReg 0 0x20 w).reg 0 0x20 = w from tab_get_set_same _ _ _ _, hw]
    exact fld_takeIf_same _ _ _ (by decide) (fun n => 1 ≤ n ∧ n ≤ 1000) hptm (by simp)

end Sys2Proof.Proofs
end

section
/-! PROOF of the parts that the shared operations, the clusters, the round's lists and the bank engines' packets change. -/

namespace Sys2Proof.Proofs
open Sys2Proof Sys2Proof.Machine Sys2Proof.Laws

variable {L : List Fld} {s₀ : State}

theorem only_modCluster (hL : Within [.clusters] L) {s : State} (c : Nat) (f : Cluster → Cluster) (h : Only L s₀ s) : Only L s₀ (State.modCluster s c f) := by
  dsimp only [State.modCluster]
  repeat' first
    | with_reducible assumption
    | split
    | with_reducible apply only_set_clusters

theorem only_modQuarter (hL : Within [.quarters] L) {s : State} (q : Nat) (f : Quarter → Quarter) (h : Only L s₀ s) : Only L s₀ (State.modQuarter s q f) := by
  dsimp only [State.modQuarter]
  repeat' first
    | with_reducible assumption
    | split
    | with_reducible apply only_set_quarters

theorem only_modStack (hL : Within [.stackTab] L) {s : State} (k : Nat) (f : Stack → Stack) (h : Only L s₀ s) : Only L s₀ (State.modStack s k f) := by
  dsimp only [State.modStack]
  repeat' first
    | with_reducible assumption
    | split
    | with_reducible apply only_set_stackTab

theorem only_modEngine (hL : Within [.engines] L) {s : State} (e : Nat) (f : Engine → Engine) (h : Only L s₀ s) : Only L s₀ (State.modEngine s e f) := by
  dsimp only [State.modEngine]
  repeat' first
    | with_reducible assumption
    | split
    | with_reducible apply only_set_engines

theorem only_modPart (hL : Within [.parts] L) {s : State} (p : Nat) (f : Part → Part) (h : Only L s₀ s) : Only L s₀ (State.modPart s p f) := by
  dsimp only [State.modPart]
  repeat' first
    | with_reducible assumption
    | split
    | with_reducible apply only_set_parts

theorem only_modRound (hL : Within [.parts] L) {s : State} (p : Nat) (f : Round → Round) (h : Only L s₀ s) : Only L s₀ (State.modRound s p f) := by
  dsimp only [State.modRound]
  repeat' first
    | with_reducible assumption
    | with_reducible apply only_modPart

theorem only_modFn (hL : Within [.fns] L) {s : State} (n : Nat) (f : Fn → Fn) (h : Only L s₀ s) : Only L s₀ (State.modFn s n f) := by
  dsimp only [State.modFn]
  repeat' first
    | with_reducible assumption
    | split
    | with_reducible apply only_set_fns

theorem only_modRing (hL : Within [.fns] L) {s : State} (n r : Nat) (f : Ring → Ring) (h : Only L s₀ s) : Only L s₀ (State.modRing s n r f) := by
  dsimp only [State.modRing]
  repeat' first
    | with_reducible assumption
    | with_reducible apply only_modFn

theorem only_modRegion (hL : Within [.memory] L) {s : State} (n : Nat) (f : Region → Region) (h : Only L s₀ s) : Only L s₀ (State.modRegion s n f) := by
  dsimp only [State.modRegion]
  repeat' first
    | with_reducible assumption
    | split
    | with_reducible apply only_set_memory

theorem only_modPort (hL : Within [.links] L) {s : State} (n : Nat) (f : Port → Port) (h : Only L s₀ s) : Only L s₀ (State.modPort s n f) := by
  dsimp only [State.modPort]
  repeat' first
    | with_reducible assumption
    | split
    | with_reducible apply only_set_links

theorem only_modSession (hL : Within [.links] L) {s : State} (d : Nat) (f : Session → Session) (h : Only L s₀ s) : Only L s₀ (State.modSession s d f) := by
  dsimp only [State.modSession]
  repeat' first
    | with_reducible assumption
    | split
    | with_reducible apply only_set_links

theorem only_modCore (hL : Within [.intr] L) {s : State} (n : Nat) (f : Core → Core) (h : Only L s₀ s) : Only L s₀ (State.modCore s n f) := by
  dsimp only [State.modCore]
  repeat' first
    | with_reducible assumption
    | split
    | with_reducible apply only_set_intr

theorem only_modIcLine (hL : Within [.intr] L) {s : State} (n : Nat) (f : IcLine → IcLine) (h : Only L s₀ s) : Only L s₀ (State.modIcLine s n f) := by
  dsimp only [State.modIcLine]
  repeat' first
    | with_reducible assumption
    | split
    | with_reducible apply only_set_intr

theorem only_latch (hL : Within [.intr] L) {s : State} (n : Nat) (h : Only L s₀ s) : Only L s₀ (State.latch s n) := by
  dsimp only [State.latch]
  repeat' first
    | with_reducible assumption
    | with_reducible apply only_modIcLine

theorem only_modSite (hL : Within [.power] L) {s : State} (n : Nat) (f : SensorSite → SensorSite) (h : Only L s₀ s) : Only L s₀ (State.modSite s n f) := by
  dsimp only [State.modSite]
  repeat' first
    | with_reducible assumption
    | split
    | with_reducible apply only_set_power

theorem only_modRail (hL : Within [.power] L) {s : State} (n : Nat) (f : Rail → Rail) (h : Only L s₀ s) : Only L s₀ (State.modRail s n f) := by
  dsimp only [State.modRail]
  repeat' first
    | with_reducible assumption
    | split
    | with_reducible apply only_set_power

theorem only_modConsumer (hL : Within [.power] L) {s : State} (n : Nat) (f : Consumer → Consumer) (h : Only L s₀ s) : Only L s₀ (State.modConsumer s n f) := by
  dsimp only [State.modConsumer]
  repeat' first
    | with_reducible assumption
    | split
    | with_reducible apply only_set_power

theorem only_useFree (hL : Within [.free] L) {s : State} (h : Only L s₀ s) : Only L s₀ (State.useFree s) := by
  dsimp only [State.useFree]
  repeat' first
    | with_reducible assumption
    | split
    | with_reducible apply only_set_free

theorem only_emit (hL : Within [.out] L) {s : State} (o : Output) (h : Only L s₀ s) : Only L s₀ (State.emit s o) := by
  dsimp only [State.emit]
  repeat' first
    | with_reducible assumption
    | split
    | with_reducible apply only_set_out

theorem only_emitAll (hL : Within [.out] L) {s : State} (os : List Output) (h : Only L s₀ s) : Only L s₀ (State.emitAll s os) := by
  dsimp only [State.emitAll]
  repeat' first
    | with_reducible assumption
    | split
    | with_reducible apply only_set_out

theorem only_toHost (hL : Within [.out, .unsent] L) {s : State} (os : List Output) (h : Only L s₀ s) : Only L s₀ (State.toHost s os) := by
  dsimp only [State.toHost]
  repeat' first
    | with_reducible assumption
    | split
    | with_reducible apply only_set_out
    | with_reducible apply only_set_unsent
    | with_reducible refine only_mk ?_ (.inl rfl) (.inr (within_mem hL (by simp))) (.inr (within_mem hL (by simp))) (.inl rfl) (.inl rfl) (.inl rfl) (.inl rfl)
                            (.inl rfl) (.inl rfl) (.inl rfl) (.inl rfl) (.inl rfl) (.inl rfl) (.inl rfl) (.inl rfl) (.inl rfl) (.inl rfl) (.inl rfl) (.inl rfl)
                            (.inl rfl) (.inl rfl)
  all_goals exact within_sub (by decide) hL

theorem only_hostWrite (hL : Within [.out, .unsent] L) {s : State} (fn addr : Nat) (bs : List Byte) (h : Only L s₀ s) : Only L s₀ (State.hostWrite s fn addr bs) := by
  dsimp only [State.hostWrite]
  repeat' first
    | with_reducible assumption
    | with_reducible apply only_toHost

theorem only_hostRecord (hL : Within [.out, .unsent] L) {s : State} (fn addr : Nat) (bs : List Byte) (h : Only L s₀ s) : Only L s₀ (State.hostRecord s fn addr bs) := by
  dsimp only [State.hostRecord]
  repeat' first
    | with_reducible assumption
    | with_reducible apply only_toHost

theorem only_hostRead (hL : Within [.out, .unsent] L) {s : State} (fn addr len : Nat) (h : Only L s₀ s) : Only L s₀ (State.hostRead s fn addr len) := by
  dsimp only [State.hostRead]
  repeat' first
    | with_reducible assumption
    | with_reducible apply only_toHost

theorem only_writeHeads (hL : Within [.out, .unsent] L) {s : State} (fn : Nat) (h : Only L s₀ s) : Only L s₀ (State.writeHeads s fn) := by
  dsimp only [State.writeHeads]
  repeat' first
    | with_reducible assumption
    | with_reducible apply only_hostRecord

theorem only_putEntry (hL : Within [.out, .unsent, .fns] L) {s : State} (fn r size : Nat) (bs : List Byte) (h : Only L s₀ s) : Only L s₀ (State.putEntry s fn r size bs) := by
  dsimp only [State.putEntry]
  repeat' first
    | with_reducible assumption
    | with_reducible apply only_hostRecord
    | with_reducible apply only_modRing
    | split
  all_goals exact within_sub (by decide) hL

theorem only_sendMsix (hL : Within [.out, .unsent, .fns] L) {s : State} (fn : Nat) (h : Only L s₀ s) : Only L s₀ (State.sendMsix s fn) := by
  dsimp only [State.sendMsix]
  repeat' first
    | with_reducible assumption
    | with_reducible apply only_modFn
    | with_reducible apply only_toHost
    | split
  all_goals exact within_sub (by decide) hL

theorem only_announce (hL : Within [.out, .unsent, .fns] L) {s : State} (fn : Nat) (h : Only L s₀ s) : Only L s₀ (State.announce s fn) := by
  dsimp only [State.announce]
  repeat' first
    | with_reducible assumption
    | with_reducible apply only_writeHeads
    | with_reducible apply only_modFn
    | with_reducible apply only_sendMsix
    | split
  all_goals exact within_sub (by decide) hL

theorem only_putRecord (hL : Within [.out, .unsent, .fns] L) {s : State} (fn r : Nat) (kind code source flags count time arg : Nat) (h : Only L s₀ s) :
    Only L s₀ (State.putRecord s fn r kind code source flags count time arg) := by
  dsimp only [State.putRecord]
  repeat' first
    | with_reducible assumption
    | with_reducible apply only_putEntry
    | with_reducible apply only_modFn
    | with_reducible apply only_announce
    | split
  all_goals exact within_sub (by decide) hL

theorem only_takeToken (hL : Within [.buckets] L) {s : State} (source : Nat) (h : Only L s₀ s) : Only L s₀ (State.takeToken s source) := by
  dsimp only [State.takeToken]
  repeat' first
    | with_reducible assumption
    | split
    | with_reducible apply only_set_buckets

theorem only_hold (hL : Within [.fns] L) {s : State} (fn source code fatal : Nat) (rate full : Bool) (h : Only L s₀ s) :
    Only L s₀ (State.hold s fn source code fatal rate full) := by
  dsimp only [State.hold]
  repeat' first
    | with_reducible assumption
    | with_reducible apply only_modFn

theorem only_writeSummaries (hL : Within [.out, .unsent, .fns, .buckets] L) {s : State} (fn r : Nat) (l : List Held) (h : Only L s₀ s) :
    Only L s₀ ((State.writeSummaries s fn r) l) := by
  induction l generalizing s with
  | nil => exact h
  | cons a l ih =>
    dsimp only [State.writeSummaries]
    repeat' first
      | with_reducible assumption
      | with_reducible apply ih
      | with_reducible apply only_takeToken
      | with_reducible apply only_modFn
      | with_reducible apply only_putRecord
      | split
    all_goals exact within_sub (by decide) hL

theorem only_summaries (hL : Within [.out, .unsent, .fns, .buckets] L) {s : State} (fn r : Nat) (h : Only L s₀ s) : Only L s₀ (State.summaries s fn r) := by
  dsimp only [State.summaries]
  repeat' first
    | with_reducible assumption
    | with_reducible apply only_writeSummaries

theorem only_postFatal (hL : Within [.out, .unsent, .fns, .buckets] L) {s : State} (fn block code inst arg : Nat) (h : Only L s₀ s) :
    Only L s₀ (State.postFatal s fn block code inst arg) := by
  dsimp only [State.postFatal]
  repeat' first
    | with_reducible assumption
    | with_reducible apply only_modFn
    | with_reducible apply only_summaries
    | with_reducible apply only_hold
    | with_reducible apply only_putRecord
    | split
  all_goals exact within_sub (by decide) hL

theorem only_post (hL : Within [.out, .unsent, .fns, .buckets] L) {s : State} (fn block code inst arg : Nat) (h : Only L s₀ s) :
    Only L s₀ (State.post s fn block code inst arg) := by
  dsimp only [State.post]
  repeat' first
    | with_reducible assumption
    | with_reducible apply only_modFn
    | with_reducible apply only_summaries
    | with_reducible apply only_hold
    | with_reducible apply only_takeToken
    | with_reducible apply only_putRecord
    | split
  all_goals exact within_sub (by decide) hL

theorem only_postTo (hL : Within [.out, .unsent, .fns, .buckets] L) {s : State} (fns : List Nat) (block code inst arg : Nat) (h : Only L s₀ s) :
    Only L s₀ (State.postTo s fns block code inst arg) := by
  dsimp only [State.postTo]
  repeat' first
    | with_reducible assumption
    | with_reducible apply only_foldl
    | with_reducible apply only_foldl_fst
    | intro _ _ _
    | with_reducible apply only_post

theorem only_postAll (hL : Within [.out, .unsent, .fns, .buckets] L) {s : State} (block code inst arg : Nat) (h : Only L s₀ s) :
    Only L s₀ (State.postAll s block code inst arg) := by
  dsimp only [State.postAll]
  repeat' first
    | with_reducible assumption
    | with_reducible apply only_postTo

theorem only_postFatalAll (hL : Within [.out, .unsent, .fns, .buckets] L) {s : State} (block code inst arg : Nat) (h : Only L s₀ s) :
    Only L s₀ (State.postFatalAll s block code inst arg) := by
  dsimp only [State.postFatalAll]
  repeat' first
    | with_reducible assumption
    | with_reducible apply only_foldl
    | with_reducible apply only_foldl_fst
    | intro _ _ _
    | with_reducible apply only_postFatal

theorem only_notifyBatch (hL : Within [.out, .unsent, .fns, .buckets] L) {s : State} (fn r : Nat) (h : Only L s₀ s) : Only L s₀ (State.notifyBatch s fn r) := by
  dsimp only [State.notifyBatch]
  repeat' first
    | with_reducible assumption
    | with_reducible apply only_post
    | with_reducible apply only_modRing
    | split
  all_goals exact within_sub (by decide) hL

theorem only_putRing (hL : Within [.out, .unsent, .fns, .buckets] L) {s : State} (fn r : Nat) (bs : List Byte) (h : Only L s₀ s) : Only L s₀ (State.putRing s fn r bs) := by
  dsimp only [State.putRing]
  repeat' first
    | with_reducible assumption
    | with_reducible apply only_modRing
    | with_reducible apply only_putEntry
    | with_reducible apply only_writeHeads
    | with_reducible apply only_notifyBatch
    | split
  all_goals exact within_sub (by decide) hL

theorem only_flushRing (hL : Within [.out, .unsent, .fns, .buckets] L) {s : State} (fn r : Nat) (h : Only L s₀ s) : Only L s₀ (State.flushRing s fn r) := by
  dsimp only [State.flushRing]
  repeat' first
    | with_reducible assumption
    | with_reducible apply only_foldl
    | with_reducible apply only_foldl_fst
    | intro _ _ _
    | with_reducible apply only_modRing
    | with_reducible apply only_putEntry
    | with_reducible apply only_writeHeads
    | with_reducible apply only_notifyBatch
    | split
  all_goals exact within_sub (by decide) hL

theorem only_stopRing (hL : Within [.out, .unsent, .fns, .buckets] L) {s : State} (fn r code : Nat) (h : Only L s₀ s) : Only L s₀ (State.stopRing s fn r code) := by
  dsimp only [State.stopRing]
  repeat' first
    | with_reducible assumption
    | with_reducible apply only_modRing
    | with_reducible apply only_post
    | split
  all_goals exact within_sub (by decide) hL

theorem only_sendFrame (hL : Within [.out, .links] L) {s : State} (port d typ lc lines tag addr : Nat) (payload : List Line) (h : Only L s₀ s) :
    Only L s₀ (State.sendFrame s port d typ lc lines tag addr payload) := by
  dsimp only [State.sendFrame]
  repeat' first
    | with_reducible assumption
    | with_reducible apply only_modSession
    | with_reducible apply only_emit
    | split
  all_goals exact within_sub (by decide) hL

theorem only_sendPacket (hL : Within [.out, .links] L) {s : State} (p d typ lines addr : Nat) (payload : List Line) (copy repair : Option Nat)
    (h : Only L s₀ s) : Only L s₀ (State.sendPacket s p d typ lines addr payload copy repair) := by
  dsimp only [State.sendPacket]
  repeat' first
    | with_reducible assumption
    | with_reducible apply only_sendFrame
    | split
    | with_reducible apply only_set_links
  all_goals exact within_sub (by decide) hL

theorem only_sendColl (hL : Within [.out, .links] L) {s : State} (p d : Nat) (payload : Line) (copy : Nat) (h : Only L s₀ s) : Only L s₀ (State.sendColl s p d payload copy) := by
  dsimp only [State.sendColl]
  repeat' first
    | with_reducible assumption
    | with_reducible apply only_sendPacket
    | split
    | with_reducible apply only_set_links
  all_goals exact within_sub (by decide) hL

theorem only_flushWaiting (hL : Within [.out, .links] L) {s : State} (d : Nat) (h : Only L s₀ s) : Only L s₀ (State.flushWaiting s d) := by
  dsimp only [State.flushWaiting]
  repeat' first
    | with_reducible assumption
    | with_reducible apply only_foldl
    | with_reducible apply only_foldl_fst
    | intro _ _ _
    | with_reducible apply only_sendFrame
    | split
    | with_reducible apply only_set_links
  all_goals exact within_sub (by decide) hL

theorem only_endSession (hL : Within [.out, .links] L) {s : State} (d : Nat) (h : Only L s₀ s) : Only L s₀ (State.endSession s d) := by
  dsimp only [State.endSession]
  repeat' first
    | with_reducible assumption
    | with_reducible apply only_foldl
    | with_reducible apply only_foldl_fst
    | intro _ _ _
    | with_reducible apply only_sendFrame
    | with_reducible apply only_modSession
    | split
  all_goals exact within_sub (by decide) hL

theorem only_endSessions (hL : Within [.out, .links] L) {s : State} (h : Only L s₀ s) : Only L s₀ (State.endSessions s) := by
  dsimp only [State.endSessions]
  repeat' first
    | with_reducible assumption
    | with_reducible apply only_foldl
    | with_reducible apply only_foldl_fst
    | intro _ _ _
    | with_reducible apply only_endSession
    | split

theorem only_portDown (hL : Within [.out, .unsent, .fns, .buckets, .intr, .links] L) {s : State} (n reason : Nat) (h : Only L s₀ s) : Only L s₀ (State.portDown s n reason) := by
  dsimp only [State.portDown]
  repeat' first
    | with_reducible assumption
    | with_reducible apply only_modPort
    | with_reducible apply only_latch
    | with_reducible apply only_postTo
    | with_reducible apply only_modSession
    | split
  all_goals exact within_sub (by decide) hL

theorem only_modCe (hL : Within [.memory] L) {s : State} (c : Nat) (f : Ce → Ce) (h : Only L s₀ s) : Only L s₀ (State.modCe s c f) := by
  dsimp only [State.modCe]
  repeat' first
    | with_reducible assumption
    | split
    | with_reducible apply only_set_memory

theorem only_logWear (hL : Within [.sec] L) {s : State} (kind unit detail pln : Nat) (h : Only L s₀ s) : Only L s₀ (State.logWear s kind unit detail pln) := by
  dsimp only [State.logWear]
  repeat' first
    | with_reducible assumption
    | split
    | with_reducible apply only_set_sec

theorem only_mapChange (hL : Within [.spares] L) {s : State} (kind unit : Nat) (h : Only L s₀ s) : Only L s₀ (State.mapChange s kind unit) := by
  dsimp only [State.mapChange]
  repeat' first
    | with_reducible assumption
    | split
    | with_reducible apply only_set_spares

theorem only_noteRecent (hL : Within [.spares] L) {s : State} (key : Nat) (h : Only L s₀ s) : Only L s₀ (State.noteRecent s key) := by
  dsimp only [State.noteRecent]
  repeat' first
    | with_reducible assumption
    | split
    | with_reducible apply only_set_spares

theorem only_dieTrigger (hL : Within [.stackTab, .sec, .spares] L) {s : State} (k die : Nat) (h : Only L s₀ s) : Only L s₀ (State.dieTrigger s k die) := by
  dsimp only [State.dieTrigger]
  repeat' first
    | with_reducible assumption
    | with_reducible apply only_modStack
    | with_reducible apply only_mapChange
    | with_reducible apply only_logWear
    | split
  all_goals exact within_sub (by decide) hL

theorem only_corrected (hL : Within [.out, .unsent, .stackTab, .memory, .fns, .buckets, .sec, .spares] L) {s : State} (pln : Nat) (h : Only L s₀ s) :
    Only L s₀ (State.corrected s pln) := by
  dsimp only [State.corrected]
  repeat' first
    | with_reducible assumption
    | with_reducible apply only_noteRecent
    | with_reducible apply only_modCe
    | with_reducible apply only_post
    | with_reducible apply only_logWear
    | with_reducible apply only_dieTrigger
    | split
  all_goals exact within_sub (by decide) hL

theorem only_recordError (hL : Within [.memory] L) {s : State} (source severity code pln partition : Nat) (h : Only L s₀ s) :
    Only L s₀ (State.recordError s source severity code pln partition) := by
  dsimp only [State.recordError]
  repeat' first
    | with_reducible assumption
    | split
    | with_reducible apply only_set_memory

theorem only_repairHost (hL : Within [.out, .unsent, .memory] L) {s : State} (pln n : Nat) (c : W64) (h : Only L s₀ s) : Only L s₀ (State.repairHost s pln n c) := by
  dsimp only [State.repairHost]
  repeat' first
    | with_reducible assumption
    | with_reducible apply only_hostRead
    | split
    | with_reducible apply only_set_memory
  all_goals exact within_sub (by decide) hL

theorem only_queueRepair (hL : Within [.out, .unsent, .memory, .links] L) {s : State} (pln n p : Nat) (h : Only L s₀ s) : Only L s₀ (State.queueRepair s pln n p) := by
  dsimp only [State.queueRepair]
  repeat' first
    | with_reducible assumption
    | with_reducible apply only_sendPacket
    | with_reducible apply only_repairHost
    | split
    | with_reducible apply only_set_memory
  all_goals exact within_sub (by decide) hL

theorem only_badFirmwareLine (hL : Within [.free, .mem, .memory, .parts] L) {s : State} (r : Region) (pln : Nat) (h : Only L s₀ s) : Only L s₀ (State.badFirmwareLine s r pln) := by
  dsimp only [State.badFirmwareLine]
  repeat' first
    | with_reducible assumption
    | with_reducible apply only_modPart
    | with_reducible apply only_faultDue
    | with_reducible apply only_useFree
    | with_reducible apply only_setStored
    | split
    | with_reducible apply only_set_memory
  all_goals exact within_sub (by decide) hL

theorem only_badLine (hL : Within [.free, .out, .unsent, .mem, .memory, .parts, .fns, .buckets, .intr, .links] L) {s : State} (source pln partition : Nat)
    (sealBad merge : Bool) (h : Only L s₀ s) : Only L s₀ (State.badLine s source pln partition sealBad merge) := by
  dsimp only [State.badLine]
  repeat' first
    | with_reducible assumption
    | with_reducible apply only_modCe
    | with_reducible apply only_recordError
    | with_reducible apply only_latch
    | with_reducible apply only_setStored
    | with_reducible apply only_postTo
    | with_reducible apply only_badFirmwareLine
    | with_reducible apply only_queueRepair
    | split
  all_goals exact within_sub (by decide) hL

theorem only_readLineFor (hL : Within [.free, .out, .unsent, .stackTab, .mem, .memory, .parts, .fns, .buckets, .intr, .links, .sec, .spares] L) {s : State}
    (source pln partition : Nat) (merge : Bool) (h : Only L s₀ s) : Only L s₀ (State.readLineFor s source pln partition merge).1 := by
  dsimp only [State.readLineFor]
  repeat' first
    | with_reducible assumption
    | with_reducible apply only_badLine
    | with_reducible apply only_corrected
    | with_reducible apply only_setStored
    | split
  all_goals exact within_sub (by decide) hL

theorem only_readLine (hL : Within [.free, .out, .unsent, .stackTab, .mem, .memory, .parts, .fns, .buckets, .intr, .links, .sec, .spares] L) {s : State}
    (source pln partition : Nat) (h : Only L s₀ s) : Only L s₀ (State.readLine s source pln partition).1 := by
  dsimp only [State.readLine]
  repeat' first
    | with_reducible assumption
    | with_reducible apply only_readLineFor

theorem only_writeLine (hL : Within [.mem] L) {s : State} (pln : Nat) (l : Line) (h : Only L s₀ s) : Only L s₀ (State.writeLine s pln l) := by
  dsimp only [State.writeLine]
  repeat' first
    | with_reducible assumption
    | with_reducible apply only_setStored
    | split

theorem only_mergeLine (hL : Within [.free, .out, .unsent, .stackTab, .mem, .memory, .parts, .fns, .buckets, .intr, .links, .sec, .spares] L) {s : State}
    (source pln partition pos len v : Nat) (h : Only L s₀ s) : Only L s₀ (State.mergeLine s source pln partition pos len v).1 := by
  dsimp only [State.mergeLine]
  repeat' first
    | with_reducible assumption
    | with_reducible apply only_writeLine
    | with_reducible apply only_readLineFor
    | split
    | refine only_fst (by with_reducible assumption) ?_
  all_goals exact within_sub (by decide) hL

theorem only_blankOne (hL : Within [.mem] L) {s : State} (pln : Nat) (h : Only L s₀ s) : Only L s₀ (State.blankOne s pln) := by
  dsimp only [State.blankOne]
  repeat' first
    | with_reducible assumption
    | with_reducible apply only_setStored

theorem only_blankRegion (hL : Within [.mem] L) {s : State} (r : Region) (h : Only L s₀ s) : Only L s₀ (State.blankRegion s r) := by
  dsimp only [State.blankRegion]
  repeat' first
    | with_reducible assumption
    | with_reducible apply only_blankWhere

theorem only_clusterFault (hL : Within [.clusters, .intr] L) {s : State} (c code slot unit : Nat) (pln : Option Nat) (h : Only L s₀ s) :
    Only L s₀ (State.clusterFault s c code slot unit pln) := by
  dsimp only [State.clusterFault]
  repeat' first
    | with_reducible assumption
    | with_reducible apply only_modCluster
    | with_reducible apply only_latch
    | split
  all_goals exact within_sub (by decide) hL

theorem only_applySignal (hL : Within [.clusters, .intr] L) {s : State} (c : Nat) (sig : BitVec 16) (slot unit : Nat) (h : Only L s₀ s) :
    Only L s₀ (State.applySignal s c sig slot unit) := by
  dsimp only [State.applySignal]
  repeat' first
    | with_reducible assumption
    | with_reducible apply only_modCluster
    | with_reducible apply only_clusterFault
    | split
  all_goals exact within_sub (by decide) hL

theorem only_applySignals (hL : Within [.clusters, .intr] L) {s : State} (c : Nat) (l : List (BitVec 16 × Nat × Nat)) (h : Only L s₀ s) : Only L s₀ (State.applySignals s c l) := by
  dsimp only [State.applySignals]
  repeat' first
    | with_reducible assumption
    | with_reducible apply only_modCluster
    | with_reducible apply only_clusterFault
    | split
  all_goals exact within_sub (by decide) hL

theorem only_startOp (hL : Within [.clusters, .intr] L) {s : State} (c : Nat) (pipe : Pipe) (op : Nat) (f : State → QEntry → State × Begun)
    (hf : ∀ e, Only L s₀ (f s e).1) (h : Only L s₀ s) : Only L s₀ (State.startOp s c pipe op f) := by
  dsimp only [State.startOp]
  repeat' first
    | with_reducible assumption
    | with_reducible apply only_modCluster
    | with_reducible apply only_clusterFault
    | with_reducible apply only_applySignal
    | split
    | refine only_fst (by with_reducible assumption) (hf _)
  all_goals exact within_sub (by decide) hL

theorem only_completeCycle (hL : Within [.clusters, .intr] L) {s : State} (c : Nat) (sigs : List (BitVec 16 × Nat × Nat)) (h : Only L s₀ s) :
    Only L s₀ (State.completeCycle s c sigs) := by
  dsimp only [State.completeCycle]
  repeat' first
    | with_reducible assumption
    | with_reducible apply only_modCluster
    | with_reducible apply only_applySignals
    | split
  all_goals exact within_sub (by decide) hL

theorem only_applyWrite (hL : Within [.free, .out, .unsent, .clusters, .quarters, .stackTab, .mem, .memory, .parts, .fns, .buckets, .intr, .links, .sec,
    .spares] L) {s : State} (c : Nat) (w : Write) (h : Only L s₀ s) : Only L s₀ (State.applyWrite s c w).1 := by
  dsimp only [State.applyWrite]
  repeat' first
    | with_reducible assumption
    | with_reducible apply only_modCluster
    | with_reducible apply only_modQuarter
    | with_reducible apply only_mergeLine
    | split
    | refine only_fst (by with_reducible assumption) ?_
  all_goals exact within_sub (by decide) hL

theorem only_applyWrites (hL : Within [.free, .out, .unsent, .clusters, .quarters, .stackTab, .mem, .memory, .parts, .fns, .buckets, .intr, .links, .sec,
    .spares] L) {s : State} (c : Nat) (ws : List Write) (h : Only L s₀ s) : Only L s₀ (State.applyWrites s c ws).1 := by
  dsimp only [State.applyWrites]
  repeat' first
    | with_reducible assumption
    | with_reducible apply only_foldl
    | with_reducible apply only_foldl_fst
    | intro _ _ _
    | with_reducible apply only_applyWrite

theorem only_applySome (hL : Within [.free, .out, .unsent, .clusters, .quarters, .stackTab, .mem, .memory, .parts, .fns, .buckets, .intr, .links, .sec, .spares]
    L) {s : State} (c : Nat) (ws : List Write) (h : Only L s₀ s) : Only L s₀ (State.applySome s c ws) := by
  dsimp only [State.applySome]
  repeat' first
    | with_reducible assumption
    | with_reducible apply only_foldl
    | with_reducible apply only_foldl_fst
    | intro _ _ _
    | with_reducible apply only_useFree
    | with_reducible apply only_applyWrite
    | split
    | refine only_fst (by with_reducible assumption) ?_
  all_goals exact within_sub (by decide) hL

theorem only_completeOp (hL : Within [.free, .out, .unsent, .clusters, .quarters, .stackTab, .mem, .memory, .parts, .fns, .buckets, .intr, .links, .sec,
    .spares] L) {s : State} (c : Nat) (pipe : Pipe) (h : Only L s₀ s) : Only L s₀ (State.completeOp s c pipe) := by
  dsimp only [State.completeOp]
  repeat' first
    | with_reducible assumption
    | with_reducible apply only_modCluster
    | with_reducible apply only_applySome
    | with_reducible apply only_clusterFault
    | with_reducible apply only_completeCycle
    | with_reducible apply only_applyWrites
    | split
    | refine only_fst (by with_reducible assumption) ?_
  all_goals exact within_sub (by decide) hL

theorem only_startMarker (hL : Within [.clusters, .intr] L) {s : State} (c : Nat) (pipe : Pipe) (h : Only L s₀ s) : Only L s₀ (State.startMarker s c pipe) := by
  dsimp only [State.startMarker]
  repeat' first
    | with_reducible assumption
    | with_reducible apply only_modCluster
    | with_reducible apply only_completeCycle
    | split
  all_goals exact within_sub (by decide) hL

theorem only_setSeq (hL : Within [.parts] L) {s : State} (p i : Nat) (e : Option RoundEntry) (h : Only L s₀ s) : Only L s₀ (State.setSeq s p i e) := by
  dsimp only [State.setSeq]
  repeat' first
    | with_reducible assumption
    | with_reducible apply only_modRound

theorem only_modSeq (hL : Within [.parts] L) {s : State} (p i : Nat) (f : RoundEntry → RoundEntry) (h : Only L s₀ s) : Only L s₀ (State.modSeq s p i f) := by
  dsimp only [State.modSeq]
  repeat' first
    | with_reducible assumption
    | with_reducible apply only_setSeq
    | split

theorem only_modParcel (hL : Within [.parts] L) {s : State} (p i : Nat) (f : Parcel → Parcel) (h : Only L s₀ s) : Only L s₀ (State.modParcel s p i f) := by
  dsimp only [State.modParcel]
  repeat' first
    | with_reducible assumption
    | with_reducible apply only_modRound

theorem only_setPrefix (hL : Within [.parts] L) {s : State} (p i : Nat) (e : Option Prefix) (h : Only L s₀ s) : Only L s₀ (State.setPrefix s p i e) := by
  dsimp only [State.setPrefix]
  repeat' first
    | with_reducible assumption
    | with_reducible apply only_modRound

theorem only_modPrefix (hL : Within [.parts] L) {s : State} (p i : Nat) (f : Prefix → Prefix) (h : Only L s₀ s) : Only L s₀ (State.modPrefix s p i f) := by
  dsimp only [State.modPrefix]
  repeat' first
    | with_reducible assumption
    | with_reducible apply only_setPrefix
    | split

theorem only_allocFrom (hL : Within [.parts] L) {s : State} (p : Nat) (m : Model) (draft isPrefix : Bool) (holder j base : Nat) (l : Nat) (h : Only L s₀ s) :
    OnlyL L s₀ ((State.allocFrom s p m draft isPrefix holder j base) l) := by
  induction l generalizing s with
  | zero => exact onlyL_inl h
  | succ l ih =>
    dsimp only [State.allocFrom]
    repeat' first
      | with_reducible assumption
      | with_reducible apply ih
      | with_reducible apply onlyL_inl
      | exact onlyL_inr _
      | with_reducible apply only_modParcel
      | split

theorem only_allocSet (hL : Within [.parts] L) {s t : State} {p : Nat} {m : Model} {draft isPrefix : Bool} {holder j b : Nat}
    (hx : State.allocSet s p m draft isPrefix holder j = .inl (t, b)) (h : Only L s₀ s) : Only L s₀ t := by
  unfold State.allocSet at hx
  dsimp only at hx
  split at hx
  next u hu =>
    obtain ⟨rfl, -⟩ := Prod.mk.inj (Sum.inl.inj hx)
    exact only_inl hu (only_allocFrom hL p m draft isPrefix holder j _ _ h)
  next => exact nomatch hx

theorem only_realloc (hL : Within [.free, .out, .unsent, .parts, .fns, .buckets] L) {s : State} (p : Nat) (isPrefix : Bool) (holder j : Nat) (l : List Nat)
    (h : Only L s₀ s) : OnlyL L s₀ ((State.realloc s p isPrefix holder j) l) := by
  induction l generalizing s with
  | nil => exact onlyL_inl h
  | cons a l ih =>
    dsimp only [State.realloc]
    repeat' first
      | with_reducible assumption
      | with_reducible apply ih
      | with_reducible apply onlyL_inl
      | exact onlyL_inr _
      | with_reducible apply only_returned
      | with_reducible apply only_modParcel
      | split
    all_goals exact within_sub (by decide) hL

theorem only_freeParcels (hL : Within [.parts] L) {s : State} (p : Nat) (is : List Nat) (h : Only L s₀ s) : Only L s₀ (State.freeParcels s p is) := by
  dsimp only [State.freeParcels]
  repeat' first
    | with_reducible assumption
    | with_reducible apply only_foldl
    | with_reducible apply only_foldl_fst
    | intro _ _ _
    | with_reducible apply only_modRound
    | with_reducible apply only_modParcel

theorem only_returnParcel (hL : Within [.free, .out, .unsent, .parts, .fns, .buckets] L) {s : State} (p i : Nat) (h : Only L s₀ s) : Only L s₀ (State.returnParcel s p i) := by
  dsimp only [State.returnParcel]
  repeat' first
    | with_reducible assumption
    | with_reducible apply only_modRound
    | with_reducible apply only_modParcel
    | with_reducible apply only_returned
    | split
  all_goals exact within_sub (by decide) hL

theorem only_unshare (hL : Within [.parts] L) {s : State} (p : Nat) (is : List Nat) (h : Only L s₀ s) : Only L s₀ (State.unshare s p is) := by
  dsimp only [State.unshare]
  repeat' first
    | with_reducible assumption
    | with_reducible apply only_foldl
    | with_reducible apply only_foldl_fst
    | intro _ _ _
    | with_reducible apply only_freeParcels
    | with_reducible apply only_modParcel
    | split

theorem only_takeBudgets (hL : Within [.parts] L) {s : State} (p : Nat) (h : Only L s₀ s) : Only L s₀ (State.takeBudgets s p) := by
  dsimp only [State.takeBudgets]
  repeat' first
    | with_reducible assumption
    | with_reducible apply only_foldl
    | with_reducible apply only_foldl_fst
    | intro _ _ _
    | with_reducible apply only_modRound

theorem only_journal (hL : Within [.out, .unsent, .parts, .fns, .buckets] L) {s : State} (p typ : Nat) (body : List Byte) (h : Only L s₀ s) :
    Only L s₀ (State.journal s p typ body) := by
  dsimp only [State.journal]
  repeat' first
    | with_reducible assumption
    | with_reducible apply only_foldl
    | with_reducible apply only_foldl_fst
    | intro _ _ _
    | with_reducible apply only_modPart
    | with_reducible apply only_putRing
    | split
  all_goals exact within_sub (by decide) hL

theorem only_journalTime (hL : Within [.free, .out, .unsent, .parts, .fns, .buckets] L) {s : State} (p purpose : Nat) (h : Only L s₀ s) :
    Only L s₀ (State.journalTime s p purpose) := by
  dsimp only [State.journalTime]
  repeat' first
    | with_reducible assumption
    | with_reducible apply only_journal
    | with_reducible apply only_useFree
    | split
  all_goals exact within_sub (by decide) hL

theorem only_setMark (hL : Within [.time] L) {s : State} (k n : Nat) (h : Only L s₀ s) : Only L s₀ (State.setMark s k n) := by
  dsimp only [State.setMark]
  repeat' first
    | with_reducible assumption
    | split
    | with_reducible apply only_set_time

theorem only_refillBudgets (hL : Within [.parts, .buckets, .time] L) {s : State} (p : Nat) (h : Only L s₀ s) : Only L s₀ (State.refillBudgets s p) := by
  dsimp only [State.refillBudgets]
  repeat' first
    | with_reducible assumption
    | with_reducible apply only_foldl
    | with_reducible apply only_foldl_fst
    | intro _ _ _
    | with_reducible apply only_modRound
    | with_reducible apply only_setMark
    | split
    | with_reducible apply only_set_buckets
  all_goals exact within_sub (by decide) hL

theorem only_failReplay (hL : Within [.out, .unsent, .parts, .fns, .buckets] L) {s : State} (p reason : Nat) (h : Only L s₀ s) : Only L s₀ (State.failReplay s p reason) := by
  dsimp only [State.failReplay]
  repeat' first
    | with_reducible assumption
    | with_reducible apply only_modPart
    | with_reducible apply only_journal
    | split
  all_goals exact within_sub (by decide) hL

theorem only_journalHappening (hL : Within [.free, .out, .unsent, .parts, .fns, .buckets] L) {s : State} (p what cause : Nat) (h : Only L s₀ s) :
    Only L s₀ (State.journalHappening s p what cause) := by
  dsimp only [State.journalHappening]
  repeat' first
    | with_reducible assumption
    | with_reducible apply only_journal
    | with_reducible apply only_useFree
    | with_reducible apply only_failReplay
    | split
  all_goals exact within_sub (by decide) hL

theorem only_answer (hL : Within [.free, .out, .unsent, .parts, .fns, .buckets] L) {s : State} (p fn ring typ status tenant req : Nat) (admitted : Nat)
    (h : Only L s₀ s) : Only L s₀ (State.answer s p fn ring typ status tenant req admitted) := by
  dsimp only [State.answer]
  repeat' first
    | with_reducible assumption
    | with_reducible apply only_journalTime
    | with_reducible apply only_putRing
    | split
  all_goals exact within_sub (by decide) hL

theorem only_returnToken (hL : Within [.fns] L) {s : State} (p : Nat) (it : Item) (h : Only L s₀ s) : Only L s₀ (State.returnToken s p it) := by
  dsimp only [State.returnToken]
  repeat' first
    | with_reducible assumption
    | with_reducible apply only_modRing
    | split

theorem only_dropSeq (hL : Within [.parts] L) {s : State} (p i : Nat) (h : Only L s₀ s) : Only L s₀ (State.dropSeq s p i) := by
  dsimp only [State.dropSeq]
  repeat' first
    | with_reducible assumption
    | with_reducible apply only_freeParcels
    | with_reducible apply only_modPrefix
    | with_reducible apply only_modRound
    | with_reducible apply only_setSeq
    | split

theorem only_endSeq (hL : Within [.free, .out, .unsent, .parts, .fns, .buckets] L) {s : State} (p i status : Nat) (h : Only L s₀ s) : Only L s₀ (State.endSeq s p i status) := by
  dsimp only [State.endSeq]
  repeat' first
    | with_reducible assumption
    | with_reducible apply only_journalTime
    | with_reducible apply only_putRing
    | with_reducible apply only_dropSeq
    | split
  all_goals exact within_sub (by decide) hL

theorem only_endRequests (hL : Within [.free, .out, .unsent, .parts, .fns, .buckets] L) {s : State} (p status : Nat) (h : Only L s₀ s) :
    Only L s₀ (State.endRequests s p status) := by
  dsimp only [State.endRequests]
  repeat' first
    | with_reducible assumption
    | with_reducible apply only_foldl
    | with_reducible apply only_foldl_fst
    | intro _ _ _
    | with_reducible apply only_endSeq
    | with_reducible apply only_answer
    | with_reducible apply only_modRound
    | split
  all_goals exact within_sub (by decide) hL

theorem only_emptyRound (hL : Within [.parts] L) {s : State} (p : Nat) (h : Only L s₀ s) : Only L s₀ (State.emptyRound s p) := by
  dsimp only [State.emptyRound]
  repeat' first
    | with_reducible assumption
    | with_reducible apply only_modRound

theorem only_addCause (hL : Within [.parts] L) {s : State} (p : Nat) (c : AbandonCause) (h : Only L s₀ s) : Only L s₀ (State.addCause s p c) := by
  dsimp only [State.addCause]
  repeat' first
    | with_reducible assumption
    | with_reducible apply only_modRound

theorem only_answerPacket (hL : Within [.out, .intr] L) {s : State} (st : Nat) (src : PacketSource) (tag code : Nat) (words : List W64) (h : Only L s₀ s) :
    Only L s₀ (State.answerPacket s st src tag code words) := by
  dsimp only [State.answerPacket]
  repeat' first
    | with_reducible assumption
    | with_reducible apply only_emit
    | with_reducible apply only_latch
    | split
  all_goals exact within_sub (by decide) hL

theorem only_setStartQ (hL : Within [.stackTab] L) {s : State} (st k : Nat) (q : List Nat) (h : Only L s₀ s) : Only L s₀ (State.setStartQ s st k q) := by
  dsimp only [State.setStartQ]
  repeat' first
    | with_reducible assumption
    | with_reducible apply only_modStack

theorem only_enqueueStart (hL : Within [.stackTab] L) {s : State} (e : Nat) (head : Bool) (h : Only L s₀ s) : Only L s₀ (State.enqueueStart s e head) := by
  dsimp only [State.enqueueStart]
  repeat' first
    | with_reducible assumption
    | with_reducible apply only_setStartQ

theorem only_unqueue (hL : Within [.stackTab] L) {s : State} (e : Nat) (h : Only L s₀ s) : Only L s₀ (State.unqueue s e) := by
  dsimp only [State.unqueue]
  repeat' first
    | with_reducible assumption
    | with_reducible apply only_setStartQ

theorem only_setDebt (hL : Within [.stackTab] L) {s : State} (b n : Nat) (h : Only L s₀ s) : Only L s₀ (State.setDebt s b n) := by
  dsimp only [State.setDebt]
  repeat' first
    | with_reducible assumption
    | with_reducible apply only_modStack

theorem only_payDebt (hL : Within [.stackTab] L) {s : State} (e : Nat) (h : Only L s₀ s) : Only L s₀ (State.payDebt s e) := by
  dsimp only [State.payDebt]
  repeat' first
    | with_reducible assumption
    | with_reducible apply only_foldl
    | with_reducible apply only_foldl_fst
    | intro _ _ _
    | with_reducible apply only_setDebt

theorem only_engineFail (hL : Within [.engines] L) {s : State} (e code : Nat) (line : Option Nat) (h : Only L s₀ s) : Only L s₀ (State.engineFail s e code line) := by
  dsimp only [State.engineFail]
  repeat' first
    | with_reducible assumption
    | with_reducible apply only_modEngine

theorem only_withdraw (hL : Within [.stackTab, .engines] L) {s : State} (e : Nat) (h : Only L s₀ s) : Only L s₀ (State.withdraw s e) := by
  dsimp only [State.withdraw]
  repeat' first
    | with_reducible assumption
    | with_reducible apply only_modEngine
    | with_reducible apply only_enqueueStart
    | split
  all_goals exact within_sub (by decide) hL

theorem only_doWriteCr (hL : Within [.out, .engines, .intr] L) {s : State} (st : Nat) (src : PacketSource) (pk : Packet) (h : Only L s₀ s) :
    Only L s₀ (State.doWriteCr s st src pk) := by
  dsimp only [State.doWriteCr]
  repeat' first
    | with_reducible assumption
    | with_reducible apply only_foldl
    | with_reducible apply only_foldl_fst
    | intro _ _ _
    | with_reducible apply only_answerPacket
    | with_reducible apply only_modEngine
    | split
  all_goals exact within_sub (by decide) hL

theorem only_received (hL : Within [.parts] L) {s : State} (st : Nat) (src : PacketSource) (h : Only L s₀ s) : Only L s₀ (State.received s st src) := by
  dsimp only [State.received]
  repeat' first
    | with_reducible assumption
    | with_reducible apply only_modRound
    | split

theorem only_doStart (hL : Within [.out, .stackTab, .engines, .parts, .intr] L) {s : State} (st : Nat) (src : PacketSource) (pk : Packet) (h : Only L s₀ s) :
    Only L s₀ (State.doStart s st src pk) := by
  dsimp only [State.doStart]
  repeat' first
    | with_reducible assumption
    | with_reducible apply only_foldl
    | with_reducible apply only_foldl_fst
    | intro _ _ _
    | with_reducible apply only_received
    | with_reducible apply only_answerPacket
    | with_reducible apply only_modEngine
    | with_reducible apply only_enqueueStart
    | split
  all_goals exact within_sub (by decide) hL

theorem only_packet (hL : Within [.out, .stackTab, .fns, .intr] L) {s : State} (st : Nat) (src : PacketSource) (pk : Packet) (typ : Nat) (hold : Bool)
    (f : State → State) (hf : Only L s₀ (f s)) (h : Only L s₀ s) : Only L s₀ (State.packet s st src pk typ hold f) := by
  dsimp only [State.packet]
  repeat' first
    | with_reducible assumption
    | with_reducible apply only_answerPacket
    | with_reducible apply only_modStack
    | split
  all_goals exact within_sub (by decide) hL

theorem ends_execWriteCr (hL : Within [.out, .stackTab, .engines, .fns, .intr] L) (st : StackId) (src : PacketSource) (pk : Packet) {s : State} :
    Ends L s (execWriteCr st src pk s) := by
  dsimp only [execWriteCr]
  have h := only_refl L s
  repeat' first
    | with_reducible assumption
    | intro _ _ _
    | intro _ _
    | with_reducible apply only_packet
    | with_reducible apply only_doWriteCr
    | with_reducible apply ends_next
    | split
  all_goals exact within_sub (by decide) hL

theorem ends_execStart (hL : Within [.out, .stackTab, .engines, .parts, .fns, .intr] L) (st : StackId) (src : PacketSource) (pk : Packet) {s : State} :
    Ends L s (execStart st src pk s) := by
  dsimp only [execStart]
  have h := only_refl L s
  repeat' first
    | with_reducible assumption
    | intro _ _ _
    | intro _ _
    | with_reducible apply only_packet
    | with_reducible apply only_doStart
    | with_reducible apply ends_next
    | split
  all_goals exact within_sub (by decide) hL

theorem only_releaseHeld (hL : Within [.out, .stackTab, .engines, .parts, .intr] L) {s : State} (st : Nat) (h : Only L s₀ s) : Only L s₀ (State.releaseHeld s st) := by
  dsimp only [State.releaseHeld]
  repeat' first
    | with_reducible assumption
    | with_reducible apply only_foldl
    | with_reducible apply only_foldl_fst
    | intro _ _ _
    | with_reducible apply only_modStack
    | with_reducible apply only_doStart
    | with_reducible apply only_doWriteCr
    | split
  all_goals exact within_sub (by decide) hL

theorem only_plainPacket (hL : Within [.out, .intr] L) {s : State} (st : Nat) (src : PacketSource) (pk : Packet) (more : Option Nat)
    (f : State → Nat → State) (words : State → List W64) (hf : ∀ t e, Only L s₀ t → Only L s₀ (f t e)) (h : Only L s₀ s) :
    Only L s₀ (State.plainPacket s st src pk more f words) := by
  dsimp only [State.plainPacket]
  repeat' first
    | with_reducible assumption
    | with_reducible apply only_answerPacket
    | with_reducible apply only_foldl
    | split

theorem only_suspendOne (hL : Within [.engines] L) {s : State} (e : Nat) (h : Only L s₀ s) : Only L s₀ (State.suspendOne s e) := by
  dsimp only [State.suspendOne]
  repeat' first
    | with_reducible assumption
    | with_reducible apply only_modEngine

theorem ends_execSuspend (hL : Within [.out, .stackTab, .engines, .fns, .intr] L) (st : StackId) (src : PacketSource) (pk : Packet) {s : State} :
    Ends L s (execSuspend st src pk s) := by
  dsimp only [execSuspend]
  have h := only_refl L s
  repeat' first
    | with_reducible assumption
    | intro _ _ _
    | intro _ _
    | with_reducible apply only_packet
    | with_reducible apply only_plainPacket
    | with_reducible apply only_suspendOne
    | with_reducible apply ends_next
    | split
  all_goals exact within_sub (by decide) hL

theorem only_resumeOne (hL : Within [.stackTab, .engines] L) (src : PacketSource) {s : State} (e : Nat) (h : Only L s₀ s) : Only L s₀ (State.resumeOne src s e) := by
  dsimp only [State.resumeOne]
  repeat' first
    | with_reducible assumption
    | with_reducible apply only_engineFail
    | with_reducible apply only_modEngine
    | with_reducible apply only_enqueueStart
    | split
  all_goals exact within_sub (by decide) hL

theorem only_suspendNow (hL : Within [.stackTab, .engines] L) {s : State} (e : Nat) (h : Only L s₀ s) : Only L s₀ (State.suspendNow s e) := by
  dsimp only [State.suspendNow]
  repeat' first
    | with_reducible assumption
    | with_reducible apply only_modEngine
    | with_reducible apply only_resumeOne
    | split
  all_goals exact within_sub (by decide) hL

theorem ends_execResume (hL : Within [.out, .stackTab, .engines, .fns, .intr] L) (st : StackId) (src : PacketSource) (pk : Packet) {s : State} :
    Ends L s (execResume st src pk s) := by
  dsimp only [execResume]
  have h := only_refl L s
  repeat' first
    | with_reducible assumption
    | intro _ _ _
    | intro _ _
    | with_reducible apply only_packet
    | with_reducible apply only_plainPacket
    | with_reducible apply only_resumeOne
    | with_reducible apply ends_next
    | split
  all_goals exact within_sub (by decide) hL

theorem only_abortOne (hL : Within [.stackTab, .engines] L) {s : State} (e : Nat) (h : Only L s₀ s) : Only L s₀ (State.abortOne s e) := by
  dsimp only [State.abortOne]
  repeat' first
    | with_reducible assumption
    | with_reducible apply only_unqueue
    | with_reducible apply only_modEngine
    | with_reducible apply only_payDebt
    | split
  all_goals exact within_sub (by decide) hL

theorem ends_execAbort (hL : Within [.out, .stackTab, .engines, .fns, .intr] L) (st : StackId) (src : PacketSource) (pk : Packet) {s : State} :
    Ends L s (execAbort st src pk s) := by
  dsimp only [execAbort]
  have h := only_refl L s
  repeat' first
    | with_reducible assumption
    | intro _ _ _
    | intro _ _
    | with_reducible apply only_packet
    | with_reducible apply only_plainPacket
    | with_reducible apply only_abortOne
    | with_reducible apply ends_next
    | split
  all_goals exact within_sub (by decide) hL

theorem ends_execStatus (hL : Within [.out, .stackTab, .fns, .intr] L) (st : StackId) (src : PacketSource) (pk : Packet) {s : State} : Ends L s (execStatus st src pk s) := by
  dsimp only [execStatus]
  have h := only_refl L s
  repeat' first
    | with_reducible assumption
    | intro _ _ _
    | intro _ _
    | with_reducible apply only_packet
    | with_reducible apply only_plainPacket
    | with_reducible apply ends_next
    | split
  all_goals exact within_sub (by decide) hL

theorem only_setSlot (hL : Within [.stackTab] L) {s : State} (st n : Nat) (x : Option Slot) (h : Only L s₀ s) : Only L s₀ (State.setSlot s st n x) := by
  dsimp only [State.setSlot]
  repeat' first
    | with_reducible assumption
    | with_reducible apply only_modStack

theorem only_doMergeOpen (hL : Within [.out, .stackTab, .parts, .intr] L) {s : State} (st : Nat) (src : PacketSource) (pk : Packet) (h : Only L s₀ s) :
    Only L s₀ (State.doMergeOpen s st src pk) := by
  dsimp only [State.doMergeOpen]
  repeat' first
    | with_reducible assumption
    | with_reducible apply only_received
    | with_reducible apply only_answerPacket
    | with_reducible apply only_setSlot
    | split
  all_goals exact within_sub (by decide) hL

theorem ends_execMergeOpen (hL : Within [.out, .stackTab, .parts, .fns, .intr] L) (st : StackId) (src : PacketSource) (pk : Packet) {s : State} :
    Ends L s (execMergeOpen st src pk s) := by
  dsimp only [execMergeOpen]
  have h := only_refl L s
  repeat' first
    | with_reducible assumption
    | intro _ _ _
    | intro _ _
    | with_reducible apply only_packet
    | with_reducible apply only_doMergeOpen
    | with_reducible apply ends_next
    | split
  all_goals exact within_sub (by decide) hL

theorem only_windowPut (hL : Within [.quarters] L) {s : State} (p q off : Nat) (bs : List Byte) (h : Only L s₀ s) : Only L s₀ (State.windowPut s p q off bs) := by
  dsimp only [State.windowPut]
  repeat' first
    | with_reducible assumption
    | with_reducible apply only_foldl
    | with_reducible apply only_foldl_fst
    | intro _ _ _
    | with_reducible apply only_modQuarter

theorem only_deliver (hL : Within [.quarters, .stackTab] L) {s : State} (st n : Nat) (x : Slot) (h : Only L s₀ s) : Only L s₀ (State.deliver s st n x) := by
  dsimp only [State.deliver]
  repeat' first
    | with_reducible assumption
    | with_reducible apply only_windowPut
    | with_reducible apply only_modQuarter
    | with_reducible apply only_setSlot
    | split
  all_goals exact within_sub (by decide) hL

theorem ends_execMergeFold (hL : Within [.quarters, .stackTab] L) (st : StackId) (slot : Fin 512) {s : State} : Ends L s (execMergeFold st slot s) := by
  dsimp only [execMergeFold]
  have h := only_refl L s
  repeat' first
    | with_reducible assumption
    | with_reducible apply only_setSlot
    | with_reducible apply only_deliver
    | with_reducible apply ends_next
    | split
  all_goals exact within_sub (by decide) hL

theorem only_firmwarePacket (hL : Within [.out, .intr] L) {s : State} (st : Nat) (src : PacketSource) (pk : Packet) (ok : Bool)
    (f : State → State) (hf : Only L s₀ (f s)) (h : Only L s₀ s) : Only L s₀ (State.firmwarePacket s st src pk ok f) := by
  dsimp only [State.firmwarePacket]
  repeat' first
    | with_reducible assumption
    | with_reducible apply only_answerPacket
    | split

theorem ends_execBlank (hL : Within [.out, .stackTab, .mem, .fns, .intr] L) (st : StackId) (src : PacketSource) (pk : Packet) (first : BitVec 30)
    (lines : BitVec 31) {s : State} : Ends L s (execBlank st src pk first lines s) := by
  dsimp only [execBlank]
  have h := only_refl L s
  repeat' first
    | with_reducible assumption
    | intro _ _ _
    | intro _ _
    | with_reducible apply only_packet
    | with_reducible apply only_firmwarePacket
    | with_reducible apply only_blankWhere
    | with_reducible apply ends_next
    | split
  all_goals exact within_sub (by decide) hL

theorem ends_execLevel (hL : Within [.out, .stackTab, .fns, .intr] L) (st : StackId) (src : PacketSource) (pk : Packet) {s : State} : Ends L s (execLevel st src pk s) := by
  dsimp only [execLevel]
  have h := only_refl L s
  repeat' first
    | with_reducible assumption
    | intro _ _ _
    | intro _ _
    | with_reducible apply only_packet
    | with_reducible apply only_firmwarePacket
    | with_reducible apply only_modStack
    | with_reducible apply ends_next
    | split
  all_goals exact within_sub (by decide) hL

theorem only_readLines (hL : Within [.free, .out, .unsent, .stackTab, .mem, .memory, .parts, .fns, .buckets, .intr, .links, .sec, .spares] L) {s : State}
    (e : Nat) (l : List Nat) (h : Only L s₀ s) : Only L s₀ ((State.readLines s e) l).1 := by
  induction l generalizing s with
  | nil => exact h
  | cons a l ih =>
    dsimp only [State.readLines]
    repeat' first
      | with_reducible assumption
      | with_reducible apply ih
      | with_reducible apply only_readLine
      | split
      | refine only_fst (by with_reducible assumption) ?_

theorem ends_execPreloadComplete (hL : Within [.free, .out, .unsent, .stackTab, .engines, .mem, .memory, .parts, .fns, .buckets, .intr, .links, .sec, .spares]
    L) (e : EngineId) {s : State} : Ends L s (execPreloadComplete e s) := by
  dsimp only [execPreloadComplete]
  have h := only_refl L s
  repeat' first
    | with_reducible assumption
    | with_reducible apply only_readLines
    | with_reducible apply only_modEngine
    | with_reducible apply only_engineFail
    | with_reducible apply ends_next
    | split
    | refine only_fst (by with_reducible assumption) ?_
  all_goals exact within_sub (by decide) hL

theorem ends_execPermitGrant (hL : Within [.stackTab, .engines] L) (pc : PcId) {s : State} : Ends L s (execPermitGrant pc s) := by
  dsimp only [execPermitGrant]
  have h := only_refl L s
  repeat' first
    | with_reducible assumption
    | with_reducible apply only_setStartQ
    | with_reducible apply only_modEngine
    | with_reducible apply ends_next
    | split
  all_goals exact within_sub (by decide) hL

theorem ends_execRefreshDue (hL : Within [.stackTab] L) (b : BankId) {s : State} : Ends L s (execRefreshDue b s) := by
  dsimp only [execRefreshDue]
  have h := only_refl L s
  repeat' first
    | with_reducible assumption
    | with_reducible apply only_setDebt
    | with_reducible apply ends_next

theorem ends_execRefresh (hL : Within [.stackTab] L) (b : BankId) {s : State} : Ends L s (execRefresh b s) := by
  dsimp only [execRefresh]
  have h := only_refl L s
  repeat' first
    | with_reducible assumption
    | with_reducible apply only_setDebt
    | with_reducible apply ends_next
    | split

theorem ends_execForcedSuspension (hL : Within [.stackTab, .engines] L) (e : EngineId) {s : State} : Ends L s (execForcedSuspension e s) := by
  dsimp only [execForcedSuspension]
  have h := only_refl L s
  repeat' first
    | with_reducible assumption
    | with_reducible apply only_payDebt
    | with_reducible apply only_modEngine
    | with_reducible apply only_suspendNow
    | with_reducible apply only_withdraw
    | with_reducible apply ends_next
    | split
  all_goals exact within_sub (by decide) hL

theorem only_levelTo (hL : Within [.stackTab, .intr] L) {s : State} (k l : Nat) (h : Only L s₀ s) : Only L s₀ (State.levelTo s k l) := by
  dsimp only [State.levelTo]
  repeat' first
    | with_reducible assumption
    | with_reducible apply only_modStack
    | with_reducible apply only_latch
    | split
  all_goals exact within_sub (by decide) hL

theorem only_levelOff (hL : Within [.stackTab, .intr] L) {s : State} (k : Nat) (h : Only L s₀ s) : Only L s₀ (State.levelOff s k) := by
  dsimp only [State.levelOff]
  repeat' first
    | with_reducible assumption
    | with_reducible apply only_modStack
    | with_reducible apply only_levelTo
    | split
  all_goals exact within_sub (by decide) hL

theorem only_settleLevels (hL : Within [.stackTab, .intr] L) {s : State} (h : Only L s₀ s) : Only L s₀ (State.settleLevels s) := by
  dsimp only [State.settleLevels]
  repeat' first
    | with_reducible assumption
    | with_reducible apply only_foldl
    | with_reducible apply only_foldl_fst
    | intro _ _ _
    | with_reducible apply only_levelOff

theorem only_modTensor (hL : Within [.parts] L) {s : State} (p i : Nat) (f : TensorEntry → TensorEntry) (h : Only L s₀ s) : Only L s₀ (State.modTensor s p i f) := by
  dsimp only [State.modTensor]
  repeat' first
    | with_reducible assumption
    | with_reducible apply only_modPart

theorem only_invalidate (hL : Within [.out, .unsent, .parts, .fns, .buckets] L) {s : State} (rg : Region) (p : Nat) (h : Only L s₀ s) : Only L s₀ (State.invalidate s rg p) := by
  dsimp only [State.invalidate]
  repeat' first
    | with_reducible assumption
    | with_reducible apply only_foldl
    | with_reducible apply only_foldl_fst
    | intro _ _ _
    | with_reducible apply only_modTensor
    | with_reducible apply only_post
    | split
  all_goals exact within_sub (by decide) hL

theorem only_readAddrs (hL : Within [.free, .out, .unsent, .stackTab, .mem, .memory, .parts, .fns, .buckets, .intr, .links, .sec, .spares] L) {s : State}
    (p : Nat) (l : List Nat) (h : Only L s₀ s) : Only L s₀ ((State.readAddrs s p) l).1 := by
  induction l generalizing s with
  | nil => exact h
  | cons a l ih =>
    dsimp only [State.readAddrs]
    repeat' first
      | with_reducible assumption
      | with_reducible apply ih
      | with_reducible apply only_readLine
      | split
      | refine only_fst (by with_reducible assumption) ?_

theorem only_jobAnswer (hL : Within [.out, .unsent, .fns, .buckets] L) {s : State} (fn r : Nat) (d : Line) (status fault detail detail2 : Nat) (started : Nat)
    (h : Only L s₀ s) : Only L s₀ (State.jobAnswer s fn r d status fault detail detail2 started) := by
  dsimp only [State.jobAnswer]
  repeat' first
    | with_reducible assumption
    | with_reducible apply only_putRing

theorem only_popFetched (hL : Within [.fns] L) {s : State} (fn r : Nat) (h : Only L s₀ s) : Only L s₀ (State.popFetched s fn r) := by
  dsimp only [State.popFetched]
  repeat' first
    | with_reducible assumption
    | with_reducible apply only_modRing

theorem only_modJob (hL : Within [.parts] L) {s : State} (p n : Nat) (f : Job → Job) (h : Only L s₀ s) : Only L s₀ (State.modJob s p n f) := by
  dsimp only [State.modJob]
  repeat' first
    | with_reducible assumption
    | with_reducible apply only_modPart

theorem only_modClusters (hL : Within [.clusters] L) {s : State} (cs : List Nat) (f : Cluster → Cluster) (h : Only L s₀ s) : Only L s₀ (State.modClusters s cs f) := by
  dsimp only [State.modClusters]
  repeat' first
    | with_reducible assumption
    | with_reducible apply only_foldl
    | with_reducible apply only_foldl_fst
    | intro _ _ _
    | with_reducible apply only_modCluster

theorem only_endJob (hL : Within [.out, .unsent, .clusters, .parts, .fns, .buckets] L) {s : State} (p n status fault detail detail2 : Nat) (h : Only L s₀ s) :
    Only L s₀ (State.endJob s p n status fault detail detail2) := by
  dsimp only [State.endJob]
  repeat' first
    | with_reducible assumption
    | with_reducible apply only_modClusters
    | with_reducible apply only_modPart
    | with_reducible apply only_jobAnswer
    | split
  all_goals exact within_sub (by decide) hL

theorem only_regionWord (hL : Within [.free, .out, .unsent, .stackTab, .mem, .memory, .parts, .fns, .buckets, .intr, .links, .sec, .spares] L) {s : State}
    (n o p : Nat) (h : Only L s₀ s) : Only L s₀ (State.regionWord s n o p).1 := by
  dsimp only [State.regionWord]
  repeat' first
    | with_reducible assumption
    | with_reducible apply only_readLine
    | split
    | refine only_fst (by with_reducible assumption) ?_

theorem only_firmwareError (hL : Within [.parts] L) {s : State} (p : Nat) (h : Only L s₀ s) : Only L s₀ (State.firmwareError s p) := by
  dsimp only [State.firmwareError]
  repeat' first
    | with_reducible assumption
    | with_reducible apply only_modPart

theorem only_regionPut (hL : Within [.free, .out, .unsent, .stackTab, .mem, .memory, .parts, .fns, .buckets, .intr, .links, .sec, .spares] L) {s : State}
    (n o p len v : Nat) (h : Only L s₀ s) : Only L s₀ (State.regionPut s n o p len v) := by
  dsimp only [State.regionPut]
  repeat' first
    | with_reducible assumption
    | with_reducible apply only_mergeLine
    | with_reducible apply only_firmwareError
    | split
    | refine only_fst (by with_reducible assumption) ?_
  all_goals exact within_sub (by decide) hL

theorem only_discardCopies (hL : Within [.free, .out, .unsent, .stackTab, .mem, .memory, .parts, .fns, .buckets, .intr, .links, .sec, .spares] L) {s : State}
    (p : Nat) (h : Only L s₀ s) : Only L s₀ (State.discardCopies s p) := by
  dsimp only [State.discardCopies]
  repeat' first
    | with_reducible assumption
    | with_reducible apply only_foldl
    | with_reducible apply only_foldl_fst
    | intro _ _ _
    | with_reducible apply only_regionWord
    | with_reducible apply only_firmwareError
    | with_reducible apply only_regionPut
    | split
    | refine only_fst (by with_reducible assumption) ?_
  all_goals exact within_sub (by decide) hL

theorem only_abortRuns (hL : Within [.stackTab, .engines] L) {s : State} (p : Nat) (h : Only L s₀ s) : Only L s₀ (State.abortRuns s p) := by
  dsimp only [State.abortRuns]
  repeat' first
    | with_reducible assumption
    | with_reducible apply only_foldl
    | with_reducible apply only_foldl_fst
    | intro _ _ _
    | with_reducible apply only_abortOne

theorem only_takeTurn (hL : Within [.parts] L) {s : State} (p : Nat) (q : CopyQueue) (d : Line) (h : Only L s₀ s) : Only L s₀ (State.takeTurn s p q d) := by
  dsimp only [State.takeTurn]
  repeat' first
    | with_reducible assumption
    | with_reducible apply only_modPart

theorem only_stopPartition (hL : Within [.free, .out, .unsent, .clusters, .stackTab, .engines, .mem, .memory, .parts, .fns, .buckets, .intr, .links, .sec,
    .spares] L) {s : State} (p : Nat) (h : Only L s₀ s) : Only L s₀ (State.stopPartition s p) := by
  dsimp only [State.stopPartition]
  repeat' first
    | with_reducible assumption
    | with_reducible apply only_modClusters
    | with_reducible apply only_abortRuns
    | with_reducible apply only_discardCopies
    | with_reducible apply only_modPart
    | split
  all_goals exact within_sub (by decide) hL

theorem only_jobFault (hL : Within [.free, .out, .unsent, .clusters, .stackTab, .engines, .mem, .memory, .parts, .fns, .buckets, .intr, .links, .sec, .spares]
    L) {s : State} (p : Nat) (n : Option Nat) (fault detail detail2 : Nat) (h : Only L s₀ s) : Only L s₀ (State.jobFault s p n fault detail detail2) := by
  dsimp only [State.jobFault]
  repeat' first
    | with_reducible assumption
    | with_reducible apply only_foldl
    | with_reducible apply only_foldl_fst
    | intro _ _ _
    | with_reducible apply only_journalHappening
    | with_reducible apply only_stopPartition
    | with_reducible apply only_endJob
    | with_reducible apply only_endRequests
    | with_reducible apply only_emptyRound
    | with_reducible apply only_settleLevels
    | with_reducible apply only_modPart
    | with_reducible apply only_faultDue
    | with_reducible apply only_postTo
    | split
  all_goals exact within_sub (by decide) hL

theorem only_addCredit (hL : Within [.parts] L) {s : State} (p k : Nat) (d : Int) (h : Only L s₀ s) : Only L s₀ (State.addCredit s p k d) := by
  dsimp only [State.addCredit]
  repeat' first
    | with_reducible assumption
    | with_reducible apply only_modRound

theorem only_lcTurn (hL : Within [.parts] L) {s : State} (p : Nat) (h : Only L s₀ s) : Only L s₀ (State.lcTurn s p) := by
  dsimp only [State.lcTurn]
  repeat' first
    | with_reducible assumption
    | with_reducible apply only_modPart
    | split

theorem only_spendSlice (hL : Within [.parts] L) {s : State} (p : Nat) (h : Only L s₀ s) : Only L s₀ (State.spendSlice s p) := by
  dsimp only [State.spendSlice]
  repeat' first
    | with_reducible assumption
    | with_reducible apply only_foldl
    | with_reducible apply only_foldl_fst
    | intro _ _ _
    | with_reducible apply only_addCredit
    | split

theorem only_boundary (hL : Within [.parts] L) {s : State} (p : Nat) (h : Only L s₀ s) : Only L s₀ (State.boundary s p) := by
  dsimp only [State.boundary]
  repeat' first
    | with_reducible assumption
    | with_reducible apply only_foldl
    | with_reducible apply only_foldl_fst
    | intro _ _ _
    | with_reducible apply only_spendSlice
    | with_reducible apply only_modPart

theorem only_tensorBytes (hL : Within [.free, .out, .unsent, .stackTab, .mem, .memory, .parts, .fns, .buckets, .intr, .links, .sec, .spares] L) {s : State}
    (p : Nat) (t : Tensor) (h : Only L s₀ s) : Only L s₀ (State.tensorBytes s p t).1 := by
  dsimp only [State.tensorBytes]
  repeat' first
    | with_reducible assumption
    | with_reducible apply only_readAddrs
    | split
    | refine only_fst (by with_reducible assumption) ?_

theorem only_startJournal (hL : Within [.free, .out, .unsent, .parts, .fns, .buckets] L) {s : State} (p : Nat) (h : Only L s₀ s) : Only L s₀ (State.startJournal s p) := by
  dsimp only [State.startJournal]
  repeat' first
    | with_reducible assumption
    | with_reducible apply only_useFree
    | with_reducible apply only_modPart
    | with_reducible apply only_journal
    | split
  all_goals exact within_sub (by decide) hL

theorem only_haltReplay (hL : Within [.free, .out, .unsent, .clusters, .stackTab, .engines, .parts, .fns, .buckets, .intr] L) {s : State} (p : Nat)
    (h : Only L s₀ s) : Only L s₀ (State.haltReplay s p) := by
  dsimp only [State.haltReplay]
  repeat' first
    | with_reducible assumption
    | with_reducible apply only_foldl
    | with_reducible apply only_foldl_fst
    | intro _ _ _
    | with_reducible apply only_modClusters
    | with_reducible apply only_abortRuns
    | with_reducible apply only_endRequests
    | with_reducible apply only_returnToken
    | with_reducible apply only_modRound
    | with_reducible apply only_settleLevels
    | split
  all_goals exact within_sub (by decide) hL

theorem only_replayGuard (hL : Within [.free, .out, .unsent, .clusters, .stackTab, .engines, .parts, .fns, .buckets, .intr] L) (s : State) {t : State} (p : Nat) (h : Only L s₀ t) :
    Only L s₀ (State.replayGuard s t p) := by
  dsimp only [State.replayGuard]
  repeat' first
    | with_reducible assumption
    | with_reducible apply only_haltReplay
    | split

end Sys2Proof.Proofs
end

section
/-! PROOF of the parts that issue, loads and stores, copies, collectives, regions, jobs, the round and the engines change. -/

namespace Sys2Proof.Proofs
open Sys2Proof Sys2Proof.Machine Sys2Proof.Laws

variable {L : List Fld} {s₀ : State}

theorem only_storeWord (hL : Within [.free, .out, .unsent, .clusters, .stackTab, .mem, .memory, .parts, .fns, .buckets, .intr, .links, .sec, .spares] L)
    {s : State} (c p addr : Nat) (v : W32) (h : Only L s₀ s) : Only L s₀ (State.storeWord s c p addr v).1 := by
  dsimp only [State.storeWord]
  repeat' first
    | with_reducible assumption
    | with_reducible apply only_mergeLine
    | with_reducible apply only_modCluster
    | split
    | refine only_fst (by with_reducible assumption) ?_
  all_goals exact within_sub (by decide) hL

theorem only_yieldStop (hL : Within [.clusters] L) {s : State} (c : Nat) (b : Line) (h : Only L s₀ s) : Only L s₀ (State.yieldStop s c b) := by
  dsimp only [State.yieldStop]
  repeat' first
    | with_reducible assumption
    | with_reducible apply only_modCluster

theorem only_issueActing (hL : Within [.free, .out, .unsent, .clusters, .stackTab, .mem, .memory, .parts, .fns, .buckets, .intr, .links, .sec, .spares] L)
    {s : State} (c p : Nat) (b : Line) (rest : List Line) (h : Only L s₀ s) : Only L s₀ (State.issueActing s c p b rest) := by
  dsimp only [State.issueActing]
  repeat' first
    | with_reducible assumption
    | with_reducible apply only_modCluster
    | with_reducible apply only_storeWord
    | with_reducible apply only_clusterFault
    | with_reducible apply only_applySignal
    | split
    | refine only_fst (by with_reducible assumption) ?_
  all_goals exact within_sub (by decide) hL

theorem only_issue (hL : Within [.free, .out, .unsent, .clusters, .stackTab, .mem, .memory, .parts, .fns, .buckets, .intr, .links, .sec, .spares] L) {s : State}
    (c : Nat) (h : Only L s₀ s) : Only L s₀ (State.issue s c) := by
  dsimp only [State.issue]
  repeat' first
    | with_reducible assumption
    | with_reducible apply only_clusterFault
    | with_reducible apply only_modCluster
    | with_reducible apply only_yieldStop
    | with_reducible apply only_issueActing
    | split
  all_goals exact within_sub (by decide) hL

theorem ends_execBundleFetch (hL : Within [.clusters, .intr] L) (c : ClusterId) {s : State} : Ends L s (execBundleFetch c s) := by
  dsimp only [execBundleFetch]
  have h := only_refl L s
  repeat' first
    | with_reducible assumption
    | with_reducible apply only_clusterFault
    | with_reducible apply only_modCluster
    | with_reducible apply ends_next
    | split
  all_goals exact within_sub (by decide) hL

theorem ends_execBundleIssue (hL : Within [.free, .out, .unsent, .clusters, .stackTab, .mem, .memory, .parts, .fns, .buckets, .intr, .links, .sec, .spares] L)
    (c : ClusterId) {s : State} : Ends L s (execBundleIssue c s) := by
  dsimp only [execBundleIssue]
  have h := only_refl L s
  repeat' first
    | with_reducible assumption
    | with_reducible apply only_issue
    | with_reducible apply ends_next

theorem only_endLoad (hL : Within [.clusters] L) {s : State} (c : Nat) (d : Nat) (v : W32) (h : Only L s₀ s) : Only L s₀ (State.endLoad s c d v) := by
  dsimp only [State.endLoad]
  repeat' first
    | with_reducible assumption
    | with_reducible apply only_modCluster

theorem only_failLoad (hL : Within [.clusters, .intr] L) {s : State} (c : Nat) (l : SLoad) (code : Nat) (pln : Option Nat) (h : Only L s₀ s) :
    Only L s₀ (State.failLoad s c l code pln) := by
  dsimp only [State.failLoad]
  repeat' first
    | with_reducible assumption
    | with_reducible apply only_modCluster
    | with_reducible apply only_clusterFault
    | split
  all_goals exact within_sub (by decide) hL

theorem only_loadReturn (hL : Within [.free, .out, .unsent, .clusters, .stackTab, .mem, .memory, .parts, .fns, .buckets, .intr, .links, .sec, .spares] L)
    {s : State} (c p : Nat) (l : SLoad) (h : Only L s₀ s) : Only L s₀ (State.loadReturn s c p l) := by
  dsimp only [State.loadReturn]
  repeat' first
    | with_reducible assumption
    | with_reducible apply only_failLoad
    | with_reducible apply only_modCluster
    | with_reducible apply only_endLoad
    | with_reducible apply only_readLine
    | with_reducible apply only_useFree
    | with_reducible apply only_writeLine
    | split
    | refine only_fst (by with_reducible assumption) ?_
  all_goals exact within_sub (by decide) hL

theorem ends_execScalarLoadReturn (hL : Within [.free, .out, .unsent, .clusters, .stackTab, .mem, .memory, .parts, .fns, .buckets, .intr, .links, .sec, .spares]
    L) (c : ClusterId) {s : State} : Ends L s (execScalarLoadReturn c s) := by
  dsimp only [execScalarLoadReturn]
  have h := only_refl L s
  repeat' first
    | with_reducible assumption
    | with_reducible apply only_loadReturn
    | with_reducible apply ends_next
    | split

theorem ends_execFenceComplete (hL : Within [.clusters, .intr] L) (c : ClusterId) {s : State} : Ends L s (execFenceComplete c s) := by
  dsimp only [execFenceComplete]
  have h := only_refl L s
  repeat' first
    | with_reducible assumption
    | with_reducible apply only_modCluster
    | with_reducible apply only_applySignal
    | with_reducible apply ends_next
    | split
  all_goals exact within_sub (by decide) hL

theorem ends_execMarker (hL : Within [.clusters, .intr] L) (c : ClusterId) (p : Pipe) {s : State} : Ends L s (execMarker c p s) := by
  dsimp only [execMarker]
  have h := only_refl L s
  repeat' first
    | with_reducible assumption
    | with_reducible apply only_startMarker
    | with_reducible apply ends_next

theorem ends_execRemoteSignal (hL : Within [.clusters, .intr] L) (c : ClusterId) {s : State} : Ends L s (execRemoteSignal c s) := by
  dsimp only [execRemoteSignal]
  have h := only_refl L s
  repeat' first
    | with_reducible assumption
    | with_reducible apply only_modCluster
    | with_reducible apply only_applySignal
    | with_reducible apply ends_next
    | split
  all_goals exact within_sub (by decide) hL

theorem ends_execLongOpComplete (hL : Within [.free, .out, .unsent, .clusters, .quarters, .stackTab, .mem, .memory, .parts, .fns, .buckets, .intr, .links, .sec,
    .spares] L) (c : ClusterId) (p : Pipe) {s : State} : Ends L s (execLongOpComplete c p s) := by
  dsimp only [execLongOpComplete]
  have h := only_refl L s
  repeat' first
    | with_reducible assumption
    | with_reducible apply only_completeOp
    | with_reducible apply ends_next

theorem only_ldqStart (_hL : Within [] L) {s : State} (c p : Nat) (e : QEntry) (h : Only L s₀ s) : Only L s₀ (ldqStart s c p e).1 := by
  dsimp only [ldqStart]
  repeat' first
    | with_reducible assumption
    | split

theorem only_stqStart (_hL : Within [] L) {s : State} (c p : Nat) (e : QEntry) (h : Only L s₀ s) : Only L s₀ (stqStart s c p e).1 := by
  dsimp only [stqStart]
  repeat' first
    | with_reducible assumption
    | split

theorem only_ldRows (hL : Within [.free, .out, .unsent, .stackTab, .mem, .memory, .parts, .fns, .buckets, .intr, .links, .sec, .spares] L) {s : State} (p : Nat)
    (t : Tensor) (r : Nat) (h : W64) (addr x0 x1 o : Nat) (l : List Nat) (hs : Only L s₀ s) : Only L s₀ ((State.ldRows s p t r h addr x0 x1 o) l).1 := by
  induction l generalizing s with
  | nil => exact hs
  | cons a l ih =>
    dsimp only [State.ldRows]
    repeat' first
      | with_reducible assumption
      | with_reducible apply ih
      | with_reducible apply only_readAddrs
      | split
      | refine only_fst (by with_reducible assumption) ?_

theorem only_ldtStart (hL : Within [.free, .out, .unsent, .stackTab, .mem, .memory, .parts, .fns, .buckets, .intr, .links, .sec, .spares] L) {s : State}
    (_c p : Nat) (e : QEntry) (h : Only L s₀ s) : Only L s₀ (ldtStart s _c p e).1 := by
  dsimp only [ldtStart]
  repeat' first
    | with_reducible assumption
    | with_reducible apply only_ldRows
    | with_reducible apply only_readAddrs
    | split
    | refine only_fst (by with_reducible assumption) ?_

theorem only_sttStart (_hL : Within [] L) {s : State} (c p : Nat) (e : QEntry) (h : Only L s₀ s) : Only L s₀ (sttStart s c p e).1 := by
  dsimp only [sttStart]
  repeat' first
    | with_reducible assumption
    | split

theorem only_stcStart (_hL : Within [] L) {s : State} (c : Nat) (j : Nat × Nat) (e : QEntry) (h : Only L s₀ s) : Only L s₀ (stcStart s c j e).1 := by
  dsimp only [stcStart]
  repeat' first
    | with_reducible assumption
    | split

theorem ends_execLdT (hL : Within [.free, .out, .unsent, .clusters, .stackTab, .mem, .memory, .parts, .fns, .buckets, .intr, .links, .sec, .spares] L)
    (c : ClusterId) {s : State} : Ends L s (execLdT c s) := by
  dsimp only [execLdT]
  have h := only_refl L s
  repeat' first
    | with_reducible assumption
    | intro _ _ _
    | intro _ _
    | intro _
    | with_reducible apply only_startOp
    | with_reducible apply only_ldtStart
    | with_reducible apply ends_next
    | split
    | refine only_fst (by with_reducible assumption) ?_
  all_goals exact within_sub (by decide) hL

theorem ends_execStT (hL : Within [.clusters, .intr] L) (c : ClusterId) {s : State} : Ends L s (execStT c s) := by
  dsimp only [execStT]
  have h := only_refl L s
  repeat' first
    | with_reducible assumption
    | intro _ _ _
    | intro _ _
    | intro _
    | with_reducible apply only_startOp
    | with_reducible apply only_sttStart
    | with_reducible apply ends_next
    | split
    | refine only_fst (by with_reducible assumption) ?_
  all_goals exact within_sub (by decide) hL

theorem ends_execLdQ (hL : Within [.clusters, .intr] L) (c : ClusterId) {s : State} : Ends L s (execLdQ c s) := by
  dsimp only [execLdQ]
  have h := only_refl L s
  repeat' first
    | with_reducible assumption
    | intro _ _ _
    | intro _ _
    | intro _
    | with_reducible apply only_startOp
    | with_reducible apply only_ldqStart
    | with_reducible apply ends_next
    | split
    | refine only_fst (by with_reducible assumption) ?_
  all_goals exact within_sub (by decide) hL

theorem ends_execStQ (hL : Within [.clusters, .intr] L) (c : ClusterId) {s : State} : Ends L s (execStQ c s) := by
  dsimp only [execStQ]
  have h := only_refl L s
  repeat' first
    | with_reducible assumption
    | intro _ _ _
    | intro _ _
    | intro _
    | with_reducible apply only_startOp
    | with_reducible apply only_stqStart
    | with_reducible apply ends_next
    | split
    | refine only_fst (by with_reducible assumption) ?_
  all_goals exact within_sub (by decide) hL

theorem ends_execStC (hL : Within [.clusters, .intr] L) (c : ClusterId) {s : State} : Ends L s (execStC c s) := by
  dsimp only [execStC]
  have h := only_refl L s
  repeat' first
    | with_reducible assumption
    | intro _ _ _
    | intro _ _
    | intro _
    | with_reducible apply only_startOp
    | with_reducible apply only_stcStart
    | with_reducible apply ends_next
    | split
    | refine only_fst (by with_reducible assumption) ?_
  all_goals exact within_sub (by decide) hL

theorem only_readSpot (hL : Within [.free, .out, .unsent, .stackTab, .mem, .memory, .parts, .fns, .buckets, .intr, .links, .sec, .spares] L) {s : State}
    (p : Nat) (ext : List (Spot × Line)) (x : Spot) (h : Only L s₀ s) : Only L s₀ (State.readSpot s p ext x).1 := by
  dsimp only [State.readSpot]
  repeat' first
    | with_reducible assumption
    | with_reducible apply only_readLine
    | split
    | refine only_fst (by with_reducible assumption) ?_

theorem only_readSpots (hL : Within [.free, .out, .unsent, .stackTab, .mem, .memory, .parts, .fns, .buckets, .intr, .links, .sec, .spares] L) {s : State}
    (p : Nat) (ext : List (Spot × Line)) (l : List Spot) (h : Only L s₀ s) : Only L s₀ ((State.readSpots s p ext) l).1 := by
  induction l generalizing s with
  | nil => exact h
  | cons a l ih =>
    dsimp only [State.readSpots]
    repeat' first
      | with_reducible assumption
      | with_reducible apply ih
      | with_reducible apply only_readSpot
      | split
      | refine only_fst (by with_reducible assumption) ?_

theorem only_readRow (hL : Within [.free, .out, .unsent, .stackTab, .mem, .memory, .parts, .fns, .buckets, .intr, .links, .sec, .spares] L) {s : State}
    (p : Nat) (ext : List (Spot × Line)) (f : Fmt) (wafer : Bool) (l : List Seg) (h : Only L s₀ s) : Only L s₀ ((State.readRow s p ext f wafer) l).1 := by
  induction l generalizing s with
  | nil => exact h
  | cons a l ih =>
    dsimp only [State.readRow]
    repeat' first
      | with_reducible assumption
      | with_reducible apply ih
      | with_reducible apply only_readSpots
      | split
      | refine only_fst (by with_reducible assumption) ?_

theorem only_readRows (hL : Within [.free, .out, .unsent, .stackTab, .mem, .memory, .parts, .fns, .buckets, .intr, .links, .sec, .spares] L) {s : State}
    (p : Nat) (ext : List (Spot × Line)) (f : Fmt) (wafer : Bool) (l : List (List Seg)) (h : Only L s₀ s) :
    Only L s₀ ((State.readRows s p ext f wafer) l).1 := by
  induction l generalizing s with
  | nil => exact h
  | cons a l ih =>
    dsimp only [State.readRows]
    repeat' first
      | with_reducible assumption
      | with_reducible apply ih
      | with_reducible apply only_readRow
      | split
      | refine only_fst (by with_reducible assumption) ?_

theorem only_boxPieces (hL : Within [.free, .out, .unsent, .stackTab, .mem, .memory, .parts, .fns, .buckets, .intr, .links, .sec, .spares] L) {s : State}
    (p : Nat) (d : Line) (ext acc : List (Spot × Line)) (x y : Side) (b : List (List Seg) × List (List Seg) × List ScaleMove) (h : Only L s₀ s) :
    Only L s₀ (State.boxPieces s p d ext acc x y b).1 := by
  dsimp only [State.boxPieces]
  repeat' first
    | with_reducible assumption
    | with_reducible apply only_readRows
    | with_reducible apply only_readSpots
    | split
    | refine only_fst (by with_reducible assumption) ?_

theorem only_writeSpot (hL : Within [.clusters, .quarters, .mem] L) {s : State} (x : Spot) (v : Nat) (h : Only L s₀ s) : Only L s₀ (State.writeSpot s x v) := by
  dsimp only [State.writeSpot]
  repeat' first
    | with_reducible assumption
    | with_reducible apply only_writeLine
    | with_reducible apply only_modCluster
    | with_reducible apply only_modQuarter
    | split
  all_goals exact within_sub (by decide) hL

theorem only_applyPiece (hL : Within [.free, .out, .unsent, .clusters, .quarters, .stackTab, .mem, .memory, .parts, .fns, .buckets, .intr, .links, .sec,
    .spares] L) {s : State} (p : Nat) (x : Piece) (h : Only L s₀ s) : Only L s₀ (State.applyPiece s p x).1 := by
  dsimp only [State.applyPiece]
  repeat' first
    | with_reducible assumption
    | with_reducible apply only_foldl
    | with_reducible apply only_foldl_fst
    | intro _ _ _
    | with_reducible apply only_mergeLine
    | with_reducible apply only_hostWrite
    | with_reducible apply only_readSpot
    | with_reducible apply only_writeSpot
    | with_reducible apply only_readSpots
    | split
    | refine only_fst (by with_reducible assumption) ?_
  all_goals exact within_sub (by decide) hL

theorem only_applyPieces (hL : Within [.free, .out, .unsent, .clusters, .quarters, .stackTab, .mem, .memory, .parts, .fns, .buckets, .intr, .links, .sec,
    .spares] L) {s : State} (p : Nat) (xs : List Piece) (h : Only L s₀ s) : Only L s₀ (State.applyPieces s p xs).1 := by
  dsimp only [State.applyPieces]
  repeat' first
    | with_reducible assumption
    | with_reducible apply only_foldl
    | with_reducible apply only_foldl_fst
    | intro _ _ _
    | with_reducible apply only_applyPiece
    | with_reducible apply only_useFree
    | split
    | refine only_fst (by with_reducible assumption) ?_
  all_goals exact within_sub (by decide) hL

theorem only_applyAny (hL : Within [.free, .out, .unsent, .clusters, .quarters, .stackTab, .mem, .memory, .parts, .fns, .buckets, .intr, .links, .sec, .spares]
    L) {s : State} (p : Nat) (xs : List Piece) (h : Only L s₀ s) : Only L s₀ (State.applyAny s p xs) := by
  dsimp only [State.applyAny]
  repeat' first
    | with_reducible assumption
    | with_reducible apply only_foldl
    | with_reducible apply only_foldl_fst
    | intro _ _ _
    | with_reducible apply only_useFree
    | with_reducible apply only_applyPiece
    | split
    | refine only_fst (by with_reducible assumption) ?_
  all_goals exact within_sub (by decide) hL

theorem only_modCopy (hL : Within [.copies] L) {s : State} (id : Nat) (f : CopyJob → CopyJob) (h : Only L s₀ s) : Only L s₀ (State.modCopy s id f) := by
  dsimp only [State.modCopy]
  repeat' first
    | with_reducible assumption
    | split
    | with_reducible apply only_set_copies

theorem only_sendFor (hL : Within [.out, .copies, .links] L) {s : State} (id p d typ lines addr : Nat) (payload : List Line) (h : Only L s₀ s) :
    Only L s₀ (State.sendFor s id p d typ lines addr payload) := by
  dsimp only [State.sendFor]
  repeat' first
    | with_reducible assumption
    | with_reducible apply only_sendPacket
    | with_reducible apply only_modCopy
    | split
  all_goals exact within_sub (by decide) hL

theorem only_sendPiece (hL : Within [.out, .copies, .links] L) {s : State} (id p reduce : Nat) (x : Piece) (h : Only L s₀ s) : Only L s₀ (State.sendPiece s id p reduce x) := by
  dsimp only [State.sendPiece]
  repeat' first
    | with_reducible assumption
    | with_reducible apply only_sendFor
    | split

theorem only_allPieces (hL : Within [.free, .out, .unsent, .stackTab, .mem, .memory, .parts, .fns, .buckets, .intr, .links, .sec, .spares] L) {s : State}
    (p : Nat) (d : Line) (ext : List (Spot × Line)) (acc : List (Spot × Line)) (plan : CopyPlan) (l : List ((Nat × Nat × Nat) × Nat)) (h : Only L s₀ s) :
    Only L s₀ ((State.allPieces s p d ext acc plan) l).1 := by
  induction l generalizing s acc with
  | nil => exact h
  | cons a l ih =>
    dsimp only [State.allPieces]
    repeat' first
      | with_reducible assumption
      | with_reducible apply ih
      | with_reducible apply only_boxPieces
      | split
      | refine only_fst (by with_reducible assumption) ?_

theorem only_moveCopy (hL : Within [.free, .out, .unsent, .stackTab, .mem, .memory, .parts, .copies, .fns, .buckets, .intr, .links, .sec, .spares] L)
    {s : State} (id : Nat) (h : Only L s₀ s) : Only L s₀ (State.moveCopy s id) := by
  dsimp only [State.moveCopy]
  repeat' first
    | with_reducible assumption
    | with_reducible apply only_foldl
    | with_reducible apply only_foldl_fst
    | intro _ _ _
    | with_reducible apply only_allPieces
    | with_reducible apply only_modCopy
    | with_reducible apply only_sendPiece
    | split
    | refine only_fst (by with_reducible assumption) ?_
  all_goals exact within_sub (by decide) hL

theorem only_sendChunk (hL : Within [.out, .copies, .links] L) {s : State} (k : Member) (r : Nat) (q : CPiece) (codes : List Nat) (reduce : Bool)
    (h : Only L s₀ s) : Only L s₀ (State.sendChunk s k r q codes reduce) := by
  dsimp only [State.sendChunk]
  repeat' first
    | with_reducible assumption
    | with_reducible apply only_sendFor

theorem only_sendAll (hL : Within [.out, .copies, .links] L) {s : State} (k : Member) (q : CPiece) (codes : List Nat) (h : Only L s₀ s) :
    Only L s₀ (State.sendAll s k q codes) := by
  dsimp only [State.sendAll]
  repeat' first
    | with_reducible assumption
    | with_reducible apply only_foldl
    | with_reducible apply only_foldl_fst
    | intro _ _ _
    | with_reducible apply only_sendChunk

theorem only_markFinal (hL : Within [.copies] L) {s : State} (id i : Nat) (h : Only L s₀ s) : Only L s₀ (State.markFinal s id i) := by
  dsimp only [State.markFinal]
  repeat' first
    | with_reducible assumption
    | with_reducible apply only_modCopy

theorem only_failColl (hL : Within [.copies] L) {s : State} (id status : Nat) (err : Option Nat) (h : Only L s₀ s) : Only L s₀ (State.failColl s id status err) := by
  dsimp only [State.failColl]
  repeat' first
    | with_reducible assumption
    | with_reducible apply only_modCopy

theorem only_putFinal (hL : Within [.free, .out, .unsent, .clusters, .quarters, .stackTab, .mem, .memory, .parts, .copies, .fns, .buckets, .intr, .links, .sec,
    .spares] L) {s : State} (k : Member) (i : Nat) (q : CPiece) (codes : List Nat) (h : Only L s₀ s) : Only L s₀ (State.putFinal s k i q codes) := by
  dsimp only [State.putFinal]
  repeat' first
    | with_reducible assumption
    | with_reducible apply only_failColl
    | with_reducible apply only_applyPieces
    | with_reducible apply only_markFinal
    | split
    | refine only_fst (by with_reducible assumption) ?_
  all_goals exact within_sub (by decide) hL

theorem only_ownCodes (hL : Within [.free, .out, .unsent, .stackTab, .mem, .memory, .parts, .copies, .fns, .buckets, .intr, .links, .sec, .spares] L)
    {s : State} (k : Member) (q : CPiece) (h : Only L s₀ s) : Only L s₀ (State.ownCodes s k q).1 := by
  dsimp only [State.ownCodes]
  repeat' first
    | with_reducible assumption
    | with_reducible apply only_failColl
    | with_reducible apply only_readSpots
    | split
    | refine only_fst (by with_reducible assumption) ?_
  all_goals exact within_sub (by decide) hL

theorem only_sendFirst (hL : Within [.free, .out, .unsent, .clusters, .quarters, .stackTab, .mem, .memory, .parts, .copies, .fns, .buckets, .intr, .links, .sec,
    .spares] L) {s : State} (k : Member) (i : Nat) (q : CPiece) (h : Only L s₀ s) : Only L s₀ (State.sendFirst s k i q) := by
  dsimp only [State.sendFirst]
  repeat' first
    | with_reducible assumption
    | with_reducible apply only_ownCodes
    | with_reducible apply only_putFinal
    | with_reducible apply only_sendAll
    | with_reducible apply only_sendChunk
    | with_reducible apply only_markFinal
    | split
    | refine only_fst (by with_reducible assumption) ?_
  all_goals exact within_sub (by decide) hL

theorem only_beginColl (hL : Within [.free, .out, .unsent, .clusters, .quarters, .stackTab, .mem, .memory, .parts, .copies, .fns, .buckets, .intr, .links, .sec,
    .spares] L) {s : State} (id : Nat) (h : Only L s₀ s) : Only L s₀ (State.beginColl s id) := by
  dsimp only [State.beginColl]
  repeat' first
    | with_reducible assumption
    | with_reducible apply only_foldl
    | with_reducible apply only_foldl_fst
    | intro _ _ _
    | with_reducible apply only_failColl
    | with_reducible apply only_modCopy
    | with_reducible apply only_sendFirst
    | split
  all_goals exact within_sub (by decide) hL

theorem only_sumArrives (hL : Within [.free, .out, .unsent, .clusters, .quarters, .stackTab, .mem, .memory, .parts, .copies, .fns, .buckets, .intr, .links,
    .sec, .spares] L) {s : State} (k : Member) (i : Nat) (q : CPiece) (codes : List Nat) (h : Only L s₀ s) : Only L s₀ (State.sumArrives s k i q codes) := by
  dsimp only [State.sumArrives]
  repeat' first
    | with_reducible assumption
    | with_reducible apply only_putFinal
    | with_reducible apply only_sendAll
    | with_reducible apply only_sendChunk
    | with_reducible apply only_ownCodes
    | with_reducible apply only_modCopy
    | with_reducible apply only_markFinal
    | split
    | refine only_fst (by with_reducible assumption) ?_
  all_goals exact within_sub (by decide) hL

theorem only_finalArrives (hL : Within [.free, .out, .unsent, .clusters, .quarters, .stackTab, .mem, .memory, .parts, .copies, .fns, .buckets, .intr, .links,
    .sec, .spares] L) {s : State} (k : Member) (i : Nat) (q : CPiece) (codes : List Nat) (h : Only L s₀ s) : Only L s₀ (State.finalArrives s k i q codes) := by
  dsimp only [State.finalArrives]
  repeat' first
    | with_reducible assumption
    | with_reducible apply only_putFinal
    | with_reducible apply only_sendChunk
    | split
  all_goals exact within_sub (by decide) hL

theorem only_collWrite (hL : Within [.free, .out, .unsent, .clusters, .quarters, .stackTab, .mem, .memory, .parts, .copies, .fns, .buckets, .intr, .links, .sec,
    .spares] L) {s : State} (p reduce addr : Nat) (ls : List Line) (h : Only L s₀ s) : OnlyO L s₀ (State.collWrite s p reduce addr ls) := by
  dsimp only [State.collWrite]
  repeat' first
    | with_reducible assumption
    | with_reducible apply onlyO_some
    | exact onlyO_none
    | with_reducible apply only_sumArrives
    | with_reducible apply only_finalArrives
    | split

theorem only_collTry (hL : Within [.free, .out, .unsent, .clusters, .quarters, .stackTab, .mem, .memory, .parts, .copies, .fns, .buckets, .intr, .links, .sec,
    .spares] L) {s : State} (id : Nat) (h : Only L s₀ s) : Only L s₀ (State.collTry s id) := by
  dsimp only [State.collTry]
  repeat' first
    | with_reducible assumption
    | with_reducible apply only_beginColl
    | with_reducible apply only_failColl
    | split
    | with_reducible apply only_set_links
  all_goals exact within_sub (by decide) hL

theorem only_sieveLine (hL : Within [.free, .out, .unsent, .stackTab, .mem, .memory, .parts, .fns, .buckets, .intr, .links, .sec, .spares] L) {s : State}
    (z : SieveSum) (pln : Nat) (h : Only L s₀ s) : Only L s₀ (State.sieveLine s z pln).1 := by
  dsimp only [State.sieveLine]
  repeat' first
    | with_reducible assumption
    | with_reducible apply only_badLine
    | with_reducible apply only_modRound
    | with_reducible apply only_corrected
    | with_reducible apply only_setStored
    | split
  all_goals exact within_sub (by decide) hL

theorem only_sieveLines (hL : Within [.free, .out, .unsent, .stackTab, .mem, .memory, .parts, .fns, .buckets, .intr, .links, .sec, .spares] L) {s : State}
    (z : SieveSum) (ls : List Nat) (h : Only L s₀ s) : Only L s₀ (State.sieveLines s z ls).1 := by
  dsimp only [State.sieveLines]
  repeat' first
    | with_reducible assumption
    | with_reducible apply only_foldl
    | with_reducible apply only_foldl_fst
    | intro _ _ _
    | with_reducible apply only_sieveLine

theorem only_resieveNow (hL : Within [.free, .out, .unsent, .stackTab, .mem, .memory, .parts, .fns, .buckets, .intr, .links, .sec, .spares] L) {s : State}
    (h : Only L s₀ s) : Only L s₀ (State.resieveNow s) := by
  dsimp only [State.resieveNow]
  repeat' first
    | with_reducible assumption
    | with_reducible apply only_sieveLines
    | split
    | refine only_fst (by with_reducible assumption) ?_
    | with_reducible apply only_set_memory
  all_goals exact within_sub (by decide) hL

theorem only_endRegionCmd (hL : Within [.out, .unsent, .memory, .fns, .buckets] L) {s : State} (n op status : Nat) (h : Only L s₀ s) :
    Only L s₀ (State.endRegionCmd s n op status) := by
  dsimp only [State.endRegionCmd]
  repeat' first
    | with_reducible assumption
    | with_reducible apply only_post
    | split
    | with_reducible apply only_set_memory
  all_goals exact within_sub (by decide) hL

theorem only_leaveRegion (hL : Within [.free, .out, .unsent, .stackTab, .mem, .memory, .parts, .fns, .buckets, .intr, .links, .sec, .spares] L) {s : State}
    (n : Nat) (h : Only L s₀ s) : Only L s₀ (State.leaveRegion s n) := by
  dsimp only [State.leaveRegion]
  repeat' first
    | with_reducible assumption
    | with_reducible apply only_foldl
    | with_reducible apply only_foldl_fst
    | intro _ _ _
    | with_reducible apply only_invalidate
    | with_reducible apply only_modPart
    | with_reducible apply only_resieveNow
    | split
    | with_reducible apply only_set_memory
  all_goals exact within_sub (by decide) hL

theorem only_regionCommand (hL : Within [.out, .unsent, .memory, .fns, .buckets] L) {s : State} (fn n op : Nat) (f : State → State) (hf : Only L s₀ (f s))
    (h : Only L s₀ s) : Only L s₀ (State.regionCommand s fn n op f) := by
  dsimp only [State.regionCommand]
  repeat' first
    | with_reducible assumption
    | with_reducible apply only_endRegionCmd
    | split
    | with_reducible apply only_set_memory
  all_goals exact within_sub (by decide) hL

theorem only_setRegionState (hL : Within [.memory] L) {s : State} (n st : Nat) (h : Only L s₀ s) : Only L s₀ (State.setRegionState s n st) := by
  dsimp only [State.setRegionState]
  repeat' first
    | with_reducible assumption
    | with_reducible apply only_modRegion

theorem only_dropShares (hL : Within [.out, .unsent, .parts, .fns, .buckets] L) {s : State} (n mask : Nat) (h : Only L s₀ s) : Only L s₀ (State.dropShares s n mask) := by
  dsimp only [State.dropShares]
  repeat' first
    | with_reducible assumption
    | with_reducible apply only_foldl
    | with_reducible apply only_foldl_fst
    | intro _ _ _
    | with_reducible apply only_invalidate
    | split

theorem only_regionAct (hL : Within [.free, .out, .unsent, .stackTab, .mem, .memory, .parts, .fns, .buckets, .intr, .links, .sec, .spares] L) {s : State}
    (n op : Nat) (h : Only L s₀ s) : Only L s₀ (State.regionAct s n op) := by
  dsimp only [State.regionAct]
  repeat' first
    | with_reducible assumption
    | with_reducible apply only_modRegion
    | with_reducible apply only_leaveRegion
    | with_reducible apply only_setRegionState
    | with_reducible apply only_dropShares
    | split
  all_goals exact within_sub (by decide) hL

theorem only_regionOp (hL : Within [.free, .out, .unsent, .stackTab, .mem, .memory, .parts, .fns, .buckets, .intr, .links, .sec, .spares] L) {s : State}
    (fn n op : Nat) (h : Only L s₀ s) : Only L s₀ (State.regionOp s fn n op) := by
  dsimp only [State.regionOp]
  repeat' first
    | with_reducible assumption
    | intro _ _ _
    | intro _ _
    | with_reducible apply only_regionCommand
    | with_reducible apply only_regionAct
    | split
  all_goals exact within_sub (by decide) hL

theorem ends_execCreate (hL : Within [.free, .out, .unsent, .stackTab, .mem, .memory, .parts, .fns, .buckets, .intr, .links, .sec, .spares] L) (fn : FnId)
    (index : BitVec 8) {s : State} : Ends L s (execCreate fn index s) := by
  dsimp only [execCreate]
  have h := only_refl L s
  repeat' first
    | with_reducible assumption
    | with_reducible apply only_regionOp
    | with_reducible apply ends_next

theorem ends_execRegionRelease (hL : Within [.free, .out, .unsent, .stackTab, .mem, .memory, .parts, .fns, .buckets, .intr, .links, .sec, .spares] L)
    (fn : FnId) (index : BitVec 8) {s : State} : Ends L s (execRegionRelease fn index s) := by
  dsimp only [execRegionRelease]
  have h := only_refl L s
  repeat' first
    | with_reducible assumption
    | with_reducible apply only_regionOp
    | with_reducible apply ends_next

theorem ends_execConvert (hL : Within [.free, .out, .unsent, .stackTab, .mem, .memory, .parts, .fns, .buckets, .intr, .links, .sec, .spares] L) (fn : FnId)
    (index : BitVec 8) {s : State} : Ends L s (execConvert fn index s) := by
  dsimp only [execConvert]
  have h := only_refl L s
  repeat' first
    | with_reducible assumption
    | with_reducible apply only_regionOp
    | with_reducible apply ends_next

theorem ends_execLock (hL : Within [.free, .out, .unsent, .stackTab, .mem, .memory, .parts, .fns, .buckets, .intr, .links, .sec, .spares] L) (fn : FnId)
    (index : BitVec 8) {s : State} : Ends L s (execLock fn index s) := by
  dsimp only [execLock]
  have h := only_refl L s
  repeat' first
    | with_reducible assumption
    | with_reducible apply only_regionOp
    | with_reducible apply ends_next

theorem ends_execSetShare (hL : Within [.free, .out, .unsent, .stackTab, .mem, .memory, .parts, .fns, .buckets, .intr, .links, .sec, .spares] L) (fn : FnId)
    (index : BitVec 8) {s : State} : Ends L s (execSetShare fn index s) := by
  dsimp only [execSetShare]
  have h := only_refl L s
  repeat' first
    | with_reducible assumption
    | with_reducible apply only_regionOp
    | with_reducible apply ends_next

theorem ends_execRegionCommandComplete (hL : Within [.out, .unsent, .mem, .memory, .parts, .fns, .buckets] L) {s : State} : Ends L s (execRegionCommandComplete s) := by
  dsimp only [execRegionCommandComplete]
  have h := only_refl L s
  repeat' first
    | with_reducible assumption
    | with_reducible apply only_endRegionCmd
    | with_reducible apply only_blankRegion
    | with_reducible apply only_setRegionState
    | with_reducible apply only_modRegion
    | with_reducible apply only_dropShares
    | with_reducible apply ends_next
    | split
  all_goals exact within_sub (by decide) hL

theorem only_dropFw (hL : Within [.mem, .memory] L) {s : State} (p : Nat) (h : Only L s₀ s) : Only L s₀ (State.dropFw s p) := by
  dsimp only [State.dropFw]
  repeat' first
    | with_reducible assumption
    | with_reducible apply only_foldl
    | with_reducible apply only_foldl_fst
    | intro _ _ _
    | with_reducible apply only_blankRegion
    | with_reducible apply only_modRegion
    | split
  all_goals exact within_sub (by decide) hL

theorem only_createFw (hL : Within [.mem, .memory] L) {s : State} (p : Nat) (a : Applied) (h : Only L s₀ s) : Only L s₀ (State.createFw s p a) := by
  dsimp only [State.createFw]
  repeat' first
    | with_reducible assumption
    | with_reducible apply only_foldl
    | with_reducible apply only_foldl_fst
    | intro _ _ _
    | with_reducible apply only_modRegion
    | with_reducible apply only_dropFw
    | split
  all_goals exact within_sub (by decide) hL

theorem only_readyFw (hL : Within [.mem, .memory] L) {s : State} (p : Nat) (h : Only L s₀ s) : Only L s₀ (State.readyFw s p) := by
  dsimp only [State.readyFw]
  repeat' first
    | with_reducible assumption
    | with_reducible apply only_foldl
    | with_reducible apply only_foldl_fst
    | intro _ _ _
    | with_reducible apply only_blankRegion
    | with_reducible apply only_setRegionState
    | split
  all_goals exact within_sub (by decide) hL

theorem only_blankFw (hL : Within [.mem] L) {s : State} (p : Nat) (h : Only L s₀ s) : Only L s₀ (State.blankFw s p) := by
  dsimp only [State.blankFw]
  repeat' first
    | with_reducible assumption
    | with_reducible apply only_foldl
    | with_reducible apply only_foldl_fst
    | intro _ _ _
    | with_reducible apply only_blankRegion

theorem only_fwRead (hL : Within [.free, .out, .unsent, .mem, .memory, .parts, .fns, .buckets, .intr, .links] L) {s : State} (p : Nat) (h : Only L s₀ s) :
    Only L s₀ (State.fwRead s p).1 := by
  dsimp only [State.fwRead]
  repeat' first
    | with_reducible assumption
    | with_reducible apply only_useFree
    | with_reducible apply only_badLine
    | split
  all_goals exact within_sub (by decide) hL

theorem only_writeArea (hL : Within [.mem] L) {s : State} (p k : Nat) (h : Only L s₀ s) : Only L s₀ (State.writeArea s p k) := by
  dsimp only [State.writeArea]
  repeat' first
    | with_reducible assumption
    | with_reducible apply only_foldl
    | with_reducible apply only_foldl_fst
    | intro _ _ _
    | with_reducible apply only_blankWhere

theorem ends_execJob (hL : Within [.out, .unsent, .parts, .fns, .buckets] L) (fn : FnId) (r : RingId) {s : State} : Ends L s (execJob fn r s) := by
  dsimp only [execJob]
  have h := only_refl L s
  repeat' first
    | with_reducible assumption
    | with_reducible apply only_popFetched
    | with_reducible apply only_jobAnswer
    | with_reducible apply only_modPart
    | with_reducible apply ends_next
    | split
  all_goals exact within_sub (by decide) hL

theorem only_refuseStart (hL : Within [.out, .unsent, .parts, .fns, .buckets] L) {s : State} (p : Nat) (j : Job) (status detail : Nat) (h : Only L s₀ s) :
    Only L s₀ (State.refuseStart s p j status detail) := by
  dsimp only [State.refuseStart]
  repeat' first
    | with_reducible assumption
    | with_reducible apply only_modPart
    | with_reducible apply only_jobAnswer
    | split
  all_goals exact within_sub (by decide) hL

theorem only_imageOf (hL : Within [.free, .out, .unsent, .stackTab, .mem, .memory, .parts, .fns, .buckets, .intr, .links, .sec, .spares] L) {s : State}
    (p : Nat) (t : Tensor) (brought : Option (List Byte)) (h : Only L s₀ s) : Only L s₀ (State.imageOf s p t brought).1 := by
  dsimp only [State.imageOf]
  repeat' first
    | with_reducible assumption
    | with_reducible apply only_tensorBytes
    | split

theorem only_beginJob (hL : Within [.clusters, .parts] L) {s : State} (p : Nat) (j : Job) (shares : List Nat) (image : List Byte) (h : Only L s₀ s) :
    Only L s₀ (State.beginJob s p j shares image) := by
  dsimp only [State.beginJob]
  repeat' first
    | with_reducible assumption
    | with_reducible apply only_lcTurn
    | with_reducible apply only_modClusters
    | with_reducible apply only_modJob
    | with_reducible apply only_modPart
    | split
  all_goals exact within_sub (by decide) hL

theorem ends_execJobStart (hL : Within [.free, .out, .unsent, .clusters, .stackTab, .engines, .mem, .memory, .parts, .fns, .buckets, .intr, .links, .sec,
    .spares] L) (p : PartId) (job : Nat) (image : Option (List Byte)) (header : Option Line) {s : State} : Ends L s (execJobStart p job image header s) := by
  dsimp only [execJobStart]
  have h := only_refl L s
  repeat' first
    | with_reducible assumption
    | with_reducible apply only_refuseStart
    | with_reducible apply only_imageOf
    | with_reducible apply only_modRound
    | with_reducible apply only_startJournal
    | with_reducible apply only_beginJob
    | with_reducible apply only_journal
    | with_reducible apply only_haltReplay
    | with_reducible apply ends_next
    | split
    | refine only_fst (by with_reducible assumption) ?_
  all_goals exact within_sub (by decide) hL

theorem ends_execClusterHaltComplete (hL : Within [.out, .unsent, .clusters, .parts, .fns, .buckets] L) (c : ClusterId) {s : State} : Ends L s (execClusterHaltComplete c s) := by
  dsimp only [execClusterHaltComplete]
  have h := only_refl L s
  repeat' first
    | with_reducible assumption
    | with_reducible apply only_modCluster
    | with_reducible apply only_endJob
    | with_reducible apply ends_next
    | split
  all_goals exact within_sub (by decide) hL

theorem ends_execTimeSliceBoundary (hL : Within [.parts] L) (p : PartId) {s : State} : Ends L s (execTimeSliceBoundary p s) := by
  dsimp only [execTimeSliceBoundary]
  have h := only_refl L s
  repeat' first
    | with_reducible assumption
    | with_reducible apply only_modPart
    | with_reducible apply only_boundary
    | with_reducible apply ends_next
    | split

theorem ends_execPreemptRequest (hL : Within [.clusters, .parts] L) (p : PartId) (job : Nat) {s : State} : Ends L s (execPreemptRequest p job s) := by
  dsimp only [execPreemptRequest]
  have h := only_refl L s
  repeat' first
    | with_reducible assumption
    | with_reducible apply only_lcTurn
    | with_reducible apply only_modClusters
    | with_reducible apply only_modJob
    | with_reducible apply ends_next
    | split
  all_goals exact within_sub (by decide) hL

theorem ends_execJobSave (hL : Within [.parts] L) (p : PartId) (job : Nat) {s : State} : Ends L s (execJobSave p job s) := by
  dsimp only [execJobSave]
  have h := only_refl L s
  repeat' first
    | with_reducible assumption
    | with_reducible apply only_modJob
    | with_reducible apply ends_next
    | split

theorem ends_execJobSaveComplete (hL : Within [.clusters, .mem, .parts] L) (p : PartId) (job : Nat) {s : State} : Ends L s (execJobSaveComplete p job s) := by
  dsimp only [execJobSaveComplete]
  have h := only_refl L s
  repeat' first
    | with_reducible assumption
    | with_reducible apply only_writeArea
    | with_reducible apply only_modClusters
    | with_reducible apply only_modJob
    | with_reducible apply ends_next
    | split
  all_goals exact within_sub (by decide) hL

theorem ends_execJobRestore (hL : Within [.free, .out, .unsent, .clusters, .mem, .memory, .parts, .fns, .buckets, .intr, .links] L) (p : PartId) (job : Nat)
    {s : State} : Ends L s (execJobRestore p job s) := by
  dsimp only [execJobRestore]
  have h := only_refl L s
  repeat' first
    | with_reducible assumption
    | with_reducible apply only_foldl
    | with_reducible apply only_foldl_fst
    | intro _ _ _
    | with_reducible apply only_badLine
    | with_reducible apply only_modCluster
    | with_reducible apply only_lcTurn
    | with_reducible apply only_modJob
    | with_reducible apply ends_next
    | split
  all_goals exact within_sub (by decide) hL

theorem ends_execYieldTimeout (hL : Within [.clusters, .intr] L) (c : ClusterId) {s : State} : Ends L s (execYieldTimeout c s) := by
  dsimp only [execYieldTimeout]
  have h := only_refl L s
  repeat' first
    | with_reducible assumption
    | with_reducible apply only_clusterFault
    | with_reducible apply ends_next
    | split

theorem ends_execJobFault (hL : Within [.free, .out, .unsent, .clusters, .stackTab, .engines, .mem, .memory, .parts, .fns, .buckets, .intr, .links, .sec,
    .spares] L) (p : PartId) (job : Nat) (code : BitVec 8) {s : State} : Ends L s (execJobFault p job code s) := by
  dsimp only [execJobFault]
  have h := only_refl L s
  repeat' first
    | with_reducible assumption
    | with_reducible apply only_faultDue
    | with_reducible apply only_jobFault
    | with_reducible apply only_endJob
    | with_reducible apply ends_next
    | split
  all_goals exact within_sub (by decide) hL

theorem only_wake (hL : Within [.parts] L) {s : State} (p i : Nat) (h : Only L s₀ s) : Only L s₀ (State.wake s p i) := by
  dsimp only [State.wake]
  repeat' first
    | with_reducible assumption
    | with_reducible apply only_setSeq
    | with_reducible apply only_modRound
    | split

theorem only_promote (hL : Within [.parts] L) {s : State} (p : Nat) (h : Only L s₀ s) : Only L s₀ (State.promote s p) := by
  dsimp only [State.promote]
  repeat' first
    | with_reducible assumption
    | with_reducible apply only_foldl
    | with_reducible apply only_foldl_fst
    | intro _ _ _
    | with_reducible apply only_modSeq
    | with_reducible apply only_wake
    | split

theorem only_pauseResume (hL : Within [.parts] L) {s : State} (p : Nat) (h : Only L s₀ s) : Only L s₀ (State.pauseResume s p) := by
  dsimp only [State.pauseResume]
  repeat' first
    | with_reducible assumption
    | with_reducible apply only_foldl
    | with_reducible apply only_foldl_fst
    | intro _ _ _
    | with_reducible apply only_modSeq
    | with_reducible apply only_wake
    | split

theorem only_growMap (hL : Within [.parts] L) {s : State} (p : Nat) (m : Model) (draft : Bool) (i n : Nat) (f : Nat) (h : Only L s₀ s) :
    OnlyL L s₀ (State.growMap s p m draft i n f) := by
  induction f generalizing s with
  | zero => exact onlyL_inl h
  | succ f ih =>
    dsimp only [State.growMap]
    repeat' first
      | with_reducible assumption
      | with_reducible apply ih
      | with_reducible apply onlyL_inl
      | exact onlyL_inr _
      | with_reducible apply only_modSeq
      | with_reducible apply only_modPrefix
      | with_reducible apply only_modRound
      | split
      | refine only_allocSet ?_ (by with_reducible assumption) ?_

theorem only_reallocSet (hL : Within [.free, .out, .unsent, .parts, .fns, .buckets] L) {s : State} (p : Nat) (draft : Bool) (j b : Nat) (h : Only L s₀ s) :
    OnlyL L s₀ (State.reallocSet s p draft j b) := by
  dsimp only [State.reallocSet]
  repeat' first
    | with_reducible assumption
    | with_reducible apply onlyL_inl
    | exact onlyL_inr _
    | with_reducible apply only_realloc
    | with_reducible apply only_modRound
    | split
    | refine only_inl (by with_reducible assumption) ?_
  all_goals exact within_sub (by decide) hL

theorem onlyL_foldl {α : Type} {f : State ⊕ Nat → α → State ⊕ Nat} (l : List α) {x : State ⊕ Nat} (h : OnlyL L s₀ x)
    (hf : ∀ y a, OnlyL L s₀ y → OnlyL L s₀ (f y a)) : OnlyL L s₀ (l.foldl f x) := by
  induction l generalizing x with
  | nil => exact h
  | cons a l ih => exact ih (hf x a h)

theorem only_reallocSpans (hL : Within [.free, .out, .unsent, .parts, .fns, .buckets] L) {s : State} (p : Nat) (e : RoundEntry) (it : Item) (h : Only L s₀ s) :
    OnlyL L s₀ (State.reallocSpans s p e it) := by
  unfold State.reallocSpans
  refine onlyL_foldl _ (onlyL_inl h) fun y d hy => ?_
  have main : ∀ t, Only L s₀ t → OnlyL L s₀ (match (s.recomputeMaps p e).1[it.position / 256 + d]? with
      | some b => t.reallocSet p false (it.position / 256 + d) b
      | none => .inl t) := by
    intro t ht
    split
    · exact only_reallocSet (within_sub (by decide) hL) _ _ _ _ ht
    · exact onlyL_inl ht
  cases y with
  | inr c => exact onlyL_inr c
  | inl t =>
    have ht := main t (only_inl rfl hy)
    dsimp only
    split
    next u b hu hb => exact only_reallocSet (within_sub (by decide) hL) _ _ _ _ (only_inl hu ht)
    next => exact ht

theorem only_allocItem (hL : Within [.free, .out, .unsent, .parts, .fns, .buckets] L) {s : State} (p : Nat) (m : Model) (it : Item) (h : Only L s₀ s) :
    OnlyL L s₀ (State.allocItem s p m it) := by
  dsimp only [State.allocItem]
  repeat' first
    | with_reducible assumption
    | with_reducible apply onlyL_inl
    | exact onlyL_inr _
    | with_reducible apply only_reallocSpans
    | with_reducible apply only_growMap
    | split
    | refine only_inl (by with_reducible assumption) ?_
  all_goals exact within_sub (by decide) hL

theorem only_allocItems (hL : Within [.free, .out, .unsent, .parts, .fns, .buckets] L) {s : State} (p : Nat) (m : Model) (l : List Item) (h : Only L s₀ s) :
    OnlyL L s₀ ((State.allocItems s p m) l) := by
  induction l generalizing s with
  | nil => exact onlyL_inl h
  | cons a l ih =>
    dsimp only [State.allocItems]
    repeat' first
      | with_reducible assumption
      | with_reducible apply ih
      | with_reducible apply onlyL_inl
      | exact onlyL_inr _
      | with_reducible apply only_allocItem
      | split
      | refine only_inl (by with_reducible assumption) ?_

/-- The step word at an address rises by 1 (07 R201): what a bump of the step does once the word's address is known. -/
def bumpWord (s : State) (p addr : Nat) : State :=
  match s.translate p addr with
  | none => s
  | some (_, pln) =>
    if addr % 4 ≠ 0 then s
    else match s.readLineFor (ctlOf pln) pln p true with
      | (t, none) =>
        (t.firmwareError p).modRound p (fun r => { r with sheet := r.sheet.map (fun z => { z with released := false }) })
      | (t, some l) => (t.mergeLine (ctlOf pln) pln p (8 * (addr % 64)) 32 ((lineNat l (addr % 64) 4 + 1) % 2 ^ 32)).1

theorem bumpStep_eq (s : State) (p : Nat) : s.bumpStep p = match s.servingJob p with
    | none => s
    | some j => bumpWord s p ((jArg j.desc 2).toNat + at_ 32 (jArg j.desc 3).toNat) := by
  unfold State.bumpStep bumpWord
  rfl

theorem only_bumpWord (hL : Within [.free, .out, .unsent, .stackTab, .mem, .memory, .parts, .fns, .buckets, .intr, .links, .sec, .spares] L) {s : State}
    (p addr : Nat) (h : Only L s₀ s) : Only L s₀ (bumpWord s p addr) := by
  unfold bumpWord
  repeat' first
    | with_reducible assumption
    | with_reducible apply only_modRound
    | with_reducible apply only_firmwareError
    | with_reducible apply only_mergeLine
    | with_reducible apply only_readLineFor
    | split
    | refine only_fst (by with_reducible assumption) ?_
  all_goals exact within_sub (by decide) hL

theorem only_bumpStep (hL : Within [.free, .out, .unsent, .stackTab, .mem, .memory, .parts, .fns, .buckets, .intr, .links, .sec, .spares] L) {s : State}
    (p : Nat) (h : Only L s₀ s) : Only L s₀ (State.bumpStep s p) := by
  rw [bumpStep_eq]
  split
  · exact h
  · exact only_bumpWord hL p _ h

theorem only_reserveTokens (hL : Within [.fns] L) {s : State} (p : Nat) (its : List Item) (h : Only L s₀ s) : Only L s₀ (State.reserveTokens s p its) := by
  dsimp only [State.reserveTokens]
  repeat' first
    | with_reducible assumption
    | with_reducible apply only_foldl
    | with_reducible apply only_foldl_fst
    | intro _ _ _
    | with_reducible apply only_modRing
    | split

theorem only_writeSheet (hL : Within [.free, .out, .unsent, .stackTab, .mem, .memory, .parts, .fns, .buckets, .intr, .links, .sec, .spares] L) {s : State}
    (p : Nat) (m : Model) (c : Comp) (h : Only L s₀ s) : OnlyL L s₀ (State.writeSheet s p m c) := by
  dsimp only [State.writeSheet]
  repeat' first
    | with_reducible assumption
    | with_reducible apply only_foldl
    | with_reducible apply only_foldl_fst
    | intro _ _ _
    | with_reducible apply onlyL_inl
    | exact onlyL_inr _
    | with_reducible apply only_modRound
    | with_reducible apply only_allocItems
    | with_reducible apply only_modSeq
    | with_reducible apply only_reserveTokens
    | with_reducible apply only_journalTime
    | with_reducible apply only_journal
    | with_reducible apply only_latch
    | with_reducible apply only_bumpStep
    | split
    | refine only_inl (by with_reducible assumption) ?_
  all_goals exact within_sub (by decide) hL

theorem only_composeSheet (hL : Within [.free, .out, .unsent, .stackTab, .mem, .memory, .parts, .fns, .buckets, .intr, .links, .sec, .time, .spares] L)
    {s : State} (p : Nat) (h : Only L s₀ s) : Only L s₀ (State.composeSheet s p) := by
  dsimp only [State.composeSheet]
  repeat' first
    | with_reducible assumption
    | with_reducible apply only_refillBudgets
    | with_reducible apply only_takeBudgets
    | with_reducible apply only_promote
    | with_reducible apply only_pauseResume
    | with_reducible apply only_modRound
    | with_reducible apply only_writeSheet
    | split
    | refine only_inl (by with_reducible assumption) ?_
  all_goals exact within_sub (by decide) hL

theorem only_buildSheet (hL : Within [.free, .out, .unsent, .stackTab, .mem, .memory, .parts, .fns, .buckets, .intr, .links, .sec, .time, .spares] L)
    {s : State} (p : Nat) (h : Only L s₀ s) : Only L s₀ (State.buildSheet s p) := by
  dsimp only [State.buildSheet]
  repeat' first
    | with_reducible assumption
    | with_reducible apply only_composeSheet
    | with_reducible apply only_useFree
    | with_reducible apply only_modRound
    | with_reducible apply only_failReplay
    | split
  all_goals exact within_sub (by decide) hL

theorem only_checkedBuild (hL : Within [.free, .out, .unsent, .stackTab, .mem, .memory, .parts, .fns, .buckets, .intr, .links, .sec, .time, .spares] L)
    {s : State} (p : Nat) (h : Only L s₀ s) : Only L s₀ (State.checkedBuild s p) := by
  dsimp only [State.checkedBuild]
  repeat' first
    | with_reducible assumption
    | with_reducible apply only_fwRead
    | with_reducible apply only_buildSheet
    | split
    | refine only_fst (by with_reducible assumption) ?_
  all_goals exact within_sub (by decide) hL

theorem ends_execRouteSheetBuild (hL : Within [.free, .out, .unsent, .clusters, .stackTab, .engines, .mem, .memory, .parts, .fns, .buckets, .intr, .links, .sec,
    .time, .spares] L) (p : PartId) {s : State} : Ends L s (execRouteSheetBuild p s) := by
  dsimp only [execRouteSheetBuild]
  have h := only_refl L s
  repeat' first
    | with_reducible assumption
    | with_reducible apply only_replayGuard
    | with_reducible apply only_checkedBuild
    | with_reducible apply ends_next
    | split
  all_goals exact within_sub (by decide) hL

theorem ends_execParcelAllocationResume (hL : Within [.free, .out, .unsent, .clusters, .stackTab, .engines, .mem, .memory, .parts, .fns, .buckets, .intr,
    .links, .sec, .time, .spares] L) (p : PartId) {s : State} : Ends L s (execParcelAllocationResume p s) := by
  dsimp only [execParcelAllocationResume]
  have h := only_refl L s
  repeat' first
    | with_reducible assumption
    | with_reducible apply only_replayGuard
    | with_reducible apply only_modRound
    | with_reducible apply only_checkedBuild
    | with_reducible apply ends_next
    | split
  all_goals exact within_sub (by decide) hL

theorem only_settle (hL : Within [.parts] L) {s : State} (p i : Nat) (draft : Bool) (start kv : Nat) (h : Only L s₀ s) : Only L s₀ (State.settle s p i draft start kv) := by
  dsimp only [State.settle]
  repeat' first
    | with_reducible assumption
    | with_reducible apply only_foldl
    | with_reducible apply only_foldl_fst
    | intro _ _ _
    | with_reducible apply only_freeParcels
    | with_reducible apply only_modParcel
    | with_reducible apply only_modSeq
    | split

theorem only_touch (hL : Within [.parts] L) {s : State} (p : Nat) (is : List Nat) (h : Only L s₀ s) : Only L s₀ (State.touch s p is) := by
  dsimp only [State.touch]
  repeat' first
    | with_reducible assumption
    | with_reducible apply only_foldl
    | with_reducible apply only_foldl_fst
    | intro _ _ _
    | with_reducible apply only_modParcel

theorem only_chunkScales (hL : Within [.free, .parts] L) {s : State} (p : Nat) (is : List Nat) (h : Only L s₀ s) : Only L s₀ (State.chunkScales s p is) := by
  dsimp only [State.chunkScales]
  repeat' first
    | with_reducible assumption
    | with_reducible apply only_foldl
    | with_reducible apply only_foldl_fst
    | intro _ _ _
    | with_reducible apply only_modParcel
    | with_reducible apply only_useFree
    | split
  all_goals exact within_sub (by decide) hL

theorem only_settleRecompute (hL : Within [.parts] L) {s : State} (p : Nat) (e : RoundEntry) (it : Item) (back : List Nat) (h : Only L s₀ s) :
    Only L s₀ (State.settleRecompute s p e it back) := by
  dsimp only [State.settleRecompute]
  repeat' first
    | with_reducible assumption
    | with_reducible apply only_foldl
    | with_reducible apply only_foldl_fst
    | intro _ _ _
    | with_reducible apply only_modParcel
    | with_reducible apply only_modRound
    | with_reducible apply only_modPrefix
    | with_reducible apply only_modSeq
    | split

theorem only_prefixReady (hL : Within [.parts] L) {s : State} (p k : Nat) (h : Only L s₀ s) : Only L s₀ (State.prefixReady s p k) := by
  dsimp only [State.prefixReady]
  repeat' first
    | with_reducible assumption
    | with_reducible apply only_foldl
    | with_reducible apply only_foldl_fst
    | intro _ _ _
    | with_reducible apply only_setPrefix
    | with_reducible apply only_setSeq
    | with_reducible apply only_wake
    | split

theorem only_wakeBuilder (hL : Within [.parts] L) {s : State} (p k : Nat) (h : Only L s₀ s) : Only L s₀ (State.wakeBuilder s p k) := by
  dsimp only [State.wakeBuilder]
  repeat' first
    | with_reducible assumption
    | with_reducible apply only_foldl
    | with_reducible apply only_foldl_fst
    | intro _ _ _
    | with_reducible apply only_wake
    | split

theorem only_finishPrefixes (hL : Within [.parts] L) {s : State} (p : Nat) (h : Only L s₀ s) : Only L s₀ (State.finishPrefixes s p) := by
  dsimp only [State.finishPrefixes]
  repeat' first
    | with_reducible assumption
    | with_reducible apply only_foldl
    | with_reducible apply only_foldl_fst
    | intro _ _ _
    | with_reducible apply only_prefixReady
    | with_reducible apply only_wakeBuilder
    | split

theorem only_returned (hL : Within [.free, .out, .unsent, .parts, .fns, .buckets] L) {s : State} (p i : Nat) (h : Only L s₀ s) : Only L s₀ (State.returned s p i) := by
  dsimp only [State.returned]
  repeat' first
    | with_reducible assumption
    | with_reducible apply only_foldl
    | with_reducible apply only_foldl_fst
    | intro _ _ _
    | with_reducible apply only_journalHappening
    | with_reducible apply only_returnParcel
    | with_reducible apply only_setPrefix
    | with_reducible apply only_setSeq
    | with_reducible apply only_modSeq
    | split
  all_goals exact within_sub (by decide) hL

theorem only_chargeItem (hL : Within [.parts] L) {s : State} (p : Nat) (e : RoundEntry) (it : Item) (c : Nat) (h : Only L s₀ s) : Only L s₀ (State.chargeItem s p e it c) := by
  dsimp only [State.chargeItem]
  repeat' first
    | with_reducible assumption
    | with_reducible apply only_modRound
    | split

theorem only_commitItem (hL : Within [.free, .engines, .parts] L) {s : State} (p : Nat) (sh : Sheet) (now : W64) (a : Item × ItemOutput) (h : Only L s₀ s) :
    Only L s₀ (State.commitItem s p sh now a).1 := by
  dsimp only [State.commitItem]
  repeat' first
    | with_reducible assumption
    | with_reducible apply only_settleRecompute
    | with_reducible apply only_modSeq
    | with_reducible apply only_advance
    | with_reducible apply only_setSeq
    | with_reducible apply only_settle
    | with_reducible apply only_chunkScales
    | with_reducible apply only_chargeItem
    | split
  all_goals exact within_sub (by decide) hL

theorem only_commitItems (hL : Within [.free, .engines, .parts] L) {s : State} (p : Nat) (sh : Sheet) (now : W64) (l : List (Item × ItemOutput))
    (h : Only L s₀ s) : Only L s₀ ((State.commitItems s p sh now) l).1 := by
  induction l generalizing s with
  | nil => exact h
  | cons a l ih =>
    dsimp only [State.commitItems]
    repeat' first
      | with_reducible assumption
      | with_reducible apply ih
      | with_reducible apply only_commitItem

theorem only_markLate (hL : Within [.out, .unsent, .parts, .fns, .buckets] L) {s : State} (p : Nat) (now : W64) (h : Only L s₀ s) : Only L s₀ (State.markLate s p now) := by
  dsimp only [State.markLate]
  repeat' first
    | with_reducible assumption
    | with_reducible apply only_foldl
    | with_reducible apply only_foldl_fst
    | intro _ _ _
    | with_reducible apply only_setSeq
    | with_reducible apply only_post
    | split
  all_goals exact within_sub (by decide) hL

theorem only_record (hL : Within [.free, .out, .unsent, .parts, .fns, .buckets] L) {s : State} (p : Nat) (now : W64) (y : Yield) (h : Only L s₀ s) :
    Only L s₀ (State.record s p now y) := by
  dsimp only [State.record]
  repeat' first
    | with_reducible assumption
    | with_reducible apply only_returnToken
    | with_reducible apply only_putRing
    | with_reducible apply only_endSeq
    | split
  all_goals exact within_sub (by decide) hL

theorem only_endOthers (hL : Within [.free, .out, .unsent, .parts, .fns, .buckets] L) {s : State} (p : Nat) (h : Only L s₀ s) : Only L s₀ (State.endOthers s p) := by
  dsimp only [State.endOthers]
  repeat' first
    | with_reducible assumption
    | with_reducible apply only_foldl
    | with_reducible apply only_foldl_fst
    | intro _ _ _
    | with_reducible apply only_endSeq
    | split

theorem only_measure (hL : Within [.free, .parts] L) {s : State} (p tau sigma dur : Nat) (h : Only L s₀ s) : Only L s₀ (State.measure s p tau sigma dur) := by
  dsimp only [State.measure]
  repeat' first
    | with_reducible assumption
    | with_reducible apply only_modRound
    | with_reducible apply only_useFree
    | split
  all_goals exact within_sub (by decide) hL

theorem only_checkStep (hL : Within [.free, .out, .unsent, .parts, .fns, .buckets] L) {s : State} (p : Nat) (h : Only L s₀ s) : Only L s₀ (State.checkStep s p) := by
  dsimp only [State.checkStep]
  repeat' first
    | with_reducible assumption
    | with_reducible apply only_useFree
    | with_reducible apply only_modPart
    | with_reducible apply only_journal
    | with_reducible apply only_failReplay
    | split
  all_goals exact within_sub (by decide) hL

theorem only_commitStep (hL : Within [.free, .out, .unsent, .stackTab, .engines, .parts, .fns, .buckets, .intr] L) {s : State} (p : Nat) (sh : Sheet)
    (outputs : List ItemOutput) (probe : List Byte) (h : Only L s₀ s) : Only L s₀ (State.commitStep s p sh outputs probe) := by
  dsimp only [State.commitStep]
  repeat' first
    | with_reducible assumption
    | with_reducible apply only_foldl
    | with_reducible apply only_foldl_fst
    | intro _ _ _
    | with_reducible apply only_journalTime
    | with_reducible apply only_touch
    | with_reducible apply only_setSeq
    | with_reducible apply only_commitItems
    | with_reducible apply only_returned
    | with_reducible apply only_modRound
    | with_reducible apply only_finishPrefixes
    | with_reducible apply only_markLate
    | with_reducible apply only_record
    | with_reducible apply only_endOthers
    | with_reducible apply only_journal
    | with_reducible apply only_checkStep
    | with_reducible apply only_addCredit
    | with_reducible apply only_measure
    | with_reducible apply only_boundary
    | with_reducible apply only_settleLevels
    | split
    | refine only_fst (by with_reducible assumption) ?_
  all_goals exact within_sub (by decide) hL

theorem ends_execCommit (hL : Within [.free, .out, .unsent, .clusters, .stackTab, .engines, .mem, .memory, .parts, .fns, .buckets, .intr, .links] L)
    (p : PartId) (outputs : List ItemOutput) (probe : List Byte) {s : State} : Ends L s (execCommit p outputs probe s) := by
  dsimp only [execCommit]
  have h := only_refl L s
  repeat' first
    | with_reducible assumption
    | with_reducible apply only_fwRead
    | with_reducible apply only_replayGuard
    | with_reducible apply only_commitStep
    | with_reducible apply ends_next
    | split
    | refine only_fst (by with_reducible assumption) ?_
  all_goals exact within_sub (by decide) hL

theorem only_undoSheet (hL : Within [.free, .out, .unsent, .parts, .fns, .buckets] L) {s : State} (p : Nat) (sh : Sheet) (h : Only L s₀ s) :
    Only L s₀ (State.undoSheet s p sh) := by
  dsimp only [State.undoSheet]
  repeat' first
    | with_reducible assumption
    | with_reducible apply only_foldl
    | with_reducible apply only_foldl_fst
    | intro _ _ _
    | with_reducible apply only_modRound
    | with_reducible apply only_freeParcels
    | with_reducible apply only_returnParcel
    | with_reducible apply only_returnToken
    | split
  all_goals exact within_sub (by decide) hL

theorem only_causeEffect (hL : Within [.free, .out, .unsent, .parts, .fns, .buckets] L) {s : State} (p : Nat) (c : AbandonCause) (h : Only L s₀ s) :
    Only L s₀ (State.causeEffect s p c) := by
  dsimp only [State.causeEffect]
  repeat' first
    | with_reducible assumption
    | with_reducible apply only_returned
    | with_reducible apply only_modRound
    | split
  all_goals exact within_sub (by decide) hL

theorem only_markKnown (hL : Within [.memory] L) {s : State} (c : AbandonCause) (h : Only L s₀ s) : Only L s₀ (State.markKnown s c) := by
  dsimp only [State.markKnown]
  repeat' first
    | with_reducible assumption
    | split
    | with_reducible apply only_set_memory

theorem only_abandon (hL : Within [.free, .out, .unsent, .clusters, .stackTab, .engines, .mem, .memory, .parts, .fns, .buckets, .intr, .links, .sec, .spares] L)
    {s : State} (p : Nat) (c : AbandonCause) (h : Only L s₀ s) : Only L s₀ (State.abandon s p c) := by
  dsimp only [State.abandon]
  repeat' first
    | with_reducible assumption
    | with_reducible apply only_markKnown
    | with_reducible apply only_abortRuns
    | with_reducible apply only_modClusters
    | with_reducible apply only_undoSheet
    | with_reducible apply only_modRound
    | with_reducible apply only_causeEffect
    | with_reducible apply only_settleLevels
    | with_reducible apply only_jobFault
    | with_reducible apply only_journalHappening
    | with_reducible apply only_postTo
    | split
  all_goals exact within_sub (by decide) hL

theorem ends_execStepAbandon (hL : Within [.free, .out, .unsent, .clusters, .stackTab, .engines, .mem, .memory, .parts, .fns, .buckets, .intr, .links, .sec,
    .spares] L) (p : PartId) (cause : AbandonCause) {s : State} : Ends L s (execStepAbandon p cause s) := by
  dsimp only [execStepAbandon]
  have h := only_refl L s
  repeat' first
    | with_reducible assumption
    | with_reducible apply only_replayGuard
    | with_reducible apply only_abandon
    | with_reducible apply ends_next
    | split
  all_goals exact within_sub (by decide) hL

theorem ends_execReissuedSheetRelease (hL : Within [.free, .out, .unsent, .clusters, .stackTab, .mem, .memory, .parts, .fns, .buckets, .intr, .links, .sec,
    .spares] L) (p : PartId) {s : State} : Ends L s (execReissuedSheetRelease p s) := by
  dsimp only [execReissuedSheetRelease]
  have h := only_refl L s
  repeat' first
    | with_reducible assumption
    | with_reducible apply only_modClusters
    | with_reducible apply only_modRound
    | with_reducible apply only_bumpStep
    | with_reducible apply ends_next
    | split
  all_goals exact within_sub (by decide) hL

theorem only_popQueue (hL : Within [.parts, .fns] L) {s : State} (q : CopyQueue) (h : Only L s₀ s) : Only L s₀ (State.popQueue s q) := by
  dsimp only [State.popQueue]
  repeat' first
    | with_reducible assumption
    | with_reducible apply only_popFetched
    | with_reducible apply only_modPart
    | split
  all_goals exact within_sub (by decide) hL

theorem only_unreserve (hL : Within [.fns] L) {s : State} (fn r : Nat) (h : Only L s₀ s) : Only L s₀ (State.unreserve s fn r) := by
  dsimp only [State.unreserve]
  repeat' first
    | with_reducible assumption
    | with_reducible apply only_modRing

theorem only_copyAnswer (hL : Within [.out, .unsent, .fns, .buckets] L) {s : State} (fn r typ status id detail detail2 started : Nat) (digest : List Byte)
    (h : Only L s₀ s) : Only L s₀ (State.copyAnswer s fn r typ status id detail detail2 started digest) := by
  dsimp only [State.copyAnswer]
  repeat' first
    | with_reducible assumption
    | with_reducible apply only_putRing

theorem only_faultDue (hL : Within [.parts] L) {s : State} (p : Nat) (h : Only L s₀ s) : Only L s₀ (State.faultDue s p) := by
  dsimp only [State.faultDue]
  repeat' first
    | with_reducible assumption
    | with_reducible apply only_modPart

theorem only_programError (hL : Within [.free, .out, .unsent, .clusters, .parts, .fns, .buckets] L) {s : State} (p pln : Nat) (h : Only L s₀ s) :
    Only L s₀ (State.programError s p pln) := by
  dsimp only [State.programError]
  repeat' first
    | with_reducible assumption
    | with_reducible apply only_addCause
    | with_reducible apply only_faultDue
    | with_reducible apply only_endJob
    | with_reducible apply only_useFree
    | split
  all_goals exact within_sub (by decide) hL

theorem only_endCopy (hL : Within [.free, .out, .unsent, .clusters, .parts, .copies, .fns, .buckets, .intr] L) {s : State} (c : CopyJob) (status : Nat)
    (err : Option Nat) (h : Only L s₀ s) : Only L s₀ (State.endCopy s c status err) := by
  dsimp only [State.endCopy]
  repeat' first
    | with_reducible assumption
    | with_reducible apply only_latch
    | with_reducible apply only_modPart
    | with_reducible apply only_copyAnswer
    | with_reducible apply only_unreserve
    | with_reducible apply only_programError
    | with_reducible apply only_faultDue
    | split
    | with_reducible apply only_set_copies
  all_goals exact within_sub (by decide) hL

theorem only_addCopy (hL : Within [.parts, .copies, .nextCopy] L) {s : State} (q : CopyQueue) (d : Line) (status : Nat) (err : Option Nat)
    (boxes : List (Nat × Nat × Nat)) (ext : List (Spot × Line)) (handles : List W32) (coll : Option Coll) (h : Only L s₀ s) :
    Only L s₀ (State.addCopy s q d status err boxes ext handles coll) := by
  dsimp only [State.addCopy]
  repeat' first
    | with_reducible assumption
    | with_reducible apply only_modPart
    | split
    | with_reducible apply only_set_copies
    | with_reducible apply only_set_nextCopy
    | with_reducible refine only_mk ?_ (.inl rfl) (.inl rfl) (.inl rfl) (.inl rfl) (.inl rfl) (.inl rfl) (.inl rfl) (.inl rfl) (.inl rfl) (.inl rfl)
                            (.inr (within_mem hL (by simp))) (.inr (within_mem hL (by simp))) (.inl rfl) (.inl rfl) (.inl rfl) (.inl rfl) (.inl rfl) (.inl rfl)
                            (.inl rfl) (.inl rfl) (.inl rfl)
  all_goals exact within_sub (by decide) hL

theorem only_listBytes (hL : Within [.free, .out, .unsent, .stackTab, .mem, .memory, .parts, .fns, .buckets, .intr, .links, .sec, .spares] L) {s : State}
    (p : Nat) (d : Line) (brought : Option (List Byte)) (h : Only L s₀ s) : Only L s₀ (State.listBytes s p d brought).1 := by
  dsimp only [State.listBytes]
  repeat' first
    | with_reducible assumption
    | with_reducible apply only_readAddrs
    | split
    | refine only_fst (by with_reducible assumption) ?_

theorem only_planCopy (hL : Within [.free, .out, .unsent, .stackTab, .mem, .memory, .parts, .fns, .buckets, .intr, .links, .sec, .spares] L) {s : State}
    (q : CopyQueue) (d : Line) (list : Option (List Byte)) (h : Only L s₀ s) : Only L s₀ (State.planCopy s q d list).1 := by
  dsimp only [State.planCopy]
  repeat' first
    | with_reducible assumption
    | with_reducible apply only_listBytes
    | split
    | refine only_fst (by with_reducible assumption) ?_

theorem only_checkHostRead (hL : Within [.free, .out, .unsent, .parts, .fns, .buckets] L) {s : State} (p : Nat) (h : Only L s₀ s) : Only L s₀ (State.checkHostRead s p) := by
  dsimp only [State.checkHostRead]
  repeat' first
    | with_reducible assumption
    | with_reducible apply only_useFree
    | with_reducible apply only_failReplay
    | split
  all_goals exact within_sub (by decide) hL

theorem only_startCopy (hL : Within [.free, .out, .unsent, .stackTab, .mem, .memory, .parts, .copies, .nextCopy, .fns, .buckets, .intr, .links, .sec, .spares]
    L) {s : State} (q : CopyQueue) (d : Line) (host list : Option (List Byte)) (h : Only L s₀ s) : Only L s₀ (State.startCopy s q d host list) := by
  dsimp only [State.startCopy]
  repeat' first
    | with_reducible assumption
    | with_reducible apply only_foldl
    | with_reducible apply only_foldl_fst
    | intro _ _ _
    | with_reducible apply only_popQueue
    | with_reducible apply only_planCopy
    | with_reducible apply only_addCopy
    | with_reducible apply only_toHost
    | with_reducible apply only_hostRead
    | with_reducible apply only_journal
    | with_reducible apply only_failReplay
    | with_reducible apply only_checkHostRead
    | with_reducible apply only_sendFor
    | with_reducible apply only_moveCopy
    | split
    | refine only_fst (by with_reducible assumption) ?_
  all_goals exact within_sub (by decide) hL

theorem only_beginCopy (hL : Within [.free, .out, .unsent, .clusters, .stackTab, .engines, .mem, .memory, .parts, .copies, .nextCopy, .fns, .buckets, .intr,
    .links, .sec, .spares] L) {s : State} (q : CopyQueue) (d : Line) (host list : Option (List Byte)) (h : Only L s₀ s) :
    Only L s₀ (State.beginCopy s q d host list) := by
  dsimp only [State.beginCopy]
  repeat' first
    | with_reducible assumption
    | with_reducible apply only_replayGuard
    | with_reducible apply only_startCopy
    | split
  all_goals exact within_sub (by decide) hL

theorem ends_execCopy (hL : Within [.free, .out, .unsent, .clusters, .stackTab, .engines, .mem, .memory, .parts, .copies, .nextCopy, .fns, .buckets, .intr,
    .links, .sec, .spares] L) (q : CopyQueue) (host : Option (List Byte)) {s : State} : Ends L s (execCopy q host s) := by
  dsimp only [execCopy]
  have h := only_refl L s
  repeat' first
    | with_reducible assumption
    | with_reducible apply only_beginCopy
    | with_reducible apply only_popQueue
    | with_reducible apply only_addCopy
    | with_reducible apply ends_next
    | split
  all_goals exact within_sub (by decide) hL

theorem ends_execGather (hL : Within [.free, .out, .unsent, .clusters, .stackTab, .engines, .mem, .memory, .parts, .copies, .nextCopy, .fns, .buckets, .intr,
    .links, .sec, .spares] L) (q : CopyQueue) (host list : Option (List Byte)) {s : State} : Ends L s (execGather q host list s) := by
  dsimp only [execGather]
  have h := only_refl L s
  repeat' first
    | with_reducible assumption
    | with_reducible apply only_beginCopy
    | with_reducible apply ends_next
    | split

theorem ends_execScatter (hL : Within [.free, .out, .unsent, .clusters, .stackTab, .engines, .mem, .memory, .parts, .copies, .nextCopy, .fns, .buckets, .intr,
    .links, .sec, .spares] L) (q : CopyQueue) (host list : Option (List Byte)) {s : State} : Ends L s (execScatter q host list s) := by
  dsimp only [execScatter]
  have h := only_refl L s
  repeat' first
    | with_reducible assumption
    | with_reducible apply only_beginCopy
    | with_reducible apply ends_next
    | split

theorem ends_execCollective (hL : Within [.free, .out, .unsent, .clusters, .quarters, .stackTab, .mem, .memory, .parts, .copies, .nextCopy, .fns, .buckets,
    .intr, .links, .sec, .spares] L) (q : CopyQueue) {s : State} : Ends L s (execCollective q s) := by
  dsimp only [execCollective]
  have h := only_refl L s
  repeat' first
    | with_reducible assumption
    | with_reducible apply only_foldl
    | with_reducible apply only_foldl_fst
    | intro _ _ _
    | with_reducible apply only_popQueue
    | with_reducible apply only_addCopy
    | with_reducible apply only_sendColl
    | with_reducible apply only_collTry
    | with_reducible apply ends_next
    | split
  all_goals exact within_sub (by decide) hL

theorem only_copySignal (hL : Within [.clusters] L) {s : State} (c : CopyJob) (h : Only L s₀ s) : Only L s₀ (State.copySignal s c) := by
  dsimp only [State.copySignal]
  repeat' first
    | with_reducible assumption
    | with_reducible apply only_modClusters
    | split

theorem only_copyAtomic (hL : Within [.free, .out, .unsent, .stackTab, .mem, .memory, .parts, .copies, .fns, .buckets, .intr, .links, .sec, .spares] L)
    {s : State} (c : CopyJob) (h : Only L s₀ s) : Only L s₀ (State.copyAtomic s c).1 := by
  dsimp only [State.copyAtomic]
  repeat' first
    | with_reducible assumption
    | with_reducible apply only_foldl
    | with_reducible apply only_foldl_fst
    | intro _ _ _
    | with_reducible apply only_sendFor
    | with_reducible apply only_readLine
    | with_reducible apply only_writeLine
    | split
    | refine only_fst (by with_reducible assumption) ?_
  all_goals exact within_sub (by decide) hL

theorem only_notifyCopy (hL : Within [.free, .out, .unsent, .clusters, .stackTab, .mem, .memory, .parts, .copies, .fns, .buckets, .intr, .links, .sec, .spares]
    L) {s : State} (c : CopyJob) (h : Only L s₀ s) : Only L s₀ (State.notifyCopy s c) := by
  dsimp only [State.notifyCopy]
  repeat' first
    | with_reducible assumption
    | with_reducible apply only_copySignal
    | with_reducible apply only_copyAtomic
    | with_reducible apply only_endCopy
    | with_reducible apply only_modCopy
    | split
    | refine only_fst (by with_reducible assumption) ?_
  all_goals exact within_sub (by decide) hL

theorem ends_execCopyComplete (hL : Within [.free, .out, .unsent, .clusters, .quarters, .stackTab, .mem, .memory, .parts, .copies, .fns, .buckets, .intr,
    .links, .sec, .spares] L) (id : Nat) (delivered : Bool) {s : State} : Ends L s (execCopyComplete id delivered s) := by
  dsimp only [execCopyComplete]
  have h := only_refl L s
  repeat' first
    | with_reducible assumption
    | with_reducible apply only_endCopy
    | with_reducible apply only_journal
    | with_reducible apply only_notifyCopy
    | with_reducible apply only_applyAny
    | with_reducible apply only_applyPieces
    | with_reducible apply only_hostRead
    | with_reducible apply only_modCopy
    | with_reducible apply ends_next
    | split
    | refine only_fst (by with_reducible assumption) ?_
  all_goals exact within_sub (by decide) hL

theorem ends_execCollectiveJoinTimeout (hL : Within [.free, .out, .unsent, .clusters, .parts, .copies, .fns, .buckets, .intr, .links] L) (id : Nat)
    {s : State} : Ends L s (execCollectiveJoinTimeout id s) := by
  dsimp only [execCollectiveJoinTimeout]
  have h := only_refl L s
  repeat' first
    | with_reducible assumption
    | with_reducible apply only_endCopy
    | with_reducible apply ends_next
    | split
    | with_reducible apply only_set_links
  all_goals exact within_sub (by decide) hL

theorem ends_execProgramCopyQueuePoll (hL : Within [.free, .out, .unsent, .clusters, .stackTab, .mem, .memory, .parts, .fns, .buckets, .intr, .links, .sec,
    .spares] L) (p : PartId) {s : State} : Ends L s (execProgramCopyQueuePoll p s) := by
  dsimp only [execProgramCopyQueuePoll]
  have h := only_refl L s
  repeat' first
    | with_reducible assumption
    | with_reducible apply only_readLine
    | with_reducible apply only_programError
    | with_reducible apply only_regionPut
    | with_reducible apply only_modPart
    | with_reducible apply only_takeTurn
    | with_reducible apply ends_next
    | split
    | refine only_fst (by with_reducible assumption) ?_
  all_goals exact within_sub (by decide) hL

theorem only_darvy (hL : Within [.out, .unsent, .engines, .parts, .fns, .buckets, .links] L) {s : State} (e op dt : Nat) (f : State → W64 → State)
    (hf : ∀ t i, Only L s₀ t → Only L s₀ (f t i)) (h : Only L s₀ s) : Only L s₀ (State.darvy s e op dt f) := by
  dsimp only [State.darvy]
  repeat' first
    | with_reducible assumption
    | apply hf
    | with_reducible apply only_modEngine
    | split
  all_goals exact within_sub (by decide) hL

theorem only_darvyEng (hL : Within [.out, .unsent, .engines, .parts, .fns, .buckets, .links] L) {s : State} (e op dt : Nat) (f : Engine → W64 → Engine)
    (h : Only L s₀ s) : Only L s₀ (State.darvyEng s e op dt f) := by
  dsimp only [State.darvyEng]
  repeat' first
    | with_reducible assumption
    | intro _ _ _
    | intro _ _
    | with_reducible apply only_darvy
    | with_reducible apply only_modEngine
    | split
  all_goals exact within_sub (by decide) hL

theorem only_advance (hL : Within [.engines] L) {s : State} (e : Nat) (h : Only L s₀ s) : Only L s₀ (State.advance s e) := by
  dsimp only [State.advance]
  repeat' first
    | with_reducible assumption
    | with_reducible apply only_modEngine

theorem ends_execDarvyNop (hL : Within [.out, .unsent, .engines, .parts, .fns, .buckets, .links] L) (e : EngineId) (dt : Nat) {s : State} : Ends L s (execDarvyNop e dt s) := by
  dsimp only [execDarvyNop]
  have h := only_refl L s
  repeat' first
    | with_reducible assumption
    | with_reducible apply only_darvyEng
    | with_reducible apply ends_next

theorem ends_execMovi (hL : Within [.out, .unsent, .engines, .parts, .fns, .buckets, .links] L) (e : EngineId) (dt : Nat) {s : State} : Ends L s (execMovi e dt s) := by
  dsimp only [execMovi]
  have h := only_refl L s
  repeat' first
    | with_reducible assumption
    | with_reducible apply only_darvyEng
    | with_reducible apply ends_next

theorem ends_execMovh (hL : Within [.out, .unsent, .engines, .parts, .fns, .buckets, .links] L) (e : EngineId) (dt : Nat) {s : State} : Ends L s (execMovh e dt s) := by
  dsimp only [execMovh]
  have h := only_refl L s
  repeat' first
    | with_reducible assumption
    | with_reducible apply only_darvyEng
    | with_reducible apply ends_next

theorem ends_execGetc (hL : Within [.out, .unsent, .engines, .parts, .fns, .buckets, .links] L) (e : EngineId) (dt : Nat) {s : State} : Ends L s (execGetc e dt s) := by
  dsimp only [execGetc]
  have h := only_refl L s
  repeat' first
    | with_reducible assumption
    | intro _ _ _
    | intro _ _
    | with_reducible apply only_darvy
    | with_reducible apply only_engineFail
    | with_reducible apply only_modEngine
    | with_reducible apply ends_next
    | split
  all_goals exact within_sub (by decide) hL

theorem ends_execDarvyAdd (hL : Within [.out, .unsent, .engines, .parts, .fns, .buckets, .links] L) (e : EngineId) (dt : Nat) {s : State} : Ends L s (execDarvyAdd e dt s) := by
  dsimp only [execDarvyAdd]
  have h := only_refl L s
  repeat' first
    | with_reducible assumption
    | with_reducible apply only_darvyEng
    | with_reducible apply ends_next

theorem ends_execDarvySub (hL : Within [.out, .unsent, .engines, .parts, .fns, .buckets, .links] L) (e : EngineId) (dt : Nat) {s : State} : Ends L s (execDarvySub e dt s) := by
  dsimp only [execDarvySub]
  have h := only_refl L s
  repeat' first
    | with_reducible assumption
    | with_reducible apply only_darvyEng
    | with_reducible apply ends_next

theorem ends_execDarvyShl (hL : Within [.out, .unsent, .engines, .parts, .fns, .buckets, .links] L) (e : EngineId) (dt : Nat) {s : State} : Ends L s (execDarvyShl e dt s) := by
  dsimp only [execDarvyShl]
  have h := only_refl L s
  repeat' first
    | with_reducible assumption
    | with_reducible apply only_darvyEng
    | with_reducible apply ends_next

theorem ends_execDarvyShr (hL : Within [.out, .unsent, .engines, .parts, .fns, .buckets, .links] L) (e : EngineId) (dt : Nat) {s : State} : Ends L s (execDarvyShr e dt s) := by
  dsimp only [execDarvyShr]
  have h := only_refl L s
  repeat' first
    | with_reducible assumption
    | with_reducible apply only_darvyEng
    | with_reducible apply ends_next

theorem ends_execLoop (hL : Within [.out, .unsent, .engines, .parts, .fns, .buckets, .links] L) (e : EngineId) (dt : Nat) {s : State} : Ends L s (execLoop e dt s) := by
  dsimp only [execLoop]
  have h := only_refl L s
  repeat' first
    | with_reducible assumption
    | intro _ _ _
    | intro _ _
    | with_reducible apply only_darvy
    | with_reducible apply only_modEngine
    | with_reducible apply ends_next
    | split
  all_goals exact within_sub (by decide) hL

theorem ends_execBz (hL : Within [.out, .unsent, .engines, .parts, .fns, .buckets, .links] L) (e : EngineId) (dt : Nat) {s : State} : Ends L s (execBz e dt s) := by
  dsimp only [execBz]
  have h := only_refl L s
  repeat' first
    | with_reducible assumption
    | intro _ _ _
    | intro _ _
    | with_reducible apply only_darvy
    | with_reducible apply only_modEngine
    | with_reducible apply ends_next
    | split
  all_goals exact within_sub (by decide) hL

theorem ends_execDarvyBr (hL : Within [.out, .unsent, .engines, .parts, .fns, .buckets, .links] L) (e : EngineId) (dt : Nat) {s : State} : Ends L s (execDarvyBr e dt s) := by
  dsimp only [execDarvyBr]
  have h := only_refl L s
  repeat' first
    | with_reducible assumption
    | intro _ _ _
    | intro _ _
    | with_reducible apply only_darvy
    | with_reducible apply only_modEngine
    | with_reducible apply ends_next
    | split
  all_goals exact within_sub (by decide) hL

theorem ends_execDarvyFmul (hL : Within [.out, .unsent, .engines, .parts, .fns, .buckets, .links] L) (e : EngineId) (dt : Nat) {s : State} : Ends L s (execDarvyFmul e dt s) := by
  dsimp only [execDarvyFmul]
  have h := only_refl L s
  repeat' first
    | with_reducible assumption
    | with_reducible apply only_darvyEng
    | with_reducible apply ends_next

theorem ends_execFrsq (hL : Within [.out, .unsent, .engines, .parts, .fns, .buckets, .links] L) (e : EngineId) (dt : Nat) {s : State} : Ends L s (execFrsq e dt s) := by
  dsimp only [execFrsq]
  have h := only_refl L s
  repeat' first
    | with_reducible assumption
    | with_reducible apply only_darvyEng
    | with_reducible apply ends_next

theorem ends_execYield (hL : Within [.out, .unsent, .engines, .parts, .fns, .buckets, .links] L) (e : EngineId) (dt : Nat) {s : State} : Ends L s (execYield e dt s) := by
  dsimp only [execYield]
  have h := only_refl L s
  repeat' first
    | with_reducible assumption
    | intro _ _ _
    | intro _ _
    | with_reducible apply only_darvy
    | with_reducible apply only_modEngine
    | with_reducible apply only_engineFail
    | with_reducible apply only_advance
    | with_reducible apply ends_next
    | split
  all_goals exact within_sub (by decide) hL

theorem ends_execYieldAct (hL : Within [.stackTab, .engines] L) (e : EngineId) (dt : Nat) {s : State} : Ends L s (execYieldAct e dt s) := by
  dsimp only [execYieldAct]
  have h := only_refl L s
  repeat' first
    | with_reducible assumption
    | with_reducible apply only_modEngine
    | with_reducible apply only_payDebt
    | with_reducible apply only_suspendNow
    | with_reducible apply only_withdraw
    | with_reducible apply ends_next
    | split
  all_goals exact within_sub (by decide) hL

theorem ends_execEngineRestEnd (hL : Within [.engines] L) (e : EngineId) {s : State} : Ends L s (execEngineRestEnd e s) := by
  dsimp only [execEngineRestEnd]
  have h := only_refl L s
  repeat' first
    | with_reducible assumption
    | with_reducible apply only_modEngine
    | with_reducible apply ends_next
    | split

theorem ends_execEnd_ (hL : Within [.out, .unsent, .engines, .parts, .fns, .buckets, .links] L) (e : EngineId) (dt : Nat) {s : State} : Ends L s (execEnd_ e dt s) := by
  dsimp only [execEnd_]
  have h := only_refl L s
  repeat' first
    | with_reducible assumption
    | intro _ _ _
    | intro _ _
    | with_reducible apply only_darvy
    | with_reducible apply only_modEngine
    | with_reducible apply only_engineFail
    | with_reducible apply ends_next
    | split
  all_goals exact within_sub (by decide) hL

theorem ends_execRunEnd (hL : Within [.out, .stackTab, .engines, .intr] L) (e : EngineId) (dt : Nat) {s : State} : Ends L s (execRunEnd e dt s) := by
  dsimp only [execRunEnd]
  have h := only_refl L s
  repeat' first
    | with_reducible assumption
    | with_reducible apply only_modEngine
    | with_reducible apply only_answerPacket
    | with_reducible apply only_payDebt
    | with_reducible apply only_levelOff
    | with_reducible apply ends_next
    | split
  all_goals exact within_sub (by decide) hL

theorem ends_execSliceOverrun (hL : Within [.engines] L) (e : EngineId) {s : State} : Ends L s (execSliceOverrun e s) := by
  dsimp only [execSliceOverrun]
  have h := only_refl L s
  repeat' first
    | with_reducible assumption
    | with_reducible apply only_modEngine
    | with_reducible apply ends_next
    | split

theorem ends_execSliceTimeout (hL : Within [.engines] L) (e : EngineId) {s : State} : Ends L s (execSliceTimeout e s) := by
  dsimp only [execSliceTimeout]
  have h := only_refl L s
  repeat' first
    | with_reducible assumption
    | with_reducible apply only_engineFail
    | with_reducible apply ends_next
    | split

end Sys2Proof.Proofs
end

section
/-! PROOF of the parts that losses, events, rings, the sieve, ports, frames, matrix and vector operations and partitions change. -/

namespace Sys2Proof.Proofs
open Sys2Proof Sys2Proof.Machine Sys2Proof.Laws

variable {L : List Fld} {s₀ : State}

theorem only_fetchLines (hL : Within [.free, .out, .unsent, .stackTab, .mem, .memory, .parts, .fns, .buckets, .intr, .links, .sec, .spares] L) {s : State}
    (e r off : Nat) (near : Bool) (l : Nat) (h : Only L s₀ s) : Only L s₀ ((State.fetchLines s e r off near) l).1 := by
  induction l generalizing s off with
  | zero => exact h
  | succ l ih =>
    dsimp only [State.fetchLines]
    repeat' first
      | with_reducible assumption
      | with_reducible apply ih
      | with_reducible apply only_readLine
      | split
      | refine only_fst (by with_reducible assumption) ?_

theorem only_storeLines (hL : Within [.mem] L) {s : State} (e r off : Nat) (near : Bool) (l : List (List Byte)) (h : Only L s₀ s) :
    Only L s₀ ((State.storeLines s e r off near) l).1 := by
  induction l generalizing s off with
  | nil => exact h
  | cons a l ih =>
    dsimp only [State.storeLines]
    repeat' first
      | with_reducible assumption
      | with_reducible apply ih
      | with_reducible apply only_writeLine
      | split

theorem ends_execScan (hL : Within [.out, .unsent, .engines, .parts, .fns, .buckets, .links] L) (e : EngineId) (dt : Nat) {s : State} : Ends L s (execScan e dt s) := by
  dsimp only [execScan]
  have h := only_refl L s
  repeat' first
    | with_reducible assumption
    | intro _ _ _
    | intro _ _
    | with_reducible apply only_darvy
    | with_reducible apply only_engineFail
    | with_reducible apply only_modEngine
    | with_reducible apply ends_next
    | split
  all_goals exact within_sub (by decide) hL

theorem only_beats (hL : Within [.free, .out, .unsent, .stackTab, .engines, .mem, .memory, .parts, .fns, .buckets, .intr, .links, .sec, .spares] L) {s : State}
    (e : Nat) (l : Nat) (h : Only L s₀ s) : Only L s₀ ((State.beats s e) l).1 := by
  induction l generalizing s with
  | zero => exact h
  | succ l ih =>
    dsimp only [State.beats]
    repeat' first
      | with_reducible assumption
      | with_reducible apply ih
      | with_reducible apply only_fetchLines
      | with_reducible apply only_modEngine
      | split
      | refine only_fst (by with_reducible assumption) ?_
    all_goals exact within_sub (by decide) hL

theorem ends_execFetch (hL : Within [.free, .out, .unsent, .stackTab, .engines, .mem, .memory, .parts, .fns, .buckets, .intr, .links, .sec, .spares] L)
    (e : EngineId) (dt : Nat) {s : State} : Ends L s (execFetch e dt s) := by
  dsimp only [execFetch]
  have h := only_refl L s
  repeat' first
    | with_reducible assumption
    | intro _ _ _
    | intro _ _
    | with_reducible apply only_darvy
    | with_reducible apply only_engineFail
    | with_reducible apply only_fetchLines
    | with_reducible apply only_modEngine
    | with_reducible apply ends_next
    | split
    | refine only_fst (by with_reducible assumption) ?_
  all_goals exact within_sub (by decide) hL

theorem only_storeFrom (hL : Within [.out, .unsent, .engines, .mem, .parts, .fns, .buckets, .links] L) {s : State} (e op dt : Nat) (near : Bool)
    (h : Only L s₀ s) : Only L s₀ (State.storeFrom s e op dt near) := by
  dsimp only [State.storeFrom]
  repeat' first
    | with_reducible assumption
    | intro _ _ _
    | intro _ _
    | with_reducible apply only_darvy
    | with_reducible apply only_engineFail
    | with_reducible apply only_storeLines
    | with_reducible apply only_advance
    | split
    | refine only_fst (by with_reducible assumption) ?_
  all_goals exact within_sub (by decide) hL

theorem ends_execStl (hL : Within [.out, .unsent, .engines, .mem, .parts, .fns, .buckets, .links] L) (e : EngineId) (dt : Nat) {s : State} : Ends L s (execStl e dt s) := by
  dsimp only [execStl]
  have h := only_refl L s
  repeat' first
    | with_reducible assumption
    | with_reducible apply only_storeFrom
    | with_reducible apply ends_next

theorem ends_execWrl (hL : Within [.out, .unsent, .engines, .mem, .parts, .fns, .buckets, .links] L) (e : EngineId) (dt : Nat) {s : State} : Ends L s (execWrl e dt s) := by
  dsimp only [execWrl]
  have h := only_refl L s
  repeat' first
    | with_reducible assumption
    | with_reducible apply only_storeFrom
    | with_reducible apply ends_next

theorem ends_execAppend (hL : Within [.out, .unsent, .engines, .mem, .parts, .fns, .buckets, .links] L) (e : EngineId) (dt : Nat) {s : State} : Ends L s (execAppend e dt s) := by
  dsimp only [execAppend]
  have h := only_refl L s
  repeat' first
    | with_reducible assumption
    | intro _ _ _
    | intro _ _
    | with_reducible apply only_darvy
    | with_reducible apply only_engineFail
    | with_reducible apply only_storeLines
    | with_reducible apply only_advance
    | with_reducible apply ends_next
    | split
    | refine only_fst (by with_reducible assumption) ?_
  all_goals exact within_sub (by decide) hL

theorem ends_execQset (hL : Within [.out, .unsent, .engines, .parts, .fns, .buckets, .links] L) (e : EngineId) (dt : Nat) {s : State} : Ends L s (execQset e dt s) := by
  dsimp only [execQset]
  have h := only_refl L s
  repeat' first
    | with_reducible assumption
    | intro _ _ _
    | intro _ _
    | with_reducible apply only_darvy
    | with_reducible apply only_engineFail
    | with_reducible apply only_modEngine
    | with_reducible apply ends_next
    | split
  all_goals exact within_sub (by decide) hL

theorem ends_execDot (hL : Within [.free, .out, .unsent, .stackTab, .engines, .mem, .memory, .parts, .fns, .buckets, .intr, .links, .sec, .spares] L)
    (e : EngineId) (dt : Nat) {s : State} : Ends L s (execDot e dt s) := by
  dsimp only [execDot]
  have h := only_refl L s
  repeat' first
    | with_reducible assumption
    | intro _ _ _
    | intro _ _
    | with_reducible apply only_foldl
    | with_reducible apply only_foldl_fst
    | intro _ _ _
    | with_reducible apply only_darvy
    | with_reducible apply only_beats
    | with_reducible apply only_engineFail
    | with_reducible apply only_modEngine
    | with_reducible apply ends_next
    | split
    | refine only_fst (by with_reducible assumption) ?_
  all_goals exact within_sub (by decide) hL

theorem ends_execExpm (hL : Within [.out, .unsent, .engines, .parts, .fns, .buckets, .links] L) (e : EngineId) (dt : Nat) {s : State} : Ends L s (execExpm e dt s) := by
  dsimp only [execExpm]
  have h := only_refl L s
  repeat' first
    | with_reducible assumption
    | with_reducible apply only_darvyEng
    | with_reducible apply ends_next

theorem ends_execAccv (hL : Within [.free, .out, .unsent, .stackTab, .engines, .mem, .memory, .parts, .fns, .buckets, .intr, .links, .sec, .spares] L)
    (e : EngineId) (dt : Nat) {s : State} : Ends L s (execAccv e dt s) := by
  dsimp only [execAccv]
  have h := only_refl L s
  repeat' first
    | with_reducible assumption
    | intro _ _ _
    | intro _ _
    | with_reducible apply only_darvy
    | with_reducible apply only_beats
    | with_reducible apply only_engineFail
    | with_reducible apply only_modEngine
    | with_reducible apply ends_next
    | split
    | refine only_fst (by with_reducible assumption) ?_
  all_goals exact within_sub (by decide) hL

/-- The state that the merge unit leaves, if it takes or refuses the partial. -/
def OnlyTaken (L : List Fld) (s : State) : Taken → Prop
  | .taken t => Only L s t
  | .stalls => True
  | .fault t => Only L s t

theorem onlyTaken_taken {s t : State} (h : Only L s t) : OnlyTaken L s (.taken t) := h

theorem onlyTaken_stalls {s : State} : OnlyTaken L s .stalls := trivial

theorem onlyTaken_fault {s t : State} (h : Only L s t) : OnlyTaken L s (.fault t) := h

theorem only_emitOne (hL : Within [.free, .out, .stackTab, .intr] L) {s : State} (e p n : Nat) (h : Only L s₀ s) : OnlyTaken L s₀ (State.emitOne s e p n) := by
  dsimp only [State.emitOne]
  repeat' first
    | with_reducible assumption
    | with_reducible apply only_useFree
    | with_reducible apply only_setSlot
    | with_reducible apply only_answerPacket
    | with_reducible apply onlyTaken_taken
    | with_reducible apply onlyTaken_stalls
    | with_reducible apply onlyTaken_fault
    | split
  all_goals exact within_sub (by decide) hL

theorem only_emitAllOf (hL : Within [.free, .out, .stackTab, .intr] L) {s : State} (e : Nat) (w : W64) (l : List Nat) (h : Only L s₀ s) :
    OnlyTaken L s₀ (State.emitAllOf s e w l) := by
  induction l generalizing s with
  | nil => exact h
  | cons p l ih =>
    have hone := only_emitOne hL e p (fld w (9 * p + 8) (9 * p)) h
    unfold State.emitAllOf
    split
    next t ht =>
      rw [ht] at hone
      exact ih hone
    next => exact hone

theorem only_taken {t : State} {x : Taken} (hx : x = .taken t) (h : OnlyTaken L s₀ x) : Only L s₀ t := by
  subst hx
  exact h

theorem only_refused {t : State} {x : Taken} (hx : x = .fault t) (h : OnlyTaken L s₀ x) : Only L s₀ t := by
  subst hx
  exact h

theorem ends_execEmit (hL : Within [.free, .out, .unsent, .stackTab, .engines, .parts, .fns, .buckets, .intr, .links] L) (e : EngineId) (dt : Nat) {s : State} :
    Ends L s (execEmit e dt s) := by
  dsimp only [execEmit]
  have h := only_refl L s
  repeat' first
    | with_reducible assumption
    | intro _ _ _
    | with_reducible apply ends_next
    | with_reducible apply only_darvy
    | with_reducible apply only_engineFail
    | with_reducible apply only_emitAllOf
    | with_reducible apply only_advance
    | with_reducible apply only_modEngine
    | with_reducible apply only_useFree
    | split
    | refine only_taken (by with_reducible assumption) ?_
    | refine only_refused (by with_reducible assumption) ?_
  all_goals exact within_sub (by decide) hL

theorem only_laneOp (hL : Within [.out, .unsent, .engines, .parts, .fns, .buckets, .links] L) {s : State} (e op dt : Nat) (vBytes : Engine → W64 → Nat)
    (f : Engine → W64 → Engine) (h : Only L s₀ s) : Only L s₀ (State.laneOp s e op dt vBytes f) := by
  dsimp only [State.laneOp]
  repeat' first
    | with_reducible assumption
    | intro _ _ _
    | intro _ _
    | with_reducible apply only_darvy
    | with_reducible apply only_modEngine
    | with_reducible apply only_engineFail
    | split
  all_goals exact within_sub (by decide) hL

theorem ends_execLadd (hL : Within [.out, .unsent, .engines, .parts, .fns, .buckets, .links] L) (e : EngineId) (dt : Nat) {s : State} : Ends L s (execLadd e dt s) := by
  dsimp only [execLadd]
  have h := only_refl L s
  repeat' first
    | with_reducible assumption
    | with_reducible apply only_laneOp
    | with_reducible apply ends_next

theorem ends_execLmul (hL : Within [.out, .unsent, .engines, .parts, .fns, .buckets, .links] L) (e : EngineId) (dt : Nat) {s : State} : Ends L s (execLmul e dt s) := by
  dsimp only [execLmul]
  have h := only_refl L s
  repeat' first
    | with_reducible assumption
    | with_reducible apply only_laneOp
    | with_reducible apply ends_next

theorem ends_execLssq (hL : Within [.out, .unsent, .engines, .parts, .fns, .buckets, .links] L) (e : EngineId) (dt : Nat) {s : State} : Ends L s (execLssq e dt s) := by
  dsimp only [execLssq]
  have h := only_refl L s
  repeat' first
    | with_reducible assumption
    | with_reducible apply only_foldl
    | with_reducible apply only_foldl_fst
    | intro _ _ _
    | with_reducible apply only_laneOp
    | with_reducible apply ends_next

theorem ends_execLcvt (hL : Within [.out, .unsent, .engines, .parts, .fns, .buckets, .links] L) (e : EngineId) (dt : Nat) {s : State} : Ends L s (execLcvt e dt s) := by
  dsimp only [execLcvt]
  have h := only_refl L s
  repeat' first
    | with_reducible assumption
    | with_reducible apply only_laneOp
    | with_reducible apply ends_next

theorem ends_execRope (hL : Within [.out, .unsent, .engines, .parts, .fns, .buckets, .links] L) (e : EngineId) (dt : Nat) {s : State} : Ends L s (execRope e dt s) := by
  dsimp only [execRope]
  have h := only_refl L s
  repeat' first
    | with_reducible assumption
    | with_reducible apply only_laneOp
    | with_reducible apply ends_next

theorem ends_execBankEngineFault (hL : Within [.out, .stackTab, .engines, .parts, .intr] L) (e : EngineId) {s : State} : Ends L s (execBankEngineFault e s) := by
  dsimp only [execBankEngineFault]
  have h := only_refl L s
  repeat' first
    | with_reducible assumption
    | with_reducible apply only_unqueue
    | with_reducible apply only_modEngine
    | with_reducible apply only_payDebt
    | with_reducible apply only_answerPacket
    | with_reducible apply only_levelOff
    | with_reducible apply only_addCause
    | with_reducible apply only_modPart
    | with_reducible apply only_faultDue
    | with_reducible apply ends_next
    | split
  all_goals exact within_sub (by decide) hL

theorem only_zeroShareWindow (hL : Within [.quarters] L) {s : State} (sh : Nat) (h : Only L s₀ s) : Only L s₀ (State.zeroShareWindow s sh) := by
  dsimp only [State.zeroShareWindow]
  repeat' first
    | with_reducible assumption
    | with_reducible apply only_modQuarter

theorem only_zeroScratch (hL : Within [.clusters] L) {s : State} (cs : List Nat) (h : Only L s₀ s) : Only L s₀ (State.zeroScratch s cs) := by
  dsimp only [State.zeroScratch]
  repeat' first
    | with_reducible assumption
    | with_reducible apply only_modClusters

theorem only_zeroShares (hL : Within [.clusters, .quarters] L) {s : State} (shares : List Nat) (h : Only L s₀ s) : Only L s₀ (State.zeroShares s shares) := by
  dsimp only [State.zeroShares]
  repeat' first
    | with_reducible assumption
    | with_reducible apply only_foldl
    | with_reducible apply only_foldl_fst
    | intro _ _ _
    | with_reducible apply only_zeroShareWindow
    | with_reducible apply only_zeroScratch
    | split
  all_goals exact within_sub (by decide) hL

theorem only_zeroChanged (hL : Within [.clusters, .quarters] L) {s : State} (old new : BitVec 48) (h : Only L s₀ s) : Only L s₀ (State.zeroChanged s old new) := by
  dsimp only [State.zeroChanged]
  repeat' first
    | with_reducible assumption
    | with_reducible apply only_foldl
    | with_reducible apply only_foldl_fst
    | intro _ _ _
    | with_reducible apply only_zeroShareWindow
    | with_reducible apply only_zeroScratch
    | split
  all_goals exact within_sub (by decide) hL

theorem only_dropRegion (hL : Within [.free, .out, .unsent, .stackTab, .mem, .memory, .parts, .fns, .buckets, .intr, .links, .sec, .spares] L) {s : State}
    (n : Nat) (h : Only L s₀ s) : Only L s₀ (State.dropRegion s n) := by
  dsimp only [State.dropRegion]
  repeat' first
    | with_reducible assumption
    | with_reducible apply only_leaveRegion
    | with_reducible apply only_blankRegion
    | with_reducible apply only_modRegion
    | split
  all_goals exact within_sub (by decide) hL

theorem only_leaveShares (hL : Within [.out, .unsent, .memory, .parts, .fns, .buckets] L) {s : State} (p : Nat) (h : Only L s₀ s) : Only L s₀ (State.leaveShares s p) := by
  dsimp only [State.leaveShares]
  repeat' first
    | with_reducible assumption
    | with_reducible apply only_foldl
    | with_reducible apply only_foldl_fst
    | intro _ _ _
    | with_reducible apply only_invalidate
    | with_reducible apply only_modRegion
    | split
  all_goals exact within_sub (by decide) hL

theorem only_blankGroups (hL : Within [.mem] L) {s : State} (p : Nat) (h : Only L s₀ s) : Only L s₀ (State.blankGroups s p) := by
  dsimp only [State.blankGroups]
  repeat' first
    | with_reducible assumption
    | with_reducible apply only_blankWhere

theorem only_dropTensors (hL : Within [.parts] L) {s : State} (p : Nat) (h : Only L s₀ s) : Only L s₀ (State.dropTensors s p) := by
  dsimp only [State.dropTensors]
  repeat' first
    | with_reducible assumption
    | with_reducible apply only_modPart

theorem only_stopCopies (hL : Within [.free, .out, .unsent, .clusters, .quarters, .stackTab, .mem, .memory, .parts, .copies, .fns, .buckets, .intr, .links,
    .sec, .spares] L) {s : State} (p : Nat) (h : Only L s₀ s) : Only L s₀ (State.stopCopies s p) := by
  dsimp only [State.stopCopies]
  repeat' first
    | with_reducible assumption
    | with_reducible apply only_foldl
    | with_reducible apply only_foldl_fst
    | intro _ _ _
    | with_reducible apply only_applyAny
    | split
    | with_reducible apply only_set_copies
    | with_reducible apply only_set_links
    | with_reducible refine only_mk ?_ (.inl rfl) (.inl rfl) (.inl rfl) (.inl rfl) (.inl rfl) (.inl rfl) (.inl rfl) (.inl rfl) (.inl rfl) (.inl rfl)
                            (.inr (within_mem hL (by simp))) (.inl rfl) (.inl rfl) (.inl rfl) (.inl rfl) (.inr (within_mem hL (by simp))) (.inl rfl) (.inl rfl)
                            (.inl rfl) (.inl rfl) (.inl rfl)
  all_goals exact within_sub (by decide) hL

theorem only_failCopies (hL : Within [.free, .out, .unsent, .clusters, .quarters, .stackTab, .mem, .memory, .parts, .copies, .fns, .buckets, .intr, .links,
    .sec, .spares] L) {s : State} (p status : Nat) (h : Only L s₀ s) : Only L s₀ (State.failCopies s p status) := by
  dsimp only [State.failCopies]
  repeat' first
    | with_reducible assumption
    | with_reducible apply only_foldl
    | with_reducible apply only_foldl_fst
    | intro _ _ _
    | with_reducible apply only_applyAny
    | with_reducible apply only_endCopy
    | with_reducible apply only_stopCopies
    | split
  all_goals exact within_sub (by decide) hL

theorem only_endWork (hL : Within [.free, .out, .unsent, .clusters, .stackTab, .engines, .mem, .memory, .parts, .fns, .buckets, .intr, .links, .sec, .spares] L)
    {s : State} (p : Nat) (h : Only L s₀ s) : Only L s₀ (State.endWork s p) := by
  dsimp only [State.endWork]
  repeat' first
    | with_reducible assumption
    | with_reducible apply only_foldl
    | with_reducible apply only_foldl_fst
    | intro _ _ _
    | with_reducible apply only_stopPartition
    | with_reducible apply only_endJob
    | with_reducible apply only_endRequests
    | with_reducible apply only_emptyRound
    | split
  all_goals exact within_sub (by decide) hL

theorem only_tdiFails (hL : Within [.parts] L) {s : State} (p : Nat) (h : Only L s₀ s) : Only L s₀ (State.tdiFails s p) := by
  dsimp only [State.tdiFails]
  repeat' first
    | with_reducible assumption
    | with_reducible apply only_modPart

theorem only_stopJournal (hL : Within [.out, .unsent, .parts, .fns, .buckets] L) {s : State} (p : Nat) (h : Only L s₀ s) : Only L s₀ (State.stopJournal s p) := by
  dsimp only [State.stopJournal]
  repeat' first
    | with_reducible assumption
    | with_reducible apply only_modPart
    | with_reducible apply only_journal
    | split
  all_goals exact within_sub (by decide) hL

theorem only_destroyKeys (hL : Within [.parts, .sec] L) {s : State} (p : Nat) (h : Only L s₀ s) : Only L s₀ (State.destroyKeys s p) := by
  dsimp only [State.destroyKeys]
  repeat' first
    | with_reducible assumption
    | with_reducible apply only_modRound
    | split
    | with_reducible apply only_set_sec
  all_goals exact within_sub (by decide) hL

theorem only_newPair (hL : Within [.free, .sec] L) {s : State} (p : Nat) (h : Only L s₀ s) : Only L s₀ (State.newPair s p) := by
  dsimp only [State.newPair]
  repeat' first
    | with_reducible assumption
    | with_reducible apply only_useFree
    | split
    | with_reducible apply only_set_sec
  all_goals exact within_sub (by decide) hL

theorem only_newPoste (hL : Within [.free, .parts] L) {s : State} (p : Nat) (h : Only L s₀ s) : Only L s₀ (State.newPoste s p) := by
  dsimp only [State.newPoste]
  repeat' first
    | with_reducible assumption
    | with_reducible apply only_useFree
    | with_reducible apply only_modRound
    | split
  all_goals exact within_sub (by decide) hL

theorem only_beginRelease (hL : Within [.free, .out, .unsent, .clusters, .stackTab, .engines, .mem, .memory, .parts, .fns, .buckets, .intr, .links, .sec,
    .spares] L) {s : State} (p : Nat) (h : Only L s₀ s) : Only L s₀ (State.beginRelease s p) := by
  dsimp only [State.beginRelease]
  repeat' first
    | with_reducible assumption
    | with_reducible apply only_foldl
    | with_reducible apply only_foldl_fst
    | intro _ _ _
    | with_reducible apply only_endWork
    | with_reducible apply only_journal
    | with_reducible apply only_stopJournal
    | with_reducible apply only_tdiFails
    | with_reducible apply only_modPart
    | with_reducible apply only_leaveRegion
    | with_reducible apply only_setRegionState
    | with_reducible apply only_leaveShares
    | with_reducible apply only_dropTensors
    | with_reducible apply only_destroyKeys
    | split
  all_goals exact within_sub (by decide) hL

theorem only_emptyPart (hL : Within [.out, .unsent, .parts, .fns, .buckets] L) {s : State} (p : Nat) (h : Only L s₀ s) : Only L s₀ (State.emptyPart s p) := by
  dsimp only [State.emptyPart]
  repeat' first
    | with_reducible assumption
    | with_reducible apply only_modPart
    | with_reducible apply only_journal
    | split
  all_goals exact within_sub (by decide) hL

theorem only_finishRelease (hL : Within [.free, .out, .unsent, .clusters, .quarters, .stackTab, .mem, .memory, .parts, .fns, .buckets, .intr, .links, .sec,
    .spares] L) {s : State} (p : Nat) (h : Only L s₀ s) : Only L s₀ (State.finishRelease s p) := by
  dsimp only [State.finishRelease]
  repeat' first
    | with_reducible assumption
    | with_reducible apply only_foldl
    | with_reducible apply only_foldl_fst
    | intro _ _ _
    | with_reducible apply only_dropRegion
    | with_reducible apply only_leaveShares
    | with_reducible apply only_blankGroups
    | with_reducible apply only_zeroShares
    | with_reducible apply only_dropTensors
    | with_reducible apply only_emptyPart
    | split
  all_goals exact within_sub (by decide) hL

theorem only_terminate (hL : Within [.free, .out, .unsent, .clusters, .quarters, .stackTab, .engines, .mem, .memory, .parts, .copies, .fns, .buckets, .intr,
    .links, .sec, .spares] L) {s : State} (p cause : Nat) (h : Only L s₀ s) : Only L s₀ (State.terminate s p cause) := by
  dsimp only [State.terminate]
  repeat' first
    | with_reducible assumption
    | with_reducible apply only_foldl
    | with_reducible apply only_foldl_fst
    | intro _ _ _
    | with_reducible apply only_destroyKeys
    | with_reducible apply only_endWork
    | with_reducible apply only_failCopies
    | with_reducible apply only_stopJournal
    | with_reducible apply only_tdiFails
    | with_reducible apply only_modPart
    | with_reducible apply only_leaveRegion
    | with_reducible apply only_setRegionState
    | with_reducible apply only_dropTensors
    | split
    | with_reducible apply only_set_sec
  all_goals exact within_sub (by decide) hL

theorem only_cutRings (hL : Within [.fns] L) {s : State} (fn : Nat) (h : Only L s₀ s) : Only L s₀ (State.cutRings s fn) := by
  dsimp only [State.cutRings]
  repeat' first
    | with_reducible assumption
    | with_reducible apply only_modFn

theorem only_loseWork (hL : Within [.free, .out, .unsent, .clusters, .quarters, .stackTab, .engines, .mem, .memory, .parts, .copies, .fns, .buckets, .intr,
    .links, .sec, .spares] L) {s : State} (p : Nat) (h : Only L s₀ s) : Only L s₀ (State.loseWork s p) := by
  dsimp only [State.loseWork]
  repeat' first
    | with_reducible assumption
    | with_reducible apply only_modClusters
    | with_reducible apply only_abortRuns
    | with_reducible apply only_stopCopies
    | with_reducible apply only_emptyRound
    | with_reducible apply only_modRound
    | with_reducible apply only_stopJournal
    | with_reducible apply only_modPart
    | with_reducible apply only_faultDue
    | split
  all_goals exact within_sub (by decide) hL

theorem only_losePart (hL : Within [.free, .out, .unsent, .clusters, .quarters, .stackTab, .engines, .mem, .memory, .parts, .copies, .fns, .buckets, .intr,
    .links, .sec, .spares] L) {s : State} (p cause : Nat) (h : Only L s₀ s) : Only L s₀ (State.losePart s p cause) := by
  dsimp only [State.losePart]
  repeat' first
    | with_reducible assumption
    | with_reducible apply only_loseWork
    | with_reducible apply only_dropTensors
    | with_reducible apply only_blankFw
    | with_reducible apply only_modPart
    | with_reducible apply only_tdiFails
    | with_reducible apply only_destroyKeys
    | split
    | with_reducible apply only_set_sec
  all_goals exact within_sub (by decide) hL

theorem only_dropUnrepairable (hL : Within [.free, .out, .unsent, .stackTab, .mem, .memory, .parts, .fns, .buckets, .intr, .links, .sec, .spares] L) {s : State}
    (h : Only L s₀ s) : Only L s₀ (State.dropUnrepairable s) := by
  dsimp only [State.dropUnrepairable]
  repeat' first
    | with_reducible assumption
    | with_reducible apply only_foldl
    | with_reducible apply only_foldl_fst
    | intro _ _ _
    | with_reducible apply only_dropRegion

theorem only_stopModule (hL : Within [.free, .out, .unsent, .clusters, .quarters, .stackTab, .engines, .mem, .memory, .parts, .copies, .fns, .buckets, .intr,
    .links, .sec, .spares] L) {s : State} (h : Only L s₀ s) : Only L s₀ (State.stopModule s) := by
  dsimp only [State.stopModule]
  repeat' first
    | with_reducible assumption
    | with_reducible apply only_foldl
    | with_reducible apply only_foldl_fst
    | intro _ _ _
    | with_reducible apply only_abortOne
    | with_reducible apply only_stopCopies
    | with_reducible apply only_endSessions
    | with_reducible apply only_cutRings
    | split
    | with_reducible apply only_set_clusters
    | with_reducible apply only_set_stackTab
    | with_reducible apply only_set_links
    | with_reducible refine only_mk ?_ (.inl rfl) (.inl rfl) (.inl rfl) (.inr (within_mem hL (by simp))) (.inl rfl) (.inr (within_mem hL (by simp))) (.inl rfl)
                            (.inl rfl) (.inl rfl) (.inl rfl) (.inl rfl) (.inl rfl) (.inl rfl) (.inl rfl) (.inl rfl) (.inr (within_mem hL (by simp))) (.inl rfl)
                            (.inl rfl) (.inl rfl) (.inl rfl) (.inl rfl)
  all_goals exact within_sub (by decide) hL

theorem only_interruptCommand (hL : Within [.partCtl] L) {s : State} (h : Only L s₀ s) : Only L s₀ (State.interruptCommand s) := by
  dsimp only [State.interruptCommand]
  repeat' first
    | with_reducible assumption
    | split
    | with_reducible apply only_set_partCtl

theorem only_dropSieves (hL : Within [.free, .memory] L) {s : State} (h : Only L s₀ s) : Only L s₀ (State.dropSieves s) := by
  dsimp only [State.dropSieves]
  repeat' first
    | with_reducible assumption
    | with_reducible apply only_useFree
    | split
    | with_reducible apply only_set_memory
  all_goals exact within_sub (by decide) hL

theorem only_restartCores (hL : Within [.intr] L) {s : State} (h : Only L s₀ s) : Only L s₀ (State.restartCores s) := by
  dsimp only [State.restartCores]
  repeat' first
    | with_reducible assumption
    | split
    | with_reducible apply only_set_intr

theorem only_wideLoss (hL : Within [.free, .out, .unsent, .clusters, .quarters, .stackTab, .engines, .mem, .memory, .parts, .partCtl, .copies, .fns, .buckets,
    .intr, .links, .sec, .module, .spares] L) {s : State} (cause : Nat) (h : Only L s₀ s) : Only L s₀ (State.wideLoss s cause) := by
  dsimp only [State.wideLoss]
  repeat' first
    | with_reducible assumption
    | with_reducible apply only_foldl
    | with_reducible apply only_foldl_fst
    | intro _ _ _
    | with_reducible apply only_stopModule
    | with_reducible apply only_dropUnrepairable
    | with_reducible apply only_interruptCommand
    | with_reducible apply only_losePart
    | with_reducible apply only_dropSieves
    | with_reducible apply only_restartCores
    | split
    | with_reducible apply only_set_memory
    | with_reducible apply only_set_module
    | with_reducible refine only_mk ?_ (.inl rfl) (.inl rfl) (.inl rfl) (.inl rfl) (.inl rfl) (.inl rfl) (.inl rfl) (.inr (within_mem hL (by simp))) (.inl rfl)
                            (.inl rfl) (.inl rfl) (.inl rfl) (.inl rfl) (.inl rfl) (.inl rfl) (.inl rfl) (.inl rfl) (.inl rfl) (.inl rfl)
                            (.inr (within_mem hL (by simp))) (.inl rfl)
  all_goals exact within_sub (by decide) hL

theorem ends_execSummaryWrite (hL : Within [.out, .unsent, .fns, .buckets] L) (fn : FnId) {s : State} : Ends L s (execSummaryWrite fn s) := by
  dsimp only [execSummaryWrite]
  have h := only_refl L s
  repeat' first
    | with_reducible assumption
    | with_reducible apply only_summaries
    | with_reducible apply ends_next
    | split

theorem only_refillBuckets (hL : Within [.buckets] L) {s : State} (k : Nat) (h : Only L s₀ s) : Only L s₀ (State.refillBuckets s k) := by
  dsimp only [State.refillBuckets]
  repeat' first
    | with_reducible assumption
    | with_reducible apply only_foldl
    | with_reducible apply only_foldl_fst
    | intro _ _ _
    | split
    | with_reducible apply only_set_buckets

theorem ends_execEventTokenRefill (hL : Within [.buckets, .time] L) {s : State} : Ends L s (execEventTokenRefill s) := by
  dsimp only [execEventTokenRefill]
  have h := only_refl L s
  repeat' first
    | with_reducible assumption
    | with_reducible apply only_refillBuckets
    | with_reducible apply ends_next
    | split
    | with_reducible apply only_set_time
  all_goals exact within_sub (by decide) hL

theorem only_setEvtMask (hL : Within [.fns, .regs] L) {s : State} (fn : Nat) (value : W64) (h : Only L s₀ s) : Only L s₀ (State.setEvtMask s fn value) := by
  dsimp only [State.setEvtMask]
  repeat' first
    | with_reducible assumption
    | with_reducible apply only_setReg
    | with_reducible apply only_modFn
    | split
  any_goals exact within_sub (by decide) hL
  all_goals (unfold FreeKey regKey; omega)

theorem only_setEvtRate (hL : Within [.regs] L) {s : State} (b : Nat) (value : W64) (hb : b < 16) (h : Only L s₀ s) : Only L s₀ (State.setEvtRate s b value) := by
  dsimp only [State.setEvtRate]
  repeat' first
    | with_reducible assumption
    | with_reducible apply only_setReg
    | split
  all_goals (unfold FreeKey regKey; omega)

theorem only_clearPulses (hL : Within [.intr] L) {s : State} (value : W64) (h : Only L s₀ s) : Only L s₀ (State.clearPulses s value) := by
  dsimp only [State.clearPulses]
  repeat' first
    | with_reducible assumption
    | split
    | with_reducible apply only_set_intr

theorem ends_execEvtMaskWrite (hL : Within [.fns, .regs] L) (fn : FnId) (value : W64) {s : State} : Ends L s (execEvtMaskWrite fn value s) := by
  dsimp only [execEvtMaskWrite]
  have h := only_refl L s
  repeat' first
    | with_reducible assumption
    | with_reducible apply only_setEvtMask
    | with_reducible apply ends_next
    | split

theorem ends_execEvtRateWrite (hL : Within [.regs] L) (fn : FnId) (block : Fin 16) (value : W64) {s : State} : Ends L s (execEvtRateWrite fn block value s) := by
  dsimp only [execEvtRateWrite]
  have h := only_refl L s
  repeat' first
    | with_reducible assumption
    | with_reducible apply only_setEvtRate
    | with_reducible apply ends_next
    | split
  all_goals exact block.isLt

theorem ends_execClearPulses (hL : Within [.intr] L) (fn : FnId) (value : W64) {s : State} : Ends L s (execClearPulses fn value s) := by
  dsimp only [execClearPulses]
  have h := only_refl L s
  repeat' first
    | with_reducible assumption
    | with_reducible apply only_clearPulses
    | with_reducible apply ends_next
    | split

theorem only_unmask (hL : Within [.out, .unsent, .fns] L) {s : State} (fn : Nat) (h : Only L s₀ s) : Only L s₀ (State.unmask s fn) := by
  dsimp only [State.unmask]
  repeat' first
    | with_reducible assumption
    | with_reducible apply only_modFn
    | with_reducible apply only_toHost
    | split
  all_goals exact within_sub (by decide) hL

theorem ends_execMsixUnmask (hL : Within [.out, .unsent, .fns] L) (fn : FnId) {s : State} : Ends L s (execMsixUnmask fn s) := by
  dsimp only [execMsixUnmask]
  have h := only_refl L s
  repeat' first
    | with_reducible assumption
    | with_reducible apply only_unmask
    | with_reducible apply ends_next
    | split

theorem only_fastReturns (hL : Within [.intr] L) {s : State} (c : Nat) (h : Only L s₀ s) : Only L s₀ (State.fastReturns s c) := by
  dsimp only [State.fastReturns]
  repeat' first
    | with_reducible assumption
    | with_reducible apply only_modIcLine
    | with_reducible apply only_modCore
    | split

theorem only_normalReturns (hL : Within [.intr] L) {s : State} (c : Nat) (h : Only L s₀ s) : Only L s₀ (State.normalReturns s c) := by
  dsimp only [State.normalReturns]
  repeat' first
    | with_reducible assumption
    | with_reducible apply only_modIcLine
    | with_reducible apply only_modCore
    | split

theorem ends_execFastInterrupt (hL : Within [.intr] L) (core : CoreId) {s : State} : Ends L s (execFastInterrupt core s) := by
  dsimp only [execFastInterrupt]
  have h := only_refl L s
  repeat' first
    | with_reducible assumption
    | with_reducible apply only_fastReturns
    | with_reducible apply only_modIcLine
    | with_reducible apply only_modCore
    | with_reducible apply ends_next
    | split

theorem ends_execNormalInterrupt (hL : Within [.free, .intr] L) (core : CoreId) {s : State} : Ends L s (execNormalInterrupt core s) := by
  dsimp only [execNormalInterrupt]
  have h := only_refl L s
  repeat' first
    | with_reducible assumption
    | with_reducible apply only_fastReturns
    | with_reducible apply only_normalReturns
    | with_reducible apply only_useFree
    | with_reducible apply only_modIcLine
    | with_reducible apply only_modCore
    | with_reducible apply ends_next
    | split
  all_goals exact within_sub (by decide) hL

theorem ends_execEvtIcClaim (hL : Within [.free, .out, .intr] L) (core : CoreId) {s : State} : Ends L s (execEvtIcClaim core s) := by
  dsimp only [execEvtIcClaim]
  have h := only_refl L s
  repeat' first
    | with_reducible assumption
    | with_reducible apply only_useFree
    | with_reducible apply only_emit
    | with_reducible apply only_modIcLine
    | with_reducible apply only_modCore
    | with_reducible apply ends_next
    | split
  all_goals exact within_sub (by decide) hL

theorem ends_execFastHandlerOverrun (hL : Within [.free, .out, .unsent, .clusters, .quarters, .stackTab, .engines, .mem, .memory, .parts, .partCtl, .copies,
    .fns, .buckets, .intr, .links, .sec, .module, .spares] L) (core : CoreId) {s : State} : Ends L s (execFastHandlerOverrun core s) := by
  dsimp only [execFastHandlerOverrun]
  have h := only_refl L s
  repeat' first
    | with_reducible assumption
    | with_reducible apply only_wideLoss
    | with_reducible apply ends_next
    | split
    | with_reducible apply only_set_spares
  all_goals exact within_sub (by decide) hL

theorem only_setThrottle (hL : Within [.intr] L) {s : State} (v : Bool) (h : Only L s₀ s) : Only L s₀ (State.setThrottle s v) := by
  dsimp only [State.setThrottle]
  repeat' first
    | with_reducible assumption
    | with_reducible apply only_latch
    | split
    | with_reducible apply only_set_intr

theorem ends_execThrottleNEdge (hL : Within [.intr] L) (high : Bool) {s : State} : Ends L s (execThrottleNEdge high s) := by
  dsimp only [execThrottleNEdge]
  have h := only_refl L s
  repeat' first
    | with_reducible assumption
    | with_reducible apply ends_next
    | split
    | with_reducible apply only_set_intr

theorem ends_execThrottleNAccept (hL : Within [.intr] L) {s : State} : Ends L s (execThrottleNAccept s) := by
  dsimp only [execThrottleNAccept]
  have h := only_refl L s
  repeat' first
    | with_reducible assumption
    | with_reducible apply only_setThrottle
    | with_reducible apply ends_next
    | split
    | with_reducible apply only_set_intr

theorem ends_execThrottleFastEnd (hL : Within [.out, .unsent, .fns, .buckets, .intr] L) {s : State} : Ends L s (execThrottleFastEnd s) := by
  dsimp only [execThrottleFastEnd]
  have h := only_refl L s
  repeat' first
    | with_reducible assumption
    | with_reducible apply only_setThrottle
    | with_reducible apply only_post
    | with_reducible apply ends_next
    | split
    | with_reducible apply only_set_intr
  all_goals exact within_sub (by decide) hL

theorem ends_execThrottleNStuck (hL : Within [.out, .unsent, .fns, .buckets, .intr, .module] L) {s : State} : Ends L s (execThrottleNStuck s) := by
  dsimp only [execThrottleNStuck]
  have h := only_refl L s
  repeat' first
    | with_reducible assumption
    | with_reducible apply only_post
    | with_reducible apply ends_next
    | split
    | with_reducible apply only_set_intr
    | with_reducible apply only_set_module
    | with_reducible refine only_mk ?_ (.inl rfl) (.inl rfl) (.inl rfl) (.inl rfl) (.inl rfl) (.inl rfl) (.inl rfl) (.inl rfl) (.inl rfl) (.inl rfl) (.inl rfl)
                            (.inl rfl) (.inl rfl) (.inl rfl) (.inr (within_mem hL (by simp))) (.inl rfl) (.inl rfl) (.inl rfl) (.inl rfl)
                            (.inr (within_mem hL (by simp))) (.inl rfl)
  all_goals exact within_sub (by decide) hL

theorem ends_execThrottleStuckClear (hL : Within [.intr] L) {s : State} : Ends L s (execThrottleStuckClear s) := by
  dsimp only [execThrottleStuckClear]
  have h := only_refl L s
  repeat' first
    | with_reducible assumption
    | with_reducible apply ends_next
    | split
    | with_reducible apply only_set_intr

theorem only_evict (hL : Within [.parts] L) {s : State} (p k : Nat) (h : Only L s₀ s) : Only L s₀ (State.evict s p k) := by
  dsimp only [State.evict]
  repeat' first
    | with_reducible assumption
    | with_reducible apply only_unshare
    | with_reducible apply only_setPrefix
    | split

theorem only_takeSpan (hL : Within [.free, .out, .unsent, .parts, .fns, .buckets] L) {s : State} (p : Nat) (is : List Nat) (h : Only L s₀ s) :
    Only L s₀ (State.takeSpan s p is) := by
  dsimp only [State.takeSpan]
  repeat' first
    | with_reducible assumption
    | with_reducible apply only_foldl
    | with_reducible apply only_foldl_fst
    | intro _ _ _
    | with_reducible apply only_modParcel
    | with_reducible apply only_modRound
    | with_reducible apply only_returned
    | split
  all_goals exact within_sub (by decide) hL

theorem only_takeSeq (hL : Within [.free, .out, .unsent, .parts, .fns, .buckets] L) {s : State} (p st i : Nat) (h : Only L s₀ s) : Only L s₀ (State.takeSeq s p st i) := by
  dsimp only [State.takeSeq]
  repeat' first
    | with_reducible assumption
    | with_reducible apply only_foldl
    | with_reducible apply only_foldl_fst
    | intro _ _ _
    | with_reducible apply only_takeSpan
    | with_reducible apply only_modSeq
    | split
  all_goals exact within_sub (by decide) hL

theorem only_relieve (hL : Within [.free, .out, .unsent, .parts, .fns, .buckets] L) {s : State} (p st : Nat) (h : Only L s₀ s) : Only L s₀ (State.relieve s p st) := by
  dsimp only [State.relieve]
  repeat' first
    | with_reducible assumption
    | with_reducible apply only_foldl
    | with_reducible apply only_foldl_fst
    | intro _ _ _
    | with_reducible apply only_evict
    | with_reducible apply only_takeSeq
    | with_reducible apply only_modSeq
    | split
  all_goals exact within_sub (by decide) hL

theorem ends_execRelief (hL : Within [.free, .out, .unsent, .clusters, .stackTab, .engines, .parts, .fns, .buckets, .intr] L) (p : PartId) (st : StackId)
    {s : State} : Ends L s (execRelief p st s) := by
  dsimp only [execRelief]
  have h := only_refl L s
  repeat' first
    | with_reducible assumption
    | with_reducible apply only_replayGuard
    | with_reducible apply only_relieve
    | with_reducible apply ends_next
    | split
  all_goals exact within_sub (by decide) hL

theorem only_readParcel (hL : Within [.free, .out, .unsent, .stackTab, .mem, .memory, .parts, .fns, .buckets, .intr, .links, .sec, .spares] L) {s : State}
    (p pln : Nat) (l : Nat) (h : Only L s₀ s) : Only L s₀ ((State.readParcel s p pln) l).1 := by
  induction l generalizing s pln with
  | zero => exact h
  | succ l ih =>
    dsimp only [State.readParcel]
    repeat' first
      | with_reducible assumption
      | with_reducible apply ih
      | with_reducible apply only_readLine
      | split
      | refine only_fst (by with_reducible assumption) ?_

theorem ends_execSpillComplete (hL : Within [.free, .out, .unsent, .clusters, .stackTab, .engines, .mem, .memory, .parts, .fns, .buckets, .intr, .links, .sec,
    .spares] L) (p : PartId) (ledger : Nat) {s : State} : Ends L s (execSpillComplete p ledger s) := by
  dsimp only [execSpillComplete]
  have h := only_refl L s
  repeat' first
    | with_reducible assumption
    | with_reducible apply only_readParcel
    | with_reducible apply only_replayGuard
    | with_reducible apply only_returned
    | with_reducible apply only_hostWrite
    | with_reducible apply only_modRound
    | with_reducible apply only_modParcel
    | with_reducible apply only_journalHappening
    | with_reducible apply ends_next
    | split
    | refine only_fst (by with_reducible assumption) ?_
  all_goals exact within_sub (by decide) hL

theorem only_fetchParcel (hL : Within [.out, .unsent, .parts] L) {s : State} (p i k : Nat) (hint : Bool) (h : Only L s₀ s) : Only L s₀ (State.fetchParcel s p i k hint) := by
  dsimp only [State.fetchParcel]
  repeat' first
    | with_reducible assumption
    | with_reducible apply only_modParcel
    | with_reducible apply only_hostRead
    | split
  all_goals exact within_sub (by decide) hL

theorem ends_execPosteRestanteFetch (hL : Within [.out, .unsent, .parts] L) (p : PartId) (seq : Nat) {s : State} : Ends L s (execPosteRestanteFetch p seq s) := by
  dsimp only [execPosteRestanteFetch]
  have h := only_refl L s
  repeat' first
    | with_reducible assumption
    | with_reducible apply only_foldl
    | with_reducible apply only_foldl_fst
    | intro _ _ _
    | with_reducible apply only_fetchParcel
    | with_reducible apply ends_next
    | split

theorem only_writeParcel (hL : Within [.mem] L) {s : State} (pln : Nat) (bs : List Byte) (h : Only L s₀ s) : Only L s₀ (State.writeParcel s pln bs) := by
  dsimp only [State.writeParcel]
  repeat' first
    | with_reducible assumption
    | with_reducible apply only_foldl
    | with_reducible apply only_foldl_fst
    | intro _ _ _
    | with_reducible apply only_writeLine

theorem only_fetchedBack (hL : Within [.parts] L) {s : State} (p : Nat) (h : Only L s₀ s) : Only L s₀ (State.fetchedBack s p) := by
  dsimp only [State.fetchedBack]
  repeat' first
    | with_reducible assumption
    | with_reducible apply only_modRound

theorem ends_execFetchBackComplete (hL : Within [.free, .out, .unsent, .clusters, .stackTab, .engines, .mem, .parts, .fns, .buckets, .intr] L) (p : PartId)
    (ledger : Nat) (cipher : Option (List Byte × Line)) {s : State} : Ends L s (execFetchBackComplete p ledger cipher s) := by
  dsimp only [execFetchBackComplete]
  have h := only_refl L s
  repeat' first
    | with_reducible assumption
    | with_reducible apply only_writeParcel
    | with_reducible apply only_modRound
    | with_reducible apply only_modParcel
    | with_reducible apply only_journalHappening
    | with_reducible apply only_fetchedBack
    | with_reducible apply only_replayGuard
    | with_reducible apply only_returned
    | with_reducible apply only_post
    | with_reducible apply ends_next
    | split
  all_goals exact within_sub (by decide) hL

theorem only_popRequest (hL : Within [.parts, .fns] L) {s : State} (fn r : Nat) (h : Only L s₀ s) : Only L s₀ (State.popRequest s fn r) := by
  dsimp only [State.popRequest]
  repeat' first
    | with_reducible assumption
    | with_reducible apply only_popFetched
    | with_reducible apply only_modRound
    | split
  all_goals exact within_sub (by decide) hL

theorem ends_execSubmit (hL : Within [.free, .out, .unsent, .parts, .fns, .buckets] L) (fn : FnId) (r : RingId) {s : State} : Ends L s (execSubmit fn r s) := by
  dsimp only [execSubmit]
  have h := only_refl L s
  repeat' first
    | with_reducible assumption
    | with_reducible apply only_popRequest
    | with_reducible apply only_journalTime
    | with_reducible apply only_answer
    | with_reducible apply only_modRound
    | with_reducible apply only_hostRead
    | with_reducible apply ends_next
    | split
  all_goals exact within_sub (by decide) hL

theorem only_enterRound (hL : Within [.parts] L) {s : State} (p i : Nat) (d : Line) (toks : List W32) (e : RoundEntry) (h : Only L s₀ s) :
    Only L s₀ (State.enterRound s p i d toks e) := by
  dsimp only [State.enterRound]
  repeat' first
    | with_reducible assumption
    | with_reducible apply only_foldl
    | with_reducible apply only_foldl_fst
    | intro _ _ _
    | with_reducible apply only_setSeq
    | with_reducible apply only_modPrefix
    | with_reducible apply only_setPrefix
    | with_reducible apply only_modParcel
    | split

theorem ends_execPromptFetchComplete (hL : Within [.free, .out, .unsent, .parts, .fns, .buckets] L) (p : PartId) (request : W32) (tokens : Option (List W32))
    {s : State} : Ends L s (execPromptFetchComplete p request tokens s) := by
  dsimp only [execPromptFetchComplete]
  have h := only_refl L s
  repeat' first
    | with_reducible assumption
    | with_reducible apply only_modRound
    | with_reducible apply only_answer
    | with_reducible apply only_journal
    | with_reducible apply only_enterRound
    | with_reducible apply ends_next
    | split
  all_goals exact within_sub (by decide) hL

theorem only_acted (hL : Within [.free, .out, .unsent, .parts, .fns, .buckets] L) {s : State} (fn r : Nat) (d : Line) (st : Nat) (h : Only L s₀ s) :
    Only L s₀ (State.acted s fn r d st) := by
  dsimp only [State.acted]
  repeat' first
    | with_reducible assumption
    | with_reducible apply only_popRequest
    | with_reducible apply only_answer
    | split
  all_goals exact within_sub (by decide) hL

theorem ends_execCancel (hL : Within [.free, .out, .unsent, .parts, .fns, .buckets] L) (fn : FnId) (r : RingId) {s : State} : Ends L s (execCancel fn r s) := by
  dsimp only [execCancel]
  have h := only_refl L s
  repeat' first
    | with_reducible assumption
    | with_reducible apply only_acted
    | with_reducible apply only_setSeq
    | with_reducible apply ends_next
    | split
  all_goals exact within_sub (by decide) hL

theorem ends_execPrefixSetList (hL : Within [.free, .out, .unsent, .parts, .fns, .buckets] L) (fn : FnId) (r : RingId) {s : State} : Ends L s (execPrefixSetList fn r s) := by
  dsimp only [execPrefixSetList]
  have h := only_refl L s
  repeat' first
    | with_reducible assumption
    | with_reducible apply only_acted
    | with_reducible apply only_modPrefix
    | with_reducible apply ends_next
    | split
  all_goals exact within_sub (by decide) hL

theorem ends_execPrefixEvict (hL : Within [.free, .out, .unsent, .parts, .fns, .buckets] L) (fn : FnId) (r : RingId) {s : State} : Ends L s (execPrefixEvict fn r s) := by
  dsimp only [execPrefixEvict]
  have h := only_refl L s
  repeat' first
    | with_reducible assumption
    | with_reducible apply only_acted
    | with_reducible apply only_evict
    | with_reducible apply ends_next
    | split
  all_goals exact within_sub (by decide) hL

theorem ends_execHint (hL : Within [.free, .out, .unsent, .parts, .fns, .buckets] L) (fn : FnId) (r : RingId) {s : State} : Ends L s (execHint fn r s) := by
  dsimp only [execHint]
  have h := only_refl L s
  repeat' first
    | with_reducible assumption
    | with_reducible apply only_acted
    | with_reducible apply only_modRound
    | with_reducible apply ends_next
    | split
  all_goals exact within_sub (by decide) hL

theorem ends_execBudgetRefill (hL : Within [.parts, .buckets, .time] L) (p : PartId) {s : State} : Ends L s (execBudgetRefill p s) := by
  dsimp only [execBudgetRefill]
  have h := only_refl L s
  repeat' first
    | with_reducible assumption
    | with_reducible apply only_refillBudgets
    | with_reducible apply ends_next
    | split

theorem ends_execBestEffortCredit (hL : Within [.parts, .time] L) (p : PartId) (spare : Nat) {s : State} : Ends L s (execBestEffortCredit p spare s) := by
  dsimp only [execBestEffortCredit]
  have h := only_refl L s
  repeat' first
    | with_reducible assumption
    | with_reducible apply only_foldl
    | with_reducible apply only_foldl_fst
    | intro _ _ _
    | with_reducible apply only_addCredit
    | with_reducible apply only_setMark
    | with_reducible apply ends_next
    | split
  all_goals exact within_sub (by decide) hL

theorem only_flushHost (hL : Within [.out, .unsent] L) {s : State} (h : Only L s₀ s) : Only L s₀ (State.flushHost s) := by
  dsimp only [State.flushHost]
  repeat' first
    | with_reducible assumption
    | split
    | with_reducible apply only_set_out
    | with_reducible apply only_set_unsent
    | with_reducible refine only_mk ?_ (.inl rfl) (.inr (within_mem hL (by simp))) (.inr (within_mem hL (by simp))) (.inl rfl) (.inl rfl) (.inl rfl) (.inl rfl)
                            (.inl rfl) (.inl rfl) (.inl rfl) (.inl rfl) (.inl rfl) (.inl rfl) (.inl rfl) (.inl rfl) (.inl rfl) (.inl rfl) (.inl rfl) (.inl rfl)
                            (.inl rfl) (.inl rfl)

theorem only_dropIde (hL : Within [.fns] L) {s : State} (h : Only L s₀ s) : Only L s₀ (State.dropIde s) := by
  dsimp only [State.dropIde]
  repeat' first
    | with_reducible assumption
    | split
    | with_reducible apply only_set_fns

theorem ends_execPcieLinkTrained (hL : Within [.out, .unsent, .fns, .intr, .module] L) (width gts : Nat) (flit : Bool) {s : State} :
    Ends L s (execPcieLinkTrained width gts flit s) := by
  dsimp only [execPcieLinkTrained]
  have h := only_refl L s
  repeat' first
    | with_reducible assumption
    | with_reducible apply only_dropIde
    | with_reducible apply only_flushHost
    | with_reducible apply only_latch
    | with_reducible apply ends_next
    | split
    | with_reducible apply only_set_module
  all_goals exact within_sub (by decide) hL

theorem ends_execBar0BadWrite (hL : Within [.module] L) {s : State} : Ends L s (execBar0BadWrite s) := by
  dsimp only [execBar0BadWrite]
  have h := only_refl L s
  repeat' first
    | with_reducible assumption
    | with_reducible apply ends_next
    | split
    | with_reducible apply only_set_module

theorem only_setPoll (hL : Within [.fns] L) {s : State} (fn : Nat) (h : Only L s₀ s) : Only L s₀ (State.setPoll s fn) := by
  dsimp only [State.setPoll]
  repeat' first
    | with_reducible assumption
    | with_reducible apply only_modFn

theorem only_poll (hL : Within [.out, .unsent, .fns, .intr] L) {s : State} (fn : Nat) (h : Only L s₀ s) : Only L s₀ (State.poll s fn) := by
  dsimp only [State.poll]
  repeat' first
    | with_reducible assumption
    | with_reducible apply only_latch
    | with_reducible apply only_setPoll
    | with_reducible apply only_modFn
    | with_reducible apply only_hostRead
    | split
  all_goals exact within_sub (by decide) hL

theorem ends_execLetterboxPoll (hL : Within [.out, .unsent, .fns, .intr] L) (fn : FnId) {s : State} : Ends L s (execLetterboxPoll fn s) := by
  dsimp only [execLetterboxPoll]
  have h := only_refl L s
  repeat' first
    | with_reducible assumption
    | with_reducible apply only_poll
    | with_reducible apply ends_next

theorem only_takeWord (hL : Within [.out, .unsent, .fns, .buckets] L) {s : State} (fn r : Nat) (w : W32) (h : Only L s₀ s) : Only L s₀ (State.takeWord s fn r w) := by
  dsimp only [State.takeWord]
  repeat' first
    | with_reducible assumption
    | with_reducible apply only_modRing
    | with_reducible apply only_stopRing
    | split
  all_goals exact within_sub (by decide) hL

theorem only_releaseBatches (hL : Within [.fns] L) {s : State} (fn m : Nat) (h : Only L s₀ s) : Only L s₀ (State.releaseBatches s fn m) := by
  dsimp only [State.releaseBatches]
  repeat' first
    | with_reducible assumption
    | with_reducible apply only_foldl
    | with_reducible apply only_foldl_fst
    | intro _ _ _
    | with_reducible apply only_modRing

theorem only_armVector (hL : Within [.out, .unsent, .fns] L) {s : State} (fn m : Nat) (old : W32) (h : Only L s₀ s) : Only L s₀ (State.armVector s fn m old) := by
  dsimp only [State.armVector]
  repeat' first
    | with_reducible assumption
    | with_reducible apply only_releaseBatches
    | with_reducible apply only_modFn
    | with_reducible apply only_sendMsix
    | split
  all_goals exact within_sub (by decide) hL

theorem only_issueFetch (hL : Within [.out, .unsent, .fns] L) {s : State} (fn r : Nat) (h : Only L s₀ s) : Only L s₀ (State.issueFetch s fn r) := by
  dsimp only [State.issueFetch]
  repeat' first
    | with_reducible assumption
    | with_reducible apply only_modRing
    | with_reducible apply only_toHost
    | with_reducible apply only_hostRead
    | split
  all_goals exact within_sub (by decide) hL

theorem ends_execLetterboxReadComplete (hL : Within [.out, .unsent, .parts, .fns, .buckets, .intr] L) (fn : FnId) (data : Option Line) {s : State} :
    Ends L s (execLetterboxReadComplete fn data s) := by
  dsimp only [execLetterboxReadComplete]
  have h := only_refl L s
  repeat' first
    | with_reducible assumption
    | with_reducible apply only_foldl
    | with_reducible apply only_foldl_fst
    | intro _ _ _
    | with_reducible apply only_modFn
    | with_reducible apply only_setPoll
    | with_reducible apply only_journal
    | with_reducible apply only_post
    | with_reducible apply only_takeWord
    | with_reducible apply only_armVector
    | with_reducible apply only_flushRing
    | with_reducible apply only_issueFetch
    | with_reducible apply only_poll
    | with_reducible apply ends_next
    | split
  all_goals exact within_sub (by decide) hL

theorem only_takeDescriptors (hL : Within [.out, .unsent, .parts, .fns, .buckets] L) {s : State} (fn r : Nat) (l : List Line) (h : Only L s₀ s) :
    Only L s₀ ((State.takeDescriptors s fn r) l) := by
  induction l generalizing s with
  | nil => exact h
  | cons a l ih =>
    dsimp only [State.takeDescriptors]
    repeat' first
      | with_reducible assumption
      | with_reducible apply ih
      | with_reducible apply only_modRing
      | with_reducible apply only_journal
      | with_reducible apply only_takeTurn
      | split
    all_goals exact within_sub (by decide) hL

theorem ends_execDescriptorFetchComplete (hL : Within [.out, .unsent, .parts, .fns, .buckets] L) (fn : FnId) (r : RingId) (data : Option (List Line))
    {s : State} : Ends L s (execDescriptorFetchComplete fn r data s) := by
  dsimp only [execDescriptorFetchComplete]
  have h := only_refl L s
  repeat' first
    | with_reducible assumption
    | with_reducible apply only_modRing
    | with_reducible apply only_stopRing
    | with_reducible apply only_takeDescriptors
    | with_reducible apply only_writeHeads
    | with_reducible apply ends_next
    | split
  all_goals exact within_sub (by decide) hL

theorem ends_execRingEntryWriteFailed (hL : Within [.out, .unsent, .parts, .fns, .buckets] L) (fn : FnId) (r : RingId) (lost : Option W32) {s : State} :
    Ends L s (execRingEntryWriteFailed fn r lost s) := by
  dsimp only [execRingEntryWriteFailed]
  have h := only_refl L s
  repeat' first
    | with_reducible assumption
    | with_reducible apply only_stopRing
    | with_reducible apply only_journal
    | with_reducible apply only_post
    | with_reducible apply ends_next
    | split
  all_goals exact within_sub (by decide) hL

theorem only_enableRing (hL : Within [.fns] L) {s : State} (fn r : Nat) (h : Only L s₀ s) : Only L s₀ (State.enableRing s fn r) := by
  dsimp only [State.enableRing]
  repeat' first
    | with_reducible assumption
    | with_reducible apply only_modRing
    | with_reducible apply only_setPoll
    | with_reducible apply only_modFn
    | split

theorem only_enableRings (hL : Within [.fns] L) {s : State} (fn : Nat) (mask : BitVec 16) (h : Only L s₀ s) : Only L s₀ (State.enableRings s fn mask) := by
  dsimp only [State.enableRings]
  repeat' first
    | with_reducible assumption
    | with_reducible apply only_foldl
    | with_reducible apply only_foldl_fst
    | intro _ _ _
    | with_reducible apply only_enableRing

theorem only_disableRing (hL : Within [.out, .unsent, .parts, .fns, .buckets] L) {s : State} (fn r : Nat) (h : Only L s₀ s) : Only L s₀ (State.disableRing s fn r) := by
  dsimp only [State.disableRing]
  repeat' first
    | with_reducible assumption
    | with_reducible apply only_journal
    | with_reducible apply only_modPart
    | with_reducible apply only_modFn
    | with_reducible apply only_modRing
    | split
  all_goals exact within_sub (by decide) hL

theorem only_disableRings (hL : Within [.out, .unsent, .parts, .fns, .buckets] L) {s : State} (fn : Nat) (mask : BitVec 16) (h : Only L s₀ s) :
    Only L s₀ (State.disableRings s fn mask) := by
  dsimp only [State.disableRings]
  repeat' first
    | with_reducible assumption
    | with_reducible apply only_foldl
    | with_reducible apply only_foldl_fst
    | intro _ _ _
    | with_reducible apply only_disableRing

theorem ends_execRingEnable (hL : Within [.fns] L) (fn : FnId) (mask : BitVec 16) {s : State} : Ends L s (execRingEnable fn mask s) := by
  dsimp only [execRingEnable]
  have h := only_refl L s
  repeat' first
    | with_reducible assumption
    | with_reducible apply only_enableRings
    | with_reducible apply ends_next
    | split

theorem ends_execRingDisable (hL : Within [.out, .unsent, .parts, .fns, .buckets] L) (fn : FnId) (mask : BitVec 16) {s : State} : Ends L s (execRingDisable fn mask s) := by
  dsimp only [execRingDisable]
  have h := only_refl L s
  repeat' first
    | with_reducible assumption
    | with_reducible apply only_disableRings
    | with_reducible apply ends_next
    | split

theorem ends_execRingDrainComplete (hL : Within [.fns] L) (fn : FnId) (r : RingId) {s : State} : Ends L s (execRingDrainComplete fn r s) := by
  dsimp only [execRingDrainComplete]
  have h := only_refl L s
  repeat' first
    | with_reducible assumption
    | with_reducible apply only_modRing
    | with_reducible apply ends_next
    | split

theorem only_clearStopped (hL : Within [.fns] L) {s : State} (fn : Nat) (mask : BitVec 16) (h : Only L s₀ s) : Only L s₀ (State.clearStopped s fn mask) := by
  dsimp only [State.clearStopped]
  repeat' first
    | with_reducible assumption
    | with_reducible apply only_foldl
    | with_reducible apply only_foldl_fst
    | intro _ _ _
    | with_reducible apply only_modRing
    | split

theorem ends_execRingStatusClear (hL : Within [.fns] L) (fn : FnId) (mask : BitVec 16) {s : State} : Ends L s (execRingStatusClear fn mask s) := by
  dsimp only [execRingStatusClear]
  have h := only_refl L s
  repeat' first
    | with_reducible assumption
    | with_reducible apply only_clearStopped
    | with_reducible apply ends_next
    | split

theorem ends_execCeBucketDecay (hL : Within [.memory, .time] L) {s : State} : Ends L s (execCeBucketDecay s) := by
  dsimp only [execCeBucketDecay]
  have h := only_refl L s
  repeat' first
    | with_reducible assumption
    | with_reducible apply ends_next
    | split
    | with_reducible apply only_set_memory
    | with_reducible apply only_set_time
    | with_reducible refine only_mk ?_ (.inl rfl) (.inl rfl) (.inl rfl) (.inl rfl) (.inl rfl) (.inl rfl) (.inl rfl) (.inr (within_mem hL (by simp))) (.inl rfl)
                            (.inl rfl) (.inl rfl) (.inl rfl) (.inl rfl) (.inl rfl) (.inl rfl) (.inl rfl) (.inl rfl) (.inl rfl) (.inr (within_mem hL (by simp)))
                            (.inl rfl) (.inl rfl)

theorem ends_execErrorRecordAck (hL : Within [.memory] L) (source : Fin 42) {s : State} : Ends L s (execErrorRecordAck source s) := by
  dsimp only [execErrorRecordAck]
  have h := only_refl L s
  repeat' first
    | with_reducible assumption
    | with_reducible apply ends_next
    | split
    | with_reducible apply only_set_memory

theorem only_endRepairRequest (hL : Within [.links] L) {s : State} (pln : Nat) (h : Only L s₀ s) : Only L s₀ (State.endRepairRequest s pln) := by
  dsimp only [State.endRepairRequest]
  repeat' first
    | with_reducible assumption
    | split
    | with_reducible apply only_set_links

theorem only_repaired (hL : Within [.free, .out, .unsent, .stackTab, .mem, .memory, .parts, .fns, .buckets, .intr, .links, .sec, .spares] L) {s : State}
    (pln : Nat) (l : Line) (h : Only L s₀ s) : Only L s₀ (State.repaired s pln l) := by
  dsimp only [State.repaired]
  repeat' first
    | with_reducible assumption
    | with_reducible apply only_writeLine
    | with_reducible apply only_post
    | with_reducible apply only_resieveNow
    | split
    | with_reducible apply only_set_memory
  all_goals exact within_sub (by decide) hL

theorem only_peerAnswers (hL : Within [.free, .out, .unsent, .stackTab, .mem, .memory, .parts, .fns, .buckets, .intr, .links, .sec, .spares] L) {s : State}
    (pln : Nat) (data : Option Line) (h : Only L s₀ s) : Only L s₀ (State.peerAnswers s pln data) := by
  dsimp only [State.peerAnswers]
  repeat' first
    | with_reducible assumption
    | with_reducible apply only_endRepairRequest
    | with_reducible apply only_repaired
    | with_reducible apply only_repairHost
    | split
  all_goals exact within_sub (by decide) hL

theorem ends_execRepairPeerAnswer (hL : Within [.free, .out, .unsent, .stackTab, .mem, .memory, .parts, .fns, .buckets, .intr, .links, .sec, .spares] L)
    (pln : BitVec 34) (data : Option Line) {s : State} : Ends L s (execRepairPeerAnswer pln data s) := by
  dsimp only [execRepairPeerAnswer]
  have h := only_refl L s
  repeat' first
    | with_reducible assumption
    | with_reducible apply only_peerAnswers
    | with_reducible apply ends_next

theorem ends_execRepairPeerTimeout (hL : Within [.out, .unsent, .memory, .links] L) (pln : BitVec 34) {s : State} : Ends L s (execRepairPeerTimeout pln s) := by
  dsimp only [execRepairPeerTimeout]
  have h := only_refl L s
  repeat' first
    | with_reducible assumption
    | with_reducible apply only_endRepairRequest
    | with_reducible apply only_repairHost
    | with_reducible apply ends_next
    | split
  all_goals exact within_sub (by decide) hL

theorem ends_execRepairHostReadComplete (hL : Within [.free, .out, .unsent, .stackTab, .mem, .memory, .parts, .fns, .buckets, .intr, .links, .sec, .spares] L)
    (pln : BitVec 34) (data : Option Line) {s : State} : Ends L s (execRepairHostReadComplete pln data s) := by
  dsimp only [execRepairHostReadComplete]
  have h := only_refl L s
  repeat' first
    | with_reducible assumption
    | with_reducible apply only_repaired
    | with_reducible apply ends_next
    | split
    | with_reducible apply only_set_memory
  all_goals exact within_sub (by decide) hL

theorem only_addSieve (hL : Within [.out, .unsent, .memory, .fns, .buckets] L) {s : State} (fn : Nat) (ring region : Option Nat) (d : Line)
    (stackList : List Nat) (h : Only L s₀ s) : Only L s₀ (State.addSieve s fn ring region d stackList) := by
  dsimp only [State.addSieve]
  repeat' first
    | with_reducible assumption
    | with_reducible apply only_summaries
    | split
    | with_reducible apply only_set_memory
  all_goals exact within_sub (by decide) hL

theorem ends_execSieveDescriptor (hL : Within [.out, .unsent, .memory, .fns, .buckets] L) (fn : FnId) (r : RingId) {s : State} : Ends L s (execSieveDescriptor fn r s) := by
  dsimp only [execSieveDescriptor]
  have h := only_refl L s
  repeat' first
    | with_reducible assumption
    | with_reducible apply only_popFetched
    | with_reducible apply only_addSieve
    | with_reducible apply only_copyAnswer
    | with_reducible apply ends_next
    | split
  all_goals exact within_sub (by decide) hL

theorem only_sieveGo (hL : Within [.out, .unsent, .memory, .fns, .buckets] L) {s : State} (h : Only L s₀ s) : Only L s₀ (State.sieveGo s) := by
  dsimp only [State.sieveGo]
  repeat' first
    | with_reducible assumption
    | with_reducible apply only_addSieve
    | split
    | with_reducible apply only_set_memory
  all_goals exact within_sub (by decide) hL

theorem ends_execModSieveGo (hL : Within [.out, .unsent, .memory, .fns, .buckets] L) (fn : FnId) {s : State} : Ends L s (execModSieveGo fn s) := by
  dsimp only [execModSieveGo]
  have h := only_refl L s
  repeat' first
    | with_reducible assumption
    | with_reducible apply only_sieveGo
    | with_reducible apply ends_next
    | split

theorem only_endSieve (hL : Within [.out, .unsent, .memory, .fns, .buckets] L) {s : State} (j : SieveJob) (h : Only L s₀ s) : Only L s₀ (State.endSieve s j) := by
  dsimp only [State.endSieve]
  repeat' first
    | with_reducible assumption
    | with_reducible apply only_copyAnswer
    | split
    | with_reducible apply only_set_memory
  all_goals exact within_sub (by decide) hL

theorem ends_execSieveStackDone (hL : Within [.free, .out, .unsent, .stackTab, .mem, .memory, .parts, .fns, .buckets, .intr, .links, .sec, .spares] L)
    (st : StackId) {s : State} : Ends L s (execSieveStackDone st s) := by
  dsimp only [execSieveStackDone]
  have h := only_refl L s
  repeat' first
    | with_reducible assumption
    | with_reducible apply only_sieveLines
    | with_reducible apply only_hostWrite
    | with_reducible apply only_post
    | with_reducible apply only_summaries
    | with_reducible apply only_endSieve
    | with_reducible apply ends_next
    | split
    | refine only_fst (by with_reducible assumption) ?_
    | with_reducible apply only_set_memory
  all_goals exact within_sub (by decide) hL

theorem ends_execSieve (hL : Within [.free, .out, .unsent, .stackTab, .mem, .memory, .parts, .fns, .buckets, .intr, .links, .sec, .spares] L) (st : StackId)
    (src : PacketSource) (pk : Packet) (first : BitVec 30) (lines : BitVec 31) {s : State} : Ends L s (execSieve st src pk first lines s) := by
  dsimp only [execSieve]
  have h := only_refl L s
  repeat' first
    | with_reducible assumption
    | intro _ _ _
    | intro _ _
    | with_reducible apply only_packet
    | with_reducible apply only_firmwarePacket
    | with_reducible apply only_sieveLines
    | with_reducible apply ends_next
    | split
    | refine only_fst (by with_reducible assumption) ?_
  all_goals exact within_sub (by decide) hL

theorem ends_execPatrolPass (hL : Within [.free, .out, .unsent, .stackTab, .mem, .memory, .parts, .fns, .buckets, .intr, .links, .sec, .spares] L) {s : State} :
    Ends L s (execPatrolPass s) := by
  dsimp only [execPatrolPass]
  have h := only_refl L s
  repeat' first
    | with_reducible assumption
    | with_reducible apply only_sieveLines
    | with_reducible apply ends_next
    | split
    | refine only_fst (by with_reducible assumption) ?_
    | with_reducible apply only_set_memory
  all_goals exact within_sub (by decide) hL

theorem only_portLine (hL : Within [.intr] L) {s : State} (n : Nat) (h : Only L s₀ s) : Only L s₀ (State.portLine s n) := by
  dsimp only [State.portLine]
  repeat' first
    | with_reducible assumption
    | with_reducible apply only_latch

theorem only_startTraining (hL : Within [.intr, .links] L) {s : State} (n : Nat) (h : Only L s₀ s) : Only L s₀ (State.startTraining s n) := by
  dsimp only [State.startTraining]
  repeat' first
    | with_reducible assumption
    | with_reducible apply only_modPort
    | with_reducible apply only_portLine
    | split
  all_goals exact within_sub (by decide) hL

theorem only_noteLanes (hL : Within [.out, .unsent, .fns, .buckets, .sec, .spares] L) {s : State} (n : Nat) (map : BitVec 5) (h : Only L s₀ s) :
    Only L s₀ (State.noteLanes s n map) := by
  dsimp only [State.noteLanes]
  repeat' first
    | with_reducible assumption
    | with_reducible apply only_foldl
    | with_reducible apply only_foldl_fst
    | intro _ _ _
    | with_reducible apply only_post
    | with_reducible apply only_mapChange
    | with_reducible apply only_logWear
    | split
  all_goals exact within_sub (by decide) hL

theorem only_sendSession (hL : Within [.out] L) {s : State} (port d step : Nat) (h : Only L s₀ s) : Only L s₀ (State.sendSession s port d step) := by
  dsimp only [State.sendSession]
  repeat' first
    | with_reducible assumption
    | with_reducible apply only_emit

theorem only_startSession (hL : Within [.out, .links] L) {s : State} (port d : Nat) (h : Only L s₀ s) : Only L s₀ (State.startSession s port d) := by
  dsimp only [State.startSession]
  repeat' first
    | with_reducible assumption
    | with_reducible apply only_modSession
    | with_reducible apply only_sendSession
    | split
  all_goals exact within_sub (by decide) hL

theorem only_sessionFails (hL : Within [.out, .unsent, .fns, .buckets, .intr, .links] L) {s : State} (port d : Nat) (h : Only L s₀ s) :
    Only L s₀ (State.sessionFails s port d) := by
  dsimp only [State.sessionFails]
  repeat' first
    | with_reducible assumption
    | with_reducible apply only_modSession
    | with_reducible apply only_portDown
    | split
  all_goals exact within_sub (by decide) hL

theorem only_sessionMade (hL : Within [.out, .links] L) {s : State} (d : Nat) (payload : List Line) (h : Only L s₀ s) : Only L s₀ (State.sessionMade s d payload) := by
  dsimp only [State.sessionMade]
  repeat' first
    | with_reducible assumption
    | with_reducible apply only_modSession
    | with_reducible apply only_flushWaiting
    | split
  all_goals exact within_sub (by decide) hL

theorem only_sessionMessageIn (hL : Within [.out, .unsent, .fns, .buckets, .intr, .links] L) {s : State} (port d : Nat) (payload : List Line) (valid : Bool)
    (h : Only L s₀ s) : Only L s₀ (State.sessionMessageIn s port d payload valid) := by
  dsimp only [State.sessionMessageIn]
  repeat' first
    | with_reducible assumption
    | with_reducible apply only_sessionFails
    | with_reducible apply only_modSession
    | with_reducible apply only_sendSession
    | with_reducible apply only_startSession
    | with_reducible apply only_sessionMade
    | split
  all_goals exact within_sub (by decide) hL

theorem only_portTrain (hL : Within [.intr, .links] L) {s : State} (n : Nat) (h : Only L s₀ s) : Only L s₀ (State.portTrain s n) := by
  dsimp only [State.portTrain]
  repeat' first
    | with_reducible assumption
    | with_reducible apply only_modPort
    | with_reducible apply only_startTraining
    | split
  all_goals exact within_sub (by decide) hL

theorem ends_execPortTrain (hL : Within [.intr, .links] L) (fn : FnId) (port : PortId) {s : State} : Ends L s (execPortTrain fn port s) := by
  dsimp only [execPortTrain]
  have h := only_refl L s
  repeat' first
    | with_reducible assumption
    | with_reducible apply only_portTrain
    | with_reducible apply ends_next
    | split

theorem ends_execTrainingComplete (hL : Within [.out, .unsent, .fns, .buckets, .intr, .links, .sec, .spares] L) (port : PortId) (passing : BitVec 5)
    (peer : Option (BitVec 9)) {s : State} : Ends L s (execTrainingComplete port passing peer s) := by
  dsimp only [execTrainingComplete]
  have h := only_refl L s
  repeat' first
    | with_reducible assumption
    | with_reducible apply only_portDown
    | with_reducible apply only_modPort
    | with_reducible apply only_noteLanes
    | with_reducible apply only_portLine
    | with_reducible apply only_modSession
    | with_reducible apply only_startSession
    | with_reducible apply only_post
    | with_reducible apply only_flushWaiting
    | with_reducible apply ends_next
    | split
  all_goals exact within_sub (by decide) hL

theorem ends_execTrainingTimeout (hL : Within [.out, .unsent, .fns, .buckets, .intr, .links] L) (port : PortId) {s : State} : Ends L s (execTrainingTimeout port s) := by
  dsimp only [execTrainingTimeout]
  have h := only_refl L s
  repeat' first
    | with_reducible assumption
    | with_reducible apply only_modPort
    | with_reducible apply only_portDown
    | with_reducible apply only_startTraining
    | with_reducible apply ends_next
    | split
  all_goals exact within_sub (by decide) hL

theorem ends_execLaneMark (hL : Within [.free, .out, .unsent, .stackTab, .memory, .fns, .buckets, .links, .sec, .spares] L) (port : PortId) (lane : LaneId)
    {s : State} : Ends L s (execLaneMark port lane s) := by
  dsimp only [execLaneMark]
  have h := only_refl L s
  repeat' first
    | with_reducible assumption
    | with_reducible apply only_useFree
    | with_reducible apply only_modPort
    | with_reducible apply only_corrected
    | with_reducible apply ends_next
    | split
  all_goals exact within_sub (by decide) hL

theorem ends_execLaneRetrainDue (hL : Within [.intr, .links] L) (port : PortId) {s : State} : Ends L s (execLaneRetrainDue port s) := by
  dsimp only [execLaneRetrainDue]
  have h := only_refl L s
  repeat' first
    | with_reducible assumption
    | with_reducible apply only_startTraining
    | with_reducible apply ends_next
    | split

theorem only_disablePort (hL : Within [.out, .unsent, .fns, .buckets, .intr, .regs, .links] L) {s : State} (n : Nat) (h : Only L s₀ s) : Only L s₀ (State.disablePort s n) := by
  dsimp only [State.disablePort]
  repeat' first
    | with_reducible assumption
    | with_reducible apply only_sendFrame
    | with_reducible apply only_setReg
    | with_reducible apply only_modPort
    | with_reducible apply only_latch
    | with_reducible apply only_portDown
    | split
  any_goals exact within_sub (by decide) hL
  all_goals (unfold FreeKey regKey; omega)

theorem ends_execPortDisable (hL : Within [.out, .unsent, .fns, .buckets, .intr, .regs, .links] L) (fn : FnId) (port : PortId) {s : State} :
    Ends L s (execPortDisable fn port s) := by
  dsimp only [execPortDisable]
  have h := only_refl L s
  repeat' first
    | with_reducible assumption
    | with_reducible apply only_disablePort
    | with_reducible apply ends_next
    | split

theorem only_lockId (hL : Within [.intr, .links] L) {s : State} (id : BitVec 9) (h : Only L s₀ s) : Only L s₀ (State.lockId s id) := by
  dsimp only [State.lockId]
  repeat' first
    | with_reducible assumption
    | with_reducible apply only_foldl
    | with_reducible apply only_foldl_fst
    | intro _ _ _
    | with_reducible apply only_startTraining
    | split
    | with_reducible apply only_set_links
  all_goals exact within_sub (by decide) hL

theorem ends_execIdLock (hL : Within [.intr, .links] L) (fn : FnId) (id : BitVec 9) {s : State} : Ends L s (execIdLock fn id s) := by
  dsimp only [execIdLock]
  have h := only_refl L s
  repeat' first
    | with_reducible assumption
    | with_reducible apply only_lockId
    | with_reducible apply ends_next
    | split

theorem only_failCopy (hL : Within [.copies] L) {s : State} (id status : Nat) (h : Only L s₀ s) : Only L s₀ (State.failCopy s id status) := by
  dsimp only [State.failCopy]
  repeat' first
    | with_reducible assumption
    | with_reducible apply only_modCopy

theorem only_dropSent (hL : Within [.copies, .links] L) {s : State} (tag : BitVec 16) (d : Nat) (h : Only L s₀ s) : Only L s₀ (State.dropSent s tag d) := by
  dsimp only [State.dropSent]
  repeat' first
    | with_reducible assumption
    | with_reducible apply only_modCopy
    | split
    | with_reducible apply only_set_links
  all_goals exact within_sub (by decide) hL

theorem ends_execPortWaitTimeout (hL : Within [.copies, .links] L) (copy : Nat) {s : State} : Ends L s (execPortWaitTimeout copy s) := by
  dsimp only [execPortWaitTimeout]
  have h := only_refl L s
  repeat' first
    | with_reducible assumption
    | with_reducible apply only_foldl
    | with_reducible apply only_foldl_fst
    | intro _ _ _
    | with_reducible apply only_dropSent
    | with_reducible apply only_failCopy
    | with_reducible apply ends_next
    | split
  all_goals exact within_sub (by decide) hL

theorem ends_execPacketTimeout (hL : Within [.out, .unsent, .parts, .copies, .fns, .buckets, .links] L) (tag : BitVec 16) {s : State} : Ends L s (execPacketTimeout tag s) := by
  dsimp only [execPacketTimeout]
  have h := only_refl L s
  repeat' first
    | with_reducible assumption
    | with_reducible apply only_modPort
    | with_reducible apply only_journal
    | with_reducible apply only_dropSent
    | with_reducible apply only_failCopy
    | with_reducible apply only_sendFrame
    | with_reducible apply ends_next
    | split
    | with_reducible apply only_set_links
  all_goals exact within_sub (by decide) hL

theorem ends_execSessionRetry (hL : Within [.out, .intr, .links] L) (peer : BitVec 9) {s : State} : Ends L s (execSessionRetry peer s) := by
  dsimp only [execSessionRetry]
  have h := only_refl L s
  repeat' first
    | with_reducible assumption
    | with_reducible apply only_foldl
    | with_reducible apply only_foldl_fst
    | intro _ _ _
    | with_reducible apply only_modSession
    | with_reducible apply only_startSession
    | with_reducible apply only_startTraining
    | with_reducible apply ends_next
    | split
  all_goals exact within_sub (by decide) hL

theorem ends_execSessionPortsDownTimeout (hL : Within [.out, .links] L) (peer : BitVec 9) {s : State} : Ends L s (execSessionPortsDownTimeout peer s) := by
  dsimp only [execSessionPortsDownTimeout]
  have h := only_refl L s
  repeat' first
    | with_reducible assumption
    | with_reducible apply only_endSession
    | with_reducible apply ends_next
    | split

theorem only_discardFrame (hL : Within [.links] L) {s : State} (n : Nat) (h : Only L s₀ s) : Only L s₀ (State.discardFrame s n) := by
  dsimp only [State.discardFrame]
  repeat' first
    | with_reducible assumption
    | with_reducible apply only_modPort

theorem only_receive (hL : Within [.links] L) {s : State} (n : Nat) (fr : Frame) (typ : Nat) (f : State → State)
    (hf : ∀ t, Only L s₀ t → Only L s₀ (f t)) (h : Only L s₀ s) : Only L s₀ (State.receive s n fr typ f) := by
  dsimp only [State.receive]
  repeat' first
    | with_reducible assumption
    | with_reducible apply only_discardFrame
    | apply hf
    | with_reducible apply only_modSession
    | split

theorem only_enter (hL : Within [.out, .unsent, .parts, .fns, .buckets, .links] L) {s : State} (n : Nat) (fr : Frame) (typ : Nat) (refuse : State → State)
    (f : State → Nat → State) (hr : ∀ t, Only L s₀ t → Only L s₀ (refuse t)) (hf : ∀ t p, Only L s₀ t → Only L s₀ (f t p))
    (h : Only L s₀ s) : Only L s₀ (State.enter s n fr typ refuse f) := by
  unfold State.enter
  split
  · exact only_receive (within_sub (by decide) hL) n fr typ refuse hr h
  · split
    · exact h
    · exact only_receive (within_sub (by decide) hL) n fr typ _ (fun t ht => hf _ _ (only_journal (within_sub (by decide) hL) _ _ _ ht)) h

theorem only_reply (hL : Within [.out, .links] L) {s : State} (n : Nat) (fr : Frame) (typ addr : Nat) (payload : List Line) (h : Only L s₀ s) :
    Only L s₀ (State.reply s n fr typ addr payload) := by
  dsimp only [State.reply]
  repeat' first
    | with_reducible assumption
    | with_reducible apply only_sendFrame

theorem only_nak (hL : Within [.free, .out, .links] L) {s : State} (n : Nat) (fr : Frame) (h : Only L s₀ s) : Only L s₀ (State.nak s n fr) := by
  dsimp only [State.nak]
  repeat' first
    | with_reducible assumption
    | with_reducible apply only_useFree
    | with_reducible apply only_reply
    | split
  all_goals exact within_sub (by decide) hL

theorem ends_execWrite (hL : Within [.free, .out, .unsent, .clusters, .quarters, .stackTab, .mem, .memory, .parts, .copies, .fns, .buckets, .intr, .links, .sec,
    .spares] L) (port : PortId) (fr : Frame) {s : State} : Ends L s (execWrite port fr s) := by
  dsimp only [execWrite]
  have h := only_refl L s
  repeat' first
    | with_reducible assumption
    | intro _ _ _
    | intro _ _
    | with_reducible apply only_enter
    | with_reducible apply only_nak
    | with_reducible apply only_collWrite
    | with_reducible apply only_reply
    | with_reducible apply only_applyPieces
    | with_reducible apply ends_next
    | split
    | refine only_some (by with_reducible assumption) ?_
    | refine only_fst (by with_reducible assumption) ?_
  all_goals exact within_sub (by decide) hL

theorem only_readPlns (hL : Within [.free, .out, .unsent, .stackTab, .mem, .memory, .parts, .fns, .buckets, .intr, .links, .sec, .spares] L) {s : State}
    (p : Nat) (l : List Nat) (h : Only L s₀ s) : Only L s₀ ((State.readPlns s p) l).1 := by
  induction l generalizing s with
  | nil => exact h
  | cons a l ih =>
    dsimp only [State.readPlns]
    repeat' first
      | with_reducible assumption
      | with_reducible apply ih
      | with_reducible apply only_readLine
      | split
      | refine only_fst (by with_reducible assumption) ?_

theorem ends_execRead (hL : Within [.free, .out, .unsent, .stackTab, .mem, .memory, .parts, .fns, .buckets, .intr, .links, .sec, .spares] L) (port : PortId)
    (fr : Frame) {s : State} : Ends L s (execRead port fr s) := by
  dsimp only [execRead]
  have h := only_refl L s
  repeat' first
    | with_reducible assumption
    | intro _ _ _
    | intro _ _
    | with_reducible apply only_enter
    | with_reducible apply only_nak
    | with_reducible apply only_readPlns
    | with_reducible apply only_reply
    | with_reducible apply ends_next
    | split
    | refine only_fst (by with_reducible assumption) ?_
  all_goals exact within_sub (by decide) hL

theorem only_doAtomic (hL : Within [.free, .out, .unsent, .stackTab, .mem, .memory, .parts, .fns, .buckets, .intr, .links, .sec, .spares] L) {s : State}
    (p addr : Nat) (l : Line) (h : Only L s₀ s) : Only L s₀ (State.doAtomic s p addr l).1 := by
  dsimp only [State.doAtomic]
  repeat' first
    | with_reducible assumption
    | with_reducible apply only_readLine
    | with_reducible apply only_writeLine
    | split
    | refine only_fst (by with_reducible assumption) ?_
  all_goals exact within_sub (by decide) hL

theorem ends_execAtomic (hL : Within [.free, .out, .unsent, .stackTab, .mem, .memory, .parts, .fns, .buckets, .intr, .links, .sec, .spares] L) (port : PortId)
    (fr : Frame) {s : State} : Ends L s (execAtomic port fr s) := by
  dsimp only [execAtomic]
  have h := only_refl L s
  repeat' first
    | with_reducible assumption
    | intro _ _ _
    | intro _ _
    | with_reducible apply only_enter
    | with_reducible apply only_nak
    | with_reducible apply only_reply
    | with_reducible apply only_doAtomic
    | with_reducible apply only_modSession
    | with_reducible apply ends_next
    | split
    | refine only_fst (by with_reducible assumption) ?_
  all_goals exact within_sub (by decide) hL

theorem ends_execRepair (hL : Within [.free, .out, .unsent, .stackTab, .mem, .memory, .parts, .fns, .buckets, .intr, .links, .sec, .spares] L) (port : PortId)
    (fr : Frame) {s : State} : Ends L s (execRepair port fr s) := by
  dsimp only [execRepair]
  have h := only_refl L s
  repeat' first
    | with_reducible assumption
    | intro _ _ _
    | intro _ _
    | with_reducible apply only_receive
    | with_reducible apply only_nak
    | with_reducible apply only_readLine
    | with_reducible apply only_reply
    | with_reducible apply ends_next
    | split
    | refine only_fst (by with_reducible assumption) ?_
  all_goals exact within_sub (by decide) hL

theorem only_retryAnswered (hL : Within [.out, .unsent, .parts, .fns, .buckets] L) {s : State} (p : Nat) (w : Sent) (h : Only L s₀ s) : Only L s₀ (State.retryAnswered s p w) := by
  dsimp only [State.retryAnswered]
  repeat' first
    | with_reducible assumption
    | with_reducible apply only_journal
    | split

theorem only_copyData (hL : Within [.free, .out, .unsent, .stackTab, .mem, .memory, .parts, .copies, .fns, .buckets, .intr, .links, .sec, .spares] L)
    {s : State} (id : Nat) (w : Sent) (ls : List Line) (h : Only L s₀ s) : Only L s₀ (State.copyData s id w ls) := by
  dsimp only [State.copyData]
  repeat' first
    | with_reducible assumption
    | with_reducible apply only_modCopy
    | with_reducible apply only_dropSent
    | with_reducible apply only_moveCopy
    | split
  all_goals exact within_sub (by decide) hL

theorem ends_execData (hL : Within [.free, .out, .unsent, .stackTab, .mem, .memory, .parts, .copies, .fns, .buckets, .intr, .links, .sec, .spares] L)
    (port : PortId) (fr : Frame) {s : State} : Ends L s (execData port fr s) := by
  dsimp only [execData]
  have h := only_refl L s
  repeat' first
    | with_reducible assumption
    | with_reducible apply only_id
    | intro _ _ _
    | intro _ _
    | with_reducible apply only_receive
    | with_reducible apply only_peerAnswers
    | with_reducible apply only_enter
    | with_reducible apply only_retryAnswered
    | with_reducible apply only_copyData
    | with_reducible apply only_dropSent
    | with_reducible apply ends_next
    | split
  all_goals exact within_sub (by decide) hL

theorem ends_execAck (hL : Within [.out, .unsent, .parts, .copies, .fns, .buckets, .links] L) (port : PortId) (fr : Frame) {s : State} : Ends L s (execAck port fr s) := by
  dsimp only [execAck]
  have h := only_refl L s
  repeat' first
    | with_reducible assumption
    | with_reducible apply only_id
    | intro _ _ _
    | intro _ _
    | with_reducible apply only_enter
    | with_reducible apply only_retryAnswered
    | with_reducible apply only_dropSent
    | with_reducible apply ends_next
    | split
  all_goals exact within_sub (by decide) hL

theorem ends_execNak (hL : Within [.free, .out, .unsent, .stackTab, .mem, .memory, .parts, .copies, .fns, .buckets, .intr, .links, .sec, .spares] L)
    (port : PortId) (fr : Frame) {s : State} : Ends L s (execNak port fr s) := by
  dsimp only [execNak]
  have h := only_refl L s
  repeat' first
    | with_reducible assumption
    | with_reducible apply only_id
    | intro _ _ _
    | intro _ _
    | with_reducible apply only_receive
    | with_reducible apply only_peerAnswers
    | with_reducible apply only_enter
    | with_reducible apply only_retryAnswered
    | with_reducible apply only_dropSent
    | with_reducible apply only_failCopy
    | with_reducible apply ends_next
    | split
  all_goals exact within_sub (by decide) hL

theorem ends_execColl (hL : Within [.free, .out, .unsent, .clusters, .quarters, .stackTab, .mem, .memory, .parts, .copies, .fns, .buckets, .intr, .links, .sec,
    .spares] L) (port : PortId) (fr : Frame) {s : State} : Ends L s (execColl port fr s) := by
  dsimp only [execColl]
  have h := only_refl L s
  repeat' first
    | with_reducible assumption
    | with_reducible apply only_id
    | intro _ _ _
    | intro _ _
    | with_reducible apply only_foldl
    | with_reducible apply only_foldl_fst
    | intro _ _ _
    | with_reducible apply only_enter
    | with_reducible apply only_collTry
    | with_reducible apply ends_next
    | split
    | with_reducible apply only_set_links
  all_goals exact within_sub (by decide) hL

theorem ends_execEvent (hL : Within [.free, .out, .unsent, .fns, .buckets, .intr, .links] L) (port : PortId) (fr : Frame) {s : State} : Ends L s (execEvent port fr s) := by
  dsimp only [execEvent]
  have h := only_refl L s
  repeat' first
    | with_reducible assumption
    | intro _ _ _
    | intro _ _
    | with_reducible apply only_receive
    | with_reducible apply only_modSession
    | with_reducible apply only_portDown
    | with_reducible apply only_startTraining
    | with_reducible apply only_useFree
    | with_reducible apply ends_next
    | split
  all_goals exact within_sub (by decide) hL

theorem ends_execSession (hL : Within [.out, .unsent, .fns, .buckets, .intr, .links] L) (port : PortId) (fr : Frame) (valid : Bool) {s : State} :
    Ends L s (execSession port fr valid s) := by
  dsimp only [execSession]
  have h := only_refl L s
  repeat' first
    | with_reducible assumption
    | with_reducible apply only_discardFrame
    | with_reducible apply only_sessionMessageIn
    | with_reducible apply ends_next
    | split
  all_goals exact within_sub (by decide) hL

theorem only_mmaStart (_hL : Within [] L) {s : State} (c : Nat) (e : QEntry) (h : Only L s₀ s) : Only L s₀ (mmaStart s c e).1 := by
  dsimp only [mmaStart]
  repeat' first
    | with_reducible assumption

theorem only_mmdStart (_hL : Within [] L) {s : State} (c : Nat) (e : QEntry) (h : Only L s₀ s) : Only L s₀ (mmdStart s c e).1 := by
  dsimp only [mmdStart]
  repeat' first
    | with_reducible assumption

theorem ends_execMmaBf16 (hL : Within [.clusters, .intr] L) (c : ClusterId) {s : State} : Ends L s (execMmaBf16 c s) := by
  dsimp only [execMmaBf16]
  have h := only_refl L s
  repeat' first
    | with_reducible assumption
    | intro _ _ _
    | intro _ _
    | intro _
    | with_reducible apply only_startOp
    | with_reducible apply only_mmaStart
    | with_reducible apply ends_next
    | split
    | refine only_fst (by with_reducible assumption) ?_
  all_goals exact within_sub (by decide) hL

theorem ends_execMmaF16 (hL : Within [.clusters, .intr] L) (c : ClusterId) {s : State} : Ends L s (execMmaF16 c s) := by
  dsimp only [execMmaF16]
  have h := only_refl L s
  repeat' first
    | with_reducible assumption
    | intro _ _ _
    | intro _ _
    | intro _
    | with_reducible apply only_startOp
    | with_reducible apply only_mmaStart
    | with_reducible apply ends_next
    | split
    | refine only_fst (by with_reducible assumption) ?_
  all_goals exact within_sub (by decide) hL

theorem ends_execMmaF8 (hL : Within [.clusters, .intr] L) (c : ClusterId) {s : State} : Ends L s (execMmaF8 c s) := by
  dsimp only [execMmaF8]
  have h := only_refl L s
  repeat' first
    | with_reducible assumption
    | intro _ _ _
    | intro _ _
    | intro _
    | with_reducible apply only_startOp
    | with_reducible apply only_mmaStart
    | with_reducible apply ends_next
    | split
    | refine only_fst (by with_reducible assumption) ?_
  all_goals exact within_sub (by decide) hL

theorem ends_execMmaF6 (hL : Within [.clusters, .intr] L) (c : ClusterId) {s : State} : Ends L s (execMmaF6 c s) := by
  dsimp only [execMmaF6]
  have h := only_refl L s
  repeat' first
    | with_reducible assumption
    | intro _ _ _
    | intro _ _
    | intro _
    | with_reducible apply only_startOp
    | with_reducible apply only_mmaStart
    | with_reducible apply ends_next
    | split
    | refine only_fst (by with_reducible assumption) ?_
  all_goals exact within_sub (by decide) hL

theorem ends_execMmaF4 (hL : Within [.clusters, .intr] L) (c : ClusterId) {s : State} : Ends L s (execMmaF4 c s) := by
  dsimp only [execMmaF4]
  have h := only_refl L s
  repeat' first
    | with_reducible assumption
    | intro _ _ _
    | intro _ _
    | intro _
    | with_reducible apply only_startOp
    | with_reducible apply only_mmaStart
    | with_reducible apply ends_next
    | split
    | refine only_fst (by with_reducible assumption) ?_
  all_goals exact within_sub (by decide) hL

theorem ends_execMmaI8 (hL : Within [.clusters, .intr] L) (c : ClusterId) {s : State} : Ends L s (execMmaI8 c s) := by
  dsimp only [execMmaI8]
  have h := only_refl L s
  repeat' first
    | with_reducible assumption
    | intro _ _ _
    | intro _ _
    | intro _
    | with_reducible apply only_startOp
    | with_reducible apply only_mmaStart
    | with_reducible apply ends_next
    | split
    | refine only_fst (by with_reducible assumption) ?_
  all_goals exact within_sub (by decide) hL

theorem ends_execMmaI4 (hL : Within [.clusters, .intr] L) (c : ClusterId) {s : State} : Ends L s (execMmaI4 c s) := by
  dsimp only [execMmaI4]
  have h := only_refl L s
  repeat' first
    | with_reducible assumption
    | intro _ _ _
    | intro _ _
    | intro _
    | with_reducible apply only_startOp
    | with_reducible apply only_mmaStart
    | with_reducible apply ends_next
    | split
    | refine only_fst (by with_reducible assumption) ?_
  all_goals exact within_sub (by decide) hL

theorem ends_execMmaMix (hL : Within [.clusters, .intr] L) (c : ClusterId) {s : State} : Ends L s (execMmaMix c s) := by
  dsimp only [execMmaMix]
  have h := only_refl L s
  repeat' first
    | with_reducible assumption
    | intro _ _ _
    | intro _ _
    | intro _
    | with_reducible apply only_startOp
    | with_reducible apply only_mmaStart
    | with_reducible apply ends_next
    | split
    | refine only_fst (by with_reducible assumption) ?_
  all_goals exact within_sub (by decide) hL

theorem ends_execMmd (hL : Within [.clusters, .intr] L) (c : ClusterId) {s : State} : Ends L s (execMmd c s) := by
  dsimp only [execMmd]
  have h := only_refl L s
  repeat' first
    | with_reducible assumption
    | intro _ _ _
    | intro _ _
    | intro _
    | with_reducible apply only_startOp
    | with_reducible apply only_mmdStart
    | with_reducible apply ends_next
    | split
    | refine only_fst (by with_reducible assumption) ?_
  all_goals exact within_sub (by decide) hL

theorem only_vecLanes (_hL : Within [] L) (f : W32 → W32 → W32) {s : State} (c : Nat) (e : QEntry) (h : Only L s₀ s) : Only L s₀ (vecLanes f s c e).1 := by
  dsimp only [vecLanes]
  repeat' first
    | with_reducible assumption

theorem only_vldStart (_hL : Within [] L) {s : State} (c : Nat) (e : QEntry) (h : Only L s₀ s) : Only L s₀ (vldStart s c e).1 := by
  dsimp only [vldStart]
  repeat' first
    | with_reducible assumption

theorem only_vstStart (_hL : Within [] L) {s : State} (c : Nat) (e : QEntry) (h : Only L s₀ s) : Only L s₀ (vstStart s c e).1 := by
  dsimp only [vstStart]
  repeat' first
    | with_reducible assumption

theorem only_vbcastStart (_hL : Within [] L) {s : State} (_c : Nat) (e : QEntry) (h : Only L s₀ s) : Only L s₀ (vbcastStart s _c e).1 := by
  dsimp only [vbcastStart]
  repeat' first
    | with_reducible assumption

theorem only_tileMap (_hL : Within [] L) (f : W32 → Ex → Ex → Ex) {s : State} (c : Nat) (e : QEntry) (h : Only L s₀ s) : Only L s₀ (tileMap f s c e).1 := by
  dsimp only [tileMap]
  repeat' first
    | with_reducible assumption
    | split

theorem only_tileFold (_hL : Within [] L) (step : W32 → List Ex → W32) {s : State} (c : Nat) (e : QEntry) (h : Only L s₀ s) : Only L s₀ (tileFold step s c e).1 := by
  dsimp only [tileFold]
  repeat' first
    | with_reducible assumption

theorem only_texp2Start (_hL : Within [] L) {s : State} (c : Nat) (e : QEntry) (h : Only L s₀ s) : Only L s₀ (texp2Start s c e).1 := by
  dsimp only [texp2Start]
  repeat' first
    | with_reducible assumption
    | split

theorem only_tcvtStart (_hL : Within [] L) {s : State} (c : Nat) (e : QEntry) (h : Only L s₀ s) : Only L s₀ (tcvtStart s c e).1 := by
  dsimp only [tcvtStart]
  repeat' first
    | with_reducible assumption
    | split

theorem only_tzeroStart (_hL : Within [] L) {s : State} (_c : Nat) (e : QEntry) (h : Only L s₀ s) : Only L s₀ (tzeroStart s _c e).1 := by
  dsimp only [tzeroStart]
  repeat' first
    | with_reducible assumption

theorem ends_execVLd (hL : Within [.clusters, .intr] L) (c : ClusterId) {s : State} : Ends L s (execVLd c s) := by
  dsimp only [execVLd]
  have h := only_refl L s
  repeat' first
    | with_reducible assumption
    | intro _ _ _
    | intro _ _
    | intro _
    | with_reducible apply only_startOp
    | with_reducible apply only_vldStart
    | with_reducible apply ends_next
    | split
    | refine only_fst (by with_reducible assumption) ?_
  all_goals exact within_sub (by decide) hL

theorem ends_execVSt (hL : Within [.clusters, .intr] L) (c : ClusterId) {s : State} : Ends L s (execVSt c s) := by
  dsimp only [execVSt]
  have h := only_refl L s
  repeat' first
    | with_reducible assumption
    | intro _ _ _
    | intro _ _
    | intro _
    | with_reducible apply only_startOp
    | with_reducible apply only_vstStart
    | with_reducible apply ends_next
    | split
    | refine only_fst (by with_reducible assumption) ?_
  all_goals exact within_sub (by decide) hL

theorem ends_execVBcast (hL : Within [.clusters, .intr] L) (c : ClusterId) {s : State} : Ends L s (execVBcast c s) := by
  dsimp only [execVBcast]
  have h := only_refl L s
  repeat' first
    | with_reducible assumption
    | intro _ _ _
    | intro _ _
    | intro _
    | with_reducible apply only_startOp
    | with_reducible apply only_vbcastStart
    | with_reducible apply ends_next
    | split
    | refine only_fst (by with_reducible assumption) ?_
  all_goals exact within_sub (by decide) hL

theorem ends_execVAdd (hL : Within [.clusters, .intr] L) (c : ClusterId) {s : State} : Ends L s (execVAdd c s) := by
  dsimp only [execVAdd]
  have h := only_refl L s
  repeat' first
    | with_reducible assumption
    | intro _ _ _
    | intro _ _
    | intro _
    | with_reducible apply only_startOp
    | with_reducible apply only_vecLanes
    | with_reducible apply ends_next
    | split
    | refine only_fst (by with_reducible assumption) ?_
  all_goals exact within_sub (by decide) hL

theorem ends_execVMul (hL : Within [.clusters, .intr] L) (c : ClusterId) {s : State} : Ends L s (execVMul c s) := by
  dsimp only [execVMul]
  have h := only_refl L s
  repeat' first
    | with_reducible assumption
    | intro _ _ _
    | intro _ _
    | intro _
    | with_reducible apply only_startOp
    | with_reducible apply only_vecLanes
    | with_reducible apply ends_next
    | split
    | refine only_fst (by with_reducible assumption) ?_
  all_goals exact within_sub (by decide) hL

theorem ends_execVMax (hL : Within [.clusters, .intr] L) (c : ClusterId) {s : State} : Ends L s (execVMax c s) := by
  dsimp only [execVMax]
  have h := only_refl L s
  repeat' first
    | with_reducible assumption
    | intro _ _ _
    | intro _ _
    | intro _
    | with_reducible apply only_startOp
    | with_reducible apply only_vecLanes
    | with_reducible apply ends_next
    | split
    | refine only_fst (by with_reducible assumption) ?_
  all_goals exact within_sub (by decide) hL

theorem ends_execVExp2 (hL : Within [.clusters, .intr] L) (c : ClusterId) {s : State} : Ends L s (execVExp2 c s) := by
  dsimp only [execVExp2]
  have h := only_refl L s
  repeat' first
    | with_reducible assumption
    | intro _ _ _
    | intro _ _
    | intro _
    | with_reducible apply only_startOp
    | with_reducible apply only_vecLanes
    | with_reducible apply ends_next
    | split
    | refine only_fst (by with_reducible assumption) ?_
  all_goals exact within_sub (by decide) hL

theorem ends_execVRcp (hL : Within [.clusters, .intr] L) (c : ClusterId) {s : State} : Ends L s (execVRcp c s) := by
  dsimp only [execVRcp]
  have h := only_refl L s
  repeat' first
    | with_reducible assumption
    | intro _ _ _
    | intro _ _
    | intro _
    | with_reducible apply only_startOp
    | with_reducible apply only_vecLanes
    | with_reducible apply ends_next
    | split
    | refine only_fst (by with_reducible assumption) ?_
  all_goals exact within_sub (by decide) hL

theorem ends_execVRsqrt (hL : Within [.clusters, .intr] L) (c : ClusterId) {s : State} : Ends L s (execVRsqrt c s) := by
  dsimp only [execVRsqrt]
  have h := only_refl L s
  repeat' first
    | with_reducible assumption
    | intro _ _ _
    | intro _ _
    | intro _
    | with_reducible apply only_startOp
    | with_reducible apply only_vecLanes
    | with_reducible apply ends_next
    | split
    | refine only_fst (by with_reducible assumption) ?_
  all_goals exact within_sub (by decide) hL

theorem ends_execTAdd (hL : Within [.clusters, .intr] L) (c : ClusterId) {s : State} : Ends L s (execTAdd c s) := by
  dsimp only [execTAdd]
  have h := only_refl L s
  repeat' first
    | with_reducible assumption
    | intro _ _ _
    | intro _ _
    | intro _
    | with_reducible apply only_startOp
    | with_reducible apply only_tileMap
    | with_reducible apply ends_next
    | split
    | refine only_fst (by with_reducible assumption) ?_
  all_goals exact within_sub (by decide) hL

theorem ends_execTMulv (hL : Within [.clusters, .intr] L) (c : ClusterId) {s : State} : Ends L s (execTMulv c s) := by
  dsimp only [execTMulv]
  have h := only_refl L s
  repeat' first
    | with_reducible assumption
    | intro _ _ _
    | intro _ _
    | intro _
    | with_reducible apply only_startOp
    | with_reducible apply only_tileMap
    | with_reducible apply ends_next
    | split
    | refine only_fst (by with_reducible assumption) ?_
  all_goals exact within_sub (by decide) hL

theorem ends_execTCvt (hL : Within [.clusters, .intr] L) (c : ClusterId) {s : State} : Ends L s (execTCvt c s) := by
  dsimp only [execTCvt]
  have h := only_refl L s
  repeat' first
    | with_reducible assumption
    | intro _ _ _
    | intro _ _
    | intro _
    | with_reducible apply only_startOp
    | with_reducible apply only_tcvtStart
    | with_reducible apply ends_next
    | split
    | refine only_fst (by with_reducible assumption) ?_
  all_goals exact within_sub (by decide) hL

theorem ends_execTExp2 (hL : Within [.clusters, .intr] L) (c : ClusterId) {s : State} : Ends L s (execTExp2 c s) := by
  dsimp only [execTExp2]
  have h := only_refl L s
  repeat' first
    | with_reducible assumption
    | intro _ _ _
    | intro _ _
    | intro _
    | with_reducible apply only_startOp
    | with_reducible apply only_texp2Start
    | with_reducible apply ends_next
    | split
    | refine only_fst (by with_reducible assumption) ?_
  all_goals exact within_sub (by decide) hL

theorem ends_execTCmax (hL : Within [.clusters, .intr] L) (c : ClusterId) {s : State} : Ends L s (execTCmax c s) := by
  dsimp only [execTCmax]
  have h := only_refl L s
  repeat' first
    | with_reducible assumption
    | intro _ _ _
    | intro _ _
    | intro _
    | with_reducible apply only_startOp
    | with_reducible apply only_tileFold
    | with_reducible apply ends_next
    | split
    | refine only_fst (by with_reducible assumption) ?_
  all_goals exact within_sub (by decide) hL

theorem ends_execTCsum (hL : Within [.clusters, .intr] L) (c : ClusterId) {s : State} : Ends L s (execTCsum c s) := by
  dsimp only [execTCsum]
  have h := only_refl L s
  repeat' first
    | with_reducible assumption
    | intro _ _ _
    | intro _ _
    | intro _
    | with_reducible apply only_startOp
    | with_reducible apply only_tileFold
    | with_reducible apply ends_next
    | split
    | refine only_fst (by with_reducible assumption) ?_
  all_goals exact within_sub (by decide) hL

theorem ends_execTCsq (hL : Within [.clusters, .intr] L) (c : ClusterId) {s : State} : Ends L s (execTCsq c s) := by
  dsimp only [execTCsq]
  have h := only_refl L s
  repeat' first
    | with_reducible assumption
    | intro _ _ _
    | intro _ _
    | intro _
    | with_reducible apply only_startOp
    | with_reducible apply only_tileFold
    | with_reducible apply ends_next
    | split
    | refine only_fst (by with_reducible assumption) ?_
  all_goals exact within_sub (by decide) hL

theorem ends_execTSilu (hL : Within [.clusters, .intr] L) (c : ClusterId) {s : State} : Ends L s (execTSilu c s) := by
  dsimp only [execTSilu]
  have h := only_refl L s
  repeat' first
    | with_reducible assumption
    | intro _ _ _
    | intro _ _
    | intro _
    | with_reducible apply only_startOp
    | with_reducible apply only_tileMap
    | with_reducible apply ends_next
    | split
    | refine only_fst (by with_reducible assumption) ?_
  all_goals exact within_sub (by decide) hL

theorem ends_execTZero (hL : Within [.clusters, .intr] L) (c : ClusterId) {s : State} : Ends L s (execTZero c s) := by
  dsimp only [execTZero]
  have h := only_refl L s
  repeat' first
    | with_reducible assumption
    | intro _ _ _
    | intro _ _
    | intro _
    | with_reducible apply only_startOp
    | with_reducible apply only_tzeroStart
    | with_reducible apply ends_next
    | split
    | refine only_fst (by with_reducible assumption) ?_
  all_goals exact within_sub (by decide) hL

theorem only_extend (hL : Within [.sec] L) {s : State} (k : Nat) (d : BitVec 256) (h : Only L s₀ s) : Only L s₀ (State.extend s k d) := by
  dsimp only [State.extend]
  repeat' first
    | with_reducible assumption
    | split
    | with_reducible apply only_set_sec

theorem only_sendReport (hL : Within [.out] L) {s : State} (p : Option Nat) (reqNonce : BitVec 256) (h : Only L s₀ s) : Only L s₀ (State.sendReport s p reqNonce) := by
  dsimp only [State.sendReport]
  repeat' first
    | with_reducible assumption
    | with_reducible apply only_emit

theorem only_answerWaiting (hL : Within [.out, .sec] L) {s : State} (h : Only L s₀ s) : Only L s₀ (State.answerWaiting s) := by
  dsimp only [State.answerWaiting]
  repeat' first
    | with_reducible assumption
    | with_reducible apply only_foldl
    | with_reducible apply only_foldl_fst
    | intro _ _ _
    | with_reducible apply only_sendReport
    | split
    | with_reducible apply only_set_sec
  all_goals exact within_sub (by decide) hL

theorem only_openPort (hL : Within [.out, .unsent, .fns, .buckets, .sec] L) {s : State} (h : Only L s₀ s) : Only L s₀ (State.openPort s) := by
  dsimp only [State.openPort]
  repeat' first
    | with_reducible assumption
    | with_reducible apply only_postFatalAll
    | with_reducible apply only_answerWaiting
    | split
    | with_reducible apply only_set_sec
  all_goals exact within_sub (by decide) hL

theorem only_retire (hL : Within [.clusters, .quarters, .sec] L) {s : State} (q : Nat) (h : Only L s₀ s) : Only L s₀ (State.retire s q) := by
  dsimp only [State.retire]
  repeat' first
    | with_reducible assumption
    | with_reducible apply only_foldl
    | with_reducible apply only_foldl_fst
    | intro _ _ _
    | with_reducible apply only_modClusters
    | with_reducible apply only_modQuarter
    | with_reducible apply only_logWear
    | with_reducible apply only_zeroScratch
    | split
  all_goals exact within_sub (by decide) hL

theorem only_markCluster (hL : Within [.clusters, .sec, .spares] L) {s : State} (c : Nat) (h : Only L s₀ s) : Only L s₀ (State.markCluster s c) := by
  dsimp only [State.markCluster]
  repeat' first
    | with_reducible assumption
    | with_reducible apply only_modCluster
    | with_reducible apply only_mapChange
    | with_reducible apply only_logWear
    | split
  all_goals exact within_sub (by decide) hL

theorem only_partCommand (hL : Within [.free, .partCtl] L) {s : State} (fn p op : Nat) (f : State → Applied → State)
    (hf : ∀ t c, Only L s₀ t → Only L s₀ (f t c)) (h : Only L s₀ s) : Only L s₀ (State.partCommand s fn p op f) := by
  dsimp only [State.partCommand]
  repeat' first
    | with_reducible assumption
    | apply hf
    | with_reducible apply only_useFree
    | split
    | with_reducible apply only_set_partCtl
  all_goals exact within_sub (by decide) hL

theorem only_applyPart (hL : Within [.clusters, .quarters, .mem, .memory, .parts, .sec] L) {s : State} (p : Nat) (a : Applied) (h : Only L s₀ s) :
    Only L s₀ (State.applyPart s p a) := by
  dsimp only [State.applyPart]
  repeat' first
    | with_reducible assumption
    | with_reducible apply only_foldl
    | with_reducible apply only_foldl_fst
    | intro _ _ _
    | with_reducible apply only_retire
    | with_reducible apply only_modPart
    | with_reducible apply only_zeroChanged
    | with_reducible apply only_modClusters
    | with_reducible apply only_createFw
    | split
  all_goals exact within_sub (by decide) hL

theorem only_partAct (hL : Within [.free, .out, .unsent, .clusters, .quarters, .stackTab, .engines, .mem, .memory, .parts, .fns, .buckets, .intr, .links, .sec,
    .spares] L) {s : State} (p op : Nat) (a : Applied) (h : Only L s₀ s) : Only L s₀ (State.partAct s p op a) := by
  dsimp only [State.partAct]
  repeat' first
    | with_reducible assumption
    | with_reducible apply only_applyPart
    | with_reducible apply only_modPart
    | with_reducible apply only_beginRelease
    | split
  all_goals exact within_sub (by decide) hL

theorem only_partOp (hL : Within [.free, .out, .unsent, .clusters, .quarters, .stackTab, .engines, .mem, .memory, .parts, .partCtl, .fns, .buckets, .intr,
    .links, .sec, .spares] L) {s : State} (fn p op : Nat) (h : Only L s₀ s) : Only L s₀ (State.partOp s fn p op) := by
  dsimp only [State.partOp]
  repeat' first
    | with_reducible assumption
    | intro _ _ _
    | intro _ _
    | with_reducible apply only_partCommand
    | with_reducible apply only_partAct
    | split
  all_goals exact within_sub (by decide) hL

theorem ends_execSetup (hL : Within [.free, .out, .unsent, .clusters, .quarters, .stackTab, .engines, .mem, .memory, .parts, .partCtl, .fns, .buckets, .intr,
    .links, .sec, .spares] L) (fn : FnId) (p : PartId) {s : State} : Ends L s (execSetup fn p s) := by
  dsimp only [execSetup]
  have h := only_refl L s
  repeat' first
    | with_reducible assumption
    | with_reducible apply only_partOp
    | with_reducible apply ends_next

theorem ends_execReconfigure (hL : Within [.free, .out, .unsent, .clusters, .quarters, .stackTab, .engines, .mem, .memory, .parts, .partCtl, .fns, .buckets,
    .intr, .links, .sec, .spares] L) (fn : FnId) (p : PartId) {s : State} : Ends L s (execReconfigure fn p s) := by
  dsimp only [execReconfigure]
  have h := only_refl L s
  repeat' first
    | with_reducible assumption
    | with_reducible apply only_partOp
    | with_reducible apply ends_next

theorem ends_execPartitionRelease (hL : Within [.free, .out, .unsent, .clusters, .quarters, .stackTab, .engines, .mem, .memory, .parts, .partCtl, .fns,
    .buckets, .intr, .links, .sec, .spares] L) (fn : FnId) (p : PartId) {s : State} : Ends L s (execPartitionRelease fn p s) := by
  dsimp only [execPartitionRelease]
  have h := only_refl L s
  repeat' first
    | with_reducible assumption
    | with_reducible apply only_partOp
    | with_reducible apply ends_next

theorem only_startMarks (hL : Within [.time] L) {s : State} (p : Nat) (h : Only L s₀ s) : Only L s₀ (State.startMarks s p) := by
  dsimp only [State.startMarks]
  repeat' first
    | with_reducible assumption
    | split
    | with_reducible apply only_set_time

theorem only_finishSetup (hL : Within [.free, .out, .unsent, .mem, .memory, .parts, .fns, .buckets, .sec, .time] L) {s : State} (p : Nat) (h : Only L s₀ s) :
    Only L s₀ (State.finishSetup s p) := by
  dsimp only [State.finishSetup]
  repeat' first
    | with_reducible assumption
    | with_reducible apply only_blankGroups
    | with_reducible apply only_leaveShares
    | with_reducible apply only_newPair
    | with_reducible apply only_readyFw
    | with_reducible apply only_modPart
    | with_reducible apply only_newPoste
    | with_reducible apply only_startMarks
    | with_reducible apply only_takeBudgets
    | split
  all_goals exact within_sub (by decide) hL

theorem only_finishReconfigure (hL : Within [.free, .mem, .memory, .parts, .time] L) {s : State} (p : Nat) (h : Only L s₀ s) : Only L s₀ (State.finishReconfigure s p) := by
  dsimp only [State.finishReconfigure]
  repeat' first
    | with_reducible assumption
    | with_reducible apply only_readyFw
    | with_reducible apply only_modPart
    | with_reducible apply only_newPoste
    | with_reducible apply only_startMarks
    | split
  all_goals exact within_sub (by decide) hL

theorem ends_execPartitionCommandComplete (hL : Within [.free, .out, .unsent, .clusters, .quarters, .stackTab, .mem, .memory, .parts, .partCtl, .fns, .buckets,
    .intr, .links, .sec, .time, .spares] L) (failing : List Nat) {s : State} : Ends L s (execPartitionCommandComplete failing s) := by
  dsimp only [execPartitionCommandComplete]
  have h := only_refl L s
  repeat' first
    | with_reducible assumption
    | with_reducible apply only_foldl
    | with_reducible apply only_foldl_fst
    | intro _ _ _
    | with_reducible apply only_markCluster
    | with_reducible apply only_finishSetup
    | with_reducible apply only_finishReconfigure
    | with_reducible apply only_finishRelease
    | with_reducible apply ends_next
    | split
    | with_reducible apply only_set_partCtl
  all_goals exact within_sub (by decide) hL

theorem only_parityError (hL : Within [.free, .memory, .intr] L) {s : State} (h : Only L s₀ s) : Only L s₀ (State.parityError s) := by
  dsimp only [State.parityError]
  repeat' first
    | with_reducible assumption
    | with_reducible apply only_useFree
    | with_reducible apply only_recordError
    | with_reducible apply only_latch
    | split
  all_goals exact within_sub (by decide) hL

theorem ends_execModuleWideLoss (hL : Within [.free, .out, .unsent, .clusters, .quarters, .stackTab, .engines, .mem, .memory, .parts, .partCtl, .copies, .fns,
    .buckets, .intr, .links, .sec, .module, .spares] L) (cause : Fin 8) {s : State} : Ends L s (execModuleWideLoss cause s) := by
  dsimp only [execModuleWideLoss]
  have h := only_refl L s
  repeat' first
    | with_reducible assumption
    | with_reducible apply only_parityError
    | with_reducible apply only_wideLoss
    | with_reducible apply ends_next
    | split
  all_goals exact within_sub (by decide) hL

theorem only_dropCore (hL : Within [.quarters, .sec, .spares] L) {s : State} (c : Nat) (h : Only L s₀ s) : Only L s₀ (State.dropCore s c) := by
  dsimp only [State.dropCore]
  repeat' first
    | with_reducible assumption
    | with_reducible apply only_modQuarter
    | with_reducible apply only_mapChange
    | with_reducible apply only_logWear
    | split
  all_goals exact within_sub (by decide) hL

theorem ends_execModuleRestartComplete (hL : Within [.free, .out, .unsent, .clusters, .quarters, .stackTab, .mem, .memory, .parts, .fns, .buckets, .intr,
    .links, .sec, .module, .spares] L) (fabricOk : Bool) (failedCores : List Nat) {s : State} : Ends L s (execModuleRestartComplete fabricOk failedCores s) :=
    by
  dsimp only [execModuleRestartComplete]
  have h := only_refl L s
  repeat' first
    | with_reducible assumption
    | with_reducible apply only_foldl
    | with_reducible apply only_foldl_fst
    | intro _ _ _
    | with_reducible apply only_dropCore
    | with_reducible apply only_postFatalAll
    | with_reducible apply only_postFatal
    | with_reducible apply only_finishRelease
    | with_reducible apply only_resieveNow
    | with_reducible apply ends_next
    | split
    | with_reducible apply only_set_stackTab
    | with_reducible apply only_set_module
    | with_reducible apply only_set_spares
    | with_reducible refine only_mk ?_ (.inl rfl) (.inl rfl) (.inl rfl) (.inl rfl) (.inl rfl) (.inr (within_mem hL (by simp))) (.inl rfl) (.inl rfl) (.inl rfl)
                            (.inl rfl) (.inl rfl) (.inl rfl) (.inl rfl) (.inl rfl) (.inl rfl) (.inl rfl) (.inl rfl) (.inl rfl) (.inl rfl)
                            (.inr (within_mem hL (by simp))) (.inr (within_mem hL (by simp)))
  all_goals exact within_sub (by decide) hL

theorem ends_execTerminationComplete (hL : Within [.free, .out, .unsent, .clusters, .quarters, .stackTab, .mem, .memory, .parts, .partCtl, .fns, .buckets,
    .intr, .links, .sec, .spares] L) (p : PartId) {s : State} : Ends L s (execTerminationComplete p s) := by
  dsimp only [execTerminationComplete]
  have h := only_refl L s
  repeat' first
    | with_reducible assumption
    | with_reducible apply only_finishRelease
    | with_reducible apply only_postFatal
    | with_reducible apply only_openPort
    | with_reducible apply ends_next
    | split
    | with_reducible apply only_set_partCtl
    | with_reducible apply only_set_sec
    | with_reducible refine only_mk ?_ (.inl rfl) (.inl rfl) (.inl rfl) (.inl rfl) (.inl rfl) (.inl rfl) (.inl rfl) (.inl rfl) (.inl rfl)
                            (.inr (within_mem hL (by simp))) (.inl rfl) (.inl rfl) (.inl rfl) (.inl rfl) (.inl rfl) (.inl rfl) (.inr (within_mem hL (by simp)))
                            (.inl rfl) (.inl rfl) (.inl rfl) (.inl rfl)
  all_goals exact within_sub (by decide) hL

theorem only_sendPackets (hL : Within [.out, .stackTab, .parts, .fns, .intr] L) {s : State} (p st : Nat) (ps : List Packet) (h : Only L s₀ s) :
    Only L s₀ (State.sendPackets s p st ps) := by
  dsimp only [State.sendPackets]
  repeat' first
    | with_reducible assumption
    | intro _ _ _
    | intro _ _
    | with_reducible apply only_modRound
    | with_reducible apply only_emitAll
    | with_reducible apply only_packet
    | split
  all_goals exact within_sub (by decide) hL

theorem ends_execLayerPacketsSend (hL : Within [.out, .stackTab, .parts, .fns, .intr] L) (p : PartId) (layer : Nat) (st : StackId) {s : State} :
    Ends L s (execLayerPacketsSend p layer st s) := by
  dsimp only [execLayerPacketsSend]
  have h := only_refl L s
  repeat' first
    | with_reducible assumption
    | with_reducible apply only_modRound
    | with_reducible apply only_sendPackets
    | with_reducible apply only_levelOff
    | with_reducible apply ends_next
    | split
  all_goals exact within_sub (by decide) hL

end Sys2Proof.Proofs
end

section
/-! PROOF of the parts that power, the time base, the resets, spares, security and the registers change. -/

namespace Sys2Proof.Proofs
open Sys2Proof Sys2Proof.Machine Sys2Proof.Laws

variable {L : List Fld} {s₀ : State}

theorem only_takeProfile (hL : Within [.power] L) {s : State} (input : W32) (h : Only L s₀ s) : Only L s₀ (State.takeProfile s input) := by
  dsimp only [State.takeProfile]
  repeat' first
    | with_reducible assumption
    | split
    | with_reducible apply only_set_power

theorem only_closeOverCurrent (hL : Within [.power] L) {s : State} (h : Only L s₀ s) : Only L s₀ (State.closeOverCurrent s) := by
  dsimp only [State.closeOverCurrent]
  repeat' first
    | with_reducible assumption
    | with_reducible apply only_foldl
    | with_reducible apply only_foldl_fst
    | intro _ _ _
    | with_reducible apply only_modConsumer
    | with_reducible apply only_modRail
    | split
    | with_reducible apply only_set_power

theorem only_recoverFactors (hL : Within [.power] L) {s : State} (h : Only L s₀ s) : Only L s₀ (State.recoverFactors s) := by
  dsimp only [State.recoverFactors]
  repeat' first
    | with_reducible assumption
    | with_reducible apply only_foldl
    | with_reducible apply only_foldl_fst
    | intro _ _ _
    | with_reducible apply only_modConsumer
    | split

theorem only_bringPartners (hL : Within [.out, .unsent, .fns, .buckets, .power] L) {s : State} (h : Only L s₀ s) : Only L s₀ (State.bringPartners s) := by
  dsimp only [State.bringPartners]
  repeat' first
    | with_reducible assumption
    | with_reducible apply only_foldl
    | with_reducible apply only_foldl_fst
    | intro _ _ _
    | with_reducible apply only_modSite
    | with_reducible apply only_post
    | split
  all_goals exact within_sub (by decide) hL

theorem only_applyRations (hL : Within [.quarters, .stackTab, .intr, .power] L) {s : State} (w d : List W32) (h : Only L s₀ s) : Only L s₀ (State.applyRations s w d) := by
  dsimp only [State.applyRations]
  repeat' first
    | with_reducible assumption
    | with_reducible apply only_foldl
    | with_reducible apply only_foldl_fst
    | intro _ _ _
    | with_reducible apply only_modConsumer
    | with_reducible apply only_modQuarter
    | with_reducible apply only_modStack
    | with_reducible apply only_levelTo
    | split
  all_goals exact within_sub (by decide) hL

theorem only_snapshot (hL : Within [.power] L) {s : State} (h : Only L s₀ s) : Only L s₀ (State.snapshot s) := by
  dsimp only [State.snapshot]
  repeat' first
    | with_reducible assumption
    | with_reducible apply only_foldl
    | with_reducible apply only_foldl_fst
    | intro _ _ _
    | split
    | with_reducible apply only_set_power

theorem only_bare (hL : Within [.free, .out, .unsent, .clusters, .quarters, .stackTab, .engines, .mem, .memory, .parts, .partCtl, .copies, .nextCopy, .fns,
    .buckets, .intr, .regs, .links, .sec, .power, .time, .module, .spares] L) {s : State} (e : Electrical) (latched high : Bool) (millivolts : Nat)
    (h : Only L s₀ s) :
    Only L s₀ (State.bare s e latched high millivolts) :=
  only_trans h ⟨rfl, fun _ => rfl, fun _ => legal_of_regs_nil rfl, fun f hf => absurd (within_mem hL (by cases f <;> simp)) hf⟩

theorem only_railsUp (hL : Within [.free, .out, .unsent, .clusters, .quarters, .stackTab, .engines, .mem, .memory, .parts, .partCtl, .copies, .nextCopy, .fns,
    .buckets, .intr, .regs, .links, .sec, .power, .time, .module, .spares] L) {s : State} (millivolts : Nat) (h : Only L s₀ s) :
    Only L s₀ (State.railsUp s millivolts) := by
  dsimp only [State.railsUp]
  repeat' first
    | with_reducible assumption
    | with_reducible apply only_bare
    | split
    | with_reducible apply only_set_power
  all_goals exact within_sub (by decide) hL

theorem ends_execPowerUp (hL : Within [.free, .out, .unsent, .clusters, .quarters, .stackTab, .engines, .mem, .memory, .parts, .partCtl, .copies, .nextCopy,
    .fns, .buckets, .intr, .regs, .links, .sec, .power, .time, .module, .spares] L) (millivolts : Nat) {s : State} : Ends L s (execPowerUp millivolts s) := by
  dsimp only [execPowerUp]
  have h := only_refl L s
  repeat' first
    | with_reducible assumption
    | with_reducible apply only_railsUp
    | with_reducible apply ends_next
    | split

theorem ends_execPowerGoodTimeout (hL : Within [.free, .out, .unsent, .clusters, .quarters, .stackTab, .engines, .mem, .memory, .parts, .partCtl, .copies,
    .nextCopy, .fns, .buckets, .intr, .regs, .links, .sec, .power, .time, .module, .spares] L) {s : State} : Ends L s (execPowerGoodTimeout s) := by
  dsimp only [execPowerGoodTimeout]
  have h := only_refl L s
  repeat' first
    | with_reducible assumption
    | with_reducible apply only_bare
    | with_reducible apply ends_next
    | split

theorem ends_execPowerDown (hL : Within [.free, .out, .unsent, .clusters, .quarters, .stackTab, .engines, .mem, .memory, .parts, .partCtl, .copies, .nextCopy,
    .fns, .buckets, .intr, .regs, .links, .sec, .power, .time, .module, .spares] L) (millivolts : Nat) {s : State} : Ends L s (execPowerDown millivolts s) := by
  dsimp only [execPowerDown]
  have h := only_refl L s
  repeat' first
    | with_reducible assumption
    | with_reducible apply only_bare
    | with_reducible apply ends_next
    | split
    | with_reducible apply only_set_power
    | with_reducible apply only_set_module
    | with_reducible refine only_mk ?_ (.inl rfl) (.inl rfl) (.inl rfl) (.inl rfl) (.inl rfl) (.inl rfl) (.inl rfl) (.inl rfl) (.inl rfl) (.inl rfl) (.inl rfl)
                            (.inl rfl) (.inl rfl) (.inl rfl) (.inl rfl) (.inl rfl) (.inl rfl) (.inr (within_mem hL (by simp))) (.inl rfl)
                            (.inr (within_mem hL (by simp))) (.inl rfl)

theorem ends_execInputOvervoltage (hL : Within [.free, .out, .unsent, .clusters, .quarters, .stackTab, .engines, .mem, .memory, .parts, .partCtl, .copies,
    .nextCopy, .fns, .buckets, .intr, .regs, .links, .sec, .power, .time, .module, .spares] L) (millivolts : Nat) {s : State} :
    Ends L s (execInputOvervoltage millivolts s) := by
  dsimp only [execInputOvervoltage]
  have h := only_refl L s
  repeat' first
    | with_reducible assumption
    | with_reducible apply only_bare
    | with_reducible apply ends_next
    | split

theorem ends_execInputFallsBelow70V (hL : Within [.free, .out, .unsent, .clusters, .quarters, .stackTab, .engines, .mem, .memory, .parts, .partCtl, .copies,
    .nextCopy, .fns, .buckets, .intr, .regs, .links, .sec, .power, .time, .module, .spares] L) (millivolts : Nat) {s : State} :
    Ends L s (execInputFallsBelow70V millivolts s) := by
  dsimp only [execInputFallsBelow70V]
  have h := only_refl L s
  repeat' first
    | with_reducible assumption
    | with_reducible apply only_railsUp
    | with_reducible apply ends_next
    | split
    | with_reducible apply only_set_power
    | with_reducible apply only_set_module
    | with_reducible refine only_mk ?_ (.inl rfl) (.inl rfl) (.inl rfl) (.inl rfl) (.inl rfl) (.inl rfl) (.inl rfl) (.inl rfl) (.inl rfl) (.inl rfl) (.inl rfl)
                            (.inl rfl) (.inl rfl) (.inl rfl) (.inl rfl) (.inl rfl) (.inl rfl) (.inr (within_mem hL (by simp))) (.inl rfl)
                            (.inr (within_mem hL (by simp))) (.inl rfl)

theorem ends_execInputBandChange (hL : Within [.power] L) (millivolts : Nat) {s : State} : Ends L s (execInputBandChange millivolts s) := by
  dsimp only [execInputBandChange]
  have h := only_refl L s
  repeat' first
    | with_reducible assumption
    | with_reducible apply ends_next
    | split
    | with_reducible apply only_set_power

theorem ends_execTripComparator (hL : Within [.free, .out, .unsent, .clusters, .quarters, .stackTab, .engines, .mem, .memory, .parts, .partCtl, .copies,
    .nextCopy, .fns, .buckets, .intr, .regs, .links, .sec, .power, .time, .module, .spares] L) (_i : SiteId) {s : State} : Ends L s (execTripComparator _i s) :=
    by
  dsimp only [execTripComparator]
  have h := only_refl L s
  repeat' first
    | with_reducible assumption
    | with_reducible apply only_bare
    | with_reducible apply ends_next
    | split

theorem ends_execRationRecompute (hL : Within [.out, .unsent, .quarters, .stackTab, .fns, .buckets, .intr, .power] L) (energy : List (W32 × W32))
    (unrationed input : W32) (amps : BitVec 16) {s : State} : Ends L s (execRationRecompute energy unrationed input amps s) := by
  dsimp only [execRationRecompute]
  have h := only_refl L s
  repeat' first
    | with_reducible assumption
    | with_reducible apply only_bringPartners
    | with_reducible apply only_closeOverCurrent
    | with_reducible apply only_recoverFactors
    | with_reducible apply only_takeProfile
    | with_reducible apply only_applyRations
    | with_reducible apply only_snapshot
    | with_reducible apply ends_next
    | split
    | with_reducible apply only_set_power
  all_goals exact within_sub (by decide) hL

theorem ends_execOverCurrentAlert (hL : Within [.fns, .intr, .power] L) (rail : RailId) {s : State} : Ends L s (execOverCurrentAlert rail s) := by
  dsimp only [execOverCurrentAlert]
  have h := only_refl L s
  repeat' first
    | with_reducible assumption
    | with_reducible apply only_modRail
    | with_reducible apply only_hold
    | with_reducible apply only_latch
    | with_reducible apply ends_next
    | split
    | with_reducible apply only_set_power
  all_goals exact within_sub (by decide) hL

theorem ends_execOverCurrentAlertDeassert (hL : Within [.power] L) (rail : RailId) {s : State} : Ends L s (execOverCurrentAlertDeassert rail s) := by
  dsimp only [execOverCurrentAlertDeassert]
  have h := only_refl L s
  repeat' first
    | with_reducible assumption
    | with_reducible apply only_modRail
    | with_reducible apply ends_next
    | split

theorem ends_execOverCurrentHoldRelease (hL : Within [.fns, .power] L) (rail : RailId) {s : State} : Ends L s (execOverCurrentHoldRelease rail s) := by
  dsimp only [execOverCurrentHoldRelease]
  have h := only_refl L s
  repeat' first
    | with_reducible assumption
    | with_reducible apply only_hold
    | with_reducible apply only_modRail
    | with_reducible apply ends_next
    | split
  all_goals exact within_sub (by decide) hL

theorem ends_execPhaseFailure (hL : Within [.sec, .power, .spares] L) (rail : RailId) (phase : Nat) {s : State} : Ends L s (execPhaseFailure rail phase s) := by
  dsimp only [execPhaseFailure]
  have h := only_refl L s
  repeat' first
    | with_reducible assumption
    | with_reducible apply only_modRail
    | with_reducible apply only_mapChange
    | with_reducible apply only_logWear
    | with_reducible apply ends_next
    | split
    | with_reducible apply only_set_spares
  all_goals exact within_sub (by decide) hL

theorem only_sensorFails (hL : Within [.sec, .power, .spares] L) {s : State} (n i code : Nat) (h : Only L s₀ s) : Only L s₀ (State.sensorFails s n i code) := by
  dsimp only [State.sensorFails]
  repeat' first
    | with_reducible assumption
    | with_reducible apply only_modSite
    | with_reducible apply only_mapChange
    | with_reducible apply only_logWear
    | split
  all_goals exact within_sub (by decide) hL

theorem only_judgeRefresh (hL : Within [.stackTab] L) {s : State} (k : Nat) (h : Only L s₀ s) : Only L s₀ (State.judgeRefresh s k) := by
  dsimp only [State.judgeRefresh]
  repeat' first
    | with_reducible assumption
    | with_reducible apply only_modStack
    | split

theorem only_judgeSite (hL : Within [.free, .out, .unsent, .clusters, .quarters, .stackTab, .engines, .mem, .memory, .parts, .partCtl, .copies, .fns, .buckets,
    .intr, .links, .sec, .power, .module, .spares] L) {s : State} (n : Nat) (h : Only L s₀ s) : Only L s₀ (State.judgeSite s n) := by
  dsimp only [State.judgeSite]
  repeat' first
    | with_reducible assumption
    | with_reducible apply only_foldl
    | with_reducible apply only_foldl_fst
    | intro _ _ _
    | with_reducible apply only_modSite
    | with_reducible apply only_latch
    | with_reducible apply only_modConsumer
    | with_reducible apply only_post
    | with_reducible apply only_judgeRefresh
    | with_reducible apply only_wideLoss
    | split
    | with_reducible apply only_set_module
  all_goals exact within_sub (by decide) hL

theorem ends_execSensorSample (hL : Within [.free, .out, .unsent, .clusters, .quarters, .stackTab, .engines, .mem, .memory, .parts, .partCtl, .copies, .fns,
    .buckets, .intr, .links, .sec, .power, .module, .spares] L) (site : SiteId) (a b : Option Int) {s : State} : Ends L s (execSensorSample site a b s) := by
  dsimp only [execSensorSample]
  have h := only_refl L s
  repeat' first
    | with_reducible assumption
    | with_reducible apply only_modSite
    | with_reducible apply only_sensorFails
    | with_reducible apply only_judgeSite
    | with_reducible apply ends_next
    | split
  all_goals exact within_sub (by decide) hL

theorem ends_execPllLockLoss (hL : Within [.free, .out, .unsent, .clusters, .quarters, .stackTab, .engines, .mem, .memory, .parts, .partCtl, .copies, .fns,
    .buckets, .intr, .links, .sec, .time, .module, .spares] L) (domain : Fin 25) {s : State} : Ends L s (execPllLockLoss domain s) := by
  dsimp only [execPllLockLoss]
  have h := only_refl L s
  repeat' first
    | with_reducible assumption
    | with_reducible apply only_parityError
    | with_reducible apply only_wideLoss
    | with_reducible apply ends_next
    | split
    | with_reducible apply only_set_time
    | with_reducible apply only_set_module
    | with_reducible refine only_mk ?_ (.inl rfl) (.inl rfl) (.inl rfl) (.inl rfl) (.inl rfl) (.inl rfl) (.inl rfl) (.inl rfl) (.inl rfl) (.inl rfl) (.inl rfl)
                            (.inl rfl) (.inl rfl) (.inl rfl) (.inl rfl) (.inl rfl) (.inl rfl) (.inl rfl) (.inr (within_mem hL (by simp)))
                            (.inr (within_mem hL (by simp))) (.inl rfl)
  all_goals exact within_sub (by decide) hL

theorem only_stepTime (hL : Within [.clusters, .memory, .parts, .copies, .fns, .intr, .links, .power, .time, .module, .spares] L) {s : State} (new : W64)
    (h : Only L s₀ s) : Only L s₀ (State.stepTime s new) := by
  dsimp only [State.stepTime]
  repeat' first
    | with_reducible assumption
    | split
    | with_reducible apply only_set_clusters
    | with_reducible apply only_set_memory
    | with_reducible apply only_set_parts
    | with_reducible apply only_set_copies
    | with_reducible apply only_set_fns
    | with_reducible apply only_set_intr
    | with_reducible apply only_set_links
    | with_reducible apply only_set_power
    | with_reducible apply only_set_time
    | with_reducible apply only_set_module
    | with_reducible apply only_set_spares
    | with_reducible refine only_mk ?_ (.inl rfl) (.inl rfl) (.inl rfl) (.inr (within_mem hL (by simp))) (.inl rfl) (.inl rfl) (.inl rfl)
                            (.inr (within_mem hL (by simp))) (.inr (within_mem hL (by simp))) (.inl rfl) (.inr (within_mem hL (by simp))) (.inl rfl)
                            (.inr (within_mem hL (by simp))) (.inl rfl) (.inr (within_mem hL (by simp))) (.inr (within_mem hL (by simp))) (.inl rfl)
                            (.inr (within_mem hL (by simp))) (.inr (within_mem hL (by simp))) (.inr (within_mem hL (by simp))) (.inr (within_mem hL (by simp)))

theorem only_setLock (hL : Within [.out, .unsent, .fns, .buckets, .time] L) {s : State} (m : TimeMode) (h : Only L s₀ s) : Only L s₀ (State.setLock s m) := by
  dsimp only [State.setLock]
  repeat' first
    | with_reducible assumption
    | with_reducible apply only_postAll
    | split
    | with_reducible apply only_set_time
  all_goals exact within_sub (by decide) hL

theorem only_takeSample (hL : Within [.free, .out, .unsent, .fns, .buckets, .time] L) {s : State} (offset : Int) (pulse : Bool) (h : Only L s₀ s) :
    Only L s₀ (State.takeSample s offset pulse) := by
  dsimp only [State.takeSample]
  repeat' first
    | with_reducible assumption
    | with_reducible apply only_useFree
    | with_reducible apply only_setLock
    | split
    | with_reducible apply only_set_time
  all_goals exact within_sub (by decide) hL

theorem ends_execPtmRequest (hL : Within [.out, .time] L) {s : State} : Ends L s (execPtmRequest s) := by
  dsimp only [execPtmRequest]
  have h := only_refl L s
  repeat' first
    | with_reducible assumption
    | with_reducible apply only_emit
    | with_reducible apply ends_next
    | split
    | with_reducible apply only_set_time
  all_goals exact within_sub (by decide) hL

theorem ends_execPtmSample (hL : Within [.free, .out, .unsent, .clusters, .memory, .parts, .copies, .fns, .buckets, .intr, .links, .power, .time, .module,
    .spares] L) (reference : W64) {s : State} : Ends L s (execPtmSample reference s) := by
  dsimp only [execPtmSample]
  have h := only_refl L s
  repeat' first
    | with_reducible assumption
    | with_reducible apply only_stepTime
    | with_reducible apply only_setLock
    | with_reducible apply only_takeSample
    | with_reducible apply ends_next
    | split
    | with_reducible apply only_set_time
  all_goals exact within_sub (by decide) hL

theorem ends_execHoldoverTimeout (hL : Within [.out, .unsent, .fns, .buckets, .time] L) {s : State} : Ends L s (execHoldoverTimeout s) := by
  dsimp only [execHoldoverTimeout]
  have h := only_refl L s
  repeat' first
    | with_reducible assumption
    | with_reducible apply only_setLock
    | with_reducible apply ends_next
    | split

theorem ends_execPulseLost (hL : Within [.time] L) {s : State} : Ends L s (execPulseLost s) := by
  dsimp only [execPulseLost]
  have h := only_refl L s
  repeat' first
    | with_reducible assumption
    | with_reducible apply ends_next
    | split
    | with_reducible apply only_set_time

theorem only_extraPulse (hL : Within [.out, .unsent, .fns, .buckets, .intr] L) {s : State} (h : Only L s₀ s) : Only L s₀ (State.extraPulse s) := by
  dsimp only [State.extraPulse]
  repeat' first
    | with_reducible assumption
    | with_reducible apply only_post
    | split
    | with_reducible apply only_set_intr
  all_goals exact within_sub (by decide) hL

theorem ends_execTimePulseEdge (hL : Within [.free, .out, .unsent, .fns, .buckets, .intr, .time] L) {s : State} : Ends L s (execTimePulseEdge s) := by
  dsimp only [execTimePulseEdge]
  have h := only_refl L s
  repeat' first
    | with_reducible assumption
    | with_reducible apply only_extraPulse
    | with_reducible apply only_latch
    | with_reducible apply only_takeSample
    | with_reducible apply ends_next
    | split
    | with_reducible apply only_set_time
  all_goals exact within_sub (by decide) hL

theorem ends_execModuleTimeTick (hL : Within [.intr, .time] L) {s : State} : Ends L s (execModuleTimeTick s) := by
  dsimp only [execModuleTimeTick]
  have h := only_refl L s
  repeat' first
    | with_reducible assumption
    | with_reducible apply only_latch
    | with_reducible apply ends_next
    | split
    | with_reducible apply only_set_time
  all_goals exact within_sub (by decide) hL

theorem only_coldReset (hL : Within [.free, .out, .unsent, .clusters, .quarters, .stackTab, .engines, .mem, .memory, .parts, .partCtl, .copies, .nextCopy, .fns,
    .buckets, .intr, .regs, .links, .sec, .power, .time, .module, .spares] L) {s : State} (kind : Nat) (perst : Bool) (h : Only L s₀ s) :
    Only L s₀ (State.coldReset s kind perst) := by
  dsimp only [State.coldReset]
  repeat' first
    | with_reducible assumption
    | with_reducible apply only_bare
    | split
    | with_reducible apply only_set_sec
    | with_reducible apply only_set_power
    | with_reducible apply only_set_module
    | with_reducible refine only_mk ?_ (.inl rfl) (.inl rfl) (.inl rfl) (.inl rfl) (.inl rfl) (.inl rfl) (.inl rfl) (.inl rfl) (.inl rfl) (.inl rfl) (.inl rfl)
                            (.inl rfl) (.inl rfl) (.inl rfl) (.inl rfl) (.inl rfl) (.inr (within_mem hL (by simp))) (.inr (within_mem hL (by simp))) (.inl rfl)
                            (.inr (within_mem hL (by simp))) (.inl rfl)

theorem only_warmReset (hL : Within [.free, .out, .unsent, .clusters, .quarters, .stackTab, .engines, .mem, .memory, .parts, .partCtl, .copies, .fns, .buckets,
    .intr, .regs, .links, .sec, .time, .module, .spares] L) {s : State} (kind : Nat) (host : Bool) (h : Only L s₀ s) :
    Only L s₀ (State.warmReset s kind host) := by
  have hstop : Only L s₀ s.stopModule.restartCores :=
    only_restartCores (within_sub (by decide) hL) (only_stopModule (within_sub (by decide) hL) h)
  unfold State.warmReset
  generalize s.stopModule.restartCores = u at hstop ⊢
  refine only_openPort (within_sub (by decide) hL) (only_trans hstop ⟨rfl, fun _ => rfl, fun _ => legal_of_regs_nil rfl, ?_⟩)
  intro f hf
  cases f <;> first | rfl | exact absurd (within_mem hL (by simp)) hf

theorem only_resetFn (hL : Within [.fns, .regs] L) {s : State} (fn : Nat) (h : Only L s₀ s) : Only L s₀ (State.resetFn s fn) := by
  have hcut := only_cutRings (within_sub (by decide) hL) fn h
  unfold State.resetFn
  generalize s.cutRings fn = u at hcut ⊢
  refine only_trans hcut ⟨rfl, id, legal_congr fun k hk => ?_, fun f hf => ?_⟩
  · dsimp only
    rw [tab_get_keep, if_pos]
    unfold FreeKey at hk
    simp only [Bool.not_eq_true', Bool.and_eq_false_iff, decide_eq_false_iff_not, beq_eq_false_iff_ne]
    omega
  · cases f <;> first | rfl | exact absurd (within_mem hL (by simp)) hf

theorem only_bootClusters (hL : Within [.clusters, .sec, .spares] L) {s : State} (failing : List Nat) (h : Only L s₀ s) : Only L s₀ (State.bootClusters s failing) := by
  dsimp only [State.bootClusters]
  repeat' first
    | with_reducible assumption
    | with_reducible apply only_foldl
    | with_reducible apply only_foldl_fst
    | intro _ _ _
    | with_reducible apply only_modCluster
    | with_reducible apply only_mapChange
    | with_reducible apply only_logWear
    | split
  all_goals exact within_sub (by decide) hL

theorem only_bootQuarter (hL : Within [.quarters, .sec, .spares] L) {s : State} (failing : List Nat) (q : Nat) (h : Only L s₀ s) : Only L s₀ (State.bootQuarter s failing q) := by
  dsimp only [State.bootQuarter]
  repeat' first
    | with_reducible assumption
    | with_reducible apply only_foldl
    | with_reducible apply only_foldl_fst
    | intro _ _ _
    | with_reducible apply only_mapChange
    | with_reducible apply only_logWear
    | with_reducible apply only_modQuarter
    | split
  all_goals exact within_sub (by decide) hL

theorem only_bootSensors (hL : Within [.sec, .power, .spares] L) {s : State} (failing : List Nat) (h : Only L s₀ s) : Only L s₀ (State.bootSensors s failing) := by
  dsimp only [State.bootSensors]
  repeat' first
    | with_reducible assumption
    | with_reducible apply only_foldl
    | with_reducible apply only_foldl_fst
    | intro _ _ _
    | with_reducible apply only_modSite
    | with_reducible apply only_mapChange
    | with_reducible apply only_logWear
    | split
  all_goals exact within_sub (by decide) hL

theorem only_bootStack (hL : Within [.stackTab, .sec, .spares] L) {s : State} (failing : List Nat) (k : Nat) (h : Only L s₀ s) : Only L s₀ (State.bootStack s failing k) := by
  dsimp only [State.bootStack]
  repeat' first
    | with_reducible assumption
    | with_reducible apply only_foldl
    | with_reducible apply only_foldl_fst
    | intro _ _ _
    | with_reducible apply only_mapChange
    | with_reducible apply only_logWear
    | with_reducible apply only_modStack
    | split
  all_goals exact within_sub (by decide) hL

theorem only_bootLanes (hL : Within [.links] L) {s : State} (failing : List Nat) (h : Only L s₀ s) : Only L s₀ (State.bootLanes s failing) := by
  dsimp only [State.bootLanes]
  repeat' first
    | with_reducible assumption
    | with_reducible apply only_foldl
    | with_reducible apply only_foldl_fst
    | intro _ _ _
    | with_reducible apply only_modPort
    | split

theorem only_bootRails (hL : Within [.power, .spares] L) {s : State} (h : Only L s₀ s) : Only L s₀ (State.bootRails s) := by
  dsimp only [State.bootRails]
  repeat' first
    | with_reducible assumption
    | with_reducible apply only_foldl
    | with_reducible apply only_foldl_fst
    | intro _ _ _
    | with_reducible apply only_modRail
    | split
    | with_reducible apply only_set_spares
  all_goals exact within_sub (by decide) hL

theorem only_stopBoot (hL : Within [.module] L) {s : State} (code : Nat) (h : Only L s₀ s) : Only L s₀ (State.stopBoot s code) := by
  dsimp only [State.stopBoot]
  repeat' first
    | with_reducible assumption
    | split
    | with_reducible apply only_set_module

theorem only_bootTarget (hL : Within [.free, .sec] L) {s : State} (target : Nat) (h : Only L s₀ s) : OnlyO L s₀ (State.bootTarget s target) := by
  dsimp only [State.bootTarget]
  repeat' first
    | with_reducible assumption
    | with_reducible apply onlyO_some
    | exact onlyO_none
    | with_reducible apply only_useFree
    | with_reducible apply only_extend
    | split
    | with_reducible apply only_set_sec
  all_goals exact within_sub (by decide) hL

theorem only_bootLibrary (hL : Within [.sec] L) {s : State} (h : Only L s₀ s) : Only L s₀ (State.bootLibrary s) := by
  dsimp only [State.bootLibrary]
  repeat' first
    | with_reducible assumption
    | with_reducible apply only_extend
    | split
    | with_reducible apply only_set_sec

theorem only_startTime (hL : Within [.time, .module] L) {s : State} (ga : BitVec 3) (h : Only L s₀ s) : Only L s₀ (State.startTime s ga) := by
  dsimp only [State.startTime]
  repeat' first
    | with_reducible assumption
    | split
    | with_reducible apply only_set_time
    | with_reducible apply only_set_module
    | with_reducible refine only_mk ?_ (.inl rfl) (.inl rfl) (.inl rfl) (.inl rfl) (.inl rfl) (.inl rfl) (.inl rfl) (.inl rfl) (.inl rfl) (.inl rfl) (.inl rfl)
                            (.inl rfl) (.inl rfl) (.inl rfl) (.inl rfl) (.inl rfl) (.inl rfl) (.inl rfl) (.inr (within_mem hL (by simp)))
                            (.inr (within_mem hL (by simp))) (.inl rfl)

theorem only_blankAll (hL : Within [.mem, .module] L) {s : State} (m) (h : Only L s₀ s) : Only L s₀ { s with mem := [], module := m } :=
  only_trans h ⟨rfl, fun _ => rfl, id, fun f hf => by cases f <;> first | rfl | exact absurd (within_mem hL (by simp)) hf⟩

theorem only_selfTest (hL : Within [.clusters, .quarters, .stackTab, .mem, .links, .sec, .power, .module, .spares] L) {s : State} (x : BootResult)
    (h : Only L s₀ s) : Only L s₀ (State.selfTest s x) := by
  dsimp only [State.selfTest]
  repeat' first
    | with_reducible assumption
    | with_reducible apply only_stopBoot
    | with_reducible apply only_foldl
    | intro _ _ _
    | with_reducible apply only_bootStack
    | with_reducible apply only_bootSensors
    | with_reducible apply only_bootQuarter
    | with_reducible apply only_bootClusters
    | with_reducible apply only_bootLanes
    | with_reducible apply only_bootRails
    | with_reducible apply only_logWear
    | split
    | with_reducible apply only_blankAll
  all_goals exact within_sub (by decide) hL

theorem only_stageOne (hL : Within [.free, .clusters, .quarters, .stackTab, .mem, .links, .sec, .power, .module, .spares] L) {s : State} (r : BootResult)
    (h : Only L s₀ s) : Only L s₀ (State.stageOne s r) := by
  dsimp only [State.stageOne]
  repeat' first
    | with_reducible assumption
    | with_reducible apply only_bootTarget
    | with_reducible apply only_stopBoot
    | with_reducible apply only_extend
    | with_reducible apply only_bootLibrary
    | with_reducible apply only_selfTest
    | split
    | refine only_some (by with_reducible assumption) ?_
    | with_reducible apply only_set_sec
  all_goals exact within_sub (by decide) hL

theorem only_boot (hL : Within [.free, .clusters, .quarters, .stackTab, .mem, .links, .sec, .power, .time, .module, .spares] L) {s : State} (r : BootResult)
    (h : Only L s₀ s) : Only L s₀ (State.boot s r) := by
  dsimp only [State.boot]
  repeat' first
    | with_reducible assumption
    | with_reducible apply only_stopBoot
    | with_reducible apply only_bootTarget
    | with_reducible apply only_startTime
    | with_reducible apply only_stageOne
    | split
    | refine only_some (by with_reducible assumption) ?_
  all_goals exact within_sub (by decide) hL

theorem ends_execModuleInsert (hL : Within [.free, .out, .unsent, .clusters, .quarters, .stackTab, .engines, .mem, .memory, .parts, .partCtl, .copies,
    .nextCopy, .fns, .buckets, .intr, .regs, .links, .sec, .power, .time, .module, .spares] L) {s : State} : Ends L s (execModuleInsert s) := by
  dsimp only [execModuleInsert]
  have h := only_refl L s
  repeat' first
    | with_reducible assumption
    | with_reducible apply only_bare
    | with_reducible apply ends_next
    | split

theorem ends_execModuleRemove (hL : Within [.free, .out, .unsent, .clusters, .quarters, .stackTab, .engines, .mem, .memory, .parts, .partCtl, .copies,
    .nextCopy, .fns, .buckets, .intr, .regs, .links, .sec, .power, .time, .module, .spares] L) {s : State} : Ends L s (execModuleRemove s) := by
  dsimp only [execModuleRemove]
  have h := only_refl L s
  repeat' first
    | with_reducible assumption
    | with_reducible apply only_bare
    | with_reducible apply ends_next

theorem ends_execPerstNAssert (hL : Within [.free, .out, .unsent, .clusters, .quarters, .stackTab, .engines, .mem, .memory, .parts, .partCtl, .copies,
    .nextCopy, .fns, .buckets, .intr, .regs, .links, .sec, .power, .time, .module, .spares] L) (microseconds : Nat) {s : State} :
    Ends L s (execPerstNAssert microseconds s) := by
  dsimp only [execPerstNAssert]
  have h := only_refl L s
  repeat' first
    | with_reducible assumption
    | with_reducible apply only_useFree
    | with_reducible apply only_coldReset
    | with_reducible apply ends_next
    | split
    | with_reducible apply only_set_module
  all_goals exact within_sub (by decide) hL

theorem ends_execPerstNDeassert (hL : Within [.module] L) {s : State} : Ends L s (execPerstNDeassert s) := by
  dsimp only [execPerstNDeassert]
  have h := only_refl L s
  repeat' first
    | with_reducible assumption
    | with_reducible apply ends_next
    | split
    | with_reducible apply only_set_module

theorem ends_execModResetCold (hL : Within [.free, .out, .unsent, .clusters, .quarters, .stackTab, .engines, .mem, .memory, .parts, .partCtl, .copies,
    .nextCopy, .fns, .buckets, .intr, .regs, .links, .sec, .power, .time, .module, .spares] L) (fn : FnId) (value : W64) {s : State} :
    Ends L s (execModResetCold fn value s) := by
  dsimp only [execModResetCold]
  have h := only_refl L s
  repeat' first
    | with_reducible assumption
    | with_reducible apply only_coldReset
    | with_reducible apply ends_next
    | split

theorem ends_execModResetWarm (hL : Within [.free, .out, .unsent, .clusters, .quarters, .stackTab, .engines, .mem, .memory, .parts, .partCtl, .copies,
    .nextCopy, .fns, .buckets, .intr, .regs, .links, .sec, .power, .time, .module, .spares] L) (fn : FnId) (value : W64) {s : State} :
    Ends L s (execModResetWarm fn value s) := by
  dsimp only [execModResetWarm]
  have h := only_refl L s
  repeat' first
    | with_reducible assumption
    | with_reducible apply only_coldReset
    | with_reducible apply only_warmReset
    | with_reducible apply ends_next
    | split
  all_goals exact within_sub (by decide) hL

theorem ends_execHotReset (hL : Within [.free, .out, .unsent, .clusters, .quarters, .stackTab, .engines, .mem, .memory, .parts, .partCtl, .copies, .fns,
    .buckets, .intr, .regs, .links, .sec, .time, .module, .spares] L) {s : State} : Ends L s (execHotReset s) := by
  dsimp only [execHotReset]
  have h := only_refl L s
  repeat' first
    | with_reducible assumption
    | with_reducible apply only_warmReset
    | with_reducible apply ends_next
    | split

theorem ends_execVfFunctionLevelReset (hL : Within [.free, .out, .unsent, .clusters, .quarters, .stackTab, .engines, .mem, .memory, .parts, .copies, .fns,
    .buckets, .intr, .regs, .links, .sec, .spares] L) (fn : FnId) {s : State} : Ends L s (execVfFunctionLevelReset fn s) := by
  dsimp only [execVfFunctionLevelReset]
  have h := only_refl L s
  repeat' first
    | with_reducible assumption
    | with_reducible apply only_resetFn
    | with_reducible apply only_loseWork
    | with_reducible apply only_tdiFails
    | with_reducible apply only_terminate
    | with_reducible apply ends_next
    | split
  all_goals exact within_sub (by decide) hL

theorem ends_execBoot (hL : Within [.free, .clusters, .quarters, .stackTab, .mem, .links, .sec, .power, .time, .module, .spares] L) (r : BootResult)
    {s : State} : Ends L s (execBoot r s) := by
  dsimp only [execBoot]
  have h := only_refl L s
  repeat' first
    | with_reducible assumption
    | with_reducible apply only_boot
    | with_reducible apply ends_next
    | split

theorem only_routeLines (hL : Within [.free, .intr] L) {s : State} (h : Only L s₀ s) : Only L s₀ (State.routeLines s) := by
  dsimp only [State.routeLines]
  repeat' first
    | with_reducible assumption
    | with_reducible apply only_foldl
    | with_reducible apply only_foldl_fst
    | intro _ _ _
    | split
    | with_reducible apply only_set_free
    | with_reducible apply only_set_intr
    | with_reducible refine only_mk ?_ (.inr (within_mem hL (by simp))) (.inl rfl) (.inl rfl) (.inl rfl) (.inl rfl) (.inl rfl) (.inl rfl) (.inl rfl) (.inl rfl)
                            (.inl rfl) (.inl rfl) (.inl rfl) (.inl rfl) (.inl rfl) (.inr (within_mem hL (by simp))) (.inl rfl) (.inl rfl) (.inl rfl) (.inl rfl)
                            (.inl rfl) (.inl rfl)

theorem ends_execFirmwareReady (hL : Within [.free, .out, .unsent, .fns, .buckets, .intr, .module] L) {s : State} : Ends L s (execFirmwareReady s) := by
  dsimp only [execFirmwareReady]
  have h := only_refl L s
  repeat' first
    | with_reducible assumption
    | with_reducible apply only_routeLines
    | with_reducible apply only_postAll
    | with_reducible apply ends_next
    | split
    | with_reducible apply only_set_module
  all_goals exact within_sub (by decide) hL

theorem ends_execConfigurationWrite (hL : Within [.fns, .regs, .module] L) (numVfs : Fin 9) (vfEnable ptmEnable : Bool) {s : State} :
    Ends L s (execConfigurationWrite numVfs vfEnable ptmEnable s) := by
  dsimp only [execConfigurationWrite]
  have h := only_refl L s
  repeat' first
    | with_reducible assumption
    | with_reducible apply only_foldl
    | with_reducible apply only_foldl_fst
    | intro _ _ _
    | with_reducible apply only_resetFn
    | with_reducible apply ends_next
    | split
    | with_reducible apply only_set_module
  all_goals exact within_sub (by decide) hL

theorem ends_execRepairMapWrite (hL : Within [.sec, .spares] L) {s : State} : Ends L s (execRepairMapWrite s) := by
  dsimp only [execRepairMapWrite]
  have h := only_refl L s
  repeat' first
    | with_reducible assumption
    | with_reducible apply ends_next
    | split
    | with_reducible apply only_set_sec
    | with_reducible apply only_set_spares
    | with_reducible refine only_mk ?_ (.inl rfl) (.inl rfl) (.inl rfl) (.inl rfl) (.inl rfl) (.inl rfl) (.inl rfl) (.inl rfl) (.inl rfl) (.inl rfl) (.inl rfl)
                            (.inl rfl) (.inl rfl) (.inl rfl) (.inl rfl) (.inl rfl) (.inr (within_mem hL (by simp))) (.inl rfl) (.inl rfl) (.inl rfl)
                            (.inr (within_mem hL (by simp)))

theorem only_wearRead (hL : Within [.spares] L) {s : State} (value : W64) (h : Only L s₀ s) : Only L s₀ (State.wearRead s value) := by
  dsimp only [State.wearRead]
  repeat' first
    | with_reducible assumption
    | split
    | with_reducible apply only_set_spares

theorem ends_execWearLogRead (hL : Within [.spares] L) (fn : FnId) (value : W64) {s : State} : Ends L s (execWearLogRead fn value s) := by
  dsimp only [execWearLogRead]
  have h := only_refl L s
  repeat' first
    | with_reducible assumption
    | with_reducible apply only_wearRead
    | with_reducible apply ends_next
    | split

theorem ends_execWearLogReadComplete (hL : Within [.out, .unsent, .spares] L) (written : Bool) {s : State} : Ends L s (execWearLogReadComplete written s) := by
  dsimp only [execWearLogReadComplete]
  have h := only_refl L s
  repeat' first
    | with_reducible assumption
    | with_reducible apply only_hostWrite
    | with_reducible apply ends_next
    | split
    | with_reducible apply only_set_spares
  all_goals exact within_sub (by decide) hL

theorem ends_execClusterRetest (hL : Within [.clusters, .sec, .module, .spares] L) (failing : List Nat) {s : State} : Ends L s (execClusterRetest failing s) := by
  dsimp only [execClusterRetest]
  have h := only_refl L s
  repeat' first
    | with_reducible assumption
    | with_reducible apply only_foldl
    | with_reducible apply only_foldl_fst
    | intro _ _ _
    | with_reducible apply only_markCluster
    | with_reducible apply ends_next
    | split
    | with_reducible apply only_set_module
  all_goals exact within_sub (by decide) hL

theorem only_clusterMarkWrite (hL : Within [.clusters, .sec, .spares] L) {s : State} (value : W64) (h : Only L s₀ s) : Only L s₀ (State.clusterMarkWrite s value) := by
  dsimp only [State.clusterMarkWrite]
  repeat' first
    | with_reducible assumption
    | with_reducible apply only_markCluster
    | split

theorem ends_execClusterMark (hL : Within [.clusters, .sec, .spares] L) (fn : FnId) (value : W64) {s : State} : Ends L s (execClusterMark fn value s) := by
  dsimp only [execClusterMark]
  have h := only_refl L s
  repeat' first
    | with_reducible assumption
    | with_reducible apply only_clusterMarkWrite
    | with_reducible apply ends_next
    | split

theorem only_copyLine (hL : Within [.free, .out, .unsent, .stackTab, .mem, .memory, .parts, .fns, .buckets, .intr, .links, .sec, .spares] L) {s : State}
    (pln : Nat) (h : Only L s₀ s) : Only L s₀ (State.copyLine s pln) := by
  dsimp only [State.copyLine]
  repeat' first
    | with_reducible assumption
    | with_reducible apply only_corrected
    | with_reducible apply only_setStored
    | with_reducible apply only_badLine
    | split
  all_goals exact within_sub (by decide) hL

theorem only_remap (hL : Within [.free, .out, .unsent, .stackTab, .mem, .memory, .parts, .fns, .buckets, .intr, .links, .sec, .spares] L) {s : State}
    (b : BankId) (row : BitVec 16) (k base : Nat) (lines : List Nat) (die pln : Nat)
    (h : Only L s₀ s) : Only L s₀ (execRowRemap.remap b row s k base lines die pln) := by
  dsimp only [execRowRemap.remap]
  repeat' first
    | with_reducible assumption
    | with_reducible apply only_dieTrigger
    | with_reducible apply only_noteRecent
    | with_reducible apply only_logWear
    | with_reducible apply only_mapChange
    | with_reducible apply only_modStack
    | with_reducible apply only_foldl
    | intro _ _ _
    | with_reducible apply only_copyLine
    | split
  all_goals exact within_sub (by decide) hL

theorem ends_execRowRemap (hL : Within [.free, .out, .unsent, .stackTab, .mem, .memory, .parts, .fns, .buckets, .intr, .links, .sec, .spares] L) (b : BankId)
    (row : BitVec 16) {s : State} : Ends L s (execRowRemap b row s) := by
  dsimp only [execRowRemap]
  have h := only_refl L s
  repeat' first
    | with_reducible assumption
    | with_reducible apply ends_next
    | with_reducible apply only_remap
    | split

theorem only_dieCmd (hL : Within [.stackTab, .sec, .spares] L) {s : State} (value : W64) (h : Only L s₀ s) : Only L s₀ (State.dieCmd s value) := by
  dsimp only [State.dieCmd]
  repeat' first
    | with_reducible assumption
    | with_reducible apply only_dieTrigger
    | split

theorem ends_execDieCopy (hL : Within [.stackTab, .sec, .spares] L) (fn : FnId) (value : W64) {s : State} : Ends L s (execDieCopy fn value s) := by
  dsimp only [execDieCopy]
  have h := only_refl L s
  repeat' first
    | with_reducible assumption
    | with_reducible apply only_dieCmd
    | with_reducible apply ends_next
    | split

theorem only_spareFails (hL : Within [.stackTab, .sec, .spares] L) {s : State} (k : Nat) (h : Only L s₀ s) : Only L s₀ (State.spareFails s k) := by
  dsimp only [State.spareFails]
  repeat' first
    | with_reducible assumption
    | with_reducible apply only_modStack
    | with_reducible apply only_dieTrigger
    | split
  all_goals exact within_sub (by decide) hL

theorem ends_execDieCopyRowsDone (hL : Within [.free, .out, .unsent, .stackTab, .engines, .mem, .memory, .parts, .fns, .buckets, .intr, .links, .sec, .spares]
    L) (st : RowsDone) {s : State} : Ends L s (execDieCopyRowsDone st s) := by
  dsimp only [execDieCopyRowsDone]
  have h := only_refl L s
  repeat' first
    | with_reducible assumption
    | with_reducible apply only_foldl
    | with_reducible apply only_foldl_fst
    | intro _ _ _
    | with_reducible apply only_spareFails
    | with_reducible apply only_copyLine
    | with_reducible apply only_modStack
    | with_reducible apply only_resumeOne
    | with_reducible apply ends_next
    | split
  all_goals exact within_sub (by decide) hL

theorem ends_execDiemap (hL : Within [.out, .stackTab, .engines, .parts, .fns, .intr, .sec, .spares] L) (st : StackId) (src : PacketSource) (pk : Packet)
    {s : State} : Ends L s (execDiemap st src pk s) := by
  dsimp only [execDiemap]
  have h := only_refl L s
  repeat' first
    | with_reducible assumption
    | intro _ _ _
    | intro _ _
    | with_reducible apply only_packet
    | with_reducible apply only_firmwarePacket
    | with_reducible apply only_modStack
    | with_reducible apply only_mapChange
    | with_reducible apply only_logWear
    | with_reducible apply only_releaseHeld
    | with_reducible apply ends_next
    | split
  all_goals exact within_sub (by decide) hL

theorem only_patFailures (hL : Within [.spares] L) {s : State} (failing : List (Nat × Bool)) (h : Only L s₀ s) : Only L s₀ (State.patFailures s failing) := by
  dsimp only [State.patFailures]
  repeat' first
    | with_reducible assumption
    | with_reducible apply only_foldl
    | with_reducible apply only_foldl_fst
    | intro _ _ _
    | split
    | with_reducible apply only_set_spares

theorem ends_execPattern (hL : Within [.out, .stackTab, .mem, .fns, .intr, .spares] L) (st : StackId) (src : PacketSource) (pk : Packet) (channel : Fin 32)
    (failing : List Nat) {s : State} : Ends L s (execPattern st src pk channel failing s) := by
  dsimp only [execPattern]
  have h := only_refl L s
  repeat' first
    | with_reducible assumption
    | intro _ _ _
    | intro _ _
    | with_reducible apply only_packet
    | with_reducible apply only_firmwarePacket
    | with_reducible apply only_blankWhere
    | with_reducible apply only_patFailures
    | with_reducible apply ends_next
    | split
  all_goals exact within_sub (by decide) hL

theorem only_patCommand (hL : Within [.spares] L) {s : State} (value : W64) (h : Only L s₀ s) : Only L s₀ (State.patCommand s value) := by
  dsimp only [State.patCommand]
  repeat' first
    | with_reducible assumption
    | split
    | with_reducible apply only_set_spares

theorem ends_execTstPatCmd (hL : Within [.spares] L) (fn : FnId) (value : W64) {s : State} : Ends L s (execTstPatCmd fn value s) := by
  dsimp only [execTstPatCmd]
  have h := only_refl L s
  repeat' first
    | with_reducible assumption
    | with_reducible apply only_patCommand
    | with_reducible apply ends_next
    | split

theorem ends_execPatternRunComplete (hL : Within [.mem, .spares] L) (failing : List (BitVec 34 × Bool)) {s : State} : Ends L s (execPatternRunComplete failing s) := by
  dsimp only [execPatternRunComplete]
  have h := only_refl L s
  repeat' first
    | with_reducible assumption
    | with_reducible apply only_blankWhere
    | with_reducible apply only_patFailures
    | with_reducible apply ends_next
    | split
    | with_reducible apply only_set_spares
  all_goals exact within_sub (by decide) hL

theorem only_portTest (hL : Within [.intr, .regs, .links] L) {s : State} (n : Nat) (value : W64) (h : Only L s₀ s) : Only L s₀ (State.portTest s n value) := by
  dsimp only [State.portTest]
  repeat' first
    | with_reducible assumption
    | with_reducible apply only_setReg
    | with_reducible apply only_modPort
    | with_reducible apply only_startTraining
    | split
  any_goals exact within_sub (by decide) hL
  all_goals (unfold FreeKey regKey; omega)

theorem ends_execTstPortTest (hL : Within [.intr, .regs, .links] L) (fn : FnId) (port : PortId) (value : W64) {s : State} : Ends L s (execTstPortTest fn port value s) := by
  dsimp only [execTstPortTest]
  have h := only_refl L s
  repeat' first
    | with_reducible assumption
    | with_reducible apply only_portTest
    | with_reducible apply ends_next
    | split

theorem ends_execCheckerLock (hL : Within [.links] L) (port : PortId) (lane : LaneId) (errors : BitVec 12) {s : State} : Ends L s (execCheckerLock port lane errors s) := by
  dsimp only [execCheckerLock]
  have h := only_refl L s
  repeat' first
    | with_reducible assumption
    | with_reducible apply only_modPort
    | with_reducible apply ends_next
    | split

theorem only_secStart (hL : Within [.sec] L) {s : State} (fn op : Nat) (arg : Option Line) (h : Only L s₀ s) : Only L s₀ (State.secStart s fn op arg) := by
  dsimp only [State.secStart]
  repeat' first
    | with_reducible assumption
    | split
    | with_reducible apply only_set_sec

theorem ends_execNonce (hL : Within [.out, .unsent, .sec] L) (fn : FnId) (fresh : NonceInput) {s : State} : Ends L s (execNonce fn fresh s) := by
  dsimp only [execNonce]
  have h := only_refl L s
  repeat' first
    | with_reducible assumption
    | with_reducible apply only_secStart
    | with_reducible apply only_hostWrite
    | with_reducible apply ends_next
    | split
    | with_reducible apply only_set_sec
  all_goals exact within_sub (by decide) hL

theorem ends_execUpdate (hL : Within [.sec] L) (fn : FnId) (arg : Option Line) {s : State} : Ends L s (execUpdate fn arg s) := by
  dsimp only [execUpdate]
  have h := only_refl L s
  repeat' first
    | with_reducible assumption
    | with_reducible apply only_secStart
    | with_reducible apply ends_next

theorem ends_execCommitFloor (hL : Within [.sec] L) (fn : FnId) (arg : Option Line) {s : State} : Ends L s (execCommitFloor fn arg s) := by
  dsimp only [execCommitFloor]
  have h := only_refl L s
  repeat' first
    | with_reducible assumption
    | with_reducible apply only_secStart
    | with_reducible apply ends_next

theorem ends_execEnrol (hL : Within [.sec] L) (fn : FnId) (arg : Option Line) {s : State} : Ends L s (execEnrol fn arg s) := by
  dsimp only [execEnrol]
  have h := only_refl L s
  repeat' first
    | with_reducible assumption
    | with_reducible apply only_secStart
    | with_reducible apply ends_next

theorem ends_execRevoke (hL : Within [.sec] L) (fn : FnId) (arg : Option Line) {s : State} : Ends L s (execRevoke fn arg s) := by
  dsimp only [execRevoke]
  have h := only_refl L s
  repeat' first
    | with_reducible assumption
    | with_reducible apply only_secStart
    | with_reducible apply ends_next

theorem ends_execUnlock (hL : Within [.sec] L) (fn : FnId) (arg : Option Line) {s : State} : Ends L s (execUnlock fn arg s) := by
  dsimp only [execUnlock]
  have h := only_refl L s
  repeat' first
    | with_reducible assumption
    | with_reducible apply only_secStart
    | with_reducible apply ends_next

theorem only_setFlash (hL : Within [.sec] L) {s : State} (f : Flash) (h : Only L s₀ s) : Only L s₀ (State.setFlash s f) := by
  dsimp only [State.setFlash]
  repeat' first
    | with_reducible assumption
    | split
    | with_reducible apply only_set_sec

theorem only_updateImage (hL : Within [.sec] L) {s : State} (target : Nat) (img : Image) (flashOk : Bool) (h : Only L s₀ s) :
    Only L s₀ (State.updateImage s target img flashOk).1 := by
  dsimp only [State.updateImage]
  repeat' first
    | with_reducible assumption
    | with_reducible apply only_setFlash
    | split

theorem only_updateLibrary (hL : Within [.stackTab, .engines, .sec] L) {s : State} (img : Image) (flashOk : Bool) (h : Only L s₀ s) :
    Only L s₀ (State.updateLibrary s img flashOk).1 := by
  dsimp only [State.updateLibrary]
  repeat' first
    | with_reducible assumption
    | with_reducible apply only_foldl
    | with_reducible apply only_foldl_fst
    | intro _ _ _
    | with_reducible apply only_setFlash
    | with_reducible apply only_resumeOne
    | split
    | with_reducible apply only_set_sec
  all_goals exact within_sub (by decide) hL

theorem only_doUpdate (hL : Within [.stackTab, .engines, .sec] L) {s : State} (a : Line) (body : Option (List Byte)) (flashOk : Bool) (h : Only L s₀ s) :
    Only L s₀ (State.doUpdate s a body flashOk).1 := by
  dsimp only [State.doUpdate]
  repeat' first
    | with_reducible assumption
    | with_reducible apply only_updateLibrary
    | with_reducible apply only_updateImage
    | split
    | refine only_fst (by with_reducible assumption) ?_
  all_goals exact within_sub (by decide) hL

theorem only_doCommit (hL : Within [.free, .sec] L) {s : State} (a : Line) (flashOk : Bool) (h : Only L s₀ s) : Only L s₀ (State.doCommit s a flashOk).1 := by
  dsimp only [State.doCommit]
  repeat' first
    | with_reducible assumption
    | with_reducible apply only_useFree
    | with_reducible apply only_setFlash
    | split
  all_goals exact within_sub (by decide) hL

theorem only_setOwner (hL : Within [.sec] L) {s : State} (slot : Nat) (o : Option OwnerKey) (h : Only L s₀ s) : Only L s₀ (State.setOwner s slot o) := by
  dsimp only [State.setOwner]
  repeat' first
    | with_reducible assumption
    | with_reducible apply only_setFlash
    | with_reducible apply only_extend

theorem only_doOwner (hL : Within [.sec] L) {s : State} (o : SecOp) (body sig : Option (List Byte)) (flashOk : Bool) (h : Only L s₀ s) :
    Only L s₀ (State.doOwner s o body sig flashOk).1 := by
  dsimp only [State.doOwner]
  repeat' first
    | with_reducible assumption
    | with_reducible apply only_setOwner
    | split

theorem only_dropKeys (hL : Within [.out, .parts, .fns, .links, .sec] L) {s : State} (h : Only L s₀ s) : Only L s₀ (State.dropKeys s) := by
  dsimp only [State.dropKeys]
  repeat' first
    | with_reducible assumption
    | with_reducible apply only_foldl
    | with_reducible apply only_foldl_fst
    | intro _ _ _
    | with_reducible apply only_destroyKeys
    | with_reducible apply only_endSessions
    | with_reducible apply only_dropIde
    | split
    | with_reducible apply only_set_sec
  all_goals exact within_sub (by decide) hL

theorem only_renewPoste (hL : Within [.free, .out, .unsent, .clusters, .stackTab, .engines, .parts, .fns, .buckets, .intr] L) {s : State} (p : Nat)
    (h : Only L s₀ s) : Only L s₀ (State.renewPoste s p) := by
  dsimp only [State.renewPoste]
  repeat' first
    | with_reducible assumption
    | with_reducible apply only_foldl
    | with_reducible apply only_foldl_fst
    | intro _ _ _
    | with_reducible apply only_replayGuard
    | with_reducible apply only_returned
    | with_reducible apply only_newPoste
    | split
  all_goals exact within_sub (by decide) hL

theorem only_doUnlock (hL : Within [.free, .out, .unsent, .clusters, .quarters, .stackTab, .engines, .mem, .memory, .parts, .copies, .fns, .buckets, .intr,
    .links, .sec, .spares] L) {s : State} (token : List Byte) (h : Only L s₀ s) : Only L s₀ (State.doUnlock s token) := by
  dsimp only [State.doUnlock]
  repeat' first
    | with_reducible assumption
    | with_reducible apply only_foldl
    | with_reducible apply only_foldl_fst
    | intro _ _ _
    | with_reducible apply only_dropKeys
    | with_reducible apply only_extend
    | with_reducible apply only_terminate
    | with_reducible apply only_renewPoste
    | with_reducible apply only_openPort
    | split
    | with_reducible apply only_set_sec
  all_goals exact within_sub (by decide) hL

theorem only_endUnlock (hL : Within [.free, .out, .unsent, .clusters, .quarters, .stackTab, .engines, .mem, .memory, .parts, .copies, .fns, .buckets, .intr,
    .links, .sec, .spares] L) {s : State} (o : SecOp) (body : Option (List Byte)) (h : Only L s₀ s) : Only L s₀ (State.endUnlock s o body).1 := by
  dsimp only [State.endUnlock]
  repeat' first
    | with_reducible assumption
    | with_reducible apply only_doUnlock
    | split
    | with_reducible apply only_set_sec
  all_goals exact within_sub (by decide) hL

theorem only_secResult (hL : Within [.free, .out, .unsent, .clusters, .quarters, .stackTab, .engines, .mem, .memory, .parts, .copies, .fns, .buckets, .intr,
    .links, .sec, .spares] L) {s : State} (body sig : Option (List Byte)) (flashOk : Bool) (h : Only L s₀ s) :
    Only L s₀ (State.secResult s body sig flashOk).1 := by
  dsimp only [State.secResult]
  repeat' first
    | with_reducible assumption
    | with_reducible apply only_doUpdate
    | with_reducible apply only_doCommit
    | with_reducible apply only_doOwner
    | with_reducible apply only_endUnlock
    | split
    | refine only_fst (by with_reducible assumption) ?_
    | with_reducible apply only_set_sec
  all_goals exact within_sub (by decide) hL

theorem ends_execSecOperationComplete (hL : Within [.free, .out, .unsent, .clusters, .quarters, .stackTab, .engines, .mem, .memory, .parts, .copies, .fns,
    .buckets, .intr, .links, .sec, .spares] L) (body : Option (List Byte)) (sig : Option (List Byte)) (flashOk : Bool) {s : State} :
    Ends L s (execSecOperationComplete body sig flashOk s) := by
  dsimp only [execSecOperationComplete]
  have h := only_refl L s
  repeat' first
    | with_reducible assumption
    | with_reducible apply only_secResult
    | with_reducible apply only_latch
    | with_reducible apply only_answerWaiting
    | with_reducible apply ends_next
    | split
    | refine only_fst (by with_reducible assumption) ?_
    | with_reducible apply only_set_sec
  all_goals exact within_sub (by decide) hL

theorem ends_execLibraryLoad (hL : Within [.out, .stackTab, .engines, .parts, .intr, .sec] L) (image : List Byte) {s : State} : Ends L s (execLibraryLoad image s) := by
  dsimp only [execLibraryLoad]
  have h := only_refl L s
  repeat' first
    | with_reducible assumption
    | with_reducible apply only_foldl
    | with_reducible apply only_foldl_fst
    | intro _ _ _
    | with_reducible apply only_extend
    | with_reducible apply only_releaseHeld
    | with_reducible apply ends_next
    | split
    | with_reducible apply only_set_sec
  all_goals exact within_sub (by decide) hL

theorem only_doeHeard (hL : Within [.intr] L) {s : State} (h : Only L s₀ s) : Only L s₀ (State.doeHeard s) := by
  dsimp only [State.doeHeard]
  repeat' first
    | with_reducible assumption
    | with_reducible apply only_latch
    | split

theorem only_answerDoe (hL : Within [.out] L) {s : State} (kind : Nat) (request : List Byte) (h : Only L s₀ s) : Only L s₀ (State.answerDoe s kind request) := by
  dsimp only [State.answerDoe]
  repeat' first
    | with_reducible assumption
    | with_reducible apply only_emit

theorem ends_execGetMeasurements (hL : Within [.out, .intr, .sec] L) (index : BitVec 8) (reqNonce : BitVec 256) {s : State} : Ends L s (execGetMeasurements index reqNonce s) := by
  dsimp only [execGetMeasurements]
  have h := only_refl L s
  repeat' first
    | with_reducible assumption
    | with_reducible apply only_doeHeard
    | with_reducible apply only_answerDoe
    | with_reducible apply only_sendReport
    | with_reducible apply ends_next
    | split
    | with_reducible apply only_set_sec
  all_goals exact within_sub (by decide) hL

theorem ends_execGetCertificate (hL : Within [.out, .intr] L) (slot : Nat) {s : State} : Ends L s (execGetCertificate slot s) := by
  dsimp only [execGetCertificate]
  have h := only_refl L s
  repeat' first
    | with_reducible assumption
    | with_reducible apply only_doeHeard
    | with_reducible apply only_emit
    | with_reducible apply only_answerDoe
    | with_reducible apply ends_next
    | split
  all_goals exact within_sub (by decide) hL

theorem ends_execChallenge (hL : Within [.out, .intr] L) (request : List Byte) {s : State} : Ends L s (execChallenge request s) := by
  dsimp only [execChallenge]
  have h := only_refl L s
  repeat' first
    | with_reducible assumption
    | with_reducible apply only_doeHeard
    | with_reducible apply only_emit
    | with_reducible apply ends_next
    | split
  all_goals exact within_sub (by decide) hL

theorem ends_execKeyExchange (hL : Within [.out, .intr, .sec] L) (request : List Byte) {s : State} : Ends L s (execKeyExchange request s) := by
  dsimp only [execKeyExchange]
  have h := only_refl L s
  repeat' first
    | with_reducible assumption
    | with_reducible apply only_doeHeard
    | with_reducible apply only_answerDoe
    | with_reducible apply ends_next
    | split
    | with_reducible apply only_set_sec
  all_goals exact within_sub (by decide) hL

theorem ends_execIdeKeyProgram (hL : Within [.out, .fns, .intr] L) (fn : FnId) (request : List Byte) {s : State} : Ends L s (execIdeKeyProgram fn request s) := by
  dsimp only [execIdeKeyProgram]
  have h := only_refl L s
  repeat' first
    | with_reducible assumption
    | with_reducible apply only_doeHeard
    | with_reducible apply only_modFn
    | with_reducible apply only_answerDoe
    | with_reducible apply ends_next
    | split
  all_goals exact within_sub (by decide) hL

theorem ends_execGetDeviceInterfaceReport (hL : Within [.out, .intr] L) (fn : FnId) (reqNonce : BitVec 256) {s : State} :
    Ends L s (execGetDeviceInterfaceReport fn reqNonce s) := by
  dsimp only [execGetDeviceInterfaceReport]
  have h := only_refl L s
  repeat' first
    | with_reducible assumption
    | with_reducible apply only_doeHeard
    | with_reducible apply only_emit
    | with_reducible apply ends_next
    | split
  all_goals exact within_sub (by decide) hL

theorem only_setTdi (hL : Within [.parts] L) {s : State} (fn : Nat) (m : TdiMode) (h : Only L s₀ s) : Only L s₀ (State.setTdi s fn m) := by
  dsimp only [State.setTdi]
  repeat' first
    | with_reducible assumption
    | with_reducible apply only_modPart

theorem ends_execTdiLock (hL : Within [.parts, .intr] L) (fn : FnId) {s : State} : Ends L s (execTdiLock fn s) := by
  dsimp only [execTdiLock]
  have h := only_refl L s
  repeat' first
    | with_reducible assumption
    | with_reducible apply only_doeHeard
    | with_reducible apply only_setTdi
    | with_reducible apply ends_next
    | split
  all_goals exact within_sub (by decide) hL

theorem ends_execTdiRun (hL : Within [.parts, .intr] L) (fn : FnId) {s : State} : Ends L s (execTdiRun fn s) := by
  dsimp only [execTdiRun]
  have h := only_refl L s
  repeat' first
    | with_reducible assumption
    | with_reducible apply only_doeHeard
    | with_reducible apply only_setTdi
    | with_reducible apply ends_next
    | split
  all_goals exact within_sub (by decide) hL

theorem ends_execTdiError (hL : Within [.free, .out, .unsent, .clusters, .quarters, .stackTab, .engines, .mem, .memory, .parts, .copies, .fns, .buckets, .intr,
    .links, .sec, .spares] L) (fn : FnId) {s : State} : Ends L s (execTdiError fn s) := by
  dsimp only [execTdiError]
  have h := only_refl L s
  repeat' first
    | with_reducible assumption
    | with_reducible apply only_setTdi
    | with_reducible apply only_terminate
    | with_reducible apply ends_next
    | split
  all_goals exact within_sub (by decide) hL

theorem ends_execBypass (hL : Within [.sec] L) {s : State} : Ends L s (execBypass s) := by
  dsimp only [execBypass]
  have h := only_refl L s
  repeat' first
    | with_reducible assumption
    | with_reducible apply ends_next
    | split
    | with_reducible apply only_set_sec

theorem ends_execIdcode (hL : Within [.out, .sec] L) {s : State} : Ends L s (execIdcode s) := by
  dsimp only [execIdcode]
  have h := only_refl L s
  repeat' first
    | with_reducible assumption
    | with_reducible apply only_emit
    | with_reducible apply ends_next
    | split
    | with_reducible apply only_set_sec
  all_goals exact within_sub (by decide) hL

theorem ends_execDbgInstruction (hL : Within [.out, .sec] L) (trst : Bool) (offset : BitVec 23) (value : Option W64) {s : State} :
    Ends L s (execDbgInstruction trst offset value s) := by
  dsimp only [execDbgInstruction]
  have h := only_refl L s
  repeat' first
    | with_reducible assumption
    | with_reducible apply only_emit
    | with_reducible apply ends_next
    | split
    | with_reducible apply only_set_sec
  all_goals exact within_sub (by decide) hL

theorem ends_execPartStepRead (hL : Within [.out] L) (fn : FnId) (p : PartId) {s : State} : Ends L s (execPartStepRead fn p s) := by
  dsimp only [execPartStepRead]
  have h := only_refl L s
  repeat' first
    | with_reducible assumption
    | with_reducible apply only_emit
    | with_reducible apply ends_next
    | split

theorem only_writeSlot (hL : Within [.regs] L) {s : State} (fn p off : Nat) (v : W64) (hoff : off < 0x1000) (h : Only L s₀ s) :
    Only L s₀ (State.writeSlot s fn p off v) := by
  unfold State.writeSlot
  repeat' split
  all_goals first
    | exact h
    | exact only_regs hL h (legal_writeSlot hoff (by assumption))

theorem only_setPtm (hL : Within [.regs] L) {s : State} (v : W64) (h : Only L s₀ s) :
    Only L s₀ (State.setReg s 0 0x20 (Machine.take (takeIf (s.reg 0 0x20) v 9 0 (fun x => decide (1 ≤ x) && decide (x ≤ 1000))) v 10 10)) :=
  only_regs hL h (legal_setPtm (v := v) (fld_take_ne _ _ (by decide) (by decide)))

theorem only_writeMod (hL : Within [.free, .out, .unsent, .clusters, .quarters, .stackTab, .engines, .mem, .memory, .parts, .partCtl, .copies, .nextCopy, .fns,
    .buckets, .intr, .regs, .links, .sec, .power, .time, .module, .spares] L) {s : State} (off : Nat) (v : W64) (h : Only L s₀ s) :
    Only L s₀ (State.writeMod s off v) := by
  dsimp only [State.writeMod]
  repeat' first
    | with_reducible assumption
    | with_reducible apply only_coldReset
    | with_reducible apply only_warmReset
    | with_reducible apply only_setPtm
    | with_reducible apply only_setReg
    | with_reducible apply only_sieveGo
    | split
    | with_reducible apply only_set_time
  any_goals exact within_sub (by decide) hL
  all_goals (unfold FreeKey regKey; omega)

theorem only_writeRing (hL : Within [.out, .unsent, .parts, .fns, .buckets, .regs] L) {s : State} (fn off : Nat) (v : W64) (hoff : off < 0x10000)
    (h : Only L s₀ s) : Only L s₀ (State.writeRing s fn off v) := by
  dsimp only [State.writeRing]
  repeat' first
    | with_reducible assumption
    | with_reducible apply only_setReg
    | with_reducible apply only_disableRings
    | with_reducible apply only_enableRings
    | with_reducible apply only_clearStopped
    | split
  any_goals exact within_sub (by decide) hL
  all_goals (unfold FreeKey regKey; omega)

theorem only_writeEvt (hL : Within [.fns, .intr, .regs] L) {s : State} (fn off : Nat) (v : W64) (h : Only L s₀ s) : Only L s₀ (State.writeEvt s fn off v) := by
  dsimp only [State.writeEvt]
  repeat' first
    | with_reducible assumption
    | with_reducible apply only_setEvtMask
    | with_reducible apply only_setEvtRate
    | with_reducible apply only_clearPulses
    | split
  any_goals exact within_sub (by decide) hL
  all_goals omega

theorem only_writeRgn (hL : Within [.free, .out, .unsent, .stackTab, .mem, .memory, .parts, .fns, .buckets, .intr, .regs, .links, .sec, .spares] L) {s : State}
    (fn off : Nat) (v : W64) (h : Only L s₀ s) : Only L s₀ (State.writeRgn s fn off v) := by
  dsimp only [State.writeRgn]
  repeat' first
    | with_reducible assumption
    | with_reducible apply only_setReg
    | with_reducible apply only_endRegionCmd
    | with_reducible apply only_regionOp
    | split
  any_goals exact within_sub (by decide) hL
  all_goals (unfold FreeKey regKey; omega)

theorem only_writePart (hL : Within [.free, .out, .unsent, .clusters, .quarters, .stackTab, .engines, .mem, .memory, .parts, .partCtl, .fns, .buckets, .intr,
    .links, .sec, .spares] L) {s : State} (v : W64) (h : Only L s₀ s) : Only L s₀ (State.writePart s v) := by
  dsimp only [State.writePart]
  repeat' first
    | with_reducible assumption
    | with_reducible apply only_partOp
    | split
    | with_reducible apply only_set_partCtl
  all_goals exact within_sub (by decide) hL

theorem only_writeLnk (hL : Within [.out, .unsent, .fns, .buckets, .intr, .regs, .links] L) {s : State} (off : Nat) (v : W64) (h : Only L s₀ s) :
    Only L s₀ (State.writeLnk s off v) := by
  dsimp only [State.writeLnk]
  repeat' first
    | with_reducible assumption
    | with_reducible apply only_lockId
    | with_reducible apply only_setReg
    | with_reducible apply only_disablePort
    | with_reducible apply only_modPort
    | with_reducible apply only_portTrain
    | with_reducible apply only_startTraining
    | split
    | with_reducible apply only_set_links
  any_goals exact within_sub (by decide) hL
  all_goals (unfold FreeKey regKey; omega)

theorem only_writeSec (hL : Within [.regs, .sec] L) {s : State} (off : Nat) (v : W64) (h : Only L s₀ s) : Only L s₀ (State.writeSec s off v) := by
  dsimp only [State.writeSec]
  repeat' first
    | with_reducible assumption
    | with_reducible apply only_setReg
    | split
    | with_reducible apply only_set_sec
  any_goals exact within_sub (by decide) hL
  all_goals (unfold FreeKey regKey; omega)

theorem only_writeTst (hL : Within [.clusters, .stackTab, .intr, .regs, .links, .sec, .spares] L) {s : State} (off : Nat) (v : W64) (h : Only L s₀ s) :
    Only L s₀ (State.writeTst s off v) := by
  dsimp only [State.writeTst]
  repeat' first
    | with_reducible assumption
    | with_reducible apply only_wearRead
    | with_reducible apply only_clusterMarkWrite
    | with_reducible apply only_dieCmd
    | with_reducible apply only_patCommand
    | with_reducible apply only_portTest
    | split
  all_goals exact within_sub (by decide) hL

theorem only_writeMsix (hL : Within [.out, .unsent, .fns, .regs] L) {s : State} (fn off : Nat) (v : W64) (h : Only L s₀ s) : Only L s₀ (State.writeMsix s fn off v) := by
  dsimp only [State.writeMsix]
  repeat' first
    | with_reducible assumption
    | with_reducible apply only_setReg
    | with_reducible apply only_modFn
    | with_reducible apply only_unmask
    | split
  any_goals exact within_sub (by decide) hL
  all_goals (unfold FreeKey regKey; omega)

theorem only_ite {c : Prop} [Decidable c] {a b : State} (ha : c → Only L s₀ a) (hb : ¬ c → Only L s₀ b) :
    Only L s₀ (if c then a else b) := by
  split
  next hc => exact ha hc
  next hc => exact hb hc

theorem only_writeReg (hL : Within [.free, .out, .unsent, .clusters, .quarters, .stackTab, .engines, .mem, .memory, .parts, .partCtl, .copies, .nextCopy, .fns,
    .buckets, .intr, .regs, .links, .sec, .power, .time, .module, .spares] L) {s : State} (fn off : Nat) (v : W64) (h : Only L s₀ s) :
    Only L s₀ (State.writeReg s fn off v) := by
  have hPwr : Only L s₀ (s.setReg 0 0x80000 (Machine.take 0 v 1 0)) :=
    only_setReg (within_sub (by decide) hL) _ (by unfold FreeKey regKey; omega) h
  have hRing (o : Nat) (ho : o < 0x10000) := only_writeRing (within_sub (by decide) hL) fn o v ho h
  have hSlot (f p o : Nat) (ho : o < 0x1000) := only_writeSlot (within_sub (by decide) hL) f p o v ho h
  dsimp only [State.writeReg]
  repeat' with_reducible refine only_ite (fun _ => ?_) (fun _ => ?_)
  all_goals first
    | with_reducible exact h
    | with_reducible exact hPwr
    | with_reducible refine only_writeMod ?_ _ _ h
    | with_reducible exact hRing _ (by omega)
    | with_reducible refine only_writeEvt ?_ _ _ _ h
    | with_reducible refine only_writeRgn ?_ _ _ _ h
    | with_reducible refine only_writePart ?_ _ h
    | with_reducible exact hSlot _ _ _ (by omega)
    | with_reducible refine only_writeLnk ?_ _ _ h
    | with_reducible refine only_writeSec ?_ _ _ h
    | with_reducible refine only_writeTst ?_ _ _ h
    | with_reducible refine only_writeMsix ?_ _ _ _ h
    | with_reducible refine only_set_sec ?_ _ h
  all_goals exact within_sub (by decide) hL

theorem ends_execRegisterWrite (hL : Within [.free, .out, .unsent, .clusters, .quarters, .stackTab, .engines, .mem, .memory, .parts, .partCtl, .copies,
    .nextCopy, .fns, .buckets, .intr, .regs, .links, .sec, .power, .time, .module, .spares] L) (fn : FnId) (offset : BitVec 24) (wide : Bool) (value : W64)
    {s : State} : Ends L s (execRegisterWrite fn offset wide value s) := by
  dsimp only [execRegisterWrite]
  have h := only_refl L s
  repeat' first
    | with_reducible assumption
    | with_reducible apply only_writeReg
    | with_reducible apply ends_next
    | split
    | with_reducible apply only_set_module
  all_goals exact within_sub (by decide) hL

theorem only_blockRead (hL : Within [.out] L) {s : State} (code : Nat) (bs : List Byte) (h : Only L s₀ s) : Only L s₀ (State.blockRead s code bs) := by
  dsimp only [State.blockRead]
  repeat' first
    | with_reducible assumption
    | with_reducible apply only_emit

theorem only_smbRead (hL : Within [.out] L) {s : State} (code n : Nat) (h : Only L s₀ s) : Only L s₀ (State.smbRead s code n) := by
  dsimp only [State.smbRead]
  repeat' first
    | with_reducible assumption
    | with_reducible apply only_blockRead
    | split

theorem ends_execSmbStatus (hL : Within [.out] L) {s : State} : Ends L s (execSmbStatus s) := by
  dsimp only [execSmbStatus]
  have h := only_refl L s
  repeat' first
    | with_reducible assumption
    | with_reducible apply only_smbRead
    | with_reducible apply ends_next

theorem ends_execSmbInput (hL : Within [.out] L) {s : State} : Ends L s (execSmbInput s) := by
  dsimp only [execSmbInput]
  have h := only_refl L s
  repeat' first
    | with_reducible assumption
    | with_reducible apply only_smbRead
    | with_reducible apply ends_next

theorem ends_execSmbPower (hL : Within [.out] L) {s : State} : Ends L s (execSmbPower s) := by
  dsimp only [execSmbPower]
  have h := only_refl L s
  repeat' first
    | with_reducible assumption
    | with_reducible apply only_smbRead
    | with_reducible apply ends_next

theorem ends_execHottest (hL : Within [.out] L) {s : State} : Ends L s (execHottest s) := by
  dsimp only [execHottest]
  have h := only_refl L s
  repeat' first
    | with_reducible assumption
    | with_reducible apply only_smbRead
    | with_reducible apply ends_next

theorem ends_execSmbTime (hL : Within [.out] L) {s : State} : Ends L s (execSmbTime s) := by
  dsimp only [execSmbTime]
  have h := only_refl L s
  repeat' first
    | with_reducible assumption
    | with_reducible apply only_smbRead
    | with_reducible apply ends_next

theorem ends_execIdentity (hL : Within [.out] L) {s : State} : Ends L s (execIdentity s) := by
  dsimp only [execIdentity]
  have h := only_refl L s
  repeat' first
    | with_reducible assumption
    | with_reducible apply only_blockRead
    | with_reducible apply ends_next
    | split

theorem ends_execSite (hL : Within [.out] L) (n : SiteId) {s : State} : Ends L s (execSite n s) := by
  dsimp only [execSite]
  have h := only_refl L s
  repeat' first
    | with_reducible assumption
    | with_reducible apply only_smbRead
    | with_reducible apply ends_next

theorem ends_execAlertResponse (hL : Within [.out, .module] L) {s : State} : Ends L s (execAlertResponse s) := by
  dsimp only [execAlertResponse]
  have h := only_refl L s
  repeat' first
    | with_reducible assumption
    | with_reducible apply only_emit
    | with_reducible apply ends_next
    | split
    | with_reducible apply only_set_module
  all_goals exact within_sub (by decide) hL

theorem ends_execSmbRefusedTransfer (_hL : Within [] L) (_code : BitVec 8) {s : State} : Ends L s (execSmbRefusedTransfer _code s) := by
  dsimp only [execSmbRefusedTransfer]
  have h := only_refl L s
  repeat' first
    | with_reducible assumption
    | with_reducible apply ends_next

theorem only_tensorAnswer (hL : Within [.out, .unsent, .fns, .buckets] L) {s : State} (fn : FnId) (r : RingId) (typ status id detail : Nat) (h : Only L s₀ s) :
    Only L s₀ (State.tensorAnswer s fn r typ status id detail) := by
  dsimp only [State.tensorAnswer]
  repeat' first
    | with_reducible assumption
    | with_reducible apply only_copyAnswer

theorem ends_execTensorCreate (hL : Within [.out, .unsent, .parts, .fns, .buckets] L) (fn : FnId) (r : RingId) (desc : Option Line) {s : State} :
    Ends L s (execTensorCreate fn r desc s) := by
  dsimp only [execTensorCreate]
  have h := only_refl L s
  repeat' first
    | with_reducible assumption
    | with_reducible apply only_popFetched
    | with_reducible apply only_tensorAnswer
    | with_reducible apply only_hostRead
    | with_reducible apply only_journal
    | with_reducible apply only_modTensor
    | with_reducible apply ends_next
    | split
  all_goals exact within_sub (by decide) hL

theorem ends_execTensorDestroy (hL : Within [.out, .unsent, .parts, .fns, .buckets] L) (fn : FnId) (r : RingId) {s : State} : Ends L s (execTensorDestroy fn r s) := by
  dsimp only [execTensorDestroy]
  have h := only_refl L s
  repeat' first
    | with_reducible assumption
    | with_reducible apply only_popFetched
    | with_reducible apply only_tensorAnswer
    | with_reducible apply only_modTensor
    | with_reducible apply ends_next
    | split
  all_goals exact within_sub (by decide) hL

theorem ends_execTensorDestroyComplete (hL : Within [.out, .unsent, .parts, .fns, .buckets] L) (p : PartId) (index : Fin 4096) {s : State} :
    Ends L s (execTensorDestroyComplete p index s) := by
  dsimp only [execTensorDestroyComplete]
  have h := only_refl L s
  repeat' first
    | with_reducible assumption
    | with_reducible apply only_modTensor
    | with_reducible apply only_copyAnswer
    | with_reducible apply ends_next
    | split
  all_goals exact within_sub (by decide) hL

theorem only_setStream (hL : Within [.parts] L) {s : State} (p n : Nat) (d : Option Digest) (h : Only L s₀ s) : Only L s₀ (State.setStream s p n d) := by
  dsimp only [State.setStream]
  repeat' first
    | with_reducible assumption
    | with_reducible apply only_modPart

theorem ends_execDigestOpen (hL : Within [.out, .unsent, .parts, .fns, .buckets] L) (fn : FnId) (r : RingId) {s : State} : Ends L s (execDigestOpen fn r s) := by
  dsimp only [execDigestOpen]
  have h := only_refl L s
  repeat' first
    | with_reducible assumption
    | with_reducible apply only_popFetched
    | with_reducible apply only_tensorAnswer
    | with_reducible apply only_setStream
    | with_reducible apply ends_next
    | split
  all_goals exact within_sub (by decide) hL

theorem ends_execDigestClose (hL : Within [.out, .unsent, .parts, .fns, .buckets] L) (fn : FnId) (r : RingId) {s : State} : Ends L s (execDigestClose fn r s) := by
  dsimp only [execDigestClose]
  have h := only_refl L s
  repeat' first
    | with_reducible assumption
    | with_reducible apply only_popFetched
    | with_reducible apply only_modPart
    | with_reducible apply only_tensorAnswer
    | with_reducible apply only_setStream
    | with_reducible apply ends_next
    | split
  all_goals exact within_sub (by decide) hL

theorem ends_execDigestCloseComplete (hL : Within [.out, .unsent, .parts, .fns, .buckets] L) (p : PartId) (stream : Fin 16) {s : State} :
    Ends L s (execDigestCloseComplete p stream s) := by
  dsimp only [execDigestCloseComplete]
  have h := only_refl L s
  repeat' first
    | with_reducible assumption
    | with_reducible apply only_modPart
    | with_reducible apply only_setStream
    | with_reducible apply only_copyAnswer
    | with_reducible apply ends_next
    | split
  all_goals exact within_sub (by decide) hL

end Sys2Proof.Proofs
end

section
/-! PROOF of what every step keeps (log 1): the queue, the canonical memory and the legal registers; the state at reset. -/

namespace Sys2Proof.Proofs
open Sys2Proof Sys2Proof.Machine Sys2Proof.Laws

/-- Every part of the state. -/
def allFlds : List Fld :=
  [.free, .out, .unsent, .clusters, .quarters, .stackTab, .engines, .mem, .memory, .parts, .partCtl, .copies, .nextCopy, .fns,
    .buckets, .intr, .regs, .links, .sec, .power, .time, .module, .spares]

theorem within_all (K : List Fld) : Within K allFlds := by
  unfold Within
  exact fun f _ => by cases f <;> simp [allFlds]

/-- Every command answers a next state, leaves the queue, and keeps memory canonical and the set-up registers legal. -/
theorem exec_ends (i : Instr) (s : State) : Ends allFlds s (exec i s) :=
  match i with
  | .bundleFetch c => ends_execBundleFetch (within_all _) c
  | .bundleIssue c => ends_execBundleIssue (within_all _) c
  | .scalarLoadReturn c => ends_execScalarLoadReturn (within_all _) c
  | .clusterHaltComplete c => ends_execClusterHaltComplete (within_all _) c
  | .fenceComplete c => ends_execFenceComplete (within_all _) c
  | .marker c p => ends_execMarker (within_all _) c p
  | .vLd c => ends_execVLd (within_all _) c
  | .vSt c => ends_execVSt (within_all _) c
  | .vBcast c => ends_execVBcast (within_all _) c
  | .vAdd c => ends_execVAdd (within_all _) c
  | .vMul c => ends_execVMul (within_all _) c
  | .vMax c => ends_execVMax (within_all _) c
  | .vExp2 c => ends_execVExp2 (within_all _) c
  | .vRcp c => ends_execVRcp (within_all _) c
  | .vRsqrt c => ends_execVRsqrt (within_all _) c
  | .tAdd c => ends_execTAdd (within_all _) c
  | .tMulv c => ends_execTMulv (within_all _) c
  | .tCvt c => ends_execTCvt (within_all _) c
  | .tExp2 c => ends_execTExp2 (within_all _) c
  | .tCmax c => ends_execTCmax (within_all _) c
  | .tCsum c => ends_execTCsum (within_all _) c
  | .tCsq c => ends_execTCsq (within_all _) c
  | .tSilu c => ends_execTSilu (within_all _) c
  | .tZero c => ends_execTZero (within_all _) c
  | .mmaBf16 c => ends_execMmaBf16 (within_all _) c
  | .mmaF16 c => ends_execMmaF16 (within_all _) c
  | .mmaF8 c => ends_execMmaF8 (within_all _) c
  | .mmaF6 c => ends_execMmaF6 (within_all _) c
  | .mmaF4 c => ends_execMmaF4 (within_all _) c
  | .mmaI8 c => ends_execMmaI8 (within_all _) c
  | .mmaI4 c => ends_execMmaI4 (within_all _) c
  | .mmaMix c => ends_execMmaMix (within_all _) c
  | .mmd c => ends_execMmd (within_all _) c
  | .ldT c => ends_execLdT (within_all _) c
  | .stT c => ends_execStT (within_all _) c
  | .ldQ c => ends_execLdQ (within_all _) c
  | .stQ c => ends_execStQ (within_all _) c
  | .stC c => ends_execStC (within_all _) c
  | .remoteSignal c => ends_execRemoteSignal (within_all _) c
  | .longOpComplete c p => ends_execLongOpComplete (within_all _) c p
  | .preemptRequest p job => ends_execPreemptRequest (within_all _) p job
  | .jobSave p job => ends_execJobSave (within_all _) p job
  | .jobSaveComplete p job => ends_execJobSaveComplete (within_all _) p job
  | .jobRestore p job => ends_execJobRestore (within_all _) p job
  | .yieldTimeout c => ends_execYieldTimeout (within_all _) c
  | .create fn index => ends_execCreate (within_all _) fn index
  | .regionRelease fn index => ends_execRegionRelease (within_all _) fn index
  | .convert fn index => ends_execConvert (within_all _) fn index
  | .lock fn index => ends_execLock (within_all _) fn index
  | .setShare fn index => ends_execSetShare (within_all _) fn index
  | .regionCommandComplete => ends_execRegionCommandComplete (within_all _)
  | .writeCr st src pk => ends_execWriteCr (within_all _) st src pk
  | .start st src pk => ends_execStart (within_all _) st src pk
  | .suspend st src pk => ends_execSuspend (within_all _) st src pk
  | .resume st src pk => ends_execResume (within_all _) st src pk
  | .abort st src pk => ends_execAbort (within_all _) st src pk
  | .status st src pk => ends_execStatus (within_all _) st src pk
  | .mergeOpen st src pk => ends_execMergeOpen (within_all _) st src pk
  | .blank st src pk first lines => ends_execBlank (within_all _) st src pk first lines
  | .sieve st src pk first lines => ends_execSieve (within_all _) st src pk first lines
  | .level st src pk => ends_execLevel (within_all _) st src pk
  | .pattern st src pk channel failing => ends_execPattern (within_all _) st src pk channel failing
  | .diemap st src pk => ends_execDiemap (within_all _) st src pk
  | .preloadComplete e => ends_execPreloadComplete (within_all _) e
  | .permitGrant pc => ends_execPermitGrant (within_all _) pc
  | .refreshDue b => ends_execRefreshDue (within_all _) b
  | .refresh b => ends_execRefresh (within_all _) b
  | .forcedSuspension e => ends_execForcedSuspension (within_all _) e
  | .mergeFold st slot => ends_execMergeFold (within_all _) st slot
  | .darvyNop e dt => ends_execDarvyNop (within_all _) e dt
  | .movi e dt => ends_execMovi (within_all _) e dt
  | .movh e dt => ends_execMovh (within_all _) e dt
  | .getc e dt => ends_execGetc (within_all _) e dt
  | .darvyAdd e dt => ends_execDarvyAdd (within_all _) e dt
  | .darvySub e dt => ends_execDarvySub (within_all _) e dt
  | .darvyShl e dt => ends_execDarvyShl (within_all _) e dt
  | .darvyShr e dt => ends_execDarvyShr (within_all _) e dt
  | .loop e dt => ends_execLoop (within_all _) e dt
  | .bz e dt => ends_execBz (within_all _) e dt
  | .darvyBr e dt => ends_execDarvyBr (within_all _) e dt
  | .yield e dt => ends_execYield (within_all _) e dt
  | .yieldAct e dt => ends_execYieldAct (within_all _) e dt
  | .end_ e dt => ends_execEnd_ (within_all _) e dt
  | .runEnd e dt => ends_execRunEnd (within_all _) e dt
  | .darvyFmul e dt => ends_execDarvyFmul (within_all _) e dt
  | .frsq e dt => ends_execFrsq (within_all _) e dt
  | .qset e dt => ends_execQset (within_all _) e dt
  | .scan e dt => ends_execScan (within_all _) e dt
  | .dot e dt => ends_execDot (within_all _) e dt
  | .expm e dt => ends_execExpm (within_all _) e dt
  | .accv e dt => ends_execAccv (within_all _) e dt
  | .ladd e dt => ends_execLadd (within_all _) e dt
  | .lmul e dt => ends_execLmul (within_all _) e dt
  | .lssq e dt => ends_execLssq (within_all _) e dt
  | .lcvt e dt => ends_execLcvt (within_all _) e dt
  | .rope e dt => ends_execRope (within_all _) e dt
  | .append e dt => ends_execAppend (within_all _) e dt
  | .fetch e dt => ends_execFetch (within_all _) e dt
  | .stl e dt => ends_execStl (within_all _) e dt
  | .wrl e dt => ends_execWrl (within_all _) e dt
  | .emit e dt => ends_execEmit (within_all _) e dt
  | .sliceTimeout e => ends_execSliceTimeout (within_all _) e
  | .bankEngineFault e => ends_execBankEngineFault (within_all _) e
  | .libraryLoad image => ends_execLibraryLoad (within_all _) image
  | .routeSheetBuild p => ends_execRouteSheetBuild (within_all _) p
  | .layerPacketsSend p layer st => ends_execLayerPacketsSend (within_all _) p layer st
  | .relief p st => ends_execRelief (within_all _) p st
  | .parcelAllocationResume p => ends_execParcelAllocationResume (within_all _) p
  | .spillComplete p ledger => ends_execSpillComplete (within_all _) p ledger
  | .posteRestanteFetch p seq => ends_execPosteRestanteFetch (within_all _) p seq
  | .fetchBackComplete p ledger cipher => ends_execFetchBackComplete (within_all _) p ledger cipher
  | .submit fn r => ends_execSubmit (within_all _) fn r
  | .promptFetchComplete p request tokens => ends_execPromptFetchComplete (within_all _) p request tokens
  | .cancel fn r => ends_execCancel (within_all _) fn r
  | .prefixSetList fn r => ends_execPrefixSetList (within_all _) fn r
  | .prefixEvict fn r => ends_execPrefixEvict (within_all _) fn r
  | .hint fn r => ends_execHint (within_all _) fn r
  | .budgetRefill p => ends_execBudgetRefill (within_all _) p
  | .bestEffortCredit p spare => ends_execBestEffortCredit (within_all _) p spare
  | .commit p outputs probe => ends_execCommit (within_all _) p outputs probe
  | .stepAbandon p cause => ends_execStepAbandon (within_all _) p cause
  | .reissuedSheetRelease p => ends_execReissuedSheetRelease (within_all _) p
  | .copy q host => ends_execCopy (within_all _) q host
  | .gather q host list => ends_execGather (within_all _) q host list
  | .scatter q host list => ends_execScatter (within_all _) q host list
  | .collective q => ends_execCollective (within_all _) q
  | .copyComplete id delivered => ends_execCopyComplete (within_all _) id delivered
  | .collectiveJoinTimeout id => ends_execCollectiveJoinTimeout (within_all _) id
  | .programCopyQueuePoll p => ends_execProgramCopyQueuePoll (within_all _) p
  | .tensorCreate fn r desc => ends_execTensorCreate (within_all _) fn r desc
  | .tensorDestroy fn r => ends_execTensorDestroy (within_all _) fn r
  | .tensorDestroyComplete p index => ends_execTensorDestroyComplete (within_all _) p index
  | .digestOpen fn r => ends_execDigestOpen (within_all _) fn r
  | .digestClose fn r => ends_execDigestClose (within_all _) fn r
  | .digestCloseComplete p stream => ends_execDigestCloseComplete (within_all _) p stream
  | .pcieLinkTrained width gts flit => ends_execPcieLinkTrained (within_all _) width gts flit
  | .bar0BadWrite => ends_execBar0BadWrite (within_all _)
  | .letterboxPoll fn => ends_execLetterboxPoll (within_all _) fn
  | .letterboxReadComplete fn data => ends_execLetterboxReadComplete (within_all _) fn data
  | .descriptorFetchComplete fn r data => ends_execDescriptorFetchComplete (within_all _) fn r data
  | .ringEntryWriteFailed fn r lost => ends_execRingEntryWriteFailed (within_all _) fn r lost
  | .ringEnable fn mask => ends_execRingEnable (within_all _) fn mask
  | .ringDisable fn mask => ends_execRingDisable (within_all _) fn mask
  | .ringDrainComplete fn r => ends_execRingDrainComplete (within_all _) fn r
  | .ringStatusClear fn mask => ends_execRingStatusClear (within_all _) fn mask
  | .job fn r => ends_execJob (within_all _) fn r
  | .jobStart p job image header => ends_execJobStart (within_all _) p job image header
  | .summaryWrite fn => ends_execSummaryWrite (within_all _) fn
  | .eventTokenRefill => ends_execEventTokenRefill (within_all _)
  | .evtMaskWrite fn value => ends_execEvtMaskWrite (within_all _) fn value
  | .evtRateWrite fn block value => ends_execEvtRateWrite (within_all _) fn block value
  | .clearPulses fn value => ends_execClearPulses (within_all _) fn value
  | .msixUnmask fn => ends_execMsixUnmask (within_all _) fn
  | .fastInterrupt core => ends_execFastInterrupt (within_all _) core
  | .normalInterrupt core => ends_execNormalInterrupt (within_all _) core
  | .evtIcClaim core => ends_execEvtIcClaim (within_all _) core
  | .fastHandlerOverrun core => ends_execFastHandlerOverrun (within_all _) core
  | .throttleNEdge high => ends_execThrottleNEdge (within_all _) high
  | .throttleNAccept => ends_execThrottleNAccept (within_all _)
  | .throttleFastEnd => ends_execThrottleFastEnd (within_all _)
  | .throttleNStuck => ends_execThrottleNStuck (within_all _)
  | .throttleStuckClear => ends_execThrottleStuckClear (within_all _)
  | .timePulseEdge => ends_execTimePulseEdge (within_all _)
  | .moduleTimeTick => ends_execModuleTimeTick (within_all _)
  | .setup fn p => ends_execSetup (within_all _) fn p
  | .reconfigure fn p => ends_execReconfigure (within_all _) fn p
  | .partitionRelease fn p => ends_execPartitionRelease (within_all _) fn p
  | .partitionCommandComplete failing => ends_execPartitionCommandComplete (within_all _) failing
  | .timeSliceBoundary p => ends_execTimeSliceBoundary (within_all _) p
  | .jobFault p job code => ends_execJobFault (within_all _) p job code
  | .moduleWideLoss cause => ends_execModuleWideLoss (within_all _) cause
  | .moduleRestartComplete fabricOk failedCores => ends_execModuleRestartComplete (within_all _) fabricOk failedCores
  | .ceBucketDecay => ends_execCeBucketDecay (within_all _)
  | .repairPeerAnswer pln data => ends_execRepairPeerAnswer (within_all _) pln data
  | .repairPeerTimeout pln => ends_execRepairPeerTimeout (within_all _) pln
  | .repairHostReadComplete pln data => ends_execRepairHostReadComplete (within_all _) pln data
  | .errorRecordAck source => ends_execErrorRecordAck (within_all _) source
  | .sieveDescriptor fn r => ends_execSieveDescriptor (within_all _) fn r
  | .modSieveGo fn => ends_execModSieveGo (within_all _) fn
  | .sieveStackDone st => ends_execSieveStackDone (within_all _) st
  | .patrolPass => ends_execPatrolPass (within_all _)
  | .portTrain fn port => ends_execPortTrain (within_all _) fn port
  | .trainingComplete port passing peer => ends_execTrainingComplete (within_all _) port passing peer
  | .trainingTimeout port => ends_execTrainingTimeout (within_all _) port
  | .laneMark port lane => ends_execLaneMark (within_all _) port lane
  | .laneRetrainDue port => ends_execLaneRetrainDue (within_all _) port
  | .portDisable fn port => ends_execPortDisable (within_all _) fn port
  | .idLock fn id => ends_execIdLock (within_all _) fn id
  | .portWaitTimeout copy => ends_execPortWaitTimeout (within_all _) copy
  | .write port fr => ends_execWrite (within_all _) port fr
  | .read port fr => ends_execRead (within_all _) port fr
  | .data port fr => ends_execData (within_all _) port fr
  | .atomic port fr => ends_execAtomic (within_all _) port fr
  | .ack port fr => ends_execAck (within_all _) port fr
  | .nak port fr => ends_execNak (within_all _) port fr
  | .repair port fr => ends_execRepair (within_all _) port fr
  | .coll port fr => ends_execColl (within_all _) port fr
  | .event port fr => ends_execEvent (within_all _) port fr
  | .session port fr valid => ends_execSession (within_all _) port fr valid
  | .packetTimeout tag => ends_execPacketTimeout (within_all _) tag
  | .sessionRetry peer => ends_execSessionRetry (within_all _) peer
  | .sessionPortsDownTimeout peer => ends_execSessionPortsDownTimeout (within_all _) peer
  | .nonce fn fresh => ends_execNonce (within_all _) fn fresh
  | .update fn arg => ends_execUpdate (within_all _) fn arg
  | .commitFloor fn arg => ends_execCommitFloor (within_all _) fn arg
  | .enrol fn arg => ends_execEnrol (within_all _) fn arg
  | .revoke fn arg => ends_execRevoke (within_all _) fn arg
  | .unlock fn arg => ends_execUnlock (within_all _) fn arg
  | .getMeasurements index reqNonce => ends_execGetMeasurements (within_all _) index reqNonce
  | .getCertificate slot => ends_execGetCertificate (within_all _) slot
  | .challenge request => ends_execChallenge (within_all _) request
  | .keyExchange request => ends_execKeyExchange (within_all _) request
  | .ideKeyProgram fn request => ends_execIdeKeyProgram (within_all _) fn request
  | .getDeviceInterfaceReport fn reqNonce => ends_execGetDeviceInterfaceReport (within_all _) fn reqNonce
  | .tdiLock fn => ends_execTdiLock (within_all _) fn
  | .tdiRun fn => ends_execTdiRun (within_all _) fn
  | .tdiError fn => ends_execTdiError (within_all _) fn
  | .bypass => ends_execBypass (within_all _)
  | .idcode => ends_execIdcode (within_all _)
  | .powerUp millivolts => ends_execPowerUp (within_all _) millivolts
  | .powerGoodTimeout => ends_execPowerGoodTimeout (within_all _)
  | .powerDown millivolts => ends_execPowerDown (within_all _) millivolts
  | .inputOvervoltage millivolts => ends_execInputOvervoltage (within_all _) millivolts
  | .inputBandChange millivolts => ends_execInputBandChange (within_all _) millivolts
  | .rationRecompute energy unrationed input amps => ends_execRationRecompute (within_all _) energy unrationed input amps
  | .overCurrentAlert rail => ends_execOverCurrentAlert (within_all _) rail
  | .overCurrentHoldRelease rail => ends_execOverCurrentHoldRelease (within_all _) rail
  | .sensorSample site a b => ends_execSensorSample (within_all _) site a b
  | .tripComparator site => ends_execTripComparator (within_all _) site
  | .phaseFailure rail phase => ends_execPhaseFailure (within_all _) rail phase
  | .pllLockLoss domain => ends_execPllLockLoss (within_all _) domain
  | .ptmRequest => ends_execPtmRequest (within_all _)
  | .ptmSample reference => ends_execPtmSample (within_all _) reference
  | .holdoverTimeout => ends_execHoldoverTimeout (within_all _)
  | .pulseLost => ends_execPulseLost (within_all _)
  | .perstNAssert microseconds => ends_execPerstNAssert (within_all _) microseconds
  | .modResetCold fn value => ends_execModResetCold (within_all _) fn value
  | .modResetWarm fn value => ends_execModResetWarm (within_all _) fn value
  | .hotReset => ends_execHotReset (within_all _)
  | .vfFunctionLevelReset fn => ends_execVfFunctionLevelReset (within_all _) fn
  | .boot r => ends_execBoot (within_all _) r
  | .firmwareReady => ends_execFirmwareReady (within_all _)
  | .partStepRead fn p => ends_execPartStepRead (within_all _) fn p
  | .repairMapWrite => ends_execRepairMapWrite (within_all _)
  | .wearLogRead fn value => ends_execWearLogRead (within_all _) fn value
  | .wearLogReadComplete written => ends_execWearLogReadComplete (within_all _) written
  | .clusterRetest failing => ends_execClusterRetest (within_all _) failing
  | .clusterMark fn value => ends_execClusterMark (within_all _) fn value
  | .rowRemap b row => ends_execRowRemap (within_all _) b row
  | .dieCopy fn value => ends_execDieCopy (within_all _) fn value
  | .dieCopyRowsDone st => ends_execDieCopyRowsDone (within_all _) st
  | .tstPatCmd fn value => ends_execTstPatCmd (within_all _) fn value
  | .patternRunComplete failing => ends_execPatternRunComplete (within_all _) failing
  | .tstPortTest fn port value => ends_execTstPortTest (within_all _) fn port value
  | .moduleInsert => ends_execModuleInsert (within_all _)
  | .moduleRemove => ends_execModuleRemove (within_all _)
  | .smbStatus => ends_execSmbStatus (within_all _)
  | .smbInput => ends_execSmbInput (within_all _)
  | .smbPower => ends_execSmbPower (within_all _)
  | .hottest => ends_execHottest (within_all _)
  | .smbTime => ends_execSmbTime (within_all _)
  | .identity => ends_execIdentity (within_all _)
  | .site n => ends_execSite (within_all _) n
  | .alertResponse => ends_execAlertResponse (within_all _)
  | .smbRefusedTransfer code => ends_execSmbRefusedTransfer (within_all _) code
  | .registerWrite fn offset wide value => ends_execRegisterWrite (within_all _) fn offset wide value
  | .perstNDeassert => ends_execPerstNDeassert (within_all _)
  | .inputFallsBelow70V millivolts => ends_execInputFallsBelow70V (within_all _) millivolts
  | .overCurrentAlertDeassert rail => ends_execOverCurrentAlertDeassert (within_all _) rail
  | .sliceOverrun e => ends_execSliceOverrun (within_all _) e
  | .engineRestEnd e => ends_execEngineRestEnd (within_all _) e
  | .configurationWrite numVfs vfEnable ptmEnable => ends_execConfigurationWrite (within_all _) numVfs vfEnable ptmEnable
  | .terminationComplete p => ends_execTerminationComplete (within_all _) p
  | .secOperationComplete body sig flashOk => ends_execSecOperationComplete (within_all _) body sig flashOk
  | .checkerLock port lane errors => ends_execCheckerLock (within_all _) port lane errors
  | .dbgInstruction trst offset value => ends_execDbgInstruction (within_all _) trst offset value

/-- Settles O57: each command is a function of its own to next states, none of which writes the queue. -/
theorem commandsLeaveTheQueueAlone : Obligations.CommandsLeaveTheQueueAlone := by
  unfold Obligations.CommandsLeaveTheQueueAlone Completes
  intro i s
  obtain ⟨t, ht, hs⟩ := exec_ends i s
  exact ⟨t, ht, hs.pending⟩

/-- What a step keeps: an idle step everything, another one what the front command keeps. -/
theorem step_only {s t : State} (h : step s = .next t) : ∃ rest, Only allFlds { s with pending := rest } t := by
  unfold step at h
  split at h
  next hp => exact ⟨s.pending, by cases h; exact only_refl _ _⟩
  next c rest hp =>
    obtain ⟨u, hu, hs⟩ := exec_ends c { s with pending := rest }
    rw [hu] at h
    cases h
    exact ⟨rest, hs⟩

/-- Settles O58: device memory is written by the storing of bytes, by blanking and by clearing alone, and each keeps its form. -/
theorem stepKeepsMemoryCanonical : Obligations.StepKeepsMemoryCanonical := by
  unfold Obligations.StepKeepsMemoryCanonical
  intro s t hs ht
  obtain ⟨rest, h⟩ := step_only ht
  exact h.wf hs

/-- Settles O59: a register that has a reserved code is written through its table's fields alone, or reset. -/
theorem stepKeepsSetUpRegistersLegal : Obligations.StepKeepsSetUpRegistersLegal := by
  unfold Obligations.StepKeepsSetUpRegistersLegal
  intro s t hs ht
  obtain ⟨rest, h⟩ := step_only ht
  exact h.legal hs

/-- Settles O56: by the definition of a step. -/
theorem stepRunsTheFrontCommand : Obligations.StepRunsTheFrontCommand := by
  unfold Obligations.StepRunsTheFrontCommand
  refine ⟨fun _ _ _ => rfl, fun s h => ?_⟩
  unfold step
  rw [h]

theorem getList_eq_map {α : Type} (d : Nat → α) (t : Tab α) (k n : Nat) :
    Tab.getList d t k n = (List.range n).map (fun i => Tab.get d t (k + i)) := by
  refine List.ext_getElem? fun i => ?_
  by_cases h : i < n
  · rw [getList_getElem? d t k n i h, List.getElem?_map, List.getElem?_range h]
    rfl
  · rw [List.getElem?_eq_none (by rw [getList_length]; omega), List.getElem?_eq_none (by simpa using h)]

theorem stored_reset (l : Nat) : State.reset.stored l = blankLine :=
  calc State.reset.stored l = (List.range 72).map (fun i => blankByte (72 * l + i)) := getList_eq_map _ _ _ _
    _ = (List.range 72).map blankByte := List.map_congr_left fun i _ => by unfold blankByte; rw [Nat.mul_add_mod]
    _ = blankLine := by decide

/-- Settles O60: every table of the state at reset is empty, so each unit reads as its reset value. -/
theorem resetMeetsTheInvariants : Obligations.ResetMeetsTheInvariants := by
  unfold Obligations.ResetMeetsTheInvariants
  exact ⟨rfl, rfl, resetRegs_legal, stored_reset, fun _ => rfl, fun _ => rfl, fun _ => rfl, fun _ => rfl, rfl, rfl, rfl, rfl⟩

end Sys2Proof.Proofs
end

section
/-! PROOF of job descriptors (11 R310; 13 R339) -/

namespace Sys2Proof.Proofs
open Sys2Proof Sys2Proof.Machine Sys2Proof.Laws

/-! ### Frames -/

section
variable {L : List Fld} {s t : State}

theorem only_of_ends {i : Instr} {P : State → Prop} (h : Completes i s P) (he : Ends L s (exec i s)) :
    Completes i s (fun t => P t ∧ Only L s t) := by
  obtain ⟨t, ht, hp⟩ := h
  obtain ⟨u, hu, ho⟩ := he
  rw [ht] at hu
  cases hu
  exact ⟨t, ht, hp, ho⟩

theorem onlyHost_parts (h : OnlyHost s t) : t.parts = s.parts := by
  obtain ⟨_, _, _, _, rfl⟩ := h
  rfl

end

/-! ### Job descriptors (11 R310) -/

/-- The job that a good descriptor becomes. -/
def waitingJob (fn r : Nat) (x : Part) (d : Line) : Job :=
  { num := x.nextJob, jobId := jId d, queue := jQueue d, fn := fn, ring := r, desc := d,
    state := .waiting, shares := [], clusters := [], startedAt := 0, slot := 0, area := [] }

section
variable {fn : FnId} {r : RingId} {s : State} {d : Line} {rest : List Line}

theorem exec_job_good (hf : (s.ring fn r).fetched = d :: rest) (h0 : fn.val ≠ 0) (ht : s.ringType fn r = 2) (hw : s.works (fn.val - 1) = true)
    (hj : (s.part (fn.val - 1)).jobs.any (fun j => !j.live && j.fn == fn.val && j.ring == r.val) = false)
    (hb : s.badJob (fn.val - 1) d = false) :
    exec (.job fn r) s = .next ((s.popFetched fn.val r.val).modPart (fn.val - 1) (fun x =>
      { x with jobs := x.jobs ++ [waitingJob fn.val r.val x d], nextJob := x.nextJob + 1 })) := by
  show execJob fn r s = _
  simp [execJob, waitingJob, hf, h0, ht, hw, hj, hb]

theorem exec_job_bad (hf : (s.ring fn r).fetched = d :: rest) (h0 : fn.val ≠ 0) (ht : s.ringType fn r = 2) (hw : s.works (fn.val - 1) = true)
    (hj : (s.part (fn.val - 1)).jobs.any (fun j => !j.live && j.fn == fn.val && j.ring == r.val) = false)
    (hb : s.badJob (fn.val - 1) d = true) :
    exec (.job fn r) s = .next ((s.popFetched fn.val r.val).jobAnswer fn.val r.val d 0x40 0 0 0 0) := by
  show execJob fn r s = _
  simp [execJob, hf, h0, ht, hw, hj, hb]

end

/-- Settles O10: a good descriptor is appended to the partition's jobs and a malformed one is answered on the ring it left. -/
theorem jobDescriptorsWaitForTheirStart : Obligations.JobDescriptorsWaitForTheirStart := by
  unfold Obligations.JobDescriptorsWaitForTheirStart
  intro fn r s d rest p hf h0 ht hw hj
  have hnone : (s.part p).jobs.any (fun j => !j.live && j.fn == fn.val && j.ring == r.val) = false := by
    simp only [List.any_eq_false, Bool.and_eq_true, Bool.not_eq_true', beq_iff_eq]
    rintro j hm ⟨⟨hl, hfn⟩, hr⟩
    rw [hj j hm hfn hr] at hl
    cases hl
  refine ⟨fun hb => completes_next (exec_job_good hf h0 ht hw hnone hb) ?_,
    fun hb => completes_next (exec_job_bad hf h0 ht hw hnone hb) ⟨rfl, ?_⟩⟩
  · refine ⟨?_, ⟨waitingJob fn r (s.part p) d, ?_, rfl, rfl, rfl, rfl, rfl, rfl, rfl, rfl⟩, ?_, fun k hk => ?_, rfl, rfl, rfl, rfl, rfl⟩
    · show ((s.popFetched fn r).ring fn r).fetched = rest
      rw [State.popFetched, modRing_ring_same, hf]
      rfl
    · rw [modPart_part_same]
      rfl
    · rw [modPart_part_same]
      rfl
    · rw [modPart_part_ne _ _ _ _ hk]
      rfl
  · obtain ⟨f, o, u, b, h⟩ := onlyHost_putRing (s.popFetched fn r) fn (s.complRing fn r) (jobRecord 0x10 0x40 (jId d) r 0 0 0 0 s.nowNat [])
    rw [show ((s.popFetched fn r).jobAnswer fn r d 0x40 0 0 0 0) = _ from h]
    exact ⟨rfl, rfl, rfl, rfl, rfl⟩

/-! ### What a change of a partition's round and journal leaves -/

/-- What v shows of every partition. -/
def partsView {β : Type} (v : Part → β) (s : State) : Nat → β := fun k => v (s.part k)

section

variable {β : Type} {v : Part → β} (s : State) (p : Nat)

theorem view_at {s t : State} (h : partsView v t = partsView v s) (k : Nat) : v (t.part k) = v (s.part k) := congrFun h k

theorem view_parts {s t : State} (h : t.parts = s.parts) : partsView v t = partsView v s := by
  unfold partsView State.part
  rw [h]

theorem view_modPart {f : Part → Part} (h : v (f (s.part p)) = v (s.part p)) : partsView v (s.modPart p f) = partsView v s := by
  funext k
  by_cases hk : k = p
  · subst hk
    simpa [partsView] using h
  · simp [partsView, hk]

theorem view_host {s t : State} (h : OnlyHost s t) : partsView v t = partsView v s := view_parts (onlyHost_parts h)

theorem view_putRing (fn r : Nat) (bs : List Byte) : partsView v (s.putRing fn r bs) = partsView v s := view_host (onlyHost_putRing s fn r bs)

/-- v shows nothing of the round. -/
def Roundless (v : Part → β) : Prop := ∀ x r, v { x with round := r } = v x

/-- v shows nothing of the journal's count of records. -/
def Seqless (v : Part → β) : Prop := ∀ x n, v { x with journal := { x.journal with seq := n } } = v x

variable (hr : Roundless v) (hq : Seqless v)

section
include hq

theorem view_journal (typ : Nat) (body : List Byte) : partsView v (s.journal p typ body) = partsView v s := by
  unfold State.journal
  split
  · rfl
  · split
    · rfl
    · exact (foldl_keeps (partsView v) _ (fun u e => view_putRing u _ _ e) _ _).trans (view_modPart s p (hq _ _))

theorem view_journalTime (purpose : Nat) : partsView v (s.journalTime p purpose) = partsView v s := by
  unfold State.journalTime
  dsimp only
  split
  · exact (view_parts rfl).trans (view_journal s p hq _ _)
  · exact view_journal s p hq _ _

theorem view_answer (fn ring typ status tenant req admitted : Nat) :
    partsView v (s.answer p fn ring typ status tenant req admitted) = partsView v s :=
  (view_putRing _ _ _ _).trans (view_journalTime s p hq _)

end

section
include hr

theorem view_modRound (f : Round → Round) : partsView v (s.modRound p f) = partsView v s := view_modPart s p (hr _ _)

theorem view_modPrefix (i : Nat) (f : Prefix → Prefix) : partsView v (s.modPrefix p i f) = partsView v s := by
  unfold State.modPrefix
  split
  · exact view_modRound s p hr _
  · rfl

theorem view_freeParcels (is : List Nat) : partsView v (s.freeParcels p is) = partsView v s :=
  foldl_keeps (partsView v) _ (fun u _ => (view_modRound _ p hr _).trans (view_modRound u p hr _)) is s

theorem view_dropSeq (i : Nat) : partsView v (s.dropSeq p i) = partsView v s := by
  unfold State.dropSeq
  split
  · rfl
  · refine (view_modRound _ p hr _).trans ((view_modRound _ p hr _).trans ?_)
    split
    · exact (view_modPrefix _ p hr _ _).trans (view_freeParcels s p hr _)
    · exact view_freeParcels s p hr _

theorem view_emptyRound : partsView v (s.emptyRound p) = partsView v s := view_modRound s p hr _

end

include hr hq

theorem view_endSeq (i status : Nat) : partsView v (s.endSeq p i status) = partsView v s := by
  unfold State.endSeq
  split
  · rfl
  · exact (view_dropSeq _ p hr i).trans ((view_putRing _ _ _ _).trans (view_journalTime s p hq _))

theorem view_endRequests (status : Nat) : partsView v (s.endRequests p status) = partsView v s :=
  (view_modRound _ p hr _).trans
    ((foldl_keeps (partsView v) _ (fun u (_ : Admission) => view_answer u p hq _ _ _ _ _ _ _) _ _).trans
      (foldl_keeps (partsView v) _ (fun u (e : Nat × RoundEntry) => view_endSeq u p hr hq e.1 status) _ s))

end

end Sys2Proof.Proofs
end

section
/-! PROOF of the start of a job (03 R59; 13 R339; 19 R459) -/

namespace Sys2Proof.Proofs
open Sys2Proof Sys2Proof.Machine Sys2Proof.Laws

/-! ### Jobs, shares and clusters -/

theorem only_widen {K L : List Fld} {s t : State} (hK : K.all (L.contains ·) = true) (h : Only K s t) : Only L s t :=
  ⟨h.pending, h.wf, h.legal, fun f hf => h.same f fun hm => hf (by simpa using List.all_eq_true.mp hK f hm)⟩

theorem view_only {β : Type} {v : Part → β} {L : List Fld} {s t : State} (h : Only L s t) (hp : Fld.parts ∉ L) :
    partsView v t = partsView v s := view_parts (h.same .parts hp)

theorem clustersOf_congr {s t : State} (hc : t.clusters = s.clusters) (hq : t.quarters = s.quarters) (shares : List Nat) :
    t.clustersOf shares = s.clustersOf shares := by
  have hs : t.serving = s.serving := by
    funext q
    unfold State.serving State.working State.quarter State.cluster
    rw [hc, hq]
  unfold State.clustersOf State.shareClusters
  rw [hs]

section

variable {s : State} {cs : List Nat} {f : Cluster → Cluster} {c : Nat}

theorem modClusters_cluster_ne (h : c ∉ cs) : (s.modClusters cs f).cluster c = s.cluster c := by
  unfold State.modClusters
  induction cs generalizing s with
  | nil => rfl
  | cons d cs ih =>
    obtain ⟨hd, hcs⟩ := not_or.mp (fun e => h (List.mem_cons.mpr e))
    rw [List.foldl_cons, ih hcs, modCluster_cluster_ne _ _ _ _ hd]

/-- A change of the clusters of a list leaves each of them changed, however often it is listed. -/
theorem modClusters_cluster_mem (h : c ∈ cs) : ∃ x, (s.modClusters cs f).cluster c = f x := by
  unfold State.modClusters
  induction cs generalizing s with
  | nil => cases h
  | cons d cs ih =>
    rw [List.foldl_cons]
    by_cases hc : c ∈ cs
    · exact ih hc
    · obtain rfl := (List.mem_cons.mp h).resolve_right hc
      exact ⟨s.cluster c, (modClusters_cluster_ne (s := s.modCluster c f) hc).trans (modCluster_cluster_same _ _ _)⟩

/-- A change that made twice is a change made once. -/
theorem modClusters_cluster_same (hf : ∀ x, f (f x) = f x) (h : c ∈ cs) : (s.modClusters cs f).cluster c = f (s.cluster c) := by
  unfold State.modClusters
  induction cs generalizing s with
  | nil => cases h
  | cons d cs ih =>
    rw [List.foldl_cons]
    by_cases hd : d = c
    · subst hd
      by_cases hc : d ∈ cs
      · rw [ih hc, modCluster_cluster_same, hf]
      · exact (modClusters_cluster_ne (s := s.modCluster d f) hc).trans (modCluster_cluster_same _ _ _)
    · have hc : c ∈ cs := (List.mem_cons.mp h).resolve_left (Ne.symm hd)
      rw [ih hc, modCluster_cluster_ne _ _ _ _ (Ne.symm hd)]

theorem job_num {s : State} {p n : Nat} {j : Job} (h : s.job p n = some j) : j.num = n := by
  have := List.find?_some h
  simpa using this

theorem job_mem {s : State} {p n : Nat} {j : Job} (h : s.job p n = some j) : j ∈ (s.part p).jobs := List.mem_of_find?_eq_some h

theorem job_congr {s t : State} {p : Nat} (h : (t.part p).jobs = (s.part p).jobs) (n : Nat) : t.job p n = s.job p n := by
  unfold State.job
  rw [h]

theorem job_modJob {s : State} {p n : Nat} {j : Job} {g : Job → Job} (h : s.job p n = some j) (hg : ∀ k, (g k).num = k.num) :
    (s.modJob p n g).job p n = some (g j) := by
  have hn := job_num h
  unfold State.job State.modJob at *
  rw [modPart_part_same]
  dsimp only
  rw [List.find?_map]
  have : (fun k : Job => k.num == n) ∘ (fun k => if k.num = n then g k else k) = fun k => k.num == n := by
    funext k
    by_cases hk : k.num = n <;> simp [hk, hg]
  rw [this, h]
  simp [hn]

end

/-! ### The start of a job (13 R339; 19 R453, R459) -/

section

variable (s : State) (p : Nat)

/-- The journal with which the serving job starts, and the partition's round at that step. -/
def startedJournal (x : Part) : Journal :=
  let replay := bitAt (s.partReg p 0x70) 0
  let empty := fld (s.partReg p 0x80) 39 0 == 0
  let differs := replay && !empty && bitAt s.freeVal 0
  { recording := (s.journalRing p).isSome, seq := 0,
    replay := if !replay then 0 else if empty || differs then 3 else 1,
    reason := if !replay then 0 else if empty then 1 else if differs then 2 else 0, mismatched := false,
    stop := bitAt (s.partReg p 0x70) 1,
    stepAt := if replay && (empty || differs) then x.round.step else 0 }

theorem view_startJournal {β : Type} {v : Part → β} (hq : Seqless v) :
    partsView v (s.startJournal p) = partsView v (s.modPart p (fun x => { x with journal := startedJournal s p x })) := by
  unfold State.startJournal
  refine (view_journal _ p hq _ _).trans ?_
  unfold startedJournal
  split <;> rfl

/-- What a replay's outcome shows of a partition. -/
def replayView (x : Part) : Nat × Nat × W64 := (x.journal.replay, x.journal.reason, x.journal.stepAt)

theorem view_haltReplay {β : Type} {v : Part → β} (hr : Roundless v) (hq : Seqless v) : partsView v (s.haltReplay p) = partsView v s := by
  unfold State.haltReplay
  have h1 := only_abortRuns (L := [.clusters, .stackTab, .engines]) (within_sub (by decide) (within_refl _)) p
      (only_modClusters (within_sub (by decide) (within_refl _)) (s.partClusters p)
    (fun x => if x.job.isSome then x.stopIssue else x) (only_refl _ s))
  refine (view_only (only_settleLevels (within_refl _) (only_refl _ _)) (by simp)).trans ((view_modRound _ p hr _).trans ?_)
  refine (foldl_keeps (partsView v) _ (fun u it => view_only (only_returnToken (within_refl _) p it (only_refl _ u)) (by simp)) _ _).trans ?_
  exact (view_endRequests _ p hr hq _).trans (view_only h1 (by simp))

variable (j : Job) (shares : List Nat) (bs : List Byte)

/-- The state in which the job begins: a serving job's model is known and its journal is started. -/
def readyToBegin (header : Option Line) : State :=
  if j.queue = 0 then (s.modRound p (fun r => { r with model := header.map modelOf })).startJournal p else s

/-- The state once the job has begun on its clusters; a replay that has stopped halts the partition. -/
def begun (header : Option Line) : State :=
  let u := (readyToBegin s p j header).beginJob p j shares bs
  if j.queue == 0 && (u.part p).journal.replay == 3 then u.haltReplay p else u

theorem view_lcTurn {β : Type} {v : Part → β} (ht : ∀ x t, v { x with turn := t } = v x) : partsView v (s.lcTurn p) = partsView v s := by
  unfold State.lcTurn
  split
  · split
    · exact view_modPart s p (ht _ _)
    · rfl
  · rfl

theorem lcTurn_jobs : ((s.lcTurn p).part p).jobs = (s.part p).jobs := view_at (v := Part.jobs) (view_lcTurn s p (fun _ _ => rfl)) p

theorem lcTurn_time : (s.lcTurn p).time = s.time := (only_lcTurn (within_refl _) p (only_refl _ s)).same .time (by simp)

/-- What the beginning of a job leaves of its partition, but for its jobs, its turn and its copy queue. -/
theorem view_beginJob {β : Type} {v : Part → β} (ht : ∀ x t, v { x with turn := t } = v x) (hj : ∀ x l, v { x with jobs := l } = v x)
    (hc : ∀ x q, v { x with copyq := q } = v x) : partsView v (s.beginJob p j shares bs) = partsView v s := by
  unfold State.beginJob
  refine (view_modPart _ p (hc _ _)).trans ((view_modPart _ p (hj _ _)).trans ?_)
  exact (view_only (only_modClusters (within_refl _) _ _ (only_refl _ _)) (by simp)).trans (view_lcTurn s p ht)

variable {j}

theorem beginJob_job {n : Nat} (h : s.job p n = some j) : (s.beginJob p j shares bs).job p n =
    some { j with state := .running, shares := shares, clusters := s.clustersOf shares, startedAt := s.time.now, slot := s.freeSlot p } := by
  obtain rfl := job_num h
  have hjobs : ((s.lcTurn p).modClusters (s.clustersOf shares) (fun x => x.begin p j.num j.desc (some bs))).job p j.num = some j := by
    rw [← h]
    refine job_congr ?_ _
    have := view_at (v := Part.jobs) (view_only (only_modClusters (within_refl _) (s.clustersOf shares)
      (fun x => x.begin p j.num j.desc (some bs)) (only_refl _ (s.lcTurn p))) (by simp)) p
    exact this.trans (lcTurn_jobs s p)
  have hslot : (s.lcTurn p).freeSlot p = s.freeSlot p := by
    unfold State.freeSlot State.liveJobs
    rw [lcTurn_jobs]
  unfold State.beginJob
  dsimp only
  refine (job_congr ?_ _).trans ((job_modJob hjobs (fun _ => rfl) (g := fun k => { k with
    state := .running, shares := shares, clusters := s.clustersOf shares, startedAt := (s.lcTurn p).time.now,
    slot := (s.lcTurn p).freeSlot p })).trans ?_)
  · rw [modPart_part_same]
  · rw [lcTurn_time, hslot]

theorem beginJob_cluster_mem {c : Nat} (h : c ∈ s.clustersOf shares) :
    ∃ x : Cluster, (s.beginJob p j shares bs).cluster c = x.begin p j.num j.desc (some bs) := modClusters_cluster_mem h

theorem beginJob_cluster_ne {c : Nat} (h : c ∉ s.clustersOf shares) : (s.beginJob p j shares bs).cluster c = s.cluster c := by
  refine (modClusters_cluster_ne (s := s.lcTurn p) h).trans ?_
  exact congrArg (fun m => Tab.get (fun _ => Cluster.reset) m c) ((only_lcTurn (within_refl _) p (only_refl _ s)).same .clusters (by simp))

/-! ### What JOB_START comes to -/

variable {n : Nat} {image : Option (List Byte)} {header : Option Line}

/-- The shares that a starting job is given: those of its turn, and all of them for a serving job that has no turn yet. -/
def sharesGiven (s : State) (p n : Nat) (j : Job) : List Nat :=
  match (s.part p).turn.find? (fun e => e.1 == n) with
  | some e => e.2
  | none => if j.queue = 0 then s.sharesOf p else []

/-- The detail of the header fault that a start answers, if it does. -/
def startFault (s : State) (p : Nat) (j : Job) (header : Option Line) : Option Nat :=
  let bad := if j.queue = 0 then (match header with | some h => headerFault h | none => some 0) else none
  if bad.isNone && j.queue == 0 && !(s.round p).entries.isEmpty then some 64 else bad

/-- The start of a job whose image has been read, or could not be. -/
def startWith (p : Nat) (j : Job) (shares : List Nat) (header : Option Line) : State × Option (List Byte) → State
  | (u, none) => u.refuseStart p j 0x41 0
  | (u, some bs) => begun u p j shares bs header

/-- The start of a job of a partition whose header is good. -/
def startFrom (s : State) (p : Nat) (j : Job) (shares : List Nat) (image : Option (List Byte)) (header : Option Line) : State :=
  match s.tensorAt p (jProgram j.desc) with
  | none => s.refuseStart p j 0x41 0
  | some t =>
    if !t.isImage then s.refuseStart p j 0x41 0
    else if bitAt (s.partReg p 0x68) 13 && !s.copyqOk p (s.partReg p 0x68) then s.refuseStart p j 0x44 0
    else startWith p j shares header (s.imageOf p t image)

/-- The job may not start now. -/
def startWaits (s : State) (p : Nat) (j : Job) (shares : List Nat) : Bool :=
  j.live || !s.works p || decide ((s.part p).applied.maxJobs ≤ (s.liveJobs p).length) || !s.mayHold p j || shares.isEmpty ||
    shares.any (s.heldShares p).contains || !(s.clustersOf shares).all (fun c => (s.cluster c).still)

theorem exec_jobStart {p : PartId} (hj : s.job p n = some j) : exec (.jobStart p n image header) s = .next (
    if startWaits s p j (sharesGiven s p n j) then s
    else match startFault s p j header with
      | some f => s.refuseStart p j 0x40 f
      | none => startFrom s p j (sharesGiven s p n j) image header) := by
  show execJobStart p n image header s = _
  unfold execJobStart
  rw [hj]
  rfl

/-- The job waits, its shares and its clusters are free, and the partition may run one job more. -/
structure MayStart (p : PartId) (n : Nat) (s : State) (j : Job) (shares : List Nat) : Prop where
  job : s.job p n = some j
  given : sharesGiven s p n j = shares
  ready : startWaits s p j shares = false

theorem mayStart {p : PartId} (hj : s.job p n = some j) (hw : j.state = .waiting) (hk : s.works p = true)
    (hr : (s.liveJobs p).length < (s.part p).applied.maxJobs) (hm : s.mayHold p j = true) (hg : sharesGiven s p n j = shares)
    (hne : shares ≠ []) (hfree : ∀ x, x ∈ shares → x ∉ s.heldShares p) (hst : ∀ c, c ∈ s.clustersOf shares → (s.cluster c).still = true) :
    MayStart p n s j shares := by
  refine ⟨hj, hg, ?_⟩
  have hlive : j.live = false := by simp [Job.live, hw]
  have hall : (s.clustersOf shares).all (fun c => (s.cluster c).still) = true := by simpa using hst
  simp only [startWaits, hlive, hk, hm, hall]
  simpa [hne, hr] using hfree

theorem exec_jobStart_fault {p : PartId} (h : MayStart p n s j shares) {f : Nat} (hf : startFault s p j header = some f) :
    exec (.jobStart p n image header) s = .next (s.refuseStart p j 0x40 f) := by
  rw [exec_jobStart s h.job, h.given, h.ready, hf]
  rfl

theorem exec_jobStart_from {p : PartId} (h : MayStart p n s j shares) (hf : startFault s p j header = none) :
    exec (.jobStart p n image header) s = .next (startFrom s p j shares image header) := by
  rw [exec_jobStart s h.job, h.given, h.ready, hf]
  rfl

/-! ### The state in which a job has begun -/

theorem only_readyToBegin : Only [.free, .out, .unsent, .parts, .fns, .buckets] s (readyToBegin s p j header) := by
  unfold readyToBegin
  split
  · exact only_startJournal (within_refl _) p (only_modRound (within_sub (by decide) (within_refl _)) p _ (only_refl _ s))
  · exact only_refl _ s

theorem view_readyToBegin {β : Type} {v : Part → β} (hr : Roundless v) (hj : ∀ x l, v { x with journal := l } = v x) :
    partsView v (readyToBegin s p j header) = partsView v s := by
  unfold readyToBegin
  split
  · exact (view_startJournal _ p (fun x n => hj x _)).trans ((view_modPart _ p (hj _ _)).trans (view_modRound s p hr _))
  · rfl

theorem readyToBegin_jobs : ((readyToBegin s p j header).part p).jobs = (s.part p).jobs :=
  view_at (v := Part.jobs) (view_readyToBegin s p (fun _ _ => rfl) (fun _ _ => rfl)) p

theorem readyToBegin_clustersOf : (readyToBegin s p j header).clustersOf shares = s.clustersOf shares :=
  clustersOf_congr ((only_readyToBegin s p).same .clusters (by simp)) ((only_readyToBegin s p).same .quarters (by simp)) shares

theorem readyToBegin_freeSlot : (readyToBegin s p j header).freeSlot p = s.freeSlot p := by
  unfold State.freeSlot State.liveJobs
  rw [readyToBegin_jobs]

/-- What a serving job's start makes of the replay (19 R459). -/
theorem begun_replay (h : j.queue = 0) :
    replayView ((begun s p j shares bs header).part p) = replayView { s.part p with
      journal := startedJournal (s.modRound p (fun r => { r with model := header.map modelOf })) p (s.part p) } := by
  have started : replayView ((readyToBegin s p j header).part p) = replayView { s.part p with
      journal := startedJournal (s.modRound p (fun r => { r with model := header.map modelOf })) p (s.part p) } := by
    unfold readyToBegin
    rw [if_pos h]
    refine (view_at (view_startJournal _ p (fun _ _ => rfl)) p).trans ?_
    rw [modPart_part_same, modRound_part_same]
    rfl
  have joined := view_at (v := replayView)
    (view_beginJob (readyToBegin s p j header) p j shares bs (fun _ _ => rfl) (fun _ _ => rfl) (fun _ _ => rfl)) p
  unfold begun
  dsimp only
  split
  · exact (view_at (view_haltReplay _ p (fun _ _ => rfl) (fun _ _ => rfl)) p).trans (joined.trans started)
  · exact joined.trans started

theorem begun_plain (h : j.queue = 0 → bitAt (s.partReg p 0x70) 0 = false) :
    begun s p j shares bs header = (readyToBegin s p j header).beginJob p j shares bs := by
  unfold begun
  dsimp only
  rw [if_neg]
  intro hc
  obtain ⟨hq, hrep⟩ := Bool.and_eq_true_iff.mp hc
  have hq : j.queue = 0 := by simpa using hq
  have hpart : replayView ((readyToBegin s p j header).part p) = replayView { s.part p with
      journal := startedJournal (s.modRound p (fun r => { r with model := header.map modelOf })) p (s.part p) } := by
    unfold readyToBegin
    rw [if_pos hq]
    refine (view_at (view_startJournal _ p (fun _ _ => rfl)) p).trans ?_
    rw [modPart_part_same, modRound_part_same]
    rfl
  have joined := view_at (v := replayView)
    (view_beginJob (readyToBegin s p j header) p j shares bs (fun _ _ => rfl) (fun _ _ => rfl) (fun _ _ => rfl)) p
  have hzero : (((readyToBegin s p j header).beginJob p j shares bs).part p).journal.replay = 0 := by
    refine (congrArg Prod.fst (joined.trans hpart)).trans ?_
    have hb : bitAt ((s.modRound p (fun r => { r with model := header.map modelOf })).partReg p 0x70) 0 = false := h hq
    simp [replayView, startedJournal, hb]
  rw [hzero] at hrep
  simp at hrep

theorem begun_job (hj : s.job p n = some j) (h : j.queue = 0 → bitAt (s.partReg p 0x70) 0 = false) :
    (begun s p j shares bs header).job p n = some { j with
      state := .running, shares := shares, clusters := s.clustersOf shares, startedAt := s.time.now, slot := s.freeSlot p } := by
  rw [begun_plain s p shares bs h, beginJob_job (readyToBegin s p j header) p shares bs ((job_congr (readyToBegin_jobs s p) n).trans hj),
    readyToBegin_clustersOf, readyToBegin_freeSlot, (only_readyToBegin s p).same .time (by simp)]

/-- What a job's beginning leaves, where no replay begins with it. -/
theorem begun_facts (hj : s.job p n = some j) (h : j.queue = 0 → bitAt (s.partReg p 0x70) 0 = false) :
    let t := begun s p j shares bs header
    (∀ c, c ∈ s.clustersOf shares → ∃ x : Cluster, t.cluster c = x.begin p j.num j.desc (some bs)) ∧
    (∀ c, c ∉ s.clustersOf shares → t.cluster c = s.cluster c) ∧
    (∃ k, t.job p n = some k ∧ k.state = .running ∧ k.shares = shares ∧ k.clusters = s.clustersOf shares ∧
      k.startedAt = s.time.now ∧ k.slot = s.freeSlot p) ∧
    (t.part p).copyq = (if bitAt (s.partReg p 0x68) 13 then some (s.partReg p 0x68) else none) ∧
    (j.queue = 0 → (t.round p).model = header.map modelOf) ∧ t.mem = s.mem ∧ t.engines = s.engines ∧ t.regs = s.regs := by
  intro t
  have ready : Only [.free, .out, .unsent, .parts, .fns, .buckets] s (readyToBegin s p j header) := only_readyToBegin s p
  have frame : Only [.free, .out, .unsent, .clusters, .parts, .fns, .buckets] s t := by
    rw [show t = _ from begun_plain s p shares bs h]
    exact only_beginJob (within_sub (by decide) (within_refl _)) p j shares bs (only_widen (by decide) ready)
  refine ⟨fun c hc => ?_, fun c hc => ?_, ⟨_, begun_job s p shares bs hj h, rfl, rfl, rfl, rfl, rfl⟩, ?_, fun hq => ?_,
    frame.same .mem (by simp), frame.same .engines (by simp), frame.same .regs (by simp)⟩
  · rw [show t = _ from begun_plain s p shares bs h]
    exact beginJob_cluster_mem _ p shares bs ((readyToBegin_clustersOf s p shares).symm ▸ hc)
  · rw [show t = _ from begun_plain s p shares bs h,
      beginJob_cluster_ne _ p shares bs ((readyToBegin_clustersOf s p shares).symm ▸ hc)]
    exact congrArg (fun m => Tab.get (fun _ => Cluster.reset) m c) (ready.same .clusters (by simp))
  · rw [show t = _ from begun_plain s p shares bs h]
    unfold State.beginJob
    rw [modPart_part_same]
    show (if bitAt ((readyToBegin s p j header).partReg p 0x68) 13 then some ((readyToBegin s p j header).partReg p 0x68) else none) = _
    have reg : (readyToBegin s p j header).partReg p 0x68 = s.partReg p 0x68 := reg_of_regs (ready.same .regs (by simp)) 0 _
    rw [reg]
  · rw [show t = _ from begun_plain s p shares bs h]
    have joined := view_at (v := fun x => x.round.model)
      (view_beginJob (readyToBegin s p j header) p j shares bs (fun _ _ => rfl) (fun _ _ => rfl) (fun _ _ => rfl)) p
    refine joined.trans ?_
    unfold readyToBegin
    rw [if_pos hq]
    refine (view_at (v := fun x => x.round.model) (view_startJournal _ p (fun _ _ => rfl)) p).trans ?_
    rw [modPart_part_same, modRound_part_same]

theorem replay_exhausted {t : State} (hb : bitAt (s.partReg p 0x70) 0 = true) (hz : fld (s.partReg p 0x80) 39 0 = 0)
    (h : replayView (t.part p) = replayView { s.part p with
      journal := startedJournal (s.modRound p (fun r => { r with model := header.map modelOf })) p (s.part p) }) :
    (t.part p).journal.replay = 3 ∧ (t.part p).journal.reason = 1 ∧ (t.part p).journal.stepAt = (s.round p).step := by
  have hb' : bitAt ((s.modRound p (fun r => { r with model := header.map modelOf })).partReg p 0x70) 0 = true := hb
  have hz' : fld ((s.modRound p (fun r => { r with model := header.map modelOf })).partReg p 0x80) 39 0 = 0 := hz
  have values : replayView (t.part p) = (3, 1, (s.round p).step) := by
    rw [h]
    simp [replayView, startedJournal, hb', hz', State.round]
  simpa [replayView] using values

theorem replay_begins {t : State} (hb : bitAt (s.partReg p 0x70) 0 = true) (hz : fld (s.partReg p 0x80) 39 0 ≠ 0)
    (h : replayView (t.part p) = replayView { s.part p with
      journal := startedJournal (s.modRound p (fun r => { r with model := header.map modelOf })) p (s.part p) }) :
    ((t.part p).journal.replay = 1 ∧ (t.part p).journal.reason = 0) ∨ ((t.part p).journal.replay = 3 ∧ (t.part p).journal.reason = 2) := by
  have hb' : bitAt ((s.modRound p (fun r => { r with model := header.map modelOf })).partReg p 0x70) 0 = true := hb
  have hz' : fld ((s.modRound p (fun r => { r with model := header.map modelOf })).partReg p 0x80) 39 0 ≠ 0 := hz
  have replay : (t.part p).journal.replay = _ := congrArg Prod.fst h
  have reason : (t.part p).journal.reason = _ := congrArg (fun x => x.2.1) h
  cases hd : bitAt (s.modRound p (fun r => { r with model := header.map modelOf })).freeVal 0
  · exact Or.inl ⟨replay.trans (by simp [replayView, startedJournal, hb', hz', hd]),
      reason.trans (by simp [replayView, startedJournal, hb', hz', hd])⟩
  · exact Or.inr ⟨replay.trans (by simp [replayView, startedJournal, hb', hz', hd]),
      reason.trans (by simp [replayView, startedJournal, hb', hz', hd])⟩

end

/-- Settles O11: the shares, the header, the image and the copy queue are checked in turn, and then the job begins. -/
theorem jobsBeginOnTheirClusters : Obligations.JobsBeginOnTheirClusters := by
  unfold Obligations.JobsBeginOnTheirClusters
  intro p n image header s j shares serves copyq hj hw hk hr hm hg hne hfree hst
  have may : MayStart p n s j shares := mayStart s shares hj hw hk hr hm hg hne hfree hst
  refine ⟨fun hgood => ?_, fun hserves => ⟨fun hh => ?_, fun h f hh hf => ?_⟩⟩
  · have hfault : startFault s p j header = none := by
      by_cases hq : j.queue = 0
      · obtain ⟨⟨h, rfl, hh⟩, he⟩ := hgood hq
        simp [startFault, hq, hh, he]
      · simp [startFault, hq]
    have run := exec_jobStart_from (image := image) s shares may hfault
    unfold startFrom at run
    refine ⟨fun ht => ?_, fun tn ht => ?_⟩
    · rw [ht] at run
      exact completes_next run rfl
    · rw [ht] at run
      dsimp only at run
      refine ⟨fun hi => ?_, fun hi hc hok => ?_, fun hi hok => ?_⟩
      · rw [hi] at run
        exact completes_next run rfl
      · rw [hi, show bitAt (s.partReg p 0x68) 13 = true from hc, hok] at run
        exact completes_next run rfl
      · have hcq : (bitAt (s.partReg p 0x68) 13 && !s.copyqOk p (s.partReg p 0x68)) = false := by
          cases hb : bitAt (s.partReg p 0x68) 13
          · rfl
          · rw [hok hb]
            rfl
        rw [hi, hcq] at run
        refine ⟨fun u hu => ?_, fun bs hu => ?_⟩
        · rw [hu] at run
          exact completes_next run rfl
        · rw [hu] at run
          refine ⟨fun hplain => completes_next run (begun_facts s p shares bs hj hplain), fun hserves hrep => ?_⟩
          have out := begun_replay (bs := bs) (shares := shares) (header := header) s p (show j.queue = 0 from hserves)
          exact ⟨fun hz => completes_next run (replay_exhausted s p hrep hz out), fun hz => completes_next run (replay_begins s p hrep hz out)⟩
  · exact completes_next (exec_jobStart_fault s shares may (by simp [startFault, show j.queue = 0 from hserves, hh])) rfl
  · exact completes_next (exec_jobStart_fault s shares may (by simp [startFault, show j.queue = 0 from hserves, hh, hf])) rfl

end Sys2Proof.Proofs
end

section
/-! PROOF of halts, ends of jobs, yield timeouts (03 R96, R97) -/

namespace Sys2Proof.Proofs
open Sys2Proof Sys2Proof.Machine Sys2Proof.Laws

/-! ### The end of a job (13 R344) -/

section

variable {s : State} {p n : Nat} {j : Job}

/-- A cluster as the end of job n of partition p leaves it. -/
def leaves (p n : Nat) (x : Cluster) : Cluster := if x.job = some (p, n) then x.release else x

theorem leaves_job (x : Cluster) : (leaves p n x).job ≠ some (p, n) := by
  unfold leaves
  split
  next h => exact fun e => nomatch e
  next h => exact h

/-- The state of an ended job before its record is written. -/
def ended (s : State) (p n : Nat) (j : Job) : State :=
  (s.modClusters j.clusters (leaves p n)).modPart p (fun x =>
    { x with jobs := x.jobs.filter (fun k => k.num != n), turn := x.turn.filter (fun e => e.1 != n) })

theorem endJob_eq (h : s.job p n = some j) (status fault detail detail2 : Nat) : s.endJob p n status fault detail detail2 =
    (ended s p n j).jobAnswer j.fn j.ring j.desc status fault detail detail2 j.startedAt.toNat := by
  unfold State.endJob
  rw [h]
  rfl

theorem only_ended : Only [.clusters, .parts] s (ended s p n j) :=
  only_modPart (within_sub (by decide) (within_refl _)) p _
    (only_modClusters (within_sub (by decide) (within_refl _)) j.clusters _ (only_refl _ s))

theorem ended_job : (ended s p n j).job p n = none := by
  unfold State.job ended
  rw [modPart_part_same]
  simp [List.find?_filter]

theorem ended_cluster_mem {k : Nat} (h : k ∈ j.clusters) : ((ended s p n j).cluster k).job ≠ some (p, n) := by
  obtain ⟨x, hx⟩ := modClusters_cluster_mem (s := s) (f := leaves p n) h
  rw [show (ended s p n j).cluster k = _ from hx]
  exact leaves_job x

theorem ended_cluster_ne {k : Nat} (h : k ∉ j.clusters) : (ended s p n j).cluster k = s.cluster k := modClusters_cluster_ne h

theorem onlyHost_jobAnswer (fn r : Nat) (d : Line) (status fault detail detail2 started : Nat) :
    OnlyHost s (s.jobAnswer fn r d status fault detail detail2 started) := onlyHost_putRing s _ _ _

end

/-! ### CLUSTER_HALT_COMPLETE and YIELD_TIMEOUT -/

/-- A halting cluster of which nothing is left in progress. -/
def drained (x : Cluster) : Bool :=
  x.halting && x.running.isEmpty && x.load.isNone && x.fence.isNone && x.faultRec.isNone &&
    [1, 2, 3, 4].all (fun k => (x.arch.queue k).isEmpty)

/-- The cluster has halted. -/
def haltedNow (s : State) (c : Nat) : State := s.modCluster c (fun y => { y with halting := false, halted := true })

section

variable {s : State} {c : ClusterId} {p n : Nat} {j : Job}

theorem exec_clusterHaltComplete (hj : (s.cluster c).job = some (p, n)) (hs : s.job p n = some j) (hd : drained (s.cluster c) = true) :
    exec (.clusterHaltComplete c) s = .next (if j.clusters.all (fun k => ((haltedNow s c).cluster k).halted)
      then (haltedNow s c).endJob p n 0 0 0 0 else haltedNow s c) := by
  have hu : (haltedNow s c).job p n = some j := hs
  have hd' := hd
  unfold drained at hd'
  show execClusterHaltComplete c s = _
  unfold execClusterHaltComplete
  dsimp only
  rw [hj]
  dsimp only
  rw [if_pos hd', show (s.modCluster c (fun y => { y with halting := false, halted := true })).job p n = some j from hs]
  rfl

theorem haltedNow_halted {k : Nat} : ((haltedNow s c).cluster k).halted = if k = c.val then true else (s.cluster k).halted := by
  unfold haltedNow
  by_cases hk : k = c.val
  · rw [if_pos hk, hk, modCluster_cluster_same]
  · rw [if_neg hk, modCluster_cluster_ne _ _ _ _ hk]

end

/-- Settles O12: the last cluster's halt ends the job; a cluster that has not stopped in time faults. -/
theorem clustersHaltOrTimeOut : Obligations.ClustersHaltOrTimeOut := by
  unfold Obligations.ClustersHaltOrTimeOut
  refine ⟨fun c s p n j hj hs hhalt hrun hload hfence hrec hq => ?_, fun c s at' hp hj hst hh hr hd => ?_⟩
  · have hd : drained (s.cluster c) = true := by
      have h1 := hq 1 (by simp)
      have h2 := hq 2 (by simp)
      have h3 := hq 3 (by simp)
      have h4 := hq 4 (by simp)
      simp [drained, hhalt, hrun, hload, hfence, hrec, h1, h2, h3, h4]
    have run := exec_clusterHaltComplete hj hs hd
    refine ⟨fun hother => ?_, fun hall => ?_⟩
    · obtain ⟨k, hk, hkc, hkh⟩ := hother
      rw [if_neg] at run
      · exact completes_next run ⟨onlyCluster_mod (onlyCluster_refl _ s) _, modCluster_cluster_same _ _ _⟩
      · intro h
        have := List.all_eq_true.mp h k hk
        rw [haltedNow_halted, if_neg hkc, hkh] at this
        cases this
    · rw [if_pos, endJob_eq (s := haltedNow s c) hs] at run
      · obtain ⟨f, o, u, b, he⟩ := onlyHost_jobAnswer (s := ended (haltedNow s c) p n j) j.fn j.ring j.desc 0 0 0 0 j.startedAt.toNat
        have frame : Only [.clusters, .parts] s (ended (haltedNow s c) p n j) :=
          only_trans (only_modCluster (within_sub (by decide) (within_refl _)) c _ (only_refl _ s)) only_ended
        refine completes_next run ⟨?_, ⟨ended (haltedNow s c) p n j, rfl, frame.same .out (by simp), frame.same .fns (by simp),
          frame.same .time (by simp)⟩, fun k hk => ?_, fun k hk hkc => ?_, ?_, ?_, ?_⟩
        · rw [he]
          exact ended_job
        · rw [he]
          exact ended_cluster_mem hk
        · rw [he]
          exact (ended_cluster_ne hk).trans (modCluster_cluster_ne _ _ _ _ hkc)
        · rw [he]
          exact frame.same .mem (by simp)
        · rw [he]
          exact frame.same .engines (by simp)
        · rw [he]
          exact frame.same .regs (by simp)
      · refine List.all_eq_true.mpr fun k hk => ?_
        rw [haltedNow_halted]
        split
        · rfl
        next hkc => exact hall k hk hkc
  · have run : exec (.yieldTimeout c) s = .next (s.clusterFault c 0x0D 6 (s.cluster c).arch.pc.toNat none) := by
      show execYieldTimeout c s = _
      simp [execYieldTimeout, hp, hj, hst, hh, hr, hd]
    exact completes_next run (faulted_clusterFault s c 0x0D 6 _ none)

end Sys2Proof.Proofs
end

section
/-! PROOF of preemption, save, restore, slices, job faults (13 R340 to R346) -/

namespace Sys2Proof.Proofs
open Sys2Proof Sys2Proof.Machine Sys2Proof.Laws

/-! ### What blanking leaves -/

theorem stored_eq_map (s : State) (l : Nat) : s.stored l = (List.range 72).map (fun i => Tab.get blankByte s.mem (72 * l + i)) :=
  getList_eq_map _ _ _ _

theorem stored_blankWhere_ne {s : State} {q : Nat → Bool} {l : Nat} (h : q l = false) : (s.blankWhere q).stored l = s.stored l := by
  rw [stored_eq_map, stored_eq_map]
  refine List.map_congr_left fun i hi => ?_
  have hl : (72 * l + i) / 72 = l := by
    have := List.mem_range.mp hi
    omega
  show Tab.get blankByte (Tab.keep (fun k => !q (k / 72)) s.mem) (72 * l + i) = _
  rw [tab_get_keep, hl, h]
  rfl

theorem stored_writeArea {s : State} {p k l : Nat}
    (h : ∀ r, r ∈ s.fwRegions p → ((s.region r).hasLine l && s.inArea p k (s.region r) l) = false) :
    (s.writeArea p k).stored l = s.stored l := by
  unfold State.writeArea
  suffices hw : ∀ (rs : List Nat) (t : State), (∀ r, r ∈ rs → ((s.region r).hasLine l && s.inArea p k (s.region r) l) = false) →
      (rs.foldl (fun t n => t.blankWhere (fun l => (s.region n).hasLine l && s.inArea p k (s.region n) l)) t).stored l = t.stored l from
    hw _ s h
  intro rs
  induction rs with
  | nil => exact fun t _ => rfl
  | cons r rs ih =>
    intro t hr
    rw [List.foldl_cons, ih _ fun x hx => hr x (List.mem_cons_of_mem _ hx)]
    exact stored_blankWhere_ne (hr r List.mem_cons_self)

theorem part_of_parts {s t : State} (h : t.parts = s.parts) (k : Nat) : t.part k = s.part k := by
  unfold State.part
  rw [h]

/-! ### Preemption, save and restore -/

section

variable {p : PartId} {n : Nat} {s : State} {j : Job}

/-- What a preemption request makes of a cluster. -/
def asked (now : W64) (x : Cluster) : Cluster := if x.halted then x else { x with preempt := some now }

theorem asked_asked (now : W64) (x : Cluster) : asked now (asked now x) = asked now x := by
  unfold asked
  by_cases h : x.halted <;> simp [h]

theorem lcTurn_part_ne {k : Nat} (h : k ≠ p.val) : (s.lcTurn p).part k = s.part k := by
  unfold State.lcTurn
  split
  · split
    · exact modPart_part_ne _ _ _ _ h
    · rfl
  · rfl

theorem modClusters_parts (cs : List Nat) (f : Cluster → Cluster) : (s.modClusters cs f).parts = s.parts :=
  (only_modClusters (within_refl _) cs f (only_refl _ s)).same .parts (by simp)

theorem modClusters_part (cs : List Nat) (f : Cluster → Cluster) (k : Nat) : (s.modClusters cs f).part k = s.part k := by
  unfold State.part
  rw [modClusters_parts]

theorem modJob_part_ne {k : Nat} (g : Job → Job) (h : k ≠ p.val) : (s.modJob p n g).part k = s.part k := modPart_part_ne _ _ _ _ h

theorem lcTurn_cluster (c : Nat) : (s.lcTurn p).cluster c = s.cluster c :=
  congrArg (fun m => Tab.get (fun _ => Cluster.reset) m c) ((only_lcTurn (within_refl _) p (only_refl _ s)).same .clusters (by simp))

theorem exec_preemptRequest (hj : s.job p n = some j) (hr : j.state = .running) (hm : s.mayHold p j = false)
    (hq : j.queue ≠ 0 ∨ s.inStep p = false) : exec (.preemptRequest p n) s =
      .next (((s.lcTurn p).modClusters j.clusters (asked s.time.now)).modJob p n (fun k => { k with state := .stopping })) := by
  show execPreemptRequest p n s = _
  unfold execPreemptRequest
  rw [hj]
  dsimp only
  rw [if_pos ⟨hr, by simp [hm], by simpa using hq⟩]
  rfl

theorem exec_jobSave (hj : s.job p n = some j) (hr : j.state = .stopping) (hc : ∀ c, c ∈ j.clusters → (s.cluster c).saveable = true)
    (hn : s.runsOf p = []) (hk : ∀ k, k ∈ s.copies → k.queue ≠ .program p) : exec (.jobSave p n) s = .next (s.modJob p n (fun k =>
      { k with state := .saving, area := j.clusters.map (fun c =>
          { cluster := c, arch := (s.cluster c).arch, fence := (s.cluster c).fence, halting := (s.cluster c).halting,
            halted := (s.cluster c).halted }) })) := by
  show execJobSave p n s = _
  unfold execJobSave
  rw [hj]
  dsimp only
  rw [if_pos ⟨hr, List.all_eq_true.mpr hc, by simp [hn], by simpa using hk⟩]

theorem exec_jobSaveComplete (hj : s.job p n = some j) (hr : j.state = .saving) : exec (.jobSaveComplete p n) s =
    .next (((s.writeArea p j.slot).modClusters j.clusters Cluster.release).modJob p n (fun k => { k with state := .saved })) := by
  show execJobSaveComplete p n s = _
  unfold execJobSaveComplete
  rw [hj]
  dsimp only
  rw [if_pos hr]

/-- A job's clusters, each with its record. -/
def restored (s : State) (p n : Nat) (area : List Saved) : State :=
  area.foldl (fun t a => t.modCluster a.cluster (fun x => x.restore p n a)) s

theorem exec_jobRestore (hj : s.job p n = some j) (hr : j.state = .saved) (hm : s.mayHold p j = true)
    (hc : ∀ c, c ∈ j.clusters → (s.cluster c).still = true) (hb : s.fwBad p (s.inArea p j.slot) = none) :
    exec (.jobRestore p n) s = .next ((restored (s.lcTurn p) p n j.area).modJob p n (fun k => { k with state := .running })) := by
  show execJobRestore p n s = _
  unfold execJobRestore
  rw [hj]
  dsimp only
  rw [if_pos ⟨hr, hm, List.all_eq_true.mpr hc⟩, hb]
  rfl

theorem exec_jobRestore_bad (hj : s.job p n = some j) (hr : j.state = .saved) (hm : s.mayHold p j = true)
    (hc : ∀ c, c ∈ j.clusters → (s.cluster c).still = true) {l : Nat} (hb : s.fwBad p (s.inArea p j.slot) = some l) :
    exec (.jobRestore p n) s = .next (s.badLine (ctlOf l) l 0xFF false false) := by
  show execJobRestore p n s = _
  unfold execJobRestore
  rw [hj]
  dsimp only
  rw [if_pos ⟨hr, hm, List.all_eq_true.mpr hc⟩, hb]

theorem restored_cluster_ne {q m : Nat} {area : List Saved} {c : Nat} (h : c ∉ area.map (·.cluster)) :
    (restored s q m area).cluster c = s.cluster c := by
  unfold restored
  induction area generalizing s with
  | nil => rfl
  | cons a area ih =>
    obtain ⟨ha, harea⟩ := not_or.mp (fun e => h (List.mem_cons.mpr e))
    rw [List.foldl_cons, ih harea, modCluster_cluster_ne _ _ _ _ ha]

theorem restored_cluster_mem {q m : Nat} {area : List Saved} (hn : (area.map (·.cluster)).Nodup) {a : Saved} (h : a ∈ area) :
    (restored s q m area).cluster a.cluster = (s.cluster a.cluster).restore q m a := by
  induction area generalizing s with
  | nil => cases h
  | cons b area ih =>
    obtain ⟨hb, hrest⟩ := List.nodup_cons.mp hn
    show (restored (s.modCluster b.cluster (fun x => x.restore q m b)) q m area).cluster a.cluster = _
    rcases List.mem_cons.mp h with rfl | ha
    · rw [restored_cluster_ne hb, modCluster_cluster_same]
    · have hne : a.cluster ≠ b.cluster := fun e => hb (List.mem_map.mpr ⟨a, ha, e⟩)
      rw [ih hrest ha, modCluster_cluster_ne _ _ _ _ hne]

theorem only_restored {q m : Nat} (area : List Saved) : Only [.clusters] s (restored s q m area) :=
  only_foldl area (only_refl _ s) fun _ _ h => only_modCluster (within_refl _) _ _ h

end

/-! ### Time slices -/

section

variable {p : PartId} {s : State}

theorem spendSlice_part_ne {k : Nat} (h : k ≠ p.val) : (s.spendSlice p).part k = s.part k := by
  unfold State.spendSlice
  refine foldl_keeps (fun t : State => t.part k) _ (fun u j => ?_) _ s
  split
  · exact modRound_part_ne _ _ _ _ h
  · rfl

theorem boundary_part_ne {k : Nat} (h : k ≠ p.val) : (s.boundary p).part k = s.part k :=
  (modPart_part_ne _ _ _ _ h).trans (spendSlice_part_ne h)

theorem boundary_turn : ((s.boundary p).part p).sliceDue = false ∧ ((s.boundary p).part p).turn = (s.spendSlice p).nextTurn p := by
  unfold State.boundary
  dsimp only
  rw [modPart_part_same]
  exact ⟨rfl, rfl⟩

/-- The boundary is held until the commit. -/
def boundaryHeld (s : State) (p : Nat) : Bool :=
  s.inStep p && (match s.servingJob p with | some j => decide (j.state = .running) | none => false)

theorem exec_timeSliceBoundary (hm : (s.part p).mode = .ready) (hd : (s.part p).sliceAt.toNat + 100000 * (s.part p).slice ≤ s.nowNat) :
    exec (.timeSliceBoundary p) s =
      .next ((if boundaryHeld s p then s.modPart p (fun x => { x with sliceDue := true }) else s.boundary p).modPart p (fun x =>
        { x with sliceAt := BitVec.ofNat 64 ((s.part p).sliceAt.toNat + 100000 * (s.part p).slice), slice := fld (s.partCfg p) 29 20 })) := by
  show execTimeSliceBoundary p s = _
  unfold execTimeSliceBoundary
  dsimp only
  rw [if_pos ⟨hm, hd⟩]
  rfl

end

/-! ### Job faults (13 R346) -/

section

variable {β : Type} {v : Part → β} (s : State) (p : Nat)

/-- v shows nothing of a job fault that is due. -/
def Dueless (v : Part → β) : Prop := ∀ x b, v { x with faultDue := b } = v x

section

variable (hd : Dueless v)

include hd

theorem view_badFirmwareLine (r : Region) (pln : Nat) : partsView v (s.badFirmwareLine r pln) = partsView v s := by
  unfold State.badFirmwareLine
  split
  · exact view_modPart s r.owner (hd _ _)
  · split <;> exact view_parts rfl

theorem view_badLine (source pln partition : Nat) (sealBad merge : Bool) :
    partsView v (s.badLine source pln partition sealBad merge) = partsView v s := by
  have recorded (severity code line : Nat) : partsView v (((s.modCe (channelOf pln)
      (fun x => { x with uncorrectable := satAdd 0xFFFF x.uncorrectable 1 })).recordError source severity code pln partition).latch line) =
      partsView v s :=
    view_only (L := [.memory, .intr]) (only_latch (within_sub (by decide) (within_refl _)) _
      (only_recordError (within_sub (by decide) (within_refl _)) _ _ _ _ _
        (only_modCe (within_sub (by decide) (within_refl _)) _ _ (only_refl _ s)))) (by simp)
  have poisoned (u : State) (old : Bool) (l : List Nat) :
      partsView v (if old then u else (u.setStored pln poisonLine).postTo l 5 2 (channelOf pln) pln) = partsView v u := by
    cases old
    · exact view_only (L := [.mem, .out, .unsent, .fns, .buckets]) (only_postTo (within_sub (by decide) (within_refl _)) l 5 2 _ _
        (only_setStored (within_sub (by decide) (within_refl _)) pln poisonLine (only_refl _ u))) (by simp)
    · rfl
  unfold State.badLine
  dsimp only
  split
  · exact recorded _ _ _
  · split
    · split
      · exact (view_badFirmwareLine _ hd _ _).trans ((poisoned _ _ _).trans (recorded _ _ _))
      · split
        · exact (view_only (only_queueRepair (within_refl _) _ _ _ (only_refl _ _)) (by simp)).trans ((poisoned _ _ _).trans (recorded _ _ _))
        · exact (poisoned _ _ _).trans (recorded _ _ _)
    · exact (poisoned _ _ _).trans (recorded _ _ _)

theorem view_readLineFor (source pln partition : Nat) (merge : Bool) :
    partsView v (s.readLineFor source pln partition merge).1 = partsView v s := by
  unfold State.readLineFor
  dsimp only
  split_ifs
  · rfl
  · rfl
  · exact view_badLine s hd _ _ _ _ _
  · split
    · rfl
    · exact view_only (L := [.mem, .out, .unsent, .stackTab, .memory, .fns, .buckets, .sec, .spares])
        (only_corrected (within_sub (by decide) (within_refl _)) _
          (only_setStored (within_sub (by decide) (within_refl _)) _ _ (only_refl _ s))) (by simp)
    · exact view_badLine s hd _ _ _ _ _

omit hd in
theorem view_of_fst {α : Type} {r : State × α} {s t : State} {a : α} (h : r = (t, a)) (hr : partsView v r.1 = partsView v s) :
    partsView v t = partsView v s := by
  rwa [h] at hr

theorem view_mergeLine (source pln partition pos len n : Nat) :
    partsView v (s.mergeLine source pln partition pos len n).1 = partsView v s := by
  unfold State.mergeLine
  split
  · exact view_only (only_writeLine (within_refl _) _ _ (only_refl _ s)) (by simp)
  · split
    next h =>
      exact (view_only (only_writeLine (within_refl _) _ _ (only_refl _ _)) (by simp)).trans (view_of_fst h (view_readLineFor s hd _ _ _ _))
    next h => exact view_of_fst h (view_readLineFor s hd _ _ _ _)

theorem view_firmwareError : partsView v (s.firmwareError p) = partsView v s := view_modPart s p (hd _ _)

theorem view_regionWord (n o q : Nat) : partsView v (s.regionWord n o q).1 = partsView v s := by
  unfold State.regionWord
  split
  next h => exact view_of_fst h (view_readLineFor s hd _ _ _ _)
  next h => exact view_of_fst h (view_readLineFor s hd _ _ _ _)

theorem view_regionPut (n o q len w : Nat) : partsView v (s.regionPut n o q len w) = partsView v s := by
  unfold State.regionPut
  split
  next h => exact view_of_fst h (view_mergeLine s hd _ _ _ _ _ _)
  next h => exact (view_firmwareError _ q hd).trans (view_of_fst h (view_mergeLine s hd _ _ _ _ _ _))

theorem view_discardCopies : partsView v (s.discardCopies p) = partsView v s := by
  unfold State.discardCopies
  split
  · rfl
  · dsimp only
    split
    next h => exact (view_firmwareError _ p hd).trans (view_of_fst h (view_regionWord s hd _ _ _))
    next h =>
      have first := view_of_fst h (view_regionWord s hd _ _ _)
      split
      next k => exact (view_firmwareError _ p hd).trans ((view_of_fst k (view_regionWord _ hd _ _ _)).trans first)
      next k =>
        refine (view_regionPut _ hd _ _ _ _ _).trans ((foldl_keeps (partsView v) _ (fun u i => view_regionPut u hd _ _ _ _ _) _ _).trans ?_)
        exact (view_of_fst k (view_regionWord _ hd _ _ _)).trans first

theorem view_stopPartition (hc : ∀ x a b c, v { x with progQ := a, copyq := b, turns := c } = v x) :
    partsView v (s.stopPartition p) = partsView v s := by
  unfold State.stopPartition
  refine (view_modPart _ p (hc _ _ _ _)).trans ((view_discardCopies _ p hd).trans ?_)
  exact view_only (L := [.clusters, .stackTab, .engines]) (only_abortRuns (within_sub (by decide) (within_refl _)) p
    (only_modClusters (within_sub (by decide) (within_refl _)) _ _ (only_refl _ s))) (by simp)

end

theorem view_endJob (hj : ∀ x a b, v { x with jobs := a, turn := b } = v x) (n status fault detail detail2 : Nat) :
    partsView v (s.endJob p n status fault detail detail2) = partsView v s := by
  unfold State.endJob
  split
  · rfl
  · exact (view_host (onlyHost_jobAnswer _ _ _ _ _ _ _ _)).trans ((view_modPart _ p (hj _ _ _)).trans (view_parts (modClusters_parts _ _)))

/-- The partition once its work has been stopped and the faulting job, if there is one, has ended. -/
def faultStopped (s : State) (p : Nat) (n : Option Nat) (fault detail detail2 : Nat) : State :=
  match n with
  | some k => ((s.journalHappening p 5 fault).stopPartition p).endJob p k 0x42 fault detail detail2
  | none => (s.journalHappening p 5 fault).stopPartition p

/-- The partition once its other live jobs have ended too. -/
def jobsEnded (s : State) (p : Nat) (n : Option Nat) (fault detail detail2 : Nat) : State :=
  ((faultStopped s p n fault detail detail2).liveJobs p).foldl (fun u j => u.endJob p j.num 0x43 0 0 0)
    (faultStopped s p n fault detail detail2)

theorem jobsEnded_live (n : Option Nat) (fault detail detail2 : Nat) : (jobsEnded s p n fault detail detail2).liveJobs p = [] := by
  unfold jobsEnded
  generalize faultStopped s p n fault detail detail2 = t
  have jobs := congrArg Outline.jobs (ending_endJobs (p := p) (t.liveJobs p) t)
  exact (congrArg (List.filter Job.live) jobs).trans (live_endJobs (t.part p).jobs)

/-- What v shows of the parts of a partition that a job fault stops. -/
theorem view_jobsEnded (hd : Dueless v) (hq : Seqless v) (hc : ∀ x a b c, v { x with progQ := a, copyq := b, turns := c } = v x)
    (hj : ∀ x a b, v { x with jobs := a, turn := b } = v x) (n : Option Nat) (fault detail detail2 : Nat) :
    partsView v (jobsEnded s p n fault detail detail2) = partsView v s := by
  have happened : partsView v (s.journalHappening p 5 fault) = partsView v s := by
    unfold State.journalHappening
    dsimp only
    rw [if_pos (by simp)]
    exact view_journal s p hq _ _
  have stopped := (view_stopPartition (s.journalHappening p 5 fault) p hd hc).trans happened
  unfold jobsEnded
  refine (foldl_keeps (partsView v) _ (fun u (j : Job) => view_endJob u p hj _ _ _ _ _) _ _).trans ?_
  cases n with
  | none => exact stopped
  | some k => exact (view_endJob _ p hj _ _ _ _ _).trans stopped

/-- The state of a job fault before its count. -/
def roundEnded (s : State) (p : Nat) (n : Option Nat) (fault detail detail2 : Nat) : State :=
  (((jobsEnded s p n fault detail detail2).endRequests p 0x19).emptyRound p).settleLevels

theorem view_roundEnded (hr : Roundless v) (hq : Seqless v) (n : Option Nat) (fault detail detail2 : Nat) :
    partsView v (roundEnded s p n fault detail detail2) = partsView v (jobsEnded s p n fault detail detail2) := by
  unfold roundEnded
  generalize jobsEnded s p n fault detail detail2 = t
  exact (view_only (only_settleLevels (within_refl _) (only_refl _ _)) (by simp)).trans
    ((view_emptyRound _ p hr).trans (view_endRequests t p hr hq _))

/-- The state of a job fault once it is counted. -/
def faultCounted (s : State) (p : Nat) (n : Option Nat) (fault detail detail2 : Nat) : State :=
  (roundEnded s p n fault detail detail2).modPart p (fun x =>
    { x with jobFaults := satAdd 65535 x.jobFaults 1, faultDue := false, sliceDue := false })

theorem jobFault_eq (n : Option Nat) (fault detail detail2 : Nat) : ∃ x, s.jobFault p n fault detail detail2 =
    (faultCounted s p n fault detail detail2).postTo [0, p + 1] 3 1 p x := by
  unfold State.jobFault faultCounted roundEnded jobsEnded faultStopped
  cases n <;> exact ⟨_, rfl⟩

theorem jobFault_parts (n : Option Nat) (fault detail detail2 : Nat) :
    (s.jobFault p n fault detail detail2).parts = (faultCounted s p n fault detail detail2).parts := by
  obtain ⟨x, h⟩ := jobFault_eq s p n fault detail detail2
  rw [h]
  exact (only_postTo (within_refl _) [0, p + 1] 3 1 p x (only_refl _ (faultCounted s p n fault detail detail2))).same .parts (by simp)

/-- What a job fault leaves of its partition (13 R346). -/
theorem roundEnded_jobFaults (n : Option Nat) (fault detail detail2 : Nat) :
    ((roundEnded s p n fault detail detail2).part p).jobFaults = (s.part p).jobFaults :=
  (view_at (v := Part.jobFaults) (view_roundEnded s p (fun _ _ => rfl) (fun _ _ => rfl) n fault detail detail2) p).trans
    (view_at (v := Part.jobFaults) (view_jobsEnded s p (fun _ _ => rfl) (fun _ _ => rfl) (fun _ _ _ _ => rfl) (fun _ _ _ => rfl)
      n fault detail detail2) p)

theorem roundEnded_live (n : Option Nat) (fault detail detail2 : Nat) : (roundEnded s p n fault detail detail2).liveJobs p = [] := by
  have jobs := view_at (v := Part.jobs) (view_roundEnded s p (fun _ _ => rfl) (fun _ _ => rfl) n fault detail detail2) p
  have live := jobsEnded_live s p n fault detail detail2
  unfold State.liveJobs at live ⊢
  rw [jobs]
  exact live

theorem jobFault_counts (n : Option Nat) (fault detail detail2 : Nat) :
    ((s.jobFault p n fault detail detail2).part p).faultDue = false ∧
    ((s.jobFault p n fault detail detail2).part p).jobFaults = satAdd 65535 (s.part p).jobFaults 1 ∧
    (s.jobFault p n fault detail detail2).liveJobs p = [] := by
  have part := part_of_parts (jobFault_parts s p n fault detail detail2) p
  have counted := roundEnded_jobFaults s p n fault detail detail2
  have live := roundEnded_live s p n fault detail detail2
  unfold faultCounted at part
  unfold State.liveJobs at live ⊢
  rw [modPart_part_same] at part
  generalize roundEnded s p n fault detail detail2 = t at part counted live
  generalize s.jobFault p n fault detail detail2 = u at part ⊢
  rw [part, ← counted]
  exact ⟨rfl, rfl, live⟩

end

section

variable {p : PartId} {s : State} (hm : (s.part p).mode = .ready)

include hm

theorem exec_jobFault_idle (hl : s.liveJobs p = []) (hd : (s.part p).faultDue = true) (n : Nat) :
    exec (.jobFault p n 0) s = .next (s.jobFault p none 0 0 0) := by
  show execJobFault p n 0 s = _
  simp [execJobFault, hm, hl, hd]

theorem exec_jobFault_record {n : Nat} {j : Job} {code : BitVec 8} {e : Nat × FaultRec} (hj : s.job p n = some j) (hl : j.live = true)
    (he : (s.recordsOf j code.toNat).find? (fun e => s.reachOf p j e.2 == 2) = some e) :
    exec (.jobFault p n code) s = .next (s.jobFault p (some n) code.toNat e.2.unit (posOf (s.partClusters p) e.1)) := by
  have hlive : (s.liveJobs p).isEmpty = false := by
    have hmem : j ∈ s.liveJobs p := List.mem_filter.mpr ⟨job_mem hj, hl⟩
    cases h : s.liveJobs p
    · rw [h] at hmem
      cases hmem
    · rfl
  show execJobFault p n code s = _
  unfold execJobFault
  rw [if_neg (by simp [hm]), hlive, hj]
  dsimp only
  rw [he, hl]
  rfl

end

/-- Settles O13: each command's check is met, and its change is of the job, its clusters and its partition alone. -/
theorem jobsGiveUpTheirSharesAndSlicesAreCounted : Obligations.JobsGiveUpTheirSharesAndSlicesAreCounted := by
  unfold Obligations.JobsGiveUpTheirSharesAndSlicesAreCounted
  refine ⟨fun p n s j hj => ⟨fun hr hm hq => ?_, fun hr hc hn hk => ?_, fun hr => ?_, fun hr hm hc => ⟨fun hb hnodup => ?_, fun l hb => ?_⟩⟩,
    fun p s hm => ⟨fun hd => ?_, fun hl hd n => ?_, fun n j code e hj hl he => ?_⟩⟩
  · have frame : Only [.clusters, .parts] s (((s.lcTurn p).modClusters j.clusters (asked s.time.now)).modJob p n
        (fun k => { k with state := .stopping })) :=
      only_modJob (within_sub (by decide) (within_refl _)) p n _ (only_modClusters (within_sub (by decide) (within_refl _)) _ _
        (only_lcTurn (within_sub (by decide) (within_refl _)) p (only_refl _ s)))
    refine completes_next (exec_preemptRequest hj hr hm hq) ⟨fun c hc => ?_, fun c hc => ?_, ?_, fun k hk => ?_,
      frame.same .mem (by simp), frame.same .engines (by simp), frame.same .regs (by simp)⟩
    · exact (modClusters_cluster_same (asked_asked _) hc).trans (congrArg _ (lcTurn_cluster c))
    · exact (modClusters_cluster_ne hc).trans (lcTurn_cluster c)
    · refine job_modJob (g := fun k => { k with state := .stopping }) ((job_congr ?_ n).trans hj) fun _ => rfl
      rw [modClusters_part, lcTurn_jobs]
    · rw [modJob_part_ne _ hk, modClusters_part, lcTurn_part_ne hk]
  · refine completes_next (exec_jobSave hj hr hc hn hk) ⟨⟨rfl, fun k hk => modJob_part_ne _ hk⟩, _, job_modJob hj fun _ => rfl, rfl, ?_, ?_⟩
    · simp [Function.comp_def]
    · intro a ha
      obtain ⟨c, -, rfl⟩ := List.mem_map.mp ha
      exact ⟨rfl, rfl, rfl, rfl⟩
  · have area : Only [.mem] s (s.writeArea p j.slot) := only_writeArea (within_refl _) p j.slot (only_refl _ s)
    have frame : Only [.mem, .clusters, .parts] s (((s.writeArea p j.slot).modClusters j.clusters Cluster.release).modJob p n
        (fun k => { k with state := .saved })) :=
      only_modJob (within_sub (by decide) (within_refl _)) p n _ (only_modClusters (within_sub (by decide) (within_refl _)) _ _
        (only_widen (by decide) area))
    have cluster (c : Nat) : (s.writeArea p j.slot).cluster c = s.cluster c :=
      congrArg (fun m => Tab.get (fun _ => Cluster.reset) m c) (area.same .clusters (by simp))
    have part : (s.writeArea p j.slot).part p = s.part p :=
      congrArg (fun m => Tab.get (fun _ => Part.reset) m p) (area.same .parts (by simp))
    refine completes_next (exec_jobSaveComplete hj hr) ⟨?_, fun c hc => ?_, fun c hc => ?_, fun l hl => ?_,
      frame.same .engines (by simp), frame.same .regs (by simp)⟩
    · refine job_modJob (g := fun k => { k with state := .saved }) ((job_congr ?_ n).trans hj) fun _ => rfl
      rw [modClusters_part, part]
    · have h := (modClusters_cluster_same (s := s.writeArea p j.slot) (f := Cluster.release) (fun _ => rfl) hc).trans
        (congrArg Cluster.release (cluster c))
      exact ⟨(congrArg Cluster.job h :), (congrArg Cluster.running h :)⟩
    · exact (modClusters_cluster_ne hc).trans (cluster c)
    · refine Eq.trans ?_ (stored_writeArea hl)
      have mem := (only_modClusters (within_refl _) j.clusters Cluster.release (only_refl _ (s.writeArea p j.slot))).same .mem (by simp)
      exact congrArg (fun m => Tab.getList blankByte m (72 * l) 72) mem
  · have frame : Only [.clusters, .parts] s ((restored (s.lcTurn p) p n j.area).modJob p n (fun k => { k with state := .running })) :=
      only_modJob (within_sub (by decide) (within_refl _)) p n _ (only_trans
        (only_lcTurn (within_sub (by decide) (within_refl _)) p (only_refl _ s)) (only_widen (by decide) (only_restored j.area)))
    have part : (restored (s.lcTurn p) p n j.area).part p = (s.lcTurn p).part p :=
      congrArg (fun m => Tab.get (fun _ => Part.reset) m p) ((only_restored j.area).same .parts (by simp))
    refine completes_next (exec_jobRestore hj hr hm hc hb) ⟨?_, fun a ha => ?_, fun c hc => ?_, frame.same .mem (by simp),
      frame.same .engines (by simp), frame.same .regs (by simp)⟩
    · refine job_modJob (g := fun k => { k with state := .running }) ((job_congr ?_ n).trans hj) fun _ => rfl
      rw [part, lcTurn_jobs]
    · have h : ((restored (s.lcTurn p) p n j.area).modJob p n (fun k => { k with state := .running })).cluster a.cluster = _ :=
        restored_cluster_mem hnodup ha
      rw [h]
      exact ⟨rfl, rfl, rfl, rfl, rfl, rfl⟩
    · exact (restored_cluster_ne hc).trans (lcTurn_cluster c)
  · exact completes_next (exec_jobRestore_bad hj hr hm hc hb) rfl
  · have frame : Only [.parts] s ((if boundaryHeld s p then s.modPart p (fun x => { x with sliceDue := true }) else s.boundary p).modPart p
        (fun x => { x with sliceAt := BitVec.ofNat 64 ((s.part p).sliceAt.toNat + 100000 * (s.part p).slice),
                           slice := fld (s.partCfg p) 29 20 })) := by
      refine only_modPart (within_refl _) p _ ?_
      split
      · exact only_modPart (within_refl _) p _ (only_refl _ s)
      · exact only_boundary (within_refl _) p (only_refl _ s)
    refine completes_next (exec_timeSliceBoundary hm hd) ⟨by rw [modPart_part_same], by rw [modPart_part_same], fun j hj hr hs => ?_,
      fun hs => ?_, fun k hk => ?_, frame.same .clusters (by simp), frame.same .mem (by simp), frame.same .regs (by simp)⟩
    · have held : boundaryHeld s p = true := by simp [boundaryHeld, hj, hr, hs]
      rw [held, modPart_part_same]
      simp
    · have held : boundaryHeld s p = false := by simp [boundaryHeld, hs]
      rw [held, modPart_part_same]
      exact boundary_turn
    · rw [modPart_part_ne _ _ _ _ hk]
      split
      · exact modPart_part_ne _ _ _ _ hk
      · exact boundary_part_ne hk
  · exact completes_next (exec_jobFault_idle hm hl hd n) (jobFault_counts s p none 0 0 0)
  · exact completes_next (exec_jobFault_record hm hj hl he) (jobFault_counts s p (some n) _ _ _)

end Sys2Proof.Proofs
end

section
/-! PROOF of a RELEASE that sieves (05 R144; 14 R360) -/

namespace Sys2Proof.Proofs
open Sys2Proof Sys2Proof.Machine Sys2Proof.Laws

/-! ### A RELEASE that lets a waiting sieve run (05 R144; 14 R360, R371) -/

/-- A ready region of partition 0 in stack 0: 2,048 rows of channel group 0 from row 0 on. -/
def sievedRegion : Region := { w0 := BitVec.ofNat 64 (1 + 2 * 2 ^ 1 + 2 ^ 38), w1 := BitVec.ofNat 64 (2 ^ 4) }

/-- A module whose firmware is up, with region 1 waiting to be sieved, no line in repair, and one byte of line 0 that fails. -/
def sievingState : State :=
  { State.reset with
    module := { State.reset.module with electrical := .running, stage := 4 }, mem := [(0, 1#8)],
    memory := { State.reset.memory with regions := [(0, sievedRegion), (1, sievedRegion)], resieve := [1] } }

/-- Whether an outcome's memory is another one. -/
def writesMemory (d : Mem) : Host.Outcome State Fault Refusal → Bool
  | .next t => t.mem != d
  | _ => false

/-- The sieve of region 1 finds the line bad and writes the poison code. -/
theorem release_writes_memory : writesMemory sievingState.mem (exec (.regionRelease 0 0) sievingState) = true := by decide +kernel

/-- Refutes O14: a RELEASE that empties the repair queue sieves the regions that waited, and the sieve writes a failing line. -/
theorem not_regionCommandsRunFromCheckToEffect : ¬ Obligations.RegionCommandsRunFromCheckToEffect := by
  unfold Obligations.RegionCommandsRunFromCheckToEffect
  rintro ⟨hbegin, -⟩
  obtain ⟨-, hrelease, -⟩ := hbegin 0 0 sievingState rfl rfl (by decide)
  obtain ⟨t, ht, -, -, -, -, -, -, hmem, -⟩ := hrelease.1 (by decide +kernel)
  have writes := release_writes_memory
  rw [ht] at writes
  simp [writesMemory, hmem] at writes

end Sys2Proof.Proofs
end

section
/-! PROOF of packets that act on engines (05 R149 to R151; 06 R164 to R168) -/

namespace Sys2Proof.Proofs
open Sys2Proof Sys2Proof.Machine Sys2Proof.Laws

/-! ### Folds over the engines that a packet addresses -/

section

variable {β : Type} {f : State → Nat → State} {v : State → β}

theorem foldl_others {l : List Nat} (others : ∀ k ∈ l, ∀ t, v (f t k) = v t) (s : State) : v (l.foldl f s) = v s := by
  induction l generalizing s with
  | nil => rfl
  | cons a l ih =>
    rw [List.foldl_cons, ih fun k hk => others k (List.mem_cons_of_mem _ hk), others a List.mem_cons_self]

/-- After a fold whose other steps leave a view alone, the view is what the element's own step makes of it. -/
theorem foldl_once {l : List Nat} {e : Nat} (hn : l.Nodup) (he : e ∈ l) (others : ∀ k ∈ l, k ≠ e → ∀ t, v (f t k) = v t) (s : State) :
    ∃ m : List Nat, v (l.foldl f s) = v (f (m.foldl f s) e) ∧ v (m.foldl f s) = v s := by
  obtain ⟨m, n, rfl⟩ := List.append_of_mem he
  have hm : ∀ k ∈ m, k ≠ e := fun k hk h => (List.nodup_append.mp hn).2.2 k hk e List.mem_cons_self h
  have hen : e ∉ n := (List.nodup_cons.mp (List.nodup_append.mp hn).2.1).1
  refine ⟨m, ?_, foldl_others (fun k hk => others k (List.mem_append_left _ hk) (hm k hk)) s⟩
  rw [List.foldl_append, List.foldl_cons]
  exact foldl_others (fun k hk => others k (List.mem_append_right _ (List.mem_cons_of_mem _ hk)) fun h => hen (h ▸ hk)) _

end

/-! ### The engines that a packet addresses (05 R133, R149) -/

theorem channel_lt {pk : Packet} {c : Nat} (h : c ∈ pk.channels) : c < 32 := by
  unfold Packet.channels setBits at h
  exact List.mem_range.mp (List.mem_filter.mp h).1

theorem channels_nodup (pk : Packet) : pk.channels.Nodup := List.nodup_range.filter _

theorem packet_pc_lt (pk : Packet) : pk.pc < 2 := fld_lt _ 16 16

theorem packet_bg_lt (pk : Packet) : pk.bg < 4 := fld_lt _ 18 17

section

variable {st : Nat} {pk : Packet}

theorem engineOf_stack {c : Nat} (hc : c ∈ pk.channels) : engineOf st c pk.pc pk.bg / 256 = st := by
  have h1 := channel_lt hc
  have h2 := packet_pc_lt pk
  have h3 := packet_bg_lt pk
  unfold engineOf
  omega

theorem engineOf_pc {c : Nat} (hc : c ∈ pk.channels) : pcOfEngine (engineOf st c pk.pc pk.bg) = 2 * c + pk.pc := by
  have h1 := channel_lt hc
  have h2 := packet_pc_lt pk
  have h3 := packet_bg_lt pk
  unfold engineOf pcOfEngine
  omega

theorem mem_engines {e : Nat} (h : e ∈ pk.engines st) : ∃ c ∈ pk.channels, e = engineOf st c pk.pc pk.bg := by
  obtain ⟨c, hc, rfl⟩ := List.mem_map.mp h
  exact ⟨c, hc, rfl⟩

theorem engineOf_mem {c : Nat} (hc : c ∈ pk.channels) : engineOf st c pk.pc pk.bg ∈ pk.engines st := List.mem_map.mpr ⟨c, hc, rfl⟩

theorem engines_nodup : (pk.engines st).Nodup := by
  refine (List.nodup_map_iff_inj_on (channels_nodup pk)).mpr fun a ha b hb h => ?_
  have h1 := engineOf_pc (st := st) ha
  have h2 := engineOf_pc (st := st) hb
  rw [h, h2] at h1
  omega

theorem engines_stack {e : Nat} (h : e ∈ pk.engines st) : e / 256 = st := by
  obtain ⟨c, hc, rfl⟩ := mem_engines h
  exact engineOf_stack hc

/-- Two engines of a packet wait in different start queues. -/
theorem engines_pc_ne {e k : Nat} (h : e ∈ pk.engines st) (hk : k ∈ pk.engines st) (hne : k ≠ e) : pcOfEngine k ≠ pcOfEngine e := by
  obtain ⟨c, hc, rfl⟩ := mem_engines h
  obtain ⟨d, hd, rfl⟩ := mem_engines hk
  rw [engineOf_pc hc, engineOf_pc hd]
  exact fun h => hne (by rw [show d = c by omega])

end

/-! ### Engines, start queues and debts -/

section

variable {s : State}

theorem engine_of_engines {t : State} (h : t.engines = s.engines) (e : Nat) : t.engine e = s.engine e := congrArg (fun m => Tab.get (fun _ => Engine.reset) m e) h

theorem startQ_of_stackTab {t : State} (h : t.stackTab = s.stackTab) (st k : Nat) : t.startQ st k = s.startQ st k :=
  congrArg (fun m => Tab.get (fun _ => []) (Tab.get (fun _ => Stack.reset) m st).starts k) h

theorem libEntry_congr {t : State} (h : t.sec = s.sec) (n : Nat) : t.libEntry n = s.libEntry n := by
  unfold State.libEntry
  rw [h]

theorem addressesOk_congr {t : State} (h : t.memory = s.memory) (src : PacketSource) (st : Nat) (le : W64 × W64) (c : Tab W64) :
    t.addressesOk src st le c = s.addressesOk src st le c := by
  unfold State.addressesOk State.rangeOk State.computeLine State.regionOf State.region
  rw [h]

@[simp] theorem setStartQ_engine (st k e : Nat) (q : List Nat) : (s.setStartQ st k q).engine e = s.engine e := rfl

@[simp] theorem setStartQ_startQ_same (st k : Nat) (q : List Nat) : (s.setStartQ st k q).startQ st k = q := by
  simp [State.setStartQ, State.startQ]

theorem setStartQ_startQ_ne {st k st' k' : Nat} (q : List Nat) (h : st' ≠ st ∨ k' ≠ k) :
    (s.setStartQ st k q).startQ st' k' = s.startQ st' k' := by
  unfold State.setStartQ State.startQ
  by_cases hs : st' = st
  · subst hs
    rw [modStack_stack_same]
    exact tab_get_set_ne _ _ _ _ _ (by simpa using h)
  · rw [modStack_stack_ne _ _ _ _ hs]

@[simp] theorem modEngine_startQ (e st k : Nat) (f : Engine → Engine) : (s.modEngine e f).startQ st k = s.startQ st k := rfl

@[simp] theorem enqueueStart_engine (e k : Nat) (head : Bool) : (s.enqueueStart e head).engine k = s.engine k := rfl

theorem enqueueStart_startQ_same (e : Nat) :
    (s.enqueueStart e false).startQ (e / 256) (pcOfEngine e) = s.startQ (e / 256) (pcOfEngine e) ++ [e] :=
  setStartQ_startQ_same _ _ _

theorem enqueueStart_startQ_ne {e k : Nat} (head : Bool) (h : pcOfEngine k ≠ pcOfEngine e) :
    (s.enqueueStart k head).startQ (e / 256) (pcOfEngine e) = s.startQ (e / 256) (pcOfEngine e) :=
  setStartQ_startQ_ne _ (.inr (Ne.symm h))

theorem setDebt_debtOf (b n k : Nat) : (s.setDebt b n).debtOf k = if k = b then n else s.debtOf k := by
  unfold State.setDebt State.debtOf
  by_cases hs : k / 1024 = b / 1024
  · rw [hs, modStack_stack_same, tab_get_set]
    by_cases hk : k = b
    · rw [if_pos (by rw [hk]), if_pos hk]
    · rw [if_neg (by omega), if_neg hk]
  · rw [modStack_stack_ne _ _ _ _ hs, if_neg (fun h => hs (by rw [h]))]

theorem payDebt_debtOf (e b : Nat) : (s.payDebt e).debtOf b = if b / 4 = e then 0 else s.debtOf b := by
  show ((([0, 1, 2, 3] : List Nat).foldl (fun t k => t.setDebt (4 * e + k) 0) s)).debtOf b = _
  simp only [List.foldl, setDebt_debtOf]
  split_ifs <;> first | rfl | omega

@[simp] theorem setDebt_startQ (b n st k : Nat) : (s.setDebt b n).startQ st k = s.startQ st k := by
  unfold State.setDebt State.startQ
  by_cases hs : st = b / 1024
  · rw [hs, modStack_stack_same]
  · rw [modStack_stack_ne _ _ _ _ hs]

@[simp] theorem payDebt_startQ (e st k : Nat) : (s.payDebt e).startQ st k = s.startQ st k := by
  unfold State.payDebt
  exact foldl_keeps (fun u => u.startQ st k) _ (fun u a => setDebt_startQ (s := u) _ _ _ _) _ s

@[simp] theorem payDebt_engine (e k : Nat) : (s.payDebt e).engine k = s.engine k :=
  foldl_keeps (fun u : State => u.engine k) (fun u a => u.setDebt (4 * e + a) 0) (fun _ _ => rfl) (List.range 4) s

@[simp] theorem setStartQ_debtOf (st k b : Nat) (q : List Nat) : (s.setStartQ st k q).debtOf b = s.debtOf b := by
  unfold State.setStartQ State.debtOf
  by_cases hs : b / 1024 = st
  · rw [hs, modStack_stack_same]
  · rw [modStack_stack_ne _ _ _ _ hs]

@[simp] theorem unqueue_debtOf (e b : Nat) : (s.unqueue e).debtOf b = s.debtOf b := setStartQ_debtOf _ _ _ _

@[simp] theorem modEngine_debtOf (e b : Nat) (f : Engine → Engine) : (s.modEngine e f).debtOf b = s.debtOf b := rfl

end

/-! ### Answers (05 R151) -/

section

variable {s : State} (st : Nat) (src : PacketSource) (tag code : Nat) (ws : List W64)

@[simp] theorem answerPacket_engines : (s.answerPacket st src tag code ws).engines = s.engines := rfl
@[simp] theorem answerPacket_stackTab : (s.answerPacket st src tag code ws).stackTab = s.stackTab := rfl
@[simp] theorem answerPacket_quarters : (s.answerPacket st src tag code ws).quarters = s.quarters := rfl
@[simp] theorem answerPacket_clusters : (s.answerPacket st src tag code ws).clusters = s.clusters := rfl
@[simp] theorem answerPacket_mem : (s.answerPacket st src tag code ws).mem = s.mem := rfl
@[simp] theorem answerPacket_regs : (s.answerPacket st src tag code ws).regs = s.regs := rfl
@[simp] theorem answerPacket_parts : (s.answerPacket st src tag code ws).parts = s.parts := rfl
@[simp] theorem answerPacket_engine (e : Nat) : (s.answerPacket st src tag code ws).engine e = s.engine e := rfl
@[simp] theorem answerPacket_startQ (n k : Nat) : (s.answerPacket st src tag code ws).startQ n k = s.startQ n k := rfl
@[simp] theorem answerPacket_debtOf (b : Nat) : (s.answerPacket st src tag code ws).debtOf b = s.debtOf b := rfl

theorem answerPacket_out : (s.answerPacket st src tag code ws).out = s.out ++ [.status st src tag code ws] := rfl

theorem answerPacket_line : ((s.answerPacket st src tag code ws).icLine st).pending = true := by
  simp [State.answerPacket, State.latch]

/-- What a refused packet does: it answers its code. -/
def Refuses (i : Instr) (s : State) (st : Nat) (src : PacketSource) (tag code : Nat) : Prop :=
  Completes i s (fun t => t.engines = s.engines ∧ t.stackTab = s.stackTab ∧ t.mem = s.mem ∧ t.regs = s.regs ∧
    t.out = s.out ++ [.status st src tag code []] ∧ (t.icLine st).pending = true)

theorem refuses_answer {i : Instr} (h : exec i s = .next (s.answerPacket st src tag code [])) : Refuses i s st src tag code :=
  completes_next h ⟨rfl, rfl, rfl, rfl, rfl, answerPacket_line st src tag code []⟩

end

/-! ### Packets by type and form -/

section

variable {s : State} {st : Nat} {src : PacketSource} {pk : Packet} {typ : Nat} {hold : Bool} {f : State → State}

theorem packet_reserved (h : packetTypes.contains pk.typ = false) :
    s.packet st src pk typ hold f = s.answerPacket st src pk.tag 1 [] := by
  unfold State.packet
  rw [h]
  rfl

theorem packet_acts (ht : pk.typ = typ) (hp : packetTypes.contains typ = true) (hh : (hold && s.holdsPackets st pk) = false) :
    s.packet st src pk typ hold f = f s := by
  unfold State.packet
  rw [ht, hp, hh]
  simp

theorem packet_held (ht : pk.typ = typ) (hp : packetTypes.contains typ = true) (hh : s.holdsPackets st pk = true) :
    s.packet st src pk typ true f = s.modStack st (fun x => { x with heldPackets := x.heldPackets ++ [(src, pk)] }) := by
  unfold State.packet
  rw [ht, hp, hh]
  simp

/-- The form of a packet that writes registers (R149, R151 code 0x01). -/
theorem formOk_registers (h : pk.formOk 0 16 = true ∧ pk.firstReg + pk.count ≤ 16) :
    (!pk.formOk 0 16 || decide (16 < pk.firstReg + pk.count)) = false := by
  obtain ⟨h1, h2⟩ := h
  simp [h1, h2]

theorem not_formOk_registers (h : ¬ (pk.formOk 0 16 = true ∧ pk.firstReg + pk.count ≤ 16)) :
    (!pk.formOk 0 16 || decide (16 < pk.firstReg + pk.count)) = true := by
  by_cases h1 : pk.formOk 0 16 = true
  · simp only [h1, true_and, Nat.not_le] at h
    simp [h1, h]
  · simp [h1]

end

/-! ### WRITE_CR -/

section

variable {s : State} {st : StackId} {src : PacketSource} {pk : Packet}

/-- The step of a WRITE_CR on one engine. -/
def registersWritten (pk : Packet) (t : State) (e : Nat) : State :=
  t.modEngine e (fun x => { x with c := writeRegs x.c pk.firstReg pk.payload })

theorem registersWritten_engine_ne {t : State} {e k : Nat} (h : k ≠ e) : (registersWritten pk t k).engine e = t.engine e :=
  modEngine_engine_ne _ _ _ _ (Ne.symm h)

variable (ht : pk.typ = 1) (hh : s.holdsPackets st pk = false)

include ht hh

theorem exec_writeCr : exec (.writeCr st src pk) s = .next (s.doWriteCr st src pk) :=
  congrArg Host.Outcome.next (packet_acts ht (by decide) (by simpa using hh))

theorem writeCr_form (h : ¬ (pk.formOk 0 16 = true ∧ pk.firstReg + pk.count ≤ 16)) : Refuses (.writeCr st src pk) s st src pk.tag 1 := by
  refine refuses_answer st src pk.tag 1 ((exec_writeCr ht hh).trans ?_)
  unfold State.doWriteCr
  rw [not_formOk_registers h, if_pos rfl]

theorem writeCr_foreign (h : pk.formOk 0 16 = true ∧ pk.firstReg + pk.count ≤ 16) (hf : s.foreign st src pk = true) :
    Refuses (.writeCr st src pk) s st src pk.tag 2 := by
  refine refuses_answer st src pk.tag 2 ((exec_writeCr ht hh).trans ?_)
  unfold State.doWriteCr
  rw [formOk_registers h, hf, if_neg (by simp), if_pos rfl]

theorem writeCr_busy (h : pk.formOk 0 16 = true ∧ pk.firstReg + pk.count ≤ 16) (hf : s.foreign st src pk = false)
    (hb : (pk.engines st).any (fun e => (s.engine e).busy) = true) : Refuses (.writeCr st src pk) s st src pk.tag 5 := by
  refine refuses_answer st src pk.tag 5 ((exec_writeCr ht hh).trans ?_)
  unfold State.doWriteCr
  rw [formOk_registers h, hf, hb, if_neg (by simp), if_neg (by simp), if_pos rfl]

theorem exec_writeCr_accepted (h : pk.formOk 0 16 = true ∧ pk.firstReg + pk.count ≤ 16) (hf : s.foreign st src pk = false)
    (hb : (pk.engines st).any (fun e => (s.engine e).busy) = false) :
    exec (.writeCr st src pk) s = .next (((pk.engines st).foldl (registersWritten pk) s).answerPacket st src pk.tag 0 []) := by
  refine (exec_writeCr ht hh).trans ?_
  unfold State.doWriteCr
  rw [formOk_registers h, hf, hb, if_neg (by simp), if_neg (by simp), if_neg (by simp)]
  rfl

end

theorem any_eq_false_of {α : Type} {l : List α} {p : α → Bool} (h : ∀ a ∈ l, p a = false) : l.any p = false :=
  List.any_eq_false.mpr fun a ha => by simp [h a ha]

/-! ### START -/

section

variable {s : State} {st : StackId} {src : PacketSource} {pk : Packet}

theorem received_only (st : Nat) : Only [.parts] s (s.received st src) := only_received (within_refl _) st src (only_refl _ s)

theorem received_holdsGroup (st p g : Nat) : (s.received st src).holdsGroup p g = s.holdsGroup p g := by
  have view : partsView (fun x => (x.mode, x.applied)) (s.received st src) = partsView (fun x => (x.mode, x.applied)) s := by
    unfold State.received
    cases src with
    | firmware => rfl
    | partition q =>
      dsimp only
      split
      · rfl
      · exact view_modRound _ _ (fun _ _ => rfl) _
  have mode : ((s.received st src).part p).mode = (s.part p).mode := congrArg Prod.fst (view_at view p)
  have applied : ((s.received st src).part p).applied = (s.part p).applied := congrArg Prod.snd (view_at view p)
  unfold State.holdsGroup State.holds
  rw [mode, applied]

theorem received_startRefusal (st n : Nat) : (s.received st src).startRefusal n src pk = s.startRefusal n src pk := by
  have foreign : (s.received st src).foreign n src pk = s.foreign n src pk := by
    unfold State.foreign
    cases src with
    | firmware => rfl
    | partition p => simp only [received_holdsGroup]
  obtain ⟨ps, h⟩ : ∃ ps, s.received st src = { s with parts := ps } := by
    unfold State.received
    cases src with
    | firmware => exact ⟨_, rfl⟩
    | partition p =>
      dsimp only
      split
      · exact ⟨_, rfl⟩
      · exact ⟨_, rfl⟩
  unfold State.startRefusal
  rw [foreign, h]
  rfl

/-- The step of a START on one engine. -/
def started (src : PacketSource) (pk : Packet) (pre : Bool) (t : State) (e : Nat) : State :=
  (t.modEngine e (fun x =>
    { x with
      mode := .queued, fault := 0, index := pk.index, tag := pk.tag, src := src, permit := false, resume := false,
      preloaded := pre, pendSuspend := false, failing := none, drain := .none, rest := false, streams := [], units := [],
      c := writeRegs x.c pk.firstReg pk.payload })).enqueueStart e false

theorem started_engine_ne {pre : Bool} {t : State} {e k : Nat} (h : k ≠ e) : (started src pk pre t k).engine e = t.engine e :=
  (enqueueStart_engine _ _ _).trans <| modEngine_engine_ne _ _ _ _ (Ne.symm h)

theorem started_startQ_ne {pre : Bool} {t : State} {e k : Nat} (h : pcOfEngine k ≠ pcOfEngine e) :
    (started src pk pre t k).startQ (e / 256) (pcOfEngine e) = t.startQ (e / 256) (pcOfEngine e) :=
  enqueueStart_startQ_ne _ h

theorem only_started (pre : Bool) {L : List Fld} {s₀ : State} (hL : Within [.stackTab, .engines] L) (t : State) (e : Nat) (h : Only L s₀ t) :
    Only L s₀ (started src pk pre t e) :=
  only_enqueueStart (within_sub (by decide) hL) _ _ (only_modEngine (within_sub (by decide) hL) _ _ h)

variable (ht : pk.typ = 2) (hh : s.holdsPackets st pk = false)

include ht hh

theorem exec_start : exec (.start st src pk) s = .next (s.doStart st src pk) :=
  congrArg Host.Outcome.next (packet_acts ht (by decide) (by simpa using hh))

theorem exec_start_accepted (h : s.startRefusal st src pk = none) :
    ∃ pre, exec (.start st src pk) s =
      .next (((pk.engines st).foldl (started src pk pre) (s.received st src)).answerPacket st src pk.tag 0 []) := by
  rw [exec_start ht hh]
  unfold State.doStart
  dsimp only
  rw [received_startRefusal, h]
  exact ⟨_, rfl⟩

theorem start_refused {code : Nat} (h : s.startRefusal st src pk = some code) : Refuses (.start st src pk) s st src pk.tag code := by
  have received := received_only (s := s) (src := src) st
  refine completes_next (t := (s.received st src).answerPacket st src pk.tag code []) ((exec_start ht hh).trans ?_)
    ⟨received.same .engines (by simp), received.same .stackTab (by simp), received.same .mem (by simp), received.same .regs (by simp),
      ?_, answerPacket_line st src pk.tag code []⟩
  · unfold State.doStart
    dsimp only
    rw [received_startRefusal, h]
  · rw [answerPacket_out, show (s.received st src).out = s.out from received.same .out (by simp)]

end

section

variable {s : State} {st : StackId} {src : PacketSource} {pk : Packet} (hh : s.holdsPackets st pk = true)

include hh

theorem exec_writeCr_held (ht : pk.typ = 1) : exec (.writeCr st src pk) s =
    .next (s.modStack st (fun x => { x with heldPackets := x.heldPackets ++ [(src, pk)] })) :=
  congrArg Host.Outcome.next (packet_held ht (by decide) hh)

theorem exec_start_held (ht : pk.typ = 2) : exec (.start st src pk) s =
    .next (s.modStack st (fun x => { x with heldPackets := x.heldPackets ++ [(src, pk)] })) :=
  congrArg Host.Outcome.next (packet_held ht (by decide) hh)

end

/-! ### SUSPEND, RESUME, ABORT, STATUS -/

section

variable {s : State} {st : Nat} {src : PacketSource} {pk : Packet} {more : Option Nat} {f : State → Nat → State} {words : State → List W64}

theorem plainPacket_form (h : pk.formOk 0 0 = false) : s.plainPacket st src pk more f words = s.answerPacket st src pk.tag 1 [] := by
  unfold State.plainPacket
  rw [h]
  rfl

theorem plainPacket_foreign (h : pk.formOk 0 0 = true) (hf : s.foreign st src pk = true) :
    s.plainPacket st src pk more f words = s.answerPacket st src pk.tag 2 [] := by
  unfold State.plainPacket
  rw [h, hf]
  rfl

theorem plainPacket_refused {code : Nat} (h : pk.formOk 0 0 = true) (hf : s.foreign st src pk = false) (hm : more = some code) :
    s.plainPacket st src pk more f words = s.answerPacket st src pk.tag code [] := by
  unfold State.plainPacket
  rw [h, hf, hm]
  rfl

theorem plainPacket_acts (h : pk.formOk 0 0 = true) (hf : s.foreign st src pk = false) (hm : more = none) :
    s.plainPacket st src pk more f words = ((pk.engines st).foldl f s).answerPacket st src pk.tag 0 (words s) := by
  unfold State.plainPacket
  rw [h, hf, hm]
  rfl

end

/-- The form check of RESUME alone (06 R164: eight places in a start queue). -/
def resumeRoom (s : State) (st : Nat) (pk : Packet) : Option Nat :=
  if pk.channels.any (fun c =>
      decide ((s.engine (engineOf st c pk.pc pk.bg)).mode = .suspended) && decide (8 ≤ (s.startQ st (2 * c + pk.pc)).length)) then some 7
  else none

/-- The four packets that carry no payload, each with its own check, its act on an engine, and what it answers. -/
structure PlainPacket where
  typ : Nat
  instr : Instr
  more : Option Nat
  act : State → Nat → State
  words : State → List W64

def plainPackets (s : State) (st : StackId) (src : PacketSource) (pk : Packet) : List PlainPacket :=
  [⟨3, .suspend st src pk, none, State.suspendOne, fun _ => []⟩,
   ⟨4, .resume st src pk, resumeRoom s st pk, State.resumeOne src, fun _ => []⟩,
   ⟨5, .abort st src pk, none, State.abortOne, fun _ => []⟩,
   ⟨6, .status st src pk, none, fun t _ => t, fun t => (pk.engines st).map (fun e => (t.engine e).word)⟩]

section

variable {s : State} {st : StackId} {src : PacketSource} {pk : Packet} {x : PlainPacket}

theorem exec_plainPacket (hx : x ∈ plainPackets s st src pk) (ht : pk.typ = x.typ) :
    exec x.instr s = .next (s.plainPacket st src pk x.more x.act x.words) := by
  simp only [plainPackets, List.mem_cons, List.not_mem_nil, or_false] at hx
  rcases hx with rfl | rfl | rfl | rfl <;> exact congrArg Host.Outcome.next (packet_acts ht (by decide) rfl)

theorem mem_plainPackets {y : Nat × Instr}
    (hy : y ∈ ([(3, .suspend st src pk), (4, .resume st src pk), (5, .abort st src pk), (6, .status st src pk)] : List (Nat × Instr))) :
    ∃ x ∈ plainPackets s st src pk, x.typ = y.1 ∧ x.instr = y.2 := by
  simp only [List.mem_cons, List.not_mem_nil, or_false] at hy
  rcases hy with rfl | rfl | rfl | rfl <;> simp [plainPackets]

/-- Each packet's act on one engine leaves the other engines of its packet and everything but engines and stacks alone. -/
theorem only_act (hx : x ∈ plainPackets s st src pk) {L : List Fld} {s₀ : State} (hL : Within [.stackTab, .engines] L) (t : State) (e : Nat)
    (h : Only L s₀ t) : Only L s₀ (x.act t e) := by
  simp only [plainPackets, List.mem_cons, List.not_mem_nil, or_false] at hx
  rcases hx with rfl | rfl | rfl | rfl
  · exact only_suspendOne (within_sub (by decide) hL) e h
  · exact only_resumeOne hL src e h
  · exact only_abortOne hL e h
  · exact h

end

section

variable {t : State} {e k : Nat}

theorem suspendOne_engine_ne (h : k ≠ e) : (t.suspendOne k).engine e = t.engine e := modEngine_engine_ne _ _ _ _ (Ne.symm h)

theorem engineFail_engine_ne (h : k ≠ e) (code : Nat) (line : Option Nat) : (t.engineFail k code line).engine e = t.engine e :=
  modEngine_engine_ne _ _ _ _ (Ne.symm h)

theorem resumeOne_engine_ne (src : PacketSource) (h : k ≠ e) : (State.resumeOne src t k).engine e = t.engine e := by
  unfold State.resumeOne
  dsimp only
  split
  · split
    · exact engineFail_engine_ne h _ _
    · split
      · exact (enqueueStart_engine _ _ _).trans (modEngine_engine_ne _ _ _ _ (Ne.symm h))
      · exact engineFail_engine_ne h _ _
  · rfl

theorem resumeOne_startQ_ne (src : PacketSource) (h : pcOfEngine k ≠ pcOfEngine e) :
    (State.resumeOne src t k).startQ (e / 256) (pcOfEngine e) = t.startQ (e / 256) (pcOfEngine e) := by
  unfold State.resumeOne
  dsimp only
  split
  · split
    · rfl
    · split
      · exact enqueueStart_startQ_ne _ h
      · rfl
  · rfl

/-- An engine that is not suspended, or that is failing, is not resumed. -/
theorem resumeOne_stands (src : PacketSource) (h : (t.engine e).mode ≠ .suspended ∨ (t.engine e).failing ≠ none) : State.resumeOne src t e = t := by
  unfold State.resumeOne
  dsimp only
  rw [if_neg]
  rintro ⟨h1, h2⟩
  exact h.elim (fun h => h h1) (fun h => h h2)

theorem resumeOne_queued (src : PacketSource) (h : (t.engine e).mode = .suspended) (hf : (t.engine e).failing = none) {le : W64 × W64}
    (hl : t.libEntry (t.engine e).index = some le) (ha : t.addressesOk src (e / 256) le (t.engine e).c = true) :
    State.resumeOne src t e =
      (t.modEngine e (fun y => { y with mode := .queued, resume := true, preloaded := true })).enqueueStart e false := by
  unfold State.resumeOne
  dsimp only
  rw [if_pos ⟨h, hf⟩, hl]
  dsimp only
  rw [if_pos ha]

theorem resumeOne_fails (src : PacketSource) (h : (t.engine e).mode = .suspended) (hf : (t.engine e).failing = none)
    (ha : ∀ le, t.libEntry (t.engine e).index = some le → t.addressesOk src (e / 256) le (t.engine e).c = false) :
    State.resumeOne src t e = t.engineFail e 2 none := by
  unfold State.resumeOne
  dsimp only
  rw [if_pos ⟨h, hf⟩]
  split
  · rfl
  · next le hl => rw [ha le hl, if_neg (by simp)]

theorem abortOne_idle (h : (t.engine e).busy = false) : t.abortOne e = t := by
  unfold State.abortOne
  dsimp only
  rw [h]
  rfl

theorem abortOne_engine : (t.abortOne e).engine e = if (t.engine e).busy = true then (t.engine e).toIdle else t.engine e := by
  unfold State.abortOne
  dsimp only
  split
  · split
    · rw [payDebt_engine, modEngine_engine_same]
      rfl
    · rw [modEngine_engine_same]
      rfl
  · rfl

theorem abortOne_startQ_ne (h : pcOfEngine k ≠ pcOfEngine e) :
    (t.abortOne k).startQ (e / 256) (pcOfEngine e) = t.startQ (e / 256) (pcOfEngine e) := by
  have hq : ((t.unqueue k).modEngine k Engine.toIdle).startQ (e / 256) (pcOfEngine e) = t.startQ (e / 256) (pcOfEngine e) :=
    setStartQ_startQ_ne _ (.inr (Ne.symm h))
  unfold State.abortOne
  dsimp only
  split
  · split
    · rw [payDebt_startQ, hq]
    · exact hq
  · rfl

theorem abortOne_startQ_same (h : (t.engine e).busy = true) : e ∉ (t.abortOne e).startQ (e / 256) (pcOfEngine e) := by
  have hq : ((t.unqueue e).modEngine e Engine.toIdle).startQ (e / 256) (pcOfEngine e) =
      (t.startQ (e / 256) (pcOfEngine e)).filter (· != e) := setStartQ_startQ_same _ _ _
  unfold State.abortOne
  dsimp only
  rw [if_pos h]
  split
  · rw [payDebt_startQ, hq]
    simp
  · rw [hq]
    simp

theorem abortOne_debt (h : (t.engine e).busy = true) (hd : (t.engine e).drain = .yielding) (b : Nat) :
    (t.abortOne e).debtOf b = if b / 4 = e then 0 else t.debtOf b := by
  unfold State.abortOne
  dsimp only
  rw [if_pos h, if_pos hd, payDebt_debtOf, modEngine_debtOf, unqueue_debtOf]

/-- An ABORT of another engine leaves a bank's debt as it was. -/
theorem abortOne_debt_ne {b : Nat} (h : b / 4 ≠ k) : (t.abortOne k).debtOf b = t.debtOf b := by
  unfold State.abortOne
  dsimp only
  split
  · split
    · rw [payDebt_debtOf, if_neg h, modEngine_debtOf, unqueue_debtOf]
    · rw [modEngine_debtOf, unqueue_debtOf]
  · rfl

end

section

variable {s : State} {st : StackId} {src : PacketSource} {pk : Packet} {x : PlainPacket}

/-- What an accepted packet without payload does: its act on each engine it addresses, and the answer. -/
theorem plainPacket_completes (hx : x ∈ plainPackets s st src pk) (ht : pk.typ = x.typ) (h : pk.formOk 0 0 = true)
    (hf : s.foreign st src pk = false) (hm : x.more = none) (others : ∀ t e k, k ≠ e → (x.act t k).engine e = t.engine e)
    {F : State → Nat → Prop} (here : ∀ e, e ∈ pk.engines st → F (((pk.engines st).foldl x.act s).answerPacket st src pk.tag 0 (x.words s)) e) :
    Completes x.instr s (fun t => (∀ e, e ∈ pk.engines st → F t e) ∧ (∀ e, e ∉ pk.engines st → t.engine e = s.engine e) ∧
      t.out = s.out ++ [.status st src pk.tag 0 (x.words s)] ∧ (t.icLine st).pending = true ∧ t.mem = s.mem ∧ t.regs = s.regs ∧
      t.parts = s.parts ∧ t.clusters = s.clusters) := by
  have frame : Only [.stackTab, .engines] s ((pk.engines st).foldl x.act s) :=
    only_foldl _ (only_refl _ s) fun t e ht => only_act hx (within_refl _) t e ht
  refine completes_next ((exec_plainPacket hx ht).trans (congrArg Host.Outcome.next (plainPacket_acts h hf hm)))
    ⟨here, fun e he => ?_, ?_, answerPacket_line .., frame.same .mem (by simp), frame.same .regs (by simp), frame.same .parts (by simp),
      frame.same .clusters (by simp)⟩
  · exact foldl_others (v := fun t => t.engine e) (fun k hk t => others t e k fun h => he (h ▸ hk)) s
  · rw [answerPacket_out, show ((pk.engines st).foldl x.act s).out = s.out from frame.same .out (by simp)]

end

/-- Settles O15: each packet's checks in turn, then its act on the engines it addresses, one after the other. -/
theorem packetsActOnEngines : Obligations.PacketsActOnEngines := by
  unfold Obligations.PacketsActOnEngines
  refine ⟨fun st src pk s => ⟨fun ht hh => ⟨fun good hf hb => ?_, fun good => writeCr_form ht hh good,
    fun good hf => writeCr_foreign ht hh good hf, fun good hf hb => ?_⟩, fun ht hh => ⟨fun h => ?_, fun code h => start_refused ht hh h⟩,
    fun ht hh => ?_, fun ht => ⟨?_, ?_⟩⟩,
    fun st src pk s => ⟨fun h y hy ht => ?_, fun h hf y hy ht => ?_, fun h hf => ⟨fun ht => ?_, fun ht room => ?_, fun ht room => ?_, fun ht => ?_,
      fun ht => ?_⟩⟩⟩
  · have frame : Only [.engines] s ((pk.engines st).foldl (registersWritten pk) s) :=
      only_foldl _ (only_refl _ s) fun t e ht => only_modEngine (within_refl _) e _ ht
    refine completes_next (exec_writeCr_accepted ht hh good hf (any_eq_false_of hb)) ⟨fun e he => ?_, fun e he => ?_, ?_,
      answerPacket_line .., frame.same .stackTab (by simp), frame.same .mem (by simp), frame.same .regs (by simp),
      frame.same .parts (by simp), frame.same .clusters (by simp)⟩
    · obtain ⟨m, hlast, hbefore⟩ := foldl_once (f := registersWritten pk) (v := fun t => t.engine e) engines_nodup he
        (fun k _ hk t => registersWritten_engine_ne hk) s
      exact hlast.trans ((modEngine_engine_same _ _ _).trans (by rw [hbefore]))
    · exact foldl_others (v := fun t => t.engine e) (fun k hk t => registersWritten_engine_ne fun h => he (h ▸ hk)) s
    · rw [answerPacket_out, show ((pk.engines st).foldl (registersWritten pk) s).out = s.out from frame.same .out (by simp)]
  · obtain ⟨e, he, hb⟩ := hb
    exact writeCr_busy ht hh good hf (List.any_eq_true.mpr ⟨e, he, hb⟩)
  · obtain ⟨pre, run⟩ := exec_start_accepted ht hh h
    have received := received_only (s := s) (src := src) st
    have frame : Only [.stackTab, .engines, .parts] s ((pk.engines st).foldl (started src pk pre) (s.received st src)) :=
      only_foldl _ (only_widen (by decide) received) fun t e ht => only_started pre (within_sub (by decide) (within_refl _)) t e ht
    have engine := engine_of_engines (received.same .engines (by simp))
    have queue := startQ_of_stackTab (received.same .stackTab (by simp))
    refine completes_next run ⟨fun e he => ?_, fun e he => ?_, fun c hc => ?_, ?_, answerPacket_line .., frame.same .mem (by simp),
      frame.same .regs (by simp), frame.same .clusters (by simp)⟩
    · obtain ⟨m, hlast, hbefore⟩ := foldl_once (f := started src pk pre) (v := fun t => t.engine e) engines_nodup he
        (fun k _ hk t => started_engine_ne hk) (s.received st src)
      have stands := hlast.trans ((enqueueStart_engine _ _ _).trans (modEngine_engine_same _ _ _))
      rw [hbefore, engine] at stands
      rw [answerPacket_engine, stands]
      exact ⟨rfl, rfl, rfl, rfl, rfl, rfl, rfl, rfl, rfl⟩
    · exact (foldl_others (v := fun t => t.engine e) (fun k hk t => started_engine_ne fun h => he (h ▸ hk)) _).trans (engine e)
    · have he := engineOf_mem (st := st) hc
      obtain ⟨m, hlast, hbefore⟩ := foldl_once (f := started src pk pre)
        (v := fun t => t.startQ (engineOf st c pk.pc pk.bg / 256) (pcOfEngine (engineOf st c pk.pc pk.bg))) engines_nodup he
        (fun k hk hne t => started_startQ_ne (engines_pc_ne he hk hne)) (s.received st src)
      have queued := hlast.trans (enqueueStart_startQ_same _)
      rw [modEngine_startQ, hbefore, queue, engineOf_stack hc, engineOf_pc hc] at queued
      exact queued
    · rw [answerPacket_out, show ((pk.engines st).foldl (started src pk pre) (s.received st src)).out = s.out from frame.same .out (by simp)]
  · have held (t : State) (h : t = s.modStack st (fun x => { x with heldPackets := x.heldPackets ++ [(src, pk)] })) :
        t.engines = s.engines ∧ t.out = s.out ∧ (t.stack st).heldPackets = (s.stack st).heldPackets ++ [(src, pk)] ∧ t.mem = s.mem := by
      rw [h, modStack_stack_same]
      exact ⟨rfl, rfl, rfl, rfl⟩
    rcases ht with ht | ht
    · rw [if_pos ht]
      exact completes_next (exec_writeCr_held hh ht) (held _ rfl)
    · rw [if_neg (by omega)]
      exact completes_next (exec_start_held hh ht) (held _ rfl)
  · exact refuses_answer st src pk.tag 1 (congrArg Host.Outcome.next (packet_reserved ht))
  · exact refuses_answer st src pk.tag 1 (congrArg Host.Outcome.next (packet_reserved ht))
  · obtain ⟨x, hx, htyp, hinstr⟩ := mem_plainPackets (s := s) hy
    rw [← hinstr]
    exact refuses_answer st src pk.tag 1 ((exec_plainPacket hx (ht.trans htyp.symm)).trans (congrArg _ (plainPacket_form h)))
  · obtain ⟨x, hx, htyp, hinstr⟩ := mem_plainPackets (s := s) hy
    rw [← hinstr]
    exact refuses_answer st src pk.tag 2 ((exec_plainPacket hx (ht.trans htyp.symm)).trans (congrArg _ (plainPacket_foreign h hf)))
  · refine plainPacket_completes (x := ⟨3, .suspend st src pk, none, State.suspendOne, fun _ => []⟩) (by simp [plainPackets]) ht h hf rfl
      (fun t e k hk => suspendOne_engine_ne hk) fun e he => ?_
    obtain ⟨m, hlast, hbefore⟩ := foldl_once (f := State.suspendOne) (v := fun t => t.engine e) engines_nodup he
      (fun k _ hk t => suspendOne_engine_ne hk) s
    exact hlast.trans ((modEngine_engine_same _ _ _).trans (by rw [hbefore]))
  · have hm : resumeRoom s st pk = none := if_neg fun full => by
      obtain ⟨c, hc, hfull⟩ := List.any_eq_true.mp full
      obtain ⟨hs, hq⟩ := Bool.and_eq_true_iff.mp hfull
      exact absurd (room c hc (of_decide_eq_true hs)) (Nat.not_lt.mpr (of_decide_eq_true hq))
    refine plainPacket_completes (x := ⟨4, .resume st src pk, resumeRoom s st pk, State.resumeOne src, fun _ => []⟩) (by simp [plainPackets]) ht h hf hm
      (fun t e k hk => resumeOne_engine_ne src hk) fun e he => ?_
    obtain ⟨m, hlast, hbefore⟩ := foldl_once (f := State.resumeOne src) (v := fun t => (t.engine e, t.startQ (e / 256) (pcOfEngine e)))
      engines_nodup he (fun k hk hne t => Prod.ext (resumeOne_engine_ne src hne) (resumeOne_startQ_ne src (engines_pc_ne he hk hne))) s
    have frame : Only [.stackTab, .engines] s (m.foldl (State.resumeOne src) s) :=
      only_foldl _ (only_refl _ s) fun t e ht => only_resumeOne (within_refl _) src e ht
    generalize m.foldl (State.resumeOne src) s = u at hlast hbefore frame
    have engine : u.engine e = s.engine e := congrArg Prod.fst hbefore
    have stack := engines_stack he
    refine ⟨fun stands => ?_, fun hs hn => ⟨fun le hl ha => ?_, fun ha => ?_⟩⟩
    · exact (congrArg Prod.fst hlast).trans ((congrArg (fun v : State => v.engine e) (resumeOne_stands src (by rwa [engine]))).trans engine)
    · have resumed := resumeOne_queued (t := u) src (by rw [engine]; exact hs) (by rw [engine]; exact hn)
        (by rw [engine, libEntry_congr (frame.same .sec (by simp))]; exact hl)
        (by rw [engine, stack, addressesOk_congr (frame.same .memory (by simp))]; exact ha)
      rw [resumed, enqueueStart_startQ_same, enqueueStart_engine, modEngine_engine_same, engine, stack] at hlast
      exact ⟨congrArg Prod.fst hlast, by
        rw [answerPacket_startQ, show State.startQ _ _ _ = _ from congrArg Prod.snd hlast]
        simp⟩
    · have failed := resumeOne_fails (t := u) src (by rw [engine]; exact hs) (by rw [engine]; exact hn) fun le hl => by
        rw [engine, libEntry_congr (frame.same .sec (by simp))] at hl
        rw [engine, stack, addressesOk_congr (frame.same .memory (by simp))]
        exact ha le hl
      rw [failed] at hlast
      refine (congrArg Prod.fst hlast).trans ((modEngine_engine_same _ _ _).trans ?_)
      rw [engine]
  · have hm : resumeRoom s st pk = some 7 := if_pos (List.any_eq_true.mpr (by
      push Not at room
      obtain ⟨c, hc, hs, hq⟩ := room
      exact ⟨c, hc, by rw [hs]; simpa using hq⟩))
    exact refuses_answer st src pk.tag 7 ((exec_plainPacket (x := ⟨4, .resume st src pk, resumeRoom s st pk, State.resumeOne src, fun _ => []⟩)
      (by simp [plainPackets]) ht).trans (congrArg _ (plainPacket_refused h hf hm)))
  · refine plainPacket_completes (x := ⟨5, .abort st src pk, none, State.abortOne, fun _ => []⟩) (by simp [plainPackets]) ht h hf rfl
      (fun t e k hk => abortOne_engine_ne t (Ne.symm hk)) fun e he => ?_
    refine ⟨?_, fun hb => ?_, fun hb hd k hk => ?_⟩
    · obtain ⟨m, hlast, hbefore⟩ := foldl_once (f := State.abortOne) (v := fun t => t.engine e) engines_nodup he
        (fun k _ hk t => abortOne_engine_ne t (Ne.symm hk)) s
      exact hlast.trans (abortOne_engine.trans (by rw [hbefore]))
    · obtain ⟨m, hlast, hbefore⟩ := foldl_once (f := State.abortOne) (v := fun t => (t.engine e, t.startQ (e / 256) (pcOfEngine e))) engines_nodup he
        (fun k hk hne t => Prod.ext (abortOne_engine_ne t (Ne.symm hne)) (abortOne_startQ_ne (engines_pc_ne he hk hne))) s
      have aborted := abortOne_startQ_same (t := m.foldl State.abortOne s) (e := e) (by
        rw [show (m.foldl State.abortOne s).engine e = s.engine e from congrArg Prod.fst hbefore]; exact hb)
      rw [answerPacket_startQ, show State.startQ _ _ _ = _ from congrArg Prod.snd hlast]
      exact aborted
    · have bank : (4 * e + k) / 4 = e := by omega
      obtain ⟨m, hlast, hbefore⟩ := foldl_once (f := State.abortOne) (v := fun t => (t.engine e, t.debtOf (4 * e + k))) engines_nodup he
        (fun k hk hne t => Prod.ext (abortOne_engine_ne t (Ne.symm hne)) (abortOne_debt_ne (by rw [bank]; exact Ne.symm hne))) s
      have engine : (m.foldl State.abortOne s).engine e = s.engine e := congrArg Prod.fst hbefore
      rw [answerPacket_debtOf, show State.debtOf _ _ = _ from congrArg Prod.snd hlast, abortOne_debt (by rwa [engine]) (by rwa [engine]), if_pos bank]
  · exact plainPacket_completes (x := ⟨6, .status st src pk, none, fun t _ => t, fun t => (pk.engines st).map (fun e => (t.engine e).word)⟩)
      (by simp [plainPackets]) ht h hf rfl (fun _ _ _ _ => rfl) fun e he => foldl_others (v := fun t => t.engine e) (fun _ _ _ => rfl) s

end Sys2Proof.Proofs
end

section
/-! PROOF of merge slots (05 R157 to R161) -/

namespace Sys2Proof.Proofs
open Sys2Proof Sys2Proof.Machine Sys2Proof.Laws

/-! ### Merge slots (05 R157 to R161) -/

section

variable {s : State}

theorem setSlot_slot_same (st n : Nat) (x : Option Slot) : (s.setSlot st n x).slot st n = x := by
  unfold State.setSlot State.slot
  rw [modStack_stack_same]
  exact tab_get_set_same _ _ _ _

theorem setSlot_slot_ne (st : Nat) {n k : Nat} (x : Option Slot) (h : k ≠ n) : (s.setSlot st n x).slot st k = s.slot st k := by
  unfold State.setSlot State.slot
  rw [modStack_stack_same]
  exact tab_get_set_ne _ _ _ _ _ h

theorem slot_of_stackTab {t : State} (h : t.stackTab = s.stackTab) (st n : Nat) : t.slot st n = s.slot st n :=
  congrArg (fun m => Tab.get (fun _ => none) (Tab.get (fun _ => Stack.reset) m st).slots n) h

theorem received_window (st : Nat) (src : PacketSource) (p q : Nat) : (s.received st src).window p q = s.window p q := by
  have view : partsView Part.applied (s.received st src) = partsView Part.applied s := by
    unfold State.received
    cases src with
    | firmware => rfl
    | partition q =>
      dsimp only
      split
      · rfl
      · exact view_modRound _ _ (fun _ _ => rfl) _
  unfold State.window
  rw [show ((s.received st src).part p).applied = _ from view_at view p]

theorem received_openRefusal (st n : Nat) (src : PacketSource) (pk : Packet) :
    (s.received st src).openRefusal n src pk = s.openRefusal n src pk := by
  have holds (m : Nat) : (s.received st src).holdsSlot src n m = s.holdsSlot src n m := by
    unfold State.holdsSlot
    cases src with
    | firmware => rfl
    | partition p => exact received_holdsGroup _ _ _
  have slot := slot_of_stackTab ((received_only (s := s) (src := src) st).same .stackTab (by simp))
  unfold State.openRefusal
  simp only [holds, slot, received_window]

/-- The slot that an accepted MERGE_OPEN opens (R158). -/
def openedSlot (src : PacketSource) (pk : Packet) (p : Nat) : Slot :=
  { partition := p, src := src, tag := pk.tag, expected := fld (pk.payload.getD 0 0) 15 9, arrived := [], folded := 0, acc := [],
    out := fld (pk.payload.getD 1 0) 31 0, count := fld (pk.payload.getD 1 0) 63 32 }

variable {st : StackId} {src : PacketSource} {pk : Packet} (ht : pk.typ = 7)

include ht

theorem exec_mergeOpen : exec (.mergeOpen st src pk) s = .next (s.doMergeOpen st src pk) :=
  congrArg Host.Outcome.next (packet_acts ht (by decide) rfl)

theorem exec_mergeOpen_accepted (h : s.openRefusal st src pk = none) : ∃ p, exec (.mergeOpen st src pk) s =
    .next (((s.received st src).setSlot st (fld (pk.payload.getD 0 0) 8 0) (some (openedSlot src pk p))).answerPacket st src pk.tag 0 []) := by
  rw [exec_mergeOpen ht]
  unfold State.doMergeOpen
  dsimp only
  rw [received_openRefusal, h]
  exact ⟨_, rfl⟩

theorem exec_mergeOpen_refused {code : Nat} (h : s.openRefusal st src pk = some code) :
    exec (.mergeOpen st src pk) s = .next ((s.received st src).answerPacket st src pk.tag code []) := by
  rw [exec_mergeOpen ht]
  unfold State.doMergeOpen
  dsimp only
  rw [received_openRefusal, h]

end

section

variable {s : State}

theorem windowPut_only (p q off : Nat) (bs : List Byte) : Only [.quarters] s (s.windowPut p q off bs) :=
  only_windowPut (within_refl _) p q off bs (only_refl _ s)

theorem windowPut_quarter_ne (p off : Nat) {q k : Nat} (bs : List Byte) (h : k ≠ q) : (s.windowPut p q off bs).quarter k = s.quarter k := by
  unfold State.windowPut
  exact foldl_keeps (fun t => t.quarter k) _ (fun t w => modQuarter_quarter_ne t q _ k h) _ s

/-- The completion count of a delivery (R160): the four bytes at its window address take the old count plus 1. -/
def countedUp (a old : Nat) (y : Quarter) : Quarter := { y with qbuf := Tab.setList (fun _ => 0) y.qbuf a (toBytes 4 (old + 1)) }

/-- The state between the result and the count of a delivery. -/
def resultWritten (s : State) (st : Nat) (x : Slot) : State := s.windowPut x.partition (st / 4) x.out (partialBytes x.acc)

/-- The window address of a slot's completion count. -/
def countAddr (s : State) (st : Nat) (x : Slot) : Nat := (resultWritten s st x).windowAddr x.partition (st / 4) x.count

/-- A slot's completion count before its delivery. -/
def oldCount (s : State) (st : Nat) (x : Slot) : Nat :=
  ofBytes (Tab.getList (fun _ => 0) ((resultWritten s st x).quarter (st / 4)).qbuf (countAddr s st x) 4)

theorem deliver_eq (st n : Nat) (x : Slot) : s.deliver st n x =
    ((resultWritten s st x).modQuarter (st / 4) (countedUp (countAddr s st x) (oldCount s st x))).setSlot st n none := by
  unfold State.deliver countedUp oldCount countAddr resultWritten
  rfl

theorem deliver_quarter_same (st n : Nat) (x : Slot) : (s.deliver st n x).quarter (st / 4) =
    countedUp (countAddr s st x) (oldCount s st x) ((resultWritten s st x).quarter (st / 4)) := by
  rw [deliver_eq]
  exact modQuarter_quarter_same _ _ _

theorem deliver_quarter_ne (st n : Nat) (x : Slot) {k : Nat} (hk : k ≠ st / 4) : (s.deliver st n x).quarter k = s.quarter k := by
  rw [deliver_eq]
  exact (modQuarter_quarter_ne (resultWritten s st x) _ _ _ hk).trans (windowPut_quarter_ne _ _ _ hk)

theorem deliver_slot_same (st n : Nat) (x : Slot) : (s.deliver st n x).slot st n = none := by
  rw [deliver_eq]
  exact setSlot_slot_same _ _ _

theorem deliver_slot_ne (st n : Nat) (x : Slot) {k : Nat} (hk : k ≠ n) : (s.deliver st n x).slot st k = s.slot st k := by
  rw [deliver_eq, setSlot_slot_ne _ _ hk]
  exact slot_of_stackTab ((windowPut_only x.partition (st / 4) x.out (partialBytes x.acc)).same .stackTab (by simp)) _ _

theorem countedUp_inside (a old : Nat) (y : Quarter) {k : Nat} (hk : k < 4) :
    Tab.get (fun _ => 0) (countedUp a old y).qbuf (a + k) = (toBytes 4 (old + 1)).getD k 0 := by
  have bytes := getList_setList_same (fun _ => 0) (toBytes 4 (old + 1)) y.qbuf a
  have byte := congrArg (fun l : List Byte => l[k]?) bytes
  rw [getList_getElem? _ _ _ _ _ (by simpa [toBytes] using hk)] at byte
  rw [List.getD_eq_getElem?_getD, ← byte]
  rfl

theorem countedUp_outside (a old : Nat) (y : Quarter) {k : Nat} (hk : k < a ∨ a + 4 ≤ k) :
    Tab.get (fun _ => 0) (countedUp a old y).qbuf k = Tab.get (fun _ => 0) y.qbuf k :=
  tab_get_setList_outside _ _ _ _ _ (by simpa [toBytes] using hk)

end

section

variable {st : StackId} {n : Fin 512} {s : State} {x : Slot} {i : Nat} {a : Nat × List (List W32)} (hx : s.slot st n = some x)
  (hn : x.next (s.part x.partition).applied.repro = some i) (ha : x.arrived[i]? = some a)

include hx hn ha

theorem exec_mergeFold : exec (.mergeFold st n) s =
    .next (if x.folded + 1 < x.expected then
        s.setSlot st n (some { x with arrived := x.arrived.eraseIdx i, folded := x.folded + 1, acc := foldPartial x.acc a.2 })
      else s.deliver st n { x with arrived := x.arrived.eraseIdx i, folded := x.folded + 1, acc := foldPartial x.acc a.2 }) := by
  show execMergeFold st n s = _
  unfold execMergeFold
  rw [hx]
  dsimp only
  rw [hn]
  dsimp only
  rw [ha]

end

/-- Settles O16: a slot opens empty, takes one partial at a time, and is delivered with its last. -/
theorem mergeSlotsOpenFoldAndDeliver : Obligations.MergeSlotsOpenFoldAndDeliver := by
  unfold Obligations.MergeSlotsOpenFoldAndDeliver
  refine ⟨fun st src pk s ht => ⟨fun h => ?_, fun code h => ?_⟩, fun st n s x i a hx hn ha => ⟨fun h => ?_, fun h => ?_⟩⟩
  · obtain ⟨p, run⟩ := exec_mergeOpen_accepted ht h
    have received := received_only (s := s) (src := src) st
    refine completes_next run ⟨⟨_, setSlot_slot_same _ _ _, rfl, rfl, rfl, rfl, rfl, rfl, rfl, rfl⟩, fun k hk => ?_, ?_,
      received.same .quarters (by simp), received.same .engines (by simp), received.same .mem (by simp)⟩
    · exact (setSlot_slot_ne _ _ hk).trans (slot_of_stackTab (received.same .stackTab (by simp)) _ _)
    · rw [answerPacket_out]
      exact congrArg (· ++ _) (received.same .out (by simp))
  · have received := received_only (s := s) (src := src) st
    refine completes_next (exec_mergeOpen_refused ht h) ⟨received.same .stackTab (by simp), ?_,
      received.same .quarters (by simp), received.same .mem (by simp)⟩
    rw [answerPacket_out]
    exact congrArg (· ++ _) (received.same .out (by simp))
  · refine completes_next ((exec_mergeFold hx hn ha).trans (by rw [if_pos h])) ⟨setSlot_slot_same _ _ _, rfl, rfl, rfl⟩
  · have frame : Only [.quarters, .stackTab] s (s.deliver st n
        { x with arrived := x.arrived.eraseIdx i, folded := x.folded + 1, acc := foldPartial x.acc a.2 }) :=
      only_deliver (within_refl _) _ _ _ (only_refl _ s)
    refine completes_next ((exec_mergeFold hx hn ha).trans (by rw [if_neg (by omega)])) ⟨deliver_slot_same _ _ _,
      ⟨_, rfl, fun k hk => ?_, fun k hk => ?_⟩, fun k hk => deliver_quarter_ne _ _ _ hk, fun k hk => deliver_slot_ne _ _ _ hk,
      frame.same .engines (by simp), frame.same .mem (by simp)⟩
    · exact (congrArg (fun y : Quarter => Tab.get (fun _ => 0) y.qbuf _) (deliver_quarter_same _ _ _)).trans (countedUp_inside _ _ _ hk)
    · exact (congrArg (fun y : Quarter => Tab.get (fun _ => 0) y.qbuf _) (deliver_quarter_same _ _ _)).trans (countedUp_outside _ _ _ hk)

end Sys2Proof.Proofs
end

section
/-! PROOF of firmware's packets, preloads and permits (05 R150 to R152; 06 R164) -/

namespace Sys2Proof.Proofs
open Sys2Proof Sys2Proof.Machine Sys2Proof.Laws

/-! ### Firmware's packets (05 R150, R151) -/

section

variable {s : State} {st : Nat} {pk : Packet} {ok : Bool} {f : State → State}

theorem firmwarePacket_partition (p : PartId) (h : ok = true) :
    s.firmwarePacket st (.partition p) pk ok f = s.answerPacket st (.partition p) pk.tag 3 [] := by
  rw [h]
  rfl

theorem firmwarePacket_firmware (h : ok = true) :
    s.firmwarePacket st .firmware pk ok f = (f s).answerPacket st .firmware pk.tag 0 [] := by
  rw [h]
  rfl

theorem firmwarePacket_form (src : PacketSource) (h : ok = false) : s.firmwarePacket st src pk ok f = s.answerPacket st src pk.tag 1 [] := by
  rw [h]
  rfl

theorem blankWhere_get (p : Nat → Bool) (a : Nat) :
    Tab.get blankByte (s.blankWhere p).mem a = if p (a / 72) = true then blankByte a else Tab.get blankByte s.mem a := by
  unfold State.blankWhere
  rw [tab_get_keep]
  cases p (a / 72) <;> rfl

@[simp] theorem answerPacket_stack (src : PacketSource) (tag code : Nat) (ws : List W64) (k : Nat) :
    (s.answerPacket st src tag code ws).stack k = s.stack k := rfl

end

section

variable {st : StackId} {src : PacketSource} {pk : Packet} {s : State}

theorem exec_blank (h : pk.typ = 0x10) (first : BitVec 30) (lines : BitVec 31) : exec (.blank st src pk first lines) s =
    .next (s.firmwarePacket st src pk (pk.formOk 0 16) fun u => u.blankWhere (inRange st first.toNat lines.toNat)) :=
  congrArg Host.Outcome.next (packet_acts h (by decide) rfl)

theorem exec_sieve (h : pk.typ = 0x11) (first : BitVec 30) (lines : BitVec 31) : exec (.sieve st src pk first lines) s =
    .next (s.firmwarePacket st src pk (pk.formOk 0 16) fun u =>
      (u.sieveLines SieveSum.zero (u.writtenLines.filter (inRange st first.toNat lines.toNat))).1) :=
  congrArg Host.Outcome.next (packet_acts h (by decide) rfl)

theorem exec_level (h : pk.typ = 0x12) : exec (.level st src pk) s =
    .next (s.firmwarePacket st src pk (pk.formOk 1 1 && decide ((pk.payload.getD 0 0).toNat ≤ 4)) fun u =>
      u.modStack st (fun x => { x with level := (pk.payload.getD 0 0).toNat })) :=
  congrArg Host.Outcome.next (packet_acts h (by decide) rfl)

theorem ok_level (hf : pk.formOk 1 1 = true) (hl : (pk.payload.getD 0 0).toNat ≤ 4) :
    (pk.formOk 1 1 && decide ((pk.payload.getD 0 0).toNat ≤ 4)) = true := by
  rw [hf, decide_eq_true hl]
  rfl

/-- A written test pattern (20 R476): the channel is blank, and a run in progress notes the lines that failed. -/
def patternWritten (st : Nat) (ch : Nat) (failing : List Nat) (u : State) : State :=
  let mine (l : Nat) : Bool := plnStack l == st && plnChannel l == ch
  let u := u.blankWhere mine
  if u.spares.patBusy then u.patFailures ((failing.filter mine).map (fun l => (l, false))) else u

theorem patternWritten_only (st ch : Nat) (failing : List Nat) : ∃ x, patternWritten st ch failing s =
    { s.blankWhere (fun l => plnStack l == st && plnChannel l == ch) with spares := x } := by
  unfold patternWritten
  dsimp only
  split
  · exact ⟨_, rfl⟩
  · exact ⟨_, rfl⟩

theorem exec_pattern (h : pk.typ = 0x13) (ch : Fin 32) (failing : List Nat) : exec (.pattern st src pk ch failing) s =
    .next (s.firmwarePacket st src pk (pk.formOk 0 16) (patternWritten st ch failing)) :=
  congrArg Host.Outcome.next (packet_acts h (by decide) rfl)

/-- A stack whose spare die has taken the place of the die it copied. -/
def spareMapped (y : Stack) : Stack :=
  { y with dieMap := Tab.set (fun d => d) y.dieMap y.spare.replaced 16, spare := { y.spare with state := 2, holding := false } }

/-- The die's channels on the spare die (20 R472 step 6), the packets still held. -/
def dieMapped (st : Nat) (s : State) : State :=
  ((s.modStack st (fun y => { y with
    dieMap := Tab.set (fun d => d) y.dieMap (s.stack st).spare.replaced 16, spare := { y.spare with state := 2, holding := false } })).mapChange 7
    (16 * st + (s.stack st).spare.replaced)).logWear 7 st (s.stack st).spare.replaced 0

theorem stack_of_stackTab {t : State} (h : t.stackTab = s.stackTab) (k : Nat) : t.stack k = s.stack k :=
  congrArg (fun m => Tab.get (fun _ => Stack.reset) m k) h

theorem logWear_stack (kind unit detail pln k : Nat) : (s.logWear kind unit detail pln).stack k = s.stack k :=
  stack_of_stackTab ((only_logWear (within_refl _) kind unit detail pln (only_refl _ s)).same .stackTab (by simp)) k

theorem mapChange_stack (kind unit k : Nat) : (s.mapChange kind unit).stack k = s.stack k :=
  stack_of_stackTab ((only_mapChange (within_refl _) kind unit (only_refl _ s)).same .stackTab (by simp)) k

theorem dieMapped_stack (st : Nat) : (dieMapped st s).stack st = spareMapped (s.stack st) := by
  unfold dieMapped
  rw [logWear_stack, mapChange_stack, modStack_stack_same]
  rfl

theorem dieMapped_stack_ne {k st : Nat} (h : k ≠ st) : (dieMapped st s).stack k = s.stack k := by
  unfold dieMapped
  rw [logWear_stack, mapChange_stack, modStack_stack_ne _ _ _ _ h]

theorem exec_diemap (h : pk.typ = 0x14) (hform : pk.formOk 0 16 = true) (hs : (s.stack st).spare.state = 1)
    (hh : (s.stack st).spare.holding = true) (hb : ∀ e, e ∈ dieEngines st (s.stack st).spare.replaced → (s.engine e).busy = false) :
    exec (.diemap st .firmware pk) s = .next (((dieMapped st s).releaseHeld st).answerPacket st .firmware pk.tag 0 []) := by
  show execDiemap st .firmware pk s = _
  unfold execDiemap
  rw [packet_acts h (by decide) rfl, firmwarePacket_firmware hform]
  dsimp only
  rw [if_neg (by simp [hs, hh, any_eq_false_of hb])]
  rfl

theorem exec_diemap_partition (h : pk.typ = 0x14) (hform : pk.formOk 0 16 = true) (p : PartId) : exec (.diemap st (.partition p) pk) s =
    .next (s.answerPacket st (.partition p) pk.tag 3 []) :=
  congrArg Host.Outcome.next ((packet_acts h (by decide) rfl).trans (firmwarePacket_partition p hform))

theorem releaseHeld_nil (st : Nat) (h : (s.stack st).heldPackets = []) :
    s.releaseHeld st = s.modStack st (fun x => { x with heldPackets := [] }) := by
  unfold State.releaseHeld
  dsimp only
  rw [h]
  rfl

end

/-- Settles O17: each packet is refused to a partition, and does firmware's bidding in one step. -/
theorem firmwarePacketsAreFirmwares : Obligations.FirmwarePacketsAreFirmwares := by
  unfold Obligations.FirmwarePacketsAreFirmwares
  intro st pk s first lines ch failing
  refine ⟨fun ht hf => ⟨fun p => ?_, ?_⟩, fun ht hf => ⟨fun p => ?_, ?_⟩, fun ht hf hl => ⟨fun p => ?_, ?_⟩, fun ht hf hl src => ?_,
    fun ht hf => ⟨fun p => ?_, ?_⟩, fun ht hf => ⟨fun p => ?_, fun hs hh hb => ?_, fun hs hh hq hb => ?_⟩⟩
  · exact completes_next ((exec_blank ht first lines).trans (congrArg _ (firmwarePacket_partition p hf))) ⟨answerPacket_out .., rfl, rfl, rfl⟩
  · exact completes_next ((exec_blank ht first lines).trans (congrArg _ (firmwarePacket_firmware hf)))
      ⟨answerPacket_out .., fun a => blankWhere_get _ a, rfl, rfl, rfl⟩
  · exact completes_next ((exec_sieve ht first lines).trans (congrArg _ (firmwarePacket_partition p hf))) ⟨answerPacket_out .., rfl, rfl⟩
  · exact completes_next ((exec_sieve ht first lines).trans (congrArg _ (firmwarePacket_firmware hf))) rfl
  · exact completes_next ((exec_level ht).trans (congrArg _ (firmwarePacket_partition p (ok_level hf hl)))) ⟨answerPacket_out .., rfl, rfl⟩
  · refine completes_next ((exec_level ht).trans (congrArg _ (firmwarePacket_firmware (ok_level hf hl)))) ⟨answerPacket_out .., ?_, fun k hk => ?_, rfl, rfl⟩
    · rw [answerPacket_stack, modStack_stack_same]
    · rw [answerPacket_stack, modStack_stack_ne _ _ _ _ hk]
  · exact completes_next ((exec_level ht).trans (congrArg _ (firmwarePacket_form src (by rw [hf, decide_eq_false (Nat.not_le.mpr hl)]; rfl)))) ⟨answerPacket_out .., rfl, rfl⟩
  · exact completes_next ((exec_pattern ht ch failing).trans (congrArg _ (firmwarePacket_partition p hf))) ⟨answerPacket_out .., rfl, rfl⟩
  · obtain ⟨x, hx⟩ := patternWritten_only (s := s) st ch failing
    refine completes_next ((exec_pattern ht ch failing).trans (congrArg _ (firmwarePacket_firmware hf))) ?_
    rw [hx]
    refine ⟨answerPacket_out .., fun a => ?_, rfl, rfl⟩
    refine (blankWhere_get (s := s) (fun l => plnStack l == st.val && plnChannel l == ch.val) a).trans ?_
    simp only [Bool.and_eq_true, beq_iff_eq]
  · exact completes_next (exec_diemap_partition ht hf p) ⟨answerPacket_out .., rfl, rfl⟩
  · have stack := dieMapped_stack (s := s) st
    refine completes_next (exec_diemap ht hf hs hh hb) ⟨_, rfl, ?_, by rw [stack]; rfl, by rw [stack]; rfl, by rw [stack]; rfl,
      fun k hk => dieMapped_stack_ne hk, rfl, rfl, rfl⟩
    rw [stack]
    exact tab_get_set_same _ _ _ _
  · have stack := dieMapped_stack (s := s) st
    have released := releaseHeld_nil (s := dieMapped st s) st (by rw [stack]; exact hq)
    refine completes_next ((exec_diemap ht hf hs hh hb).trans (congrArg (fun u : State => Host.Outcome.next (u.answerPacket st .firmware pk.tag 0 []))
        released)) ⟨answerPacket_out .., ?_, ?_, ?_,
      fun k hk => ?_, rfl, rfl⟩
    · rw [answerPacket_stack, modStack_stack_same, stack]
      exact tab_get_set_same _ _ _ _
    · rw [answerPacket_stack, modStack_stack_same, stack]
      rfl
    · rw [answerPacket_stack, modStack_stack_same, stack]
      rfl
    · rw [answerPacket_stack, modStack_stack_ne _ _ _ _ hk, dieMapped_stack_ne hk]

/-! ### Preloads and permits (06 R164) -/

section

variable {e : EngineId} {s u : State} {le : W64 × W64} {bs : List Byte} {bad : Option (Nat × Nat)}

/-- The state of an engine whose preload has been read. -/
def preloadRead (e : Nat) (bs : List Byte) (bad : Option (Nat × Nat)) (u : State) : State :=
  match bad with
  | none => u.modEngine e (fun y => { y.setBuf 0 bs with preloaded := true })
  | some f => u.engineFail e f.1 (some f.2)

theorem exec_preloadComplete (hq : (s.engine e).mode = .queued) (hp : (s.engine e).preloaded = false) (hf : (s.engine e).failing = none)
    (hl : s.libEntry (s.engine e).index = some le)
    (hr : s.readLines e ((List.range (lePreLines le)).map (fun k =>
      2 ^ 30 * (e.val / 256) + (fld ((s.engine e).creg (lePreReg le)) 29 0 + k) % 2 ^ 30)) = (u, bs, bad)) :
    exec (.preloadComplete e) s = .next (preloadRead e bs bad u) := by
  show execPreloadComplete e s = _
  unfold execPreloadComplete
  dsimp only
  rw [if_pos ⟨hq, by simp [hp], hf⟩, hl]
  dsimp only
  rw [hr]
  cases bad <;> rfl

end

section

variable {pc : PcId} {s : State} {e : Nat} {q : List Nat} {le : W64 × W64}

/-- An engine that takes a permit goes on, or begins at its entry's first instruction. -/
def permitted (le : W64 × W64) (y : Engine) : Engine :=
  if y.resume then { y with mode := .running, permit := true, resume := false, slice := 0, overCounted := false }
  else { y with mode := .running, permit := true, slice := 0, overCounted := false, pc := leEntry le, x := [], streams := [] }

theorem exec_permitGrant (hq : s.startQ (pc.val / 64) (pc.val % 64) = e :: q) (hp : (s.engine e).preloaded = true)
    (hf : (s.engine e).failing = none) (hfree : s.permitsHeld e < s.permitsOf e) (hl : s.libEntry (s.engine e).index = some le) :
    exec (.permitGrant pc) s = .next ((s.setStartQ (pc.val / 64) (pc.val % 64) q).modEngine e (permitted le)) := by
  show execPermitGrant pc s = _
  unfold execPermitGrant
  dsimp only
  rw [hq]
  dsimp only
  rw [if_pos ⟨hp, hf, hfree⟩, hl]
  rfl

end

/-- Settles O18: a preload ends with its data or its fault, and a permit takes the head of its queue. -/
theorem enginesPreloadAndTakeTheirPermits : Obligations.EnginesPreloadAndTakeTheirPermits := by
  unfold Obligations.EnginesPreloadAndTakeTheirPermits
  refine ⟨fun e s u le bs bad hq hp hf hl hr => completes_next (exec_preloadComplete hq hp hf hl hr) ?_,
    fun pc s e q le hq hp hf hfree hl => completes_next (exec_permitGrant hq hp hf hfree hl) ?_⟩
  · cases bad with
    | none => exact ⟨rfl, rfl, fun k hk => modEngine_engine_ne _ _ _ _ hk, fun _ => modEngine_engine_same _ _ _, by simp⟩
    | some f =>
      obtain ⟨c, l⟩ := f
      refine ⟨rfl, rfl, fun k hk => modEngine_engine_ne _ _ _ _ hk, by simp, fun code pln h => ?_⟩
      obtain ⟨rfl, rfl⟩ := Prod.mk.inj (Option.some.inj h)
      exact modEngine_engine_same _ _ _
  · have engine : ((s.setStartQ (pc.val / 64) (pc.val % 64) q).modEngine e (permitted le)).engine e = permitted le (s.engine e) :=
      modEngine_engine_same _ _ _
    rw [engine]
    refine ⟨setStartQ_startQ_same _ _ _, ?_⟩
    unfold permitted
    cases hr : (s.engine e).resume with
    | true => exact ⟨rfl, rfl, rfl, rfl, rfl, by simp, fun _ => ⟨rfl, rfl, rfl, rfl, rfl⟩, fun k hk => modEngine_engine_ne _ _ _ _ hk, rfl, rfl⟩
    | false =>
      exact ⟨rfl, rfl, rfl, rfl, rfl, fun _ => ⟨rfl, fun r => by cases r <;> rfl, rfl⟩, by simp, fun k hk => modEngine_engine_ne _ _ _ _ hk, rfl, rfl⟩

end Sys2Proof.Proofs
end

section
/-! PROOF of refresh debt and forced suspensions (05 R155, R156; 06 R184) -/

namespace Sys2Proof.Proofs
open Sys2Proof Sys2Proof.Machine Sys2Proof.Laws

/-! ### Refresh debt and forced suspensions (05 R155, R156; 06 R184, R185) -/

section

variable {s : State}

@[simp] theorem enqueueStart_debtOf (e b : Nat) (head : Bool) : (s.enqueueStart e head).debtOf b = s.debtOf b := setStartQ_debtOf _ _ _ _

theorem setDebt_spare (b n k : Nat) : ((s.setDebt b n).stack k).spare = (s.stack k).spare := by
  unfold State.setDebt
  by_cases hk : k = b / 1024
  · rw [hk, modStack_stack_same]
  · rw [modStack_stack_ne _ _ _ _ hk]

theorem setDebt_level (b n k : Nat) : ((s.setDebt b n).stack k).level = (s.stack k).level := by
  unfold State.setDebt
  by_cases hk : k = b / 1024
  · rw [hk, modStack_stack_same]
  · rw [modStack_stack_ne _ _ _ _ hk]

theorem payDebt_spare (e k : Nat) : ((s.payDebt e).stack k).spare = (s.stack k).spare :=
  foldl_keeps (fun u : State => (u.stack k).spare) (fun u a => u.setDebt (4 * e + a) 0) (fun _ _ => setDebt_spare _ _ _) (List.range 4) s

theorem payDebt_level (e k : Nat) : ((s.payDebt e).stack k).level = (s.stack k).level :=
  foldl_keeps (fun u : State => (u.stack k).level) (fun u a => u.setDebt (4 * e + a) 0) (fun _ _ => setDebt_level _ _ _) (List.range 4) s

/-- A resumption changes an engine's mode, fault and marks alone. -/
theorem resumeOne_engine (src : PacketSource) (e : Nat) : ∃ m f r p, (State.resumeOne src s e).engine e =
    { s.engine e with mode := m, failing := f, resume := r, preloaded := p } := by
  by_cases h : (s.engine e).mode = .suspended ∧ (s.engine e).failing = none
  · obtain ⟨hm, hf⟩ := h
    by_cases ha : ∃ le, s.libEntry (s.engine e).index = some le ∧ s.addressesOk src (e / 256) le (s.engine e).c = true
    · obtain ⟨le, hl, ha⟩ := ha
      rw [resumeOne_queued src hm hf hl ha, enqueueStart_engine, modEngine_engine_same]
      exact ⟨_, _, _, _, rfl⟩
    · push Not at ha
      rw [resumeOne_fails src hm hf fun le hl => by simpa using ha le hl]
      unfold State.engineFail
      rw [modEngine_engine_same]
      exact ⟨_, _, _, _, rfl⟩
  · rw [resumeOne_stands src (by tauto)]
    exact ⟨_, _, _, _, rfl⟩

theorem resumeOne_debtOf (src : PacketSource) (e b : Nat) : (State.resumeOne src s e).debtOf b = s.debtOf b := by
  unfold State.resumeOne
  dsimp only
  split
  · split
    · rfl
    · split
      · exact enqueueStart_debtOf _ _ _
      · rfl
  · rfl

/-- The debt of an engine's banks paid, and one forced yield counted. -/
def forcedYield (s : State) (e : Nat) : State := (s.payDebt e).modEngine e (fun y => { y with forced := satAdd 65535 y.forced 1 })

theorem forcedYield_only (s : State) (e : Nat) : Only [.stackTab, .engines] s (forcedYield s e) :=
  only_modEngine (within_sub (by decide) (within_refl _)) _ _ (only_payDebt (within_sub (by decide) (within_refl _)) _ (only_refl _ s))

theorem forcedYield_engine (e : Nat) : (forcedYield s e).engine e = { s.engine e with forced := min 65535 ((s.engine e).forced + 1) } := by
  unfold forcedYield
  rw [modEngine_engine_same, payDebt_engine]
  rfl

theorem forcedYield_engine_ne {e k : Nat} (h : k ≠ e) : (forcedYield s e).engine k = s.engine k := by
  unfold forcedYield
  rw [modEngine_engine_ne _ _ _ _ h, payDebt_engine]

theorem forcedYield_debtOf (e b : Nat) : (forcedYield s e).debtOf b = if b / 4 = e then 0 else s.debtOf b := payDebt_debtOf e b

theorem forcedYield_startQ (e st k : Nat) : (forcedYield s e).startQ st k = s.startQ st k := payDebt_startQ e st k

theorem forcedYield_spare (e k : Nat) : ((forcedYield s e).stack k).spare = (s.stack k).spare := payDebt_spare e k

theorem forcedYield_surplus (e : Nat) : (forcedYield s e).surplus e = s.surplus e := by
  have permit (k : Nat) : ((forcedYield s e).engine k).permit = (s.engine k).permit := by
    by_cases hk : k = e
    · rw [hk, forcedYield_engine]
    · rw [forcedYield_engine_ne hk]
  have level : ((forcedYield s e).stack (e / 256)).level = (s.stack (e / 256)).level := payDebt_level e _
  unfold State.surplus State.permitsOf State.permitsHeld
  simp only [permit, level]

/-- What holds an engine to its run's end: the library changes, or its die is about to move (06 R191; 20 R472). -/
def goesOn (s : State) (e : Nat) : Bool :=
  s.sec.loading || ((s.stack (e / 256)).spare.holding && e % 256 / 16 == (s.stack (e / 256)).spare.replaced)

theorem forcedYield_goesOn (e : Nat) : goesOn (forcedYield s e) e = goesOn s e := by
  unfold goesOn
  rw [forcedYield_spare, (forcedYield_only s e).same .sec (by simp)]

theorem goesOn_iff (e : Nat) : goesOn s e = true ↔ (s.sec.loading = true ∨
    ((s.stack (e / 256)).spare.holding = true ∧ e % 256 / 16 = (s.stack (e / 256)).spare.replaced)) := by
  simp [goesOn]

theorem suspendNow_held {e : Nat} (h : goesOn s e = true) :
    s.suspendNow e = State.resumeOne (s.engine e).src (s.modEngine e Engine.toSuspended) e := if_pos h

theorem suspendNow_free {e : Nat} (h : goesOn s e = false) : s.suspendNow e = s.modEngine e Engine.toSuspended :=
  if_neg (by rw [show (_ || _) = goesOn s e from rfl, h]; simp)

theorem withdraw_engine (e : Nat) : (s.withdraw e).engine e = { (s.engine e).endSlice with
    mode := .queued, permit := false, drain := (s.engine e).drain.kept, rest := false, resume := true, preloaded := true } :=
  (enqueueStart_engine _ _ _).trans (modEngine_engine_same _ _ _)

theorem withdraw_engine_ne {e k : Nat} (h : k ≠ e) : (s.withdraw e).engine k = s.engine k :=
  (enqueueStart_engine _ _ _).trans (modEngine_engine_ne _ _ _ _ h)

theorem withdraw_debtOf (e b : Nat) : (s.withdraw e).debtOf b = s.debtOf b := enqueueStart_debtOf _ _ _

theorem withdraw_startQ (e : Nat) : (s.withdraw e).startQ (e / 256) (pcOfEngine e) = e :: s.startQ (e / 256) (pcOfEngine e) :=
  setStartQ_startQ_same _ _ _

theorem exec_refresh (b : BankId) (h : (s.engine (b.val / 4)).mode ≠ .running) :
    exec (.refresh b) s = .next (s.setDebt b (s.debtOf b - 1)) := congrArg Host.Outcome.next (if_neg h)

theorem exec_refresh_running (b : BankId) (h : (s.engine (b.val / 4)).mode = .running) : exec (.refresh b) s = .next s :=
  congrArg Host.Outcome.next (if_pos h)

variable {e : EngineId} (hm : (s.engine e).mode = .running) (hd : s.debtFull e = true) (hf : (s.engine e).failing = none)

include hm hd hf

theorem exec_forcedSuspension : exec (.forcedSuspension e) s = .next (if (s.engine e).pendSuspend = true then (forcedYield s e).suspendNow e
    else if (forcedYield s e).surplus e = true then (forcedYield s e).withdraw e else forcedYield s e) :=
  congrArg Host.Outcome.next (if_pos ⟨hm, hd, hf⟩)

theorem exec_forcedSuspension_held (hp : (s.engine e).pendSuspend = true) (hg : goesOn s e = true) : exec (.forcedSuspension e) s =
    .next (State.resumeOne (s.engine e).src ((forcedYield s e).modEngine e Engine.toSuspended) e) := by
  rw [exec_forcedSuspension hm hd hf, if_pos hp, suspendNow_held (by rw [forcedYield_goesOn, hg]), forcedYield_engine]

theorem exec_forcedSuspension_suspended (hp : (s.engine e).pendSuspend = true) (hg : goesOn s e = false) : exec (.forcedSuspension e) s =
    .next ((forcedYield s e).modEngine e Engine.toSuspended) := by
  rw [exec_forcedSuspension hm hd hf, if_pos hp, suspendNow_free (by rw [forcedYield_goesOn, hg])]

theorem exec_forcedSuspension_withdrawn (hp : (s.engine e).pendSuspend = false) (hs : s.surplus e = true) : exec (.forcedSuspension e) s =
    .next ((forcedYield s e).withdraw e) := by
  rw [exec_forcedSuspension hm hd hf, if_neg (by simp [hp]), forcedYield_surplus, if_pos hs]

theorem exec_forcedSuspension_going (hp : (s.engine e).pendSuspend = false) (hs : s.surplus e = false) : exec (.forcedSuspension e) s =
    .next (forcedYield s e) := by
  rw [exec_forcedSuspension hm hd hf, if_neg (by simp [hp]), forcedYield_surplus, if_neg (by simp [hs])]

end

/-- Settles O19: the debt's count, and the four ways in which a forced suspension ends. -/
theorem refreshDebtIsCountedAndPaid : Obligations.RefreshDebtIsCountedAndPaid := by
  unfold Obligations.RefreshDebtIsCountedAndPaid
  have debts (s : State) (e : Nat) : (∀ k, k < 4 → (forcedYield s e).debtOf (4 * e + k) = 0) ∧
      ∀ k, k / 4 ≠ e → (forcedYield s e).debtOf k = s.debtOf k :=
    ⟨fun k hk => by rw [forcedYield_debtOf, if_pos (by omega)], fun k hk => by rw [forcedYield_debtOf, if_neg hk]⟩
  refine ⟨fun b s => ⟨⟨_, rfl, ?_, fun k hk => ?_, rfl, rfl⟩, fun h => completes_next (exec_refresh b h) ⟨?_, fun k hk => ?_, rfl, rfl⟩,
    fun h => completes_next (exec_refresh_running b h) rfl⟩, fun e s hm hd hf => ?_⟩
  · rw [setDebt_debtOf, if_pos rfl]
    rfl
  · rw [setDebt_debtOf, if_neg hk]
  · rw [setDebt_debtOf, if_pos rfl]
  · rw [setDebt_debtOf, if_neg hk]
  · obtain ⟨paid, others⟩ := debts s e
    dsimp only
    rw [← goesOn_iff]
    cases hp : (s.engine e).pendSuspend with
    | true =>
      have suspended : ((forcedYield s e).modEngine e Engine.toSuspended).engine e =
          Engine.toSuspended { s.engine e with forced := min 65535 ((s.engine e).forced + 1) } := by
        rw [modEngine_engine_same, forcedYield_engine]
      have others' (k : Nat) (hk : k ≠ e.val) : ((forcedYield s e).modEngine e Engine.toSuspended).engine k = s.engine k := by
        rw [modEngine_engine_ne _ _ _ _ hk, forcedYield_engine_ne hk]
      have frame : Only [.stackTab, .engines] s ((forcedYield s e).modEngine e Engine.toSuspended) :=
        only_modEngine (within_sub (by decide) (within_refl _)) _ _ (forcedYield_only s e)
      cases hg : goesOn s e with
      | true =>
        refine completes_next (exec_forcedSuspension_held hm hd hf hp hg) ?_
        obtain ⟨m, f, r, p, resumed⟩ := resumeOne_engine (s := (forcedYield s e).modEngine e Engine.toSuspended) (s.engine e).src e
        have frame' := only_resumeOne (within_refl _) (s.engine e).src e frame
        rw [resumed, suspended]
        refine ⟨fun k hk => ?_, fun k hk => ?_, rfl, by simp, fun _ _ => ⟨_, others', frame.same .sec (by simp), frame.same .memory (by simp), suspended, rfl⟩,
          by simp, by simp, rfl, rfl, rfl, rfl, fun k hk => ?_, frame'.same .mem (by simp)⟩
        · rw [resumeOne_debtOf]
          exact paid k hk
        · rw [resumeOne_debtOf]
          exact others k hk
        · rw [resumeOne_engine_ne _ (Ne.symm hk)]
          exact others' k hk
      | false =>
        refine completes_next (exec_forcedSuspension_suspended hm hd hf hp hg) ?_
        rw [suspended]
        exact ⟨paid, others, rfl, fun _ _ => rfl, by simp, by simp, by simp, rfl, rfl, rfl, rfl, others', frame.same .mem (by simp)⟩
    | false =>
      cases hs : s.surplus e with
      | true =>
        refine completes_next (exec_forcedSuspension_withdrawn hm hd hf hp hs) ?_
        rw [withdraw_engine, withdraw_startQ, forcedYield_startQ, forcedYield_engine]
        have frame := only_withdraw (within_refl _) e (forcedYield_only s e)
        refine ⟨fun k hk => ?_, fun k hk => ?_, rfl, by simp, by simp, by simp, fun _ _ => ⟨rfl, rfl, rfl, rfl, rfl⟩, rfl, rfl, rfl, rfl,
          fun k hk => ?_, frame.same .mem (by simp)⟩
        · rw [withdraw_debtOf]
          exact paid k hk
        · rw [withdraw_debtOf]
          exact others k hk
        · rw [withdraw_engine_ne hk, forcedYield_engine_ne hk]
      | false =>
        refine completes_next (exec_forcedSuspension_going hm hd hf hp hs) ?_
        rw [forcedYield_engine]
        exact ⟨paid, others, rfl, by simp, by simp, fun _ _ => by rw [← hp], by simp, rfl, rfl, rfl, rfl, fun k hk => forcedYield_engine_ne hk,
          (forcedYield_only s e).same .mem (by simp)⟩

end Sys2Proof.Proofs
end

section
/-! PROOF of scalar micro-instructions and stalls (06 R171 to R173) -/

namespace Sys2Proof.Proofs
open Sys2Proof Sys2Proof.Machine Sys2Proof.Laws

/-! ### Issue (06 R171 to R173, R183) -/

section

variable {x : Engine} {dt : Nat} {w : W64}

theorem spend_eq : x.spend dt = { x with slice := x.slice + dt, units := (x.spend dt).units } := rfl

theorem enter_eq : x.enter w = { x with units := (x.enter w).units } := by
  unfold Engine.enter
  split <;> rfl

theorem issuing_eq : x.issuing dt w = { x with slice := x.slice + dt, units := (x.issuing dt w).units } := by
  unfold Engine.issuing
  rw [enter_eq]
  rfl

/-- An opcode without a unit enters no queue. -/
theorem issuing_unitless (h : unitOf (dOp w) = none) : x.issuing dt w = x.spend dt := by
  unfold Engine.issuing Engine.enter
  rw [h]

@[simp] theorem issuing_xreg (r : Nat) : (x.issuing dt w).xreg r = x.xreg r := by
  rw [issuing_eq]
  rfl

@[simp] theorem issuing_creg (r : Nat) : (x.issuing dt w).creg r = x.creg r := by
  rw [issuing_eq]
  rfl

@[simp] theorem issuing_cr : (x.issuing dt w).cr w = x.cr w := by
  rw [issuing_eq]
  rfl

@[simp] theorem setX_xreg_same (d : Nat) (v : W32) : (x.setX d v).xreg d = if d = 0 then 0 else v := by
  unfold Engine.setX Engine.xreg
  split
  · rfl
  · exact tab_get_set_same _ _ _ _

theorem setX_xreg_ne {d r : Nat} (v : W32) (h : r ≠ d) : (x.setX d v).xreg r = x.xreg r := by
  unfold Engine.setX Engine.xreg
  split
  · rfl
  · split
    · rfl
    · exact tab_get_set_ne _ _ _ _ _ h

theorem setX_eq (d : Nat) (v : W32) : x.setX d v = { x with x := (x.setX d v).x } := by
  unfold Engine.setX
  split <;> rfl

end

theorem onlyEngine_refl (e : Nat) (s : State) : OnlyEngine e s s := ⟨rfl, fun _ _ => rfl⟩

theorem onlyEngine_mod {e : Nat} {s t : State} (h : OnlyEngine e s t) (f : Engine → Engine) : OnlyEngine e s (t.modEngine e f) := by
  obtain ⟨same, others⟩ := h
  refine ⟨?_, fun k hk => (modEngine_engine_ne _ _ _ _ hk).trans (others k hk)⟩
  rw [same]
  rfl

theorem onlyEngine_mem {e : Nat} {s t : State} (h : OnlyEngine e s t) : t.mem = s.mem := by
  rw [h.1]

section

variable {s : State} {e : EngineId} {dt : Nat} {w : W64}

theorem issuing_engine : (s.issuing e dt w).engine e = (s.engine e).issuing dt w := by
  unfold State.issuing
  rw [modEngine_engine_same, modEngine_engine_same]
  rfl

theorem onlyEngine_issuing : OnlyEngine e s (s.issuing e dt w) := onlyEngine_mod (onlyEngine_mod (onlyEngine_refl e s) _) _

/-- An instruction that issues acts in the state of its issue. -/
theorem darvy_issues (h : Issues s e dt w) {op : Nat} (hop : dOp w = op) (f : State → W64 → State) :
    s.darvy e op dt f = f (s.issuing e dt w) w := by
  obtain ⟨can, fetch, going, free, slice⟩ := h
  subst hop
  unfold State.darvy
  rw [if_pos can, fetch]
  dsimp only
  have spent : ((s.modEngine e (fun x => x.spend dt)).engine e) = (s.engine e).spend dt := modEngine_engine_same _ _ _
  rw [if_pos rfl, spent, going, free, decide_eq_false (by rw [spend_eq]; exact Nat.not_le.mpr slice), if_neg (by simp)]
  rfl

/-- An instruction that stalls, or whose slice runs out, lets its cycles pass. -/
theorem darvy_stalls (can : s.canIssue e = true) (fetch : s.fetchAt e = .inl w) {op : Nat} (hop : dOp w = op)
    (h : ((s.engine e).spend dt).stalls w = true ∨ s.streamHeld e (dOp w) = true ∨ 65536 ≤ (s.engine e).slice + dt)
    (f : State → W64 → State) : s.darvy e op dt f = s.modEngine e (fun x => x.spend dt) := by
  subst hop
  have spent : ((s.modEngine e (fun x => x.spend dt)).engine e) = (s.engine e).spend dt := modEngine_engine_same _ _ _
  have stops : (((s.engine e).spend dt).stalls w || s.streamHeld e (dOp w) || decide (65536 ≤ ((s.engine e).spend dt).slice)) = true := by
    rcases h with h | h | h
    · rw [h]
      rfl
    · rw [h, Bool.or_true]
      rfl
    · rw [decide_eq_true (show 65536 ≤ ((s.engine e).spend dt).slice from h), Bool.or_true]
  unfold State.darvy
  rw [if_pos can, fetch]
  dsimp only
  rw [if_pos rfl, spent, if_pos stops]

/-- What a scalar instruction leaves (R172): its result in x[d], the next program counter, its cycles, and nothing else. -/
def Leaves (e : EngineId) (dt : Nat) (s : State) (w : W64) (i : Instr) (d : Nat) (v : W32) (by' : Int) : Prop :=
  let x := s.engine e
  Completes i s (fun t => OnlyEngine e s t ∧ t.mem = s.mem ∧ (t.engine e).xreg d = (if d = 0 then 0 else v) ∧
    (∀ r, r ≠ d → (t.engine e).xreg r = x.xreg r) ∧ (t.engine e).pc = (((x.pc : Int) + by') % 65536).toNat ∧
    (t.engine e).slice = x.slice + dt ∧ (t.engine e).mode = x.mode ∧ (t.engine e).c = x.c ∧ (t.engine e).buf = x.buf ∧
    (t.engine e).score = x.score ∧ (t.engine e).acc = x.acc ∧ (t.engine e).streams = x.streams ∧ (t.engine e).drain = x.drain ∧
    (t.engine e).failing = x.failing ∧ (t.engine e).permit = x.permit ∧ (t.engine e).units = (x.issuing dt w).units)

theorem leaves_setX {i : Instr} {d : Nat} {v : W32} {by' : Int} {f : Engine → Engine}
    (run : exec i s = .next ((s.issuing e dt w).modEngine e f))
    (hf : f ((s.engine e).issuing dt w) = (((s.engine e).issuing dt w).setX d v).jump by') : Leaves e dt s w i d v by' := by
  have engine : ((s.issuing e dt w).modEngine e f).engine e = (((s.engine e).issuing dt w).setX d v).jump by' := by
    rw [modEngine_engine_same, issuing_engine, hf]
  have only : OnlyEngine e s ((s.issuing e dt w).modEngine e f) := onlyEngine_mod onlyEngine_issuing _
  have same : ((s.engine e).issuing dt w).setX d v = { s.engine e with
      slice := (s.engine e).slice + dt, units := ((s.engine e).issuing dt w).units, x := (((s.engine e).issuing dt w).setX d v).x } := by
    rw [setX_eq, issuing_eq]
  refine completes_next run ?_
  rw [engine]
  refine ⟨only, onlyEngine_mem only, (setX_xreg_same d v : _), fun r hr => ((setX_xreg_ne v hr).trans (issuing_xreg r) : _), ?_⟩
  unfold Engine.jump
  rw [same]
  exact ⟨rfl, rfl, rfl, rfl, rfl, rfl, rfl, rfl, rfl, rfl, rfl, rfl⟩

/-- A scalar instruction's whole act is on its engine. -/
theorem leaves_darvy (h : Issues s e dt w) {i : Instr} {op d : Nat} {v : W32} {by' : Int} {f : W64 → Engine → Engine} (hop : dOp w = op)
    (run : exec i s = .next (s.darvy e op dt (fun t i => t.modEngine e (f i))))
    (hf : f w ((s.engine e).issuing dt w) = (((s.engine e).issuing dt w).setX d v).jump by') : Leaves e dt s w i d v by' :=
  leaves_setX (run.trans (congrArg _ (darvy_issues h hop _))) hf

theorem fails_engineFail {i : Instr} {code : Nat} {line : Option Nat}
    (run : exec i s = .next ((s.issuing e dt w).engineFail e code line)) : Completes i s (Fails e dt w code line s) := by
  refine completes_next run ⟨onlyEngine_mod onlyEngine_issuing _, ?_⟩
  unfold State.engineFail
  rw [modEngine_engine_same, issuing_engine]

end

/-- Each micro-instruction is one of its opcode's, whatever it does once it issues. -/
theorem exec_darvy (e : EngineId) (dt : Nat) (s : State) (i : Nat × Instr)
    (h : i ∈ ([(0x00, .darvyNop e dt), (0x01, .movi e dt), (0x02, .movh e dt), (0x03, .getc e dt), (0x04, .darvyAdd e dt),
        (0x05, .darvySub e dt), (0x06, .darvyShl e dt), (0x07, .darvyShr e dt), (0x08, .loop e dt), (0x09, .bz e dt),
        (0x0A, .darvyBr e dt), (0x0B, .yield e dt), (0x0C, .end_ e dt), (0x0D, .darvyFmul e dt), (0x0E, .frsq e dt), (0x10, .qset e dt),
        (0x11, .scan e dt), (0x12, .dot e dt), (0x13, .expm e dt), (0x14, .accv e dt), (0x15, .ladd e dt), (0x16, .lmul e dt),
        (0x17, .lssq e dt), (0x18, .lcvt e dt), (0x19, .rope e dt), (0x1A, .append e dt), (0x1C, .fetch e dt), (0x1D, .stl e dt),
        (0x1E, .wrl e dt), (0x1F, .emit e dt)] : List (Nat × Instr))) : ∃ f, exec i.2 s = .next (s.darvy e i.1 dt f) := by
  simp only [List.mem_cons, List.not_mem_nil, or_false] at h
  rcases h with rfl | rfl | rfl | rfl | rfl | rfl | rfl | rfl | rfl | rfl | rfl | rfl | rfl | rfl | rfl | rfl | rfl | rfl | rfl | rfl |
    rfl | rfl | rfl | rfl | rfl | rfl | rfl | rfl | rfl | rfl <;> exact ⟨_, rfl⟩

/-- Settles O20: a scalar instruction is one write of an x register and a jump; a stall is the passing of its cycles. -/
theorem engineScalarInstructions : Obligations.EngineScalarInstructions := by
  unfold Obligations.EngineScalarInstructions
  intro e dt s w
  refine ⟨fun h => ?_, fun can fetch stops i hi hop => ?_⟩
  · have run {i : Instr} {op : Nat} (hop : dOp w = op) {f : State → W64 → State} (hrun : exec i s = .next (s.darvy e op dt f)) :
        exec i s = .next (f (s.issuing e dt w) w) := hrun.trans (congrArg _ (darvy_issues h hop f))
    refine ⟨fun hop => leaves_darvy h hop rfl rfl, fun hop => leaves_darvy h hop rfl rfl, fun hop => leaves_darvy h hop rfl ?_,
      fun hop r hr => ?_, fun hop hr => fails_engineFail ((run hop rfl).trans ?_), fun hop => leaves_darvy h hop rfl ?_,
      fun hop => leaves_darvy h hop rfl ?_,
      fun hop => leaves_darvy h hop rfl ?_, fun hop => leaves_darvy h hop rfl ?_, fun hop ha => leaves_darvy h hop rfl ?_,
      fun hop ha => leaves_darvy h hop rfl ?_, fun hop => leaves_darvy h hop rfl ?_, fun hop => leaves_darvy h hop rfl rfl,
      fun hop => leaves_darvy h hop rfl ?_, fun hop => leaves_darvy h hop rfl ?_⟩
    · simp only [issuing_xreg]
    · refine leaves_setX ((run hop rfl).trans (by rw [issuing_engine, issuing_cr, hr])) ?_
      rw [issuing_creg]
    · rw [issuing_engine, issuing_cr, hr]
    · simp only [issuing_xreg]
    · simp only [issuing_xreg]
    · simp only [issuing_xreg]
    · simp only [issuing_xreg]
    · dsimp only
      rw [setX_xreg_same, if_neg ha, issuing_xreg]
    · dsimp only
      rw [ha]
      rfl
    · rw [issuing_xreg]
      rfl
    · simp only [issuing_xreg]
    · simp only [issuing_xreg]
  · obtain ⟨f, hrun⟩ := exec_darvy e dt s i hi
    refine completes_next (hrun.trans (congrArg _ (darvy_stalls can fetch hop stops f))) ⟨onlyEngine_mod (onlyEngine_refl e s) _, ?_⟩
    exact modEngine_engine_same _ _ _

end Sys2Proof.Proofs
end

section
/-! PROOF of drains, slices and faults of an engine (06 R165, R182 to R187) -/

namespace Sys2Proof.Proofs
open Sys2Proof Sys2Proof.Machine Sys2Proof.Laws

/-! ### YIELD, END and their drains (06 R165, R182) -/

section

variable {s : State}

/-- Whether a pseudo-channel has a surplus depends on the permits alone. -/
theorem surplus_congr {t : State} {e : Nat} (hp : ∀ k, (t.engine k).permit = (s.engine k).permit)
    (hl : (t.stack (e / 256)).level = (s.stack (e / 256)).level) : t.surplus e = s.surplus e := by
  unfold State.surplus State.permitsOf State.permitsHeld
  simp only [hp, hl]

@[simp] theorem payDebt_engines (e : Nat) : (s.payDebt e).engines = s.engines :=
  (only_payDebt (within_refl _) e (only_refl _ s)).same .engines (by simp)

theorem debtOf_of_stackTab {t : State} (h : t.stackTab = s.stackTab) (b : Nat) : t.debtOf b = s.debtOf b :=
  congrArg (fun x : Stack => Tab.get (fun _ => 0) x.debt (b % 1024)) (stack_of_stackTab h (b / 1024))

theorem parcelAt_of_parts {t : State} (h : t.parts = s.parts) (p pln : Nat) : t.parcelAt p pln = s.parcelAt p pln := by
  unfold State.parcelAt State.round
  rw [part_of_parts h]

theorem levelTo_debtOf (k l b : Nat) : (s.levelTo k l).debtOf b = s.debtOf b := by
  unfold State.levelTo
  split
  · rfl
  · show (s.modStack k (fun x => { x with level := l })).debtOf b = _
    unfold State.debtOf
    by_cases h : b / 1024 = k
    · rw [h, modStack_stack_same]
    · rw [modStack_stack_ne _ _ _ _ h]

theorem levelOff_debtOf (k b : Nat) : (s.levelOff k).debtOf b = s.debtOf b := by
  unfold State.levelOff
  split
  · rw [levelTo_debtOf]
    unfold State.debtOf
    by_cases h : b / 1024 = k
    · rw [h, modStack_stack_same]
    · rw [modStack_stack_ne _ _ _ _ h]
  · rfl

theorem latch_line (n k : Nat) (h : (s.icLine k).pending = true) : ((s.latch n).icLine k).pending = true := by
  unfold State.latch
  by_cases hk : k = n
  · rw [hk, modIcLine_icLine_same]
  · rw [modIcLine_icLine_ne _ _ _ _ hk, h]

theorem levelOff_line (n k : Nat) (h : (s.icLine k).pending = true) : ((s.levelOff n).icLine k).pending = true := by
  unfold State.levelOff State.levelTo
  split
  · split
    · exact h
    · exact latch_line (s := (s.modStack n _).modStack n _) n k h
  · exact h

variable {e : EngineId} {dt : Nat} {w : W64}

theorem issuing_only : Only [.engines] s (s.issuing e dt w) :=
  only_modEngine (within_refl _) _ _ (only_modEngine (within_refl _) _ _ (only_refl _ s))

theorem issuing_engine_ne {k : Nat} (h : k ≠ e.val) : (s.issuing e dt w).engine k = s.engine k := onlyEngine_issuing.2 k h

theorem issuing_surplus : (s.issuing e dt w).surplus e = s.surplus e := by
  refine surplus_congr (fun k => ?_) rfl
  by_cases hk : k = e.val
  · rw [hk, issuing_engine, issuing_eq]
  · rw [issuing_engine_ne hk]

/-- When a YIELD acts (R182). -/
def YieldActs (s : State) (e : EngineId) (dt : Nat) (w : W64) : Prop :=
  ((s.engine e).xreg (dA w)).toNat ≤ (s.engine e).slice + dt ∨ (s.engine e).pendSuspend = true ∨ s.surplus e = true

theorem yieldActs_iff : (s.issuing e dt w).yieldActs e w = true ↔ YieldActs s e dt w := by
  unfold State.yieldActs YieldActs
  rw [issuing_surplus, issuing_engine]
  dsimp only
  rw [issuing_xreg, issuing_eq]
  simp [or_assoc]

/-- An instruction that leaves its engine in a given state and changes nothing else. -/
theorem issued_engine {i : Instr} {f : Engine → Engine} {y : Engine} (run : exec i s = .next ((s.issuing e dt w).modEngine e f))
    (hy : f ((s.engine e).issuing dt w) = y) : Completes i s (fun t => OnlyEngine e s t ∧ t.engine e = y) :=
  completes_next run ⟨onlyEngine_mod onlyEngine_issuing _, by rw [modEngine_engine_same, issuing_engine, hy]⟩

theorem issuing_streams : (s.issuing e dt w).engine e = { (s.engine e).issuing dt w with streams := (s.engine e).streams } := by
  rw [issuing_engine, issuing_eq]

section

variable (h : Issues s e dt w)

include h

theorem exec_yield_idle (hop : dOp w = 0x0B) (ha : ¬ YieldActs s e dt w) :
    exec (.yield e dt) s = .next ((s.issuing e dt w).modEngine e (fun x => x.jump 1)) := by
  refine congrArg Host.Outcome.next ((darvy_issues h hop _).trans ?_)
  exact if_neg fun acts => ha (yieldActs_iff.mp acts)

theorem exec_yield_drains (hop : dOp w = 0x0B) (ha : YieldActs s e dt w) (hs : (s.engine e).streams = []) :
    exec (.yield e dt) s = .next ((s.issuing e dt w).modEngine e (fun x => { x.jump 1 with drain := .yielding })) := by
  refine congrArg Host.Outcome.next ((darvy_issues h hop _).trans ((if_pos (yieldActs_iff.mpr ha)).trans (if_pos ?_)))
  rw [issuing_streams, hs]
  rfl

theorem exec_yield_fault (hop : dOp w = 0x0B) (ha : YieldActs s e dt w) (hs : (s.engine e).streams ≠ []) :
    exec (.yield e dt) s = .next ((s.issuing e dt w).engineFail e 4 none) := by
  refine congrArg Host.Outcome.next ((darvy_issues h hop _).trans ((if_pos (yieldActs_iff.mpr ha)).trans (if_neg ?_)))
  rw [issuing_streams]
  simpa using hs

theorem exec_end_drains (hop : dOp w = 0x0C) (hs : (s.engine e).streams = []) :
    exec (.end_ e dt) s = .next ((s.issuing e dt w).modEngine e (fun x => { x.jump 1 with drain := .ending })) := by
  refine congrArg Host.Outcome.next ((darvy_issues h hop _).trans (if_pos ?_))
  rw [issuing_streams, hs]
  rfl

theorem exec_end_fault (hop : dOp w = 0x0C) (hs : (s.engine e).streams ≠ []) :
    exec (.end_ e dt) s = .next ((s.issuing e dt w).engineFail e 4 none) := by
  refine congrArg Host.Outcome.next ((darvy_issues h hop _).trans (if_neg ?_))
  rw [issuing_streams]
  simpa using hs

end

/-- The state of an engine's drain once dt cycles of it have passed. -/
def drainSpent (s : State) (e dt : Nat) : State := s.modEngine e (fun y => y.spend dt)

/-- The state of an acting YIELD with its debt paid. -/
def drainPaid (s : State) (e dt : Nat) : State := (drainSpent s e dt).payDebt e

/-- An engine that begins a new slice after its YIELD (17 R421). -/
def newSlice (s : State) (e : Nat) (y : Engine) : Engine :=
  { y.endSlice with drain := .none, slice := 0, overCounted := false, rest := s.stackRests (e / 256) }

theorem drainSpent_engine : (drainSpent s e dt).engine e = (s.engine e).spend dt := modEngine_engine_same _ _ _

theorem drainSpent_engine_ne {k : Nat} (h : k ≠ e.val) : (drainSpent s e dt).engine k = s.engine k := modEngine_engine_ne _ _ _ _ h

theorem drain_over (hn : (s.engine e).slice + dt < 65536) (hz : ((s.engine e).spend dt).drained = true) :
    ¬ (65536 ≤ ((drainSpent s e dt).engine e).slice ∨ (!((drainSpent s e dt).engine e).drained) = true) := by
  rw [drainSpent_engine, hz]
  rintro (h | h)
  · exact absurd h (Nat.not_le.mpr hn)
  · cases h

variable (hm : (s.engine e).mode = .running) (hf : (s.engine e).failing = none) (hs : (s.engine e).slice < 65536)

include hm hf hs

theorem exec_drain_goes {i : Drain × Instr} (hi : i ∈ [(Drain.yielding, Instr.yieldAct e dt), (Drain.ending, Instr.runEnd e dt)])
    (hd : (s.engine e).drain = i.1) (hgo : 65536 ≤ (s.engine e).slice + dt ∨ ((s.engine e).spend dt).drained = false) :
    exec i.2 s = .next (drainSpent s e dt) := by
  have going : 65536 ≤ ((drainSpent s e dt).engine e).slice ∨ (!((drainSpent s e dt).engine e).drained) = true := by
    rw [drainSpent_engine]
    exact hgo.imp id (by simp)
  simp only [List.mem_cons, List.not_mem_nil, or_false] at hi
  rcases hi with rfl | rfl
  · exact congrArg Host.Outcome.next ((if_pos ⟨hm, hd, hf, hs⟩).trans (if_pos going))
  · exact congrArg Host.Outcome.next ((if_pos ⟨hm, hd, hf, hs⟩).trans (if_pos going))

variable (hn : (s.engine e).slice + dt < 65536) (hz : ((s.engine e).spend dt).drained = true)

include hn hz

theorem exec_yieldAct (hd : (s.engine e).drain = .yielding) : exec (.yieldAct e dt) s =
    .next (if (s.engine e).pendSuspend = true then (drainPaid s e dt).suspendNow e
      else if s.surplus e = true then (drainPaid s e dt).withdraw e else (drainPaid s e dt).modEngine e (newSlice s e)) :=
  congrArg Host.Outcome.next ((if_pos ⟨hm, hd, hf, hs⟩).trans (if_neg (drain_over hn hz)))

theorem exec_runEnd (hd : (s.engine e).drain = .ending) : exec (.runEnd e dt) s =
    .next (((((drainSpent s e dt).modEngine e Engine.toIdle).answerPacket (e.val / 256) (s.engine e).src (s.engine e).tag 0 []).payDebt e).levelOff
      (e.val / 256)) :=
  congrArg Host.Outcome.next ((if_pos ⟨hm, hd, hf, hs⟩).trans (if_neg (drain_over hn hz)))

end

/-! ### The end of a drain -/

section

variable {s : State} {e : EngineId} {dt : Nat}

theorem drainPaid_only : Only [.stackTab, .engines] s (drainPaid s e dt) :=
  only_payDebt (within_sub (by decide) (within_refl _)) _ (only_modEngine (within_sub (by decide) (within_refl _)) _ _ (only_refl _ s))

theorem drainPaid_engine : (drainPaid s e dt).engine e = (s.engine e).spend dt := (payDebt_engine _ _).trans drainSpent_engine

theorem drainPaid_engine_ne {k : Nat} (h : k ≠ e.val) : (drainPaid s e dt).engine k = s.engine k :=
  (payDebt_engine _ _).trans (drainSpent_engine_ne h)

theorem drainPaid_debt {k : Nat} (hk : k < 4) : (drainPaid s e dt).debtOf (4 * e + k) = 0 := by
  unfold drainPaid
  rw [payDebt_debtOf, if_pos (by omega)]

theorem drainPaid_startQ (st k : Nat) : (drainPaid s e dt).startQ st k = s.startQ st k := payDebt_startQ _ _ _

theorem drainPaid_goesOn : goesOn (drainPaid s e dt) e = goesOn s e := by
  have spare : ((drainPaid s e dt).stack (e / 256)).spare = (s.stack (e / 256)).spare := payDebt_spare _ _
  unfold goesOn
  rw [spare, drainPaid_only.same .sec (by simp)]

/-- The state of an engine that an acting YIELD suspends. -/
def drainSuspended (s : State) (e dt : Nat) : State := (drainPaid s e dt).modEngine e Engine.toSuspended

theorem drainSuspended_only : Only [.stackTab, .engines] s (drainSuspended s e dt) :=
  only_modEngine (within_sub (by decide) (within_refl _)) _ _ drainPaid_only

theorem drainSuspended_engine : (drainSuspended s e dt).engine e = ((s.engine e).spend dt).toSuspended := by
  unfold drainSuspended
  rw [modEngine_engine_same, drainPaid_engine]

theorem drainSuspended_engine_ne {k : Nat} (h : k ≠ e.val) : (drainSuspended s e dt).engine k = s.engine k :=
  (modEngine_engine_ne _ _ _ _ h).trans (drainPaid_engine_ne h)

theorem drainSuspended_debt {k : Nat} (hk : k < 4) : (drainSuspended s e dt).debtOf (4 * e + k) = 0 := by
  unfold drainSuspended
  rw [modEngine_debtOf, drainPaid_debt hk]

theorem drainPaid_suspendNow_held (h : goesOn s e = true) :
    (drainPaid s e dt).suspendNow e = State.resumeOne (s.engine e).src (drainSuspended s e dt) e := by
  rw [suspendNow_held (by rw [drainPaid_goesOn, h]), drainPaid_engine]
  rfl

theorem drainPaid_suspendNow_free (h : goesOn s e = false) : (drainPaid s e dt).suspendNow e = drainSuspended s e dt :=
  suspendNow_free (by rw [drainPaid_goesOn, h])

end

/-! ### Faults of an engine (06 R186, R187) -/

section

variable {s : State} {e : EngineId}

theorem standingFault_of {code : Nat} {line : Option Nat} (h : (s.engine e).failing = some (code, line) ∨
    ((s.engine e).failing = none ∧ s.canIssue e = true ∧ s.fetchAt e = .inr code ∧ line = none)) :
    s.standingFault e = some (code, line) := by
  unfold State.standingFault
  rcases h with h | ⟨hf, hc, hi, rfl⟩
  · rw [h]
  · rw [hf]
    dsimp only
    rw [if_pos hc, hi]

/-- The engine of a fault, before firmware hears of it. -/
def engineFaulted (s : State) (e code : Nat) (line : Option Nat) : State :=
  ((((s.unqueue e).modEngine e (fun y => { y.toIdle with mode := .faulted, fault := code })).payDebt e).answerPacket (e / 256) (s.engine e).src
    (s.engine e).tag code [BitVec.ofNat 64 (s.engine e).pc, BitVec.ofNat 64 (line.getD 0)]).levelOff (e / 256)

/-- A failed seal of a partition's run. -/
def sealHeard (s : State) (p pln : Nat) : State :=
  match s.parcelAt p pln with
  | some i => s.addCause p (.failedSeal i)
  | none => s.modPart p (fun y => { y with faultDue := true })

/-- What a fault is to the partition of its run: a cause of abandonment for a failed seal in a parcel, and else one of its jobs' faults. -/
def faultHeard (s : State) (src : PacketSource) (code : Nat) (line : Option Nat) : State :=
  match code, line, src with
  | 5, some pln, .partition p => sealHeard s p pln
  | _, _, .partition p => s.modPart p.val (fun y => { y with faultDue := true })
  | _, _, .firmware => s

theorem exec_bankEngineFault {code : Nat} {line : Option Nat} (h : s.standingFault e = some (code, line)) :
    exec (.bankEngineFault e) s = .next (faultHeard (engineFaulted s e code line) (s.engine e).src code line) := by
  show execBankEngineFault e s = _
  unfold execBankEngineFault
  rw [h]
  unfold faultHeard sealHeard engineFaulted
  rfl

theorem faultHeard_only (src : PacketSource) (code : Nat) (line : Option Nat) : Only [.parts] s (faultHeard s src code line) := by
  unfold faultHeard
  split
  · unfold sealHeard
    split
    · exact only_addCause (within_refl _) _ _ (only_refl _ s)
    · exact only_modPart (within_refl _) _ _ (only_refl _ s)
  · exact only_modPart (within_refl _) _ _ (only_refl _ s)
  · exact only_refl _ s

theorem faultHeard_due (p : PartId) {code : Nat} (line : Option Nat) (h : code ≠ 5) :
    ((faultHeard s (.partition p) code line).part p).faultDue = true := by
  unfold faultHeard
  split
  · exact absurd rfl h
  · next heq => rw [PacketSource.partition.inj heq, modPart_part_same]
  · next heq => cases heq

theorem faultHeard_seal (p : PartId) (pln : Nat) {i : Nat} (h : s.parcelAt p pln = some i) :
    .failedSeal i ∈ ((faultHeard s (.partition p) 5 (some pln)).round p).causes := by
  have heard : faultHeard s (.partition p) 5 (some pln) = s.addCause p (.failedSeal i) := by
    show sealHeard s p pln = _
    unfold sealHeard
    rw [h]
  rw [heard]
  unfold State.addCause
  rw [modRound_round_same]
  dsimp only
  split
  · next hc => exact List.elem_iff.mp hc
  · simp

theorem faultHeard_unsealed (p : PartId) (pln : Nat) (h : s.parcelAt p pln = none) :
    ((faultHeard s (.partition p) 5 (some pln)).part p).faultDue = true := by
  have heard : faultHeard s (.partition p) 5 (some pln) = s.modPart p (fun y => { y with faultDue := true }) := by
    show sealHeard s p pln = _
    unfold sealHeard
    rw [h]
  rw [heard, modPart_part_same]

variable {code : Nat} {line : Option Nat}

theorem engineFaulted_only : Only [.out, .intr, .stackTab, .engines] s (engineFaulted s e code line) :=
  only_levelOff (within_sub (by decide) (within_refl _)) _ (only_answerPacket (within_sub (by decide) (within_refl _)) _ _ _ _ _
    (only_payDebt (within_sub (by decide) (within_refl _)) _ (only_modEngine (within_sub (by decide) (within_refl _)) _ _
      (only_unqueue (within_sub (by decide) (within_refl _)) _ (only_refl _ s)))))

theorem levelOff_engines (t : State) (k : Nat) : (t.levelOff k).engines = t.engines :=
  (only_levelOff (within_refl _) k (only_refl _ t)).same .engines (by simp)

theorem levelOff_out (t : State) (k : Nat) : (t.levelOff k).out = t.out :=
  (only_levelOff (within_refl _) k (only_refl _ t)).same .out (by simp)

theorem engineFaulted_engine : (engineFaulted s e code line).engine e =
    { (s.engine e).toIdle with mode := .faulted, fault := code } := by
  unfold engineFaulted
  rw [engine_of_engines (levelOff_engines _ _), answerPacket_engine, payDebt_engine, modEngine_engine_same]
  rfl

theorem engineFaulted_engine_ne {k : Nat} (h : k ≠ e.val) : (engineFaulted s e code line).engine k = s.engine k := by
  unfold engineFaulted
  rw [engine_of_engines (levelOff_engines _ _), answerPacket_engine, payDebt_engine, modEngine_engine_ne _ _ _ _ h]
  rfl

theorem engineFaulted_out : (engineFaulted s e code line).out = s.out ++
    [.status (e.val / 256) (s.engine e).src (s.engine e).tag code [BitVec.ofNat 64 (s.engine e).pc, BitVec.ofNat 64 (line.getD 0)]] := by
  unfold engineFaulted
  rw [levelOff_out, answerPacket_out]
  rfl

theorem engineFaulted_debt {k : Nat} (h : k < 4) : (engineFaulted s e code line).debtOf (4 * e + k) = 0 := by
  unfold engineFaulted
  rw [levelOff_debtOf, answerPacket_debtOf, payDebt_debtOf, if_pos (by omega)]

/-- The state of a run that has ended. -/
def runEnded (s : State) (e dt : Nat) : State :=
  ((((drainSpent s e dt).modEngine e Engine.toIdle).answerPacket (e / 256) (s.engine e).src (s.engine e).tag 0 []).payDebt e).levelOff (e / 256)

variable {dt : Nat}

theorem runEnded_only : Only [.out, .intr, .stackTab, .engines] s (runEnded s e dt) :=
  only_levelOff (within_sub (by decide) (within_refl _)) _ (only_payDebt (within_sub (by decide) (within_refl _)) _
    (only_answerPacket (within_sub (by decide) (within_refl _)) _ _ _ _ _ (only_modEngine (within_sub (by decide) (within_refl _)) _ _
      (only_modEngine (within_sub (by decide) (within_refl _)) _ _ (only_refl _ s)))))

theorem runEnded_engine : (runEnded s e dt).engine e = ((s.engine e).spend dt).toIdle := by
  unfold runEnded
  rw [engine_of_engines (levelOff_engines _ _), payDebt_engine, answerPacket_engine, modEngine_engine_same, drainSpent_engine]

theorem runEnded_engine_ne {k : Nat} (h : k ≠ e.val) : (runEnded s e dt).engine k = s.engine k := by
  unfold runEnded
  rw [engine_of_engines (levelOff_engines _ _), payDebt_engine, answerPacket_engine, modEngine_engine_ne _ _ _ _ h, drainSpent_engine_ne h]

theorem runEnded_out : (runEnded s e dt).out = s.out ++ [.status (e.val / 256) (s.engine e).src (s.engine e).tag 0 []] := by
  unfold runEnded
  rw [levelOff_out, show ∀ t : State, (t.payDebt e).out = t.out from fun t => (only_payDebt (within_refl _) e (only_refl _ t)).same .out (by simp),
    answerPacket_out]
  rfl

theorem runEnded_debt {k : Nat} (h : k < 4) : (runEnded s e dt).debtOf (4 * e + k) = 0 := by
  unfold runEnded
  rw [levelOff_debtOf, payDebt_debtOf, if_pos (by omega)]

theorem runEnded_line : ((runEnded s e dt).icLine (e.val / 256)).pending = true :=
  levelOff_line _ _ (answerPacket_line ..)

end

section

variable {s : State} {e : EngineId} {dt : Nat}

/-- What an acting YIELD does once its drain is over (06 R182). -/
def YieldActed (s : State) (e : EngineId) (dt : Nat) (t : State) : Prop :=
  let x := s.engine e
  let z := x.spend dt
  let held := s.sec.loading = true ∨
    ((s.stack (e.val / 256)).spare.holding = true ∧ e.val % 256 / 16 = (s.stack (e.val / 256)).spare.replaced)
  (∀ k, k < 4 → t.debtOf (4 * e + k) = 0) ∧
    (x.pendSuspend = true → ¬ held → t.engine e = z.toSuspended) ∧
    (x.pendSuspend = true → held → ∃ u : State, (∀ k, k ≠ e.val → u.engine k = s.engine k) ∧ u.sec = s.sec ∧
      u.memory = s.memory ∧ u.engine e = z.toSuspended ∧ t = State.resumeOne x.src u e) ∧
    (x.pendSuspend = false → s.surplus e = true → (t.engine e).mode = .queued ∧ (t.engine e).permit = false ∧
      (t.engine e).resume = true ∧ (t.engine e).pc = x.pc ∧ (t.engine e).x = x.x ∧
      t.startQ (e.val / 256) (pcOfEngine e) = e.val :: s.startQ (e.val / 256) (pcOfEngine e)) ∧
    (x.pendSuspend = false → s.surplus e = false → t.engine e =
      { z.endSlice with drain := .none, slice := 0, overCounted := false, rest := s.stackRests (e.val / 256) }) ∧
    (∀ k, k ≠ e.val → t.engine k = s.engine k) ∧ t.mem = s.mem ∧ t.out = s.out

theorem yieldActed_held (hp : (s.engine e).pendSuspend = true) (hg : goesOn s e = true) :
    YieldActed s e dt (State.resumeOne (s.engine e).src (drainSuspended s e dt) e) := by
  have frame := only_resumeOne (within_refl _) (s.engine e).src e (drainSuspended_only (s := s) (e := e) (dt := dt))
  unfold YieldActed
  dsimp only
  rw [← goesOn_iff, hp]
  refine ⟨fun k hk => (resumeOne_debtOf _ _ _).trans (drainSuspended_debt hk), fun _ hn => absurd hg hn,
    fun _ _ => ⟨_, fun k hk => drainSuspended_engine_ne hk, drainSuspended_only.same .sec (by simp),
      drainSuspended_only.same .memory (by simp), drainSuspended_engine, rfl⟩, by simp, by simp,
    fun k hk => (resumeOne_engine_ne _ (Ne.symm hk)).trans (drainSuspended_engine_ne hk), frame.same .mem (by simp), frame.same .out (by simp)⟩

theorem yieldActed_suspended (hp : (s.engine e).pendSuspend = true) (hg : goesOn s e = false) : YieldActed s e dt (drainSuspended s e dt) := by
  unfold YieldActed
  dsimp only
  rw [← goesOn_iff, hp]
  exact ⟨fun k hk => drainSuspended_debt hk, fun _ _ => drainSuspended_engine, fun _ h => absurd h (by simp [hg]), by simp, by simp,
    fun k hk => drainSuspended_engine_ne hk, drainSuspended_only.same .mem (by simp), drainSuspended_only.same .out (by simp)⟩

theorem spend_endSlice_pc {x : Engine} : ((x.spend dt).endSlice).pc = x.pc := rfl

theorem spend_endSlice_x {x : Engine} : ((x.spend dt).endSlice).x = x.x := rfl

theorem yieldActed_withdrawn (hp : (s.engine e).pendSuspend = false) (hq : s.surplus e = true) :
    YieldActed s e dt ((drainPaid s e dt).withdraw e) := by
  have frame := only_withdraw (within_refl _) e (drainPaid_only (s := s) (e := e) (dt := dt))
  have engine := drainPaid_engine (s := s) (e := e) (dt := dt)
  unfold YieldActed
  dsimp only
  rw [hp, hq, withdraw_engine, withdraw_startQ, drainPaid_startQ, engine]
  exact ⟨fun k hk => (withdraw_debtOf _ _).trans (drainPaid_debt hk), by simp, by simp, fun _ _ => ⟨rfl, rfl, rfl, spend_endSlice_pc (x := s.engine e)
      (dt := dt), spend_endSlice_x (x := s.engine e) (dt := dt), rfl⟩, by simp,
    fun k hk => (withdraw_engine_ne hk).trans (drainPaid_engine_ne hk), frame.same .mem (by simp), frame.same .out (by simp)⟩

theorem yieldActed_going (hp : (s.engine e).pendSuspend = false) (hq : s.surplus e = false) :
    YieldActed s e dt ((drainPaid s e dt).modEngine e (newSlice s e)) := by
  have frame : Only [.stackTab, .engines] s ((drainPaid s e dt).modEngine e (newSlice s e)) :=
    only_modEngine (within_sub (by decide) (within_refl _)) e _ drainPaid_only
  have engine := drainPaid_engine (s := s) (e := e) (dt := dt)
  unfold YieldActed
  dsimp only
  rw [hp, hq, modEngine_engine_same, engine]
  exact ⟨fun k hk => (modEngine_debtOf _ _ _).trans (drainPaid_debt hk), by simp, by simp, by simp, fun _ _ => rfl,
    fun k hk => (modEngine_engine_ne _ _ _ _ hk).trans (drainPaid_engine_ne hk), frame.same .mem (by simp), frame.same .out (by simp)⟩

theorem yieldAct_completes (hm : (s.engine e).mode = .running) (hf : (s.engine e).failing = none) (hs : (s.engine e).slice < 65536)
    (hn : (s.engine e).slice + dt < 65536) (hz : ((s.engine e).spend dt).drained = true) (hd : (s.engine e).drain = .yielding) :
    Completes (.yieldAct e dt) s (YieldActed s e dt) := by
  refine completes_next (exec_yieldAct hm hf hs hn hz hd) ?_
  cases hp : (s.engine e).pendSuspend with
  | true =>
    cases hg : goesOn s e with
    | true => exact (drainPaid_suspendNow_held (dt := dt) hg).symm ▸ yieldActed_held hp hg
    | false => exact (drainPaid_suspendNow_free (dt := dt) hg).symm ▸ yieldActed_suspended hp hg
  | false =>
    cases hq : s.surplus e with
    | true => exact yieldActed_withdrawn hp hq
    | false => exact yieldActed_going hp hq

end

/-- Settles O21: drains by their cause, and each end of a run or slice by its one change. -/
theorem enginesYieldEndOverrunAndFault : Obligations.EnginesYieldEndOverrunAndFault := by
  unfold Obligations.EnginesYieldEndOverrunAndFault
  refine ⟨fun e dt s w => ⟨fun h => ⟨fun hop ha => ?_, fun hop ha hs => ?_, fun hop ha hs => ?_, fun hop hs => ?_, fun hop hs => ?_⟩,
    fun hm hf hs hn hz => ⟨fun hd => ?_, fun hd => ?_⟩, fun hm hf hs hgo i hi hd => ?_⟩, fun e s => ⟨fun hm hl hc => ?_, fun hm hl hf => ?_,
      fun hr => ?_, fun code line h => ?_⟩⟩
  · refine issued_engine (exec_yield_idle h hop ha) ?_
    rw [issuing_unitless (by rw [hop]; rfl)]
    rfl
  · refine issued_engine (exec_yield_drains h hop ha hs) ?_
    rw [issuing_unitless (by rw [hop]; rfl)]
    rfl
  · exact fails_engineFail (exec_yield_fault h hop ha hs)
  · refine issued_engine (exec_end_drains h hop hs) ?_
    rw [issuing_unitless (by rw [hop]; rfl)]
    rfl
  · exact fails_engineFail (exec_end_fault h hop hs)
  · exact yieldAct_completes hm hf hs hn hz hd
  · refine completes_next (exec_runEnd hm hf hs hn hz hd) ⟨runEnded_engine, ?_, ?_, runEnded_out, runEnded_line, fun k hk => runEnded_debt hk,
      fun k hk => runEnded_engine_ne hk, runEnded_only.same .mem (by simp)⟩
    · exact congrArg Engine.permit runEnded_engine
    · exact congrArg Engine.mode runEnded_engine
  · exact completes_next (exec_drain_goes hm hf hs hi hd hgo) ⟨onlyEngine_mod (onlyEngine_refl e s) _, drainSpent_engine⟩
  · refine completes_next (congrArg Host.Outcome.next (if_pos ⟨hm, hl, by simp [hc]⟩)) ⟨onlyEngine_mod (onlyEngine_refl e s) _, ?_⟩
    exact modEngine_engine_same _ _ _
  · refine completes_next (congrArg Host.Outcome.next (if_pos ⟨hm, hl, hf⟩)) ⟨onlyEngine_mod (onlyEngine_refl e s) _, ?_⟩
    exact modEngine_engine_same _ _ _
  · refine completes_next (congrArg Host.Outcome.next (if_pos hr)) ⟨onlyEngine_mod (onlyEngine_refl e s) _, ?_⟩
    exact modEngine_engine_same _ _ _
  · have heard := faultHeard_only (s := engineFaulted s e code line) (s.engine e).src code line
    have engine (k : Nat) := engine_of_engines (heard.same .engines (by simp)) k
    have stack := heard.same .stackTab (by simp)
    refine completes_next (exec_bankEngineFault (standingFault_of h)) ⟨?_, ?_, ?_, ?_, ?_, fun k hk => ?_, fun k hk => ?_, ?_, fun p hp hc => ?_,
      fun p pln hp hc hl => ⟨fun i hi => ?_, fun hi => ?_⟩⟩
    · rw [engine, engineFaulted_engine]
    · rw [engine, engineFaulted_engine]
    · rw [engine, engineFaulted_engine]
      rfl
    · rw [engine, engineFaulted_engine]
      rfl
    · rw [show State.out _ = _ from heard.same .out (by simp), engineFaulted_out]
    · exact (debtOf_of_stackTab stack _).trans (engineFaulted_debt hk)
    · rw [engine, engineFaulted_engine_ne hk]
    · exact (heard.same .mem (by simp)).trans (engineFaulted_only.same .mem (by simp))
    · rw [hp]
      exact faultHeard_due p line hc
    · rw [hp, hc, hl]
      exact faultHeard_seal p pln ((parcelAt_of_parts (engineFaulted_only.same .parts (by simp)) p pln).trans hi)
    · rw [hp, hc, hl]
      exact faultHeard_unsealed p pln ((parcelAt_of_parts (engineFaulted_only.same .parts (by simp)) p pln).trans hi)

end Sys2Proof.Proofs
end

section
/-! PROOF of vector, attention and line instructions (06 R172 to R181) -/

namespace Sys2Proof.Proofs
open Sys2Proof Sys2Proof.Machine Sys2Proof.Laws

/-! ### Query tables and the accumulator file (06 R177) -/

theorem chunks_length {α : Type} (k n : Nat) (l : List α) : (chunks k n l).length ≤ n := by
  induction n generalizing l with
  | zero => exact Nat.le_refl 0
  | succ n ih =>
    unfold chunks
    split
    · exact Nat.zero_le _
    · exact Nat.succ_le_succ (ih _)

theorem queryTable_length {ws l : List W32} (h : queryTable ws = some l) : l.length ≤ ws.length := by
  unfold queryTable at h
  dsimp only at h
  split at h
  · rw [← Option.some.inj h]
    exact List.length_take_le' _ _
  · cases h

theorem bufF32_length (x : Engine) (unit n : Nat) : (x.bufF32 unit n).length ≤ n := by
  unfold Engine.bufF32
  rw [List.length_map]
  exact chunks_length _ _ _

theorem tab_get_map_same (l : List Nat) (v : W32) {i : Nat} (h : i ∈ l) :
    Tab.get (fun _ => 0) (l.map (fun i => (130 * i, v))) (130 * i) = v := by
  induction l with
  | nil => cases h
  | cons a l ih =>
    rw [List.map_cons, Tab.get]
    split
    · rfl
    · next hne => exact ih (((List.mem_cons.mp h).resolve_left fun h => hne (by rw [h])))

theorem tab_get_map_between (l : List Nat) (v : W32) (i : Nat) {k : Nat} (h1 : 1 ≤ k) (h2 : k < 130) :
    Tab.get (fun _ => 0) (l.map (fun i => (130 * i, v))) (130 * i + k) = 0 := by
  induction l with
  | nil => rfl
  | cons a l ih =>
    rw [List.map_cons, Tab.get, if_neg (by omega)]
    exact ih

section

variable {s : State} {e : EngineId} {dt : Nat} {w : W64}

/-- A query table that passes R177 is loaded. -/
def queryLoaded (w : W64) (l : List W32) (x : Engine) : Engine :=
  ({ x with table := l, tableUnit := dU w, acc := accReset, factor := [] }.setX (dD w) (BitVec.ofNat 32 l.length)).jump 1

theorem queryLoaded_eq (l : List W32) (x : Engine) : queryLoaded w l x = { x with
    table := l, tableUnit := dU w, acc := accReset, factor := [], x := (x.setX (dD w) (BitVec.ofNat 32 l.length)).x,
    pc := (((x.pc : Int) + 1) % 65536).toNat } := by
  unfold queryLoaded Engine.setX
  split <;> rfl

theorem queryLoaded_xreg (l : List W32) (x : Engine) (r : Nat) :
    (queryLoaded w l x).xreg r = (x.setX (dD w) (BitVec.ofNat 32 l.length)).xreg r := by
  rw [queryLoaded_eq]
  rfl

theorem queryLoaded_accAt (l : List W32) (x : Engine) {i : Nat} (hi : i < 32) : (queryLoaded w l x).accAt i 0 = 0xFF800000#32 ∧
    ∀ k, 1 ≤ k → k < 130 → (queryLoaded w l x).accAt i k = 0 := by
  rw [queryLoaded_eq]
  exact ⟨tab_get_map_same _ _ (List.mem_range.mpr hi), fun k h1 h2 => tab_get_map_between _ _ i h1 h2⟩

variable (h : Issues s e dt w)

include h

theorem exec_qset {l : List W32} (hop : dOp w = 0x10) (hl : queryTable (((s.engine e).issuing dt w).bufF32 (dU w) 32) = some l)
    (hu : dU w + 1 + l.length ≤ 256) : exec (.qset e dt) s = .next ((s.issuing e dt w).modEngine e (queryLoaded w l)) := by
  refine congrArg Host.Outcome.next ((darvy_issues h hop _).trans ?_)
  rw [issuing_engine, hl]
  exact if_neg (by omega)

theorem exec_qset_fault (hop : dOp w = 0x10)
    (hl : ∀ l, queryTable (((s.engine e).issuing dt w).bufF32 (dU w) 32) = some l → 256 < dU w + 1 + l.length) :
    exec (.qset e dt) s = .next ((s.issuing e dt w).engineFail e 3 none) := by
  refine congrArg Host.Outcome.next ((darvy_issues h hop _).trans ?_)
  rw [issuing_engine]
  split
  · rfl
  · next l hq => exact if_pos (hl l hq)

/-! ### Streams, scores and values (06 R175, R178, R179) -/

theorem exec_scan {r : Nat} (hop : dOp w = 0x11) (hr : ((s.engine e).issuing dt w).cr w = some r) : exec (.scan e dt) s =
    .next ((s.issuing e dt w).modEngine e (fun x =>
      { x.jump 1 with streams := x.streams ++ [{ reg := r, line := (x.xreg (dA w)).toNat, left := dImm w }] })) := by
  refine congrArg Host.Outcome.next ((darvy_issues h hop _).trans ?_)
  dsimp only
  rw [issuing_engine, hr]

theorem exec_scan_fault (hop : dOp w = 0x11) (hr : ((s.engine e).issuing dt w).cr w = none) :
    exec (.scan e dt) s = .next ((s.issuing e dt w).engineFail e 2 none) := by
  refine congrArg Host.Outcome.next ((darvy_issues h hop _).trans ?_)
  dsimp only
  rw [issuing_engine, hr]

/-- The scores of a half written for its beats. -/
def scored (z : Engine) (w : W64) (ks : List (List Byte)) (y : Engine) : Engine :=
  let y := ks.zipIdx.foldl (fun y k => y.setScores (dHalf w) k.2 (((List.range z.n).map (fun k => e4m3s (z.bufBytes (z.tableUnit + 1 + k) 128))).map
    (fun q => score q (e4m3s k.1)))) y
  { y.jump 1 with block := Tab.set (fun _ => (0, 0, 0)) y.block (dHalf w) (dBeats w, z.xreg (dA w), z.xreg (dB w)) }

theorem exec_dot {u : State} {ks : List (List Byte)} (hop : dOp w = 0x12) (hb : (s.issuing e dt w).beats e (dBeats w) = (u, .inl ks)) :
    exec (.dot e dt) s = .next (u.modEngine e (scored ((s.engine e).issuing dt w) w ks)) := by
  refine congrArg Host.Outcome.next ((darvy_issues h hop _).trans ?_)
  dsimp only
  rw [hb, issuing_engine]
  rfl

theorem exec_dot_fault {u : State} {f : Nat × Option Nat} (hop : dOp w = 0x12) (hb : (s.issuing e dt w).beats e (dBeats w) = (u, .inr f)) :
    exec (.dot e dt) s = .next (u.engineFail e f.1 f.2) := by
  refine congrArg Host.Outcome.next ((darvy_issues h hop _).trans ?_)
  dsimp only
  rw [hb]

theorem exec_accv {u : State} {vs : List (List Byte)} (hop : dOp w = 0x14) (hb : (s.issuing e dt w).beats e (dBeats w) = (u, .inl vs)) :
    exec (.accv e dt) s = .next (u.modEngine e (fun x => (x.accv (dHalf w) (x.xreg (dA w)) (vs.map e4m3s)).jump 1)) := by
  refine congrArg Host.Outcome.next ((darvy_issues h hop _).trans ?_)
  rw [hb]

theorem exec_accv_fault {u : State} {f : Nat × Option Nat} (hop : dOp w = 0x14) (hb : (s.issuing e dt w).beats e (dBeats w) = (u, .inr f)) :
    exec (.accv e dt) s = .next (u.engineFail e f.1 f.2) := by
  refine congrArg Host.Outcome.next ((darvy_issues h hop _).trans ?_)
  rw [hb]

omit h in
theorem expm_pc (x : Engine) (half : Nat) (mult : W32) : (x.expm half mult).pc = x.pc := by
  unfold Engine.expm
  dsimp only
  refine foldl_keeps Engine.pc _ ?_ _ x
  exact fun _ _ => rfl

theorem exec_expm (hop : dOp w = 0x13) : exec (.expm e dt) s =
    .next ((s.issuing e dt w).modEngine e (fun x => (x.expm (dHalf w) (x.xreg (dA w))).jump 1)) :=
  congrArg Host.Outcome.next (darvy_issues h hop _)

/-! ### EMIT (06 R180) -/

theorem exec_emit_unconsumed (hop : dOp w = 0x1F) (hz : ((s.engine e).issuing dt w).fresh ≠ 0) :
    exec (.emit e dt) s = .next ((s.issuing e dt w).engineFail e 4 none) := by
  refine congrArg Host.Outcome.next ((darvy_issues h hop _).trans ?_)
  dsimp only
  rw [issuing_engine, if_pos hz]

theorem exec_emit_guard (hop : dOp w = 0x1F) (hz : ((s.engine e).issuing dt w).fresh = 0) (hr : ((s.engine e).issuing dt w).cr w = none) :
    exec (.emit e dt) s = .next ((s.issuing e dt w).engineFail e 2 none) := by
  refine congrArg Host.Outcome.next ((darvy_issues h hop _).trans ?_)
  dsimp only
  rw [issuing_engine, if_neg (not_not_intro hz), hr]

/-- What becomes of an EMIT once the merge unit has answered, t the state of its issue. -/
def emitted (t : State) (e : Nat) : Taken → State
  | .taken u => u.advance e
  | .stalls => (t.modEngine e (fun y => y.leave 2)).useFree
  | .fault u => u.engineFail e 7 none

theorem exec_emit {r : Nat} (hop : dOp w = 0x1F) (hz : ((s.engine e).issuing dt w).fresh = 0) (hr : ((s.engine e).issuing dt w).cr w = some r) :
    exec (.emit e dt) s = .next (emitted (s.issuing e dt w) e ((s.issuing e dt w).emitAllOf e (((s.engine e).issuing dt w).creg r)
      (setBits 4 (((s.engine e).issuing dt w).xreg (dA w)).toNat))) := by
  refine congrArg Host.Outcome.next ((darvy_issues h hop _).trans ?_)
  dsimp only
  rw [issuing_engine, if_neg (not_not_intro hz), hr]
  dsimp only
  split <;> next hu => rw [hu]; rfl

end

/-- What an EMIT's partials leave alone. -/
theorem emitAllOf_taken_only {s u : State} {e : Nat} {c : W64} {l : List Nat} (h : s.emitAllOf e c l = .taken u) :
    Only [.free, .out, .stackTab, .intr] s u := by
  have frame := only_emitAllOf (within_refl _) e c l (only_refl _ s)
  rw [h] at frame
  exact frame

theorem emitAllOf_fault_only {s u : State} {e : Nat} {c : W64} {l : List Nat} (h : s.emitAllOf e c l = .fault u) :
    Only [.free, .out, .stackTab, .intr] s u := by
  have frame := only_emitAllOf (within_refl _) e c l (only_refl _ s)
  rw [h] at frame
  exact frame

/-! ### Lane operations and line transfers (06 R172, R176, R181) -/

section

variable {s : State} {e : EngineId} {dt : Nat} {w : W64} (h : Issues s e dt w)

/-- What a lane operation does: its result where the unit ranges stay within the buffer, and else a buffer fault. -/
def Lane (s : State) (e : EngineId) (dt : Nat) (w : W64) (i : Instr) (op v : Nat) (y : Engine) : Prop :=
  dOp w = op →
    (dU w + bufUnits (4 * (((s.engine e).issuing dt w).xreg (dB w)).toNat) ≤ 256 → dImm w % 256 + bufUnits v ≤ 256 →
      Completes i s (fun t => OnlyEngine e s t ∧ t.mem = s.mem ∧
        t.engine e = { y with pc := (((((s.engine e).issuing dt w).pc : Nat) : Int) + 1) % 65536 |>.toNat })) ∧
    (256 < dU w + bufUnits (4 * (((s.engine e).issuing dt w).xreg (dB w)).toNat) ∨ 256 < dImm w % 256 + bufUnits v →
      Completes i s (Fails e dt w 3 none s))

include h

theorem lane_laneOp {i : Instr} {op v : Nat} {y : Engine} {vBytes : Engine → W64 → Nat} {f : Engine → W64 → Engine}
    (run : exec i s = .next (s.laneOp e op dt vBytes f)) (hv : vBytes ((s.engine e).issuing dt w) w = v)
    (hy : f ((s.engine e).issuing dt w) w = y) (hpc : y.pc = ((s.engine e).issuing dt w).pc) : Lane s e dt w i op v y := by
  intro hop
  have run' := run.trans (congrArg Host.Outcome.next (darvy_issues h hop _))
  dsimp only at run'
  rw [issuing_engine, hv] at run'
  refine ⟨fun hu hv => ?_, fun hover => ?_⟩
  · rw [if_pos] at run'
    · refine completes_next run' ⟨onlyEngine_mod onlyEngine_issuing _, onlyEngine_mem (onlyEngine_mod onlyEngine_issuing _), ?_⟩
      rw [modEngine_engine_same, issuing_engine, hy]
      unfold Engine.jump
      rw [hpc]
    · unfold bufFits
      exact Bool.and_eq_true_iff.mpr ⟨decide_eq_true hu, decide_eq_true hv⟩
  · rw [if_neg] at run'
    · exact fails_engineFail run'
    · unfold bufFits
      intro fits
      obtain ⟨hu, hv⟩ := Bool.and_eq_true_iff.mp fits
      exact hover.elim (Nat.not_lt.mpr (of_decide_eq_true hu)) (Nat.not_lt.mpr (of_decide_eq_true hv))

end

/-- A stored range and its outcome: the next instruction, or the fault of the line that was refused. -/
def storeEnded (e : Nat) : State × Option (Nat × Option Nat) → State
  | (u, none) => u.advance e
  | (u, some f) => u.engineFail e f.1 f.2

/-- A fetched range and its outcome: the lines in the buffer, or a fault. -/
def fetchEnded (e : Nat) (w : W64) : State × (List Byte ⊕ (Nat × Option Nat)) → State
  | (u, .inl bs) => u.modEngine e (fun y => (y.setBuf (dU w) bs).jump 1)
  | (u, .inr f) => u.engineFail e f.1 f.2

/-- An instruction on lines checks its buffer range and its command register, and then acts (R172). -/
def lineChecked (e units : Nat) (g : State → Engine → Nat → State) (t : State) (w : W64) : State :=
  if !bufFits (dU w) units then t.engineFail e 3 none
  else match (t.engine e).cr w with
    | none => t.engineFail e 2 none
    | some r => g t (t.engine e) r

section

variable {s : State} {e : EngineId} {dt : Nat} {w : W64}

theorem lineChecked_completes {i : Instr} {bytes : Nat} {g : State → Engine → Nat → State}
    (run : exec i s = .next (lineChecked e bytes g (s.issuing e dt w) w)) :
    (256 < dU w + bufUnits bytes → Completes i s (Fails e dt w 3 none s)) ∧
    (dU w + bufUnits bytes ≤ 256 → ((s.engine e).issuing dt w).cr w = none → Completes i s (Fails e dt w 2 none s)) ∧
    (dU w + bufUnits bytes ≤ 256 → ∀ r, ((s.engine e).issuing dt w).cr w = some r →
      exec i s = .next (g (s.issuing e dt w) ((s.engine e).issuing dt w) r)) := by
  unfold lineChecked bufFits at run
  rw [issuing_engine] at run
  refine ⟨fun hu => ?_, fun hu hr => ?_, fun hu r hr => ?_⟩
  · rw [if_pos (by simpa using hu)] at run
    exact fails_engineFail run
  · rw [if_neg (by simpa using hu), hr] at run
    exact fails_engineFail run
  · rw [if_neg (by simpa using hu), hr] at run
    exact run

theorem storeLines_only {near : Bool} {r off : Nat} {ls : List (List Byte)} {u : State} {f : Option (Nat × Option Nat)}
    (hs : s.storeLines e r off near ls = (u, f)) : Only [.mem] s u := by
  have frame := only_storeLines (within_refl _) e r off near ls (only_refl _ s)
  rw [hs] at frame
  exact frame

/-- What a store of lines does with each outcome of its range. -/
theorem stores_completes {i : Instr} {r off : Nat} {near : Bool} {ls : List (List Byte)}
    (run : exec i s = .next (storeEnded e ((s.issuing e dt w).storeLines e r off near ls))) (u : State) (f : Option (Nat × Option Nat))
    (hs : (s.issuing e dt w).storeLines e r off near ls = (u, f)) :
    Completes i s (fun t => t.mem = u.mem ∧ (∀ k, k ≠ e.val → t.engine k = s.engine k) ∧
      (f = none → t.engine e = { (s.engine e).issuing dt w with pc := (((((s.engine e).issuing dt w).pc : Int) + 1) % 65536).toNat }) ∧
      (∀ c, f = some c → t.engine e = { (s.engine e).issuing dt w with failing := some c })) := by
  have engines := (storeLines_only hs).same .engines (by simp)
  have engine : u.engine e = (s.engine e).issuing dt w := (engine_of_engines engines _).trans issuing_engine
  have others (k : Nat) (hk : k ≠ e.val) : u.engine k = s.engine k := (engine_of_engines engines _).trans (issuing_engine_ne hk)
  rw [hs] at run
  cases f with
  | none =>
    refine completes_next run ⟨rfl, fun k hk => (modEngine_engine_ne _ _ _ _ hk).trans (others k hk), fun _ => ?_, by simp⟩
    exact (modEngine_engine_same _ _ _).trans (by rw [engine]; rfl)
  | some c =>
    refine completes_next run ⟨rfl, fun k hk => (modEngine_engine_ne _ _ _ _ hk).trans (others k hk), by simp, fun d hd => ?_⟩
    rw [← Option.some.inj hd]
    exact (modEngine_engine_same _ _ _).trans (by rw [engine])

variable (h : Issues s e dt w)

include h

theorem exec_append (hop : dOp w = 0x1A) : exec (.append e dt) s = .next (lineChecked e 512 (fun t x r => storeEnded e
    (t.storeLines e r ((if dImm w = 0 then 0 else 512) + 2 * (x.xreg (dA w)).toNat) true (chunks 64 2
      ((x.bufF32 (dU w) 128).map (fun v => BitVec.ofNat 8 (narrow .e4m3 (mulEx (ex32 v) (ex32 (x.xreg (dB w)))))))))) (s.issuing e dt w) w) :=
  congrArg Host.Outcome.next (darvy_issues h hop _)

theorem exec_fetch (hop : dOp w = 0x1C) : exec (.fetch e dt) s = .next (lineChecked e (64 * dImm w) (fun t x r => fetchEnded e w
    (t.fetchLines e r (x.xreg (dA w)).toNat false (dImm w))) (s.issuing e dt w) w) :=
  congrArg Host.Outcome.next (darvy_issues h hop _)

/-- The lines of an STL or a WRL. -/
def storedRange (e : Nat) (near : Bool) (w : W64) (t : State) (x : Engine) (r : Nat) : State :=
  storeEnded e (t.storeLines e r (x.xreg (dA w)).toNat near (chunks 64 (dImm w) (x.bufBytes (dU w) (64 * dImm w))))

theorem exec_stl (hop : dOp w = 0x1D) : exec (.stl e dt) s = .next (lineChecked e (64 * dImm w) (storedRange e false w) (s.issuing e dt w) w) :=
  congrArg Host.Outcome.next (darvy_issues h hop _)

theorem exec_wrl (hop : dOp w = 0x1E) : exec (.wrl e dt) s = .next (lineChecked e (64 * dImm w) (storedRange e true w) (s.issuing e dt w) w) :=
  congrArg Host.Outcome.next (darvy_issues h hop _)

end

/-- Settles O22: each instruction issues, and its result or its fault is read off its one match. -/
theorem engineVectorInstructions : Obligations.EngineVectorInstructions := by
  unfold Obligations.EngineVectorInstructions
  refine ⟨fun e dt s w h => ?_, fun e dt s w h => ?_⟩
  · have met {i : Instr} {u : State} {f : Nat × Option Nat} (run : exec i s = .next (u.engineFail e f.1 f.2)) :
        Completes i s (fun t => t.mem = u.mem ∧ t.memory = u.memory ∧ (∀ k, k ≠ e.val → t.engine k = u.engine k) ∧
          t.engine e = { u.engine e with failing := some f }) :=
      completes_next run ⟨rfl, rfl, fun k hk => modEngine_engine_ne _ _ _ _ hk, modEngine_engine_same _ _ _⟩
    have engine (f : Engine → Engine) : ((s.issuing e dt w).modEngine e f).engine e = f ((s.engine e).issuing dt w) := by
      rw [modEngine_engine_same, issuing_engine]
    have only (f : Engine → Engine) : OnlyEngine e s ((s.issuing e dt w).modEngine e f) := onlyEngine_mod onlyEngine_issuing f
    refine ⟨fun hop l hl hu => ?_, fun hop hl => fails_engineFail (exec_qset_fault h hop hl), fun hop r hr => ?_,
      fun hop hr => fails_engineFail (exec_scan_fault h hop hr), fun hop => ⟨fun u ks hb => ?_, fun u f hb => met (exec_dot_fault h hop hb)⟩,
      fun hop => ?_, fun hop => ⟨fun u vs hb => ?_, fun u f hb => met (exec_accv_fault h hop hb)⟩,
      fun hop hz => fails_engineFail (exec_emit_unconsumed h hop hz), fun hop hz hr => fails_engineFail (exec_emit_guard h hop hz hr),
      fun hop hz r hr => ⟨fun u hu => ?_, fun u hu => ?_, fun hu => ?_⟩⟩
    · refine completes_next (exec_qset h hop hl hu) ⟨only _, onlyEngine_mem (only _), ?_⟩
      rw [engine]
      refine ⟨by rw [queryLoaded_eq], by rw [queryLoaded_eq], (queryTable_length hl).trans (bufF32_length _ _ _), ?_, fun r hr => ?_,
        fun i hi => queryLoaded_accAt _ _ hi, fun k i => by rw [queryLoaded_eq]; rfl, by rw [queryLoaded_eq], by rw [queryLoaded_eq],
        by rw [queryLoaded_eq], by rw [queryLoaded_eq], by rw [queryLoaded_eq], by rw [queryLoaded_eq], by rw [queryLoaded_eq]⟩
      · rw [queryLoaded_xreg, setX_xreg_same]
      · rw [queryLoaded_xreg, setX_xreg_ne _ hr]
    · refine completes_next (exec_scan h hop hr) ⟨only _, onlyEngine_mem (only _), ?_⟩
      rw [engine]
      rfl
    · refine completes_next (exec_dot h hop hb) ⟨rfl, rfl, fun k hk => modEngine_engine_ne _ _ _ _ hk, ?_⟩
      rw [modEngine_engine_same]
      unfold scored
      simp only [List.map_map]
      rfl
    · refine completes_next (exec_expm h hop) ⟨only _, onlyEngine_mem (only _), ?_⟩
      rw [engine]
      unfold Engine.jump
      rw [expm_pc]
    · refine completes_next (exec_accv h hop hb) ⟨rfl, rfl, fun k hk => modEngine_engine_ne _ _ _ _ hk, ?_⟩
      rw [modEngine_engine_same]
    · have run := exec_emit h hop hz hr
      rw [hu] at run
      have frame := emitAllOf_taken_only hu
      have engines := engine_of_engines (frame.same .engines (by simp))
      refine completes_next run ⟨rfl, frame.same .mem (by simp), ?_, fun k hk => ?_⟩
      · exact (modEngine_engine_same _ _ _).trans (by rw [engines, issuing_engine]; rfl)
      · exact (modEngine_engine_ne _ _ _ _ hk).trans ((engines k).trans (issuing_engine_ne hk))
    · have run := exec_emit h hop hz hr
      rw [hu] at run
      have frame := emitAllOf_fault_only hu
      have engines := engine_of_engines (frame.same .engines (by simp))
      refine completes_next run ⟨rfl, rfl, frame.same .mem (by simp), ?_, fun k hk => ?_⟩
      · exact (modEngine_engine_same _ _ _).trans (by rw [engines, issuing_engine])
      · exact (modEngine_engine_ne _ _ _ _ hk).trans ((engines k).trans (issuing_engine_ne hk))
    · have run := exec_emit h hop hz hr
      rw [hu] at run
      refine completes_next run ⟨rfl, rfl, ?_, fun k hk => ?_⟩
      · exact (modEngine_engine_same (s.issuing e dt w) e (fun y => y.leave 2)).trans (by rw [issuing_engine])
      · exact (modEngine_engine_ne (s.issuing e dt w) e (fun y => y.leave 2) _ hk).trans (issuing_engine_ne hk)
  · refine ⟨lane_laneOp h rfl rfl rfl rfl, lane_laneOp h rfl rfl rfl rfl, lane_laneOp h rfl rfl rfl (by rw [setX_eq]), lane_laneOp h rfl rfl rfl rfl,
      lane_laneOp h rfl rfl rfl rfl,
      fun hop => ?_, fun hop => ?_, fun hop => ?_, fun hop => ?_⟩
    · obtain ⟨outside, guarded, acts⟩ := lineChecked_completes (exec_append h hop)
      exact ⟨outside, guarded, fun hu r hr => stores_completes (acts hu r hr)⟩
    · obtain ⟨outside, guarded, acts⟩ := lineChecked_completes (exec_fetch h hop)
      refine ⟨outside, guarded, fun hu r hr => ⟨fun u bs hf => ?_, fun u f hf => ?_⟩⟩
      · have run := acts hu r hr
        rw [hf] at run
        exact completes_next run ⟨rfl, modEngine_engine_same _ _ _, fun k hk => modEngine_engine_ne _ _ _ _ hk⟩
      · have run := acts hu r hr
        rw [hf] at run
        exact completes_next run ⟨rfl, modEngine_engine_same _ _ _, fun k hk => modEngine_engine_ne _ _ _ _ hk⟩
    · obtain ⟨outside, guarded, acts⟩ := lineChecked_completes (exec_stl h hop)
      exact ⟨outside, guarded, fun hu r hr => stores_completes (acts hu r hr)⟩
    · obtain ⟨outside, guarded, acts⟩ := lineChecked_completes (exec_wrl h hop)
      exact ⟨outside, guarded, fun hu r hr => stores_completes (acts hu r hr)⟩

end Sys2Proof.Proofs
end

section
/-! PROOF of sheets and layer packets (07 R201; 08 R233 to R240) -/

namespace Sys2Proof.Proofs
open Sys2Proof Sys2Proof.Machine Sys2Proof.Laws

/-! ### What shows of a partition when its round's entries change -/

section

variable {β : Type} {v : Part → β} (s : State) (p : Nat)

/-- v shows nothing of the round's entries. -/
def Entryless (v : Part → β) : Prop := ∀ x m, v { x with round := { x.round with entries := m } } = v x

/-- v shows nothing of the sequences to fetch back. -/
def Fetchless (v : Part → β) : Prop := ∀ x l, v { x with round := { x.round with fetchBack := l } } = v x

variable (he : Entryless v)

include he

theorem view_setSeq (i : Nat) (e : Option RoundEntry) : partsView v (s.setSeq p i e) = partsView v s := view_modPart s p (he _ _)

theorem view_modSeq (i : Nat) (f : RoundEntry → RoundEntry) : partsView v (s.modSeq p i f) = partsView v s := by
  unfold State.modSeq
  split
  · exact view_setSeq s p he _ _
  · rfl

variable (hf : Fetchless v)

include hf

theorem view_wake (i : Nat) : partsView v (s.wake p i) = partsView v s := by
  unfold State.wake
  split
  · rfl
  · next e _ =>
    have woken := view_setSeq s p he i (some { e with state := e.activeState })
    split
    · exact (view_modPart _ p (hf _ _)).trans woken
    · exact woken

theorem view_promote : partsView v (s.promote p) = partsView v s := by
  unfold State.promote
  refine foldl_keeps (partsView v) _ (fun t q => ?_) _ s
  dsimp only
  split
  · split
    · exact (view_wake _ p he hf _).trans (view_modSeq _ p he _ _)
    · exact view_modSeq _ p he _ _
  · rfl

theorem view_pauseResume : partsView v (s.pauseResume p) = partsView v s := by
  unfold State.pauseResume
  dsimp only
  split
  · refine foldl_keeps (partsView v) _ (fun t q => ?_) _ s
    split
    · exact view_modSeq _ p he _ _
    · rfl
  · refine foldl_keeps (fun a : State × Comp × Bool => partsView v a.1) _ (fun a q => ?_) _ _
    split
    · rfl
    · split
      · exact view_wake _ p he hf _
      · rfl

end

/-! ### Building a sheet (07 R201; 08 R233, R236) -/

section

variable {s : State} {p : PartId}

/-- The registers' budgets taken, promotions and pauses made: the state in which a sheet is composed. -/
def composing (s : State) (p : Nat) : State := ((s.takeBudgets p).promote p).pauseResume p

/-- What a build composes. -/
def composed (t : State) (p : Nat) : Comp := t.composeBe p (t.composeLc p)

/-- The state in which a build begins: a journaled partition refills its budgets (19 R456). -/
def refilled (s : State) (p : Nat) : State := if s.journaled p then s.refillBudgets p else s

section

variable {m : Model} (hm : ((refilled s p).round p).model = some m) (hi : (composed (composing (refilled s p) p) p).items ≠ [])

include hm hi

theorem composeSheet_written {w : State}
    (hw : (composing (refilled s p) p).writeSheet p m (composed (composing (refilled s p) p) p) = .inl w) : s.composeSheet p = w := by
  have hn : (composed (composing (refilled s p) p) p).items.isEmpty = false := by simpa using hi
  unfold composed composing at hn hw
  unfold refilled at hm hn hw
  unfold State.composeSheet
  simp only [hm, hn, hw, Bool.false_and, Bool.false_eq_true, if_false]

theorem composeSheet_full {st : Nat}
    (hw : (composing (refilled s p) p).writeSheet p m (composed (composing (refilled s p) p) p) = .inr st) :
    s.composeSheet p = (refilled s p).modRound p (fun r => { r with allocWait := some st }) := by
  have hn : (composed (composing (refilled s p) p) p).items.isEmpty = false := by simpa using hi
  unfold composed composing at hn hw
  unfold refilled at hm hn hw ⊢
  unfold State.composeSheet
  simp only [hm, hn, hw, Bool.false_and, Bool.false_eq_true, if_false]

end

/-- With nothing composed and nothing left off, the budgets and weights of the last sheet return. -/
theorem composeSheet_empty {m : Model} (hm : ((refilled s p).round p).model = some m)
    (hi : (composed (composing (refilled s p) p) p).items = []) (he : ((composing (refilled s p) p).round p).excluded = []) :
    s.composeSheet p = (composing (refilled s p) p).modRound p (fun r =>
      { r with budgets := ((refilled s p).round p).budgets, beWeights := ((refilled s p).round p).beWeights }) := by
  unfold composed composing at hi
  unfold composing at he
  unfold refilled at hm hi he
  unfold State.composeSheet composing refilled
  simp only [hm, hi, he, List.isEmpty_nil, Bool.not_true, Bool.and_false, Bool.false_eq_true, if_false, if_true]

theorem composing_only : Only [.parts] s (composing s p) :=
  only_pauseResume (within_refl _) p (only_promote (within_refl _) p (only_takeBudgets (within_refl _) p (only_refl _ s)))

theorem refilled_only : Only [.parts, .buckets, .time] s (refilled s p) := by
  unfold refilled
  split
  · exact only_refillBudgets (within_refl _) p (only_refl _ s)
  · exact only_refl _ s

/-- A build's preparation shows nothing in what is none of the budgets, the entries and the buckets. -/
theorem view_refilled {β : Type} {v : Part → β} (hb : ∀ x b, v { x with round := { x.round with buckets := b } } = v x) :
    partsView v (refilled s p) = partsView v s := by
  unfold refilled
  split
  · unfold State.refillBudgets
    dsimp only
    split
    · rfl
    · exact foldl_keeps (partsView v) _ (fun t n => view_modPart t p (hb _ _)) _ _
  · rfl

theorem view_composing {β : Type} {v : Part → β} (he : Entryless v) (hf : Fetchless v)
    (ht : ∀ x b w, v { x with round := { x.round with budgets := b, beWeights := w } } = v x) :
    partsView v (composing s p) = partsView v s :=
  (view_pauseResume _ p he hf).trans ((view_promote _ p he hf).trans (view_modPart s p (ht _ _ _)))

/-! ### A read of firmware's tables that passes (log 70) -/

theorem fwRead_false {u : State} (h : s.fwRead p = (u, false)) : u = s ∨ u = s.useFree := by
  unfold State.fwRead at h
  split at h
  · exact .inl (Prod.mk.inj h).1.symm
  · split at h
    · cases (Prod.mk.inj h).2
    · exact .inr (Prod.mk.inj h).1.symm

theorem fwRead_only {u : State} (h : s.fwRead p = (u, false)) : Only [.free] s u := by
  rcases fwRead_false h with rfl | rfl
  · exact only_refl _ _
  · exact only_useFree (within_refl _) (only_refl _ s)

section

variable (hm : s.mayBuild p = true) (hr : s.replaying p = false)

theorem mayBuild_sheet (hm : s.mayBuild p = true) : (s.round p).sheet = none := by
  unfold State.mayBuild at hm
  simp only [Bool.and_eq_true] at hm
  obtain ⟨⟨⟨⟨-, none⟩, -⟩, -⟩, -⟩ := hm
  exact Option.isNone_iff_eq_none.mp none

theorem checkedBuild_read {u : State} (h : s.fwRead p = (u, true)) : s.checkedBuild p = u := by
  unfold State.checkedBuild
  rw [h]

include hr

theorem checkedBuild_composes {u : State} (h : s.fwRead p = (u, false)) : s.checkedBuild p = u.composeSheet p := by
  have parts := (fwRead_only h).same .parts (by simp)
  have live : u.replaying p = false := by
    unfold State.replaying at hr ⊢
    rw [part_of_parts parts, hr]
  unfold State.checkedBuild
  rw [h]
  exact buildSheet_live u p live

include hm

theorem exec_routeSheetBuild (ha : (s.round p).allocWait = none) : exec (.routeSheetBuild p) s = .next (s.checkedBuild p) := by
  refine congrArg Host.Outcome.next ((if_pos ?_).trans (replayGuard_live s _ p hr))
  rw [hm, ha]
  rfl

theorem exec_parcelAllocationResume {st : Nat} (ha : (s.round p).allocWait = some st) (hf : 0 < s.freeSlots p st) :
    exec (.parcelAllocationResume p) s = .next ((s.modRound p (fun r => { r with allocWait := none })).checkedBuild p) := by
  show execParcelAllocationResume p s = _
  unfold execParcelAllocationResume
  rw [ha]
  dsimp only
  rw [if_pos (by rw [hm, decide_eq_true hf]; rfl), replayGuard_live s _ p hr]

end

/-! ### Layer packets (08 R240) -/

theorem sendPackets_only (st : Nat) (ps : List Packet) : Only [.out, .parts] s (s.sendPackets p st ps) :=
  only_emitAll (within_sub (by decide) (within_refl _)) _ (only_modRound (within_sub (by decide) (within_refl _)) _ _ (only_refl _ s))

theorem sendPackets_out (st : Nat) (ps : List Packet) : (s.sendPackets p st ps).out = s.out ++ ps.map (fun k => .packet st k) := rfl

theorem sendPackets_round (st : Nat) (ps : List Packet) : (s.sendPackets p st ps).round p =
    { s.round p with owed := Tab.set (fun _ => 0) (s.round p).owed st ((s.round p).owes st + ps.length) } := by
  show (s.modRound p (fun r => { r with owed := Tab.set (fun _ => 0) r.owed st (r.owes st + ps.length) })).round p = _
  rw [modRound_round_same]

theorem sendPackets_part_ne (st : Nat) (ps : List Packet) {k : Nat} (h : k ≠ p.val) : (s.sendPackets p st ps).part k = s.part k := by
  show (s.modRound p (fun r => { r with owed := Tab.set (fun _ => 0) r.owed st (r.owes st + ps.length) })).part k = _
  rw [modRound_part_ne _ _ _ _ h]

theorem levelOff_stack_ne {st k : Nat} (h : k ≠ st) : (s.levelOff st).stack k = s.stack k := by
  unfold State.levelOff State.levelTo
  split
  · split
    · rw [modStack_stack_ne _ _ _ _ h]
    · rw [latch_stack, modStack_stack_ne _ _ _ _ h, modStack_stack_ne _ _ _ _ h]
  · rfl

section

variable {layer : Nat} {st : StackId} {sh : Sheet} {m : Model} (hs : (s.round p).sheet = some sh) (hm : (s.round p).model = some m)
  (hr : sh.released = true) (ht : s.layerTurn p m sh layer st = true) (hc : (s.round p).causes = [])

/-- The state in which a sheet's list of sent layers is another one. -/
def sheetMarked (s : State) (p : Nat) (sh : Sheet) : State := s.modRound p (fun r => { r with sheet := some sh })

theorem sheetMarked_round (sh : Sheet) : (sheetMarked s p sh).round p = { s.round p with sheet := some sh } := by
  unfold sheetMarked
  rw [modRound_round_same]

theorem sheetMarked_part_ne (sh : Sheet) {k : Nat} (h : k ≠ p.val) : (sheetMarked s p sh).part k = s.part k := modRound_part_ne _ _ _ _ h

theorem sheetMarked_only (sh : Sheet) : Only [.parts] s (sheetMarked s p sh) := only_modRound (within_refl _) _ _ (only_refl _ s)

include hs hm hr ht hc

theorem exec_layerPacketsSend_rapp (hf : s.rappPackets p m sh layer st ≠ []) (hn : (st.val, layer) ∉ sh.rapp) :
    exec (.layerPacketsSend p layer st) s = .next ((sheetMarked s p { sh with rapp := sh.rapp ++ [(st.val, layer)] }).sendPackets p st
      (s.rappPackets p m sh layer st)) := by
  show execLayerPacketsSend p layer st s = _
  unfold execLayerPacketsSend
  rw [hs, hm]
  dsimp only
  rw [if_pos ⟨hr, ht, by rw [hc]; rfl⟩, if_pos (by simpa [List.isEmpty_iff] using And.intro hn hf)]
  rfl

variable (hf : s.rappPackets p m sh layer st = [] ∨ (st.val, layer) ∈ sh.rapp)

include hf

theorem exec_layerPacketsSend {ps : List Packet} (hp : s.layerPackets p m sh.items layer st = some ps) :
    exec (.layerPacketsSend p layer st) s = .next (((sheetMarked s p { sh with sent := sh.sent ++ [(st.val, layer)] }).sendPackets p st
      ps).levelOff st) := by
  show execLayerPacketsSend p layer st s = _
  unfold execLayerPacketsSend
  rw [hs, hm]
  dsimp only
  rw [if_pos ⟨hr, ht, by rw [hc]; rfl⟩, if_neg (by simpa [List.isEmpty_iff, or_iff_not_imp_right] using hf), hp]
  rfl

theorem exec_layerPacketsSend_waits (hp : s.layerPackets p m sh.items layer st = none) :
    exec (.layerPacketsSend p layer st) s = .next s := by
  show execLayerPacketsSend p layer st s = _
  unfold execLayerPacketsSend
  rw [hs, hm]
  dsimp only
  rw [if_pos ⟨hr, ht, by rw [hc]; rfl⟩, if_neg (by simpa [List.isEmpty_iff, or_iff_not_imp_right] using hf), hp]

end

end

section

variable {s u : State} {p : PartId} (hu : s.fwRead p = (u, false))

include hu

theorem refilled_of_read : (if s.journaled p then u.refillBudgets p else u) = refilled u p := by
  have journaled : u.journaled p = s.journaled p := by
    unfold State.journaled State.replaying
    rw [part_of_parts ((fwRead_only hu).same .parts (by simp))]
  unfold refilled
  rw [journaled]

theorem refilled_round_of_read {γ : Type} {w : Round → γ} (hw : ∀ r b, w { r with buckets := b } = w r) :
    w ((refilled u p).round p) = w (s.round p) :=
  (view_at (v := fun x => w x.round) (view_refilled (s := u) (fun _ _ => hw _ _)) p).trans
    (congrArg (fun x : Part => w x.round) (part_of_parts ((fwRead_only hu).same .parts (by simp)) p))

end

/-- Settles O23: a build is its read, its composition and the sheet written from it; a layer's packets leave once. -/
theorem sheetsAreBuiltAndTheirPacketsSent : Obligations.SheetsAreBuiltAndTheirPacketsSent := by
  unfold Obligations.SheetsAreBuiltAndTheirPacketsSent
  refine fun p s => ⟨fun hm hr ha => ⟨fun u hu => ?_, fun u hu m hmodel => ?_⟩,
    fun hm hr st ha hf => ⟨fun u hu => ?_, fun u hu => ?_⟩, fun layer st sh m hs hmodel hr ht hc => ⟨fun hf hn => ?_, fun hf => ⟨fun ps hp => ?_, fun hp => ?_⟩⟩⟩
  · exact completes_next ((exec_routeSheetBuild hm hr ha).trans (congrArg _ (checkedBuild_read hu))) rfl
  · have run := (exec_routeSheetBuild hm hr ha).trans (congrArg _ (checkedBuild_composes hr hu))
    have model : ((refilled u p).round p).model = some m := (refilled_round_of_read hu (fun _ _ => rfl)).trans hmodel
    dsimp only
    rw [refilled_of_read hu]
    refine ⟨fun hi w hw => ?_, fun hi st hw => ?_, fun hi he => ?_⟩
    · exact completes_next (run.trans (congrArg _ (composeSheet_written model hi hw))) rfl
    · refine completes_next (run.trans (congrArg _ (composeSheet_full model hi hw))) ⟨?_, ?_, fun k hk => ?_⟩
      · rw [modRound_round_same]
      · rfl
      · rw [modRound_part_ne _ _ _ _ hk]
    · have sheet : ((composing (refilled u p) p).round p).sheet = (s.round p).sheet :=
        (view_at (v := fun x => x.round.sheet) (view_composing (fun _ _ => rfl) (fun _ _ => rfl) fun _ _ _ => rfl) p).trans
          (refilled_round_of_read hu (w := Round.sheet) (fun _ _ => rfl))
      have frame : Only [.free, .parts, .buckets, .time] s (composing (refilled u p) p) :=
        only_trans (only_widen (by decide) (fwRead_only hu)) (only_trans (only_widen (by decide) refilled_only) (only_widen (by decide) composing_only))
      have budgets := refilled_round_of_read hu (w := Round.budgets) fun _ _ => rfl
      have weights := refilled_round_of_read hu (w := Round.beWeights) fun _ _ => rfl
      have run := run.trans (congrArg _ (composeSheet_empty model hi he))
      rw [budgets, weights] at run
      generalize composing (refilled u p) p = t at run frame sheet
      refine completes_next run ⟨?_, ?_, ?_, frame.same .engines (by simp), frame.same .mem (by simp)⟩
      · rw [modRound_round_same]
        exact sheet.trans (mayBuild_sheet hm)
      · rw [modRound_round_same]
      · rw [modRound_round_same]
  · exact completes_next ((exec_parcelAllocationResume hm hr ha hf).trans (congrArg _ (checkedBuild_read hu))) rfl
  · have live : (s.modRound p (fun r => { r with allocWait := none })).replaying p = false := by
      unfold State.replaying
      rw [modRound_part_same]
      exact hr
    exact completes_next ((exec_parcelAllocationResume hm hr ha hf).trans (congrArg _ (checkedBuild_composes live hu))) rfl
  · have frame := only_trans (only_widen (by decide) (sheetMarked_only { sh with rapp := sh.rapp ++ [(st.val, layer)] }))
      (sendPackets_only (s := sheetMarked s p { sh with rapp := sh.rapp ++ [(st.val, layer)] }) (p := p) st (s.rappPackets p m sh layer st))
    refine completes_next (exec_layerPacketsSend_rapp hs hmodel hr ht hc hf hn) ⟨sendPackets_out _ _, ?_, ?_, frame.same .engines (by simp),
      frame.same .mem (by simp), frame.same .stackTab (by simp), fun k hk => (sendPackets_part_ne _ _ hk).trans (sheetMarked_part_ne _ hk)⟩
    · rw [sendPackets_round, sheetMarked_round]
      exact tab_get_set_same _ _ _ _
    · rw [sendPackets_round, sheetMarked_round]
  · have sent := only_trans (only_widen (by decide) (sheetMarked_only { sh with sent := sh.sent ++ [(st.val, layer)] }))
      (sendPackets_only (s := sheetMarked s p { sh with sent := sh.sent ++ [(st.val, layer)] }) (p := p) st ps)
    have off := only_levelOff (within_refl _) st.val (only_refl _ ((sheetMarked s p { sh with sent := sh.sent ++ [(st.val, layer)] }).sendPackets p st ps))
    have round := (congrArg Part.round (part_of_parts (off.same .parts (by simp)) p)).trans ((sendPackets_round st ps).trans (by rw [sheetMarked_round]))
    refine completes_next (exec_layerPacketsSend hs hmodel hr ht hc hf hp) ⟨?_, ?_, ?_, ?_, ?_, fun k hk => ?_, fun k hk => ?_⟩
    · exact (levelOff_out _ _).trans (sendPackets_out _ _)
    · rw [show State.round _ _ = _ from round]
      exact tab_get_set_same _ _ _ _
    · rw [show State.round _ _ = _ from round]
    · exact (levelOff_engines _ _).trans (sent.same .engines (by simp))
    · exact (off.same .mem (by simp)).trans (sent.same .mem (by simp))
    · rw [levelOff_stack_ne hk]
      rfl
    · exact (part_of_parts (off.same .parts (by simp)) k).trans ((sendPackets_part_ne _ _ hk).trans (sheetMarked_part_ne _ hk))
  · exact completes_next (exec_layerPacketsSend_waits hs hmodel hr ht hc hf hp) rfl

end Sys2Proof.Proofs
end

section
/-! PROOF of requests and their prompts (08 R229) -/

namespace Sys2Proof.Proofs
open Sys2Proof Sys2Proof.Machine Sys2Proof.Laws

/-! ### The other partitions stand -/

/-- Every partition slot but p is as before. -/
def OthersStand (p : Nat) (s t : State) : Prop := ∀ k, k ≠ p → t.part k = s.part k

section

variable {p : Nat} {s t u : State}

theorem othersStand_parts (h : t.parts = s.parts) : OthersStand p s t := fun _ _ => part_of_parts h _

theorem othersStand_trans (h : OthersStand p s t) (g : OthersStand p t u) : OthersStand p s u := fun k hk => (g k hk).trans (h k hk)

theorem othersStand_modPart (f : Part → Part) : OthersStand p s (s.modPart p f) := fun _ hk => modPart_part_ne _ _ _ _ hk

theorem othersStand_host (h : OnlyHost s t) : OthersStand p s t := othersStand_parts (onlyHost_parts h)

theorem othersStand_foldl {α : Type} {f : State → α → State} (h : ∀ u a, OthersStand p u (f u a)) (l : List α) (s : State) :
    OthersStand p s (l.foldl f s) := by
  induction l generalizing s with
  | nil => exact othersStand_parts rfl
  | cons a l ih => exact othersStand_trans (h s a) (ih _)

theorem othersStand_journal (typ : Nat) (body : List Byte) : OthersStand p s (s.journal p typ body) := by
  unfold State.journal
  split
  · exact othersStand_parts rfl
  · split
    · exact othersStand_parts rfl
    · exact othersStand_trans (othersStand_modPart _) (othersStand_foldl (fun u e => othersStand_host (onlyHost_putRing u _ _ e)) _ _)

theorem othersStand_journalTime (purpose : Nat) : OthersStand p s (s.journalTime p purpose) := by
  unfold State.journalTime
  dsimp only
  split
  · exact othersStand_trans (othersStand_journal _ _) (othersStand_parts rfl)
  · exact othersStand_journal _ _

theorem othersStand_answer (fn ring typ status tenant req admitted : Nat) :
    OthersStand p s (s.answer p fn ring typ status tenant req admitted) :=
  othersStand_trans (othersStand_journalTime 4) (othersStand_host (onlyHost_putRing _ _ _ _))

theorem othersStand_setPrefix (i : Nat) (e : Option Prefix) : OthersStand p s (s.setPrefix p i e) := othersStand_modPart _

theorem othersStand_modPrefix (i : Nat) (f : Prefix → Prefix) : OthersStand p s (s.modPrefix p i f) := by
  unfold State.modPrefix
  split
  · exact othersStand_setPrefix _ _
  · exact othersStand_parts rfl

theorem othersStand_freeParcels (is : List Nat) : OthersStand p s (s.freeParcels p is) :=
  othersStand_foldl (fun _ _ => othersStand_trans (othersStand_modPart _) (othersStand_modPart _)) is s

theorem othersStand_unshare (is : List Nat) : OthersStand p s (s.unshare p is) := by
  refine othersStand_foldl (fun u i => ?_) is s
  split
  · exact othersStand_freeParcels _
  · exact othersStand_modPart _

theorem othersStand_evict (k : Nat) : OthersStand p s (s.evict p k) := by
  unfold State.evict
  split
  · exact othersStand_parts rfl
  · exact othersStand_trans (othersStand_unshare _) (othersStand_setPrefix _ _)

end

/-! ### A request's turn (08 R229; 11 R302) -/

section

variable {s : State} {fn r : Nat} {types : Nat → Bool} {d : Line}

theorem requestHead_some (h : s.requestHead fn r types = some d) : fn ≠ 0 ∧ s.works (fn - 1) = true ∧ types (lineNat d 0 1) = true := by
  unfold State.requestHead at h
  split at h
  · cases h
  · next hc =>
    push Not at hc
    obtain ⟨h0, -, hw⟩ := hc
    refine ⟨h0, by simpa using hw, ?_⟩
    split at h
    · split at h
      · next ht => exact (Option.some.inj h) ▸ ht
      · cases h
    · cases h

theorem works_linkGood {p : Nat} (h : s.works p = true) : s.linkGood = true := (Bool.and_eq_true_iff.mp h).2

theorem othersStand_popRequest : OthersStand (fn - 1) s (s.popRequest fn r) :=
  othersStand_trans (t := s.popFetched fn r) (othersStand_parts rfl) (othersStand_modPart _)

/-- v shows nothing of whose turn it is among the request rings. -/
def Turnless {β : Type} (v : Part → β) : Prop := ∀ x n, v { x with round := { x.round with ringTurn := n } } = v x

variable {β : Type} {v : Part → β} (ht : Turnless v) (hq : Seqless v)

include ht

theorem view_popRequest : partsView v (s.popRequest fn r) = partsView v s := view_modPart (s.popFetched fn r) (fn - 1) (ht _ _)

include hq

theorem view_acted (st : Nat) : partsView v (s.acted fn r d st) = partsView v s :=
  (view_answer _ _ hq _ _ _ _ _ _ _).trans (view_popRequest ht)

end

/-! ### SUBMIT (08 R229) -/

section

variable {s : State} {fn : FnId} {r : RingId} {d : Line}

/-- The types of a descriptor that SUBMIT takes: its own, and those that are no type. -/
def submitTypes (t : Nat) : Bool := t == 1 || t == 0 || decide (4 < t)

/-- The state of a request whose turn has come. -/
def taken (s : State) (fn r : Nat) : State := (s.popRequest fn r).journalTime (fn - 1) 3

/-- The admission of a request. -/
def admitted (s : State) (fn : FnId) (r : RingId) (d : Line) : Admission :=
  { fn := fn, ring := r, desc := d, admittedAt := s.roundNow (fn - 1) }

/-- The state of a request that is admitted, before its prompt is asked for. -/
def admission (s : State) (fn : FnId) (r : RingId) (d : Line) : State :=
  (taken s fn r).modRound (fn - 1) (fun x => { x with admitting := x.admitting ++ [admitted s fn r d] })

theorem taken_only (s : State) (fn r : Nat) : Only [.free, .out, .unsent, .parts, .fns, .buckets] s (taken s fn r) :=
  only_journalTime (within_refl _) _ _ (only_popRequest (within_sub (by decide) (within_refl _)) _ _ (only_refl _ s))

theorem view_taken {β : Type} {v : Part → β} (ht : Turnless v) (hq : Seqless v) : partsView v (taken s fn r) = partsView v s :=
  (view_journalTime _ _ hq _).trans (view_popRequest ht)

theorem taken_ringTurn : ((taken s fn r).round (fn.val - 1)).ringTurn = (r.val + 1) % 16 := by
  refine (view_at (v := fun x => x.round.ringTurn) (view_journalTime (s.popRequest fn r) (fn.val - 1) (fun _ _ => rfl) 3) _).trans ?_
  exact congrArg Round.ringTurn (modRound_round_same (s.popFetched fn r) _ _)

theorem taken_linkGood : (taken s fn r).linkGood = s.linkGood := by
  unfold State.linkGood
  rw [(taken_only s fn r).same .module (by simp)]

section

variable (hd : s.requestHead fn r submitTypes = some d)

include hd

theorem exec_submit_admits (ht : lineNat d 0 1 = 1) (hr : s.submitRefusal fn d = none)
    (hj : s.journalRoom (fn.val - 1) (s.promptEntries fn d) = true) : exec (.submit fn r) s =
      .next (if s.replaying (fn.val - 1) then admission s fn r d else (admission s fn r d).hostRead fn (qAddr d) (4 * qLen d)) := by
  show execSubmit fn r s = _
  unfold execSubmit
  rw [show s.requestHead fn r (fun t => t == 1 || t == 0 || decide (4 < t)) = some d from hd]
  dsimp only
  rw [if_pos ht, hr]
  dsimp only
  rw [hj]
  rfl

theorem exec_submit_waits (ht : lineNat d 0 1 = 1) (hr : s.submitRefusal fn d = none)
    (hj : s.journalRoom (fn.val - 1) (s.promptEntries fn d) = false) : exec (.submit fn r) s = .next s := by
  show execSubmit fn r s = _
  unfold execSubmit
  rw [show s.requestHead fn r (fun t => t == 1 || t == 0 || decide (4 < t)) = some d from hd]
  dsimp only
  rw [if_pos ht, hr]
  dsimp only
  rw [hj]
  rfl

theorem exec_submit_refused {st : Nat} (ht : lineNat d 0 1 = 1) (hr : s.submitRefusal fn d = some st) : exec (.submit fn r) s =
    .next ((taken s fn r).answer (fn.val - 1) fn (if s.requestClass fn (qComplRing d) then qComplRing d else s.complRing fn r) 1 st
      (qTenant d) (qRequest d) (s.roundNow (fn.val - 1)).toNat) := by
  show execSubmit fn r s = _
  unfold execSubmit
  rw [show s.requestHead fn r (fun t => t == 1 || t == 0 || decide (4 < t)) = some d from hd]
  dsimp only
  rw [if_pos ht, hr]
  simp only [ht, beq_self_eq_true, Bool.and_true]
  rfl

theorem exec_submit_other (ht : lineNat d 0 1 ≠ 1) : exec (.submit fn r) s =
    .next ((taken s fn r).answer (fn.val - 1) fn (s.complRing fn r) (lineNat d 0 1) 0x15 (qTenant d) (qRequest d)
      (s.roundNow (fn.val - 1)).toNat) := by
  show execSubmit fn r s = _
  unfold execSubmit
  rw [show s.requestHead fn r (fun t => t == 1 || t == 0 || decide (4 < t)) = some d from hd]
  dsimp only
  rw [if_neg ht]
  simp only [ht, beq_iff_eq, Bool.and_eq_true, and_false, if_false]
  rfl

end

theorem admission_only : Only [.free, .out, .unsent, .parts, .fns, .buckets] s (admission s fn r d) :=
  only_modRound (within_sub (by decide) (within_refl _)) _ _ (taken_only s fn r)

theorem admission_round : (admission s fn r d).round (fn.val - 1) = { (taken s fn r).round (fn.val - 1) with
    admitting := ((taken s fn r).round (fn.val - 1)).admitting ++ [admitted s fn r d] } := by
  unfold admission
  rw [modRound_round_same]

theorem admission_linkGood : (admission s fn r d).linkGood = s.linkGood := taken_linkGood

end

/-- What an answered request leaves of its partition's round. -/
theorem answered {β : Type} {v : Part → β} (ht : Turnless v) (hq : Seqless v) (fn : FnId) (r : RingId) (s : State) (g ring typ status tenant req time : Nat) :
    v (((taken s fn r).answer (fn.val - 1) g ring typ status tenant req time).part (fn.val - 1)) = v (s.part (fn.val - 1)) := by
  have answer := view_answer (v := v) (taken s fn r) (fn.val - 1) hq g ring typ status tenant req time
  have turn := view_taken (s := s) (fn := fn) (r := r) ht hq
  exact (view_at answer (fn.val - 1)).trans (view_at turn (fn.val - 1))

/-! ### Prompts (08 R229) -/

section

variable {s : State} {p : PartId} {req : W32} {a : Admission}

/-- The state in which a fetched prompt has left the admissions. -/
def promptTaken (s : State) (p : Nat) (req : W32) : State :=
  s.modRound p (fun r => { r with admitting := r.admitting.filter (fun b => lineNat b.desc 4 4 != req.toNat) })

theorem promptTaken_round : (promptTaken s p req).round p =
    { s.round p with admitting := (s.round p).admitting.filter (fun b => lineNat b.desc 4 4 != req.toNat) } := by
  unfold promptTaken
  rw [modRound_round_same]

/-- The answer to an admission whose prompt is no good. -/
def promptRefused (u : State) (p : Nat) (a : Admission) (st : Nat) : State :=
  u.answer p a.fn (qComplRing a.desc) 1 st (qTenant a.desc) (qRequest a.desc) a.admittedAt.toNat

/-- The journal's record of a prompt (11 R309). -/
def promptJournaled (s : State) (p : Nat) (req : W32) (a : Admission) (toks : List W32) : State :=
  (promptTaken s p req).journal p 0x04
    (toBytes 4 req.toNat ++ toBytes 4 (qLen a.desc) ++ toBytes 32 0 ++ toks.flatMap (fun x => toBytes 4 x.toNat))

theorem promptJournaled_round {γ : Type} (w : Round → γ) (toks : List W32) :
    w ((promptJournaled s p req a toks).round p) = w ((promptTaken s p req).round p) :=
  view_at (v := fun x => w x.round) (view_journal (promptTaken s p req) p.val (fun _ _ => rfl) _ _) p

theorem promptJournaled_only (toks : List W32) :
    Only [.free, .out, .unsent, .parts, .fns, .buckets] s (promptJournaled s p req a toks) :=
  only_journal (within_sub (by decide) (within_refl _)) _ _ _ (only_modRound (within_sub (by decide) (within_refl _)) _ _ (only_refl _ s))

theorem promptJournaled_mem (toks : List W32) : (promptJournaled s p req a toks).mem = s.mem := (promptJournaled_only toks).same .mem (by simp)

/-- What a refused prompt leaves. -/
def PromptRefused (s : State) (p : PartId) (req : W32) (a : Admission) (st : Nat) (t : State) : Prop :=
  (t.round p).entries = (s.round p).entries ∧ (∀ b, b ∈ (t.round p).admitting → lineNat b.desc 4 4 ≠ req.toNat) ∧ t.mem = s.mem ∧
    ∃ u : State, (u.round p).entries = (s.round p).entries ∧
      t = u.answer p a.fn (qComplRing a.desc) 1 st (qTenant a.desc) (qRequest a.desc) a.admittedAt.toNat

theorem promptRefused_of {u : State} (hu : u.round p = (promptTaken s p req).round p) (hm : u.mem = s.mem) (st : Nat) :
    PromptRefused s p req a st (promptRefused u p a st) := by
  have round : (promptRefused u p a st).round p = u.round p :=
    view_at (v := Part.round) (view_answer u p.val (fun _ _ => rfl) _ _ _ _ _ _ _) p
  have mem : (promptRefused u p a st).mem = u.mem := (only_answer (within_refl _) _ _ _ _ _ _ _ _ (only_refl _ u)).same .mem (by simp)
  refine ⟨?_, fun b hb => ?_, mem.trans hm, u, ?_, rfl⟩
  · rw [round, hu, promptTaken_round]
  · rw [round, hu, promptTaken_round] at hb
    simpa using (List.mem_filter.mp hb).2
  · rw [hu, promptTaken_round]

variable (ha : (s.round p).admitting.find? (fun a => lineNat a.desc 4 4 == req.toNat) = some a)

include ha

theorem exec_prompt_failed : exec (.promptFetchComplete p req none) s =
    .next (promptRefused ((promptTaken s p req).journal p 0x08 (toBytes 4 2 ++ toBytes 4 a.ring)) p a 0x18) := by
  show execPromptFetchComplete p req none s = _
  unfold execPromptFetchComplete
  rw [ha]
  rfl

theorem exec_prompt_short {toks : List W32} (hl : toks.length ≠ qLen a.desc) : exec (.promptFetchComplete p req (some toks)) s =
    .next (promptRefused (promptTaken s p req) p a 0x18) := by
  show execPromptFetchComplete p req (some toks) s = _
  unfold execPromptFetchComplete
  rw [ha]
  dsimp only
  rw [if_pos hl]
  rfl

variable {m : Model} {toks : List W32} (hm : (s.round p).model = some m) (hl : toks.length = qLen a.desc)

include hm hl

theorem exec_prompt_foreign (ht : ∃ x, x ∈ toks ∧ m.vocab ≤ x.toNat) : exec (.promptFetchComplete p req (some toks)) s =
    .next (promptRefused (promptJournaled s p req a toks) p a 0x16) := by
  show execPromptFetchComplete p req (some toks) s = _
  unfold execPromptFetchComplete
  rw [ha]
  dsimp only
  rw [if_neg (not_not_intro hl), hm, if_pos (List.any_eq_true.mpr (by simpa using ht))]
  rfl

variable (ht : ∀ x, x ∈ toks → x.toNat < m.vocab)

include ht

theorem exec_prompt_full (hi : (List.range (s.part p).applied.roundEntries).find? (fun i => (s.seqAt p i).isNone) = none) :
    exec (.promptFetchComplete p req (some toks)) s = .next (promptRefused (promptJournaled s p req a toks) p a 0x17) := by
  show execPromptFetchComplete p req (some toks) s = _
  unfold execPromptFetchComplete
  rw [ha]
  dsimp only
  rw [if_neg (not_not_intro hl), hm, if_neg (by simpa using ht), hi]
  rfl

theorem exec_prompt_enters {i : Nat} (hi : (List.range (s.part p).applied.roundEntries).find? (fun i => (s.seqAt p i).isNone) = some i) :
    exec (.promptFetchComplete p req (some toks)) s =
      .next ((promptJournaled s p req a toks).enterRound p i a.desc toks (newEntry a toks)) := by
  show execPromptFetchComplete p req (some toks) s = _
  unfold execPromptFetchComplete
  rw [ha]
  dsimp only
  rw [if_neg (not_not_intro hl), hm, if_neg (by simpa using ht), hi]
  rfl

end

/-! ### What enters the round (07 R213; 08 R229) -/

/-- What a sequence's entry keeps of its request, whatever entry it shares. -/
def SameRequest (e e' : RoundEntry) : Prop :=
  e'.requestId = e.requestId ∧ e'.tenant = e.tenant ∧ e'.promptLen = e.promptLen ∧ e'.limit = e.limit ∧ e'.log.tokens = e.log.tokens ∧
    e'.flags = e.flags ∧ e'.generated = e.generated

section

variable {s : State} {p : Nat}

/-- An entry is set in a state whose entries and admissions are another's. -/
def EntersAt (s : State) (p i : Nat) (e : RoundEntry) (t : State) : Prop :=
  ∃ (u : State) (e' : RoundEntry), t = u.setSeq p i (some e') ∧ (u.round p).entries = (s.round p).entries ∧ (u.round p).admitting = (s.round p).admitting ∧
    SameRequest e e'

theorem modPrefix_round_kept {γ : Type} {w : Round → γ} (hw : ∀ r x, w { r with prefixes := x } = w r) (k : Nat) (f : Prefix → Prefix) :
    w ((s.modPrefix p k f).round p) = w (s.round p) := by
  unfold State.modPrefix State.setPrefix
  split
  · rw [modRound_round_same, hw]
  · rfl

theorem shared_round_kept {γ : Type} {w : Round → γ} (hw : ∀ r x, w { r with ledger := x } = w r) (l : List Nat) (f : Parcel → Parcel) (u : State) :
    w ((l.foldl (fun (u : State) j => u.modParcel p j f) u).round p) = w (u.round p) :=
  foldl_keeps (fun t : State => w (t.round p)) _ (fun t j => by
    unfold State.modParcel
    rw [modRound_round_same, hw]) l u

theorem enterRound_enters (i : Nat) (d : Line) (toks : List W32) (e : RoundEntry) : EntersAt s p i e (s.enterRound p i d toks e) := by
  have same : SameRequest e e := ⟨rfl, rfl, rfl, rfl, rfl, rfl, rfl⟩
  unfold State.enterRound
  dsimp only
  split
  · exact ⟨s, e, rfl, rfl, rfl, same⟩
  · split
    · split
      · exact ⟨s, _, rfl, rfl, rfl, same⟩
      · split
        · exact ⟨s, _, rfl, rfl, rfl, same⟩
        · split
          · exact ⟨_, _, rfl, modPrefix_round_kept (w := Round.entries) (fun _ _ => rfl) _ _,
              modPrefix_round_kept (w := Round.admitting) (fun _ _ => rfl) _ _, same⟩
          · exact ⟨_, _, rfl, modPrefix_round_kept (w := Round.entries) (fun _ _ => rfl) _ _,
              modPrefix_round_kept (w := Round.admitting) (fun _ _ => rfl) _ _, same⟩
    · split
      · exact ⟨s, _, rfl, rfl, rfl, same⟩
      · refine ⟨_, _, rfl, ?_, ?_, same⟩
        · split
          · refine (shared_round_kept (w := Round.entries) (fun _ _ => rfl) _ _ _).trans ?_
            unfold State.setPrefix
            rw [modRound_round_same]
          · unfold State.setPrefix
            rw [modRound_round_same]
        · split
          · refine (shared_round_kept (w := Round.admitting) (fun _ _ => rfl) _ _ _).trans ?_
            unfold State.setPrefix
            rw [modRound_round_same]
          · unfold State.setPrefix
            rw [modRound_round_same]

theorem setSeq_seqAt_same (i : Nat) (e : Option RoundEntry) : (s.setSeq p i e).seqAt p i = e := by
  unfold State.setSeq State.seqAt
  rw [modRound_round_same]
  exact tab_get_set_same _ _ _ _

theorem setSeq_seqAt_ne {i k : Nat} (e : Option RoundEntry) (h : k ≠ i) : (s.setSeq p i e).seqAt p k = s.seqAt p k := by
  unfold State.setSeq State.seqAt
  rw [modRound_round_same]
  exact tab_get_set_ne _ _ _ _ _ h

theorem seqAt_congr {t : State} (h : (t.round p).entries = (s.round p).entries) (k : Nat) : t.seqAt p k = s.seqAt p k :=
  congrArg (fun m => Tab.get (fun _ => none) m k) h

end

/-- Settles O24: the checks of a request in their order, and what its prompt makes of it. -/
theorem requestsAreAdmittedAndEnterTheRound : Obligations.RequestsAreAdmittedAndEnterTheRound := by
  unfold Obligations.RequestsAreAdmittedAndEnterTheRound
  refine ⟨fun fn r s d hd => ⟨fun ht hr hj => ?_, fun ht hr hj => completes_next (exec_submit_waits hd ht hr hj) rfl, fun st ht hr => ?_,
    fun ht => ?_⟩, fun p req s a ha => ⟨fun m toks hm hl => ⟨fun ht => ⟨fun i hi => ?_, fun hi => ?_⟩, fun ht => ?_⟩, fun toks hl => ?_, ?_⟩⟩
  · have good : (admission s fn r d).linkGood = true := admission_linkGood.trans (works_linkGood (requestHead_some hd).2.1)
    have round := admission_round (s := s) (fn := fn) (r := r) (d := d)
    have admitting := view_at (view_taken (s := s) (fn := fn) (r := r) (v := fun x => x.round.admitting) (fun _ _ => rfl) (fun _ _ => rfl)) (fn.val - 1)
    have entries := view_at (view_taken (s := s) (fn := fn) (r := r) (v := fun x => x.round.entries) (fun _ _ => rfl) (fun _ _ => rfl)) (fn.val - 1)
    have stands : ((admission s fn r d).round (fn.val - 1)).admitting = (s.round (fn.val - 1)).admitting ++ [admitted s fn r d] ∧
        ((admission s fn r d).round (fn.val - 1)).ringTurn = (r.val + 1) % 16 ∧
        ((admission s fn r d).round (fn.val - 1)).entries = (s.round (fn.val - 1)).entries := by
      rw [round]
      exact ⟨congrArg (· ++ _) admitting, taken_ringTurn, entries⟩
    obtain ⟨h1, h2, h3⟩ := stands
    have frame := admission_only (s := s) (fn := fn) (r := r) (d := d)
    cases hreplay : s.replaying (fn.val - 1) with
    | true =>
      refine completes_next ((exec_submit_admits hd ht hr hj).trans (by rw [hreplay, if_pos rfl])) ⟨h1, ?_, h2, h3, frame.same .mem (by simp),
        frame.same .regs (by simp)⟩
      exact (List.append_nil _).symm
    | false =>
      refine completes_next ((exec_submit_admits hd ht hr hj).trans (by rw [hreplay, if_neg (by simp)])) ?_
      rw [show (admission s fn r d).hostRead fn (qAddr d) (4 * qLen d) =
        { admission s fn r d with out := (admission s fn r d).out ++ hostReads fn (4 * qLen d) (qAddr d) (4 * qLen d) } from if_pos good]
      exact ⟨h1, rfl, h2, h3, frame.same .mem (by simp), frame.same .regs (by simp)⟩
  · refine completes_next (exec_submit_refused hd ht hr) ⟨?_, ?_, rfl⟩
    · exact answered (v := fun x => x.round.admitting) (fun _ _ => rfl) (fun _ _ => rfl) fn r s _ _ _ _ _ _ _
    · exact answered (v := fun x => x.round.entries) (fun _ _ => rfl) (fun _ _ => rfl) fn r s _ _ _ _ _ _ _
  · refine completes_next (exec_submit_other hd ht) ⟨?_, ?_, rfl⟩
    · exact answered (v := fun x => x.round.admitting) (fun _ _ => rfl) (fun _ _ => rfl) fn r s _ _ _ _ _ _ _
    · exact answered (v := fun x => x.round.entries) (fun _ _ => rfl) (fun _ _ => rfl) fn r s _ _ _ _ _ _ _
  · obtain ⟨u, e, entered, entries, admitting, same⟩ := enterRound_enters (s := promptJournaled s p req a toks) (p := p) i a.desc toks (newEntry a toks)
    obtain ⟨h1, h2, h3, h4, h5, h6, h7⟩ := same
    have stands : (u.round p).entries = (s.round p).entries := entries.trans ((promptJournaled_round Round.entries toks).trans (by rw [promptTaken_round]))
    have frame := only_enterRound (within_sub (by decide) (within_refl [.free, .out, .unsent, .parts, .fns, .buckets])) p i a.desc toks
      (newEntry a toks) (promptJournaled_only (s := s) (p := p) (req := req) (a := a) toks)
    have mem := frame.same .mem (by simp)
    refine completes_next (exec_prompt_enters ha hm hl ht hi) ?_
    rw [entered]
    refine ⟨⟨e, setSeq_seqAt_same _ _, h1, h2, h3, h4, h5, by rw [h6]; rfl, h7⟩, fun k hk => ?_, ?_, ?_⟩
    · exact (setSeq_seqAt_ne _ hk).trans (seqAt_congr stands k)
    · exact (congrArg Round.admitting (modRound_round_same u _ _)).trans (admitting.trans (promptJournaled_round Round.admitting toks))
    · rw [entered] at mem
      exact mem
  · exact completes_next (exec_prompt_full ha hm hl ht hi) (promptRefused_of (promptJournaled_round id toks) (promptJournaled_mem toks) 0x17)
  · exact completes_next (exec_prompt_foreign ha hm hl ht) (promptRefused_of (promptJournaled_round id toks) (promptJournaled_mem toks) 0x16)
  · exact completes_next (exec_prompt_short ha hl) (promptRefused_of rfl rfl 0x18)
  · refine completes_next (exec_prompt_failed ha) (promptRefused_of ?_ ?_ 0x18)
    · exact view_at (v := Part.round) (view_journal (promptTaken s p req) p.val (fun _ _ => rfl) _ _) p
    · exact (only_journal (within_refl _) _ _ _ (only_refl _ (promptTaken s p req))).same .mem (by simp)

end Sys2Proof.Proofs
end

section
/-! PROOF of CANCEL, PREFIX and HINT (08 R228, R251) -/

namespace Sys2Proof.Proofs
open Sys2Proof Sys2Proof.Machine Sys2Proof.Laws

/-! ### Requests that are acted on (08 R228, R251) -/

/-- The command on a request of partition p changes that partition and what the host sees alone. -/
def KeepsRest (p : Nat) (s t : State) : Prop :=
  t.mem = s.mem ∧ t.regs = s.regs ∧ t.clusters = s.clusters ∧ t.engines = s.engines ∧ ∀ k, k ≠ p → t.part k = s.part k

section

variable {s u : State} {fn r : Nat} {d : Line}

theorem othersStand_acted (st : Nat) : OthersStand (fn - 1) s (s.acted fn r d st) :=
  othersStand_trans othersStand_popRequest (othersStand_answer _ _ _ _ _ _ _)

theorem keepsRest_acted (only : Only [.parts] s u) (others : OthersStand (fn - 1) s u) (st : Nat) : KeepsRest (fn - 1) s (u.acted fn r d st) := by
  have frame : Only [.free, .out, .unsent, .parts, .fns, .buckets] s (u.acted fn r d st) :=
    only_acted (within_refl _) fn r d st (only_widen (by decide) only)
  exact ⟨frame.same .mem (by simp), frame.same .regs (by simp), frame.same .clusters (by simp), frame.same .engines (by simp),
    othersStand_trans others (othersStand_acted st)⟩

theorem keepsRest_answered (st : Nat) : KeepsRest (fn - 1) s (s.acted fn r d st) :=
  keepsRest_acted (only_refl _ s) (othersStand_parts rfl) st

/-- What an answer leaves of its partition's round. -/
theorem acted_round {γ : Type} (w : Round → γ) (hw : ∀ r n, w { r with ringTurn := n } = w r) (st : Nat) :
    w ((s.acted fn r d st).round (fn - 1)) = w (s.round (fn - 1)) :=
  view_at (v := fun x => w x.round) (view_acted (fun _ _ => hw _ _) (fun _ _ => rfl) st) (fn - 1)

theorem acted_seqAt (st k : Nat) : (s.acted fn r d st).seqAt (fn - 1) k = s.seqAt (fn - 1) k :=
  seqAt_congr (acted_round Round.entries (fun _ _ => rfl) st) k

theorem prefixAt_congr {s t : State} {p : Nat} (h : (t.round p).prefixes = (s.round p).prefixes) (k : Nat) : t.prefixAt p k = s.prefixAt p k :=
  congrArg (fun m => Tab.get (fun _ => none) m k) h

theorem acted_prefixAt (st k : Nat) : (s.acted fn r d st).prefixAt (fn - 1) k = s.prefixAt (fn - 1) k :=
  prefixAt_congr (acted_round Round.prefixes (fun _ _ => rfl) st) k

end

/-! ### CANCEL -/

section

variable {s : State} {fn : FnId} {r : RingId} {d : Line}

theorem not_plain (h : ¬ (lineNat d 1 1 = 0 ∧ lineNat d 8 56 = 0)) : lineNat d 1 1 ≠ 0 ∨ lineNat d 8 56 ≠ 0 := by tauto

theorem plain_not (h : lineNat d 1 1 = 0 ∧ lineNat d 8 56 = 0) : ¬ (lineNat d 1 1 ≠ 0 ∨ lineNat d 8 56 ≠ 0) := by tauto

section

variable (hd : s.requestHead fn r (· == 2) = some d)

include hd

theorem exec_cancel_form (h : ¬ (lineNat d 1 1 = 0 ∧ lineNat d 8 56 = 0)) : exec (.cancel fn r) s = .next (s.acted fn r d 0x15) := by
  show execCancel fn r s = _
  unfold execCancel
  rw [hd]
  dsimp only
  rw [if_pos (not_plain h)]

variable (h : lineNat d 1 1 = 0 ∧ lineNat d 8 56 = 0)

include h

theorem exec_cancel_none (hq : s.seqOf (fn.val - 1) (qRequest d) = none) : exec (.cancel fn r) s = .next (s.acted fn r d 0x06) := by
  show execCancel fn r s = _
  unfold execCancel
  rw [hd]
  dsimp only
  rw [if_neg (plain_not h), hq]

theorem exec_cancel_again {i : Nat} {e : RoundEntry} (hq : s.seqOf (fn.val - 1) (qRequest d) = some (i, e)) (ha : e.flags.asked = true) :
    exec (.cancel fn r) s = .next (s.acted fn r d 0x06) := by
  show execCancel fn r s = _
  unfold execCancel
  rw [hd]
  dsimp only
  rw [if_neg (plain_not h), hq]
  dsimp only
  rw [if_pos ha]

theorem exec_cancel {i : Nat} {e : RoundEntry} (hq : s.seqOf (fn.val - 1) (qRequest d) = some (i, e)) (ha : e.flags.asked = false) :
    exec (.cancel fn r) s =
      .next ((s.setSeq (fn.val - 1) i (some { e with flags := { e.flags with asked := true } })).acted fn r d 0x05) := by
  show execCancel fn r s = _
  unfold execCancel
  rw [hd]
  dsimp only
  rw [if_neg (plain_not h), hq]
  dsimp only
  rw [if_neg (by simp [ha])]

end

/-! ### PREFIX -/

section

variable (hd : s.requestHead fn r (· == 3) = some d)

include hd

theorem exec_prefixSetList_refused {st : Nat} (ho : lineNat d 12 1 ≠ 2) (hc : s.prefixCheck fn d = .inl st) :
    exec (.prefixSetList fn r) s = .next (s.acted fn r d st) := by
  show execPrefixSetList fn r s = _
  unfold execPrefixSetList
  rw [hd]
  dsimp only
  rw [if_neg ho, hc]

theorem exec_prefixEvict_refused {st : Nat} (ho : lineNat d 12 1 = 2) (hc : s.prefixCheck fn d = .inl st) :
    exec (.prefixEvict fn r) s = .next (s.acted fn r d st) := by
  show execPrefixEvict fn r s = _
  unfold execPrefixEvict
  rw [hd]
  dsimp only
  rw [if_neg (not_not_intro ho), hc]

variable {k : Nat} {e : Prefix} (hc : s.prefixCheck fn d = .inr (k, e))

include hc

/-- The sharing list of a PREFIX descriptor (07 R214). -/
def sharingList (d : Line) : List Nat := (List.range 16).map (fun j => lineNat d (16 + 2 * j) 2)

theorem exec_prefixSetList (ho : lineNat d 12 1 ≠ 2) : exec (.prefixSetList fn r) s =
    .next ((s.modPrefix (fn.val - 1) k (fun e => { e with share := some (sharingList d) })).acted fn r d 0x05) := by
  show execPrefixSetList fn r s = _
  unfold execPrefixSetList
  rw [hd]
  dsimp only
  rw [if_neg ho, hc]
  rfl

variable (ho : lineNat d 12 1 = 2)

include ho

theorem exec_prefixEvict_held (he : e.refs ≠ 0 ∨ e.ready = false) : exec (.prefixEvict fn r) s = .next (s.acted fn r d 0x07) := by
  show execPrefixEvict fn r s = _
  unfold execPrefixEvict
  rw [hd]
  dsimp only
  rw [if_neg (not_not_intro ho), hc]
  dsimp only
  rw [if_pos (he.imp id (by simp))]

theorem exec_prefixEvict (hr : e.refs = 0) (he : e.ready = true) :
    exec (.prefixEvict fn r) s = .next ((s.evict (fn.val - 1) k).acted fn r d 0x05) := by
  show execPrefixEvict fn r s = _
  unfold execPrefixEvict
  rw [hd]
  dsimp only
  rw [if_neg (not_not_intro ho), hc]
  dsimp only
  rw [if_neg (by simp [hr, he])]

end

/-! ### HINT -/

section

variable (hd : s.requestHead fn r (· == 4) = some d)

include hd

theorem exec_hint_form (h : ¬ (lineNat d 1 1 = 0 ∧ lineNat d 8 56 = 0)) : exec (.hint fn r) s = .next (s.acted fn r d 0x15) := by
  show execHint fn r s = _
  unfold execHint
  rw [hd]
  dsimp only
  rw [if_pos (not_plain h)]

variable (h : lineNat d 1 1 = 0 ∧ lineNat d 8 56 = 0)

include h

theorem exec_hint_none (hq : s.seqOf (fn.val - 1) (qRequest d) = none) : exec (.hint fn r) s = .next (s.acted fn r d 0x06) := by
  show execHint fn r s = _
  unfold execHint
  rw [hd]
  dsimp only
  rw [if_neg (plain_not h), hq]

/-- Whether a hint adds a sequence to those to fetch. -/
def hintTaken (s : State) (p i : Nat) (e : RoundEntry) : Bool :=
  !s.onSheet p i && s.hasParcel p e (fun x => decide (x = .spilled)) && !(s.round p).hinted.contains i

theorem exec_hint {i : Nat} {e : RoundEntry} (hq : s.seqOf (fn.val - 1) (qRequest d) = some (i, e)) : exec (.hint fn r) s =
    .next ((if hintTaken s (fn.val - 1) i e then s.modRound (fn.val - 1) (fun x => { x with hinted := x.hinted ++ [i] }) else s).acted fn r d 0x05) := by
  show execHint fn r s = _
  unfold execHint
  rw [hd]
  dsimp only
  rw [if_neg (plain_not h), hq]
  rfl

end

end

/-! ### Prefix entries and their parcels (07 R213) -/

section

variable {s : State} {p : Nat}

theorem freeParcels_round {γ : Type} (w : Round → γ) (hw : ∀ r l x, w { r with ledger := l, pr := x } = w r) (is : List Nat) :
    w ((s.freeParcels p is).round p) = w (s.round p) := by
  unfold State.freeParcels
  refine foldl_keeps (fun u : State => w (u.round p)) _ (fun u i => ?_) is s
  unfold State.modParcel
  rw [modRound_round_same, modRound_round_same]
  split
  · exact (hw _ _ _).trans (hw (u.round p) (u.round p).ledger _)
  · exact hw (u.round p) _ (u.round p).pr

theorem unshare_round {γ : Type} (w : Round → γ) (hw : ∀ r l x, w { r with ledger := l, pr := x } = w r) (is : List Nat) :
    w ((s.unshare p is).round p) = w (s.round p) := by
  unfold State.unshare
  refine foldl_keeps (fun u : State => w (u.round p)) _ (fun u i => ?_) is s
  split
  · exact freeParcels_round w hw _
  · unfold State.modParcel
    rw [modRound_round_same]
    exact hw (u.round p) _ (u.round p).pr

theorem setPrefix_prefixAt_same (k : Nat) (e : Option Prefix) : (s.setPrefix p k e).prefixAt p k = e := by
  unfold State.setPrefix State.prefixAt
  rw [modRound_round_same]
  exact tab_get_set_same _ _ _ _

theorem setPrefix_prefixAt_ne {k j : Nat} (e : Option Prefix) (h : j ≠ k) : (s.setPrefix p k e).prefixAt p j = s.prefixAt p j := by
  unfold State.setPrefix State.prefixAt
  rw [modRound_round_same]
  exact tab_get_set_ne _ _ _ _ _ h

variable {k : Nat} {e : Prefix} (he : s.prefixAt p k = some e)

include he

theorem modPrefix_eq (f : Prefix → Prefix) : s.modPrefix p k f = s.setPrefix p k (some (f e)) := by
  unfold State.modPrefix
  rw [he]

theorem evict_eq : s.evict p k = (s.unshare p (s.prefixParcels p e)).setPrefix p k none := by
  unfold State.evict
  rw [he]

theorem evict_prefixAt_same : (s.evict p k).prefixAt p k = none := by
  rw [evict_eq he]
  exact setPrefix_prefixAt_same _ _

theorem evict_prefixAt_ne {j : Nat} (h : j ≠ k) : (s.evict p k).prefixAt p j = s.prefixAt p j := by
  rw [evict_eq he, setPrefix_prefixAt_ne _ h]
  exact prefixAt_congr (unshare_round Round.prefixes (fun _ _ _ => rfl) _) j

theorem evict_entries : ((s.evict p k).round p).entries = (s.round p).entries := by
  rw [evict_eq he]
  unfold State.setPrefix
  rw [modRound_round_same]
  exact unshare_round Round.entries (fun _ _ _ => rfl) _

end

/-- Settles O25: each descriptor's form, then what it names, then its act and its answer. -/
theorem requestsAreCancelledAndPrefixesManaged : Obligations.RequestsAreCancelledAndPrefixesManaged := by
  unfold Obligations.RequestsAreCancelledAndPrefixesManaged
  intro fn r s d
  have answers {i : Instr} {st : Nat} (run : exec i s = .next (s.acted fn r d st)) :
      Completes i s (fun t => t = s.acted fn r d st ∧ KeepsRest (fn.val - 1) s t) := completes_next run ⟨rfl, keepsRest_answered st⟩
  refine ⟨fun hd => ⟨fun h i e hq => ⟨fun ha => ?_, fun ha => answers (exec_cancel_again hd h hq ha)⟩, fun h hq => answers (exec_cancel_none hd h hq),
    fun h => answers (exec_cancel_form hd h)⟩, fun hd => ⟨fun st hc => ⟨fun ho => answers (exec_prefixSetList_refused hd ho hc),
      fun ho => answers (exec_prefixEvict_refused hd ho hc)⟩, fun k e hc he => ⟨fun ho => ?_, fun ho hr hready => ?_,
        fun ho hh => answers (exec_prefixEvict_held hd hc ho hh)⟩⟩, fun hd => ⟨fun h i e hq => ⟨fun hs hp hn => ?_, fun hh => ?_⟩,
          fun h hq => answers (exec_hint_none hd h hq), fun h => answers (exec_hint_form hd h)⟩⟩
  · refine completes_next (exec_cancel hd h hq ha) ⟨?_, fun k hk => ?_, ?_, keepsRest_acted (only_setSeq (within_refl _) _ _ _ (only_refl _ s))
      (othersStand_modPart _) _, rfl⟩
    · exact (acted_seqAt _ _).trans (setSeq_seqAt_same _ _)
    · exact (acted_seqAt _ _).trans (setSeq_seqAt_ne _ hk)
    · refine (acted_round Round.ledger (fun _ _ => rfl) _).trans ?_
      unfold State.setSeq
      rw [modRound_round_same]
  · have shared := modPrefix_eq he (fun e => { e with share := some (sharingList d) })
    refine completes_next (exec_prefixSetList hd hc ho) ⟨?_, fun j hj => ?_, ?_, keepsRest_acted (only_modPrefix (within_refl _) _ _ _ (only_refl _ s))
      (othersStand_modPrefix _ _) _, _, rfl, ?_⟩
    · rw [acted_prefixAt, shared]
      exact setPrefix_prefixAt_same _ _
    · rw [acted_prefixAt, shared]
      exact setPrefix_prefixAt_ne _ hj
    · refine (acted_round Round.ledger (fun _ _ => rfl) _).trans ?_
      exact modPrefix_round_kept (w := Round.ledger) (fun _ _ => rfl) _ _
    · rw [shared]
      exact setPrefix_prefixAt_same _ _
  · refine completes_next (exec_prefixEvict hd hc ho hr hready) ⟨?_, fun j hj => ?_, ?_, keepsRest_acted (only_evict (within_refl _) _ _ (only_refl _ s))
      (othersStand_evict _) _, _, rfl, evict_prefixAt_same he⟩
    · exact (acted_prefixAt _ _).trans (evict_prefixAt_same he)
    · exact (acted_prefixAt _ _).trans (evict_prefixAt_ne he hj)
    · exact (acted_round Round.entries (fun _ _ => rfl) _).trans (evict_entries he)
  · have taken : hintTaken s (fn.val - 1) i e = true := by simp [hintTaken, hs, hp, hn]
    refine completes_next ((exec_hint hd h hq).trans (by rw [taken, if_pos rfl])) ⟨?_, ?_, ?_,
      keepsRest_acted (only_modRound (within_refl _) _ _ (only_refl _ s)) (othersStand_modPart _) _, _, rfl, ?_⟩
    · refine (acted_round Round.hinted (fun _ _ => rfl) _).trans ?_
      rw [modRound_round_same]
    · refine (acted_round Round.entries (fun _ _ => rfl) _).trans ?_
      rw [modRound_round_same]
    · refine (acted_round Round.ledger (fun _ _ => rfl) _).trans ?_
      rw [modRound_round_same]
    · rw [modRound_round_same]
  · have ignored : hintTaken s (fn.val - 1) i e = false := by
      unfold hintTaken
      rcases hh with hh | hh | hh <;> simp [hh]
    exact answers ((exec_hint hd h hq).trans (by rw [ignored, if_neg (by simp)]))

end Sys2Proof.Proofs
end

section
/-! PROOF of budgets and credit (08 R233 to R235) -/

namespace Sys2Proof.Proofs
open Sys2Proof Sys2Proof.Machine Sys2Proof.Laws

/-! ### Marks of module time -/

section

variable {s : State}

theorem setMark_mark (k n : Nat) (h : n < 2 ^ 64) : (s.setMark k n).mark k = n := by
  unfold State.setMark State.mark
  rw [tab_get_set_same, BitVec.toNat_ofNat]
  exact Nat.mod_eq_of_lt h

theorem nowNat_lt : s.nowNat < 2 ^ 64 := s.time.now.isLt

theorem mark_of_time {t : State} (h : t.time = s.time) (k : Nat) : t.mark k = s.mark k := by
  unfold State.mark
  rw [h]

/-! ### Token budgets (08 R233, R234) -/

/-- A bucket's gain of the last milliseconds, in place. -/
def bucketFilled (ms n : Nat) (r : Round) : Round :=
  { r with buckets := Tab.set (fun _ => 0) r.buckets n (min (r.depth n) (r.bucket n + (fld (r.budget n) 39 20 * ms : Nat))) }

theorem bucketFilled_bucket (ms n k : Nat) (r : Round) : (bucketFilled ms n r).bucket k =
    if k = n then min (r.depth n) (r.bucket n + (fld (r.budget n) 39 20 * ms : Nat)) else r.bucket k := tab_get_set _ _ _ _ _

theorem foldl_bucketFilled_budget (ms : Nat) (l : List Nat) (r : Round) (k : Nat) :
    (l.foldl (fun r n => bucketFilled ms n r) r).budget k = r.budget k :=
  foldl_keeps (fun r : Round => r.budget k) (fun r n => bucketFilled ms n r) (fun _ _ => rfl) l r

theorem foldl_bucketFilled_out (ms : Nat) (l : List Nat) (r : Round) {k : Nat} (h : k ∉ l) :
    (l.foldl (fun r n => bucketFilled ms n r) r).bucket k = r.bucket k := by
  induction l generalizing r with
  | nil => rfl
  | cons a l ih =>
    rw [List.foldl_cons, ih _ fun hk => h (List.mem_cons_of_mem _ hk), bucketFilled_bucket, if_neg (show k ≠ a from fun hk => h (hk ▸ List.mem_cons_self))]

theorem foldl_bucketFilled_in (ms : Nat) (l : List Nat) (r : Round) (hn : l.Nodup) {k : Nat} (h : k ∈ l) :
    (l.foldl (fun r n => bucketFilled ms n r) r).bucket k =
      min (r.depth k) (r.bucket k + (fld (r.budget k) 39 20 * ms : Nat)) := by
  induction l generalizing r with
  | nil => cases h
  | cons a l ih =>
    obtain ⟨ha, hl⟩ := List.nodup_cons.mp hn
    rw [List.foldl_cons]
    by_cases hk : k = a
    · rw [hk, foldl_bucketFilled_out _ _ _ ha, bucketFilled_bucket, if_pos rfl]
    · rw [ih _ hl ((List.mem_cons.mp h).resolve_left hk), bucketFilled_bucket, if_neg hk]
      rfl

variable {p : PartId}

/-- A fold of changes to a round is the round of the fold. -/
theorem foldl_modRound {α : Type} (f : α → Round → Round) (l : List α) (t : State) :
    (l.foldl (fun t a => t.modRound p (f a)) t).round p = l.foldl (fun r a => f a r) (t.round p) := by
  induction l generalizing t with
  | nil => rfl
  | cons a l ih => rw [List.foldl_cons, ih, modRound_round_same, List.foldl_cons]

theorem othersStand_modRounds {α : Type} (f : α → Round → Round) (l : List α) (t : State) :
    OthersStand p t (l.foldl (fun t a => t.modRound p (f a)) t) := othersStand_foldl (fun _ _ => othersStand_modPart _) l t

theorem only_modRounds {α : Type} (f : α → Round → Round) (l : List α) (t : State) :
    Only [.parts] t (l.foldl (fun t a => t.modRound p (f a)) t) :=
  only_foldl _ (only_refl _ t) fun _ _ h => only_modRound (within_refl _) _ _ h

/-- The state of a refill: its mark, and every bucket. -/
def refilledAt (s : State) (p ms : Nat) : State :=
  (List.range 64).foldl (fun t n => t.modRound p (bucketFilled (ms - s.mark (100 + p)) n)) (s.setMark (100 + p) ms)

theorem exec_budgetRefill (hj : s.journaled p = false) (h : s.mark (100 + p.val) < s.nowNat / 1000000) :
    exec (.budgetRefill p) s = .next (refilledAt s p (s.nowNat / 1000000)) := by
  have live : s.replaying p = false := by
    unfold State.journaled at hj
    exact (Bool.or_eq_false_iff.mp hj).2
  have now : (s.roundNow p).toNat = s.nowNat := by rw [roundNow_live s p live]; rfl
  refine congrArg Host.Outcome.next ((if_neg (by simp [hj])).trans ?_)
  unfold State.refillBudgets
  dsimp only
  rw [now, if_neg (Nat.not_le.mpr h)]
  rfl

theorem exec_budgetRefill_journaled (hj : s.journaled p = true) : exec (.budgetRefill p) s = .next s :=
  congrArg Host.Outcome.next (if_pos hj)

/-! ### Best-effort credit (08 R235) -/

/-- A queue's gain, in place. -/
def credited (gain : Nat → Int) (k : Nat) (r : Round) : Round :=
  { r with credit := Tab.set (fun _ => 0) r.credit k (clampCredit (r.creditOf k + gain k)) }

theorem credited_creditOf (gain : Nat → Int) (n k : Nat) (r : Round) :
    (credited gain n r).creditOf k = if k = n then clampCredit (r.creditOf n + gain n) else r.creditOf k := tab_get_set _ _ _ _ _

theorem foldl_credited_out (gain : Nat → Int) (l : List Nat) (r : Round) {k : Nat} (h : k ∉ l) :
    (l.foldl (fun r n => credited gain n r) r).creditOf k = r.creditOf k := by
  induction l generalizing r with
  | nil => rfl
  | cons a l ih =>
    rw [List.foldl_cons, ih _ fun hk => h (List.mem_cons_of_mem _ hk), credited_creditOf, if_neg (show k ≠ a from fun hk => h (hk ▸ List.mem_cons_self))]

theorem foldl_credited_in (gain : Nat → Int) (l : List Nat) (r : Round) (hn : l.Nodup) {k : Nat} (h : k ∈ l) :
    (l.foldl (fun r n => credited gain n r) r).creditOf k = clampCredit (r.creditOf k + gain k) := by
  induction l generalizing r with
  | nil => cases h
  | cons a l ih =>
    obtain ⟨ha, hl⟩ := List.nodup_cons.mp hn
    rw [List.foldl_cons]
    by_cases hk : k = a
    · rw [hk, foldl_credited_out _ _ _ ha, credited_creditOf, if_pos rfl]
    · rw [ih _ hl ((List.mem_cons.mp h).resolve_left hk), credited_creditOf, if_neg hk]

/-- The queues with waiting work, and the sum of their weights. -/
def workingQueues (s : State) (p : Nat) : List Nat := (List.range 3).filter (s.queueWork p)
def workingWeight (s : State) (p : Nat) : Nat := ((workingQueues s p).map (s.beWeight p)).sum

/-- The state of a millisecond's credit. -/
def creditedAt (s : State) (p : Nat) (gain : Nat → Int) : State :=
  (workingQueues s p).foldl (fun t k => t.modRound p (credited gain k)) (s.setMark (200 + p) (s.mark (200 + p) + 1))

theorem exec_bestEffortCredit (spare : Nat) (h : s.mark (200 + p.val) < s.nowNat / 1000000) : exec (.bestEffortCredit p spare) s =
    .next (if workingWeight s p = 0 then s.setMark (200 + p.val) (s.mark (200 + p.val) + 1)
      else creditedAt s p (fun k => (min spare 1000000 * s.beWeight p k / workingWeight s p : Nat))) := by
  refine congrArg Host.Outcome.next ((if_neg (Nat.not_le.mpr h)).trans ?_)
  by_cases hw : workingWeight s p = 0
  · rw [if_pos hw]
    refine (congrArg (fun f => (workingQueues s p).foldl f _) (funext fun t => funext fun k => if_pos hw)).trans ?_
    exact foldl_keeps id _ (fun _ _ => rfl) _ _
  · rw [if_neg hw]
    exact congrArg (fun f => (workingQueues s p).foldl f _) (funext fun t => funext fun k => if_neg hw)

end

section

variable {s : State} {p : PartId}

theorem refilledAt_only (ms : Nat) : Only [.parts] (s.setMark (100 + p) ms) (refilledAt s p ms) := only_modRounds _ _ _

theorem refilledAt_round (ms : Nat) : (refilledAt s p ms).round p =
    (List.range 64).foldl (fun r n => bucketFilled (ms - s.mark (100 + p)) n r) (s.round p) := foldl_modRound _ _ _

theorem refilledAt_mark {ms : Nat} (h : ms < 2 ^ 64) : (refilledAt s p ms).mark (100 + p) = ms :=
  (mark_of_time ((refilledAt_only ms).same .time (by simp)) _).trans (setMark_mark _ _ h)

theorem refilledAt_others (ms : Nat) : OthersStand p s (refilledAt s p ms) :=
  othersStand_trans (t := s.setMark (100 + p) ms) (othersStand_parts rfl) (othersStand_modRounds _ _ _)

theorem creditedAt_only (gain : Nat → Int) : Only [.parts] (s.setMark (200 + p) (s.mark (200 + p) + 1)) (creditedAt s p gain) :=
  only_modRounds _ _ _

theorem creditedAt_round (gain : Nat → Int) : (creditedAt s p gain).round p =
    (workingQueues s p).foldl (fun r k => credited gain k r) (s.round p) := foldl_modRound _ _ _

theorem creditedAt_mark (gain : Nat → Int) (h : s.mark (200 + p) + 1 < 2 ^ 64) :
    (creditedAt s p gain).mark (200 + p) = s.mark (200 + p) + 1 :=
  (mark_of_time ((creditedAt_only gain).same .time (by simp)) _).trans (setMark_mark _ _ h)

theorem creditedAt_others (gain : Nat → Int) : OthersStand p s (creditedAt s p gain) :=
  othersStand_trans (t := s.setMark (200 + p) (s.mark (200 + p) + 1)) (othersStand_parts rfl) (othersStand_modRounds _ _ _)

end

/-- Settles O26: each bucket is filled once, and each queue with work gains its share once. -/
theorem budgetsAndCreditsRefillEachMillisecond : Obligations.BudgetsAndCreditsRefillEachMillisecond := by
  unfold Obligations.BudgetsAndCreditsRefillEachMillisecond
  refine fun p s => ⟨fun hj h => ?_, fun hj => completes_next (exec_budgetRefill_journaled hj) rfl, fun h spare => ?_⟩
  · have later : s.nowNat / 1000000 < 2 ^ 64 := lt_of_le_of_lt (Nat.div_le_self _ _) nowNat_lt
    have frame := refilledAt_only (s := s) (p := p) (s.nowNat / 1000000)
    refine completes_next (exec_budgetRefill hj h) ⟨refilledAt_mark later, fun n hn => ?_, ?_, ?_, refilledAt_others _, frame.same .mem (by simp),
      frame.same .regs (by simp)⟩
    · rw [refilledAt_round]
      exact foldl_bucketFilled_in _ _ _ List.nodup_range (List.mem_range.mpr hn)
    · rw [refilledAt_round]
      exact foldl_keeps Round.entries (fun r n => bucketFilled _ n r) (fun _ _ => rfl) _ _
    · rw [refilledAt_round]
      exact foldl_keeps Round.credit (fun r n => bucketFilled _ n r) (fun _ _ => rfl) _ _
  · have later : s.mark (200 + p.val) + 1 < 2 ^ 64 :=
      lt_of_le_of_lt (Nat.succ_le_of_lt h) (lt_of_le_of_lt (Nat.div_le_self _ _) nowNat_lt)
    have run := exec_bestEffortCredit spare h
    by_cases hw : workingWeight s p = 0
    · rw [if_pos hw] at run
      exact completes_next run ⟨setMark_mark _ _ later, fun k hk hq hn => absurd hw hn, fun _ _ => rfl, rfl, fun _ _ => rfl, rfl, rfl⟩
    · rw [if_neg hw] at run
      have frame := creditedAt_only (s := s) (p := p) (fun k => (min spare 1000000 * s.beWeight p k / workingWeight s p : Nat))
      refine completes_next run ⟨creditedAt_mark _ later, fun k hk hq _ => ?_, fun k hk => ?_, ?_, creditedAt_others _, frame.same .mem (by simp),
        frame.same .regs (by simp)⟩
      · rw [creditedAt_round]
        exact foldl_credited_in _ _ _ (List.nodup_range.filter _) (List.mem_filter.mpr ⟨List.mem_range.mpr hk, hq⟩)
      · rw [creditedAt_round]
        refine foldl_credited_out _ _ _ fun hm => ?_
        obtain ⟨hr, hq⟩ := List.mem_filter.mp hm
        rcases hk with hk | hk
        · rw [hk] at hq
          cases hq
        · exact absurd (List.mem_range.mp hr) (Nat.not_lt.mpr hk)
      · rw [creditedAt_round]
        exact foldl_keeps Round.buckets (fun r k => credited _ k r) (fun _ _ => rfl) _ _

end Sys2Proof.Proofs
end

section
/-! PROOF of relief, spills and fetches back (07 R215 to R221) -/

namespace Sys2Proof.Proofs
open Sys2Proof Sys2Proof.Machine Sys2Proof.Laws

/-! ### Happenings in the journal (19 R454, R459) -/

section

variable {s : State} {p : Nat}

theorem journal_round (typ : Nat) (body : List Byte) : (s.journal p typ body).round p = s.round p :=
  view_at (v := Part.round) (view_journal s p (fun _ _ => rfl) typ body) p

theorem failReplay_round (reason : Nat) : (s.failReplay p reason).round p = s.round p := by
  unfold State.failReplay State.round
  rw [modPart_part_same]
  dsimp only
  split <;> rfl

theorem journalHappening_round (what cause : Nat) : (s.journalHappening p what cause).round p = s.round p := by
  unfold State.journalHappening
  dsimp only
  split
  · exact journal_round _ _
  · split
    · exact (failReplay_round _).trans (journal_round _ _)
    · exact journal_round _ _

theorem parcel_congr {t : State} (h : (t.round p).ledger = (s.round p).ledger) (i : Nat) : t.parcel p i = s.parcel p i :=
  congrArg (fun m => Tab.get (fun _ => Parcel.reset) m i) h

theorem modParcel_parcel_same (i : Nat) (f : Parcel → Parcel) : (s.modParcel p i f).parcel p i = f (s.parcel p i) := by
  unfold State.modParcel State.parcel
  rw [modRound_round_same]
  exact tab_get_modify_same _ _ _ _

theorem modParcel_parcel_ne {i j : Nat} (f : Parcel → Parcel) (h : j ≠ i) : (s.modParcel p i f).parcel p j = s.parcel p j := by
  unfold State.modParcel State.parcel
  rw [modRound_round_same]
  exact tab_get_modify_ne _ _ _ _ _ h

theorem modParcel_round {γ : Type} (w : Round → γ) (hw : ∀ r x, w { r with ledger := x } = w r) (i : Nat) (f : Parcel → Parcel) :
    w ((s.modParcel p i f).round p) = w (s.round p) := by
  unfold State.modParcel
  rw [modRound_round_same, hw]

theorem modSeq_round {γ : Type} (w : Round → γ) (hw : ∀ r x, w { r with entries := x } = w r) (i : Nat) (f : RoundEntry → RoundEntry) :
    w ((s.modSeq p i f).round p) = w (s.round p) :=
  view_at (v := fun x => w x.round) (view_modSeq s p (fun _ _ => hw _ _) i f) p

/-! ### A parcel that is returned (07 R218; 14 R359) -/

theorem returnParcel_parcel_same (i : Nat) : (s.returnParcel p i).parcel p i =
    { s.parcel p i with state := .returned, pln := 0, check := none, prSlot := none, lost := (s.parcel p i).lost + (s.parcel p i).filled,
                        filled := 0 } := by
  unfold State.returnParcel
  rw [modParcel_parcel_same]
  rw [parcel_congr (s := s) (by rw [modRound_round_same]; split <;> rfl)]

theorem returnParcel_round {γ : Type} (w : Round → γ) (hw : ∀ r l x, w { r with ledger := l, pr := x } = w r) (i : Nat) :
    w ((s.returnParcel p i).round p) = w (s.round p) := by
  unfold State.returnParcel State.modParcel
  rw [modRound_round_same, modRound_round_same]
  split
  · exact (hw _ _ _).trans (hw (s.round p) (s.round p).ledger _)
  · exact hw (s.round p) _ (s.round p).pr

/-- Whether the shared entry k is free. -/
def PrefixFree (p k : Nat) (t : State) : Prop := t.prefixAt p k = none

theorem prefixFree_congr {t : State} {k : Nat} (h : PrefixFree p k s) (hr : (t.round p).prefixes = (s.round p).prefixes) : PrefixFree p k t :=
  (prefixAt_congr hr k).trans h

/-- A fold keeps what each of its steps keeps. -/
theorem foldl_invariant {σ α : Type} {P : σ → Prop} {f : σ → α → σ} (h : ∀ u a, P u → P (f u a)) (l : List α) {u : σ} (hu : P u) :
    P (l.foldl f u) := by
  induction l generalizing u with
  | nil => exact hu
  | cons a l ih => exact ih (h u a hu)

/-- A shared parcel that returns takes its prefixes' readiness: the entries that exist stay, the free ones stay free. -/
def unreadied (p i : Nat) (u : State) (k : Nat) : State :=
  match u.prefixAt p k with
  | none => u
  | some e =>
    if (u.prefixParcels p e).contains i then
      let u := u.setPrefix p k (some { e with ready := false })
      (u.seqs p).foldl (fun v w =>
        if w.2.prefixEntry = some k then v.setSeq p w.1 (some { w.2 with state := .waiting }) else v) u
    else u

theorem returned_eq (i : Nat) (h : (s.parcel p i).state.resident = true) : s.returned p i =
    if (s.parcel p i).isShared then
      (((s.journalHappening p 1 i).returnParcel p i).round p).prefixes.foldl (fun u q => unreadied p i u q.1)
        ((s.journalHappening p 1 i).returnParcel p i)
    else ((s.journalHappening p 1 i).returnParcel p i).modSeq p (s.parcel p i).holder
      (fun e => { e with flags := { e.flags with recompute := true } }) := by
  unfold State.returned unreadied
  dsimp only
  rw [h]
  rfl

theorem unreadied_round {γ : Type} (w : Round → γ) (hw : ∀ r x y, w { r with prefixes := x, entries := y } = w r) (i k : Nat) (u : State) :
    w ((unreadied p i u k).round p) = w (u.round p) := by
  unfold unreadied
  split
  · rfl
  · split
    · refine (foldl_keeps (fun v : State => w (v.round p)) _ (fun v q => ?_) _ _).trans ?_
      · split
        · unfold State.setSeq
          rw [modRound_round_same]
          exact hw (v.round p) (v.round p).prefixes _
        · rfl
      · unfold State.setPrefix
        rw [modRound_round_same]
        exact hw (u.round p) _ (u.round p).entries
    · rfl

theorem unreadied_prefixFree (i j : Nat) {k : Nat} (u : State) (h : PrefixFree p k u) : PrefixFree p k (unreadied p i u j) := by
  unfold unreadied
  split
  · exact h
  · next e he =>
    split
    · have hj : k ≠ j := fun hk => by rw [← hk, h] at he; cases he
      refine foldl_invariant (fun v q hv => ?_) _ ((setPrefix_prefixAt_ne _ hj).trans h)
      split
      · refine prefixFree_congr hv ?_
        unfold State.setSeq
        rw [modRound_round_same]
      · exact hv
    · exact h

theorem returned_prefixFree (i : Nat) {k : Nat} (h : PrefixFree p k s) : PrefixFree p k (s.returned p i) := by
  have base : PrefixFree p k ((s.journalHappening p 1 i).returnParcel p i) :=
    prefixFree_congr h ((returnParcel_round Round.prefixes (fun _ _ _ => rfl) i).trans (congrArg Round.prefixes (journalHappening_round 1 i)))
  unfold State.returned
  dsimp only
  split
  · exact h
  · split
    · exact foldl_invariant (fun u q hu => unreadied_prefixFree i q.1 u hu) _ base
    · exact prefixFree_congr base (modSeq_round Round.prefixes (fun _ _ => rfl) _ _)

/-! ### Relief (07 R215, R216) -/

theorem takeSpan_prefixFree (is : List Nat) {k : Nat} (h : PrefixFree p k s) : PrefixFree p k (s.takeSpan p is) := by
  unfold State.takeSpan
  dsimp only
  split
  · refine foldl_invariant (fun u x hu => prefixFree_congr hu ?_) _ h
    rw [modRound_round_same]
    exact modParcel_round Round.prefixes (fun _ _ => rfl) _ _
  · exact foldl_invariant (fun u i hu => returned_prefixFree i hu) _ h

theorem takeSeq_prefixFree (st i : Nat) {k : Nat} (h : PrefixFree p k s) : PrefixFree p k (s.takeSeq p st i) := by
  unfold State.takeSeq
  refine foldl_invariant (fun u is hu => ?_) _ h
  split
  · exact prefixFree_congr (takeSpan_prefixFree is hu) (modSeq_round Round.prefixes (fun _ _ => rfl) _ _)
  · exact hu

theorem evict_prefixFree (j : Nat) {k : Nat} (h : PrefixFree p k s) : PrefixFree p k (s.evict p j) := by
  unfold State.evict
  split
  · exact h
  · by_cases hj : k = j
    · rw [hj]
      exact setPrefix_prefixAt_same _ _
    · exact (setPrefix_prefixAt_ne _ hj).trans (prefixFree_congr h (unshare_round Round.prefixes (fun _ _ _ => rfl) _))

theorem evict_prefixFree_same (k : Nat) : PrefixFree p k (s.evict p k) := by
  cases h : s.prefixAt p k with
  | none =>
    unfold State.evict
    rw [h]
    exact h
  | some e => exact evict_prefixAt_same h

/-- Relief that evicts leaves its first shared entry free. -/
theorem relieve_evicts {st k : Nat} {rest : List Nat} (hs : s.short p st = true) (he : s.evictable p = k :: rest) :
    PrefixFree p k (s.relieve p st) := by
  have evicted : PrefixFree p k ((k :: rest).foldl (fun t k => if t.short p st then t.evict p k else t) s) := by
    rw [List.foldl_cons, if_pos hs]
    refine foldl_invariant (fun u j hu => ?_) _ (evict_prefixFree_same k)
    split
    · exact evict_prefixFree j hu
    · exact hu
  unfold State.relieve
  rw [he]
  dsimp only
  generalize (k :: rest).foldl (fun t k => if t.short p st then t.evict p k else t) s = t at evicted
  have taken : PrefixFree p k ((t.victims p).foldl (fun t i => if t.short p st then t.takeSeq p st i else t) t) := by
    refine foldl_invariant (fun u i hu => ?_) _ evicted
    split
    · exact takeSeq_prefixFree st i hu
    · exact hu
  split
  · split
    · exact prefixFree_congr taken (modSeq_round Round.prefixes (fun _ _ => rfl) _ _)
    · exact taken
  · exact taken

theorem relieve_pauses {st i : Nat} {e : RoundEntry} (hs : s.short p st = true) (he : s.evictable p = []) (hv : s.victims p = [])
    (hn : s.nextPause p = some i) (hi : s.seqAt p i = some e) : s.relieve p st = s.setSeq p i (some { e with state := .paused }) := by
  unfold State.relieve
  simp only [he, List.foldl_nil, hv, hs, if_true, hn]
  unfold State.modSeq
  rw [hi]

end

/-! ### Spilled parcels and their way back (07 R218 to R221) -/

section

variable {s u : State} {p : PartId}

/-- A parcel with its content check in host memory (07 R218, R221). -/
def spilledParcel (check : Nat) (c : BitVec 64) (y : Parcel) : Parcel :=
  { y with state := .spilled, pln := 0, check := some (BitVec.ofNat 32 check), spillCounter := c }

/-- The state of a spill whose data and tag have left for the host. -/
def spillSent (u : State) (p i k : Nat) (x : Parcel) (bs : List Byte) : State :=
  let c := (u.round p).pr.counter
  let r := gcmSeal (Config.posteKey (u.round p).pr.key) (spillIv c.toNat i) (x.aad p (crc32c bs) c.toNat) bs
  let t := u.hostWrite (p + 1) (u.prData p k) r.1
  t.hostWrite (p + 1) (t.prTag p k) (toBytes 16 r.2.toNat ++ toBytes 8 c.toNat ++ toBytes 4 i ++ toBytes 36 0)

/-- The state of a parcel that is spilled. -/
def spillDone (u : State) (p i k : Nat) (x : Parcel) (bs : List Byte) : State :=
  (((spillSent u p i k x bs).modRound p (fun r => { r with pr := { r.pr with counter := (u.round p).pr.counter + 1 } })).modParcel p i
    (spilledParcel (crc32c bs) (u.round p).pr.counter)).journalHappening p 3 i

theorem spillSent_only (i k : Nat) (x : Parcel) (bs : List Byte) : Only [.out, .unsent] u (spillSent u p i k x bs) :=
  only_hostWrite (within_refl _) _ _ _ (only_hostWrite (within_refl _) _ _ _ (only_refl _ u))

theorem spillDone_only (i k : Nat) (x : Parcel) (bs : List Byte) : Only [.free, .out, .unsent, .parts, .fns, .buckets] u (spillDone u p i k x bs) :=
  only_journalHappening (within_refl _) _ _ _ (only_modParcel (within_sub (by decide) (within_refl _)) _ _ _
    (only_modRound (within_sub (by decide) (within_refl _)) _ _ (only_widen (by decide) (spillSent_only i k x bs))))

theorem spillSent_round (i k : Nat) (x : Parcel) (bs : List Byte) : (spillSent u p i k x bs).round p = u.round p :=
  congrArg Part.round (part_of_parts ((spillSent_only i k x bs).same .parts (by simp)) p)

theorem spillDone_round (i k : Nat) (x : Parcel) (bs : List Byte) : (spillDone u p i k x bs).round p =
    { u.round p with
      pr := { (u.round p).pr with counter := (u.round p).pr.counter + 1 }
      ledger := Tab.modify (fun _ => Parcel.reset) (u.round p).ledger i (spilledParcel (crc32c bs) (u.round p).pr.counter) } := by
  unfold spillDone State.modParcel
  rw [journalHappening_round, modRound_round_same, modRound_round_same, spillSent_round]

theorem spillDone_parcel_same (i k : Nat) (x : Parcel) (bs : List Byte) :
    (spillDone u p i k x bs).parcel p i = spilledParcel (crc32c bs) (u.round p).pr.counter (u.parcel p i) := by
  unfold State.parcel
  rw [spillDone_round]
  exact tab_get_modify_same _ _ _ _

theorem spillDone_parcel_ne {i j : Nat} (k : Nat) (x : Parcel) (bs : List Byte) (h : j ≠ i) :
    (spillDone u p i k x bs).parcel p j = u.parcel p j := by
  unfold State.parcel
  rw [spillDone_round]
  exact tab_get_modify_ne _ _ _ _ _ h

theorem exec_spillComplete {i k : Nat} (hs : (s.parcel p i).state = .spilling) (hk : (s.parcel p i).prSlot = some k) {bs : List Byte}
    (hr : s.readParcel p (s.parcel p i).pln 1024 = (u, some bs)) :
    exec (.spillComplete p i) s = .next (spillDone u p i k (s.parcel p i) bs) := by
  show execSpillComplete p i s = _
  unfold execSpillComplete
  dsimp only
  rw [hs, hk]
  dsimp only
  rw [hr]
  rfl

theorem exec_spillComplete_failed {i k : Nat} (hs : (s.parcel p i).state = .spilling) (hk : (s.parcel p i).prSlot = some k)
    (hl : s.replaying p = false) (hr : s.readParcel p (s.parcel p i).pln 1024 = (u, none)) :
    exec (.spillComplete p i) s = .next (u.returned p i) := by
  show execSpillComplete p i s = _
  unfold execSpillComplete
  dsimp only
  rw [hs, hk]
  dsimp only
  rw [hr]
  exact congrArg _ (replayGuard_live s _ p hl)

/-- A parcel that is back in its slot. -/
def backParcel (y : Parcel) : Parcel := { y with state := if y.filled = 256 then .full else .tail, check := none, prSlot := none }

/-- The state of a parcel whose lines are written again. -/
def fetchedDone (s : State) (p i : Nat) (bs : List Byte) : State :=
  (((((s.writeParcel (s.parcel p i).pln bs).modRound p (fun r =>
    { r with pr := { r.pr with used := r.pr.used.filter (fun k => (s.parcel p i).prSlot != some k) } })).modParcel p i backParcel).journalHappening p 4
      i).fetchedBack p)

theorem writeParcel_round (pln : Nat) (bs : List Byte) : (s.writeParcel pln bs).round p = s.round p :=
  congrArg Part.round (part_of_parts ((only_writeParcel (within_refl _) pln bs (only_refl _ s)).same .parts (by simp)) p)

theorem fetchedBack_round {γ : Type} (w : Round → γ) (hw : ∀ r a b, w { r with fetchBack := a, hinted := b } = w r) :
    w ((s.fetchedBack p).round p) = w (s.round p) := by
  unfold State.fetchedBack
  rw [modRound_round_same, hw]

theorem fetchedDone_ledger (i : Nat) (bs : List Byte) : ((fetchedDone s p i bs).round p).ledger =
    Tab.modify (fun _ => Parcel.reset) (s.round p).ledger i backParcel := by
  unfold fetchedDone
  rw [fetchedBack_round Round.ledger (fun _ _ _ => rfl), journalHappening_round]
  unfold State.modParcel
  rw [modRound_round_same, modRound_round_same, writeParcel_round]

theorem fetchedDone_entries (i : Nat) (bs : List Byte) : ((fetchedDone s p i bs).round p).entries = (s.round p).entries := by
  unfold fetchedDone
  rw [fetchedBack_round Round.entries (fun _ _ _ => rfl), journalHappening_round, modParcel_round Round.entries (fun _ _ => rfl),
    modRound_round_same, writeParcel_round]

theorem fetchedDone_mem (i : Nat) (bs : List Byte) : (fetchedDone s p i bs).mem = (s.writeParcel (s.parcel p i).pln bs).mem := by
  have happening := only_journalHappening (within_refl _) p.val 4 i (only_refl _ (((s.writeParcel (s.parcel p i).pln bs).modRound p (fun r =>
    { r with pr := { r.pr with used := r.pr.used.filter (fun k => (s.parcel p i).prSlot != some k) } })).modParcel p i backParcel))
  exact happening.same .mem (by simp)

theorem exec_fetchBackComplete {i : Nat} (hs : (s.parcel p i).state = .fetching) {cipher : List Byte} {tag : Line} {bs : List Byte}
    (ho : openParcel (s.parcel p i) (s.round p).pr.key p i cipher tag = some bs) :
    exec (.fetchBackComplete p i (some (cipher, tag))) s = .next (fetchedDone s p i bs) := by
  show execFetchBackComplete p i _ s = _
  unfold execFetchBackComplete
  dsimp only
  simp only [hs, ne_eq, not_true_eq_false, if_false, Option.bind_some, ho]
  rfl

theorem exec_fetchBackComplete_returned {i : Nat} (hs : (s.parcel p i).state = .fetching) (hl : s.replaying p = false)
    {c : Option (List Byte × Line)} (ho : ∀ x, c = some x → openParcel (s.parcel p i) (s.round p).pr.key p i x.1 x.2 = none) :
    ∃ arg, exec (.fetchBackComplete p i c) s = .next (((s.returned p i).fetchedBack p).post (p.val + 1) 4 2 p arg) := by
  have none : c.bind (fun c => openParcel (s.parcel p i) (s.round p).pr.key p i c.1 c.2) = none := by
    cases c with
    | none => rfl
    | some x => exact ho x rfl
  show ∃ arg, execFetchBackComplete p i c s = _
  unfold execFetchBackComplete
  dsimp only
  rw [if_neg (not_not_intro hs), none]
  dsimp only
  rw [replayGuard_live s _ p hl]
  exact ⟨_, rfl⟩

theorem returned_parcel (i : Nat) (h : (s.parcel p i).state.resident = true) : ∃ q : Parcel, (s.returned p i).parcel p i = q ∧
    q.state = .returned ∧ q.filled = 0 ∧ q.check = none := by
  have returned := returnParcel_parcel_same (s := s.journalHappening p 1 i) (p := p) i
  rw [returned_eq i h]
  split
  · refine ⟨_, (parcel_congr ?_ i).trans returned, rfl, rfl, rfl⟩
    exact foldl_keeps (fun u : State => (u.round p).ledger) (fun u (q : Nat × Option Prefix) => unreadied p i u q.1)
      (fun u q => unreadied_round Round.ledger (fun _ _ _ => rfl) i q.1 u) _ _
  · exact ⟨_, (parcel_congr (modSeq_round Round.ledger (fun _ _ => rfl) _ _) i).trans returned, rfl, rfl, rfl⟩

/-- A spilled parcel on its way back, its data and its tag asked for. -/
def fetchingBack (s : State) (p : PartId) (k slot pln : Nat) : State :=
  ((s.modParcel p k (fun y => { y with state := .fetching, pln := pln })).hostRead (p.val + 1) (s.prData p slot) 65536).hostRead
    (p.val + 1) (s.prTag p slot) 64

theorem fetchParcel_eq {s : State} {p : PartId} {m : Model} {seq k slot pln : Nat} {hint : Bool} (hm : (s.round p).model = some m)
    (hk : (s.parcel p k).prSlot = some slot)
    (room : hint = true → s.reserve p (homeStack (m.heads' (s.parcel p k).draft) (s.parcel p k).head (s.parcel p k).layer) <
      s.freeSlots p (homeStack (m.heads' (s.parcel p k).draft) (s.parcel p k).head (s.parcel p k).layer))
    (fresh : s.freshSlot p (homeStack (m.heads' (s.parcel p k).draft) (s.parcel p k).head (s.parcel p k).layer) (s.parcel p k).number
      false seq = some pln) :
    s.fetchParcel p seq k hint = fetchingBack s p k slot pln := by
  unfold State.fetchParcel
  rw [hm, hk]
  dsimp only
  rw [if_neg, fresh]
  · rfl
  · simpa using room

theorem fetchingBack_parts {s : State} {p : PartId} {k slot pln : Nat} : (fetchingBack s p k slot pln).parts =
    (s.modParcel p k (fun y => { y with state := .fetching, pln := pln })).parts :=
  (hostRead_parts _ _ _ _).trans (hostRead_parts _ _ _ _)

theorem fetchingBack_out {s : State} {p : PartId} {k slot pln : Nat} (good : s.linkGood = true) : (fetchingBack s p k slot pln).out =
    s.out ++ hostReads (p.val + 1) 65536 (s.prData p slot) 65536 ++ hostReads (p.val + 1) 64 (s.prTag p slot) 64 := by
  have first : (s.modParcel p k (fun y => { y with state := .fetching, pln := pln })).linkGood = true := good
  unfold fetchingBack State.hostRead
  rw [toHost_out, toHost_out _ _ first]
  · rfl
  · unfold State.linkGood
    rw [toHost_module]
    exact good

end

/-- Settles O27: what relief takes first, and each parcel's way to the host and back. -/
theorem reliefSpillsAndFetchesBack : Obligations.ReliefSpillsAndFetchesBack := by
  unfold Obligations.ReliefSpillsAndFetchesBack
  refine ⟨⟨fun p st s hm hs hl => ⟨fun k rest he => ?_, fun i e he hv hn hi => ?_⟩, fun p seq s hc => ?_, fun p seq k slot pln hint s m hm hk hg => ?_⟩,
    ⟨fun p i k s u hs hk => ⟨fun bs hr => ?_, fun hl hr => completes_next (exec_spillComplete_failed hs hk hl hr) rfl⟩,
      fun p i s hs => ⟨fun cipher tag bs ho => ?_, fun hl c ho => ?_⟩⟩⟩
  · have run : exec (.relief p st) s = .next (s.relieve p st) :=
      congrArg Host.Outcome.next ((if_neg (by simp [hm, hs])).trans (replayGuard_live s _ p hl))
    have frame := only_relieve (within_refl _) p.val st.val (only_refl _ s)
    exact completes_next run ⟨relieve_evicts hs he, frame.same .mem (by simp), frame.same .regs (by simp), frame.same .clusters (by simp),
      frame.same .engines (by simp)⟩
  · have run : exec (.relief p st) s = .next (s.relieve p st) :=
      congrArg Host.Outcome.next ((if_neg (by simp [hm, hs])).trans (replayGuard_live s _ p hl))
    refine completes_next (run.trans (congrArg _ (relieve_pauses hs he hv hn hi))) ⟨setSeq_seqAt_same _ _, fun k hk => setSeq_seqAt_ne _ hk,
      ⟨rfl, fun k hk => othersStand_modPart _ k hk⟩, ?_⟩
    unfold State.setSeq
    rw [modRound_round_same]
  · exact completes_next (congrArg Host.Outcome.next (if_pos (by simpa using hc))) rfl
  · intro st room fresh
    have parcels : ∀ j, (fetchingBack s p k slot pln).parcel p j =
        (s.modParcel p k (fun y => { y with state := .fetching, pln := pln })).parcel p j := fun j =>
      parcel_congr (congrArg Round.ledger (congrArg Part.round (part_of_parts fetchingBack_parts p))) j
    dsimp only
    rw [fetchParcel_eq hm hk room fresh]
    refine ⟨?_, fun j hj => ?_, fetchingBack_out hg, ?_⟩
    · rw [parcels, modParcel_parcel_same]
    · rw [parcels, modParcel_parcel_ne _ hj]
    · exact (hostRead_mem _ _ _ _).trans (hostRead_mem _ _ _ _)
  · have frame := spillDone_only (u := u) (p := p) i k (s.parcel p i) bs
    have round := spillDone_round (u := u) (p := p) i k (s.parcel p i) bs
    refine completes_next (exec_spillComplete hs hk hr) ⟨frame.same .mem (by simp), spillDone_parcel_same _ _ _ _, ?_,
      fun j hj => spillDone_parcel_ne _ _ _ hj, ?_⟩
    · rw [round]
    · rw [round]
  · have ledger := fetchedDone_ledger (s := s) (p := p) i bs
    refine completes_next (exec_fetchBackComplete hs ho) ⟨fetchedDone_mem i bs, ?_, fun j hj => ?_, fetchedDone_entries i bs⟩
    · unfold State.parcel
      rw [ledger]
      exact tab_get_modify_same _ _ _ _
    · unfold State.parcel
      rw [ledger]
      exact tab_get_modify_ne _ _ _ _ _ hj
  · obtain ⟨arg, run⟩ := exec_fetchBackComplete_returned hs hl ho
    obtain ⟨q, hq, hstate, hfilled, hcheck⟩ := returned_parcel (s := s) (p := p) i (by rw [hs]; rfl)
    have back := only_fetchedBack (within_refl _) p.val (only_refl _ (s.returned p i))
    have posted := only_post (within_refl _) (p.val + 1) 4 2 p.val arg (only_refl _ ((s.returned p i).fetchedBack p))
    have returned := only_returned (within_refl _) p.val i (only_refl _ s)
    have parcel : (((s.returned p i).fetchedBack p).post (p.val + 1) 4 2 p arg).parcel p i = q :=
      (parcel_congr ((congrArg Round.ledger (congrArg Part.round (part_of_parts (posted.same .parts (by simp)) p))).trans
        (fetchedBack_round Round.ledger fun _ _ _ => rfl)) i).trans hq
    refine completes_next run ⟨?_, ?_, ?_, ?_⟩
    · exact (posted.same .mem (by simp)).trans ((back.same .mem (by simp)).trans (returned.same .mem (by simp)))
    · rw [parcel, hstate]
    · rw [parcel, hfilled]
    · rw [parcel, hcheck]

end Sys2Proof.Proofs
end

section
/-! PROOF of the end, the abandonment and the release of a step (08 R243 to R246; 09 R278) -/

namespace Sys2Proof.Proofs

open Sys2Proof Sys2Proof.Machine Sys2Proof.Laws

/-! ### The marks of a step (08 R243 to R246)

What commits and abandonments do to the ledger, the entries and the credits leaves the marks of the step under way as they are. -/

/-- The step's number, its sheet, its abandonment and the counts and causes of it. -/
def stepMarks (r : Round) : W64 × Option Sheet × Bool × Nat × Nat × List AbandonCause :=
  (r.step, r.sheet, r.abandoning, r.reissue, r.strikes, r.causes)

/-- A change of partition p's affairs that leaves the other partitions, and p's step and resources; a replay may complete or stop. -/
structure StepKept (p : Nat) (s t : State) : Prop where
  others : OthersStand p s t
  marks : stepMarks (t.round p) = stepMarks (s.round p)
  applied : (t.part p).applied = (s.part p).applied
  faults : (t.part p).jobFaults = (s.part p).jobFaults
  replay : (s.part p).journal.replay ∈ [1, 2, 3] → (t.part p).journal.replay ∈ [1, 2, 3]

section

variable {s t u : State} {p : Nat}

theorem stepKept_refl : StepKept p s s := ⟨fun _ _ => rfl, rfl, rfl, rfl, id⟩

theorem stepKept_trans (h : StepKept p s t) (g : StepKept p t u) : StepKept p s u :=
  ⟨othersStand_trans h.others g.others, g.marks.trans h.marks, g.applied.trans h.applied, g.faults.trans h.faults,
    fun r => g.replay (h.replay r)⟩

theorem stepKept_modPart {f : Part → Part} (marks : stepMarks (f (s.part p)).round = stepMarks (s.round p))
    (applied : (f (s.part p)).applied = (s.part p).applied) (faults : (f (s.part p)).jobFaults = (s.part p).jobFaults)
    (replay : (s.part p).journal.replay ∈ [1, 2, 3] → (f (s.part p)).journal.replay ∈ [1, 2, 3]) : StepKept p s (s.modPart p f) := by
  have part := modPart_part_same s p f
  refine ⟨othersStand_modPart f, ?_, ?_, ?_, ?_⟩
  · unfold State.round
    rw [part]
    exact marks
  · rw [part, applied]
  · rw [part, faults]
  · rw [part]
    exact replay

theorem stepKept_parts (h : t.parts = s.parts) : StepKept p s t := by
  have part := part_of_parts h p
  refine ⟨othersStand_parts h, ?_, by rw [part], by rw [part], by rw [part]; exact id⟩
  unfold State.round
  rw [part]

theorem stepKept_only {L : List Fld} (h : Only L s t) (hp : Fld.parts ∉ L) : StepKept p s t := stepKept_parts (h.same .parts hp)

theorem stepKept_host (h : OnlyHost s t) : StepKept p s t := stepKept_parts (onlyHost_parts h)

theorem stepKept_modRound {f : Round → Round} (h : stepMarks (f (s.round p)) = stepMarks (s.round p)) : StepKept p s (s.modRound p f) :=
  stepKept_modPart h rfl rfl id

theorem stepKept_foldl {α : Type} {f : State → α → State} (h : ∀ u a, StepKept p u (f u a)) (l : List α) (s : State) :
    StepKept p s (l.foldl f s) := by
  induction l generalizing s with
  | nil => exact stepKept_refl
  | cons a l ih => exact stepKept_trans (h s a) (ih _)

/-! #### The journal and the rings -/

theorem stepKept_journal (typ : Nat) (body : List Byte) : StepKept p s (s.journal p typ body) := by
  unfold State.journal
  split
  · exact stepKept_refl
  · split
    · exact stepKept_refl
    · exact stepKept_trans (stepKept_modPart rfl rfl rfl id) (stepKept_foldl (fun _ _ => stepKept_host (onlyHost_putRing _ _ _ _)) _ _)

theorem stepKept_useFree : StepKept p s s.useFree := stepKept_parts rfl

theorem stepKept_journalTime (purpose : Nat) : StepKept p s (s.journalTime p purpose) := by
  unfold State.journalTime
  dsimp only
  split
  · exact stepKept_trans (stepKept_journal _ _) stepKept_useFree
  · exact stepKept_journal _ _

theorem stepKept_failReplay (reason : Nat) : StepKept p s (s.failReplay p reason) := by
  refine stepKept_modPart ?_ ?_ ?_ fun h => ?_ <;> dsimp only <;> split
  · rfl
  · rfl
  · rfl
  · rfl
  · rfl
  · rfl
  · exact by simp
  · exact h

theorem stepKept_journalHappening (what cause : Nat) : StepKept p s (s.journalHappening p what cause) := by
  unfold State.journalHappening
  dsimp only
  split
  · exact stepKept_journal _ _
  · split
    · exact stepKept_trans (stepKept_journal _ _) (stepKept_trans stepKept_useFree (stepKept_failReplay _))
    · exact stepKept_trans (stepKept_journal _ _) stepKept_useFree

theorem stepKept_post (fn block code inst arg : Nat) : StepKept p s (s.post fn block code inst arg) :=
  stepKept_only (only_post (within_refl _) fn block code inst arg (only_refl _ s)) (by simp)

theorem stepKept_postTo (fns : List Nat) (block code inst arg : Nat) : StepKept p s (s.postTo fns block code inst arg) :=
  stepKept_only (only_postTo (within_refl _) fns block code inst arg (only_refl _ s)) (by simp)

theorem stepKept_answer (fn ring typ status tenant req admitted : Nat) :
    StepKept p s (s.answer p fn ring typ status tenant req admitted) :=
  stepKept_trans (stepKept_journalTime 4) (stepKept_host (onlyHost_putRing _ _ _ _))

theorem stepKept_returnToken (it : Item) : StepKept p s (s.returnToken p it) :=
  stepKept_only (only_returnToken (within_refl _) p it (only_refl _ s)) (by simp)

theorem stepKept_settleLevels : StepKept p s s.settleLevels := stepKept_only (only_settleLevels (within_refl _) (only_refl _ s)) (by simp)

/-! #### Sequences, shared entries and parcels -/

theorem stepKept_setSeq (i : Nat) (e : Option RoundEntry) : StepKept p s (s.setSeq p i e) := stepKept_modRound rfl

theorem stepKept_modSeq (i : Nat) (f : RoundEntry → RoundEntry) : StepKept p s (s.modSeq p i f) := by
  unfold State.modSeq
  split
  · exact stepKept_setSeq _ _
  · exact stepKept_refl

theorem stepKept_setPrefix (i : Nat) (e : Option Prefix) : StepKept p s (s.setPrefix p i e) := stepKept_modRound rfl

theorem stepKept_modPrefix (i : Nat) (f : Prefix → Prefix) : StepKept p s (s.modPrefix p i f) := by
  unfold State.modPrefix
  split
  · exact stepKept_setPrefix _ _
  · exact stepKept_refl

theorem stepKept_modParcel (i : Nat) (f : Parcel → Parcel) : StepKept p s (s.modParcel p i f) := stepKept_modRound rfl

/-- A poste restante slot that a parcel leaves is free (07 R217). -/
theorem stepKept_slotLeft (k : Option Nat) : StepKept p s (s.modRound p (fun r => match k with
    | some k => { r with pr := { r.pr with used := r.pr.used.filter (· != k) } }
    | none => r)) := stepKept_modRound (by cases k <;> rfl)

theorem stepKept_freeParcels (is : List Nat) : StepKept p s (s.freeParcels p is) :=
  stepKept_foldl (fun _ _ => stepKept_trans (stepKept_modRound (by dsimp only; split <;> rfl)) (stepKept_modParcel _ _)) is s

theorem stepKept_returnParcel (i : Nat) : StepKept p s (s.returnParcel p i) :=
  stepKept_trans (stepKept_modRound (by dsimp only; split <;> rfl)) (stepKept_modParcel _ _)

theorem stepKept_dropSeq (i : Nat) : StepKept p s (s.dropSeq p i) := by
  unfold State.dropSeq
  split
  · exact stepKept_refl
  · next e _ =>
    have freed := stepKept_freeParcels (s := s) (p := p) (s.privateParcels p i)
    generalize s.freeParcels p (s.privateParcels p i) = t at freed ⊢
    refine stepKept_trans freed ?_
    cases e.prefixEntry with
    | none => exact stepKept_trans (stepKept_modRound rfl) (stepKept_setSeq _ _)
    | some k => exact stepKept_trans (stepKept_trans (stepKept_modPrefix k _) (stepKept_modRound rfl)) (stepKept_setSeq _ _)

theorem stepKept_endSeq (i status : Nat) : StepKept p s (s.endSeq p i status) := by
  unfold State.endSeq
  split
  · exact stepKept_refl
  · exact stepKept_trans (stepKept_trans (stepKept_journalTime 4) (stepKept_host (onlyHost_putRing _ _ _ _))) (stepKept_dropSeq _)

theorem stepKept_endRequests (status : Nat) : StepKept p s (s.endRequests p status) := by
  unfold State.endRequests
  refine stepKept_trans (stepKept_trans (stepKept_foldl (fun _ (q : Nat × RoundEntry) => stepKept_endSeq q.1 _) _ s) (stepKept_foldl (fun _ a => ?_) _ _))
    (stepKept_modRound rfl)
  exact stepKept_answer _ _ _ _ _ _ _

theorem stepKept_wake (i : Nat) : StepKept p s (s.wake p i) := by
  unfold State.wake
  split
  · exact stepKept_refl
  · dsimp only
    split
    · exact stepKept_trans (stepKept_setSeq _ _) (stepKept_modRound rfl)
    · exact stepKept_setSeq _ _

/-- A shared entry that a returned parcel belongs to is ready no longer. -/
theorem stepKept_unreadied (i k : Nat) : StepKept p s (unreadied p i s k) := by
  unfold unreadied
  split
  · exact stepKept_refl
  · split
    · refine stepKept_trans (stepKept_setPrefix _ _) (stepKept_foldl (fun v w => ?_) _ _)
      split
      · exact stepKept_setSeq _ _
      · exact stepKept_refl
    · exact stepKept_refl

theorem stepKept_returned (i : Nat) : StepKept p s (s.returned p i) := by
  have back := stepKept_trans (stepKept_journalHappening (s := s) (p := p) 1 i) (stepKept_returnParcel i)
  unfold State.returned
  dsimp only
  split
  · exact stepKept_refl
  · split
    · exact stepKept_trans back (stepKept_foldl (fun _ (q : Nat × Option Prefix) => stepKept_unreadied i q.1) _ _)
    · exact stepKept_trans back (stepKept_modSeq _ _)

theorem stepKept_prefixReady (k : Nat) : StepKept p s (s.prefixReady p k) := by
  unfold State.prefixReady
  split
  · exact stepKept_refl
  · refine stepKept_trans (stepKept_setPrefix _ _) (stepKept_foldl (fun u q => ?_) _ _)
    dsimp only
    split
    · split
      · exact stepKept_trans (stepKept_setSeq _ _) (stepKept_wake _)
      · exact stepKept_setSeq _ _
    · exact stepKept_refl

theorem stepKept_wakeBuilder (k : Nat) : StepKept p s (s.wakeBuilder p k) := by
  refine stepKept_foldl (fun u q => ?_) _ s
  split
  · exact stepKept_wake _
  · exact stepKept_refl

theorem stepKept_finishPrefixes : StepKept p s (s.finishPrefixes p) := by
  refine stepKept_foldl (fun u q => ?_) _ s
  split
  · exact stepKept_refl
  · dsimp only
    split
    · exact stepKept_refl
    · split
      · exact stepKept_prefixReady _
      · exact stepKept_wakeBuilder _

/-! #### The items of a commit (08 R243) -/

theorem stepKept_touch (is : List Nat) : StepKept p s (s.touch p is) := stepKept_foldl (fun _ _ => stepKept_modParcel _ _) is s

theorem stepKept_settle (i : Nat) (draft : Bool) (start kv : Nat) : StepKept p s (s.settle p i draft start kv) := by
  unfold State.settle
  split
  · exact stepKept_refl
  · refine stepKept_trans (stepKept_foldl (fun t j => ?_) _ s) (stepKept_modSeq _ _)
    split
    · exact stepKept_refl
    · dsimp only
      split
      · exact stepKept_freeParcels _
      · exact stepKept_foldl (fun u k => stepKept_modParcel k _) _ t

theorem stepKept_settleRecompute (e : RoundEntry) (it : Item) (back : List Nat) : StepKept p s (s.settleRecompute p e it back) := by
  have refilled (mine : List Nat) : StepKept p s (back.foldl (fun t i =>
      if 256 * (t.parcel p i).number < it.position ∨ it.position + it.tokens ≤ 256 * (t.parcel p i).number ∨ !mine.contains i then t
      else t.modParcel p i (fun y => { y.fill y.lost with lost := 0 })) s) := by
    refine stepKept_foldl (fun t i => ?_) back s
    split
    · exact stepKept_refl
    · exact stepKept_modParcel _ _
  unfold State.settleRecompute
  dsimp only
  have counted := stepKept_trans (refilled ((s.recomputeMaps p e).1.flatMap (s.setOf p false) ++ (s.recomputeMaps p e).2.flatMap (s.setOf p true)))
    (stepKept_modRound (f := fun r => { r with recomputeAccount := r.recomputeAccount + it.tokens }) rfl)
  refine stepKept_trans (stepKept_trans counted ?_) (stepKept_modSeq _ _)
  split
  · split
    · exact stepKept_refl
    · exact stepKept_modPrefix _ _
  · exact stepKept_refl

theorem stepKept_chunkScales (is : List Nat) : StepKept p s (s.chunkScales p is) := by
  unfold State.chunkScales
  split
  · exact stepKept_refl
  · refine stepKept_trans stepKept_useFree (stepKept_foldl (fun t i => ?_) _ _)
    split
    · exact stepKept_modParcel _ _
    · exact stepKept_refl

theorem stepKept_chargeItem (e : RoundEntry) (it : Item) (c : Nat) : StepKept p s (s.chargeItem p e it c) := by
  unfold State.chargeItem
  dsimp only
  split
  · exact stepKept_modRound rfl
  · split
    · exact stepKept_modRound rfl
    · exact stepKept_refl

theorem stepKept_commitItem (sh : Sheet) (now : W64) (a : Item × ItemOutput) : StepKept p s (s.commitItem p sh now a).1 := by
  unfold State.commitItem
  dsimp only
  split
  · exact stepKept_refl
  · next e _ =>
    split
    · exact stepKept_refl
    · exact stepKept_trans (stepKept_settleRecompute _ _ _) (stepKept_modSeq _ _)
    · dsimp only
      refine stepKept_trans ?_ (stepKept_chargeItem _ _ _)
      have settled (e' : RoundEntry) (i j k l : Nat) : StepKept p s
          (((s.setSeq p a.1.index (some e')).settle p a.1.index false i j).settle p a.1.index true k l) :=
        stepKept_trans (stepKept_trans (stepKept_setSeq _ _) (stepKept_settle _ _ _ _)) (stepKept_settle _ _ _ _)
      split
      · exact stepKept_trans (settled _ _ _ _ _) (stepKept_chunkScales _)
      · exact settled _ _ _ _ _

theorem stepKept_commitItems (sh : Sheet) (now : W64) (l : List (Item × ItemOutput)) : StepKept p s (s.commitItems p sh now l).1 := by
  induction l generalizing s with
  | nil => exact stepKept_refl
  | cons a l ih => exact stepKept_trans (stepKept_commitItem sh now a) ih

theorem stepKept_markLate (now : W64) : StepKept p s (s.markLate p now) := by
  refine stepKept_foldl (fun t q => ?_) _ s
  dsimp only
  split
  · exact stepKept_trans (stepKept_setSeq _ _) (stepKept_post _ _ _ _ _)
  · exact stepKept_refl

theorem stepKept_record (now : W64) (y : Yield) : StepKept p s (s.record p now y) := by
  unfold State.record
  split
  · exact stepKept_refl
  · next e _ =>
    have told (b : Bool) (bs : List Byte) : StepKept p s
        (if b then s.returnToken p y.item else s.putRing (p + 1) e.tokenRing bs) := by
      split
      · exact stepKept_returnToken _
      · exact stepKept_host (onlyHost_putRing _ _ _ _)
    dsimp only
    split
    · exact stepKept_trans (told _ _) (stepKept_endSeq _ _)
    · exact told _ _

theorem stepKept_endOthers : StepKept p s (s.endOthers p) := by
  refine stepKept_foldl (fun t q => ?_) _ s
  split
  · exact stepKept_endSeq _ _
  · exact stepKept_refl

/-- A replay that checks its step goes on, completes or stops (19 R459, R460). -/
theorem stepKept_checkStep : StepKept p s (s.checkStep p) := by
  have noted : StepKept p s (if bitAt s.freeVal 0 then s.useFree.modPart p (fun x => { x with journal := { x.journal with
      mismatched := true, stepAt := if x.journal.mismatched then x.journal.stepAt else x.round.step } }) else s.useFree) := by
    split
    · exact stepKept_trans stepKept_useFree (stepKept_modPart rfl rfl rfl id)
    · exact stepKept_useFree
  unfold State.checkStep
  split
  · exact stepKept_refl
  · dsimp only
    split
    · exact stepKept_trans noted (stepKept_failReplay _)
    · split
      · exact noted
      · exact stepKept_trans noted (stepKept_modPart rfl rfl rfl (fun _ => by simp))
      · exact stepKept_trans noted (stepKept_failReplay _)
      · exact stepKept_trans noted (stepKept_failReplay _)

theorem stepKept_addCredit (k : Nat) (d : Int) : StepKept p s (s.addCredit p k d) := stepKept_modRound rfl

theorem stepKept_measure (tau sigma dur : Nat) : StepKept p s (s.measure p tau sigma dur) := by
  have drawn : StepKept p s s.useFree.useFree.useFree := stepKept_parts rfl
  unfold State.measure
  dsimp only
  split
  · split
    · exact stepKept_modRound rfl
    · exact stepKept_trans drawn (stepKept_modRound rfl)
  · exact stepKept_modRound rfl

theorem stepKept_spendSlice : StepKept p s (s.spendSlice p) := by
  refine stepKept_foldl (fun t j => ?_) _ s
  split
  · exact stepKept_addCredit _ _
  · exact stepKept_refl

theorem stepKept_boundary : StepKept p s (s.boundary p) := stepKept_trans stepKept_spendSlice (stepKept_modPart rfl rfl rfl id)

/-! ### The commit of a step (08 R243) -/

variable (sh : Sheet) (outputs : List ItemOutput) (probe : List Byte)

/-- The ledger is touched, cancellations take effect. -/
def stepMarked (s : State) (p : Nat) (sh : Sheet) : State :=
  let t := (s.journalTime p 2).touch p (s.namedParcels p sh.items)
  (t.seqs p).foldl (fun u q => u.setSeq p q.1 (some (t.cancelNow p sh.items q))) t

/-- The items are committed, what the sieve returned is returned, and the prefixes are finished. -/
def stepSettled (s : State) (p : Nat) (sh : Sheet) (outputs : List ItemOutput) : State :=
  let t := ((stepMarked s p sh).commitItems p sh (s.roundNow p) (sh.items.zip outputs)).1
  let t := ((t.round p).toReturn).foldl (fun u i => u.returned p i) t
  let t := (t.modRound p (fun x => { x with toReturn := [] })).finishPrefixes p
  (t.seqs p).foldl (fun u q => u.setSeq p q.1 (some q.2.classNow)) t

/-- What the step yielded is delivered, and what has ended is answered. -/
def stepDelivered (s : State) (p : Nat) (sh : Sheet) (outputs : List ItemOutput) : State :=
  (((stepMarked s p sh).commitItems p sh (s.roundNow p) (sh.items.zip outputs)).2.foldl (fun u y => u.record p (s.roundNow p) y)
    ((stepSettled s p sh outputs).markLate p (s.roundNow p))).endOthers p

/-- The step is in the journal, checked and charged. -/
def stepCharged (s : State) (p : Nat) (sh : Sheet) (outputs : List ItemOutput) (probe : List Byte) : State :=
  let be := sh.items.filter (fun it => it.be)
  let t := ((stepDelivered s p sh outputs).journal p 0x0B (toBytes 32 (sha3 (sh.digestBytes outputs probe)).toNat)).checkStep p
  let m := (t.round p).stepModel
  let spent := ((m.dTok * (be.map (fun it => (it.tokens : Int))).sum + m.dSpan * (s.sigmaOf p be : Int)) / (m.den : Int))
  (if be.isEmpty then t else t.addCredit p 0 (-spent)).measure p (sh.items.map (·.tokens)).sum (s.sigmaOf p sh.items)
    ((s.roundNow p).toNat - sh.builtAt.toNat)

/-- The step number rises and the sheet is gone. -/
def stepAdvanced (s : State) (p : Nat) (sh : Sheet) (outputs : List ItemOutput) (probe : List Byte) : State :=
  (stepCharged s p sh outputs probe).modRound p (fun x =>
    { x with step := x.step + 1, sheet := none, reissue := 0, strikes := 0, excluded := [],
             history := (s.allocatedIn p sh :: x.history).take 64 })

theorem commitStep_eq : s.commitStep p sh outputs probe = (if ((stepAdvanced s p sh outputs probe).part p).sliceDue
    then (stepAdvanced s p sh outputs probe).boundary p else stepAdvanced s p sh outputs probe).settleLevels := by
  unfold State.commitStep stepAdvanced stepCharged stepDelivered stepSettled stepMarked
  rfl

theorem stepKept_setSeqs (f : Nat × RoundEntry → RoundEntry) (l : List (Nat × RoundEntry)) :
    StepKept p s (l.foldl (fun u q => u.setSeq p q.1 (some (f q))) s) := stepKept_foldl (fun _ q => stepKept_setSeq q.1 _) l s

theorem stepKept_marked : StepKept p s (stepMarked s p sh) :=
  stepKept_trans (stepKept_trans (stepKept_journalTime 2) (stepKept_touch _)) (stepKept_setSeqs _ _)

theorem stepKept_settled : StepKept p s (stepSettled s p sh outputs) := by
  unfold stepSettled
  have items := stepKept_trans (stepKept_marked (s := s) (p := p) sh) (stepKept_commitItems sh (s.roundNow p) (sh.items.zip outputs))
  refine stepKept_trans (stepKept_trans (stepKept_trans (stepKept_trans items ?_) (stepKept_modRound rfl)) stepKept_finishPrefixes)
    (stepKept_setSeqs _ _)
  exact stepKept_foldl (fun _ i => stepKept_returned i) _ _

theorem stepKept_delivered : StepKept p s (stepDelivered s p sh outputs) := by
  unfold stepDelivered
  refine stepKept_trans (stepKept_trans (stepKept_trans (stepKept_settled sh outputs) (stepKept_markLate (s.roundNow p))) ?_) stepKept_endOthers
  exact stepKept_foldl (fun _ y => stepKept_record _ y) _ _

theorem stepKept_charged : StepKept p s (stepCharged s p sh outputs probe) := by
  unfold stepCharged
  have checked := stepKept_trans (stepKept_trans (stepKept_delivered (s := s) (p := p) sh outputs)
    (stepKept_journal 0x0B (toBytes 32 (sha3 (sh.digestBytes outputs probe)).toNat))) stepKept_checkStep
  refine stepKept_trans (stepKept_trans checked ?_) (stepKept_measure _ _ _)
  split
  · exact stepKept_refl
  · exact stepKept_addCredit _ _

/-- What stands of partition p once its step has advanced. -/
theorem commitStep_advanced : StepKept p (stepAdvanced s p sh outputs probe) (s.commitStep p sh outputs probe) := by
  rw [commitStep_eq]
  refine stepKept_trans ?_ stepKept_settleLevels
  split
  · exact stepKept_boundary
  · exact stepKept_refl

theorem commitItem_only {L : List Fld} {s₀ : State} (hL : Within [.free, .parts] L) (now : W64) (a : Item × ItemOutput)
    (h : Only L s₀ s) : Only L s₀ (s.commitItem p sh now a).1 := by
  dsimp only [State.commitItem]
  repeat' first
    | with_reducible assumption
    | with_reducible apply only_settleRecompute
    | with_reducible apply only_modSeq
    | with_reducible apply only_setSeq
    | with_reducible apply only_settle
    | with_reducible apply only_chunkScales
    | with_reducible apply only_chargeItem
    | split
  all_goals exact within_sub (by decide) hL

theorem commitItems_only {L : List Fld} {s₀ : State} (hL : Within [.free, .parts] L) (now : W64) (l : List (Item × ItemOutput))
    (h : Only L s₀ s) : Only L s₀ (s.commitItems p sh now l).1 := by
  induction l generalizing s with
  | nil => exact h
  | cons a l ih => exact ih (commitItem_only sh hL now a h)

/-- A commit changes no line, no cluster and no engine (08 R243). -/
theorem commitStep_only : Only [.free, .out, .unsent, .stackTab, .parts, .fns, .buckets, .intr] s (s.commitStep p sh outputs probe) := by
  have hL := within_refl [Fld.free, .out, .unsent, .stackTab, .parts, .fns, .buckets, .intr]
  have h := only_refl [Fld.free, .out, .unsent, .stackTab, .parts, .fns, .buckets, .intr] s
  dsimp only [State.commitStep]
  repeat' first
    | with_reducible assumption
    | with_reducible apply only_foldl
    | intro _ _ _
    | with_reducible apply only_journalTime
    | with_reducible apply only_touch
    | with_reducible apply only_setSeq
    | with_reducible apply commitItems_only
    | with_reducible apply only_returned
    | with_reducible apply only_modRound
    | with_reducible apply only_finishPrefixes
    | with_reducible apply only_markLate
    | with_reducible apply only_record
    | with_reducible apply only_endOthers
    | with_reducible apply only_journal
    | with_reducible apply only_checkStep
    | with_reducible apply only_addCredit
    | with_reducible apply only_measure
    | with_reducible apply only_boundary
    | with_reducible apply only_settleLevels
    | split
  all_goals exact within_sub (by decide) hL

/-- The marks of a partition whose step has been committed. -/
theorem commitStep_marks : ((s.commitStep p sh outputs probe).round p).step = (s.round p).step + 1 ∧
    ((s.commitStep p sh outputs probe).round p).sheet = none ∧ ((s.commitStep p sh outputs probe).round p).reissue = 0 ∧
    ((s.commitStep p sh outputs probe).round p).strikes = 0 := by
  have marks := (commitStep_advanced (s := s) (p := p) sh outputs probe).marks
  have charged := (stepKept_charged (s := s) (p := p) sh outputs probe).marks
  have advanced : stepMarks ((stepAdvanced s p sh outputs probe).round p) = (((stepCharged s p sh outputs probe).round p).step + 1, none,
      ((stepCharged s p sh outputs probe).round p).abandoning, 0, 0, ((stepCharged s p sh outputs probe).round p).causes) := by
    unfold stepAdvanced
    rw [modRound_round_same]
    rfl
  rw [advanced] at marks
  simp only [stepMarks, Prod.mk.injEq] at marks charged
  obtain ⟨step, sheet, -, reissue, strikes, -⟩ := marks
  exact ⟨step.trans (congrArg (· + 1) charged.1), sheet, reissue, strikes⟩

theorem boundary_excluded : ((s.boundary p).round p).excluded = (s.round p).excluded := by
  have spent : ((s.spendSlice p).round p).excluded = (s.round p).excluded := by
    refine foldl_keeps (fun u : State => (u.round p).excluded) _ (fun u j => ?_) _ s
    split
    · unfold State.addCredit
      rw [modRound_round_same]
    · rfl
  unfold State.boundary State.round
  rw [modPart_part_same]
  exact spent

theorem commitStep_excluded : ((s.commitStep p sh outputs probe).round p).excluded = [] := by
  have advanced : ((stepAdvanced s p sh outputs probe).round p).excluded = [] := by
    unfold stepAdvanced
    rw [modRound_round_same]
  have levels (u : State) : (u.settleLevels.round p).excluded = (u.round p).excluded := by
    unfold State.round
    rw [part_of_parts ((only_settleLevels (within_refl _) (only_refl _ u)).same .parts (by simp))]
  rw [commitStep_eq, levels]
  split
  · rw [boundary_excluded, advanced]
  · exact advanced

theorem stepKept_commit_others : OthersStand p s (s.commitStep p sh outputs probe) :=
  othersStand_trans (othersStand_trans (stepKept_charged sh outputs probe).others (othersStand_modPart _))
    (commitStep_advanced sh outputs probe).others

theorem commitStep_replay (h : (s.part p).journal.replay ∈ [1, 2, 3]) :
    ((s.commitStep p sh outputs probe).part p).journal.replay ∈ [1, 2, 3] := by
  refine (commitStep_advanced sh outputs probe).replay ?_
  unfold stepAdvanced State.modRound
  rw [modPart_part_same]
  exact (stepKept_charged sh outputs probe).replay h

theorem commitStep_applied : ((s.commitStep p sh outputs probe).part p).applied = (s.part p).applied := by
  refine (commitStep_advanced sh outputs probe).applied.trans ?_
  unfold stepAdvanced State.modRound
  rw [modPart_part_same]
  exact (stepKept_charged sh outputs probe).applied

/-! ### A replay that halts (19 R460) -/

theorem partClusters_congr (ha : (t.part p).applied = (s.part p).applied) (hc : t.clusters = s.clusters) (hq : t.quarters = s.quarters) :
    t.partClusters p = s.partClusters p := by
  have serving : ∀ q, t.serving q = s.serving q := fun q => by
    unfold State.serving State.working State.quarter State.cluster
    rw [hc, hq]
  unfold State.partClusters State.partClustersIn State.shareClusters
  simp only [ha, serving]

/-- A halting replay's clusters and engines have stopped, and its requests have ended. -/
def haltBegun (s : State) (p : Nat) : State :=
  ((s.modClusters (s.partClusters p) (fun x => if x.job.isSome then x.stopIssue else x)).abortRuns p).endRequests p 0x19

/-- The ring entries that a halting replay's sheet held are free. -/
def haltFreed (s : State) (p : Nat) : State :=
  (match ((haltBegun s p).round p).sheet with | some z => z.items | none => []).foldl (fun u it => u.returnToken p it) (haltBegun s p)

theorem haltReplay_eq : s.haltReplay p = ((haltFreed s p).modRound p (fun r => { r.refund with sheet := none, allocWait := none })).settleLevels :=
  rfl

theorem haltBegun_clusters : (haltBegun s p).clusters =
    (s.modClusters (s.partClusters p) (fun x => if x.job.isSome then x.stopIssue else x)).clusters := by
  unfold haltBegun
  generalize s.modClusters (s.partClusters p) (fun x => if x.job.isSome then x.stopIssue else x) = t
  exact ((only_endRequests (within_refl _) p 0x19 (only_refl _ (t.abortRuns p))).same .clusters (by simp)).trans
    ((only_abortRuns (within_refl _) p (only_refl _ t)).same .clusters (by simp))

theorem stepKept_haltBegun : StepKept p s (haltBegun s p) := by
  have stopped : StepKept p s (s.modClusters (s.partClusters p) (fun x => if x.job.isSome then x.stopIssue else x)) :=
    stepKept_only (only_modClusters (within_refl _) _ _ (only_refl _ s)) (by simp)
  unfold haltBegun
  generalize s.modClusters (s.partClusters p) (fun x => if x.job.isSome then x.stopIssue else x) = t at stopped
  exact stepKept_trans (stepKept_trans stopped (stepKept_only (only_abortRuns (within_refl _) p (only_refl _ t)) (by simp)))
    (stepKept_endRequests 0x19)

theorem haltFreed_only : Only [.fns] (haltBegun s p) (haltFreed s p) := by
  unfold haltFreed
  generalize haltBegun s p = t
  exact only_foldl _ (only_refl _ t) fun u it h => only_returnToken (within_refl _) p it h

theorem haltReplay_clusters : (s.haltReplay p).clusters =
    (s.modClusters (s.partClusters p) (fun x => if x.job.isSome then x.stopIssue else x)).clusters := by
  have freed : (haltFreed s p).clusters = (haltBegun s p).clusters := haltFreed_only.same .clusters (by simp)
  rw [haltReplay_eq, ← haltBegun_clusters, ← freed]
  generalize haltFreed s p = t
  exact (only_settleLevels (within_refl _) (only_refl _ (t.modRound p (fun r => { r.refund with sheet := none, allocWait := none })))).same
    .clusters (by simp)

theorem haltReplay_stops {c : Nat} (hc : c ∈ s.partClusters p) (hj : ((s.haltReplay p).cluster c).job.isSome = true) :
    ((s.haltReplay p).cluster c).stopped = true := by
  obtain ⟨x, hx⟩ := modClusters_cluster_mem (s := s) (f := fun x => if x.job.isSome then x.stopIssue else x) hc
  have cluster : (s.haltReplay p).cluster c = if x.job.isSome then x.stopIssue else x := by
    rw [← hx]
    unfold State.cluster
    rw [haltReplay_clusters]
  rw [cluster] at hj ⊢
  split
  · rfl
  · next h => rw [if_neg h] at hj; exact absurd hj h

theorem haltReplay_replay : ((s.haltReplay p).part p).journal.replay = (s.part p).journal.replay :=
  view_at (v := fun x : Part => x.journal.replay) (view_haltReplay s p (fun _ _ => rfl) (fun _ _ => rfl)) p

theorem give_marks (r : Round) (n : Nat) (c : Int) : stepMarks (r.give n c) = stepMarks r := rfl

theorem reserve_marks (r : Round) (sign : Int) (its : List Item) : stepMarks (r.reserve sign its) = stepMarks r := by
  refine foldl_keeps stepMarks _ (fun q it => ?_) its r
  split
  · exact give_marks _ _ _
  · rfl

theorem refund_marks (r : Round) : stepMarks r.refund = stepMarks r := by
  unfold Round.refund
  split
  · exact reserve_marks _ _ _
  · rfl

/-- A halted replay leaves the step's number, and no sheet. -/
theorem haltReplay_marks : ((s.haltReplay p).round p).step = (s.round p).step ∧ ((s.haltReplay p).round p).sheet = none := by
  have freed := (stepKept_trans (stepKept_haltBegun (s := s) (p := p)) (stepKept_only haltFreed_only (by simp))).marks
  have levels := (stepKept_settleLevels (s := (haltFreed s p).modRound p (fun r => { r.refund with sheet := none, allocWait := none }))
    (p := p)).marks
  have refunded := refund_marks ((haltFreed s p).round p)
  rw [modRound_round_same] at levels
  rw [haltReplay_eq]
  simp only [stepMarks, Prod.mk.injEq] at freed levels refunded
  exact ⟨levels.1.trans (refunded.1.trans freed.1), levels.2.1⟩

/-! ### The end of a step (08 R243, 19 R459) -/

theorem exec_commit {p : PartId} {sh : Sheet} {outputs : List ItemOutput} {probe : List Byte} (hsh : (s.round p).sheet = some sh)
    (hw : s.works p = true) (hr : sh.released = true) (hc : s.causePending p = false) (ha : (s.round p).abandoning = false)
    (hn : outputs.length = sh.items.length) (hj : s.journalRoom p (4 + 2 * sh.items.length) = true) :
    (∀ u, s.fwRead p = (u, true) → exec (.commit p outputs probe) s = .next u) ∧
    (∀ u, s.fwRead p = (u, false) → exec (.commit p outputs probe) s = .next
      (s.replayGuard (u.commitStep p sh outputs (if bitAt (s.partReg p 0x88) 32 then probe else [])) p)) := by
  refine ⟨fun u h => ?_, fun u h => ?_⟩
  all_goals
    show execCommit p outputs probe s = _
    unfold execCommit
    rw [hsh]
    dsimp only
    rw [if_pos (by simp [hw, hr, hc, ha, hn, hj]), h]

theorem exec_commit_waits {p : PartId} {sh : Sheet} {outputs : List ItemOutput} {probe : List Byte} (hsh : (s.round p).sheet = some sh)
    (h : s.causePending p = true ∨ s.journalRoom p (4 + 2 * sh.items.length) = false) : exec (.commit p outputs probe) s = .next s := by
  show execCommit p outputs probe s = _
  unfold execCommit
  rw [hsh]
  dsimp only
  rw [if_neg]
  rintro ⟨-, -, cause, -, -, room⟩
  rcases h with h | h
  · simp [h] at cause
  · simp [h] at room

/-! ### The abandonment of a step (08 R245, R246) -/

/-- Abandoned for a cause: the runs are aborted, the serving clusters stop, and what the sheet took is undone. -/
def stepUndone (s : State) (p : Nat) (c : AbandonCause) : State :=
  let t := (s.markKnown c).abortRuns p
  let t := t.modClusters (t.servingClusters p) Cluster.stopIssue
  match (s.round p).sheet with
  | some sh => t.undoSheet p sh
  | none => t

/-- The strikes once the cause has counted. -/
def strikesCounted (s : State) (p : Nat) (c : AbandonCause) : Nat :=
  (s.round p).strikes + b2n (!(s.round p).abandoning && s.counts p c)

/-- The marks of an abandoned step. -/
def abandonMarks (s : State) (p : Nat) (c : AbandonCause) (x : Round) : Round :=
  { x with sheet := none, abandoning := true, allocWait := none, causes := x.causes.filter (· != c),
           reissue := if (s.round p).abandoning then x.reissue else min 15 (x.reissue + 1), strikes := strikesCounted s p c }

/-- The step is abandoned and the cause has had its effect. -/
def stepAbandoned (s : State) (p : Nat) (c : AbandonCause) : State :=
  (((stepUndone s p c).modRound p (abandonMarks s p c)).causeEffect p c).settleLevels

variable (c : AbandonCause)

theorem abandon_eq : s.abandon p c =
    if 16 ≤ strikesCounted s p c then
      (stepAbandoned s p c).jobFault p (((stepAbandoned s p c).servingJob p).map (·.num)) 0 0 0
    else if (s.round p).abandoning then stepAbandoned s p c
    else ((stepAbandoned s p c).journalHappening p 2 (causeNumber c)).postTo [p + 1] 4 3 p
      ((s.round p).step.toNat % 2 ^ 32 + at_ 32 (((stepAbandoned s p c).round p).reissue)) := by
  unfold State.abandon stepAbandoned stepUndone
  rfl

theorem stepKept_undoSheet : StepKept p s (s.undoSheet p sh) := by
  refine stepKept_trans (stepKept_trans (stepKept_trans (stepKept_modRound ?_) (stepKept_freeParcels _))
    (stepKept_foldl (fun u i => stepKept_returnParcel i) sh.realloced _)) (stepKept_foldl (fun u it => stepKept_returnToken it) sh.items _)
  exact reserve_marks _ _ _

theorem stepKept_causeEffect : StepKept p s (s.causeEffect p c) := by
  cases c with
  | poisoned l => exact stepKept_refl
  | failedSeal i =>
    unfold State.causeEffect
    exact stepKept_trans (stepKept_returned i) (stepKept_modRound rfl)
  | circularBusError i =>
    unfold State.causeEffect
    exact stepKept_trans (stepKept_returned i) (stepKept_modRound rfl)

theorem stepKept_stepUndone : StepKept p s (stepUndone s p c) := by
  have known : StepKept p s (s.markKnown c) := stepKept_only (only_markKnown (within_refl _) c (only_refl _ s)) (by simp)
  unfold stepUndone
  dsimp only
  have aborted := stepKept_trans known (stepKept_only (p := p) (only_abortRuns (within_refl _) p (only_refl _ (s.markKnown c))) (by simp))
  generalize (s.markKnown c).abortRuns p = t at aborted
  have stopped := stepKept_trans aborted
    (stepKept_only (p := p) (only_modClusters (within_refl _) (t.servingClusters p) Cluster.stopIssue (only_refl _ t)) (by simp))
  split
  · exact stepKept_trans stopped (stepKept_undoSheet _)
  · exact stopped

theorem stepAbandoned_only : Only [.free, .out, .unsent, .clusters, .stackTab, .engines, .memory, .parts, .fns, .buckets, .intr] s
    (stepAbandoned s p c) := by
  unfold stepAbandoned stepUndone
  have hL := within_refl [Fld.free, .out, .unsent, .clusters, .stackTab, .engines, .memory, .parts, .fns, .buckets, .intr]
  have h := only_refl [Fld.free, .out, .unsent, .clusters, .stackTab, .engines, .memory, .parts, .fns, .buckets, .intr] s
  dsimp only
  repeat' first
    | with_reducible assumption
    | with_reducible apply only_markKnown
    | with_reducible apply only_abortRuns
    | with_reducible apply only_modClusters
    | with_reducible apply only_undoSheet
    | with_reducible apply only_modRound
    | with_reducible apply only_causeEffect
    | with_reducible apply only_settleLevels
    | split
  all_goals exact within_sub (by decide) hL

theorem stepAbandoned_marks : stepMarks ((stepAbandoned s p c).round p) = ((s.round p).step, none, true,
    if (s.round p).abandoning then (s.round p).reissue else min 15 ((s.round p).reissue + 1), strikesCounted s p c,
    (s.round p).causes.filter (· != c)) := by
  have undone := (stepKept_stepUndone (s := s) (p := p) c).marks
  have effect := (stepKept_trans (stepKept_causeEffect (s := (stepUndone s p c).modRound p (abandonMarks s p c)) (p := p) c)
    stepKept_settleLevels).marks
  rw [modRound_round_same] at effect
  unfold stepAbandoned
  rw [effect]
  simp only [stepMarks, abandonMarks, Prod.mk.injEq, true_and] at undone ⊢
  obtain ⟨step, -, -, reissue, -, causes⟩ := undone
  exact ⟨step, by rw [reissue], by rw [causes]⟩

theorem stepAbandoned_faults : ((stepAbandoned s p c).part p).jobFaults = (s.part p).jobFaults := by
  have undone := (stepKept_stepUndone (s := s) (p := p) c).faults
  have effect := (stepKept_trans (stepKept_causeEffect (s := (stepUndone s p c).modRound p (abandonMarks s p c)) (p := p) c)
    stepKept_settleLevels).faults
  refine effect.trans (Eq.trans ?_ undone)
  unfold State.modRound
  rw [modPart_part_same]

/-- A job fault leaves no sheet. -/
theorem jobFault_sheet (n : Option Nat) (fault detail detail2 : Nat) : ((s.jobFault p n fault detail detail2).round p).sheet = none := by
  have levels (u : State) : ((u.emptyRound p).settleLevels.round p).sheet = none := by
    have part := part_of_parts ((only_settleLevels (within_refl _) (only_refl _ (u.emptyRound p))).same .parts (by simp)) p
    unfold State.round
    rw [part]
    unfold State.emptyRound
    rw [modRound_part_same]
  have ended : ((roundEnded s p n fault detail detail2).round p).sheet = none := by
    unfold roundEnded
    exact levels _
  have counted : ((faultCounted s p n fault detail detail2).round p).sheet = none := by
    unfold faultCounted
    generalize roundEnded s p n fault detail detail2 = u at ended ⊢
    unfold State.round at ended ⊢
    rw [modPart_part_same]
    exact ended
  have part := part_of_parts (jobFault_parts s p n fault detail detail2) p
  generalize faultCounted s p n fault detail detail2 = u at counted part
  generalize s.jobFault p n fault detail detail2 = t at part ⊢
  unfold State.round at counted ⊢
  rw [part, counted]

theorem exec_stepAbandon {p : PartId} (hm : (s.part p).mode = .ready) (hl : s.replaying p = false) (hc : s.causeStands p c = true)
    (hs : (s.round p).sheet.isSome = true ∨ (s.round p).abandoning = true) : exec (.stepAbandon p c) s = .next (s.abandon p c) :=
  congrArg Host.Outcome.next ((if_pos ⟨hm, hs, Or.inl hc⟩).trans (replayGuard_live s _ p hl))

/-- What a first cause of an abandonment tells the partition leaves its marks, memory and registers. -/
theorem abandonTold_facts (t : State) (cause arg : Nat) :
    let u := (t.journalHappening p 2 cause).postTo [p + 1] 4 3 p arg
    stepMarks (u.round p) = stepMarks (t.round p) ∧ u.mem = t.mem ∧ u.regs = t.regs := by
  have happened := only_journalHappening (within_refl _) p 2 cause (only_refl _ t)
  have kept := stepKept_journalHappening (s := t) (p := p) 2 cause
  dsimp only
  generalize t.journalHappening p 2 cause = v at happened kept
  have posted := only_postTo (within_refl _) [p + 1] 4 3 p arg (only_refl _ v)
  exact ⟨(stepKept_trans kept (stepKept_postTo _ _ _ _ _)).marks, (posted.same .mem (by simp)).trans (happened.same .mem (by simp)),
    (posted.same .regs (by simp)).trans (happened.same .regs (by simp))⟩

/-! ### The release of a reissued sheet (09 R278) -/

/-- The serving job begins again on its clusters, and the sheet is released. -/
def sheetReleased (s : State) (p : PartId) (j : Job) (sh : Sheet) : State :=
  (s.modClusters j.clusters (fun x => x.begin p.val j.num j.desc none)).modRound p (fun r =>
    { r with abandoning := false, sheet := some { sh with released := true } })

theorem exec_reissuedSheetRelease {p : PartId} {sh : Sheet} {j : Job} (hsh : (s.round p).sheet = some sh) (hj : s.servingJob p = some j)
    (ha : (s.round p).abandoning = true) (hr : sh.released = false) (hst : s.stepStill p = true) (hh : s.repairHolds p = false) :
    exec (.reissuedSheetRelease p) s = .next ((sheetReleased s p j sh).bumpStep p) := by
  show execReissuedSheetRelease p s = _
  unfold execReissuedSheetRelease
  rw [hsh, hj]
  dsimp only
  rw [if_pos (by simp [ha, hr, hst, hh])]
  rfl

end

/-- Settles O28: a commit ends the step, a standing cause abandons it, and the reissued sheet is released. -/
theorem commitEndsTheStepOrItIsAbandoned : Obligations.CommitEndsTheStepOrItIsAbandoned := by
  unfold Obligations.CommitEndsTheStepOrItIsAbandoned
  refine ⟨fun p outputs probe s sh hsh => ⟨fun h => completes_next (exec_commit_waits hsh h) rfl, fun hw hr hc ha hn hj => ?_⟩,
    fun p c s hm hl hc => ⟨fun sh hsh ha => ⟨fun hk => ?_, fun hk => ?_⟩, fun ha hk => ?_⟩, fun p s sh j hsh hj ha hr hst hh => ?_⟩
  · obtain ⟨read, commits⟩ := exec_commit (probe := probe) hsh hw hr hc ha hn hj
    refine ⟨fun u hu => completes_next (read u hu) rfl, fun u hu hrep => ?_, fun u hu hrep => ?_⟩
    all_goals
      have run := commits u hu
      have plain := fwRead_only hu
      have before : u.part p = s.part p := part_of_parts (plain.same .parts (by simp)) p
      generalize (if bitAt (s.partReg p 0x88) 32 then probe else []) = bytes at run
      obtain ⟨step, sheet, reissue, strikes⟩ := commitStep_marks (s := u) (p := p.val) sh outputs bytes
      have frame := commitStep_only (s := u) (p := p.val) sh outputs bytes
      have stepBefore : (u.round p).step = (s.round p).step := congrArg (fun x : Part => x.round.step) before
      rw [stepBefore] at step
    · have replays : (u.part p).journal.replay ∈ [1, 2, 3] := by
        have : (s.part p).journal.replay = 1 := by simpa [State.replaying] using hrep
        rw [before, this]
        simp
      have going := commitStep_replay sh outputs bytes replays
      have applied := commitStep_applied (s := u) (p := p.val) sh outputs bytes
      have clusters : (u.commitStep p sh outputs bytes).partClusters p = s.partClusters p :=
        partClusters_congr (applied.trans (congrArg Part.applied before))
          ((frame.same .clusters (by simp)).trans (plain.same .clusters (by simp)))
          ((frame.same .quarters (by simp)).trans (plain.same .quarters (by simp)))
      generalize u.commitStep p sh outputs bytes = v at *
      by_cases h3 : (v.part p).journal.replay = 3
      · have halts : s.replayGuard v p = v.haltReplay p := if_pos (by simp [hrep, h3])
        obtain ⟨haltStep, haltSheet⟩ := haltReplay_marks (s := v) (p := p.val)
        rw [halts] at run
        refine completes_next run ⟨haltStep.trans step, haltSheet, ?_, fun _ c hc hj => haltReplay_stops (clusters ▸ hc) hj⟩
        rw [haltReplay_replay]
        exact going
      · rw [replayGuard_going s v p h3] at run
        exact completes_next run ⟨step, sheet, going, fun h => absurd h h3⟩
    · have others := stepKept_commit_others (s := u) (p := p.val) sh outputs bytes
      have excluded := commitStep_excluded (s := u) (p := p.val) sh outputs bytes
      rw [replayGuard_live s _ p hrep] at run
      exact completes_next run ⟨step, sheet, reissue, strikes, excluded, (frame.same .mem (by simp)).trans (plain.same .mem (by simp)),
        (frame.same .regs (by simp)).trans (plain.same .regs (by simp)), (frame.same .clusters (by simp)).trans (plain.same .clusters (by simp)),
        (frame.same .engines (by simp)).trans (plain.same .engines (by simp)),
        fun k hk => (others k hk).trans (part_of_parts (plain.same .parts (by simp)) k)⟩
  · have counted : strikesCounted s p c = (s.round p).strikes + b2n (s.counts p c) := by simp [strikesCounted, ha]
    have run := exec_stepAbandon c hm hl hc (Or.inl (by rw [hsh]; rfl))
    rw [abandon_eq, if_neg (by omega), if_neg (by simp [ha])] at run
    have marks := stepAbandoned_marks (s := s) (p := p.val) c
    have frame := stepAbandoned_only (s := s) (p := p.val) c
    obtain ⟨told, mem, regs⟩ := abandonTold_facts (p := p.val) (stepAbandoned s p c) (causeNumber c)
      ((s.round p).step.toNat % 2 ^ 32 + at_ 32 ((stepAbandoned s p c).round p).reissue)
    rw [marks] at told
    simp only [stepMarks, Prod.mk.injEq] at told
    obtain ⟨step, sheet, abandoning, reissue, strikes, causes⟩ := told
    refine completes_next run ⟨sheet, abandoning, ?_, step, strikes.trans counted, ?_, mem.trans (frame.same .mem (by simp)),
      regs.trans (frame.same .regs (by simp))⟩
    · rw [reissue, if_neg (by simp [ha])]
    · rw [causes]
      simp
  · have counted : strikesCounted s p c = (s.round p).strikes + b2n (s.counts p c) := by simp [strikesCounted, ha]
    have run := exec_stepAbandon c hm hl hc (Or.inl (by rw [hsh]; rfl))
    rw [abandon_eq, if_pos (by omega)] at run
    have frame := stepAbandoned_only (s := s) (p := p.val) c
    have faults := stepAbandoned_faults (s := s) (p := p.val) c
    generalize stepAbandoned s p c = t at *
    have faulted := only_jobFault (within_refl _) p.val ((t.servingJob p).map (·.num)) 0 0 0 (only_refl _ t)
    refine completes_next run ⟨jobFault_sheet _ _ _ _, (faulted.same .regs (by simp)).trans (frame.same .regs (by simp)), ?_⟩
    rw [(jobFault_counts t p.val _ 0 0 0).2.1, faults]
    rfl
  · have counted : strikesCounted s p c = (s.round p).strikes := by simp [strikesCounted, ha, b2n]
    have run := exec_stepAbandon c hm hl hc (Or.inr ha)
    rw [abandon_eq, if_neg (by omega), if_pos ha] at run
    have marks := stepAbandoned_marks (s := s) (p := p.val) c
    have frame := stepAbandoned_only (s := s) (p := p.val) c
    simp only [stepMarks, Prod.mk.injEq] at marks
    obtain ⟨step, sheet, abandoning, reissue, strikes, causes⟩ := marks
    refine completes_next run ⟨sheet, abandoning, ?_, strikes.trans counted, step, ?_, frame.same .mem (by simp), frame.same .regs (by simp)⟩
    · rw [reissue, if_pos ha]
    · rw [causes]
      simp
  · refine completes_next (exec_reissuedSheetRelease hsh hj ha hr hst hh) ⟨sheetReleased s p j sh, rfl, ?_, ?_, fun c hc => ?_, fun c hc => ?_, ?_, ?_⟩
    · exact congrArg Round.sheet (modRound_round_same _ _ _)
    · exact congrArg Round.abandoning (modRound_round_same _ _ _)
    · exact modClusters_cluster_mem hc
    · exact modClusters_cluster_ne hc
    · exact (only_modClusters (within_refl _) j.clusters _ (only_refl _ s)).same .mem (by simp)
    · exact (only_modClusters (within_refl _) j.clusters _ (only_refl _ s)).same .engines (by simp)

end Sys2Proof.Proofs
end

section
/-! PROOF of copies begin (10 R290 to R298; 15 R386, R387) -/

namespace Sys2Proof.Proofs

open Sys2Proof Sys2Proof.Machine Sys2Proof.Laws

/-! ### What has gone out stays gone out

Commands append to the module's outputs: what copies, their reads and their frames do keeps every output before it. -/

section

variable {r s t : State}

/-- The outputs of s are the first outputs of t. -/
def OutGrows (s t : State) : Prop := s.out <+: t.out

theorem grows_refl : OutGrows s s := List.prefix_rfl

theorem grows_trans {u : State} (h : OutGrows s t) (g : OutGrows t u) : OutGrows s u := List.IsPrefix.trans h g

theorem grows_mem {o : Output} (h : OutGrows s t) (ho : o ∈ s.out) : o ∈ t.out := List.IsPrefix.subset h ho

theorem grows_only {L : List Fld} (h : Only L s t) (ho : Fld.out ∉ L) (hr : OutGrows r s) : OutGrows r t := by
  have same : t.out = s.out := h.same .out ho
  unfold OutGrows at *
  rwa [same]

theorem grows_foldl {α : Type} {f : State → α → State} (l : List α) (h : OutGrows r s)
    (hf : ∀ t a, OutGrows r t → OutGrows r (f t a)) : OutGrows r (l.foldl f s) := by
  induction l generalizing s with
  | nil => exact h
  | cons a l ih => exact ih (hf s a h)

theorem grows_fst {α : Type} {x : State × α} {o : α} (hx : x = (t, o)) (h : OutGrows r x.1) : OutGrows r t := by
  rw [hx] at h
  exact h

theorem grows_set_links (v) (h : OutGrows r s) : OutGrows r { s with links := v } := h

theorem grows_set_memory (v) (h : OutGrows r s) : OutGrows r { s with memory := v } := h

theorem grows_emit (o : Output) (h : OutGrows r s) : OutGrows r (s.emit o) := grows_trans h (List.prefix_append _ _)

theorem grows_toHost (os : List Output) (h : OutGrows r s) : OutGrows r (s.toHost os) := by
  unfold State.toHost
  split
  · exact grows_trans h (List.prefix_append _ _)
  · exact h

end

section

variable {s₀ : State}

theorem grows_popQueue {s : State} (q : CopyQueue) (h : OutGrows s₀ s) : OutGrows s₀ (State.popQueue s q) :=
  grows_only (only_popQueue (within_refl _) q (only_refl _ s)) (by simp) h

theorem grows_addCopy {s : State} (q : CopyQueue) (d : Line) (status : Nat) (err : Option Nat) (boxes : List (Nat × Nat × Nat)) (ext : List (Spot × Line))
    (handles : List W32) (coll : Option Coll) (h : OutGrows s₀ s) : OutGrows s₀ (State.addCopy s q d status err boxes ext handles coll) :=
  grows_only (only_addCopy (within_refl _) q d status err boxes ext handles coll (only_refl _ s)) (by simp) h

theorem grows_modCopy {s : State} (id : Nat) (f : CopyJob → CopyJob) (h : OutGrows s₀ s) : OutGrows s₀ (State.modCopy s id f) :=
  grows_only (only_modCopy (within_refl _) id f (only_refl _ s)) (by simp) h

theorem grows_modSession {s : State} (d : Nat) (f : Session → Session) (h : OutGrows s₀ s) : OutGrows s₀ (State.modSession s d f) :=
  grows_only (only_modSession (within_refl _) d f (only_refl _ s)) (by simp) h

theorem grows_setStored {s : State} (pln : Nat) (bs : List Byte) (h : OutGrows s₀ s) : OutGrows s₀ (State.setStored s pln bs) :=
  grows_only (only_setStored (within_refl _) pln bs (only_refl _ s)) (by simp) h

theorem grows_noteRecent {s : State} (key : Nat) (h : OutGrows s₀ s) : OutGrows s₀ (State.noteRecent s key) :=
  grows_only (only_noteRecent (within_refl _) key (only_refl _ s)) (by simp) h

theorem grows_modCe {s : State} (c : Nat) (f : Ce → Ce) (h : OutGrows s₀ s) : OutGrows s₀ (State.modCe s c f) :=
  grows_only (only_modCe (within_refl _) c f (only_refl _ s)) (by simp) h

theorem grows_logWear {s : State} (kind unit detail pln : Nat) (h : OutGrows s₀ s) : OutGrows s₀ (State.logWear s kind unit detail pln) :=
  grows_only (only_logWear (within_refl _) kind unit detail pln (only_refl _ s)) (by simp) h

theorem grows_dieTrigger {s : State} (k die : Nat) (h : OutGrows s₀ s) : OutGrows s₀ (State.dieTrigger s k die) :=
  grows_only (only_dieTrigger (within_refl _) k die (only_refl _ s)) (by simp) h

theorem grows_modFn {s : State} (n : Nat) (f : Fn → Fn) (h : OutGrows s₀ s) : OutGrows s₀ (State.modFn s n f) :=
  grows_only (only_modFn (within_refl _) n f (only_refl _ s)) (by simp) h

theorem grows_hold {s : State} (fn source code fatal : Nat) (rate full : Bool) (h : OutGrows s₀ s) : OutGrows s₀ (State.hold s fn source code fatal rate full) :=
  grows_only (only_hold (within_refl _) fn source code fatal rate full (only_refl _ s)) (by simp) h

theorem grows_takeToken {s : State} (source : Nat) (h : OutGrows s₀ s) : OutGrows s₀ (State.takeToken s source) :=
  grows_only (only_takeToken (within_refl _) source (only_refl _ s)) (by simp) h

theorem grows_modRing {s : State} (n r : Nat) (f : Ring → Ring) (h : OutGrows s₀ s) : OutGrows s₀ (State.modRing s n r f) :=
  grows_only (only_modRing (within_refl _) n r f (only_refl _ s)) (by simp) h

theorem grows_recordError {s : State} (source severity code pln partition : Nat) (h : OutGrows s₀ s) : OutGrows s₀ (State.recordError s source severity code pln partition) :=
  grows_only (only_recordError (within_refl _) source severity code pln partition (only_refl _ s)) (by simp) h

theorem grows_latch {s : State} (n : Nat) (h : OutGrows s₀ s) : OutGrows s₀ (State.latch s n) :=
  grows_only (only_latch (within_refl _) n (only_refl _ s)) (by simp) h

theorem grows_badFirmwareLine {s : State} (r : Region) (pln : Nat) (h : OutGrows s₀ s) : OutGrows s₀ (State.badFirmwareLine s r pln) :=
  grows_only (only_badFirmwareLine (within_refl _) r pln (only_refl _ s)) (by simp) h

theorem grows_useFree {s : State} (h : OutGrows s₀ s) : OutGrows s₀ (State.useFree s) :=
  grows_only (only_useFree (within_refl _)  (only_refl _ s)) (by simp) h

theorem grows_modPart {s : State} (p : Nat) (f : Part → Part) (h : OutGrows s₀ s) : OutGrows s₀ (State.modPart s p f) :=
  grows_only (only_modPart (within_refl _) p f (only_refl _ s)) (by simp) h



theorem grows_hostRecord {s : State} (fn addr : Nat) (bs : List Byte) (h : OutGrows s₀ s) : OutGrows s₀ (State.hostRecord s fn addr bs) := by
  dsimp only [State.hostRecord]
  repeat' first
    | with_reducible assumption
    | with_reducible apply grows_toHost

theorem grows_hostRead {s : State} (fn addr len : Nat) (h : OutGrows s₀ s) : OutGrows s₀ (State.hostRead s fn addr len) := by
  dsimp only [State.hostRead]
  repeat' first
    | with_reducible assumption
    | with_reducible apply grows_toHost

theorem grows_writeHeads {s : State} (fn : Nat) (h : OutGrows s₀ s) : OutGrows s₀ (State.writeHeads s fn) := by
  dsimp only [State.writeHeads]
  repeat' first
    | with_reducible assumption
    | with_reducible apply grows_hostRecord

theorem grows_putEntry {s : State} (fn r size : Nat) (bs : List Byte) (h : OutGrows s₀ s) : OutGrows s₀ (State.putEntry s fn r size bs) := by
  dsimp only [State.putEntry]
  repeat' first
    | with_reducible assumption
    | with_reducible apply grows_hostRecord
    | with_reducible apply grows_modRing

theorem grows_sendMsix {s : State} (fn : Nat) (h : OutGrows s₀ s) : OutGrows s₀ (State.sendMsix s fn) := by
  dsimp only [State.sendMsix]
  repeat' first
    | with_reducible assumption
    | with_reducible apply grows_modFn
    | with_reducible apply grows_toHost
    | split

theorem grows_announce {s : State} (fn : Nat) (h : OutGrows s₀ s) : OutGrows s₀ (State.announce s fn) := by
  dsimp only [State.announce]
  repeat' first
    | with_reducible assumption
    | with_reducible apply grows_writeHeads
    | with_reducible apply grows_modFn
    | with_reducible apply grows_sendMsix
    | split

theorem grows_putRecord {s : State} (fn r : Nat) (kind code source flags count time arg : Nat) (h : OutGrows s₀ s) :
    OutGrows s₀ (State.putRecord s fn r kind code source flags count time arg) := by
  dsimp only [State.putRecord]
  repeat' first
    | with_reducible assumption
    | with_reducible apply grows_putEntry
    | with_reducible apply grows_modFn
    | with_reducible apply grows_announce

theorem grows_writeSummaries {s : State} (fn r : Nat) (l : List Held) (h : OutGrows s₀ s) : OutGrows s₀ ((State.writeSummaries s fn r) l) := by
  induction l generalizing s with
  | nil => exact h
  | cons a l ih =>
    dsimp only [State.writeSummaries]
    repeat' first
      | with_reducible assumption
      | with_reducible apply ih
      | with_reducible apply grows_takeToken
      | with_reducible apply grows_modFn
      | with_reducible apply grows_putRecord
      | split

theorem grows_summaries {s : State} (fn r : Nat) (h : OutGrows s₀ s) : OutGrows s₀ (State.summaries s fn r) := by
  dsimp only [State.summaries]
  repeat' first
    | with_reducible assumption
    | with_reducible apply grows_writeSummaries

theorem grows_post {s : State} (fn block code inst arg : Nat) (h : OutGrows s₀ s) : OutGrows s₀ (State.post s fn block code inst arg) := by
  dsimp only [State.post]
  repeat' first
    | with_reducible assumption
    | with_reducible apply grows_modFn
    | with_reducible apply grows_summaries
    | with_reducible apply grows_hold
    | with_reducible apply grows_takeToken
    | with_reducible apply grows_putRecord
    | split

theorem grows_postTo {s : State} (fns : List Nat) (block code inst arg : Nat) (h : OutGrows s₀ s) : OutGrows s₀ (State.postTo s fns block code inst arg) := by
  dsimp only [State.postTo]
  repeat' first
    | with_reducible assumption
    | with_reducible apply grows_foldl
    | intro _ _ _
    | with_reducible apply grows_post

theorem grows_notifyBatch {s : State} (fn r : Nat) (h : OutGrows s₀ s) : OutGrows s₀ (State.notifyBatch s fn r) := by
  dsimp only [State.notifyBatch]
  repeat' first
    | with_reducible assumption
    | with_reducible apply grows_post
    | with_reducible apply grows_modRing
    | split

theorem grows_putRing {s : State} (fn r : Nat) (bs : List Byte) (h : OutGrows s₀ s) : OutGrows s₀ (State.putRing s fn r bs) := by
  dsimp only [State.putRing]
  repeat' first
    | with_reducible assumption
    | with_reducible apply grows_modRing
    | with_reducible apply grows_putEntry
    | with_reducible apply grows_writeHeads
    | with_reducible apply grows_notifyBatch
    | split

theorem grows_sendFrame {s : State} (port d typ lc lines tag addr : Nat) (payload : List Line) (h : OutGrows s₀ s) :
    OutGrows s₀ (State.sendFrame s port d typ lc lines tag addr payload) := by
  dsimp only [State.sendFrame]
  repeat' first
    | with_reducible assumption
    | with_reducible apply grows_modSession
    | with_reducible apply grows_emit

theorem grows_sendPacket {s : State} (p d typ lines addr : Nat) (payload : List Line) (copy repair : Option Nat) (h : OutGrows s₀ s) :
    OutGrows s₀ (State.sendPacket s p d typ lines addr payload copy repair) := by
  dsimp only [State.sendPacket]
  repeat' first
    | with_reducible assumption
    | with_reducible apply grows_sendFrame
    | split
    | with_reducible apply grows_set_links

theorem grows_corrected {s : State} (pln : Nat) (h : OutGrows s₀ s) : OutGrows s₀ (State.corrected s pln) := by
  dsimp only [State.corrected]
  repeat' first
    | with_reducible assumption
    | with_reducible apply grows_noteRecent
    | with_reducible apply grows_modCe
    | with_reducible apply grows_post
    | with_reducible apply grows_logWear
    | with_reducible apply grows_dieTrigger
    | split

theorem grows_repairHost {s : State} (pln n : Nat) (c : W64) (h : OutGrows s₀ s) : OutGrows s₀ (State.repairHost s pln n c) := by
  dsimp only [State.repairHost]
  repeat' first
    | with_reducible assumption
    | with_reducible apply grows_hostRead
    | split
    | with_reducible apply grows_set_memory

theorem grows_queueRepair {s : State} (pln n p : Nat) (h : OutGrows s₀ s) : OutGrows s₀ (State.queueRepair s pln n p) := by
  dsimp only [State.queueRepair]
  repeat' first
    | with_reducible assumption
    | with_reducible apply grows_sendPacket
    | with_reducible apply grows_repairHost
    | split
    | with_reducible apply grows_set_memory

theorem grows_badLine {s : State} (source pln partition : Nat) (sealBad merge : Bool) (h : OutGrows s₀ s) : OutGrows s₀ (State.badLine s source pln partition sealBad merge) := by
  dsimp only [State.badLine]
  repeat' first
    | with_reducible assumption
    | with_reducible apply grows_modCe
    | with_reducible apply grows_recordError
    | with_reducible apply grows_latch
    | with_reducible apply grows_setStored
    | with_reducible apply grows_postTo
    | with_reducible apply grows_badFirmwareLine
    | with_reducible apply grows_queueRepair
    | split

theorem grows_readLineFor {s : State} (source pln partition : Nat) (merge : Bool) (h : OutGrows s₀ s) : OutGrows s₀ (State.readLineFor s source pln partition merge).1 := by
  dsimp only [State.readLineFor]
  repeat' first
    | with_reducible assumption
    | with_reducible apply grows_badLine
    | with_reducible apply grows_corrected
    | with_reducible apply grows_setStored
    | split

theorem grows_readLine {s : State} (source pln partition : Nat) (h : OutGrows s₀ s) : OutGrows s₀ (State.readLine s source pln partition).1 := by
  dsimp only [State.readLine]
  repeat' first
    | with_reducible assumption
    | with_reducible apply grows_readLineFor

theorem grows_journal {s : State} (p typ : Nat) (body : List Byte) (h : OutGrows s₀ s) : OutGrows s₀ (State.journal s p typ body) := by
  dsimp only [State.journal]
  repeat' first
    | with_reducible assumption
    | with_reducible apply grows_foldl
    | intro _ _ _
    | with_reducible apply grows_modPart
    | with_reducible apply grows_putRing
    | split

theorem grows_failReplay {s : State} (p reason : Nat) (h : OutGrows s₀ s) : OutGrows s₀ (State.failReplay s p reason) := by
  dsimp only [State.failReplay]
  repeat' first
    | with_reducible assumption
    | with_reducible apply grows_modPart

theorem grows_readSpot {s : State} (p : Nat) (ext : List (Spot × Line)) (x : Spot) (h : OutGrows s₀ s) : OutGrows s₀ (State.readSpot s p ext x).1 := by
  dsimp only [State.readSpot]
  repeat' first
    | with_reducible assumption
    | with_reducible apply grows_readLine
    | split
    | refine grows_fst (by with_reducible assumption) ?_

theorem grows_readSpots {s : State} (p : Nat) (ext : List (Spot × Line)) (l : List Spot) (h : OutGrows s₀ s) : OutGrows s₀ ((State.readSpots s p ext) l).1 := by
  induction l generalizing s with
  | nil => exact h
  | cons a l ih =>
    dsimp only [State.readSpots]
    repeat' first
      | with_reducible assumption
      | with_reducible apply ih
      | with_reducible apply grows_readSpot
      | split
      | refine grows_fst (by with_reducible assumption) ?_

theorem grows_readRow {s : State} (p : Nat) (ext : List (Spot × Line)) (f : Fmt) (wafer : Bool) (l : List Seg) (h : OutGrows s₀ s) :
    OutGrows s₀ ((State.readRow s p ext f wafer) l).1 := by
  induction l generalizing s with
  | nil => exact h
  | cons a l ih =>
    dsimp only [State.readRow]
    repeat' first
      | with_reducible assumption
      | with_reducible apply ih
      | with_reducible apply grows_readSpots
      | split
      | refine grows_fst (by with_reducible assumption) ?_

theorem grows_readRows {s : State} (p : Nat) (ext : List (Spot × Line)) (f : Fmt) (wafer : Bool) (l : List (List Seg)) (h : OutGrows s₀ s) :
    OutGrows s₀ ((State.readRows s p ext f wafer) l).1 := by
  induction l generalizing s with
  | nil => exact h
  | cons a l ih =>
    dsimp only [State.readRows]
    repeat' first
      | with_reducible assumption
      | with_reducible apply ih
      | with_reducible apply grows_readRow
      | split
      | refine grows_fst (by with_reducible assumption) ?_

theorem grows_boxPieces {s : State} (p : Nat) (d : Line) (ext acc : List (Spot × Line)) (x y : Side) (b : List (List Seg) × List (List Seg) × List ScaleMove)
    (h : OutGrows s₀ s) : OutGrows s₀ (State.boxPieces s p d ext acc x y b).1 := by
  dsimp only [State.boxPieces]
  repeat' first
    | with_reducible assumption
    | with_reducible apply grows_readRows
    | with_reducible apply grows_readSpots
    | split
    | refine grows_fst (by with_reducible assumption) ?_

theorem grows_sendFor {s : State} (id p d typ lines addr : Nat) (payload : List Line) (h : OutGrows s₀ s) : OutGrows s₀ (State.sendFor s id p d typ lines addr payload) := by
  dsimp only [State.sendFor]
  repeat' first
    | with_reducible assumption
    | with_reducible apply grows_sendPacket
    | with_reducible apply grows_modCopy

theorem grows_sendPiece {s : State} (id p reduce : Nat) (x : Piece) (h : OutGrows s₀ s) : OutGrows s₀ (State.sendPiece s id p reduce x) := by
  dsimp only [State.sendPiece]
  repeat' first
    | with_reducible assumption
    | with_reducible apply grows_sendFor
    | split

theorem grows_allPieces {s : State} (p : Nat) (d : Line) (ext : List (Spot × Line)) (acc : List (Spot × Line)) (plan : CopyPlan)
    (l : List ((Nat × Nat × Nat) × Nat)) (h : OutGrows s₀ s) : OutGrows s₀ ((State.allPieces s p d ext acc plan) l).1 := by
  induction l generalizing s acc with
  | nil => exact h
  | cons a l ih =>
    dsimp only [State.allPieces]
    repeat' first
      | with_reducible assumption
      | with_reducible apply ih
      | with_reducible apply grows_boxPieces
      | split
      | refine grows_fst (by with_reducible assumption) ?_

theorem grows_moveCopy {s : State} (id : Nat) (h : OutGrows s₀ s) : OutGrows s₀ (State.moveCopy s id) := by
  dsimp only [State.moveCopy]
  repeat' first
    | with_reducible assumption
    | with_reducible apply grows_foldl
    | intro _ _ _
    | with_reducible apply grows_allPieces
    | with_reducible apply grows_modCopy
    | with_reducible apply grows_sendPiece
    | split

theorem grows_checkHostRead {s : State} (p : Nat) (h : OutGrows s₀ s) : OutGrows s₀ (State.checkHostRead s p) := by
  dsimp only [State.checkHostRead]
  repeat' first
    | with_reducible assumption
    | with_reducible apply grows_useFree
    | with_reducible apply grows_failReplay
    | split

end

/-! ### The copies in flight keep their names

What a copy that moves, sends or fails changes is never its number, its descriptor, its queue, its partition or its handles (10 R287). -/

section

variable {r s t : State}

/-- What a copy in flight keeps until it leaves. -/
def copyTag (c : CopyJob) : Nat × Line × CopyQueue × Nat × List W32 := (c.id, c.desc, c.queue, c.partition, c.handles)

/-- The copies in flight of t are those of s, in their order. -/
def CopiesNamed (s t : State) : Prop := t.copies.map copyTag = s.copies.map copyTag

theorem named_refl : CopiesNamed s s := rfl

theorem named_only {L : List Fld} (h : Only L s t) (ho : Fld.copies ∉ L) (hr : CopiesNamed r s) : CopiesNamed r t := by
  have same : t.copies = s.copies := h.same .copies ho
  unfold CopiesNamed at *
  rwa [same]

theorem named_foldl {α : Type} {f : State → α → State} (l : List α) (h : CopiesNamed r s)
    (hf : ∀ t a, CopiesNamed r t → CopiesNamed r (f t a)) : CopiesNamed r (l.foldl f s) := by
  induction l generalizing s with
  | nil => exact h
  | cons a l ih => exact ih (hf s a h)

theorem named_fst {α : Type} {x : State × α} {o : α} (hx : x = (t, o)) (h : CopiesNamed r x.1) : CopiesNamed r t := by
  rw [hx] at h
  exact h

theorem named_set_links (v) (h : CopiesNamed r s) : CopiesNamed r { s with links := v } := h

theorem named_modCopy (id : Nat) (f : CopyJob → CopyJob) (hf : ∀ c, copyTag (f c) = copyTag c) (h : CopiesNamed r s) :
    CopiesNamed r (s.modCopy id f) := by
  refine Eq.trans ?_ h
  unfold State.modCopy
  rw [List.map_map]
  refine List.map_congr_left fun c _ => ?_
  show copyTag (if c.id = id then f c else c) = copyTag c
  split
  · exact hf c
  · rfl

end

section

variable {s₀ : State}

theorem named_sendPacket {s : State} (p d typ lines addr : Nat) (payload : List Line) (copy repair : Option Nat) (h : CopiesNamed s₀ s) :
    CopiesNamed s₀ (State.sendPacket s p d typ lines addr payload copy repair) :=
  named_only (only_sendPacket (within_refl _) p d typ lines addr payload copy repair (only_refl _ s)) (by simp) h

theorem named_applyPieces {s : State} (p : Nat) (xs : List Piece) (h : CopiesNamed s₀ s) : CopiesNamed s₀ (State.applyPieces s p xs).1 :=
  named_only (only_applyPieces (within_refl _) p xs (only_refl _ s)) (by simp) h

theorem named_readSpots {s : State} (p : Nat) (ext : List (Spot × Line)) (l : List Spot) (h : CopiesNamed s₀ s) : CopiesNamed s₀ (State.readSpots s p ext l).1 :=
  named_only (only_readSpots (within_refl _) p ext l (only_refl _ s)) (by simp) h

theorem named_allPieces {s : State} (p : Nat) (d : Line) (ext : List (Spot × Line)) (acc : List (Spot × Line)) (plan : CopyPlan)
    (l : List ((Nat × Nat × Nat) × Nat)) (h : CopiesNamed s₀ s) : CopiesNamed s₀ (State.allPieces s p d ext acc plan l).1 :=
  named_only (only_allPieces (within_refl _) p d ext acc plan l (only_refl _ s)) (by simp) h


theorem named_sendFor {s : State} (id p d typ lines addr : Nat) (payload : List Line) (h : CopiesNamed s₀ s) : CopiesNamed s₀ (State.sendFor s id p d typ lines addr payload) := by
  dsimp only [State.sendFor]
  repeat' first
    | with_reducible assumption
    | with_reducible apply named_sendPacket
    | with_reducible apply named_modCopy
    | exact fun _ => rfl

theorem named_sendPiece {s : State} (id p reduce : Nat) (x : Piece) (h : CopiesNamed s₀ s) : CopiesNamed s₀ (State.sendPiece s id p reduce x) := by
  dsimp only [State.sendPiece]
  repeat' first
    | with_reducible assumption
    | with_reducible apply named_sendFor
    | exact fun _ => rfl
    | split

theorem named_moveCopy {s : State} (id : Nat) (h : CopiesNamed s₀ s) : CopiesNamed s₀ (State.moveCopy s id) := by
  dsimp only [State.moveCopy]
  repeat' first
    | with_reducible assumption
    | with_reducible apply named_foldl
    | intro _ _ _
    | with_reducible apply named_allPieces
    | with_reducible apply named_modCopy
    | with_reducible apply named_sendPiece
    | exact fun _ => rfl
    | split

theorem named_sendChunk {s : State} (k : Member) (r : Nat) (q : CPiece) (codes : List Nat) (reduce : Bool) (h : CopiesNamed s₀ s) :
    CopiesNamed s₀ (State.sendChunk s k r q codes reduce) := by
  dsimp only [State.sendChunk]
  repeat' first
    | with_reducible assumption
    | with_reducible apply named_sendFor

theorem named_sendAll {s : State} (k : Member) (q : CPiece) (codes : List Nat) (h : CopiesNamed s₀ s) : CopiesNamed s₀ (State.sendAll s k q codes) := by
  dsimp only [State.sendAll]
  repeat' first
    | with_reducible assumption
    | with_reducible apply named_foldl
    | intro _ _ _
    | with_reducible apply named_sendChunk

theorem named_markFinal {s : State} (id i : Nat) (h : CopiesNamed s₀ s) : CopiesNamed s₀ (State.markFinal s id i) := by
  dsimp only [State.markFinal]
  repeat' first
    | with_reducible assumption
    | with_reducible apply named_modCopy
    | exact fun _ => rfl

theorem named_failColl {s : State} (id status : Nat) (err : Option Nat) (h : CopiesNamed s₀ s) : CopiesNamed s₀ (State.failColl s id status err) := by
  dsimp only [State.failColl]
  repeat' first
    | with_reducible assumption
    | with_reducible apply named_modCopy
    | exact fun _ => rfl

theorem named_putFinal {s : State} (k : Member) (i : Nat) (q : CPiece) (codes : List Nat) (h : CopiesNamed s₀ s) : CopiesNamed s₀ (State.putFinal s k i q codes) := by
  dsimp only [State.putFinal]
  repeat' first
    | with_reducible assumption
    | with_reducible apply named_failColl
    | with_reducible apply named_applyPieces
    | with_reducible apply named_markFinal
    | exact fun _ => rfl
    | split
    | refine named_fst (by with_reducible assumption) ?_

theorem named_ownCodes {s : State} (k : Member) (q : CPiece) (h : CopiesNamed s₀ s) : CopiesNamed s₀ (State.ownCodes s k q).1 := by
  dsimp only [State.ownCodes]
  repeat' first
    | with_reducible assumption
    | with_reducible apply named_failColl
    | with_reducible apply named_readSpots
    | exact fun _ => rfl
    | split
    | refine named_fst (by with_reducible assumption) ?_

theorem named_sendFirst {s : State} (k : Member) (i : Nat) (q : CPiece) (h : CopiesNamed s₀ s) : CopiesNamed s₀ (State.sendFirst s k i q) := by
  dsimp only [State.sendFirst]
  repeat' first
    | with_reducible assumption
    | with_reducible apply named_ownCodes
    | with_reducible apply named_putFinal
    | with_reducible apply named_sendAll
    | with_reducible apply named_sendChunk
    | with_reducible apply named_markFinal
    | exact fun _ => rfl
    | split
    | refine named_fst (by with_reducible assumption) ?_

theorem named_beginColl {s : State} (id : Nat) (h : CopiesNamed s₀ s) : CopiesNamed s₀ (State.beginColl s id) := by
  dsimp only [State.beginColl]
  repeat' first
    | with_reducible assumption
    | with_reducible apply named_foldl
    | intro _ _ _
    | with_reducible apply named_failColl
    | with_reducible apply named_modCopy
    | with_reducible apply named_sendFirst
    | exact fun _ => rfl
    | split

theorem named_collTry {s : State} (id : Nat) (h : CopiesNamed s₀ s) : CopiesNamed s₀ (State.collTry s id) := by
  dsimp only [State.collTry]
  repeat' first
    | with_reducible assumption
    | with_reducible apply named_beginColl
    | with_reducible apply named_failColl
    | exact fun _ => rfl
    | split
    | with_reducible apply named_set_links

end

/-! ### A copy begins (10 R290 to R298) -/

section

variable {s t u : State} {q : CopyQueue} {d : Line} {hs : List W32}

/-- A copy with this number, descriptor, queue and handles is in flight. -/
def InFlight (t : State) (id : Nat) (q : CopyQueue) (d : Line) (hs : List W32) (P : CopyJob → Prop) : Prop :=
  ∃ c, c ∈ t.copies ∧ copyTag c = (id, d, q, queuePart q, hs) ∧ P c

theorem addCopy_nextCopy (status : Nat) (err : Option Nat) (boxes : List (Nat × Nat × Nat)) (ext : List (Spot × Line)) (coll : Option Coll) :
    (u.addCopy q d status err boxes ext hs coll).nextCopy = u.nextCopy + 1 := by
  unfold State.addCopy
  dsimp only
  split <;> rfl

theorem addCopy_inFlight (status : Nat) (err : Option Nat) (boxes : List (Nat × Nat × Nat)) (ext : List (Spot × Line)) (coll : Option Coll) :
    InFlight (u.addCopy q d status err boxes ext hs coll) u.nextCopy q d hs (fun c => c.status = status) := by
  unfold State.addCopy
  dsimp only
  split <;> exact ⟨_, List.mem_append_right _ (List.mem_singleton_self _), rfl, rfl⟩

theorem addCopy_only (status : Nat) (err : Option Nat) (boxes : List (Nat × Nat × Nat)) (ext : List (Spot × Line)) (coll : Option Coll) :
    Only [.parts, .copies, .nextCopy] u (u.addCopy q d status err boxes ext hs coll) :=
  only_addCopy (within_refl _) q d status err boxes ext hs coll (only_refl _ u)

theorem inFlight_named {id : Nat} {P : CopyJob → Prop} (h : InFlight t id q d hs P) (n : CopiesNamed t u) :
    InFlight u id q d hs (fun _ => True) := by
  obtain ⟨c, hc, tag, -⟩ := h
  have mem : copyTag c ∈ u.copies.map copyTag := n ▸ List.mem_map_of_mem hc
  obtain ⟨k, hk, same⟩ := List.mem_map.mp mem
  exact ⟨k, hk, same.trans tag, trivial⟩

/-- A copy of the descriptor has begun with the next number. -/
structure Begun (s t : State) (q : CopyQueue) (d : Line) (hs : List W32) : Prop where
  next : t.nextCopy = s.nextCopy + 1
  flight : InFlight t s.nextCopy q d hs (fun _ => True)

theorem begun_addCopy (next : u.nextCopy = s.nextCopy) (status : Nat) (err : Option Nat) (boxes : List (Nat × Nat × Nat))
    (ext : List (Spot × Line)) (coll : Option Coll) : Begun s (u.addCopy q d status err boxes ext hs coll) q d hs := by
  obtain ⟨c, hc, tag, -⟩ := addCopy_inFlight (u := u) (q := q) (d := d) (hs := hs) status err boxes ext coll
  exact ⟨by rw [addCopy_nextCopy, next], c, hc, by rw [tag, next], trivial⟩

theorem begun_named (h : Begun s t q d hs) (n : CopiesNamed t u) (next : u.nextCopy = t.nextCopy) : Begun s u q d hs :=
  ⟨next.trans h.next, inFlight_named h.flight n⟩

/-- The plan of a copy whose descriptor has left its queue. -/
theorem planCopy_only {list : Option (List Byte)} {x : CopyPlan ⊕ (Nat × Option Nat)}
    (h : (s.popQueue q).planCopy q d list = (u, x)) :
    Only [.free, .out, .unsent, .stackTab, .mem, .memory, .parts, .fns, .buckets, .intr, .links, .sec, .spares] s u :=
  only_fst h (only_planCopy (within_refl _) q d list (only_popQueue (within_sub (by decide) (within_refl _)) q (only_refl _ s)))

/-- The host lines that a plan needs. -/
def hostNeeds (needs : List Spot) : List Nat := needs.filterMap (fun x => match x with | .host a => some a | _ => none)

/-- The peer lines that a plan needs. -/
def peerNeeds (needs : List Spot) : List (Nat × Nat) := needs.filterMap (fun x => match x with | .peer m a => some (m, a) | _ => none)

theorem mem_hostNeeds {needs : List Spot} {a : Nat} (h : .host a ∈ needs) : a ∈ hostNeeds needs :=
  List.mem_filterMap.mpr ⟨_, h, rfl⟩

/-- The host lines that a copy needs have been asked for. -/
def hostAsked (t : State) (p : Nat) (needs : List Spot) : State := t.toHost ((hostNeeds needs).map (fun a => .hostRead (p + 1) a 64))

/-- The host lines came: the journal has them, and a replay has checked them. -/
def hostCame (t : State) (p : Nat) (needs : List Spot) (bs : List Byte) : State :=
  let v := if (hostNeeds needs).isEmpty then t
    else t.journal p 0x05 (toBytes 8 (64 * (hostNeeds needs).length) ++
      toBytes 32 (sha3 (padTo (64 * (hostNeeds needs).length) (bs.take (64 * (hostNeeds needs).length)))).toNat)
  if (hostNeeds needs).isEmpty then v else v.checkHostRead p

/-- A copy sends for its peer lines; one that needs none moves. -/
def copySends (v : State) (id p : Nat) (peers : List (Nat × Nat)) : State :=
  let w := peers.foldl (fun u a => u.sendFor id p a.1 2 0 a.2 []) v
  if peers.isEmpty then w.moveCopy id else w

/-- A copy whose host lines came is in flight. -/
def copyAdded (t : State) (q : CopyQueue) (d : Line) (plan : CopyPlan) (needs : List Spot) (bs : List Byte) : State :=
  (hostCame t (queuePart q) needs bs).addCopy q d plan.bad none plan.boxes
    ((hostNeeds needs).zipIdx.map (fun a => (Spot.host a.1, lineOf ((bs.drop (64 * a.2)).take 64)))) (copyHandles d) none

def copyFed (t : State) (q : CopyQueue) (d : Line) (plan : CopyPlan) (needs : List Spot) (bs : List Byte) : State :=
  copySends (copyAdded t q d plan needs bs) (hostCame t (queuePart q) needs bs).nextCopy (queuePart q) (peerNeeds needs)

/-- A copy that needs these lines begins. -/
def copyNeeding (t : State) (q : CopyQueue) (d : Line) (plan : CopyPlan) (host : Option (List Byte)) (needs : List Spot) : State :=
  if !(t.planPeers (queuePart q) d plan).all (t.reachable (queuePart q)) then t.addCopy q d 0x36 none [] [] (copyHandles d) none
  else match (if (hostNeeds needs).isEmpty then some [] else host) with
    | none => (((hostAsked t (queuePart q) needs).journal (queuePart q) 0x08 (toBytes 1 2 ++ toBytes 7 0)).failReplay (queuePart q) 3).addCopy q d
        0x35 none [] [] (copyHandles d) none
    | some bs => copyFed (hostAsked t (queuePart q) needs) q d plan needs bs

theorem startCopy_refused {host list : Option (List Byte)} {e : Nat × Option Nat} (h : (s.popQueue q).planCopy q d list = (u, .inr e)) :
    s.startCopy q d host list = u.addCopy q d e.1 e.2 [] [] (copyHandles d) none := by
  unfold State.startCopy
  dsimp only
  rw [h]

theorem startCopy_mismatched {host list : Option (List Byte)} {plan : CopyPlan} (h : (s.popQueue q).planCopy q d list = (u, .inl plan))
    (hn : u.planNeeds (queuePart q) d plan = none) : s.startCopy q d host list = u.addCopy q d 0x31 none [] [] (copyHandles d) none := by
  unfold State.startCopy
  dsimp only
  rw [h]
  dsimp only
  rw [hn]

theorem startCopy_needing {host list : Option (List Byte)} {plan : CopyPlan} {needs : List Spot}
    (h : (s.popQueue q).planCopy q d list = (u, .inl plan)) (hn : u.planNeeds (queuePart q) d plan = some needs) :
    s.startCopy q d host list = copyNeeding u q d plan host needs := by
  unfold State.startCopy
  dsimp only
  rw [h]
  dsimp only
  rw [hn]
  rfl

theorem hostAsked_only (p : Nat) (needs : List Spot) : Only [.out, .unsent] t (hostAsked t p needs) :=
  only_toHost (within_refl _) _ (only_refl _ t)

theorem hostAsked_out {p : Nat} {needs : List Spot} (good : t.linkGood = true) {a : Nat} (h : .host a ∈ needs) :
    .hostRead (p + 1) a 64 ∈ (hostAsked t p needs).out := by
  unfold hostAsked
  rw [toHost_out t _ good]
  exact List.mem_append_right _ (List.mem_map_of_mem (f := fun a => Output.hostRead (p + 1) a 64) (mem_hostNeeds h))

theorem hostAsked_none {p : Nat} : hostAsked t p [] = t := by
  unfold hostAsked State.toHost hostNeeds
  split
  · simp
  · simp

theorem hostCame_only (p : Nat) (needs : List Spot) (bs : List Byte) : Only [.free, .out, .unsent, .parts, .fns, .buckets] t
    (hostCame t p needs bs) := by
  have hL := within_refl [Fld.free, .out, .unsent, .parts, .fns, .buckets]
  have journaled (x : List Byte) := only_journal (within_sub (by decide) hL) p 0x05 x (only_refl _ t)
  unfold hostCame
  dsimp only
  split
  · exact only_refl _ t
  · exact only_checkHostRead (within_sub (by decide) hL) p (journaled _)

theorem hostCame_grows (p : Nat) (needs : List Spot) (bs : List Byte) : OutGrows t (hostCame t p needs bs) := by
  unfold hostCame
  dsimp only
  split
  · exact grows_refl
  · exact grows_checkHostRead _ (grows_journal _ _ _ grows_refl)

theorem addCopy_grows (status : Nat) (err : Option Nat) (boxes : List (Nat × Nat × Nat)) (ext : List (Spot × Line)) (coll : Option Coll) :
    OutGrows u (u.addCopy q d status err boxes ext hs coll) := grows_only (addCopy_only _ _ _ _ _) (by simp) grows_refl

theorem copySends_grows (v : State) (id p : Nat) (peers : List (Nat × Nat)) : OutGrows v (copySends v id p peers) := by
  have sent := grows_foldl peers (grows_refl (s := v)) fun u a h => grows_sendFor id p a.1 2 0 a.2 [] h
  unfold copySends
  dsimp only
  split
  · exact grows_moveCopy _ sent
  · exact sent

theorem copySends_named (v : State) (id p : Nat) (peers : List (Nat × Nat)) : CopiesNamed v (copySends v id p peers) := by
  have sent := named_foldl peers (named_refl (s := v)) fun u a h => named_sendFor id p a.1 2 0 a.2 [] h
  unfold copySends
  dsimp only
  split
  · exact named_moveCopy _ sent
  · exact sent

theorem copySends_nextCopy (v : State) (id p : Nat) (peers : List (Nat × Nat)) : (copySends v id p peers).nextCopy = v.nextCopy := by
  have sent := only_foldl peers (only_refl _ v) fun u a h => only_sendFor (within_refl _) id p a.1 2 0 a.2 [] h
  unfold copySends
  dsimp only
  split
  · exact ((only_moveCopy (within_refl _) id (only_refl _ _)).same .nextCopy (by simp)).trans (sent.same .nextCopy (by simp))
  · exact sent.same .nextCopy (by simp)

theorem copyFed_grows (plan : CopyPlan) (needs : List Spot) (bs : List Byte) : OutGrows t (copyFed t q d plan needs bs) :=
  grows_trans (grows_trans (hostCame_grows (queuePart q) needs bs) (addCopy_grows _ _ _ _ _)) (copySends_grows _ _ _ _)

theorem copyFed_begun (next : t.nextCopy = s.nextCopy) (plan : CopyPlan) (needs : List Spot) (bs : List Byte) :
    Begun s (copyFed t q d plan needs bs) q d (copyHandles d) := by
  have came := (hostCame_only (t := t) (queuePart q) needs bs).same .nextCopy (by simp)
  exact begun_named (begun_addCopy (Eq.trans came next) _ _ _ _ _) (copySends_named _ _ _ _) (copySends_nextCopy _ _ _ _)

theorem copyNeeding_begun (next : t.nextCopy = s.nextCopy) (plan : CopyPlan) (host : Option (List Byte)) (needs : List Spot) :
    Begun s (copyNeeding t q d plan host needs) q d (copyHandles d) := by
  have asked : (hostAsked t (queuePart q) needs).nextCopy = t.nextCopy := (hostAsked_only _ _).same .nextCopy (by simp)
  unfold copyNeeding
  split
  · exact begun_addCopy next _ _ _ _ _
  · split
    · have noted := only_failReplay (within_sub (by decide) (within_refl _)) (queuePart q) 3 (only_journal (within_refl _) (queuePart q) 0x08
        (toBytes 1 2 ++ toBytes 7 0) (only_refl _ (hostAsked t (queuePart q) needs)))
      exact begun_addCopy (Eq.trans (noted.same .nextCopy (by simp)) (asked.trans next)) _ _ _ _ _
    · exact copyFed_begun (asked.trans next) _ _ _

/-- However it begins, a copy is in flight with the next number. -/
theorem startCopy_begun (host list : Option (List Byte)) : Begun s (s.startCopy q d host list) q d (copyHandles d) := by
  rcases h : (s.popQueue q).planCopy q d list with ⟨u, plan | e⟩
  · have next : u.nextCopy = s.nextCopy := (planCopy_only h).same .nextCopy (by simp)
    rcases hn : u.planNeeds (queuePart q) d plan with _ | needs
    · rw [startCopy_mismatched h hn]
      exact begun_addCopy next _ _ _ _ _
    · rw [startCopy_needing h hn]
      exact copyNeeding_begun next _ _ _
  · rw [startCopy_refused h]
    exact begun_addCopy ((planCopy_only h).same .nextCopy (by simp)) _ _ _ _ _

theorem copyNeeding_asks (good : t.linkGood = true) {plan : CopyPlan} {host : Option (List Byte)} {needs : List Spot}
    (peers : (t.planPeers (queuePart q) d plan).all (t.reachable (queuePart q)) = true) {a : Nat} (ha : .host a ∈ needs) :
    .hostRead (queuePart q + 1) a 64 ∈ (copyNeeding t q d plan host needs).out := by
  have asked := hostAsked_out (p := queuePart q) good ha
  unfold copyNeeding
  rw [if_neg (by simp [peers])]
  split
  · exact grows_mem (grows_trans (grows_failReplay _ _ (grows_journal _ _ _ grows_refl)) (addCopy_grows _ _ _ _ _)) asked
  · exact grows_mem (copyFed_grows _ _ _) asked

theorem copyNeeding_moves {plan : CopyPlan} {host : Option (List Byte)}
    (peers : (t.planPeers (queuePart q) d plan).all (t.reachable (queuePart q)) = true) :
    copyNeeding t q d plan host [] = (t.addCopy q d plan.bad none plan.boxes [] (copyHandles d) none).moveCopy t.nextCopy := by
  unfold copyNeeding
  rw [if_neg (by simp [peers]), hostAsked_none]
  rfl

/-- The queue head of a partition that works. -/
theorem queueHead_linkGood (h : s.queueHead q = some d) : s.linkGood = true := by
  unfold State.queueHead at h
  by_cases hw : s.works (queuePart q) = true
  · exact works_linkGood hw
  · rw [if_pos (by simpa using hw)] at h
    cases h

theorem badCopy_refused (list : Option (List Byte)) (h : badCopy (isProgram q) d = true) :
    (s.popQueue q).planCopy q d list = (s.popQueue q, .inr (0x28, none)) := by
  unfold State.planCopy
  dsimp only
  rw [if_pos h]

/-- A copy that ends before anything was planned touches no line, sends nothing and asks for nothing. -/
theorem addCopy_popped_stands (status : Nat) (err : Option Nat) (coll : Option Coll) :
    let t := (s.popQueue q).addCopy q d status err [] [] hs coll
    t.mem = s.mem ∧ t.out = s.out ∧ t.links = s.links := by
  have popped := only_popQueue (within_refl _) q (only_refl _ s)
  have added := addCopy_only (u := s.popQueue q) (q := q) (d := d) (hs := hs) status err [] [] coll
  exact ⟨(added.same .mem (by simp)).trans (popped.same .mem (by simp)), (added.same .out (by simp)).trans (popped.same .out (by simp)),
    (added.same .links (by simp)).trans (popped.same .links (by simp))⟩

theorem popQueue_nextCopy : (s.popQueue q).nextCopy = s.nextCopy := (only_popQueue (within_refl _) q (only_refl _ s)).same .nextCopy (by simp)

theorem popQueue_inFlight (status : Nat) (err : Option Nat) (coll : Option Coll) :
    ∃ c, c ∈ ((s.popQueue q).addCopy q d status err [] [] hs coll).copies ∧ c.id = s.nextCopy ∧ c.desc = d ∧ c.queue = q ∧
      c.partition = queuePart q ∧ c.handles = hs ∧ c.status = status := by
  obtain ⟨c, hc, tag, st⟩ := addCopy_inFlight (u := s.popQueue q) (q := q) (d := d) (hs := hs) status err [] [] coll
  simp only [copyTag, Prod.mk.injEq] at tag
  obtain ⟨id, desc, queue, part, handles⟩ := tag
  exact ⟨c, hc, id.trans popQueue_nextCopy, desc, queue, part, handles, st⟩

/-- What the statement says of every copy that begins. -/
theorem begins_of (b : Begun s t q d hs) {bad : Bool}
    (hb : bad = true → ∃ coll, t = (s.popQueue q).addCopy q d 0x28 none [] [] hs coll) :
    t.nextCopy = s.nextCopy + 1 ∧ (∃ c, c ∈ t.copies ∧ c.id = s.nextCopy ∧ c.desc = d ∧ c.queue = q ∧ c.partition = queuePart q ∧
      c.handles = hs ∧ (bad = true → c.status = 0x28)) ∧ (bad = true → t.mem = s.mem ∧ t.out = s.out ∧ t.links = s.links) := by
  cases bad with
  | false =>
    obtain ⟨c, hc, tag, -⟩ := b.flight
    simp only [copyTag, Prod.mk.injEq] at tag
    obtain ⟨id, desc, queue, part, handles⟩ := tag
    exact ⟨b.next, ⟨c, hc, id, desc, queue, part, handles, fun h => (by cases h)⟩, fun h => (by cases h)⟩
  | true =>
    obtain ⟨coll, rfl⟩ := hb rfl
    obtain ⟨c, hc, id, desc, queue, part, handles, st⟩ := popQueue_inFlight (s := s) (q := q) (d := d) (hs := hs) 0x28 none coll
    exact ⟨b.next, ⟨c, hc, id, desc, queue, part, handles, fun _ => st⟩, fun _ => addCopy_popped_stands _ _ _⟩

/-! #### Collectives (15 R386, R387) -/

/-- The first word of the partition's part of the collective came at the earliest message of it. -/
def collSince (t : State) (p : Nat) (d : Line) : W64 :=
  t.links.colls.foldl (fun (m : W64) e =>
    if e.1 = p ∧ collLineSeq e.2.2.1 = kSeq d ∧ e.2.2.2.toNat < m.toNat then e.2.2.2 else m) t.time.now

/-- A member of a collective tells the others its line, and begins when it has all of theirs. -/
def collTells (t : State) (p : Nat) (d : Line) (id : Nat) : State :=
  match t.member id with
  | none => t
  | some k => (((List.range k.g).filter (· != k.m)).foldl (fun u r => u.sendColl p (gMember k.x.group r) (collLine d k.x k.y) id) t).collTry id

/-- A collective that passes its checks begins. -/
def collBegins (t : State) (q : CopyQueue) (d : Line) (hs : List W32) : State :=
  collTells (t.addCopy q d 0 none [] [] hs (some { first := collSince t (queuePart q) d, started := false, sums := [], final := [] }))
    (queuePart q) d t.nextCopy

/-- The handles of a collective's descriptor. -/
def collHandles (d : Line) : List W32 := [kSrc d, kDst d] ++ (if cAtomic d then [cWordHandle d] else [])

theorem exec_collective (hh : s.queueHead q = some d) (hm : s.mayStart q d = true) (ht : cType d = 4) :
    (∀ e, (s.popQueue q).collStatus q d = e + 1 →
      exec (.collective q) s = .next ((s.popQueue q).addCopy q d (e + 1) none [] [] (collHandles d) none)) ∧
    ((s.popQueue q).collStatus q d = 0 → exec (.collective q) s = .next (collBegins (s.popQueue q) q d (collHandles d))) := by
  refine ⟨fun e he => ?_, fun he => ?_⟩
  all_goals
    show execCollective q s = _
    unfold execCollective
    rw [hh]
    dsimp only
    rw [if_neg (by simp [ht, hm]), he]
    rfl

theorem collTells_named (p id : Nat) : CopiesNamed t (collTells t p d id) := by
  unfold collTells
  split
  · exact named_refl
  · exact named_collTry _ (named_foldl _ named_refl fun _ _ h => named_only (only_sendColl (within_refl _) _ _ _ _ (only_refl _ _)) (by simp) h)

theorem collTells_nextCopy (p id : Nat) : (collTells t p d id).nextCopy = t.nextCopy := by
  unfold collTells
  split
  · rfl
  · next k _ =>
    have told := only_foldl ((List.range k.g).filter (· != k.m)) (only_refl _ t)
      fun u r h => only_sendColl (within_refl _) p (gMember k.x.group r) (collLine d k.x k.y) id h
    exact ((only_collTry (within_refl _) id (only_refl _ _)).same .nextCopy (by simp)).trans (told.same .nextCopy (by simp))

theorem collBegins_begun : Begun s (collBegins (s.popQueue q) q d hs) q d hs :=
  begun_named (begun_addCopy popQueue_nextCopy _ _ _ _ _) (collTells_named _ _) (collTells_nextCopy _ _)

theorem collStatus_bad (h : badColl (isProgram q) d = true) : (s.popQueue q).collStatus q d = 0x28 := by
  unfold State.collStatus
  dsimp only
  rw [if_pos h]

end

/-- Settles O29: a copy descriptor becomes one copy in flight. -/
theorem copiesBegin : Obligations.CopiesBegin := by
  unfold Obligations.CopiesBegin
  intro q host list s d hh hm hl
  dsimp only
  have begins (host list : Option (List Byte)) := begins_of (bad := badCopy (isProgram q) d) (startCopy_begun (s := s) (q := q) (d := d) host list)
    fun hb => ⟨none, startCopy_refused (badCopy_refused list hb)⟩
  have reads (host list : Option (List Byte)) :
      (∀ u e, (s.popQueue q).planCopy q d list = (u, .inr e) → s.startCopy q d host list = u.addCopy q d e.1 e.2 [] [] (copyHandles d) none) ∧
      (∀ u plan, (s.popQueue q).planCopy q d list = (u, .inl plan) →
        (u.planNeeds (queuePart q) d plan = none → s.startCopy q d host list = u.addCopy q d 0x31 none [] [] (copyHandles d) none) ∧
        (∀ needs, u.planNeeds (queuePart q) d plan = some needs →
          ((u.planPeers (queuePart q) d plan).all (u.reachable (queuePart q)) = false →
            s.startCopy q d host list = u.addCopy q d 0x36 none [] [] (copyHandles d) none) ∧
          ((u.planPeers (queuePart q) d plan).all (u.reachable (queuePart q)) = true →
            (∀ a, .host a ∈ needs → .hostRead (queuePart q + 1) a 64 ∈ (s.startCopy q d host list).out) ∧
            (needs = [] → s.startCopy q d host list =
              (u.addCopy q d plan.bad none plan.boxes [] (copyHandles d) none).moveCopy u.nextCopy)))) := by
    refine ⟨fun u e h => startCopy_refused h, fun u plan h => ⟨startCopy_mismatched h, fun needs hn => ⟨fun hp => ?_, fun hp => ⟨fun a ha => ?_, ?_⟩⟩⟩⟩
    · rw [startCopy_needing h hn]
      unfold copyNeeding
      rw [if_pos (by simp [hp])]
    · rw [startCopy_needing h hn]
      have good : u.linkGood = true := by
        unfold State.linkGood
        rw [(planCopy_only h).same .module (by simp)]
        exact queueHead_linkGood hh
      exact copyNeeding_asks good hp ha
    · rintro rfl
      rw [startCopy_needing h hn]
      exact copyNeeding_moves hp
  have run (host list : Option (List Byte)) : s.beginCopy q d host list = s.startCopy q d host list := replayGuard_live s _ _ hl
  refine ⟨fun ht => ?_, fun ht => ?_, fun ht => ?_, fun ht => ?_, fun hk hc => ?_⟩
  · refine completes_next (?_ : exec (.copy q host) s = .next (s.startCopy q d host none)) ⟨begins host none, reads host none⟩
    rw [← run]
    show execCopy q host s = _
    unfold execCopy
    rw [hh]
    dsimp only
    rw [if_pos ht, if_pos hm]
  · refine completes_next (?_ : exec (.gather q host list) s = .next (s.startCopy q d host list)) ⟨begins host list, reads host list⟩
    rw [← run]
    show execGather q host list s = _
    unfold execGather
    rw [hh]
    dsimp only
    rw [if_pos ⟨ht, hm⟩]
  · refine completes_next (?_ : exec (.scatter q host list) s = .next (s.startCopy q d host list)) ⟨begins host list, reads host list⟩
    rw [← run]
    show execScatter q host list s = _
    unfold execScatter
    rw [hh]
    dsimp only
    rw [if_pos ⟨ht, hm⟩]
  · obtain ⟨refused, goes⟩ := exec_collective hh hm ht
    rcases hst : (s.popQueue q).collStatus q d with _ | e
    · have good : badColl (isProgram q) d = false := by
        by_contra hb
        rw [collStatus_bad (by simpa using hb)] at hst
        cases hst
      refine completes_next (goes hst) ⟨begins_of collBegins_begun fun hb => ?_, fun e he => ?_⟩
      · rw [good] at hb
        cases hb
      · cases he
    · refine completes_next (refused e hst) ⟨begins_of (begun_addCopy popQueue_nextCopy _ _ _ _ _) fun hb => ⟨none, ?_⟩, fun k hk => ?_⟩
      · rw [← hst, collStatus_bad hb]
      · cases hk
        rfl
  · refine completes_next (?_ : exec (.copy q host) s = .next ((s.popQueue q).addCopy q d 0x28 none [] [] [] none))
      (begins_of (begun_addCopy popQueue_nextCopy _ _ _ _ _) fun _ => ⟨none, rfl⟩)
    show execCopy q host s = _
    unfold execCopy
    rw [hh]
    dsimp only
    rw [if_neg, if_neg, if_pos hm]
    · rintro (h | ⟨h, k⟩)
      · exact hk h
      · exact hc ⟨by simpa using h, k⟩
    · exact fun h => hk ⟨by omega, by omega⟩

end Sys2Proof.Proofs
end

section
/-! PROOF of copies complete, and entries are fetched (10 R290, R297, R298) -/

namespace Sys2Proof.Proofs

open Sys2Proof Sys2Proof.Machine Sys2Proof.Laws

/-! ### A copy leaves the engines (10 R297, R298) -/

section

variable {s t u : State} {c : CopyJob}

/-- The copy is in flight no longer. -/
def withoutCopy (s : State) (c : CopyJob) : State := { s with copies := s.copies.filter (fun k => k.id != c.id) }

theorem endCopy_only (status : Nat) (err : Option Nat) :
    Only [.free, .out, .unsent, .clusters, .parts, .fns, .buckets, .intr] (withoutCopy s c) (s.endCopy c status err) := by
  have hL := within_refl [Fld.free, .out, .unsent, .clusters, .parts, .fns, .buckets, .intr]
  have h := only_refl [Fld.free, .out, .unsent, .clusters, .parts, .fns, .buckets, .intr] (withoutCopy s c)
  unfold withoutCopy at h ⊢
  dsimp only [State.endCopy]
  repeat' first
    | with_reducible assumption
    | with_reducible apply only_latch
    | with_reducible apply only_modPart
    | with_reducible apply only_copyAnswer
    | with_reducible apply only_unreserve
    | with_reducible apply only_programError
    | with_reducible apply only_faultDue
    | split
  all_goals exact within_sub (by decide) hL

/-- A copy that leaves without an error line stops no cluster. -/
theorem endCopy_plain (status : Nat) : Only [.free, .out, .unsent, .parts, .fns, .buckets, .intr] (withoutCopy s c) (s.endCopy c status none) := by
  have hL := within_refl [Fld.free, .out, .unsent, .parts, .fns, .buckets, .intr]
  have h := only_refl [Fld.free, .out, .unsent, .parts, .fns, .buckets, .intr] (withoutCopy s c)
  unfold withoutCopy at h ⊢
  dsimp only [State.endCopy]
  rw [ite_self]
  repeat' first
    | with_reducible assumption
    | with_reducible apply only_latch
    | with_reducible apply only_modPart
    | with_reducible apply only_copyAnswer
    | with_reducible apply only_unreserve
    | with_reducible apply only_faultDue
    | split
  all_goals exact within_sub (by decide) hL

theorem endCopy_gone (status : Nat) (err : Option Nat) : ∀ k, k ∈ (s.endCopy c status err).copies → k.id ≠ c.id := by
  have same : (s.endCopy c status err).copies = s.copies.filter (fun k => k.id != c.id) := (endCopy_only status err).same .copies (by simp)
  intro k hk
  rw [same] at hk
  simpa using (List.mem_filter.mp hk).2

theorem copyAt_id {id : Nat} (h : s.copyAt id = some c) : c.id = id := by
  have := List.find?_some h
  simpa using this

theorem copyAt_congr (h : t.copies = s.copies) (id : Nat) : t.copyAt id = s.copyAt id := by
  unfold State.copyAt
  rw [h]

/-- A copy without a notify leaves the engines with its record. -/
theorem notifyCopy_plain (hc : s.copyAt c.id = some c) (hw : c.waiting = []) (hs : cSignal c.desc = false) (ha : cAtomic c.desc = false) :
    s.notifyCopy c = s.endCopy c 0 none := by
  have signal : s.copySignal c = s := if_neg (by simp [hs])
  have atomic : s.copyAtomic c = (s, none) := if_pos (by simp [ha])
  unfold State.notifyCopy
  rw [signal, atomic]
  dsimp only
  rw [hc]
  dsimp only
  rw [hw]
  rfl

/-! ### COPY_COMPLETE and COLLECTIVE_JOIN_TIMEOUT -/

variable {id : Nat}

/-- A copy whose pieces have been written, or could not be. -/
def piecesApplied (id : Nat) (c : CopyJob) : State × Option (Nat × Option Nat) → State
  | (u, some e) => u.endCopy c e.1 e.2
  | (u, none) => match c.hostLines.getLast? with
    | some a => (u.hostRead (c.partition + 1) a 64).modCopy id (fun x => { x with stage := 3 })
    | none => if c.status ≠ 0 then u.endCopy c c.status c.err else u.notifyCopy c

theorem exec_copyComplete (hc : s.copyAt id = some c) (h1 : c.stage = 1) (h0 : c.status = 0) (hw : c.waiting = []) (hn : c.coll = none)
    (hs : s.staleHandle c = false) :
    exec (.copyComplete id true) s = .next (piecesApplied id c (s.applyPieces c.partition c.pieces)) := by
  show execCopyComplete id true s = _
  unfold execCopyComplete
  rw [hc]
  dsimp only
  rw [if_neg (by simp [h1]), if_neg (by simp [h1]), if_neg (by simp [h1, hw, hn]), if_neg (by simp [h0]), if_neg (by simp [hs])]
  rfl

theorem exec_copyComplete_read (hc : s.copyAt id = some c) (h3 : c.stage = 3) :
    (c.status = 0 → s.staleHandle c = false → exec (.copyComplete id true) s = .next (s.notifyCopy c)) ∧
    (exec (.copyComplete id false) s = .next ((s.journal c.partition 0x08 (toBytes 1 3 ++ toBytes 7 0)).endCopy c 0x35 none)) := by
  refine ⟨fun h0 hs => ?_, ?_⟩
  · show execCopyComplete id true s = _
    unfold execCopyComplete
    rw [hc]
    dsimp only
    rw [if_neg (by simp [h3]), if_pos h3, if_neg (by simp), if_neg (by simp [hs]), if_neg (by simp [h0])]
  · show execCopyComplete id false s = _
    unfold execCopyComplete
    rw [hc]
    dsimp only
    rw [if_neg (by simp [h3]), if_pos h3, if_pos (by rfl)]

theorem exec_copyComplete_failed (hc : s.copyAt id = some c) (h2 : c.stage ≠ 2) (h3 : c.stage ≠ 3) (h0 : c.status ≠ 0)
    (h7 : c.status ≠ 0x37) :
    exec (.copyComplete id true) s = .next ((s.applyAny c.partition c.pieces).endCopy c c.status c.err) := by
  show execCopyComplete id true s = _
  unfold execCopyComplete
  rw [hc]
  dsimp only
  rw [if_neg h2, if_neg h3, if_neg (by simp [h0, h7]), if_pos ⟨h0, h7⟩]

/-- The collective's messages and packets are dropped. -/
def collDropped (s : State) (c : CopyJob) (id : Nat) : State :=
  { s with links := { s.links with
    colls := s.links.colls.filter (fun e => !(e.1 == c.partition && collLineSeq e.2.2.1 == kSeq c.desc)),
    sent := s.links.sent.filter (fun x => x.copy != some id) } }

theorem exec_collectiveJoinTimeout {a : Coll} (hc : s.copyAt id = some c) (ha : c.coll = some a) (hs : a.started = false) (h0 : c.status = 0)
    (ht : a.first.toNat + 1000000000 ≤ s.nowNat) :
    exec (.collectiveJoinTimeout id) s = .next ((collDropped s c id).endCopy c 0x3F none) := by
  show execCollectiveJoinTimeout id s = _
  unfold execCollectiveJoinTimeout
  rw [hc]
  dsimp only
  rw [ha]
  dsimp only
  rw [if_pos ⟨by simp [hs], h0, ht⟩]
  rfl

/-! ### PROGRAM_COPY_QUEUE_POLL (10 R290) -/

variable {p : PartId} {cfg : W64} {v : State}

/-- The first line of a program copy queue is its header: the head stands in it. -/
def copyqHead (s : State) (cfg : W64) : Nat := s.regionLine (fld cfg 7 0) 0

/-- Where the entry at the head stands in the queue's region. -/
def copyqOff (cfg : W64) (l : Line) : Nat := 64 + 64 * (lineNat l 4 4 % copyqEntries cfg)

/-- The entry is taken: its type is cleared and the head has moved on. -/
def entryTaken (v : State) (p : PartId) (cfg : W64) (l : Line) : State :=
  (v.regionPut (fld cfg 7 0) (copyqOff cfg l) p 1 0).regionPut (fld cfg 7 0) 4 p 4 ((lineNat l 4 4 + 1) % 2 ^ 32)

/-- The entry has joined the partition's fetched entries. -/
def entryFetched (v : State) (p : PartId) (cfg : W64) (l x : Line) : State :=
  ((entryTaken v p cfg l).modPart p.val (fun y => { y with progQ := y.progQ ++ [x] })).takeTurn p.val (.program p) x

/-- What the entry at the head comes to. -/
def pollEntry (s : State) (p : PartId) (cfg : W64) (l : Line) : State × Option Line → State
  | (v, none) => v.programError p (s.regionLine (fld cfg 7 0) (copyqOff cfg l))
  | (v, some x) => if lineNat x 0 1 = 0 then v else entryFetched v p cfg l x

theorem exec_programCopyQueuePoll (hc : (s.part p).copyq = some cfg) (hm : (s.part p).mode = .ready) (ho : s.copyqOk p cfg = true) :
    (s.readLine (ctlOf (copyqHead s cfg)) (copyqHead s cfg) p = (u, none) →
      exec (.programCopyQueuePoll p) s = .next (u.programError p (copyqHead s cfg))) ∧
    (∀ l, s.readLine (ctlOf (copyqHead s cfg)) (copyqHead s cfg) p = (u, some l) →
      exec (.programCopyQueuePoll p) s = .next (pollEntry s p cfg l
        (u.readLine (ctlOf (s.regionLine (fld cfg 7 0) (copyqOff cfg l))) (s.regionLine (fld cfg 7 0) (copyqOff cfg l)) p))) := by
  unfold copyqHead
  refine ⟨fun h => ?_, fun l h => ?_⟩
  all_goals
    show execProgramCopyQueuePoll p s = _
    unfold execProgramCopyQueuePoll
    rw [hc]
    dsimp only
    rw [if_neg (by simp [hm, ho]), h]
  rfl

theorem entryFetched_facts (l x : Line) : ((entryFetched v p cfg l x).part p).progQ = (v.part p).progQ ++ [x] ∧
    (entryFetched v p cfg l x).mem = (entryTaken v p cfg l).mem := by
  have taken : ((entryTaken v p cfg l).part p).progQ = (v.part p).progQ :=
    (view_at (v := Part.progQ) (view_regionPut _ (fun _ _ => rfl) _ _ _ _ _) p).trans
      (view_at (v := Part.progQ) (view_regionPut v (fun _ _ => rfl) _ _ _ _ _) p)
  unfold entryFetched State.takeTurn
  generalize entryTaken v p cfg l = w at taken ⊢
  refine ⟨?_, rfl⟩
  rw [modPart_part_same]
  dsimp only
  rw [modPart_part_same, taken]

end

/-- Settles O30: a completing copy writes its pieces and leaves; an entry of a program copy queue is fetched. -/
theorem copiesCompleteAndEntriesAreFetched : Obligations.CopiesCompleteAndEntriesAreFetched := by
  unfold Obligations.CopiesCompleteAndEntriesAreFetched
  refine ⟨fun id s c hc => ?_, fun p s u cfg hc hm ho => ?_⟩
  · have hid := copyAt_id hc
    refine ⟨fun h1 h0 hw hn hs u f hu => ?_, fun h3 h0 hs => completes_next ((exec_copyComplete_read hc h3).1 h0 hs) rfl, fun h3 => ?_,
      fun h2 h3 h0 h7 => completes_next (exec_copyComplete_failed hc h2 h3 h0 h7) ⟨rfl, ?_⟩, fun a ha hs h0 ht => ?_⟩
    · have run := exec_copyComplete hc h1 h0 hw hn hs
      rw [hu] at run
      refine ⟨?_, ?_, ?_⟩
      · rintro rfl hl
        have applied := only_fst hu (only_applyPieces (within_refl _) c.partition c.pieces (only_refl _ s))
        unfold piecesApplied at run
        dsimp only at run
        rw [hl, List.getLast?_nil] at run
        dsimp only at run
        rw [if_neg (not_not_intro h0)] at run
        refine completes_next run ⟨rfl, fun hsig hat => ?_⟩
        have here : u.copyAt c.id = some c := by rw [copyAt_congr (applied.same .copies (by simp)), hid, hc]
        have left := endCopy_plain (s := u) (c := c) 0
        rw [notifyCopy_plain here hw hsig hat]
        exact ⟨rfl, hid ▸ endCopy_gone 0 none, left.same .mem (by simp), left.same .quarters (by simp), left.same .clusters (by simp)⟩
      · rintro rfl a hl
        unfold piecesApplied at run
        dsimp only at run
        rw [hl] at run
        exact completes_next run rfl
      · rintro e rfl
        exact completes_next run ⟨rfl, hid ▸ endCopy_gone _ _⟩
    · refine completes_next (exec_copyComplete_read hc h3).2 ⟨hid ▸ endCopy_gone _ _, ?_, _, rfl⟩
      exact ((endCopy_plain _).same .mem (by simp)).trans ((only_journal (within_refl _) _ _ _ (only_refl _ s)).same .mem (by simp))
    · exact hid ▸ endCopy_gone _ _
    · have left := endCopy_plain (s := collDropped s c id) (c := c) 0x3F
      exact completes_next (exec_collectiveJoinTimeout hc ha hs h0 ht) ⟨hid ▸ endCopy_gone _ _, left.same .mem (by simp),
        left.same .quarters (by simp), left.same .clusters (by simp)⟩
  · obtain ⟨bad, good⟩ := exec_programCopyQueuePoll (u := u) hc hm ho
    refine ⟨fun h => completes_next (bad h) rfl, fun l h v e hv => ?_⟩
    have run := good l h
    unfold copyqOff at run
    rw [hv] at run
    refine ⟨?_, ?_, ?_⟩
    · rintro rfl
      exact completes_next run rfl
    · rintro x rfl hx
      exact completes_next (run.trans (congrArg _ (if_pos hx))) rfl
    · rintro x rfl hx
      exact completes_next (run.trans (congrArg _ (if_neg hx))) (entryFetched_facts l x)

end Sys2Proof.Proofs
end

section
/-! PROOF of tensors and digest streams (10 R284 to R287, R299, R300; 16 R405) -/

namespace Sys2Proof.Proofs

open Sys2Proof Sys2Proof.Machine Sys2Proof.Laws

/-! ### A partition's table of tensors (10 R284 to R287) -/

section

variable {s t : State} {p : Nat}

theorem tensorEntry_of_parts (h : t.parts = s.parts) (q k : Nat) : t.tensorEntry q k = s.tensorEntry q k := by
  unfold State.tensorEntry
  rw [part_of_parts h]

theorem modTensor_tensorEntry_same (i : Nat) (f : TensorEntry → TensorEntry) : (s.modTensor p i f).tensorEntry p i = f (s.tensorEntry p i) := by
  unfold State.tensorEntry State.modTensor
  rw [modPart_part_same]
  exact tab_get_modify_same _ _ _ _

theorem modTensor_tensorEntry_ne {i k : Nat} (f : TensorEntry → TensorEntry) (h : k ≠ i) :
    (s.modTensor p i f).tensorEntry p k = s.tensorEntry p k := by
  unfold State.tensorEntry State.modTensor
  rw [modPart_part_same]
  exact tab_get_modify_ne _ _ _ _ _ h

theorem toHost_tensorStatus (os : List Output) (x : Tensor) : (s.toHost os).tensorStatus p x = s.tensorStatus p x := by
  unfold State.toHost
  split <;> rfl

theorem popFetched_tensorStatus (fn r : Nat) (x : Tensor) : (s.popFetched fn r).tensorStatus p x = s.tensorStatus p x := rfl

theorem tensorHead_queueHead {fn : FnId} {r : RingId} {typ : Nat} {d : Line} (h : s.tensorHead fn r typ = some d) :
    s.queueHead (.ring fn r) = some d := by
  unfold State.tensorHead at h
  split at h
  · next x hx =>
    rw [hx]
    split at h
    · exact h
    · cases h
  · cases h

theorem tensorAnswer_only (fn : FnId) (r : RingId) (typ status id detail : Nat) :
    Only [.out, .unsent, .fns, .buckets] t (t.tensorAnswer fn r typ status id detail) :=
  only_tensorAnswer (within_refl _) fn r typ status id detail (only_refl _ t)

theorem tensorAnswer_parts (fn : FnId) (r : RingId) (typ status id detail : Nat) : (t.tensorAnswer fn r typ status id detail).parts = t.parts :=
  (tensorAnswer_only _ _ _ _ _ _).same .parts (by simp)

theorem popFetched_only (fn r : Nat) : Only [.fns] s (s.popFetched fn r) := only_popFetched (within_refl _) fn r (only_refl _ s)

/-! #### TENSOR_CREATE -/

variable {fn : FnId} {r : RingId} {d : Line}

/-- The create's form is right and its entry is free. -/
def CreateGood (s : State) (p : Nat) (d : Line) : Prop :=
  lineNat d 2 2 < 4096 ∧ lineNat d 1 1 = 0 ∧ lineNat d 4 4 = 0 ∧ lineNat d 16 48 = 0 ∧ lineNat d 8 8 % 64 = 0 ∧
    (s.tensorEntry p (lineNat d 2 2)).tensor = none

/-- The create's descriptor is being read from the host. -/
def createRead (s : State) (fn : FnId) (r : RingId) (d : Line) : State := (s.popFetched fn r).hostRead fn (lineNat d 8 8) 64

/-- The tensor that a descriptor creates. -/
def tensorOf (s : State) (p : Nat) (l : Line) : Tensor := { desc := l, group := s.partReg p (0x300 + 8 * tGroup l), destroying := none }

/-- The entry holds the tensor. -/
def tensorFilled (s : State) (fn : FnId) (r : RingId) (d l : Line) : State :=
  (createRead s fn r d).modTensor (fn.val - 1) (lineNat d 2 2) (fun y => { y with tensor := some (tensorOf s (fn.val - 1) l) })

theorem createRead_only : Only [.out, .unsent, .fns] s (createRead s fn r d) :=
  only_hostRead (within_sub (by decide) (within_refl _)) _ _ _ (only_popFetched (within_sub (by decide) (within_refl _)) _ _ (only_refl _ s))

theorem createRead_tensorStatus (x : Tensor) : (createRead s fn r d).tensorStatus p x = s.tensorStatus p x :=
  (toHost_tensorStatus _ x).trans (popFetched_tensorStatus fn r x)

theorem createRead_tensorOf (l : Line) : tensorOf (createRead s fn r d) p l = tensorOf s p l := by
  unfold tensorOf State.partReg State.reg
  rw [createRead_only.same .regs (by simp)]

/-- What a create of a good form comes to once its descriptor has been read. -/
theorem exec_tensorCreate (hh : s.tensorHead fn r 0x20 = some d) (hg : CreateGood s (fn.val - 1) d) :
    (∀ l, s.tensorStatus (fn.val - 1) (tensorOf s (fn.val - 1) l) = 0 → exec (.tensorCreate fn r (some l)) s = .next
      ((tensorFilled s fn r d l).tensorAnswer fn r 0x20 0 (lineNat d 2 2)
        (handleOf (fn.val - 1) (lineNat d 2 2) ((tensorFilled s fn r d l).tensorEntry (fn.val - 1) (lineNat d 2 2)).generation).toNat)) ∧
    (∀ l, s.tensorStatus (fn.val - 1) (tensorOf s (fn.val - 1) l) ≠ 0 → exec (.tensorCreate fn r (some l)) s = .next
      ((createRead s fn r d).tensorAnswer fn r 0x20 (s.tensorStatus (fn.val - 1) (tensorOf s (fn.val - 1) l)) (lineNat d 2 2) 0)) ∧
    exec (.tensorCreate fn r none) s = .next (((createRead s fn r d).journal (fn.val - 1) 0x08 (toBytes 1 2 ++ toBytes 7 0)).tensorAnswer
      fn r 0x20 0x35 (lineNat d 2 2) 0) := by
  obtain ⟨hi, h1, h4, h16, h8, hfree⟩ := hg
  have form : ¬ (4096 ≤ lineNat d 2 2 ∨ lineNat d 1 1 ≠ 0 ∨ lineNat d 4 4 ≠ 0 ∨ lineNat d 16 48 ≠ 0 ∨ lineNat d 8 8 % 64 ≠ 0 ∨
      ((s.popFetched fn.val r.val).tensorEntry (fn.val - 1) (lineNat d 2 2)).tensor.isSome = true) := by
    have entry : (s.popFetched fn.val r.val).tensorEntry (fn.val - 1) (lineNat d 2 2) = s.tensorEntry (fn.val - 1) (lineNat d 2 2) := rfl
    rw [entry, hfree]
    rintro (h | h | h | h | h | h)
    · omega
    · exact h h1
    · exact h h4
    · exact h h16
    · exact h h8
    · cases h
  have status (l : Line) : (createRead s fn r d).tensorStatus (fn.val - 1) (tensorOf (createRead s fn r d) (fn.val - 1) l) =
      s.tensorStatus (fn.val - 1) (tensorOf s (fn.val - 1) l) := by rw [createRead_tensorStatus, createRead_tensorOf]
  have run (o : Option Line) : exec (.tensorCreate fn r o) s = .next (match o with
      | none => ((createRead s fn r d).journal (fn.val - 1) 0x08 (toBytes 1 2 ++ toBytes 7 0)).tensorAnswer fn r 0x20 0x35 (lineNat d 2 2) 0
      | some l => match (createRead s fn r d).tensorStatus (fn.val - 1) (tensorOf (createRead s fn r d) (fn.val - 1) l) with
        | e + 1 => (createRead s fn r d).tensorAnswer fn r 0x20 (e + 1) (lineNat d 2 2) 0
        | 0 =>
          let t := (createRead s fn r d).modTensor (fn.val - 1) (lineNat d 2 2)
            (fun y => { y with tensor := some (tensorOf (createRead s fn r d) (fn.val - 1) l) })
          t.tensorAnswer fn r 0x20 0 (lineNat d 2 2) (handleOf (fn.val - 1) (lineNat d 2 2) (t.tensorEntry (fn.val - 1) (lineNat d 2 2)).generation).toNat) := by
    show execTensorCreate fn r o s = _
    unfold execTensorCreate
    rw [hh]
    dsimp only
    rw [if_neg form]
    rfl
  refine ⟨fun l hl => ?_, fun l hl => ?_, run none⟩
  · rw [run]
    dsimp only
    rw [status, hl, createRead_tensorOf]
    rfl
  · rw [run]
    dsimp only
    rw [status]
    obtain ⟨e, he⟩ := Nat.exists_eq_succ_of_ne_zero hl
    rw [he]

theorem exec_tensorCreate_refused {o : Option Line} (hh : s.tensorHead fn r 0x20 = some d) (hg : ¬ CreateGood s (fn.val - 1) d) :
    exec (.tensorCreate fn r o) s = .next ((s.popFetched fn r).tensorAnswer fn r 0x20 0x20 (lineNat d 2 2) 0) := by
  show execTensorCreate fn r o s = _
  unfold execTensorCreate
  rw [hh]
  dsimp only
  rw [if_pos]
  by_contra hc
  push Not at hc
  obtain ⟨hi, h1, h4, h16, h8, hfree⟩ := hc
  exact hg ⟨hi, h1, h4, h16, h8, Option.not_isSome_iff_eq_none.mp hfree⟩

theorem tensorFilled_answered (l : Line) (id detail : Nat) :
    let t := (tensorFilled s fn r d l).tensorAnswer fn r 0x20 0 id detail
    t.tensorEntry (fn.val - 1) (lineNat d 2 2) =
      { s.tensorEntry (fn.val - 1) (lineNat d 2 2) with tensor := some (tensorOf s (fn.val - 1) l) } ∧
    (∀ k, k ≠ lineNat d 2 2 → t.tensorEntry (fn.val - 1) k = s.tensorEntry (fn.val - 1) k) ∧ (∀ k, k ≠ fn.val - 1 → t.part k = s.part k) ∧
    t.mem = s.mem ∧ t.regs = s.regs := by
  have read := createRead_only (s := s) (fn := fn) (r := r) (d := d)
  have answered := tensorAnswer_only (t := tensorFilled s fn r d l) fn r 0x20 0 id detail
  have parts := tensorAnswer_parts (t := tensorFilled s fn r d l) fn r 0x20 0 id detail
  refine ⟨?_, fun k hk => ?_, fun k hk => ?_, ?_, ?_⟩
  · rw [tensorEntry_of_parts parts]
    unfold tensorFilled
    rw [modTensor_tensorEntry_same, tensorEntry_of_parts (read.same .parts (by simp))]
  · rw [tensorEntry_of_parts parts]
    unfold tensorFilled
    rw [modTensor_tensorEntry_ne _ hk, tensorEntry_of_parts (read.same .parts (by simp))]
  · rw [part_of_parts parts]
    unfold tensorFilled State.modTensor
    rw [modPart_part_ne _ _ _ _ hk, part_of_parts (read.same .parts (by simp))]
  · exact (answered.same .mem (by simp)).trans (read.same .mem (by simp))
  · exact (answered.same .regs (by simp)).trans (read.same .regs (by simp))

/-! #### TENSOR_DESTROY and its completion -/

/-- The destroy's form is right. -/
def DestroyGood (d : Line) : Prop := lineNat d 2 2 < 4096 ∧ lineNat d 1 1 = 0 ∧ lineNat d 4 60 = 0

/-- The tensor is being destroyed. -/
def tensorDoomed (s : State) (fn : FnId) (r : RingId) (i : Nat) (x : Tensor) : State :=
  (s.popFetched fn r).modTensor (fn.val - 1) i (fun y => { y with tensor := some { x with destroying := some (fn.val, r.val, s.time.now) } })

/-- A destroy of a good form. -/
def destroyed (s : State) (fn : FnId) (r : RingId) (i : Nat) : Option Tensor → State
  | none => (s.popFetched fn r).tensorAnswer fn r 0x21 0x30 i 0
  | some x => if x.destroying.isSome then (s.popFetched fn r).tensorAnswer fn r 0x21 0x30 i 0 else tensorDoomed s fn r i x

theorem exec_tensorDestroy (hh : s.tensorHead fn r 0x21 = some d) (hg : DestroyGood d) :
    exec (.tensorDestroy fn r) s = .next (destroyed s fn r (lineNat d 2 2) (s.tensorEntry (fn.val - 1) (lineNat d 2 2)).tensor) := by
  obtain ⟨hi, h1, h4⟩ := hg
  show execTensorDestroy fn r s = _
  unfold execTensorDestroy
  rw [hh]
  dsimp only
  rw [if_neg (by simp only [h1, h4]; omega)]
  rfl

theorem exec_tensorDestroy_refused (hh : s.tensorHead fn r 0x21 = some d) (hg : ¬ DestroyGood d) :
    exec (.tensorDestroy fn r) s = .next ((s.popFetched fn r).tensorAnswer fn r 0x21 0x20 (lineNat d 2 2) 0) := by
  show execTensorDestroy fn r s = _
  unfold execTensorDestroy
  rw [hh]
  dsimp only
  rw [if_pos]
  by_contra hc
  push Not at hc
  exact hg hc

/-- A tensor that is being destroyed answers no handle (10 R287). -/
theorem tensorDoomed_stale {i : Nat} {x : Tensor} {h : W32} (hi : fld h 11 0 = i) : (tensorDoomed s fn r i x).tensorAt (fn.val - 1) h = none := by
  have entry : (tensorDoomed s fn r i x).tensorEntry (fn.val - 1) i =
      { s.tensorEntry (fn.val - 1) i with tensor := some { x with destroying := some (fn.val, r.val, s.time.now) } } :=
    modTensor_tensorEntry_same _ _
  unfold State.tensorAt
  rw [hi, entry]
  dsimp only
  split <;> rfl

/-- The entry is free, with the next generation. -/
def tensorFreed (s : State) (p i : Nat) : State :=
  s.modTensor p i (fun y => { generation := (y.generation + 1) % 4096, tensor := none })

theorem exec_tensorDestroyComplete {p : PartId} {i : Fin 4096} {x : Tensor} {w : Nat × Nat × W64} (hx : (s.tensorEntry p i).tensor = some x)
    (hw : x.destroying = some w) (hf : s.handleInUse (handleOf p i (s.tensorEntry p i).generation) = false) :
    exec (.tensorDestroyComplete p i) s = .next ((tensorFreed s p i).copyAnswer w.1 w.2.1 0x21 0 i 0 0 w.2.2.toNat []) := by
  show execTensorDestroyComplete p i s = _
  unfold execTensorDestroyComplete
  dsimp only
  rw [hx]
  dsimp only
  rw [hw]
  dsimp only
  rw [if_neg (by simp [hf])]
  rfl

/-! ### Digest streams (10 R299, R300; 16 R405) -/

theorem stream_congr (h : (t.part p).digests = (s.part p).digests) (k : Nat) : t.stream p k = s.stream p k := by
  unfold State.stream
  rw [h]

theorem setStream_stream_same (n : Nat) (g : Option Digest) : (s.setStream p n g).stream p n = g := by
  unfold State.stream State.setStream
  rw [modPart_part_same]
  exact tab_get_set_same _ _ _ _

theorem setStream_stream_ne {n k : Nat} (g : Option Digest) (h : k ≠ n) : (s.setStream p n g).stream p k = s.stream p k := by
  unfold State.stream State.setStream
  rw [modPart_part_same]
  exact tab_get_set_ne _ _ _ _ _ h

theorem setStream_digestList (n : Nat) (g : Option Digest) : ((s.setStream p n g).part p).digestList = (s.part p).digestList := by
  unfold State.setStream
  rw [modPart_part_same]

/-- The open's form is right. -/
def OpenGood (d : Line) : Prop := lineNat d 2 1 ≤ 15 ∧ lineNat d 3 1 ≤ 4 ∧ lineNat d 1 1 = 0 ∧ lineNat d 4 4 = 0 ∧ lineNat d 12 52 = 0

/-- A stream that has just opened holds no byte. -/
def freshStream (d : Line) : Digest :=
  { kind := lineNat d 3 1, label := BitVec.ofNat 32 (lineNat d 8 4), data := [], failed := false, regions := [], closing := none }

theorem exec_digestOpen (hh : s.tensorHead fn r 0x22 = some d) (hg : OpenGood d) (hb : s.streamBusy (fn.val - 1) (lineNat d 2 1) = false)
    (hc : ∀ g, s.stream (fn.val - 1) (lineNat d 2 1) = some g → g.closing = none) :
    exec (.digestOpen fn r) s = .next (((s.popFetched fn r).setStream (fn.val - 1) (lineNat d 2 1) (some (freshStream d))).tensorAnswer
      fn r 0x22 0 (lineNat d 2 1) 0) := by
  obtain ⟨hn, hk, h1, h4, h12⟩ := hg
  show execDigestOpen fn r s = _
  unfold execDigestOpen
  rw [hh]
  dsimp only
  rw [if_neg, if_neg]
  · rfl
  · rw [hb]
    cases hg : s.stream (fn.val - 1) (lineNat d 2 1) with
    | none => simp
    | some g => simp [hc g hg]
  · rintro (h | h | h | h | h)
    · omega
    · omega
    · exact h h1
    · exact h h4
    · exact h h12

theorem exec_digestOpen_refused (hh : s.tensorHead fn r 0x22 = some d) (hg : ¬ OpenGood d) :
    exec (.digestOpen fn r) s = .next ((s.popFetched fn r).tensorAnswer fn r 0x22 0x20 (lineNat d 2 1) 0) := by
  show execDigestOpen fn r s = _
  unfold execDigestOpen
  rw [hh]
  dsimp only
  rw [if_pos]
  by_contra hc
  push Not at hc
  exact hg hc

/-- The close's form is right. -/
def CloseGood (d : Line) : Prop := lineNat d 2 1 ≤ 15 ∧ lineNat d 1 1 = 0 ∧ lineNat d 3 61 = 0

/-- The close has its turn in the stream's queue, or has left it. -/
def closeTurned (s : State) (fn : FnId) (r : RingId) (waits : Bool) : State :=
  (s.popFetched fn r).modPart (fn.val - 1) (fun x => { x with turns := closeTurn (.ring fn r) waits x.turns })

/-- A close of a good form. -/
def digestClosing (s : State) (fn : FnId) (r : RingId) (n : Nat) : Option Digest → State
  | none => (closeTurned s fn r false).tensorAnswer fn r 0x23 0x39 n 0
  | some g =>
    if g.closing.isSome then (closeTurned s fn r false).tensorAnswer fn r 0x23 0x39 n 0
    else (closeTurned s fn r true).setStream (fn.val - 1) n (some { g with closing := some (fn.val, r.val, s.time.now) })

theorem exec_digestClose (hh : s.tensorHead fn r 0x23 = some d) (hg : CloseGood d) :
    exec (.digestClose fn r) s = .next (digestClosing s fn r (lineNat d 2 1) (s.stream (fn.val - 1) (lineNat d 2 1))) := by
  obtain ⟨hn, h1, h3⟩ := hg
  show execDigestClose fn r s = _
  unfold execDigestClose
  rw [hh]
  dsimp only
  rw [if_neg]
  · rfl
  · rintro (h | h | h)
    · omega
    · exact h h1
    · exact h h3

theorem exec_digestClose_refused (hh : s.tensorHead fn r 0x23 = some d) (hg : ¬ CloseGood d) :
    exec (.digestClose fn r) s = .next ((closeTurned s fn r false).tensorAnswer fn r 0x23 0x20 (lineNat d 2 1) 0) := by
  show execDigestClose fn r s = _
  unfold execDigestClose
  rw [hh]
  dsimp only
  rw [if_pos]
  · rfl
  by_contra hc
  push Not at hc
  exact hg hc

theorem closeTurned_part (waits : Bool) : ((closeTurned s fn r waits).part (fn.val - 1)).digests = (s.part (fn.val - 1)).digests ∧
    ((closeTurned s fn r waits).part (fn.val - 1)).digestList = (s.part (fn.val - 1)).digestList := by
  unfold closeTurned
  rw [modPart_part_same]
  exact ⟨rfl, rfl⟩

/-- A refused close leaves every stream and the digest list. -/
theorem closeRefused_stands (status n : Nat) :
    let t := (closeTurned s fn r false).tensorAnswer fn r 0x23 status n 0
    (∀ k, t.stream (fn.val - 1) k = s.stream (fn.val - 1) k) ∧ (t.part (fn.val - 1)).digestList = (s.part (fn.val - 1)).digestList ∧
      ∃ u : State, t = u.tensorAnswer fn r 0x23 status n 0 := by
  obtain ⟨digests, list⟩ := closeTurned_part (s := s) (fn := fn) (r := r) false
  have part := part_of_parts (tensorAnswer_parts (t := closeTurned s fn r false) fn r 0x23 status n 0) (fn.val - 1)
  dsimp only
  refine ⟨fun k => stream_congr ?_ k, ?_, _, rfl⟩
  · rw [part, digests]
  · rw [part, list]

/-- The stream is gone, and its closing turn with it. -/
def streamGone (s : State) (p n : Nat) : State :=
  (s.modPart p (fun x => { x with turns := x.turns.filter (fun e => !(e.stream == n && decide (e.kind = .closing))) })).setStream p n none

/-- The entry of the digest list that a closing stream leaves. -/
def loadDigest (s : State) (n : Nat) (g : Digest) : LoadDigest :=
  { kind := g.kind, label := g.label, stream := n, closedAt := s.time.now, value := sha3 g.data, regions := g.regions }

/-- The digest has entered the partition's list. -/
def digestListed (s : State) (p n : Nat) (g : Digest) : State :=
  (streamGone s p n).modPart p (fun x => { x with digestList := x.digestList ++ [loadDigest s n g] })

theorem streamGone_part (n : Nat) : ((streamGone s p n).part p).digestList = (s.part p).digestList ∧ (streamGone s p n).stream p n = none ∧
    (∀ k, k ≠ n → (streamGone s p n).stream p k = s.stream p k) := by
  refine ⟨?_, setStream_stream_same _ _, fun k hk => (setStream_stream_ne _ hk).trans (stream_congr ?_ k)⟩
  · refine (setStream_digestList _ _).trans ?_
    rw [modPart_part_same]
  · rw [modPart_part_same]

theorem exec_digestCloseComplete {p : PartId} {n : Fin 16} {g : Digest} {w : Nat × Nat × W64} (hg : s.stream p n = some g)
    (hw : g.closing = some w) (hb : s.streamBusy p n = false) :
    (g.failed = false → (s.part p).digestList.length < 128 → exec (.digestCloseComplete p n) s = .next
      ((digestListed s p n g).copyAnswer w.1 w.2.1 0x23 0 n 0 g.label.toNat w.2.2.toNat (toBytes 32 (sha3 g.data).toNat))) ∧
    (g.failed = true ∨ 128 ≤ (s.part p).digestList.length → ∃ st, exec (.digestCloseComplete p n) s = .next
      ((streamGone s p n).copyAnswer w.1 w.2.1 0x23 st n 0 g.label.toNat w.2.2.toNat [])) := by
  have list := (streamGone_part (s := s) (p := p.val) n.val).1
  have run : exec (.digestCloseComplete p n) s = .next (
      if g.failed then (streamGone s p n).copyAnswer w.1 w.2.1 0x23 0x3A n 0 g.label.toNat w.2.2.toNat []
      else if 128 ≤ ((streamGone s p n).part p).digestList.length then
        (streamGone s p n).copyAnswer w.1 w.2.1 0x23 0x27 n 0 g.label.toNat w.2.2.toNat []
      else (digestListed s p n g).copyAnswer w.1 w.2.1 0x23 0 n 0 g.label.toNat w.2.2.toNat (toBytes 32 (sha3 g.data).toNat)) := by
    show execDigestCloseComplete p n s = _
    unfold execDigestCloseComplete
    rw [hg]
    dsimp only
    rw [hw]
    dsimp only
    rw [if_neg (by simp [hb])]
    rfl
  rw [run, list]
  refine ⟨fun hf hl => ?_, fun h => ?_⟩
  · rw [if_neg (by simp [hf]), if_neg (by omega)]
  · by_cases hf : g.failed = true
    · exact ⟨_, congrArg _ (if_pos hf)⟩
    · have full : 128 ≤ (s.part p).digestList.length := h.resolve_left hf
      rw [if_neg hf, if_pos full]
      exact ⟨_, rfl⟩

theorem copyAnswer_only (fn r typ status id detail detail2 started : Nat) (digest : List Byte) :
    Only [.out, .unsent, .fns, .buckets] t (t.copyAnswer fn r typ status id detail detail2 started digest) :=
  only_copyAnswer (within_refl _) fn r typ status id detail detail2 started digest (only_refl _ t)

end

/-- Settles O31: tensors and digest streams are created, opened, closed and destroyed. -/
theorem tensorsAndDigestStreams : Obligations.TensorsAndDigestStreams := by
  unfold Obligations.TensorsAndDigestStreams
  refine ⟨⟨fun fn r s d l hh => ⟨fun hg hst => ?_, fun hg hst => ?_, fun hg => ?_, fun hg => ?_⟩,
    fun fn r s d hh => ⟨fun hg x hx hd => ?_, fun hg hx => ?_, fun hg => ?_⟩, fun p i s x w hx hw hf => ?_⟩,
    fun fn r s d hh => ⟨fun hg => ?_, fun hg hb hc => ?_⟩, fun fn r s d hh => ⟨fun hg => ?_, fun hg hc => ?_, fun hg g hgs hc => ?_⟩,
    fun p n s g w hg hw hb => ⟨fun hf hl => ?_, fun h => ?_⟩⟩
  · exact completes_next ((exec_tensorCreate hh hg).1 l hst) (tensorFilled_answered l _ _)
  · exact completes_next ((exec_tensorCreate hh hg).2.1 l hst)
      ⟨(tensorAnswer_parts _ _ _ _ _ _).trans (createRead_only.same .parts (by simp)), rfl⟩
  · have journaled := view_at (v := Part.tensors) (view_journal (createRead s fn r d) (fn.val - 1) (fun _ _ => rfl) 0x08 (toBytes 1 2 ++ toBytes 7 0))
      (fn.val - 1)
    refine completes_next (exec_tensorCreate hh hg).2.2 ⟨?_, _, rfl⟩
    rw [part_of_parts (tensorAnswer_parts _ _ _ _ _ _), journaled, part_of_parts (createRead_only.same .parts (by simp))]
  · exact completes_next (exec_tensorCreate_refused hh hg) ⟨tensorAnswer_parts _ _ _ _ _ _, rfl⟩
  · have run := exec_tensorDestroy hh hg
    rw [hx] at run
    refine completes_next (run.trans (congrArg _ (if_neg (by simp [hd])))) ⟨fun h hi => tensorDoomed_stale hi, ?_, fun k hk => ?_, rfl, rfl⟩
    · unfold tensorDoomed
      rw [modTensor_tensorEntry_same]
      rfl
    · exact modTensor_tensorEntry_ne _ hk
  · have run := exec_tensorDestroy hh hg
    have refused : destroyed s fn r (lineNat d 2 2) (s.tensorEntry (fn.val - 1) (lineNat d 2 2)).tensor =
        (s.popFetched fn r).tensorAnswer fn r 0x21 0x30 (lineNat d 2 2) 0 := by
      cases he : (s.tensorEntry (fn.val - 1) (lineNat d 2 2)).tensor with
      | none => rfl
      | some x => exact if_pos (hx x he)
    rw [refused] at run
    exact completes_next run ⟨tensorAnswer_parts _ _ _ _ _ _, rfl⟩
  · exact completes_next (exec_tensorDestroy_refused hh hg) ⟨tensorAnswer_parts _ _ _ _ _ _, rfl⟩
  · have answered := copyAnswer_only (t := tensorFreed s p i) w.1 w.2.1 0x21 0 i 0 0 w.2.2.toNat []
    refine completes_next (exec_tensorDestroyComplete hx hw hf) ⟨?_, fun k hk => ?_, answered.same .mem (by simp), answered.same .regs (by simp)⟩
    · rw [tensorEntry_of_parts (answered.same .parts (by simp))]
      exact modTensor_tensorEntry_same _ _
    · rw [tensorEntry_of_parts (answered.same .parts (by simp))]
      exact modTensor_tensorEntry_ne _ hk
  · exact completes_next (exec_digestOpen_refused hh hg) ⟨tensorAnswer_parts _ _ _ _ _ _, rfl⟩
  · have part := part_of_parts (tensorAnswer_parts (t := (s.popFetched fn r).setStream (fn.val - 1) (lineNat d 2 1) (some (freshStream d)))
      fn r 0x22 0 (lineNat d 2 1) 0) (fn.val - 1)
    have answered := tensorAnswer_only (t := (s.popFetched fn r).setStream (fn.val - 1) (lineNat d 2 1) (some (freshStream d)))
      fn r 0x22 0 (lineNat d 2 1) 0
    refine completes_next (exec_digestOpen hh hg hb hc) ⟨?_, fun k hk => ?_, ?_, answered.same .mem (by simp)⟩
    · exact (stream_congr (congrArg Part.digests part) _).trans (setStream_stream_same _ _)
    · exact (stream_congr (congrArg Part.digests part) _).trans (setStream_stream_ne _ hk)
    · rw [part, setStream_digestList]
      rfl
  · exact completes_next (exec_digestClose_refused hh hg) (closeRefused_stands _ _)
  · have refused : digestClosing s fn r (lineNat d 2 1) (s.stream (fn.val - 1) (lineNat d 2 1)) =
        (closeTurned s fn r false).tensorAnswer fn r 0x23 0x39 (lineNat d 2 1) 0 := by
      cases hs : s.stream (fn.val - 1) (lineNat d 2 1) with
      | none => rfl
      | some g => exact if_pos (hc g hs)
    exact completes_next ((exec_digestClose hh hg).trans (congrArg _ refused)) (closeRefused_stands _ _)
  · have run := exec_digestClose hh hg
    rw [hgs] at run
    obtain ⟨digests, list⟩ := closeTurned_part (s := s) (fn := fn) (r := r) true
    refine completes_next (run.trans (congrArg _ (if_neg (by simp [hc])))) ⟨setStream_stream_same _ _, fun k hk => ?_, ?_, rfl⟩
    · exact (setStream_stream_ne _ hk).trans (stream_congr digests k)
    · exact (setStream_digestList _ _).trans list
  · have run := (exec_digestCloseComplete hg hw hb).1 hf hl
    have answered := copyAnswer_only (t := digestListed s p n g) w.1 w.2.1 0x23 0 n 0 g.label.toNat w.2.2.toNat (toBytes 32 (sha3 g.data).toNat)
    have part := part_of_parts (answered.same .parts (by simp)) p
    obtain ⟨list, gone, others⟩ := streamGone_part (s := s) (p := p.val) n.val
    have listed : ((digestListed s p n g).part p).digests = ((streamGone s p n).part p).digests ∧
        ((digestListed s p n g).part p).digestList = ((streamGone s p n).part p).digestList ++ [loadDigest s n g] := by
      unfold digestListed
      rw [modPart_part_same]
      exact ⟨rfl, rfl⟩
    refine completes_next run ⟨?_, fun k hk => ?_, ?_, answered.same .mem (by simp)⟩
    · exact (stream_congr ((congrArg Part.digests part).trans listed.1) _).trans gone
    · exact (stream_congr ((congrArg Part.digests part).trans listed.1) _).trans (others k hk)
    · rw [part, listed.2, list]
      rfl
  · obtain ⟨st, run⟩ := (exec_digestCloseComplete hg hw hb).2 h
    have answered := copyAnswer_only (t := streamGone s p n) w.1 w.2.1 0x23 st n 0 g.label.toNat w.2.2.toNat []
    have part := part_of_parts (answered.same .parts (by simp)) p
    obtain ⟨list, gone, -⟩ := streamGone_part (s := s) (p := p.val) n.val
    refine completes_next run ⟨(stream_congr (congrArg Part.digests part) _).trans gone, ?_, answered.same .mem (by simp)⟩
    rw [part, list]

end Sys2Proof.Proofs
end

section
/-! PROOF of what records and ring entries leave of the functions (11 R309; 12 R322 to R327) -/

namespace Sys2Proof.Proofs

open Sys2Proof Sys2Proof.Machine Sys2Proof.Laws

/-! ### What records and ring entries leave of the functions (11 R309; 12 R322 to R327)

A record, an entry and a batch notice change the mailbox counts of a function, and of a ring its module index, its reservations, its
backlog and its batch; every view of the functions that shows none of these stands. -/

section

variable {β : Type} (w : Fn → β)

/-- A view of every function. -/
def fnsView (s : State) : Nat → β := fun k => w (s.fn k)

/-- What of a ring neither a record nor an entry touches. -/
def ringCore (x : Ring) : Bool × Bool × Bool × W32 × Byte × Nat × List Nat × List Line :=
  (x.stopped, x.stoppedBit, x.draining, x.driverIndex, x.error, x.fetching, x.stale, x.fetched)

/-- The view shows no mailbox count, and of a ring only its core. -/
structure Steady (w : Fn → β) : Prop where
  records : ∀ x a b c d e f, w { x with lost := a, masked := b, held := c, nextSeq := d, armed := e, msgPending := f } = w x
  rings : ∀ x r g, (∀ y, ringCore (g y) = ringCore y) → w { x with rings := Tab.modify (fun _ => Ring.reset) x.rings r g } = w x

variable {w} {s t : State}

theorem fnsView_at (h : fnsView w t = fnsView w s) (k : Nat) : w (t.fn k) = w (s.fn k) := congrFun h k

theorem fnsView_fns (h : t.fns = s.fns) : fnsView w t = fnsView w s := by
  unfold fnsView State.fn
  rw [h]

theorem fnsView_only {L : List Fld} (h : Only L s t) (hf : Fld.fns ∉ L) : fnsView w t = fnsView w s := fnsView_fns (h.same .fns hf)

theorem fnsView_modFn {n : Nat} {f : Fn → Fn} (h : w (f (s.fn n)) = w (s.fn n)) : fnsView w (s.modFn n f) = fnsView w s := by
  funext k
  unfold fnsView
  by_cases hk : k = n
  · rw [hk, modFn_fn_same, h]
  · rw [modFn_fn_ne _ _ _ _ hk]

theorem fnsView_toHost (os : List Output) : fnsView w (s.toHost os) = fnsView w s :=
  fnsView_only (only_toHost (within_refl _) os (only_refl _ s)) (by simp)

theorem fnsView_hostRecord (fn addr : Nat) (bs : List Byte) : fnsView w (s.hostRecord fn addr bs) = fnsView w s := fnsView_toHost _

theorem fnsView_writeHeads (fn : Nat) : fnsView w (s.writeHeads fn) = fnsView w s := fnsView_hostRecord _ _ _

variable (hw : Steady w)
include hw

theorem fnsView_modRing (fn r : Nat) {g : Ring → Ring} (hg : ∀ y, ringCore (g y) = ringCore y) : fnsView w (s.modRing fn r g) = fnsView w s :=
  fnsView_modFn (hw.rings _ _ _ hg)

theorem fnsView_sendMsix (fn : Nat) : fnsView w (s.sendMsix fn) = fnsView w s := by
  unfold State.sendMsix
  split
  · exact fnsView_modFn (hw.records _ _ _ _ _ _ _)
  · exact fnsView_toHost _

theorem fnsView_announce (fn : Nat) : fnsView w (s.announce fn) = fnsView w s := by
  unfold State.announce
  dsimp only
  split
  · exact (fnsView_sendMsix hw fn).trans ((fnsView_modFn (hw.records _ _ _ _ _ _ _)).trans (fnsView_writeHeads fn))
  · exact fnsView_writeHeads fn

theorem fnsView_putEntry (fn r size : Nat) (bs : List Byte) : fnsView w (s.putEntry fn r size bs) = fnsView w s :=
  (fnsView_modRing hw fn r (fun _ => by rfl)).trans (fnsView_hostRecord _ _ _)

theorem fnsView_putRecord (fn r kind code source flags count time arg : Nat) :
    fnsView w (s.putRecord fn r kind code source flags count time arg) = fnsView w s :=
  (fnsView_announce hw fn).trans ((fnsView_modFn (hw.records _ _ _ _ _ _ _)).trans (fnsView_putEntry hw _ _ _ _))

theorem fnsView_writeSummaries (fn r : Nat) (l : List Held) : fnsView w (s.writeSummaries fn r l) = fnsView w s := by
  induction l generalizing s with
  | nil => rfl
  | cons h l ih =>
    unfold State.writeSummaries
    split
    · rfl
    · split
      · exact ih
      · have taken : fnsView w (s.takeToken h.source) = fnsView w s := fnsView_fns rfl
        exact ih.trans ((fnsView_putRecord hw _ _ _ _ _ _ _ _ _).trans ((fnsView_modFn (hw.records _ _ _ _ _ _ _)).trans taken))

theorem fnsView_hold (fn source code fatal : Nat) (rate full : Bool) : fnsView w (s.hold fn source code fatal rate full) = fnsView w s := by
  refine fnsView_modFn ?_
  dsimp only
  split
  · exact hw.records _ _ _ _ _ _ _
  · split
    · exact hw.records _ _ _ _ _ _ _
    · split
      · exact hw.records _ _ _ _ _ _ _
      · exact hw.records _ _ _ _ _ _ _

theorem fnsView_post (fn block code inst arg : Nat) : fnsView w (s.post fn block code inst arg) = fnsView w s := by
  unfold State.post
  dsimp only
  split
  · exact fnsView_modFn (hw.records _ _ _ _ _ _ _)
  · split
    · exact fnsView_modFn (hw.records _ _ _ _ _ _ _)
    · next r _ =>
      have summed : fnsView w (s.summaries fn r) = fnsView w s := fnsView_writeSummaries hw fn r _
      generalize s.summaries fn r = u at summed ⊢
      refine Eq.trans ?_ summed
      have taken (src : Nat) : fnsView w (u.takeToken src) = fnsView w u := fnsView_fns rfl
      split
      · exact fnsView_hold hw _ _ _ _ _ _
      · split
        · exact (fnsView_hold hw _ _ _ _ _ _).trans (taken _)
        · split
          · exact (fnsView_hold hw _ _ _ _ _ _).trans (taken _)
          · exact (fnsView_putRecord hw _ _ _ _ _ _ _ _ _).trans (taken _)

theorem fnsView_postTo (fns : List Nat) (block code inst arg : Nat) : fnsView w (s.postTo fns block code inst arg) = fnsView w s :=
  foldl_keeps (fnsView w) (fun (t : State) n => t.post n block code inst arg) (fun _ n => fnsView_post hw n _ _ _ _) fns s

theorem fnsView_notifyBatch (fn r : Nat) : fnsView w (s.notifyBatch fn r) = fnsView w s := by
  unfold State.notifyBatch
  split
  · rfl
  · split
    · rfl
    · dsimp only
      split
      · exact fnsView_post hw _ _ _ _ _
      · split
        · exact (fnsView_modRing hw _ _ (fun _ => by rfl)).trans (fnsView_post hw _ _ _ _ _)
        · exact fnsView_post hw _ _ _ _ _

theorem fnsView_putRing (fn r : Nat) (bs : List Byte) : fnsView w (s.putRing fn r bs) = fnsView w s := by
  unfold State.putRing
  split
  · exact fnsView_modRing hw _ _ (fun _ => by rfl)
  · split
    · exact fnsView_modRing hw _ _ (fun _ => by rfl)
    · exact (fnsView_notifyBatch hw _ _).trans ((fnsView_writeHeads _).trans (fnsView_putEntry hw _ _ _ _))

theorem fnsView_journal (p typ : Nat) (body : List Byte) : fnsView w (s.journal p typ body) = fnsView w s := by
  unfold State.journal
  split
  · rfl
  · split
    · rfl
    · dsimp only
      refine (foldl_keeps (fnsView w) _ (fun u e => fnsView_putRing hw _ _ _) _ _).trans (fnsView_fns rfl)

theorem fnsView_flushRing (fn r : Nat) : fnsView w (s.flushRing fn r) = fnsView w s := by
  unfold State.flushRing
  dsimp only
  split
  · rfl
  · refine (fnsView_notifyBatch hw _ _).trans ((fnsView_writeHeads _).trans ?_)
    exact (foldl_keeps (fnsView w) _ (fun (u : State) e => fnsView_putEntry hw _ _ _ _) _ _).trans (fnsView_modRing hw _ _ (fun _ => by rfl))

theorem fnsView_releaseBatches (fn m : Nat) : fnsView w (s.releaseBatches fn m) = fnsView w s :=
  foldl_keeps (fnsView w) _ (fun _ _ => fnsView_modRing hw _ _ (fun _ => by rfl)) _ s

theorem fnsView_armVector (fn m : Nat) (old : W32) : fnsView w (s.armVector fn m old) = fnsView w s := by
  unfold State.armVector
  split
  · rfl
  · dsimp only
    split
    · exact (fnsView_sendMsix hw _).trans ((fnsView_modFn (hw.records _ _ _ _ _ _ _)).trans (fnsView_releaseBatches hw _ _))
    · exact (fnsView_modFn (hw.records _ _ _ _ _ _ _)).trans (fnsView_releaseBatches hw _ _)

end

/-! #### Views that stand -/

/-- A ring of a function, but for its indices of entries, its reservations and its batch. -/
def ringView (r : Nat) (x : Fn) : Bool × Bool × Bool × W32 × Byte × Nat × List Nat × List Line :=
  ringCore (Tab.get (fun _ => Ring.reset) x.rings r)

theorem steady_ringView (r : Nat) : Steady (ringView r) := by
  refine ⟨fun _ _ _ _ _ _ _ => rfl, fun x q g hg => ?_⟩
  unfold ringView
  by_cases h : r = q
  · subst h
    rw [tab_get_modify_same]
    exact hg _
  · rw [tab_get_modify_ne _ _ _ _ _ h]

/-- A function's switches and its polls. -/
def pollView (x : Fn) : BitVec 16 × Bool × Bool × W64 × Nat × Bool :=
  (x.enable, x.unreachable, x.pollOut, x.pollAt, x.pollFails, x.ide)

theorem steady_pollView : Steady pollView := ⟨fun _ _ _ _ _ _ _ => rfl, fun _ _ _ _ => rfl⟩

theorem steady_enable : Steady Fn.enable := ⟨fun _ _ _ _ _ _ _ => rfl, fun _ _ _ _ => rfl⟩

theorem ringView_eq (s : State) (fn r : Nat) : ringView r (s.fn fn) = ringCore (s.ring fn r) := rfl

/-- A post leaves the core of every ring. -/
theorem post_ringCore (s : State) (fn block code inst arg n r : Nat) :
    ringCore ((s.post fn block code inst arg).ring n r) = ringCore (s.ring n r) :=
  fnsView_at (fnsView_post (steady_ringView r) fn block code inst arg) n

end Sys2Proof.Proofs
end

section
/-! PROOF of the host link, letterbox polls and descriptor fetches (11 R301 to R318) -/

namespace Sys2Proof.Proofs

open Sys2Proof Sys2Proof.Machine Sys2Proof.Laws

/-! ### The host link (11 R301, R302) -/

section

variable {s t : State}

/-- The link has trained: the IDE keys are gone and its form is known. -/
def linkTrained (s : State) (width gts : Nat) (flit : Bool) : State :=
  { s.dropIde with module := { s.module with linkDegraded := !(width == 8 && gts == 128 && flit) } }

theorem dropIde_fn (k : Nat) : s.dropIde.fn k = { s.fn k with ide := false } :=
  tab_get_mapVals (fun _ => Fn.reset) (fun x => { x with ide := false }) s.fns k rfl

theorem flushHost_eq : s.flushHost = { s with out := s.out ++ (if s.linkGood then s.unsent else []), unsent := if s.linkGood then [] else s.unsent } := by
  unfold State.flushHost
  cases s.linkGood
  · simp
  · rfl

theorem linkTrained_good (width gts : Nat) (flit : Bool) : (linkTrained s width gts flit).linkGood = (width == 8 && gts == 128 && flit) := by
  show (!!(width == 8 && gts == 128 && flit)) = _
  rw [Bool.not_not]

/-! ### Letterbox polls (11 R312) -/

theorem nextPoll_congr {fn : Nat} (hu : (t.fn fn).unreachable = (s.fn fn).unreachable) (hr : t.regs = s.regs) (ht : t.time = s.time) :
    t.nextPoll fn = s.nextPoll fn := by
  unfold State.nextPoll State.pollInterval State.nowNat State.reg
  rw [hu, hr, ht]

theorem letterbox_congr {fn : Nat} (hr : t.regs = s.regs) : t.letterbox fn = s.letterbox fn := by
  unfold State.letterbox State.reg
  rw [hr]

theorem served_congr {fn : Nat} (hm : t.module = s.module) (hp : t.parts = s.parts) (hi : (t.fn fn).ide = (s.fn fn).ide) :
    t.served fn = s.served fn := by
  unfold State.served State.firmwareUp State.present State.replaying State.part
  rw [hm, hp, hi]

theorem served_linkGood {fn : Nat} (h : s.served fn = true) : s.linkGood = true := by
  unfold State.served State.firmwareUp at h
  unfold State.linkGood
  simp only [Bool.and_eq_true] at h
  exact h.1.1.2

/-- A read of one aligned line is one request. -/
theorem hostReads_line (fn k : Nat) : hostReads fn 64 (64 * k) 64 = [.hostRead fn (64 * k) 64] := by
  have size : readSize (64 * k) 64 = 64 := by
    unfold readSize
    simp
  unfold hostReads
  rw [if_neg (by decide), size]
  rfl

/-- A poll that is due reads the letterbox. -/
def polled (s : State) (fn : Nat) : State :=
  (((s.latch 53).setPoll fn).modFn fn (fun x => { x with pollOut := true })).hostRead fn (s.letterbox fn) 64

theorem poll_due {fn : Nat} (he : (s.fn fn).enable ≠ 0) (ho : (s.fn fn).pollOut = false) (ht : (s.fn fn).pollAt.toNat ≤ s.nowNat)
    (hs : s.served fn = true) (hj : fn ≠ 0 → s.journalRoom (fn - 1) 2 = true) : s.poll fn = polled s fn := by
  unfold State.poll
  dsimp only
  rw [if_neg]
  · rfl
  · rintro (h | h | h | h | ⟨h, h'⟩)
    · exact he h
    · rw [ho] at h
      cases h
    · omega
    · rw [hs] at h
      cases h
    · rw [hj h] at h'
      cases h'

theorem poll_waits {fn : Nat} (h : (s.fn fn).pollOut = true ∨ s.nowNat < (s.fn fn).pollAt.toNat) : s.poll fn = s :=
  if_pos (Or.inr (by rcases h with h | h; exacts [Or.inl h, Or.inr (Or.inl h)]))

theorem polled_only {fn : Nat} : Only [.out, .unsent, .fns, .intr] s (polled s fn) := by
  have hL := within_refl [Fld.out, .unsent, .fns, .intr]
  exact only_hostRead (within_sub (by decide) hL) _ _ _ (only_modFn (within_sub (by decide) hL) _ _
    (only_setPoll (within_sub (by decide) hL) _ (only_latch (within_sub (by decide) hL) _ (only_refl _ s))))

theorem polled_fns {fn : Nat} : (polled s fn).fns = (((s.latch 53).setPoll fn).modFn fn (fun x => { x with pollOut := true })).fns :=
  (only_toHost (within_refl _) _ (only_refl _ _)).same .fns (by simp)

theorem polled_fn_same {fn : Nat} : (polled s fn).fn fn = { s.fn fn with pollOut := true, pollAt := s.nextPoll fn } := by
  unfold State.fn
  rw [polled_fns]
  refine (modFn_fn_same _ fn _).trans ?_
  unfold State.setPoll
  rw [modFn_fn_same]
  rfl

theorem polled_fn_ne {fn k : Nat} (h : k ≠ fn) : (polled s fn).fn k = s.fn k := by
  unfold State.fn
  rw [polled_fns]
  exact (modFn_fn_ne _ fn _ k h).trans (modFn_fn_ne _ fn _ k h)

theorem polled_out {fn : Nat} (good : s.linkGood = true) : (polled s fn).out = s.out ++ [.hostRead fn (s.letterbox fn) 64] := by
  have asked : hostReads fn 64 (s.letterbox fn) 64 = [.hostRead fn (s.letterbox fn) 64] := hostReads_line _ _
  have good' : (((s.latch 53).setPoll fn).modFn fn (fun x => { x with pollOut := true })).linkGood = true := good
  unfold polled State.hostRead
  rw [toHost_out _ _ good', asked]
  rfl

theorem polled_line {fn : Nat} : ((polled s fn).icLine 53).pending = true := by
  have latched : ((s.latch 53).icLine 53).pending = true := by
    unfold State.latch
    rw [modIcLine_icLine_same]
  have intr : (polled s fn).intr = (s.latch 53).intr := (only_toHost (within_refl _) _ (only_refl _ _)).same .intr (by simp)
  unfold State.icLine at *
  rwa [intr]

/-! ### A letterbox read returns (11 R307, R313) -/

/-- A ring's driver index and whether it has stopped. -/
def indexView (r : Nat) (x : Fn) : W32 × Bool :=
  ((Tab.get (fun _ => Ring.reset) x.rings r).driverIndex, (Tab.get (fun _ => Ring.reset) x.rings r).stopped)

theorem steady_indexView (r : Nat) : Steady (indexView r) := by
  refine ⟨fun _ _ _ _ _ _ _ => rfl, fun x q g hg => ?_⟩
  have core := (steady_ringView r).rings x q g hg
  simp only [ringView, ringCore, Prod.mk.injEq] at core
  exact Prod.ext core.2.2.2.1 core.1

theorem stopRing_pollView (fn r code : Nat) : fnsView pollView (s.stopRing fn r code) = fnsView pollView s :=
  (fnsView_post steady_pollView _ _ _ _ _).trans (fnsView_modFn rfl)

theorem takeWord_pollView (fn r : Nat) (x : W32) : fnsView pollView (s.takeWord fn r x) = fnsView pollView s := by
  unfold State.takeWord
  split
  · rfl
  · split
    · exact fnsView_modFn rfl
    · exact stopRing_pollView _ _ _

theorem issueFetch_pollView (fn r : Nat) : fnsView pollView (s.issueFetch fn r) = fnsView pollView s := by
  unfold State.issueFetch
  dsimp only
  split
  · rfl
  · split
    · exact fnsView_modFn rfl
    · exact (fnsView_toHost _).trans (fnsView_modFn rfl)

theorem issueFetch_indexView (fn r k : Nat) : fnsView (indexView k) (s.issueFetch fn r) = fnsView (indexView k) s := by
  have asked (n : Nat) : fnsView (indexView k) (s.modRing fn r (fun x => { x with fetching := n })) = fnsView (indexView k) s := by
    refine fnsView_modFn ?_
    unfold indexView
    by_cases h : k = r
    · subst h
      rw [tab_get_modify_same]
    · rw [tab_get_modify_ne _ _ _ _ _ h]
  unfold State.issueFetch
  dsimp only
  split
  · rfl
  · split
    · exact asked _
    · exact (fnsView_toHost _).trans (asked _)

/-- What a good poll's words do to the rings they name, one after another. -/
theorem takeWords_ring {fn : Nat} {word : Nat → W32} {l : List Nat} (hn : l.Nodup) (good : ∀ r ∈ l, s.ringOn fn r = true →
      (s.ring fn r).stopped = false → indexError (s.driverWritten fn r) (s.ring fn r).driverIndex (word r) (s.ring fn r).moduleIndex
        (s.ringEntries fn r) = 0) (k : Nat) :
    (k ∉ l → (l.foldl (fun u r => u.takeWord fn r (word r)) s).ring fn k = s.ring fn k) ∧
    (k ∈ l → s.ringOn fn k = true → (s.ring fn k).stopped = false →
      (l.foldl (fun u r => u.takeWord fn r (word r)) s).ring fn k = { s.ring fn k with driverIndex := word k }) := by
  induction l generalizing s with
  | nil => exact ⟨fun _ => rfl, fun h => by cases h⟩
  | cons a l ih =>
    obtain ⟨ha, hl⟩ := List.nodup_cons.mp hn
    have on (r : Nat) : (s.takeWord fn a (word a)).ringOn fn r = s.ringOn fn r := by
      have := congrArg Prod.fst (fnsView_at (takeWord_pollView (s := s) fn a (word a)) fn)
      unfold State.ringOn
      exact congrArg (bitAt · r) this
    have regs : (s.takeWord fn a (word a)).regs = s.regs := (only_takeWord (within_refl _) fn a (word a) (only_refl _ s)).same .regs (by simp)
    have other (r : Nat) (h : r ≠ a) : (s.takeWord fn a (word a)).ring fn r = s.ring fn r := by
      unfold State.takeWord
      split
      · rfl
      · next hc =>
        simp only [Bool.or_eq_true, Bool.not_eq_true', not_or, Bool.not_eq_false, Bool.not_eq_true] at hc
        rw [good a List.mem_cons_self hc.1 hc.2]
        exact modRing_ring_ne _ _ _ _ _ _ (Or.inr h)
    have rest := ih hl (s := s.takeWord fn a (word a)) fun r hr hon hst => by
      have hra : r ≠ a := fun h => ha (h ▸ hr)
      rw [on] at hon
      rw [other r hra] at hst ⊢
      unfold State.driverWritten State.ringType State.ringEntries State.ringCfg State.reg
      rw [regs]
      exact good r (List.mem_cons_of_mem _ hr) hon hst
    refine ⟨fun h => ?_, fun h hon hst => ?_⟩
    · obtain ⟨hka, hkl⟩ := not_or.mp (fun e => h (List.mem_cons.mpr e))
      exact (rest.1 hkl).trans (other k hka)
    · by_cases hka : k = a
      · subst hka
        refine (rest.1 ha).trans ?_
        unfold State.takeWord
        rw [if_neg (by simp [hon, hst]), good k List.mem_cons_self hon hst]
        exact modRing_ring_same _ _ _ _
      · rw [List.foldl_cons, rest.2 ((List.mem_cons.mp h).resolve_left hka) (by rw [on, hon]) (by rw [other k hka, hst]), other k hka]

theorem poll_cases (fn : Nat) : s.poll fn = s ∨ s.poll fn = polled s fn := by
  unfold State.poll
  dsimp only
  split
  · exact Or.inl rfl
  · exact Or.inr rfl

/-- A poll leaves the count of failures and the rings' indices. -/
theorem poll_keeps (fn r : Nat) : ((s.poll fn).fn fn).pollFails = (s.fn fn).pollFails ∧
    ((s.poll fn).fn fn).unreachable = (s.fn fn).unreachable ∧ indexView r ((s.poll fn).fn fn) = indexView r (s.fn fn) := by
  rcases poll_cases (s := s) fn with h | h
  · rw [h]
    exact ⟨rfl, rfl, rfl⟩
  · rw [h, polled_fn_same]
    exact ⟨rfl, rfl, rfl⟩

/-! #### A failed poll -/

/-- The failed poll is counted. -/
def pollMissed (s : State) (fn : Nat) : State :=
  (s.modFn fn (fun x => { x with pollOut := false })).modFn fn (fun x =>
    { x with pollFails := (s.fn fn).pollFails + 1, unreachable := x.unreachable || decide (16 ≤ (s.fn fn).pollFails + 1) })

/-- The failed poll is counted, and its retry is due at the next moment. -/
def pollFailed (s : State) (fn : Nat) : State := (pollMissed s fn).setPoll fn

/-- The failed poll is in the journal. -/
def pollNoted (s : State) (fn : Nat) : State :=
  if fn = 0 then pollFailed s fn else (pollFailed s fn).journal (fn - 1) 0x08 (toBytes 1 1 ++ toBytes 7 0)

theorem exec_letterboxReadComplete_failed {fn : FnId} (h : (s.fn fn).pollOut = true ∨ (fn.val ≠ 0 ∧ s.replaying (fn.val - 1) = true)) :
    exec (.letterboxReadComplete fn none) s = .next (if (s.fn fn).pollFails + 1 = 16
      then (pollNoted s fn).post 0 1 3 fn ((s.fn fn).pollFails + 1) else pollNoted s fn) := by
  show execLetterboxReadComplete fn none s = _
  unfold execLetterboxReadComplete
  dsimp only
  rw [if_neg (by rcases h with h | ⟨h, k⟩ <;> simp [h]; simp [k])]
  rfl

theorem pollMissed_fn (fn : Nat) : (pollMissed s fn).fn fn = { s.fn fn with
    pollOut := false, pollFails := (s.fn fn).pollFails + 1,
    unreachable := (s.fn fn).unreachable || decide (16 ≤ (s.fn fn).pollFails + 1) } := by
  have first : (s.modFn fn (fun x => { x with pollOut := false })).fn fn = { s.fn fn with pollOut := false } := modFn_fn_same _ _ _
  refine (modFn_fn_same _ _ _).trans ?_
  rw [first]

theorem pollFailed_fn (fn : Nat) : (pollFailed s fn).fn fn = { (pollMissed s fn).fn fn with pollAt := (pollMissed s fn).nextPoll fn } :=
  modFn_fn_same _ _ _

theorem pollNoted_pollView (fn : Nat) : fnsView pollView (pollNoted s fn) = fnsView pollView (pollFailed s fn) := by
  unfold pollNoted
  split
  · rfl
  · exact fnsView_journal steady_pollView _ _ _

theorem pollNoted_only (fn : Nat) : Only [.out, .unsent, .parts, .fns, .buckets] s (pollNoted s fn) := by
  have hL := within_refl [Fld.out, .unsent, .parts, .fns, .buckets]
  have failed := only_setPoll (within_sub (by decide) hL) fn (only_modFn (within_sub (by decide) hL) fn
    (fun x => { x with pollFails := (s.fn fn).pollFails + 1, unreachable := x.unreachable || decide (16 ≤ (s.fn fn).pollFails + 1) })
    (only_modFn (within_sub (by decide) hL) fn (fun x => { x with pollOut := false }) (only_refl _ s)))
  unfold pollNoted
  split
  · exact failed
  · exact only_journal (within_sub (by decide) hL) _ _ _ failed

theorem failedPoll_facts (fn : Nat) {u : State} (hv : fnsView pollView u = fnsView pollView (pollFailed s fn)) :
    (u.fn fn).pollOut = false ∧ (u.fn fn).pollFails = (s.fn fn).pollFails + 1 ∧
    ((u.fn fn).unreachable = true ↔ (s.fn fn).unreachable = true ∨ 15 ≤ (s.fn fn).pollFails) ∧
    ((u.fn fn).unreachable = (s.fn fn).unreachable → (u.fn fn).pollAt = s.nextPoll fn) := by
  have view := fnsView_at hv fn
  rw [pollFailed_fn, pollMissed_fn] at view
  simp only [pollView, Prod.mk.injEq] at view
  obtain ⟨-, unreachable, out, at', fails, -⟩ := view
  refine ⟨out, fails, ?_, fun h => ?_⟩
  · rw [unreachable]
    simp
  · rw [at']
    refine nextPoll_congr ?_ rfl rfl
    rw [pollMissed_fn]
    exact unreachable.symm.trans h

/-! #### A good poll -/

/-- The good poll ends the count of failures; an unreachable host's polls begin again. -/
def pollGood (s : State) (fn : Nat) : State :=
  let t := (s.modFn fn (fun x => { x with pollOut := false })).modFn fn (fun x => { x with pollFails := 0, unreachable := false })
  if (s.fn fn).unreachable then t.setPoll fn else t

/-- The word that a poll brings of ring r. -/
def pollWord (l : Line) (r : Nat) : W32 := BitVec.ofNat 32 (lineNat l (4 * r) 4)

/-- The rings have taken their words. -/
def wordsTaken (s : State) (fn : Nat) (l : Line) : State :=
  (List.range 16).foldl (fun u r => u.takeWord fn r (pollWord l r)) (pollGood s fn)

/-- The vector is armed as the mailbox stands, what waited for room is written, and fetches are issued. -/
def ringsServed (t : State) (fn : Nat) (m : Option Nat) (old : W32) : State :=
  let t := match m with
    | some m => t.armVector fn m old
    | none => t
  (List.range 16).foldl (fun u r => u.issueFetch fn r) ((List.range 16).foldl (fun u r => u.flushRing fn r) t)

theorem pollGood_only (fn : Nat) : Only [.fns] s (pollGood s fn) := by
  unfold pollGood
  dsimp only
  have begun := only_modFn (within_refl _) fn (fun x => { x with pollFails := 0, unreachable := false })
    (only_modFn (within_refl _) fn (fun x => { x with pollOut := false }) (only_refl _ s))
  split
  · exact only_setPoll (within_refl _) fn begun
  · exact begun

theorem pollGood_mailbox (fn : Nat) : (pollGood s fn).mailbox fn = s.mailbox fn ∧ (∀ r, (pollGood s fn).ring fn r = s.ring fn r) ∧
    (∀ r, (pollGood s fn).ringOn fn r = s.ringOn fn r) := by
  have fields : ((pollGood s fn).fn fn).enable = (s.fn fn).enable ∧ ((pollGood s fn).fn fn).rings = (s.fn fn).rings := by
    unfold pollGood State.setPoll
    dsimp only
    split <;> simp only [modFn_fn_same, and_self]
  have regs : (pollGood s fn).regs = s.regs := (pollGood_only fn).same .regs (by simp)
  refine ⟨?_, fun r => ?_, fun r => ?_⟩
  · unfold State.mailbox State.ringOn State.ringType State.ringCfg State.reg
    rw [fields.1, regs]
  · unfold State.ring
    rw [fields.2]
  · unfold State.ringOn
    rw [fields.1]

/-- The mailbox's driver index before the poll. -/
def mailboxIndex (s : State) (fn : Nat) : W32 :=
  match s.mailbox fn with
  | some m => (s.ring fn m).driverIndex
  | none => 0

theorem exec_letterboxReadComplete {fn : FnId} (h : (s.fn fn).pollOut = true ∨ (fn.val ≠ 0 ∧ s.replaying (fn.val - 1) = true)) {l : Line}
    (hr : (s.part (fn.val - 1)).journal.recording = false) : exec (.letterboxReadComplete fn (some l)) s =
      .next ((ringsServed (wordsTaken s fn l) fn (s.mailbox fn) (mailboxIndex s fn)).poll fn) := by
  have parts : (pollGood s fn).parts = s.parts := (pollGood_only fn.val).same .parts (by simp)
  have unchanged (c : Prop) [Decidable c] : (if c then (pollGood s fn).journal (fn.val - 1) 0x02 (lineBytes l) else pollGood s fn) =
      pollGood s fn := by
    split
    · exact if_pos (by rw [part_of_parts parts, hr]; rfl)
    · rfl
  have run : exec (.letterboxReadComplete fn (some l)) s = .next ((ringsServed ((List.range 16).foldl (fun v r => v.takeWord fn r (pollWord l r))
      (if fn.val ≠ 0 ∧ (List.range 16).any (fun r => s.ringOn fn r && pollWord l r != (s.ring fn r).driverIndex)
        then (pollGood s fn).journal (fn.val - 1) 0x02 (lineBytes l) else pollGood s fn)) fn (s.mailbox fn) (mailboxIndex s fn)).poll fn) := by
    show execLetterboxReadComplete fn (some l) s = _
    unfold execLetterboxReadComplete
    dsimp only
    rw [if_neg (by rcases h with h | ⟨h, k⟩ <;> simp [h]; simp [k])]
    rfl
  rw [run, unchanged]
  rfl

theorem ringsServed_steady {β : Type} {w : Fn → β} (hw : Steady w) (hf : ∀ (u : State) fn r, fnsView w (u.issueFetch fn r) = fnsView w u)
    (fn : Nat) (m : Option Nat) (old : W32) : fnsView w (ringsServed t fn m old) = fnsView w t := by
  have armed : fnsView w (match m with | some m => t.armVector fn m old | none => t) = fnsView w t := by
    cases m with
    | none => rfl
    | some m => exact fnsView_armVector hw fn m old
  unfold ringsServed
  dsimp only
  exact (foldl_keeps (fnsView w) _ (fun u r => hf u fn r) _ _).trans
    ((foldl_keeps (fnsView w) _ (fun u r => fnsView_flushRing hw fn r) _ _).trans armed)

theorem ringsServed_only (fn : Nat) (m : Option Nat) (old : W32) : Only [.out, .unsent, .fns, .buckets] t (ringsServed t fn m old) := by
  have hL := within_refl [Fld.out, .unsent, .fns, .buckets]
  have armed : Only [.out, .unsent, .fns, .buckets] t (match m with | some m => t.armVector fn m old | none => t) := by
    cases m with
    | none => exact only_refl _ t
    | some m => exact only_armVector (within_sub (by decide) hL) fn m old (only_refl _ t)
  exact only_foldl _ (only_foldl _ armed fun u r h => only_flushRing hL fn r h)
    fun u r h => only_issueFetch (within_sub (by decide) hL) fn r h

theorem wordsTaken_only (fn : Nat) (l : Line) : Only [.out, .unsent, .fns, .buckets] s (wordsTaken s fn l) :=
  only_foldl _ (only_widen (by decide) (pollGood_only fn)) fun u r h => only_takeWord (within_refl _) fn r (pollWord l r) h

/-- A poll's rings have been served: nothing but the functions, their records and their reads has changed. -/
def readTaken (s : State) (fn : Nat) (l : Line) : State := ringsServed (wordsTaken s fn l) fn (s.mailbox fn) (mailboxIndex s fn)

theorem readTaken_only (fn : Nat) (l : Line) : Only [.out, .unsent, .fns, .buckets] s (readTaken s fn l) :=
  only_trans (wordsTaken_only fn l) (ringsServed_only fn _ _)

theorem readTaken_pollView (fn : Nat) (l : Line) : pollView ((readTaken s fn l).fn fn) = pollView ((pollGood s fn).fn fn) :=
  (fnsView_at (ringsServed_steady steady_pollView (fun _ _ _ => issueFetch_pollView _ _) fn _ _) fn).trans
    (fnsView_at (foldl_keeps (fnsView pollView) _ (fun u r => takeWord_pollView (s := u) fn r (pollWord l r)) _ _) fn)

theorem pollGood_pollView (fn : Nat) : ∃ at', pollView ((pollGood s fn).fn fn) = ((s.fn fn).enable, false, false, at', 0, (s.fn fn).ide) ∧
    ((s.fn fn).unreachable = false → at' = (s.fn fn).pollAt) := by
  unfold pollGood State.setPoll
  dsimp only
  split
  · next h => exact ⟨_, by rw [modFn_fn_same, modFn_fn_same, modFn_fn_same]; rfl, fun h' => by rw [h] at h'; cases h'⟩
  · exact ⟨_, by rw [modFn_fn_same, modFn_fn_same]; rfl, fun _ => rfl⟩

theorem readTaken_index {fn : Nat} {l : Line} (good : ∀ r, r < 16 → s.ringOn fn r = true → (s.ring fn r).stopped = false →
    indexError (s.driverWritten fn r) (s.ring fn r).driverIndex (pollWord l r) (s.ring fn r).moduleIndex (s.ringEntries fn r) = 0)
    {r : Nat} (hr : r < 16) (hon : s.ringOn fn r = true) (hst : (s.ring fn r).stopped = false) :
    indexView r ((readTaken s fn l).fn fn) = (pollWord l r, false) := by
  obtain ⟨-, rings, on⟩ := pollGood_mailbox (s := s) fn
  have regs : (pollGood s fn).regs = s.regs := (pollGood_only fn).same .regs (by simp)
  have taken := (takeWords_ring (s := pollGood s fn) (fn := fn) (word := pollWord l) (l := List.range 16) List.nodup_range
    (fun k hk hkon hkst => by
      rw [on] at hkon
      rw [rings] at hkst ⊢
      have := good k (List.mem_range.mp hk) hkon hkst
      unfold State.driverWritten State.ringType State.ringEntries State.ringCfg State.reg at this ⊢
      rwa [regs]) r).2 (List.mem_range.mpr hr) (by rw [on, hon]) (by rw [rings, hst])
  have served := fnsView_at (ringsServed_steady (t := wordsTaken s fn l) (steady_indexView r)
    (fun u f k => issueFetch_indexView (s := u) f k r) fn (s.mailbox fn) (mailboxIndex s fn)) fn
  have word : indexView r ((wordsTaken s fn l).fn fn) = (((wordsTaken s fn l).ring fn r).driverIndex, ((wordsTaken s fn l).ring fn r).stopped) := rfl
  have final : (wordsTaken s fn l).ring fn r = { s.ring fn r with driverIndex := pollWord l r } := by
    rw [← rings]
    exact taken
  rw [final] at word
  exact served.trans (word.trans (by rw [hst]))

/-! ### Descriptors arrive (11 R308, R309, R317, R318) -/

theorem reservable_congr {fn c : Nat} (he : (t.fn fn).enable = (s.fn fn).enable) (hr : t.regs = s.regs)
    (hst : (t.ring fn c).stopped = (s.ring fn c).stopped) (hm : (t.ring fn c).moduleIndex = (s.ring fn c).moduleIndex)
    (hd : (t.ring fn c).driverIndex = (s.ring fn c).driverIndex) (hv : (t.ring fn c).reserved = (s.ring fn c).reserved) :
    t.reservable fn c = s.reservable fn c := by
  unfold State.reservable State.ringOn State.ringFree State.unreleased State.ringEntries State.ringCfg State.reg
  rw [he, hr, hst, hm, hd, hv]

/-- The first descriptor's record has its entry, and the descriptor joins its ring. -/
def descriptorTaken (s : State) (fn r : Nat) (d : Line) : State :=
  let t := (s.modRing fn (s.recordRing fn r d) (fun x => { x with reserved := x.reserved + 1 })).modRing fn r
    (fun x => { x with fetched := x.fetched ++ [d], moduleIndex := (s.ring fn r).moduleIndex + 1 })
  if s.ringType fn r = 3 then t.takeTurn (fn - 1) (ringQueue fn r) d else t

theorem takeDescriptors_cons {fn r : Nat} {d : Line} {ds : List Line} (hr : (s.part (fn - 1)).journal.recording = false) :
    s.takeDescriptors fn r (d :: ds) =
      if s.reservable fn (s.recordRing fn r d) then (descriptorTaken s fn r d).takeDescriptors fn r ds else s := by
  have silent (u : State) (typ : Nat) (b : List Byte) (h : u.parts = s.parts) : u.journal (fn - 1) typ b = u :=
    if_pos (by rw [part_of_parts h, hr]; rfl)
  conv_lhs => unfold State.takeDescriptors
  dsimp only
  cases h : s.reservable fn (s.recordRing fn r d)
  · rfl
  · rw [if_neg (by decide), if_pos rfl, silent ((s.modRing fn (s.recordRing fn r d) (fun x => { x with reserved := x.reserved + 1 })).modRing fn r
      (fun x => { x with fetched := x.fetched ++ [d], moduleIndex := (s.ring fn r).moduleIndex + 1 })) _ _ rfl]
    rfl

/-- What a ring shows of the descriptors that came to it. -/
def arrivalView (x : Ring) : List Line × W32 × Nat := (x.fetched, x.moduleIndex, x.fetching)

theorem descriptorTaken_ring (fn r : Nat) (d : Line) : arrivalView ((descriptorTaken s fn r d).ring fn r) =
    ((s.ring fn r).fetched ++ [d], (s.ring fn r).moduleIndex + 1, (s.ring fn r).fetching) := by
  have reserved : arrivalView ((s.modRing fn (s.recordRing fn r d) (fun x => { x with reserved := x.reserved + 1 })).ring fn r) =
      arrivalView (s.ring fn r) := by
    by_cases h : r = s.recordRing fn r d
    · rw [← h, modRing_ring_same]
      rfl
    · rw [modRing_ring_ne _ _ _ _ _ _ (Or.inr h)]
  have ring : (descriptorTaken s fn r d).ring fn r = ((s.modRing fn (s.recordRing fn r d) (fun x => { x with reserved := x.reserved + 1 })).modRing
      fn r (fun x => { x with fetched := x.fetched ++ [d], moduleIndex := (s.ring fn r).moduleIndex + 1 })).ring fn r := by
    unfold descriptorTaken
    dsimp only
    split <;> rfl
  rw [ring, modRing_ring_same]
  simp only [arrivalView, Prod.mk.injEq] at reserved ⊢
  exact ⟨by rw [reserved.1], trivial, reserved.2.2⟩

theorem descriptorTaken_only (fn r : Nat) (d : Line) : Only [.parts, .fns] s (descriptorTaken s fn r d) := by
  have hL := within_refl [Fld.parts, .fns]
  have taken := only_modRing (within_sub (by decide) hL) fn r (fun x => { x with fetched := x.fetched ++ [d], moduleIndex := (s.ring fn r).moduleIndex + 1 })
    (only_modRing (within_sub (by decide) hL) fn (s.recordRing fn r d) (fun x => { x with reserved := x.reserved + 1 }) (only_refl _ s))
  unfold descriptorTaken
  dsimp only
  split
  · exact only_takeTurn (within_sub (by decide) hL) _ _ _ taken
  · exact taken

theorem descriptorTaken_parts {fn r : Nat} {d : Line} (h : s.ringType fn r ≠ 3) : (descriptorTaken s fn r d).parts = s.parts := by
  unfold descriptorTaken
  dsimp only
  rw [if_neg h]
  rfl

theorem descriptorTaken_recording (fn r : Nat) (d : Line) (q : Nat) :
    ((descriptorTaken s fn r d).part q).journal = (s.part q).journal := by
  unfold descriptorTaken
  dsimp only
  split
  · exact view_at (v := Part.journal) (view_modPart _ _ rfl) q
  · rfl

/-- The completion entry of a descriptor that is taken is reserved. -/
theorem descriptorTaken_reserved (fn r : Nat) (d : Line) : ((descriptorTaken s fn r d).ring fn (s.recordRing fn r d)).reserved =
    (s.ring fn (s.recordRing fn r d)).reserved + 1 := by
  have ring : (descriptorTaken s fn r d).ring fn (s.recordRing fn r d) = ((s.modRing fn (s.recordRing fn r d)
      (fun x => { x with reserved := x.reserved + 1 })).modRing fn r (fun x =>
        { x with fetched := x.fetched ++ [d], moduleIndex := (s.ring fn r).moduleIndex + 1 })).ring fn (s.recordRing fn r d) := by
    unfold descriptorTaken
    dsimp only
    split <;> rfl
  rw [ring]
  by_cases h : s.recordRing fn r d = r
  · rw [h, modRing_ring_same, modRing_ring_same]
  · rw [modRing_ring_ne _ _ _ _ _ _ (Or.inr h), modRing_ring_same]

/-- Of the descriptors that arrive, as many join their ring, in order, as have an entry for their record. -/
theorem takeDescriptors_arrive {fn r : Nat} (ds : List Line) (hr : (s.part (fn - 1)).journal.recording = false) :
    (∃ k, k ≤ ds.length ∧ arrivalView ((s.takeDescriptors fn r ds).ring fn r) =
      ((s.ring fn r).fetched ++ ds.take k, (s.ring fn r).moduleIndex + BitVec.ofNat 32 k, (s.ring fn r).fetching)) ∧
    (s.ringType fn r ≠ 3 → (s.takeDescriptors fn r ds).parts = s.parts) := by
  induction ds generalizing s with
  | nil => exact ⟨⟨0, Nat.le_refl _, by simp [State.takeDescriptors, arrivalView]⟩, fun _ => rfl⟩
  | cons d ds ih =>
    rw [takeDescriptors_cons hr]
    split
    · obtain ⟨⟨k, hk, view⟩, parts⟩ := ih (s := descriptorTaken s fn r d) (by rw [descriptorTaken_recording, hr])
      have first := descriptorTaken_ring (s := s) fn r d
      have regs : (descriptorTaken s fn r d).regs = s.regs := (descriptorTaken_only fn r d).same .regs (by simp)
      have type : (descriptorTaken s fn r d).ringType fn r = s.ringType fn r := by
        unfold State.ringType State.ringCfg State.reg
        rw [regs]
      refine ⟨⟨k + 1, by simpa using hk, ?_⟩, fun h => (parts (by rw [type]; exact h)).trans (descriptorTaken_parts h)⟩
      simp only [arrivalView, Prod.mk.injEq] at first view ⊢
      obtain ⟨fetched, index, fetching⟩ := first
      refine ⟨?_, ?_, view.2.2.trans fetching⟩
      · rw [view.1, fetched, List.append_assoc]
        rfl
      · rw [view.2.1, index, BitVec.ofNat_add, add_assoc, add_comm (1 : W32)]
        rfl
    · exact ⟨⟨0, Nat.zero_le _, by simp [arrivalView]⟩, fun _ => rfl⟩

/-- The fetch is out no longer. -/
def fetchReturned (s : State) (fn r : Nat) : State := s.modRing fn r (fun x => { x with fetching := 0 })

theorem exec_descriptorFetchComplete {fn : FnId} {r : RingId} (hs : (s.ring fn r).stale = []) (hf : 0 < (s.ring fn r).fetching)
    (ho : s.ringOn fn r = true) (hst : (s.ring fn r).stopped = false) :
    exec (.descriptorFetchComplete fn r none) s = .next ((fetchReturned s fn r).stopRing fn r 3) ∧
    (∀ ls, exec (.descriptorFetchComplete fn r (some ls)) s =
      .next (((fetchReturned s fn r).takeDescriptors fn r (ls.take (s.ring fn r).fetching)).writeHeads fn)) := by
  refine ⟨?_, fun ls => ?_⟩
  · show execDescriptorFetchComplete fn r none s = _
    unfold execDescriptorFetchComplete
    dsimp only
    rw [if_neg (by simp [hs]), if_neg (by omega), if_neg (by simp [ho, hst])]
    rfl
  · show execDescriptorFetchComplete fn r (some ls) s = _
    unfold execDescriptorFetchComplete
    dsimp only
    rw [if_neg (by simp [hs]), if_neg (by omega), if_neg (by simp [ho, hst])]
    rfl

theorem exec_descriptorFetchComplete_stale {fn : FnId} {r : RingId} {n : Nat} {ns : List Nat} (hs : (s.ring fn r).stale = n :: ns)
    (data : Option (List Line)) : exec (.descriptorFetchComplete fn r data) s = .next (s.modRing fn r (fun x => { x with stale := x.stale.drop 1 })) := by
  show execDescriptorFetchComplete fn r data s = _
  unfold execDescriptorFetchComplete
  dsimp only
  rw [if_pos (by simp [hs])]

theorem fetchReturned_ring (fn r c : Nat) : (fetchReturned s fn r).ring fn c =
    if c = r then { s.ring fn r with fetching := 0 } else s.ring fn c := by
  unfold fetchReturned
  split
  · next h => rw [h, modRing_ring_same]
  · next h => exact modRing_ring_ne _ _ _ _ _ _ (Or.inr h)

theorem fetchReturned_enable (fn r : Nat) : ((fetchReturned s fn r).fn fn).enable = (s.fn fn).enable := by
  unfold fetchReturned State.modRing
  rw [modFn_fn_same]

theorem fetchReturned_recordRing (fn r : Nat) (d : Line) : (fetchReturned s fn r).recordRing fn r d = s.recordRing fn r d := by
  have on (k : Nat) : (fetchReturned s fn r).ringOn fn k = s.ringOn fn k := congrArg (bitAt · k) (fetchReturned_enable fn r)
  unfold State.recordRing State.requestClass
  simp only [on]
  rfl

theorem fetchReturned_reservable (fn r c : Nat) : (fetchReturned s fn r).reservable fn c = s.reservable fn c := by
  have ring := fetchReturned_ring (s := s) fn r c
  refine reservable_congr (fetchReturned_enable fn r) rfl ?_ ?_ ?_ ?_
  all_goals
    rw [ring]
    split
    · next h => rw [h]
    · rfl

theorem fetchReturned_arrival (fn r : Nat) : arrivalView ((fetchReturned s fn r).ring fn r) =
    ((s.ring fn r).fetched, (s.ring fn r).moduleIndex, 0) := by
  rw [fetchReturned_ring, if_pos rfl]
  rfl

/-- Descriptors that a good fetch brings. -/
def descriptorsTaken (s : State) (fn r : Nat) (ls : List Line) : State :=
  (fetchReturned s fn r).takeDescriptors fn r (ls.take (s.ring fn r).fetching)

theorem descriptorsTaken_head {fn r : Nat} {d : Line} {ds : List Line} (hf : 0 < (s.ring fn r).fetching)
    (hr : (s.part (fn - 1)).journal.recording = false) : descriptorsTaken s fn r (d :: ds) =
      if s.reservable fn (s.recordRing fn r d) then
        (descriptorTaken (fetchReturned s fn r) fn r d).takeDescriptors fn r (ds.take ((s.ring fn r).fetching - 1))
      else fetchReturned s fn r := by
  unfold descriptorsTaken
  rw [← Nat.sub_add_cancel hf, List.take_succ_cons, takeDescriptors_cons (s := fetchReturned s fn r) hr, fetchReturned_recordRing, fetchReturned_reservable]
  rfl

theorem writeHeads_fns (fn : Nat) : (t.writeHeads fn).fns = t.fns := (only_writeHeads (within_refl _) fn (only_refl _ t)).same .fns (by simp)

theorem ring_of_fns (h : t.fns = s.fns) (fn k : Nat) : t.ring fn k = s.ring fn k := by
  unfold State.ring State.fn
  rw [h]

theorem descriptorsTaken_one {fn r : Nat} {d : Line} (hf : 0 < (s.ring fn r).fetching) (hr : (s.part (fn - 1)).journal.recording = false)
    (h : s.reservable fn (s.recordRing fn r d) = true) : ((descriptorsTaken s fn r [d]).ring fn (s.recordRing fn r d)).reserved =
      (s.ring fn (s.recordRing fn r d)).reserved + 1 := by
  have ring := fetchReturned_ring (s := s) fn r (s.recordRing fn r d)
  have entry := descriptorTaken_reserved (s := fetchReturned s fn r) fn r d
  rw [fetchReturned_recordRing, ring] at entry
  rw [descriptorsTaken_head hf hr, if_pos h, List.take_nil]
  refine entry.trans ?_
  split
  · next e => rw [e]
  · rfl

/-- What the statement says of the descriptors that arrive. -/
theorem descriptorsTaken_facts {fn r : Nat} (ls : List Line) (hf : 0 < (s.ring fn r).fetching)
    (hr : (s.part (fn - 1)).journal.recording = false) : ∃ k, k ≤ (ls.take (s.ring fn r).fetching).length ∧
      arrivalView ((descriptorsTaken s fn r ls).ring fn r) =
        ((s.ring fn r).fetched ++ ls.take k, (s.ring fn r).moduleIndex + BitVec.ofNat 32 k, 0) ∧
      (∀ d ds, ls = d :: ds → s.reservable fn (s.recordRing fn r d) = true → 0 < k) ∧
      (∀ d ds, ls = d :: ds → s.reservable fn (s.recordRing fn r d) = false → k = 0) := by
  cases ls with
  | nil =>
    refine ⟨0, Nat.zero_le _, ?_, fun _ _ h => (by cases h), fun _ _ h => (by cases h)⟩
    unfold descriptorsTaken
    rw [List.take_nil]
    exact (fetchReturned_arrival fn r).trans (by simp)
  | cons d ds =>
    rw [descriptorsTaken_head hf hr]
    cases h : s.reservable fn (s.recordRing fn r d) with
    | false =>
      refine ⟨0, Nat.zero_le _, (fetchReturned_arrival fn r).trans (by simp), fun e es he => ?_, fun _ _ _ _ => rfl⟩
      cases he
      exact fun k => absurd k (by rw [h]; decide)
    | true =>
      obtain ⟨⟨k, hk, view⟩, -⟩ := takeDescriptors_arrive (s := descriptorTaken (fetchReturned s fn r) fn r d) (fn := fn) (r := r)
        (ds.take ((s.ring fn r).fetching - 1)) (by rw [descriptorTaken_recording]; exact hr)
      have first := descriptorTaken_ring (s := fetchReturned s fn r) fn r d
      have before := fetchReturned_arrival (s := s) fn r
      refine ⟨k + 1, ?_, ?_, fun _ _ _ _ => Nat.succ_pos k, fun e es he => ?_⟩
      · rw [List.length_take] at hk ⊢
        simp only [List.length_cons]
        omega
      · simp only [arrivalView, Prod.mk.injEq] at first before view
        obtain ⟨fetched, index, fetching⟩ := first
        rw [if_pos rfl]
        simp only [arrivalView, Prod.mk.injEq]
        refine ⟨?_, ?_, view.2.2.trans (fetching.trans before.2.2)⟩
        · rw [List.length_take] at hk
          rw [view.1, fetched, before.1, List.append_assoc, List.take_take, Nat.min_eq_left (by omega)]
          rfl
        · rw [view.2.1, index, before.2.1, BitVec.ofNat_add, add_assoc, add_comm (1 : W32)]
          rfl
      · cases he
        exact fun k => absurd k (by rw [h]; decide)

end

/-- Settles O32: the link trains, and polls and descriptors arrive. -/
theorem linkPollsAndFetchesArrive : Obligations.LinkPollsAndFetchesArrive := by
  unfold Obligations.LinkPollsAndFetchesArrive
  refine ⟨fun s => ⟨fun width gts flit => ?_, completes_next rfl rfl, fun fn he ho ht hs hj => ?_, fun fn h => ?_⟩, fun fn s h => ⟨?_, fun l hr good => ?_⟩,
    fun fn r s => ⟨fun n ns data hs => ?_, fun hs hf ho hst => ⟨fun ls hr => ?_, ?_⟩⟩⟩
  · have run : exec (.pcieLinkTrained width gts flit) s = .next ((linkTrained s width gts flit).flushHost.latch 59) := rfl
    rw [flushHost_eq, linkTrained_good] at run
    refine completes_next run ⟨rfl, rfl, ?_, fun k => dropIde_fn k, ?_, fun k hk => ?_, ?_, ?_⟩
    · show (!(width == 8 && gts == 128 && flit)) = false ↔ _
      simp [and_assoc]
    · exact congrArg IcLine.pending (modIcLine_icLine_same _ _ _)
    · exact modIcLine_icLine_ne _ _ _ _ hk
    · show s.out ++ (if width == 8 && gts == 128 && flit then s.unsent else []) =
        s.out ++ (if !(width == 8 && gts == 128 && flit) then [] else s.unsent)
      cases width == 8 && gts == 128 && flit <;> rfl
    · show (if width == 8 && gts == 128 && flit then [] else s.unsent) = if !(width == 8 && gts == 128 && flit) then s.unsent else []
      cases width == 8 && gts == 128 && flit <;> rfl
  · have only := polled_only (s := s) (fn := fn.val)
    exact completes_next (congrArg Host.Outcome.next (poll_due he ho ht hs hj)) ⟨polled_out (served_linkGood hs), polled_fn_same, fun k hk => polled_fn_ne hk,
      polled_line, only.same .mem (by simp), only.same .parts (by simp), only.same .regs (by simp)⟩
  · exact completes_next (congrArg Host.Outcome.next (poll_waits h)) rfl
  · have noted := pollNoted_only (s := s) fn.val
    have view := pollNoted_pollView (s := s) fn.val
    have run := exec_letterboxReadComplete_failed h
    have frame : Only [.out, .unsent, .parts, .fns, .buckets] s (if (s.fn fn).pollFails + 1 = 16
        then (pollNoted s fn).post 0 1 3 fn ((s.fn fn).pollFails + 1) else pollNoted s fn) := by
      split
      · exact only_post (within_sub (by decide) (within_refl _)) _ _ _ _ _ noted
      · exact noted
    have shown : fnsView pollView (if (s.fn fn).pollFails + 1 = 16
        then (pollNoted s fn).post 0 1 3 fn ((s.fn fn).pollFails + 1) else pollNoted s fn) = fnsView pollView (pollFailed s fn) := by
      split
      · exact (fnsView_post steady_pollView _ _ _ _ _).trans view
      · exact view
    obtain ⟨out, fails, unreachable, at'⟩ := failedPoll_facts fn.val shown
    exact completes_next run ⟨out, fails, unreachable, at', frame.same .mem (by simp), frame.same .regs (by simp)⟩
  · have only := readTaken_only (s := s) fn.val l
    obtain ⟨at', good0, same⟩ := pollGood_pollView (s := s) fn.val
    have view := (readTaken_pollView (s := s) fn.val l).trans good0
    have index := fun r hr hon hst => readTaken_index (s := s) (fn := fn.val) (l := l) good (r := r) hr hon hst
    have kept := fun r => poll_keeps (s := readTaken s fn l) fn.val r
    have time : (readTaken s fn l).time = s.time := only.same .time (by simp)
    have now : (readTaken s fn l).nowNat = s.nowNat := by
      unfold State.nowNat
      rw [time]
    have parts : (readTaken s fn l).parts = s.parts := only.same .parts (by simp)
    simp only [pollView, Prod.mk.injEq] at view
    obtain ⟨enable, unreachable, out, due, fails, ide⟩ := view
    refine completes_next (exec_letterboxReadComplete h hr) ⟨(kept 0).1.trans fails, (kept 0).2.1.trans unreachable, fun hu hw => ?_,
      fun hu hd he hv => ?_, fun r hr hon hst => ?_, ?_⟩
    · refine (congrArg (fun t : State => (t.fn fn).pollOut) (poll_waits (s := readTaken s fn l) (Or.inr ?_))).trans out
      rw [now, due, same hu]
      exact hw
    · have served : (readTaken s fn l).served fn = true := (served_congr (only.same .module (by simp)) parts ide).trans hv
      have polls := poll_due (s := readTaken s fn l) (fn := fn) (by rw [enable]; exact he) out (by rw [now, due, same hu]; exact hd) served
        (fun _ => by
          unfold State.journalRoom
          rw [part_of_parts parts, hr]
          rfl)
      refine (congrArg (fun t : State => (t.fn fn).pollOut) polls).trans ?_
      exact congrArg Fn.pollOut (polled_fn_same (s := readTaken s fn l))
    · have := (kept r).2.2.trans (index r hr hon hst)
      simp only [indexView, Prod.mk.injEq] at this
      exact this
    · exact ((only_poll (within_refl _) fn.val (only_refl _ (readTaken s fn l))).same .mem (by simp)).trans (only.same .mem (by simp))
  · refine completes_next (exec_descriptorFetchComplete_stale hs data) ⟨?_, fun k hk => modRing_ring_ne _ _ _ _ _ _ (Or.inr hk), rfl, rfl⟩
    rw [modRing_ring_same, hs]
    rfl
  · obtain ⟨k, hk, view, some', none'⟩ := descriptorsTaken_facts (s := s) (fn := fn.val) (r := r.val) ls hf hr
    have heads := only_writeHeads (within_refl _) fn.val (only_refl _ (descriptorsTaken s fn r ls))
    have rings := fun k => ring_of_fns (writeHeads_fns (t := descriptorsTaken s fn r ls) fn) fn k
    have mem : (descriptorsTaken s fn r ls).mem = s.mem := (only_takeDescriptors (within_refl _) fn.val r.val (ls.take (s.ring fn r).fetching)
      (only_refl _ (fetchReturned s fn r))).same .mem (by simp)
    simp only [arrivalView, Prod.mk.injEq] at view
    obtain ⟨fetched, moduleIndex, fetching⟩ := view
    refine completes_next ((exec_descriptorFetchComplete hs hf ho hst).2 ls) ⟨k, hk, ?_, ?_, ?_, some', ?_, none', ?_, fun h3 => ?_⟩
    · exact (congrArg Ring.fetched (rings r)).trans fetched
    · exact (congrArg Ring.moduleIndex (rings r)).trans moduleIndex
    · exact (congrArg Ring.fetching (rings r)).trans fetching
    · rintro d rfl hres
      exact (congrArg Ring.reserved (rings _)).trans (descriptorsTaken_one hf hr hres)
    · exact (heads.same .mem (by simp)).trans mem
    · exact (heads.same .parts (by simp)).trans
        ((takeDescriptors_arrive (s := fetchReturned s fn r) (fn := fn.val) (r := r.val) (ls.take (s.ring fn r).fetching) hr).2 h3)
  · have stopped := only_stopRing (within_refl _) fn.val r.val 3 (only_refl _ (fetchReturned s fn r))
    have core := post_ringCore ((fetchReturned s fn r).modRing fn r (fun x => { x with stopped := true, stoppedBit := true, error := BitVec.ofNat 8 3 }))
      (if (fetchReturned s fn r).mailbox fn == some r.val then 0 else fn) 1 1 (16 * fn + r) 3 fn r
    rw [modRing_ring_same, fetchReturned_ring, if_pos rfl] at core
    simp only [ringCore, Prod.mk.injEq] at core
    obtain ⟨stop, -, -, -, error, fetching, -, -⟩ := core
    exact completes_next (exec_descriptorFetchComplete hs hf ho hst).1 ⟨stop, error, fetching, stopped.same .mem (by simp), stopped.same .parts (by simp)⟩

end Sys2Proof.Proofs
end

section
/-! PROOF of a ring of function 0 that names the type of a journal ring (11 R317) -/

namespace Sys2Proof.Proofs

open Sys2Proof Sys2Proof.Machine Sys2Proof.Laws

/-! ### A ring of function 0 that names the type of a journal ring (11 R317) -/

/-- Ring 0 of function 0 and ring 0 of function 1 are on and name the type of a journal ring, of sixteen entries, and the journal of
partition 0 records. -/
def journalsDoubled : State :=
  { State.reset with
    module := { Module.reset with electrical := .running, stage := 4, numVfs := 8, vfEnable := true },
    regs := [(0x20108, 7 + 8 * 4), (0x1020108, 7 + 8 * 4)],
    fns := [(0, { Fn.reset with enable := 1 }), (1, { Fn.reset with enable := 1 })],
    parts := [(0, { Part.reset with mode := .ready, journal := { Part.reset.journal with recording := true } })] }

/-- The module index of function 1's ring 0 after a command. -/
def firstIndex : Host.Outcome State Fault Refusal → Option W32
  | .next t => some (t.ring 1 0).moduleIndex
  | _ => none

/-- Disabling function 0's ring writes the record of the journal's end into function 1's. -/
theorem disable_writes_other_function : firstIndex (exec (.ringDisable 0 1) journalsDoubled) = some 1 := by decide +kernel

/-- Refutes O33: the journal's end, which the disabling of a ring of a journal's type writes, goes to the ring of function 1 when the ring
is function 0's. -/
theorem not_ringsAreEnabledDisabledAndStopped : ¬ Obligations.RingsAreEnabledDisabledAndStopped := by
  unfold Obligations.RingsAreEnabledDisabledAndStopped
  intro h
  obtain ⟨-, disable, -⟩ := h 0 0 1 journalsDoubled
  obtain ⟨t, ht, -, -, others, -⟩ := disable (by decide)
  have written := disable_writes_other_function
  have stands : (t.ring 1 0).moduleIndex = (journalsDoubled.ring 1 0).moduleIndex := by
    unfold State.ring
    rw [others 1 (by decide)]
  rw [ht] at written
  simp only [firstIndex, stands] at written
  exact absurd written (by decide)

end Sys2Proof.Proofs
end

section
/-! PROOF of summaries and the buckets of the sources (12 R325, R326) -/

namespace Sys2Proof.Proofs

open Sys2Proof Sys2Proof.Machine Sys2Proof.Laws

/-! ### A record in the mailbox (12 R322, R326) -/

section

variable {s t : State} {fn : Nat}

/-- An announcement changes the vector alone. -/
theorem announce_fn (k : Nat) : ∃ a m, (s.announce fn).fn k = { s.fn k with armed := a, msgPending := m } := by
  have heads : (s.writeHeads fn).fns = s.fns := writeHeads_fns fn
  have same (j : Nat) : (s.writeHeads fn).fn j = s.fn j := by
    unfold State.fn
    rw [heads]
  unfold State.announce State.sendMsix
  dsimp only
  generalize s.writeHeads fn = u at same ⊢
  split
  · split
    · by_cases h : k = fn
      · subst h
        exact ⟨false, true, by rw [modFn_fn_same, modFn_fn_same, same]⟩
      · exact ⟨_, _, by rw [modFn_fn_ne _ _ _ _ h, modFn_fn_ne _ _ _ _ h, same]⟩
    · have sent (v : State) (os : List Output) : (v.toHost os).fn k = v.fn k := by
        unfold State.fn
        rw [(only_toHost (within_refl _) os (only_refl _ v)).same .fns (by simp)]
      rw [sent]
      by_cases h : k = fn
      · subst h
        exact ⟨false, _, by rw [modFn_fn_same, same]⟩
      · exact ⟨_, _, by rw [modFn_fn_ne _ _ _ _ h, same]⟩
  · exact ⟨_, _, same k⟩

theorem toHost_fn (os : List Output) (k : Nat) : (s.toHost os).fn k = s.fn k := by
  unfold State.fn
  rw [(only_toHost (within_refl _) os (only_refl _ s)).same .fns (by simp)]

theorem announce_fn_ne {k : Nat} (h : k ≠ fn) : (s.announce fn).fn k = s.fn k := by
  have heads : (s.writeHeads fn).fn k = s.fn k := toHost_fn _ _
  unfold State.announce State.sendMsix
  dsimp only
  generalize s.writeHeads fn = u at heads ⊢
  split
  · split
    · rw [modFn_fn_ne _ _ _ _ h, modFn_fn_ne _ _ _ _ h, heads]
    · rw [toHost_fn, modFn_fn_ne _ _ _ _ h, heads]
  · exact heads

variable (r kind code source flags count time arg : Nat)

/-- A record takes the mailbox's next entry and the next sequence number. -/
theorem putRecord_facts : let t := s.putRecord fn r kind code source flags count time arg
    (t.fn fn).held = (s.fn fn).held ∧ (t.fn fn).nextSeq = (s.fn fn).nextSeq + 1 ∧
    (t.ring fn r).moduleIndex = (s.ring fn r).moduleIndex + 1 ∧ (∀ k, k ≠ fn → t.fn k = s.fn k) := by
  have recorded (bs : List Byte) (k : Nat) : (s.hostRecord fn (s.ringBase fn r + ((s.ring fn r).moduleIndex.toNat % s.ringEntries fn r) * 32) bs).fn k = s.fn k :=
    toHost_fn _ _
  dsimp only
  unfold State.putRecord
  dsimp only
  generalize recordBytes kind code source flags _ count time arg = bs
  have entry : (s.putEntry fn r 32 bs).fn fn = { s.fn fn with rings := (Tab.modify (fun _ => Ring.reset) (s.fn fn).rings r
      (fun x => { x with moduleIndex := (s.ring fn r).moduleIndex + 1, reserved := x.reserved - 1 })) } := by
    unfold State.putEntry State.modRing
    dsimp only
    rw [modFn_fn_same, recorded]
  have other (k : Nat) (h : k ≠ fn) : (s.putEntry fn r 32 bs).fn k = s.fn k := by
    unfold State.putEntry State.modRing
    dsimp only
    rw [modFn_fn_ne _ _ _ _ h, recorded]
  generalize s.putEntry fn r 32 bs = u at entry other
  obtain ⟨a, m, told⟩ := announce_fn (s := u.modFn fn (fun x => { x with nextSeq := x.nextSeq + 1 })) (fn := fn) fn
  rw [modFn_fn_same, entry] at told
  refine ⟨by rw [told], by rw [told], ?_, fun k h => ?_⟩
  · unfold State.ring
    rw [told, tab_get_modify_same]
    rfl
  · rw [announce_fn_ne h, modFn_fn_ne _ _ _ _ h, other k h]

end

/-! ### The buckets of the sources (12 R325) -/

section

variable {s : State}

theorem takeToken_bucket_same (src : Nat) : (s.takeToken src).bucket src = s.bucket src - 1 := by
  unfold State.takeToken State.bucket
  rw [tab_get_modify_same]
  dsimp only
  omega

theorem takeToken_bucket_ne {src k : Nat} (h : k ≠ src) : (s.takeToken src).bucket k = s.bucket k := by
  unfold State.takeToken State.bucket
  rw [tab_get_modify_ne _ _ _ _ _ h]

theorem bucket_congr {t : State} (h : t.buckets = s.buckets) (k : Nat) : t.bucket k = s.bucket k := by
  unfold State.bucket
  rw [h]

theorem refilled_mono {b x y k : Nat} (h : x ≤ y) : s.refilled b x k ≤ s.refilled b y k := by
  unfold State.refilled
  omega

/-- After a fold that sets each listed key, a key that is listed once reads as what it was set to. -/
theorem tab_get_sets {α β : Type} [DecidableEq β] (d : Nat → β) (key : α → Nat) (g : α → β) (l : List α) (hn : (l.map key).Nodup) (m : Tab β) (k : Nat) :
    (∀ e ∈ l, key e = k → Tab.get d (l.foldl (fun m e => Tab.set d m (key e) (g e)) m) k = g e) ∧
    (k ∉ l.map key → Tab.get d (l.foldl (fun m e => Tab.set d m (key e) (g e)) m) k = Tab.get d m k) := by
  induction l generalizing m with
  | nil => exact ⟨fun e h => (by cases h), fun _ => rfl⟩
  | cons a l ih =>
    rw [List.map_cons, List.nodup_cons] at hn
    obtain ⟨listed, unlisted⟩ := ih hn.2 (Tab.set d m (key a) (g a))
    refine ⟨fun e he hk => ?_, fun h => ?_⟩
    · rcases List.mem_cons.mp he with rfl | he
      · rw [List.foldl_cons, unlisted (hk ▸ hn.1), hk]
        exact tab_get_set_same _ _ _ _
      · exact listed e he hk
    · rw [List.map_cons, List.mem_cons, not_or] at h
      rw [List.foldl_cons, unlisted h.2]
      exact tab_get_set_ne _ _ _ _ _ h.1

theorem tab_get_listed {β : Type} (d : Nat → β) (l : Tab β) (hn : (l.map (·.1)).Nodup) (k : Nat) :
    (∃ e ∈ l, e.1 = k ∧ Tab.get d l k = e.2) ∨ (k ∉ l.map (·.1) ∧ Tab.get d l k = d k) := by
  induction l with
  | nil => exact Or.inr ⟨by simp, rfl⟩
  | cons a l ih =>
    rw [List.map_cons, List.nodup_cons] at hn
    obtain ⟨j, x⟩ := a
    by_cases hk : k = j
    · exact Or.inl ⟨(j, x), List.mem_cons_self, hk.symm, if_pos hk⟩
    · have get : Tab.get d ((j, x) :: l) k = Tab.get d l k := if_neg hk
      rw [get]
      rcases ih hn.2 with ⟨e, he, hek, hv⟩ | ⟨hl, hv⟩
      · exact Or.inl ⟨e, List.mem_cons_of_mem _ he, hek, hv⟩
      · exact Or.inr ⟨by rw [List.map_cons, List.mem_cons, not_or]; exact ⟨hk, hl⟩, hv⟩

/-- The bases of the blocks, refilled. -/
def baseRefilled (s : State) (k : Nat) : Tab Nat :=
  (List.range 16).foldl (fun m b => Tab.set (fun _ => 32) m b (s.refilled b (Tab.get (fun _ => 32) s.buckets.base b) k)) s.buckets.base

/-- How far a source's bucket lies below its block's refilled base. -/
def usedLeft (s : State) (k : Nat) (e : Nat × Nat) : Nat :=
  s.refilled (e.1 / 4096) (Tab.get (fun _ => 32) s.buckets.base (e.1 / 4096)) k -
    s.refilled (e.1 / 4096) (Tab.get (fun _ => 32) s.buckets.base (e.1 / 4096) - e.2) k

/-- How far the sources' buckets lie below, after the refill. -/
def usedRefilled (s : State) (k : Nat) : Tab Nat :=
  s.buckets.used.foldl (fun m e => Tab.set (fun _ => 0) m e.1 (usedLeft s k e)) []

theorem refillBuckets_eq (k : Nat) : s.refillBuckets k = { s with buckets := { base := baseRefilled s k, used := usedRefilled s k } } := rfl

theorem baseRefilled_get {b : Nat} (h : b < 16) (k : Nat) :
    Tab.get (fun _ => 32) (baseRefilled s k) b = s.refilled b (Tab.get (fun _ => 32) s.buckets.base b) k :=
  (tab_get_sets (fun _ => 32) (fun b : Nat => b) (fun b => s.refilled b (Tab.get (fun _ => 32) s.buckets.base b) k) (List.range 16)
    (by rw [List.map_id']; exact List.nodup_range) s.buckets.base b).1 b (List.mem_range.mpr h) rfl

theorem usedRefilled_get (hn : (s.buckets.used.map (·.1)).Nodup) (src k : Nat) : Tab.get (fun _ => 0) (usedRefilled s k) src =
    s.refilled (src / 4096) (Tab.get (fun _ => 32) s.buckets.base (src / 4096)) k - s.refilled (src / 4096) (s.bucket src) k := by
  obtain ⟨listed, unlisted⟩ := tab_get_sets (fun _ => 0) (fun e : Nat × Nat => e.1) (usedLeft s k) s.buckets.used hn [] src
  unfold State.bucket
  rcases tab_get_listed (fun _ => 0) s.buckets.used hn src with ⟨e, he, hk, hv⟩ | ⟨hl, hv⟩
  · rw [hv]
    refine (listed e he hk).trans ?_
    unfold usedLeft
    rw [hk]
  · rw [hv, Nat.sub_zero, Nat.sub_self]
    exact unlisted hl

/-- Each source's bucket gains its block's rate, up to the depth. -/
theorem refillBuckets_bucket (hn : (s.buckets.used.map (·.1)).Nodup) {src : Nat} (hs : src / 4096 < 16) (k : Nat) :
    (s.refillBuckets k).bucket src = s.refilled (src / 4096) (s.bucket src) k := by
  have most : s.refilled (src / 4096) (s.bucket src) k ≤ s.refilled (src / 4096) (Tab.get (fun _ => 32) s.buckets.base (src / 4096)) k :=
    refilled_mono (Nat.sub_le _ _)
  have level : (s.refillBuckets k).bucket src = Tab.get (fun _ => 32) (baseRefilled s k) (src / 4096) - Tab.get (fun _ => 0) (usedRefilled s k) src := by
    unfold State.bucket
    rw [refillBuckets_eq]
  rw [level, baseRefilled_get hs, usedRefilled_get hn]
  omega

/-- The buckets have been refilled for these milliseconds. -/
def bucketsRefilled (s : State) (k : Nat) : State := (s.refillBuckets k).setMark 1 (s.nowNat / 1000000)

theorem bucketsRefilled_stands (k : Nat) : (bucketsRefilled s k).fns = s.fns ∧ (bucketsRefilled s k).mem = s.mem ∧
    (bucketsRefilled s k).regs = s.regs := by
  unfold bucketsRefilled State.setMark
  rw [refillBuckets_eq]
  exact ⟨rfl, rfl, rfl⟩

theorem bucketsRefilled_buckets (k : Nat) : (bucketsRefilled s k).buckets = (s.refillBuckets k).buckets := by
  unfold bucketsRefilled State.setMark
  rfl

theorem exec_eventTokenRefill {k : Nat} (hm : s.mark 1 + k = s.nowNat / 1000000) (hk : 0 < k) :
    exec .eventTokenRefill s = .next (bucketsRefilled s k) := by
  have gap : s.nowNat / 1000000 - (Tab.get (fun _ => 0) s.time.marks 1).toNat = k := by
    unfold State.mark at hm
    omega
  show execEventTokenRefill s = _
  unfold execEventTokenRefill
  dsimp only
  rw [gap, if_neg (by omega)]
  rfl

end

/-! ### SUMMARY_WRITE (12 R326) -/

section

variable {fn : FnId} {s : State} {r : Nat} {h : Held}

/-- The summary's source has given a token, and its count is held no longer. -/
def heldTaken (s : State) (fn : Nat) (h : Held) : State :=
  (s.takeToken h.source).modFn fn (fun x => { x with held := x.held.filter (fun k => k.source != h.source) })

theorem exec_summaryWrite (ho : s.openMailbox fn = some r) (hh : (s.fn fn).held = [h]) :
    (s.mailboxFull fn r = true ∨ s.bucket h.source = 0 → exec (.summaryWrite fn) s = .next s) ∧
    (s.mailboxFull fn r = false → s.bucket h.source ≠ 0 → exec (.summaryWrite fn) s = .next ((heldTaken s fn h).putRecord fn r 2 h.code h.source
      (2 * b2n h.unlocked + 4 * b2n h.full + 8 * b2n h.rate) h.count h.first.toNat h.last.toNat)) := by
  have run : exec (.summaryWrite fn) s = .next (s.writeSummaries fn r [h]) := by
    show execSummaryWrite fn s = _
    unfold execSummaryWrite
    rw [ho]
    dsimp only
    unfold State.summaries
    rw [hh]
  refine ⟨fun hs => ?_, fun hf hb => ?_⟩
  all_goals
    rw [run]
    unfold State.writeSummaries
  · rcases hs with hs | hs
    · rw [if_pos hs]
    · rw [hs, if_pos rfl]
      unfold State.writeSummaries
      rw [ite_self]
  · rw [if_neg (by simp [hf]), if_neg hb]
    rfl

theorem heldTaken_fn (fn : Nat) (hh : (s.fn fn).held = [h]) : (heldTaken s fn h).fn fn = { s.fn fn with held := [] } := by
  refine (modFn_fn_same _ _ _).trans ?_
  show { s.fn fn with held := (s.fn fn).held.filter (fun k => k.source != h.source) } = _
  rw [hh]
  simp

end

/-- Settles O34: summaries are written, and buckets are refilled. -/
theorem summariesAreWrittenAndBucketsRefilled : Obligations.SummariesAreWrittenAndBucketsRefilled := by
  unfold Obligations.SummariesAreWrittenAndBucketsRefilled
  refine ⟨fun fn s r h ho hh => ⟨fun hf hb => ?_, fun hs => completes_next ((exec_summaryWrite ho hh).1 hs) rfl⟩, fun s k hm hk hn => ?_⟩
  · have taken := heldTaken_fn (s := s) fn.val hh
    have frame := only_putRecord (within_refl _) fn.val r 2 h.code h.source (2 * b2n h.unlocked + 4 * b2n h.full + 8 * b2n h.rate) h.count
      h.first.toNat h.last.toNat (only_refl _ (heldTaken s fn h))
    obtain ⟨held, seq, index, others⟩ := putRecord_facts (s := heldTaken s fn h) (fn := fn.val) r 2 h.code h.source
      (2 * b2n h.unlocked + 4 * b2n h.full + 8 * b2n h.rate) h.count h.first.toNat h.last.toNat
    have ring : (heldTaken s fn h).ring fn r = s.ring fn r := by
      unfold State.ring
      rw [taken]
    refine completes_next ((exec_summaryWrite ho hh).2 hf hb) ⟨?_, ?_, fun k hk => ?_, ?_, ?_, fun k hk => ?_, frame.same .mem (by simp),
      frame.same .parts (by simp), frame.same .regs (by simp)⟩
    · rw [held, taken]
    · exact (bucket_congr (frame.same .buckets (by simp)) _).trans (takeToken_bucket_same _)
    · exact (bucket_congr (frame.same .buckets (by simp)) _).trans (takeToken_bucket_ne hk)
    · rw [index, ring]
    · rw [seq, taken]
    · exact (others k hk).trans (modFn_fn_ne _ _ _ _ hk)
  · refine completes_next (exec_eventTokenRefill hm hk) ⟨?_, fun src hs => ?_, bucketsRefilled_stands k⟩
    · have fits : s.nowNat / 1000000 < 2 ^ 64 := Nat.lt_of_le_of_lt (Nat.div_le_self _ _) nowNat_lt
      rw [hm]
      exact (setMark_mark (s := s.refillBuckets k) 1 _ fits).symm
    · have level : (bucketsRefilled s k).bucket src = (s.refillBuckets k).bucket src := bucket_congr (bucketsRefilled_buckets k) src
      rw [level, refillBuckets_bucket hn (by omega)]
      unfold State.refilled
      rfl

end Sys2Proof.Proofs
end

section
/-! PROOF of the event registers and THROTTLE_N (12 R323 to R333) -/

namespace Sys2Proof.Proofs

open Sys2Proof Sys2Proof.Machine Sys2Proof.Laws

/-! ### The event registers (12 R323 to R328) -/

section

variable {s : State} {fn : Nat} {v : W64}

theorem bar0_linkGood (h : s.bar0 fn = true) : s.linkGood = true := by
  unfold State.bar0 at h
  unfold State.linkGood
  simp only [Bool.and_eq_true] at h
  exact h.1.2

theorem setEvtMask_fn : (s.setEvtMask fn v).fn fn = { s.fn fn with
    masked := BitVec.ofNat 32 (satAdd 0xFFFFFFFF (s.fn fn).masked.toNat
      (((s.fn fn).held.filter (fun h => bitAt v (h.source / 4096))).map (fun h => h.count - h.fatal)).sum),
    held := (s.fn fn).held.filterMap (fun h => if bitAt v (h.source / 4096) then h.discard else some h) } := modFn_fn_same _ _ _

theorem discard_some {h k : Held} (hk : h.discard = some k) : k.source = h.source ∧ k.fatal ≠ 0 ∧ k.count = k.fatal := by
  unfold Held.discard at hk
  split at hk
  · cases hk
  · next hf =>
    obtain rfl := Option.some.inj hk
    exact ⟨rfl, hf, rfl⟩

/-- What a mask discards of the counts is of its own blocks. -/
theorem discarded_others (l : List Held) :
    (l.filterMap (fun h => if bitAt v (h.source / 4096) then h.discard else some h)).filter (fun h => !bitAt v (h.source / 4096)) =
      l.filter (fun h => !bitAt v (h.source / 4096)) := by
  induction l with
  | nil => rfl
  | cons h l ih =>
    rw [List.filterMap_cons, List.filter_cons]
    cases hb : bitAt v (h.source / 4096) with
    | false =>
      simp only [Bool.false_eq_true, if_false, Bool.not_false, if_true]
      rw [List.filter_cons, hb, ih]
      rfl
    | true =>
      simp only [if_true, Bool.not_true, Bool.false_eq_true, if_false]
      cases hk : h.discard with
      | none => exact ih
      | some k =>
        dsimp only
        rw [List.filter_cons, (discard_some hk).1, hb, ih]
        rfl

/-- Of the counts of a masked block only those of fatal records stay. -/
theorem discarded_fatal {l : List Held} {k : Held} (hk : k ∈ l.filterMap (fun h => if bitAt v (h.source / 4096) then h.discard else some h))
    (hb : bitAt v (k.source / 4096) = true) : k.fatal ≠ 0 ∧ k.count = k.fatal := by
  obtain ⟨h, -, hh⟩ := List.mem_filterMap.mp hk
  split at hh
  · exact (discard_some hh).2
  · next hc =>
    obtain rfl := Option.some.inj hh
    exact absurd hb hc

/-! ### THROTTLE_N (12 R333) -/

/-- An accepted level has set the throttle as it is and left the rest of the interrupt state but for line 56. -/
theorem setThrottle_intr (b : Bool) : (s.setThrottle b).intr.throttle = b ∧ (s.setThrottle b).intr.accepted = s.intr.accepted ∧
    (s.setThrottle b).intr.lastEdge = s.intr.lastEdge ∧ (s.setThrottle b).intr.throttleFast = s.intr.throttleFast ∧
    s.setThrottle b = { s with intr := (s.setThrottle b).intr } := by
  unfold State.setThrottle
  split
  · next h => exact ⟨h, rfl, rfl, rfl, rfl⟩
  · exact ⟨rfl, rfl, rfl, rfl, rfl⟩

/-- A second assertion edge within 1 ms of the last. -/
def edgeAgain (s : State) : Bool :=
  s.intr.pinLow && (match s.intr.lastAssert with
    | some a => decide (s.nowNat < a.toNat + 1000000)
    | none => false)

/-- The level that the filter let through. -/
def edgeAccepted (s : State) : State :=
  { s with intr := { s.intr with
    accepted := s.intr.pinLow, lastEdge := s.time.now, lastAssert := if s.intr.pinLow then some s.time.now else s.intr.lastAssert,
    throttleFast := s.intr.throttleFast || edgeAgain s,
    edges := if s.intr.throttleFast then s.intr.edges + 1 else if edgeAgain s then 3 else 0 } }

theorem exec_throttleNAccept (hp : s.intr.pinLow ≠ s.intr.accepted) (ht : s.intr.pinSince.toNat + 1000 ≤ s.nowNat) :
    exec .throttleNAccept s = .next ((edgeAccepted s).setThrottle (s.intr.pinLow || (s.intr.throttleFast || edgeAgain s))) := by
  show execThrottleNAccept s = _
  unfold execThrottleNAccept
  dsimp only
  rw [if_neg]
  · rfl
  · rintro (h | h)
    · exact hp h
    · omega

/-- The fast-toggle episode is over. -/
def fastEnded (s : State) : State := ({ s with intr := { s.intr with throttleFast := false, edges := 0 } } : State).setThrottle s.intr.accepted

theorem exec_throttleFastEnd (hf : s.intr.throttleFast = true) (ht : s.intr.lastEdge.toNat + 1000000 ≤ s.nowNat) :
    exec .throttleFastEnd s = .next ((fastEnded s).post 0 9 2 0 s.intr.edges) := by
  show execThrottleFastEnd s = _
  unfold execThrottleFastEnd
  dsimp only
  rw [if_neg]
  · rfl
  · rintro (h | h)
    · rw [hf] at h
      cases h
    · omega

/-- The input is stuck, and the alert pin asserts. -/
def throttleStuck (s : State) : State :=
  { s with intr := { s.intr with throttleStuck := true }, module := { s.module with alert := true } }

theorem exec_throttleNStuck (h : s.intr.throttle = true) (hs : s.intr.throttleStuck = false) (ht : s.intr.since.toNat + 10000000000 ≤ s.nowNat) :
    exec .throttleNStuck s = .next ((throttleStuck s).post 0 9 1 0 ((s.nowNat - s.intr.since.toNat) / 1000000000)) := by
  show execThrottleNStuck s = _
  unfold execThrottleNStuck
  dsimp only
  rw [if_neg]
  · rfl
  · rintro (k | k | k)
    · rw [h] at k
      cases k
    · rw [hs] at k
      cases k
    · omega

theorem exec_throttleStuckClear (hs : s.intr.throttleStuck = true) (h : s.intr.throttle = false) (ht : s.intr.since.toNat + 1000000000 ≤ s.nowNat) :
    exec .throttleStuckClear s = .next { s with intr := { s.intr with throttleStuck := false } } := by
  show execThrottleStuckClear s = _
  unfold execThrottleStuckClear
  dsimp only
  rw [if_neg]
  rintro (k | k | k)
  · rw [hs] at k
    cases k
  · rw [h] at k
    cases k
  · omega

end

/-- Settles O35: the event registers take their writes, and THROTTLE_N is filtered. -/
theorem eventRegistersAndThrottleInput : Obligations.EventRegistersAndThrottleInput := by
  unfold Obligations.EventRegistersAndThrottleInput
  refine ⟨fun fn b v s hb => ⟨?_, fun h0 => ?_, fun h0 => ?_, ?_⟩,
    fun s => ⟨fun high hp => ?_, fun hp ht => ?_, fun hf ht => ?_, fun h hs ht => ?_, fun hs h ht => completes_next (exec_throttleStuckClear hs h ht) rfl⟩⟩
  · have run : exec (.evtMaskWrite fn v) s = .next (s.setEvtMask fn v) := congrArg Host.Outcome.next (if_pos hb)
    have mask := setEvtMask_fn (s := s) (fn := fn.val) (v := v)
    refine completes_next run ⟨rfl, setReg_reg_same _ _ _ _, fun f o h => setReg_reg_ne _ _ _ _ _ _ h, fun k hk => modFn_fn_ne _ _ _ _ hk, ?_, ?_, ?_⟩
    · rw [mask]
      exact discarded_others _
    · rw [mask]
      exact fun h hh => discarded_fatal hh
    · rw [mask]
      dsimp only
      rw [BitVec.toNat_ofNat, Nat.mod_eq_of_lt]
      · rfl
      · exact Nat.lt_of_le_of_lt (Nat.min_le_left _ _) (by decide)
  · have run : exec (.evtRateWrite fn b v) s = .next (s.setEvtRate b v) :=
      congrArg Host.Outcome.next (if_neg (by rw [h0] at hb; simp [h0, hb]))
    exact completes_next run ⟨rfl, setReg_reg_same _ _ _ _, fun f o h => setReg_reg_ne _ _ _ _ _ _ h⟩
  · have run : exec (.clearPulses fn v) s = .next (s.clearPulses v) := congrArg Host.Outcome.next (if_pos ⟨h0, by rw [h0] at hb; exact hb⟩)
    refine completes_next run ?_
    unfold State.clearPulses
    split <;> exact ⟨rfl, rfl⟩
  · have run : exec (.msixUnmask fn) s = .next (s.unmask fn) := congrArg Host.Outcome.next (if_pos hb)
    have same : (s.modFn fn (fun x => { x with vectorMasked := false, msgPending := false })).fn fn =
        { s.fn fn with vectorMasked := false, msgPending := false } := modFn_fn_same _ _ _
    have good : (s.modFn fn (fun x => { x with vectorMasked := false, msgPending := false })).linkGood = true := bar0_linkGood hb
    refine completes_next run ?_
    unfold State.unmask
    dsimp only
    split
    · exact ⟨(toHost_fn _ _).trans same, toHost_out _ _ good, fun k hk => (toHost_fn _ _).trans (modFn_fn_ne _ _ _ _ hk), toHost_mem _ _⟩
    · exact ⟨same, (List.append_nil _).symm, fun k hk => modFn_fn_ne _ _ _ _ hk, rfl⟩
  · have run : exec (.throttleNEdge high) s = .next { s with intr := { s.intr with pinLow := !high, pinSince := s.time.now } } :=
      congrArg Host.Outcome.next (if_neg (by rw [hp]; cases high <;> decide))
    exact completes_next run rfl
  · obtain ⟨throttle, accepted, edge, fast, rest⟩ := setThrottle_intr (s := edgeAccepted s) (s.intr.pinLow || (s.intr.throttleFast || edgeAgain s))
    refine completes_next (exec_throttleNAccept hp ht) ⟨accepted, edge, fun hf hl => ?_, fun a ha hn hl => ?_, rest⟩
    · have once : edgeAgain s = false := by
        unfold edgeAgain
        cases h : s.intr.lastAssert with
        | none => simp
        | some a => simp [hl a h]
      refine ⟨throttle.trans (by simp [hf, once]), fast.trans ?_⟩
      show (s.intr.throttleFast || edgeAgain s) = false
      simp [hf, once]
    · have again : edgeAgain s = true := by
        unfold edgeAgain
        rw [ha]
        simp [hl, hn]
      refine ⟨fast.trans ?_, throttle.trans (by simp [hl])⟩
      show (s.intr.throttleFast || edgeAgain s) = true
      simp [again]
  · have posted := only_post (within_refl _) 0 9 2 0 s.intr.edges (only_refl _ (fastEnded s))
    obtain ⟨throttle, -, -, fast, rest⟩ := setThrottle_intr (s := { s with intr := { s.intr with throttleFast := false, edges := 0 } }) s.intr.accepted
    have intr := posted.same .intr (by simp)
    obtain ⟨mem, parts⟩ : (fastEnded s).mem = s.mem ∧ (fastEnded s).parts = s.parts := by
      unfold fastEnded State.setThrottle
      split <;> exact ⟨rfl, rfl⟩
    exact completes_next (exec_throttleFastEnd hf ht) ⟨(congrArg Intr.throttleFast intr).trans fast, (congrArg Intr.throttle intr).trans throttle,
      (posted.same .mem (by simp)).trans mem, (posted.same .parts (by simp)).trans parts⟩
  · have posted := only_post (within_refl _) 0 9 1 0 ((s.nowNat - s.intr.since.toNat) / 1000000000) (only_refl _ (throttleStuck s))
    have module : ((throttleStuck s).post 0 9 1 0 ((s.nowNat - s.intr.since.toNat) / 1000000000)).module = (throttleStuck s).module :=
      posted.same .module (by simp)
    refine completes_next (exec_throttleNStuck h hs ht) ⟨posted.same .intr (by simp), ?_, posted.same .mem (by simp), posted.same .parts (by simp)⟩
    rw [module]
    rfl

end Sys2Proof.Proofs
end

section
/-! PROOF of delivery and claims of interrupts (12 R331, R332) -/

namespace Sys2Proof.Proofs

open Sys2Proof Sys2Proof.Machine Sys2Proof.Laws

/-! ### Delivery and claims (12 R331, R332) -/

section

variable {s : State} {c : Nat}

/-- What the return of a fast handler leaves: its core is in no fast handler, its line is not active, and all else stands. -/
theorem fastReturns_facts : (s.fastReturns c).core c = { s.core c with inFast := false } ∧
    (∀ k, k ≠ c → (s.fastReturns c).core k = s.core k) ∧
    (∀ k, k ≠ (s.core c).fastLine → (s.fastReturns c).icLine k = s.icLine k) ∧
    (∀ k, ∃ a, (s.fastReturns c).icLine k = { s.icLine k with active := a }) ∧
    s.fastReturns c = { s with intr := (s.fastReturns c).intr } := by
  unfold State.fastReturns
  split
  · refine ⟨by simp, fun k h => by simp [h], fun k h => by simp [h], fun k => ?_, rfl⟩
    by_cases h : k = (s.core c).fastLine
    · subst h
      exact ⟨false, by simp⟩
    · exact ⟨(s.icLine k).active, by simp [h]⟩
  · rename_i h
    have off : (s.core c).inFast = false := by simpa using h
    exact ⟨by rw [← off], fun _ _ => rfl, fun _ _ => rfl, fun k => ⟨(s.icLine k).active, rfl⟩, rfl⟩

/-- What the return of a normal handler leaves: its core is in the code that it interrupted, its line is not active, and all else
stands. -/
theorem normalReturns_facts : (s.normalReturns c).core c = { s.core c with
      inNormal := false
      pc := if (s.core c).inNormal then (s.core c).savedPc else (s.core c).pc
      status := if (s.core c).inNormal then (s.core c).savedStatus else (s.core c).status } ∧
    (∀ k, k ≠ c → (s.normalReturns c).core k = s.core k) ∧
    (∀ k, k ≠ (s.core c).normalLine → (s.normalReturns c).icLine k = s.icLine k) ∧
    (∀ k, ∃ a, (s.normalReturns c).icLine k = { s.icLine k with active := a }) ∧
    s.normalReturns c = { s with intr := (s.normalReturns c).intr } := by
  unfold State.normalReturns
  split
  · rename_i on
    refine ⟨by simp, fun k h => by simp [h], fun k h => by simp [h], fun k => ?_, rfl⟩
    by_cases h : k = (s.core c).normalLine
    · subst h
      exact ⟨false, by simp⟩
    · exact ⟨(s.icLine k).active, by simp [h]⟩
  · rename_i h
    have off : (s.core c).inNormal = false := by simpa using h
    exact ⟨by simp [← off], fun _ _ => rfl, fun _ _ => rfl, fun k => ⟨(s.icLine k).active, rfl⟩, rfl⟩

/-- The line of normal code under way is active no longer. -/
def normalReleased (s : State) (c : Nat) : State :=
  if (s.core c).inNormal then s.modIcLine (s.core c).normalLine (fun l => { l with active := false }) else s

theorem normalReleased_facts : (∀ k, (normalReleased s c).core k = s.core k) ∧
    (∀ k, k ≠ (s.core c).normalLine → (normalReleased s c).icLine k = s.icLine k) ∧
    ((s.core c).inNormal = true → ((normalReleased s c).icLine (s.core c).normalLine).active = false) ∧
    normalReleased s c = { s with intr := (normalReleased s c).intr } := by
  unfold normalReleased
  split
  · exact ⟨fun k => by simp, fun k h => by simp [h], fun _ => by simp, rfl⟩
  · rename_i h
    exact ⟨fun _ => rfl, fun _ _ => rfl, fun on => absurd on h, rfl⟩

end

section

variable {s : State} {c : CoreId} {n : Nat}

theorem exec_fastInterrupt (h : s.nextLine true c = some n) : execFastInterrupt c s = .next
    (((s.fastReturns c).modIcLine n (fun l => { l with pending := false, active := true })).modCore c
      (fun x => { x with inFast := true, fb := Tab.set (fun _ => 0) x.fb 0 (BitVec.ofNat 32 n), fastLine := n, fastSince := s.time.now })) := by
  unfold execFastInterrupt
  rw [h]

theorem exec_normalInterrupt (h : s.nextLine false c = some n) : execNormalInterrupt c s = .next
    ((((s.fastReturns c).normalReturns c).useFree.modIcLine n (fun l => { l with active := true })).modCore c
      (fun x => { x with inNormal := true, normalLine := n, savedPc := x.pc, savedStatus := x.status,
                         pc := BitVec.ofNat 32 ((s.fastReturns c).normalReturns c).freeVal.toNat })) := by
  unfold execNormalInterrupt
  rw [h]

theorem exec_evtIcClaim (h : s.nextLine false c = some n) : execEvtIcClaim c s = .next
    ((((normalReleased s c).modIcLine n (fun l => { l with pending := false, active := true })).modCore c
      (fun k => { k with normalLine := n })).emit (.value (BitVec.ofNat 64 n))) := by
  unfold execEvtIcClaim
  rw [h]
  rfl

theorem exec_evtIcClaim_none (h : s.nextLine false c = none) :
    execEvtIcClaim c s = .next (s.useFree.emit (.value s.freeVal)) := by
  unfold execEvtIcClaim
  rw [h]

theorem exec_fastHandlerOverrun (h : (s.core c).inFast = true) (late : (s.core c).fastSince.toNat + 2000 < s.nowNat) :
    execFastHandlerOverrun c s = .next (({ s with spares := { s.spares with retestCore := some c.val } } : State).wideLoss 1) := by
  unfold execFastHandlerOverrun
  exact congrArg Host.Outcome.next (if_pos ⟨h, late⟩)

end

/-- Settles O36: what the returns of handlers leave, and the one line and the one core that each delivery and claim changes. -/
theorem interruptsAreDeliveredAndClaimed : Obligations.InterruptsAreDeliveredAndClaimed := by
  unfold Obligations.InterruptsAreDeliveredAndClaimed
  intro c s
  refine ⟨fun n h => ?_, fun n h => ?_, fun n h => ?_, fun h => ?_, fun h late => ?_⟩
  · obtain ⟨core, cores, lines, -, rest⟩ := fastReturns_facts (s := s) (c := c)
    refine completes_next (exec_fastInterrupt h) ⟨by simp [core], fun k hk => by simp [core, hk], by simp, by simp, by simp [core], by simp [core],
      by simp [core], by simp, by simp, fun k hn hf => by simp [hn, lines k hf], fun k hk => by simp [hk, cores k hk], ?_⟩
    generalize s.fastReturns c = u at rest ⊢
    rw [rest]
    rfl
  · obtain ⟨core, cores, lines, active, rest⟩ := fastReturns_facts (s := s) (c := c)
    obtain ⟨core', cores', lines', active', rest'⟩ := normalReturns_facts (s := s.fastReturns c) (c := c)
    have free : ((s.fastReturns c).normalReturns c).freeVal = s.freeVal := by
      rw [rest', rest]
      rfl
    have line : ({ ((s.fastReturns c).normalReturns c).icLine n with active := true } : IcLine) = { s.icLine n with active := true } := by
      obtain ⟨a, ha⟩ := active n
      obtain ⟨b, hb⟩ := active' n
      rw [hb, ha]
    have mem : ((s.fastReturns c).normalReturns c).mem = s.mem := by
      rw [rest', rest]
    have regs : ((s.fastReturns c).normalReturns c).regs = s.regs := by
      rw [rest', rest]
    refine completes_next (exec_normalInterrupt h) ⟨by simp [core', core], by simp [core', core], by simp, by simp [core', core], by simp,
      by simp [free], by simpa using line, fun k hn hf hk => ?_, fun k hk => by simp [hk, cores' k hk, cores k hk], mem, regs⟩
    have kept : k ≠ ((s.fastReturns c).core c).normalLine := by rw [core]; exact hk
    simp [hn, lines' k kept, lines k hf]
  · obtain ⟨cores, lines, released, rest⟩ := normalReleased_facts (s := s) (c := c)
    have mem : (normalReleased s c).mem = s.mem := by rw [rest]
    have regs : (normalReleased s c).regs = s.regs := by rw [rest]
    have out : (normalReleased s c).out = s.out := by rw [rest]
    refine completes_next (exec_evtIcClaim h) ⟨?_, by simp, by simp, fun k hn hk => by simp [hn, lines k hk], fun on hn => by simp [hn, released on],
      mem, regs⟩
    exact congrArg (· ++ [Output.value (BitVec.ofNat 64 n)]) out
  · exact completes_next (exec_evtIcClaim_none h) ⟨rfl, rfl, rfl⟩
  · exact completes_next (exec_fastHandlerOverrun h late) rfl

end Sys2Proof.Proofs
end

section
/-! PROOF of the management bus and the input (17, 21) -/

namespace Sys2Proof.Proofs

open Sys2Proof Sys2Proof.Machine Sys2Proof.Laws

/-! ### The management bus (21 R487 to R489) -/

section

variable {s : State} {code n : Nat}

/-- A block read that the target answers sends its bytes alone. -/
theorem smbRead_answered (h : s.smbAnswers code = true) :
    s.smbRead code n = s.blockRead code (toBytes n (s.smbValue code).toNat) := if_pos h

/-- A block read that the target does not answer changes nothing. -/
theorem smbRead_silent (h : s.smbAnswers code = false) : s.smbRead code n = s := if_neg (by simp [h])

/-- The codes that the target answers (R488). -/
theorem smbAnswers_running (h : s.module.electrical = .running) :
    s.smbAnswers code = true ↔ code = 1 ∨ s.module.stage = 4 ∨ s.module.stage = 6 := by
  simp [State.smbAnswers, h]

theorem smbAnswers_stopped (h : s.module.electrical ≠ .running) : s.smbAnswers code = false := by
  simp [State.smbAnswers, h]

theorem exec_alertResponse (alert : s.module.alert = true) (run : s.module.electrical = .running) : execAlertResponse s = .next
    ({ s with module := { s.module with alert := false }, out := s.out ++ [.smbus (toBytes 1 (2 * s.smbAddress))] }) := by
  unfold execAlertResponse
  exact congrArg Host.Outcome.next (if_pos ⟨alert, run⟩)

theorem exec_alertResponse_none (h : s.module.alert = false ∨ s.module.electrical ≠ .running) : execAlertResponse s = .next s := by
  unfold execAlertResponse
  refine congrArg Host.Outcome.next (if_neg fun both => ?_)
  obtain ⟨alert, run⟩ := both
  exact h.elim (fun off => by simp [off] at alert) (fun stopped => stopped run)

end

/-- Settles O54: a read is its answer or nothing; the codes answered are those of R488. -/
theorem managementBusAnswers : Obligations.ManagementBusAnswers := by
  unfold Obligations.ManagementBusAnswers
  intro s answer reads
  have readCompletes {i : Instr} {code n : Nat} (run : exec i s = .next (s.smbRead code n)) :
      (s.smbAnswers code = true → Completes i s (fun t => t = answer code (toBytes n (s.smbValue code).toNat))) ∧
      (s.smbAnswers code = false → Completes i s (fun t => t = s)) :=
    ⟨fun h => completes_next run (smbRead_answered h), fun h => completes_next run (smbRead_silent h)⟩
  refine ⟨fun i code n h => ?_, fun n => readCompletes rfl, fun h => ?_, fun code h => if_pos h, fun h => ?_, fun code => smbAnswers_running,
    fun code => smbAnswers_stopped, fun run alert => completes_next (exec_alertResponse alert run) rfl,
    fun h => completes_next (exec_alertResponse_none h) rfl, fun code => completes_next rfl rfl⟩
  · simp only [reads, List.mem_cons, List.not_mem_nil, or_false, Prod.mk.injEq] at h
    obtain ⟨rfl, rfl, rfl⟩ | ⟨rfl, rfl, rfl⟩ | ⟨rfl, rfl, rfl⟩ | ⟨rfl, rfl, rfl⟩ | ⟨rfl, rfl, rfl⟩ := h <;> exact readCompletes rfl
  · exact completes_next (congrArg Host.Outcome.next (if_neg (by simp [h]))) rfl
  · exact completes_next (congrArg Host.Outcome.next (if_pos h)) rfl

/-! ### The input, insertion and the trip comparators (17 R413, R415, R428; 21 R484) -/

section

variable {s : State} {mv : Nat}

/-- What a module keeps that loses its power: flash, unless an UPDATE was under way (R413). -/
def PowerLost (s t : State) (e : Electrical) : Prop :=
  t.module.electrical = e ∧ t.module.stage = 0 ∧ t.module.booted = false ∧ t.mem = [] ∧
      t.parts = [] ∧ t.clusters = [] ∧ t.quarters = [] ∧ t.stackTab = [] ∧ t.engines = [] ∧ t.copies = [] ∧ t.fns = [] ∧ t.regs = [] ∧
      t.memory = Memory.reset ∧ t.links = Links.reset ∧ t.time = TimeBase.reset ∧ t.spares = Spares.reset ∧ t.sec.slots = [] ∧
      t.unsent = [] ∧ t.sec.nonce = none ∧ t.sec.debugOpen = false ∧ t.sec.library = none ∧ (s.sec.op = none → t.sec.flash = s.sec.flash)

theorem powerLost_bare (e : Electrical) (latched high : Bool) : PowerLost s (s.bare e latched high mv) e := by
  have flash : s.sec.op = none → s.cutFlash = s.sec.flash := fun h => by simp [State.cutFlash, h]
  exact ⟨rfl, rfl, rfl, rfl, rfl, rfl, rfl, rfl, rfl, rfl, rfl, rfl, rfl, rfl, rfl, rfl, rfl, rfl, rfl, rfl, rfl, flash⟩

theorem exec_powerDown (lo : mv < 54000) (e : s.module.electrical ≠ .absent) : execPowerDown mv s = .next (if s.powered then
    s.bare .unpowered false false mv
    else { s with module := { s.module with latched := false, overVolt := false }, power := { s.power with millivolts := mv } }) := by
  unfold execPowerDown
  exact congrArg Host.Outcome.next (if_neg (by simp [e]; omega))

theorem exec_inputFallsBelow70V (e : s.module.electrical = .unpowered) (o : s.module.overVolt = true) (lo : 54000 ≤ mv) (hi : mv < 70000) :
    execInputFallsBelow70V mv s = .next (if s.module.latched then
    { s with module := { s.module with overVolt := false }, power := { s.power with millivolts := mv } } else s.railsUp mv) := by
  unfold execInputFallsBelow70V
  exact congrArg Host.Outcome.next (if_neg (by simp [e, o]; omega))

theorem powerLost_railsUp : PowerLost s (s.railsUp mv) .inReset := by
  have flash : s.sec.op = none → s.cutFlash = s.sec.flash := fun h => by simp [State.cutFlash, h]
  exact ⟨rfl, rfl, rfl, rfl, rfl, rfl, rfl, rfl, rfl, rfl, rfl, rfl, rfl, rfl, rfl, rfl, rfl, rfl, rfl, rfl, rfl, flash⟩

end

/-- Settles O46: each command of the input is its guard and one of two states, rails up or no power. -/
theorem powerFollowsTheInput : Obligations.PowerFollowsTheInput := by
  unfold Obligations.PowerFollowsTheInput
  intro mv s m bare
  have on {i : Instr} {c : Prop} [Decidable c] {t u : State} {Q : State → Prop} (run : exec i s = .next (if c then t else u)) (h : c)
      (hQ : Q t) : Completes i s Q := completes_next (run.trans (congrArg Host.Outcome.next (if_pos h))) hQ
  have off {i : Instr} {c : Prop} [Decidable c] {t u : State} {Q : State → Prop} (run : exec i s = .next (if c then t else u)) (h : ¬ c)
      (hQ : Q u) : Completes i s Q := completes_next (run.trans (congrArg Host.Outcome.next (if_neg h))) hQ
  refine ⟨fun e l o lo hi => ?_, fun h => ?_, fun e st r => ?_, fun h => ?_, fun h => ?_, fun lo e => ⟨fun p => ?_, fun p => ?_⟩, fun hi e => ?_,
    fun h => ?_, fun h => ?_, fun h => ?_, fun site p => ?_, fun h => ?_, fun e o lo hi => ⟨fun l => ?_, fun l => ?_⟩, fun p lo hi => ?_,
    fun site p => ?_, fun e => ?_, ?_⟩
  · exact off (i := .powerUp mv) rfl (by simp [m] at *; grind) ⟨powerLost_railsUp, rfl, rfl, rfl⟩
  · exact on (i := .powerUp mv) rfl (by simpa [m] using h) rfl
  · exact on (i := .powerGoodTimeout) rfl ⟨e, st, r⟩ ⟨powerLost_bare _ _ _, rfl⟩
  · exact off (i := .powerGoodTimeout) rfl (by grind) rfl
  · exact on (i := .powerDown mv) rfl h.symm rfl
  · exact on (i := .powerDown mv) (exec_powerDown lo e) p ⟨powerLost_bare _ _ _, rfl⟩
  · exact off (i := .powerDown mv) (exec_powerDown lo e) (by simp [p]) rfl
  · exact off (i := .inputOvervoltage mv) rfl (by grind) ⟨powerLost_bare _ _ _, rfl, rfl⟩
  · exact on (i := .inputOvervoltage mv) rfl h.symm rfl
  · exact on (i := .inputFallsBelow70V mv) rfl (by simp [m] at *; grind) rfl
  · exact on (i := .inputBandChange mv) rfl (by simpa using h) rfl
  · exact off (i := .tripComparator site) rfl (by simp [p]) rfl
  · exact off (i := .moduleInsert) rfl h rfl
  · exact off (i := .inputFallsBelow70V mv) (exec_inputFallsBelow70V e o lo hi) (by simpa [m] using l) ⟨powerLost_railsUp, rfl⟩
  · exact on (i := .inputFallsBelow70V mv) (exec_inputFallsBelow70V e o lo hi) l rfl
  · exact off (i := .inputBandChange mv) rfl (by simp [p]; omega) rfl
  · exact on (i := .tripComparator site) rfl p ⟨powerLost_bare _ _ _, rfl, rfl⟩
  · exact on (i := .moduleInsert) rfl e ⟨powerLost_bare _ _ _, rfl⟩
  · exact completes_next (i := .moduleRemove) rfl (powerLost_bare _ _ _)

end Sys2Proof.Proofs
end

section
/-! PROOF of error state and line repair (14 R353 to R370) -/

namespace Sys2Proof.Proofs

open Sys2Proof Sys2Proof.Machine Sys2Proof.Laws

/-! ### What a sieve keeps of its own record (14 R365 to R370) -/

/-- The record of the sieves is as it was. -/
def SieveKept (s t : State) : Prop := t.memory.sieve = s.memory.sieve

section

variable {s₀ : State}

theorem sieveKept_only {s t : State} {L : List Fld} (h : Only L s t) (hm : Fld.memory ∉ L) (hs : SieveKept s₀ s) : SieveKept s₀ t :=
  (congrArg Memory.sieve (h.same .memory hm)).trans hs

theorem sieveKept_set_memory {s : State} {m : Memory} (hm : m.sieve = s.memory.sieve) (h : SieveKept s₀ s) :
    SieveKept s₀ { s with memory := m } := hm.trans h

theorem sieveKept_modRound {s : State} (p : Nat) (f : Round → Round) (h : SieveKept s₀ s) : SieveKept s₀ (State.modRound s p f) :=
  sieveKept_only (only_modRound (within_refl _) p f (only_refl _ s)) (by simp) h

theorem sieveKept_setStored {s : State} (pln : Nat) (bs : List Byte) (h : SieveKept s₀ s) : SieveKept s₀ (State.setStored s pln bs) :=
  sieveKept_only (only_setStored (within_refl _) pln bs (only_refl _ s)) (by simp) h

theorem sieveKept_noteRecent {s : State} (key : Nat) (h : SieveKept s₀ s) : SieveKept s₀ (State.noteRecent s key) :=
  sieveKept_only (only_noteRecent (within_refl _) key (only_refl _ s)) (by simp) h

theorem sieveKept_post {s : State} (fn block code inst arg : Nat) (h : SieveKept s₀ s) : SieveKept s₀ (State.post s fn block code inst arg) :=
  sieveKept_only (only_post (within_refl _) fn block code inst arg (only_refl _ s)) (by simp) h

theorem sieveKept_logWear {s : State} (kind unit detail pln : Nat) (h : SieveKept s₀ s) : SieveKept s₀ (State.logWear s kind unit detail pln) :=
  sieveKept_only (only_logWear (within_refl _) kind unit detail pln (only_refl _ s)) (by simp) h

theorem sieveKept_dieTrigger {s : State} (k die : Nat) (h : SieveKept s₀ s) : SieveKept s₀ (State.dieTrigger s k die) :=
  sieveKept_only (only_dieTrigger (within_refl _) k die (only_refl _ s)) (by simp) h

theorem sieveKept_latch {s : State} (n : Nat) (h : SieveKept s₀ s) : SieveKept s₀ (State.latch s n) :=
  sieveKept_only (only_latch (within_refl _) n (only_refl _ s)) (by simp) h

theorem sieveKept_postTo {s : State} (fns : List Nat) (block code inst arg : Nat) (h : SieveKept s₀ s) : SieveKept s₀ (State.postTo s fns block code inst arg) :=
  sieveKept_only (only_postTo (within_refl _) fns block code inst arg (only_refl _ s)) (by simp) h

theorem sieveKept_sendPacket {s : State} (p d typ lines addr : Nat) (payload : List Line) (copy repair : Option Nat) (h : SieveKept s₀ s) :
    SieveKept s₀ (State.sendPacket s p d typ lines addr payload copy repair) :=
  sieveKept_only (only_sendPacket (within_refl _) p d typ lines addr payload copy repair (only_refl _ s)) (by simp) h

theorem sieveKept_hostRead {s : State} (fn addr len : Nat) (h : SieveKept s₀ s) : SieveKept s₀ (State.hostRead s fn addr len) :=
  sieveKept_only (only_hostRead (within_refl _) fn addr len (only_refl _ s)) (by simp) h

theorem sieveKept_modPart {s : State} (p : Nat) (f : Part → Part) (h : SieveKept s₀ s) : SieveKept s₀ (State.modPart s p f) :=
  sieveKept_only (only_modPart (within_refl _) p f (only_refl _ s)) (by simp) h

theorem sieveKept_useFree {s : State} (h : SieveKept s₀ s) : SieveKept s₀ (State.useFree s) :=
  sieveKept_only (only_useFree (within_refl _)  (only_refl _ s)) (by simp) h

theorem sieveKept_modCe {s : State} (c : Nat) (f : Ce → Ce) (h : SieveKept s₀ s) : SieveKept s₀ (State.modCe s c f) := by
  dsimp only [State.modCe]
  repeat' first
    | with_reducible assumption
    | split
    | refine sieveKept_set_memory rfl ?_

theorem sieveKept_corrected {s : State} (pln : Nat) (h : SieveKept s₀ s) : SieveKept s₀ (State.corrected s pln) := by
  dsimp only [State.corrected]
  repeat' first
    | with_reducible assumption
    | with_reducible apply sieveKept_noteRecent
    | with_reducible apply sieveKept_modCe
    | with_reducible apply sieveKept_post
    | with_reducible apply sieveKept_logWear
    | with_reducible apply sieveKept_dieTrigger
    | split

theorem sieveKept_recordError {s : State} (source severity code pln partition : Nat) (h : SieveKept s₀ s) :
    SieveKept s₀ (State.recordError s source severity code pln partition) := by
  dsimp only [State.recordError]
  repeat' first
    | with_reducible assumption
    | split
    | refine sieveKept_set_memory rfl ?_

theorem sieveKept_repairHost {s : State} (pln n : Nat) (c : W64) (h : SieveKept s₀ s) : SieveKept s₀ (State.repairHost s pln n c) := by
  dsimp only [State.repairHost]
  repeat' first
    | with_reducible assumption
    | with_reducible apply sieveKept_hostRead
    | split
    | refine sieveKept_set_memory rfl ?_

theorem sieveKept_queueRepair {s : State} (pln n p : Nat) (h : SieveKept s₀ s) : SieveKept s₀ (State.queueRepair s pln n p) := by
  dsimp only [State.queueRepair]
  repeat' first
    | with_reducible assumption
    | with_reducible apply sieveKept_sendPacket
    | with_reducible apply sieveKept_repairHost
    | split
    | refine sieveKept_set_memory rfl ?_

theorem sieveKept_badFirmwareLine {s : State} (r : Region) (pln : Nat) (h : SieveKept s₀ s) : SieveKept s₀ (State.badFirmwareLine s r pln) := by
  dsimp only [State.badFirmwareLine]
  repeat' first
    | with_reducible assumption
    | with_reducible apply sieveKept_modPart
    | with_reducible apply sieveKept_useFree
    | with_reducible apply sieveKept_setStored
    | split
    | refine sieveKept_set_memory rfl ?_

theorem sieveKept_badLine {s : State} (source pln partition : Nat) (sealBad merge : Bool) (h : SieveKept s₀ s) :
    SieveKept s₀ (State.badLine s source pln partition sealBad merge) := by
  dsimp only [State.badLine]
  repeat' first
    | with_reducible assumption
    | with_reducible apply sieveKept_modCe
    | with_reducible apply sieveKept_recordError
    | with_reducible apply sieveKept_latch
    | with_reducible apply sieveKept_setStored
    | with_reducible apply sieveKept_postTo
    | with_reducible apply sieveKept_badFirmwareLine
    | with_reducible apply sieveKept_queueRepair
    | split

theorem sieveKept_sieveLine {s : State} (z : SieveSum) (pln : Nat) (h : SieveKept s₀ s) : SieveKept s₀ (State.sieveLine s z pln).1 := by
  dsimp only [State.sieveLine]
  repeat' first
    | with_reducible assumption
    | with_reducible apply sieveKept_badLine
    | with_reducible apply sieveKept_modRound
    | with_reducible apply sieveKept_corrected
    | with_reducible apply sieveKept_setStored
    | split


theorem sieveKept_sieveLines {s : State} (z : SieveSum) (ls : List Nat) (h : SieveKept s₀ s) : SieveKept s₀ (State.sieveLines s z ls).1 := by
  unfold State.sieveLines
  induction ls generalizing s z with
  | nil => exact h
  | cons l ls ih => exact ih (s.sieveLine z l).2 (sieveKept_sieveLine z l h)

end

/-! ### Error state (14 R353, R363, R370) -/

section

variable {s : State}

/-- The buckets k periods later (R353). -/
def decayed (s : State) (k : Nat) : State :=
  { s with
    memory := { s.memory with ce := Tab.mapVals (fun _ => Ce.reset) (fun (x : Ce) =>
        { x with bucket := x.bucket - k, above := x.above && decide (k < x.bucket) }) s.memory.ce }
    time := { s.time with marks := Tab.set (fun _ => 0) s.time.marks 2 (BitVec.ofNat 64 (s.nowNat / 10000000)) } }

theorem exec_ceBucketDecay {k : Nat} (h : s.mark 2 + k = s.nowNat / 10000000) (hk : 0 < k) :
    execCeBucketDecay s = .next (decayed s k) := by
  have gap : s.nowNat / 10000000 - (Tab.get (fun _ => 0) s.time.marks 2).toNat = k := by
    unfold State.mark at h
    omega
  unfold execCeBucketDecay
  dsimp only
  rw [gap, if_neg (by omega)]
  rfl

theorem decayed_ce (k c : Nat) : (decayed s k).ce c =
    { s.ce c with bucket := (s.ce c).bucket - k, above := (s.ce c).above && decide (k < (s.ce c).bucket) } :=
  tab_get_mapVals (fun _ => Ce.reset) (fun (x : Ce) => { x with bucket := x.bucket - k, above := x.above && decide (k < x.bucket) })
    s.memory.ce c (by simp [Ce.reset])

theorem decayed_mark {k : Nat} : (decayed s k).mark 2 = s.nowNat / 10000000 := by
  have small : s.nowNat / 10000000 < 2 ^ 64 := lt_of_le_of_lt (Nat.div_le_self _ _) nowNat_lt
  simpa [decayed, State.mark] using small

/-- The lines that a patrol pass reads: those written, of ready regions. -/
def patrolLines (s : State) : List Nat :=
  s.writtenLines.filter (fun l => match s.regionOf l with
        | some n => (s.region n).st == 2
        | none => false)

/-- A pass, counted in the state t that its reads leave (R370). -/
def passEnded (s t : State) (z : SieveSum) : State :=
  { t with memory := { t.memory with sieve := { t.memory.sieve with
      patrolAt := s.time.now, passes := satAdd 65535 t.memory.sieve.passes 1, found := satAdd 65535 t.memory.sieve.found z.uncorrectable } } }

theorem exec_patrolPass (on : bitAt (s.reg 0 0x28) 8 = true) (up : s.firmwareUp = true)
    (due : s.memory.sieve.patrolAt.toNat + fld (s.reg 0 0x28) 7 0 * 3600000000000 ≤ s.nowNat) :
    execPatrolPass s = .next (passEnded s (s.sieveLines SieveSum.zero (patrolLines s)).1 (s.sieveLines SieveSum.zero (patrolLines s)).2) := by
  unfold execPatrolPass
  exact congrArg Host.Outcome.next (if_neg (by simp [on, up]; omega))

end

/-! ### Line repair from peer and host (14 R358 to R361) -/

section

variable {s : State} {r : Repair} {pln : Nat}

/-- The stage of the repair of a line. -/
def repairStaged (s : State) (pln : Nat) (st : RepairStage) : State :=
  { s with memory := { s.memory with
      repairs := s.memory.repairs.map (fun x => if x.pln = pln then { x with stage := st } else x) } }

theorem repairStaged_all (st : RepairStage) : ∀ x, x ∈ (repairStaged s pln st).memory.repairs → x.pln = pln → x.stage = st := by
  intro x hx hp
  obtain ⟨y, -, rfl⟩ := List.mem_map.mp hx
  split at hp
  · rename_i h
    rw [if_pos h]
  · rename_i h
    exact absurd hp h

/-- Asking the host about a line: where the sources allow it the read is sent, else the line is lost. -/
theorem repairHost_eq (n : Nat) (c : W64) : s.repairHost pln n c =
    if bitAt c 18 && !s.confidential (s.region n).owner then
      (repairStaged s pln .host).hostRead ((s.region n).owner + 1) (4096 * fld c 63 20 + (s.region n).offsetOf pln) 64
    else repairStaged s pln .lost := rfl

/-- The state in which no source is left but the host's, as the register allows. -/
def HostAsked (s t : State) (pln : Nat) (r : Repair) : Prop :=
  (bitAt r.sources 18 = true → s.confidential (s.region r.region).owner = false →
    ((∀ x, x ∈ t.memory.repairs → x.pln = pln → x.stage = .host) ∧ t.mem = s.mem) ∧
      (s.linkGood = true → t.out = s.out ++ hostReads ((s.region r.region).owner + 1) 64
        (4096 * fld r.sources 63 20 + (s.region r.region).offsetOf pln) 64)) ∧
  (bitAt r.sources 18 = false ∨ s.confidential (s.region r.region).owner = true →
    ((∀ x, x ∈ t.memory.repairs → x.pln = pln → x.stage = .lost) ∧ t.mem = s.mem) ∧ t.out = s.out)

theorem hostAsked_repairHost : HostAsked s ((s.endRepairRequest pln).repairHost pln r.region r.sources) pln r := by
  rw [repairHost_eq]
  refine ⟨fun bit plain => ?_, fun h => ?_⟩
  · have allowed : (bitAt r.sources 18 && !(s.endRepairRequest pln).confidential ((s.endRepairRequest pln).region r.region).owner) = true := by
      rw [bit]
      exact congrArg Bool.not plain
    rw [if_pos allowed]
    have kept := only_hostRead (within_refl _) ((s.region r.region).owner + 1) (4096 * fld r.sources 63 20 + (s.region r.region).offsetOf pln) 64
      (only_refl _ (repairStaged (s.endRepairRequest pln) pln .host))
    have memory := kept.same .memory (by simp)
    refine ⟨⟨fun x hx => repairStaged_all .host x ((congrArg Memory.repairs memory) ▸ hx), kept.same .mem (by simp)⟩, fun good => ?_⟩
    have good' : (repairStaged (s.endRepairRequest pln) pln .host).linkGood = true := good
    unfold State.hostRead State.toHost
    rw [if_pos good']
    rfl
  · have refused : (bitAt r.sources 18 && !(s.endRepairRequest pln).confidential ((s.endRepairRequest pln).region r.region).owner) = false := by
      obtain h | h := h
      · rw [h, Bool.false_and]
      · exact (congrArg (bitAt r.sources 18 && !·) h).trans (Bool.and_false _)
    rw [if_neg (by rw [refused]; exact Bool.false_ne_true)]
    exact ⟨⟨repairStaged_all .lost, rfl⟩, rfl⟩

/-- A repaired line is written whole and is under repair no longer (R361). -/
theorem repaired_facts (h : s.memory.resieve = []) (l : Line) :
    (s.repaired pln l).mem = (s.writeLine pln l).mem ∧ ∀ x, x ∈ (s.repaired pln l).memory.repairs → x.pln ≠ pln := by
  have posted := only_post (within_refl _) 0 5 3 (channelOf pln) pln (only_refl _ (s.writeLine pln l))
  have memory : ((s.writeLine pln l).post 0 5 3 (channelOf pln) pln).memory = s.memory :=
    (posted.same .memory (by simp)).trans ((only_writeLine (within_refl _) pln l (only_refl _ s)).same .memory (by simp))
  have mem : ((s.writeLine pln l).post 0 5 3 (channelOf pln) pln).mem = (s.writeLine pln l).mem := posted.same .mem (by simp)
  unfold State.repaired
  dsimp only
  generalize (s.writeLine pln l).post 0 5 3 (channelOf pln) pln = t at memory mem
  unfold State.resieveNow
  rw [if_pos (by simp [memory, h])]
  refine ⟨mem, fun x hx => ?_⟩
  have := (List.mem_filter.mp hx).2
  simpa using this

theorem mem_setStored_endRepairRequest (bs : List Byte) :
    ((s.endRepairRequest pln).setStored pln bs).mem = (s.setStored pln bs).mem := rfl

/-- The bytes that a write stores do not depend on the packets sent. -/
theorem writeLine_endRepairRequest (l : Line) : ((s.endRepairRequest pln).writeLine pln l).mem = (s.writeLine pln l).mem := by
  cases held : (s.regionOf pln).map s.region with
  | none =>
    have held' : ((s.endRepairRequest pln).regionOf pln).map (s.endRepairRequest pln).region = none := held
    simp only [State.writeLine, held, held', mem_setStored_endRepairRequest]
  | some r =>
    have held' : ((s.endRepairRequest pln).regionOf pln).map (s.endRepairRequest pln).region = some r := held
    have key : (s.endRepairRequest pln).memoryKey r.owner = s.memoryKey r.owner := rfl
    simp only [State.writeLine, held, held', key]
    split <;> exact mem_setStored_endRepairRequest _

theorem repaired_endRequest (h : s.memory.resieve = []) (l : Line) :
    ((s.endRepairRequest pln).repaired pln l).mem = (s.writeLine pln l).mem ∧
      ∀ x, x ∈ ((s.endRepairRequest pln).repaired pln l).memory.repairs → x.pln ≠ pln := by
  obtain ⟨mem, gone⟩ := repaired_facts (s := s.endRepairRequest pln) (pln := pln) h l
  exact ⟨mem.trans (writeLine_endRepairRequest l), gone⟩

end

section

variable {s : State} {r : Repair} {pln : BitVec 34}

theorem exec_repairPeerAnswer_line (h : s.repairAt pln.toNat false = some r) (l : Line) :
    execRepairPeerAnswer pln (some l) s = .next ((s.endRepairRequest pln.toNat).repaired pln.toNat l) := by
  unfold execRepairPeerAnswer State.peerAnswers
  rw [h]

theorem exec_repairPeerAnswer_none (h : s.repairAt pln.toNat false = some r) :
    execRepairPeerAnswer pln none s = .next ((s.endRepairRequest pln.toNat).repairHost pln.toNat r.region r.sources) := by
  unfold execRepairPeerAnswer State.peerAnswers
  rw [h]

theorem exec_repairPeerTimeout {since : W64} (h : s.repairAt pln.toNat false = some r) (st : r.stage = .peer since) :
    execRepairPeerTimeout pln s = .next (if s.nowNat < since.toNat + 100000 then s
      else (s.endRepairRequest pln.toNat).repairHost pln.toNat r.region r.sources) := by
  unfold execRepairPeerTimeout
  rw [h]
  dsimp only
  rw [st]

theorem exec_repairHostReadComplete_line (h : s.repairAt pln.toNat true = some r) (l : Line) :
    execRepairHostReadComplete pln (some l) s = .next (s.repaired pln.toNat l) := by
  unfold execRepairHostReadComplete
  rw [h]

theorem exec_repairHostReadComplete_none (h : s.repairAt pln.toNat true = some r) :
    execRepairHostReadComplete pln none s = .next (repairStaged s pln.toNat .lost) := by
  unfold execRepairHostReadComplete
  rw [h]
  rfl

end

/-- Settles O39: the tables of the error state entry by entry, and each answer to a repair by what it leaves of the repair. -/
theorem errorStateAndLineRepair : Obligations.ErrorStateAndLineRepair := by
  unfold Obligations.ErrorStateAndLineRepair
  refine ⟨fun s => ⟨fun k h hk => ?_, fun source => ?_, fun on up due => ?_⟩, fun pln s r => ?_⟩
  · exact completes_next (exec_ceBucketDecay h hk) ⟨decayed_mark.trans h.symm,
      fun c => by rw [decayed_ce]; exact ⟨rfl, rfl, rfl, rfl⟩, rfl, rfl, rfl⟩
  · refine completes_next rfl ⟨tab_get_set_same _ _ _ _, fun k hk => tab_get_set_ne _ _ _ _ _ hk, rfl, rfl, rfl⟩
  · have kept : (s.sieveLines SieveSum.zero (patrolLines s)).1.memory.sieve = s.memory.sieve :=
      sieveKept_sieveLines SieveSum.zero (patrolLines s) rfl
    have queue := congrArg SieveCtl.queue kept
    have regs := (only_sieveLines (within_refl _) SieveSum.zero (patrolLines s) (only_refl _ s)).same .regs (by simp)
    refine completes_next (exec_patrolPass on up due) ⟨rfl, ?_, queue, regs⟩
    exact congrArg (fun k : SieveCtl => min 65535 (k.passes + 1)) kept
  · intro at' host
    refine ⟨fun h => ⟨fun quiet l => ?_, ?_, fun since st late => ?_, fun since st early => ?_⟩, fun h => ⟨fun quiet l => ?_, ?_⟩⟩
    · exact completes_next (exec_repairPeerAnswer_line h l) (repaired_endRequest quiet l)
    · exact completes_next (exec_repairPeerAnswer_none h) hostAsked_repairHost
    · exact completes_next ((exec_repairPeerTimeout h st).trans (congrArg Host.Outcome.next (if_neg (by omega)))) hostAsked_repairHost
    · exact completes_next ((exec_repairPeerTimeout h st).trans (congrArg Host.Outcome.next (if_pos early))) rfl
    · exact completes_next (exec_repairHostReadComplete_line h l) (repaired_facts quiet l)
    · exact completes_next (exec_repairHostReadComplete_none h) ⟨⟨repairStaged_all .lost, rfl⟩, rfl, rfl⟩

end Sys2Proof.Proofs
end

section
/-! PROOF of pattern and port tests (20 R476 to R478) -/

namespace Sys2Proof.Proofs

open Sys2Proof Sys2Proof.Machine Sys2Proof.Laws

/-! ### Pattern tests (20 R476, R477) -/

section

variable {s : State}

theorem stored_blankWhere_same {q : Nat → Bool} {l : Nat} (h : q l = true) : (s.blankWhere q).stored l = blankLine := by
  rw [← stored_reset l, stored_eq_map, stored_eq_map]
  refine List.map_congr_left fun i hi => ?_
  have hl : (72 * l + i) / 72 = l := by
    have := List.mem_range.mp hi
    omega
  rw [blankWhere_get, hl, if_pos h]
  rfl

/-- A pattern command by its guards (R476). -/
theorem exec_tstPatCmd {fn : FnId} {v : W64} (h : fn.val = 0) (bar : s.bar0 0 = true) :
    execTstPatCmd fn v s = .next (s.patCommand v) := by
  unfold execTstPatCmd
  exact congrArg Host.Outcome.next (if_pos ⟨h, bar⟩)

theorem patCommand_busy {v : W64} (h : s.spares.patBusy = true) : s.patCommand v = s := if_pos h

theorem patCommand_eq {v : W64} (h : s.spares.patBusy = false) : s.patCommand v =
    if (if s.groupsTaken (fld v 3 0) (fld v 11 4) then 1
        else if (bitAt v 12 && (s.stack (fld v 3 0)).spare.state != 0) || (s.stack (fld v 3 0)).spare.state == 1 then 2 else 0) = 0 then
      { s with spares := { s.spares with patBusy := true, patStatus := 0, patFail := 0, patSpareFail := 0, patErrors := 0, patErrs := [],
                                         patCmd := v } }
    else { s with spares := { s.spares with patStatus := BitVec.ofNat 8 (if s.groupsTaken (fld v 3 0) (fld v 11 4) then 1
        else if (bitAt v 12 && (s.stack (fld v 3 0)).spare.state != 0) || (s.stack (fld v 3 0)).spare.state == 1 then 2 else 0) } } :=
  if_neg (by simp [h])

theorem exec_patternRunComplete_none {failing : List (BitVec 34 × Bool)} (h : s.spares.patBusy = false) :
    execPatternRunComplete failing s = .next s := by
  unfold execPatternRunComplete
  exact congrArg Host.Outcome.next (if_pos (by simp [h]))

/-- The lines under test of a run. -/
def underTest (v : W64) (l : Nat) : Bool := plnStack l == fld v 3 0 && bitAt v (4 + plnChannel l / 4)

/-- The memory that a run leaves: but for a run without a pattern, its lines are blank. -/
def patternBlanked (s : State) : State :=
  if fld s.spares.patCmd 17 13 = 0 then s else s.blankWhere (underTest s.spares.patCmd)

/-- The failures of a run that count. -/
def patternFailures (v : W64) (failing : List (BitVec 34 × Bool)) : List (Nat × Bool) :=
  (failing.map (fun e => (e.1.toNat, e.2))).filter (fun e => if e.2 then bitAt v 12 else underTest v e.1)

/-- The run has ended. -/
def patternEnded (t : State) : State := { t with spares := { t.spares with patBusy := false, patStatus := 0 } }

theorem exec_patternRunComplete {failing : List (BitVec 34 × Bool)} (h : s.spares.patBusy = true) :
    execPatternRunComplete failing s =
      .next (patternEnded ((patternBlanked s).patFailures (patternFailures s.spares.patCmd failing))) := by
  unfold execPatternRunComplete
  exact congrArg Host.Outcome.next (if_neg (by simp [h]))

theorem patternBlanked_facts : (patternBlanked s).spares = s.spares ∧ (patternBlanked s).regs = s.regs ∧
    (patternBlanked s).parts = s.parts := by
  unfold patternBlanked
  split <;> exact ⟨rfl, rfl, rfl⟩

end

/-! ### Port tests (20 R478) -/

section

variable {s : State} {p : PortId} {v : W64}

theorem exec_tstPortTest {fn : FnId} (h : fn.val = 0) (bar : s.bar0 0 = true) :
    execTstPortTest fn p v s = .next (s.portTest p v) := by
  unfold execTstPortTest
  exact congrArg Host.Outcome.next (if_pos ⟨h, bar⟩)

theorem portTest_refused (h : s.testAllowed p (fld v 1 0) = false) : s.portTest p v = s := if_pos (by simp [h])

/-- The register of a port's test after a write of v: a reserved pattern leaves that field (00 R12). -/
def testWord (s : State) (p : Nat) (v : W64) : W64 :=
  BitVec.ofNat 64 (fld v 1 0 + at_ 2 (if fld v 3 2 = 3 then fld (s.reg 0 (0xA0200 + 0x10 * p)) 3 2 else fld v 3 2) + at_ 4 (fld v 8 4))

theorem portTest_starts (h : s.testAllowed p (fld v 1 0) = true) (hm : fld v 1 0 ≠ 0) : s.portTest p v =
    (s.setReg 0 (0xA0200 + 0x10 * p) (testWord s p v)).modPort p
      (fun x => { x with test := some (testWord s p v), results := [], testLocked := 0 }) := by
  unfold State.portTest
  dsimp only
  rw [if_neg (by simp [h]), if_neg hm]
  rfl

/-- The state without the test of the port. -/
def testOff (s : State) (p : Nat) (v : W64) : State :=
  (s.setReg 0 (0xA0200 + 0x10 * p) (testWord s p v)).modPort p (fun x => { x with test := none })

theorem portTest_ends (h : s.testAllowed p (fld v 1 0) = true) (hm : fld v 1 0 = 0) : s.portTest p v =
    if (s.port p).test.isSome then (testOff s p v).startTraining p else testOff s p v := by
  unfold State.portTest
  dsimp only
  rw [if_neg (by simp [h]), if_pos hm]
  rfl

theorem testOff_portEnabled : (testOff s p v).portEnabled p = s.portEnabled p := by
  have other : regKey 0 (0x72000 + 0x20 * p) ≠ regKey 0 (0xA0200 + 0x10 * p) := by
    unfold regKey
    omega
  exact congrArg (bitAt · 0) (setReg_reg_ne _ _ _ _ _ _ other)

/-- Training a port: its test stands, and no other port changes (15 R374). -/
theorem startTraining_port (n : Nat) : ((s.startTraining n).port n).test = (s.port n).test ∧
    (s.links.idLock = true → s.portEnabled n = true → ((s.startTraining n).port n).mode = .training) ∧
    (∀ k, k ≠ n → (s.startTraining n).port k = s.port k) := by
  unfold State.startTraining
  split
  · rename_i h
    exact ⟨rfl, fun lock on => by simp [lock, on] at h, fun _ _ => rfl⟩
  · have line (u : State) (k : Nat) : (u.portLine n).port k = u.port k := rfl
    exact ⟨by rw [line, modPort_port_same], fun _ _ => by rw [line, modPort_port_same], fun k hk => by rw [line, modPort_port_ne _ _ _ _ hk]⟩

theorem exec_checkerLock_none {l : LaneId} {errors : BitVec 12} (h : ∀ v, (s.port p).test = some v → fld v 1 0 = 3 ∨ bitAt v (4 + l.val) = false) :
    execCheckerLock p l errors s = .next s := by
  unfold execCheckerLock
  cases ht : (s.port p).test with
  | none => rfl
  | some v => exact congrArg Host.Outcome.next (if_pos ((h v ht).imp id fun b => by simp [b]))

theorem exec_checkerLock {l : LaneId} {errors : BitVec 12} (ht : (s.port p).test = some v) (hm : fld v 1 0 ≠ 3)
    (hl : bitAt v (4 + l.val) = true) : execCheckerLock p l errors s = .next (s.modPort p.val (fun x =>
        { x with testLocked := setFld x.testLocked l.val l.val 1, results := Tab.set (fun _ => 0) x.results l.val errors })) := by
  unfold execCheckerLock
  rw [ht]
  exact congrArg Host.Outcome.next (if_neg (by simp [hm, hl]))

end

/-- Settles O53: each command by its guards, and the state that each case leaves. -/
theorem testsRunOnIdleParts : Obligations.TestsRunOnIdleParts := by
  unfold Obligations.TestsRunOnIdleParts
  refine ⟨fun fn v s h bar => ?_, fun failing s h => completes_next (exec_patternRunComplete_none h) rfl, fun failing s h => ?_,
    fun fn p v s h bar => ?_, fun p l errors s h => completes_next (exec_checkerLock_none h) rfl, fun p l errors s v ht hm hl => ?_⟩
  · intro k taken spare
    have run : exec (.tstPatCmd fn v) s = .next (s.patCommand v) := exec_tstPatCmd h bar
    refine ⟨fun busy => completes_next run (patCommand_busy busy), fun free => ⟨fun ht => ?_, fun ht hs => ?_, fun ht hs => ?_⟩⟩
    all_goals
      refine completes_next run ?_
      rw [patCommand_eq free]
    · simp [show s.groupsTaken (fld v 3 0) (fld v 11 4) = true from ht]
    · have hs' : ((bitAt v 12 && (s.stack (fld v 3 0)).spare.state != 0) || (s.stack (fld v 3 0)).spare.state == 1) = true := hs
      rw [hs', show s.groupsTaken (fld v 3 0) (fld v 11 4) = false from ht]
      rfl
    · have hs' : ((bitAt v 12 && (s.stack (fld v 3 0)).spare.state != 0) || (s.stack (fld v 3 0)).spare.state == 1) = false := hs
      rw [hs', show s.groupsTaken (fld v 3 0) (fld v 11 4) = false from ht]
      exact ⟨rfl, rfl, rfl, rfl, rfl, rfl⟩
  · intro v mine
    obtain ⟨spares, regs, parts⟩ := patternBlanked_facts (s := s)
    refine completes_next (exec_patternRunComplete h) ⟨rfl, rfl, fun hp => ?_, fun hp => ?_, fun none => ?_, regs, parts⟩
    · have written : patternBlanked s = s.blankWhere mine := if_neg hp
      have mem : (patternEnded ((patternBlanked s).patFailures (patternFailures s.spares.patCmd failing))).mem = (s.blankWhere mine).mem := by
        rw [← written]
        rfl
      have stored (l : Nat) := congrArg (fun m => Tab.getList blankByte m (72 * l) 72) mem
      exact ⟨fun l hl => (stored l).trans (stored_blankWhere_same hl), fun l hl => (stored l).trans (stored_blankWhere_ne hl)⟩
    · have written : patternBlanked s = s := if_pos hp
      rw [written]
      rfl
    · subst none
      have errors := congrArg Spares.patErrors spares
      have errs := congrArg Spares.patErrs spares
      exact ⟨errors, errs⟩
  · intro mode
    have run : exec (.tstPortTest fn p v) s = .next (s.portTest p v) := exec_tstPortTest h bar
    refine ⟨fun no => completes_next run (portTest_refused no), fun yes hm => ?_, fun yes hm => ?_⟩
    · refine completes_next run ?_
      rw [portTest_starts yes hm]
      exact ⟨setReg_reg_same _ _ _ _, congrArg Port.test (modPort_port_same _ _ _), congrArg Port.results (modPort_port_same _ _ _),
        congrArg Port.testLocked (modPort_port_same _ _ _), fun k hk => modPort_port_ne _ _ _ _ hk, rfl⟩
    · refine completes_next run ?_
      rw [portTest_ends yes hm]
      have word : (testOff s p v).reg 0 (0xA0200 + 0x10 * p) = testWord s p v := setReg_reg_same _ _ _ _
      have off : ((testOff s p v).port p).test = none := congrArg Port.test (modPort_port_same _ _ _)
      have others (k : Nat) (hk : k ≠ p.val) : (testOff s p v).port k = s.port k := modPort_port_ne _ _ _ _ hk
      cases ht : (s.port p).test.isSome with
      | false =>
        rw [if_neg (by simp)]
        exact ⟨off, word, fun absent => by simp at absent, others, rfl⟩
      | true =>
        rw [if_pos rfl]
        obtain ⟨test, training, stand⟩ := startTraining_port (s := testOff s p v) p.val
        have kept := only_startTraining (within_refl _) p.val (only_refl _ (testOff s p v))
        refine ⟨test.trans off, ?_, fun _ lock on => training lock (testOff_portEnabled.trans on), fun k hk => (stand k hk).trans (others k hk),
          kept.same .mem (by simp)⟩
        exact (congrArg (Tab.get regReset · (regKey 0 (0xA0200 + 0x10 * p))) (kept.same .regs (by simp))).trans word
  · refine completes_next (exec_checkerLock ht hm hl) ⟨?_, ?_, fun k hk => ?_, fun k hk => modPort_port_ne _ _ _ _ hk, rfl, rfl⟩
    · rw [modPort_port_same]
      exact (getLsbD_setFld _ _ _ _ _ l.isLt).trans (by simp)
    · rw [modPort_port_same]
      exact tab_get_set_same _ _ _ _
    · rw [modPort_port_same]
      exact tab_get_set_ne _ _ _ _ _ hk

end Sys2Proof.Proofs
end

section
/-! PROOF of boot, firmware ready and the configuration (18 R446, R447; 21 R479; 11 R303) -/

namespace Sys2Proof.Proofs

open Sys2Proof Sys2Proof.Machine Sys2Proof.Laws

/-! ### What the self tests keep of the security core (18 R446; 20 R465) -/

/-- The security core without the wear log. -/
def secView (s : State) : Sec := { s.sec with flash := { s.sec.flash with wear := [], wearTotal := 0 } }

/-- The security core is as it was, but for the wear log. -/
def SecKept (s t : State) : Prop := secView t = secView s

section

variable {s₀ : State}

theorem secKept_only {s t : State} {L : List Fld} (h : Only L s t) (hm : Fld.sec ∉ L) (hs : SecKept s₀ s) : SecKept s₀ t := by
  have same : t.sec = s.sec := h.same .sec hm
  unfold SecKept secView at *
  rwa [same]

theorem secKept_foldl {α : Type} {g : State → α → State} {l : List α} {s : State} (h : SecKept s₀ s)
    (hg : ∀ t a, SecKept s₀ t → SecKept s₀ (g t a)) : SecKept s₀ (l.foldl g s) := by
  induction l generalizing s with
  | nil => exact h
  | cons a l ih => exact ih (hg s a h)

theorem secKept_mapChange {s : State} (kind unit : Nat) (h : SecKept s₀ s) : SecKept s₀ (State.mapChange s kind unit) :=
  secKept_only (only_mapChange (within_refl _) kind unit (only_refl _ s)) (by simp) h

theorem secKept_modStack {s : State} (k : Nat) (f : Stack → Stack) (h : SecKept s₀ s) : SecKept s₀ (State.modStack s k f) :=
  secKept_only (only_modStack (within_refl _) k f (only_refl _ s)) (by simp) h

theorem secKept_modSite {s : State} (n : Nat) (f : SensorSite → SensorSite) (h : SecKept s₀ s) : SecKept s₀ (State.modSite s n f) :=
  secKept_only (only_modSite (within_refl _) n f (only_refl _ s)) (by simp) h

theorem secKept_modQuarter {s : State} (q : Nat) (f : Quarter → Quarter) (h : SecKept s₀ s) : SecKept s₀ (State.modQuarter s q f) :=
  secKept_only (only_modQuarter (within_refl _) q f (only_refl _ s)) (by simp) h

theorem secKept_modCluster {s : State} (c : Nat) (f : Cluster → Cluster) (h : SecKept s₀ s) : SecKept s₀ (State.modCluster s c f) :=
  secKept_only (only_modCluster (within_refl _) c f (only_refl _ s)) (by simp) h

theorem logWear_flash {s : State} (kind unit detail pln : Nat) : ∃ w n,
    (s.logWear kind unit detail pln).sec = { s.sec with flash := { s.sec.flash with wear := w, wearTotal := n } } := by
  unfold State.logWear
  exact ⟨_, _, Eq.refl _⟩

theorem secKept_logWear {s : State} (kind unit detail pln : Nat) (h : SecKept s₀ s) : SecKept s₀ (State.logWear s kind unit detail pln) := by
  obtain ⟨w, n, same⟩ := logWear_flash (s := s) kind unit detail pln
  unfold SecKept secView at *
  rw [same]
  exact h

theorem secKept_bootClusters {s : State} (failing : List Nat) (h : SecKept s₀ s) : SecKept s₀ (State.bootClusters s failing) := by
  dsimp only [State.bootClusters]
  repeat' first
    | with_reducible assumption
    | with_reducible apply secKept_foldl
    | intro _ _ _
    | with_reducible apply secKept_modCluster
    | with_reducible apply secKept_mapChange
    | with_reducible apply secKept_logWear
    | split

theorem secKept_bootQuarter {s : State} (failing : List Nat) (q : Nat) (h : SecKept s₀ s) : SecKept s₀ (State.bootQuarter s failing q) := by
  dsimp only [State.bootQuarter]
  repeat' first
    | with_reducible assumption
    | with_reducible apply secKept_foldl
    | intro _ _ _
    | with_reducible apply secKept_mapChange
    | with_reducible apply secKept_logWear
    | with_reducible apply secKept_modQuarter
    | split

theorem secKept_bootSensors {s : State} (failing : List Nat) (h : SecKept s₀ s) : SecKept s₀ (State.bootSensors s failing) := by
  dsimp only [State.bootSensors]
  repeat' first
    | with_reducible assumption
    | with_reducible apply secKept_foldl
    | intro _ _ _
    | with_reducible apply secKept_modSite
    | with_reducible apply secKept_mapChange
    | with_reducible apply secKept_logWear
    | split

theorem secKept_bootStack {s : State} (failing : List Nat) (k : Nat) (h : SecKept s₀ s) : SecKept s₀ (State.bootStack s failing k) := by
  dsimp only [State.bootStack]
  repeat' first
    | with_reducible assumption
    | with_reducible apply secKept_foldl
    | intro _ _ _
    | with_reducible apply secKept_mapChange
    | with_reducible apply secKept_logWear
    | with_reducible apply secKept_modStack
    | split

end

/-! ### A boot (18 R446, R447; 16 R397) -/

section

variable {s : State}

theorem extend_slotValue_same (k : Nat) (d : BitVec 256) :
    (s.extend k d).slotValue k = sha3 (toBytes 32 (s.slotValue k).toNat ++ toBytes 32 d.toNat) := tab_get_set_same _ _ _ _

theorem extend_slotValue_ne {k j : Nat} (d : BitVec 256) (h : j ≠ k) : (s.extend k d).slotValue j = s.slotValue j :=
  tab_get_set_ne _ _ _ _ _ h

/-- The state after a tie of two banks consumed its free value (log 3). -/
def tieTaken (s : State) (target : Nat) : State :=
  if imageVersion (s.sec.flash.bank target 0) = imageVersion (s.sec.flash.bank target 1) then s.useFree else s

theorem tieTaken_facts (target : Nat) : (tieTaken s target).sec = s.sec ∧ (tieTaken s target).module = s.module ∧
    (tieTaken s target).time = s.time ∧ (tieTaken s target).parts = s.parts ∧ (tieTaken s target).regs = s.regs := by
  unfold tieTaken
  split <;> exact ⟨rfl, rfl, rfl, rfl, rfl⟩

theorem tieTaken_eq (target : Nat) : tieTaken s target =
    if (imageVersion (s.sec.flash.bank target 0) == imageVersion (s.sec.flash.bank target 1)) = true then s.useFree else s :=
  if_congr beq_iff_eq.symm rfl rfl

/-- The state with bank b chosen for a target: its image measured into the target's slot, its version running. -/
def picked (s : State) (target b : Nat) : State :=
  let t := (tieTaken s target).extend target (sha3 (s.sec.flash.bank target b))
  { t with sec := { t.sec with bootedBank := setFld t.sec.bootedBank target target b,
                               versions := Tab.set (fun _ => 0) t.sec.versions target (BitVec.ofNat 32 (imageVersion (s.sec.flash.bank target b))) } }

theorem bootTarget_none {target : Nat} (h : s.sec.flash.pick target (bitAt s.freeVal 0) = none) : s.bootTarget target = none := by
  unfold State.bootTarget
  dsimp only
  rw [h]

theorem bootTarget_some {target b : Nat} (h : s.sec.flash.pick target (bitAt s.freeVal 0) = some b) :
    s.bootTarget target = some (picked s target b) := by
  unfold State.bootTarget
  dsimp only
  rw [h]
  rfl

theorem picked_rest (target b : Nat) : (picked s target b).sec.flash = s.sec.flash ∧ (picked s target b).module = s.module ∧
    (picked s target b).time = s.time ∧ (picked s target b).parts = s.parts ∧ (picked s target b).regs = s.regs ∧
    (picked s target b).free = (tieTaken s target).free := by
  obtain ⟨sec, module, time, parts, regs⟩ := tieTaken_facts (s := s) target
  have flash := congrArg Sec.flash sec
  unfold picked State.extend
  dsimp only
  exact ⟨flash, module, time, parts, regs, Eq.refl (tieTaken s target).free⟩

theorem picked_slot_same (target b : Nat) : (picked s target b).slotValue target =
    sha3 (toBytes 32 (s.slotValue target).toNat ++ toBytes 32 (sha3 (s.sec.flash.bank target b)).toNat) := by
  obtain ⟨sec, -⟩ := tieTaken_facts (s := s) target
  have slot : (tieTaken s target).slotValue target = s.slotValue target := congrArg (fun x : Sec => Tab.get (fun _ => 0) x.slots target) sec
  rw [← slot]
  exact extend_slotValue_same _ _

theorem picked_slot_ne {target j : Nat} (b : Nat) (h : j ≠ target) : (picked s target b).slotValue j = s.slotValue j := by
  obtain ⟨sec, -⟩ := tieTaken_facts (s := s) target
  have slot : (tieTaken s target).slotValue j = s.slotValue j := congrArg (fun x : Sec => Tab.get (fun _ => 0) x.slots j) sec
  rw [← slot]
  exact extend_slotValue_ne _ h

theorem picked_bank (target b : Nat) : (picked s target b).sec.bootedBank = setFld s.sec.bootedBank target target b := by
  obtain ⟨sec, -⟩ := tieTaken_facts (s := s) target
  have bank := congrArg (fun x : Sec => setFld x.bootedBank target target b) sec
  exact bank

theorem picked_versions (target b : Nat) : (picked s target b).sec.versions =
    Tab.set (fun _ => 0) s.sec.versions target (BitVec.ofNat 32 (imageVersion (s.sec.flash.bank target b))) := by
  obtain ⟨sec, -⟩ := tieTaken_facts (s := s) target
  have versions := congrArg (fun x : Sec => Tab.set (fun _ => 0) x.versions target (BitVec.ofNat 32 (imageVersion (s.sec.flash.bank target b)))) sec
  exact versions

/-- A bank that is picked is one of the two. -/
theorem pick_lt {f : Flash} {target b : Nat} {tie : Bool} (h : f.pick target tie = some b) : b < 2 := by
  unfold Flash.pick at h
  dsimp only at h
  have small : (if imageVersion (f.bank target 0) = imageVersion (f.bank target 1) then b2n tie
      else b2n (decide (imageVersion (f.bank target 0) < imageVersion (f.bank target 1)))) < 2 := by
    split
    · cases tie <;> decide
    · cases decide (imageVersion (f.bank target 0) < imageVersion (f.bank target 1)) <;> decide
  revert h small
  generalize (if imageVersion (f.bank target 0) = imageVersion (f.bank target 1) then b2n tie
      else b2n (decide (imageVersion (f.bank target 0) < imageVersion (f.bank target 1)))) = first
  intro h small
  split at h
  · cases h
    exact small
  · split at h
    · cases h
      omega
    · exact absurd h (by simp)

/-- The measurements of the configuration, the owners and the library, and the identity. -/
def measured (s : State) (r : BootResult) : State :=
  let t := ((s.extend 5 (sha3 (Config.flashConfig s.sec.flash.map))).extend 4 (sha3 s.sec.flash.ownerSet)).bootLibrary
  { t with sec := { t.sec with bootId := r.bootId, identity := true, alias_ := true } }

theorem stageOne_some {b c : Nat} (r : BootResult) (h : s.sec.flash.pick 1 (bitAt s.freeVal 0) = some b)
    (h' : (picked s 1 b).sec.flash.pick 2 (bitAt (picked s 1 b).freeVal 0) = some c) :
    s.stageOne r = (measured (picked (picked s 1 b) 2 c) r).selfTest r := by
  unfold State.stageOne
  rw [bootTarget_some h]
  dsimp only
  rw [bootTarget_some h']
  rfl

/-- What the measurements leave of the security core. -/
theorem measured_facts (r : BootResult) : (measured s r).sec.flash = s.sec.flash ∧ (measured s r).sec.bootedBank = s.sec.bootedBank ∧
    (measured s r).sec.versions = s.sec.versions ∧ (measured s r).sec.bootId = r.bootId ∧ (measured s r).sec.identity = true ∧
    (measured s r).sec.alias_ = true ∧ (measured s r).module = s.module ∧ (measured s r).time = s.time ∧
    (measured s r).parts = s.parts ∧ (measured s r).regs = s.regs := by
  unfold measured State.bootLibrary
  dsimp only
  exact ⟨rfl, rfl, rfl, rfl, rfl, rfl, rfl, rfl, rfl, rfl⟩

theorem measured_slot (r : BootResult) {k : Nat} (h3 : k ≠ 3) (h4 : k ≠ 4) (h5 : k ≠ 5) : (measured s r).slotValue k = s.slotValue k :=
  (extend_slotValue_ne _ h3).trans ((extend_slotValue_ne _ h4).trans (extend_slotValue_ne _ h5))

/-- The parts after their self tests. -/
def partsTested (s : State) (r : BootResult) : State :=
  let t := s.bootClusters (r.failedClusters.filter (fun c => decide (c < 1280)))
  let t := (List.range 4).foldl (fun (u : State) q => u.bootQuarter r.failedCores q) t
  let t := t.bootSensors r.failedSensors
  let t := (List.range 16).foldl (fun (u : State) k =>
    u.bootStack (r.failedDies.filterMap (fun d => if d / 17 = k then some (d % 17) else none)) k) t
  ((t.bootLanes r.failedLanes).bootRails).logWear 12 0 0 0

theorem secKept_partsTested (r : BootResult) : SecKept s (partsTested s r) := by
  have clusters := secKept_bootClusters (r.failedClusters.filter (fun c => decide (c < 1280))) (Eq.refl (secView s))
  have quarters := secKept_foldl (g := fun (u : State) q => u.bootQuarter r.failedCores q) (l := List.range 4) clusters
    fun t q kept => secKept_bootQuarter r.failedCores q kept
  have sensors := secKept_bootSensors r.failedSensors quarters
  have spareTests := secKept_foldl (g := fun (u : State) k =>
      u.bootStack (r.failedDies.filterMap (fun d => if d / 17 = k then some (d % 17) else none)) k) (l := List.range 16) sensors
    fun t k kept => secKept_bootStack _ k kept
  have lanes := secKept_only (only_bootLanes (within_refl _) r.failedLanes (only_refl _ _)) (by simp) spareTests
  have rails := secKept_only (only_bootRails (within_refl _) (only_refl _ _)) (by simp) lanes
  have logged := secKept_logWear 12 0 0 0 rails
  exact logged

theorem partsTested_module (r : BootResult) : (partsTested s r).module = s.module := by
  have kept : Only [.clusters, .quarters, .stackTab, .links, .sec, .power, .spares] s (partsTested s r) := by
    have hs := only_refl [.clusters, .quarters, .stackTab, .links, .sec, .power, .spares] s
    unfold partsTested
    refine only_logWear ?_ _ _ _ _ (only_bootRails ?_ (only_bootLanes ?_ _ (only_foldl _ (only_bootSensors ?_ _
      (only_foldl _ (only_bootClusters ?_ _ hs) fun t q h => only_bootQuarter ?_ _ q h)) fun t k h => only_bootStack ?_ _ k h)))
    all_goals exact within_sub (by decide) (within_refl _)
  exact kept.same .module (by simp)

/-- The self tests with the fabric good: memory is blank and the boot is done. -/
theorem selfTest_good {r : BootResult} (h : r.fabricOk = true) : s.selfTest r =
    { partsTested s r with mem := [], module := { (partsTested s r).module with stage := 3, booted := true } } := by
  unfold State.selfTest
  rw [if_neg (by simp [h])]
  rfl

theorem selfTest_fabric {r : BootResult} (h : r.fabricOk = false) : s.selfTest r = s.stopBoot 6 := by
  unfold State.selfTest
  rw [if_pos (by simp [h])]

end

section

variable {s : State} {r : BootResult}

theorem exec_boot (p : s.powered = true) (st : s.module.stage = 0) (b : s.module.booted = false) : execBoot r s = .next (s.boot r) := by
  unfold execBoot
  exact congrArg Host.Outcome.next (if_pos (by simp [p, st, b]))

theorem exec_boot_none (h : s.powered = false ∨ s.module.stage ≠ 0 ∨ s.module.booted = true) : execBoot r s = .next s := by
  unfold execBoot
  refine congrArg Host.Outcome.next (if_neg ?_)
  obtain h | h | h := h <;> simp [h]

theorem boot_identity (h : r.identityOk = false) : s.boot r = s.stopBoot 1 := if_pos (by simp [h])

theorem boot_protected (h : r.identityOk = true) (h' : r.protectedOk = false) : s.boot r = s.stopBoot 5 := by
  unfold State.boot
  rw [if_neg (by simp [h]), if_pos (by simp [h'])]

theorem boot_stageZero (h : r.identityOk = true) (h' : r.protectedOk = true) {a : Nat}
    (pick : s.sec.flash.pick 0 (bitAt s.freeVal 0) = some a) : s.boot r = ((picked s 0 a).startTime r.ga).stageOne r := by
  unfold State.boot
  rw [if_neg (by simp [h]), if_neg (by simp [h']), bootTarget_some pick]

theorem boot_noTarget (h : r.identityOk = true) (h' : r.protectedOk = true)
    (pick : s.sec.flash.pick 0 (bitAt s.freeVal 0) = none) : s.boot r = s.stopBoot 2 := by
  unfold State.boot
  rw [if_neg (by simp [h]), if_neg (by simp [h']), bootTarget_none pick]

end

/-! ### Firmware ready, PERST_N and the configuration (18 R446; 21 R479; 11 R303) -/

section

variable {s : State}

/-- A fold that updates each entry of a range once. -/
theorem tab_get_modifyRange {α : Type} [DecidableEq α] (d : Nat → α) (f : Nat → α → α) (t : Tab α) (m k : Nat) :
    Tab.get d ((List.range m).foldl (fun t n => Tab.modify d t n (f n)) t) k = if k < m then f k (Tab.get d t k) else Tab.get d t k := by
  induction m with
  | zero => simp
  | succ m ih =>
    rw [List.range_succ, List.foldl_append, List.foldl_cons, List.foldl_nil]
    by_cases h : k = m
    · subst h
      rw [tab_get_modify_same, ih, if_neg (by omega), if_pos (by omega)]
    · rw [tab_get_modify_ne _ _ _ _ _ h, ih]
      by_cases hk : k < m
      · rw [if_pos hk, if_pos (by omega)]
      · rw [if_neg hk, if_neg (by omega)]

/-- The default routing of line n. -/
def routed (free n : Nat) (l : IcLine) : IcLine :=
  { l with masked := false, fast := fastLine n, core := BitVec.ofNat 4 (Config.freeValue (free + n)).toNat }

theorem routeLines_icLine {n : Nat} (h : n < 76) : s.routeLines.icLine n = routed s.free n (s.icLine n) := by
  unfold State.icLine State.routeLines routed
  dsimp only
  exact (tab_get_modifyRange (fun _ => IcLine.reset) (fun n l =>
    { l with masked := false, fast := fastLine n, core := BitVec.ofNat 4 (Config.freeValue (s.free + n)).toNat }) s.intr.lines 76 n).trans
    (if_pos h)

theorem icLine_congr {t u : State} (h : t.intr = u.intr) (n : Nat) : t.icLine n = u.icLine n := by
  unfold State.icLine
  rw [h]

theorem exec_firmwareReady_none (h : s.powered = false ∨ (s.module.stage ≠ 7 ∧ (s.module.stage ≠ 3 ∨ s.module.booted = false))) :
    execFirmwareReady s = .next s := by
  unfold execFirmwareReady
  refine congrArg Host.Outcome.next (if_pos ?_)
  obtain h | ⟨h, h' | h'⟩ := h
  · simp [h]
  · simp [h, h']
  · simp [h, h']

theorem routeLines_rest : s.routeLines.module = s.module ∧ s.routeLines.mem = s.mem ∧ s.routeLines.parts = s.parts ∧
    s.routeLines.regs = s.regs := ⟨rfl, rfl, rfl, rfl⟩

/-- The lines routed and the stage up. -/
def firmwareRouted (s : State) : State := { s.routeLines with module := { s.routeLines.module with stage := 4 } }

theorem firmwareRouted_module : (firmwareRouted s).module = { s.module with stage := 4 } := rfl

theorem exec_firmwareReady (p : s.powered = true) (h : s.module.stage = 7 ∨ (s.module.stage = 3 ∧ s.module.booted = true)) :
    execFirmwareReady s = .next ((firmwareRouted s).postAll 0 1 0 (Tab.get (fun _ => 0) s.sec.versions 1).toNat) := by
  unfold execFirmwareReady
  refine congrArg Host.Outcome.next (if_neg ?_)
  obtain h | ⟨h, h'⟩ := h
  · simp [p, h]
  · simp [p, h, h']

theorem exec_perstNDeassert_none (h : s.module.perst = false) : execPerstNDeassert s = .next s := by
  unfold execPerstNDeassert
  exact congrArg Host.Outcome.next (if_pos (by simp [h]))

theorem exec_perstNDeassert (h : s.module.perst = true) : execPerstNDeassert s = .next { s with module := { s.module with
    perst := false
    electrical := if s.module.electrical = .inReset ∧ s.time.running = true then .running else s.module.electrical } } := by
  unfold execPerstNDeassert
  exact congrArg Host.Outcome.next (if_neg (by simp [h]))

/-- Functions of a list that leave are reset. -/
theorem leave_fn (c : Nat → Bool) (ks : List Nat) (u : State) (k : Nat) :
    (ks.foldl (fun (u : State) k => if c k then u.resetFn k else u) u).fn k = if k ∈ ks ∧ c k = true then Fn.reset else u.fn k := by
  induction ks generalizing u with
  | nil => simp
  | cons j ks ih =>
    rw [List.foldl_cons, ih]
    by_cases hk : k ∈ ks ∧ c k = true
    · rw [if_pos hk, if_pos ⟨List.mem_cons_of_mem _ hk.1, hk.2⟩]
    · rw [if_neg hk]
      by_cases hj : c j = true
      · rw [if_pos hj]
        by_cases he : k = j
        · subst he
          rw [resetFn_fn_same, if_pos ⟨List.mem_cons_self, hj⟩]
        · rw [resetFn_fn_ne _ _ he, if_neg fun ⟨hm, hc⟩ => hk ⟨(List.mem_cons.mp hm).resolve_left he, hc⟩]
      · rw [if_neg hj, if_neg fun ⟨hm, hc⟩ => hk ⟨(List.mem_cons.mp hm).resolve_left fun he => hj (by rw [← he]; exact hc), hc⟩]

theorem leave_only (c : Nat → Bool) (ks : List Nat) (u : State) :
    Only [.fns, .regs] u (ks.foldl (fun (u : State) k => if c k then u.resetFn k else u) u) :=
  only_foldl _ (only_refl _ u) fun t k h => by
    split
    · exact only_resetFn (within_refl _) k h
    · exact h

end

section

variable {s : State} {n : Fin 9} {vfs ptm : Bool}

/-- The state with the written configuration. -/
def configured (s : State) (n : Fin 9) (vfs ptm : Bool) : State :=
  { s with module := { s.module with numVfs := n.val, vfEnable := vfs, ptmEnable := ptm } }

/-- A function that leaves with the configuration. -/
def fnLeaves (s : State) (n : Fin 9) (vfs ptm : Bool) (k : Nat) : Bool := s.present k && !(configured s n vfs ptm).present k

theorem exec_configurationWrite : execConfigurationWrite n vfs ptm s = .next (((List.range 8).map (· + 1)).foldl
    (fun (u : State) k => if fnLeaves s n vfs ptm k then u.resetFn k else u) (configured s n vfs ptm)) := rfl

theorem mem_functions {k : Nat} : k ∈ (List.range 8).map (· + 1) ↔ 1 ≤ k ∧ k ≤ 8 := by
  rw [List.mem_map]
  constructor
  · rintro ⟨j, hj, rfl⟩
    have := List.mem_range.mp hj
    omega
  · intro h
    exact ⟨k - 1, List.mem_range.mpr (by omega), by omega⟩

end

section

variable {s : State} {r : BootResult} {a b c : Nat}

/-- What the choices of the three targets leave, one after the other. -/
def targetsPicked (s : State) (ga : BitVec 3) (a b c : Nat) : State := picked (picked ((picked s 0 a).startTime ga) 1 b) 2 c

theorem targetsPicked_rest (ga : BitVec 3) : (targetsPicked s ga a b c).sec.flash = s.sec.flash ∧
    (targetsPicked s ga a b c).module = { s.module with ga := ga, electrical := if s.module.perst then .inReset else .running } ∧
    (targetsPicked s ga a b c).time = { TimeBase.reset with running := true } := by
  obtain ⟨flash0, module0, -⟩ := picked_rest (s := s) 0 a
  obtain ⟨flash1, module1, time1, -⟩ := picked_rest (s := (picked s 0 a).startTime ga) 1 b
  obtain ⟨flash2, module2, time2, -⟩ := picked_rest (s := picked ((picked s 0 a).startTime ga) 1 b) 2 c
  refine ⟨flash2.trans (flash1.trans flash0), module2.trans (module1.trans ?_), time2.trans time1⟩
  exact congrArg (fun m : Module => { m with ga := ga, electrical := if m.perst then .inReset else .running }) module0

theorem targetsPicked_bank (ga : BitVec 3) (ha : a < 2) (hb : b < 2) (hc : c < 2) :
    fld (targetsPicked s ga a b c).sec.bootedBank 0 0 = a ∧ fld (targetsPicked s ga a b c).sec.bootedBank 1 1 = b ∧
      fld (targetsPicked s ga a b c).sec.bootedBank 2 2 = c := by
  have bank : (targetsPicked s ga a b c).sec.bootedBank = setFld (setFld (setFld s.sec.bootedBank 0 0 a) 1 1 b) 2 2 c := by
    have bank0 := picked_bank (s := s) 0 a
    have bank1 := picked_bank (s := (picked s 0 a).startTime ga) 1 b
    have bank2 := picked_bank (s := picked ((picked s 0 a).startTime ga) 1 b) 2 c
    have started : ((picked s 0 a).startTime ga).sec.bootedBank = (picked s 0 a).sec.bootedBank := rfl
    rw [targetsPicked, bank2, bank1, started, bank0]
  rw [bank]
  refine ⟨?_, ?_, ?_⟩
  · rw [fld_setFld_ne _ _ (by decide) (by decide), fld_setFld_ne _ _ (by decide) (by decide), fld_setFld_same _ _ (by decide)]
    omega
  · rw [fld_setFld_ne _ _ (by decide) (by decide), fld_setFld_same _ _ (by decide)]
    omega
  · rw [fld_setFld_same _ _ (by decide)]
    omega

/-- Every target runs the version of its bank, and its slot measures its image. -/
theorem targetsPicked_measures (ga : BitVec 3) (k x : Nat) (h : (k, x) ∈ [(0, a), (1, b), (2, c)]) :
    Tab.get (fun _ => 0) (targetsPicked s ga a b c).sec.versions k = BitVec.ofNat 32 (imageVersion (s.sec.flash.bank k x)) ∧
    (targetsPicked s ga a b c).slotValue k =
      sha3 (toBytes 32 (s.slotValue k).toNat ++ toBytes 32 (sha3 (s.sec.flash.bank k x)).toNat) := by
  have flash0 : ((picked s 0 a).startTime ga).sec.flash = s.sec.flash := (picked_rest (s := s) 0 a).1
  have flash1 : (picked ((picked s 0 a).startTime ga) 1 b).sec.flash = s.sec.flash :=
    (picked_rest (s := (picked s 0 a).startTime ga) 1 b).1.trans flash0
  have started (k : Nat) : ((picked s 0 a).startTime ga).slotValue k = (picked s 0 a).slotValue k := rfl
  have versions0 : ((picked s 0 a).startTime ga).sec.versions = (picked s 0 a).sec.versions := rfl
  unfold targetsPicked
  rw [picked_versions, picked_versions, versions0, picked_versions, flash1, flash0]
  simp only [List.mem_cons, List.not_mem_nil, or_false, Prod.mk.injEq] at h
  obtain ⟨rfl, rfl⟩ | ⟨rfl, rfl⟩ | ⟨rfl, rfl⟩ := h
  · refine ⟨by rw [tab_get_set_ne _ _ _ _ _ (by decide), tab_get_set_ne _ _ _ _ _ (by decide), tab_get_set_same], ?_⟩
    rw [picked_slot_ne _ (by decide), picked_slot_ne _ (by decide), started, picked_slot_same]
  · refine ⟨by rw [tab_get_set_ne _ _ _ _ _ (by decide), tab_get_set_same], ?_⟩
    rw [picked_slot_ne _ (by decide), picked_slot_same, started, picked_slot_ne _ (by decide), flash0]
  · refine ⟨by rw [tab_get_set_same], ?_⟩
    rw [picked_slot_same, picked_slot_ne _ (by decide), started, picked_slot_ne _ (by decide), flash1]

theorem targetsPicked_slot_ne (ga : BitVec 3) {k : Nat} (h : 2 < k) : (targetsPicked s ga a b c).slotValue k = s.slotValue k := by
  have started : ((picked s 0 a).startTime ga).slotValue k = (picked s 0 a).slotValue k := rfl
  unfold targetsPicked
  rw [picked_slot_ne _ (by omega), picked_slot_ne _ (by omega), started, picked_slot_ne _ (by omega)]

theorem slotValue_congr {t u : State} (h : t.sec.slots = u.sec.slots) (k : Nat) : t.slotValue k = u.slotValue k := by
  unfold State.slotValue
  rw [h]

theorem stageOne_none (h : s.sec.flash.pick 1 (bitAt s.freeVal 0) = none) : s.stageOne r = s.stopBoot 3 := by
  unfold State.stageOne
  rw [bootTarget_none h]

theorem stageOne_noneTwo (h : s.sec.flash.pick 1 (bitAt s.freeVal 0) = some b)
    (h' : (picked s 1 b).sec.flash.pick 2 (bitAt (picked s 1 b).freeVal 0) = none) : s.stageOne r = (picked s 1 b).stopBoot 4 := by
  unfold State.stageOne
  rw [bootTarget_some h]
  dsimp only
  rw [bootTarget_none h']

/-- The fields of the security core that the wear log does not hold. -/
theorem secKept_fields {t u : State} (h : SecKept t u) : u.sec.bootedBank = t.sec.bootedBank ∧ u.sec.versions = t.sec.versions ∧
    u.sec.slots = t.sec.slots ∧ u.sec.bootId = t.sec.bootId ∧ u.sec.identity = t.sec.identity ∧ u.sec.alias_ = t.sec.alias_ ∧
    u.sec.flash.banks = t.sec.flash.banks ∧ u.sec.flash.floors = t.sec.flash.floors := by
  have view : secView u = secView t := h
  have bank := congrArg Sec.bootedBank view
  have versions := congrArg Sec.versions view
  have slots := congrArg Sec.slots view
  have bootId := congrArg Sec.bootId view
  have identity := congrArg Sec.identity view
  have aliasKept := congrArg Sec.alias_ view
  have banks := congrArg (fun x : Sec => x.flash.banks) view
  have floors := congrArg (fun x : Sec => x.flash.floors) view
  exact ⟨bank, versions, slots, bootId, identity, aliasKept, banks, floors⟩

end

/-- Firmware is up with every line in its default class. -/
theorem firmwareReady_completes {s : State} (p : s.powered = true) (h : s.module.stage = 7 ∨ (s.module.stage = 3 ∧ s.module.booted = true)) :
    Completes .firmwareReady s (fun t => t.module = { s.module with stage := 4 } ∧
      (∀ n, n < 76 → (t.icLine n).masked = false ∧ (t.icLine n).fast = fastLine n ∧ (t.icLine n).pending = (s.icLine n).pending) ∧
      t.mem = s.mem ∧ t.parts = s.parts ∧ t.regs = s.regs) := by
  have kept := only_postAll (within_refl _) 0 1 0 (Tab.get (fun _ => 0) s.sec.versions 1).toNat (only_refl _ (firmwareRouted s))
  obtain ⟨module, mem, parts, regs⟩ := routeLines_rest (s := s)
  have intr := kept.same .intr (by simp)
  refine completes_next (exec_firmwareReady p h) ⟨(kept.same .module (by simp)).trans (firmwareRouted_module),
    fun n hn => ?_, (kept.same .mem (by simp)).trans mem, (kept.same .parts (by simp)).trans parts, (kept.same .regs (by simp)).trans regs⟩
  have line : ((firmwareRouted s).postAll 0 1 0 (Tab.get (fun _ => 0) s.sec.versions 1).toNat).icLine n = routed s.free n (s.icLine n) :=
    (icLine_congr intr n).trans (routeLines_icLine hn)
  rw [line]
  exact ⟨rfl, rfl, rfl⟩

/-- The functions follow the written configuration. -/
theorem configurationWrite_completes (n : Fin 9) (vfs ptm : Bool) (s : State) : Completes (.configurationWrite n vfs ptm) s (fun t =>
    t.module = { s.module with numVfs := n.val, vfEnable := vfs, ptmEnable := ptm } ∧
    (∀ k, 1 ≤ k → k ≤ 8 → t.present k = (vfs && decide (k ≤ n.val))) ∧
    (∀ k, 1 ≤ k → k ≤ 8 → s.present k = true → t.present k = false → t.fn k = Fn.reset) ∧
    (∀ k, s.present k = false ∨ t.present k = true → t.fn k = s.fn k) ∧ t.mem = s.mem ∧ t.parts = s.parts) := by
  have kept := leave_only (fnLeaves s n vfs ptm) ((List.range 8).map (· + 1)) (configured s n vfs ptm)
  have fns := leave_fn (fnLeaves s n vfs ptm) ((List.range 8).map (· + 1)) (configured s n vfs ptm)
  refine completes_next (i := .configurationWrite n vfs ptm) exec_configurationWrite ?_
  generalize ((List.range 8).map (· + 1)).foldl (fun (u : State) k => if fnLeaves s n vfs ptm k then u.resetFn k else u)
    (configured s n vfs ptm) = t at kept fns
  have module : t.module = (configured s n vfs ptm).module := kept.same .module (by simp)
  have present (k : Nat) : t.present k = (configured s n vfs ptm).present k := by
    unfold State.present
    rw [module]
  refine ⟨module, fun k lo hi => ?_, fun k lo hi before after => ?_, fun k h => ?_, kept.same .mem (by simp), kept.same .parts (by simp)⟩
  · have positive : (k == 0) = false := beq_false_of_ne (by omega)
    rw [present]
    show (k == 0 || (vfs && decide (k ≤ n.val))) = _
    rw [positive]
    rfl
  · rw [fns, if_pos ⟨mem_functions.mpr ⟨lo, hi⟩, by rw [fnLeaves, ← present, before, after]; rfl⟩]
  · have stays : fnLeaves s n vfs ptm k = false := by
      rw [fnLeaves, ← present]
      obtain h | h := h <;> simp [h]
    rw [fns, if_neg (by simp [stays])]
    rfl

/-- Settles O51: the boot goes through its targets one by one; each stop is the first failure, and what the measurements and the self
tests leave is said field by field. -/
theorem bootEndsOrStops : Obligations.BootEndsOrStops := by
  unfold Obligations.BootEndsOrStops
  refine ⟨fun r s p st b => ?_, fun r s h => completes_next (exec_boot_none h) rfl, fun s h => completes_next (exec_firmwareReady_none h) rfl,
    fun s h => completes_next (exec_perstNDeassert_none h) rfl, fun s p h => firmwareReady_completes p h, fun s h => completes_next (exec_perstNDeassert h) rfl,
    configurationWrite_completes⟩
  · intro f equal s1 s2 pick stops
    have run : exec (.boot r) s = .next (s.boot r) := exec_boot p st b
    have stopped {t : State} {code : Nat} (u : State) (e : t = u.stopBoot code) (booted : u.module.booted = false)
        (banks : u.sec.flash = f) : t.module.stage = 5 ∧ t.module.stop = code ∧ t.module.alert = true ∧ t.module.booted = false ∧
          t.sec.flash.banks = f.banks := by
      subst e
      exact ⟨rfl, rfl, rfl, booted, congrArg Flash.banks banks⟩
    refine ⟨fun h => completes_next run (stopped s (boot_identity h) b rfl),
      fun h h' => completes_next run (stopped s (boot_protected h h') b rfl), fun h h' => ⟨fun pick0 => ?_, fun a pick0 => ?_⟩⟩
    · exact completes_next run (stopped s (boot_noTarget h h' pick0) b rfl)
    obtain ⟨kept0, module0, -, -, -, taken0⟩ := picked_rest (s := s) 0 a
    have flash0 : ((picked s 0 a).startTime r.ga).sec.flash = f := kept0
    have free0 : ((picked s 0 a).startTime r.ga).free = s1.free := by
      have started : ((picked s 0 a).startTime r.ga).free = (picked s 0 a).free := rfl
      rw [started, taken0, tieTaken_eq]
    have booted0 : ((picked s 0 a).startTime r.ga).module.booted = false := (congrArg Module.booted module0).trans b
    have stage0 := boot_stageZero h h' pick0
    have same1 : ((picked s 0 a).startTime r.ga).sec.flash.pick 1 (bitAt ((picked s 0 a).startTime r.ga).freeVal 0) = pick 1 := by
      unfold State.freeVal
      rw [flash0, free0]
      rfl
    refine ⟨fun pick1 => ?_, fun b' pick1 => ?_⟩
    · exact completes_next run (stopped _ (stage0.trans (stageOne_none (same1.trans pick1))) booted0 flash0)
    obtain ⟨kept1, module1, -, -, -, taken1⟩ := picked_rest (s := (picked s 0 a).startTime r.ga) 1 b'
    have flash1 : (picked ((picked s 0 a).startTime r.ga) 1 b').sec.flash = f := kept1.trans flash0
    have free1 : (picked ((picked s 0 a).startTime r.ga) 1 b').free = s2.free := by
      rw [taken1, tieTaken_eq, flash0]
      show (if equal 1 = true then _ else _ : State).free = (if equal 1 = true then _ else _ : State).free
      split
      · exact congrArg (· + 1) free0
      · exact free0
    have same2 : (picked ((picked s 0 a).startTime r.ga) 1 b').sec.flash.pick 2
        (bitAt (picked ((picked s 0 a).startTime r.ga) 1 b').freeVal 0) = pick 2 := by
      unfold State.freeVal
      rw [flash1, free1]
      rfl
    refine ⟨fun pick2 => ?_, fun c pick2 => ?_⟩
    · exact completes_next run (stopped _ (stage0.trans (stageOne_noneTwo (same1.trans pick1) (same2.trans pick2)))
        ((congrArg Module.booted module1).trans booted0) flash1)
    have stage1 : s.boot r = (measured (targetsPicked s r.ga a b' c) r).selfTest r :=
      stage0.trans (stageOne_some r (same1.trans pick1) (same2.trans pick2))
    obtain ⟨flash2, module2, time2⟩ := targetsPicked_rest (s := s) (a := a) (b := b') (c := c) r.ga
    obtain ⟨flash3, bank3, versions3, id3, identity3, alias3, module3, time3, -⟩ := measured_facts (s := targetsPicked s r.ga a b' c) r
    refine ⟨fun bad => ?_, fun good => ?_⟩
    · exact completes_next run (stopped _ (stage1.trans (selfTest_fabric bad))
        ((congrArg Module.booted (module3.trans module2)).trans b) (flash3.trans flash2))
    have frame := only_boot (within_refl _) r (only_refl _ s)
    have parts : (s.boot r).parts = s.parts := frame.same .parts (by simp)
    have regs : (s.boot r).regs = s.regs := frame.same .regs (by simp)
    obtain ⟨bank, versions, slots, bootId, identity, aliasKept, banks, floors⟩ :=
      secKept_fields (secKept_partsTested (s := measured (targetsPicked s r.ga a b' c) r) r)
    have tested := selfTest_good (s := measured (targetsPicked s r.ga a b' c) r) good
    have time : ((measured (targetsPicked s r.ga a b' c) r).selfTest r).time = { TimeBase.reset with running := true } :=
      ((only_selfTest (within_refl _) r (only_refl _ _)).same .time (by simp)).trans (time3.trans time2)
    have core : (s.boot r).sec = (partsTested (measured (targetsPicked s r.ga a b' c) r) r).sec := by rw [stage1, tested]
    have module : (s.boot r).module = { s.module with
        ga := r.ga, electrical := if s.module.perst then .inReset else .running, stage := 3, booted := true } := by
      rw [stage1, tested]
      show ({ (partsTested _ r).module with stage := 3, booted := true } : Module) = _
      rw [partsTested_module, module3, module2]
    have slot (k : Nat) (h3 : k ≠ 3) (h4 : k ≠ 4) (h5 : k ≠ 5) : (s.boot r).slotValue k = (targetsPicked s r.ga a b' c).slotValue k :=
      (slotValue_congr ((congrArg Sec.slots core).trans slots) k).trans (measured_slot r h3 h4 h5)
    obtain ⟨bankA, bankB, bankC⟩ := targetsPicked_bank (s := s) r.ga (pick_lt pick0) (pick_lt pick1) (pick_lt pick2)
    have mem : (s.boot r).mem = [] := by rw [stage1, tested]
    have time' : (s.boot r).time = { TimeBase.reset with running := true } := by rw [stage1, time]
    refine completes_next run ⟨?_, ?_, mem, ?_, ?_, ?_, ?_, ?_, ?_, ?_, ?_, fun k x hk => ⟨?_, ?_⟩, ?_, ?_, ?_, ?_, ?_, ?_, parts, regs⟩
    · rw [module]
    · rw [module]
    · rw [time']
      rfl
    · rw [time']
    · rw [time']
      rfl
    · rw [module]
    · rw [module]
    · rw [core, bank, bank3]
      exact bankA
    · rw [core, bank, bank3]
      exact bankB
    · rw [core, bank, bank3]
      exact bankC
    · rw [core, versions, versions3]
      exact (targetsPicked_measures r.ga k x hk).1
    · have small : k < 3 := by
        simp only [List.mem_cons, List.not_mem_nil, or_false, Prod.mk.injEq] at hk
        omega
      rw [slot k (by omega) (by omega) (by omega)]
      exact (targetsPicked_measures r.ga k x hk).2
    · rw [slot 6 (by decide) (by decide) (by decide)]
      exact targetsPicked_slot_ne r.ga (by decide)
    · rw [core, bootId, id3]
    · rw [core, identity, identity3]
    · rw [core, aliasKept, alias3]
    · rw [core, banks, flash3, flash2]
    · rw [core, floors, flash3, flash2]

end Sys2Proof.Proofs
end

section
/-! PROOF of sieves (14 R365 to R368) -/

namespace Sys2Proof.Proofs

open Sys2Proof Sys2Proof.Machine Sys2Proof.Laws

/-! ### Sieves (14 R365 to R368) -/

section

variable {s : State}

/-- A line that is read counts no line checked. -/
theorem sieveLine_sum (z : SieveSum) (pln : Nat) : (s.sieveLine z pln).2.checked = z.checked ∧ (s.sieveLine z pln).2.cut = z.cut := by
  unfold State.sieveLine
  dsimp only
  repeat' split
  all_goals exact ⟨rfl, rfl⟩

theorem sieveLines_sum (z : SieveSum) (ls : List Nat) :
    (s.sieveLines z ls).2.checked = z.checked ∧ (s.sieveLines z ls).2.cut = z.cut := by
  unfold State.sieveLines
  induction ls generalizing s z with
  | nil => exact ⟨rfl, rfl⟩
  | cons l ls ih =>
    obtain ⟨checked, cut⟩ := sieveLine_sum (s := s) z l
    obtain ⟨checked', cut'⟩ := ih (s := (s.sieveLine z l).1) (s.sieveLine z l).2
    exact ⟨checked'.trans checked, cut'.trans cut⟩

theorem exec_sieveDescriptor {fn : FnId} {r : RingId} {d : Line} {rest : List Line} (h : (s.ring fn r).fetched = d :: rest) (hf : fn.val ≠ 0)
    (ht : s.ringType fn r = 3) (hd : lineNat d 0 1 = 0x24) (hw : s.works (fn.val - 1) = true) :
    execSieveDescriptor fn r s = .next (if s.regionSieveStatus (fn.val - 1) d = 0 then
      (s.popFetched fn r).addSieve fn (some r) (some (vRegion d)) d ((s.region (vRegion d)).stackList.filter
        (fun st => decide (0 < (s.region (vRegion d)).linesIn st (vStart d / 64) (vLines d))))
      else (s.popFetched fn r).copyAnswer fn r 0x24 (s.regionSieveStatus (fn.val - 1) d) (vId d) 0 0 s.nowNat []) := by
  unfold execSieveDescriptor
  dsimp only
  rw [h]
  dsimp only
  rw [if_neg (by simp [hf, ht, hd, hw])]
  cases s.regionSieveStatus (fn.val - 1) d with
  | zero => rfl
  | succ n => rfl

theorem sieveGo_busy (h : s.memory.sieve.busy = true) : s.sieveGo = s := if_pos h

/-- The status of a module sieve. -/
def goStatus (d : Line) : Nat := if badSieve 1 d then 0x3D else if 2 ^ 34 < vStart d + vLines d then 0x3C else 0

/-- The control word after a write of MOD_SIEVE_GO. -/
def goTaken (s : State) : State :=
  { s with memory := { s.memory with sieve := { s.memory.sieve with
      busy := decide (goStatus s.sieveDesc = 0), status := BitVec.ofNat 8 (goStatus s.sieveDesc), lastId := BitVec.ofNat 16 (vId s.sieveDesc) } } }

theorem sieveGo_free (h : s.memory.sieve.busy = false) : s.sieveGo = if goStatus s.sieveDesc = 0 then
    (goTaken s).addSieve 0 none none s.sieveDesc ((List.range 16).filter (fun k =>
      decide (2 ^ 30 * k < vStart s.sieveDesc + vLines s.sieveDesc) && decide (vStart s.sieveDesc < 2 ^ 30 * (k + 1))))
    else goTaken s := if_neg (by simp [h])

theorem exec_modSieveGo {fn : FnId} (h : fn.val = 0) (up : s.firmwareUp = true) : execModSieveGo fn s = .next s.sieveGo := by
  unfold execModSieveGo
  exact congrArg Host.Outcome.next (if_pos ⟨h, up⟩)

/-- The reads of the oldest sieve's next stack. -/
def stackSieved (s : State) (j : SieveJob) (st : Nat) : State × SieveSum :=
  s.sieveLines { SieveSum.zero with checked := (s.sieveSpan j st).1, cut := (s.sieveSpan j st).2.2 } (s.sieveSpan j st).2.1

/-- The summary of a stack. -/
def stackSum (s : State) (j : SieveJob) (st : Nat) : SieveSum :=
  { (stackSieved s j st).2 with blank := (stackSieved s j st).2.blank + ((s.sieveSpan j st).1 - (s.sieveSpan j st).2.1.length) }

/-- The summary on its way to the host, and announced. -/
def stackReported (s : State) (j : SieveJob) (st : Nat) : State :=
  ((stackSieved s j st).1.hostWrite j.fn (j.summary + 256 * st) (sumBytes j.id st (stackSum s j st) s.nowNat)).post j.fn 5 4 st j.id

/-- The sieve after a stack. -/
def stackDone (j : SieveJob) (st : Nat) (z : SieveSum) : SieveJob :=
  { j with stackList := j.stackList.drop 1, summaries := j.summaries ++ [(st, z)] }

/-- The queue with the sieve after its stack. -/
def queueAdvanced (t : State) (k : SieveJob) : State :=
  { t with memory := { t.memory with sieve := { t.memory.sieve with queue := k :: t.memory.sieve.queue.drop 1 } } }

theorem exec_sieveStackDone {st : StackId} {j : SieveJob} {rest : List SieveJob} (h : s.memory.sieve.queue = j :: rest)
    (hs : j.stackList.head? = some st.val) (up : s.firmwareUp = true) : execSieveStackDone st s = .next
      (if (j.stackList.drop 1).isEmpty then
        (queueAdvanced (stackReported s j st) (stackDone j st (stackSum s j st))).endSieve (stackDone j st (stackSum s j st))
      else queueAdvanced (stackReported s j st) (stackDone j st (stackSum s j st))) := by
  unfold execSieveStackDone
  rw [h]
  dsimp only
  rw [if_neg (by simp [hs, up])]
  rfl

theorem stackReported_only (j : SieveJob) (st : Nat) : Only [.out, .unsent, .fns, .buckets] (stackSieved s j st).1 (stackReported s j st) :=
  only_post (within_sub (by decide) (within_refl _)) _ _ _ _ _ (only_hostWrite (within_sub (by decide) (within_refl _)) _ _ _ (only_refl _ _))

theorem stackReported_queue (j : SieveJob) (st : Nat) : (stackReported s j st).memory.sieve = s.memory.sieve :=
  sieveKept_only (stackReported_only j st) (by simp) (sieveKept_sieveLines _ _ rfl)

/-- The summary leaves for the host. -/
theorem stackReported_out (up : s.firmwareUp = true) (j : SieveJob) (st : Nat) : ∃ a b, (stackReported s j st).out = a ++
    hostChunks (.hostWrite j.fn) ((sumBytes j.id st (stackSum s j st) s.nowNat).length + 1) (j.summary + 256 * st)
      (sumBytes j.id st (stackSum s j st) s.nowNat) ++ b := by
  have module : (stackSieved s j st).1.module = s.module := (only_sieveLines (within_refl _) _ _ (only_refl _ s)).same .module (by simp)
  have good : (stackSieved s j st).1.linkGood = true := by
    unfold State.linkGood
    rw [module]
    simp only [State.firmwareUp, Bool.and_eq_true] at up
    exact up.2
  have sent : ((stackSieved s j st).1.hostWrite j.fn (j.summary + 256 * st) (sumBytes j.id st (stackSum s j st) s.nowNat)).out =
      (stackSieved s j st).1.out ++ hostChunks (.hostWrite j.fn) ((sumBytes j.id st (stackSum s j st) s.nowNat).length + 1)
        (j.summary + 256 * st) (sumBytes j.id st (stackSum s j st) s.nowNat) := by
    unfold State.hostWrite State.toHost
    rw [if_pos good]
  obtain ⟨b, hb⟩ : OutGrows _ (stackReported s j st) := grows_post j.fn 5 4 st j.id grows_refl
  exact ⟨(stackSieved s j st).1.out, b, by rw [← hb, sent]⟩

theorem endSieve_facts (k : SieveJob) : Only [.out, .unsent, .fns, .buckets, .memory] s (s.endSieve k) ∧
    (s.endSieve k).memory.sieve.queue = s.memory.sieve.queue.drop 1 ∧ OutGrows s (s.endSieve k) := by
  refine ⟨?_, ?_, ?_⟩
  · exact only_endSieve (within_sub (by decide) (within_refl _)) k (only_refl _ s)
  · unfold State.endSieve
    dsimp only
    cases k.ring with
    | none => rfl
    | some r =>
      have memory := (copyAnswer_only (t := { s with memory := { s.memory with sieve := { s.memory.sieve with queue := s.memory.sieve.queue.drop 1 } } })
        k.fn r 0x24 0 k.id 0 0 k.startedAt.toNat []).same .memory (by simp)
      dsimp only
      rw [memory]
  · unfold State.endSieve
    dsimp only
    cases k.ring with
    | none => exact grows_refl
    | some r => exact grows_putRing _ _ _ (grows_set_memory _ grows_refl)

end

/-- Settles O40: the queue of sieves grows at its end, and its oldest sieve goes on stack by stack. -/
theorem sievesAreQueuedAndServedStackByStack : Obligations.SievesAreQueuedAndServedStackByStack := by
  unfold Obligations.SievesAreQueuedAndServedStackByStack
  refine ⟨fun fn r s d rest h hf ht hd hw => ?_, fun fn s h up => ⟨fun busy => ?_, fun free good inside => ?_, fun free bad => ?_⟩,
    fun st s j rest h hs up => ?_⟩
  · intro status
    have run := exec_sieveDescriptor h hf ht hd hw
    refine ⟨fun z => ?_, fun nz => ?_⟩
    · refine completes_next (run.trans (congrArg Host.Outcome.next (if_pos z))) ⟨⟨_, rfl, rfl, rfl, rfl, rfl, rfl, rfl, rfl⟩, ?_, rfl⟩
      have popped : ((s.popFetched fn r).ring fn r).fetched = (s.ring fn r).fetched.drop 1 := congrArg Ring.fetched (modRing_ring_same _ _ _ _)
      exact popped.trans (congrArg (List.drop 1) h)
    · have answered := copyAnswer_only (t := s.popFetched fn r) fn r 0x24 (s.regionSieveStatus (fn.val - 1) d) (vId d) 0 0 s.nowNat []
      exact completes_next (run.trans (congrArg Host.Outcome.next (if_neg nz))) ⟨answered.same .memory (by simp), answered.same .mem (by simp), rfl⟩
  · exact completes_next (exec_modSieveGo h up) (sieveGo_busy busy)
  · have status : goStatus s.sieveDesc = 0 := by
      unfold goStatus
      rw [if_neg (by simp [good]), if_neg (by omega)]
    refine completes_next ((exec_modSieveGo h up).trans (congrArg Host.Outcome.next ((sieveGo_free free).trans (if_pos status)))) ?_
    refine ⟨?_, ?_, ⟨_, rfl, rfl, rfl, rfl, rfl⟩, rfl⟩
    · exact decide_eq_true status
    · exact congrArg (BitVec.ofNat 8) status
  · have status : goStatus s.sieveDesc = if badSieve 1 s.sieveDesc then 0x3D else 0x3C := by
      unfold goStatus
      obtain bad | outside := bad
      · rw [if_pos bad, if_pos bad]
      · rw [if_pos outside]
    have refused : goStatus s.sieveDesc ≠ 0 := by
      rw [status]
      split <;> decide
    refine completes_next ((exec_modSieveGo h up).trans (congrArg Host.Outcome.next ((sieveGo_free free).trans (if_neg refused)))) ?_
    refine ⟨decide_eq_false refused, ?_, rfl, rfl⟩
    show BitVec.ofNat 8 (goStatus s.sieveDesc) = _
    rw [status]
    split <;> rfl
  · have queue : (stackReported s j st).memory.sieve.queue = j :: rest := (congrArg SieveCtl.queue (stackReported_queue j st)).trans h
    have advanced : (queueAdvanced (stackReported s j st) (stackDone j st (stackSum s j st))).memory.sieve.queue =
        stackDone j st (stackSum s j st) :: rest := by
      have tail := congrArg (fun q : List SieveJob => stackDone j st (stackSum s j st) :: q.drop 1) queue
      exact tail
    have regs : (stackReported s j st).regs = s.regs :=
      ((stackReported_only j st).same .regs (by simp)).trans ((only_sieveLines (within_refl _) _ _ (only_refl _ s)).same .regs (by simp))
    obtain ⟨a, b, out⟩ := stackReported_out up j st
    obtain ⟨checked, cut⟩ := sieveLines_sum (s := s) { SieveSum.zero with checked := (s.sieveSpan j st).1, cut := (s.sieveSpan j st).2.2 }
      (s.sieveSpan j st).2.1
    refine completes_next (exec_sieveStackDone h hs up) ⟨stackSum s j st, checked, cut, ?_⟩
    cases last : j.stackList.drop 1 with
    | nil =>
      rw [if_pos (by rfl)]
      obtain ⟨kept, gone, c, grown⟩ := endSieve_facts (s := queueAdvanced (stackReported s j st) (stackDone j st (stackSum s j st)))
        (stackDone j st (stackSum s j st))
      refine ⟨⟨a, b ++ c, ?_⟩, fun more => absurd rfl more, fun _ => gone.trans (congrArg (List.drop 1) advanced),
        (kept.same .regs (by simp)).trans regs⟩
      rw [← grown, ← List.append_assoc]
      exact congrArg (· ++ c) out
    | cons x xs =>
      rw [if_neg (by simp)]
      refine ⟨⟨a, b, out⟩, fun _ => advanced.trans ?_, fun none => absurd none (by simp), regs⟩
      rw [← last]
      rfl

end Sys2Proof.Proofs
end

section
/-! PROOF of sensor sites and lost clock domains (17 R423 to R428; 18 R434) -/

namespace Sys2Proof.Proofs

open Sys2Proof Sys2Proof.Machine Sys2Proof.Laws

/-! ### A loss clears no pending line (12 R330; 13 R347) -/

/-- The lines that are pending stay so. -/
structure LinesRise (s t : State) : Prop where
  pending : ∀ k, (s.icLine k).pending = true → (t.icLine k).pending = true

section

variable {s₀ : State}

theorem rises_refl {s : State} : LinesRise s s := ⟨fun _ h => h⟩

theorem rises_only {s t : State} {L : List Fld} (h : Only L s t) (hm : Fld.intr ∉ L) (hs : LinesRise s₀ s) : LinesRise s₀ t := by
  refine ⟨fun k hk => ?_⟩
  have same : t.intr = s.intr := h.same .intr hm
  rw [icLine_congr same]
  exact hs.pending k hk

theorem rises_foldl {α : Type} {g : State → α → State} {l : List α} {s : State} (h : LinesRise s₀ s)
    (hg : ∀ t a, LinesRise s₀ t → LinesRise s₀ (g t a)) : LinesRise s₀ (l.foldl g s) := by
  induction l generalizing s with
  | nil => exact h
  | cons a l ih => exact ih (hg s a h)

theorem rises_fst {α : Type} {t : State} {x : State × α} {o : α} (hx : x = (t, o)) (h : LinesRise s₀ x.1) : LinesRise s₀ t := by
  rw [hx] at h
  exact h

theorem rises_mk {pending free out unsent clusters quarters stackTab engines mem memory parts partCtl copies nextCopy fns buckets regs links sec
    power time module spares} {s : State} (h : LinesRise s₀ s) : LinesRise s₀ ⟨pending, free, out, unsent, clusters, quarters, stackTab,
    engines, mem, memory, parts, partCtl, copies, nextCopy, fns, buckets, s.intr, regs, links, sec, power, time, module, spares⟩ := ⟨h.pending⟩

theorem rises_interruptCommand {s : State} (h : LinesRise s₀ s) : LinesRise s₀ (State.interruptCommand s) :=
  rises_only (only_interruptCommand (within_refl _)  (only_refl _ s)) (by simp) h

theorem rises_dropSieves {s : State} (h : LinesRise s₀ s) : LinesRise s₀ (State.dropSieves s) :=
  rises_only (only_dropSieves (within_refl _)  (only_refl _ s)) (by simp) h

theorem rises_dropTensors {s : State} (p : Nat) (h : LinesRise s₀ s) : LinesRise s₀ (State.dropTensors s p) :=
  rises_only (only_dropTensors (within_refl _) p (only_refl _ s)) (by simp) h

theorem rises_blankFw {s : State} (p : Nat) (h : LinesRise s₀ s) : LinesRise s₀ (State.blankFw s p) :=
  rises_only (only_blankFw (within_refl _) p (only_refl _ s)) (by simp) h

theorem rises_modPart {s : State} (p : Nat) (f : Part → Part) (h : LinesRise s₀ s) : LinesRise s₀ (State.modPart s p f) :=
  rises_only (only_modPart (within_refl _) p f (only_refl _ s)) (by simp) h

theorem rises_tdiFails {s : State} (p : Nat) (h : LinesRise s₀ s) : LinesRise s₀ (State.tdiFails s p) :=
  rises_only (only_tdiFails (within_refl _) p (only_refl _ s)) (by simp) h

theorem rises_destroyKeys {s : State} (p : Nat) (h : LinesRise s₀ s) : LinesRise s₀ (State.destroyKeys s p) :=
  rises_only (only_destroyKeys (within_refl _) p (only_refl _ s)) (by simp) h

theorem rises_modClusters {s : State} (cs : List Nat) (f : Cluster → Cluster) (h : LinesRise s₀ s) : LinesRise s₀ (State.modClusters s cs f) :=
  rises_only (only_modClusters (within_refl _) cs f (only_refl _ s)) (by simp) h

theorem rises_abortRuns {s : State} (p : Nat) (h : LinesRise s₀ s) : LinesRise s₀ (State.abortRuns s p) :=
  rises_only (only_abortRuns (within_refl _) p (only_refl _ s)) (by simp) h

theorem rises_emptyRound {s : State} (p : Nat) (h : LinesRise s₀ s) : LinesRise s₀ (State.emptyRound s p) :=
  rises_only (only_emptyRound (within_refl _) p (only_refl _ s)) (by simp) h

theorem rises_modRound {s : State} (p : Nat) (f : Round → Round) (h : LinesRise s₀ s) : LinesRise s₀ (State.modRound s p f) :=
  rises_only (only_modRound (within_refl _) p f (only_refl _ s)) (by simp) h

theorem rises_stopJournal {s : State} (p : Nat) (h : LinesRise s₀ s) : LinesRise s₀ (State.stopJournal s p) :=
  rises_only (only_stopJournal (within_refl _) p (only_refl _ s)) (by simp) h

theorem rises_faultDue {s : State} (p : Nat) (h : LinesRise s₀ s) : LinesRise s₀ (State.faultDue s p) :=
  rises_only (only_faultDue (within_refl _) p (only_refl _ s)) (by simp) h

theorem rises_useFree {s : State} (h : LinesRise s₀ s) : LinesRise s₀ (State.useFree s) :=
  rises_only (only_useFree (within_refl _)  (only_refl _ s)) (by simp) h

theorem rises_hostWrite {s : State} (fn addr : Nat) (bs : List Byte) (h : LinesRise s₀ s) : LinesRise s₀ (State.hostWrite s fn addr bs) :=
  rises_only (only_hostWrite (within_refl _) fn addr bs (only_refl _ s)) (by simp) h

theorem rises_writeSpot {s : State} (x : Spot) (v : Nat) (h : LinesRise s₀ s) : LinesRise s₀ (State.writeSpot s x v) :=
  rises_only (only_writeSpot (within_refl _) x v (only_refl _ s)) (by simp) h

theorem rises_corrected {s : State} (pln : Nat) (h : LinesRise s₀ s) : LinesRise s₀ (State.corrected s pln) :=
  rises_only (only_corrected (within_refl _) pln (only_refl _ s)) (by simp) h

theorem rises_setStored {s : State} (pln : Nat) (bs : List Byte) (h : LinesRise s₀ s) : LinesRise s₀ (State.setStored s pln bs) :=
  rises_only (only_setStored (within_refl _) pln bs (only_refl _ s)) (by simp) h

theorem rises_modCe {s : State} (c : Nat) (f : Ce → Ce) (h : LinesRise s₀ s) : LinesRise s₀ (State.modCe s c f) :=
  rises_only (only_modCe (within_refl _) c f (only_refl _ s)) (by simp) h

theorem rises_recordError {s : State} (source severity code pln partition : Nat) (h : LinesRise s₀ s) : LinesRise s₀ (State.recordError s source severity code pln partition) :=
  rises_only (only_recordError (within_refl _) source severity code pln partition (only_refl _ s)) (by simp) h

theorem rises_postTo {s : State} (fns : List Nat) (block code inst arg : Nat) (h : LinesRise s₀ s) : LinesRise s₀ (State.postTo s fns block code inst arg) :=
  rises_only (only_postTo (within_refl _) fns block code inst arg (only_refl _ s)) (by simp) h

theorem rises_badFirmwareLine {s : State} (r : Region) (pln : Nat) (h : LinesRise s₀ s) : LinesRise s₀ (State.badFirmwareLine s r pln) :=
  rises_only (only_badFirmwareLine (within_refl _) r pln (only_refl _ s)) (by simp) h

theorem rises_queueRepair {s : State} (pln n p : Nat) (h : LinesRise s₀ s) : LinesRise s₀ (State.queueRepair s pln n p) :=
  rises_only (only_queueRepair (within_refl _) pln n p (only_refl _ s)) (by simp) h

theorem rises_writeLine {s : State} (pln : Nat) (l : Line) (h : LinesRise s₀ s) : LinesRise s₀ (State.writeLine s pln l) :=
  rises_only (only_writeLine (within_refl _) pln l (only_refl _ s)) (by simp) h

theorem rises_blankRegion {s : State} (r : Region) (h : LinesRise s₀ s) : LinesRise s₀ (State.blankRegion s r) :=
  rises_only (only_blankRegion (within_refl _) r (only_refl _ s)) (by simp) h

theorem rises_modRegion {s : State} (n : Nat) (f : Region → Region) (h : LinesRise s₀ s) : LinesRise s₀ (State.modRegion s n f) :=
  rises_only (only_modRegion (within_refl _) n f (only_refl _ s)) (by simp) h

theorem rises_invalidate {s : State} (rg : Region) (p : Nat) (h : LinesRise s₀ s) : LinesRise s₀ (State.invalidate s rg p) :=
  rises_only (only_invalidate (within_refl _) rg p (only_refl _ s)) (by simp) h

theorem rises_abortOne {s : State} (e : Nat) (h : LinesRise s₀ s) : LinesRise s₀ (State.abortOne s e) :=
  rises_only (only_abortOne (within_refl _) e (only_refl _ s)) (by simp) h

theorem rises_endSessions {s : State} (h : LinesRise s₀ s) : LinesRise s₀ (State.endSessions s) :=
  rises_only (only_endSessions (within_refl _)  (only_refl _ s)) (by simp) h

theorem rises_cutRings {s : State} (fn : Nat) (h : LinesRise s₀ s) : LinesRise s₀ (State.cutRings s fn) :=
  rises_only (only_cutRings (within_refl _) fn (only_refl _ s)) (by simp) h

theorem rises_latch {s : State} (n : Nat) (h : LinesRise s₀ s) : LinesRise s₀ (State.latch s n) := by
  refine ⟨fun k hk => ?_⟩
  have before := h.pending k hk
  unfold State.latch
  by_cases e : k = n
  · subst e
    rw [modIcLine_icLine_same]
  · rw [modIcLine_icLine_ne _ _ _ _ e]
    exact before

theorem rises_badLine {s : State} (source pln partition : Nat) (sealBad merge : Bool) (h : LinesRise s₀ s) : LinesRise s₀ (State.badLine s source pln partition sealBad merge) := by
  dsimp only [State.badLine]
  repeat' first
    | with_reducible assumption
    | with_reducible apply rises_modCe
    | with_reducible apply rises_recordError
    | with_reducible apply rises_latch
    | with_reducible apply rises_setStored
    | with_reducible apply rises_postTo
    | with_reducible apply rises_badFirmwareLine
    | with_reducible apply rises_queueRepair
    | split

theorem rises_readLineFor {s : State} (source pln partition : Nat) (merge : Bool) (h : LinesRise s₀ s) : LinesRise s₀ (State.readLineFor s source pln partition merge).1 := by
  dsimp only [State.readLineFor]
  repeat' first
    | with_reducible assumption
    | with_reducible apply rises_badLine
    | with_reducible apply rises_corrected
    | with_reducible apply rises_setStored
    | split

theorem rises_readLine {s : State} (source pln partition : Nat) (h : LinesRise s₀ s) : LinesRise s₀ (State.readLine s source pln partition).1 := by
  dsimp only [State.readLine]
  repeat' first
    | with_reducible assumption
    | with_reducible apply rises_readLineFor

theorem rises_mergeLine {s : State} (source pln partition pos len v : Nat) (h : LinesRise s₀ s) : LinesRise s₀ (State.mergeLine s source pln partition pos len v).1 := by
  dsimp only [State.mergeLine]
  repeat' first
    | with_reducible assumption
    | with_reducible apply rises_writeLine
    | with_reducible apply rises_readLineFor
    | split
    | refine rises_fst (by with_reducible assumption) ?_

theorem rises_readSpot {s : State} (p : Nat) (ext : List (Spot × Line)) (x : Spot) (h : LinesRise s₀ s) : LinesRise s₀ (State.readSpot s p ext x).1 := by
  dsimp only [State.readSpot]
  repeat' first
    | with_reducible assumption
    | with_reducible apply rises_readLine
    | split
    | refine rises_fst (by with_reducible assumption) ?_

theorem rises_readSpots {s : State} (p : Nat) (ext : List (Spot × Line)) (l : List Spot) (h : LinesRise s₀ s) : LinesRise s₀ ((State.readSpots s p ext) l).1 := by
  induction l generalizing s with
  | nil => exact h
  | cons a l ih =>
    dsimp only [State.readSpots]
    repeat' first
      | with_reducible assumption
      | with_reducible apply ih
      | with_reducible apply rises_readSpot
      | split
      | refine rises_fst (by with_reducible assumption) ?_

theorem rises_applyPiece {s : State} (p : Nat) (x : Piece) (h : LinesRise s₀ s) : LinesRise s₀ (State.applyPiece s p x).1 := by
  dsimp only [State.applyPiece]
  repeat' first
    | with_reducible assumption
    | with_reducible apply rises_foldl
    | intro _ _ _
    | with_reducible apply rises_mergeLine
    | with_reducible apply rises_hostWrite
    | with_reducible apply rises_readSpot
    | with_reducible apply rises_writeSpot
    | with_reducible apply rises_readSpots
    | split
    | refine rises_fst (by with_reducible assumption) ?_

theorem rises_applyAny {s : State} (p : Nat) (xs : List Piece) (h : LinesRise s₀ s) : LinesRise s₀ (State.applyAny s p xs) := by
  dsimp only [State.applyAny]
  repeat' first
    | with_reducible assumption
    | with_reducible apply rises_foldl
    | intro _ _ _
    | with_reducible apply rises_useFree
    | with_reducible apply rises_applyPiece
    | split

theorem rises_sieveLine {s : State} (z : SieveSum) (pln : Nat) (h : LinesRise s₀ s) : LinesRise s₀ (State.sieveLine s z pln).1 := by
  dsimp only [State.sieveLine]
  repeat' first
    | with_reducible assumption
    | with_reducible apply rises_badLine
    | with_reducible apply rises_modRound
    | with_reducible apply rises_corrected
    | with_reducible apply rises_setStored
    | split

theorem rises_sieveLines {s : State} (z : SieveSum) (ls : List Nat) (h : LinesRise s₀ s) : LinesRise s₀ (State.sieveLines s z ls).1 := by
  unfold State.sieveLines
  induction ls generalizing s z with
  | nil => exact h
  | cons l ls ih => exact ih (s.sieveLine z l).2 (rises_sieveLine z l h)

theorem rises_resieveNow {s : State} (h : LinesRise s₀ s) : LinesRise s₀ (State.resieveNow s) := by
  dsimp only [State.resieveNow]
  repeat' first
    | with_reducible assumption
    | with_reducible apply rises_sieveLines
    | split
    | refine rises_fst (by with_reducible assumption) ?_
    | with_reducible apply rises_mk

theorem rises_leaveRegion {s : State} (n : Nat) (h : LinesRise s₀ s) : LinesRise s₀ (State.leaveRegion s n) := by
  dsimp only [State.leaveRegion]
  repeat' first
    | with_reducible assumption
    | with_reducible apply rises_foldl
    | intro _ _ _
    | with_reducible apply rises_invalidate
    | with_reducible apply rises_modPart
    | with_reducible apply rises_resieveNow
    | split
    | with_reducible apply rises_mk

theorem rises_dropRegion {s : State} (n : Nat) (h : LinesRise s₀ s) : LinesRise s₀ (State.dropRegion s n) := by
  dsimp only [State.dropRegion]
  repeat' first
    | with_reducible assumption
    | with_reducible apply rises_leaveRegion
    | with_reducible apply rises_blankRegion
    | with_reducible apply rises_modRegion

theorem rises_stopCopies {s : State} (p : Nat) (h : LinesRise s₀ s) : LinesRise s₀ (State.stopCopies s p) := by
  dsimp only [State.stopCopies]
  repeat' first
    | with_reducible assumption
    | with_reducible apply rises_foldl
    | intro _ _ _
    | with_reducible apply rises_applyAny
    | split
    | with_reducible apply rises_mk

theorem rises_loseWork {s : State} (p : Nat) (h : LinesRise s₀ s) : LinesRise s₀ (State.loseWork s p) := by
  dsimp only [State.loseWork]
  repeat' first
    | with_reducible assumption
    | with_reducible apply rises_modClusters
    | with_reducible apply rises_abortRuns
    | with_reducible apply rises_stopCopies
    | with_reducible apply rises_emptyRound
    | with_reducible apply rises_modRound
    | with_reducible apply rises_stopJournal
    | with_reducible apply rises_modPart

theorem rises_losePart {s : State} (p cause : Nat) (h : LinesRise s₀ s) : LinesRise s₀ (State.losePart s p cause) := by
  dsimp only [State.losePart]
  repeat' first
    | with_reducible assumption
    | with_reducible apply rises_loseWork
    | with_reducible apply rises_dropTensors
    | with_reducible apply rises_blankFw
    | with_reducible apply rises_modPart
    | with_reducible apply rises_tdiFails
    | with_reducible apply rises_destroyKeys
    | split
    | with_reducible apply rises_mk

theorem rises_dropUnrepairable {s : State} (h : LinesRise s₀ s) : LinesRise s₀ (State.dropUnrepairable s) := by
  dsimp only [State.dropUnrepairable]
  repeat' first
    | with_reducible assumption
    | with_reducible apply rises_foldl
    | intro _ _ _
    | with_reducible apply rises_dropRegion

theorem rises_stopModule {s : State} (h : LinesRise s₀ s) : LinesRise s₀ (State.stopModule s) := by
  dsimp only [State.stopModule]
  repeat' first
    | with_reducible assumption
    | with_reducible apply rises_foldl
    | intro _ _ _
    | with_reducible apply rises_abortOne
    | with_reducible apply rises_stopCopies
    | with_reducible apply rises_endSessions
    | with_reducible apply rises_cutRings
    | split
    | with_reducible apply rises_mk

theorem rises_restartCores {s : State} (h : LinesRise s₀ s) : LinesRise s₀ (State.restartCores s) := by
  refine ⟨fun k hk => ?_⟩
  have before := h.pending k hk
  have line : (State.restartCores s).icLine k = { s.icLine k with active := false } :=
    tab_get_mapVals (fun _ => IcLine.reset) (fun (l : IcLine) => { l with active := false }) s.intr.lines k rfl
  rw [line]
  exact before

theorem rises_wideLoss {s : State} (cause : Nat) (h : LinesRise s₀ s) : LinesRise s₀ (State.wideLoss s cause) := by
  dsimp only [State.wideLoss]
  repeat' first
    | with_reducible assumption
    | with_reducible apply rises_foldl
    | intro _ _ _
    | with_reducible apply rises_stopModule
    | with_reducible apply rises_dropUnrepairable
    | with_reducible apply rises_interruptCommand
    | with_reducible apply rises_losePart
    | with_reducible apply rises_dropSieves
    | with_reducible apply rises_restartCores
    | split
    | with_reducible apply rises_mk

end

/-! ### Module-wide losses and the module's own state (13 R347) -/

section

variable {s : State}

/-- The work that a loss stops, with every partition lost. -/
def lossTaken (s : State) (cause : Nat) : State :=
  ((List.range 8).foldl (fun (u : State) p => u.losePart p cause)
    ({ s.stopModule with memory := { s.stopModule.memory with resieve := [] } } : State).dropUnrepairable.interruptCommand).dropSieves.restartCores

theorem lossTaken_module (cause : Nat) : (lossTaken s cause).module = s.module := by
  have kept : Only [.free, .out, .unsent, .clusters, .quarters, .stackTab, .engines, .mem, .memory, .parts, .partCtl, .copies, .fns, .buckets,
      .intr, .links, .sec, .spares] s (lossTaken s cause) := by
    refine only_restartCores (within_sub (by decide) (within_refl _)) (only_dropSieves (within_sub (by decide) (within_refl _))
      (only_foldl _ (only_interruptCommand (within_sub (by decide) (within_refl _)) (only_dropUnrepairable (within_sub (by decide) (within_refl _))
        (only_set_memory (within_sub (by decide) (within_refl _)) _ (only_stopModule (within_sub (by decide) (within_refl _)) (only_refl _ s)))))
        fun t p h => only_losePart (within_sub (by decide) (within_refl _)) p cause h))
  exact kept.same .module (by simp)

theorem wideLoss_eq (cause : Nat) (run : s.module.electrical = .running) (stage : s.module.stage = 4) : s.wideLoss cause =
    { lossTaken s cause with
      memory := { (lossTaken s cause).memory with repairs := [], resieve := (lossTaken s cause).lockedShared, fwLost := false }
      module := { (lossTaken s cause).module with stage := 6, lossCause := cause, alert := true } } := by
  have cond : ¬ (s.module.electrical ≠ .running ∨ (!([4, 6].contains s.module.stage)) = true) := by simp [run, stage]
  unfold State.wideLoss lossTaken
  rw [if_neg cond]

theorem wideLoss_running (cause : Nat) (run : s.module.electrical = .running) (stage : s.module.stage = 4) :
    (s.wideLoss cause).module = { s.module with stage := 6, lossCause := cause, alert := true } := by
  rw [wideLoss_eq cause run stage]
  dsimp only
  rw [lossTaken_module]

theorem wideLoss_alert (cause : Nat) (h : s.module.alert = true) : (s.wideLoss cause).module.alert = true := by
  unfold State.wideLoss
  split
  · exact h
  · rfl

end

/-! ### Sensor sites (17 R423 to R428) -/

section

variable {s : State} {n : Nat} {v : Int}

/-- A sensor that converts a value that it did not show before. -/
theorem convert_fresh {x : Sensor} {r : Int} (partner : Option Int) (h : x.reading ≠ some r) :
    x.convert (some r) partner = { x with reading := some r, same := 0, missing := 0, partnerThen := partner.getD 0 } := if_neg h

/-- A fresh value within the range of a sensor is no fault. -/
theorem faultOf_fresh {x : Sensor} {r : Int} {partner : Option Int} (hr : x.reading = some r) (hs : x.same = 0) (hm : x.missing = 0)
    (lo : -200 ≤ r) (hi : r ≤ 1500) : x.faultOf partner = 0 := by
  unfold Sensor.faultOf
  rw [hr]
  dsimp only
  rw [if_neg (by omega), if_neg (by omega), if_neg (by omega)]

theorem faultOf_range {x : Sensor} {r : Int} {partner : Option Int} (hr : x.reading = some r) (out : r < -200 ∨ 1500 < r) :
    x.faultOf partner = 1 := by
  unfold Sensor.faultOf
  rw [hr]
  exact if_pos out

/-- A site with its throttling and interval as its value sets them. -/
def ranked (n : Nat) (v : Int) (x : SensorSite) : SensorSite :=
  { x with interval := intervalOf n (some v), throttling := decide (throttlePoint n ≤ v), posted := x.posted && decide (throttlePoint n - 30 ≤ v) }

/-- Line 54 near the throttle point, and the factors from it on. -/
def siteSlowed (s : State) (n : Nat) (v : Int) : State :=
  let t := s.modSite n (ranked n v)
  let t := if throttlePoint n - 30 ≤ v then t.latch 54 else t
  if throttlePoint n ≤ v then (t.actsOn n).foldl (fun (u : State) c => u.modConsumer c (fun x => { x with factor := x.factor - 1 })) t else t

/-- The throttle record, where it is due. -/
def siteNoted (s : State) (n : Nat) (v : Int) : State :=
  let t := siteSlowed s n v
  if decide (throttlePoint n ≤ v) && !(t.site n).posted then
    { (t.modSite n (fun x => { x with posted := true })).post 0 6 1 n v.toNat with module := { t.module with alert := true } }
  else t

/-- The refresh interval of the site's stack. -/
def siteRefreshed (s : State) (n : Nat) (v : Int) : State :=
  if 64 ≤ n ∧ n < 128 then (siteNoted s n v).judgeRefresh ((n - 64) / 4) else siteNoted s n v

theorem judgeSite_eq (h : s.siteValue n = some v) : s.judgeSite n =
    if tripPoint n ≤ v then (siteRefreshed s n v).wideLoss 5 else siteRefreshed s n v := by
  unfold State.judgeSite
  rw [h]
  dsimp only
  unfold siteRefreshed siteNoted siteSlowed ranked
  simp only [decide_eq_true_eq]

theorem site_congr {t u : State} (h : t.power = u.power) (k : Nat) : t.site k = u.site k := by
  unfold State.site
  rw [h]

theorem slow_sites (cs : List Nat) (t : State) :
    (cs.foldl (fun (u : State) c => u.modConsumer c (fun x => { x with factor := x.factor - 1 })) t).power.sites = t.power.sites ∧
    Only [.power] t (cs.foldl (fun (u : State) c => u.modConsumer c (fun x => { x with factor := x.factor - 1 })) t) :=
  ⟨foldl_keeps (fun t : State => t.power.sites) (fun (u : State) c => u.modConsumer c (fun x => { x with factor := x.factor - 1 }))
      (fun _ _ => rfl) _ _,
    only_foldl _ (only_refl _ t) fun _ c h => only_modConsumer (within_refl _) c _ h⟩

/-- Line 54 is set near the throttle point. -/
def siteLit (s : State) (n : Nat) (v : Int) : State :=
  if throttlePoint n - 30 ≤ v then (s.modSite n (ranked n v)).latch 54 else s.modSite n (ranked n v)

theorem siteLit_facts : (siteLit s n v).power = (s.modSite n (ranked n v)).power ∧ Only [.power, .intr] s (siteLit s n v) ∧
    (throttlePoint n - 30 ≤ v → ((siteLit s n v).icLine 54).pending = true) := by
  have moved : Only [.power, .intr] s (s.modSite n (ranked n v)) := only_modSite (within_sub (by decide) (within_refl _)) n _ (only_refl _ s)
  unfold siteLit
  split
  · exact ⟨rfl, only_latch (within_sub (by decide) (within_refl _)) 54 moved, fun _ => congrArg IcLine.pending (modIcLine_icLine_same _ _ _)⟩
  · rename_i far
    exact ⟨rfl, moved, fun near => absurd near far⟩

theorem siteSlowed_eq : siteSlowed s n v = if throttlePoint n ≤ v then
    ((siteLit s n v).actsOn n).foldl (fun (u : State) c => u.modConsumer c (fun x => { x with factor := x.factor - 1 })) (siteLit s n v)
    else siteLit s n v := rfl

theorem siteSlowed_facts : (siteSlowed s n v).power.sites = (s.modSite n (ranked n v)).power.sites ∧ Only [.power, .intr] s (siteSlowed s n v) ∧
    (throttlePoint n - 30 ≤ v → ((siteSlowed s n v).icLine 54).pending = true) := by
  obtain ⟨power, frame, line⟩ := siteLit_facts (s := s) (n := n) (v := v)
  rw [siteSlowed_eq]
  split
  · obtain ⟨sites, kept⟩ := slow_sites ((siteLit s n v).actsOn n) (siteLit s n v)
    refine ⟨sites.trans (congrArg Power.sites power), only_trans frame (only_widen (by decide) kept), fun near => ?_⟩
    rw [icLine_congr (kept.same .intr (by simp))]
    exact line near
  · exact ⟨congrArg Power.sites power, frame, line⟩

theorem site_of_sites {t u : State} (h : t.power.sites = u.power.sites) (k : Nat) : t.site k = u.site k := by
  unfold State.site
  rw [h]

/-- The record of a throttling site is posted once. -/
theorem siteNoted_facts : ((siteNoted s n v).site n = { ranked n v (s.site n) with
      posted := (ranked n v (s.site n)).posted || decide (throttlePoint n ≤ v) }) ∧
    (∀ k, k ≠ n → (siteNoted s n v).site k = s.site k) ∧
    Only [.power, .intr, .out, .unsent, .fns, .buckets, .module] s (siteNoted s n v) ∧
    (throttlePoint n - 30 ≤ v → ((siteNoted s n v).icLine 54).pending = true) ∧
    (∃ a, (siteNoted s n v).module = { s.module with alert := a }) ∧
    (throttlePoint n ≤ v → (s.site n).posted = false → (siteNoted s n v).module.alert = true) := by
  obtain ⟨sites, frame, line⟩ := siteSlowed_facts (s := s) (n := n) (v := v)
  have mine : (siteSlowed s n v).site n = ranked n v (s.site n) := (site_of_sites sites n).trans (modSite_site_same _ _ _)
  have others (k : Nat) (hk : k ≠ n) : (siteSlowed s n v).site k = s.site k := (site_of_sites sites k).trans (modSite_site_ne _ _ _ _ hk)
  have module : (siteSlowed s n v).module = s.module := frame.same .module (by simp)
  have wide : Only [.power, .intr, .out, .unsent, .fns, .buckets, .module] s (siteSlowed s n v) := only_widen (by decide) frame
  unfold siteNoted
  dsimp only
  generalize siteSlowed s n v = t at *
  cases due : decide (throttlePoint n ≤ v) && !(t.site n).posted with
  | false =>
    rw [if_neg (by simp)]
    refine ⟨?_, others, wide, line, ⟨s.module.alert, module⟩, fun hot fresh => ?_⟩
    · rw [mine] at due ⊢
      have none : decide (throttlePoint n ≤ v) = true → (ranked n v (s.site n)).posted = true := fun hot => by simpa [hot] using due
      cases hot : decide (throttlePoint n ≤ v) with
      | false => rw [Bool.or_false]
      | true =>
        rw [Bool.or_true, ← none hot]
    · rw [mine] at due
      simp [ranked, hot, fresh] at due
  | true =>
    rw [if_pos rfl]
    simp only [Bool.and_eq_true, decide_eq_true_eq] at due
    have posted := only_post (within_refl _) 0 6 1 n v.toNat (only_refl _ (t.modSite n (fun x => { x with posted := true })))
    have power : ((t.modSite n (fun x => { x with posted := true })).post 0 6 1 n v.toNat).power =
        (t.modSite n (fun x => { x with posted := true })).power := posted.same .power (by simp)
    refine ⟨?_, fun k hk => ?_, ?_, fun near => ?_, ⟨true, ?_⟩, fun _ _ => rfl⟩
    · refine (site_congr power n).trans ((modSite_site_same _ _ _).trans ?_)
      rw [mine, decide_eq_true due.1, Bool.or_true]
    · exact (site_congr power k).trans ((modSite_site_ne _ _ _ _ hk).trans (others k hk))
    · refine only_set_module (within_sub (by decide) (within_refl _)) _ (only_post (within_sub (by decide) (within_refl _)) _ _ _ _ _
        (only_modSite (within_sub (by decide) (within_refl _)) n _ wide))
    · have intr : ((t.modSite n (fun x => { x with posted := true })).post 0 6 1 n v.toNat).intr = t.intr := posted.same .intr (by simp)
      exact (congrArg IcLine.pending (icLine_congr intr 54)).trans (line near)
    · rw [module]

theorem siteRefreshed_only : Only [.stackTab] (siteNoted s n v) (siteRefreshed s n v) := by
  unfold siteRefreshed
  split
  · exact only_judgeRefresh (within_refl _) _ (only_refl _ _)
  · exact only_refl _ _

/-- What a judged site reads and does: its interval and throttling, line 54, the record, and nothing at the other sites. -/
theorem judgeSite_facts (h : s.siteValue n = some v) : ((s.judgeSite n).site n = { ranked n v (s.site n) with
      posted := (ranked n v (s.site n)).posted || decide (throttlePoint n ≤ v) }) ∧
    (∀ k, k ≠ n → (s.judgeSite n).site k = s.site k) ∧
    (throttlePoint n - 30 ≤ v → ((s.judgeSite n).icLine 54).pending = true) ∧
    (throttlePoint n ≤ v → (s.site n).posted = false → (s.judgeSite n).module.alert = true) ∧ (s.judgeSite n).regs = s.regs ∧
    (v < tripPoint n → (s.judgeSite n).mem = s.mem ∧ (s.judgeSite n).parts = s.parts ∧ (s.judgeSite n).module.stage = s.module.stage) ∧
    (tripPoint n ≤ v → s.module.electrical = .running → s.module.stage = 4 →
      (s.judgeSite n).module.stage = 6 ∧ (s.judgeSite n).module.lossCause = 5) := by
  obtain ⟨mine, others, frame, line, ⟨a, module⟩, alert⟩ := siteNoted_facts (s := s) (n := n) (v := v)
  have kept := siteRefreshed_only (s := s) (n := n) (v := v)
  have power : (siteRefreshed s n v).power = (siteNoted s n v).power := kept.same .power (by simp)
  have intr : (siteRefreshed s n v).intr = (siteNoted s n v).intr := kept.same .intr (by simp)
  have module' : (siteRefreshed s n v).module = (siteNoted s n v).module := kept.same .module (by simp)
  have regs : (siteRefreshed s n v).regs = s.regs := (kept.same .regs (by simp)).trans (frame.same .regs (by simp))
  have pending (near : throttlePoint n - 30 ≤ v) : ((siteRefreshed s n v).icLine 54).pending = true :=
    (congrArg IcLine.pending (icLine_congr intr 54)).trans (line near)
  have alerted (hot : throttlePoint n ≤ v) (fresh : (s.site n).posted = false) : (siteRefreshed s n v).module.alert = true :=
    (congrArg Module.alert module').trans (alert hot fresh)
  rw [judgeSite_eq h]
  split
  · rename_i trip
    have lost := only_wideLoss (within_refl _) 5 (only_refl _ (siteRefreshed s n v))
    have power' : ((siteRefreshed s n v).wideLoss 5).power = (siteNoted s n v).power := (lost.same .power (by simp)).trans power
    refine ⟨(site_congr power' n).trans mine, fun k hk => (site_congr power' k).trans (others k hk),
      fun near => (rises_wideLoss 5 rises_refl).pending 54 (pending near), fun hot fresh => wideLoss_alert 5 (alerted hot fresh),
      (lost.same .regs (by simp)).trans regs, fun below => absurd trip (by omega), fun _ run stage => ?_⟩
    rw [wideLoss_running 5 (by rw [module', module]; exact run) (by rw [module', module]; exact stage)]
    exact ⟨rfl, rfl⟩
  · rename_i cool
    refine ⟨(site_congr power n).trans mine, fun k hk => (site_congr power k).trans (others k hk), pending, alerted, regs, fun _ => ⟨?_, ?_, ?_⟩,
      fun trip => absurd trip cool⟩
    · exact (kept.same .mem (by simp)).trans (frame.same .mem (by simp))
    · exact (kept.same .parts (by simp)).trans (frame.same .parts (by simp))
    · rw [module', module]

end

section

variable {s : State} {site : SiteId} {a b : Int}

/-- Both sensors of a site have converted fresh values. -/
def sampledSite (now : W64) (a b : Int) (y : SensorSite) : SensorSite :=
  { y with
    a := { y.a with reading := some a, same := 0, missing := 0, partnerThen := b }
    b := { y.b with reading := some b, same := 0, missing := 0, partnerThen := a }
    sampledAt := some now }

/-- The site after its conversions. -/
def siteSampled (s : State) (n : Nat) (a b : Int) : State := s.modSite n (sampledSite s.time.now a b)

/-- A sample is due. -/
def SampleDue (s : State) (n : Nat) : Prop :=
  ∀ t0, (s.site n).sampledAt = some t0 → t0.toNat + intervalNs (s.site n).interval ≤ s.nowNat

theorem exec_sensorSample (on : s.rationing = true) (due : SampleDue s site) (ha : (s.site site).a.failed = false)
    (hb : (s.site site).b.failed = false) (fa : (s.site site).a.reading ≠ some a) (fb : (s.site site).b.reading ≠ some b)
    (lo : -200 ≤ b) (hi : b ≤ 1500) : execSensorSample site (some a) (some b) s = .next
      ((if a < -200 ∨ 1500 < a then (siteSampled s site a b).sensorFails site 0 1 else siteSampled s site a b).judgeSite site) := by
  have xa := convert_fresh (x := (s.site site).a) (some b) fa
  have xb := convert_fresh (x := (s.site site).b) (some a) fb
  unfold execSensorSample
  dsimp only
  have guard : ∀ due : Bool, due = true → ¬ ((!s.rationing) = true ∨ (!due) = true) := fun due hd => by simp [on, hd]
  rw [if_neg (guard _ ?_)]
  · have good : ((s.site site).b.convert (some b) (some a)).faultOf (some a) = 0 := by
      rw [xb]
      exact faultOf_fresh rfl rfl rfl lo hi
    simp only [Option.isSome_some, if_true]
    rw [if_neg (show ¬ (s.site site).a.failed = true by simp [ha]), if_neg (show ¬ (s.site site).b.failed = true by simp [hb]), if_pos good, xb]
    by_cases out : a < -200 ∨ 1500 < a
    · have bad : ((s.site site).a.convert (some a) (some b)).faultOf (some b) = 1 := by
        rw [xa]
        exact faultOf_range rfl out
      rw [bad, xa, if_pos out]
      rfl
    · have good' : ((s.site site).a.convert (some a) (some b)).faultOf (some b) = 0 := by
        rw [xa]
        exact faultOf_fresh rfl rfl rfl (by omega) (by omega)
      rw [if_pos good', xa, if_neg out]
      rfl
  · cases h : (s.site site.val).sampledAt with
    | none => rfl
    | some t0 => exact decide_eq_true (due t0 h)

theorem exec_sensorSample_none {a b : Option Int} (h : s.rationing = false ∨
    (∃ t0, (s.site site).sampledAt = some t0 ∧ s.nowNat < t0.toNat + intervalNs (s.site site).interval)) :
    execSensorSample site a b s = .next s := by
  unfold execSensorSample
  refine congrArg Host.Outcome.next (if_pos ?_)
  obtain off | ⟨t0, sampled, early⟩ := h
  · exact .inl (by simp [off])
  · right
    rw [sampled]
    simpa using early

/-- The domain that lost its lock is named, and module time stands still with its own. -/
def domainLost (s : State) (d : Fin 25) : State :=
  { s with module := { s.module with pllLost := d.val + 1 }, time := { s.time with running := s.time.running && d.val != 23 } }

theorem exec_pllLockLoss {d : Fin 25} (run : s.module.electrical = .running) (stage : s.module.stage = 4) :
    execPllLockLoss d s = .next ((domainLost s d).parityError.wideLoss 3) := by
  unfold execPllLockLoss
  exact congrArg Host.Outcome.next (if_neg (by simp [run, stage]))

end

section

variable {s : State} {n : Nat}

/-- A site whose first sensor failed for its range (R425). -/
def firstFailed (x : SensorSite) : SensorSite := { x with fault := 1, a := { x.a with failed := true, fault := 1 } }

theorem sensorFails_power : (s.sensorFails n 0 1).power = (s.modSite n firstFailed).power :=
  (only_logWear (within_refl _) 9 n 0 0 (only_refl _ ((s.modSite n firstFailed).mapChange 9 (2 * n + 0)))).same .power (by simp)

theorem sensorFails_site_same : (s.sensorFails n 0 1).site n = firstFailed (s.site n) :=
  (site_congr sensorFails_power n).trans (modSite_site_same _ _ _)

theorem sensorFails_site_ne {k : Nat} (s : State) (h : k ≠ n) : (s.sensorFails n 0 1).site k = s.site k :=
  (site_congr sensorFails_power k).trans (modSite_site_ne _ _ _ _ h)

/-- Ten tenths of a degree above its throttle point a site is below its trip point. -/
theorem throttle_below_trip (n : Nat) : throttlePoint n + 10 < tripPoint n := by
  unfold throttlePoint tripPoint
  split
  · decide
  · split
    · decide
    · split <;> decide

end

/-- Settles O48: a sample is its conversions and what the site's value then does. -/
theorem sensorsThrottleAndTrip : Obligations.SensorsThrottleAndTrip := by
  unfold Obligations.SensorsThrottleAndTrip
  refine ⟨fun site a b s => ?_, fun site a b s h => completes_next (exec_sensorSample_none h) rfl, fun d s run stage => ?_⟩
  · intro n x v on due ha hb fa fb
    have site_eq : (siteSampled s n a b).site n = sampledSite s.time.now a b x := modSite_site_same _ _ _
    have others (k : Nat) (hk : k ≠ n) : (siteSampled s n a b).site k = s.site k := modSite_site_ne _ _ _ _ hk
    refine ⟨fun lo hi lo' hi' => ?_, fun out lo' hi' aOut => ?_⟩
    · have run := exec_sensorSample on due ha hb fa fb lo' hi'
      rw [if_neg (by omega)] at run
      have value : (siteSampled s n a b).siteValue n = some v := by
        unfold State.siteValue SensorSite.value
        rw [site_eq]
        simp [sampledSite, x, n, ha, hb, v]
      obtain ⟨mine, rest, line, alert, regs, cool, trip⟩ := judgeSite_facts value
      rw [site_eq] at mine alert
      refine completes_next run ⟨?_, ?_, ?_, ?_, ?_, line, fun hot fresh => ⟨alert hot fresh, ?_⟩, fun k hk => (rest k hk).trans (others k hk),
        regs, cool, trip⟩
      · unfold State.siteValue at value ⊢
        rw [mine]
        rw [site_eq] at value
        exact value
      all_goals rw [mine]
      · rfl
      · rfl
      · rfl
      · rfl
      · simp only [hot, decide_true, Bool.or_true]
    · have run := exec_sensorSample on due ha hb fa fb lo' hi'
      rw [if_pos out] at run
      have failed : ((siteSampled s n a b).sensorFails n 0 1).site n = firstFailed (sampledSite s.time.now a b x) := by
        rw [sensorFails_site_same, site_eq]
      have others' (k : Nat) (hk : k ≠ n) : ((siteSampled s n a b).sensorFails n 0 1).site k = s.site k :=
        (sensorFails_site_ne _ hk).trans (others k hk)
      have value : ((siteSampled s n a b).sensorFails n 0 1).siteValue n = some (throttlePoint n + 10) := by
        unfold State.siteValue SensorSite.value
        rw [failed]
        simp [firstFailed, sampledSite, x, n, aOut]
      have kept := only_sensorFails (within_refl _) n 0 1 (only_refl _ (siteSampled s n a b))
      obtain ⟨mine, rest, -, -, regs, cool, -⟩ := judgeSite_facts value
      obtain ⟨mem, parts, -⟩ := cool (throttle_below_trip n)
      refine completes_next run ⟨?_, ?_, ?_, ?_, fun k hk => (rest k hk).trans (others' k hk), mem.trans (kept.same .mem (by simp)),
        parts.trans (kept.same .parts (by simp)), regs.trans (kept.same .regs (by simp))⟩
      · rw [mine, failed]
        rfl
      · rw [mine, failed]
        rfl
      · rw [mine, failed]
        exact hb
      · unfold State.siteValue at value ⊢
        rw [mine]
        exact value
  · have parity := only_parityError (within_refl _) (only_refl _ (domainLost s d))
    have module : (domainLost s d).parityError.module = { s.module with pllLost := d.val + 1 } := parity.same .module (by simp)
    have lost := only_wideLoss (within_refl _) 3 (only_refl _ (domainLost s d).parityError)
    have module' := wideLoss_running (s := (domainLost s d).parityError) 3 (by rw [module]; exact run) (by rw [module]; exact stage)
    refine completes_next (exec_pllLockLoss run stage) ⟨?_, ?_, ?_, ?_, (lost.same .regs (by simp)).trans (parity.same .regs (by simp))⟩
    · rw [module', module]
    · rw [module']
    · rw [module']
    · have time : ((domainLost s d).parityError.wideLoss 3).time = (domainLost s d).time :=
        (lost.same .time (by simp)).trans (parity.same .time (by simp))
      rw [time]
      rfl

end Sys2Proof.Proofs
end

section
/-! PROOF of spares, wear, rows and dies (20 R463 to R475) -/

namespace Sys2Proof.Proofs

open Sys2Proof Sys2Proof.Machine Sys2Proof.Laws

/-! ### Lengths of stored lines (04 R133) -/

theorem rsGenerator_length (n : Nat) : (rsGenerator n).length = n := by
  induction n with
  | zero => rfl
  | succ n ih => simp [rsGenerator, ih]

theorem rsStep_length {g reg : List Nat} (d : Nat) (hg : g.length = 8) (hr : reg.length = 8) : (rsStep g reg d).length = 8 := by
  simp [rsStep, hg, hr]

theorem rsCheck_length (bs : List Byte) : (rsCheck bs).length = 8 := by
  have folded : ∀ (l : List Nat) (reg : List Nat), reg.length = 8 → (l.foldl (rsStep (rsGenerator 8)) reg).length = 8 := by
    intro l
    induction l with
    | nil => exact fun reg h => h
    | cons d l ih => exact fun reg h => ih _ (rsStep_length d (rsGenerator_length 8) h)
  unfold rsCheck
  rw [List.length_map]
  exact folded _ _ (by simp)

theorem lineBytes_length (l : Line) : (lineBytes l).length = 64 := by simp [lineBytes, toBytes]

theorem poisonLine_length : poisonLine.length = 72 := by decide

theorem stored_length (s : State) (pln : Nat) : (s.stored pln).length = 72 := by
  rw [stored_eq_map]
  simp

theorem corrected_length {w w' : List Byte} (h : rsDecode w = .corrected w') : w'.length = w.length := by
  unfold rsDecode at h
  dsimp only at h
  split at h
  · cases h
  · split at h
    · split at h
      · cases h
      · cases h
        exact List.length_set
    · cases h

/-! ### What a copy of a line leaves of the other lines (20 R470, R472) -/

/-- Every line but one is as it was. -/
structure OffLine (pln : Nat) (s t : State) : Prop where
  stored : ∀ l, l ≠ pln → t.stored l = s.stored l

section

variable {s₀ s t : State} {pln : Nat}

theorem offLine_refl : OffLine pln s s := ⟨fun _ _ => rfl⟩

theorem stored_congr (h : t.mem = s.mem) (l : Nat) : t.stored l = s.stored l := by
  unfold State.stored
  rw [h]

theorem offLine_only {L : List Fld} (h : Only L s t) (hm : Fld.mem ∉ L) (hs : OffLine pln s₀ s) : OffLine pln s₀ t :=
  ⟨fun l hl => (stored_congr (h.same .mem hm) l).trans (hs.stored l hl)⟩

theorem offLine_setStored {bs : List Byte} (hb : bs.length = 72) (h : OffLine pln s₀ s) : OffLine pln s₀ (s.setStored pln bs) :=
  ⟨fun l hl => (stored_setStored_ne s pln l bs hb hl).trans (h.stored l hl)⟩

theorem offLine_badFirmwareLine (r : Region) (h : OffLine pln s₀ s) : OffLine pln s₀ (s.badFirmwareLine r pln) := by
  unfold State.badFirmwareLine
  split
  · exact ⟨h.stored⟩
  · split
    · exact offLine_setStored (by rw [List.length_append, lineBytes_length, rsCheck_length]) ⟨h.stored⟩
    · exact ⟨h.stored⟩

theorem offLine_badLine (source partition : Nat) (sealBad merge : Bool) (h : OffLine pln s₀ s) :
    OffLine pln s₀ (s.badLine source pln partition sealBad merge) := by
  have counted : ∀ f, OffLine pln s₀ (s.modCe (channelOf pln) f) := fun f => ⟨h.stored⟩
  have recorded : ∀ f a b, OffLine pln s₀ ((s.modCe (channelOf pln) f).recordError source a b pln partition) := fun f a b => ⟨(counted f).stored⟩
  have latched : ∀ f a b n, OffLine pln s₀ (((s.modCe (channelOf pln) f).recordError source a b pln partition).latch n) :=
    fun f a b n => ⟨(recorded f a b).stored⟩
  unfold State.badLine
  dsimp only
  repeat' first
    | with_reducible exact latched _ _ _ _
    | with_reducible apply offLine_badFirmwareLine
    | with_reducible refine offLine_only (only_queueRepair (within_refl _) _ _ _ (only_refl _ _)) (by simp) ?_
    | with_reducible refine offLine_only (only_postTo (within_refl _) _ _ _ _ _ (only_refl _ _)) (by simp) ?_
    | with_reducible refine offLine_setStored poisonLine_length ?_
    | split

theorem offLine_copyLine (h : OffLine pln s₀ s) : OffLine pln s₀ (s.copyLine pln) := by
  unfold State.copyLine
  dsimp only
  split
  · exact h
  · split
    · exact h
    · rename_i w' e
      refine offLine_only (only_corrected (within_refl _) pln (only_refl _ _)) (by simp) (offLine_setStored ?_ h)
      rw [corrected_length e, stored_length]
    · exact offLine_badLine _ _ _ _ h

end

/-! ### What a copy of a line leaves of the stacks (20 R470 to R475) -/

/-- The stacks but for stack k are as they were, and of stack k the remapped rows, their count, and a spare that is not free. -/
structure StackKept (k : Nat) (s t : State) : Prop where
  others : ∀ j, j ≠ k → t.stack j = s.stack j
  remaps : (t.stack k).remaps = (s.stack k).remaps
  rows : (t.stack k).spare.rows = (s.stack k).spare.rows
  spare : (s.stack k).spare.state ≠ 0 → (t.stack k).spare = (s.stack k).spare

section

variable {s₀ s t u : State} {k : Nat}

theorem stack_congr (h : t.stackTab = s.stackTab) (j : Nat) : t.stack j = s.stack j := by
  unfold State.stack
  rw [h]

theorem stackKept_refl : StackKept k s s := ⟨fun _ _ => rfl, rfl, rfl, fun _ => rfl⟩

theorem stackKept_trans (h : StackKept k s t) (g : StackKept k t u) : StackKept k s u where
  others j hj := (g.others j hj).trans (h.others j hj)
  remaps := g.remaps.trans h.remaps
  rows := g.rows.trans h.rows
  spare taken := (g.spare (by rw [h.spare taken]; exact taken)).trans (h.spare taken)

theorem stackKept_of_tab (h : t.stackTab = s.stackTab) : StackKept k s t :=
  ⟨fun j _ => stack_congr h j, by rw [stack_congr h], by rw [stack_congr h], fun _ => by rw [stack_congr h]⟩

theorem stackKept_only {L : List Fld} (h : Only L s t) (hm : Fld.stackTab ∉ L) : StackKept k s t := stackKept_of_tab (h.same .stackTab hm)

/-- The spare of a stack whose spare is free begins to take a die. -/
theorem dieTrigger_free {die : Nat} (h : (s.stack k).spare.state = 0) : s.dieTrigger k die =
    ((s.modStack k (fun x => { x with spare := { x.spare with state := 1, replaced := die, progress := 0, holding := false } })).mapChange 6
      (16 * k + die)).logWear 6 k die 0 := if_pos h

theorem dieTrigger_taken {die : Nat} (h : (s.stack k).spare.state ≠ 0) : (s.dieTrigger k die).stackTab = s.stackTab := by
  unfold State.dieTrigger
  rw [if_neg h]
  split
  · rfl
  · exact (only_logWear (within_refl _) 8 k die 0 (only_refl _ (s.mapChange 8 (16 * k + die)))).same .stackTab (by simp)

theorem dieTrigger_free_tab {die : Nat} (h : (s.stack k).spare.state = 0) : (s.dieTrigger k die).stackTab = (s.modStack k (fun x =>
    { x with spare := { x.spare with state := 1, replaced := die, progress := 0, holding := false } })).stackTab := by
  rw [dieTrigger_free h]
  exact (only_logWear (within_refl _) 6 k die 0 (only_refl _ _)).same .stackTab (by simp)

theorem stackKept_dieTrigger (die : Nat) : StackKept k s (s.dieTrigger k die) := by
  by_cases h : (s.stack k).spare.state = 0
  · have tab := dieTrigger_free_tab (die := die) h
    refine ⟨fun j hj => ?_, ?_, ?_, fun taken => absurd h taken⟩
    · rw [stack_congr tab, modStack_stack_ne _ _ _ _ hj]
    · rw [stack_congr tab, modStack_stack_same]
    · rw [stack_congr tab, modStack_stack_same]
  · exact stackKept_of_tab (dieTrigger_taken h)

theorem stackKept_corrected {pln : Nat} (h : channelOf pln / 32 = k) : StackKept k s (s.corrected pln) := by
  have trigger : ∀ (t : State) (die : Nat), t.stackTab = s.stackTab → StackKept k s (t.dieTrigger (channelOf pln / 32) die) := by
    intro t die tab
    rw [h]
    exact stackKept_trans (stackKept_of_tab tab) (stackKept_dieTrigger die)
  have posted : ∀ (t : State) (fn block code inst arg kind unit detail line : Nat), t.stackTab = s.stackTab →
      ((t.post fn block code inst arg).logWear kind unit detail line).stackTab = s.stackTab := by
    intro t fn block code inst arg kind unit detail line tab
    exact ((only_logWear (within_refl _) kind unit detail line (only_refl _ _)).same .stackTab (by simp)).trans
      (((only_post (within_refl _) fn block code inst arg (only_refl _ t)).same .stackTab (by simp)).trans tab)
  unfold State.corrected
  dsimp only
  split
  · split
    · exact trigger _ _ (posted _ _ _ _ _ _ _ _ _ _ rfl)
    · exact stackKept_of_tab (posted _ _ _ _ _ _ _ _ _ _ rfl)
  · exact stackKept_of_tab rfl

theorem channelOf_stack (pln : Nat) : channelOf pln / 32 = plnStack pln := by
  have small : plnChannel pln < 32 := Nat.mod_lt _ (by decide)
  unfold channelOf
  omega

theorem stackKept_copyLine {pln : Nat} (h : plnStack pln = k) : StackKept k s (s.copyLine pln) := by
  unfold State.copyLine
  dsimp only
  split
  · exact stackKept_refl
  · split
    · exact stackKept_refl
    · exact stackKept_trans (t := s.setStored pln _) (stackKept_of_tab rfl) (stackKept_corrected ((channelOf_stack pln).trans h))
    · exact stackKept_only (only_badLine (within_refl _) _ _ _ _ _ (only_refl _ s)) (by simp)

theorem stackKept_copyLines {ls : List Nat} (h : ∀ l, l ∈ ls → plnStack l = k) : StackKept k s (ls.foldl State.copyLine s) := by
  induction ls generalizing s with
  | nil => exact stackKept_refl
  | cons l ls ih =>
    exact stackKept_trans (stackKept_copyLine (h l List.mem_cons_self)) (ih fun x hx => h x (List.mem_cons_of_mem _ hx))

theorem copyLines_stored (ls : List Nat) {l : Nat} (h : l ∉ ls) : (ls.foldl State.copyLine s).stored l = s.stored l := by
  induction ls generalizing s with
  | nil => rfl
  | cons x ls ih =>
    rw [List.mem_cons, not_or] at h
    obtain ⟨ne, out⟩ := h
    exact (ih out).trans ((offLine_copyLine offLine_refl).stored l ne)

/-- Resuming an engine changes no spare. -/
theorem resumeOne_spare (src : PacketSource) (e j : Nat) : ((State.resumeOne src s e).stack j).spare = (s.stack j).spare := by
  have queued (t : State) (head : Bool) : ((t.enqueueStart e head).stack j).spare = (t.stack j).spare := by
    unfold State.enqueueStart State.setStartQ
    by_cases hj : j = e / 256
    · rw [hj, modStack_stack_same]
    · rw [modStack_stack_ne _ _ _ _ hj]
  unfold State.resumeOne
  dsimp only
  split
  · split
    · rfl
    · split
      · exact queued _ _
      · rfl
  · rfl

end

/-! ### Wear, marks, rows and dies (20 R463 to R475) -/

section

variable {s : State}

theorem exec_repairMapWrite (h : s.rationing = true) : execRepairMapWrite s = .next { s with
    sec := { s.sec with flash := { s.sec.flash with map := s.sec.flash.map ++ s.spares.changes } }
    spares := { s.spares with changes := [] } } := by
  unfold execRepairMapWrite
  exact congrArg Host.Outcome.next (if_neg (by simp [h]))

section

variable {fn : FnId} {v : W64} (hf : fn.val = 0) (bar : s.bar0 0 = true)

include hf bar

theorem exec_wearLogRead : execWearLogRead fn v s = .next (s.wearRead v) := by
  unfold execWearLogRead
  exact congrArg Host.Outcome.next (if_pos ⟨hf, bar⟩)

theorem exec_clusterMark : execClusterMark fn v s = .next (s.clusterMarkWrite v) := by
  unfold execClusterMark
  exact congrArg Host.Outcome.next (if_pos ⟨hf, bar⟩)

theorem exec_dieCopy : execDieCopy fn v s = .next (s.dieCmd v) := by
  unfold execDieCopy
  exact congrArg Host.Outcome.next (if_pos ⟨hf, bar⟩)

end

theorem wearRead_busy {v : W64} (h : s.spares.wearBusy = true) : s.wearRead v = s := if_pos h

theorem wearRead_free {v : W64} (h : s.spares.wearBusy = false) : s.wearRead v =
    { s with spares := { s.spares with wearBusy := true, wearAddr := BitVec.ofNat 64 (64 * fld v 63 6) } } := by
  have shift : at_ 6 (fld v 63 6) = 64 * fld v 63 6 := Nat.mul_comm _ _
  rw [← shift]
  exact if_neg (by simp [h])

theorem exec_wearLogReadComplete_none {b : Bool} (h : s.spares.wearBusy = false) : execWearLogReadComplete b s = .next s := by
  unfold execWearLogReadComplete
  exact congrArg Host.Outcome.next (if_pos (by simp [h]))

/-- The copy of the wear log (R465). -/
def wearCopy (f : Flash) : List Byte := f.wearHeader ++ (List.range 65536).flatMap (fun i => toBytes 32 (f.wearAt i).toNat)

theorem exec_wearLogReadComplete_sent (h : s.spares.wearBusy = true) : execWearLogReadComplete true s = .next
    { s.hostWrite 0 s.spares.wearAddr.toNat (wearCopy s.sec.flash) with spares := { s.spares with wearBusy := false, wearStatus := 0 } } := by
  have spares : (s.hostWrite 0 s.spares.wearAddr.toNat (wearCopy s.sec.flash)).spares = s.spares :=
    (only_hostWrite (within_refl _) 0 _ _ (only_refl _ s)).same .spares (by simp)
  have ended : ({ s.spares with wearBusy := false, wearStatus := 0 } : Spares) =
      { (s.hostWrite 0 s.spares.wearAddr.toNat (wearCopy s.sec.flash)).spares with wearBusy := false, wearStatus := 0 } := by rw [spares]
  rw [ended]
  unfold execWearLogReadComplete
  exact congrArg Host.Outcome.next (if_neg (by simp [h]))

theorem exec_wearLogReadComplete_failed (h : s.spares.wearBusy = true) : execWearLogReadComplete false s = .next
    { s with spares := { s.spares with wearBusy := false, wearStatus := 1 } } := by
  unfold execWearLogReadComplete
  exact congrArg Host.Outcome.next (if_neg (by simp [h]))

/-- A cluster that is marked already, or is not working, stays as it is. -/
theorem markCluster_none {c : Nat} (h : s.working c = false ∨ (s.cluster c).marked = true) : s.markCluster c = s := by
  unfold State.markCluster
  exact if_pos (by obtain h | h := h <;> simp [h])

/-- Marking a working cluster: its mark, the change of the map and the record of the log. -/
theorem markCluster_facts {c : Nat} (hw : s.working c = true) (hm : (s.cluster c).marked = false) :
    (s.markCluster c).cluster c = { s.cluster c with marked := true } ∧ (∀ k, k ≠ c → (s.markCluster c).cluster k = s.cluster k) ∧
    (s.markCluster c).spares.changes = s.spares.changes ++ [(1, c)] := by
  have marked : s.markCluster c = ((s.modCluster c (fun x => { x with marked := true })).mapChange 1 c).logWear 1 c 0 0 :=
    if_neg (by simp [hw, hm])
  have kept := only_logWear (within_refl _) 1 c 0 0 (only_refl _ ((s.modCluster c (fun x => { x with marked := true })).mapChange 1 c))
  have clusters : (s.markCluster c).clusters = (s.modCluster c (fun x => { x with marked := true })).clusters := by
    rw [marked]
    exact kept.same .clusters (by simp)
  have cluster (k : Nat) : (s.markCluster c).cluster k = (s.modCluster c (fun x => { x with marked := true })).cluster k := by
    unfold State.cluster
    rw [clusters]
  have spares : (s.markCluster c).spares = ((s.modCluster c (fun x => { x with marked := true })).mapChange 1 c).spares := by
    rw [marked]
    exact kept.same .spares (by simp)
  exact ⟨(cluster c).trans (modCluster_cluster_same _ _ _), fun k hk => (cluster k).trans (modCluster_cluster_ne _ _ _ _ hk),
    by rw [spares]; rfl⟩

theorem markCluster_only (c : Nat) : Only [.clusters, .sec, .spares] s (s.markCluster c) :=
  only_markCluster (within_refl _) c (only_refl _ s)

/-- Marking a working cluster, marked already or not. -/
theorem markCluster_marks {c : Nat} (hw : s.working c = true) : ((s.markCluster c).cluster c).marked = true ∧
    (∀ k, (s.cluster k).marked = true → ((s.markCluster c).cluster k).marked = true) ∧
    (∀ k, k ≠ c → (s.markCluster c).cluster k = s.cluster k) ∧ ∀ k, (s.markCluster c).working k = s.working k := by
  cases hm : (s.cluster c).marked with
  | true =>
    rw [markCluster_none (.inr hm)]
    exact ⟨hm, fun k h => h, fun k _ => rfl, fun k => rfl⟩
  | false =>
    obtain ⟨mine, others, -⟩ := markCluster_facts hw hm
    refine ⟨by rw [mine], fun k h => ?_, others, fun k => ?_⟩
    · by_cases hk : k = c
      · rw [hk, mine]
      · rw [others k hk, h]
    · unfold State.working
      by_cases hk : k = c
      · rw [hk, mine]
      · rw [others k hk]

/-- A fold of marks: what is marked, and what stays. -/
theorem markClusters_facts (cs : List Nat) (t : State) (hw : ∀ c, c ∈ cs → t.working c = true) :
    (∀ c, c ∈ cs ∨ (t.cluster c).marked = true → ((cs.foldl State.markCluster t).cluster c).marked = true) ∧
    (∀ c, c ∉ cs → (cs.foldl State.markCluster t).cluster c = t.cluster c) ∧
    Only [.clusters, .sec, .spares] t (cs.foldl State.markCluster t) := by
  induction cs generalizing t with
  | nil => exact ⟨fun c h => h.resolve_left (by simp), fun c _ => rfl, only_refl _ t⟩
  | cons c cs ih =>
    obtain ⟨mine, stays, others, working⟩ := markCluster_marks (hw c List.mem_cons_self)
    obtain ⟨marked, rest, kept⟩ := ih (t.markCluster c) fun x hx => (working x).trans (hw x (List.mem_cons_of_mem _ hx))
    refine ⟨fun k hk => marked k ?_, fun k hk => ?_, only_trans (markCluster_only c) kept⟩
    · obtain hk | hk := hk
      · obtain rfl | hk := List.mem_cons.mp hk
        · exact .inr mine
        · exact .inl hk
      · exact .inr (stays k hk)
    · rw [List.mem_cons, not_or] at hk
      obtain ⟨ne, out⟩ := hk
      exact (rest k out).trans (others k ne)

theorem exec_clusterRetest_none {failing : List Nat} (h : s.firmwareUp = false ∨ s.nowNat < s.module.testedAt.toNat + 3600000000000) :
    execClusterRetest failing s = .next s := by
  unfold execClusterRetest
  exact congrArg Host.Outcome.next (if_pos (by obtain h | h := h <;> simp [h]))

/-- The hourly test has run. -/
def tested (s : State) : State := { s with module := { s.module with testedAt := s.time.now } }

theorem exec_clusterRetest {failing : List Nat} (up : s.firmwareUp = true) (h : s.module.testedAt.toNat + 3600000000000 ≤ s.nowNat) :
    execClusterRetest failing s = .next ((failing.filter s.idleWorking).foldl State.markCluster (tested s)) := by
  unfold execClusterRetest
  exact congrArg Host.Outcome.next (if_neg (by simp [up]; omega))

end

section

variable {s : State} {b : BankId} {row : BitVec 16}

/-- The first line of a row. -/
def rowBase (b : BankId) (row : BitVec 16) : Nat := 1048576 * b.val + 16 * row.toNat

/-- The row moved and redirected, in the state t that the copies leave. -/
def rowMoved (t : State) (b : BankId) (k base : Nat) : State :=
  t.modStack k (fun x =>
    { x with remaps := Tab.modify (fun _ => []) x.remaps (b.val % 1024) (· ++ [base / 16 % 65536]),
             spare := { x.spare with rows := satAdd 65535 x.spare.rows 1 } })

theorem rowMoved_rest {t : State} {k base : Nat} : (rowMoved t b k base).mem = t.mem ∧ (rowMoved t b k base).regs = t.regs := ⟨rfl, rfl⟩

/-- The move recorded. -/
def rowLogged (t : State) (b : BankId) (row : BitVec 16) (k die pln : Nat) : State :=
  ((t.mapChange 5 (65536 * b.val + row.toNat)).logWear 5 (b.val / 32) (b.val % 32) pln).noteRecent (2147483648 + 16 * k + die)

/-- A row remapped with a spare row free. -/
def rowRemapped (s : State) (b : BankId) (row : BitVec 16) (k base : Nat) (lines : List Nat) (die pln : Nat) : State :=
  let t := rowLogged (rowMoved (lines.foldl State.copyLine s) b k base) b row k die pln
  if t.recentCount (2147483648 + 16 * k + die) = 8 then t.dieTrigger k die else t

theorem remap_eq {k base : Nat} {lines : List Nat} {die pln : Nat} : execRowRemap.remap b row s k base lines die pln =
    if 32 ≤ (Tab.get (fun _ => []) (s.stack k).remaps (b.val % 1024)).length then s.dieTrigger k die
    else rowRemapped s b row k base lines die pln := rfl

/-- The lines of a row. -/
def rowLines (b : BankId) (row : BitVec 16) : List Nat := (List.range 16).map (rowBase b row + ·)

/-- The row is sound. -/
def rowSound (s : State) (b : BankId) (row : BitVec 16) : Prop := ∀ i, i < 16 → s.lineFails (rowBase b row + i) = false

theorem rowSound_iff : (rowLines b row).find? s.lineFails = none ↔ rowSound s b row := by
  rw [List.find?_eq_none]
  simp [rowSound, rowLines]

theorem exec_rowRemap_eq : execRowRemap b row s = .next (match (rowLines b row).find? s.lineFails with
    | none => if s.recentCount (1073741824 + rowBase b row / 16) < 4 then s
        else execRowRemap.remap b row s (b.val / 1024) (rowBase b row) (rowLines b row) (b.val / 32 % 32 / 2) (rowBase b row)
    | some bad => execRowRemap.remap b row s (b.val / 1024) (rowBase b row) (rowLines b row) (b.val / 32 % 32 / 2) bad) := rfl

theorem exec_rowRemap_none (sound : rowSound s b row) (few : s.recentCount (1073741824 + rowBase b row / 16) < 4) :
    execRowRemap b row s = .next s := by
  rw [exec_rowRemap_eq, rowSound_iff.mpr sound]
  exact congrArg Host.Outcome.next (if_pos few)

theorem exec_rowRemap_due (due : ¬ rowSound s b row ∨ 4 ≤ s.recentCount (1073741824 + rowBase b row / 16)) :
    ∃ pln, execRowRemap b row s = .next (if 32 ≤ (Tab.get (fun _ => []) (s.stack (b.val / 1024)).remaps (b.val % 1024)).length then
      s.dieTrigger (b.val / 1024) (b.val / 32 % 32 / 2)
      else rowRemapped s b row (b.val / 1024) (rowBase b row) (rowLines b row) (b.val / 32 % 32 / 2) pln) := by
  rw [exec_rowRemap_eq]
  cases found : (rowLines b row).find? s.lineFails with
  | none =>
    have many := due.resolve_left (fun bad => bad (rowSound_iff.mp found))
    refine ⟨_, congrArg Host.Outcome.next ((if_neg ?_).trans remap_eq)⟩
    exact Nat.not_lt.mpr many
  | some bad => exact ⟨bad, congrArg Host.Outcome.next remap_eq⟩

theorem rowLine_stack {i : Nat} (hi : i < 16) : plnStack (rowBase b row + i) = b.val / 1024 := by
  have hb := b.isLt
  have hr := row.isLt
  unfold plnStack bitsOf rowBase
  omega

theorem rowLogged_tab (t : State) (k die pln : Nat) : (rowLogged t b row k die pln).stackTab = t.stackTab ∧
    (rowLogged t b row k die pln).mem = t.mem ∧ (rowLogged t b row k die pln).regs = t.regs := by
  have kept : Only [.sec, .spares] t (rowLogged t b row k die pln) :=
    only_noteRecent (within_sub (by decide) (within_refl _)) _ (only_logWear (within_sub (by decide) (within_refl _)) _ _ _ _
      (only_mapChange (within_sub (by decide) (within_refl _)) _ _ (only_refl _ t)))
  exact ⟨kept.same .stackTab (by simp), kept.same .mem (by simp), kept.same .regs (by simp)⟩

theorem rowRemapped_ends {k base die pln : Nat} {lines : List Nat} :
    StackKept k (rowLogged (rowMoved (lines.foldl State.copyLine s) b k base) b row k die pln) (rowRemapped s b row k base lines die pln) ∧
    Only [.stackTab, .sec, .spares] (rowLogged (rowMoved (lines.foldl State.copyLine s) b k base) b row k die pln)
      (rowRemapped s b row k base lines die pln) := by
  unfold rowRemapped
  dsimp only
  split
  · exact ⟨stackKept_dieTrigger die, only_dieTrigger (within_refl _) k die (only_refl _ _)⟩
  · exact ⟨stackKept_refl, only_refl _ _⟩

/-- A remapped row: of its stack one list and the count of rows, and no line but its own. -/
theorem rowRemapped_facts {pln die : Nat} {t : State} (ht : t = rowRemapped s b row (b.val / 1024) (rowBase b row) (rowLines b row) die pln) :
    (t.stack (b.val / 1024)).remaps = Tab.modify (fun _ => []) (s.stack (b.val / 1024)).remaps (b.val % 1024) (· ++ [row.toNat]) ∧
    (t.stack (b.val / 1024)).spare.rows = satAdd 65535 (s.stack (b.val / 1024)).spare.rows 1 ∧
    (∀ j, j ≠ b.val / 1024 → t.stack j = s.stack j) ∧
    (∀ l, l < rowBase b row ∨ rowBase b row + 16 ≤ l → t.stored l = s.stored l) ∧ t.regs = s.regs := by
  have mine : ∀ l, l ∈ rowLines b row → ∃ i, i < 16 ∧ l = rowBase b row + i := by
    intro l hl
    obtain ⟨i, hi, rfl⟩ := List.mem_map.mp hl
    exact ⟨i, List.mem_range.mp hi, rfl⟩
  have copied : StackKept (b.val / 1024) s ((rowLines b row).foldl State.copyLine s) := stackKept_copyLines fun l hl => by
    obtain ⟨i, hi, rfl⟩ := mine l hl
    exact rowLine_stack hi
  have stored : ∀ l, l < rowBase b row ∨ rowBase b row + 16 ≤ l → ((rowLines b row).foldl State.copyLine s).stored l = s.stored l := by
    intro l hl
    refine copyLines_stored (rowLines b row) fun hm => ?_
    obtain ⟨i, hi, e⟩ := mine l hm
    omega
  have regs : ((rowLines b row).foldl State.copyLine s).regs = s.regs :=
    (only_foldl _ (only_refl _ s) fun t l h => only_copyLine (within_refl _) l h).same .regs (by simp)
  have row' : rowBase b row / 16 % 65536 = row.toNat := by
    have hr := row.isLt
    unfold rowBase
    omega
  obtain ⟨moved, logged, regsLogged⟩ := rowLogged_tab (row := row) (b := b)
    (rowMoved ((rowLines b row).foldl State.copyLine s) b (b.val / 1024) (rowBase b row)) (b.val / 1024) die pln
  have ended : StackKept (b.val / 1024) (rowLogged (rowMoved ((rowLines b row).foldl State.copyLine s) b (b.val / 1024) (rowBase b row)) b row
      (b.val / 1024) die pln) t ∧ Only [.stackTab, .sec, .spares] (rowLogged (rowMoved ((rowLines b row).foldl State.copyLine s) b (b.val / 1024)
      (rowBase b row)) b row (b.val / 1024) die pln) t := by
    rw [ht]
    exact rowRemapped_ends
  obtain ⟨kept, frame⟩ := ended
  have stackMoved (j : Nat) := stack_congr moved j
  have same : (rowMoved ((rowLines b row).foldl State.copyLine s) b (b.val / 1024) (rowBase b row)).stack (b.val / 1024) = _ :=
    modStack_stack_same _ _ _
  refine ⟨?_, ?_, fun j hj => ?_, fun l hl => ?_, ?_⟩
  · rw [kept.remaps, stackMoved, same, copied.remaps, row']
  · rw [kept.rows, stackMoved, same, copied.rows]
  · rw [kept.others j hj, stackMoved]
    exact (modStack_stack_ne _ _ _ _ hj).trans (copied.others j hj)
  · exact (stored_congr (frame.same .mem (by simp)) l).trans ((stored_congr (logged.trans rowMoved_rest.1) l).trans (stored l hl))
  · exact (frame.same .regs (by simp)).trans ((regsLogged.trans rowMoved_rest.2).trans regs)

end

section

variable {s : State} {v : W64} {k : Nat}

theorem dieCmd_none (h : bitAt v 8 = false ∨ (s.stack (fld v 3 0)).spare.state ≠ 0) : s.dieCmd v = s := by
  unfold State.dieCmd
  exact if_pos (by obtain h | h := h <;> simp [h])

theorem dieCmd_starts (h : bitAt v 8 = true) (free : (s.stack (fld v 3 0)).spare.state = 0) :
    s.dieCmd v = s.dieTrigger (fld v 3 0) (fld v 7 4) := by
  unfold State.dieCmd
  exact if_neg (by simp [h, free])

/-- A free spare takes a die. -/
theorem dieTrigger_starts {die : Nat} (h : (s.stack k).spare.state = 0) : ((s.dieTrigger k die).stack k).spare.state = 1 ∧
    ((s.dieTrigger k die).stack k).spare.replaced = die ∧ ((s.dieTrigger k die).stack k).spare.progress = 0 ∧
    ∀ j, j ≠ k → (s.dieTrigger k die).stack j = s.stack j := by
  have tab := dieTrigger_free_tab (die := die) h
  refine ⟨?_, ?_, ?_, (stackKept_dieTrigger die).others⟩
  all_goals rw [stack_congr tab, modStack_stack_same]

theorem exec_dieCopyRowsDone_none {st : RowsDone} (h : (s.stack st.stack).spare.state ≠ 1 ∨ (s.stack st.stack).spare.holding = true) :
    execDieCopyRowsDone st s = .next s := by
  unfold execDieCopyRowsDone
  exact congrArg Host.Outcome.next (if_pos h)

/-- The die's lines copied and its packets held. -/
def dieHeld (s : State) (k : Nat) : State :=
  ((s.writtenLines.filter (fun l => plnStack l == k && plnChannel l / 2 == (s.stack k).spare.replaced)).foldl State.copyLine s).modStack k
    (fun y => { y with spare := { y.spare with holding := true, progress := 1023 } })

theorem exec_dieCopyRowsDone {st : RowsDone} (h : (s.stack st.stack).spare.state = 1) (hh : (s.stack st.stack).spare.holding = false) :
    execDieCopyRowsDone st s = .next (if !st.spareOk then s.spareFails st.stack else
      (dieEngines st.stack (s.stack st.stack).spare.replaced).foldl (fun (u : State) e => State.resumeOne (u.engine e).src u e)
        (dieHeld s st.stack)) := by
  unfold execDieCopyRowsDone
  exact congrArg Host.Outcome.next (if_neg (by simp [h, hh]))

/-- A spare die that failed. -/
theorem spareFails_facts : ((s.spareFails k).stack k).spare.state = 3 ∧
    ((s.spareFails k).stack k).spare.holding = (s.stack k).spare.holding ∧ (∀ j, j ≠ k → (s.spareFails k).stack j = s.stack j) ∧
    Only [.stackTab, .sec, .spares] s (s.spareFails k) := by
  have failed : ((s.modStack k (fun y => { y with spare := { y.spare with state := 3, progress := 0 } })).stack k) = _ :=
    modStack_stack_same _ _ _
  have kept : StackKept k (s.modStack k (fun y => { y with spare := { y.spare with state := 3, progress := 0 } })) (s.spareFails k) :=
    stackKept_dieTrigger _
  have spare := kept.spare (by rw [failed]; exact Nat.succ_ne_zero 2)
  refine ⟨?_, ?_, fun j hj => (kept.others j hj).trans (modStack_stack_ne _ _ _ _ hj), ?_⟩
  · rw [spare, failed]
  · rw [spare, failed]
  · exact only_dieTrigger (within_refl _) _ _ (only_modStack (within_sub (by decide) (within_refl _)) k _ (only_refl _ s))

theorem dieHeld_spare (h : (s.stack k).spare.state = 1) :
    ((dieHeld s k).stack k).spare = { (s.stack k).spare with holding := true, progress := 1023 } := by
  have copied : StackKept k s ((s.writtenLines.filter (fun l => plnStack l == k && plnChannel l / 2 == (s.stack k).spare.replaced)).foldl
      State.copyLine s) := stackKept_copyLines fun l hl => by
    have mine := (List.mem_filter.mp hl).2
    simp only [Bool.and_eq_true, beq_iff_eq] at mine
    exact mine.1
  unfold dieHeld
  rw [modStack_stack_same, copied.spare (by rw [h]; decide)]

theorem resumes_spare (es : List Nat) (t : State) (j : Nat) :
    ((es.foldl (fun (u : State) e => State.resumeOne (u.engine e).src u e) t).stack j).spare = (t.stack j).spare :=
  foldl_keeps (fun u : State => (u.stack j).spare) (fun (u : State) e => State.resumeOne (u.engine e).src u e)
    (fun _ _ => resumeOne_spare _ _ _) _ _

theorem dieHeld_regs : (dieHeld s k).regs = s.regs :=
  (only_foldl (l := s.writtenLines.filter (fun l => plnStack l == k && plnChannel l / 2 == (s.stack k).spare.replaced)) (only_refl _ s)
    fun t l h => only_copyLine (within_refl _) l h).same .regs (by simp)

theorem resumes_regs (es : List Nat) (t : State) :
    (es.foldl (fun (u : State) e => State.resumeOne (u.engine e).src u e) t).regs = t.regs :=
  (only_foldl (l := es) (only_refl _ t) fun u e h => only_resumeOne (within_refl _) _ e h).same .regs (by simp)

end

section

variable {s : State} {b : BankId} {row : BitVec 16}

/-- With no spare row left the row's die is replaced. -/
theorem rowRemap_full (due : ¬ rowSound s b row ∨ 4 ≤ s.recentCount (1073741824 + rowBase b row / 16))
    (full : 32 ≤ (Tab.get (fun _ => []) (s.stack (b.val / 1024)).remaps (b.val % 1024)).length) :
    Completes (.rowRemap b row) s (fun t => t = s.dieTrigger (b.val / 1024) (b.val / 32 % 32 / 2)) := by
  obtain ⟨pln, run⟩ := exec_rowRemap_due due
  exact completes_next (run.trans (congrArg Host.Outcome.next (if_pos full))) rfl

/-- With a spare row left the row moves. -/
theorem rowRemap_moves (due : ¬ rowSound s b row ∨ 4 ≤ s.recentCount (1073741824 + rowBase b row / 16))
    (room : (Tab.get (fun _ => []) (s.stack (b.val / 1024)).remaps (b.val % 1024)).length < 32) :
    Completes (.rowRemap b row) s (fun t =>
      Tab.get (fun _ => []) (t.stack (b.val / 1024)).remaps (b.val % 1024) =
        Tab.get (fun _ => []) (s.stack (b.val / 1024)).remaps (b.val % 1024) ++ [row.toNat] ∧
      (∀ j, j ≠ b.val % 1024 → Tab.get (fun _ => []) (t.stack (b.val / 1024)).remaps j =
        Tab.get (fun _ => []) (s.stack (b.val / 1024)).remaps j) ∧
      (t.stack (b.val / 1024)).spare.rows = satAdd 65535 (s.stack (b.val / 1024)).spare.rows 1 ∧
      (∀ j, j ≠ b.val / 1024 → t.stack j = s.stack j) ∧
      (∀ l, l < rowBase b row ∨ rowBase b row + 16 ≤ l → t.stored l = s.stored l) ∧ t.regs = s.regs) := by
  obtain ⟨pln, run⟩ := exec_rowRemap_due due
  rw [if_neg (Nat.not_le.mpr room)] at run
  generalize ht : rowRemapped s b row (b.val / 1024) (rowBase b row) (rowLines b row) (b.val / 32 % 32 / 2) pln = t at run
  obtain ⟨remaps, rows, others, stored, regs⟩ := rowRemapped_facts ht.symm
  refine completes_next run ⟨?_, fun j hj => ?_, rows, others, stored, regs⟩
  · rw [remaps, tab_get_modify_same]
  · rw [remaps, tab_get_modify_ne _ _ _ _ _ hj]

end

/-- Settles O52: each command by its guards; the copies leave of the stacks and of memory what their lines do not hold. -/
theorem sparesTakeTheirPlaces : Obligations.SparesTakeTheirPlaces := by
  unfold Obligations.SparesTakeTheirPlaces
  refine ⟨fun s h => completes_next (exec_repairMapWrite h) rfl, fun fn v s hf bar => ?_,
    fun s b h => completes_next (exec_wearLogReadComplete_none h) rfl, fun s h => ?_, fun failing s up due => ?_,
    fun failing s h => completes_next (exec_clusterRetest_none h) rfl, fun b row s => ?_,
    fun st ok s h => completes_next (exec_dieCopyRowsDone_none h) rfl, fun st s h hh => ⟨?_, ?_⟩⟩
  · have wear : exec (.wearLogRead fn v) s = .next (s.wearRead v) := exec_wearLogRead hf bar
    have mark : exec (.clusterMark fn v) s = .next (s.clusterMarkWrite v) := exec_clusterMark hf bar
    have copy : exec (.dieCopy fn v) s = .next (s.dieCmd v) := exec_dieCopy hf bar
    refine ⟨fun free => completes_next wear (wearRead_free free), fun busy => completes_next wear (wearRead_busy busy),
      fun out => completes_next mark (if_pos out), ?_, fun off => completes_next copy (dieCmd_none (.inl off)), ?_⟩
    · intro c inside
      have run : exec (.clusterMark fn v) s = .next (s.markCluster c) := mark.trans (congrArg Host.Outcome.next (if_neg (by omega)))
      refine ⟨fun h => completes_next run (markCluster_none h), fun hw hm => ?_⟩
      obtain ⟨mine, others, changes⟩ := markCluster_facts hw hm
      have kept := markCluster_only (s := s) c
      exact completes_next run ⟨mine, others, changes, kept.same .mem (by simp), kept.same .parts (by simp), kept.same .regs (by simp)⟩
    · intro k on
      refine ⟨fun free => ?_, fun taken => completes_next copy (dieCmd_none (.inr taken))⟩
      obtain ⟨state, replaced, progress, others⟩ := dieTrigger_starts (die := fld v 7 4) free
      have kept := only_dieTrigger (within_refl _) k (fld v 7 4) (only_refl _ s)
      exact completes_next (copy.trans (congrArg Host.Outcome.next (dieCmd_starts on free))) ⟨state, replaced, progress, others,
        kept.same .mem (by simp), kept.same .engines (by simp), kept.same .regs (by simp)⟩
  · intro f log
    exact ⟨completes_next (exec_wearLogReadComplete_sent h) rfl, completes_next (exec_wearLogReadComplete_failed h) rfl⟩
  · obtain ⟨marked, others, kept⟩ := markClusters_facts (failing.filter s.idleWorking) (tested s) fun c hc => by
      have idle := (List.mem_filter.mp hc).2
      simp only [State.idleWorking, Bool.and_eq_true] at idle
      exact idle.1.2
    refine completes_next (exec_clusterRetest up due) ⟨?_, fun c hc idle => marked c (.inl (List.mem_filter.mpr ⟨hc, idle⟩)),
      fun c hc => others c fun hm => ?_, kept.same .mem (by simp), kept.same .parts (by simp), kept.same .regs (by simp)⟩
    · have module := kept.same .module (by simp)
      have at' := congrArg Module.testedAt module
      exact at'
    · obtain ⟨hm, idle⟩ := List.mem_filter.mp hm
      obtain hc | hc := hc
      · exact hc hm
      · rw [hc] at idle
        cases idle
  · intro k base used sound
    exact ⟨fun ok few => completes_next (exec_rowRemap_none ok few) rfl, rowRemap_full, rowRemap_moves⟩
  · have run := exec_dieCopyRowsDone (st := ⟨st, false⟩) h hh
    simp only [Bool.not_false, if_true] at run
    obtain ⟨state, holding, others, kept⟩ := spareFails_facts (s := s) (k := st)
    exact completes_next run ⟨state, holding.trans hh, others, kept.same .mem (by simp), kept.same .engines (by simp), kept.same .regs (by simp)⟩
  · have run := exec_dieCopyRowsDone (st := ⟨st, true⟩) h hh
    simp only [Bool.not_true, Bool.false_eq_true, if_false] at run
    have spare := (resumes_spare (dieEngines st (s.stack st).spare.replaced) (dieHeld s st) st).trans (dieHeld_spare h)
    refine completes_next run ⟨?_, ?_, ?_, (resumes_regs _ _).trans dieHeld_regs⟩
    all_goals rw [spare]

end Sys2Proof.Proofs
end

section
/-! PROOF of slots and copies under a stop of the module (13 R347) -/

namespace Sys2Proof.Proofs

open Sys2Proof Sys2Proof.Machine Sys2Proof.Laws

/-! ### What keeps the states of the partition slots (13 R335) -/

/-- Every partition slot is in the state that it had. -/
structure ModesKept (s t : State) : Prop where
  mode : ∀ p, (t.part p).mode = (s.part p).mode

section

variable {s₀ : State}

theorem modes_refl {s : State} : ModesKept s s := ⟨fun _ => rfl⟩

theorem modes_trans {s t u : State} (h : ModesKept s t) (g : ModesKept t u) : ModesKept s u := ⟨fun p => (g.mode p).trans (h.mode p)⟩

theorem modes_only {s t : State} {L : List Fld} (h : Only L s t) (hm : Fld.parts ∉ L) (hs : ModesKept s₀ s) : ModesKept s₀ t := by
  refine ⟨fun p => ?_⟩
  rw [part_of_parts (h.same .parts hm)]
  exact hs.mode p

theorem modes_foldl {α : Type} {g : State → α → State} {l : List α} {s : State} (h : ModesKept s₀ s)
    (hg : ∀ t a, ModesKept s₀ t → ModesKept s₀ (g t a)) : ModesKept s₀ (l.foldl g s) := by
  induction l generalizing s with
  | nil => exact h
  | cons a l ih => exact ih (hg s a h)

theorem modes_fst {α : Type} {t : State} {x : State × α} {o : α} (hx : x = (t, o)) (h : ModesKept s₀ x.1) : ModesKept s₀ t := by
  rw [hx] at h
  exact h

theorem modes_mk {pending free out unsent clusters quarters stackTab engines mem memory partCtl copies nextCopy fns buckets intr regs links sec power time
    module spares} {s : State}
    (h : ModesKept s₀ s) : ModesKept s₀ ⟨pending, free, out, unsent, clusters, quarters, stackTab, engines, mem, memory, s.parts, partCtl, copies, nextCopy,
        fns, buckets, intr, regs, links, sec, power, time, module, spares⟩ := ⟨h.mode⟩

theorem modes_corrected {s : State} (pln : Nat) (h : ModesKept s₀ s) : ModesKept s₀ (State.corrected s pln) :=
  modes_only (only_corrected (within_refl _) pln (only_refl _ s)) (by simp) h

theorem modes_setStored {s : State} (pln : Nat) (bs : List Byte) (h : ModesKept s₀ s) : ModesKept s₀ (State.setStored s pln bs) :=
  modes_only (only_setStored (within_refl _) pln bs (only_refl _ s)) (by simp) h

theorem modes_modCe {s : State} (c : Nat) (f : Ce → Ce) (h : ModesKept s₀ s) : ModesKept s₀ (State.modCe s c f) :=
  modes_only (only_modCe (within_refl _) c f (only_refl _ s)) (by simp) h

theorem modes_recordError {s : State} (source severity code pln partition : Nat) (h : ModesKept s₀ s) : ModesKept s₀ (State.recordError s source severity code pln partition) :=
  modes_only (only_recordError (within_refl _) source severity code pln partition (only_refl _ s)) (by simp) h

theorem modes_latch {s : State} (n : Nat) (h : ModesKept s₀ s) : ModesKept s₀ (State.latch s n) :=
  modes_only (only_latch (within_refl _) n (only_refl _ s)) (by simp) h

theorem modes_postTo {s : State} (fns : List Nat) (block code inst arg : Nat) (h : ModesKept s₀ s) : ModesKept s₀ (State.postTo s fns block code inst arg) :=
  modes_only (only_postTo (within_refl _) fns block code inst arg (only_refl _ s)) (by simp) h

theorem modes_queueRepair {s : State} (pln n p : Nat) (h : ModesKept s₀ s) : ModesKept s₀ (State.queueRepair s pln n p) :=
  modes_only (only_queueRepair (within_refl _) pln n p (only_refl _ s)) (by simp) h

theorem modes_useFree {s : State} (h : ModesKept s₀ s) : ModesKept s₀ (State.useFree s) :=
  modes_only (only_useFree (within_refl _)  (only_refl _ s)) (by simp) h

theorem modes_modRegion {s : State} (n : Nat) (f : Region → Region) (h : ModesKept s₀ s) : ModesKept s₀ (State.modRegion s n f) :=
  modes_only (only_modRegion (within_refl _) n f (only_refl _ s)) (by simp) h

theorem modes_post {s : State} (fn block code inst arg : Nat) (h : ModesKept s₀ s) : ModesKept s₀ (State.post s fn block code inst arg) :=
  modes_only (only_post (within_refl _) fn block code inst arg (only_refl _ s)) (by simp) h

theorem modes_blankRegion {s : State} (r : Region) (h : ModesKept s₀ s) : ModesKept s₀ (State.blankRegion s r) :=
  modes_only (only_blankRegion (within_refl _) r (only_refl _ s)) (by simp) h

theorem modes_abortOne {s : State} (e : Nat) (h : ModesKept s₀ s) : ModesKept s₀ (State.abortOne s e) :=
  modes_only (only_abortOne (within_refl _) e (only_refl _ s)) (by simp) h

theorem modes_endSessions {s : State} (h : ModesKept s₀ s) : ModesKept s₀ (State.endSessions s) :=
  modes_only (only_endSessions (within_refl _)  (only_refl _ s)) (by simp) h

theorem modes_cutRings {s : State} (fn : Nat) (h : ModesKept s₀ s) : ModesKept s₀ (State.cutRings s fn) :=
  modes_only (only_cutRings (within_refl _) fn (only_refl _ s)) (by simp) h

theorem modes_hostWrite {s : State} (fn addr : Nat) (bs : List Byte) (h : ModesKept s₀ s) : ModesKept s₀ (State.hostWrite s fn addr bs) :=
  modes_only (only_hostWrite (within_refl _) fn addr bs (only_refl _ s)) (by simp) h

theorem modes_writeSpot {s : State} (x : Spot) (v : Nat) (h : ModesKept s₀ s) : ModesKept s₀ (State.writeSpot s x v) :=
  modes_only (only_writeSpot (within_refl _) x v (only_refl _ s)) (by simp) h

theorem modes_writeLine {s : State} (pln : Nat) (l : Line) (h : ModesKept s₀ s) : ModesKept s₀ (State.writeLine s pln l) :=
  modes_only (only_writeLine (within_refl _) pln l (only_refl _ s)) (by simp) h

theorem modes_modClusters {s : State} (cs : List Nat) (f : Cluster → Cluster) (h : ModesKept s₀ s) : ModesKept s₀ (State.modClusters s cs f) :=
  modes_only (only_modClusters (within_refl _) cs f (only_refl _ s)) (by simp) h

theorem modes_abortRuns {s : State} (p : Nat) (h : ModesKept s₀ s) : ModesKept s₀ (State.abortRuns s p) :=
  modes_only (only_abortRuns (within_refl _) p (only_refl _ s)) (by simp) h

theorem modes_putRing {s : State} (fn r : Nat) (bs : List Byte) (h : ModesKept s₀ s) : ModesKept s₀ (State.putRing s fn r bs) :=
  modes_only (only_putRing (within_refl _) fn r bs (only_refl _ s)) (by simp) h

theorem modes_modPart {s : State} (p : Nat) (f : Part → Part) (hf : ∀ x, (f x).mode = x.mode) (h : ModesKept s₀ s) : ModesKept s₀ (State.modPart s p f) := by
  refine ⟨fun q => ?_⟩
  by_cases e : q = p
  · rw [e, modPart_part_same, hf]
    exact h.mode p
  · rw [modPart_part_ne _ _ _ _ e]
    exact h.mode q

theorem modes_modRound {s : State} (p : Nat) (f : Round → Round) (h : ModesKept s₀ s) : ModesKept s₀ (State.modRound s p f) := by
  dsimp only [State.modRound]
  repeat' first
    | with_reducible assumption
    | exact fun _ => rfl
    | with_reducible apply modes_modPart

theorem modes_badFirmwareLine {s : State} (r : Region) (pln : Nat) (h : ModesKept s₀ s) : ModesKept s₀ (State.badFirmwareLine s r pln) := by
  dsimp only [State.badFirmwareLine]
  repeat' first
    | with_reducible assumption
    | exact fun _ => rfl
    | with_reducible apply modes_modPart
    | with_reducible apply modes_faultDue
    | with_reducible apply modes_useFree
    | with_reducible apply modes_setStored
    | split
    | with_reducible apply modes_mk

theorem modes_badLine {s : State} (source pln partition : Nat) (sealBad merge : Bool) (h : ModesKept s₀ s) : ModesKept s₀ (State.badLine s source pln partition sealBad merge) := by
  dsimp only [State.badLine]
  repeat' first
    | with_reducible assumption
    | exact fun _ => rfl
    | with_reducible apply modes_modCe
    | with_reducible apply modes_recordError
    | with_reducible apply modes_latch
    | with_reducible apply modes_setStored
    | with_reducible apply modes_postTo
    | with_reducible apply modes_badFirmwareLine
    | with_reducible apply modes_queueRepair
    | split

theorem modes_readLineFor {s : State} (source pln partition : Nat) (merge : Bool) (h : ModesKept s₀ s) : ModesKept s₀ (State.readLineFor s source pln partition merge).1 := by
  dsimp only [State.readLineFor]
  repeat' first
    | with_reducible assumption
    | exact fun _ => rfl
    | with_reducible apply modes_badLine
    | with_reducible apply modes_corrected
    | with_reducible apply modes_setStored
    | split

theorem modes_readLine {s : State} (source pln partition : Nat) (h : ModesKept s₀ s) : ModesKept s₀ (State.readLine s source pln partition).1 := by
  dsimp only [State.readLine]
  repeat' first
    | with_reducible assumption
    | exact fun _ => rfl
    | with_reducible apply modes_readLineFor

theorem modes_mergeLine {s : State} (source pln partition pos len v : Nat) (h : ModesKept s₀ s) : ModesKept s₀ (State.mergeLine s source pln partition pos len v).1 := by
  dsimp only [State.mergeLine]
  repeat' first
    | with_reducible assumption
    | exact fun _ => rfl
    | with_reducible apply modes_writeLine
    | with_reducible apply modes_readLineFor
    | split
    | refine modes_fst (by with_reducible assumption) ?_

theorem modes_journal {s : State} (p typ : Nat) (body : List Byte) (h : ModesKept s₀ s) : ModesKept s₀ (State.journal s p typ body) := by
  dsimp only [State.journal]
  repeat' first
    | with_reducible assumption
    | exact fun _ => rfl
    | with_reducible apply modes_foldl
    | intro _ _ _
    | with_reducible apply modes_modPart
    | with_reducible apply modes_putRing
    | split

theorem modes_emptyRound {s : State} (p : Nat) (h : ModesKept s₀ s) : ModesKept s₀ (State.emptyRound s p) := by
  dsimp only [State.emptyRound]
  repeat' first
    | with_reducible assumption
    | exact fun _ => rfl
    | with_reducible apply modes_modRound

theorem modes_modTensor {s : State} (p i : Nat) (f : TensorEntry → TensorEntry) (h : ModesKept s₀ s) : ModesKept s₀ (State.modTensor s p i f) := by
  dsimp only [State.modTensor]
  repeat' first
    | with_reducible assumption
    | exact fun _ => rfl
    | with_reducible apply modes_modPart

theorem modes_invalidate {s : State} (rg : Region) (p : Nat) (h : ModesKept s₀ s) : ModesKept s₀ (State.invalidate s rg p) := by
  dsimp only [State.invalidate]
  repeat' first
    | with_reducible assumption
    | exact fun _ => rfl
    | with_reducible apply modes_foldl
    | intro _ _ _
    | with_reducible apply modes_modTensor
    | with_reducible apply modes_post
    | split

theorem modes_readSpot {s : State} (p : Nat) (ext : List (Spot × Line)) (x : Spot) (h : ModesKept s₀ s) : ModesKept s₀ (State.readSpot s p ext x).1 := by
  dsimp only [State.readSpot]
  repeat' first
    | with_reducible assumption
    | exact fun _ => rfl
    | with_reducible apply modes_readLine
    | split
    | refine modes_fst (by with_reducible assumption) ?_

theorem modes_readSpots {s : State} (p : Nat) (ext : List (Spot × Line)) (l : List Spot) (h : ModesKept s₀ s) : ModesKept s₀ ((State.readSpots s p ext) l).1 := by
  induction l generalizing s with
  | nil => exact h
  | cons a l ih =>
    dsimp only [State.readSpots]
    repeat' first
      | with_reducible assumption
      | exact fun _ => rfl
      | with_reducible apply ih
      | with_reducible apply modes_readSpot
      | split
      | refine modes_fst (by with_reducible assumption) ?_

theorem modes_applyPiece {s : State} (p : Nat) (x : Piece) (h : ModesKept s₀ s) : ModesKept s₀ (State.applyPiece s p x).1 := by
  dsimp only [State.applyPiece]
  repeat' first
    | with_reducible assumption
    | exact fun _ => rfl
    | with_reducible apply modes_foldl
    | intro _ _ _
    | with_reducible apply modes_mergeLine
    | with_reducible apply modes_hostWrite
    | with_reducible apply modes_readSpot
    | with_reducible apply modes_writeSpot
    | with_reducible apply modes_readSpots
    | split
    | refine modes_fst (by with_reducible assumption) ?_

theorem modes_applyAny {s : State} (p : Nat) (xs : List Piece) (h : ModesKept s₀ s) : ModesKept s₀ (State.applyAny s p xs) := by
  dsimp only [State.applyAny]
  repeat' first
    | with_reducible assumption
    | exact fun _ => rfl
    | with_reducible apply modes_foldl
    | intro _ _ _
    | with_reducible apply modes_useFree
    | with_reducible apply modes_applyPiece
    | split

theorem modes_sieveLine {s : State} (z : SieveSum) (pln : Nat) (h : ModesKept s₀ s) : ModesKept s₀ (State.sieveLine s z pln).1 := by
  dsimp only [State.sieveLine]
  repeat' first
    | with_reducible assumption
    | exact fun _ => rfl
    | with_reducible apply modes_badLine
    | with_reducible apply modes_modRound
    | with_reducible apply modes_corrected
    | with_reducible apply modes_setStored
    | split

theorem modes_sieveLines {s : State} (z : SieveSum) (ls : List Nat) (h : ModesKept s₀ s) : ModesKept s₀ (State.sieveLines s z ls).1 := by
  unfold State.sieveLines
  induction ls generalizing s z with
  | nil => exact h
  | cons l ls ih => exact ih (s.sieveLine z l).2 (modes_sieveLine z l h)

theorem modes_resieveNow {s : State} (h : ModesKept s₀ s) : ModesKept s₀ (State.resieveNow s) := by
  dsimp only [State.resieveNow]
  repeat' first
    | with_reducible assumption
    | exact fun _ => rfl
    | with_reducible apply modes_sieveLines
    | split
    | refine modes_fst (by with_reducible assumption) ?_
    | with_reducible apply modes_mk

theorem modes_leaveRegion {s : State} (n : Nat) (h : ModesKept s₀ s) : ModesKept s₀ (State.leaveRegion s n) := by
  dsimp only [State.leaveRegion]
  repeat' first
    | with_reducible assumption
    | exact fun _ => rfl
    | with_reducible apply modes_foldl
    | intro _ _ _
    | with_reducible apply modes_invalidate
    | with_reducible apply modes_modPart
    | with_reducible apply modes_resieveNow
    | split
    | with_reducible apply modes_mk

theorem modes_faultDue {s : State} (p : Nat) (h : ModesKept s₀ s) : ModesKept s₀ (State.faultDue s p) := by
  dsimp only [State.faultDue]
  repeat' first
    | with_reducible assumption
    | exact fun _ => rfl
    | with_reducible apply modes_modPart

theorem modes_dropRegion {s : State} (n : Nat) (h : ModesKept s₀ s) : ModesKept s₀ (State.dropRegion s n) := by
  dsimp only [State.dropRegion]
  repeat' first
    | with_reducible assumption
    | exact fun _ => rfl
    | with_reducible apply modes_leaveRegion
    | with_reducible apply modes_blankRegion
    | with_reducible apply modes_modRegion

theorem modes_leaveShares {s : State} (p : Nat) (h : ModesKept s₀ s) : ModesKept s₀ (State.leaveShares s p) := by
  dsimp only [State.leaveShares]
  repeat' first
    | with_reducible assumption
    | exact fun _ => rfl
    | with_reducible apply modes_foldl
    | intro _ _ _
    | with_reducible apply modes_invalidate
    | with_reducible apply modes_modRegion
    | split

theorem modes_dropTensors {s : State} (p : Nat) (h : ModesKept s₀ s) : ModesKept s₀ (State.dropTensors s p) := by
  dsimp only [State.dropTensors]
  repeat' first
    | with_reducible assumption
    | exact fun _ => rfl
    | with_reducible apply modes_modPart

theorem modes_stopCopies {s : State} (p : Nat) (h : ModesKept s₀ s) : ModesKept s₀ (State.stopCopies s p) := by
  dsimp only [State.stopCopies]
  repeat' first
    | with_reducible assumption
    | exact fun _ => rfl
    | with_reducible apply modes_foldl
    | intro _ _ _
    | with_reducible apply modes_applyAny
    | split
    | with_reducible apply modes_mk

theorem modes_tdiFails {s : State} (p : Nat) (h : ModesKept s₀ s) : ModesKept s₀ (State.tdiFails s p) := by
  dsimp only [State.tdiFails]
  repeat' first
    | with_reducible assumption
    | exact fun _ => rfl
    | with_reducible apply modes_modPart

theorem modes_stopJournal {s : State} (p : Nat) (h : ModesKept s₀ s) : ModesKept s₀ (State.stopJournal s p) := by
  dsimp only [State.stopJournal]
  repeat' first
    | with_reducible assumption
    | exact fun _ => rfl
    | with_reducible apply modes_modPart

theorem modes_destroyKeys {s : State} (p : Nat) (h : ModesKept s₀ s) : ModesKept s₀ (State.destroyKeys s p) := by
  dsimp only [State.destroyKeys]
  repeat' first
    | with_reducible assumption
    | exact fun _ => rfl
    | with_reducible apply modes_modRound
    | split
    | with_reducible apply modes_mk

theorem modes_loseWork {s : State} (p : Nat) (h : ModesKept s₀ s) : ModesKept s₀ (State.loseWork s p) := by
  dsimp only [State.loseWork]
  repeat' first
    | with_reducible assumption
    | exact fun _ => rfl
    | with_reducible apply modes_modClusters
    | with_reducible apply modes_abortRuns
    | with_reducible apply modes_stopCopies
    | with_reducible apply modes_emptyRound
    | with_reducible apply modes_modRound
    | with_reducible apply modes_stopJournal
    | with_reducible apply modes_modPart

theorem modes_dropUnrepairable {s : State} (h : ModesKept s₀ s) : ModesKept s₀ (State.dropUnrepairable s) := by
  dsimp only [State.dropUnrepairable]
  repeat' first
    | with_reducible assumption
    | exact fun _ => rfl
    | with_reducible apply modes_foldl
    | intro _ _ _
    | with_reducible apply modes_dropRegion

theorem modes_stopModule {s : State} (h : ModesKept s₀ s) : ModesKept s₀ (State.stopModule s) := by
  dsimp only [State.stopModule]
  repeat' first
    | with_reducible assumption
    | exact fun _ => rfl
    | with_reducible apply modes_foldl
    | intro _ _ _
    | with_reducible apply modes_abortOne
    | with_reducible apply modes_stopCopies
    | with_reducible apply modes_endSessions
    | with_reducible apply modes_cutRings
    | split
    | with_reducible apply modes_mk

end

/-! ### A stopped module (13 R347) -/

/-- Nothing runs, nothing waits for an answer, and the copies left are no partition's. -/
structure Stilled (t : State) : Prop where
  jobs : ∀ k, (t.cluster k).job = none
  idle : ∀ e, (t.engine e).busy = false
  sent : t.links.sent = []
  copies : ∀ c, c ∈ t.copies → 8 ≤ c.partition

section

variable {s t : State} {p : Nat}

theorem stilled_only {L : List Fld} (h : Only L s t) (hc : Fld.clusters ∉ L) (he : Fld.engines ∉ L) (hl : Fld.links ∉ L) (hp : Fld.copies ∉ L)
    (q : Stilled s) : Stilled t where
  jobs k := by
    unfold State.cluster
    rw [h.same .clusters hc]
    exact q.jobs k
  idle e := by
    unfold State.engine
    rw [h.same .engines he]
    exact q.idle e
  sent := by
    rw [show t.links = s.links from h.same .links hl]
    exact q.sent
  copies c hm := q.copies c ((show t.copies = s.copies from h.same .copies hp) ▸ hm)

theorem stilled_modClusters (cs : List Nat) (q : Stilled s) : Stilled (s.modClusters cs leaveJob) := by
  have kept := only_modClusters (within_refl _) cs leaveJob (only_refl _ s)
  refine ⟨fun k => ?_, fun e => ?_, ?_, fun c hm => q.copies c ?_⟩
  · by_cases hk : k ∈ cs
    · obtain ⟨x, hx⟩ := modClusters_cluster_mem (s := s) (f := leaveJob) hk
      rw [hx]
      exact leaveJob_job x
    · rw [modClusters_cluster_ne hk]
      exact q.jobs k
  · unfold State.engine
    rw [kept.same .engines (by simp)]
    exact q.idle e
  · rw [show (s.modClusters cs leaveJob).links = s.links from kept.same .links (by simp)]
    exact q.sent
  · exact (show (s.modClusters cs leaveJob).copies = s.copies from kept.same .copies (by simp)) ▸ hm

theorem abortRuns_stilled (q : Stilled s) : s.abortRuns p = s := by
  unfold State.abortRuns
  generalize s.runsOf p = es
  induction es with
  | nil => rfl
  | cons e es ih => rw [List.foldl_cons, abortOne_idle (q.idle e), ih]

/-- With no copy of its own a partition's copies stop at once. -/
theorem stopCopies_none (h : ∀ c, c ∈ s.copies → c.partition ≠ p) : s.stopCopies p =
    { s with copies := s.copies.filter (fun c => c.partition != p),
             links := { s.links with sent := s.links.sent.filter (fun x => x.partition != p || x.copy.isNone),
                                     colls := s.links.colls.filter (fun x => x.1 != p) } } := by
  have none : s.copies.filter (fun c => c.partition == p) = [] := by
    rw [List.filter_eq_nil_iff]
    intro c hc
    simpa using h c hc
  unfold State.stopCopies
  rw [none]
  rfl

theorem stilled_stopCopies (hp : p < 8) (q : Stilled s) : Stilled (s.stopCopies p) := by
  rw [stopCopies_none fun c hc => by have := q.copies c hc; omega]
  refine ⟨q.jobs, q.idle, ?_, fun c hm => q.copies c (List.mem_filter.mp hm).1⟩
  show s.links.sent.filter _ = []
  rw [q.sent]
  rfl

theorem stilled_loseWork (hp : p < 8) (q : Stilled s) : Stilled (s.loseWork p) := by
  have left := stilled_modClusters (s.partClusters p) q
  have stopped := stilled_stopCopies hp ((abortRuns_stilled (p := p) left).symm ▸ left)
  have emptied := stilled_only (only_emptyRound (within_refl _) p (only_refl _ _)) (by simp) (by simp) (by simp) (by simp) stopped
  have round := stilled_only (only_modRound (within_refl _) p (fun r => { r with pr := { r.pr with used := [] } }) (only_refl _ _))
    (by simp) (by simp) (by simp) (by simp) emptied
  have journal := stilled_only (only_stopJournal (within_refl _) p (only_refl _ _)) (by simp) (by simp) (by simp) (by simp) round
  exact stilled_only (only_modPart (within_refl _) p _ (only_refl _ _)) (by simp) (by simp) (by simp) (by simp) journal

theorem losePart_only (cause : Nat) (h : s.holds p = true) : Only [.mem, .parts, .sec] (s.loseWork p) (s.losePart p cause) := by
  unfold State.losePart
  rw [if_neg (by simp [h])]
  dsimp only
  have taken (f : Part → Part) : Only [.mem, .parts, .sec] (s.loseWork p) ((((s.loseWork p).dropTensors p).blankFw p).modPart p f) :=
    only_modPart (within_sub (by decide) (within_refl _)) p f (only_blankFw (within_sub (by decide) (within_refl _)) p
      (only_dropTensors (within_sub (by decide) (within_refl _)) p (only_refl _ _)))
  split
  · have ended (f g : Part → Part) : Only [.mem, .parts, .sec] (s.loseWork p)
        ((((((((s.loseWork p).dropTensors p).blankFw p).modPart p f).tdiFails p).destroyKeys p).modPart p g)) :=
      only_modPart (within_sub (by decide) (within_refl _)) p g (only_destroyKeys (within_sub (by decide) (within_refl _)) p
        (only_tdiFails (within_sub (by decide) (within_refl _)) p (taken f)))
    split
    · exact ended _ _
    · exact only_set_sec (within_sub (by decide) (within_refl _)) _ (ended _ _)
  · exact taken _

theorem stilled_losePart (cause : Nat) (hp : p < 8) (q : Stilled s) : Stilled (s.losePart p cause) := by
  cases h : s.holds p with
  | false =>
    rw [show s.losePart p cause = s from if_pos (by simp [h])]
    exact q
  | true =>
    exact stilled_only (losePart_only cause h) (by simp) (by simp) (by simp) (by simp) (stilled_loseWork hp q)

theorem resieveNow_none (h : s.memory.resieve = []) : s.resieveNow = s := if_pos (by simp [h])

theorem leaveRegion_only (n : Nat) (h : s.memory.resieve = []) : Only [.out, .unsent, .memory, .parts, .fns, .buckets] s (s.leaveRegion n) ∧
    (s.leaveRegion n).memory.resieve = [] := by
  have left : Only [.out, .unsent, .parts, .fns, .buckets] s ((List.range 8).foldl (fun t p =>
      t.modPart p (fun x => { x with digestList := x.digestList.filter (fun d => !d.regions.contains n) }))
      ((List.range 8).foldl (fun t p => if (s.region n).readable p then t.invalidate (s.region n) p else t) s)) :=
    only_foldl _ (only_foldl _ (only_refl _ s) fun t p ht => by
      split
      · exact only_invalidate (within_refl _) _ p ht
      · exact ht) fun t p ht => only_modPart (within_sub (by decide) (within_refl _)) p _ ht
  have resieve := congrArg Memory.resieve (left.same .memory (by simp))
  unfold State.leaveRegion
  dsimp only
  generalize (List.range 8).foldl (fun t p =>
      t.modPart p (fun x => { x with digestList := x.digestList.filter (fun d => !d.regions.contains n) }))
      ((List.range 8).foldl (fun t p => if (s.region n).readable p then t.invalidate (s.region n) p else t) s) = t at left resieve ⊢
  have none : t.memory.resieve.filter (· != n) = [] := by rw [resieve, h]; rfl
  rw [resieveNow_none none]
  exact ⟨only_set_memory (within_sub (by decide) (within_refl _)) _ (only_widen (by decide) left), none⟩

/-- With no region to be sieved, the drop of a region leaves the links. -/
theorem dropRegion_only (n : Nat) (h : s.memory.resieve = []) : Only [.out, .unsent, .mem, .memory, .parts, .fns, .buckets] s (s.dropRegion n) ∧
    (s.dropRegion n).memory.resieve = [] := by
  obtain ⟨kept, none⟩ := leaveRegion_only n h
  exact ⟨only_modRegion (within_sub (by decide) (within_refl _)) n _ (only_blankRegion (within_sub (by decide) (within_refl _)) (s.region n)
    (only_widen (by decide) kept)), none⟩

theorem stilled_dropUnrepairable (h : s.memory.resieve = []) (q : Stilled s) : Stilled s.dropUnrepairable := by
  unfold State.dropUnrepairable
  generalize s.memory.repairs.filterMap (fun r => if r.stage = .lost then some r.region else none) = ns
  induction ns generalizing s with
  | nil => exact q
  | cons n ns ih =>
    obtain ⟨kept, none⟩ := dropRegion_only n h
    exact ih none (stilled_only kept (by simp) (by simp) (by simp) (by simp) q)

theorem stopCopies_copies (p : Nat) : (s.stopCopies p).copies = s.copies.filter (fun c => c.partition != p) := by
  have kept : Only [.free, .out, .unsent, .clusters, .quarters, .stackTab, .mem, .memory, .parts, .fns, .buckets, .intr, .links, .sec, .spares] s
      ((s.copies.filter (fun c => c.partition == p)).foldl (fun u c => u.applyAny p c.pieces) s) :=
    only_foldl _ (only_refl _ s) fun t c h => only_applyAny (within_sub (by decide) (within_refl _)) p c.pieces h
  unfold State.stopCopies
  exact congrArg (List.filter (fun c : CopyJob => c.partition != p)) (kept.same .copies (by simp))

/-- After the stop of the first n partitions' copies no copy is theirs. -/
theorem stopAll_copies (n : Nat) : ∀ c, c ∈ ((List.range n).foldl State.stopCopies s).copies → n ≤ c.partition := by
  induction n with
  | zero => exact fun c _ => Nat.zero_le _
  | succ n ih =>
    rw [List.range_succ, List.foldl_append, List.foldl_cons, List.foldl_nil, stopCopies_copies]
    intro c hc
    obtain ⟨hm, ne⟩ := List.mem_filter.mp hc
    have := ih c hm
    have : c.partition ≠ n := by simpa using ne
    omega

theorem stopModule_copies : ∀ c, c ∈ s.stopModule.copies → 8 ≤ c.partition := by
  have rings (u : State) : (ringsStopped u).copies = u.copies := foldl_keeps (fun u => u.copies) (fun (u : State) k => u.cutRings (k + 1))
    (fun _ _ => rfl) _ u
  have sessions (u : State) : (sessionsStopped u).copies = ((List.range 8).foldl State.stopCopies u).copies := by
    have kept := only_endSessions (within_refl _) (only_refl _ ((List.range 8).foldl State.stopCopies u))
    unfold sessionsStopped
    dsimp only
    exact kept.same .copies (by simp)
  rw [stopModule_eq, rings, sessions]
  exact stopAll_copies 8

theorem stilled_stopModule : Stilled s.stopModule := by
  obtain ⟨-, -, -, -, -, -, sent, jobs, idle⟩ := halted_stopModule s
  exact ⟨jobs, idle, sent, stopModule_copies⟩

theorem stilled_lossTaken (cause : Nat) : Stilled (lossTaken s cause) := by
  have stopped : Stilled ({ s.stopModule with memory := { s.stopModule.memory with resieve := [] } } : State) :=
    stilled_only (only_set_memory (within_refl _) _ (only_refl _ _)) (by simp) (by simp) (by simp) (by simp) stilled_stopModule
  have dropped := stilled_dropUnrepairable rfl stopped
  have interrupted := stilled_only (only_interruptCommand (within_refl _) (only_refl _ _)) (by simp) (by simp) (by simp) (by simp) dropped
  have lost : ∀ (ps : List Nat) (u : State), (∀ p, p ∈ ps → p < 8) → Stilled u → Stilled (ps.foldl (fun u p => u.losePart p cause) u) := by
    intro ps
    induction ps with
    | nil => exact fun u _ q => q
    | cons p ps ih =>
      exact fun u small q => ih _ (fun x hx => small x (List.mem_cons_of_mem _ hx)) (stilled_losePart cause (small p List.mem_cons_self) q)
  have parts := lost (List.range 8) _ (fun p hp => List.mem_range.mp hp) interrupted
  have sieves := stilled_only (only_dropSieves (within_refl _) (only_refl _ _)) (by simp) (by simp) (by simp) (by simp) parts
  exact stilled_only (only_restartCores (within_refl _) (only_refl _ _)) (by simp) (by simp) (by simp) (by simp) sieves

end

end Sys2Proof.Proofs
end

section
/-! PROOF of module-wide losses and the restart (13 R347 to R350) -/

namespace Sys2Proof.Proofs

open Sys2Proof Sys2Proof.Machine Sys2Proof.Laws

/-! ### What a release keeps of the security core and of the test of a core (13 R338, R348) -/

/-- The core to test is the one that it was. -/
def RetestKept (s t : State) : Prop := t.spares.retestCore = s.spares.retestCore

section

variable {s₀ : State}

theorem secKept_set_memory {s : State} (v) (h : SecKept s₀ s) : SecKept s₀ { s with memory := v } := h

theorem secKept_fst {α : Type} {t : State} {x : State × α} {o : α} (hx : x = (t, o)) (h : SecKept s₀ x.1) : SecKept s₀ t := by
  rw [hx] at h
  exact h

theorem secKept_leaveShares {s : State} (p : Nat) (h : SecKept s₀ s) : SecKept s₀ (State.leaveShares s p) :=
  secKept_only (only_leaveShares (within_refl _) p (only_refl _ s)) (by simp) h

theorem secKept_blankGroups {s : State} (p : Nat) (h : SecKept s₀ s) : SecKept s₀ (State.blankGroups s p) :=
  secKept_only (only_blankGroups (within_refl _) p (only_refl _ s)) (by simp) h

theorem secKept_zeroShares {s : State} (shares : List Nat) (h : SecKept s₀ s) : SecKept s₀ (State.zeroShares s shares) :=
  secKept_only (only_zeroShares (within_refl _) shares (only_refl _ s)) (by simp) h

theorem secKept_dropTensors {s : State} (p : Nat) (h : SecKept s₀ s) : SecKept s₀ (State.dropTensors s p) :=
  secKept_only (only_dropTensors (within_refl _) p (only_refl _ s)) (by simp) h

theorem secKept_emptyPart {s : State} (p : Nat) (h : SecKept s₀ s) : SecKept s₀ (State.emptyPart s p) :=
  secKept_only (only_emptyPart (within_refl _) p (only_refl _ s)) (by simp) h

theorem secKept_blankRegion {s : State} (r : Region) (h : SecKept s₀ s) : SecKept s₀ (State.blankRegion s r) :=
  secKept_only (only_blankRegion (within_refl _) r (only_refl _ s)) (by simp) h

theorem secKept_modRegion {s : State} (n : Nat) (f : Region → Region) (h : SecKept s₀ s) : SecKept s₀ (State.modRegion s n f) :=
  secKept_only (only_modRegion (within_refl _) n f (only_refl _ s)) (by simp) h

theorem secKept_invalidate {s : State} (rg : Region) (p : Nat) (h : SecKept s₀ s) : SecKept s₀ (State.invalidate s rg p) :=
  secKept_only (only_invalidate (within_refl _) rg p (only_refl _ s)) (by simp) h

theorem secKept_modPart {s : State} (p : Nat) (f : Part → Part) (h : SecKept s₀ s) : SecKept s₀ (State.modPart s p f) :=
  secKept_only (only_modPart (within_refl _) p f (only_refl _ s)) (by simp) h

theorem secKept_badLine {s : State} (source pln partition : Nat) (sealBad merge : Bool) (h : SecKept s₀ s) : SecKept s₀ (State.badLine s source pln partition sealBad merge) :=
  secKept_only (only_badLine (within_refl _) source pln partition sealBad merge (only_refl _ s)) (by simp) h

theorem secKept_modRound {s : State} (p : Nat) (f : Round → Round) (h : SecKept s₀ s) : SecKept s₀ (State.modRound s p f) :=
  secKept_only (only_modRound (within_refl _) p f (only_refl _ s)) (by simp) h

theorem secKept_setStored {s : State} (pln : Nat) (bs : List Byte) (h : SecKept s₀ s) : SecKept s₀ (State.setStored s pln bs) :=
  secKept_only (only_setStored (within_refl _) pln bs (only_refl _ s)) (by simp) h

theorem secKept_noteRecent {s : State} (key : Nat) (h : SecKept s₀ s) : SecKept s₀ (State.noteRecent s key) :=
  secKept_only (only_noteRecent (within_refl _) key (only_refl _ s)) (by simp) h

theorem secKept_modCe {s : State} (c : Nat) (f : Ce → Ce) (h : SecKept s₀ s) : SecKept s₀ (State.modCe s c f) :=
  secKept_only (only_modCe (within_refl _) c f (only_refl _ s)) (by simp) h

theorem secKept_post {s : State} (fn block code inst arg : Nat) (h : SecKept s₀ s) : SecKept s₀ (State.post s fn block code inst arg) :=
  secKept_only (only_post (within_refl _) fn block code inst arg (only_refl _ s)) (by simp) h

theorem secKept_dieTrigger {s : State} (k die : Nat) (h : SecKept s₀ s) : SecKept s₀ (State.dieTrigger s k die) := by
  dsimp only [State.dieTrigger]
  repeat' first
    | with_reducible assumption
    | with_reducible apply secKept_modStack
    | with_reducible apply secKept_mapChange
    | with_reducible apply secKept_logWear
    | split

theorem secKept_corrected {s : State} (pln : Nat) (h : SecKept s₀ s) : SecKept s₀ (State.corrected s pln) := by
  dsimp only [State.corrected]
  repeat' first
    | with_reducible assumption
    | with_reducible apply secKept_noteRecent
    | with_reducible apply secKept_modCe
    | with_reducible apply secKept_post
    | with_reducible apply secKept_logWear
    | with_reducible apply secKept_dieTrigger
    | split

theorem secKept_sieveLine {s : State} (z : SieveSum) (pln : Nat) (h : SecKept s₀ s) : SecKept s₀ (State.sieveLine s z pln).1 := by
  dsimp only [State.sieveLine]
  repeat' first
    | with_reducible assumption
    | with_reducible apply secKept_badLine
    | with_reducible apply secKept_modRound
    | with_reducible apply secKept_corrected
    | with_reducible apply secKept_setStored
    | split

theorem secKept_sieveLines {s : State} (z : SieveSum) (ls : List Nat) (h : SecKept s₀ s) : SecKept s₀ (State.sieveLines s z ls).1 := by
  unfold State.sieveLines
  induction ls generalizing s z with
  | nil => exact h
  | cons l ls ih => exact ih (s.sieveLine z l).2 (secKept_sieveLine z l h)

theorem secKept_resieveNow {s : State} (h : SecKept s₀ s) : SecKept s₀ (State.resieveNow s) := by
  dsimp only [State.resieveNow]
  repeat' first
    | with_reducible assumption
    | with_reducible apply secKept_sieveLines
    | split
    | refine secKept_fst (by with_reducible assumption) ?_
    | refine secKept_set_memory _ ?_

theorem secKept_leaveRegion {s : State} (n : Nat) (h : SecKept s₀ s) : SecKept s₀ (State.leaveRegion s n) := by
  dsimp only [State.leaveRegion]
  repeat' first
    | with_reducible assumption
    | with_reducible apply secKept_foldl
    | intro _ _ _
    | with_reducible apply secKept_invalidate
    | with_reducible apply secKept_modPart
    | with_reducible apply secKept_resieveNow
    | split
    | refine secKept_set_memory _ ?_

theorem secKept_dropRegion {s : State} (n : Nat) (h : SecKept s₀ s) : SecKept s₀ (State.dropRegion s n) := by
  dsimp only [State.dropRegion]
  repeat' first
    | with_reducible assumption
    | with_reducible apply secKept_leaveRegion
    | with_reducible apply secKept_blankRegion
    | with_reducible apply secKept_modRegion

theorem secKept_finishRelease {s : State} (p : Nat) (h : SecKept s₀ s) : SecKept s₀ (State.finishRelease s p) := by
  dsimp only [State.finishRelease]
  repeat' first
    | with_reducible assumption
    | with_reducible apply secKept_foldl
    | intro _ _ _
    | with_reducible apply secKept_dropRegion
    | with_reducible apply secKept_leaveShares
    | with_reducible apply secKept_blankGroups
    | with_reducible apply secKept_zeroShares
    | with_reducible apply secKept_dropTensors
    | with_reducible apply secKept_emptyPart
    | split

theorem retest_only {s t : State} {L : List Fld} (h : Only L s t) (hm : Fld.spares ∉ L) (hs : RetestKept s₀ s) : RetestKept s₀ t :=
  (congrArg Spares.retestCore (h.same .spares hm)).trans hs

theorem retest_foldl {α : Type} {g : State → α → State} {l : List α} {s : State} (h : RetestKept s₀ s)
    (hg : ∀ t a, RetestKept s₀ t → RetestKept s₀ (g t a)) : RetestKept s₀ (l.foldl g s) := by
  induction l generalizing s with
  | nil => exact h
  | cons a l ih => exact ih (hg s a h)

theorem retest_fst {α : Type} {t : State} {x : State × α} {o : α} (hx : x = (t, o)) (h : RetestKept s₀ x.1) : RetestKept s₀ t := by
  rw [hx] at h
  exact h

theorem retest_set_memory {s : State} (v) (h : RetestKept s₀ s) : RetestKept s₀ { s with memory := v } := h

theorem retest_badLine {s : State} (source pln partition : Nat) (sealBad merge : Bool) (h : RetestKept s₀ s) : RetestKept s₀ (State.badLine s source pln partition sealBad merge) :=
  retest_only (only_badLine (within_refl _) source pln partition sealBad merge (only_refl _ s)) (by simp) h

theorem retest_modRound {s : State} (p : Nat) (f : Round → Round) (h : RetestKept s₀ s) : RetestKept s₀ (State.modRound s p f) :=
  retest_only (only_modRound (within_refl _) p f (only_refl _ s)) (by simp) h

theorem retest_setStored {s : State} (pln : Nat) (bs : List Byte) (h : RetestKept s₀ s) : RetestKept s₀ (State.setStored s pln bs) :=
  retest_only (only_setStored (within_refl _) pln bs (only_refl _ s)) (by simp) h

theorem retest_modCe {s : State} (c : Nat) (f : Ce → Ce) (h : RetestKept s₀ s) : RetestKept s₀ (State.modCe s c f) :=
  retest_only (only_modCe (within_refl _) c f (only_refl _ s)) (by simp) h

theorem retest_post {s : State} (fn block code inst arg : Nat) (h : RetestKept s₀ s) : RetestKept s₀ (State.post s fn block code inst arg) :=
  retest_only (only_post (within_refl _) fn block code inst arg (only_refl _ s)) (by simp) h

theorem retest_logWear {s : State} (kind unit detail pln : Nat) (h : RetestKept s₀ s) : RetestKept s₀ (State.logWear s kind unit detail pln) :=
  retest_only (only_logWear (within_refl _) kind unit detail pln (only_refl _ s)) (by simp) h

theorem retest_modStack {s : State} (k : Nat) (f : Stack → Stack) (h : RetestKept s₀ s) : RetestKept s₀ (State.modStack s k f) :=
  retest_only (only_modStack (within_refl _) k f (only_refl _ s)) (by simp) h

theorem retest_leaveShares {s : State} (p : Nat) (h : RetestKept s₀ s) : RetestKept s₀ (State.leaveShares s p) :=
  retest_only (only_leaveShares (within_refl _) p (only_refl _ s)) (by simp) h

theorem retest_blankGroups {s : State} (p : Nat) (h : RetestKept s₀ s) : RetestKept s₀ (State.blankGroups s p) :=
  retest_only (only_blankGroups (within_refl _) p (only_refl _ s)) (by simp) h

theorem retest_zeroShares {s : State} (shares : List Nat) (h : RetestKept s₀ s) : RetestKept s₀ (State.zeroShares s shares) :=
  retest_only (only_zeroShares (within_refl _) shares (only_refl _ s)) (by simp) h

theorem retest_dropTensors {s : State} (p : Nat) (h : RetestKept s₀ s) : RetestKept s₀ (State.dropTensors s p) :=
  retest_only (only_dropTensors (within_refl _) p (only_refl _ s)) (by simp) h

theorem retest_emptyPart {s : State} (p : Nat) (h : RetestKept s₀ s) : RetestKept s₀ (State.emptyPart s p) :=
  retest_only (only_emptyPart (within_refl _) p (only_refl _ s)) (by simp) h

theorem retest_blankRegion {s : State} (r : Region) (h : RetestKept s₀ s) : RetestKept s₀ (State.blankRegion s r) :=
  retest_only (only_blankRegion (within_refl _) r (only_refl _ s)) (by simp) h

theorem retest_modRegion {s : State} (n : Nat) (f : Region → Region) (h : RetestKept s₀ s) : RetestKept s₀ (State.modRegion s n f) :=
  retest_only (only_modRegion (within_refl _) n f (only_refl _ s)) (by simp) h

theorem retest_invalidate {s : State} (rg : Region) (p : Nat) (h : RetestKept s₀ s) : RetestKept s₀ (State.invalidate s rg p) :=
  retest_only (only_invalidate (within_refl _) rg p (only_refl _ s)) (by simp) h

theorem retest_modPart {s : State} (p : Nat) (f : Part → Part) (h : RetestKept s₀ s) : RetestKept s₀ (State.modPart s p f) :=
  retest_only (only_modPart (within_refl _) p f (only_refl _ s)) (by simp) h

theorem retest_mapChange {s : State} (kind unit : Nat) (h : RetestKept s₀ s) : RetestKept s₀ (State.mapChange s kind unit) := h

theorem retest_noteRecent {s : State} (key : Nat) (h : RetestKept s₀ s) : RetestKept s₀ (State.noteRecent s key) := h

theorem retest_dieTrigger {s : State} (k die : Nat) (h : RetestKept s₀ s) : RetestKept s₀ (State.dieTrigger s k die) := by
  dsimp only [State.dieTrigger]
  repeat' first
    | with_reducible assumption
    | with_reducible apply retest_modStack
    | with_reducible apply retest_mapChange
    | with_reducible apply retest_logWear
    | split

theorem retest_corrected {s : State} (pln : Nat) (h : RetestKept s₀ s) : RetestKept s₀ (State.corrected s pln) := by
  dsimp only [State.corrected]
  repeat' first
    | with_reducible assumption
    | with_reducible apply retest_noteRecent
    | with_reducible apply retest_modCe
    | with_reducible apply retest_post
    | with_reducible apply retest_logWear
    | with_reducible apply retest_dieTrigger
    | split

theorem retest_sieveLine {s : State} (z : SieveSum) (pln : Nat) (h : RetestKept s₀ s) : RetestKept s₀ (State.sieveLine s z pln).1 := by
  dsimp only [State.sieveLine]
  repeat' first
    | with_reducible assumption
    | with_reducible apply retest_badLine
    | with_reducible apply retest_modRound
    | with_reducible apply retest_corrected
    | with_reducible apply retest_setStored
    | split

theorem retest_sieveLines {s : State} (z : SieveSum) (ls : List Nat) (h : RetestKept s₀ s) : RetestKept s₀ (State.sieveLines s z ls).1 := by
  unfold State.sieveLines
  induction ls generalizing s z with
  | nil => exact h
  | cons l ls ih => exact ih (s.sieveLine z l).2 (retest_sieveLine z l h)

theorem retest_resieveNow {s : State} (h : RetestKept s₀ s) : RetestKept s₀ (State.resieveNow s) := by
  dsimp only [State.resieveNow]
  repeat' first
    | with_reducible assumption
    | with_reducible apply retest_sieveLines
    | split
    | refine retest_fst (by with_reducible assumption) ?_
    | refine retest_set_memory _ ?_

theorem retest_leaveRegion {s : State} (n : Nat) (h : RetestKept s₀ s) : RetestKept s₀ (State.leaveRegion s n) := by
  dsimp only [State.leaveRegion]
  repeat' first
    | with_reducible assumption
    | with_reducible apply retest_foldl
    | intro _ _ _
    | with_reducible apply retest_invalidate
    | with_reducible apply retest_modPart
    | with_reducible apply retest_resieveNow
    | split
    | refine retest_set_memory _ ?_

theorem retest_dropRegion {s : State} (n : Nat) (h : RetestKept s₀ s) : RetestKept s₀ (State.dropRegion s n) := by
  dsimp only [State.dropRegion]
  repeat' first
    | with_reducible assumption
    | with_reducible apply retest_leaveRegion
    | with_reducible apply retest_blankRegion
    | with_reducible apply retest_modRegion

theorem retest_finishRelease {s : State} (p : Nat) (h : RetestKept s₀ s) : RetestKept s₀ (State.finishRelease s p) := by
  dsimp only [State.finishRelease]
  repeat' first
    | with_reducible assumption
    | with_reducible apply retest_foldl
    | intro _ _ _
    | with_reducible apply retest_dropRegion
    | with_reducible apply retest_leaveShares
    | with_reducible apply retest_blankGroups
    | with_reducible apply retest_zeroShares
    | with_reducible apply retest_dropTensors
    | with_reducible apply retest_emptyPart
    | split

end

/-! ### The slots and the command under a loss (13 R347) -/

section

variable {s : State} {p cause : Nat}

/-- A loss leaves a slot that holds a partition lost or releasing, and every other slot as it was. -/
theorem losePart_modes (h : s.holds p = true) : (((s.losePart p cause).part p).mode = .lost ∨ ((s.losePart p cause).part p).mode = .releasing) ∧
    ∀ q, q ≠ p → ((s.losePart p cause).part q).mode = (s.part q).mode := by
  have before : ModesKept s (((s.loseWork p).dropTensors p).blankFw p) := 
    modes_only (only_blankFw (within_refl _) p (only_refl _ _)) (by simp) (modes_dropTensors p (modes_loseWork p modes_refl))
  unfold State.losePart
  rw [if_neg (by simp [h])]
  dsimp only
  generalize ((s.loseWork p).dropTensors p).blankFw p = t at before ⊢
  have taken (f : Part → Part) (hf : ∀ x, (f x).mode = if x.mode = .releasing then .releasing else .lost) :
      (((t.modPart p f).part p).mode = .lost ∨ ((t.modPart p f).part p).mode = .releasing) ∧
      ∀ q, q ≠ p → ((t.modPart p f).part q).mode = (s.part q).mode := by
    refine ⟨?_, fun q hq => ?_⟩
    · rw [modPart_part_same, hf]
      split
      · exact .inr rfl
      · exact .inl rfl
    · rw [modPart_part_ne _ _ _ _ hq]
      exact before.mode q
  split
  · have failed (f g : Part → Part) (hf : ∀ x, (f x).mode = if x.mode = .releasing then .releasing else .lost)
        (hg : ∀ x, (g x).mode = .releasing) : (((((t.modPart p f).tdiFails p).destroyKeys p).modPart p g).part p).mode = .releasing ∧
        ∀ q, q ≠ p → (((((t.modPart p f).tdiFails p).destroyKeys p).modPart p g).part q).mode = (s.part q).mode := by
      refine ⟨?_, fun q hq => ?_⟩
      · rw [modPart_part_same, hg]
      · rw [modPart_part_ne _ _ _ _ hq]
        exact ((modes_destroyKeys p (modes_tdiFails p modes_refl)).mode q).trans ((taken f hf).2 q hq)
    have same (u : State) (c : Prop) [Decidable c] (x : Sec) (q : Nat) : ((if c then u else { u with sec := x }).part q) = u.part q := by
      split <;> rfl
    simp only [same]
    exact And.imp_left .inr (failed _ _ (by intro _; rfl) (by intro _; rfl))
  · exact taken _ fun _ => rfl

theorem losePart_none (h : s.holds p = false) : s.losePart p cause = s := if_pos (by simp [h])

/-- After the losses of the first n partitions none of them is at work. -/
theorem loseAll_modes (n : Nat) (u : State) : ∀ p, p < n → (((List.range n).foldl (fun (u : State) p => u.losePart p cause) u).part p).mode ≠ .ready ∧
    (((List.range n).foldl (fun (u : State) p => u.losePart p cause) u).part p).mode ≠ .settingUp := by
  induction n with
  | zero => exact fun p hp => absurd hp (Nat.not_lt_zero p)
  | succ n ih =>
    intro p hp
    rw [List.range_succ, List.foldl_append, List.foldl_cons, List.foldl_nil]
    generalize (List.range n).foldl (fun (u : State) p => u.losePart p cause) u = v at ih ⊢
    cases h : v.holds n with
    | false =>
      rw [losePart_none h]
      obtain hp | rfl := Nat.lt_succ_iff_lt_or_eq.mp hp
      · exact ih p hp
      · have empty : (v.part p).mode = .empty := by simpa [State.holds] using h
        rw [empty]
        exact ⟨by decide, by decide⟩
    | true =>
      obtain ⟨mine, others⟩ := losePart_modes (cause := cause) h
      obtain hp | rfl := Nat.lt_succ_iff_lt_or_eq.mp hp
      · rw [others p (by omega)]
        exact ih p hp
      · obtain mine | mine := mine <;> rw [mine] <;> exact ⟨by decide, by decide⟩

theorem lossTaken_modes (cause p : Nat) (hp : p < 8) : ((lossTaken s cause).part p).mode ≠ .ready ∧
    ((lossTaken s cause).part p).mode ≠ .settingUp := by
  unfold lossTaken
  generalize ({ s.stopModule with memory := { s.stopModule.memory with resieve := [] } } : State).dropUnrepairable.interruptCommand = u
  have kept (v : State) : (v.dropSieves.restartCores).part p = v.part p := part_of_parts
    ((only_restartCores (within_sub (by decide) (within_refl _)) (only_dropSieves (within_sub (by decide) (within_refl _)) (only_refl
      [.free, .memory, .intr] v))).same .parts (by simp)) p
  rw [kept]
  exact loseAll_modes 8 u p hp

/-- A partition command under way is interrupted (R347). -/
theorem lossTaken_partCtl (cause : Nat) (h : s.partCtl.busy = true) : (lossTaken s cause).partCtl = { s.partCtl with busy := false, status := 0x0E } := by
  have before : Only [.free, .out, .unsent, .clusters, .quarters, .stackTab, .engines, .mem, .memory, .parts, .copies, .fns, .buckets, .intr, .links,
      .sec, .spares] s ({ s.stopModule with memory := { s.stopModule.memory with resieve := [] } } : State).dropUnrepairable :=
    only_dropUnrepairable (within_sub (by decide) (within_refl _)) (only_set_memory (within_sub (by decide) (within_refl _)) _
      (only_stopModule (within_refl _) (only_refl _ s)))
  have same := before.same .partCtl (by simp)
  unfold lossTaken
  generalize ({ s.stopModule with memory := { s.stopModule.memory with resieve := [] } } : State).dropUnrepairable = u at same ⊢
  have interrupted : u.interruptCommand.partCtl = { s.partCtl with busy := false, status := 0x0E } := by
    have ctl : u.partCtl = s.partCtl := same
    unfold State.interruptCommand
    rw [ctl, if_pos h]
  have after := only_restartCores (within_sub (by decide) (within_refl _)) (only_dropSieves (within_sub (by decide) (within_refl _))
    (only_foldl (l := List.range 8) (f := fun (u : State) p => u.losePart p cause) (only_refl
      [.free, .out, .unsent, .clusters, .quarters, .stackTab, .engines, .mem, .memory, .parts, .copies, .fns, .buckets, .intr, .links, .sec, .spares]
      u.interruptCommand) fun t p h => only_losePart (within_refl _) p cause h))
  exact (after.same .partCtl (by simp)).trans interrupted

/-- A loss in a running module, firmware up or restarting. -/
theorem wideLoss_taken (cause : Nat) (run : s.module.electrical = .running) (stage : s.module.stage = 4 ∨ s.module.stage = 6) : s.wideLoss cause =
    { lossTaken s cause with
      memory := { (lossTaken s cause).memory with repairs := [], resieve := (lossTaken s cause).lockedShared, fwLost := false }
      module := { (lossTaken s cause).module with stage := 6, lossCause := cause, alert := true } } := by
  have cond : ¬ (s.module.electrical ≠ .running ∨ (!([4, 6].contains s.module.stage)) = true) := by
    obtain stage | stage := stage <;> simp [run, stage]
  unfold State.wideLoss lossTaken
  rw [if_neg cond]

theorem wideLoss_facts (cause : Nat) (run : s.module.electrical = .running) (stage : s.module.stage = 4 ∨ s.module.stage = 6) :
    (s.wideLoss cause).module = { s.module with stage := 6, lossCause := cause, alert := true } ∧
    (∀ k, ((s.wideLoss cause).cluster k).job = none) ∧ (∀ e, ((s.wideLoss cause).engine e).busy = false) ∧
    (s.wideLoss cause).links.sent = [] ∧ (s.wideLoss cause).memory.repairs = [] ∧
    (∀ p, p < 8 → ((s.wideLoss cause).part p).mode ≠ .ready ∧ ((s.wideLoss cause).part p).mode ≠ .settingUp) ∧
    (s.wideLoss cause).regs = s.regs ∧
    (s.partCtl.busy = true → (s.wideLoss cause).partCtl.busy = false ∧ (s.wideLoss cause).partCtl.status = 0x0E) := by
  have stilled := stilled_lossTaken (s := s) cause
  have module := lossTaken_module (s := s) cause
  have modes := lossTaken_modes (s := s) cause
  have partCtl := lossTaken_partCtl (s := s) cause
  have regs := (only_wideLoss (within_refl _) cause (only_refl _ s)).same .regs (by simp)
  rw [wideLoss_taken cause run stage] at regs ⊢
  generalize lossTaken s cause = t at *
  refine ⟨?_, stilled.jobs, stilled.idle, stilled.sent, rfl, modes, regs, fun busy => ?_⟩
  · dsimp only
    rw [module]
  · have ctl := partCtl busy
    dsimp only
    rw [ctl]
    exact ⟨rfl, rfl⟩

/-- The state in which the loss is met: a lost clock domain is recorded first (18 R434). -/
def lossMet (s : State) (cause : Nat) : State := if cause = 3 then s.parityError else s

theorem lossMet_only (cause : Nat) : Only [.free, .memory, .intr] s (lossMet s cause) := by
  unfold lossMet
  split
  · exact only_parityError (within_refl _) (only_refl _ s)
  · exact only_refl _ s

theorem exec_moduleWideLoss {c : Fin 8} (lo : 1 ≤ c.val) (hi : c.val ≤ 5)
    (h4 : c.val = 4 → s.memory.fwLost = true ∨ ∃ r, r ∈ s.memory.repairs ∧ r.stage = .lost) :
    execModuleWideLoss c s = .next ((lossMet s c).wideLoss c) := by
  unfold execModuleWideLoss
  refine congrArg Host.Outcome.next (if_neg ?_)
  rintro (zero | big | ⟨four, fw, none⟩)
  · omega
  · omega
  · obtain lost | ⟨r, hr, lost⟩ := h4 four
    · simp [lost] at fw
    · have some : s.memory.repairs.any (fun r => decide (r.stage = .lost)) = true := List.any_eq_true.mpr ⟨r, hr, decide_eq_true lost⟩
      rw [some] at none
      cases none

end

section

variable {s : State} {failed : List Nat}

/-- A core whose test failed is dropped. -/
def coreTested (s : State) (failed : List Nat) : State :=
  match s.spares.retestCore with
  | some c => if failed.contains c then s.dropCore c else s
  | none => s

/-- The spares after a restart, with no core to test. -/
def restartReady (s : State) : State :=
  { s with spares := { s.spares with retestCore := none },
           stackTab := Tab.mapVals (fun _ => Stack.reset) (fun (k : Stack) =>
             if k.spare.state = 1 then { k with spare := { k.spare with progress := 0, holding := false } } else k) s.stackTab }

/-- The records of a restart. -/
def restartTold (s : State) (cause : Nat) : State :=
  (List.range 8).foldl (fun u p =>
    if u.holds p then (u.postFatal 0 3 2 p cause).postFatal (p + 1) 3 2 p cause else u) (s.postFatalAll 0 2 0 cause)

/-- One interrupted RELEASE ends. -/
def endRelease (u : State) (p : Nat) : State :=
  if (u.part p).mode == .releasing && !u.sec.terminating.any (fun e => e.1 == p) then u.finishRelease p else u

/-- Firmware up again with its records sent. -/
def restarted (s : State) (failed : List Nat) : State :=
  restartTold (restartReady (coreTested { s with module := { s.module with stage := 4 } } failed)) s.module.lossCause

theorem exec_moduleRestartComplete (h : s.module.stage = 6) :
    execModuleRestartComplete true failed s = .next ((List.range 8).foldl endRelease (restarted s failed)).resieveNow := by
  unfold execModuleRestartComplete
  exact congrArg Host.Outcome.next (if_neg (by simp [h]))

theorem exec_moduleRestartComplete_none : execModuleRestartComplete false failed s = .next s := by
  unfold execModuleRestartComplete
  exact congrArg Host.Outcome.next (if_pos (.inr rfl))

theorem secKept_dropCore {s₀ : State} (c : Nat) (h : SecKept s₀ s) : SecKept s₀ (s.dropCore c) := by
  have cores (f : Quarter → Quarter) : SecKept s₀ (s.modQuarter (c / 4) f) := secKept_only (only_modQuarter (within_refl _) _ f (only_refl _ s)) (by simp) h
  unfold State.dropCore
  dsimp only
  split
  · exact secKept_only (only_modQuarter (within_refl _) _ _ (only_refl _ _)) (by simp) (secKept_logWear _ _ _ _ (secKept_mapChange _ _ (cores _)))
  · exact secKept_logWear _ _ _ _ (secKept_mapChange _ _ (cores _))

theorem coreTested_only : Only [.quarters, .sec, .spares] s (coreTested s failed) ∧ SecKept s (coreTested s failed) := by
  unfold coreTested
  split
  · split
    · exact ⟨only_dropCore (within_refl _) _ (only_refl _ s), secKept_dropCore _ rfl⟩
    · exact ⟨only_refl _ s, rfl⟩
  · exact ⟨only_refl _ s, rfl⟩

theorem restartReady_only : Only [.spares, .stackTab] s (restartReady s) :=
  ⟨rfl, fun h => h, fun h => h, fun f hf => by cases f <;> first | rfl | exact absurd (by simp) hf⟩

theorem restartTold_only (cause : Nat) : Only [.out, .unsent, .fns, .buckets] s (restartTold s cause) :=
  only_foldl _ (only_postFatalAll (within_refl _) 0 2 0 cause (only_refl _ s)) fun u p h => by
    split
    · exact only_postFatal (within_refl _) _ _ _ _ _ (only_postFatal (within_refl _) _ _ _ _ _ h)
    · exact h

theorem restarted_only : Only [.quarters, .sec, .spares, .stackTab, .out, .unsent, .fns, .buckets, .module] s (restarted s failed) := by
  have up := only_set_module (within_sub (by decide) (within_refl [.quarters, .sec, .spares, .stackTab, .out, .unsent, .fns, .buckets, .module]))
    { s.module with stage := 4 } (only_refl _ s)
  have cores := only_trans up (only_widen (by decide) (coreTested_only (s := { s with module := { s.module with stage := 4 } }) (failed := failed)).1)
  exact only_trans (only_trans cores (only_widen (by decide) restartReady_only)) (only_widen (by decide) (restartTold_only _))

theorem restarted_facts : (restarted s failed).module = { s.module with stage := 4 } ∧ (restarted s failed).spares.retestCore = none ∧
    SecKept s (restarted s failed) := by
  obtain ⟨cores, sec⟩ := coreTested_only (s := { s with module := { s.module with stage := 4 } }) (failed := failed)
  have module : (coreTested { s with module := { s.module with stage := 4 } } failed).module = { s.module with stage := 4 } :=
    cores.same .module (by simp)
  unfold restarted
  generalize coreTested { s with module := { s.module with stage := 4 } } failed = u at sec module ⊢
  have told := restartTold_only (s := restartReady u) s.module.lossCause
  have ready := restartReady_only (s := u)
  have spares : (restartTold (restartReady u) s.module.lossCause).spares = (restartReady u).spares := told.same .spares (by simp)
  refine ⟨(told.same .module (by simp)).trans ((ready.same .module (by simp)).trans module), ?_, ?_⟩
  · rw [spares]
    rfl
  · exact secKept_only told (by simp) (secKept_only ready (by simp) sec)

theorem finishRelease_modes (p : Nat) : ((s.finishRelease p).part p).mode = .empty ∧
    ∀ q, q ≠ p → ((s.finishRelease p).part q).mode = (s.part q).mode := by
  have emptied (t : State) (h : ModesKept s t) : ((t.emptyPart p).part p).mode = .empty ∧
      ∀ q, q ≠ p → ((t.emptyPart p).part q).mode = (s.part q).mode := by
    unfold State.emptyPart
    refine ⟨?_, fun q hq => ?_⟩
    · rw [modPart_part_same]
      rfl
    · rw [modPart_part_ne _ _ _ _ hq]
      exact h.mode q
  have left : ModesKept s (((s.ownedRegions p).foldl State.dropRegion s).leaveShares p) :=
    modes_leaveShares p (modes_foldl modes_refl fun t n h => modes_dropRegion n h)
  unfold State.finishRelease
  dsimp only
  refine emptied _ (modes_dropTensors p ?_)
  split
  · exact modes_only (only_zeroShares (within_refl _) _ (only_refl _ _)) (by simp)
      (modes_only (only_blankGroups (within_refl _) p (only_refl _ _)) (by simp) left)
  · exact left

theorem endRelease_only {s₀ u : State} (p : Nat)
    (h : Only [.free, .out, .unsent, .clusters, .quarters, .stackTab, .mem, .memory, .parts, .fns, .buckets, .intr, .links, .sec, .spares] s₀ u) :
    Only [.free, .out, .unsent, .clusters, .quarters, .stackTab, .mem, .memory, .parts, .fns, .buckets, .intr, .links, .sec, .spares] s₀
      (endRelease u p) := by
  unfold endRelease
  split
  · exact only_finishRelease (within_refl _) p h
  · exact h

theorem retest_endRelease {s₀ u : State} (p : Nat) (h : RetestKept s₀ u) : RetestKept s₀ (endRelease u p) := by
  unfold endRelease
  split
  · exact retest_finishRelease p h
  · exact h

theorem secKept_terminating {t : State} (h : SecKept s t) : t.sec.terminating = s.sec.terminating := by
  have view : secView t = secView s := h
  have same := congrArg Sec.terminating view
  exact same

theorem endRelease_others {u : State} {p q : Nat} (h : q ≠ p) : ((endRelease u q).part p).mode = (u.part p).mode ∧
    (endRelease u q).sec.terminating = u.sec.terminating := by
  unfold endRelease
  split
  · exact ⟨(finishRelease_modes q).2 p (Ne.symm h), secKept_terminating (secKept_finishRelease q rfl)⟩
  · exact ⟨rfl, rfl⟩

/-- An interrupted RELEASE leaves its slot empty. -/
theorem endReleases_mode {p : Nat} (hp : p < 8) (h : (s.part p).mode = .releasing) (alone : ∀ e, e ∈ s.sec.terminating → e.1 ≠ p) :
    (((List.range 8).foldl endRelease s).part p).mode = .empty := by
  obtain ⟨m, ends, before⟩ := foldl_once (v := fun u : State => ((u.part p).mode, u.sec.terminating)) (f := endRelease)
    List.nodup_range (List.mem_range.mpr hp) (fun k _ hk t => Prod.ext (endRelease_others hk).1 (endRelease_others hk).2) s
  generalize m.foldl endRelease s = u at ends before
  obtain ⟨mode, terminating⟩ := Prod.mk.inj before
  have due : ((u.part p).mode == .releasing && !u.sec.terminating.any (fun e => e.1 == p)) = true := by
    have none : s.sec.terminating.any (fun e => e.1 == p) = false := by
      rw [List.any_eq_false]
      intro e he
      simpa using alone e he
    rw [mode, terminating, h, none]
    rfl
  have ended : endRelease u p = u.finishRelease p := if_pos due
  rw [ended] at ends
  exact (Prod.mk.inj ends).1.trans (finishRelease_modes p).1

end

/-- Settles O38: a loss is the stop of the module's work, its slots' losses one by one, and the restart; the restart ends what the loss
interrupted. -/
theorem lossesStopTheModuleAndItRestarts : Obligations.LossesStopTheModuleAndItRestarts := by
  unfold Obligations.LossesStopTheModuleAndItRestarts
  refine ⟨fun c s lo hi h4 run stage => ?_, fun s failed h => ⟨?_, completes_next exec_moduleRestartComplete_none rfl⟩⟩
  · have met := lossMet_only (s := s) c
    have module : (lossMet s c).module = s.module := met.same .module (by simp)
    have partCtl : (lossMet s c).partCtl = s.partCtl := met.same .partCtl (by simp)
    obtain ⟨m, jobs, idle, sent, repairs, modes, regs, command⟩ := wideLoss_facts (s := lossMet s c) c (by rw [module]; exact run)
      (by rw [module]; exact stage)
    rw [module] at m
    rw [partCtl] at command
    exact completes_next (exec_moduleWideLoss lo hi h4) ⟨m, jobs, idle, sent, repairs, modes, regs.trans (met.same .regs (by simp)), command⟩
  · obtain ⟨module, retest, sec⟩ := restarted_facts (s := s) (failed := failed)
    have before := restarted_only (s := s) (failed := failed)
    have parts : (restarted s failed).parts = s.parts := before.same .parts (by simp)
    have ended : Only [.free, .out, .unsent, .clusters, .quarters, .stackTab, .mem, .memory, .parts, .fns, .buckets, .intr, .links, .sec, .spares]
        (restarted s failed) ((List.range 8).foldl endRelease (restarted s failed)).resieveNow :=
      only_resieveNow (within_sub (by decide) (within_refl _)) (only_foldl _ (only_refl _ _) fun u p hu => endRelease_only p hu)
    have module' := (ended.same .module (by simp)).trans module
    have core : RetestKept (restarted s failed) ((List.range 8).foldl endRelease (restarted s failed)).resieveNow :=
      retest_resieveNow (retest_foldl rfl fun u p hu => retest_endRelease p hu)
    refine completes_next (exec_moduleRestartComplete h) ⟨?_, core.trans retest, ?_, (ended.same .regs (by simp)).trans (before.same .regs (by simp)),
      fun p hp releasing alone => ?_⟩
    · rw [module']
    · rw [module']
    · refine ((modes_resieveNow modes_refl).mode p).trans (endReleases_mode hp ?_ ?_)
      · rw [part_of_parts parts]
        exact releasing
      · rw [secKept_terminating sec]
        exact alone

end Sys2Proof.Proofs
end

section
/-! PROOF of register writes (22 R492 to R496) -/

namespace Sys2Proof.Proofs

open Sys2Proof Sys2Proof.Machine Sys2Proof.Laws

/-! ### Register writes (22 R492 to R496) -/

section

variable {s : State} {fn : FnId} {off : BitVec 24} {wide : Bool} {v : W64}

theorem exec_registerWrite_none (h : s.module.electrical ≠ .running ∨ s.present fn = false ∨ (fn.val ≠ 0 ∧ 0x100000 ≤ off.toNat)) :
    execRegisterWrite fn off wide v s = .next s := by
  unfold execRegisterWrite
  refine congrArg Host.Outcome.next (if_pos ?_)
  obtain h | h | h := h
  · exact .inl h
  · exact .inr (.inl (by simp [h]))
  · exact .inr (.inr h)

section

variable (run : s.module.electrical = .running) (present : s.present fn = true) (mine : fn.val = 0 ∨ off.toNat < 0x100000)

include run present mine

theorem exec_registerWrite_unaligned (h : off.toNat % (if wide then 8 else 4) ≠ 0) : execRegisterWrite fn off wide v s = .next { s with
    module := { s.module with badWrites := satAdd 65535 s.module.badWrites 1 } } := by
  unfold execRegisterWrite
  refine congrArg Host.Outcome.next ((if_neg ?_).trans (if_pos h))
  simp only [ne_eq, run, not_true_eq_false, present, Bool.not_true, Bool.false_eq_true, false_or]
  omega

theorem exec_registerWrite (h : off.toNat % (if wide then 8 else 4) = 0) : execRegisterWrite fn off wide v s = .next
    (if emptyHalf off.toNat wide then s
     else s.writeReg fn (off.toNat - off.toNat % 8) (s.written fn off.toNat wide v)) := by
  unfold execRegisterWrite
  refine congrArg Host.Outcome.next ((if_neg ?_).trans (if_neg (not_not_intro h)))
  simp only [ne_eq, run, not_true_eq_false, present, Bool.not_true, Bool.false_eq_true, false_or]
  omega

/-- A write that no register takes. -/
theorem exec_registerWrite_ignored (h : off.toNat % (if wide then 8 else 4) = 0)
    (ignored : ∀ w, s.writeReg fn (off.toNat - off.toNat % 8) w = s) : execRegisterWrite fn off wide v s = .next s := by
  rw [exec_registerWrite run present mine h, ignored]
  exact congrArg Host.Outcome.next (ite_self _)

end

theorem writeReg_features {f o : Nat} {w : W64} (lo : 0x10000 ≤ o) (hi : o < 0x20000) : s.writeReg f o w = s := by
  unfold State.writeReg
  rw [if_neg (by omega), if_pos hi, ite_self]

theorem writeReg_degraded {f o : Nat} {w : W64} (lo : 0x10000 ≤ o) (h : s.module.linkDegraded = true) : s.writeReg f o w = s := by
  unfold State.writeReg
  rw [if_neg (by omega), if_pos h]

/-- A virtual function writes no register of the LNK_, PWR_, SEC_ and TST_ blocks (R496). -/
theorem writeReg_virtual {f o : Nat} {w : W64} (hf : f ≠ 0) (lo : 0x70000 ≤ o) (hi : o < 0xB0000) : s.writeReg f o w = s := by
  unfold State.writeReg
  rw [if_neg (by omega)]
  split
  · rfl
  · rw [if_neg (by omega), if_neg (by omega), if_neg (by omega), if_neg (by omega), if_neg (by omega), if_neg (by omega)]
    rw [if_neg (fun h : f = 0 ∧ o = 0x80000 => hf h.1)]
    simp only [ite_self]

end

section

variable {s : State} {fn : FnId} {v : W64}

/-- Physical function 0's write of a whole register on a full link. -/
theorem registerWrite_wide {o : Nat} (hf : fn.val = 0) (bar : s.bar0 0 = true) (ho : o < 2 ^ 24) (h8 : o % 8 = 0) :
    exec (.registerWrite fn (BitVec.ofNat 24 o) true v) s = .next (s.writeReg 0 o v) := by
  obtain ⟨⟨run, good⟩, present⟩ : (s.module.electrical = .running ∧ s.module.linkDegraded = false) ∧ s.present 0 = true := by
    simpa [State.bar0] using bar
  have number : (BitVec.ofNat 24 o).toNat = o := by rw [BitVec.toNat_ofNat, Nat.mod_eq_of_lt ho]
  have whole := exec_registerWrite (off := BitVec.ofNat 24 o) (wide := true) (v := v) run (by rw [hf]; exact present) (.inl hf)
    (by rw [number]; exact h8)
  refine whole.trans ?_
  rw [number, h8, hf]
  rfl

theorem registerWrite_half {o : Nat} (hf : fn.val = 0) (bar : s.bar0 0 = true) (ho : o < 0xA0200) (h4 : o % 4 = 0) :
    exec (.registerWrite fn (BitVec.ofNat 24 o) false v) s = .next (s.writeReg 0 (o - o % 8) (s.written 0 o false v)) := by
  obtain ⟨⟨run, good⟩, present⟩ : (s.module.electrical = .running ∧ s.module.linkDegraded = false) ∧ s.present 0 = true := by
    simpa [State.bar0] using bar
  have number : (BitVec.ofNat 24 o).toNat = o := by rw [BitVec.toNat_ofNat, Nat.mod_eq_of_lt (by omega)]
  have half := exec_registerWrite (off := BitVec.ofNat 24 o) (wide := false) (v := v) run (by rw [hf]; exact present) (.inl hf)
    (by rw [number]; exact h4)
  refine half.trans ?_
  have outside : emptyHalf o false = false := by
    unfold emptyHalf
    rw [decide_eq_false (by omega : ¬ 0xA0200 ≤ o)]
    simp
  rw [number, hf, outside]
  rfl

/-- A register write that stores one register of function 0. -/
theorem setReg_alone {k : Nat} {w : W64} (hk : k < 2 ^ 24) : s.setReg 0 k w = { s with regs := (s.setReg 0 k w).regs } ∧
    ∀ f x, f < 16 → x < 2 ^ 24 → f ≠ 0 ∨ x ≠ k → (s.setReg 0 k w).reg f x = s.reg f x := by
  refine ⟨rfl, fun f x _ hx ne => setReg_reg_ne _ _ _ _ _ _ ?_⟩
  unfold regKey
  omega

theorem writeReg_mod {o : Nat} (h : o < 0x10000) : s.writeReg 0 o v = s.writeMod o v := by
  unfold State.writeReg
  rw [if_pos h, if_pos rfl]

theorem writeMod_sieveWord {o : Nat} (lo : 0x40 ≤ o) (hi : o < 0x80) : s.writeMod o v = s.setReg 0 o v := by
  unfold State.writeMod
  rw [if_neg (by omega), if_neg (by omega), if_neg (by omega), if_neg (by omega), if_pos ⟨lo, hi⟩]

theorem readReg_sieveWord {o : Nat} (run : s.module.electrical = .running) (present : s.present 0 = true) (lo : 0x40 ≤ o) (hi : o < 0x80) :
    s.readReg 0 o = s.reg 0 o := by
  unfold State.readReg State.readMod
  rw [if_neg (by simp [run, present]), if_pos (by omega), if_neg (by omega), if_neg (by omega), if_neg (by simp), if_neg (by omega),
    if_neg (by omega), if_neg (by omega), if_neg (by omega), if_pos ⟨lo, hi⟩]

section

variable (good : s.module.linkDegraded = false)

include good

theorem writeReg_part {w : W64} : s.writeReg 0 0x50000 w = s.writePart w := by
  unfold State.writeReg
  rw [if_neg (by omega), if_neg (by simp [good])]
  simp

theorem writeReg_region {w : W64} : s.writeReg 0 0x41010 w = s.writeRgn 0 0x1010 w := by
  unfold State.writeReg
  rw [if_neg (by omega), if_neg (by simp [good])]
  simp

theorem writeReg_power {w : W64} : s.writeReg 0 0x80000 w = s.setReg 0 0x80000 (take 0 w 1 0) := by
  unfold State.writeReg
  rw [if_neg (by omega), if_neg (by simp [good])]
  simp

theorem writeReg_slot {p o : Nat} {w : W64} (hp : p < 8) (ho : o < 0x1000) : s.writeReg 0 (0x60000 + 0x1000 * p + o) w = s.writeSlot 0 p o w := by
  unfold State.writeReg
  rw [if_neg (by omega), if_neg (by simp [good]), if_neg (by omega), if_neg (by omega), if_neg (by omega), if_neg (by omega), if_neg (by omega),
    if_pos (by omega)]
  dsimp only
  rw [if_pos rfl, show (0x60000 + 0x1000 * p + o - 0x60000) / 0x1000 = p by omega, if_pos hp,
    show (0x60000 + 0x1000 * p + o) % 0x1000 = o by omega]

theorem writeReg_route {d : Nat} {w : W64} (hd : d < 512) : s.writeReg 0 (0x71000 + 8 * d) w = s.setReg 0 (0x71000 + 8 * d) (take 0 w 15 0) := by
  unfold State.writeReg
  rw [if_neg (by omega), if_neg (by simp [good]), if_neg (by omega), if_neg (by omega), if_neg (by omega), if_neg (by omega), if_neg (by omega),
    if_neg (by omega), if_pos (by omega), if_pos rfl]
  unfold State.writeLnk
  rw [if_neg (by omega), if_pos (by omega), show 0x70000 + (0x71000 + 8 * d - 0x70000) = 0x71000 + 8 * d by omega]

end

theorem writeSlot_held {p o : Nat} {w : W64} (h : s.tdiHeld p = true) : s.writeSlot 0 p o w = s := by
  unfold State.writeSlot
  rw [if_neg (by simp), if_pos ⟨rfl, h⟩]

theorem writeSlot_takes {p o : Nat} {w x : W64} (h : s.tdiHeld p = false) (pr : (o = 0x38 ∨ o = 0x40) → s.prBusy p = false)
    (hx : slotReg o (s.partReg p o) w = some x) : s.writeSlot 0 p o w = s.setReg 0 (0x60000 + 0x1000 * p + o) x := by
  have free : ¬ ((o = 0x38 ∨ o = 0x40) ∧ s.prBusy p = true) := fun ⟨hw, hb⟩ => by simp [pr hw] at hb
  unfold State.writeSlot
  rw [if_neg (by simp), if_neg (by simp [h]), if_neg free, hx]

theorem writeSlot_none {p o : Nat} {w : W64} (h : s.tdiHeld p = false) (hx : slotReg o (s.partReg p o) w = none) : s.writeSlot 0 p o w = s := by
  unfold State.writeSlot
  rw [if_neg (by simp), if_neg (by simp [h]), hx, ite_self]

/-- A write of one half of a slot register keeps the other half. -/
theorem written_slot_half {p o : Nat} (bar : s.bar0 0 = true) (hp : p < 8) (ho : o = 8 ∨ o = 12) :
    s.written 0 (0x60000 + 0x1000 * p + o) false v = if o = 8 then setFld (s.reg 0 (0x60000 + 0x1000 * p + 8)) 31 0 (fld v 31 0)
      else setFld (s.reg 0 (0x60000 + 0x1000 * p + 8)) 63 32 (fld v 31 0) := by
  obtain ⟨⟨run, good⟩, present⟩ : (s.module.electrical = .running ∧ s.module.linkDegraded = false) ∧ s.present 0 = true := by
    simpa [State.bar0] using bar
  have at8 : 0x60000 + 0x1000 * p + o - (0x60000 + 0x1000 * p + o) % 8 = 0x60000 + 0x1000 * p + 8 := by omega
  have old : s.otherHalf 0 (0x60000 + 0x1000 * p + 8) = s.reg 0 (0x60000 + 0x1000 * p + 8) := by
    unfold State.otherHalf State.readReg
    rw [if_neg (by omega), if_neg (by omega), if_neg (by simp [run, present]), if_neg (by omega), if_neg (by simp [good]),
      if_neg (by omega), if_neg (by omega), if_neg (by omega), if_neg (by omega), if_neg (by omega), if_pos (by omega)]
    dsimp only
    rw [if_pos rfl, show (0x60000 + 0x1000 * p + 8 - 0x60000) / 0x1000 = p by omega, if_pos hp,
      show (0x60000 + 0x1000 * p + 8) % 0x1000 = 8 by omega]
    rfl
  unfold State.written
  rw [at8, old]
  obtain rfl | rfl := ho
  · exact if_pos (show (0x60000 + 0x1000 * p + 8) % 8 = 0 by omega)
  · exact if_neg (show ¬ (0x60000 + 0x1000 * p + 12) % 8 = 0 by omega)

/-- A length of at most 16,384 is taken whole, and any other leaves the register as it was. -/
theorem takeIf_length {old w : W64} : (fld w 14 0 ≤ 16384 → fld (takeIf old w 14 0 (fun x => decide (x ≤ 16384))) 14 0 = fld w 14 0) ∧
    (16384 < fld w 14 0 → takeIf old w 14 0 (fun x => decide (x ≤ 16384)) = old) := by
  refine ⟨fun h => ?_, fun h => if_neg (by simp; omega)⟩
  have taken : takeIf old w 14 0 (fun x => decide (x ≤ 16384)) = setFld old 14 0 (fld w 14 0) := if_pos (by simpa using h)
  rw [taken, fld_setFld_same _ _ (by decide), Nat.mod_eq_of_lt (fld_lt w 14 0)]

/-- A field taken into zero is the number it holds. -/
theorem take_zero (w : W64) : take 0 w 15 0 = BitVec.ofNat 64 (fld w 15 0) := by
  refine BitVec.eq_of_getLsbD_eq fun i hi => ?_
  unfold take
  rw [getLsbD_setFld _ _ _ _ _ (by decide), BitVec.getLsbD_ofNat]
  by_cases low : i ≤ 15
  · rw [if_pos ⟨Nat.zero_le i, low⟩]
    simp [hi]
  · rw [if_neg (by omega), Nat.testBit_lt_two_pow (lt_of_lt_of_le (fld_lt w 15 0) (Nat.pow_le_pow_right (by omega) (by omega)))]
    simp

theorem writePart_op {op : Nat} (h : fld v 5 3 = op) (lo : 1 ≤ op) (hi : op ≤ 3) : s.writePart v = s.partOp 0 (fld v 2 0) op := by
  unfold State.writePart
  rw [h]
  exact if_pos (by interval_cases op <;> rfl)

theorem writePart_reserved (h : fld v 5 3 = 0 ∨ 3 < fld v 5 3) (idle : s.partCtl.busy = false) (up : s.firmwareUp = true) :
    s.writePart v = { s with partCtl := { s.partCtl with status := 0x0F, partition := fld v 2 0 } } := by
  unfold State.writePart
  rw [if_neg, if_neg (by simp [idle, up])]
  simp only [List.contains_cons, List.contains_nil, Bool.or_eq_true, beq_iff_eq, Bool.false_eq_true, or_false]
  omega

theorem writeRgn_op {op : Nat} (h : fld v 10 8 = op) (lo : 1 ≤ op) (hi : op ≤ 5) : s.writeRgn 0 0x1010 v = s.regionOp 0 (fld v 7 0) op := by
  unfold State.writeRgn
  rw [if_neg (by omega), if_neg (by omega), if_neg (by omega), if_pos rfl, h]
  exact if_neg (by interval_cases op <;> decide)

theorem writeRgn_reserved (h : fld v 10 8 = 0 ∨ 5 < fld v 10 8) (idle : s.memory.ctl.busy = false) (up : s.firmwareUp = true) :
    s.writeRgn 0 0x1010 v = s.endRegionCmd (fld v 7 0) (fld v 10 8) 9 := by
  have top := fld_lt v 10 8
  unfold State.writeRgn
  rw [if_neg (by omega), if_neg (by omega), if_neg (by omega), if_pos rfl, if_pos, if_pos (by simp [idle, up])]
  simp only [List.contains_cons, List.contains_nil, Bool.or_eq_true, beq_iff_eq, Bool.false_eq_true, or_false]
  omega

/-- A slot's write, whole or half, of a register that takes it. -/
theorem registerWrite_slot {p o : Nat} {w : W64} (hf : fn.val = 0) (bar : s.bar0 0 = true) (hp : p < 8) (ho : o < 0x1000) (h8 : o % 8 = 0)
    (held : s.tdiHeld p = false) (pr : (o = 0x38 ∨ o = 0x40) → s.prBusy p = false) (hw : slotReg o (s.partReg p o) v = some w) :
    exec (.registerWrite fn (BitVec.ofNat 24 (0x60000 + 0x1000 * p + o)) true v) s =
      .next (s.setReg 0 (0x60000 + 0x1000 * p + o) w) := by
  obtain ⟨⟨-, good⟩, -⟩ : (s.module.electrical = .running ∧ s.module.linkDegraded = false) ∧ s.present 0 = true := by
    simpa [State.bar0] using bar
  rw [registerWrite_wide hf bar (by omega) (by omega), writeReg_slot good hp ho, writeSlot_takes held pr hw]

theorem registerWrite_slot_half {p o : Nat} (hf : fn.val = 0) (bar : s.bar0 0 = true) (hp : p < 8) (ho : o = 8 ∨ o = 12)
    (held : s.tdiHeld p = false) :
    exec (.registerWrite fn (BitVec.ofNat 24 (0x60000 + 0x1000 * p + o)) false v) s = .next (s.setReg 0 (0x60000 + 0x1000 * p + 8)
      (if o = 8 then setFld (s.reg 0 (0x60000 + 0x1000 * p + 8)) 31 0 (fld v 31 0)
        else setFld (s.reg 0 (0x60000 + 0x1000 * p + 8)) 63 32 (fld v 31 0))) := by
  obtain ⟨⟨-, good⟩, -⟩ : (s.module.electrical = .running ∧ s.module.linkDegraded = false) ∧ s.present 0 = true := by
    simpa [State.bar0] using bar
  rw [registerWrite_half hf bar (by omega) (by omega), written_slot_half bar hp ho,
    show 0x60000 + 0x1000 * p + o - (0x60000 + 0x1000 * p + o) % 8 = 0x60000 + 0x1000 * p + 8 by omega,
    writeReg_slot good hp (by omega), writeSlot_takes held (by omega) rfl]

end

/-- Physical function 0's writes of the registers that O55 names. -/
theorem registerWrites_taken {fn : FnId} {v : W64} {s : State} (hf : fn.val = 0) (bar : s.bar0 0 = true) :
    (∀ d, d < 512 → exec (.registerWrite fn (BitVec.ofNat 24 (0x71000 + 8 * d)) true v) s =
      .next (s.setReg 0 (0x71000 + 8 * d) (BitVec.ofNat 64 (fld v 15 0)))) ∧
    exec (.registerWrite fn (BitVec.ofNat 24 0x50000) true v) s = .next (s.writePart v) ∧
    exec (.registerWrite fn (BitVec.ofNat 24 0x41010) true v) s = .next (s.writeRgn 0 0x1010 v) ∧
    exec (.registerWrite fn (BitVec.ofNat 24 0x80000) true v) s = .next (s.setReg 0 0x80000 (take 0 v 1 0)) := by
  obtain ⟨⟨-, good⟩, -⟩ : (s.module.electrical = .running ∧ s.module.linkDegraded = false) ∧ s.present 0 = true := by
    simpa [State.bar0] using bar
  refine ⟨fun d hd => ?_, ?_, ?_, ?_⟩
  · rw [registerWrite_wide hf bar (by omega) (by omega), writeReg_route good hd, take_zero]
  · rw [registerWrite_wide hf bar (by omega) (by omega), writeReg_part good]
  · rw [registerWrite_wide hf bar (by omega) (by omega), writeReg_region good]
  · rw [registerWrite_wide hf bar (by omega) (by omega), writeReg_power good]

/-- Settles O55: every register takes its fields alone; what no register takes changes nothing. -/
theorem registerWritesTakeTheirFields : Obligations.RegisterWritesTakeTheirFields := by
  unfold Obligations.RegisterWritesTakeTheirFields
  refine ⟨fun fn off wide v s => ?_, fun fn v s hf bar => ?_, fun fn p s bar => ?_, fun fn p s bar => ⟨fun own => ?_, fun pf other => ?_⟩⟩
  · refine ⟨fun h => completes_next (exec_registerWrite_none h) rfl, fun run present mine => ⟨fun h => ?_, fun h lo hi => ?_,
      fun h lo bad => ?_, fun h hf lo hi => ?_⟩⟩
    · exact completes_next (exec_registerWrite_unaligned run present mine h) rfl
    · exact completes_next (exec_registerWrite_ignored run present mine h fun w => writeReg_features (by omega) (by omega)) rfl
    · exact completes_next (exec_registerWrite_ignored run present mine h fun w => writeReg_degraded (by omega) bad) rfl
    · exact completes_next (exec_registerWrite_ignored run present mine h fun w => writeReg_virtual hf (by omega) (by omega)) rfl
  · obtain ⟨⟨run, good⟩, present⟩ : (s.module.electrical = .running ∧ s.module.linkDegraded = false) ∧ s.present 0 = true := by
      simpa [State.bar0] using bar
    obtain ⟨route, part, region, power⟩ := registerWrites_taken (v := v) hf bar
    refine ⟨fun o lo hi h8 => ?_, fun p o hp ho h8 held pr => ⟨fun w hw => ?_, fun hw => ?_⟩, fun p hp held => ⟨?_, ?_, fun h => ?_, fun h => ?_⟩,
      fun p o hp ho h8 held => ?_, fun d hd => ?_, ⟨fun lo hi => ?_, fun op idle up => ?_⟩, ⟨fun lo hi => ?_, fun op idle up => ?_⟩, ?_⟩
    · refine completes_next ((registerWrite_wide hf bar (by omega) h8).trans
        (congrArg Host.Outcome.next ((writeReg_mod (by omega)).trans (writeMod_sieveWord lo hi)))) ⟨setReg_alone (by omega), ?_⟩
      exact (readReg_sieveWord (s := s.setReg 0 o v) run present lo hi).trans (setReg_reg_same ..)
    · exact completes_next (registerWrite_slot hf bar hp ho h8 held (fun _ => pr) hw) ⟨setReg_alone (by omega), setReg_reg_same ..⟩
    · exact completes_next ((registerWrite_wide hf bar (by omega) (by omega)).trans
        (congrArg Host.Outcome.next ((writeReg_slot good hp ho).trans (writeSlot_none held hw)))) rfl
    · exact completes_next (registerWrite_slot_half hf bar hp (.inl rfl) held) ⟨setReg_alone (by omega), setReg_reg_same ..⟩
    · exact completes_next (registerWrite_slot_half hf bar hp (.inr rfl) held) ⟨setReg_alone (by omega), setReg_reg_same ..⟩
    · refine completes_next (registerWrite_slot hf bar hp (by omega) (by omega) held (by omega) rfl) ?_
      rw [setReg_reg_same]
      exact takeIf_length.1 h
    · refine completes_next (registerWrite_slot hf bar hp (by omega) (by omega) held (by omega) rfl) ?_
      rw [setReg_reg_same]
      exact takeIf_length.2 h
    · exact completes_next ((registerWrite_wide hf bar (by omega) (by omega)).trans
        (congrArg Host.Outcome.next ((writeReg_slot good hp ho).trans (writeSlot_held held)))) rfl
    · exact completes_next (route d hd) ⟨setReg_alone (by omega), setReg_reg_same ..⟩
    · exact completes_next (part.trans (congrArg Host.Outcome.next (writePart_op rfl lo hi))) rfl
    · exact completes_next (part.trans (congrArg Host.Outcome.next (writePart_reserved op idle up))) rfl
    · refine completes_next (region.trans (congrArg Host.Outcome.next (writeRgn_op rfl lo hi))) ?_
      rw [hf]
    · exact completes_next (region.trans (congrArg Host.Outcome.next (writeRgn_reserved op idle up))) rfl
    · refine completes_next power ⟨setReg_alone (by omega), ?_⟩
      rw [setReg_reg_same]
      exact (fld_setFld_same _ _ (by decide)).trans (Nat.mod_eq_of_lt (fld_lt v 1 0))
  · exact completes_next (congrArg Host.Outcome.next (if_pos (by simp [bar]))) rfl
  · exact completes_next (congrArg Host.Outcome.next ((if_neg (by simp [bar])).trans (if_pos own))) rfl
  · exact completes_next (congrArg Host.Outcome.next ((if_neg (by simp [bar])).trans (if_neg (by simp [pf, other])))) rfl

end Sys2Proof.Proofs
end

section
/-! PROOF of the regions, clusters and memory of a slot whose registers apply (13 R338) -/

namespace Sys2Proof.Proofs

open Sys2Proof Sys2Proof.Machine Sys2Proof.Laws

/-! ### The lines of regions that are blanked (05 R142, R144) -/

/-- Whether a region's placement holds a line, of a valid entry or not. -/
def covers (r : Region) (l : Nat) : Bool := ({ r with w0 := r.w0 ||| 1 } : Region).hasLine l

theorem covers_reset (l : Nat) : covers Region.reset l = false := by
  have none : ({ Region.reset with w0 := Region.reset.w0 ||| 1 } : Region).groupMask = 0 := by decide
  unfold covers Region.hasLine
  rw [none]
  simp

theorem fld_or_one {x : W64} {hi lo : Nat} (h : 0 < lo) : fld (x ||| 1) hi lo = fld x hi lo := by
  refine Nat.eq_of_testBit_eq fun i => ?_
  rw [testBit_fld, testBit_fld, BitVec.getLsbD_or]
  have one : (1 : W64).getLsbD (lo + i) = false := by
    rw [show (1 : W64) = BitVec.ofNat 64 1 from rfl, BitVec.getLsbD_ofNat]
    rw [Nat.testBit_lt_two_pow (Nat.one_lt_two_pow (by omega)), Bool.and_false]
  rw [one, Bool.or_false]

/-- The placement stands in the span, the size and the second word. -/
theorem covers_congr {r x : Region} (span : x.span = r.span) (size : x.size = r.size) (w1 : x.w1 = r.w1) (l : Nat) : covers x l = covers r l := by
  have valid (y : Region) : ({ y with w0 := y.w0 ||| 1 } : Region).valid = true := by
    unfold Region.valid bitAt
    simp
  have spanOf (y : Region) : ({ y with w0 := y.w0 ||| 1 } : Region).span = y.span := fld_or_one (by omega)
  have sizeOf (y : Region) : ({ y with w0 := y.w0 ||| 1 } : Region).size = y.size := fld_or_one (by omega)
  obtain ⟨w0, w1'⟩ := x
  obtain rfl : w1' = r.w1 := w1
  have list : ({ w0 := w0 ||| 1, w1 := r.w1 } : Region).stackList = ({ r with w0 := r.w0 ||| 1 } : Region).stackList := by
    unfold Region.stackList
    rw [spanOf r, ← span, ← spanOf ⟨w0, r.w1⟩]
    rfl
  have rows : ({ w0 := w0 ||| 1, w1 := r.w1 } : Region).rows = ({ r with w0 := r.w0 ||| 1 } : Region).rows := by
    unfold Region.rows Region.m
    rw [spanOf r, ← span, ← spanOf ⟨w0, r.w1⟩, sizeOf r, ← size, ← sizeOf ⟨w0, r.w1⟩]
    rfl
  unfold covers Region.hasLine
  dsimp only
  rw [valid ⟨w0, r.w1⟩, valid r, list, rows]
  rfl

theorem covers_state (r : Region) (k l : Nat) : covers { r with w0 := setFld r.w0 2 1 k } l = covers r l := by
  have span : ({ r with w0 := setFld r.w0 2 1 k } : Region).span = r.span := fld_setFld_ne _ _ (by decide) (by omega)
  have size : ({ r with w0 := setFld r.w0 2 1 k } : Region).size = r.size := fld_setFld_ne _ _ (by decide) (by omega)
  exact covers_congr span size rfl l

/-- Memory keeps every byte outside the placements that regions ns had, and no placement grows. -/
structure BlanksWithin (ns : List Nat) (s t : State) : Prop where
  placed : ∀ n l, covers (t.region n) l = true → covers (s.region n) l = true
  bytes : ∀ a, (∀ n, n ∈ ns → covers (s.region n) (a / 72) = false) → Tab.get blankByte t.mem a = Tab.get blankByte s.mem a

section

variable {ns : List Nat} {s t : State}

theorem blanksWithin_refl : BlanksWithin ns s s := ⟨fun _ _ h => h, fun _ _ => rfl⟩

/-- One region of ns is blanked and its entry changes, its placement not growing. -/
theorem blanksWithin_blank (h : BlanksWithin ns s t) {n : Nat} (hn : n ∈ ns) {f : Region → Region}
    (hf : ∀ r l, covers (f r) l = true → covers r l = true) : BlanksWithin ns s ((t.blankRegion (t.region n)).modRegion n f) := by
  refine ⟨fun k l hk => ?_, fun a ha => ?_⟩
  · by_cases e : k = n
    · rw [e, modRegion_region_same] at hk
      rw [e]
      exact h.placed n l (hf _ _ hk)
    · rw [modRegion_region_ne _ _ _ _ e] at hk
      exact h.placed k l hk
  · have outside : covers (t.region n) (a / 72) = false := by
      cases c : covers (t.region n) (a / 72)
      · rfl
      · rw [← ha n hn]
        exact (h.placed n _ c).symm
    refine (blankWhere_get (s := t) (covers (t.region n)) a).trans ?_
    rw [outside]
    exact h.bytes a ha

theorem blanksWithin_dropFw (p : Nat) : BlanksWithin (s.fwRegions p) s (s.dropFw p) := by
  unfold State.dropFw
  refine List.foldlRecOn (motive := BlanksWithin (s.fwRegions p) s) _ _ blanksWithin_refl fun t h n hn => blanksWithin_blank h hn fun r l hl => ?_
  rw [covers_reset] at hl
  cases hl

theorem blanksWithin_readyFw (p : Nat) : BlanksWithin ((s.fwRegions p).filter (fun n => (s.region n).st == 1)) s (s.readyFw p) := by
  unfold State.readyFw
  refine List.foldlRecOn (motive := BlanksWithin _ s) _ _ blanksWithin_refl fun t h n hn => blanksWithin_blank h hn fun r l hl => ?_
  rwa [covers_state] at hl

end

/-! ### Firmware's regions (13 R338) -/

section

variable {s : State}

theorem setRegionState_st (n k : Nat) (hk : k < 4) : ((s.setRegionState n k).region n).st = k := by
  unfold State.setRegionState
  rw [modRegion_region_same]
  exact (fld_setFld_same _ _ (by decide)).trans (Nat.mod_eq_of_lt hk)

/-- A region of partition p's in state creating is blank and ready (05 R144). -/
def readyOne (t : State) (n : Nat) : State := (t.blankRegion (t.region n)).setRegionState n 2

theorem readyOne_same (t : State) (n : Nat) : ((readyOne t n).region n).st = 2 := setRegionState_st n 2 (by decide)

theorem readyOne_ne (t : State) {n k : Nat} (h : k ≠ n) : (readyOne t n).region k = t.region k := modRegion_region_ne _ _ _ k h

theorem readyAll_region (l : List Nat) (n : Nat) :
    (n ∈ l ∨ (s.region n).st = 2 → ((l.foldl readyOne s).region n).st = 2) ∧ (n ∉ l → (l.foldl readyOne s).region n = s.region n) := by
  induction l generalizing s with
  | nil => exact ⟨fun h => h.resolve_left (by simp), fun _ => rfl⟩
  | cons k l ih =>
    obtain ⟨ready, stays⟩ := ih (s := readyOne s k)
    refine ⟨fun h => ready ?_, fun h => ?_⟩
    · by_cases e : n = k
      · exact .inr (e ▸ readyOne_same s k)
      · rw [readyOne_ne s e]
        exact h.imp_left fun m => (List.mem_cons.mp m).resolve_left e
    · rw [List.mem_cons, not_or] at h
      obtain ⟨ne, out⟩ := h
      exact (stays out).trans (readyOne_ne s ne)

/-- What is ready once firmware's regions that were being created are. -/
theorem readyFw_regions (p : Nat) : (∀ n, n ∈ s.fwRegions p → (s.region n).st = 1 → ((s.readyFw p).region n).st = 2) ∧
    (∀ n, n ∉ s.fwRegions p → (s.readyFw p).region n = s.region n) := by
  refine ⟨fun n hn st => (readyAll_region _ n).1 (.inl (List.mem_filter.mpr ⟨hn, by simp [st]⟩)),
    fun n hn => (readyAll_region _ n).2 fun h => hn (List.mem_filter.mp h).1⟩

/-- A plan takes its entries in the order in which they are offered. -/
theorem placeAll_keys {rs : List Region} {others : List Region} {ns : List Nat} {l : List (Nat × Region)} (h : placeAll rs others ns = some l) :
    (l.map (·.1)).Sublist ns := by
  induction rs generalizing others ns l with
  | nil =>
    obtain rfl : [] = l := Option.some.inj h
    exact List.nil_sublist _
  | cons r rs ih =>
    cases ns with
    | nil => cases h
    | cons n ns =>
      unfold placeAll at h
      split at h
      · cases h
      next x _ =>
        obtain ⟨m, hm, rfl⟩ := Option.map_eq_some_iff.mp h
        exact (ih hm).cons_cons n

theorem fwPlan_nodup {p : Nat} {a : Applied} {rs : List (Nat × Region)} (h : s.fwPlan p a = some rs) : (rs.map (·.1)).Nodup := by
  unfold State.fwPlan at h
  exact (placeAll_keys h).nodup ((List.nodup_reverse.mpr List.nodup_range).filter _)

/-- Entries that are written one by one, each once. -/
theorem setRegions_region (rs : List (Nat × Region)) (hn : (rs.map (·.1)).Nodup) :
    (∀ e, e ∈ rs → (rs.foldl (fun t e => t.modRegion e.1 (fun _ => e.2)) s).region e.1 = e.2) ∧
    (∀ n, n ∉ rs.map (·.1) → (rs.foldl (fun t e => t.modRegion e.1 (fun _ => e.2)) s).region n = s.region n) := by
  induction rs generalizing s with
  | nil => exact ⟨fun e h => absurd h (by simp), fun _ _ => rfl⟩
  | cons x rs ih =>
    rw [List.map_cons, List.nodup_cons] at hn
    obtain ⟨fresh, rest⟩ := hn
    obtain ⟨set, stays⟩ := ih (s := s.modRegion x.1 (fun _ => x.2)) rest
    refine ⟨fun e he => ?_, fun n h => ?_⟩
    · obtain rfl | he := List.mem_cons.mp he
      · exact (stays e.1 fresh).trans (modRegion_region_same ..)
      · exact set e he
    · rw [List.map_cons, List.mem_cons, not_or] at h
      obtain ⟨ne, out⟩ := h
      exact (stays n out).trans (modRegion_region_ne _ _ _ n ne)

/-- SETUP creates the regions of its plan, and blanks nothing but what the slot's regions held. -/
theorem createFw_facts (p : Nat) (a : Applied) : (∀ rs, s.fwPlan p a = some rs → (s.part p).mode ≠ .ready → ∀ e, e ∈ rs →
      (s.createFw p a).region e.1 = e.2) ∧
    ∀ b, (∀ n, n ∈ s.fwRegions p → covers (s.region n) (b / 72) = false) → Tab.get blankByte (s.createFw p a).mem b = Tab.get blankByte s.mem b := by
  unfold State.createFw
  refine ⟨fun rs plan mode e he => ?_, fun b hb => ?_⟩
  · rw [plan]
    dsimp only
    rw [if_neg (by simp [mode])]
    exact (setRegions_region rs (fwPlan_nodup plan)).1 e he
  · split
    · rfl
    · split
      · rfl
      · next rs _ _ =>
        have written : (rs.foldl (fun t e => t.modRegion e.1 (fun _ => e.2)) (s.dropFw p)).mem = (s.dropFw p).mem :=
          foldl_keeps State.mem (fun (t : State) (e : Nat × Region) => t.modRegion e.1 (fun _ => e.2)) (fun _ _ => rfl) rs _
        rw [written]
        exact (blanksWithin_dropFw p).bytes b hb

end

/-! ### Clusters in service, and what a share's new owner finds (02 R43, R51, R54) -/

/-- The same clusters work, and each quarter has as many of them in service. -/
structure UnitsStand (s t : State) : Prop where
  working : ∀ c, t.working c = s.working c
  inService : ∀ q, (t.quarter q).inService = (s.quarter q).inService

section

variable {s t u : State}

theorem unitsStand_trans (h : UnitsStand s t) (g : UnitsStand t u) : UnitsStand s u :=
  ⟨fun c => (g.working c).trans (h.working c), fun q => (g.inService q).trans (h.inService q)⟩

theorem unitsStand_only {L : List Fld} (h : Only L s t) (hc : Fld.clusters ∉ L) (hq : Fld.quarters ∉ L) : UnitsStand s t := by
  refine ⟨fun c => ?_, fun q => ?_⟩
  · unfold State.working State.cluster
    rw [h.same .clusters hc]
  · unfold State.quarter
    rw [h.same .quarters hq]

theorem unitsStand_foldl {α : Type} {f : State → α → State} (h : ∀ u a, UnitsStand u (f u a)) (l : List α) (s : State) :
    UnitsStand s (l.foldl f s) := by
  induction l generalizing s with
  | nil => exact ⟨fun _ => rfl, fun _ => rfl⟩
  | cons a l ih => exact unitsStand_trans (h s a) (ih _)

theorem unitsStand_modClusters (cs : List Nat) {f : Cluster → Cluster} (hf : ∀ x, (f x).failed = x.failed ∧ (f x).retired = x.retired) :
    UnitsStand s (s.modClusters cs f) := by
  refine unitsStand_foldl (f := fun (u : State) c => u.modCluster c f) (fun u c => ⟨fun k => ?_, fun _ => rfl⟩) cs s
  obtain ⟨failed, retired⟩ := hf (u.cluster c)
  unfold State.working
  by_cases e : k = c
  · rw [e, modCluster_cluster_same, failed, retired]
  · rw [modCluster_cluster_ne _ _ _ _ e]

theorem unitsStand_zeroShareWindow (sh : Nat) : UnitsStand s (s.zeroShareWindow sh) := by
  refine ⟨fun _ => rfl, fun q => ?_⟩
  unfold State.zeroShareWindow
  by_cases e : q = sh / 12
  · rw [e, modQuarter_quarter_same]
  · rw [modQuarter_quarter_ne _ _ _ _ e]

theorem unitsStand_zeroScratch (cs : List Nat) : UnitsStand s (s.zeroScratch cs) := unitsStand_modClusters cs fun _ => ⟨rfl, rfl⟩

theorem unitsStand_shareClusters (h : UnitsStand s t) (sh : Nat) : t.shareClusters sh = s.shareClusters sh := by
  have working : t.working = s.working := funext h.working
  unfold State.shareClusters State.serving
  rw [working, h.inService]

theorem unitsStand_partClusters (h : UnitsStand s t) {p : Nat} (shares : (t.part p).applied.shares = (s.part p).applied.shares) :
    t.partClusters p = s.partClusters p := by
  have each : t.shareClusters = s.shareClusters := funext (unitsStand_shareClusters h)
  unfold State.partClusters State.partClustersIn
  rw [each, shares]

theorem unitsStand_featPart (h : UnitsStand s t) {p : Nat} (shares : (t.part p).applied.shares = (s.part p).applied.shares) :
    t.featPartNow p = s.featPartNow p := by
  have each : t.shareClusters = s.shareClusters := funext (unitsStand_shareClusters h)
  unfold State.featPartNow State.partClustersIn
  rw [each, shares]

/-- A scratchpad that reads as zero stays so while others are zeroed. -/
theorem zeroScratch_sp (cs : List Nat) (c : Nat) (h : c ∈ cs ∨ (s.cluster c).arch.sp = []) : ((s.zeroScratch cs).cluster c).arch.sp = [] := by
  unfold State.zeroScratch
  by_cases m : c ∈ cs
  · obtain ⟨x, hx⟩ := modClusters_cluster_mem (s := s) (f := fun x => { x with arch := { x.arch with sp := [] } }) m
    rw [hx]
  · rw [modClusters_cluster_ne m]
    exact h.resolve_left m

theorem zeroEach_sp (l : List Nat) (s₀ : State) (hs : UnitsStand s₀ s) (c : Nat)
    (h : (∃ sh, sh ∈ l ∧ c ∈ s₀.shareClusters sh) ∨ (s.cluster c).arch.sp = []) :
    ((l.foldl (fun (u : State) sh => u.zeroScratch (u.shareClusters sh)) s).cluster c).arch.sp = [] := by
  induction l generalizing s with
  | nil => exact h.resolve_left (by simp)
  | cons k l ih =>
    refine ih (unitsStand_trans hs (unitsStand_zeroScratch _)) ?_
    obtain ⟨sh, hm, hc⟩ | h := h
    · obtain rfl | hm := List.mem_cons.mp hm
      · exact .inr (zeroScratch_sp _ c (.inl (by rwa [unitsStand_shareClusters hs])))
      · exact .inl ⟨sh, hm, hc⟩
    · exact .inr (zeroScratch_sp _ c (.inr h))

/-- The shares gained have empty scratchpads, and the same clusters serve (02 R43). -/
theorem zeroChanged_facts (old new : BitVec 48) : UnitsStand s (s.zeroChanged old new) ∧
    ∀ sh, sh < 48 → bitAt new sh = true → bitAt old sh = false → ∀ c, c ∈ s.shareClusters sh → ((s.zeroChanged old new).cluster c).arch.sp = [] := by
  unfold State.zeroChanged
  have windows := unitsStand_foldl (fun u sh => unitsStand_zeroShareWindow (s := u) sh) ((changedQuarters old new).flatMap (sharesIn new)) s
  refine ⟨unitsStand_trans windows (unitsStand_foldl (fun u sh => unitsStand_zeroScratch _) _ _), fun sh hsh gained had c hc => ?_⟩
  refine zeroEach_sp _ s windows c (.inl ⟨sh, List.mem_filter.mpr ⟨?_, by simp [had]⟩, hc⟩)
  unfold setBits
  rw [List.mem_filter]
  refine ⟨List.mem_range.mpr hsh, ?_⟩
  exact gained

/-! ### The registers of a slot apply (13 R338) -/

/-- Marked clusters retire, and the slot holds what its registers name. -/
def slotHolds (s : State) (p : Nat) (a : Applied) : State :=
  ((s.retireQuarters p).foldl State.retire s).modPart p (fun x => { x with applied := a })

/-- What the slot's new resources held is gone. -/
def slotCleared (s : State) (p : Nat) (a : Applied) : State := (slotHolds s p a).zeroChanged (s.part p).applied.shares a.shares

/-- The slot's clusters have empty caches. -/
def slotUncached (s : State) (p : Nat) (a : Applied) : State :=
  (slotCleared s p a).modClusters ((slotCleared s p a).partClusters p) (fun x => { x with cache := [] })

theorem applyPart_eq (p : Nat) (a : Applied) : s.applyPart p a =
    ((slotUncached s p a).createFw p a).modPart p (fun x => { x with feat := ((slotUncached s p a).createFw p a).featPartNow p }) := rfl

theorem slotHolds_only (p : Nat) (a : Applied) : Only [.clusters, .quarters, .parts, .sec] s (slotHolds s p a) :=
  only_modPart (within_sub (by decide) (within_refl _)) p _
    (only_foldl _ (only_refl _ s) fun _ q h => only_retire (within_sub (by decide) (within_refl _)) q h)

theorem slotHolds_part (p : Nat) (a : Applied) : (slotHolds s p a).part p = { s.part p with applied := a } ∧
    ∀ k, k ≠ p → (slotHolds s p a).part k = s.part k := by
  have retired : ((s.retireQuarters p).foldl State.retire s).parts = s.parts :=
    (only_foldl (L := [.clusters, .quarters, .sec]) _ (only_refl _ s) fun _ q h => only_retire (within_refl _) q h).same .parts (by simp)
  unfold slotHolds
  refine ⟨?_, fun k hk => ?_⟩
  · rw [modPart_part_same, part_of_parts retired]
  · rw [modPart_part_ne _ _ _ _ hk, part_of_parts retired]

theorem slotUncached_only (p : Nat) (a : Applied) : Only [.clusters, .quarters] (slotHolds s p a) (slotUncached s p a) :=
  only_modClusters (within_sub (by decide) (within_refl _)) _ _ (only_zeroChanged (within_refl _) _ _ (only_refl _ _))

theorem slotUncached_parts (p : Nat) (a : Applied) : (slotUncached s p a).parts = (slotHolds s p a).parts :=
  (slotUncached_only p a).same .parts (by simp)

theorem slotUncached_units (p : Nat) (a : Applied) : UnitsStand (slotHolds s p a) (slotUncached s p a) :=
  unitsStand_trans (zeroChanged_facts _ _).1 (unitsStand_modClusters _ fun _ => ⟨rfl, rfl⟩)

/-- The clusters of the slot have empty caches, and those of the shares that it gains empty scratchpads. -/
theorem slotUncached_clusters (p : Nat) (a : Applied) :
    (∀ c, c ∈ (slotUncached s p a).partClusters p → ((slotUncached s p a).cluster c).cache = []) ∧
    ∀ sh, sh < 48 → bitAt a.shares sh = true → bitAt (s.part p).applied.shares sh = false →
      ∀ c, c ∈ (slotUncached s p a).shareClusters sh → ((slotUncached s p a).cluster c).arch.sp = [] := by
  have cleared : Only [.clusters, .quarters] (slotHolds s p a) (slotCleared s p a) := only_zeroChanged (within_refl _) _ _ (only_refl _ _)
  have units : UnitsStand (slotCleared s p a) (slotUncached s p a) := unitsStand_modClusters _ fun _ => ⟨rfl, rfl⟩
  obtain ⟨stand, scratch⟩ := zeroChanged_facts (s := slotHolds s p a) (s.part p).applied.shares a.shares
  refine ⟨fun c hc => ?_, fun sh hsh gained had c hc => ?_⟩
  · have parts : (slotUncached s p a).parts = (slotCleared s p a).parts := (slotUncached_parts p a).trans (cleared.same .parts (by simp)).symm
    rw [unitsStand_partClusters units (by rw [part_of_parts parts])] at hc
    obtain ⟨x, hx⟩ := modClusters_cluster_mem (s := slotCleared s p a) (f := fun x => { x with cache := [] }) hc
    exact (congrArg Cluster.cache hx).trans rfl
  · have blank := scratch sh hsh gained had c (by rwa [unitsStand_shareClusters (slotUncached_units p a)] at hc)
    have kept : ((slotUncached s p a).cluster c).arch = ((slotCleared s p a).cluster c).arch :=
      foldl_keeps (fun u => (u.cluster c).arch) (fun (u : State) k => u.modCluster k (fun x => { x with cache := [] })) (fun u k => by
        by_cases e : c = k
        · rw [e, modCluster_cluster_same]
        · rw [modCluster_cluster_ne _ _ _ _ e]) _ _
    exact (congrArg Arch.sp kept).trans blank

theorem applyPart_part (p : Nat) (a : Applied) : (s.applyPart p a).part p =
      { s.part p with applied := a, feat := ((slotUncached s p a).createFw p a).featPartNow p } ∧
    ∀ k, k ≠ p → (s.applyPart p a).part k = s.part k := by
  have created : ((slotUncached s p a).createFw p a).parts = (slotHolds s p a).parts :=
    ((only_createFw (within_refl _) p a (only_refl _ _)).same .parts (by simp)).trans (slotUncached_parts p a)
  obtain ⟨mine, others⟩ := slotHolds_part (s := s) p a
  rw [applyPart_eq]
  refine ⟨?_, fun k hk => ?_⟩
  · rw [modPart_part_same, part_of_parts created, mine]
  · rw [modPart_part_ne _ _ _ _ hk, part_of_parts created, others k hk]

/-- What the apply leaves of the clusters and of the memory. -/
theorem applyPart_units (p : Nat) (a : Applied) : ((s.applyPart p a).part p).feat = (s.applyPart p a).featPartNow p ∧
    (∀ c, c ∈ (s.applyPart p a).partClusters p → ((s.applyPart p a).cluster c).cache = []) ∧
    (∀ sh, sh < 48 → bitAt a.shares sh = true → bitAt (s.part p).applied.shares sh = false →
      ∀ c, c ∈ (s.applyPart p a).shareClusters sh → ((s.applyPart p a).cluster c).arch.sp = []) := by
  have created : Only [.mem, .memory] (slotUncached s p a) ((slotUncached s p a).createFw p a) := only_createFw (within_refl _) p a (only_refl _ _)
  have rest : Only [.mem, .memory, .parts] (slotUncached s p a) (s.applyPart p a) :=
    only_modPart (within_sub (by decide) (within_refl _)) p _ (only_widen (by decide) created)
  have units : UnitsStand (slotUncached s p a) (s.applyPart p a) := unitsStand_only rest (by simp) (by simp)
  have clusters : (s.applyPart p a).clusters = (slotUncached s p a).clusters := rest.same .clusters (by simp)
  obtain ⟨part, -⟩ := applyPart_part (s := s) p a
  have held : (((slotUncached s p a).createFw p a).part p).applied = a := by
    rw [part_of_parts ((created.same .parts (by simp)).trans (slotUncached_parts p a)), (slotHolds_part p a).1]
  have shares : ((s.applyPart p a).part p).applied.shares = ((slotUncached s p a).part p).applied.shares := by
    rw [part, part_of_parts (slotUncached_parts p a), (slotHolds_part p a).1]
  obtain ⟨caches, scratch⟩ := slotUncached_clusters (s := s) p a
  refine ⟨?_, fun c hc => ?_, fun sh hsh gained had c hc => ?_⟩
  · rw [part]
    refine (unitsStand_featPart (unitsStand_only (L := [.parts]) ?_ (by simp) (by simp)) ?_).symm
    · rw [applyPart_eq]
      exact only_modPart (within_refl _) p _ (only_refl _ _)
    · rw [part, held]
  · have same : (s.applyPart p a).cluster c = (slotUncached s p a).cluster c := congrArg (fun l => Tab.get (fun _ => Cluster.reset) l c) clusters
    rw [same]
    exact caches c (by rwa [unitsStand_partClusters units shares] at hc)
  · have same : (s.applyPart p a).cluster c = (slotUncached s p a).cluster c := congrArg (fun l => Tab.get (fun _ => Cluster.reset) l c) clusters
    rw [same]
    exact scratch sh hsh gained had c (by rwa [unitsStand_shareClusters units] at hc)

theorem fwRegions_congr (h : t.memory = s.memory) (p : Nat) : t.fwRegions p = s.fwRegions p := by
  unfold State.fwRegions
  rw [h]

theorem region_congr (h : t.memory = s.memory) (n : Nat) : t.region n = s.region n := by
  unfold State.region
  rw [h]

theorem fwPlan_congr (h : t.memory = s.memory) (p : Nat) (a : Applied) : t.fwPlan p a = s.fwPlan p a := by
  unfold State.fwPlan State.fwRegions
  rw [h]

/-- The regions and the lines of the apply are those of the plan. -/
theorem applyPart_memory (p : Nat) (a : Applied) : (∀ rs, s.fwPlan p a = some rs → (s.part p).mode ≠ .ready → ∀ e, e ∈ rs →
      (s.applyPart p a).region e.1 = e.2) ∧
    ∀ b, (∀ n, n ∈ s.fwRegions p → covers (s.region n) (b / 72) = false) → Tab.get blankByte (s.applyPart p a).mem b = Tab.get blankByte s.mem b := by
  have memory : (slotUncached s p a).memory = s.memory :=
    ((slotUncached_only p a).same .memory (by simp)).trans ((slotHolds_only p a).same .memory (by simp))
  have mem : (slotUncached s p a).mem = s.mem :=
    ((slotUncached_only p a).same .mem (by simp)).trans ((slotHolds_only p a).same .mem (by simp))
  have mode : ((slotUncached s p a).part p).mode = (s.part p).mode := by
    rw [part_of_parts (slotUncached_parts p a), (slotHolds_part p a).1]
  obtain ⟨created, blanked⟩ := createFw_facts (s := slotUncached s p a) p a
  have last : Only [.parts] ((slotUncached s p a).createFw p a) (s.applyPart p a) := by
    rw [applyPart_eq]
    exact only_modPart (within_refl _) p _ (only_refl _ _)
  refine ⟨fun rs plan busy e he => ?_, fun b hb => ?_⟩
  · refine (region_congr (last.same .memory (by simp)) e.1).trans (created rs ?_ ?_ e he)
    · rw [fwPlan_congr memory, plan]
    · rwa [mode]
  · have stored := last.same .mem (by simp)
    rw [stored, ← mem]
    refine blanked b fun n hn => ?_
    rw [region_congr memory]
    exact hb n (by rwa [fwRegions_congr memory] at hn)

end

end Sys2Proof.Proofs
end

section
/-! PROOF of RELEASE begins, and the checks of a partition command (13 R337, R338) -/

namespace Sys2Proof.Proofs

open Sys2Proof Sys2Proof.Machine Sys2Proof.Laws

/-! ### What the leaving of regions keeps of every round (13 R338) -/

/-- The entries of a partition's round. -/
def roundEntries (x : Part) : Tab (Option RoundEntry) := x.round.entries

section

variable {s : State}

theorem entries_sieveLine (z : SieveSum) (pln : Nat) : partsView roundEntries (s.sieveLine z pln).1 = partsView roundEntries s := by
  have due : Dueless roundEntries := fun _ _ => rfl
  unfold State.sieveLine
  dsimp only
  split_ifs
  · rfl
  · rfl
  · have bad := view_badLine s due (sequencerOf pln) pln 0xFF true false
    generalize s.badLine (sequencerOf pln) pln 0xFF true false = t at bad ⊢
    split
    · exact (view_modPart t _ rfl).trans bad
    · exact bad
  · split
    · rfl
    · exact view_only (L := [.mem, .out, .unsent, .stackTab, .memory, .fns, .buckets, .sec, .spares])
        (only_corrected (within_sub (by decide) (within_refl _)) _
          (only_setStored (within_sub (by decide) (within_refl _)) _ _ (only_refl _ s))) (by simp)
    · exact view_badLine s due _ _ _ _ _

theorem entries_resieveNow : partsView roundEntries s.resieveNow = partsView roundEntries s := by
  unfold State.resieveNow
  split
  · rfl
  · exact foldl_keeps (fun a : State × SieveSum => partsView roundEntries a.1) (fun (a : State × SieveSum) l => a.1.sieveLine a.2 l)
      (fun a l => entries_sieveLine a.2 l) _ (_, SieveSum.zero)

theorem entries_invalidate (r : Region) (q : Nat) : partsView roundEntries (s.invalidate r q) = partsView roundEntries s :=
  foldl_keeps (partsView roundEntries) _ (fun u (e : Nat × TensorEntry) => by
    split
    · split
      · exact (view_only (only_post (within_refl _) _ _ _ _ _ (only_refl _ _)) (by simp)).trans (view_modPart u q rfl)
      · rfl
    · rfl) _ s

theorem entries_leaveRegion (n : Nat) : partsView roundEntries (s.leaveRegion n) = partsView roundEntries s := by
  have lists (u : State) : partsView roundEntries ((List.range 8).foldl (fun t q => t.modPart q (unlisted n)) u) = partsView roundEntries u :=
    foldl_keeps (partsView roundEntries) (fun t q => t.modPart q (unlisted n)) (fun t q => view_modPart t q rfl) _ u
  have handles (u : State) (r : Region) : partsView roundEntries ((List.range 8).foldl (fun t q => if r.readable q then t.invalidate r q else t) u) =
      partsView roundEntries u :=
    foldl_keeps (partsView roundEntries) (fun t q => if r.readable q then t.invalidate r q else t) (fun t q => by
      split
      · exact entries_invalidate r q
      · rfl) _ u
  unfold State.leaveRegion
  extract_lets r t1 t2 m q
  rw [entries_resieveNow]
  exact (view_parts rfl).trans ((lists t1).trans (handles s r))

theorem entries_regionsRefused (l : List Nat) : partsView roundEntries
    (l.foldl (fun u n => if (u.region n).st = 2 then (u.leaveRegion n).setRegionState n 3 else u) s) = partsView roundEntries s :=
  foldl_keeps (partsView roundEntries) _ (fun u n => by
    split
    · exact (view_parts rfl).trans (entries_leaveRegion n)
    · rfl) l s

theorem entries_leaveShares (p : Nat) : partsView roundEntries (s.leaveShares p) = partsView roundEntries s :=
  foldl_keeps (partsView roundEntries) _ (fun u (e : Nat × Region) => by
    split
    · exact (view_parts rfl).trans (entries_invalidate e.2 p)
    · rfl) _ s

theorem outline_leaveShares (p q : Nat) : outline p (s.leaveShares q) = outline p s :=
  foldl_keeps (outline p) _ (fun u (e : Nat × Region) => by
    split
    · exact (show outline p ((u.invalidate e.2 q).modRegion e.1 _) = outline p (u.invalidate e.2 q) from rfl).trans (outline_invalidate p u e.2 q)
    · rfl) _ s

end

/-! ### RELEASE begins (13 R338) -/

section

variable {s : State} {p : Nat}

/-- The partition's work has ended, and its state is releasing. -/
def releaseBegun (s : State) (p : Nat) : State :=
  ((((s.endWork p).journal p 0x0C (toBytes 1 2 ++ toBytes 7 0)).stopJournal p).tdiFails p).modPart p (fun x => { x with mode := .releasing })

/-- Its regions are refused, and it has left those that it shared. -/
def releaseLeft (s : State) (p : Nat) : State :=
  ((((releaseBegun s p).ownedRegions p).foldl (fun u n => if (u.region n).st = 2 then (u.leaveRegion n).setRegionState n 3 else u)
    (releaseBegun s p)).leaveShares p).dropTensors p

theorem beginRelease_eq : s.beginRelease p = (releaseLeft s p).destroyKeys p := rfl

theorem ending_releaseBegun : ∃ l, l.filter Job.live = [] ∧ ending p (releaseBegun s p) =
    { ending p s with mode := .releasing, tdi := failedTdi (ending p s).tdi, jobs := l } := by
  obtain ⟨l, dead, work⟩ := ending_endWork (p := p) (s := s)
  refine ⟨l, dead, ?_⟩
  have journal : ending p (((s.endWork p).journal p 0x0C (toBytes 1 2 ++ toBytes 7 0)).stopJournal p) = ending p (s.endWork p) :=
    ending_of_outline ((outline_stopJournal p _ p).trans (outline_journal p _ p _ _))
  have mode (u : State) : ending p (u.modPart p (fun x => { x with mode := .releasing })) = { ending p u with mode := .releasing } := by
    simp only [ending, outline, modPart_part_same]
    rfl
  unfold releaseBegun
  rw [mode, ending_tdiFails, journal, work]

theorem ending_beginRelease : ∃ l, l.filter Job.live = [] ∧ ending p (s.beginRelease p) =
    { ending p s with
      mode := .releasing, tdi := failedTdi (ending p s).tdi, jobs := l,
      sec := { (ending p s).sec with memKeys := setFld (ending p s).sec.memKeys p p 0 } } := by
  obtain ⟨l, dead, begun⟩ := ending_releaseBegun (s := s) (p := p)
  refine ⟨l, dead, ?_⟩
  have left : ending p (releaseLeft s p) = ending p (releaseBegun s p) := by
    refine (ending_of_outline ((outline_dropTensors p _ p).trans (outline_leaveShares p p))).trans ?_
    exact ending_regionsRefused _ _
  rw [beginRelease_eq, ending_destroyKeys, left, begun]

theorem entries_beginRelease : ((s.beginRelease p).round p).entries = [] := by
  have stopped : partsView roundEntries (releaseBegun s p) p = [] := by
    have emptied : partsView roundEntries (s.endWork p) p = [] := by
      unfold State.endWork partsView
      dsimp only
      generalize State.endRequests _ p 0x19 = u
      unfold State.emptyRound State.modRound
      rw [modPart_part_same]
      rfl
    have journal (u : State) : partsView roundEntries (u.stopJournal p) = partsView roundEntries u := view_modPart u p (by dsimp only; split <;> rfl)
    have tdi (u : State) : partsView roundEntries (u.tdiFails p) = partsView roundEntries u := view_modPart u p rfl
    have mode (u : State) : partsView roundEntries (u.modPart p (fun x => { x with mode := .releasing })) = partsView roundEntries u :=
      view_modPart u p rfl
    unfold releaseBegun
    rw [mode, tdi, journal, view_journal _ p (fun _ _ => rfl), emptied]
  have keys (u : State) : partsView roundEntries (u.destroyKeys p) = partsView roundEntries u :=
    (view_parts (s := u.modRound p (fun r => { r with pr := { r.pr with keyMade := false, used := [] } })) rfl).trans (view_modPart u p rfl)
  have tensors (u : State) : partsView roundEntries (u.dropTensors p) = partsView roundEntries u := view_modPart u p rfl
  have whole : partsView roundEntries (s.beginRelease p) p = [] := by
    rw [beginRelease_eq, keys]
    unfold releaseLeft
    rw [tensors, entries_leaveShares, entries_regionsRefused, stopped]
  generalize s.beginRelease p = t at whole ⊢
  exact whole

theorem ending_memKeys {t : State} : (ending p t).sec.memKeys = t.sec.memKeys := rfl

/-- What a RELEASE that has begun leaves of the slot. -/
theorem beginRelease_facts (hp : p < 8) : ((s.beginRelease p).part p).mode = .releasing ∧ (s.beginRelease p).liveJobs p = [] ∧
    (s.beginRelease p).seqs p = [] ∧ bitAt (s.beginRelease p).sec.memKeys p = false ∧ (s.beginRelease p).regs = s.regs := by
  obtain ⟨l, dead, begun⟩ := ending_beginRelease (s := s) (p := p)
  have entries := entries_beginRelease (s := s) (p := p)
  generalize s.beginRelease p = t at begun entries ⊢
  have mode := congrArg Outline.mode begun
  have jobs := congrArg Outline.jobs begun
  have regs := congrArg Outline.regs begun
  have sec := congrArg Sec.memKeys (congrArg Outline.sec begun)
  refine ⟨mode, ?_, ?_, ?_, regs⟩
  · have jobs : (t.part p).jobs = l := jobs
    unfold State.liveJobs
    rw [jobs, dead]
  · unfold State.seqs
    rw [entries]
    rfl
  · have keys : t.sec.memKeys = setFld s.sec.memKeys p p 0 := by
      dsimp only at sec
      rwa [ending_memKeys, ending_memKeys] at sec
    unfold bitAt
    rw [keys, getLsbD_setFld _ _ _ _ _ (by omega), if_pos ⟨Nat.le_refl p, Nat.le_refl p⟩]
    exact Nat.zero_testBit _

end

/-! ### A partition command is checked (13 R337) -/

section

variable {s : State} {fn : FnId} {p : Nat} {op : Nat} {f : State → Applied → State}

theorem ite_zero {c : Prop} [Decidable c] {x y : Nat} (hx : x ≠ 0) (h : (if c then x else y) = 0) : ¬ c ∧ y = 0 := by
  by_cases hc : c
  · rw [if_pos hc] at h
    exact absurd h hx
  · rw [if_neg hc] at h
    exact ⟨hc, h⟩

/-- With every other check passed, tables that do not fit are status 0x0A. -/
theorem partStatus_unfit {a : Applied} (hop : op ≠ 3) (h : s.partStatus p op a true = 0) : s.partStatus p op a false = 0x0A := by
  unfold State.partStatus at h ⊢
  dsimp only at h ⊢
  obtain ⟨h1, h⟩ := ite_zero (by decide) h
  rw [if_neg hop] at h
  obtain ⟨h2, h⟩ := ite_zero (by decide) h
  obtain ⟨h3, h⟩ := ite_zero (by decide) h
  obtain ⟨h4, h⟩ := ite_zero (by decide) h
  obtain ⟨h5, h⟩ := ite_zero (by decide) h
  obtain ⟨h6, h⟩ := ite_zero (by decide) h
  obtain ⟨h7, h⟩ := ite_zero (by decide) h
  obtain ⟨h8, h⟩ := ite_zero (by decide) h
  obtain ⟨h9, h⟩ := ite_zero (by decide) h
  rw [if_neg h1, if_neg hop, if_neg h2, if_neg h3, if_neg h4, if_neg h5, if_neg h6, if_neg h7, if_neg h8, if_neg h9]
  exact if_pos (by simp)

/-- Tables that do not fit refuse a command that is refused already. -/
theorem partStatus_refused {a : Applied} {b : Bool} (h : s.partStatus p op a true ≠ 0) : s.partStatus p op a b ≠ 0 := by
  cases b
  · intro none
    unfold State.partStatus at h none
    dsimp only at h none
    obtain ⟨h1, none⟩ := ite_zero (by decide) none
    rw [if_neg h1] at h
    by_cases hop : op = 3
    · rw [if_pos hop] at h none
      exact h none
    · rw [if_neg hop] at none
      obtain ⟨-, none⟩ := ite_zero (by decide) none
      obtain ⟨-, none⟩ := ite_zero (by decide) none
      obtain ⟨-, none⟩ := ite_zero (by decide) none
      obtain ⟨-, none⟩ := ite_zero (by decide) none
      obtain ⟨-, none⟩ := ite_zero (by decide) none
      obtain ⟨-, none⟩ := ite_zero (by decide) none
      obtain ⟨-, none⟩ := ite_zero (by decide) none
      obtain ⟨-, none⟩ := ite_zero (by decide) none
      obtain ⟨unfit, -⟩ := ite_zero (by decide) none
      simp at unfit
  · exact h

section

variable (idle : s.partCtl.busy = false) (up : s.firmwareUp = true)

include idle up

theorem partCommand_refused {st : Nat} (h : s.partStatus p op (s.readSlot p op).want (bitAt s.freeVal 0) = st) (refused : st ≠ 0) :
    s.partCommand 0 p op f = { (if st = 1 then s else s.useFree) with
      partCtl := { s.readSlot p op with busy := false, status := BitVec.ofNat 8 st } } := by
  unfold State.partCommand
  rw [if_neg (by simp [idle, up])]
  dsimp only
  rw [h]
  split
  · exact absurd rfl refused
  · rfl

theorem partCommand_accepted (h : s.partStatus p op (s.readSlot p op).want (bitAt s.freeVal 0) = 0) :
    s.partCommand 0 p op f = { (f (if op = 3 then s else s.useFree) (s.readSlot p op).want) with partCtl := s.readSlot p op } := by
  unfold State.partCommand
  rw [if_neg (by simp [idle, up])]
  dsimp only
  rw [h]
  rfl

end

end

end Sys2Proof.Proofs
end

section
/-! PROOF of SETUP, RECONFIGURE and RELEASE end (13 R338) -/

namespace Sys2Proof.Proofs

open Sys2Proof Sys2Proof.Machine Sys2Proof.Laws

/-! ### Which entries of a table are listed -/

section

variable {α : Type} [DecidableEq α] {d : Nat → α} {t : Tab α} {k n : Nat} {v r : α}

theorem mem_tab_set (h : (n, r) ∈ Tab.set d t k v) : (n, r) ∈ t ∨ n = k ∧ r = v := by
  induction t with
  | nil =>
    unfold Tab.set at h
    split at h
    · cases h
    · simpa using h
  | cons e t ih =>
    obtain ⟨j, w⟩ := e
    unfold Tab.set Tab.drop at h
    split_ifs at h with lt unlisted eq unlisted
    · obtain h | h := List.mem_cons.mp h
      · exact .inl (h ▸ List.mem_cons_self)
      · exact .inl (List.mem_cons_of_mem _ (List.mem_filter.mp h).1)
    · obtain h | h := List.mem_cons.mp h
      · exact .inr (by simpa using h)
      · exact .inl h
    · exact .inl (List.mem_cons_of_mem _ (List.mem_filter.mp h).1)
    · obtain h | h := List.mem_cons.mp h
      · exact .inr (by simpa using h)
      · exact .inl (List.mem_cons_of_mem _ h)
    · obtain h | h := List.mem_cons.mp h
      · exact .inl (h ▸ List.mem_cons_self)
      · exact (ih h).imp_left (List.mem_cons_of_mem _)

theorem tab_set_mem_ne (hn : n ≠ k) (h : (n, r) ∈ t) : (n, r) ∈ Tab.set d t k v := by
  induction t with
  | nil => cases h
  | cons e t ih =>
    obtain ⟨j, w⟩ := e
    have dropped (l : Tab α) (hl : (n, r) ∈ l) : (n, r) ∈ Tab.drop k l := List.mem_filter.mpr ⟨hl, by simpa using hn⟩
    unfold Tab.set
    split_ifs with lt unlisted eq unlisted
    · exact (List.mem_cons.mp h).elim (fun h => h ▸ List.mem_cons_self) fun h => List.mem_cons_of_mem _ (dropped t h)
    · exact List.mem_cons_of_mem _ h
    · have other := dropped _ h
      unfold Tab.drop at other ⊢
      simpa [eq, hn] using other
    · refine List.mem_cons_of_mem _ ((List.mem_cons.mp h).resolve_left fun h => hn ?_)
      rw [eq]
      exact congrArg Prod.fst h
    · exact (List.mem_cons.mp h).elim (fun h => h ▸ List.mem_cons_self) fun h => List.mem_cons_of_mem _ (ih h)

theorem tab_set_mem_same (hv : v ≠ d k) :
    (k, v) ∈ Tab.set d t k v ∧ ((k, r) ∈ t → (k, r) ∈ Tab.set d t k v ∨ r = Tab.get d t k) := by
  induction t with
  | nil =>
    unfold Tab.set
    rw [if_neg hv]
    exact ⟨List.mem_cons_self, fun h => absurd h (by simp)⟩
  | cons e t ih =>
    obtain ⟨j, w⟩ := e
    obtain ⟨new, old⟩ := ih
    unfold Tab.set Tab.get
    split_ifs with lt eq
    · exact ⟨List.mem_cons_self, fun h => .inl (List.mem_cons_of_mem _ h)⟩
    · exact ⟨List.mem_cons_self, fun h => .inl (List.mem_cons_of_mem _ h)⟩
    · exact ⟨List.mem_cons_self, fun h => (List.mem_cons.mp h).elim (fun h => .inr (congrArg Prod.snd h)) fun h => .inl (List.mem_cons_of_mem _ h)⟩
    · refine ⟨List.mem_cons_of_mem _ new, fun h => (List.mem_cons.mp h).elim (fun h => .inl (h ▸ List.mem_cons_self)) fun h => ?_⟩
      exact (old h).imp_left (List.mem_cons_of_mem _)

omit [DecidableEq α] in
theorem tab_get_mem (h : Tab.get d t k ≠ d k) : (k, Tab.get d t k) ∈ t := by
  induction t with
  | nil => exact absurd rfl h
  | cons e t ih =>
    obtain ⟨j, w⟩ := e
    unfold Tab.get at h ⊢
    split_ifs at h ⊢ with eq
    · rw [eq]
      exact List.mem_cons_self
    · exact List.mem_cons_of_mem _ (ih h)

end

/-! ### Firmware's regions while shares are left (13 R338) -/

/-- A region of firmware's, of partition p. -/
def fwOf (p : Nat) (r : Region) : Bool := r.valid && r.fwOwned && r.owner == p

section

variable {s t : State} {p : Nat}

theorem mem_fwRegions {n : Nat} : n ∈ s.fwRegions p ↔ ∃ r, (n, r) ∈ s.memory.regions ∧ fwOf p r = true := by
  unfold State.fwRegions
  rw [List.mem_filterMap]
  constructor
  · rintro ⟨⟨k, r⟩, hm, h⟩
    split at h
    next own =>
      obtain rfl := Option.some.inj h
      exact ⟨r, hm, own⟩
    · cases h
  · rintro ⟨r, hm, own⟩
    exact ⟨(n, r), hm, if_pos own⟩

/-- The regions' states stand, and the entries of firmware's that are in use. -/
structure FwStand (p : Nat) (s t : State) : Prop where
  st : ∀ n, (t.region n).st = (s.region n).st
  listed : ∀ n, n ∈ t.fwRegions p → n ∈ s.fwRegions p
  kept : ∀ n, n ∈ s.fwRegions p → (s.region n).st ≠ 0 → n ∈ t.fwRegions p

theorem fwStand_memory (h : t.memory = s.memory) : FwStand p s t :=
  ⟨fun n => by rw [region_congr h], fun n hn => by rwa [fwRegions_congr h] at hn, fun n hn _ => by rwa [fwRegions_congr h]⟩

theorem fwStand_trans {u : State} (h : FwStand p s t) (g : FwStand p t u) : FwStand p s u :=
  ⟨fun n => (g.st n).trans (h.st n), fun n hn => h.listed n (g.listed n hn), fun n hn st => g.kept n (h.kept n hn st) (by rwa [h.st n])⟩

theorem fwStand_modRegion (k : Nat) {f : Region → Region} (hs : ∀ r, (f r).st = r.st) (hf : ∀ r, fwOf p (f r) = fwOf p r) :
    FwStand p s (s.modRegion k f) := by
  refine ⟨fun n => ?_, fun n hn => ?_, fun n hn st => ?_⟩
  · by_cases e : n = k
    · rw [e, modRegion_region_same, hs]
    · rw [modRegion_region_ne _ _ _ _ e]
  · obtain ⟨r, hr, own⟩ := mem_fwRegions.mp hn
    obtain hr | ⟨rfl, rfl⟩ := mem_tab_set hr
    · exact mem_fwRegions.mpr ⟨r, hr, own⟩
    · rw [hf] at own
      refine mem_fwRegions.mpr ⟨_, tab_get_mem fun reset => ?_, own⟩
      rw [reset] at own
      simp [fwOf, Region.valid, Region.reset, bitAt] at own
  · obtain ⟨r, hr, own⟩ := mem_fwRegions.mp hn
    by_cases e : n = k
    · subst e
      have used : f (s.region n) ≠ Region.reset := fun reset => by
        have unused := hs (s.region n)
        rw [reset] at unused
        exact st (unused.symm.trans rfl)
      obtain ⟨new, old⟩ := tab_set_mem_same (t := s.memory.regions) (r := r) (d := fun _ => Region.reset) used
      obtain kept | same := old hr
      · exact mem_fwRegions.mpr ⟨r, kept, own⟩
      · refine mem_fwRegions.mpr ⟨_, new, (hf _).trans ?_⟩
        rw [same] at own
        exact own
    · exact mem_fwRegions.mpr ⟨r, tab_set_mem_ne e hr, own⟩

theorem fwStand_leaveShares : FwStand p s (s.leaveShares p) := by
  refine List.foldlRecOn (motive := FwStand p s) _ _ (fwStand_memory rfl) fun t h e _ => ?_
  split
  next shared =>
    have within : p < 8 := by
      by_contra far
      have high : e.2.shareMask.testBit p = false :=
        Nat.testBit_lt_two_pow (lt_of_lt_of_le (fld_lt e.2.w0 23 16) (Nat.pow_le_pow_right (by omega) (by omega)))
      simp [high] at shared
    have invalid : (t.invalidate e.2 p).memory = t.memory := (only_invalidate (within_refl _) e.2 p (only_refl _ t)).same .memory (by simp)
    refine fwStand_trans h (fwStand_trans (fwStand_memory invalid) (fwStand_modRegion _ (fun r => ?_) fun r => ?_))
    · exact fld_setFld_ne _ _ (by omega) (by omega)
    · have valid : ({ r with w0 := setFld r.w0 (16 + p) (16 + p) 0 } : Region).valid = r.valid :=
        (getLsbD_setFld _ _ _ _ _ (by omega)).trans (if_neg (by omega))
      have firmware : ({ r with w0 := setFld r.w0 (16 + p) (16 + p) 0 } : Region).fwOwned = r.fwOwned :=
        (getLsbD_setFld _ _ _ _ _ (by omega)).trans (if_neg (by omega))
      have owner : ({ r with w0 := setFld r.w0 (16 + p) (16 + p) 0 } : Region).owner = r.owner := fld_setFld_ne _ _ (by omega) (by omega)
      unfold fwOf
      rw [valid, firmware, owner]
  · exact h

/-- Firmware's regions are ready once the shares are left and what was being created is blank. -/
theorem ready_regions {u : State} (h : FwStand p s t) (ready : u.memory = (t.readyFw p).memory) :
    (∀ n, n ∈ s.fwRegions p → (s.region n).st = 1 → (u.region n).st = 2) ∧ (∀ n, n ∉ s.fwRegions p → (u.region n).st = (s.region n).st) := by
  obtain ⟨made, others⟩ := readyFw_regions (s := t) p
  refine ⟨fun n hn st => ?_, fun n hn => ?_⟩
  · rw [region_congr ready]
    exact made n (h.kept n hn (by omega)) ((h.st n).trans st)
  · rw [region_congr ready, others n fun hm => hn (h.listed n hm)]
    exact h.st n

/-! ### SETUP and RECONFIGURE end (13 R338) -/

/-- The clusters that failed the test of a SETUP or RECONFIGURE are marked (20 R467). -/
def clustersTested (s : State) (failing : List Nat) (p : Nat) : State := (failing.filter (s.partClusters p).contains).foldl State.markCluster s

theorem clustersTested_only (failing : List Nat) (p : Nat) : Only [.clusters, .sec, .spares] s (clustersTested s failing p) :=
  only_foldl _ (only_refl _ s) fun _ c h => only_markCluster (within_refl _) c h

/-- What a confidential slot held is gone, and it has left every share (13 R338; 16 R393). -/
def setupCleared (s : State) (p : Nat) : State := if (s.part p).applied.confidential then (s.blankGroups p).leaveShares p else s

/-- The slot's keys are made and firmware's regions are ready. -/
def setupReady (s : State) (p : Nat) : State :=
  (if (s.part p).applied.confidential then (setupCleared s p).newPair p else setupCleared s p).readyFw p

/-- The slot at step 0. -/
def setupPart (s : State) (x : Part) : Part :=
  { Part.reset with
    mode := .ready, feat := x.feat, cause := x.cause, applied := x.applied, jobs := x.jobs, nextJob := x.nextJob, sliceAt := s.time.now,
    slice := fld s.partCtl.cfg 29 20, tensors := x.tensors }

theorem finishSetup_eq : s.finishSetup p = ((((setupReady s p).modPart p (setupPart s)).newPoste p).startMarks p).takeBudgets p := rfl

theorem setupCleared_only : Only [.out, .unsent, .mem, .memory, .parts, .fns, .buckets] s (setupCleared s p) := by
  unfold setupCleared
  split
  · exact only_leaveShares (within_sub (by decide) (within_refl _)) p (only_blankGroups (within_sub (by decide) (within_refl _)) p (only_refl _ s))
  · exact only_refl _ s

theorem setupCleared_applied : ((setupCleared s p).part p).applied = (s.part p).applied := by
  unfold setupCleared
  split
  · have left := congrArg Outline.applied (outline_leaveShares (s := s.blankGroups p) p p)
    exact left
  · rfl

theorem setupCleared_fwStand : FwStand p s (setupCleared s p) := by
  unfold setupCleared
  split
  · exact fwStand_trans (fwStand_memory (t := s.blankGroups p) rfl) fwStand_leaveShares
  · exact fwStand_memory rfl

/-- The pair of keys before the regions are ready. -/
theorem setupReady_keyed : ∃ t, Only [.free, .sec] (setupCleared s p) t ∧ setupReady s p = t.readyFw p := by
  unfold setupReady
  split
  · exact ⟨_, only_newPair (within_refl _) p (only_refl _ _), rfl⟩
  · exact ⟨_, only_refl _ _, rfl⟩

theorem readyFw_only : Only [.mem, .memory] s (s.readyFw p) := only_readyFw (within_refl _) p (only_refl _ s)

theorem setupReady_facts : ((setupReady s p).part p).applied = (s.part p).applied ∧
    (∀ u : State, u.memory = (setupReady s p).memory → (∀ n, n ∈ s.fwRegions p → (s.region n).st = 1 → (u.region n).st = 2) ∧
      (∀ n, n ∉ s.fwRegions p → (u.region n).st = (s.region n).st)) := by
  obtain ⟨t, keyed, ready⟩ := setupReady_keyed (s := s) (p := p)
  rw [ready]
  refine ⟨?_, fun u hu => ?_⟩
  · have parts : (t.readyFw p).parts = (setupCleared s p).parts := (readyFw_only.same .parts (by simp)).trans (keyed.same .parts (by simp))
    rw [part_of_parts parts, setupCleared_applied]
  · exact ready_regions (fwStand_trans setupCleared_fwStand (fwStand_memory (keyed.same .memory (by simp)))) hu

/-- The keys, the marks of time and the budgets of a slot that begins. -/
theorem slotBegins_part (u : State) : ∃ r : Round, ((((u.newPoste p).startMarks p).takeBudgets p).part p) = { u.part p with round := r } ∧
    r.entries = (u.round p).entries ∧ r.ledger = (u.round p).ledger ∧ r.prefixes = (u.round p).prefixes ∧ r.step = (u.round p).step ∧
    r.pr.keyMade = true := by
  have marked : ((u.newPoste p).startMarks p).parts = (u.newPoste p).parts := rfl
  have keyed : (u.newPoste p).part p = { u.part p with round := { u.round p with
      pr := { keyMade := true, key := u.free, counter := 0, used := [] } } } := by
    unfold State.newPoste State.modRound
    rw [modPart_part_same]
    rfl
  unfold State.takeBudgets State.modRound
  rw [modPart_part_same, part_of_parts marked, keyed]
  exact ⟨_, rfl, rfl, rfl, rfl, rfl, rfl⟩

theorem finishSetup_facts : ((s.finishSetup p).part p).mode = .ready ∧ ((s.finishSetup p).part p).applied = (s.part p).applied ∧
    ((s.finishSetup p).round p).entries = [] ∧ ((s.finishSetup p).round p).ledger = [] ∧ ((s.finishSetup p).round p).prefixes = [] ∧
    ((s.finishSetup p).round p).step = 0 ∧ ((s.finishSetup p).part p).sliceAt = s.time.now ∧ ((s.finishSetup p).round p).pr.keyMade = true := by
  obtain ⟨applied, -⟩ := setupReady_facts (s := s) (p := p)
  obtain ⟨r, part, entries, ledger, prefixes, step, key⟩ := slotBegins_part (p := p) ((setupReady s p).modPart p (setupPart s))
  unfold State.round at entries ledger prefixes step ⊢
  rw [finishSetup_eq, part]
  rw [modPart_part_same] at entries ledger prefixes step ⊢
  exact ⟨rfl, applied, entries, ledger, prefixes, step, rfl, key⟩

theorem finishSetup_regions : (∀ n, n ∈ s.fwRegions p → (s.region n).st = 1 → ((s.finishSetup p).region n).st = 2) ∧
    (∀ n, n ∉ s.fwRegions p → ((s.finishSetup p).region n).st = (s.region n).st) := by
  have last : Only [.free, .parts, .time] (setupReady s p) (s.finishSetup p) := by
    rw [finishSetup_eq]
    exact only_takeBudgets (within_sub (by decide) (within_refl _)) p (only_startMarks (within_sub (by decide) (within_refl _)) p
      (only_newPoste (within_sub (by decide) (within_refl _)) p (only_modPart (within_sub (by decide) (within_refl _)) p _ (only_refl _ _))))
  exact setupReady_facts.2 _ (last.same .memory (by simp))

theorem finishReconfigure_ready (h : (s.part p).mode ≠ .lost) : s.finishReconfigure p = s.readyFw p := by
  have parts : (s.readyFw p).parts = s.parts := readyFw_only.same .parts (by simp)
  exact if_neg (by rwa [part_of_parts parts])

theorem finishReconfigure_lost (h : (s.part p).mode = .lost) : s.finishReconfigure p =
    (((s.readyFw p).modPart p (fun x => { x with mode := .ready })).newPoste p).startMarks p := by
  have parts : (s.readyFw p).parts = s.parts := readyFw_only.same .parts (by simp)
  exact if_pos (by rwa [part_of_parts parts])

theorem finishReconfigure_only : Only [.free, .parts, .time] (s.readyFw p) (s.finishReconfigure p) := by
  by_cases h : (s.part p).mode = .lost
  · rw [finishReconfigure_lost h]
    exact only_startMarks (within_sub (by decide) (within_refl _)) p (only_newPoste (within_sub (by decide) (within_refl _)) p
      (only_modPart (within_sub (by decide) (within_refl _)) p _ (only_refl _ _)))
  · rw [finishReconfigure_ready h]
    exact only_refl _ _

theorem finishReconfigure_memory : ((∀ n, n ∈ s.fwRegions p → (s.region n).st = 1 → ((s.finishReconfigure p).region n).st = 2) ∧
    (∀ n, n ∉ s.fwRegions p → ((s.finishReconfigure p).region n).st = (s.region n).st)) ∧
    ∀ a, (∀ n, n ∈ s.fwRegions p → (s.region n).st = 1 → covers (s.region n) (a / 72) = false) →
      Tab.get blankByte (s.finishReconfigure p).mem a = Tab.get blankByte s.mem a := by
  refine ⟨ready_regions (fwStand_memory rfl) (finishReconfigure_only.same .memory (by simp)), fun a ha => ?_⟩
  have stored : (s.finishReconfigure p).mem = (s.readyFw p).mem := finishReconfigure_only.same .mem (by simp)
  rw [stored]
  refine (blanksWithin_readyFw p).bytes a fun n hn => ?_
  obtain ⟨own, st⟩ := List.mem_filter.mp hn
  exact ha n own (by simpa using st)

/-- A lost slot is ready again, with a new key (13 R338). -/
theorem finishReconfigure_found (h : (s.part p).mode = .lost) : ((s.finishReconfigure p).part p).mode = .ready ∧
    ((s.finishReconfigure p).part p).applied = (s.part p).applied ∧ ((s.finishReconfigure p).round p).step = (s.round p).step ∧
    ((s.finishReconfigure p).round p).pr.keyMade = true := by
  have parts : (s.readyFw p).parts = s.parts := readyFw_only.same .parts (by simp)
  rw [finishReconfigure_lost h]
  unfold State.round
  rw [show ∀ u : State, (u.startMarks p).part p = u.part p from fun _ => rfl]
  unfold State.newPoste State.modRound
  rw [modPart_part_same, show ∀ u : State, u.useFree.part p = u.part p from fun _ => rfl, modPart_part_same, part_of_parts parts]
  exact ⟨rfl, rfl, rfl, rfl⟩

/-! ### RELEASE ends (13 R338; 16 R408) -/

theorem finishRelease_facts : ((s.finishRelease p).part p).mode = .empty ∧ (s.finishRelease p).liveJobs p = [] ∧
    ((s.finishRelease p).round p).entries = [] ∧ (s.finishRelease p).regs = s.regs ∧
    (s.finishRelease p).sec.terminating = s.sec.terminating := by
  have emptied (t : State) : ((t.emptyPart p).part p).mode = .empty ∧ (t.emptyPart p).liveJobs p = [] ∧ ((t.emptyPart p).round p).entries = [] := by
    unfold State.emptyPart State.liveJobs State.round
    rw [modPart_part_same]
    refine ⟨rfl, ?_, rfl⟩
    dsimp only
    rw [List.filter_filter]
    exact List.filter_eq_nil_iff.mpr fun j _ => by simp
  have whole := only_finishRelease (within_refl _) p (only_refl _ s)
  have terminating := secKept_terminating (secKept_finishRelease (s₀ := s) p rfl)
  have fields : ∃ t, s.finishRelease p = State.emptyPart t p := ⟨_, rfl⟩
  obtain ⟨t, ht⟩ := fields
  obtain ⟨mode, jobs, entries⟩ := emptied t
  refine ⟨?_, ?_, ?_, whole.same .regs (by simp), terminating⟩
  · rw [ht]
    exact mode
  · rw [ht]
    exact jobs
  · rw [ht]
    exact entries

end

end Sys2Proof.Proofs
end

section
/-! PROOF of partition commands (13 R336 to R338) -/

namespace Sys2Proof.Proofs

open Sys2Proof Sys2Proof.Machine Sys2Proof.Laws

/-! ### Partition commands, from check to end (13 R336 to R338) -/

section

variable {s : State} {p op : Nat}

/-- A command that ended at once with a status, and changed nothing else but free choices. -/
def CommandEnded (s t : State) (code : Nat) : Prop := t.partCtl.busy = false ∧ t.partCtl.status = BitVec.ofNat 8 code ∧ t.parts = s.parts ∧
  t.clusters = s.clusters ∧ t.regs = s.regs ∧ t.mem = s.mem ∧ t.memory = s.memory ∧ t.out = s.out

/-- What the registers of a slot leave once they apply. -/
def SlotAssigned (s t : State) (p op : Nat) : Prop := t.partCtl = s.readSlot p op ∧ (t.part p).applied = (s.readSlot p op).want ∧
  (∀ c, c ∈ t.partClusters p → (t.cluster c).cache = []) ∧ (t.part p).feat = t.featPartNow p ∧
  (∀ sh, sh < 48 → bitAt (s.readSlot p op).want.shares sh = true → bitAt (s.part p).applied.shares sh = false →
    ∀ c, c ∈ t.shareClusters sh → (t.cluster c).arch.sp = []) ∧
  (∀ k, k ≠ p → t.part k = s.part k) ∧ t.regs = s.regs ∧ t.engines = s.engines ∧
  (∀ a, (∀ n, n ∈ s.fwRegions p → covers (s.region n) (a / 72) = false) → Tab.get blankByte t.mem a = Tab.get blankByte s.mem a)

theorem slot_kept {t u : State} {c : PartCtl} (h : t = { u with partCtl := c }) (k : Nat) : t.part k = u.part k := by
  rw [h]
  rfl

/-- The registers have applied, and the slot's state is m. -/
structure SlotApplied (s v : State) (p op : Nat) : Prop where
  applied : (v.part p).applied = (s.readSlot p op).want
  others : ∀ k, k ≠ p → v.part k = s.part k
  caches : ∀ c, c ∈ v.partClusters p → (v.cluster c).cache = []
  feat : (v.part p).feat = v.featPartNow p
  scratch : ∀ sh, sh < 48 → bitAt (s.readSlot p op).want.shares sh = true → bitAt (s.part p).applied.shares sh = false →
    ∀ c, c ∈ v.shareClusters sh → (v.cluster c).arch.sp = []
  bytes : ∀ a, (∀ n, n ∈ s.fwRegions p → covers (s.region n) (a / 72) = false) → Tab.get blankByte v.mem a = Tab.get blankByte s.mem a
  regs : v.regs = s.regs
  engines : v.engines = s.engines

theorem slotApplied : SlotApplied s (s.useFree.applyPart p (s.readSlot p op).want) p op := by
  obtain ⟨part, rest⟩ := applyPart_part (s := s.useFree) p (s.readSlot p op).want
  obtain ⟨feat, caches, scratch⟩ := applyPart_units (s := s.useFree) p (s.readSlot p op).want
  obtain ⟨-, bytes⟩ := applyPart_memory (s := s.useFree) p (s.readSlot p op).want
  have whole : Only [.clusters, .quarters, .mem, .memory, .parts, .sec] s.useFree (s.useFree.applyPart p (s.readSlot p op).want) :=
    only_applyPart (within_refl _) p _ (only_refl _ _)
  exact ⟨by rw [part], rest, caches, feat, scratch, bytes, whole.same .regs (by simp), whole.same .engines (by simp)⟩

theorem SlotApplied.assigned {v u t : State} {m : PartMode} (h : SlotApplied s v p op) (hu : Only [.parts] v u)
    (mine : u.part p = { v.part p with mode := m }) (others : ∀ k, k ≠ p → u.part k = v.part k)
    (ht : t = { u with partCtl := s.readSlot p op }) : SlotAssigned s t p op := by
  have last : Only [.partCtl] u t := by
    rw [ht]
    exact only_set_partCtl (within_refl _) _ (only_refl _ u)
  have told : Only [.parts, .partCtl] v t := only_trans (only_widen (by decide) hu) (only_widen (by decide) last)
  have parts := slot_kept ht
  have units : UnitsStand v t := unitsStand_only told (by simp) (by simp)
  have shares : (t.part p).applied.shares = (v.part p).applied.shares := by rw [parts, mine]
  have clusters : t.clusters = v.clusters := told.same .clusters (by simp)
  have cluster (c : Nat) : t.cluster c = v.cluster c := by
    unfold State.cluster
    rw [clusters]
  have mem : t.mem = v.mem := told.same .mem (by simp)
  refine ⟨by rw [ht], ?_, fun c hc => ?_, ?_, fun sh hsh gained had c hc => ?_, fun k hk => ?_, (told.same .regs (by simp)).trans h.regs,
    (told.same .engines (by simp)).trans h.engines, fun a ha => ?_⟩
  · rw [parts, mine]
    exact h.applied
  · rw [cluster]
    exact h.caches c (by rwa [unitsStand_partClusters units shares] at hc)
  · rw [unitsStand_featPart units shares, parts, mine]
    exact h.feat
  · rw [cluster]
    exact h.scratch sh hsh gained had c (by rwa [unitsStand_shareClusters units] at hc)
  · rw [parts, others k hk]
    exact h.others k hk
  · rw [mem]
    exact h.bytes a ha

theorem SlotApplied.kept {v t : State} (h : SlotApplied s v p op) (ht : t = { v with partCtl := s.readSlot p op }) :
    SlotAssigned s t p op ∧ (t.part p).mode = (v.part p).mode :=
  ⟨h.assigned (m := (v.part p).mode) (only_refl _ v) rfl (fun _ _ => rfl) ht, congrArg Part.mode (slot_kept ht p)⟩

theorem SlotApplied.setting {v t : State} (h : SlotApplied s v p op)
    (ht : t = { v.modPart p (fun x => { x with mode := .settingUp }) with partCtl := s.readSlot p op }) :
    SlotAssigned s t p op ∧ (t.part p).mode = .settingUp ∧ ∀ n, t.region n = v.region n := by
  refine ⟨h.assigned (m := .settingUp) (only_modPart (within_refl _) p _ (only_refl _ v)) (modPart_part_same _ _ _)
    (fun k hk => modPart_part_ne _ _ _ k hk) ht, ?_, fun n => by rw [ht]; rfl⟩
  rw [slot_kept ht, modPart_part_same]

/-- A RELEASE asks for no tables. -/
theorem partStatus_release {a : Applied} (b : Bool) : s.partStatus p 3 a b = s.partStatus p 3 a true := by
  unfold State.partStatus
  dsimp only
  rw [if_pos (rfl : 3 = 3), if_pos (rfl : 3 = 3)]

section

variable (idle : s.partCtl.busy = false) (up : s.firmwareUp = true)

include idle up

theorem partOp_refused {st : Nat} (h : s.partStatus p op (s.readSlot p op).want (bitAt s.freeVal 0) = st) (refused : st ≠ 0) :
    CommandEnded s (s.partOp 0 p op) st := by
  have ended := partCommand_refused (f := fun t a => t.partAct p op a) idle up h refused
  unfold State.partOp
  rw [ended]
  split
  · exact ⟨rfl, rfl, rfl, rfl, rfl, rfl, rfl, rfl⟩
  · exact ⟨rfl, rfl, rfl, rfl, rfl, rfl, rfl, rfl⟩

theorem partOp_unfit (hop : op ≠ 3) (h : s.partStatus p op (s.readSlot p op).want true = 0) (unfit : bitAt s.freeVal 0 = false) :
    CommandEnded s (s.partOp 0 p op) 0x0A := by
  refine partOp_refused idle up ?_ (by decide)
  rw [unfit]
  exact partStatus_unfit hop h

theorem partOp_accepted (hop : op ≠ 3) (h : s.partStatus p op (s.readSlot p op).want true = 0) (fits : bitAt s.freeVal 0 = true) :
    s.partOp 0 p op = { (s.useFree.partAct p op (s.readSlot p op).want) with partCtl := s.readSlot p op } := by
  have accepted := partCommand_accepted (f := fun t a => t.partAct p op a) idle up (by rwa [fits])
  rw [if_neg hop] at accepted
  exact accepted

theorem setup_assigned (h : s.partStatus p 1 (s.readSlot p 1).want true = 0) (fits : bitAt s.freeVal 0 = true) :
    SlotAssigned s (s.partOp 0 p 1) p 1 ∧ ((s.partOp 0 p 1).part p).mode = .settingUp ∧
      (∀ rs, s.fwPlan p (s.readSlot p 1).want = some rs → ∀ e, e ∈ rs → (s.partOp 0 p 1).region e.1 = e.2) := by
  have accepted := partOp_accepted idle up (by decide) h fits
  have empty : (s.part p).mode ≠ .ready := fun ready => by
    unfold State.partStatus at h
    rw [if_pos (.inl ⟨rfl, by rw [ready]; decide⟩)] at h
    cases h
  obtain ⟨created, -⟩ := applyPart_memory (s := s.useFree) p (s.readSlot p 1).want
  have act : s.useFree.partAct p 1 (s.readSlot p 1).want =
      (s.useFree.applyPart p (s.readSlot p 1).want).modPart p (fun x => { x with mode := .settingUp }) := rfl
  rw [act] at accepted
  obtain ⟨slot, mode, regions⟩ := slotApplied.setting accepted
  exact ⟨slot, mode, fun rs plan e he => (regions e.1).trans (created rs plan empty e he)⟩

theorem reconfigure_assigned (h : s.partStatus p 2 (s.readSlot p 2).want true = 0) (fits : bitAt s.freeVal 0 = true) :
    SlotAssigned s (s.partOp 0 p 2) p 2 ∧ ((s.partOp 0 p 2).part p).mode = (s.part p).mode := by
  have accepted := partOp_accepted idle up (by decide) h fits
  have act : s.useFree.partAct p 2 (s.readSlot p 2).want = s.useFree.applyPart p (s.readSlot p 2).want := rfl
  rw [act] at accepted
  obtain ⟨slot, mode⟩ := slotApplied.kept accepted
  obtain ⟨part, -⟩ := applyPart_part (s := s.useFree) p (s.readSlot p 2).want
  refine ⟨slot, mode.trans ?_⟩
  rw [part]
  rfl

theorem partitionRelease_begins (hp : p < 8) (h : s.partStatus p 3 (s.readSlot p 3).want true = 0) :
    (s.partOp 0 p 3).partCtl = s.readSlot p 3 ∧ ((s.partOp 0 p 3).part p).mode = .releasing ∧ (s.partOp 0 p 3).liveJobs p = [] ∧
      (s.partOp 0 p 3).seqs p = [] ∧ bitAt (s.partOp 0 p 3).sec.memKeys p = false ∧ (s.partOp 0 p 3).regs = s.regs := by
  have free : s.partStatus p 3 (s.readSlot p 3).want (bitAt s.freeVal 0) = 0 := (partStatus_release _).trans h
  have accepted := partCommand_accepted (f := fun t a => t.partAct p 3 a) idle up free
  have act : s.partAct p 3 (s.readSlot p 3).want = s.beginRelease p := rfl
  rw [if_pos rfl, act] at accepted
  obtain ⟨mode, jobs, seqs, keys, regs⟩ := beginRelease_facts (s := s) (p := p) hp
  unfold State.partOp
  rw [accepted]
  generalize s.beginRelease p = t at mode jobs seqs keys regs ⊢
  exact ⟨rfl, mode, jobs, seqs, keys, regs⟩

end

/-! ### The ends -/

theorem exec_partitionCommandComplete_none {failing : List Nat} (h : s.partCtl.busy = false ∨ (s.partCtl.op = 3 ∧ s.quiet s.partCtl.partition = false)) :
    execPartitionCommandComplete failing s = .next s := by
  unfold execPartitionCommandComplete
  refine congrArg Host.Outcome.next (if_pos ?_)
  exact h.imp (fun h => by simp [h]) fun ⟨hop, moves⟩ => ⟨hop, .inl (by simp [moves])⟩

theorem exec_setupComplete {failing : List Nat} (busy : s.partCtl.busy = true) (hop : s.partCtl.op = 1) :
    ∃ t : State, t = (clustersTested s failing s.partCtl.partition).finishSetup s.partCtl.partition ∧
      execPartitionCommandComplete failing s = .next { t with partCtl := { t.partCtl with busy := false, status := 0 } } := by
  refine ⟨_, rfl, ?_⟩
  unfold execPartitionCommandComplete
  dsimp only
  rw [if_neg (by simp [busy, hop]), if_neg (by omega), hop]
  rfl

theorem exec_reconfigureComplete {failing : List Nat} (busy : s.partCtl.busy = true) (hop : s.partCtl.op = 2) :
    ∃ t : State, t = (clustersTested s failing s.partCtl.partition).finishReconfigure s.partCtl.partition ∧
      execPartitionCommandComplete failing s = .next { t with partCtl := { t.partCtl with busy := false, status := 0 } } := by
  refine ⟨_, rfl, ?_⟩
  unfold execPartitionCommandComplete
  dsimp only
  rw [if_neg (by simp [busy, hop]), if_neg (by omega), hop]
  rfl

theorem exec_releaseComplete {failing : List Nat} (busy : s.partCtl.busy = true) (hop : s.partCtl.op = 3)
    (still : s.quiet s.partCtl.partition = true) (alone : ∀ e, e ∈ s.sec.terminating → e.1 ≠ s.partCtl.partition) :
    ∃ t : State, t = s.finishRelease s.partCtl.partition ∧
      execPartitionCommandComplete failing s = .next { t with partCtl := { t.partCtl with busy := false, status := 0 } } := by
  refine ⟨_, rfl, ?_⟩
  have none : s.sec.terminating.any (fun e => e.1 == s.partCtl.partition) = false := by simpa using alone
  unfold execPartitionCommandComplete
  dsimp only
  rw [if_neg (by simp [busy, still, none]), if_pos hop, hop]
  rfl

/-- The end of a termination, before its records (16 R408, R412). -/
def terminationEnded (s : State) (p : Nat) : State :=
  let t := s.finishRelease p
  let t := { t with sec := { t.sec with terminating := t.sec.terminating.filter (fun x => x.1 != p) } }
  if t.partCtl.busy && t.partCtl.op == 3 && t.partCtl.partition == p then { t with partCtl := { t.partCtl with busy := false, status := 0 } } else t

theorem exec_terminationComplete {q : PartId} {cause : Nat} (h : s.sec.terminating.find? (fun e => e.1 == q.val) = some (q.val, cause))
    (still : s.quiet q.val = true) (stage : s.module.stage = 4) : execTerminationComplete q s =
    .next (((terminationEnded s q.val).postFatal 0 8 2 q.val cause).postFatal (q.val + 1) 8 2 q.val cause).openPort := by
  unfold execTerminationComplete
  rw [h]
  exact congrArg Host.Outcome.next (if_neg (by simp [still, stage]))

theorem openPort_terminating : s.openPort.sec.terminating = s.sec.terminating := by
  have answered (u : State) : u.answerWaiting.sec = { u.sec with waitingReports := [] } :=
    (only_foldl (L := [.out]) _ (only_refl _ { u with sec := { u.sec with waitingReports := [] } }) (fun t w h => by
      split
      · exact only_sendReport (within_refl _) _ _ h
      · exact h)).same .sec (by simp)
  have told (u : State) : (u.postFatalAll 8 1 0 0).sec = u.sec := (only_postFatalAll (within_refl _) 8 1 0 0 (only_refl _ u)).same .sec (by simp)
  unfold State.openPort
  split
  · rw [answered, told]
  · rfl

theorem terminationEnded_facts : ((terminationEnded s p).part p).mode = .empty ∧ (terminationEnded s p).liveJobs p = [] ∧
    ((terminationEnded s p).round p).entries = [] ∧ (terminationEnded s p).regs = s.regs ∧
    ∀ e, e ∈ (terminationEnded s p).sec.terminating → e.1 ≠ p := by
  obtain ⟨mode, jobs, entries, regs, -⟩ := finishRelease_facts (s := s) (p := p)
  unfold terminationEnded
  generalize s.finishRelease p = t at mode jobs entries regs ⊢
  dsimp only
  split
  all_goals
    refine ⟨mode, jobs, entries, regs, fun e he => ?_⟩
    simpa using (List.mem_filter.mp he).2

theorem terminationComplete_facts {q : PartId} {cause : Nat} (h : s.sec.terminating.find? (fun e => e.1 == q.val) = some (q.val, cause))
    (still : s.quiet q.val = true) (stage : s.module.stage = 4) : ∃ t, execTerminationComplete q s = .next t ∧
    (t.part q).mode = .empty ∧ t.liveJobs q = [] ∧ (t.round q).entries = [] ∧ (∀ e, e ∈ t.sec.terminating → e.1 ≠ q.val) ∧ t.regs = s.regs := by
  refine ⟨_, exec_terminationComplete h still stage, ?_⟩
  obtain ⟨mode, jobs, entries, regs, gone⟩ := terminationEnded_facts (s := s) (p := q.val)
  generalize terminationEnded s q.val = t at mode jobs entries regs gone ⊢
  have posted : Only [.out, .unsent, .fns, .buckets] t ((t.postFatal 0 8 2 q.val cause).postFatal (q.val + 1) 8 2 q.val cause) :=
    only_postFatal (within_refl _) _ _ _ _ _ (only_postFatal (within_refl _) _ _ _ _ _ (only_refl _ t))
  generalize (t.postFatal 0 8 2 q.val cause).postFatal (q.val + 1) 8 2 q.val cause = u at posted ⊢
  have opened : Only [.out, .unsent, .fns, .buckets, .sec] t u.openPort := only_openPort (within_refl _) (only_widen (by decide) posted)
  have part : u.openPort.part q.val = t.part q.val := part_of_parts (opened.same .parts (by simp)) q.val
  have sec : u.openPort.sec.terminating = t.sec.terminating := openPort_terminating.trans (congrArg Sec.terminating (posted.same .sec (by simp)))
  unfold State.liveJobs at jobs ⊢
  unfold State.round at entries ⊢
  rw [part, sec]
  exact ⟨mode, jobs, entries, gone, (opened.same .regs (by simp)).trans regs⟩

/-- The states of the slot's regions once firmware's are ready. -/
def RegionsReady (s t : State) (p : Nat) : Prop := (∀ n, n ∈ s.fwRegions p → (s.region n).st = 1 → (t.region n).st = 2) ∧
  (∀ n, n ∉ s.fwRegions p → (t.region n).st = (s.region n).st)

theorem setupComplete_facts (failing : List Nat) : ∃ t, t = (clustersTested s failing p).finishSetup p ∧ t.regs = s.regs ∧ RegionsReady s t p ∧
    (t.part p).mode = .ready ∧ (t.part p).applied = (s.part p).applied ∧ (t.round p).entries = [] ∧ (t.round p).ledger = [] ∧
    (t.round p).prefixes = [] ∧ (t.round p).step = 0 ∧ (t.part p).sliceAt = s.time.now ∧ (t.round p).pr.keyMade = true := by
  have tested := clustersTested_only (s := s) failing p
  have memory : (clustersTested s failing p).memory = s.memory := tested.same .memory (by simp)
  have parts : (clustersTested s failing p).parts = s.parts := tested.same .parts (by simp)
  have time : (clustersTested s failing p).time = s.time := tested.same .time (by simp)
  have regs : (clustersTested s failing p).regs = s.regs := tested.same .regs (by simp)
  obtain ⟨mode, applied, entries, ledger, prefixes, step, slice, key⟩ := finishSetup_facts (s := clustersTested s failing p) (p := p)
  obtain ⟨made, others⟩ := finishSetup_regions (s := clustersTested s failing p) (p := p)
  have whole := (only_finishSetup (within_refl _) p (only_refl _ (clustersTested s failing p))).same .regs (by simp)
  refine ⟨_, rfl, whole.trans regs, ⟨fun n hn st => made n ?_ ?_, fun n hn => (others n ?_).trans ?_⟩, mode, applied.trans ?_, entries, ledger, prefixes,
    step, slice.trans ?_, key⟩
  · rwa [fwRegions_congr memory]
  · rwa [region_congr memory]
  · rwa [fwRegions_congr memory]
  · rw [region_congr memory]
  · rw [part_of_parts parts]
  · rw [time]

theorem reconfigureComplete_facts (failing : List Nat) : ∃ t, t = (clustersTested s failing p).finishReconfigure p ∧ t.regs = s.regs ∧
    RegionsReady s t p ∧ (∀ a, (∀ n, n ∈ s.fwRegions p → (s.region n).st = 1 → covers (s.region n) (a / 72) = false) →
      Tab.get blankByte t.mem a = Tab.get blankByte s.mem a) ∧
    ((s.part p).mode ≠ .lost → t.part p = s.part p) ∧
    ((s.part p).mode = .lost → (t.part p).mode = .ready ∧ (t.part p).applied = (s.part p).applied ∧ (t.round p).step = (s.round p).step ∧
      (t.round p).pr.keyMade = true) := by
  have tested := clustersTested_only (s := s) failing p
  have memory : (clustersTested s failing p).memory = s.memory := tested.same .memory (by simp)
  have mem : (clustersTested s failing p).mem = s.mem := tested.same .mem (by simp)
  have parts : (clustersTested s failing p).parts = s.parts := tested.same .parts (by simp)
  have regs : (clustersTested s failing p).regs = s.regs := tested.same .regs (by simp)
  have part : (clustersTested s failing p).part p = s.part p := part_of_parts parts p
  obtain ⟨⟨made, others⟩, bytes⟩ := finishReconfigure_memory (s := clustersTested s failing p) (p := p)
  have whole := (only_finishReconfigure (within_refl _) p (only_refl _ (clustersTested s failing p))).same .regs (by simp)
  refine ⟨_, rfl, whole.trans regs, ⟨fun n hn st => made n ?_ ?_, fun n hn => (others n ?_).trans ?_⟩, fun a ha => (bytes a fun n hn st => ?_).trans ?_,
    fun mode => ?_, fun lost => ?_⟩
  · rwa [fwRegions_congr memory]
  · rwa [region_congr memory]
  · rwa [fwRegions_congr memory]
  · rw [region_congr memory]
  · rw [fwRegions_congr memory] at hn
    rw [region_congr memory] at st ⊢
    exact ha n hn st
  · rw [mem]
  · rw [finishReconfigure_ready (by rwa [part])]
    exact (part_of_parts (readyFw_only.same .parts (by simp)) p).trans part
  · have found := finishReconfigure_found (s := clustersTested s failing p) (p := p) (by rwa [part])
    unfold State.round at found ⊢
    rwa [part] at found

end

/-- Settles O37: a command is checked first, an accepted one applies the slot's registers or ends its work, and its completion makes the
slot ready or empty. -/
theorem partitionCommandsRunFromCheckToEnd : Obligations.PartitionCommandsRunFromCheckToEnd := by
  unfold Obligations.PartitionCommandsRunFromCheckToEnd
  refine ⟨fun fn p s hf idle up => ?_, fun s failing => ⟨fun h => completes_next (exec_partitionCommandComplete_none h) rfl, fun busy => ?_⟩,
    fun p s cause h still stage => ?_⟩
  · have setup : exec (.setup fn p) s = .next (s.partOp 0 p 1) := congrArg (fun k => Host.Outcome.next (s.partOp k p 1)) hf
    have reconfigure : exec (.reconfigure fn p) s = .next (s.partOp 0 p 2) := congrArg (fun k => Host.Outcome.next (s.partOp k p 2)) hf
    have release : exec (.partitionRelease fn p) s = .next (s.partOp 0 p 3) := congrArg (fun k => Host.Outcome.next (s.partOp k p 3)) hf
    refine ⟨fun h => completes_next setup ?_, fun h => completes_next reconfigure ?_, fun h => completes_next release ?_,
      fun h => completes_next setup ⟨fun unfit => ?_, fun fits => ?_⟩, fun h => completes_next reconfigure ⟨fun unfit => ?_, fun fits => ?_⟩,
      fun h => completes_next release ?_⟩
    · exact partOp_refused idle up rfl (partStatus_refused h)
    · exact partOp_refused idle up rfl (partStatus_refused h)
    · exact partOp_refused idle up rfl (partStatus_refused h)
    · exact partOp_unfit idle up (by decide) h unfit
    · exact setup_assigned idle up h fits
    · exact partOp_unfit idle up (by decide) h unfit
    · exact reconfigure_assigned idle up h fits
    · exact partitionRelease_begins idle up p.isLt h
  · refine ⟨fun hop => ?_, fun hop mode => ?_, fun hop lost => ?_, fun hop still alone => ?_⟩
    · obtain ⟨t, ht, run⟩ := exec_setupComplete (failing := failing) busy hop
      obtain ⟨u, hu, regs, regions, facts⟩ := setupComplete_facts (s := s) (p := s.partCtl.partition) failing
      obtain rfl : t = u := ht.trans hu.symm
      exact completes_next run ⟨⟨rfl, rfl, regs⟩, regions, facts⟩
    · obtain ⟨t, ht, run⟩ := exec_reconfigureComplete (failing := failing) busy hop
      obtain ⟨u, hu, regs, regions, bytes, stays, -⟩ := reconfigureComplete_facts (s := s) (p := s.partCtl.partition) failing
      obtain rfl : t = u := ht.trans hu.symm
      exact completes_next run ⟨⟨rfl, rfl, regs⟩, regions, bytes, stays mode⟩
    · obtain ⟨t, ht, run⟩ := exec_reconfigureComplete (failing := failing) busy hop
      obtain ⟨u, hu, regs, regions, bytes, -, found⟩ := reconfigureComplete_facts (s := s) (p := s.partCtl.partition) failing
      obtain rfl : t = u := ht.trans hu.symm
      exact completes_next run ⟨⟨rfl, rfl, regs⟩, regions, bytes, found lost⟩
    · obtain ⟨t, ht, run⟩ := exec_releaseComplete (failing := failing) busy hop still alone
      obtain ⟨mode, jobs, entries, regs, -⟩ := finishRelease_facts (s := s) (p := s.partCtl.partition)
      rw [← ht] at mode jobs entries regs
      exact completes_next run ⟨⟨rfl, rfl, regs⟩, mode, jobs, entries⟩
  · obtain ⟨t, run, facts⟩ := terminationComplete_facts h still stage
    exact completes_next run facts

end Sys2Proof.Proofs
end

section
/-! PROOF of lanes, trainings and sessions that come up (15 R374 to R377; 21 R481) -/

namespace Sys2Proof.Proofs

open Sys2Proof Sys2Proof.Machine Sys2Proof.Laws

/-! ### Lanes (21 R481) -/

section

variable {s t : State} {n : Nat}

/-- In a running module a lane is driven while its port trains. -/
theorem lane_training (run : s.module.electrical = .running) (test : (s.port n).test = none) (mode : (s.port n).mode = .training) (i : Nat) :
    s.lane n i = .driven := by
  simp [State.lane, run, test, mode]

theorem lane_up (run : s.module.electrical = .running) (test : (s.port n).test = none) (mode : (s.port n).mode = .up ∨ (s.port n).mode = .half) (i : Nat) :
    s.lane n i = if bitAt (s.port n).lanes i then .driven else .idle := by
  obtain mode | mode := mode <;> simp [State.lane, run, test, mode]

theorem lane_disabled (run : s.module.electrical = .running) (test : (s.port n).test = none) (mode : (s.port n).mode = .disabled) (i : Nat) :
    s.lane n i = .highZ := by
  simp [State.lane, run, test, mode]

theorem lane_failed (run : s.module.electrical = .running) (test : (s.port n).test = none) (mode : (s.port n).mode = .down)
    (on : s.portEnabled n = true) (lock : s.links.idLock = true) (failed : (s.port n).failures = 3) (i : Nat) : s.lane n i = .terminated := by
  have done : (s.port n).trainingDue = false := by simp [Port.trainingDue, failed]
  simp [State.lane, run, test, mode, on, lock, done]

/-! ### What a port's command leaves (15 R374) -/

/-- Only port n changes, and no packet more awaits its answer. -/
structure PortFrame (n : Nat) (s t : State) : Prop where
  sent : t.links.sent.length ≤ s.links.sent.length
  others : ∀ k, k ≠ n → t.port k = s.port k

theorem portFrame_refl : PortFrame n s s := ⟨Nat.le_refl _, fun _ _ => rfl⟩

theorem portFrame_trans {u : State} (h : PortFrame n s t) (g : PortFrame n t u) : PortFrame n s u :=
  ⟨g.sent.trans h.sent, fun k hk => (g.others k hk).trans (h.others k hk)⟩

theorem portFrame_modPort (f : Port → Port) : PortFrame n s (s.modPort n f) := ⟨Nat.le_refl _, fun k hk => modPort_port_ne _ _ _ k hk⟩

theorem portFrame_links (h : t.links = s.links) : PortFrame n s t :=
  ⟨by rw [h], fun k _ => by unfold State.port; rw [h]⟩

theorem portEnabled_congr (h : t.regs = s.regs) (k : Nat) : t.portEnabled k = s.portEnabled k := by
  unfold State.portEnabled State.reg
  rw [h]

/-! ### Training begins (15 R374, R377) -/

/-- The port as its training begins. -/
def inTraining (s : State) (x : Port) : Port :=
  { x with mode := .training, since := s.time.now, trainings := satAdd 65535 x.trainings 1, lanes := 0, markDue := none }

theorem startTraining_eq (lock : s.links.idLock = true) (on : s.portEnabled n = true) :
    s.startTraining n = (s.modPort n (inTraining s)).latch (28 + n) := if_neg (by simp [lock, on])

theorem startTraining_none (h : ¬ (s.links.idLock = true ∧ s.portEnabled n = true)) : s.startTraining n = s := by
  refine if_pos ?_
  rw [not_and_or, Bool.not_eq_true, Bool.not_eq_true] at h
  obtain h | h := h <;> simp [h]

theorem latch_pendingLine (k : Nat) : ((s.latch k).icLine k).pending = true := by
  unfold State.latch
  rw [modIcLine_icLine_same]

/-- What a training that begins leaves: the port from x on, its line, and everything else. -/
theorem startTraining_facts (lock : s.links.idLock = true) (on : s.portEnabled n = true) :
    (s.startTraining n).port n = inTraining s (s.port n) ∧ ((s.startTraining n).icLine (28 + n)).pending = true ∧
      PortFrame n s (s.startTraining n) ∧ (s.startTraining n).links.idLock = true := by
  rw [startTraining_eq lock on]
  refine ⟨?_, latch_pendingLine _, ?_, lock⟩
  · rw [latch_port, modPort_port_same]
  · exact portFrame_trans (portFrame_modPort _) (portFrame_links rfl)

/-- A port that trains, from a state in which only its failures and marks differ. -/
theorem trains_of_startTraining {u : State} (hu : Only [.links] s u) (frame : PortFrame n s u) (lock : u.links.idLock = true)
    (on : s.portEnabled n = true) (trainings : (u.port n).trainings = (s.port n).trainings) (test : (u.port n).test = (s.port n).test) :
    let t := u.startTraining n
    ((t.port n).mode = .training ∧ (t.port n).since = s.time.now ∧ (t.port n).trainings = satAdd 65535 (s.port n).trainings 1 ∧
      (t.port n).lanes = 0 ∧ (t.icLine (28 + n)).pending = true ∧
      (s.module.electrical = .running ∧ (s.port n).test = none → ∀ i, i < 5 → t.lane n i = .driven)) ∧
    (t.port n).failures = (u.port n).failures ∧ (t.port n).markDue = none ∧ PortFrame n s t ∧ Only [.intr, .links] s t := by
  intro t
  have enabled : u.portEnabled n = true := (portEnabled_congr (hu.same .regs (by simp)) n).trans on
  obtain ⟨port, line, after, -⟩ := startTraining_facts (s := u) (n := n) lock enabled
  have kept : Only [.intr, .links] s t := only_startTraining (within_refl _) n (only_widen (by decide) hu)
  have module : t.module = s.module := kept.same .module (by simp)
  have now : u.time = s.time := hu.same .time (by simp)
  have mine : t.port n = inTraining u (u.port n) := port
  refine ⟨⟨?_, ?_, ?_, ?_, line, fun ⟨run, untested⟩ i _ => lane_training ?_ ?_ ?_ i⟩, ?_, ?_, portFrame_trans frame after, kept⟩
  · rw [mine]; rfl
  · rw [mine, ← now]; rfl
  · rw [mine, ← trainings]; rfl
  · rw [mine]; rfl
  · rw [module, run]
  · rw [mine]
    exact test.trans untested
  · rw [mine]; rfl
  · rw [mine]; rfl
  · rw [mine]; rfl

/-! ### A port goes down (15 R376) -/

theorem portDown_facts (reason : Nat) : ((s.portDown n reason).port n) = { s.port n with mode := .down, reason := reason, lanes := 0 } ∧
    ((s.portDown n reason).icLine (28 + n)).pending = true ∧ PortFrame n s (s.portDown n reason) ∧
    (s.portDown n reason).links.idLock = s.links.idLock := by
  unfold State.portDown
  extract_lets t d u fns v
  have down : t.port n = { s.port n with mode := .down, reason := reason, lanes := 0 } := modPort_port_same _ _ _
  have told : Only [.out, .unsent, .fns, .buckets] u v := only_postTo (within_refl _) _ _ _ _ _ (only_refl _ u)
  have links : v.links = t.links := told.same .links (by simp)
  have line : (v.icLine (28 + n)).pending = true := by
    rw [icLine_congr (told.same .intr (by simp))]
    exact latch_pendingLine _
  have frame : PortFrame n s v := portFrame_trans (portFrame_modPort _) (portFrame_links links)
  have port : v.port n = t.port n := by
    unfold State.port
    rw [links]
  have lock : v.links.idLock = s.links.idLock := by rw [links]; rfl
  split
  · exact ⟨port.trans down, line, frame, lock⟩
  · exact ⟨port.trans down, line, ⟨frame.sent, frame.others⟩, lock⟩

/-! ### Sessions that come up again (15 R376, R383) -/

/-- A session but for what it has sent, and when it is tried again. -/
def calm (x : Session) : Session := { x with sendCounter := 0, retryAt := none }

/-- What the sending of waiting packets leaves of the links. -/
structure LinksFlushed (s t : State) : Prop where
  ports : t.links.ports = s.links.ports
  lock : t.links.idLock = s.links.idLock
  sent : t.links.sent.length ≤ s.links.sent.length
  session : ∀ k, calm (t.session k) = calm (s.session k)

theorem linksFlushed_refl : LinksFlushed s s := ⟨rfl, rfl, Nat.le_refl _, fun _ => rfl⟩

theorem linksFlushed_trans {u : State} (h : LinksFlushed s t) (g : LinksFlushed t u) : LinksFlushed s u :=
  ⟨g.ports.trans h.ports, g.lock.trans h.lock, g.sent.trans h.sent, fun k => (g.session k).trans (h.session k)⟩

theorem linksFlushed_sendFrame (port d typ lc lines tag addr : Nat) (payload : List Line) :
    LinksFlushed s (s.sendFrame port d typ lc lines tag addr payload) ∧ (s.sendFrame port d typ lc lines tag addr payload).links.sent = s.links.sent := by
  refine ⟨⟨rfl, rfl, Nat.le_refl _, fun k => ?_⟩, rfl⟩
  unfold State.sendFrame
  extract_lets c t
  have session : calm (t.session k) = calm (s.session k) := by
    by_cases e : k = d
    · rw [e, modSession_session_same]
      rfl
    · rw [modSession_session_ne _ _ _ _ e]
  exact session

theorem linksFlushed_flushWaiting (d : Nat) : LinksFlushed s (s.flushWaiting d) := by
  refine List.foldlRecOn (motive := LinksFlushed s) _ _ linksFlushed_refl fun t h w _ => ?_
  split
  · split
    next k _ =>
      obtain ⟨frame, sent⟩ := linksFlushed_sendFrame (s := t) k d w.typ (fld w.header 4 4) (fld w.header 10 8) w.tag.toNat (fld w.header 127 64) w.payload
      refine linksFlushed_trans h ⟨frame.ports, frame.lock, ?_, frame.session⟩
      dsimp only
      split
      · exact (List.length_filter_le _ _).trans frame.sent
      · rw [List.length_map]
        exact frame.sent
    · exact h
  · exact h

/-! ### Training ends (15 R374) -/

variable {p : PortId}

theorem exec_trainingComplete_none {passing : BitVec 5} (mode : (s.port p).mode = .training) (test : (s.port p).test = none) :
    execTrainingComplete p passing none s = .next (s.portDown p 3) := by
  unfold execTrainingComplete
  exact congrArg Host.Outcome.next (if_neg (by simp [mode, test]))

theorem exec_trainingComplete_failed {passing : BitVec 5} {d : BitVec 9} (mode : (s.port p).mode = .training) (test : (s.port p).test = none)
    (none : laneMap (passing &&& ~~~(s.port p).marked) = 0) : execTrainingComplete p passing (some d) s = .next (s.portDown p 1) := by
  unfold execTrainingComplete
  exact congrArg Host.Outcome.next ((if_neg (by simp [mode, test])).trans (if_pos none))

/-- The port as it comes up on a lane map. -/
def upPort (map : BitVec 5) (d : Nat) (x : Port) : Port :=
  { x with mode := if popcount 5 map.toNat = 4 then .up else .half, lanes := map, peer := d, failures := 0 }

/-- The port is up, and its peer is no longer out of reach. -/
def portUp (s : State) (n : Nat) (map : BitVec 5) (d : Nat) : State :=
  (((s.modPort n (upPort map d)).noteLanes n map).portLine n).modSession d (fun y => { y with portsDown := none })

/-- A session is begun where none is (15 R383). -/
def sessionBegun (s : State) (n d : Nat) : State :=
  if (s.session d).up = true ∨ (s.session d).stage ≠ 0 then s else s.startSession n d

theorem exec_trainingComplete {passing : BitVec 5} {d : BitVec 9} (mode : (s.port p).mode = .training) (test : (s.port p).test = none)
    (some' : laneMap (passing &&& ~~~(s.port p).marked) ≠ 0) : execTrainingComplete p passing (some d) s =
    .next (((sessionBegun (portUp s p (laneMap (passing &&& ~~~(s.port p).marked)) d.toNat) p d.toNat).post 0 7 1 p d.toNat).flushWaiting d.toNat) := by
  unfold execTrainingComplete
  exact congrArg Host.Outcome.next ((if_neg (by simp [mode, test])).trans (if_neg some'))

/-- The port that is up, its line, its session, and the others. -/
theorem portUp_facts {map : BitVec 5} {d : Nat} : (portUp s n map d).port n = upPort map d (s.port n) ∧
    ((portUp s n map d).icLine (28 + n)).pending = true ∧ PortFrame n s (portUp s n map d) ∧
    ((portUp s n map d).session d).portsDown = none ∧ ((portUp s n map d).session d).up = (s.session d).up ∧
    ((portUp s n map d).session d).stage = (s.session d).stage := by
  have noted : Only [.out, .unsent, .fns, .buckets, .sec, .spares] (s.modPort n (upPort map d)) ((s.modPort n (upPort map d)).noteLanes n map) :=
    only_noteLanes (within_refl _) n map (only_refl _ _)
  have links := noted.same .links (by simp)
  unfold portUp State.portLine
  generalize (s.modPort n (upPort map d)).noteLanes n map = u at links ⊢
  have session : u.session d = (s.modPort n (upPort map d)).session d := congrArg (fun l : Links => Tab.get (fun _ => Session.reset) l.sessions d) links
  rw [modPort_session] at session
  refine ⟨?_, latch_pendingLine _, portFrame_trans (portFrame_modPort (upPort map d)) ?_, ?_, ?_, ?_⟩
  · have port : u.port n = (s.modPort n (upPort map d)).port n := congrArg (fun l : Links => Tab.get (fun _ => Port.reset) l.ports n) links
    rw [modSession_port, latch_port, port, modPort_port_same]
  · have frame : PortFrame n (s.modPort n (upPort map d)) u := portFrame_links links
    exact ⟨frame.sent, frame.others⟩
  · rw [modSession_session_same]
  · rw [modSession_session_same, latch_session, session]
  · rw [modSession_session_same, latch_session, session]

theorem sessionBegun_facts {d : Nat} : (sessionBegun s n d).links.ports = s.links.ports ∧ (sessionBegun s n d).links.sent = s.links.sent ∧
    (sessionBegun s n d).intr = s.intr ∧ ((sessionBegun s n d).session d).portsDown = (s.session d).portsDown ∧
    ((sessionBegun s n d).session d).up = (s.session d).up ∧
    ((s.session d).up = false → (s.session d).stage = 0 → ((sessionBegun s n d).session d).stage = 1) := by
  unfold sessionBegun
  split
  next busy => exact ⟨rfl, rfl, rfl, rfl, rfl, fun up stage => by simp [up, stage] at busy⟩
  next free =>
    have session : (s.startSession n d).session d = { s.session d with stage := 1, retryAt := none } := modSession_session_same _ _ _
    refine ⟨rfl, rfl, rfl, ?_, ?_, fun _ _ => ?_⟩ <;> rw [session]

theorem trainingComplete_up {passing : BitVec 5} {d : BitVec 9} (mode : (s.port p).mode = .training) (test : (s.port p).test = none)
    (some' : laneMap (passing &&& ~~~(s.port p).marked) ≠ 0) : ∃ t, execTrainingComplete p passing (some d) s = .next t ∧
    t.port p = upPort (laneMap (passing &&& ~~~(s.port p).marked)) d.toNat (s.port p) ∧ (t.session d.toNat).portsDown = none ∧
    (t.session d.toNat).up = (s.session d.toNat).up ∧
    ((s.session d.toNat).up = false → (s.session d.toNat).stage = 0 → (t.session d.toNat).stage = 1) ∧ (t.icLine (28 + p)).pending = true ∧
    PortFrame p s t ∧ Only [.out, .unsent, .fns, .buckets, .intr, .links, .sec, .spares] s t := by
  refine ⟨_, exec_trainingComplete mode test some', ?_⟩
  generalize laneMap (passing &&& ~~~(s.port p).marked) = map
  obtain ⟨port, line, frame, downSince, up, stage⟩ := portUp_facts (s := s) (n := p) (map := map) (d := d.toNat)
  have first : Only [.out, .unsent, .fns, .buckets, .intr, .links, .sec, .spares] s (portUp s p map d.toNat) :=
    only_modSession (within_sub (by decide) (within_refl _)) _ _ (only_portLine (within_sub (by decide) (within_refl _)) _
      (only_noteLanes (within_sub (by decide) (within_refl _)) _ _ (only_modPort (within_sub (by decide) (within_refl _)) _ _ (only_refl _ s))))
  generalize portUp s p map d.toNat = u at port line frame downSince up stage first ⊢
  obtain ⟨ports, sent, intr, downSince', up', stage'⟩ := sessionBegun_facts (s := u) (n := p) (d := d.toNat)
  have second : Only [.out, .links] u (sessionBegun u p d.toNat) := by
    unfold sessionBegun
    split
    · exact only_refl _ u
    · exact only_startSession (within_refl _) _ _ (only_refl _ u)
  generalize sessionBegun u p d.toNat = v at ports sent intr downSince' up' stage' second ⊢
  have third : Only [.out, .unsent, .fns, .buckets] v (v.post 0 7 1 p d.toNat) := only_post (within_refl _) _ _ _ _ _ (only_refl _ v)
  generalize v.post 0 7 1 p d.toNat = w at third ⊢
  obtain ⟨ports', lock, sent', session⟩ := linksFlushed_flushWaiting (s := w) d.toNat
  have last : Only [.out, .links] w (w.flushWaiting d.toNat) := only_flushWaiting (within_refl _) _ (only_refl _ w)
  have links : w.links = v.links := third.same .links (by simp)
  have portOf (k : Nat) : (w.flushWaiting d.toNat).port k = u.port k :=
    congrArg (fun l => Tab.get (fun _ => Port.reset) l k) (ports'.trans ((congrArg Links.ports links).trans ports))
  have held : w.session d.toNat = v.session d.toNat := congrArg (fun l : Links => Tab.get (fun _ => Session.reset) l.sessions d.toNat) links
  have same := session d.toNat
  rw [held] at same
  have upKept := congrArg Session.up same
  have stageKept := congrArg Session.stage same
  have downKept := congrArg Session.portsDown same
  refine ⟨(portOf p).trans port, downKept.trans (downSince'.trans downSince), upKept.trans (up'.trans up), fun off idle => ?_, ?_,
    ⟨?_, fun k hk => (portOf k).trans (frame.others k hk)⟩, ?_⟩
  · exact stageKept.trans (stage' (up.trans off) (stage.trans idle))
  · have same : (w.flushWaiting d.toNat).intr = u.intr := (last.same .intr (by simp)).trans ((third.same .intr (by simp)).trans intr)
    rw [icLine_congr same]
    exact line
  · have length : w.links.sent.length = u.links.sent.length := by rw [links, sent]
    exact sent'.trans (length.le.trans frame.sent)
  · exact only_trans first (only_trans (only_widen (by decide) second) (only_trans (only_widen (by decide) third) (only_widen (by decide) last)))

/-! ### A port is disabled (15 R390, R391) -/

/-- EVENT 2 to the peer, where a session can carry it. -/
def peerTold (s : State) (n : Nat) : State :=
  if (s.port n).isUp && (s.session (s.port n).peer).ready then s.sendFrame n (s.port n).peer 9 1 0 0 2 [] else s

/-- The port has left service with reason 6. -/
def portLeft (s : State) (n : Nat) : State :=
  if (s.port n).mode = .down then (s.modPort n (fun x => { x with reason := 6 })).latch (28 + n) else s.portDown n 6

theorem peerTold_facts : LinksFlushed s (peerTold s n) ∧ (peerTold s n).regs = s.regs ∧ OutGrows s (peerTold s n) ∧ (peerTold s n).port n = s.port n ∧
    ((s.port n).isUp = true → (s.port n).peer < 512 → (s.session (s.port n).peer).ready = true →
      ∃ h, Output.frame n h [] ∈ (peerTold s n).out ∧ fld h 3 0 = 9 ∧ fld h 127 64 = 2) := by
  unfold peerTold
  split
  next told =>
    rw [Bool.and_eq_true] at told
    obtain ⟨frame, -⟩ := linksFlushed_sendFrame (s := s) n (s.port n).peer 9 1 0 0 2 []
    refine ⟨frame, rfl, List.prefix_append _ _, rfl, fun _ near ready => ⟨_, List.mem_append_right _ List.mem_cons_self, ?_, ?_⟩⟩
    all_goals
      have count : (s.session (s.port n).peer).sendCounter < 2 ^ 40 := by
        have both : (s.session (s.port n).peer).up = true ∧ (s.session (s.port n).peer).sendCounter < 2 ^ 40 := by simpa [Session.ready] using ready
        exact both.2
      have own := s.links.moduleId.isLt
      unfold frameHeader fld bitsOf at_
      rw [BitVec.toNat_ofNat]
      omega
  next silent => exact ⟨linksFlushed_refl, rfl, grows_refl, rfl, fun up _ ready => by simp [up, ready] at silent⟩

theorem disablePort_eq (h : (s.port n).mode ≠ .disabled) : s.disablePort n =
    (portLeft ((peerTold s n).setReg 0 (0x72000 + 0x20 * n) 0) n).modPort n (fun x => { x with mode := .disabled, markDue := none }) := by
  have port : ((peerTold s n).setReg 0 (0x72000 + 0x20 * n) 0).port n = s.port n := peerTold_facts.2.2.2.1
  unfold portLeft
  rw [port]
  exact if_neg h

theorem grows_portDown {s₀ : State} (reason : Nat) (h : OutGrows s₀ s) : OutGrows s₀ (s.portDown n reason) := by
  unfold State.portDown
  extract_lets t d u fns v
  have told : OutGrows s₀ v := grows_postTo _ _ _ _ _ h
  split
  · exact told
  · exact told

theorem portLeft_facts : ((portLeft s n).port n).reason = 6 ∧ ((portLeft s n).port n).test = (s.port n).test ∧
    ((portLeft s n).icLine (28 + n)).pending = true ∧ PortFrame n s (portLeft s n) ∧ OutGrows s (portLeft s n) ∧
    Only [.out, .unsent, .fns, .buckets, .intr, .links] s (portLeft s n) := by
  unfold portLeft
  split
  · refine ⟨?_, ?_, latch_pendingLine _, portFrame_trans (portFrame_modPort _) (portFrame_links rfl), grows_refl,
      only_latch (within_sub (by decide) (within_refl _)) _ (only_modPort (within_sub (by decide) (within_refl _)) _ _ (only_refl _ s))⟩
    · rw [latch_port, modPort_port_same]
    · rw [latch_port, modPort_port_same]
  · obtain ⟨port, line, frame, -⟩ := portDown_facts (s := s) (n := n) 6
    refine ⟨?_, ?_, line, frame, grows_portDown 6 grows_refl, only_portDown (within_refl _) n 6 (only_refl _ s)⟩
    · rw [port]
    · rw [port]

/-- A disabled port (15 R390, R391). -/
theorem disablePort_facts (h : (s.port n).mode ≠ .disabled) : ((s.disablePort n).port n).mode = .disabled ∧ ((s.disablePort n).port n).reason = 6 ∧
    ((s.disablePort n).port n).test = (s.port n).test ∧ ((s.disablePort n).icLine (28 + n)).pending = true ∧
    (s.disablePort n).reg 0 (0x72000 + 0x20 * n) = 0 ∧ PortFrame n s (s.disablePort n) ∧ OutGrows (peerTold s n) (s.disablePort n) := by
  obtain ⟨flushed, -, -, told, -⟩ := peerTold_facts (s := s) (n := n)
  rw [disablePort_eq h]
  have link : PortFrame n s ((peerTold s n).setReg 0 (0x72000 + 0x20 * n) 0) :=
    ⟨flushed.sent, fun k _ => congrArg (fun l => Tab.get (fun _ => Port.reset) l k) flushed.ports⟩
  have port : ((peerTold s n).setReg 0 (0x72000 + 0x20 * n) 0).port n = s.port n := told
  have word : ((peerTold s n).setReg 0 (0x72000 + 0x20 * n) 0).reg 0 (0x72000 + 0x20 * n) = 0 := setReg_reg_same ..
  have out : OutGrows (peerTold s n) ((peerTold s n).setReg 0 (0x72000 + 0x20 * n) 0) := List.prefix_rfl
  generalize (peerTold s n).setReg 0 (0x72000 + 0x20 * n) 0 = u at link port word out ⊢
  obtain ⟨reason, test, line, frame, grown, left⟩ := portLeft_facts (s := u) (n := n)
  have regs : (portLeft u n).regs = u.regs := left.same .regs (by simp)
  refine ⟨?_, ?_, ?_, line, ?_, portFrame_trans link (portFrame_trans frame (portFrame_modPort _)), grows_trans out grown⟩
  · rw [modPort_port_same]
  · rw [modPort_port_same]
    exact reason
  · rw [modPort_port_same, ← port]
    exact test
  · exact (congrArg (fun r => Tab.get regReset r (regKey 0 (0x72000 + 0x20 * n))) regs).trans word

/-! ### The module ID is locked (15 R377) -/

/-- The training of a cold reset. -/
def trainIdle (u : State) (n : Nat) : State := if (u.port n).mode = .down then u.startTraining n else u

theorem trainIdle_only (k : Nat) : Only [.intr, .links] s (trainIdle s k) := by
  unfold trainIdle
  split
  · exact only_startTraining (within_refl _) k (only_refl _ s)
  · exact only_refl _ s

theorem trainIdle_links (k : Nat) : (trainIdle s k).links.idLock = s.links.idLock ∧ (trainIdle s k).links.moduleId = s.links.moduleId := by
  unfold trainIdle State.startTraining
  split
  · split <;> exact ⟨rfl, rfl⟩
  · exact ⟨rfl, rfl⟩

theorem trainIdle_port (k : Nat) : (∀ i, i ≠ k → (trainIdle s k).port i = s.port i) ∧ ((s.port k).mode ≠ .down → (trainIdle s k).port k = s.port k) ∧
    ((s.port k).mode = .down → s.links.idLock = true → s.portEnabled k = true → ((trainIdle s k).port k).mode = .training) := by
  unfold trainIdle
  split
  next idle =>
    obtain ⟨-, training, others⟩ := startTraining_port (s := s) k
    exact ⟨others, fun busy => absurd idle busy, fun _ lock on => training lock on⟩
  next busy => exact ⟨fun _ _ => rfl, fun _ => rfl, fun idle => absurd idle busy⟩

/-- A fold of trainings: which ports train, and which stand. -/
theorem trainAll_facts (l : List Nat) (lock : s.links.idLock = true) : (l.foldl trainIdle s).links.idLock = true ∧
    (l.foldl trainIdle s).links.moduleId = s.links.moduleId ∧
    (∀ k, ((s.port k).mode = .training ∨ k ∈ l ∧ (s.port k).mode = .down ∧ s.portEnabled k = true) →
      ((l.foldl trainIdle s).port k).mode = .training) ∧
    (∀ k, (s.port k).mode ≠ .down → (l.foldl trainIdle s).port k = s.port k) ∧ Only [.intr, .links] s (l.foldl trainIdle s) := by
  induction l generalizing s with
  | nil => exact ⟨lock, rfl, fun k h => h.resolve_right (by simp), fun _ _ => rfl, only_refl _ s⟩
  | cons a l ih =>
    obtain ⟨lockA, idA⟩ := trainIdle_links (s := s) a
    obtain ⟨others, busy, trains⟩ := trainIdle_port (s := s) a
    obtain ⟨locked, id, training, stand, kept⟩ := ih (s := trainIdle s a) (lockA.trans lock)
    have on (k : Nat) : (trainIdle s a).portEnabled k = s.portEnabled k := portEnabled_congr ((trainIdle_only a).same .regs (by simp)) k
    have mode (k : Nat) (h : (s.port k).mode ≠ .down) : (trainIdle s a).port k = s.port k := by
      by_cases e : k = a
      · rw [e]
        exact busy (e ▸ h)
      · exact others k e
    refine ⟨locked, id.trans idA, fun k h => training k ?_, fun k h => ?_, only_trans (trainIdle_only a) kept⟩
    · obtain h | ⟨hm, idle, enabled⟩ := h
      · exact .inl (by rw [mode k (by rw [h]; decide), h])
      · by_cases e : k = a
        · subst e
          exact .inl (trains idle lock enabled)
        · exact .inr ⟨(List.mem_cons.mp hm).resolve_left e, by rw [others k e, idle], (on k).trans enabled⟩
    · have same := mode k h
      exact (stand k (by rwa [same])).trans same

theorem lockId_locked (id : BitVec 9) (h : s.links.idLock = true) : s.lockId id = s := if_pos h

theorem lockId_eq (id : BitVec 9) (h : s.links.idLock = false) :
    s.lockId id = (List.range 16).foldl trainIdle { s with links := { s.links with moduleId := id, idLock := true } } := if_neg (by simp [h])

end

end Sys2Proof.Proofs
end

section
/-! PROOF of the commands of the ports (15 R374 to R377, R390, R391) -/

namespace Sys2Proof.Proofs

open Sys2Proof Sys2Proof.Machine Sys2Proof.Laws

/-! ### The commands of the ports (15 R374 to R377, R390, R391) -/

section

variable {s t : State} {p : PortId} {fn : FnId}

/-- What a port's command leaves of the module. -/
theorem frame_of_only {L : List Fld} {n : Nat} (h : Only L s t) (hm : Fld.mem ∉ L) (hc : Fld.clusters ∉ L) (frame : PortFrame n s t) :
    t.mem = s.mem ∧ t.clusters = s.clusters ∧ t.links.sent.length ≤ s.links.sent.length ∧ ∀ k, k ≠ n → t.port k = s.port k :=
  ⟨h.same .mem hm, h.same .clusters hc, frame.sent, frame.others⟩

theorem exec_portTrain (hf : fn.val = 0) (bar : s.bar0 0 = true) (on : (s.port p).mode ≠ .disabled) :
    exec (.portTrain fn p) s = .next ((s.modPort p (fun x => { x with failures := 0 })).startTraining p) :=
  congrArg Host.Outcome.next ((if_pos ⟨hf, bar⟩).trans (if_neg on))

theorem exec_trainingTimeout_early (h : s.nowNat < (s.port p).since.toNat + 50000000) : execTrainingTimeout p s = .next s := by
  unfold execTrainingTimeout
  exact congrArg Host.Outcome.next (if_pos (.inr (.inr (.inr (.inr h)))))

theorem exec_trainingTimeout (low : (s.port p).isUp = false) (on : (s.port p).mode ≠ .disabled) (due : (s.port p).trainingDue = true)
    (test : (s.port p).test = none) (h : (s.port p).since.toNat + 50000000 ≤ s.nowNat) : execTrainingTimeout p s = .next
      (if (s.port p).failures = 2 then (s.modPort p (fun y => { y with failures := y.failures + 1 })).portDown p 2
       else (s.modPort p (fun y => { y with failures := y.failures + 1 })).startTraining p) := by
  unfold execTrainingTimeout
  refine congrArg Host.Outcome.next (if_neg ?_)
  simp only [low, on, due, test, Bool.false_eq_true, Bool.not_true, Option.isSome_none, false_or, not_lt]
  exact h

/-- A lane in service, marked. -/
def laneMarked (s : State) (l : LaneId) (y : Port) : Port :=
  { y with marked := setFld y.marked l.val l.val 1, markDue := some s.time.now,
           corrected := satAdd 0xFFFFFF y.corrected (fld s.freeVal 23 0), uncorrectable := satAdd 0xFFFF y.uncorrectable (fld s.freeVal 39 24) }

theorem exec_laneMark {l : LaneId} (high : (s.port p).isUp = true) (lane : bitAt (s.port p).lanes l.val = true)
    (fresh : bitAt (s.port p).marked l.val = false) : execLaneMark p l s = .next (s.useFree.modPort p (laneMarked s l)) := by
  unfold execLaneMark
  exact congrArg Host.Outcome.next (if_neg (by simp [high, lane, fresh]))

theorem exec_laneRetrainDue {t0 : W64} (due : (s.port p).markDue = some t0)
    (h : s.links.sent.any (fun w => w.port == some p.val && bitAt w.header 4) = false ∨ t0.toNat + 100000000 ≤ s.nowNat) :
    execLaneRetrainDue p s = .next (s.startTraining p) := by
  unfold execLaneRetrainDue
  rw [due]
  refine congrArg Host.Outcome.next (if_neg fun ⟨flight, early⟩ => ?_)
  obtain h | h := h
  · rw [h] at flight
    cases flight
  · omega

theorem portFrame_fails (n : Nat) (f : Port → Port) : Only [.links] s (s.modPort n f) ∧ PortFrame n s (s.modPort n f) :=
  ⟨only_modPort (within_refl _) n f (only_refl _ s), portFrame_modPort f⟩

/-- A third failure: the port stays down, its lanes terminated (15 R374; 21 R481). -/
theorem thirdFailure_facts (n : Nat) (failures : (s.port n).failures = 2) :
    let t := (s.modPort n (fun y => { y with failures := y.failures + 1 })).portDown n 2
    ((t.port n).mode = .down ∧ (t.port n).reason = 2 ∧ (t.icLine (28 + n)).pending = true) ∧ (t.port n).failures = 3 ∧
    (s.links.idLock = true ∧ s.portEnabled n = true → s.module.electrical = .running ∧ (s.port n).test = none →
      ∀ i, i < 5 → t.lane n i = .terminated) ∧ PortFrame n s t ∧ Only [.out, .unsent, .fns, .buckets, .intr, .links] s t := by
  obtain ⟨failed, first⟩ := portFrame_fails (s := s) n (fun y => { y with failures := y.failures + 1 })
  have counted : ((s.modPort n (fun y => { y with failures := y.failures + 1 })).port n) = { s.port n with failures := (s.port n).failures + 1 } :=
    modPort_port_same _ _ _
  have held : (s.modPort n (fun y => { y with failures := y.failures + 1 })).links.idLock = s.links.idLock := rfl
  generalize s.modPort n (fun y => { y with failures := y.failures + 1 }) = u at failed first counted held ⊢
  obtain ⟨port, line, frame, lock⟩ := portDown_facts (s := u) (n := n) 2
  have kept : Only [.out, .unsent, .fns, .buckets, .intr, .links] s (u.portDown n 2) := only_portDown (within_refl _) n 2 (only_widen (by decide) failed)
  have three : ((u.portDown n 2).port n).failures = 3 := by rw [port, counted, failures]
  refine ⟨⟨by rw [port], by rw [port], line⟩, three, fun ⟨locked, on⟩ ⟨run, test⟩ i _ => lane_failed ?_ ?_ (by rw [port]) ?_ ?_ three i,
    portFrame_trans first frame, kept⟩
  · have module : (u.portDown n 2).module = s.module := kept.same .module (by simp)
    rw [module, run]
  · rw [port, counted]
    exact test
  · exact (portEnabled_congr (kept.same .regs (by simp)) n).trans on
  · exact lock.trans (held.trans locked)

/-- A lane is marked: the others and the port stand (15 R375). -/
theorem laneMarked_facts (l : LaneId) (y : Port) : bitAt (laneMarked s l y).marked l.val = true ∧
    (∀ k, k < 5 → k ≠ l.val → bitAt (laneMarked s l y).marked k = bitAt y.marked k) := by
  have bit (k : Nat) : bitAt (laneMarked s l y).marked k = if l.val ≤ k ∧ k ≤ l.val then (1 : Nat).testBit (k - l.val) else bitAt y.marked k :=
    getLsbD_setFld _ _ _ _ _ l.isLt
  refine ⟨?_, fun k _ hk => ?_⟩
  · rw [bit, if_pos ⟨Nat.le_refl _, Nat.le_refl _⟩, Nat.sub_self]
    rfl
  · rw [bit, if_neg (by omega)]

theorem exec_idLock (hf : fn.val = 0) (bar : s.bar0 0 = true) (id : BitVec 9) : exec (.idLock fn id) s = .next (s.lockId id) :=
  congrArg Host.Outcome.next (if_pos ⟨hf, bar⟩)

theorem lockId_facts (id : BitVec 9) (free : s.links.idLock = false) : ∃ t, s.lockId id = t ∧ t.links.moduleId = id ∧ t.links.idLock = true ∧
    (∀ k, k < 16 → (s.port k).mode = .down → s.portEnabled k = true → (t.port k).mode = .training) ∧
    (∀ k, (s.port k).mode ≠ .down → t.port k = s.port k) ∧ t.mem = s.mem ∧ t.regs = s.regs := by
  refine ⟨_, lockId_eq id free, ?_⟩
  obtain ⟨u, hu⟩ : ∃ u : State, u = { s with links := { s.links with moduleId := id, idLock := true } } := ⟨_, rfl⟩
  have port (k : Nat) : u.port k = s.port k := by rw [hu]; rfl
  have regs : u.regs = s.regs := by rw [hu]
  have mem : u.mem = s.mem := by rw [hu]
  have own : u.links.moduleId = id := by rw [hu]
  have lock : u.links.idLock = true := by rw [hu]
  rw [← hu]
  obtain ⟨locked, owned, training, stand, kept⟩ := trainAll_facts (List.range 16) lock
  refine ⟨owned.trans own, locked, fun k hk idle on => training k (.inr ⟨List.mem_range.mpr hk, ?_, ?_⟩), fun k busy => ?_,
    (kept.same .mem (by simp)).trans mem, (kept.same .regs (by simp)).trans regs⟩
  · rw [port, idle]
  · rw [portEnabled_congr regs, on]
  · rw [stand k (by rwa [port]), port]

theorem exec_portDisable (hf : fn.val = 0) (bar : s.bar0 0 = true) : exec (.portDisable fn p) s = .next (s.disablePort p) :=
  congrArg Host.Outcome.next (if_pos ⟨hf, bar⟩)

/-- PORT_TRAIN (15 R374, R377). -/
theorem portTrain_facts (n : Nat) : let t := (s.modPort n (fun x => { x with failures := 0 })).startTraining n
    (s.links.idLock = true ∧ s.portEnabled n = true →
      ((t.port n).mode = .training ∧ (t.port n).since = s.time.now ∧ (t.port n).trainings = satAdd 65535 (s.port n).trainings 1 ∧
        (t.port n).lanes = 0 ∧ (t.icLine (28 + n)).pending = true ∧
        (s.module.electrical = .running ∧ (s.port n).test = none → ∀ i, i < 5 → t.lane n i = .driven)) ∧ PortFrame n s t ∧ Only [.intr, .links] s t) ∧
    (¬ (s.links.idLock = true ∧ s.portEnabled n = true) → (t.port n).mode = (s.port n).mode ∧ PortFrame n s t ∧ Only [.intr, .links] s t) := by
  obtain ⟨only, frame⟩ := portFrame_fails (s := s) n (fun x => { x with failures := 0 })
  have port : (s.modPort n (fun x => { x with failures := 0 })).port n = { s.port n with failures := 0 } := modPort_port_same _ _ _
  have held : (s.modPort n (fun x => { x with failures := 0 })).links.idLock = s.links.idLock := rfl
  generalize s.modPort n (fun x => { x with failures := 0 }) = u at only frame port held ⊢
  refine ⟨fun ⟨lock, on⟩ => ?_, fun unable => ?_⟩
  · obtain ⟨trains, -, -, after, kept⟩ := trains_of_startTraining only frame (held.trans lock) on (by rw [port]) (by rw [port])
    exact ⟨trains, after, kept⟩
  · have none : u.startTraining n = u := startTraining_none fun ⟨lock, on⟩ =>
      unable ⟨held.symm.trans lock, (portEnabled_congr (only.same .regs (by simp)) n).symm.trans on⟩
    rw [none, port]
    exact ⟨rfl, frame, only_widen (by decide) only⟩

end

/-- Settles O41: a training, its ends, a mark and a disabled port, each with what it leaves of the port, its lanes and the others. -/
theorem portsTrainAndGoDown : Obligations.PortsTrainAndGoDown := by
  unfold Obligations.PortsTrainAndGoDown
  refine ⟨fun p s => ?_, fun fn id s hf bar => ⟨fun lock => ?_, fun free => ?_⟩⟩
  · refine ⟨fun fn hf bar on => ⟨fun able => ?_, fun unable => ?_⟩, fun passing mode test => ⟨?_, fun d => ⟨fun failed => ?_, fun some' => ?_⟩⟩,
      fun low on due test => ⟨fun late => ⟨fun few able => ?_, fun two => ?_⟩, fun early => completes_next (exec_trainingTimeout_early early) rfl⟩,
      fun l high lane fresh => ?_, fun t0 due able h => ?_, fun fn hf bar on => ?_⟩
    · obtain ⟨trains, frame, kept⟩ := (portTrain_facts (s := s) p.val).1 able
      exact completes_next (exec_portTrain hf bar on) ⟨trains, frame_of_only kept (by simp) (by simp) frame, kept.same .regs (by simp)⟩
    · obtain ⟨mode, frame, kept⟩ := (portTrain_facts (s := s) p.val).2 unable
      exact completes_next (exec_portTrain hf bar on) ⟨mode, frame_of_only kept (by simp) (by simp) frame, kept.same .regs (by simp)⟩
    · obtain ⟨port, line, frame, -⟩ := portDown_facts (s := s) (n := p.val) 3
      have kept := only_portDown (within_refl _) p.val 3 (only_refl _ s)
      exact completes_next (exec_trainingComplete_none (passing := passing) mode test) ⟨⟨by rw [port], by rw [port], line⟩, frame_of_only kept (by simp) (by simp) frame,
        kept.same .regs (by simp)⟩
    · obtain ⟨port, line, frame, -⟩ := portDown_facts (s := s) (n := p.val) 1
      have kept := only_portDown (within_refl _) p.val 1 (only_refl _ s)
      exact completes_next (exec_trainingComplete_failed mode test failed) ⟨⟨by rw [port], by rw [port], line⟩,
        frame_of_only kept (by simp) (by simp) frame, kept.same .regs (by simp)⟩
    · obtain ⟨t, run, port, down, up, stage, line, frame, kept⟩ := trainingComplete_up (d := d) mode test some'
      refine completes_next run ⟨port, down, up, stage, line, fun ⟨live, _⟩ i _ => ?_, frame_of_only kept (by simp) (by simp) frame,
        kept.same .regs (by simp)⟩
      have module : t.module = s.module := kept.same .module (by simp)
      refine (lane_up (by rw [module, live]) (by rw [port]; exact test) ?_ i).trans (by rw [port]; rfl)
      rw [port]
      unfold upPort
      dsimp only
      split
      · exact .inl rfl
      · exact .inr rfl
    · obtain ⟨only, first⟩ := portFrame_fails (s := s) p.val (fun y => { y with failures := y.failures + 1 })
      have port : (s.modPort p (fun y => { y with failures := y.failures + 1 })).port p = { s.port p with failures := (s.port p).failures + 1 } :=
        modPort_port_same _ _ _
      obtain ⟨lock, enabled⟩ := able
      obtain ⟨trains, failures, -, frame, kept⟩ := trains_of_startTraining only first lock enabled (by rw [port]) (by rw [port])
      refine completes_next ((exec_trainingTimeout low on due test late).trans (congrArg Host.Outcome.next (if_neg (by omega)))) ⟨trains, ?_,
        frame_of_only kept (by simp) (by simp) frame, kept.same .regs (by simp)⟩
      rw [failures, port]
    · obtain ⟨down, three, lanes, frame, kept⟩ := thirdFailure_facts (s := s) p.val two
      exact completes_next ((exec_trainingTimeout low on due test late).trans (congrArg Host.Outcome.next (if_pos two))) ⟨down, three, lanes,
        frame_of_only kept (by simp) (by simp) frame, kept.same .regs (by simp)⟩
    · obtain ⟨mine, others⟩ := laneMarked_facts (s := s) l (s.port p)
      have port : (s.useFree.modPort p (laneMarked s l)).port p = laneMarked s l (s.port p) := modPort_port_same _ _ _
      refine completes_next (exec_laneMark high lane fresh) ?_
      rw [port]
      exact ⟨mine, others, rfl, rfl, rfl, ⟨rfl, rfl, Nat.le_refl _, fun k hk => modPort_port_ne _ _ _ k hk⟩, rfl⟩
    · obtain ⟨lock, enabled⟩ := able
      obtain ⟨trains, -, done, frame, kept⟩ := trains_of_startTraining (only_refl [.links] s) portFrame_refl lock enabled rfl rfl
      exact completes_next (exec_laneRetrainDue due h) ⟨trains, done, frame_of_only kept (by simp) (by simp) frame, kept.same .regs (by simp)⟩
    · obtain ⟨mode, reason, test, line, word, frame, grown⟩ := disablePort_facts on
      obtain ⟨-, -, -, -, told⟩ := peerTold_facts (s := s) (n := p.val)
      have kept := only_disablePort (within_refl _) p.val (only_refl _ s)
      refine completes_next (exec_portDisable hf bar) ⟨mode, reason, line, fun ⟨live, untested⟩ i _ => ?_, word, frame_of_only kept (by simp) (by simp) frame,
        fun up near ready => ?_⟩
      · have module : (s.disablePort p).module = s.module := kept.same .module (by simp)
        exact lane_disabled (by rw [module, live]) (test.trans untested) mode i
      · obtain ⟨h, sent, typ, code⟩ := told up near ready
        exact ⟨h, grows_mem grown sent, typ, code⟩
  · exact completes_next (exec_idLock hf bar id) (lockId_locked id lock)
  · obtain ⟨t, ht, own, locked, training, stand, mem, regs⟩ := lockId_facts id free
    exact completes_next ((exec_idLock hf bar id).trans (congrArg Host.Outcome.next ht)) ⟨own, locked, training, stand, mem, regs⟩

end Sys2Proof.Proofs
end

section
/-! PROOF of packets and sessions that time out (15 R376, R382, R383, R385) -/

namespace Sys2Proof.Proofs

open Sys2Proof Sys2Proof.Machine Sys2Proof.Laws

/-! ### Packets that are given up (15 R376, R382) -/

section

variable {s t : State} {tag : BitVec 16} {d : Nat}

/-- A copy's number and its status, as they stand once copy id has failed. -/
def statusFailed (id : Nat) (e : Nat × Nat) : Nat × Nat := (e.1, if e.1 = id ∧ (e.2 = 0 ∨ e.2 = 0x37) then 0x36 else e.2)

/-- The numbers and the statuses of the copies. -/
def statuses (s : State) : List (Nat × Nat) := s.copies.map (fun c => (c.id, c.status))

theorem statuses_modCopy (id : Nat) {f : CopyJob → CopyJob} (hf : ∀ c, ((f c).id, (f c).status) = (c.id, c.status)) :
    statuses (s.modCopy id f) = statuses s := by
  unfold statuses State.modCopy
  rw [List.map_map]
  refine List.map_congr_left fun c _ => ?_
  dsimp only [Function.comp]
  split
  · exact hf c
  · rfl

theorem statuses_failCopy (id : Nat) : statuses (s.failCopy id 0x36) = s.copies.map (fun c =>
    (c.id, if c.id = id ∧ (c.status = 0 ∨ c.status = 0x37) then 0x36 else c.status)) := by
  unfold statuses State.failCopy State.modCopy
  rw [List.map_map]
  refine List.map_congr_left fun c _ => ?_
  dsimp only [Function.comp]
  by_cases e : c.id = id
  · rw [if_pos e]
    simp only [e, true_and]
  · rw [if_neg e, if_neg (fun h => e h.1)]

/-- A dropped packet awaits no answer, the other packets stand, and the copies keep their numbers and statuses. -/
theorem dropSent_facts : (∀ x, x ∈ (s.dropSent tag d).links.sent ↔ x ∈ s.links.sent ∧ ¬(x.tag = tag ∧ x.dest = d)) ∧
    statuses (s.dropSent tag d) = statuses s ∧ (s.dropSent tag d).links.ports = s.links.ports := by
  unfold State.dropSent
  split
  next none =>
    refine ⟨fun x => ⟨fun hx => ⟨hx, ?_⟩, And.left⟩, rfl, rfl⟩
    have other := List.find?_eq_none.mp none x hx
    simpa using other
  next w _ =>
    have kept : ∀ x, x ∈ s.links.sent.filter (fun x => !(x.tag == tag && x.dest == d)) ↔ x ∈ s.links.sent ∧ ¬(x.tag = tag ∧ x.dest = d) := fun x => by
      rw [List.mem_filter, Bool.not_eq_true', ← Bool.not_eq_true, Bool.and_eq_true, beq_iff_eq, beq_iff_eq]
    dsimp only
    split
    · exact ⟨kept, statuses_modCopy _ fun _ => rfl, rfl⟩
    · exact ⟨kept, rfl, rfl⟩

/-- A fold of dropped packets. -/
theorem dropAll_facts (l : List Sent) : (∀ x, x ∈ (l.foldl (fun t w => t.dropSent w.tag w.dest) s).links.sent → x ∈ s.links.sent ∧
      ∀ w, w ∈ l → ¬(x.tag = w.tag ∧ x.dest = w.dest)) ∧
    statuses (l.foldl (fun t w => t.dropSent w.tag w.dest) s) = statuses s ∧
    Only [.copies, .links] s (l.foldl (fun t w => t.dropSent w.tag w.dest) s) := by
  induction l generalizing s with
  | nil => exact ⟨fun x hx => ⟨hx, fun w hw => absurd hw (by simp)⟩, rfl, only_refl _ s⟩
  | cons w l ih =>
    obtain ⟨gone, kept, -⟩ := dropSent_facts (s := s) (tag := w.tag) (d := w.dest)
    obtain ⟨rest, kept', only⟩ := ih (s := s.dropSent w.tag w.dest)
    refine ⟨fun x hx => ?_, kept'.trans kept, only_trans (only_dropSent (within_refl _) _ _ (only_refl _ s)) only⟩
    obtain ⟨hx, others⟩ := rest x hx
    obtain ⟨hx, mine⟩ := (gone x).mp hx
    refine ⟨hx, fun k hk => ?_⟩
    obtain rfl | hk := List.mem_cons.mp hk
    · exact mine
    · exact others k hk

/-- The statuses of the copies as the spec's failure leaves them, from states whose copies stood. -/
theorem statuses_failed_of {u : State} (h : statuses u = statuses s) (id : Nat) : (u.failCopy id 0x36).copies.map (fun c => (c.id, c.status)) =
    s.copies.map (fun c => (c.id, if c.id = id ∧ (c.status = 0 ∨ c.status = 0x37) then 0x36 else c.status)) := by
  have views (v : State) : v.copies.map (fun c => (c.id, if c.id = id ∧ (c.status = 0 ∨ c.status = 0x37) then 0x36 else c.status)) =
      (statuses v).map (statusFailed id) := by
    unfold statuses
    rw [List.map_map]
    rfl
  have failed : statuses (u.failCopy id 0x36) = _ := statuses_failCopy id
  rw [views, h, ← views] at failed
  exact failed

/-! ### PACKET_TIMEOUT (15 R382) -/

variable {w : Sent}

theorem exec_packetTimeout_early (found : s.links.sent.find? (fun w => w.tag == tag && w.port.isSome) = some w)
    (early : s.nowNat < w.since.toNat + 100000) : execPacketTimeout tag s = .next s := by
  unfold execPacketTimeout
  rw [found]
  exact congrArg Host.Outcome.next (if_pos (.inr early))

/-- The timeout is counted on the port that the packet left on. -/
def timeoutCounted (s : State) (n : Nat) : State := s.modPort n (fun x => { x with timeouts := satAdd 4095 x.timeouts 1 })

/-- The port on which a packet is sent once more. -/
def retryPort (s : State) (w : Sent) : Option Nat :=
  if (s.session w.dest).ready && !s.mute w.partition w.copy then s.nextPort w (w.port.getD 0) else none

/-- The packet leaves once more. -/
def resent (s : State) (w : Sent) (tag : BitVec 16) (port : Option Nat) : State :=
  match port with
  | some n => s.sendFrame n w.dest w.typ (fld w.header 4 4) (fld w.header 10 8) tag.toNat (fld w.header 127 64) w.payload
  | none => s

/-- The packet waits again, once more at most. -/
def waitsAgain (s : State) (w : Sent) (tag : BitVec 16) (port : Option Nat) (x : Sent) : Sent :=
  if x.tag = tag ∧ x.dest = w.dest then { x with port := port, since := s.time.now, tries := 2 } else x

/-- A packet that is tried again. -/
def triedAgain (s u : State) (w : Sent) (tag : BitVec 16) : State :=
  { resent u w tag (retryPort u w) with links := { (resent u w tag (retryPort u w)).links with
      sent := (resent u w tag (retryPort u w)).links.sent.map (waitsAgain s w tag (retryPort u w)) } }

theorem exec_packetTimeout_again (found : s.links.sent.find? (fun w => w.tag == tag && w.port.isSome) = some w) (typ : w.typ ≠ 7)
    (late : w.since.toNat + 100000 ≤ s.nowNat) (few : w.tries < 2) :
    execPacketTimeout tag s = .next (triedAgain s (timeoutCounted s (w.port.getD 0)) w tag) := by
  unfold execPacketTimeout
  rw [found]
  dsimp only
  rw [if_neg (by omega), if_neg (by omega)]
  rfl

/-- The end of a packet without an answer. -/
def givenUp (u : State) (w : Sent) (tag : BitVec 16) : State :=
  (u.journal w.partition 0x08 (toBytes 1 4 ++ toBytes 3 0 ++ toBytes 4 tag.toNat)).dropSent tag w.dest

/-- The packet's copy fails. -/
def copyFailed (u : State) (copy : Option Nat) : State :=
  match copy with
  | some id => u.failCopy id 0x36
  | none => u

theorem exec_packetTimeout_last (found : s.links.sent.find? (fun w => w.tag == tag && w.port.isSome) = some w) (typ : w.typ ≠ 7)
    (late : w.since.toNat + 100000 ≤ s.nowNat) (many : 2 ≤ w.tries) :
    execPacketTimeout tag s = .next (copyFailed (givenUp (timeoutCounted s (w.port.getD 0)) w tag) w.copy) := by
  unfold execPacketTimeout
  rw [found]
  dsimp only
  rw [if_neg (by omega), if_pos many]
  rfl

theorem timeoutCounted_facts (n : Nat) : ((timeoutCounted s n).port n).timeouts = satAdd 4095 (s.port n).timeouts 1 ∧
    Only [.links] s (timeoutCounted s n) ∧ (timeoutCounted s n).links.sent = s.links.sent := by
  refine ⟨?_, only_modPort (within_refl _) n _ (only_refl _ s), rfl⟩
  unfold timeoutCounted
  rw [modPort_port_same]

theorem triedAgain_facts {u : State} : (triedAgain s u w tag).links.sent.length = u.links.sent.length ∧
    (∀ x, x ∈ (triedAgain s u w tag).links.sent → x.tag = tag → x.dest = w.dest → x.tries = 2 ∧ x.since = s.time.now) ∧
    (triedAgain s u w tag).links.ports = u.links.ports ∧ Only [.out, .links] u (triedAgain s u w tag) := by
  have sent : (resent u w tag (retryPort u w)).links.sent = u.links.sent ∧ (resent u w tag (retryPort u w)).links.ports = u.links.ports ∧
      Only [.out, .links] u (resent u w tag (retryPort u w)) := by
    unfold resent
    split
    · obtain ⟨flushed, same⟩ := linksFlushed_sendFrame (s := u) _ w.dest w.typ (fld w.header 4 4) (fld w.header 10 8) tag.toNat (fld w.header 127 64)
        w.payload
      exact ⟨same, flushed.ports, only_sendFrame (within_refl _) _ _ _ _ _ _ _ _ (only_refl _ u)⟩
    · exact ⟨rfl, rfl, only_refl _ u⟩
  obtain ⟨same, ports, only⟩ := sent
  unfold triedAgain
  generalize resent u w tag (retryPort u w) = v at same ports only ⊢
  refine ⟨?_, fun x hx ht hd => ?_, ports, only_set_links (within_sub (by decide) (within_refl _)) _ only⟩
  · rw [List.length_map, same]
  · obtain ⟨y, -, rfl⟩ := List.mem_map.mp hx
    unfold waitsAgain at ht hd ⊢
    by_cases mine : y.tag = tag ∧ y.dest = w.dest
    · rw [if_pos mine]
      exact ⟨rfl, rfl⟩
    · rw [if_neg mine] at ht hd
      exact absurd ⟨ht, hd⟩ mine

theorem givenUp_facts {u : State} : (∀ x, x ∈ (givenUp u w tag).links.sent → ¬(x.tag = tag ∧ x.dest = w.dest)) ∧
    statuses (givenUp u w tag) = statuses u ∧ (givenUp u w tag).links.ports = u.links.ports ∧
    Only [.out, .unsent, .parts, .copies, .fns, .buckets, .links] u (givenUp u w tag) := by
  have told : Only [.out, .unsent, .parts, .fns, .buckets] u (u.journal w.partition 0x08 (toBytes 1 4 ++ toBytes 3 0 ++ toBytes 4 tag.toNat)) :=
    only_journal (within_sub (by decide) (within_refl _)) _ _ _ (only_refl _ u)
  unfold givenUp
  generalize u.journal w.partition 0x08 (toBytes 1 4 ++ toBytes 3 0 ++ toBytes 4 tag.toNat) = v at told ⊢
  obtain ⟨gone, kept, ports⟩ := dropSent_facts (s := v) (tag := tag) (d := w.dest)
  have copies : v.copies = u.copies := told.same .copies (by simp)
  have links : v.links = u.links := told.same .links (by simp)
  refine ⟨fun x hx => ((gone x).mp hx).2, kept.trans ?_, ports.trans (congrArg Links.ports links),
    only_dropSent (within_sub (by decide) (within_refl _)) _ _ (only_widen (by decide) told)⟩
  unfold statuses
  rw [copies]

theorem copyFailed_facts {u : State} (copy : Option Nat) : (copyFailed u copy).links = u.links ∧ Only [.copies] u (copyFailed u copy) := by
  unfold copyFailed
  split
  · exact ⟨rfl, only_set_copies (within_refl _) _ (only_refl _ u)⟩
  · exact ⟨rfl, only_refl _ u⟩

/-! ### PORT_WAIT_TIMEOUT (15 R376) -/

/-- The packets of a copy that have waited too long. -/
def lateOf (s : State) (id : Nat) : List Sent :=
  s.links.sent.filter (fun w => w.copy == some id && w.port.isNone && decide (w.since.toNat + 50000000 ≤ s.nowNat))

theorem exec_portWaitTimeout {id : Nat} (hw : w ∈ lateOf s id) : execPortWaitTimeout id s =
    .next (((lateOf s id).foldl (fun t w => t.dropSent w.tag w.dest) s).failCopy id 0x36) := by
  unfold execPortWaitTimeout
  refine congrArg Host.Outcome.next (if_neg fun none => ?_)
  have empty : lateOf s id = [] := List.isEmpty_iff.mp none
  rw [empty] at hw
  cases hw

/-! ### Sessions that are tried again, or destroyed (15 R383, R385) -/

variable {e : BitVec 9} {t0 : W64}

theorem exec_sessionRetry_early (due : (s.session e.toNat).retryAt = some t0) (early : s.nowNat < t0.toNat) : execSessionRetry e s = .next s := by
  unfold execSessionRetry
  dsimp only
  rw [due]
  exact congrArg Host.Outcome.next (if_pos early)

/-- The retry is under way. -/
def retryTaken (s : State) (d : Nat) : State := s.modSession d (fun x => { x with retryAt := none })

theorem exec_sessionRetry_begins {n : Nat} (due : (s.session e.toNat).retryAt = some t0) (late : t0.toNat ≤ s.nowNat)
    (port : s.portTo e.toNat = some n) :
    execSessionRetry e s = .next (((retryTaken s e.toNat).modSession e.toNat (fun _ => Session.reset)).startSession n e.toNat) := by
  have same : (retryTaken s e.toNat).portTo e.toNat = some n := port
  unfold execSessionRetry
  dsimp only
  rw [due]
  refine congrArg Host.Outcome.next ((if_neg (by omega)).trans ?_)
  unfold retryTaken at same ⊢
  rw [same]

/-- The ports whose attempt failed train again. -/
def retrain (d : Nat) (u : State) (n : Nat) : State :=
  if (u.port n).mode = .down ∧ (u.port n).reason = 4 ∧ (u.port n).peer = d then u.startTraining n else u

theorem exec_sessionRetry_trains (due : (s.session e.toNat).retryAt = some t0) (late : t0.toNat ≤ s.nowNat) (port : s.portTo e.toNat = none) :
    execSessionRetry e s = .next ((List.range 16).foldl (retrain e.toNat) (retryTaken s e.toNat)) := by
  have same : (retryTaken s e.toNat).portTo e.toNat = none := port
  unfold execSessionRetry
  dsimp only
  rw [due]
  refine congrArg Host.Outcome.next ((if_neg (by omega)).trans ?_)
  unfold retryTaken at same ⊢
  rw [same]
  rfl

theorem retrain_facts (n : Nat) : Only [.intr, .links] s (retrain d s n) ∧ (retrain d s n).links.sessions = s.links.sessions ∧
    (retrain d s n).links.idLock = s.links.idLock ∧ (∀ k, k ≠ n → (retrain d s n).port k = s.port k) ∧
    ((s.port n).mode = .training → ((retrain d s n).port n).mode = .training) ∧
    ((s.port n).mode = .down ∧ (s.port n).reason = 4 ∧ (s.port n).peer = d → s.links.idLock = true → s.portEnabled n = true →
      ((retrain d s n).port n).mode = .training) := by
  unfold retrain
  split
  next failed =>
    obtain ⟨-, training, others⟩ := startTraining_port (s := s) n
    have links : (s.startTraining n).links.sessions = s.links.sessions ∧ (s.startTraining n).links.idLock = s.links.idLock := by
      unfold State.startTraining
      split <;> exact ⟨rfl, rfl⟩
    refine ⟨only_startTraining (within_refl _) n (only_refl _ s), links.1, links.2, others, fun busy => ?_, fun _ lock on => training lock on⟩
    rw [failed.1] at busy
    cases busy
  next other => exact ⟨only_refl _ s, rfl, rfl, fun _ _ => rfl, id, fun h => absurd h other⟩

theorem retrainAll_facts (l : List Nat) (lock : s.links.idLock = true) : Only [.intr, .links] s (l.foldl (retrain d) s) ∧
    (l.foldl (retrain d) s).links.sessions = s.links.sessions ∧
    ∀ k, (s.port k).mode = .training ∨ k ∈ l ∧ ((s.port k).mode = .down ∧ (s.port k).reason = 4 ∧ (s.port k).peer = d) ∧ s.portEnabled k = true →
      ((l.foldl (retrain d) s).port k).mode = .training := by
  induction l generalizing s with
  | nil => exact ⟨only_refl _ s, rfl, fun k h => h.resolve_right (by simp)⟩
  | cons a l ih =>
    obtain ⟨only, sessions, locks, others, busy, trains⟩ := retrain_facts (s := s) (d := d) a
    obtain ⟨only', sessions', training⟩ := ih (s := retrain d s a) (locks.trans lock)
    refine ⟨only_trans only only', sessions'.trans sessions, fun k h => training k ?_⟩
    obtain h | ⟨hm, failed, on⟩ := h
    · by_cases e : k = a
      · subst e
        exact .inl (busy h)
      · exact .inl (by rw [others k e, h])
    · by_cases e : k = a
      · subst e
        exact .inl (trains failed lock on)
      · refine .inr ⟨(List.mem_cons.mp hm).resolve_left e, ?_, (portEnabled_congr (only.same .regs (by simp)) k).trans on⟩
        rwa [others k e]

theorem exec_sessionPortsDown_early (down : (s.session e.toNat).portsDown = some t0) (early : s.nowNat < t0.toNat + 1000000000) :
    execSessionPortsDownTimeout e s = .next s := by
  unfold execSessionPortsDownTimeout
  rw [down]
  exact congrArg Host.Outcome.next (if_pos (.inr early))

/-- A session none of whose ports is up ends without a word. -/
theorem endSession_silent (none : s.portTo d = none) : s.endSession d = s.modSession d (fun _ => Session.reset) := by
  have empty : (List.range 16).filter (fun n => (s.port n).isUp && (s.port n).peer == d) = [] := List.filter_eq_nil_iff.mpr (List.find?_eq_none.mp none)
  unfold State.endSession
  rw [empty]
  dsimp only [List.foldl_nil]
  rw [ite_self]

theorem exec_sessionPortsDown (down : (s.session e.toNat).portsDown = some t0) (none : s.portTo e.toNat = none)
    (late : t0.toNat + 1000000000 ≤ s.nowNat) : execSessionPortsDownTimeout e s = .next (s.modSession e.toNat (fun _ => Session.reset)) := by
  unfold execSessionPortsDownTimeout
  rw [down, ← endSession_silent none]
  refine congrArg Host.Outcome.next (if_neg ?_)
  rw [none]
  simp only [Option.isSome_none, Bool.false_eq_true, false_or, not_lt]
  exact late

end

/-- Settles O42: a packet is sent once more and then given up with its copy, and a session is tried again or destroyed, each at its time. -/
theorem packetsAndSessionsTimeOut : Obligations.PacketsAndSessionsTimeOut := by
  unfold Obligations.PacketsAndSessionsTimeOut
  refine ⟨fun tag s w found typ => ⟨fun early => completes_next (exec_packetTimeout_early found early) rfl, fun late => ⟨fun few => ?_, fun many => ?_⟩⟩,
    fun id s w hw copy port late => ?_, fun d s t0 due => ⟨fun early => completes_next (exec_sessionRetry_early due early) rfl,
      fun late n port => ?_, fun late none lock => ?_⟩,
    fun d s t0 down none => ⟨fun early => completes_next (exec_sessionPortsDown_early down early) rfl, fun late => ?_⟩⟩
  · obtain ⟨counted, only, sent⟩ := timeoutCounted_facts (s := s) (w.port.getD 0)
    obtain ⟨length, again, ports, kept⟩ := triedAgain_facts (s := s) (u := timeoutCounted s (w.port.getD 0)) (w := w) (tag := tag)
    have whole := only_trans (only_widen (by decide) only) kept
    refine completes_next (exec_packetTimeout_again found typ late few) ⟨⟨?_, whole.same .mem (by simp), whole.same .regs (by simp),
      whole.same .clusters (by simp)⟩, whole.same .copies (by simp), length.trans (congrArg List.length sent), again⟩
    exact (congrArg (fun l => (Tab.get (fun _ => Port.reset) l (w.port.getD 0)).timeouts) ports).trans counted
  · obtain ⟨counted, only, -⟩ := timeoutCounted_facts (s := s) (w.port.getD 0)
    have copies : statuses (timeoutCounted s (w.port.getD 0)) = statuses s := rfl
    generalize hu : timeoutCounted s (w.port.getD 0) = u at counted only copies
    obtain ⟨gone, kept, ports, after⟩ := givenUp_facts (u := u) (w := w) (tag := tag)
    obtain ⟨links, last⟩ := copyFailed_facts (u := givenUp u w tag) w.copy
    have whole := only_trans (only_trans (only_widen (by decide) only) after) (only_widen (by decide) last)
    refine completes_next ((exec_packetTimeout_last found typ late many).trans (by rw [hu])) ⟨⟨?_, whole.same .mem (by simp), whole.same .regs (by simp),
      whole.same .clusters (by simp)⟩, fun x hx => gone x (by rwa [links] at hx), fun id hid => ?_⟩
    · exact (congrArg (fun l => (Tab.get (fun _ => Port.reset) l (w.port.getD 0)).timeouts) ((congrArg Links.ports links).trans ports)).trans counted
    · rw [hid]
      exact statuses_failed_of (kept.trans copies) id
  · have member : w ∈ lateOf s id := List.mem_filter.mpr ⟨hw, by simp [copy, port, late]⟩
    obtain ⟨gone, kept, only⟩ := dropAll_facts (s := s) (lateOf s id)
    refine completes_next (exec_portWaitTimeout member) ⟨fun x hx => ?_, statuses_failed_of kept id, only.same .mem (by simp), only.same .regs (by simp),
      only.same .out (by simp)⟩
    obtain ⟨hx, others⟩ := gone x hx
    exact ⟨hx, others w member⟩
  · refine completes_next (exec_sessionRetry_begins due late port) ⟨?_, rfl, rfl, rfl, rfl⟩
    exact (modSession_session_same _ _ _).trans (by rw [modSession_session_same]; rfl)
  · obtain ⟨only, sessions, training⟩ := retrainAll_facts (s := retryTaken s d.toNat) (d := d.toNat) (List.range 16) lock
    refine completes_next (exec_sessionRetry_trains due late none) ⟨?_, fun n hn down reason peer on =>
      training n (.inr ⟨List.mem_range.mpr hn, ⟨down, reason, peer⟩, on⟩), only.same .mem (by simp), only.same .regs (by simp), only.same .out (by simp)⟩
    refine (congrArg (fun l => (Tab.get (fun _ => Session.reset) l d.toNat).retryAt) sessions).trans ?_
    exact congrArg Session.retryAt (modSession_session_same s d.toNat (fun x => { x with retryAt := Option.none }))
  · refine completes_next (exec_sessionPortsDown down none late) ⟨modSession_session_same _ _ _, fun k hk => modSession_session_ne _ _ _ _ hk, rfl, rfl, rfl,
      rfl, rfl⟩

end Sys2Proof.Proofs
end

section
/-! PROOF of how frames are received, answered, and their lines read and written -/

namespace Sys2Proof.Proofs

open Sys2Proof Sys2Proof.Machine Sys2Proof.Laws

/-! ### How a frame is received (15 R379, R380, R384) -/

section

variable {s t : State} {n p typ : Nat} {fr : Frame} {f : State → State} {refuse : State → State} {g : State → Nat → State}

theorem receive_badHeader (up : (s.port n).isUp = true) (bad : s.headerOk fr typ = false) : s.receive n fr typ f = s.discardFrame n := by
  unfold State.receive
  rw [if_neg (by simp [up]), if_pos (by simp [bad])]

theorem receive_unprotected (up : (s.port n).isUp = true) (good : s.headerOk fr typ = true)
    (h : (s.session fr.src).up = false ∨ fr.tagOk = false ∨ (s.session fr.src).fresh fr.counter = false) :
    s.receive n fr typ f = s.discardFrame n := by
  unfold State.receive
  rw [if_neg (by simp [up]), if_neg (by simp [good]), if_pos]
  obtain h | h | h := h <;> simp [h]

theorem receive_accepted (h : Accepted s n fr typ) : s.receive n fr typ f = f (s.counted fr) := by
  obtain ⟨up, good, session, tag, fresh⟩ := h
  unfold State.receive
  rw [if_neg (by simp [up]), if_neg (by simp [good]), if_neg (by simp [session, tag, fresh])]
  rfl

theorem enter_held (owner : s.portOwner n = some p) (h : s.replaying p = true ∨ s.journalRoom p (1 + fr.payload.length) = false) :
    s.enter n fr typ refuse g = s := by
  unfold State.enter
  rw [owner]
  exact if_pos (by obtain h | h := h <;> simp [h])

theorem enter_received (h : Enters s n fr p) : s.enter n fr typ refuse g = s.receive n fr typ (fun t =>
    g (t.journal p 0x07 (padTo 40 (toBytes 24 fr.header.toNat) ++ fr.payload.flatMap lineBytes)) p) := by
  obtain ⟨owner, live, room⟩ := h
  unfold State.enter
  rw [owner]
  exact if_neg (by simp [live, room])

theorem enter_unowned (owner : s.portOwner n = none) : s.enter n fr typ refuse g = s.receive n fr typ refuse := by
  unfold State.enter
  rw [owner]

theorem enter_accepted (he : Enters s n fr p) (h : Accepted s n fr typ) : s.enter n fr typ refuse g = g (s.taken fr p) p := by
  rw [enter_received he, receive_accepted h]
  rfl

/-- A frame that is discarded wherever it is received is discarded. -/
theorem enter_discarded (enters : ∀ q, s.portOwner n = some q → Enters s n fr q) (h : ∀ f, s.receive n fr typ f = s.discardFrame n) :
    s.enter n fr typ refuse g = s.discardFrame n := by
  cases owner : s.portOwner n with
  | none => rw [enter_unowned owner, h]
  | some q => rw [enter_received (enters q owner), h]

/-- What the taking of a frame leaves. -/
theorem frameTaken_only : Only [.out, .unsent, .parts, .fns, .buckets, .links] s (s.taken fr p) :=
  only_journal (within_sub (by decide) (within_refl _)) _ _ _ (only_modSession (within_sub (by decide) (within_refl _)) _ _ (only_refl _ s))

theorem nak_only : Only [.free, .out, .links] s (s.nak n fr) := only_nak (within_refl _) n fr (only_refl _ s)

/-! ### Answers (15 R380, R381) -/

/-- An answer's header, in the request's class, with its tag and to its sender. -/
theorem frameHeader_fields {lines src addr c : Nat} (ht : typ < 16) (hl : lines < 256) (hs : src < 512) :
    let h := frameHeader typ fr.lc lines src fr.src fr.tag.toNat addr c
    fld h 3 0 = typ ∧ fld h 4 4 = fr.lc ∧ fld h 63 48 = fr.tag.toNat ∧ fld h 40 32 = fr.src := by
  have lc : fr.lc < 2 := fld_lt fr.header 4 4
  have from' : fr.src < 512 := fld_lt fr.header 24 16
  have tag := fr.tag.isLt
  unfold frameHeader fld bitsOf at_
  dsimp only
  rw [BitVec.toNat_ofNat]
  refine ⟨?_, ?_, ?_, ?_⟩ <;> omega

/-- A reply from a state that has sent what s has. -/
theorem answered_reply {ls : List Line} (out : t.out = s.out) (ht : typ < 16) (hl : ls.length < 256) (addr : Nat) :
    Answered s (t.reply n fr typ addr ls) n fr typ ls := by
  refine ⟨_, congrArg (· ++ [Output.frame n _ ls]) out, frameHeader_fields ht hl t.links.moduleId.isLt⟩

theorem headerOk_lines (h : s.headerOk fr typ = true) : linesOk typ fr.payload.length = true ∧ addrOk typ fr.addr = true := by
  simp only [State.headerOk, Bool.and_eq_true] at h
  exact ⟨h.1.1.1.1.2, h.2⟩

/-! ### Lines read and written for a frame -/

theorem mapM_length {α β : Type} {k : α → Option β} {l : List α} {m : List β} (h : l.mapM k = some m) : m.length = l.length := by
  induction l generalizing m with
  | nil =>
    rw [List.mapM_nil] at h
    exact Option.some.inj h ▸ rfl
  | cons a l ih =>
    rw [List.mapM_cons] at h
    obtain ⟨b, -, h⟩ := Option.bind_eq_some_iff.mp h
    obtain ⟨r, hr, h⟩ := Option.bind_eq_some_iff.mp h
    obtain rfl := Option.some.inj h
    simp [ih hr]

theorem frameLines_length {addr k : Nat} {ls : List (Nat × Nat)} (h : s.frameLines p addr k = some ls) : ls.length = k := by
  unfold State.frameLines at h
  split at h
  · cases h
  · exact (mapM_length h).trans List.length_range

theorem readPlns_length {l : List Nat} {r : List Line} (h : (s.readPlns p l).2 = some r) : r.length = l.length := by
  induction l generalizing s r with
  | nil =>
    obtain rfl : [] = r := Option.some.inj h
    rfl
  | cons a l ih =>
    unfold State.readPlns at h
    split at h
    · cases h
    next t x _ =>
      obtain ⟨m, hm, rfl⟩ := Option.map_eq_some_iff.mp h
      simp [ih hm]

/-- A line that can be read leaves the links. -/
theorem readLine_some_only {source pln q : Nat} {w : Line} (h : s.readLine source pln q = (t, some w)) :
    Only [.mem, .out, .unsent, .stackTab, .memory, .fns, .buckets, .sec, .spares] s t := by
  unfold State.readLine State.readLineFor at h
  dsimp only at h
  split_ifs at h
  · obtain ⟨rfl, -⟩ := Prod.mk.inj h
    exact only_refl _ s
  · obtain ⟨rfl, -⟩ := Prod.mk.inj h
    exact only_refl _ s
  · cases (Prod.mk.inj h).2
  · split at h
    · obtain ⟨rfl, -⟩ := Prod.mk.inj h
      exact only_refl _ s
    · obtain ⟨rfl, -⟩ := Prod.mk.inj h
      exact only_corrected (within_sub (by decide) (within_refl _)) _ (only_setStored (within_sub (by decide) (within_refl _)) _ _ (only_refl _ s))
    · cases (Prod.mk.inj h).2

/-- Whole lines written one after another. -/
def writeAll (l : List ((Nat × Nat) × Line)) (a : State) : State := l.foldl (fun (a : State) e => a.writeLine e.1.2 e.2) a

theorem writeLine_only (pln : Nat) (x : Line) : Only [.mem] s (s.writeLine pln x) := only_writeLine (within_refl _) pln x (only_refl _ s)

theorem spotWritable_congr (h : t.memory = s.memory) (q : Nat) (x : Spot) : t.spotWritable q x = s.spotWritable q x := by
  have region := region_congr h
  unfold State.spotWritable State.spotThere
  simp only [region]

/-- Whole lines that the partition may write are written (15 R381). -/
theorem applyPiece_whole {i pln : Nat} {x : Line} (h : s.spotWritable p (.dev i pln) = true) :
    s.applyPiece p (.put (.dev i pln) 0 512 x.toNat) = (s.writeLine pln x, none) := by
  have there : s.spotThere (.dev i pln) = true := by
    unfold State.spotWritable at h
    simp only [Bool.and_eq_true] at h
    exact h.1.1
  have merged : s.mergeLine (ctlOf pln) pln p 0 512 x.toNat = (s.writeLine pln x, false) := by
    unfold State.mergeLine
    rw [if_pos ⟨rfl, rfl⟩, BitVec.ofNat_toNat, BitVec.setWidth_eq]
  have all (k : Spot → Bool) : (Piece.put (.dev i pln) 0 512 x.toNat).spots.all k = k (.dev i pln) := by simp [Piece.spots]
  unfold State.applyPiece
  rw [all, all, there, h]
  dsimp only [Bool.not_true, Bool.false_eq_true, if_false]
  rw [merged]
  rfl

/-- The pieces of a WRITE without a reduction. -/
def wholePieces (l : List ((Nat × Nat) × Line)) : List Piece := l.map (fun e => .put (.dev e.1.1 e.1.2) 0 512 e.2.toNat)

theorem writePieces_whole (ls : List (Nat × Nat)) (xs : List Line) : writePieces 0 ls xs = some (wholePieces (ls.zip xs)) := by
  unfold writePieces wholePieces
  dsimp only
  rw [List.zip_map_left, List.map_map]
  rfl

theorem applyPieces_whole (l : List ((Nat × Nat) × Line)) (h : ∀ e, e ∈ l → s.spotWritable p (.dev e.1.1 e.1.2) = true) :
    s.applyPieces p (wholePieces l) = (writeAll l s, none) := by
  unfold State.applyPieces wholePieces writeAll
  induction l generalizing s with
  | nil => rfl
  | cons e l ih =>
    rw [List.map_cons, List.foldl_cons, List.foldl_cons]
    dsimp only
    rw [applyPiece_whole (h e List.mem_cons_self)]
    refine ih fun k hk => ?_
    rw [spotWritable_congr ((writeLine_only e.1.2 e.2).same .memory (by simp))]
    exact h k (List.mem_cons_of_mem _ hk)

theorem writeAll_only (l : List ((Nat × Nat) × Line)) : Only [.mem] s (writeAll l s) :=
  only_foldl _ (only_refl _ s) fun _ _ h => only_writeLine (within_refl _) _ _ h

end

end Sys2Proof.Proofs
end

section
/-! PROOF of the requests and the answers of frames, one equation each -/

namespace Sys2Proof.Proofs

open Sys2Proof Sys2Proof.Machine Sys2Proof.Laws

/-! ### Requests of a frame (15 R381, R382, R387; 14 R359) -/

section

variable {s a : State} {port : PortId} {p : Nat} {fr : Frame} {ls : List (Nat × Nat)}

section

variable (he : Enters s port fr p)

include he

section

variable (ha : Accepted s port fr 1) (whole : fr.addr / 2 ^ 40 = 0) (alone : (s.taken fr p).collWrite p 0 fr.dev fr.payload = none)

include ha whole alone

/-- A WRITE whose lines the partition may write. -/
theorem exec_write_lines (lines : (s.taken fr p).frameLines p fr.dev fr.payload.length = some ls)
    (writable : ∀ e, e ∈ ls → (s.taken fr p).spotWritable p (.dev e.1 e.2) = true) :
    execWrite port fr s = .next ((writeAll (ls.zip fr.payload) (s.taken fr p)).reply port fr 5 0 []) := by
  have each : ∀ e, e ∈ ls.zip fr.payload → (s.taken fr p).spotWritable p (.dev e.1.1 e.1.2) = true := fun e h => writable e.1 (List.of_mem_zip h).1
  have all : (wholePieces (ls.zip fr.payload)).all (fun x => x.spots.all ((s.taken fr p).spotWritable p)) = true := by
    simp only [wholePieces, List.all_map, List.all_eq_true]
    intro e h
    simpa [Piece.spots] using each e h
  unfold execWrite
  rw [enter_accepted he ha]
  dsimp only
  rw [whole, alone, lines, Option.bind_some, writePieces_whole]
  dsimp only
  rw [all, applyPieces_whole _ each]
  rfl

/-- A WRITE of which a line is no line of the partition's. -/
theorem exec_write_stray (lines : (s.taken fr p).frameLines p fr.dev fr.payload.length = none) :
    execWrite port fr s = .next ((s.taken fr p).nak port fr) := by
  unfold execWrite
  rw [enter_accepted he ha]
  dsimp only
  rw [whole, alone, lines]
  rfl

/-- A WRITE of which a line is not the partition's to write. -/
theorem exec_write_barred {e : Nat × Nat} (lines : (s.taken fr p).frameLines p fr.dev fr.payload.length = some ls) (member : e ∈ ls)
    (barred : (s.taken fr p).spotWritable p (.dev e.1 e.2) = false) : execWrite port fr s = .next ((s.taken fr p).nak port fr) := by
  have length := frameLines_length lines
  obtain ⟨i, hi, rfl⟩ := List.getElem_of_mem member
  have zipped : (ls[i], fr.payload[i]'(by omega)) ∈ ls.zip fr.payload := by
    have at' : (ls.zip fr.payload)[i]'(by rw [List.length_zip]; omega) = (ls[i], fr.payload[i]'(by omega)) := List.getElem_zip
    rw [← at']
    exact List.getElem_mem _
  have all : (wholePieces (ls.zip fr.payload)).all (fun x => x.spots.all ((s.taken fr p).spotWritable p)) = false := by
    rw [List.all_eq_false]
    refine ⟨_, List.mem_map.mpr ⟨_, zipped, rfl⟩, ?_⟩
    simp [Piece.spots, barred]
  unfold execWrite
  rw [enter_accepted he ha]
  dsimp only
  rw [whole, alone, lines, Option.bind_some, writePieces_whole]
  dsimp only
  rw [all]
  rfl

end

section

variable (ha : Accepted s port fr 2)

include ha

theorem exec_read_stray (lines : (s.taken fr p).frameLines p fr.dev (fr.addr / 2 ^ 40 + 1) = none) :
    execRead port fr s = .next ((s.taken fr p).nak port fr) := by
  unfold execRead
  rw [enter_accepted he ha]
  rw [lines]

theorem exec_read_lines {l : List Line} (lines : (s.taken fr p).frameLines p fr.dev (fr.addr / 2 ^ 40 + 1) = some ls)
    (read : (s.taken fr p).readPlns p (ls.map (·.2)) = (a, some l)) : execRead port fr s = .next (a.reply port fr 3 0 l) := by
  unfold execRead
  rw [enter_accepted he ha]
  rw [lines]
  dsimp only
  rw [read]

theorem exec_read_failed (lines : (s.taken fr p).frameLines p fr.dev (fr.addr / 2 ^ 40 + 1) = some ls)
    (read : (s.taken fr p).readPlns p (ls.map (·.2)) = (a, none)) : execRead port fr s = .next (a.nak port fr) := by
  unfold execRead
  rw [enter_accepted he ha]
  rw [lines]
  dsimp only
  rw [read]

end

section

variable (ha : Accepted s port fr 4)

include ha

theorem exec_atomic_held {e : BitVec 16 × W32} (held : ((s.taken fr p).session fr.src).atomics.find? (fun e => e.1 == fr.tag) = some e) :
    execAtomic port fr s = .next ((s.taken fr p).reply port fr 5 0 [oldLine e.2]) := by
  unfold execAtomic
  rw [enter_accepted he ha]
  rw [held]

variable (fresh : ((s.taken fr p).session fr.src).atomics.find? (fun e => e.1 == fr.tag) = none)

include fresh

theorem exec_atomic_refused (h : fr.dev % 4 ≠ 0 ∨ 3 < fld (fr.payload.headD 0) 3 0 ∨ (s.taken fr p).translate p fr.dev = none) :
    execAtomic port fr s = .next ((s.taken fr p).nak port fr) := by
  have none : (s.taken fr p).doAtomic p fr.dev (fr.payload.headD 0) = (s.taken fr p, Option.none) := by
    unfold State.doAtomic
    dsimp only
    obtain h | h | h := h
    · rw [if_pos (.inl h)]
    · rw [if_pos (.inr h)]
    · rw [h]
      exact ite_self _
  unfold execAtomic
  rw [enter_accepted he ha]
  rw [fresh]
  dsimp only
  rw [none]

/-- The result is held for the tag. -/
def atomicHeld (u : State) (fr : Frame) (old : W32) : State :=
  u.modSession fr.src (fun x => { x with atomics := ((fr.tag, old) :: x.atomics).take 4096 })

/-- What an ATOMIC stores, if it stores. -/
def atomicStored (a : State) (pln addr : Nat) (w : Line) (new : Option W32) : State :=
  match new with
  | some v => a.writeLine pln (setLine w (addr % 64) 4 v.toNat)
  | none => a

theorem exec_atomic {i pln : Nat} {w : Line} (place : (s.taken fr p).translate p fr.dev = some (i, pln)) (aligned : fr.dev % 4 = 0)
    (op : fld (fr.payload.headD 0) 3 0 ≤ 3) (own : (s.taken fr p).spotWritable p (.dev i pln) = true)
    (read : (s.taken fr p).readLine (ctlOf pln) pln p = (a, some w)) :
    execAtomic port fr s = .next ((atomicHeld (atomicStored a pln fr.dev w
      (atomicNew (0x30 + fld (fr.payload.headD 0) 3 0) (BitVec.ofNat 32 (lineNat w (fr.dev % 64) 4))
        (BitVec.ofNat 32 (lineNat (fr.payload.headD 0) 4 4)) (BitVec.ofNat 32 (lineNat (fr.payload.headD 0) 8 4)))) fr
      (BitVec.ofNat 32 (lineNat w (fr.dev % 64) 4))).reply port fr 5 0 [oldLine (BitVec.ofNat 32 (lineNat w (fr.dev % 64) 4))]) := by
  have done : (s.taken fr p).doAtomic p fr.dev (fr.payload.headD 0) = (atomicStored a pln fr.dev w
      (atomicNew (0x30 + fld (fr.payload.headD 0) 3 0) (BitVec.ofNat 32 (lineNat w (fr.dev % 64) 4))
        (BitVec.ofNat 32 (lineNat (fr.payload.headD 0) 4 4)) (BitVec.ofNat 32 (lineNat (fr.payload.headD 0) 8 4))),
      some (BitVec.ofNat 32 (lineNat w (fr.dev % 64) 4))) := by
    unfold State.doAtomic
    dsimp only
    rw [if_neg (by omega), place]
    dsimp only
    rw [own, read]
    dsimp only [Bool.not_true]
    unfold atomicStored
    cases atomicNew (0x30 + fld (fr.payload.headD 0) 3 0) (BitVec.ofNat 32 (lineNat w (fr.dev % 64) 4))
        (BitVec.ofNat 32 (lineNat (fr.payload.headD 0) 4 4)) (BitVec.ofNat 32 (lineNat (fr.payload.headD 0) 8 4)) <;> rfl
  unfold execAtomic
  rw [enter_accepted he ha]
  rw [fresh]
  dsimp only
  rw [done]
  rfl

end

/-! ### Answers -/

section

variable (ha : Accepted s port fr 5)

include ha

theorem exec_ack_none (none : (s.taken fr p).asked fr [1, 4] = none) : execAck port fr s = .next (s.taken fr p) := by
  unfold execAck
  rw [enter_accepted he ha, none]

theorem exec_ack {w : Sent} (some' : (s.taken fr p).asked fr [1, 4] = some w) :
    execAck port fr s = .next (((s.taken fr p).retryAnswered p w).dropSent w.tag w.dest) := by
  unfold execAck
  rw [enter_accepted he ha, some']

end

section

variable (ha : Accepted s port fr 6) (repair : s.asked fr [7] = none)

include ha repair

theorem exec_nak_none (none : (s.taken fr p).asked fr [1, 2, 4] = none) : execNak port fr s = .next (s.taken fr p) := by
  unfold execNak
  rw [repair]
  dsimp only
  rw [enter_accepted he ha, none]

theorem exec_nak {w : Sent} (some' : (s.taken fr p).asked fr [1, 2, 4] = some w) :
    execNak port fr s = .next (copyFailed (((s.taken fr p).retryAnswered p w).dropSent w.tag w.dest) w.copy) := by
  unfold execNak
  rw [repair]
  dsimp only
  rw [enter_accepted he ha, some']
  rfl

end

section

variable (ha : Accepted s port fr 3) (repair : s.asked fr [7] = none)

include ha repair

theorem exec_data_none (none : (s.taken fr p).asked fr [2] = none) : execData port fr s = .next (s.taken fr p) := by
  unfold execData
  rw [repair]
  dsimp only
  rw [enter_accepted he ha, none]

theorem exec_data_copy {w : Sent} {id : Nat} (some' : (s.taken fr p).asked fr [2] = some w) (copy : w.copy = some id) :
    execData port fr s = .next (((s.taken fr p).retryAnswered p w).copyData id w fr.payload) := by
  unfold execData
  rw [repair]
  dsimp only
  rw [enter_accepted he ha, some']
  dsimp only
  rw [copy]

theorem exec_data_alone {w : Sent} (some' : (s.taken fr p).asked fr [2] = some w) (copy : w.copy = none) :
    execData port fr s = .next ((s.taken fr p).dropSent w.tag w.dest) := by
  unfold execData
  rw [repair]
  dsimp only
  rw [enter_accepted he ha, some']
  dsimp only
  rw [copy]

end

/-- A member's descriptor joins the collectives'. -/
def collJoined (v : State) (p : Nat) (fr : Frame) : State :=
  { v with links := { v.links with colls := v.links.colls ++ [(p, fr.src, fr.payload.headD 0, v.time.now)] } }

theorem exec_coll (ha : Accepted s port fr 8) : execColl port fr s = .next ((s.copies.filter (fun c => c.partition == p && c.coll.isSome)).foldl
    (fun a k => a.collTry k.id) (collJoined (s.taken fr p) p fr)) := by
  have copies : (s.taken fr p).copies = s.copies := frameTaken_only.same .copies (by simp)
  unfold execColl
  rw [enter_accepted he ha]
  exact congrArg (fun l : List CopyJob => Host.Outcome.next ((l.filter (fun c => c.partition == p && c.coll.isSome)).foldl
    (fun a k => a.collTry k.id) (collJoined (s.taken fr p) p fr))) copies

end

theorem exec_data_repair {w : Sent} (ha : Accepted s port fr 3) (repair : s.asked fr [7] = some w) :
    execData port fr s = .next ((s.counted fr).peerAnswers (w.repair.getD 0) fr.payload.head?) := by
  unfold execData
  rw [repair]
  exact congrArg Host.Outcome.next (receive_accepted ha)

theorem exec_nak_repair {w : Sent} (ha : Accepted s port fr 6) (repair : s.asked fr [7] = some w) :
    execNak port fr s = .next ((s.counted fr).peerAnswers (w.repair.getD 0) none) := by
  unfold execNak
  rw [repair]
  exact congrArg Host.Outcome.next (receive_accepted ha)

/-! ### REPAIR (14 R359) -/

section

variable (ha : Accepted s port fr 7)

include ha

theorem exec_repair_unowned (owner : s.portOwner port = none) : execRepair port fr s = .next ((s.counted fr).nak port fr) := by
  have same : (s.counted fr).portOwner port = none := owner
  unfold execRepair
  rw [receive_accepted ha]
  dsimp only
  rw [same]

variable (owner : s.portOwner port = some p)

include owner

theorem exec_repair_refused (h : ((s.region (fr.addr % 256)).valid && (s.region (fr.addr % 256)).st == 2 && (s.region (fr.addr % 256)).locked &&
      (s.region (fr.addr % 256)).sharedImm && (s.region (fr.addr % 256)).readable p && s.keyed (s.region (fr.addr % 256))) = false ∨
      67108864 * (s.region (fr.addr % 256)).size ≤ 64 * (fr.addr / 256)) : execRepair port fr s = .next ((s.counted fr).nak port fr) := by
  have same : (s.counted fr).portOwner port = some p := owner
  unfold execRepair
  rw [receive_accepted ha]
  dsimp only
  rw [same]
  refine congrArg Host.Outcome.next (if_pos ?_)
  rw [Bool.or_eq_true, decide_eq_true_iff, Bool.not_eq_true']
  exact h

theorem exec_repair {l : Line} (h : ((s.region (fr.addr % 256)).valid && (s.region (fr.addr % 256)).st == 2 && (s.region (fr.addr % 256)).locked &&
      (s.region (fr.addr % 256)).sharedImm && (s.region (fr.addr % 256)).readable p && s.keyed (s.region (fr.addr % 256))) = true)
    (within : 64 * (fr.addr / 256) < 67108864 * (s.region (fr.addr % 256)).size)
    (read : (s.counted fr).readLine (ctlOf ((s.region (fr.addr % 256)).place (64 * (fr.addr / 256)))) ((s.region (fr.addr % 256)).place (64 * (fr.addr / 256)))
      0xFF = (a, some l)) : execRepair port fr s = .next (a.reply port fr 3 0 [l]) := by
  have same : (s.counted fr).portOwner port = some p := owner
  have place : (s.counted fr).region (fr.addr % 256) = s.region (fr.addr % 256) := rfl
  have keyed : (s.counted fr).keyed (s.region (fr.addr % 256)) = s.keyed (s.region (fr.addr % 256)) := rfl
  unfold execRepair
  rw [receive_accepted ha]
  dsimp only
  rw [same, place, keyed]
  dsimp only
  rw [h, decide_eq_false (by omega), read]
  rfl

end

end

end Sys2Proof.Proofs
end

section
/-! PROOF of EVENT and SESSION frames -/

namespace Sys2Proof.Proofs

open Sys2Proof Sys2Proof.Machine Sys2Proof.Laws

/-! ### EVENT and SESSION frames (15 R376, R383, R385) -/

section

variable {s t : State} {n d : Nat} {port : PortId} {fr : Frame}

/-- A session but for the moment when its last port went down. -/
def untimed (x : Session) : Session := { x with portsDown := none }

theorem portDown_session (reason k : Nat) : untimed ((s.portDown n reason).session k) = untimed (s.session k) := by
  unfold State.portDown
  extract_lets t d u fns v
  have told : Only [.out, .unsent, .fns, .buckets] u v := only_postTo (within_refl _) _ _ _ _ _ (only_refl _ u)
  have links : v.links = u.links := told.same .links (by simp)
  have session : v.session k = s.session k := by
    unfold State.session
    rw [links]
    rfl
  split
  · rw [session]
  · by_cases e : k = d
    · rw [e, modSession_session_same, ← e, session]
      rfl
    · rw [modSession_session_ne _ _ _ _ e, session]

theorem startTraining_session (k : Nat) : (s.startTraining n).session k = s.session k := by
  unfold State.startTraining
  split <;> rfl

/-- What a port that goes down and trains again leaves. -/
theorem retrained_port (reason : Nat) : let t := (s.portDown n reason).startTraining n
    Only [.out, .unsent, .fns, .buckets, .intr, .links] s t ∧ (∀ k, k ≠ n → t.port k = s.port k) ∧
    (∀ k, untimed (t.session k) = untimed (s.session k)) ∧
    (s.links.idLock = true → s.portEnabled n = true → (t.port n).mode = .training ∧ (t.port n).reason = reason) ∧
    (s.links.idLock = false ∨ s.portEnabled n = false → (t.port n).mode = .down) := by
  intro t
  have gone : Only [.out, .unsent, .fns, .buckets, .intr, .links] s (s.portDown n reason) := only_portDown (within_refl _) _ _ (only_refl _ s)
  have kept : Only [.out, .unsent, .fns, .buckets, .intr, .links] s t := only_startTraining (within_sub (by decide) (within_refl _)) n gone
  have session (k : Nat) : untimed (t.session k) = untimed (s.session k) := by
    rw [startTraining_session, portDown_session]
  obtain ⟨down, -, others, lock⟩ := portDown_facts (s := s) (n := n) reason
  have enabled : (s.portDown n reason).portEnabled n = s.portEnabled n := portEnabled_congr (gone.same .regs (by simp)) n
  by_cases trains : s.links.idLock = true ∧ s.portEnabled n = true
  · obtain ⟨mine, -, frame, -⟩ := startTraining_facts (s := s.portDown n reason) (n := n) (lock.trans trains.1) (enabled.trans trains.2)
    have port : t.port n = inTraining (s.portDown n reason) ((s.portDown n reason).port n) := mine
    refine ⟨kept, fun k hk => (frame.others k hk).trans (others.others k hk), session, fun _ _ => ?_, fun h => ?_⟩
    · rw [port, down]
      exact ⟨rfl, rfl⟩
    · rw [trains.1, trains.2] at h
      simp at h
  · have same : t = s.portDown n reason := startTraining_none (by rwa [lock, enabled])
    refine ⟨kept, fun k hk => ?_, session, fun h g => absurd ⟨h, g⟩ trains, fun _ => ?_⟩
    · rw [same]
      exact others.others k hk
    · rw [same, down]

variable (ha : Accepted s port fr 9)

include ha

theorem exec_event_reset (h : fr.addr = 1) : execEvent port fr s =
    .next ((((s.counted fr).modSession fr.src (fun _ => Session.reset)).portDown port 5).startTraining port) := by
  unfold execEvent
  rw [receive_accepted ha]
  exact congrArg Host.Outcome.next (if_pos h)

theorem exec_event_down (h : fr.addr = 2) : execEvent port fr s =
    .next (((s.counted fr).useFree.portDown port ((s.counted fr).freeVal.toNat % 8)).startTraining port) := by
  unfold execEvent
  rw [receive_accepted ha]
  exact congrArg Host.Outcome.next (if_neg (by omega))

theorem event_reset (h : fr.addr = 1) (lock : s.links.idLock = true) (on : s.portEnabled port = true) :
    Completes (.event port fr) s (fun t => (t.session fr.src).up = false ∧ (t.port port).mode = .training ∧ (t.port port).reason = 5 ∧
      t.mem = s.mem ∧ ∀ k, k ≠ port.val → t.port k = s.port k) := by
  obtain ⟨kept, others, session, trains, -⟩ := retrained_port (s := (s.counted fr).modSession fr.src (fun _ => Session.reset)) (n := port) 5
  obtain ⟨mode, reason⟩ := trains lock on
  refine completes_next (exec_event_reset ha h) ⟨?_, mode, reason, kept.same .mem (by simp), others⟩
  have reset := session fr.src
  rw [modSession_session_same] at reset
  have up := congrArg Session.up reset
  exact up

theorem event_down (h : fr.addr = 2) : Completes (.event port fr) s (fun t => t.mem = s.mem ∧ (∀ k, k ≠ port.val → t.port k = s.port k) ∧
    (s.links.idLock = true → s.portEnabled port = true → (t.port port).mode = .training) ∧
    (s.links.idLock = false ∨ s.portEnabled port = false → (t.port port).mode = .down)) := by
  obtain ⟨kept, others, -, trains, down⟩ := retrained_port (s := (s.counted fr).useFree) (n := port) ((s.counted fr).freeVal.toNat % 8)
  exact completes_next (exec_event_down ha h) ⟨kept.same .mem (by simp), others, fun lock on => (trains lock on).1, down⟩

end

section

variable {s : State} {port : PortId} {fr : Frame}

variable (up : (s.port port).isUp = true) (good : s.headerOk fr 10 = true)

include up good

theorem exec_session_in (valid : Bool) : execSession port fr valid s = .next (s.sessionMessageIn port fr.src fr.payload valid) := by
  unfold execSession
  rw [if_neg (by simp [up]), if_neg (by simp [good])]

theorem session_fails : Completes (.session port fr false) s (fun t => (t.session fr.src).up = false ∧
    (t.session fr.src).retryAt = some (s.time.now + 1000000000#64) ∧ (t.port port).mode = .down ∧ (t.port port).reason = 4 ∧ t.mem = s.mem) := by
  let u := s.modSession fr.src (fun x => { Session.reset with retryAt := some (s.time.now + 1000000000#64), portsDown := x.portsDown })
  have run : execSession port fr false s = .next (u.portDown port 4) := exec_session_in up good false
  obtain ⟨down, -, -, -⟩ := portDown_facts (s := u) (n := port) 4
  have kept : Only [.out, .unsent, .fns, .buckets, .intr, .links] u (u.portDown port 4) := only_portDown (within_refl _) _ _ (only_refl _ u)
  have session := portDown_session (s := u) (n := port) 4 fr.src
  have mine : u.session fr.src = { Session.reset with retryAt := some (s.time.now + 1000000000#64), portsDown := (s.session fr.src).portsDown } :=
    modSession_session_same _ _ _
  rw [mine] at session
  have failed := congrArg Session.up session
  have retry := congrArg Session.retryAt session
  refine completes_next run ⟨failed, retry, ?_, ?_, kept.same .mem (by simp)⟩ <;> rw [down]

/-- The first message of an attempt, and the answer to it. -/
def sessionFirst (s : State) (n d : Nat) : State :=
  let t := s.modSession d (fun y => { y with stage := 2 })
  if decide (s.links.moduleId.toNat < d) then t.sendSession n d 2 else t

omit up good in
theorem sessionFirst_facts (n d : Nat) : ((sessionFirst s n d).session d).stage = 2 ∧ (sessionFirst s n d).links.ports = s.links.ports ∧
    (sessionFirst s n d).mem = s.mem ∧ (sessionFirst s n d).out = s.out ++ (if s.links.moduleId.toNat < d then
      [.frame n (frameHeader 0xA 1 4 s.links.moduleId.toNat d 0 0 0) (s.sessionMessage d 2)] else []) := by
  have stage : ((s.modSession d (fun y => { y with stage := 2 })).session d).stage = 2 := by rw [modSession_session_same]
  unfold sessionFirst
  by_cases lower : s.links.moduleId.toNat < d
  · rw [decide_eq_true lower, if_pos rfl, if_pos lower]
    exact ⟨stage, rfl, rfl, rfl⟩
  · rw [decide_eq_false lower, if_neg (by simp), if_neg lower, List.append_nil]
    exact ⟨stage, rfl, rfl, rfl⟩

theorem exec_session_begins (stage : (s.session fr.src).stage = 0) : execSession port fr true s =
    .next (sessionFirst ((s.modSession fr.src (fun _ => Session.reset)).startSession port fr.src) port fr.src) := by
  rw [exec_session_in up good]
  unfold State.sessionMessageIn
  dsimp only
  rw [stage]
  rfl

theorem exec_session_answers (stage : (s.session fr.src).stage = 1) : execSession port fr true s = .next (sessionFirst s port fr.src) := by
  rw [exec_session_in up good]
  unfold State.sessionMessageIn
  dsimp only
  rw [stage]
  rfl

/-- The side with the higher ID sends the last message. -/
def sessionLast (s : State) (n d : Nat) : State := if decide (s.links.moduleId.toNat < d) then s else s.sendSession n d 3

omit up good in
theorem sessionLast_facts (n d : Nat) : (sessionLast s n d).links = s.links ∧ (sessionLast s n d).mem = s.mem := by
  unfold sessionLast
  split <;> exact ⟨rfl, rfl⟩

theorem exec_session_made (stage : 2 ≤ (s.session fr.src).stage) : execSession port fr true s =
    .next ((sessionLast s port fr.src).sessionMade fr.src fr.payload) := by
  have run : s.sessionMessageIn port fr.src fr.payload true = if decide (s.links.moduleId.toNat < fr.src) then s.sessionMade fr.src fr.payload
      else (s.sendSession port fr.src 3).sessionMade fr.src fr.payload := by
    unfold State.sessionMessageIn
    dsimp only
    obtain ⟨k, hk⟩ := Nat.exists_eq_add_of_le stage
    rw [hk, Nat.add_comm]
    rfl
  rw [exec_session_in up good, run]
  unfold sessionLast
  rw [apply_ite (fun u : State => u.sessionMade fr.src fr.payload)]

omit up good in
theorem sessionMade_facts (d : Nat) (payload : List Line) : ((s.sessionMade d payload).session d).up = true ∧
    ((s.sessionMade d payload).session d).key = Config.sessionKey (payload.flatMap lineBytes) ∧ ((s.sessionMade d payload).session d).atomics = [] ∧
    (s.sessionMade d payload).links.ports = s.links.ports ∧ (s.sessionMade d payload).mem = s.mem := by
  let u := s.modSession d (fun _ => { Session.reset with up := true, key := Config.sessionKey (payload.flatMap lineBytes) })
  have flushed : LinksFlushed u (s.sessionMade d payload) := linksFlushed_flushWaiting d
  have kept : Only [.out, .links] s (s.sessionMade d payload) := only_sessionMade (within_refl _) d payload (only_refl _ s)
  have session := flushed.session d
  rw [modSession_session_same] at session
  have open' := congrArg Session.up session
  have key := congrArg Session.key session
  have atomics := congrArg Session.atomics session
  exact ⟨open', key, atomics, flushed.ports, kept.same .mem (by simp)⟩

/-- Every SESSION message (R383). -/
theorem session_message : ((s.session fr.src).stage = 0 → Completes (.session port fr true) s (fun t => (t.session fr.src).stage = 2 ∧
      t.links.ports = s.links.ports ∧ t.mem = s.mem)) ∧
    ((s.session fr.src).stage = 1 → Completes (.session port fr true) s (fun t => (t.session fr.src).stage = 2 ∧
      t.links.ports = s.links.ports ∧ t.mem = s.mem ∧
      t.out = s.out ++ (if s.links.moduleId.toNat < fr.src then
        [.frame port (frameHeader 0xA 1 4 s.links.moduleId.toNat fr.src 0 0 0) (s.sessionMessage fr.src 2)] else []))) ∧
    (2 ≤ (s.session fr.src).stage → Completes (.session port fr true) s (fun t => (t.session fr.src).up = true ∧
      (t.session fr.src).key = Config.sessionKey (fr.payload.flatMap lineBytes) ∧ (t.session fr.src).atomics = [] ∧
      t.links.ports = s.links.ports ∧ t.mem = s.mem)) := by
  refine ⟨fun stage => ?_, fun stage => ?_, fun stage => ?_⟩
  · obtain ⟨second, ports, mem, -⟩ := sessionFirst_facts (s := (s.modSession fr.src (fun _ => Session.reset)).startSession port fr.src) port fr.src
    exact completes_next (exec_session_begins up good stage) ⟨second, ports, mem⟩
  · exact completes_next (exec_session_answers up good stage) (sessionFirst_facts _ _)
  · obtain ⟨open', key, atomics, ports, mem⟩ := sessionMade_facts (s := sessionLast s port fr.src) fr.src fr.payload
    obtain ⟨links, same⟩ := sessionLast_facts (s := s) port fr.src
    exact completes_next (exec_session_made up good stage) ⟨open', key, atomics, ports.trans (by rw [links]), mem.trans same⟩

end

end Sys2Proof.Proofs
end

section
/-! PROOF of frames that are not taken -/

namespace Sys2Proof.Proofs

open Sys2Proof Sys2Proof.Machine Sys2Proof.Laws

section

variable {s a : State} {port : PortId} {p typ : Nat} {fr : Frame} {i : Instr}

/-! ### Frames that are not taken (15 R379, R380, R384) -/

/-- The frames by their types. -/
def framesOf (port : PortId) (fr : Frame) : List (Instr × Nat) :=
  [(.write port fr, 1), (.read port fr, 2), (.data port fr, 3), (.atomic port fr, 4), (.ack port fr, 5), (.nak port fr, 6), (.repair port fr, 7),
    (.coll port fr, 8), (.event port fr, 9), (.session port fr true, 10), (.session port fr false, 10)]

/-- A frame but SESSION that is discarded wherever it is received. -/
theorem exec_frame_discarded (member : (i, typ) ∈ framesOf port fr) (protected' : typ ≠ 10)
    (enters : ∀ q, s.portOwner port = some q → Enters s port fr q) (h : ∀ f, s.receive port fr typ f = s.discardFrame port) :
    exec i s = .next (s.discardFrame port) := by
  simp only [framesOf, List.mem_cons, Prod.mk.injEq, List.not_mem_nil, or_false] at member
  obtain ⟨rfl, rfl⟩ | ⟨rfl, rfl⟩ | ⟨rfl, rfl⟩ | ⟨rfl, rfl⟩ | ⟨rfl, rfl⟩ | ⟨rfl, rfl⟩ | ⟨rfl, rfl⟩ | ⟨rfl, rfl⟩ | ⟨rfl, rfl⟩ | ⟨rfl, rfl⟩ | ⟨rfl, rfl⟩ := member
  · exact congrArg Host.Outcome.next (enter_discarded enters h)
  · exact congrArg Host.Outcome.next (enter_discarded enters h)
  · refine congrArg Host.Outcome.next ?_
    split
    · exact h _
    · exact enter_discarded enters h
  · exact congrArg Host.Outcome.next (enter_discarded enters h)
  · exact congrArg Host.Outcome.next (enter_discarded enters h)
  · refine congrArg Host.Outcome.next ?_
    split
    · exact h _
    · exact enter_discarded enters h
  · exact congrArg Host.Outcome.next (h _)
  · exact congrArg Host.Outcome.next (enter_discarded enters h)
  · exact congrArg Host.Outcome.next (h _)
  · exact absurd rfl protected'
  · exact absurd rfl protected'

theorem exec_session_discarded {valid : Bool} (up : (s.port port).isUp = true) (bad : s.headerOk fr 10 = false) :
    execSession port fr valid s = .next (s.discardFrame port) := by
  unfold execSession
  rw [if_neg (by simp [up]), if_pos (by simp [bad])]

theorem frame_badHeader (member : (i, typ) ∈ framesOf port fr) (up : (s.port port).isUp = true) (bad : s.headerOk fr typ = false)
    (enters : ∀ q, s.portOwner port = some q → Enters s port fr q) : exec i s = .next (s.discardFrame port) := by
  by_cases session : typ = 10
  · subst session
    simp [framesOf] at member
    obtain rfl | rfl := member <;> exact exec_session_discarded up bad
  · exact exec_frame_discarded member session enters fun _ => receive_badHeader up bad

/-- A frame for a partition that replays, or whose journal lacks room. -/
theorem frame_held (member : (i, typ) ∈ framesOf port fr) (request : typ ∈ [1, 2, 4, 5, 8]) (owner : s.portOwner port = some p)
    (h : s.replaying p = true ∨ s.journalRoom p (1 + fr.payload.length) = false) : exec i s = .next s := by
  simp only [framesOf, List.mem_cons, Prod.mk.injEq, List.not_mem_nil, or_false] at member
  obtain ⟨rfl, rfl⟩ | ⟨rfl, rfl⟩ | ⟨rfl, rfl⟩ | ⟨rfl, rfl⟩ | ⟨rfl, rfl⟩ | ⟨rfl, rfl⟩ | ⟨rfl, rfl⟩ | ⟨rfl, rfl⟩ | ⟨rfl, rfl⟩ | ⟨rfl, rfl⟩ | ⟨rfl, rfl⟩ := member
  · exact congrArg Host.Outcome.next (enter_held owner h)
  · exact congrArg Host.Outcome.next (enter_held owner h)
  · simp at request
  · exact congrArg Host.Outcome.next (enter_held owner h)
  · exact congrArg Host.Outcome.next (enter_held owner h)
  · simp at request
  · simp at request
  · exact congrArg Host.Outcome.next (enter_held owner h)
  · simp at request
  · simp at request
  · simp at request

/-- A request on a port that no partition holds. -/
theorem frame_unowned (member : (i, typ) ∈ framesOf port fr) (request : typ ∈ [1, 2, 4, 7]) (ha : Accepted s port fr typ)
    (owner : s.portOwner port = none) : exec i s = .next ((s.counted fr).nak port fr) := by
  have refused (g : State → Nat → State) : s.enter port fr typ (fun t => t.nak port fr) g = (s.counted fr).nak port fr := by
    rw [enter_unowned owner, receive_accepted ha]
  simp only [framesOf, List.mem_cons, Prod.mk.injEq, List.not_mem_nil, or_false] at member
  obtain ⟨rfl, rfl⟩ | ⟨rfl, rfl⟩ | ⟨rfl, rfl⟩ | ⟨rfl, rfl⟩ | ⟨rfl, rfl⟩ | ⟨rfl, rfl⟩ | ⟨rfl, rfl⟩ | ⟨rfl, rfl⟩ | ⟨rfl, rfl⟩ | ⟨rfl, rfl⟩ | ⟨rfl, rfl⟩ := member
  · exact congrArg Host.Outcome.next (refused _)
  · exact congrArg Host.Outcome.next (refused _)
  · simp at request
  · exact congrArg Host.Outcome.next (refused _)
  · simp at request
  · simp at request
  · exact exec_repair_unowned ha owner
  · simp at request
  · simp at request
  · simp at request
  · simp at request

end

end Sys2Proof.Proofs
end

section
/-! PROOF of what frames leave (O43) -/

namespace Sys2Proof.Proofs

open Sys2Proof Sys2Proof.Machine Sys2Proof.Laws

section

variable {s a : State} {port : PortId} {p typ : Nat} {fr : Frame} {w : Sent}

theorem atomicStored_only {pln addr : Nat} {x : Line} {new : Option W32} : Only [.mem] a (atomicStored a pln addr x new) := by
  unfold atomicStored
  split
  · exact writeLine_only _ _
  · exact only_refl _ a

theorem atomicHeld_atomics {u v : State} {old : W32} (h : u.session fr.src = v.session fr.src) :
    ((atomicHeld u fr old).session fr.src).atomics = ((fr.tag, old) :: (v.session fr.src).atomics).take 4096 := by
  unfold atomicHeld
  rw [modSession_session_same, h]

/-- An answer leaves what a session holds for its tags. -/
theorem reply_atomics {n : Nat} (typ addr : Nat) (ls : List Line) : ((s.reply n fr typ addr ls).session fr.src).atomics = (s.session fr.src).atomics := by
  have calmed := (linksFlushed_sendFrame (s := s) n fr.src typ fr.lc ls.length fr.tag.toNat addr ls).1.session fr.src
  have atomics := congrArg Session.atomics calmed
  exact atomics

/-- What an ATOMIC leaves that is held and answered. -/
theorem atomicAnswered_facts {u v : State} {n : Nat} {old : W32} (out : u.out = a.out) (h : u.session fr.src = v.session fr.src) :
    let t := (atomicHeld u fr old).reply n fr 5 0 [oldLine old]
    Answered a t n fr 5 [oldLine old] ∧ (t.session fr.src).atomics = ((fr.tag, old) :: (v.session fr.src).atomics).take 4096 ∧ t.mem = u.mem := by
  intro t
  have held : (atomicHeld u fr old).out = a.out := out
  have atomics : (t.session fr.src).atomics = _ := reply_atomics 5 0 _
  rw [atomics, atomicHeld_atomics h]
  exact ⟨answered_reply held (by simp) (by simp) 0, rfl, rfl⟩

/-- What an answer leaves of the packets and the copies. -/
theorem answered_facts {t : State} {types : List Nat} (found : t.asked fr types = some w) :
    Only [.out, .unsent, .parts, .fns, .buckets, .copies, .links] t ((t.retryAnswered p w).dropSent w.tag w.dest) ∧
    (∀ x, x ∈ ((t.retryAnswered p w).dropSent w.tag w.dest).links.sent → ¬(x.tag = fr.tag ∧ x.dest = fr.src)) ∧
    statuses ((t.retryAnswered p w).dropSent w.tag w.dest) = statuses t := by
  have retried : Only [.out, .unsent, .parts, .fns, .buckets] t (t.retryAnswered p w) := only_retryAnswered (within_refl _) p w (only_refl _ t)
  obtain ⟨gone, kept, -⟩ := dropSent_facts (s := t.retryAnswered p w) (tag := w.tag) (d := w.dest)
  have named := List.find?_some found
  simp only [Bool.and_eq_true, beq_iff_eq] at named
  obtain ⟨⟨tag, dest⟩, -⟩ := named
  refine ⟨only_dropSent (within_sub (by decide) (within_refl _)) _ _ (only_widen (by decide) retried), fun x hx => ?_, kept.trans ?_⟩
  · rw [← tag, ← dest]
    exact ((gone x).mp hx).2
  · unfold statuses
    rw [retried.same .copies (by simp)]

/-! ### What the frames leave (15 R381, R382) -/

section

variable (he : Enters s port fr p)

include he

/-- WRITE. -/
theorem frame_write (ha : Accepted s port fr 1) (whole : fr.addr / 2 ^ 40 = 0) (alone : (s.taken fr p).collWrite p 0 fr.dev fr.payload = none) :
    (∀ ls, (s.taken fr p).frameLines p fr.dev fr.payload.length = some ls →
      (∀ e, e ∈ ls → (s.taken fr p).spotWritable p (.dev e.1 e.2) = true) →
      Completes (.write port fr) s (fun t => Answered (s.taken fr p) t port fr 5 [] ∧ t.regs = s.regs ∧ t.memory.regions = s.memory.regions ∧
        t.mem = ((ls.zip fr.payload).foldl (fun (a : State) e => a.writeLine e.1.2 e.2) (s.taken fr p)).mem)) ∧
    ((s.taken fr p).frameLines p fr.dev fr.payload.length = none →
      Completes (.write port fr) s (fun t => t = (s.taken fr p).nak port fr ∧ t.mem = s.mem)) ∧
    (∀ ls e, (s.taken fr p).frameLines p fr.dev fr.payload.length = some ls → e ∈ ls → (s.taken fr p).spotWritable p (.dev e.1 e.2) = false →
      Completes (.write port fr) s (fun t => t = (s.taken fr p).nak port fr ∧ t.mem = s.mem)) := by
  have taken : Only [.out, .unsent, .parts, .fns, .buckets, .links] s (s.taken fr p) := frameTaken_only
  have refused : ((s.taken fr p).nak port fr).mem = s.mem := (nak_only.same .mem (by simp)).trans (taken.same .mem (by simp))
  refine ⟨fun ls lines writable => ?_, fun none => ?_, fun ls e lines member barred => ?_⟩
  · have written : Only [.mem] (s.taken fr p) (writeAll (ls.zip fr.payload) (s.taken fr p)) := writeAll_only _
    have regs := (written.same .regs (by simp)).trans (taken.same .regs (by simp))
    have memory := (written.same .memory (by simp)).trans (taken.same .memory (by simp))
    exact completes_next (exec_write_lines he ha whole alone lines writable) ⟨answered_reply (written.same .out (by simp)) (by simp) (by simp) 0,
      regs, congrArg Memory.regions memory, rfl⟩
  · exact completes_next (exec_write_stray he ha whole alone none) ⟨rfl, refused⟩
  · exact completes_next (exec_write_barred he ha whole alone lines member barred) ⟨rfl, refused⟩

/-- READ. -/
theorem frame_read (ha : Accepted s port fr 2) :
    ((s.taken fr p).frameLines p fr.dev (fr.addr / 2 ^ 40 + 1) = none →
      Completes (.read port fr) s (fun t => t = (s.taken fr p).nak port fr ∧ t.mem = s.mem)) ∧
    (∀ ls a r, (s.taken fr p).frameLines p fr.dev (fr.addr / 2 ^ 40 + 1) = some ls → (s.taken fr p).readPlns p (ls.map (·.2)) = (a, r) →
      (∀ l, r = some l → Completes (.read port fr) s (fun t => Answered a t port fr 3 l ∧ t.mem = a.mem)) ∧
      (r = none → Completes (.read port fr) s (fun t => t = a.nak port fr))) := by
  have taken : Only [.out, .unsent, .parts, .fns, .buckets, .links] s (s.taken fr p) := frameTaken_only
  refine ⟨fun none => ?_, fun ls a r lines read => ⟨fun l some' => ?_, fun none => ?_⟩⟩
  · exact completes_next (exec_read_stray he ha none) ⟨rfl, (nak_only.same .mem (by simp)).trans (taken.same .mem (by simp))⟩
  · subst some'
    have bound : fr.addr < 2 ^ 42 := of_decide_eq_true (headerOk_lines ha.2.1).2
    have length : l.length = ls.length := (readPlns_length (congrArg Prod.snd read)).trans (List.length_map _)
    have count := frameLines_length lines
    exact completes_next (exec_read_lines he ha lines read) ⟨answered_reply rfl (by simp) (by omega) 0, rfl⟩
  · subst none
    exact completes_next (exec_read_failed he ha lines read) rfl

/-- ATOMIC. -/
theorem frame_atomic (ha : Accepted s port fr 4) :
    (∀ e, ((s.taken fr p).session fr.src).atomics.find? (fun e => e.1 == fr.tag) = some e →
      Completes (.atomic port fr) s (fun t => Answered (s.taken fr p) t port fr 5 [oldLine e.2] ∧ t.mem = s.mem)) ∧
    (((s.taken fr p).session fr.src).atomics.find? (fun e => e.1 == fr.tag) = none →
      fr.dev % 4 ≠ 0 ∨ 3 < fld (fr.payload.headD 0) 3 0 ∨ (s.taken fr p).translate p fr.dev = none →
      Completes (.atomic port fr) s (fun t => t = (s.taken fr p).nak port fr ∧ t.mem = s.mem)) ∧
    (∀ i pln a w, ((s.taken fr p).session fr.src).atomics.find? (fun e => e.1 == fr.tag) = none → (s.taken fr p).translate p fr.dev = some (i, pln) →
      fr.dev % 4 = 0 → fld (fr.payload.headD 0) 3 0 ≤ 3 → (s.taken fr p).spotWritable p (.dev i pln) = true →
      (s.taken fr p).readLine (ctlOf pln) pln p = (a, some w) →
      let old : W32 := BitVec.ofNat 32 (lineNat w (fr.dev % 64) 4)
      let l := fr.payload.headD 0
      let new := atomicNew (0x30 + fld l 3 0) old (BitVec.ofNat 32 (lineNat l 4 4)) (BitVec.ofNat 32 (lineNat l 8 4))
      Completes (.atomic port fr) s (fun t => Answered a t port fr 5 [oldLine old] ∧
        (t.session fr.src).atomics = ((fr.tag, old) :: ((s.taken fr p).session fr.src).atomics).take 4096 ∧
        (∀ x, new = some x → t.mem = (a.writeLine pln (setLine w (fr.dev % 64) 4 x.toNat)).mem) ∧ (new = none → t.mem = a.mem))) := by
  have taken : Only [.out, .unsent, .parts, .fns, .buckets, .links] s (s.taken fr p) := frameTaken_only
  have same : (s.taken fr p).mem = s.mem := taken.same .mem (by simp)
  refine ⟨fun e held => ?_, fun fresh refused => ?_, fun i pln a w fresh place aligned op own read => ?_⟩
  · exact completes_next (exec_atomic_held he ha held) ⟨answered_reply rfl (by simp) (by simp) 0, same⟩
  · exact completes_next (exec_atomic_refused he ha fresh refused) ⟨rfl, (nak_only.same .mem (by simp)).trans same⟩
  · intro old l new
    have run := exec_atomic he ha fresh place aligned op own read
    have stored : Only [.mem] a (atomicStored a pln fr.dev w new) := atomicStored_only
    have session : (atomicStored a pln fr.dev w new).session fr.src = (s.taken fr p).session fr.src := by
      unfold State.session
      rw [stored.same .links (by simp), (readLine_some_only read).same .links (by simp)]
    obtain ⟨answered, held, mem⟩ := atomicAnswered_facts (n := port) (old := old) (stored.same .out (by simp)) session
    exact completes_next run ⟨answered, held, fun x hx => mem.trans (congrArg (fun n => (atomicStored a pln fr.dev w n).mem) hx),
      fun none => mem.trans (congrArg (fun n => (atomicStored a pln fr.dev w n).mem) none)⟩

/-- ACK. -/
theorem frame_ack (ha : Accepted s port fr 5) : Completes (.ack port fr) s (fun t => t.mem = s.mem ∧ t.regs = s.regs ∧
    ((s.taken fr p).asked fr [1, 4] = none → t = s.taken fr p) ∧
    ((s.taken fr p).asked fr [1, 4] ≠ none → ∀ x, x ∈ t.links.sent → ¬(x.tag = fr.tag ∧ x.dest = fr.src))) := by
  have taken : Only [.out, .unsent, .parts, .fns, .buckets, .links] s (s.taken fr p) := frameTaken_only
  cases found : (s.taken fr p).asked fr [1, 4] with
  | none =>
    exact completes_next (exec_ack_none he ha found) ⟨taken.same .mem (by simp), taken.same .regs (by simp), fun _ => rfl, fun h => absurd rfl h⟩
  | some w =>
    obtain ⟨only, gone, -⟩ := answered_facts (p := p) (t := s.taken fr p) found
    exact completes_next (exec_ack he ha found) ⟨(only.same .mem (by simp)).trans (taken.same .mem (by simp)),
      (only.same .regs (by simp)).trans (taken.same .regs (by simp)), fun h => absurd h (by simp), fun _ => gone⟩

/-- NAK. -/
theorem frame_nak (ha : Accepted s port fr 6) (repair : s.asked fr [7] = none) : Completes (.nak port fr) s (fun t => t.mem = s.mem ∧ t.regs = s.regs ∧
    ((s.taken fr p).asked fr [1, 2, 4] = none → t = s.taken fr p) ∧
    (∀ w, (s.taken fr p).asked fr [1, 2, 4] = some w → (∀ x, x ∈ t.links.sent → ¬(x.tag = fr.tag ∧ x.dest = fr.src)) ∧
      (∀ id, w.copy = some id → t.copies.map (fun c => (c.id, c.status)) =
        s.copies.map (fun c => (c.id, if c.id = id ∧ (c.status = 0 ∨ c.status = 0x37) then 0x36 else c.status))))) := by
  have taken : Only [.out, .unsent, .parts, .fns, .buckets, .links] s (s.taken fr p) := frameTaken_only
  cases found : (s.taken fr p).asked fr [1, 2, 4] with
  | none =>
    exact completes_next (exec_nak_none he ha repair found) ⟨taken.same .mem (by simp), taken.same .regs (by simp), fun _ => rfl,
      fun w h => absurd h (by simp)⟩
  | some w =>
    obtain ⟨only, gone, kept⟩ := answered_facts (p := p) (t := s.taken fr p) found
    obtain ⟨links, failed⟩ := copyFailed_facts (u := ((s.taken fr p).retryAnswered p w).dropSent w.tag w.dest) w.copy
    have copies : (s.taken fr p).copies = s.copies := taken.same .copies (by simp)
    refine completes_next (exec_nak he ha repair found) ⟨(failed.same .mem (by simp)).trans ((only.same .mem (by simp)).trans (taken.same .mem (by simp))),
      (failed.same .regs (by simp)).trans ((only.same .regs (by simp)).trans (taken.same .regs (by simp))), fun h => absurd h (by simp), fun k hk => ?_⟩
    obtain rfl := Option.some.inj hk
    rw [links]
    refine ⟨gone, fun id copy => ?_⟩
    rw [copy]
    refine statuses_failed_of (kept.trans ?_) id
    unfold statuses
    rw [copies]

/-- DATA. -/
theorem frame_data (ha : Accepted s port fr 3) (repair : s.asked fr [7] = none) :
    ((s.taken fr p).asked fr [2] = none → Completes (.data port fr) s (fun t => t = s.taken fr p)) ∧
    (∀ w id, (s.taken fr p).asked fr [2] = some w → w.copy = some id →
      Completes (.data port fr) s (fun t => t = ((s.taken fr p).retryAnswered p w).copyData id w fr.payload)) ∧
    (∀ w, (s.taken fr p).asked fr [2] = some w → w.copy = none → Completes (.data port fr) s (fun t => t = (s.taken fr p).dropSent w.tag w.dest)) :=
  ⟨fun none => completes_next (exec_data_none he ha repair none) rfl, fun _ _ found copy => completes_next (exec_data_copy he ha repair found copy) rfl,
    fun _ found copy => completes_next (exec_data_alone he ha repair found copy) rfl⟩

end

/-- REPAIR. -/
theorem frame_repair (ha : Accepted s port fr 7) (owner : s.portOwner port = some p) :
    let r := s.region (fr.addr % 256)
    let o := 64 * (fr.addr / 256)
    (r.valid = true → r.st = 2 → r.locked = true → r.sharedImm = true → r.readable p = true → s.keyed r = true →
      o < 67108864 * r.size → ∀ a l, (s.counted fr).readLine (ctlOf (r.place o)) (r.place o) 0xFF = (a, some l) →
      Completes (.repair port fr) s (fun t => Answered a t port fr 3 [l] ∧ t.mem = a.mem)) ∧
    ((r.valid && r.st == 2 && r.locked && r.sharedImm && r.readable p && s.keyed r) = false ∨ 67108864 * r.size ≤ o →
      Completes (.repair port fr) s (fun t => t = (s.counted fr).nak port fr ∧ t.mem = s.mem)) := by
  intro r o
  refine ⟨fun valid st locked shared readable keyed within a l read => ?_, fun refused => ?_⟩
  · have whole : (r.valid && r.st == 2 && r.locked && r.sharedImm && r.readable p && s.keyed r) = true := by
      rw [valid, st, locked, shared, readable, keyed]
      rfl
    exact completes_next (exec_repair ha owner whole within read) ⟨answered_reply rfl (by simp) (by simp) 0, rfl⟩
  · exact completes_next (exec_repair_refused ha owner refused) ⟨rfl, nak_only.same .mem (by simp)⟩

end

/-- Settles O43: a frame is held, discarded or taken as its port, its header and its session say, and each type that is taken has its case. -/
theorem framesAreTakenAndAnswered : Obligations.FramesAreTakenAndAnswered := by
  unfold Obligations.FramesAreTakenAndAnswered
  intro port fr s n u frames
  refine ⟨fun i typ member up bad enters => ?_, fun i typ member protected' up good bad enters => ?_, fun i typ p member request owner held => ?_,
    fun i typ member request ha owner => ?_, fun p he => ?_, fun ha w repair => ?_, fun ha w repair => ?_, fun ha p owner => frame_repair ha owner,
    fun ha => ⟨event_reset ha, event_down ha⟩, fun up good => ⟨session_fails up good, session_message up good⟩⟩
  · exact completes_next (frame_badHeader member up bad enters) rfl
  · exact completes_next (exec_frame_discarded member protected' enters fun _ => receive_unprotected up good bad) rfl
  · exact completes_next (frame_held member request owner held) rfl
  · exact completes_next (frame_unowned member request ha owner) ⟨rfl, nak_only.same .mem (by simp)⟩
  · exact ⟨frame_write he, frame_read he, frame_atomic he, frame_ack he, frame_nak he, frame_data he,
      fun ha => completes_next (exec_coll he ha) rfl⟩
  · exact completes_next (exec_data_repair ha repair) rfl
  · exact completes_next (exec_nak_repair ha repair) rfl

end Sys2Proof.Proofs
end

section
/-! PROOF of security operations begin and end (16 R402, R410) -/

namespace Sys2Proof.Proofs

open Sys2Proof Sys2Proof.Machine Sys2Proof.Laws

/-! ### A security operation begins (16 R402, R410) -/

section

variable {s : State} {fn : FnId} {arg : Option Line}

/-- An operation that begins, with the nonce that it leaves. -/
def secBegun (s : State) (arg : Option Line) (op : Nat) (n : Option (BitVec 256)) : State :=
  { s with sec := { s.sec with
    busy := true, op := arg.map (fun l => { op := op, arg := l, nonce := s.sec.nonce }), lost := if arg.isNone then op else 0, nonce := n } }

theorem secStart_begins (hf : fn.val = 0) (serves : s.secServes = true) (bar : s.bar0 0 = true) (idle : s.sec.busy = false) (op : Nat) :
    s.secStart fn op arg = secBegun s arg op (if 4 ≤ op then none else s.sec.nonce) := by
  unfold State.secStart
  rw [if_neg (by simp [hf, serves, bar, idle])]
  rfl

theorem secStart_busy (busy : s.sec.busy = true) (op : Nat) : s.secStart fn op arg = s := if_pos (by simp [busy])

theorem exec_nonce_drawn {fresh : BitVec 256} (hf : fn.val = 0) (serves : s.secServes = true) (bar : s.bar0 0 = true) (idle : s.sec.busy = false)
    (good : arg.any (fun l => zeroBytes l 32 64) = true) : execNonce fn ⟨arg, fresh⟩ s =
      .next ((secBegun s arg 1 (some fresh)).hostWrite 0 (64 * fld (s.reg 0 0x90000) 63 6) (toBytes 32 fresh.toNat)) := by
  unfold execNonce
  dsimp only
  rw [if_neg (by simp [hf, serves, bar, idle, good]), secStart_begins hf serves bar idle]
  rfl

theorem exec_nonce_refused {fresh : BitVec 256} (hf : fn.val = 0) (serves : s.secServes = true) (bar : s.bar0 0 = true) (idle : s.sec.busy = false)
    (bad : arg.any (fun l => zeroBytes l 32 64) = false) : execNonce fn ⟨arg, fresh⟩ s = .next (secBegun s arg 1 s.sec.nonce) := by
  unfold execNonce
  dsimp only
  rw [if_pos (by simp [bad]), secStart_begins hf serves bar idle]
  rfl

theorem exec_nonce_busy {fresh : BitVec 256} (busy : s.sec.busy = true) : execNonce fn ⟨arg, fresh⟩ s = .next s := by
  unfold execNonce
  dsimp only
  rw [if_pos (by simp [busy]), secStart_busy busy]

/-- The operations but NONCE, by their numbers. -/
def secOps (fn : FnId) (arg : Option Line) : List (Instr × Nat) :=
  [(.update fn arg, 2), (.commitFloor fn arg, 3), (.enrol fn arg, 4), (.revoke fn arg, 5), (.unlock fn arg, 6)]

theorem exec_secOps {i : Instr} {op : Nat} (member : (i, op) ∈ secOps fn arg) : exec i s = .next (s.secStart fn op arg) := by
  simp only [secOps, List.mem_cons, Prod.mk.injEq, List.not_mem_nil, or_false] at member
  obtain ⟨rfl, rfl⟩ | ⟨rfl, rfl⟩ | ⟨rfl, rfl⟩ | ⟨rfl, rfl⟩ | ⟨rfl, rfl⟩ := member <;> rfl

end

/-! ### A security operation ends (16 R402, R412) -/

section

variable {s t u : State} {body sig : Option (List Byte)} {flashOk : Bool}

/-- What an operation ends with, from the state and the status that it leaves. -/
def secSettled (r : State × Nat) : State :=
  { r.1 with sec := { r.1.sec with busy := false, op := none, lost := 0, status := BitVec.ofNat 8 r.2 } }

/-- The end of an operation: line 58, and the measurements that waited. -/
def secEnded (r : State × Nat) : State :=
  let t := (secSettled r).latch 58
  if t.sec.opening then t else t.answerWaiting

theorem exec_sec_idle (idle : s.sec.busy = false) : execSecOperationComplete body sig flashOk s = .next s :=
  congrArg Host.Outcome.next (if_pos (by simp [idle]))

theorem exec_sec_ends (busy : s.sec.busy = true) : execSecOperationComplete body sig flashOk s = .next (secEnded (s.secResult body sig flashOk)) :=
  congrArg Host.Outcome.next (if_neg (by simp [busy]))

/-- The security core but for the requests that wait. -/
def waitless (x : Sec) : Sec := { x with waitingReports := [] }

theorem answerWaiting_sec : s.answerWaiting.sec = waitless s.sec := by
  unfold State.answerWaiting
  refine List.foldlRecOn (motive := fun u : State => u.sec = waitless s.sec) _ _ rfl fun u h w _ => ?_
  split
  · exact h
  · exact h

theorem secEnded_sec (r : State × Nat) : waitless (secEnded r).sec = waitless (secSettled r).sec := by
  unfold secEnded
  dsimp only
  split
  · rfl
  · rw [answerWaiting_sec]
    rfl

theorem secEnded_only (r : State × Nat) : Only [.out, .intr, .sec] r.1 (secEnded r) := by
  have settled : Only [.out, .intr, .sec] r.1 ((secSettled r).latch 58) :=
    only_latch (within_sub (by decide) (within_refl _)) 58 (only_set_sec (within_sub (by decide) (within_refl _)) _ (only_refl _ r.1))
  unfold secEnded
  dsimp only
  split
  · exact settled
  · exact only_answerWaiting (within_sub (by decide) (within_refl _)) settled

/-- What the end of an operation leaves as the operation left it. -/
structure SecLeft (u t : State) : Prop where
  flash : t.sec.flash = u.sec.flash
  slots : t.sec.slots = u.sec.slots
  nonce : t.sec.nonce = u.sec.nonce
  failed : t.sec.failedUnlocks = u.sec.failedUnlocks
  debugOpen : t.sec.debugOpen = u.sec.debugOpen
  opening : t.sec.opening = u.sec.opening
  library : t.sec.library = u.sec.library
  loading : t.sec.loading = u.sec.loading

theorem secEnded_left (r : State × Nat) : SecLeft r.1 (secEnded r) := by
  have same := secEnded_sec r
  have flash := congrArg Sec.flash same
  have slots := congrArg Sec.slots same
  have nonce := congrArg Sec.nonce same
  have failed := congrArg Sec.failedUnlocks same
  have debugOpen := congrArg Sec.debugOpen same
  have opening := congrArg Sec.opening same
  have library := congrArg Sec.library same
  have loading := congrArg Sec.loading same
  exact ⟨flash, slots, nonce, failed, debugOpen, opening, library, loading⟩

theorem secEnded_status (r : State × Nat) : (secEnded r).sec.busy = false ∧ (secEnded r).sec.op = none ∧
    (secEnded r).sec.status = BitVec.ofNat 8 r.2 := by
  have same := secEnded_sec r
  have busy := congrArg Sec.busy same
  have op := congrArg Sec.op same
  have status := congrArg Sec.status same
  exact ⟨busy, op, status⟩

/-- An operation has ended with a status, and memory and the registers stand. -/
def SecEnds (s t : State) (st : Nat) : Prop :=
  t.sec.busy = false ∧ t.sec.op = none ∧ t.sec.status = BitVec.ofNat 8 st ∧ t.mem = s.mem ∧ t.regs = s.regs

/-- The completion of an operation, from what the operation leaves and its status. -/
theorem sec_completes {st : Nat} {P : State → Prop} (busy : s.sec.busy = true) (result : s.secResult body sig flashOk = (u, st))
    (mem : u.mem = s.mem) (regs : u.regs = s.regs) (h : ∀ t, SecLeft u t → P t) :
    Completes (.secOperationComplete body sig flashOk) s (fun t => SecEnds s t st ∧ P t) := by
  have run : execSecOperationComplete body sig flashOk s = .next (secEnded (u, st)) := by rw [exec_sec_ends busy, result]
  have only := secEnded_only (u, st)
  obtain ⟨idle, none, status⟩ := secEnded_status (u, st)
  exact completes_next run ⟨⟨idle, none, status, (only.same .mem (by simp)).trans mem, (only.same .regs (by simp)).trans regs⟩,
    h _ (secEnded_left (u, st))⟩

end

end Sys2Proof.Proofs
end

section
/-! PROOF of UPDATE and COMMIT (16 R399, R400) -/

namespace Sys2Proof.Proofs

open Sys2Proof Sys2Proof.Machine Sys2Proof.Laws

section

variable {s : State} {o : SecOp} {body sig : Option (List Byte)} {flashOk : Bool}

/-! ### UPDATE (16 R400; 06 R191) -/

section

variable {bs img : List Byte} {g : Nat}

theorem secResult_update (op : s.sec.op = some o) (two : o.op = 2) : s.secResult body sig flashOk = s.doUpdate o.arg body flashOk := by
  unfold State.secResult
  rw [op]
  dsimp only
  rw [two]
  rfl

/-- The form of an UPDATE's argument block and of its image. -/
def updateForm (a : Line) (bs : List Byte) : Prop :=
  lineNat a 4 4 ≤ bs.length ∧ zeroBytes a 1 4 = true ∧ zeroBytes a 16 64 = true

theorem doUpdate_image {a : Line} (form : updateForm a bs) (target : lineNat a 0 1 ≤ 2) :
    s.doUpdate a (some bs) flashOk = s.updateImage (lineNat a 0 1) (bs.take (lineNat a 4 4)) flashOk := by
  obtain ⟨long, low, high⟩ := form
  unfold State.doUpdate
  dsimp only
  rw [if_neg (by simp [low, high]; omega), if_neg (by omega), if_neg (by omega), if_neg (by omega)]

theorem doUpdate_held {a : Line} (form : updateForm a bs) (target : lineNat a 0 1 = 3) (held : s.anyTdiHeld = true) :
    s.doUpdate a body flashOk = (s, 0x0A) := by
  obtain ⟨-, low, high⟩ := form
  unfold State.doUpdate
  dsimp only
  rw [if_neg (by simp [low, high, target]), if_pos (by simp [target, held])]

theorem doUpdate_library {a : Line} (form : updateForm a bs) (target : lineNat a 0 1 = 3) (free : s.anyTdiHeld = false) :
    s.doUpdate a (some bs) flashOk = s.updateLibrary (bs.take (lineNat a 4 4)) flashOk := by
  obtain ⟨long, low, high⟩ := form
  unfold State.doUpdate
  dsimp only
  rw [if_neg (by simp [low, high, target]), if_neg (by simp [free]), if_neg (by omega), if_pos target]

/-- The bank that did not boot, with its new content. -/
def bankPut (s : State) (g : Nat) (img : List Byte) : Flash :=
  { s.sec.flash with banks := Tab.set (fun _ => none) s.sec.flash.banks (2 * g + (1 - fld s.sec.bootedBank g g)) (some img) }

theorem bankPut_bank : (bankPut s g img).bank g (1 - fld s.sec.bootedBank g g) = img := by
  unfold Flash.bank bankPut
  rw [tab_get_set_same]
  rfl

theorem bankPut_others {k : Nat} (h : k ≠ 2 * g + (1 - fld s.sec.bootedBank g g)) :
    Tab.get (fun _ => none) (bankPut s g img).banks k = Tab.get (fun _ => none) s.sec.flash.banks k := tab_get_set_ne _ _ _ _ _ h

theorem updateImage_shapeless (shape : imageLayout g img = false) : s.updateImage g img flashOk = (s, 0x01) := if_pos (by simp [shape])

theorem updateImage_unsigned (shape : imageLayout g img = true) (signed : imageSigned img = false) : s.updateImage g img flashOk = (s, 0x03) := by
  unfold State.updateImage
  dsimp only
  rw [if_neg (by simp [shape]), if_pos (by simp [signed])]

theorem updateImage_old (shape : imageLayout g img = true) (signed : imageSigned img = true) (old : imageVersion img < s.sec.flash.floor g) :
    s.updateImage g img flashOk = (s, 0x04) := by
  unfold State.updateImage
  dsimp only
  rw [if_neg (by simp [shape]), if_neg (by simp [signed]), if_pos old]

theorem updateImage_failed (shape : imageLayout g img = true) (signed : imageSigned img = true) (new : s.sec.flash.floor g ≤ imageVersion img) :
    s.updateImage g img false = (s.setFlash (bankPut s g []), 0x09) := by
  unfold State.updateImage
  dsimp only
  rw [if_neg (by simp [shape]), if_neg (by simp [signed]), if_neg (by omega)]
  rfl

theorem updateImage_stored (shape : imageLayout g img = true) (signed : imageSigned img = true) (new : s.sec.flash.floor g ≤ imageVersion img) :
    s.updateImage g img true = (s.setFlash (bankPut s g img), 0) := by
  unfold State.updateImage
  dsimp only
  rw [if_neg (by simp [shape]), if_neg (by simp [signed]), if_neg (by omega)]
  rfl

/-- The library is in flash, and its load has begun. -/
def libraryStored (s : State) (img : List Byte) : State :=
  let t := s.setFlash { s.sec.flash with library := some img }
  let t := { t with sec := { t.sec with loading := true } }
  (t.engines.map (·.1)).foldl (fun (u : State) e => State.resumeOne (u.engine e).src u e) t

theorem updateLibrary_refused {st : Nat} (bad : s.sec.flash.checkLibrary img = .inr st) : s.updateLibrary img flashOk = (s, st) := by
  unfold State.updateLibrary
  dsimp only
  rw [bad]

theorem updateLibrary_stored {x : Library} (good : s.sec.flash.checkLibrary img = .inl x) : s.updateLibrary img true = (libraryStored s img, 0) := by
  unfold State.updateLibrary
  dsimp only
  rw [good]
  rfl

theorem libraryStored_only : Only [.stackTab, .engines] { s with sec := { s.sec with flash := { s.sec.flash with library := some img }, loading := true } }
    (libraryStored s img) :=
  only_foldl _ (only_refl _ _) fun _ _ h => only_resumeOne (within_refl _) _ _ h

variable (busy : s.sec.busy = true) (op : s.sec.op = some o) (two : o.op = 2) (some' : body = some bs) (form : updateForm o.arg bs)

include busy op two some' form

/-- UPDATE of an image. -/
theorem update_image (target : lineNat o.arg 0 1 ≤ 2) :
    let f := s.sec.flash
    let g := lineNat o.arg 0 1
    let img := bs.take (lineNat o.arg 4 4)
    let secs (st : Nat) (flashOk : Bool) (P : State → Prop) : Prop :=
      Completes (.secOperationComplete body sig flashOk) s (fun t => SecEnds s t st ∧ P t)
    (imageLayout g img = false → secs 1 true (fun t => t.sec.flash = f)) ∧
    (imageLayout g img = true → imageSigned img = false → secs 3 true (fun t => t.sec.flash = f)) ∧
    (imageLayout g img = true → imageSigned img = true → imageVersion img < f.floor g → secs 4 true (fun t => t.sec.flash = f)) ∧
    (imageLayout g img = true → imageSigned img = true → f.floor g ≤ imageVersion img → secs 9 false (fun t =>
      t.sec.flash.bank g (1 - fld s.sec.bootedBank g g) = [] ∧ t.sec.flash.floors = f.floors)) ∧
    (imageLayout g img = true → imageSigned img = true → f.floor g ≤ imageVersion img → secs 0 true (fun t =>
      t.sec.flash.bank g (1 - fld s.sec.bootedBank g g) = img ∧ t.sec.flash.floors = f.floors ∧ t.sec.flash.library = f.library ∧
      (∀ k, k ≠ 2 * g + (1 - fld s.sec.bootedBank g g) →
        Tab.get (fun _ => none) t.sec.flash.banks k = Tab.get (fun _ => none) f.banks k))) := by
  intro f g img secs
  have result (ok : Bool) : s.secResult body sig ok = s.updateImage g img ok := by
    rw [secResult_update op two, some', doUpdate_image form target]
  refine ⟨fun shape => ?_, fun shape signed => ?_, fun shape signed old => ?_, fun shape signed new => ?_, fun shape signed new => ?_⟩
  · exact sec_completes busy ((result true).trans (updateImage_shapeless shape)) rfl rfl fun t left => left.flash
  · exact sec_completes busy ((result true).trans (updateImage_unsigned shape signed)) rfl rfl fun t left => left.flash
  · exact sec_completes busy ((result true).trans (updateImage_old shape signed old)) rfl rfl fun t left => left.flash
  · refine sec_completes busy ((result false).trans (updateImage_failed shape signed new)) rfl rfl fun t left => ?_
    have flash : t.sec.flash = bankPut s g [] := left.flash
    rw [flash]
    exact ⟨bankPut_bank, rfl⟩
  · refine sec_completes busy ((result true).trans (updateImage_stored shape signed new)) rfl rfl fun t left => ?_
    have flash : t.sec.flash = bankPut s g img := left.flash
    rw [flash]
    exact ⟨bankPut_bank, rfl, rfl, fun k hk => bankPut_others hk⟩

/-- UPDATE of the library. -/
theorem update_library (target : lineNat o.arg 0 1 = 3) :
    let f := s.sec.flash
    let img := bs.take (lineNat o.arg 4 4)
    let secs (st : Nat) (P : State → Prop) : Prop := Completes (.secOperationComplete body sig true) s (fun t => SecEnds s t st ∧ P t)
    (s.anyTdiHeld = true → secs 0x0A (fun t => t.sec.flash = f)) ∧
    (s.anyTdiHeld = false → ∀ st, f.checkLibrary img = .inr st → secs st (fun t => t.sec.flash = f)) ∧
    (s.anyTdiHeld = false → ∀ x, f.checkLibrary img = .inl x → secs 0 (fun t => t.sec.flash.library = some img ∧
      t.sec.loading = true ∧ t.sec.library = s.sec.library ∧ t.sec.flash.banks = f.banks ∧ t.sec.flash.floors = f.floors)) := by
  intro f img secs
  refine ⟨fun held => ?_, fun free st bad => ?_, fun free x good => ?_⟩
  · exact sec_completes busy ((secResult_update op two).trans (doUpdate_held form target held)) rfl rfl fun t left => left.flash
  · have result : s.secResult body sig true = (s, st) := by
      rw [secResult_update op two, some', doUpdate_library form target free, updateLibrary_refused bad]
    exact sec_completes busy result rfl rfl fun t left => left.flash
  · have result : s.secResult body sig true = (libraryStored s img, 0) := by
      rw [secResult_update op two, some', doUpdate_library form target free, updateLibrary_stored good]
    have stored := libraryStored_only (s := s) (img := img)
    have sec := stored.same .sec (by simp)
    refine sec_completes busy result (stored.same .mem (by simp)) (stored.same .regs (by simp)) fun t left => ?_
    have flash := congrArg Sec.flash sec
    have loading := congrArg Sec.loading sec
    have library := congrArg Sec.library sec
    rw [left.flash, flash]
    exact ⟨rfl, left.loading.trans loading, left.library.trans library, rfl, rfl⟩

end

/-! ### COMMIT (16 R399) -/

theorem secResult_commit (op : s.sec.op = some o) (three : o.op = 3) : s.secResult body sig flashOk = s.doCommit o.arg flashOk := by
  unfold State.secResult
  rw [op]
  dsimp only
  rw [three]
  rfl

/-- The floors with a floor raised to a version. -/
def floorRaised (s : State) (k v : Nat) : Flash :=
  { s.sec.flash with floors := Tab.set (fun _ => 0) s.sec.flash.floors k (BitVec.ofNat 32 (max v (s.sec.flash.floor k))) }

theorem runningVersion_lt {k v : Nat} (h : s.runningVersion k = some v) : v < 2 ^ 32 := by
  unfold State.runningVersion at h
  split at h
  · exact Option.some.inj h ▸ BitVec.isLt _
  · split at h
    · split at h
      · exact Option.some.inj h ▸ BitVec.isLt _
      · cases h
    · cases h

theorem floorRaised_floor {k v : Nat} (h : v < 2 ^ 32) : (floorRaised s k v).floor k = max v (s.sec.flash.floor k) := by
  have low : s.sec.flash.floor k < 2 ^ 32 := BitVec.isLt _
  have least : max v (s.sec.flash.floor k) < 2 ^ 32 := Nat.max_lt.mpr ⟨h, low⟩
  have entry : (floorRaised s k v).floor k = (BitVec.ofNat 32 (max v (s.sec.flash.floor k))).toNat := congrArg BitVec.toNat (tab_get_set_same _ _ _ _)
  rw [entry, BitVec.toNat_ofNat, Nat.mod_eq_of_lt least]

theorem floorRaised_others {k v i : Nat} (h : i ≠ k) : (floorRaised s k v).floor i = s.sec.flash.floor i :=
  congrArg BitVec.toNat (tab_get_set_ne _ _ _ _ _ h)

section

variable {v : Nat} (target : lineNat o.arg 0 1 ≤ 7) (zero : zeroBytes o.arg 1 64 = true) (running : s.runningVersion (lineNat o.arg 0 1) = some v)

include target zero running

theorem doCommit_failed : s.doCommit o.arg false = (s, 0x09) := by
  unfold State.doCommit
  dsimp only
  rw [if_neg (by simp [zero]; omega), running]
  rfl

theorem doCommit_raised : s.doCommit o.arg true = (s.setFlash (floorRaised s (lineNat o.arg 0 1) v), 0) := by
  unfold State.doCommit
  dsimp only
  rw [if_neg (by simp [zero]; omega), running]
  rfl

/-- COMMIT raises a floor to the running version. -/
theorem commit_floor (busy : s.sec.busy = true) (op : s.sec.op = some o) (three : o.op = 3) :
    let f := s.sec.flash
    let secs (st : Nat) (flashOk : Bool) (P : State → Prop) : Prop :=
      Completes (.secOperationComplete body sig flashOk) s (fun t => SecEnds s t st ∧ P t)
    secs 0 true (fun t => t.sec.flash.floor (lineNat o.arg 0 1) = max v (f.floor (lineNat o.arg 0 1)) ∧
      (∀ k, k ≠ lineNat o.arg 0 1 → t.sec.flash.floor k = f.floor k) ∧ t.sec.flash.banks = f.banks) ∧
    secs 9 false (fun t => t.sec.flash = f) := by
  intro f secs
  constructor
  · refine sec_completes busy ((secResult_commit op three).trans (doCommit_raised target zero running)) rfl rfl fun t left => ?_
    have flash : t.sec.flash = floorRaised s (lineNat o.arg 0 1) v := left.flash
    rw [flash]
    exact ⟨floorRaised_floor (runningVersion_lt running), fun k hk => floorRaised_others hk, rfl⟩
  · exact sec_completes busy ((secResult_commit op three).trans (doCommit_failed target zero running)) rfl rfl fun t left => left.flash

end

end

end Sys2Proof.Proofs
end

section
/-! PROOF of ENROL, REVOKE and a refused UNLOCK (16 R401, R410) -/

namespace Sys2Proof.Proofs

open Sys2Proof Sys2Proof.Machine Sys2Proof.Laws

section

variable {s : State} {o : SecOp} {body sig : Option (List Byte)} {flashOk : Bool}

/-! ### An operation without its argument block, and NONCE (16 R402) -/

/-- A refused UNLOCK is counted. -/
def unlockCounted (s : State) : State := { s with sec := { s.sec with failedUnlocks := satAdd 255 s.sec.failedUnlocks 1 } }

theorem secResult_lost (none : s.sec.op = none) : s.secResult body sig flashOk = if s.sec.lost = 6 then
    (unlockCounted s, if 16 ≤ s.sec.failedUnlocks then 0x08 else 0x02) else (s, 0x02) := by
  unfold State.secResult
  rw [none]
  rfl

theorem sec_lost (busy : s.sec.busy = true) (none : s.sec.op = none) : Completes (.secOperationComplete body sig flashOk) s (fun t =>
    t.sec.busy = false ∧ t.sec.status = (if s.sec.lost = 6 ∧ 16 ≤ s.sec.failedUnlocks then 8 else 2) ∧ t.sec.flash = s.sec.flash ∧
    t.sec.nonce = s.sec.nonce ∧ t.sec.failedUnlocks = (if s.sec.lost = 6 then satAdd 255 s.sec.failedUnlocks 1 else s.sec.failedUnlocks) ∧
    t.sec.slots = s.sec.slots ∧ t.mem = s.mem ∧ t.regs = s.regs) := by
  have result := secResult_lost (body := body) (sig := sig) (flashOk := flashOk) none
  by_cases unlock : s.sec.lost = 6
  · rw [if_pos unlock] at result
    obtain ⟨t, run, ⟨idle, -, status, mem, regs⟩, flash, nonce, failed, slots⟩ := sec_completes
      (P := fun t => t.sec.flash = s.sec.flash ∧ t.sec.nonce = s.sec.nonce ∧ t.sec.failedUnlocks = satAdd 255 s.sec.failedUnlocks 1 ∧
        t.sec.slots = s.sec.slots) busy result rfl rfl fun t left => ⟨left.flash, left.nonce, left.failed, left.slots⟩
    refine ⟨t, run, idle, ?_, flash, nonce, by rw [failed, if_pos unlock], slots, mem, regs⟩
    rw [status]
    by_cases many : 16 ≤ s.sec.failedUnlocks
    · rw [if_pos many, if_pos ⟨unlock, many⟩]
      rfl
    · rw [if_neg many, if_neg fun h => many h.2]
      rfl
  · rw [if_neg unlock] at result
    obtain ⟨t, run, ⟨idle, -, status, mem, regs⟩, flash, nonce, failed, slots⟩ := sec_completes
      (P := fun t => t.sec.flash = s.sec.flash ∧ t.sec.nonce = s.sec.nonce ∧ t.sec.failedUnlocks = s.sec.failedUnlocks ∧
        t.sec.slots = s.sec.slots) busy result rfl rfl fun t left => ⟨left.flash, left.nonce, left.failed, left.slots⟩
    refine ⟨t, run, idle, ?_, flash, nonce, by rw [failed, if_neg unlock], slots, mem, regs⟩
    rw [status, if_neg fun h => unlock h.1]
    rfl

theorem sec_nonce (busy : s.sec.busy = true) (op : s.sec.op = some o) (one : o.op = 1) :
    Completes (.secOperationComplete body sig flashOk) s (fun t =>
      t.sec.busy = false ∧ t.sec.status = (if zeroBytes o.arg 32 64 then 0 else 1) ∧ t.sec.flash = s.sec.flash ∧
      t.sec.nonce = s.sec.nonce ∧ t.sec.slots = s.sec.slots ∧ t.mem = s.mem ∧ t.regs = s.regs) := by
  have result : s.secResult body sig flashOk = (s, if zeroBytes o.arg 32 64 then 0 else 0x01) := by
    unfold State.secResult
    rw [op]
    dsimp only
    rw [one]
    rfl
  obtain ⟨t, run, ⟨idle, -, status, mem, regs⟩, flash, nonce, slots⟩ := sec_completes
    (P := fun t => t.sec.flash = s.sec.flash ∧ t.sec.nonce = s.sec.nonce ∧ t.sec.slots = s.sec.slots) busy result rfl rfl
    fun t left => ⟨left.flash, left.nonce, left.slots⟩
  refine ⟨t, run, idle, ?_, flash, nonce, slots, mem, regs⟩
  rw [status]
  split <;> rfl

/-! ### ENROL and REVOKE (16 R398, R401) -/

/-- The key that an ENROL brings; a REVOKE brings none. -/
def broughtKey (o : SecOp) (body : Option (List Byte)) : Option (List Byte) := if o.op = 4 then body.map (·.take 1312) else none

/-- What the slot takes. -/
def ownerMade (o : SecOp) (body : Option (List Byte)) : Option OwnerKey :=
  (broughtKey o body).map (fun k => { key := k, rights := BitVec.ofNat 8 (lineNat o.arg 1 1) })

theorem secResult_owner (op : s.sec.op = some o) (h : o.op = 4 ∨ o.op = 5) : s.secResult body sig flashOk = s.doOwner o body sig flashOk := by
  unfold State.secResult
  rw [op]
  dsimp only
  obtain h | h := h <;> rw [h] <;> rfl

/-- The form of the argument block of an ENROL or a REVOKE. -/
structure OwnerForm (o : SecOp) : Prop where
  least : 1 ≤ lineNat o.arg 0 1
  most : lineNat o.arg 0 1 ≤ 4
  rights : lineNat o.arg 1 1 ≤ 3
  auth : lineNat o.arg 2 1 ≤ 4
  low : zeroBytes o.arg 3 8 = true
  high : zeroBytes o.arg 24 64 = true

theorem OwnerForm.passes (form : OwnerForm o) : ¬ (lineNat o.arg 0 1 = 0 ∨ 4 < lineNat o.arg 0 1 ∨ 3 < lineNat o.arg 1 1 ∨ 4 < lineNat o.arg 2 1 ∨
    (!zeroBytes o.arg 3 8) = true ∨ (!zeroBytes o.arg 24 64) = true) := by
  obtain ⟨least, most, rights, auth, low, high⟩ := form
  simp only [low, high, Bool.not_true, Bool.false_eq_true, or_false]
  omega

theorem doOwner_refused (form : OwnerForm o) (refused : s.slotRefused o.op (lineNat o.arg 0 1) = true) : s.doOwner o body sig flashOk = (s, 0x07) := by
  unfold State.doOwner
  dsimp only
  rw [if_neg form.passes, if_pos refused]

/-- The signature that authorises an ENROL or a REVOKE. -/
def OwnerSigned (s : State) (o : SecOp) (body sig : Option (List Byte)) : Prop :=
  ∃ n g k, o.nonce = some n ∧ sig = some g ∧ s.sec.flash.owner (lineNat o.arg 2 1) = some k ∧ bitAt k.rights 0 = true ∧
    Config.verify k.key (ownerMessage o.op (lineNat o.arg 0 1) (lineNat o.arg 1 1) (broughtKey o body) n) g = true

section

variable (form : OwnerForm o) (free : s.slotRefused o.op (lineNat o.arg 0 1) = false) (long : o.op = 4 → 1312 ≤ (body.getD []).length)

include form free long

theorem doOwner_done (signed : s.sec.flash.filled = [] ∨ OwnerSigned s o body sig) :
    s.doOwner o body sig true = (s.setOwner (lineNat o.arg 0 1) (ownerMade o body), 0) := by
  unfold State.doOwner
  dsimp only
  rw [if_neg form.passes, if_neg (by simp [free]), if_neg (fun h => by have := long h.1; omega)]
  obtain none | ⟨n, g, k, nonce, sig', owner, right, verified⟩ := signed
  · rw [if_pos (by simp [none])]
    rfl
  · split
    · rfl
    · unfold broughtKey at verified
      rw [nonce, sig']
      dsimp only
      rw [owner]
      dsimp only
      rw [right, verified]
      rfl

theorem doOwner_unsigned {n : BitVec 256} {g : List Byte} {k : OwnerKey} (filled : s.sec.flash.filled ≠ []) (nonce : o.nonce = some n) (sig' : sig = some g)
    (owner : s.sec.flash.owner (lineNat o.arg 2 1) = some k) (bad : bitAt k.rights 0 = false ∨
      Config.verify k.key (ownerMessage o.op (lineNat o.arg 0 1) (lineNat o.arg 1 1) (broughtKey o body) n) g = false) :
    s.doOwner o body sig flashOk = (s, 0x03) := by
  unfold State.doOwner
  dsimp only
  rw [if_neg form.passes, if_neg (by simp [free]), if_neg (fun h => by have := long h.1; omega), if_neg (by simp [filled])]
  unfold broughtKey at bad
  rw [nonce, sig']
  dsimp only
  rw [owner]
  dsimp only
  obtain bad | bad := bad <;> simp [bad]

end

/-- The owner slots with one of them changed. -/
def ownerSlots (s : State) (slot : Nat) (x : Option OwnerKey) : Flash := { s.sec.flash with owners := Tab.set (fun _ => none) s.sec.flash.owners slot x }

theorem ownerSlots_owner (slot : Nat) (x : Option OwnerKey) : (ownerSlots s slot x).owner slot = x := tab_get_set_same _ _ _ _

theorem ownerSlots_others {slot k : Nat} (x : Option OwnerKey) (h : k ≠ slot) : (ownerSlots s slot x).owner k = s.sec.flash.owner k :=
  tab_get_set_ne _ _ _ _ _ h

theorem extend_same (k : Nat) (d : BitVec 256) : (s.extend k d).slotValue k = sha3 (toBytes 32 (s.slotValue k).toNat ++ toBytes 32 d.toNat) :=
  tab_get_set_same _ _ _ _

theorem extend_ne {k i : Nat} (d : BitVec 256) (h : i ≠ k) : (s.extend k d).slotValue i = s.slotValue i := tab_get_set_ne _ _ _ _ _ h

theorem setOwner_facts (slot : Nat) (x : Option OwnerKey) : (s.setOwner slot x).sec.flash = ownerSlots s slot x ∧
    (s.setOwner slot x).slotValue 4 = sha3 (toBytes 32 (s.slotValue 4).toNat ++ toBytes 32 (sha3 (ownerSlots s slot x).ownerSet).toNat) ∧
    (∀ k, k ≠ 4 → (s.setOwner slot x).slotValue k = s.slotValue k) := by
  refine ⟨rfl, ?_, fun k hk => ?_⟩
  · exact extend_same (s := s.setFlash (ownerSlots s slot x)) 4 _
  · exact extend_ne (s := s.setFlash (ownerSlots s slot x)) _ hk

/-- ENROL and REVOKE. -/
theorem enrol_revoke (busy : s.sec.busy = true) (op : s.sec.op = some o) (h : o.op = 4 ∨ o.op = 5) (form : OwnerForm o) :
    let f := s.sec.flash
    let slot := lineNat o.arg 0 1
    let secs (st : Nat) (P : State → Prop) : Prop := Completes (.secOperationComplete body sig true) s (fun t => SecEnds s t st ∧ P t)
    (s.slotRefused o.op slot = true → secs 7 (fun t => t.sec.flash = f)) ∧
    (s.slotRefused o.op slot = false → (o.op = 4 → ∃ b, body = some b ∧ 1312 ≤ b.length) →
      (f.filled = [] ∨ OwnerSigned s o body sig →
        secs 0 (fun t => t.sec.flash.owner slot = ownerMade o body ∧ (∀ k, k ≠ slot → t.sec.flash.owner k = f.owner k) ∧
          t.slotValue 4 = sha3 (toBytes 32 (s.slotValue 4).toNat ++ toBytes 32 (sha3 t.sec.flash.ownerSet).toNat) ∧
          (∀ k, k ≠ 4 → t.slotValue k = s.slotValue k) ∧ t.sec.flash.banks = f.banks)) ∧
      (∀ n g k, f.filled ≠ [] → o.nonce = some n → sig = some g → f.owner (lineNat o.arg 2 1) = some k →
        bitAt k.rights 0 = false ∨ Config.verify k.key (ownerMessage o.op slot (lineNat o.arg 1 1) (broughtKey o body) n) g = false →
        secs 3 (fun t => t.sec.flash = f))) := by
  intro f slot secs
  have result : s.secResult body sig true = s.doOwner o body sig true := secResult_owner op h
  refine ⟨fun refused => ?_, fun free brought => ?_⟩
  · exact sec_completes busy (result.trans (doOwner_refused form refused)) rfl rfl fun t left => left.flash
  · have long : o.op = 4 → 1312 ≤ (body.getD []).length := fun four => by
      obtain ⟨b, rfl, long⟩ := brought four
      exact long
    refine ⟨fun signed => ?_, fun n g k filled nonce sig' owner bad => ?_⟩
    · refine sec_completes busy (result.trans (doOwner_done form free long signed)) rfl rfl fun t left => ?_
      obtain ⟨flash, four, others⟩ := setOwner_facts (s := s) slot (ownerMade o body)
      have slots := slotValue_congr left.slots
      rw [left.flash, flash, slots]
      exact ⟨ownerSlots_owner _ _, fun k hk => ownerSlots_others _ hk, four, fun k hk => (slots k).trans (others k hk), rfl⟩
    · exact sec_completes busy (result.trans (doOwner_unsigned form free long filled nonce sig' owner bad)) rfl rfl fun t left => left.flash

/-! ### UNLOCK that is refused (16 R410) -/

theorem secResult_unlock (op : s.sec.op = some o) (six : o.op = 6) : s.secResult body sig flashOk = s.endUnlock o body := by
  unfold State.secResult
  rw [op]
  dsimp only
  rw [six]
  rfl

theorem unlock_refused (busy : s.sec.busy = true) (op : s.sec.op = some o) (six : o.op = 6) (bad : s.tokenStatus o body ≠ 0 ∨ 16 ≤ s.sec.failedUnlocks) :
    Completes (.secOperationComplete body sig flashOk) s (fun t => SecEnds s t (if 16 ≤ s.sec.failedUnlocks then 8 else s.tokenStatus o body) ∧
      t.sec.failedUnlocks = satAdd 255 s.sec.failedUnlocks 1 ∧ t.sec.debugOpen = s.sec.debugOpen ∧ t.sec.flash = s.sec.flash) := by
  have status : (if 16 ≤ s.sec.failedUnlocks then 0x08 else s.tokenStatus o body) ≠ 0 := by
    by_cases many : 16 ≤ s.sec.failedUnlocks
    · rw [if_pos many]
      simp
    · rw [if_neg many]
      exact bad.resolve_right many
  have result : s.secResult body sig flashOk = (unlockCounted s, if 16 ≤ s.sec.failedUnlocks then 0x08 else s.tokenStatus o body) := by
    rw [secResult_unlock op six]
    exact if_neg status
  exact sec_completes busy result rfl rfl fun t left => ⟨left.failed, left.debugOpen, left.flash⟩

end

end Sys2Proof.Proofs
end

section
/-! PROOF of what the terminations of an UNLOCK keep (16 R411) -/

namespace Sys2Proof.Proofs

open Sys2Proof Sys2Proof.Machine Sys2Proof.Laws

/-! ### UNLOCK with a valid token (16 R408, R411)

The port opens when no confidential partition is left. A termination touches the jobs of its partition alone, and no termination ends while
the others begin, so what the steps leave is told by the security core and by which partitions are confidential. -/

section

variable {s t u : State} {p q : Nat}

/-- The security core but for the wear log, the keys and the SPDM session. -/
def spared (x : Sec) : Sec := { wearless x with memKeys := 0, spdm := false }

/-- What the steps of an UNLOCK keep: the security core so far, and whether a partition is held, and how it is set up. -/
def tenure (p : Nat) (s : State) : Sec × Bool × Applied := (spared s.sec, s.holds p, (s.part p).applied)

theorem tenure_of_ending (h : ending p t = ending p s) : tenure p t = tenure p s := by
  obtain ⟨-, -, sec, -, mode, -, applied, -⟩ := ending_fields h
  have core : wearless t.sec = wearless s.sec := sec
  have slot : (t.part p).mode = (s.part p).mode := mode
  have setUp : (t.part p).applied = (s.part p).applied := applied
  unfold tenure spared State.holds
  rw [core, slot, setUp]

theorem tenure_of_outline (h : outline p t = outline p s) : tenure p t = tenure p s := tenure_of_ending (ending_of_outline h)

/-- A change of a partition that leaves whether it is held, and its set-up. -/
theorem tenure_modPart (n : Nat) {f : Part → Part} (mode : ((f (s.part n)).mode ≠ .empty ↔ (s.part n).mode ≠ .empty))
    (applied : (f (s.part n)).applied = (s.part n).applied) : tenure p (s.modPart n f) = tenure p s := by
  unfold tenure State.holds
  by_cases e : p = n
  · subst e
    rw [modPart_part_same, applied, decide_eq_decide.mpr mode]
    rfl
  · rw [modPart_part_ne s n f p e]
    rfl

theorem tenure_endJob (n status fault detail detail2 : Nat) : tenure p (s.endJob q n status fault detail detail2) = tenure p s := by
  unfold State.endJob
  split
  · rfl
  next j _ =>
    have released := ending_modClusters (p := p) (s := s) j.clusters (fun x => if x.job = some (q, n) then x.release else x)
    exact (tenure_of_outline (outline_putRing p _ _ _ _)).trans ((tenure_modPart q Iff.rfl rfl).trans (tenure_of_ending released))

theorem tenure_endWork : tenure p (s.endWork q) = tenure p s := by
  unfold State.endWork
  extract_lets t u
  have jobs : tenure p u = tenure p t := foldl_keeps (tenure p) _ (fun _ _ => tenure_endJob _ _ _ _ _) _ t
  have round : tenure p ((u.endRequests q 0x19).emptyRound q) = tenure p u :=
    tenure_of_outline ((outline_emptyRound p _ q).trans (outline_endRequests p _ q _))
  exact round.trans (jobs.trans (tenure_of_ending (ending_stopPartition q)))

theorem tenure_destroyKeys : tenure p (s.destroyKeys q) = tenure p s := by
  have round (f : Round → Round) : tenure p (s.modRound q f) = tenure p s := tenure_of_outline (outline_modRound p s q f)
  unfold State.destroyKeys
  exact round _

theorem tenure_regionsRefused (l : List Nat) (s : State) :
    tenure p (l.foldl (fun u n => if (u.region n).st = 2 then (u.leaveRegion n).setRegionState n 3 else u) s) = tenure p s :=
  tenure_of_ending (ending_regionsRefused l s)

theorem tenure_keysDropped (t : State) : tenure p { t.dropIde with sec := { t.sec with spdm := false } } = tenure p t := rfl

/-- A held partition that is releasing is held still. -/
theorem tenure_releasing (held : s.holds q = true) :
    tenure p (s.modPart q (fun x => { x with mode := .releasing, digests := [], digestList := [] })) = tenure p s :=
  tenure_modPart q ⟨fun _ => of_decide_eq_true held, fun _ => by simp⟩ rfl

theorem tenure_tdiFails : tenure p (s.tdiFails q) = tenure p s := tenure_modPart q Iff.rfl rfl

/-- What an UNLOCK's steps keep, and the terminations that they add. -/
structure Unlocking (s t : State) : Prop where
  sec : { spared t.sec with terminating := [] } = { spared s.sec with terminating := [] }
  confidential : ∀ p, t.confidential p = s.confidential p
  grows : ∃ l, t.sec.terminating = s.sec.terminating ++ l

theorem unlocking_refl : Unlocking s s := ⟨rfl, fun _ => rfl, [], (List.append_nil _).symm⟩

theorem unlocking_trans (h : Unlocking s t) (g : Unlocking t u) : Unlocking s u := by
  obtain ⟨l, hl⟩ := h.grows
  obtain ⟨m, hm⟩ := g.grows
  exact ⟨g.sec.trans h.sec, fun p => (g.confidential p).trans (h.confidential p), l ++ m, by rw [hm, hl, List.append_assoc]⟩

theorem holds_of_tenure (h : tenure p t = tenure p s) : t.holds p = s.holds p := congrArg (fun x : Sec × Bool × Applied => x.2.1) h

theorem unlocking_of_tenure (h : ∀ p, tenure p t = tenure p s) : Unlocking s t := by
  have sec : spared t.sec = spared s.sec := congrArg Prod.fst (h 0)
  have terminating := congrArg Sec.terminating sec
  refine ⟨by rw [sec], fun p => ?_, [], terminating.trans (List.append_nil _).symm⟩
  have held := holds_of_tenure (h p)
  have applied : (t.part p).applied = (s.part p).applied := congrArg (fun x : Sec × Bool × Applied => x.2.2) (h p)
  unfold State.confidential
  rw [held, applied]

theorem unlocking_added (h : Unlocking s t) (e : Nat × Nat) :
    Unlocking s { t with sec := { t.sec with terminating := t.sec.terminating ++ [e] } } := by
  obtain ⟨sec, confidential, l, grows⟩ := h
  exact ⟨sec, confidential, l ++ [e], by rw [← List.append_assoc, ← grows]⟩

/-- A termination adds itself, and of a confidential partition there is then one. -/
theorem unlocking_terminate (q cause : Nat) : Unlocking s (s.terminate q cause) ∧
    (s.confidential q = true → (s.terminate q cause).sec.terminating ≠ []) := by
  by_cases skip : (!s.confidential q || s.sec.terminating.any (fun e => e.1 == q)) = true
  · have same : s.terminate q cause = s := if_pos skip
    rw [same]
    refine ⟨unlocking_refl, fun confidential none => ?_⟩
    simp [confidential, none] at skip
  · unfold State.terminate
    rw [if_neg skip]
    extract_lets t1 t2 t3 t4 t5
    have held : s.holds q = true := by
      simp only [State.confidential] at skip
      cases h : s.holds q
      · simp [h] at skip
      · rfl
    have keys (p : Nat) : tenure p t1 = tenure p s := tenure_destroyKeys
    have work (p : Nat) : tenure p t2 = tenure p t1 :=
      (tenure_of_outline ((outline_stopJournal p _ q).trans (outline_failCopies p _ q))).trans tenure_endWork
    have failed (p : Nat) : tenure p (t2.tdiFails q) = tenure p t2 := tenure_tdiFails
    have still : (t2.tdiFails q).holds q = true := (holds_of_tenure ((failed q).trans ((work q).trans (keys q)))).trans held
    have releasing (p : Nat) : tenure p t3 = tenure p (t2.tdiFails q) := tenure_releasing still
    have regions (p : Nat) : tenure p t5 = tenure p t3 :=
      (tenure_of_outline (outline_dropTensors p t4 q)).trans (tenure_regionsRefused _ t3)
    have ended : Unlocking s t5 := unlocking_of_tenure fun p => (regions p).trans ((releasing p).trans ((failed p).trans ((work p).trans (keys p))))
    exact ⟨unlocking_added ended (q, cause), fun _ => List.append_ne_nil_of_right_ne_nil _ (by simp)⟩

theorem unlocking_nonempty (h : Unlocking s t) (some' : s.sec.terminating ≠ []) : t.sec.terminating ≠ [] := by
  obtain ⟨l, hl⟩ := h.grows
  rw [hl]
  exact List.append_ne_nil_of_left_ne_nil some' l

/-- The terminations of a list of partitions. -/
theorem unlocking_terminateAll (l : List Nat) (cause : Nat) : Unlocking s (l.foldl (fun u p => u.terminate p cause) s) ∧
    ((∃ p, p ∈ l ∧ s.confidential p = true) → (l.foldl (fun u p => u.terminate p cause) s).sec.terminating ≠ []) := by
  induction l generalizing s with
  | nil => exact ⟨unlocking_refl, fun ⟨p, hp, _⟩ => absurd hp (by simp)⟩
  | cons a l ih =>
    rw [List.foldl_cons]
    obtain ⟨one, first⟩ := unlocking_terminate (s := s) a cause
    obtain ⟨rest, later⟩ := ih (s := s.terminate a cause)
    refine ⟨unlocking_trans one rest, fun ⟨p, hp, confidential⟩ => ?_⟩
    obtain rfl | hp := List.mem_cons.mp hp
    · exact unlocking_nonempty rest (first confidential)
    · exact later ⟨p, hp, (one.confidential p).trans confidential⟩

theorem terminateAll_none (l : List Nat) (cause : Nat) (h : ∀ p, p ∈ l → s.confidential p = false) :
    l.foldl (fun u p => u.terminate p cause) s = s := by
  induction l with
  | nil => rfl
  | cons a l ih =>
    rw [List.foldl_cons, terminate_ordinary (h a List.mem_cons_self)]
    exact ih fun p hp => h p (List.mem_cons_of_mem _ hp)

theorem tenure_dropKeys : tenure p s.dropKeys = tenure p s := by
  unfold State.dropKeys
  extract_lets t
  have keys : tenure p t = tenure p s.endSessions := foldl_keeps (tenure p) (fun (u : State) p => if u.holds p then u.destroyKeys p else u)
    (fun u q => by
      split
      · exact tenure_destroyKeys
      · rfl) _ _
  have sessions : tenure p s.endSessions = tenure p s := tenure_of_outline (outline_endSessions p s)
  have same : tenure p { t.dropIde with sec := { t.sec with spdm := false } } = tenure p t := tenure_keysDropped t
  exact same.trans (keys.trans sessions)

theorem unlocking_dropKeys : Unlocking s s.dropKeys := unlocking_of_tenure fun _ => tenure_dropKeys

theorem terminating_of_tenure (h : tenure p t = tenure p s) : t.sec.terminating = s.sec.terminating :=
  congrArg (fun x : Sec × Bool × Applied => x.1.terminating) h

end

end Sys2Proof.Proofs
end

section
/-! PROOF of the opening of the debug port, and LIBRARY_LOAD (O44) -/

namespace Sys2Proof.Proofs

open Sys2Proof Sys2Proof.Machine Sys2Proof.Laws

section

variable {s t u : State} {o : SecOp} {body sig : Option (List Byte)} {flashOk : Bool}

/-! ### The debug port opens (16 R411, R412) -/

/-- The security core once the debug port is open. -/
def portOpened (x : Sec) : Sec := if x.opening && x.terminating.isEmpty then { x with opening := false, debugOpen := true } else x

theorem openedSec_fields (x : Sec) : (portOpened x).slots = x.slots ∧ (portOpened x).flash.banks = x.flash.banks ∧
    (portOpened x).failedUnlocks = x.failedUnlocks := by
  unfold portOpened
  split <;> exact ⟨rfl, rfl, rfl⟩

theorem openPort_sec : waitless s.openPort.sec = waitless (portOpened s.sec) := by
  have told (u : State) : (u.postFatalAll 8 1 0 0).sec = u.sec := (only_postFatalAll (within_refl _) 8 1 0 0 (only_refl _ u)).same .sec (by simp)
  unfold State.openPort portOpened
  split
  · rw [answerWaiting_sec, told]
    rfl
  · rfl

/-- The poste restante keys of the partitions that stay are made again. -/
def renewAll (s : State) : State :=
  (List.range 8).foldl (fun (u : State) p => if u.holds p && !u.confidential p && !(u.part p).applied.confidential then u.renewPoste p else u) s

/-- An opening of the debug port is asked for. -/
def askOpening (s : State) : State := { s with sec := { s.sec with opening := true } }

/-- The terminations of an UNLOCK. -/
def terminateAll (s : State) : State := (List.range 8).foldl (fun (u : State) p => u.terminate p 1) s

theorem unlocking_all : Unlocking s (terminateAll s) ∧
    ((∃ p, p ∈ List.range 8 ∧ s.confidential p = true) → (terminateAll s).sec.terminating ≠ []) := by
  unfold terminateAll
  exact unlocking_terminateAll (List.range 8) 1

theorem terminateAll_ordinary (h : ∀ p, p < 8 → s.confidential p = false) : terminateAll s = s := by
  unfold terminateAll
  exact terminateAll_none _ 1 fun p hp => h p (List.mem_range.mp hp)

theorem doUnlock_eq (token : List Byte) : s.doUnlock token = (askOpening (renewAll (terminateAll (s.dropKeys.extend 6 (sha3 token))))).openPort := by
  unfold State.doUnlock askOpening renewAll terminateAll
  with_reducible rfl

theorem renewAll_sec : (renewAll s).sec = s.sec := by
  have renewed : Only [.free, .out, .unsent, .clusters, .stackTab, .engines, .parts, .fns, .buckets, .intr] s (renewAll s) :=
    only_foldl _ (only_refl _ s) fun u p h => by
      split
      · exact only_renewPoste (within_refl _) p h
      · exact h
  exact renewed.same .sec (by simp)

/-- What an UNLOCK leaves of the security core, but for the requests that wait. -/
theorem doUnlock_sec (token : List Byte) : waitless (s.doUnlock token).sec =
    waitless (portOpened { (terminateAll (s.dropKeys.extend 6 (sha3 token))).sec with opening := true }) := by
  rw [doUnlock_eq, openPort_sec]
  have asked (u : State) : (askOpening (renewAll u)).sec = { u.sec with opening := true } := by
    have sec := renewAll_sec (s := u)
    unfold askOpening
    rw [sec]
  rw [asked]

theorem unlocking_fields (h : Unlocking s t) : t.sec.slots = s.sec.slots ∧ t.sec.flash.banks = s.sec.flash.banks ∧
    t.sec.failedUnlocks = s.sec.failedUnlocks ∧ t.sec.debugOpen = s.sec.debugOpen := by
  have slots := congrArg Sec.slots h.sec
  have banks := congrArg (fun x : Sec => x.flash.banks) h.sec
  have failed := congrArg Sec.failedUnlocks h.sec
  have port := congrArg Sec.debugOpen h.sec
  exact ⟨slots, banks, failed, port⟩

theorem extend_fields (k : Nat) (d : BitVec 256) : (s.extend k d).sec.flash = s.sec.flash ∧ (s.extend k d).sec.failedUnlocks = s.sec.failedUnlocks ∧
    (s.extend k d).sec.debugOpen = s.sec.debugOpen ∧ (s.extend k d).sec.terminating = s.sec.terminating ∧
    (∀ p, (s.extend k d).confidential p = s.confidential p) := ⟨rfl, rfl, rfl, rfl, fun _ => rfl⟩

/-- What the steps before the terminations leave. -/
theorem tokenTaken_facts (token : List Byte) : let t := s.dropKeys.extend 6 (sha3 token)
    t.slotValue 6 = sha3 (toBytes 32 (s.slotValue 6).toNat ++ toBytes 32 (sha3 token).toNat) ∧ t.sec.flash.banks = s.sec.flash.banks ∧
    t.sec.failedUnlocks = s.sec.failedUnlocks ∧ t.sec.debugOpen = s.sec.debugOpen ∧ (∀ p, t.confidential p = s.confidential p) ∧
    t.sec.terminating = s.sec.terminating := by
  intro t
  have dropped := unlocking_dropKeys (s := s)
  obtain ⟨slots, banks, failed, port⟩ := unlocking_fields dropped
  have slot : t.slotValue 6 = sha3 (toBytes 32 (s.dropKeys.slotValue 6).toNat ++ toBytes 32 (sha3 token).toNat) := extend_same 6 _
  rw [slotValue_congr slots 6] at slot
  obtain ⟨flash', failed', port', terminating', confidential'⟩ := extend_fields (s := s.dropKeys) 6 (sha3 token)
  refine ⟨slot, ?_, failed'.trans failed, port'.trans port, fun p => (confidential' p).trans (dropped.confidential p),
    terminating'.trans (terminating_of_tenure (p := 0) tenure_dropKeys)⟩
  rw [flash']
  exact banks

/-- What the opening leaves of the security core, once every termination has begun. -/
theorem opened_facts {a : State} (sec : waitless t.sec = waitless (portOpened { (terminateAll a).sec with opening := true })) :
    t.sec.failedUnlocks = a.sec.failedUnlocks ∧ t.sec.flash.banks = a.sec.flash.banks ∧ t.sec.slots = a.sec.slots ∧
    (a.sec.terminating = [] → (∀ p, p < 8 → a.confidential p = false) → t.sec.debugOpen = true ∧ t.sec.opening = false) ∧
    (∀ p, p < 8 → a.confidential p = true → t.sec.debugOpen = a.sec.debugOpen ∧ t.sec.opening = true) := by
  obtain ⟨ended, some'⟩ := unlocking_all (s := a)
  have same := terminateAll_ordinary (s := a)
  obtain ⟨slots, banks, failed, port⟩ := unlocking_fields ended
  generalize terminateAll a = u at sec some' same slots banks failed port
  obtain ⟨kSlots, kBanks, kFailed⟩ := openedSec_fields { u.sec with opening := true }
  have tSlots := congrArg Sec.slots sec
  have tBanks := congrArg (fun x : Sec => x.flash.banks) sec
  have tFailed := congrArg Sec.failedUnlocks sec
  refine ⟨tFailed.trans (kFailed.trans failed), tBanks.trans (kBanks.trans banks), tSlots.trans (kSlots.trans slots), fun none ordinary => ?_,
    fun p hp secret => ?_⟩
  · obtain rfl := same ordinary
    have opens : portOpened { u.sec with opening := true } = { u.sec with opening := false, debugOpen := true } := if_pos (by simp [none])
    rw [opens] at sec
    have tPort := congrArg Sec.debugOpen sec
    have tOpening := congrArg Sec.opening sec
    exact ⟨tPort, tOpening⟩
  · have left := some' ⟨p, List.mem_range.mpr hp, secret⟩
    have shut : portOpened { u.sec with opening := true } = { u.sec with opening := true } := if_neg (by simp [left])
    rw [shut] at sec
    have tPort := congrArg Sec.debugOpen sec
    have tOpening := congrArg Sec.opening sec
    exact ⟨tPort.trans port, tOpening⟩

/-- What an UNLOCK with a valid token leaves, before it ends. -/
theorem doUnlock_facts (token : List Byte) : (s.doUnlock token).sec.failedUnlocks = s.sec.failedUnlocks ∧
    (s.doUnlock token).sec.flash.banks = s.sec.flash.banks ∧
    (s.doUnlock token).slotValue 6 = sha3 (toBytes 32 (s.slotValue 6).toNat ++ toBytes 32 (sha3 token).toNat) ∧
    (s.sec.terminating = [] → (∀ p, p < 8 → s.confidential p = false) → (s.doUnlock token).sec.debugOpen = true ∧ (s.doUnlock token).sec.opening = false) ∧
    (∀ p, p < 8 → s.confidential p = true → (s.doUnlock token).sec.debugOpen = s.sec.debugOpen ∧ (s.doUnlock token).sec.opening = true) := by
  have sec := doUnlock_sec (s := s) token
  obtain ⟨slot, banks, failed, port, confidential, waits⟩ := tokenTaken_facts (s := s) token
  generalize s.doUnlock token = t at sec ⊢
  generalize s.dropKeys.extend 6 (sha3 token) = a at sec slot banks failed port confidential waits
  obtain ⟨tFailed, tBanks, tSlots, opens, waiting⟩ := opened_facts sec
  rw [slotValue_congr tSlots 6, ← waits, ← port]
  exact ⟨tFailed.trans failed, tBanks.trans banks, slot, fun none ordinary => opens none fun p hp => (confidential p).trans (ordinary p hp),
    fun p hp secret => waiting p hp ((confidential p).trans secret)⟩

/-- UNLOCK with a valid token. -/
theorem unlock_opens (busy : s.sec.busy = true) (op : s.sec.op = some o) (six : o.op = 6) (valid : s.tokenStatus o body = 0)
    (few : s.sec.failedUnlocks < 16) : Completes (.secOperationComplete body sig flashOk) s (fun t =>
      t.sec.busy = false ∧ t.sec.status = 0 ∧ t.sec.failedUnlocks = s.sec.failedUnlocks ∧ t.sec.flash.banks = s.sec.flash.banks ∧
      t.slotValue 6 = sha3 (toBytes 32 (s.slotValue 6).toNat ++ toBytes 32 (sha3 (body.getD [])).toNat) ∧
      (s.sec.terminating = [] → (∀ p, p < 8 → s.confidential p = false) → t.sec.debugOpen = true ∧ t.sec.opening = false) ∧
      (∀ p, p < 8 → s.confidential p = true → t.sec.debugOpen = s.sec.debugOpen ∧ t.sec.opening = true)) := by
  have result : s.secResult body sig flashOk = (s.doUnlock (body.getD []), 0) := by
    rw [secResult_unlock op six]
    have status : (if 16 ≤ s.sec.failedUnlocks then 0x08 else s.tokenStatus o body) = 0 := (if_neg (by omega)).trans valid
    exact if_pos status
  have run : execSecOperationComplete body sig flashOk s = .next (secEnded (s.doUnlock (body.getD []), 0)) := by rw [exec_sec_ends busy, result]
  obtain ⟨failed, banks, slot, ordinary, secret⟩ := doUnlock_facts (s := s) (body.getD [])
  generalize s.doUnlock (body.getD []) = u at run failed banks slot ordinary secret
  obtain ⟨idle, -, status⟩ := secEnded_status (u, 0)
  have left := secEnded_left (u, 0)
  refine completes_next run ⟨idle, status, left.failed.trans failed, (congrArg Flash.banks left.flash).trans banks, ?_, ?_, ?_⟩
  · exact (slotValue_congr left.slots 6).trans slot
  · rw [left.debugOpen, left.opening]
    exact ordinary
  · rw [left.debugOpen, left.opening]
    exact secret

/-! ### LIBRARY_LOAD (06 R191) -/

theorem exec_libraryLoad_waits {image : List Byte} (h : s.sec.loading = false ∨ s.engines.any (fun e => e.2.busy) = true) :
    execLibraryLoad image s = .next s := congrArg Host.Outcome.next (if_pos (by obtain h | h := h <;> simp [h]))

/-- The library that the engines hold, from the one that flash names. -/
def libraryTaken (s : State) (r : Library ⊕ Nat) (image : List Byte) : State :=
  match r with
  | .inr _ => s
  | .inl l => ({ s with sec := { s.sec with library := some l } }).extend 3 (sha3 image)

/-- The load is over, and the held packets are released. -/
def loadEnded (t : State) : State := (List.range 16).foldl State.releaseHeld { t with sec := { t.sec with loading := false } }

theorem exec_libraryLoad (loading : s.sec.loading = true) (still : s.engines.any (fun e => e.2.busy) = false) :
    execLibraryLoad s.sec.flash.lib s = .next (loadEnded (libraryTaken s (s.sec.flash.checkLibrary s.sec.flash.lib) s.sec.flash.lib)) := by
  unfold execLibraryLoad
  refine congrArg Host.Outcome.next ((if_neg (by simp [loading, still])).trans ?_)
  unfold loadEnded libraryTaken
  cases s.sec.flash.checkLibrary s.sec.flash.lib <;> rfl

theorem loadEnded_facts : (loadEnded t).sec = { t.sec with loading := false } ∧ (loadEnded t).regs = t.regs := by
  have released : Only [.out, .stackTab, .engines, .parts, .intr] { t with sec := { t.sec with loading := false } } (loadEnded t) :=
    only_foldl _ (only_refl _ _) fun _ _ h => only_releaseHeld (within_refl _) _ h
  exact ⟨released.same .sec (by simp), released.same .regs (by simp)⟩

theorem library_load (loading : s.sec.loading = true) (still : s.engines.any (fun e => e.2.busy) = false) :
    Completes (.libraryLoad s.sec.flash.lib) s (fun t => t.sec.loading = false ∧ t.regs = s.regs ∧
      (∀ l, s.sec.flash.checkLibrary s.sec.flash.lib = .inl l → t.sec.library = some l ∧ t.slotValue 3 =
        sha3 (toBytes 32 (s.slotValue 3).toNat ++ toBytes 32 (sha3 s.sec.flash.lib).toNat)) ∧
      (∀ st, s.sec.flash.checkLibrary s.sec.flash.lib = .inr st → t.sec.library = s.sec.library ∧ t.sec.slots = s.sec.slots)) := by
  have run := exec_libraryLoad loading still
  obtain ⟨sec, regs⟩ := loadEnded_facts (t := libraryTaken s (s.sec.flash.checkLibrary s.sec.flash.lib) s.sec.flash.lib)
  cases check : s.sec.flash.checkLibrary s.sec.flash.lib with
  | inl l =>
    rw [check] at run sec regs
    refine completes_next run ⟨congrArg Sec.loading sec, regs, fun k hk => ?_, fun st h => nomatch h⟩
    obtain rfl := Sum.inl.inj hk
    have slots := congrArg Sec.slots sec
    refine ⟨congrArg Sec.library sec, ?_⟩
    rw [slotValue_congr (u := libraryTaken s (.inl l) s.sec.flash.lib) slots 3]
    exact extend_same (s := { s with sec := { s.sec with library := some l } }) 3 _
  | inr st =>
    rw [check] at run sec regs
    have library := congrArg Sec.library sec
    have slots := congrArg Sec.slots sec
    exact completes_next run ⟨congrArg Sec.loading sec, regs, fun l h => (nomatch h), fun k _ => ⟨library, slots⟩⟩

end

/-- Settles O44: each operation begins alone, ends with the result of its kind, and the library is loaded once no run is left. -/
theorem securityOperationsBeginAndEnd : Obligations.SecurityOperationsBeginAndEnd := by
  unfold Obligations.SecurityOperationsBeginAndEnd
  refine ⟨fun fn s arg fresh hf serves bar => ?_, fun s body sig flashOk => ?_, fun s o body sig busy op => ?_, fun s image h => ?_,
    fun s loading still => library_load loading still⟩
  · intro ops begun good
    refine ⟨fun idle => ⟨fun i k member => ?_, fun drawn => ?_, fun bad => ?_⟩, fun busy => ⟨fun i k member => ?_, ?_⟩⟩
    · exact completes_next (exec_secOps member) (secStart_begins hf serves bar idle k)
    · exact completes_next (exec_nonce_drawn hf serves bar idle drawn) rfl
    · exact completes_next (exec_nonce_refused hf serves bar idle bad) rfl
    · exact completes_next (exec_secOps member) (secStart_busy busy k)
    · exact completes_next (exec_nonce_busy busy) rfl
  · exact ⟨fun idle => completes_next (exec_sec_idle idle) rfl, sec_lost, fun o busy op one => sec_nonce busy op one⟩
  · intro f ends secs
    refine ⟨fun bs two some' long low high => ?_, fun v three target zero running => commit_floor target zero running busy op three,
      fun h least most rights who low high => enrol_revoke busy op h ⟨least, most, rights, who, low, high⟩,
      fun six bad => unlock_refused busy op six bad, fun six valid few => unlock_opens busy op six valid few⟩
    refine ⟨fun target => update_image busy op two some' ⟨long, low, high⟩ target, fun target => ?_, fun target => ?_, fun target => ?_⟩
    · exact (update_library busy op two some' ⟨long, low, high⟩ target).1
    · exact (update_library busy op two some' ⟨long, low, high⟩ target).2.1
    · exact (update_library busy op two some' ⟨long, low, high⟩ target).2.2
  · exact completes_next (exec_libraryLoad_waits h) rfl

end Sys2Proof.Proofs
end

section
/-! PROOF of messages, TDI moves and the debug port (O45) -/

namespace Sys2Proof.Proofs

open Sys2Proof Sys2Proof.Machine Sys2Proof.Laws

section

variable {s t : State} {bs : List Byte} {nonce : BitVec 256}

/-! ### Messages of the DOE mailbox (16 R393, R395, R403, R407, R412) -/

/-- What a message that arrives leaves: line 59, in the interrupt controller alone. -/
theorem doeHeard_only : Only [.intr] s s.doeHeard := by
  unfold State.doeHeard
  split
  · exact only_latch (within_refl _) 59 (only_refl _ s)
  · exact only_refl _ s

theorem doeHeard_sec : s.doeHeard.sec = s.sec := doeHeard_only.same .sec (by simp)

theorem doeHeard_serves : s.doeHeard.secServes = s.secServes := by
  have module : s.doeHeard.module = s.module := doeHeard_only.same .module (by simp)
  unfold State.secServes State.powered
  rw [doeHeard_sec, module]

theorem doeHeard_fn (k : Nat) : s.doeHeard.fn k = s.fn k := by
  have fns : s.doeHeard.fns = s.fns := doeHeard_only.same .fns (by simp)
  unfold State.fn
  rw [fns]

theorem doeHeard_part (k : Nat) : s.doeHeard.part k = s.part k := by
  have parts : s.doeHeard.parts = s.parts := doeHeard_only.same .parts (by simp)
  unfold State.part
  rw [parts]

theorem doeHeard_line (running : s.module.electrical = .running) : (s.doeHeard.icLine 59).pending = true := by
  have heard : s.doeHeard = s.latch 59 := if_pos running
  rw [heard]
  exact latch_pendingLine 59

/-- An UNLOCK is under way. -/
def unlockRuns (s : State) : Bool := s.sec.opening || (match s.sec.op with
  | some o => o.op == 6
  | none => false)

theorem unlockRuns_false (shut : s.sec.opening = false) (other : ∀ o, s.sec.op = some o → o.op ≠ 6) : unlockRuns s = false := by
  unfold unlockRuns
  rw [shut]
  cases op : s.sec.op with
  | none => rfl
  | some o => simp [other o op]

theorem unlockRuns_true (h : s.sec.opening = true ∨ ∃ o, s.sec.op = some o ∧ o.op = 6) : unlockRuns s = true := by
  unfold unlockRuns
  obtain h | ⟨o, op, six⟩ := h
  · rw [h]
    rfl
  · simp [op, six]

section

variable (serves : s.secServes = true)

include serves

theorem exec_getMeasurements_unknown {index : BitVec 8} (unknown : reportOf index.toNat = none) :
    execGetMeasurements index nonce s = .next (s.doeHeard.answerDoe 0x7F (toBytes 1 index.toNat)) := by
  unfold execGetMeasurements
  dsimp only
  rw [doeHeard_serves, if_neg (by simp [serves]), unknown]

theorem exec_getMeasurements {index : BitVec 8} {p : Option Nat} (known : reportOf index.toNat = some p) :
    execGetMeasurements index nonce s = .next (if unlockRuns s then
      { s.doeHeard with sec := { s.doeHeard.sec with waitingReports := s.doeHeard.sec.waitingReports ++ [(index.toNat, nonce)] } }
      else s.doeHeard.sendReport p nonce) := by
  have runs : unlockRuns s.doeHeard = unlockRuns s := by
    unfold unlockRuns
    rw [doeHeard_sec]
  unfold execGetMeasurements
  dsimp only
  rw [doeHeard_serves, if_neg (by simp [serves]), known, ← runs]
  rfl

theorem exec_getCertificate (k : Nat) : execGetCertificate k s = .next (if k = 0 then
    s.doeHeard.emit (.doe (Config.certificateChain s.sec.bootId [s.slotValue 0, s.slotValue 1, s.slotValue 2]))
    else s.doeHeard.answerDoe 0x7F (toBytes 1 k)) := by
  have slot (i : Nat) : s.doeHeard.slotValue i = s.slotValue i := slotValue_congr (congrArg Sec.slots doeHeard_sec) i
  unfold execGetCertificate
  dsimp only
  rw [doeHeard_serves, if_neg (by simp [serves]), slot, slot, slot, doeHeard_sec]

theorem exec_challenge : execChallenge bs s = .next (s.doeHeard.emit (.doe (Config.protocolAnswer 0x03 bs ++ Config.sign 1 bs))) := by
  unfold execChallenge
  dsimp only
  rw [doeHeard_serves, if_pos serves]

theorem exec_keyExchange : execKeyExchange bs s =
    .next (({ s.doeHeard with sec := { s.doeHeard.sec with spdm := true } }).answerDoe 0x64 bs) := by
  unfold execKeyExchange
  dsimp only
  rw [doeHeard_serves, if_pos serves]

theorem exec_ideKeyProgram {fn : FnId} (spdm : s.sec.spdm = true) : execIdeKeyProgram fn bs s =
    .next ((s.doeHeard.modFn fn.val (fun x => { x with ide := true })).answerDoe 0x00 bs) := by
  unfold execIdeKeyProgram
  dsimp only
  rw [doeHeard_serves, doeHeard_sec, if_pos (by simp [serves, spdm])]

theorem exec_interfaceReport {fn : FnId} (virtual : fn.val ≠ 0) : execGetDeviceInterfaceReport fn nonce s =
    .next (s.doeHeard.emit (.doe (s.doeHeard.report (some (fn.val - 1)) nonce))) := by
  unfold execGetDeviceInterfaceReport
  dsimp only
  rw [doeHeard_serves, if_pos (by simp [serves, virtual])]

/-- The stream keys of a function, and the answer. -/
theorem ideKeyProgram_facts {fn : FnId} (spdm : s.sec.spdm = true) : Completes (.ideKeyProgram fn bs) s (fun t =>
    t.fn fn = { s.fn fn with ide := true } ∧ (∀ k, k ≠ fn.val → t.fn k = s.fn k) ∧
    t = { s.doeHeard with fns := t.fns, out := s.doeHeard.out ++ [.doe (Config.protocolAnswer 0x00 bs)] }) := by
  refine completes_next (exec_ideKeyProgram serves spdm) ⟨?_, fun k hk => ?_, rfl⟩
  · have mine := modFn_fn_same s.doeHeard fn (fun x => { x with ide := true })
    rw [doeHeard_fn] at mine
    exact mine
  · have others := modFn_fn_ne s.doeHeard fn (fun x => { x with ide := true }) k hk
    exact others.trans (doeHeard_fn k)

/-- Measurements are answered, or wait for the end of an UNLOCK. -/
theorem getMeasurements_facts (index : BitVec 8) :
    (reportOf index.toNat = none → Completes (.getMeasurements index nonce) s (fun t => t = s.doeHeard.answerDoe 0x7F (toBytes 1 index.toNat))) ∧
    (∀ p, reportOf index.toNat = some p →
      (s.sec.opening = false → (∀ o, s.sec.op = some o → o.op ≠ 6) → Completes (.getMeasurements index nonce) s (fun t =>
        t = { s.doeHeard with out := s.doeHeard.out ++ [.doe (s.doeHeard.report p nonce ++ Config.sign 1 (s.doeHeard.report p nonce))] })) ∧
      (s.sec.opening = true ∨ (∃ o, s.sec.op = some o ∧ o.op = 6) → Completes (.getMeasurements index nonce) s (fun t =>
        t = { s.doeHeard with sec := { s.doeHeard.sec with waitingReports := s.doeHeard.sec.waitingReports ++ [(index.toNat, nonce)] } }))) := by
  refine ⟨fun unknown => completes_next (exec_getMeasurements_unknown serves unknown) rfl, fun p known => ⟨fun shut other => ?_, fun runs => ?_⟩⟩
  · refine completes_next (exec_getMeasurements serves known) ?_
    rw [unlockRuns_false shut other]
    rfl
  · refine completes_next (exec_getMeasurements serves known) ?_
    rw [unlockRuns_true runs]
    rfl

end

/-- A message that is not served has no answer. -/
theorem exec_doe_unserved (dumb : s.secServes = false) {i : Instr} (member : i ∈ [Instr.getMeasurements 1 nonce, .getCertificate 0, .challenge bs,
    .keyExchange bs, .ideKeyProgram 1 bs, .getDeviceInterfaceReport 1 nonce]) : exec i s = .next s.doeHeard := by
  have silent : s.doeHeard.secServes = false := doeHeard_serves.trans dumb
  simp only [List.mem_cons, List.not_mem_nil, or_false] at member
  obtain rfl | rfl | rfl | rfl | rfl | rfl := member
  · exact congrArg Host.Outcome.next (if_pos (by simp [silent]))
  · exact congrArg Host.Outcome.next (if_pos (by simp [silent]))
  · exact congrArg Host.Outcome.next (if_neg (by simp [silent]))
  · exact congrArg Host.Outcome.next (if_neg (by simp [silent]))
  · exact congrArg Host.Outcome.next (if_neg (by simp [silent]))
  · exact congrArg Host.Outcome.next (if_neg (by simp [silent]))

/-! ### TDISP (16 R407, R408) -/

variable {fn : FnId}

theorem doeHeard_tdisp (k : Nat) : s.doeHeard.tdisp k = s.tdisp k := by
  have present : s.doeHeard.present k = s.present k := by
    have module : s.doeHeard.module = s.module := doeHeard_only.same .module (by simp)
    unfold State.present
    rw [module]
  unfold State.tdisp
  rw [doeHeard_serves, doeHeard_sec, present]

/-- The change of a TDI, seen from its slot. -/
theorem setTdi_facts (n : Nat) (m : TdiMode) : OnlyPart (n - 1) s (s.setTdi n m) ∧ (s.setTdi n m).part (n - 1) = { s.part (n - 1) with tdi := m } :=
  ⟨⟨rfl, fun k hk => modPart_part_ne s (n - 1) _ k hk⟩, modPart_part_same s (n - 1) _⟩

theorem exec_tdiLock (h : s.tdisp fn.val = true) (tdi : (s.part (fn.val - 1)).tdi = .unlocked) :
    execTdiLock fn s = .next (s.doeHeard.setTdi fn .locked) := by
  refine congrArg Host.Outcome.next (if_pos ?_)
  rw [doeHeard_tdisp, doeHeard_part]
  exact ⟨h, tdi⟩

theorem exec_tdiLock_ignored (h : s.tdisp fn.val = false ∨ (s.part (fn.val - 1)).tdi ≠ .unlocked) : execTdiLock fn s = .next s.doeHeard := by
  refine congrArg Host.Outcome.next (if_neg ?_)
  rw [doeHeard_tdisp, doeHeard_part]
  rintro ⟨served, tdi⟩
  obtain h | h := h
  · simp [h] at served
  · exact h tdi

theorem exec_tdiRun (h : s.tdisp fn.val = true) (tdi : (s.part (fn.val - 1)).tdi = .locked) :
    execTdiRun fn s = .next (s.doeHeard.setTdi fn .running) := by
  refine congrArg Host.Outcome.next (if_pos ?_)
  rw [doeHeard_tdisp, doeHeard_part]
  exact ⟨h, tdi⟩

theorem exec_tdiRun_ignored (h : s.tdisp fn.val = false ∨ (s.part (fn.val - 1)).tdi ≠ .locked) : execTdiRun fn s = .next s.doeHeard := by
  refine congrArg Host.Outcome.next (if_neg ?_)
  rw [doeHeard_tdisp, doeHeard_part]
  rintro ⟨served, tdi⟩
  obtain h | h := h
  · simp [h] at served
  · exact h tdi

theorem tdi_moves (n : Nat) (m : TdiMode) : OnlyPart (n - 1) s.doeHeard (s.doeHeard.setTdi n m) ∧
    (s.doeHeard.setTdi n m).part (n - 1) = { s.part (n - 1) with tdi := m } := by
  obtain ⟨only, mine⟩ := setTdi_facts (s := s.doeHeard) n m
  rw [doeHeard_part] at mine
  exact ⟨only, mine⟩

theorem exec_tdiError (virtual : fn.val ≠ 0) (tdi : (s.part (fn.val - 1)).tdi = .locked ∨ (s.part (fn.val - 1)).tdi = .running) :
    execTdiError fn s = .next ((s.setTdi fn .error).terminate (fn.val - 1) 2) := congrArg Host.Outcome.next (if_pos ⟨virtual, tdi⟩)

theorem exec_tdiError_ignored (h : (s.part (fn.val - 1)).tdi ≠ .locked) (g : (s.part (fn.val - 1)).tdi ≠ .running) :
    execTdiError fn s = .next s := congrArg Host.Outcome.next (if_neg (by simp [h, g]))

theorem setTdi_confidential (n : Nat) (m : TdiMode) : (s.setTdi n m).confidential (n - 1) = s.confidential (n - 1) := by
  obtain ⟨-, mine⟩ := setTdi_facts (s := s) n m
  have mode := congrArg Part.mode mine
  have applied := congrArg Part.applied mine
  exact confidential_of_part mode applied

/-- A confidential partition whose TDI fails is terminated (R408). -/
theorem tdiError_terminates (virtual : fn.val ≠ 0) (tdi : (s.part (fn.val - 1)).tdi = .locked ∨ (s.part (fn.val - 1)).tdi = .running)
    (secret : s.confidential (fn.val - 1) = true) (alone : ∀ e, e ∈ s.sec.terminating → e.1 ≠ fn.val - 1) :
    Completes (.tdiError fn) s (fun t => (t.part (fn.val - 1)).tdi = .error ∧ (t.part (fn.val - 1)).mode = .releasing ∧
      t.sec.terminating = s.sec.terminating ++ [(fn.val - 1, 2)] ∧ bitAt t.sec.memKeys (fn.val - 1) = false ∧ t.liveJobs (fn.val - 1) = [] ∧
      t.regs = s.regs) := by
  have run := exec_tdiError virtual tdi
  have error : ((s.setTdi fn .error).part (fn.val - 1)).tdi = .error := congrArg Part.tdi (setTdi_facts fn .error).2
  have regs : (s.setTdi fn .error).regs = s.regs := rfl
  have sec : (s.setTdi fn .error).sec = s.sec := rfl
  have confidential := (setTdi_confidential fn .error).trans secret
  generalize s.setTdi fn .error = u at run error regs sec confidential
  obtain ⟨l, dead, terminated⟩ := ending_terminate confidential (by rwa [sec]) 2
  obtain ⟨-, regs', sec', -, mode, failed, -, jobs⟩ := ending_fields terminated
  refine completes_next run ⟨?_, mode, ?_, ?_, ?_, regs'.trans regs⟩
  · have still : failedTdi (u.part (fn.val - 1)).tdi = .error := by rw [error]; rfl
    exact failed.trans still
  · rw [(wearless_fields sec').1, ← sec]
    rfl
  · rw [(wearless_fields sec').2]
    exact bitAt_setFld_clear _ (by have := fn.isLt; omega)
  · rw [State.liveJobs, jobs, dead]

theorem tdiError_ordinary (virtual : fn.val ≠ 0) (tdi : (s.part (fn.val - 1)).tdi = .locked ∨ (s.part (fn.val - 1)).tdi = .running)
    (ordinary : s.confidential (fn.val - 1) = false) : Completes (.tdiError fn) s (fun t => OnlyPart (fn.val - 1) s t ∧
      t.part (fn.val - 1) = { s.part (fn.val - 1) with tdi := .error }) := by
  have run := exec_tdiError virtual tdi
  rw [terminate_ordinary ((setTdi_confidential fn .error).trans ordinary)] at run
  exact completes_next run (setTdi_facts fn .error)

/-! ### The debug port (16 R411; 00 R7) -/

variable {off : BitVec 23} {v : W64}

theorem exec_tap_closed (closed : s.tapOpen = false) {i : Instr} (member : i ∈ [Instr.bypass, .idcode, .dbgInstruction true off none,
    .dbgInstruction false off (some v), .dbgInstruction false off none]) : exec i s = .next s := by
  simp only [List.mem_cons, List.not_mem_nil, or_false] at member
  obtain rfl | rfl | rfl | rfl | rfl := member
  · exact congrArg Host.Outcome.next (if_neg (by simp [closed]))
  · exact congrArg Host.Outcome.next (if_neg (by simp [closed]))
  · exact congrArg Host.Outcome.next (if_pos (by simp [closed]))
  · exact congrArg Host.Outcome.next (if_pos (by simp [closed]))
  · exact congrArg Host.Outcome.next (if_pos (by simp [closed]))

section

variable (open' : s.tapOpen = true)

include open'

theorem exec_bypass : execBypass s = .next { s with sec := { s.sec with tapInstr := 0, bypassBit := false } } :=
  congrArg Host.Outcome.next (if_pos open')

theorem exec_idcode : execIdcode s = .next { s with
    sec := { s.sec with tapInstr := 1 }, out := s.out ++ [.jtag (BitVec.ofNat 64 Config.idcode.toNat)] } :=
  congrArg Host.Outcome.next (if_pos open')

theorem exec_dbgReset (value : Option W64) : execDbgInstruction true off value s = .next { s with sec := { s.sec with tapInstr := 1 } } :=
  congrArg Host.Outcome.next (if_neg (by simp [open']))

theorem exec_dbgRead : execDbgInstruction false off none s = .next { s with
    sec := { s.sec with tapInstr := 2 }, out := s.out ++ [.jtag (Tab.get (fun _ => 0) s.sec.dbg off.toNat)] } :=
  congrArg Host.Outcome.next (if_neg (by simp [open']))

theorem exec_dbgWrite : execDbgInstruction false off (some v) s = .next { s with
    sec := { s.sec with tapInstr := 2, dbg := Tab.set (fun _ => 0) s.sec.dbg off.toNat v } } :=
  congrArg Host.Outcome.next (if_neg (by simp [open']))

end

end

/-- Settles O45: messages, TDI moves and the debug port, each by what serves it. -/
theorem identityInterfacesAndDebugPortAnswer : Obligations.IdentityInterfacesAndDebugPortAnswer := by
  unfold Obligations.IdentityInterfacesAndDebugPortAnswer
  refine ⟨fun s nonce bs => ?_, fun fn s => ?_, fun s off v => ⟨fun open' => ?_, fun closed i member => ?_⟩⟩
  · intro h
    refine ⟨doeHeard_line, fun serves => ⟨getMeasurements_facts serves, ?_, fun k hk => ?_, ?_, ?_, fun fn spdm => ideKeyProgram_facts serves spdm,
      fun fn virtual => ?_⟩, fun dumb i member => completes_next (exec_doe_unserved dumb member) rfl⟩
    · exact completes_next (exec_getCertificate serves 0) rfl
    · exact completes_next (exec_getCertificate serves k) (if_neg hk)
    · exact completes_next (exec_challenge serves) rfl
    · exact completes_next (exec_keyExchange serves) rfl
    · exact completes_next (exec_interfaceReport serves virtual) rfl
  · intro p h
    refine ⟨fun served tdi => ?_, fun ignored => ?_, fun served tdi => ?_, fun ignored => ?_, fun virtual tdi => ⟨fun ordinary => ?_, fun secret alone => ?_⟩,
      fun unlocked stopped => ?_⟩
    · exact completes_next (exec_tdiLock served tdi) (tdi_moves _ _)
    · exact completes_next (exec_tdiLock_ignored ignored) rfl
    · exact completes_next (exec_tdiRun served tdi) (tdi_moves _ _)
    · exact completes_next (exec_tdiRun_ignored ignored) rfl
    · exact tdiError_ordinary virtual tdi ordinary
    · exact tdiError_terminates virtual tdi secret alone
    · exact completes_next (exec_tdiError_ignored unlocked stopped) rfl
  · exact ⟨completes_next (exec_bypass open') rfl, completes_next (exec_idcode open') rfl, fun value => completes_next (exec_dbgReset open' value) rfl,
      completes_next (exec_dbgWrite open') ⟨rfl, tab_get_set_same _ _ _ _, fun k hk => tab_get_set_ne _ _ _ _ _ hk⟩,
      completes_next (exec_dbgRead open') rfl⟩
  · exact completes_next (exec_tap_closed closed member) rfl

end Sys2Proof.Proofs
end
